-- ==== Sys2Proof/Word.lean ====
section
/-!
DEFINITION. Sys2Proof/Word.lean: the word types of the part and their plainest arithmetic. A register is 32 bits (R9).
-/

namespace Sys2Proof

/-- A Towpath register word (R9). -/
abbrev Word := BitVec 32

/-- One byte of memory. -/
abbrev Byte := BitVec 8

/-- The word of a natural number, modulo 2^32. -/
abbrev word (n : Nat) : Word := BitVec.ofNat 32 n

/-- One as a number when the condition holds, else zero. -/
def b2n (b : Bool) : Nat := if b then 1 else 0

/-- Division rounding up. -/
def ceilDiv (a b : Nat) : Nat := (a + b - 1) / b

/-- The number brought into `lo` to `hi`. -/
def clampNat (lo hi v : Nat) : Nat := if v < lo then lo else if hi < v then hi else v

/-- The signed value of the low `w` bits of `n` (two's complement). -/
def signedOf (w n : Nat) : Int :=
  let m := n % 2 ^ w
  if m < 2 ^ (w - 1) then (m : Int) else (m : Int) - 2 ^ w

/-- The low `w` bits of a signed value (two's complement). -/
def bitsOf (w : Nat) (x : Int) : Nat := (x % (2 ^ w : Int)).toNat

/-- A signed value brought into the range of `w` bits. -/
def satTo (w : Nat) (x : Int) : Int :=
  if x < -(2 ^ (w - 1) : Int) then -(2 ^ (w - 1) : Int)
  else if (2 ^ (w - 1) : Int) - 1 < x then (2 ^ (w - 1) : Int) - 1 else x

end Sys2Proof
end

