-- ==== Sys2Proof/Syntax.lean ====
section
/-!
DEFINITION. Sys2Proof/Syntax.lean: the commands of the block, one constructor per row of spec/opcode_table.json, and the
operands they carry. An operand is what the row's sender gives (the initiator of a register access, the value written, a
host's command fields) or what the world outside the part gives it at that step (bytes read from the boot flash, a
measured voltage, a sample, a received frame, the outcome of a check on the media).
-/

namespace Sys2Proof

/-- The Towpath initiators of R24. -/
inductive Initiator where
  | port
  | media
  | keystone
  | str (n : Fin 12)
  | sideband
deriving DecidableEq, Repr

/-- The privilege mode of a Flagstone access; other initiators use `machine`. -/
inductive Priv where
  | machine
  | supervisor
  | user
deriving DecidableEq, Repr

/-- A core that stops an access itself (R481). -/
inductive Core where
  | flagstone (h : Fin 4)
  | keystone
deriving DecidableEq, Repr

/-- What a Flagstone access is for. -/
inductive AccessKind where
  | fetch
  | load
  | store
deriving DecidableEq, Repr

/-- The clock islands of R18. -/
inductive Island where
  | flagstone
  | strata (n : Fin 12)
  | lode (n : Fin 8)
  | quarry
  | bedrock
  | basalt
  | serdes (g : Fin 2)
  | causeway
  | ballast
deriving DecidableEq, Repr

/-- The device reset sources of R69. -/
inductive RstCause where
  | powerOn
  | pin
  | keyCmd
  | sideband
  | keyWdog
deriving DecidableEq, Repr

/-- The atomic operations of a Flagstone core (the part list of 00_scope.md: RV64GC, hence the A extension). -/
inductive AmoOp where
  | swap | add | xor | and | or | min | max | minu | maxu | lr | sc
deriving DecidableEq, Repr

/-- SAS task attributes (R92, R139). -/
inductive TaskAttr where
  | simple
  | ordered
  | head
deriving DecidableEq, Repr

/-- A host command as the group decodes it: what it writes into a context (R132), and what R127 gives beside that. -/
structure HostCmd where
  tenant : Nat
  queue : Nat
  tag : Nat
  opcode : Nat
  fua : Bool
  target : Nat
  granOfs : Nat
  granCnt : Nat
  dptr : Nat
  p1 : Nat := 0
  flg : Nat := 0
  attr : TaskAttr := .simple
  /-- Bytes the host asks of a command that drive firmware answers. -/
  want : Nat := 0
deriving DecidableEq, Repr

/-- SAS task management functions (R92). -/
inductive TaskFn where
  | abortTask
  | abortTaskSet
  | clearTaskSet
  | logicalUnitReset
  | itNexusReset
  | queryTask
deriving DecidableEq, Repr

/-- The PEC byte of an SMBus write (R110). -/
inductive Pec where
  | absent
  | good
  | bad
deriving DecidableEq, Repr

/-- A command that changes a reservation (R102), in either protocol. -/
inductive ResOp where
  | register (key : Nat)
  | reserve (key kind : Nat)
  | release (key : Nat)
  | clear (key : Nat)
  | preempt (key old kind : Nat)
deriving DecidableEq, Repr

/-- What a survey finds of one sector (R161): recovered at a step of the retry ladder, or not recovered. -/
inductive SurveyOutcome where
  | recovered (step : Nat)
  | unread
deriving DecidableEq, Repr


/-- A quantity of the three phases U, V and W. -/
structure Phases where
  u : Int
  v : Int
  w : Int
deriving DecidableEq, Repr

/-- What a granule of on-chip SRAM holds, where an error in it is more than a count: a key slot, the patch memory or nano-store of
a sequencer, or data or tag of the Shale line of an HBM line (R359, R360, R400, R422). -/
inductive SramSpot where
  | plain
  | key (k : Fin 4096)
  | store (n : Fin 12)
  | line (l : BitVec 27)
  | tag (l : BitVec 27)
deriving DecidableEq, Repr

/-- What restarts a sequencer (R400). -/
inductive RestartBy where
  | write (i : Initiator)
  | handlerFault
  | storeError
deriving DecidableEq, Repr

/-- A command of the block: one row of spec/opcode_table.json. -/
inductive Instr where
  /-- `REGISTER_WRITE` (R11): a write of `v` at Towpath offset `off`, `width` bits wide (R11, R14, R24) -/
  | registerWrite (i : Initiator) (p : Priv) (width off : Nat) (v : Word)
  /-- `LOAD_STORE_MISALIGNED` (R481): a load or store of `width` bytes at Towpath address `addr` (R481) -/
  | loadStoreMisaligned (c : Core) (store : Bool) (width addr : Nat)
  /-- `WIDE_TOWPATH_ACCESS` (R481): a Flagstone access of `width` bytes to Towpath (R481) -/
  | wideTowpathAccess (h : Fin 4) (store : Bool) (width addr : Nat)
  /-- `UNMAPPED_ACCESS_FAULT` (R29): an access of `width` bytes by a core at address `addr` of its map, `v` the value of a store (R29, R31, R132, R351) -/
  | unmappedAccessFault (c : Core) (kind : AccessKind) (width addr v : Nat)
  /-- `ATOMIC_ACCESS_FAULT` (R365): an atomic access of `width` bytes at `addr` with the operand `v` (R365, R132) -/
  | atomicAccessFault (h : Fin 4) (op : AmoOp) (width addr v : Nat)
  /-- `CROSSING_DELIVERY` (R21): the crossing from `src` to `dst` delivers a data-path or register request (R21 to R23) -/
  | crossingDelivery (src dst : Island) (data : Bool) (tag : Nat)
  /-- `CROSSING_HELD_RELEASE` (R23): the restarted island reports ready (R23) -/
  | crossingHeldRelease (dst : Island)
  /-- `POWER_ON_RESET` (R69): Ballast releases the SoC; the straps as sampled, and RST_N (R69, R72, R467) -/
  | powerOnReset (bootcfg sbAddr : Fin 4) (rstLow : Bool)
  /-- `PIN_RESET` (R70): RST_N held low for `lowNs` (R70, R71) -/
  | pinReset (lowNs : Nat)
  /-- `KEY_DEVICE_RESET` (R368): a write of KEY_DEV_RST (R368) -/
  | keyDeviceReset (i : Initiator) (v : Word)
  /-- `KEYSTONE_WATCHDOG_EXPIRY` (R368): Keystone's watchdog expires (R368) -/
  | keystoneWatchdogExpiry
  /-- `RESET_DEFER_EXPIRY` (R70): tRST_DEFER expires (R70) -/
  | resetDeferExpiry
  /-- `KENUL_SLOT_CHECK` (R64): a staged slot is checked; `img` is its bytes, byte k in bits 8k+7 to 8k (R64) -/
  | kenulSlotCheck (slotB : Bool) (img : Nat) (readErr : Bool)
  /-- `KENUL_APPLY` (R65): the chosen image is applied (R65) -/
  | kenulApply
  /-- `LOADER_CHECK` (R73): the loader of the applied slot is read and verified (R73) -/
  | loaderCheck (img : Nat) (readErr : Bool)
  /-- `FUSE_PROGRAM` (R76): SYS_FUSE_PGM with OP program; the main supply as judged (R75, R76) -/
  | fuseProgram (i : Initiator) (p : Priv) (unlock : Nat) (slot : Fin 4) (mainMv : Nat)
  /-- `FUSE_REVOKE` (R76): SYS_FUSE_PGM with OP revoke (R75, R76) -/
  | fuseRevoke (i : Initiator) (p : Priv) (unlock : Nat) (slot : Fin 4) (mainMv : Nat)
  /-- `FUSE_OP_DONE` (R76): a fuse operation ends; `matched`: the read-back matched (R76) -/
  | fuseOpDone (matched : Bool)
  /-- `MODE_REQ_SERVICE` (R80): SYS_MODE_REQ, TARGET Service (R77 to R80) -/
  | modeReqService (i : Initiator) (p : Priv)
  /-- `MODE_REQ_SURVEY` (R80): SYS_MODE_REQ, TARGET Survey -/
  | modeReqSurvey (i : Initiator) (p : Priv)
  /-- `MODE_REQ_MIGRATION` (R80): SYS_MODE_REQ, TARGET Migration -/
  | modeReqMigration (i : Initiator) (p : Priv)
  /-- `MODE_REQ_DORMANT` (R80): SYS_MODE_REQ, TARGET Dormant -/
  | modeReqDormant (i : Initiator) (p : Priv)
  /-- `MODE_REQ_HAVEN` (R79): SYS_MODE_REQ, TARGET Haven -/
  | modeReqHaven (i : Initiator) (p : Priv)
  /-- `MODE_REQ_BEDDING` (R80): SYS_MODE_REQ, TARGET Bedding -/
  | modeReqBedding (i : Initiator) (p : Priv)
  /-- `DORMANT_ENTRY_PROGRESS` (R80): the Dormant entry step that waited ends (R80) -/
  | dormantEntryProgress
  /-- `DORMANT_WAKE_EXPIRY` (R80): the Dormant wake timer expires (R80) -/
  | dormantWakeExpiry
  /-- `DORMANT_WORK_DONE` (R80): the due work of a wake is done (R80) -/
  | dormantWorkDone
  /-- `MODE_TRANSITION_COMPLETE` (R80): MEDIA is 1 in a Dormant-to-Service transition (R80) -/
  | modeTransitionComplete
  /-- `HAVEN_SETTLED` (R82): the last Haven entry step ends (R82) -/
  | havenSettled
  /-- `HELD_DATA_WRITE` (R83): the held staged data has been written to media (R83) -/
  | heldDataWrite
  /-- `LINK_TRAINED` (R88): a link, or SAS port, trains; `rate` and `width` are the partner's highest, `partner` its SAS address (R86, R88) -/
  | linkTrained (g port : Fin 2) (rate width partner : Nat)
  /-- `LINK_LOST` (R88): a link, or SAS port, is lost (R88, R104) -/
  | linkLost (g port : Fin 2)
  /-- `LINK_DISABLE` (R88): a HPx_LINK_CTL write with ENABLE 0 (R88) -/
  | linkDisable (i : Initiator) (g : Fin 2) (v : Word)
  /-- `HOST_SIDE_RESET` (R104): a host-side reset of group `g` (R103, R104) -/
  | hostSideReset (g : Fin 2)
  /-- `NVME_CONTROLLER_RESET` (R103): CC.EN written from 1 to 0 (R103) -/
  | nvmeControllerReset (g : Fin 2)
  /-- `NVME_DOORBELL_WRITE` (R106): a host write at BAR0 doorbell offset `ofs` (R106) -/
  | nvmeDoorbellWrite (g : Fin 2) (ofs : Nat) (v : Word)
  /-- `NVME_COMMAND_FETCH` (R91): the group fetches `entry`, 64 bytes, from the head of submission queue `sq` (R91, R99) -/
  | nvmeCommandFetch (g : Fin 2) (sq entry : Nat)
  /-- `NVME_FETCH_RESUME` (R91): a context is free again for a stalled group (R91) -/
  | nvmeFetchResume (g : Fin 2)
  /-- `SAS_COMMAND_FRAME` (R93): a SAS command frame arrives: LUN, task tag, tag-space index of its I_T nexus, task attribute and the CDB (R92, R93, R99) -/
  | sasCommandFrame (g port : Fin 2) (lun tag space : Nat) (attr : TaskAttr) (cdb : Nat)
  /-- `SAS_TASK_MANAGEMENT` (R92): a SAS task management function, on the I_T nexus of tag-space index `space` (R92, R103) -/
  | sasTaskManagement (g port : Fin 2) (fn : TaskFn) (lun tag space : Nat)
  /-- `SATA_COMMAND` (R95): a SATA or NCQ command arrives on group A (R95) -/
  | sataCommand (c : HostCmd)
  /-- `HOST_CONFIG_READ` (R105): a PCIe configuration read of the dword at `ofs` (R105) -/
  | hostConfigRead (g : Fin 2) (ofs : Nat)
  /-- `HOST_BAR0_READ` (R105): a BAR0 read of `dwords` dwords from `ofs` (R105) -/
  | hostBar0Read (g : Fin 2) (ofs dwords : Nat)
  /-- `HOST_CONFIG_WRITE` (R106): a posted configuration write (R106) -/
  | hostConfigWrite (g : Fin 2) (ofs : Nat) (v : Word)
  /-- `HOST_BAR0_WRITE` (R106): a posted BAR0 write of a dword (R106, R107) -/
  | hostBar0Write (g : Fin 2) (ofs : Nat) (v : Word)
  /-- `SHADOW_STAGE` (R108): a HPx_SHD_DATA write (R108) -/
  | shadowStage (i : Initiator) (g : Fin 2) (v : Word)
  /-- `SHADOW_READ` (R108): a HPx_SHD_RDATA read (R108) -/
  | shadowRead (i : Initiator) (g : Fin 2)
  /-- `SHADOW_COMMIT` (R108): HPx_SHD_COMMIT with GO (R108) -/
  | shadowCommit (i : Initiator) (g : Fin 2)
  /-- `SHADOW_DISCARD` (R108): HPx_SHD_COMMIT with DISCARD (R108) -/
  | shadowDiscard (i : Initiator) (g : Fin 2)
  /-- `SHADOW_COMMIT_EFFECT` (R108): a gap between request TLPs (R108) -/
  | shadowCommitEffect (g : Fin 2)
  /-- `INQUIRY` (R94): SAS INQUIRY (R92, R94) -/
  | inquiry (g : Fin 2) (tag : Nat) (evpd : Bool) (page : Nat)
  /-- `IDENTIFY_DEVICE` (R109): SATA IDENTIFY DEVICE (R95, R109) -/
  | identifyDevice (tag : Nat)
  /-- `NVME_IDENTIFY` (R90): NVMe Identify in context `k`; `data`: the 4,096 bytes drive firmware holds for another `cns` than Identify Namespace (R90, R118) -/
  | nvmeIdentify (k : Fin 65536) (cns data : Nat)
  /-- `NVME_GET_LOG_PAGE` (R457): Get Log Page in context `k`; page 0xC0 is built by the part, another page's `data` by drive firmware (R90, R457) -/
  | nvmeGetLogPage (k : Fin 65536) (lid : Nat) (data : List Nat)
  /-- `NAMESPACE_MANAGEMENT` (R118): Namespace Management in context `k`: drive firmware sets the capacity of tenant `t` + 1 (R118, R122) -/
  | namespaceManagement (k : Fin 65536) (t : Fin 256) (capacity : Nat)
  /-- `NAMESPACE_ATTACHMENT` (R118): Namespace Attachment in context `k` (R118) -/
  | namespaceAttachment (k : Fin 65536)
  /-- `FIRMWARE_IMAGE_DOWNLOAD` (R90): passed to drive firmware (R90) -/
  | firmwareImageDownload (k : Fin 65536)
  /-- `FIRMWARE_COMMIT` (R90): passed to drive firmware (R90) -/
  | firmwareCommit (k : Fin 65536)
  /-- `CREATE_IO_QUEUE` (R107): Create I/O Completion or Submission Queue, as the opcode and the dwords of the command say (R90, R107) -/
  | createIoQueue (k : Fin 65536)
  /-- `BLOCK_READ` (R120): a block read in context `k` under key slot `keySlot`; `cacheHit`: the read cache holds all of it (R84, R97, R120, R423) -/
  | blockRead (k keySlot : Fin 65536) (cacheHit : Bool)
  /-- `BLOCK_WRITE` (R121): a block write in context `k` with its data, under key slot `keySlot` (R121, R141, R157, R423) -/
  | blockWrite (k keySlot : Fin 65536) (data : Nat)
  /-- `NVME_FLUSH` (R138): NVMe Flush (R138) -/
  | nvmeFlush (k : Fin 65536)
  /-- `SYNCHRONIZE_CACHE` (R138): SYNCHRONIZE CACHE (16) (R138) -/
  | synchronizeCache (k : Fin 65536)
  /-- `FLUSH_CACHE_EXT` (R138): FLUSH CACHE EXT (R138) -/
  | flushCacheExt (k : Fin 65536)
  /-- `WRITE_ZEROES` (R121): Write Zeroes of the context's range (R121) -/
  | writeZeroes (k : Fin 65536)
  /-- `DEALLOCATE` (R121): Deallocate of (first sector, count) ranges (R121) -/
  | deallocate (k : Fin 65536) (ranges : List (Nat × Nat))
  /-- `BLOCK_VERIFY` (R120): Verify or VERIFY (16); `mediaOk`: every sector was read from media (R120) -/
  | blockVerify (k : Fin 65536) (mediaOk : Bool)
  /-- `COMPARE` (R120): NVMe Compare with host data, the sectors read under key slot `keySlot` (R84, R120) -/
  | compare (k keySlot : Fin 65536) (cacheHit : Bool) (data : Nat)
  /-- `READ_CAPACITY` (R118): READ CAPACITY (16) (R118) -/
  | readCapacity (k : Fin 65536)
  /-- `REPORT_LUNS` (R92): REPORT LUNS (R92, R100) -/
  | reportLuns (k : Fin 65536)
  /-- `TEST_UNIT_READY` (R92): TEST UNIT READY (R92, R97) -/
  | testUnitReady (k : Fin 65536)
  /-- `REQUEST_SENSE` (R92): REQUEST SENSE (R92) -/
  | requestSense (k : Fin 65536)
  /-- `START_STOP_UNIT` (R92): START STOP UNIT (R92) -/
  | startStopUnit (k : Fin 65536) (start : Bool)
  /-- `MODE_SENSE` (R92): MODE SENSE (10) (R92, R138) -/
  | modeSense (k : Fin 65536) (page : Nat)
  /-- `MODE_SELECT` (R92): MODE SELECT (10) (R92) -/
  | modeSelect (k : Fin 65536) (page data : Nat)
  /-- `LOG_SENSE` (R92): LOG SENSE; `data`: the page as drive firmware holds it (R92) -/
  | logSense (k : Fin 65536) (page : Nat) (data : List Nat)
  /-- `PERSISTENT_RESERVE_IN` (R102): PERSISTENT RESERVE IN (R102) -/
  | persistentReserveIn (k : Fin 65536)
  /-- `PERSISTENT_RESERVE_OUT` (R102): PERSISTENT RESERVE OUT or an NVMe reservation command in context `k` (R102) -/
  | persistentReserveOut (k : Fin 65536) (op : ResOp)
  /-- `WRITE_BUFFER` (R92): passed to drive firmware (R92) -/
  | writeBuffer (k : Fin 65536)
  /-- `READ_BUFFER` (R92): passed to drive firmware (R92) -/
  | readBuffer (k : Fin 65536)
  /-- `READ_FPDMA_QUEUED` (R95): an NCQ read arrives with tag `ncq` (R95) -/
  | readFpdmaQueued (ncq : Fin 32) (c : HostCmd)
  /-- `WRITE_FPDMA_QUEUED` (R95): an NCQ write arrives with tag `ncq` (R95) -/
  | writeFpdmaQueued (ncq : Fin 32) (c : HostCmd)
  /-- `SET_FEATURES` (R95): SATA SET FEATURES (R95, R138) -/
  | setFeatures (k : Fin 65536) (feature value : Nat)
  /-- `READ_LOG_EXT` (R95): READ LOG EXT or READ LOG DMA EXT (R95) -/
  | readLogExt (k : Fin 65536) (page : Nat) (data : List Nat)
  /-- `DOWNLOAD_MICROCODE` (R95): passed to drive firmware (R95) -/
  | downloadMicrocode (k : Fin 65536)
  /-- `OBJ_CREATE` (R126): OBJ_CREATE in context `k` (R126) -/
  | objCreate (k : Fin 65536)
  /-- `OBJ_WRITE` (R128): OBJ_WRITE in context `k` with its data, under key slot `keySlot` (R128, R141, R423) -/
  | objWrite (k keySlot : Fin 65536) (data : Nat)
  /-- `OBJ_READ` (R128): OBJ_READ in context `k` under key slot `keySlot` (R128, R423) -/
  | objRead (k keySlot : Fin 65536) (cacheHit : Bool)
  /-- `OBJ_OPEN` (R124): OBJ_OPEN (R124) -/
  | objOpen (k : Fin 65536)
  /-- `OBJ_GET_ATTR` (R129): OBJ_GET_ATTR (R129, R163) -/
  | objGetAttr (k : Fin 65536)
  /-- `OBJ_CLOSE` (R128): OBJ_CLOSE with length P1:P0 (R128, R138) -/
  | objClose (k : Fin 65536)
  /-- `OBJ_DELETE` (R126): OBJ_DELETE (R126) -/
  | objDelete (k : Fin 65536)
  /-- `OBJ_LIST` (R129): OBJ_LIST (R129) -/
  | objList (k : Fin 65536)
  /-- `OBJ_SET_CLASS` (R126): OBJ_SET_CLASS (R126) -/
  | objSetClass (k : Fin 65536)
  /-- `OBJ_VERIFY` (R130): OBJ_VERIFY; the granules repaired, and whether one was lost (R130) -/
  | objVerify (k : Fin 65536) (repaired : Nat) (lost : Bool)
  /-- `MAILBOX_CMD_SEND` (R387): MAILBOX SEND in context `k` with its words (R387, R388) -/
  | mailboxCmdSend (k : Fin 65536) (words : List Nat)
  /-- `MAILBOX_CMD_RECEIVE` (R387): MAILBOX RECEIVE (R387, R388) -/
  | mailboxCmdReceive (k : Fin 65536)
  /-- `MAILBOX_CMD_DOORBELL` (R387): MAILBOX DOORBELL (R387, R388) -/
  | mailboxCmdDoorbell (k : Fin 65536)
  /-- `MAILBOX_CMD_ACK` (R387): MAILBOX ACK (R387, R388) -/
  | mailboxCmdAck (k : Fin 65536)
  /-- `MAILBOX_CMD_STATUS` (R387): MAILBOX STATUS (R387, R388) -/
  | mailboxCmdStatus (k : Fin 65536)
  /-- `SB_SET_POINTER` (R114): sideband code 0x01 with `count` bytes (R114, R483) -/
  | sbSetPointer (count v : Nat) (pec : Pec)
  /-- `SB_READ` (R114): sideband code 0x02 (R114, R115) -/
  | sbRead
  /-- `SB_WRITE` (R114): sideband code 0x03 (R114, R115, R483) -/
  | sbWrite (count : Nat) (v : Word) (pec : Pec)
  /-- `SB_MAILBOX_SEND` (R116): sideband code 0x10 (R114, R116) -/
  | sbMailboxSend (count : Nat) (v : Word) (pec : Pec)
  /-- `SB_MAILBOX_RECEIVE` (R114): sideband code 0x11 (R114) -/
  | sbMailboxReceive
  /-- `SB_DEVICE_RESET` (R114): sideband code 0x20, its bytes little-endian in `v` (R69, R114) -/
  | sbDeviceReset (count v : Nat) (pec : Pec)
  /-- `SB_UNKNOWN_CODE` (R483): another sideband code (R114, R483) -/
  | sbUnknownCode (code : Nat) (read : Bool)
  /-- `SMBUS_CLOCK_TIMEOUT` (R110): SCL held low for tSB_TIMEOUT (R110) -/
  | smbusClockTimeout
  /-- `I3C_ENTDAA` (R111): ENTDAA assigns `addr` (R111) -/
  | i3cEntdaa (addr : Fin 128)
  /-- `I3C_SETDASA` (R111): SETDASA at `static` assigns `addr` (R111) -/
  | i3cSetdasa (static addr : Fin 128)
  /-- `I3C_RSTDAA` (R111): RSTDAA (R111) -/
  | i3cRstdaa
  /-- `I3C_ENEC` (R111): ENEC enables hot-join and in-band interrupts as named (R111) -/
  | i3cEnec (hj ibi : Bool)
  /-- `I3C_DISEC` (R112): DISEC disables them (R111, R112) -/
  | i3cDisec (hj ibi : Bool)
  /-- `I3C_GETPID` (R111): GETPID (R111) -/
  | i3cGetpid
  /-- `I3C_GETBCR` (R111): GETBCR (R111) -/
  | i3cGetbcr
  /-- `I3C_GETDCR` (R111): GETDCR (R111) -/
  | i3cGetdcr
  /-- `I3C_GETSTATUS` (R111): GETSTATUS (R111) -/
  | i3cGetstatus
  /-- `I3C_GETMWL_GETMRL` (R111): GETMRL (`read`) or GETMWL (R111) -/
  | i3cGetmwlGetmrl (read : Bool)
  /-- `HOT_JOIN_ATTEMPT` (R112): a Bus Available condition, tSB_HJ after the last attempt (R112) -/
  | hotJoinAttempt
  /-- `TENANT_CONFIG_WRITE` (R119): a WAY_TEN_CFG write of tenant `t` + 1, with the capacity that drive firmware sets for it, if it sets one (R119, R122) -/
  | tenantConfigWrite (i : Initiator) (t : Fin 256) (v : Word) (capacity : Option Nat)
  /-- `ALLOWANCE_WRITE` (R143): a WAY_TEN_ALLOW_HI write of tenant `t` + 1 (R143) -/
  | allowanceWrite (i : Initiator) (t : Fin 256) (v : Word)
  /-- `TENANT_PURGE` (R171): a WAY_TEN_PURGE write (R171) -/
  | tenantPurge (i : Initiator) (v : Word)
  /-- `CTX_TAKE` (R133): WAY_CTX_TAKE[idx] with GO (R133, R484) -/
  | ctxTake (i : Initiator) (idx : Fin 2)
  /-- `CTX_POST_MEDIA` (R134): WAY_CTX_POST, state MEDIA (R134) -/
  | ctxPostMedia (i : Initiator) (k : Fin 65536)
  /-- `CTX_POST_PORT` (R134): WAY_CTX_POST, state PORT (R134) -/
  | ctxPostPort (i : Initiator) (k : Fin 65536)
  /-- `CTX_POST_STAGED` (R134): WAY_CTX_POST, state STAGED (R134, R136) -/
  | ctxPostStaged (i : Initiator) (k : Fin 65536)
  /-- `CTX_POST_DONE` (R135): WAY_CTX_POST, state DONE (R134, R135) -/
  | ctxPostDone (i : Initiator) (k : Fin 65536)
  /-- `CTX_POST_FREE` (R134): WAY_CTX_POST, state FREE (R134) -/
  | ctxPostFree (i : Initiator) (k : Fin 65536)
  /-- `CTX_POP` (R484): WAY_CTX_POP[p] naming `k` (R484) -/
  | ctxPop (i : Initiator) (p : Fin 2) (k : Fin 65536)
  /-- `WRITE_PLACEMENT` (R154): Waymark places the write of context `k` (R149, R150, R154, R155) -/
  | writePlacement (k : Fin 65536)
  /-- `ROW_PAD_TIMEOUT` (R152): PAD_S seconds after the first commit of a row (R152) -/
  | rowPadTimeout (group row : Nat)
  /-- `CLEANER_SELECT` (R158): the cleaner picks a group and copies its live sectors out (R158) -/
  | cleanerSelect
  /-- `SURVEY_SCHEDULE` (R162): a survey scheduling pass (R160, R162) -/
  | surveySchedule
  /-- `SURVEY_BAND_DONE` (R161): a band survey ends; `found`: the outcome by sector of the band, clean where none is listed (R161) -/
  | surveyBandDone (band : Nat) (found : List (Nat × SurveyOutcome))
  /-- `CHECKPOINT_TIMER_EXPIRY` (R168): CKPT_MIN minutes since the last checkpoint (R168) -/
  | checkpointTimerExpiry
  /-- `CHECKPOINT_BAND_COUNT` (R168): CKPT_BANDS bands opened since the last checkpoint (R168) -/
  | checkpointBandCount
  /-- `CHECKPOINT_GO` (R168): a WAY_CKPT_CTL write (R168) -/
  | checkpointGo (i : Initiator) (v : Word)
  /-- `CHECKPOINT_COMPLETE` (R169): the checkpoint's end pages are written (R168, R169) -/
  | checkpointComplete
  /-- `TOUCHSTONE_COPY_WRITTEN` (R230): a Touchstone copy rewrite of a surface finishes (R230) -/
  | touchstoneCopyWritten (surf : Fin 32)
  /-- `WAYMARK_LOAD` (R170): Waymark's load; `bad`: sequences of checkpoints with a page that fails its check (R168, R170) -/
  | waymarkLoad (bad : List Nat)
  /-- `WAYMARK_REPLAY_DONE` (R170): replay is complete (R170) -/
  | waymarkReplayDone
  /-- `UNIT_TAKE_OUT` (R174): a WAY_UNIT_CMD write, OP take out, FORCE 0 (R173, R174) -/
  | unitTakeOut (i : Initiator) (v : Word)
  /-- `UNIT_FORCED_TAKE_OUT` (R175): a WAY_UNIT_CMD write, OP take out, FORCE 1 (R175) -/
  | unitForcedTakeOut (i : Initiator) (v : Word)
  /-- `UNIT_BRING_IN` (R172): a WAY_UNIT_CMD write, OP bring in (R172, R177) -/
  | unitBringIn (i : Initiator) (v : Word)
  /-- `DRAIN_STEP_DONE` (R174): the take-out step in progress is done (R174) -/
  | drainStepDone
  /-- `UNIT_CALIBRATION_RESULT` (R172): the calibration of the unit being brought in ends (R172) -/
  | unitCalibrationResult (pass : Bool)
  /-- `ADC_CAL_COMPLETE` (R181): initial ADC calibration of a slice completes (R181) -/
  | adcCalComplete (n : Fin 8)
  /-- `ADC_TRIM_OUT_OF_RANGE` (R441): background calibration leaves its trim range (R441) -/
  | adcTrimOutOfRange (n : Fin 8)
  /-- `HEAD_ZONE_SELECT` (R195): an LDn_SEL write (R187, R195) -/
  | headZoneSelect (i : Initiator) (n : Fin 8) (v : Word)
  /-- `SOURCE_SELECT` (R194): an LDn_CFG write (R194, R251) -/
  | sourceSelect (i : Initiator) (n : Fin 8) (v : Word)
  /-- `TA_EVENT_START` (R186): a TA event begins (R186) -/
  | taEventStart (n : Fin 8)
  /-- `TA_EVENT_END` (R186): the TA event ends (R186) -/
  | taEventEnd (n : Fin 8)
  /-- `FREEZE_ASSERT` (R184): a freeze source of the table of R184, in its order, asserts or clears -/
  | freezeAssert (n : Fin 8) (src : Fin 6) (active : Bool)
  /-- `FREEZE_TAIL_EXPIRY` (R184): TAIL slice clocks after the last source cleared (R184) -/
  | freezeTailExpiry (n : Fin 8)
  /-- `CLEARANCE_RESULT` (R196): the average over 2^N preambles is whole (R196) -/
  | clearanceResult (n : Fin 8)
  /-- `WRITE_CHANNEL_SELECT` (R198): an ACTa_WC_SEL write (R198) -/
  | writeChannelSelect (i : Initiator) (a : Fin 4) (v : Word)
  /-- `WRITE_HEAT_REQUEST` (R200): an ACTa_WC_CTL write (R200) -/
  | writeHeatRequest (i : Initiator) (a : Fin 4) (v : Word)
  /-- `GATE_REQUEST` (R201): STR(8 + a) requests the gate (R200, R201) -/
  | gateRequest (a : Fin 4)
  /-- `HEAT_TIMEOUT` (R201): HEAT_TMO passes without HEAT_READY (R201) -/
  | heatTimeout (a : Fin 4)
  /-- `GATE_DROP` (R202): the sequencer drops the gate at the end of its run (R202) -/
  | gateDrop (a : Fin 4)
  /-- `GATE_CONDITION_LOST` (R202): a condition of R201 has cleared with the gate open (R202) -/
  | gateConditionLost (a : Fin 4)
  /-- `WRITE_UNDERRUN` (R202): the next 8 bits are not supplied in time (R202) -/
  | writeUnderrun (a : Fin 4)
  /-- `MILESTONE_REFERENCE_SAMPLE` (R214): slice m, or write channel m - 8, takes the timing reference of the latest position sample; its clock's phase in 1/64 bit (R212, R214) -/
  | milestoneReferenceSample (m : Fin 12) (clock : Int)
  /-- `MILESTONE_HOLDOVER_EXPIRY` (R214): HOLD_US passes in HOLDOVER (R214) -/
  | milestoneHoldoverExpiry (m : Fin 12)
  /-- `MILESTONE_ZONE_CHANGE` (R214): the servo track number leads to another zone (R213, R214) -/
  | milestoneZoneChange (m : Fin 12)
  /-- `SECTOR_FRAMED` (R217): a sector position has passed, of the live pair or of the replay; live, bit 0 of the sector came out of the detector `age` bits before its newest output; a replay takes its place from the ring (R216 to R220) -/
  | sectorFramed (n : Fin 8) (live : Bool) (track sector age : Nat)
  /-- `REFRAME` (R220): an LDn_REFRAME write (R220) -/
  | reframe (i : Initiator) (n : Fin 8) (v : Word)
  /-- `REFRAME_DONE` (R220): the sector of a re-frame has arrived in the replay (R220) -/
  | reframeDone (n : Fin 8)
  /-- `DESCRIPTOR_PUSH` (R241): a QRY_SUB_CMD write, FLUSH 0 (R241) -/
  | descriptorPush (i : Initiator) (n : Fin 8) (v : Word)
  /-- `DESCRIPTOR_FLUSH` (R242): a QRY_SUB_CMD write, FLUSH 1 (R242) -/
  | descriptorFlush (i : Initiator) (n : Fin 8) (v : Word)
  /-- `ENGINE_DISPATCH` (R238): a free engine takes the next sector (R238) -/
  | engineDispatch (e : Fin 12)
  /-- `DECODE_COMPLETE` (R233): an engine's decode of the sector in its slot ends (R233 to R235) -/
  | decodeComplete (e : Fin 12)
  /-- `COMPLETION_POST` (R243): the oldest completion of slice n is posted (R243) -/
  | completionPost (n : Fin 8)
  /-- `COMPLETION_POP` (R243): a QRY_CPL_POP write (R243) -/
  | completionPop (i : Initiator) (n : Fin 8) (v : Word)
  /-- `ENGINE_FAULT` (R240): an engine detects a fault (R240) -/
  | engineFault (e : Fin 12)
  /-- `ENGINE_FAULT_CLEAR` (R240): a QRY_STAT write (R240) -/
  | engineFaultClear (i : Initiator) (v : Word)
  /-- `REPLAY_END` (R251): the replay of slice n has reached an end of R251 -/
  | replayEnd (n : Fin 8)
  /-- `RING_FIND` (R253): an LDn_RING_FIND write (R253) -/
  | ringFind (i : Initiator) (n : Fin 8) (v : Word)
  /-- `RING_FIND_DONE` (R253): the mark search ends (R253) -/
  | ringFindDone (n : Fin 8)
  /-- `LOOP_TRIGGER` (R265): the trigger `trig` of R265 arrives for loop `l` -/
  | loopTrigger (trig : Fin 16) (l : Fin 80)
  /-- `LOOP_RUN` (R262): a free lane runs the loop the dispatcher chooses; `ns`: from its trigger to the transmitter (R262, R272) -/
  | loopRun (ns : Nat)
  /-- `BASALT_TICK` (R265): TICK0 or TICK1 (R265) -/
  | basaltTick (t : Fin 2)
  /-- `LOOP_KICK` (R265): a BAS_KICK write (R265) -/
  | loopKick (i : Initiator) (v : Word)
  /-- `LOOP_ENABLE` (R270): a BAS_LCFG write with EN 1 (R270) -/
  | loopEnable (i : Initiator) (l : Fin 80) (v : Word)
  /-- `LOOP_DISABLE` (R270): a BAS_LCFG write with EN 0 (R270) -/
  | loopDisable (i : Initiator) (l : Fin 80) (v : Word)
  /-- `LOOP_CLEAR` (R262): a BAS_LCFG write of 1 to CLR, the other fields as they stand (R262, R270) -/
  | loopClear (i : Initiator) (l : Fin 80)
  /-- `BANK_SWAP` (R269): a BAS_LCFG write of 1 to SWAP, the other fields as they stand (R269) -/
  | bankSwap (i : Initiator) (l : Fin 80)
  /-- `INTEGRATOR_WRITE` (R270): a BAS_LINT_HI write (R270) -/
  | integratorWrite (i : Initiator) (l : Fin 80) (v : Word)
  /-- `GENERAL_INPUT_WRITE` (R263): a BAS_GIN write (R263) -/
  | generalInputWrite (i : Initiator) (k : Fin 16) (v : Word)
  /-- `SERVO_HWM_CLEAR` (R272): a BAS_SV_HWM write (R272) -/
  | servoHwmClear (i : Initiator) (v : Word)
  /-- `POSITION_SAMPLE` (R279): a position sample of actuator `a` falls due: the frame or the wedge has passed under the servo head (R274 to R281) -/
  | positionSample (a : Fin 4)
  /-- `SAMPLE_MISSING_TIMEOUT` (R278): 1.25 nominal sample periods pass without a sample (R278) -/
  | sampleMissingTimeout (a : Fin 4)
  /-- `ACTUATOR_LOAD` (R281): ACTa_CMD, OP LOAD (R281, R282) -/
  | actuatorLoad (i : Initiator) (a : Fin 4)
  /-- `ACTUATOR_UNLOAD` (R294): ACTa_CMD, OP UNLOAD (R282, R294) -/
  | actuatorUnload (i : Initiator) (a : Fin 4)
  /-- `SEEK` (R283): an ACTa_SEEK write (R282, R283) -/
  | seek (i : Initiator) (a : Fin 4) (v : Word)
  /-- `HEAD_SELECT` (R292): an ACTa_HSEL write (R292) -/
  | headSelect (i : Initiator) (a : Fin 4) (pair : Fin 2) (v : Word)
  /-- `LOAD_TIMEOUT` (R281): LOAD_TMO passes in LOADING (R281) -/
  | loadTimeout (a : Fin 4)
  /-- `LOST_TIMEOUT` (R281): LOST_TMO passes in LOST (R281) -/
  | lostTimeout (a : Fin 4)
  /-- `UNLOAD_STALL` (R294): the actuator has stalled on the ramp for 2 ms (R294) -/
  | unloadStall (a : Fin 4)
  /-- `UNLOAD_TIMEOUT` (R281): UNLOAD_TMO passes in UNLOADING (R281) -/
  | unloadTimeout (a : Fin 4)
  /-- `VCM_VELOCITY_SAMPLE` (R321): the 8 samples of coil voltage in mV and current in mA that one delivery averages (R321) -/
  | vcmVelocitySample (a : Fin 4) (mv ma : List Int)
  /-- `DITHER_ENABLE` (R285): an ACTa_DITHER write (R285) -/
  | ditherEnable (i : Initiator) (a : Fin 4) (v : Word)
  /-- `SHOCK_SAMPLE` (R288): a sample of a sensor input in Q15 (R263, R288) -/
  | shockSample (sensor : Fin 8) (x : Int)
  /-- `SHOCK_RELEASE` (R288): HOLD_US passes after the last qualifying sample (R288) -/
  | shockRelease
  /-- `PREAMP_FRAME_END` (R290): the frame in progress ends; `data`: what a read returned (R290) -/
  | preampFrameEnd (a : Fin 4) (data : Fin 256)
  /-- `PREAMP_STATUS_POLL` (R290): the 1 ms poll falls due (R290) -/
  | preampStatusPoll (a : Fin 4)
  /-- `PREAMP_RAW_TRANSFER` (R290): an ACTa_PA_XFER write (R290) -/
  | preampRawTransfer (i : Initiator) (a : Fin 4) (v : Word)
  /-- `PREAMP_FAULT` (R290): PAa_FLT_N goes low, or high again (R290) -/
  | preampFault (a : Fin 4) (low : Bool)
  /-- `PREAMP_ENUMERATION` (R291): enumeration has read ID and mask (R291) -/
  | preampEnumeration (a : Fin 4)
  /-- `SPINDLE_START` (R304): MIL_CMD, OP START (R304) -/
  | spindleStart (i : Initiator)
  /-- `SPINDLE_STOP` (R304): MIL_CMD, OP STOP (R304) -/
  | spindleStop (i : Initiator)
  /-- `SPINDLE_STOP_BRAKE` (R314): MIL_CMD, OP STOP with brake (R304, R314) -/
  | spindleStopBrake (i : Initiator)
  /-- `MILLSTONE_TICK` (R298): one PWM tick, with what Ballast measures: the phase voltages in mV and the phase currents in Q15 of 3.5 A (R298 to R315) -/
  | millstoneTick (volts amps : Phases)
  /-- `CATCH_WINDOW_END` (R306): the catch window ends (R305, R306) -/
  | catchWindowEnd
  /-- `BRAKE_TIMEOUT` (R306): 5 s in BRAKE (R306) -/
  | brakeTimeout
  /-- `ALIGN_DONE` (R307): ALIGN_MS and the polarity pulses have ended (R307) -/
  | alignDone
  /-- `LOCKED_ROTOR` (R308): the locked-rotor conditions have held for LR_MS (R308) -/
  | lockedRotor
  /-- `LOCKED_ROTOR_RETRY` (R303): LR_WAIT_MS ends (R303) -/
  | lockedRotorRetry
  /-- `SPEED_REGULATED` (R311): the speed has stayed within TOL_PPM for REG_MS (R311) -/
  | speedRegulated
  /-- `ROTOR_LOSS` (R312): the residual or unlock test of R312 is met -/
  | rotorLoss
  /-- `ROTOR_REACQUIRED` (R312): three crossings in forward order (R312) -/
  | rotorReacquired
  /-- `REACQUISITION_FAIL` (R312): crossings ran backward, or two revolutions passed (R312) -/
  | reacquisitionFail
  /-- `FLYING_LIMIT` (R313): the speed, or the speed deemed, is below FLY_PCT (R312, R313) -/
  | flyingLimit
  /-- `STOP_COMPLETE` (R314): the speed has been below 1 % of target for 500 ms (R314) -/
  | stopComplete
  /-- `COAST_TO_IDLE` (R303): the back-EMF has been below BEMF_MIN for 1 s (R303) -/
  | coastToIdle
  /-- `AUX_INPUT_UP` (R317): the auxiliary input exceeds 4.5 V (R317) -/
  | auxInputUp
  /-- `MAIN_INPUT_UP` (R317): the main input, in mV, as it rises (R317) -/
  | mainInputUp (mv : Nat)
  /-- `RAIL_IN_REGULATION` (R317): rail `r` + 1, or from 6 on PA_P[`r` - 6] and from 10 on PA_N[`r` - 10], comes up to `mv` (R316, R317) -/
  | railInRegulation (r : Fin 14) (mv : Int)
  /-- `SOC_RELEASE` (R317): tPOR after rail 6; the straps as sampled, and RST_N (R72, R317, R467) -/
  | socRelease (bootcfg sbAddr : Fin 4) (rstLow : Bool)
  /-- `RAIL_FAULT` (R332): the monitor of a rail, numbered as in RAIL_IN_REGULATION, reads `mv` (R316, R317, R332) -/
  | railFault (r : Fin 14) (mv : Int)
  /-- `BALLAST_READY` (R318): the stages' self-test has ended with the link up (R318) -/
  | ballastReady (selfTest : Bool)
  /-- `LINK_HEARTBEAT` (R318): a link frame arrives (R318) -/
  | linkHeartbeat (crcOk : Bool)
  /-- `LINK_WATCHDOG_EXPIRY` (R318): no valid frame for tLINK_WD (R318) -/
  | linkWatchdogExpiry
  /-- `STAGE_TRIP` (R320): the current of VCM 0 to 3, milli-actuator 0 to 3 or the spindle stage reaches `ma` (R319, R320) -/
  | stageTrip (stage : Fin 9) (ma : Nat)
  /-- `STAGE_UNLATCH` (R320): a BLS_OCP write (R320) -/
  | stageUnlatch (i : Initiator) (v : Word)
  /-- `REGEN_CLAMP` (R322): a PWM period returns energy above 13.8 V (R322) -/
  | regenClamp
  /-- `CHARGE_TIMEOUT` (R323): 2 s of charging without 5 V (R323) -/
  | chargeTimeout
  /-- `BANK_MEASURE_GO` (R324): a BLS_MEAS_CTL write (R324) -/
  | bankMeasureGo (i : Initiator) (v : Word)
  /-- `MEASURE_TIMER_EXPIRY` (R324): MEAS_H hours pass, or the bank first reaches VCHG (R324) -/
  | measureTimerExpiry
  /-- `BANK_MEASURE_DONE` (R324): a measurement ends: the first step, the fall and the time it took (R324) -/
  | bankMeasureDone (stepMv fallMv us : Nat)
  /-- `VAULT_ALLOWANCE_UPDATE` (R325): tVA_UPD passes; the bank voltage (R325) -/
  | vaultAllowanceUpdate (bankMv : Nat)
  /-- `POWER_LOSS` (R327): power loss is declared; the bank voltage, and whether the auxiliary input is the one that fell (R327) -/
  | powerLoss (bankMv : Nat) (aux : Bool)
  /-- `VAULT_FLUSH_DONE` (R329): every flushed extent has committed (R329) -/
  | vaultFlushDone
  /-- `BANK_AT_VRET` (R332): the bank falls to VRET (R328, R329, R332) -/
  | bankAtVret
  /-- `MAIN_RETURN` (R330): the main input has stood in range for tPG (R330) -/
  | mainReturn (mv : Nat)
  /-- `EMERGENCY_RETRACT` (R333): a trigger of R332 begins emergency retract (R333) -/
  | emergencyRetract
  /-- `RETRACT_COMPLETE` (R333): the retract drive ends (R333) -/
  | retractComplete
  /-- `THERMAL_LEVEL_CHANGE` (R334): the die temperature in 1/16 degree C (R334) -/
  | thermalLevelChange (deg16 : Int)
  /-- `HBM_TRAINING_DONE` (R337): training of all pseudo-channels completes (R337) -/
  | hbmTrainingDone
  /-- `HBM_TRAINING_FAIL` (R337): a pseudo-channel fails training (R337) -/
  | hbmTrainingFail (pc : Fin 16)
  /-- `BEDROCK_WAIT_TIMEOUT` (R337): the boot ROM stops waiting for BEDROCK (R337) -/
  | bedrockWaitTimeout
  /-- `HBM_READ` (R344): a read of the granule at HBM offset `ofs` by a class of R340; `upset`: what has gone wrong in the symbols of the stored granule since its last read or write; `array`: what is met in Shale's arrays (R359, R360); `seg`: the buffer segment the owner block fills with the 64 bytes (R344, R404) -/
  | hbmRead (cls : Fin 6) (ofs : BitVec 34) (upset : BitVec 576) (array : Fin 4) (seg : Option (Fin 32))
  /-- `HBM_WRITE` (R338): a write of `len` bytes of `v` at HBM offset `ofs`; `seg`: the buffer segment the owner block takes them from (R338, R404, R345, R352) -/
  | hbmWrite (cls : Fin 6) (ofs : BitVec 34) (len v : Nat) (seg : Option (Fin 32))
  /-- `IDLE_CLAIM` (R339): an idle cycle in which Tumbler may claim this block (R339) -/
  | idleClaim (block : Fin 262144)
  /-- `HBM_TEMP_READ` (R342): the stack temperature in °C, read every 1 ms (R342) -/
  | hbmTempRead (t : Int)
  /-- `HBM_REFRESH` (R342): the refresh interval expires (R342) -/
  | hbmRefresh
  /-- `ARBITRATION_WINDOW` (R340): a tBED_WIN window ends (R340) -/
  | arbitrationWindow
  /-- `PPR_SOFT` (R346): a BED_PPR_CMD write, OP SOFT; `spare`: the bank has a spare row left (R346, R347) -/
  | pprSoft (i : Initiator) (v : Word) (spare : Bool)
  /-- `PPR_HARD` (R347): a BED_PPR_CMD write, OP HARD (R346, R347) -/
  | pprHard (i : Initiator) (v : Word) (spare : Bool)
  /-- `PPR_DONE` (R346): the repair ends; `clean`: the rewritten row read back clean (R346, R347) -/
  | pprDone (clean : Bool)
  /-- `BDP_READ` (R348): a BED_BDP_GO write, OP READ (R348) -/
  | bdpRead (i : Initiator) (v : Word)
  /-- `BDP_WRITE` (R349): a BED_BDP_GO write, OP WRITE (R348, R349) -/
  | bdpWrite (i : Initiator) (v : Word)
  /-- `BDP_STAGE` (R348): a BED_BDP_DATA write (R348) -/
  | bdpStage (i : Initiator) (v : Word)
  /-- `BDP_DATA_READ` (R348): a BED_BDP_DATA read (R348) -/
  | bdpDataRead (i : Initiator)
  /-- `BDP_DONE` (R348): the bulk data port operation finishes (R348) -/
  | bdpDone
  /-- `SCRUB_READ` (R361): Tumbler reads its next granule; `newer`: a write reached it before the write-back (R361) -/
  | scrubRead (upset : BitVec 576) (newer : Bool)
  /-- `SCRUB_LAP_START` (R361): LAP_MIN has passed since the previous lap began (R361) -/
  | scrubLapStart
  /-- `SRAM_SCRUB_STEP` (R362): the SRAM scrubber reads a granule of a region of BED_SS_CTL; `bits`: bits in error in a word of it; `spot`: what it holds (R359, R362, R422) -/
  | sramScrubStep (region : Fin 10) (bits : Fin 3) (newer : Bool) (spot : SramSpot)
  /-- `SHALE_ENABLE` (R354): an SHL_CTL write with EN 1 (R354) -/
  | shaleEnable (i : Initiator) (v : Word)
  /-- `SHALE_DISABLE` (R355): an SHL_CTL write with EN 0 (R355) -/
  | shaleDisable (i : Initiator) (v : Word)
  /-- `SHALE_DRAIN_DONE` (R355): the last writeback of the drain responds (R355) -/
  | shaleDrainDone
  /-- `SHALE_INV_RANGE` (R356): an SHL_OP write, INV_RANGE (R356) -/
  | shaleInvRange (i : Initiator) (v : Word)
  /-- `SHALE_INV_ALL` (R356): an SHL_OP write, INV_ALL (R356) -/
  | shaleInvAll (i : Initiator) (v : Word)
  /-- `SHALE_FILL` (R358): an SHL_OP write, FILL (R358) -/
  | shaleFill (i : Initiator) (v : Word)
  /-- `SHALE_OP_DONE` (R354): the operation in progress finishes (R354, R356, R358) -/
  | shaleOpDone
  /-- `SHALE_LOCK` (R357): an SHL_LOCK write (R357) -/
  | shaleLock (i : Initiator) (v : Word)
  /-- `LOCKSTEP_MISMATCH` (R363): a compared result of pair `p` (0 Port, 1 Media) differs (R363) -/
  | lockstepMismatch (p : Fin 2)
  /-- `PAIR_RESTART` (R369): a write of KEY_PAIR_RST (R369) -/
  | pairRestart (i : Initiator) (v : Word)
  /-- `PAIR_RESTART_DONE` (R369): pair `p` has been relocked (R369, R371) -/
  | pairRestartDone (p : Fin 2)
  /-- `HEARTBEAT` (R367): a write of KEY_HB[p] (R367) -/
  | heartbeat (i : Initiator) (p : Fin 2)
  /-- `HEARTBEAT_CONFIG` (R367): a write of KEY_HB_CFG (R367) -/
  | heartbeatConfig (i : Initiator) (p : Priv) (v : Word)
  /-- `HEARTBEAT_MISS` (R367): pair `p` passes its deadline (R367) -/
  | heartbeatMiss (p : Fin 2)
  /-- `WATCHDOG_RESTART` (R368): a restart of Keystone's watchdog (R368) -/
  | watchdogRestart (i : Initiator)
  /-- `DEVICE_RESET_REQUEST` (R368): a write of KEY_DEV_REQ (R368) -/
  | deviceResetRequest (i : Initiator) (p : Priv) (v : Word)
  /-- `KEY_STUCK_TIMEOUT` (R368): tKEY_STUCK passes with pair `p` RESTARTING in settled Haven (R368) -/
  | keyStuckTimeout (p : Fin 2)
  /-- `TRANSLATE` (R374): an access of stream `st` at `iova` is translated; `k`: the context of a host stream's transfer (R373 to R376) -/
  | translate (st : Fin 47) (iova : Nat) (write : Bool) (k : Fin 65536)
  /-- `STREAM_CONFIG` (R377): a write of TRN_SCTX with FAULTED 0 (R377) -/
  | streamConfig (i : Initiator) (p : Priv) (st : Fin 47) (v : Word)
  /-- `STREAM_FAULT_CLEAR` (R376): FAULTED of TRN_SCTX written 1, the other fields as they stand (R376) -/
  | streamFaultClear (i : Initiator) (p : Priv) (st : Fin 47)
  /-- `IOTLB_INV_ALL` (R377): TRN_INV with OP all (R377) -/
  | iotlbInvAll (i : Initiator) (p : Priv)
  /-- `IOTLB_INV_STREAM` (R377): TRN_INV with OP STREAM (R377) -/
  | iotlbInvStream (i : Initiator) (p : Priv) (st : Fin 64)
  /-- `IOTLB_INV_PAGE` (R377): TRN_INV with OP page; the page stands in TRN_INV_VA (R377) -/
  | iotlbInvPage (i : Initiator) (p : Priv) (st : Fin 64)
  /-- `IOTLB_INV_DONE` (R377): every access translated through a discarded entry has its response (R377) -/
  | iotlbInvDone
  /-- `FAULT_POP` (R376): TRN_FLT_POP with POP (R376) -/
  | faultPop (i : Initiator) (p : Priv)
  /-- `INTERRUPT_CLAIM` (R379): a read of SIG_CLAIM[c] (R378, R379) -/
  | interruptClaim (i : Initiator) (p : Priv) (c : Fin 4)
  /-- `INTERRUPT_COMPLETE` (R379): a write of SIG_CLAIM[c] (R379) -/
  | interruptComplete (i : Initiator) (p : Priv) (c : Fin 4) (v : Word)
  /-- `MACHINE_TIMER_INTERRUPT` (R381): SIG_MTIME reaches SIG_MTIMECMP[p] (R381) -/
  | machineTimerInterrupt (p : Fin 2)
  /-- `MAILBOX_PUSH` (R383): a write of MPO_TX of that side of mailbox `m` (R383) -/
  | mailboxPush (i : Initiator) (m : Fin 8) (far : Bool) (v : Word)
  /-- `MAILBOX_POP` (R383): a read of MPO_RX (R383) -/
  | mailboxPop (i : Initiator) (m : Fin 8) (far : Bool)
  /-- `DOORBELL_SET` (R385): a write of MPO_DB_SET (R384, R385) -/
  | doorbellSet (i : Initiator) (m : Fin 8) (far : Bool) (v : Word)
  /-- `MAILBOX_ACKNOWLEDGE` (R385): a write of MPO_ACK (R385) -/
  | mailboxAcknowledge (i : Initiator) (m : Fin 8) (far : Bool) (v : Word)
  /-- `MAILBOX_REQUEST_TIMEOUT` (R385): the request timer of that side expires (R385) -/
  | mailboxRequestTimeout (m : Fin 8) (far : Bool)
  /-- `WORK_READ` (R392): `i` pushes a READ item for context `k` to STRn (R392) -/
  | workRead (i : Initiator) (n : Fin 12) (k : Fin 65536)
  /-- `WORK_WRITE_RUN` (R392): `i` pushes a WRITE_RUN item (R392) -/
  | workWriteRun (i : Initiator) (n : Fin 12) (k : Fin 65536)
  /-- `WORK_LADDER` (R254): `i` pushes a LADDER item (R254, R392) -/
  | workLadder (i : Initiator) (n : Fin 12) (k : Fin 65536)
  /-- `WORK_SURVEY` (R392): `i` pushes a SURVEY item (R392) -/
  | workSurvey (i : Initiator) (n : Fin 12) (k : Fin 65536)
  /-- `WORK_FORMAT` (R392): `i` pushes a FORMAT item (R392) -/
  | workFormat (i : Initiator) (n : Fin 12) (k : Fin 65536)
  /-- `WORK_DISPATCH` (R395): the idle sequencer dispatches its head item (R395) -/
  | workDispatch (n : Fin 12)
  /-- `NOP` (R390): STRn issues NOP (R390) -/
  | nop (n : Fin 12)
  /-- `ALU` (R390): STRn issues ALU (R390) -/
  | alu (n : Fin 12) (gd ga gb : Fin 32) (fn : Fin 16)
  /-- `ADDI` (R390): STRn issues ADDI (R390) -/
  | addi (n : Fin 12) (gd ga : Fin 32) (imm : BitVec 17)
  /-- `LUI` (R390): STRn issues LUI (R390) -/
  | lui (n : Fin 12) (gd : Fin 32) (imm : BitVec 16)
  /-- `BRANCH` (R390): STRn issues BR (R390) -/
  | branch (n : Fin 12) (cond : Fin 8) (ga : Fin 32) (target : BitVec 17)
  /-- `CALL` (R390): STRn issues CALL (R390) -/
  | call (n : Fin 12) (target : BitVec 17)
  /-- `RETURN` (R390): STRn issues RET (R390) -/
  | returnOp (n : Fin 12)
  /-- `TOWPATH_READ` (R390): STRn issues TRD (R390) -/
  | towpathRead (n : Fin 12) (gd ga : Fin 32) (imm : BitVec 17)
  /-- `TOWPATH_WRITE` (R390): STRn issues TWR (R390) -/
  | towpathWrite (n : Fin 12) (gs ga : Fin 32) (imm : BitVec 17)
  /-- `SCRATCH_LOAD` (R390): STRn issues SLD (R390) -/
  | scratchLoad (n : Fin 12) (gd ga : Fin 32) (imm : BitVec 17)
  /-- `SCRATCH_STORE` (R390): STRn issues SST (R390) -/
  | scratchStore (n : Fin 12) (gs ga : Fin 32) (imm : BitVec 17)
  /-- `NANO` (R391): STRn issues NANO; `rom`: the nano-store ROM's word at `naddr`; `frames`: what the framer gives, issue by issue; `upset`: the key slot's storage shows a double-bit error (R391, R422) -/
  | nano (n : Fin 12) (naddr : Fin 512) (ga gb : Fin 32) (cnt : BitVec 8) (rom : BitVec 128) (frames : List (BitVec 512)) (upset : Bool)
  /-- `WAIT` (R390): STRn issues WAIT, or its stalled WAIT looks again; `set`: the event line is set (R390) -/
  | wait (n : Fin 12) (event : Fin 32) (limit : BitVec 22) (set : Bool)
  /-- `WAIT_LIMIT_EXPIRY` (R390): LIMIT cycles pass (R390) -/
  | waitLimitExpiry (n : Fin 12)
  /-- `ROUTINE` (R393): STRn issues ROUTINE (R393) -/
  | routine (n : Fin 12) (id : BitVec 16)
  /-- `COMMIT_TOWPATH` (R394): STRn issues COMMIT with KIND TOWPATH (R394) -/
  | commitTowpath (n : Fin 12) (ga gb : Fin 32)
  /-- `COMMIT_CONTEXT` (R394): STRn issues COMMIT with KIND CONTEXT; `retry`: the RETRY word where GB selects RETRY (R394) -/
  | commitContext (n : Fin 12) (ga gb : Fin 32) (retry : Option Word)
  /-- `COMMIT_DONE` (R394): STRn issues COMMIT with KIND DONE (R394) -/
  | commitDone (n : Fin 12) (ga gb : Fin 32)
  /-- `COMMIT_MARK` (R394): STRn issues COMMIT with KIND MARK (R394) -/
  | commitMark (n : Fin 12) (ga gb : Fin 32)
  /-- `RETURN_FROM_EVENT` (R396): STRn issues RTE (R396) -/
  | returnFromEvent (n : Fin 12)
  /-- `SEQUENCER_FAULT` (R395): a FAULT of STRn; `illegal`: of an ILLEGAL fetch or word, else a translation fault or an error response (R395) -/
  | sequencerFault (n : Fin 12) (illegal : Bool)
  /-- `SEQUENCER_GATE_ABANDON` (R395): the write channel of actuator `a` has abandoned the run (R395) -/
  | sequencerGateAbandon (a : Fin 4)
  /-- `SEQUENCER_HANDOVER` (R395): slice `n`'s pair has passed to another slice (R395) -/
  | sequencerHandover (n : Fin 8)
  /-- `SEQUENCER_ABORT` (R395): `i` writes ABORT to STRn_CTL (R395) -/
  | sequencerAbort (i : Initiator) (n : Fin 12)
  /-- `SEQUENCER_RESTART` (R400): STRn restarts (R400) -/
  | sequencerRestart (n : Fin 12) (by_ : RestartBy)
  /-- `PATCH_LOAD` (R399): the patch loader serves STRn; `images`: as the flash gives each PATCH entry that names it, in PATCH order (R399) -/
  | patchLoad (n : Fin 12) (images : List (Option Nat))
  /-- `CHANNEL_START` (R406): `i` writes `v`, START set, to CAR_CH_CTL of channel `k` (R406, R410) -/
  | channelStart (i : Initiator) (k : Fin 32) (v : Word)
  /-- `CHANNEL_DISABLE` (R413): `i` writes EN 0 to CAR_CH_CTL of channel `k`, its other fields as they stand (R413) -/
  | channelDisable (i : Initiator) (k : Fin 32)
  /-- `CHANNEL_DRAINED` (R413): the last issued access of disabled channel `k` responds (R413) -/
  | channelDrained (k : Fin 32)
  /-- `BURST_ISSUE` (R409): the engine grants a burst (R409) -/
  | burstIssue
  /-- `BEAT_READ_RESPONSE` (R411): the oldest read beat of channel `k` responds (R411) -/
  | beatReadResponse (k : Fin 32)
  /-- `BEAT_WRITE_RESPONSE` (R411): the oldest write beat of channel `k` responds (R411) -/
  | beatWriteResponse (k : Fin 32)
  /-- `REQUEST_EDGE` (R408): request line `l` rises (R408) -/
  | requestEdge (l : Fin 64)
  /-- `SOFTWARE_REQUEST` (R403): `i` writes CAR_SWREQ: bit b raises line 56 + b (R403) -/
  | softwareRequest (i : Initiator) (lines : BitVec 8)
  /-- `GENERAL_TIMER_EXPIRY` (R403): general timer `t` expires (R403) -/
  | generalTimerExpiry (t : Fin 16)
  /-- `SEGMENT_ADJUST` (R404): `i` writes ADJ, signed, to CAR_SEG_FILL of segment `g` (R404) -/
  | segmentAdjust (i : Initiator) (g : Fin 32) (adj : BitVec 12)
  /-- `SEGMENT_CLEAR` (R404): `i` writes CLR to CAR_SEG_FILL of segment `g` (R404) -/
  | segmentClear (i : Initiator) (g : Fin 32)
  /-- `RAW_BLOCK_OP` (R424): `i` writes `v`, GO set, to OBS_RAW_CTL of raw port `port`; `upset`: the key slot's storage shows a double-bit error (R422, R424) -/
  | rawBlockOp (i : Initiator) (port : Fin 14) (v : Word) (upset : Bool)
  /-- `CORE_BLOCK_DONE` (R417): core `core` finishes its block and takes the next request (R417) -/
  | coreBlockDone (core : Fin 16)
  /-- `KEY_STAGE` (R421): `i` writes OBS_KEY_DATA (R421) -/
  | keyStage (i : Initiator) (v : Word)
  /-- `KEY_LOAD` (R421): `i` writes OBS_KEY_CMD with OP LOAD (R421) -/
  | keyLoad (i : Initiator) (slot : Fin 4096)
  /-- `KEY_ZERO` (R421): `i` writes OBS_KEY_CMD with OP ZERO (R421) -/
  | keyZero (i : Initiator) (slot : Fin 4096)
  /-- `AUTH_UNIT_OPEN` (R425): `i` writes OPEN to OBS_AU_CTL of unit `u` (R425) -/
  | authUnitOpen (i : Initiator) (u : Fin 4)
  /-- `AUTH_UNIT_COMPARE` (R425): `i` writes COMPARE with TLEN `tlen` (R425) -/
  | authUnitCompare (i : Initiator) (u : Fin 4) (tlen : Fin 32)
  /-- `AUTH_UNIT_CLOSE` (R425): `i` writes CLOSE (R425) -/
  | authUnitClose (i : Initiator) (u : Fin 4)
  /-- `AUTH_TAG_WRITE` (R425): `i` writes word `j` of OBS_AU_TAG (R425) -/
  | authTagWrite (i : Initiator) (u j : Fin 4) (v : Word)
  /-- `AUTH_DATA_READ` (R425): `i` reads OBS_AU_DATA (R425) -/
  | authDataRead (i : Initiator) (u : Fin 4)
  /-- `LANE_BLOCK_LOCK` (R426): lane `lane` gains block lock (R426) -/
  | laneBlockLock (lane : Fin 2)
  /-- `LANE_LOCK_LOSS` (R426): lane `lane` loses block lock (R426) -/
  | laneLockLoss (lane : Fin 2)
  /-- `ALIGN_BLOCK` (R427): ALIGN arrives on a lane with its counter (R427) -/
  | alignBlock (lane : Fin 2) (counter : BitVec 32)
  /-- `ALIGN_SEND` (R427): 16,384 blocks per lane have passed (R427) -/
  | alignSend
  /-- `HELLO_FRAME` (R431): HELLO arrives (R428, R429, R431); the `len` bytes between SOF and EOF, header, payload and trailer, byte 0 lowest -/
  | helloFrame (len frame : Nat)
  /-- `HELLO_TIMER` (R431): tCW_HELLO passes (R431) -/
  | helloTimer
  /-- `ACK_FRAME` (R430): ACK arrives (R430) -/
  | ackFrame (len frame : Nat)
  /-- `NAK_FRAME` (R430): NAK arrives (R430) -/
  | nakFrame (len frame : Nat)
  /-- `RETRANSMIT_TIMEOUT` (R430): no ACK has advanced for tCW_RTX (R430) -/
  | retransmitTimeout
  /-- `ACK_KEEPALIVE` (R430): tCW_KEEP passes (R430) -/
  | ackKeepalive
  /-- `PEER_TIMEOUT` (R431): no valid frame for tCW_PEER_TMO (R431) -/
  | peerTimeout
  /-- `PLAN_FRAME` (R437): PLAN arrives (R436) -/
  | planFrame (len frame : Nat)
  /-- `PLAN_ACK_FRAME` (R437): PLAN_ACK arrives (R437) -/
  | planAckFrame (len frame : Nat)
  /-- `TENANT_FRAME` (R434): TENANT arrives (R434) -/
  | tenantFrame (len frame : Nat)
  /-- `ITEM_BEGIN_FRAME` (R434): ITEM_BEGIN arrives (R434) -/
  | itemBeginFrame (len frame : Nat)
  /-- `DATA_FRAME` (R434): DATA arrives (R434) -/
  | dataFrame (len frame : Nat)
  /-- `ITEM_END_FRAME` (R435): ITEM_END arrives (R435) -/
  | itemEndFrame (len frame : Nat)
  /-- `ITEM_ABORT_FRAME` (R433): ITEM_ABORT arrives (R433) -/
  | itemAbortFrame (len frame : Nat)
  /-- `ITEM_READBACK_DONE` (R435): every granule of the item has committed and been read back; `lost`: one reached step 7 of the ladder (R435) -/
  | itemReadbackDone (t kind id ofs : Nat) (lost : Bool)
  /-- `VERIFIED_FRAME` (R435): VERIFIED arrives (R435) -/
  | verifiedFrame (len frame : Nat)
  /-- `HISTORY_FRAME` (R440): HISTORY arrives (R440) -/
  | historyFrame (len frame : Nat)
  /-- `STOP_FRAME` (R437): STOP arrives (R437) -/
  | stopFrame (len frame : Nat)
  /-- `END_FRAME` (R437): END arrives (R437) -/
  | endFrame (len frame : Nat)
  /-- `EXPORT_GRANULE_READ` (R433): the exporter's read of the next granule ends; `lost`: it reached step 7 of the ladder (R433) -/
  | exportGranuleRead (lost : Bool)
  /-- `SESSION_GO` (R438): `i` writes CSW_CTL with GO (R438) -/
  | sessionGo (i : Initiator)
  /-- `SESSION_STOP` (R437): `i` writes CSW_CTL with STOP (R437) -/
  | sessionStop (i : Initiator)
  /-- `SESSION_DRAINED` (R437): every item in flight is verified or aborted (R437) -/
  | sessionDrained
  /-- `FAULT_LATCH` (R442): a line carries class `cls`, for one cycle or for as long as it `holds`; class 0: the condition ends (R442) -/
  | faultLatch (src : Fin 52) (cls : Fin 4) (holds : Bool)
  /-- `FAULT_PIN_PULSE_END` (R448): PULSE_US ends (R448) -/
  | faultPinPulseEnd
  /-- `FAULT_PIN_HOLD` (R448): a write of TGT_PIN (R448) -/
  | faultPinHold (i : Initiator) (p : Priv) (v : Word)
  /-- `FAULT_CLEAR` (R443): a write of TGT_STATUS_LO or TGT_STATUS_HI (R443) -/
  | faultClear (i : Initiator) (p : Priv) (hiWord : Bool) (v : Word)
  /-- `FATAL_CLEAR_DONE` (R443): Keystone performs a fatal clear; `parityOk`: every TGT register read back without a parity error (R443, R447) -/
  | fatalClearDone (parityOk : Bool)
  /-- `GRACE_EXPIRY` (R445): the grace timer expires; `acts`: Keystone acts within tTGT_KBK (R445, R446) -/
  | graceExpiry (acts : Bool)
  /-- `HELD_TAKEOUT_ISSUE` (R445): a unit command has ended and a held take-out is issued (R445) -/
  | heldTakeoutIssue
  /-- `KEYSTONE_BACKSTOP` (R446): tTGT_KBK passes without Keystone (R446) -/
  | keystoneBackstop
  /-- `TOLLGATE_SELF_CHECK` (R447): the latch logic checks itself (R447) -/
  | tollgateSelfCheck (error : Bool)
  /-- `TOLLGATE_ARMED` (R443): every source is armed (R443) -/
  | tollgateArmed
  /-- `INJECT_ARM` (R449): TGT_INJ with OP ARM (R449) -/
  | injectArm (i : Initiator) (p : Priv) (count nbits : Nat) (src : Fin 64)
  /-- `INJECT_DISARM` (R449): TGT_INJ with OP DISARM (R449) -/
  | injectDisarm (i : Initiator) (p : Priv)
  /-- `MINUTE_TICK` (R450): a full minute of operation ends (R450) -/
  | minuteTick
  /-- `CAIRN_RESTORE` (R451): the flash area has been scanned and the RESERVE record written, verified or not (R451, R452) -/
  | cairnRestore (reserveOk : Bool)
  /-- `LOG_FREEZE` (R456): a CRN_CTL write with FREEZE 1 (R456) -/
  | logFreeze (i : Initiator) (v : Word)
  /-- `LOG_UNFREEZE` (R456): a CRN_CTL write with FREEZE 0 (R456) -/
  | logUnfreeze (i : Initiator) (v : Word)
  /-- `FREEZE_TIMEOUT` (R456): FREEZE_MS passes (R456) -/
  | freezeTimeout
  /-- `SB_WINDOW_HEAD_READ` (R457): a sideband read of CRN_SB_HEAD (R457) -/
  | sbWindowHeadRead
  /-- `SB_WINDOW_ADVANCE` (R457): a sideband read of word 15 of the window (R457) -/
  | sbWindowAdvance
  /-- `PERSIST_TIMER` (R458): PERSIST_S seconds elapse (R458) -/
  | persistTimer
  /-- `PERSIST_GO` (R458): a CRN_PERSIST write (R458) -/
  | persistGo (i : Initiator) (v : Word)
  /-- `PERSIST_DONE` (R458): a flash write ends, verified or failed (R458) -/
  | persistDone (ok : Bool)
  /-- `LOG_RELEASE` (R460): a CRN_RELEASE write (R460) -/
  | logRelease (i : Initiator) (v : Word)
  /-- `RELEASE_APPLIED` (R460): Keystone removes the released records (R460) -/
  | releaseApplied
  /-- `FW_RECORD_STAGE` (R454): a CRN_FW_DATA write (R454) -/
  | fwRecordStage (i : Initiator) (v : Word)
  /-- `FW_RECORD_WRITE` (R454): a CRN_FW_GO write (R454) -/
  | fwRecordWrite (i : Initiator) (v : Word)
  /-- `SLICE_CLOCK` (R183): one slice clock: the eight ADC codes of readers A and B (R183, R188, R190 to R193) -/
  | sliceClock (n : Fin 8) (a b : List Int)
  /-- `RST_N_RELEASE` (R467): RST_N rises with the SoC held in reset since its release; the straps as sampled (R467) -/
  | rstNRelease (bootcfg sbAddr : Fin 4)
  /-- `WAKE_MAX_EXPIRY` (R162): WAKE_MAX minutes of surveying in a Dormant wake pass (R162) -/
  | wakeMaxExpiry
  /-- `NVME_DELETE_IO_QUEUE` (R90): Delete I/O Completion or Submission Queue (R90) -/
  | nvmeDeleteIoQueue (k : Fin 65536) (cq : Bool) (qid : Nat)
  /-- `NVME_ABORT` (R90): Abort of command `cid` of queue `sq` (R90) -/
  | nvmeAbort (k : Fin 65536) (sq cid : Nat)
  /-- `NVME_SET_FEATURES` (R90): Set Features (R90) -/
  | nvmeSetFeatures (k : Fin 65536) (fid value : Nat)
  /-- `NVME_GET_FEATURES` (R90): Get Features (R90) -/
  | nvmeGetFeatures (k : Fin 65536) (fid : Nat)
  /-- `NVME_ASYNC_EVENT_REQUEST` (R90): Asynchronous Event Request (R90) -/
  | nvmeAsyncEventRequest (k : Fin 65536)
deriving DecidableEq, Repr

end Sys2Proof
end

