-- ==== Sys2Proof/Config.lean ====
section
/-!
DEFINITION. Sys2Proof/Config.lean: what the spec leaves to the part or to another standard, as constants without a body: no
proof can see a value of one, so a claim holds whatever it is. The free values are applied to State.fresh, a counter the
step advances.
-/

namespace Sys2Proof.Config

/-- A free value of `w` bits, the n-th taken: nothing constrains it. -/
opaque freeBits (w n : Nat) : BitVec w

/-- A free choice among `k` alternatives, the n-th taken. -/
opaque freeChoice (k n : Nat) : Nat

/-- The first word of the power management, PCI Express and MSI-X capabilities in the configuration space (R90, R107, R109):
the spec leaves their places to the part. -/
opaque capPm : Nat
opaque capPcie : Nat
opaque capMsix : Nat

/-- The NVMe version register VS, and CAP.TO: the spec states neither (R109). -/
opaque nvmeVs : BitVec 32
opaque nvmeTo : BitVec 8

/-- The first shadow word of a tenant's Identify Namespace data and of its READ CAPACITY data: drive firmware commits both to the
shadow file (R118), at a place the spec does not name. -/
opaque identifyPlace (tenant : Nat) : Nat
opaque capacityPlace (tenant : Nat) : Nat

/-- Sectors of the cleaning-reserve bands of an actuator, for FLOOR bands (R157): which bands they are is left open. -/
opaque cleanReserve (act floor : Nat) : Nat

/-- The first shadow word of a SAS VPD page (R108 leaves its place in the first 4 KiB open). -/
opaque vpdPlace (page : Nat) : Nat

/-- Bank (bits 19 to 15) and row (bits 14 to 0) of an HBM offset: the stack's own address mapping (R335, R346). -/
opaque hbmRow (ofs : Nat) : Nat

/-- Output of the servo-band reject filter for the latest of the reader-B samples it has been given (R183): the filter's
coefficients are not stated. -/
opaque servoReject (samples : List Int) : Int

/-- The calibration offset of a slice's Milestone for a head, in 1/64 bit (R212): the spec gives it no register. -/
opaque slicePhase (slice head : Nat) : Int

/-- Whether the track IDs of two successive samples count as consistent (R281): the test is not stated. -/
opaque idConsistent (prev now : Nat) : Bool

/-- The microcode ROM's version (STRn_ID), and the ROM address of the handler of an event of R395 (0 for the dispatch of
WORK). -/
opaque romVer : BitVec 32
opaque strEntry (event : Nat) : Nat

/-- The patch key fused at manufacture and the public key fixed in the microcode ROM (R398). -/
opaque patchKey : Nat
opaque patchPub : Nat

/-- Byte of a data slot at which a nano-word's CRC 4 appends the 8-byte check (R391 leaves it open). -/
opaque crcPlace : Nat

/-- Where in its staging region Causeway leaves a received history stream (R459), in 64-byte units. -/
opaque predPlace (len : Nat) : Nat

/-- The shift of the circulant that a code set's parity-check matrix has in a block, if it has one (R231, R232): the shifts stand in
Quarry's ROM. -/
opaque circulant (codeSet row col : Nat) : Option (BitVec 6)

/-- By how much, in 1/64 bit, a clock's te moves the phase of a slice's clock (R212): the loop's gain is not stated. -/
opaque phaseStep (te : Int) : Int

/-- The centre of stripe `k` in 1/64 of a wedge bit from the start of the stripe field, from its samples, and the sync's timing in 1/64 of the
channel clock, from its own (R277): how a stripe is read and what a sync's timing is taken from is not stated. -/
opaque stripeCentre (k : Nat) (samples : List Int) : Option Int
opaque syncTiming (samples : List Int) : Int

/-- The dither's course over a cycle of 65,536 units, in Q15 of its amplitude (R285): the waveform is not stated. -/
opaque ditherWave (phase : Nat) : BitVec 16

/-- The angle error of the demodulated q-axis current of high-frequency injection (R308): the demodulator's gain is not stated. -/
opaque hfiError (current : Int) : BitVec 16

/-- A duty clamped for a phase current at its limit, both in Q15 of 3.5 A (R319): by how much it is clamped is not stated. -/
opaque dutyClamp (duty : Nat) (current limit : Int) : BitVec 16

end Sys2Proof.Config
end

