-- ==== Sys2Proof/Machine/Crypto.lean ====
section
/-!
DEFINITION. Sys2Proof/Machine/Crypto.lean: the algorithms the spec takes from FIPS 180-4 (SHA-384: R62, R63, R73, R398),
FIPS 186-5 (ECDSA on P-384: R63, R73, R398) and FIPS 197 (AES-256: R417, R398). A byte string is a number whose bits 8k + 7
to 8k are byte k.
-/

namespace Sys2Proof.Machine

/-- Byte `k` of a byte string. -/
def byteAt (data k : Nat) : Nat := data >>> (8 * k) % 256

/-- `n` bytes at `ofs` as a big-endian number. -/
def beNum (data ofs n : Nat) : Nat := (List.range n).foldl (fun v k => v * 256 + byteAt data (ofs + k)) 0

/-! ### SHA-384 (FIPS 180-4) -/

/-- The first `n` primes from `m` on, within `f` numbers. -/
def primesFrom : Nat → Nat → Nat → List Nat
  | 0, _, _ => []
  | f + 1, n, m =>
    if n = 0 then []
    else if (List.range m).all (fun q => q < 2 || m % q ≠ 0) then m :: primesFrom f (n - 1) (m + 1)
    else primesFrom f n (m + 1)

/-- The largest `x` with `x ^ e` at most `v`, of at most `bits` bits above the bits of `x0`. -/
def rootFloor (e v : Nat) : Nat → Nat → Nat
  | 0, x0 => x0
  | k + 1, x0 => rootFloor e v k (if (x0 + 2 ^ k) ^ e ≤ v then x0 + 2 ^ k else x0)

/-- The first 64 bits of the fractional part of the `e`-th root of `q`, where FIPS 180-4 takes its constants from. -/
def rootBits (e q : Nat) : Nat := rootFloor e (q * 2 ^ (64 * e)) 70 0 % 2 ^ 64

/-- The round constants: the cube roots of the first 80 primes. -/
def shaRoundConsts : List Nat := (primesFrom 410 80 2).map (rootBits 3)

/-- The initial hash value of SHA-384: the square roots of the ninth to sixteenth primes. -/
def shaStart : List Nat := ((primesFrom 54 16 2).drop 8).map (rootBits 2)

/-- A 64-bit word turned right by `n`, the bits that leave it coming in on the left. -/
def turn64 (x n : Nat) : Nat := x / 2 ^ n + x % 2 ^ n * 2 ^ (64 - n)

/-- The exclusive or of a word turned by each of `l`, with a last term. -/
def turns (x : Nat) (l : List Nat) (last : Nat) : Nat := l.foldl (fun v n => v ^^^ turn64 x n) last

/-- Where a bit of `x` is 1 the bit of `y`, else that of `z`; and the bit that two of three words share. -/
def bitPick (x y z : Nat) : Nat := z ^^^ (x &&& (y ^^^ z))
def bitMost (x y z : Nat) : Nat := (x &&& y) ||| (z &&& (x ||| y))

/-- Blocks of the padded message. -/
def shaBlocks (len : Nat) : Nat := (len + 17 + 127) / 128

/-- Byte `p` of the padded message: the message, a one bit, zeros, and the length in bits as 128 bits big-endian. -/
def shaByte (data len p : Nat) : Nat :=
  let total := 128 * shaBlocks len
  if p < len then byteAt data p
  else if p = len then 0x80
  else if total - 16 ≤ p then byteAt (8 * len) (total - 1 - p)
  else 0

/-- Word `t` of a block of the padded message. -/
def shaWord (data len blk t : Nat) : Nat :=
  (List.range 8).foldl (fun v k => v * 256 + shaByte data len (128 * blk + 8 * t + k)) 0

/-- The message schedule of a block, latest word first, `n` words longer than the 16 it starts from. -/
def shaSchedule : Nat → List Nat → List Nat
  | 0, l => l
  | n + 1, l =>
    let at_ := fun k => l.getD k 0
    let w := turns (at_ 1) [19, 61] (at_ 1 / 2 ^ 6) + at_ 6 + turns (at_ 14) [1, 8] (at_ 14 / 2 ^ 7) + at_ 15
    shaSchedule n (w % 2 ^ 64 :: l)

/-- One round, on the last four values of each of the two chains that FIPS 180-4 calls a to d and e to h; `kw` is the sum of its
constant and its schedule word. -/
def shaStep (s : List Nat × List Nat) (kw : Nat) : List Nat × List Nat :=
  let a := fun k => s.1.getD k 0
  let e := fun k => s.2.getD k 0
  let x := e 3 + turns (e 0) [14, 18, 41] 0 + bitPick (e 0) (e 1) (e 2) + kw
  let y := turns (a 0) [28, 34, 39] 0 + bitMost (a 0) (a 1) (a 2)
  ((x + y) % 2 ^ 64 :: s.1.take 3, (a 3 + x) % 2 ^ 64 :: s.2.take 3)

/-- One block into the hash value. -/
def shaBlock (data len blk : Nat) (h : List Nat) : List Nat :=
  let ws := (shaSchedule 64 ((List.range 16).map (shaWord data len blk)).reverse).reverse
  let r := (shaRoundConsts.zipWith (· + ·) ws).foldl shaStep (h.take 4, h.drop 4)
  h.zipWith (fun v x => (v + x) % 2 ^ 64) (r.1 ++ r.2)

/-- The digest as a big-endian number of 384 bits. -/
def sha384Num (len data : Nat) : Nat :=
  (((List.range (shaBlocks len)).foldl (fun h b => shaBlock data len b h) shaStart).take 6).foldl
    (fun v w => v * 2 ^ 64 + w) 0

/-- SHA-384 of the first `len` bytes of `data`: the 48 bytes of the digest, byte 0 lowest. -/
def sha384 (len data : Nat) : Nat := beNum (sha384Num len data) 0 48

/-! ### ECDSA on P-384 (FIPS 186-5, SP 800-186) -/

def p384p : Nat := 2 ^ 384 - 2 ^ 128 - 2 ^ 96 + 2 ^ 32 - 1
def p384n : Nat := 0xffffffffffffffffffffffffffffffffffffffffffffffffc7634d81f4372ddf581a0db248b0a77aecec196accc52973
def p384b : Nat := 0xb3312fa7e23ee7e4988e056be3f82d19181d9c6efe8141120314088f5013875ac656398d8a2ed19d2a85c8edd3ec2aef
def p384gx : Nat := 0xaa87ca22be8b05378eb1c71ef320ad746e1d3b628ba79b9859f741e082542a385502f25dbf55296c3a545e3872760ab7
def p384gy : Nat := 0x3617de4a96262c6f5d9e98bf9292dc29f8f41dbd289a147ce9da3113b5f0b8c00a60b1ce1d7e819d7a431d7c90ea0e5f

/-- `x ^ e` modulo `m`, over the low `bits` bits of `e`. -/
def powMod (m x e : Nat) : Nat → Nat
  | 0 => 1
  | bits + 1 =>
    let r := powMod m x (e / 2) bits
    let q := r * r % m
    if e % 2 = 1 then q * x % m else q

/-- The inverse modulo a 384-bit prime. -/
def invMod (m x : Nat) : Nat := powMod m x (m - 2) 384

/-- A point of the curve; `none` is the point at infinity. -/
abbrev CurvePoint := Option (Nat × Nat)

/-- A difference modulo p. -/
def subP (x y : Nat) : Nat := (x + p384p - y) % p384p

/-- The third point on the line of slope `l` through two points, reflected. -/
def chord (l x1 y1 x2 : Nat) : CurvePoint :=
  let x3 := subP (subP (l * l % p384p) x1) x2
  some (x3, subP (l * subP x1 x3 % p384p) y1)

/-- Addition on the curve, whose coefficient a is -3. -/
def pointAdd (u v : CurvePoint) : CurvePoint :=
  match u, v with
  | none, q => q
  | q, none => q
  | some (x1, y1), some (x2, y2) =>
    if x1 = x2 then
      if (y1 + y2) % p384p = 0 then none
      else chord (subP (3 * x1 * x1 % p384p) 3 * invMod p384p (2 * y1 % p384p) % p384p) x1 y1 x2
    else chord (subP y2 y1 * invMod p384p (subP x2 x1) % p384p) x1 y1 x2

/-- `k` times a point, over the low `bits` bits of `k`. -/
def pointMul (q : CurvePoint) (k : Nat) : Nat → CurvePoint
  | 0 => none
  | bits + 1 =>
    let r := pointMul q (k / 2) bits
    let d := pointAdd r r
    if k % 2 = 1 then pointAdd d q else d

/-- The point lies on the curve, with both coordinates reduced. -/
def onCurve (x y : Nat) : Bool :=
  x < p384p && y < p384p && y * y % p384p = (subP (x * x % p384p * x % p384p) (3 * x % p384p) + p384b) % p384p

/-- ECDSA verification with SHA-384 (R63): it fails where the key is not on the curve, where r or s lies outside 1 to n - 1,
and where the equation fails. The key is X then Y, the signature r then s, 48 big-endian bytes each. -/
def ecdsaP384 (key sig len data : Nat) : Bool :=
  let x := beNum key 0 48
  let y := beNum key 48 48
  let r := beNum sig 0 48
  let s := beNum sig 48 48
  let w := invMod p384n s
  let u1 := sha384Num len data * w % p384n
  let u2 := r * w % p384n
  onCurve x y && 1 ≤ r && r < p384n && 1 ≤ s && s < p384n
    && match pointAdd (pointMul (some (p384gx, p384gy)) u1 384) (pointMul (some (x, y)) u2 384) with
      | none => false
      | some q => q.1 % p384n = r

/-! ### AES-256 (FIPS 197) -/

/-- Multiplication by x in GF(2^8). -/
def aesXtime (b : Nat) : Nat := if b < 128 then 2 * b else (2 * b % 256) ^^^ 0x1B

/-- Multiplication in GF(2^8), over the low `bits` bits of `a`. -/
def aesMul (a b : Nat) : Nat → Nat
  | 0 => 0
  | bits + 1 => (if a % 2 = 1 then b else 0) ^^^ aesMul (a / 2) (aesXtime b) bits

/-- The inverse in GF(2^8): the 254th power. -/
def aesInv (b : Nat) : Nat :=
  let sq := fun x => aesMul x x 8
  let b2 := sq b
  let b4 := sq b2
  let b8 := sq b4
  let b16 := sq b8
  let b32 := sq b16
  let b64 := sq b32
  let b128 := sq b64
  [b4, b8, b16, b32, b64, b128].foldl (fun v x => aesMul v x 8) b2

/-- Rotation of a byte to the left. -/
def rol8 (b n : Nat) : Nat := (b * 2 ^ n) % 256 + b / 2 ^ (8 - n)

/-- The S-box. -/
def aesSub (b : Nat) : Nat :=
  let v := aesInv b
  v ^^^ rol8 v 1 ^^^ rol8 v 2 ^^^ rol8 v 3 ^^^ rol8 v 4 ^^^ 0x63

/-- The inverse S-box. -/
def aesInvSub (b : Nat) : Nat := aesInv (rol8 b 1 ^^^ rol8 b 3 ^^^ rol8 b 6 ^^^ 0x05)

/-- Exclusive or of two byte lists. -/
def xorBytes (a b : List Nat) : List Nat := (a.zip b).map fun q => q.1 ^^^ q.2

/-- The key schedule, word by word: `n` words still to add, `i` the next one's number, the eight latest words (the latest
last), rcon the next round constant. -/
def aesExpand : Nat → Nat → List (List Nat) → Nat → List (List Nat)
  | 0, _, last, _ => last
  | n + 1, i, last, rcon =>
    let prev := last.getD 7 []
    let t :=
      if i % 8 = 0 then xorBytes ((prev.tail ++ prev.take 1).map aesSub) [rcon, 0, 0, 0]
      else if i % 8 = 4 then prev.map aesSub else prev
    let w := xorBytes (last.headD []) t
    (last.take 1) ++ aesExpand n (i + 1) (last.tail ++ [w]) (if i % 8 = 0 then aesXtime rcon else rcon)

/-- Round key `r` of a key schedule, as 16 bytes. -/
def roundKey (ws : List (List Nat)) (r : Nat) : List Nat := ((ws.drop (4 * r)).take 4).flatten

/-- ShiftRows, and its inverse: byte `i` of the result comes from the byte of its row that stands `i % 4` columns on (back). -/
def aesShift (inv : Bool) (s : List Nat) : List Nat :=
  (List.range 16).map fun i => s.getD ((if inv then i + 12 * (i % 4) else i + 4 * (i % 4)) % 16) 0

/-- MixColumns with the column `m` of coefficients. -/
def aesMix (m : List Nat) (s : List Nat) : List Nat :=
  (List.range 16).map fun i =>
    (List.range 4).foldl (fun v k => v ^^^ aesMul (m.getD ((k + 4 - i % 4) % 4) 0) (s.getD (i / 4 * 4 + k) 0) 8) 0

/-- The 16 bytes of a block, and back. -/
def blockBytes (b : Nat) : List Nat := (List.range 16).map (byteAt b)
def bytesBlock (l : List Nat) : Nat := l.foldr (fun b v => b + 256 * v) 0

/-- The key schedule of a 32-byte key: 60 words. -/
def aesKeys (key : Nat) : List (List Nat) :=
  aesExpand 52 8 ((List.range 8).map fun i => (List.range 4).map fun j => byteAt key (4 * i + j)) 1

/-- AES-256 on one 16-byte block (R417). -/
def aesBlock (key : Nat) (decrypt : Bool) (block : Nat) : Nat :=
  let ws := aesKeys key
  if decrypt then
    let s0 := xorBytes (blockBytes block) (roundKey ws 14)
    let s1 := (List.range 13).foldl (fun s r =>
      aesMix [14, 11, 13, 9] (xorBytes ((aesShift true s).map aesInvSub) (roundKey ws (13 - r)))) s0
    bytesBlock (xorBytes ((aesShift true s1).map aesInvSub) (roundKey ws 0))
  else
    let s0 := xorBytes (blockBytes block) (roundKey ws 0)
    let s1 := (List.range 13).foldl (fun s r =>
      xorBytes (aesMix [2, 3, 1, 1] (aesShift false (s.map aesSub))) (roundKey ws (r + 1))) s0
    bytesBlock (xorBytes (aesShift false (s1.map aesSub)) (roundKey ws 14))

/-! ### XTS (IEEE 1619) -/

/-- Multiplication by alpha in GF(2^128) (IEEE 1619), byte 0 lowest. -/
def xtsAlpha (t : Nat) : Nat := (t * 2 % 2 ^ 128) ^^^ (if t / 2 ^ 127 % 2 = 1 then 0x87 else 0)

/-- One block of XTS or raw work under K1. -/
def aesOne (op key tweak b : Nat) : Nat :=
  let dec := decide (op = 2 ∨ op = 4)
  if op ≤ 2 then (aesBlock key dec (b ^^^ tweak)) ^^^ tweak else aesBlock key dec b

/-- The blocks of a slot, with the tweak multiplied after each where `mul`. -/
def aesBlocks (op key : Nat) (mul : Bool) : List Nat → Nat → List Nat × Nat
  | [], t => ([], t)
  | b :: rest, t =>
    let q := aesBlocks op key mul rest (if mul then xtsAlpha t else t)
    (aesOne op key t b :: q.1, q.2)

/-- `n` blocks of 16 bytes under XTS with K1 in the low and K2 in the high half of `bits`, the tweak from `dun` (R423); op 1
encrypts, 2 decrypts. -/
def xtsBlocks (op bits dun n data : Nat) : Nat :=
  let r := aesBlocks op (bits % 2 ^ 256) true ((List.range n).map fun i => data >>> (128 * i) % 2 ^ 128)
    (aesBlock (bits / 2 ^ 256) false dun)
  r.1.reverse.foldl (fun v b => v * 2 ^ 128 + b) 0

/-- The 4,096 user bytes of a sector. -/
def xtsSector (op bits dun data : Nat) : Nat := xtsBlocks op bits dun 256 data

end Sys2Proof.Machine
end

