-- ==== Sys2Proof/Machine/Kenul.lean ====
section
/-!
DEFINITION. Sys2Proof/Machine/Kenul.lean: the Kenul structure image (chapter 02): its layout, the fields it carries, and the
loader's checks in the order of R64 and R482. An image is a number whose bits 8k + 7 to 8k are the byte at offset k.
-/

namespace Sys2Proof.Machine

/-- A slice record of WEAVE (R43). -/
structure SliceRec where
  act : Nat
  pair : Nat
  servo : Bool
deriving DecidableEq, Repr

/-- A zone record (R46). -/
structure Zone where
  start : Nat
  rate : Nat
  spt : Nat
  band : Nat
  code : Nat
  precomp : Nat
  eq : Nat
deriving DecidableEq, Repr

/-- A SURFACE section (R46): surface number, wedge format, servo rate, tracks and zones; its bytes, which the Touchstone record
repeats (R228). -/
structure Surface where
  surf : Nat
  wedge : Bool
  rate : Nat
  tracks : Nat
  zones : List Zone
  raw : Nat := 0
  len : Nat := 0
deriving DecidableEq, Repr

/-- A group record of PORT (R48). -/
structure PortRec where
  pers : Nat
  lanes : Nat
  maxRate : Nat
  sasPorts : Nat
deriving DecidableEq, Repr

/-- A claim (R51, R57): resource, owner code, controller mask. -/
structure Claim where
  id : Nat
  owner : Nat
  mask : Nat
deriving DecidableEq, Repr

/-- A PATCH entry (R52). -/
structure PatchEntry where
  mask : Nat
  ofs : Nat
  len : Nat
  ver : Nat
  digest : Nat
deriving DecidableEq, Repr

/-- What an applied image fixes (chapter 02). -/
structure Kenul where
  serial : Nat := 0
  present : Nat := 0
  heads : List Nat := []
  slices : List SliceRec := []
  rpm : Nat := 0
  polePairs : Nat := 0
  hfiTimer : Nat := 0
  dither : List Nat := []
  surfaces : List Surface := []
  ports : List PortRec := []
  parts : List (Nat × Nat) := []
  claims : List Claim := []
  patches : List PatchEntry := []
  pubkey : Nat := 0
  /-- The WEAVE and MOTOR sections as bytes. -/
  weave : Nat := 0
  motor : Nat := 0
deriving DecidableEq, Repr

/-- What the loader found for one slot (R64). -/
inductive SlotResult where
  | pass (k : Kenul)
  | fail (code : Nat) (whereOfs : Nat)
  | conflict (id owner1 owner2 : Nat)
deriving DecidableEq, Repr

/-- `n` bytes of an image at offset `off`, little-endian (R38). -/
def rdLe (img off n : Nat) : Nat := (img >>> (8 * off)) % 2 ^ (8 * n)

/-- Bit `i` of a number. -/
def bitAt (v i : Nat) : Bool := v.testBit i

/-! ### CRC-32C (R61) -/

/-- One bit of the reflected CRC-32C. -/
def crc32cBit (c : Nat) : Nat := if c % 2 = 1 then (c / 2) ^^^ 0x82F63B78 else c / 2

/-- One byte of the reflected CRC-32C. -/
def crc32cByte (c b : Nat) : Nat :=
  crc32cBit (crc32cBit (crc32cBit (crc32cBit (crc32cBit (crc32cBit (crc32cBit (crc32cBit (c ^^^ b))))))))

/-- CRC-32C register after the first `n` bytes of `img`. -/
def crc32cRun (img : Nat) : Nat → Nat
  | 0 => 0xFFFFFFFF
  | n + 1 => crc32cByte (crc32cRun img n) (rdLe img n 1)

/-- CRC-32C of the first `n` bytes (R61). -/
def crc32c (img n : Nat) : Nat := crc32cRun img n ^^^ 0xFFFFFFFF

/-! ### Code sets and the fit test (R203 to R206) -/

/-- N of a code set (R204). -/
def codeN (cs : Nat) : Nat := 36480 + 640 * cs

/-- Channel bits of a sector (R204). -/
def codeL (cs : Nat) : Nat := codeN cs + 512

/-- Channel bits of one revolution (R203). -/
def revBits (rate rpm : Nat) : Nat := rate * 60000000 / rpm

/-- Channel bits of a servo wedge (R205). -/
def wedgeBits (rate : Nat) : Nat := ceilDiv (rate * 12) 10

/-- The fit test of R206: `w` wedges per revolution. -/
def zoneFits (rate spt cs w rpm : Nat) : Bool :=
  decide (0 < rpm ∧ spt * codeL cs + w * (wedgeBits rate + 96) + 1024 ≤ revBits rate rpm)

/-! ### Resources (R54 to R56) -/

/-- The instances of a resource class (R54); 0 for no such class. -/
def resInstances (cls : Nat) : Nat :=
  match cls with
  | 0x01 => 48 | 0x02 => 8 | 0x03 => 16 | 0x04 => 64 | 0x05 => 32 | 0x06 => 48
  | 0x07 => 8 | 0x08 => 8 | 0x09 => 64 | 0x0A => 8 | 0x0B => 8 | _ => 0

/-- A resource ID of R54. -/
def resOk (id : Nat) : Bool := decide (id % 256 < resInstances (id / 256))

/-- An ID of class BLS_AUX_PWM (R45). -/
def auxOk (id : Nat) : Bool := id / 256 = 0x02 && resOk id

/-- An owner code of R55. -/
def ownerOk (c : Nat) : Bool :=
  (1 ≤ c && c ≤ 3) || (0x10 ≤ c && c ≤ 0x1B) || (0x20 ≤ c && c ≤ 0x27) || (0x30 ≤ c && c ≤ 0x33)
    || (0x40 ≤ c && c ≤ 0x43) || (0x50 ≤ c && c ≤ 0x53)

/-- A controller mask of R56 for an owner. -/
def maskOk (m owner : Nat) : Bool :=
  m < 32 && (!bitAt m 4 || (0x10 ≤ owner && owner ≤ 0x1B))

/-! ### Step 2: the header (R40, R39) -/

/-- `some off` when the check fails. -/
def chk (ok : Bool) (off : Nat) : Option Nat := if ok then none else some off

/-- The first nonzero byte of `n` reserved bytes at `off` (R38). -/
def zeroBytes (img off : Nat) : Nat → List (Option Nat)
  | 0 => []
  | n + 1 => chk (rdLe img off 1 = 0) off :: zeroBytes img (off + 1) n

/-- The limits on IMG_LEN (R39). -/
def imgLenOk (len cnt : Nat) : Bool :=
  len % 8 = 0 && len ≤ 0x100000 && 64 + 16 * cnt + 200 ≤ len

/-- The first failing header field (R482 item 1). -/
def headerFail (img : Nat) : Option Nat :=
  ([chk (rdLe img 0 4 = 0x554E454B) 0, chk (rdLe img 4 2 = 0x0100) 4, chk (rdLe img 6 2 = 64) 6,
    chk (imgLenOk (rdLe img 8 4) (rdLe img 0xC 2)) 8,
    chk (1 ≤ rdLe img 0xC 2 && rdLe img 0xC 2 ≤ 64) 0xC]
   ++ zeroBytes img 0xE 2 ++ [chk (rdLe img 0x10 4 = 0x9640) 0x10] ++ zeroBytes img 0x20 32).findSome? id

/-! ### Step 6: directory and counts (R482 items 2 and 3) -/

/-- A directory entry: where it stands, its fields. -/
structure DirEntry where
  at_ : Nat
  typ : Nat
  inst : Nat
  off : Nat
  len : Nat
deriving DecidableEq, Repr

/-- Directory entry `k` (R41). -/
def dirEntry (img k : Nat) : DirEntry :=
  let e := 0x40 + 16 * k
  { at_ := e, typ := rdLe img e 2, inst := rdLe img (e + 2) 2, off := rdLe img (e + 4) 4, len := rdLe img (e + 8) 4 }

/-- The directory (R39). -/
def directory (img : Nat) : List DirEntry := (List.range (rdLe img 0xC 2)).map (dirEntry img)

/-- The length of a section whose length no count of its own changes. -/
def fixedLen (typ : Nat) : Option Nat :=
  match typ with
  | 1 => some 40 | 2 => some 16 | 4 => some 16 | 5 => some 24 | _ => none

/-- The section types of R42. -/
def typeOk (t : Nat) : Bool := (1 ≤ t && t ≤ 7) || (0xF0 ≤ t && t ≤ 0xFF)

/-- Placement of a section (R39) against the directory, the trailer and the earlier entries. A section of length 0 whose offset
lies strictly inside another overlaps it (DESIGN CHOICE: R39 does not say). -/
def placeOk (imgLen cnt : Nat) (earlier : List DirEntry) (d : DirEntry) : Bool :=
  d.off % 8 = 0 && 64 + 16 * cnt ≤ d.off && d.off + d.len ≤ imgLen - 200
    && earlier.all fun x => decide (d.off + d.len ≤ x.off ∨ x.off + x.len ≤ d.off)

/-- The checks of one entry (R482 item 2). -/
def entryFail (img imgLen cnt : Nat) (earlier : List DirEntry) (d : DirEntry) : Option Nat :=
  ([chk (typeOk d.typ) d.at_,
    chk (if d.typ = 3 then d.inst < 32 else d.inst = 0) (d.at_ + 2),
    chk (placeOk imgLen cnt earlier d) (d.at_ + 4),
    chk (match fixedLen d.typ with | some n => d.len = n | none => true) (d.at_ + 8)]
   ++ zeroBytes img (d.at_ + 12) 4).findSome? id

/-- The checks of the directory, entry by entry. -/
def directoryFail (img imgLen cnt : Nat) : List DirEntry → List DirEntry → Option Nat
  | _, [] => none
  | earlier, d :: rest =>
    match entryFail img imgLen cnt earlier d with
    | some o => some o
    | none => directoryFail img imgLen cnt (earlier ++ [d]) rest

/-- The first entry of type `t`. -/
def entryOf (dir : List DirEntry) (t : Nat) : Option DirEntry := dir.find? fun d => d.typ = t

/-- Section counts of a type other than SURFACE (R42): at most one, and one when required. -/
def countFail (dir : List DirEntry) (t : Nat) (required : Bool) : Option Nat :=
  match dir.filter (fun d => d.typ = t) with
  | [] => if required then some 0x0C else none
  | [_] => none
  | _ :: d :: _ => some d.at_

/-- Head count byte of actuator `a` as WEAVE stores it. -/
def weaveHeads (img w a : Nat) : Nat := rdLe img (w + 4 + a) 1

/-- SURFACE entries beyond the count, in directory order: a second one of a head, or one of a head WEAVE does not
declare. -/
def surfaceExtra (img w : Nat) : List Nat → List DirEntry → Option Nat
  | _, [] => none
  | seen, d :: rest =>
    if d.typ ≠ 3 then surfaceExtra img w seen rest
    else if weaveHeads img w (d.inst / 8) ≤ d.inst % 8 ∨ d.inst ∈ seen then some d.at_
    else surfaceExtra img w (d.inst :: seen) rest

/-- SURFACE counts against the head counts as stored in WEAVE (R482 item 3). An extra SURFACE is reported before a missing one,
and heads 8 and up of a stored count above 8 are not missing, since no INST names one (DESIGN CHOICE: R482 ranks neither). -/
def surfaceCountFail (img : Nat) (dir : List DirEntry) : Option Nat :=
  let w := ((entryOf dir 1).map DirEntry.off).getD 0
  match surfaceExtra img w [] dir with
  | some o => some o
  | none =>
    if (List.range 32).all fun i => decide (weaveHeads img w (i / 8) ≤ i % 8) || dir.any fun d => d.typ = 3 && d.inst = i
    then none else some 0x0C

/-- The section counts, TYPE by TYPE (R482 item 3). -/
def countsFail (img : Nat) (dir : List DirEntry) : Option Nat :=
  [countFail dir 1 true, countFail dir 2 true].findSome? id
  |>.orElse fun _ => surfaceCountFail img dir
  |>.orElse fun _ => [countFail dir 4 true, countFail dir 5 true, countFail dir 6 false, countFail dir 7 false].findSome? id

/-! ### Step 6: the sections (R482 items 4 and 5)

A breach is held as where its last field is read (position of the section in the directory, offset) and the offset it is
reported at; the first such breach is the one recorded. -/

/-- A breach of a section rule. -/
structure Breach where
  pos : Nat
  key : Nat
  report : Nat
deriving DecidableEq, Repr

/-- The earlier of two breaches. -/
def Breach.before (a b : Breach) : Bool := a.pos < b.pos || (a.pos = b.pos && a.key < b.key)

/-- The earliest breach of a list. -/
def firstBreach (l : List Breach) : Option Breach :=
  l.foldl (fun m b => match m with | none => some b | some a => if b.before a then some b else some a) none

/-- A breach at one field when the check fails. -/
def br (pos off : Nat) (ok : Bool) : List Breach := if ok then [] else [⟨pos, off, off⟩]

/-- Reserved bytes that must be zero (R38). -/
def brZero (img pos off n : Nat) : List Breach :=
  (List.range n).flatMap fun k => br pos (off + k) (rdLe img (off + k) 1 = 0)

/-- A rule over two fields, reported at the one read later. -/
def brLate (p1 o1 p2 o2 : Nat) (ok : Bool) : List Breach :=
  if ok then [] else if p1 < p2 || (p1 = p2 && o1 < o2) then [⟨p2, o2, o2⟩] else [⟨p1, o1, o1⟩]

/-- Position of a section in the directory. -/
def posOf (dir : List DirEntry) (t inst : Nat) : Nat := (dir.findIdx? fun d => d.typ = t && d.inst = inst).getD 0

/-- Offset of a section. -/
def offOf (dir : List DirEntry) (t : Nat) : Nat := ((entryOf dir t).map DirEntry.off).getD 0

/-- Slice record `n` of WEAVE at `w` (R43). -/
def sliceRec (img w n : Nat) : SliceRec :=
  { act := rdLe img (w + 8 + 4 * n) 1, pair := rdLe img (w + 9 + 4 * n) 1, servo := rdLe img (w + 10 + 4 * n) 1 = 1 }

/-- The eight slice records. -/
def sliceRecs (img w : Nat) : List SliceRec := (List.range 8).map (sliceRec img w)

/-- Actuator `a` is marked present in WEAVE. -/
def actPresent (img w a : Nat) : Bool := bitAt (rdLe img w 1) a

/-- Rules of one slice record (R43, R44). -/
def sliceBreaches (img w p n : Nat) : List Breach :=
  let o := w + 8 + 4 * n
  let a := rdLe img o 1
  let pr := rdLe img (o + 1) 1
  let sv := rdLe img (o + 2) 1
  br p o ((a < 4 && actPresent img w a) || a = 0xFF)
  ++ br p o (a = 0xFF || ((List.range (n + 1)).filter fun k => rdLe img (w + 8 + 4 * k) 1 = a).length ≤ 4)
  ++ br p (o + 1) ((pr ≤ 1 || pr = 0xFF) && (a ≠ 0xFF || pr = 0xFF))
  ++ br p (o + 2) (sv ≤ 1 && (a ≠ 0xFF || sv = 0) && (sv = 0 || pr ≠ 0xFF))
  ++ brZero img p (o + 3) 1

/-- Slices of actuator `a` with SERVO 1, as slice numbers. -/
def servoSlices (img w a : Nat) : List Nat :=
  (List.range 8).filter fun n => rdLe img (w + 8 + 4 * n) 1 = a && rdLe img (w + 10 + 4 * n) 1 = 1

/-- WEAVE (R43, R44), but for the rules it shares with the surfaces. -/
def weaveBreaches (img : Nat) (dir : List DirEntry) : List Breach :=
  let w := offOf dir 1
  let p := posOf dir 1 0
  br p w (1 ≤ rdLe img w 1 && rdLe img w 1 < 16) ++ brZero img p (w + 1) 3
  ++ (List.range 4).flatMap (fun a =>
      let h := rdLe img (w + 4 + a) 1
      br p (w + 4 + a) (if actPresent img w a then 1 ≤ h && h ≤ 8 else h = 0))
  ++ (List.range 8).flatMap (sliceBreaches img w p)
  ++ (List.range 4).flatMap (fun a =>
      br p (w + 8 + 4 * 7 + 1)
        (!actPresent img w a || (List.range 8).any fun n => rdLe img (w + 8 + 4 * n) 1 = a && rdLe img (w + 9 + 4 * n) 1 ≤ 1))

/-- The servo-slice rules of R44 against the surfaces, in the later section (R482 item 5). -/
def servoBreaches (img : Nat) (dir : List DirEntry) (a : Nat) : List Breach :=
  let w := offOf dir 1
  let wp := posOf dir 1 0
  let sv := servoSlices img w a
  let ss := dir.zipIdx.filter fun q => q.1.typ = 3 && q.1.inst / 8 = a
  let cont := ss.filter fun q => rdLe img (q.1.off + 1) 1 = 0
  match cont, ss.getLast? with
  | c :: _, _ =>
    let at_ := match sv with
      | _ :: n :: _ => w + 10 + 4 * n
      | _ => w + 10 + 4 * 7
    brLate c.2 (c.1.off + 1) wp at_ (sv.length = 1)
  | [], some l => brLate l.2 (l.1.off + 1) wp (w + 10 + 4 * sv.headD 0) (sv = [])
  | [], none => []

/-- MOTOR (R45). -/
def motorBreaches (img : Nat) (dir : List DirEntry) : List Breach :=
  let m := offOf dir 2
  let p := posOf dir 2 0
  let w := offOf dir 1
  let wp := posOf dir 1 0
  br p m (3600 ≤ rdLe img m 2 && rdLe img m 2 ≤ 7200)
  ++ br p (m + 2) (1 ≤ rdLe img (m + 2) 1 && rdLe img (m + 2) 1 ≤ 8) ++ brZero img p (m + 3) 1
  ++ br p (m + 4) (auxOk (rdLe img (m + 4) 2)) ++ brZero img p (m + 6) 2
  ++ (List.range 4).flatMap fun a =>
      let d := rdLe img (m + 8 + 2 * a) 2
      br p (m + 8 + 2 * a) (d = 0xFFFF || auxOk d)
      ++ brLate p (m + 8 + 2 * a) wp w (d = 0xFFFF || actPresent img w a)

/-- Zone `k` of the surface at `u` (R46). -/
def zoneAt (img u k : Nat) : Zone :=
  let z := u + 16 + 16 * k
  { start := rdLe img z 4, rate := rdLe img (z + 4) 2, spt := rdLe img (z + 6) 2, band := rdLe img (z + 8) 2,
    code := rdLe img (z + 10) 1, precomp := rdLe img (z + 11) 1, eq := rdLe img (z + 12) 1 }

/-- Rules of zone `k` of `n` (R47); the last START completes a breach with TRACKS; the fit test is reported at SPT when no code
set would fit, else at CODE_SET, or at TARGET_RPM when MOTOR stands later (DEDUCED from R482 items 4 and 5). -/
def zoneBreaches (img u p n tracks wedges rpm mp m k : Nat) : List Breach :=
  let z := u + 16 + 16 * k
  let q := zoneAt img u k
  let rates := (List.range (k + 1)).map fun j => (zoneAt img u j).rate
  let big := rates.foldl max 0
  let small := rates.foldl min 65535
  br p z ((if k = 0 then q.start = 0 else (zoneAt img u (k - 1)).start < q.start) && (k + 1 < n || q.start < tracks))
  ++ br p (z + 4) (2261 ≤ q.rate && q.rate ≤ 5200) ++ br p (z + 4) (10 * big ≤ 23 * small)
  ++ br p (z + 8) (1 ≤ q.band) ++ br p (z + 10) (q.code ≤ 7) ++ br p (z + 11) (q.precomp ≤ 15)
  ++ br p (z + 12) (q.eq ≤ 15) ++ brZero img p (z + 13) 3
  ++ (if zoneFits q.rate q.spt 0 wedges rpm then
        brLate p (z + 10) mp m (7 < q.code || zoneFits q.rate q.spt q.code wedges rpm)
      else brLate p (z + 6) mp m false)

/-- A SURFACE section (R46, R47). -/
def surfaceBreaches (img : Nat) (dir : List DirEntry) (d : DirEntry) : List Breach :=
  let u := d.off
  let p := posOf dir 3 d.inst
  let m := offOf dir 2
  let mp := posOf dir 2 0
  let rpm := rdLe img m 2
  let fmt := rdLe img (u + 1) 1
  let n := rdLe img (u + 2) 2
  let rate := rdLe img (u + 4) 4
  let tracks := rdLe img (u + 8) 4
  let wedges := if fmt = 1 then rate else 0
  let zonesOk := 1 ≤ n && n ≤ 64
  br p u (rdLe img u 1 = d.inst) ++ br p (u + 1) (fmt ≤ 1) ++ br p (u + 2) zonesOk
  ++ (if zonesOk && d.len ≠ 16 + 16 * n then [⟨p, u + 2, d.at_ + 8⟩] else [])
  ++ br p (u + 4) (1 ≤ rate && (fmt ≠ 0 || rate ≤ 240000))
  ++ brLate p (u + 4) mp m (fmt ≠ 1 || rate * rpm ≤ 3840000)
  ++ brZero img p (u + 12) 4
  ++ (if zonesOk then (List.range n).flatMap (zoneBreaches img u p n tracks wedges rpm mp m) else [])

/-- The legal MAX_RATE codes (R48). -/
def maxRateOk (pers r : Nat) : Bool :=
  match pers with
  | 1 => 1 ≤ r && r ≤ 5
  | 2 => r = 3 || r = 4
  | 3 => r = 3
  | _ => r = 0

/-- A group record of PORT (R48, R49). -/
def portBreaches (img q p g : Nat) : List Breach :=
  let b := q + 8 * g
  let pers := rdLe img b 1
  let lanes := rdLe img (b + 1) 1
  let sp := rdLe img (b + 3) 1
  br p b (pers ≤ 3 && !(g = 1 && (pers = 3 || (rdLe img q 1 = 3 && pers ≠ 0))))
  ++ br p (b + 1) (if pers = 0 then lanes = 0 else if pers = 3 then lanes = 1 else lanes = 1 || lanes = 2 || lanes = 4)
  ++ br p (b + 2) (maxRateOk pers (rdLe img (b + 2) 1))
  ++ br p (b + 3) (if pers = 2 then (sp = 1 || sp = 2) && (lanes = sp || lanes = 2 * sp) else sp = 0)
  ++ brZero img p (b + 4) 4

/-- The least size of a region, in 64 MiB units (R50). -/
def partMin (t : Nat) : Nat :=
  match t with | 1 => 16 | 2 => 4 | 3 => 8 | 5 => 2 | _ => 0

/-- PART (R50); a wrong total is reported at the SIZE of the last record (R482 item 4). -/
def partBreaches (img : Nat) (dir : List DirEntry) : List Breach :=
  let q := offOf dir 5
  let p := posOf dir 5 0
  let size := fun k => rdLe img (q + 6 + 4 * k) 2
  let typ := fun k => rdLe img (q + 4 + 4 * k) 1
  let total := ((List.range 5).map size).foldl (· + ·) 0
  br p q (rdLe img q 1 = 5) ++ brZero img p (q + 1) 3
  ++ (List.range 5).flatMap fun k =>
      br p (q + 4 + 4 * k) (1 ≤ typ k && typ k ≤ 5 && (List.range k).all fun j => typ j ≠ typ k)
      ++ brZero img p (q + 5 + 4 * k) 1
      ++ br p (q + 6 + 4 * k) (partMin (typ k) ≤ size k && (k < 4 || total = 256))

/-- CLAIM (R51, R54 to R56). -/
def claimBreaches (img : Nat) (dir : List DirEntry) : List Breach :=
  match entryOf dir 6 with
  | none => []
  | some d =>
    let c := d.off
    let p := posOf dir 6 0
    let n := rdLe img c 2
    br p c (n ≤ 4096) ++ (if n ≤ 4096 && d.len ≠ 4 + 4 * n then [⟨p, c, d.at_ + 8⟩] else []) ++ brZero img p (c + 2) 2
    ++ (if n ≤ 4096 then (List.range n).flatMap fun k =>
          let y := c + 4 + 4 * k
          br p y (resOk (rdLe img y 2)) ++ br p (y + 2) (ownerOk (rdLe img (y + 2) 1))
          ++ br p (y + 3) (maskOk (rdLe img (y + 3) 1) (rdLe img (y + 2) 1))
        else [])

/-- PATCH (R52, R53). -/
def patchBreaches (img : Nat) (dir : List DirEntry) : List Breach :=
  match entryOf dir 7 with
  | none => []
  | some d =>
    let c := d.off
    let p := posOf dir 7 0
    let n := rdLe img c 2
    let ok := 1 ≤ n && n ≤ 64
    br p c ok ++ (if ok && d.len ≠ 8 + 64 * n then [⟨p, c, d.at_ + 8⟩] else []) ++ brZero img p (c + 2) 6
    ++ (if ok then (List.range n).flatMap fun k =>
          let y := c + 8 + 64 * k
          br p y (1 ≤ rdLe img y 2 && rdLe img y 2 < 0x1000) ++ brZero img p (y + 2) 2
        else [])

/-- Every breach of the section rules (R482 items 4 and 5) and the trailer's reserved bytes (R38, R60), which are checked after
every section (DESIGN CHOICE: R482 does not place them). -/
def sectionBreaches (img : Nat) (dir : List DirEntry) : List Breach :=
  let q := offOf dir 4
  let pp := posOf dir 4 0
  weaveBreaches img dir ++ motorBreaches img dir
  ++ (dir.filter fun d => d.typ = 3).flatMap (surfaceBreaches img dir)
  ++ (List.range 4).flatMap (servoBreaches img dir)
  ++ portBreaches img q pp 0 ++ portBreaches img q pp 1
  ++ partBreaches img dir ++ claimBreaches img dir ++ patchBreaches img dir
  ++ brZero img dir.length (rdLe img 8 4 - 200 + 4) 4

/-! ### The image's content, and step 7 (R57, R58) -/

/-- Claims derived from one section (R57). -/
def derivedOf (img : Nat) (d : DirEntry) : List Claim :=
  match d.typ with
  | 1 => (List.range 8).filterMap fun n =>
      let s := sliceRec img d.off n
      if s.act ≤ 3 && s.pair ≤ 1 then some ⟨0x0A00 + s.act * 2 + s.pair, 0x20 + n, 3⟩ else none
  | 2 => ⟨rdLe img (d.off + 4) 2, 0x41, 3⟩ :: (List.range 4).filterMap fun a =>
      let t := rdLe img (d.off + 8 + 2 * a) 2
      if t = 0xFFFF then none else some ⟨t, 0x30 + a, 3⟩
  | 4 => (List.range 2).flatMap fun g =>
      (List.range (rdLe img (d.off + 8 * g + 1) 1)).map fun l => ⟨0x0B00 + g * 4 + l, 0x50 + g, 3⟩
  | _ => []

/-- The claims a CLAIM section lists (R51). -/
def listedClaims (img : Nat) (dir : List DirEntry) : List Claim :=
  match entryOf dir 6 with
  | none => []
  | some d => (List.range (rdLe img d.off 2)).map fun k =>
      let y := d.off + 4 + 4 * k
      ⟨rdLe img y 2, rdLe img (y + 2) 1, rdLe img (y + 3) 1⟩

/-- Every claim, in the order of R57. -/
def allClaims (img : Nat) (dir : List DirEntry) : List Claim := dir.flatMap (derivedOf img) ++ listedClaims img dir

/-- The first claim of a resource an earlier claim names, with both owners (R58). -/
def claimConflict : List Claim → List Claim → Option (Nat × Nat × Nat)
  | _, [] => none
  | seen, c :: rest =>
    match seen.find? fun x => x.id = c.id with
    | some x => some (c.id, x.owner, c.owner)
    | none => claimConflict (seen ++ [c]) rest

/-- The surface of a SURFACE section. -/
def surfaceOf (img : Nat) (d : DirEntry) : Surface :=
  { surf := d.inst, wedge := rdLe img (d.off + 1) 1 = 1, rate := rdLe img (d.off + 4) 4, tracks := rdLe img (d.off + 8) 4,
    zones := (List.range (rdLe img (d.off + 2) 2)).map (zoneAt img d.off), raw := rdLe img d.off d.len, len := d.len }

/-- The content of an image that passes; the surfaces in ascending number. -/
def kenulOf (img : Nat) (dir : List DirEntry) : Kenul :=
  let w := offOf dir 1
  let m := offOf dir 2
  let q := offOf dir 4
  let r := offOf dir 5
  { serial := rdLe img 0x14 4
    present := rdLe img w 1
    heads := (List.range 4).map fun a => rdLe img (w + 4 + a) 1
    slices := sliceRecs img w
    rpm := rdLe img m 2
    polePairs := rdLe img (m + 2) 1
    hfiTimer := rdLe img (m + 4) 2
    dither := (List.range 4).map fun a => rdLe img (m + 8 + 2 * a) 2
    surfaces := (List.range 32).filterMap fun n => (dir.find? fun d => d.typ = 3 && d.inst = n).map (surfaceOf img)
    ports := (List.range 2).map fun g =>
      ⟨rdLe img (q + 8 * g) 1, rdLe img (q + 8 * g + 1) 1, rdLe img (q + 8 * g + 2) 1, rdLe img (q + 8 * g + 3) 1⟩
    parts := (List.range 5).map fun k => (rdLe img (r + 4 + 4 * k) 1, rdLe img (r + 6 + 4 * k) 2)
    claims := allClaims img dir
    patches := match entryOf dir 7 with
      | none => []
      | some d => (List.range (rdLe img d.off 2)).map fun k =>
          let y := d.off + 8 + 64 * k
          ⟨rdLe img y 2, rdLe img (y + 4) 4, rdLe img (y + 8) 4, rdLe img (y + 12) 4, rdLe img (y + 16) 48⟩
    pubkey := rdLe img (rdLe img 8 4 - 200 + 8) 96
    weave := rdLe img w 40
    motor := rdLe img m 16 }

/-- Steps 6 and 7 (R64). -/
def layoutResult (img : Nat) : SlotResult :=
  let dir := directory img
  match (directoryFail img (rdLe img 8 4) (rdLe img 0xC 2) [] dir).orElse fun _ => countsFail img dir with
  | some o => .fail 0x9 o
  | none =>
    match firstBreach (sectionBreaches img dir) with
    | some b => .fail 0x9 b.report
    | none =>
      match claimConflict [] (allClaims img dir) with
      | some (id, o1, o2) => .conflict id o1 o2
      | none => .pass (kenulOf img dir)

/-- A key hash matches a slot that is programmed and not revoked (R62). -/
def keyMatches (slots : List (Bool × Bool × Nat)) (h : Nat) : Bool :=
  slots.any fun s => s.1 && !s.2.1 && s.2.2 = h

/-- One slot through the steps of R64. `readErr` is a flash read error or time-out. -/
def checkSlot (slots : List (Bool × Bool × Nat)) (img : Nat) (readErr : Bool) : SlotResult :=
  let len := rdLe img 8 4
  let t := len - 200
  if readErr then .fail 0x4 0
  else if rdLe img 0 4 = 0xFFFFFFFF then .fail 0x3 0
  else match headerFail img with
    | some o => .fail 0x5 o
    | none =>
      if crc32c img t ≠ rdLe img t 4 then .fail 0x6 0
      else if !keyMatches slots (sha384 96 (rdLe img (t + 8) 96)) then .fail 0x7 0
      else if !ecdsaP384 (rdLe img (t + 8) 96) (rdLe img (t + 104) 96) (len - 96) (rdLe img 0 (len - 96)) then .fail 0x8 0
      else layoutResult img

/-! ### The choice between the slots (R65) -/

/-- The image of a slot that passed. -/
def SlotResult.image : SlotResult → Option Kenul
  | .pass k => some k
  | _ => none

/-- The slot to apply: the only one that passed, the higher SERIAL, or A on equal ones (R65). -/
def chosenSlot (a b : SlotResult) : Option (Nat × Kenul) :=
  match a.image, b.image with
  | some x, some y => if x.serial < y.serial then some (1, y) else some (0, x)
  | some x, none => some (0, x)
  | none, some y => some (1, y)
  | none, none => none

end Sys2Proof.Machine
end

