-- ==== Sys2Proof/Machine/CodeOps.lean ====
section
/-!
DEFINITION. Sys2Proof/Machine/CodeOps.lean: what a sector is as channel bits: the code (R231, R232), the scrambler (R210), the sector
check (R209), the fields of a sector (R207, R208, R211), and where the bits of a track lie (R205, R225).
-/

namespace Sys2Proof.Machine

/-! ### Bytes and bits -/

/-- Bytes as one little-endian number. -/
def bytesLe : List Nat → Nat
  | [] => 0
  | b :: rest => b + 256 * bytesLe rest

/-- `n` little-endian bytes of a number. -/
def leBytes (v : Nat) : Nat → List Nat
  | 0 => []
  | n + 1 => v % 256 :: leBytes (v / 256) n

/-- Bits of bytes, each sent bit 7 first. -/
def bytesToBits (l : List Nat) : List Bool := l.flatMap fun b => (List.range 8).map fun k => b / 2 ^ (7 - k) % 2 = 1

/-- Bytes of a bit string, each sent bit 7 first. -/
def bitsToBytes (d : List Bool) (n : Nat) : List Nat :=
  (List.range n).map fun i => (List.range 8).foldl (fun a k => 2 * a + b2n ((d[8 * i + k]?).getD false)) 0

/-! ### The code (R231, R232) -/

/-- A circulant: block row, shift, block column. -/
structure Circ where
  row : Nat
  shift : Nat
  col : Nat
deriving DecidableEq, Repr

/-- K, block rows, and block columns. -/
def codeK : Nat := 33088
def codeMB (set : Nat) : Nat := 53 + 10 * set
def codeNB (set : Nat) : Nat := 570 + 10 * set

/-- The circulants of row `r` as Quarry's ROM holds them, by column. -/
def romRow (set r : Nat) : List Circ :=
  (List.range (codeNB set)).filterMap fun c => (Config.circulant set r c).map fun v => ⟨r, v.toNat, c⟩

/-- The columns on check row `r` of circulants `cs`. -/
def rowCols (cs : List Circ) (r : Nat) : List Nat :=
  (cs.filter fun c => c.row = r / 64).map fun c => 64 * c.col + (r % 64 + c.shift) % 64

/-- A square matrix over GF(2), its rows as masks of `n` columns, is nonsingular. -/
def regularGf2 : Nat → List Nat → Bool
  | 0, _ => true
  | n + 1, rows =>
    match rows.find? fun q => bitAt q n with
    | none => false
    | some p => regularGf2 n ((rows.erase p).map fun q => if bitAt q n then q ^^^ p else q)

/-- The parity columns of a check row as a mask. -/
def parityMask (cols : List Nat) : Nat := (cols.filter fun j => codeK ≤ j).foldl (fun m j => m ^^^ 2 ^ (j - codeK)) 0

/-- The circulants of a code set in the order of R232: sorted by ROW, then by COL, one in a block at most, SHIFT from 0 to 63. The shifts
stand in Quarry's ROM; with them the parity columns are nonsingular (R231), so of the ROMs that Config leaves free those that are not
so are not codes, and stand here with the identity in their parity columns. -/
def circulants (set : Nat) : List Circ :=
  let rom := (List.range (codeMB set)).flatMap (romRow set)
  if regularGf2 (64 * codeMB set) ((List.range (64 * codeMB set)).map fun r => parityMask (rowCols rom r)) then rom
  else (List.range (codeMB set)).flatMap fun r => ((romRow set r).filter fun c => c.col < codeK / 64) ++ [⟨r, 0, codeK / 64 + r⟩]

/-- A description's entry of a circulant: ROW, SHIFT, COL. -/
def Circ.entry (c : Circ) : Nat := c.row + 2 ^ 8 * c.shift + 2 ^ 16 * c.col

/-- All check rows, by their columns, layer by layer. -/
def checkRows (set : Nat) : List (List Nat) := (List.range (64 * codeMB set)).map (rowCols (circulants set))

/-- Parity of the bits two masks of `n` bits share. -/
def maskParity (n x : Nat) : Bool := (List.range n).foldl (fun a k => a != bitAt x k) false

/-- A solution of linear equations over GF(2) in `n` unknowns: each equation a mask of unknowns and its right side. -/
def solveGf2 : Nat → List (Nat × Bool) → Nat
  | 0, _ => 0
  | n + 1, rows =>
    match rows.find? fun q => bitAt q.1 n with
    | none => solveGf2 n rows
    | some p =>
      let rest := (rows.erase p).map fun q => if bitAt q.1 n then (q.1 ^^^ p.1, q.2 != p.2) else q
      let x := solveGf2 n rest
      if maskParity n (p.1 &&& x) != p.2 then x + 2 ^ n else x

/-- The parity bits K to N - 1 of a codeword, which H fixes uniquely by its information bits (R208, R231). -/
def parityBits (set : Nat) (info : List Bool) : List Bool :=
  let eqs := (checkRows set).map fun cols =>
    (parityMask cols, (cols.filter fun j => j < codeK).foldl (fun a j => a != (info[j]?).getD false) false)
  let x := solveGf2 (64 * codeMB set) eqs
  (List.range (64 * codeMB set)).map fun k => bitAt x k

/-! ### The scrambler (R210) -/

/-- One step of the register. -/
def scrStep (r : Nat) : Nat := (r * 2 + ((r / 2 ^ 22 % 2) ^^^ (r / 2 ^ 17 % 2))) % 2 ^ 23

/-- The first `n` bits of the sequence from register `r`. -/
def scrBits : Nat → Nat → List Bool
  | _, 0 => []
  | r, n + 1 => (r / 2 ^ 22 % 2 = 1) :: scrBits (scrStep r) n

/-- The sequence of an address. -/
def scramble (addr n : Nat) : List Bool :=
  let r := (addr % 2 ^ 23) ^^^ 0x555555
  scrBits (if r = 0 then 1 else r) n

/-! ### The sector check (R209) -/

/-- One bit and one byte of CRC-64 with reflected polynomial. -/
def crc64Bit (c : Nat) : Nat := if c % 2 = 1 then (c / 2) ^^^ 0xC96C5795D7870F42 else c / 2
def crc64Byte (c b : Nat) : Nat := crc64Bit (crc64Bit (crc64Bit (crc64Bit (crc64Bit (crc64Bit (crc64Bit (crc64Bit (c ^^^ b))))))))

/-- CRC-64 of a run of bytes. -/
def crc64 (bytes : List Nat) : Nat := bytes.foldl crc64Byte 0xFFFFFFFFFFFFFFFF ^^^ 0xFFFFFFFFFFFFFFFF

/-- The address field of a sector by its PSA, or by its SSA in the system area. -/
def addrField (sys : Bool) (addr : Nat) : List Nat := if sys then leBytes addr 4 ++ [0, 255] else leBytes addr 6

/-! ### A sector (R207, R208, R211) -/

/-- The fields of a sector by sector bit position (R207). -/
def posSm1 : Nat := 320
def posSeg1 : Nat := 368
def posSm2 : Nat := 4416
def posSeg2 : Nat := 4464

/-- Bits of segment 1, and of the preamble pattern written after a wedge (R205, R207). -/
def seg1Len : Nat := 4048
def relockLen : Nat := 96

/-- The sync marks, sent bit 47 first (R211). -/
def markSm1 : Nat := 0xF3A85C1B6E47
def markSm2 : Nat := 0x0C57A3E491B8

/-- `n` repeats of 0b1111_0000. -/
def preamble (n : Nat) : List Bool := bytesToBits (List.replicate n 0xF0)

/-- A mark, bit 47 first. -/
def markBits (m : Nat) : List Bool := (List.range 48).map fun k => m / 2 ^ (47 - k) % 2 = 1

/-- The codeword of a sector: 4,096 user bytes, 32 metadata bytes, the check over the address field and both, and the parity
(R208, R209). -/
def codeword (set : Nat) (addr user metaB : List Nat) : List Bool :=
  let info := bytesToBits (user ++ metaB ++ leBytes (crc64 (addr ++ user ++ metaB)) 8)
  info ++ parityBits set info

/-- The channel bits of a sector, in the order of R207; `seed` is its PSA or SSA. -/
def channelBits (set seed : Nat) (addr user metaB : List Nat) : List Bool :=
  let c := (codeword set addr user metaB).zipWith (fun a b => a != b) (scramble seed (codeN set))
  preamble 40 ++ markBits markSm1 ++ c.take seg1Len ++ markBits markSm2 ++ c.drop seg1Len ++ preamble 4 ++ preamble 8

/-- Those of the sector at address `addr`: 4,096 user bytes and 32 metadata bytes as numbers. -/
def sectorChannel (set : Nat) (sys : Bool) (addr user metaB : Nat) : List Bool :=
  channelBits set addr (addrField sys addr) (leBytes user 4096) (leBytes metaB 32)

/-! ### The track (R205) -/

/-- Where sector bits lie on a track: bits of a revolution, wedges in it, and the bits of a wedge span and its relock field. -/
structure TrackGeo where
  rev : Nat
  wedges : Nat
  wedge : Nat
deriving DecidableEq, Repr

/-- Wedges per revolution of a surface. -/
def Surface.wedges (x : Surface) : Nat := if x.wedge then x.rate else 0

/-- The tracks of zone `z` of a surface. -/
def trackGeo (x : Surface) (z : Zone) (rpm : Nat) : TrackGeo := ⟨revBits z.rate rpm, x.wedges, wedgeBits z.rate⟩

/-- First track bit of wedge `i`, and of the sector bits behind its relock field. -/
def TrackGeo.wedgeAt (g : TrackGeo) (i : Nat) : Nat := i * g.rev / g.wedges
def TrackGeo.after (g : TrackGeo) (i : Nat) : Nat := g.wedgeAt i + g.wedge + relockLen

/-- The wedge behind which the `p`-th sector bit counted from behind wedge `i` lies, and its number from there; `f` wedges are left. -/
def TrackGeo.spot (g : TrackGeo) : Nat → Nat → Nat → Nat × Nat
  | 0, i, p => (i, p)
  | f + 1, i, p =>
    let room := g.wedgeAt (i + 1) - g.after i
    if p < room then (i, p) else g.spot f (i + 1) (p - room)

/-- The track bit of sector bit `q` of a track, counted from sector 0's first. -/
def TrackGeo.bit (g : TrackGeo) (q : Nat) : Nat :=
  if g.wedges = 0 then q
  else
    let x := g.spot g.wedges 0 q
    g.after x.1 + x.2

/-- What a track bit is. -/
inductive BitAt where
  | wedge
  | relock
  /-- A sector bit, counted from sector 0's first; past the last sector it lies in the track gap. -/
  | data (q : Nat)
deriving DecidableEq, Repr

/-- Track bit `b`. -/
def TrackGeo.at (g : TrackGeo) (b : Nat) : BitAt :=
  if g.wedges = 0 then .data b
  else
    let i := ((b + 1) * g.wedges - 1) / g.rev
    let o := b - g.wedgeAt i
    if o < g.wedge then .wedge else if o < g.wedge + relockLen then .relock
    else .data (g.wedgeAt i - i * (g.wedge + relockLen) + (o - (g.wedge + relockLen)))

/-- Sector bits laid on the track from the `p`-th one behind wedge `i` on: each span for which the gate is open, by its first track bit. The
gate is closed across every wedge span, and the relock field is written with the bits that follow it. -/
def TrackGeo.lay (g : TrackGeo) : Nat → Nat → Nat → List Bool → List (Nat × List Bool)
  | 0, _, _, _ => []
  | f + 1, i, p, l =>
    if l.isEmpty then []
    else
      let room := g.wedgeAt (i + 1) - g.after i - p
      let x := l.take room
      (if p = 0 then (g.after i - relockLen, preamble 12 ++ x) else (g.after i + p, x)) :: g.lay f (i + 1) 0 (l.drop room)

/-- Sector bits laid on the track from sector bit `q` on. -/
def TrackGeo.spans (g : TrackGeo) (q : Nat) (l : List Bool) : List (Nat × List Bool) :=
  if g.wedges = 0 then [(q, l)]
  else
    let x := g.spot g.wedges 0 q
    g.lay (g.wedges - x.1) x.1 x.2 l

/-- Touchstone cells as channel bits: 32 equal ones each (R225). -/
def cellBits (cells : List Bool) : List Bool := cells.flatMap (List.replicate 32)

end Sys2Proof.Machine
end

