-- ==== Sys2Proof/Machine/RegNames.lean ====
section
/-!
DEFINITION. Sys2Proof/Machine/RegNames.lean: the Towpath offset of every register (R10, R30 and the register line of each
block's chapter) and the place of every field in it. `R.<NAME>` takes the block instance first (LDn, STRn, ACTa, HPx), then
the indices of the register line, all counted from 0 but for SIG_SRC, whose s is the source number itself; a tenant
register takes t - 1 and BED_PART takes t - 1. `F.<REGISTER>_<FIELD>` is the field's highest and lowest bit.
-/

namespace Sys2Proof.Machine

/-- A bit field [hi:lo] of a 32-bit register. -/
structure Fld where
  hi : Nat
  lo : Nat
deriving DecidableEq, Repr

/-! ### SYS (chapter 01 to 04) -/

abbrev R.SYS_READY : Nat := 0x10
abbrev R.SYS_READY_UNIT : Nat := 0x14
abbrev R.SYS_READY_CHG : Nat := 0x18
abbrev R.SYS_KENUL_STATUS : Nat := 0x40
abbrev R.SYS_KENUL_RES : Nat := 0x44
abbrev R.SYS_KENUL_WHERE : Nat := 0x48
abbrev R.SYS_KENUL_SERIAL : Nat := 0x4c
abbrev R.SYS_KENUL_OWN (i : Nat) : Nat := 0x40000 + i * 0x4
abbrev R.SYS_RST_CAUSE : Nat := 0x4
abbrev R.SYS_BOOT_STATUS : Nat := 0x50
abbrev R.SYS_FUSE_SLOT (i : Nat) : Nat := 0x200 + i * 0x4
abbrev R.SYS_FUSE_HASH (i : Nat) (j : Nat) : Nat := 0x300 + i * 0x40 + j * 0x4
abbrev R.SYS_FUSE_STAGE (i : Nat) : Nat := 0x240 + i * 0x4
abbrev R.SYS_FUSE_PGM : Nat := 0x280
abbrev R.SYS_FUSE_PGM_STATUS : Nat := 0x284
abbrev R.SYS_MODE : Nat := 0x20
abbrev R.SYS_MODE_REQ : Nat := 0x24
abbrev R.SYS_HAVEN_CTL : Nat := 0x2c
abbrev R.SYS_HAVEN_STATUS : Nat := 0x30
abbrev R.SYS_DORMANT_CTL : Nat := 0x28
abbrev R.SYS_SURVEY_CTL : Nat := 0x34
abbrev R.SYS_SB_STATUS : Nat := 0x400
abbrev R.SYS_SB_CFG : Nat := 0x404
abbrev R.SYS_SB_PID_LO : Nat := 0x408
abbrev R.SYS_SB_PID_HI : Nat := 0x40c
abbrev F.SYS_READY_MEDIA : Fld := ⟨27, 27⟩
abbrev F.SYS_READY_WAYMARK : Fld := ⟨26, 26⟩
abbrev F.SYS_READY_ACT : Fld := ⟨25, 22⟩
abbrev F.SYS_READY_LODE : Fld := ⟨21, 21⟩
abbrev F.SYS_READY_STRATA : Fld := ⟨20, 20⟩
abbrev F.SYS_READY_QUARRY : Fld := ⟨19, 19⟩
abbrev F.SYS_READY_BASALT : Fld := ⟨18, 18⟩
abbrev F.SYS_READY_MILLSTONE : Fld := ⟨17, 17⟩
abbrev F.SYS_READY_BALLAST : Fld := ⟨16, 16⟩
abbrev F.SYS_READY_CAUSEWAY : Fld := ⟨15, 15⟩
abbrev F.SYS_READY_SIDEBAND : Fld := ⟨14, 14⟩
abbrev F.SYS_READY_HPB : Fld := ⟨13, 13⟩
abbrev F.SYS_READY_HPA : Fld := ⟨12, 12⟩
abbrev F.SYS_READY_OBSIDIAN : Fld := ⟨11, 11⟩
abbrev F.SYS_READY_MILEPOST : Fld := ⟨10, 10⟩
abbrev F.SYS_READY_CARRIAGE : Fld := ⟨9, 9⟩
abbrev F.SYS_READY_TURNPIKE : Fld := ⟨8, 8⟩
abbrev F.SYS_READY_SHALE : Fld := ⟨7, 7⟩
abbrev F.SYS_READY_BEDROCK : Fld := ⟨6, 6⟩
abbrev F.SYS_READY_MEDIA_PAIR : Fld := ⟨5, 5⟩
abbrev F.SYS_READY_PORT_PAIR : Fld := ⟨4, 4⟩
abbrev F.SYS_READY_CAIRN : Fld := ⟨3, 3⟩
abbrev F.SYS_READY_TOLLGATE : Fld := ⟨2, 2⟩
abbrev F.SYS_READY_KEYSTONE : Fld := ⟨1, 1⟩
abbrev F.SYS_READY_KENUL : Fld := ⟨0, 0⟩
abbrev F.SYS_READY_UNIT_STR : Fld := ⟨19, 8⟩
abbrev F.SYS_READY_UNIT_LD : Fld := ⟨7, 0⟩
abbrev F.SYS_READY_CHG_CHG : Fld := ⟨27, 0⟩
abbrev F.SYS_KENUL_STATUS_CODE_B : Fld := ⟨23, 20⟩
abbrev F.SYS_KENUL_STATUS_CODE_A : Fld := ⟨19, 16⟩
abbrev F.SYS_KENUL_STATUS_SLOT : Fld := ⟨8, 8⟩
abbrev F.SYS_KENUL_STATUS_STATUS : Fld := ⟨3, 0⟩
abbrev F.SYS_KENUL_RES_OWNER_2 : Fld := ⟨31, 24⟩
abbrev F.SYS_KENUL_RES_OWNER_1 : Fld := ⟨23, 16⟩
abbrev F.SYS_KENUL_RES_RES_ID : Fld := ⟨15, 0⟩
abbrev F.SYS_KENUL_WHERE_SLOT : Fld := ⟨31, 31⟩
abbrev F.SYS_KENUL_WHERE_OFFSET : Fld := ⟨19, 0⟩
abbrev F.SYS_KENUL_SERIAL_SERIAL : Fld := ⟨31, 0⟩
abbrev F.SYS_KENUL_OWN_CTRL : Fld := ⟨15, 8⟩
abbrev F.SYS_KENUL_OWN_OWNER : Fld := ⟨7, 0⟩
abbrev F.SYS_RST_CAUSE_LOST : Fld := ⟨6, 6⟩
abbrev F.SYS_RST_CAUSE_FLUSHED : Fld := ⟨5, 5⟩
abbrev F.SYS_RST_CAUSE_KEY_WDOG : Fld := ⟨4, 4⟩
abbrev F.SYS_RST_CAUSE_SIDEBAND : Fld := ⟨3, 3⟩
abbrev F.SYS_RST_CAUSE_KEY_CMD : Fld := ⟨2, 2⟩
abbrev F.SYS_RST_CAUSE_PIN : Fld := ⟨1, 1⟩
abbrev F.SYS_RST_CAUSE_POWER_ON : Fld := ⟨0, 0⟩
abbrev F.SYS_BOOT_STATUS_BOOTCFG : Fld := ⟨11, 10⟩
abbrev F.SYS_BOOT_STATUS_FLASH_MODE : Fld := ⟨9, 8⟩
abbrev F.SYS_BOOT_STATUS_LOADER : Fld := ⟨3, 0⟩
abbrev F.SYS_FUSE_SLOT_REVOKED : Fld := ⟨1, 1⟩
abbrev F.SYS_FUSE_SLOT_PROGRAMMED : Fld := ⟨0, 0⟩
abbrev F.SYS_FUSE_HASH_HASH : Fld := ⟨31, 0⟩
abbrev F.SYS_FUSE_STAGE_HASH : Fld := ⟨31, 0⟩
abbrev F.SYS_FUSE_PGM_UNLOCK : Fld := ⟨31, 16⟩
abbrev F.SYS_FUSE_PGM_SLOT : Fld := ⟨5, 4⟩
abbrev F.SYS_FUSE_PGM_OP : Fld := ⟨1, 0⟩
abbrev F.SYS_FUSE_PGM_STATUS_RESULT : Fld := ⟨7, 4⟩
abbrev F.SYS_FUSE_PGM_STATUS_DONE : Fld := ⟨1, 1⟩
abbrev F.SYS_FUSE_PGM_STATUS_BUSY : Fld := ⟨0, 0⟩
abbrev F.SYS_MODE_BUSY : Fld := ⟨31, 31⟩
abbrev F.SYS_MODE_LAST : Fld := ⟨25, 24⟩
abbrev F.SYS_MODE_REASON : Fld := ⟨23, 20⟩
abbrev F.SYS_MODE_PHASE : Fld := ⟨19, 16⟩
abbrev F.SYS_MODE_HAVEN_CAUSE : Fld := ⟨15, 8⟩
abbrev F.SYS_MODE_TARGET : Fld := ⟨7, 4⟩
abbrev F.SYS_MODE_MODE : Fld := ⟨3, 0⟩
abbrev F.SYS_MODE_REQ_TARGET : Fld := ⟨3, 0⟩
abbrev F.SYS_HAVEN_CTL_SPINDLE : Fld := ⟨0, 0⟩
abbrev F.SYS_HAVEN_STATUS_HELD : Fld := ⟨17, 17⟩
abbrev F.SYS_HAVEN_STATUS_FLUSHED : Fld := ⟨16, 16⟩
abbrev F.SYS_HAVEN_STATUS_STAGED_MIB : Fld := ⟨15, 0⟩
abbrev F.SYS_DORMANT_CTL_WAKE_MIN : Fld := ⟨15, 0⟩
abbrev F.SYS_SURVEY_CTL_HOST_SHARE : Fld := ⟨6, 0⟩
abbrev F.SYS_SB_STATUS_DYN_ADDR : Fld := ⟨22, 16⟩
abbrev F.SYS_SB_STATUS_STATIC_ADDR : Fld := ⟨14, 8⟩
abbrev F.SYS_SB_STATUS_HJ : Fld := ⟨5, 4⟩
abbrev F.SYS_SB_STATUS_MODE : Fld := ⟨0, 0⟩
abbrev F.SYS_SB_CFG_RESET_EN : Fld := ⟨2, 2⟩
abbrev F.SYS_SB_CFG_PEC_REQ : Fld := ⟨1, 1⟩
abbrev F.SYS_SB_CFG_HJ_EN : Fld := ⟨0, 0⟩
abbrev F.SYS_SB_PID_LO_PID : Fld := ⟨31, 0⟩
abbrev F.SYS_SB_PID_HI_PID : Fld := ⟨15, 0⟩

/-! ### TGT (chapter 20) -/

abbrev R.TGT_STATUS_LO : Nat := 0x100000
abbrev R.TGT_STATUS_HI : Nat := 0x100004
abbrev R.TGT_CLASS (i : Nat) : Nat := 0x100010 + i * 0x4
abbrev R.TGT_GRACE_CFG : Nat := 0x100020
abbrev R.TGT_GRACE_STAT : Nat := 0x100024
abbrev R.TGT_PIN : Nat := 0x100030
abbrev R.TGT_INJ : Nat := 0x100040
abbrev R.TGT_INJ_STAT : Nat := 0x100044
abbrev R.TGT_SRC_CFG (i : Nat) : Nat := 0x100100 + i * 0x4
abbrev R.TGT_CNT (i : Nat) : Nat := 0x100200 + i * 0x4
abbrev F.TGT_STATUS_LO_SRC : Fld := ⟨31, 0⟩
abbrev F.TGT_STATUS_HI_FATAL : Fld := ⟨22, 22⟩
abbrev F.TGT_STATUS_HI_CONTAINED : Fld := ⟨21, 21⟩
abbrev F.TGT_STATUS_HI_CORRECTED : Fld := ⟨20, 20⟩
abbrev F.TGT_STATUS_HI_SRC : Fld := ⟨19, 0⟩
abbrev F.TGT_CLASS_CLASS : Fld := ⟨31, 0⟩
abbrev F.TGT_GRACE_CFG_US : Fld := ⟨23, 0⟩
abbrev F.TGT_GRACE_STAT_RUNNING : Fld := ⟨31, 31⟩
abbrev F.TGT_GRACE_STAT_BUSY : Fld := ⟨30, 30⟩
abbrev F.TGT_GRACE_STAT_SRC : Fld := ⟨29, 24⟩
abbrev F.TGT_GRACE_STAT_REMAIN_US : Fld := ⟨23, 0⟩
abbrev F.TGT_PIN_LOW : Fld := ⟨31, 31⟩
abbrev F.TGT_PIN_PULSING : Fld := ⟨30, 30⟩
abbrev F.TGT_PIN_HOLD : Fld := ⟨8, 8⟩
abbrev F.TGT_PIN_PULSE_US : Fld := ⟨7, 0⟩
abbrev F.TGT_INJ_OP : Fld := ⟨31, 30⟩
abbrev F.TGT_INJ_COUNT : Fld := ⟨23, 16⟩
abbrev F.TGT_INJ_NBITS : Fld := ⟨9, 8⟩
abbrev F.TGT_INJ_SRC : Fld := ⟨5, 0⟩
abbrev F.TGT_INJ_STAT_ARMED : Fld := ⟨31, 31⟩
abbrev F.TGT_INJ_STAT_SEEN : Fld := ⟨30, 30⟩
abbrev F.TGT_INJ_STAT_SRC : Fld := ⟨21, 16⟩
abbrev F.TGT_INJ_STAT_LEFT : Fld := ⟨7, 0⟩
abbrev F.TGT_SRC_CFG_PIN : Fld := ⟨3, 3⟩
abbrev F.TGT_SRC_CFG_NOTIFY : Fld := ⟨2, 2⟩
abbrev F.TGT_SRC_CFG_ESC : Fld := ⟨1, 0⟩
abbrev F.TGT_CNT_ACTED : Fld := ⟨31, 31⟩
abbrev F.TGT_CNT_COUNT : Fld := ⟨15, 0⟩

/-! ### CRN (chapter 20) -/

abbrev R.CRN_CTL : Nat := 0x200000
abbrev R.CRN_STAT : Nat := 0x200004
abbrev R.CRN_SEQ_LO : Nat := 0x200008
abbrev R.CRN_SEQ_HI : Nat := 0x20000c
abbrev R.CRN_DROPPED : Nat := 0x200010
abbrev R.CRN_PERSISTED : Nat := 0x200014
abbrev R.CRN_RELEASE : Nat := 0x20001c
abbrev R.CRN_PERSIST : Nat := 0x200018
abbrev R.CRN_RD_IDX : Nat := 0x200020
abbrev R.CRN_RD_DATA (i : Nat) : Nat := 0x200040 + i * 0x4
abbrev R.CRN_FW_DATA : Nat := 0x200080
abbrev R.CRN_FW_GO : Nat := 0x200084
abbrev R.CRN_EVT : Nat := 0x200088
abbrev R.CRN_EVT_EN : Nat := 0x20008c
abbrev R.CRN_MINUTES : Nat := 0x200090
abbrev R.CRN_PCYC : Nat := 0x200094
abbrev R.CRN_PRED_LO : Nat := 0x2000a0
abbrev R.CRN_PRED_HI : Nat := 0x2000a4
abbrev R.CRN_PRED_LEN : Nat := 0x2000a8
abbrev R.CRN_SB_HEAD : Nat := 0x2000fc
abbrev R.CRN_SB_REC (i : Nat) : Nat := 0x200100 + i * 0x4
abbrev F.CRN_CTL_FREEZE : Fld := ⟨31, 31⟩
abbrev F.CRN_CTL_FREEZE_MS : Fld := ⟨23, 16⟩
abbrev F.CRN_CTL_PERSIST_S : Fld := ⟨15, 0⟩
abbrev F.CRN_STAT_FB : Fld := ⟨31, 31⟩
abbrev F.CRN_STAT_FROZEN : Fld := ⟨30, 30⟩
abbrev F.CRN_STAT_FULL : Fld := ⟨29, 29⟩
abbrev F.CRN_STAT_FLASH_BUSY : Fld := ⟨28, 28⟩
abbrev F.CRN_STAT_HELD : Fld := ⟨14, 0⟩
abbrev F.CRN_SEQ_LO_SEQ : Fld := ⟨31, 0⟩
abbrev F.CRN_SEQ_HI_SEQ : Fld := ⟨15, 0⟩
abbrev F.CRN_DROPPED_COUNT : Fld := ⟨31, 0⟩
abbrev F.CRN_PERSISTED_COUNT : Fld := ⟨14, 0⟩
abbrev F.CRN_RELEASE_COUNT : Fld := ⟨14, 0⟩
abbrev F.CRN_PERSIST_GO : Fld := ⟨0, 0⟩
abbrev F.CRN_RD_IDX_DATA : Fld := ⟨13, 0⟩
abbrev F.CRN_RD_DATA_DATA : Fld := ⟨31, 0⟩
abbrev F.CRN_FW_DATA_DATA : Fld := ⟨31, 0⟩
abbrev F.CRN_FW_GO_TYPE : Fld := ⟨31, 16⟩
abbrev F.CRN_FW_GO_CLASS : Fld := ⟨1, 0⟩
abbrev F.CRN_EVT_PRED_IN : Fld := ⟨5, 5⟩
abbrev F.CRN_EVT_PERSIST_FAIL : Fld := ⟨4, 4⟩
abbrev F.CRN_EVT_PERSIST_DONE : Fld := ⟨3, 3⟩
abbrev F.CRN_EVT_FREEZE_TMO : Fld := ⟨2, 2⟩
abbrev F.CRN_EVT_DROP : Fld := ⟨1, 1⟩
abbrev F.CRN_EVT_FULL : Fld := ⟨0, 0⟩
abbrev F.CRN_EVT_EN_PRED_IN : Fld := ⟨5, 5⟩
abbrev F.CRN_EVT_EN_PERSIST_FAIL : Fld := ⟨4, 4⟩
abbrev F.CRN_EVT_EN_PERSIST_DONE : Fld := ⟨3, 3⟩
abbrev F.CRN_EVT_EN_FREEZE_TMO : Fld := ⟨2, 2⟩
abbrev F.CRN_EVT_EN_DROP : Fld := ⟨1, 1⟩
abbrev F.CRN_EVT_EN_FULL : Fld := ⟨0, 0⟩
abbrev F.CRN_MINUTES_COUNT : Fld := ⟨31, 0⟩
abbrev F.CRN_PCYC_COUNT : Fld := ⟨15, 0⟩
abbrev F.CRN_PRED_LO_PRED : Fld := ⟨31, 0⟩
abbrev F.CRN_PRED_HI_PRED : Fld := ⟨2, 0⟩
abbrev F.CRN_PRED_LEN_PRED : Fld := ⟨31, 0⟩
abbrev F.CRN_SB_HEAD_DATA : Fld := ⟨31, 0⟩
abbrev F.CRN_SB_REC_DATA : Fld := ⟨31, 0⟩

/-! ### SIG (chapter 15) -/

abbrev R.SIG_SRC (i : Nat) : Nat := 0x300000 + i * 0x4
abbrev R.SIG_PEND (i : Nat) : Nat := 0x300400 + i * 0x4
abbrev R.SIG_THR (i : Nat) : Nat := 0x300800 + i * 0x10
abbrev R.SIG_CLAIM (i : Nat) : Nat := 0x300804 + i * 0x10
abbrev R.SIG_MTIME_LO : Nat := 0x301000
abbrev R.SIG_MTIME_HI : Nat := 0x301004
abbrev R.SIG_MTIMECMP_LO (i : Nat) : Nat := 0x301010 + i * 0x8
abbrev R.SIG_MTIMECMP_HI (i : Nat) : Nat := 0x301014 + i * 0x8
abbrev F.SIG_SRC_PRIO : Fld := ⟨10, 8⟩
abbrev F.SIG_SRC_TARGET : Fld := ⟨3, 0⟩
abbrev F.SIG_PEND_PEND : Fld := ⟨31, 0⟩
abbrev F.SIG_THR_THR : Fld := ⟨2, 0⟩
abbrev F.SIG_CLAIM_SOURCE : Fld := ⟨6, 0⟩
abbrev F.SIG_MTIME_LO_TIME : Fld := ⟨31, 0⟩
abbrev F.SIG_MTIME_HI_TIME : Fld := ⟨31, 0⟩
abbrev F.SIG_MTIMECMP_LO_TIME : Fld := ⟨31, 0⟩
abbrev F.SIG_MTIMECMP_HI_TIME : Fld := ⟨31, 0⟩

/-! ### MPO (chapter 15) -/

abbrev R.MPO_TX (i : Nat) (j : Nat) : Nat := 0x400000 + i * 0x100 + j * 0x80
abbrev R.MPO_RX (i : Nat) (j : Nat) : Nat := 0x400004 + i * 0x100 + j * 0x80
abbrev R.MPO_QSTAT (i : Nat) (j : Nat) : Nat := 0x400008 + i * 0x100 + j * 0x80
abbrev R.MPO_DB_SET (i : Nat) (j : Nat) : Nat := 0x40000c + i * 0x100 + j * 0x80
abbrev R.MPO_DB (i : Nat) (j : Nat) : Nat := 0x400010 + i * 0x100 + j * 0x80
abbrev R.MPO_DB_MASK (i : Nat) (j : Nat) : Nat := 0x400014 + i * 0x100 + j * 0x80
abbrev R.MPO_ACK (i : Nat) (j : Nat) : Nat := 0x400018 + i * 0x100 + j * 0x80
abbrev R.MPO_REQ (i : Nat) (j : Nat) : Nat := 0x40001c + i * 0x100 + j * 0x80
abbrev R.MPO_CFG (i : Nat) : Nat := 0x4000f0 + i * 0x100
abbrev R.MPO_TMO_N (i : Nat) : Nat := 0x4000f4 + i * 0x100
abbrev R.MPO_TMO_F (i : Nat) : Nat := 0x4000f8 + i * 0x100
abbrev F.MPO_TX_DATA : Fld := ⟨31, 0⟩
abbrev F.MPO_RX_DATA : Fld := ⟨31, 0⟩
abbrev F.MPO_QSTAT_TX_CNT : Fld := ⟨12, 8⟩
abbrev F.MPO_QSTAT_RX_CNT : Fld := ⟨4, 0⟩
abbrev F.MPO_DB_SET_BITS : Fld := ⟨31, 0⟩
abbrev F.MPO_DB_BITS : Fld := ⟨31, 0⟩
abbrev F.MPO_DB_MASK_MASK : Fld := ⟨31, 0⟩
abbrev F.MPO_ACK_GO : Fld := ⟨31, 31⟩
abbrev F.MPO_ACK_CODE : Fld := ⟨15, 0⟩
abbrev F.MPO_REQ_OUTSTANDING : Fld := ⟨31, 31⟩
abbrev F.MPO_REQ_ACKED : Fld := ⟨30, 30⟩
abbrev F.MPO_REQ_TIMEOUT : Fld := ⟨29, 29⟩
abbrev F.MPO_REQ_LATE : Fld := ⟨28, 28⟩
abbrev F.MPO_REQ_CODE : Fld := ⟨15, 0⟩
abbrev F.MPO_CFG_OWNER : Fld := ⟨15, 8⟩
abbrev F.MPO_CFG_NEAR : Fld := ⟨1, 0⟩
abbrev F.MPO_TMO_N_US : Fld := ⟨19, 0⟩
abbrev F.MPO_TMO_F_US : Fld := ⟨19, 0⟩

/-! ### TRN (chapter 15) -/

abbrev R.TRN_SCTX (i : Nat) : Nat := 0x501000 + i * 0x4
abbrev R.TRN_INV_VA_LO : Nat := 0x500100
abbrev R.TRN_INV_VA_HI : Nat := 0x500104
abbrev R.TRN_INV : Nat := 0x500108
abbrev R.TRN_INV_STAT : Nat := 0x50010c
abbrev R.TRN_FLT_LO : Nat := 0x500200
abbrev R.TRN_FLT_HI : Nat := 0x500204
abbrev R.TRN_FLT_INFO : Nat := 0x500208
abbrev R.TRN_FLT_POP : Nat := 0x50020c
abbrev R.TRN_FLT_CNT : Nat := 0x500210
abbrev F.TRN_SCTX_MODE : Fld := ⟨31, 30⟩
abbrev F.TRN_SCTX_FAULTED : Fld := ⟨29, 29⟩
abbrev F.TRN_SCTX_ROOT_PPN : Fld := ⟨22, 0⟩
abbrev F.TRN_INV_VA_LO_VA : Fld := ⟨31, 12⟩
abbrev F.TRN_INV_VA_HI_VA : Fld := ⟨15, 0⟩
abbrev F.TRN_INV_OP : Fld := ⟨31, 30⟩
abbrev F.TRN_INV_STREAM : Fld := ⟨5, 0⟩
abbrev F.TRN_INV_STAT_BUSY : Fld := ⟨31, 31⟩
abbrev F.TRN_INV_STAT_DONE : Fld := ⟨30, 30⟩
abbrev F.TRN_FLT_LO_IOVA : Fld := ⟨31, 0⟩
abbrev F.TRN_FLT_HI_IOVA : Fld := ⟨15, 0⟩
abbrev F.TRN_FLT_INFO_VALID : Fld := ⟨31, 31⟩
abbrev F.TRN_FLT_INFO_WRITE : Fld := ⟨30, 30⟩
abbrev F.TRN_FLT_INFO_STREAM : Fld := ⟨29, 24⟩
abbrev F.TRN_FLT_INFO_CAUSE : Fld := ⟨3, 0⟩
abbrev F.TRN_FLT_POP_POP : Fld := ⟨0, 0⟩
abbrev F.TRN_FLT_CNT_LOST : Fld := ⟨15, 0⟩

/-! ### SHL (chapter 14) -/

abbrev R.SHL_CTL : Nat := 0x600000
abbrev R.SHL_STATUS : Nat := 0x600004
abbrev R.SHL_LOCK : Nat := 0x600008
abbrev R.SHL_RANGE_LO : Nat := 0x600010
abbrev R.SHL_RANGE_HI : Nat := 0x600014
abbrev R.SHL_RANGE_SIZE : Nat := 0x600018
abbrev R.SHL_OP : Nat := 0x60001c
abbrev R.SHL_INV_STATUS : Nat := 0x600020
abbrev F.SHL_CTL_EN : Fld := ⟨0, 0⟩
abbrev F.SHL_STATUS_DIRTY : Fld := ⟨31, 16⟩
abbrev F.SHL_STATUS_DRAINING : Fld := ⟨2, 2⟩
abbrev F.SHL_STATUS_ARMED : Fld := ⟨1, 1⟩
abbrev F.SHL_STATUS_ENABLED : Fld := ⟨0, 0⟩
abbrev F.SHL_LOCK_WAYS : Fld := ⟨15, 0⟩
abbrev F.SHL_RANGE_LO_RANGE : Fld := ⟨31, 7⟩
abbrev F.SHL_RANGE_HI_RANGE : Fld := ⟨1, 0⟩
abbrev F.SHL_RANGE_SIZE_RANGE : Fld := ⟨27, 0⟩
abbrev F.SHL_OP_OP : Fld := ⟨31, 30⟩
abbrev F.SHL_OP_WAY : Fld := ⟨19, 16⟩
abbrev F.SHL_INV_STATUS_BUSY : Fld := ⟨31, 31⟩
abbrev F.SHL_INV_STATUS_DONE : Fld := ⟨30, 30⟩
abbrev F.SHL_INV_STATUS_LAST : Fld := ⟨29, 28⟩
abbrev F.SHL_INV_STATUS_LOCKED_SKIPPED : Fld := ⟨15, 0⟩

/-! ### BED (chapter 14) -/

abbrev R.BED_STAT : Nat := 0x700000
abbrev R.BED_PART (i : Nat) : Nat := 0x700010 + i * 0x4
abbrev R.BED_ARB_SHARE (i : Nat) : Nat := 0x700040 + i * 0x4
abbrev R.BED_CLAIM : Nat := 0x700060
abbrev R.BED_ECC_CNT : Nat := 0x700080
abbrev R.BED_ECC_LOG_LO : Nat := 0x700084
abbrev R.BED_ECC_LOG_HI : Nat := 0x700088
abbrev R.BED_ROW_CTL : Nat := 0x7000a8
abbrev R.BED_PPR_CMD : Nat := 0x7000a0
abbrev R.BED_PPR_STAT : Nat := 0x7000a4
abbrev R.BED_ROW_LOG (i : Nat) : Nat := 0x700100 + i * 0x4
abbrev R.BED_BDP_ADDR_LO : Nat := 0x700200
abbrev R.BED_BDP_ADDR_HI : Nat := 0x700204
abbrev R.BED_BDP_CTL : Nat := 0x700208
abbrev R.BED_BDP_GO : Nat := 0x70020c
abbrev R.BED_BDP_STAT : Nat := 0x700210
abbrev R.BED_BDP_DATA : Nat := 0x700214
abbrev R.BED_BDP_META (i : Nat) : Nat := 0x700240 + i * 0x4
abbrev R.BED_TUM_CTL : Nat := 0x700300
abbrev R.BED_TUM_POS : Nat := 0x700304
abbrev R.BED_TUM_LAP : Nat := 0x700308
abbrev R.BED_TUM_CNT : Nat := 0x70030c
abbrev R.BED_SS_CTL : Nat := 0x700400
abbrev R.BED_SS_STAT : Nat := 0x700404
abbrev F.BED_STAT_TEMP : Fld := ⟨25, 16⟩
abbrev F.BED_STAT_REF : Fld := ⟨9, 8⟩
abbrev F.BED_STAT_TRAINED : Fld := ⟨0, 0⟩
abbrev F.BED_PART_SIZE : Fld := ⟨31, 16⟩
abbrev F.BED_PART_BASE : Fld := ⟨15, 0⟩
abbrev F.BED_ARB_SHARE_GBPS : Fld := ⟨8, 0⟩
abbrev F.BED_CLAIM_CLAIMED : Fld := ⟨18, 0⟩
abbrev F.BED_ECC_CNT_UE : Fld := ⟨31, 16⟩
abbrev F.BED_ECC_CNT_CE : Fld := ⟨15, 0⟩
abbrev F.BED_ECC_LOG_LO_OFFSET : Fld := ⟨31, 6⟩
abbrev F.BED_ECC_LOG_HI_VALID : Fld := ⟨31, 31⟩
abbrev F.BED_ECC_LOG_HI_CLASS : Fld := ⟨30, 28⟩
abbrev F.BED_ECC_LOG_HI_KIND : Fld := ⟨27, 26⟩
abbrev F.BED_ECC_LOG_HI_OFFSET : Fld := ⟨1, 0⟩
abbrev F.BED_ROW_CTL_ROW_EVT : Fld := ⟨16, 16⟩
abbrev F.BED_ROW_CTL_ROW_THR : Fld := ⟨6, 0⟩
abbrev F.BED_PPR_CMD_OP : Fld := ⟨31, 30⟩
abbrev F.BED_PPR_CMD_ENTRY : Fld := ⟨3, 0⟩
abbrev F.BED_PPR_STAT_BUSY : Fld := ⟨31, 31⟩
abbrev F.BED_PPR_STAT_RESULT : Fld := ⟨27, 24⟩
abbrev F.BED_PPR_STAT_SOFT : Fld := ⟨15, 8⟩
abbrev F.BED_PPR_STAT_HARD : Fld := ⟨7, 0⟩
abbrev F.BED_ROW_LOG_VALID : Fld := ⟨31, 31⟩
abbrev F.BED_ROW_LOG_PC : Fld := ⟨30, 27⟩
abbrev F.BED_ROW_LOG_BANK : Fld := ⟨26, 22⟩
abbrev F.BED_ROW_LOG_ROW : Fld := ⟨21, 7⟩
abbrev F.BED_ROW_LOG_COUNT : Fld := ⟨6, 0⟩
abbrev F.BED_BDP_ADDR_LO_ADDR : Fld := ⟨31, 6⟩
abbrev F.BED_BDP_ADDR_HI_ADDR : Fld := ⟨1, 0⟩
abbrev F.BED_BDP_CTL_INJ : Fld := ⟨10, 8⟩
abbrev F.BED_BDP_CTL_INC : Fld := ⟨4, 4⟩
abbrev F.BED_BDP_GO_OP : Fld := ⟨31, 30⟩
abbrev F.BED_BDP_GO_COUNT : Fld := ⟨4, 0⟩
abbrev F.BED_BDP_STAT_BUSY : Fld := ⟨31, 31⟩
abbrev F.BED_BDP_STAT_DONE : Fld := ⟨30, 30⟩
abbrev F.BED_BDP_STAT_WORDS : Fld := ⟨8, 0⟩
abbrev F.BED_BDP_DATA_DATA : Fld := ⟨31, 0⟩
abbrev F.BED_BDP_META_CLAIMED : Fld := ⟨7, 7⟩
abbrev F.BED_BDP_META_V : Fld := ⟨6, 6⟩
abbrev F.BED_BDP_META_OUTCOME : Fld := ⟨2, 0⟩
abbrev F.BED_TUM_CTL_EN : Fld := ⟨31, 31⟩
abbrev F.BED_TUM_CTL_CLAIM : Fld := ⟨30, 30⟩
abbrev F.BED_TUM_CTL_LAP_MIN : Fld := ⟨15, 0⟩
abbrev F.BED_TUM_POS_BLOCK : Fld := ⟨17, 0⟩
abbrev F.BED_TUM_LAP_LAP_S : Fld := ⟨31, 0⟩
abbrev F.BED_TUM_CNT_UE : Fld := ⟨31, 16⟩
abbrev F.BED_TUM_CNT_FIXED : Fld := ⟨15, 0⟩
abbrev F.BED_SS_CTL_EN : Fld := ⟨31, 31⟩
abbrev F.BED_SS_CTL_REGIONS : Fld := ⟨25, 16⟩
abbrev F.BED_SS_CTL_STEP_NS : Fld := ⟨15, 0⟩
abbrev F.BED_SS_STAT_FIXED : Fld := ⟨31, 16⟩
abbrev F.BED_SS_STAT_LAP_MS : Fld := ⟨15, 0⟩

/-! ### CAR (chapter 17) -/

abbrev R.CAR_BUSY : Nat := 0x800000
abbrev R.CAR_SWREQ : Nat := 0x800004
abbrev R.CAR_SEG_WM (i : Nat) : Nat := 0x800100 + i * 0x8
abbrev R.CAR_SEG_FILL (i : Nat) : Nat := 0x800104 + i * 0x8
abbrev R.CAR_CH_CTL (i : Nat) : Nat := 0x801000 + i * 0x40
abbrev R.CAR_CH_SRC_LO (i : Nat) : Nat := 0x801004 + i * 0x40
abbrev R.CAR_CH_SRC_HI (i : Nat) : Nat := 0x801008 + i * 0x40
abbrev R.CAR_CH_DST_LO (i : Nat) : Nat := 0x80100c + i * 0x40
abbrev R.CAR_CH_DST_HI (i : Nat) : Nat := 0x801010 + i * 0x40
abbrev R.CAR_CH_COUNT (i : Nat) : Nat := 0x801014 + i * 0x40
abbrev R.CAR_CH_STAT (i : Nat) : Nat := 0x801018 + i * 0x40
abbrev R.CAR_CH_EVT (i : Nat) : Nat := 0x80101c + i * 0x40
abbrev R.CAR_CH_EVT_EN (i : Nat) : Nat := 0x801020 + i * 0x40
abbrev R.CAR_CH_ERR_LO (i : Nat) : Nat := 0x801024 + i * 0x40
abbrev R.CAR_CH_ERR_HI (i : Nat) : Nat := 0x801028 + i * 0x40
abbrev F.CAR_BUSY_BUSY : Fld := ⟨31, 0⟩
abbrev F.CAR_SWREQ_LINE : Fld := ⟨7, 0⟩
abbrev F.CAR_SEG_WM_DIR : Fld := ⟨31, 31⟩
abbrev F.CAR_SEG_WM_LEVEL : Fld := ⟨10, 0⟩
abbrev F.CAR_SEG_FILL_CLR : Fld := ⟨31, 31⟩
abbrev F.CAR_SEG_FILL_ADJ : Fld := ⟨27, 16⟩
abbrev F.CAR_SEG_FILL_FILL : Fld := ⟨10, 0⟩
abbrev F.CAR_CH_CTL_EN : Fld := ⟨31, 31⟩
abbrev F.CAR_CH_CTL_START : Fld := ⟨30, 30⟩
abbrev F.CAR_CH_CTL_PRIO : Fld := ⟨29, 28⟩
abbrev F.CAR_CH_CTL_PACED : Fld := ⟨22, 22⟩
abbrev F.CAR_CH_CTL_REQ : Fld := ⟨21, 16⟩
abbrev F.CAR_CH_CTL_SWAP : Fld := ⟨15, 14⟩
abbrev F.CAR_CH_CTL_DW : Fld := ⟨13, 11⟩
abbrev F.CAR_CH_CTL_SW : Fld := ⟨10, 8⟩
abbrev F.CAR_CH_CTL_BURST : Fld := ⟨6, 0⟩
abbrev F.CAR_CH_SRC_LO_IOVA : Fld := ⟨31, 0⟩
abbrev F.CAR_CH_SRC_HI_IOVA : Fld := ⟨15, 0⟩
abbrev F.CAR_CH_DST_LO_IOVA : Fld := ⟨31, 0⟩
abbrev F.CAR_CH_DST_HI_IOVA : Fld := ⟨15, 0⟩
abbrev F.CAR_CH_COUNT_BYTES : Fld := ⟨31, 0⟩
abbrev F.CAR_CH_STAT_BUSY : Fld := ⟨31, 31⟩
abbrev F.CAR_CH_STAT_END : Fld := ⟨27, 24⟩
abbrev F.CAR_CH_STAT_ERR_KIND : Fld := ⟨19, 16⟩
abbrev F.CAR_CH_STAT_DIR : Fld := ⟨8, 8⟩
abbrev F.CAR_CH_STAT_PEND : Fld := ⟨5, 0⟩
abbrev F.CAR_CH_EVT_REQ_OVF : Fld := ⟨2, 2⟩
abbrev F.CAR_CH_EVT_ERR : Fld := ⟨1, 1⟩
abbrev F.CAR_CH_EVT_DONE : Fld := ⟨0, 0⟩
abbrev F.CAR_CH_EVT_EN_EN : Fld := ⟨2, 0⟩
abbrev F.CAR_CH_ERR_LO_ERR : Fld := ⟨31, 0⟩
abbrev F.CAR_CH_ERR_HI_WRITE : Fld := ⟨31, 31⟩
abbrev F.CAR_CH_ERR_HI_ERR : Fld := ⟨15, 0⟩

/-! ### OBS (chapter 18) -/

abbrev R.OBS_STAT : Nat := 0x900000
abbrev R.OBS_SCHED : Nat := 0x900004
abbrev R.OBS_KEY_DATA : Nat := 0x900010
abbrev R.OBS_KEY_CMD : Nat := 0x900014
abbrev R.OBS_KEY_STAT : Nat := 0x900018
abbrev R.OBS_EVT : Nat := 0x900020
abbrev R.OBS_EVT_EN : Nat := 0x900024
abbrev R.OBS_CNT : Nat := 0x900028
abbrev R.OBS_KEY_STATE (i : Nat) : Nat := 0x900400 + i * 0x4
abbrev R.OBS_RAW_IN (i : Nat) (j : Nat) : Nat := 0x901000 + i * 0x40 + j * 0x4
abbrev R.OBS_RAW_OUT (i : Nat) (j : Nat) : Nat := 0x901020 + i * 0x40 + j * 0x4
abbrev R.OBS_RAW_CTL (i : Nat) : Nat := 0x901010 + i * 0x40
abbrev R.OBS_RAW_STAT (i : Nat) : Nat := 0x901030 + i * 0x40
abbrev R.OBS_AU_CTL (i : Nat) : Nat := 0x902000 + i * 0x40
abbrev R.OBS_AU_STAT (i : Nat) : Nat := 0x902004 + i * 0x40
abbrev R.OBS_AU_TAG (i : Nat) (j : Nat) : Nat := 0x902010 + i * 0x40 + j * 0x4
abbrev R.OBS_AU_DATA (i : Nat) : Nat := 0x902020 + i * 0x40
abbrev F.OBS_STAT_READY : Fld := ⟨16, 16⟩
abbrev F.OBS_STAT_CORE_BUSY : Fld := ⟨15, 0⟩
abbrev F.OBS_SCHED_RAW_CORES : Fld := ⟨2, 0⟩
abbrev F.OBS_KEY_DATA_DATA : Fld := ⟨31, 0⟩
abbrev F.OBS_KEY_CMD_OP : Fld := ⟨31, 30⟩
abbrev F.OBS_KEY_CMD_SLOT : Fld := ⟨11, 0⟩
abbrev F.OBS_KEY_STAT_BUSY : Fld := ⟨31, 31⟩
abbrev F.OBS_KEY_STAT_STAGED : Fld := ⟨4, 0⟩
abbrev F.OBS_EVT_AU_FAIL : Fld := ⟨2, 2⟩
abbrev F.OBS_EVT_KEY_LOST : Fld := ⟨1, 1⟩
abbrev F.OBS_EVT_NO_KEY : Fld := ⟨0, 0⟩
abbrev F.OBS_EVT_EN_EN : Fld := ⟨2, 0⟩
abbrev F.OBS_CNT_AU_FAIL : Fld := ⟨31, 16⟩
abbrev F.OBS_CNT_NO_KEY : Fld := ⟨15, 0⟩
abbrev F.OBS_KEY_STATE_STATE : Fld := ⟨31, 0⟩
abbrev F.OBS_RAW_IN_DATA : Fld := ⟨31, 0⟩
abbrev F.OBS_RAW_OUT_DATA : Fld := ⟨31, 0⟩
abbrev F.OBS_RAW_CTL_GO : Fld := ⟨31, 31⟩
abbrev F.OBS_RAW_CTL_DEST : Fld := ⟨30, 29⟩
abbrev F.OBS_RAW_CTL_AU : Fld := ⟨28, 27⟩
abbrev F.OBS_RAW_CTL_HALF : Fld := ⟨26, 26⟩
abbrev F.OBS_RAW_CTL_DIR : Fld := ⟨25, 25⟩
abbrev F.OBS_RAW_CTL_KEY : Fld := ⟨11, 0⟩
abbrev F.OBS_RAW_STAT_BUSY : Fld := ⟨31, 31⟩
abbrev F.OBS_RAW_STAT_DONE : Fld := ⟨30, 30⟩
abbrev F.OBS_RAW_STAT_STATUS : Fld := ⟨27, 24⟩
abbrev F.OBS_AU_CTL_OP : Fld := ⟨31, 30⟩
abbrev F.OBS_AU_CTL_TLEN : Fld := ⟨20, 16⟩
abbrev F.OBS_AU_STAT_STATE : Fld := ⟨31, 30⟩
abbrev F.OBS_AU_STAT_TAG_IN : Fld := ⟨29, 29⟩
abbrev F.OBS_AU_STAT_TAG_SET : Fld := ⟨28, 28⟩
abbrev F.OBS_AU_STAT_PORT : Fld := ⟨19, 16⟩
abbrev F.OBS_AU_STAT_BLOCKS : Fld := ⟨12, 0⟩
abbrev F.OBS_AU_TAG_DATA : Fld := ⟨31, 0⟩
abbrev F.OBS_AU_DATA_DATA : Fld := ⟨31, 0⟩

/-! ### WAY (chapter 05, 06) -/

abbrev R.WAY_TEN_CFG (i : Nat) : Nat := 0xa10000 + i * 0x20
abbrev R.WAY_TEN_ALLOW_LO (i : Nat) : Nat := 0xa10004 + i * 0x20
abbrev R.WAY_TEN_ALLOW_HI (i : Nat) : Nat := 0xa10008 + i * 0x20
abbrev R.WAY_TEN_USE_LO (i : Nat) : Nat := 0xa1000c + i * 0x20
abbrev R.WAY_TEN_USE_HI (i : Nat) : Nat := 0xa10010 + i * 0x20
abbrev R.WAY_TEN_RSV (i : Nat) : Nat := 0xa10014 + i * 0x20
abbrev R.WAY_TEN_STATUS (i : Nat) : Nat := 0xa10018 + i * 0x20
abbrev R.WAY_OVER_EVT (i : Nat) : Nat := 0xa00200 + i * 0x4
abbrev R.WAY_CTX_TAKE (i : Nat) : Nat := 0xa00100 + i * 0x8
abbrev R.WAY_CTX_GOT (i : Nat) : Nat := 0xa00104 + i * 0x8
abbrev R.WAY_CTX_POST : Nat := 0xa00120
abbrev R.WAY_CTX_HEAD (i : Nat) : Nat := 0xa00130 + i * 0x8
abbrev R.WAY_CTX_POP (i : Nat) : Nat := 0xa00134 + i * 0x8
abbrev R.WAY_CTX_FREE_CNT : Nat := 0xa00140
abbrev R.WAY_CTX_COMMIT_CNT : Nat := 0xa00144
abbrev R.WAY_VAULT_ACK : Nat := 0xa00180
abbrev R.WAY_CLASS (i : Nat) : Nat := 0xa00300 + i * 0x4
abbrev R.WAY_GROUP_CTL : Nat := 0xa00408
abbrev R.WAY_ACT_STAT (i : Nat) : Nat := 0xa00410 + i * 0x4
abbrev R.WAY_CAP_LO : Nat := 0xa00520
abbrev R.WAY_CAP_HI : Nat := 0xa00524
abbrev R.WAY_FREE_LO : Nat := 0xa00528
abbrev R.WAY_FREE_HI : Nat := 0xa0052c
abbrev R.WAY_STALE_LO : Nat := 0xa00540
abbrev R.WAY_STALE_HI : Nat := 0xa00544
abbrev R.WAY_CLEAN_CTL : Nat := 0xa00420
abbrev R.WAY_SURVEY_CTL : Nat := 0xa00430
abbrev R.WAY_SURVEY_STAT : Nat := 0xa00434
abbrev R.WAY_SURVEY_CNT : Nat := 0xa00438
abbrev R.WAY_CKPT_CTL : Nat := 0xa00440
abbrev R.WAY_CKPT_STAT : Nat := 0xa00444
abbrev R.WAY_TEN_PURGE : Nat := 0xa00600
abbrev R.WAY_UNIT_CMD : Nat := 0xa00500
abbrev R.WAY_UNIT_STAT : Nat := 0xa00504
abbrev R.WAY_UNIT_STATE (i : Nat) : Nat := 0xa00510 + i * 0x4
abbrev R.WAY_DEGRADED : Nat := 0xa00530
abbrev F.WAY_TEN_CFG_ENABLE : Fld := ⟨31, 31⟩
abbrev F.WAY_TEN_CFG_VIEW : Fld := ⟨28, 28⟩
abbrev F.WAY_TEN_CFG_ATTACH_B : Fld := ⟨25, 25⟩
abbrev F.WAY_TEN_CFG_ATTACH_A : Fld := ⟨24, 24⟩
abbrev F.WAY_TEN_CFG_CLASS : Fld := ⟨18, 16⟩
abbrev F.WAY_TEN_ALLOW_LO_ALLOW : Fld := ⟨31, 0⟩
abbrev F.WAY_TEN_ALLOW_HI_ALLOW : Fld := ⟨7, 0⟩
abbrev F.WAY_TEN_USE_LO_USE : Fld := ⟨31, 0⟩
abbrev F.WAY_TEN_USE_HI_USE : Fld := ⟨7, 0⟩
abbrev F.WAY_TEN_RSV_RSV : Fld := ⟨31, 0⟩
abbrev F.WAY_TEN_STATUS_OVERDRAFT : Fld := ⟨31, 31⟩
abbrev F.WAY_TEN_STATUS_REFUSED : Fld := ⟨15, 0⟩
abbrev F.WAY_OVER_EVT_TEN : Fld := ⟨31, 0⟩
abbrev F.WAY_CTX_TAKE_GO : Fld := ⟨0, 0⟩
abbrev F.WAY_CTX_GOT_VALID : Fld := ⟨31, 31⟩
abbrev F.WAY_CTX_GOT_INDEX : Fld := ⟨15, 0⟩
abbrev F.WAY_CTX_POST_STATE : Fld := ⟨27, 24⟩
abbrev F.WAY_CTX_POST_INDEX : Fld := ⟨15, 0⟩
abbrev F.WAY_CTX_HEAD_VALID : Fld := ⟨31, 31⟩
abbrev F.WAY_CTX_HEAD_INDEX : Fld := ⟨15, 0⟩
abbrev F.WAY_CTX_POP_INDEX : Fld := ⟨15, 0⟩
abbrev F.WAY_CTX_FREE_CNT_FREE : Fld := ⟨16, 0⟩
abbrev F.WAY_CTX_COMMIT_CNT_COUNT : Fld := ⟨16, 0⟩
abbrev F.WAY_VAULT_ACK_ALLOW_64K : Fld := ⟨31, 16⟩
abbrev F.WAY_VAULT_ACK_ACKED_64K : Fld := ⟨15, 0⟩
abbrev F.WAY_CLASS_REDUND : Fld := ⟨17, 16⟩
abbrev F.WAY_CLASS_SURVEY_DAYS : Fld := ⟨15, 0⟩
abbrev F.WAY_GROUP_CTL_PAD_S : Fld := ⟨15, 0⟩
abbrev F.WAY_ACT_STAT_FREE_BANDS : Fld := ⟨31, 16⟩
abbrev F.WAY_ACT_STAT_PENDING_MIB : Fld := ⟨15, 0⟩
abbrev F.WAY_CAP_LO_COUNT : Fld := ⟨31, 0⟩
abbrev F.WAY_CAP_HI_COUNT : Fld := ⟨7, 0⟩
abbrev F.WAY_FREE_LO_COUNT : Fld := ⟨31, 0⟩
abbrev F.WAY_FREE_HI_COUNT : Fld := ⟨7, 0⟩
abbrev F.WAY_STALE_LO_COUNT : Fld := ⟨31, 0⟩
abbrev F.WAY_STALE_HI_COUNT : Fld := ⟨7, 0⟩
abbrev F.WAY_CLEAN_CTL_RESERVE : Fld := ⟨23, 16⟩
abbrev F.WAY_CLEAN_CTL_FLOOR : Fld := ⟨15, 8⟩
abbrev F.WAY_CLEAN_CTL_LIVE_PCT : Fld := ⟨7, 0⟩
abbrev F.WAY_SURVEY_CTL_WAKE_MAX : Fld := ⟨31, 24⟩
abbrev F.WAY_SURVEY_CTL_REFRESH_STEP : Fld := ⟨23, 16⟩
abbrev F.WAY_SURVEY_CTL_BG_MIN : Fld := ⟨7, 0⟩
abbrev F.WAY_SURVEY_STAT_OVERDUE : Fld := ⟨31, 16⟩
abbrev F.WAY_SURVEY_STAT_DUE : Fld := ⟨15, 0⟩
abbrev F.WAY_SURVEY_CNT_REBUILT : Fld := ⟨31, 16⟩
abbrev F.WAY_SURVEY_CNT_LOST : Fld := ⟨15, 0⟩
abbrev F.WAY_CKPT_CTL_GO : Fld := ⟨31, 31⟩
abbrev F.WAY_CKPT_CTL_CKPT_MIN : Fld := ⟨23, 12⟩
abbrev F.WAY_CKPT_CTL_CKPT_BANDS : Fld := ⟨11, 0⟩
abbrev F.WAY_CKPT_STAT_BUSY : Fld := ⟨31, 31⟩
abbrev F.WAY_CKPT_STAT_SEQ : Fld := ⟨30, 0⟩
abbrev F.WAY_TEN_PURGE_DONE : Fld := ⟨31, 31⟩
abbrev F.WAY_TEN_PURGE_BUSY : Fld := ⟨30, 30⟩
abbrev F.WAY_TEN_PURGE_TENANT : Fld := ⟨8, 0⟩
abbrev F.WAY_UNIT_CMD_OP : Fld := ⟨29, 28⟩
abbrev F.WAY_UNIT_CMD_FORCE : Fld := ⟨27, 27⟩
abbrev F.WAY_UNIT_CMD_KIND : Fld := ⟨26, 24⟩
abbrev F.WAY_UNIT_CMD_UNIT : Fld := ⟨7, 0⟩
abbrev F.WAY_UNIT_STAT_BUSY : Fld := ⟨31, 31⟩
abbrev F.WAY_UNIT_STAT_STEP : Fld := ⟨30, 28⟩
abbrev F.WAY_UNIT_STAT_RESULT : Fld := ⟨27, 24⟩
abbrev F.WAY_UNIT_STATE_STATE : Fld := ⟨31, 0⟩
abbrev F.WAY_DEGRADED_GROUPS : Fld := ⟨31, 0⟩

/-! ### HP (chapter 04) -/

abbrev R.HP_CFG (i : Nat) : Nat := 0xb00000 + i * 0x100000
abbrev R.HP_ID (i : Nat) : Nat := 0xb00004 + i * 0x100000
abbrev R.HP_LINK_CTL (i : Nat) : Nat := 0xb00010 + i * 0x100000
abbrev R.HP_LINK (i : Nat) : Nat := 0xb00014 + i * 0x100000
abbrev R.HP_EVT (i : Nat) : Nat := 0xb00018 + i * 0x100000
abbrev R.HP_PARTNER_LO (i : Nat) (j : Nat) : Nat := 0xb00020 + i * 0x100000 + j * 0x8
abbrev R.HP_PARTNER_HI (i : Nat) (j : Nat) : Nat := 0xb00024 + i * 0x100000 + j * 0x8
abbrev R.HP_SAS_ADDR_LO (i : Nat) (j : Nat) : Nat := 0xb00030 + i * 0x100000 + j * 0x8
abbrev R.HP_SAS_ADDR_HI (i : Nat) (j : Nat) : Nat := 0xb00034 + i * 0x100000 + j * 0x8
abbrev R.HP_CTX_MIN (i : Nat) : Nat := 0xb00040 + i * 0x100000
abbrev R.HP_CTX_USE (i : Nat) : Nat := 0xb00044 + i * 0x100000
abbrev R.HP_SHD_ADDR (i : Nat) : Nat := 0xb00100 + i * 0x100000
abbrev R.HP_SHD_DATA (i : Nat) : Nat := 0xb00104 + i * 0x100000
abbrev R.HP_SHD_RDATA (i : Nat) : Nat := 0xb00108 + i * 0x100000
abbrev R.HP_SHD_COMMIT (i : Nat) : Nat := 0xb0010c + i * 0x100000
abbrev R.HP_SHD_STATUS (i : Nat) : Nat := 0xb00110 + i * 0x100000
abbrev F.HP_CFG_SAS_PORTS : Fld := ⟨19, 16⟩
abbrev F.HP_CFG_MAX_RATE : Fld := ⟨15, 12⟩
abbrev F.HP_CFG_LANES : Fld := ⟨11, 8⟩
abbrev F.HP_CFG_PERSONALITY : Fld := ⟨3, 0⟩
abbrev F.HP_ID_DID : Fld := ⟨31, 16⟩
abbrev F.HP_ID_VID : Fld := ⟨15, 0⟩
abbrev F.HP_LINK_CTL_RATE_CAP : Fld := ⟨3, 1⟩
abbrev F.HP_LINK_CTL_ENABLE : Fld := ⟨0, 0⟩
abbrev F.HP_LINK_UP : Fld := ⟨31, 31⟩
abbrev F.HP_LINK_UP1 : Fld := ⟨30, 30⟩
abbrev F.HP_LINK_RATE : Fld := ⟨27, 24⟩
abbrev F.HP_LINK_WIDTH : Fld := ⟨23, 20⟩
abbrev F.HP_LINK_DOWN_CNT : Fld := ⟨15, 0⟩
abbrev F.HP_EVT_CTX_WAIT : Fld := ⟨6, 6⟩
abbrev F.HP_EVT_PROP_WRITE : Fld := ⟨5, 5⟩
abbrev F.HP_EVT_SHD_DONE : Fld := ⟨4, 4⟩
abbrev F.HP_EVT_PARTNER : Fld := ⟨3, 3⟩
abbrev F.HP_EVT_HOST_RESET : Fld := ⟨2, 2⟩
abbrev F.HP_EVT_LINK_DOWN : Fld := ⟨1, 1⟩
abbrev F.HP_EVT_LINK_UP : Fld := ⟨0, 0⟩
abbrev F.HP_PARTNER_LO_ADDR : Fld := ⟨31, 0⟩
abbrev F.HP_PARTNER_HI_ADDR : Fld := ⟨31, 0⟩
abbrev F.HP_SAS_ADDR_LO_ADDR : Fld := ⟨31, 0⟩
abbrev F.HP_SAS_ADDR_HI_ADDR : Fld := ⟨31, 0⟩
abbrev F.HP_CTX_MIN_MIN : Fld := ⟨15, 0⟩
abbrev F.HP_CTX_USE_USE : Fld := ⟨16, 0⟩
abbrev F.HP_SHD_ADDR_WORD : Fld := ⟨15, 2⟩
abbrev F.HP_SHD_DATA_DATA : Fld := ⟨31, 0⟩
abbrev F.HP_SHD_RDATA_DATA : Fld := ⟨31, 0⟩
abbrev F.HP_SHD_COMMIT_DISCARD : Fld := ⟨1, 1⟩
abbrev F.HP_SHD_COMMIT_GO : Fld := ⟨0, 0⟩
abbrev F.HP_SHD_STATUS_PENDING : Fld := ⟨8, 8⟩
abbrev F.HP_SHD_STATUS_STAGED : Fld := ⟨6, 0⟩

/-! ### CSW (chapter 19) -/

abbrev R.CSW_CTL : Nat := 0xd00000
abbrev R.CSW_LINK : Nat := 0xd00004
abbrev R.CSW_EVT : Nat := 0xd00008
abbrev R.CSW_SESS : Nat := 0xd0000c
abbrev R.CSW_SESSION_LO : Nat := 0xd00010
abbrev R.CSW_SESSION_HI : Nat := 0xd00014
abbrev R.CSW_CFG : Nat := 0xd00018
abbrev R.CSW_SELF_ID (i : Nat) : Nat := 0xd00020 + i * 0x4
abbrev R.CSW_PEER_ID (i : Nat) : Nat := 0xd00030 + i * 0x4
abbrev R.CSW_TEN (i : Nat) : Nat := 0xd00040 + i * 0x4
abbrev R.CSW_RESUME (i : Nat) : Nat := 0xd00060 + i * 0x4
abbrev R.CSW_RESUME_CTL : Nat := 0xd00078
abbrev R.CSW_CNT_ITEM : Nat := 0xd00080
abbrev R.CSW_CNT_ERR : Nat := 0xd00084
abbrev F.CSW_CTL_GO : Fld := ⟨31, 31⟩
abbrev F.CSW_CTL_STOP : Fld := ⟨30, 30⟩
abbrev F.CSW_CTL_ENABLE : Fld := ⟨10, 10⟩
abbrev F.CSW_CTL_ROLE : Fld := ⟨9, 8⟩
abbrev F.CSW_CTL_HOST_SHARE : Fld := ⟨6, 0⟩
abbrev F.CSW_LINK_UP : Fld := ⟨31, 31⟩
abbrev F.CSW_LINK_PEER : Fld := ⟨30, 30⟩
abbrev F.CSW_LINK_PEER_ROLE : Fld := ⟨29, 28⟩
abbrev F.CSW_LINK_LOCK : Fld := ⟨1, 0⟩
abbrev F.CSW_EVT_HISTORY_IN : Fld := ⟨5, 5⟩
abbrev F.CSW_EVT_ITEM_SKIP : Fld := ⟨4, 4⟩
abbrev F.CSW_EVT_SESSION_END : Fld := ⟨3, 3⟩
abbrev F.CSW_EVT_PEER : Fld := ⟨2, 2⟩
abbrev F.CSW_EVT_LINK_DOWN : Fld := ⟨1, 1⟩
abbrev F.CSW_EVT_LINK_UP : Fld := ⟨0, 0⟩
abbrev F.CSW_SESS_STATE : Fld := ⟨31, 28⟩
abbrev F.CSW_SESS_ERROR : Fld := ⟨27, 24⟩
abbrev F.CSW_SESS_INFLIGHT : Fld := ⟨15, 0⟩
abbrev F.CSW_SESSION_LO_ID : Fld := ⟨31, 0⟩
abbrev F.CSW_SESSION_HI_ID : Fld := ⟨31, 0⟩
abbrev F.CSW_CFG_RETRY_MAX : Fld := ⟨31, 24⟩
abbrev F.CSW_CFG_CTX_MAX : Fld := ⟨15, 8⟩
abbrev F.CSW_CFG_WINDOW : Fld := ⟨6, 0⟩
abbrev F.CSW_SELF_ID_ID : Fld := ⟨31, 0⟩
abbrev F.CSW_PEER_ID_ID : Fld := ⟨31, 0⟩
abbrev F.CSW_TEN_TEN : Fld := ⟨31, 0⟩
abbrev F.CSW_RESUME_KEY : Fld := ⟨31, 0⟩
abbrev F.CSW_RESUME_CTL_VALID : Fld := ⟨0, 0⟩
abbrev F.CSW_CNT_ITEM_SKIPPED : Fld := ⟨31, 16⟩
abbrev F.CSW_CNT_ITEM_MISMATCH : Fld := ⟨15, 0⟩
abbrev F.CSW_CNT_ERR_CRC_ERR : Fld := ⟨31, 16⟩
abbrev F.CSW_CNT_ERR_RETX : Fld := ⟨15, 0⟩

/-! ### STR (chapter 16) -/

abbrev R.STR_CTL (i : Nat) : Nat := 0xe00000 + i * 0x10000
abbrev R.STR_STAT (i : Nat) : Nat := 0xe00004 + i * 0x10000
abbrev R.STR_RP (i : Nat) : Nat := 0xe00008 + i * 0x10000
abbrev R.STR_EVT (i : Nat) : Nat := 0xe00010 + i * 0x10000
abbrev R.STR_EVT_EN (i : Nat) : Nat := 0xe00014 + i * 0x10000
abbrev R.STR_FLT (i : Nat) : Nat := 0xe00018 + i * 0x10000
abbrev R.STR_CNT (i : Nat) : Nat := 0xe0001c + i * 0x10000
abbrev R.STR_PSTAT (i : Nat) : Nat := 0xe00020 + i * 0x10000
abbrev R.STR_PVER (i : Nat) : Nat := 0xe00024 + i * 0x10000
abbrev R.STR_PMASK_LO (i : Nat) : Nat := 0xe00028 + i * 0x10000
abbrev R.STR_PMASK_HI (i : Nat) : Nat := 0xe0002c + i * 0x10000
abbrev R.STR_ID (i : Nat) : Nat := 0xe00030 + i * 0x10000
abbrev R.STR_WQ_PUSH (i : Nat) : Nat := 0xe00040 + i * 0x10000
abbrev R.STR_WQ_STAT (i : Nat) : Nat := 0xe00044 + i * 0x10000
abbrev R.STR_MATCH (i : Nat) (j : Nat) : Nat := 0xe00100 + i * 0x10000 + j * 0x4
abbrev F.STR_CTL_ABORT : Fld := ⟨1, 1⟩
abbrev F.STR_CTL_RESTART : Fld := ⟨0, 0⟩
abbrev F.STR_STAT_READY : Fld := ⟨31, 31⟩
abbrev F.STR_STAT_RESTARTING : Fld := ⟨30, 30⟩
abbrev F.STR_STAT_HELD : Fld := ⟨29, 29⟩
abbrev F.STR_STAT_STATE : Fld := ⟨26, 24⟩
abbrev F.STR_STAT_PC : Fld := ⟨16, 0⟩
abbrev F.STR_RP_ADDR : Fld := ⟨16, 0⟩
abbrev F.STR_EVT_RESTARTED : Fld := ⟨3, 3⟩
abbrev F.STR_EVT_PATCH_FAIL : Fld := ⟨2, 2⟩
abbrev F.STR_EVT_FAULT : Fld := ⟨1, 1⟩
abbrev F.STR_EVT_ABANDON : Fld := ⟨0, 0⟩
abbrev F.STR_EVT_EN_EN : Fld := ⟨3, 0⟩
abbrev F.STR_FLT_CAUSE : Fld := ⟨31, 28⟩
abbrev F.STR_FLT_PC : Fld := ⟨16, 0⟩
abbrev F.STR_CNT_ABANDONS : Fld := ⟨31, 16⟩
abbrev F.STR_CNT_RESTARTS : Fld := ⟨15, 0⟩
abbrev F.STR_PSTAT_RESULT : Fld := ⟨31, 28⟩
abbrev F.STR_PSTAT_ENTRY : Fld := ⟨21, 16⟩
abbrev F.STR_PSTAT_MATCHES : Fld := ⟨6, 0⟩
abbrev F.STR_PVER_PATCH_VER : Fld := ⟨31, 0⟩
abbrev F.STR_PMASK_LO_MASK : Fld := ⟨31, 0⟩
abbrev F.STR_PMASK_HI_MASK : Fld := ⟨31, 0⟩
abbrev F.STR_ID_ROM_VER : Fld := ⟨31, 0⟩
abbrev F.STR_WQ_PUSH_KIND : Fld := ⟨31, 28⟩
abbrev F.STR_WQ_PUSH_CONTEXT : Fld := ⟨15, 0⟩
abbrev F.STR_WQ_STAT_VALID : Fld := ⟨31, 31⟩
abbrev F.STR_WQ_STAT_KIND : Fld := ⟨27, 24⟩
abbrev F.STR_WQ_STAT_FREE : Fld := ⟨20, 16⟩
abbrev F.STR_WQ_STAT_HEAD : Fld := ⟨15, 0⟩
abbrev F.STR_MATCH_EN : Fld := ⟨31, 31⟩
abbrev F.STR_MATCH_PADDR : Fld := ⟨27, 16⟩
abbrev F.STR_MATCH_ROM_ADDR : Fld := ⟨15, 0⟩

/-! ### LD (chapter 07 to 09) -/

abbrev R.LD_CFG (i : Nat) : Nat := 0x1000000 + i * 0x100000
abbrev R.LD_STATUS (i : Nat) : Nat := 0x1000004 + i * 0x100000
abbrev R.LD_EVT (i : Nat) : Nat := 0x1000008 + i * 0x100000
abbrev R.LD_EVT_EN (i : Nat) : Nat := 0x100000c + i * 0x100000
abbrev R.LD_SEL (i : Nat) : Nat := 0x1000010 + i * 0x100000
abbrev R.LD_SEL_STAT (i : Nat) : Nat := 0x1000014 + i * 0x100000
abbrev R.LD_CTF (i : Nat) (j : Nat) : Nat := 0x1000020 + i * 0x100000 + j * 0x4
abbrev R.LD_LOOP_CTL (i : Nat) : Nat := 0x1000028 + i * 0x100000
abbrev R.LD_GAIN (i : Nat) (j : Nat) : Nat := 0x1000030 + i * 0x100000 + j * 0x4
abbrev R.LD_OFS (i : Nat) (j : Nat) : Nat := 0x1000038 + i * 0x100000 + j * 0x4
abbrev R.LD_ASY (i : Nat) (j : Nat) : Nat := 0x1000040 + i * 0x100000 + j * 0x4
abbrev R.LD_FREEZE (i : Nat) : Nat := 0x1000048 + i * 0x100000
abbrev R.LD_TA_CTL (i : Nat) : Nat := 0x100004c + i * 0x100000
abbrev R.LD_TA_STAT (i : Nat) : Nat := 0x1000050 + i * 0x100000
abbrev R.LD_PRE (i : Nat) (j : Nat) (k : Nat) : Nat := 0x1000060 + i * 0x100000 + j * 0x20 + k * 0x4
abbrev R.LD_EQ_CTL (i : Nat) : Nat := 0x10000a0 + i * 0x100000
abbrev R.LD_EQ (i : Nat) (j : Nat) (k : Nat) : Nat := 0x1000100 + i * 0x100000 + j * 0x40 + k * 0x4
abbrev R.LD_TGT_LO (i : Nat) (j : Nat) : Nat := 0x1000200 + i * 0x100000 + j * 0x8
abbrev R.LD_TGT_HI (i : Nat) (j : Nat) : Nat := 0x1000204 + i * 0x100000 + j * 0x8
abbrev R.LD_DET_CTL (i : Nat) : Nat := 0x1000300 + i * 0x100000
abbrev R.LD_NP (i : Nat) (j : Nat) : Nat := 0x1000320 + i * 0x100000 + j * 0x4
abbrev R.LD_SEED (i : Nat) (j : Nat) (k : Nat) : Nat := 0x1000400 + i * 0x100000 + j * 0x8 + k * 0x4
abbrev R.LD_CLR_CTL (i : Nat) : Nat := 0x1000500 + i * 0x100000
abbrev R.LD_CLR_RES (i : Nat) : Nat := 0x1000504 + i * 0x100000
abbrev R.LD_CLR_AMP (i : Nat) : Nat := 0x1000508 + i * 0x100000
abbrev R.LD_CNT_CLIP (i : Nat) (j : Nat) : Nat := 0x1000600 + i * 0x100000 + j * 0x4
abbrev R.LD_MS_CTL (i : Nat) : Nat := 0x1000800 + i * 0x100000
abbrev R.LD_MS_STAT (i : Nat) : Nat := 0x1000804 + i * 0x100000
abbrev R.LD_MS_RATE (i : Nat) : Nat := 0x1000808 + i * 0x100000
abbrev R.LD_FRM_CTL (i : Nat) : Nat := 0x1000700 + i * 0x100000
abbrev R.LD_FRM_STAT (i : Nat) : Nat := 0x1000704 + i * 0x100000
abbrev R.LD_FRM_CNT0 (i : Nat) : Nat := 0x1000708 + i * 0x100000
abbrev R.LD_FRM_CNT1 (i : Nat) : Nat := 0x100070c + i * 0x100000
abbrev R.LD_REFRAME (i : Nat) : Nat := 0x1000720 + i * 0x100000
abbrev R.LD_REFRAME_RES (i : Nat) : Nat := 0x1000724 + i * 0x100000
abbrev R.LD_DFW_START (i : Nat) (j : Nat) : Nat := 0x1000740 + i * 0x100000 + j * 0x8
abbrev R.LD_DFW_LEN (i : Nat) (j : Nat) : Nat := 0x1000744 + i * 0x100000 + j * 0x8
abbrev R.LD_RING_CFG (i : Nat) : Nat := 0x1000900 + i * 0x100000
abbrev R.LD_RING_NEW_LO (i : Nat) : Nat := 0x1000904 + i * 0x100000
abbrev R.LD_RING_NEW_HI (i : Nat) : Nat := 0x1000908 + i * 0x100000
abbrev R.LD_RING_OLD_LO (i : Nat) : Nat := 0x100090c + i * 0x100000
abbrev R.LD_RING_OLD_HI (i : Nat) : Nat := 0x1000910 + i * 0x100000
abbrev R.LD_RPLY_START_LO (i : Nat) : Nat := 0x1000914 + i * 0x100000
abbrev R.LD_RPLY_START_HI (i : Nat) : Nat := 0x1000918 + i * 0x100000
abbrev R.LD_RPLY_LEN (i : Nat) : Nat := 0x100091c + i * 0x100000
abbrev R.LD_RPLY_STAT (i : Nat) : Nat := 0x1000920 + i * 0x100000
abbrev R.LD_RING_FIND_TRK (i : Nat) : Nat := 0x1000924 + i * 0x100000
abbrev R.LD_RING_FIND (i : Nat) : Nat := 0x1000928 + i * 0x100000
abbrev R.LD_RING_FOUND_LO (i : Nat) : Nat := 0x100092c + i * 0x100000
abbrev R.LD_RING_FOUND_HI (i : Nat) : Nat := 0x1000930 + i * 0x100000
abbrev F.LD_CFG_SOURCE : Fld := ⟨13, 12⟩
abbrev F.LD_CFG_HOLD : Fld := ⟨11, 11⟩
abbrev F.LD_CFG_ERASE : Fld := ⟨10, 10⟩
abbrev F.LD_CFG_SERVO : Fld := ⟨9, 9⟩
abbrev F.LD_CFG_ADC_CAL : Fld := ⟨8, 8⟩
abbrev F.LD_CFG_LIVE_PAIR : Fld := ⟨7, 6⟩
abbrev F.LD_CFG_ACTUATOR : Fld := ⟨2, 0⟩
abbrev F.LD_STATUS_FRZ : Fld := ⟨21, 16⟩
abbrev F.LD_STATUS_REPLAYING : Fld := ⟨4, 4⟩
abbrev F.LD_STATUS_SEL_VALID : Fld := ⟨3, 3⟩
abbrev F.LD_STATUS_ADC_CAL_DONE : Fld := ⟨2, 2⟩
abbrev F.LD_STATUS_CLK_LOCK : Fld := ⟨1, 1⟩
abbrev F.LD_STATUS_READY : Fld := ⟨0, 0⟩
abbrev F.LD_EVT_NP_SAT : Fld := ⟨7, 7⟩
abbrev F.LD_EVT_EQ_SAT : Fld := ⟨6, 6⟩
abbrev F.LD_EVT_ASY_SAT : Fld := ⟨5, 5⟩
abbrev F.LD_EVT_OFS_SAT : Fld := ⟨4, 4⟩
abbrev F.LD_EVT_GAIN_SAT : Fld := ⟨3, 3⟩
abbrev F.LD_EVT_TA : Fld := ⟨2, 2⟩
abbrev F.LD_EVT_CLR_DONE : Fld := ⟨1, 1⟩
abbrev F.LD_EVT_LOCK_LOST : Fld := ⟨0, 0⟩
abbrev F.LD_EVT_EN_EN : Fld := ⟨7, 0⟩
abbrev F.LD_SEL_ZONE : Fld := ⟨13, 8⟩
abbrev F.LD_SEL_SEED_SAVE : Fld := ⟨7, 7⟩
abbrev F.LD_SEL_HEAD : Fld := ⟨2, 0⟩
abbrev F.LD_SEL_STAT_CODE_SET : Fld := ⟨23, 16⟩
abbrev F.LD_SEL_STAT_EQ_SET : Fld := ⟨15, 8⟩
abbrev F.LD_SEL_STAT_SURF : Fld := ⟨4, 0⟩
abbrev F.LD_CTF_BOOST : Fld := ⟨12, 8⟩
abbrev F.LD_CTF_FC : Fld := ⟨5, 0⟩
abbrev F.LD_LOOP_CTL_MU_G : Fld := ⟨31, 28⟩
abbrev F.LD_LOOP_CTL_MU_O : Fld := ⟨27, 24⟩
abbrev F.LD_LOOP_CTL_MU_A : Fld := ⟨23, 20⟩
abbrev F.LD_LOOP_CTL_AREF : Fld := ⟨13, 8⟩
abbrev F.LD_LOOP_CTL_EN_A : Fld := ⟨2, 2⟩
abbrev F.LD_LOOP_CTL_EN_O : Fld := ⟨1, 1⟩
abbrev F.LD_LOOP_CTL_EN_G : Fld := ⟨0, 0⟩
abbrev F.LD_GAIN_GACC : Fld := ⟨21, 0⟩
abbrev F.LD_OFS_OFS : Fld := ⟨9, 0⟩
abbrev F.LD_ASY_ASY : Fld := ⟨11, 0⟩
abbrev F.LD_FREEZE_TAIL : Fld := ⟨31, 24⟩
abbrev F.LD_FREEZE_MASK : Fld := ⟨2, 0⟩
abbrev F.LD_TA_CTL_LEN : Fld := ⟨15, 8⟩
abbrev F.LD_TA_CTL_THR : Fld := ⟨4, 0⟩
abbrev F.LD_TA_STAT_COUNT : Fld := ⟨31, 16⟩
abbrev F.LD_TA_STAT_ACTIVE : Fld := ⟨0, 0⟩
abbrev F.LD_PRE_COEF : Fld := ⟨9, 0⟩
abbrev F.LD_EQ_CTL_MU_EQ : Fld := ⟨31, 28⟩
abbrev F.LD_EQ_CTL_MU_NP : Fld := ⟨27, 24⟩
abbrev F.LD_EQ_CTL_PIN : Fld := ⟨2, 2⟩
abbrev F.LD_EQ_CTL_NP_ADAPT : Fld := ⟨1, 1⟩
abbrev F.LD_EQ_CTL_EQ_ADAPT : Fld := ⟨0, 0⟩
abbrev F.LD_EQ_COEF : Fld := ⟨11, 0⟩
abbrev F.LD_TGT_LO_TAPS : Fld := ⟨31, 0⟩
abbrev F.LD_TGT_HI_TAPS : Fld := ⟨7, 0⟩
abbrev F.LD_DET_CTL_LLR_SCALE : Fld := ⟨31, 24⟩
abbrev F.LD_NP_VAR : Fld := ⟨31, 24⟩
abbrev F.LD_NP_P3 : Fld := ⟨23, 16⟩
abbrev F.LD_NP_P2 : Fld := ⟨15, 8⟩
abbrev F.LD_NP_P1 : Fld := ⟨7, 0⟩
abbrev F.LD_SEED_GAIN : Fld := ⟨31, 22⟩
abbrev F.LD_SEED_OFS : Fld := ⟨21, 12⟩
abbrev F.LD_SEED_ASY : Fld := ⟨11, 0⟩
abbrev F.LD_CLR_CTL_N : Fld := ⟨10, 8⟩
abbrev F.LD_CLR_CTL_READER : Fld := ⟨4, 4⟩
abbrev F.LD_CLR_CTL_EN : Fld := ⟨0, 0⟩
abbrev F.LD_CLR_RES_VALID : Fld := ⟨31, 31⟩
abbrev F.LD_CLR_RES_HR : Fld := ⟨15, 0⟩
abbrev F.LD_CLR_AMP_A3 : Fld := ⟨31, 16⟩
abbrev F.LD_CLR_AMP_A1 : Fld := ⟨15, 0⟩
abbrev F.LD_CNT_CLIP_COUNT : Fld := ⟨31, 0⟩
abbrev F.LD_MS_CTL_HOLD_US : Fld := ⟨31, 24⟩
abbrev F.LD_MS_CTL_LOCK_N : Fld := ⟨23, 20⟩
abbrev F.LD_MS_CTL_FINE_EN : Fld := ⟨19, 19⟩
abbrev F.LD_MS_CTL_LOSS_TH : Fld := ⟨13, 8⟩
abbrev F.LD_MS_CTL_LOCK_TH : Fld := ⟨5, 0⟩
abbrev F.LD_MS_STAT_ZONE : Fld := ⟨21, 16⟩
abbrev F.LD_MS_STAT_PHERR : Fld := ⟨15, 8⟩
abbrev F.LD_MS_STAT_STATE : Fld := ⟨1, 0⟩
abbrev F.LD_MS_RATE_KHZ : Fld := ⟨31, 0⟩
abbrev F.LD_FRM_CTL_TS : Fld := ⟨31, 31⟩
abbrev F.LD_FRM_CTL_WIN : Fld := ⟨23, 16⟩
abbrev F.LD_FRM_CTL_SM_RLX : Fld := ⟨12, 8⟩
abbrev F.LD_FRM_CTL_SM_THR : Fld := ⟨4, 0⟩
abbrev F.LD_FRM_STAT_SECTOR : Fld := ⟨31, 16⟩
abbrev F.LD_FRM_STAT_SHIFT : Fld := ⟨15, 7⟩
abbrev F.LD_FRM_STAT_RESULT : Fld := ⟨3, 0⟩
abbrev F.LD_FRM_CNT0_SLIP : Fld := ⟨31, 16⟩
abbrev F.LD_FRM_CNT0_SM1_MISS : Fld := ⟨15, 0⟩
abbrev F.LD_FRM_CNT1_NOMARK : Fld := ⟨31, 16⟩
abbrev F.LD_FRM_CNT1_SM2_MISS : Fld := ⟨15, 0⟩
abbrev F.LD_REFRAME_SECTOR : Fld := ⟨31, 16⟩
abbrev F.LD_REFRAME_BASE : Fld := ⟨13, 12⟩
abbrev F.LD_REFRAME_RELAX : Fld := ⟨8, 8⟩
abbrev F.LD_REFRAME_SHIFT : Fld := ⟨3, 0⟩
abbrev F.LD_REFRAME_RES_DONE : Fld := ⟨31, 31⟩
abbrev F.LD_REFRAME_RES_BUSY : Fld := ⟨30, 30⟩
abbrev F.LD_REFRAME_RES_OFS : Fld := ⟨11, 8⟩
abbrev F.LD_REFRAME_RES_RESULT : Fld := ⟨3, 0⟩
abbrev F.LD_DFW_START_SECTOR : Fld := ⟨31, 16⟩
abbrev F.LD_DFW_START_START : Fld := ⟨15, 0⟩
abbrev F.LD_DFW_LEN_V : Fld := ⟨31, 31⟩
abbrev F.LD_DFW_LEN_LEN : Fld := ⟨15, 0⟩
abbrev F.LD_RING_CFG_EQ_OV : Fld := ⟨20, 20⟩
abbrev F.LD_RING_CFG_EQ_ALT : Fld := ⟨19, 16⟩
abbrev F.LD_RING_CFG_AUTO_LIVE : Fld := ⟨12, 12⟩
abbrev F.LD_RING_CFG_RPLY_Q : Fld := ⟨11, 8⟩
abbrev F.LD_RING_CFG_Q : Fld := ⟨3, 0⟩
abbrev F.LD_RING_NEW_LO_CLK : Fld := ⟨31, 0⟩
abbrev F.LD_RING_NEW_HI_CLK : Fld := ⟨15, 0⟩
abbrev F.LD_RING_OLD_LO_CLK : Fld := ⟨31, 0⟩
abbrev F.LD_RING_OLD_HI_CLK : Fld := ⟨15, 0⟩
abbrev F.LD_RPLY_START_LO_CLK : Fld := ⟨31, 0⟩
abbrev F.LD_RPLY_START_HI_CLK : Fld := ⟨15, 0⟩
abbrev F.LD_RPLY_LEN_LEN : Fld := ⟨23, 0⟩
abbrev F.LD_RPLY_STAT_END : Fld := ⟨27, 24⟩
abbrev F.LD_RPLY_STAT_DONE_CLK : Fld := ⟨23, 0⟩
abbrev F.LD_RING_FIND_TRK_TRACK : Fld := ⟨31, 0⟩
abbrev F.LD_RING_FIND_SECTOR : Fld := ⟨15, 0⟩
abbrev F.LD_RING_FOUND_LO_CLK : Fld := ⟨31, 0⟩
abbrev F.LD_RING_FOUND_HI_VALID : Fld := ⟨31, 31⟩
abbrev F.LD_RING_FOUND_HI_BUSY : Fld := ⟨30, 30⟩
abbrev F.LD_RING_FOUND_HI_SAMPLE : Fld := ⟨18, 16⟩
abbrev F.LD_RING_FOUND_HI_CLK : Fld := ⟨15, 0⟩

/-! ### QRY (chapter 09) -/

abbrev R.QRY_CFG : Nat := 0x1800000
abbrev R.QRY_ENG : Nat := 0x1800004
abbrev R.QRY_STAT : Nat := 0x1800008
abbrev R.QRY_LADDER : Nat := 0x1800010
abbrev R.QRY_LADDER_EQ : Nat := 0x1800014
abbrev R.QRY_CNT : Nat := 0x1800020
abbrev R.QRY_EVT : Nat := 0x1800040
abbrev R.QRY_EVT_EN : Nat := 0x1800044
abbrev R.QRY_HDESC_SEL : Nat := 0x1800030
abbrev R.QRY_HDESC_DATA : Nat := 0x1800034
abbrev R.QRY_SUB_DST_LO (i : Nat) : Nat := 0x1801000 + i * 0x40
abbrev R.QRY_SUB_DST_HI (i : Nat) : Nat := 0x1801004 + i * 0x40
abbrev R.QRY_SUB_PSA_LO (i : Nat) : Nat := 0x1801008 + i * 0x40
abbrev R.QRY_SUB_PSA_HI (i : Nat) : Nat := 0x180100c + i * 0x40
abbrev R.QRY_SUB_CMD (i : Nat) : Nat := 0x1801010 + i * 0x40
abbrev R.QRY_SUB_STAT (i : Nat) : Nat := 0x1801014 + i * 0x40
abbrev R.QRY_CPL_A (i : Nat) : Nat := 0x1801020 + i * 0x40
abbrev R.QRY_CPL_B (i : Nat) : Nat := 0x1801024 + i * 0x40
abbrev R.QRY_CPL_POP (i : Nat) : Nat := 0x1801028 + i * 0x40
abbrev F.QRY_CFG_ALPHA : Fld := ⟨31, 28⟩
abbrev F.QRY_CFG_ITER_MAX : Fld := ⟨21, 16⟩
abbrev F.QRY_CFG_ITER_FIRST : Fld := ⟨13, 8⟩
abbrev F.QRY_ENG_BUSY : Fld := ⟨27, 16⟩
abbrev F.QRY_ENG_EN : Fld := ⟨11, 0⟩
abbrev F.QRY_STAT_FAULT : Fld := ⟨27, 16⟩
abbrev F.QRY_STAT_SLOTS_FREE : Fld := ⟨6, 0⟩
abbrev F.QRY_LADDER_REV_MAX : Fld := ⟨31, 28⟩
abbrev F.QRY_LADDER_ET_MAX : Fld := ⟨26, 24⟩
abbrev F.QRY_LADDER_LEAD : Fld := ⟨23, 12⟩
abbrev F.QRY_LADDER_ALT_CNT : Fld := ⟨1, 0⟩
abbrev F.QRY_LADDER_EQ_ALT2 : Fld := ⟨11, 8⟩
abbrev F.QRY_LADDER_EQ_ALT1 : Fld := ⟨7, 4⟩
abbrev F.QRY_LADDER_EQ_ALT0 : Fld := ⟨3, 0⟩
abbrev F.QRY_CNT_FAIL : Fld := ⟨31, 16⟩
abbrev F.QRY_CNT_OVERRUN : Fld := ⟨15, 0⟩
abbrev F.QRY_EVT_SLOTS_LOW : Fld := ⟨3, 3⟩
abbrev F.QRY_EVT_FAIL : Fld := ⟨2, 2⟩
abbrev F.QRY_EVT_OVERRUN : Fld := ⟨1, 1⟩
abbrev F.QRY_EVT_FAULT : Fld := ⟨0, 0⟩
abbrev F.QRY_EVT_EN_EN : Fld := ⟨3, 0⟩
abbrev F.QRY_HDESC_SEL_SET : Fld := ⟨26, 24⟩
abbrev F.QRY_HDESC_SEL_ENTRY : Fld := ⟨15, 0⟩
abbrev F.QRY_HDESC_DATA_DATA : Fld := ⟨31, 0⟩
abbrev F.QRY_SUB_DST_LO_ADDR : Fld := ⟨31, 6⟩
abbrev F.QRY_SUB_DST_HI_ADDR : Fld := ⟨15, 0⟩
abbrev F.QRY_SUB_PSA_LO_PSA : Fld := ⟨31, 0⟩
abbrev F.QRY_SUB_PSA_HI_SYS : Fld := ⟨31, 31⟩
abbrev F.QRY_SUB_PSA_HI_PSA : Fld := ⟨15, 0⟩
abbrev F.QRY_SUB_CMD_SECTOR : Fld := ⟨31, 16⟩
abbrev F.QRY_SUB_CMD_FLUSH : Fld := ⟨15, 15⟩
abbrev F.QRY_SUB_CMD_CLASS : Fld := ⟨13, 12⟩
abbrev F.QRY_SUB_CMD_ET : Fld := ⟨10, 8⟩
abbrev F.QRY_SUB_CMD_ITER : Fld := ⟨5, 0⟩
abbrev F.QRY_SUB_STAT_FREE : Fld := ⟨5, 0⟩
abbrev F.QRY_CPL_A_VALID : Fld := ⟨31, 31⟩
abbrev F.QRY_CPL_A_STATUS : Fld := ⟨27, 24⟩
abbrev F.QRY_CPL_A_ITER : Fld := ⟨21, 16⟩
abbrev F.QRY_CPL_A_SECTOR : Fld := ⟨15, 0⟩
abbrev F.QRY_CPL_B_FRAME : Fld := ⟨31, 28⟩
abbrev F.QRY_CPL_B_UNSAT : Fld := ⟨27, 16⟩
abbrev F.QRY_CPL_B_FLIPS : Fld := ⟨15, 0⟩
abbrev F.QRY_CPL_POP_POP : Fld := ⟨0, 0⟩

/-! ### BAS (chapter 10) -/

abbrev R.BAS_STAT : Nat := 0x1900000
abbrev R.BAS_TICK (i : Nat) : Nat := 0x1900004 + i * 0x4
abbrev R.BAS_SV_HWM : Nat := 0x1900010
abbrev R.BAS_FLAG_SUM (i : Nat) : Nat := 0x1900020 + i * 0x4
abbrev R.BAS_GIN (i : Nat) : Nat := 0x1900100 + i * 0x4
abbrev R.BAS_GOUT (i : Nat) : Nat := 0x1900140 + i * 0x4
abbrev R.BAS_KICK : Nat := 0x1900180
abbrev R.BAS_HEAT (i : Nat) : Nat := 0x1900400 + i * 0x4
abbrev R.BAS_HEAT_ACT : Nat := 0x1900480
abbrev R.BAS_HEAT_RDY : Nat := 0x1900484
abbrev R.BAS_LCFG (i : Nat) : Nat := 0x1910000 + i * 0x40
abbrev R.BAS_LIO (i : Nat) : Nat := 0x1910004 + i * 0x40
abbrev R.BAS_LFSRC (i : Nat) : Nat := 0x1910008 + i * 0x40
abbrev R.BAS_LSP (i : Nat) : Nat := 0x191000c + i * 0x40
abbrev R.BAS_LLIM (i : Nat) : Nat := 0x1910010 + i * 0x40
abbrev R.BAS_LFLAG (i : Nat) : Nat := 0x1910014 + i * 0x40
abbrev R.BAS_LOUT (i : Nat) : Nat := 0x1910018 + i * 0x40
abbrev R.BAS_LINT_LO (i : Nat) : Nat := 0x191001c + i * 0x40
abbrev R.BAS_LINT_HI (i : Nat) : Nat := 0x1910020 + i * 0x40
abbrev R.BAS_CIN (i : Nat) (j : Nat) : Nat := 0x1920000 + i * 0x100 + j * 0x80
abbrev R.BAS_CSH (i : Nat) (j : Nat) : Nat := 0x1920004 + i * 0x100 + j * 0x80
abbrev R.BAS_CBQA (i : Nat) (j : Nat) (k : Nat) : Nat := 0x1920008 + i * 0x100 + j * 0x80 + k * 0xc
abbrev R.BAS_CBQB (i : Nat) (j : Nat) (k : Nat) : Nat := 0x192000c + i * 0x100 + j * 0x80 + k * 0xc
abbrev R.BAS_CBQC (i : Nat) (j : Nat) (k : Nat) : Nat := 0x1920010 + i * 0x100 + j * 0x80 + k * 0xc
abbrev R.BAS_CPID0 (i : Nat) (j : Nat) : Nat := 0x1920050 + i * 0x100 + j * 0x80
abbrev R.BAS_CPID1 (i : Nat) (j : Nat) : Nat := 0x1920054 + i * 0x100 + j * 0x80
abbrev R.BAS_CFF0 (i : Nat) (j : Nat) : Nat := 0x1920058 + i * 0x100 + j * 0x80
abbrev R.BAS_CFF1 (i : Nat) (j : Nat) : Nat := 0x192005c + i * 0x100 + j * 0x80
abbrev F.BAS_STAT_READY : Fld := ⟨8, 8⟩
abbrev F.BAS_STAT_LANE_BUSY : Fld := ⟨3, 0⟩
abbrev F.BAS_TICK_PERIOD_US : Fld := ⟨15, 0⟩
abbrev F.BAS_SV_HWM_CLR : Fld := ⟨31, 31⟩
abbrev F.BAS_SV_HWM_NS : Fld := ⟨15, 0⟩
abbrev F.BAS_FLAG_SUM_ANY : Fld := ⟨31, 0⟩
abbrev F.BAS_GIN_VALUE : Fld := ⟨15, 0⟩
abbrev F.BAS_GOUT_VALUE : Fld := ⟨15, 0⟩
abbrev F.BAS_KICK_LOOP : Fld := ⟨6, 0⟩
abbrev F.BAS_HEAT_WR_DELTA : Fld := ⟨31, 16⟩
abbrev F.BAS_HEAT_TOL : Fld := ⟨15, 8⟩
abbrev F.BAS_HEAT_SETTLE_N : Fld := ⟨7, 0⟩
abbrev F.BAS_HEAT_ACT_HEAD : Fld := ⟨31, 0⟩
abbrev F.BAS_HEAT_RDY_HEAD : Fld := ⟨31, 0⟩
abbrev F.BAS_LCFG_EN : Fld := ⟨31, 31⟩
abbrev F.BAS_LCFG_HOLD : Fld := ⟨30, 30⟩
abbrev F.BAS_LCFG_CLR : Fld := ⟨29, 29⟩
abbrev F.BAS_LCFG_SWAP : Fld := ⟨28, 28⟩
abbrev F.BAS_LCFG_BANK : Fld := ⟨27, 27⟩
abbrev F.BAS_LCFG_NFF : Fld := ⟨26, 24⟩
abbrev F.BAS_LCFG_NBQ : Fld := ⟨22, 20⟩
abbrev F.BAS_LCFG_TRIG : Fld := ⟨19, 16⟩
abbrev F.BAS_LCFG_OUTER : Fld := ⟨15, 8⟩
abbrev F.BAS_LCFG_DIV : Fld := ⟨5, 0⟩
abbrev F.BAS_LIO_SRC : Fld := ⟨31, 24⟩
abbrev F.BAS_LIO_DST : Fld := ⟨23, 16⟩
abbrev F.BAS_LFSRC_FSRC : Fld := ⟨31, 0⟩
abbrev F.BAS_LSP_SP : Fld := ⟨15, 0⟩
abbrev F.BAS_LLIM_HI : Fld := ⟨31, 16⟩
abbrev F.BAS_LLIM_LO : Fld := ⟨15, 0⟩
abbrev F.BAS_LFLAG_EN : Fld := ⟨21, 16⟩
abbrev F.BAS_LFLAG_OVERRUN : Fld := ⟨5, 5⟩
abbrev F.BAS_LFLAG_STALE : Fld := ⟨4, 4⟩
abbrev F.BAS_LFLAG_LIMIT : Fld := ⟨3, 3⟩
abbrev F.BAS_LFLAG_INT_SAT : Fld := ⟨2, 2⟩
abbrev F.BAS_LFLAG_STAGE_SAT : Fld := ⟨1, 1⟩
abbrev F.BAS_LFLAG_ACC_SAT : Fld := ⟨0, 0⟩
abbrev F.BAS_LOUT_ERR : Fld := ⟨31, 16⟩
abbrev F.BAS_LOUT_OUT : Fld := ⟨15, 0⟩
abbrev F.BAS_LINT_LO_INT : Fld := ⟨31, 0⟩
abbrev F.BAS_LINT_HI_INT : Fld := ⟨7, 0⟩
abbrev F.BAS_CIN_OFS_IN : Fld := ⟨31, 16⟩
abbrev F.BAS_CIN_K_IN : Fld := ⟨15, 0⟩
abbrev F.BAS_CSH_SH_FF : Fld := ⟨19, 16⟩
abbrev F.BAS_CSH_SD : Fld := ⟨15, 12⟩
abbrev F.BAS_CSH_SI : Fld := ⟨11, 8⟩
abbrev F.BAS_CSH_SP_P : Fld := ⟨7, 4⟩
abbrev F.BAS_CSH_SH_IN : Fld := ⟨3, 0⟩
abbrev F.BAS_CBQA_B1 : Fld := ⟨31, 16⟩
abbrev F.BAS_CBQA_B0 : Fld := ⟨15, 0⟩
abbrev F.BAS_CBQB_A1 : Fld := ⟨31, 16⟩
abbrev F.BAS_CBQB_B2 : Fld := ⟨15, 0⟩
abbrev F.BAS_CBQC_SH : Fld := ⟨19, 16⟩
abbrev F.BAS_CBQC_A2 : Fld := ⟨15, 0⟩
abbrev F.BAS_CPID0_KI : Fld := ⟨31, 16⟩
abbrev F.BAS_CPID0_KP : Fld := ⟨15, 0⟩
abbrev F.BAS_CPID1_KF : Fld := ⟨31, 16⟩
abbrev F.BAS_CPID1_KD : Fld := ⟨15, 0⟩
abbrev F.BAS_CFF0_FF1 : Fld := ⟨31, 16⟩
abbrev F.BAS_CFF0_FF0 : Fld := ⟨15, 0⟩
abbrev F.BAS_CFF1_FF3 : Fld := ⟨31, 16⟩
abbrev F.BAS_CFF1_FF2 : Fld := ⟨15, 0⟩

/-! ### ACT (chapter 07, 08, 11) -/

abbrev R.ACT_WC_SEL (i : Nat) : Nat := 0x1a20000 + i * 0x40000
abbrev R.ACT_WC_CTL (i : Nat) : Nat := 0x1a20004 + i * 0x40000
abbrev R.ACT_WC_STAT (i : Nat) : Nat := 0x1a20008 + i * 0x40000
abbrev R.ACT_WC_EVT (i : Nat) : Nat := 0x1a2000c + i * 0x40000
abbrev R.ACT_WC_PROF (i : Nat) (j : Nat) : Nat := 0x1a20040 + i * 0x40000 + j * 0x4
abbrev R.ACT_WC_CNT (i : Nat) : Nat := 0x1a20080 + i * 0x40000
abbrev R.ACT_MS_CTL (i : Nat) : Nat := 0x1a20100 + i * 0x40000
abbrev R.ACT_MS_STAT (i : Nat) : Nat := 0x1a20104 + i * 0x40000
abbrev R.ACT_MS_PH (i : Nat) (j : Nat) : Nat := 0x1a20110 + i * 0x40000 + j * 0x4
abbrev R.ACT_STATE (i : Nat) : Nat := 0x1a00000 + i * 0x40000
abbrev R.ACT_CMD (i : Nat) : Nat := 0x1a00004 + i * 0x40000
abbrev R.ACT_SEEK (i : Nat) : Nat := 0x1a00008 + i * 0x40000
abbrev R.ACT_EVT (i : Nat) : Nat := 0x1a0000c + i * 0x40000
abbrev R.ACT_EVT_EN (i : Nat) : Nat := 0x1a00010 + i * 0x40000
abbrev R.ACT_SV_CFG (i : Nat) : Nat := 0x1a00014 + i * 0x40000
abbrev R.ACT_POS_LO (i : Nat) : Nat := 0x1a00018 + i * 0x40000
abbrev R.ACT_POS_HI (i : Nat) : Nat := 0x1a0001c + i * 0x40000
abbrev R.ACT_PES (i : Nat) : Nat := 0x1a00020 + i * 0x40000
abbrev R.ACT_ID (i : Nat) : Nat := 0x1a00024 + i * 0x40000
abbrev R.ACT_PROF (i : Nat) : Nat := 0x1a00030 + i * 0x40000
abbrev R.ACT_FF (i : Nat) : Nat := 0x1a00034 + i * 0x40000
abbrev R.ACT_SETTLE (i : Nat) : Nat := 0x1a00038 + i * 0x40000
abbrev R.ACT_PERMIT (i : Nat) : Nat := 0x1a0003c + i * 0x40000
abbrev R.ACT_JOG (i : Nat) (j : Nat) : Nat := 0x1a00040 + i * 0x40000 + j * 0x4
abbrev R.ACT_VEL (i : Nat) : Nat := 0x1a00060 + i * 0x40000
abbrev R.ACT_VELK (i : Nat) : Nat := 0x1a00064 + i * 0x40000
abbrev R.ACT_TMO (i : Nat) : Nat := 0x1a00068 + i * 0x40000
abbrev R.ACT_CAL (i : Nat) : Nat := 0x1a0006c + i * 0x40000
abbrev R.ACT_DITHER (i : Nat) : Nat := 0x1a00070 + i * 0x40000
abbrev R.ACT_DITHER_AMP (i : Nat) : Nat := 0x1a00074 + i * 0x40000
abbrev R.ACT_CNT0 (i : Nat) : Nat := 0x1a00080 + i * 0x40000
abbrev R.ACT_CNT1 (i : Nat) : Nat := 0x1a00084 + i * 0x40000
abbrev R.ACT_PA_CTL (i : Nat) : Nat := 0x1a10000 + i * 0x40000
abbrev R.ACT_PA_MAP0 (i : Nat) : Nat := 0x1a10004 + i * 0x40000
abbrev R.ACT_PA_MAP1 (i : Nat) : Nat := 0x1a10008 + i * 0x40000
abbrev R.ACT_PA_ENUM (i : Nat) : Nat := 0x1a1000c + i * 0x40000
abbrev R.ACT_HSEL (i : Nat) (j : Nat) : Nat := 0x1a10010 + i * 0x40000 + j * 0x4
abbrev R.ACT_PA_XFER (i : Nat) : Nat := 0x1a10020 + i * 0x40000
abbrev R.ACT_HTR (i : Nat) (j : Nat) : Nat := 0x1a10040 + i * 0x40000 + j * 0x4
abbrev R.ACT0_SHOCK_CFG : Nat := 0x1a30000
abbrev R.ACT0_SHOCK_STAT : Nat := 0x1a30004
abbrev F.ACT_WC_SEL_ZONE : Fld := ⟨13, 8⟩
abbrev F.ACT_WC_SEL_HEAD : Fld := ⟨2, 0⟩
abbrev F.ACT_WC_CTL_HEAT_TMO : Fld := ⟨31, 16⟩
abbrev F.ACT_WC_CTL_HEAT_REQ : Fld := ⟨2, 2⟩
abbrev F.ACT_WC_CTL_PRECOMP_EN : Fld := ⟨1, 1⟩
abbrev F.ACT_WC_CTL_ENABLE : Fld := ⟨0, 0⟩
abbrev F.ACT_WC_STAT_GATE : Fld := ⟨5, 5⟩
abbrev F.ACT_WC_STAT_PREAMP_BUSY : Fld := ⟨4, 4⟩
abbrev F.ACT_WC_STAT_HEAT_READY : Fld := ⟨3, 3⟩
abbrev F.ACT_WC_STAT_PERMIT : Fld := ⟨2, 2⟩
abbrev F.ACT_WC_STAT_CLK_LOCK : Fld := ⟨1, 1⟩
abbrev F.ACT_WC_STAT_READY : Fld := ⟨0, 0⟩
abbrev F.ACT_WC_EVT_HEAT_LATE : Fld := ⟨3, 3⟩
abbrev F.ACT_WC_EVT_UNDERRUN : Fld := ⟨2, 2⟩
abbrev F.ACT_WC_EVT_PERMIT_DROP : Fld := ⟨1, 1⟩
abbrev F.ACT_WC_EVT_GATE_REFUSED : Fld := ⟨0, 0⟩
abbrev F.ACT_WC_PROF_OSD : Fld := ⟨31, 28⟩
abbrev F.ACT_WC_PROF_OSA : Fld := ⟨27, 24⟩
abbrev F.ACT_WC_PROF_E3 : Fld := ⟨14, 10⟩
abbrev F.ACT_WC_PROF_E2 : Fld := ⟨9, 5⟩
abbrev F.ACT_WC_PROF_E1 : Fld := ⟨4, 0⟩
abbrev F.ACT_WC_CNT_UNDERRUN : Fld := ⟨31, 16⟩
abbrev F.ACT_WC_CNT_REFUSED : Fld := ⟨15, 0⟩
abbrev F.ACT_MS_CTL_TS : Fld := ⟨31, 31⟩
abbrev F.ACT_MS_CTL_LOCK_N : Fld := ⟨23, 20⟩
abbrev F.ACT_MS_CTL_LOSS_TH : Fld := ⟨13, 8⟩
abbrev F.ACT_MS_CTL_LOCK_TH : Fld := ⟨5, 0⟩
abbrev F.ACT_MS_STAT_ZONE : Fld := ⟨21, 16⟩
abbrev F.ACT_MS_STAT_PHERR : Fld := ⟨15, 8⟩
abbrev F.ACT_MS_STAT_STATE : Fld := ⟨1, 0⟩
abbrev F.ACT_MS_PH_OFS : Fld := ⟨15, 0⟩
abbrev F.ACT_STATE_CAUSE : Fld := ⟨27, 24⟩
abbrev F.ACT_STATE_INV_RUN : Fld := ⟨15, 8⟩
abbrev F.ACT_STATE_SPAIR : Fld := ⟨4, 4⟩
abbrev F.ACT_STATE_STATE : Fld := ⟨3, 0⟩
abbrev F.ACT_CMD_OP : Fld := ⟨1, 0⟩
abbrev F.ACT_SEEK_TRACK : Fld := ⟨23, 0⟩
abbrev F.ACT_EVT_PREAMP_FLT : Fld := ⟨7, 7⟩
abbrev F.ACT_EVT_UNLOAD_TMO : Fld := ⟨6, 6⟩
abbrev F.ACT_EVT_ID_ERR : Fld := ⟨5, 5⟩
abbrev F.ACT_EVT_LOST : Fld := ⟨4, 4⟩
abbrev F.ACT_EVT_SETTLE_LATE : Fld := ⟨3, 3⟩
abbrev F.ACT_EVT_SEEK_DONE : Fld := ⟨2, 2⟩
abbrev F.ACT_EVT_PARKED : Fld := ⟨1, 1⟩
abbrev F.ACT_EVT_SHOCK : Fld := ⟨0, 0⟩
abbrev F.ACT_EVT_EN_EN : Fld := ⟨7, 0⟩
abbrev F.ACT_SV_CFG_MISS_MAX : Fld := ⟨31, 24⟩
abbrev F.ACT_SV_CFG_ACQ_N : Fld := ⟨23, 16⟩
abbrev F.ACT_SV_CFG_QMIN : Fld := ⟨15, 4⟩
abbrev F.ACT_SV_CFG_PAIR : Fld := ⟨0, 0⟩
abbrev F.ACT_POS_LO_POS : Fld := ⟨31, 0⟩
abbrev F.ACT_POS_HI_POS : Fld := ⟨7, 0⟩
abbrev F.ACT_PES_VALID : Fld := ⟨31, 31⟩
abbrev F.ACT_PES_PES : Fld := ⟨15, 0⟩
abbrev F.ACT_ID_USABLE : Fld := ⟨31, 31⟩
abbrev F.ACT_ID_TRACK : Fld := ⟨23, 0⟩
abbrev F.ACT_PROF_VMAX : Fld := ⟨31, 16⟩
abbrev F.ACT_PROF_AMAX : Fld := ⟨15, 0⟩
abbrev F.ACT_FF_KFF : Fld := ⟨15, 0⟩
abbrev F.ACT_SETTLE_SETTLE_TMO : Fld := ⟨31, 20⟩
abbrev F.ACT_SETTLE_SETTLE_N : Fld := ⟨19, 12⟩
abbrev F.ACT_SETTLE_SETTLE_TOL : Fld := ⟨11, 0⟩
abbrev F.ACT_PERMIT_WHY : Fld := ⟨31, 28⟩
abbrev F.ACT_PERMIT_INHIBIT : Fld := ⟨27, 27⟩
abbrev F.ACT_PERMIT_PRED_EN : Fld := ⟨26, 26⟩
abbrev F.ACT_PERMIT_WR_N : Fld := ⟨19, 12⟩
abbrev F.ACT_PERMIT_WR_TOL : Fld := ⟨11, 0⟩
abbrev F.ACT_JOG_JOG : Fld := ⟨15, 0⟩
abbrev F.ACT_VEL_UNLOAD_VEL : Fld := ⟨30, 16⟩
abbrev F.ACT_VEL_LOAD_VEL : Fld := ⟨14, 0⟩
abbrev F.ACT_VELK_ILIM : Fld := ⟨31, 16⟩
abbrev F.ACT_VELK_KV : Fld := ⟨15, 0⟩
abbrev F.ACT_TMO_LOAD_TMO : Fld := ⟨31, 16⟩
abbrev F.ACT_TMO_LOST_TMO : Fld := ⟨15, 8⟩
abbrev F.ACT_TMO_UNLOAD_TMO : Fld := ⟨7, 0⟩
abbrev F.ACT_CAL_DONE : Fld := ⟨0, 0⟩
abbrev F.ACT_DITHER_EN : Fld := ⟨31, 31⟩
abbrev F.ACT_DITHER_TIMER : Fld := ⟨26, 24⟩
abbrev F.ACT_DITHER_FREQ_HZ : Fld := ⟨19, 0⟩
abbrev F.ACT_DITHER_AMP_AMP : Fld := ⟨15, 0⟩
abbrev F.ACT_CNT0_INVALID : Fld := ⟨31, 16⟩
abbrev F.ACT_CNT0_LOST : Fld := ⟨15, 0⟩
abbrev F.ACT_CNT1_ID_ERR : Fld := ⟨31, 16⟩
abbrev F.ACT_CNT1_SETTLE_LATE : Fld := ⟨15, 0⟩
abbrev F.ACT_PA_CTL_DIV : Fld := ⟨5, 0⟩
abbrev F.ACT_PA_MAP0_HTR_ADDR : Fld := ⟨30, 24⟩
abbrev F.ACT_PA_MAP0_HSEL_ADDR : Fld := ⟨22, 16⟩
abbrev F.ACT_PA_MAP0_HMASK_ADDR : Fld := ⟨14, 8⟩
abbrev F.ACT_PA_MAP0_ID_ADDR : Fld := ⟨6, 0⟩
abbrev F.ACT_PA_MAP1_HMAX : Fld := ⟨31, 24⟩
abbrev F.ACT_PA_MAP1_STAT_ADDR : Fld := ⟨22, 16⟩
abbrev F.ACT_PA_MAP1_OSD_ADDR : Fld := ⟨14, 8⟩
abbrev F.ACT_PA_MAP1_OSA_ADDR : Fld := ⟨6, 0⟩
abbrev F.ACT_PA_ENUM_RESULT : Fld := ⟨31, 30⟩
abbrev F.ACT_PA_ENUM_HMASK : Fld := ⟨15, 8⟩
abbrev F.ACT_PA_ENUM_ID : Fld := ⟨7, 0⟩
abbrev F.ACT_HSEL_BUSY : Fld := ⟨8, 8⟩
abbrev F.ACT_HSEL_HEAD : Fld := ⟨2, 0⟩
abbrev F.ACT_PA_XFER_BUSY : Fld := ⟨31, 31⟩
abbrev F.ACT_PA_XFER_DONE : Fld := ⟨30, 30⟩
abbrev F.ACT_PA_XFER_RD : Fld := ⟨24, 24⟩
abbrev F.ACT_PA_XFER_ADDR : Fld := ⟨22, 16⟩
abbrev F.ACT_PA_XFER_DATA : Fld := ⟨7, 0⟩
abbrev F.ACT_HTR_CODE : Fld := ⟨7, 0⟩
abbrev F.ACT0_SHOCK_CFG_EN : Fld := ⟨31, 31⟩
abbrev F.ACT0_SHOCK_CFG_SENSOR : Fld := ⟨26, 24⟩
abbrev F.ACT0_SHOCK_CFG_HOLD_US : Fld := ⟨23, 16⟩
abbrev F.ACT0_SHOCK_CFG_THR : Fld := ⟨15, 0⟩
abbrev F.ACT0_SHOCK_STAT_ACTIVE : Fld := ⟨31, 31⟩
abbrev F.ACT0_SHOCK_STAT_COUNT : Fld := ⟨15, 0⟩

/-! ### MIL (chapter 12) -/

abbrev R.MIL_CMD : Nat := 0x1b00000
abbrev R.MIL_STAT : Nat := 0x1b00004
abbrev R.MIL_EVT : Nat := 0x1b00008
abbrev R.MIL_EVT_EN : Nat := 0x1b0000c
abbrev R.MIL_SPEED : Nat := 0x1b00010
abbrev R.MIL_ANGLE : Nat := 0x1b00014
abbrev R.MIL_CFG : Nat := 0x1b00020
abbrev R.MIL_REG : Nat := 0x1b00024
abbrev R.MIL_RAMP : Nat := 0x1b00028
abbrev R.MIL_HFI : Nat := 0x1b00030
abbrev R.MIL_PLL : Nat := 0x1b00034
abbrev R.MIL_MOTOR : Nat := 0x1b00038
abbrev R.MIL_LOSS_CFG : Nat := 0x1b00040
abbrev R.MIL_CATCH_CFG : Nat := 0x1b00044
abbrev R.MIL_CATCH_RES : Nat := 0x1b00048
abbrev R.MIL_LR : Nat := 0x1b0004c
abbrev R.MIL_BRK : Nat := 0x1b00050
abbrev R.MIL_LOSS_STAT : Nat := 0x1b00060
abbrev R.MIL_TBL (i : Nat) : Nat := 0x1b01000 + i * 0x4
abbrev F.MIL_CMD_OP : Fld := ⟨1, 0⟩
abbrev F.MIL_STAT_FAULT : Fld := ⟨31, 28⟩
abbrev F.MIL_STAT_REG : Fld := ⟨11, 11⟩
abbrev F.MIL_STAT_FLY : Fld := ⟨10, 10⟩
abbrev F.MIL_STAT_LOST : Fld := ⟨9, 9⟩
abbrev F.MIL_STAT_DRIVE : Fld := ⟨8, 8⟩
abbrev F.MIL_STAT_STATE : Fld := ⟨3, 0⟩
abbrev F.MIL_EVT_REG_SET : Fld := ⟨6, 6⟩
abbrev F.MIL_EVT_ACQ_FAIL : Fld := ⟨5, 5⟩
abbrev F.MIL_EVT_FLY : Fld := ⟨4, 4⟩
abbrev F.MIL_EVT_LOSS : Fld := ⟨3, 3⟩
abbrev F.MIL_EVT_LOCKED : Fld := ⟨2, 2⟩
abbrev F.MIL_EVT_REV_STUCK : Fld := ⟨1, 1⟩
abbrev F.MIL_EVT_CATCH_DONE : Fld := ⟨0, 0⟩
abbrev F.MIL_EVT_EN_EN : Fld := ⟨6, 0⟩
abbrev F.MIL_SPEED_REVERSE : Fld := ⟨31, 31⟩
abbrev F.MIL_SPEED_VALID : Fld := ⟨30, 30⟩
abbrev F.MIL_SPEED_RPM_C : Fld := ⟨19, 0⟩
abbrev F.MIL_ANGLE_OMEGA : Fld := ⟨31, 16⟩
abbrev F.MIL_ANGLE_THETA : Fld := ⟨15, 0⟩
abbrev F.MIL_CFG_TICK_KHZ : Fld := ⟨31, 24⟩
abbrev F.MIL_CFG_POLE_PAIRS : Fld := ⟨19, 16⟩
abbrev F.MIL_CFG_TARGET_RPM : Fld := ⟨15, 0⟩
abbrev F.MIL_REG_REG_MS : Fld := ⟨31, 16⟩
abbrev F.MIL_REG_TOL_PPM : Fld := ⟨15, 0⟩
abbrev F.MIL_RAMP_ALIGN_AMP : Fld := ⟨31, 24⟩
abbrev F.MIL_RAMP_ALIGN_MS : Fld := ⟨23, 12⟩
abbrev F.MIL_RAMP_RAMP_PM : Fld := ⟨11, 0⟩
abbrev F.MIL_HFI_TIMER : Fld := ⟨26, 24⟩
abbrev F.MIL_HFI_AMP : Fld := ⟨23, 16⟩
abbrev F.MIL_HFI_FREQ : Fld := ⟨7, 0⟩
abbrev F.MIL_PLL_G1_SH : Fld := ⟨31, 28⟩
abbrev F.MIL_PLL_G2_SH : Fld := ⟨27, 24⟩
abbrev F.MIL_PLL_KI_SH : Fld := ⟨23, 20⟩
abbrev F.MIL_PLL_KP_SH : Fld := ⟨19, 16⟩
abbrev F.MIL_PLL_ADV : Fld := ⟨15, 0⟩
abbrev F.MIL_MOTOR_L_UH : Fld := ⟨31, 16⟩
abbrev F.MIL_MOTOR_RES_MOHM : Fld := ⟨15, 0⟩
abbrev F.MIL_LOSS_CFG_FLY_PCT : Fld := ⟨31, 24⟩
abbrev F.MIL_LOSS_CFG_UNLOCK_N : Fld := ⟨23, 16⟩
abbrev F.MIL_LOSS_CFG_UNLOCK_DEG : Fld := ⟨15, 8⟩
abbrev F.MIL_LOSS_CFG_RES_THR : Fld := ⟨7, 0⟩
abbrev F.MIL_CATCH_CFG_BEMF_MIN : Fld := ⟨15, 8⟩
abbrev F.MIL_CATCH_CFG_CATCH_MS : Fld := ⟨4, 0⟩
abbrev F.MIL_CATCH_RES_VALID : Fld := ⟨31, 31⟩
abbrev F.MIL_CATCH_RES_DIR : Fld := ⟨28, 28⟩
abbrev F.MIL_CATCH_RES_ACTION : Fld := ⟨26, 24⟩
abbrev F.MIL_CATCH_RES_PCT : Fld := ⟨9, 0⟩
abbrev F.MIL_LR_LR_RETRY : Fld := ⟨27, 24⟩
abbrev F.MIL_LR_LR_WAIT_MS : Fld := ⟨23, 12⟩
abbrev F.MIL_LR_LR_MS : Fld := ⟨11, 0⟩
abbrev F.MIL_BRK_BRK_PM : Fld := ⟨23, 12⟩
abbrev F.MIL_BRK_SHORT_PCT : Fld := ⟨7, 0⟩
abbrev F.MIL_LOSS_STAT_TOTAL : Fld := ⟨31, 16⟩
abbrev F.MIL_LOSS_STAT_WIN : Fld := ⟨1, 0⟩
abbrev F.MIL_TBL_ODD : Fld := ⟨31, 16⟩
abbrev F.MIL_TBL_EVEN : Fld := ⟨15, 0⟩

/-! ### BLS (chapter 13) -/

abbrev R.BLS_STAT : Nat := 0x1c00000
abbrev R.BLS_EVT : Nat := 0x1c00004
abbrev R.BLS_OCP : Nat := 0x1c00008
abbrev R.BLS_LINK_CNT : Nat := 0x1c0000c
abbrev R.BLS_BANK_CFG : Nat := 0x1c00020
abbrev R.BLS_BANK_V : Nat := 0x1c00024
abbrev R.BLS_BANK_MEAS : Nat := 0x1c00028
abbrev R.BLS_MEAS_CTL : Nat := 0x1c0002c
abbrev R.BLS_VAULT_CFG : Nat := 0x1c00030
abbrev R.BLS_VAULT : Nat := 0x1c00034
abbrev R.BLS_PF_CFG : Nat := 0x1c00040
abbrev R.BLS_RET_CFG : Nat := 0x1c00044
abbrev R.BLS_VCM_CAL (i : Nat) : Nat := 0x1c00050 + i * 0x4
abbrev R.BLS_TEMP : Nat := 0x1c00060
abbrev R.BLS_NV : Nat := 0x1c00070
abbrev R.BLS_DRIVE (i : Nat) : Nat := 0x1c80000 + i * 0x100
abbrev F.BLS_STAT_RETRACT : Fld := ⟨7, 7⟩
abbrev F.BLS_STAT_BANK_OK : Fld := ⟨6, 6⟩
abbrev F.BLS_STAT_ON_HOLDUP : Fld := ⟨5, 5⟩
abbrev F.BLS_STAT_AUX_OK : Fld := ⟨4, 4⟩
abbrev F.BLS_STAT_MAIN_OK : Fld := ⟨3, 3⟩
abbrev F.BLS_STAT_RAILS_OK : Fld := ⟨2, 2⟩
abbrev F.BLS_STAT_ARMED : Fld := ⟨1, 1⟩
abbrev F.BLS_STAT_LINK : Fld := ⟨0, 0⟩
abbrev F.BLS_EVT_TEMP_WARN : Fld := ⟨5, 5⟩
abbrev F.BLS_EVT_REGEN_CLAMP : Fld := ⟨4, 4⟩
abbrev F.BLS_EVT_MEAS_DONE : Fld := ⟨3, 3⟩
abbrev F.BLS_EVT_RET_DONE : Fld := ⟨2, 2⟩
abbrev F.BLS_EVT_MAIN_BACK : Fld := ⟨1, 1⟩
abbrev F.BLS_EVT_POWER_LOSS : Fld := ⟨0, 0⟩
abbrev F.BLS_OCP_TRIPS : Fld := ⟨31, 16⟩
abbrev F.BLS_OCP_SPN : Fld := ⟨8, 8⟩
abbrev F.BLS_OCP_MA : Fld := ⟨7, 4⟩
abbrev F.BLS_OCP_VCM : Fld := ⟨3, 0⟩
abbrev F.BLS_LINK_CNT_CRC_ERR : Fld := ⟨31, 0⟩
abbrev F.BLS_BANK_CFG_ICHG : Fld := ⟨31, 24⟩
abbrev F.BLS_BANK_CFG_VCHG : Fld := ⟨23, 15⟩
abbrev F.BLS_BANK_CFG_VMIN : Fld := ⟨7, 0⟩
abbrev F.BLS_BANK_V_MV : Fld := ⟨15, 0⟩
abbrev F.BLS_BANK_MEAS_ESR_MOHM : Fld := ⟨31, 16⟩
abbrev F.BLS_BANK_MEAS_C_UF : Fld := ⟨15, 0⟩
abbrev F.BLS_MEAS_CTL_GO : Fld := ⟨31, 31⟩
abbrev F.BLS_MEAS_CTL_BUSY : Fld := ⟨30, 30⟩
abbrev F.BLS_MEAS_CTL_MEAS_H : Fld := ⟨27, 20⟩
abbrev F.BLS_MEAS_CTL_ESR_MAX : Fld := ⟨19, 10⟩
abbrev F.BLS_MEAS_CTL_CMIN_UF : Fld := ⟨9, 0⟩
abbrev F.BLS_VAULT_CFG_VAULT_MAX : Fld := ⟨31, 24⟩
abbrev F.BLS_VAULT_CFG_MARGIN : Fld := ⟨23, 20⟩
abbrev F.BLS_VAULT_CFG_E_MIB : Fld := ⟨19, 12⟩
abbrev F.BLS_VAULT_CFG_E_BASE : Fld := ⟨11, 0⟩
abbrev F.BLS_VAULT_E_MJ : Fld := ⟨31, 16⟩
abbrev F.BLS_VAULT_ALLOW_MIB : Fld := ⟨7, 0⟩
abbrev F.BLS_PF_CFG_VRET : Fld := ⟨15, 8⟩
abbrev F.BLS_PF_CFG_PF_THR : Fld := ⟨7, 0⟩
abbrev F.BLS_RET_CFG_RET_I : Fld := ⟨31, 16⟩
abbrev F.BLS_RET_CFG_RET_MS : Fld := ⟨7, 0⟩
abbrev F.BLS_VCM_CAL_POL : Fld := ⟨31, 31⟩
abbrev F.BLS_VCM_CAL_R_MOHM : Fld := ⟨15, 0⟩
abbrev F.BLS_TEMP_LEVEL : Fld := ⟨17, 16⟩
abbrev F.BLS_TEMP_DEGC : Fld := ⟨15, 0⟩
abbrev F.BLS_NV_DONE : Fld := ⟨1, 1⟩
abbrev F.BLS_NV_ARMED : Fld := ⟨0, 0⟩
abbrev F.BLS_DRIVE_MILLI : Fld := ⟨31, 16⟩
abbrev F.BLS_DRIVE_VCM : Fld := ⟨15, 0⟩

/-! ### KEY (chapter 15) -/

abbrev R.KEY_HB (i : Nat) : Nat := 0x1d00010 + i * 0x4
abbrev R.KEY_HB_CFG : Nat := 0x1d00018
abbrev R.KEY_RST_VEC_LO (i : Nat) : Nat := 0x1d00020 + i * 0x8
abbrev R.KEY_RST_VEC_HI (i : Nat) : Nat := 0x1d00024 + i * 0x8
abbrev R.KEY_PAIR_RST : Nat := 0x1d00030
abbrev R.KEY_PAIR_STAT (i : Nat) : Nat := 0x1d00040 + i * 0x4
abbrev R.KEY_DEV_RST : Nat := 0x1d00050
abbrev R.KEY_DEV_REQ : Nat := 0x1d00054
abbrev F.KEY_HB_CFG_HB_MS : Fld := ⟨15, 0⟩
abbrev F.KEY_RST_VEC_LO_ADDR : Fld := ⟨31, 2⟩
abbrev F.KEY_RST_VEC_HI_ADDR : Fld := ⟨2, 0⟩
abbrev F.KEY_PAIR_RST_PAIR : Fld := ⟨1, 0⟩
abbrev F.KEY_PAIR_STAT_COUNT : Fld := ⟨31, 16⟩
abbrev F.KEY_PAIR_STAT_RESTARTING : Fld := ⟨8, 8⟩
abbrev F.KEY_PAIR_STAT_CAUSE : Fld := ⟨3, 0⟩
abbrev F.KEY_DEV_RST_UNLOCK : Fld := ⟨31, 16⟩
abbrev F.KEY_DEV_REQ_UNLOCK : Fld := ⟨31, 16⟩

end Sys2Proof.Machine
end

