-- ==== Sys2Proof/Machine/RegTab.lean ====
section
/-!
DEFINITION. Sys2Proof/Machine/RegTab.lean: the register tables of the chapters as data: for each register its first Towpath
offset (R10, R30), its instances and indices as (count, stride) pairs, and its fields with access type (R11), Reset value
(R13), the limits to which a write is brought (`lo`, `hi`: "stores the nearer limit") and the values outside which a write
is a violation (`vlo`, `vhi`, R14). A field the Reset column does not give as a number stands here with 0; RegReset.lean
gives its value. Bits no field names are reserved (R12).
-/

namespace Sys2Proof.Machine

/-- The access types of R11. -/
inductive Acc where
  | rw | ro | wo | w1c | w1s
deriving DecidableEq, Repr

/-- One row of a register table. -/
structure FieldDesc where
  hi : Nat
  lo : Nat
  acc : Acc
  rst : Nat
  cmin : Nat := 0
  cmax : Nat := 0xFFFFFFFF
  vmin : Nat := 0
  vmax : Nat := 0xFFFFFFFF
deriving DecidableEq, Repr

/-- One register line with its table. -/
structure RegDesc where
  base : Nat
  dims : List (Nat × Nat)
  fields : List FieldDesc
deriving DecidableEq, Repr

/-- A plain field. -/
def fd (hi lo : Nat) (acc : Acc) (rst : Nat) : FieldDesc := { hi, lo, acc, rst }
/-- A field whose write stores the nearer limit. -/
def fc (hi lo : Nat) (acc : Acc) (rst cmin cmax : Nat) : FieldDesc := { hi, lo, acc, rst, cmin, cmax }
/-- A field for which a write outside the range is a violation. -/
def fv (hi lo : Nat) (acc : Acc) (rst vmin vmax : Nat) : FieldDesc := { hi, lo, acc, rst, vmin, vmax }

/-- Registers of SYS, chapter 01 to 04. -/
def regsSYS0 : List RegDesc := [
  -- SYS_READY
  ⟨0x10, [],
    [fd 27 27 .ro 0, fd 26 26 .ro 0, fd 25 22 .ro 0, fd 21 21 .ro 0, fd 20 20 .ro 0, fd 19 19 .ro 0, fd 18 18 .ro 0, fd 17 17 .ro 0, fd 16 16 .ro 0, fd 15 15 .ro 0, fd 14 14 .ro 0, fd 13 13 .ro 0, fd 12 12 .ro 0, fd 11 11 .ro 0, fd 10 10 .ro 0, fd 9 9 .ro 0, fd 8 8 .ro 0, fd 7 7 .ro 0, fd 6 6 .ro 0, fd 5 5 .ro 0, fd 4 4 .ro 0, fd 3 3 .ro 0, fd 2 2 .ro 0, fd 1 1 .ro 0, fd 0 0 .ro 0]⟩,
  -- SYS_READY_UNIT
  ⟨0x14, [],
    [fd 19 8 .ro 0, fd 7 0 .ro 0]⟩,
  -- SYS_READY_CHG
  ⟨0x18, [],
    [fd 27 0 .w1c 0]⟩,
  -- SYS_KENUL_STATUS
  ⟨0x40, [],
    [fd 23 20 .ro 0, fd 19 16 .ro 0, fd 8 8 .ro 0, fd 3 0 .ro 0]⟩,
  -- SYS_KENUL_RES
  ⟨0x44, [],
    [fd 31 24 .ro 0, fd 23 16 .ro 0, fd 15 0 .ro 0]⟩,
  -- SYS_KENUL_WHERE
  ⟨0x48, [],
    [fd 31 31 .ro 0, fd 19 0 .ro 0]⟩,
  -- SYS_KENUL_SERIAL
  ⟨0x4c, [],
    [fd 31 0 .ro 0]⟩,
  -- SYS_KENUL_OWN
  ⟨0x40000, [(65536, 0x4)],
    [fd 15 8 .ro 0, fd 7 0 .ro 0]⟩,
  -- SYS_RST_CAUSE
  ⟨0x4, [],
    [fd 6 6 .ro 0, fd 5 5 .ro 0, fd 4 4 .ro 0, fd 3 3 .ro 0, fd 2 2 .ro 0, fd 1 1 .ro 0, fd 0 0 .ro 0]⟩,
  -- SYS_BOOT_STATUS
  ⟨0x50, [],
    [fd 11 10 .ro 0, fd 9 8 .ro 0, fd 3 0 .ro 0]⟩,
  -- SYS_FUSE_SLOT
  ⟨0x200, [(4, 0x4)],
    [fd 1 1 .ro 0, fd 0 0 .ro 0]⟩,
  -- SYS_FUSE_HASH
  ⟨0x300, [(4, 0x40), (12, 0x4)],
    [fd 31 0 .ro 0]⟩,
  -- SYS_FUSE_STAGE
  ⟨0x240, [(12, 0x4)],
    [fd 31 0 .rw 0]⟩,
  -- SYS_FUSE_PGM
  ⟨0x280, [],
    [fd 31 16 .wo 0, fd 5 4 .wo 0, fd 1 0 .wo 0]⟩,
  -- SYS_FUSE_PGM_STATUS
  ⟨0x284, [],
    [fd 7 4 .ro 0, fd 1 1 .w1c 0, fd 0 0 .ro 0]⟩,
  -- SYS_MODE
  ⟨0x20, [],
    [fd 31 31 .ro 0, fd 25 24 .ro 0, fd 23 20 .ro 0, fd 19 16 .ro 0, fd 15 8 .ro 0, fd 7 4 .ro 0, fd 3 0 .ro 0]⟩,
  -- SYS_MODE_REQ
  ⟨0x24, [],
    [fd 3 0 .wo 0]⟩,
  -- SYS_HAVEN_CTL
  ⟨0x2c, [],
    [fd 0 0 .rw 0]⟩,
  -- SYS_HAVEN_STATUS
  ⟨0x30, [],
    [fd 17 17 .ro 0, fd 16 16 .ro 0, fd 15 0 .ro 0]⟩,
  -- SYS_DORMANT_CTL
  ⟨0x28, [],
    [fv 15 0 .rw 1440 1 65535]⟩,
  -- SYS_SURVEY_CTL
  ⟨0x34, [],
    [fc 6 0 .rw 30 5 95]⟩,
  -- SYS_SB_STATUS
  ⟨0x400, [],
    [fd 22 16 .ro 0, fd 14 8 .ro 0, fd 5 4 .ro 0, fd 0 0 .ro 0]⟩,
  -- SYS_SB_CFG
  ⟨0x404, [],
    [fd 2 2 .rw 1, fd 1 1 .rw 0, fd 0 0 .rw 1]⟩,
  -- SYS_SB_PID_LO
  ⟨0x408, [],
    [fd 31 0 .ro 0]⟩]

/-- Registers of SYS, chapter 01 to 04. -/
def regsSYS1 : List RegDesc := [
  -- SYS_SB_PID_HI
  ⟨0x40c, [],
    [fd 15 0 .ro 0]⟩]

/-- Registers of SYS. -/
def regsSYS : List RegDesc := regsSYS0 ++ regsSYS1

/-- Registers of TGT, chapter 20. -/
def regsTGT : List RegDesc := [
  -- TGT_STATUS_LO
  ⟨0x100000, [],
    [fd 31 0 .w1c 0]⟩,
  -- TGT_STATUS_HI
  ⟨0x100004, [],
    [fd 22 22 .ro 0, fd 21 21 .ro 0, fd 20 20 .ro 0, fd 19 0 .w1c 0]⟩,
  -- TGT_CLASS
  ⟨0x100010, [(4, 0x4)],
    [fd 31 0 .ro 0]⟩,
  -- TGT_GRACE_CFG
  ⟨0x100020, [],
    [fc 23 0 .rw 1000 10 10000000]⟩,
  -- TGT_GRACE_STAT
  ⟨0x100024, [],
    [fd 31 31 .ro 0, fd 30 30 .ro 0, fd 29 24 .ro 0, fd 23 0 .ro 0]⟩,
  -- TGT_PIN
  ⟨0x100030, [],
    [fd 31 31 .ro 0, fd 30 30 .ro 0, fd 8 8 .rw 0, fc 7 0 .rw 10 1 255]⟩,
  -- TGT_INJ
  ⟨0x100040, [],
    [fd 31 30 .wo 0, fd 23 16 .wo 0, fd 9 8 .wo 0, fd 5 0 .wo 0]⟩,
  -- TGT_INJ_STAT
  ⟨0x100044, [],
    [fd 31 31 .ro 0, fd 30 30 .w1c 0, fd 21 16 .ro 0, fd 7 0 .ro 0]⟩,
  -- TGT_SRC_CFG
  ⟨0x100100, [(52, 0x4)],
    [fd 3 3 .rw 0, fd 2 2 .rw 0, fv 1 0 .rw 0 0 2]⟩,
  -- TGT_CNT
  ⟨0x100200, [(52, 0x4)],
    [fd 31 31 .ro 0, fd 15 0 .ro 0]⟩]

/-- Registers of CRN, chapter 20. -/
def regsCRN : List RegDesc := [
  -- CRN_CTL
  ⟨0x200000, [],
    [fd 31 31 .rw 0, fc 23 16 .rw 100 1 255, fc 15 0 .rw 600 1 65535]⟩,
  -- CRN_STAT
  ⟨0x200004, [],
    [fd 31 31 .ro 0, fd 30 30 .ro 0, fd 29 29 .ro 0, fd 28 28 .ro 0, fd 14 0 .ro 0]⟩,
  -- CRN_SEQ_LO
  ⟨0x200008, [],
    [fd 31 0 .ro 0]⟩,
  -- CRN_SEQ_HI
  ⟨0x20000c, [],
    [fd 15 0 .ro 0]⟩,
  -- CRN_DROPPED
  ⟨0x200010, [],
    [fd 31 0 .ro 0]⟩,
  -- CRN_PERSISTED
  ⟨0x200014, [],
    [fd 14 0 .ro 0]⟩,
  -- CRN_RELEASE
  ⟨0x20001c, [],
    [fd 14 0 .wo 0]⟩,
  -- CRN_PERSIST
  ⟨0x200018, [],
    [fd 0 0 .w1s 0]⟩,
  -- CRN_RD_IDX
  ⟨0x200020, [],
    [fd 13 0 .rw 0]⟩,
  -- CRN_RD_DATA
  ⟨0x200040, [(16, 0x4)],
    [fd 31 0 .ro 0]⟩,
  -- CRN_FW_DATA
  ⟨0x200080, [],
    [fd 31 0 .wo 0]⟩,
  -- CRN_FW_GO
  ⟨0x200084, [],
    [fd 31 16 .wo 0, fd 1 0 .wo 0]⟩,
  -- CRN_EVT
  ⟨0x200088, [],
    [fd 5 5 .w1c 0, fd 4 4 .w1c 0, fd 3 3 .w1c 0, fd 2 2 .w1c 0, fd 1 1 .w1c 0, fd 0 0 .w1c 0]⟩,
  -- CRN_EVT_EN
  ⟨0x20008c, [],
    [fd 5 5 .rw 1, fd 4 4 .rw 1, fd 3 3 .rw 1, fd 2 2 .rw 1, fd 1 1 .rw 1, fd 0 0 .rw 1]⟩,
  -- CRN_MINUTES
  ⟨0x200090, [],
    [fd 31 0 .ro 0]⟩,
  -- CRN_PCYC
  ⟨0x200094, [],
    [fd 15 0 .ro 0]⟩,
  -- CRN_PRED_LO
  ⟨0x2000a0, [],
    [fd 31 0 .ro 0]⟩,
  -- CRN_PRED_HI
  ⟨0x2000a4, [],
    [fd 2 0 .ro 0]⟩,
  -- CRN_PRED_LEN
  ⟨0x2000a8, [],
    [fd 31 0 .ro 0]⟩,
  -- CRN_SB_HEAD
  ⟨0x2000fc, [],
    [fd 31 0 .ro 0]⟩,
  -- CRN_SB_REC
  ⟨0x200100, [(16, 0x4)],
    [fd 31 0 .ro 0]⟩]

/-- Registers of SIG, chapter 15. -/
def regsSIG : List RegDesc := [
  -- SIG_SRC
  ⟨0x300004, [(111, 0x4)],
    [fd 10 8 .rw 0, fd 3 0 .rw 0]⟩,
  -- SIG_PEND
  ⟨0x300400, [(4, 0x4)],
    [fd 31 0 .ro 0]⟩,
  -- SIG_THR
  ⟨0x300800, [(4, 0x10)],
    [fd 2 0 .rw 0]⟩,
  -- SIG_CLAIM
  ⟨0x300804, [(4, 0x10)],
    [fd 6 0 .rw 0]⟩,
  -- SIG_MTIME_LO
  ⟨0x301000, [],
    [fd 31 0 .ro 0]⟩,
  -- SIG_MTIME_HI
  ⟨0x301004, [],
    [fd 31 0 .ro 0]⟩,
  -- SIG_MTIMECMP_LO
  ⟨0x301010, [(2, 0x8)],
    [fd 31 0 .rw 4294967295]⟩,
  -- SIG_MTIMECMP_HI
  ⟨0x301014, [(2, 0x8)],
    [fd 31 0 .rw 4294967295]⟩]

/-- Registers of MPO, chapter 15. -/
def regsMPO : List RegDesc := [
  -- MPO_TX
  ⟨0x400000, [(8, 0x100), (2, 0x80)],
    [fd 31 0 .wo 0]⟩,
  -- MPO_RX
  ⟨0x400004, [(8, 0x100), (2, 0x80)],
    [fd 31 0 .ro 0]⟩,
  -- MPO_QSTAT
  ⟨0x400008, [(8, 0x100), (2, 0x80)],
    [fd 12 8 .ro 0, fd 4 0 .ro 0]⟩,
  -- MPO_DB_SET
  ⟨0x40000c, [(8, 0x100), (2, 0x80)],
    [fd 31 0 .wo 0]⟩,
  -- MPO_DB
  ⟨0x400010, [(8, 0x100), (2, 0x80)],
    [fd 31 0 .w1c 0]⟩,
  -- MPO_DB_MASK
  ⟨0x400014, [(8, 0x100), (2, 0x80)],
    [fd 31 0 .rw 0]⟩,
  -- MPO_ACK
  ⟨0x400018, [(8, 0x100), (2, 0x80)],
    [fd 31 31 .wo 0, fd 15 0 .wo 0]⟩,
  -- MPO_REQ
  ⟨0x40001c, [(8, 0x100), (2, 0x80)],
    [fd 31 31 .ro 0, fd 30 30 .w1c 0, fd 29 29 .w1c 0, fd 28 28 .w1c 0, fd 15 0 .ro 0]⟩,
  -- MPO_CFG
  ⟨0x4000f0, [(8, 0x100)],
    [fd 15 8 .ro 0, fv 1 0 .rw 0 1 2]⟩,
  -- MPO_TMO_N
  ⟨0x4000f4, [(8, 0x100)],
    [fc 19 0 .rw 1000000 1 1000000]⟩,
  -- MPO_TMO_F
  ⟨0x4000f8, [(8, 0x100)],
    [fc 19 0 .rw 1000000 1 1000000]⟩]

/-- Registers of TRN, chapter 15. -/
def regsTRN : List RegDesc := [
  -- TRN_SCTX
  ⟨0x501000, [(47, 0x4)],
    [fv 31 30 .rw 0 0 2, fd 29 29 .w1c 0, fd 22 0 .rw 0]⟩,
  -- TRN_INV_VA_LO
  ⟨0x500100, [],
    [fd 31 12 .rw 0]⟩,
  -- TRN_INV_VA_HI
  ⟨0x500104, [],
    [fd 15 0 .rw 0]⟩,
  -- TRN_INV
  ⟨0x500108, [],
    [fd 31 30 .wo 0, fd 5 0 .wo 0]⟩,
  -- TRN_INV_STAT
  ⟨0x50010c, [],
    [fd 31 31 .ro 0, fd 30 30 .w1c 0]⟩,
  -- TRN_FLT_LO
  ⟨0x500200, [],
    [fd 31 0 .ro 0]⟩,
  -- TRN_FLT_HI
  ⟨0x500204, [],
    [fd 15 0 .ro 0]⟩,
  -- TRN_FLT_INFO
  ⟨0x500208, [],
    [fd 31 31 .ro 0, fd 30 30 .ro 0, fd 29 24 .ro 0, fd 3 0 .ro 0]⟩,
  -- TRN_FLT_POP
  ⟨0x50020c, [],
    [fd 0 0 .wo 0]⟩,
  -- TRN_FLT_CNT
  ⟨0x500210, [],
    [fd 15 0 .ro 0]⟩]

/-- Registers of SHL, chapter 14. -/
def regsSHL : List RegDesc := [
  -- SHL_CTL
  ⟨0x600000, [],
    [fd 0 0 .rw 0]⟩,
  -- SHL_STATUS
  ⟨0x600004, [],
    [fd 31 16 .ro 0, fd 2 2 .ro 0, fd 1 1 .ro 0, fd 0 0 .ro 0]⟩,
  -- SHL_LOCK
  ⟨0x600008, [],
    [fd 15 0 .rw 0]⟩,
  -- SHL_RANGE_LO
  ⟨0x600010, [],
    [fd 31 7 .rw 0]⟩,
  -- SHL_RANGE_HI
  ⟨0x600014, [],
    [fd 1 0 .rw 0]⟩,
  -- SHL_RANGE_SIZE
  ⟨0x600018, [],
    [fd 27 0 .rw 0]⟩,
  -- SHL_OP
  ⟨0x60001c, [],
    [fd 31 30 .wo 0, fd 19 16 .wo 0]⟩,
  -- SHL_INV_STATUS
  ⟨0x600020, [],
    [fd 31 31 .ro 0, fd 30 30 .w1c 0, fd 29 28 .ro 0, fd 15 0 .ro 0]⟩]

/-- Registers of BED, chapter 14. -/
def regsBED : List RegDesc := [
  -- BED_STAT
  ⟨0x700000, [],
    [fd 25 16 .ro 0, fd 9 8 .ro 0, fd 0 0 .ro 0]⟩,
  -- BED_PART
  ⟨0x700010, [(5, 0x4)],
    [fd 31 16 .ro 0, fd 15 0 .ro 0]⟩,
  -- BED_ARB_SHARE
  ⟨0x700040, [(6, 0x4)],
    [fd 8 0 .rw 0]⟩,
  -- BED_CLAIM
  ⟨0x700060, [],
    [fd 18 0 .ro 0]⟩,
  -- BED_ECC_CNT
  ⟨0x700080, [],
    [fd 31 16 .ro 0, fd 15 0 .ro 0]⟩,
  -- BED_ECC_LOG_LO
  ⟨0x700084, [],
    [fd 31 6 .ro 0]⟩,
  -- BED_ECC_LOG_HI
  ⟨0x700088, [],
    [fd 31 31 .w1c 0, fd 30 28 .ro 0, fd 27 26 .ro 0, fd 1 0 .ro 0]⟩,
  -- BED_ROW_CTL
  ⟨0x7000a8, [],
    [fd 16 16 .w1c 0, fc 6 0 .rw 8 1 127]⟩,
  -- BED_PPR_CMD
  ⟨0x7000a0, [],
    [fd 31 30 .wo 0, fd 3 0 .wo 0]⟩,
  -- BED_PPR_STAT
  ⟨0x7000a4, [],
    [fd 31 31 .ro 0, fd 27 24 .ro 0, fd 15 8 .ro 0, fd 7 0 .ro 0]⟩,
  -- BED_ROW_LOG
  ⟨0x700100, [(16, 0x4)],
    [fd 31 31 .ro 0, fd 30 27 .ro 0, fd 26 22 .ro 0, fd 21 7 .ro 0, fd 6 0 .ro 0]⟩,
  -- BED_BDP_ADDR_LO
  ⟨0x700200, [],
    [fd 31 6 .rw 0]⟩,
  -- BED_BDP_ADDR_HI
  ⟨0x700204, [],
    [fd 1 0 .rw 0]⟩,
  -- BED_BDP_CTL
  ⟨0x700208, [],
    [fd 10 8 .rw 0, fd 4 4 .rw 1]⟩,
  -- BED_BDP_GO
  ⟨0x70020c, [],
    [fd 31 30 .wo 0, fv 4 0 .wo 0 1 16]⟩,
  -- BED_BDP_STAT
  ⟨0x700210, [],
    [fd 31 31 .ro 0, fd 30 30 .w1c 0, fd 8 0 .ro 0]⟩,
  -- BED_BDP_DATA
  ⟨0x700214, [],
    [fd 31 0 .rw 0]⟩,
  -- BED_BDP_META
  ⟨0x700240, [(16, 0x4)],
    [fd 7 7 .ro 0, fd 6 6 .ro 0, fd 2 0 .ro 0]⟩,
  -- BED_TUM_CTL
  ⟨0x700300, [],
    [fd 31 31 .rw 1, fd 30 30 .rw 1, fd 15 0 .rw 1440]⟩,
  -- BED_TUM_POS
  ⟨0x700304, [],
    [fd 17 0 .ro 0]⟩,
  -- BED_TUM_LAP
  ⟨0x700308, [],
    [fd 31 0 .ro 0]⟩,
  -- BED_TUM_CNT
  ⟨0x70030c, [],
    [fd 31 16 .ro 0, fd 15 0 .ro 0]⟩,
  -- BED_SS_CTL
  ⟨0x700400, [],
    [fd 31 31 .rw 1, fd 25 16 .rw 1023, fc 15 0 .rw 1000 10 65535]⟩,
  -- BED_SS_STAT
  ⟨0x700404, [],
    [fd 31 16 .ro 0, fd 15 0 .ro 0]⟩]

/-- Registers of CAR, chapter 17. -/
def regsCAR : List RegDesc := [
  -- CAR_BUSY
  ⟨0x800000, [],
    [fd 31 0 .ro 0]⟩,
  -- CAR_SWREQ
  ⟨0x800004, [],
    [fd 7 0 .wo 0]⟩,
  -- CAR_SEG_WM
  ⟨0x800100, [(32, 0x8)],
    [fd 31 31 .rw 0, fc 10 0 .rw 512 0 1024]⟩,
  -- CAR_SEG_FILL
  ⟨0x800104, [(32, 0x8)],
    [fd 31 31 .wo 0, fd 27 16 .wo 0, fd 10 0 .ro 0]⟩,
  -- CAR_CH_CTL
  ⟨0x801000, [(32, 0x40)],
    [fd 31 31 .rw 0, fd 30 30 .wo 0, fd 29 28 .rw 0, fd 22 22 .rw 0, fd 21 16 .rw 0, fd 15 14 .rw 0, fv 13 11 .rw 0 0 5, fv 10 8 .rw 0 0 5, fv 6 0 .rw 1 1 64]⟩,
  -- CAR_CH_SRC_LO
  ⟨0x801004, [(32, 0x40)],
    [fd 31 0 .rw 0]⟩,
  -- CAR_CH_SRC_HI
  ⟨0x801008, [(32, 0x40)],
    [fd 15 0 .rw 0]⟩,
  -- CAR_CH_DST_LO
  ⟨0x80100c, [(32, 0x40)],
    [fd 31 0 .rw 0]⟩,
  -- CAR_CH_DST_HI
  ⟨0x801010, [(32, 0x40)],
    [fd 15 0 .rw 0]⟩,
  -- CAR_CH_COUNT
  ⟨0x801014, [(32, 0x40)],
    [fd 31 0 .rw 0]⟩,
  -- CAR_CH_STAT
  ⟨0x801018, [(32, 0x40)],
    [fd 31 31 .ro 0, fd 27 24 .ro 0, fd 19 16 .ro 0, fd 8 8 .ro 0, fd 5 0 .ro 0]⟩,
  -- CAR_CH_EVT
  ⟨0x80101c, [(32, 0x40)],
    [fd 2 2 .w1c 0, fd 1 1 .w1c 0, fd 0 0 .w1c 0]⟩,
  -- CAR_CH_EVT_EN
  ⟨0x801020, [(32, 0x40)],
    [fd 2 0 .rw 3]⟩,
  -- CAR_CH_ERR_LO
  ⟨0x801024, [(32, 0x40)],
    [fd 31 0 .ro 0]⟩,
  -- CAR_CH_ERR_HI
  ⟨0x801028, [(32, 0x40)],
    [fd 31 31 .ro 0, fd 15 0 .ro 0]⟩]

/-- Registers of OBS, chapter 18. -/
def regsOBS : List RegDesc := [
  -- OBS_STAT
  ⟨0x900000, [],
    [fd 16 16 .ro 0, fd 15 0 .ro 0]⟩,
  -- OBS_SCHED
  ⟨0x900004, [],
    [fc 2 0 .rw 1 0 4]⟩,
  -- OBS_KEY_DATA
  ⟨0x900010, [],
    [fd 31 0 .wo 0]⟩,
  -- OBS_KEY_CMD
  ⟨0x900014, [],
    [fd 31 30 .wo 0, fd 11 0 .wo 0]⟩,
  -- OBS_KEY_STAT
  ⟨0x900018, [],
    [fd 31 31 .ro 0, fd 4 0 .ro 0]⟩,
  -- OBS_EVT
  ⟨0x900020, [],
    [fd 2 2 .w1c 0, fd 1 1 .w1c 0, fd 0 0 .w1c 0]⟩,
  -- OBS_EVT_EN
  ⟨0x900024, [],
    [fd 2 0 .rw 7]⟩,
  -- OBS_CNT
  ⟨0x900028, [],
    [fd 31 16 .ro 0, fd 15 0 .ro 0]⟩,
  -- OBS_KEY_STATE
  ⟨0x900400, [(256, 0x4)],
    [fd 31 0 .ro 0]⟩,
  -- OBS_RAW_IN
  ⟨0x901000, [(14, 0x40), (4, 0x4)],
    [fd 31 0 .rw 0]⟩,
  -- OBS_RAW_OUT
  ⟨0x901020, [(14, 0x40), (4, 0x4)],
    [fd 31 0 .ro 0]⟩,
  -- OBS_RAW_CTL
  ⟨0x901010, [(14, 0x40)],
    [fd 31 31 .wo 0, fv 30 29 .rw 0 0 2, fd 28 27 .rw 0, fd 26 26 .rw 0, fd 25 25 .rw 0, fd 11 0 .rw 0]⟩,
  -- OBS_RAW_STAT
  ⟨0x901030, [(14, 0x40)],
    [fd 31 31 .ro 0, fd 30 30 .w1c 0, fd 27 24 .ro 0]⟩,
  -- OBS_AU_CTL
  ⟨0x902000, [(4, 0x40)],
    [fd 31 30 .wo 0, fd 20 16 .wo 0]⟩,
  -- OBS_AU_STAT
  ⟨0x902004, [(4, 0x40)],
    [fd 31 30 .ro 0, fd 29 29 .ro 0, fd 28 28 .ro 0, fd 19 16 .ro 0, fd 12 0 .ro 0]⟩,
  -- OBS_AU_TAG
  ⟨0x902010, [(4, 0x40), (4, 0x4)],
    [fd 31 0 .wo 0]⟩,
  -- OBS_AU_DATA
  ⟨0x902020, [(4, 0x40)],
    [fd 31 0 .ro 0]⟩]

/-- Registers of WAY, chapter 05, 06. -/
def regsWAY0 : List RegDesc := [
  -- WAY_TEN_CFG
  ⟨0xa10000, [(256, 0x20)],
    [fd 31 31 .rw 0, fd 28 28 .rw 0, fd 25 25 .rw 0, fd 24 24 .rw 0, fd 18 16 .rw 0]⟩,
  -- WAY_TEN_ALLOW_LO
  ⟨0xa10004, [(256, 0x20)],
    [fd 31 0 .rw 0]⟩,
  -- WAY_TEN_ALLOW_HI
  ⟨0xa10008, [(256, 0x20)],
    [fd 7 0 .rw 0]⟩,
  -- WAY_TEN_USE_LO
  ⟨0xa1000c, [(256, 0x20)],
    [fd 31 0 .ro 0]⟩,
  -- WAY_TEN_USE_HI
  ⟨0xa10010, [(256, 0x20)],
    [fd 7 0 .ro 0]⟩,
  -- WAY_TEN_RSV
  ⟨0xa10014, [(256, 0x20)],
    [fd 31 0 .ro 0]⟩,
  -- WAY_TEN_STATUS
  ⟨0xa10018, [(256, 0x20)],
    [fd 31 31 .ro 0, fd 15 0 .ro 0]⟩,
  -- WAY_OVER_EVT
  ⟨0xa00200, [(8, 0x4)],
    [fd 31 0 .w1c 0]⟩,
  -- WAY_CTX_TAKE
  ⟨0xa00100, [(2, 0x8)],
    [fd 0 0 .wo 0]⟩,
  -- WAY_CTX_GOT
  ⟨0xa00104, [(2, 0x8)],
    [fd 31 31 .ro 0, fd 15 0 .ro 0]⟩,
  -- WAY_CTX_POST
  ⟨0xa00120, [],
    [fd 27 24 .wo 0, fd 15 0 .wo 0]⟩,
  -- WAY_CTX_HEAD
  ⟨0xa00130, [(2, 0x8)],
    [fd 31 31 .ro 0, fd 15 0 .ro 0]⟩,
  -- WAY_CTX_POP
  ⟨0xa00134, [(2, 0x8)],
    [fd 15 0 .wo 0]⟩,
  -- WAY_CTX_FREE_CNT
  ⟨0xa00140, [],
    [fd 16 0 .ro 65536]⟩,
  -- WAY_CTX_COMMIT_CNT
  ⟨0xa00144, [],
    [fd 16 0 .ro 0]⟩,
  -- WAY_VAULT_ACK
  ⟨0xa00180, [],
    [fd 31 16 .ro 0, fd 15 0 .ro 0]⟩,
  -- WAY_CLASS
  ⟨0xa00300, [(8, 0x4)],
    [fd 17 16 .rw 0, fd 15 0 .rw 0]⟩,
  -- WAY_GROUP_CTL
  ⟨0xa00408, [],
    [fc 15 0 .rw 600 10 65535]⟩,
  -- WAY_ACT_STAT
  ⟨0xa00410, [(4, 0x4)],
    [fd 31 16 .ro 0, fd 15 0 .ro 0]⟩,
  -- WAY_CAP_LO
  ⟨0xa00520, [],
    [fd 31 0 .ro 0]⟩,
  -- WAY_CAP_HI
  ⟨0xa00524, [],
    [fd 7 0 .ro 0]⟩,
  -- WAY_FREE_LO
  ⟨0xa00528, [],
    [fd 31 0 .ro 0]⟩,
  -- WAY_FREE_HI
  ⟨0xa0052c, [],
    [fd 7 0 .ro 0]⟩,
  -- WAY_STALE_LO
  ⟨0xa00540, [],
    [fd 31 0 .ro 0]⟩]

/-- Registers of WAY, chapter 05, 06. -/
def regsWAY1 : List RegDesc := [
  -- WAY_STALE_HI
  ⟨0xa00544, [],
    [fd 7 0 .ro 0]⟩,
  -- WAY_CLEAN_CTL
  ⟨0xa00420, [],
    [fd 23 16 .rw 12, fd 15 8 .rw 4, fd 7 0 .rw 60]⟩,
  -- WAY_SURVEY_CTL
  ⟨0xa00430, [],
    [fd 31 24 .rw 120, fd 23 16 .rw 3, fd 7 0 .rw 5]⟩,
  -- WAY_SURVEY_STAT
  ⟨0xa00434, [],
    [fd 31 16 .ro 0, fd 15 0 .ro 0]⟩,
  -- WAY_SURVEY_CNT
  ⟨0xa00438, [],
    [fd 31 16 .ro 0, fd 15 0 .ro 0]⟩,
  -- WAY_CKPT_CTL
  ⟨0xa00440, [],
    [fd 31 31 .w1s 0, fd 23 12 .rw 60, fd 11 0 .rw 64]⟩,
  -- WAY_CKPT_STAT
  ⟨0xa00444, [],
    [fd 31 31 .ro 0, fd 30 0 .ro 0]⟩,
  -- WAY_TEN_PURGE
  ⟨0xa00600, [],
    [fd 31 31 .w1c 0, fd 30 30 .ro 0, fd 8 0 .rw 0]⟩,
  -- WAY_UNIT_CMD
  ⟨0xa00500, [],
    [fd 29 28 .wo 0, fd 27 27 .wo 0, fd 26 24 .wo 0, fd 7 0 .wo 0]⟩,
  -- WAY_UNIT_STAT
  ⟨0xa00504, [],
    [fd 31 31 .ro 0, fd 30 28 .ro 0, fd 27 24 .ro 0]⟩,
  -- WAY_UNIT_STATE
  ⟨0xa00510, [(4, 0x4)],
    [fd 31 0 .ro 0]⟩,
  -- WAY_DEGRADED
  ⟨0xa00530, [],
    [fd 31 0 .ro 0]⟩]

/-- Registers of WAY. -/
def regsWAY : List RegDesc := regsWAY0 ++ regsWAY1

/-- Registers of HP, chapter 04. -/
def regsHP : List RegDesc := [
  -- HP_CFG
  ⟨0xb00000, [(2, 0x100000)],
    [fd 19 16 .ro 0, fd 15 12 .ro 0, fd 11 8 .ro 0, fd 3 0 .ro 0]⟩,
  -- HP_ID
  ⟨0xb00004, [(2, 0x100000)],
    [fd 31 16 .ro 38464, fd 15 0 .ro 0]⟩,
  -- HP_LINK_CTL
  ⟨0xb00010, [(2, 0x100000)],
    [fd 3 1 .rw 7, fd 0 0 .rw 1]⟩,
  -- HP_LINK
  ⟨0xb00014, [(2, 0x100000)],
    [fd 31 31 .ro 0, fd 30 30 .ro 0, fd 27 24 .ro 0, fd 23 20 .ro 0, fd 15 0 .ro 0]⟩,
  -- HP_EVT
  ⟨0xb00018, [(2, 0x100000)],
    [fd 6 6 .w1c 0, fd 5 5 .w1c 0, fd 4 4 .w1c 0, fd 3 3 .w1c 0, fd 2 2 .w1c 0, fd 1 1 .w1c 0, fd 0 0 .w1c 0]⟩,
  -- HP_PARTNER_LO
  ⟨0xb00020, [(2, 0x100000), (2, 0x8)],
    [fd 31 0 .ro 0]⟩,
  -- HP_PARTNER_HI
  ⟨0xb00024, [(2, 0x100000), (2, 0x8)],
    [fd 31 0 .ro 0]⟩,
  -- HP_SAS_ADDR_LO
  ⟨0xb00030, [(2, 0x100000), (2, 0x8)],
    [fd 31 0 .rw 0]⟩,
  -- HP_SAS_ADDR_HI
  ⟨0xb00034, [(2, 0x100000), (2, 0x8)],
    [fd 31 0 .rw 0]⟩,
  -- HP_CTX_MIN
  ⟨0xb00040, [(2, 0x100000)],
    [fd 15 0 .rw 1024]⟩,
  -- HP_CTX_USE
  ⟨0xb00044, [(2, 0x100000)],
    [fd 16 0 .ro 0]⟩,
  -- HP_SHD_ADDR
  ⟨0xb00100, [(2, 0x100000)],
    [fd 15 2 .rw 0]⟩,
  -- HP_SHD_DATA
  ⟨0xb00104, [(2, 0x100000)],
    [fd 31 0 .wo 0]⟩,
  -- HP_SHD_RDATA
  ⟨0xb00108, [(2, 0x100000)],
    [fd 31 0 .ro 0]⟩,
  -- HP_SHD_COMMIT
  ⟨0xb0010c, [(2, 0x100000)],
    [fd 1 1 .wo 0, fd 0 0 .wo 0]⟩,
  -- HP_SHD_STATUS
  ⟨0xb00110, [(2, 0x100000)],
    [fd 8 8 .ro 0, fd 6 0 .ro 0]⟩]

/-- Registers of CSW, chapter 19. -/
def regsCSW : List RegDesc := [
  -- CSW_CTL
  ⟨0xd00000, [],
    [fd 31 31 .wo 0, fd 30 30 .wo 0, fd 10 10 .rw 1, fv 9 8 .rw 0 0 2, fc 6 0 .rw 30 5 95]⟩,
  -- CSW_LINK
  ⟨0xd00004, [],
    [fd 31 31 .ro 0, fd 30 30 .ro 0, fd 29 28 .ro 0, fd 1 0 .ro 0]⟩,
  -- CSW_EVT
  ⟨0xd00008, [],
    [fd 5 5 .w1c 0, fd 4 4 .w1c 0, fd 3 3 .w1c 0, fd 2 2 .w1c 0, fd 1 1 .w1c 0, fd 0 0 .w1c 0]⟩,
  -- CSW_SESS
  ⟨0xd0000c, [],
    [fd 31 28 .ro 0, fd 27 24 .ro 0, fd 15 0 .ro 0]⟩,
  -- CSW_SESSION_LO
  ⟨0xd00010, [],
    [fd 31 0 .rw 0]⟩,
  -- CSW_SESSION_HI
  ⟨0xd00014, [],
    [fd 31 0 .rw 0]⟩,
  -- CSW_CFG
  ⟨0xd00018, [],
    [fd 31 24 .rw 2, fc 15 8 .rw 64 1 255, fc 6 0 .rw 32 1 64]⟩,
  -- CSW_SELF_ID
  ⟨0xd00020, [(4, 0x4)],
    [fd 31 0 .ro 0]⟩,
  -- CSW_PEER_ID
  ⟨0xd00030, [(4, 0x4)],
    [fd 31 0 .ro 0]⟩,
  -- CSW_TEN
  ⟨0xd00040, [(8, 0x4)],
    [fd 31 0 .rw 0]⟩,
  -- CSW_RESUME
  ⟨0xd00060, [(6, 0x4)],
    [fd 31 0 .rw 0]⟩,
  -- CSW_RESUME_CTL
  ⟨0xd00078, [],
    [fd 0 0 .rw 0]⟩,
  -- CSW_CNT_ITEM
  ⟨0xd00080, [],
    [fd 31 16 .ro 0, fd 15 0 .ro 0]⟩,
  -- CSW_CNT_ERR
  ⟨0xd00084, [],
    [fd 31 16 .ro 0, fd 15 0 .ro 0]⟩]

/-- Registers of STR, chapter 16. -/
def regsSTR : List RegDesc := [
  -- STR_CTL
  ⟨0xe00000, [(12, 0x10000)],
    [fd 1 1 .wo 0, fd 0 0 .wo 0]⟩,
  -- STR_STAT
  ⟨0xe00004, [(12, 0x10000)],
    [fd 31 31 .ro 0, fd 30 30 .ro 0, fd 29 29 .ro 0, fd 26 24 .ro 0, fd 16 0 .ro 0]⟩,
  -- STR_RP
  ⟨0xe00008, [(12, 0x10000)],
    [fd 16 0 .ro 0]⟩,
  -- STR_EVT
  ⟨0xe00010, [(12, 0x10000)],
    [fd 3 3 .w1c 0, fd 2 2 .w1c 0, fd 1 1 .w1c 0, fd 0 0 .w1c 0]⟩,
  -- STR_EVT_EN
  ⟨0xe00014, [(12, 0x10000)],
    [fd 3 0 .rw 14]⟩,
  -- STR_FLT
  ⟨0xe00018, [(12, 0x10000)],
    [fd 31 28 .ro 0, fd 16 0 .ro 0]⟩,
  -- STR_CNT
  ⟨0xe0001c, [(12, 0x10000)],
    [fd 31 16 .ro 0, fd 15 0 .ro 0]⟩,
  -- STR_PSTAT
  ⟨0xe00020, [(12, 0x10000)],
    [fd 31 28 .ro 0, fd 21 16 .ro 0, fd 6 0 .ro 0]⟩,
  -- STR_PVER
  ⟨0xe00024, [(12, 0x10000)],
    [fd 31 0 .ro 0]⟩,
  -- STR_PMASK_LO
  ⟨0xe00028, [(12, 0x10000)],
    [fd 31 0 .ro 0]⟩,
  -- STR_PMASK_HI
  ⟨0xe0002c, [(12, 0x10000)],
    [fd 31 0 .ro 0]⟩,
  -- STR_ID
  ⟨0xe00030, [(12, 0x10000)],
    [fd 31 0 .ro 0]⟩,
  -- STR_WQ_PUSH
  ⟨0xe00040, [(12, 0x10000)],
    [fd 31 28 .wo 0, fd 15 0 .wo 0]⟩,
  -- STR_WQ_STAT
  ⟨0xe00044, [(12, 0x10000)],
    [fd 31 31 .ro 0, fd 27 24 .ro 0, fd 20 16 .ro 16, fd 15 0 .ro 0]⟩,
  -- STR_MATCH
  ⟨0xe00100, [(12, 0x10000), (64, 0x4)],
    [fd 31 31 .ro 0, fd 27 16 .ro 0, fd 15 0 .ro 0]⟩]

/-- Registers of LD, chapter 07 to 09. An AREF above 31 is stored as it stands (DESIGN CHOICE: R183 states only what a write below 4
stores). -/
def regsLD0 : List RegDesc := [
  -- LD_CFG
  ⟨0x1000000, [(8, 0x100000)],
    [fv 13 12 .rw 0 0 1, fd 11 11 .rw 0, fd 10 10 .rw 1, fd 9 9 .ro 0, fd 8 8 .rw 1, fd 7 6 .ro 0, fd 2 0 .ro 0]⟩,
  -- LD_STATUS
  ⟨0x1000004, [(8, 0x100000)],
    [fd 21 16 .ro 0, fd 4 4 .ro 0, fd 3 3 .ro 0, fd 2 2 .ro 0, fd 1 1 .ro 0, fd 0 0 .ro 0]⟩,
  -- LD_EVT
  ⟨0x1000008, [(8, 0x100000)],
    [fd 7 7 .w1c 0, fd 6 6 .w1c 0, fd 5 5 .w1c 0, fd 4 4 .w1c 0, fd 3 3 .w1c 0, fd 2 2 .w1c 0, fd 1 1 .w1c 0, fd 0 0 .w1c 0]⟩,
  -- LD_EVT_EN
  ⟨0x100000c, [(8, 0x100000)],
    [fd 7 0 .rw 1]⟩,
  -- LD_SEL
  ⟨0x1000010, [(8, 0x100000)],
    [fd 13 8 .rw 0, fd 7 7 .rw 1, fd 2 0 .rw 0]⟩,
  -- LD_SEL_STAT
  ⟨0x1000014, [(8, 0x100000)],
    [fd 23 16 .ro 0, fd 15 8 .ro 0, fd 4 0 .ro 0]⟩,
  -- LD_CTF
  ⟨0x1000020, [(8, 0x100000), (2, 0x4)],
    [fd 12 8 .rw 12, fc 5 0 .rw 24 0 47]⟩,
  -- LD_LOOP_CTL
  ⟨0x1000028, [(8, 0x100000)],
    [fd 31 28 .rw 8, fd 27 24 .rw 10, fd 23 20 .rw 12, fc 13 8 .rw 20 4 63, fd 2 2 .rw 1, fd 1 1 .rw 1, fd 0 0 .rw 1]⟩,
  -- LD_GAIN
  ⟨0x1000030, [(8, 0x100000), (2, 0x4)],
    [fd 21 0 .rw 2097152]⟩,
  -- LD_OFS
  ⟨0x1000038, [(8, 0x100000), (2, 0x4)],
    [fd 9 0 .rw 0]⟩,
  -- LD_ASY
  ⟨0x1000040, [(8, 0x100000), (2, 0x4)],
    [fd 11 0 .rw 0]⟩,
  -- LD_FREEZE
  ⟨0x1000048, [(8, 0x100000)],
    [fd 31 24 .rw 16, fd 2 0 .rw 7]⟩,
  -- LD_TA_CTL
  ⟨0x100004c, [(8, 0x100000)],
    [fc 15 8 .rw 32 1 255, fc 4 0 .rw 6 1 31]⟩,
  -- LD_TA_STAT
  ⟨0x1000050, [(8, 0x100000)],
    [fd 31 16 .ro 0, fd 0 0 .ro 0]⟩,
  -- LD_PRE
  ⟨0x1000060, [(8, 0x100000), (2, 0x20), (5, 0x4)],
    [fd 9 0 .rw 0]⟩,
  -- LD_EQ_CTL
  ⟨0x10000a0, [(8, 0x100000)],
    [fd 31 28 .rw 11, fd 27 24 .rw 12, fd 2 2 .rw 1, fd 1 1 .rw 1, fd 0 0 .rw 1]⟩,
  -- LD_EQ
  ⟨0x1000100, [(8, 0x100000), (2, 0x40), (16, 0x4)],
    [fd 11 0 .rw 0]⟩,
  -- LD_TGT_LO
  ⟨0x1000200, [(8, 0x100000), (16, 0x8)],
    [fd 31 0 .rw 0]⟩,
  -- LD_TGT_HI
  ⟨0x1000204, [(8, 0x100000), (16, 0x8)],
    [fd 7 0 .rw 0]⟩,
  -- LD_DET_CTL
  ⟨0x1000300, [(8, 0x100000)],
    [fd 31 24 .rw 64]⟩,
  -- LD_NP
  ⟨0x1000320, [(8, 0x100000), (8, 0x4)],
    [fc 31 24 .rw 32 1 255, fd 23 16 .rw 0, fd 15 8 .rw 0, fd 7 0 .rw 0]⟩,
  -- LD_SEED
  ⟨0x1000400, [(8, 0x100000), (8, 0x8), (2, 0x4)],
    [fd 31 22 .rw 512, fd 21 12 .rw 0, fd 11 0 .rw 0]⟩,
  -- LD_CLR_CTL
  ⟨0x1000500, [(8, 0x100000)],
    [fd 10 8 .rw 3, fd 4 4 .rw 0, fd 0 0 .rw 0]⟩,
  -- LD_CLR_RES
  ⟨0x1000504, [(8, 0x100000)],
    [fd 31 31 .ro 0, fd 15 0 .ro 0]⟩]

/-- Registers of LD, chapter 07 to 09. -/
def regsLD1 : List RegDesc := [
  -- LD_CLR_AMP
  ⟨0x1000508, [(8, 0x100000)],
    [fd 31 16 .ro 0, fd 15 0 .ro 0]⟩,
  -- LD_CNT_CLIP
  ⟨0x1000600, [(8, 0x100000), (2, 0x4)],
    [fd 31 0 .ro 0]⟩,
  -- LD_MS_CTL
  ⟨0x1000800, [(8, 0x100000)],
    [fc 31 24 .rw 50 1 255, fc 23 20 .rw 4 1 15, fd 19 19 .rw 1, fd 13 8 .rw 16, fd 5 0 .rw 4]⟩,
  -- LD_MS_STAT
  ⟨0x1000804, [(8, 0x100000)],
    [fd 21 16 .ro 0, fd 15 8 .ro 0, fd 1 0 .ro 0]⟩,
  -- LD_MS_RATE
  ⟨0x1000808, [(8, 0x100000)],
    [fd 31 0 .ro 0]⟩,
  -- LD_FRM_CTL
  ⟨0x1000700, [(8, 0x100000)],
    [fd 31 31 .rw 0, fc 23 16 .rw 64 8 255, fc 12 8 .rw 9 0 24, fc 4 0 .rw 4 0 24]⟩,
  -- LD_FRM_STAT
  ⟨0x1000704, [(8, 0x100000)],
    [fd 31 16 .ro 0, fd 15 7 .ro 0, fd 3 0 .ro 0]⟩,
  -- LD_FRM_CNT0
  ⟨0x1000708, [(8, 0x100000)],
    [fd 31 16 .ro 0, fd 15 0 .ro 0]⟩,
  -- LD_FRM_CNT1
  ⟨0x100070c, [(8, 0x100000)],
    [fd 31 16 .ro 0, fd 15 0 .ro 0]⟩,
  -- LD_REFRAME
  ⟨0x1000720, [(8, 0x100000)],
    [fd 31 16 .wo 0, fv 13 12 .wo 0 0 2, fd 8 8 .wo 0, fd 3 0 .wo 0]⟩,
  -- LD_REFRAME_RES
  ⟨0x1000724, [(8, 0x100000)],
    [fd 31 31 .w1c 0, fd 30 30 .ro 0, fd 11 8 .ro 0, fd 3 0 .ro 0]⟩,
  -- LD_DFW_START
  ⟨0x1000740, [(8, 0x100000), (16, 0x8)],
    [fd 31 16 .rw 0, fd 15 0 .rw 0]⟩,
  -- LD_DFW_LEN
  ⟨0x1000744, [(8, 0x100000), (16, 0x8)],
    [fd 31 31 .rw 0, fd 15 0 .rw 0]⟩,
  -- LD_RING_CFG
  ⟨0x1000900, [(8, 0x100000)],
    [fd 20 20 .rw 0, fd 19 16 .rw 0, fd 12 12 .rw 1, fd 11 8 .rw 0, fd 3 0 .ro 0]⟩,
  -- LD_RING_NEW_LO
  ⟨0x1000904, [(8, 0x100000)],
    [fd 31 0 .ro 0]⟩,
  -- LD_RING_NEW_HI
  ⟨0x1000908, [(8, 0x100000)],
    [fd 15 0 .ro 0]⟩,
  -- LD_RING_OLD_LO
  ⟨0x100090c, [(8, 0x100000)],
    [fd 31 0 .ro 0]⟩,
  -- LD_RING_OLD_HI
  ⟨0x1000910, [(8, 0x100000)],
    [fd 15 0 .ro 0]⟩,
  -- LD_RPLY_START_LO
  ⟨0x1000914, [(8, 0x100000)],
    [fd 31 0 .rw 0]⟩,
  -- LD_RPLY_START_HI
  ⟨0x1000918, [(8, 0x100000)],
    [fd 15 0 .rw 0]⟩,
  -- LD_RPLY_LEN
  ⟨0x100091c, [(8, 0x100000)],
    [fc 23 0 .rw 8192 1 16777215]⟩,
  -- LD_RPLY_STAT
  ⟨0x1000920, [(8, 0x100000)],
    [fd 27 24 .ro 0, fd 23 0 .ro 0]⟩,
  -- LD_RING_FIND_TRK
  ⟨0x1000924, [(8, 0x100000)],
    [fd 31 0 .rw 0]⟩,
  -- LD_RING_FIND
  ⟨0x1000928, [(8, 0x100000)],
    [fd 15 0 .wo 0]⟩]

/-- Registers of LD, chapter 07 to 09. -/
def regsLD2 : List RegDesc := [
  -- LD_RING_FOUND_LO
  ⟨0x100092c, [(8, 0x100000)],
    [fd 31 0 .ro 0]⟩,
  -- LD_RING_FOUND_HI
  ⟨0x1000930, [(8, 0x100000)],
    [fd 31 31 .ro 0, fd 30 30 .ro 0, fd 18 16 .ro 0, fd 15 0 .ro 0]⟩]

/-- Registers of LD. -/
def regsLD : List RegDesc := regsLD0 ++ regsLD1 ++ regsLD2

/-- Registers of QRY, chapter 09. -/
def regsQRY : List RegDesc := [
  -- QRY_CFG
  ⟨0x1800000, [],
    [fc 31 28 .rw 12 8 15, fc 21 16 .rw 30 1 50, fd 13 8 .rw 10]⟩,
  -- QRY_ENG
  ⟨0x1800004, [],
    [fd 27 16 .ro 0, fd 11 0 .rw 4095]⟩,
  -- QRY_STAT
  ⟨0x1800008, [],
    [fd 27 16 .w1c 0, fd 6 0 .ro 64]⟩,
  -- QRY_LADDER
  ⟨0x1800010, [],
    [fd 31 28 .rw 2, fd 26 24 .rw 2, fc 23 12 .rw 256 64 4095, fd 1 0 .rw 2]⟩,
  -- QRY_LADDER_EQ
  ⟨0x1800014, [],
    [fd 11 8 .rw 2, fd 7 4 .rw 6, fd 3 0 .rw 4]⟩,
  -- QRY_CNT
  ⟨0x1800020, [],
    [fd 31 16 .ro 0, fd 15 0 .ro 0]⟩,
  -- QRY_EVT
  ⟨0x1800040, [],
    [fd 3 3 .w1c 0, fd 2 2 .w1c 0, fd 1 1 .w1c 0, fd 0 0 .w1c 0]⟩,
  -- QRY_EVT_EN
  ⟨0x1800044, [],
    [fd 3 0 .rw 3]⟩,
  -- QRY_HDESC_SEL
  ⟨0x1800030, [],
    [fd 26 24 .rw 0, fd 15 0 .rw 0]⟩,
  -- QRY_HDESC_DATA
  ⟨0x1800034, [],
    [fd 31 0 .ro 0]⟩,
  -- QRY_SUB_DST_LO
  ⟨0x1801000, [(8, 0x40)],
    [fd 31 6 .rw 0]⟩,
  -- QRY_SUB_DST_HI
  ⟨0x1801004, [(8, 0x40)],
    [fd 15 0 .rw 0]⟩,
  -- QRY_SUB_PSA_LO
  ⟨0x1801008, [(8, 0x40)],
    [fd 31 0 .rw 0]⟩,
  -- QRY_SUB_PSA_HI
  ⟨0x180100c, [(8, 0x40)],
    [fd 31 31 .rw 0, fd 15 0 .rw 0]⟩,
  -- QRY_SUB_CMD
  ⟨0x1801010, [(8, 0x40)],
    [fd 31 16 .wo 0, fd 15 15 .wo 0, fv 13 12 .wo 0 0 2, fd 10 8 .wo 0, fd 5 0 .wo 0]⟩,
  -- QRY_SUB_STAT
  ⟨0x1801014, [(8, 0x40)],
    [fd 5 0 .ro 32]⟩,
  -- QRY_CPL_A
  ⟨0x1801020, [(8, 0x40)],
    [fd 31 31 .ro 0, fd 27 24 .ro 0, fd 21 16 .ro 0, fd 15 0 .ro 0]⟩,
  -- QRY_CPL_B
  ⟨0x1801024, [(8, 0x40)],
    [fd 31 28 .ro 0, fd 27 16 .ro 0, fd 15 0 .ro 0]⟩,
  -- QRY_CPL_POP
  ⟨0x1801028, [(8, 0x40)],
    [fd 0 0 .wo 0]⟩]

/-- Registers of BAS, chapter 10. -/
def regsBAS0 : List RegDesc := [
  -- BAS_STAT
  ⟨0x1900000, [],
    [fd 8 8 .ro 0, fd 3 0 .ro 0]⟩,
  -- BAS_TICK
  ⟨0x1900004, [(2, 0x4)],
    [fc 15 0 .rw 0 1 65535]⟩,
  -- BAS_SV_HWM
  ⟨0x1900010, [],
    [fd 31 31 .wo 0, fd 15 0 .ro 0]⟩,
  -- BAS_FLAG_SUM
  ⟨0x1900020, [(3, 0x4)],
    [fd 31 0 .ro 0]⟩,
  -- BAS_GIN
  ⟨0x1900100, [(16, 0x4)],
    [fd 15 0 .rw 0]⟩,
  -- BAS_GOUT
  ⟨0x1900140, [(16, 0x4)],
    [fd 15 0 .ro 0]⟩,
  -- BAS_KICK
  ⟨0x1900180, [],
    [fd 6 0 .wo 0]⟩,
  -- BAS_HEAT
  ⟨0x1900400, [(32, 0x4)],
    [fd 31 16 .rw 0, fd 15 8 .rw 64, fc 7 0 .rw 4 1 255]⟩,
  -- BAS_HEAT_ACT
  ⟨0x1900480, [],
    [fd 31 0 .ro 0]⟩,
  -- BAS_HEAT_RDY
  ⟨0x1900484, [],
    [fd 31 0 .ro 0]⟩,
  -- BAS_LCFG
  ⟨0x1910000, [(80, 0x40)],
    [fd 31 31 .rw 0, fd 30 30 .rw 0, fd 29 29 .w1s 0, fd 28 28 .w1s 0, fd 27 27 .ro 0, fv 26 24 .rw 0 0 4, fv 22 20 .rw 0 0 6, fd 19 16 .rw 0, fd 15 8 .rw 0, fd 5 0 .rw 0]⟩,
  -- BAS_LIO
  ⟨0x1910004, [(80, 0x40)],
    [fd 31 24 .rw 0, fd 23 16 .rw 0]⟩,
  -- BAS_LFSRC
  ⟨0x1910008, [(80, 0x40)],
    [fd 31 0 .rw 0]⟩,
  -- BAS_LSP
  ⟨0x191000c, [(80, 0x40)],
    [fd 15 0 .rw 0]⟩,
  -- BAS_LLIM
  ⟨0x1910010, [(80, 0x40)],
    [fd 31 16 .rw 0, fd 15 0 .rw 0]⟩,
  -- BAS_LFLAG
  ⟨0x1910014, [(80, 0x40)],
    [fd 21 16 .rw 0, fd 5 5 .w1c 0, fd 4 4 .w1c 0, fd 3 3 .w1c 0, fd 2 2 .w1c 0, fd 1 1 .w1c 0, fd 0 0 .w1c 0]⟩,
  -- BAS_LOUT
  ⟨0x1910018, [(80, 0x40)],
    [fd 31 16 .ro 0, fd 15 0 .ro 0]⟩,
  -- BAS_LINT_LO
  ⟨0x191001c, [(80, 0x40)],
    [fd 31 0 .rw 0]⟩,
  -- BAS_LINT_HI
  ⟨0x1910020, [(80, 0x40)],
    [fd 7 0 .rw 0]⟩,
  -- BAS_CIN
  ⟨0x1920000, [(80, 0x100), (2, 0x80)],
    [fd 31 16 .rw 0, fd 15 0 .rw 16384]⟩,
  -- BAS_CSH
  ⟨0x1920004, [(80, 0x100), (2, 0x80)],
    [fd 19 16 .rw 0, fd 15 12 .rw 0, fd 11 8 .rw 0, fd 7 4 .rw 0, fd 3 0 .rw 1]⟩,
  -- BAS_CBQA
  ⟨0x1920008, [(80, 0x100), (2, 0x80), (6, 0xc)],
    [fd 31 16 .rw 0, fd 15 0 .rw 16384]⟩,
  -- BAS_CBQB
  ⟨0x192000c, [(80, 0x100), (2, 0x80), (6, 0xc)],
    [fd 31 16 .rw 0, fd 15 0 .rw 0]⟩,
  -- BAS_CBQC
  ⟨0x1920010, [(80, 0x100), (2, 0x80), (6, 0xc)],
    [fd 19 16 .rw 1, fd 15 0 .rw 0]⟩]

/-- Registers of BAS, chapter 10. -/
def regsBAS1 : List RegDesc := [
  -- BAS_CPID0
  ⟨0x1920050, [(80, 0x100), (2, 0x80)],
    [fd 31 16 .rw 0, fd 15 0 .rw 0]⟩,
  -- BAS_CPID1
  ⟨0x1920054, [(80, 0x100), (2, 0x80)],
    [fd 31 16 .rw 0, fd 15 0 .rw 0]⟩,
  -- BAS_CFF0
  ⟨0x1920058, [(80, 0x100), (2, 0x80)],
    [fd 31 16 .rw 0, fd 15 0 .rw 0]⟩,
  -- BAS_CFF1
  ⟨0x192005c, [(80, 0x100), (2, 0x80)],
    [fd 31 16 .rw 0, fd 15 0 .rw 0]⟩]

/-- Registers of BAS. -/
def regsBAS : List RegDesc := regsBAS0 ++ regsBAS1

/-- Registers of ACT, chapter 07, 08, 11. -/
def regsACT0 : List RegDesc := [
  -- ACT_WC_SEL
  ⟨0x1a20000, [(4, 0x40000)],
    [fd 13 8 .rw 0, fd 2 0 .rw 0]⟩,
  -- ACT_WC_CTL
  ⟨0x1a20004, [(4, 0x40000)],
    [fc 31 16 .rw 2000 1 65535, fd 2 2 .w1s 0, fd 1 1 .rw 1, fd 0 0 .rw 1]⟩,
  -- ACT_WC_STAT
  ⟨0x1a20008, [(4, 0x40000)],
    [fd 5 5 .ro 0, fd 4 4 .ro 0, fd 3 3 .ro 0, fd 2 2 .ro 0, fd 1 1 .ro 0, fd 0 0 .ro 0]⟩,
  -- ACT_WC_EVT
  ⟨0x1a2000c, [(4, 0x40000)],
    [fd 3 3 .w1c 0, fd 2 2 .w1c 0, fd 1 1 .w1c 0, fd 0 0 .w1c 0]⟩,
  -- ACT_WC_PROF
  ⟨0x1a20040, [(4, 0x40000), (16, 0x4)],
    [fd 31 28 .rw 4, fd 27 24 .rw 8, fd 14 10 .rw 1, fd 9 5 .rw 3, fd 4 0 .rw 6]⟩,
  -- ACT_WC_CNT
  ⟨0x1a20080, [(4, 0x40000)],
    [fd 31 16 .ro 0, fd 15 0 .ro 0]⟩,
  -- ACT_MS_CTL
  ⟨0x1a20100, [(4, 0x40000)],
    [fd 31 31 .rw 0, fd 23 20 .rw 4, fd 13 8 .rw 8, fd 5 0 .rw 4]⟩,
  -- ACT_MS_STAT
  ⟨0x1a20104, [(4, 0x40000)],
    [fd 21 16 .ro 0, fd 15 8 .ro 0, fd 1 0 .ro 0]⟩,
  -- ACT_MS_PH
  ⟨0x1a20110, [(4, 0x40000), (8, 0x4)],
    [fd 15 0 .rw 0]⟩,
  -- ACT_STATE
  ⟨0x1a00000, [(4, 0x40000)],
    [fd 27 24 .ro 0, fd 15 8 .ro 0, fd 4 4 .ro 0, fd 3 0 .ro 0]⟩,
  -- ACT_CMD
  ⟨0x1a00004, [(4, 0x40000)],
    [fd 1 0 .wo 0]⟩,
  -- ACT_SEEK
  ⟨0x1a00008, [(4, 0x40000)],
    [fd 23 0 .rw 0]⟩,
  -- ACT_EVT
  ⟨0x1a0000c, [(4, 0x40000)],
    [fd 7 7 .w1c 0, fd 6 6 .w1c 0, fd 5 5 .w1c 0, fd 4 4 .w1c 0, fd 3 3 .w1c 0, fd 2 2 .w1c 0, fd 1 1 .w1c 0, fd 0 0 .w1c 0]⟩,
  -- ACT_EVT_EN
  ⟨0x1a00010, [(4, 0x40000)],
    [fd 7 0 .rw 208]⟩,
  -- ACT_SV_CFG
  ⟨0x1a00014, [(4, 0x40000)],
    [fc 31 24 .rw 8 1 255, fc 23 16 .rw 4 1 255, fd 15 4 .rw 256, fd 0 0 .rw 0]⟩,
  -- ACT_POS_LO
  ⟨0x1a00018, [(4, 0x40000)],
    [fd 31 0 .ro 0]⟩,
  -- ACT_POS_HI
  ⟨0x1a0001c, [(4, 0x40000)],
    [fd 7 0 .ro 0]⟩,
  -- ACT_PES
  ⟨0x1a00020, [(4, 0x40000)],
    [fd 31 31 .ro 0, fd 15 0 .ro 0]⟩,
  -- ACT_ID
  ⟨0x1a00024, [(4, 0x40000)],
    [fd 31 31 .ro 0, fd 23 0 .ro 0]⟩,
  -- ACT_PROF
  ⟨0x1a00030, [(4, 0x40000)],
    [fd 31 16 .rw 16384, fc 15 0 .rw 4096 1 65535]⟩,
  -- ACT_FF
  ⟨0x1a00034, [(4, 0x40000)],
    [fd 15 0 .rw 0]⟩,
  -- ACT_SETTLE
  ⟨0x1a00038, [(4, 0x40000)],
    [fd 31 20 .rw 2400, fd 19 12 .rw 8, fd 11 0 .rw 1638]⟩,
  -- ACT_PERMIT
  ⟨0x1a0003c, [(4, 0x40000)],
    [fd 31 28 .ro 0, fd 27 27 .rw 0, fd 26 26 .rw 1, fd 19 12 .rw 4, fd 11 0 .rw 3277]⟩,
  -- ACT_JOG
  ⟨0x1a00040, [(4, 0x40000), (8, 0x4)],
    [fd 15 0 .rw 0]⟩]

/-- Registers of ACT, chapter 07, 08, 11. -/
def regsACT1 : List RegDesc := [
  -- ACT_VEL
  ⟨0x1a00060, [(4, 0x40000)],
    [fd 30 16 .rw 2048, fd 14 0 .rw 1024]⟩,
  -- ACT_VELK
  ⟨0x1a00064, [(4, 0x40000)],
    [fd 31 16 .rw 8192, fd 15 0 .rw 16384]⟩,
  -- ACT_TMO
  ⟨0x1a00068, [(4, 0x40000)],
    [fc 31 16 .rw 500 1 65535, fc 15 8 .rw 20 1 255, fc 7 0 .rw 30 1 30]⟩,
  -- ACT_CAL
  ⟨0x1a0006c, [(4, 0x40000)],
    [fd 0 0 .rw 0]⟩,
  -- ACT_DITHER
  ⟨0x1a00070, [(4, 0x40000)],
    [fd 31 31 .rw 0, fd 26 24 .rw 0, fd 19 0 .rw 1000]⟩,
  -- ACT_DITHER_AMP
  ⟨0x1a00074, [(4, 0x40000)],
    [fd 15 0 .rw 0]⟩,
  -- ACT_CNT0
  ⟨0x1a00080, [(4, 0x40000)],
    [fd 31 16 .ro 0, fd 15 0 .ro 0]⟩,
  -- ACT_CNT1
  ⟨0x1a00084, [(4, 0x40000)],
    [fd 31 16 .ro 0, fd 15 0 .ro 0]⟩,
  -- ACT_PA_CTL
  ⟨0x1a10000, [(4, 0x40000)],
    [fc 5 0 .rw 12 9 63]⟩,
  -- ACT_PA_MAP0
  ⟨0x1a10004, [(4, 0x40000)],
    [fd 30 24 .rw 16, fd 22 16 .rw 2, fd 14 8 .rw 1, fd 6 0 .rw 0]⟩,
  -- ACT_PA_MAP1
  ⟨0x1a10008, [(4, 0x40000)],
    [fc 31 24 .rw 255 1 255, fd 22 16 .rw 15, fd 14 8 .rw 9, fd 6 0 .rw 8]⟩,
  -- ACT_PA_ENUM
  ⟨0x1a1000c, [(4, 0x40000)],
    [fd 31 30 .ro 0, fd 15 8 .ro 0, fd 7 0 .ro 0]⟩,
  -- ACT_HSEL
  ⟨0x1a10010, [(4, 0x40000), (2, 0x4)],
    [fd 8 8 .ro 0, fd 2 0 .rw 0]⟩,
  -- ACT_PA_XFER
  ⟨0x1a10020, [(4, 0x40000)],
    [fd 31 31 .ro 0, fd 30 30 .w1c 0, fd 24 24 .rw 0, fd 22 16 .rw 0, fd 7 0 .rw 0]⟩,
  -- ACT_HTR
  ⟨0x1a10040, [(4, 0x40000), (8, 0x4)],
    [fd 7 0 .ro 0]⟩,
  -- ACT0_SHOCK_CFG
  ⟨0x1a30000, [],
    [fd 31 31 .rw 0, fd 26 24 .rw 0, fd 23 16 .rw 100, fd 15 0 .rw 16384]⟩,
  -- ACT0_SHOCK_STAT
  ⟨0x1a30004, [],
    [fd 31 31 .ro 0, fd 15 0 .ro 0]⟩]

/-- Registers of ACT. -/
def regsACT : List RegDesc := regsACT0 ++ regsACT1

/-- Registers of MIL, chapter 12. -/
def regsMIL : List RegDesc := [
  -- MIL_CMD
  ⟨0x1b00000, [],
    [fd 1 0 .wo 0]⟩,
  -- MIL_STAT
  ⟨0x1b00004, [],
    [fd 31 28 .ro 0, fd 11 11 .ro 0, fd 10 10 .ro 0, fd 9 9 .ro 0, fd 8 8 .ro 0, fd 3 0 .ro 0]⟩,
  -- MIL_EVT
  ⟨0x1b00008, [],
    [fd 6 6 .w1c 0, fd 5 5 .w1c 0, fd 4 4 .w1c 0, fd 3 3 .w1c 0, fd 2 2 .w1c 0, fd 1 1 .w1c 0, fd 0 0 .w1c 0]⟩,
  -- MIL_EVT_EN
  ⟨0x1b0000c, [],
    [fd 6 0 .rw 126]⟩,
  -- MIL_SPEED
  ⟨0x1b00010, [],
    [fd 31 31 .ro 0, fd 30 30 .ro 0, fd 19 0 .ro 0]⟩,
  -- MIL_ANGLE
  ⟨0x1b00014, [],
    [fd 31 16 .ro 0, fd 15 0 .ro 0]⟩,
  -- MIL_CFG
  ⟨0x1b00020, [],
    [fc 31 24 .rw 40 20 80, fd 19 16 .ro 0, fd 15 0 .ro 0]⟩,
  -- MIL_REG
  ⟨0x1b00024, [],
    [fc 31 16 .rw 1000 1 65535, fc 15 0 .rw 1000 1 65535]⟩,
  -- MIL_RAMP
  ⟨0x1b00028, [],
    [fd 31 24 .rw 24, fc 23 12 .rw 300 1 4095, fc 11 0 .rw 80 1 1000]⟩,
  -- MIL_HFI
  ⟨0x1b00030, [],
    [fd 26 24 .rw 0, fd 23 16 .rw 16, fc 7 0 .rw 100 80 200]⟩,
  -- MIL_PLL
  ⟨0x1b00034, [],
    [fd 31 28 .rw 2, fd 27 24 .rw 6, fd 23 20 .rw 10, fd 19 16 .rw 3, fd 15 0 .rw 0]⟩,
  -- MIL_MOTOR
  ⟨0x1b00038, [],
    [fc 31 16 .rw 420 1 65535, fd 15 0 .rw 1150]⟩,
  -- MIL_LOSS_CFG
  ⟨0x1b00040, [],
    [fc 31 24 .rw 60 30 95, fc 23 16 .rw 16 1 255, fd 15 8 .rw 30, fd 7 0 .rw 20]⟩,
  -- MIL_CATCH_CFG
  ⟨0x1b00044, [],
    [fd 15 8 .rw 8, fc 4 0 .rw 20 1 20]⟩,
  -- MIL_CATCH_RES
  ⟨0x1b00048, [],
    [fd 31 31 .ro 0, fd 28 28 .ro 0, fd 26 24 .ro 0, fd 9 0 .ro 0]⟩,
  -- MIL_LR
  ⟨0x1b0004c, [],
    [fd 27 24 .rw 3, fd 23 12 .rw 1000, fc 11 0 .rw 500 1 4095]⟩,
  -- MIL_BRK
  ⟨0x1b00050, [],
    [fd 23 12 .rw 120, fd 7 0 .rw 10]⟩,
  -- MIL_LOSS_STAT
  ⟨0x1b00060, [],
    [fd 31 16 .ro 0, fd 1 0 .ro 0]⟩,
  -- MIL_TBL
  ⟨0x1b01000, [(512, 0x4)],
    [fd 31 16 .rw 0, fd 15 0 .rw 0]⟩]

/-- Registers of BLS, chapter 13. -/
def regsBLS : List RegDesc := [
  -- BLS_STAT
  ⟨0x1c00000, [],
    [fd 7 7 .ro 0, fd 6 6 .ro 0, fd 5 5 .ro 0, fd 4 4 .ro 0, fd 3 3 .ro 0, fd 2 2 .ro 0, fd 1 1 .ro 0, fd 0 0 .ro 0]⟩,
  -- BLS_EVT
  ⟨0x1c00004, [],
    [fd 5 5 .w1c 0, fd 4 4 .w1c 0, fd 3 3 .w1c 0, fd 2 2 .w1c 0, fd 1 1 .w1c 0, fd 0 0 .w1c 0]⟩,
  -- BLS_OCP
  ⟨0x1c00008, [],
    [fd 31 16 .ro 0, fd 8 8 .w1c 0, fd 7 4 .w1c 0, fd 3 0 .w1c 0]⟩,
  -- BLS_LINK_CNT
  ⟨0x1c0000c, [],
    [fd 31 0 .ro 0]⟩,
  -- BLS_BANK_CFG
  ⟨0x1c00020, [],
    [fc 31 24 .rw 100 10 200, fc 23 15 .rw 350 150 350, fc 7 0 .rw 120 110 200]⟩,
  -- BLS_BANK_V
  ⟨0x1c00024, [],
    [fd 15 0 .ro 0]⟩,
  -- BLS_BANK_MEAS
  ⟨0x1c00028, [],
    [fd 31 16 .ro 0, fd 15 0 .ro 0]⟩,
  -- BLS_MEAS_CTL
  ⟨0x1c0002c, [],
    [fd 31 31 .w1s 0, fd 30 30 .ro 0, fc 27 20 .rw 24 1 255, fd 19 10 .rw 500, fd 9 0 .rw 100]⟩,
  -- BLS_VAULT_CFG
  ⟨0x1c00030, [],
    [fd 31 24 .rw 32, fc 23 20 .rw 2 0 8, fc 19 12 .rw 36 1 255, fd 11 0 .rw 1000]⟩,
  -- BLS_VAULT
  ⟨0x1c00034, [],
    [fd 31 16 .ro 0, fd 7 0 .ro 0]⟩,
  -- BLS_PF_CFG
  ⟨0x1c00040, [],
    [fc 15 8 .rw 115 90 255, fc 7 0 .rw 102 95 108]⟩,
  -- BLS_RET_CFG
  ⟨0x1c00044, [],
    [fd 31 16 .rw 8192, fc 7 0 .rw 40 5 255]⟩,
  -- BLS_VCM_CAL
  ⟨0x1c00050, [(4, 0x4)],
    [fd 31 31 .rw 0, fd 15 0 .rw 8000]⟩,
  -- BLS_TEMP
  ⟨0x1c00060, [],
    [fd 17 16 .ro 0, fd 15 0 .ro 0]⟩,
  -- BLS_NV
  ⟨0x1c00070, [],
    [fd 1 1 .ro 0, fd 0 0 .ro 0]⟩,
  -- BLS_DRIVE
  ⟨0x1c80000, [(4, 0x100)],
    [fd 31 16 .ro 0, fd 15 0 .ro 0]⟩]

/-- Registers of KEY, chapter 15. -/
def regsKEY : List RegDesc := [
  -- KEY_HB
  ⟨0x1d00010, [(2, 0x4)],
    []⟩,
  -- KEY_HB_CFG
  ⟨0x1d00018, [],
    [fd 15 0 .rw 0]⟩,
  -- KEY_RST_VEC_LO
  ⟨0x1d00020, [(2, 0x8)],
    [fd 31 2 .rw 67108864]⟩,
  -- KEY_RST_VEC_HI
  ⟨0x1d00024, [(2, 0x8)],
    [fd 2 0 .rw 0]⟩,
  -- KEY_PAIR_RST
  ⟨0x1d00030, [],
    [fd 1 0 .wo 0]⟩,
  -- KEY_PAIR_STAT
  ⟨0x1d00040, [(2, 0x4)],
    [fd 31 16 .ro 0, fd 8 8 .ro 0, fd 3 0 .ro 0]⟩,
  -- KEY_DEV_RST
  ⟨0x1d00050, [],
    [fd 31 16 .wo 0]⟩,
  -- KEY_DEV_REQ
  ⟨0x1d00054, [],
    [fd 31 16 .wo 0]⟩]

end Sys2Proof.Machine
end

