-- ==== Sys2Proof/Machine/RegReset.lean ====
section
/-!
DEFINITION. Sys2Proof/Machine/RegReset.lean: finding the register at a Towpath offset, and the value it holds after reset
(R13). Reset values that depend on an index, and those the Reset column takes from a rule, are in `specialReset`.
-/

namespace Sys2Proof.Machine

/-- The indices that lead from a register's first offset to `off`, if any do. -/
def matchDims : List (Nat × Nat) → Nat → Option (List Nat)
  | [], off => if off = 0 then some [] else none
  | (cnt, stride) :: rest, off =>
    let i := off / stride
    if i < cnt then
      match matchDims rest (off - i * stride) with
      | some l => some (i :: l)
      | none => none
    else none

/-- The register line that covers `off`, with the indices. -/
def findIn : List RegDesc → Nat → Option (RegDesc × List Nat)
  | [], _ => none
  | d :: rest, off =>
    if d.base ≤ off then
      match matchDims d.dims (off - d.base) with
      | some l => some (d, l)
      | none => findIn rest off
    else findIn rest off

/-- The registers of the block that holds `off` (R30). -/
def blockRegs (off : Nat) : List RegDesc :=
  match off / 0x100000 with
  | 0x00 => regsSYS | 0x01 => regsTGT | 0x02 => regsCRN | 0x03 => regsSIG | 0x04 => regsMPO | 0x05 => regsTRN
  | 0x06 => regsSHL | 0x07 => regsBED | 0x08 => regsCAR | 0x09 => regsOBS | 0x0A => regsWAY | 0x0B => regsHP
  | 0x0C => regsHP | 0x0D => regsCSW | 0x0E => regsSTR
  | 0x10 => regsLD | 0x11 => regsLD | 0x12 => regsLD | 0x13 => regsLD | 0x14 => regsLD | 0x15 => regsLD
  | 0x16 => regsLD | 0x17 => regsLD
  | 0x18 => regsQRY | 0x19 => regsBAS | 0x1A => regsACT | 0x1B => regsMIL | 0x1C => regsBLS | 0x1D => regsKEY
  | _ => []

/-- The register at `off`, if one exists there (R30). -/
def findReg (off : Nat) : Option (RegDesc × List Nat) := findIn (blockRegs off) off

/-- The value in field `f` of a word. -/
def fget (w : Word) (f : Fld) : Nat := (w.toNat >>> f.lo) % 2 ^ (f.hi + 1 - f.lo)

/-- The word with field `f` set to the low bits of `v`. -/
def fset (w : Word) (f : Fld) (v : Nat) : Word :=
  word (w.toNat - (fget w f) * 2 ^ f.lo + (v % 2 ^ (f.hi + 1 - f.lo)) * 2 ^ f.lo)

/-- The word of the Reset column. -/
def tableReset (d : RegDesc) : Word :=
  word (d.fields.foldl (fun a f => a + f.rst * 2 ^ f.lo) 0)

/-- Tollgate sources that can be fatal (R441). -/
def fatalSources : List Nat := [0, 1, 7, 8, 14, 17, 19, 43, 44, 45, 46]

/-- TGT_SRC_CFG after reset: PIN for sources that can be fatal, NOTIFY but for 4, 9, 13 and 40 to 42. -/
def srcCfgReset (src : Nat) : Nat :=
  b2n (decide (src ∈ fatalSources)) * 8 + b2n (!decide (src ∈ [4, 9, 13, 40, 41, 42])) * 4

/-- REDUND and SURVEY_DAYS of the classes (R148). -/
def classReset : List (Nat × Nat) :=
  [(0, 365), (1, 180), (2, 180), (3, 90), (2, 365), (3, 365), (1, 30), (3, 30)]

/-- Target sets 0 to 7 (R191), taps g0 to g4. -/
def targetReset : List (List Nat) :=
  [[8, 14, 10, 3, 0], [8, 15, 11, 4, 0], [8, 16, 12, 5, 1], [8, 13, 13, 6, 1],
   [8, 12, 12, 8, 2], [8, 12, 14, 8, 3], [8, 10, 12, 10, 4], [8, 16, 16, 8, 2]]

/-- LDn_TGT_LO, or LDn_TGT_HI, of a set. -/
def targetWord (set : Nat) (hi : Bool) : Nat :=
  let g := fun j => (((targetReset[set]?).getD [])[j]?).getD 0
  if hi then g 4 else g 0 + 2 ^ 8 * g 1 + 2 ^ 16 * g 2 + 2 ^ 24 * g 3

/-- Slice registers: LDn_PRE, LDn_EQ, LDn_TGT and LDn_MS_RATE. -/
def sliceReset (o : Nat) : Option Nat :=
  if o = 0x68 ∨ o = 0x88 then some 0x100
  else if o = 0x11C then some 0x400
  else if 0x200 ≤ o ∧ o < 0x280 then some (targetWord ((o - 0x200) / 8) (o % 8 = 4))
  else if o = 0x808 then some 5200000
  else none

/-- The trigger of a loop slot at reset: PES, MOTOR, none or TICK0 (R261, R265). -/
def trigReset (l : Nat) : Nat :=
  if l < 8 then 1 else if l = 8 then 2 else if 16 ≤ l ∧ l < 48 then 3 else 0

/-- The outer loop and DIV of a loop slot at reset. -/
def outerReset (l : Nat) : Nat := if l = 8 then 9 else if 16 ≤ l ∧ l < 48 then l + 32 else 0xFF
def divReset (l : Nat) : Nat := if l = 8 then 39 else 0

/-- SRC and DST of a loop slot at reset (R261). -/
def srcDstReset (l : Nat) : Nat × Nat :=
  if l < 4 then (0x10 + l, 0x10 + l) else if l < 8 then (0x10 + (l - 4), 0x18 + (l - 4))
  else if l = 8 then (0x41, 0x40) else if l = 9 then (0x40, 0)
  else if 16 ≤ l ∧ l < 48 then (0x50 + (l - 16), 0x50 + (l - 16))
  else if 48 ≤ l then (0x20 + (l - 48), 0)
  else (0, 0)

/-- Basalt registers: BAS_TICK, BAS_LCFG, BAS_LIO and BAS_LLIM (R261, R302). -/
def basReset (o : Nat) : Option Nat :=
  if o = 0x04 then some 100
  else if o = 0x08 then some 1000
  else if 0x10000 ≤ o ∧ o < 0x11400 then
    let l := (o - 0x10000) / 0x40
    match o % 0x40 with
    | 0x00 => some (trigReset l * 2 ^ 16 + outerReset l * 2 ^ 8 + divReset l)
    | 0x04 => some ((srcDstReset l).1 * 2 ^ 24 + (srcDstReset l).2 * 2 ^ 16)
    | 0x10 => some (if l = 9 then 0x5B6DA493 else 0x7FFF8000)
    | _ => none
  else none

/-- The shares of the HBM request classes (R340). -/
def shareReset : List Nat := [64, 120, 40, 24, 48, 0]

/-- Reset values that depend on the index or come from a rule. SYS_RST_CAUSE is that of a power-on reset (R69). -/
def specialReset (off : Nat) : Option Nat :=
  let o := off % 0x100000
  match off / 0x100000 with
  | 0x00 => if o = 4 then some 1 else none
  | 0x01 => if 0x100 ≤ o ∧ o < 0x100 + 52 * 4 then some (srcCfgReset ((o - 0x100) / 4)) else none
  | 0x04 => if o < 0x800 ∧ o % 0x100 = 0xF0 then some 1 else none
  | 0x07 => if 0x40 ≤ o ∧ o < 0x58 then some ((shareReset[(o - 0x40) / 4]?).getD 0) else none
  | 0x0A => if 0x300 ≤ o ∧ o < 0x320 then
      some (((classReset[(o - 0x300) / 4]?).getD (0, 0)).1 * 2 ^ 16 + ((classReset[(o - 0x300) / 4]?).getD (0, 0)).2) else none
  | 0x0B => if o = 0x38 then some 1 else none
  | 0x0C => if o = 0x30 then some 3 else if o = 0x38 then some 4 else none
  | 0x19 => basReset o
  | 0x1B => if 0x1000 ≤ o ∧ o < 0x1800 then some (sineWord ((o - 0x1000) / 4)) else none
  | b => if 0x10 ≤ b ∧ b < 0x18 then sliceReset o else none

/-- The value of the register at `off` after reset; 0 where no register is. -/
def resetVal (off : Nat) : Word :=
  match specialReset off with
  | some v => word v
  | none =>
    match findReg off with
    | some (d, _) => tableReset d
    | none => 0

end Sys2Proof.Machine
end

