-- ==== Sys2Proof/Machine/Sparse.lean ====
section
/-!
DEFINITION. Sys2Proof/Machine/Sparse.lean: sparse data by key as a list in one canonical form: keys strictly rising. An
unlisted key holds a default that the user of the map names; writing the default removes the entry, so equal contents are
equal lists. Register values (State.regs), memory bytes and the small tables of the blocks are held this way.
-/

namespace Sys2Proof.Machine

/-- The entry at key `k`, if one is listed. -/
def spGet {α : Type} (m : List (Nat × α)) (k : Nat) : Option α :=
  match m with
  | [] => none
  | (a, v) :: t => if a = k then some v else spGet t k

/-- The map without key `k`. -/
def spErase {α : Type} (m : List (Nat × α)) (k : Nat) : List (Nat × α) :=
  m.filter (fun p => p.1 ≠ k)

/-- `k` put before the first larger key. -/
def spInsert {α : Type} (m : List (Nat × α)) (k : Nat) (v : α) : List (Nat × α) :=
  match m with
  | [] => [(k, v)]
  | (a, w) :: t => if k < a then (k, v) :: (a, w) :: t else (a, w) :: spInsert t k v

/-- `k` set to `v`, or unlisted when `v` is the default `d` of that key. -/
def spSet {α : Type} [DecidableEq α] (d : α) (m : List (Nat × α)) (k : Nat) (v : α) : List (Nat × α) :=
  if v = d then spErase m k else spInsert (spErase m k) k v

/-- The value at `k`, the default `d` where unlisted. -/
def spGetD {α : Type} (d : α) (m : List (Nat × α)) (k : Nat) : α := (spGet m k).getD d

/-- Keys strictly rising. -/
def spSorted {α : Type} (m : List (Nat × α)) : Bool :=
  match m with
  | [] => true
  | (a, _) :: t => (t.all fun p => decide (a < p.1)) && spSorted t

end Sys2Proof.Machine
end

