-- ==== Sys2Proof/Machine/TypesAxis.lean ====
section
/-!
DEFINITION. Sys2Proof/Machine/TypesAxis.lean: the state of Basalt, the actuator interfaces, Millstone and Ballast that no register
shows (chapters 10 to 13).
-/

namespace Sys2Proof.Machine

/-- The state of one Basalt loop (R262): biquad delays by stage, the last u, integrator, derivative filter, which limit the
last output met (1 HI, -1 LO, 0 none), an integrator write that waits, the trigger that waits (its order, and whether the
loop is due as an outer loop), the count of runs toward the outer loop, the set-point an outer loop has delivered, and the
number of the newest event value when it ran last (R263). -/
structure LoopState where
  x1 : List Int := []
  x2 : List Int := []
  y1 : List Int := []
  y2 : List Int := []
  u1 : Int := 0
  int : Int := 0
  df : Int := 0
  lastLim : Int := 0
  intWrite : Option Int := none
  waiting : Option Nat := none
  outerDue : Bool := false
  runs : Nat := 0
  spNext : Option Int := none
  seen : Nat := 0
deriving DecidableEq, Repr

/-- Basalt. `order` numbers the triggers. `stamp` numbers the event values delivered, and clearance and general inputs carry the number
of their latest one (R263); `settled` counts a heater loop's runs in band (R268); `spin` is the amplitude last delivered to Millstone. -/
structure BasState where
  loops : List (Nat × LoopState) := []
  order : Nat := 0
  stamp : Nat := 0
  clr : List (Nat × (Int × Nat)) := []
  gin : List (Nat × Nat) := []
  sensor : List (Nat × Int) := []
  current : Int := 0
  speed : Int := 0
  settled : List (Nat × Nat) := []
  spin : Int := 0
deriving DecidableEq, Repr

/-- A preamplifier frame (R290): priority class 1 to 5, read, address, data, and what it is for: the pair of a head select, the
head of a heater code. The two reads of an enumeration come behind them as class 6, `what` 0 for the ID and 1 for the mask (DESIGN
CHOICE: R290 lists no place for them). -/
structure PaFrame where
  prio : Nat
  read : Bool
  addr : Nat
  data : Nat
  what : Nat := 0
deriving DecidableEq, Repr

/-- One actuator interface (R279 to R296). REF and POS in 1/32,768 track, VREF and ACC in 1/65,536 track per sample. -/
structure ActState where
  pos : Int := 0
  ref : Int := 0
  /-- REF at the latest sample (R279). -/
  refPrev : Int := 0
  vref : Int := 0
  ff : Int := 0
  pes : Int := 0
  pesPrev : Int := 0
  /-- Consecutive valid samples with usable, consistent IDs. -/
  acq : Nat := 0
  /-- Consecutive samples in the settle band; samples spent in SETTLE; SETTLE_LATE has set in this settle. -/
  inBand : Nat := 0
  settleRun : Nat := 0
  late : Bool := false
  /-- The ID-derived position differed on the sample before (R279). -/
  idOff : Bool := false
  lastId : Option Nat := none
  /-- Invalid samples in a row that came with |VREF| at most one track per sample. -/
  slowInv : Nat := 0
  /-- Samples in a row on which every permit condition held (R287). -/
  permitRun : Nat := 0
  /-- The latest VCM command of the interface's own (R293). -/
  cmd : Int := 0
  /-- Velocities in a row, one every 8 µs, at which the actuator stood stalled on the ramp (R294, R321). -/
  stall : Nat := 0
  /-- The state FOLLOW has been reached since the last load (R296). -/
  followed : Bool := false
  frames : List PaFrame := []
  busy : Option PaFrame := none
  /-- An enumeration in progress: the ID and the head mask as far as they are read (R291). -/
  enum : Option (Option Nat × Option Nat) := none
  /-- PAa_FLT_N is low. -/
  flt : Bool := false
  /-- The timing reference of the latest position sample, in 1/64 bit of the channel clock; none where it was missing (R212). -/
  timing : Option Int := none
deriving DecidableEq, Repr

/-- Millstone (R298 to R315). Times are 10 ns ticks of SIG_MTIME. -/
structure MilState where
  theta : Nat := 0
  omega : Int := 0
  amp : Int := 0
  /-- Duties last sent. -/
  duty : List Nat := []
  brake : Bool := false
  /-- Ticks since the state was entered, and ticks in a row on which what the state waits for has held: a locked rotor in HFI, the speed in
  its band in RUN, below 1 % in STOPPING, no back-EMF in COAST (R303, R308, R311, R314). -/
  stay : Nat := 0
  calm : Nat := 0
  /-- The observer: modelled current in Q15 of 3.5 A and back-EMF in mV, each on the two axes (R309). -/
  ih : Int × Int := (0, 0)
  eh : Int × Int := (0, 0)
  /-- Phase of the injected voltage, 65,536 a cycle (R308). -/
  carrier : Nat := 0
  /-- Angle of the latest voltage or current vector, and whether the back-EMF has reached BEMF_MIN in this catch (R305, R306). -/
  vec : Option Nat := none
  bemf : Bool := false
  /-- Peak currents of the two polarity pulses (R307). -/
  peaks : Nat × Nat := (0, 0)
  /-- The sign of each phase's back-EMF, the latest three crossings with their ticks, newest first, and the speed at the loss (R312). -/
  signs : Option (List Bool) := none
  cross : List (Nat × Nat × Bool) := []
  lossRpm : Int := 0
  /-- Ramp reference on the scale of source 0x40, and its fraction in 1/(1,000,000 x TICK_KHZ). -/
  ramp : Int := 0
  rampFrac : Nat := 0
  /-- Signed speed in 0.01 rpm. -/
  rpmC : Int := 0
  unlock : Nat := 0
  resBad : Nat := 0
  /-- Electrical angle moved and |d| summed in the period in progress, with its ticks (R300, R309). -/
  moved : Int := 0
  resSum : Nat := 0
  ticks : Nat := 0
  retries : Nat := 0
  /-- A retry waits with the bridge tri-stated (R303). -/
  retryWait : Bool := false
  /-- Runs of slot 9 in a row with the error above 10 x TOL_PPM (R311). -/
  regBad : Nat := 0
  /-- When the latest rotor losses were declared (R312). -/
  losses : List Nat := []
  /-- STOPPING is in its second phase; the stop waits in COAST for SHORT_PCT (R303, R314). -/
  phase2 : Bool := false
  coastStop : Bool := false
  /-- Flying-limit speed is declared, or rotor loss holds PERMIT off (R286, R313). -/
  rotor : Bool := false
deriving DecidableEq, Repr

/-- Ballast (R316 to R334). -/
structure BlsState where
  /-- Rails 1 to 6 in regulation so far at this start-up. -/
  rails : Nat := 0
  mainUp : Bool := false
  selfTest : Bool := false
  /-- Bank voltage in mV, and whether a measurement has completed since device reset. -/
  measured : Bool := false
  /-- The charger runs, and since when; behind a hold-up it waits for Haven to settle (R323, R330). When the latest measurement began (R324). -/
  charging : Bool := false
  chargeAt : Nat := 0
  chargeWait : Bool := false
  measAt : Nat := 0
  /-- The charger has stopped on its time-out (R323). -/
  chargeFail : Bool := false
  /-- The vault cells, non-volatile (R331). -/
  armed : Bool := false
  done : Bool := false
  /-- BALLAST has set since the latest device reset, and the cells are erased (R331). -/
  erased : Bool := false
  /-- The SoC stands released from Ballast's power-on reset; a rail has failed, and Ballast holds it in reset (R317). -/
  released : Bool := false
  held : Bool := false
  /-- The preamplifier supplies that are up, by actuator, and those in regulation: PA_P[a] in bit a and PA_N[a] in bit 4 + a (R316). -/
  paRails : Nat := 0
  paOk : Nat := 0
  /-- When each stage last tripped, the latest first (R320). -/
  trips : List (Nat × List Nat) := []
  /-- Velocity of each VCM, Q15 (R321). -/
  vel : List (Nat × Int) := []
  /-- Until when a stage that has tripped stays off; the spindle's stays off until the next PWM period (R320). -/
  off : List (Nat × Nat) := []
  /-- The duties of the spindle bridge in this period, none while it is tri-stated, off, in brake mode or in retract (R298, R319, R320). -/
  bridge : List Nat := []
  /-- Where the retract bus last drew from: the bank, or the spindle (R333). -/
  retBus : Option Bool := none
  /-- Spindle phase limit in mA. -/
  phaseLimit : Nat := 3500
  /-- Flush contexts of R329 by actuator, in ADMIT order. -/
  flush : List (Nat × Nat) := []
  flushing : Bool := false
  stagesOff : Bool := false
deriving DecidableEq, Repr

end Sys2Proof.Machine
end

