-- ==== Sys2Proof/Machine/TypesBed.lean ====
section
/-!
DEFINITION. Sys2Proof/Machine/TypesBed.lean: the state of Bedrock and Shale that no register shows (chapter 14). The data of the
HBM stand in State.mem; here is what a granule carries beside them.
-/

namespace Sys2Proof.Machine

/-- A 64-byte granule beside its data: the valid bit V, and the difference between the codeword stored and the one of its data and V,
8 bits a symbol (R338, R343). -/
structure Gran where
  v : Bool := false
  err : Nat := 0
deriving DecidableEq, Repr

/-- A Shale line: its HBM line number (offset / 128), way, dirty state and 128 bytes (R351). -/
structure ShlLine where
  line : Nat
  way : Nat
  dirty : Bool := false
  data : Nat := 0
deriving DecidableEq, Repr

/-- A Shale operation in progress. -/
inductive ShlOp where
  | invRange (lo n : Nat)
  | invAll
  | fill (way lo n : Nat)
deriving DecidableEq, Repr

/-- An access held at the Bedrock crossing until BEDROCK sets (R337), or until a repair of its pseudo-channel ends (R346): a data
path's, a core's, or those of the bulk data port's operation. -/
inductive HeldHbm where
  | read (cls ofs upset : Nat) (array : Fin 4) (seg : Option Nat)
  | write (cls ofs len v : Nat) (seg : Option Nat)
  | core (h : Fin 4) (k : AccessKind) (n ofs v : Nat)
  | amo (h : Fin 4) (op : AmoOp) (n a v : Nat)
  | bdp
deriving DecidableEq, Repr

/-- A bulk data port operation in progress: write or read, granules. -/
structure BdpOp where
  write : Bool
  count : Nat
deriving DecidableEq, Repr

/-- A repair in progress: hard or soft, log entry. -/
structure PprOp where
  hard : Bool
  entry : Nat
deriving DecidableEq, Repr

/-- Bedrock and Shale. -/
structure BedState where
  gran : List (Nat × Gran) := []
  /-- Claimed 64 KiB blocks (R339). -/
  claims : List Nat := []
  held : List HeldHbm := []
  /-- Bytes served per class in the window in progress (R340). -/
  served : List (Nat × Nat) := []
  refreshes : Nat := 0
  ppr : Option PprOp := none
  /-- Rows that a soft repair holds (R347). -/
  soft : List (Nat × Nat × Nat) := []
  /-- Bulk data port: operation, staged or buffered words, next word to read (R348). -/
  bdp : Option BdpOp := none
  bdpBuf : List Word := []
  bdpStage : List Word := []
  /-- Tumbler: a lap runs, its next granule, the tick it began at. -/
  lapOn : Bool := true
  scrub : Nat := 0
  lapStart : Nat := 0
  /-- SRAM scrubber: granules read in this lap, the tick the lap began at. -/
  ssCount : Nat := 0
  ssStart : Nat := 0
  lines : List ShlLine := []
  shlOp : Option ShlOp := none
deriving DecidableEq, Repr

end Sys2Proof.Machine
end

