-- ==== Sys2Proof/Machine/TypesCar.lean ====
section
/-!
DEFINITION. Sys2Proof/Machine/TypesCar.lean: the state of Carriage that no register shows (chapter 17).
-/

namespace Sys2Proof.Machine

/-- The first error of a transfer in transfer order (R412): its byte offset, IOVA, direction and ERR_KIND. -/
structure CarErr where
  off : Nat
  iova : Nat
  write : Bool
  kind : Nat
deriving DecidableEq, Repr

/-- A destination beat that was issued: its offset in transfer order, physical address and data. -/
structure CarBeat where
  off : Nat
  phys : Nat
  data : Nat
deriving DecidableEq, Repr

/-- A channel's transfer (R405 to R413). Offsets count bytes in transfer order. -/
structure CarChan where
  /-- A descriptor was accepted and its accesses have not all ended. -/
  active : Bool := false
  down : Bool := false
  src : Nat := 0
  dst : Nat := 0
  count : Nat := 0
  sb : Nat := 1
  db : Nat := 1
  burst : Nat := 1
  swap : Nat := 0
  /-- Bytes asked for by granted bursts, and the read beats that have not responded, oldest first. -/
  asked : Nat := 0
  reads : List Nat := []
  /-- The holding register: bytes in it, and how many. -/
  hold : Nat := 0
  held : Nat := 0
  /-- Destination bytes issued, the beats that have not responded, and the bytes returned OK. -/
  issued : Nat := 0
  writes : List CarBeat := []
  good : Nat := 0
  err : Option CarErr := none
  /-- EN was written 0 while BUSY (R413). -/
  disabled : Bool := false
deriving DecidableEq, Repr

/-- Carriage: its channels, the channel last served at each PRIO, FILL of the segments in bytes, and the bytes that stand in the
segments, oldest first. -/
structure CarState where
  ch : List CarChan := List.replicate 32 {}
  served : List Nat := List.replicate 4 31
  fill : List (Nat × Nat) := []
  bytes : List (Nat × List Nat) := []
deriving DecidableEq, Repr

end Sys2Proof.Machine
end

