-- ==== Sys2Proof/Machine/TypesWay.lean ====
section
/-!
DEFINITION. Sys2Proof/Machine/TypesWay.lean: the state of Waymark (chapter 06), of the media it places sectors on, and of the
Touchstone copies (R224 to R230) that no register shows.
-/

namespace Sys2Proof.Machine

/-- A sector as it stands on media: its metadata (R164) and its 4,096 user bytes, little-endian in `data`. -/
structure Sector where
  tenant : Nat := 0
  kind : Nat := 0
  cls : Nat := 0
  wseq : Nat := 0
  id : Nat := 0
  offset : Nat := 0
  data : Nat := 0
deriving DecidableEq, Repr

/-- The key of a mapping (R167): tenant, kind (0 block, 1 object), LBA or object identifier, granule offset. -/
structure Key where
  tenant : Nat
  kind : Nat
  id : Nat
  offset : Nat
deriving DecidableEq, Repr

/-- The states of R147; the STATE byte of the band table takes them in this order. -/
inductive BandSt where
  | free
  | opened
  | full
  | cleaning
  | map
  | landing
  | retired
deriving DecidableEq, Repr

/-- A band (R145 to R147, R160). `wp` counts its places written; `next` is where the next placement goes, behind those that placed runs
and copies have still to write. -/
structure Band where
  st : BandSt := .free
  group : Nat := 0
  member : Nat := 0
  wp : Nat := 0
  next : Nat := 0
  last : Nat := 0
  cls : Nat := 0
  /-- It has completed a survey since it became OPEN (R163). -/
  surveyed : Bool := false
deriving DecidableEq, Repr

/-- A group (R149): its class and redundancy, its member bands (data first, then parity or the copy; none where missing), its
rows, and PARITY_ROWS: how many rows, from row 0 on, have their parity or copy on media (R146, R167). -/
structure Group where
  cls : Nat
  redund : Nat
  members : List (Option Nat)
  rows : Nat
  parityRows : Nat := 0
  st : BandSt := .opened
  /-- Members lost with a unit, by their number in the group (R172, R174). -/
  gone : List Nat := []
  /-- Opened with FREE bands below FLOOR: it takes cleaning copies only (R158). -/
  clean : Bool := false
  /-- A LANDING band that the vault flush filled: 1 until the next load, 2 while its contents are to be re-placed (R159); else 0. -/
  landing : Nat := 0
deriving DecidableEq, Repr

/-- What a claimed sector outside host runs is to hold: PAD; a copy of a key's sector, by the place it is mapped to; a granule that an
importer has received (R158, R174, R434). -/
inductive LateSrc where
  | pad
  | copy (key : Key) (src : Nat)
  | data (key : Key) (d : Nat)
deriving DecidableEq, Repr

/-- A sector placed that its band's write pointer has not yet reached: band, place in it, class, and what it is to hold (R146). -/
structure Late where
  band : Nat
  row : Nat
  cls : Nat
  what : LateSrc
deriving DecidableEq, Repr

/-- An object as a checkpoint holds it (R167), with the granules a close has cut (R128). -/
structure CkptObj where
  tenant : Nat
  id : Nat
  length : Nat
  cls : Nat
  sealed : Bool
  created : Nat
  cut : List (Nat × Nat)
deriving DecidableEq, Repr

/-- A checkpoint as it stands on media (R167, R168). -/
structure Ckpt where
  seq : Nat
  wseq : Nat
  map : List (Key × Nat)
  bands : List (Nat × Band)
  groups : List (Nat × Group)
  units : List Word
  classes : List Word
  /-- Tenant by tenant: index, WAY_TEN_CFG, ALLOW, USE. -/
  tenants : List (Nat × Word × Nat × Nat)
  objects : List CkptObj
  band1 : Nat
  band2 : Nat
  end1 : Nat
  end2 : Nat
deriving DecidableEq, Repr

/-- A unit operation in progress (R172 to R177): kind 0 slice, 1 head, 2 actuator. -/
structure UnitOp where
  bringIn : Bool
  forced : Bool
  kind : Nat
  unit : Nat
deriving DecidableEq, Repr

/-- An entry of a surface's defect list (R221, R223): a SKIP, or a WINDOW by its first sector bit position and its length. -/
structure Defect where
  surf : Nat
  track : Nat
  skip : Bool
  sector : Nat
  start : Nat := 0
  len : Nat := 0
deriving DecidableEq, Repr

/-- Waymark and the media. -/
structure WayState where
  /-- The defect lists on the system tracks (R221, R223). -/
  defects : List Defect := []
  /-- The system sectors on media by SSA: their metadata and user bytes (R223, R224, R459). -/
  sys : List (Nat × Nat × Nat) := []
  /-- The sectors on media by PSA. Media outlives every reset. -/
  media : List (Nat × Sector) := []
  /-- What redundancy gives back of members lost with a unit, by `goneKey`: the sectors they held (R174). -/
  gone : List (Nat × Sector) := []
  /-- Copies, received granules and PAD sectors placed and not yet written, oldest first (R146). -/
  late : List Late := []
  /-- Sectors that a survey's ladder could not recover, by PSA (R257). -/
  found : List Nat := []
  bands : List (Nat × Band) := []
  groups : List (Nat × Group) := []
  nextGroup : Nat := 0
  map : List (Key × Nat) := []
  /-- Sectors known lost (R161, R175): the mapping is kept and reads fail. -/
  lost : List Key := []
  /-- Placements of discarded writes whose item a write sequencer has still to pop: context, PLACE, sectors (R392). -/
  orphans : List (Nat × Nat × Nat) := []
  /-- The unit states that survive a device reset (R172), between it and the load. -/
  unitSaved : Option (List Word) := none
  /-- A drain that Haven has suspended waits for the re-entry to Service (R176). -/
  drainHeld : Bool := false
  /-- SURVEY_DAYS of each class as the latest scheduling pass took them (R148). -/
  days : List Nat := []
  wseq : Nat := 1
  /-- PENDING of R154, actuator by actuator, in sectors. -/
  pend : List (Nat × Nat) := []
  /-- Completed checkpoints, newest first. -/
  ckpts : List Ckpt := []
  /-- The checkpoint being written, with its two bands; and one more requested (R168). -/
  ckptRun : Option (Nat × Nat) := none
  ckptReq : Bool := false
  /-- GO was written while a checkpoint ran: it stays set until the next one completes. -/
  goNext : Bool := false
  ckptSeq : Nat := 0
  opened : Nat := 0
  /-- The tenant whose purge waits for a completed checkpoint (R171). -/
  purge : Option Nat := none
  surveys : List Nat := []
  /-- Surveys of this Dormant wake have stopped (WAKE_MAX, R162). -/
  wakeOver : Bool := false
  unitOp : Option UnitOp := none
  /-- The tables are loaded and replay runs (R170). -/
  loaded : Bool := false
  /-- Replay has ended since the last device reset. -/
  replayed : Bool := false
  /-- Touchstone copies by 2 x surface + copy, each the cells on its tracks from the index to where the gate closed (R225, R226), none
where spoiled or never written; the next RSEQ; and the rewrites still to do, by the same number. -/
  touch : List (Nat × List (List Bool)) := []
  rseq : Nat := 1
  touchQ : List Nat := []
deriving DecidableEq, Repr

end Sys2Proof.Machine
end

