-- ==== Sys2Proof/Machine/TypesCsw.lean ====
section
/-!
DEFINITION. Sys2Proof/Machine/TypesCsw.lean: the state of Causeway that no register shows (chapter 19).
-/

namespace Sys2Proof.Machine

/-- A sequenced frame (R428, R429): number, type and the payload's fields in order, each with its width in bytes. -/
structure CswFrame where
  seq : Nat
  typ : Nat
  data : List (Nat × Nat)
deriving DecidableEq, Repr

/-- An item in flight (R432 to R435): what ITEM_BEGIN carries, the granule offsets still to send, the bytes its digest covers so
far, its resends and its context; on the importer the granules placed, and what ITEM_END gave. -/
structure CswItem where
  key : Key
  length : Nat
  cls : Nat
  st : Nat
  created : Nat
  grans : List Nat := []
  todo : List Nat := []
  dig : Nat := 0
  digLen : Nat := 0
  tries : Nat := 0
  ctx : Nat := 0
  ended : Option (Nat × Nat) := none
deriving DecidableEq, Repr

/-- Causeway. -/
structure CswState where
  /-- ALIGN counters last received, lane by lane, and last sent (R427). -/
  align : List (Option Nat) := [none, none]
  alignTx : Nat := 0
  /-- A valid HELLO has been received (R431). -/
  seen : Bool := false
  /-- Next expected SEQ, a gap reported with NAK, next SEQ to send (R430). -/
  rxNext : Nat := 0
  gap : Bool := false
  txNext : Nat := 0
  /-- Frames sent and unacknowledged, oldest first; frames that wait for WINDOW or CREDIT; CREDIT. -/
  held : List CswFrame := []
  queue : List CswFrame := []
  credit : Nat := 0
  /-- The exporter: the last item started, the tenant announced, the item being sent, items to send again, items that await
  VERIFIED, and the counts of END. -/
  cursor : Option Key := none
  tenant : Nat := 0
  sending : Option CswItem := none
  redo : List CswItem := []
  wait : List CswItem := []
  sent : Nat := 0
  skipped : Nat := 0
  /-- Items verified or aborted above the resume point (R436). -/
  done : List Key := []
  /-- The importer: items in flight, items that failed and are to come again, the one being received, the session's tenants, tenants
  of another VIEW (R434). -/
  rx : List CswItem := []
  failed : List Key := []
  cur : Option Key := none
  tenants : Nat := 0
  conflict : List Nat := []
  /-- The history stream received so far (R440). -/
  hist : Nat := 0
  histLen : Nat := 0
deriving DecidableEq, Repr

end Sys2Proof.Machine
end

