-- ==== Sys2Proof/Machine/TypesHost.lean ====
section
/-!
DEFINITION. Sys2Proof/Machine/TypesHost.lean: the state of the host ports, the sideband, the command contexts, the tenants and
the object view (chapters 04 and 05) that no register shows.
-/

namespace Sys2Proof.Machine

/-- The link states of R88. -/
inductive LinkState where
  | disabled
  | training
  | up
deriving DecidableEq, Repr

/-- An NVMe completion queue: vector and whether interrupts are enabled (R107). -/
structure CplQueue where
  size : Nat
  vector : Nat
  ien : Bool
  head : Nat := 0
deriving DecidableEq, Repr

/-- An NVMe submission queue: its completion queue, doorbell tail and fetch head. -/
structure SubQueue where
  size : Nat
  cq : Nat
  tail : Nat := 0
  head : Nat := 0
deriving DecidableEq, Repr

/-- What one port group holds beside its registers (chapter 04). -/
structure HostGroup where
  link : LinkState := .disabled
  /-- Committed content of the shadow file that differs from its reset content, by word (R108, R109). -/
  shadow : List (Nat × Word) := []
  staged : List (Nat × Word) := []
  commitPending : Bool := false
  cqs : List (Nat × CplQueue) := []
  sqs : List (Nat × SubQueue) := []
  /-- The group has stopped fetching for want of a context (R91). -/
  stalled : Bool := false
  /-- It has resumed and the held entry has yet to be fetched. -/
  resumed : Bool := false
  /-- The submission queue fetched from last (R91). -/
  lastSq : Nat := 0
  /-- Contexts of Asynchronous Event Requests that wait. -/
  asyncReqs : List Nat := []
  features : List (Nat × Nat) := []
  modePages : List (Nat × Nat) := []
  sense : Nat := 0
  /-- The target device name, SAS address index 2, whose offset HPx_CTX_MIN takes. -/
  targetName : Nat := 2
deriving DecidableEq, Repr

/-- The sideband beside its registers (R110 to R116). -/
structure SidebandState where
  pointer : Nat := 0
  hjAllowed : Bool := true
  ibiAllowed : Bool := true
  attempts : Nat := 0
deriving DecidableEq, Repr

/-- A command context: the fields of R132, in their order. -/
structure Ctx where
  state : Nat := 0
  origin : Nat := 0
  tenant : Nat := 0
  queue : Nat := 0
  tag : Nat := 0
  opcode : Nat := 0
  proto : Nat := 0
  flags : Nat := 0
  link : Nat := 0
  target : Nat := 0
  granOfs : Nat := 0
  granCnt : Nat := 0
  dptr : Nat := 0
  staging : Nat := 0
  rsvGran : Nat := 0
  cls : Nat := 0
  byte45 : Nat := 0
  keySlot : Nat := 0
  place : Nat := 0
  admitAt : Nat := 0
  status : Nat := 0
  retry : Nat := 0
  fw : Nat := 0
deriving DecidableEq, Repr

/-- What the device knows of a command beside its context: its write data in staging, whether a run has begun, whether it
was discarded (R82, R104), and the object it is for. -/
structure Work where
  data : Nat := 0
  /-- Order of arrival, and the SAS task attribute (R92, R139). -/
  seq : Nat := 0
  attr : TaskAttr := .simple
  /-- P1 and FLG of an object command (R127), and whether a field it does not use was not zero. -/
  p1 : Nat := 0
  flg : Nat := 0
  /-- An admitted write. -/
  write : Bool := false
  /-- The command was admitted (R141). -/
  admitted : Bool := false
  begun : Bool := false
  /-- Waymark has placed the write (R155). -/
  placed : Bool := false
  /-- The next placement replaces an earlier one (R156). -/
  replaced : Bool := false
  /-- Granules of it, by index, that a removal or a later write has superseded (R101, R121, R139). -/
  dead : List Nat := []
  discarded : Bool := false
  /-- A read taken before a removal keeps the data it saw (R139). -/
  snapshot : List Nat := []
  /-- Bytes that drive firmware gives the host from STAGING, of a command passed to it (R92). -/
  want : Nat := 0
  /-- Granules, by index, that the admission of the write reserved (R141, R142). -/
  reserved : List Nat := []
deriving DecidableEq, Repr

/-- An object (R123, R124). -/
structure Obj where
  tenant : Nat
  id : Nat
  length : Nat := 0
  /-- One more than the highest granule written. -/
  high : Nat := 0
  cls : Nat := 0
  stream : Option Nat := none
  sealed : Bool := false
  created : Nat := 0
  /-- The OBJ_CLOSE that has been admitted and waits: its context, and the order of arrival at its admission (R138, R139). -/
  closing : Option (Nat × Nat) := none
  /-- Granules that a close has cut, with the bytes of them that count; what is behind reads zero until they are written again (R128). -/
  cut : List (Nat × Nat) := []
deriving DecidableEq, Repr

/-- A tenant's single reservation state (R102): registrants with keys, the holder and its kind. -/
structure Reservation where
  registrants : List (Nat × Nat) := []
  holder : Option Nat := none
  kind : Nat := 0
deriving DecidableEq, Repr

/-- Contexts, tenants and objects beside the registers (chapter 05). -/
structure CmdState where
  /-- Contexts by index; unlisted: every byte zero, FREE. -/
  ctxs : List (Nat × Ctx) := []
  work : List (Nat × Work) := []
  portQ : List Nat := []
  mediaQ : List Nat := []
  /-- Allowance in force, tenant by tenant (t - 1), in granules. -/
  allow : List (Nat × Nat) := []
  /-- Capacity drive firmware has set, tenant by tenant (t - 1), in sectors. -/
  capacity : List (Nat × Nat) := []
  reservations : List (Nat × Reservation) := []
  objects : List Obj := []
  /-- Acknowledged staged data, in granules (R136). -/
  acked : Nat := 0
  /-- The vault allowance in force, in bytes (R325). -/
  vaultBytes : Nat := 0
  /-- Who took the last context that others compete for: 0 group A, 1 group B, 2 firmware (R99). -/
  turn : Nat := 2
deriving DecidableEq, Repr

end Sys2Proof.Machine
end

