-- ==== Sys2Proof/Machine/TypesLode.lean ====
section
/-!
DEFINITION. Sys2Proof/Machine/TypesLode.lean: the state of the slices, the write channels, the framer, the sample ring and Quarry
that no register shows (chapters 07 to 09).
-/

namespace Sys2Proof.Machine

/-- One clock of the detector's output in the line buffer (R189, R193, R194): eight LLRs, their erasure flags (bit k for the k-th),
and whether they are valid. -/
structure LlrClock where
  llr : List Int := []
  erase : Nat := 0
  valid : Bool := true
deriving DecidableEq, Repr

/-- The TA detector of one reader (R186): its baseline in 2^-20 LSB, the clocks in a row it has been above THR and below THR ÷ 2,
and whether an event runs on it. -/
structure TaReader where
  base : Int := 0
  hi : Nat := 0
  lo : Nat := 0
  on : Bool := false
deriving DecidableEq, Repr

/-- A survivor path of the detector (R192): its metric in 2^-32, its latest 17 bits, newest lowest, the least metric difference by which
each of them was chosen over its opposite, newest first (R193), and its latest three noise values in 2^-10, newest first. -/
structure Survivor where
  metric : Int := 0
  bits : Nat := 0
  rel : List Nat := []
  noise : List Int := []
deriving DecidableEq, Repr

/-- The Touchstone format as a slice reads it (R220, R225, R226): the present polarity and its channel bits so far, whether half a data bit
with a 1 has passed, the latest 32 data bits, those of the frame behind its sync, newest first, and the bytes for STRn, oldest
first. -/
structure TsRead where
  level : Bool := false
  run : Nat := 0
  half : Bool := false
  word : Nat := 0
  body : Option (List Bool) := none
  out : List Nat := []
deriving DecidableEq, Repr

/-- One slice (R178 to R197). Histories hold the newest value last. Of the line buffer (R189) the 64 KiB of working tables are not held:
the spec says nothing of what stands in them, and nothing it describes reads them (DESIGN CHOICE). -/
structure SliceState where
  /-- Offset- and asymmetry-corrected samples of readers A and B: the last ten of each (R183). -/
  vA : List Int := []
  vB : List Int := []
  /-- Reader B before the servo-band reject filter. -/
  servoB : List Int := []
  /-- The samples that the servo demodulator has taken since the latest position sample, newest first (R275, R277). -/
  frame : List Int := []
  /-- Samples that have entered the back end, readers A and B, the last 40 of each; the four states of each, of the last 32;
  and its tentative decisions and noise (R190, R192), the latter in 1/1,024. -/
  zA : List Int := []
  zB : List Int := []
  seen : List Nat := []
  dec : List Int := []
  noise : List Int := []
  /-- The sixteen survivors. -/
  det : List Survivor := List.replicate 16 {}
  /-- The line buffer (R189): ring records of the latest 65,536 clocks, and the LLRs of the latest 32,768, newest first. -/
  line : List Nat := []
  llr : List LlrClock := []
  /-- Slice clocks for which the front-end loops, and EQ and NP adaptation, stay frozen after their last source (R184). -/
  tail : Nat := 0
  tailB : Nat := 0
  /-- The TA detector, reader A and reader B. -/
  ta : List TaReader := [{}, {}]
  /-- Slice clocks counted, and the clocks of LDn_SEL writes, SOURCE changes and losses of lock, newest first (R219). -/
  now : Nat := 0
  upsets : List Nat := []
  /-- Active defect windows as they stood before each change, with its clock, newest first (R222): sector, start, length. -/
  windows : List (Nat × List (Nat × Nat × Nat)) := []
  /-- The latest sum of the data-aided phase loop's te (R212). -/
  te : Int := 0
  /-- Back-end output still invalid after a SOURCE change, in slice clocks (R194). -/
  warm : Nat := 0
  /-- A replay runs; states recorded with the replayed samples (R185). -/
  playing : Bool := false
  states : List Nat := []
  /-- The four states of each sample of the clock before, and the marks that wait for the record of the first samples behind their event,
  kind and ARG: `due` at the next record, `soon` at the one after it (R185, R249). -/
  last : List Nat := []
  due : List (Nat × Nat) := []
  soon : List (Nat × Nat) := []
  /-- Where the slice's clock stands on the track: the sample, counted from 8 × `now`, at bit 0 of a revolution, and the bits of a
  revolution (R205). -/
  place : Option (Int × Nat) := none
  /-- The Touchstone format as it is read (R220). -/
  ts : TsRead := {}
  /-- A re-frame waits: sector, base, relax, shift (R220). -/
  reframe : Option (Nat × Nat × Bool × Int) := none
  /-- A mark search: the sector sought (R253). -/
  find : Option Nat := none
  /-- Amplitudes of the latest clocks on the reader of the clearance measurement, newest first, in 2^-24 LSB, with whether DEFECT or
  TA stood; the preambles of the average in progress, and the sums of their amplitudes (R196). -/
  amps : List (Nat × Nat × Bool) := []
  clr : Nat := 0
  clrSum : Nat × Nat := (0, 0)
deriving DecidableEq, Repr

/-- One Milestone: reference samples in a row that were within LOCK_TH (R214). -/
structure MsState where
  good : Nat := 0
  /-- Phase that a slice's data-aided loop has added, in 1/64 bit (R212). -/
  fine : Int := 0
  /-- The channel rate of a write channel in kHz; a slice's stands in LDn_MS_RATE (R213). -/
  rate : Nat := 0
deriving DecidableEq, Repr

/-- One subring (R246 to R250): clocks written (CLK is their number modulo 2^48), marks written, the states last marked, clock spans not
held, and what the last SELECT and LOCK marks that have been overwritten said. -/
structure Subring where
  clk : Nat := 0
  marks : Nat := 0
  states : Nat := 0
  gaps : List (Nat × Nat) := []
  sel : Option Nat := none
  lock : Nat := 0
deriving DecidableEq, Repr

/-- The part of a run that lies on the track under the write head (R205, R207): the track, its next sector bit, how many are still to come, the
track bit behind the latest one written, and the context with the sectors of its run that are through the channel behind this part. -/
structure WcRun where
  geo : TrackGeo
  next : Nat
  left : Nat
  edge : Nat
  key : Nat × Nat
deriving DecidableEq, Repr

/-- One write channel (R198 to R202). -/
structure WcState where
  /-- A gate request waits for HEAT_READY. -/
  waiting : Bool := false
  /-- The run was abandoned by the channel (R201, R202), and the sequencer has still to abandon its routine. -/
  abandon : Bool := false
  /-- The precompensation profile taken when ACTa_WC_SEL was written (R198). -/
  prof : Option Word := none
  /-- Channel bits written since the gate opened, the last one, and the place of the last transition (R199). -/
  pos : Nat := 0
  level : Option Bool := none
  last : Option Nat := none
  /-- The part of the run in progress, and how far the run of a context has come. -/
  run : Option WcRun := none
  sent : Option (Nat × Nat) := none
deriving DecidableEq, Repr

/-- Marks last found for a sector, as offsets from nominal (R220). -/
structure SectorMarks where
  sm1 : Option Int := none
  sm2 : Option Int := none
deriving DecidableEq, Repr

/-- Chapters 07 and 08. -/
structure LodeState where
  slices : List SliceState := List.replicate 8 {}
  ms : List MsState := List.replicate 12 {}
  subs : List Subring := List.replicate 8 {}
  wc : List WcState := List.replicate 4 {}
  /-- By actuator, track and sector. -/
  marks : List (Nat × SectorMarks) := []
deriving DecidableEq, Repr

/-- A decode descriptor (R241). -/
structure Desc where
  dst : Nat
  psa : Nat
  sys : Bool
  sector : Nat
  cls : Nat
  et : Nat
  iter : Nat
deriving DecidableEq, Repr

/-- A completion (QRY_CPL_A, QRY_CPL_B). -/
structure Cpl where
  status : Nat
  iter : Nat := 0
  sector : Nat
  frame : Nat := 0
  unsat : Nat := 0
  flips : Nat := 0
deriving DecidableEq, Repr

/-- A descriptor on its way: queued, bound to slot `id`, or complete, with the slot it holds, and waiting to be posted (R242, R243). -/
inductive DescSt where
  | queued
  | bound (id : Nat)
  | done (c : Cpl) (slot : Option Nat) (anchor : Int)
deriving DecidableEq, Repr

/-- A sector in an input slot (R237, R238): slice, descriptor, framer result, code set, order of anchoring, the LLRs of its
codeword from the anchor on with their erasure flags (R218), the engine that decodes it; `dropped` once its descriptor was
discarded (R244). -/
structure Slot where
  id : Nat
  slice : Nat
  desc : Desc
  frame : Nat
  codeSet : Nat
  llr : List Int := []
  erase : List Bool := []
  anchor : Int := 0
  engine : Option Nat := none
  dropped : Bool := false
deriving DecidableEq, Repr

/-- A sector that was not OK (R254): its descriptor, the Quarry status, the framer result and anchor, and whether it was decoded. -/
structure BadSector where
  desc : Desc
  status : Nat
  frame : Nat
  anchor : Int := 0
deriving DecidableEq, Repr

/-- One attempt of the retry ladder on the replayed samples (R254, R255): the re-frame's BASE, RELAX and SHIFT, whether SM_THR and
SM_RLX stand at 0, the target set that replaces EQ_SET, and ET. -/
structure Attempt where
  base : Nat := 0
  relax : Bool := false
  shift : Int := 0
  zero : Bool := false
  eq : Option Nat := none
  et : Nat := 0
deriving DecidableEq, Repr

/-- What a ladder waits for. -/
inductive LadderWait where
  | frame
  | decode
  | live
deriving DecidableEq, Repr

/-- A retry ladder in progress (R254 to R256). -/
structure Ladder where
  ctx : Nat
  bad : BadSector
  /-- The replaying slice. -/
  slice : Nat
  step : Nat
  wait : LadderWait := .frame
  /-- The attempts of the step, the present one first. -/
  todo : List Attempt := []
  found : Bool := false
  /-- Anchors already decoded for the sector. -/
  anchors : List Int := []
  tries : Nat := 0
  revs : Nat := 0
  /-- SM_THR and SM_RLX of the replaying slice, while they stand at 0. -/
  saved : Option (Nat × Nat) := none
deriving DecidableEq, Repr

/-- Quarry (chapter 09). -/
structure QryState where
  /-- The sectors of each slice's completions that were not OK and that no ladder has taken, oldest first. -/
  bad : List (List BadSector) := List.replicate 8 []
  ents : List (List (Desc × DescSt)) := List.replicate 8 []
  cpls : List (List Cpl) := List.replicate 8 []
  slots : List Slot := []
  nextSlot : Nat := 0
deriving DecidableEq, Repr

end Sys2Proof.Machine
end

