-- ==== Sys2Proof/Machine/TypesObs.lean ====
section
/-!
DEFINITION. Sys2Proof/Machine/TypesObs.lean: the state of Obsidian that no register shows (chapter 18).
-/

namespace Sys2Proof.Machine

/-- A raw block request (R417, R424): port, slot, key, direction, block, destination (0 OUT, 1 AU, 2 TAG) and unit. -/
structure RawReq where
  port : Nat
  slot : Nat
  half : Bool
  dir : Bool
  block : Nat
  dest : Nat
  au : Nat
  key : Nat := 0
deriving DecidableEq, Repr

/-- A key command that waits (R421): the slot, and the 512 bits of a LOAD (K1 in the low half); none for ZERO. -/
structure KeyCmd where
  slot : Nat
  load : Option Nat
deriving DecidableEq, Repr

/-- An authenticated unit (R425): the quarantine buffer, 16 bytes a block from the low end; the computed tag; AU_TAG; the next
word that AU_DATA returns; the TLEN of a COMPARE that waits. -/
structure AuUnit where
  data : Nat := 0
  tag : Nat := 0
  expected : Nat := 0
  pos : Nat := 0
  compare : Option Nat := none
deriving DecidableEq, Repr

/-- Obsidian. -/
structure ObsState where
  /-- Keys by slot; unlisted zero. -/
  keys : List (Nat × Nat) := []
  /-- Staged key words, first first; OBS_KEY_STAT counts them. -/
  staged : List Word := []
  cmds : List KeyCmd := []
  /-- Requests that arrived during a key command on their slot (R421). -/
  held : List RawReq := []
  /-- Raw requests at the scheduler, oldest first. -/
  waiting : List RawReq := []
  cores : List (Option RawReq) := List.replicate 16 none
  /-- The port that round-robin served last (R417). -/
  rr : Nat := 13
  units : List AuUnit := List.replicate 4 {}
deriving DecidableEq, Repr

end Sys2Proof.Machine
end

