-- ==== Sys2Proof/Machine/TypesOut.lean ====
section
/-!
DEFINITION. Sys2Proof/Machine/TypesOut.lean: what the part gives to parties outside it, as plain data. State.out lists it,
latest first.
-/

namespace Sys2Proof.Machine

/-- Something the part does to the outside. -/
inductive Out where
  /-- A Flagstone or Keystone core takes an access exception: RISC-V cause and address (R29, R365, R481). -/
  | coreException (c : Core) (cause addr : Nat)
  /-- A crossing delivers a request (R22) or answers a register request itself as nonexistent (R23). -/
  | crossing (dst : Island) (tag : Nat) (answered : Bool)
  /-- The error response to the write of MPO_TX by side `side` of mailbox `m`, whose queue is full (R15, R25). -/
  | busError (m side : Nat)
  /-- A host group answers: status word of the protocol, and data words. -/
  | host (g : Nat) (tag : Nat) (status : Nat) (data : List Nat)
  /-- The group sends an MSI-X message: vector, and the address and data of its table entry (R107). -/
  | msix (g vector addr data : Nat)
  /-- The sideband answers: acknowledged, and the bytes it returns. -/
  | sideband (ack : Bool) (data : List Nat)
  /-- The sideband drives the I3C bus on its own: 0 hot-join, 1 in-band interrupt (R112, R113). -/
  | i3c (kind : Nat)
  /-- A Causeway frame or control block is sent: type, fields. -/
  | causeway (kind : Nat) (data : List Nat)
  /-- Channel bits are written to a track of a surface at a rate in kHz: each span for which the gate is open, from its first track bit on
(R205, R207, R225). System tracks, outward of data track 0, count downwards from -1. -/
  | written (surf kHz : Nat) (track : Int) (spans : List (Nat × List Bool))
  /-- A preamplifier frame is sent: actuator, write flag, address, data (R290). -/
  | preamp (a : Nat) (write : Bool) (addr data : Nat)
  /-- A drive command over the Ballast link: actuator, stage, value (R37). -/
  | drive (a stage : Nat) (value : Int)
  /-- Emergency retract drives the VCM of actuator `a` at a current in Q15 of 1.8 A, inward positive, for a time in ms (R333). -/
  | retract (a : Nat) (current : Int) (ms : Nat)
  /-- The retract bus draws from the bank, or from the spindle through its bridge (R333). -/
  | retractBus (bank : Bool)
  /-- The charger runs at a current in mA to a voltage in mV, or stops at 0 (R323). -/
  | charger (ma mv : Nat)
  /-- A command of one SoC block to another unit of the part: unit code and arguments. -/
  | signal (unit : Nat) (data : List Nat)
deriving DecidableEq, Repr

end Sys2Proof.Machine
end

