-- ==== Sys2Proof/Machine/TypesPair.lean ====
section
/-!
DEFINITION. Sys2Proof/Machine/TypesPair.lean: the state of the pairs' supervision, Turnpike, Signpost and Milepost that no register
shows (chapter 15).
-/

namespace Sys2Proof.Machine

/-- An IOTLB entry (R374): the 4 KiB pages `vpn` to `vpn + span - 1` of a stream map to `ppn` upward, with R and W. -/
structure TlbEntry where
  stream : Nat
  vpn : Nat
  span : Nat
  ppn : Nat
  r : Bool
  w : Bool
deriving DecidableEq, Repr

/-- A queued translation fault (R376). -/
structure TrnFault where
  stream : Nat
  iova : Nat
  write : Bool
  cause : Nat
deriving DecidableEq, Repr

/-- Turnpike: the IOTLB, the fault queue, oldest first, and the latest translation: the physical address it gave. -/
structure TurnState where
  tlb : List TlbEntry := []
  faults : List TrnFault := []
  result : Option Nat := none
deriving DecidableEq, Repr

/-- The supervision of the pairs (R363 to R371), pair by pair: 0 Port, 1 Media. -/
structure PairState where
  /-- When the deadline's interval began, in 10 ns ticks (R367). -/
  beat : List (Nat × Nat) := []
  /-- When a pair's restart began (R368). -/
  began : List (Nat × Nat) := []
  /-- When each of a pair's latest counted restarts began, the latest first (R367). -/
  counted : List (Nat × List Nat) := []
  /-- Released by the boot ROM (R74, R369). -/
  released : List Nat := []
  /-- When the watchdog was last restarted (R368). -/
  kick : Nat := 0
  /-- In service: source and the context that claimed it (R379). -/
  service : List (Nat × Nat) := []
  /-- Inbound queues, oldest first, by 2 × mailbox + side (0 near, 1 far). -/
  boxes : List (Nat × List Nat) := []
  /-- Sides, numbered likewise, whose open request has timed out (R385). -/
  expired : List Nat := []
  /-- By side, the earliest tick at which its timer may expire (R385, tMPO_TMO). -/
  due : List (Nat × Nat) := []
deriving DecidableEq, Repr

end Sys2Proof.Machine
end

