-- ==== Sys2Proof/Machine/TypesStr.lean ====
section
/-!
DEFINITION. Sys2Proof/Machine/TypesStr.lean: the state of one Strata sequencer that no register shows (chapter 16).
-/

namespace Sys2Proof.Machine

/-- A sequencer (R389 to R400). -/
structure SeqState where
  /-- G1 to G31; unlisted zero. G0 reads zero. -/
  g : List (Nat × Word) := []
  /-- G16 to G31 as ROUTINE saved them (R393). -/
  saved : List (Nat × Word) := []
  stack : List Nat := []
  /-- Scratch words by word index; unlisted zero. -/
  scratch : List (Nat × Word) := []
  tmo : Bool := false
  /-- Patch-memory words that hold a patch, and nano-words 448 to 511; unlisted nano-words read zero (R389). -/
  pmem : List (Nat × Word) := []
  nanos : List (Nat × Nat) := []
  /-- A routine runs: from ROUTINE to COMMIT (R393). -/
  routine : Bool := false
  /-- The cause whose handler runs, and the abandoning events held meanwhile (R396). -/
  handler : Option Nat := none
  events : List Nat := []
  /-- Work items, head first: kind and context (R392). -/
  wq : List (Nat × Nat) := []
  /-- The data slots, 64 bytes each; the CRC, scrambler and tweak registers of the datapath (R391). -/
  slots : List (Nat × Nat) := []
  crc : Nat := 0
  scr : Nat := 0
  tweak : Nat := 0
  /-- A WAIT stalls: its event line and LIMIT. -/
  wait : Option (Nat × Nat) := none
  /-- When the WAIT began to stall, in ticks of 10 ns. -/
  waitAt : Nat := 0
  /-- The key slot whose want holds the sequencer (R422). -/
  keyHold : Option Nat := none
  /-- Restarted and not ready again: its island's crossings hold data-path requests (R23). -/
  down : Bool := false
  /-- The retry ladder that its head item runs (R254). -/
  ladder : Option Ladder := none
  /-- The sector that the ladder of each context climbs with, kept for a restart (R256). -/
  held : List (Nat × BadSector) := []
  /-- Live sectors that passed while their own slice replayed, to be decoded from the ring: descriptor by descriptor, and the one whose
  turn it is (R254). -/
  missed : List Desc := []
  catching : Option Desc := none
  /-- Its slice's pair has passed to this slice (R177, R395). -/
  handTo : Option Nat := none
deriving DecidableEq, Repr

end Sys2Proof.Machine
end

