-- ==== Sys2Proof/Machine/TypesSys.lean ====
section
/-!
DEFINITION. Sys2Proof/Machine/TypesSys.lean: the state of the SYS block, of Tollgate and of Cairn that no register shows, as
plain data (chapters 01, 03 and 20).
-/

namespace Sys2Proof.Machine

/-- One key slot of the fuses (chapter 03, Key fuses): its two fuses and the 384-bit hash it holds. -/
structure KeySlot where
  programmed : Bool := false
  revoked : Bool := false
  hash : Nat := 0
deriving DecidableEq, Repr

/-- The fuses that registers and identification data show (R69: a reset changes none of them). -/
structure Fuses where
  slots : List KeySlot := List.replicate 4 {}
  vid : Nat := 0
  sasBase : Nat := 0
  mipi : Nat := 0
  devNum : Nat := 0
deriving DecidableEq, Repr

/-- A fuse operation in progress (R76): the slot, whether it programs, and the result it is refused with. -/
structure FuseOp where
  slot : Nat
  program : Bool
  refused : Option Nat
  /-- The staged hash as it was accepted. -/
  hash : Nat
deriving DecidableEq, Repr

/-- A mode transition that waits (R80): the Dormant entry at its step 2 to 5, the return from Dormant to Service, or the
return from Migration to Service while the session drains (R437). -/
inductive Trans where
  | none
  | dormant (step : Nat)
  | toService
  | fromMigration
deriving DecidableEq, Repr

/-- What the SYS block holds beside its registers. -/
structure SysState where
  bootcfg : Nat := 0
  sbAddr : Nat := 0
  fuses : Fuses := {}
  /-- The key slots as the last device reset found them (R76). -/
  keySlots : List KeySlot := List.replicate 4 {}
  fuseOp : Option FuseOp := Option.none
  /-- A flush-first reset waits for Haven to settle (R70). -/
  pendingReset : Option RstCause := Option.none
  /-- A vault flush has completed while a reset was pending (R71). -/
  deferFlushed : Bool := false
  /-- The SoC is held in reset by RST_N (R467). -/
  rstWait : Bool := false
  /-- The step of Haven entry that waits to end, 3 to 6 (R82); 0 when none. -/
  havenStep : Nat := 0
  /-- When Haven last settled, in ticks of 10 ns (R368). -/
  settledAt : Nat := 0
  trans : Trans := .none
  /-- Order of arrival at which the latest entry to Dormant or Haven began: commands before it were in flight (R80, R82). -/
  transSeq : Nat := 0
  /-- The Dormant wake timer runs (R80). -/
  wakeTimer : Bool := false
  /-- Firmware is still to write the data held in Bedrock (R83) before MEDIA may set. -/
  heldData : Bool := false
  /-- Main supply in millivolts, as last measured. -/
  mainMv : Nat := 0
  auxUp : Bool := false
  /-- The boot ROM has stopped waiting for Bedrock (R337). -/
  bootGaveUp : Bool := false
  /-- The slot whose image was applied, if any (R65). -/
  applied : Option Nat := Option.none
deriving DecidableEq, Repr

/-- What Tollgate holds beside its registers (R442 to R449). -/
structure TgtState where
  /-- Class each source's line carries now, source by source; unlisted 0. -/
  line : List (Nat × Nat) := []
  /-- Classes raised before TOLLGATE set (R443). -/
  early : List (Nat × Nat) := []
  /-- When the grace timer ends, in 10 ns ticks. -/
  graceDue : Nat := 0
  /-- The timer has expired and Keystone has not acted yet (R446). -/
  expired : Bool := false
  /-- Bits whose fatal clear is with Keystone (R443). -/
  kclr : List Nat := []
  /-- Take-outs Keystone holds until the unit command ends: sources (R445). -/
  heldTakeouts : List Nat := []
  injBits : Nat := 0
  pinDue : Nat := 0
deriving DecidableEq, Repr

/-- A Cairn record (R453) but for SEQ and CHECK, which it takes when it enters the log. -/
structure Event where
  cls : Nat
  typ : Nat
  origin : Nat
  minutes : Nat
  subUs : Nat
  pcyc : Nat
  mode : Nat
  arg : Nat
  inj : Bool := false
  pred : Bool := false
deriving DecidableEq, Repr

/-- A record in the log or the flash: its number, FB flag, event and whether the flash holds it too. -/
structure Rec where
  seq : Nat
  fb : Bool
  ev : Event
  inFlash : Bool := false
deriving DecidableEq, Repr

/-- One 64-byte slot of the Cairn flash area (R458); an unlisted slot is erased. -/
inductive FlashSlot where
  | good (r : Rec)
  | bad
deriving DecidableEq, Repr

/-- A flash write in progress (R458): the RESERVE record, or the oldest records the flash does not hold. -/
inductive FlashJob where
  | reserve
  | records (n : Nat)
deriving DecidableEq, Repr

/-- What Cairn holds beside its registers (R450 to R460). -/
structure CrnState where
  log : List Rec := []
  hold : List Event := []
  restored : Bool := false
  fb : Bool := false
  next : Nat := 0
  res : Nat := 0
  /-- A RESERVE record waits for its flash write (R451). -/
  reserveWait : Bool := false
  /-- Events dropped since the last DROPPED record: how many, minutes of the first and of the last (R455). -/
  lost : Nat := 0
  lostFirst : Nat := 0
  lostLast : Nat := 0
  /-- Releases held by a freeze (R456), and the count now with Keystone (R460). -/
  heldRelease : Nat := 0
  releasing : Nat := 0
  fwStage : List Word := []
  sbWindow : Nat := 0
  /-- Flash area, slot by slot, and where the next record goes. -/
  flash : List (Nat × FlashSlot) := []
  flashPos : Nat := 0
  /-- The flash write in progress. -/
  writing : Option FlashJob := Option.none
  /-- A flash write fell due while one ran or on hold-up (R458). -/
  due : Bool := false
  /-- GO was written while that write ran: it reads 1 until the next one ends (R458). -/
  goNext : Bool := false
  /-- Non-volatile counters of Ballast (R450) and the tick at which the minute began. -/
  minutes : Nat := 0
  pcyc : Nat := 0
  minuteStart : Int := 0
deriving DecidableEq, Repr

end Sys2Proof.Machine
end

