-- ==== Sys2Proof/Machine/State.lean ====
section
/-!
DEFINITION. Sys2Proof/Machine/State.lean: the state of the part as plain data. Every register of the part has its value in
`regs`; what no register shows stands in one structure per block. `Fault` and `Refusal` are the reasons a step could stop.
-/

namespace Sys2Proof.Machine

/-- The state of the part. -/
structure State where
  /-- Register values by Towpath offset; an unlisted offset holds its Reset value (R13). -/
  regs : List (Nat × Word) := []
  /-- Bytes of the tightly-coupled memories, the context store and the HBM by physical address; unlisted reads 0 (R29, R69). -/
  mem : List Host.Cell := []
  /-- SIG_MTIME: ticks of 10 ns since device reset (R381). -/
  now : Nat := 0
  /-- The model's own counter for free values. -/
  fresh : Nat := 0
  /-- What the latest register read returned. -/
  resp : Word := 0
  /-- What the part has given to parties outside, latest first. -/
  out : List Out := []
  /-- SYS, straps, fuses, modes (chapters 01 and 03). -/
  sys : SysState := {}
  /-- The applied structure image (R65). -/
  kenul : Option Kenul := none
  /-- Outcome of the check of Kenul slot A (R64). -/
  slotA : Option SlotResult := none
  /-- Outcome of the check of Kenul slot B (R64). -/
  slotB : Option SlotResult := none
  /-- Tollgate. -/
  tgt : TgtState := {}
  /-- Cairn. -/
  crn : CrnState := { pcyc := 1 }
  /-- Sequencers whose patch load waits or runs (R399, R458). -/
  patchQueue : List Nat := []
  /-- Port group A. -/
  hpA : HostGroup := {}
  /-- Port group B. -/
  hpB : HostGroup := { targetName := 5 }
  /-- Management sideband. -/
  sb : SidebandState := {}
  /-- Contexts, tenants, objects and write acknowledgement. -/
  cmd : CmdState := {}
  /-- Waymark, the media and the Touchstone copies. -/
  way : WayState := {}
  /-- Signpost sources raised by an event that no register bit shows, held until claimed (R379). -/
  sigEvents : List Nat := []
  /-- Slices, Milestones, subrings, write channels and framer. -/
  lode : LodeState := {}
  /-- Quarry. -/
  qry : QryState := {}
  /-- Bedrock and Shale. -/
  bed : BedState := {}
  /-- Turnpike. -/
  trn : TurnState := {}
  /-- Supervision of the pairs, Signpost claims and Milepost queues. -/
  pair : PairState := {}
  /-- Basalt. -/
  bas : BasState := {}
  /-- Actuator interfaces. -/
  acts : List ActState := List.replicate 4 {}
  /-- Millstone. -/
  mil : MilState := {}
  /-- Ballast. -/
  bls : BlsState := {}
  /-- Obsidian. -/
  obs : ObsState := {}
  /-- Carriage. -/
  car : CarState := {}
  /-- Causeway. -/
  csw : CswState := {}
  /-- Strata. -/
  str : List SeqState := List.replicate 12 {}
  /-- Keystone's working RAM by Keystone's own address (R31); unlisted reads 0. -/
  keyRam : List Host.Cell := []
  /-- Requests that wait in a crossing for a restarting island: source, destination and tag, in issue order (R22, R23). -/
  crossHeld : List (Island × Island × Nat) := []
  /-- Reservations of LR by pair: pair and address (R365). -/
  resv : List (Nat × Nat) := []
  /-- The commands that wait, first in first out (the model's own). -/
  pending : List Instr := []
deriving DecidableEq, Repr

/-- Why a step can stop with a fault: never. The spec gives an effect to every command, reports every error inside the
part (R14, R29, R442), and names no address whose access stops the part, so no constructor is needed. -/
inductive Fault where
deriving DecidableEq, Repr

/-- Why a step can be refused. -/
inductive Refusal where
  /-- A command without a meaning in the model yet, by its mnemonic. Safe: nothing is claimed of it. -/
  | notModelled (mnemonic : String)
deriving DecidableEq, Repr

/-- The part right after reset, before Ballast's release of the SoC is handled by POWER_ON_RESET: every register at its
Reset value (an empty `regs`), all memory zero (R69), Bedding, no image applied, and no command waiting. -/
def State.reset : State := {}

end Sys2Proof.Machine
end

