-- ==== Sys2Proof/Machine/Ops.lean ====
section
/-!
DEFINITION. Sys2Proof/Machine/Ops.lean: the named operations over registers, memory, readiness, outputs and free values that
every meaning is written with. The part has no exception entry of its own: an access exception of a core is an output.
-/

namespace Sys2Proof.Machine

/-- The outcome of a command that completes. -/
abbrev ok (s : State) : Host.Outcome State Fault Refusal := .next s

/-! ### Registers -/

/-- The stored value of the register at `off` (R13 where nothing was written). -/
def State.rd (s : State) (off : Nat) : Word := (spGet s.regs off).getD (resetVal off)

/-- The register at `off` set to `v`. -/
def State.wr (s : State) (off : Nat) (v : Word) : State :=
  { s with regs := spSet (resetVal off) s.regs off v }

/-- Field `f` of the register at `off`. -/
def State.rf (s : State) (off : Nat) (f : Fld) : Nat := fget (s.rd off) f

/-- The register at `off` with field `f` set to `v`. -/
def State.wf (s : State) (off : Nat) (f : Fld) (v : Nat) : State := s.wr off (fset (s.rd off) f v)

/-- A one-bit field read as a condition. -/
def State.flag (s : State) (off : Nat) (f : Fld) : Bool := s.rf off f = 1

/-- Status bits of `mask` set in the register at `off` (a W1C bit that hardware sets, R27). -/
def State.orReg (s : State) (off : Nat) (mask : Nat) : State := s.wr off (s.rd off ||| word mask)

/-- A one-bit field set. -/
def State.raise (s : State) (off : Nat) (f : Fld) : State := s.wf off f 1

/-- A counter field raised by `n`, stopping at its largest value. -/
def State.countUp (s : State) (off : Nat) (f : Fld) (n : Nat) : State :=
  s.wf off f (min (s.rf off f + n) (2 ^ (f.hi + 1 - f.lo) - 1))

/-! ### Free values and outputs -/

/-- The next free value of `w` bits, and the state with it taken. -/
def State.free (s : State) (w : Nat) : Nat × State :=
  ((Config.freeBits w s.fresh).toNat, { s with fresh := s.fresh + 1 })

/-- Something given to the outside. -/
def State.emit (s : State) (o : Out) : State := { s with out := o :: s.out }

/-- The value a register read returns. -/
def State.answer (s : State) (v : Word) : State := { s with resp := v }

/-- The state an operation leaves, without its answer. -/
def stateOf {α : Type} (p : α × State) : State := p.2

/-! ### Memory: bytes by physical address; unlisted reads zero (R69) -/

/-- The byte at physical address `a`. -/
def State.byte (s : State) (a : Nat) : Byte := spGetD 0 s.mem a

/-- Memory with the byte at `a` set. -/
def memSet (m : List Host.Cell) (a : Nat) (b : Byte) : List Host.Cell := spSet 0 m a b

/-- The byte at `a` set. -/
def State.setByte (s : State) (a : Nat) (b : Byte) : State := { s with mem := memSet s.mem a b }

/-- `n` bytes from `a` upward as a little-endian number. -/
def State.load (s : State) (a : Nat) : Nat → Nat
  | 0 => 0
  | n + 1 => (s.byte a).toNat + 256 * s.load (a + 1) n

/-- `n` bytes of a memory from `a` upward, little-endian. -/
def memLoad (m : List Host.Cell) (a : Nat) : Nat → Nat
  | 0 => 0
  | n + 1 => (spGetD 0 m a).toNat + 256 * memLoad m (a + 1) n

/-- The memory with `n` little-endian bytes of `v` from `a` upward. -/
def memStore (m : List Host.Cell) (a v : Nat) : Nat → List Host.Cell
  | 0 => m
  | n + 1 => memStore (memSet m a (BitVec.ofNat 8 v)) (a + 1) (v / 256) n

/-- `n` bytes of `v` stored from `a` upward. -/
def State.store (s : State) (a v n : Nat) : State := { s with mem := memStore s.mem a v n }

/-- The canonical form of memory: addresses strictly rising and no entry equal to what an unlisted address reads as. -/
def Memory.wf (m : List Host.Cell) : Bool := spSorted m && m.all fun c => c.2 ≠ 0

/-- Physical addresses of R29. -/
def tcmBase : Nat := 0x10000000
def ctxBase : Nat := 0x20000000
def towpathBase : Nat := 0x40000000
def hbmBase : Nat := 0x400000000

/-! ### Readiness (R33) -/

/-- The bits of SYS_READY. -/
inductive Ready where
  | kenul | keystone | tollgate | cairn | portPair | mediaPair | bedrock | shale | turnpike | carriage | milepost
  | obsidian | hpa | hpb | sideband | causeway | ballast | millstone | basalt | quarry | strata | lode
  | act (a : Fin 4)
  | waymark | media
deriving DecidableEq, Repr

/-- The place of a READY bit in SYS_READY. -/
def Ready.bit : Ready → Nat
  | kenul => 0 | keystone => 1 | tollgate => 2 | cairn => 3 | portPair => 4 | mediaPair => 5 | bedrock => 6 | shale => 7
  | turnpike => 8 | carriage => 9 | milepost => 10 | obsidian => 11 | hpa => 12 | hpb => 13 | sideband => 14
  | causeway => 15 | ballast => 16 | millstone => 17 | basalt => 18 | quarry => 19 | strata => 20 | lode => 21
  | act a => 22 + a.val | waymark => 26 | media => 27

/-- The READY bit of a function. -/
def State.ready (s : State) (r : Ready) : Bool := s.rf R.SYS_READY ⟨r.bit, r.bit⟩ = 1

/-- A READY bit set or cleared; a change in either direction is recorded in SYS_READY_CHG. -/
def State.setReady (s : State) (r : Ready) (v : Bool) : State :=
  if s.ready r = v then s
  else (s.wf R.SYS_READY ⟨r.bit, r.bit⟩ (b2n v)).orReg R.SYS_READY_CHG (2 ^ r.bit)

/-- The readiness of slice `n` or sequencer `n`. -/
def State.ldReady (s : State) (n : Nat) : Bool := s.rf R.SYS_READY_UNIT ⟨n, n⟩ = 1
def State.strReady (s : State) (n : Nat) : Bool := s.rf R.SYS_READY_UNIT ⟨8 + n, 8 + n⟩ = 1

/-- Slice `n` has an actuator in the applied image. -/
def State.ldAssigned (s : State) (n : Nat) : Bool :=
  match s.kenul with
  | none => false
  | some k => match k.slices[n]? with
    | some r => r.act ≤ 3
    | none => false

/-- Sequencer `n` serves an assigned slice, or a present actuator's writes (R44). -/
def State.strAssigned (s : State) (n : Nat) : Bool :=
  if n < 8 then s.ldAssigned n
  else match s.kenul with
    | none => false
    | some k => bitAt k.present (n - 8)

/-- LODE and STRATA follow the units assigned by the image (R33). -/
def State.sumReady (s : State) : State :=
  let ld := s.kenul.isSome && (List.range 8).all fun n => !s.ldAssigned n || s.ldReady n
  let st := s.kenul.isSome && (List.range 12).all fun n => !s.strAssigned n || s.strReady n
  (s.setReady .lode ld).setReady .strata st

/-- Slice or sequencer readiness changed, with the summary bits. -/
def State.setLdReady (s : State) (n : Nat) (v : Bool) : State :=
  (s.wf R.SYS_READY_UNIT ⟨n, n⟩ (b2n v)).sumReady
def State.setStrReady (s : State) (n : Nat) (v : Bool) : State :=
  (s.wf R.SYS_READY_UNIT ⟨8 + n, 8 + n⟩ (b2n v)).sumReady

/-! ### Modes (R7) -/

/-- The mode codes of SYS_MODE.MODE. -/
def mBedding : Nat := 0
def mService : Nat := 1
def mSurvey : Nat := 2
def mMigration : Nat := 3
def mDormant : Nat := 4
def mHaven : Nat := 5

/-- The current mode. -/
def State.mode (s : State) : Nat := s.rf R.SYS_MODE F.SYS_MODE_MODE

/-- Haven with PHASE SETTLED. -/
def State.havenSettled (s : State) : Bool := s.mode = mHaven && s.rf R.SYS_MODE F.SYS_MODE_PHASE = 1

/-! ### Who may write -/

/-- The Port pair or the Media pair. -/
def isPair : Initiator → Bool
  | .port => true
  | .media => true
  | _ => false

/-- Keystone. -/
def isKeystone : Initiator → Bool
  | .keystone => true
  | _ => false

/-- A pair in machine mode. -/
def pairMachine (i : Initiator) (p : Priv) : Bool := isPair i && p = .machine

/-- The claim on a resource, if the applied image holds one (R57, R59). -/
def State.claim (s : State) (id : Nat) : Option Claim :=
  match s.kenul with
  | none => none
  | some k => k.claims.find? fun c => c.id = id

/-- The owner code of a resource; 0 for none (R55). -/
def State.owner (s : State) (id : Nat) : Nat := ((s.claim id).map Claim.owner).getD 0

/-- The initiator is in a controller mask (R56); `own` is the owner code. -/
def inMask (i : Initiator) (mask own : Nat) : Bool :=
  match i with
  | .port => bitAt mask 0
  | .media => bitAt mask 1
  | .keystone => bitAt mask 2
  | .sideband => bitAt mask 3
  | .str n => bitAt mask 4 && own = 0x10 + n.val

/-- The initiator may write the registers of resource `id` (R56, R59). -/
def State.mayControl (s : State) (i : Initiator) (id : Nat) : Bool :=
  match s.claim id with
  | none => false
  | some c => inMask i c.mask c.owner

end Sys2Proof.Machine
end

