-- ==== Sys2Proof/Machine/CairnOps.lean ====
section
/-!
DEFINITION. Sys2Proof/Machine/CairnOps.lean: Cairn's records, numbering, active log and flash area (R450 to R460).
-/

namespace Sys2Proof.Machine

/-- ARG from its fields in order, as (bytes, value) pairs, little-endian (R454). -/
def argOf : List (Nat × Nat) → Nat
  | [] => 0
  | (n, v) :: rest => v % 2 ^ (8 * n) + 2 ^ (8 * n) * argOf rest

/-- ON_HOLDUP: the device runs from the bank. -/
def State.onHoldup (s : State) : Bool := s.flag R.BLS_STAT F.BLS_STAT_ON_HOLDUP

/-- The event of a record as it happens (R455). -/
def State.eventNow (s : State) (cls typ origin arg : Nat) (inj : Bool) : Event :=
  { cls, typ, origin, minutes := s.crn.minutes, subUs := ((s.now - s.crn.minuteStart) / 100).toNat, pcyc := s.crn.pcyc,
    mode := s.mode, arg, inj }

/-! ### The record as 64 bytes (R453) -/

/-- One bit of CRC-16, polynomial 0x1021. -/
def crc16Bit (c : Nat) : Nat := if c / 0x8000 % 2 = 1 then ((c * 2) ^^^ 0x1021) % 0x10000 else c * 2 % 0x10000

/-- One byte of CRC-16. -/
def crc16Byte (c b : Nat) : Nat :=
  crc16Bit (crc16Bit (crc16Bit (crc16Bit (crc16Bit (crc16Bit (crc16Bit (crc16Bit (c ^^^ (b * 256)))))))))

/-- CRC-16 of the first `n` bytes of a little-endian number (R453). -/
def crc16 (v : Nat) : Nat → Nat
  | 0 => 0xFFFF
  | n + 1 => crc16Byte (crc16 v n) (rdLe v n 1)

/-- FLAGS of a record. -/
def Rec.flags (r : Rec) : Nat := b2n r.fb + 2 * b2n r.ev.inj + 4 * b2n r.ev.pred

/-- Bytes 0 to 61 of a record. -/
def Rec.body (r : Rec) : Nat :=
  argOf [(6, r.seq), (1, r.flags), (1, r.ev.cls), (2, r.ev.typ), (2, r.ev.origin), (4, r.ev.minutes), (4, r.ev.subUs),
    (2, r.ev.pcyc), (1, r.ev.mode), (1, 0), (36, r.ev.arg), (2, 0)]

/-- The record, CHECK included. -/
def Rec.bytes (r : Rec) : Nat := r.body + 2 ^ 496 * crc16 r.body 62

/-! ### The flash area (R458) -/

/-- Slots of the area, and slots of one sector. -/
def flashSlots : Nat := 16384
def sectorSlots : Nat := 1024

/-- The sector that begins at `pos` erased. -/
def eraseSector (fl : List (Nat × FlashSlot)) (pos : Nat) : List (Nat × FlashSlot) :=
  fl.filter fun q => q.1 < pos ∨ pos + sectorSlots ≤ q.1

/-- Where the next record goes: the first erased slot from `pos` on in its sector, else the start of the next sector,
which is erased first. -/
def flashPlace (fl : List (Nat × FlashSlot)) (pos : Nat) : Nat → Nat × List (Nat × FlashSlot)
  | 0 => (pos % flashSlots, eraseSector fl (pos % flashSlots))
  | n + 1 =>
    let p := pos % flashSlots
    if p % sectorSlots = 0 then (p, eraseSector fl p)
    else if (spGet fl p).isNone then (p, fl)
    else flashPlace fl (p + 1) n

/-- One record appended to the flash area. -/
def CrnState.flashAppend (c : CrnState) (r : Rec) : CrnState :=
  let q := flashPlace c.flash c.flashPos sectorSlots
  { c with flash := spInsert (spErase q.2 q.1) q.1 (.good { r with inFlash := true }), flashPos := q.1 + 1 }

/-- Every unpersisted record among the first `n` unpersisted of the log, appended and marked. -/
def persistLog : List Rec → Nat → CrnState → List Rec × CrnState
  | [], _, c => ([], c)
  | r :: rest, n, c =>
    if r.inFlash then
      let q := persistLog rest n c
      (r :: q.1, q.2)
    else match n with
      | 0 => let q := persistLog rest 0 c
             (r :: q.1, q.2)
      | k + 1 => let q := persistLog rest k (c.flashAppend r)
                 ({ r with inFlash := true } :: q.1, q.2)

/-- Records of the log the flash does not hold. -/
def CrnState.unpersisted (c : CrnState) : Nat := (c.log.filter fun r => !r.inFlash).length

/-- Records of the log that the flash holds too. -/
def CrnState.persisted (c : CrnState) : Nat := (c.log.filter fun r => r.inFlash).length

/-- A flash write begins when none runs, the device is off the hold-up bank and no patch load waits or runs; a RESERVE
record goes ahead of any other work (R451, R458). -/
def State.startFlash (s : State) : State :=
  if s.crn.writing.isSome || s.onHoldup || !s.patchQueue.isEmpty then s
  else if s.crn.reserveWait then { s with crn := { s.crn with writing := some .reserve } }
  else if s.crn.due then { s with crn := { s.crn with writing := some (.records s.crn.unpersisted), due := false } }
  else s

/-- A flash write falls due (R458). -/
def State.flashDue (s : State) : State := { s with crn := { s.crn with due := true } }.startFlash

/-! ### Entering the log (R451, R455, R456) -/

/-- Records the active log holds. -/
def logMax : Nat := 16384

/-- A freeze is in force. -/
def State.frozen (s : State) : Bool := s.flag R.CRN_CTL F.CRN_CTL_FREEZE

/-- An event that is not recorded (R455). -/
def State.dropEvent (s : State) (e : Event) : State :=
  let c := { s.crn with lost := s.crn.lost + 1, lostLast := e.minutes,
                        lostFirst := if s.crn.lost = 0 then e.minutes else s.crn.lostFirst }
  ({ s with crn := c }.countUp R.CRN_DROPPED F.CRN_DROPPED_COUNT 1).raise R.CRN_EVT F.CRN_EVT_DROP

/-- An event put into the 64-place holding queue (R456). -/
def State.holdEvent (s : State) (e : Event) : State :=
  if s.crn.hold.length < 64 then { s with crn := { s.crn with hold := s.crn.hold ++ [e] } } else s.dropEvent e

/-- A numbered record put at the end of the log; 1,024 unpersisted records start a flash write (R458). -/
def State.appendRec (s : State) (r : Rec) : State :=
  let s1 := { s with crn := { s.crn with log := s.crn.log ++ [r] } }
  let s2 := if s1.crn.log.length = logMax then s1.raise R.CRN_EVT F.CRN_EVT_FULL else s1
  if 1024 ≤ s2.crn.unpersisted then s2.flashDue else s2

/-- The fallback value of SEQ (R452). -/
def CrnState.fbSeq (c : CrnState) : Nat := c.pcyc * 2 ^ 32 + c.minutes

/-- The SEQ the next record would take. -/
def CrnState.nextSeq (c : CrnState) : Nat := if c.fb then c.fbSeq else c.next

/-- A RESERVE record takes the number RES, enters the log and is written to the flash at once (R451). -/
def State.makeReserve (s : State) : State :=
  let e := s.eventNow 0 0x000C 0x0102 (argOf [(8, s.crn.res + 65536)]) false
  let s1 := s.appendRec { seq := s.crn.next, fb := false, ev := e }
  { s1 with crn := { s1.crn with next := s1.crn.next + 1, reserveWait := true } }.startFlash

/-- An event takes its number and enters the log, or waits, or is dropped (R451, R455, R456). -/
def State.putEvent (s : State) (e : Event) : State :=
  if !s.crn.restored || s.frozen || s.crn.reserveWait then s.holdEvent e
  else if logMax ≤ s.crn.log.length then s.dropEvent e
  else if s.crn.fb then s.appendRec { seq := s.crn.fbSeq, fb := true, ev := e }
  else if s.crn.next = s.crn.res then s.makeReserve.holdEvent e
  else
    let s1 := s.appendRec { seq := s.crn.next, fb := false, ev := e }
    { s1 with crn := { s1.crn with next := s1.crn.next + 1 } }

/-- The DROPPED record that comes first once there is room again (R455). -/
def State.putDropped (s : State) : State :=
  if s.crn.lost = 0 || !s.crn.restored || s.frozen || s.crn.reserveWait || logMax ≤ s.crn.log.length then s
  else
    let e := s.eventNow 0 0x0005 0x0102 (argOf [(4, s.crn.lost), (4, s.crn.lostFirst), (4, s.crn.lostLast)]) false
    { s with crn := { s.crn with lost := 0 } }.putEvent e

/-- An event is recorded (R455). -/
def State.record (s : State) (e : Event) : State := s.putDropped.putEvent e

/-- A record of the present moment: class, type, origin, ARG. -/
def State.cairn (s : State) (cls typ origin arg : Nat) : State := s.record (s.eventNow cls typ origin arg false)

/-- The waiting events enter the log in order. -/
def State.releaseHold (s : State) : State :=
  let q := s.crn.hold
  q.foldl State.record { s with crn := { s.crn with hold := [] } }

/-- Keystone removes min(n, PERSISTED) of the oldest records (R460). -/
def State.applyRelease (s : State) (n : Nat) : State :=
  { s with crn := { s.crn with log := s.crn.log.drop (min n s.crn.persisted) } }

/-- Origin codes (R453): a Tollgate source, a block by its offset bits [27:20], a firmware writer. -/
def orgSource (n : Nat) : Nat := n
def orgBlock (n : Nat) : Nat := 0x0100 + n
def orgFirmware (i : Initiator) : Nat :=
  0x0200 + (match i with | .port => 0 | .media => 1 | _ => 2)

end Sys2Proof.Machine
end

