-- ==== Sys2Proof/Machine/LatchOps.lean ====
section
/-!
DEFINITION. Sys2Proof/Machine/LatchOps.lean: Tollgate's latching, grace timer, pin and fault injection (R441 to R449). A block
"reports" a source with a class through `report` (an event) or `driveLine` (a condition that holds).
-/

namespace Sys2Proof.Machine

/-- Sources that exist (R441). -/
def tgtSources : Nat := 52

/-- The status register of a source and its bit in it. -/
def tgtStatusReg (src : Nat) : Nat := if src < 32 then R.TGT_STATUS_LO else R.TGT_STATUS_HI
def tgtBit (src : Nat) : Fld := ⟨src % 32, src % 32⟩

/-- Source `src` is latched. -/
def State.latched (s : State) (src : Nat) : Bool := s.rf (tgtStatusReg src) (tgtBit src) = 1

/-- The field of TGT_CLASS that holds the latched class of `src`. -/
def tgtClassFld (src : Nat) : Fld := ⟨2 * (src % 16) + 1, 2 * (src % 16)⟩

/-- The latched class of `src`. -/
def State.latchedClass (s : State) (src : Nat) : Nat := s.rf (R.TGT_CLASS (src / 16)) (tgtClassFld src)

/-- ESC of `src`. -/
def State.esc (s : State) (src : Nat) : Nat := s.rf (R.TGT_SRC_CFG src) F.TGT_SRC_CFG_ESC

/-- The bit is pending escalation (R444). -/
def State.pendingEsc (s : State) (src : Nat) : Bool :=
  s.latched src && !s.flag (R.TGT_CNT src) F.TGT_CNT_ACTED
    && (s.latchedClass src = 3 || (s.latchedClass src = 2 && s.esc src ≠ 0))

/-- The pending bits, ascending. -/
def State.pendingList (s : State) : List Nat := (List.range tgtSources).filter s.pendingEsc

/-- Some latched class is `c`. -/
def State.someClass (s : State) (c : Nat) : Bool :=
  (List.range tgtSources).any fun n => s.latched n && s.latchedClass n = c

/-- The class summary of TGT_STATUS_HI. -/
def State.classSummary (s : State) : State :=
  ((s.wf R.TGT_STATUS_HI F.TGT_STATUS_HI_FATAL (b2n (s.someClass 3))).wf R.TGT_STATUS_HI F.TGT_STATUS_HI_CONTAINED
    (b2n (s.someClass 2))).wf R.TGT_STATUS_HI F.TGT_STATUS_HI_CORRECTED (b2n (s.someClass 1))

/-- The grace timer starts when a bit becomes pending while none was, and stops when none is (R445). -/
def State.graceUpdate (s : State) : State :=
  let run := s.flag R.TGT_GRACE_STAT F.TGT_GRACE_STAT_RUNNING
  let s1 := s.wf R.TGT_GRACE_STAT F.TGT_GRACE_STAT_SRC (s.pendingList.headD 0)
  if s.pendingList = [] then
    let s2 := s1.wf R.TGT_GRACE_STAT F.TGT_GRACE_STAT_RUNNING 0
    { s2 with tgt := { s2.tgt with expired := false } }
  else if run || s.tgt.expired then s1
  else
    let s2 := s1.wf R.TGT_GRACE_STAT F.TGT_GRACE_STAT_RUNNING 1
    { s2 with tgt := { s2.tgt with graceDue := s2.now + 100 * s2.rf R.TGT_GRACE_CFG F.TGT_GRACE_CFG_US } }

/-- FAULT_N pulled low for PULSE_US; a further recorded latch restarts the pulse (R448). -/
def State.pinPulse (s : State) : State :=
  let s1 := s.raise R.TGT_PIN F.TGT_PIN_PULSING |>.raise R.TGT_PIN F.TGT_PIN_LOW
  { s1 with tgt := { s1.tgt with pinDue := s1.now + 100 * s1.rf R.TGT_PIN F.TGT_PIN_PULSE_US } }

/-- The FAULT record of a latch (R454). -/
def State.faultRecord (s : State) (src cls : Nat) (inj : Bool) : State :=
  let arg := argOf [(1, src), (1, s.latchedClass src), (2, s.rf (R.TGT_CNT src) F.TGT_CNT_COUNT), (1, s.esc src), (3, 0),
    (4, (s.rd R.TGT_STATUS_LO).toNat), (4, (s.rd R.TGT_STATUS_HI).toNat)]
  s.record (s.eventNow cls 0x0001 (orgSource src) arg inj)

/-- Tollgate latches a line that carries class `cls` (R442). -/
def State.latch (s : State) (src cls : Nat) (inj : Bool) : State :=
  let first := !s.latched src
  let old := if first then 0 else s.latchedClass src
  let rise := old < cls
  let s1 := ((s.wf (tgtStatusReg src) (tgtBit src) 1).wf (R.TGT_CLASS (src / 16)) (tgtClassFld src) (max old cls)).countUp
    (R.TGT_CNT src) F.TGT_CNT_COUNT 1
  let s2 := if rise then s1.wf (R.TGT_CNT src) F.TGT_CNT_ACTED 0 else s1
  let s3 := if inj then s2.raise R.TGT_INJ_STAT F.TGT_INJ_STAT_SEEN else s2
  let s4 := s3.classSummary
  let s5 := if first || rise then s4.faultRecord src cls inj else s4
  let s6 := if (first || rise) && 1 < cls && s5.flag (R.TGT_SRC_CFG src) F.TGT_SRC_CFG_PIN then s5.pinPulse else s5
  s6.graceUpdate

/-- A line carries class `cls`: it latches at once, or is held until TOLLGATE sets (R443). -/
def State.carry (s : State) (src cls : Nat) (inj : Bool) : State :=
  if s.ready .tollgate then s.latch src cls inj
  else { s with tgt := { s.tgt with early := spSet 0 s.tgt.early src (max (spGetD 0 s.tgt.early src) cls) } }

/-- A block reports source `src` with class `cls`: an event (R442). -/
def State.report (s : State) (src cls : Nat) : State := s.carry src cls false

/-- A block drives class `cls` on the line of `src` for as long as a condition holds; 0 when it ends. The line latches when
it begins to carry a class and when the class rises (R442). -/
def State.driveLine (s : State) (src cls : Nat) : State :=
  let old := spGetD 0 s.tgt.line src
  let s1 := { s with tgt := { s.tgt with line := spSet 0 s.tgt.line src cls } }
  if old < cls then s1.carry src cls false else s1

/-- The bit of `src` cleared with its class and ACTED; a line that still carries a class latches again (R442, R443). -/
def State.clearSource (s : State) (src : Nat) : State :=
  let s1 := ((s.wf (tgtStatusReg src) (tgtBit src) 0).wf (R.TGT_CLASS (src / 16)) (tgtClassFld src) 0).wf
    (R.TGT_CNT src) F.TGT_CNT_ACTED 0
  let s2 := s1.classSummary.graceUpdate
  let c := spGetD 0 s2.tgt.line src
  if c = 0 then s2 else s2.latch src c false

/-- Sources whose checker is ECC, parity or CRC, or a comparison (the Inject column of R441); the others have none. -/
def injEcc : List Nat := [1, 4, 5, 6, 7, 11, 12]
def injOther : List Nat := [0, 2, 3, 13, 40, 41, 42, 43]

/-- Injection is armed for one of `srcs`: the number of inverted bits, and the state with one check used up (R449). -/
def State.takeInjection (s : State) (srcs : List Nat) : Option Nat × State :=
  let src := s.rf R.TGT_INJ_STAT F.TGT_INJ_STAT_SRC
  if s.flag R.TGT_INJ_STAT F.TGT_INJ_STAT_ARMED && srcs.contains src then
    let left := s.rf R.TGT_INJ_STAT F.TGT_INJ_STAT_LEFT - 1
    let s1 := s.wf R.TGT_INJ_STAT F.TGT_INJ_STAT_LEFT left
    (some s.tgt.injBits, if left = 0 then s1.wf R.TGT_INJ_STAT F.TGT_INJ_STAT_ARMED 0 else s1)
  else (none, s)

/-- One check of an ECC checker of `srcs` that finds `bits` bits in error: what it answers, whether that was injected, and the state
with the check used up (R449). -/
def State.eccCheck (s : State) (srcs : List Nat) (bits : Nat) : Nat × Bool × State :=
  let q := s.takeInjection srcs
  match q.1 with
  | some b => (b, true, q.2)
  | none => (bits, false, q.2)

/-- The classes the row of a source gives its line (R441); the class of SHL_UE as R360 gives it. -/
def tgtClasses (src : Nat) : List Nat :=
  if src ∈ [0, 1, 7, 8, 14, 43, 44, 46] then [3]
  else if src ∈ [4, 9, 13, 40, 41, 42] then [1]
  else if src ∈ [17, 19, 45] then [2, 3]
  else if src = 6 then [1, 2]
  else [2]

/-- SYS records a mode change and makes it (R454, MODE record). -/
def State.setMode (s : State) (m : Nat) : State :=
  if s.mode = m then s
  else
    let s1 := s.wf R.SYS_MODE F.SYS_MODE_MODE m
    s1.cairn 0 0x0003 (orgBlock 0) (argOf [(1, s.mode), (1, m), (1, s1.rf R.SYS_MODE F.SYS_MODE_HAVEN_CAUSE)])

/-- What Waymark holds beside its registers, replaced. -/
def State.setWay (s : State) (w : WayState) : State := { s with way := w }

/-- A transition ends in mode `m`: BUSY, TARGET and PHASE read 0 (R80). -/
def State.modeDone (s : State) (m : Nat) : State :=
  let t := (((s.wf R.SYS_MODE F.SYS_MODE_BUSY 0).wf R.SYS_MODE F.SYS_MODE_TARGET 0).wf R.SYS_MODE F.SYS_MODE_PHASE 0).setMode m
  t.setWay { t.way with surveys := [], drainHeld := t.way.drainHeld && m ≠ mService }

end Sys2Proof.Machine
end

