-- ==== Sys2Proof/Machine/CtxOps.lean ====
section
/-!
DEFINITION. Sys2Proof/Machine/CtxOps.lean: the command contexts (R98, R99, R132 to R135, R484), the allowance accounting
(R141 to R143), the statuses of R97, R117 and R131, and a group's completion with its MSI-X message (R107).
-/

namespace Sys2Proof.Machine

/-! ### Groups -/

/-- Group `g` (0 A, 1 B). -/
def State.hp (s : State) (g : Nat) : HostGroup := if g = 0 then s.hpA else s.hpB

/-- Group `g` replaced. -/
def State.setHp (s : State) (g : Nat) (h : HostGroup) : State := if g = 0 then { s with hpA := h } else { s with hpB := h }

/-- The personality of a group: 0 none, 1 NVMe, 2 SAS, 3 SATA. -/
def State.pers (s : State) (g : Nat) : Nat := s.rf (R.HP_CFG g) F.HP_CFG_PERSONALITY

/-! ### Contexts -/

/-- The states of R134. -/
def cFree : Nat := 0
def cNew : Nat := 1
def cPort : Nat := 2
def cMedia : Nat := 3
def cStaged : Nat := 4
def cCommit : Nat := 5
def cDone : Nat := 6
def cStream : Nat := 7
def cCauseway : Nat := 8
def cFirmware : Nat := 9

/-- FLAGS bits of R132. -/
def fFua : Nat := 0
def fAcked : Nat := 1
def fVault : Nat := 2
def fCommitted : Nat := 3
def fAbandoned : Nat := 4

/-- A flag of a context. -/
def Ctx.has (c : Ctx) (b : Nat) : Bool := bitAt c.flags b

/-- A flag of a context set. -/
def Ctx.set (c : Ctx) (b : Nat) : Ctx := { c with flags := c.flags ||| 2 ^ b }

/-- Context `k`. -/
def State.ctx (s : State) (k : Nat) : Ctx := spGetD {} s.cmd.ctxs k

/-- Context `k` replaced. -/
def State.setCtx (s : State) (k : Nat) (c : Ctx) : State :=
  { s with cmd := { s.cmd with ctxs := spSet {} s.cmd.ctxs k c } }

/-- What the device knows of the command in context `k`. -/
def State.work (s : State) (k : Nat) : Work := spGetD {} s.cmd.work k

/-- That knowledge replaced. -/
def State.setWork (s : State) (k : Nat) (w : Work) : State :=
  { s with cmd := { s.cmd with work := spSet {} s.cmd.work k w } }

/-- Contexts in a state that satisfies `p`. -/
def State.ctxCount (s : State) (p : Ctx → Bool) : Nat := (s.cmd.ctxs.filter fun q => p q.2).length

/-- Contexts not FREE, all and by origin. -/
def State.liveCtx (s : State) : Nat := s.ctxCount fun c => c.state ≠ cFree
def State.ctxUse (s : State) (g : Nat) : Nat := s.ctxCount fun c => c.state ≠ cFree && c.origin = g

/-- FREE of R99. -/
def State.freeCtx (s : State) : Nat := 65536 - s.liveCtx

/-- MIN of a group: SATA has at least 33 (R96), a group with personality 0 counts as 0 (R98). -/
def State.ctxMin (s : State) (g : Nat) : Nat :=
  if s.pers g = 0 then 0
  else if s.pers g = 3 then max 33 (s.rf (R.HP_CTX_MIN g) F.HP_CTX_MIN_MIN)
  else s.rf (R.HP_CTX_MIN g) F.HP_CTX_MIN_MIN

/-- SPARE of a group (R99). -/
def State.spare (s : State) (g : Nat) : Nat := s.ctxMin g - s.ctxUse g

/-- The inequalities of R99 for requester `r` (0 group A, 1 group B, 2 firmware), over FREE and the groups' USE. -/
def State.takeRule (s : State) (free : Nat) (use : Nat → Nat) (r : Nat) : Bool :=
  let spare := fun g => s.ctxMin g - use g
  if r < 2 then decide (0 < free) && (decide (use r < s.ctxMin r) || decide (spare (1 - r) < free))
  else decide (spare 0 + spare 1 < free)

/-- Group `r` has stopped for want of a context, or has resumed and not yet fetched: it asks for one. -/
def State.wants (s : State) (r : Nat) : Bool := r < 2 && ((s.hp r).stalled || (s.hp r).resumed)

/-- Place of requester `r` after the one served last (R99). -/
def State.rank (s : State) (r : Nat) : Nat := (r + 2 - s.cmd.turn % 3) % 3

/-- No other requester that asks, and that could take no context after `r` took this one, comes first (R99). -/
def State.hasTurn (s : State) (r : Nat) : Bool :=
  [0, 1, 2].all fun q => q = r || !s.wants q || !s.takeRule s.freeCtx s.ctxUse q
    || s.takeRule (s.freeCtx - 1) (fun g => s.ctxUse g + b2n (decide (g = r))) q || s.rank r < s.rank q

/-- A new command on group `g` may take a context (R99). -/
def State.groupMayTake (s : State) (g : Nat) : Bool := s.takeRule s.freeCtx s.ctxUse g && s.hasTurn g

/-- Drive firmware, a stream or Causeway may take a context (R99, R125). -/
def State.fwMayTake (s : State) : Bool := s.takeRule s.freeCtx s.ctxUse 2 && s.hasTurn 2

/-- The first free context from `k` on, cyclically, within `n` places. -/
def State.firstFree (s : State) (k : Nat) : Nat → Nat
  | 0 => k % 65536
  | n + 1 => if (s.ctx (k % 65536)).state = cFree then k % 65536 else s.firstFree (k + 1) n

/-- The free context the device chooses: any of them (R133). -/
def State.pickFree (s : State) : Nat := s.firstFree (Config.freeChoice 65536 s.fresh) 65536

/-- A context taken by requester `r` and filled; every byte the taker does not fill reads zero (R133). Answers its index. -/
def State.takeCtx (s : State) (r : Nat) (c : Ctx) : Nat × State :=
  let k := s.pickFree
  (k, ({ s with fresh := s.fresh + 1, cmd := { s.cmd with turn := r } }.setCtx k { c with admitAt := 10 * s.now }).setWork k
    { seq := s.fresh })

/-- A context leaves both pair queues (R484). -/
def State.unqueue (s : State) (k : Nat) : State :=
  { s with cmd := { s.cmd with portQ := s.cmd.portQ.filter (· ≠ k), mediaQ := s.cmd.mediaQ.filter (· ≠ k) } }

/-- A context joins the queue of pair `p` (0 Port, 1 Media), and leaves the other (R484). -/
def State.queueCtx (s : State) (p k : Nat) : State :=
  let u := s.unqueue k
  if p = 0 then { u with cmd := { u.cmd with portQ := u.cmd.portQ ++ [k] } }
  else { u with cmd := { u.cmd with mediaQ := u.cmd.mediaQ ++ [k] } }

/-- An OBJ_CLOSE in context `k` waits no more. -/
def State.dropClosing (s : State) (k : Nat) : State :=
  { s with cmd := { s.cmd with objects := s.cmd.objects.map fun o =>
      if (o.closing.any fun q => q.1 = k) then { o with closing := none } else o } }

/-- A context returns to the free pool (R135, R484). -/
def State.freeCtxAt (s : State) (k : Nat) : State :=
  (((s.setCtx k { s.ctx k with state := cFree }).setWork k {}).unqueue k).dropClosing k

/-! ### Allowances (R141 to R143) -/

/-- USE of tenant `t` (from 1). -/
def State.tenUse (s : State) (t : Nat) : Nat :=
  s.rf (R.WAY_TEN_USE_LO (t - 1)) F.WAY_TEN_USE_LO_USE + 2 ^ 32 * s.rf (R.WAY_TEN_USE_HI (t - 1)) F.WAY_TEN_USE_HI_USE

/-- RSV of tenant `t`. -/
def State.tenRsv (s : State) (t : Nat) : Nat := s.rf (R.WAY_TEN_RSV (t - 1)) F.WAY_TEN_RSV_RSV

/-- The allowance in force of tenant `t`. -/
def State.tenAllow (s : State) (t : Nat) : Nat := spGetD 0 s.cmd.allow (t - 1)

/-- OVERDRAFT follows USE + RSV against ALLOW; entering it sets the event and records it (R143). -/
def State.overdraft (s : State) (t : Nat) : State :=
  let past := decide (s.tenAllow t < s.tenUse t + s.tenRsv t)
  let was := s.flag (R.WAY_TEN_STATUS (t - 1)) F.WAY_TEN_STATUS_OVERDRAFT
  if past = was then s
  else
    let s1 := s.wf (R.WAY_TEN_STATUS (t - 1)) F.WAY_TEN_STATUS_OVERDRAFT (b2n past)
    if past then
      (s1.orReg (R.WAY_OVER_EVT ((t - 1) / 32)) (2 ^ ((t - 1) % 32))).cairn 0 0x0006 (orgBlock 0x0A)
        (argOf [(2, t), (2, 0), (8, s.tenAllow t), (8, s.tenUse t + s.tenRsv t)])
    else s1

/-- USE of tenant `t` written. -/
def State.putUse (s : State) (t u : Nat) : State :=
  (s.wr (R.WAY_TEN_USE_LO (t - 1)) (word u)).wf (R.WAY_TEN_USE_HI (t - 1)) F.WAY_TEN_USE_HI_USE (u / 2 ^ 32)

/-- USE of tenant `t` set. -/
def State.setUse (s : State) (t u : Nat) : State := (s.putUse t u).overdraft t

/-- RSV of tenant `t` set. -/
def State.setRsv (s : State) (t r : Nat) : State := (s.wr (R.WAY_TEN_RSV (t - 1)) (word r)).overdraft t

/-- RSV_GRAN moves from RSV to USE in one step: `r` granules leave RSV, `n` join USE (R142). -/
def State.moveRsv (s : State) (t r n : Nat) : State :=
  ((s.wr (R.WAY_TEN_RSV (t - 1)) (word (s.tenRsv t - r))).putUse t (s.tenUse t + n)).overdraft t

/-- The reservation of a write is returned (R104, R142). -/
def State.returnRsv (s : State) (k : Nat) : State :=
  let c := s.ctx k
  if c.rsvGran = 0 || c.tenant = 0 then s
  else (s.setCtx k { c with rsvGran := 0 }).setRsv c.tenant (s.tenRsv c.tenant - c.rsvGran)

/-! ### Statuses -/

/-- An NVMe status field: type, code, do not retry. -/
def stNvme (sct sc dnr : Nat) : Nat := dnr * 2 ^ 14 + sct * 2 ^ 8 + sc

/-- Sense key with ASC and ASCQ (SAS, and SATA with ERR and ABRT). -/
def stSense (key asc ascq : Nat) : Nat := key * 2 ^ 16 + asc * 2 ^ 8 + ascq

/-- A SCSI status byte without sense data. -/
def stScsi (b : Nat) : Nat := b * 2 ^ 24

/-- The status in the protocol of a context (1 NVMe, else SAS or SATA). -/
def stOf (proto nvme sense : Nat) : Nat := if proto = 1 then nvme else sense

/-- The object and allowance failures of R131: code, DNR, sense key. -/
def stObject (proto n : Nat) : Nat :=
  let dnr := if n = 4 || n = 5 || n = 7 then 0 else 1
  let key := match n with | 2 => 7 | 4 => 7 | 5 => 7 | 7 => 0xB | 0xB => 3 | _ => 5
  stOf proto (stNvme 7 (0xC0 + n) dnr) (stSense key 0x80 n)

/-- Statuses by the standards' names (R117, R122, R127, R131, R102). -/
def stBadNamespace (proto : Nat) : Nat := stOf proto (stNvme 0 0x0B 1) (stSense 5 0x25 0)
def stLbaRange (proto : Nat) : Nat := stOf proto (stNvme 0 0x80 1) (stSense 5 0x21 0)
def stInvalidField (proto : Nat) : Nat := stOf proto (stNvme 0 0x02 1) (stSense 5 0x24 0)
def stReadError (proto : Nat) : Nat := stOf proto (stNvme 2 0x81 0) (stSense 3 0x11 0)
def stConflict (proto : Nat) : Nat := stOf proto (stNvme 0 0x83 1) (stScsi 0x18)

/-- The statuses of R97, row by row. -/
def stBecomingReady (proto : Nat) : Nat := stOf proto (stNvme 0 0x82 0) (stSense 2 4 1)
def stDormant (proto : Nat) : Nat := stOf proto (stNvme 0 0x82 0) (stSense 2 4 2)
def stHavenRead (proto : Nat) : Nat := stOf proto (stNvme 0 0x82 1) (stSense 2 4 3)
def stWriteRefused (proto : Nat) : Nat := stOf proto (stNvme 0 0x20 1) (stSense 7 0x27 0)
def stHavenAbort (proto : Nat) : Nat := stOf proto (stNvme 0 0x06 0) (stSense 0xB 0x44 0)

/-- A Dormant entry is under way. -/
def State.dormantEntry (s : State) : Bool := match s.sys.trans with | .dormant _ => true | _ => false

/-- The command in context `k` arrived before the latest entry to Dormant or Haven began. -/
def State.wasInFlight (s : State) (k : Nat) : Bool := (s.work k).seq < s.sys.transSeq

/-- The refusal that rests on MEDIA, the mode and the direction alone (R84, R97). Commands in flight at an entry to Dormant from Service
or Survey complete (step 2 of R80); an entry from Bedding begins at step 4, and the unload after a wake lets none run. DESIGN CHOICE: a
media command that arrives during the entry, while MODE still shows the mode that is left, ends with the status of Dormant. -/
def State.modeRefusal (s : State) (k proto : Nat) (write : Bool) : Option Nat :=
  if s.mode = mHaven then (if write then some (stWriteRefused proto) else none)
  else if s.mode = mMigration && write then some (stWriteRefused proto)
  else if s.sys.trans = .toService then some (stBecomingReady proto)
  else if s.dormantEntry && (s.mode = mService || s.mode = mSurvey) && s.wasInFlight k then none
  else if s.mode = mDormant || s.dormantEntry then some (stDormant proto)
  else if s.mode ≠ mBedding && s.ready .media then none
  else some (stBecomingReady proto)

/-! ### The shadow file's reset content (R90, R95, R109) -/

/-- Words of the shadow file: its length, the MSI-X table's first word, the PBA's first word. -/
def shadowWords : Nat := 12288
def msixWord : Nat := 0x4000 / 4
def pbaWord : Nat := 0x9000 / 4

/-- First words of the capabilities: the standard places them at 0x40 to 0xFF, and the extended ones from 0x100 (PRESUMED from PCIe
Base 5.0; the order of the list is the model's). -/
def capPmWord : Nat := 16 + Config.capPm % 48
def capPcieWord : Nat := 16 + Config.capPcie % 48
def capMsixWord : Nat := 16 + Config.capMsix % 48
def capAerWord : Nat := 64

/-- The highest PCIe generation a group's MAX_RATE allows, and its lanes. -/
def State.maxRate (s : State) (g : Nat) : Nat := s.rf (R.HP_CFG g) F.HP_CFG_MAX_RATE
def State.maxLanes (s : State) (g : Nat) : Nat := s.rf (R.HP_CFG g) F.HP_CFG_LANES

/-- Reset content of the PCIe configuration space and of the NVMe properties, from word 0x400 on (R90, R109): identity and class code;
the capabilities that R90 lists, with the default values that PCIe Base 5.0 gives their fields (Relaxed Ordering and No Snoop enabled, reads of 512
bytes; the target speed the highest; AER severities and masks) (PRESUMED); CAP, VS and CSTS.RDY 0. -/
def State.nvmeReset (s : State) (g w : Nat) : Nat :=
  if w = 0 then 0x9640 * 0x10000 + s.sys.fuses.vid
  else if w = 1 then 0x00100000
  else if w = 2 then 0x010802 * 0x100
  else if w = 4 then 4
  else if w = 13 then 4 * capPmWord
  else if w = capPmWord then 0x00030001 + 0x400 * capPcieWord
  else if w = capPcieWord then 0x00020010 + 0x400 * capMsixWord
  else if w = capPcieWord + 1 then 0x10008002
  else if w = capPcieWord + 2 then 0x00002810
  else if w = capPcieWord + 3 then s.maxRate g + 0x10 * s.maxLanes g + 0x800
  else if w = capPcieWord + 9 then 0x00030000
  else if w = capPcieWord + 11 then 2 * (2 ^ s.maxRate g - 1)
  else if w = capPcieWord + 12 then s.maxRate g
  else if w = capMsixWord then 0x04000011
  else if w = capMsixWord + 1 then 0x8000
  else if w = capMsixWord + 2 then 0xD000
  else if w = capAerWord then 0x00020001
  else if w = capAerWord + 2 then 0x00400000
  else if w = capAerWord + 3 then 0x00462030
  else if w = capAerWord + 5 then 0x0000E000
  else if w = capAerWord + 6 then 0x000000A0
  else if w = 0x400 then 4095 + 2 ^ 16 + 2 ^ 24 * Config.nvmeTo.toNat
  else if w = 0x401 then 0x20
  else if w = 0x402 then Config.nvmeVs.toNat
  else if msixWord ≤ w && w < msixWord + 4 * 1025 && w % 4 = 3 then 1
  else 0

/-- The model number as ACS-4 stores strings, the first character of each word in its high byte. -/
def ataModel : List Nat := [0x424F, 0x5241, 0x4552, 0x4920, 0x4B4E, 0x3936, 0x3430]

/-- 16-bit word `n` of the reset IDENTIFY DEVICE data (R95, R109): a serial number of blanks, the model number, and the supported
features as ACS-4 codes them: 32 NCQ tags; NCQ, link rates 1 to 3 and host-initiated Partial and Slumber; device-initiated ones;
DOWNLOAD MICROCODE, 48-bit addresses and FLUSH CACHE EXT, with words 119 and 120 valid; general purpose logging; 4,096-byte sectors;
READ LOG DMA EXT, and Sense Data Reporting, supported and enabled. -/
def ataWord (n : Nat) : Nat :=
  if 10 ≤ n && n < 20 then 0x2020
  else if 27 ≤ n && n < 47 then (ataModel[n - 27]?).getD 0x2020
  else match n with
    | 49 => 0x0300
    | 75 => 31
    | 76 => 0x030E
    | 78 => 0x0008
    | 83 => 0x6401
    | 84 => 0x4020
    | 86 => 0xA401
    | 87 => 0x4020
    | 106 => 0x5000
    | 117 => 2048
    | 119 => 0x4048
    | 120 => 0x4048
    | _ => 0

/-- Standard INQUIRY data of SAS: vendor "BORAERI", product "KN9640", blank-padded. -/
def inquiryWord (n : Nat) : Nat :=
  match n with
  | 2 => 0x41524F42
  | 3 => 0x20495245
  | 4 => 0x36394E4B
  | 5 => 0x20203034
  | 6 => 0x20202020
  | 7 => 0x20202020
  | _ => 0

/-- Reset content of shadow word `w` of group `g` (R109). -/
def State.shadowReset (s : State) (g w : Nat) : Word :=
  match s.pers g with
  | 1 => word (s.nvmeReset g w)
  | 2 => word (inquiryWord w)
  | 3 => word (ataWord (2 * w) + 2 ^ 16 * ataWord (2 * w + 1))
  | _ => 0

/-! ### The shadow file's MSI-X table, and completions (R107, R135, R140) -/

/-- Committed content of shadow word `w` of group `g`. -/
def State.shadow (s : State) (g w : Nat) : Word := (spGet (s.hp g).shadow w).getD (s.shadowReset g w)

/-- Shadow word `w` of group `g` set. -/
def State.setShadow (s : State) (g w : Nat) (v : Word) : State :=
  s.setHp g { s.hp g with shadow := spSet (s.shadowReset g w) (s.hp g).shadow w v }

/-- The vector, or the function, is masked. -/
def State.msixMasked (s : State) (g v : Nat) : Bool :=
  bitAt (s.shadow g (msixWord + 4 * v + 3)).toNat 0 || bitAt (s.shadow g capMsixWord).toNat 30

/-- MSI-X Enable. -/
def State.msixOn (s : State) (g : Nat) : Bool := bitAt (s.shadow g capMsixWord).toNat 31

/-- The message of vector `v`: the address and the data of its table entry, as they stand (R107). -/
def State.msixMessage (s : State) (g v : Nat) : Out :=
  let w := fun i => (s.shadow g (msixWord + 4 * v + i)).toNat
  .msix g v (w 0 + 2 ^ 32 * w 1) (w 2)

/-- A message of vector `v`: sent, with its PBA bit cleared, or held with the bit set (R107); none while the host has not enabled
MSI-X, as the device has no other interrupt (R90). -/
def State.sendMsix (s : State) (g v : Nat) : State :=
  let w := pbaWord + v / 32
  let old := (s.shadow g w).toNat
  let b := 2 ^ (v % 32)
  if !s.msixOn g then s
  else if s.msixMasked g v then s.setShadow g w (word (old ||| b))
  else (s.setShadow g w (word (old - (old &&& b)))).emit (s.msixMessage g v)

/-- The completion of a command: given to the host, with the interrupt of its completion queue on NVMe. The sense data of a SATA
error stays for the host to read (R95). -/
def State.complete (s : State) (g proto queue tag status : Nat) (data : List Nat) : State :=
  let s0 := if proto = 3 && status ≠ 0 then s.setHp g { s.hp g with sense := status } else s
  let s1 := s0.emit (.host g tag status data)
  if proto ≠ 1 then s1
  else if queue = 0 then s1.sendMsix g 0
  else match spGet (s1.hp g).sqs queue with
    | none => s1
    | some q => match spGet (s1.hp g).cqs q.cq with
      | none => s1
      | some c => if c.ien then s1.sendMsix g c.vector else s1

/-- The group posts the completion of context `k` with its STATUS, unless ABANDONED. -/
def State.postCompletion (s : State) (k : Nat) (data : List Nat) : State :=
  let c := s.ctx k
  if c.has fAbandoned || 1 < c.origin then s else s.complete c.origin c.proto c.queue c.tag c.status data

/-- STATUS of context `k` written. -/
def State.setStatus (s : State) (k st : Nat) : State := s.setCtx k { s.ctx k with status := st }

/-- The group itself completes the command in context `k` (R97). -/
def State.groupComplete (s : State) (k st : Nat) : State := ((s.setStatus k st).postCompletion k []).freeCtxAt k

/-! ### A context as the 128 bytes of the context store (R132) -/

/-- The bytes of a context, little-endian. -/
def Ctx.toNat (c : Ctx) : Nat :=
  argOf [(1, c.state), (1, c.origin), (2, c.tenant), (2, c.queue), (2, c.tag), (1, c.opcode), (1, c.proto), (2, c.flags),
    (4, c.link), (16, c.target), (4, c.granOfs), (4, c.granCnt), (16, c.dptr), (8, c.staging), (4, c.rsvGran), (1, c.cls),
    (1, c.byte45), (2, c.keySlot), (16, c.place), (8, c.admitAt), (4, c.status), (4, c.retry), (24, c.fw)]

/-- A context from its bytes. -/
def ctxOfNat (v : Nat) : Ctx :=
  { state := rdLe v 0 1, origin := rdLe v 1 1, tenant := rdLe v 2 2, queue := rdLe v 4 2, tag := rdLe v 6 2,
    opcode := rdLe v 8 1, proto := rdLe v 9 1, flags := rdLe v 0xA 2, link := rdLe v 0xC 4, target := rdLe v 0x10 16,
    granOfs := rdLe v 0x20 4, granCnt := rdLe v 0x24 4, dptr := rdLe v 0x28 16, staging := rdLe v 0x38 8,
    rsvGran := rdLe v 0x40 4, cls := rdLe v 0x44 1, byte45 := rdLe v 0x45 1, keySlot := rdLe v 0x46 2,
    place := rdLe v 0x48 16, admitAt := rdLe v 0x58 8, status := rdLe v 0x60 4, retry := rdLe v 0x64 4, fw := rdLe v 0x68 24 }

/-- Byte `b` of context `k`. -/
def State.ctxByte (s : State) (k b : Nat) : Byte := BitVec.ofNat 8 (rdLe (s.ctx k).toNat b 1)

/-- Byte `b` of context `k` written by drive firmware or a Carriage beat: STATE and ORIGIN stay (R132). -/
def State.setCtxByte (s : State) (k b : Nat) (v : Byte) : State :=
  if b < 2 then s
  else
    let n := (s.ctx k).toNat
    s.setCtx k (ctxOfNat (n - rdLe n b 1 * 2 ^ (8 * b) + v.toNat * 2 ^ (8 * b)))

end Sys2Proof.Machine
end

