-- ==== Sys2Proof/Machine/StrBase.lean ====
section
/-!
DEFINITION. Sys2Proof/Machine/StrBase.lean: a sequencer's own record, and its work queue (R392).
-/

namespace Sys2Proof.Machine

/-- Sequencer `n`. -/
def State.seq (s : State) (n : Nat) : SeqState := (s.str[n]?).getD {}
def State.setSeq (s : State) (n : Nat) (x : SeqState) : State := { s with str := s.str.set n x }

/-- Kinds of work items (R392). -/
def wkRead : Nat := 1
def wkWrite : Nat := 2
def wkLadder : Nat := 3
def wkSurvey : Nat := 4
def wkFormat : Nat := 5

/-- A kind fits the sequencers of its column: WRITE_RUN and FORMAT those of actuators, the others those of slices. -/
def wkFits (n kind : Nat) : Bool :=
  if kind = wkWrite || kind = wkFormat then 8 ≤ n else if kind = wkRead || kind = wkLadder || kind = wkSurvey then n < 8 else false

/-- FREE of STRn_WQ_STAT. -/
def State.wqFree (s : State) (n : Nat) : Nat := 16 - (s.seq n).wq.length

/-- An item joins the queue of sequencer `n`. -/
def State.wqAdd (s : State) (n kind k : Nat) : State := s.setSeq n { s.seq n with wq := (s.seq n).wq ++ [(kind, k)] }

/-- The retry ladder of sequencer `n`. -/
def State.setLadder (s : State) (n : Nat) (l : Option Ladder) : State := s.setSeq n { s.seq n with ladder := l }

/-- The head item. -/
def State.wqHead (s : State) (n : Nat) : Option (Nat × Nat) := (s.seq n).wq.head?

/-- The write run at the head of STR(8 + a) begins (R104, R392). -/
def State.beginRun (s : State) (a : Nat) : State :=
  match s.wqHead (8 + a) with
  | some (kind, k) =>
    if kind = wkWrite && (s.work k).placed && !(s.work k).discarded && !s.way.orphans.any (fun q => q.1 = k && rdLe q.2.1 0 1 = a)
    then s.setWork k { s.work k with begun := true } else s
  | none => s

end Sys2Proof.Machine
end

