-- ==== Sys2Proof/Machine/WayGeo.lean ====
section
/-!
DEFINITION. Sys2Proof/Machine/WayGeo.lean: sector addresses and bands (R144 to R146), the unit states (R172), the fields of a
placement (R155), the parity of a row (R151) and the bytes of map pages (R166 to R168).
-/

namespace Sys2Proof.Machine

/-! ### Addresses and bands (R144, R145) -/

/-- The PSA value that names no sector. -/
def noPsa : Nat := 2 ^ 48 - 1

/-- PSA of sector `idx` of surface `surf`. -/
def psaOf (surf idx : Nat) : Nat := surf * 2 ^ 43 + idx

/-- Surface and sector index of a PSA. -/
def psaSurf (psa : Nat) : Nat := psa / 2 ^ 43
def psaIdx (psa : Nat) : Nat := psa % 2 ^ 43

/-- What the map holds in a PSA's place for a sector that only redundancy gives back: row `r` of member `i` of group `gn`, above every
PSA. -/
def goneKey (gn i r : Nat) : Nat := 2 ^ 48 + (gn * 16 + i) * 2 ^ 32 + r

/-- Such a value, its group, its member and its row. -/
def isGone (psa : Nat) : Bool := 2 ^ 48 ≤ psa
def goneGroup (psa : Nat) : Nat := (psa - 2 ^ 48) / 2 ^ 36
def goneMember (psa : Nat) : Nat := (psa - 2 ^ 48) / 2 ^ 32 % 16
def goneRow (psa : Nat) : Nat := (psa - 2 ^ 48) % 2 ^ 32

/-- The PSA that a record of the map shows: none for a sector that stands nowhere. -/
def shownPsa (psa : Nat) : Nat := if isGone psa then noPsa else psa

/-- Zones with their numbers of tracks. -/
def zoneTracks (tracks : Nat) : List Zone → List (Zone × Nat)
  | [] => []
  | [z] => [(z, tracks - z.start)]
  | z :: z' :: rest => (z, z'.start - z.start) :: zoneTracks tracks (z' :: rest)

/-- Tracks one band takes, its guard track included. -/
def bandStep (z : Zone) : Nat := if z.band ≤ 1 then 1 else z.band + 1

/-- Bands of a zone of `t` tracks. -/
def zoneBands (z : Zone) (t : Nat) : Nat := t / bandStep z

/-- Sectors of a band that can be written. -/
def bandSectors (z : Zone) : Nat := (max z.band 1) * z.spt

/-- A band's place: surface, first track, index of its first sector, writable sectors. -/
structure BandGeo where
  surf : Nat
  track : Nat
  first : Nat
  sectors : Nat
deriving DecidableEq, Repr

/-- Band `n` of a surface, its zones walked from the outside. -/
def bandInZones (surf : Nat) : List (Zone × Nat) → Nat → Nat → Option BandGeo
  | [], _, _ => none
  | (z, t) :: rest, base, n =>
    if n < zoneBands z t then
      some { surf, track := z.start + n * bandStep z, first := base + n * bandStep z * z.spt, sectors := bandSectors z }
    else bandInZones surf rest (base + t * z.spt) (n - zoneBands z t)

/-- Bands of a list of zones. -/
def bandsOfZones : List (Zone × Nat) → Nat
  | [] => 0
  | (z, t) :: rest => zoneBands z t + bandsOfZones rest

/-- Bands of a surface. -/
def Surface.bands (s : Surface) : Nat := bandsOfZones (zoneTracks s.tracks s.zones)

/-- Writable sectors of a surface. -/
def sectorsOfZones : List (Zone × Nat) → Nat
  | [] => 0
  | (z, t) :: rest => zoneBands z t * bandSectors z + sectorsOfZones rest
def Surface.sectors (s : Surface) : Nat := sectorsOfZones (zoneTracks s.tracks s.zones)

/-- Band `n` by its device-wide number. -/
def bandGeoIn : List Surface → Nat → Option BandGeo
  | [], _ => none
  | s :: rest, n =>
    if n < s.bands then bandInZones s.surf (zoneTracks s.tracks s.zones) 0 n else bandGeoIn rest (n - s.bands)

/-- First band number of each surface, with its number of bands. -/
def surfBandsFrom : List Surface → Nat → List (Nat × Nat × Nat)
  | [], _ => []
  | s :: rest, n => (s.surf, n, s.bands) :: surfBandsFrom rest (n + s.bands)

/-- Band within a zone list and sector in it, of a sector index; none in a guard track or a left-over track. -/
def bandAtIdx : List (Zone × Nat) → Nat → Nat → Option (Nat × Nat)
  | [], _, _ => none
  | (z, t) :: rest, n, idx =>
    if idx < t * z.spt then
      let b := idx / (bandStep z * z.spt)
      let i := idx % (bandStep z * z.spt)
      if b < zoneBands z t && i < bandSectors z then some (n + b, i) else none
    else bandAtIdx rest (n + zoneBands z t) (idx - t * z.spt)

/-- Surfaces of the applied image. -/
def State.surfaces (s : State) : List Surface := (s.kenul.map Kenul.surfaces).getD []

/-- A band's place. -/
def State.bandGeo (s : State) (n : Nat) : Option BandGeo := bandGeoIn s.surfaces n

/-- (surface, first band, bands) of every surface. -/
def State.surfBands (s : State) : List (Nat × Nat × Nat) := surfBandsFrom s.surfaces 0

/-- Band and sector in it of a PSA. -/
def State.bandOfPsa (s : State) (psa : Nat) : Option (Nat × Nat) :=
  match s.surfaces.find? fun x => x.surf = psaSurf psa, s.surfBands.find? fun x => x.1 = psaSurf psa with
  | some sf, some (_, lo, _) => bandAtIdx (zoneTracks sf.tracks sf.zones) lo (psaIdx psa)
  | _, _ => none

/-- PSA of sector `i` of band `b`. -/
def State.bandPsa (s : State) (b i : Nat) : Nat :=
  match s.bandGeo b with
  | some g => psaOf g.surf (g.first + i)
  | none => noPsa

/-! ### Surfaces, zones and tracks (R203) -/

/-- A surface of the image, a zone of it, and the zone that holds a track. -/
def State.surface (s : State) (surf : Nat) : Option Surface := s.surfaces.find? fun x => x.surf = surf
def State.zone (s : State) (surf z : Nat) : Option Zone := (s.surface surf).bind fun x => x.zones[z]?
def zoneIdx (zs : List Zone) (track : Nat) : Nat := (zs.filter fun z => z.start ≤ track).length - 1
def State.zoneOf (s : State) (surf track : Nat) : Nat := ((s.surface surf).map fun x => zoneIdx x.zones track).getD 0

/-- The target speed. -/
def State.targetRpm (s : State) : Nat := s.rf R.MIL_CFG F.MIL_CFG_TARGET_RPM

/-- A channel rate in kHz at the measured speed, by its MHz at target (R203, R213). -/
def State.kHzAt (s : State) (mhz : Nat) : Nat :=
  if s.targetRpm = 0 then 0 else mhz * 1000 * s.mil.rpmC.natAbs / (100 * s.targetRpm)

/-- The rate of the Touchstone format at target (R213, R225). -/
def touchMHz : Nat := 3072

/-- Zone, track, and sector on it, of a sector index of a surface. -/
def idxPlace : List (Zone × Nat) → Nat → Option (Zone × Nat × Nat)
  | [], _ => none
  | (z, t) :: rest, i => if i < t * z.spt then some (z, z.start + i / z.spt, i % z.spt) else idxPlace rest (i - t * z.spt)

/-- Surface, zone, track and sector of a PSA. -/
def State.psaPlace (s : State) (psa : Nat) : Option (Surface × Zone × Nat × Nat) :=
  (s.surface (psaSurf psa)).bind fun x => (idxPlace (zoneTracks x.tracks x.zones) (psaIdx psa)).map fun q => (x, q)

/-- Sector `k` of a track of zone `z` goes through the write channel at that zone's rate: `addr` is its PSA, or its SSA in the system
area, and `track` counts system tracks outward of data track 0 downwards (R205 to R211, R224). -/
def State.writeOut (s : State) (x : Surface) (z : Zone) (sys : Bool) (track : Int) (k addr user metaB : Nat) : State :=
  s.emit (.written x.surf (s.kHzAt z.rate) track
    ((trackGeo x z s.targetRpm).spans (k * codeL z.code) (sectorChannel z.code sys addr user metaB)))

/-! ### SKIP positions (R221) -/

/-- Index on its surface of a track's first sector. -/
def trackIdx : List (Zone × Nat) → Nat → Nat → Nat
  | [], base, _ => base
  | (z, t) :: rest, base, track =>
    if track < z.start + t then base + (track - z.start) * z.spt else trackIdx rest (base + t * z.spt) track

/-- Sector `i` of band `b` is a SKIP of its surface's defect list. -/
def State.isSkip (s : State) (b i : Nat) : Bool :=
  match s.bandGeo b with
  | none => false
  | some g => s.way.defects.any fun d => d.skip && d.surf = g.surf
      && (match s.surfaces.find? fun x => x.surf = g.surf with
        | some x => trackIdx (zoneTracks x.tracks x.zones) 0 d.track + d.sector = g.first + i
        | none => false)

/-- The place behind `n` sectors that hold data, from place `i` on, and behind the SKIP positions that follow them, within `f` places. -/
def skipTo (skip : Nat → Bool) : Nat → Nat → Nat → Nat
  | 0, i, _ => i
  | f + 1, i, n =>
    if skip i then skipTo skip f (i + 1) n
    else match n with
      | 0 => i
      | m + 1 => skipTo skip f (i + 1) m

/-- Writable sectors of a band. -/
def State.bandSize (s : State) (b : Nat) : Nat := ((s.bandGeo b).map BandGeo.sectors).getD 0

/-- The place of the `n`-th sector that may hold data, from place `i` of band `b` on. -/
def State.dataPlace (s : State) (b i n : Nat) : Nat := skipTo (s.isSkip b) (s.bandSize b - i) i n

/-- Sectors of band `b` that may hold data, from place `i` up to `rows`. -/
def State.dataRoom (s : State) (b i rows : Nat) : Nat := ((List.range rows).filter fun k => i ≤ k && !s.isSkip b k).length

/-- Band `b`, as the table holds it. -/
def State.band (s : State) (b : Nat) : Band := spGetD {} s.way.bands b

/-- Band `b` replaced. -/
def State.setBand (s : State) (b : Nat) (x : Band) : State :=
  { s with way := { s.way with bands := spSet {} s.way.bands b x } }

/-- Group `g`. -/
def State.group (s : State) (g : Nat) : Option Group := spGet s.way.groups g

/-- Group `g` replaced. -/
def State.setGroup (s : State) (g : Nat) (x : Group) : State :=
  { s with way := { s.way with groups := spInsert (spErase s.way.groups g) g x } }

/-! ### Unit states (R172) -/

/-- Codes of WAY_UNIT_STATE. -/
def uOut : Nat := 0
def uCal : Nat := 1
def uIn : Nat := 2
def uDrain : Nat := 3

/-- Register index and unit place of a unit: kind 0 slice, 1 head, 2 actuator. -/
def unitReg (kind unit : Nat) : Nat :=
  if kind = 0 then R.WAY_UNIT_STATE 0
  else if kind = 2 then R.WAY_UNIT_STATE 1
  else if unit < 16 then R.WAY_UNIT_STATE 2 else R.WAY_UNIT_STATE 3
def unitFld (unit : Nat) : Fld := ⟨2 * (unit % 16) + 1, 2 * (unit % 16)⟩

/-- The state of a unit; an actuator's heads follow it while it is not IN_SERVICE (R172). -/
def State.unitState (s : State) (kind unit : Nat) : Nat :=
  let act := s.rf (unitReg 2 (unit / 8)) (unitFld (unit / 8))
  if kind = 1 && act ≠ uIn then act else s.rf (unitReg kind unit) (unitFld unit)

/-- WAY_UNIT_STATE[k] as it reads: the heads of an actuator that is not IN_SERVICE follow it (R172). -/
def State.unitWord (s : State) (k : Nat) : Word :=
  if k < 2 then s.rd (R.WAY_UNIT_STATE k)
  else word ((List.range 16).foldl (fun v i => v + s.unitState 1 (16 * (k - 2) + i) * 2 ^ (2 * i)) 0)

/-- The state of a unit set. -/
def State.setUnit (s : State) (kind unit v : Nat) : State := s.wf (unitReg kind unit) (unitFld unit) v

/-- The head of surface `surf` is IN_SERVICE, its actuator too. -/
def State.headIn (s : State) (surf : Nat) : Bool := s.unitState 1 surf = uIn

/-- The head of surface `surf` can be read: IN_SERVICE or DRAINING, its actuator too. -/
def State.headReadable (s : State) (surf : Nat) : Bool := s.unitState 1 surf = uIn || s.unitState 1 surf = uDrain

/-- Surfaces in service. -/
def State.surfsIn (s : State) : List Nat := (s.surfaces.map Surface.surf).filter s.headIn

/-- Actuators in service. -/
def State.actsIn (s : State) : Nat := ((List.range 4).filter fun a => s.unitState 2 a = uIn).length

/-! ### Retention classes (R148, R150, R157) -/

/-- REDUND and SURVEY_DAYS of a class. -/
def State.redund (s : State) (c : Nat) : Nat := s.rf (R.WAY_CLASS c) F.WAY_CLASS_REDUND
def State.surveyDays (s : State) (c : Nat) : Nat := s.rf (R.WAY_CLASS c) F.WAY_CLASS_SURVEY_DAYS

/-- Data members and all members of a redundancy. -/
def dataMembers (red : Nat) : Nat := if red < 2 then 1 else 8
def allMembers (red : Nat) : Nat := match red with | 0 => 1 | 1 => 2 | 2 => 10 | _ => 11

/-- Sectors that `n` granules of a redundancy take (n × w of R157, rounded up). -/
def redundCost (red n : Nat) : Nat :=
  match red with | 0 => n | 1 => 2 * n | 2 => ceilDiv (10 * n) 8 | _ => ceilDiv (11 * n) 8

/-! ### Parity (R151) -/

/-- Multiplication by α in GF(2^8) with 0x11D. -/
def gfDouble (b : Nat) : Nat := if 128 ≤ b then ((b * 2) ^^^ 0x11D) % 256 else b * 2

/-- α^k × b. -/
def gfScale : Nat → Nat → Nat
  | 0, b => b
  | k + 1, b => gfScale k (gfDouble b)

/-- Byte by byte, α^k × D added to an accumulator, over `n` bytes. -/
def gfAddBytes (k : Nat) : Nat → Nat → Nat → Nat
  | 0, _, _ => 0
  | n + 1, d, acc => ((gfScale k (d % 256)) ^^^ (acc % 256)) + 256 * gfAddBytes k n (d / 256) (acc / 256)

/-- P[j] of a row, the data members' user bytes given in order from member `i`. -/
def parityOf (j : Nat) : List Nat → Nat → Nat
  | [], _ => 0
  | d :: rest, i => gfAddBytes (j * i) 4096 d (parityOf j rest (i + 1))

/-! ### PLACE (R155) -/

/-- The PLACE field of a placement. -/
def placeOf (act : Nat) (replaced : Bool) (count1 psa1 : Nat) (psa2 : Option Nat) : Nat :=
  argOf [(1, act), (1, b2n psa2.isSome + 2 * b2n replaced), (2, count1), (6, psa1), (6, psa2.getD (2 ^ 48 - 1))]

/-- Its fields. -/
def placeAct (p : Nat) : Nat := rdLe p 0 1
def placeSplit (p : Nat) : Bool := bitAt (rdLe p 1 1) 0
def placeReplaced (p : Nat) : Bool := bitAt (rdLe p 1 1) 1
def placeCount1 (p : Nat) : Nat := rdLe p 2 2
def placePsa1 (p : Nat) : Nat := rdLe p 4 6
def placePsa2 (p : Nat) : Nat := rdLe p 10 6

/-- The `i`-th sector that may hold data, from sector `psa` of a band on. -/
def State.runPsa (s : State) (psa i : Nat) : Nat :=
  match s.bandOfPsa psa with
  | some (b, k) => s.bandPsa b (s.dataPlace b k i)
  | none => psa + i

/-- PSA of sector `i` of a placement; a SKIP position in a run holds none of them (R221). -/
def State.placePsa (s : State) (p i : Nat) : Nat :=
  if i < placeCount1 p then s.runPsa (placePsa1 p) i else s.runPsa (placePsa2 p) (i - placeCount1 p)

/-- The DUN of a key (R423). -/
def Key.dun (k : Key) : Nat :=
  if k.kind = 1 then k.id / 2 ^ 64 * 2 ^ 64 + k.id % 2 ^ 64 / 2 ^ 32 * 2 ^ 32 + k.offset % 2 ^ 32
  else k.tenant * 2 ^ 64 + k.id % 2 ^ 64

/-! ### Map pages (R164, R166 to R168), little-endian -/

/-- Sector metadata (R164). -/
def Sector.metaBytes (x : Sector) : Nat :=
  argOf [(2, x.tenant), (1, x.kind), (1, x.cls), (8, x.wseq), (16, x.id), (4, x.offset)]

/-- A KEY. -/
def Key.bytes (k : Key) : Nat := argOf [(2, k.tenant), (1, k.kind), (1, 0), (16, k.id), (4, k.offset)]

/-- Index and run records. -/
def indexRec (k : Key) (psa : Nat) : Nat := argOf [(24, k.bytes), (6, psa), (2, 0)]
def runRec (k : Key) (psa count : Nat) : Nat := argOf [(24, k.bytes), (6, psa), (2, count)]

/-- A band record. -/
def bandRec (psa : Nat) (b : Band) : Nat :=
  let st := match b.st with
    | .free => 0 | .opened => 1 | .full => 2 | .cleaning => 3 | .map => 4 | .landing => 5 | .retired => 6
  argOf [(6, psa), (1, st), (1, b.member), (4, b.group), (4, b.wp), (4, b.last), (1, b.cls), (3, 0)]

/-- The member numbers of a group record: data members first, 0xFFFFFFFF where unused. -/
def memberFields : List (Option Nat) → Nat → List (Nat × Nat)
  | _, 0 => []
  | [], n + 1 => (4, 0xFFFFFFFF) :: memberFields [] n
  | m :: rest, n + 1 => (4, m.getD 0xFFFFFFFF) :: memberFields rest n

/-- A group record. -/
def groupRec (n : Nat) (g : Group) : Nat :=
  argOf ([(4, n), (1, g.cls), (1, g.redund), (1, g.members.length), (1, 0)] ++ memberFields g.members 11
    ++ [(4, g.rows), (4, g.parityRows), (4, 0)])

/-- An object record. -/
def objectRec (t id len cls st created surveyed granules : Nat) : Nat :=
  argOf [(24, Key.bytes ⟨t, 1, id, 0xFFFFFFFF⟩), (8, len), (1, cls), (1, st), (2, 0), (8, created), (8, surveyed),
    (4, granules), (8, 0)]

/-- A map page: header, records, CRC-32C over the page with the CRC field zero. -/
def mapPage (typ level ckseq size : Nat) (recs : List Nat) : Nat :=
  let body := argOf ([(2, typ), (2, recs.length), (1, level), (3, 0), (4, ckseq), (4, 0)] ++ recs.map fun r => (size, r))
  body + 2 ^ 96 * crc32c body 4096

/-- The end page. -/
def endPage (seq wseq root table tables prev : Nat) : Nat :=
  let body := argOf [(2, 0xFF), (2, 0), (1, 0), (3, 0), (4, seq), (4, 0), (8, seq), (8, wseq), (6, root), (2, 0),
    (6, table), (2, 0), (4, tables), (6, prev), (2, 0)]
  body + 2 ^ 96 * crc32c body 4096

end Sys2Proof.Machine
end

