-- ==== Sys2Proof/Machine/HbmEcc.lean ====
section
/-!
DEFINITION. Sys2Proof/Machine/HbmEcc.lean: the Reed-Solomon code of a stored granule (R343) and its decoder (R344). The code is
linear, so the difference between the stored codeword and the one written decides every outcome; a granule carries that difference.
Symbol `i` stands at bits 8i+7..8i, and is the coefficient of x^(71-i) (DEDUCED: the check symbols of g(x) come last).
-/

namespace Sys2Proof.Machine

/-- Symbols of a codeword, and those of data. -/
def rsLen : Nat := 72

/-- Symbol `i`. -/
def rsSym (e i : Nat) : Nat := e / 2 ^ (8 * i) % 256

/-- Syndrome `j`: the codeword at α^j. -/
def rsSyn (e j : Nat) : Nat := (List.range rsLen).foldl (fun a i => gfScale j a ^^^ rsSym e i) 0

/-- The seven syndromes. -/
def rsSyns (e : Nat) : List Nat := (List.range 7).map (rsSyn e)

/-- Product in GF(2^8), over the low `n` bits of the first factor. -/
def gfMul : Nat → Nat → Nat → Nat
  | 0, _, _ => 0
  | n + 1, a, b => (if a % 2 = 1 then b else 0) ^^^ gfMul n (a / 2) (gfDouble b)

/-- a to the power 2^k, times the powers below it: a^(2^k - 1). -/
def gfOnes : Nat → Nat → Nat
  | 0, _ => 1
  | k + 1, a => let r := gfOnes k a; gfMul 8 (gfMul 8 r r) a

/-- The inverse of `a`, a^254. -/
def gfInv (a : Nat) : Nat := let r := gfOnes 7 a; gfMul 8 r r

/-- α^(71-p), the locator of symbol `p`. -/
def rsLoc (p : Nat) : Nat := gfScale (71 - p) 1

/-- Each value is the one before it times `x`. -/
def gfGeometric (x : Nat) : List Nat → Bool
  | a :: b :: rest => gfMul 8 a x = b && gfGeometric x (b :: rest)
  | _ => true

/-- What is left of the syndromes once symbol `p` is taken out: S_(j+1) + α^(71-p) S_j. -/
def rsDrop (x : Nat) : List Nat → List Nat
  | a :: b :: rest => (b ^^^ gfMul 8 a x) :: rsDrop x (b :: rest)
  | _ => []

/-- The one symbol whose error gives the syndromes. -/
def rsOne (ss : List Nat) : Option Nat :=
  ((List.range rsLen).find? fun p => ss.headD 0 ≠ 0 && gfGeometric (rsLoc p) ss).map fun p => ss.headD 0 * 2 ^ (8 * p)

/-- The second symbol, given the first. -/
def rsPartner (ss : List Nat) (p : Nat) : Option Nat :=
  let ts := rsDrop (rsLoc p) ss
  (List.range rsLen).find? fun q => p < q && ts.headD 0 ≠ 0 && gfGeometric (rsLoc q) ts

/-- The two symbols whose errors give the syndromes. -/
def rsTwo (ss : List Nat) : Option Nat :=
  (List.range rsLen).findSome? fun p => (rsPartner ss p).bind fun q =>
    let v := gfMul 8 ((rsDrop (rsLoc p) ss).headD 0) (gfInv (rsLoc q ^^^ rsLoc p))
    let u := ss.headD 0 ^^^ v
    if u = 0 then none else some (u * 2 ^ (8 * p) + v * 2 ^ (8 * q))

/-- The first `n` check symbols complemented (R349). -/
def rsInject (n : Nat) : Nat := (2 ^ (8 * n) - 1) * 2 ^ (8 * 65)

/-- The poison pattern: every check symbol complemented (R344). -/
def rsPoison : Nat := rsInject 7

/-- The outcomes of a decode, the correction with its count of symbols. -/
inductive RsOut where
  | clean
  | corrected (n pattern : Nat)
  | uncorrectable
  | poison
deriving DecidableEq, Repr

/-- A decode, poison tested before any correction (R344). -/
def rsDecode (e : Nat) : RsOut :=
  if e = 0 then .clean
  else
    let ss := rsSyns e
    if ss.all fun x => x = 0 then .clean
    else if ss = rsSyns rsPoison then .poison
    else match rsOne ss with
      | some p => .corrected 1 p
      | none => match rsTwo ss with
        | some p => .corrected 2 p
        | none => .uncorrectable

end Sys2Proof.Machine
end

