-- ==== Sys2Proof/Machine/Operands.lean ====
section
/-!
DEFINITION. Sys2Proof/Machine/Operands.lean: the operand of a register write: which values are legal, what is stored of a
value outside a field's limits, and the fields a write of each access type leaves (R11, R12, R14).
-/

namespace Sys2Proof.Machine

/-- The value stored in an RW field: the nearer limit when outside. -/
def storedOf (f : FieldDesc) (v : Nat) : Nat := clampNat f.cmin f.cmax v

/-- One field's part of a write, by access type (R11). -/
def fieldWrite (v : Word) (old : Word) (f : FieldDesc) : Word :=
  let p : Fld := ⟨f.hi, f.lo⟩
  match f.acc with
  | .rw => fset old p (storedOf f (fget v p))
  | .ro => old
  | .wo => old
  | .w1c => fset old p (fget old p - (fget old p &&& fget v p))
  | .w1s => fset old p (fget old p ||| fget v p)

/-- The register's value after a write of `v`; reserved bits keep reading zero (R12). -/
def applyFields (d : RegDesc) (old v : Word) : Word := d.fields.foldl (fieldWrite v) old

/-- No field is written with a value the register line calls a violation (R14). -/
def legalFields (d : RegDesc) (v : Word) : Bool :=
  d.fields.all fun f =>
    let x := fget v ⟨f.hi, f.lo⟩
    match f.acc with
    | .rw => f.vmin ≤ x && x ≤ f.vmax
    | _ => true

/-- A write of `v` to the register at `off` by access type; nothing where no register is or the value is a violation. -/
def State.writeFields (s : State) (off : Nat) (v : Word) : State :=
  match findReg off with
  | none => s
  | some (d, _) => if legalFields d v then s.wr off (applyFields d (s.rd off) v) else s

end Sys2Proof.Machine
end

