-- ==== Sys2Proof/Machine/KeyOps.lean ====
section
/-!
DEFINITION. Sys2Proof/Machine/KeyOps.lean: Obsidian's key slots (R419 to R422), and the cipher of a sector's user bytes under them
(R423).
-/

namespace Sys2Proof.Machine

/-! ### Key slots -/

/-- Key slot states of OBS_KEY_STATE. -/
def ksEmpty : Nat := 0
def ksLoaded : Nat := 1
def ksLost : Nat := 2

/-- The field of OBS_KEY_STATE that holds slot `k`'s state. -/
def ksFld (k : Nat) : Fld := ⟨2 * (k % 16) + 1, 2 * (k % 16)⟩

/-- The state of slot `k`. -/
def State.keyState (s : State) (k : Nat) : Nat := s.rf (R.OBS_KEY_STATE (k / 16)) (ksFld k)

/-- The 512 bits of slot `k`. -/
def State.keyBits (s : State) (k : Nat) : Nat := spGetD 0 s.obs.keys k

/-- K1 or K2 of 512 key bits. -/
def keyHalf (b : Nat) (k2 : Bool) : Nat := if k2 then b / 2 ^ 256 else b % 2 ^ 256

/-- Slot `k` given a state and key bits. -/
def State.setKey (s : State) (k st bits : Nat) : State :=
  { s with obs := { s.obs with keys := spSet 0 s.obs.keys k bits } }.wf (R.OBS_KEY_STATE (k / 16)) (ksFld k) st

/-- A double-bit error in the storage of slot `k` (R359, R422). -/
def State.keyLost (s : State) (k : Nat) (inj : Bool) : State :=
  ((s.setKey k ksLost 0).raise R.OBS_EVT F.OBS_EVT_KEY_LOST).carry 5 2 inj

/-- A read of slot `k`'s storage; `upset`: a word of it has a double-bit error (R359, R422, R449). -/
def State.keyCheck (s : State) (k : Nat) (upset : Bool) : State :=
  if s.keyState k ≠ ksLoaded then s
  else
    let q := s.eccCheck [4, 5] (if upset then 2 else 0)
    match q.1 with
    | 0 => q.2.2
    | 1 => q.2.2.carry 4 1 q.2.1
    | _ => q.2.2.keyLost k q.2.1

/-- The resource a slot belongs to (R420). -/
def keyRes (k : Nat) : Nat := 0x0900 + k / 64

/-- Slot `k` is usable by raw port `p` (R420). -/
def State.portMayUse (s : State) (p k : Nat) : Bool :=
  let o := s.owner (keyRes k)
  o = 0x43 || (p = 0 && o = 0x01) || (p = 1 && o = 0x02) || (2 ≤ p && o = 0x10 + (p - 2))

/-- A use of an EMPTY or LOST slot (R422). -/
def State.noKey (s : State) : State := (s.raise R.OBS_EVT F.OBS_EVT_NO_KEY).countUp R.OBS_CNT F.OBS_CNT_NO_KEY 1

/-- What a sequencer's use of a slot meets (R420, R422). -/
inductive KeyUse where
  | foreign
  | missing
  | key (bits : Nat)
deriving DecidableEq, Repr

/-- The state and bits a slot has once the key commands that wait for it have been applied (R421). -/
def State.keyAfter (s : State) (k : Nat) : Nat × Nat :=
  match (s.obs.cmds.filter fun c => c.slot = k).getLast? with
  | none => (s.keyState k, s.keyBits k)
  | some c => match c.load with
    | some b => (ksLoaded, b)
    | none => (ksEmpty, 0)

/-- A nano-word AES action of sequencer `n` on slot `k`; `upset`: its storage shows a double-bit error. -/
def State.seqKey (s : State) (n k : Nat) (upset : Bool) : KeyUse × State :=
  if !s.portMayUse (2 + n) k then (.foreign, s)
  else
    let s1 := s.keyCheck k upset
    let q := s1.keyAfter k
    if q.1 = ksLoaded then (.key q.2, s1) else (.missing, s1.noKey)

/-! ### The data path (R423) -/

/-- The slot number that stands for plaintext (R132). -/
def noSlot : Nat := 0xFFFF

/-- What a use of slot `k` by sequencer `n` would meet, without its events. -/
def State.keyFor (s : State) (n k : Nat) : KeyUse :=
  if !s.portMayUse (2 + n) k then .foreign
  else
    let q := s.keyAfter k
    if q.1 = ksLoaded then .key q.2 else .missing

/-- The sequencer that reads for a host: one of the read sequencers that may use the slot, where there is one (DESIGN CHOICE: drive
firmware picks the sequencer of a read). -/
def State.readSeq (s : State) (k : Nat) : Nat := ((List.range 8).find? fun n => s.portMayUse (2 + n) k).getD 0

/-- The bytes as they go to media, by sequencer `n`: ciphertext, zeros under a slot it may not use, or as they are. -/
def State.cipher (s : State) (n slot dun data : Nat) : Nat :=
  if slot = noSlot then data
  else match s.keyFor n slot with
    | .key bits => xtsSector 1 bits dun data
    | _ => 0

/-- The bytes as a read returns them. -/
def State.decipher (s : State) (slot dun data : Nat) : Nat :=
  if slot = noSlot then data
  else match s.keyFor (s.readSeq slot) slot with
    | .key bits => xtsSector 2 bits dun data
    | _ => 0

/-- A slot that is EMPTY or LOST: nothing is written or returned under it (R422). -/
def State.keyMissing (s : State) (n slot : Nat) : Bool := slot ≠ noSlot && s.keyFor n slot = .missing

end Sys2Proof.Machine
end

