-- ==== Sys2Proof/Machine/WayOps.lean ====
section
/-!
DEFINITION. Sys2Proof/Machine/WayOps.lean: the shared operations of Waymark: MEDIA readiness, the map, free bands and capacity,
forming groups and placing (R149 to R157), commit with parity (R142, R152, R153, R165), and the capacity registers.
-/

namespace Sys2Proof.Machine

/-- A Signpost source raised by an event (R379, R380). -/
def State.sigEvent (s : State) (n : Nat) : State :=
  if s.sigEvents.contains n then s else { s with sigEvents := n :: s.sigEvents }

/-! ### MEDIA (R35, R80, R81, R83, R176) -/

/-- The heads of some actuator in service are loaded and ready. -/
def State.someAct (s : State) : Bool :=
  (List.finRange 4).any fun a => s.ready (.act a) && s.unitState 2 a.val = uIn

/-- Media I/O may be admitted. -/
def State.mediaOk (s : State) : Bool :=
  s.ready .waymark && s.someAct && !s.sys.heldData && s.mode ≠ mHaven && !s.dormantEntry
    && (s.mode ≠ mDormant || s.sys.trans = .toService)

/-- MEDIA follows its conditions; a return from Dormant to Service ends when it sets. -/
def State.refreshMedia (s : State) : State :=
  let s1 := s.setReady .media s.mediaOk
  if s1.sys.trans = .toService && s1.ready .media then
    { s1 with sys := { s1.sys with trans := .none } }.modeDone mService
  else s1

/-! ### Map -/

/-- The sector a key is mapped to. -/
def State.mapped (s : State) (k : Key) : Option Nat := (s.way.map.find? fun q => q.1 = k).map Prod.snd

/-- Key `k` mapped to `psa`. -/
def State.setMap (s : State) (k : Key) (psa : Nat) : State :=
  { s with way := { s.way with map := (k, psa) :: s.way.map.filter (fun q => q.1 ≠ k),
                               lost := if s.mapped k = some psa then s.way.lost else s.way.lost.filter (· ≠ k) } }

/-- The mappings that satisfy `p` removed. -/
def State.unmap (s : State) (p : Key → Bool) : State :=
  { s with way := { s.way with map := s.way.map.filter (fun q => !p q.1), lost := s.way.lost.filter (fun k => !p k) } }

/-- Mappings that satisfy `p`. -/
def State.countMap (s : State) (p : Key → Bool) : Nat := (s.way.map.filter fun q => p q.1).length

/-- Bits of one sector. -/
def sectorBits : Nat := 32768

/-- The sector a value of the map names: on media, or what redundancy gives back of a member lost with a unit (R174). -/
def State.sectorAt (s : State) (psa : Nat) : Option Sector := spGet (if isGone psa then s.way.gone else s.way.media) psa

/-- User bytes of sector `psa`; zero where nothing was written. -/
def State.sectorData (s : State) (psa : Nat) : Nat := ((s.sectorAt psa).map Sector.data).getD 0

/-- The bytes a key is stored as: the mapped sector's, or zero (R120, R123). -/
def State.storedKey (s : State) (k : Key) : Nat := ((s.mapped k).map s.sectorData).getD 0

/-- What a key reads as under key slot `slot` (R423). -/
def State.readKey (s : State) (slot : Nat) (k : Key) : Nat :=
  match s.mapped k with
  | some psa => s.decipher slot k.dun (s.sectorData psa)
  | none => 0

/-- A tenant's view: true for objects. -/
def State.objView (s : State) (t : Nat) : Bool := s.flag (R.WAY_TEN_CFG (t - 1)) F.WAY_TEN_CFG_VIEW

/-- The key of granule `i` of a command (R127, R132, R167). -/
def State.ctxKey (s : State) (c : Ctx) (i : Nat) : Key :=
  if s.objView c.tenant then ⟨c.tenant, 1, c.target, c.granOfs + i⟩ else ⟨c.tenant, 0, c.target % 2 ^ 64 + i, 0⟩

/-- The keys of a command's range. -/
def State.ctxKeys (s : State) (c : Ctx) : List Key := (List.range c.granCnt).map (s.ctxKey c)

/-! ### Free bands and capacity (R145, R157) -/

/-- The first FREE band of `n` bands from `lo`. -/
def State.freeBandFrom (s : State) : Nat → Nat → Option Nat
  | _, 0 => none
  | lo, n + 1 => if (s.band lo).st = .free then some lo else s.freeBandFrom (lo + 1) n

/-- The outermost FREE band of a surface. -/
def State.freeBandOn (s : State) (surf : Nat) : Option Nat :=
  match s.surfBands.find? fun x => x.1 = surf with
  | some (_, lo, n) => s.freeBandFrom lo n
  | none => none

/-- FREE bands of a surface: those listed with another state are subtracted. -/
def State.freeBandsOn (s : State) (surf : Nat) : Nat :=
  match s.surfBands.find? fun x => x.1 = surf with
  | some (_, lo, n) =>
    n - (s.way.bands.filter fun q => lo ≤ q.1 && q.1 < lo + n && decide (q.2.st ≠ .free)).length
  | none => 0

/-- FREE_BANDS of an actuator. -/
def State.freeBandsAct (s : State) (a : Nat) : Nat :=
  (((List.range 8).map fun h => a * 8 + h).filter s.headIn).foldl (fun n x => n + s.freeBandsOn x) 0

/-- The surface of a band. -/
def State.bandSurf (s : State) (b : Nat) : Nat := ((s.bandGeo b).map BandGeo.surf).getD 0

/-- Sum over listed bands on heads in service that satisfy `p`, of their sizes. -/
def State.sumBands (s : State) (p : Band → Bool) : Nat :=
  (s.way.bands.filter fun q => p q.2 && s.headIn (s.bandSurf q.1)).foldl (fun n q => n + s.bandSize q.1) 0

/-- Sectors of every band on heads in service. -/
def State.totalSectors (s : State) : Nat :=
  (s.surfaces.filter fun x => s.headIn x.surf).foldl (fun n x => n + x.sectors) 0

/-- CAP (R157): without MAP, LANDING and cleaning-reserve bands. Which bands make the reserve is left open. -/
def State.capSectors (s : State) : Nat :=
  s.totalSectors - s.sumBands (fun b => decide (b.st = .map ∨ b.st = .landing ∨ b.st = .retired))
    - (((List.range 4).filter fun a => s.unitState 2 a = uIn).foldl
        (fun n a => n + Config.cleanReserve a (s.rf R.WAY_CLEAN_CTL F.WAY_CLEAN_CTL_FLOOR)) 0)

/-- Present members of a group. -/
def Group.present (g : Group) : List Nat := g.members.filterMap id

/-- Present data members of a group. -/
def Group.dataBands (g : Group) : List Nat := (g.members.take (dataMembers g.redund)).filterMap id

/-- FREE (R157): FREE bands, and unwritten sectors below ROWS in OPEN members. -/
def State.freeSectors (s : State) : Nat :=
  (s.totalSectors - s.sumBands fun b => decide (b.st ≠ .free))
    + ((s.way.groups.filter fun q => decide (q.2.st = .opened)).foldl
        (fun n q => q.2.present.foldl (fun m b => m + (q.2.rows - (s.band b).wp)) n) 0)

/-- A mapping lies in band `b`. -/
def State.mappedIn (s : State) (b : Nat) : List (Key × Nat) :=
  match s.bandGeo b with
  | some g => s.way.map.filter fun q =>
      psaSurf q.2 = g.surf && g.first ≤ psaIdx q.2 && psaIdx q.2 < g.first + g.sectors
  | none => []

/-- Sectors of band `b` that stand on media. -/
def State.writtenIn (s : State) (b : Nat) : Nat :=
  match s.bandGeo b with
  | some g => (s.way.media.filter fun q =>
      psaSurf q.1 = g.surf && g.first ≤ psaIdx q.1 && psaIdx q.1 < g.first + g.sectors).length
  | none => 0

/-- STALE (R157): data sectors of FULL and OPEN groups that no mapping names; in an OPEN group the written ones, as the others count as
FREE, in a FULL one all of its rows. -/
def State.staleSectors (s : State) : Nat :=
  (s.way.groups.filter fun q => decide (q.2.st = .opened ∨ q.2.st = .full)).foldl
    (fun n q => q.2.dataBands.foldl (fun m b =>
      m + ((if q.2.st = .full then q.2.rows else s.writtenIn b) - (s.mappedIn b).length)) n) 0

/-- CAP changed between two states: source WAY_CAP_CHANGE (R157). -/
def State.capWatch (new old : State) : State := if new.capSectors = old.capSectors then new else new.sigEvent 15

/-- RSV over all tenants. -/
def State.rsvAll (s : State) : Nat := (List.range 256).foldl (fun n t => n + s.tenRsv (t + 1)) 0

/-- The capacity test of R157 for `n` new granules of class `c`. -/
def State.capacityOk (s : State) (c n : Nat) : Bool :=
  s.rsvAll + redundCost (s.redund c) n ≤ s.freeSectors + s.staleSectors

/-- Class `c` can be placed on the surfaces in service (R150). -/
def State.classOk (s : State) (c : Nat) : Bool := allMembers (s.redund c) ≤ s.surfsIn.length

/-! ### Forming a group (R149, R150) -/

/-- Members already chosen on actuator `a`. -/
def onAct (chosen : List Nat) (a : Nat) : Nat := (chosen.filter fun x => x / 8 = a).length

/-- FREE bands of actuator `a` that a placement may open: bands below FLOOR are kept for cleaning copies (R158). -/
def State.actRoom (s : State) (cleaning : Bool) (a : Nat) : Nat :=
  if cleaning then s.freeBandsAct a else s.freeBandsAct a - s.rf R.WAY_CLEAN_CTL F.WAY_CLEAN_CTL_FLOOR

/-- `n` surfaces chosen among `elig`, at most `limit` of an actuator's on it; the order is the device's choice. -/
def State.chooseSurfs (s : State) (elig : List Nat) (limit : Nat → Nat) : Nat → List Nat → Nat → List Nat
  | 0, chosen, _ => chosen
  | n + 1, chosen, fresh =>
    let av := elig.filter fun x => !chosen.contains x && onAct chosen (x / 8) < limit (x / 8)
    match av[Config.freeChoice av.length fresh % av.length]? with
    | some x => s.chooseSurfs elig limit n (chosen ++ [x]) (fresh + 1)
    | none => chosen

/-- Surfaces in service with a FREE band. -/
def State.freeSurfs (s : State) : List Nat := s.surfsIn.filter fun x => (s.freeBandOn x).isSome

/-- The bands of chosen surfaces put into group `g` as members from `i` on. -/
def State.openBands (s : State) (g cls : Nat) : List Nat → Nat → State
  | [], _ => s
  | b :: rest, i =>
    (s.setBand b { st := .opened, group := g, member := i, last := s.crn.minutes, cls }).openBands g cls rest (i + 1)

/-- The smallest of a list of sizes. -/
def minOf (l : List Nat) : Nat := l.foldl min (l.headD 0)

/-- The mappings of sectors lost with a unit, of member `i` of group `gn`. -/
def State.goneIn (s : State) (gn i : Nat) : List (Key × Nat) :=
  s.way.map.filter fun q => isGone q.2 && goneGroup q.2 = gn && goneMember q.2 = i

/-- Group `gn` lacks a member: one it was formed without, a parity member or copy lost with a unit, or a lost data member whose sectors
are not all rebuilt (R150, R174). -/
def State.lacking (s : State) (gn : Nat) (g : Group) : Bool :=
  ((g.members.zip (List.range g.members.length)).any fun q =>
      q.1.isNone && (!g.gone.contains q.2 || dataMembers g.redund ≤ q.2))
    || g.gone.any fun i => i < dataMembers g.redund && s.goneIn gn i ≠ []

/-- WAY_DEGRADED counts the groups that lack a member. -/
def State.countDegraded (s : State) : State :=
  s.wr R.WAY_DEGRADED (word (s.way.groups.filter fun q => s.lacking q.1 q.2).length)

/-- Group formed of the outermost FREE bands of `surfs`, missing members recorded; `clean` where bands below FLOOR were taken. -/
def State.makeGroup (s : State) (cls : Nat) (clean : Bool) (surfs : List Nat) : State :=
  let bands := surfs.filterMap s.freeBandOn
  let need := allMembers (s.redund cls)
  let g := s.way.nextGroup
  let grp : Group :=
    { cls, redund := s.redund cls, rows := minOf (bands.map s.bandSize), clean,
      members := (bands.map some ++ List.replicate need none).take need }
  let s1 := (s.openBands g cls bands 0).setGroup g grp
  { s1 with fresh := s1.fresh + need,
            way := { s1.way with nextGroup := g + 1, opened := s1.way.opened + bands.length } }.countDegraded

/-- The surfaces of a group of class `cls` within the FREE bands that `room` leaves each actuator; a degraded group, without the limit of
R149, when fewer surfaces are in service than the class has members; none when the FREE bands fall short. -/
def State.groupSurfs (s : State) (cls : Nat) (room : Nat → Nat) : Option (List Nat) :=
  let need := allMembers (s.redund cls)
  let degraded := decide (s.surfsIn.length < need)
  let per := ceilDiv need (max 1 s.actsIn)
  let got := s.chooseSurfs s.freeSurfs (fun a => if degraded then room a else min per (room a)) need [] s.fresh
  if (degraded && got ≠ []) || got.length = need then some got else none

/-- A group formed for class `cls`. Bands below FLOOR are taken for a cleaning copy only where the others fall short, and the group then
takes nothing else (R158). -/
def State.formGroup (s : State) (cls : Nat) (cleaning : Bool) : Option State :=
  match s.groupSurfs cls (s.actRoom false) with
  | some l => some (s.makeGroup cls false l)
  | none => if cleaning then (s.groupSurfs cls (s.actRoom true)).map (s.makeGroup cls true) else none

/-! ### Choosing a member (R154) -/

/-- A data member that could take a placement. -/
structure Cand where
  group : Nat
  band : Nat
  surf : Nat
  lag : Nat
  room : Nat
deriving DecidableEq, Repr

/-- Where the next placement in band `b` goes: behind what is placed there, on a place that may hold data. -/
def State.claimed (s : State) (b : Nat) : Nat := s.dataPlace b (max (s.band b).wp (s.band b).next) 0

/-- The LANDING band of actuator `a`. -/
def State.landingOf (s : State) (a : Nat) : Option Nat :=
  (s.way.bands.find? fun q => decide (q.2.st = .landing) && s.bandSurf q.1 / 8 = a).map Prod.fst

/-- The candidates of class `cls`: data members of OPEN groups on heads in service; WP counts what is placed (R154). -/
def State.candidates (s : State) (cls : Nat) (cleaning : Bool) : List Cand :=
  (s.way.groups.filter fun q => decide (q.2.st = .opened) && q.2.cls = cls && (cleaning || !q.2.clean)).flatMap fun q =>
    let low := minOf (q.2.dataBands.map s.claimed)
    (q.2.dataBands.filter fun b => s.headIn (s.bandSurf b)).map fun b =>
      { group := q.1, band := b, surf := s.bandSurf b, lag := s.claimed b - low, room := s.dataRoom b (s.claimed b) q.2.rows }

/-- Lexicographic order. -/
def lexLt : List Nat → List Nat → Bool
  | a :: as, b :: bs => a < b || (a = b && lexLt as bs)
  | _, _ => false

/-- PENDING of an actuator. -/
def State.pendingOf (s : State) (a : Nat) : Nat := spGetD 0 s.way.pend a

/-- The order of R154. -/
def State.candKey (s : State) (c : Cand) : List Nat := [s.pendingOf (c.surf / 8), c.lag, c.surf / 8, c.surf % 8]

/-- The least candidate. -/
def State.bestCand (s : State) : List Cand → Option Cand
  | [] => none
  | c :: rest => match s.bestCand rest with
    | none => some c
    | some d => if lexLt (s.candKey d) (s.candKey c) then some d else some c

/-- Candidates of M for `n` sectors. -/
def State.fitting (s : State) (cls n : Nat) (cleaning : Bool) : List Cand :=
  let all := s.candidates cls cleaning
  all.filter fun m => n ≤ m.room || (0 < m.room
    && all.any fun o => o.band ≠ m.band && o.surf / 8 = m.surf / 8 && n - m.room ≤ o.room)

/-- The present members of a group become FULL with it. -/
def State.fillGroup (s : State) (gn : Nat) (g : Group) : State :=
  g.present.foldl (fun t x => t.setBand x { t.band x with st := .full }) (s.setGroup gn { g with st := .full })

/-- The sector at `psa` goes through the write channel of its actuator. -/
def State.sendSector (s : State) (psa : Nat) (x : Sector) : State :=
  match s.psaPlace psa with
  | some (sf, z, track, k) => s.writeOut sf z false track k psa x.data x.metaBytes
  | none => s

/-- A sector written to `psa` with the next WSEQ. -/
def State.putSector (s : State) (psa : Nat) (x : Sector) : State :=
  let y := { x with wseq := s.way.wseq }
  { s with way := { s.way with media := spInsert (spErase s.way.media psa) psa y, wseq := s.way.wseq + 1 } }.sendSector psa y

/-- `n` places of band `b` from `i` on written with PAD sectors: the group in bytes 0 to 3 of ID, the row in bytes 4 to 7 (R164, R221). -/
def State.padPlaces (s : State) (b : Nat) : Nat → Nat → State
  | _, 0 => s
  | i, n + 1 =>
    (s.putSector (s.bandPsa b i) { kind := 4, cls := (s.band b).cls, id := (s.band b).group + i * 2 ^ 32 }).padPlaces b (i + 1) n

/-- Place `j` of band `b` written at its write pointer, one sector after another and never behind it (R146): the places before it that
nothing has been written to, SKIP positions among them, get PAD sectors, and so do the SKIP positions that follow it. -/
def State.writeAt (s : State) (b j : Nat) (x : Sector) : State :=
  let i := (s.band b).wp
  if j < i then s
  else
    let t := (s.padPlaces b i (j - i)).putSector (s.bandPsa b j) x
    let e := t.dataPlace b (j + 1) 0
    let u := t.padPlaces b (j + 1) (e - (j + 1))
    u.setBand b { u.band b with wp := e, next := max e (u.band b).next }

/-- `n` sectors of band `b` placed behind what is placed there. -/
def State.takePlaces (s : State) (b n : Nat) : State := s.setBand b { s.band b with next := s.dataPlace b (s.claimed b) n }

/-- A group whose data members have no room left to write is FULL (R147). -/
def State.fullCheck (s : State) (gn : Nat) : State :=
  match s.group gn with
  | none => s
  | some g =>
    if g.st = .opened && g.dataBands.all (fun x => s.dataRoom x (s.band x).wp g.rows = 0) then s.fillGroup gn g else s

/-- PENDING of an actuator raised. -/
def State.addPending (s : State) (a n : Nat) : State :=
  { s with way := { s.way with pend := spSet 0 s.way.pend a (s.pendingOf a + n) } }
def State.subPending (s : State) (a n : Nat) : State :=
  { s with way := { s.way with pend := spSet 0 s.way.pend a (s.pendingOf a - n) } }

/-- OPEN groups of a class. -/
def State.openGroups (s : State) (cls : Nat) : List Nat :=
  (s.way.groups.filter fun q => decide (q.2.st = .opened) && q.2.cls = cls).map Prod.fst

/-- Two OPEN groups of the class stand and neither has room: the older closes, so that a new one may open (R149). -/
def State.closeOldest (s : State) (cls : Nat) : State :=
  match s.openGroups cls with
  | g :: _ :: _ => match s.group g with
    | some grp => s.fillGroup g grp
    | none => s
  | _ => s

/-- M of R154 for `n` sectors of class `cls`, after forming a group when it is empty. -/
def State.withRoom (s : State) (cls n : Nat) (cleaning : Bool) : State :=
  if s.fitting cls n cleaning ≠ [] then s
  else match (s.closeOldest cls).formGroup cls cleaning with
    | some t => t
    | none => s

/-- The placement of `n` sectors of class `cls`: its PLACE value, with the sectors placed; none while it must wait. -/
def State.place (s : State) (cls n : Nat) (replaced cleaning : Bool) : Option (Nat × State) :=
  let s1 := s.withRoom cls n cleaning
  match s1.bestCand (s1.fitting cls n cleaning) with
  | none => none
  | some m =>
    let n1 := min n m.room
    let a := m.surf / 8
    let psa1 := s1.bandPsa m.band (s1.claimed m.band)
    let s2 := (s1.takePlaces m.band n1).addPending a n
    if n1 = n then some (placeOf a replaced n1 psa1 none, s2)
    else match s1.bestCand ((s1.candidates cls cleaning).filter fun o =>
        o.band ≠ m.band && o.surf / 8 = a && n - n1 ≤ o.room) with
      | none => none
      | some o => some (placeOf a replaced n1 psa1 (some (s1.bandPsa o.band (s1.claimed o.band))),
                        s2.takePlaces o.band (n - n1))

/-! ### Writing sectors, rows and parity (R151 to R153, R164, R165) -/

/-- Sector `r` of band `b` stands on media. -/
def State.written (s : State) (b r : Nat) : Bool := (spGet s.way.media (s.bandPsa b r)).isSome

/-- The sector of member `i` of group `gn` in row `r`, be the member lost with a unit. -/
def State.memberSector (s : State) (gn : Nat) (g : Group) (i r : Nat) : Option Sector :=
  match (g.members[i]?).join with
  | some b => spGet s.way.media (s.bandPsa b r)
  | none => if g.gone.contains i then spGet s.way.gone (goneKey gn i r) else none

/-- Data of member `i` in row `r`: zero where the group was formed without it, where it holds a PAD sector, and where nothing was
written. A member lost with a unit keeps its part in the sums (R151, R153). -/
def State.rowData (s : State) (gn : Nat) (g : Group) (r i : Nat) : Nat :=
  match s.memberSector gn g i r with
  | some x => if x.kind = 4 then 0 else x.data
  | none => 0

/-- Every present data member has written row `r`. -/
def State.rowWritten (s : State) (g : Group) (r : Nat) : Bool := g.dataBands.all fun b => s.written b r

/-- Redundancy content of member `j` of a row. -/
def State.rowParity (s : State) (gn : Nat) (g : Group) (j r : Nat) : Nat :=
  let d := (List.range (dataMembers g.redund)).map (s.rowData gn g r)
  if g.redund = 1 then d.headD 0 else parityOf j d 0

/-- The sector of parity member `j`, or of the copy, in row `r`, written to band `b` at its WP. -/
def State.putParity (s : State) (gn : Nat) (g : Group) (r j b : Nat) : State :=
  s.writeAt b r
    (if s.isSkip b r then { kind := 4, cls := g.cls, id := gn + r * 2 ^ 32 }
     else { tenant := 0, kind := if g.redund = 1 then 5 else 2, cls := g.cls, id := gn + r * 2 ^ 32,
            offset := if g.redund = 1 then 0 else j, data := s.rowParity gn g j r })

/-- The parity members, or the copy, of row `r` written; `j` counts them. -/
def State.writeParity (s : State) (gn : Nat) (g : Group) (r : Nat) : List (Option Nat) → Nat → State
  | [], _ => s
  | m :: rest, j =>
    (match m with
      | none => s
      | some b => s.putParity gn g r j b).writeParity gn g r rest (j + 1)

/-- Rows whose last data sector has committed get their parity or copy, in the order of rows: a band is written at its WP alone
(R146, R152). At most `n` rows. -/
def State.finishRows (s : State) (gn : Nat) : Nat → State
  | 0 => s
  | n + 1 =>
    match s.group gn with
    | none => s
    | some g =>
      if g.redund = 0 || g.rows ≤ g.parityRows || !s.rowWritten g g.parityRows then s
      else
        let s1 := s.writeParity gn g g.parityRows (g.members.drop (dataMembers g.redund)) 0
        (match s1.group gn with
          | some g1 => s1.setGroup gn { g1 with parityRows := g1.parityRows + 1 }
          | none => s1).finishRows gn n

/-- The group and row of a sector. -/
def State.rowOfPsa (s : State) (psa : Nat) : Option (Nat × Nat) :=
  (s.bandOfPsa psa).map fun q => ((s.band q.1).group, q.2)

/-- The rows of band `b`'s group are finished as far as they go, and the group is FULL where nothing is left to write; a LANDING band has no
group yet. -/
def State.finishAt (s : State) (b : Nat) : State :=
  if (s.band b).st = .landing then s
  else
  let gn := (s.band b).group
  (s.finishRows gn (((s.group gn).map Group.rows).getD 0)).fullCheck gn

/-- Place `j` of band `b` written with a PAD sector (R164). -/
def State.putPad (s : State) (b j : Nat) : State :=
  (s.writeAt b j { kind := 4, cls := (s.band b).cls, id := (s.band b).group + j * 2 ^ 32 }).finishAt b

/-- A data sector committed to place `j` of band `b`: written and mapped, with the rows it completes. -/
def State.commitSector (s : State) (key : Key) (cls b j data : Nat) : State :=
  if j < (s.band b).wp then s
  else ((s.writeAt b j { tenant := key.tenant, kind := key.kind, cls, id := key.id, offset := key.offset, data }).setMap
    key (s.bandPsa b j)).finishAt b

/-- Sector `i` of staged data. -/
def dataAt (d i : Nat) : Nat := (d >>> (sectorBits * i)) % 2 ^ sectorBits

/-- Band and place of sector `i` of a placement. -/
def State.placeAt (s : State) (p i : Nat) : Nat × Nat := (s.bandOfPsa (s.placePsa p i)).getD (0, 0)

/-- `n` sectors of a placement committed, from sector `i`, the user bytes under the context's key slot (R423). A granule that a
removal or a later write has superseded is written as PAD and is not mapped. -/
def State.commitSectors (s : State) (c : Ctx) (dead : List Nat) (data : Nat) : Nat → Nat → State
  | 0, _ => s
  | n + 1, i =>
    let q := s.placeAt c.place i
    let key := s.ctxKey c i
    (if dead.contains i then s.putPad q.1 q.2
     else s.commitSector key c.cls q.1 q.2 (s.cipher (8 + placeAct c.place) c.keySlot key.dun (dataAt data i))).commitSectors
      c dead data n (i + 1)

/-- Granule `g` of an object written: the highest granule written is at least it (R124), and no close cuts it any more (R128). -/
def Obj.wrote (o : Obj) (g : Nat) : Obj := { o with high := max o.high (g + 1), cut := o.cut.filter fun q => q.1 ≠ g }

/-- Granules `gs` of object `id` of tenant `t` written. -/
def State.wroteGrans (s : State) (t id : Nat) (gs : List Nat) : State :=
  { s with cmd := { s.cmd with objects := s.cmd.objects.map fun o =>
      if o.tenant = t && o.id = id then gs.foldl Obj.wrote o else o } }

/-! ### Superseded granules (R101, R121, R139, R142) -/

/-- Granules of context `k`, by index, that count: not superseded. -/
def State.liveIdx (s : State) (k : Nat) : List Nat :=
  (List.range (s.ctx k).granCnt).filter fun i => !(s.work k).dead.contains i

/-- The keys of those granules. -/
def State.liveKeysOf (s : State) (k : Nat) : List Key := (s.liveIdx k).map (s.ctxKey (s.ctx k))

/-- In the uncommitted admitted writes that `sel` picks, the granules whose key satisfies `p` are superseded. -/
def State.supersede (s : State) (sel : Nat → Ctx → Bool) (p : Key → Bool) : State :=
  s.cmd.ctxs.foldl (fun t q =>
    let w := t.work q.1
    if w.write && (q.2.state = cNew || q.2.state = cPort || q.2.state = cMedia || q.2.state = cStaged) && sel q.1 q.2 then
      t.setWork q.1 { w with dead := (List.range q.2.granCnt).filter fun i => w.dead.contains i || p (s.ctxKey q.2 i) }
    else t) s

/-- The write in context `k` supersedes what acknowledged writes before it hold in staging: a read that arrives after it has
completed returns its data (R101). -/
def State.supersedeBy (s : State) (k : Nat) : State :=
  let ks := s.liveKeysOf k
  s.supersede (fun j c => j ≠ k && c.state = cStaged && c.has fAcked && (s.work j).seq < (s.work k).seq) fun q => ks.contains q

/-- The write in context `k` is charged at its commit: its RSV_GRAN leaves RSV, and `new` granules join USE (R142). -/
def State.chargeCommit (s : State) (k new : Nat) : State :=
  let c := s.ctx k
  (s.setCtx k { c with rsvGran := 0 }).moveRsv c.tenant c.rsvGran new

/-- What of RSV_GRAN joins USE at the commit of context `k` (R142): the granules reserved at its admission, less those that a concurrent
overwrite has mapped since, and those that a removal or a later write has superseded, which are not stored. -/
def State.newKeys (s : State) (k : Nat) : Nat :=
  ((s.liveIdx k).filter fun i => (s.work k).reserved.contains i && (s.mapped (s.ctxKey (s.ctx k) i)).isNone).length

/-- The granules of the object that the write in context `k` names are written. -/
def State.raiseBy (s : State) (k : Nat) : State :=
  let c := s.ctx k
  if s.objView c.tenant then s.wroteGrans c.tenant c.target ((s.liveIdx k).map fun i => c.granOfs + i) else s

/-- The runs of the write in context `k` commit: sectors, map, USE and RSV (R142, R165). -/
def State.commitRuns (s : State) (k : Nat) : State :=
  let c := s.ctx k
  let s1 := (s.supersedeBy k).commitSectors c (s.work k).dead (s.work k).data c.granCnt 0
  ((s1.subPending (placeAct c.place) c.granCnt).raiseBy k).chargeCommit k (s.newKeys k)

/-- The write pointer has passed a place of the run of context `k`, so that the run cannot be written where it stands (R146). -/
def State.behind (s : State) (k : Nat) : Bool :=
  let c := s.ctx k
  (List.range c.granCnt).any fun i => let q := s.placeAt c.place i; q.2 < (s.band q.1).wp

/-! ### Sectors placed outside host runs (R146) -/

/-- STR(8 + a) writes on the media of actuator `a`: it is the only writer there (R146). -/
def State.writerUp (s : State) (a : Nat) : Bool :=
  s.strReady (8 + a) && s.mode ≠ mHaven && (List.finRange 4).any fun x => x.val = a && s.ready (.act x)

/-- The actuator of a band. -/
def State.bandAct (s : State) (b : Nat) : Nat := s.bandSurf b / 8

/-- A sector waits for its turn in its band, in the order of places. -/
def insertLate (e : Late) : List Late → List Late
  | [] => [e]
  | x :: rest => if x.band = e.band && e.row < x.row then e :: x :: rest else x :: insertLate e rest
def State.addLate (s : State) (e : Late) : State := { s with way := { s.way with late := insertLate e s.way.late } }

/-- A received granule committed: the mapping, and what it adds to its tenant's USE and to its object (R434). -/
def State.commitData (s : State) (key : Key) (cls b j d : Nat) : State :=
  let t := s.commitSector key cls b j d
  let u := if key.kind = 1 then t.wroteGrans key.tenant key.id [key.offset] else t
  u.setUse key.tenant (u.tenUse key.tenant + b2n (s.mapped key).isNone)

/-- A waiting sector written: a copy only where its key is still mapped to the sector it copies, else PAD. -/
def State.writeLate (s : State) (e : Late) : State :=
  match e.what with
  | .pad => s.putPad e.band e.row
  | .copy key src =>
    let t := if s.mapped key = some src && !s.way.lost.contains key then s.commitSector key e.cls e.band e.row (s.sectorData src)
      else s.putPad e.band e.row
    t.subPending (s.bandAct e.band) 1
  | .data key d => (s.commitData key e.cls e.band e.row d).subPending (s.bandAct e.band) 1

/-- A waiting sector given up, its place still to be written. -/
def State.forgetLate (s : State) (e : Late) : State :=
  let t := { s with way := { s.way with late := s.way.late.erase e } }
  match e.what with
  | .pad => t
  | _ => t.subPending (s.bandAct e.band) 1

/-- Waiting sectors are written as far as the write pointers reach them; one that the pointer has passed is given up. -/
def State.settle (s : State) : State :=
  s.way.late.foldl (fun t e =>
    let i := t.dataPlace e.band (t.band e.band).wp 0
    if e.row < i then t.forgetLate e
    else if e.row = i && t.writerUp (t.bandAct e.band) then
      { t with way := { t.way with late := t.way.late.erase e } }.writeLate e
    else t) s

/-! ### Releasing and changing placements (R156, R392) -/

/-- The places of `n` sectors of a placement, from sector `i` on, are to hold PAD sectors: what an abandoned or released run leaves, which
counts for nothing. -/
def State.abandonSectors (s : State) (place : Nat) : Nat → Nat → State
  | 0, _ => s
  | n + 1, i =>
    let q := s.placeAt place i
    (s.addLate { band := q.1, row := q.2, cls := (s.band q.1).cls, what := .pad }).abandonSectors place n (i + 1)

/-- A run of `n` sectors from `psa` that was never begun and stands last in its band: its places are free again. -/
def State.rollBack (s : State) (psa n : Nat) : Option State :=
  match s.bandOfPsa psa with
  | some (b, i) =>
    if (s.band b).wp ≤ i && (s.band b).next = s.dataPlace b i n then some (s.setBand b { s.band b with next := i }) else none
  | none => none

/-- A run released: rolled back where that is possible, else its places are filled with PAD in their turn. -/
def State.releaseRun (s : State) (begun : Bool) (place lo n : Nat) : State :=
  if n = 0 then s
  else match (if begun then none else s.rollBack (s.placePsa place lo) n) with
    | some t => t
    | none => (s.abandonSectors place n lo).settle

/-- A placement of `n` sectors released. -/
def State.releasePlace (s : State) (begun : Bool) (place n : Nat) : State :=
  let n1 := min n (placeCount1 place)
  ((s.releaseRun begun place n1 (n - n1)).releaseRun begun place 0 n1).subPending (placeAct place) n

/-- The placement of a discarded write: released at once where no sequencer holds its item, else when the item is popped (R392). -/
def State.dropPlace (s : State) (k : Nat) : State :=
  let c := s.ctx k
  let w := s.work k
  if !w.placed then s
  else if (s.seq (8 + placeAct c.place)).wq.contains (wkWrite, k) && !w.begun then
    { s with way := { s.way with orphans := s.way.orphans ++ [(k, c.place, c.granCnt)] } }
  else s.releasePlace w.begun c.place c.granCnt

/-- A write discarded: no run of it begins, and its data leaves staging (R82, R104). -/
def State.dropWrite (s : State) (k : Nat) : State :=
  (s.dropPlace k).setWork k { s.work k with discarded := true, placed := false, begun := false, data := 0 }

/-- The head item of actuator `a`'s write sequencer names a discarded write whose placement still stands. -/
def State.orphanAt (s : State) (a k : Nat) : Option (Nat × Nat × Nat) :=
  s.way.orphans.find? fun q => q.1 = k && placeAct q.2.1 = a

/-- That placement released. -/
def State.popOrphan (s : State) (q : Nat × Nat × Nat) : State :=
  { s with way := { s.way with orphans := s.way.orphans.erase q } }.releasePlace false q.2.1 q.2.2

/-- The item that a placement hands to the write sequencer of its actuator (R392). -/
def State.pushRun (s : State) (k : Nat) : State := s.wqAdd (8 + placeAct (s.ctx k).place) wkWrite k

/-- The item of context `k` leaves the queue of actuator `a`'s write sequencer. -/
def State.pullRun (s : State) (a k : Nat) : State :=
  s.setSeq (8 + a) { s.seq (8 + a) with wq := (s.seq (8 + a)).wq.erase (wkWrite, k) }

/-- The placement of context `k` stands: its work item is pushed, or stays where a changed placement keeps the sequencer; without
room in the queue the placement waits. -/
def State.placed (s t : State) (k p : Nat) : State :=
  let u := (t.setCtx k { t.ctx k with place := p }).setWork k { t.work k with placed := true }
  if placeReplaced p && (u.seq (8 + placeAct p)).wq.contains (wkWrite, k) then u
  else if u.wqFree (8 + placeAct p) = 0 then s
  else u.pushRun k

/-- The actuator to whose LANDING band the vault flush writes context `k` (R329). -/
def State.flushAct (s : State) (k : Nat) : Option Nat :=
  if s.bls.flushing then (s.bls.flush.find? fun q => q.1 = k).map Prod.snd else none

/-- A place for context `k` in the LANDING band of actuator `a`, behind what is placed there, where the band has room. -/
def State.flushPlace (s : State) (k a : Nat) : State :=
  match s.landingOf a with
  | none => s
  | some b =>
    let n := (s.ctx k).granCnt
    if s.dataRoom b (s.claimed b) (s.bandSize b) < n then s
    else s.placed ((s.takePlaces b n).addPending a n) k (placeOf a true n (s.bandPsa b (s.claimed b)) none)

/-- An admitted write that waits for its placement is placed (R150, R154); in the vault flush, in its LANDING band. -/
def State.placeWrite (s : State) (k : Nat) : State :=
  let c := s.ctx k
  let w := s.work k
  if w.placed || !w.write || w.discarded then s
  else if let some a := s.flushAct k then s.flushPlace k a
  else match s.place c.cls c.granCnt w.replaced false with
    | some (p, t) => s.placed t k p
    | none => s

/-- The placement of context `k` given up, to be replaced; a run of the vault flush is written again at the band's WP (R329), which stands at the
first sector that has not committed (DEDUCED). -/
def State.unplace (s : State) (k : Nat) : State :=
  (s.releasePlace ((s.work k).begun && (s.flushAct k).isNone) (s.ctx k).place (s.ctx k).granCnt).setWork k
    { s.work k with begun := false, placed := false, replaced := true }

/-- Context `k` placed again, at once or when there is room; its item stays with the sequencer of actuator `a` where that still writes
it, and leaves it otherwise. -/
def State.placeAgain (s : State) (a k : Nat) : State :=
  let t := s.placeWrite k
  if (t.work k).placed && placeAct (t.ctx k).place = a then t else t.pullRun a k

/-- The runs behind context `k` in the queue of actuator `a`'s write sequencer that are placed and not begun. -/
def State.runsBehind (s : State) (a k : Nat) : List Nat :=
  (((s.seq (8 + a)).wq.dropWhile fun q => q.2 ≠ k).drop 1).filterMap fun q =>
    if q.1 = wkWrite && (s.work q.2).placed && !(s.work q.2).begun && !(s.work q.2).discarded && q.2 ≠ k then some q.2 else none

/-- The write in context `k` placed again from staging, with REPLACED set: at once, or when there is room (R156). Where its run was
begun, the runs queued behind it give up their places, last first, and are placed again after it in the order of the queue, so that
each band is still written one sector after another (R146; DESIGN CHOICE, which R156 allows). -/
def State.rePlace (s : State) (k : Nat) : State :=
  let a := placeAct (s.ctx k).place
  let ks := k :: if (s.work k).begun then s.runsBehind a k else []
  ks.foldl (fun t j => t.placeAgain a j) (ks.reverse.foldl State.unplace s)

/-! ### Copies (R154, R158, R161, R174) -/

/-- The class of the sector a key is mapped to. -/
def State.keyClass (s : State) (k : Key) : Nat :=
  match s.mapped k with
  | some psa => ((s.sectorAt psa).map Sector.cls).getD 0
  | none => 0

/-- A SECTOR_LOST record and the lost mark of a key; the mapping is kept (R161, R175). -/
def State.loseKey (s : State) (k : Key) : State :=
  let psa := (s.mapped k).getD noPsa
  let s1 := { s with way := { s.way with lost := k :: s.way.lost.filter (· ≠ k) } }
  s1.cairn 2 0x0008 (orgBlock 0x0A) (argOf [(6, shownPsa psa), (2, k.tenant), (1, k.kind), (3, 0), (16, k.id), (4, k.offset)])

/-- Bands released: FREE again, their old sectors no longer read. -/
def State.freeBands (s : State) (bs : List Nat) : State :=
  bs.foldl (fun t b => match t.bandGeo b with
    | some g =>
      let lo := psaOf g.surf g.first
      { t with way := { t.way with bands := spErase t.way.bands b,
                                   media := t.way.media.filter fun q => q.1 < lo ∨ lo + g.sectors ≤ q.1 } }
    | none => { t with way := { t.way with bands := spErase t.way.bands b } }) s

/-- Each actuator in service keeps one LANDING band when it has a FREE band to spare, one that FLOOR does not keep (R147, R158, R159). -/
def State.ensureLanding (s : State) : State :=
  ((List.range 4).filter fun a => s.unitState 2 a = uIn).foldl (fun t a =>
    let has := t.way.bands.any fun q => decide (q.2.st = .landing) && t.bandSurf q.1 / 8 = a
    if has || t.actRoom false a = 0 then t
    else match (((List.range 8).map fun h => a * 8 + h).filter t.headIn).filterMap t.freeBandOn with
      | b :: _ => t.setBand b { t.band b with st := .landing }
      | [] => t) s

/-- Group and row of a sector that the map names, be it one that only redundancy gives back. -/
def State.groupRow (s : State) (psa : Nat) : Option (Nat × Nat) :=
  if isGone psa then some (goneGroup psa, goneRow psa) else s.rowOfPsa psa

/-- Member `i` of group `gn` holds data in row `r` that cannot be read when the bands that `out` picks cannot. -/
def State.memberGone (s : State) (out : Nat → Bool) (gn : Nat) (g : Group) (r i : Nat) : Bool :=
  (s.memberSector gn g i r).isSome && match (g.members[i]?).join with
    | some b => out b || !s.headReadable (s.bandSurf b)
    | none => true

/-- The sectors that redundancy gives back, when the bands that `out` picks cannot be read: the row has its parity or copy on media,
and no more of its data members that hold data are unreadable than parity members, or the copy, can be read. -/
def State.recoverable (s : State) (out : Nat → Bool) (psa : Nat) : Bool :=
  match s.groupRow psa with
  | none => false
  | some (gn, r) => match s.group gn with
    | none => false
    | some g =>
      let gone := (List.range (dataMembers g.redund)).filter (s.memberGone out gn g r)
      let par := (g.members.drop (dataMembers g.redund)).filterMap id |>.filter fun b =>
        !out b && s.headReadable (s.bandSurf b) && s.written b r
      r < g.parityRows && gone.length ≤ par.length

/-- The sector that the map names can be read, on its head or by redundancy. -/
def State.canRead (s : State) (psa : Nat) : Bool :=
  psa ≠ noPsa && ((!isGone psa && s.headReadable (psaSurf psa)) || s.recoverable (fun _ => false) psa)

/-- A copy of the key's present sector waits to be written. -/
def State.copying (s : State) (key : Key) (src : Nat) : Bool := s.way.late.any fun e => e.what = .copy key src

/-- One granule copied as a new placement, its bytes as they stand on media or as redundancy gives them back; a lost sector stays lost
(R161), and without room nothing is copied. -/
def State.copyKey (s : State) (cleaning : Bool) (key : Key) : State :=
  match s.mapped key with
  | none => s
  | some src =>
    if s.way.lost.contains key || s.copying key src || !s.canRead src then s
    else match s.place (s.keyClass key) 1 false cleaning with
      | none => s
      | some (p, t) =>
        let q := t.placeAt p 0
        (t.addLate { band := q.1, row := q.2, cls := s.keyClass key, what := .copy key src }).settle

/-- Live sectors copied out. -/
def State.copyKeys (s : State) (cleaning : Bool) (ks : List Key) : State := ks.foldl (fun t k => t.copyKey cleaning k) s

/-- Waiting copies that the bands `on` picks were to take are given up: they are made again elsewhere (R174, R175). -/
def State.dropLate (s : State) (on : Nat → Bool) : State :=
  (s.way.late.filter fun e => on e.band).foldl (fun t e => t.forgetLate e) s

/-! ### Rebuild (R153, R161, R174, R175) -/

/-- Surfaces that could take a rebuilt member of a group, the lowest first. DESIGN CHOICE: the spec states the limits of R149 on an
actuator's share for forming a group only, and a rebuilt member does not keep them, so that a rebuilt copy may lie on its data member's
actuator. -/
def State.spareSurfs (s : State) (g : Group) : List Nat :=
  s.freeSurfs.filter fun x => 0 < s.actRoom false (x / 8) && !(g.present.map s.bandSurf).contains x
    && g.rows ≤ (((s.freeBandOn x).map s.bandSize).getD 0)

/-- Parity member `j` of a group written to band `b` for every row that has its parity, from row `r` on. -/
def State.refillParity (s : State) (gn : Nat) (g : Group) (j b : Nat) : Nat → Nat → State
  | 0, _ => s
  | n + 1, r => (s.putParity gn g r j b).refillParity gn g j b n (r + 1)

/-- A missing parity member or copy of group `gn`, member number `i`, rebuilt into a FREE band. -/
def State.rebuildMember (s : State) (gn i : Nat) : State :=
  match s.group gn with
  | none => s
  | some g => match (s.spareSurfs g).filter fun x => s.writerUp (x / 8) with
    | [] => s
    | x :: _ => match s.freeBandOn x with
      | none => s
      | some b =>
        let g1 := { g with members := g.members.set i (some b), gone := g.gone.filter (· ≠ i) }
        let s1 := (s.setBand b { st := g.st, group := gn, member := i, last := s.crn.minutes, cls := g.cls }).setGroup gn g1
        { s1 with way := { s1.way with opened := s1.way.opened + 1 } }.refillParity gn g1 (i - dataMembers g.redund) b
          g1.parityRows 0

/-- Keys mapped to sectors that only redundancy gives back: what a take-out has left to rebuild. -/
def State.strandedKeys (s : State) : List Key :=
  (s.way.map.filter fun q => isGone q.2 && !s.way.lost.contains q.1).map Prod.fst

/-- The background rebuild: stranded sectors as new placements, the groups' missing parity members or copies, contents of flushed
LANDING bands under their recorded classes (R150, R159, R174); RETIRED bands of units that are back are FREE (R147). -/
def State.rebuildMissing (s : State) : State :=
  let s1 := s.settle.copyKeys false s.strandedKeys
  let need := s1.way.groups.flatMap fun q =>
    ((q.2.members.zip (List.range q.2.members.length)).filter fun m =>
      m.1.isNone && dataMembers q.2.redund ≤ m.2 && decide (q.2.st ≠ .cleaning)).map fun m => (q.1, m.2)
  let s2 := need.foldl (fun t q => t.rebuildMember q.1 q.2) s1
  let land := (s2.way.groups.filter fun q => q.2.landing = 2).flatMap fun q => (q.2.dataBands.flatMap s2.mappedIn).map Prod.fst
  let s3 := s2.copyKeys false land
  let back := (s3.way.bands.filter fun q => decide (q.2.st = .retired) && s3.headIn (s3.bandSurf q.1)).map Prod.fst
  (s3.freeBands back).countDegraded

/-! ### Surveys (R148, R160) -/

/-- SURVEY_DAYS of a class as the latest scheduling pass took them. -/
def State.passDays (s : State) (c : Nat) : Nat := (s.way.days[c]?).getD (s.surveyDays c)

/-- The minute at which a band is due (1,440 a day) or overdue (1,800 a day). -/
def State.dueAt (s : State) (b : Band) (perDay : Nat) : Nat := b.last + perDay * s.passDays b.cls

/-- Bands of a class that is surveyed, at or past that minute, on whatever head. -/
def State.dueBands (s : State) (perDay : Nat) : List (Nat × Band) :=
  s.way.bands.filter fun q => decide (q.2.st = .opened ∨ q.2.st = .full ∨ q.2.st = .cleaning) && 0 < s.passDays q.2.cls
    && s.dueAt q.2 perDay ≤ s.crn.minutes

end Sys2Proof.Machine
end

