-- ==== Sys2Proof/Machine/BedOps.lean ====
section
/-!
DEFINITION. Sys2Proof/Machine/BedOps.lean: the shared operations on the HBM with its ECC outcomes (R335 to R345), on Shale
(R351 to R358), and on a Flagstone physical address (R29).
-/

namespace Sys2Proof.Machine

/-- The sideband is up: hot-join is attempted where HJ_EN is 1 (R112). -/
def State.sidebandUp (s : State) : State :=
  let s1 := s.setReady .sideband true
  if s1.flag R.SYS_SB_CFG F.SYS_SB_CFG_HJ_EN && s1.rf R.SYS_SB_STATUS F.SYS_SB_STATUS_HJ = 0 then
    s1.wf R.SYS_SB_STATUS F.SYS_SB_STATUS_HJ 1
  else s1

/-! ### Granules (R338, R339, R343 to R345) -/

/-- Granule `g` of the HBM (offset / 64). -/
def State.gran (s : State) (g : Nat) : Gran := spGetD {} s.bed.gran g

/-- Granule `g` replaced. -/
def State.setGran (s : State) (g : Nat) (x : Gran) : State :=
  { s with bed := { s.bed with gran := spSet {} s.bed.gran g x } }

/-- The outcome codes of BED_BDP_META. -/
def oClean : Nat := 0
def oUncorrectable : Nat := 3
def oPoison : Nat := 4

/-- Data and V of granule `g` once `pattern` is corrected; V at 0 reads as zeros (R338). -/
def State.granData (s : State) (g pattern : Nat) : Nat × Bool :=
  let d := (s.gran g).err ^^^ pattern
  let v := (s.gran g).v != bitAt d 512
  (if v then s.load (hbmBase + 64 * g) 64 ^^^ d % 2 ^ 512 else 0, v)

/-- A stored granule decoded (R344): outcome, and data and V where there is any. -/
def State.decoded (s : State) (g : Nat) : Nat × Option (Nat × Bool) :=
  match rsDecode (s.gran g).err with
  | .clean => (oClean, some (s.granData g 0))
  | .corrected n p => (n, some (s.granData g p))
  | .uncorrectable => (oUncorrectable, none)
  | .poison => (oPoison, none)

/-- Granule `g` stored as POISON. -/
def State.poisonGran (s : State) (g : Nat) : State := s.setGran g { v := true, err := rsPoison }

/-- Granule `g` stored again as it decodes: corrected, or kept as POISON (R346, R361). -/
def State.rewriteGran (s : State) (g : Nat) : State :=
  match (s.decoded g).2 with
  | some d => (s.store (hbmBase + 64 * g) d.1 64).setGran g { v := d.2 }
  | none => s.poisonGran g

/-- The pseudo-channel, bank and row of an offset (R335; bank and row are the stack's own). -/
def hbmRowOf (g : Nat) : Nat × Nat × Nat :=
  (g / 2 % 16, (Config.hbmRow (64 * g)) / 2 ^ 15 % 32, Config.hbmRow (64 * g) % 2 ^ 15)

/-- A row in the log: the entry that names it. -/
def State.rowEntry (s : State) (r : Nat × Nat × Nat) : Option Nat :=
  (List.range 16).find? fun i => s.flag (R.BED_ROW_LOG i) F.BED_ROW_LOG_VALID
    && s.rf (R.BED_ROW_LOG i) F.BED_ROW_LOG_PC = r.1 && s.rf (R.BED_ROW_LOG i) F.BED_ROW_LOG_BANK = r.2.1
    && s.rf (R.BED_ROW_LOG i) F.BED_ROW_LOG_ROW = r.2.2

/-- The entry with the lowest COUNT among `n` from `i`. -/
def State.lowRow (s : State) : Nat → Nat → Nat
  | i, 0 => i
  | i, n + 1 =>
    let j := s.lowRow (i + 1) n
    if s.rf (R.BED_ROW_LOG i) F.BED_ROW_LOG_COUNT ≤ s.rf (R.BED_ROW_LOG j) F.BED_ROW_LOG_COUNT then i else j

/-- The entry a new row takes: a free one, else the one with the lowest COUNT (R346). -/
def State.rowVictim (s : State) : Nat :=
  match (List.range 16).find? fun i => !s.flag (R.BED_ROW_LOG i) F.BED_ROW_LOG_VALID with
  | some i => i
  | none => s.lowRow 0 15

/-- An error read counted against its row (R346). -/
def State.countRow (s : State) (g : Nat) : State :=
  let r := hbmRowOf g
  let i := (s.rowEntry r).getD s.rowVictim
  let s1 := if (s.rowEntry r).isSome then s
    else s.wr (R.BED_ROW_LOG i) (word (2 ^ 31 + r.1 * 2 ^ 27 + r.2.1 * 2 ^ 22 + r.2.2 * 2 ^ 7))
  let s2 := s1.countUp (R.BED_ROW_LOG i) F.BED_ROW_LOG_COUNT 1
  if s1.rf (R.BED_ROW_LOG i) F.BED_ROW_LOG_COUNT < s2.rf (R.BED_ROW_LOG i) F.BED_ROW_LOG_COUNT && s2.rf (R.BED_ROW_LOG i) F.BED_ROW_LOG_COUNT = s2.rf R.BED_ROW_CTL F.BED_ROW_CTL_ROW_THR then
    s2.raise R.BED_ROW_CTL F.BED_ROW_CTL_ROW_EVT
  else s2

/-- A CORRECTED read reported (R344). -/
def State.reportCe (s : State) (g : Nat) : State :=
  ((s.countUp R.BED_ECC_CNT F.BED_ECC_CNT_CE 1).report 9 1).countRow g

/-- An UNCORRECTABLE or POISON read reported; the log keeps the first, and an UNCORRECTABLE one counts against its row (R344,
R346). -/
def State.reportUe (s : State) (cls g kind : Nat) : State :=
  let s1 := s.countUp R.BED_ECC_CNT F.BED_ECC_CNT_UE 1
  let s2 := if s1.flag R.BED_ECC_LOG_HI F.BED_ECC_LOG_HI_VALID then s1
    else (s1.wr R.BED_ECC_LOG_LO (word (64 * g))).wr R.BED_ECC_LOG_HI
      (word (2 ^ 31 + cls * 2 ^ 28 + kind * 2 ^ 26 + 64 * g / 2 ^ 32))
  if kind = 1 then (s2.report 10 2).countRow g else s2.report 10 2

/-- Bytes served to a class in the window (R340). -/
def State.serve (s : State) (cls n : Nat) : State :=
  { s with bed := { s.bed with served := spSet 0 s.bed.served cls (spGetD 0 s.bed.served cls + n) } }

/-- A stored granule decoded for a requester of class `cls` (R344): outcome, data where there is any, and the reports. -/
def State.decodeGran (s : State) (cls g : Nat) : Nat × Option Nat × State :=
  let t := s.serve cls 64
  let q := s.decoded g
  (q.1, q.2.map Prod.fst,
    if q.1 = oClean then t
    else if q.1 < oUncorrectable then t.reportCe g
    else t.reportUe cls g (q.1 - 2))

/-! ### Shale lines and the coherence point (R351, R352) -/

/-- The Shale line that holds HBM line `l`. -/
def State.shlLine (s : State) (l : Nat) : Option ShlLine := s.bed.lines.find? fun x => x.line = l

/-- Way `w` is locked. -/
def State.wayLocked (s : State) (w : Nat) : Bool := bitAt (s.rd R.SHL_LOCK).toNat w

/-- Shale serves lookups; a drain is in progress. -/
def State.shlOn (s : State) : Bool := s.flag R.SHL_STATUS F.SHL_STATUS_ENABLED
def State.shlDraining (s : State) : Bool := s.flag R.SHL_STATUS F.SHL_STATUS_DRAINING

/-- The line is snooped: while Shale is enabled or drains, and afterwards where its way is locked (R352, R355). -/
def State.snooped (s : State) (x : ShlLine) : Bool := s.shlOn || s.shlDraining || s.wayLocked x.way

/-- A line replaced, or put in. -/
def State.putLine (s : State) (x : ShlLine) : State :=
  { s with bed := { s.bed with lines := x :: s.bed.lines.filter fun y => y.line ≠ x.line } }

/-- A line dropped. -/
def State.dropLine (s : State) (l : Nat) : State :=
  { s with bed := { s.bed with lines := s.bed.lines.filter fun y => y.line ≠ l } }

/-- `len` bytes of `v` put at byte `at` of a number. -/
def putBytes (d pos len v : Nat) : Nat := d - rdLe d pos len * 2 ^ (8 * pos) + v % 2 ^ (8 * len) * 2 ^ (8 * pos)

/-- A snooped write: Shale's copy takes the bytes and keeps its dirty state. -/
def State.snoopWrite (s : State) (g pos len v : Nat) : State :=
  match s.shlLine (g / 2) with
  | some x => if s.snooped x then s.putLine { x with data := putBytes x.data (64 * (g % 2) + pos) len v } else s
  | none => s

/-- The data of a granule as the coherence point gives it: a dirty line's, else the decoded granule. -/
def State.readGran (s : State) (cls g : Nat) : Option Nat × State :=
  match s.shlLine (g / 2) with
  | some x => if x.dirty && s.snooped x then (some (rdLe x.data (64 * (g % 2)) 64), s.serve cls 64)
              else (s.decodeGran cls g).2
  | none => (s.decodeGran cls g).2

/-- The granules from `g`, `n` of them, joined; none where one has no data. -/
def State.readGrans (s : State) (cls g : Nat) : Nat → Option Nat × State
  | 0 => (some 0, s)
  | n + 1 =>
    let q := s.readGran cls g
    let r := q.2.readGrans cls (g + 1) n
    match q.1, r.1 with
    | some a, some b => (some (a + 2 ^ 512 * b), r.2)
    | _, _ => (none, r.2)

/-- `n` bytes at HBM offset `ofs`; none is an error response (R345). -/
def State.hbmRead (s : State) (cls ofs n : Nat) : Option Nat × State :=
  if n = 0 then (some 0, s)
  else
    let q := s.readGrans cls (ofs / 64) ((ofs + n - 1) / 64 - ofs / 64 + 1)
    (q.1.map fun d => rdLe d (ofs % 64) n, q.2)

/-- The block of granule `g` is claimed (R339). -/
def State.claimBlock (s : State) (b : Nat) : State :=
  if s.bed.claims.contains b then s
  else ({ s with bed := { s.bed with claims := b :: s.bed.claims } }).countUp R.BED_CLAIM F.BED_CLAIM_CLAIMED 1

/-- The stored granule that a write merges with, read and stored corrected; one with no data is stored as POISON (R345). A whole
granule, and one with V at 0, need no read (R338). -/
def State.mergeGran (s : State) (cls g len : Nat) : Bool × State :=
  if 64 ≤ len || (s.gran g).err = 0 then (true, s)
  else
    let q := s.decodeGran cls g
    (q.2.1.isSome, q.2.2.rewriteGran g)

/-- `len` bytes of `v` written at byte `pos` of granule `g`; false where the merge meets a granule with no data (R338, R345). -/
def State.writeGran (s : State) (cls g pos len v : Nat) : Bool × State :=
  let q := ((s.claimBlock (g / 1024)).serve cls 64).mergeGran cls g len
  if q.1 then (true, ((q.2.store (hbmBase + 64 * g + pos) v len).setGran g { v := true }).snoopWrite g pos len v) else q

/-- `n` bytes of `v` written at offset `ofs`, over at most `k` granules. -/
def State.writeGrans (s : State) (cls ofs n v : Nat) : Nat → Bool × State
  | 0 => (true, s)
  | k + 1 =>
    if n = 0 then (true, s)
    else
      let m := min n (64 - ofs % 64)
      let q := s.writeGran cls (ofs / 64) (ofs % 64) m (v % 2 ^ (8 * m))
      let r := q.2.writeGrans cls (ofs + m) (n - m) (v / 2 ^ (8 * m)) k
      (q.1 && r.1, r.2)

/-- `n` bytes of `v` written at HBM offset `ofs`; false is an error response. -/
def State.hbmWrite (s : State) (cls ofs n v : Nat) : Bool × State := s.writeGrans cls ofs n v (n / 64 + 2)

/-- Request classes of R340. -/
def qRing : Nat := 0
def qMedia : Nat := 1
def qHost : Nat := 2
def qCpu : Nat := 3
def qBulk : Nat := 4
def qIdle : Nat := 5

/-! ### Regions (R50, R336) -/

/-- Base and size in bytes of the region of PART type `t`. -/
def State.region (s : State) (t : Nat) : Nat × Nat :=
  (s.rf (R.BED_PART (t - 1)) F.BED_PART_BASE * 2 ^ 26, s.rf (R.BED_PART (t - 1)) F.BED_PART_SIZE * 2 ^ 26)

/-- The offset lies in the region of PART type `t`. -/
def State.inRegion (s : State) (t ofs : Nat) : Bool := (s.region t).1 ≤ ofs && ofs < (s.region t).1 + (s.region t).2

/-! ### Flagstone through Shale (R351, R355) -/

/-- A dirty line written back. -/
def State.writeBack (s : State) (x : ShlLine) : State :=
  if !x.dirty then s
  else ((s.dropLine x.line).hbmWrite qCpu (128 * x.line) 128 x.data).2.putLine { x with dirty := false }

/-- The lines of set `n`. -/
def State.shlSet (s : State) (n : Nat) : List ShlLine := s.bed.lines.filter fun x => x.line % 2048 = n

/-- The way a miss allocates into: an unused unlocked way, else an unlocked way of the part's choice (R357). -/
def State.shlVictim (s : State) (n : Nat) : Nat :=
  let open_ := (List.range 16).filter fun w => !s.wayLocked w
  match open_.find? fun w => !(s.shlSet n).any fun x => x.way = w with
  | some w => w
  | none => (open_[Config.freeChoice open_.length s.fresh % open_.length]?).getD 0

/-- The line at way `w` of set `n` leaves, written back first where dirty. -/
def State.evict (s : State) (n w : Nat) : State :=
  match (s.shlSet n).find? fun x => x.way = w with
  | some x => (s.writeBack x).dropLine x.line
  | none => s

/-- HBM line `l` brought into way `w`; false where the HBM gives no data, and nothing is allocated (R345). -/
def State.allocate (s : State) (l w : Nat) : Bool × State :=
  let q := s.hbmRead qCpu (128 * l) 128
  match q.1 with
  | none => (false, q.2)
  | some d => (true, (q.2.evict (l % 2048) w).putLine { line := l, way := w, data := d })

/-- Line `l` in Shale, on a hit or after a miss. -/
def State.ensureLine (s : State) (l : Nat) : Bool × State :=
  if (s.shlLine l).isSome then (true, s)
  else { s with fresh := s.fresh + 1 }.allocate l (s.shlVictim (l % 2048))

/-- A Flagstone access at `ofs` goes through Shale. -/
def State.cached (s : State) (ofs : Nat) : Bool := s.shlOn && !s.inRegion 1 ofs

/-- A line not yet written back in a drain is written back ahead of an access to it (R355). -/
def State.drainLine (s : State) (l : Nat) : State :=
  if s.shlDraining then match s.shlLine l with
    | some x => s.writeBack x
    | none => s
  else s

/-- `n` bytes (at most to the end of the line) read by Flagstone at `ofs`. -/
def State.cpuRead (s : State) (ofs n : Nat) : Option Nat × State :=
  if s.cached ofs then
    let q := s.ensureLine (ofs / 128)
    (if q.1 then (q.2.shlLine (ofs / 128)).map fun x => rdLe x.data (ofs % 128) n else none, q.2)
  else (s.drainLine (ofs / 128)).hbmRead qCpu ofs n

/-- `n` bytes written by Flagstone at `ofs`. -/
def State.cpuWrite (s : State) (ofs n v : Nat) : Bool × State :=
  if s.cached ofs then
    let q := s.ensureLine (ofs / 128)
    match q.1, q.2.shlLine (ofs / 128) with
    | true, some x => (true, q.2.putLine { x with dirty := true, data := putBytes x.data (ofs % 128) n v })
    | _, _ => (false, q.2)
  else (s.drainLine (ofs / 128)).hbmWrite qCpu ofs n v

/-- An uncorrectable error in Shale's arrays at line `l` (R360): a clean line is fetched again, reported as corrected; a dirty line's
granules go back as POISON; a tag error is fatal, and no lookup finds the line (DEDUCED). -/
def State.shaleArrayError (s : State) (l : Nat) (tag inj : Bool) : State :=
  match s.shlLine l with
  | none => s
  | some x =>
    if tag then (s.dropLine l).carry 7 3 inj
    else if x.dirty then
      ((((s.dropLine l).claimBlock (l / 512)).poisonGran (2 * l)).poisonGran (2 * l + 1)).carry 6 2 inj
    else ((s.dropLine l).allocate l x.way).2.carry 6 1 inj

/-- The lines of `n` bytes at `ofs`, as far as they name pseudo-channels. -/
def linesOf (ofs n : Nat) : List Nat := (List.range (min 16 ((ofs % 128 + (n - 1)) / 128 + 1))).map fun k => ofs / 128 + k

/-- The access of `n` bytes at `ofs` touches pseudo-channel `pc`. -/
def onChannel (ofs n pc : Nat) : Bool := (linesOf ofs n).any fun l => l % 16 = pc

/-- Two accesses touch one pseudo-channel. -/
def shareChannel (ofs n ofs2 n2 : Nat) : Bool := (linesOf ofs n).any fun l => onChannel ofs2 n2 (l % 16)

/-- The pseudo-channel of an access of `n` bytes at `ofs` is held for a repair (R346). -/
def State.pprHolds (s : State) (ofs n : Nat) : Bool :=
  match s.bed.ppr with
  | none => false
  | some p => onChannel ofs n (s.rf (R.BED_ROW_LOG p.entry) F.BED_ROW_LOG_PC)

/-- An access of the HBM waits (R337, R346). -/
def State.hbmWaits (s : State) (ofs n : Nat) : Bool := !s.ready .bedrock || s.pprHolds ofs n

/-- An access put among the held ones. -/
def State.holdHbm (s : State) (h : HeldHbm) : State := { s with bed := { s.bed with held := s.bed.held ++ [h] } }

/-! ### Physical addresses (R29) -/

/-- The regions of the Flagstone map, the Towpath space apart. -/
def inRom (a : Nat) : Bool := a < 0x40000
def inTcm (a : Nat) : Bool := tcmBase ≤ a && a < tcmBase + 0x200000
def inCtx (a : Nat) : Bool := ctxBase ≤ a && a < ctxBase + 0x800000
def inHbm (a : Nat) : Bool := hbmBase ≤ a && a < hbmBase + 2 ^ 34

/-- `n` bytes of the context store at byte `o` of it. -/
def State.ctxLoad (s : State) (o : Nat) : Nat → Nat
  | 0 => 0
  | n + 1 => (s.ctxByte (o / 128) (o % 128)).toNat + 256 * s.ctxLoad (o + 1) n

/-- `n` bytes of the context store written; STATE and ORIGIN stay (R132). -/
def State.ctxStore (s : State) (o v : Nat) : Nat → State
  | 0 => s
  | n + 1 => (s.setCtxByte (o / 128) (o % 128) (BitVec.ofNat 8 v)).ctxStore (o + 1) (v / 256) n

/-- A data path's read of a physical address in the TCMs, the context store or the HBM. -/
def State.physRead (s : State) (cls a n : Nat) : Option Nat × State :=
  if inHbm a then s.hbmRead cls (a - hbmBase) n
  else if inTcm a then (some (s.load a n), s)
  else if inCtx a then (some (s.ctxLoad (a - ctxBase) n), s)
  else (none, s)

/-- A data path's write. -/
def State.physWrite (s : State) (cls a n v : Nat) : Bool × State :=
  if inHbm a then s.hbmWrite cls (a - hbmBase) n v
  else if inTcm a then (true, s.store a v n)
  else if inCtx a then (true, s.ctxStore (a - ctxBase) v n)
  else (false, s)

end Sys2Proof.Machine
end

