-- ==== Sys2Proof/Machine/CoreOps.lean ====
section
/-!
DEFINITION. Sys2Proof/Machine/CoreOps.lean: the exceptions that a core takes (R29, R365, R481), and the accesses of the
Flagstone cores to the HBM with the atomic operations (R337, R365).
-/

namespace Sys2Proof.Machine

/-! ### The causes of the exceptions of R29, R365 and R481: the codes of the RISC-V privileged architecture (PRESUMED) -/

def exFetchAccess : Nat := 1
def exLoadMisaligned : Nat := 4
def exLoadAccess : Nat := 5
def exStoreMisaligned : Nat := 6
def exStoreAccess : Nat := 7

/-- The access-fault cause of an access. -/
def accessCause (k : AccessKind) : Nat :=
  match k with
  | .fetch => exFetchAccess
  | .load => exLoadAccess
  | .store => exStoreAccess

/-- The address-misaligned cause of a load or store. -/
def misalignedCause (store : Bool) : Nat := if store then exStoreMisaligned else exLoadMisaligned

/-- A core takes an exception: an output of the part, whose cores' own registers are outside this model. -/
def State.coreTrap (s : State) (c : Core) (cause addr : Nat) : State := s.emit (.coreException c cause addr)

/-- `n` bytes of the HBM read by a core, over at most two Shale lines. -/
def State.coreHbmRead (s : State) (ofs n : Nat) : Option Nat × State :=
  let m := min n (128 - ofs % 128)
  let q := s.cpuRead ofs m
  if m = n then q
  else
    let r := q.2.cpuRead (ofs + m) (n - m)
    match q.1, r.1 with
    | some a, some b => (some (a + 2 ^ (8 * m) * b), r.2)
    | _, _ => (none, r.2)

/-- `n` bytes of the HBM written by a core, over at most two Shale lines. -/
def State.coreHbmWrite (s : State) (ofs n v : Nat) : Bool × State :=
  let m := min n (128 - ofs % 128)
  let q := s.cpuWrite ofs m (v % 2 ^ (8 * m))
  if m = n then q
  else
    let r := q.2.cpuWrite (ofs + m) (n - m) (v / 2 ^ (8 * m))
    (q.1 && r.1, r.2)

/-- A core access of the HBM: the low word of what a load or a fetch gives is in `resp`; an error response is an access fault
(R345; the exception DEDUCED). -/
def State.coreHbmNow (s : State) (h : Fin 4) (k : AccessKind) (n ofs v : Nat) : State :=
  if k = .store then
    let q := s.coreHbmWrite ofs n v
    if q.1 then q.2 else q.2.coreTrap (.flagstone h) exStoreAccess (hbmBase + ofs)
  else
    let q := s.coreHbmRead ofs n
    match q.1 with
    | some d => q.2.answer (word d)
    | none => q.2.coreTrap (.flagstone h) (accessCause k) (hbmBase + ofs)

/-- A store by a core takes the reservations of the others' LR on the bytes it writes (PRESUMED, the RISC-V A extension). -/
def State.dropResv (s : State) (p a n : Nat) : State :=
  { s with resv := s.resv.filter fun q => q.1 = p || q.2 + 8 ≤ a || a + n ≤ q.2 }

/-- What an atomic operation stores: the operations of the RISC-V A extension (PRESUMED). -/
def amoResult (op : AmoOp) (n old v : Nat) : Nat :=
  match op with
  | .swap => v
  | .add => (old + v) % 2 ^ (8 * n)
  | .xor => old ^^^ v
  | .and => old &&& v
  | .or => old ||| v
  | .min => if signedOf (8 * n) v < signedOf (8 * n) old then v else old
  | .max => if signedOf (8 * n) old < signedOf (8 * n) v then v else old
  | .minu => Nat.min old v
  | .maxu => Nat.max old v
  | .lr => old
  | .sc => v

/-- An atomic access of the pair of hart `h` to a region that has them: AMO returns the old value; LR reserves; SC stores and
returns 0 where the reservation stands, else returns 1 (R365; the operations themselves PRESUMED, the RISC-V A extension). -/
def State.atomic (s : State) (h : Fin 4) (op : AmoOp) (n a v : Nat) : State :=
  let p := h.val / 2
  let held := s.resv.contains (p, a)
  let q := if inHbm a then s.coreHbmRead (a - hbmBase) n else (some ((s.physRead qCpu a n).1.getD 0), s)
  match q.1 with
  | none => q.2.coreTrap (.flagstone h) exStoreAccess a
  | some old =>
    let mine := q.2.resv.filter fun r => r.1 ≠ p
    if op = .lr then { q.2 with resv := mine ++ [(p, a)] }.answer (word old)
    else if op = .sc && !held then { q.2 with resv := mine }.answer 1
    else
      let t := (if op = .sc then { q.2 with resv := mine } else q.2).dropResv p a n
      let d := amoResult op n old (v % 2 ^ (8 * n))
      if inHbm a then
        let w := t.coreHbmWrite (a - hbmBase) n d
        if w.1 then w.2.answer (if op = .sc then 0 else word old) else w.2.coreTrap (.flagstone h) exStoreAccess a
      else (t.physWrite qCpu a n d).2.answer (if op = .sc then 0 else word old)

end Sys2Proof.Machine
end

