-- ==== Sys2Proof/Machine/TurnOps.lean ====
section
/-!
DEFINITION. Sys2Proof/Machine/TurnOps.lean: Turnpike's translation and faults (R373 to R377), and the reads and writes that data
paths make through it.
-/

namespace Sys2Proof.Machine

/-- The stream of STRn, and of Quarry results of slice n; Causeway's; those of HPA and HPB (R373). -/
def strStream (n : Nat) : Nat := 32 + n
def causewayStream : Nat := 46
def hostStream (g : Nat) : Nat := 44 + g

/-- Modes of TRN_SCTX. -/
def trnOff : Nat := 0
def trnBare : Nat := 1
def trnSv48 : Nat := 2

/-- The causes of R375. -/
def flStopped : Nat := 1
def flOff : Nat := 2
def flRange : Nat := 3
def flWalkErr : Nat := 4
def flNotValid : Nat := 5
def flPerm : Nat := 6

/-- A result inside the regions of R32. -/
def dmaRegion (a : Nat) : Bool := inTcm a || inCtx a || inHbm a

/-- A PTE read through the coherence point as a CPU-class request (R374). -/
def State.pteRead (s : State) (a : Nat) : Option Nat × State := s.physRead qCpu a 8

/-- The table walk for 36-bit page number `vpn` from the table at `ppn`, level by level (R374, R375): the leaf's entry or a
cause. X alone makes an entry a leaf, as in the privileged architecture (DEDUCED). -/
def State.walk (s : State) (st vpn ppn : Nat) : Nat → (Nat ⊕ TlbEntry) × State
  | 0 => (.inl flNotValid, s)
  | lvl + 1 =>
    let a := ppn * 4096 + 8 * (vpn / 512 ^ lvl % 512)
    if !dmaRegion a then (.inl flWalkErr, s)
    else
      let q := s.pteRead a
      match q.1 with
      | none => (.inl flWalkErr, q.2)
      | some pte =>
        let next := pte / 2 ^ 10 % 2 ^ 44
        let r := bitAt pte 1
        let w := bitAt pte 2
        let x := bitAt pte 3
        if !bitAt pte 0 || (w && !r) || 2 ^ 54 ≤ pte then (.inl flNotValid, q.2)
        else if !r && !x then q.2.walk st vpn next lvl
        else
          let out := (next / 512 ^ lvl * 512 ^ lvl + vpn % 512 ^ lvl) * 4096
          if !dmaRegion out then (.inl flRange, q.2)
          else if next % 512 ^ lvl ≠ 0 then (.inl flNotValid, q.2)
          else (.inr { stream := st, vpn := vpn / 512 ^ lvl * 512 ^ lvl, span := 512 ^ lvl, ppn := next, r, w }, q.2)

/-- The IOTLB entry of a stream that covers a page. -/
def State.tlbFind (s : State) (st vpn : Nat) : Option TlbEntry :=
  s.trn.tlb.find? fun e => e.stream = st && e.vpn ≤ vpn && vpn < e.vpn + e.span

/-- IOTLB entries that satisfy `p` discarded. -/
def State.tlbDrop (s : State) (p : TlbEntry → Bool) : State :=
  { s with trn := { s.trn with tlb := s.trn.tlb.filter fun e => !p e } }

/-- An entry put in; with 1,024 in use one of the part's choice leaves. -/
def State.tlbPut (s : State) (e : TlbEntry) : State :=
  let t := if s.trn.tlb.length < 1024 then s.trn.tlb else s.trn.tlb.eraseIdx (Config.freeChoice 1024 s.fresh % 1024)
  { s with trn := { s.trn with tlb := e :: t }, fresh := s.fresh + 1 }

/-- A lookup whose parity check fails discards the entry and reports it; the walk follows (source 13 of R441, R449). -/
def State.tlbParity (s : State) (st vpn : Nat) : State :=
  if (s.tlbFind st vpn).isNone then s
  else
    let q := s.takeInjection [13]
    match q.1 with
    | none => q.2
    | some _ => (q.2.tlbDrop fun e => e.stream = st && e.vpn ≤ vpn && vpn < e.vpn + e.span).report 13 1

/-- The entry that translates a page, from the IOTLB or by a walk. -/
def State.tlbEntry (s : State) (st vpn : Nat) : (Nat ⊕ TlbEntry) × State :=
  let t := s.tlbParity st vpn
  match t.tlbFind st vpn with
  | some e => (.inr e, t)
  | none =>
    let q := t.walk st vpn (t.rf (R.TRN_SCTX st) F.TRN_SCTX_ROOT_PPN) 4
    match q.1 with
    | .inr e => (.inr e, q.2.tlbPut e)
    | .inl c => (.inl c, q.2)

/-- A translation fault: queued, or counted when the queue is full; FAULTED sets but for the host streams (R376). -/
def State.trnFault (s : State) (st iova : Nat) (write : Bool) (cause : Nat) : State :=
  let f : TrnFault := { stream := st, iova, write, cause }
  let s1 := if s.trn.faults.length < 16 then { s with trn := { s.trn with faults := s.trn.faults ++ [f], result := none } }
    else { s with trn := { s.trn with result := none } }.countUp R.TRN_FLT_CNT F.TRN_FLT_CNT_LOST 1
  if st = 44 ∨ st = 45 then s1 else s1.raise (R.TRN_SCTX st) F.TRN_SCTX_FAULTED

/-- A translation that gives `a`. -/
def State.trnGives (s : State) (a : Nat) : Option Nat × State := (some a, { s with trn := { s.trn with result := some a } })

/-- The physical address of an access, or a fault (R374, R375). -/
def State.translate (s : State) (st iova0 : Nat) (write : Bool) : Option Nat × State :=
  let iova := iova0 % 2 ^ 48
  let mode := s.rf (R.TRN_SCTX st) F.TRN_SCTX_MODE
  let fail := fun (t : State) (c : Nat) => ((none : Option Nat), t.trnFault st iova write c)
  if s.flag (R.TRN_SCTX st) F.TRN_SCTX_FAULTED then fail s flStopped
  else if mode = trnOff then fail s flOff
  else if 2 ^ 47 ≤ iova then fail s flRange
  else if mode = trnBare then (if dmaRegion iova then s.trnGives iova else fail s flRange)
  else
    let q := s.tlbEntry st (iova / 4096)
    match q.1 with
    | .inl c => fail q.2 c
    | .inr e =>
      let a := (e.ppn + (iova / 4096 - e.vpn)) * 4096 + iova % 4096
      if !dmaRegion a then fail q.2 flRange
      else if (if write then e.w else e.r) then q.2.trnGives a
      else fail q.2 flPerm

/-- The outcome of a data-path access: done, an error response of the memory, or a translation fault. -/
inductive DmaEnd where
  | done
  | busError
  | fault
deriving DecidableEq, Repr

/-- `n` bytes read through Turnpike at `iova`, page by page, over at most `k` pages. -/
def State.dmaReadPages (s : State) (st cls iova n : Nat) : Nat → DmaEnd × Nat × State
  | 0 => (.done, 0, s)
  | k + 1 =>
    if n = 0 then (.done, 0, s)
    else
      let m := min n (4096 - iova % 4096)
      let q := s.translate st iova false
      match q.1 with
      | none => (.fault, 0, q.2)
      | some a =>
        let r := q.2.physRead cls a m
        match r.1 with
        | none => (.busError, 0, r.2)
        | some d =>
          let t := r.2.dmaReadPages st cls (iova + m) (n - m) k
          (t.1, d + 2 ^ (8 * m) * t.2.1, t.2.2)

/-- `n` bytes read through Turnpike. -/
def State.dmaRead (s : State) (st cls iova n : Nat) : DmaEnd × Nat × State := s.dmaReadPages st cls iova n (n / 4096 + 2)

/-- `n` bytes of `v` written through Turnpike at `iova`, over at most `k` pages. -/
def State.dmaWritePages (s : State) (st cls iova n v : Nat) : Nat → DmaEnd × State
  | 0 => (.done, s)
  | k + 1 =>
    if n = 0 then (.done, s)
    else
      let m := min n (4096 - iova % 4096)
      let q := s.translate st iova true
      match q.1 with
      | none => (.fault, q.2)
      | some a =>
        let r := q.2.physWrite cls a m (v % 2 ^ (8 * m))
        if r.1 then r.2.dmaWritePages st cls (iova + m) (n - m) (v / 2 ^ (8 * m)) k else (.busError, r.2)

/-- `n` bytes of `v` written through Turnpike. -/
def State.dmaWrite (s : State) (st cls iova n v : Nat) : DmaEnd × State :=
  s.dmaWritePages st cls iova n v (n / 4096 + 2)

end Sys2Proof.Machine
end

