-- ==== Sys2Proof/Machine/CarOps.lean ====
section
/-!
DEFINITION. Sys2Proof/Machine/CarOps.lean: the shared operations of Carriage: request lines and segment levels (R403, R404,
R408), the start of a transfer (R406, R410), its beats (R405, R407, R409) and its end (R411 to R414).
-/

namespace Sys2Proof.Machine

/-- Channel `k`'s transfer. -/
def State.carCh (s : State) (k : Nat) : CarChan := s.car.ch.getD k {}
def State.setCarCh (s : State) (k : Nat) (c : CarChan) : State := { s with car := { s.car with ch := s.car.ch.set k c } }

/-- Resources of Carriage (R54). -/
def carReqRes (l : Nat) : Nat := 0x0400 + l
def carChanRes (k : Nat) : Nat := 0x0500 + k
def bufSegRes (g : Nat) : Nat := 0x0600 + g

/-- END and ERR_KIND codes of CAR_CH_STAT. -/
def ceDone : Nat := 1
def ceError : Nat := 2
def ceRefused : Nat := 3
def ceDisabled : Nat := 4
def ckRead : Nat := 1
def ckWrite : Nat := 2
def ckTranslation : Nat := 3
def ckTerminal : Nat := 4
def ckAlign : Nat := 5
def ckOverlap : Nat := 6
def ckEmpty : Nat := 7

/-! ### Request lines (R403, R404, R408) -/

/-- Line `l` may serve channel `k`: claimed, and by the channel's owner (R401, R59). -/
def State.lineServes (s : State) (l k : Nat) : Bool :=
  s.owner (carReqRes l) ≠ 0 && s.owner (carReqRes l) = s.owner (carChanRes k)

/-- A rising edge of line `l` at channel `k` (R408). -/
def State.edgeAt (s : State) (l k : Nat) : State :=
  let c := R.CAR_CH_CTL k
  if s.flag c F.CAR_CH_CTL_EN && s.flag c F.CAR_CH_CTL_PACED && s.rf c F.CAR_CH_CTL_REQ = l && s.lineServes l k then
    let p := s.rf (R.CAR_CH_STAT k) F.CAR_CH_STAT_PEND
    if p = 63 then s.raise (R.CAR_CH_EVT k) F.CAR_CH_EVT_REQ_OVF else s.wf (R.CAR_CH_STAT k) F.CAR_CH_STAT_PEND (p + 1)
  else s

/-- A rising edge of a request line; lines 48 to 55 never rise (R403). -/
def State.requestEdge (s : State) (l : Nat) : State :=
  if 48 ≤ l && l < 56 then s else (List.range 32).foldl (fun t k => t.edgeAt l k) s

/-- FILL of segment `g` in bytes. -/
def State.segFill (s : State) (g : Nat) : Nat := spGetD 0 s.car.fill g

/-- FILL set, with the edge of the watermark where it is crossed (R404). -/
def State.setFill (s : State) (g n : Nat) (edge : Bool) : State :=
  let old := s.segFill g
  let s1 := { s with car := { s.car with fill := spSet 0 s.car.fill g n } }.wf (R.CAR_SEG_FILL g) F.CAR_SEG_FILL_FILL (n / 64)
  let level := 64 * s.rf (R.CAR_SEG_WM g) F.CAR_SEG_WM_LEVEL
  let crossed := if s.flag (R.CAR_SEG_WM g) F.CAR_SEG_WM_DIR then decide (level < old) && n ≤ level
    else decide (old < level) && level ≤ n
  if edge && crossed then s1.requestEdge (16 + g) else s1

/-- The owner block writes (`n` positive) or reads bytes of segment `g`; nothing counts for a pair's segment (R404). -/
def State.segMove (s : State) (g : Nat) (n : Int) : State :=
  let o := s.owner (bufSegRes g)
  if 32 ≤ g || o ≤ 2 then s else s.setFill g (clampNat 0 65536 (((s.segFill g : Int) + n).toNat)) true

/-- The owner block of segment `g` puts bytes into it, behind those that stand there; 64 KiB stand at most (R6, R404). -/
def State.segPut (s : State) (g : Nat) (l : List Nat) : State :=
  let b := spGetD [] s.car.bytes g ++ l
  { s with car := { s.car with bytes := spSet [] s.car.bytes g (b.drop (b.length - 65536)) } }.segMove g l.length

/-- The owner block reads the `n` oldest bytes of segment `g` out of it. -/
def State.segTake (s : State) (g n : Nat) : State :=
  { s with car := { s.car with bytes := spSet [] s.car.bytes g ((spGetD [] s.car.bytes g).drop n) } }.segMove g (-(n : Int))

/-- A write of CAR_SEG_FILL (R404). -/
def State.writeSegFill (s : State) (i : Initiator) (g : Nat) (v : Word) : State :=
  if !s.ready .carriage || !s.mayControl i (bufSegRes g) then s
  else if fget v F.CAR_SEG_FILL_CLR = 1 then s.setFill g 0 false
  else
    let own := (i = .port && s.owner (bufSegRes g) = 1) || (i = .media && s.owner (bufSegRes g) = 2)
    let adj := signedOf 12 (fget v F.CAR_SEG_FILL_ADJ)
    if own then s.setFill g (64 * clampNat 0 1024 (((s.segFill g / 64 : Nat) : Int) + adj).toNat) true else s

/-- A write of CAR_SEG_WM. -/
def State.writeSegWm (s : State) (i : Initiator) (g : Nat) (v : Word) : State :=
  if s.ready .carriage && s.mayControl i (bufSegRes g) then s.writeFields (R.CAR_SEG_WM g) v else s

/-- A line that a channel owner under the writer's control owns (CAR_SWREQ). -/
def State.mayRaise (s : State) (i : Initiator) (l : Nat) : Bool :=
  (List.range 32).any fun k => s.mayControl i (carChanRes k) && s.lineServes l k

/-- A write of CAR_SWREQ. -/
def State.writeSwreq (s : State) (i : Initiator) (lines : Nat) : State :=
  if !s.ready .carriage then s
  else (List.range 8).foldl (fun t b => if bitAt lines b && t.mayRaise i (56 + b) then t.requestEdge (56 + b) else t) s

/-! ### A transfer's geometry (R405, R407) -/

/-- The address of the `n` bytes at offset `o` in transfer order of a range. -/
def CarChan.addr (c : CarChan) (base o n : Nat) : Nat := if c.down then base + c.count - o - n else base + o

/-- The unit of SWAP in bytes. -/
def swapUnit (w : Nat) : Nat := if w = 0 then 1 else if w = 1 then 2 else 4

/-- One unit swapped (R407). -/
def swapOne (w d : Nat) : Nat :=
  match w with
  | 1 => rdLe d 1 1 + 2 ^ 8 * rdLe d 0 1
  | 2 => rdLe d 3 1 + 2 ^ 8 * rdLe d 2 1 + 2 ^ 16 * rdLe d 1 1 + 2 ^ 24 * rdLe d 0 1
  | 3 => rdLe d 2 2 + 2 ^ 16 * rdLe d 0 2
  | _ => d

/-- `n` units of a byte stream swapped. -/
def swapAll (w d : Nat) : Nat → Nat
  | 0 => 0
  | n + 1 => swapOne w (d % 2 ^ (8 * swapUnit w)) + 2 ^ (8 * swapUnit w) * swapAll w (d / 2 ^ (8 * swapUnit w)) n

/-- Bytes the holding register must hold before it is unpacked: a destination beat and a whole SWAP unit. -/
def CarChan.group (c : CarChan) : Nat := max c.db (swapUnit c.swap)

/-- Bytes of one burst, and of the next one. -/
def CarChan.burstBytes (c : CarChan) : Nat := c.burst * c.sb
def CarChan.nextBurst (c : CarChan) : Nat := min c.burstBytes (c.count - c.asked)

/-- SRC, DST and COUNT of channel `k` set to a position. -/
def State.carPlace (s : State) (k src dst count : Nat) : State :=
  ((((s.wr (R.CAR_CH_SRC_LO k) (word src)).wf (R.CAR_CH_SRC_HI k) F.CAR_CH_SRC_HI_IOVA (src / 2 ^ 32)).wr (R.CAR_CH_DST_LO k)
    (word dst)).wf (R.CAR_CH_DST_HI k) F.CAR_CH_DST_HI_IOVA (dst / 2 ^ 32)).wr (R.CAR_CH_COUNT k) (word count)

/-- SRC and DST read the address of the next burst while BUSY; COUNT the bytes not issued. -/
def State.carShow (s : State) (k : Nat) : State :=
  let c := s.carCh k
  s.carPlace k (c.addr c.src c.asked c.nextBurst) (c.addr c.dst c.asked c.nextBurst) (c.count - c.issued)

/-- BUSY of channel `k`, in its status and in CAR_BUSY. -/
def State.carBusy (s : State) (k : Nat) : Bool := s.flag (R.CAR_CH_STAT k) F.CAR_CH_STAT_BUSY
def State.setCarBusy (s : State) (k : Nat) (v : Bool) : State :=
  (s.wf (R.CAR_CH_STAT k) F.CAR_CH_STAT_BUSY (b2n v)).wf R.CAR_BUSY ⟨k, k⟩ (b2n v)

/-! ### How a transfer ends (R411 to R413) -/

/-- The pieces of at most 4 KiB of an IOVA range, with their physical addresses where the stream translates them. -/
def State.pieces (s : State) (st iova n : Nat) (write : Bool) : Nat → List (Nat × Nat × Nat)
  | 0 => []
  | f + 1 =>
    if n = 0 then []
    else
      let m := min n (4096 - iova % 4096)
      let rest := s.pieces st (iova + m) (n - m) write f
      match (s.translate st iova write).1 with
      | some a => (iova, a, m) :: rest
      | none => rest

/-- Source and destination pieces that are the same physical bytes under different IOVAs (R410). -/
def State.aliased (s : State) (st src dst n : Nat) : Bool :=
  (s.pieces st src n false (n / 4096 + 2)).any fun a => (s.pieces st dst n true (n / 4096 + 2)).any fun b =>
    a.2.1 < b.2.1 + b.2.2 && b.2.1 < a.2.1 + a.2.2 && a.1 + b.2.1 ≠ b.1 + a.2.1

/-- Free bytes put into pieces of the destination, where its content is undefined (R410, R411). -/
def State.scribblePieces (s : State) : List (Nat × Nat × Nat) → State
  | [] => s
  | (_, a, m) :: rest =>
    let q := s.free (8 * m)
    (q.2.physWrite qBulk a m q.1).2.scribblePieces rest

/-- The destination from offset `o` for `n` bytes becomes undefined. -/
def State.scribble (s : State) (k o n : Nat) : State :=
  let c := s.carCh k
  s.scribblePieces (s.pieces k (c.addr c.dst o n) n true (n / 4096 + 2))

/-- The transfer ended with its registers set: END, ERR_KIND and the event. -/
def State.carEnd (s : State) (k e kind : Nat) : State :=
  let s1 := ((s.setCarCh k {}).setCarBusy k false).wf (R.CAR_CH_STAT k) F.CAR_CH_STAT_END e
  let s2 := s1.wf (R.CAR_CH_STAT k) F.CAR_CH_STAT_ERR_KIND kind
  if e = ceDone then s2.raise (R.CAR_CH_EVT k) F.CAR_CH_EVT_DONE
  else if e = ceDisabled then s2
  else s2.raise (R.CAR_CH_EVT k) F.CAR_CH_EVT_ERR

/-- DONE: COUNT 0, SRC and DST past the range; ranges that alias leave the destination undefined. -/
def State.carDone (s : State) (k : Nat) : State :=
  let c := s.carCh k
  let s1 := if s.aliased k c.src c.dst c.count then s.scribble k 0 c.count else s
  (s1.carPlace k (if c.down then c.src else c.src + c.count) (if c.down then c.dst else c.dst + c.count) 0).carEnd k ceDone 0

/-- ERROR: the resumable position, or COUNT 0 after a terminal beat; the latched error (R411, R412). -/
def State.carFail (s : State) (k : Nat) (e : CarErr) : State :=
  let c := s.carCh k
  let term := e.kind = ckWrite && e.off + c.db = c.count
  let s1 := s.scribble k c.good (c.issued - c.good)
  let at_ := if term then c.count else c.good
  let s2 := s1.carPlace k (if c.down then c.src else c.src + at_) (if c.down then c.dst else c.dst + at_) (c.count - at_)
  let s3 := (s2.wr (R.CAR_CH_ERR_LO k) (word e.iova)).wr (R.CAR_CH_ERR_HI k)
    (word (b2n e.write * 2 ^ 31 + e.iova / 2 ^ 32 % 2 ^ 16))
  s3.carEnd k ceError (if term then ckTerminal else e.kind)

/-- A transfer with nothing outstanding ends when it was disabled, has failed or is whole. -/
def State.carSettle (s : State) (k : Nat) : State :=
  let c := s.carCh k
  if !c.active || c.reads ≠ [] || c.writes ≠ [] then s
  else if c.disabled then (s.scribble k 0 c.count).carEnd k ceDisabled 0
  else match c.err with
    | some e => s.carFail k e
    | none => if c.good = c.count then s.carDone k else s

/-- An error of channel `k`: the first in transfer order is kept; a disabled channel latches none (R412, R414). -/
def State.carError (s : State) (k : Nat) (e : CarErr) : State :=
  let c := s.carCh k
  if c.disabled then s
  else match c.err with
    | some o => if e.off < o.off then s.setCarCh k { c with err := some e } else s
    | none => s.setCarCh k { c with err := some e }

/-! ### START (R406, R410) -/

/-- The beat in bytes of a width code. -/
def beatBytes (code : Nat) : Nat := 2 ^ code

/-- The descriptor in the registers of channel `k`. -/
def State.carDesc (s : State) (k : Nat) : CarChan :=
  let f := R.CAR_CH_CTL k
  { src := s.rf (R.CAR_CH_SRC_LO k) F.CAR_CH_SRC_LO_IOVA + 2 ^ 32 * s.rf (R.CAR_CH_SRC_HI k) F.CAR_CH_SRC_HI_IOVA,
    dst := s.rf (R.CAR_CH_DST_LO k) F.CAR_CH_DST_LO_IOVA + 2 ^ 32 * s.rf (R.CAR_CH_DST_HI k) F.CAR_CH_DST_HI_IOVA,
    count := (s.rd (R.CAR_CH_COUNT k)).toNat, sb := beatBytes (s.rf f F.CAR_CH_CTL_SW), db := beatBytes (s.rf f F.CAR_CH_CTL_DW),
    burst := s.rf f F.CAR_CH_CTL_BURST, swap := s.rf f F.CAR_CH_CTL_SWAP }

/-- Why a START is refused, if it is. -/
def carRefusal (c : CarChan) : Option Nat :=
  let u := max (max c.sb c.db) (swapUnit c.swap)
  let meet := decide (c.src < c.dst + c.count) && decide (c.dst < c.src + c.count)
  if c.count % u ≠ 0 || c.burstBytes % u ≠ 0 || c.src % max c.sb (swapUnit c.swap) ≠ 0
      || c.dst % max c.db (swapUnit c.swap) ≠ 0 then some ckAlign
  else if c.count = 0 then some ckEmpty
  else if meet && c.sb ≠ c.db then some ckOverlap
  else none

/-- START on an idle, enabled channel. -/
def State.carStart (s : State) (k : Nat) : State :=
  let c := s.carDesc k
  match carRefusal c with
  | some r =>
    ((s.wf (R.CAR_CH_STAT k) F.CAR_CH_STAT_END ceRefused).wf (R.CAR_CH_STAT k) F.CAR_CH_STAT_ERR_KIND r).raise
      (R.CAR_CH_EVT k) F.CAR_CH_EVT_ERR
  | none =>
    let down := decide (c.src ≤ c.dst) && decide (c.dst < c.src + c.count)
    let s1 := (s.setCarCh k { c with active := true, down }).setCarBusy k true
    (((s1.wf (R.CAR_CH_STAT k) F.CAR_CH_STAT_END 0).wf (R.CAR_CH_STAT k) F.CAR_CH_STAT_ERR_KIND 0).wf (R.CAR_CH_STAT k)
      F.CAR_CH_STAT_DIR (b2n down)).carShow k

/-- The channel stops at once: the holding register and the reads in flight go, PEND clears, and COUNT, SRC and DST read
undefined values (R413). -/
def State.carDisable (s : State) (k : Nat) : State :=
  let c := s.carCh k
  let s1 := (s.setCarCh k { c with disabled := true, reads := [], hold := 0, held := 0, err := none }).wf (R.CAR_CH_STAT k)
    F.CAR_CH_STAT_PEND 0
  let a := s1.free 48
  let b := a.2.free 48
  let n := b.2.free 32
  ((n.2.carPlace k a.1 b.1 n.1).wf (R.CAR_CH_STAT k) F.CAR_CH_STAT_END ceDisabled).carSettle k

/-- A write of CAR_CH_CTL (R401, R402, R413, R414). -/
def State.writeCarCtl (s : State) (i : Initiator) (k : Nat) (v : Word) : State :=
  let f := R.CAR_CH_CTL k
  let old := s.rd f
  let req := fget v F.CAR_CH_CTL_REQ
  let start := fget v F.CAR_CH_CTL_START = 1
  let en := fget v F.CAR_CH_CTL_EN = 1
  let same := (s.writeFields f (fset (fset v F.CAR_CH_CTL_EN (fget old F.CAR_CH_CTL_EN)) F.CAR_CH_CTL_START 0)).rd f = old
  if !s.ready .carriage || !s.mayControl i (carChanRes k) || 5 < fget v F.CAR_CH_CTL_DW || 5 < fget v F.CAR_CH_CTL_SW
      || fget v F.CAR_CH_CTL_BURST = 0 || 64 < fget v F.CAR_CH_CTL_BURST
      || (req ≠ fget old F.CAR_CH_CTL_REQ && !s.lineServes req k) || (start && !en) then s
  else if s.carBusy k then
    if start || !same then s
    else
      let s1 := s.wf f F.CAR_CH_CTL_EN (b2n en)
      if en || (s.carCh k).disabled then s1 else s1.carDisable k
  else
    let s1 := s.writeFields f v
    if start then s1.carStart k else s1

/-- A write of SRC, DST or COUNT of channel `k`, which BUSY locks (R414), or of its event registers. -/
def State.writeCarReg (s : State) (i : Initiator) (k off : Nat) (v : Word) (locked : Bool) : State :=
  if !s.ready .carriage || !s.mayControl i (carChanRes k) || (locked && s.carBusy k) then s else s.writeFields off v

/-! ### Bursts and beats (R405, R408, R409) -/

/-- A burst of channel `k` is in flight. -/
def CarChan.inFlight (c : CarChan) : Bool := c.reads ≠ [] || c.writes ≠ []

/-- Channel `k` holds a grant and has a burst to issue. -/
def State.carReady (s : State) (k : Nat) : Bool :=
  let c := s.carCh k
  c.active && !c.disabled && c.err = none && !c.inFlight && decide (c.asked < c.count)
    && (!s.flag (R.CAR_CH_CTL k) F.CAR_CH_CTL_PACED || 0 < s.rf (R.CAR_CH_STAT k) F.CAR_CH_STAT_PEND)

/-- The next ready channel of priority `p`, round-robin after the last served. -/
def State.carPickAt (s : State) (p : Nat) : Option Nat :=
  ((List.range 32).map fun j => (s.car.served.getD p 31 + 1 + j) % 32).find? fun k =>
    s.rf (R.CAR_CH_CTL k) F.CAR_CH_CTL_PRIO = p && s.carReady k

/-- The channel whose burst issues next. -/
def State.carPick (s : State) : Option (Nat × Nat) :=
  [3, 2, 1, 0].findSome? fun p => (s.carPickAt p).map fun k => (p, k)

/-- A burst of channel `k` issued: its read beats, one PEND taken. -/
def State.carBurst (s : State) (p k : Nat) : State :=
  let c := s.carCh k
  let n := c.nextBurst
  let s1 := s.setCarCh k { c with asked := c.asked + n, reads := (List.range (n / c.sb)).map fun j => c.asked + j * c.sb }
  let s2 := { s1 with car := { s1.car with served := s1.car.served.set p k } }
  let s3 := if s2.flag (R.CAR_CH_CTL k) F.CAR_CH_CTL_PACED then
      s2.wf (R.CAR_CH_STAT k) F.CAR_CH_STAT_PEND (s2.rf (R.CAR_CH_STAT k) F.CAR_CH_STAT_PEND - 1)
    else s2
  s3.carShow k

/-- A destination beat: accepted by Turnpike and issued, or a translation error. -/
def State.carIssue (s : State) (k o d : Nat) : State :=
  let c := s.carCh k
  if c.err.isSome then s
  else
    let a := c.addr c.dst o c.db
    let q := s.translate k a true
    match q.1 with
    | none => q.2.carError k { off := o, iova := a, write := true, kind := ckTranslation }
    | some ph => q.2.setCarCh k { c with issued := c.issued + c.db, writes := c.writes ++ [⟨o, ph, d⟩] }

/-- The beats of `n` bytes `d` (by ascending address) issued in transfer order. -/
def State.carUnpack (s : State) (k d n : Nat) : Nat → State
  | 0 => s
  | m + 1 =>
    let c := s.carCh k
    let beats := n / c.db
    let j := beats - (m + 1)
    let x := if c.down then beats - 1 - j else j
    (s.carIssue k c.issued (rdLe d (x * c.db) c.db)).carUnpack k d n m

/-- Read data enters the holding register, which is unpacked once it holds a group. -/
def State.carData (s : State) (k d : Nat) : State :=
  let c := s.carCh k
  let n := c.held + c.sb
  let h := if c.down then d + c.hold * 2 ^ (8 * c.sb) else c.hold + d * 2 ^ (8 * c.held)
  if n % c.group ≠ 0 then s.setCarCh k { c with hold := h, held := n }
  else
    let w := swapAll c.swap h (n / swapUnit c.swap)
    (s.setCarCh k { c with hold := 0, held := 0 }).carUnpack k w n (n / c.db)

/-- The oldest read beat of channel `k` responds. -/
def State.carRead (s : State) (k : Nat) : State :=
  let c := s.carCh k
  match c.reads with
  | [] => s
  | o :: rest =>
    let a := c.addr c.src o c.sb
    let s1 := s.setCarCh k { c with reads := rest }
    let q := s1.translate k a false
    let s2 := match q.1 with
      | none => if c.err.isSome then s1 else q.2.carError k { off := o, iova := a, write := false, kind := ckTranslation }
      | some ph =>
        let r := q.2.physRead qBulk ph c.sb
        match r.1 with
        | none => r.2.carError k { off := o, iova := a, write := false, kind := ckRead }
        | some d => if c.err.isSome then r.2 else r.2.carData k d
    let s3 := if (s2.carCh k).active then s2.wr (R.CAR_CH_COUNT k) (word ((s2.carCh k).count - (s2.carCh k).issued)) else s2
    s3.carSettle k

/-- The oldest write beat of channel `k` responds. -/
def State.carWrite (s : State) (k : Nat) : State :=
  let c := s.carCh k
  match c.writes with
  | [] => s
  | b :: rest =>
    let q := (s.setCarCh k { c with writes := rest }).physWrite qBulk b.phys c.db b.data
    let s1 := if q.1 then
        (if c.good = b.off then q.2.setCarCh k { q.2.carCh k with good := b.off + c.db } else q.2)
      else q.2.carError k { off := b.off, iova := c.addr c.dst b.off c.db, write := true, kind := ckWrite }
    s1.carSettle k

/-- The write beats still out land, and the disabled channel's BUSY clears (R413). -/
def State.carDrain (s : State) (k : Nat) : Nat → State
  | 0 => s.carSettle k
  | n + 1 => (s.carWrite k).carDrain k n

/-- A translation fault of the channel's stream met outside its own beats (R376): halted as for a bus error. -/
def State.carFault (s : State) (k iova : Nat) (write : Bool) : State :=
  let c := s.carCh k
  if !c.active then s
  else (s.carError k { off := if write then c.issued else c.reads.headD c.asked, iova, write, kind := ckTranslation }).carSettle k

end Sys2Proof.Machine
end

