-- ==== Sys2Proof/Machine/ObsOps.lean ====
section
/-!
DEFINITION. Sys2Proof/Machine/ObsOps.lean: the shared operations of Obsidian: the cores and their scheduling (R417), raw operations (R424) and the authenticated units (R425).
-/

namespace Sys2Proof.Machine

/-! ### Raw ports -/

/-- The raw port of an initiator (R417). -/
def rawPort : Initiator → Option Nat
  | .port => some 0
  | .media => some 1
  | .str n => some (2 + n.val)
  | _ => none

/-- Raw port `p` waits for an operation. -/
def State.rawBusy (s : State) (p : Nat) : Bool := s.flag (R.OBS_RAW_STAT p) F.OBS_RAW_STAT_BUSY

/-- OUT of port `p` set to a block. -/
def State.setOut (s : State) (p b : Nat) : State :=
  (((s.wr (R.OBS_RAW_OUT p 0) (word b)).wr (R.OBS_RAW_OUT p 1) (word (b / 2 ^ 32))).wr (R.OBS_RAW_OUT p 2)
    (word (b / 2 ^ 64))).wr (R.OBS_RAW_OUT p 3) (word (b / 2 ^ 96))

/-- The block in IN of port `p`. -/
def State.rawIn (s : State) (p : Nat) : Nat :=
  (s.rd (R.OBS_RAW_IN p 0)).toNat + 2 ^ 32 * (s.rd (R.OBS_RAW_IN p 1)).toNat + 2 ^ 64 * (s.rd (R.OBS_RAW_IN p 2)).toNat
    + 2 ^ 96 * (s.rd (R.OBS_RAW_IN p 3)).toNat

/-- A raw operation completes with a status. -/
def State.rawEnd (s : State) (p st : Nat) : State :=
  ((s.wf (R.OBS_RAW_STAT p) F.OBS_RAW_STAT_BUSY 0).raise (R.OBS_RAW_STAT p) F.OBS_RAW_STAT_DONE).wf (R.OBS_RAW_STAT p)
    F.OBS_RAW_STAT_STATUS st

def rsOk : Nat := 1
def rsNoKey : Nat := 2
def rsAuState : Nat := 3

/-! ### Authenticated units -/

/-- Unit states of OBS_AU_STAT. -/
def auIdle : Nat := 0
def auOpen : Nat := 1
def auPass : Nat := 2
def auFail : Nat := 3

/-- The BUF_SEG segments owned by Obsidian, ascending. -/
def State.auSegs (s : State) : List Nat := (List.range 48).filter fun k => s.owner (bufSegRes k) = 0x43

/-- Units that exist, up to four. -/
def State.auCount (s : State) : Nat := min 4 s.auSegs.length

/-- `n` bytes written into (or read from, negative) the segment of unit `u` by Obsidian (R404). -/
def State.auMove (s : State) (u : Nat) (n : Int) : State := s.segMove (s.auSegs.getD u 48) n

/-- Unit `u`, its state, its opening port. -/
def State.au (s : State) (u : Nat) : AuUnit := s.obs.units.getD u {}
def State.setAu (s : State) (u : Nat) (x : AuUnit) : State := { s with obs := { s.obs with units := s.obs.units.set u x } }
def State.auState (s : State) (u : Nat) : Nat := s.rf (R.OBS_AU_STAT u) F.OBS_AU_STAT_STATE
def State.auBlocks (s : State) (u : Nat) : Nat := s.rf (R.OBS_AU_STAT u) F.OBS_AU_STAT_BLOCKS

/-- Unit `u` is OPEN by port `p`. -/
def State.auOpenBy (s : State) (u p : Nat) : Bool :=
  u < s.auCount && s.auState u = auOpen && s.rf (R.OBS_AU_STAT u) F.OBS_AU_STAT_PORT = p

/-- The buffer of a unit zeroed. -/
def State.auZero (s : State) (u : Nat) : State := s.setAu u { s.au u with data := 0, pos := 0, compare := none }

/-- The compare of R425: PASS, or FAIL with the buffer zeroed and the failure counted. -/
def State.auCompare (s : State) (u tlen : Nat) : State :=
  let x := s.au u
  let s1 := s.setAu u { x with compare := none }
  if x.tag % 2 ^ (8 * tlen) = x.expected % 2 ^ (8 * tlen) then s1.wf (R.OBS_AU_STAT u) F.OBS_AU_STAT_STATE auPass
  else (((s1.auZero u).wf (R.OBS_AU_STAT u) F.OBS_AU_STAT_STATE auFail).raise R.OBS_EVT F.OBS_EVT_AU_FAIL).countUp R.OBS_CNT
    F.OBS_CNT_AU_FAIL 1

/-- A unit has operations in cores. -/
def State.auInCore (s : State) (u : Nat) : Bool :=
  s.obs.cores.any fun r => match r with
    | some q => q.dest ≠ 0 && q.au = u
    | none => false

/-- The waiting compares whose units have no operation left in a core are made. -/
def State.auDrain (s : State) : State :=
  (List.range 4).foldl (fun t u => match (t.au u).compare with
    | some n => if t.auInCore u then t else t.auCompare u n
    | none => t) s

/-- A finished block stored where DEST names (R424). -/
def State.rawStore (s : State) (r : RawReq) (b : Nat) : State :=
  if r.dest = 0 then (s.setOut r.port b).rawEnd r.port rsOk
  else
    let s1 := s.setOut r.port 0
    if !s.auOpenBy r.au r.port || (r.dest = 1 && 4096 ≤ s.auBlocks r.au) then s1.rawEnd r.port rsAuState
    else if r.dest = 1 then
      let n := s.auBlocks r.au
      (((s1.setAu r.au { s1.au r.au with data := (s1.au r.au).data + b * 2 ^ (128 * n) }).wf (R.OBS_AU_STAT r.au)
        F.OBS_AU_STAT_BLOCKS (n + 1)).auMove r.au 16).rawEnd r.port rsOk
    else ((s1.setAu r.au { s1.au r.au with tag := b }).raise (R.OBS_AU_STAT r.au) F.OBS_AU_STAT_TAG_IN).rawEnd r.port rsOk

/-! ### Cores -/

/-- The next request round-robin would serve (R417). -/
def State.rrNext (s : State) : Option RawReq :=
  ((List.range 14).map fun k => (s.obs.rr + 1 + k) % 14).findSome? fun p => s.obs.waiting.find? fun r => r.port = p

/-- Core `c` takes its next request in the order of R417; a sequencer's requests end with their nano-word, so none waits. -/
def State.coreTake (s : State) (c : Nat) : State :=
  let first := c < s.rf R.OBS_SCHED F.OBS_SCHED_RAW_CORES
  match (if first then s.obs.waiting.head? else s.rrNext) with
  | none => s
  | some r =>
    { s with obs := { s.obs with cores := s.obs.cores.set c (some r), waiting := s.obs.waiting.erase r,
                                 rr := if first then s.obs.rr else r.port } }.wf R.OBS_STAT ⟨c, c⟩ 1

/-- The free cores. -/
def State.freeCores (s : State) : List Nat := (List.range 16).filter fun c => s.obs.cores.getD c none = none

/-- Waiting requests go to free cores; which free core takes one is the part's choice. -/
def State.coreKick (s : State) : Nat → State
  | 0 => s
  | n + 1 =>
    match s.obs.waiting, s.freeCores with
    | _ :: _, c :: cs =>
      let k := ((c :: cs)[Config.freeChoice (cs.length + 1) s.fresh % (cs.length + 1)]?).getD c
      ({ s with fresh := s.fresh + 1 }.coreTake k).coreKick n
    | _, _ => s

/-- A request meets its key: it goes to the scheduler, or completes with NO_KEY (R422). -/
def State.rawResolve (s : State) (r : RawReq) : State :=
  if s.keyState r.slot = ksLoaded then
    { s with obs := { s.obs with waiting := s.obs.waiting ++ [{ r with key := keyHalf (s.keyBits r.slot) r.half }] } }
  else s.noKey.rawEnd r.port rsNoKey

/-- A slot is used by a block in a core. -/
def State.slotInCore (s : State) (k : Nat) : Bool :=
  s.obs.cores.any fun r => match r with
    | some q => q.slot = k
    | none => false

/-- Key commands applied in order, each once its slot is idle; the requests that waited for it follow (R421). -/
def State.keyDrain (s : State) : Nat → State
  | 0 => s
  | n + 1 =>
    match s.obs.cmds with
    | [] => s
    | c :: rest =>
      if s.slotInCore c.slot then s
      else
        let s1 := { s with obs := { s.obs with cmds := rest } }
        let s2 := match c.load with
          | some b => s1.setKey c.slot ksLoaded b
          | none => s1.setKey c.slot ksEmpty 0
        let go := if rest.any (fun x => x.slot = c.slot) then [] else s2.obs.held.filter fun r => r.slot = c.slot
        let s3 := { s2 with obs := { s2.obs with held := s2.obs.held.filter fun r => !go.contains r } }
        (go.foldl State.rawResolve s3).keyDrain n

/-- BUSY of OBS_KEY_STAT follows the waiting commands. -/
def State.keyBusy (s : State) : State := s.wf R.OBS_KEY_STAT F.OBS_KEY_STAT_BUSY (b2n (s.obs.cmds ≠ []))

/-- Everything that can go on goes on: key commands, compares, requests to cores. -/
def State.obsAdvance (s : State) : State := ((s.keyDrain s.obs.cmds.length).keyBusy.auDrain).coreKick 16

/-! ### Writes -/

/-- A write of a global OBS register is open (R418). -/
def State.obsOpen (s : State) (i : Initiator) : Bool := s.ready .obsidian && isPair i

/-- A write of OBS_KEY_DATA (R421): a 17th word is a violation. -/
def State.writeKeyData (s : State) (i : Initiator) (v : Word) : State :=
  if !s.obsOpen i || 16 ≤ s.obs.staged.length then s
  else
    { s with obs := { s.obs with staged := s.obs.staged ++ [v] } }.wf R.OBS_KEY_STAT F.OBS_KEY_STAT_STAGED
      (s.obs.staged.length + 1)

/-- The staged words as 512 bits, K1's first word lowest. -/
def wordsBits : List Word → Nat
  | [] => 0
  | w :: rest => w.toNat + 2 ^ 32 * wordsBits rest

/-- A write of OBS_KEY_CMD (R421): the writer must be in the controller mask of the slot's claim. -/
def State.writeKeyCmd (s : State) (i : Initiator) (op slot : Nat) : State :=
  let okw := s.obsOpen i && s.mayControl i (keyRes slot) && (op = 2 || (op = 1 && s.obs.staged.length = 16))
  if !okw then s
  else
    let c : KeyCmd := { slot, load := if op = 1 then some (wordsBits s.obs.staged) else none }
    ({ s with obs := { s.obs with staged := [], cmds := s.obs.cmds ++ [c] } }.wf R.OBS_KEY_STAT F.OBS_KEY_STAT_STAGED
      0).obsAdvance

/-- A write of OBS_RAW_IN (R424). -/
def State.writeRawIn (s : State) (i : Initiator) (p j : Nat) (v : Word) : State :=
  if !s.ready .obsidian || rawPort i ≠ some p || s.rawBusy p then s else s.wr (R.OBS_RAW_IN p j) v

/-- A raw operation that waits for the key commands of its slot. -/
def State.holdRaw (s : State) (r : RawReq) : State := { s with obs := { s.obs with held := s.obs.held ++ [r] } }

/-- A write of OBS_RAW_CTL (R420, R422, R424); `upset`: the slot's storage shows a double-bit error. -/
def State.writeRawCtl (s : State) (i : Initiator) (p : Nat) (v : Word) (upset : Bool) : State :=
  if !s.ready .obsidian || rawPort i ≠ some p || s.rawBusy p || fget v F.OBS_RAW_CTL_DEST = 3 then s
  else
    let s1 := s.writeFields (R.OBS_RAW_CTL p) v
    if fget v F.OBS_RAW_CTL_GO = 0 then s1
    else
      let k := fget v F.OBS_RAW_CTL_KEY
      let s2 := s1.raise (R.OBS_RAW_STAT p) F.OBS_RAW_STAT_BUSY
      let r : RawReq := { port := p, slot := k, half := fget v F.OBS_RAW_CTL_HALF = 1, dir := fget v F.OBS_RAW_CTL_DIR = 1,
                          block := s2.rawIn p, dest := fget v F.OBS_RAW_CTL_DEST, au := fget v F.OBS_RAW_CTL_AU }
      if !s2.portMayUse p k then (s2.setOut p 0).rawEnd p rsOk
      else
        let s3 := s2.keyCheck k upset
        if s3.obs.cmds.any fun c => c.slot = k then s3.holdRaw r
        else (s3.rawResolve r).obsAdvance

/-- A core finishes its block (R417). -/
def State.coreDone (s : State) (c : Nat) : State :=
  match s.obs.cores.getD c none with
  | none => s
  | some r =>
    let s1 := { s with obs := { s.obs with cores := s.obs.cores.set c none } }.wf R.OBS_STAT ⟨c, c⟩ 0
    let s2 := s1.rawStore r (aesBlock r.key r.dir r.block)
    ((s2.keyDrain s2.obs.cmds.length).keyBusy.auDrain.coreTake c).coreKick 16

/-- A write of OBS_AU_CTL (R425). -/
def State.writeAuCtl (s : State) (i : Initiator) (u op tlen : Nat) : State :=
  match rawPort i with
  | none => s
  | some p =>
    let st := s.auState u
    let own := s.rf (R.OBS_AU_STAT u) F.OBS_AU_STAT_PORT = p
    let f := R.OBS_AU_STAT u
    if !s.ready .obsidian || s.auCount ≤ u then s
    else if op = 1 then
      if st ≠ auIdle then s
      else (((((s.auZero u).wf f F.OBS_AU_STAT_STATE auOpen).wf f F.OBS_AU_STAT_PORT p).wf f F.OBS_AU_STAT_BLOCKS 0).wf f
        F.OBS_AU_STAT_TAG_IN 0).wf f F.OBS_AU_STAT_TAG_SET 0
    else if !own then s
    else if op = 2 then
      if st ≠ auOpen || !s.flag f F.OBS_AU_STAT_TAG_IN || !s.flag f F.OBS_AU_STAT_TAG_SET || tlen < 4 || 16 < tlen then s
      else if s.auInCore u then s.setAu u { s.au u with compare := some tlen }
      else s.auCompare u tlen
    else if op = 3 && st ≠ auIdle then (s.auZero u).wf f F.OBS_AU_STAT_STATE auIdle
    else s

/-- A write of OBS_AU_TAG (R425): only the opening port may write it. -/
def State.writeAuTag (s : State) (i : Initiator) (u j : Nat) (v : Word) : State :=
  if !s.ready .obsidian || s.auCount ≤ u || s.auState u = auIdle
      || rawPort i ≠ some (s.rf (R.OBS_AU_STAT u) F.OBS_AU_STAT_PORT) then s
  else
    let x := s.au u
    (s.setAu u { x with expected := x.expected - rdLe x.expected (4 * j) 4 * 2 ^ (32 * j) + v.toNat * 2 ^ (32 * j) }).raise
      (R.OBS_AU_STAT u) F.OBS_AU_STAT_TAG_SET

/-- A read of OBS_AU_DATA (R425): the next quarantined word in PASS, to the opening port. -/
def State.readAuData (s : State) (i : Initiator) (u : Nat) : State :=
  let x := s.au u
  if s.auCount ≤ u || s.auState u ≠ auPass || rawPort i ≠ some (s.rf (R.OBS_AU_STAT u) F.OBS_AU_STAT_PORT)
      || 4 * s.auBlocks u ≤ x.pos then s.answer 0
  else ((s.setAu u { x with pos := x.pos + 1 }).auMove u (-4)).answer (word (rdLe x.data (4 * x.pos) 4))

end Sys2Proof.Machine
end

