-- ==== Sys2Proof/Machine/Demod.lean ====
section
/-!
DEFINITION. Sys2Proof/Machine/Demod.lean: angles and vectors on the sine of R299, and the servo demodulator (R274 to R277): tone magnitudes,
symbols and reference phase of a continuous frame; sync, track field and stripes of a wedge.
-/

namespace Sys2Proof.Machine

/-! ### Angles, 65,536 units to a turn (R298) -/

/-- 32,767 times the sine and the cosine, between the entries of R299 as R298 interpolates them. -/
def unitSin (a : Nat) : Int :=
  let i := a % 65536 / 64
  sineEntry i + (sineEntry (i + 1) - sineEntry i) * (a % 64 : Nat) / 64
def unitCos (a : Nat) : Int := unitSin (a + 16384)

/-- The largest angle from `a` on, of those reached in steps of 2^(n-1) and its halves, that the vector does not lie before. -/
def angleFrom (c s : Int) (a : Nat) : Nat → Nat
  | 0 => a
  | n + 1 =>
    let b := a + 2 ^ n
    angleFrom c s (if 0 ≤ unitCos b * s - unitSin b * c then b else a) n

/-- The angle of a vector, rounded down. -/
def angleOf (c s : Int) : Nat := angleFrom c s (if 0 < s ∨ (s = 0 ∧ 0 < c) then 0 else 32768) 15

/-- The largest r below 2^n with r * r at most x. -/
def sqrtBits (x : Nat) : Nat → Nat → Nat
  | r, 0 => r
  | r, n + 1 => if (r + 2 ^ n) * (r + 2 ^ n) ≤ x then sqrtBits x (r + 2 ^ n) n else sqrtBits x r n

/-- floor_sqrt. -/
def floorSqrt (x : Nat) : Nat := sqrtBits x 0 40

/-- Its length. -/
def lengthOf (c s : Int) : Nat := floorSqrt (c.natAbs * c.natAbs + s.natAbs * s.natAbs)

/-! ### Continuous servo (R274, R275) -/

/-- What the demodulator takes from one position sample (R275, R277): tone magnitudes and the symbols of each tone, a Gray code of 24 bits, of
a continuous frame; or the stripe centres in 1/64 of a wedge bit and the dibits of the track field of a wedge, `found` when sync
and stripes were. -/
inductive Demod where
  | tones (aP aQ : Nat) (gP gQ : BitVec 24)
  | wedge (found : Bool) (t1 t2 t3 : Int) (track : BitVec 48)
deriving DecidableEq, Repr

/-- The single bin of a cycle: its samples against one turn of cosine and sine. -/
def singleBin (v : List Int) : Int × Int :=
  let n := v.length
  (v.zip (List.range n)).foldl (fun r q =>
    let a := q.2 * 65536 / n
    (r.1 + q.1 * unitCos a / 32767, r.2 + q.1 * unitSin a / 32767)) (0, 0)

/-- The bins of the `n` cycles that a frame holds of a tone. -/
def toneBins (v : List Int) (n : Nat) : List (Int × Int) :=
  (List.range n).map fun k =>
    let i := k * v.length / n
    singleBin ((v.drop i).take ((k + 1) * v.length / n - i))

/-- The sum of bins as vectors, and of their magnitudes. -/
def binSum (l : List (Int × Int)) : Int × Int := l.foldl (fun r q => (r.1 + q.1, r.2 + q.2)) (0, 0)
def binMag (l : List (Int × Int)) : Nat := l.foldl (fun r q => r + lengthOf q.1 q.2) 0

/-- The symbols of the cycles behind the `r` of the reference, the first highest: 1 where the phase is nearer 180 degrees. -/
def toneSymbols (l : List (Int × Int)) (r : Nat) : Nat :=
  let ref := binSum (l.take r)
  (l.drop r).foldl (fun g q => 2 * g + (if q.1 * ref.1 + q.2 * ref.2 < 0 then 1 else 0)) 0

/-- The phase of a tone of `n` cycles by the first `r`, in 1/64 of the frame's samples, from half a cycle early to half a cycle late. -/
def tonePhase (len : Nat) (l : List (Int × Int)) (n r : Nat) : Option Int :=
  let ref := binSum (l.take r)
  if ref = (0, 0) then none
  else some (signedOf 16 (angleOf ref.1 ref.2) * (64 * len : Nat) / (65536 * n : Nat))

/-- A continuous frame, and the timing reference: the phase of the stronger tone's reference cycles. -/
def readTones (v : List Int) : Demod × Option Int :=
  let p := toneBins v 32
  let q := toneBins v 40
  (.tones (binMag p) (binMag q) (BitVec.ofNat 24 (toneSymbols p 8)) (BitVec.ofNat 24 (toneSymbols q 16)),
   if binMag q ≤ binMag p then tonePhase v.length p 32 8 else tonePhase v.length q 40 16)

/-! ### Wedges (R276, R277) -/

/-- Wedge bits `k` to `k + n - 1` of a wedge of `w` samples: the sign of each, the first highest. A bit is 1 where its samples sum to more than
zero (DESIGN CHOICE: the spec gives the code, not the polarity). -/
def wedgeField (v : List Int) (w k : Nat) : Nat → Nat
  | 0 => 0
  | n + 1 =>
    let i := (k + n) * w / 240
    let bit := ((v.drop i).take ((k + n + 1) * w / 240 - i)).foldl (· + ·) 0
    2 * wedgeField v w k n + (if 0 < bit then 1 else 0)

/-- The samples from the wedge bit `k` to bit `k + n`. -/
def wedgeSpan (v : List Int) (w k n : Nat) : List Int := (v.drop (k * w / 240)).take (n * w / 240)

/-- The wedge in a run of samples, by its sync. -/
def findWedge (w : Nat) : List Int → Option (List Int)
  | [] => none
  | v :: rest =>
    if (rest.length + 1) * 240 < 232 * w then none
    else if wedgeField (v :: rest) w 40 16 = 0xB38E then some (v :: rest) else findWedge w rest

/-- A wedge of `w` samples, and the timing reference: its sync's. -/
def readWedge (w : Nat) (v : List Int) : Demod × Option Int :=
  match findWedge w v with
  | none => (.wedge false 0 0 0 0, none)
  | some x =>
    let track := BitVec.ofNat 48 (wedgeField x w 80 48)
    match Config.stripeCentre 1 (wedgeSpan x w 128 112), Config.stripeCentre 2 (wedgeSpan x w 128 112),
        Config.stripeCentre 3 (wedgeSpan x w 128 112) with
    | some t1, some t2, some t3 => (.wedge true t1 t2 t3 track, some (Config.syncTiming (wedgeSpan x w 40 16)))
    | _, _, _ => (.wedge false 0 0 0 track, none)

end Sys2Proof.Machine
end

