-- ==== Sys2Proof/Machine/Detector.lean ====
section
/-!
DEFINITION. Sys2Proof/Machine/Detector.lean: the sequence detector's trellis with its branch metric (R192), and the logarithms and
single-bin amplitudes of the clearance measurement (R196).
-/

namespace Sys2Proof.Machine

/-- Entry `i` of a list, 0 beyond its ends. -/
def nth (l : List Int) (i : Nat) : Int := (l[i]?).getD 0

/-- Sum of a list. -/
def sumI (l : List Int) : Int := l.foldl (· + ·) 0

/-! ### Logarithms -/

/-- Rounded quotient; a half goes up (DESIGN CHOICE: the spec's round() does not say). -/
def roundDiv (n d : Int) : Int := (2 * n + d) / (2 * d)

/-- Fractional bits of log2 of a mantissa in [2^48, 2^49). -/
def log2Frac : Nat → Nat → Nat
  | _, 0 => 0
  | m, n + 1 =>
    let q := m * m / 2 ^ 48
    if 2 ^ 49 ≤ q then 2 ^ n + log2Frac (q / 2) n else log2Frac q n

/-- floor(log2 x) of a positive number below 2^n. -/
def log2Floor (x : Nat) : Nat → Nat
  | 0 => 0
  | n + 1 => if 2 ^ (n + 1) ≤ x then n + 1 else log2Floor x n

/-- log2 of a positive number below 2^90, to 32 binary places. -/
def log2Fix (x : Nat) : Nat :=
  let k := log2Floor x 90
  k * 2 ^ 32 + log2Frac (if 48 ≤ k then x / 2 ^ (k - 48) else x * 2 ^ (48 - k)) 32

/-- ln 2 in 2^-40. -/
def ln2Fix : Int := 762123384786

/-- round(4,096 × ln(a / b)), the logarithm taken to 32 binary places. -/
def lnRatio (a b : Nat) : Int := roundDiv (4096 * ((log2Fix (a * 2 ^ 64 / b) : Int) - 64 * 2 ^ 32) * ln2Fix) (2 ^ 72)

/-! ### The trellis (R192) -/

/-- A noise predictor: P1 to P3 in 1/128, VAR in 1/16. -/
structure Predictor where
  taps : List Int
  var : Nat
deriving DecidableEq, Repr

/-- Noise less its prediction, in 2^-17: `x` is n[k] and `h` holds n[k-1], n[k-2], n[k-3], in 2^-10. -/
def Predictor.rest (p : Predictor) (x : Int) (h : List Int) : Int :=
  128 * x - sumI ((List.range 3).map fun j => nth p.taps j * nth h j)

/-- bm of a branch in 2^-32: ((n - nh) / sig)^2 + 2 ln(sig), each term rounded down (DESIGN CHOICE: the metric's format is not
stated). -/
def Predictor.metric (p : Predictor) (x : Int) (h : List Int) : Int :=
  let d := p.rest x h
  d * d * 64 / (p.var * p.var : Nat) + 2 * ((log2Fix p.var : Int) - 4 * 2 ^ 32) * ln2Fix / 2 ^ 40

/-- What a clock's branches draw on: the target in 1/8 and the predictors. -/
structure Trellis where
  target : List Int
  preds : List Predictor
deriving DecidableEq, Repr

/-- A bit as a: 1 or -1. -/
def antipodal (b : Nat) : Int := if b % 2 = 1 then 1 else -1

/-- The survivor that enters state `ns` (newest bit highest) from the old state with oldest bit `b`: `w` in 2^-10. -/
def Trellis.extend (t : Trellis) (old : List Survivor) (w : Int) (ns b : Nat) : Survivor :=
  let o := (old[ns % 8 * 2 + b]?).getD {}
  let path := ns * 2 + b
  let x := w - 128 * sumI ((List.range 5).map fun j => nth t.target j * antipodal (path / 2 ^ (4 - j)))
  let p := (t.preds[ns / 2]?).getD ⟨[], 1⟩
  { metric := o.metric + p.metric x o.noise, bits := (2 * o.bits + ns / 8) % 2 ^ 17, rel := o.rel.take 16, noise := (x :: o.noise).take 3 }

/-- The reliability of a bit against which no path has lost yet. -/
def relMax : Nat := 2 ^ 48

/-- The reliabilities of the older bits of a survivor that has won by `d` over one with bits `other`: where a bit differs, at most `d`
(R193; the update of a soft-output Viterbi detector, DESIGN CHOICE: the spec does not define Δ further). The newest bit is the same in both. -/
def Survivor.weigh (x : Survivor) (other d : Nat) : Survivor :=
  { x with rel := relMax :: (List.range 16).map fun j =>
      let r := (x.rel[j]?).getD relMax
      if x.bits.testBit (j + 1) = other.testBit (j + 1) then r else min r d }

/-- The better of two survivors; where their metrics are equal, `tie` says which. -/
def Survivor.pick (a b : Survivor) (tie : Bool) : Survivor :=
  let d := (a.metric - b.metric).natAbs
  if a.metric < b.metric || (a.metric = b.metric && !tie) then a.weigh b.bits d else b.weigh a.bits d

/-- One bit through the trellis; bit `ns` of `ties` decides a tie at state `ns`. Metrics are kept above their least. -/
def Trellis.step (t : Trellis) (old : List Survivor) (w : Int) (ties : Nat) : List Survivor :=
  let l := (List.range 16).map fun ns => (t.extend old w ns 0).pick (t.extend old w ns 1) (ties.testBit ns)
  let least := l.foldl (fun m x => min m x.metric) ((l.head?.map Survivor.metric).getD 0)
  l.map fun x => { x with metric := x.metric - least }

/-- The decision that comes out, with its reliability: bit 16 of the best survivor's path; `turn` decides among equals. -/
def deliver (l : List Survivor) (turn : Nat) : Nat × Nat :=
  let r := l.rotate turn
  let x := r.foldl (fun m x => if x.metric < m.metric then x else m) (r.headD {})
  (x.bits / 2 ^ 16, (x.rel[16]?).getD relMax)

/-- The detector restarts empty: sixteen equal survivors. -/
def freshSurvivors : List Survivor := List.replicate 16 {}

/-- A run of w through the trellis: 20 free bits for each; the decisions in order, with their reliabilities. -/
def Trellis.run (t : Trellis) : List Int → Nat → List Survivor → List (Nat × Nat) × List Survivor
  | [], _, l => ([], l)
  | w :: rest, f, l =>
    let m := t.step l w f
    let q := t.run rest (f / 2 ^ 20) m
    (deliver m (f / 2 ^ 16 % 16) :: q.1, q.2)

/-! ### Clearance amplitudes (R196) -/

/-- The square root of 2 in 2^-44. -/
def sqrt2Fix : Int := 24879108095803

/-- Amplitudes A1 and A3 of eight samples, the peak values of the fundamental and of the third harmonic, in 2^-24 LSB
(DESIGN CHOICE: the scale and the rounding are not stated). -/
def amplitudes (v : List Int) : Nat × Nat :=
  let a := nth v 0 - nth v 4
  let b := nth v 1 - nth v 3 - nth v 5 + nth v 7
  let c := nth v 2 - nth v 6
  let d := nth v 1 + nth v 3 - nth v 5 - nth v 7
  let s := (2 * a * a + 2 * c * c + b * b + d * d) * 2 ^ 43
  let x := (a * b + c * d) * sqrt2Fix
  (Nat.sqrt (s + x).toNat, Nat.sqrt (s - x).toNat)

end Sys2Proof.Machine
end

