-- ==== Sys2Proof/Machine/PreampOps.lean ====
section
/-!
DEFINITION. Sys2Proof/Machine/PreampOps.lean: the actuator's state register, its heads, the preamplifier's control port (R290), enumeration
(R291), the heater codes (R289) and the commands that reach the power stages (R285, R319, R320, R334).
-/

namespace Sys2Proof.Machine

/-! ### Actuators -/

/-- The interface of actuator `a`. -/
def State.act (s : State) (a : Nat) : ActState := (s.acts[a]?).getD {}

/-- The interface of actuator `a` replaced. -/
def State.setAct (s : State) (a : Nat) (x : ActState) : State := { s with acts := s.acts.set a x }

/-- The states of R281. -/
def aParked : Nat := 0
def aLoading : Nat := 1
def aSeek : Nat := 2
def aSettle : Nat := 3
def aFollow : Nat := 4
def aLost : Nat := 5
def aUnloading : Nat := 6
def aRetract : Nat := 7

/-- The state of actuator `a`. -/
def State.actSt (s : State) (a : Nat) : Nat := s.rf (R.ACT_STATE a) F.ACT_STATE_STATE

/-- The actuator is present in the applied image (R43). -/
def State.actPresent (s : State) (a : Nat) : Bool := match s.kenul with
  | some k => bitAt k.present a
  | none => false

/-- Heads of actuator `a` (R43). -/
def State.heads (s : State) (a : Nat) : Nat := match s.kenul with
  | some k => (k.heads[a]?).getD 0
  | none => 0

/-- Head `h` (0 to 31) exists. -/
def State.headExists (s : State) (h : Nat) : Bool := s.actPresent (h / 8) && h % 8 < s.heads (h / 8)

/-! ### The control port (R290) -/

/-- The first frame of the lowest priority class. -/
def pickFrame : List PaFrame → Option PaFrame
  | [] => none
  | f :: rest =>
    match pickFrame rest with
    | none => some f
    | some g => if f.prio ≤ g.prio then some f else some g

/-- The next pending frame starts when none is in progress; a heater code counts as sent from then on. -/
def State.startFrame (s : State) (a : Nat) : State :=
  let x := s.act a
  match x.busy, pickFrame x.frames with
  | none, some f =>
    let s1 := (s.setAct a { x with busy := some f, frames := x.frames.erase f }).emit (.preamp a (!f.read) f.addr f.data)
    if f.prio = 3 then s1.wf (R.ACT_HTR a f.what) F.ACT_HTR_CODE f.data else s1
  | _, _ => s

/-- A frame queued. -/
def State.queueFrame (s : State) (a : Nat) (f : PaFrame) : State :=
  (s.setAct a { s.act a with frames := (s.act a).frames ++ [f] }).startFrame a

/-- What the end of a frame does, by its class. -/
def State.endFrame (s : State) (a : Nat) (f : PaFrame) (data : Nat) : State :=
  match f.prio with
  | 1 => if (s.act a).frames.any fun g => g.prio = 1 && g.what = f.what then s
         else s.wf (R.ACT_HSEL a f.what) F.ACT_HSEL_BUSY 0
  | 2 => if (s.act a).frames.any fun g => g.prio = 2 then s else s.wf (R.ACT_WC_STAT a) F.ACT_WC_STAT_PREAMP_BUSY 0
  | 4 =>
    let s1 := (s.wf (R.ACT_PA_XFER a) F.ACT_PA_XFER_BUSY 0).raise (R.ACT_PA_XFER a) F.ACT_PA_XFER_DONE
    if f.read then s1.wf (R.ACT_PA_XFER a) F.ACT_PA_XFER_DATA data else s1
  | 6 =>
    match (s.act a).enum with
    | some q => s.setAct a { s.act a with enum := some (if f.what = 0 then (some data, q.2) else (q.1, some data)) }
    | none => s
  | _ => s

/-- Enumeration starts on actuator `a`: the reads of ID_ADDR and HMASK_ADDR (R291). -/
def State.enumStart (s : State) (a : Nat) : State :=
  if s.actPresent a then
    let x := s.act a
    ((s.setAct a { x with enum := some (none, none), frames := x.frames.filter fun f => f.prio ≠ 6 }).queueFrame a
      { prio := 6, read := true, addr := s.rf (R.ACT_PA_MAP0 a) F.ACT_PA_MAP0_ID_ADDR, data := 0, what := 0 }).queueFrame a
      { prio := 6, read := true, addr := s.rf (R.ACT_PA_MAP0 a) F.ACT_PA_MAP0_HMASK_ADDR, data := 0, what := 1 }
  else s

/-- On every actuator: when BALLAST sets, and at each spin-up (R291, R303). -/
def State.enumAll (s : State) : State := (List.range 4).foldl (fun t a => t.enumStart a) s

/-! ### Power stages -/

/-- Stage `g` (0 to 3 VCM, 4 to 7 milli-actuator, 8 spindle) is latched off. -/
def State.stageOff (s : State) (g : Nat) : Bool := s.rf R.BLS_OCP ⟨g, g⟩ = 1

/-- It carries its command: neither latched off, nor off behind a trip, nor shut down. -/
def State.stageRuns (s : State) (g : Nat) : Bool :=
  !s.stageOff g && !s.bls.stagesOff && !s.bls.off.any fun q => q.1 = g && s.now < q.2

/-- Retract is in progress. -/
def State.retracting (s : State) : Bool := s.flag R.BLS_STAT F.BLS_STAT_RETRACT

/-- A milli-actuator command with the dither that Ballast adds to it (R285). -/
def State.dithered (s : State) (a : Nat) (v : Int) : Int :=
  if s.flag (R.ACT_DITHER a) F.ACT_DITHER_EN then
    let phase := s.now * s.rf (R.ACT_DITHER a) F.ACT_DITHER_FREQ_HZ * 65536 / 100000000 % 65536
    satTo 16 (v + signedOf 16 (s.rf (R.ACT_DITHER_AMP a) F.ACT_DITHER_AMP_AMP) * (Config.ditherWave phase).toInt / 32768)
  else v

/-- A command of actuator `a` on the link, to its VCM (stage 0) or its milli-actuator (1): the drive register mirrors it, and the stage
takes it unless it is off or Ballast retracts (R319, R320, R333). -/
def State.driveTo (s : State) (a stage : Nat) (v : Int) : State :=
  let t := s.wf (0x1c80000 + a * 0x100) (if stage = 0 then ⟨15, 0⟩ else ⟨31, 16⟩) (bitsOf 16 v)
  if s.stageRuns (a + 4 * stage) && !s.retracting then t.emit (.drive a stage (if stage = 0 then v else s.dithered a v)) else t

/-! ### Heaters (R289) -/

/-- HMAX of actuator `a`. -/
def State.hmax (s : State) (a : Nat) : Nat := s.rf (R.ACT_PA_MAP1 a) F.ACT_PA_MAP1_HMAX

/-- Heater code `c` for head `h` (0 to 31): only the latest pending code is sent, and only one that differs from the last. -/
def State.heaterCode (s : State) (h c : Nat) : State :=
  let a := h / 8
  let x := s.act a
  let t := s.setAct a { x with frames := x.frames.filter fun f => !(f.prio = 3 && f.what = h % 8) }
  if t.rf (R.ACT_HTR a (h % 8)) F.ACT_HTR_CODE = c then t
  else t.queueFrame a { prio := 3, read := false, what := h % 8, data := c,
                        addr := (t.rf (R.ACT_PA_MAP0 a) F.ACT_PA_MAP0_HTR_ADDR + h % 8) % 128 }

/-- The states in which every heater is at 0 and Basalt's commands are discarded. -/
def coldState (st : Nat) : Bool := st = aParked || st = aLoading || st = aLost || st = aUnloading || st = aRetract

/-- Basalt's output to head `h`. -/
def State.heaterOut (s : State) (h : Nat) (out : Int) : State :=
  if coldState (s.actSt (h / 8)) then s else s.heaterCode h (out.toNat * s.hmax (h / 8) / 32768)

/-- Every heater of actuator `a` driven to code 0. -/
def State.heatersOff (s : State) (a : Nat) : State :=
  (List.range (s.heads a)).foldl (fun t h => t.heaterCode (8 * a + h) 0) s

/-- The power report of head `h`. -/
def State.heaterPower (s : State) (h : Nat) : Nat :=
  let c := s.rf (R.ACT_HTR (h / 8) (h % 8)) F.ACT_HTR_CODE
  let m := s.hmax (h / 8)
  32767 * c * c / (m * m)

end Sys2Proof.Machine
end

