-- ==== Sys2Proof/Machine/BasOps.lean ====
section
/-!
DEFINITION. Sys2Proof/Machine/BasOps.lean: Basalt's arithmetic (R259, R260), the loop program (R262), sources and destinations
(R263, R264), triggers and dispatch (R265, R266, R272), write heat (R267, R268) and the rules of its writes (R269 to R271).
-/

namespace Sys2Proof.Machine

/-! ### Arithmetic -/

/-- The sticky flags of R260 that a run can raise: accumulator, stage, integrator, limit. -/
structure RunFlags where
  acc : Bool := false
  stage : Bool := false
  int : Bool := false
  limit : Bool := false
deriving DecidableEq, Repr

/-- 40-bit saturation, and whether it acted. -/
def sat40 (x : Int) : Int × Bool := (satTo 40 x, decide (satTo 40 x ≠ x))

/-- sat16. -/
def sat16 (x : Int) : Int := satTo 16 x

/-- A value shifted by `n` (R259); floor for a right shift. -/
def shiftBy (x : Int) (n : Int) : Int := if 0 ≤ n then x * 2 ^ n.toNat else x / 2 ^ (-n).toNat

/-- sh with its saturation. -/
def shAcc (x n : Int) : Int × Bool := sat40 (shiftBy x n)

/-- Terms summed from the first on, with saturation at every addition. -/
def sumAcc (l : List Int) : Int × Bool :=
  l.foldl (fun r x =>
    let q := sat40 (r.1 + x)
    (q.1, r.2 || q.2)) (0, false)

/-- q15: the value, whether the stage saturated, whether the shift did. -/
def q15 (x n : Int) : Int × Bool × Bool :=
  let q := shAcc x n
  let y := (q.1 + 16384) / 32768
  (sat16 y, decide (sat16 y ≠ y), q.2)

/-- A signed 16-bit field, and a signed 4-bit shift field. -/
def State.s16 (s : State) (off : Nat) (f : Fld) : Int := signedOf 16 (s.rf off f)
def State.s4 (s : State) (off : Nat) (f : Fld) : Int := signedOf 4 (s.rf off f)

/-! ### Loops -/

/-- Loop `l` beside its registers. -/
def State.loop (s : State) (l : Nat) : LoopState := spGetD {} s.bas.loops l

/-- Loop `l` replaced. -/
def State.setLoop (s : State) (l : Nat) (x : LoopState) : State :=
  { s with bas := { s.bas with loops := spSet {} s.bas.loops l x } }

/-- A loop is enabled; its outer loop, if any; its class: 0 SERVO, 1 MOTOR, 2 THERMAL. -/
def State.loopEn (s : State) (l : Nat) : Bool := s.flag (R.BAS_LCFG l) F.BAS_LCFG_EN
def State.outerOf (s : State) (l : Nat) : Nat := s.rf (R.BAS_LCFG l) F.BAS_LCFG_OUTER
def loopClass (l : Nat) : Nat := if l < 8 then 0 else if l < 10 then 1 else 2

/-- The inner loop that names `o` as its outer loop. -/
def State.innerOf (s : State) (o : Nat) : Option Nat := (List.range 80).find? fun l => s.outerOf l = o

/-- A loop's state cleared (R262). -/
def LoopState.clear (x : LoopState) : LoopState :=
  { x with x1 := [], x2 := [], y1 := [], y2 := [], u1 := 0, int := 0, df := 0, lastLim := 0 }

/-- Write heat is raised for head `h`. -/
def State.heatUp (s : State) (h : Nat) : Bool := bitAt (s.rd R.BAS_HEAT_ACT).toNat h

/-! ### Sources (R263) -/

/-- The value of a source, and for an event source the number of its latest value. -/
def State.source (s : State) (c : Nat) : Int × Option Nat :=
  if c < 0x10 then (0, none)
  else if c < 0x14 then ((s.act (c - 0x10)).pes, none)
  else if 0x20 ≤ c ∧ c < 0x40 then
    let q := spGetD (0, 0) s.bas.clr (c - 0x20)
    (q.1, some q.2)
  else if c = 0x40 then (s.bas.speed, none)
  else if c = 0x41 then (s.bas.current, none)
  else if 0x48 ≤ c ∧ c < 0x50 then (spGetD 0 s.bas.sensor (c - 0x48), none)
  else if 0x50 ≤ c ∧ c < 0x70 then ((s.heaterPower (c - 0x50) : Int), none)
  else if 0x70 ≤ c ∧ c < 0x80 then (s.s16 (R.BAS_GIN (c - 0x70)) F.BAS_GIN_VALUE, some (spGetD 0 s.bas.gin (c - 0x70)))
  else if 0x80 ≤ c ∧ c < 0xD0 then (s.s16 (R.BAS_LOUT (c - 0x80)) F.BAS_LOUT_OUT, none)
  else (0, none)

/-- A source code that may be written. -/
def State.sourceOk (s : State) (c : Nat) : Bool :=
  c = 0 || (0x10 ≤ c && c < 0x14 && s.actPresent (c - 0x10)) || (0x20 ≤ c && c < 0x40 && s.headExists (c - 0x20))
    || c = 0x40 || c = 0x41 || (0x48 ≤ c && c < 0x50 && s.owner (0x0700 + (c - 0x48)) = 0x40)
    || (0x50 ≤ c && c < 0x70 && s.headExists (c - 0x50)) || (0x70 ≤ c && c < 0xD0)

/-- A destination code that slot `l` may be given (R264). -/
def State.destOk (s : State) (l c : Nat) : Bool :=
  c = 0 || (l < 8 && ((0x10 ≤ c && c < 0x14 && s.actPresent (c - 0x10)) || (0x18 ≤ c && c < 0x1C && s.actPresent (c - 0x18))))
    || (l = 8 && c = 0x40)
    || (10 ≤ l && ((0x50 ≤ c && c < 0x70 && s.headExists (c - 0x50)) || (0x70 ≤ c && c < 0x80)))

/-! ### The loop program (R262) -/

/-- One biquad stage on input `x`, stage `k` of bank `b` of loop `l`: the output, the new delays and the flags. -/
def State.biquad (s : State) (l b k : Nat) (st : LoopState) (x : Int) : Int × LoopState × Bool × Bool :=
  let at0 := fun (q : List Int) => (q[k]?).getD 0
  let put := fun (q : List Int) (v : Int) => (q ++ List.replicate (k + 1 - q.length) 0).set k v
  let r := sumAcc [s.s16 (R.BAS_CBQA l b k) F.BAS_CBQA_B0 * x, s.s16 (R.BAS_CBQA l b k) F.BAS_CBQA_B1 * at0 st.x1,
    s.s16 (R.BAS_CBQB l b k) F.BAS_CBQB_B2 * at0 st.x2, -(s.s16 (R.BAS_CBQB l b k) F.BAS_CBQB_A1 * at0 st.y1),
    -(s.s16 (R.BAS_CBQC l b k) F.BAS_CBQC_A2 * at0 st.y2)]
  let y := q15 r.1 (s.s4 (R.BAS_CBQC l b k) F.BAS_CBQC_SH)
  (y.1, { st with x2 := put st.x2 (at0 st.x1), x1 := put st.x1 x, y2 := put st.y2 (at0 st.y1), y1 := put st.y1 y.1 },
    r.2 || y.2.2, y.2.1)

/-- The biquads from stage `k` on, `n` of them. -/
def State.biquads (s : State) (l b k : Nat) (st : LoopState) (x : Int) : Nat → Int × LoopState × Bool × Bool
  | 0 => (x, st, false, false)
  | n + 1 =>
    let q := s.biquad l b k st x
    let r := s.biquads l b (k + 1) q.2.1 q.1 n
    (r.1, r.2.1, q.2.2.1 || r.2.2.1, q.2.2.2 || r.2.2.2)

/-- Feed-forward gain `f` and source of loop `l`. -/
def State.ffGain (s : State) (l b f : Nat) : Int :=
  match f with
  | 0 => s.s16 (R.BAS_CFF0 l b) F.BAS_CFF0_FF0
  | 1 => s.s16 (R.BAS_CFF0 l b) F.BAS_CFF0_FF1
  | 2 => s.s16 (R.BAS_CFF1 l b) F.BAS_CFF1_FF2
  | _ => s.s16 (R.BAS_CFF1 l b) F.BAS_CFF1_FF3
def State.ffSrc (s : State) (l f : Nat) : Nat := (s.rd (R.BAS_LFSRC l)).toNat / 2 ^ (8 * f) % 256

/-- One run of loop `l` on input `m` with bank `b`: the new state, e, out and the flags. A saturation of the integrator's own sum sets
INT_SAT alone (DESIGN CHOICE: R260 lists both an accumulator's and the integrator's saturation and does not say whether this one is both). -/
def State.loopProgram (s : State) (l b : Nat) (st : LoopState) (m : Int) : LoopState × Int × Int × RunFlags :=
  let csh := R.BAS_CSH l b
  let c := q15 (sat16 (m + s.s16 (R.BAS_CIN l b) F.BAS_CIN_OFS_IN) * s.s16 (R.BAS_CIN l b) F.BAS_CIN_K_IN)
    (s.s4 csh F.BAS_CSH_SH_IN)
  let delta := if 16 ≤ l ∧ l < 48 ∧ s.heatUp (l - 16) = true then s.s16 (R.BAS_HEAT (l - 16)) F.BAS_HEAT_WR_DELTA else 0
  let e := sat16 (s.s16 (R.BAS_LSP l) F.BAS_LSP_SP + delta - c.1)
  let q := s.biquads l b 0 st e (s.rf (R.BAS_LCFG l) F.BAS_LCFG_NBQ)
  let u := q.1
  let p := shAcc (s.s16 (R.BAS_CPID0 l b) F.BAS_CPID0_KP * u) (s.s4 csh F.BAS_CSH_SP_P)
  let wind := (q.2.1.lastLim = 1 && 0 < u) || (q.2.1.lastLim = -1 && u < 0)
  let is := shAcc (s.s16 (R.BAS_CPID0 l b) F.BAS_CPID0_KI * u) (s.s4 csh F.BAS_CSH_SI)
  let i := if wind then (q.2.1.int, false) else sat40 (q.2.1.int + is.1)
  let dd := shAcc (s.s16 (R.BAS_CPID1 l b) F.BAS_CPID1_KD * (u - q.2.1.u1)) (s.s4 csh F.BAS_CSH_SD)
  let d := sat40 (q.2.1.df + s.s16 (R.BAS_CPID1 l b) F.BAS_CPID1_KF * (dd.1 - q.2.1.df) / 32768)
  let ffs := (List.range (s.rf (R.BAS_LCFG l) F.BAS_LCFG_NFF)).map fun f =>
    shAcc (s.ffGain l b f * (s.source (s.ffSrc l f)).1) (s.s4 csh F.BAS_CSH_SH_FF)
  let a := sumAcc (p.1 :: i.1 :: d.1 :: ffs.map Prod.fst)
  let y := q15 a.1 0
  let hi := s.s16 (R.BAS_LLIM l) F.BAS_LLIM_HI
  let lo := s.s16 (R.BAS_LLIM l) F.BAS_LLIM_LO
  let out := max (min y.1 hi) lo
  let lim : Int := if hi < y.1 then 1 else if y.1 < lo then -1 else 0
  ({ q.2.1 with int := i.1, df := d.1, u1 := u, lastLim := lim }, e, out,
   { acc := c.2.2 || q.2.2.1 || p.2 || (!wind && is.2) || dd.2 || d.2 || a.2 || y.2.2 || ffs.any Prod.snd,
     stage := c.2.1 || q.2.2.2 || y.2.1, int := i.2, limit := decide (lim ≠ 0) })

/-! ### Triggers (R265, R270) -/

/-- A flag of BAS_LFLAG set. -/
def State.loopFlag (s : State) (l : Nat) (f : Fld) (b : Bool) : State := if b then s.raise (R.BAS_LFLAG l) f else s

/-- Loop `l` runs when its turn comes: enabled, not held, and not a clearance loop whose head has write heat raised (R267, R270). -/
def State.loopLive (s : State) (l : Nat) : Bool :=
  s.loopEn l && !s.flag (R.BAS_LCFG l) F.BAS_LCFG_HOLD && !(decide (48 ≤ l) && s.heatUp (l - 48))

/-- A trigger for loop `l`: it becomes waiting, or merges with the one that waits; a loop that does not run discards it. -/
def State.trigger (s : State) (l : Nat) : State :=
  if !s.loopLive l then s
  else if (s.loop l).waiting.isSome then s.raise (R.BAS_LFLAG l) F.BAS_LFLAG_OVERRUN
  else
    let t := s.setLoop l { s.loop l with waiting := some s.bas.order }
    { t with bas := { t.bas with order := t.bas.order + 1 } }

/-- Every enabled loop on trigger code `c`. -/
def State.triggerAll (s : State) (c : Nat) : State :=
  (List.range 80).foldl (fun t l => if t.rf (R.BAS_LCFG l) F.BAS_LCFG_TRIG = c then t.trigger l else t) s

/-- Loop `o` becomes waiting as an outer loop, ahead of its class (R266). -/
def State.outerTrigger (s : State) (o : Nat) : State :=
  let t := s.trigger o
  if (t.loop o).waiting.isSome then t.setLoop o { t.loop o with outerDue := true } else t

/-- The order in which the dispatcher prefers loop `l` (R266, R272): class, outer loops first, earliest trigger, slot. -/
def State.dispatchKey (s : State) (l : Nat) : Option (List Nat) :=
  if s.loopLive l then (s.loop l).waiting.map fun w => [loopClass l, b2n (!(s.loop l).outerDue), w, l] else none

/-- Lexicographic order. -/
def lexLe : List Nat → List Nat → Bool
  | [], _ => true
  | _ :: _, [] => false
  | a :: as, b :: bs => if a < b then true else if b < a then false else lexLe as bs

/-- The waiting loop that a free lane takes, among the first `n` slots. -/
def State.chooseLoop (s : State) : Nat → Option (List Nat × Nat)
  | 0 => none
  | n + 1 =>
    match s.dispatchKey n, s.chooseLoop n with
    | some k, some r => if lexLe r.1 k then some r else some (k, n)
    | some k, none => some (k, n)
    | none, r => r

/-! ### Delivery (R264, R280) -/

/-- The command that reaches the link for a VCM or milli-actuator destination, by the actuator's state (R280). -/
def State.deliverDrive (s : State) (a stage : Nat) (out : Int) : State :=
  let st := s.actSt a
  if st = aSeek then s.driveTo a stage (if stage = 0 then sat16 (out + (s.act a).ff) else 0)
  else if st = aSettle || st = aFollow then s.driveTo a stage out
  else s

/-- Output `out` of loop `l` given to its destination (R264). -/
def State.deliverDst (s : State) (l : Nat) (out : Int) : State :=
  let d := s.rf (R.BAS_LIO l) F.BAS_LIO_DST
  if 0x10 ≤ d ∧ d < 0x14 then s.deliverDrive (d - 0x10) 0 out
  else if 0x18 ≤ d ∧ d < 0x1C then s.deliverDrive (d - 0x18) 1 out
  else if d = 0x40 then { s with bas := { s.bas with spin := out } }
  else if 0x50 ≤ d ∧ d < 0x70 then s.heaterOut (d - 0x50) out
  else if 0x70 ≤ d ∧ d < 0x80 then s.wf (R.BAS_GOUT (d - 0x70)) F.BAS_GOUT_VALUE (bitsOf 16 out)
  else s

/-- Output `out` of loop `l`: an outer loop's becomes its inner loop's next set-point (R266); any loop's goes to its destination. -/
def State.deliver (s : State) (l : Nat) (out : Int) : State :=
  (match s.innerOf l with
    | some i => s.setLoop i { s.loop i with spNext := some out }
    | none => s).deliverDst l out

/-- The integrator as BAS_LINT shows it. -/
def State.showInt (s : State) (l : Nat) (v : Int) : State :=
  (s.wr (R.BAS_LINT_LO l) (word (bitsOf 32 v))).wr (R.BAS_LINT_HI l) (word (bitsOf 8 (v / 2 ^ 32)))

/-- A heater loop's run in band counts toward HEAT_RDY, which is given to the write channel of the selected head (R268). -/
def State.heatSettle (s : State) (l : Nat) (e : Int) : State :=
  if l < 16 ∨ 48 ≤ l then s
  else
    let h := l - 16
    if !s.heatUp h then s
    else
      let n := if e.natAbs ≤ s.rf (R.BAS_HEAT h) F.BAS_HEAT_TOL then spGetD 0 s.bas.settled h + 1 else 0
      let t := { s with bas := { s.bas with settled := spSet 0 s.bas.settled h n } }
      if n < t.rf (R.BAS_HEAT h) F.BAS_HEAT_SETTLE_N then t
      else
        let u := t.orReg R.BAS_HEAT_RDY (2 ^ h)
        if u.rf (R.ACT_WC_SEL (h / 8)) F.ACT_WC_SEL_HEAD = h % 8 then
          u.raise (R.ACT_WC_STAT (h / 8)) F.ACT_WC_STAT_HEAT_READY
        else u

/-- A completed run of `l`, held ones included, counts toward its outer loop (R266). -/
def State.countRun (s : State) (l : Nat) : State :=
  let o := s.outerOf l
  if 80 ≤ o then s
  else
    let n := (s.loop l).runs + 1
    if n ≤ s.rf (R.BAS_LCFG l) F.BAS_LCFG_DIV then s.setLoop l { s.loop l with runs := n }
    else (s.setLoop l { s.loop l with runs := 0 }).outerTrigger o

/-- What a run start takes up: CLR, a bank swap, an integrator write, the outer loop's set-point (R266, R269, R270). -/
def State.runStart (s : State) (l : Nat) : State :=
  let x := { s.loop l with waiting := none, outerDue := false }
  let x1 := if s.flag (R.BAS_LCFG l) F.BAS_LCFG_CLR then x.clear else x
  let x2 := match x1.intWrite with
    | some v => { x1 with int := v, intWrite := none }
    | none => x1
  let s1 := s.wf (R.BAS_LCFG l) F.BAS_LCFG_CLR 0
  let s2 := if s1.flag (R.BAS_LCFG l) F.BAS_LCFG_SWAP then
      (s1.wf (R.BAS_LCFG l) F.BAS_LCFG_SWAP 0).wf (R.BAS_LCFG l) F.BAS_LCFG_BANK (1 - s1.rf (R.BAS_LCFG l) F.BAS_LCFG_BANK)
    else s1
  match x2.spNext with
  | some v => (s2.wf (R.BAS_LSP l) F.BAS_LSP_SP (bitsOf 16 v)).setLoop l { x2 with spNext := none }
  | none => s2.setLoop l x2

/-- One run of loop `l` (R262 to R268). -/
def State.runLoop (s0 : State) (l : Nat) : State :=
  let s := s0.runStart l
  let m := s.source (s.rf (R.BAS_LIO l) F.BAS_LIO_SRC)
  let stale := match m.2 with
    | some n => decide (n ≤ (s.loop l).seen)
    | none => false
  if stale then ((s.setLoop l { s.loop l with seen := s.bas.stamp }).raise (R.BAS_LFLAG l) F.BAS_LFLAG_STALE).countRun l
  else
    let r := s.loopProgram l (s.rf (R.BAS_LCFG l) F.BAS_LCFG_BANK) (s.loop l) m.1
    let f := r.2.2.2
    let t := (s.setLoop l { r.1 with seen := s.bas.stamp }).wr (R.BAS_LOUT l)
      (word (bitsOf 16 r.2.1 * 2 ^ 16 + bitsOf 16 r.2.2.1))
    let t1 := (((t.loopFlag l F.BAS_LFLAG_ACC_SAT f.acc).loopFlag l F.BAS_LFLAG_STAGE_SAT f.stage).loopFlag l
      F.BAS_LFLAG_INT_SAT f.int).loopFlag l F.BAS_LFLAG_LIMIT f.limit
    (((t1.showInt l r.1.int).deliver l r.2.2.1).heatSettle l r.2.1).countRun l

/-! ### Write heat (R267, R268) -/

/-- Write heat raised for head `h`: the count to HEAT_RDY begins, and its clearance loop's waiting run is dropped. -/
def State.raiseHeat (s : State) (h : Nat) : State :=
  if s.heatUp h then s
  else
    let t := s.orReg R.BAS_HEAT_ACT (2 ^ h)
    let u := { t with bas := { t.bas with settled := spSet 0 t.bas.settled h 0 } }
    u.setLoop (48 + h) { u.loop (48 + h) with waiting := none, outerDue := false }

/-- Write heat dropped. -/
def State.dropHeat (s : State) (h : Nat) : State :=
  ((s.wf R.BAS_HEAT_ACT ⟨h, h⟩ 0).wf R.BAS_HEAT_RDY ⟨h, h⟩ 0).wf (R.ACT_WC_STAT (h / 8)) F.ACT_WC_STAT_HEAT_READY 0

/-- A clearance HR of head `h` for the loop that uses it (R196, R263). -/
def State.giveClearance (s : State) (h : Nat) (hr : Int) : State :=
  { s with bas := { s.bas with clr := spSet (0, 0) s.bas.clr h (hr, s.bas.stamp + 1), stamp := s.bas.stamp + 1 } }

/-! ### Writes (R261, R263 to R266, R269 to R271) -/

/-- Who may write BAS, and when. -/
def State.basOpen (s : State) (i : Initiator) : Bool := isPair i && s.ready .basalt

/-- OUTER `o` is allowed for loop `l` (R266). -/
def State.outerOk (s : State) (l o : Nat) : Bool :=
  o = 0xFF || (o < 80 && o ≠ l && 8 ≤ l && 8 ≤ o && loopClass o = loopClass l && s.rf (R.BAS_LCFG o) F.BAS_LCFG_TRIG = 0
    && s.outerOf o = 0xFF && !(List.range 80).any fun m => m ≠ l && s.outerOf m = o)

/-- TRIG `t` is allowed for slot `l`, which is 10 or above (R265). -/
def trigOk (t : Nat) : Bool := t = 0 || t = 3 || t = 4

/-- The trigger source that a write of BAS_LCFG[l] leaves: a fixed slot keeps its own (R265). -/
def State.newTrig (s : State) (l : Nat) (v : Word) : Nat :=
  if l < 10 then s.rf (R.BAS_LCFG l) F.BAS_LCFG_TRIG else fget v F.BAS_LCFG_TRIG

/-- A write of BAS_LCFG[l] is no violation: by a pair, with Basalt ready; an enabled loop keeps its trigger, counts, outer loop
and divider; EN and HOLD of slots 8 and 9 belong to Millstone (R301); no other enabled loop drives the destination; the counts,
the outer loop and the trigger are ones there are (R11, R14, R265, R266, R269, R270). -/
def State.loopMayTake (s : State) (i : Initiator) (l : Nat) (v : Word) : Bool :=
  let off := R.BAS_LCFG l
  let trig := s.newTrig l v
  let dst := s.rf (R.BAS_LIO l) F.BAS_LIO_DST
  let locked := s.loopEn l && (trig ≠ s.rf off F.BAS_LCFG_TRIG || fget v F.BAS_LCFG_NBQ ≠ s.rf off F.BAS_LCFG_NBQ
    || fget v F.BAS_LCFG_NFF ≠ s.rf off F.BAS_LCFG_NFF || fget v F.BAS_LCFG_OUTER ≠ s.rf off F.BAS_LCFG_OUTER
    || fget v F.BAS_LCFG_DIV ≠ s.rf off F.BAS_LCFG_DIV)
  let mil := (l = 8 || l = 9) && (fget v F.BAS_LCFG_EN ≠ s.rf off F.BAS_LCFG_EN
    || fget v F.BAS_LCFG_HOLD ≠ s.rf off F.BAS_LCFG_HOLD)
  let clash := fget v F.BAS_LCFG_EN = 1 && !s.loopEn l && dst ≠ 0
    && (List.range 80).any fun m => m ≠ l && s.loopEn m && s.rf (R.BAS_LIO m) F.BAS_LIO_DST = dst
  s.basOpen i && !locked && !mil && !clash && fget v F.BAS_LCFG_NFF ≤ 4 && fget v F.BAS_LCFG_NBQ ≤ 6
    && s.outerOk l (fget v F.BAS_LCFG_OUTER) && (l < 10 || trigOk trig)

/-- BAS_LCFG[l] takes `v`: BANK is read-only, CLR and SWAP stay 1 until a run takes them; a loop that becomes enabled starts clear,
and one that is not enabled, or is held, no longer waits (R266, R269, R270). -/
def State.takeLcfg (s : State) (l : Nat) (v : Word) : State :=
  let off := R.BAS_LCFG l
  let old := s.rd off
  let en := fget v F.BAS_LCFG_EN = 1
  let w := fset (fset (fset v F.BAS_LCFG_TRIG (s.newTrig l v)) F.BAS_LCFG_BANK (fget old F.BAS_LCFG_BANK)) ⟨23, 23⟩ 0
  let w1 := fset (fset w F.BAS_LCFG_CLR (max (fget old F.BAS_LCFG_CLR) (fget v F.BAS_LCFG_CLR))) F.BAS_LCFG_SWAP
    (max (fget old F.BAS_LCFG_SWAP) (fget v F.BAS_LCFG_SWAP))
  let t := s.wr off (fset w1 ⟨7, 6⟩ 0)
  let x := t.loop l
  let x1 := if en && !s.loopEn l then x.clear else x
  let x2 := if s.loopEn l then x1 else { x1 with runs := 0 }
  if en && fget v F.BAS_LCFG_HOLD = 0 then t.setLoop l x2 else t.setLoop l { x2 with waiting := none, outerDue := false }

/-- A write of BAS_LCFG[l]: a violation has no effect (R14). -/
def State.writeLcfg (s : State) (i : Initiator) (l : Nat) (v : Word) : State :=
  if s.loopMayTake i l v then s.takeLcfg l v else s

/-- A write of BAS_LIO[l] (R263, R264): locked while EN is 1. -/
def State.writeLio (s : State) (i : Initiator) (l : Nat) (v : Word) : State :=
  let src := fget v F.BAS_LIO_SRC
  let dst := fget v F.BAS_LIO_DST
  let same := src = s.rf (R.BAS_LIO l) F.BAS_LIO_SRC && dst = s.rf (R.BAS_LIO l) F.BAS_LIO_DST
  if !s.basOpen i || (s.loopEn l && !same) || !s.sourceOk src || !s.destOk l dst then s
  else (s.wf (R.BAS_LIO l) F.BAS_LIO_SRC src).wf (R.BAS_LIO l) F.BAS_LIO_DST dst

/-- A write of BAS_LFSRC[l]. -/
def State.writeLfsrc (s : State) (i : Initiator) (l : Nat) (v : Word) : State :=
  let bad := !(List.range 4).all fun f => s.sourceOk (v.toNat / 2 ^ (8 * f) % 256)
  if !s.basOpen i || (s.loopEn l && v ≠ s.rd (R.BAS_LFSRC l)) || bad then s else s.wr (R.BAS_LFSRC l) v

/-- A write of BAS_LSP[l]: locked while the loop has an outer loop; slot 9's belongs to Millstone (R266, R301). -/
def State.writeLsp (s : State) (i : Initiator) (l : Nat) (v : Word) : State :=
  let sp := fget v F.BAS_LSP_SP
  if !s.basOpen i || ((s.outerOf l ≠ 0xFF || l = 9) && sp ≠ s.rf (R.BAS_LSP l) F.BAS_LSP_SP) then s
  else s.wf (R.BAS_LSP l) F.BAS_LSP_SP sp

/-- A write of BAS_LLIM[l]: HI below LO is a violation. -/
def State.writeLlim (s : State) (i : Initiator) (l : Nat) (v : Word) : State :=
  if !s.basOpen i || signedOf 16 (fget v F.BAS_LLIM_HI) < signedOf 16 (fget v F.BAS_LLIM_LO) then s
  else s.wr (R.BAS_LLIM l) v

/-- A write of a coefficient of bank `b` of loop `l` (R269). -/
def State.writeCoef (s : State) (i : Initiator) (l b off : Nat) (v : Word) : State :=
  if !s.basOpen i || s.rf (R.BAS_LCFG l) F.BAS_LCFG_BANK = b || s.flag (R.BAS_LCFG l) F.BAS_LCFG_SWAP then s
  else s.writeFields off v

/-- Writes of BAS_LINT_LO and BAS_LINT_HI: the value is taken at the next run after HI is written. -/
def State.writeLintLo (s : State) (i : Initiator) (l : Nat) (v : Word) : State :=
  if s.basOpen i then s.wr (R.BAS_LINT_LO l) v else s
def State.writeLintHi (s : State) (i : Initiator) (l : Nat) (v : Word) : State :=
  if !s.basOpen i then s
  else
    let t := s.wr (R.BAS_LINT_HI l) (word (v.toNat % 256))
    t.setLoop l { t.loop l with intWrite := some (signedOf 40 (v.toNat % 256 * 2 ^ 32 + (t.rd (R.BAS_LINT_LO l)).toNat)) }

/-- A write of BAS_GIN[k]: the source is fresh (R263). -/
def State.writeGin (s : State) (i : Initiator) (k : Nat) (v : Word) : State :=
  if !s.basOpen i then s
  else
    let t := s.wf (R.BAS_GIN k) F.BAS_GIN_VALUE (fget v F.BAS_GIN_VALUE)
    { t with bas := { t.bas with gin := spSet 0 t.bas.gin k (t.bas.stamp + 1), stamp := t.bas.stamp + 1 } }

/-- A write of BAS_KICK: a THERMAL loop that is no outer loop (R265). -/
def State.writeKick (s : State) (i : Initiator) (v : Word) : State :=
  let l := fget v F.BAS_KICK_LOOP
  if !s.basOpen i || l < 10 || 80 ≤ l || (s.innerOf l).isSome then s else s.trigger l

/-- A write of BAS_SV_HWM. -/
def State.writeHwm (s : State) (i : Initiator) (v : Word) : State :=
  if s.basOpen i && fget v F.BAS_SV_HWM_CLR = 1 then s.wr R.BAS_SV_HWM 0 else s

/-- BAS_FLAG_SUM[w]: which loops have a flag set. -/
def State.flagSum (s : State) (w : Nat) : Word :=
  word ((List.range 32).foldl (fun acc b =>
    if 32 * w + b < 80 ∧ (s.rd (R.BAS_LFLAG (32 * w + b))).toNat % 64 ≠ 0 then acc + 2 ^ b else acc) 0)

end Sys2Proof.Machine
end

