-- ==== Sys2Proof/Machine/Reach.lean ====
section
/-!
DEFINITION. Sys2Proof/Machine/Reach.lean: which blocks an initiator reaches (R24), and who may write an actuator's registers
(R297).
-/

namespace Sys2Proof.Machine

/-- The actuator of slice `n` (R43). -/
def State.sliceAct (s : State) (n : Nat) : Option Nat :=
  match s.kenul with
  | none => none
  | some k => match k.slices[n]? with
    | some r => if r.act ≤ 3 then some r.act else none
    | none => none

/-- The actuator that sequencer `n` serves. -/
def State.strAct (s : State) (n : Nat) : Option Nat :=
  if n < 8 then s.sliceAct n else if s.actPresent (n - 8) then some (n - 8) else none

/-- Two units serve the same actuator. -/
def sameAct : Option Nat → Option Nat → Bool
  | some a, some b => a = b
  | _, _ => false

/-- The OBS submission registers of sequencer `n`: its raw port and the authenticated units it may open (R417, R425; DEDUCED
from R24's words). -/
def obsSubmit (n off : Nat) : Bool :=
  (0x901000 + (2 + n) * 0x40 ≤ off && off < 0x901000 + (3 + n) * 0x40) || 0x902000 ≤ off

/-- A sequencer reaches `off` (R24). -/
def State.strReaches (s : State) (n off : Nat) : Bool :=
  let b := off / 0x100000
  if b = 0x0E then (off - 0xE00000) / 0x10000 = n
  else if 0x10 ≤ b ∧ b < 0x18 then n < 8 && sameAct (s.sliceAct (b - 0x10)) (s.sliceAct n)
  else if b = 0x1A then sameAct (some ((off - 0x1A00000) / 0x40000)) (s.strAct n)
  else if b = 0x1C then 0x1C80000 ≤ off && sameAct (some ((off - 0x1C80000) / 0x100)) (s.strAct n)
  else if b = 0x18 then n < 8 && 0x1801000 ≤ off && sameAct (s.sliceAct ((off - 0x1801000) / 0x40)) (s.strAct n)
  else b = 0x09 && obsSubmit n off

/-- The initiator reaches the register at `off` (R24). Cairn is read-only to the sideband. -/
def State.reaches (s : State) (i : Initiator) (write : Bool) (off : Nat) : Bool :=
  match i with
  | .port => true
  | .media => true
  | .keystone => true
  | .sideband =>
    let b := off / 0x100000
    b = 0 || (b = 2 && !write) || (b = 4 && s.owner (0x0800 + (off - 0x400000) / 0x100) = 0x53)
  | .str n => s.strReaches n.val off

/-- The initiator may write the general registers of actuator `a` (R297). -/
def actPair (i : Initiator) : Bool := isPair i

/-- The initiator may write ACTa_HSEL, ACTa_SEEK and the write-channel registers of actuator `a` (R297). -/
def State.actChannel (s : State) (i : Initiator) (a : Nat) : Bool :=
  match i with
  | .port => true
  | .media => true
  | .str n => sameAct (s.strAct n.val) (some a)
  | _ => false

end Sys2Proof.Machine
end

