-- ==== Sys2Proof/Machine/LodeOps.lean ====
section
/-!
DEFINITION. Sys2Proof/Machine/LodeOps.lean: the slices' freeze sources (R184), the sample ring's records and marks (R246 to R250),
Milestone (R203, R213 to R215), the write gate (R200 to R202), and the handover of a read pair (R177, R179, R247).
-/

namespace Sys2Proof.Machine

/-! ### Slices -/

/-- Slice `n` beside its registers. -/
def State.slice (s : State) (n : Nat) : SliceState := (s.lode.slices[n]?).getD {}

/-- Slice `n` replaced. -/
def State.setSlice (s : State) (n : Nat) (x : SliceState) : State :=
  { s with lode := { s.lode with slices := s.lode.slices.set n x } }

/-- Write channel `a` beside its registers. -/
def State.wc (s : State) (a : Nat) : WcState := (s.lode.wc[a]?).getD {}
def State.setWc (s : State) (a : Nat) (x : WcState) : State := { s with lode := { s.lode with wc := s.lode.wc.set a x } }

/-- Slice `n` has a live read pair (R179). -/
def State.livePair (s : State) (n : Nat) : Bool := s.ldAssigned n && s.rf (R.LD_CFG n) F.LD_CFG_LIVE_PAIR ≠ 3

/-- The back end replays from the ring. -/
def State.inRing (s : State) (n : Nat) : Bool := s.rf (R.LD_CFG n) F.LD_CFG_SOURCE = 1

/-- Slices of actuator `a`. -/
def State.slicesOf (s : State) (a : Nat) : List Nat := (List.range 8).filter fun n => s.sliceAct n = some a

/-! ### The ring (R246 to R250) -/

/-- Subrings: the slices whose record has a pair. -/
def State.ringCount (s : State) : Nat := match s.kenul with
  | some k => (k.slices.filter fun r => r.act ≤ 3 && r.pair < 2).length
  | none => 0

/-- Bytes of one subring. -/
def State.subSize (s : State) : Nat := if s.ringCount = 0 then 0 else (s.region 1).2 / s.ringCount / 2 ^ 23 * 2 ^ 23

/-- Clock records, and marks, of one subring. -/
def State.ringC (s : State) : Nat := s.subSize * 255 / 3072
def State.ringM (s : State) : Nat := s.subSize / 4096

/-- Subring `q`. -/
def State.sub (s : State) (q : Nat) : Subring := (s.lode.subs[q]?).getD {}
def State.setSub (s : State) (q : Nat) (x : Subring) : State := { s with lode := { s.lode with subs := s.lode.subs.set q x } }

/-- HBM offset of the record of clock `c`, and of mark `m`. -/
def State.recOfs (s : State) (q c : Nat) : Nat := (s.region 1).1 + q * s.subSize + c % 2 ^ 48 % s.ringC * 12
def State.markOfs (s : State) (q m : Nat) : Nat :=
  (s.region 1).1 + q * s.subSize + s.subSize * 255 / 256 + m % s.ringM * 16

/-- The kinds of R249. -/
def mkSector : Nat := 1
def mkSelect : Nat := 2
def mkState : Nat := 3
def mkLock : Nat := 4
def mkIndex : Nat := 5
def mkGap : Nat := 6

/-- Value `v` written as mark number `m` of subring `q`. -/
def State.putMark (s : State) (q m v : Nat) : State :=
  stateOf (s.hbmWrite qRing (s.markOfs q m) 16 v)

/-- Mark `m` of subring `q` as the ring gives it; one whose granule has no data is as one unwritten (R249, R344). -/
def State.markAt (s : State) (q m : Nat) : Nat := ((s.hbmRead qMedia (s.markOfs q m) 16).1).getD 0

/-- Its fields. -/
def markKind (v : Nat) : Nat := v % 256
def markStates (v : Nat) : Nat := v / 2 ^ 12 % 16
def markSample (v : Nat) : Nat := v / 2 ^ 8 % 8
def markArg (v : Nat) : Nat := v / 2 ^ 64

/-- The clock that a 48-bit CLK of the subring's history names, in clocks written: the latest such. -/
def Subring.full (x : Subring) (c : Nat) : Nat :=
  let age := (x.clk % 2 ^ 48 + 2 ^ 48 - c % 2 ^ 48) % 2 ^ 48
  if age ≤ x.clk then x.clk - age else c
def State.markClk (s : State) (q v : Nat) : Nat := (s.sub q).full (v / 2 ^ 16 % 2 ^ 48)

/-- The mark that number `m` overwrites is gone: what a SELECT or a LOCK mark said stays in force behind it (DESIGN CHOICE). -/
def State.ageMark (s : State) (q m : Nat) : State :=
  if m < s.ringM then s
  else
    let v := s.markAt q (m - s.ringM)
    if markKind v = mkSelect then s.setSub q { s.sub q with sel := some (markArg v) }
    else if markKind v = mkLock then s.setSub q { s.sub q with lock := markArg v % 256 }
    else s

/-- A mark of subring `q` appended at its present clock, with the four states now in force. -/
def State.addMark (s : State) (q kind sample arg : Nat) : State :=
  if s.ringM = 0 ∨ 8 ≤ q then s
  else
    let t := s.ageMark q (s.sub q).marks
    let x := t.sub q
    let v := kind + 2 ^ 8 * (sample % 8 + 2 ^ 4 * x.states) + 2 ^ 16 * (x.clk % 2 ^ 48) + 2 ^ 64 * arg
    (t.putMark q x.marks v).setSub q { x with marks := x.marks + 1 }

/-- The oldest mark that survives. -/
def State.oldMark (s : State) (q : Nat) : Nat := (s.sub q).marks - s.ringM

/-- The newest mark of the last `n` before `m` that satisfies `p`. -/
def State.findMark (s : State) (q : Nat) (p : Nat → Bool) : Nat → Nat → Option Nat
  | _, 0 => none
  | m, n + 1 =>
    match m with
    | 0 => none
    | k + 1 => if p (s.markAt q k) then some (s.markAt q k) else s.findMark q p k n

/-- The same search as reads of Bedrock, with their reports (R344). -/
def State.searchMarks (s : State) (q : Nat) (p : Nat → Bool) : Nat → Nat → Option Nat × State
  | _, 0 => (none, s)
  | m, n + 1 =>
    match m with
    | 0 => (none, s)
    | k + 1 =>
      let r := s.hbmRead qMedia (s.markOfs q k) 16
      if p (r.1.getD 0) then (some (r.1.getD 0), r.2) else r.2.searchMarks q p k n

/-- The newest surviving mark that satisfies `p`. -/
def State.newestMark (s : State) (q : Nat) (p : Nat → Bool) : Option Nat :=
  s.findMark q p (s.sub q).marks ((s.sub q).marks - s.oldMark q)

/-- Its place in bits, clock and sample. -/
def State.markBit (s : State) (q v : Nat) : Nat := s.markClk q v * 8 + markSample v

/-- The marks behind bit `b`, of the last `f` before number `m`, moved up by one; the number that has come free. -/
def State.shiftMarks (s : State) (q b : Nat) : Nat → Nat → State × Nat
  | 0, m => (s, m)
  | _, 0 => (s, 0)
  | f + 1, k + 1 => if b < s.markBit q (s.markAt q k) then (s.putMark q (k + 1) (s.markAt q k)).shiftMarks q b f k else (s, k + 1)

/-- A mark at bit `b` of the subring's history, put in CLK order (R249); its states are those of the mark before it. -/
def State.insertMark (s : State) (q kind b arg : Nat) : State :=
  if s.ringM = 0 ∨ 8 ≤ q then s
  else
    let n := (s.sub q).marks
    let r := (s.ageMark q n).shiftMarks q b (min n (s.ringM - 1)) n
    let st := if r.2 = 0 then 0 else markStates (r.1.markAt q (r.2 - 1))
    let t := r.1.putMark q r.2 (kind + 2 ^ 8 * (b % 8 + 2 ^ 4 * st) + 2 ^ 16 * (b / 8 % 2 ^ 48) + 2 ^ 64 * arg)
    t.setSub q { t.sub q with marks := n + 1 }

/-- A clock covered by a gap. -/
def Subring.inGap (x : Subring) (c : Nat) : Bool := x.gaps.any fun g => g.1 ≤ c && c < g.1 + g.2

/-- The first clock numbered since CLK last wrapped. -/
def Subring.turn (x : Subring) : Nat := x.clk / 2 ^ 48 * 2 ^ 48

/-- The record of a written clock has not been overwritten, with room for `n` records: each stands at its CLK modulo `n`. -/
def Subring.kept (x : Subring) (n c : Nat) : Bool :=
  if c < x.turn then x.turn ≤ c + n && x.clk ≤ x.turn + c % 2 ^ 48 % n else x.clk ≤ c + n

/-- The oldest clock whose record is kept. -/
def Subring.firstKept (x : Subring) (n : Nat) : Nat :=
  if x.turn = 0 || x.turn + n ≤ x.clk then x.clk - n
  else x.turn - n + ((x.clk - x.turn) - (x.turn - n) % 2 ^ 48 % n)

/-- The oldest clock that the records and the marks both still cover. -/
def State.ringFloor (s : State) (q : Nat) : Nat :=
  max ((s.sub q).firstKept s.ringC) (if (s.sub q).marks = 0 then 0 else s.markClk q (s.markAt q (s.oldMark q)))

/-- A clock is held (R250). -/
def State.heldClk (s : State) (q c : Nat) : Bool :=
  c < (s.sub q).clk && s.ringFloor q ≤ c && (s.sub q).kept s.ringC c && !(s.sub q).inGap c

/-- The first clock not in a gap from `c` on, over at most `n` gaps. -/
def skipGaps (gaps : List (Nat × Nat)) (c : Nat) : Nat → Nat
  | 0 => c
  | n + 1 => match gaps.find? fun g => g.1 ≤ c && c < g.1 + g.2 with
    | some g => skipGaps gaps (g.1 + g.2) n
    | none => c

/-- The oldest held clock (LDn_RING_OLD). -/
def State.ringOld (s : State) (q : Nat) : Nat := min (skipGaps (s.sub q).gaps (s.ringFloor q) (s.sub q).gaps.length) (s.sub q).clk

/-- The four states of a sample, by its bit of the history: those of the latest mark at or before it (R250). -/
def State.statesAt (s : State) (q b : Nat) : Nat :=
  ((s.newestMark q fun v => markKind v ≠ 0 && s.markBit q v ≤ b).map markStates).getD 0

/-- The Milestone state, and the SELECT argument, in force at a clock (R252). -/
def State.lockAt (s : State) (q c : Nat) : Nat :=
  ((s.newestMark q fun v => markKind v = mkLock && s.markClk q v ≤ c).map fun v => markArg v % 256).getD (s.sub q).lock
def State.selectAt (s : State) (q c : Nat) : Option Nat :=
  ((s.newestMark q fun v => markKind v = mkSelect && s.markClk q v ≤ c).map markArg).or (s.sub q).sel

/-- The marks at bit `b` of the history or behind it, among the last `f` before number `m`, oldest first, in front of `acc`. -/
def State.marksFrom (s : State) (q b : Nat) : Nat → Nat → List Nat → List Nat
  | 0, _, acc => acc
  | _, 0, acc => acc
  | f + 1, k + 1, acc =>
    let v := s.markAt q k
    if markKind v ≠ 0 && s.markBit q v < b then acc else s.marksFrom q b f k (v :: acc)

/-- The marks of clock `c` read for a replay: their reports (R344). -/
def State.readMarks (s : State) (q c : Nat) : State :=
  ((List.range (min (s.sub q).marks s.ringM)).filter fun i => s.markClk q (s.markAt q (s.oldMark q + i)) = c).foldl
    (fun t i => (t.hbmRead qMedia (s.markOfs q (s.oldMark q + i)) 16).2) s

/-- The record of the present clock written, or its gap recorded: where Bedrock holds the pseudo-channel, or answers with an error, it does
not accept the record (R248, R249, R341). -/
def State.putRecord (s : State) (q v : Nat) : State :=
  if s.ringC = 0 ∨ 8 ≤ q then s
  else
    let x := s.sub q
    let r := if s.ready .bedrock && !s.pprHolds (s.recOfs q x.clk) 12 then s.hbmWrite qRing (s.recOfs q x.clk) 12 v else (false, s)
    let keep := x.gaps.filter fun g => s.ringFloor q < g.1 + g.2
    if r.1 then r.2.setSub q { x with gaps := keep }
    else (r.2.setSub q { x with gaps := keep ++ [(x.clk, 1)] }).addMark q mkGap 0 1

/-- CLK advances. -/
def State.nextClock (s : State) (q : Nat) : State := s.setSub q { s.sub q with clk := (s.sub q).clk + 1 }

/-! ### Freezing (R184) -/

/-- The sources of R184 by their bit in LDn_STATUS.FRZ. -/
def fzDefect : Nat := 0
def fzTa : Nat := 1
def fzWedge : Nat := 2
def fzWrite : Nat := 3
def fzHold : Nat := 4
def fzNosig : Nat := 5

/-- The sources now asserted, and those of them that are enabled. -/
def State.frz (s : State) (n : Nat) : Nat := s.rf (R.LD_STATUS n) F.LD_STATUS_FRZ
def State.frzOn (s : State) (n : Nat) : Nat := s.frz n &&& (s.rf (R.LD_FREEZE n) F.LD_FREEZE_MASK + 0x38)

/-- The front-end loops hold. -/
def State.frozenLoops (s : State) (n : Nat) : Bool := s.frzOn n ≠ 0 || (s.slice n).tail ≠ 0

/-- The states of sample `k` of the present record of subring `q` are `v`: a STATE mark where they change (R249). -/
def State.noteStates (s : State) (q k v : Nat) : State :=
  if 8 ≤ q || (s.sub q).states = v then s else (s.setSub q { s.sub q with states := v }).addMark q mkState k 0

/-- A source of slice `n` asserts or clears: TAIL slice clocks follow the last enabled source (of EQ and NP adaptation, the last but
NOSIG). -/
def State.setFrz (s : State) (n src : Nat) (v : Bool) : State :=
  if bitAt (s.frz n) src = v then s
  else
    let t := s.wf (R.LD_STATUS n) ⟨16 + src, 16 + src⟩ (b2n v)
    let len := t.rf (R.LD_FREEZE n) F.LD_FREEZE_TAIL
    let x := t.slice n
    let tail := if s.frzOn n ≠ 0 && t.frzOn n = 0 then len else x.tail
    let tailB := if !s.inRing n && s.frzOn n % 32 ≠ 0 && t.frzOn n % 32 = 0 then len else x.tailB
    t.setSlice n { x with tail, tailB }

/-- Something that ends the sector in progress as ABORTED has come about on slice `n` (R219). -/
def State.upset (s : State) (n : Nat) : State :=
  s.setSlice n { s.slice n with upsets := ((s.slice n).now :: (s.slice n).upsets).filter fun c => (s.slice n).now ≤ c + 32768 }

/-! ### Milestone (R203, R213 to R215) -/

/-- The states of R214. -/
def msIdle : Nat := 0
def msAcquire : Nat := 1
def msLocked : Nat := 2
def msHoldover : Nat := 3

/-- Milestone `m`: of slice m, or of write channel m - 8. -/
def msStat (m : Nat) : Nat := if m < 8 then R.LD_MS_STAT m else R.ACT_MS_STAT (m - 8)
def msCtl (m : Nat) : Nat := if m < 8 then R.LD_MS_CTL m else R.ACT_MS_CTL (m - 8)
def State.msState (s : State) (m : Nat) : Nat := s.rf (msStat m) F.LD_MS_STAT_STATE
def State.ms (s : State) (m : Nat) : MsState := (s.lode.ms[m]?).getD {}
def State.setMs (s : State) (m : Nat) (x : MsState) : State := { s with lode := { s.lode with ms := s.lode.ms.set m x } }

/-- The surface it follows: of the head selected on its slice, or in ACTa_WC_SEL. -/
def State.msSurf (s : State) (m : Nat) : Nat :=
  if m < 8 then ((s.sliceAct m).getD 0) * 8 + s.rf (R.LD_SEL m) F.LD_SEL_HEAD
  else (m - 8) * 8 + s.rf (R.ACT_WC_SEL (m - 8)) F.ACT_WC_SEL_HEAD

/-- The channel rate in kHz in zone `z` at the measured speed; 3,072 MHz at target in Touchstone mode (R203, R213). -/
def State.msRate (s : State) (m z : Nat) : Nat :=
  let ts := if m < 8 then s.flag (R.LD_FRM_CTL m) F.LD_FRM_CTL_TS else s.flag (R.ACT_MS_CTL (m - 8)) F.ACT_MS_CTL_TS
  s.kHzAt (if ts then touchMHz else ((s.zone (s.msSurf m) z).map Zone.rate).getD 0)

/-- The servo track number of an actuator (R213). -/
def State.servoTrack (s : State) (a : Nat) : Nat := s.rf (R.ACT_ID a) F.ACT_ID_TRACK

/-- The rate follows the zone and the speed, in ACQUIRE and LOCKED: in IDLE it stands, and in HOLDOVER the frequency is held
(R214). A slice's stays within the range of its clock (R19), eight bits a clock; a write channel's has no limit but its zone's. A slice
without a live pair runs at 650 MHz (R180). -/
def State.setRate (s : State) (m : Nat) : State :=
  let khz := s.msRate m (s.rf (msStat m) F.LD_MS_STAT_ZONE)
  if m < 8 && !s.livePair m then s.wr (R.LD_MS_RATE m) (word 5200000)
  else if s.msState m ≠ msAcquire && s.msState m ≠ msLocked then s
  else if m < 8 then s.wr (R.LD_MS_RATE m) (word (clampNat 2260800 5200000 khz))
  else s.setMs m { s.ms m with rate := khz }

/-! ### The write gate (R200 to R202) -/

/-- The gate of write channel `a` is open. -/
def State.gateOpen (s : State) (a : Nat) : Bool := s.flag (R.ACT_WC_STAT a) F.ACT_WC_STAT_GATE

/-- A gate request of write channel `a` is a vault request: its sequencer's head item is an extent of the vault flush (R329). -/
def State.vaultGate (s : State) (a : Nat) : Bool :=
  s.bls.flushing && match s.wqHead (8 + a) with
  | some (kind, k) => kind = wkWrite && s.bls.flush.contains (k, a)
  | none => false

/-- The conditions of R201 but for HEAT_READY; a vault request skips the mode (R329). -/
def State.gateOk (s : State) (a : Nat) : Bool :=
  s.flag (R.ACT_WC_CTL a) F.ACT_WC_CTL_ENABLE && s.flag (R.ACT_WC_STAT a) F.ACT_WC_STAT_CLK_LOCK
    && s.flag (R.ACT_WC_STAT a) F.ACT_WC_STAT_PERMIT && !s.flag (R.ACT_WC_STAT a) F.ACT_WC_STAT_PREAMP_BUSY
    && (s.mode ≠ mHaven || s.vaultGate a)

/-- The head of write channel `a`, device-wide. -/
def State.wcHead (s : State) (a : Nat) : Nat := 8 * a + s.rf (R.ACT_WC_SEL a) F.ACT_WC_SEL_HEAD

/-- The WRITE source of every slice on actuator `a`. -/
def State.writeSource (s : State) (a : Nat) (v : Bool) : State := (s.slicesOf a).foldl (fun t n => t.setFrz n fzWrite v) s

/-- The gate closes at the end of a run: heat and HEAT_REQ drop. -/
def State.closeGate (s : State) (a : Nat) : State :=
  let t := (s.wf (R.ACT_WC_STAT a) F.ACT_WC_STAT_GATE 0).wf (R.ACT_WC_CTL a) F.ACT_WC_CTL_HEAT_REQ 0
  (((t.dropHeat (t.wcHead a)).setWc a { t.wc a with waiting := false }).writeSource a false)

/-- Where the sectors from sector bit `j` of a track on lie, `m` of them. -/
def runOn (x : Surface) (z : Zone) (rpm j m : Nat) (key : Nat × Nat) : WcRun :=
  let g := trackGeo x z rpm
  ⟨g, j * codeL z.code, m * codeL z.code, ((g.spans (j * codeL z.code) [true]).head?.map Prod.fst).getD 0, key⟩

/-- The part of the head item's run of STR(8 + a) that the gate is about to write: the sectors that are still to come and lie on one track
(R155, R205, R224); none where its place is not one of the sectors' format. -/
def State.runPlace (s : State) (a : Nat) : Option WcRun :=
  match s.wqHead (8 + a) with
  | none => none
  | some (kind, k) =>
    let c := s.ctx k
    let i := match (s.wc a).sent with
      | some q => if q.1 = k then q.2 else 0
      | none => 0
    if kind = wkWrite then
      let n := if i < placeCount1 c.place then min (placeCount1 c.place) c.granCnt else c.granCnt
      let p := s.placePsa c.place i
      if n ≤ i then none
      else (s.psaPlace p).map fun q =>
        let m := min (q.2.1.spt - q.2.2.2) (psaIdx (s.placePsa c.place (n - 1)) + 1 - psaIdx p)
        runOn q.1 q.2.1 s.targetRpm q.2.2.2 m
          (k, i + ((List.range n).filter fun r => i ≤ r && psaIdx (s.placePsa c.place r) < psaIdx p + m).length)
    else if kind = wkFormat then
      let ssa := rdLe c.fw 0 4
      match s.surface (ssa / 2 ^ 27 % 32), s.zone (ssa / 2 ^ 27 % 32) 0 with
      | some x, some z =>
        if ssa / 2 ^ 20 % 128 < 64 then none
        else
          let j := (ssa % 2 ^ 16 + i) % max 1 z.spt
          some (runOn x z s.targetRpm j (z.spt - j) (k, i + (z.spt - j)))
      | _, _ => none
    else none

/-- The gate opens: the first bit is the run's first (R199). -/
def State.openGate (s : State) (a : Nat) : State :=
  (((s.setWc a { s.wc a with waiting := false, pos := 0, level := none, last := none, run := s.runPlace a }).raise (R.ACT_WC_STAT a) F.ACT_WC_STAT_GATE).writeSource a true).beginRun a

/-- A gate request refused; `late`: HEAT_READY did not come in time. The run is abandoned. -/
def State.refuseGate (s : State) (a : Nat) (late : Bool) : State :=
  let t := (s.raise (R.ACT_WC_EVT a) F.ACT_WC_EVT_GATE_REFUSED).countUp (R.ACT_WC_CNT a) F.ACT_WC_CNT_REFUSED 1
  let u := if late then t.raise (R.ACT_WC_EVT a) F.ACT_WC_EVT_HEAT_LATE else t
  (u.closeGate a).setWc a { (u.closeGate a).wc a with abandon := true }

/-- The gate closes because a condition went: the run is abandoned. -/
def State.abandonGate (s : State) (a : Nat) : State :=
  let t := s.closeGate a
  t.setWc a { t.wc a with abandon := true }

/-- An open gate whose conditions no longer hold closes (R202). -/
def State.gateCheck (s : State) (a : Nat) : State :=
  if s.gateOpen a && !s.gateOk a then
    if s.flag (R.ACT_WC_STAT a) F.ACT_WC_STAT_PERMIT then s.abandonGate a
    else (s.raise (R.ACT_WC_EVT a) F.ACT_WC_EVT_PERMIT_DROP).abandonGate a
  else s

/-- A request that waits is judged once HEAT_READY has come. -/
def State.gateWait (s : State) (a : Nat) : State :=
  if (s.wc a).waiting && s.flag (R.ACT_WC_STAT a) F.ACT_WC_STAT_HEAT_READY then
    if s.gateOk a then s.openGate a else s.refuseGate a false
  else s

/-! ### Milestone transitions -/

/-- An event of slice `n` noted in the ring: its mark joins the record of the first samples behind it. While Milestone is IDLE no record is
written, and the marks stand at the next one (R248, R249). -/
def State.noteMark (s : State) (n kind arg : Nat) : State :=
  let q := s.rf (R.LD_RING_CFG n) F.LD_RING_CFG_Q
  let x := s.slice n
  if 8 ≤ q then s
  else if s.msState n = msIdle then
    (x.due ++ x.soon ++ [(kind, arg)]).foldl (fun t m => t.addMark q m.1 0 m.2) (s.setSlice n { x with due := [], soon := [] })
  else s.setSlice n { x with soon := x.soon ++ [(kind, arg)] }

/-- CLK_LOCK and the LOCK mark after a state change of Milestone `m` (R215, R249). -/
def State.msEnter (s : State) (m st : Nat) : State :=
  if s.msState m = st then s
  else
    let t := (s.wf (msStat m) F.LD_MS_STAT_STATE st).setMs m { s.ms m with good := 0 }
    if m < 8 then
      let lock := st = msLocked || st = msHoldover
      let was := t.flag (R.LD_STATUS m) F.LD_STATUS_CLK_LOCK
      let u := t.wf (R.LD_STATUS m) F.LD_STATUS_CLK_LOCK (b2n lock)
      let v := if was && !lock then (u.raise (R.LD_EVT m) F.LD_EVT_LOCK_LOST).upset m else u
      (v.noteMark m mkLock st).setRate m
    else (t.wf (R.ACT_WC_STAT (m - 8)) F.ACT_WC_STAT_CLK_LOCK (b2n (st = msLocked))).gateCheck (m - 8)

/-- The zone under the head: of its surface, at the servo track number (R203, R213). -/
def State.msZone (s : State) (m : Nat) : Nat := s.zoneOf (s.msSurf m) (s.servoTrack (s.msSurf m / 8))

/-- It differs from the one the clock is tuned to: the clock is retuned (R213, R214). -/
def State.msRetune (s : State) (m : Nat) : State :=
  let z := s.msZone m
  if s.msState m = msIdle || z = s.rf (msStat m) F.LD_MS_STAT_ZONE then s
  else ((s.wf (msStat m) F.LD_MS_STAT_ZONE z).msEnter m msAcquire).setRate m

/-- Every Milestone returns to IDLE as MILLSTONE clears. -/
def State.msStop (s : State) : State := (List.range 12).foldl (fun t m => t.msEnter m msIdle) s

/-- MILLSTONE set or cleared. -/
def State.setMillstone (s : State) (v : Bool) : State :=
  if s.ready .millstone = v then s
  else
    let t := s.setReady .millstone v
    if v then t.raise R.MIL_EVT F.MIL_EVT_REG_SET else t.msStop

/-! ### Handover (R177, R179, R247) -/

/-- A replay-only slice in service of the same actuator. -/
def State.spareSlice (s : State) (n : Nat) : Option Nat :=
  (List.range 8).find? fun m => m ≠ n && sameAct (s.sliceAct m) (s.sliceAct n) && !s.livePair m && s.unitState 0 m = uIn

/-- Slice `n` gives its pair, servo duty and subring to slice `m`. -/
def State.handover (s : State) (n m : Nat) : State :=
  let pair := s.rf (R.LD_CFG n) F.LD_CFG_LIVE_PAIR
  let servo := s.rf (R.LD_CFG n) F.LD_CFG_SERVO
  let q := s.rf (R.LD_RING_CFG n) F.LD_RING_CFG_Q
  let t := s.msEnter n msIdle
  let t1 := ((t.wf (R.LD_CFG m) F.LD_CFG_LIVE_PAIR pair).wf (R.LD_CFG m) F.LD_CFG_SERVO servo).wf (R.LD_RING_CFG m)
    F.LD_RING_CFG_Q q
  let t2 := ((t1.wf (R.LD_CFG n) F.LD_CFG_LIVE_PAIR 3).wf (R.LD_CFG n) F.LD_CFG_SERVO 0).wf (R.LD_RING_CFG n)
    F.LD_RING_CFG_Q 0xF
  let t3 := ((t2.setFrz n fzNosig true).setFrz m fzNosig false).setRate n
  let t4 := t3.setSlice m { t3.slice m with place := (t3.slice n).place, last := (t3.slice n).last }
  t4.setSeq n { t4.seq n with handTo := some m }

/-- The handover that a slice's take-out makes, where a spare slice is there. -/
def State.handoverFrom (s : State) (n : Nat) : State :=
  if s.livePair n then match s.spareSlice n with
    | some m => s.handover n m
    | none => s
  else s

end Sys2Proof.Machine
end

