-- ==== Sys2Proof/Machine/ActOps.lean ====
section
/-!
DEFINITION. Sys2Proof/Machine/ActOps.lean: the actuator interfaces: the servo head (R273), positions (R275 to R280), states (R281),
the seek reference (R283), the write permit (R286, R287), velocity control (R293), unload, retract and readiness (R294 to R296)
and the rules of their register writes (R282, R285, R290, R292, R297).
-/

namespace Sys2Proof.Machine

/-! ### The servo head (R273) -/

/-- The servo pair, its head, the surface's format and the slice that streams it. -/
def State.servoPair (s : State) (a : Nat) : Nat := s.rf (R.ACT_STATE a) F.ACT_STATE_SPAIR
def State.servoHead (s : State) (a : Nat) : Nat := s.rf (R.ACT_HSEL a (s.servoPair a)) F.ACT_HSEL_HEAD
def State.servoSurface (s : State) (a : Nat) : Option Surface := s.surface (8 * a + s.servoHead a)
def State.servoSlice (s : State) (a : Nat) : Option Nat :=
  (s.slicesOf a).find? fun n => s.rf (R.LD_CFG n) F.LD_CFG_LIVE_PAIR = s.servoPair a

/-- Any surface of the actuator uses continuous servo. -/
def State.anyContinuous (s : State) (a : Nat) : Bool := s.surfaces.any fun x => x.surf / 8 = a && !x.wedge

/-- The slice's Milestone is in LOCKED or HOLDOVER. -/
def State.servoClock (s : State) (a : Nat) : Bool :=
  match s.servoSlice a with
  | some n => s.msState n = msLocked || s.msState n = msHoldover
  | none => false

/-! ### Readiness (R296) -/

/-- Enumeration results of R291. -/
def enOk : Nat := 1
def enMismatch : Nat := 2
def enNone : Nat := 3

/-- Actuator `a` is calibrated and able to seek (R296). -/
def State.actAble (s : State) (a : Nat) : Bool :=
  s.rf (R.ACT_PA_ENUM a) F.ACT_PA_ENUM_RESULT = enOk && s.flag (R.ACT_CAL a) F.ACT_CAL_DONE && (s.act a).followed

/-- The functions that ACT waits for are ready (R35). -/
def State.actMayStart (s : State) : Bool := s.ready .millstone && s.ready .lode && s.ready .strata

/-- Bit 22 + a follows its three conditions, once the functions it waits for are ready, and MEDIA follows it (R33, R35, R296). -/
def State.refreshAct (s : State) (a : Nat) : State :=
  let r := Ready.act ⟨a % 4, Nat.mod_lt _ (by decide)⟩
  (s.setReady r (s.actAble a && (s.ready r || s.actMayStart))).refreshMedia

/-! ### The write permit (R286, R287) -/

/-- Numbers of R286 by cause. -/
def pcState : Nat := 1
def pcHead : Nat := 2
def pcOfftrack : Nat := 3
def pcPredict : Nat := 4
def pcInvalid : Nat := 5
def pcShock : Nat := 6
def pcRotor : Nat := 7
def pcPreamp : Nat := 8
def pcDither : Nat := 9
def pcInhibit : Nat := 10

/-- Shock is asserted on every actuator. -/
def State.shockOn (s : State) : Bool := s.flag R.ACT0_SHOCK_STAT F.ACT0_SHOCK_STAT_ACTIVE

/-- The first condition of R286 that is false, if any. -/
def State.permitCause (s : State) (a : Nat) : Option Nat :=
  let x := s.act a
  let tol := s.rf (R.ACT_PERMIT a) F.ACT_PERMIT_WR_TOL
  if s.actSt a ≠ aFollow then some pcState
  else if s.rf (R.ACT_WC_SEL a) F.ACT_WC_SEL_HEAD ≠ s.servoHead a then some pcHead
  else if tol < x.pes.natAbs then some pcOfftrack
  else if s.flag (R.ACT_PERMIT a) F.ACT_PERMIT_PRED_EN ∧ tol < (2 * x.pes - x.pesPrev).natAbs then some pcPredict
  else if !s.flag (R.ACT_PES a) F.ACT_PES_VALID then some pcInvalid
  else if s.shockOn then some pcShock
  else if s.mil.rotor then some pcRotor
  else if x.flt then some pcPreamp
  else if s.flag (R.ACT_DITHER a) F.ACT_DITHER_EN then some pcDither
  else if s.flag (R.ACT_PERMIT a) F.ACT_PERMIT_INHIBIT then some pcInhibit
  else none

/-- PERMIT of actuator `a`. -/
def State.permit (s : State) (a : Nat) : Bool := s.flag (R.ACT_WC_STAT a) F.ACT_WC_STAT_PERMIT

/-- PERMIT clears when a condition is false, WHY takes the cause, and an open gate closes (R202). -/
def State.refreshPermit (s : State) (a : Nat) : State :=
  match s.permit a, s.permitCause a with
  | true, some c =>
    (((s.wf (R.ACT_WC_STAT a) F.ACT_WC_STAT_PERMIT 0).wf (R.ACT_PERMIT a) F.ACT_PERMIT_WHY c).setAct a
      { s.act a with permitRun := 0 }).gateCheck a
  | _, _ => s

/-- A sample's part: PERMIT returns once every condition has held on WR_N valid samples in a row. -/
def State.samplePermit (s : State) (a : Nat) : State :=
  match s.permit a, s.permitCause a with
  | true, _ => s.refreshPermit a
  | false, some _ => s.setAct a { s.act a with permitRun := 0 }
  | false, none =>
    let n := (s.act a).permitRun + 1
    let t := s.setAct a { s.act a with permitRun := n }
    if s.rf (R.ACT_PERMIT a) F.ACT_PERMIT_WR_N ≤ n then t.raise (R.ACT_WC_STAT a) F.ACT_WC_STAT_PERMIT else t

/-- Every actuator's PERMIT judged again. -/
def State.refreshPermits (s : State) : State := (List.range 4).foldl (fun t a => t.refreshPermit a) s

/-! ### States (R281) -/

/-- TARGET (R281). -/
def State.seekTarget (s : State) (a : Nat) : Nat := s.rf (R.ACT_SEEK a) F.ACT_SEEK_TRACK

/-- T_ref, and REF, which is T_ref in SETTLE and FOLLOW whatever JOG and the servo pair become there (R283). -/
def State.tRef (s : State) (a : Nat) : Int :=
  32768 * (s.seekTarget a : Int) + s.s16 (R.ACT_JOG a (s.servoHead a)) F.ACT_JOG_JOG
def State.refNow (s : State) (a : Nat) : Int :=
  if s.actSt a = aSettle ∨ s.actSt a = aFollow then s.tRef a else (s.act a).ref

/-- The state of actuator `a` entered; REF goes on from where it stands. -/
def State.actEnter (s : State) (a st : Nat) : State :=
  (s.setAct a { s.act a with ref := s.refNow a }).wf (R.ACT_STATE a) F.ACT_STATE_STATE st

/-- SETTLE on the present target. -/
def State.enterSettle (s : State) (a : Nat) : State :=
  let t := s.actEnter a aSettle
  t.setAct a { t.act a with vref := 0, ff := 0, inBand := 0, settleRun := 0, late := false }

/-- FOLLOW: SEEK_DONE, and readiness. -/
def State.enterFollow (s : State) (a : Nat) : State :=
  let t := (s.actEnter a aFollow).raise (R.ACT_EVT a) F.ACT_EVT_SEEK_DONE
  (t.setAct a { t.act a with followed := true }).refreshAct a

/-- LOST: heaters to 0. -/
def State.enterLost (s : State) (a : Nat) : State :=
  let t := ((s.actEnter a aLost).raise (R.ACT_EVT a) F.ACT_EVT_LOST).countUp (R.ACT_CNT0 a) F.ACT_CNT0_LOST 1
  (t.setAct a { t.act a with acq := 0, vref := 0, ff := 0 }).heatersOff a

/-- Causes of R294 and their numbers in ACTa_STATE.CAUSE. -/
def ucCommand : Nat := 1
def ucHaven : Nat := 2
def ucDormant : Nat := 3
def ucSpeed : Nat := 4
def ucServoLost : Nat := 5
def ucLoadFail : Nat := 6
def ucPower : Nat := 7
def ucOut : Nat := 8

/-- The actuator can unload: it is in none of PARKED, UNLOADING, RETRACT. -/
def State.canUnload (s : State) (a : Nat) : Bool :=
  s.actSt a ≠ aParked && s.actSt a ≠ aUnloading && s.actSt a ≠ aRetract

/-- Heads leave the tracks, or stay off them: what UNLOADING, RETRACT and PARKED share. -/
def State.offTrack (s : State) (a : Nat) : State :=
  let t := s.setAct a { s.act a with followed := false, acq := 0, vref := 0, ff := 0 }
  ((t.heatersOff a).refreshAct a).refreshPermit a

/-- An unload cause. -/
def State.unloadAct (s : State) (a cause : Nat) : State :=
  if s.canUnload a then
    let t := (s.actEnter a aUnloading).wf (R.ACT_STATE a) F.ACT_STATE_CAUSE cause
    (t.setAct a { t.act a with stall := 0 }).offTrack a
  else s

/-- The stall that ends UNLOADING, as Ballast's velocity and the latest command show it: below UNLOAD_VEL ÷ 8 with the command at ILIM
(R294). It ends the unload once it has stood for 2 ms, 250 velocities of 8 µs (R321). -/
def State.stalled (s : State) (a : Nat) : Bool :=
  s.actSt a = aUnloading && decide (8 * (spGetD 0 s.bls.vel a).natAbs < s.rf (R.ACT_VEL a) F.ACT_VEL_UNLOAD_VEL)
    && (s.act a).cmd.natAbs = s.rf (R.ACT_VELK a) F.ACT_VELK_ILIM
def stallRun : Nat := 250

/-- Every actuator unloads. -/
def State.unloadAll (s : State) (cause : Nat) : State := (List.range 4).foldl (fun t a => t.unloadAct a cause) s

/-- The last VCM and milli-actuator commands on the link. -/
def State.driveCmd (s : State) (a : Nat) (vcm milli : Int) : State :=
  (s.driveTo a 0 vcm).driveTo a 1 milli

/-- PARKED entered, with command 0. -/
def State.park (s : State) (a : Nat) : State :=
  (((s.actEnter a aParked).raise (R.ACT_EVT a) F.ACT_EVT_PARKED).offTrack a).driveCmd a 0 0

/-- Ballast begins emergency retract; it reports that it is complete (R281, R295). -/
def State.retract (s : State) (a : Nat) : State :=
  if s.actSt a = aRetract then s
  else ((s.actEnter a aRetract).wf (R.ACT_STATE a) F.ACT_STATE_CAUSE ucPower).offTrack a
def State.retractDone (s : State) (a : Nat) : State := if s.actSt a = aRetract then s.park a else s

/-- Every present actuator is parked. -/
def State.allParked (s : State) : Bool := (List.range 4).all fun a => !s.actPresent a || s.actSt a = aParked

/-! ### The seek reference (R283) -/

/-- The sign of a value. -/
def signOf (x : Int) : Int := if 0 < x then 1 else if x < 0 then -1 else 0

/-- Clamped to -m to m. -/
def clampAbs (m x : Int) : Int := max (-m) (min m x)

/-- One advance of REF and VREF. REF is in 1/32,768 track and VREF in 1/65,536, so half of VREF is added, rounded down. -/
def State.advanceRef (s : State) (a : Nat) : State :=
  if s.actSt a ≠ aSeek then s
  else
    let x := s.act a
    let amax : Int := s.rf (R.ACT_PROF a) F.ACT_PROF_AMAX
    let vmax : Int := s.rf (R.ACT_PROF a) F.ACT_PROF_VMAX * 256
    let t := s.tRef a
    let d := t - x.ref
    let vgoal := signOf d * min vmax (floorSqrt (2 * amax.toNat * (2 * d.natAbs)) : Int)
    let acc := clampAbs amax (vgoal - x.vref)
    let v := x.vref + acc
    let r := x.ref + v / 2
    if (t - r).natAbs < 1024 ∧ (v.natAbs : Int) ≤ amax then
      s.enterSettle a
    else
      s.setAct a { x with ref := r, vref := v, ff := sat16 (acc * s.s16 (R.ACT_FF a) F.ACT_FF_KFF / 32768) }

/-! ### Position (R275 to R280) -/

/-- The value congruent to `c` modulo `m` nearest `p`; of two as near, the larger. -/
def nearestMod (c m p : Int) : Int := c + m * ((2 * (p - c) + m) / (2 * m))

/-- What a sample says: found, the candidates as values modulo a period, the usable track ID, and the position from it. -/
structure Reading where
  found : Bool
  cands : List (Int × Int) := []
  id : Option Nat := none
  fromId : Int := 0
deriving DecidableEq, Repr

/-- The number whose Gray code is `g`, of `n` bits (R274). -/
def grayDecode (g : Nat) : Nat → Nat
  | 0 => 0
  | n + 1 => (g / 2 ^ n) ^^^ grayDecode g n

/-- `n` dibits decoded: 0b01 a 0 and 0b10 a 1, any other none (R276). -/
def dibits (v : Nat) : Nat → Option Nat
  | 0 => some 0
  | n + 1 => (dibits v n).bind fun r =>
    if v / 4 ^ n % 4 = 1 then some r else if v / 4 ^ n % 4 = 2 then some (r + 2 ^ n) else none

/-- The demodulator's result for a sample; the value of a ratio with a zero divisor is free. -/
def State.demodulate (s : State) (a : Nat) (d : Demod) : Reading × State :=
  match d with
  | .tones aP aQ gP gQ =>
    let q := if aP + aQ = 0 then s.free 16 else (((65536 * aQ + (aP + aQ)) / (2 * (aP + aQ))), s)
    let d32 : Int := q.1
    let p := grayDecode gP.toNat 24
    let k := grayDecode gQ.toNat 24
    let id := if p % 2 = 0 ∧ k % 2 = 1 ∧ (p + 1 = k ∨ k + 1 = p) then some (p, k) else none
    let fromId : Int := match id with
      | some (p, k) => 32768 * (p : Int) + (if p < k then d32 else -d32) - 16384
      | none => 0
    ({ found := s.rf (R.ACT_SV_CFG a) F.ACT_SV_CFG_QMIN ≤ aP + aQ, cands := [(d32 - 16384, 65536), (-d32 - 16384, 65536)],
       id := id.map fun p => (p.1 + 2 ^ 24 - 1) % 2 ^ 24, fromId := fromId }, q.2)
  | .wedge found t1 t2 t3 track =>
    let id := if found then (dibits track.toNat 24).map fun g => grayDecode g 24 else none
    let q : Int × State := if t3 = t1 then (((s.free 17).1 : Int), (s.free 17).2)
      else (roundDiv ((t2 - t1) * 524288) (t3 - t1) - 131072, s)
    ({ found := found, cands := [(q.1, 131072)], id := id,
       fromId := match id with
         | some t => nearestMod q.1 131072 (32768 * (t : Int) + 16384)
         | none => 0 }, q.2)

/-- The candidate nearest `p`; of two as near, the first. -/
def nearestCand (p : Int) : List (Int × Int) → Int
  | [] => p
  | [c] => nearestMod c.1 c.2 p
  | c :: rest =>
    let x := nearestMod c.1 c.2 p
    let y := nearestCand p rest
    if (y - p).natAbs < (x - p).natAbs then y else x

/-- POS in its 40 bits, as the registers show it. -/
def State.showPos (s : State) (a : Nat) (p : Int) : State :=
  (s.wr (R.ACT_POS_LO a) (word (bitsOf 32 p))).wr (R.ACT_POS_HI a) (word (bitsOf 8 (p / 2 ^ 32)))

/-- POS after a valid sample (R279). -/
def State.takePos (s : State) (a : Nat) (r : Reading) (pred : Int) : State :=
  let x := s.act a
  let p := nearestCand pred r.cands
  let off := r.id.isSome && 32768 < (r.fromId - p).natAbs
  let t := s.setAct a { x with pos := satTo 40 (if off && x.idOff then r.fromId else p), idOff := off }
  if off && x.idOff then (t.raise (R.ACT_EVT a) F.ACT_EVT_ID_ERR).countUp (R.ACT_CNT1 a) F.ACT_CNT1_ID_ERR 1 else t

/-- Valid samples in a row with usable, consistent IDs; the latest usable ID. -/
def State.countAcq (s : State) (a : Nat) (r : Reading) : State :=
  let x := s.act a
  match r.id with
  | none => s.setAct a { x with acq := 0 }
  | some n =>
    let run := match x.acq, x.lastId with
      | 0, _ => 1
      | k + 1, some m => if Config.idConsistent m n then k + 2 else 1
      | k + 1, none => k + 2
    s.setAct a { x with acq := run, lastId := some n }

/-- The track held has been acquired: LOADING takes the nearest data track as its target, LOST keeps its own. -/
def State.acquire (s : State) (a : Nat) (r : Reading) : State :=
  let x := s.act a
  if (s.actSt a = aLoading ∨ s.actSt a = aLost) ∧ s.rf (R.ACT_SV_CFG a) F.ACT_SV_CFG_ACQ_N ≤ x.acq then
    let t := s.setAct a { x with pos := r.fromId, idOff := false,
                                 }
    (if s.actSt a = aLoading then t.wf (R.ACT_SEEK a) F.ACT_SEEK_TRACK (roundDiv r.fromId 32768).toNat else t).enterSettle a
  else s

/-- The settle criteria (R284) and the settle time. -/
def State.judgeSettle (s : State) (a : Nat) (valid : Bool) : State :=
  if s.actSt a ≠ aSettle then s
  else
    let x := s.act a
    let band : Bool := valid && x.pes.natAbs ≤ s.rf (R.ACT_SETTLE a) F.ACT_SETTLE_SETTLE_TOL
    let run := if band then x.inBand + 1 else 0
    let near : Bool := match x.lastId with
      | some n => n ≤ s.seekTarget a + 1 && s.seekTarget a ≤ n + 1
      | none => false
    let t := s.setAct a { x with inBand := run, settleRun := x.settleRun + 1 }
    if s.rf (R.ACT_SETTLE a) F.ACT_SETTLE_SETTLE_N ≤ run ∧ near then t.enterFollow a
    else if s.rf (R.ACT_SETTLE a) F.ACT_SETTLE_SETTLE_TMO ≤ x.settleRun + 1 ∧ !x.late then
      ((t.setAct a { t.act a with late := true }).raise (R.ACT_EVT a) F.ACT_EVT_SETTLE_LATE).countUp (R.ACT_CNT1 a)
        F.ACT_CNT1_SETTLE_LATE 1
    else t

/-- Invalid samples in a row lose the track (R281). -/
def State.judgeMiss (s : State) (a : Nat) : State :=
  let lim := s.rf (R.ACT_SV_CFG a) F.ACT_SV_CFG_MISS_MAX
  let st := s.actSt a
  if (st = aSettle ∨ st = aFollow) ∧ lim ≤ s.rf (R.ACT_STATE a) F.ACT_STATE_INV_RUN then s.enterLost a
  else if st = aSeek ∧ lim ≤ (s.act a).slowInv then s.enterLost a
  else s

/-- The interface's own commands of R280: the velocity command of R293, and 0 where the state gives a stage none. -/
def State.ownCommand (s : State) (a : Nat) : State :=
  let st := s.actSt a
  if st = aLoading ∨ st = aUnloading then
    let v := spGetD 0 s.bls.vel a
    let vset : Int := if st = aLoading then s.rf (R.ACT_VEL a) F.ACT_VEL_LOAD_VEL else -(s.rf (R.ACT_VEL a) F.ACT_VEL_UNLOAD_VEL : Int)
    let cmd := clampAbs (s.rf (R.ACT_VELK a) F.ACT_VELK_ILIM) (s.s16 (R.ACT_VELK a) F.ACT_VELK_KV * (vset - v) / 8192)
    (s.setAct a { s.act a with cmd := cmd }).driveCmd a cmd 0
  else if st = aParked ∨ st = aLost then s.driveCmd a 0 0
  else if st = aSeek then s.driveTo a 1 0
  else s

/-- Loops triggered by the sample (R280). -/
def State.triggerServo (s : State) (a : Nat) : State :=
  let st := s.actSt a
  if st = aSeek then s.trigger a
  else if st = aSettle ∨ st = aFollow then (s.trigger a).trigger (4 + a)
  else s

/-- One sample, valid or not: reference, POS, PES, state, commands, loops, PERMIT, and the READY bit, whose conditions of R35
may have come since. -/
def State.sample (s0 : State) (a : Nat) (valid : Bool) (r : Reading) : State :=
  let s1 := s0.advanceRef a
  let pred := (s1.act a).pos + (s1.refNow a - (s1.act a).refPrev)
  let s := s1.setAct a { s1.act a with refPrev := s1.refNow a }
  let t := if valid then
      ((((s.takePos a r pred).countAcq a r).wf (R.ACT_STATE a) F.ACT_STATE_INV_RUN 0).wf (R.ACT_ID a) F.ACT_ID_USABLE
        (b2n r.id.isSome)).wf (R.ACT_ID a) F.ACT_ID_TRACK (r.id.getD (s.rf (R.ACT_ID a) F.ACT_ID_TRACK))
    else
      let x := s.act a
      (((s.setAct a { x with pos := satTo 40 pred, acq := 0, idOff := false, slowInv := if x.vref.natAbs ≤ 65536 then x.slowInv + 1 else 0 }).countUp
        (R.ACT_STATE a) F.ACT_STATE_INV_RUN 1).countUp (R.ACT_CNT0 a) F.ACT_CNT0_INVALID 1)
  let t1 := if valid then (t.setAct a { t.act a with slowInv := 0 }).acquire a r else t
  let x := t1.act a
  let pes := if valid then sat16 (x.pos - t1.refNow a) else x.pes
  let t2 := (((t1.showPos a x.pos).setAct a { x with pes := pes, pesPrev := x.pes }).wf (R.ACT_PES a) F.ACT_PES_VALID (b2n valid)).wf
    (R.ACT_PES a) F.ACT_PES_PES (bitsOf 16 pes)
  let t3 := (if valid then t2 else t2.judgeMiss a).judgeSettle a valid
  (((t3.ownCommand a).triggerServo a).samplePermit a).refreshAct a

/-- What the demodulator reads for actuator `a`, in the format of the servo head's surface: of a continuous frame from reader B's samples since
the frame before, of a wedge from reader A's; with the timing reference (R212, R273, R275, R277). -/
def State.servoRead (s : State) (a : Nat) : Option (Demod × Option Int) :=
  match s.servoSurface a, s.servoSlice a with
  | some x, some n =>
    let v := (s.slice n).frame.reverse
    if x.wedge then (s.zone (s.msSurf n) (s.rf (R.LD_MS_STAT n) F.LD_MS_STAT_ZONE)).map fun z => readWedge (wedgeBits z.rate) v
    else some (readTones v)
  | _, _ => none

/-- The slice's samples are taken: the next frame begins. -/
def State.nextFrame (s : State) (a : Nat) : State :=
  match s.servoSlice a with
  | some n => s.setSlice n { s.slice n with frame := [] }
  | none => s

/-- A position sample `d` with its timing reference, if any (R212, R278). -/
def State.takeSample (s : State) (a : Nat) (d : Demod) (timing : Option Int) : State :=
  let q := s.demodulate a d
  let valid := q.1.found && s.servoClock a
  (q.2.setAct a { q.2.act a with timing := if valid then timing else none }).sample a valid q.1

/-- A sample from the demodulator; where nothing streams the servo pair it is invalid. -/
def State.positionSample (s : State) (a : Nat) : State :=
  match s.servoRead a with
  | some q => (s.nextFrame a).takeSample a q.1 q.2
  | none => (s.setAct a { s.act a with timing := none }).sample a false { found := false }

/-! ### Register writes -/

/-- Heads loaded where they can be (R281). -/
def State.loadAct (s : State) (a : Nat) : State :=
  if s.actPresent a && s.actSt a = aParked && s.rf (R.ACT_PA_ENUM a) F.ACT_PA_ENUM_RESULT = enOk && s.ready .millstone
      && s.unitState 2 a ≠ uOut then
    let t := s.actEnter a aLoading
    t.setAct a { t.act a with acq := 0, lastId := none, idOff := false, stall := 0 }
  else s

/-- A write of ACTa_CMD (R282, R294, R297). -/
def State.writeActCmd (s : State) (i : Initiator) (a op : Nat) : State :=
  if op = 1 then
    if actPair i then s.loadAct a else s
  else if op = 2 then if actPair i || isKeystone i then s.unloadAct a ucCommand else s
  else s

/-- A write of ACTa_SEEK (R281, R282): from the current REF and VREF. -/
def State.writeSeek (s : State) (i : Initiator) (a track : Nat) : State :=
  let st := s.actSt a
  let n := ((s.servoSurface a).map Surface.tracks).getD 0
  if s.actChannel i a && (st = aSeek || st = aSettle || st = aFollow) && track < n then
    ((s.actEnter a aSeek).wf (R.ACT_SEEK a) F.ACT_SEEK_TRACK track).refreshPermit a
  else s

/-- A write of ACTa_HSEL[p] (R281, R292); a pair that no claim names may be written too (DESIGN CHOICE: R292 does not list the
write among the uses of a pair, R59). -/
def State.writeHsel (s : State) (i : Initiator) (a p head : Nat) : State :=
  let servo := p = s.servoPair a
  if s.actChannel i a && head < s.heads a && !s.gateOpen a && !(servo && s.actSt a = aSeek) then
    let t := ((s.wf (R.ACT_HSEL a p) F.ACT_HSEL_HEAD head).raise (R.ACT_HSEL a p) F.ACT_HSEL_BUSY).queueFrame a
      { prio := 1, read := false, addr := (s.rf (R.ACT_PA_MAP0 a) F.ACT_PA_MAP0_HSEL_ADDR + p) % 128, data := head, what := p }
    (if servo && (s.actSt a = aSettle || s.actSt a = aFollow) then t.enterSettle a else t).refreshPermit a
  else s

/-- A write of ACTa_DITHER (R285). -/
def State.writeDither (s : State) (i : Initiator) (a : Nat) (v : Word) : State :=
  let en := fget v F.ACT_DITHER_EN = 1
  let timer := fget v F.ACT_DITHER_TIMER
  if actPair i && (!en || s.owner (0x0200 + timer) = 0x30 + a) then (s.writeFields (R.ACT_DITHER a) v).refreshPermit a else s

/-- A write of ACTa_PERMIT. -/
def State.writePermit (s : State) (i : Initiator) (a : Nat) (v : Word) : State :=
  if actPair i then (s.writeFields (R.ACT_PERMIT a) v).refreshPermit a else s

/-- A write of ACTa_CAL (R296). -/
def State.writeCal (s : State) (i : Initiator) (a : Nat) (v : Word) : State :=
  if actPair i then (s.wf (R.ACT_CAL a) F.ACT_CAL_DONE (fget v F.ACT_CAL_DONE)).refreshAct a else s

/-- A write of ACTa_SV_CFG: PAIR only where every surface is a wedge surface, and with a live slice (R273). -/
def State.writeSvCfg (s : State) (i : Initiator) (a : Nat) (v : Word) : State :=
  let pair := fget v F.ACT_SV_CFG_PAIR
  let live := (s.slicesOf a).any fun n => s.rf (R.LD_CFG n) F.LD_CFG_LIVE_PAIR = pair
  if !actPair i then s
  else if s.anyContinuous a then
    s.writeFields (R.ACT_SV_CFG a) (fset v F.ACT_SV_CFG_PAIR (s.rf (R.ACT_SV_CFG a) F.ACT_SV_CFG_PAIR))
  else if !live then s
  else ((s.writeFields (R.ACT_SV_CFG a) v).wf (R.ACT_STATE a) F.ACT_STATE_SPAIR pair).refreshPermit a

/-- A write of ACT0_SHOCK_CFG (R288). -/
def State.writeShockCfg (s : State) (i : Initiator) (v : Word) : State :=
  let en := fget v F.ACT0_SHOCK_CFG_EN = 1
  if actPair i && (!en || s.owner (0x0700 + fget v F.ACT0_SHOCK_CFG_SENSOR) = 0x30) then s.writeFields R.ACT0_SHOCK_CFG v else s

/-- A write of ACTa_PA_XFER (R290): it starts a frame. -/
def State.writeXfer (s : State) (i : Initiator) (a : Nat) (v : Word) : State :=
  let off := R.ACT_PA_XFER a
  let addr := fget v F.ACT_PA_XFER_ADDR
  let hs := s.rf (R.ACT_PA_MAP0 a) F.ACT_PA_MAP0_HSEL_ADDR
  if actPair i && !s.flag off F.ACT_PA_XFER_BUSY && addr ≠ hs && addr ≠ hs + 1 then
    ((s.writeFields off v).raise off F.ACT_PA_XFER_BUSY).queueFrame a
      { prio := 4, read := fget v F.ACT_PA_XFER_RD = 1, addr := addr, data := fget v F.ACT_PA_XFER_DATA }
  else s

end Sys2Proof.Machine
end

