-- ==== Sys2Proof/Machine/MilOps.lean ====
section
/-!
DEFINITION. Sys2Proof/Machine/MilOps.lean: Millstone: duties (R298), speed (R300), its loops in Basalt (R301), its states (R303 to
R315) and the rules of its register writes.
-/

namespace Sys2Proof.Machine

/-! ### States (R303) -/

def miIdle : Nat := 0
def miCatch : Nat := 1
def miBrake : Nat := 2
def miAlign : Nat := 3
def miHfi : Nat := 4
def miRamp : Nat := 5
def miRun : Nat := 6
def miReacq : Nat := 7
def miCoast : Nat := 8
def miStopping : Nat := 9
def miFault : Nat := 10
def miRetract : Nat := 11

/-- The state of Millstone. -/
def State.milSt (s : State) : Nat := s.rf R.MIL_STAT F.MIL_STAT_STATE

/-- Millstone replaced. -/
def State.setMil (s : State) (x : MilState) : State := { s with mil := x }

/-- The motor: ticks in a millisecond, and pole pairs. -/
def State.tickKhz (s : State) : Nat := s.rf R.MIL_CFG F.MIL_CFG_TICK_KHZ
def State.polePairs (s : State) : Nat := s.rf R.MIL_CFG F.MIL_CFG_POLE_PAIRS

/-- The state has lasted for `ms`; what it waits for has held for `ms`. -/
def State.stayed (s : State) (ms : Nat) : Bool := ms * s.tickKhz ≤ s.mil.stay
def State.calmFor (s : State) (ms : Nat) : Bool := ms * s.tickKhz ≤ s.mil.calm

/-- The polarity pulse of the `n`-th tick of ALIGN (R307): two of 1 ms behind ALIGN_MS, with 1 ms of tri-state after each. -/
def State.alignPulse (s : State) (n : Nat) : Option Bool :=
  let ms := n / s.tickKhz
  let m := s.rf R.MIL_RAMP F.MIL_RAMP_ALIGN_MS
  if ms = m then some false else if ms = m + 2 then some true else none

/-- What ALIGN drives at this tick (R307): angle 0 for ALIGN_MS, then the pulses at twice the amplitude: the angle and the amplitude; none
while tri-stated. -/
def State.alignDrive (s : State) : Option (Int × Int) :=
  let amp : Int := s.rf R.MIL_RAMP F.MIL_RAMP_ALIGN_AMP * 128
  if s.mil.retryWait then none
  else if s.mil.stay / s.tickKhz < s.rf R.MIL_RAMP F.MIL_RAMP_ALIGN_MS then some (0, amp)
  else (s.alignPulse s.mil.stay).map fun second => (if second then 32768 else 0, 2 * amp)

/-- Millstone drives the bridge: not on hold-up, not while ALIGN leaves it tri-stated, not in phase 2 or a coasting stop. -/
def State.driving (s : State) : Bool :=
  let st := s.milSt
  !s.onHoldup && ((st = miAlign && s.alignDrive.isSome) || st = miHfi || st = miRamp || st = miRun
    || (st = miStopping && !s.mil.phase2 && !s.mil.coastStop))

/-- The PLL of R310 runs; the speed comes from it but on hold-up, in phase 2 and in a stop that coasts (R314, R328). -/
def State.pllOn (s : State) : Bool :=
  let st := s.milSt
  st = miHfi || st = miRamp || st = miRun || st = miStopping
def State.pllSpeed (s : State) : Bool := s.pllOn && !s.onHoldup && !s.mil.phase2 && !s.mil.coastStop

/-- DRIVE and LOST follow the state; PERMIT sees rotor loss and flying-limit speed (R286). -/
def State.milShow (s : State) : State :=
  let t := (s.wf R.MIL_STAT F.MIL_STAT_DRIVE (b2n s.driving)).wf R.MIL_STAT F.MIL_STAT_LOST (b2n (s.milSt = miReacq))
  t.setMil { t.mil with rotor := s.milSt = miReacq || s.flag R.MIL_STAT F.MIL_STAT_FLY }

/-- State `st` entered: the periods and tests of a state begin afresh, and MILLSTONE clears outside RUN (R311). -/
def State.milEnter (s : State) (st : Nat) : State :=
  let t := (s.wf R.MIL_STAT F.MIL_STAT_STATE st).setMil
    { s.mil with unlock := 0, resBad := 0, moved := 0, resSum := 0, ticks := 0, retryWait := false, regBad := 0, phase2 := false,
                 coastStop := false, brake := false, stay := 0, calm := 0, vec := none, bemf := false, peaks := (0, 0), signs := none,
                 cross := [] }
  let u := if st = miIdle ∨ st = miAlign ∨ st = miFault then t.wf R.MIL_SPEED F.MIL_SPEED_VALID 0 else t
  (if st = miRun then u else u.setMillstone false).milShow

/-! ### The loops in Basalt (R301) -/

/-- Slot `l` enabled or held by Millstone. -/
def State.slotOn (s : State) (l : Nat) : State :=
  if s.loopEn l then s.wf (R.BAS_LCFG l) F.BAS_LCFG_HOLD 0
  else
    let t := (s.raise (R.BAS_LCFG l) F.BAS_LCFG_EN).wf (R.BAS_LCFG l) F.BAS_LCFG_HOLD 0
    t.setLoop l { (t.loop l).clear with runs := 0 }
def State.slotOff (s : State) (l : Nat) : State :=
  let t := (s.wf (R.BAS_LCFG l) F.BAS_LCFG_EN 0).wf (R.BAS_LCFG l) F.BAS_LCFG_HOLD 0
  t.setLoop l { t.loop l with waiting := none, outerDue := false }
def State.milSlots (s : State) (on : Bool) : State := if on then (s.slotOn 8).slotOn 9 else (s.slotOff 8).slotOff 9
def State.slotHold (s : State) (l : Nat) : State :=
  let t := s.raise (R.BAS_LCFG l) F.BAS_LCFG_HOLD
  t.setLoop l { t.loop l with waiting := none, outerDue := false }
def State.milHold (s : State) : State := (s.slotHold 8).slotHold 9

/-- The set-point that Millstone writes to slot 9 at its run (R301, R311). -/
def State.speedRef (s : State) : State :=
  let st := s.milSt
  let put := fun (v : Int) => s.wf (R.BAS_LSP 9) F.BAS_LSP_SP (bitsOf 16 (sat16 v))
  if st = miHfi ∨ st = miRamp ∨ st = miStopping then put s.mil.ramp else if st = miRun then put 16384 else s

/-! ### Speed (R300) -/

/-- Speed in 0.01 rpm from an electrical angle moved in a number of ticks. -/
def State.rpmOf (s : State) (moved : Int) (ticks : Nat) : Int :=
  let d := 65536 * ticks * s.polePairs
  if d = 0 then 0 else roundDiv (moved * (s.tickKhz * 6000000)) d

/-- Basalt source 0x40 for a speed. -/
def State.speedQ (s : State) (rpmC : Int) : Int :=
  if s.targetRpm = 0 then 0 else sat16 (roundDiv (16384 * rpmC) (100 * s.targetRpm))

/-- A measured speed is reported, and passed to Basalt and to Milestone. -/
def State.setSpeed (s : State) (rpmC : Int) : State :=
  let t := s.wr R.MIL_SPEED (word (b2n (rpmC < 0) * 2 ^ 31 + 2 ^ 30 + min rpmC.natAbs 0xFFFFF))
  let u := { t with mil := { t.mil with rpmC := rpmC }, bas := { t.bas with speed := s.speedQ rpmC } }
  (List.range 12).foldl (fun x m => x.setRate m) u

/-- Flying-limit speed declared: PERMIT clears, every actuator unloads (R313). -/
def State.declareFly (s : State) : State :=
  if s.allParked then s
  else
    let t := if s.flag R.MIL_STAT F.MIL_STAT_FLY then s
      else ((s.raise R.MIL_STAT F.MIL_STAT_FLY).raise R.MIL_EVT F.MIL_EVT_FLY)
    (t.milShow.refreshPermits).unloadAll ucSpeed

/-- The speed is below FLY_PCT of target: as measured, or, in REACQ, by the time since the last crossing, or since the loss (R312, R313). -/
def State.flyDue (s : State) : Bool :=
  let lim := s.rf R.MIL_LOSS_CFG F.MIL_LOSS_CFG_FLY_PCT * s.targetRpm
  let last := (s.mil.cross.head?.map Prod.fst).getD 0
  decide (s.mil.rpmC < (lim : Int)) || (s.milSt = miReacq && 1000000 * s.tickKhz < (s.mil.stay - last) * lim * s.polePairs)

/-- The speed judged against FLY_PCT. -/
def State.judgeFly (s : State) : State :=
  if s.flyDue then s.declareFly else (s.wf R.MIL_STAT F.MIL_STAT_FLY 0).milShow

/-! ### Transitions -/

/-- CATCH: the bridge is tri-stated. -/
def State.toCatch (s : State) : State := (s.milSlots false).milEnter miCatch

/-- FAULT. -/
def State.toFault (s : State) (code : Nat) : State :=
  ((s.milSlots false).milEnter miFault).wf R.MIL_STAT F.MIL_STAT_FAULT code

/-- HFI, RAMP or STOPPING with both slots enabled, the ramp reference at `ramp`. -/
def State.toDriven (s : State) (st : Nat) (ramp : Int) : State :=
  let t := (s.milSlots true).milEnter st
  t.setMil { t.mil with ramp := ramp, rampFrac := 0 }

/-- RUN: the period in progress and the loss tests go on from RAMP. -/
def State.toRun (s : State) : State :=
  let t := s.milEnter miRun
  t.setMil { t.mil with ramp := 16384, rampFrac := 0, unlock := s.mil.unlock, resBad := s.mil.resBad, moved := s.mil.moved,
                        resSum := s.mil.resSum, ticks := s.mil.ticks }

/-- COAST. -/
def State.toCoast (s : State) : State := (s.milSlots false).milEnter miCoast

/-- Phase 2 of a stop: slots disabled, brake mode on (R314). -/
def State.stopPhase2 (s : State) : State :=
  let t := s.milSlots false
  (t.setMil { t.mil with phase2 := true, coastStop := false, brake := true, vec := none, moved := 0, ticks := 0, calm := 0 }).milShow

/-- The state is one of CATCH to REACQ. -/
def State.spinning (s : State) : Bool := miCatch ≤ s.milSt && s.milSt ≤ miReacq

/-- A start that is allowed: CATCH from rest, the FAULT field and the retries cleared, enumeration on every actuator (R291). -/
def State.spinStart (s : State) : State :=
  if s.milSt = miIdle ∨ s.milSt = miCoast ∨ s.milSt = miFault then
    let t := (s.wf R.MIL_STAT F.MIL_STAT_FAULT 0).toCatch
    (t.setMil { t.mil with retries := 0 }).enumAll
  else s

/-- STOP. -/
def State.spinStop (s : State) : State := if s.spinning ∨ s.milSt = miStopping then s.toCoast else s

/-- STOP with brake: on hold-up, and from COAST, the spindle coasts to SHORT_PCT first (R303, R328). -/
def State.spinStopBrake (s : State) : State :=
  if s.spinning then
    let ramp := if s.milSt = miRun then 16384 else if s.milSt = miHfi ∨ s.milSt = miRamp then s.mil.ramp else s.speedQ s.mil.rpmC
    let t := s.toDriven miStopping ramp
    (t.setMil { t.mil with coastStop := t.onHoldup }).milShow
  else if s.milSt = miCoast then
    let t := s.toDriven miStopping (s.speedQ s.mil.rpmC)
    (t.setMil { t.mil with coastStop := true }).milShow
  else s

/-- START is a violation here (R304). -/
def State.startBarred (s : State) : Bool :=
  !s.ready .ballast || !s.ready .basalt || s.mode = mDormant || s.mode = mHaven || s.milSt = miRetract
    || s.tickKhz * 60000 < 24 * s.targetRpm * s.polePairs || s.tickKhz * 1000 < 2 * (s.rf R.MIL_HFI F.MIL_HFI_FREQ * 100)

/-- A write of MIL_CMD. In Dormant and Haven the mode logic alone starts and stops the spindle. -/
def State.writeMilCmd (s : State) (i : Initiator) (op : Nat) : State :=
  let stopOk := (isKeystone i || isPair i) && s.mode ≠ mDormant && s.mode ≠ mHaven
  if op = 1 then if isPair i && !s.startBarred then s.spinStart else s
  else if op = 2 then if stopOk then s.spinStop else s
  else if op = 3 then if stopOk then s.spinStopBrake else s
  else s

/-- A loss of the rotor is counted, and kept among those of the last 10 minutes (R312). -/
def State.noteLoss (s : State) : State :=
  let ls := s.now :: s.mil.losses.filter fun t => s.now < t + 60000000000
  ((s.setMil { s.mil with losses := ls }).countUp R.MIL_LOSS_STAT F.MIL_LOSS_STAT_TOTAL 1).raise R.MIL_EVT F.MIL_EVT_LOSS

/-- The speed at the loss, which REACQ starts from (R312). -/
def State.lossSpeed (s : State) (rpmC : Int) : State := s.setMil { s.mil with lossRpm := rpmC }

/-- Rotor loss declared (R312): the third within 10 minutes is fatal. -/
def State.rotorLoss (s : State) : State :=
  ((s.noteLoss.milEnter miReacq).lossSpeed s.mil.rpmC).refreshPermits.milHold.report 19
    (if 3 ≤ s.noteLoss.mil.losses.length then 3 else 2)

/-- A loss as the state has it: in STOPPING it moves to phase 2 at once (R314). -/
def State.rotorLost (s : State) : State :=
  if s.onHoldup then s
  else if s.milSt = miRamp ∨ s.milSt = miRun then s.rotorLoss
  else if s.milSt = miStopping ∧ !s.mil.phase2 then s.stopPhase2
  else s

/-- Losses in the latest 10 minutes (MIL_LOSS_STAT.WIN). -/
def State.lossWin (s : State) : Nat := min 3 (s.mil.losses.filter fun t => s.now < t + 60000000000).length

/-- Ballast takes the bridge; it gives it back (R315, R333). -/
def State.milRetract (s : State) : State := if s.milSt = miRetract then s else (s.milSlots false).milEnter miRetract
def State.milRelease (s : State) : State := if s.milSt = miRetract then s.milEnter miCoast else s

/-! ### One tick (R298, R308 to R311) -/

/-- An entry of the angle table. -/
def State.angleEntry (s : State) (k : Nat) : Int :=
  let k := k % 1024
  s.s16 (R.MIL_TBL (k / 2)) (if k % 2 = 0 then F.MIL_TBL_EVEN else F.MIL_TBL_ODD)

/-- The duty of one phase (R298). -/
def State.dutyOf (s : State) (amp thd : Int) (off : Nat) : Nat :=
  let phi := bitsOf 16 (thd + off)
  let i := phi / 64
  let t := s.angleEntry i + (s.angleEntry (i + 1) - s.angleEntry i) * (phi % 64 : Nat) / 64
  (max 0 (min 65535 (32768 + amp * t / 32768))).toNat

/-- The three phases as a vector: on the axis where U peaks, and a quarter turn before it (R298). -/
def phaseVector (p : Phases) : Int × Int := ((p.w - p.v) * 18919 / 32768, (2 * p.u - p.v - p.w) / 3)

/-- The angle θd of R298. -/
def State.driveAngle (s : State) : Int :=
  match if s.milSt = miAlign then s.alignDrive else none with
  | some q => q.1
  | none => s.mil.theta + 16384 + s.s16 R.MIL_PLL F.MIL_PLL_ADV

/-- A vector projected onto an angle, in the units of its phases. -/
def project (q : Int × Int) (a : Int) : Int :=
  let k := bitsOf 16 a
  (q.1 * unitCos k + q.2 * unitSin k) / 32767

/-- The injected voltage at this tick, in Q15 of full drive, on the estimated d-axis (R308). -/
def State.injection (s : State) : Int :=
  if s.milSt = miHfi then s.rf R.MIL_HFI F.MIL_HFI_AMP * 128 * unitSin s.mil.carrier / 32767 else 0

/-- A phase's duty as the bridge takes it: with the injection, and clamped while its current stands at the limit (R308, R319, R334). -/
def State.bridgeDuty (s : State) (duty off : Nat) (i : Int) : Nat :=
  let d := max 0 (min 65535 ((duty : Int) + s.injection * unitSin (s.mil.theta + off) / 32767))
  let lim : Int := s.bls.phaseLimit * 32767 / 3500
  if lim ≤ i.natAbs then (Config.dutyClamp d.toNat i lim).toNat else d.toNat

/-- The duties sent: none while the bridge is tri-stated; and the duties of the bridge, none while its stage is off or Ballast has it. -/
def State.sendDuty (s : State) (i : Phases) : State :=
  if s.driving then
    let amp := match if s.milSt = miAlign then s.alignDrive else none with
      | some q => q.2
      | none => s.bas.spin
    let offs := [0, 43691, 21845]
    let d := offs.map (s.dutyOf amp s.driveAngle)
    let t := s.setMil { s.mil with amp := amp, duty := d }
    { t with bls := { t.bls with bridge := if t.stageRuns 8 then ((d.zip offs).zip [i.u, i.v, i.w]).map fun q => s.bridgeDuty q.1.1 q.1.2 q.2
                                           else [] } }
  else
    let t := s.setMil { s.mil with duty := [] }
    { t with bls := { t.bls with bridge := [] } }

/-- The angle as MIL_ANGLE shows it. -/
def State.showAngle (s : State) : State := s.wr R.MIL_ANGLE (word (bitsOf 16 s.mil.omega * 2 ^ 16 + s.mil.theta))

/-- The PLL update of R310 with angle error `pe`, and the angle moved so far in the period. -/
def State.pll (s : State) (pe : Int) : State :=
  let w := s.mil.omega + pe / 2 ^ s.rf R.MIL_PLL F.MIL_PLL_KI_SH
  let dth := w + pe / 2 ^ s.rf R.MIL_PLL F.MIL_PLL_KP_SH
  let on := s.pllSpeed
  (s.setMil { s.mil with omega := w, theta := bitsOf 16 (s.mil.theta + dth), ticks := s.mil.ticks + b2n on,
                         moved := s.mil.moved + if on then dth else 0 }).showAngle

/-- The rotor-loss tests run: RAMP, RUN and, toward phase 2, STOPPING; not on hold-up (R312, R314, R328). -/
def State.lossTests (s : State) : Bool := s.pllSpeed && s.milSt ≠ miHfi

/-- Rotor loss is due: three periods with too much residual, or UNLOCK_N ticks with too much angle error (R312). -/
def State.lossDue (s : State) : Bool :=
  s.lossTests && (decide (3 ≤ s.mil.resBad) || decide (s.rf R.MIL_LOSS_CFG F.MIL_LOSS_CFG_UNLOCK_N ≤ s.mil.unlock))

/-- An electrical period ends: its mean speed and, with the observer, its residual (R300, R309, R312). -/
def State.endPeriod (s : State) : State :=
  let x := s.mil
  let bad := s.lossTests && s.rf R.MIL_LOSS_CFG F.MIL_LOSS_CFG_RES_THR * 128 * x.ticks < x.resSum
  let t := s.setSpeed (s.rpmOf x.moved x.ticks)
  t.setMil { t.mil with moved := 0, resSum := 0, ticks := 0, resBad := if bad then x.resBad + 1 else 0 }

/-- The ramp reference rises in HFI and RAMP and falls in STOPPING (R311, R314). -/
def State.rampStep (s : State) : State :=
  let unit := 1000000 * s.tickKhz
  let step := fun (pm : Nat) (up : Bool) =>
    let f := s.mil.rampFrac + pm * 16384
    let n : Int := (f / unit : Nat)
    s.setMil { s.mil with rampFrac := f % unit, ramp := if up then min 16384 (s.mil.ramp + n) else s.mil.ramp - n }
  if s.milSt = miHfi ∨ s.milSt = miRamp then step (s.rf R.MIL_RAMP F.MIL_RAMP_RAMP_PM) true
  else if s.milSt = miStopping then step (s.rf R.MIL_BRK F.MIL_BRK_BRK_PM) false
  else s

/-- One axis of the observer (R309): measured current `i` in Q15 of 3.5 A, commanded voltage `v` in mV; d, ih and eh. -/
def State.observeAxis (s : State) (ih eh i v : Int) : Int × Int × Int :=
  let d := i - ih
  let drop := v - s.rf R.MIL_MOTOR F.MIL_MOTOR_RES_MOHM * i * 7 / 65536 - eh
  (d, ih + drop * 65536 / (7 * (s.tickKhz * s.rf R.MIL_MOTOR F.MIL_MOTOR_L_UH : Nat)) + d / 2 ^ s.rf R.MIL_PLL F.MIL_PLL_G1_SH,
   eh - d / 2 ^ s.rf R.MIL_PLL F.MIL_PLL_G2_SH)

/-- The voltages commanded by the duties from the measured main supply, in mV; none while the bridge is tri-stated. -/
def State.commanded (s : State) : Phases :=
  let v := fun (k : Nat) => ((s.mil.duty[k]?).getD 0 * s.sys.mainMv / 65536 : Nat)
  ⟨v 0, v 1, v 2⟩

/-- One tick of the observer with the measured currents: the angle error and |d|. The formats are the model's: currents in Q15 of 3.5 A,
voltages in mV, d's LSBs taken from eh as they are (DESIGN CHOICE); the angle of a back-EMF of zero is free. -/
def State.observe (s : State) (i : Phases) : (Int × Nat) × State :=
  let x := s.mil
  let q := s.observeAxis x.ih.1 x.eh.1 (phaseVector i).1 (phaseVector s.commanded).1
  let r := s.observeAxis x.ih.2 x.eh.2 (phaseVector i).2 (phaseVector s.commanded).2
  let t := s.setMil { x with ih := (q.2.1, r.2.1), eh := (q.2.2, r.2.2) }
  let a : Nat × State := if (q.2.2, r.2.2) = ((0, 0) : Int × Int) then t.free 16 else (angleOf q.2.2 r.2.2, t)
  ((signedOf 16 (bitsOf 16 ((a.1 : Int) - (x.theta + 16384))), lengthOf q.1 r.1), a.2)

/-- The injection demodulated: the current on the q-axis against the carrier (R308). -/
def State.hfiCurrent (s : State) (i : Phases) : Int := project (phaseVector i) (s.mil.theta + 16384) * unitSin s.mil.carrier / 32767

/-- One tick with the PLL (R308 to R310, R312): the injection's angle error in HFI, the observer's behind it. -/
def State.pllTick (s : State) (i : Phases) : State :=
  let hfi : Bool := s.milSt = miHfi
  let q := if hfi then (((Config.hfiError (s.hfiCurrent i)).toInt, 0), s) else s.observe i
  let t := (q.2.pll q.1.1).rampStep
  let deg := s.rf R.MIL_LOSS_CFG F.MIL_LOSS_CFG_UNLOCK_DEG
  let un := if s.lossTests && deg * 65536 < q.1.1.natAbs * 360 then t.mil.unlock + 1 else 0
  let step := s.rf R.MIL_HFI F.MIL_HFI_FREQ * 65536 / (10 * s.tickKhz)
  let u := t.setMil { t.mil with unlock := un, resSum := t.mil.resSum + (if s.pllSpeed then q.1.2 else 0),
                                 carrier := if hfi then (t.mil.carrier + step) % 65536 else 0 }
  if u.pllSpeed && 65536 ≤ u.mil.moved.natAbs then u.endPeriod else u

/-! ### Speed without the PLL (R305, R306, R312, R314, R315, R328) -/

/-- The speed is taken from the phase currents: with the bridge shorted (R306, R314). -/
def State.shorted (s : State) : Bool := s.milSt = miBrake || (s.milSt = miStopping && s.mil.phase2)

/-- Speed is measured without the PLL in this state. -/
def State.measured (s : State) : Bool :=
  let st := s.milSt
  st ≠ miIdle && st ≠ miAlign && st ≠ miFault && !s.pllSpeed

/-- The back-EMF vector of the tri-stated phases reaches BEMF_MIN, in 1/1,024 of the main supply. -/
def State.bemfUsable (s : State) (v : Phases) : Bool :=
  s.rf R.MIL_CATCH_CFG F.MIL_CATCH_CFG_BEMF_MIN * s.sys.mainMv ≤ 1024 * lengthOf (phaseVector v).1 (phaseVector v).2

/-- The catch window has ended: two electrical revolutions, or CATCH_MS (R305). -/
def State.catchOver (s : State) : Bool :=
  decide (131072 ≤ s.mil.moved.natAbs) || s.stayed (s.rf R.MIL_CATCH_CFG F.MIL_CATCH_CFG_CATCH_MS)

/-- A tick of the vector's angle: unwrapped from tick to tick. The speed is the mean over an electrical period, in CATCH over the window; a
vector too small to use gives 0 (R305, R306; DESIGN CHOICE in the states for which the spec gives no least vector). -/
def State.vecTick (s : State) (v i : Phases) : State :=
  let cur := s.shorted
  let q := if cur then (phaseVector i) else (phaseVector v)
  let usable : Bool := if cur then decide (512 ≤ lengthOf q.1 q.2) else s.bemfUsable v
  let catching : Bool := s.milSt = miCatch
  if catching && s.catchOver then s
  else if !usable && !catching then
    let t := s.setMil { s.mil with vec := none, moved := 0, ticks := 0 }
    t.setSpeed 0
  else
    let a := angleOf q.1 q.2
    let step : Int := match s.mil.vec with
      | some old => signedOf 16 (bitsOf 16 ((a : Int) - old))
      | none => 0
    let t := s.setMil { s.mil with vec := some a, moved := s.mil.moved + step, ticks := s.mil.ticks + 1, bemf := s.mil.bemf || usable }
    if !catching && 65536 ≤ t.mil.moved.natAbs then t.endPeriod else t

/-- The known angle of a back-EMF sign change: phases peak in the order U, V, W, and the back-EMF leads θ by 16,384 (R298). -/
def crossAngle (phase : Nat) (rising : Bool) : Nat :=
  match phase, rising with
  | 0, true => 49152
  | 0, false => 16384
  | 1, true => 5461
  | 1, false => 38229
  | _, true => 27307
  | _, false => 60075

/-- Its place in the forward order. -/
def crossPlace (phase : Nat) (rising : Bool) : Nat := crossAngle phase rising / 10923

/-- The sign changes of the three phases' back-EMF at this tick (R312). -/
def State.crossTick (s : State) (v : Phases) : State :=
  let sum := v.u + v.v + v.w
  let now := [v.u, v.v, v.w].map fun x => decide (sum ≤ 3 * x)
  let new := match s.mil.signs with
    | none => []
    | some old => (List.range 3).filterMap fun p => if old[p]? = now[p]? then none else some (s.mil.stay, p, (now[p]?).getD false)
  s.setMil { s.mil with signs := some now, cross := (new.reverse ++ s.mil.cross).take 3 }

/-- The three latest crossings, newest first, each `step` places behind the one before. -/
def State.crossRun (s : State) (step : Nat) : Bool :=
  match s.mil.cross with
  | [a, b, c] => (crossPlace b.2.1 b.2.2 + step) % 6 = crossPlace a.2.1 a.2.2 && (crossPlace c.2.1 c.2.2 + step) % 6 = crossPlace b.2.1 b.2.2
  | _ => false

/-- Re-acquired: three crossings forward with intervals that agree within 25 %, of the longer (DESIGN CHOICE). -/
def State.reacquired (s : State) : Bool :=
  s.crossRun 1 && match s.mil.cross with
  | [a, b, c] => 4 * ((a.1 - b.1) - (b.1 - c.1)) ≤ a.1 - b.1 && 4 * ((b.1 - c.1) - (a.1 - b.1)) ≤ b.1 - c.1 && c.1 < a.1
  | _ => false

/-- Re-acquisition has failed: three crossings backward, or two electrical revolutions at the speed of the loss have passed. -/
def State.reacqLost (s : State) : Bool :=
  s.crossRun 5 || decide (12000000 * s.tickKhz ≤ s.mil.stay * s.mil.lossRpm.natAbs * s.polePairs)

/-! ### One tick -/

/-- Transitions that a tick's speed and reference make (R303, R314). -/
def State.milNext (s : State) : State :=
  let st := s.milSt
  let mag := s.mil.rpmC.natAbs
  if st = miBrake ∧ mag < s.targetRpm then s.milEnter miAlign
  else if st = miHfi ∧ (10 * s.targetRpm : Nat) ≤ s.mil.rpmC then s.toDriven miRamp s.mil.ramp
  else if st = miRamp ∧ 16384 ≤ s.mil.ramp then s.toRun
  else if st = miStopping ∧ !s.mil.phase2 ∧ mag < s.rf R.MIL_BRK F.MIL_BRK_SHORT_PCT * s.targetRpm then s.stopPhase2
  else s

/-- What the state waits for holds at this tick: a locked rotor, slot 8's output at a limit below 1 % of target; the speed within TOL_PPM; below
1 % of target; no usable back-EMF (R303, R308, R311, R314). -/
def State.calmNow (s : State) (v : Phases) : Bool :=
  let st := s.milSt
  let out := s.rf (R.BAS_LOUT 8) F.BAS_LOUT_OUT
  let slow : Bool := s.mil.rpmC.natAbs < s.targetRpm
  let target : Int := 100 * s.targetRpm
  if st = miHfi then slow && (out = s.rf (R.BAS_LLIM 8) F.BAS_LLIM_HI || out = s.rf (R.BAS_LLIM 8) F.BAS_LLIM_LO)
  else if st = miRun then decide (1000000 * (s.mil.rpmC - target).natAbs ≤ s.rf R.MIL_REG F.MIL_REG_TOL_PPM * target.toNat)
  else if st = miStopping then slow
  else if st = miCoast then !s.bemfUsable v
  else false

/-- The peak of a polarity pulse, from the current it drew (R307). -/
def State.peakTick (s : State) (i : Phases) : State :=
  let n := lengthOf (phaseVector i).1 (phaseVector i).2
  match if s.milSt = miAlign ∧ !s.mil.retryWait ∧ 1 ≤ s.mil.stay then s.alignPulse (s.mil.stay - 1) else none with
  | some false => s.setMil { s.mil with peaks := (max s.mil.peaks.1 n, s.mil.peaks.2) }
  | some true => s.setMil { s.mil with peaks := (s.mil.peaks.1, max s.mil.peaks.2 n) }
  | none => s

/-- The retract bus draws from the bank while the spindle turns slower than 1,000 rpm, else from the bridge (R333). -/
def State.retractSupply (s : State) : State :=
  let bank := decide (s.mil.rpmC.natAbs < 100000)
  if s.bls.retBus = some bank then s else { s with bls := { s.bls with retBus := some bank } }.emit (.retractBus bank)

/-- One tick of Millstone with the phase voltages in mV and the phase currents in Q15 of 3.5 A, then slot 8's trigger (R265, R300, R301). A
bridge that a trip has turned off comes on again with the period (R320). -/
def State.milTick (s : State) (v i : Phases) : State :=
  let s0 := { s with bas := { s.bas with current := sat16 (project (phaseVector i) s.driveAngle) },
                     bls := { s.bls with off := s.bls.off.filter fun q => q.1 ≠ 8 } }
  let s1 := if s0.pllOn then s0.pllTick i else s0
  let s2 := if s1.measured then s1.vecTick v i else s1
  let s3 := (if s2.milSt = miReacq then s2.crossTick v else s2).peakTick i
  let s4 := (if s3.lossDue then s3.rotorLost else s3).milNext.judgeFly.sendDuty i
  let s5 := s4.setMil { s4.mil with stay := s4.mil.stay + 1, calm := if s4.calmNow v then s4.mil.calm + 1 else 0 }
  ((if s5.retracting then s5.retractSupply else s5).milShow).triggerAll 2

/-! ### Register writes -/

/-- A write of MIL_CFG and of the angle table: in IDLE and FAULT (R299). -/
def State.writeMilTable (s : State) (i : Initiator) (off : Nat) (v : Word) : State :=
  if isPair i && (s.milSt = miIdle || s.milSt = miFault) then s.writeFields off v else s

/-- A write of MIL_HFI: the timer must be Millstone's (R308). -/
def State.writeMilHfi (s : State) (i : Initiator) (v : Word) : State :=
  if isPair i && s.owner (0x0200 + fget v F.MIL_HFI_TIMER) = 0x41 then s.writeFields R.MIL_HFI v else s

end Sys2Proof.Machine
end

