-- ==== Sys2Proof/Machine/BlsOps.lean ====
section
/-!
DEFINITION. Sys2Proof/Machine/BlsOps.lean: commit of a write (R134, R136, R142, R165), and Ballast: stages (R320), velocity (R321), the
bank (R323, R324), the vault allowance (R325), the vault flush (R329), retract (R332, R333) and its register writes.
-/

namespace Sys2Proof.Machine

/-! ### Commit (R134, R136) -/

/-- What a commit does to the context: COMMITTED; a write acknowledged at staging is done, any other waits for its
completion in COMMIT. -/
def State.commitDone (s : State) (k : Nat) : State :=
  let c := s.ctx k
  if c.has fAcked then
    let t := s.setCtx k (c.set fCommitted)
    ({ t with cmd := { t.cmd with acked := t.cmd.acked - c.granCnt } }).freeCtxAt k
  else (s.setCtx k { c.set fCommitted with state := cCommit }).queueCtx 0 k

/-- The commit of the write in context `k` at its placement; in the vault flush its extent is done (R329). -/
def State.commitCtx (s : State) (k : Nat) : State :=
  let t := (s.commitRuns k).commitDone k
  { t with bls := { t.bls with flush := t.bls.flush.filter fun q => q.1 ≠ k } }

/-- The same; a run that the write pointer has passed is placed again instead (R146, R156). -/
def State.commitRun (s : State) (k : Nat) : State := if s.behind k then s.rePlace k else s.commitCtx k

/-! ### The vault flush (R329) -/

/-- Ballast replaced. -/
def State.setBls (s : State) (x : BlsState) : State := { s with bls := x }

/-- Contexts with acknowledged staged data, by index. -/
def State.ackedCtxs (s : State) : List (Nat × Ctx) := s.cmd.ctxs.filter fun q => q.2.state = cStaged && q.2.has fAcked

/-- Insertion by ADMIT. -/
def insertAdmit (q : Nat × Ctx) : List (Nat × Ctx) → List (Nat × Ctx)
  | [] => [q]
  | r :: rest => if q.2.admitAt ≤ r.2.admitAt then q :: r :: rest else r :: insertAdmit q rest

/-- In ADMIT order. -/
def byAdmit : List (Nat × Ctx) → List (Nat × Ctx)
  | [] => []
  | q :: rest => insertAdmit q (byAdmit rest)

/-- Actuators whose ACT bit reads 1. -/
def State.readyActs (s : State) : List Nat := ((List.finRange 4).filter fun a => s.ready (.act a)).map Fin.val

/-- Granules assigned to actuator `a` in a list of (context, actuator, granules). -/
def assigned (l : List (Nat × Nat × Nat)) (a : Nat) : Nat := (l.filter fun q => q.2.1 = a).foldl (fun n q => n + q.2.2) 0

/-- The ready actuator with the least data assigned. -/
def leastActs (l : List (Nat × Nat × Nat)) : List Nat → Option Nat
  | [] => none
  | a :: rest => match leastActs l rest with
    | none => some a
    | some b => if assigned l b < assigned l a then some b else some a

/-- The actuator of each extent. -/
def assignFlush (acts : List Nat) : List (Nat × Ctx) → List (Nat × Nat × Nat) → List (Nat × Nat × Nat)
  | [], l => l
  | q :: rest, l =>
    let a := placeAct q.2.place
    let b := if acts.contains a then some a else leastActs l acts
    assignFlush acts rest (match b with
      | some x => l ++ [(q.1, x, q.2.granCnt)]
      | none => l)

/-- A written LANDING band becomes FULL, a group of class 0 of its own (R147, R159). -/
def State.fillLanding (s : State) (a : Nat) : State :=
  match s.landingOf a with
  | none => s
  | some b =>
    if (s.band b).wp = 0 then s
    else
      let g := s.way.nextGroup
      let t := s.setBand b { s.band b with st := .full, group := g, member := 0 }
      let u := t.setGroup g { cls := 0, redund := 0, rows := (s.band b).wp, members := [some b], st := .full, landing := 1 }
      { u with way := { u.way with nextGroup := g + 1 } }

/-- Extents that wait for a place in their LANDING band take one, in ADMIT order, as far as their sequencer's queue goes. -/
def State.flushFill (s : State) : State := if s.bls.flushing then s.bls.flush.foldl (fun t q => t.placeWrite q.1) s else s

/-- Places given up, the last first, and the items with them. -/
def State.unplaceAll (s : State) (ks : List Nat) : State :=
  ks.reverse.foldl (fun t k => if (t.work k).placed then (t.unplace k).pullRun (placeAct (t.ctx k).place) k else t) s

/-- The flush begins: extents and their actuators, in ADMIT order; each leaves the place it had for one in a LANDING band, and STR(8 + a)
is to write it (R329). -/
def State.startFlush (s : State) : State :=
  let q := byAdmit s.ackedCtxs
  let l := assignFlush s.readyActs q []
  let t := s.unplaceAll (q.map Prod.fst)
  (t.setBls { t.bls with flushing := true, flush := l.map fun x => (x.1, x.2.1) }).flushFill

/-- Acknowledged staged data stays in Bedrock (R82). -/
def State.holdData (s : State) : State :=
  let t := s.wf R.SYS_HAVEN_STATUS F.SYS_HAVEN_STATUS_HELD 1
  { t with sys := { t.sys with heldData := true } }

/-- The flush closes: what has not committed gives up its place, gates that it opened drop, and every written LANDING band becomes FULL. -/
def State.closeFlush (s : State) : State :=
  let t := s.unplaceAll (s.bls.flush.map Prod.fst)
  let u := t.setBls { t.bls with flushing := false, flush := [] }
  let v := (List.range 4).foldl (fun x a => (x.gateCheck a).fillLanding a) u
  v.ensureLanding.capWatch s

/-- An extent cannot be flushed: its LANDING band has no room for it, or its sequencer stands at one whose key slot is not LOADED (R422). -/
def State.flushStuck (s : State) (q : Nat × Nat) : Bool :=
  match s.wqHead (8 + q.2) with
  | none => !(s.work q.1).placed
  | some (_, k) => s.keyMissing (8 + q.2) (s.ctx k).keySlot

/-- The flush has come to its end: nothing is left that can still commit. -/
def State.flushOver (s : State) : Bool := s.bls.flushing && s.bls.flush.all s.flushStuck

/-- The flush ends. With every extent committed, DONE is programmed and FLUSHED sets; what found no room or no key is held (DEDUCED from
R82). -/
def State.endFlush (s : State) : State :=
  let x := s.closeFlush
  if x.ackedCtxs ≠ [] then x.holdData
  else
    let w := (x.setBls { x.bls with done := true }).wf R.SYS_HAVEN_STATUS F.SYS_HAVEN_STATUS_FLUSHED 1
    { w with sys := { w.sys with deferFlushed := w.sys.pendingReset.isSome } }

/-- The flush is abandoned: what has committed stays, the rest is held, and VAULT is reported (R441). -/
def State.abandonFlush (s : State) : State :=
  if s.bls.flushing then s.closeFlush.holdData.report 47 2 else s

/-! ### Retract (R332, R333) -/

/-- Conditions of R332 that the state shows. -/
def State.bankMv (s : State) : Nat := s.rf R.BLS_BANK_V F.BLS_BANK_V_MV
def State.bankOk (s : State) : Bool := s.flag R.BLS_STAT F.BLS_STAT_BANK_OK
def State.vretMv (s : State) : Nat := 100 * s.rf R.BLS_PF_CFG F.BLS_PF_CFG_VRET
def State.retractDue (s : State) : Bool :=
  (s.onHoldup && (s.bankMv ≤ s.vretMv && !s.allParked || !s.bankOk)) || !s.flag R.BLS_STAT F.BLS_STAT_LINK
    || s.rf R.BLS_TEMP F.BLS_TEMP_LEVEL = 3 || !s.flag R.BLS_STAT F.BLS_STAT_RAILS_OK

/-- Ballast drives the VCM of `a` outward: RET_I for RET_MS, then a quarter of it for 50 ms; the milli-actuator stands at 0 V (R333). Inward
motion is positive (R321). -/
def State.retractDrive (s : State) (a : Nat) : State :=
  let i := s.s16 R.BLS_RET_CFG F.BLS_RET_CFG_RET_I
  ((s.emit (.drive a 1 0)).emit (.retract a (-i) (s.rf R.BLS_RET_CFG F.BLS_RET_CFG_RET_MS))).emit (.retract a (-(i / 4)) 50)

/-- Emergency retract begins; a trigger during it has no further effect. -/
def State.beginRetract (s : State) : State :=
  if s.retracting then s
  else
    let t := ((s.abandonFlush).raise R.BLS_STAT F.BLS_STAT_RETRACT).retractSupply
    ((List.range 4).foldl (fun u a =>
      if u.actPresent a then (if u.actSt a = aParked then u else u.retractDrive a).retract a else u) t).milRetract

/-- Emergency retract ends; with the link down the report stays in Ballast. -/
def State.endRetract (s : State) : State :=
  if !s.retracting then s
  else
    let r := (s.wf R.BLS_STAT F.BLS_STAT_RETRACT 0).raise R.BLS_EVT F.BLS_EVT_RET_DONE
    let t := r.setBls { r.bls with retBus := none }
    let u := if t.rf R.BLS_TEMP F.BLS_TEMP_LEVEL = 3 then t.setBls { t.bls with stagesOff := true, bridge := [] } else t
    if u.flag R.BLS_STAT F.BLS_STAT_LINK then ((List.range 4).foldl (fun v a => v.retractDone a) u).milRelease else u

/-- BALLAST sets once the link is up, the image is applied and the stages have passed their self-test; the first time after a device
reset both vault cells are erased (R331), the preamplifier supplies of present actuators come up (R317), and enumeration runs (R291). -/
def State.ballastCheck (s : State) : State :=
  match s.kenul with
  | some k =>
    if s.bls.selfTest && s.flag R.BLS_STAT F.BLS_STAT_LINK then
      let t := (s.setReady .ballast true).setBls { s.bls with armed := s.bls.armed && s.bls.erased, done := s.bls.done && s.bls.erased,
                                                              erased := true, paRails := k.present }
      if s.ready .ballast then t else t.enumAll
    else s
  | none => s

/-! ### Stages (R320) -/

/-- The trip current of stage `g` (0 to 3 VCM, 4 to 7 milli-actuator, 8 spindle) in mA (R319). -/
def tripMa (g : Nat) : Nat := if g < 4 then 2300 else if g < 8 then 15 else 4500

/-- Stage `g` turns off. -/
def State.stageDrop (s : State) (g : Nat) : State :=
  if g < 8 then s.emit (.drive (g % 4) (g / 4) 0) else s.setBls { s.bls with bridge := [] }

/-- A trip: the stage turns off, the spindle's for the rest of the PWM period and any other for 10 µs; it is counted, and the sixteenth
within 1 ms latches the stage off. Emergency retract goes on through it. -/
def State.stageTrip (s : State) (g : Nat) : State :=
  if !s.stageRuns g then s
  else
    let ts := s.now :: (spGetD [] s.bls.trips g).filter fun t => s.now < t + 100000
    let until_ := s.now + if g < 8 then 1000 else 100000
    let t := (s.setBls { s.bls with trips := spSet [] s.bls.trips g ts,
                                    off := (g, until_) :: s.bls.off.filter fun q => q.1 ≠ g }).countUp R.BLS_OCP F.BLS_OCP_TRIPS 1
    let u := t.stageDrop g
    if 16 ≤ ts.length then (u.wf R.BLS_OCP ⟨g, g⟩ 1).report 15 2 else u

/-- A write of BLS_OCP: a latched stage turns on again. -/
def State.writeOcp (s : State) (i : Initiator) (v : Word) : State :=
  if !isPair i then s
  else
    let t := s.writeFields R.BLS_OCP v
    t.setBls { t.bls with trips := t.bls.trips.filter fun q => !bitAt v.toNat q.1 }

/-! ### Velocity (R321) -/

/-- v of R293 from the samples of one delivery, rounded down. -/
def State.velocity (s : State) (a : Nat) (mv ma : List Int) : Int :=
  let r : Int := s.rf (R.BLS_VCM_CAL a) F.BLS_VCM_CAL_R_MOHM
  let sum := (mv.map fun x => 1000 * x).foldl (· + ·) 0 - (ma.map fun x => r * x).foldl (· + ·) 0
  let v := sum * 32768 / 8000000
  sat16 (if s.flag (R.BLS_VCM_CAL a) F.BLS_VCM_CAL_POL then -v else v)

/-! ### The bank (R323, R324) and the allowance (R325) -/

/-- The charger as its conditions have it: the internal bus stands on the main input, no hold-up, no measurement, no time-out, and no Haven
still to settle behind a hold-up; at ICHG to VCHG (R323, R330). -/
def State.charger (s : State) : State :=
  let on := s.bls.mainUp && !s.onHoldup && !s.flag R.BLS_MEAS_CTL F.BLS_MEAS_CTL_BUSY && !s.bls.chargeFail && !s.bls.chargeWait
  if on = s.bls.charging then s
  else
    (s.setBls { s.bls with charging := on, chargeAt := if on then s.now else s.bls.chargeAt }).emit
      (if on then .charger (s.rf R.BLS_BANK_CFG F.BLS_BANK_CFG_ICHG) (100 * s.rf R.BLS_BANK_CFG F.BLS_BANK_CFG_VCHG) else .charger 0 0)

/-- A measurement begins. -/
def State.measureStart (s : State) : State :=
  if s.onHoldup || s.flag R.BLS_MEAS_CTL F.BLS_MEAS_CTL_BUSY then s
  else ((s.raise R.BLS_MEAS_CTL F.BLS_MEAS_CTL_BUSY).setBls { s.bls with chargeFail := false, measAt := s.now }).charger

/-- A measurement falls due: the bank reaches VCHG for the first time since device reset, or MEAS_H hours have passed (R324). -/
def State.measureDue (s : State) : Bool :=
  if s.bls.measured then decide (s.bls.measAt + s.rf R.BLS_MEAS_CTL F.BLS_MEAS_CTL_MEAS_H * 360000000000 ≤ s.now)
  else 100 * s.rf R.BLS_BANK_CFG F.BLS_BANK_CFG_VCHG ≤ s.bankMv

/-- A measurement ends: C, ESR, BANK_OK. The capacitance of a bank that has not fallen is free. -/
def State.measureEnd (s : State) (stepMv fallMv us : Nat) : State :=
  if !s.flag R.BLS_MEAS_CTL F.BLS_MEAS_CTL_BUSY then s
  else
    let q := if fallMv = 0 then s.free 16 else (min (50 * us / fallMv) 0xFFFF, s)
    let esr := min (20 * stepMv) 0xFFFF
    let t := ((q.2.wr R.BLS_BANK_MEAS (word (esr * 2 ^ 16 + q.1))).wf R.BLS_MEAS_CTL F.BLS_MEAS_CTL_BUSY 0).wf R.BLS_MEAS_CTL
      F.BLS_MEAS_CTL_GO 0
    let u := (t.raise R.BLS_EVT F.BLS_EVT_MEAS_DONE).setBls { t.bls with measured := true }
    let good := 10 * u.rf R.BLS_MEAS_CTL F.BLS_MEAS_CTL_CMIN_UF ≤ q.1 && esr ≤ u.rf R.BLS_MEAS_CTL F.BLS_MEAS_CTL_ESR_MAX
    let v := u.wf R.BLS_STAT F.BLS_STAT_BANK_OK (b2n good)
    (if good then v else v.report 16 2).charger

/-- The charger gives up: 2 s of charging without 5 V (R323). -/
def State.chargeTimeout (s : State) : State :=
  if s.bls.charging && s.bankMv < 5000 && decide (s.bls.chargeAt + 200000000 ≤ s.now) then
    (((s.setBls { s.bls with chargeFail := true }).charger).wf R.BLS_STAT F.BLS_STAT_BANK_OK 0).report 16 2
  else s

/-- Free sectors of the LANDING bands of ready actuators. -/
def State.landFree (s : State) : Nat :=
  (s.readyActs.map fun a => match s.landingOf a with
    | some b => s.dataRoom b (s.band b).wp (s.bandSize b)
    | none => 0).foldl (· + ·) 0

/-- E of R325 in mJ, and ALLOW in MiB, at a bank voltage. -/
def State.bankEnergy (s : State) (mv : Nat) : Nat :=
  let vmin := 100 * s.rf R.BLS_BANK_CFG F.BLS_BANK_CFG_VMIN
  if mv ≤ vmin then 0 else s.rf R.BLS_BANK_MEAS F.BLS_BANK_MEAS_C_UF * (mv * mv - vmin * vmin) / 2000000000
def State.allowMib (s : State) (mv : Nat) : Nat :=
  if !s.bankOk || !s.bls.measured || !s.ready .ballast || !s.ready .millstone || s.readyActs.isEmpty || s.onHoldup then 0
  else
    let eu := s.bankEnergy mv * (16 - s.rf R.BLS_VAULT_CFG F.BLS_VAULT_CFG_MARGIN) / 16
    let a := (eu - s.rf R.BLS_VAULT_CFG F.BLS_VAULT_CFG_E_BASE) / s.rf R.BLS_VAULT_CFG F.BLS_VAULT_CFG_E_MIB
    min (min a (s.rf R.BLS_VAULT_CFG F.BLS_VAULT_CFG_VAULT_MAX)) (s.landFree * 4096 / 1048576)

/-- The allowance computed and delivered to Waymark (R325, R326). -/
def State.vaultUpdate (s : State) (mv : Nat) : State :=
  let t := s.wr R.BLS_BANK_V (word (min mv 0xFFFF))
  let a := t.allowMib mv
  let u := t.wr R.BLS_VAULT (word (min (t.bankEnergy mv) 0xFFFF * 2 ^ 16 + a))
  { u with cmd := { u.cmd with vaultBytes := a * 1048576 } }

/-! ### Temperature (R334) -/

/-- The level at a temperature, each level holding until 10 degrees below its threshold. -/
def tempLevel (old : Nat) (deg16 : Int) : Nat :=
  if 2400 ≤ deg16 ∨ (3 ≤ old ∧ 2240 < deg16) then 3
  else if 2240 ≤ deg16 ∨ (2 ≤ old ∧ 2080 < deg16) then 2
  else if 2000 ≤ deg16 ∨ (1 ≤ old ∧ 1840 < deg16) then 1
  else 0

/-- The level followed: its events, the phase limit, the reports. -/
def State.setTemp (s : State) (deg16 : Int) : State :=
  let old := s.rf R.BLS_TEMP F.BLS_TEMP_LEVEL
  let n := tempLevel old deg16
  let t := s.wr R.BLS_TEMP (word (n * 2 ^ 16 + bitsOf 16 deg16))
  let t1 := if old = 0 ∧ 1 ≤ n then t.raise R.BLS_EVT F.BLS_EVT_TEMP_WARN else t
  let t2 := t1.setBls { t1.bls with phaseLimit := if 2 ≤ n then 2000 else 3500, stagesOff := t1.bls.stagesOff && n = 3 }
  let t3 := if old < 2 ∧ 2 ≤ n then t2.report 17 2 else t2
  if old < 3 ∧ n = 3 then (t3.beginRetract).report 17 3 else t3

/-! ### Register writes -/

/-- A write of BLS_BANK_CFG: VRET stays at or below VMIN. -/
def State.writeBankCfg (s : State) (i : Initiator) (v : Word) : State :=
  if !isPair i then s
  else
    let u := s.writeFields R.BLS_BANK_CFG v
    let t := if u.bls.charging then u.emit (.charger (u.rf R.BLS_BANK_CFG F.BLS_BANK_CFG_ICHG) (100 * u.rf R.BLS_BANK_CFG F.BLS_BANK_CFG_VCHG))
      else u
    t.wf R.BLS_PF_CFG F.BLS_PF_CFG_VRET (min (t.rf R.BLS_PF_CFG F.BLS_PF_CFG_VRET) (t.rf R.BLS_BANK_CFG F.BLS_BANK_CFG_VMIN))

/-- A write of BLS_PF_CFG. -/
def State.writePfCfg (s : State) (i : Initiator) (v : Word) : State :=
  if !isPair i then s
  else
    let t := s.writeFields R.BLS_PF_CFG v
    t.wf R.BLS_PF_CFG F.BLS_PF_CFG_VRET (clampNat 90 (t.rf R.BLS_BANK_CFG F.BLS_BANK_CFG_VMIN) (fget v F.BLS_PF_CFG_VRET))

/-- A write of BLS_MEAS_CTL (R324). -/
def State.writeMeasCtl (s : State) (i : Initiator) (v : Word) : State :=
  if !isPair i then s
  else
    let t := s.writeFields R.BLS_MEAS_CTL (fset v F.BLS_MEAS_CTL_GO 0)
    if fget v F.BLS_MEAS_CTL_GO = 1 ∧ !t.onHoldup then (t.raise R.BLS_MEAS_CTL F.BLS_MEAS_CTL_GO).measureStart else t

end Sys2Proof.Machine
end

