-- ==== Sys2Proof/Machine/SliceOps.lean ====
section
/-!
DEFINITION. Sys2Proof/Machine/SliceOps.lean: one slice clock: the front end and its loops (R183), the ring writer (R188, R248), the
line buffer (R189), the equalizer and the detector's adaptation (R190, R192), LLRs (R193, R194); the place on the track (R205), defect
windows (R222), the Touchstone format (R220), replay (R251, R252), head and zone selection (R187, R195) and the clearance result (R196).
-/

namespace Sys2Proof.Machine

/-- An initiator may write registers of slice `n` (R24, R181). -/
def State.ldOpen (s : State) (i : Initiator) (n : Nat) : Bool := s.reaches i true (R.LD_CFG n) && s.ldAssigned n

/-- The last `k` values of a list. -/
def lastN (k : Nat) (l : List Int) : List Int := l.drop (l.length - k)

/-! ### The TA detector (R184, R186) -/

/-- A TA event begins: counted once for the slice, and frozen (R184, R186). -/
def State.taStart (s : State) (n : Nat) : State :=
  if s.flag (R.LD_TA_STAT n) F.LD_TA_STAT_ACTIVE then s
  else
    (((s.raise (R.LD_EVT n) F.LD_EVT_TA).countUp (R.LD_TA_STAT n) F.LD_TA_STAT_COUNT 1).raise (R.LD_TA_STAT n)
      F.LD_TA_STAT_ACTIVE).setFrz n fzTa true

/-- The TA event of the slice ends. -/
def State.taEnd (s : State) (n : Nat) : State := (s.wf (R.LD_TA_STAT n) F.LD_TA_STAT_ACTIVE 0).setFrz n fzTa false

/-- One clock of a reader's detector, with the sum of its eight u in 1/16 LSB: the baseline closes 1/64 of its distance to the
clock's mean; two clocks above THR begin an event, LEN clocks below THR ÷ 2 end it. -/
def TaReader.clock (x : TaReader) (thr len : Nat) (u : Int) : TaReader :=
  let b := x.base + (u * 2 ^ 13 - x.base) / 64
  let hi := if thr * 2 ^ 20 < b.natAbs then x.hi + 1 else 0
  let lo := if 2 * b.natAbs < thr * 2 ^ 20 then x.lo + 1 else 0
  { base := b, hi := min hi 2, lo := min lo len, on := if x.on then decide (lo < len) else decide (2 ≤ hi) }

/-- One clock of the detector: an event on either reader is the slice's, which ends when neither has one. -/
def State.taClock (s : State) (n : Nat) (ua ub : Int) : State :=
  let thr := s.rf (R.LD_TA_CTL n) F.LD_TA_CTL_THR
  let len := s.rf (R.LD_TA_CTL n) F.LD_TA_CTL_LEN
  let old := (s.slice n).ta
  let new := (old.zip [ua, ub]).map fun q => q.1.clock thr len q.2
  let t := s.setSlice n { s.slice n with ta := new }
  let was := old.any TaReader.on
  let is := new.any TaReader.on
  if is && !was then t.taStart n else if was && !is then t.taEnd n else t

/-- u of a clock's codes, summed, in 1/16 LSB. -/
def sumU (ofs : Int) (c : List Int) : Int := sumI (c.map fun x => 16 * x - ofs)

/-! ### The front end (R183) -/

/-- Eight codes in the range of the ADC. -/
def eightCodes (l : List Int) : List Int := (List.range 8).map fun k => satTo 6 (nth l k)

/-- v of one code: u is in 1/16 LSB; rounded to nearest, a half up (DESIGN CHOICE: R183 does not say which way a half goes). -/
def correct (ofs asy code : Int) : Int :=
  let u := 16 * code - ofs
  (u * 2 ^ 20 - asy * u * u + 2 ^ 23) / 2 ^ 24

/-- z of the sample at place `i` of a run of v values; a half is rounded up (DESIGN CHOICE: R183's round() does not say). -/
def State.preEq (s : State) (n r : Nat) (v : List Int) (i : Nat) : Int :=
  satTo 6 ((sumI ((List.range 5).map fun j =>
    signedOf 10 (s.rf (R.LD_PRE n r j) F.LD_PRE_COEF) * (if i + 2 < j then 0 else nth v (i + 2 - j))) + 128) / 256)

/-- The ternary decision. -/
def slicer (aref z : Int) : Int := if aref < 2 * z then aref else if 2 * z < -aref then -aref else 0

/-- The sums over a clock's samples: on peaks with and without polarity, and at zero. -/
def loopSums (aref : Int) : List Int → Int × Int × Int
  | [] => (0, 0, 0)
  | z :: rest =>
    let d := slicer aref z
    let e := z - d
    let r := loopSums aref rest
    if d = 0 then (r.1, r.2.1, r.2.2 + e) else (r.1 + e * (if 0 < d then 1 else -1), r.2.1 + e, r.2.2)

/-- A field stepped with saturation to [lo, hi]; the clamp sets the flag. -/
def State.stepSat (s : State) (off : Nat) (f : Fld) (w : Nat) (v lo hi : Int) (evt : Nat) (flag : Fld) : State :=
  let c := max lo (min hi v)
  let t := s.wf off f (bitsOf w c)
  if c = v then t else t.raise evt flag

/-- The three loops of reader `r` after one clock's z. -/
def State.adaptFront (s : State) (n r : Nat) (z : List Int) : State :=
  let ctl := R.LD_LOOP_CTL n
  let q := loopSums (s.rf ctl F.LD_LOOP_CTL_AREF) z
  let s1 := if s.flag ctl F.LD_LOOP_CTL_EN_G then
      s.stepSat (R.LD_GAIN n r) F.LD_GAIN_GACC 22
        ((s.rf (R.LD_GAIN n r) F.LD_GAIN_GACC : Int) - q.1 * 4096 / 2 ^ s.rf ctl F.LD_LOOP_CTL_MU_G) 0 (2 ^ 22 - 1)
        (R.LD_EVT n) F.LD_EVT_GAIN_SAT
    else s
  let s2 := if s.flag ctl F.LD_LOOP_CTL_EN_A then
      s1.stepSat (R.LD_ASY n r) F.LD_ASY_ASY 12
        (signedOf 12 (s.rf (R.LD_ASY n r) F.LD_ASY_ASY) + q.2.1 * 4096 / 2 ^ s.rf ctl F.LD_LOOP_CTL_MU_A) (-2048) 2047
        (R.LD_EVT n) F.LD_EVT_ASY_SAT
    else s1
  if s.flag ctl F.LD_LOOP_CTL_EN_O then
    s2.stepSat (R.LD_OFS n r) F.LD_OFS_OFS 10
      (signedOf 10 (s.rf (R.LD_OFS n r) F.LD_OFS_OFS) + q.2.2 * 16 / 2 ^ s.rf ctl F.LD_LOOP_CTL_MU_O) (-512) 511
      (R.LD_EVT n) F.LD_EVT_OFS_SAT
  else s2

/-- The slice carries the servo duty on a continuous-servo surface. -/
def State.servoBand (s : State) (n : Nat) : Bool :=
  s.flag (R.LD_CFG n) F.LD_CFG_SERVO && ((s.surface (s.msSurf n)).map fun x => !x.wedge).getD false

/-- The samples of a clock for the demodulator, where the slice streams the servo pair: reader B's before the reject filter on a
continuous-servo surface, reader A's on a wedge surface (R183, R273). -/
def State.servoTake (s : State) (n r : Nat) (v : List Int) : State :=
  match s.sliceAct n with
  | some a =>
    if s.servoSlice a = some n && ((s.servoSurface a).map fun x => if x.wedge then 0 else 1) = some r then
      let x := s.slice n
      s.setSlice n { x with frame := (v.reverse ++ x.frame).take 1048576 }
    else s
  | none => s

/-- Reader B through the reject filter: the new samples, with the history the filter has seen. -/
def rejectBand (hist : List Int) : List Int → List Int × List Int
  | [] => ([], hist)
  | v :: rest =>
    let h := lastN 32 (hist ++ [v])
    let r := rejectBand h rest
    (Config.servoReject h :: r.1, r.2)

/-- One reader's clock: clip count, v, and the z of the clock before, which two of the new samples complete. -/
def State.frontReader (s : State) (n r : Nat) (codes : List Int) : List Int × State :=
  let c := eightCodes codes
  let clip := (c.filter fun x => x = -32 ∨ x = 31).length
  let s1 := s.countUp (R.LD_CNT_CLIP n r) F.LD_CNT_CLIP_COUNT clip
  let v0 := c.map (correct (signedOf 10 (s.rf (R.LD_OFS n r) F.LD_OFS_OFS)) (signedOf 12 (s.rf (R.LD_ASY n r) F.LD_ASY_ASY)))
  let x := s1.slice n
  let q := if r = 1 ∧ s.servoBand n then rejectBand x.servoB v0 else (v0, x.servoB)
  let old := if r = 0 then x.vA else x.vB
  let v := List.replicate (10 - old.length) 0 ++ old ++ q.1
  let z := (List.range 8).map fun k => s.preEq n r v (k + 2)
  let y := if r = 0 then { x with vA := lastN 10 v } else { x with vB := lastN 10 v, servoB := q.2 }
  (z, (s1.setSlice n y).servoTake n r v0)

/-- 48 bits of z values. -/
def packZ (z : List Int) : Nat := argOf6 z where
  argOf6 : List Int → Nat
    | [] => 0
    | x :: rest => bitsOf 6 x + 2 ^ 6 * argOf6 rest

/-- z values of a record's half. -/
def unpackZ (v : Nat) : List Int := (List.range 8).map fun k => signedOf 6 (v / 2 ^ (6 * k))

/-! ### Defect windows (R221, R222) -/

/-- The active windows of slice `n`: sector, start, length. -/
def State.windowsNow (s : State) (n : Nat) : List (Nat × Nat × Nat) :=
  (List.range 16).filterMap fun i =>
    if s.flag (R.LD_DFW_LEN n i) F.LD_DFW_LEN_V then
      some (s.rf (R.LD_DFW_START n i) F.LD_DFW_START_SECTOR, s.rf (R.LD_DFW_START n i) F.LD_DFW_START_START,
        s.rf (R.LD_DFW_LEN n i) F.LD_DFW_LEN_LEN)
    else none

/-- A window register written: what stood before is kept for the sectors in progress. -/
def State.writeWindow (s : State) (i : Initiator) (n off : Nat) (v : Word) : State :=
  if s.ldOpen i n then
    let x := s.slice n
    (s.setSlice n { x with windows := ((x.now, s.windowsNow n) :: x.windows).filter fun q => x.now ≤ q.1 + 32768 }).writeFields off v
  else s

/-- The windows that a sector whose first sample was taken in clock `c` keeps: those before the first change behind it. -/
def State.windowsAt (s : State) (n : Nat) (c : Int) : List (Nat × Nat × Nat) :=
  match ((s.slice n).windows.filter fun q => c ≤ q.1).getLast? with
  | some q => q.2
  | none => s.windowsNow n

/-! ### The place on the track (R205)

Milestone keeps the slice's clock locked to the disk, one sample a bit, so from one sector on that has been framed the slice knows which
bit of the track each sample is (DEDUCED: the writer marks the first preamble bit of every sector position and the index, R249). -/

/-- The track under the head of slice `n` as its clock follows it, with its zone; none in the Touchstone format. -/
def State.trackNow (s : State) (n : Nat) : Option (TrackGeo × Zone) :=
  if s.flag (R.LD_FRM_CTL n) F.LD_FRM_CTL_TS then none
  else match s.surface (s.msSurf n), s.zone (s.msSurf n) (s.rf (R.LD_MS_STAT n) F.LD_MS_STAT_ZONE) with
  | some x, some z => some (trackGeo x z s.targetRpm, z)
  | _, _ => none

/-- Another zone has another number of bits a revolution: the place on the track is the same. -/
def State.keepPlace (s : State) (n : Nat) : State :=
  let x := s.slice n
  match x.place, s.trackNow n with
  | some (z, r), some (g, _) =>
    if r = g.rev then s
    else
      let m : Int := 8 * x.now
      s.setSlice n { x with place := some (m - (m - z) % r * g.rev / r, g.rev) }
  | _, _ => s

/-- The track bit of sample `m`, where the place is known. -/
def State.bitNow (s : State) (n : Nat) (m : Int) : Option Nat := (s.slice n).place.map fun p => ((m - p.1) % p.2).toNat

/-- The sector position that begins at track bit `b`. -/
def startsAt (g : TrackGeo) (z : Zone) (b : Nat) : Option Nat :=
  match g.at b with
  | .data q => if q % codeL z.code = 0 && q / codeL z.code < z.spt then some (q / codeL z.code) else none
  | _ => none

/-- DEFECT and WEDGE of sample `m`, at their bits of FRZ, where the place is known: a servo wedge under the head, and a window that its
sector began with (R184, R221, R222). -/
def State.placeStates (s : State) (n : Nat) (m : Int) : Option Nat :=
  match s.trackNow n, s.bitNow n m with
  | some (g, z), some b => match g.at b with
    | .wedge => some 4
    | .relock => some 0
    | .data q =>
      let k := q / codeL z.code
      let p := q % codeL z.code
      let began := (m - ((b : Int) - g.bit (q - p))) / 8
      some (b2n (k < z.spt && (s.windowsAt n began).any fun w => w.1 = k && w.2.1 ≤ p && p < w.2.1 + w.2.2))
  | _, _ => none

/-- The four states of each sample of the present clock (R185); DEFECT and WEDGE are those of FREEZE_ASSERT while the place is not
known. -/
def State.nowStates (s : State) (n : Nat) : List Nat :=
  (List.range 8).map fun k => match s.placeStates n (8 * (s.slice n).now + k) with
    | some d => d + (s.frz n &&& 0xA)
    | none => s.frz n % 16

/-- DEFECT and WEDGE are asserted by the samples whose z a clock takes, where the place is known. -/
def State.placeFreeze (s : State) (n : Nat) (st : List Nat) : State :=
  if (s.placeStates n (8 * (s.slice n).now)).isSome then
    (s.setFrz n fzDefect (st.any fun v => bitAt v 0)).setFrz n fzWedge (st.any fun v => bitAt v 2)
  else s

/-! ### The ring writer (R188, R248, R249) -/

/-- The marks of sample `k` of the record of the clock before: its states, the events before its first sample, the index and a sector's
first bit. -/
def State.sampleMarks (s : State) (n q k st : Nat) : State :=
  let t := s.noteStates q k st
  let u := if k = 0 then (s.slice n).due.foldl (fun u m => u.addMark q m.1 0 m.2) t else t
  match s.trackNow n, s.bitNow n (8 * ((s.slice n).now - 1) + k) with
  | some (g, z), some b =>
    let track := s.servoTrack (s.msSurf n / 8)
    let v := if b = 0 then u.addMark q mkIndex k track else u
    match startsAt g z b with
    | some i => v.addMark q mkSector k (track + 2 ^ 32 * i)
    | none => v
  | _, _ => u

/-- The record of a clock's z written with its marks, while Milestone is not IDLE. -/
def State.ringClock (s : State) (n v : Nat) (st : List Nat) : State :=
  let q := s.rf (R.LD_RING_CFG n) F.LD_RING_CFG_Q
  if s.msState n = msIdle || 8 ≤ q then s
  else ((List.range 8).foldl (fun t k => t.sampleMarks n q k ((st[k]?).getD (s.frz n % 16))) (s.putRecord q v)).nextClock q

/-! ### The Touchstone format (R220, R225, R226) -/

/-- One data bit: behind a frame's sync the bytes of its header, payload and CRC go to STRn, each with bit 7 first. A header whose PLEN is
out of its range ends the frame. -/
def TsRead.bit (x : TsRead) (b : Bool) : TsRead :=
  match x.body with
  | none =>
    let w := (2 * x.word + b2n b) % 2 ^ 32
    if w = 0xB5C71A3E then { x with word := 0, body := some [] } else { x with word := w }
  | some l =>
    let m := b :: l
    if m.length % 8 ≠ 0 then { x with body := some m }
    else
      let bytes := bitsToBytes m.reverse (m.length / 8)
      let plen := (bytes[6]?).getD 0 + 256 * (bytes[7]?).getD 0
      let ends := 8 ≤ bytes.length && (plen = 0 || 1024 < plen || 12 + plen ≤ bytes.length)
      { x with body := if ends then none else some m, out := x.out ++ [bytes.getLastD 0] }

/-- One sample: the readback's sign is the polarity under the reader. A run of 48 channel bits or more is a data bit of 0, two of 16 to 47 are
one of 1 (DESIGN CHOICE: the spec gives the cells, not how far off they may be). -/
def TsRead.sample (x : TsRead) (v : Int) : TsRead :=
  let lvl := if v = 0 then x.level else decide (0 < v)
  if lvl = x.level then { x with run := x.run + 1 }
  else
    let y := { x with level := lvl, run := 1, half := decide (16 ≤ x.run ∧ x.run < 48) && !x.half }
    if 48 ≤ x.run then y.bit false else if 16 ≤ x.run && x.half then y.bit true else y

/-- A clock of reader A's samples through the Touchstone reader, while TS is 1. -/
def State.tsClock (s : State) (n : Nat) : State :=
  let x := s.slice n
  if s.flag (R.LD_FRM_CTL n) F.LD_FRM_CTL_TS then s.setSlice n { x with ts := (lastN 8 x.vA).foldl TsRead.sample x.ts }
  else if x.ts = {} then s else s.setSlice n { x with ts := {} }

/-- `k` bytes of the Touchstone reader for STRn, zeros where it has fewer, and the reader without them. -/
def State.tsTake (s : State) (n k : Nat) : Nat × State :=
  let x := s.slice n
  (bytesLe (x.ts.out.take k), s.setSlice n { x with ts := { x.ts with out := x.ts.out.drop k } })

/-! ### Replay's place (R251, R252) -/

/-- START, LEN and the next clock of a replay, in clocks written. -/
def State.rplyQ (s : State) (n : Nat) : Nat := s.rf (R.LD_RING_CFG n) F.LD_RING_CFG_RPLY_Q
def State.rplyStart (s : State) (n : Nat) : Nat :=
  (s.sub (s.rplyQ n)).full ((s.rd (R.LD_RPLY_START_LO n)).toNat + 2 ^ 32 * ((s.rd (R.LD_RPLY_START_HI n)).toNat % 2 ^ 16))
def State.rplyDone (s : State) (n : Nat) : Nat := s.rf (R.LD_RPLY_STAT n) F.LD_RPLY_STAT_DONE_CLK
def State.rplyLen (s : State) (n : Nat) : Nat := s.rf (R.LD_RPLY_LEN n) F.LD_RPLY_LEN_LEN
def State.rplyNext (s : State) (n : Nat) : Nat := s.rplyStart n + s.rplyDone n

/-- ARG of the SELECT mark in force at the replayed clock; before a first selection, head 0 and zone 0 of the actuator. -/
def State.replayArg (s : State) (n : Nat) : Nat :=
  (s.selectAt (s.rplyQ n) (s.rplyNext n)).getD (2 ^ 32 * (8 * (s.sliceAct n).getD 0))

/-! ### The back end (R190 to R194) -/

/-- Tap `i` of reader `r`'s equalizer, and target tap `j` of the set in use. -/
def State.eqTap (s : State) (n r i : Nat) : Int := signedOf 12 (s.rf (R.LD_EQ n r i) F.LD_EQ_COEF)
def State.target (s : State) (n set j : Nat) : Int :=
  if j < 4 then signedOf 8 ((s.rd (R.LD_TGT_LO n set)).toNat / 2 ^ (8 * j)) else signedOf 8 (s.rf (R.LD_TGT_HI n set) F.LD_TGT_HI_TAPS)

/-- The target set in use: EQ_SET of the zone, or in RING that of the replayed marks or its override (R191, R252). -/
def State.eqSet (s : State) (n : Nat) : Nat :=
  if s.inRing n then
    if s.flag (R.LD_RING_CFG n) F.LD_RING_CFG_EQ_OV then s.rf (R.LD_RING_CFG n) F.LD_RING_CFG_EQ_ALT
    else s.replayArg n / 2 ^ 24 % 16
  else s.rf (R.LD_SEL_STAT n) F.LD_SEL_STAT_EQ_SET % 16

/-- States of the samples in the back end: DEFECT, TA, WEDGE, WRITE. -/
def State.backStates (s : State) (n : Nat) : Nat :=
  if s.inRing n then (s.slice n).states.foldl (fun a v => a ||| v) 0 else s.frz n % 16

/-- A source of EQ and NP adaptation stands: in LIVE every enabled one but NOSIG, in RING the replayed states and HOLD (R184,
R185). -/
def State.backSource (s : State) (n : Nat) : Bool :=
  if s.inRing n then (s.backStates n &&& (s.rf (R.LD_FREEZE n) F.LD_FREEZE_MASK + 8)) ≠ 0 || s.flag (R.LD_CFG n) F.LD_CFG_HOLD
  else s.frzOn n % 32 ≠ 0

/-- EQ and NP adaptation is frozen. -/
def State.frozenBack (s : State) (n : Nat) : Bool := s.backSource n || (s.slice n).tailB ≠ 0

/-- The LLR of a bit whose sample has these states is erased (R193). -/
def State.erased (s : State) (n st : Nat) : Bool :=
  s.flag (R.LD_CFG n) F.LD_CFG_ERASE && (st &&& s.rf (R.LD_FREEZE n) F.LD_FREEZE_MASK &&& 3) ≠ 0

/-- w of the sample at place `m` of forty, in 1/1,024: seven later samples enter it. -/
def State.equalize (s : State) (n : Nat) (zA zB : List Int) (m : Nat) : Int :=
  sumI ((List.range 16).map fun i => s.eqTap n 0 i * nth zA (m + 7 - i) + s.eqTap n 1 i * nth zB (m + 7 - i))

/-- Equalizer taps adapted with a clock's e2 (in 1/1,024). -/
def State.adaptEq (s : State) (n : Nat) (zA zB e : List Int) : State :=
  let mu := s.rf (R.LD_EQ_CTL n) F.LD_EQ_CTL_MU_EQ
  let pin := s.flag (R.LD_EQ_CTL n) F.LD_EQ_CTL_PIN
  (List.range 32).foldl (fun t j =>
    let r := j / 16
    let i := j % 16
    if r = 0 ∧ i = 7 ∧ pin then t
    else
      let z := if r = 0 then zA else zB
      let g := sumI ((List.range 8).map fun k => nth e k * nth z (k + 15 - i))
      t.stepSat (R.LD_EQ n r i) F.LD_EQ_COEF 12 (s.eqTap n r i - g / (1024 * 2 ^ mu)) (-2048) 2047 (R.LD_EVT n) F.LD_EVT_EQ_SAT) s

/-- A predictor tap. -/
def npFld (j : Nat) : Fld := ⟨8 * j + 7, 8 * j⟩
def State.npTap (s : State) (n p j : Nat) : Int := signedOf 8 (s.rf (R.LD_NP n p) (npFld j))

/-- One bit's noise-predictor adaptation: `h` holds n[k-1] to n[k-3] and `x` n[k], in 1/1,024. -/
def State.adaptNp (s : State) (n p : Nat) (h : List Int) (x : Int) : State :=
  let mu := s.rf (R.LD_EQ_CTL n) F.LD_EQ_CTL_MU_NP
  let d := 128 * x - sumI ((List.range 3).map fun j => s.npTap n p j * nth h j)
  let t := (List.range 3).foldl (fun u j =>
    u.stepSat (R.LD_NP n p) (npFld j) 8 (s.npTap n p j + d * nth h j / (2 ^ 20 * 2 ^ mu)) (-128) 127 (R.LD_EVT n) F.LD_EVT_NP_SAT) s
  let var : Int := s.rf (R.LD_NP n p) F.LD_NP_VAR
  let v := var + (20 * (d.natAbs : Int) - var * 131072) / (131072 * 2 ^ mu)
  let u := if 255 < v then t.raise (R.LD_EVT n) F.LD_EVT_NP_SAT else t
  u.wf (R.LD_NP n p) F.LD_NP_VAR (max 1 (min 255 v)).toNat

/-- Predictors adapted over a clock: noise with three older values in front, decisions with two older ones in front. -/
def State.adaptNps (s : State) (n : Nat) (noise dec : List Int) : State :=
  (List.range 8).foldl (fun t k =>
    let bit := fun (i : Nat) => if 0 < nth dec (k + 2 - i) then 1 else 0
    t.adaptNp n (4 * bit 0 + 2 * bit 1 + bit 2) [nth noise (k + 2), nth noise (k + 1), nth noise k] (nth noise (k + 3))) s

/-- LLR of a decided bit from the detector's metric difference, in 2^-32 (R193): positive for a 0. -/
def State.llrOf (s : State) (n bit rel : Nat) : Int :=
  let q : Int := min 31 ((rel * s.rf (R.LD_DET_CTL n) F.LD_DET_CTL_LLR_SCALE + 32 * 2 ^ 32) / (64 * 2 ^ 32) : Nat)
  if bit = 1 then -q else q

/-- The target and the predictors in use. -/
def State.trellis (s : State) (n : Nat) : Trellis :=
  { target := (List.range 5).map (s.target n (s.eqSet n)),
    preds := (List.range 8).map fun p => ⟨(List.range 3).map (s.npTap n p), s.rf (R.LD_NP n p) F.LD_NP_VAR⟩ }

/-- One clock through the back end: its samples join with their states, the trellis takes the clock before, and the decisions, LLRs and
erasure flags of the clock three before come out, 24 bits after it (R190, R192, R193). EQ and NP adapt once the history is full. -/
def State.backClock (s0 : State) (n : Nat) (zA zB : List Int) (sts : List Nat) : State :=
  let f := s0.free 160
  let s := f.2
  let x := s.slice n
  let pad := fun (l : List Int) => List.replicate (40 - l.length) 0 ++ l
  let jA := lastN 40 (x.zA ++ zA)
  let jB := lastN 40 (x.zB ++ zB)
  let hA := pad jA
  let hB := pad jB
  let seen := x.seen.drop (x.seen.length - 24) ++ (List.range 8).map fun k => (sts[k]?).getD 0
  let st := fun (k : Nat) => if seen.length < 32 then 0 else (seen[k]?).getD 0
  let det := (s.trellis n).run ((List.range 8).map fun k => s.equalize n hA hB (k + 24)) f.1 x.det
  let bits := det.1.map fun d => antipodal d.1
  let dec := List.replicate (4 - x.dec.length) (-1) ++ x.dec ++ bits
  let g := s.eqSet n
  let e := (List.range 8).map fun k =>
    s.equalize n hA hB (k + 8) - 128 * sumI ((List.range 5).map fun j => s.target n g j * nth dec (k + 4 - j))
  let noise := List.replicate (3 - x.noise.length) 0 ++ x.noise ++ e
  let adapt := !s.frozenBack n && 40 ≤ jA.length
  let s1 := if adapt && s.flag (R.LD_EQ_CTL n) F.LD_EQ_CTL_EQ_ADAPT then s.adaptEq n hA hB e else s
  let s2 := if adapt && s.flag (R.LD_EQ_CTL n) F.LD_EQ_CTL_NP_ADAPT then s1.adaptNps n noise (dec.drop 2) else s1
  let warm := decide (0 < x.warm)
  let out : LlrClock :=
    if warm then { llr := List.replicate 8 0, erase := 255, valid := false }
    else
      { llr := (List.range 8).map fun k => if s.erased n (st k) then 0 else ((det.1[k]?).map fun d => s.llrOf n (d.1 % 2) d.2).getD 0,
        erase := (List.range 8).foldl (fun v k => v + b2n (s.erased n (st k)) * 2 ^ k) 0 }
  s2.setSlice n { s2.slice n with zA := jA, zB := jB, seen, dec := lastN 4 dec, noise := lastN 3 noise, det := det.2, warm := x.warm - 1,
                                  llr := (out :: x.llr).take 32768 }

/-- The tails' part of one slice clock: they count down while no source of theirs stands. -/
def State.tailClock (s : State) (n : Nat) : State :=
  let x := s.slice n
  s.setSlice n { x with tail := if s.frzOn n = 0 then x.tail - 1 else x.tail,
                        tailB := if s.backSource n then s.rf (R.LD_FREEZE n) F.LD_FREEZE_TAIL else x.tailB - 1 }

/-! ### Replay (R251) -/

/-- The end a running replay has reached, if any: its number. -/
def State.rplyEnd (s : State) (n : Nat) : Option Nat :=
  if s.rplyLen n ≤ s.rplyDone n then some 1
  else if (s.sub (s.rplyQ n)).clk ≤ s.rplyNext n then some 2
  else if s.rplyNext n < s.ringFloor (s.rplyQ n) || !(s.sub (s.rplyQ n)).kept s.ringC (s.rplyNext n) then some 3
  else none

/-- The next clock of a running replay given to the back end: its record and its marks are read from Bedrock as media traffic (R340); where
its granule has no data, the samples are free (R344). -/
def State.replayClock (s : State) (n : Nat) : State :=
  if !(s.slice n).playing || (s.rplyEnd n).isSome then s
  else
    let q := s.rplyQ n
    let c := s.rplyNext n
    let r := (s.readMarks q c).hbmRead qMedia (s.recOfs q c) 12
    let v : Nat × State := match r.1 with
      | some v => (v, r.2)
      | none => r.2.free 96
    let st := (List.range 8).map fun k => s.statesAt q (8 * c + k)
    let t := v.2.setSlice n { v.2.slice n with states := st }
    let u := t.backClock n (unpackZ v.1) (unpackZ (v.1 / 2 ^ 48)) st
    u.wf (R.LD_RPLY_STAT n) F.LD_RPLY_STAT_DONE_CLK (s.rplyDone n + 1)

/-! ### One slice clock -/

/-- te of the data-aided phase loop over a clock's z, the sample before it in front (R212). -/
def phaseSum (aref : Int) : List Int → Int
  | z0 :: z1 :: rest => z1 * slicer aref z0 - z0 * slicer aref z1 + phaseSum aref (z1 :: rest)
  | _ => 0

/-- The data-aided phase loop takes a clock's te, unless it is off or the front-end loops hold, and moves the slice's phase by it. -/
def State.phaseLoop (s : State) (n : Nat) (z : List Int) : State :=
  if s.flag (R.LD_MS_CTL n) F.LD_MS_CTL_FINE_EN && !s.frozenLoops n then
    let te := phaseSum (s.rf (R.LD_LOOP_CTL n) F.LD_LOOP_CTL_AREF) z
    (s.setSlice n { s.slice n with te }).setMs n { s.ms n with fine := (s.ms n).fine + Config.phaseStep te }
  else s

/-- The last z of reader A in the line buffer. -/
def SliceState.lastZ (x : SliceState) : Int := ((x.line.head?).map fun v => signedOf 6 (v / 2 ^ 42 % 64)).getD 0

/-- The clock's amplitudes on the reader of the clearance measurement (R196), with the states of its samples. -/
def State.ampClock (s : State) (n : Nat) (st : List Nat) : State :=
  if s.flag (R.LD_CLR_CTL n) F.LD_CLR_CTL_EN then
    let x := s.slice n
    let a := amplitudes (lastN 8 (if s.flag (R.LD_CLR_CTL n) F.LD_CLR_CTL_READER then x.vB else x.vA))
    s.setSlice n { x with amps := ((a.1, a.2, st.any fun v => v % 4 ≠ 0) :: x.amps).take 32768 }
  else s.setSlice n { s.slice n with amps := [] }

/-- One clock of the front end: TA detector, loops, line buffer and ring; the z values of both readers, and the states of their samples. -/
def State.frontClock (s : State) (n : Nat) (a b : List Int) : (List Int × List Int × List Nat) × State :=
  let qa := s.frontReader n 0 a
  let qb := qa.2.frontReader n 1 b
  let ta := qb.2.taClock n (sumU (signedOf 10 (s.rf (R.LD_OFS n 0) F.LD_OFS_OFS)) (eightCodes a))
    (sumU (signedOf 10 (s.rf (R.LD_OFS n 1) F.LD_OFS_OFS)) (eightCodes b))
  let st := (ta.slice n).last
  let g := (ta.keepPlace n).placeFreeze n st
  let p := g.phaseLoop n ((g.slice n).lastZ :: qa.1)
  let t := (if p.frozenLoops n then p else (p.adaptFront n 0 qa.1).adaptFront n 1 qb.1)
  let v := packZ qa.1 + 2 ^ 48 * packZ qb.1
  let now := t.nowStates n
  let w := (t.ampClock n now).tsClock n
  let u := (w.setSlice n { w.slice n with line := (v :: (w.slice n).line).take 65536 }).ringClock n v st
  let x := u.slice n
  ((qa.1, qb.1, st), u.setSlice n { x with last := now, due := x.soon, soon := [] })

/-- One slice clock (R178, R180): the front end always serves the live pair; the back end takes LIVE or the ring; then the tails
of the frozen loops count. -/
def State.sliceClock (s0 : State) (n : Nat) (a b : List Int) : State :=
  let s := s0.setSlice n { s0.slice n with now := (s0.slice n).now + 1 }
  let t :=
    if s.livePair n then
      let q := s.frontClock n a b
      if s.inRing n then q.2.replayClock n else q.2.backClock n q.1.1 q.1.2.1 q.1.2.2
    else if s.inRing n then s.replayClock n
    else s
  t.tailClock n

/-! ### Replay registers (R251) -/

/-- A write of a replay register: RPLY_Q must be a subring of the same actuator, and the replay registers stand still while
REPLAYING is 1 (R251). -/
def State.writeRingCfg (s : State) (i : Initiator) (n : Nat) (v : Word) : State :=
  let q := fget v F.LD_RING_CFG_RPLY_Q
  let mine := decide (q < 8) && (List.range 8).any fun m => s.rf (R.LD_RING_CFG m) F.LD_RING_CFG_Q = q && sameAct (s.sliceAct m) (s.sliceAct n)
  let locked := s.flag (R.LD_STATUS n) F.LD_STATUS_REPLAYING && q ≠ s.rplyQ n
  if s.ldOpen i n && mine && !locked then s.writeFields (R.LD_RING_CFG n) v else s
def State.writeReplay (s : State) (i : Initiator) (n off : Nat) (v : Word) : State :=
  if s.ldOpen i n && !s.flag (R.LD_STATUS n) F.LD_STATUS_REPLAYING then s.writeFields off v else s

/-! ### Head and zone (R187, R195) -/

/-- The current gain, offset and asymmetry saved as the seeds of head `h`. -/
def State.saveSeed (s : State) (n h r : Nat) : State :=
  s.wr (R.LD_SEED n h r) (word (s.rf (R.LD_GAIN n r) F.LD_GAIN_GACC / 4096 * 2 ^ 22
    + s.rf (R.LD_OFS n r) F.LD_OFS_OFS * 2 ^ 12 + s.rf (R.LD_ASY n r) F.LD_ASY_ASY))

/-- The seeds of head `h` loaded. -/
def State.loadSeed (s : State) (n h r : Nat) : State :=
  ((s.wf (R.LD_GAIN n r) F.LD_GAIN_GACC (s.rf (R.LD_SEED n h r) F.LD_SEED_GAIN * 4096)).wf (R.LD_OFS n r) F.LD_OFS_OFS
    (s.rf (R.LD_SEED n h r) F.LD_SEED_OFS)).wf (R.LD_ASY n r) F.LD_ASY_ASY (s.rf (R.LD_SEED n h r) F.LD_SEED_ASY)

/-- A new head: seeds saved where asked, and loaded; a partial clearance average is discarded. -/
def State.changeHead (s : State) (n old new : Nat) (save : Bool) : State :=
  let t := if save then (s.saveSeed n old 0).saveSeed n old 1 else s
  let u := ((t.loadSeed n new 0).loadSeed n new 1).wf (R.LD_CLR_RES n) F.LD_CLR_RES_VALID 0
  u.setSlice n { u.slice n with clr := 0, clrSum := (0, 0) }

/-- A write of LDn_SEL (R181, R187, R195, R249). -/
def State.writeLdSel (s : State) (i : Initiator) (n : Nat) (v : Word) : State :=
  let a := (s.sliceAct n).getD 0
  let head := fget v F.LD_SEL_HEAD
  let zone := fget v F.LD_SEL_ZONE
  match s.zone (8 * a + head) zone with
  | none => s
  | some z =>
    if !s.ldOpen i n || !s.ldReady n || s.heads a ≤ head then s
    else
      let old := s.rf (R.LD_SEL n) F.LD_SEL_HEAD
      let change := head ≠ old || zone ≠ s.rf (R.LD_SEL n) F.LD_SEL_ZONE
      let t := if head ≠ old then s.changeHead n old head (fget v F.LD_SEL_SEED_SAVE = 1) else s
      let u := ((t.writeFields (R.LD_SEL n) v).wr (R.LD_SEL_STAT n) (word (z.code * 2 ^ 16 + z.eq * 2 ^ 8 + (8 * a + head)))).raise
        (R.LD_STATUS n) F.LD_STATUS_SEL_VALID
      let w := if change then
          u.noteMark n mkSelect (argOf [(1, head), (1, zone), (1, z.code), (1, z.eq), (1, 8 * a + head), (3, 0)])
        else u
      (w.upset n).msRetune n

/-! ### Clearance (R196) -/

/-- A clearance result: HR, the amplitudes, CLR_DONE, and the measurement given to Basalt. The ratio of a zero amplitude, and
one outside HR's range, is free. -/
def State.clearance (s : State) (n a1 a3 : Nat) : State :=
  let l := lnRatio a1 a3
  let open_ := a1 = 0 ∨ a3 = 0 ∨ 32767 < l ∨ l < -32768
  let q : Int × State := if open_ then (signedOf 16 (s.free 16).1, (s.free 16).2) else (l, s)
  let t := ((q.2.wr (R.LD_CLR_RES n) (word (2 ^ 31 + bitsOf 16 q.1))).wr (R.LD_CLR_AMP n) (word (a3 * 2 ^ 16 + a1))).raise
    (R.LD_EVT n) F.LD_EVT_CLR_DONE
  (t.setSlice n { t.slice n with clr := 0, clrSum := (0, 0) }).giveClearance (t.msSurf n) q.1

/-- Preambles of one average; where N is lowered below those already in it, the average ends with them (DESIGN CHOICE). -/
def State.clrCount (s : State) (n : Nat) : Nat := 2 ^ s.rf (R.LD_CLR_CTL n) F.LD_CLR_CTL_N

/-- A preamble's amplitudes, the means over its whole periods without DEFECT or TA, join the average; one without such a period does
not count (DESIGN CHOICE). -/
def State.clrPreamble (s : State) (n : Nat) (l : List (Nat × Nat × Bool)) : State :=
  let good := l.filter fun q => !q.2.2
  let x := s.slice n
  if good = [] || s.clrCount n ≤ x.clr then s
  else
    let mean := fun (g : Nat × Nat × Bool → Nat) => (good.foldl (fun a q => a + g q) 0) / good.length
    s.setSlice n { x with clr := x.clr + 1, clrSum := (x.clrSum.1 + mean (fun q => q.1), x.clrSum.2 + mean (fun q => q.2.1)) }

/-- An average of amplitudes in 1/256 LSB, as LDn_CLR_AMP holds it. -/
def ampField (sum n : Nat) : Nat := min 0xFFFF ((sum / n + 2 ^ 15) / 2 ^ 16)

end Sys2Proof.Machine
end

