-- ==== Sys2Proof/Machine/QryOps.lean ====
section
/-!
DEFINITION. Sys2Proof/Machine/QryOps.lean: Quarry: slots (R237, R239), descriptors and completions (R241 to R244), and the decode of
one sector (R209, R210, R231 to R235).
-/

namespace Sys2Proof.Machine

/-! ### Queues -/

/-- Descriptors, and completions, of slice `n`. -/
def State.qents (s : State) (n : Nat) : List (Desc × DescSt) := (s.qry.ents[n]?).getD []
def State.qcpls (s : State) (n : Nat) : List Cpl := (s.qry.cpls[n]?).getD []
def State.setQents (s : State) (n : Nat) (l : List (Desc × DescSt)) : State := { s with qry := { s.qry with ents := s.qry.ents.set n l } }
def State.setQcpls (s : State) (n : Nat) (l : List Cpl) : State := { s with qry := { s.qry with cpls := s.qry.cpls.set n l } }

/-- FREE of R241; sectors whose descriptors were discarded count until their engines are done (R244). -/
def State.qryFree (s : State) (n : Nat) : Nat :=
  32 - ((s.qents n).length + (s.qcpls n).length + (s.qry.slots.filter fun x => x.slice = n && x.dropped).length)

/-- The statuses of QRY_CPL_A. -/
def qOk : Nat := 1
def qFail : Nat := 2
def qMiscorrect : Nat := 3
def qNomark : Nat := 4
def qAborted : Nat := 5
def qSkipped : Nat := 6
def qOverrun : Nat := 7
def qFlushed : Nat := 8

/-- The framer results of LDn_FRM_STAT. -/
def fClean : Nat := 1
def fSlip : Nat := 2
def fSm2 : Nat := 3
def fSm1 : Nat := 4
def fNomark : Nat := 5
def fAborted : Nat := 6
def fForced : Nat := 7
def fSkipped : Nat := 8

/-! ### Slots (R237) -/

/-- Slots that slice `n`'s LIVE sectors hold. -/
def State.liveHeld (s : State) (n : Nat) : Nat := (s.qry.slots.filter fun x => x.slice = n && x.desc.cls = 0).length

/-- Slots taken from the shared ones: all but the two reserved for each slice with a live pair. -/
def State.sharedHeld (s : State) : Nat :=
  s.qry.slots.length - ((List.range 8).map fun n => if s.livePair n then min 2 (s.liveHeld n) else 0).foldl (· + ·) 0
def State.sharedSlots (s : State) : Nat := 64 - 2 * ((List.range 8).filter s.livePair).length

/-- A slot is available to a sector of class `cls` of slice `n`. -/
def State.slotFree (s : State) (n cls : Nat) : Bool :=
  (cls = 0 && s.livePair n && s.liveHeld n < 2)
    || (s.sharedHeld < s.sharedSlots && (cls ≠ 2 || (s.qry.slots.filter fun x => x.desc.cls = 2).length < 16))

/-- Slots free, and the event of falling below 8. -/
def State.slotsFree (s : State) : Nat := 64 - s.qry.slots.length

/-- Slots replaced. -/
def State.setSlots (s : State) (l : List Slot) : State :=
  let t := { s with qry := { s.qry with slots := l } }
  let u := t.wf R.QRY_STAT F.QRY_STAT_SLOTS_FREE t.slotsFree
  if 8 ≤ s.slotsFree && u.slotsFree < 8 then u.raise R.QRY_EVT F.QRY_EVT_SLOTS_LOW else u

/-! ### Descriptors -/

/-- The first queued descriptor given state `st`. -/
def markHead (st : DescSt) : List (Desc × DescSt) → List (Desc × DescSt)
  | [] => []
  | (d, .queued) :: rest => (d, st) :: rest
  | x :: rest => x :: markHead st rest

/-- The head descriptor: the first still queued. -/
def headDesc : List (Desc × DescSt) → Option Desc
  | [] => none
  | (d, .queued) :: _ => some d
  | _ :: rest => headDesc rest

/-- What the framer hands over with a sector: its code set, the LLRs of the codeword from the anchor on, and their erasure flags
(R218). -/
structure Handed where
  code : Nat := 0
  llr : List Int := []
  erase : List Bool := []
  anchor : Int := 0
deriving DecidableEq, Repr

/-- The sector of the head descriptor takes a slot; without one it is not decoded (R239). The rule speaks of LIVE sectors: one of another
class that finds no slot ends as OVERRUN too and is counted (DESIGN CHOICE). -/
def State.bindSlot (s : State) (n : Nat) (d : Desc) (frame : Nat) (h : Handed) : State :=
  if s.slotFree n d.cls then
    let id := s.qry.nextSlot
    let t := s.setQents n (markHead (.bound id) (s.qents n))
    let u := t.setSlots (t.qry.slots ++ [{ id, slice := n, desc := d, frame, codeSet := h.code, llr := h.llr, erase := h.erase, anchor := h.anchor }])
    { u with qry := { u.qry with nextSlot := id + 1 } }
  else
    let t := (s.setQents n (markHead (.done { status := qOverrun, sector := d.sector, frame } none h.anchor) (s.qents n))).countUp R.QRY_CNT
      F.QRY_CNT_OVERRUN 1
    if d.cls = 0 then t.raise R.QRY_EVT F.QRY_EVT_OVERRUN else t

/-- The framer of slice `n` reports a sector position (R242). -/
def State.reportSector (s : State) (n sector frame : Nat) (h : Handed) : State :=
  match headDesc (s.qents n) with
  | none => s
  | some d =>
    if d.sector ≠ sector || !s.ready .quarry then s
    else if frame = fNomark ∨ frame = fAborted ∨ frame = fSkipped then
      let st := if frame = fNomark then qNomark else if frame = fAborted then qAborted else qSkipped
      s.setQents n (markHead (.done { status := st, sector, frame } none 0) (s.qents n))
    else s.bindSlot n d frame h

/-- Every queued descriptor completes as FLUSHED. -/
def State.qryFlush (s : State) (n : Nat) : State :=
  s.setQents n ((s.qents n).map fun x => match x.2 with
    | .queued => (x.1, .done { status := qFlushed, sector := x.1.sector } none 0)
    | _ => x)

/-- A restart of STRn: descriptors and completions discarded; sectors bound to them, in engines or before, finish (R244). -/
def State.qryDiscard (s : State) (n : Nat) : State :=
  let keep := s.qry.slots.filterMap fun x =>
    if x.slice ≠ n then some x
    else if x.dropped || (s.qents n).any (fun y => decide (y.2 = .bound x.id)) then some { x with dropped := true } else none
  ((s.setQents n []).setQcpls n []).setSlots keep

/-! ### Min-sum (R233) -/

/-- sign with sign(0) = +1. -/
def sgn (x : Int) : Int := if x < 0 then -1 else 1

/-- Smallest magnitude of a list; of an empty one, larger than any. -/
def minMag : List Int → Nat
  | [] => 2 ^ 16
  | x :: rest => min x.natAbs (minMag rest)

/-- The messages of one check row from its inputs. -/
def rowOut (alpha : Nat) (t : List Int) : List Int :=
  (List.range t.length).map fun i =>
    let o := t.eraseIdx i
    let m := min 31 (alpha * minMag o / 16)
    (o.map sgn).foldl (· * ·) 1 * m

/-- One check row processed: Q and the row's messages. -/
def rowStep (alpha : Nat) (q : List Int) (cols : List Nat) (r : List Int) : List Int × List Int :=
  let t := (List.range cols.length).map fun i => nth q ((cols[i]?).getD 0) - nth r i
  let o := rowOut alpha t
  let q1 := (List.range cols.length).foldl (fun acc i =>
    acc.set ((cols[i]?).getD 0) (max (-127) (min 127 (nth t i + nth o i)))) q
  (q1, o)

/-- One iteration over every row. -/
def iterate (alpha : Nat) : List (List Nat) → List (List Int) → List Int → List Int × List (List Int)
  | [], _, q => (q, [])
  | c :: cs, rs, q =>
    let x := rowStep alpha q c (rs.headD [])
    let y := iterate alpha cs (rs.drop 1) x.1
    (y.1, x.2 :: y.2)

/-- Hard decisions, and unsatisfied checks. -/
def hardBits (q : List Int) : List Bool := q.map fun x => decide (x < 0)
def unsat (rows : List (List Nat)) (d : List Bool) : Nat :=
  (rows.filter fun cols => (cols.filter fun j => (d[j]?).getD false).length % 2 = 1).length

/-- The decode from Q and R, at most `n` more iterations: bits, iterations run, unsatisfied checks at the stop. -/
def decodeRun (alpha : Nat) (rows : List (List Nat)) : List Int → List (List Int) → Nat → Nat → List Bool × Nat × Nat
  | q, _, 0, it => (hardBits q, it, unsat rows (hardBits q))
  | q, r, n + 1, it =>
    let x := iterate alpha rows r q
    let c := hardBits x.1
    if unsat rows c = 0 then (c, it + 1, 0) else decodeRun alpha rows x.1 x.2 n (it + 1)

/-- The descrambled, thresholded inputs of a sector. -/
def decodeIn (llr : List Int) (et addr n : Nat) : List Int :=
  (List.range n).zipWith (fun j b =>
    let x := max (-31) (min 31 (nth llr j))
    let y := if x.natAbs ≤ et then 0 else x
    if b then -y else y) (scramble addr n)

/-! ### The sector check (R209) -/

/-- The address field of a descriptor. -/
def Desc.address (d : Desc) : List Nat := addrField d.sys d.psa

/-- The check of a decoded sector passes. -/
def Desc.checkOk (d : Desc) (bytes : List Nat) : Bool :=
  crc64 (d.address ++ bytes.take 4128) = bytesLe ((bytes.drop 4128).take 8)

/-- Iterations allowed (R235). -/
def State.iterLimit (s : State) (d : Desc) : Nat := if d.iter = 0 then s.rf R.QRY_CFG F.QRY_CFG_ITER_MAX else min d.iter 50

/-- The result of a decode: its completion, and the 4,128 bytes. -/
def State.decode (s : State) (x : Slot) : Cpl × List Nat :=
  let n := codeN x.codeSet
  let input := decodeIn x.llr x.desc.et x.desc.psa n
  let rows := checkRows x.codeSet
  let r := decodeRun (s.rf R.QRY_CFG F.QRY_CFG_ALPHA) rows (input.map fun v => 2 * v) (rows.map fun c => c.map fun _ => 0)
    (s.iterLimit x.desc) 0
  let bytes := bitsToBytes (r.1.take codeK) (codeK / 8)
  let st := if r.2.2 ≠ 0 then qFail else if x.desc.checkOk bytes then qOk else qMiscorrect
  let flips := ((r.1.zip (hardBits input)).filter fun p => p.1 ≠ p.2).length
  ({ status := st, iter := r.2.1, sector := x.desc.sector, frame := x.frame, unsat := min r.2.2 4095, flips := min flips 0xFFFF },
   bytes.take 4128)

/-- The completion of the descriptor bound to slot `id`. -/
def State.finishSlot (s : State) (n id : Nat) (c : Cpl) (anchor : Int) : State :=
  s.setQents n ((s.qents n).map fun x => if x.2 = .bound id then (x.1, .done c (some id) anchor) else x)

/-- The decode in slot `x` ends: the destination is written on OK (R234), a fault there makes it FAIL (R376), and the
completion waits to be posted; of a discarded sector only the write remains (R244). -/
def State.endDecode (s : State) (x : Slot) : State :=
  let r := s.decode x
  let w := if r.1.status = qOk then s.dmaWrite (32 + x.slice) qMedia x.desc.dst 4128 (bytesLe r.2) else (.done, s)
  let c := if w.1 = .done then r.1 else { r.1 with status := qFail }
  if x.dropped then w.2.setSlots (w.2.qry.slots.filter fun y => y.id ≠ x.id)
  else (w.2.setSlots (w.2.qry.slots.map fun y => if y.id = x.id then { y with engine := none } else y)).finishSlot x.slice x.id c x.anchor

/-- The slot whose sector engine `e` decodes. -/
def State.engineSlot (s : State) (e : Nat) : Option Slot := s.qry.slots.find? fun x => x.engine = some e

/-- BUSY of an engine. -/
def State.engBusy (s : State) (e : Nat) (v : Bool) : State := s.wf R.QRY_ENG ⟨16 + e, 16 + e⟩ (b2n v)

/-- A slot still to be decoded. -/
def State.slotWaits (s : State) (x : Slot) : Bool :=
  x.engine.isNone && (x.dropped || (s.qents x.slice).any fun y => decide (y.2 = .bound x.id))

/-- The next sector of R238: lowest class, then earliest anchor. -/
def bestSlot : List Slot → Option Slot
  | [] => none
  | x :: rest => match bestSlot rest with
    | none => some x
    | some y => if lexLe [x.desc.cls, x.id] [y.desc.cls, y.id] then some x else some y

/-- Engine `e` may take a sector. -/
def State.engineFree (s : State) (e : Nat) : Bool :=
  bitAt (s.rf R.QRY_ENG F.QRY_ENG_EN) e && !bitAt (s.rf R.QRY_STAT F.QRY_STAT_FAULT) e && (s.engineSlot e).isNone

/-! ### Completions (R243) -/

/-- The sectors of slice `n` that wait for a ladder. -/
def State.badOf (s : State) (n : Nat) : List BadSector := (s.qry.bad[n]?).getD []
def State.setBad (s : State) (n : Nat) (l : List BadSector) : State := { s with qry := { s.qry with bad := s.qry.bad.set n l } }

/-- The oldest descriptor's completion posted, with its slot released. A sector that was not OK waits for the ladder, unless a ladder asked for
it (R254). -/
def State.postCpl (s : State) (n : Nat) : State :=
  match s.qents n with
  | (d, .done c id anchor) :: rest =>
    let t0 := (s.setQents n rest).setQcpls n (s.qcpls n ++ [c])
    let old := t0.badOf n
    let t := if c.status = qOk then t0.setBad n (old.filter fun b => b.desc.psa ≠ d.psa || b.desc.sys ≠ d.sys)
      else if c.status = qSkipped ∨ c.status = qFlushed ∨ d.cls = 1 then t0
      else t0.setBad n (old ++ [{ desc := d, status := c.status, frame := c.frame, anchor }])
    let u := t.setSlots (t.qry.slots.filter fun x => some x.id ≠ id)
    if c.status = qFail ∨ c.status = qMiscorrect then (u.countUp R.QRY_CNT F.QRY_CNT_FAIL 1).raise R.QRY_EVT F.QRY_EVT_FAIL else u
  | _ => s

/-- The views QRY_CPL_A and QRY_CPL_B. -/
def State.cplA (s : State) (n : Nat) : Word := match s.qcpls n with
  | c :: _ => word (2 ^ 31 + c.status * 2 ^ 24 + c.iter * 2 ^ 16 + c.sector)
  | [] => 0
def State.cplB (s : State) (n : Nat) : Word := match s.qcpls n with
  | c :: _ => word (c.frame * 2 ^ 28 + c.unsat * 2 ^ 16 + c.flips)
  | [] => 0

/-! ### Writes -/

/-- Who may write the registers of slice `n` in QRY, and the global ones, and when (R245). -/
def State.qryOpen (s : State) (i : Initiator) (n : Nat) : Bool :=
  s.ready .quarry && match i with
  | .port => true
  | .media => true
  | .str m => m.val < 8 && sameAct (s.sliceAct m.val) (s.sliceAct n)
  | _ => false
def State.qryGlobal (s : State) (i : Initiator) : Bool := s.ready .quarry && isPair i

/-- A write of QRY_SUB_CMD[n] (R241, R242). -/
def State.writeSubCmd (s : State) (i : Initiator) (n : Nat) (v : Word) : State :=
  if !s.qryOpen i n then s
  else if fget v F.QRY_SUB_CMD_CLASS = 3 then s
  else if fget v F.QRY_SUB_CMD_FLUSH = 1 then s.qryFlush n
  else if s.qryFree n = 0 then s
  else
    let d : Desc :=
      { dst := s.rf (R.QRY_SUB_DST_LO n) F.QRY_SUB_DST_LO_ADDR * 64 + 2 ^ 32 * s.rf (R.QRY_SUB_DST_HI n) F.QRY_SUB_DST_HI_ADDR
        psa := s.rf (R.QRY_SUB_PSA_LO n) F.QRY_SUB_PSA_LO_PSA + 2 ^ 32 * s.rf (R.QRY_SUB_PSA_HI n) F.QRY_SUB_PSA_HI_PSA
        sys := s.flag (R.QRY_SUB_PSA_HI n) F.QRY_SUB_PSA_HI_SYS
        sector := fget v F.QRY_SUB_CMD_SECTOR, cls := fget v F.QRY_SUB_CMD_CLASS, et := fget v F.QRY_SUB_CMD_ET
        iter := fget v F.QRY_SUB_CMD_ITER }
    s.setQents n (s.qents n ++ [(d, .queued)])

/-- A write of QRY_CPL_POP[n]. -/
def State.writeCplPop (s : State) (i : Initiator) (n : Nat) (v : Word) : State :=
  if s.qryOpen i n && fget v F.QRY_CPL_POP_POP = 1 then s.setQcpls n ((s.qcpls n).drop 1) else s

/-- A write of QRY_CFG: ITER_FIRST stays at or below ITER_MAX. A write of 0 to ITER_FIRST is stored as it stands (DESIGN CHOICE: the table gives
1 to ITER_MAX and no stored value for 0). -/
def State.writeQryCfg (s : State) (i : Initiator) (v : Word) : State :=
  if !s.qryGlobal i then s
  else
    let t := s.writeFields R.QRY_CFG v
    t.wf R.QRY_CFG F.QRY_CFG_ITER_FIRST (min (t.rf R.QRY_CFG F.QRY_CFG_ITER_FIRST) (t.rf R.QRY_CFG F.QRY_CFG_ITER_MAX))

/-- QRY_HDESC_DATA for the selected entry. -/
def State.hdescData (s : State) : Word :=
  let l := circulants (s.rf R.QRY_HDESC_SEL F.QRY_HDESC_SEL_SET)
  match s.rf R.QRY_HDESC_SEL F.QRY_HDESC_SEL_ENTRY with
  | 0 => word l.length
  | e + 1 => word ((l[e]?.map Circ.entry).getD 0)

end Sys2Proof.Machine
end

