-- ==== Sys2Proof/Machine/SectorOps.lean ====
section
/-!
DEFINITION. Sys2Proof/Machine/SectorOps.lean: where the bits of a sector lie on its track as they are read (R205), and the search
for its marks (R216).
-/

namespace Sys2Proof.Machine

/-! ### The track (R205) -/

/-- Track bits from bit 0 of sector `k` to its sector bit position `p`, on zone `z` of surface `surf`. -/
def State.bitSpan (s : State) (surf z k : Nat) (p : Int) : Int :=
  match s.zone surf z, s.surface surf with
  | some q, some x =>
    let g := trackGeo x q s.targetRpm
    let base := k * codeL q.code
    (g.bit ((base : Int) + p).toNat : Int) - g.bit base
  | _, _ => p

/-! ### Marks in the detector's output (R216) -/

/-- Mismatches of a mark at `off` bits from its place `pos`, against hard decisions of LLRs; an LLR of 0 is a mismatch. -/
def markMiss (llr : Int → Int) (mark pos : Nat) (off : Int) : Nat :=
  ((List.range 48).filter fun (i : Nat) =>
    let x := llr ((pos : Int) + off + (i : Int))
    x = 0 || decide (x < 0) != ((markBits mark)[i]?).getD false).length

/-- Place `x` is preferred to `y`: fewer mismatches, then nearer the nominal position, then earlier. -/
def better (x y : Int × Nat) : Bool :=
  x.2 < y.2 || (x.2 = y.2 && (x.1.natAbs < y.1.natAbs || (x.1.natAbs = y.1.natAbs && x.1 < y.1)))

/-- The best of a list. -/
def bestMark : List (Int × Nat) → Option (Int × Nat)
  | [] => none
  | x :: rest => match bestMark rest with
    | none => some x
    | some y => if better x y then some x else some y

/-- A mark searched within `win` of offset `c`, by its mismatches at each offset, with at most `thr` of them. -/
def findMark (miss : Int → Nat) (c : Int) (win thr : Nat) : Option Int :=
  (bestMark (((List.range (2 * win + 1)).map fun i =>
    let o := c + i - win
    (o, miss o)).filter fun p => p.2 ≤ thr)).map Prod.fst

end Sys2Proof.Machine
end

