-- ==== Sys2Proof/Machine/FrameOps.lean ====
section
/-!
DEFINITION. Sys2Proof/Machine/FrameOps.lean: where a sector lies in the detector's output, live or replayed (R205, R218, R252), the framer's
report (R217, R242), and a change of SOURCE, which abandons the sector in progress (R194, R219, R251).
-/

namespace Sys2Proof.Machine

/-- The framer's finding: marks as offsets from nominal, the anchor's offset, RESULT and SHIFT. -/
structure Framed where
  sm1 : Option Int
  sm2 : Option Int
  anchor : Int
  result : Nat
  shift : Int
deriving DecidableEq, Repr

/-! ### Where a position lies (R205, R252) -/

/-- The surface, zone and CODE_SET of a framed position: those of the live head, or of the replayed SELECT mark. -/
def State.frameSurf (s : State) (n : Nat) : Nat := if s.inRing n then s.replayArg n / 2 ^ 32 % 256 else s.msSurf n
def State.frameZone (s : State) (n : Nat) : Nat :=
  if s.inRing n then s.replayArg n / 2 ^ 8 % 256 else s.rf (R.LD_SEL n) F.LD_SEL_ZONE
def State.frameCode (s : State) (n : Nat) : Nat :=
  if s.inRing n then s.replayArg n / 2 ^ 16 % 256 else s.rf (R.LD_SEL_STAT n) F.LD_SEL_STAT_CODE_SET

/-- The key of a sector's marks. -/
def State.markKey (s : State) (n track sector : Nat) : Nat := (s.frameSurf n * 2 ^ 32 + track) * 2 ^ 16 + sector

/-- The newest SECTOR mark of the position that the replay has passed (R220). -/
def State.replayMark (s : State) (n : Nat) (p : Nat → Bool) : Option Nat :=
  s.newestMark (s.rplyQ n) fun v => markKind v = mkSector && s.markClk (s.rplyQ n) v < s.rplyNext n && p (markArg v)

/-- The bit of the ring's history that the newest detector output belongs to: the back end delivers a clock's decisions three
clocks after its samples (R190). -/
def State.newestBit (s : State) (n : Nat) : Int :=
  let c := if s.inRing n then s.rplyNext n else (s.sub (s.rf (R.LD_RING_CFG n) F.LD_RING_CFG_Q)).clk
  8 * ((c : Int) - 4) + 7

/-- The ring bit `p` sector bits behind ring bit `c`, by the marks from there on, each with its bit and whether WEDGE stands behind it: a
wedge span and the relock field behind it hold none; `w`: `c` lies in a wedge span. -/
def wedgeWalk : List (Nat × Bool) → Nat → Nat → Bool → Nat
  | [], c, p, _ => c + p
  | (b, true) :: rest, c, p, w =>
    if w then wedgeWalk rest c p true else if c + p < b then c + p else wedgeWalk rest b (p - (b - c)) true
  | (b, false) :: rest, c, p, w => if w then wedgeWalk rest (b + relockLen) p false else wedgeWalk rest c p false

/-- The ring bit of sector bit position `p` of a sector that begins at ring bit `c`, its wedge spans those of the replayed marks (R252). -/
def State.ringBit (s : State) (n : Nat) (c : Int) (p : Int) : Int :=
  if p ≤ 0 then c + p
  else
    let q := s.rplyQ n
    let l := (s.marksFrom q c.toNat s.ringM (s.sub q).marks []).map fun v => (s.markBit q v, bitAt (markStates v) 2)
    wedgeWalk l c.toNat p.toNat false

/-- Bit 0 of the sector came out `age` bits before the newest output: the age of its sector bit position `p`. -/
def State.ageOf (s : State) (n sector age : Nat) (p : Int) : Int :=
  if s.inRing n then s.newestBit n - s.ringBit n (s.newestBit n - age) p
  else age - s.bitSpan (s.frameSurf n) (s.frameZone n) sector p

/-- The codeword of the sector has come out, anchored up to `win` bits late. -/
def State.sectorOut (s : State) (n sector age win : Nat) : Bool :=
  decide (0 ≤ s.ageOf n sector age (codeN (s.frameCode n) + 415 + win))

/-- Bits since a mark's sample came out of the back end, in a replay. -/
def State.replayAge (s : State) (n v : Nat) : Int := s.newestBit n - s.markBit (s.rplyQ n) v

/-! ### The framer's report -/

/-- The result as the framer reports it: FRM_STAT, the counters, the marks kept for a re-frame, and Quarry (R242). -/
def State.giveFrame (s : State) (n track sector : Nat) (f : Framed) (h : Handed) : State :=
  let t := s.wr (R.LD_FRM_STAT n) (word (sector * 2 ^ 16 + bitsOf 9 f.shift * 2 ^ 7 + f.result))
  let u := if f.result = fSlip then t.countUp (R.LD_FRM_CNT0 n) F.LD_FRM_CNT0_SLIP 1
    else if f.result = fSm2 then t.countUp (R.LD_FRM_CNT0 n) F.LD_FRM_CNT0_SM1_MISS 1
    else if f.result = fSm1 then t.countUp (R.LD_FRM_CNT1 n) F.LD_FRM_CNT1_SM2_MISS 1
    else if f.result = fNomark then t.countUp (R.LD_FRM_CNT1 n) F.LD_FRM_CNT1_NOMARK 1
    else t
  let v := if f.result = fAborted ∨ f.result = fSkipped then u
    else { u with lode := { u.lode with marks := spSet {} u.lode.marks (s.markKey n track sector) { sm1 := f.sm1, sm2 := f.sm2 } } }
  v.reportSector n sector f.result h

/-- The replayed sector in progress ends as ABORTED: the position that has begun and is not out yet; the re-frame that waits for it has that
result (R219, R251). -/
def State.abortReplayed (s : State) (n : Nat) : State :=
  if !s.inRing n then s
  else match s.replayMark n fun _ => true with
  | none => s
  | some v =>
    let sector := markArg v / 2 ^ 32 % 2 ^ 16
    let a := s.replayAge n v
    if s.flag (R.LD_FRM_CTL n) F.LD_FRM_CTL_TS || (0 ≤ a && s.sectorOut n sector a.toNat 7) then s
    else
      let t := s.giveFrame n (markArg v % 2 ^ 32) sector ⟨none, none, 0, fAborted, 0⟩ {}
      if ((s.slice n).reframe.map Prod.fst) = some sector then
        (t.wr (R.LD_REFRAME_RES n) (word (2 ^ 31 + fAborted))).setSlice n { t.slice n with reframe := none }
      else t

/-! ### SOURCE (R194, R251) -/

/-- The back end restarts empty on a new source. -/
def State.restartBack (s : State) (n : Nat) : State :=
  (s.setSlice n { s.slice n with zA := [], zB := [], seen := [], dec := [], noise := [], det := freshSurvivors, warm := 16 }).upset n

/-- SOURCE set to LIVE. -/
def State.toLive (s : State) (n : Nat) : State :=
  if s.inRing n then
    ((s.wf (R.LD_CFG n) F.LD_CFG_SOURCE 0).wf (R.LD_STATUS n) F.LD_STATUS_REPLAYING 0).restartBack n
  else s

/-- The replay stops as `code`, and a re-frame that waits for its sector waits no more. An overrun, and the change of SOURCE that a stop is
(with AUTO_LIVE every one), abandon the sector in progress (R219, R251). -/
def State.stopReplay (s : State) (n code : Nat) : State :=
  let cut := code = 3 || code = 5 || s.flag (R.LD_RING_CFG n) F.LD_RING_CFG_AUTO_LIVE
  let a := if (s.slice n).playing && cut then s.abortReplayed n else s
  let t := (a.wf (R.LD_RPLY_STAT n) F.LD_RPLY_STAT_END code).setSlice n { a.slice n with playing := false, reframe := none }
  if (a.slice n).reframe.isSome then t.wr (R.LD_REFRAME_RES n) (if code = 3 then word (2 ^ 31 + fAborted) else 0) else t

/-- A replay ends as `code`: with AUTO_LIVE, SOURCE returns to LIVE. -/
def State.endReplay (s : State) (n code : Nat) : State :=
  let t := s.stopReplay n code
  if t.flag (R.LD_RING_CFG n) F.LD_RING_CFG_AUTO_LIVE then t.toLive n else t

/-- SOURCE written to RING: a replay begins, where START is held. -/
def State.toRing (s : State) (n : Nat) : State :=
  let t := ((s.wf (R.LD_CFG n) F.LD_CFG_SOURCE 1).wf (R.LD_STATUS n) F.LD_STATUS_REPLAYING 1).restartBack n
  let u := t.wr (R.LD_RPLY_STAT n) 0
  if u.heldClk (u.rplyQ n) (u.rplyStart n) then u.setSlice n { u.slice n with playing := true, states := [] } else u.endReplay n 4

/-- SOURCE written. -/
def State.setSource (s : State) (n v : Nat) : State :=
  if v = s.rf (R.LD_CFG n) F.LD_CFG_SOURCE then s
  else if v = 1 then s.toRing n
  else
    (if (s.slice n).playing then s.stopReplay n 5 else s).toLive n

/-- A write of LDn_CFG (R181, R184, R194). -/
def State.writeLdCfg (s : State) (i : Initiator) (n : Nat) (v : Word) : State :=
  let src := fget v F.LD_CFG_SOURCE
  if !s.ldOpen i n || 2 ≤ src || (src ≠ s.rf (R.LD_CFG n) F.LD_CFG_SOURCE && !s.ldReady n) then s
  else
    let t := s.writeFields (R.LD_CFG n) (fset v F.LD_CFG_SOURCE (s.rf (R.LD_CFG n) F.LD_CFG_SOURCE))
    (t.setFrz n fzHold (fget v F.LD_CFG_HOLD = 1)).setSource n src

end Sys2Proof.Machine
end

