-- ==== Sys2Proof/Machine/LadderOps.lean ====
section
/-!
DEFINITION. Sys2Proof/Machine/LadderOps.lean: the retry ladder that the Strata microcode ROM runs for a sector that is not OK (R254 to
R257). Its attempts on the replayed samples are re-frames and decodes; each framer result and each completion moves it on.
-/

namespace Sys2Proof.Machine

/-! ### The attempts of the steps (R254, R255) -/

/-- 0, +1, -1, +2, -2, to +7, -7. -/
def ladderShifts : List Int := 0 :: (List.range 7).flatMap fun i => [((i : Int) + 1), -((i : Int) + 1)]

/-- The bases of step 2 by the first framer result; one that R255 does not list, ABORTED say, has those of CLEAN (DESIGN CHOICE). -/
def ladderBases (frame : Nat) : List Nat :=
  if frame = fSlip ∨ frame = fSm2 then [2, 1] else if frame = fNomark then [0] else [1]

/-- Step 2 runs: the last framer result was not CLEAN, or the status MISCORRECT or OVERRUN. -/
def BadSector.reframes (b : BadSector) : Bool := b.frame ≠ fClean || b.status = qMiscorrect || b.status = qOverrun

/-- The attempts of step 2. -/
def reframeTries (frame : Nat) : List Attempt :=
  ((ladderBases frame).flatMap fun b => [{ base := b }, { base := b, relax := true }])
    ++ ladderShifts.map fun k => { shift := k, zero := true }

/-- The attempts of a step on replayed samples; BASE 1 at steps 3 and 4 where a mark was found before. -/
def State.ladderTries (s : State) (l : Ladder) (step : Nat) : List Attempt :=
  let base := if l.found then 1 else 0
  match step with
  | 2 => if l.bad.reframes then reframeTries l.bad.frame else []
  | 3 => (List.range (s.rf R.QRY_LADDER F.QRY_LADDER_ALT_CNT)).map fun i =>
      { base, eq := some ((s.rd R.QRY_LADDER_EQ).toNat / 2 ^ (4 * i) % 16) }
  | 4 => (List.range (s.rf R.QRY_LADDER F.QRY_LADDER_ET_MAX)).map fun i => { base, et := i + 1 }
  | _ => []

/-- RETRY (R256). -/
def Ladder.word (l : Ladder) : Nat :=
  l.step + 2 ^ 8 * min l.tries 255 + 2 ^ 16 * (l.revs % 256) + 2 ^ 24 * (l.bad.frame % 16) + 2 ^ 28 * (l.bad.status % 16)

/-- A step's commit microword writes RETRY. -/
def State.ladderCommit (s : State) (l : Ladder) : State :=
  if (s.ctx l.ctx).state = cFree then s else s.setCtx l.ctx { s.ctx l.ctx with retry := l.word }

/-! ### One attempt -/

/-- A slice of the actuator that no live pair and no other ladder uses, and that is in service. -/
def State.ladderSlice (s : State) (n : Nat) : Nat :=
  ((List.range 8).find? fun m =>
    m ≠ n && sameAct (s.sliceAct m) (s.sliceAct n) && !s.livePair m && s.unitState 0 m = uIn && !s.inRing m
      && (List.range 8).all fun k => ((s.seq k).ladder.map Ladder.slice) ≠ some m).getD n

/-- The live slice's equalizer and noise-predictor values loaded into the replaying slice. -/
def State.ladderLoad (s : State) (n m : Nat) : State :=
  if m = n then s
  else
    let t := (List.range 32).foldl (fun t j =>
      t.wr (R.LD_EQ m (j / 16) (j % 16)) (t.rd (R.LD_EQ n (j / 16) (j % 16)))) s
    (List.range 8).foldl (fun t p => t.wr (R.LD_NP m p) (t.rd (R.LD_NP n p))) t

/-- SM_THR and SM_RLX of the replaying slice set to 0 for the attempts that want it, and restored for the others. -/
def State.ladderThr (s : State) (l : Ladder) (zero : Bool) : State × Ladder :=
  let c := R.LD_FRM_CTL l.slice
  match zero, l.saved with
  | true, none =>
    ((s.wf c F.LD_FRM_CTL_SM_THR 0).wf c F.LD_FRM_CTL_SM_RLX 0,
      { l with saved := some (s.rf c F.LD_FRM_CTL_SM_THR, s.rf c F.LD_FRM_CTL_SM_RLX) })
  | false, some q => ((s.wf c F.LD_FRM_CTL_SM_THR q.1).wf c F.LD_FRM_CTL_SM_RLX q.2, { l with saved := none })
  | _, _ => (s, l)

/-- The sequencer of slice `n` puts slice `m` back to LIVE and sets its replay: LEAD clocks before the SECTOR mark, for LEAD + L ÷ 8. -/
def State.ladderReplay (s : State) (n m : Nat) (eq : Option Nat) (mark : Nat) : State :=
  let lead := s.rf R.QRY_LADDER F.QRY_LADDER_LEAD
  let q := s.rf (R.LD_RING_CFG n) F.LD_RING_CFG_Q
  let c := (s.markClk q mark - lead) % 2 ^ 48
  let s1 := s.setSource m 0
  let s2 := ((s1.wf (R.LD_RING_CFG m) F.LD_RING_CFG_RPLY_Q q).wf (R.LD_RING_CFG m)
    F.LD_RING_CFG_EQ_OV (b2n eq.isSome)).wf (R.LD_RING_CFG m) F.LD_RING_CFG_EQ_ALT (eq.getD 0)
  let s3 := ((s2.wr (R.LD_RPLY_START_LO m) (word c)).wr (R.LD_RPLY_START_HI m) (word (c / 2 ^ 32 % 2 ^ 16))).wf (R.LD_RPLY_LEN m)
    F.LD_RPLY_LEN_LEN (lead + codeL (s.rf (R.LD_SEL_STAT n) F.LD_SEL_STAT_CODE_SET) / 8)
  s3.setSource m 1

/-- An attempt's replay on slice `m`, with its re-frame. -/
def State.ladderReframe (s : State) (n : Nat) (l : Ladder) (a : Attempt) (mark : Nat) : State :=
  let t := s.ladderReplay n l.slice (a.eq) mark
  (t.wf (R.LD_REFRAME_RES l.slice) F.LD_REFRAME_RES_BUSY 1).setSlice l.slice
    { t.slice l.slice with reframe := some (l.bad.desc.sector, a.base, a.relax, a.shift) }

/-- A SECTOR mark names the sector of a descriptor: its index on the track, and the track its PSA lies on. -/
def State.marksDesc (s : State) (d : Desc) (v : Nat) : Bool :=
  markKind v = mkSector && markArg v / 2 ^ 32 % 2 ^ 16 = d.sector
    && (d.sys || (s.psaPlace d.psa).all fun p => markArg v % 2 ^ 32 = p.2.2.1)

/-- The SECTOR mark of a descriptor's sector in the live slice's subring, where its clock is still held. -/
def State.ladderMark (s : State) (n : Nat) (d : Desc) : Option Nat :=
  let q := s.rf (R.LD_RING_CFG n) F.LD_RING_CFG_Q
  s.newestMark q fun v => s.marksDesc d v && s.heldClk q (s.markClk q v - s.rf R.QRY_LADDER F.QRY_LADDER_LEAD)

/-! ### Steps -/

/-- What waits in the descriptor queue of slice `n` is put aside for its own sequencer's replay: those sectors are missed while it runs. -/
def State.stashQueued (s : State) (n : Nat) : State :=
  let x := s.qents n
  let t := s.setQents n (x.filter fun y => y.2 ≠ .queued)
  t.setSeq n { t.seq n with missed := (t.seq n).missed ++ ((x.filter fun y => y.2 = .queued).map Prod.fst) }

/-- The live sectors that passed while their slice replayed itself are decoded from the ring, one after another, as their step 0; from the first
that the ring does not hold on, they wait for the head again, in front of what has been queued since (R254). -/
def State.catchUp (s : State) (n : Nat) : State :=
  let x := s.seq n
  match x.missed with
  | [] => if x.catching.isSome then (s.setSeq n { x with catching := none }).setSource n 0 else s
  | d :: rest =>
    match s.ladderMark n d with
    | some v =>
      let t := (s.stashQueued n).ladderReplay n n none v
      if (t.slice n).playing then
        (t.setQents n (t.qents n ++ [(d, .queued)])).setSeq n { t.seq n with missed := (t.seq n).missed.tail, catching := some d }
      else (t.setQents n ((t.seq n).missed.map (fun y => (y, .queued)) ++ t.qents n)).setSeq n { t.seq n with missed := [], catching := none }
    | none =>
      let t := (s.setSource n 0).setSeq n { x with missed := [], catching := none }
      t.setQents n (((t.qents n).filter fun y => y.2 ≠ .queued) ++ (d :: rest).map (fun y => (y, .queued))
        ++ (t.qents n).filter fun y => y.2 = .queued)

/-- The sector is recovered at the ladder's step, or lost: the ladder ends, and the sectors it made its slice miss are caught up. -/
def State.ladderEnd (s : State) (n : Nat) (l : Ladder) : State :=
  let r := s.ladderThr l false
  let t := (r.1.ladderCommit r.2).setLadder n none
  let u := t.setSeq n { t.seq n with held := (t.seq n).held.filter fun q => q.1 ≠ l.ctx }
  if l.slice = n then (u.setSource n 0).catchUp n else u.setSource l.slice 0

/-- Step 7: a read of the context fails (R131), OBJ_VERIFY with VERIFY_LOST; what a survey has lost is recorded for its band (R161, R257). -/
def State.ladderLost (s : State) (n : Nat) (l : Ladder) : State :=
  let t := s.ladderEnd n { l with step := 7 }
  let c := t.ctx l.ctx
  if c.origin ≤ 1 && (c.state = cNew || c.state = cPort || c.state = cMedia) then
    t.setStatus l.ctx (if (c.proto = 1 && c.opcode = 0x94) || (c.proto = 2 && c.opcode = 0xD4) then stObject c.proto 0xB
      else stReadError c.proto)
  else if l.bad.desc.sys then t
  else { t with way := { t.way with found := l.bad.desc.psa :: t.way.found.filter (· ≠ l.bad.desc.psa) } }

/-- The bands of a row that cannot be read: the sector's own, and those whose sector there is known lost. -/
def State.rowOut (s : State) (psa b : Nat) : Bool :=
  (s.bandOfPsa psa).any fun q =>
    b = q.1 || s.way.map.any fun e => e.2 = s.bandPsa b q.2 && s.way.lost.contains e.1

/-- The user bytes of a sector from the row's other members (R151): a copy's are its partner's, a parity member's the sum of the data members, and
a data member's the XOR of P[0] and the others where it is the only one missing. With more missing the equations of the row have the one
solution that the sector held. -/
def State.rowBytes (s : State) (psa : Nat) : Option Nat :=
  match s.bandOfPsa psa, s.groupRow psa with
  | some (b, _), some (gn, r) => (s.group gn).bind fun g =>
    let i := g.members.idxOf (some b)
    let k := dataMembers g.redund
    let gone := (List.range k).filter (s.memberGone (s.rowOut psa) gn g r)
    let p0 := ((g.members[k]?).join).filter fun c => !s.rowOut psa c && s.headReadable (s.bandSurf c)
    if k ≤ i then some (s.rowParity gn g (i - k) r)
    else if g.redund = 1 then (s.memberSector gn g 1 r).map Sector.data
    else match gone, p0.bind fun c => spGet s.way.media (s.bandPsa c r) with
      | [_], some p => some (((List.range k).filter (· ≠ i)).foldl (fun v j => v ^^^ s.rowData gn g r j) p.data)
      | _, _ => (spGet s.way.media psa).map Sector.data
  | _, _ => none

/-- Step 6: the sector's bytes from the group's redundancy, written to the destination; without them it is lost. Each other member of the row is
read with the ladder up to step 5: one that is known lost, or whose head cannot be read, does not come (DEDUCED). -/
def State.ladderRebuild (s : State) (n : Nat) (l : Ladder) : State :=
  let psa := l.bad.desc.psa
  match spGet s.way.media psa, s.rowBytes psa with
  | some x, some v =>
    if !l.bad.desc.sys && s.recoverable (s.rowOut psa) psa then
      let w := s.dmaWrite (32 + n) qMedia l.bad.desc.dst 4128 (v + 2 ^ 32768 * x.metaBytes)
      if w.1 = .done then w.2.ladderEnd n { l with step := 6, bad := { l.bad with status := qOk } } else w.2.ladderLost n l
    else s.ladderLost n l
  | _, _ => s.ladderLost n l

/-- Step 5: the sector is read again at the next revolution, up to REV_MAX of them; then step 6. -/
def State.ladderReread (s : State) (n : Nat) (l : Ladder) : State :=
  let r := s.ladderThr l false
  if r.2.revs < s.rf R.QRY_LADDER F.QRY_LADDER_REV_MAX then
    let l1 := { r.2 with step := max 5 r.2.step, wait := .live, revs := r.2.revs + 1, todo := [] }
    let t := (r.1.setSource l1.slice 0).ladderCommit r.2
    (t.setQents n (t.qents n ++ [({ l1.bad.desc with cls := 1, et := 0, iter := 0 }, .queued)])).setLadder n (some l1)
  else r.1.ladderRebuild n r.2

/-- SYNC_LOST of step 2 recorded in Cairn: no mark was found in any attempt (R255). -/
def State.syncLost (s : State) (l : Ladder) : State :=
  s.cairn 0 0x0007 (orgBlock 0x0E) (argOf [(6, l.bad.desc.psa), (1, l.bad.frame)])

/-- The present attempt begins: its replay and its re-frame. Without held samples the ladder goes to step 5. -/
def State.ladderTry (s : State) (n : Nat) (l : Ladder) (a : Attempt) : State :=
  let r := s.ladderThr l a.zero
  match r.1.ladderMark n r.2.bad.desc with
  | none => r.1.ladderReread n r.2
  | some v =>
    let t := r.1.ladderReframe n r.2 a v
    if (t.slice r.2.slice).playing then t.setLadder n (some { r.2 with wait := .frame })
    else (t.setSlice r.2.slice { t.slice r.2.slice with reframe := none }).ladderReread n r.2

/-- The ladder goes on with its next attempt, or with the first of the steps after `step` that has one, each step's end writing RETRY;
`fuel` is the number of steps left to look at. -/
def State.ladderNext (s : State) (n : Nat) (l : Ladder) (step : Nat) : Nat → State
  | 0 => s.ladderReread n l
  | f + 1 =>
    match l.todo with
    | a :: _ => s.ladderTry n l a
    | [] =>
      let r := s.ladderThr l false
      let t := r.1.ladderCommit r.2
      let u := if step = 2 && r.2.bad.reframes && !r.2.found then t.syncLost r.2 else t
      if 4 ≤ step then u.ladderReread n r.2
      else
        let next := { r.2 with step := max r.2.step (step + 1) }
        u.ladderNext n { next with todo := u.ladderTries next (step + 1) } (step + 1) f

/-- The step whose attempts the ladder is at, among steps 2 to 4. -/
def Ladder.at (l : Ladder) : Nat :=
  match l.todo with
  | a :: _ => if a.eq.isSome then 3 else if a.et ≠ 0 then 4 else 2
  | [] => 4

/-- The sector that the ladder of context `k` climbs with: the one it was at, with what RETRY says of it (R256), else the oldest of slice `n`
that was not OK and that no ladder has taken. -/
def State.ladderTake (s : State) (n k : Nat) : Option (BadSector × Nat) :=
  let old := (s.ctx k).retry
  match (s.seq n).held.find? fun q => q.1 = k with
  | some q =>
    some ((if old = 0 then q.2 else { q.2 with frame := old / 2 ^ 24 % 16, status := old / 2 ^ 28 % 16 }), old)
  | none => (s.badOf n).head?.map fun b => (b, 0)

/-- The ladder starts, at the step that RETRY names where it goes on with a sector (R256). -/
def State.ladderStart (s0 : State) (n k : Nat) : State :=
  match s0.ladderTake n k with
  | none => s0
  | some (b, old) =>
    let m := s0.ladderSlice n
    let s1 := if ((s0.seq n).held.find? fun q => q.1 = k).isSome then s0 else s0.setBad n (s0.badOf n).tail
    let s2 := s1.setSeq n { s1.seq n with held := (k, b) :: (s1.seq n).held.filter fun q => q.1 ≠ k }
    let s := if m = n then (s2.stashQueued n).setSeq n { (s2.stashQueued n).seq n with catching := none } else s2
    let decoded := b.status = qFail || b.status = qMiscorrect
    let l : Ladder :=
      { ctx := k, bad := b, slice := m, step := max 1 (old % 256), found := b.frame ≠ fNomark,
        anchors := if decoded then [b.anchor] else [],
        tries := if old = 0 then b2n decoded else old / 2 ^ 8 % 256, revs := old / 2 ^ 16 % 256 }
    let t := s.ladderLoad n m
    if old % 256 = 7 then t.ladderLost n l
    else if old % 256 = 6 then t.ladderRebuild n l
    else if old % 256 = 5 then t.ladderReread n l
    else t.ladderNext n { l with todo := t.ladderTries l l.step } l.step 6

/-- The head item of sequencer `n` is begun: a LADDER item starts the ladder. -/
def State.strBegin (s : State) (n : Nat) : State :=
  match s.wqHead n with
  | some (kind, k) => if n < 8 && kind = wkLadder && (s.seq n).ladder.isNone then s.ladderStart n k else s
  | none => s

/-- The ladder's routine is abandoned: what it set in the replaying slice is put back, and it starts again from RETRY (R256). -/
def State.ladderDrop (s : State) (n : Nat) : State :=
  match (s.seq n).ladder with
  | none => s
  | some l =>
    let r := s.ladderThr l false
    ((r.1.setSource l.slice 0).setSlice l.slice { (r.1.setSource l.slice 0).slice l.slice with reframe := none }).setLadder n none

/-! ### What moves a ladder on -/

/-- The sequencer whose ladder replays on slice `m`. -/
def State.ladderOf (s : State) (m : Nat) : Option (Nat × Ladder) :=
  (List.range 8).findSome? fun n => match (s.seq n).ladder with
    | some l => if l.slice = m then some (n, l) else none
    | none => none

/-- Before a re-framed sector is handed over: its descriptor, unless it is step 2's and its anchor has been decoded already. -/
def State.ladderPush (s : State) (m result : Nat) (anchor : Int) : State :=
  match s.ladderOf m with
  | some (n, l) =>
    let again := l.todo.head?.any fun a => a.eq.isSome || a.et ≠ 0
    if l.wait ≠ .frame || result = fNomark || result = fAborted || (!again && l.anchors.contains anchor) then s
    else
      let d : Desc :=
        { l.bad.desc with cls := 1, et := (l.todo.head?.map Attempt.et).getD 0, iter := s.rf R.QRY_CFG F.QRY_CFG_ITER_MAX }
      let t := if n = m then s.stashQueued m else s
      t.setQents m (t.qents m ++ [(d, .queued)])
  | none => s

/-- A re-frame of the ladder's sector has its result (R255). -/
def State.ladderFramed (s : State) (m result : Nat) (anchor : Int) (pushed : Bool) : State :=
  match s.ladderOf m with
  | some (n, l) =>
    if l.wait ≠ .frame then s
    else
      let found := l.found || (result ≠ fForced && result ≠ fNomark && result ≠ fAborted)
      let l1 := { l with tries := l.tries + 1, found, bad := { l.bad with frame := result } }
      if result = fAborted then s.ladderReread n l1
      else if pushed then s.setLadder n (some { l1 with wait := .decode, anchors := anchor :: l1.anchors })
      else s.ladderNext n { l1 with todo := l1.todo.tail } l1.at 6
  | none => s

/-- The replay of a sector that is caught up ended before the sector was framed: it waits for the head again. -/
def State.catchMissed (s : State) (m : Nat) : State :=
  match (s.seq m).catching with
  | some d =>
    if (s.qents m).any (fun y => decide (y = (d, .queued))) then
      let t := s.setQents m ((s.qents m).filter fun y => y ≠ (d, .queued))
      let u := (t.setSeq m { t.seq m with missed := [], catching := none }).setSource m 0
      u.setQents m ((d :: (t.seq m).missed).map (fun y => (y, .queued)) ++ u.qents m)
    else s
  | none => s

/-- The replay ended before the sector came: as an aborted attempt. -/
def State.ladderMissed (s : State) (m : Nat) : State :=
  match s.ladderOf m with
  | some (n, l) => if l.wait = .frame && (s.slice m).reframe.isNone then s.ladderReread n l else s
  | none => s.catchMissed m

/-- A sector caught up from the ring has its completion: the next one's turn. -/
def State.catchPosted (s : State) (m : Nat) (c : Cpl) : State :=
  if ((s.seq m).catching.map Desc.sector) = some c.sector then s.catchUp m else s

/-- A completion of slice `m`, of the sector anchored at `anchor`, is posted: the ladder takes it from the queue when it is the one it waits for.
A sector recovered on another revolution's samples climbs again from step 2 on those (R254). -/
def State.ladderPosted (s : State) (m : Nat) (c : Cpl) (anchor : Int) : State :=
  match (List.range 8).findSome? fun n => match (s.seq n).ladder with
      | some l => if (l.wait = .decode && l.slice = m) || (l.wait = .live && n = m) then some (n, l) else none
      | none => none with
  | some (n, l) =>
    if c.sector ≠ l.bad.desc.sector then s
    else
      let t := s.setQcpls m ((s.qcpls m).dropLast)
      let b : BadSector := { l.bad with status := c.status, frame := c.frame }
      let l1 := { l with tries := l.tries + 1, bad := b }
      if c.status = qOk then t.ladderEnd n l1
      else if l.wait = .live then
        if c.status = qAborted then t.ladderReread n l1
        else
          let decoded := c.status = qFail || c.status = qMiscorrect
          let l2 := { l1 with anchors := if decoded then [anchor] else [], found := l1.found || c.frame ≠ fNomark, wait := .frame }
          t.ladderNext n { l2 with todo := t.ladderTries l2 2 } 2 6
      else t.ladderNext n { l1 with todo := l1.todo.tail } l1.at 6
  | none => s.catchPosted m c

end Sys2Proof.Machine
end

