-- ==== Sys2Proof/Machine/StrOps.lean ====
section
/-!
DEFINITION. Sys2Proof/Machine/StrOps.lean: the shared operations of the Strata sequencers: fetch and registers (R389, R390), nano-words
(R391), events and abandonment (R395 to R397), restart and patches (R398 to R400).
-/

namespace Sys2Proof.Machine

/-- STATE codes of STRn_STAT. -/
def ssIdle : Nat := 0
def ssRun : Nat := 1
def ssWait : Nat := 2
def ssHandler : Nat := 3
def ssStopped : Nat := 4

/-- Abandon causes of STRn_FLT. -/
def scFault : Nat := 1
def scGate : Nat := 2
def scHandover : Nat := 3
def scHaven : Nat := 4
def scAbort : Nat := 5
def scIllegal : Nat := 6
def scHandler : Nat := 7

/-- STATE, PC and the restart point of sequencer `n`. -/
def State.strSt (s : State) (n : Nat) : Nat := s.rf (R.STR_STAT n) F.STR_STAT_STATE
def State.setStrSt (s : State) (n st : Nat) : State := s.wf (R.STR_STAT n) F.STR_STAT_STATE st
def State.strPc (s : State) (n : Nat) : Nat := s.rf (R.STR_STAT n) F.STR_STAT_PC
def State.strRp (s : State) (n : Nat) : Nat := s.rf (R.STR_RP n) F.STR_RP_ADDR

/-- The sequencer holds: on FAULTED of its stream, or on a key slot that is not LOADED (R395, R422). -/
def State.strHeld (s : State) (n : Nat) : Bool :=
  s.flag (R.STR_STAT n) F.STR_STAT_HELD
    || (match (s.seq n).keyHold with
      | some k => s.keyState k ≠ ksLoaded
      | none => false)

/-! ### General registers -/

/-- G[r]; G0 reads zero (R389). -/
def State.g (s : State) (n r : Nat) : Word := spGetD 0 (s.seq n).g r

/-- G[r] written; a write of G0 has no effect. -/
def State.setG (s : State) (n r : Nat) (v : Word) : State :=
  if r = 0 then s else s.setSeq n { s.seq n with g := spSet 0 (s.seq n).g r v }

/-! ### Events (R395, R396) -/

/-- The event whose handler serves a cause: ILLEGAL is a FAULT. -/
def eventOf (cause : Nat) : Nat := if cause = scIllegal then scFault else cause

/-- A running routine is abandoned, counted; G16 to G31 return to what ROUTINE saved; the slots, the stack and the write gate
go (R396, steps 1 to 4). Waymark places an abandoned write run again (R156). -/
def State.strDrop (s : State) (n : Nat) : State :=
  let x := s.seq n
  let g := if x.routine then (x.g.filter fun q => q.1 < 16) ++ x.saved else x.g
  let s1 := s.setSeq n { x with g, routine := false, slots := [], stack := [], wait := none }
  let s2 := if x.routine then
      (s1.raise (R.STR_EVT n) F.STR_EVT_ABANDON).countUp (R.STR_CNT n) F.STR_CNT_ABANDONS 1
    else s1
  if n < 8 then s2.ladderDrop n
  else
    let s3 := if s2.gateOpen (n - 8) then s2.closeGate (n - 8) else s2
    let s4 := s3.setWc (n - 8) { s3.wc (n - 8) with abandon := false, waiting := false, run := none, sent := none }
    match x.wq.head? with
    | some (kind, k) =>
      if kind = wkWrite && (x.routine || (s4.work k).begun) && (s4.work k).placed && !(s4.work k).discarded
          && (s4.orphanAt (n - 8) k).isNone then s4.rePlace k
      else s4
    | none => s4

/-- Restart (R400): READY clears, the routine goes without a handler, Quarry's queues and the sequencer's stores are cleared,
and the patches are to be applied afresh; the work queue stays. A restart during a restart is absorbed into it. -/
def State.strRestart (s : State) (n : Nat) (cause : Option Nat) (report : Bool) : State :=
  if s.flag (R.STR_STAT n) F.STR_STAT_RESTARTING then s
  else
    let s0 := match cause with
      | some c => (s.wf (R.STR_FLT n) F.STR_FLT_CAUSE c).wf (R.STR_FLT n) F.STR_FLT_PC (s.strPc n)
      | none => s
    let s1 := ((s0.setStrReady n false).raise (R.STR_STAT n) F.STR_STAT_RESTARTING).strDrop n
    let s2 := if n < 8 then s1.qryDiscard n else s1
    let s3 := s2.setSeq n { wq := (s2.seq n).wq, handTo := (s2.seq n).handTo, held := (s2.seq n).held, down := true }
    let s4 := (List.range 64).foldl (fun t k => t.wr (R.STR_MATCH n k) 0) s3
    let s5 := ((s4.wf (R.STR_STAT n) F.STR_STAT_HELD 0).setStrSt n ssStopped).wf (R.STR_STAT n) F.STR_STAT_PC 0
    let s55 := (((s5.wr (R.STR_PSTAT n) 0).wr (R.STR_PVER n) 0).wr (R.STR_PMASK_LO n) 0).wr (R.STR_PMASK_HI n) 0
    let s6 := { s55 with patchQueue := if s55.patchQueue.contains n then s55.patchQueue else s55.patchQueue ++ [n] }
    let s7 := s6.countUp (R.STR_CNT n) F.STR_CNT_RESTARTS 1
    if report then s7.report 12 2 else s7

/-- The head item moves to the queue of the receiving slice's sequencer; Haven empties the queue (R395). -/
def State.strItems (s : State) (n cause : Nat) : State :=
  let x := s.seq n
  if cause = scHaven then s.setSeq n { x with wq := [] }
  else if cause = scHandover then
    match x.handTo, x.wq with
    | some m, (kind, k) :: rest => (s.setSeq n { x with wq := rest, handTo := none }).wqAdd m kind k
    | _, _ => s.setSeq n { x with handTo := none }
  else s

/-- The address a fetch of `a` uses: an enabled match register redirects it. -/
def State.strRedirect (s : State) (n a : Nat) : Nat :=
  match (List.range 64).find? fun k => s.flag (R.STR_MATCH n k) F.STR_MATCH_EN && s.rf (R.STR_MATCH n k) F.STR_MATCH_ROM_ADDR = a with
  | some k => if a < 0x10000 then 0x10000 + s.rf (R.STR_MATCH n k) F.STR_MATCH_PADDR else a
  | none => a

/-- An address that holds a word: the ROM, or a patch-memory word in use. -/
def State.strMapped (s : State) (n a : Nat) : Bool :=
  a < 0x10000 || (a < 0x11000 && (spGet (s.seq n).pmem (a - 0x10000)).isSome)

/-- The ROM handler of an event runs (R396, step 5), from where a match register redirects it (R399); without a word there it is a FAULT
in a handler (R389, R397). -/
def State.strEnter (s : State) (n cause : Nat) : State :=
  let s1 := s.setSeq n { s.seq n with handler := some cause }
  let b := s1.strRedirect n (Config.strEntry (eventOf cause) % 0x10000)
  let s2 := (s1.setStrSt n ssHandler).wf (R.STR_STAT n) F.STR_STAT_PC b
  if s2.strMapped n b then s2 else s2.strRestart n (some scHandler) true

/-- An abandoning event taken (R395, R396). -/
def State.strAbandon (s : State) (n cause : Nat) : State :=
  let s1 := (s.wf (R.STR_FLT n) F.STR_FLT_CAUSE cause).wf (R.STR_FLT n) F.STR_FLT_PC (s.strPc n)
  let s2 := if eventOf cause = scFault then s1.raise (R.STR_EVT n) F.STR_EVT_FAULT else s1
  ((s2.strDrop n).strItems n cause).strEnter n cause

/-- An abandoning event other than FAULT arrives: held while a handler runs (R396). -/
def State.strEvent (s : State) (n cause : Nat) : State :=
  if !s.strReady n then s.strItems n cause
  else if (s.seq n).handler.isSome then
    let x := s.seq n
    if x.events.contains cause then s else s.setSeq n { x with events := x.events ++ [cause] }
  else if s.strSt n = ssIdle then s.strItems n cause
  else s.strAbandon n cause

/-- A FAULT: in a handler it restarts the sequencer (R397); else it abandons, and the sequencer holds while its stream is
FAULTED (R395). -/
def State.strFault (s : State) (n cause : Nat) : State :=
  if !s.strReady n then s
  else if (s.seq n).handler.isSome then s.strRestart n (some scHandler) true
  else
    let s1 := s.strAbandon n cause
    if s1.flag (R.TRN_SCTX (strStream n)) F.TRN_SCTX_FAULTED && cause = scFault then s1.raise (R.STR_STAT n) F.STR_STAT_HELD
    else s1

/-- A use of a key slot that is EMPTY or LOST: a FAULT that holds until the slot is LOADED (R422). -/
def State.strNoKey (s : State) (n k : Nat) : State :=
  let s1 := s.strFault n scFault
  if (s1.seq n).handler.isSome then s1.setSeq n { s1.seq n with keyHold := some k } else s1

/-- The next word is at `a`; an address without a word is an ILLEGAL fault. -/
def State.strGo (s : State) (n a : Nat) : State :=
  let b := s.strRedirect n (a % 2 ^ 17)
  let s1 := s.wf (R.STR_STAT n) F.STR_STAT_PC b
  if s1.strMapped n b then s1 else s1.strFault n scIllegal

/-- The word after the one that issues. -/
def State.strNext (s : State) (n : Nat) : State := s.strGo n (s.strPc n + 1)

/-- The bits of a vertical word that R390 gives its OP. -/
def vMask (op : Nat) : Nat :=
  match op with
  | 0x01 => 0xFFFFF00F
  | 0x03 => 0xFFC0FFFF
  | 0x04 => 0xFFF9FFFF
  | 0x05 => 0xF801FFFF
  | 0x0D => 0xF800FFFF
  | 0x0E => 0xFFFFC000
  | 0x00 => 0xF8000000
  | 0x06 => 0xF8000000
  | 0x0F => 0xF8000000
  | _ => 0xFFFFFFFF

/-- Sequencer `n` issues the vertical word `w`: it is ready, holds on nothing, runs a routine or a handler, and where its PC
lies in patch memory the word there has the fields of `w`. The ROM's content is Boraeri's. -/
def State.strIssues (s : State) (n w : Nat) : Bool :=
  s.strReady n && !s.strHeld n && (s.strSt n = ssRun || s.strSt n = ssHandler)
    && (s.strPc n < 0x10000 || ((spGet (s.seq n).pmem (s.strPc n - 0x10000)).map fun x => x &&& word (vMask (w / 2 ^ 27 % 32))) = some (word w))

/-- A vertical word with the effect `f`. -/
def State.strWord (s : State) (n w : Nat) (f : State → State) : State := if s.strIssues n w then f s else s

/-- Fields of a vertical word (R390). -/
def vOp (op : Nat) : Nat := op * 2 ^ 27
def vD (d : Nat) : Nat := d * 2 ^ 22
def vA (a : Nat) : Nat := a * 2 ^ 17
def vB (b : Nat) : Nat := b * 2 ^ 12

/-- GA + IMM17. -/
def State.strAddr (s : State) (n ga : Nat) (imm : BitVec 17) : Nat := (s.g n ga + word (bitsOf 32 (signedOf 17 imm.toNat))).toNat

/-- The result of an ALU word; a shift of 32 or more and an FN that the table does not list give a free value. -/
def aluResult (fn : Nat) (a b free : Word) : Word :=
  let lt := decide (a.toInt < b.toInt)
  match fn with
  | 0 => a + b
  | 1 => a - b
  | 2 => a &&& b
  | 3 => a ||| b
  | 4 => a ^^^ b
  | 5 => if b.toNat < 32 then a <<< b.toNat else free
  | 6 => if b.toNat < 32 then a >>> b.toNat else free
  | 7 => if b.toNat < 32 then a.sshiftRight b.toNat else free
  | 8 => if lt then a else b
  | 9 => if lt then b else a
  | 10 => word (b2n lt)
  | 11 => word (b2n (a = b))
  | _ => free

/-- COND of BR; codes 6 and 7 are not listed: the choice is free. -/
def State.brTaken (s : State) (n cond : Nat) (a : Word) : Bool :=
  match cond with
  | 0 => true
  | 1 => a = 0
  | 2 => a ≠ 0
  | 3 => a.toInt < 0
  | 4 => 0 ≤ a.toInt
  | 5 => (s.seq n).tmo
  | _ => Config.freeChoice 2 s.fresh % 2 = 1

/-! ### Scratch -/

/-- Word `w` of the scratch SRAM. -/
def State.scratch (s : State) (n w : Nat) : Word := spGetD 0 (s.seq n).scratch (w % 1024)

/-- Bytes of scratch from a word address. -/
def State.scratchBytes (s : State) (n a words : Nat) : Nat := argOf ((List.range words).map fun i => (4, (s.scratch n (a / 4 + i)).toNat))

/-! ### Nano-words (R391, R423) -/

/-- Fields of a nano-word. -/
structure Nano where
  rep : Nat
  mem : Nat
  slot : Nat
  aes : Nat
  key : Nat
  twk : Nat
  crc : Nat
  scr : Nat
  ch : Nat
  xor : Nat
  slot2 : Nat
deriving DecidableEq, Repr

/-- Bits [hi:lo] of a 128-bit word. -/
def nanoBits (w hi lo : Nat) : Nat := w / 2 ^ lo % 2 ^ (hi + 1 - lo)

/-- The fields of `w`. -/
def nanoOf (w : Nat) : Nano :=
  { rep := nanoBits w 127 120, mem := nanoBits w 119 117, slot := nanoBits w 116 114, aes := nanoBits w 113 111,
    key := nanoBits w 110 99, twk := nanoBits w 98 96, crc := nanoBits w 95 93, scr := nanoBits w 92 90,
    ch := nanoBits w 89 87, xor := nanoBits w 86 84, slot2 := nanoBits w 83 81 }

/-- Nano-word `a`: the ROM's word is given; words 448 to 511 are the patchable ones. -/
def State.nanoWord (s : State) (n a : Nat) (rom : Nat) : Nat := if a < 448 then rom else spGetD 0 (s.seq n).nanos a

/-- A data slot. -/
def State.dslot (s : State) (n k : Nat) : Nat := spGetD 0 (s.seq n).slots k
def State.setDslot (s : State) (n k v : Nat) : State :=
  s.setSeq n { s.seq n with slots := spSet 0 (s.seq n).slots k (v % 2 ^ 512) }

/-- A nano issue goes on, or has ended in a fault. -/
structure Issue where
  st : State
  okay : Bool := true

/-- A unit's part of an issue. -/
def Issue.then (x : Issue) (f : State → Issue) : Issue := if x.okay then f x.st else x

/-- GA advances by 64 after a MEM operation. -/
def State.nanoStep (s : State) (n ga : Nat) : State := s.setG n ga (s.g n ga + 64)

/-- MEM: 64 bytes through stream 32 + n (R391). -/
def State.nanoMem (s : State) (n ga : Nat) (x : Nano) (op : Nat) : Issue :=
  if x.mem ≠ op then { st := s }
  else if op = 1 then
    let q := s.dmaRead (strStream n) qMedia (s.g n ga).toNat 64
    match q.1 with
    | .done => { st := (q.2.2.setDslot n x.slot q.2.1).nanoStep n ga }
    | _ => { st := q.2.2.strFault n scFault, okay := false }
  else
    let q := s.dmaWrite (strStream n) qMedia (s.g n ga).toNat 64 (s.dslot n x.slot)
    match q.1 with
    | .done => { st := q.2.nanoStep n ga }
    | _ => { st := q.2.strFault n scFault, okay := false }

/-- The four blocks of a slot. -/
def slotBlocks (v : Nat) : List Nat := (List.range 4).map fun i => rdLe v (16 * i) 16

/-- TWK and AES with the keys of slot KEY (R420, R422, R423); the DUN stands in scratch where GB names it. -/
def State.nanoAes (s : State) (n gb : Nat) (x : Nano) (upset : Bool) : Issue :=
  let aes := decide (1 ≤ x.aes ∧ x.aes ≤ 4)
  if !aes && x.twk ≠ 1 then
    if x.twk = 2 then
      { st := s.setSeq n { s.seq n with tweak := xtsAlpha (xtsAlpha (xtsAlpha (xtsAlpha (s.seq n).tweak))) } }
    else { st := s }
  else
    let q := s.seqKey n x.key upset
    match q.1 with
    | .foreign => { st := if aes then q.2.setDslot n x.slot 0 else q.2 }
    | .missing => { st := q.2.strNoKey n x.key, okay := false }
    | .key bits =>
      let t := q.2
      let dun := t.scratchBytes n (t.g n gb).toNat 4
      let tw := if x.twk = 1 then aesBlock (keyHalf bits true) false dun else (t.seq n).tweak
      let r := aesBlocks x.aes (keyHalf bits false) (x.twk = 2) (slotBlocks (t.dslot n x.slot)) tw
      let u := t.setSeq n { t.seq n with tweak := if aes then r.2 else tw }
      { st := if aes then u.setDslot n x.slot (argOf (r.1.map fun b => (16, b))) else u }

/-- CRC (R209): the address field stands in scratch where GB names it. -/
def State.nanoCrc (s : State) (n gb : Nat) (x : Nano) : State :=
  let c := (s.seq n).crc
  let feed := fun (v k : Nat) => (leBytes v k).foldl crc64Byte c
  match x.crc with
  | 1 => s.setSeq n { s.seq n with crc := 0xFFFFFFFFFFFFFFFF }
  | 2 => s.setSeq n { s.seq n with crc := feed (s.scratchBytes n (s.g n gb).toNat 2) 6 }
  | 3 => s.setSeq n { s.seq n with crc := feed (s.dslot n x.slot) 64 }
  | 4 =>
    let p := Config.crcPlace % 57
    let v := s.dslot n x.slot
    s.setDslot n x.slot (v - rdLe v p 8 * 2 ^ (8 * p) + (c ^^^ 0xFFFFFFFFFFFFFFFF) * 2 ^ (8 * p))
  | _ => s

/-- The first `n` bits of a slot, each byte bit 7 first, as a number, scrambled from register `r`. -/
def scramSlot (v r : Nat) : Nat :=
  bytesLe ((List.range 64).map fun i =>
    (List.range 8).foldl (fun a k =>
      let bit := rdLe v i 1 / 2 ^ (7 - k) % 2 = 1
      let sc := ((scrBits r 512)[8 * i + k]?).getD false
      2 * a + b2n (bit != sc)) 0)

/-- The register after `n` steps. -/
def scrRun : Nat → Nat → Nat
  | r, 0 => r
  | r, n + 1 => scrRun (scrStep r) n

/-- SCR (R210). -/
def State.nanoScr (s : State) (n gb : Nat) (x : Nano) : State :=
  match x.scr with
  | 1 =>
    let r := ((s.g n gb).toNat % 2 ^ 23) ^^^ 0x555555
    s.setSeq n { s.seq n with scr := if r = 0 then 1 else r }
  | 2 =>
    let r := (s.seq n).scr
    (s.setDslot n x.slot (scramSlot (s.dslot n x.slot) r)).setSeq n
      { (s.setDslot n x.slot (scramSlot (s.dslot n x.slot) r)).seq n with scr := scrRun r 512 }
  | _ => s

/-- XOR. -/
def State.nanoXor (s : State) (n : Nat) (x : Nano) : State :=
  if x.xor = 1 then s.setDslot n x.slot2 (s.dslot n x.slot2 ^^^ s.dslot n x.slot) else s

/-- The precompensation profile of write channel `a`: the one taken with ACTa_WC_SEL, or that of the zone selected since reset
(R198). -/
def State.wcProf (s : State) (a : Nat) : Word :=
  match (s.wc a).prof with
  | some v => v
  | none => s.rd (R.ACT_WC_PROF a
      (((s.zone (s.wcHead a) (s.rf (R.ACT_WC_SEL a) F.ACT_WC_SEL_ZONE)).map Zone.precomp).getD 0))

/-- The early shift in 1/64 bit cell of a transition at distance `d` from the one before it (R199). -/
def earlyShift (prof : Word) (d : Nat) : Nat :=
  match d with
  | 1 => fget prof F.ACT_WC_PROF_E1
  | 2 => fget prof F.ACT_WC_PROF_E2
  | 3 => fget prof F.ACT_WC_PROF_E3
  | _ => 0

/-- Channel bits to the write output: the times of their transitions in 1/64 bit cell from the gate's opening, each written early
by its profile where precompensation is on; the first after the gate opened is not shifted (R199). -/
def writeBits (prof : Word) (en : Bool) : List Bool → WcState → WcState × List Nat
  | [], x => (x, [])
  | b :: rest, x =>
    let turn := match x.level with
      | some l => l != b
      | none => false
    let shift := match x.last with
      | some j => if en then earlyShift prof (x.pos - j) else 0
      | none => 0
    let r := writeBits prof en rest { x with pos := x.pos + 1, level := some b, last := if turn then some x.pos else x.last }
    (r.1, if turn then (64 * x.pos - shift) :: r.2 else r.2)

/-- Bits that follow one another on the track go to the write output: the polarity of the first, and the transitions. -/
def State.writeSpan (s : State) (a : Nat) (bits : List Bool) : State :=
  let q := writeBits (s.wcProf a) (s.flag (R.ACT_WC_CTL a) F.ACT_WC_CTL_PRECOMP_EN) bits (s.wc a)
  (s.setWc a q.1).emit (.signal (0x30 + a) (b2n (bits.headD false) :: q.2))

/-- The span of a track from bit `b` on; the output is idle across the wedge span before it, and the next transition is the first of its
span. -/
def State.writeBehind (s : State) (a b : Nat) (bits : List Bool) : State :=
  let x := s.wc a
  match x.run with
  | none => s.writeSpan a bits
  | some r =>
    let y := if b = r.edge then x else { x with pos := x.pos + (b - r.edge), level := none, last := none }
    (s.setWc a { y with run := some { r with edge := b + bits.length } }).writeSpan a bits

/-- A slot's 512 bits go to write channel `a` while its gate is open; with the gate closed the write output is idle (R198, R202). The bits of
a run that lie behind a wedge are written with its relock field in front of them, nothing is written across a wedge span or past the
last sector of the run or of the track, and behind that one's splice the gate closes (R205, R207). -/
def State.writeSlot (s : State) (a v : Nat) : State :=
  let bits := bytesToBits (leBytes v 64)
  if !s.gateOpen a then s
  else match (s.wc a).run with
  | none => s.writeSpan a bits
  | some r =>
    let l := bits.take r.left
    let t := (r.geo.spans r.next l).foldl (fun t q => t.writeBehind a q.1 q.2) s
    let x := t.wc a
    let u := t.setWc a { x with run := x.run.map fun y => { y with next := r.next + l.length, left := r.left - l.length } }
    if r.left ≤ bits.length then (u.closeGate a).setWc a { (u.closeGate a).wc a with run := none, sent := some r.key } else u

/-- CH: the slot goes to the write channel, or the framer's output comes in: in the Touchstone format the next 64 bytes read (R220). -/
def State.nanoCh (s : State) (n : Nat) (x : Nano) (frame : Nat) : State :=
  match x.ch with
  | 1 => if 8 ≤ n then s.writeSlot (n - 8) (s.dslot n x.slot) else s
  | 2 =>
    if 8 ≤ n then s
    else if s.flag (R.LD_FRM_CTL n) F.LD_FRM_CTL_TS then
      let q := s.tsTake n 64
      q.2.setDslot n x.slot q.1
    else s.setDslot n x.slot frame
  | _ => s

/-- One issue: a MEM read, TWK and AES, CRC, SCR, XOR, CH, a MEM write, in this order. -/
def State.nanoIssue (s : State) (n ga gb : Nat) (x : Nano) (frame : Nat) (upset : Bool) : Issue :=
  (((s.nanoMem n ga x 1).then fun a => a.nanoAes n gb x upset).then fun b =>
    { st := ((((b.nanoCrc n gb x).nanoScr n gb x).nanoXor n x).nanoCh n x frame) }).then fun c => c.nanoMem n ga x 2

/-- `k` issues, the framer's output taken issue by issue; what the list does not give is free. -/
def State.nanoRun (s : State) (n ga gb : Nat) (x : Nano) (upset : Bool) : List (BitVec 512) → Nat → Issue
  | _, 0 => { st := s }
  | frames, k + 1 =>
    let f := match frames with
      | v :: _ => (v.toNat, s)
      | [] => s.free 512
    (f.2.nanoIssue n ga gb x f.1 upset).then fun t => t.nanoRun n ga gb x upset frames.tail k

/-! ### Patches (R398, R399) -/

/-- Failure codes of STRn_PSTAT. -/
def pfFlash : Nat := 2
def pfDigest : Nat := 3
def pfSignature : Nat := 4
def pfRomver : Nat := 5
def pfApplies : Nat := 6
def pfFit : Nat := 7

/-- Sixteen bytes reversed. -/
def rev16 (v : Nat) : Nat := (List.range 16).foldl (fun a i => a * 256 + rdLe v i 1) 0

/-- The plaintext of a body of `n` blocks: AES-256 CTR from NONCE, counting up as a big-endian number. -/
def patchPlain (nonce body : Nat) (n : Nat) : Nat :=
  argOf ((List.range n).map fun i =>
    (16, rdLe body (16 * i) 16 ^^^ aesBlock Config.patchKey false (rev16 ((rev16 nonce + i) % 2 ^ 128))))

/-- A patch's content, to be applied. -/
structure PatchBody where
  base : Nat
  words : List Word
  matches_ : List (Nat × Nat)
  nanos : List (Nat × Nat)
deriving DecidableEq, Repr

/-- The body laid out as R398 gives. -/
def patchBody (p : Nat) : PatchBody :=
  let m := rdLe p 2 2
  let w := rdLe p 4 2
  { base := rdLe p 0 2,
    matches_ := (List.range m).map fun i => (rdLe p (16 + 4 * i) 2, rdLe p (18 + 4 * i) 2),
    words := (List.range w).map fun i => word (rdLe p (16 + 4 * m + 4 * i) 4),
    nanos := (List.range (rdLe p 6 2)).map fun i =>
      (rdLe p (16 + 4 * m + 4 * w + 20 * i) 2, rdLe p (20 + 4 * m + 4 * w + 20 * i) 16) }

/-- The header of an image is as R398 gives, its reserved bytes zero (DESIGN CHOICE), and its length fits. -/
def patchHeader (img len : Nat) : Bool :=
  let b := rdLe img 0xC 4
  rdLe img 0 4 = 0x54415053 && rdLe img 4 2 = 0x0100 && rdLe img 6 2 / 2 ^ 12 = 0 && b % 16 = 0 && b ≤ 32768
    && rdLe img 0x20 32 = 0 && len = 0x40 + b + 96

/-- The SIG over the header and the encrypted body. -/
def patchSigned (img : Nat) : Bool :=
  let b := rdLe img 0xC 4
  ecdsaP384 Config.patchPub (rdLe img (0x40 + b) 96) (0x40 + b) (img % 2 ^ (8 * (0x40 + b)))

/-- The FIT check of a body behind the ones that passed before it. -/
def patchFits (x : PatchBody) (before : List PatchBody) : Bool :=
  let rom := before.flatMap fun y => y.matches_.map Prod.fst
  let mine := x.matches_.map Prod.fst
  let nan := before.flatMap fun y => y.nanos.map Prod.fst
  let myn := x.nanos.map Prod.fst
  x.base + x.words.length ≤ 4096
    && before.all (fun y => x.base + x.words.length ≤ y.base || y.base + y.words.length ≤ x.base || x.words.isEmpty
        || y.words.isEmpty)
    && rom.length + mine.length ≤ 64 && (rom ++ mine).eraseDups.length = rom.length + mine.length
    && (nan ++ myn).eraseDups.length = nan.length + myn.length && myn.all fun i => 448 ≤ i && i ≤ 511

/-- The checks of one entry for sequencer `n`, in order (R399); none for an image that flash does not give. -/
def patchCheck (n : Nat) (e : PatchEntry) (img : Option Nat) (before : List PatchBody) : Nat ⊕ PatchBody :=
  match img with
  | none => .inl pfFlash
  | some v =>
    if sha384 e.len v ≠ e.digest then .inl pfDigest
    else if !patchHeader v e.len || !patchSigned v then .inl pfSignature
    else if rdLe v 8 4 ≠ Config.romVer.toNat then .inl pfRomver
    else if !bitAt (rdLe v 6 2) n then .inl pfApplies
    else
      let x := patchBody (patchPlain (rdLe v 0x10 16) (v / 2 ^ (8 * 0x40)) (rdLe v 0xC 4 / 16))
      if patchFits x before then .inr x else .inl pfFit

/-- The entries that name sequencer `n`, with their places in PATCH. -/
def State.patchesOf (s : State) (n : Nat) : List (Nat × PatchEntry) :=
  match s.kenul with
  | none => []
  | some k => ((List.range k.patches.length).zip k.patches).filter fun q => bitAt q.2.mask n

/-- Every entry checked with its image; the first failure ends it. -/
def patchAll (n : Nat) : List (Nat × PatchEntry) → List (Option Nat) → List PatchBody → (Nat × Nat) ⊕ List PatchBody
  | [], _, acc => .inr acc
  | (i, e) :: rest, imgs, acc =>
    match patchCheck n e (imgs.head?.join) acc with
    | .inl c => .inl (c, i)
    | .inr x => patchAll n rest imgs.tail (acc ++ [x])

/-- One body applied; `k` match registers are in use before it. -/
def State.patchApply (s : State) (n : Nat) (x : PatchBody) (k : Nat) : State :=
  let q := s.seq n
  let pm := ((List.range x.words.length).zip x.words).foldl (fun m w => spInsert (spErase m (x.base + w.1)) (x.base + w.1) w.2) q.pmem
  let nn := x.nanos.foldl (fun m w => spSet 0 m w.1 w.2) q.nanos
  let s1 := s.setSeq n { q with pmem := pm, nanos := nn }
  ((List.range x.matches_.length).zip x.matches_).foldl (fun t m =>
    t.wr (R.STR_MATCH n (k + m.1)) (word (2 ^ 31 + (x.base + m.2.2) % 4096 * 2 ^ 16 + m.2.1))) s1

/-- The bodies applied in order. -/
def State.patchApplyAll (s : State) (n : Nat) : List PatchBody → Nat → State
  | [], _ => s
  | x :: rest, k => (s.patchApply n x k).patchApplyAll n rest (k + x.matches_.length)

/-- The sequencer starts at ROM address 0; with an empty queue it is IDLE (R399, R400). -/
def State.strStart (s : State) (n : Nat) : State :=
  let again := s.flag (R.STR_STAT n) F.STR_STAT_RESTARTING
  let s1 := (s.setSeq n { s.seq n with down := false }).wf (R.STR_STAT n) F.STR_STAT_RESTARTING 0
  let s2 := s1.setStrSt n (if (s1.seq n).wq = [] then ssIdle else ssRun)
  let s3 := if again then s2.raise (R.STR_EVT n) F.STR_EVT_RESTARTED else s2
  ((s3.setStrReady n true).strGo n 0).strBegin n

/-- The patch load of sequencer `n` ends, with the images as the flash gave them (R399). -/
def State.patchLoad (s : State) (n : Nat) (imgs : List (Option Nat)) : State :=
  if !s.patchQueue.contains n then s
  else
    let es := s.patchesOf n
    let s1 := { s with patchQueue := s.patchQueue.filter (· ≠ n) }
    match patchAll n es imgs [] with
    | .inl (c, i) =>
      ((((s1.wr (R.STR_PSTAT n) (word (c * 2 ^ 28 + i * 2 ^ 16))).raise (R.STR_EVT n) F.STR_EVT_PATCH_FAIL).setStrSt n
        ssStopped).wf (R.STR_STAT n) F.STR_STAT_RESTARTING 0).report 48 2 |>.startFlash
    | .inr xs =>
      let used := (xs.map fun x => x.matches_.length).foldl (· + ·) 0
      let mask := es.foldl (fun m q => m + 2 ^ q.1) 0
      let s2 := s1.patchApplyAll n xs 0
      let s3 := (s2.wr (R.STR_PSTAT n) (word (2 ^ 28 + used))).wr (R.STR_PVER n)
        (word ((es.getLast?.map fun q => q.2.ver).getD 0))
      ((s3.wr (R.STR_PMASK_LO n) (word mask)).wr (R.STR_PMASK_HI n) (word (mask / 2 ^ 32))).strStart n |>.startFlash

/-! ### Writes (R392, R400) -/

/-- STR registers of an assigned sequencer, written by a pair. -/
def State.strOpen (s : State) (i : Initiator) (n : Nat) : Bool := isPair i && s.strAssigned n

/-- A write of STRn_WQ_PUSH (R392): refused before the sequencer is ready (R34). -/
def State.writeWqPush (s : State) (i : Initiator) (n kind k : Nat) : State :=
  if !s.strOpen i n || !s.strReady n || s.wqFree n = 0 || !wkFits n kind then s else s.wqAdd n kind k

/-- ABORT (R395, R397): without effect while no routine runs, but for a sequencer that holds on a key slot (R422). -/
def State.strAbort (s : State) (n : Nat) : State :=
  if (s.seq n).keyHold.isSome then
    (s.setSeq n { s.seq n with keyHold := none, handler := none }).strAbandon n scAbort
  else if (s.seq n).routine then s.strAbandon n scAbort
  else s

/-- A write of STRn_CTL. -/
def State.writeStrCtl (s : State) (i : Initiator) (n : Nat) (v : Word) : State :=
  if !s.strOpen i n || s.flag (R.STR_STAT n) F.STR_STAT_RESTARTING then s
  else if fget v F.STR_CTL_RESTART = 1 then s.strRestart n none false
  else if fget v F.STR_CTL_ABORT = 1 then s.strAbort n
  else s

end Sys2Proof.Machine
end

