-- ==== Sys2Proof/Machine/Bedrock.lean ====
section
/-!
DEFINITION. Sys2Proof/Machine/Bedrock.lean: the meanings of the Bedrock and Shale commands (R335 to R362).
-/

namespace Sys2Proof.Machine

/-- Symbols of a stored granule gone wrong; an unclaimed block has none (R339). -/
def State.upsetGran (s : State) (g upset : Nat) : State :=
  if upset = 0 || !s.bed.claims.contains (g / 1024) then s else s.setGran g { s.gran g with err := (s.gran g).err ^^^ upset }

/-- What an access meets in Shale's arrays at line `l`, and the state after: 0 nothing, 1 a single-bit error, 2 an uncorrectable
one of the data, 3 of the tag (R359, R360), injected errors included (R449). -/
def State.shaleArray (s : State) (l : Nat) (array : Fin 4) : Nat × State :=
  if (s.shlLine l).isNone then (0, s)
  else
    let t := s.eccCheck [7] (if array = 3 then 2 else 0)
    let q := t.2.2.eccCheck [6] (if array = 3 then 0 else array.val)
    if t.1 = 2 then (3, t.2.2.shaleArrayError l true t.2.1)
    else if t.1 = 1 then (1, t.2.2.carry 4 1 t.2.1)
    else match q.1 with
      | 0 => (0, q.2.2)
      | 1 => (1, q.2.2.carry 4 1 q.2.1)
      | _ => (2, q.2.2.shaleArrayError l false q.2.1)

/-- A read as a command of its own: further upsets of the stored granule, then its outcome to the requester (R344), and the data
into the requester's segment (R404); an uncorrectable tag error gives an error response (R359). -/
def State.hbmReadCmd (s : State) (cls ofs upset : Nat) (array : Fin 4) (seg : Option Nat) : State :=
  let g := ofs / 64
  let a := (s.upsetGran g upset).shaleArray (g / 2) array
  let q := if a.1 = 3 then (none, a.2) else a.2.readGran cls g
  match q.1 with
  | some d =>
    let t := match seg with | some n => q.2.segPut n (leBytes d 64) | none => q.2
    t.emit (.signal 0x07 [1, d])
  | none => q.2.emit (.signal 0x07 [0])

/-- A write as a command of its own, its data out of the requester's segment. -/
def State.hbmWriteCmd (s : State) (cls ofs len v : Nat) (seg : Option Nat) : State :=
  let t := match seg with | some n => s.segTake n len | none => s
  let q := t.hbmWrite cls ofs len v
  q.2.emit (.signal 0x07 [b2n q.1])

/-! ### Bulk data port (R348 to R350) -/

/-- HBM offset of the bulk data port. -/
def State.bdpAddr (s : State) : Nat :=
  64 * s.rf R.BED_BDP_ADDR_LO F.BED_BDP_ADDR_LO_ADDR + 2 ^ 32 * s.rf R.BED_BDP_ADDR_HI F.BED_BDP_ADDR_HI_ADDR

/-- WORDS of BED_BDP_STAT. -/
def State.bdpWords (s : State) (n : Nat) : State := s.wf R.BED_BDP_STAT F.BED_BDP_STAT_WORDS n

/-- A BED_BDP_GO write (R348, R350). -/
def State.writeBdpGo (s : State) (i : Initiator) (v : Word) : State :=
  let op := fget v F.BED_BDP_GO_OP
  let n := fget v F.BED_BDP_GO_COUNT
  if !isPair i || s.flag R.BED_BDP_STAT F.BED_BDP_STAT_BUSY || (op ≠ 1 && op ≠ 2) || n = 0 || 16 < n then s
  else if op = 2 && s.bed.bdpStage.length ≠ 16 * n then s
  else { s with bed := { s.bed with bdp := some { write := op = 2, count := n } } }.raise R.BED_BDP_STAT F.BED_BDP_STAT_BUSY

/-- BDP_READ. -/
def execBdpRead (i : Initiator) (v : Word) (s : State) : Host.Outcome State Fault Refusal :=
  if fget v F.BED_BDP_GO_OP = 1 then ok (s.writeBdpGo i v) else ok s

/-- BDP_WRITE. -/
def execBdpWrite (i : Initiator) (v : Word) (s : State) : Host.Outcome State Fault Refusal :=
  if fget v F.BED_BDP_GO_OP = 2 then ok (s.writeBdpGo i v) else ok s

/-- A BED_BDP_DATA write: the next word staged; a 257th is a violation. -/
def State.writeBdpData (s : State) (i : Initiator) (v : Word) : State :=
  if !isPair i || s.flag R.BED_BDP_STAT F.BED_BDP_STAT_BUSY || 256 ≤ s.bed.bdpStage.length then s
  else ({ s with bed := { s.bed with bdpStage := s.bed.bdpStage ++ [v] } }).bdpWords (s.bed.bdpStage.length + 1)

/-- BDP_STAGE. -/
def execBdpStage (i : Initiator) (v : Word) (s : State) : Host.Outcome State Fault Refusal := ok (s.writeBdpData i v)

/-- A BED_BDP_DATA read: the next buffered word, zero past the last (R348); Keystone reads zero (R350). -/
def State.readBdpData (s : State) (i : Initiator) : State :=
  if isKeystone i then s.answer 0
  else match s.bed.bdpBuf with
    | [] => s.answer 0
    | w :: rest => (({ s with bed := { s.bed with bdpBuf := rest } }).bdpWords rest.length).answer w

/-- BDP_DATA_READ. -/
def execBdpDataRead (i : Initiator) (s : State) : Host.Outcome State Fault Refusal := ok (s.readBdpData i)

/-- The words of a granule's data, low word first. -/
def wordsOf (d : Nat) : Nat → List Word
  | 0 => []
  | n + 1 => word d :: wordsOf (d / 2 ^ 32) n

/-- The number of a list of words, low word first. -/
def numOf : List Word → Nat
  | [] => 0
  | w :: rest => w.toNat + 2 ^ 32 * numOf rest

/-- Granules read into the buffer from granule `g`, each with its META; of one that gives no data, the words buffered and V are free
(R348 states neither). -/
def State.bdpReadGrans (s : State) (g : Nat) : Nat → Nat → List Word → List Word × State
  | _, 0, acc => (acc, s)
  | k, n + 1, acc =>
    let q := s.decodeGran qCpu g
    let dirty := match s.shlLine (g / 2) with
      | some x => if x.dirty && s.snooped x then some (rdLe x.data (64 * (g % 2)) 64) else none
      | none => none
    let r : (Nat × Bool) × Nat × State := match dirty, (s.decoded g).2 with
      | some d, some x => ((d, x.2), oClean, s.serve qCpu 64)
      | some d, none => ((d, true), oClean, s.serve qCpu 64)
      | none, some x => (x, q.1, q.2.2)
      | none, none => let f := q.2.2.free 513; ((f.1 % 2 ^ 512, f.1 / 2 ^ 512 % 2 = 1), q.1, f.2)
    let t := r.2.2.wr (R.BED_BDP_META k) (word (128 * b2n (s.bed.claims.contains (g / 1024)) + 64 * b2n r.1.2 + r.2.1))
    t.bdpReadGrans ((g + 1) % 2 ^ 28) (k + 1) n (acc ++ wordsOf r.1.1 16)

/-- Staged granules written from granule `g`, `inj` check symbols of each complemented (R349). -/
def State.bdpWriteGrans (s : State) (g inj : Nat) : List Word → Nat → State
  | _, 0 => s
  | ws, n + 1 =>
    let t := (s.writeGran qCpu g 0 64 (numOf (ws.take 16))).2
    (t.setGran g { v := true, err := rsInject inj }).bdpWriteGrans ((g + 1) % 2 ^ 28) inj (ws.drop 16) n

/-- The operation in progress completes: its granules, DONE, and ADDR on by COUNT × 64 where INC is 1 (R348). -/
def State.bdpNow (s : State) : State :=
  match s.bed.bdp with
  | none => s
  | some o =>
    let g := s.bdpAddr / 64
    let s0 := { s with bed := { s.bed with bdp := none } }
    let s1 := if o.write then
        let t := s0.bdpWriteGrans g (s.rf R.BED_BDP_CTL F.BED_BDP_CTL_INJ) s.bed.bdpStage o.count
        { t with bed := { t.bed with bdpStage := [] } }.bdpWords 0
      else
        let q := s0.bdpReadGrans g 0 o.count []
        { q.2 with bed := { q.2.bed with bdpBuf := q.1 } }.bdpWords q.1.length
    let s2 := (s1.wf R.BED_BDP_STAT F.BED_BDP_STAT_BUSY 0).raise R.BED_BDP_STAT F.BED_BDP_STAT_DONE
    if s.flag R.BED_BDP_CTL F.BED_BDP_CTL_INC then
      let a := (64 * (g + o.count)) % 2 ^ 34
      (s2.wr R.BED_BDP_ADDR_LO (word a)).wr R.BED_BDP_ADDR_HI (word (a / 2 ^ 32))
    else s2

/-- BDP_DONE: the operation completes; its accesses wait before BEDROCK and during a repair of a pseudo-channel of theirs (R337,
R346). -/
def execBdpDone (s : State) : Host.Outcome State Fault Refusal :=
  match s.bed.bdp with
  | none => ok s
  | some o =>
    if !s.hbmWaits s.bdpAddr (64 * o.count) then ok s.bdpNow
    else if s.bed.held.contains .bdp then ok s else ok (s.holdHbm .bdp)

/-! ### Training, reads and writes (R337 to R342) -/

/-- A held access performed (R337). -/
def State.runHeld (s : State) (h : HeldHbm) : State :=
  match h with
  | .read c o u x g => s.hbmReadCmd c o u x g
  | .write c o n v g => s.hbmWriteCmd c o n v g
  | .core h k n o v => s.coreHbmNow h k n o v
  | .amo h op n a v => s.atomic h op n a v
  | .bdp => s.bdpNow

/-- The boot ROM begins its work on the slots once it can stage them (R35, R67); not when it has given up. -/
def State.bootStages (s : State) : State :=
  if s.sys.bootGaveUp then s else s.wf R.SYS_KENUL_STATUS F.SYS_KENUL_STATUS_STATUS 1

/-- HBM_TRAINING_DONE: BEDROCK sets, the held accesses go on (R337), and the boot ROM stages the slots. -/
def execHbmTrainingDone (s : State) : Host.Outcome State Fault Refusal :=
  if s.ready .bedrock || spGetD 0 s.tgt.line 8 ≠ 0 then ok s
  else
    let h := s.bed.held
    ok (h.foldl State.runHeld (({ s with bed := { s.bed with held := [] } }.setReady .bedrock true).bootStages))

/-- HBM_TRAINING_FAIL: BED_TRAIN stays fatal until the next device reset (R337). -/
def execHbmTrainingFail (_pc : Fin 16) (s : State) : Host.Outcome State Fault Refusal :=
  if s.ready .bedrock then ok s else ok (s.driveLine 8 3)

/-- BEDROCK_WAIT_TIMEOUT: no image will be applied; the sideband comes up with its reset-default settings (R337). -/
def execBedrockWaitTimeout (s : State) : Host.Outcome State Fault Refusal :=
  if s.ready .bedrock || s.ready .kenul then ok s
  else ok ({ s with sys := { s.sys with bootGaveUp := true } }.sidebandUp)

/-- HBM_READ (R337, R344, R346, R352, R359, R360). -/
def execHbmRead (cls : Fin 6) (ofs : BitVec 34) (upset : BitVec 576) (array : Fin 4) (seg : Option (Fin 32)) (s : State) :
    Host.Outcome State Fault Refusal :=
  if s.hbmWaits ofs.toNat 1 then ok (s.holdHbm (.read cls.val ofs.toNat upset.toNat array (seg.map Fin.val)))
  else ok (s.hbmReadCmd cls.val ofs.toNat upset.toNat array (seg.map Fin.val))

/-- HBM_WRITE (R337 to R339, R345, R346, R352). -/
def execHbmWrite (cls : Fin 6) (ofs : BitVec 34) (len v : Nat) (seg : Option (Fin 32)) (s : State) :
    Host.Outcome State Fault Refusal :=
  if s.hbmWaits ofs.toNat len then ok (s.holdHbm (.write cls.val ofs.toNat len v (seg.map Fin.val)))
  else ok (s.hbmWriteCmd cls.val ofs.toNat len v (seg.map Fin.val))

/-- A request of a class other than IDLE that a held access makes on a pseudo-channel that `n` bytes at `ofs` touch. -/
def HeldHbm.meets (h : HeldHbm) (s : State) (ofs n : Nat) : Bool :=
  match h with
  | .read c o _ _ _ => c ≠ qIdle && shareChannel ofs n o 1
  | .write c o m _ _ => c ≠ qIdle && shareChannel ofs n o m
  | .core _ _ m o _ => shareChannel ofs n o m
  | .amo _ _ m a _ => shareChannel ofs n (a - hbmBase) m
  | .bdp => match s.bed.bdp with
    | some o => shareChannel ofs n s.bdpAddr (64 * o.count)
    | none => false

/-- An IDLE-class request of `n` bytes at `ofs` is not issued: the HBM is not up, its pseudo-channel is held for a repair, or another
class has a request pending on it (R340, R346). -/
def State.idleBarred (s : State) (ofs n : Nat) : Bool := s.hbmWaits ofs n || s.bed.held.any fun h => h.meets s ofs n

/-- IDLE_CLAIM (R339, R340): it writes every granule of the block. -/
def execIdleClaim (block : Fin 262144) (s : State) : Host.Outcome State Fault Refusal :=
  if s.flag R.BED_TUM_CTL F.BED_TUM_CTL_CLAIM && !s.idleBarred (65536 * block.val) 65536 then ok (s.claimBlock block.val) else ok s

/-- The refresh rate for a reading: it rises above a threshold and falls 5 °C or more below it (R342). -/
def refRate (old : Nat) (t : Int) : Nat :=
  if 105 < t then 2
  else if old = 2 ∧ 100 < t then 2
  else if 85 < t then 1
  else if 1 ≤ old ∧ 80 < t then 1
  else 0

/-- HBM_TEMP_READ (R342). -/
def execHbmTempRead (t : Int) (s : State) : Host.Outcome State Fault Refusal :=
  let r := refRate (s.rf R.BED_STAT F.BED_STAT_REF) t
  ok ((s.wf R.BED_STAT F.BED_STAT_TEMP (bitsOf 10 t)).wf R.BED_STAT F.BED_STAT_REF r)

/-- HBM_REFRESH: a refresh is issued whatever the demand (R342). -/
def execHbmRefresh (s : State) : Host.Outcome State Fault Refusal :=
  ok { s with bed := { s.bed with refreshes := s.bed.refreshes + 1 } }

/-- ARBITRATION_WINDOW: the shares start again (R340). -/
def execArbitrationWindow (s : State) : Host.Outcome State Fault Refusal :=
  ok { s with bed := { s.bed with served := [] } }

/-- A BED_ARB_SHARE[c] write: the sum of shares stays within 300 GB/s; IDLE's is read-only (R340, R341). -/
def State.writeArbShare (s : State) (i : Initiator) (c : Nat) (v : Word) : State :=
  let sum := (List.range 6).foldl (fun n k => n + (if k = c then fget v F.BED_ARB_SHARE_GBPS
    else s.rf (R.BED_ARB_SHARE k) F.BED_ARB_SHARE_GBPS)) 0
  if !isPair i || 5 ≤ c || 300 < sum then s else s.wf (R.BED_ARB_SHARE c) F.BED_ARB_SHARE_GBPS (fget v F.BED_ARB_SHARE_GBPS)

/-! ### Post-package repair (R346, R347) -/

/-- A repair's result. -/
def State.pprResult (s : State) (r : Nat) : State := s.wf R.BED_PPR_STAT F.BED_PPR_STAT_RESULT r

/-- A BED_PPR_CMD write (R346, R347). -/
def State.writePpr (s : State) (i : Initiator) (v : Word) (spare : Bool) : State :=
  let op := fget v F.BED_PPR_CMD_OP
  let e := fget v F.BED_PPR_CMD_ENTRY
  let hardOk := s.mode = mBedding || (s.mode = mDormant && s.rf R.SYS_MODE F.SYS_MODE_PHASE = 0) || s.havenSettled
  if !isPair i || (op ≠ 1 && op ≠ 2) then s
  else if s.flag R.BED_PPR_STAT F.BED_PPR_STAT_BUSY then s.pprResult 1
  else if !s.flag (R.BED_ROW_LOG e) F.BED_ROW_LOG_VALID then s.pprResult 5
  else if op = 2 && !hardOk then s.pprResult 2
  else if !spare then s.pprResult 3
  else { s with bed := { s.bed with ppr := some { hard := op = 2, entry := e } } }.raise R.BED_PPR_STAT F.BED_PPR_STAT_BUSY

/-- PPR_SOFT. -/
def execPprSoft (i : Initiator) (v : Word) (spare : Bool) (s : State) : Host.Outcome State Fault Refusal :=
  if fget v F.BED_PPR_CMD_OP = 1 then ok (s.writePpr i v spare) else ok s

/-- PPR_HARD. -/
def execPprHard (i : Initiator) (v : Word) (spare : Bool) (s : State) : Host.Outcome State Fault Refusal :=
  if fget v F.BED_PPR_CMD_OP = 2 then ok (s.writePpr i v spare) else ok s

/-- The written granules of a row. -/
def State.rowGrans (s : State) (r : Nat × Nat × Nat) : List Nat := (s.bed.gran.map Prod.fst).filter fun g => hbmRowOf g = r

/-- The row rewritten: corrected where it could be, kept as POISON where not (R346). -/
def State.rewriteRow (s : State) (r : Nat × Nat × Nat) : State := (s.rowGrans r).foldl State.rewriteGran s

/-- A spare row that did not take the data: what it holds is free (R347). -/
def State.spareRow (s : State) (r : Nat × Nat × Nat) : State :=
  (s.rowGrans r).foldl (fun t g => let q := t.free 576; q.2.upsetGran g q.1) s

/-- The row stands repaired: a hard repair takes over from a soft one (R347). -/
def State.rowRepaired (s : State) (hard : Bool) (r : Nat × Nat × Nat) : State :=
  let rest := s.bed.soft.filter fun x => x ≠ r
  let soft := if hard then rest else r :: rest
  let t := { s with bed := { s.bed with soft } }.wf R.BED_PPR_STAT F.BED_PPR_STAT_SOFT (min soft.length 0xFF)
  if hard then t.countUp R.BED_PPR_STAT F.BED_PPR_STAT_HARD 1 else t

/-- PPR_DONE (R346, R347): the held requests go on. A repair that FAILED has its spare row in place, and its entry stays (DEDUCED). -/
def execPprDone (clean : Bool) (s : State) : Host.Outcome State Fault Refusal :=
  match s.bed.ppr with
  | none => ok s
  | some p =>
    let e := R.BED_ROW_LOG p.entry
    let row := (s.rf e F.BED_ROW_LOG_PC, s.rf e F.BED_ROW_LOG_BANK, s.rf e F.BED_ROW_LOG_ROW)
    let s1 := ({ s with bed := { s.bed with ppr := none } }.wf R.BED_PPR_STAT F.BED_PPR_STAT_BUSY 0)
    let s2 := s1.rowRepaired p.hard row
    let s3 := if clean then ((s2.rewriteRow row).wr e 0).pprResult 0 else (s2.spareRow row).pprResult 4
    ok (s3.bed.held.foldl State.runHeld { s3 with bed := { s3.bed with held := [] } })

/-! ### Scrubbing (R361, R362) -/

/-- The next valid granule of a claimed block from `g` on, in ascending offset. -/
def nextGran (l : List (Nat × Gran)) (g : Nat) : Option Nat := (l.find? fun q => q.2.v && g ≤ q.1).map Prod.fst

/-- SCRUB_READ: one granule of the lap, or the lap's end with LAP_S (R361); it waits while its pseudo-channel is not idle (R340). A
POISON granule is counted only. -/
def execScrubRead (upset : BitVec 576) (newer : Bool) (s : State) : Host.Outcome State Fault Refusal :=
  if !s.bed.lapOn || !s.flag R.BED_TUM_CTL F.BED_TUM_CTL_EN || !s.ready .bedrock then ok s
  else match nextGran s.bed.gran s.bed.scrub with
    | none => ok ({ s with bed := { s.bed with lapOn := false, scrub := 0 } }.wr R.BED_TUM_LAP
        (word ((s.now - s.bed.lapStart) / 100000000)))
    | some g =>
      if s.idleBarred (64 * g) 64 then ok s else
      let s1 := s.upsetGran g upset.toNat
      let q := if (s1.decoded g).1 = oPoison then (oPoison, none, s1.countUp R.BED_ECC_CNT F.BED_ECC_CNT_UE 1)
        else s1.decodeGran qIdle g
      let s2 := { q.2.2 with bed := { q.2.2.bed with scrub := g + 1 } }.wf R.BED_TUM_POS F.BED_TUM_POS_BLOCK (g / 1024)
      if q.1 = oClean then ok s2
      else if q.1 < oUncorrectable then
        if newer then ok s2 else ok ((s2.rewriteGran g).countUp R.BED_TUM_CNT F.BED_TUM_CNT_FIXED 1)
      else ok (s2.countUp R.BED_TUM_CNT F.BED_TUM_CNT_UE 1)

/-- A minute in ticks of 10 ns. -/
def minuteTicks : Nat := 6000000000

/-- SCRUB_LAP_START (R361): not before LAP_MIN minutes have passed since the previous lap began. -/
def execScrubLapStart (s : State) : Host.Outcome State Fault Refusal :=
  if s.flag R.BED_TUM_CTL F.BED_TUM_CTL_EN && !s.bed.lapOn
      && s.bed.lapStart + minuteTicks * s.rf R.BED_TUM_CTL F.BED_TUM_CTL_LAP_MIN ≤ s.now then
    ok { s with bed := { s.bed with lapOn := true, scrub := 0, lapStart := s.now } }
  else ok s

/-- What a double-bit error in a region reports (R359, R360, R400): Shale, Quarry and the Strata store have sources of their
own. Of the Strata store these are the patch memory and the nano-store of a sequencer, which restarts (R400). -/
def sramSource (region : Nat) : Nat := match region with | 0 => 6 | 3 => 11 | _ => 5

/-- The sources whose arming acts on the checker the scrubber uses (R449). -/
def sramChecker (region : Nat) (spot : SramSpot) : List Nat :=
  match region, spot with
  | 0, .tag _ => [7]
  | 0, _ => [6]
  | 3, _ => [11]
  | 8, .store _ => [12]
  | _, _ => [4, 5]

/-- SRAM_SCRUB_STEP (R359, R360, R362, R422). -/
def execSramScrubStep (region : Fin 10) (bits : Fin 3) (newer : Bool) (spot : SramSpot) (s : State) :
    Host.Outcome State Fault Refusal :=
  if !s.flag R.BED_SS_CTL F.BED_SS_CTL_EN || !bitAt (s.rf R.BED_SS_CTL F.BED_SS_CTL_REGIONS) region.val then ok s
  else
    let lap := decide (524287 ≤ s.bed.ssCount)
    let s1 := { s with bed := { s.bed with ssCount := if lap then 0 else s.bed.ssCount + 1,
                                           ssStart := if lap then s.now else s.bed.ssStart } }
    let s2 := if lap then s1.wf R.BED_SS_STAT F.BED_SS_STAT_LAP_MS (min 0xFFFF ((s.now - s.bed.ssStart) / 100000)) else s1
    let q := s2.eccCheck (sramChecker region.val spot) bits.val
    match q.1 with
    | 0 => ok q.2.2
    | 1 =>
      let s3 := q.2.2.carry 4 1 q.2.1
      ok (if newer then s3 else s3.countUp R.BED_SS_STAT F.BED_SS_STAT_FIXED 1)
    | _ => match region.val, spot with
      | 9, .key k => ok (q.2.2.keyLost k.val q.2.1)
      | 8, .store n =>
        ok ((if q.2.2.strReady n.val then q.2.2.strRestart n.val none false else q.2.2).carry 12 2 q.2.1)
      | 0, .line l => ok (q.2.2.shaleArrayError l.toNat false q.2.1)
      | 0, .tag l => ok (q.2.2.shaleArrayError l.toNat true q.2.1)
      | _, _ => ok (q.2.2.carry (sramSource region.val) 2 q.2.1)

/-! ### Shale (R354 to R358) -/

/-- The dirty lines. -/
def State.dirtyLines (s : State) : List ShlLine := s.bed.lines.filter fun x => x.dirty

/-- Lines of an invalidate dropped, locked ones counted (R356). -/
def State.invalidate (s : State) (p : ShlLine → Bool) : State :=
  let skip := (s.bed.lines.filter fun x => p x && s.wayLocked x.way).length
  ({ s with bed := { s.bed with lines := s.bed.lines.filter fun x => !(p x && !s.wayLocked x.way) } }).wf
    R.SHL_INV_STATUS F.SHL_INV_STATUS_LOCKED_SKIPPED (min skip 0xFFFF)

/-- One line of a FILL: moved from another way with its dirty state, or fetched; the line it displaces goes back first. -/
def State.fillLine (s : State) (w l : Nat) : State :=
  match s.shlLine l with
  | some x => if x.way = w then s else (s.evict (l % 2048) w).putLine { x with way := w }
  | none => if l < 2 ^ 27 then (s.allocate l w).2 else s

/-- Lines `lo` to `lo + n - 1` filled. -/
def State.fillLines (s : State) (w lo : Nat) : Nat → State
  | 0 => s
  | n + 1 => (s.fillLines w lo n).fillLine w (lo + n)

/-- A completed invalidate makes Shale ready, not before KENUL (R35). -/
def State.shaleArmed (s : State) : State := if s.ready .kenul then s.setReady .shale true else s

/-- The Shale operation in progress completes: an INV_ALL sets ARMED, and SHALE sets after the first one (R354). -/
def State.shlFinish (s : State) : State :=
  match s.bed.shlOp with
  | none => s
  | some o =>
    let s0 := { s with bed := { s.bed with shlOp := none } }
    let s1 := match o with
      | .invRange lo n => s0.invalidate fun x => lo ≤ x.line && x.line < lo + n
      | .invAll => ((s0.invalidate fun _ => true).raise R.SHL_STATUS F.SHL_STATUS_ARMED).shaleArmed
      | .fill w lo n => s0.fillLines w lo n
    (s1.wf R.SHL_INV_STATUS F.SHL_INV_STATUS_BUSY 0).raise R.SHL_INV_STATUS F.SHL_INV_STATUS_DONE

/-- An SHL_CTL write (R354, R355): a disable lets the operation in progress complete first. -/
def State.writeShlCtl (s : State) (i : Initiator) (v : Word) : State :=
  let en := s.flag R.SHL_CTL F.SHL_CTL_EN
  if !isPair i then s
  else if fget v F.SHL_CTL_EN = 1 then
    if !en && s.flag R.SHL_STATUS F.SHL_STATUS_ARMED && !s.shlDraining then
      ((s.raise R.SHL_CTL F.SHL_CTL_EN).raise R.SHL_STATUS F.SHL_STATUS_ENABLED).wf R.SHL_STATUS F.SHL_STATUS_ARMED 0
    else s
  else if en then
    let s1 := (s.shlFinish.wf R.SHL_CTL F.SHL_CTL_EN 0).wf R.SHL_STATUS F.SHL_STATUS_ENABLED 0
    if s1.dirtyLines = [] then s1 else s1.raise R.SHL_STATUS F.SHL_STATUS_DRAINING
  else s

/-- SHALE_ENABLE. -/
def execShaleEnable (i : Initiator) (v : Word) (s : State) : Host.Outcome State Fault Refusal :=
  if fget v F.SHL_CTL_EN = 1 then ok (s.writeShlCtl i v) else ok s

/-- SHALE_DISABLE. -/
def execShaleDisable (i : Initiator) (v : Word) (s : State) : Host.Outcome State Fault Refusal :=
  if fget v F.SHL_CTL_EN = 0 then ok (s.writeShlCtl i v) else ok s

/-- SHALE_DRAIN_DONE: every dirty line has been written back (R355). -/
def execShaleDrainDone (s : State) : Host.Outcome State Fault Refusal :=
  if s.shlDraining then ok ((s.dirtyLines.foldl State.writeBack s).wf R.SHL_STATUS F.SHL_STATUS_DRAINING 0) else ok s

/-- First line and line count of the SHL_RANGE span. -/
def State.shlSpan (s : State) : Nat × Nat :=
  (s.rf R.SHL_RANGE_LO F.SHL_RANGE_LO_RANGE + 2 ^ 25 * s.rf R.SHL_RANGE_HI F.SHL_RANGE_HI_RANGE,
   s.rf R.SHL_RANGE_SIZE F.SHL_RANGE_SIZE_RANGE)

/-- The span touches the ring region. -/
def State.spanInRing (s : State) (lo n : Nat) : Bool :=
  let r := s.region 1
  n ≠ 0 && lo * 128 < r.1 + r.2 && r.1 < (lo + n) * 128

/-- An SHL_OP write (R356, R358). -/
def State.writeShlOp (s : State) (i : Initiator) (v : Word) : State :=
  let span := s.shlSpan
  let start := fun (o : ShlOp) =>
    ({ s with bed := { s.bed with shlOp := some o } }.raise R.SHL_INV_STATUS F.SHL_INV_STATUS_BUSY).wf R.SHL_INV_STATUS
      F.SHL_INV_STATUS_LAST (fget v F.SHL_OP_OP)
  let idle := !s.flag R.SHL_CTL F.SHL_CTL_EN && !s.shlDraining
  if !isPair i || s.flag R.SHL_INV_STATUS F.SHL_INV_STATUS_BUSY then s
  else match fget v F.SHL_OP_OP with
    | 1 => if idle then start (.invRange span.1 span.2) else s
    | 2 => if idle then start .invAll else s
    | 3 =>
      let w := fget v F.SHL_OP_WAY
      if s.flag R.SHL_CTL F.SHL_CTL_EN && !s.shlDraining && s.wayLocked w && span.2 ≤ 2048
          && !s.spanInRing span.1 span.2 then start (.fill w span.1 span.2) else s
    | _ => s

/-- SHALE_INV_RANGE. -/
def execShaleInvRange (i : Initiator) (v : Word) (s : State) : Host.Outcome State Fault Refusal :=
  if fget v F.SHL_OP_OP = 1 then ok (s.writeShlOp i v) else ok s

/-- SHALE_INV_ALL. -/
def execShaleInvAll (i : Initiator) (v : Word) (s : State) : Host.Outcome State Fault Refusal :=
  if fget v F.SHL_OP_OP = 2 then ok (s.writeShlOp i v) else ok s

/-- SHALE_FILL. -/
def execShaleFill (i : Initiator) (v : Word) (s : State) : Host.Outcome State Fault Refusal :=
  if fget v F.SHL_OP_OP = 3 then ok (s.writeShlOp i v) else ok s

/-- SHALE_OP_DONE (R354, R356, R358). -/
def execShaleOpDone (s : State) : Host.Outcome State Fault Refusal := ok s.shlFinish

/-- An SHL_LOCK write: at least 4 ways stay unlocked (R357). -/
def State.writeShlLock (s : State) (i : Initiator) (v : Word) : State :=
  let free := ((List.range 16).filter fun w => !bitAt v.toNat w).length
  if isPair i && 4 ≤ free then s.wf R.SHL_LOCK F.SHL_LOCK_WAYS v.toNat else s

/-- SHALE_LOCK. -/
def execShaleLock (i : Initiator) (v : Word) (s : State) : Host.Outcome State Fault Refusal := ok (s.writeShlLock i v)

end Sys2Proof.Machine
end

