-- ==== Sys2Proof/Machine/Contexts.lean ====
section
/-!
DEFINITION. Sys2Proof/Machine/Contexts.lean: the meanings of the context and tenant commands (R118, R119, R133 to R137, R141 to
R143, R484).
-/

namespace Sys2Proof.Machine

/-- The pair a WAY_CTX_TAKE or WAY_CTX_POP index names. -/
def pairOf (i : Initiator) (p : Nat) : Bool :=
  match i with
  | .port => p = 0
  | .media => p = 1
  | _ => false

/-- A WAY_CTX_TAKE[p] write (R99, R133, R484). -/
def State.writeTake (s : State) (i : Initiator) (p : Nat) (v : Word) : State :=
  if !pairOf i p || fget v F.WAY_CTX_TAKE_GO = 0 then s
  else if s.fwMayTake then
    let q := s.takeCtx 2 { state := cFirmware, origin := 2 }
    q.2.wr (R.WAY_CTX_GOT p) (word (2 ^ 31 + q.1))
  else s.wr (R.WAY_CTX_GOT p) 0

/-- CTX_TAKE. -/
def execCtxTake (i : Initiator) (idx : Fin 2) (s : State) : Host.Outcome State Fault Refusal :=
  ok (s.writeTake i idx.val 1)

/-- Post MEDIA (R134). -/
def State.postMedia (s : State) (k : Nat) : State :=
  let c := s.ctx k
  if c.state = cNew || c.state = cPort then (s.setCtx k { c with state := cMedia }).queueCtx 1 k else s

/-- Post PORT. -/
def State.postPort (s : State) (k : Nat) : State :=
  let c := s.ctx k
  if c.state = cNew || c.state = cMedia then (s.setCtx k { c with state := cPort }).queueCtx 0 k else s

/-- The vault allowance in force, in bytes: 0 while BALLAST reads 0 (R136). -/
def State.vaultAllow (s : State) : Nat := if s.ready .ballast then s.cmd.vaultBytes else 0

/-- The judgement of R136. -/
def State.ackOk (s : State) (c : Ctx) : Bool :=
  !c.has fFua && !c.has fAbandoned && (s.cmd.acked + c.granCnt) * 4096 ≤ s.vaultAllow

/-- The command in context `k` ends without a run: it is ABANDONED, or Haven has been entered, and no run of it has begun. -/
def State.mustDrop (s : State) (k : Nat) : Bool :=
  !(s.work k).begun && ((s.ctx k).has fAbandoned || s.mode = mHaven)

/-- Post STAGED (R134, R136). A discarded write is judged no more. DESIGN CHOICE: the rows of the table ask that write data is wholly in
staging, and say nothing of a MEDIA context that holds no admitted write (a read, say): a post of it changes nothing, but for one that
is discarded. -/
def State.postStaged (s : State) (k : Nat) : State :=
  let c := s.ctx k
  let w := s.work k
  if c.state ≠ cMedia || !(w.write || w.discarded || s.mustDrop k) then s
  else if s.mustDrop k || w.discarded then (s.setCtx k { c with state := cStaged }).dropWrite k
  else if s.ackOk c then
    let s1 := s.setCtx k { (c.set fAcked).set fVault with state := cStaged }
    let s2 := { s1 with cmd := { s1.cmd with acked := s1.cmd.acked + c.granCnt } }
    (s2.raiseBy k).postCompletion k []
  else s.setCtx k { c with state := cStaged }

/-- The data a completion gives the host. -/
def State.answerData (s : State) (k : Nat) : List Nat := if (s.ctx k).status = 0 then (s.work k).snapshot else []

/-- The data of the completion in context `k`, with the state after it is fetched: what a read or the part holds, or what drive firmware
has put at STAGING for a command passed to it, which the group reads as its host stream (R92, R373). -/
def State.fetchData (s : State) (k : Nat) : DmaEnd × List Nat × State :=
  let c := s.ctx k
  let n := (s.work k).want
  if n = 0 || c.status ≠ 0 || 1 < c.origin || c.has fAbandoned then (.done, s.answerData k, s)
  else
    let r := s.dmaRead (hostStream c.origin) qHost c.staging n
    (r.1, [r.2.1], r.2.2)

/-- Post DONE (R134, R135): the completion, its reservation returned when it did not commit, and the context free. Where the group
cannot read the data that firmware gives, the context goes back to the Port pair, as at a translation fault (R376; DEDUCED for an error
response of the memory). -/
def State.postDone (s : State) (k : Nat) : State :=
  let c := s.ctx k
  if c.state = cNew || c.state = cPort || c.state = cMedia || c.state = cCommit
      || (c.state = cStaged && !c.has fAcked && (s.work k).discarded) then
    let r := s.fetchData k
    if r.1 = .done then (((r.2.2.setCtx k { c with state := cDone }).returnRsv k).postCompletion k r.2.1).freeCtxAt k
    else r.2.2.queueCtx 0 k
  else s

/-- The open stream `k` closes: its object is closed with the length that a device reset would give it (R124; DESIGN CHOICE: the spec
does not say what length an object keeps whose stream drive firmware posts FREE). -/
def State.closeStream (s : State) (k : Nat) : State :=
  { s with cmd := { s.cmd with objects := s.cmd.objects.map fun o =>
      if (o.stream = some k) then { o with stream := none, closing := none, length := 4096 * o.high } else o } }

/-- Post FREE (R134). -/
def State.postFree (s : State) (k : Nat) : State :=
  let c := s.ctx k
  if c.state = cStream then (s.closeStream k).freeCtxAt k
  else if c.state = cFirmware then s.freeCtxAt k
  else s

/-- A WAY_CTX_POST write: only the pairs post; a post the table does not allow changes nothing (R134, R484). -/
def State.writePost (s : State) (i : Initiator) (v : Word) : State :=
  let k := fget v F.WAY_CTX_POST_INDEX
  if !isPair i then s
  else match fget v F.WAY_CTX_POST_STATE with
    | 0 => s.postFree k
    | 2 => s.postPort k
    | 3 => s.postMedia k
    | 4 => s.postStaged k
    | 6 => s.postDone k
    | _ => s

/-- The value of a WAY_CTX_POST write. -/
def postWord (st k : Nat) : Word := word (st * 2 ^ 24 + k)

/-- CTX_POST_MEDIA. -/
def execCtxPostMedia (i : Initiator) (k : Fin 65536) (s : State) : Host.Outcome State Fault Refusal :=
  ok (s.writePost i (postWord cMedia k.val))

/-- CTX_POST_PORT. -/
def execCtxPostPort (i : Initiator) (k : Fin 65536) (s : State) : Host.Outcome State Fault Refusal :=
  ok (s.writePost i (postWord cPort k.val))

/-- CTX_POST_STAGED. -/
def execCtxPostStaged (i : Initiator) (k : Fin 65536) (s : State) : Host.Outcome State Fault Refusal :=
  ok (s.writePost i (postWord cStaged k.val))

/-- CTX_POST_DONE. -/
def execCtxPostDone (i : Initiator) (k : Fin 65536) (s : State) : Host.Outcome State Fault Refusal :=
  ok (s.writePost i (postWord cDone k.val))

/-- CTX_POST_FREE. -/
def execCtxPostFree (i : Initiator) (k : Fin 65536) (s : State) : Host.Outcome State Fault Refusal :=
  ok (s.writePost i (postWord cFree k.val))

/-- The queue of pair `p`. -/
def State.pairQ (s : State) (p : Nat) : List Nat := if p = 0 then s.cmd.portQ else s.cmd.mediaQ

/-- A WAY_CTX_POP[p] write naming the head (R484). -/
def State.writePop (s : State) (i : Initiator) (p : Nat) (v : Word) : State :=
  if pairOf i p && (s.pairQ p).head? = some (fget v F.WAY_CTX_POP_INDEX) then
    if p = 0 then { s with cmd := { s.cmd with portQ := s.cmd.portQ.tail } }
    else { s with cmd := { s.cmd with mediaQ := s.cmd.mediaQ.tail } }
  else s

/-- CTX_POP. -/
def execCtxPop (i : Initiator) (p : Fin 2) (k : Fin 65536) (s : State) : Host.Outcome State Fault Refusal :=
  ok (s.writePop i p.val (word k.val))

/-- A WAY_TEN_CFG write of tenant index `t` (from 0): VIEW is locked while ENABLE is 1; REFUSED restarts when ENABLE sets. -/
def State.writeTenCfg (s : State) (i : Initiator) (t : Nat) (v : Word) : State :=
  let old := s.rd (R.WAY_TEN_CFG t)
  if !isPair i then s
  else if fget old F.WAY_TEN_CFG_ENABLE = 1 && fget v F.WAY_TEN_CFG_VIEW ≠ fget old F.WAY_TEN_CFG_VIEW then s
  else
    let s1 := s.writeFields (R.WAY_TEN_CFG t) v
    if fget old F.WAY_TEN_CFG_ENABLE = 0 && fget v F.WAY_TEN_CFG_ENABLE = 1 then
      s1.wf (R.WAY_TEN_STATUS t) F.WAY_TEN_STATUS_REFUSED 0
    else s1

/-- The capacity of tenant index `t` (from 0), in sectors. -/
def State.setCapacity (s : State) (t n : Nat) : State :=
  { s with cmd := { s.cmd with capacity := spSet 0 s.cmd.capacity t n } }

/-- TENANT_CONFIG_WRITE (R118, R119). DESIGN CHOICE: drive firmware sets a tenant's capacity (R122), and the spec names no register for
it; here a write of the tenant's configuration may give it along, for tenants of every protocol. After reset every capacity is 0. -/
def execTenantConfigWrite (i : Initiator) (t : Fin 256) (v : Word) (capacity : Option Nat) (s : State) :
    Host.Outcome State Fault Refusal :=
  let u := s.writeTenCfg i t.val v
  ok (if isPair i then (capacity.map (u.setCapacity t.val)).getD u else u)

/-- A WAY_TEN_ALLOW_HI write: the 40-bit allowance takes effect (R118, R143). -/
def State.writeAllowHi (s : State) (i : Initiator) (t : Nat) (v : Word) : State :=
  if !isPair i then s
  else
    let s1 := s.writeFields (R.WAY_TEN_ALLOW_HI t) v
    let a := s1.rf (R.WAY_TEN_ALLOW_LO t) F.WAY_TEN_ALLOW_LO_ALLOW
      + 2 ^ 32 * s1.rf (R.WAY_TEN_ALLOW_HI t) F.WAY_TEN_ALLOW_HI_ALLOW
    { s1 with cmd := { s1.cmd with allow := spSet 0 s1.cmd.allow t a } }.overdraft (t + 1)

/-- ALLOWANCE_WRITE (R143). -/
def execAllowanceWrite (i : Initiator) (t : Fin 256) (v : Word) (s : State) : Host.Outcome State Fault Refusal :=
  ok (s.writeAllowHi i t.val v)

end Sys2Proof.Machine
end

