-- ==== Sys2Proof/Machine/HostFrames.lean ====
section
/-!
DEFINITION. Sys2Proof/Machine/HostFrames.lean: host commands as they arrive: the opcodes that R90, R92, R95 and R126 support, the
fields of an NVMe submission queue entry and of a SAS CDB (R127, R132), and the write rules of the registers a PCIe host may write
(R106). Opcodes, block CDB layouts and register layouts are those of the standards the spec names (PRESUMED).
-/

namespace Sys2Proof.Machine

/-! ### Opcodes -/

/-- The codes of R126. -/
def objCodes : List Nat := [0x00, 0x01, 0x02, 0x04, 0x06, 0x08, 0x0C, 0x0E, 0x10, 0x14]

/-- I/O opcodes on NVMe: Flush, Write, Read, Compare, Write Zeroes, Dataset Management, Verify, the reservation commands (R102),
and the object commands. -/
def nvmeIoOps : List Nat :=
  [0x00, 0x01, 0x02, 0x05, 0x08, 0x09, 0x0C, 0x0D, 0x0E, 0x11, 0x15] ++ objCodes.map (0x80 + ·)

/-- Admin opcodes (R90): the mandatory commands, Namespace Management and Attachment, Firmware Commit and Image Download, MAILBOX. -/
def nvmeAdminOps : List Nat :=
  [0x00, 0x01, 0x02, 0x04, 0x05, 0x06, 0x08, 0x09, 0x0A, 0x0C, 0x0D, 0x10, 0x11, 0x15, 0xC4]

/-- SAS operation codes (R92), the object commands and MAILBOX. -/
def sasOps : List Nat :=
  [0x00, 0x03, 0x12, 0x1B, 0x28, 0x2A, 0x3B, 0x3C, 0x4D, 0x55, 0x5A, 0x5E, 0x5F, 0x88, 0x8A, 0x8F, 0x91, 0x9E, 0xA0, 0xE4]
    ++ objCodes.map (0xC0 + ·)

/-- SATA command codes (R95). -/
def sataOps : List Nat := [0x25, 0x2F, 0x35, 0x42, 0x47, 0x60, 0x61, 0x92, 0xEA, 0xEC, 0xEF]

/-- The opcodes that one command of the table stands for, protocol by protocol. -/
structure OpSet where
  nvme : List Nat := []
  adm : List Nat := []
  sas : List Nat := []
  sata : List Nat := []
deriving DecidableEq, Repr

/-- The context's opcode, by its protocol and, on NVMe, its queue, is one of the set. -/
def OpSet.has (o : OpSet) (c : Ctx) : Bool :=
  match c.proto with
  | 1 => (if c.queue = 0 then o.adm else o.nvme).contains c.opcode
  | 2 => o.sas.contains c.opcode
  | 3 => o.sata.contains c.opcode
  | _ => false

/-- An object command of code `n` (R126). -/
def opObj (n : Nat) : OpSet := { nvme := [0x80 + n], sas := [0xC0 + n] }

def opRead : OpSet := { nvme := [0x02], sas := [0x28, 0x88], sata := [0x25, 0x60] }
def opWrite : OpSet := { nvme := [0x01], sas := [0x2A, 0x8A], sata := [0x35, 0x61] }
def opVerify : OpSet := { nvme := [0x0C], sas := [0x8F], sata := [0x42] }
def opMailbox : OpSet := { adm := [0xC4], sas := [0xE4] }

/-- The protocol's invalid opcode. -/
def stBadOpcode (proto : Nat) : Nat := stOf proto (stNvme 0 0x01 1) (stSense 5 0x20 0)

/-! ### NVMe submission queue entries: 64 bytes, little-endian -/

/-- The tenant that a namespace identifier or LUN + 1 names; 0 when none. -/
def tenantOf (n : Nat) : Nat := if n ≤ 256 then n else 0

/-- The command in an entry of submission queue `sq` (R127, R132). -/
def nvmeCmd (sq entry : Nat) : HostCmd :=
  let op := rdLe entry 0 1
  let io := sq ≠ 0
  let obj : Bool := io && 0x80 ≤ op && op < 0xA0
  let flg := rdLe entry 60 1
  let ranged := io && [0x01, 0x02, 0x05, 0x08, 0x0C].contains op
  { tenant := tenantOf (rdLe entry 4 4), queue := sq, tag := rdLe entry 2 2, opcode := op,
    fua := if obj then bitAt flg 4 else io && (op = 1 || op = 2 || op = 5 || op = 0x0C) && bitAt (rdLe entry 48 4) 30,
    target := rdLe entry 40 (if obj then 16 else 8),
    granOfs := if obj then rdLe entry 8 4 else 0,
    granCnt := if obj then rdLe entry 56 4 else if ranged then rdLe entry 48 2 + 1 else 0,
    dptr := rdLe entry 24 16,
    p1 := if obj then rdLe entry 12 4 else 0, flg := if obj then flg else 0 }

/-- PSDT of an entry: 0 PRP, 1 and 2 SGL. -/
def psdt (entry : Nat) : Nat := rdLe entry 1 1 / 64

/-- The SGL descriptor of an entry is a Data Block, a Segment or a Last Segment (R90). -/
def sglOk (entry : Nat) : Bool := [0x00, 0x20, 0x30].contains (rdLe entry 39 1)

/-- The status that an entry is refused with as it arrives: an opcode that is not supported; a fused operation (R139); a PSDT that NVMe
does not allow there, or a descriptor that R90 does not list, of a command that moves data, with NVMe's own status SGL Descriptor Type
Invalid; another ACTION of MAILBOX (R387); bits 31 to 8 of CDW15 of an object command (R127). -/
def nvmeRefusal (sq entry : Nat) : Option Nat :=
  let op := rdLe entry 0 1
  if !(if sq = 0 then nvmeAdminOps else nvmeIoOps).contains op then some (stBadOpcode 1)
  else if rdLe entry 1 1 % 4 ≠ 0 then some (stInvalidField 1)
  else if op % 4 ≠ 0 && (psdt entry = 3 || (sq = 0 && psdt entry ≠ 0)) then some (stInvalidField 1)
  else if op % 4 ≠ 0 && psdt entry ≠ 0 && !sglOk entry then some (stNvme 0 0x11 1)
  else if sq = 0 && op = 0xC4 && 4 < rdLe entry 40 1 % 8 then some (stInvalidField 1)
  else if sq ≠ 0 && 0x80 ≤ op && rdLe entry 61 3 ≠ 0 then some (stInvalidField 1)
  else none

/-! ### SAS command frames: a CDB of 32 bytes, byte 0 lowest, fields big-endian -/

/-- The command in a frame for LUN `lun` with a task tag and a tag-space index (R127, R132). -/
def sasCmd (port lun tag space : Nat) (attr : TaskAttr) (cdb : Nat) : HostCmd :=
  let op := rdLe cdb 0 1
  let obj : Bool := 0xC0 ≤ op && op < 0xE0
  let ten : Bool := op = 0x28 || op = 0x2A
  let six : Bool := op = 0x88 || op = 0x8A || op = 0x8F || op = 0x91
  { tenant := tenantOf (lun + 1), queue := port * 2 ^ 15 + space % 2 ^ 15, tag, opcode := op, attr,
    fua := if obj then bitAt (rdLe cdb 30 1) 4 else (ten || op = 0x88 || op = 0x8A) && bitAt (rdLe cdb 1 1) 3,
    target := if obj then beNum cdb 2 16 else if op = 0xE4 then rdLe cdb 1 2 + 2 ^ 32 * beNum cdb 4 4 else if ten then beNum cdb 2 4 else if six then beNum cdb 2 8 else 0,
    granOfs := if obj then beNum cdb 18 4 else 0,
    granCnt := if obj then beNum cdb 26 4 else if ten then beNum cdb 7 2 else if six then beNum cdb 10 4 else 0,
    dptr := tag, p1 := if obj then beNum cdb 22 4 else 0, flg := if obj then rdLe cdb 30 1 else 0,
    want := if op = 0x12 then beNum cdb 3 2 else if op = 0x3C then beNum cdb 6 3 else 0 }

/-- The status that a CDB is refused with as it arrives: an operation code that is not supported; another service action than READ
CAPACITY (16); a reserved byte of an object command that is not zero; another ACTION of MAILBOX (R92, R126, R127, R387). -/
def sasRefusal (cdb : Nat) : Option Nat :=
  let op := rdLe cdb 0 1
  if !sasOps.contains op then some (stBadOpcode 2)
  else if op = 0x9E && rdLe cdb 1 1 % 32 ≠ 0x10 then some (stInvalidField 2)
  else if 0xC0 ≤ op && op < 0xE0 && rdLe cdb 1 1 ≠ 0 then some (stInvalidField 2)
  else if op = 0xE4 && 4 < rdLe cdb 1 1 then some (stInvalidField 2)
  else none

/-- `n` bytes of a value in reverse order: a big-endian field of a little-endian page. -/
def revBytes (n v : Nat) : Nat := beNum v 0 n

/-- Fields as the protocol's page lays them out: big-endian on SAS, else little-endian (R129). -/
def pageOf (proto : Nat) (fields : List (Nat × Nat)) : Nat :=
  argOf (fields.map fun q => (q.1, if proto = 2 then revBytes q.1 q.2 else q.2))

/-! ### Host-written registers (R106) -/

/-- The bits of a word that a host may write, that it clears by writing 1, and that it sets by writing 1. -/
structure WriteRule where
  rw : Word := 0
  w1c : Word := 0
  w1s : Word := 0
deriving DecidableEq, Repr

/-- A write under a rule: every other bit stays. -/
def WriteRule.apply (r : WriteRule) (old v : Word) : Word :=
  ((old &&& ~~~r.rw &&& ~~~(v &&& r.w1c)) ||| (v &&& r.rw)) ||| (v &&& r.w1s)

/-- A host reset under a rule: the bits a host can change take their reset value. -/
def WriteRule.reset (r : WriteRule) (old init : Word) : Word :=
  let m := r.rw ||| r.w1c ||| r.w1s
  (old &&& ~~~m) ||| (init &&& m)

/-- Configuration space: Command and Status, cache line size, BAR0, interrupt line; PMCSR; Device and Link Control and Status with
their second parts; MSI-X Enable and Function Mask; the AER registers. -/
def cfgRule (w : Nat) : WriteRule :=
  if w = 1 then { rw := 0x00000546, w1c := 0xF9000000 }
  else if w = 3 then { rw := 0x000000FF }
  else if w = 4 then { rw := 0xFFFF0000 }
  else if w = 5 then { rw := 0xFFFFFFFF }
  else if w = 15 then { rw := 0x000000FF }
  else if w = capPmWord + 1 then { rw := 0x00000003 }
  else if w = capPcieWord + 2 then { rw := 0x00007FFF, w1c := 0x000F0000 }
  else if w = capPcieWord + 4 then { rw := 0x000003CB, w1c := 0xC0000000 }
  else if w = capPcieWord + 10 then { rw := 0x0000101F }
  else if w = capPcieWord + 12 then { rw := 0x0000FFFF }
  else if w = capMsixWord then { rw := 0xC0000000 }
  else if w = capAerWord + 1 then { w1c := 0x07FFF030 }
  else if w = capAerWord + 2 || w = capAerWord + 3 then { rw := 0x07FFF030 }
  else if w = capAerWord + 4 then { w1c := 0x0000F1C1 }
  else if w = capAerWord + 5 then { rw := 0x0000F1C1 }
  else if w = capAerWord + 6 then { rw := 0x00000140 }
  else {}

/-- Controller properties, by word from 0: INTMS sets mask bits and INTMC clears them, both showing the mask; CC, AQA, ASQ, ACQ. -/
def propRule (w : Nat) : WriteRule :=
  match w with
  | 3 => { w1s := 0xFFFFFFFF }
  | 4 => { w1c := 0xFFFFFFFF }
  | 5 => { rw := 0x00FFFFF1 }
  | 9 => { rw := 0x0FFF0FFF }
  | 10 => { rw := 0xFFFFF000 }
  | 11 => { rw := 0xFFFFFFFF }
  | 12 => { rw := 0xFFFFF000 }
  | 13 => { rw := 0xFFFFFFFF }
  | _ => {}

/-- An MSI-X table word: address, data, the mask bit of Vector Control. -/
def msixRule (w : Nat) : WriteRule :=
  match w % 4 with
  | 0 => { rw := 0xFFFFFFFC }
  | 3 => { rw := 0x00000001 }
  | _ => { rw := 0xFFFFFFFF }

/-- Words whose bits are sticky in PCIe Base 5.0: a reset of the function or of the link leaves them (PRESUMED): the AER status, masks,
severities and control, and the target speed of Link Control 2. -/
def stickyWord (w : Nat) : Bool := (capAerWord < w && w ≤ capAerWord + 6) || w = capPcieWord + 12

/-- The rule of shadow word `w`; the PBA and reserved words take no host write. -/
def shadowRule (w : Nat) : WriteRule :=
  if w < 0x400 then cfgRule w
  else if w < 0x800 then propRule (w - 0x400)
  else if msixWord ≤ w && w < msixWord + 4 * 1025 then msixRule w
  else {}

end Sys2Proof.Machine
end

