-- ==== Sys2Proof/Machine/HostLink.lean ====
section
/-!
DEFINITION. Sys2Proof/Machine/HostLink.lean: the meanings of the link, reset, register-file and queue-fetch commands of the host
ports (R86 to R96, R99, R103 to R109).
-/

namespace Sys2Proof.Machine

/-- READY bit of group `g`. -/
def hpReady (g : Nat) : Ready := if g = 0 then .hpa else .hpb

/-- Group `g` may start training (R88). -/
def State.mayTrain (s : State) (g : Nat) : Bool :=
  s.ready (hpReady g) && s.pers g ≠ 0 && s.flag (R.HP_LINK_CTL g) F.HP_LINK_CTL_ENABLE

/-- A disabled link that may train starts to. -/
def State.linkStart (s : State) (g : Nat) : State :=
  if (s.hp g).link = .disabled && s.mayTrain g then s.setHp g { s.hp g with link := .training } else s

/-- The rate a training reaches: what both partners, MAX_RATE and RATE_CAP allow (R86). -/
def State.trainedRate (s : State) (g rate : Nat) : Nat :=
  let cap := s.rf (R.HP_LINK_CTL g) F.HP_LINK_CTL_RATE_CAP
  let low := if s.pers g = 2 then 0 else 1
  let capped := if cap = 7 then 7 else max low cap
  min rate (min (s.rf (R.HP_CFG g) F.HP_CFG_MAX_RATE) capped)

/-- Lanes one link or SAS port has. -/
def State.linkLanes (s : State) (g : Nat) : Nat :=
  let n := s.rf (R.HP_CFG g) F.HP_CFG_LANES
  if s.pers g = 2 then n / max 1 (s.rf (R.HP_CFG g) F.HP_CFG_SAS_PORTS) else n

/-- Who may write a group's registers: the spec names no writer, so whoever reaches them (R24; DEDUCED). -/
def hpWriter (i : Initiator) : Bool := isPair i || isKeystone i

/-- LINK_TRAINED (R86, R88). A SAS group has one RATE and one WIDTH for its ports: the training of either writes them (DESIGN
CHOICE). -/
def execLinkTrained (g port : Fin 2) (rate width partner : Nat) (s : State) : Host.Outcome State Fault Refusal :=
  let up := if port = 0 then F.HP_LINK_UP else F.HP_LINK_UP1
  if (s.hp g).link = .disabled || s.flag (R.HP_LINK g) up
      || (port = 1 && (s.pers g ≠ 2 || s.rf (R.HP_CFG g) F.HP_CFG_SAS_PORTS < 2)) then ok s
  else
    let s1 := (s.setHp g { s.hp g with link := .up }).raise (R.HP_LINK g) up
    let s2 := ((s1.wf (R.HP_LINK g) F.HP_LINK_RATE (s1.trainedRate g rate)).wf (R.HP_LINK g) F.HP_LINK_WIDTH
      (min width (s1.linkLanes g))).raise (R.HP_EVT g) F.HP_EVT_LINK_UP
    if s.pers g ≠ 2 then ok s2
    else
      let old := (s2.rd (R.HP_PARTNER_LO g port)).toNat + 2 ^ 32 * (s2.rd (R.HP_PARTNER_HI g port)).toNat
      let s3 := (s2.wr (R.HP_PARTNER_LO g port) (word partner)).wr (R.HP_PARTNER_HI g port) (word (partner / 2 ^ 32))
      ok (if old = partner % 2 ^ 64 then s3 else s3.raise (R.HP_EVT g) F.HP_EVT_PARTNER)

/-! ### Resets of a group (R103, R104) -/

/-- What a reset leaves of one command: ABANDONED, so that it is carried out no more; an unacknowledged write with no run begun is
discarded, and an OBJ_CLOSE waits no more. -/
def State.abandonCtx (s : State) (k : Nat) : State :=
  let w := s.work k
  let s1 := (s.setCtx k ((s.ctx k).set fAbandoned)).dropClosing k
  if w.write && !(s.ctx k).has fAcked && !w.begun then s1.dropWrite k else s1

/-- Commands of group `g` that satisfy `p` are abandoned. -/
def State.abandonWhere (s : State) (g : Nat) (p : Ctx → Bool) : State :=
  (s.cmd.ctxs.filter fun q => q.2.state ≠ cFree && q.2.origin = g && p q.2).foldl (fun t q => t.abandonCtx q.1) s

/-- Host-writable shadow fields return to their reset values, but for the sticky ones, which PCIe leaves; drive firmware's content stays
(R104). -/
def State.resetShadow (s : State) (g : Nat) : State :=
  if s.pers g ≠ 1 then s
  else (((s.hp g).shadow.map Prod.fst).filter fun w => !stickyWord w).foldl (fun t w =>
    t.setShadow g w ((shadowRule w).reset (t.shadow g w) (t.shadowReset g w))) s

/-- A reset of the commands of one NVMe controller, or of any group, with its queues (R103). -/
def State.commandReset (s : State) (g : Nat) : State :=
  let s1 := s.abandonWhere g fun _ => true
  s1.setHp g { s1.hp g with cqs := [], sqs := [], stalled := false, resumed := false, lastSq := 0, asyncReqs := [] }

/-- A reset of all of group `g`'s commands and host-side state. -/
def State.hostSideReset (s : State) (g : Nat) : State := (s.commandReset g).resetShadow g

/-- One link or SAS port goes down (R88). The loss of a PCIe link is a host-side reset too (R103), so HOST_RESET sets with LINK_DOWN;
that of a SAS or SATA link sets LINK_DOWN alone, as R103 names only what the link's protocol reports there (DESIGN CHOICE). -/
def State.portDown (s : State) (g port : Nat) : State :=
  let up := if port = 0 then F.HP_LINK_UP else F.HP_LINK_UP1
  if !s.flag (R.HP_LINK g) up then s
  else
    let s1 := ((s.wf (R.HP_LINK g) up 0).raise (R.HP_EVT g) F.HP_EVT_LINK_DOWN).countUp (R.HP_LINK g) F.HP_LINK_DOWN_CNT 1
    if s1.flag (R.HP_LINK g) F.HP_LINK_UP || s1.flag (R.HP_LINK g) F.HP_LINK_UP1 then
      s1.abandonWhere g fun c => decide (c.queue / 2 ^ 15 = port)
    else
      let s2 := ((s1.wf (R.HP_LINK g) F.HP_LINK_RATE 0).wf (R.HP_LINK g) F.HP_LINK_WIDTH 0).hostSideReset g
      if s.pers g = 1 then s2.raise (R.HP_EVT g) F.HP_EVT_HOST_RESET else s2

/-- LINK_LOST (R88, R104): the link trains again. -/
def execLinkLost (g port : Fin 2) (s : State) : Host.Outcome State Fault Refusal :=
  if (s.hp g).link ≠ .up then ok s
  else
    let s1 := s.portDown g port
    let still := s1.flag (R.HP_LINK g) F.HP_LINK_UP || s1.flag (R.HP_LINK g) F.HP_LINK_UP1
    ok (if still then s1 else s1.setHp g { s1.hp g with link := .training })

/-- A HPx_LINK_CTL write: ENABLE 0 is a link loss and holds the link down, ENABLE 1 lets it train (R88). -/
def State.writeLinkCtl (s : State) (i : Initiator) (g : Nat) (v : Word) : State :=
  if !hpWriter i then s
  else
    let s1 := s.writeFields (R.HP_LINK_CTL g) v
    if fget v F.HP_LINK_CTL_ENABLE = 0 then
      let s2 := (s1.portDown g 1).portDown g 0
      s2.setHp g { s2.hp g with link := .disabled }
    else s1.linkStart g

/-- LINK_DISABLE (R88). -/
def execLinkDisable (i : Initiator) (g : Fin 2) (v : Word) (s : State) : Host.Outcome State Fault Refusal :=
  if fget v F.HP_LINK_CTL_ENABLE = 0 then ok (s.writeLinkCtl i g v) else ok s

/-- A host-side reset of group `g`: its commands, and a link that is up trains again (R88, R103, R104). -/
def State.resetGroup (s : State) (g : Nat) : State :=
  let s1 := (s.hostSideReset g).raise (R.HP_EVT g) F.HP_EVT_HOST_RESET
  if (s1.hp g).link = .up then
    let s2 := (((s1.wf (R.HP_LINK g) F.HP_LINK_UP 0).wf (R.HP_LINK g) F.HP_LINK_UP1 0).wf (R.HP_LINK g)
      F.HP_LINK_RATE 0).wf (R.HP_LINK g) F.HP_LINK_WIDTH 0
    s2.setHp g { s2.hp g with link := .training }
  else s1

/-- HOST_SIDE_RESET (R88, R103, R104). -/
def execHostSideReset (g : Fin 2) (s : State) : Host.Outcome State Fault Refusal :=
  if !s.ready (hpReady g) || s.pers g = 0 then ok s else ok (s.resetGroup g)

/-- The reset of one NVMe controller's commands; the link stays (R103). -/
def State.controllerReset (s : State) (g : Nat) : State := (s.commandReset g).raise (R.HP_EVT g) F.HP_EVT_HOST_RESET

/-- NVME_CONTROLLER_RESET (R103). -/
def execNvmeControllerReset (g : Fin 2) (s : State) : Host.Outcome State Fault Refusal :=
  if s.pers g = 1 && s.ready (hpReady g) then ok (s.controllerReset g) else ok s

/-! ### Queues and command arrival (R91, R93, R95, R99) -/

/-- Entries of the admin submission queue: AQA.ASQS, less 1 (NVMe). -/
def State.adminSize (s : State) (g : Nat) : Nat := (s.shadow g (0x400 + 9)).toNat % 4096 + 1

/-- The admin queues stand as long as the controller does. -/
def State.subQueue (s : State) (g q : Nat) : Option SubQueue :=
  if q = 0 then some { (spGet (s.hp g).sqs q).getD { size := 0, cq := 0 } with size := s.adminSize g }
  else spGet (s.hp g).sqs q

/-- A doorbell write: a submission tail or a completion head (R106); a value that names no entry of the queue is invalid and moves
nothing (PRESUMED from NVMe). -/
def State.doorbell (s : State) (g ofs : Nat) (v : Word) : State :=
  let n := (ofs - 0x1000) / 4
  let q := n / 2
  if n % 2 = 0 then
    match s.subQueue g q with
    | some x => if v.toNat < x.size then s.setHp g { s.hp g with sqs := spInsert (spErase (s.hp g).sqs q) q { x with tail := v.toNat } } else s
    | none => s
  else
    match spGet (s.hp g).cqs q with
    | some x => if v.toNat < x.size then s.setHp g { s.hp g with cqs := spInsert (spErase (s.hp g).cqs q) q { x with head := v.toNat } } else s
    | none => s

/-- NVME_DOORBELL_WRITE (R106). -/
def execNvmeDoorbellWrite (g : Fin 2) (ofs : Nat) (v : Word) (s : State) : Host.Outcome State Fault Refusal :=
  if s.pers g = 1 && 0x1000 ≤ ofs && ofs ≤ 0x3007 then ok (s.doorbell g ofs v) else ok s

/-- The context a command of group `g` fills; what firmware owns reads zero (R132, R133). -/
def newCtx (g proto : Nat) (c : HostCmd) : Ctx :=
  { state := cNew, origin := g, tenant := c.tenant, queue := c.queue, tag := c.tag, opcode := c.opcode, proto,
    flags := b2n c.fua, target := c.target, granOfs := c.granOfs, granCnt := c.granCnt, dptr := c.dptr }

/-- A command takes a context under R99 and joins the Port pair's queue (R133, R134). -/
def State.admitCmd (s : State) (g proto : Nat) (c : HostCmd) : State :=
  let q := s.takeCtx g (newCtx g proto c)
  (q.2.setWork q.1 { q.2.work q.1 with attr := c.attr, p1 := c.p1, flg := c.flg, want := c.want }).queueCtx 0 q.1

/-- The submission queues of group `g` that hold entries. -/
def State.readySqs (s : State) (g : Nat) : List Nat :=
  (0 :: ((s.hp g).sqs.map Prod.fst).filter (· ≠ 0)).filter fun q => (s.subQueue g q).any fun x => x.head ≠ x.tail

/-- The queue fetched from next: the first that holds entries after the one fetched from last, cyclically, one entry at a time (R90,
R91; an arbitration burst of 1 is a DESIGN CHOICE). -/
def State.nextSq (s : State) (g : Nat) : Option Nat :=
  let l := s.readySqs g
  match l.filter fun q => (s.hp g).lastSq < q with
  | q :: rest => some (rest.foldl min q)
  | [] => match l with
    | q :: rest => some (rest.foldl min q)
    | [] => none

/-- An entry of submission queue `sq` fetched. -/
def State.consume (s : State) (g sq : Nat) (x : SubQueue) : State :=
  s.setHp g { s.hp g with
    sqs := spInsert (spErase (s.hp g).sqs sq) sq { x with head := (x.head + 1) % max 1 x.size }, lastSq := sq, resumed := false }

/-- NVME_COMMAND_FETCH (R91, R99): without a context the group stops fetching and the entry stays in the queue. A command that the
part does not support completes as it is fetched (R90, R126, R139). -/
def execNvmeCommandFetch (g : Fin 2) (sq entry : Nat) (s : State) : Host.Outcome State Fault Refusal :=
  match s.subQueue g sq with
  | none => ok s
  | some x =>
    if s.pers g ≠ 1 || (s.hp g).link ≠ .up || (s.hp g).stalled || s.nextSq g ≠ some sq then ok s
    else if s.groupMayTake g then
      match nvmeRefusal sq entry with
      | some st => ok ((s.consume g sq x).complete g 1 sq (rdLe entry 2 2) st [])
      | none => ok ((s.consume g sq x).admitCmd g 1 (nvmeCmd sq entry))
    else ok ((s.setHp g { s.hp g with stalled := true, resumed := false }).raise (R.HP_EVT g) F.HP_EVT_CTX_WAIT)

/-- NVME_FETCH_RESUME (R91). -/
def execNvmeFetchResume (g : Fin 2) (s : State) : Host.Outcome State Fault Refusal :=
  if (s.hp g).stalled && s.groupMayTake g then ok (s.setHp g { s.hp g with stalled := false, resumed := true }) else ok s

/-! ### The shadow file's INQUIRY and IDENTIFY DEVICE data (R94, R108, R109) -/

/-- `n` shadow words from `w`. -/
def State.shadowWordsFrom (s : State) (g w n : Nat) : List Nat := (List.range n).map fun i => (s.shadow g (w + i)).toNat

/-- INQUIRY: standard data and pages 0x00, 0x80 and 0x83 from the shadow file, at once; pages 0xB0 and 0xB1 go to drive firmware as a
command of its own, whose holder gives the page in STAGING; another page is an invalid field (R92, R94). The lengths, 24 words of
standard data and 64 of a page, of which firmware's data is cut to 64 bytes, are a DESIGN CHOICE: the spec states none. -/
def State.inquiry (s : State) (g : Nat) (c : HostCmd) (evpd : Bool) (page : Nat) : State :=
  if !evpd then s.emit (.host g c.tag 0 (s.shadowWordsFrom g 0 24))
  else if page = 0 || page = 0x80 || page = 0x83 then
    s.emit (.host g c.tag 0 (s.shadowWordsFrom g (Config.vpdPlace page) 64))
  else if page ≠ 0xB0 && page ≠ 0xB1 then s.emit (.host g c.tag (stInvalidField 2) [])
  else if s.groupMayTake g then s.admitCmd g 2 { c with opcode := 0x12, target := page, want := min c.want 64 }
  else s.emit (.host g c.tag (stScsi 0x28) [])

/-- INQUIRY, with what its CDB names. -/
def execInquiry (g : Fin 2) (tag : Nat) (evpd : Bool) (page : Nat) (s : State) : Host.Outcome State Fault Refusal :=
  if s.pers g ≠ 2 || !s.ready (hpReady g) then ok s
  else ok (s.inquiry g { tenant := 0, queue := 0, tag, opcode := 0x12, fua := false, target := page, granOfs := 0, granCnt := 0,
                         dptr := tag, want := 64 } evpd page)

/-- IDENTIFY DEVICE: the 512 bytes of the shadow file. -/
def State.identifyDevice (s : State) (tag : Nat) : State := s.emit (.host 0 tag 0 (s.shadowWordsFrom 0 0 128))

/-- IDENTIFY_DEVICE. -/
def execIdentifyDevice (tag : Nat) (s : State) : Host.Outcome State Fault Refusal :=
  if s.pers 0 ≠ 3 || !s.ready .hpa then ok s else ok (s.identifyDevice tag)

/-- SAS_COMMAND_FRAME (R93, R94, R99): INQUIRY is answered at once; without a context a command completes with TASK SET FULL; one that
the part does not support ends with the protocol's status as it arrives (R92, R126, R127). -/
def execSasCommandFrame (g port : Fin 2) (lun tag space : Nat) (attr : TaskAttr) (cdb : Nat) (s : State) :
    Host.Outcome State Fault Refusal :=
  let up := if port = 0 then F.HP_LINK_UP else F.HP_LINK_UP1
  let c := sasCmd port lun tag space attr cdb
  if s.pers g ≠ 2 || !s.flag (R.HP_LINK g) up then ok s
  else if c.opcode = 0x12 then ok (s.inquiry g c (bitAt (rdLe cdb 1 1) 0) (rdLe cdb 2 1))
  else if !s.groupMayTake g then ok (s.emit (.host g tag (stScsi 0x28) []))
  else match sasRefusal cdb with
    | some st => ok (s.emit (.host g tag st []))
    | none => ok (s.admitCmd g 2 c)

/-- The commands that a task management function names (R92); `queue` names the I_T nexus: port and tag-space index. -/
def taskScope (fn : TaskFn) (queue lun tag : Nat) (c : Ctx) : Bool :=
  let nexus := decide (c.queue = queue)
  match fn with
  | .abortTask => nexus && c.tenant = lun + 1 && c.tag = tag
  | .abortTaskSet => nexus && c.tenant = lun + 1
  | .clearTaskSet => c.tenant = lun + 1
  | .logicalUnitReset => c.tenant = lun + 1
  | .itNexusReset => nexus
  | .queryTask => nexus && c.tenant = lun + 1 && c.tag = tag

/-- SAS_TASK_MANAGEMENT (R92, R103): QUERY TASK answers whether the command lives; the others abandon what they name. -/
def execSasTaskManagement (g port : Fin 2) (fn : TaskFn) (lun tag space : Nat) (s : State) : Host.Outcome State Fault Refusal :=
  if s.pers g ≠ 2 then ok s
  else
    let scope := taskScope fn (port.val * 2 ^ 15 + space % 2 ^ 15) lun tag
    let live := s.cmd.ctxs.any fun q => q.2.state ≠ cFree && q.2.origin = g.val && scope q.2
    match fn with
    | .queryTask => ok (s.emit (.host g tag (if live then 8 else 0) []))
    | .logicalUnitReset => ok (((s.abandonWhere g scope).raise (R.HP_EVT g) F.HP_EVT_HOST_RESET).emit (.host g tag 0 []))
    | .itNexusReset => ok (((s.abandonWhere g scope).raise (R.HP_EVT g) F.HP_EVT_HOST_RESET).emit (.host g tag 0 []))
    | _ => ok ((s.abandonWhere g scope).emit (.host g tag 0 []))

/-- A SATA or NCQ command takes its context (R95, R96). IDENTIFY DEVICE is answered at once; a command outside the subset ends with ERR
and ABRT as it arrives. -/
def State.sataAdmit (s : State) (c : HostCmd) : State :=
  if s.pers 0 ≠ 3 || (s.hp 0).link ≠ .up then s
  else if c.opcode = 0xEC then s.identifyDevice c.tag
  else if !sataOps.contains c.opcode then s.complete 0 3 0 c.tag (stBadOpcode 3) []
  else if s.groupMayTake 0 then s.admitCmd 0 3 { c with queue := 0, tenant := 1 }
  else s

/-- SATA_COMMAND (R95). -/
def execSataCommand (c : HostCmd) (s : State) : Host.Outcome State Fault Refusal := ok (s.sataAdmit c)

/-- READ_FPDMA_QUEUED (R95). -/
def execReadFpdmaQueued (ncq : Fin 32) (c : HostCmd) (s : State) : Host.Outcome State Fault Refusal :=
  ok (s.sataAdmit { c with tag := ncq.val, opcode := 0x60 })

/-- WRITE_FPDMA_QUEUED (R95). -/
def execWriteFpdmaQueued (ncq : Fin 32) (c : HostCmd) (s : State) : Host.Outcome State Fault Refusal :=
  ok (s.sataAdmit { c with tag := ncq.val, opcode := 0x61 })

/-! ### Host register reads and writes (R105 to R107) -/

/-- Shadow word that BAR0 offset `ofs` shows; none for a doorbell or a reserved offset (R90). -/
def barWord (ofs : Nat) : Option Nat :=
  if ofs < 0x1000 then some ((0x1000 + ofs) / 4)
  else if 0x8000 ≤ ofs && ofs < 0xC010 then some ((ofs - 0x4000) / 4)
  else if 0xD000 ≤ ofs && ofs < 0xD088 then some ((ofs - 0x4000) / 4)
  else none

/-- One dword of a BAR0 read: zero where nothing is shown. -/
def State.barRead (s : State) (g ofs : Nat) : Nat := ((barWord ofs).map fun w => (s.shadow g w).toNat).getD 0

/-- HOST_CONFIG_READ (R105). -/
def execHostConfigRead (g : Fin 2) (ofs : Nat) (s : State) : Host.Outcome State Fault Refusal :=
  if s.pers g ≠ 1 || (s.hp g).link ≠ .up then ok s
  else ok (s.emit (.host g 0 0 [(s.shadow g (ofs % 0x1000 / 4)).toNat]))

/-- HOST_BAR0_READ: more than 16 dwords completes with Completer Abort (completion status 4) (R105). -/
def execHostBar0Read (g : Fin 2) (ofs dwords : Nat) (s : State) : Host.Outcome State Fault Refusal :=
  if s.pers g ≠ 1 || (s.hp g).link ≠ .up then ok s
  else if 16 < dwords then ok (s.emit (.host g 0 4 []))
  else ok (s.emit (.host g 0 0 ((List.range dwords).map fun n => s.barRead g (ofs + 4 * n))))

/-- What a host write asks of word `w`: a PowerState that the function does not support, D1 or D2, leaves PowerState as it is (PCIe). -/
def hostAsks (w : Nat) (old v : Word) : Word :=
  if w = capPmWord + 1 && (v.toNat % 4 = 1 || v.toNat % 4 = 2) then (v &&& ~~~3) ||| (old &&& 3) else v

/-- A host write to shadow word `w` under the standard's write rules. INTMS and INTMC both show the one interrupt mask. -/
def State.hostWord (s : State) (g w : Nat) (v : Word) : State :=
  let old := s.shadow g w
  let x := (shadowRule w).apply old (hostAsks w old v)
  if w = 0x403 || w = 0x404 then (s.setShadow g 0x403 x).setShadow g 0x404 x else s.setShadow g w x

/-- Held messages that may now be sent, among `n` vectors from `v` (R107). -/
def State.sendHeld (s : State) (g : Nat) : Nat → Nat → State
  | _, 0 => s
  | v, n + 1 =>
    let held := bitAt (s.shadow g (pbaWord + v / 32)).toNat (v % 32)
    (if held && !s.msixMasked g v then s.sendMsix g v else s).sendHeld g (v + 1) n

/-- HOST_CONFIG_WRITE (R106). Unmasking the function sends the held messages; Initiate Function Level Reset, bit 15 of Device Control,
is a host-side reset (R103). -/
def execHostConfigWrite (g : Fin 2) (ofs : Nat) (v : Word) (s : State) : Host.Outcome State Fault Refusal :=
  if s.pers g ≠ 1 || (s.hp g).link ≠ .up then ok s
  else
    let w := ofs % 0x1000 / 4
    let s1 := s.hostWord g w v
    ok (if w = capMsixWord then s1.sendHeld g 0 1025
        else if w = capPcieWord + 2 && bitAt v.toNat 15 then s1.resetGroup g
        else s1)

/-- HOST_BAR0_WRITE (R106, R107): a property, a doorbell, an MSI-X table entry; PBA and reserved offsets are discarded. -/
def execHostBar0Write (g : Fin 2) (ofs : Nat) (v : Word) (s : State) : Host.Outcome State Fault Refusal :=
  if s.pers g ≠ 1 || (s.hp g).link ≠ .up then ok s
  else if ofs < 0x1000 then
    let w := (0x1000 + ofs) / 4
    let was := bitAt (s.shadow g w).toNat 0
    let s1 := (s.hostWord g w v).raise (R.HP_EVT g) F.HP_EVT_PROP_WRITE
    ok (if ofs / 4 = 5 && was && !bitAt v.toNat 0 then s1.controllerReset g else s1)
  else if ofs ≤ 0x3007 then ok (s.doorbell g ofs v)
  else if 0x8000 ≤ ofs && ofs < 0xC010 then
    let w := (ofs - 0x4000) / 4
    ok ((s.hostWord g w v).sendHeld g ((w - msixWord) / 4) 1)
  else ok s

/-! ### The shadow file's staging buffer (R108) -/

/-- HPx_SHD_ADDR moves on. -/
def State.shdNext (s : State) (g : Nat) : State :=
  s.wf (R.HP_SHD_ADDR g) F.HP_SHD_ADDR_WORD (s.rf (R.HP_SHD_ADDR g) F.HP_SHD_ADDR_WORD + 1)

/-- A HPx_SHD_DATA write (R107, R108). -/
def State.writeShdData (s : State) (i : Initiator) (g : Nat) (v : Word) : State :=
  let w := s.rf (R.HP_SHD_ADDR g) F.HP_SHD_ADDR_WORD
  if !hpWriter i || (s.hp g).commitPending || 64 ≤ (s.hp g).staged.length || msixWord ≤ w then s
  else (s.setHp g { s.hp g with staged := (s.hp g).staged ++ [(w, v)] }).shdNext g

/-- SHADOW_STAGE. -/
def execShadowStage (i : Initiator) (g : Fin 2) (v : Word) (s : State) : Host.Outcome State Fault Refusal :=
  ok (s.writeShdData i g v)

/-- A HPx_SHD_RDATA read: committed content, and the address moves on (R108). -/
def State.readShdData (s : State) (g : Nat) : State :=
  let w := s.rf (R.HP_SHD_ADDR g) F.HP_SHD_ADDR_WORD
  (s.shdNext g).answer (if w < shadowWords then s.shadow g w else 0)

/-- SHADOW_READ. -/
def execShadowRead (i : Initiator) (g : Fin 2) (s : State) : Host.Outcome State Fault Refusal :=
  if hpWriter i then ok (s.readShdData g) else ok (s.answer 0)

/-- A HPx_SHD_COMMIT write (R108). DESIGN CHOICE where the register's table is silent: with GO and DISCARD both 1 the staging buffer is
emptied and nothing commits; and a write while PENDING is 1 has no effect, neither a second commit nor a discard of what waits. -/
def State.writeShdCommit (s : State) (i : Initiator) (g : Nat) (v : Word) : State :=
  if !hpWriter i || (s.hp g).commitPending then s
  else if fget v F.HP_SHD_COMMIT_DISCARD = 1 then s.setHp g { s.hp g with staged := [] }
  else if fget v F.HP_SHD_COMMIT_GO = 1 then s.setHp g { s.hp g with commitPending := true }
  else s

/-- SHADOW_COMMIT. -/
def execShadowCommit (i : Initiator) (g : Fin 2) (s : State) : Host.Outcome State Fault Refusal :=
  ok (s.writeShdCommit i g 1)

/-- SHADOW_DISCARD. -/
def execShadowDiscard (i : Initiator) (g : Fin 2) (s : State) : Host.Outcome State Fault Refusal :=
  ok (s.writeShdCommit i g 2)

/-- SHADOW_COMMIT_EFFECT: the staged words take effect together, in the order staged (R108). -/
def execShadowCommitEffect (g : Fin 2) (s : State) : Host.Outcome State Fault Refusal :=
  if (s.hp g).commitPending then
    let s1 := (s.hp g).staged.foldl (fun t q => t.setShadow g q.1 q.2) s
    ok ((s1.setHp g { s1.hp g with staged := [], commitPending := false }).raise (R.HP_EVT g) F.HP_EVT_SHD_DONE)
  else ok s

end Sys2Proof.Machine
end

