-- ==== Sys2Proof/Machine/TouchOps.lean ====
section
/-!
DEFINITION. Sys2Proof/Machine/TouchOps.lean: system sector addresses and list sectors of the defect list (R223, R224), and the
Touchstone record: its sections, frames, tracks and cells, both ways (R225 to R229).
-/

namespace Sys2Proof.Machine

/-! ### System sectors and the defect list (R223, R224) -/

/-- The SSA of a system sector: surface, system track, sector. -/
def ssaOf (surf track sector : Nat) : Nat := surf * 2 ^ 27 + track * 2 ^ 20 + sector

/-- Surface, system track and sector of an SSA. -/
def ssaSurf (a : Nat) : Nat := a / 2 ^ 27 % 32
def ssaTrack (a : Nat) : Nat := a / 2 ^ 20 % 128
def ssaSector (a : Nat) : Nat := a % 2 ^ 16

/-- What a system track is for (R224); the odd Touchstone tracks and the last four are never written. -/
inductive SysArea where
  | touch (copy : Nat)
  | defects
  | cairn
  | unused
deriving DecidableEq, Repr
def sysArea (j : Nat) : SysArea :=
  if j < 64 then (if j % 2 = 0 then .touch (j / 32) else .unused) else if j < 96 then .defects else if j < 124 then .cairn else .unused

/-- Where system track `j` lies, in track pitches from data track 0, outward below zero. -/
def sysPitch (j : Nat) : Int := (j : Int) - 128

/-- A system sector written, unshingled, in the format of zone 0. -/
def State.putSys (s : State) (ssa metaB data : Nat) : State :=
  match s.surface (ssaSurf ssa), s.zone (ssaSurf ssa) 0 with
  | some x, some z =>
    { s with way := { s.way with sys := spInsert (spErase s.way.sys ssa) ssa (metaB, data) } }.writeOut x z true (sysPitch (ssaTrack ssa))
      (ssaSector ssa) ssa data metaB
  | _, _ => s

/-- The system sector `i` places behind `ssa`, in the sectors of zone 0. -/
def State.ssaPlus (s : State) (ssa i : Nat) : Nat :=
  let spt := max 1 (((s.zone (ssaSurf ssa) 0).map Zone.spt).getD 1)
  ssaOf (ssaSurf ssa) (ssaTrack ssa + (ssaSector ssa + i) / spt) ((ssaSector ssa + i) % spt)

/-- System sectors of the tracks that FORMAT names written from `i` on, `n` of them: the bytes of each stand in the context's staging, user
bytes and metadata in the order of R208 (DESIGN CHOICE: the item's data has no other place in its context); false where a read faults. -/
def State.formatRun (s : State) (str iova ssa : Nat) : Nat → Nat → Bool × State
  | _, 0 => (true, s)
  | i, n + 1 =>
    let a := s.ssaPlus ssa i
    if sysArea (ssaTrack a) = .defects ∨ sysArea (ssaTrack a) = .cairn then
      let q := s.dmaRead str qMedia (iova + 4128 * i) 4128
      match q.1 with
      | .done => (q.2.2.putSys a (q.2.1 / 2 ^ 32768 % 2 ^ 256) (q.2.1 % 2 ^ 32768)).formatRun str iova ssa (i + 1) n
      | _ => (false, q.2.2)
    else s.formatRun str iova ssa (i + 1) n

/-- The defect list of a surface, sorted by TRACK, SECTOR, START. -/
def defLt (a b : Defect) : Bool := lexLt [a.track, a.sector, a.start] [b.track, b.sector, b.start]
def insertDefect (e : Defect) : List Defect → List Defect
  | [] => [e]
  | x :: rest => if defLt e x then e :: x :: rest else x :: insertDefect e rest
def State.defectList (s : State) (surf : Nat) : List Defect :=
  (s.way.defects.filter fun d => d.surf = surf).foldr insertDefect []

/-- An entry of a list sector. -/
def Defect.fields (d : Defect) : List (Nat × Nat) :=
  [(4, d.track), (1, if d.skip then 1 else 2), (1, 0), (2, d.sector), (4, if d.skip then 0 else d.start),
    (2, if d.skip then 0 else d.len), (2, 0)]

/-- The list sectors of a surface, in order: a 16-byte header, then up to 255 entries. -/
def State.listSectors (s : State) (surf : Nat) : List Nat :=
  let all := s.defectList surf
  (List.range (ceilDiv all.length 255)).map fun k =>
    let part := (all.drop (255 * k)).take 255
    argOf ([(4, all.length), (2, part.length), (10, 0)] ++ part.flatMap Defect.fields)

/-- Entry `i` of a list sector of surface `surf`. -/
def readDefect (surf v i : Nat) : Defect :=
  let o := 16 + 16 * i
  { surf, track := rdLe v o 4, skip := rdLe v (o + 4) 1 = 1, sector := rdLe v (o + 6) 2, start := rdLe v (o + 8) 4, len := rdLe v (o + 12) 2 }

/-- The entries of `n` list sectors from `ssa` on, where all of them stand on media. -/
def State.readList (s : State) (ssa : Nat) : Nat → Option (List Defect)
  | 0 => some []
  | n + 1 =>
    match spGet s.way.sys (s.ssaPlus ssa n), s.readList ssa n with
    | some x, some l => some (l ++ (List.range (min 255 (rdLe x.2 4 2))).map (readDefect (ssaSurf ssa) x.2))
    | _, _ => none

/-- A sector that would need more than eight windows is a SKIP (R221). -/
def mergeWindows (l : List Defect) : List Defect :=
  (l.map fun d =>
    if !d.skip && 8 < (l.filter fun e => !e.skip && e.track = d.track && e.sector = d.sector).length then
      { d with skip := true, start := 0, len := 0 } else d).eraseDups

/-! ### The sections (R228) -/

/-- A section: TYPE, INST, and its content by field. -/
structure TouchSection where
  typ : Nat
  inst : Nat
  content : List (Nat × Nat)
deriving DecidableEq, Repr

/-- Bytes of fields. -/
def fieldsLen (l : List (Nat × Nat)) : Nat := l.foldl (fun n f => n + f.1) 0

/-- A section as fields: its header, its content padded to a multiple of 8. -/
def TouchSection.fields (x : TouchSection) : List (Nat × Nat) :=
  let n := fieldsLen x.content
  [(2, x.typ), (2, x.inst), (4, n)] ++ x.content ++ [(8 * ceilDiv n 8 - n, 0)]

/-- FORMAT. -/
def formatContent : List (Nat × Nat) :=
  [(2, 320), (2, 48), (2, 4096), (2, 32), (2, 64), (2, 1024), (2, 96), (2, 1200), (8, markSm1), (8, markSm2), (4, 0x00420000),
    (4, 0x00555555), (8, 0x42F0E1EBA9EA3693), (4, codeK), (12, 0)]

/-- DEVICE: PART_NO, SERIAL, WEAVE and MOTOR. -/
def deviceContent (k : Kenul) : List (Nat × Nat) := [(4, 0x9640), (4, k.serial), (40, k.weave), (16, k.motor)]

/-- CODES: a code set with its parity-check description (R232). -/
def codesContent (set : Nat) : List (Nat × Nat) :=
  let l := circulants set
  [(1, set), (3, 0), (4, codeN set), (4, codeK), (2, 64), (2, codeMB set), (2, codeNB set), (2, 0), (4, l.length)]
    ++ l.map fun c => (4, c.entry)

/-- The code sets any surface uses. -/
def Kenul.codeSets (k : Kenul) : List Nat :=
  (List.range 16).filter fun c => k.surfaces.any fun x => x.zones.any fun z => z.code = c

/-- The sections that the applied image fixes: FORMAT, DEVICE, SURFACE and CODES. -/
def imageSections (k : Kenul) : List TouchSection :=
  [⟨1, 0, formatContent⟩, ⟨2, 0, deviceContent k⟩] ++ k.surfaces.map (fun x => ⟨3, x.surf, [(x.len, x.raw)]⟩)
    ++ k.codeSets.map fun c => ⟨4, c, codesContent c⟩

/-- MAP of the newest completed checkpoint. -/
def mapContent : Option Ckpt → List (Nat × Nat)
  | none => [(8, 0), (8, 0), (6, noPsa), (2, 0), (6, noPsa), (2, 0)]
  | some c => [(8, c.seq), (8, c.wseq), (6, c.end1), (2, 0), (6, c.end2), (2, 0)]

/-- The records of the flash area, oldest first. -/
def flashRecs (c : CrnState) : List Rec :=
  let l := c.flash.filterMap fun q => match q.2 with
    | .good r => some (q.1, r)
    | .bad => none
  ((l.filter fun q => c.flashPos ≤ q.1) ++ l.filter fun q => q.1 < c.flashPos).map Prod.snd

/-- The newest 256 records of the flash area and the active log, oldest first (R459). -/
def newestRecs (c : CrnState) : List Rec :=
  let old := (flashRecs c).filter fun r => !c.log.any fun x => x.inFlash && x.seq = r.seq && x.fb = r.fb
  let all := old ++ c.log
  all.drop (all.length - 256)

/-- Sectors of the persistence area of a surface: tracks 96 to 123, each of zone 0's SPT (R224). -/
def State.persistSectors (s : State) (surf : Nat) : Nat := 28 * ((s.zone surf 0).map Zone.spt).getD 0

/-- The surface of an actuator that holds its persistence area: the first in service (R459). -/
def State.persistSurf (s : State) (act : Nat) : Nat :=
  ((s.surfsIn.filter fun x => x / 8 = act).head?).getD (8 * act)

/-- The sectors of records in the persistence area, by their first SEQ (R459): metadata and user bytes. -/
def insertArea (e : Nat × Nat) : List (Nat × Nat) → List (Nat × Nat)
  | [] => [e]
  | x :: rest => if rdLe e.1 8 8 < rdLe x.1 8 8 then e :: x :: rest else x :: insertArea e rest
def State.areaSectors (s : State) : List (Nat × Nat) :=
  ((s.way.sys.filter fun q => 96 ≤ ssaTrack q.1 && ssaTrack q.1 < 112 && rdLe q.2.1 0 4 = 0x504E5243).map Prod.snd).foldr insertArea []

/-- The device's own records in the persistence area and in the active log, oldest first, each once (R440, R459). -/
def State.ownRecs (s : State) : List Nat :=
  let log := (s.crn.log.filter fun r => !r.ev.pred).map Rec.bytes
  let area := s.areaSectors.flatMap fun q => (List.range (min 64 (rdLe q.1 16 2))).map fun i => rdLe q.2 (64 * i) 64
  ((area.filter fun v => !bitAt (rdLe v 6 1) 2 && !log.contains v).eraseDups) ++ log

/-- CAIRN. -/
def State.cairnContent (s : State) (surf : Nat) : List (Nat × Nat) :=
  let p := s.persistSurf (surf / 8)
  let l := newestRecs s.crn
  [(4, ssaOf p 96 0), (4, s.persistSectors p), (4, l.length), (4, 0)] ++ l.map fun r => (64, r.bytes)

/-- DEFECTS. -/
def State.defectsContent (s : State) (surf : Nat) : List (Nat × Nat) :=
  [(4, ssaOf surf 64 0), (4, (s.defectList surf).length), (4, (s.listSectors surf).length), (4, 0)]

/-! ### The record (R227) -/

/-- The bytes of a record, least significant first, as a number and a length. -/
structure TouchRec where
  bytes : Nat
  len : Nat
deriving DecidableEq, Repr

/-- Copy `n` (2 x surface + copy) as it would be written now, END included. -/
def State.touchRec (s : State) (n : Nat) (k : Kenul) : TouchRec :=
  let secs := imageSections k ++
    [⟨5, 0, mapContent s.way.ckpts.head?⟩, ⟨6, 0, s.cairnContent (n / 2)⟩, ⟨7, 0, s.defectsContent (n / 2)⟩]
  let body := secs.flatMap TouchSection.fields
  let total := 64 + fieldsLen body + 16
  let head : List (Nat × Nat) :=
    [(4, 0x4E545354), (2, 0x0100), (1, n / 2), (1, n % 2), (8, s.way.rseq), (4, total), (2, secs.length + 1), (2, 0),
      (8, s.crn.minutes), (8, s.crn.nextSeq - 1), (4, 3072), (20, 0)]
  let v := argOf (head ++ body)
  { bytes := v + 2 ^ (8 * (total - 16)) * argOf [(2, 0xFFFF), (2, 0), (4, 8), (4, crc32c v (total - 16)), (4, 0)], len := total }

/-! ### Frames, tracks and cells (R225, R226) -/

/-- Data bits of bytes `n`, each sent bit 7 first. -/
def numBits (v n : Nat) : List Bool := bytesToBits (leBytes v n)

/-- The sync word, its bytes in order from the highest. -/
def touchSync : List Bool := bytesToBits [0xB5, 0xC7, 0x1A, 0x3E]

/-- Most frames of a record. -/
def maxFrames : Nat := 640

/-- Header and payload of frame `f`, and their bytes. -/
def TouchRec.frameBody (r : TouchRec) (rseq f : Nat) : Nat × Nat :=
  let plen := min 1024 (r.len - 1024 * f)
  (argOf [(2, rseq), (2, f), (2, ceilDiv r.len 1024), (2, plen), (plen, rdLe r.bytes (1024 * f) plen)], 8 + plen)

/-- Frame `f` as data bits: lead, sync, header, payload, CRC and trail. -/
def TouchRec.frame (r : TouchRec) (rseq f : Nat) : List Bool :=
  let b := r.frameBody rseq f
  List.replicate 128 false ++ touchSync ++ numBits b.1 b.2 ++ numBits (crc32c b.1 b.2) 4 ++ List.replicate 32 false

/-- The frames of a record. -/
def TouchRec.frames (r : TouchRec) (rseq : Nat) : List (List Bool) :=
  (List.range (min maxFrames (ceilDiv r.len 1024))).map fun f => r.frame rseq f

/-- Data bits of one revolution: 48 Mb/s at TARGET_RPM (R225). -/
def revData (rpm : Nat) : Nat := 48000000 * 60 / rpm

/-- Frames laid on tracks of `rev` data bits: each starts with 8,192 zeros and takes frames while a whole one still ends 4,096 bits
before the index. A track is written to where its gate closes; `n` tracks are left behind the one at hand. -/
def layTracks (rev : Nat) : List (List Bool) → Nat → List Bool → List (List Bool)
  | [], _, cur => [cur]
  | f :: rest, n, cur =>
    if cur.length + f.length + 4096 ≤ rev then layTracks rev rest n (cur ++ f)
    else match n with
      | 0 => [cur]
      | m + 1 => cur :: layTracks rev rest m (List.replicate 8192 false ++ f)

/-- Biphase-mark cells: the polarity changes at every data bit, and again within a 1. -/
def toCells : Bool → List Bool → List Bool
  | _, [] => []
  | p, b :: rest => (!p) :: ((!p) != b) :: toCells ((!p) != b) rest

/-- The data bits of cells; reading ends where a bit's first cell shows no change. -/
def ofCells : Bool → List Bool → List Bool
  | p, a :: b :: rest => if a = p then [] else (a != b) :: ofCells b rest
  | _, _ => []

/-- A number from data bits, byte by byte, each bit 7 first; `n` bytes. -/
def bitsNum (l : List Bool) (n : Nat) : Nat := bytesLe (bitsToBytes l n)

/-- A frame as recovered from data bits at its lead: RSEQ bits, FRAME, FRAMES, payload and its length; none with a bad CRC. -/
structure TouchFrame where
  rseq : Nat
  frame : Nat
  frames : Nat
  payload : Nat
  plen : Nat
deriving DecidableEq, Repr

def readFrame (l : List Bool) : Option TouchFrame :=
  let b := l.drop 160
  let h := bitsNum b 8
  let plen := rdLe h 6 2
  let v := bitsNum b (8 + plen)
  if (l.drop 128).take 32 = touchSync && 1 ≤ plen && plen ≤ 1024 && b.length ≥ 8 * (12 + plen)
      && crc32c v (8 + plen) = bitsNum (b.drop (8 * (8 + plen))) 4 then
    some { rseq := rdLe h 0 2, frame := rdLe h 2 2, frames := rdLe h 4 2, payload := rdLe v 8 plen, plen }
  else none

/-- The frames of a track's data bits from its first lead on; at most `n`. -/
def readFrames : Nat → List Bool → List TouchFrame
  | 0, _ => []
  | n + 1, l => match readFrame l with
    | none => []
    | some f => f :: readFrames n (l.drop (160 + 8 * (12 + f.plen) + 32))

/-- The record whose frames are `fs`: every frame from 0 to FRAMES - 1 with the same RSEQ bits, joined in FRAME order. -/
def joinFrames (fs : List TouchFrame) : Option TouchRec :=
  match fs with
  | [] => none
  | f :: _ =>
    let l := (List.range f.frames).filterMap fun k => fs.find? fun x => x.frame = k
    if f.frames ≤ maxFrames && l.length = f.frames && l.all (fun x => x.rseq = f.rseq && x.frames = f.frames) then
      some { bytes := argOf (l.map fun x => (x.plen, x.payload)), len := l.foldl (fun n x => n + x.plen) 0 }
    else none

/-! ### Reading a copy (R229) -/

/-- Sections of a record from byte `o`: TYPE, INST, offset of the content, LEN; at most `n`. -/
def readSections (r : TouchRec) : Nat → Nat → List (Nat × Nat × Nat × Nat)
  | 0, _ => []
  | n + 1, o =>
    if r.len < o + 8 then []
    else
      let len := rdLe r.bytes (o + 4) 4
      (rdLe r.bytes o 2, rdLe r.bytes (o + 2) 2, o + 8, len) :: readSections r n (o + 8 + 8 * ceilDiv len 8)

def TouchRec.sections (r : TouchRec) : List (Nat × Nat × Nat × Nat) := readSections r (rdLe r.bytes 20 2) 64

/-- MAGIC, VERSION and the END CRC are good. -/
def TouchRec.good (r : TouchRec) : Bool :=
  rdLe r.bytes 0 4 = 0x4E545354 && rdLe r.bytes 4 2 = 0x0100 && (match r.sections.getLast? with
    | some (t, _, o, _) => t = 0xFFFF && rdLe r.bytes o 4 = crc32c r.bytes (o - 8)
    | none => false)

/-- The valid record of a copy's tracks. -/
def readTracks (ts : List (List Bool)) : Option TouchRec :=
  let fs := ts.flatMap fun c => readFrames maxFrames ((ofCells false c).drop 8192)
  (joinFrames fs).bind fun r => if r.good then some r else none

/-- RSEQ, the MAP section, and the content of the sections that the image fixes. -/
def TouchRec.rseq (r : TouchRec) : Nat := rdLe r.bytes 8 8
def TouchRec.content (r : TouchRec) (typ : Nat) : List (Nat × Nat) :=
  (r.sections.filter fun x => x.1 = typ).map fun x => (x.2.1, rdLe r.bytes x.2.2.1 x.2.2.2)
def TouchRec.map (r : TouchRec) : Nat := ((r.content 5).head?.map Prod.snd).getD 0
def TouchRec.ckseq (r : TouchRec) : Nat := rdLe r.map 0 8
def TouchRec.end1 (r : TouchRec) : Nat := rdLe r.map 16 6

/-- FORMAT, DEVICE, SURFACE and CODES stand as image `k` would have them written. -/
def TouchRec.matches (r : TouchRec) (k : Kenul) : Bool :=
  let want := imageSections k
  [1, 2, 3, 4].all fun t =>
    r.content t = (want.filter fun x => x.typ = t).map fun x => (x.inst, argOf x.content)

/-! ### The copies of the surfaces -/

/-- The valid record of copy `n` (2 x surface + copy). -/
def State.touchCopy (s : State) (n : Nat) : Option TouchRec := (spGet s.way.touch n).bind readTracks

/-- The defect list of surface `surf` as record `r` names it, read from its system sectors (R223). -/
def State.loadList (s : State) (surf : Nat) (r : TouchRec) : State :=
  match (r.content 7).head? with
  | none => s
  | some q => match s.readList (rdLe q.2 0 4) (rdLe q.2 8 4) with
    | none => s
    | some l => { s with way := { s.way with
        defects := s.way.defects.filter (fun d => d.surf ≠ surf) ++ mergeWindows ((l.take (rdLe q.2 4 4)).map fun d => { d with surf }) } }

/-- Every valid record, by copy. -/
def State.touchRecs (s : State) : List (Nat × TouchRec) :=
  s.way.touch.filterMap fun q => (readTracks q.2).map fun r => (q.1, r)

/-- The record a reader uses among those of a list: the highest RSEQ (R229). -/
def newestRec (l : List (Nat × TouchRec)) : Option TouchRec :=
  l.foldl (fun b q => match b with
    | none => some q.2
    | some x => if x.rseq < q.2.rseq then some q.2 else some x) none

/-- The defect list of every surface read from media, by the surface's newest valid record. -/
def State.loadLists (s : State) : State :=
  s.surfaces.foldl (fun t x => match newestRec (t.touchRecs.filter fun q => q.1 / 2 = x.surf) with
    | some r => t.loadList x.surf r
    | none => t) s

/-- Copy `n` written whole at RSEQ, which then counts on: its tracks go through the write channel at the Touchstone rate (R225). -/
def State.writeCopy (s : State) (n : Nat) : State :=
  match s.kenul with
  | none => s
  | some k =>
    let r := s.touchRec n k
    let ts := (layTracks (revData s.targetRpm) (r.frames s.way.rseq) 15 (List.replicate 8192 false)).map (toCells false)
    ((List.range ts.length).zip ts).foldl (fun t q =>
        t.emit (.written (n / 2) (s.kHzAt touchMHz) (sysPitch (32 * (n % 2) + 2 * q.1)) [(0, cellBits q.2)]))
      { s with way := { s.way with touch := spSet [] s.way.touch n ts, rseq := s.way.rseq + 1 } }

/-- The older copy of a surface: one that is not valid, else the lower RSEQ (R229, R230). -/
def State.olderCopy (s : State) (surf : Nat) : Nat :=
  match s.touchCopy (2 * surf), s.touchCopy (2 * surf + 1) with
  | none, _ => 2 * surf
  | _, none => 2 * surf + 1
  | some a, some b => if a.rseq ≤ b.rseq then 2 * surf else 2 * surf + 1

/-- The rewrite an actuator is at: the first of its surfaces that waits, one surface at a time. -/
def State.touchAt (s : State) (act : Nat) : Option Nat := s.way.touchQ.find? fun n => n / 16 = act

/-- A rewrite under way leaves its copy invalid until it ends; none runs in Haven. -/
def State.touchBegin (s : State) : State :=
  if s.mode = mHaven then s
  else { s with way := { s.way with touch := ((List.range 4).filterMap s.touchAt).foldl (fun m n => spErase m n) s.way.touch } }

/-- A rewrite of copy `n` waits its turn. -/
def State.queueCopy (s : State) (n : Nat) : State :=
  if s.way.touchQ.contains n then s else { s with way := { s.way with touchQ := s.way.touchQ ++ [n] } }

/-- A drain or a Haven entry interrupts rewrites: those that `keep` refuses are given up, one under way left invalid (R230). -/
def State.dropCopies (s : State) (keep : Nat → Bool) : State :=
  { s with way := { s.way with touchQ := s.way.touchQ.filter keep } }.touchBegin

/-- The rewrite of copy `n` ends; the actuator goes on with its next (R230). -/
def State.touchDone (s : State) (n : Nat) : State :=
  let t := s.writeCopy n
  { t with way := { t.way with touchQ := t.way.touchQ.filter (· ≠ n) } }.touchBegin

end Sys2Proof.Machine
end

