-- ==== Sys2Proof/Machine/CkptOps.lean ====
section
/-!
DEFINITION. Sys2Proof/Machine/CkptOps.lean: checkpoints as map pages on media, the Touchstone rewrites that follow them, and the
load with its replay (R165 to R171, R224 to R230).
-/

namespace Sys2Proof.Machine

/-! ### Map pages -/

/-- Order of keys, field by field (R167). -/
def keyLt (a b : Key) : Bool := lexLt [a.tenant, a.kind, a.id, a.offset] [b.tenant, b.kind, b.id, b.offset]

/-- A leaf entry: its key, its record, and the record's size. -/
abbrev LeafEntry := Key × Nat × Nat

/-- An entry put in key order. -/
def insertEntry (e : LeafEntry) : List LeafEntry → List LeafEntry
  | [] => [e]
  | x :: rest => if keyLt e.1 x.1 then e :: x :: rest else x :: insertEntry e rest

/-- Entries in key order. -/
def sortEntries : List LeafEntry → List LeafEntry
  | [] => []
  | e :: rest => insertEntry e (sortEntries rest)

/-- Entries packed into pages of at most 4,080 bytes of records. -/
def packLeaves : List LeafEntry → List LeafEntry → Nat → List (List LeafEntry)
  | [], cur, _ => if cur = [] then [] else [cur.reverse]
  | e :: rest, cur, used =>
    if used + e.2.2 ≤ 4080 then packLeaves rest (e :: cur) (used + e.2.2)
    else cur.reverse :: packLeaves rest [e] e.2.2

/-- A list cut into pieces of `n`; `fuel` bounds the pieces. -/
def cutList {α : Type} (n : Nat) : Nat → List α → List (List α)
  | 0, _ => []
  | f + 1, l => if l.isEmpty then [] else l.take n :: cutList n f (l.drop n)

/-- A leaf page. -/
def leafPage (ckseq : Nat) (es : List LeafEntry) : Nat :=
  let body := argOf ([(2, 2), (2, es.length), (1, 0), (3, 0), (4, ckseq), (4, 0)] ++ es.map fun e => (e.2.2, e.2.1))
  body + 2 ^ 96 * crc32c body 4096

/-- Index levels above `children` (first key and PSA of each), the pages in order with the root last; `at` gives the PSA of the
n-th page of the checkpoint. -/
def indexLevels (ckseq : Nat) (pos : Nat → Nat) : Nat → Nat → Nat → List (Key × Nat) → List Nat → List Nat × Nat
  | 0, _, _, cs, acc => (acc, (cs.map Prod.snd).headD 0)
  | f + 1, level, n, cs, acc =>
    match cs with
    | [c] => (acc, c.2)
    | _ =>
      let groups := cutList 127 cs.length cs
      let pages := groups.map fun g => mapPage 1 level ckseq 32 (g.map fun c => indexRec c.1 c.2)
      let next := (groups.zip (List.range groups.length)).map fun q =>
        (((q.1.head?).map Prod.fst).getD ⟨0, 0, 0, 0⟩, pos (n + q.2))
      indexLevels ckseq pos f (level + 1) (n + groups.length) next (acc ++ pages)

/-- SURVEYED of an object (R163). -/
def State.surveyedOf (s : State) (t id : Nat) : Nat :=
  let bs := (s.way.map.filter fun q => q.1.tenant = t && q.1.kind = 1 && q.1.id = id).filterMap fun q =>
    (s.bandOfPsa q.2).map fun b => s.band b.1
  if bs = [] || bs.any (fun b => !b.surveyed) then 0 else minOf (bs.map Band.last)

/-- Granules charged to an object. -/
def State.granulesOf (s : State) (t id : Nat) : Nat := s.countMap fun k => k.tenant = t && k.kind = 1 && k.id = id

/-- LENGTH of an object (R124, R129). -/
def Obj.len (o : Obj) : Nat := if o.stream.isSome then o.high * 4096 else o.length

/-- STATE of an object: bit 0 open, bit 1 sealed. -/
def Obj.st (o : Obj) : Nat := b2n o.stream.isSome + 2 * b2n o.sealed

/-- The leaf entries of the map and the object table. -/
def State.leafEntries (s : State) : List LeafEntry :=
  sortEntries ((s.way.map.map fun q => (q.1, runRec q.1 (shownPsa q.2) 1, 32)) ++ s.cmd.objects.map fun o =>
    (⟨o.tenant, 1, o.id, 0xFFFFFFFF⟩,
      objectRec o.tenant o.id o.len o.cls o.st o.created (s.surveyedOf o.tenant o.id) (s.granulesOf o.tenant o.id), 64))

/-- Band `n` as the table shows it: every band of a head that is OUT or CALIBRATING is RETIRED (R147, R172). -/
def State.bandShown (s : State) (n : Nat) : Band :=
  let u := s.unitState 1 (s.bandSurf n)
  if u = uOut || u = uCal then { s.band n with st := .retired } else s.band n

/-- Every band in number order. -/
def State.allBands (s : State) : List Nat := List.range (s.surfBands.foldl (fun n x => n + x.2.2) 0)

/-- Tenant records of a configuration page, from index `lo`. -/
def State.tenantRecs (s : State) (lo : Nat) : List (Nat × Nat) :=
  (List.range 126).flatMap fun i =>
    let t := lo + i
    if t < 256 then [(4, (s.rd (R.WAY_TEN_CFG t)).toNat), (8, s.tenAllow (t + 1)), (8, s.tenUse (t + 1)), (12, 0)]
    else [(32, 0)]

/-- A configuration page. -/
def State.configPage (s : State) (ckseq lo : Nat) : Nat :=
  let body := argOf ([(2, 5), (2, 1), (1, 0), (3, 0), (4, ckseq), (4, 0)]
    ++ ((List.range 8).map fun c => (4, (s.rd (R.WAY_CLASS c)).toNat))
    ++ ((List.range 4).map fun k => (4, (s.unitWord k).toNat)) ++ s.tenantRecs lo)
  body + 2 ^ 96 * crc32c body 4096

/-- The pages of a checkpoint to band `b`, with the PSA of its end page. -/
def State.ckptPages (s : State) (b seq prev : Nat) : List Nat × Nat :=
  let pos := fun n => s.bandPsa b (s.dataPlace b 0 n)
  let packs := packLeaves s.leafEntries [] 0
  let leaves := packs.map (leafPage seq)
  let children := (packs.zip (List.range packs.length)).map fun q =>
    (((q.1.head?).map fun e => e.1).getD ⟨0, 0, 0, 0⟩, pos q.2)
  let idx := indexLevels seq pos 6 1 leaves.length children []
  let bands := cutList 170 s.allBands.length s.allBands
  let bandPages := bands.map fun l => mapPage 3 0 seq 24 (l.map fun n => bandRec (s.bandPsa n 0) (s.bandShown n))
  let groups := cutList 63 s.way.groups.length s.way.groups
  let groupPages := groups.map fun l => mapPage 4 0 seq 64 (l.map fun q => groupRec q.1 q.2)
  let tables := bandPages ++ groupPages ++ [s.configPage seq 0, s.configPage seq 126, s.configPage seq 252]
  let first := leaves.length + idx.1.length
  let root := if leaves = [] then noPsa else idx.2
  let pages := leaves ++ idx.1 ++ tables
  (pages ++ [endPage seq (s.way.wseq - 1) root (pos first) tables.length prev], pos pages.length)

/-- Sectors a checkpoint takes: its pages, which two bands must hold. -/
def State.ckptFits (s : State) (b1 b2 : Nat) : Bool :=
  let n := (s.ckptPages b1 0 0).1.length
  n ≤ s.dataRoom b1 0 (s.bandSize b1) && n ≤ s.dataRoom b2 0 (s.bandSize b2)

/-- Map sectors written to band `b` at its write pointer. -/
def State.writePages (s : State) (b : Nat) : List Nat → State
  | [] => s
  | p :: rest => (s.writeAt b (s.dataPlace b (s.band b).wp 0) { kind := 3, data := p }).writePages b rest

/-! ### Start and completion (R168, R169) -/

/-- The two surfaces of a checkpoint: distinct, on distinct actuators when two are in service, of FREE bands that FLOOR does not keep
(R158). -/
def State.ckptSurfs (s : State) : List Nat :=
  s.chooseSurfs s.freeSurfs (fun a => min (if 2 ≤ s.actsIn then 1 else 2) (s.actRoom false a)) 2 [] s.fresh

/-- A checkpoint starts, or is remembered while one runs or no pair of bands is FREE. -/
def State.startCkpt (s : State) : State :=
  if s.way.ckptRun.isSome then { s with way := { s.way with ckptReq := true } }
  else match s.ckptSurfs.filterMap s.freeBandOn with
    | [b1, b2] =>
      if !s.ckptFits b1 b2 then { s with way := { s.way with ckptReq := true } }
      else
        let w := { s.way with ckptRun := some (b1, b2), ckptReq := false, goNext := false, opened := 0 }
        let t := { s with fresh := s.fresh + 2, way := w }
        (((t.setBand b1 { st := .map }).setBand b2 { st := .map }).wf R.WAY_CKPT_STAT F.WAY_CKPT_STAT_BUSY 1).capWatch s
    | _ => { s with way := { s.way with ckptReq := true } }

/-- A checkpoint that waits for a pair of FREE bands starts once there is one. -/
def State.retryCkpt (s : State) : State := if s.way.ckptReq && s.way.ckptRun.isNone then s.startCkpt else s

/-- What the checkpoint holds; `wseq` is the counter at the checkpoint. -/
def State.snapshot (s : State) (seq wseq b1 b2 e1 e2 : Nat) : Ckpt :=
  { seq, wseq, map := s.way.map, bands := s.way.bands, groups := s.way.groups,
    units := (List.range 4).map s.unitWord,
    classes := (List.range 8).map fun c => s.rd (R.WAY_CLASS c),
    tenants := (List.range 256).map fun t => (t, s.rd (R.WAY_TEN_CFG t), s.tenAllow (t + 1), s.tenUse (t + 1)),
    objects := s.cmd.objects.map fun o => ⟨o.tenant, o.id, o.len, o.cls, o.sealed, o.created, o.cut⟩,
    band1 := b1, band2 := b2, end1 := e1, end2 := e2 }

/-- A group being cleaned whose sectors are all copied out: no mapping names one, and nothing waits to be written to its bands (R147). -/
def State.cleaned (s : State) (gn : Nat) (g : Group) : Bool :=
  decide (g.st = .cleaning) && g.dataBands.all (fun b => s.mappedIn b = [])
    && (List.range (dataMembers g.redund)).all (fun i => s.goneIn gn i = []) && !s.way.late.any fun e => g.present.contains e.band

/-- Both bands of the checkpoint can be written now (R146). -/
def State.ckptWriters (s : State) (b1 b2 : Nat) : Bool := s.writerUp (s.bandAct b1) && s.writerUp (s.bandAct b2)

/-- The checkpoint in progress is given up, and started again with other bands. -/
def State.moveCkpt (s : State) (b1 b2 : Nat) : State :=
  let s1 := (s.freeBands [b1, b2]).wf R.WAY_CKPT_STAT F.WAY_CKPT_STAT_BUSY 0
  { s1 with way := { s1.way with ckptRun := none } }.startCkpt

/-- The checkpoint in progress completes (R147, R168 to R171). Where the map has outgrown its bands meanwhile, it starts again. -/
def State.completeCkpt (s : State) : State :=
  match s.way.ckptRun with
  | none => s
  | some (b1, b2) =>
    if !s.ckptWriters b1 b2 then s
    else if !s.ckptFits b1 b2 then s.moveCkpt b1 b2
    else
    let seq := s.way.ckptSeq + 1
    let prev := ((s.way.ckpts.head?).map Ckpt.end1).getD noPsa
    let p := s.ckptPages b1 seq prev
    let e2 := s.bandPsa b2 (s.dataPlace b2 0 (p.1.length - 1))
    let done := s.way.groups.filter fun q => s.cleaned q.1 q.2
    let s1 := (s.writePages b1 p.1).writePages b2 p.1
    let s2 := { s1 with way := { s1.way with groups := s1.way.groups.filter fun q => !done.any fun d => d.1 = q.1,
                                             gone := s1.way.gone.filter fun q => !done.any fun d => d.1 = goneGroup q.1 } }
    let s3 := s2.freeBands (done.flatMap fun q => q.2.present)
    let ck := s3.snapshot seq (s.way.wseq - 1) b1 b2 p.2 e2
    let old := (s3.way.ckpts.drop 1).flatMap fun c => [c.band1, c.band2]
    let s4 := ({ s3 with way := { s3.way with ckpts := (ck :: s3.way.ckpts).take 2, ckptRun := none,
                                              ckptSeq := seq } }).freeBands old
    let s5 := ((s4.wf R.WAY_CKPT_STAT F.WAY_CKPT_STAT_BUSY 0).wf R.WAY_CKPT_STAT F.WAY_CKPT_STAT_SEQ seq).wf
      R.WAY_CKPT_CTL F.WAY_CKPT_CTL_GO (b2n s4.way.goNext)
    let s6 := s5.surfsIn.foldl (fun t x => t.queueCopy (t.olderCopy x)) (s5.sigEvent 16) |>.touchBegin
    let s7 := match s6.way.purge with
      | none => s6
      | some _ => { s6 with way := { s6.way with purge := none } }.wf R.WAY_TEN_PURGE F.WAY_TEN_PURGE_BUSY 0 |>.raise
          R.WAY_TEN_PURGE F.WAY_TEN_PURGE_DONE
    let s8 := (s7.ensureLanding.rebuildMissing).capWatch s
    if s8.way.ckptReq then s8.startCkpt else s8

/-- A checkpoint whose target enters DRAINING is abandoned and started again elsewhere (R169). -/
def State.abandonCkpt (s : State) : State :=
  match s.way.ckptRun with
  | some (b1, b2) =>
    if s.headIn (s.bandSurf b1) && s.headIn (s.bandSurf b2) then s else s.moveCkpt b1 b2
  | none => s

/-! ### Load and replay (R170) -/

/-- Sectors that replay applies, by WSEQ. -/
def insertWseq (e : Nat × Sector) : List (Nat × Sector) → List (Nat × Sector)
  | [] => [e]
  | x :: rest => if e.2.wseq < x.2.wseq then e :: x :: rest else x :: insertWseq e rest
def sortWseq : List (Nat × Sector) → List (Nat × Sector)
  | [] => []
  | e :: rest => insertWseq e (sortWseq rest)

/-- The largest WSEQ on media. -/
def maxWseq (m : List (Nat × Sector)) : Nat := m.foldl (fun n q => max n q.2.wseq) 0

/-- Written sectors of a band from sector `i` on. -/
def State.writtenFrom (s : State) (b i : Nat) : Nat → Nat
  | 0 => i
  | n + 1 => if (spGet s.way.media (s.bandPsa b i)).isSome then s.writtenFrom b (i + 1) n else i

/-- The configuration written back to the WAY registers. -/
def State.loadConfig (s : State) (c : Ckpt) : State :=
  let s1 := (c.units.zip (List.range 4)).foldl (fun t q => t.wr (R.WAY_UNIT_STATE q.2) q.1) s
  let s2 := (c.classes.zip (List.range 8)).foldl (fun t q => t.wr (R.WAY_CLASS q.2) q.1) s1
  c.tenants.foldl (fun t q =>
    let u := (((t.wr (R.WAY_TEN_CFG q.1) q.2.1).wr (R.WAY_TEN_ALLOW_LO q.1) (word q.2.2.1)).wf (R.WAY_TEN_ALLOW_HI q.1)
      F.WAY_TEN_ALLOW_HI_ALLOW (q.2.2.1 / 2 ^ 32))
    { u with cmd := { u.cmd with allow := spSet 0 u.cmd.allow q.1 q.2.2.1 } }.setUse (q.1 + 1) q.2.2.2) s2

/-- Band `n` of checkpoint `c` belonged to a member that its unit has taken with it since, and the band has become FREE again (R177). -/
def State.leftGroup (s : State) (n : Nat) (x : Band) : Bool :=
  ((s.band n).st = .free || (s.band n).group ≠ x.group) && (s.group x.group).any fun g => g.gone.contains x.member

/-- What the map of checkpoint `c` names now: a sector of a member lost with its unit since stands only in what redundancy gives back. -/
def State.nowAt (s : State) (c : Ckpt) (psa : Nat) : Nat :=
  match s.bandOfPsa psa with
  | none => psa
  | some (b, r) =>
    let x := spGetD ({} : Band) c.bands b
    let q := goneKey x.group x.member r
    if (spGet s.way.gone q).isSome && (s.group x.group).any (fun g => g.gone.contains x.member) then q else psa

/-- The tables of checkpoint `c` loaded; a band it shows FREE that holds newer sectors became OPEN after it, and one that it shows in a
group may have left it with its unit. -/
def State.loadTables (s : State) (c : Ckpt) : State :=
  let later := s.way.bands.filter fun q => decide ((spGetD ({} : Band) c.bands q.1).st = .free
      ∨ (spGetD ({} : Band) c.bands q.1).st = .landing ∨ (spGetD ({} : Band) c.bands q.1).group ≠ q.2.group)
    && decide (q.2.st = .opened ∨ q.2.st = .full ∨ q.2.st = .cleaning ∨ q.2.st = .retired)
  let kept := c.bands.filter fun q => !s.leftGroup q.1 q.2
  let bands := later.foldl (fun m q => spInsert (spErase m q.1) q.1 q.2) kept
  let groups := (s.way.groups.filter fun q => match spGet c.groups q.1 with
      | none => later.any fun b => b.2.group = q.1
      | some _ => q.2.gone ≠ []).foldl
    (fun m q => spInsert (spErase m q.1) q.1 q.2) c.groups
  let s1 := { s with way := { s.way with map := c.map.map fun (q : Key × Nat) => (q.1, s.nowAt c q.2), bands, groups, ckptSeq := c.seq,
                                         ckptRun := none, pend := [], late := [] },
                     cmd := { s.cmd with objects := c.objects.map fun (o : CkptObj) =>
                       { tenant := o.tenant, id := o.id, length := o.length, high := ceilDiv o.length 4096, cls := o.cls,
                         sealed := o.sealed, created := o.created, cut := o.cut } } }
  (s1.loadConfig c).wf R.WAY_CKPT_STAT F.WAY_CKPT_STAT_SEQ c.seq

/-- One sector of the replay applied (R165): the later WSEQ holds the data. An object it writes to is known from then on; one that grows by
it was open, and has the length that a device reset gives it (R124), while a granule within it may be a copy and changes neither its
length nor what a close cut off. -/
def State.replaySector (s : State) (q : Nat × Sector) : State :=
  let x := q.2
  if x.kind = 0 || x.kind = 1 then
    let key : Key := ⟨x.tenant, x.kind, x.id, x.offset⟩
    let new := (s.mapped key).isNone
    let s1 := s.setMap key q.1
    let s2 := if new then s1.setUse x.tenant (s1.tenUse x.tenant + 1) else s1
    if x.kind = 0 then s2
    else
      let s3 := if s2.cmd.objects.any fun o => o.tenant = x.tenant && o.id = x.id then s2
        else { s2 with cmd := { s2.cmd with objects :=
          { tenant := x.tenant, id := x.id, cls := x.cls, created := s2.crn.minutes } :: s2.cmd.objects } }
      { s3 with cmd := { s3.cmd with objects := s3.cmd.objects.map fun o =>
          if o.tenant = x.tenant && o.id = x.id && o.high ≤ x.offset && !o.sealed then
            { o.wrote x.offset with length := 4096 * (x.offset + 1), cut := [] } else o } }
  else s

/-- Rows of a group whose parity or copy stands on media, from row 0 on; at most `n`. -/
def State.parityFrom (s : State) (g : Group) (r : Nat) : Nat → Nat
  | 0 => r
  | n + 1 =>
    let par := (g.members.drop (dataMembers g.redund)).filterMap id
    if r < g.rows && par ≠ [] && par.all (fun b => s.written b r) then s.parityFrom g (r + 1) n else r

/-- PARITY_ROWS read back from media, and a flushed LANDING band marked for re-placement (R153, R159, R170). The sums of incomplete
rows follow from the sectors on media. -/
def State.regroup (s : State) : State :=
  { s with way := { s.way with groups := s.way.groups.map fun q =>
      (q.1, { q.2 with parityRows := s.parityFrom q.2 q.2.parityRows q.2.rows,
                       landing := if q.2.landing = 1 then 2 else q.2.landing }) } }

/-- The recorded WP of band `n`: none where it became OPEN after the checkpoint. -/
def State.recordedWp (s : State) (c : Option Ckpt) (n : Nat) (b : Band) : Nat :=
  match c with
  | some c => let x := spGetD ({} : Band) c.bands n
              if x.st = b.st && x.group = b.group then x.wp else 0
  | none => 0

/-- Replay: bands read from the recorded WP to the first unwritten sector, sectors newer than the checkpoint applied in WSEQ order, WSEQ
set; nothing placed is left to be written, and a group whose rows are written is FULL. -/
def State.replay (s : State) : State :=
  let c := s.way.ckpts.find? fun c => c.seq = s.way.ckptSeq
  let base := (c.map Ckpt.wseq).getD 0
  let s1 := s.way.bands.foldl (fun t q =>
    let i := if q.2.st = .opened then t.recordedWp c q.1 q.2 else q.2.wp
    let j := if q.2.st = .opened then t.writtenFrom q.1 i (t.bandSize q.1 - i) else i
    t.setBand q.1 { q.2 with wp := j, next := j }) s
  let s2 := (sortWseq ((s1.way.media ++ s1.way.gone).filter fun q => base < q.2.wseq)).foldl State.replaySector s1
  let s3 := s2.regroup
  let s4 := (s3.way.groups.map Prod.fst).foldl State.fullCheck s3
  { s4 with way := { s4.way with wseq := maxWseq (s2.way.media ++ s2.way.gone) + 1, loaded := false } }

end Sys2Proof.Machine
end

