-- ==== Sys2Proof/Machine/CswOps.lean ====
section
/-!
DEFINITION. Sys2Proof/Machine/CswOps.lean: the shared operations of Causeway: frames and their delivery (R428 to R430), the link
and the peer (R427, R431), sessions (R437, R438), the items of an export and of an import (R432 to R436), and history (R440).
-/

namespace Sys2Proof.Machine

/-- Session states of CSW_SESS. -/
def csIdle : Nat := 0
def csPlan : Nat := 1
def csRun : Nat := 2
def csHistory : Nat := 3
def csDone : Nat := 4
def csStopped : Nat := 5
def csDrain : Nat := 6

/-- ERROR codes of CSW_SESS. -/
def ceLink : Nat := 1
def cePeerLost : Nat := 2
def ceRequest : Nat := 3
def ceHaven : Nat := 4
def ceTranslation : Nat := 5
def ceItemFailed : Nat := 6
def ceCapacity : Nat := 7
def ceTenant : Nat := 8
def cePeerChanged : Nat := 9
def ceRole : Nat := 0xA
def ceNotReady : Nat := 0xB

/-- Frame types (R429). -/
def fyHello : Nat := 0x01
def fyAck : Nat := 0x02
def fyNak : Nat := 0x03
def fyPlan : Nat := 0x10
def fyPlanAck : Nat := 0x11
def fyTenant : Nat := 0x12
def fyBegin : Nat := 0x20
def fyData : Nat := 0x21
def fyEnd : Nat := 0x22
def fyAbort : Nat := 0x23
def fyVerified : Nat := 0x24
def fyHistory : Nat := 0x30
def fyStop : Nat := 0x3E
def fyFinish : Nat := 0x3F

/-- The session's state, and whether it is IDLE, STOPPED or DONE. -/
def State.cswSt (s : State) : Nat := s.rf R.CSW_SESS F.CSW_SESS_STATE
def State.cswRest (s : State) : Bool := s.cswSt = csIdle || s.cswSt = csStopped || s.cswSt = csDone
def State.setCswSt (s : State) (n : Nat) : State := s.wf R.CSW_SESS F.CSW_SESS_STATE n

/-- ROLE, the link and the peer. -/
def State.cswRole (s : State) : Nat := s.rf R.CSW_CTL F.CSW_CTL_ROLE
def State.cswUp (s : State) : Bool := s.flag R.CSW_LINK F.CSW_LINK_UP
def State.cswPeer (s : State) : Bool := s.flag R.CSW_LINK F.CSW_LINK_PEER

/-- A 64-bit value held in a LO and HI register pair. -/
def State.sessionId (s : State) : Nat := (s.rd R.CSW_SESSION_LO).toNat + 2 ^ 32 * (s.rd R.CSW_SESSION_HI).toNat

/-- DRIVE_ID of this device (CSW_SELF_ID). -/
def State.driveId (s : State) : Nat := 0x9640 + 2 ^ 32 * (s.sys.fuses.devNum % 2 ^ 96)

/-- The tenant mask of CSW_TEN. -/
def State.exportMask (s : State) : Nat := argOf ((List.range 8).map fun w => (4, (s.rd (R.CSW_TEN w)).toNat))

/-! ### Keys (R167, R432) -/

/-- The place of a KEY in ascending order, field by field. -/
def Key.ord (k : Key) : Nat := ((k.tenant * 2 ^ 8 + k.kind) * 2 ^ 128 + k.id) * 2 ^ 32 + k.offset

/-- The KEY of the item that holds a sector's key. -/
def Key.item (k : Key) : Key :=
  if k.kind = 1 then { k with offset := 0xFFFFFFFF } else { k with id := k.id / 65536 * 65536, offset := 0 }

/-- The sector key of granule `o` of an item, and the granule offset of a sector key in its item. -/
def Key.gran (k : Key) (o : Nat) : Key := if k.kind = 1 then { k with offset := o } else { k with id := k.id + o, offset := 0 }
def Key.granOf (k : Key) : Nat := if k.kind = 1 then k.offset else k.id % 65536

/-- The resume point (R436). -/
def State.resumeNat (s : State) : Nat := argOf ((List.range 6).map fun i => (4, (s.rd (R.CSW_RESUME i)).toNat))
def State.resumeKey (s : State) : Option Key :=
  if s.flag R.CSW_RESUME_CTL F.CSW_RESUME_CTL_VALID then
    some ⟨rdLe s.resumeNat 0 2, rdLe s.resumeNat 2 1, rdLe s.resumeNat 4 16, rdLe s.resumeNat 20 4⟩
  else none
def State.setResume (s : State) (b : Nat) (v : Bool) : State :=
  (((((((s.wr (R.CSW_RESUME 0) (word b)).wr (R.CSW_RESUME 1) (word (b / 2 ^ 32))).wr (R.CSW_RESUME 2)
    (word (b / 2 ^ 64))).wr (R.CSW_RESUME 3) (word (b / 2 ^ 96))).wr (R.CSW_RESUME 4) (word (b / 2 ^ 128))).wr (R.CSW_RESUME 5)
    (word (b / 2 ^ 160)))).wf R.CSW_RESUME_CTL F.CSW_RESUME_CTL_VALID (b2n v)

/-- On the importer, a host read of `k` must wait: its item lies beyond the resume point of the session's tenants (R439). -/
def State.beyondResume (s : State) (k : Key) : Bool :=
  s.mode = mMigration && s.cswRole = 2 && s.cswSt ≠ csDone && bitAt s.csw.tenants (k.tenant - 1)
    && (match s.resumeKey with
      | none => true
      | some r => r.ord < k.item.ord)

/-! ### Frames (R428 to R430) -/

/-- The bytes of a list of fields. -/
def fieldBytes (data : List (Nat × Nat)) : Nat := data.foldl (fun n q => n + q.1) 0

/-- The bytes of a frame: the 16-byte header, the payload, and the CRC-32C over both in the trailer (R428). -/
def frameBytes (typ seq : Nat) (data : List (Nat × Nat)) : Nat :=
  let n := fieldBytes data
  let body := argOf ([(1, typ), (1, 0), (2, n), (4, seq), (8, 0)] ++ data)
  body + 2 ^ (8 * (16 + n)) * crc32c body (16 + n)

/-- A frame leaves: its length and bytes. -/
def State.cswEmit (s : State) (typ seq : Nat) (data : List (Nat × Nat)) : State :=
  s.emit (.causeway typ [fieldBytes data + 24, frameBytes typ seq data])

/-- TYPE, SEQ and a field of the payload of a received frame. -/
def frameTyp (f : Nat) : Nat := rdLe f 0 1
def frameSeq (f : Nat) : Nat := rdLe f 4 4
def frameAt (f o n : Nat) : Nat := rdLe f (16 + o) n

/-- KEY at byte `o` of a payload (R167). -/
def frameKey (f o : Nat) : Key := ⟨frameAt f o 2, frameAt f (o + 2) 1, frameAt f (o + 4) 16, frameAt f (o + 20) 4⟩

/-- A received frame of `len` bytes is well: LEN agrees with its length, is a multiple of 8 and at most 32,832, and the CRC is right
(R428). -/
def frameOk (len f : Nat) : Bool :=
  24 ≤ len && rdLe f 2 2 + 24 = len && rdLe f 2 2 % 8 = 0 && rdLe f 2 2 ≤ 32832 && rdLe f (len - 8) 4 = crc32c f (len - 8)

/-- DATA frames unacknowledged. -/
def State.dataHeld (s : State) : Nat := (s.csw.held.filter fun f => f.typ = fyData).length

/-- Waiting frames sent, in order, within WINDOW and CREDIT. -/
def State.cswPump (s : State) : Nat → State
  | 0 => s
  | n + 1 =>
    match s.csw.queue with
    | [] => s
    | f :: rest =>
      if s.rf R.CSW_CFG F.CSW_CFG_WINDOW ≤ s.csw.held.length || (f.typ = fyData && s.csw.credit ≤ s.dataHeld) then s
      else ({ s with csw := { s.csw with queue := rest, held := s.csw.held ++ [f] } }.cswEmit f.typ f.seq f.data).cswPump n

/-- A sequenced frame numbered and sent, or queued. -/
def State.cswSend (s : State) (typ : Nat) (data : List (Nat × Nat)) : State :=
  let f : CswFrame := { seq := s.csw.txNext, typ, data }
  let t := { s with csw := { s.csw with queue := s.csw.queue ++ [f], txNext := (s.csw.txNext + 1) % 2 ^ 32 } }
  t.cswPump t.csw.queue.length

/-- `a` does not lie after `b` in 32-bit sequence order. -/
def seqLe (a b : Nat) : Bool := (b + 2 ^ 32 - a) % 2 ^ 32 < 2 ^ 31

/-- Frames below NEXT are acknowledged. -/
def State.cswAcked (s : State) (next : Nat) : State :=
  { s with csw := { s.csw with held := s.csw.held.filter fun f => seqLe next f.seq } }

/-- The unacknowledged frames sent again, each counted (R430). -/
def State.cswResend (s : State) : State :=
  s.csw.held.foldl (fun t f => (t.cswEmit f.typ f.seq f.data).countUp R.CSW_CNT_ERR F.CSW_CNT_ERR_RETX 1) s

/-- The effect `f` of a frame of type `typ` that arrives: nothing while the link is down; a bad CRC or length discards it, counted
(R428). -/
def State.cswRx (s : State) (len frame typ : Nat) (f : State → State) : State :=
  if !s.cswUp then s
  else if !frameOk len frame then s.countUp R.CSW_CNT_ERR F.CSW_CNT_ERR_CRC_ERR 1
  else if frameTyp frame = typ then f s
  else s

/-- A sequenced frame is accepted with SEQ equal to NEXT; the first frame of a gap is answered with NAK (R430). -/
def State.cswSeq (s : State) (seq : Nat) : Bool × State :=
  if seq = s.csw.rxNext then (true, { s with csw := { s.csw with rxNext := (seq + 1) % 2 ^ 32, gap := false } })
  else if seqLe seq s.csw.rxNext || s.csw.gap then (false, s)
  else (false, { s with csw := { s.csw with gap := true } }.cswEmit fyNak 0 [(4, s.csw.rxNext), (4, 0)])

/-- The effect `f` of a sequenced frame that arrives well and in order. -/
def State.cswFrame (s : State) (len frame typ : Nat) (f : State → State) : State :=
  s.cswRx len frame typ fun t => let q := t.cswSeq (frameSeq frame); if q.1 then f q.2 else q.2

/-! ### Items in flight and the end of a session (R435 to R438) -/

/-- Every item in flight. -/
def State.cswItems (s : State) : List CswItem := s.csw.sending.toList ++ s.csw.redo ++ s.csw.wait ++ s.csw.rx

/-- INFLIGHT: items awaiting VERIFIED. -/
def State.cswInflight (s : State) : State :=
  s.wf R.CSW_SESS F.CSW_SESS_INFLIGHT (s.csw.wait.length + s.csw.rx.length)

/-- The session rests: DONE or STOPPED, SESSION_END set; a return to Service that waited for it completes (R437). -/
def State.cswEnded (s : State) (st err : Nat) : State :=
  let s1 := ((s.setCswSt st).wf R.CSW_SESS F.CSW_SESS_ERROR err).raise R.CSW_EVT F.CSW_EVT_SESSION_END
  if s1.sys.trans = .fromMigration then
    { s1 with sys := { s1.sys with trans := .none } }.modeDone mService
  else s1

/-- Entry to STOPPED: items not verified are abandoned, their contexts freed, staged frames discarded (R438). -/
def State.cswStop (s : State) (err : Nat) : State :=
  if s.cswRest then s
  else
    let s1 := s.cswItems.foldl (fun t x => t.freeCtxAt x.ctx) s
    let s2 := { s1 with csw := { s1.csw with sending := none, redo := [], wait := [], rx := [], cur := none, failed := [], held := [],
                                             queue := [], hist := 0, histLen := 0 } }
    s2.cswInflight.cswEnded csStopped err

/-- STOP with a reason sent to the peer, then STOPPED. -/
def State.cswStopTell (s : State) (err : Nat) : State :=
  if s.cswRest then s else (s.cswSend fyStop [(1, err), (7, 0)]).cswStop err

/-- The link goes down (R431, R437). -/
def State.cswLinkDown (s : State) : State :=
  if !s.cswUp then s
  else
    let s1 := (((s.wf R.CSW_LINK F.CSW_LINK_UP 0).wf R.CSW_LINK F.CSW_LINK_PEER 0).raise R.CSW_EVT F.CSW_EVT_LINK_DOWN)
    { s1 with csw := { s1.csw with seen := false } }.cswStop ceLink

/-- The peer is lost (R431). -/
def State.cswPeerLost (s : State) : State :=
  let s1 := s.wf R.CSW_LINK F.CSW_LINK_PEER 0
  { s1 with csw := { s1.csw with seen := false } }.cswStop cePeerLost

/-- An item is verified or aborted: the resume point moves to the highest KEY with none unfinished below it (R436). -/
def State.cswFinish (s : State) (k : Key) : State :=
  let done := k :: s.csw.done
  let open_ := (s.cswItems.map CswItem.key) ++ s.csw.failed
  let reach := done.filter fun d => open_.all fun o => decide (d.ord < o.ord)
  let s1 := { s with csw := { s.csw with done := done.filter fun d => !reach.contains d } }
  match reach with
  | [] => s1
  | r :: rest =>
    let best := rest.foldl (fun b x => if b.ord < x.ord then x else b) r
    s1.setResume best.bytes true

/-- A context for an item, taken under R99. -/
def State.cswCtx (s : State) (k : Key) : Nat × State :=
  s.takeCtx 2 { state := cCauseway, origin := 3, tenant := k.tenant, target := k.id }

/-! ### The exporter (R432, R433, R435) -/

/-- The mapped granules of an item, ascending. -/
def insertAsc (x : Nat) : List Nat → List Nat
  | [] => [x]
  | y :: rest => if x ≤ y then x :: y :: rest else y :: insertAsc x rest
def sortAsc : List Nat → List Nat
  | [] => []
  | x :: rest => insertAsc x (sortAsc rest)
def State.itemGrans (s : State) (k : Key) : List Nat :=
  sortAsc ((s.way.map.filter fun q => decide (q.1.item = k)).map fun q => q.1.granOf)

/-- The items of the selected tenants: objects, and spans with a mapped sector. -/
def State.exportItems (s : State) : List Key :=
  let sel := fun (t : Nat) => bitAt s.exportMask (t - 1)
  let objs := (s.cmd.objects.filter fun o => sel o.tenant).map fun o => (⟨o.tenant, 1, o.id, 0xFFFFFFFF⟩ : Key)
  let spans := ((s.way.map.map Prod.fst).filter fun q => decide (q.kind = 0) && sel q.tenant && 1 ≤ q.tenant).map Key.item
  (objs ++ spans).eraseDups

/-- The next item in ascending KEY order after the last one started. -/
def State.nextItem (s : State) : Option Key :=
  let later := s.exportItems.filter fun k => match s.csw.cursor with
    | none => true
    | some c => decide (c.ord < k.ord)
  match later with
  | [] => none
  | k :: rest => some (rest.foldl (fun b x => if x.ord < b.ord then x else b) k)

/-- The item's ITEM_BEGIN fields as they stand; an open object is sent closed. -/
def State.itemOf (s : State) (k : Key) (ctx : Nat) : CswItem :=
  let g := s.itemGrans k
  match s.cmd.objects.find? fun o => decide (k.kind = 1) && o.tenant = k.tenant && o.id = k.id with
  | some o => { key := k, length := o.len, cls := o.cls, st := { o with stream := none }.st, created := o.created, grans := g,
                todo := g, ctx }
  | none => { key := k, length := 0, cls := s.rf (R.WAY_TEN_CFG (k.tenant - 1)) F.WAY_TEN_CFG_CLASS, st := 0, created := 0,
              grans := g, todo := g, ctx }

/-- ITEM_BEGIN sent for an item. -/
def State.cswBegin (s : State) (x : CswItem) : State :=
  ({ s with csw := { s.csw with sending := some { x with todo := x.grans, dig := 0, digLen := 0 } } }).cswSend fyBegin
    [(24, x.key.bytes), (8, x.length), (1, x.cls), (1, x.st), (2, 0), (4, x.grans.length), (8, x.created)]

/-- TENANT sent ahead of a tenant's first item. -/
def State.cswTenant (s : State) (t : Nat) : State :=
  if s.csw.tenant = t then s
  else
    let c := R.WAY_TEN_CFG (t - 1)
    { s with csw := { s.csw with tenant := t } }.cswSend fyTenant
      [(2, t), (1, s.rf c F.WAY_TEN_CFG_VIEW), (1, s.rf c F.WAY_TEN_CFG_CLASS), (4, 0), (8, s.tenAllow t),
       (8, spGetD 0 s.cmd.capacity (t - 1))]

/-- DIGEST of the bytes gathered and LENGTH (R433). -/
def CswItem.digest (x : CswItem) : Nat := sha384 (x.digLen + 8) (x.dig + 2 ^ (8 * x.digLen) * (x.length % 2 ^ 64))

/-- A granule joins the digest: OFFSET then its 4,096 bytes. -/
def CswItem.digAdd (x : CswItem) (o d : Nat) : CswItem :=
  { x with dig := x.dig + 2 ^ (8 * x.digLen) * (o % 2 ^ 32 + 2 ^ 32 * d), digLen := x.digLen + 4100 }

/-- ITEM_END sent once no granule is left: the item awaits VERIFIED. -/
def State.cswItemEnd (s : State) : State :=
  match s.csw.sending with
  | some x =>
    if x.todo = [] then
      ({ s with csw := { s.csw with sending := none, wait := s.csw.wait ++ [x] } }.cswSend fyEnd
        [(24, x.key.bytes), (4, x.grans.length), (4, 0), (48, x.digest)]).cswInflight
    else s
  | none => s

/-- The history stream (R440): the Touchstone record with the highest RSEQ, and the device's own records. -/
def State.historyStream (s : State) : Nat × Nat :=
  let best := newestRec s.touchRecs
  let tl := (best.map TouchRec.len).getD 0
  let tb := (best.map TouchRec.bytes).getD 0
  let recs := s.ownRecs
  let head := argOf [(4, 0x53485743), (2, 0x0100), (2, 0), (4, tl), (4, recs.length)]
  (16 + tl + 64 * recs.length, head + 2 ^ 128 * (tb % 2 ^ (8 * tl) + 2 ^ (8 * tl) * argOf (recs.map fun r => (64, r))))

/-- HISTORY frames of at most 32,768 bytes from byte `o`, then END; the last frame is filled with zeros to a multiple of 8 (DEDUCED from
R428). -/
def State.cswHistory (s : State) (total v : Nat) : Nat → Nat → State
  | 0, _ => s.cswSend fyFinish [(8, s.csw.sent), (4, s.csw.skipped), (4, 0)]
  | n + 1, o =>
    let m := min 32768 (total - o)
    (s.cswSend fyHistory [(4, o), (4, total), (ceilDiv m 8 * 8, rdLe v o m)]).cswHistory total v n (o + 32768)

/-- HISTORY ends on the exporter once every frame is sent. -/
def State.cswHistoryEnd (s : State) : State :=
  if s.cswSt = csHistory && s.cswRole = 1 && s.csw.queue = [] then s.cswEnded csDone 0 else s

/-- The exporter goes on while nothing is being sent: items to send again, else the next item, else HISTORY. -/
def State.cswNext (s : State) : Nat → State
  | 0 => s
  | n + 1 =>
    let run := s.cswSt = csRun
    if s.cswRole ≠ 1 || s.csw.sending.isSome || !(run || s.cswSt = csDrain) then s
    else match s.csw.redo with
      | x :: rest => ((({ s with csw := { s.csw with redo := rest } }).cswBegin x).cswItemEnd).cswNext n
      | [] =>
        if !run then s
        else match s.nextItem with
          | some k =>
            if s.rf R.CSW_CFG F.CSW_CFG_CTX_MAX ≤ s.csw.wait.length || !s.fwMayTake then s
            else
              let s1 := s.cswTenant k.tenant
              let q := s1.cswCtx k
              let s2 := { q.2 with csw := { q.2.csw with cursor := some k } }
              ((s2.cswBegin (s2.itemOf k q.1)).cswItemEnd).cswNext n
          | none =>
            if s.csw.wait ≠ [] then s
            else
              let h := s.historyStream
              ((s.setCswSt csHistory).cswHistory h.1 h.2 (ceilDiv h.1 32768) 0).cswHistoryEnd

/-- Enough rounds for every item that could start at once. -/
def State.cswGo (s : State) : State := s.cswNext 512

/-- A session starts with PLAN (R437, R438): numbering from 0; it stops at once while stream 46 is FAULTED. -/
def State.cswPlan (s : State) : State :=
  let s1 := { s with csw := { s.csw with rxNext := 0, gap := false, txNext := 0, held := [], queue := [], credit := 0, done := [],
                                         tenant := 0, sent := 0, skipped := 0 } }
  let s2 := ((s1.setCswSt csPlan).wf R.CSW_SESS F.CSW_SESS_ERROR 0).cswSend fyPlan [(8, s.sessionId), (32, s.exportMask),
    (8, 0)]
  if s.flag (R.TRN_SCTX causewayStream) F.TRN_SCTX_FAULTED then s2.cswStopTell ceTranslation else s2

/-- A granule's acknowledged write has not yet committed. -/
def State.writeWaits (s : State) (k : Key) : Bool :=
  s.cmd.ctxs.any fun q => q.2.state = cStaged && q.2.has fAcked && (s.ctxKeys q.2).contains k

/-- ITEM_SKIP: the item is aborted, counted and recorded (R433). -/
def State.cswAbort (s : State) (x : CswItem) : State :=
  let s1 := { s with csw := { s.csw with sending := none, skipped := s.csw.skipped + 1 } }.cswSend fyAbort
    [(24, x.key.bytes), (1, 1), (7, 0)]
  let s2 := (s1.countUp R.CSW_CNT_ITEM F.CSW_CNT_ITEM_SKIPPED 1).raise R.CSW_EVT F.CSW_EVT_ITEM_SKIP
  (((s2.cairn 0 0x0009 (orgBlock 0x0D) (argOf [(24, x.key.bytes)])).freeCtxAt x.ctx).cswFinish x.key).cswGo

/-- The exporter reads the next granule of the item being sent and sends it, or aborts the item (R433). -/
def State.exportGranule (s : State) (lost : Bool) : State :=
  match s.csw.sending with
  | none => s
  | some x => match x.todo with
    | [] => s
    | o :: rest =>
      let k := x.key.gran o
      if s.csw.queue ≠ [] || s.writeWaits k then s
      else if lost || s.way.lost.contains k then s.cswAbort x
      else
        let d := s.storedKey k
        let s1 := { s with csw := { s.csw with sending := some { x.digAdd o d with todo := rest } } }
        ((s1.cswSend fyData [(4, o), (4, 0), (4096, d)]).cswItemEnd).cswGo

/-- VERIFIED on the exporter (R435). -/
def State.cswVerified (s : State) (k : Key) (result : Nat) : State :=
  match s.csw.wait.find? fun x => decide (x.key = k) with
  | none => s
  | some x =>
    let s1 := { s with csw := { s.csw with wait := s.csw.wait.filter fun y => y.key ≠ k } }.cswInflight
    if result = 0 then
      (({ s1 with csw := { s1.csw with sent := s1.csw.sent + 1 } }.freeCtxAt x.ctx).cswFinish k).cswGo
    else if result = 1 && x.tries < s.rf R.CSW_CFG F.CSW_CFG_RETRY_MAX then
      ({ s1 with csw := { s1.csw with redo := s1.csw.redo ++ [{ x with tries := x.tries + 1 }] } }.countUp R.CSW_CNT_ITEM
        F.CSW_CNT_ITEM_MISMATCH 1).cswGo
    else ({ s1 with csw := { s1.csw with redo := s1.csw.redo ++ [x] } }).cswStopTell
      (if result = 2 then ceCapacity else if result = 3 then ceTenant else ceItemFailed)

/-! ### The importer (R434 to R436, R440) -/

/-- PLAN answered (R436, R437). -/
def State.cswPlanIn (s : State) (id mask : Nat) : State :=
  let valid := s.flag R.CSW_RESUME_CTL F.CSW_RESUME_CTL_VALID
  let res := if s.mode ≠ mMigration then 1 else if s.cswRole ≠ 2 then 2 else if valid && id ≠ s.sessionId then 3 else 0
  let s1 := { s with csw := { s.csw with rxNext := 1, gap := false, txNext := 0, held := [], queue := [] } }
  let s2 := s1.cswSend fyPlanAck [(8, id), (1, res), (1, b2n valid), (6, 0), (24, s.resumeNat)]
  if res ≠ 0 then s2
  else
    let s3 := ((s2.setCswSt csRun).wf R.CSW_SESS F.CSW_SESS_ERROR 0).wr R.CSW_SESSION_LO (word id)
    { s3.wr R.CSW_SESSION_HI (word (id / 2 ^ 32)) with
      csw := { s3.csw with tenants := mask, done := [], conflict := [], rx := [], failed := [], cur := none, hist := 0, histLen := 0 } }

/-- PLAN_ACK on the exporter (R437): the importer's resume point is the authoritative one (R436). -/
def State.cswPlanAck (s : State) (result : Nat) (valid : Bool) (key : Nat) : State :=
  if s.cswSt ≠ csPlan then s
  else if result ≠ 0 then
    s.cswStop (if result = 1 then ceNotReady else if result = 2 then ceRole else cePeerChanged)
  else
    let s1 := s.setResume key valid
    ({ s1 with csw := { s1.csw with cursor := s1.resumeKey, done := [] } }.setCswSt csRun).cswGo

/-- TENANT (R434): a tenant not enabled is configured, unattached; one of another VIEW is noted. -/
def State.cswTenantIn (s : State) (t view cls allow : Nat) : State :=
  let c := R.WAY_TEN_CFG (t - 1)
  if t = 0 || 256 < t || s.cswSt ≠ csRun then s
  else if s.flag c F.WAY_TEN_CFG_ENABLE then
    if s.rf c F.WAY_TEN_CFG_VIEW = view then s else { s with csw := { s.csw with conflict := t :: s.csw.conflict } }
  else
    let s1 := (((s.wf c F.WAY_TEN_CFG_ENABLE 1).wf c F.WAY_TEN_CFG_VIEW view).wf c F.WAY_TEN_CFG_CLASS cls).wf c
      F.WAY_TEN_CFG_ATTACH_A 0
    let s2 := ((s1.wf c F.WAY_TEN_CFG_ATTACH_B 0).wr (R.WAY_TEN_ALLOW_LO (t - 1)) (word allow)).wf (R.WAY_TEN_ALLOW_HI (t - 1))
      F.WAY_TEN_ALLOW_HI_ALLOW (allow / 2 ^ 32)
    let s3 := s2.wf (R.WAY_TEN_STATUS (t - 1)) F.WAY_TEN_STATUS_REFUSED 0
    { s3 with cmd := { s3.cmd with allow := spSet 0 s3.cmd.allow (t - 1) (allow % 2 ^ 40) } }.overdraft t

/-- Every mapping of an item removed, with its charge; the object's record goes too (R434). -/
def State.cswRemove (s : State) (k : Key) : State :=
  let n := s.countMap fun q => decide (q.item = k)
  let s1 := ((s.supersede (fun _ c => c.tenant = k.tenant) fun q => decide (q.item = k)).unmap fun q =>
    decide (q.item = k)).setUse k.tenant (s.tenUse k.tenant - n)
  if k.kind = 1 then
    { s1 with cmd := { s1.cmd with objects := s1.cmd.objects.filter fun o => !(o.tenant = k.tenant && o.id = k.id) } }
  else s1

/-- An item in flight replaced, or dropped. -/
def State.setRx (s : State) (x : CswItem) : State :=
  { s with csw := { s.csw with rx := s.csw.rx.map fun y => if y.key = x.key then x else y } }
def State.dropRx (s : State) (k : Key) : State :=
  match s.csw.rx.find? fun x => decide (x.key = k) with
  | none => s
  | some x =>
    { s with csw := { s.csw with rx := s.csw.rx.filter fun y => y.key ≠ k,
                                 cur := if s.csw.cur = some k then none else s.csw.cur } }.freeCtxAt x.ctx |>.cswInflight

/-- VERIFIED sent for an item. -/
def State.cswTell (s : State) (k : Key) (result : Nat) : State := s.cswSend fyVerified [(24, k.bytes), (1, result), (7, 0)]

/-- An item that failed: it is not in flight, and not verified until it comes again (R436). -/
def State.cswFail (s : State) (k : Key) (result : Nat) : State :=
  let t := (s.cswTell k result).dropRx k
  { t with csw := { t.csw with failed := k :: t.csw.failed.filter (· ≠ k) } }

/-- ITEM_BEGIN (R434, R435): the item takes a context; an object is created as received. -/
def State.cswBeginIn (s : State) (x : CswItem) : State :=
  let k := x.key
  if s.cswSt ≠ csRun || s.cswRole ≠ 2 || k.tenant = 0 || 256 < k.tenant then s
  else if s.csw.conflict.contains k.tenant then s.cswFail k 3
  else
    let s1 := (s.dropRx k).cswRemove k
    let q := s1.cswCtx k
    let s2 := { q.2 with csw := { q.2.csw with
      rx := q.2.csw.rx ++ [{ x with ctx := q.1 }]
      cur := some k
      failed := q.2.csw.failed.filter (· ≠ k) } }
    let s3 := if k.kind = 1 then
        { s2 with cmd := { s2.cmd with objects := s2.cmd.objects ++
          [{ tenant := k.tenant, id := k.id, length := x.length, cls := x.cls, sealed := x.st / 2 % 2 = 1,
             created := x.created }] } }
      else s2
    s3.cswInflight

/-- One granule record placed, to be written in its turn (R146, R434); none when the capacity test of R157 fails. -/
def State.cswPlace (s : State) (x : CswItem) (o d : Nat) : Option State :=
  if !s.capacityOk x.cls 1 then none
  else match s.place x.cls 1 false false with
    | none => none
    | some (p, t) =>
      let q := t.placeAt p 0
      some (t.addLate { band := q.1, row := q.2, cls := x.cls, what := .data (x.key.gran o) (d % 2 ^ sectorBits) }).settle

/-- A received granule of an item has still to be written. -/
def State.cswLate (s : State) (x : CswItem) : Bool := s.way.late.any fun e => match e.what with
  | .data q _ => x.grans.any fun o => q = x.key.gran o
  | _ => false

/-- The granule records of a DATA frame (R434). -/
def State.cswDataIn (s : State) : List (Nat × Nat) → State
  | [] => s
  | (o, d) :: rest =>
    match s.csw.cur.bind fun k => s.csw.rx.find? fun x => decide (x.key = k) with
    | none => s
    | some x => match s.cswPlace x o d with
      | none => s.cswFail x.key 2
      | some t => (t.setRx { x with grans := x.grans ++ [o] }).cswDataIn rest

/-- ITEM_END (R435). -/
def State.cswEndIn (s : State) (k : Key) (n digest : Nat) : State :=
  match s.csw.rx.find? fun x => decide (x.key = k) with
  | none => s
  | some x =>
    let s1 := s.setRx { x with ended := some (n, digest) }
    { s1 with csw := { s1.csw with cur := if s1.csw.cur = some k then none else s1.csw.cur } }

/-- ITEM_ABORT (R433, R436): the item is discarded. -/
def State.cswAbortIn (s : State) (k : Key) : State :=
  if s.csw.rx.any fun x => decide (x.key = k) then
    (((s.dropRx k).cswRemove k).raise R.CSW_EVT F.CSW_EVT_ITEM_SKIP).cswFinish k
  else s

/-- The read-back of an imported item ends, once all of it is on media: VERIFIED by its digest (R435). -/
def State.cswReadBack (s : State) (k : Key) (lost : Bool) : State :=
  match s.csw.rx.find? fun x => decide (x.key = k) with
  | none => s
  | some x => match (if s.cswLate x then none else x.ended) with
    | none => s
    | some (_, digest) =>
      let y := x.grans.foldl (fun z o => z.digAdd o (s.storedKey (k.gran o))) { x with dig := 0, digLen := 0 }
      if !lost && y.digest = digest then ((s.cswTell k 0).dropRx k).cswFinish k
      else s.cswFail k 1

/-- The received history is handed to Cairn (R440, R459): left in staging, located, and a HANDOVER record made. -/
def State.cswHandover (s : State) (len v : Nat) : State :=
  let r := s.region 5
  let ofs := r.1 + 64 * (Config.predPlace len % (max 1 ((r.2 - len) / 64)))
  let n := rdLe v 12 4
  let last := if n = 0 then 0 else rdLe v (16 + rdLe v 8 4 + 64 * (n - 1)) 6
  let peer := argOf ((List.range 4).map fun i => (4, (s.rd (R.CSW_PEER_ID i)).toNat))
  let s1 := (s.physWrite qBulk (hbmBase + ofs) len v).2
  let s2 := ((s1.wr R.CRN_PRED_LO (word (hbmBase + ofs))).wf R.CRN_PRED_HI F.CRN_PRED_HI_PRED ((hbmBase + ofs) / 2 ^ 32)).wr
    R.CRN_PRED_LEN (word len)
  (s2.cairn 0 0x000B (orgBlock 0x02) (argOf [(16, peer), (4, n), (4, 0), (8, last)])).raise R.CRN_EVT F.CRN_EVT_PRED_IN
    |>.raise R.CSW_EVT F.CSW_EVT_HISTORY_IN

/-- HISTORY on the importer (R437, R440). -/
def State.cswHistoryIn (s : State) (ofs total len v : Nat) : State :=
  if s.cswRole ≠ 2 || (s.cswSt ≠ csRun && s.cswSt ≠ csHistory) then s
  else
    let s1 := s.setCswSt csHistory
    let s2 := { s1 with csw := { s1.csw with hist := s1.csw.hist + 2 ^ (8 * ofs) * (v % 2 ^ (8 * len)),
                                             histLen := s1.csw.histLen + len } }
    if total ≤ s2.csw.histLen then (s2.cswHandover total s2.csw.hist).cswEnded csDone 0 else s2

/-! ### Registers -/

/-- The session drains (R437): no new item starts. -/
def State.cswDrain (s : State) : State := if s.cswRest then s else s.setCswSt csDrain

/-- A write of CSW_CTL (R437, R438). -/
def State.writeCswCtl (s : State) (i : Initiator) (v : Word) : State :=
  let role := fget v F.CSW_CTL_ROLE
  let go := fget v F.CSW_CTL_GO = 1
  if !isPair i || role = 3 || (role ≠ s.cswRole && !s.cswRest)
      || (go && !(role = 1 && s.mode = mMigration && s.cswPeer && s.cswRest)) then s
  else
    let s1 := s.writeFields R.CSW_CTL v
    let s2 := if fget v F.CSW_CTL_ENABLE = 0 then
        (s1.cswLinkDown).wf R.CSW_LINK F.CSW_LINK_LOCK 0
      else s1
    let s3 := if go then s2.cswPlan else s2
    if fget v F.CSW_CTL_STOP = 1 then s3.cswDrain else s3

/-- A write of a register that is open only in IDLE, STOPPED and DONE: CSW_SESSION, CSW_RESUME, CSW_TEN. CSW_TEN is locked: a
write of the held value is no violation, and changes nothing. -/
def State.writeCswRest (s : State) (i : Initiator) (off : Nat) (v : Word) : State :=
  if isPair i && s.cswRest then s.writeFields off v else s

end Sys2Proof.Machine
end

