-- ==== Sys2Proof/Machine/Modes.lean ====
section
/-!
DEFINITION. Sys2Proof/Machine/Modes.lean: device resets (R69 to R71, R467), Haven entry (R79, R81, R82), the mode requests and transitions
(R77, R78, R80) and the data held in Haven (R83).
-/

namespace Sys2Proof.Machine

/-! ### Device reset (R69, R71) -/

/-- The cause bit of SYS_RST_CAUSE. -/
def rstBit : RstCause → Nat
  | .powerOn => 1
  | .pin => 2
  | .keyCmd => 4
  | .sideband => 8
  | .keyWdog => 16

/-- FLASH_MODE for the sampled straps (R72). -/
def flashMode (bootcfg : Nat) : Nat := if bootcfg = 3 then 0 else bootcfg

/-- Supply conditions of BLS_STAT, which a reset of the logic does not change. -/
def supplyMask : Nat := 0x3C

/-- The SAS addresses of the groups from the factory base in the fuses: plus p for HPA, plus 3 + p for HPB; the target device
name, index 2, is kept with its group (HPx_CTX_MIN stands at its offset). -/
def State.sasAddresses (s : State) : State :=
  let put := fun (t : State) (g p : Nat) =>
    let a := s.sys.fuses.sasBase + 3 * g + p
    (t.wr (R.HP_SAS_ADDR_LO g p) (word a)).wr (R.HP_SAS_ADDR_HI g p) (word (a / 2 ^ 32))
  let t := put (put (put (put s 0 0) 0 1) 1 0) 1 1
  { t with hpA := { t.hpA with targetName := s.sys.fuses.sasBase + 2 }
           hpB := { t.hpB with targetName := s.sys.fuses.sasBase + 5 } }

/-- The part after a device reset: every block at reset, the memories cleared; what is non-volatile, on the media, in the
straps, or a condition of the supplies stays (R69, R71, R172, R331, R450, R458). -/
def State.deviceReset (s : State) (c : RstCause) : State :=
  let po : Bool := c = .powerOn
  let lost : Bool := if po then s.bls.armed && !s.bls.done else 0 < s.cmd.acked
  let flushed : Bool := if po then s.bls.armed && s.bls.done else s.sys.deferFlushed
  let z : State := { State.reset with
    pending := s.pending, fresh := s.fresh, out := s.out,
    sys := { bootcfg := s.sys.bootcfg, sbAddr := s.sys.sbAddr, fuses := s.sys.fuses,
             keySlots := s.sys.fuses.slots, mainMv := s.sys.mainMv,
             auxUp := s.sys.auxUp },
    crn := { flash := s.crn.flash, minutes := s.crn.minutes, pcyc := s.crn.pcyc + b2n po,
             minuteStart := s.crn.minuteStart - s.now },
    way := { sys := s.way.sys, media := s.way.media, gone := s.way.gone, bands := s.way.bands, groups := s.way.groups, nextGroup := s.way.nextGroup,
             ckpts := s.way.ckpts, touch := s.way.touch, defects := s.way.defects, unitOp := s.way.unitOp, lost := s.way.lost,
             unitSaved := if s.way.replayed then some ((List.range 4).map fun k => s.rd (R.WAY_UNIT_STATE k)) else s.way.unitSaved },
    bls := { rails := s.bls.rails, released := s.bls.released, held := s.bls.held, mainUp := s.bls.mainUp, armed := s.bls.armed,
             done := s.bls.done, charging := s.bls.charging } }
  let t := ((z.wr R.SYS_RST_CAUSE (word (rstBit c + 32 * b2n flushed + 64 * b2n lost))).wf R.SYS_BOOT_STATUS
    F.SYS_BOOT_STATUS_BOOTCFG s.sys.bootcfg).wf R.SYS_BOOT_STATUS F.SYS_BOOT_STATUS_FLASH_MODE (flashMode s.sys.bootcfg)
  let u := t.wr R.BLS_STAT (s.rd R.BLS_STAT &&& word supplyMask)
  (u.wr R.BLS_NV (if po then word (b2n s.bls.armed + 2 * b2n s.bls.done) else s.rd R.BLS_NV)).sasAddresses

/-! ### Haven entry (R82) -/

/-- HAVEN_CAUSE codes. -/
def hvTollgate : Nat := 1
def hvKeystone : Nat := 2
def hvCommand : Nat := 3
def hvPowerLoss : Nat := 4
def hvReset : Nat := 5

/-- Contexts of host media commands that are in flight. -/
def inFlight (c : Ctx) : Bool :=
  (c.state = cNew || c.state = cPort || c.state = cMedia || (c.state = cStaged && !c.has fAcked)) && c.origin < 2

/-- An in-flight write discarded from staging: its placement and its reservation are returned. -/
def State.discardWrite (s : State) (k : Nat) : State :=
  if (s.work k).write then (s.dropWrite k).returnRsv k else s

/-- Placements of discarded writes whose items Haven has taken off the queues are released (R392, R395). -/
def State.dropOrphans (s : State) : State := s.way.orphans.foldl (fun t q => t.popOrphan q) s

/-- Host media commands that arrive from now on are told from those in flight. -/
def State.markTransition (s : State) : State :=
  { s with fresh := s.fresh + 1, sys := { s.sys with transSeq := s.fresh + 1 } }

/-- Step 1: every write gate drops. -/
def State.dropGates (s : State) : State :=
  (List.range 4).foldl (fun t a => if t.gateOpen a then t.abandonGate a else t) s

/-- Step 2: no admission, nothing in flight, sequencers and Causeway stop. -/
def State.stopAdmission (s : State) : State :=
  let t := (s.cmd.ctxs.filter fun q => inFlight q.2).foldl (fun t q => t.discardWrite q.1) (s.setReady .media false)
  let u := (List.range 12).foldl (fun u n => u.strEvent n scHaven) t
  let held := u.way.drainHeld || u.flag R.WAY_UNIT_STAT F.WAY_UNIT_STAT_BUSY
  let v := u.dropOrphans
  let begun := if v.ready .waymark then (List.range 4).filterMap v.touchAt else []
  ((v.setWay { v.way with surveys := [], drainHeld := held }).dropCopies fun n => !begun.contains n).cswStopTell ceHaven

/-- Step 3 begins: the flush, or the data held. -/
def State.vaultStep (s : State) : State :=
  let mib := ceilDiv (s.cmd.acked * 4096) 1048576
  let t := s.wr R.SYS_HAVEN_STATUS (word (min mib 0xFFFF))
  let u := { t with sys := { t.sys with heldData := false } }
  if u.ackedCtxs.isEmpty then u
  else if u.ready .millstone && u.readyActs ≠ [] then u.startFlush
  else u.holdData

/-- The step of Haven entry set. -/
def State.havenAt (s : State) (n : Nat) : State := { s with sys := { s.sys with havenStep := n } }

/-- Step 3 ends once the flush does; step 4 unloads every actuator. -/
def State.haven3 (s : State) : State :=
  if s.sys.havenStep = 3 && !s.bls.flushing then (s.unloadAll ucHaven).havenAt 4 else s

/-- Step 4 ends with every head parked; step 5 coasts or brakes. -/
def State.haven4 (s : State) : State :=
  if s.sys.havenStep = 4 && s.allParked then
    (if s.flag R.SYS_HAVEN_CTL F.SYS_HAVEN_CTL_SPINDLE then s.spinStopBrake else s.spinStop).havenAt 5
  else s

/-- Step 5 ends at once with a coast, and with the stop when it brakes. -/
def State.haven5 (s : State) : State := if s.sys.havenStep = 5 && s.milSt ≠ miStopping then s.havenAt 6 else s

/-- Haven entry goes on as far as nothing waits. -/
def State.advanceHaven (s : State) : State := if s.mode = mHaven then s.haven3.haven4.haven5 else s

/-- Haven requested or triggered (R79): a transition is abandoned, the mode changes at once. In Haven only RESET_PENDING
changes the cause. -/
def State.requestHaven (s : State) (cause : Nat) : State :=
  if s.mode = mHaven then
    if cause = hvReset then s.wf R.SYS_MODE F.SYS_MODE_HAVEN_CAUSE cause else s
  else
    let t := if s.flag R.SYS_MODE F.SYS_MODE_BUSY then
        (s.wf R.SYS_MODE F.SYS_MODE_LAST 3).wf R.SYS_MODE F.SYS_MODE_REASON 0
      else s
    let u := (((t.wf R.SYS_MODE F.SYS_MODE_HAVEN_CAUSE cause).wf R.SYS_MODE F.SYS_MODE_BUSY 1).wf R.SYS_MODE
      F.SYS_MODE_TARGET mHaven).wf R.SYS_MODE F.SYS_MODE_PHASE 0
    let v := ({ u with sys := { u.sys with trans := .none, wakeTimer := false } }.markTransition).setMode mHaven
    ((v.dropGates.stopAdmission.vaultStep).havenAt 3).advanceHaven

/-- A mode transition into Haven stands: PHASE SETTLED, BUSY and TARGET clear, the time kept (R75, R82). -/
def State.settled (s : State) : State :=
  let t := (((s.wf R.SYS_MODE F.SYS_MODE_PHASE 1).wf R.SYS_MODE F.SYS_MODE_BUSY 0).wf R.SYS_MODE F.SYS_MODE_TARGET 0).havenAt 0
  { t with sys := { t.sys with settledAt := t.now } }

/-- Off hold-up the charger goes on (R323, R330). -/
def State.charged (s : State) : State :=
  if s.onHoldup then s else (s.setBls { s.bls with chargeWait := false }).charger

/-- The last step has ended: SETTLED; the charger goes on, Cairn persists, and a pending reset takes effect (R70, R82, R330,
R458). -/
def State.settleHaven (s : State) : State :=
  if s.mode = mHaven && s.sys.havenStep = 6 then
    let t := s.settled.charged.flashDue
    match t.sys.pendingReset with
    | some c => t.deviceReset c
    | none => t
  else s

/-- HAVEN_SETTLED (R70, R82). -/
def execHavenSettled (s : State) : Host.Outcome State Fault Refusal := ok s.advanceHaven.settleHaven

/-! ### Reset sources (R69, R70) -/

/-- A flush-first source: Haven with RESET_PENDING, or the reset at once where Haven has settled; a further trigger is
absorbed. -/
def State.flushFirst (s : State) (c : RstCause) : State :=
  if s.sys.pendingReset.isSome then s
  else
    let t := { s with sys := { s.sys with pendingReset := some c, deferFlushed := false } }.requestHaven hvReset
    if t.havenSettled then t.deviceReset c else t

/-- A power-on reset with the straps as sampled; with RST_N low the SoC stays in reset (R72, R467). -/
def State.powerOn (s : State) (bootcfg sbAddr : Nat) (rstLow : Bool) : State :=
  let t := { s with sys := { s.sys with bootcfg, sbAddr } }
  if rstLow then { t with sys := { t.sys with rstWait := true } } else t.deviceReset .powerOn

/-- POWER_ON_RESET (R69, R71, R331); while Ballast holds the SoC behind a rail's failure its release is SOC_RELEASE (R317). -/
def execPowerOnReset (bootcfg sbAddr : Fin 4) (rstLow : Bool) (s : State) : Host.Outcome State Fault Refusal :=
  if s.bls.held then ok s else ok (s.powerOn bootcfg sbAddr rstLow)

/-- RST_N_RELEASE (R467): RST_N rises while the SoC was held; the reset counts as a power-on reset only. -/
def execRstNRelease (bootcfg sbAddr : Fin 4) (s : State) : Host.Outcome State Fault Refusal :=
  if s.sys.rstWait then ok (s.powerOn bootcfg sbAddr false) else ok s

/-- PIN_RESET (R70, R467): below 200 ns ignored, from 1 us recognised, between the two either. -/
def execPinReset (lowNs : Nat) (s : State) : Host.Outcome State Fault Refusal :=
  if lowNs < 200 then ok s
  else if 1000 ≤ lowNs then ok (s.flushFirst .pin)
  else if (s.free 1).1 = 1 then ok ((s.free 1).2.flushFirst .pin) else ok (s.free 1).2

/-- KEY_DEV_RST, by Keystone with its unlock value. -/
def State.writeDevRst (s : State) (i : Initiator) (v : Word) : State :=
  if isKeystone i && fget v F.KEY_DEV_RST_UNLOCK = 0x5EED then s.flushFirst .keyCmd else s

/-- KEY_DEVICE_RESET (R70, R368). -/
def execKeyDeviceReset (i : Initiator) (v : Word) (s : State) : Host.Outcome State Fault Refusal := ok (s.writeDevRst i v)

/-- tKWD Min in ticks of 10 ns (R368). -/
def kwdTicks : Nat := 4500000

/-- KEYSTONE_WATCHDOG_EXPIRY (R70, R368): at once, even during a deferral; not before tKWD Min has passed since the latest restart. -/
def execKeystoneWatchdogExpiry (s : State) : Host.Outcome State Fault Refusal :=
  if s.pair.kick + kwdTicks ≤ s.now then ok (s.deviceReset .keyWdog) else ok s

/-- RESET_DEFER_EXPIRY (R70). -/
def execResetDeferExpiry (s : State) : Host.Outcome State Fault Refusal :=
  match s.sys.pendingReset with
  | some c => ok (s.deviceReset c)
  | none => ok s

/-! ### Requests (R77 to R80) -/

/-- Who may request mode `m` (R77). -/
def modeRequester (i : Initiator) (p : Priv) (m : Nat) : Bool :=
  pairMachine i p || (m = mHaven && (isKeystone i || i = .sideband))

/-- A refused request. -/
def State.refuseMode (s : State) (reason : Nat) : State :=
  (s.wf R.SYS_MODE F.SYS_MODE_LAST 2).wf R.SYS_MODE F.SYS_MODE_REASON reason

/-- An accepted request. -/
def State.acceptMode (s : State) : State := (s.wf R.SYS_MODE F.SYS_MODE_LAST 1).wf R.SYS_MODE F.SYS_MODE_REASON 0

/-- An accepted request whose transition takes time. -/
def State.beginMode (s : State) (m : Nat) (tr : Trans) : State :=
  let t := (s.acceptMode.wf R.SYS_MODE F.SYS_MODE_BUSY 1).wf R.SYS_MODE F.SYS_MODE_TARGET m
  { t with sys := { t.sys with trans := tr } }

/-- A request other than Haven: BUSY refuses it, the current mode accepts it, else the table of R80 does. -/
def State.askMode (s : State) (i : Initiator) (p : Priv) (m : Nat) (f : State → State) : State :=
  if !modeRequester i p m then s
  else if s.flag R.SYS_MODE F.SYS_MODE_BUSY then s.refuseMode 3
  else if s.mode = m then s.acceptMode
  else f s

/-- Heads of every actuator that can be loaded are loaded (R80). -/
def State.loadAll (s : State) : State := (List.range 4).foldl (fun t a => t.loadAct a) s

/-- The spindle started by the mode logic (R304). -/
def State.modeSpin (s : State) : State :=
  if !s.ready .ballast || !s.ready .basalt then s else s.spinStart

/-- Haven asked for by a register write. -/
def State.askHaven (s : State) (i : Initiator) (p : Priv) : State :=
  if !modeRequester i p mHaven then s
  else if s.mode = mHaven then s.acceptMode
  else
    let t := if s.flag R.SYS_MODE F.SYS_MODE_BUSY then s else s.acceptMode
    t.requestHaven (if isKeystone i then hvKeystone else hvCommand)

/-- Service asked for. -/
def State.askService (s : State) (i : Initiator) (p : Priv) : State :=
  s.askMode i p mService fun t =>
    if t.mode = mBedding then if t.ready .media then t.acceptMode.modeDone mService else t.refuseMode 2
    else if t.mode = mSurvey then t.acceptMode.modeDone mService
    else if t.mode = mMigration then
      if t.cswRest then t.acceptMode.modeDone mService else (t.beginMode mService .fromMigration).cswDrain
    else if t.mode = mDormant then ((t.beginMode mService .toService).modeSpin.loadAll).refreshMedia
    else t.refuseMode 1

/-- Survey asked for. -/
def State.askSurvey (s : State) (i : Initiator) (p : Priv) : State :=
  s.askMode i p mSurvey fun t => if t.mode = mService then t.acceptMode.modeDone mSurvey else t.refuseMode 1

/-- Migration asked for: an exporter starts the session (R437). -/
def State.askMigration (s : State) (i : Initiator) (p : Priv) : State :=
  s.askMode i p mMigration fun t =>
    if t.mode ≠ mService then t.refuseMode 1
    else if t.ready .causeway && t.cswPeer then
      let u := t.acceptMode.modeDone mMigration
      if u.cswRole = 1 then u.cswPlan else u
    else t.refuseMode 4

/-- The entry to Dormant begins at step `n`: MEDIA clears at once, surveys break off, and the commands in flight are told from later
ones (R80, R81, R161). -/
def State.beginDormant (s : State) (n : Nat) : State :=
  let t := (s.beginMode mDormant (.dormant n)).markTransition
  { t with way := { t.way with surveys := [] } }.refreshMedia

/-- Dormant asked for: from Bedding the entry starts at its step 4. -/
def State.askDormant (s : State) (i : Initiator) (p : Priv) : State :=
  s.askMode i p mDormant fun t =>
    if t.mode = mBedding then
      if t.ready .waymark then (t.beginDormant 4).unloadAll ucDormant else t.refuseMode 2
    else if t.mode = mService || t.mode = mSurvey then t.beginDormant 2
    else t.refuseMode 1

/-- Bedding asked for: Haven alone is left for it. -/
def State.askBedding (s : State) (i : Initiator) (p : Priv) : State :=
  s.askMode i p mBedding fun t =>
    if t.mode ≠ mHaven then t.refuseMode 1
    else if !t.someClass 3 && t.flag R.BLS_STAT F.BLS_STAT_MAIN_OK && t.rf R.SYS_MODE F.SYS_MODE_HAVEN_CAUSE ≠ hvReset then
      ((t.acceptMode.wf R.SYS_MODE F.SYS_MODE_HAVEN_CAUSE 0).modeDone mBedding).touchBegin.refreshMedia
    else t.refuseMode 2

/-- MODE_REQ_SERVICE (R77, R78, R80). -/
def execModeReqService (i : Initiator) (p : Priv) (s : State) : Host.Outcome State Fault Refusal := ok (s.askService i p)

/-- MODE_REQ_SURVEY (R77, R78, R80). -/
def execModeReqSurvey (i : Initiator) (p : Priv) (s : State) : Host.Outcome State Fault Refusal := ok (s.askSurvey i p)

/-- MODE_REQ_MIGRATION (R77, R78, R80, R437). -/
def execModeReqMigration (i : Initiator) (p : Priv) (s : State) : Host.Outcome State Fault Refusal := ok (s.askMigration i p)

/-- MODE_REQ_DORMANT (R77, R78, R80). -/
def execModeReqDormant (i : Initiator) (p : Priv) (s : State) : Host.Outcome State Fault Refusal := ok (s.askDormant i p)

/-- MODE_REQ_HAVEN (R77, R79, R82). -/
def execModeReqHaven (i : Initiator) (p : Priv) (s : State) : Host.Outcome State Fault Refusal := ok (s.askHaven i p)

/-- MODE_REQ_BEDDING (R77, R78, R80, R83). -/
def execModeReqBedding (i : Initiator) (p : Priv) (s : State) : Host.Outcome State Fault Refusal := ok (s.askBedding i p)

/-- A write of SYS_MODE_REQ; a code that names no mode asks for a transition the table does not list. -/
def State.writeModeReq (s : State) (i : Initiator) (p : Priv) (v : Word) : State :=
  match fget v F.SYS_MODE_REQ_TARGET with
  | 0 => s.askBedding i p
  | 1 => s.askService i p
  | 2 => s.askSurvey i p
  | 3 => s.askMigration i p
  | 4 => s.askDormant i p
  | 5 => s.askHaven i p
  | m => s.askMode i p m fun t => t.refuseMode 1

/-! ### Dormant (R80) -/

/-- The Dormant entry at step `n`. -/
def State.dormantAt (s : State) (n : Nat) : State := { s with sys := { s.sys with trans := .dormant n } }

/-- The entry ends: the wake timer starts. -/
def State.dormantDone (s : State) : State :=
  let t := { s with sys := { s.sys with trans := .none, wakeTimer := true } }.modeDone mDormant
  t.refreshMedia

/-- DORMANT_ENTRY_PROGRESS: the step that waited ends, if what it waits for is so: 2 no command in flight, 3 nothing staged,
4 heads parked, 5 spindle stopped. Step 3 begins with a checkpoint (R168). Step 6 is the unload after a wake. -/
def execDormantEntryProgress (s : State) : Host.Outcome State Fault Refusal :=
  match s.sys.trans with
  | .dormant 2 => if s.cmd.ctxs.any fun q => inFlight q.2 then ok s else ok (s.dormantAt 3).startCkpt
  | .dormant 3 => if s.ackedCtxs.isEmpty then ok ((s.dormantAt 4).unloadAll ucDormant) else ok s
  | .dormant 4 => if s.allParked then ok (s.dormantAt 5).spinStopBrake else ok s
  | .dormant 6 =>
    if s.allParked then ok { s with sys := { s.sys with trans := .none } }.spinStopBrake else ok s
  | .dormant _ => if s.milSt = miStopping || s.spinning then ok s else ok s.dormantDone
  | _ => ok s

/-- DORMANT_WAKE_EXPIRY: WAKE; the spindle starts, and Cairn persists (R458). Heads load once the speed is regulated. -/
def execDormantWakeExpiry (s : State) : Host.Outcome State Fault Refusal :=
  if s.mode = mDormant && s.sys.wakeTimer && s.rf R.SYS_MODE F.SYS_MODE_PHASE = 0 then
    let t := { s with sys := { s.sys with wakeTimer := false, trans := if s.sys.trans = Trans.toService then Trans.toService else Trans.none },
                      way := { s.way with wakeOver := false } }
    ok ((t.wf R.SYS_MODE F.SYS_MODE_PHASE 1).modeSpin.loadAll).flashDue
  else ok s

/-- DORMANT_WORK_DONE: REST; heads unload, the spindle stops, the wake timer starts again. While Service is being entered the
wake continues. -/
def execDormantWorkDone (s : State) : Host.Outcome State Fault Refusal :=
  if s.mode = mDormant && s.rf R.SYS_MODE F.SYS_MODE_PHASE = 1 && s.sys.trans = .none then
    let t := ({ s with sys := { s.sys with wakeTimer := true } }.wf R.SYS_MODE F.SYS_MODE_PHASE 0).unloadAll ucDormant
    ok (if t.allParked then t.spinStopBrake else t.dormantAt 6)
  else ok s

/-- MODE_TRANSITION_COMPLETE: MEDIA is 1 in a Dormant-to-Service transition. -/
def execModeTransitionComplete (s : State) : Host.Outcome State Fault Refusal := ok s.refreshMedia

/-- The held data, in ADMIT order, placed and committed; their earlier places are given up first, so that each band is written one sector
after another (R146). -/
def State.writeHeld (s : State) (l : List (Nat × Ctx)) : State :=
  let s1 := s.unplaceAll (l.map Prod.fst)
  l.foldl (fun t q =>
    let u := t.placeWrite q.1
    let a := placeAct (u.ctx q.1).place
    if (u.work q.1).placed && !u.behind q.1 && u.writerUp a then (u.commitCtx q.1).pullRun a q.1 else u) s1.settle

/-- HELD_DATA_WRITE (R83): the held data is on media; MEDIA may set. It is written before MEDIA sets again: in Bedding, or on the
return from Dormant where Bedding was left for Dormant before. -/
def execHeldDataWrite (s : State) : Host.Outcome State Fault Refusal :=
  if s.sys.heldData && s.mode ≠ mHaven && s.ready .waymark && s.someAct then
    let t := s.writeHeld (byAdmit s.ackedCtxs)
    if t.ackedCtxs.isEmpty then
      ok ({ t with sys := { t.sys with heldData := false } }.wf R.SYS_HAVEN_STATUS F.SYS_HAVEN_STATUS_HELD 0).refreshMedia
    else ok t
  else ok s

end Sys2Proof.Machine
end

