-- ==== Sys2Proof/Machine/PairOps.lean ====
section
/-!
DEFINITION. Sys2Proof/Machine/PairOps.lean: the pairs' restart up to what involves a mode (R363 to R371), and Signpost's claims
lost with it.
-/

namespace Sys2Proof.Machine

/-- The READY bit of pair `p` (0 Port, 1 Media). -/
def pairReady (p : Nat) : Ready := if p = 0 then .portPair else .mediaPair

/-- The causes of KEY_PAIR_STAT. -/
def rstLockstep : Nat := 1
def rstHeartbeat : Nat := 2
def rstCommand : Nat := 3

/-- Pair `p` is RESTARTING. -/
def State.restarting (s : State) (p : Nat) : Bool := s.flag (R.KEY_PAIR_STAT p) F.KEY_PAIR_STAT_RESTARTING

/-- The vector of KEY_RST_VEC[p]. -/
def State.rstVec (s : State) (p : Nat) : Nat :=
  4 * s.rf (R.KEY_RST_VEC_LO p) F.KEY_RST_VEC_LO_ADDR + 2 ^ 32 * s.rf (R.KEY_RST_VEC_HI p) F.KEY_RST_VEC_HI_ADDR

/-- Ten minutes in ticks of 10 ns. -/
def tenMinutes : Nat := 60000000000

/-- A restart counted (R367): the latest three begins, and whether this is the third within ten minutes of its first. -/
def State.countRestart (s : State) (p : Nat) : Bool × State :=
  let old := spGetD [] s.pair.counted p
  let all := (s.now :: old).take 3
  let third := all.length = 3 && s.now ≤ all.getLastD 0 + tenMinutes
  (third, { s with pair := { s.pair with counted := spSet [] s.pair.counted p all } })

/-- Steps 1 to 4 of a restart (R369): READY clears, RESTARTING sets, the pair's claims in service are lost. -/
def State.beginRestart (s : State) (p cause : Nat) : State :=
  let s1 := (((s.setReady (pairReady p) false).raise (R.KEY_PAIR_STAT p) F.KEY_PAIR_STAT_RESTARTING).wf
    (R.KEY_PAIR_STAT p) F.KEY_PAIR_STAT_CAUSE cause).countUp (R.KEY_PAIR_STAT p) F.KEY_PAIR_STAT_COUNT 1
  { s1 with pair := { s1.pair with service := s1.pair.service.filter fun q => q.2 / 2 ≠ p,
                                   began := spSet 0 s1.pair.began p s1.now } }

/-- The interval to pair `p`'s next heartbeat begins now (R367). -/
def State.beat (s : State) (p : Nat) : State :=
  { s with pair := { s.pair with beat := spSet 0 s.pair.beat p s.now } }

/-- KEY_HB[p], by pair p alone. -/
def State.writeHb (s : State) (i : Initiator) (p : Nat) : State :=
  match i with
  | .port => if p = 0 then s.beat 0 else s
  | .media => if p = 1 then s.beat 1 else s
  | _ => s

/-- KEY_HB_CFG: a write of a nonzero HB_MS begins both intervals anew (R367). -/
def State.writeHbCfg (s : State) (i : Initiator) (p : Priv) (v : Word) : State :=
  if !pairMachine i p then s
  else
    let ms := fget v F.KEY_HB_CFG_HB_MS
    let t := s.wf R.KEY_HB_CFG F.KEY_HB_CFG_HB_MS ms
    if ms ≠ 0 then (t.beat 0).beat 1 else t

/-- KEY_RST_VEC_LO and KEY_RST_VEC_HI of pair p, by that pair from machine mode. -/
def State.writeRstVec (s : State) (i : Initiator) (pr : Priv) (p : Nat) (hi : Bool) (v : Word) : State :=
  let own := match i with | .port => decide (p = 0) | .media => decide (p = 1) | _ => false
  if pr = .machine ∧ own = true then
    if hi then s.wf (R.KEY_RST_VEC_HI p) F.KEY_RST_VEC_HI_ADDR (fget v F.KEY_RST_VEC_HI_ADDR)
    else s.wf (R.KEY_RST_VEC_LO p) F.KEY_RST_VEC_LO_ADDR (fget v F.KEY_RST_VEC_LO_ADDR)
  else s

end Sys2Proof.Machine
end

