-- ==== Sys2Proof/Machine/Cairn.lean ====
section
/-!
DEFINITION. Sys2Proof/Machine/Cairn.lean: the meanings of the Cairn commands (R450 to R460).
-/

namespace Sys2Proof.Machine

/-- CRN registers are written by the pairs and Keystone. -/
def crnWriter (i : Initiator) : Bool := isPair i || isKeystone i

/-- The freeze ends: FREEZE reads 0, the held releases are applied, then the waiting events enter the log (R456). -/
def State.endFreeze (s : State) : State :=
  let s1 := s.wf R.CRN_CTL F.CRN_CTL_FREEZE 0
  let s2 := s1.applyRelease s1.crn.heldRelease
  { s2 with crn := { s2.crn with heldRelease := 0 } }.releaseHold

/-- A CRN_CTL write: the times by access type, FREEZE as R456 gives. -/
def State.writeCrnCtl (s : State) (i : Initiator) (v : Word) : State :=
  if !crnWriter i then s
  else
    let was := s.frozen
    let s1 := s.writeFields R.CRN_CTL v
    if was && fget v F.CRN_CTL_FREEZE = 0 then s1.endFreeze else s1

/-- MINUTE_TICK: Ballast counts a full minute (R450). -/
def execMinuteTick (s : State) : Host.Outcome State Fault Refusal :=
  ok { s with crn := { s.crn with minutes := (s.crn.minutes + 1) % 2 ^ 32, minuteStart := s.now } }

/-- The values of RES and SEQ + 1 in the good records of the flash whose FB flag is 0 (R451). -/
def restoreValues (fl : List (Nat × FlashSlot)) : List Nat :=
  fl.flatMap fun q => match q.2 with
    | .bad => []
    | .good r => if r.fb then [] else if r.ev.typ = 0x000C then [r.seq + 1, r.ev.arg % 2 ^ 64] else [r.seq + 1]

/-- Order of R458: PCYC, then MINUTES, then SUB_US. -/
def newer (a b : Event) : Bool :=
  a.pcyc < b.pcyc || (a.pcyc = b.pcyc && (a.minutes < b.minutes || (a.minutes = b.minutes && a.subUs ≤ b.subUs)))

/-- Slot of the newest good record (R458); position in the ring breaks a tie. -/
def newestSlot (fl : List (Nat × FlashSlot)) : Option Nat :=
  (fl.foldl (fun m q => match q.2, m with
    | .good r, none => some (q.1, r.ev)
    | .good r, some (p, e) => if newer e r.ev then some (q.1, r.ev) else some (p, e)
    | .bad, m => m) none).map Prod.fst

/-- The RESET record, the first after restore (R454): SYS_RST_CAUSE and the next SEQ found, 0 in fallback. -/
def State.resetRecord (s : State) (found : Nat) : State :=
  s.cairn 0 0x0004 (orgBlock 0) (argOf [(4, (s.rd R.SYS_RST_CAUSE).toNat), (6, found)])

/-- A failed flash write (R458). -/
def State.persistFail (s : State) : State := (s.report 50 2).raise R.CRN_EVT F.CRN_EVT_PERSIST_FAIL

/-- CAIRN_RESTORE: the scan sets the next number, or fallback; a RESERVE record is written; CAIRN sets (R451, R452). -/
def execCairnRestore (reserveOk : Bool) (s : State) : Host.Outcome State Fault Refusal :=
  if s.crn.restored || !s.ready .tollgate then ok s
  else
    let vals := restoreValues s.crn.flash
    let waiting := s.crn.hold
    let c0 := { s.crn with restored := true, hold := [],
                           flashPos := match newestSlot s.crn.flash with | some p => p + 1 | none => 0 }
    let s0 := { s with crn := c0 }
    let s1 :=
      if vals ≠ [] then
        let n := vals.foldl max 0
        let e := s0.eventNow 0 0x000C 0x0102 (argOf [(8, n + 65536)]) false
        let r : Rec := { seq := n, fb := false, ev := e, inFlash := reserveOk }
        let c1 := { c0 with log := c0.log ++ [r], next := n + 1, res := n + 65536, fb := !reserveOk }
        let s2 := { s0 with crn := if reserveOk then c1.flashAppend r else c1 }
        s2.resetRecord (if reserveOk then n else 0)
      else if s.crn.pcyc = 1 && s.crn.minutes = 0 then
        { s0 with crn := { c0 with next := 0, res := 0 } }.resetRecord 0
      else { s0 with crn := { c0 with fb := true } }.resetRecord 0
    let s3 := waiting.foldl State.record s1
    ok ((if vals ≠ [] && !reserveOk then s3.persistFail else s3).setReady .cairn true)

/-- LOG_FREEZE: CRN_CTL written with FREEZE 1 (R456). -/
def execLogFreeze (i : Initiator) (v : Word) (s : State) : Host.Outcome State Fault Refusal :=
  ok (s.writeCrnCtl i (fset v F.CRN_CTL_FREEZE 1))

/-- LOG_UNFREEZE: CRN_CTL written with FREEZE 0 (R456). -/
def execLogUnfreeze (i : Initiator) (v : Word) (s : State) : Host.Outcome State Fault Refusal :=
  ok (s.writeCrnCtl i (fset v F.CRN_CTL_FREEZE 0))

/-- FREEZE_TIMEOUT: FREEZE_MS passes (R456). -/
def execFreezeTimeout (s : State) : Host.Outcome State Fault Refusal :=
  if s.frozen then ok ((s.raise R.CRN_EVT F.CRN_EVT_FREEZE_TMO).endFreeze) else ok s

/-- Word `w` of the log record at index `n`; zero at or beyond HELD (R457). -/
def State.logWord (s : State) (n w : Nat) : Word :=
  match s.crn.log[n]? with
  | some r => word (rdLe r.bytes (4 * w) 4)
  | none => 0

/-- SB_WINDOW_HEAD_READ: returns HELD and rewinds the window (R457). -/
def execSbWindowHeadRead (s : State) : Host.Outcome State Fault Refusal :=
  ok ({ s with crn := { s.crn with sbWindow := 0 } }.answer (word s.crn.log.length))

/-- SB_WINDOW_ADVANCE: word 15 of the window's record is read and the window moves on (R457). -/
def execSbWindowAdvance (s : State) : Host.Outcome State Fault Refusal :=
  ok ({ s with crn := { s.crn with sbWindow := s.crn.sbWindow + 1 } }.answer (s.logWord s.crn.sbWindow 15))

/-- PERSIST_TIMER: PERSIST_S seconds elapse (R458). -/
def execPersistTimer (s : State) : Host.Outcome State Fault Refusal := ok s.flashDue

/-- A CRN_PERSIST write: GO requests a flash write. -/
def State.writePersist (s : State) (i : Initiator) (v : Word) : State :=
  if crnWriter i && fget v F.CRN_PERSIST_GO = 1 then
    let late : Bool := match s.crn.writing with
      | some (.records _) => true
      | _ => false
    { s with crn := { s.crn with goNext := s.crn.goNext || late } }.raise R.CRN_PERSIST F.CRN_PERSIST_GO |>.flashDue
  else s

/-- PERSIST_GO (R458). -/
def execPersistGo (i : Initiator) (v : Word) (s : State) : Host.Outcome State Fault Refusal := ok (s.writePersist i v)

/-- The RESERVE record of the log is marked as held by the flash. -/
def markReserve : List Rec → List Rec
  | [] => []
  | r :: rest => if r.ev.typ = 0x000C && !r.inFlash then { r with inFlash := true } :: rest else r :: markReserve rest

/-- The end of the RESERVE record's write (R451). -/
def State.reserveDone (s : State) (good : Bool) : State :=
  let s0 := { s with crn := { s.crn with writing := none, reserveWait := false } }
  if good then
    match s0.crn.log.find? fun r => r.ev.typ = 0x000C && !r.inFlash with
    | some r =>
      let c := s0.crn.flashAppend r
      { s0 with crn := { c with log := markReserve c.log, res := c.res + 65536 } }.releaseHold.startFlash
    | none => s0.releaseHold.startFlash
  else { s0 with crn := { s0.crn with fb := true } }.releaseHold.persistFail.startFlash

/-- The end of a write of the `n` oldest unpersisted records (R458). -/
def State.recordsDone (s : State) (n : Nat) (good : Bool) : State :=
  let s0 := { s with crn := { s.crn with writing := none, goNext := false } }.wf R.CRN_PERSIST F.CRN_PERSIST_GO
    (b2n s.crn.goNext)
  if good then
    let q := persistLog s0.crn.log n s0.crn
    ({ s0 with crn := { q.2 with log := q.1 } }.raise R.CRN_EVT F.CRN_EVT_PERSIST_DONE).startFlash
  else s0.persistFail.startFlash

/-- PERSIST_DONE: a flash write ends, verified or failed (R451, R458). -/
def execPersistDone (good : Bool) (s : State) : Host.Outcome State Fault Refusal :=
  match s.crn.writing with
  | none => ok s
  | some .reserve => ok (s.reserveDone good)
  | some (.records n) => ok (s.recordsDone n good)

/-- A CRN_RELEASE write by a pair: the count goes to Keystone, or to the held total during a freeze (R456, R460). -/
def State.writeRelease (s : State) (i : Initiator) (v : Word) : State :=
  if !isPair i then s
  else
    let n := fget v F.CRN_RELEASE_COUNT
    if s.frozen then { s with crn := { s.crn with heldRelease := s.crn.heldRelease + n } }
    else { s with crn := { s.crn with releasing := s.crn.releasing + n } }

/-- LOG_RELEASE (R460). -/
def execLogRelease (i : Initiator) (v : Word) (s : State) : Host.Outcome State Fault Refusal := ok (s.writeRelease i v)

/-- RELEASE_APPLIED: Keystone removes the released records (R460). -/
def execReleaseApplied (s : State) : Host.Outcome State Fault Refusal :=
  ok ({ s with crn := { s.crn with releasing := 0 } }.applyRelease s.crn.releasing)

/-- A CRN_FW_DATA write stages the next ARG word; a tenth is a violation (R454). -/
def State.writeFwData (s : State) (i : Initiator) (v : Word) : State :=
  if crnWriter i && s.crn.fwStage.length < 9 then { s with crn := { s.crn with fwStage := s.crn.fwStage ++ [v] } } else s

/-- A CRN_FW_GO write records the nine staged words; another TYPE or fewer words is a violation (R454). -/
def State.writeFwGo (s : State) (i : Initiator) (v : Word) : State :=
  if crnWriter i && s.crn.fwStage.length = 9 && 0x8000 ≤ fget v F.CRN_FW_GO_TYPE then
    let arg := argOf (s.crn.fwStage.map fun w => (4, w.toNat))
    { s with crn := { s.crn with fwStage := [] } }.cairn (fget v F.CRN_FW_GO_CLASS) (fget v F.CRN_FW_GO_TYPE)
      (orgFirmware i) arg
  else s

/-- FW_RECORD_STAGE (R454). -/
def execFwRecordStage (i : Initiator) (v : Word) (s : State) : Host.Outcome State Fault Refusal := ok (s.writeFwData i v)

/-- FW_RECORD_WRITE (R454). -/
def execFwRecordWrite (i : Initiator) (v : Word) (s : State) : Host.Outcome State Fault Refusal := ok (s.writeFwGo i v)

end Sys2Proof.Machine
end

