-- ==== Sys2Proof/Machine/MboxOps.lean ====
section
/-!
DEFINITION. Sys2Proof/Machine/MboxOps.lean: Milepost's queues, doorbells and requests (R382 to R386). Side 0 of a mailbox is the
near side, side 1 the far side.
-/

namespace Sys2Proof.Machine

/-- The resource of mailbox `m` (R54). -/
def mboxRes (m : Nat) : Nat := 0x0800 + m

/-- Milepost is ready and the mailbox has an owner (R59, R382). -/
def State.mboxUsable (s : State) (m : Nat) : Bool := s.ready .milepost && s.owner (mboxRes m) ≠ 0

/-- The initiator is the endpoint of a side (R382). -/
def State.isEndpoint (s : State) (i : Initiator) (m side : Nat) : Bool :=
  s.mboxUsable m &&
  (if side = 0 then
    match i with
    | .port => s.rf (R.MPO_CFG m) F.MPO_CFG_NEAR = 1
    | .media => s.rf (R.MPO_CFG m) F.MPO_CFG_NEAR = 2
    | _ => false
  else
    match i with
    | .port => s.owner (mboxRes m) = 1
    | .media => s.owner (mboxRes m) = 2
    | .keystone => s.owner (mboxRes m) = 3
    | .sideband => s.owner (mboxRes m) = 0x53
    | .str _ => false)

/-- The inbound queue of a side, oldest first. -/
def State.inbound (s : State) (m side : Nat) : List Nat := spGetD [] s.pair.boxes (2 * m + side)

/-- The inbound queue of a side replaced. -/
def State.setInbound (s : State) (m side : Nat) (q : List Nat) : State :=
  { s with pair := { s.pair with boxes := spSet [] s.pair.boxes (2 * m + side) q } }

/-- A word from `side` joins the other side's queue (R383); the sideband raises an in-band interrupt when its queue
stops being empty (R113). -/
def State.mboxPush (s : State) (m side v : Nat) : State :=
  let q := s.inbound m (1 - side)
  let t := s.setInbound m (1 - side) (q ++ [v])
  if side = 0 && s.owner (mboxRes m) = 0x53 && q.isEmpty && s.flag R.SYS_SB_STATUS F.SYS_SB_STATUS_MODE && s.sb.ibiAllowed
  then t.emit (.i3c 1) else t

/-- MPO_TX written by the endpoint of `side`: on a full queue the write is answered by a bus error and has no other effect
(R15, R383). -/
def State.mboxTx (s : State) (m side : Nat) (v : Word) : State :=
  if 16 ≤ (s.inbound m (1 - side)).length then s.emit (.busError m side) else s.mboxPush m side v.toNat

/-- The shortest time after which a side's timer may expire, in ticks of 10 ns: its TMO less 0.1 % and 1 µs (tMPO_TMO). -/
def State.tmoTicks (s : State) (m side : Nat) : Nat :=
  let us := if side = 0 then s.rf (R.MPO_TMO_N m) F.MPO_TMO_N_US else s.rf (R.MPO_TMO_F m) F.MPO_TMO_F_US
  100 * us - us / 10 - 100

/-- A doorbell write by `side` (R384, R385): the timer starts at the side's TMO value. -/
def State.mboxRing (s : State) (m side : Nat) (v : Word) : State :=
  if v = 0 then s
  else
    let t := s.orReg (R.MPO_DB m (1 - side)) v.toNat
    if t.flag (R.MPO_REQ m side) F.MPO_REQ_OUTSTANDING then t
    else { t with pair := { t.pair with expired := t.pair.expired.filter (· ≠ 2 * m + side),
                                        due := spSet 0 t.pair.due (2 * m + side) (t.now + t.tmoTicks m side) } }.raise (R.MPO_REQ m side)
      F.MPO_REQ_OUTSTANDING

/-- `side` acknowledges the other side's request with a code (R385). -/
def State.mboxAck (s : State) (m side code : Nat) : State :=
  let r := R.MPO_REQ m (1 - side)
  if s.flag r F.MPO_REQ_OUTSTANDING then
    let t := ((s.wf r F.MPO_REQ_CODE code).raise r F.MPO_REQ_ACKED).wf r F.MPO_REQ_OUTSTANDING 0
    if t.pair.expired.contains (2 * m + (1 - side)) then t.raise r F.MPO_REQ_LATE else t
  else s

/-- MPO_QSTAT of a side. -/
def State.qstat (s : State) (m side : Nat) : Word :=
  word ((s.inbound m (1 - side)).length * 2 ^ 8 + (s.inbound m side).length)

/-- The signal of a side to Signpost: an unmasked doorbell, ACKED or TIMEOUT, where the endpoint is a pair (R384). -/
def State.mboxSignal (s : State) (m side : Nat) : Bool :=
  (side = 0 || s.owner (mboxRes m) = 1 || s.owner (mboxRes m) = 2) &&
    ((s.rd (R.MPO_DB m side) &&& ~~~ (s.rd (R.MPO_DB_MASK m side))) ≠ 0
      || s.flag (R.MPO_REQ m side) F.MPO_REQ_ACKED || s.flag (R.MPO_REQ m side) F.MPO_REQ_TIMEOUT)

end Sys2Proof.Machine
end

