-- ==== Sys2Proof/Machine/Signpost.lean ====
section
/-!
DEFINITION. Sys2Proof/Machine/Signpost.lean: which sources are asserted (R379, R380, R415), claims and completions (R378, R379) and the
machine timer (R381).
-/

namespace Sys2Proof.Machine

/-- Some event bit of `evt` is set with its bit in `en` set. -/
def State.enabled (s : State) (evt en : Nat) : Bool := s.rd evt &&& s.rd en ≠ 0

/-- Some latched source has NOTIFY at 1. -/
def State.notified (s : State) : Bool :=
  (List.range tgtSources).any fun n => s.latched n && s.flag (R.TGT_SRC_CFG n) F.TGT_SRC_CFG_NOTIFY

/-- Some loop has a flag set with its EN bit set. -/
def State.anyLoopFlag (s : State) : Bool :=
  (List.range 80).any fun l => s.rf (R.BAS_LFLAG l) ⟨5, 0⟩ &&& s.rf (R.BAS_LFLAG l) F.BAS_LFLAG_EN ≠ 0

/-- Source `n` is asserted (R380 and the register that raises it); sources 15 to 17 are events, asserted until they are claimed. -/
def State.asserted (s : State) (n : Nat) : Bool :=
  if 15 ≤ n ∧ n < 18 then s.sigEvents.contains n
    else if n = 1 then s.rd R.SYS_READY_CHG ≠ 0
    else if n = 2 then s.flag R.TGT_GRACE_STAT F.TGT_GRACE_STAT_RUNNING || s.notified
    else if n = 3 then s.enabled R.CRN_EVT R.CRN_EVT_EN
    else if n = 4 then !s.trn.faults.isEmpty
    else if n = 5 then s.flag R.SHL_INV_STATUS F.SHL_INV_STATUS_DONE
    else if n = 6 then s.flag R.BED_ROW_CTL F.BED_ROW_CTL_ROW_EVT
    else if n = 7 then s.enabled R.OBS_EVT R.OBS_EVT_EN
    else if n = 8 ∨ n = 9 then s.rd (R.HP_EVT (n - 8)) ≠ 0
    else if n = 10 then s.rd R.CSW_EVT ≠ 0
    else if n = 11 then !s.cmd.portQ.isEmpty
    else if n = 12 then !s.cmd.mediaQ.isEmpty
    else if n = 13 then s.cmd.ctxs.any fun q => q.2.state = cCommit
    else if n = 14 then (List.range 8).any fun w => s.rd (R.WAY_OVER_EVT w) ≠ 0
    else if n = 18 then s.anyLoopFlag
    else if n = 19 then s.enabled R.MIL_EVT R.MIL_EVT_EN
    else if n = 20 then s.rd R.BLS_EVT ≠ 0
    else if n = 21 then s.enabled R.QRY_EVT R.QRY_EVT_EN
    else if 24 ≤ n ∧ n < 32 then s.enabled (R.LD_EVT (n - 24)) (R.LD_EVT_EN (n - 24))
    else if 32 ≤ n ∧ n < 36 then s.rd (R.ACT_WC_EVT (n - 32)) ≠ 0
    else if 36 ≤ n ∧ n < 40 then s.enabled (R.ACT_EVT (n - 36)) (R.ACT_EVT_EN (n - 36))
    else if 40 ≤ n ∧ n < 52 then s.enabled (R.STR_EVT (n - 40)) (R.STR_EVT_EN (n - 40))
    else if 64 ≤ n ∧ n < 96 then s.enabled (R.CAR_CH_EVT (n - 64)) (R.CAR_CH_EVT_EN (n - 64))
    else if 96 ≤ n ∧ n < 104 then s.mboxSignal (n - 96) 0
    else if 104 ≤ n ∧ n < 112 then s.mboxSignal (n - 104) 1
    else false

/-- Source `n` is in service. -/
def State.inService (s : State) (n : Nat) : Bool := s.pair.service.any fun q => q.1 = n

/-- Pending: asserted and not in service (R378). -/
def State.sigPending (s : State) (n : Nat) : Bool := s.asserted n && !s.inService n

/-- Eligible for context `c` (R379). -/
def State.eligible (s : State) (c n : Nat) : Bool :=
  s.sigPending n && bitAt (s.rf (R.SIG_SRC n) F.SIG_SRC_TARGET) c
    && s.rf (R.SIG_THR c) F.SIG_THR_THR < s.rf (R.SIG_SRC n) F.SIG_SRC_PRIO

/-- The better of two sources: the higher PRIO, and the lower number on a tie. -/
def State.better (s : State) (n m : Nat) : Nat :=
  if s.rf (R.SIG_SRC m) F.SIG_SRC_PRIO < s.rf (R.SIG_SRC n) F.SIG_SRC_PRIO then n else m

/-- The source that context `c` claims; 0 when none is eligible. Numbers are taken ascending. -/
def State.claimable (s : State) (c : Nat) : Nat :=
  (((List.range 111).map (· + 1)).filter (s.eligible c)).foldl (fun m n => if m = 0 then n else s.better n m) 0

/-- The interrupt of context `c` is asserted (R378). -/
def State.sigInterrupt (s : State) (c : Nat) : Bool := s.claimable c ≠ 0

/-- Who reaches the registers of context `c`: its pair, and from S-mode contexts 1 and 3 only (R378). -/
def sigOwner (i : Initiator) (p : Priv) (c : Nat) : Bool :=
  (match i with | .port => decide (c < 2) | .media => decide (2 ≤ c) | _ => false)
    && (p = .machine || (p = .supervisor && c % 2 = 1))

/-- A read of SIG_CLAIM[c]: the claimed source is in service; a source held by an event is taken with it. -/
def State.readClaim (s : State) (i : Initiator) (p : Priv) (c : Nat) : State :=
  if !sigOwner i p c then s.answer 0
  else
    let n := s.claimable c
    if n = 0 then s.answer 0
    else
      let t := { s with pair := { s.pair with service := (n, c) :: s.pair.service }, sigEvents := s.sigEvents.filter (· ≠ n) }
      t.answer (word n)

/-- A write of SIG_CLAIM[c]: SOURCE is complete, where it is in service from this context. -/
def State.writeClaim (s : State) (i : Initiator) (p : Priv) (c : Nat) (v : Word) : State :=
  if !sigOwner i p c then s
  else { s with pair := { s.pair with service := s.pair.service.filter fun q => q ≠ (fget v F.SIG_CLAIM_SOURCE, c) } }

/-- A write of SIG_THR[c]. -/
def State.writeThr (s : State) (i : Initiator) (p : Priv) (c : Nat) (v : Word) : State :=
  if !sigOwner i p c then s else s.wf (R.SIG_THR c) F.SIG_THR_THR (fget v F.SIG_THR_THR)

/-- Word `w` of SIG_PEND. -/
def State.sigPend (s : State) (w : Nat) : Word :=
  word ((List.range 32).foldl (fun acc b =>
    if 1 ≤ 32 * w + b ∧ 32 * w + b ≤ 111 ∧ s.sigPending (32 * w + b) then acc + 2 ^ b else acc) 0)

/-- SIG_MTIMECMP[p]. -/
def State.mtimecmp (s : State) (p : Nat) : Nat :=
  (s.rd (R.SIG_MTIMECMP_LO p)).toNat + 2 ^ 32 * (s.rd (R.SIG_MTIMECMP_HI p)).toNat

/-- MTIP of pair `p` (R381). -/
def State.mtip (s : State) (p : Nat) : Bool := s.mtimecmp p ≤ s.now

/-- INTERRUPT_CLAIM (R378, R379). -/
def execInterruptClaim (i : Initiator) (p : Priv) (c : Fin 4) (s : State) : Host.Outcome State Fault Refusal :=
  ok (s.readClaim i p c.val)

/-- INTERRUPT_COMPLETE (R379). -/
def execInterruptComplete (i : Initiator) (p : Priv) (c : Fin 4) (v : Word) (s : State) : Host.Outcome State Fault Refusal :=
  ok (s.writeClaim i p c.val v)

/-- MACHINE_TIMER_INTERRUPT (R381): SIG_MTIME has reached the pair's SIG_MTIMECMP. -/
def execMachineTimerInterrupt (p : Fin 2) (s : State) : Host.Outcome State Fault Refusal :=
  ok { s with now := max s.now (s.mtimecmp p.val) }

end Sys2Proof.Machine
end

