-- ==== Sys2Proof/Machine/Turnpike.lean ====
section
/-!
DEFINITION. Sys2Proof/Machine/Turnpike.lean: the meanings of Turnpike's commands (R373 to R377).
-/

namespace Sys2Proof.Machine

/-- What the requester of a stream does on a fault (R376); `k` is the context of a host stream's transfer. -/
def State.requesterFault (s : State) (st iova : Nat) (write : Bool) (k : Nat) : State :=
  if st < 32 then s.carFault st iova write
  else if st < 44 then s.strFault (st - 32) scFault
  else if st < 46 then (if (s.ctx k).state = cFree then s else s.queueCtx 0 k)
  else s.cswStopTell ceTranslation

/-- TRANSLATE (R373 to R376): the address stands in `trn.result`, or a fault has been raised and the requester stopped. -/
def execTranslate (st : Fin 47) (iova : Nat) (write : Bool) (k : Fin 65536) (s : State) : Host.Outcome State Fault Refusal :=
  let q := s.translate st.val iova write
  match q.1 with
  | some _ => ok q.2
  | none => ok (q.2.requesterFault st.val iova write k.val)

/-- A write of TRN_SCTX[st] (R11, R14, R377): MODE 0b11 is a violation; a write of MODE and ROOT_PPN discards the stream's
IOTLB entries; FAULTED is W1C, and a sequencer that held on it goes on (R395). -/
def State.writeSctx (s : State) (i : Initiator) (p : Priv) (st : Nat) (v : Word) : State :=
  if !pairMachine i p || fget v F.TRN_SCTX_MODE = 3 then s
  else
    let t := (s.writeFields (R.TRN_SCTX st) v).tlbDrop fun e => e.stream = st
    if 32 ≤ st && st < 44 && !t.flag (R.TRN_SCTX st) F.TRN_SCTX_FAULTED then
      t.wf (R.STR_STAT (st - 32)) F.STR_STAT_HELD 0
    else t

/-- STREAM_CONFIG (R377). -/
def execStreamConfig (i : Initiator) (p : Priv) (st : Fin 47) (v : Word) (s : State) : Host.Outcome State Fault Refusal :=
  ok (s.writeSctx i p st.val (fset v F.TRN_SCTX_FAULTED 0))

/-- STREAM_FAULT_CLEAR (R376). -/
def execStreamFaultClear (i : Initiator) (p : Priv) (st : Fin 47) (s : State) : Host.Outcome State Fault Refusal :=
  ok (s.writeSctx i p st.val (fset (s.rd (R.TRN_SCTX st.val)) F.TRN_SCTX_FAULTED 1))

/-- An invalidation starts (R377); a write while BUSY is a violation. -/
def State.writeInv (s : State) (i : Initiator) (p : Priv) (q : TlbEntry → Bool) : State :=
  if !pairMachine i p || s.flag R.TRN_INV_STAT F.TRN_INV_STAT_BUSY then s
  else (s.tlbDrop q).wf R.TRN_INV_STAT F.TRN_INV_STAT_BUSY 1

/-- The page that TRN_INV_VA names. -/
def State.invPage (s : State) : Nat :=
  s.rf R.TRN_INV_VA_LO F.TRN_INV_VA_LO_VA + 2 ^ 20 * s.rf R.TRN_INV_VA_HI F.TRN_INV_VA_HI_VA

/-- IOTLB_INV_ALL (R377). -/
def execIotlbInvAll (i : Initiator) (p : Priv) (s : State) : Host.Outcome State Fault Refusal :=
  ok (s.writeInv i p fun _ => true)

/-- IOTLB_INV_STREAM (R377). -/
def execIotlbInvStream (i : Initiator) (p : Priv) (st : Fin 64) (s : State) : Host.Outcome State Fault Refusal :=
  ok (s.writeInv i p fun e => e.stream = st.val)

/-- IOTLB_INV_PAGE (R377). -/
def execIotlbInvPage (i : Initiator) (p : Priv) (st : Fin 64) (s : State) : Host.Outcome State Fault Refusal :=
  ok (s.writeInv i p fun e => e.stream = st.val && e.vpn ≤ s.invPage && s.invPage < e.vpn + e.span)

/-- TRN_INV by its OP field. -/
def State.writeTrnInv (s : State) (i : Initiator) (p : Priv) (v : Word) : State :=
  let st := fget v F.TRN_INV_STREAM
  match fget v F.TRN_INV_OP with
  | 1 => s.writeInv i p fun _ => true
  | 2 => s.writeInv i p fun e => e.stream = st
  | 3 => s.writeInv i p fun e => e.stream = st && e.vpn ≤ s.invPage && s.invPage < e.vpn + e.span
  | _ => s

/-- IOTLB_INV_DONE (R377). -/
def execIotlbInvDone (s : State) : Host.Outcome State Fault Refusal :=
  if s.flag R.TRN_INV_STAT F.TRN_INV_STAT_BUSY then
    ok ((s.wf R.TRN_INV_STAT F.TRN_INV_STAT_BUSY 0).raise R.TRN_INV_STAT F.TRN_INV_STAT_DONE)
  else ok s

/-- The oldest queued fault removed (R376). -/
def State.writeFltPop (s : State) (i : Initiator) (p : Priv) : State :=
  if pairMachine i p then { s with trn := { s.trn with faults := s.trn.faults.drop 1 } } else s

/-- FAULT_POP (R376). -/
def execFaultPop (i : Initiator) (p : Priv) (s : State) : Host.Outcome State Fault Refusal := ok (s.writeFltPop i p)

/-- TRN_FLT_LO, TRN_FLT_HI and TRN_FLT_INFO: the oldest queued fault. -/
def State.fltLo (s : State) : Word := word ((s.trn.faults.head?.map TrnFault.iova).getD 0)
def State.fltHi (s : State) : Word := word (((s.trn.faults.head?.map TrnFault.iova).getD 0) / 2 ^ 32)
def State.fltInfo (s : State) : Word :=
  match s.trn.faults.head? with
  | none => 0
  | some f => word (2 ^ 31 + b2n f.write * 2 ^ 30 + f.stream * 2 ^ 24 + f.cause)

end Sys2Proof.Machine
end

