-- ==== Sys2Proof/Machine/Views.lean ====
section
/-!
DEFINITION. Sys2Proof/Machine/Views.lean: the registers whose value is a function of the state (copies of a READY bit, counts,
queue heads, fuses, timers), block by block, and what any register reads as when a read has no effect of its own (R11, R12).
-/

namespace Sys2Proof.Machine

/-- The part of a stored value that a read returns: WO fields and reserved bits read as zero (R11, R12). -/
def readable (d : RegDesc) (w : Word) : Word :=
  d.fields.foldl (fun r f => if f.acc = .wo then r else fset r ⟨f.hi, f.lo⟩ (fget w ⟨f.hi, f.lo⟩)) 0

/-- The low word, or the high one, of a count. -/
def halfOf (hi : Bool) (n : Nat) : Word := word (if hi then n / 2 ^ 32 else n)

/-- Readiness as a bit at place `b` of a register whose other fields stand in `w`. -/
def State.withReady (s : State) (w : Word) (b : Nat) (r : Ready) : Word := fset w ⟨b, b⟩ (b2n (s.ready r))

/-! ### SYS, TGT, CRN -/

/-- The image that is applied, or is about to be once both slots are checked. -/
def State.loadedImage (s : State) : Option Kenul :=
  match s.slotA, s.slotB with
  | some a, some b => (chosenSlot a b).map Prod.snd
  | _, _ => none

/-- SYS_KENUL_OWN (R57, R59): fixed when STATUS leaves LOADING (R67). -/
def State.ownWord (s : State) (id : Nat) : Word :=
  match s.loadedImage.bind fun k => k.claims.find? fun c => c.id = id with
  | some c => word (c.mask * 256 + c.owner)
  | none => 0

/-- Key slot `k` as the fuses show it. -/
def State.keySlotAt (s : State) (k : Nat) : KeySlot := (s.sys.fuses.slots[k]?).getD {}

/-- Computed registers of SYS. -/
def State.viewSys (s : State) (o : Nat) : Option Word :=
  if 0x40000 ≤ o ∧ o < 0x80000 then some (s.ownWord ((o - 0x40000) / 4))
  else if 0x200 ≤ o ∧ o < 0x210 then
    some (word (b2n (s.keySlotAt ((o - 0x200) / 4)).revoked * 2 + b2n (s.keySlotAt ((o - 0x200) / 4)).programmed))
  else if 0x300 ≤ o ∧ o < 0x400 then
    let k := s.keySlotAt ((o - 0x300) / 0x40)
    some (if k.programmed then word (rdLe k.hash (o % 0x40) 4) else 0)
  else match o with
    | 0x400 => some (fset (s.rd R.SYS_SB_STATUS) F.SYS_SB_STATUS_STATIC_ADDR (0x58 + s.sys.sbAddr))
    | 0x408 => some (word (0x96400000 + s.sys.sbAddr * 2 ^ 12))
    | 0x40C => some (word (s.sys.fuses.mipi % 2 ^ 15 * 2))
    | _ => none

/-- Computed registers of TGT: the time left. -/
def State.viewTgt (s : State) (o : Nat) : Option Word :=
  if o = 0x24 then
    let w := s.rd R.TGT_GRACE_STAT
    some (if fget w F.TGT_GRACE_STAT_RUNNING = 1 then fset w F.TGT_GRACE_STAT_REMAIN_US ((s.tgt.graceDue - s.now) / 100) else w)
  else none

/-- Computed registers of CRN (R450 to R457). -/
def State.viewCrn (s : State) (o : Nat) : Option Word :=
  let held := s.crn.log.length
  if 0x40 ≤ o ∧ o < 0x80 then some (s.logWord (s.rf R.CRN_RD_IDX F.CRN_RD_IDX_DATA) ((o - 0x40) / 4))
  else if 0x100 ≤ o ∧ o < 0x140 then some (s.logWord s.crn.sbWindow ((o - 0x100) / 4))
  else match o with
    | 0x04 => some (word (b2n s.crn.fb * 2 ^ 31 + b2n s.frozen * 2 ^ 30 + b2n (decide (16384 ≤ held)) * 2 ^ 29
        + b2n s.crn.writing.isSome * 2 ^ 28 + held))
    | 0x08 => some (word s.crn.next)
    | 0x0C => some (word (s.crn.next / 2 ^ 32 % 2 ^ 16))
    | 0x14 => some (word s.crn.persisted)
    | 0x90 => some (word s.crn.minutes)
    | 0x94 => some (word (s.crn.pcyc % 2 ^ 16))
    | 0xFC => some (word held)
    | _ => none

/-! ### SIG, MPO, TRN, SHL, BED, OBS -/

/-- Computed registers of SIG (R378, R381). -/
def State.viewSig (s : State) (o : Nat) : Option Word :=
  if 0x400 ≤ o ∧ o < 0x410 then some (s.sigPend ((o - 0x400) / 4))
  else if o = 0x1000 ∨ o = 0x1004 then some (halfOf (o = 0x1004) s.now)
  else none

/-- Computed registers of TRN (R376). -/
def State.viewTrn (s : State) (o : Nat) : Option Word :=
  match o with
  | 0x200 => some s.fltLo
  | 0x204 => some s.fltHi
  | 0x208 => some s.fltInfo
  | _ => none

/-- Computed registers of SHL, BED and OBS. -/
def State.viewShl (s : State) (o : Nat) : Option Word :=
  if o = 4 then some (fset (s.rd R.SHL_STATUS) F.SHL_STATUS_DIRTY (min (s.bed.lines.filter ShlLine.dirty).length 0xFFFF)) else none
def State.viewBed (s : State) (o : Nat) : Option Word := if o = 0 then some (s.withReady (s.rd R.BED_STAT) 0 .bedrock) else none
def State.viewObs (s : State) (o : Nat) : Option Word := if o = 0 then some (s.withReady (s.rd R.OBS_STAT) 16 .obsidian) else none

/-! ### WAY, HP, CSW, STR -/

/-- A head of a queue of contexts. -/
def headWord : List Nat → Word
  | k :: _ => word (2 ^ 31 + k)
  | [] => 0

/-- Computed registers of WAY (R99, R134, R137, R151, R154). -/
def State.viewWay (s : State) (o : Nat) : Option Word :=
  if 0x410 ≤ o ∧ o < 0x420 then
    let a := (o - 0x410) / 4
    some (word (min (s.freeBandsAct a) 0xFFFF * 2 ^ 16 + min (ceilDiv (s.pendingOf a * 4096) 1048576) 0xFFFF))
  else match o with
    | 0x130 => some (headWord s.cmd.portQ)
    | 0x138 => some (headWord s.cmd.mediaQ)
    | 0x140 => some (word s.freeCtx)
    | 0x144 => some (word (s.ctxCount fun c => c.state = cCommit))
    | 0x180 => some (word (s.vaultAllow / 65536 * 2 ^ 16 + min (ceilDiv (s.cmd.acked * 4096) 65536) 0xFFFF))
    | 0x434 => some (word (min (s.dueBands 1800).length 0xFFFF * 2 ^ 16 + min (s.dueBands 1440).length 0xFFFF))
    | 0x518 => some (s.unitWord 2)
    | 0x51C => some (s.unitWord 3)
    | 0x520 => some (halfOf false s.capSectors)
    | 0x524 => some (halfOf true s.capSectors)
    | 0x528 => some (halfOf false s.freeSectors)
    | 0x52C => some (halfOf true s.freeSectors)
    | 0x540 => some (halfOf false s.staleSectors)
    | 0x544 => some (halfOf true s.staleSectors)
    | _ => none

/-- Computed registers of port group `g`. -/
def State.viewHp (s : State) (g o : Nat) : Option Word :=
  match o with
  | 0x04 => some (word (0x96400000 + s.sys.fuses.vid % 2 ^ 16))
  | 0x40 => some (if s.pers g = 3 then word (max 33 (s.rf (R.HP_CTX_MIN g) F.HP_CTX_MIN_MIN)) else s.rd (R.HP_CTX_MIN g))
  | 0x44 => some (word (s.ctxUse g))
  | 0x110 => some (word (b2n (s.hp g).commitPending * 256 + (s.hp g).staged.length))
  | _ => none

/-- Computed registers of CSW: the drive's own identity. -/
def State.viewCsw (s : State) (o : Nat) : Option Word :=
  if 0x20 ≤ o ∧ o < 0x30 then some (word (s.driveId / 2 ^ (8 * (o - 0x20)))) else none

/-- Computed registers of sequencer `n`. -/
def State.viewStr (s : State) (n o : Nat) : Option Word :=
  match o with
  | 0x04 => some (fset (s.rd (R.STR_STAT n)) F.STR_STAT_READY (b2n (s.strReady n)))
  | 0x30 => some Config.romVer
  | 0x44 => some (match s.wqHead n with
      | some (kind, k) => word (2 ^ 31 + kind * 2 ^ 24 + s.wqFree n * 2 ^ 16 + k)
      | none => word (s.wqFree n * 2 ^ 16))
  | _ => none

/-! ### LD, QRY, BAS, MIL -/

/-- Computed registers of slice `n` (R246, R250). -/
def State.viewLd (s : State) (n o : Nat) : Option Word :=
  let q := s.rf (R.LD_RING_CFG n) F.LD_RING_CFG_Q
  let clk := if q < 8 then (s.sub q).clk else 0
  let old := if q < 8 then s.ringOld q else 0
  match o with
  | 0x004 => some (fset (s.rd (R.LD_STATUS n)) F.LD_STATUS_READY (b2n (s.ldReady n)))
  | 0x904 => some (halfOf false clk)
  | 0x908 => some (halfOf true clk)
  | 0x90C => some (halfOf false old)
  | 0x910 => some (halfOf true old)
  | _ => none

/-- Computed registers of QRY (R241, R243). -/
def State.viewQry (s : State) (o : Nat) : Option Word :=
  if 0x1000 ≤ o ∧ o < 0x1200 then
    let n := (o - 0x1000) / 0x40
    match o % 0x40 with
    | 0x14 => some (word (s.qryFree n))
    | 0x20 => some (s.cplA n)
    | 0x24 => some (s.cplB n)
    | _ => none
  else match o with
    | 0x08 => some (fset (s.rd R.QRY_STAT) F.QRY_STAT_SLOTS_FREE s.slotsFree)
    | 0x34 => some s.hdescData
    | _ => none

/-- Computed registers of BAS. -/
def State.viewBas (s : State) (o : Nat) : Option Word :=
  if 0x20 ≤ o ∧ o < 0x2C then some (s.flagSum ((o - 0x20) / 4))
  else if o = 0 then some (s.withReady (s.rd R.BAS_STAT) 8 .basalt)
  else none

/-- Computed registers of MIL. -/
def State.viewMil (s : State) (o : Nat) : Option Word :=
  match o with
  | 0x04 => some (s.withReady (s.rd R.MIL_STAT) 11 .millstone)
  | 0x60 => some (fset (s.rd R.MIL_LOSS_STAT) F.MIL_LOSS_STAT_WIN s.lossWin)
  | _ => none

/-! ### Any register -/

/-- The computed value of the register at `off`, where it has one. -/
def State.view (s : State) (off : Nat) : Option Word :=
  let o := off % 0x100000
  match off / 0x100000 with
  | 0x00 => s.viewSys o | 0x01 => s.viewTgt o | 0x02 => s.viewCrn o | 0x03 => s.viewSig o
  | 0x04 => if o % 0x80 = 0x08 ∧ o < 0x800 then some (s.qstat (o / 0x100) (o % 0x100 / 0x80)) else none
  | 0x05 => s.viewTrn o | 0x06 => s.viewShl o | 0x07 => s.viewBed o | 0x09 => s.viewObs o | 0x0A => s.viewWay o
  | 0x0B => s.viewHp 0 o | 0x0C => s.viewHp 1 o | 0x0D => s.viewCsw o
  | 0x0E => s.viewStr (o / 0x10000) (o % 0x10000)
  | 0x18 => s.viewQry o | 0x19 => s.viewBas o | 0x1B => s.viewMil o
  | b => if 0x10 ≤ b ∧ b < 0x18 then s.viewLd (b - 0x10) o else none

/-- What the register at `off` reads as; zero where no register is (R11, R12, R14). -/
def State.regValue (s : State) (off : Nat) : Word :=
  match findReg off with
  | none => 0
  | some (d, _) => readable d ((s.view off).getD (s.rd off))

end Sys2Proof.Machine
end

