-- ==== Sys2Proof/Machine/Boot.lean ====
section
/-!
DEFINITION. Sys2Proof/Machine/Boot.lean: the meanings of the boot ROM's commands (chapters 02 and 03): the Kenul slot checks
(R64 to R68), applying an image (R65), the loader (R73, R74), and the key fuses (R75, R76).
-/

namespace Sys2Proof.Machine

/-! ### Kenul slots (R64 to R67) -/

/-- STATUS codes of SYS_KENUL_STATUS that are no failure code but LOADING. -/
def ksOk : Nat := 2
def ksConflict : Nat := 0xA

/-- The code of a slot (R64). -/
def SlotResult.code : SlotResult → Nat
  | .pass _ => ksOk
  | .fail c _ => c
  | .conflict _ _ _ => ksConflict

/-- The offset of the first failing field. -/
def SlotResult.whereOf : SlotResult → Nat
  | .fail _ o => o
  | _ => 0

/-- The key slots that R62 compares with. -/
def State.keySlots (s : State) : List (Bool × Bool × Nat) :=
  s.sys.keySlots.map fun k => (k.programmed, k.revoked, k.hash)

/-- Bytes of a slot that are staged: IMG_LEN where the header states it within a slot, else the header alone; none of an empty
or unreadable slot. -/
def stagedBytes (img : Nat) (readErr : Bool) : Nat :=
  if readErr || rdLe img 0 4 = 0xFFFFFFFF then 0
  else if (headerFail img).isNone then rdLe img 8 4 else 64

/-- What SYS_KENUL_RES shows of a slot. -/
def resWord : SlotResult → Option Word
  | .conflict id o1 o2 => some (word (o2 * 2 ^ 24 + o1 * 2 ^ 16 + id))
  | _ => none

/-- STATUS leaves LOADING: the registers take the outcome, and with neither slot passed the sideband comes up alone (R66). -/
def State.kenulOutcome (s : State) (a b : SlotResult) : State :=
  let pick := chosenSlot a b
  let status := match pick with
    | some _ => ksOk
    | none => max a.code b.code
  let slot := (pick.map Prod.fst).getD 0
  let fromB : Bool := a.code < b.code
  let t := s.wr R.SYS_KENUL_STATUS (word (b.code * 2 ^ 20 + a.code * 2 ^ 16 + slot * 2 ^ 8 + status))
  let u := if status = ksConflict then t.wr R.SYS_KENUL_RES (((resWord a).orElse fun _ => resWord b).getD 0) else t
  let v := if status = 0x5 || status = 0x9 then
      u.wr R.SYS_KENUL_WHERE (word (b2n fromB * 2 ^ 31 + (if fromB then b else a).whereOf))
    else u
  let w := v.wr R.SYS_KENUL_SERIAL (word ((pick.map fun q => q.2.serial).getD 0))
  if pick.isNone then w.sidebandUp else w

/-- KENUL_SLOT_CHECK (R38 to R64, R66, R67): each slot once, after BEDROCK and unless the boot ROM has given up. -/
def execKenulSlotCheck (slotB : Bool) (img : Nat) (readErr : Bool) (s : State) : Host.Outcome State Fault Refusal :=
  let done : Bool := if slotB then s.slotB.isSome else s.slotA.isSome
  if !s.ready .bedrock || s.sys.bootGaveUp || done then ok s
  else
    let r := checkSlot s.keySlots img readErr
    let n := stagedBytes img readErr
    let t := (s.hbmWrite qCpu (if slotB then 0x100000 else 0) n (rdLe img 0 n)).2
    let u := if slotB then { t with slotB := some r } else { t with slotA := some r }
    match u.slotA, u.slotB with
    | some a, some b => ok (u.kenulOutcome a b)
    | _, _ => ok u

/-! ### Applying an image (R65, R336, R382) -/

/-- The PART records with their bases, in 64 MiB units (R50). -/
def placeParts : Nat → List (Nat × Nat) → List (Nat × Nat × Nat)
  | _, [] => []
  | base, (t, size) :: rest => (t, size, base) :: placeParts (base + size) rest

/-- BED_PART (R336). -/
def State.applyPart (s : State) (k : Kenul) : State :=
  (placeParts 0 k.parts).foldl (fun t q => t.wr (R.BED_PART (q.1 - 1)) (word (q.2.1 * 2 ^ 16 + q.2.2))) s

/-- HPx_CFG (R48). -/
def State.applyPort (s : State) (g : Nat) (r : PortRec) : State :=
  (((s.wf (R.HP_CFG g) F.HP_CFG_PERSONALITY r.pers).wf (R.HP_CFG g) F.HP_CFG_LANES r.lanes).wf (R.HP_CFG g)
    F.HP_CFG_MAX_RATE r.maxRate).wf (R.HP_CFG g) F.HP_CFG_SAS_PORTS r.sasPorts

/-- MPO_CFG: the far side, and the pair on the near side (R382). -/
def State.applyBox (s : State) (m : Nat) : State :=
  let own := s.owner (0x0800 + m)
  (s.wf (R.MPO_CFG m) F.MPO_CFG_OWNER own).wf (R.MPO_CFG m) F.MPO_CFG_NEAR (if own = 1 then 2 else 1)

/-- The slices with a live pair, in ascending order (R246). -/
def liveSlices (k : Kenul) : List Nat :=
  (List.range 8).filter fun n => match k.slices[n]? with
    | some r => r.act ≤ 3 && r.pair ≤ 1
    | none => false

/-- The subring of slice `n`: its place among the live slices; 0xF with no live pair. -/
def subringOf (k : Kenul) (n : Nat) : Nat := ((liveSlices k).idxOf? n).getD 0xF

/-- The subring a slice replays first: its own, or that of the lowest live slice of its actuator. -/
def replayRing (k : Kenul) (n act : Nat) : Nat :=
  if subringOf k n ≠ 0xF then subringOf k n
  else match (liveSlices k).find? fun m => ((k.slices[m]?).map SliceRec.act).getD 0xFF = act with
    | some m => subringOf k m
    | none => 0xF

/-- LDn_CFG and LDn_RING_CFG of slice `n` (R179, R246); a slice with no live pair is frozen, and one whose calibration is
complete is ready (R181). -/
def State.applySlice (s : State) (k : Kenul) (n : Nat) : State :=
  match k.slices[n]? with
  | none => s
  | some r =>
    let live : Bool := r.act ≤ 3 && r.pair ≤ 1
    let t := ((s.wf (R.LD_CFG n) F.LD_CFG_ACTUATOR (if r.act ≤ 3 then r.act else 7)).wf (R.LD_CFG n) F.LD_CFG_LIVE_PAIR
      (if live then r.pair else 3)).wf (R.LD_CFG n) F.LD_CFG_SERVO (b2n r.servo)
    let u := (t.wf (R.LD_RING_CFG n) F.LD_RING_CFG_Q (subringOf k n)).wf (R.LD_RING_CFG n) F.LD_RING_CFG_RPLY_Q
      (replayRing k n r.act)
    if 3 < r.act then u
    else
      let v := if live then u else u.setFrz n fzNosig true
      let w := v.setUnit 0 n uIn
      if w.flag (R.LD_STATUS n) F.LD_STATUS_ADC_CAL_DONE then w.setLdReady n true else w

/-- The servo pair of actuator `a` (R273). -/
def servoPairOf (s : State) (k : Kenul) (a : Nat) : Nat :=
  match k.slices.find? fun r => r.act = a && r.servo with
  | some r => r.pair
  | none => s.rf (R.ACT_SV_CFG a) F.ACT_SV_CFG_PAIR

/-- A present actuator: its write channel, its servo pair, and its units in service. -/
def State.applyActuator (s : State) (k : Kenul) (a : Nat) : State :=
  if bitAt k.present a then
    let t := ((s.raise (R.ACT_WC_STAT a) F.ACT_WC_STAT_READY).wf (R.ACT_STATE a) F.ACT_STATE_SPAIR (servoPairOf s k a)).setUnit 2 a uIn
    (List.range (k.heads[a]?.getD 0)).foldl (fun u h => u.setUnit 1 (8 * a + h) uIn) t
  else s

/-- MOTOR (R45). -/
def State.applyMotor (s : State) (k : Kenul) : State :=
  ((s.wf R.MIL_CFG F.MIL_CFG_POLE_PAIRS k.polePairs).wf R.MIL_CFG F.MIL_CFG_TARGET_RPM k.rpm).wf R.MIL_HFI F.MIL_HFI_TIMER
    (k.hfiTimer % 8)

/-- The functions that wait for nothing but KENUL (R35). -/
def afterKenul : List Ready :=
  [.kenul, .turnpike, .carriage, .milepost, .obsidian, .hpa, .hpb, .causeway, .basalt, .quarry]

/-- Every block configured, KENUL and what waits for it alone ready; Shale invalidates itself (R354), the patch loads wait
(R399), the links start (R88), and the loader runs (R72). -/
def State.applyImage (s : State) (slot : Nat) (k : Kenul) : State :=
  let s0 := { s with kenul := some k, sys := { s.sys with applied := some slot } }
  let s1 := (s0.applyPart k).applyMotor k
  let s2 := (k.ports.zip (List.range 2)).foldl (fun t q => t.applyPort q.2 q.1) s1
  let s3 := (List.range 8).foldl (fun t n => (t.applyBox n).applySlice k n) s2
  let s4 := (List.range 4).foldl (fun t a => t.applyActuator k a) s3
  let s5 := afterKenul.foldl (fun t r => t.setReady r true) s4
  let queue := (List.range 12).filter s5.strAssigned
  let bed := { s5.bed with shlOp := some ShlOp.invAll }
  let s6 := (({ s5 with bed, patchQueue := queue }.raise R.SHL_INV_STATUS F.SHL_INV_STATUS_BUSY).wf R.SHL_INV_STATUS
    F.SHL_INV_STATUS_LAST 2).sidebandUp
  ((((s6.wf R.SYS_BOOT_STATUS F.SYS_BOOT_STATUS_LOADER 1).linkStart 0).linkStart 1).ballastCheck).capWatch s

/-- KENUL_APPLY (R65). -/
def execKenulApply (s : State) : Host.Outcome State Fault Refusal :=
  match s.slotA, s.slotB with
  | some a, some b =>
    if s.kenul.isSome then ok s
    else match chosenSlot a b with
      | some (slot, k) => ok (s.applyImage slot k)
      | none => ok s
  | _, _ => ok s

/-! ### Loader (R73, R74) -/

/-- Outcome codes of SYS_BOOT_STATUS.LOADER. A nonzero reserved word of the header fails with HEADER (DESIGN CHOICE: R73 states
no check of it). -/
def loaderCode (key img : Nat) (readErr : Bool) : Nat :=
  let len := rdLe img 4 4
  let entry := rdLe img 8 4
  if readErr then 4
  else if rdLe img 0 4 = 0xFFFFFFFF then 3
  else if rdLe img 0 4 ≠ 0x31444C4B || len % 8 ≠ 0 || len < 8 || 524176 < len || len ≤ entry || entry % 4 ≠ 0
      || rdLe img 0xC 4 ≠ 0 then 5
  else if ecdsaP384 key (rdLe img (16 + len) 96) (16 + len) (rdLe img 0 (16 + len)) then 2 else 8

/-- The hand-off: the body in tightly-coupled memory 0, every core started at the entry point, both pairs in lockstep (R74). -/
def State.handOff (s : State) (img : Nat) : State :=
  let len := rdLe img 4 4
  let t := s.store tcmBase (rdLe img 16 len) len
  let u := { t with pair := { t.pair with released := [0, 1] } }
  ((((u.setReady .portPair true).setReady .mediaPair true).beat 0).beat 1).emit (.signal 18 [tcmBase + rdLe img 8 4])

/-- LOADER_CHECK (R73, R74), once, of the applied slot's loader. -/
def execLoaderCheck (img : Nat) (readErr : Bool) (s : State) : Host.Outcome State Fault Refusal :=
  match s.kenul with
  | none => ok s
  | some k =>
    if s.rf R.SYS_BOOT_STATUS F.SYS_BOOT_STATUS_LOADER ≠ 1 then ok s
    else
      let c := loaderCode k.pubkey img readErr
      let t := s.wf R.SYS_BOOT_STATUS F.SYS_BOOT_STATUS_LOADER c
      if c = 2 then ok (t.handOff img) else ok t

/-! ### Fuses (R75, R76) -/

/-- A slot that can match. -/
def KeySlot.usable (k : KeySlot) : Bool := k.programmed && !k.revoked

/-- The staged hash, word 0 in the low bits. -/
def State.stagedHash (s : State) : Nat :=
  (List.range 12).foldl (fun h w => h + (s.rd (R.SYS_FUSE_STAGE w)).toNat * 2 ^ (32 * w)) 0

/-- Why an operation is refused, judged in the order of R76. -/
def State.fuseRefusal (s : State) (slot : Nat) (program : Bool) : Option Nat :=
  let k := s.keySlotAt slot
  let others := (List.range 4).any fun j => j ≠ slot && (s.keySlotAt j).usable
  if s.sys.mainMv < 10800 || 13200 < s.sys.mainMv then some 4
  else if k.revoked || (program && k.programmed) then some 1
  else if !program && k.programmed && !others then some 2
  else none

/-- A write of SYS_FUSE_PGM with OP program or revoke: a violation of R75 and a wrong UNLOCK do nothing. -/
def State.fuseStart (s : State) (i : Initiator) (p : Priv) (unlock slot : Nat) (program : Bool) : State :=
  if i = .port && p = .machine && s.mode = mBedding && s.sys.fuseOp.isNone && unlock = 0xF05E then
    { s with sys := { s.sys with fuseOp := some ⟨slot, program, s.fuseRefusal slot program, s.stagedHash⟩ } }.raise
      R.SYS_FUSE_PGM_STATUS F.SYS_FUSE_PGM_STATUS_BUSY
  else s

/-- A write of SYS_FUSE_PGM, the main supply as last measured. -/
def State.writeFusePgm (s : State) (i : Initiator) (p : Priv) (v : Word) : State :=
  let op := fget v F.SYS_FUSE_PGM_OP
  if op = 1 || op = 2 then s.fuseStart i p (fget v F.SYS_FUSE_PGM_UNLOCK) (fget v F.SYS_FUSE_PGM_SLOT) (op = 1) else s

/-- The main supply as measured now. -/
def State.withMain (s : State) (mv : Nat) : State := { s with sys := { s.sys with mainMv := mv } }

/-- FUSE_PROGRAM (R75, R76). -/
def execFuseProgram (i : Initiator) (p : Priv) (unlock : Nat) (slot : Fin 4) (mainMv : Nat) (s : State) :
    Host.Outcome State Fault Refusal := ok ((s.withMain mainMv).fuseStart i p unlock slot.val true)

/-- FUSE_REVOKE (R75, R76). -/
def execFuseRevoke (i : Initiator) (p : Priv) (unlock : Nat) (slot : Fin 4) (mainMv : Nat) (s : State) :
    Host.Outcome State Fault Refusal := ok ((s.withMain mainMv).fuseStart i p unlock slot.val false)

/-- What an operation that was not refused leaves of a slot, and its result. -/
def FuseOp.burn (o : FuseOp) (k : KeySlot) (matched : Bool) : KeySlot × Nat :=
  if !o.program then ({ k with revoked := true }, 0)
  else if matched then ({ k with programmed := true, hash := o.hash }, 0)
  else ({ k with revoked := true }, 3)

/-- FUSE_OP_DONE (R76). -/
def execFuseOpDone (matched : Bool) (s : State) : Host.Outcome State Fault Refusal :=
  match s.sys.fuseOp with
  | none => ok s
  | some o =>
    let r := match o.refused with
      | some c => (s.keySlotAt o.slot, c)
      | none => o.burn (s.keySlotAt o.slot) matched
    let t := { s with sys := { s.sys with
      fuseOp := none, fuses := { s.sys.fuses with slots := s.sys.fuses.slots.set o.slot r.1 } } }
    ok ((t.wf R.SYS_FUSE_PGM_STATUS F.SYS_FUSE_PGM_STATUS_BUSY 0).raise R.SYS_FUSE_PGM_STATUS
      F.SYS_FUSE_PGM_STATUS_DONE |>.wf R.SYS_FUSE_PGM_STATUS F.SYS_FUSE_PGM_STATUS_RESULT r.2)

end Sys2Proof.Machine
end

