-- ==== Sys2Proof/Machine/Framer.lean ====
section
/-!
DEFINITION. Sys2Proof/Machine/Framer.lean: the meanings of Milestone's samples (R212 to R215) and of framing and re-framing (R216 to
R220, R242).
-/

namespace Sys2Proof.Machine

/-! ### Milestone -/

/-- Milestone `m` has what it follows: a live pair, or a present actuator; and MILLSTONE is set (R214). -/
def State.msPresent (s : State) (m : Nat) : Bool :=
  s.ready .millstone && if m < 8 then s.livePair m else s.actPresent (m - 8)

/-- A good sample counted; at `n` of them the clock is locked. -/
def State.msGood (s : State) (m n : Nat) : State :=
  let k := (s.ms m).good + 1
  if n ≤ k then s.msEnter m msLocked else s.setMs m { s.ms m with good := k }

/-- A sample that is none. -/
def State.msBad (s : State) (m : Nat) : State := s.setMs m { s.ms m with good := 0 }

/-- The per-head phase offset that Milestone `m` adds to the reference (R212): a slice's from calibration, a write channel's from
ACTa_MS_PH, in 1/64 bit. -/
def State.phaseOfs (s : State) (m : Nat) : Int :=
  if m < 8 then Config.slicePhase m (s.rf (R.LD_SEL m) F.LD_SEL_HEAD)
  else signedOf 16 (s.rf (R.ACT_MS_PH (m - 8) (s.rf (R.ACT_WC_SEL (m - 8)) F.ACT_WC_SEL_HEAD)) F.ACT_MS_PH_OFS)

/-- The actuator whose timing reference Milestone `m` follows. -/
def State.msAct (s : State) (m : Nat) : Nat := s.msSurf m / 8

/-- One reference sample (R212, R214): the error of the clock's phase, which stands at `clock`, to the timing reference of the actuator's
latest position sample with the head's offset and what a slice's data-aided loop has added. -/
def State.msSample (s : State) (m : Nat) (clock : Int) : State :=
  let ctl := msCtl m
  let phase := (s.act (s.msAct m)).timing.map fun r => r - clock + s.phaseOfs m + (s.ms m).fine
  let t := match phase with
    | some p => s.wf (msStat m) F.LD_MS_STAT_PHERR (bitsOf 8 (satTo 8 p))
    | none => s
  let good := match phase with
    | some p => decide (p.natAbs ≤ s.rf ctl F.LD_MS_CTL_LOCK_TH)
    | none => false
  let lost := match phase with
    | some p => decide (s.rf ctl F.LD_MS_CTL_LOSS_TH < p.natAbs)
    | none => true
  let st := s.msState m
  if st = msIdle then
    if phase.isSome then
      ((t.wf (msStat m) F.LD_MS_STAT_ZONE (t.msZone m)).msEnter m msAcquire).setRate m
    else t
  else if st = msAcquire then if good then t.msGood m (s.rf ctl F.LD_MS_CTL_LOCK_N) else t.msBad m
  else if st = msLocked then if lost then t.msEnter m msHoldover else t
  else if good then t.msGood m 2 else t.msBad m

/-- MILESTONE_REFERENCE_SAMPLE (R203, R212, R214, R215). -/
def execMilestoneReferenceSample (m : Fin 12) (clock : Int) (s : State) : Host.Outcome State Fault Refusal :=
  if s.msPresent m.val then ok (s.msSample m.val clock) else ok s

/-- MILESTONE_HOLDOVER_EXPIRY (R214). -/
def execMilestoneHoldoverExpiry (m : Fin 12) (s : State) : Host.Outcome State Fault Refusal :=
  if s.msState m.val = msHoldover then ok (s.msEnter m.val msAcquire) else ok s

/-- MILESTONE_ZONE_CHANGE (R19, R203, R213, R214). -/
def execMilestoneZoneChange (m : Fin 12) (s : State) : Host.Outcome State Fault Refusal := ok (s.msRetune m.val)

/-! ### Framing (R217, R218) -/

/-- R217, by the mismatches of SM1 and SM2 at each offset from their nominal positions. -/
def frameSector (m1 m2 : Int → Nat) (win thr : Nat) : Framed :=
  match findMark m1 0 win thr with
  | some p => match findMark m2 p 7 thr with
    | some q => if q = p then ⟨some p, some q, p, fClean, 0⟩ else ⟨some p, some q, q, fSlip, q - p⟩
    | none => ⟨some p, none, p, fSm1, 0⟩
  | none => match findMark m2 0 win thr with
    | some q => ⟨none, some q, q, fSm2, q⟩
    | none => ⟨none, none, 0, fNomark, 0⟩

/-- R220, from base `b`. -/
def reframeSector (m1 m2 : Int → Nat) (b : Int) (thr : Nat) (shift : Int) : Framed :=
  let p := findMark m1 b 7 thr
  match findMark m2 b 7 thr, p with
  | some q, some r => if q = r then ⟨p, some q, q, fClean, 0⟩ else ⟨p, some q, q, fSlip, q - r⟩
  | some q, none => ⟨none, some q, q, fSm2, q⟩
  | none, some r => ⟨p, none, r, fSm1, 0⟩
  | none, none => ⟨none, none, b + shift, fForced, b + shift⟩

/-- The LLR, and the erasure flag, that came out `age` bits before the newest; none that is not held or not valid. -/
def SliceState.llrAt (x : SliceState) (age : Int) : Int :=
  if age < 0 then 0 else match x.llr[age.toNat / 8]? with
  | some c => if c.valid then nth c.llr (7 - age.toNat % 8) else 0
  | none => 0
def SliceState.eraseAt (x : SliceState) (age : Int) : Bool :=
  if age < 0 then true else match x.llr[age.toNat / 8]? with
  | some c => bitAt c.erase (7 - age.toNat % 8)
  | none => true

/-- The sample that the newest live detector output belongs to, counted as in SliceState.place. -/
def State.newestSample (s : State) (n : Nat) : Int := 8 * (((s.slice n).now : Int) - 4) + 7

/-- A defect window covers sector bit position `p`: in LIVE those the sector began with; a replay follows its recorded states. -/
def State.inWindow (s : State) (n sector age : Nat) (p : Int) : Bool :=
  !s.inRing n && s.flag (R.LD_CFG n) F.LD_CFG_ERASE && bitAt (s.rf (R.LD_FREEZE n) F.LD_FREEZE_MASK) 0
    && (s.windowsAt n ((s.newestSample n - age) / 8)).any fun w => w.1 = sector && (w.2.1 : Int) ≤ p && p < (w.2.1 : Int) + w.2.2

/-- The LLR of sector bit position `p`. -/
def State.sectorLlr (s : State) (n sector age : Nat) (p : Int) : Int :=
  if s.inWindow n sector age p then 0 else (s.slice n).llrAt (s.ageOf n sector age p)

/-- Sector bit position of codeword bit `j` (R207). -/
def bitPos (j : Nat) : Nat := if j < seg1Len then posSeg1 + j else posSeg2 + (j - seg1Len)

/-- The sector handed to Quarry: the LLRs and erasure flags of its codeword from the anchor on (R218). -/
def State.handed (s : State) (n sector age : Nat) (anchor : Int) : Handed :=
  let at_ := fun (j : Nat) => (bitPos j : Int) + anchor
  let js := List.range (codeN (s.frameCode n))
  { code := s.frameCode n, anchor, llr := js.map fun j => s.sectorLlr n sector age (at_ j),
    erase := js.map fun j => s.inWindow n sector age (at_ j) || (s.slice n).eraseAt (s.ageOf n sector age (at_ j)) }

/-- In RING, segment 1 of the sector is replayed: the replay began at or before it (R218). -/
def State.seg1Held (s : State) (n sector age : Nat) (anchor : Int) : Bool :=
  !s.inRing n || decide (8 * (s.rplyStart n : Int) ≤ s.newestBit n - s.ageOf n sector age (posSeg1 + anchor))

/-- The search half-window. -/
def State.frameWin (s : State) (n : Nat) : Nat := s.rf (R.LD_FRM_CTL n) F.LD_FRM_CTL_WIN

/-- An LDn_SEL write, a SOURCE change or a loss of lock came between two bits of the output, by their ages (R219). -/
def State.upsetIn (s : State) (n : Nat) (last first : Int) : Bool :=
  (s.slice n).upsets.any fun u =>
    let a := 8 * (((s.slice n).now : Int) - u)
    decide (last ≤ a ∧ a ≤ first)

/-- The sector is abandoned (R219, R252): in LIVE, an event of R219 between its preamble and its last codeword bit, no lock, or a zone
that is not the clock's; in RING, a replayed span without lock. -/
def State.frameAborted (s : State) (n sector age : Nat) : Bool :=
  let last := s.ageOf n sector age (codeN (s.frameCode n) + 416)
  if s.inRing n then
    let q := s.rplyQ n
    let c0 := ((s.newestBit n - age) / 8).toNat
    let c1 := ((s.newestBit n - last) / 8).toNat
    let bad := fun (l : Nat) => l ≠ msLocked && l ≠ msHoldover
    bad (s.lockAt q c0)
      || (s.newestMark q fun v => markKind v = mkLock && c0 < s.markClk q v && s.markClk q v ≤ c1 && bad (markArg v % 256)).isSome
  else
    !(s.msState n = msLocked || s.msState n = msHoldover) || s.rf (R.LD_SEL n) F.LD_SEL_ZONE ≠ s.rf (R.LD_MS_STAT n) F.LD_MS_STAT_ZONE
      || s.upsetIn n last age

/-- The position is a SKIP of the surface's defect list (R221). -/
def State.skipped (s : State) (surf track sector : Nat) : Bool :=
  s.way.defects.any fun d => d.surf = surf && d.track = track && d.sector = sector && d.skip

/-- A live position gives the slice its place on the track (R205). Where it did not know it, or had another, the position's own SECTOR mark,
and with sector 0 the INDEX mark, are put in behind, at the bits where its preamble began and the index passed (R249). -/
def State.takePlace (s : State) (n track sector age : Nat) : State :=
  let q := s.rf (R.LD_RING_CFG n) F.LD_RING_CFG_Q
  match s.trackNow n with
  | none => s
  | some (g, z) =>
    let first : Int := g.bit (sector * codeL z.code)
    let zero := s.newestSample n - age - first
    let clk : Int := (s.sub q).clk
    let bit := 8 * (clk - 4) + 7 - age
    let known := (s.slice n).place.any fun p => p.2 = g.rev && (zero - p.1) % p.2 = 0
    if known then s
    else
      let t := s.setSlice n { s.slice n with place := some (zero, g.rev) }
      if 8 ≤ q || s.msState n = msIdle || bit < 0 then t
      else (if sector = 0 then t.insertMark q mkIndex (bit - first).toNat track else t).insertMark q mkSector bit.toNat (track + 2 ^ 32 * sector)

/-- The slice clocks wholly inside the sector's preamble, by the bits their first sample lies before the newest output. -/
def State.preambleClocks (s : State) (n sector age : Nat) : List Nat :=
  (List.range (posSm1 - 7)).filterMap fun (p : Nat) =>
    let a := s.ageOf n sector age p
    if a % 8 = 7 && s.ageOf n sector age (p + 7) = a - 7 && 0 ≤ a then some a.toNat else none

/-- The sector's preamble enters the clearance average (R196): amplitudes are taken four clocks ahead of the detector's output. -/
def State.clrSector (s : State) (n sector age : Nat) : State :=
  if s.flag (R.LD_CLR_CTL n) F.LD_CLR_CTL_EN then
    s.clrPreamble n ((s.preambleClocks n sector age).filterMap fun a => (s.slice n).amps[a / 8 + 4]?)
  else s

/-- A finding that needs segment 1 where the replay began inside it is NOMARK (R218). -/
def State.needSeg1 (s : State) (n sector age : Nat) (f : Framed) : Framed :=
  if (f.result = fSm2 ∨ f.result = fSlip) ∧ !s.seg1Held n sector age f.anchor then { f with result := fNomark, shift := 0 } else f

/-- A position framed (R216 to R219, R221). -/
def State.framePos (s : State) (n track sector age : Nat) : State :=
  if s.skipped (s.frameSurf n) track sector then s.giveFrame n track sector ⟨none, none, 0, fSkipped, 0⟩ {}
  else if s.frameAborted n sector age then s.giveFrame n track sector ⟨none, none, 0, fAborted, 0⟩ {}
  else
    let llr := s.sectorLlr n sector age
    let f := s.needSeg1 n sector age (frameSector (markMiss llr markSm1 posSm1) (markMiss llr markSm2 posSm2)
      (s.rf (R.LD_FRM_CTL n) F.LD_FRM_CTL_WIN) (s.rf (R.LD_FRM_CTL n) F.LD_FRM_CTL_SM_THR))
    s.giveFrame n track sector f (s.handed n sector age f.anchor)

/-- SECTOR_FRAMED (R205, R216 to R219, R221, R242, R249, R252). -/
def execSectorFramed (n : Fin 8) (live : Bool) (track sector age : Nat) (s : State) : Host.Outcome State Fault Refusal :=
  if s.flag (R.LD_FRM_CTL n.val) F.LD_FRM_CTL_TS || !s.ldReady n.val then ok s
  else if live then
    if !s.livePair n.val then ok s
    else
      let t := (s.clrSector n.val sector age).takePlace n.val track sector age
      if s.inRing n.val then
        -- the sector in progress when SOURCE was set to RING
        if s.upsetIn n.val 0 age && !s.skipped (s.msSurf n.val) track sector then ok (t.giveFrame n.val track sector ⟨none, none, 0, fAborted, 0⟩ {})
        else ok t
      else if !s.sectorOut n.val sector age (s.frameWin n.val) then ok t else ok (t.framePos n.val track sector age)
  else if !s.inRing n.val || ((s.slice n.val).reframe.map Prod.fst) = some sector then ok s
  else match s.replayMark n.val fun a => a % 2 ^ 48 = track + 2 ^ 32 * sector with
    | none => ok s
    | some v =>
      let a := s.replayAge n.val v
      if a < 0 || !s.sectorOut n.val sector a.toNat 7 then ok s else ok (s.framePos n.val track sector a.toNat)

/-! ### Re-framing (R220) -/

/-- A write of LDn_REFRAME. -/
def State.writeReframe (s : State) (i : Initiator) (n : Nat) (v : Word) : State :=
  let base := fget v F.LD_REFRAME_BASE
  let shift := signedOf 4 (fget v F.LD_REFRAME_SHIFT)
  if !s.ldOpen i n || !s.inRing n || s.flag (R.LD_REFRAME_RES n) F.LD_REFRAME_RES_BUSY || base = 3 || shift = -8 then s
  else
    (s.raise (R.LD_REFRAME_RES n) F.LD_REFRAME_RES_BUSY).setSlice n
      { s.slice n with reframe := some (fget v F.LD_REFRAME_SECTOR, base, fget v F.LD_REFRAME_RELAX = 1, shift) }

/-- REFRAME (R220). -/
def execReframe (i : Initiator) (n : Fin 8) (v : Word) (s : State) : Host.Outcome State Fault Refusal := ok (s.writeReframe i n.val v)

/-- The base of a re-frame as an offset from nominal: the mark last found for the sector, else nominal. -/
def State.reframeBase (s : State) (n track sector base : Nat) : Int :=
  let m := spGetD {} s.lode.marks (s.markKey n track sector)
  if base = 1 then m.sm1.getD 0 else if base = 2 then m.sm2.getD 0 else 0

/-- The re-frame of the sector that has arrived. -/
def State.reframe (s : State) (n track sector age base : Nat) (relax : Bool) (shift : Int) : State :=
  let b := s.reframeBase n track sector base
  let thr := s.rf (R.LD_FRM_CTL n) (if relax then F.LD_FRM_CTL_SM_RLX else F.LD_FRM_CTL_SM_THR)
  let llr := s.sectorLlr n sector age
  let f0 := reframeSector (markMiss llr markSm1 posSm1) (markMiss llr markSm2 posSm2) b thr shift
  let f := if s.frameAborted n sector age then { f0 with result := fAborted, shift := 0 } else s.needSeg1 n sector age f0
  let t := s.setSlice n { s.slice n with reframe := none }
  let u := (t.wr (R.LD_REFRAME_RES n) (word (2 ^ 31 + bitsOf 4 (f.anchor - b) * 2 ^ 8 + f.result))).ladderPush n f.result f.anchor
  (u.giveFrame n track sector f (s.handed n sector age f.anchor)).ladderFramed n f.result f.anchor
    ((u.qents n).length ≠ (s.qents n).length)

/-- The re-frame whose sector has arrived in the replay, at the place its SECTOR mark gives, has its result. -/
def State.reframeArrived (s : State) (n : Nat) : State :=
  match (s.slice n).reframe with
  | some (sector, base, relax, shift) =>
    if !s.inRing n then s
    else match s.replayMark n fun a => a / 2 ^ 32 % 2 ^ 16 = sector with
      | none => s
      | some v =>
        let a := s.replayAge n v
        if a < 0 || !s.sectorOut n sector a.toNat 7 then s
        else s.reframe n (markArg v % 2 ^ 32) sector a.toNat base relax shift
  | none => s

/-- REFRAME_DONE (R218, R220, R242, R252). -/
def execReframeDone (n : Fin 8) (s : State) : Host.Outcome State Fault Refusal := ok (s.reframeArrived n.val)

/-- REPLAY_END (R251): a re-frame whose sector has arrived with the last clock has its result first. -/
def execReplayEnd (n : Fin 8) (s : State) : Host.Outcome State Fault Refusal :=
  if (s.slice n.val).playing then match s.rplyEnd n.val with
    | some c =>
      let t := if c = 3 then s else s.reframeArrived n.val
      ok (if (t.slice n.val).playing then (t.endReplay n.val c).ladderMissed n.val else t)
    | none => ok s
  else ok s

end Sys2Proof.Machine
end

