-- ==== Sys2Proof/Machine/Lode.lean ====
section
/-!
DEFINITION. Sys2Proof/Machine/Lode.lean: the meanings of the slice and write channel commands (R178 to R202).
-/

namespace Sys2Proof.Machine

/-- ADC_CAL_COMPLETE (R181). -/
def execAdcCalComplete (n : Fin 8) (s : State) : Host.Outcome State Fault Refusal :=
  if s.ldAssigned n.val then ok ((s.raise (R.LD_STATUS n.val) F.LD_STATUS_ADC_CAL_DONE).setLdReady n.val true)
  else if s.kenul.isNone then ok (s.raise (R.LD_STATUS n.val) F.LD_STATUS_ADC_CAL_DONE)
  else ok s

/-- ADC_TRIM_OUT_OF_RANGE (R441, LD_CAL): the slice keeps its last trims. -/
def execAdcTrimOutOfRange (n : Fin 8) (s : State) : Host.Outcome State Fault Refusal :=
  if s.ldAssigned n.val && s.flag (R.LD_CFG n.val) F.LD_CFG_ADC_CAL then ok (s.report (32 + n.val) 2) else ok s

/-- HEAD_ZONE_SELECT (R187, R195). -/
def execHeadZoneSelect (i : Initiator) (n : Fin 8) (v : Word) (s : State) : Host.Outcome State Fault Refusal :=
  ok (s.writeLdSel i n.val v)

/-- SOURCE_SELECT (R194, R251). -/
def execSourceSelect (i : Initiator) (n : Fin 8) (v : Word) (s : State) : Host.Outcome State Fault Refusal :=
  ok (s.writeLdCfg i n.val v)

/-- TA_EVENT_START (R184, R186). -/
def execTaEventStart (n : Fin 8) (s : State) : Host.Outcome State Fault Refusal :=
  if s.livePair n.val then ok (s.taStart n.val) else ok s

/-- TA_EVENT_END (R184, R186). -/
def execTaEventEnd (n : Fin 8) (s : State) : Host.Outcome State Fault Refusal :=
  ok (s.taEnd n.val)

/-- What a freeze source is asserted by, where the state shows it: TA, WRITE, HOLD, NOSIG, and from the place on the track DEFECT and WEDGE;
while that is not known, DEFECT only where a window is active, and WEDGE only on a wedge surface (R184). -/
def State.freezeCause (s : State) (n src : Nat) (given : Bool) : Bool :=
  if src = fzTa then s.flag (R.LD_TA_STAT n) F.LD_TA_STAT_ACTIVE
  else if src = fzWrite then ((s.sliceAct n).map s.gateOpen).getD false
  else if src = fzHold then s.flag (R.LD_CFG n) F.LD_CFG_HOLD
  else if src = fzNosig then !s.livePair n
  else if (s.placeStates n (8 * (s.slice n).now)).isSome then (s.slice n).last.any fun v => bitAt v src
  else if src = fzDefect then given && s.livePair n && s.windowsNow n ≠ []
  else given && s.livePair n && ((s.surface (s.msSurf n)).map Surface.wedge).getD false

/-- FREEZE_ASSERT (R184). -/
def execFreezeAssert (n : Fin 8) (src : Fin 6) (active : Bool) (s : State) : Host.Outcome State Fault Refusal :=
  if s.ldAssigned n.val then ok (s.setFrz n.val src.val (s.freezeCause n.val src.val active)) else ok s

/-- FREEZE_TAIL_EXPIRY (R184): the TAIL slice clocks after the last source have passed; while a source stands there is no tail. -/
def execFreezeTailExpiry (n : Fin 8) (s : State) : Host.Outcome State Fault Refusal :=
  let x := s.slice n.val
  ok (s.setSlice n.val { x with tail := if s.frzOn n.val = 0 then 0 else x.tail,
                                tailB := if s.frzOn n.val % 32 = 0 then 0 else x.tailB })

/-- CLEARANCE_RESULT (R196): the average over 2^N preambles is whole. -/
def execClearanceResult (n : Fin 8) (s : State) : Host.Outcome State Fault Refusal :=
  let x := s.slice n.val
  if s.flag (R.LD_CLR_CTL n.val) F.LD_CLR_CTL_EN && s.livePair n.val && s.clrCount n.val ≤ x.clr then
    ok (s.clearance n.val (ampField x.clrSum.1 x.clr) (ampField x.clrSum.2 x.clr))
  else ok s

/-- A write of ACTa_WC_SEL: the zone's profile goes to the preamplifier (R198). -/
def State.writeWcSel (s : State) (i : Initiator) (a : Nat) (v : Word) : State :=
  let head := fget v F.ACT_WC_SEL_HEAD
  match s.zone (8 * a + head) (fget v F.ACT_WC_SEL_ZONE) with
  | none => s
  | some z =>
    if !s.actChannel i a || s.heads a ≤ head || s.gateOpen a then s
    else
      let prof := R.ACT_WC_PROF a z.precomp
      let t := (s.writeFields (R.ACT_WC_SEL a) v).raise (R.ACT_WC_STAT a) F.ACT_WC_STAT_PREAMP_BUSY
      let frame := fun (addr data : Nat) => ({ prio := 2, read := false, addr, data } : PaFrame)
      let u := (t.queueFrame a (frame (s.rf (R.ACT_PA_MAP1 a) F.ACT_PA_MAP1_OSA_ADDR) (s.rf prof F.ACT_WC_PROF_OSA))).queueFrame a
        (frame (s.rf (R.ACT_PA_MAP1 a) F.ACT_PA_MAP1_OSD_ADDR) (s.rf prof F.ACT_WC_PROF_OSD))
      let w0 := u.wf (R.ACT_WC_STAT a) F.ACT_WC_STAT_HEAT_READY (b2n (bitAt (u.rd R.BAS_HEAT_RDY).toNat (8 * a + head)))
      let w := w0.setWc a { w0.wc a with prof := some (s.rd prof) }
      (w.msRetune (8 + a)).refreshPermit a

/-- WRITE_CHANNEL_SELECT (R198). -/
def execWriteChannelSelect (i : Initiator) (a : Fin 4) (v : Word) (s : State) : Host.Outcome State Fault Refusal :=
  ok (s.writeWcSel i a.val v)

/-- A write of ACTa_WC_CTL: HEAT_REQ raises write heat; a channel disabled in a run loses its gate (R200 to R202). -/
def State.writeWcCtl (s : State) (i : Initiator) (a : Nat) (v : Word) : State :=
  if !s.actChannel i a then s
  else
    let t := s.writeFields (R.ACT_WC_CTL a) v
    (if fget v F.ACT_WC_CTL_HEAT_REQ = 1 then t.raiseHeat (t.wcHead a) else t).gateCheck a

/-- WRITE_HEAT_REQUEST (R200). -/
def execWriteHeatRequest (i : Initiator) (a : Fin 4) (v : Word) (s : State) : Host.Outcome State Fault Refusal :=
  ok (s.writeWcCtl i a.val v)

/-- A gate request: heat is raised, and the gate opens, waits for HEAT_READY or stays closed (R200, R201). -/
def State.requestGate (s : State) (a : Nat) : State :=
  if s.gateOpen a || !s.actPresent a then s
  else
    let t := s.raiseHeat (s.wcHead a)
    if !t.gateOk a then t.refuseGate a false
    else if t.flag (R.ACT_WC_STAT a) F.ACT_WC_STAT_HEAT_READY then t.openGate a
    else t.setWc a { t.wc a with waiting := true }

/-- GATE_REQUEST (R200, R201). -/
def execGateRequest (a : Fin 4) (s : State) : Host.Outcome State Fault Refusal := ok (s.requestGate a.val)

/-- HEAT_TIMEOUT (R201). -/
def execHeatTimeout (a : Fin 4) (s : State) : Host.Outcome State Fault Refusal :=
  if (s.wc a.val).waiting then ok (s.refuseGate a.val true) else ok s

/-- GATE_DROP (R202): the end of a run. -/
def execGateDrop (a : Fin 4) (s : State) : Host.Outcome State Fault Refusal :=
  if s.gateOpen a.val then ok (s.closeGate a.val) else ok s

/-- GATE_CONDITION_LOST (R202). -/
def execGateConditionLost (a : Fin 4) (s : State) : Host.Outcome State Fault Refusal := ok (s.gateCheck a.val)

/-- WRITE_UNDERRUN (R202): the run is abandoned. -/
def execWriteUnderrun (a : Fin 4) (s : State) : Host.Outcome State Fault Refusal :=
  if s.gateOpen a.val then
    ok (((s.raise (R.ACT_WC_EVT a.val) F.ACT_WC_EVT_UNDERRUN).countUp (R.ACT_WC_CNT a.val) F.ACT_WC_CNT_UNDERRUN 1).abandonGate a.val)
  else ok s

/-- SLICE_CLOCK (R178, R183, R188 to R194, R248, R251). -/
def execSliceClock (n : Fin 8) (a b : List Int) (s : State) : Host.Outcome State Fault Refusal :=
  if s.ldReady n.val then ok (s.sliceClock n.val a b) else ok s

end Sys2Proof.Machine
end

