-- ==== Sys2Proof/Machine/HostCmd.lean ====
section
/-!
DEFINITION. Sys2Proof/Machine/HostCmd.lean: the meanings of the block, admin and SCSI commands of the hosts (R90, R92, R95, R97,
R102, R117 to R122, R138 to R141). A command stands in a context; its outcome is a STATUS, data for the host, and an admission;
the completion goes out when the context's holder posts DONE, but for the refusals the group completes itself (R97).
-/

namespace Sys2Proof.Machine

/-! ### What a context holds -/

/-- Context `k` holds a command still to be carried out. -/
def State.isOpen (s : State) (k : Nat) : Bool :=
  let c := s.ctx k
  (c.state = cNew || c.state = cPort || c.state = cMedia) && !(s.work k).admitted && !c.has fAbandoned

/-- SAM's task attributes (R92, R139): an ordered command waits for every older one of its logical unit to complete, a simple one for
the older ordered and head-of-queue ones, a head-of-queue one for none. -/
def State.attrTurn (s : State) (k : Nat) : Bool :=
  let c := s.ctx k
  let w := s.work k
  w.attr = .head || s.cmd.ctxs.all fun q =>
    let v := s.work q.1
    q.1 = k || q.2.state = cFree || q.2.proto ≠ 2 || q.2.origin ≠ c.origin || q.2.tenant ≠ c.tenant || q.2.has fAcked
      || q.2.has fAbandoned || w.seq ≤ v.seq || (w.attr = .simple && v.attr = .simple)

/-- Context `k` holds a command of the set `o` whose turn it is. -/
def State.holds (s : State) (k : Nat) (o : OpSet) : Bool := s.isOpen k && o.has (s.ctx k) && s.attrTurn k

/-- A command ended with a status, for its holder to post. -/
def State.finish (s : State) (k st : Nat) : State :=
  ((s.setStatus k st).setWork k { s.work k with admitted := true }).dropClosing k

/-- A command ended well, with the data it gives the host. -/
def State.finishData (s : State) (k : Nat) (data : List Nat) : State :=
  (s.setStatus k 0).setWork k { s.work k with admitted := true, snapshot := data }

/-- A command passed to drive firmware: the context stays with its holder, and nothing else happens in the part. -/
def State.passOn (s : State) (k : Nat) : State := s.setWork k { s.work k with admitted := true }

/-- A command of the set `o`; `f` is what it does. -/
def State.hostCmd (s : State) (k : Nat) (o : OpSet) (f : State → State) : State := if s.holds k o then f s else s

/-- The tenant exists, is enabled and is attached to the group; SATA exposes tenant 1 only (R117). -/
def State.tenantOk (s : State) (c : Ctx) : Bool :=
  let r := R.WAY_TEN_CFG (c.tenant - 1)
  1 ≤ c.tenant && c.tenant ≤ 256 && s.flag r F.WAY_TEN_CFG_ENABLE
    && (if c.origin = 0 then s.flag r F.WAY_TEN_CFG_ATTACH_A else s.flag r F.WAY_TEN_CFG_ATTACH_B)
    && (c.proto ≠ 3 || c.tenant = 1)

/-- A command of the set `o` on its tenant (R117). -/
def State.tenantCmd (s : State) (k : Nat) (o : OpSet) (f : State → State) : State :=
  s.hostCmd k o fun t => if t.tenantOk (t.ctx k) then f t else t.finish k (stBadNamespace (t.ctx k).proto)

/-! ### Reservations (R102) -/

/-- Who a command comes from: on NVMe the Host Identifier (feature 81h) that the host has set, on SAS the I_T nexus, which port and
tag-space index name. -/
def State.ctxWho (s : State) (c : Ctx) : Nat :=
  match c.proto with
  | 1 => 4 * spGetD 0 (s.hp c.origin).features 0x81
  | 2 => 4 * (c.origin * 2 ^ 16 + c.queue) + 1
  | _ => 4 * c.origin + 2

/-- A tenant's reservation state. -/
def State.reservation (s : State) (t : Nat) : Reservation := spGetD {} s.cmd.reservations t

/-- A reservation blocks the command, by its SCSI type: 1 and 5, 7 exclude writes, 3 and 6, 8 reads too; 5 and 6 spare the
registrants, with 7 and 8 every registrant holds. -/
def Reservation.blocks (r : Reservation) (who : Nat) (write : Bool) : Bool :=
  match r.holder with
  | none => false
  | some h =>
    let reg := r.registrants.any fun q => q.1 = who
    if h = who then false
    else match r.kind with
      | 1 => write
      | 3 => true
      | 5 => write && !reg
      | 6 => !reg
      | 7 => write && !reg
      | 8 => !reg
      | _ => false

/-- The reservation of its tenant blocks the command in context `k`, that counts as a write or as a read (R102). -/
def State.blocked (s : State) (k : Nat) (write : Bool) : Bool :=
  (s.reservation (s.ctx k).tenant).blocks (s.ctxWho (s.ctx k)) write

/-- A command of the set `o` on its tenant that a reservation may block, though it reads and writes no medium: the standards count it as
a write or as a read (R102; which, PRESUMED from SPC-5, SBC-4 and NVMe). -/
def State.reservedCmd (s : State) (k : Nat) (o : OpSet) (write : Bool) (f : State → State) : State :=
  s.tenantCmd k o fun t => if t.blocked k write then t.finish k (stConflict (t.ctx k).proto) else f t

/-! ### Media commands -/

/-- The checks every media command of the set `o` passes first; `f` is what it does then. One in flight at Haven entry ends (R82, R97);
a refusal by MEDIA, the mode and the direction the group completes itself. -/
def State.mediaCmd (s : State) (k : Nat) (o : OpSet) (write : Bool) (f : State → State) : State :=
  s.hostCmd k o fun t =>
    let c := t.ctx k
    if t.mode = mHaven && t.wasInFlight k then t.finish k (stHavenAbort c.proto)
    else match t.modeRefusal k c.proto write with
      | some st => t.groupComplete k st
      | none =>
        if !t.tenantOk c then t.finish k (stBadNamespace c.proto)
        else if t.blocked k write then t.finish k (stConflict c.proto)
        else f t

/-- The tenant's capacity does not hold the context's range (R122). -/
def State.beyondCapacity (s : State) (c : Ctx) : Bool :=
  spGetD 0 s.cmd.capacity (c.tenant - 1) < c.target % 2 ^ 64 + c.granCnt

/-- NVMe commands that move data are bounded by MDTS 9: 512 sectors (R90). -/
def overMdts (c : Ctx) : Bool := c.proto = 1 && 512 < c.granCnt && [0x01, 0x02, 0x05].contains c.opcode

/-- A block command: the tenant has the block view and the range lies within its capacity (R122, R131). -/
def State.blockCmd (s : State) (k : Nat) (o : OpSet) (write : Bool) (f : State → State) : State :=
  s.mediaCmd k o write fun t =>
    let c := t.ctx k
    if t.objView c.tenant then t.finish k (stObject c.proto 0xA)
    else if overMdts c then t.finish k (stInvalidField c.proto)
    else if t.beyondCapacity c then t.finish k (stLbaRange c.proto)
    else f t

/-! ### Reads -/

/-- The acknowledged write in staging that holds a key's newest data: the latest to arrive, with the granule in it. Superseded
granules do not count. -/
def State.stagedFor (s : State) (q : Key) : List (Nat × Ctx) → Option (Nat × Nat × Nat)
  | [] => none
  | (k, c) :: rest =>
    let i := (s.ctxKeys c).idxOf q
    let here := c.state = cStaged && c.has fAcked && (s.ctxKeys c).contains q && !(s.work k).dead.contains i
    match s.stagedFor q rest with
    | some r => if here && r.1 < (s.work k).seq then some ((s.work k).seq, k, i) else some r
    | none => if here then some ((s.work k).seq, k, i) else none

/-- That write and granule. -/
def State.newest (s : State) (q : Key) : Option (Nat × Nat × Nat) := s.stagedFor q s.cmd.ctxs

/-- The key's data is to be read from media, and the mapped sector is lost (R161). -/
def State.lostKey (s : State) (q : Key) : Bool := s.way.lost.contains q && (s.newest q).isNone

/-- Some sector of the range is lost. -/
def State.anyLost (s : State) (ks : List Key) : Bool := ks.any s.lostKey

/-- Bytes of a granule that a close has cut off read as zero, until it is written again (R128). -/
def State.trimKey (s : State) (q : Key) (d : Nat) : Nat :=
  match s.cmd.objects.find? fun o => q.kind = 1 && o.tenant = q.tenant && o.id = q.id with
  | some o => match spGet o.cut q.offset with
    | some n => d % 2 ^ (8 * n)
    | none => d
  | none => d

/-- What a read of a key returns: acknowledged data in staging first, then the media under the key slot (R101, R423). -/
def State.readNow (s : State) (slot : Nat) (q : Key) : Nat :=
  s.trimKey q (match s.newest q with
    | some r => dataAt (s.work r.2.1).data r.2.2
    | none => s.readKey slot q)

/-- A read of the range needs a key that is missing (R422). -/
def State.readBlocked (s : State) (slot : Nat) (ks : List Key) : Bool :=
  s.keyMissing (s.readSeq slot) slot && ks.any fun q => (s.mapped q).isSome && (s.newest q).isNone

/-- A read of the context's range, with what it fails on: an importer's item beyond the resume point is not ready (R439); in Haven
only what the read cache holds is read (R84, R97); a lost sector fails it (R130, R131); under a missing key the sequencer holds and the
command waits (R422). `f` is given the data as it stands (R101, R139). -/
def State.withData (s : State) (k slot : Nat) (cacheHit : Bool) (f : State → List Nat → State) : State :=
  let c := s.ctx k
  let ks := s.ctxKeys c
  if ks.any s.beyondResume then s.finish k (stBecomingReady c.proto)
  else if s.mode = mHaven && !cacheHit then s.finish k (stHavenRead c.proto)
  else if s.anyLost ks && !cacheHit then s.finish k (stReadError c.proto)
  else if s.readBlocked slot ks && !cacheHit then s.noKey
  else f (s.setCtx k { c with keySlot := slot }) (ks.map (s.readNow slot))

/-- The data given to the host. -/
def State.readRange (s : State) (k slot : Nat) (cacheHit : Bool) : State :=
  s.withData k slot cacheHit fun t d => t.finishData k d

/-- BLOCK_READ (R84, R97, R120). -/
def execBlockRead (k keySlot : Fin 65536) (cacheHit : Bool) (s : State) : Host.Outcome State Fault Refusal :=
  ok (s.blockCmd k.val opRead false fun t => t.readRange k.val keySlot.val cacheHit)

/-! ### Writes -/

/-- Admission of a write to the keys of the context's range (R121, R141, R150, R157): the allowance test, the class, the
capacity test; then the reservation, with the fields that firmware fills (R132). -/
def State.admitWrite (s : State) (k cls link slot data : Nat) : State :=
  let c := s.ctx k
  let new := (List.range c.granCnt).filter fun i => (s.mapped (s.ctxKey c i)).isNone
  let n := new.length
  if 0 < n && s.tenAllow c.tenant < s.tenUse c.tenant + s.tenRsv c.tenant + n then
    (s.finish k (stObject c.proto 4)).countUp (R.WAY_TEN_STATUS (c.tenant - 1)) F.WAY_TEN_STATUS_REFUSED 1
  else if 0 < n && !s.classOk cls then s.finish k (stObject c.proto 8)
  else if 0 < n && !s.capacityOk cls n then s.finish k (stObject c.proto 5)
  else
    let s1 := (s.setCtx k { c with cls, link, keySlot := slot, rsvGran := n, status := 0 }).setRsv c.tenant (s.tenRsv c.tenant + n)
    s1.setWork k { s1.work k with admitted := true, write := true, data, reserved := new }

/-- BLOCK_WRITE (R121, R141, R157). -/
def execBlockWrite (k keySlot : Fin 65536) (data : Nat) (s : State) : Host.Outcome State Fault Refusal :=
  ok (s.blockCmd k.val opWrite true fun t =>
    t.admitWrite k.val (t.rf (R.WAY_TEN_CFG ((t.ctx k.val).tenant - 1)) F.WAY_TEN_CFG_CLASS) 0xFFFFFFFF keySlot.val data)

/-- A flush completes without waiting for commit (R138); it is a block command (R120, R131), a write to a reservation (R102), and one that
names sectors lies within the capacity (R122). -/
def State.flushCmd (s : State) (k : Nat) (o : OpSet) : State :=
  s.reservedCmd k o true fun t =>
    let c := t.ctx k
    t.finish k (if t.objView c.tenant then stObject c.proto 0xA else if c.proto = 2 && t.beyondCapacity c then stLbaRange 2 else 0)

/-- NVME_FLUSH (R138). -/
def execNvmeFlush (k : Fin 65536) (s : State) : Host.Outcome State Fault Refusal := ok (s.flushCmd k.val { nvme := [0x00] })

/-- SYNCHRONIZE_CACHE (R138). -/
def execSynchronizeCache (k : Fin 65536) (s : State) : Host.Outcome State Fault Refusal :=
  ok (s.flushCmd k.val { sas := [0x91] })

/-- FLUSH_CACHE_EXT (R138). -/
def execFlushCacheExt (k : Fin 65536) (s : State) : Host.Outcome State Fault Refusal :=
  ok (s.flushCmd k.val { sata := [0xEA] })

/-- Mappings of tenant `t` that satisfy `p` are removed and their granules released (R121, R142); acknowledged writes in staging lose
those granules too, so that no later commit brings them back (R101, R139). -/
def State.release (s : State) (t : Nat) (p : Key → Bool) : State :=
  let mine := fun q : Key => q.tenant = t && p q
  let s1 := s.supersede (fun _ c => c.state = cStaged && c.has fAcked) mine
  (s1.unmap mine).setUse t (s.tenUse t - s.countMap mine)

/-- Block sector range. -/
def inRange (lo n : Nat) (q : Key) : Bool := q.kind = 0 && lo ≤ q.id && q.id < lo + n

/-- WRITE_ZEROES (R121). -/
def execWriteZeroes (k : Fin 65536) (s : State) : Host.Outcome State Fault Refusal :=
  ok (s.blockCmd k.val { nvme := [0x08] } true fun t =>
    let c := t.ctx k.val
    (t.release c.tenant (inRange (c.target % 2 ^ 64) c.granCnt)).finish k.val 0)

/-- DEALLOCATE: Dataset Management, whose Deallocate attribute is bit 2 of CDW11 and whose number of ranges, less 1, stands in CDW10
(PRESUMED from NVMe); without the attribute nothing happens (R120, R121). Each range must lie within the capacity (R122). -/
def execDeallocate (k : Fin 65536) (ranges : List (Nat × Nat)) (s : State) : Host.Outcome State Fault Refusal :=
  ok (s.mediaCmd k.val { nvme := [0x09] } true fun t =>
    let c := t.ctx k.val
    let rs := ranges.take (c.target % 256 + 1)
    if t.objView c.tenant then t.finish k.val (stObject c.proto 0xA)
    else if !bitAt c.target 34 then t.finish k.val 0
    else if rs.any (fun q => spGetD 0 t.cmd.capacity (c.tenant - 1) < q.1 + q.2) then t.finish k.val (stLbaRange c.proto)
    else (t.release c.tenant fun q => rs.any fun r => inRange r.1 r.2 q).finish k.val 0)

/-- BLOCK_VERIFY (R120): the sectors are read from media, so in Haven it is a read that the cache does not satisfy (R84, R97). -/
def execBlockVerify (k : Fin 65536) (mediaOk : Bool) (s : State) : Host.Outcome State Fault Refusal :=
  ok (s.blockCmd k.val opVerify false fun t =>
    let c := t.ctx k.val
    let ks := t.ctxKeys c
    if ks.any t.beyondResume then t.finish k.val (stBecomingReady c.proto)
    else if t.mode = mHaven then t.finish k.val (stHavenRead c.proto)
    else if mediaOk && !(ks.any fun q => t.way.lost.contains q) then t.finish k.val 0
    else t.finish k.val (stReadError c.proto))

/-- COMPARE: Compare Failure where a sector differs (R120). -/
def execCompare (k keySlot : Fin 65536) (cacheHit : Bool) (data : Nat) (s : State) : Host.Outcome State Fault Refusal :=
  ok (s.blockCmd k.val { nvme := [0x05] } false fun t =>
    t.withData k.val keySlot.val cacheHit fun u d =>
      u.finish k.val (if d = (List.range (u.ctx k.val).granCnt).map (dataAt data) then 0 else stNvme 2 0x85 0))

/-! ### NVMe admin -/

/-- NVME_IDENTIFY (R90): Identify Namespace from the shadow file, where drive firmware commits it (R118); of Identify Controller, MDTS
is 9 and VWC 0 (R90, R138); another structure as drive firmware holds it. -/
def execNvmeIdentify (k : Fin 65536) (cns data : Nat) (s : State) : Host.Outcome State Fault Refusal :=
  ok (s.hostCmd k.val { adm := [0x06] } fun t =>
    let c := t.ctx k.val
    if cns = 0 then
      if t.tenantOk c then t.finishData k.val (t.shadowWordsFrom c.origin (Config.identifyPlace c.tenant) 1024)
      else t.finish k.val (stBadNamespace 1)
    else if cns = 1 then t.finishData k.val [putBytes (putBytes data 77 1 9) 525 1 0]
    else t.finishData k.val [data])

/-- Vendor log page 0xC0: a 64-byte header, then the held records, oldest first (R457). -/
def State.cairnPage (s : State) : List Nat :=
  let oldest := ((s.crn.log.head?).map Rec.seq).getD s.crn.nextSeq
  argOf [(4, s.crn.log.length), (4, s.rf R.CRN_DROPPED F.CRN_DROPPED_COUNT), (1, b2n s.crn.fb), (3, 0), (8, oldest),
    (8, s.crn.nextSeq), (4, s.crn.minutes), (2, s.crn.pcyc), (30, 0)] :: s.crn.log.map Rec.bytes

/-- NVME_GET_LOG_PAGE (R90, R457). -/
def execNvmeGetLogPage (k : Fin 65536) (lid : Nat) (data : List Nat) (s : State) : Host.Outcome State Fault Refusal :=
  ok (s.hostCmd k.val { adm := [0x02] } fun t => t.finishData k.val (if lid = 0xC0 then t.cairnPage else data))

/-- NAMESPACE_MANAGEMENT: passed to drive firmware, which sets the tenant's capacity and ends the command itself (R118, R122). DESIGN
CHOICE: the spec names no register for a capacity, so the command carries what firmware sets; it is 0 after reset. -/
def execNamespaceManagement (k : Fin 65536) (t : Fin 256) (capacity : Nat) (s : State) : Host.Outcome State Fault Refusal :=
  ok (s.hostCmd k.val { adm := [0x0D] } fun u =>
    if u.blocked k.val true then u.finish k.val (stConflict 1) else (u.setCapacity t.val capacity).passOn k.val)

/-- NAMESPACE_ATTACHMENT: passed to drive firmware, which carries it out through WAY_TEN_CFG (R118). -/
def execNamespaceAttachment (k : Fin 65536) (s : State) : Host.Outcome State Fault Refusal :=
  ok (s.hostCmd k.val { adm := [0x15] } fun t =>
    if t.blocked k.val true then t.finish k.val (stConflict 1) else t.passOn k.val)

/-- FIRMWARE_IMAGE_DOWNLOAD (R90). -/
def execFirmwareImageDownload (k : Fin 65536) (s : State) : Host.Outcome State Fault Refusal :=
  ok (s.hostCmd k.val { adm := [0x11] } fun t => t.passOn k.val)

/-- FIRMWARE_COMMIT (R90). -/
def execFirmwareCommit (k : Fin 65536) (s : State) : Host.Outcome State Fault Refusal :=
  ok (s.hostCmd k.val { adm := [0x10] } fun t => t.passOn k.val)

/-- The fields of a Create I/O Queue command, from CDW10 and CDW11 (PRESUMED from NVMe): the queue, its entries, PC, IEN, and the vector of
a completion queue or the completion queue of a submission queue. -/
structure QueueArgs where
  qid : Nat
  size : Nat
  pc : Bool
  ien : Bool
  far : Nat
deriving DecidableEq, Repr

def Ctx.queueArgs (c : Ctx) : QueueArgs :=
  { qid := c.target % 2 ^ 16, size := c.target / 2 ^ 16 % 2 ^ 16 + 1, pc := bitAt c.target 32, ien := bitAt c.target 33,
    far := c.target / 2 ^ 48 % 2 ^ 16 }

/-- CREATE_IO_QUEUE: up to 1,024 pairs, at most 4,096 entries, physically contiguous, 1,025 vectors (R90, R107). -/
def execCreateIoQueue (k : Fin 65536) (s : State) : Host.Outcome State Fault Refusal :=
  ok (s.hostCmd k.val { adm := [0x01, 0x05] } fun t =>
    let c := t.ctx k.val
    let a := c.queueArgs
    let cq := decide (c.opcode = 0x05)
    let h := t.hp c.origin
    let used := if cq then (spGet h.cqs a.qid).isSome else (spGet h.sqs a.qid).isSome
    if !a.pc then t.finish k.val (stInvalidField 1)
    else if a.qid = 0 || 1024 < a.qid || used then t.finish k.val (stNvme 1 1 1)
    else if a.size < 2 || 4096 < a.size then t.finish k.val (stNvme 1 2 1)
    else if cq then
      if 1024 < a.far then t.finish k.val (stNvme 1 8 1)
      else (t.setHp c.origin { h with cqs := spInsert h.cqs a.qid { size := a.size, vector := a.far, ien := a.ien } }).finish k.val 0
    else if (spGet h.cqs a.far).isNone then t.finish k.val (stNvme 1 0 1)
    else (t.setHp c.origin { h with sqs := spInsert h.sqs a.qid { size := a.size, cq := a.far } }).finish k.val 0)

/-- NVME_DELETE_IO_QUEUE: a completion queue that a submission queue still uses is not deleted. -/
def execNvmeDeleteIoQueue (k : Fin 65536) (cq : Bool) (qid : Nat) (s : State) : Host.Outcome State Fault Refusal :=
  let g := (s.ctx k.val).origin
  let h := s.hp g
  if !s.holds k.val { adm := [if cq then 0x04 else 0x00] } then ok s
  else if cq then
    if (spGet h.cqs qid).isNone then ok (s.finish k.val (stNvme 1 1 1))
    else if h.sqs.any fun q => q.2.cq = qid then ok (s.finish k.val (stNvme 1 0x0C 1))
    else ok ((s.setHp g { h with cqs := spErase h.cqs qid }).finish k.val 0)
  else if qid = 0 || (spGet h.sqs qid).isNone then ok (s.finish k.val (stNvme 1 1 1))
  else ok ((s.setHp g { h with sqs := spErase h.sqs qid }).finish k.val 0)

/-- The command of queue `sq` with identifier `cid` that has not begun. -/
def State.findCmd (s : State) (g sq cid : Nat) : Option Nat :=
  (s.cmd.ctxs.find? fun q => q.2.origin = g && q.2.queue = sq && q.2.tag = cid && s.isOpen q.1).map Prod.fst

/-- NVME_ABORT: a command not yet carried out ends with Command Abort Requested; dword 0 says whether one was. -/
def execNvmeAbort (k : Fin 65536) (sq cid : Nat) (s : State) : Host.Outcome State Fault Refusal :=
  if !s.holds k.val { adm := [0x08] } then ok s
  else match s.findCmd (s.ctx k.val).origin sq cid with
    | some j => if j = k.val then ok (s.finishData k.val [1])
                else ok ((s.finish j (stNvme 0 7 0)).finishData k.val [0])
    | none => ok (s.finishData k.val [1])

/-- Features the part does not have: the volatile write cache (06h) and the host memory buffer (0Dh) (R90, R138). -/
def noFeature (fid : Nat) : Bool := fid = 0x06 || fid = 0x0D

/-- NVME_SET_FEATURES. -/
def execNvmeSetFeatures (k : Fin 65536) (fid value : Nat) (s : State) : Host.Outcome State Fault Refusal :=
  ok (s.hostCmd k.val { adm := [0x09] } fun t =>
    let g := (t.ctx k.val).origin
    if noFeature fid then t.finish k.val (stInvalidField 1)
    else (t.setHp g { t.hp g with features := spInsert (spErase (t.hp g).features fid) fid value }).finish k.val 0)

/-- NVME_GET_FEATURES. -/
def execNvmeGetFeatures (k : Fin 65536) (fid : Nat) (s : State) : Host.Outcome State Fault Refusal :=
  ok (s.hostCmd k.val { adm := [0x0A] } fun t =>
    if noFeature fid then t.finish k.val (stInvalidField 1)
    else t.finishData k.val [spGetD 0 (t.hp (t.ctx k.val).origin).features fid])

/-- NVME_ASYNC_EVENT_REQUEST: the command waits for an event. -/
def execNvmeAsyncEventRequest (k : Fin 65536) (s : State) : Host.Outcome State Fault Refusal :=
  ok (s.hostCmd k.val { adm := [0x0C] } fun t =>
    let g := (t.ctx k.val).origin
    (t.setHp g { t.hp g with asyncReqs := (t.hp g).asyncReqs ++ [k.val] }).passOn k.val)

/-! ### SAS and SATA -/

/-- READ_CAPACITY: the 32 bytes that drive firmware has committed to the shadow file (R118). -/
def execReadCapacity (k : Fin 65536) (s : State) : Host.Outcome State Fault Refusal :=
  ok (s.tenantCmd k.val { sas := [0x9E] } fun t =>
    let c := t.ctx k.val
    t.finishData k.val (t.shadowWordsFrom c.origin (Config.capacityPlace c.tenant) 8))

/-- REPORT_LUNS: LUN t - 1 of every enabled tenant attached to the group (R100). -/
def execReportLuns (k : Fin 65536) (s : State) : Host.Outcome State Fault Refusal :=
  ok (s.hostCmd k.val { sas := [0xA0] } fun t =>
    t.finishData k.val ((List.range 256).filter fun n => t.tenantOk { t.ctx k.val with tenant := n + 1 }))

/-- TEST_UNIT_READY: the not-ready statuses of R97 (R92); no reservation blocks it (R102). -/
def execTestUnitReady (k : Fin 65536) (s : State) : Host.Outcome State Fault Refusal :=
  ok (s.tenantCmd k.val { sas := [0x00] } fun t => t.finish k.val ((t.modeRefusal k.val 2 false).getD 0))

/-- REQUEST_SENSE: the sense that a media command would meet now, none when ready; of a logical unit that is not there, that (R92, R97,
R117). Sense of an ended command went with its completion. -/
def execRequestSense (k : Fin 65536) (s : State) : Host.Outcome State Fault Refusal :=
  ok (s.hostCmd k.val { sas := [0x03] } fun t =>
    t.finishData k.val [if t.tenantOk (t.ctx k.val) then (t.modeRefusal k.val 2 false).getD 0 else stBadNamespace 2])

/-- START_STOP_UNIT: mode changes go through drive firmware alone, so the part passes the command on (R77, R92); a reservation blocks a
stop as it blocks a write (R102). -/
def execStartStopUnit (k : Fin 65536) (start : Bool) (s : State) : Host.Outcome State Fault Refusal :=
  ok (if start then s.tenantCmd k.val { sas := [0x1B] } fun t => t.passOn k.val
      else s.reservedCmd k.val { sas := [0x1B] } true fun t => t.passOn k.val)

/-- MODE_SENSE: the caching page (08h) reads WCE 0 (R138). -/
def execModeSense (k : Fin 65536) (page : Nat) (s : State) : Host.Outcome State Fault Refusal :=
  ok (s.reservedCmd k.val { sas := [0x5A] } false fun t =>
    t.finishData k.val [if page = 8 then 0 else spGetD 0 (t.hp (t.ctx k.val).origin).modePages page])

/-- MODE_SELECT: the caching page has no volatile cache to enable (R138). -/
def execModeSelect (k : Fin 65536) (page data : Nat) (s : State) : Host.Outcome State Fault Refusal :=
  ok (s.reservedCmd k.val { sas := [0x55] } true fun t =>
    let g := (t.ctx k.val).origin
    if page = 8 && data ≠ 0 then t.finish k.val (stSense 5 0x26 0)
    else (t.setHp g { t.hp g with modePages := spSet 0 (t.hp g).modePages page data }).finish k.val 0)

/-- LOG_SENSE (R92). -/
def execLogSense (k : Fin 65536) (page : Nat) (data : List Nat) (s : State) : Host.Outcome State Fault Refusal :=
  ok (s.tenantCmd k.val { sas := [0x4D] } fun t => t.finishData k.val (page :: data))

/-- PERSISTENT_RESERVE_IN, or Reservation Report on NVMe: the registrants' keys, the holder and the type (R102). -/
def execPersistentReserveIn (k : Fin 65536) (s : State) : Host.Outcome State Fault Refusal :=
  ok (s.tenantCmd k.val { sas := [0x5E], nvme := [0x0E] } fun t =>
    let r := t.reservation (t.ctx k.val).tenant
    t.finishData k.val ([(r.holder.map (· + 1)).getD 0, r.kind] ++ r.registrants.map Prod.snd))

/-- `who` is registered with `key`. -/
def Reservation.knows (r : Reservation) (who key : Nat) : Bool := r.registrants.any fun q => q.1 = who && q.2 = key

/-- A reservation that every registrant holds: types 7 and 8. -/
def Reservation.shared (r : Reservation) : Bool := r.holder.isSome && (r.kind = 7 || r.kind = 8)

/-- `who` holds the reservation. -/
def Reservation.heldBy (r : Reservation) (who : Nat) : Bool :=
  r.holder = some who || (r.shared && r.registrants.any fun q => q.1 = who)

/-- The reservation when only `left` stay registered: one whose holder is gone ends, but for one that every registrant holds, which lasts
as long as there is one. -/
def Reservation.keep (r : Reservation) (left : List (Nat × Nat)) : Reservation :=
  match r.holder with
  | none => { r with registrants := left }
  | some h =>
    if left.any fun q => q.1 = h then { r with registrants := left }
    else match r.shared, left with
      | true, q :: _ => { r with registrants := left, holder := some q.1 }
      | _, _ => { registrants := left }

/-- The reservation after an operation by `who`; none where it conflicts (R102, by the standards' rules; PRESUMED from SPC-5). -/
def Reservation.apply (r : Reservation) (who : Nat) (op : ResOp) : Option Reservation :=
  match op with
  | .register key =>
    let others := r.registrants.filter fun q => q.1 ≠ who
    some (if key = 0 then r.keep others else { r with registrants := others ++ [(who, key)] })
  | .reserve key kind =>
    if !r.knows who key then none
    else match r.holder with
      | none => some { r with holder := some who, kind }
      | some _ => if r.heldBy who && r.kind = kind then some r else none
  | .release key =>
    if !r.knows who key then none
    else some (if r.heldBy who then { r with holder := none, kind := 0 } else r)
  | .clear key => if r.knows who key then some {} else none
  | .preempt key old kind =>
    let all := r.shared && old = 0
    let out := fun q : Nat × Nat => q.1 ≠ who && (q.2 = old || all)
    let left := r.registrants.filter fun q => !out q
    if !r.knows who key then none
    else if all || (!r.shared && r.registrants.any fun q => some q.1 = r.holder && q.2 = old) then
      some { registrants := left, holder := some who, kind }
    else if r.registrants.any fun q => q.2 = old then some (r.keep left)
    else none

/-- The reservation of a tenant replaced. -/
def State.setReservation (s : State) (t : Nat) (r : Reservation) : State :=
  { s with cmd := { s.cmd with reservations := spSet {} s.cmd.reservations t r } }

/-- PERSISTENT_RESERVE_OUT, or Reservation Register, Acquire or Release on NVMe (R102). -/
def execPersistentReserveOut (k : Fin 65536) (op : ResOp) (s : State) : Host.Outcome State Fault Refusal :=
  ok (s.tenantCmd k.val { sas := [0x5F], nvme := [0x0D, 0x11, 0x15] } fun t =>
    let c := t.ctx k.val
    match (t.reservation c.tenant).apply (t.ctxWho c) op with
    | some r => (t.setReservation c.tenant r).finish k.val 0
    | none => t.finish k.val (stConflict c.proto))

/-- WRITE_BUFFER (R92). -/
def execWriteBuffer (k : Fin 65536) (s : State) : Host.Outcome State Fault Refusal :=
  ok (s.reservedCmd k.val { sas := [0x3B] } true fun t => t.passOn k.val)

/-- READ_BUFFER (R92): what drive firmware puts at STAGING goes to the host. -/
def execReadBuffer (k : Fin 65536) (s : State) : Host.Outcome State Fault Refusal :=
  ok (s.reservedCmd k.val { sas := [0x3C] } false fun t => t.passOn k.val)

/-- SET_FEATURES: enabling the write cache (02h) is not supported (R138). -/
def execSetFeatures (k : Fin 65536) (feature value : Nat) (s : State) : Host.Outcome State Fault Refusal :=
  ok (s.hostCmd k.val { sata := [0xEF] } fun t =>
    let g := (t.ctx k.val).origin
    if feature = 2 then t.finish k.val (stInvalidField 3)
    else (t.setHp g { t.hp g with features := spInsert (spErase (t.hp g).features feature) feature value }).finish k.val 0)

/-- READ_LOG_EXT: page 10h, the NCQ error log, holds the sense data of the latest error (R95); another page as drive firmware holds
it. -/
def execReadLogExt (k : Fin 65536) (page : Nat) (data : List Nat) (s : State) : Host.Outcome State Fault Refusal :=
  ok (s.hostCmd k.val { sata := [0x2F, 0x47] } fun t =>
    t.finishData k.val (page :: if page = 0x10 then [(t.hp (t.ctx k.val).origin).sense] else data))

/-- DOWNLOAD_MICROCODE (R95). -/
def execDownloadMicrocode (k : Fin 65536) (s : State) : Host.Outcome State Fault Refusal :=
  ok (s.hostCmd k.val { sata := [0x92] } fun t => t.passOn k.val)

end Sys2Proof.Machine
end

