-- ==== Sys2Proof/Machine/Milepost.lean ====
section
/-!
DEFINITION. Sys2Proof/Machine/Milepost.lean: the meanings of Milepost's commands and of the hosts' MAILBOX command (R382 to
R388).
-/

namespace Sys2Proof.Machine

/-- A side by its flag. -/
def sideOf (far : Bool) : Nat := b2n far

/-- MPO_TX, MPO_DB_SET and MPO_ACK of a side, by its endpoint alone (R382). -/
def State.writeMpoTx (s : State) (i : Initiator) (m side : Nat) (v : Word) : State :=
  if s.isEndpoint i m side then s.mboxTx m side v else s
def State.writeMpoDbSet (s : State) (i : Initiator) (m side : Nat) (v : Word) : State :=
  if s.isEndpoint i m side then s.mboxRing m side v else s
def State.writeMpoAck (s : State) (i : Initiator) (m side : Nat) (v : Word) : State :=
  if s.isEndpoint i m side && fget v F.MPO_ACK_GO = 1 then s.mboxAck m side (fget v F.MPO_ACK_CODE) else s

/-- MPO_RX read: the oldest inbound word, popped; zero when empty, and for anyone but the endpoint (R14, R383). -/
def State.readMpoRx (s : State) (i : Initiator) (m side : Nat) : State :=
  if s.isEndpoint i m side then
    (s.setInbound m side ((s.inbound m side).drop 1)).answer (word ((s.inbound m side).headD 0))
  else s.answer 0

/-- MPO_CFG: NEAR, within the claim's controller mask and with both queues empty (R382). -/
def State.writeMpoCfg (s : State) (i : Initiator) (m : Nat) (v : Word) : State :=
  let near := fget v F.MPO_CFG_NEAR
  let ok := isPair i && s.mayControl i (mboxRes m) && s.ready .milepost && (s.inbound m 0).isEmpty
    && (s.inbound m 1).isEmpty && (near = 1 || near = 2) && near ≠ s.owner (mboxRes m)
  if ok then s.wf (R.MPO_CFG m) F.MPO_CFG_NEAR near else s

/-- MPO_TMO_N and MPO_TMO_F, within the controller mask (R382). -/
def State.writeMpoTmo (s : State) (i : Initiator) (m : Nat) (far : Bool) (v : Word) : State :=
  if isPair i && s.mayControl i (mboxRes m) && s.ready .milepost then
    let us := clampNat 1 1000000 (fget v F.MPO_TMO_N_US)
    if far then s.wf (R.MPO_TMO_F m) F.MPO_TMO_F_US us else s.wf (R.MPO_TMO_N m) F.MPO_TMO_N_US us
  else s

/-- MAILBOX_PUSH (R383). -/
def execMailboxPush (i : Initiator) (m : Fin 8) (far : Bool) (v : Word) (s : State) : Host.Outcome State Fault Refusal :=
  ok (s.writeMpoTx i m.val (sideOf far) v)

/-- MAILBOX_POP (R383). -/
def execMailboxPop (i : Initiator) (m : Fin 8) (far : Bool) (s : State) : Host.Outcome State Fault Refusal :=
  ok (s.readMpoRx i m.val (sideOf far))

/-- DOORBELL_SET (R384, R385). -/
def execDoorbellSet (i : Initiator) (m : Fin 8) (far : Bool) (v : Word) (s : State) : Host.Outcome State Fault Refusal :=
  ok (s.writeMpoDbSet i m.val (sideOf far) v)

/-- MAILBOX_ACKNOWLEDGE (R385). -/
def execMailboxAcknowledge (i : Initiator) (m : Fin 8) (far : Bool) (v : Word) (s : State) :
    Host.Outcome State Fault Refusal :=
  ok (s.writeMpoAck i m.val (sideOf far) v)

/-- MAILBOX_REQUEST_TIMEOUT (R385): TIMEOUT sets and OUTSTANDING stays, not before the timer may expire. -/
def execMailboxRequestTimeout (m : Fin 8) (far : Bool) (s : State) : Host.Outcome State Fault Refusal :=
  let r := R.MPO_REQ m.val (sideOf far)
  let x := 2 * m.val + sideOf far
  if s.mboxUsable m.val && s.flag r F.MPO_REQ_OUTSTANDING && !s.pair.expired.contains x && spGetD 0 s.pair.due x ≤ s.now then
    ok ({ s with pair := { s.pair with expired := x :: s.pair.expired } }.raise r F.MPO_REQ_TIMEOUT)
  else ok s

/-! ### The MAILBOX command (R387, R388) -/

/-- A word in the order of bytes of the host's protocol: big-endian on SAS. -/
def hostWord (proto w : Nat) : Nat :=
  if proto = 2 then rdLe w 3 1 + 2 ^ 8 * rdLe w 2 1 + 2 ^ 16 * rdLe w 1 1 + 2 ^ 24 * rdLe w 0 1 else w % 2 ^ 32

/-- The group completes context `k` itself with data. -/
def State.groupAnswer (s : State) (k st : Nat) (data : List Nat) : State :=
  ((s.setStatus k st).postCompletion k data).freeCtxAt k

/-- The mailbox that group `g` owns; the lowest where it owns several (DEDUCED). -/
def State.groupBox (s : State) (g : Nat) : Option Nat := (List.range 8).find? fun m => s.owner (mboxRes m) = 0x50 + g

/-- MAILBOX_FULL and NO_MAILBOX (R388). -/
def stMailboxFull (proto : Nat) : Nat := stOf proto (stNvme 7 0xD0 0) (stSense 0xB 0x80 0x10)
def stNoMailbox (proto : Nat) : Nat := stOf proto (stNvme 7 0xD1 1) (stSense 5 0x80 0x11)

/-- ACTION, COUNT and ARG of a MAILBOX command, as its context keeps them (R387). -/
def Ctx.boxAction (c : Ctx) : Nat := c.target % 8
def Ctx.boxCount (c : Ctx) : Nat := c.target / 2 ^ 8 % 256
def Ctx.boxArg (c : Ctx) : Nat := c.target / 2 ^ 32 % 2 ^ 32

/-- The checks of R388 in their order, for the command of ACTION `act`; `f` is the action on the group's mailbox. -/
def State.mailboxCmd (s : State) (k act : Nat) (fieldsOk : Bool) (f : Nat → State → State) : State :=
  let c := s.ctx k
  if !s.holds k opMailbox || 1 < c.origin || c.boxAction ≠ act then s
  else if !fieldsOk then s.groupAnswer k (stInvalidField c.proto) []
  else if !s.ready .milepost then s.groupAnswer k (stBecomingReady c.proto) []
  else match s.groupBox c.origin with
    | none => s.groupAnswer k (stNoMailbox c.proto) []
    | some m => f m s

/-- COUNT within 1 to 16. -/
def countOk (n : Nat) : Bool := 1 ≤ n && n ≤ 16

/-- MAILBOX_CMD_SEND: all words or none (R387). -/
def execMailboxCmdSend (k : Fin 65536) (words : List Nat) (s : State) : Host.Outcome State Fault Refusal :=
  let c := s.ctx k.val
  let count := c.boxCount
  ok (s.mailboxCmd k.val 0 (countOk count) fun m t =>
    if 16 < (t.inbound m 0).length + count then t.groupAnswer k.val (stMailboxFull c.proto) []
    else ((List.range count).foldl (fun u j => u.mboxPush m 1 (hostWord c.proto ((words[j]?).getD 0))) t).groupAnswer k.val 0
      [])

/-- MAILBOX_CMD_RECEIVE: the number popped, then the words, then zeros to 68 bytes (R387). -/
def execMailboxCmdReceive (k : Fin 65536) (s : State) : Host.Outcome State Fault Refusal :=
  let c := s.ctx k.val
  let count := c.boxCount
  ok (s.mailboxCmd k.val 1 (countOk count) fun m t =>
    let q := t.inbound m 1
    let got := q.take count
    (t.setInbound m 1 (q.drop count)).groupAnswer k.val 0
      (hostWord c.proto got.length :: got.map (hostWord c.proto) ++ List.replicate (16 - got.length) 0))

/-- MAILBOX_CMD_DOORBELL (R387). -/
def execMailboxCmdDoorbell (k : Fin 65536) (s : State) : Host.Outcome State Fault Refusal :=
  let c := s.ctx k.val
  ok (s.mailboxCmd k.val 2 true fun m t => (t.mboxRing m 1 (word c.boxArg)).groupAnswer k.val 0 [])

/-- MAILBOX_CMD_ACK (R387). -/
def execMailboxCmdAck (k : Fin 65536) (s : State) : Host.Outcome State Fault Refusal :=
  let c := s.ctx k.val
  ok (s.mailboxCmd k.val 3 true fun m t => (t.mboxAck m 1 (c.boxArg % 2 ^ 16)).groupAnswer k.val 0 [])

/-- MAILBOX_CMD_STATUS: QSTAT, DB and REQ of the host side, then those status bits cleared as returned (R387). -/
def execMailboxCmdStatus (k : Fin 65536) (s : State) : Host.Outcome State Fault Refusal :=
  let c := s.ctx k.val
  ok (s.mailboxCmd k.val 4 true fun m t =>
    let db := (t.rd (R.MPO_DB m 1)).toNat
    let req := (t.rd (R.MPO_REQ m 1)).toNat
    let t1 := (t.wr (R.MPO_DB m 1) 0).wr (R.MPO_REQ m 1) (word (req - (req &&& 0x70000000)))
    t1.groupAnswer k.val 0 [hostWord c.proto (t.qstat m 1).toNat, hostWord c.proto db, hostWord c.proto req, 0])

end Sys2Proof.Machine
end

