-- ==== Sys2Proof/Machine/Obsidian.lean ====
section
/-!
DEFINITION. Sys2Proof/Machine/Obsidian.lean: the meanings of Obsidian's commands (R417 to R425).
-/

namespace Sys2Proof.Machine

/-- RAW_BLOCK_OP (R424). -/
def execRawBlockOp (i : Initiator) (port : Fin 14) (v : Word) (upset : Bool) (s : State) : Host.Outcome State Fault Refusal :=
  if fget v F.OBS_RAW_CTL_GO = 1 then ok (s.writeRawCtl i port.val v upset) else ok s

/-- CORE_BLOCK_DONE (R417). -/
def execCoreBlockDone (core : Fin 16) (s : State) : Host.Outcome State Fault Refusal := ok (s.coreDone core.val)

/-- KEY_STAGE (R421). -/
def execKeyStage (i : Initiator) (v : Word) (s : State) : Host.Outcome State Fault Refusal := ok (s.writeKeyData i v)

/-- KEY_LOAD (R421). -/
def execKeyLoad (i : Initiator) (slot : Fin 4096) (s : State) : Host.Outcome State Fault Refusal :=
  ok (s.writeKeyCmd i 1 slot.val)

/-- KEY_ZERO (R421). -/
def execKeyZero (i : Initiator) (slot : Fin 4096) (s : State) : Host.Outcome State Fault Refusal :=
  ok (s.writeKeyCmd i 2 slot.val)

/-- AUTH_UNIT_OPEN (R425). -/
def execAuthUnitOpen (i : Initiator) (u : Fin 4) (s : State) : Host.Outcome State Fault Refusal :=
  ok (s.writeAuCtl i u.val 1 0)

/-- AUTH_UNIT_COMPARE (R425). -/
def execAuthUnitCompare (i : Initiator) (u : Fin 4) (tlen : Fin 32) (s : State) : Host.Outcome State Fault Refusal :=
  ok (s.writeAuCtl i u.val 2 tlen.val)

/-- AUTH_UNIT_CLOSE (R425). -/
def execAuthUnitClose (i : Initiator) (u : Fin 4) (s : State) : Host.Outcome State Fault Refusal :=
  ok (s.writeAuCtl i u.val 3 0)

/-- AUTH_TAG_WRITE (R425). -/
def execAuthTagWrite (i : Initiator) (u j : Fin 4) (v : Word) (s : State) : Host.Outcome State Fault Refusal :=
  ok (s.writeAuTag i u.val j.val v)

/-- AUTH_DATA_READ (R425). -/
def execAuthDataRead (i : Initiator) (u : Fin 4) (s : State) : Host.Outcome State Fault Refusal :=
  ok (s.readAuData i u.val)

end Sys2Proof.Machine
end

