-- ==== Sys2Proof/Machine/Pairs.lean ====
section
/-!
DEFINITION. Sys2Proof/Machine/Pairs.lean: the meanings of Keystone's supervision of the pairs (R363, R367 to R371).
-/

namespace Sys2Proof.Machine

/-- A restart of pair `p` (R367, R369, R371): absorbed into one in progress; a counted one that is the third within ten
minutes brings Haven. -/
def State.startRestart (s : State) (p cause : Nat) (counted : Bool) : State :=
  if s.restarting p then s
  else
    let q := if counted then s.countRestart p else (false, s)
    let t := q.2.beginRestart p cause
    if q.1 then t.requestHaven hvKeystone else t

/-- Pair `p` runs: released by the boot ROM and not restarting. -/
def State.pairRuns (s : State) (p : Nat) : Bool := s.pair.released.contains p && !s.restarting p

/-- LOCKSTEP_MISMATCH (R363, R367, R449): the pair stops, its source reports, Keystone restarts it. -/
def execLockstepMismatch (p : Fin 2) (s : State) : Host.Outcome State Fault Refusal :=
  if s.pairRuns p.val then
    let q := s.takeInjection [2 + p.val]
    ok ((q.2.carry (2 + p.val) 2 q.1.isSome).startRestart p.val rstLockstep true)
  else ok s

/-- A write of KEY_PAIR_RST (R369). -/
def State.writePairRst (s : State) (i : Initiator) (v : Word) : State :=
  let bits := fget v F.KEY_PAIR_RST_PAIR
  let may : Bool := match i with
    | .port => !bitAt bits 0
    | .media => !bitAt bits 1
    | .keystone => true
    | _ => false
  let released : Bool := (!bitAt bits 0 || s.pair.released.contains 0) && (!bitAt bits 1 || s.pair.released.contains 1)
  if may && released then
    let t := if bitAt bits 0 then s.startRestart 0 rstCommand false else s
    if bitAt bits 1 then t.startRestart 1 rstCommand false else t
  else s

/-- PAIR_RESTART (R369, R370). -/
def execPairRestart (i : Initiator) (v : Word) (s : State) : Host.Outcome State Fault Refusal := ok (s.writePairRst i v)

/-- The restart vector lies in a tightly-coupled memory or the HBM (R371). -/
def vecOk (a : Nat) : Bool := (tcmBase ≤ a && a < tcmBase + 0x200000) || (hbmBase ≤ a && a < hbmBase + 2 ^ 34)

/-- PAIR_RESTART_DONE (R369, R371): the pair starts at its vector with the cause in a0; a vector elsewhere leaves it in reset
and brings Haven. -/
def execPairRestartDone (p : Fin 2) (s : State) : Host.Outcome State Fault Refusal :=
  if !s.restarting p.val then ok s
  else if vecOk (s.rstVec p.val) then
    let t := ((s.wf (R.KEY_PAIR_STAT p.val) F.KEY_PAIR_STAT_RESTARTING 0).setReady (pairReady p.val) true).beat p.val
    ok (t.emit (.signal (16 + p.val) [s.rstVec p.val, s.rf (R.KEY_PAIR_STAT p.val) F.KEY_PAIR_STAT_CAUSE]))
  else ok (s.requestHaven hvKeystone)

/-- HEARTBEAT (R367). -/
def execHeartbeat (i : Initiator) (p : Fin 2) (s : State) : Host.Outcome State Fault Refusal := ok (s.writeHb i p.val)

/-- HEARTBEAT_CONFIG (R367). -/
def execHeartbeatConfig (i : Initiator) (p : Priv) (v : Word) (s : State) : Host.Outcome State Fault Refusal :=
  ok (s.writeHbCfg i p v)

/-- Pair `p`'s deadline has passed: HB_MS ms after the latest of the three moments of R367. -/
def State.beatMissed (s : State) (p : Nat) : Bool :=
  let ms := s.rf R.KEY_HB_CFG F.KEY_HB_CFG_HB_MS
  ms ≠ 0 && spGetD 0 s.pair.beat p + 100000 * ms ≤ s.now

/-- HEARTBEAT_MISS (R367). -/
def execHeartbeatMiss (p : Fin 2) (s : State) : Host.Outcome State Fault Refusal :=
  if s.pairRuns p.val && s.beatMissed p.val then ok (s.startRestart p.val rstHeartbeat true) else ok s

/-- WATCHDOG_RESTART (R35, R368): by Keystone's ROM alone, and so Keystone runs. -/
def execWatchdogRestart (i : Initiator) (s : State) : Host.Outcome State Fault Refusal :=
  if isKeystone i then ok ({ s with pair := { s.pair with kick := s.now } }.setReady .keystone true) else ok s

/-- A write of KEY_DEV_REQ: Keystone answers with its device-reset command (R368). -/
def State.writeDevReq (s : State) (i : Initiator) (p : Priv) (v : Word) : State :=
  if pairMachine i p && fget v F.KEY_DEV_REQ_UNLOCK = 0x5EED then s.flushFirst .keyCmd else s

/-- DEVICE_RESET_REQUEST (R368). -/
def execDeviceResetRequest (i : Initiator) (p : Priv) (v : Word) (s : State) : Host.Outcome State Fault Refusal :=
  ok (s.writeDevReq i p v)

/-- tKEY_STUCK Min in ticks of 10 ns. -/
def stuckTicks : Nat := 90000000

/-- The pair has been RESTARTING with Haven settled, without a break, for tKEY_STUCK Min (R368). -/
def State.stuckLong (s : State) (p : Nat) : Bool :=
  s.restarting p && s.havenSettled && max (spGetD 0 s.pair.began p) s.sys.settledAt + stuckTicks ≤ s.now

/-- KEY_STUCK_TIMEOUT (R368). -/
def execKeyStuckTimeout (p : Fin 2) (s : State) : Host.Outcome State Fault Refusal :=
  if s.stuckLong p.val then ok (s.flushFirst .keyCmd) else ok s

end Sys2Proof.Machine
end

