-- ==== Sys2Proof/Machine/Quarry.lean ====
section
/-!
DEFINITION. Sys2Proof/Machine/Quarry.lean: the meanings of the decoder pool's commands (R231 to R245, R258) and of the ring's mark
search (R253).
-/

namespace Sys2Proof.Machine

/-- DESCRIPTOR_PUSH (R241). -/
def execDescriptorPush (i : Initiator) (n : Fin 8) (v : Word) (s : State) : Host.Outcome State Fault Refusal :=
  ok (s.writeSubCmd i n.val (fset v F.QRY_SUB_CMD_FLUSH 0))

/-- DESCRIPTOR_FLUSH (R242). -/
def execDescriptorFlush (i : Initiator) (n : Fin 8) (v : Word) (s : State) : Host.Outcome State Fault Refusal :=
  ok (s.writeSubCmd i n.val (fset v F.QRY_SUB_CMD_FLUSH 1))

/-- ENGINE_DISPATCH (R238). -/
def execEngineDispatch (e : Fin 12) (s : State) : Host.Outcome State Fault Refusal :=
  if !s.engineFree e.val || !s.ready .quarry then ok s
  else match bestSlot (s.qry.slots.filter s.slotWaits) with
    | none => ok s
    | some x =>
      ok ((s.setSlots (s.qry.slots.map fun y => if y.id = x.id then { y with engine := some e.val } else y)).engBusy e.val true)

/-- DECODE_COMPLETE (R209, R210, R233 to R235). -/
def execDecodeComplete (e : Fin 12) (s : State) : Host.Outcome State Fault Refusal :=
  match s.engineSlot e.val with
  | none => ok s
  | some x => ok ((s.endDecode x).engBusy e.val false)

/-- COMPLETION_POST (R243); the ladder takes its own (R254). -/
def execCompletionPost (n : Fin 8) (s : State) : Host.Outcome State Fault Refusal :=
  let t := s.postCpl n.val
  match s.qents n.val with
  | (_, .done c _ anchor) :: _ => ok (t.ladderPosted n.val c anchor)
  | _ => ok t

/-- COMPLETION_POP. -/
def execCompletionPop (i : Initiator) (n : Fin 8) (v : Word) (s : State) : Host.Outcome State Fault Refusal :=
  ok (s.writeCplPop i n.val v)

/-- An engine's fault (R240): the sector is decoded again elsewhere. -/
def State.engineFault (s : State) (e : Nat) (inj : Bool) : State :=
  let t := s.setSlots (s.qry.slots.map fun y => if y.engine = some e then { y with engine := none } else y)
  (((t.engBusy e false).wf R.QRY_STAT ⟨16 + e, 16 + e⟩ 1).raise R.QRY_EVT F.QRY_EVT_FAULT).carry 11 2 inj

/-- ENGINE_FAULT (R240, R449): a check of Quarry's working memory; an injected single-bit error is corrected. -/
def execEngineFault (e : Fin 12) (s : State) : Host.Outcome State Fault Refusal :=
  let q := s.eccCheck [11] 2
  ok (if q.1 = 1 then q.2.2.carry 4 1 q.2.1 else q.2.2.engineFault e.val q.2.1)

/-- ENGINE_FAULT_CLEAR (R240). -/
def execEngineFaultClear (i : Initiator) (v : Word) (s : State) : Host.Outcome State Fault Refusal :=
  if s.qryGlobal i then ok (s.writeFields R.QRY_STAT v) else ok s

/-- RING_FIND (R253): a search begins. -/
def State.writeRingFind (s : State) (i : Initiator) (n : Nat) (v : Word) : State :=
  if !s.ldOpen i n then s
  else
    let t := s.wr (R.LD_RING_FOUND_HI n) (word (2 ^ 30))
    t.setSlice n { t.slice n with find := some (fget v F.LD_RING_FIND_SECTOR) }

/-- RING_FIND (R253). -/
def execRingFind (i : Initiator) (n : Fin 8) (v : Word) (s : State) : Host.Outcome State Fault Refusal :=
  ok (s.writeRingFind i n.val v)

/-- RING_FIND_DONE (R253): the newest mark of the sector that is still held. -/
def execRingFindDone (n : Fin 8) (s : State) : Host.Outcome State Fault Refusal :=
  match (s.slice n.val).find with
  | none => ok s
  | some sec =>
    let q := s.rplyQ n.val
    let track := (s.rd (R.LD_RING_FIND_TRK n.val)).toNat
    let t := s.setSlice n.val { s.slice n.val with find := none }
    let r := t.searchMarks q (fun v => markKind v = mkSector && s.heldClk q (s.markClk q v)
        && markArg v % 2 ^ 32 = track && markArg v / 2 ^ 32 % 2 ^ 16 = sec) (s.sub q).marks ((s.sub q).marks - s.oldMark q)
    match r.1 with
    | some m =>
      let c := s.markClk q m % 2 ^ 48
      ok ((r.2.wr (R.LD_RING_FOUND_LO n.val) (word c)).wr (R.LD_RING_FOUND_HI n.val) (word (2 ^ 31 + markSample m * 2 ^ 16 + c / 2 ^ 32)))
    | none => ok ((r.2.wr (R.LD_RING_FOUND_LO n.val) 0).wr (R.LD_RING_FOUND_HI n.val) 0)

end Sys2Proof.Machine
end

