-- ==== Sys2Proof/Machine/Strata.lean ====
section
/-!
DEFINITION. Sys2Proof/Machine/Strata.lean: the meanings of the Strata commands (R389 to R400) but for the microwords that access Towpath.
A microword acts while its sequencer issues words; otherwise nothing happens.
-/

namespace Sys2Proof.Machine

/-! ### Work (R392, R395) -/

/-- WORK_READ. -/
def execWorkRead (i : Initiator) (n : Fin 12) (k : Fin 65536) (s : State) : Host.Outcome State Fault Refusal :=
  ok (s.writeWqPush i n.val wkRead k.val)

/-- WORK_WRITE_RUN. -/
def execWorkWriteRun (i : Initiator) (n : Fin 12) (k : Fin 65536) (s : State) : Host.Outcome State Fault Refusal :=
  ok (s.writeWqPush i n.val wkWrite k.val)

/-- WORK_LADDER (R254, R392). -/
def execWorkLadder (i : Initiator) (n : Fin 12) (k : Fin 65536) (s : State) : Host.Outcome State Fault Refusal :=
  ok (s.writeWqPush i n.val wkLadder k.val)

/-- WORK_SURVEY. -/
def execWorkSurvey (i : Initiator) (n : Fin 12) (k : Fin 65536) (s : State) : Host.Outcome State Fault Refusal :=
  ok (s.writeWqPush i n.val wkSurvey k.val)

/-- WORK_FORMAT. -/
def execWorkFormat (i : Initiator) (n : Fin 12) (k : Fin 65536) (s : State) : Host.Outcome State Fault Refusal :=
  ok (s.writeWqPush i n.val wkFormat k.val)

/-- WORK_DISPATCH (R395). -/
def execWorkDispatch (n : Fin 12) (s : State) : Host.Outcome State Fault Refusal :=
  if s.strReady n.val && s.strSt n.val = ssIdle && (s.seq n.val).wq ≠ [] then
    ok (((s.setStrSt n.val ssRun).strGo n.val (Config.strEntry 0 % 0x10000)).strBegin n.val)
  else ok s

/-! ### Vertical microwords (R390) -/

/-- NOP. -/
def execNop (n : Fin 12) (s : State) : Host.Outcome State Fault Refusal := ok (s.strWord n.val 0 fun t => t.strNext n.val)

/-- ALU. -/
def execAlu (n : Fin 12) (gd ga gb : Fin 32) (fn : Fin 16) (s : State) : Host.Outcome State Fault Refusal :=
  ok (s.strWord n.val (vOp 1 + vD gd.val + vA ga.val + vB gb.val + fn.val) fun t =>
    let q := t.free 32
    (q.2.setG n.val gd.val (aluResult fn.val (t.g n.val ga.val) (t.g n.val gb.val) (word q.1))).strNext n.val)

/-- ADDI. -/
def execAddi (n : Fin 12) (gd ga : Fin 32) (imm : BitVec 17) (s : State) : Host.Outcome State Fault Refusal :=
  ok (s.strWord n.val (vOp 2 + vD gd.val + vA ga.val + imm.toNat) fun t =>
    (t.setG n.val gd.val (word (t.strAddr n.val ga.val imm))).strNext n.val)

/-- LUI. -/
def execLui (n : Fin 12) (gd : Fin 32) (imm : BitVec 16) (s : State) : Host.Outcome State Fault Refusal :=
  ok (s.strWord n.val (vOp 3 + vD gd.val + imm.toNat) fun t =>
    (t.setG n.val gd.val (word (imm.toNat * 2 ^ 16))).strNext n.val)

/-- BRANCH (BR). -/
def execBranch (n : Fin 12) (cond : Fin 8) (ga : Fin 32) (target : BitVec 17) (s : State) : Host.Outcome State Fault Refusal :=
  ok (s.strWord n.val (vOp 4 + cond.val * 2 ^ 24 + ga.val * 2 ^ 19 + target.toNat) fun t =>
    let u := { t with fresh := t.fresh + 1 }
    if t.brTaken n.val cond.val (t.g n.val ga.val) then u.strGo n.val target.toNat else u.strNext n.val)

/-- CALL: a ninth push is an ILLEGAL fault. -/
def execCall (n : Fin 12) (target : BitVec 17) (s : State) : Host.Outcome State Fault Refusal :=
  ok (s.strWord n.val (vOp 5 + target.toNat) fun t =>
    let x := t.seq n.val
    if 8 ≤ x.stack.length then t.strFault n.val scIllegal
    else (t.setSeq n.val { x with stack := (t.strPc n.val + 1) :: x.stack }).strGo n.val target.toNat)

/-- RETURN (RET): a pop from an empty stack is an ILLEGAL fault. -/
def execReturn (n : Fin 12) (s : State) : Host.Outcome State Fault Refusal :=
  ok (s.strWord n.val (vOp 6) fun t =>
    let x := t.seq n.val
    match x.stack with
    | [] => t.strFault n.val scIllegal
    | a :: rest => (t.setSeq n.val { x with stack := rest }).strGo n.val a)

/-- SCRATCH_LOAD (SLD): the address is taken modulo 4 KiB and its low two bits are not used. -/
def execScratchLoad (n : Fin 12) (gd ga : Fin 32) (imm : BitVec 17) (s : State) : Host.Outcome State Fault Refusal :=
  ok (s.strWord n.val (vOp 9 + vD gd.val + vA ga.val + imm.toNat) fun t =>
    (t.setG n.val gd.val (t.scratch n.val (t.strAddr n.val ga.val imm / 4))).strNext n.val)

/-- SCRATCH_STORE (SST). -/
def execScratchStore (n : Fin 12) (gs ga : Fin 32) (imm : BitVec 17) (s : State) : Host.Outcome State Fault Refusal :=
  ok (s.strWord n.val (vOp 10 + vD gs.val + vA ga.val + imm.toNat) fun t =>
    let w := t.strAddr n.val ga.val imm / 4 % 1024
    (t.setSeq n.val { t.seq n.val with scratch := spSet 0 (t.seq n.val).scratch w (t.g n.val gs.val) }).strNext n.val)

/-- NANO (R391). -/
def execNano (n : Fin 12) (naddr : Fin 512) (ga gb : Fin 32) (cnt : BitVec 8) (rom : BitVec 128) (frames : List (BitVec 512))
    (upset : Bool) (s : State) : Host.Outcome State Fault Refusal :=
  ok (s.strWord n.val (vOp 11 + naddr.val * 2 ^ 18 + ga.val * 2 ^ 13 + gb.val * 2 ^ 8 + cnt.toNat) fun t =>
    let x := nanoOf (t.nanoWord n.val naddr.val rom.toNat)
    let k := if cnt = 0 then x.rep else cnt.toNat
    let r := t.nanoRun n.val ga.val gb.val x upset frames (k + 1)
    if r.okay then r.st.strNext n.val else r.st)

/-- The state a stall returns to. -/
def State.strResume (s : State) (n : Nat) : State :=
  (s.setSeq n { s.seq n with wait := none }).setStrSt n (if (s.seq n).handler.isSome then ssHandler else ssRun)

/-- WAIT (R390): `set` tells whether the event line is set; the stalled word goes on once it is. -/
def execWait (n : Fin 12) (event : Fin 32) (limit : BitVec 22) (set : Bool) (s : State) : Host.Outcome State Fault Refusal :=
  if s.strSt n.val = ssWait && s.strReady n.val then
    if set && (s.seq n.val).wait = some (event.val, limit.toNat) then ok ((s.strResume n.val).strNext n.val) else ok s
  else
    ok (s.strWord n.val (vOp 12 + vD event.val + limit.toNat) fun t =>
      let u := t.setSeq n.val { t.seq n.val with tmo := false }
      if set then u.strNext n.val
      else (u.setSeq n.val { u.seq n.val with wait := some (event.val, limit.toNat), waitAt := u.now }).setStrSt n.val ssWait)

/-- WAIT_LIMIT_EXPIRY (R390): LIMIT cycles of the sequencer's 1.0 GHz clock have passed. -/
def execWaitLimitExpiry (n : Fin 12) (s : State) : Host.Outcome State Fault Refusal :=
  match (s.seq n.val).wait with
  | some (_, limit) =>
    if s.strSt n.val = ssWait && s.strReady n.val && limit ≠ 0 && limit ≤ 10 * (s.now - (s.seq n.val).waitAt) then
      let t := s.strResume n.val
      ok ((t.setSeq n.val { t.seq n.val with tmo := true }).strNext n.val)
    else ok s
  | none => ok s

/-! ### Routines (R393, R394) -/

/-- ROUTINE (R393). -/
def execRoutine (n : Fin 12) (id : BitVec 16) (s : State) : Host.Outcome State Fault Refusal :=
  ok (s.strWord n.val (vOp 13 + id.toNat) fun t =>
    let x := t.seq n.val
    ((t.setSeq n.val { x with routine := true, saved := x.g.filter fun q => 16 ≤ q.1 }).wf (R.STR_RP n.val) F.STR_RP_ADDR
      (t.strPc n.val)).strNext n.val)

/-- A COMMIT word with the action `f`: a gate abandon that is due with it prevails (R202, R397); then the routine has ended. -/
def State.strCommit (s : State) (n kind ga gb : Nat) (f : State → State) : State :=
  s.strWord n (vOp 14 + kind * 2 ^ 24 + ga * 2 ^ 19 + gb * 2 ^ 14) fun t =>
    if 8 ≤ n && (t.wc (n - 8)).abandon then t.strEvent n scGate
    else
      let u := f t
      (u.setSeq n { u.seq n with routine := false }).strNext n

/-- COMMIT_CONTEXT (R394): the staged write in context GA commits (R134), or its RETRY is written (R256) where GB selects it:
then `retry` is the word. A write commits as the head item of the write sequencer of its actuator, the only writer there (R146, R392). -/
def execCommitContext (n : Fin 12) (ga gb : Fin 32) (retry : Option Word) (s : State) : Host.Outcome State Fault Refusal :=
  ok (s.strCommit n.val 1 ga.val gb.val fun t =>
    let k := (t.g n.val ga.val).toNat % 65536
    let c := t.ctx k
    match retry with
    | some v => if c.state = cFree then t else t.setCtx k { c with retry := v.toNat }
    | none =>
      if t.wqHead n.val ≠ some (wkWrite, k) || n.val ≠ 8 + placeAct c.place then t
      else if c.state ≠ cStaged || (t.work k).discarded || !(t.work k).placed then t
      else if t.keyMissing n.val c.keySlot then t.strNoKey n.val c.keySlot
      else (t.commitRun k).settle)

/-- A FORMAT item done by STR(8 + a): the system sectors of its tracks on a surface of the actuator are written (R224, R392, R459), and a
Touchstone copy among them is the one whose rewrite waits (R230); false where its data faulted. -/
def State.formatDone (s : State) (n k : Nat) : Bool × State :=
  let c := s.ctx k
  let ssa := rdLe c.fw 0 4
  if ssaSurf ssa / 8 ≠ n - 8 || !s.headIn (ssaSurf ssa) then (true, s)
  else
    let spt := ((s.zone (ssaSurf ssa) 0).map Zone.spt).getD 0
    let copy := 2 * ssaSurf ssa + ssaTrack ssa / 32
    if ssaTrack ssa < 64 then (true, if s.touchAt (n - 8) = some copy then s.touchDone copy else s)
    else s.formatRun (strStream n) c.staging ssa 0 (rdLe c.fw 4 2 * spt - ssaSector ssa)

/-- The head item leaves sequencer n's queue; a write channel then waits for its next sector (R45, R201). -/
def State.dropItem (s : State) (n : Nat) : State :=
  let t := s.setSeq n { s.seq n with wq := (s.seq n).wq.tail }
  if 8 ≤ n then t.setWc (n - 8) { t.wc (n - 8) with sent := none } else t

/-- A write item that ends takes the abandoned run it stood for with it (R202). -/
def State.dropRun (s : State) (n : Nat) (item : Option (Nat × Nat)) : State :=
  match item with
  | some (kind, k) =>
    match (if kind = wkWrite then s.orphanAt (n - 8) k else none) with
    | some q => s.popOrphan q
    | none => s
  | none => s

/-- A DONE commit: the head item goes; a discarded write's placement is released. -/
def State.strDone (s : State) (n ga gb : Nat) : State :=
  s.strCommit n 2 ga gb fun t =>
    let v := (((t.ladderDrop n).dropItem n).dropRun n (t.seq n).wq.head?).flushFill
    if (v.seq n).wq = [] && (t.seq n).handler.isNone then v.setStrSt n ssIdle else v.strBegin n

/-- COMMIT_DONE (R392, R394): by then a FORMAT item has written its tracks; a read of its data that faults is a FAULT. -/
def execCommitDone (n : Fin 12) (ga gb : Fin 32) (s : State) : Host.Outcome State Fault Refusal :=
  match s.wqHead n.val with
  | some (kind, k) =>
    if kind = wkFormat && s.strIssues n.val (vOp 14 + 2 * 2 ^ 24 + ga.val * 2 ^ 19 + gb.val * 2 ^ 14) && !(s.wc (n.val - 8)).abandon then
      let q := s.formatDone n.val k
      ok (if q.1 then q.2.strDone n.val ga.val gb.val else q.2.strFault n.val scFault)
    else ok (s.strDone n.val ga.val gb.val)
  | none => ok (s.strDone n.val ga.val gb.val)

/-- COMMIT_MARK (R394). -/
def execCommitMark (n : Fin 12) (ga gb : Fin 32) (s : State) : Host.Outcome State Fault Refusal :=
  ok (s.strCommit n.val 3 ga.val gb.val fun t => t)

/-- RETURN_FROM_EVENT (RTE, R396): an abandoning event that was held is taken first. -/
def execReturnFromEvent (n : Fin 12) (s : State) : Host.Outcome State Fault Refusal :=
  ok (s.strWord n.val (vOp 15) fun t =>
    let x := t.seq n.val
    let u := (t.setSeq n.val { x with handler := none, keyHold := none, events := x.events.tail }).setStrSt n.val ssRun
    match x.events with
    | c :: _ => u.strAbandon n.val c
    | [] => (u.strGo n.val (t.strRp n.val)).strBegin n.val)

/-! ### Events (R395 to R397) and restart (R399, R400) -/

/-- SEQUENCER_FAULT (R395, R397). -/
def execSequencerFault (n : Fin 12) (illegal : Bool) (s : State) : Host.Outcome State Fault Refusal :=
  ok (s.strFault n.val (if illegal then scIllegal else scFault))

/-- SEQUENCER_GATE_ABANDON (R202, R395). -/
def execSequencerGateAbandon (a : Fin 4) (s : State) : Host.Outcome State Fault Refusal :=
  if (s.wc a.val).abandon then
    let t := s.strEvent (8 + a.val) scGate
    ok (if (t.seq (8 + a.val)).events.contains scGate then t else t.setWc a.val { t.wc a.val with abandon := false })
  else ok s

/-- SEQUENCER_HANDOVER (R177, R395). -/
def execSequencerHandover (n : Fin 8) (s : State) : Host.Outcome State Fault Refusal :=
  if (s.seq n.val).handTo.isSome then ok (s.strEvent n.val scHandover) else ok s

/-- SEQUENCER_ABORT (R395, R397). -/
def execSequencerAbort (i : Initiator) (n : Fin 12) (s : State) : Host.Outcome State Fault Refusal :=
  ok (s.writeStrCtl i n.val (word 2))

/-- SEQUENCER_RESTART (R400). -/
def execSequencerRestart (n : Fin 12) (by_ : RestartBy) (s : State) : Host.Outcome State Fault Refusal :=
  match by_ with
  | .write i => ok (s.writeStrCtl i n.val (word 1))
  | .handlerFault => if (s.seq n.val).handler.isSome then ok (s.strFault n.val scFault) else ok s
  | .storeError =>
    if !s.strReady n.val then ok s
    else
      let q := s.eccCheck [12] 2
      ok (if q.1 = 1 then q.2.2.carry 4 1 q.2.1 else (q.2.2.strRestart n.val none false).carry 12 2 q.2.1)

/-- PATCH_LOAD (R399, R400). -/
def execPatchLoad (n : Fin 12) (images : List (Option Nat)) (s : State) : Host.Outcome State Fault Refusal :=
  ok (s.patchLoad n.val images)

end Sys2Proof.Machine
end

