-- ==== Sys2Proof/Machine/Waymark.lean ====
section
/-!
DEFINITION. Sys2Proof/Machine/Waymark.lean: the meanings of the Waymark commands (R144 to R177, R230).
-/

namespace Sys2Proof.Machine

/-! ### Tenant purge and placement -/

/-- A WAY_TEN_PURGE write (R171): DONE is W1C, the tenant's data goes; while a purge is busy, or for an enabled tenant, the write has no
effect, and one that names no tenant purges nothing. -/
def State.writePurge (s : State) (i : Initiator) (v : Word) : State :=
  let t := fget v F.WAY_TEN_PURGE_TENANT
  if !isPair i || s.flag R.WAY_TEN_PURGE F.WAY_TEN_PURGE_BUSY then s
  else if t = 0 || 256 < t then
    if fget v F.WAY_TEN_PURGE_DONE = 1 then s.wf R.WAY_TEN_PURGE F.WAY_TEN_PURGE_DONE 0 else s
  else if s.flag (R.WAY_TEN_CFG (t - 1)) F.WAY_TEN_CFG_ENABLE then s
  else
    let s0 := (s.writeFields R.WAY_TEN_PURGE v).supersede (fun _ c => c.tenant = t) fun _ => true
    let s1 := (s0.cmd.ctxs.filter fun q => q.2.tenant = t).foldl (fun u q => u.setCtx q.1 { u.ctx q.1 with rsvGran := 0 })
      (s0.unmap fun k => k.tenant = t)
    let s2 := { s1 with cmd := { s1.cmd with objects := s1.cmd.objects.filter fun o => o.tenant ≠ t },
                        way := { s1.way with purge := some t } }
    ((s2.setRsv t 0).setUse t 0).raise R.WAY_TEN_PURGE F.WAY_TEN_PURGE_BUSY

/-- TENANT_PURGE (R171). -/
def execTenantPurge (i : Initiator) (v : Word) (s : State) : Host.Outcome State Fault Refusal := ok (s.writePurge i v)

/-- WRITE_PLACEMENT: an admitted write in MEDIA or STAGED is placed; it waits where no group can be formed (R150, R154). -/
def execWritePlacement (k : Fin 65536) (s : State) : Host.Outcome State Fault Refusal :=
  let c := s.ctx k.val
  if (c.state = cMedia || c.state = cStaged) && 0 < c.granCnt && s.ready .waymark && !(s.work k.val).discarded then
    ok ((s.placeWrite k.val).capWatch s)
  else ok s

/-- PAD sectors placed in band `b` until it holds row `r`, behind what is placed there (R152). -/
def State.padTo (s : State) (b r : Nat) : Nat → State
  | 0 => s
  | n + 1 =>
    let j := s.claimed b
    if r < j then s
    else ((s.takePlaces b 1).addLate { band := b, row := j, cls := (s.band b).cls, what := .pad }).padTo b r n

/-- ROW_PAD_TIMEOUT: the row has a committed data sector and is incomplete (R152). The PAD sectors, and the parity, are written once the
write pointers reach them (R146). -/
def execRowPadTimeout (group row : Nat) (s : State) : Host.Outcome State Fault Refusal :=
  match s.group group with
  | none => ok s
  | some g =>
    if (g.dataBands.any fun b => s.written b row) && row < g.rows && g.parityRows ≤ row && g.redund ≠ 0 then
      ok ((g.dataBands.foldl (fun t b => t.padTo b row (row + 1)) s).settle)
    else ok s

/-- A group without the members that `on` picks: missing, and remembered as lost with the unit. -/
def Group.without (g : Group) (on : Nat → Bool) : Group :=
  { g with members := g.members.map fun m => m.bind fun b => if on b then none else some b,
           gone := g.gone ++ ((List.range g.members.length).filter fun i => ((g.members[i]?).join).any on) }

/-! ### Cleaning and surveys -/

/-- Mapped data sectors of a group. -/
def State.liveOf (s : State) (g : Group) : Nat := g.dataBands.foldl (fun n b => n + (s.mappedIn b).length) 0

/-- Runs and copies placed in the bands of a group have still to be written. -/
def State.placedIn (s : State) (g : Group) : Bool := g.dataBands.any fun b => (s.band b).wp < (s.band b).next

/-- The FULL group with the lowest live fraction below LIVE_PCT (R158). -/
def State.cleanPick (s : State) : List (Nat × Group) → Option (Nat × Group)
  | [] => none
  | q :: rest =>
    let den := max 1 (dataMembers q.2.redund * q.2.rows)
    let okq := decide (q.2.st = .full) && !s.placedIn q.2 && s.liveOf q.2 * 100 < s.rf R.WAY_CLEAN_CTL F.WAY_CLEAN_CTL_LIVE_PCT * den
    match s.cleanPick rest with
    | none => if okq then some q else none
    | some p =>
      if okq && s.liveOf q.2 * max 1 (dataMembers p.2.redund * p.2.rows) ≤ s.liveOf p.2 * den then some q else some p

/-- The mapped keys of group `gn`, in its data bands and in what redundancy gives back of members it has lost. -/
def State.liveKeys (s : State) (gn : Nat) (g : Group) : List Key :=
  (g.dataBands.flatMap s.mappedIn ++ g.gone.flatMap (s.goneIn gn)).map Prod.fst

/-- Writes waiting for room are placed (R150, R157). -/
def State.placeWaiting (s : State) : State :=
  (s.cmd.ctxs.filter fun q => (q.2.state = cMedia || q.2.state = cStaged) && 0 < q.2.granCnt).foldl (fun t q => t.placeWrite q.1) s

/-- Lost sectors that `p` picks leave their place: the mapping is kept and names no sector (R147, R161, R175). -/
def State.dropLost (s : State) (p : Key × Nat → Bool) : State :=
  let move := fun q : Key × Nat => if s.way.lost.contains q.1 && p q then (q.1, noPsa) else q
  { s with way := { s.way with map := s.way.map.map move } }

/-- A group chosen for cleaning. A lost sector is not copied out: its mapping is kept, and names no sector from then on. -/
def State.beginClean (s : State) (gn : Nat) (g : Group) : State :=
  (g.present.foldl (fun t b => t.setBand b { t.band b with st := .cleaning }) (s.setGroup gn { g with st := .cleaning })).dropLost
    fun q => (s.liveKeys gn g).contains q.1

/-- Live sectors of the groups being cleaned are copied out. -/
def State.cleanCopies (s : State) : State :=
  s.copyKeys true ((s.way.groups.filter fun q => decide (q.2.st = .cleaning)).flatMap fun q => s.liveKeys q.1 q.2)

/-- CLEANER_SELECT (R158): the groups already chosen first, as room allows, then one more; what waits for room goes on. The cleaner works
once WAYMARK reads 1, and not in Haven. -/
def execCleanerSelect (s : State) : Host.Outcome State Fault Refusal :=
  if !s.ready .waymark || s.mode = mHaven then ok s
  else
    let s1 := s.cleanCopies
    let s2 := match s1.cleanPick s1.way.groups with
      | none => s1
      | some (gn, g) => (s1.beginClean gn g).cleanCopies
    ok ((s2.rebuildMissing.placeWaiting.retryCkpt).capWatch s)

/-- A due band put in order of its due time. -/
def insertDue (e : Nat × Nat) : List (Nat × Nat) → List (Nat × Nat)
  | [] => [e]
  | x :: rest => if e.2 < x.2 then e :: x :: rest else x :: insertDue e rest
def sortDue : List (Nat × Nat) → List (Nat × Nat)
  | [] => []
  | e :: rest => insertDue e (sortDue rest)

/-- A mode in which surveys run (R162). -/
def State.surveyMode (s : State) : Bool :=
  s.mode = mService || s.mode = mMigration || s.mode = mSurvey
    || (s.mode = mDormant && s.rf R.SYS_MODE F.SYS_MODE_PHASE = 1 && !s.way.wakeOver
        && 0 < s.rf R.WAY_SURVEY_CTL F.WAY_SURVEY_CTL_WAKE_MAX)

/-- SURVEY_SCHEDULE (R148, R160, R162, R176): the pass takes SURVEY_DAYS as they stand; due bands on heads in service, oldest due
first. -/
def execSurveySchedule (s : State) : Host.Outcome State Fault Refusal :=
  let s1 := { s with way := { s.way with days := (List.range 8).map s.surveyDays } }
  let due := (s1.dueBands 1440).filter fun q => s1.headIn (s1.bandSurf q.1)
  if s1.surveyMode && s1.ready .waymark then
    ok { s1 with way := { s1.way with surveys := (sortDue (due.map fun q => (q.1, s1.dueAt q.2 1440))).map Prod.fst } }
  else ok { s1 with way := { s1.way with surveys := [] } }

/-- The key mapped to sector `i` of band `b`. -/
def State.keyAt (s : State) (b i : Nat) : Option Key :=
  (s.way.map.find? fun q => q.2 = s.bandPsa b i).map Prod.fst

/-- The mapped keys of the row that a parity or copy sector protects. -/
def State.rowKeys (s : State) (b r : Nat) : List Key :=
  match spGet s.way.media (s.bandPsa b r), s.group (s.band b).group with
  | some x, some g =>
    if x.kind = 2 || x.kind = 5 then g.dataBands.filterMap fun d => s.keyAt d r else []
  | _, _ => []

/-- Key `k`, mapped in `old`, has been placed elsewhere since, or a copy of it waits to be written. -/
def State.rePlaced (s old : State) (k : Key) : Bool :=
  s.mapped k ≠ old.mapped k || (old.mapped k).any fun psa => s.copying k psa

/-- What a survey re-places for sector `i` of band `b`: its own key, or, where it is a parity or copy sector, the keys of its row,
which regain redundancy as new placements (DESIGN CHOICE: the spec re-places "the sector"). -/
def State.surveyKeys (s : State) (b i : Nat) : List Key :=
  match s.keyAt b i with
  | some k => [k]
  | none => s.rowKeys b i

/-- One sector's outcome (R161): the ladder step it was recovered at, or none. A sector known lost stays lost. REBUILT counts a sector
whose new placement has been found. -/
def State.surveySector (s : State) (b : Nat) (q : Nat × SurveyOutcome) : State :=
  let ks := (s.surveyKeys b q.1).filter fun k => !s.way.lost.contains k
  match q.2 with
  | .recovered step => if step < s.rf R.WAY_SURVEY_CTL F.WAY_SURVEY_CTL_REFRESH_STEP then s else s.copyKeys false ks
  | .unread =>
    if ks = [] then s
    else if (s.keyAt b q.1).isNone || s.recoverable (fun x => x = b) (s.bandPsa b q.1) then
      let t := s.copyKeys false ks
      if ks.all (t.rePlaced s) then t.countUp R.WAY_SURVEY_CNT F.WAY_SURVEY_CNT_REBUILT 1 else t
    else (ks.foldl (fun t k => t.loseKey k) s).countUp R.WAY_SURVEY_CNT F.WAY_SURVEY_CNT_LOST 1

/-- A sector that was to be re-placed found no room: the band's survey goes on. -/
def State.surveyStuck (s t : State) (b : Nat) (q : Nat × SurveyOutcome) : Bool :=
  (match q.2 with
    | .recovered step => s.rf R.WAY_SURVEY_CTL F.WAY_SURVEY_CTL_REFRESH_STEP ≤ step
    | .unread => true)
  && (s.surveyKeys b q.1).any fun k => !t.rePlaced s k && !t.way.lost.contains k

/-- SURVEY_BAND_DONE (R161): a sector that the ladder of a survey has lost (R257) is unread, whatever the band's report says. -/
def execSurveyBandDone (band : Nat) (found : List (Nat × SurveyOutcome)) (s : State) :
    Host.Outcome State Fault Refusal :=
  if s.way.surveys.contains band then
    let lost := fun (i : Nat) => s.way.found.contains (s.bandPsa band i)
    let told := found.filter fun q => q.1 < (s.band band).wp && !lost q.1
    let in_ := told ++ (((List.range (s.band band).wp).filter lost).map fun i => (i, .unread))
    let s1 := in_.foldl (fun t q => t.surveySector band q) s
    if in_.any fun q => s.surveyStuck s1 band q then ok s1
    else
      let s2 := { s1 with way := { s1.way with surveys := s1.way.surveys.filter (· ≠ band),
                                               found := s1.way.found.filter fun p => (s1.bandOfPsa p).map Prod.fst ≠ some band } }
      ok (s2.setBand band { s2.band band with last := s2.crn.minutes, surveyed := true })
  else ok s

/-- WAKE_MAX_EXPIRY: surveys stop for this wake (R162). -/
def execWakeMaxExpiry (s : State) : Host.Outcome State Fault Refusal :=
  if s.mode = mDormant && s.rf R.SYS_MODE F.SYS_MODE_PHASE = 1 then
    ok { s with way := { s.way with surveys := [], wakeOver := true } }
  else ok s

/-! ### Checkpoints and Touchstone -/

/-- CHECKPOINT_TIMER_EXPIRY (R168). -/
def execCheckpointTimerExpiry (s : State) : Host.Outcome State Fault Refusal :=
  if s.ready .waymark then ok s.startCkpt else ok s

/-- CHECKPOINT_BAND_COUNT (R168). -/
def execCheckpointBandCount (s : State) : Host.Outcome State Fault Refusal :=
  if s.ready .waymark && s.rf R.WAY_CKPT_CTL F.WAY_CKPT_CTL_CKPT_BANDS ≤ s.way.opened then ok s.startCkpt else ok s

/-- A WAY_CKPT_CTL write: policy by access type, GO requests a checkpoint, which waits until WAYMARK reads 1 (R168). -/
def State.writeCkptCtl (s : State) (i : Initiator) (v : Word) : State :=
  if !isPair i then s
  else
    let s1 := s.writeFields R.WAY_CKPT_CTL v
    if fget v F.WAY_CKPT_CTL_GO = 1 then
      if s1.ready .waymark then { s1 with way := { s1.way with goNext := s1.way.ckptRun.isSome } }.startCkpt
      else { s1 with way := { s1.way with ckptReq := true } }
    else s1

/-- CHECKPOINT_GO (R168). -/
def execCheckpointGo (i : Initiator) (v : Word) (s : State) : Host.Outcome State Fault Refusal := ok (s.writeCkptCtl i v)

/-- CHECKPOINT_COMPLETE (R168, R169). -/
def execCheckpointComplete (s : State) : Host.Outcome State Fault Refusal := ok s.completeCkpt

/-- The map stands on media: a Touchstone copy or a sector has been written, and an actuator's heads are to read it (R35). -/
def State.mapFromMedia (s : State) : Bool := s.way.touch ≠ [] || s.way.media ≠ []

/-- Some actuator's ACT bit reads 1, where the map is to be read from media (R35). -/
def State.mapReadable (s : State) : Bool := !s.mapFromMedia || (List.finRange 4).any fun a => s.ready (.act a)

/-- WAYMARK sets once replay is done and no surface still needs both Touchstone copies (R170, R230); a checkpoint requested before
starts. -/
def State.waymarkUp (s : State) : State := ((s.setReady .waymark true).retryCkpt).refreshMedia

/-- TOUCHSTONE_COPY_WRITTEN: the rewrite in progress on this surface ends (R230). -/
def execTouchstoneCopyWritten (surf : Fin 32) (s : State) : Host.Outcome State Fault Refusal :=
  match s.touchAt (surf.val / 8) with
  | none => ok s
  | some n =>
    if n / 2 ≠ surf.val || s.mode = mHaven then ok s
    else
      let s1 := s.touchDone n
      if s1.mode = mBedding && !s1.ready .waymark && s1.way.replayed && s1.way.touchQ = [] then ok s1.waymarkUp else ok s1

/-- The checkpoint that the MAP section of the newest valid Touchstone record names, and those its PREV end pages lead to, newest
first (R170, R229). -/
def State.namedCkpts (s : State) : List Ckpt :=
  match newestRec s.touchRecs with
  | none => []
  | some r => s.way.ckpts.dropWhile fun c => c.seq ≠ r.ckseq || c.end1 ≠ r.end1

/-- The unit states that the device reset found are in force again (R172). -/
def State.restoreUnits (s : State) : State :=
  match s.way.unitSaved with
  | some l => { (l.zip (List.range 4)).foldl (fun t q => t.wr (R.WAY_UNIT_STATE q.2) q.1) s with way := { s.way with unitSaved := none } }
  | none => s

/-- Members on the surfaces `surfs` are lost with their unit (R147, R172): their bands are RETIRED and missing from their groups; what they
held is named only as what redundancy gives back, as it is not used again (R177), and a lost sector nowhere. -/
def State.strand (s : State) (surfs : List Nat) : State :=
  let on := fun b => surfs.contains (s.bandSurf b)
  let key := fun psa => match s.bandOfPsa psa with
    | some (b, r) => if surfs.contains (psaSurf psa) && !isGone psa && psa ≠ noPsa then
        goneKey (s.band b).group (s.band b).member r else psa
    | none => psa
  let held := s.way.media.filter fun q => surfs.contains (psaSurf q.1) && q.2.kind < 2
  let s1 := s.dropLost fun q => surfs.contains (psaSurf q.2)
  let w := { s1.way with
    map := s1.way.map.map fun q => (q.1, key q.2),
    media := s1.way.media.filter fun q => !surfs.contains (psaSurf q.1),
    gone := held.foldl (fun m q => spInsert (spErase m (key q.1)) (key q.1) q.2) s1.way.gone,
    groups := s1.way.groups.map fun q : Nat × Group => (q.1, q.2.without on) }
  (s1.way.bands.filter fun q => on q.1).foldl (fun t q => t.setBand q.1 { q.2 with st := .retired, next := q.2.wp }) { s1 with way := w }

/-- WAYMARK_LOAD: the newest checkpoint that reads well; each that does not is reported (R168, R170, R441). Units that are OUT take their
bands with them, and the defect lists are read (R223). A map on media is read by heads that are ready (R35). -/
def execWaymarkLoad (bad : List Nat) (s : State) : Host.Outcome State Fault Refusal :=
  if s.ready .waymark || s.way.loaded || !s.ready .bedrock || s.kenul.isNone || !s.mapReadable then ok s
  else
    let named := s.namedCkpts
    let failed := (named.takeWhile fun c => bad.contains c.seq).length
    let s1 := (List.range failed).foldl (fun t _ => t.report 49 2) s
    let good := named.dropWhile fun c => bad.contains c.seq
    let s2 := match good with
      | c :: _ => (s1.loadTables c).restoreUnits
      | [] => s1.restoreUnits
    let s3 := (s2.strand ((s2.surfaces.map Surface.surf).filter fun x => s2.unitState 1 x = uOut)).loadLists
    ok ((s3.setWay { s3.way with loaded := true, replayed := false,
                                 rseq := s3.touchRecs.foldl (fun n q => max n (q.2.rseq + 1)) s3.way.rseq }).capWatch s)

/-- The surface has no valid copy, or the one with the higher RSEQ does not carry what the applied image gives (R230). -/
def State.touchStale (s : State) (surf : Nat) : Bool :=
  match s.kenul, newestRec (s.touchRecs.filter fun q => q.1 / 2 = surf) with
  | some k, some r => !r.matches k
  | _, _ => true

/-- Surfaces whose Touchstone content differs from the applied image get both copies rewritten, one after the other (R230). -/
def State.touchMismatch (s : State) : State :=
  if s.mode ≠ mBedding then s
  else ((s.surfsIn.filter s.touchStale).foldl
    (fun t x => (t.queueCopy (t.olderCopy x)).queueCopy (2 * x + 1 - t.olderCopy x % 2)) s).touchBegin

/-- A unit operation that a device reset found running goes on after replay, a drain from its step 2 (R176). -/
def State.resumeUnit (s : State) : State :=
  match s.way.unitOp with
  | none => s
  | some o =>
    ((s.setUnit o.kind o.unit (if o.bringIn then uCal else uDrain)).raise R.WAY_UNIT_STAT F.WAY_UNIT_STAT_BUSY).wf
      R.WAY_UNIT_STAT F.WAY_UNIT_STAT_STEP (if o.bringIn ∨ o.kind = 0 then 0 else 2)

/-- WAYMARK_REPLAY_DONE (R35, R170). -/
def execWaymarkReplayDone (s : State) : Host.Outcome State Fault Refusal :=
  if s.way.loaded && s.mapReadable then
    let s1 := s.replay
    let s2 := ({ s1 with way := { s1.way with replayed := true } }.ensureLanding.rebuildMissing).touchMismatch
    let s3 := s2.resumeUnit.capWatch s
    if s3.mode = mBedding && s3.way.touchQ ≠ [] then ok s3 else ok s3.waymarkUp
  else ok s

/-! ### Units (R172 to R177) -/

/-- Surfaces of a head or actuator. -/
def unitSurfs (kind unit : Nat) : List Nat := if kind = 1 then [unit] else (List.range 8).map fun h => unit * 8 + h

/-- The unit stands in the applied image. -/
def State.unitExists (s : State) (kind unit : Nat) : Bool :=
  match s.kenul with
  | none => false
  | some k =>
    if kind = 0 then unit < 8 && s.ldAssigned unit
    else if kind = 1 then unit < 32 && (k.surfaces.any fun x => x.surf = unit)
    else kind = 2 && unit < 4 && bitAt k.present unit

/-- The slice is its actuator's last in service with PAIR 0 or 1 (R176). -/
def State.lastSlice (s : State) (n : Nat) : Bool :=
  match s.kenul with
  | none => false
  | some k => match k.slices[n]? with
    | none => false
    | some r => r.pair < 2 && !(List.range 8).any fun m => m ≠ n && s.unitState 0 m = uIn
        && (match k.slices[m]? with | some q => q.act = r.act && q.pair < 2 | none => false)

/-- Mapped sectors on the unit: class without redundancy, and the rest. -/
def State.keysOn (s : State) (kind unit : Nat) (none0 : Bool) : List Key :=
  ((s.way.map.filter fun q => q.2 ≠ noPsa && (unitSurfs kind unit).contains (psaSurf q.2)).map Prod.fst).filter fun k =>
    decide (s.redund (s.keyClass k) = 0) = none0

/-- The orderly take-out has room (R173). -/
def State.unitRoom (s : State) (kind unit : Nat) : Bool :=
  kind = 0 || (s.keysOn kind unit true).length + (s.keysOn kind unit false).length ≤ s.freeSectors

/-- RESULT written, with the UNIT record of the command (R173, R454). -/
def State.unitResult (s : State) (op kind unit : Nat) (forced : Bool) (r : Nat) : State :=
  (s.wf R.WAY_UNIT_STAT F.WAY_UNIT_STAT_RESULT r).cairn 0 0x000A (orgBlock 0x0A)
    (argOf [(1, op), (1, kind), (1, unit), (1, b2n forced), (1, r)])

/-- Step 1 of a take-out: DRAINING, CAP drops, surveys on the unit break off, a checkpoint on it is abandoned. -/
def State.drainBegin (s : State) (kind unit : Nat) (forced : Bool) : State :=
  let s1 := (s.setUnit kind unit uDrain).raise R.WAY_UNIT_STAT F.WAY_UNIT_STAT_BUSY
  let s2 := { s1 with way := { s1.way with unitOp := some { bringIn := false, forced, kind, unit },
                                           surveys := s1.way.surveys.filter fun b => s1.headIn (s1.bandSurf b) } }
  let s3 := if kind = 0 then s2 else s2.wf R.WAY_UNIT_STAT F.WAY_UNIT_STAT_STEP 1
  (((s3.abandonCkpt).dropCopies fun n => s3.headIn (n / 2)).capWatch s).refreshMedia

/-- A unit command judged and started (R173, R175). -/
def State.unitCommand (s : State) (op kind unit : Nat) (forced : Bool) : State :=
  if s.flag R.WAY_UNIT_STAT F.WAY_UNIT_STAT_BUSY then s.unitResult op kind unit forced 1
  else if !s.unitExists kind unit then s.unitResult op kind unit forced 2
  else if op = 1 then
    if s.unitState kind unit ≠ uIn || (kind = 0 && s.lastSlice unit) then s.unitResult op kind unit forced 2
    else if !forced && !s.unitRoom kind unit then s.unitResult op kind unit forced 3
    else
      let t := (s.unitResult op kind unit forced 0).drainBegin kind unit forced
      if kind = 0 then t.handoverFrom unit else t
  else if s.unitState kind unit ≠ uOut then s.unitResult op kind unit forced 2
  else
    let s1 := ((s.unitResult op kind unit forced 0).setUnit kind unit uCal).raise R.WAY_UNIT_STAT F.WAY_UNIT_STAT_BUSY
    { s1 with way := { s1.way with unitOp := some { bringIn := true, forced := false, kind, unit } } }

/-- A WAY_UNIT_CMD write (R173). -/
def State.writeUnitCmd (s : State) (i : Initiator) (v : Word) : State :=
  let op := fget v F.WAY_UNIT_CMD_OP
  if !isPair i || (op ≠ 1 && op ≠ 2) then s
  else s.unitCommand op (fget v F.WAY_UNIT_CMD_KIND) (fget v F.WAY_UNIT_CMD_UNIT) (fget v F.WAY_UNIT_CMD_FORCE = 1)

/-- UNIT_TAKE_OUT (R174): the write names an orderly take-out. -/
def execUnitTakeOut (i : Initiator) (v : Word) (s : State) : Host.Outcome State Fault Refusal :=
  if fget v F.WAY_UNIT_CMD_OP = 1 && fget v F.WAY_UNIT_CMD_FORCE = 0 then ok (s.writeUnitCmd i v) else ok s

/-- UNIT_FORCED_TAKE_OUT (R175). -/
def execUnitForcedTakeOut (i : Initiator) (v : Word) (s : State) : Host.Outcome State Fault Refusal :=
  if fget v F.WAY_UNIT_CMD_OP = 1 && fget v F.WAY_UNIT_CMD_FORCE = 1 then ok (s.writeUnitCmd i v) else ok s

/-- UNIT_BRING_IN (R172). -/
def execUnitBringIn (i : Initiator) (v : Word) (s : State) : Host.Outcome State Fault Refusal :=
  if fget v F.WAY_UNIT_CMD_OP = 2 then ok (s.writeUnitCmd i v) else ok s

/-- The write in context `k` is placed on one of the surfaces. -/
def State.placedOn (s : State) (surfs : List Nat) (k : Nat) : Bool :=
  let p := (s.ctx k).place
  (s.work k).placed && (surfs.contains (psaSurf (placePsa1 p)) || (placeSplit p && surfs.contains (psaSurf (placePsa2 p))))

/-- The write sequencer that runs context `k` abandons its routine, which places the run again (R156, R175, R396). -/
def State.abandonRun (s : State) (k : Nat) : State :=
  let n := 8 + placeAct (s.ctx k).place
  if s.wqHead n = some (wkWrite, k) then s.strEvent n scGate else s

/-- Runs placed on the surfaces and not begun are placed again; where forced, begun ones too, whose routines are abandoned (R174, R175).
Copies on their way there are given up. -/
def State.rePlaceOn (s : State) (surfs : List Nat) (begunToo : Bool) : State :=
  let ks := (s.cmd.ctxs.map Prod.fst).filter fun k => s.placedOn surfs k && (begunToo || !(s.work k).begun)
  let s1 := ks.foldl (fun t k => if (t.work k).begun then t.abandonRun k else t) s
  (ks.foldl (fun t k => if t.placedOn surfs k then t.rePlace k else t) s1).dropLate fun b => surfs.contains (s.bandSurf b)

/-- The unit operation ends (R173). -/
def State.unitEnd (s : State) : State :=
  let s1 := (s.wf R.WAY_UNIT_STAT F.WAY_UNIT_STAT_BUSY 0).wf R.WAY_UNIT_STAT F.WAY_UNIT_STAT_STEP 0
  { s1 with way := { s1.way with unitOp := none } }.sigEvent 17

/-- Sectors that the unit's departure would lose: class-0 sectors on it, and those, on it or rebuilt from rows that it holds a member of,
that the rest of their row does not give back. -/
def State.atRisk (s : State) (kind unit : Nat) : List Key :=
  let out := fun b => (unitSurfs kind unit).contains (s.bandSurf b)
  ((s.way.map.filter fun q => q.2 ≠ noPsa && !s.way.lost.contains q.1
      && (isGone q.2 || (unitSurfs kind unit).contains (psaSurf q.2)) && !s.recoverable out q.2)).map Prod.fst

/-- What a forced take-out loses, each with its record (R161, R175). -/
def State.loseOn (s : State) (kind unit : Nat) : State :=
  (s.atRisk kind unit).foldl (fun t k => (t.loseKey k).countUp R.WAY_SURVEY_CNT F.WAY_SURVEY_CNT_LOST 1) s

/-- The slices of actuator `a` in service, lowest first. -/
def State.servingSlices (s : State) (a : Nat) : List Nat :=
  (List.range 8).filter fun n => s.unitState 0 n = uIn && s.strReady n
    && (s.kenul.any fun k => (k.slices[n]?).any fun r => s.ldAssigned n && r.act = a)

/-- A slice that can serve a read of key `k` without the unit's surfaces: of an actuator that holds another member of its row. -/
def State.otherSlice (s : State) (surfs : List Nat) (k : Key) : Option Nat :=
  match (s.mapped k).bind s.groupRow with
  | none => none
  | some (gn, _) => match s.group gn with
    | none => none
    | some g => ((g.present.filter fun b => !surfs.contains (s.bandSurf b) && s.headReadable (s.bandSurf b)).flatMap fun b =>
        s.servingSlices (s.bandAct b)).head?

/-- The read of context `k` in the queue of slice `n` passes to slice `m`, its routine abandoned where it runs. -/
def State.moveRead (s : State) (n m k : Nat) : State :=
  if s.wqFree m = 0 then s
  else if s.wqHead n = some (wkRead, k) then (s.setSeq n { s.seq n with handTo := some m }).strEvent n scHandover
  else (s.setSeq n { s.seq n with wq := (s.seq n).wq.erase (wkRead, k) }).wqAdd m wkRead k

/-- Reads in flight on the surfaces are reissued to a mirror copy, or to where the rest of their row stands; those of class-0 sectors stay
(R174 step 3). -/
def State.reissueReads (s : State) (surfs : List Nat) : State :=
  let items := (List.range 8).flatMap fun n => ((s.seq n).wq.filter fun q => q.1 = wkRead).map fun q => (n, q.2)
  items.foldl (fun t q =>
    match ((s.ctxKeys (s.ctx q.2)).filter fun k => (s.mapped k).any fun psa => surfs.contains (psaSurf psa)).filterMap (s.otherSlice surfs) with
    | m :: _ => t.moveRead q.1 m q.2
    | [] => t) s

/-- The action at the end of a take-out step, and the next step (R174, R175). Step 4 evacuates class-0 granules, and those that the rest of
their row would not give back: no acknowledged write is lost. At step 5 what is left is named by its row, and rebuilt as room allows. -/
def State.drainStep (s : State) (o : UnitOp) : State :=
  let surfs := unitSurfs o.kind o.unit
  let next := fun (t : State) (n : Nat) => t.wf R.WAY_UNIT_STAT F.WAY_UNIT_STAT_STEP n
  match s.rf R.WAY_UNIT_STAT F.WAY_UNIT_STAT_STEP with
  | 1 => next s 2
  | 2 => next (s.rePlaceOn surfs o.forced) 3
  | 3 => next (s.reissueReads surfs) (if o.forced then 5 else 4)
  | 4 =>
    let t := s.settle.copyKeys false (s.atRisk o.kind o.unit)
    if (t.atRisk o.kind o.unit).isEmpty then next t 5 else t
  | _ =>
    let s1 := if o.forced then s.loseOn o.kind o.unit else s
    let s2 := ((((s1.rePlaceOn surfs true).setUnit o.kind o.unit uOut).strand surfs).ensureLanding).rebuildMissing
    let s3 := if o.kind = 2 then s2.unloadAct o.unit ucOut else s2
    (s3.unitEnd.capWatch s).refreshMedia

/-- DRAIN_STEP_DONE (R174, R177): a slice's take-out moves no data. A drain is suspended from Haven until the re-entry to Service
(R176); an evacuation that found no room goes on at the same step. -/
def execDrainStepDone (s : State) : Host.Outcome State Fault Refusal :=
  match s.way.unitOp with
  | none => ok s
  | some o =>
    if o.bringIn || s.mode = mHaven || s.way.drainHeld then ok s
    else if o.kind = 0 then ok ((s.setUnit 0 o.unit uOut).setLdReady o.unit false).unitEnd
    else ok (s.drainStep o)

/-- Bands of surfaces brought back: FREE (R147, R172); nothing names what they held before (R177). -/
def State.reviveBands (s : State) (surfs : List Nat) : State :=
  s.freeBands ((s.way.bands.filter fun q => decide (q.2.st = .retired) && surfs.contains (s.bandSurf q.1)).map Prod.fst)

/-- UNIT_CALIBRATION_RESULT (R172): an actuator that fails its calibration is OUT, and unloads (R282, R294). -/
def execUnitCalibrationResult (pass : Bool) (s : State) : Host.Outcome State Fault Refusal :=
  match s.way.unitOp with
  | none => ok s
  | some o =>
    if !o.bringIn then ok s
    else if pass then
      let s1 := s.setUnit o.kind o.unit uIn
      let s2 := if o.kind = 0 then s1.setLdReady o.unit true else s1.reviveBands (unitSurfs o.kind o.unit)
      ok (((s2.ensureLanding.rebuildMissing).unitEnd.capWatch s).refreshMedia)
    else
      let s1 := (s.setUnit o.kind o.unit uOut).unitResult 2 o.kind o.unit false 4
      ok (if o.kind = 2 then s1.unloadAct o.unit ucOut else s1).unitEnd

end Sys2Proof.Machine
end

