-- ==== Sys2Proof/Machine/Tollgate.lean ====
section
/-!
DEFINITION. Sys2Proof/Machine/Tollgate.lean: the meanings of Tollgate's commands and events (R442 to R449).
-/

namespace Sys2Proof.Machine

/-- TGT registers are written by the pairs from machine mode and by Keystone. -/
def tgtWriter (i : Initiator) (p : Priv) : Bool := pairMachine i p || isKeystone i

/-! ### Escalation (R444 to R447) -/

/-- ACTED of source `n` set. -/
def State.actOn (s : State) (n : Nat) : State := s.wf (R.TGT_CNT n) F.TGT_CNT_ACTED 1

/-- An ESCALATE record: action 1 Haven, 2 take-out, 3 take-out refused. -/
def State.escalateRecord (s : State) (n action unit : Nat) : State :=
  s.cairn (s.latchedClass n) 0x0002 (orgSource n) (argOf [(1, n), (1, action), (1, unit)])

/-- Source `n` escalates as HAVEN. -/
def State.escalateHaven (s : State) (n : Nat) : State :=
  ((s.actOn n).requestHaven hvTollgate).escalateRecord n 1 0

/-- The bit escalates as HAVEN (R444). -/
def State.isHavenBit (s : State) (n : Nat) : Bool := s.latchedClass n = 3 || s.esc n = 1

/-- The unit of a take-out source: kind and number. -/
def takeoutUnit (n : Nat) : Nat × Nat := if n < 32 then (2, (n - 20) % 4) else (0, n - 32)

/-- A forced take-out issued for source `n`, with its record, then Waymark's own. -/
def State.issueTakeout (s : State) (n : Nat) : State :=
  let u := takeoutUnit n
  let st := s.unitState u.1 u.2
  if (s.unitCommand 1 u.1 u.2 true).rf R.WAY_UNIT_STAT F.WAY_UNIT_STAT_RESULT = 0 then
    (s.escalateRecord n 2 u.2).unitCommand 1 u.1 u.2 true
  else
    let v := (s.escalateRecord n 3 u.2).unitCommand 1 u.1 u.2 true
    if st = uDrain || st = uOut then v else v.escalateHaven n

/-- Source `n` escalates as TAKEOUT: held by Keystone while a unit command runs. -/
def State.escalateTakeout (s : State) (n : Nat) : State :=
  let t := s.actOn n
  if t.flag R.WAY_UNIT_STAT F.WAY_UNIT_STAT_BUSY then { t with tgt := { t.tgt with heldTakeouts := t.tgt.heldTakeouts ++ [n] } }
  else t.issueTakeout n

/-- Keystone acts on every pending bit: HAVEN bits, then TAKEOUT bits, each ascending (R445). -/
def State.keystoneActs (s : State) : State :=
  let l := s.pendingList
  let t := (l.filter s.isHavenBit).foldl State.escalateHaven s
  (l.filter fun n => !s.isHavenBit n).foldl State.escalateTakeout t

/-- The timer has ended: not running, nothing to act on any more. -/
def State.graceEnd (s : State) (expired : Bool) : State :=
  { s.wf R.TGT_GRACE_STAT F.TGT_GRACE_STAT_RUNNING 0 with tgt := { s.tgt with expired } }

/-- Haven entry finds nothing to do where the HBM never came up, so it settles at once (R337). -/
def State.settleUntrained (s : State) : State := if s.ready .bedrock then s else s.settleHaven

/-- GRACE_EXPIRY (R337, R445, R446). -/
def execGraceExpiry (acts : Bool) (s : State) : Host.Outcome State Fault Refusal :=
  if !s.flag R.TGT_GRACE_STAT F.TGT_GRACE_STAT_RUNNING then ok s
  else
    let t := s.graceEnd true
    if acts then
      let u := t.keystoneActs
      ok { u with tgt := { u.tgt with expired := false } }.graceUpdate.settleUntrained
    else ok t

/-- HELD_TAKEOUT_ISSUE (R445). -/
def execHeldTakeoutIssue (s : State) : Host.Outcome State Fault Refusal :=
  match s.tgt.heldTakeouts with
  | [] => ok s
  | n :: rest =>
    if s.flag R.WAY_UNIT_STAT F.WAY_UNIT_STAT_BUSY then ok s
    else ok ({ s with tgt := { s.tgt with heldTakeouts := rest } }.issueTakeout n)

/-- KEYSTONE_BACKSTOP (R446): Tollgate requests Haven itself; every pending bit is acted on with it. -/
def execKeystoneBackstop (s : State) : Host.Outcome State Fault Refusal :=
  if s.tgt.expired then
    let t := s.pendingList.foldl (fun u n => (u.actOn n).escalateRecord n 1 0) (s.requestHaven hvTollgate)
    ok { t with tgt := { t.tgt with expired := false } }.graceUpdate.settleUntrained
  else ok s

/-- Registers returned to reset by a fault in Tollgate. -/
def State.tgtDefaults (s : State) : State :=
  ((List.range tgtSources).foldl (fun t n => t.wr (R.TGT_SRC_CFG n) (resetVal (R.TGT_SRC_CFG n))) s).wr R.TGT_GRACE_CFG
    (resetVal R.TGT_GRACE_CFG)

/-- A fault inside Tollgate (R447): source 0 fatal, its escalation carried out by Tollgate itself; held before TOLLGATE sets
(R443). -/
def State.selfFault (s : State) (inj : Bool) : State :=
  let t := s.tgtDefaults.carry 0 3 inj
  if s.ready .tollgate then (t.actOn 0).graceUpdate.requestHaven hvTollgate else t

/-- TOLLGATE_SELF_CHECK (R447, R449). -/
def execTollgateSelfCheck (error : Bool) (s : State) : Host.Outcome State Fault Refusal :=
  let q := s.takeInjection [0]
  ok (if error || q.1.isSome then q.2.selfFault q.1.isSome else q.2)

/-! ### Lines, clears and the pin (R442, R443, R448) -/

/-- The sources whose arming acts on the checkers of `src`: 4 and 5 act alike, and so do Shale's two (R449). -/
def injGroup (src : Nat) : List Nat := if src = 4 || src = 5 then [4, 5] else [src]

/-- A line carries a class for one cycle. An injected error latches what a real one of its kind would: a single-bit ECC error
SRAM_CE, a double-bit one the source of its memory (R449). -/
def State.lineEvent (s : State) (src cls : Nat) : State :=
  let q := s.takeInjection (injGroup src)
  if src = 0 then q.2.selfFault q.1.isSome
  else match q.1 with
    | none => q.2.carry src cls false
    | some b =>
      if !injEcc.contains src then q.2.carry src cls true
      else if b = 1 then q.2.carry 4 1 true
      else if src = 4 then q.2.carry 5 2 true
      else q.2.carry src cls true

/-- FAULT_LATCH (R442, R449): a line carries a class of its row for one cycle, or for as long as its condition holds; class 0 ends
the condition. A fault inside Tollgate does not wait for the grace timer (R447). -/
def execFaultLatch (src : Fin 52) (cls : Fin 4) (holds : Bool) (s : State) : Host.Outcome State Fault Refusal :=
  if cls.val ≠ 0 && !(tgtClasses src.val).contains cls.val then ok s
  else if cls.val = 0 || (holds && src.val ≠ 0) then ok (s.driveLine src.val cls.val)
  else ok (s.lineEvent src.val cls.val)

/-- FAULT_PIN_PULSE_END (R448). -/
def execFaultPinPulseEnd (s : State) : Host.Outcome State Fault Refusal :=
  if s.flag R.TGT_PIN F.TGT_PIN_PULSING then
    ok ((s.wf R.TGT_PIN F.TGT_PIN_PULSING 0).wf R.TGT_PIN F.TGT_PIN_LOW (s.rf R.TGT_PIN F.TGT_PIN_HOLD))
  else ok s

/-- A write of TGT_PIN: HOLD 0 releases the pin once no pulse runs. -/
def State.writePin (s : State) (i : Initiator) (p : Priv) (v : Word) : State :=
  if !tgtWriter i p then s
  else
    let t := s.writeFields R.TGT_PIN v
    if t.flag R.TGT_PIN F.TGT_PIN_HOLD || t.flag R.TGT_PIN F.TGT_PIN_PULSING then t else t.wf R.TGT_PIN F.TGT_PIN_LOW 0

/-- FAULT_PIN_HOLD (R448). -/
def execFaultPinHold (i : Initiator) (p : Priv) (v : Word) (s : State) : Host.Outcome State Fault Refusal :=
  ok (s.writePin i p v)

/-- The sources a write of a status word names. -/
def statusBits (hiWord : Bool) (v : Word) : List Nat :=
  if hiWord then ((List.range 20).filter fun b => bitAt v.toNat b).map (· + 32)
  else (List.range 32).filter fun b => bitAt v.toNat b

/-- A latched fatal bit that may not be cleared now (R443). -/
def State.fatalHeld (s : State) (n : Nat) : Bool :=
  s.latched n && s.latchedClass n = 3 && (!s.havenSettled || spGetD 0 s.tgt.line n = 3)

/-- A write of TGT_STATUS_LO or TGT_STATUS_HI: fatal bits go to Keystone, the others clear at once (R443). -/
def State.writeTgtStatus (s : State) (i : Initiator) (p : Priv) (hiWord : Bool) (v : Word) : State :=
  let l := (statusBits hiWord v).filter s.latched
  if !tgtWriter i p || l.any s.fatalHeld then s
  else
    let fatal := l.filter fun n => s.latchedClass n = 3
    let t := (l.filter fun n => s.latchedClass n ≠ 3).foldl State.clearSource s
    if fatal = [] then t
    else
      { t.raise R.TGT_GRACE_STAT F.TGT_GRACE_STAT_BUSY with
        tgt := { t.tgt with kclr := t.tgt.kclr ++ fatal.filter fun n => !t.tgt.kclr.contains n } }

/-- FAULT_CLEAR (R443). -/
def execFaultClear (i : Initiator) (p : Priv) (hiWord : Bool) (v : Word) (s : State) : Host.Outcome State Fault Refusal :=
  ok (s.writeTgtStatus i p hiWord v)

/-- FATAL_CLEAR_DONE (R443, R447): source 0 waits for a read-back without a parity error. -/
def execFatalClearDone (parityOk : Bool) (s : State) : Host.Outcome State Fault Refusal :=
  let now := s.tgt.kclr.filter fun n => n ≠ 0 || parityOk
  let left := s.tgt.kclr.filter fun n => !(n ≠ 0 || parityOk)
  let t := now.foldl State.clearSource { s with tgt := { s.tgt with kclr := left } }
  ok (t.wf R.TGT_GRACE_STAT F.TGT_GRACE_STAT_BUSY (b2n (left ≠ [])))

/-- TOLLGATE_ARMED (R443): lines that asserted before then latch. -/
def execTollgateArmed (s : State) : Host.Outcome State Fault Refusal :=
  if s.ready .tollgate then ok s
  else
    let early := s.tgt.early
    let t := { s with tgt := { s.tgt with early := [] } }.setReady .tollgate true
    ok (early.foldl (fun u q => if q.1 = 0 then u.selfFault false else u.latch q.1 q.2 false) t)

/-! ### Configuration and injection (R444, R449) -/

/-- A write of TGT_SRC_CFG[n]: TAKEOUT for sources 20 to 39 only. -/
def State.writeSrcCfg (s : State) (i : Initiator) (p : Priv) (n : Nat) (v : Word) : State :=
  let e := fget v F.TGT_SRC_CFG_ESC
  if !tgtWriter i p || e = 3 || (e = 2 && !(20 ≤ n && n < 40)) then s
  else (s.writeFields (R.TGT_SRC_CFG n) v).graceUpdate

/-- An ARM, where it is no violation. -/
def State.injectArm (s : State) (i : Initiator) (p : Priv) (count nbits src : Nat) : State :=
  let ecc := injEcc.contains src
  if !tgtWriter i p || !(ecc || injOther.contains src) || (nbits ≠ 1 && nbits ≠ 2) || (!ecc && nbits ≠ 1)
      || s.flag R.TGT_INJ_STAT F.TGT_INJ_STAT_ARMED || count = 0 || 255 < count then s
  else
    let t := ((s.wf R.TGT_INJ_STAT F.TGT_INJ_STAT_ARMED 1).wf R.TGT_INJ_STAT F.TGT_INJ_STAT_SRC src).wf R.TGT_INJ_STAT
      F.TGT_INJ_STAT_LEFT count
    { t with tgt := { t.tgt with injBits := nbits } }

/-- DISARM ends the injection at once. -/
def State.injectDisarm (s : State) (i : Initiator) (p : Priv) : State :=
  if tgtWriter i p then (s.wf R.TGT_INJ_STAT F.TGT_INJ_STAT_ARMED 0).wf R.TGT_INJ_STAT F.TGT_INJ_STAT_LEFT 0 else s

/-- A write of TGT_INJ. -/
def State.writeInj (s : State) (i : Initiator) (p : Priv) (v : Word) : State :=
  match fget v F.TGT_INJ_OP with
  | 1 => s.injectArm i p (fget v F.TGT_INJ_COUNT) (fget v F.TGT_INJ_NBITS) (fget v F.TGT_INJ_SRC)
  | 2 => s.injectDisarm i p
  | _ => s

/-- INJECT_ARM (R449). -/
def execInjectArm (i : Initiator) (p : Priv) (count nbits : Nat) (src : Fin 64) (s : State) : Host.Outcome State Fault Refusal :=
  ok (s.injectArm i p count nbits src.val)

/-- INJECT_DISARM (R449). -/
def execInjectDisarm (i : Initiator) (p : Priv) (s : State) : Host.Outcome State Fault Refusal := ok (s.injectDisarm i p)

end Sys2Proof.Machine
end

