-- ==== Sys2Proof/Machine/Access.lean ====
section
/-!
DEFINITION. Sys2Proof/Machine/Access.lean: register accesses over Towpath (R10 to R15, R23 to R27, R366): which accesses are
violations, what a read returns and does, and a write to any register, each by the operation of its block. `o` is an offset
inside the block.
-/

namespace Sys2Proof.Machine

/-! ### Violations that concern every register (R14, R23, R24, R366) -/

/-- The island of the register at `off` is being restarted: its crossing answers (R23). -/
def State.islandDown (s : State) (off : Nat) : Bool :=
  off / 0x100000 = 0x0E && s.flag (R.STR_STAT ((off - 0xE00000) / 0x10000)) F.STR_STAT_RESTARTING

/-- The access is a violation whatever the register's own rules; of a SoC that Ballast holds in reset no register answers (R317). -/
def State.badAccess (s : State) (i : Initiator) (p : Priv) (write : Bool) (width off : Nat) : Bool :=
  s.bls.held || width ≠ 32 || off % 4 ≠ 0 || p = .user || !s.reaches i write off || (findReg off).isNone || s.islandDown off

/-! ### Writes, block by block -/

/-- A write by access type where the block lets the initiator write. -/
def State.writeIf (s : State) (open_ : Bool) (off : Nat) (v : Word) : State := if open_ then s.writeFields off v else s

/-- SYS: the rest of the registers may be written by any initiator that reaches SYS. -/
def State.writeSys (s : State) (i : Initiator) (p : Priv) (o : Nat) (v : Word) : State :=
  match o with
  | 0x024 => s.writeModeReq i p v
  | 0x280 => s.writeFusePgm i p v
  | 0x404 => s.writeIf (isPair i) o v
  | _ => s.writeFields o v

/-- TGT. -/
def State.writeTgt (s : State) (i : Initiator) (p : Priv) (o : Nat) (v : Word) : State :=
  if 0x100 ≤ o ∧ o < 0x200 then s.writeSrcCfg i p ((o - 0x100) / 4) v
  else match o with
    | 0x00 => s.writeTgtStatus i p false v
    | 0x04 => s.writeTgtStatus i p true v
    | 0x30 => s.writePin i p v
    | 0x40 => s.writeInj i p v
    | _ => s.writeIf (tgtWriter i p) (0x100000 + o) v

/-- CRN. -/
def State.writeCrn (s : State) (i : Initiator) (o : Nat) (v : Word) : State :=
  match o with
  | 0x00 => s.writeCrnCtl i v
  | 0x18 => s.writePersist i v
  | 0x1C => s.writeRelease i v
  | 0x80 => s.writeFwData i v
  | 0x84 => s.writeFwGo i v
  | _ => s.writeIf (crnWriter i) (0x200000 + o) v

/-- SIG: SIG_SRC and SIG_MTIMECMP from machine mode only (R378, R381). -/
def State.writeSig (s : State) (i : Initiator) (p : Priv) (o : Nat) (v : Word) : State :=
  if 0x800 ≤ o ∧ o < 0x840 then
    if o % 0x10 = 0 then s.writeThr i p ((o - 0x800) / 0x10) v else s.writeClaim i p ((o - 0x800) / 0x10) v
  else s.writeIf (p = .machine) (0x300000 + o) v

/-- MPO: a side's registers answer that side's endpoint only (R382). -/
def State.writeMpo (s : State) (i : Initiator) (o : Nat) (v : Word) : State :=
  let m := o / 0x100
  let r := o % 0x100
  let side := r / 0x80
  match r with
  | 0xF0 => s.writeMpoCfg i m v
  | 0xF4 => s.writeMpoTmo i m false v
  | 0xF8 => s.writeMpoTmo i m true v
  | _ => match r % 0x80 with
    | 0x00 => s.writeMpoTx i m side v
    | 0x0C => s.writeMpoDbSet i m side v
    | 0x18 => s.writeMpoAck i m side v
    | _ => s.writeIf (s.isEndpoint i m side) (0x400000 + o) v

/-- TRN. -/
def State.writeTrn (s : State) (i : Initiator) (p : Priv) (o : Nat) (v : Word) : State :=
  if 0x1000 ≤ o then s.writeSctx i p ((o - 0x1000) / 4) v
  else match o with
    | 0x108 => s.writeTrnInv i p v
    | 0x20C => if fget v F.TRN_FLT_POP_POP = 1 then s.writeFltPop i p else s
    | _ => s.writeIf (pairMachine i p) (0x500000 + o) v

/-- SHL. -/
def State.writeShl (s : State) (i : Initiator) (o : Nat) (v : Word) : State :=
  match o with
  | 0x00 => s.writeShlCtl i v
  | 0x08 => s.writeShlLock i v
  | 0x1C => s.writeShlOp i v
  | _ => s.writeIf (isPair i) (0x600000 + o) v

/-- BED: whether a spare row is left for a repair is free; ADDR and CTL of the bulk data port are locked while BUSY, and
INJ 6 is a violation (R348, R349). -/
def State.writeBed (s : State) (i : Initiator) (o : Nat) (v : Word) : State :=
  if 0x40 ≤ o ∧ o < 0x58 then s.writeArbShare i ((o - 0x40) / 4) v
  else match o with
    | 0xA0 => if isPair i then (s.free 1).2.writePpr i v ((s.free 1).1 = 1) else s
    | 0x20C => s.writeBdpGo i v
    | 0x214 => s.writeBdpData i v
    | _ =>
      let bdp : Bool := (o = 0x200 || o = 0x204 || o = 0x208) && s.flag R.BED_BDP_STAT F.BED_BDP_STAT_BUSY
      let inj : Bool := o = 0x208 && fget v F.BED_BDP_CTL_INJ = 6
      s.writeIf (isPair i && !bdp && !inj) (0x700000 + o) v

/-- CAR. -/
def State.writeCar (s : State) (i : Initiator) (o : Nat) (v : Word) : State :=
  if 0x1000 ≤ o then
    let k := (o - 0x1000) / 0x40
    let r := o % 0x40
    if r = 0 then s.writeCarCtl i k v else s.writeCarReg i k (0x800000 + o) v (r ≤ 0x14)
  else if 0x100 ≤ o then
    let g := (o - 0x100) / 8
    if o % 8 = 0 then s.writeSegWm i g v else s.writeSegFill i g v
  else if o = 4 then s.writeSwreq i (fget v F.CAR_SWREQ_LINE)
  else s

/-- OBS. -/
def State.writeObs (s : State) (i : Initiator) (o : Nat) (v : Word) : State :=
  if 0x2000 ≤ o then
    let u := (o - 0x2000) / 0x40
    let r := o % 0x40
    if r = 0 then s.writeAuCtl i u (fget v F.OBS_AU_CTL_OP) (fget v F.OBS_AU_CTL_TLEN)
    else if 0x10 ≤ r ∧ r < 0x20 then s.writeAuTag i u ((r - 0x10) / 4) v
    else s
  else if 0x1000 ≤ o then
    let p := (o - 0x1000) / 0x40
    let r := o % 0x40
    if r < 0x10 then s.writeRawIn i p (r / 4) v
    else if r = 0x10 then s.writeRawCtl i p v false
    else s
  else match o with
    | 0x10 => s.writeKeyData i v
    | 0x14 => s.writeKeyCmd i (fget v F.OBS_KEY_CMD_OP) (fget v F.OBS_KEY_CMD_SLOT)
    | _ => s.writeIf (s.obsOpen i) (0x900000 + o) v

/-- A write of WAY_CLASS[c] (R148): REDUND is locked while a group of the class exists. -/
def State.writeClass (s : State) (i : Initiator) (c : Nat) (v : Word) : State :=
  let locked := (s.way.groups.any fun g => g.2.cls = c) && fget v F.WAY_CLASS_REDUND ≠ s.redund c
  s.writeIf (isPair i && !locked) (R.WAY_CLASS c) v

/-- A write of WAY_CLEAN_CTL: FLOOR stays below RESERVE. -/
def State.writeCleanCtl (s : State) (v : Word) : State :=
  let t := s.writeFields R.WAY_CLEAN_CTL v
  (t.wf R.WAY_CLEAN_CTL F.WAY_CLEAN_CTL_FLOOR (min (t.rf R.WAY_CLEAN_CTL F.WAY_CLEAN_CTL_FLOOR)
    (t.rf R.WAY_CLEAN_CTL F.WAY_CLEAN_CTL_RESERVE - 1))).capWatch s

/-- WAY: tenant registers by the pairs only. -/
def State.writeWay (s : State) (i : Initiator) (o : Nat) (v : Word) : State :=
  if 0x10000 ≤ o then
    let t := (o - 0x10000) / 0x20
    match o % 0x20 with
    | 0x00 => s.writeTenCfg i t v
    | 0x08 => s.writeAllowHi i t v
    | _ => s.writeIf (isPair i) (0xA00000 + o) v
  else if 0x300 ≤ o ∧ o < 0x320 then s.writeClass i ((o - 0x300) / 4) v
  else match o with
    | 0x100 => s.writeTake i 0 v
    | 0x108 => s.writeTake i 1 v
    | 0x120 => s.writePost i v
    | 0x134 => s.writePop i 0 v
    | 0x13C => s.writePop i 1 v
    | 0x420 => s.writeCleanCtl v
    | 0x440 => s.writeCkptCtl i v
    | 0x500 => s.writeUnitCmd i v
    | 0x600 => s.writePurge i v
    | _ => s.writeFields (0xA00000 + o) v

/-- A write of HPx_CTX_MIN (R96, R98). -/
def State.writeCtxMin (s : State) (g : Nat) (v : Word) : State :=
  let n := if s.pers g = 3 then max 33 (fget v F.HP_CTX_MIN_MIN) else fget v F.HP_CTX_MIN_MIN
  let sum := (if s.pers g = 0 then 0 else n) + s.ctxMin (1 - g)
  if sum ≤ 32768 then s.wf (R.HP_CTX_MIN g) F.HP_CTX_MIN_MIN n else s

/-- HP of group `g`. -/
def State.writeHp (s : State) (i : Initiator) (g o : Nat) (v : Word) : State :=
  match o with
  | 0x010 => s.writeLinkCtl i g v
  | 0x040 => s.writeCtxMin g v
  | 0x104 => s.writeShdData i g v
  | 0x10C => s.writeShdCommit i g v
  | _ => s.writeFields (0xB00000 + g * 0x100000 + o) v

/-- CSW. -/
def State.writeCsw (s : State) (i : Initiator) (o : Nat) (v : Word) : State :=
  if o = 0 then s.writeCswCtl i v
  else if o = 0x10 ∨ o = 0x14 ∨ (0x40 ≤ o ∧ o < 0x80) then s.writeCswRest i (0xD00000 + o) v
  else s.writeIf (isPair i) (0xD00000 + o) v

/-- The initiator is sequencer `n`. -/
def isSeq (i : Initiator) (n : Nat) : Bool :=
  match i with
  | .str m => m.val = n
  | _ => false

/-- STR of sequencer `n`. -/
def State.writeStr (s : State) (i : Initiator) (n o : Nat) (v : Word) : State :=
  match o with
  | 0x00 => s.writeStrCtl i n v
  | 0x40 => s.writeWqPush i n (fget v F.STR_WQ_PUSH_KIND) (fget v F.STR_WQ_PUSH_CONTEXT)
  | _ => s.writeIf ((isPair i || isSeq i n) && s.strAssigned n) (0xE00000 + n * 0x10000 + o) v

/-- LOCK_TH above LOSS_TH stores LOSS_TH. -/
def capLock (v : Word) : Word :=
  fset v F.LD_MS_CTL_LOCK_TH (min (fget v F.LD_MS_CTL_LOCK_TH) (fget v F.LD_MS_CTL_LOSS_TH))

/-- LD of slice `n`. -/
def State.writeLd (s : State) (i : Initiator) (n o : Nat) (v : Word) : State :=
  let off := 0x1000000 + n * 0x100000 + o
  if 0x740 ≤ o ∧ o < 0x7C0 then
    s.writeWindow i n off (if o % 8 = 4 ∧ fget v F.LD_DFW_LEN_LEN = 0 then fset v F.LD_DFW_LEN_V 0 else v)
  else match o with
    | 0x000 => s.writeLdCfg i n v
    | 0x010 => s.writeLdSel i n v
    | 0x700 => (s.writeIf (s.ldOpen i n) off v).setRate n
    | 0x720 => s.writeReframe i n v
    | 0x800 => s.writeIf (s.ldOpen i n) off (capLock v)
    | 0x900 => s.writeRingCfg i n v
    | 0x914 => s.writeReplay i n off v
    | 0x918 => s.writeReplay i n off v
    | 0x91C => s.writeReplay i n off v
    | 0x928 => s.writeRingFind i n v
    | _ => s.writeIf (s.ldOpen i n) off v

/-- QRY. -/
def State.writeQry (s : State) (i : Initiator) (o : Nat) (v : Word) : State :=
  if 0x1000 ≤ o then
    let n := (o - 0x1000) / 0x40
    match o % 0x40 with
    | 0x10 => s.writeSubCmd i n v
    | 0x28 => s.writeCplPop i n v
    | _ => s.writeIf (s.qryOpen i n) (0x1800000 + o) v
  else if o = 0 then s.writeQryCfg i v
  else s.writeIf (s.qryGlobal i) (0x1800000 + o) v

/-- BAS. -/
def State.writeBas (s : State) (i : Initiator) (o : Nat) (v : Word) : State :=
  let off := 0x1900000 + o
  if 0x20000 ≤ o then s.writeCoef i ((o - 0x20000) / 0x100) (o % 0x100 / 0x80) off v
  else if 0x10000 ≤ o then
    let l := (o - 0x10000) / 0x40
    match o % 0x40 with
    | 0x00 => s.writeLcfg i l v
    | 0x04 => s.writeLio i l v
    | 0x08 => s.writeLfsrc i l v
    | 0x0C => s.writeLsp i l v
    | 0x10 => s.writeLlim i l v
    | 0x1C => s.writeLintLo i l v
    | 0x20 => s.writeLintHi i l v
    | _ => s.writeIf (s.basOpen i) off v
  else if 0x100 ≤ o ∧ o < 0x140 then s.writeGin i ((o - 0x100) / 4) v
  else match o with
    | 0x010 => s.writeHwm i v
    | 0x180 => s.writeKick i v
    | _ => s.writeIf (s.basOpen i) off v

/-- A write of ACTa_MS_CTL: TS is locked while the gate is open (R14, R213); LOCK_N written 0 stores 1 (R215). -/
def State.writeActMs (s : State) (i : Initiator) (a : Nat) (v : Word) : State :=
  let same := fget v F.ACT_MS_CTL_TS = s.rf (R.ACT_MS_CTL a) F.ACT_MS_CTL_TS
  let w := if fget v F.ACT_MS_CTL_LOCK_N = 0 then fset v F.ACT_MS_CTL_LOCK_N 1 else v
  (s.writeIf (actPair i && (!s.gateOpen a || same)) (R.ACT_MS_CTL a) (capLock w)).setRate (8 + a)

/-- ACT of actuator `a` (R297). -/
def State.writeAct (s : State) (i : Initiator) (a o : Nat) (v : Word) : State :=
  let off := 0x1A00000 + a * 0x40000 + o
  match o with
  | 0x00004 => s.writeActCmd i a (fget v F.ACT_CMD_OP)
  | 0x00008 => s.writeSeek i a (fget v F.ACT_SEEK_TRACK)
  | 0x00014 => s.writeSvCfg i a v
  | 0x0003C => s.writePermit i a v
  | 0x0006C => s.writeCal i a v
  | 0x00070 => s.writeDither i a v
  | 0x10010 => s.writeHsel i a 0 (fget v F.ACT_HSEL_HEAD)
  | 0x10014 => s.writeHsel i a 1 (fget v F.ACT_HSEL_HEAD)
  | 0x10020 => s.writeXfer i a v
  | 0x20000 => s.writeWcSel i a v
  | 0x20004 => s.writeWcCtl i a v
  | 0x20100 => s.writeActMs i a v
  | 0x30000 => s.writeShockCfg i v
  | _ => s.writeIf (if 0x20000 ≤ o ∧ o < 0x20100 then s.actChannel i a else actPair i) off v

/-- MIL (R299, R304). -/
def State.writeMil (s : State) (i : Initiator) (o : Nat) (v : Word) : State :=
  if 0x1000 ≤ o then s.writeMilTable i (0x1B00000 + o) v
  else match o with
    | 0x00 => s.writeMilCmd i (fget v F.MIL_CMD_OP)
    | 0x20 => s.writeMilTable i (0x1B00000 + o) v
    | 0x30 => s.writeMilHfi i v
    | _ => s.writeIf (isPair i) (0x1B00000 + o) v

/-- BLS. -/
def State.writeBls (s : State) (i : Initiator) (o : Nat) (v : Word) : State :=
  match o with
  | 0x08 => s.writeOcp i v
  | 0x20 => s.writeBankCfg i v
  | 0x2C => s.writeMeasCtl i v
  | 0x40 => s.writePfCfg i v
  | _ => s.writeIf (isPair i) (0x1C00000 + o) v

/-- KEY (R367 to R369). -/
def State.writeKey (s : State) (i : Initiator) (p : Priv) (o : Nat) (v : Word) : State :=
  match o with
  | 0x10 => s.writeHb i 0
  | 0x14 => s.writeHb i 1
  | 0x18 => s.writeHbCfg i p v
  | 0x20 => s.writeRstVec i p 0 false v
  | 0x24 => s.writeRstVec i p 0 true v
  | 0x28 => s.writeRstVec i p 1 false v
  | 0x2C => s.writeRstVec i p 1 true v
  | 0x30 => s.writePairRst i v
  | 0x50 => s.writeDevRst i v
  | 0x54 => s.writeDevReq i p v
  | _ => s

/-- A write to an existing register that the initiator reaches. -/
def State.writeReg (s : State) (i : Initiator) (p : Priv) (off : Nat) (v : Word) : State :=
  let o := off % 0x100000
  match off / 0x100000 with
  | 0x00 => s.writeSys i p o v | 0x01 => s.writeTgt i p o v | 0x02 => s.writeCrn i o v | 0x03 => s.writeSig i p o v
  | 0x04 => s.writeMpo i o v | 0x05 => s.writeTrn i p o v | 0x06 => s.writeShl i o v | 0x07 => s.writeBed i o v
  | 0x08 => s.writeCar i o v | 0x09 => s.writeObs i o v | 0x0A => s.writeWay i o v
  | 0x0B => s.writeHp i 0 o v | 0x0C => s.writeHp i 1 o v | 0x0D => s.writeCsw i o v
  | 0x0E => s.writeStr i (o / 0x10000) (o % 0x10000) v
  | 0x18 => s.writeQry i o v | 0x19 => s.writeBas i o v | 0x1A => s.writeAct i (o / 0x40000) (o % 0x40000) v
  | 0x1B => s.writeMil i o v | 0x1C => s.writeBls i o v | 0x1D => s.writeKey i p o v
  | b => if 0x10 ≤ b ∧ b < 0x18 then s.writeLd i (b - 0x10) o v else s

/-- A Towpath write (R11, R14, R15, R25): a violation is ignored; the one error response, to a full
Milepost queue, is an output. -/
def State.towWrite (s : State) (i : Initiator) (p : Priv) (width off : Nat) (v : Word) : State :=
  if s.badAccess i p true width off then s else s.writeReg i p off v

/-! ### Reads -/

/-- A read of a register that answers only some initiators, or has an effect: Signpost, Milepost, the bulk data port, the
shadow file, a quarantine buffer, Cairn's sideband window; any other register returns its value. -/
def State.readReg (s : State) (i : Initiator) (p : Priv) (off : Nat) : State :=
  let o := off % 0x100000
  let plain := s.answer (s.regValue off)
  match off / 0x100000 with
  | 0x02 =>
    if i = .sideband && o = 0xFC then { plain with crn := { plain.crn with sbWindow := 0 } }
    else if i = .sideband && o = 0x13C then { plain with crn := { plain.crn with sbWindow := plain.crn.sbWindow + 1 } }
    else plain
  | 0x03 =>
    if 0x800 ≤ o ∧ o < 0x840 then
      if o % 0x10 = 4 then s.readClaim i p ((o - 0x800) / 0x10)
      else if sigOwner i p ((o - 0x800) / 0x10) then plain else s.answer 0
    else plain
  | 0x04 =>
    let m := o / 0x100
    let r := o % 0x100
    if 0xF0 ≤ r then (if s.mboxUsable m then plain else s.answer 0)
    else if r % 0x80 = 4 then s.readMpoRx i m (r / 0x80)
    else if s.isEndpoint i m (r / 0x80) then plain else s.answer 0
  | 0x07 =>
    if o = 0x214 then s.readBdpData i
    else if o = 0x20C && isKeystone i then s.answer 0
    else plain
  | 0x09 =>
    if 0x2000 ≤ o then
      if s.auCount ≤ (o - 0x2000) / 0x40 then s.answer 0
      else if o % 0x40 = 0x20 then s.readAuData i ((o - 0x2000) / 0x40)
      else plain
    else plain
  | 0x0B => if o = 0x108 then s.readShdData 0 else plain
  | 0x0C => if o = 0x108 then s.readShdData 1 else plain
  | _ => plain

/-- A Towpath read (R11, R14): a violation returns zero. -/
def State.towRead (s : State) (i : Initiator) (p : Priv) (width off : Nat) : State :=
  if s.badAccess i p false width off then s.answer 0 else s.readReg i p off

/-- REGISTER_WRITE (R11, R14, R24). -/
def execRegisterWrite (i : Initiator) (p : Priv) (width off : Nat) (v : Word) (s : State) : Host.Outcome State Fault Refusal :=
  ok (s.towWrite i p width off v)

end Sys2Proof.Machine
end

