-- ==== Sys2Proof/Machine/Ballast.lean ====
section
/-!
DEFINITION. Sys2Proof/Machine/Ballast.lean: the meanings of Ballast's commands and events (R316 to R334, R466, R467).
-/

namespace Sys2Proof.Machine

/-! ### Rails and start-up (R316 to R318) -/

/-- AUX_INPUT_UP (R317, R466). -/
def execAuxInputUp (s : State) : Host.Outcome State Fault Refusal :=
  ok { s.raise R.BLS_STAT F.BLS_STAT_AUX_OK with sys := { s.sys with auxUp := true } }

/-- The main input lies from 10.8 to 13.2 V. -/
def mainInRange (mv : Nat) : Bool := 10800 ≤ mv && mv ≤ 13200

/-- MAIN_INPUT_UP (R317, R465, R466). -/
def execMainInputUp (mv : Nat) (s : State) : Host.Outcome State Fault Refusal :=
  let t := (s.setBls { s.bls with mainUp := s.bls.mainUp || 10800 < mv }).wf R.BLS_STAT F.BLS_STAT_MAIN_OK (b2n (mainInRange mv))
  ok ({ t with sys := { t.sys with mainMv := mv } }).charger

/-- The nominal voltage of a rail in mV: rails 1 to 6, then PA_P[a], then PA_N[a] (R316). -/
def railNominal (r : Nat) : Int :=
  match r with
  | 0 => 750 | 1 => 800 | 2 => 900 | 3 => 1800 | 4 => 1200 | 5 => 2500
  | _ => if r < 10 then 5000 else -3000

/-- A rail lies within `pct` per cent of its nominal value. -/
def railWithin (r : Nat) (mv : Int) (pct : Nat) : Bool := 100 * (mv - railNominal r).natAbs ≤ pct * (railNominal r).natAbs

/-- The monitor's bit of a preamplifier rail. -/
def State.paRail (s : State) (r : Nat) (in_ : Bool) : State :=
  s.setBls { s.bls with paOk := if bitAt s.bls.paOk (r - 6) = in_ then s.bls.paOk else s.bls.paOk ^^^ 2 ^ (r - 6) }

/-- RAIL_IN_REGULATION (R316, R317): within 3 % of nominal. Rails 1 to 6 come up in order once both inputs stand, a preamplifier's where
it is up. -/
def execRailInRegulation (r : Fin 14) (mv : Int) (s : State) : Host.Outcome State Fault Refusal :=
  if !railWithin r.val mv 3 then ok s
  else if 6 ≤ r.val then ok (if bitAt s.bls.paRails ((r.val - 6) % 4) then s.paRail r.val true else s)
  else if s.sys.auxUp && s.bls.mainUp && s.bls.rails = r.val then
    let t := s.setBls { s.bls with rails := r.val + 1 }
    ok (if r.val = 5 then t.raise R.BLS_STAT F.BLS_STAT_RAILS_OK else t)
  else ok s

/-- SOC_RELEASE (R317, R467): a power-on reset, of a SoC that Ballast holds. -/
def execSocRelease (bootcfg sbAddr : Fin 4) (rstLow : Bool) (s : State) : Host.Outcome State Fault Refusal :=
  if s.bls.rails = 6 && !s.bls.released then
    ok ((s.setBls { s.bls with released := true, held := false }).powerOn bootcfg sbAddr rstLow)
  else ok s

/-- The SoC held in reset by Ballast: its blocks as after a reset, Ballast's own registers and state as they stand. -/
def State.socReset (s : State) : State :=
  let z := s.deviceReset .keyWdog
  { z with
    regs := (z.regs.filter fun q => q.1 < 0x1c00000) ++ s.regs.filter fun q => 0x1c00000 ≤ q.1 && q.1 < 0x1d00000,
    bls := s.bls }

/-- RAIL_FAULT (R316, R317, R332): more than 6 % off. Of rails 1 to 6: emergency retract, and the SoC in reset until the next release, a
power-on reset. A preamplifier rail is reported out of regulation, and the spec gives that no other effect. -/
def execRailFault (r : Fin 14) (mv : Int) (s : State) : Host.Outcome State Fault Refusal :=
  if railWithin r.val mv 6 then ok s
  else if 6 ≤ r.val then ok (s.paRail r.val false)
  else if s.bls.rails ≤ r.val then ok s
  else
    let t := (s.setBls { s.bls with rails := r.val, released := false, held := true }).wf R.BLS_STAT F.BLS_STAT_RAILS_OK 0
    ok t.beginRetract.socReset

/-- BALLAST_READY (R318, R331): the stages' self-test has ended. -/
def execBallastReady (selfTest : Bool) (s : State) : Host.Outcome State Fault Refusal :=
  let t := (s.setBls { s.bls with selfTest }).wf R.BLS_STAT F.BLS_STAT_ARMED (b2n selfTest)
  ok (if selfTest then t.ballastCheck else t.setReady .ballast false)

/-- LINK_HEARTBEAT (R318): a valid frame brings the link up. -/
def execLinkHeartbeat (crcOk : Bool) (s : State) : Host.Outcome State Fault Refusal :=
  ok (if crcOk then (if s.flag R.BLS_STAT F.BLS_STAT_LINK then s else (s.raise R.BLS_STAT F.BLS_STAT_LINK).ballastCheck) else s.countUp R.BLS_LINK_CNT F.BLS_LINK_CNT_CRC_ERR 1)

/-- LINK_WATCHDOG_EXPIRY (R318, R332). -/
def execLinkWatchdogExpiry (s : State) : Host.Outcome State Fault Refusal :=
  if s.flag R.BLS_STAT F.BLS_STAT_LINK then
    ok ((((s.wf R.BLS_STAT F.BLS_STAT_LINK 0).setReady .ballast false).beginRetract).report 14 3)
  else ok s

/-! ### Stages (R320, R322) -/

/-- STAGE_TRIP (R319, R320): the stage's current, in mA, reaches its trip. -/
def execStageTrip (stage : Fin 9) (ma : Nat) (s : State) : Host.Outcome State Fault Refusal :=
  if tripMa stage.val ≤ ma then ok (s.stageTrip stage.val) else ok s

/-- STAGE_UNLATCH (R320). -/
def execStageUnlatch (i : Initiator) (v : Word) (s : State) : Host.Outcome State Fault Refusal := ok (s.writeOcp i v)

/-- REGEN_CLAMP (R322): the three low sides for the rest of the period. -/
def execRegenClamp (s : State) : Host.Outcome State Fault Refusal :=
  let t := s.raise R.BLS_EVT F.BLS_EVT_REGEN_CLAMP
  ok ((t.setBls { t.bls with bridge := [] }).emit (.signal 8 [1]))

/-! ### The bank (R323 to R326) -/

/-- CHARGE_TIMEOUT (R323). -/
def execChargeTimeout (s : State) : Host.Outcome State Fault Refusal := ok s.chargeTimeout

/-- BANK_MEASURE_GO (R324). -/
def execBankMeasureGo (i : Initiator) (v : Word) (s : State) : Host.Outcome State Fault Refusal := ok (s.writeMeasCtl i v)

/-- MEASURE_TIMER_EXPIRY (R324). -/
def execMeasureTimerExpiry (s : State) : Host.Outcome State Fault Refusal := if s.measureDue then ok s.measureStart else ok s

/-- BANK_MEASURE_DONE (R324). -/
def execBankMeasureDone (stepMv fallMv us : Nat) (s : State) : Host.Outcome State Fault Refusal :=
  ok (s.measureEnd stepMv fallMv us)

/-- VAULT_ALLOWANCE_UPDATE (R325, R326). -/
def execVaultAllowanceUpdate (bankMv : Nat) (s : State) : Host.Outcome State Fault Refusal := ok (s.vaultUpdate bankMv)

/-! ### Power loss (R327 to R332) -/

/-- What Ballast does at the declaration: the device runs from the bank, the bridge loses its drive supply, a measurement is
abandoned, and ARMED is programmed when acknowledged staged data is present. -/
def State.toHoldup (s : State) (bankMv : Nat) (aux : Bool) : State :=
  let t := (((s.raise R.BLS_EVT F.BLS_EVT_POWER_LOSS).wr R.BLS_BANK_V (word (min bankMv 0xFFFF))).raise R.BLS_STAT
    F.BLS_STAT_ON_HOLDUP).wf R.BLS_STAT (if aux then F.BLS_STAT_AUX_OK else F.BLS_STAT_MAIN_OK) 0
  let u := (t.wf R.BLS_MEAS_CTL F.BLS_MEAS_CTL_BUSY 0).wf R.BLS_MEAS_CTL F.BLS_MEAS_CTL_GO 0
  let w := { u with sys := { u.sys with auxUp := u.sys.auxUp && !aux } }
  let v := (w.setBls { w.bls with armed := w.bls.armed || 0 < w.cmd.acked, mainUp := w.bls.mainUp && aux, chargeWait := true }).charger
  (v.setMil { v.mil with coastStop := v.mil.coastStop || (v.milSt = miStopping && !v.mil.phase2) }).milShow

/-- POWER_LOSS (R327, R328, R332): Haven with cause POWER_LOSS, and emergency retract on a bank that cannot serve. -/
def execPowerLoss (bankMv : Nat) (aux : Bool) (s : State) : Host.Outcome State Fault Refusal :=
  if s.onHoldup then ok s
  else
    let t := (s.toHoldup bankMv aux).requestHaven hvPowerLoss
    ok (if !t.bankOk || bankMv ≤ t.vretMv then t.beginRetract.advanceHaven else t)

/-- VAULT_FLUSH_DONE (R329): nothing is left to commit. -/
def execVaultFlushDone (s : State) : Host.Outcome State Fault Refusal :=
  if s.flushOver then ok s.endFlush.advanceHaven else ok s

/-- BANK_AT_VRET (R328, R329, R332). -/
def execBankAtVret (s : State) : Host.Outcome State Fault Refusal :=
  if s.onHoldup then
    let t := (s.wr R.BLS_BANK_V (word s.vretMv)).abandonFlush
    ok (if t.allParked then t else t.beginRetract).advanceHaven
  else ok s

/-- MAIN_RETURN (R330): the input switches close; the charger waits for a settled Haven, and Cairn makes the write that fell
due (R458). -/
def execMainReturn (mv : Nat) (s : State) : Host.Outcome State Fault Refusal :=
  if mv < 10800 then ok s
  else
    let t := s.wf R.BLS_STAT F.BLS_STAT_MAIN_OK (b2n (mainInRange mv))
    let u := { t with sys := { t.sys with mainMv := mv } }
    if !u.onHoldup then ok u
    else
      let v := ((u.wf R.BLS_STAT F.BLS_STAT_ON_HOLDUP 0).raise R.BLS_EVT F.BLS_EVT_MAIN_BACK).milShow
      ok (v.setBls { v.bls with mainUp := true, chargeWait := v.bls.chargeWait && !v.havenSettled }).charger.startFlash

/-! ### Retract and temperature (R332 to R334) -/

/-- EMERGENCY_RETRACT (R332, R333): a condition of R332 holds. -/
def execEmergencyRetract (s : State) : Host.Outcome State Fault Refusal := if s.retractDue then ok s.beginRetract else ok s

/-- RETRACT_COMPLETE (R281, R303, R333). -/
def execRetractComplete (s : State) : Host.Outcome State Fault Refusal := ok s.endRetract.advanceHaven

/-- THERMAL_LEVEL_CHANGE (R334). -/
def execThermalLevelChange (deg16 : Int) (s : State) : Host.Outcome State Fault Refusal := ok (s.setTemp deg16)

end Sys2Proof.Machine
end

