-- ==== Sys2Proof/Machine/Basalt.lean ====
section
/-!
DEFINITION. Sys2Proof/Machine/Basalt.lean: the meanings of Basalt's triggers and register commands (R262 to R272). LOOP_RUN, which
reaches Millstone, stands in Spindle.lean.
-/

namespace Sys2Proof.Machine

/-- LOOP_TRIGGER (R265): a PES, MOTOR or TICK trigger for a loop whose TRIG it is. -/
def execLoopTrigger (trig : Fin 16) (l : Fin 80) (s : State) : Host.Outcome State Fault Refusal :=
  if trig.val ≠ 0 && s.rf (R.BAS_LCFG l.val) F.BAS_LCFG_TRIG = trig.val then ok (s.trigger l.val) else ok s

/-- BASALT_TICK (R265). -/
def execBasaltTick (t : Fin 2) (s : State) : Host.Outcome State Fault Refusal := ok (s.triggerAll (3 + t.val))

/-- LOOP_KICK (R265). -/
def execLoopKick (i : Initiator) (v : Word) (s : State) : Host.Outcome State Fault Refusal := ok (s.writeKick i v)

/-- LOOP_ENABLE (R262, R264, R270). -/
def execLoopEnable (i : Initiator) (l : Fin 80) (v : Word) (s : State) : Host.Outcome State Fault Refusal :=
  ok (s.writeLcfg i l.val (fset v F.BAS_LCFG_EN 1))

/-- LOOP_DISABLE (R270): the destination keeps the last command. -/
def execLoopDisable (i : Initiator) (l : Fin 80) (v : Word) (s : State) : Host.Outcome State Fault Refusal :=
  ok (s.writeLcfg i l.val (fset v F.BAS_LCFG_EN 0))

/-- LOOP_CLEAR (R262, R270): it takes effect at the next run start. -/
def execLoopClear (i : Initiator) (l : Fin 80) (s : State) : Host.Outcome State Fault Refusal :=
  ok (s.writeLcfg i l.val (fset (s.rd (R.BAS_LCFG l.val)) F.BAS_LCFG_CLR 1))

/-- BANK_SWAP (R269): it takes effect at the next run start. -/
def execBankSwap (i : Initiator) (l : Fin 80) (s : State) : Host.Outcome State Fault Refusal :=
  ok (s.writeLcfg i l.val (fset (s.rd (R.BAS_LCFG l.val)) F.BAS_LCFG_SWAP 1))

/-- INTEGRATOR_WRITE (R270). -/
def execIntegratorWrite (i : Initiator) (l : Fin 80) (v : Word) (s : State) : Host.Outcome State Fault Refusal :=
  ok (s.writeLintHi i l.val v)

/-- GENERAL_INPUT_WRITE (R263). -/
def execGeneralInputWrite (i : Initiator) (k : Fin 16) (v : Word) (s : State) : Host.Outcome State Fault Refusal :=
  ok (s.writeGin i k.val v)

/-- SERVO_HWM_CLEAR (R272). -/
def execServoHwmClear (i : Initiator) (v : Word) (s : State) : Host.Outcome State Fault Refusal := ok (s.writeHwm i v)

end Sys2Proof.Machine
end

