-- ==== Sys2Proof/Machine/Carriage.lean ====
section
/-!
DEFINITION. Sys2Proof/Machine/Carriage.lean: the meanings of Carriage's commands (R401 to R415).
-/

namespace Sys2Proof.Machine

/-- CHANNEL_START (R406, R410): a CAR_CH_CTL write with START. -/
def execChannelStart (i : Initiator) (k : Fin 32) (v : Word) (s : State) : Host.Outcome State Fault Refusal :=
  if fget v F.CAR_CH_CTL_START = 1 then ok (s.writeCarCtl i k.val v) else ok s

/-- CHANNEL_DISABLE (R413): EN written 0, the other fields as they stand. -/
def execChannelDisable (i : Initiator) (k : Fin 32) (s : State) : Host.Outcome State Fault Refusal :=
  ok (s.writeCarCtl i k.val (fset (s.rd (R.CAR_CH_CTL k.val)) F.CAR_CH_CTL_EN 0))

/-- CHANNEL_DRAINED (R413). -/
def execChannelDrained (k : Fin 32) (s : State) : Host.Outcome State Fault Refusal :=
  if (s.carCh k.val).disabled then ok (s.carDrain k.val (s.carCh k.val).writes.length) else ok s

/-- BURST_ISSUE (R409): at most eight bursts from distinct channels in flight. -/
def execBurstIssue (s : State) : Host.Outcome State Fault Refusal :=
  if 8 ≤ (s.car.ch.filter CarChan.inFlight).length then ok s
  else match s.carPick with
    | none => ok s
    | some (p, k) => ok (s.carBurst p k)

/-- BEAT_READ_RESPONSE (R411). -/
def execBeatReadResponse (k : Fin 32) (s : State) : Host.Outcome State Fault Refusal := ok (s.carRead k.val)

/-- BEAT_WRITE_RESPONSE (R411). -/
def execBeatWriteResponse (k : Fin 32) (s : State) : Host.Outcome State Fault Refusal := ok (s.carWrite k.val)

/-- REQUEST_EDGE (R408). -/
def execRequestEdge (l : Fin 64) (s : State) : Host.Outcome State Fault Refusal := ok (s.requestEdge l.val)

/-- SOFTWARE_REQUEST (R403). -/
def execSoftwareRequest (i : Initiator) (lines : BitVec 8) (s : State) : Host.Outcome State Fault Refusal :=
  ok (s.writeSwreq i lines.toNat)

/-- GENERAL_TIMER_EXPIRY (R403): timer `t` raises line `t`. -/
def execGeneralTimerExpiry (t : Fin 16) (s : State) : Host.Outcome State Fault Refusal := ok (s.requestEdge t.val)

/-- SEGMENT_ADJUST (R404). -/
def execSegmentAdjust (i : Initiator) (g : Fin 32) (adj : BitVec 12) (s : State) : Host.Outcome State Fault Refusal :=
  ok (s.writeSegFill i g.val (word (adj.toNat * 2 ^ 16)))

/-- SEGMENT_CLEAR (R404). -/
def execSegmentClear (i : Initiator) (g : Fin 32) (s : State) : Host.Outcome State Fault Refusal :=
  ok (s.writeSegFill i g.val (word (2 ^ 31)))

end Sys2Proof.Machine
end

