-- ==== Sys2Proof/Machine/Causeway.lean ====
section
/-!
DEFINITION. Sys2Proof/Machine/Causeway.lean: the meanings of Causeway's commands (R426 to R440).
-/

namespace Sys2Proof.Machine

/-- The port trains: ENABLE and CAUSEWAY are 1 (R431). -/
def State.cswOn (s : State) : Bool := s.flag R.CSW_CTL F.CSW_CTL_ENABLE && s.ready .causeway

/-- LANE_BLOCK_LOCK (R426). -/
def execLaneBlockLock (lane : Fin 2) (s : State) : Host.Outcome State Fault Refusal :=
  if s.cswOn then ok (s.wf R.CSW_LINK ⟨lane.val, lane.val⟩ 1) else ok s

/-- LANE_LOCK_LOSS (R426, R431, R437). -/
def execLaneLockLoss (lane : Fin 2) (s : State) : Host.Outcome State Fault Refusal :=
  ok (({ s with csw := { s.csw with align := s.csw.align.set lane.val none } }.wf R.CSW_LINK ⟨lane.val, lane.val⟩ 0).cswLinkDown)

/-- ALIGN_BLOCK (R427): the link is up while both lanes hold lock and their counters agree; a lane may be one block ahead until
the other's arrives. -/
def execAlignBlock (lane : Fin 2) (counter : BitVec 32) (s : State) : Host.Outcome State Fault Refusal :=
  if !s.cswOn || s.rf R.CSW_LINK ⟨lane.val, lane.val⟩ ≠ 1 then ok s
  else
    let s1 := { s with csw := { s.csw with align := s.csw.align.set lane.val (some counter.toNat) } }
    match s1.csw.align.getD (1 - lane.val) none with
    | none => ok s1
    | some o =>
      if o = counter.toNat then
        if s1.rf R.CSW_LINK F.CSW_LINK_LOCK = 3 && !s1.cswUp then
          ok ((s1.raise R.CSW_LINK F.CSW_LINK_UP).raise R.CSW_EVT F.CSW_EVT_LINK_UP)
        else ok s1
      else if counter.toNat = (o + 1) % 2 ^ 32 then ok s1
      else ok s1.cswLinkDown

/-- The ALIGN control block of a lane (R427). -/
def alignBlock (lane counter : Nat) : Nat := argOf [(1, 0x4B), (1, lane), (4, counter), (2, 0)]

/-- ALIGN_SEND (R427): both lanes at once, with the counter. -/
def execAlignSend (s : State) : Host.Outcome State Fault Refusal :=
  if s.cswOn then
    let n := s.csw.alignTx
    ok ({ s with csw := { s.csw with alignTx := (n + 1) % 2 ^ 32 } }.emit (.causeway 0x4B [alignBlock 0 n, alignBlock 1 n]))
  else ok s

/-- HELLO received (R429, R431). -/
def State.cswHello (s : State) (f : Nat) : State :=
  if frameAt f 0 2 ≠ 0x0100 then s
  else
    let s1 := { s with csw := { s.csw with seen := true } }.wf R.CSW_LINK F.CSW_LINK_PEER_ROLE (frameAt f 2 1)
    if frameAt f 3 1 % 2 = 0 || s1.cswPeer then s1
    else
      let s2 := (List.range 4).foldl (fun u i => u.wr (R.CSW_PEER_ID i) (word (frameAt f (4 + 4 * i) 4))) s1
      (s2.raise R.CSW_LINK F.CSW_LINK_PEER).raise R.CSW_EVT F.CSW_EVT_PEER

/-- HELLO_FRAME (R429, R431). -/
def execHelloFrame (len frame : Nat) (s : State) : Host.Outcome State Fault Refusal :=
  ok (s.cswRx len frame fyHello fun t => t.cswHello frame)

/-- HELLO_TIMER (R431). -/
def execHelloTimer (s : State) : Host.Outcome State Fault Refusal :=
  if s.cswOn && s.cswUp then
    ok (s.cswEmit fyHello 0 [(2, 0x0100), (1, s.cswRole), (1, b2n s.csw.seen), (16, s.driveId), (12, 0)])
  else ok s

/-- CREDIT as the peer gave it. -/
def State.setCredit (s : State) (credit : Nat) : State := { s with csw := { s.csw with credit } }

/-- ACK received (R430). -/
def State.cswAckIn (s : State) (next credit : Nat) : State :=
  let s1 := s.cswAcked next
  let s2 := s1.setCredit credit
  (s2.cswPump s2.csw.queue.length).cswGo.cswHistoryEnd

/-- ACK_FRAME (R430). -/
def execAckFrame (len frame : Nat) (s : State) : Host.Outcome State Fault Refusal :=
  ok (s.cswRx len frame fyAck fun t => t.cswAckIn (frameAt frame 0 4) (frameAt frame 4 2))

/-- NAK_FRAME (R430): the frames from NEXT on are sent again. -/
def execNakFrame (len frame : Nat) (s : State) : Host.Outcome State Fault Refusal :=
  ok (s.cswRx len frame fyNak fun t => (t.cswAcked (frameAt frame 0 4)).cswResend)

/-- RETRANSMIT_TIMEOUT (R430). -/
def execRetransmitTimeout (s : State) : Host.Outcome State Fault Refusal := if s.cswUp then ok s.cswResend else ok s

/-- ACK_KEEPALIVE (R430): CREDIT comes from the free staging, which the spec does not put in numbers: a free value. -/
def execAckKeepalive (s : State) : Host.Outcome State Fault Refusal :=
  if s.cswUp && s.cswPeer then
    let q := s.free 16
    ok (q.2.cswEmit fyAck 0 [(4, s.csw.rxNext), (2, q.1), (2, 0)])
  else ok s

/-- PEER_TIMEOUT (R431). -/
def execPeerTimeout (s : State) : Host.Outcome State Fault Refusal := if s.cswPeer then ok s.cswPeerLost else ok s

/-- PLAN_FRAME (R436, R437): SEQ 0 starts a session. -/
def execPlanFrame (len frame : Nat) (s : State) : Host.Outcome State Fault Refusal :=
  ok (s.cswRx len frame fyPlan fun t =>
    if t.cswRest && frameSeq frame = 0 then t.cswPlanIn (frameAt frame 0 8) (frameAt frame 8 32) else t)

/-- PLAN_ACK_FRAME (R437). -/
def execPlanAckFrame (len frame : Nat) (s : State) : Host.Outcome State Fault Refusal :=
  ok (s.cswFrame len frame fyPlanAck fun t => t.cswPlanAck (frameAt frame 8 1) (frameAt frame 9 1 ≠ 0) (frameAt frame 16 24))

/-- TENANT_FRAME (R434). -/
def execTenantFrame (len frame : Nat) (s : State) : Host.Outcome State Fault Refusal :=
  ok (s.cswFrame len frame fyTenant fun u =>
    u.cswTenantIn (frameAt frame 0 2) (frameAt frame 2 1 % 2) (frameAt frame 3 1 % 8) (frameAt frame 8 8))

/-- ITEM_BEGIN_FRAME (R434, R435): it is not accepted while no context is to be had under R99, and comes again. -/
def execItemBeginFrame (len frame : Nat) (s : State) : Host.Outcome State Fault Refusal :=
  ok (s.cswRx len frame fyBegin fun t =>
    if !t.fwMayTake then t
    else t.cswFrame len frame fyBegin fun u =>
      u.cswBeginIn { key := frameKey frame 0, length := frameAt frame 24 8, cls := frameAt frame 32 1 % 8,
                     st := frameAt frame 33 1, created := frameAt frame 40 8 })

/-- The granule records of a DATA frame of `len` bytes: OFFSET and the bytes as stored (R429). -/
def dataRecs (len frame : Nat) : List (Nat × Nat) :=
  (List.range ((len - 24) / 4104)).map fun i => (frameAt frame (4104 * i) 4, frameAt frame (4104 * i + 8) 4096)

/-- DATA_FRAME (R434). -/
def execDataFrame (len frame : Nat) (s : State) : Host.Outcome State Fault Refusal :=
  ok (s.cswFrame len frame fyData fun u => u.cswDataIn (dataRecs len frame))

/-- ITEM_END_FRAME (R435). -/
def execItemEndFrame (len frame : Nat) (s : State) : Host.Outcome State Fault Refusal :=
  ok (s.cswFrame len frame fyEnd fun u => u.cswEndIn (frameKey frame 0) (frameAt frame 24 4) (frameAt frame 32 48))

/-- ITEM_ABORT_FRAME (R433). -/
def execItemAbortFrame (len frame : Nat) (s : State) : Host.Outcome State Fault Refusal :=
  ok (s.cswFrame len frame fyAbort fun u => u.cswAbortIn (frameKey frame 0))

/-- ITEM_READBACK_DONE (R435). -/
def execItemReadbackDone (t kind id ofs : Nat) (lost : Bool) (s : State) : Host.Outcome State Fault Refusal :=
  ok (s.cswReadBack ⟨t, kind, id, ofs⟩ lost)

/-- VERIFIED_FRAME (R435, R436). -/
def execVerifiedFrame (len frame : Nat) (s : State) : Host.Outcome State Fault Refusal :=
  ok (s.cswFrame len frame fyVerified fun u => u.cswVerified (frameKey frame 0) (frameAt frame 24 1))

/-- HISTORY_FRAME (R440): the bytes of the stream, without what fills the last frame. -/
def execHistoryFrame (len frame : Nat) (s : State) : Host.Outcome State Fault Refusal :=
  ok (s.cswFrame len frame fyHistory fun u =>
    let ofs := frameAt frame 0 4
    let total := frameAt frame 4 4
    let n := min (len - 32) (total - ofs)
    u.cswHistoryIn ofs total n (frameAt frame 8 n))

/-- STOP_FRAME (R437). -/
def execStopFrame (len frame : Nat) (s : State) : Host.Outcome State Fault Refusal :=
  ok (s.cswFrame len frame fyStop fun u => u.cswStop (frameAt frame 0 1 % 16))

/-- END_FRAME (R437, R440): the importer is DONE once the stream is whole; END itself changes nothing more. -/
def execEndFrame (len frame : Nat) (s : State) : Host.Outcome State Fault Refusal :=
  ok (s.cswFrame len frame fyFinish fun u => u)

/-- EXPORT_GRANULE_READ (R433). -/
def execExportGranuleRead (lost : Bool) (s : State) : Host.Outcome State Fault Refusal := ok (s.exportGranule lost)

/-- SESSION_GO (R438): a CSW_CTL write with GO, the other fields as they stand. -/
def execSessionGo (i : Initiator) (s : State) : Host.Outcome State Fault Refusal :=
  ok (s.writeCswCtl i (fset (s.rd R.CSW_CTL) F.CSW_CTL_GO 1))

/-- SESSION_STOP (R437): a CSW_CTL write with STOP, the other fields as they stand. -/
def execSessionStop (i : Initiator) (s : State) : Host.Outcome State Fault Refusal :=
  ok (s.writeCswCtl i (fset (s.rd R.CSW_CTL) F.CSW_CTL_STOP 1))

/-- SESSION_DRAINED (R437). -/
def execSessionDrained (s : State) : Host.Outcome State Fault Refusal :=
  if s.cswSt = csDrain && s.cswItems = [] then ok (s.cswStopTell ceRequest) else ok s

end Sys2Proof.Machine
end

