-- ==== Sys2Proof/Machine/Modal.lean ====
section
/-!
DEFINITION. Sys2Proof/Machine/Modal.lean: events of the actuators and the spindle that a mode transition waits for (R80, R82, R281,
R294, R303, R311, R314), and the velocity Ballast measures (R321).
-/

namespace Sys2Proof.Machine

/-- Heads parked while Service is being entered from Dormant load again (R80). -/
def State.reload (s : State) (a : Nat) : State :=
  if s.mode = mDormant && s.sys.trans = Trans.toService then s.loadAct a else s

/-- UNLOAD_STALL (R281, R294): the heads are on the ramp. -/
def execUnloadStall (a : Fin 4) (s : State) : Host.Outcome State Fault Refusal :=
  if s.actSt a.val = aUnloading && stallRun ≤ (s.act a.val).stall then ok ((s.park a.val).reload a.val).advanceHaven else ok s

/-- UNLOAD_TIMEOUT (R281): PARKED all the same, and ACT_UNLOAD reports. -/
def execUnloadTimeout (a : Fin 4) (s : State) : Host.Outcome State Fault Refusal :=
  if s.actSt a.val = aUnloading then
    ok ((((s.raise (R.ACT_EVT a.val) F.ACT_EVT_UNLOAD_TMO).park a.val).reload a.val).report (24 + a.val) 2).advanceHaven
  else ok s

/-- VCM_VELOCITY_SAMPLE (R293, R294, R321): the velocity delivered, the command of the interface's own that follows it, and the stall. -/
def execVcmVelocitySample (a : Fin 4) (mv ma : List Int) (s : State) : Host.Outcome State Fault Refusal :=
  let t := s.setBls { s.bls with vel := spSet 0 s.bls.vel a.val (s.velocity a.val mv ma) }
  if t.actSt a.val = aLoading || t.actSt a.val = aUnloading then
    let u := t.ownCommand a.val
    ok (u.setAct a.val { u.act a.val with stall := if u.stalled a.val then (u.act a.val).stall + 1 else 0 })
  else ok t

/-- SPEED_REGULATED (R311): MILLSTONE sets once the speed has stayed in its band for REG_MS; in Dormant the mode logic loads the heads
(R80). -/
def execSpeedRegulated (s : State) : Host.Outcome State Fault Refusal :=
  if s.milSt = miRun && s.calmFor (s.rf R.MIL_REG F.MIL_REG_REG_MS) then
    let t := s.setMillstone true
    if t.mode = mDormant && (t.rf R.SYS_MODE F.SYS_MODE_PHASE = 1 || t.sys.trans = Trans.toService) then ok t.loadAll else ok t
  else ok s

/-- STOP_COMPLETE (R303, R314): the speed has stayed below 1 % of target for 500 ms; a spindle that Service has asked for meanwhile starts
again (R80). -/
def execStopComplete (s : State) : Host.Outcome State Fault Refusal :=
  if s.milSt = miStopping && s.mil.phase2 && s.calmFor 500 then
    let t := s.milEnter miIdle
    ok (if t.mode = mDormant && t.sys.trans = Trans.toService then t.modeSpin else t).advanceHaven
  else ok s

/-- COAST_TO_IDLE (R303): the back-EMF has stayed below BEMF_MIN for 1 s. -/
def execCoastToIdle (s : State) : Host.Outcome State Fault Refusal :=
  if s.milSt = miCoast && s.calmFor 1000 then ok (s.milEnter miIdle) else ok s

end Sys2Proof.Machine
end

