-- ==== Sys2Proof/Machine/Objects.lean ====
section
/-!
DEFINITION. Sys2Proof/Machine/Objects.lean: the meanings of the object commands (R123 to R131, R138, R139, R163).
-/

namespace Sys2Proof.Machine

/-- The object a context names. -/
def State.objOf (s : State) (c : Ctx) : Option Obj := s.cmd.objects.find? fun o => o.tenant = c.tenant && o.id = c.target

/-- An object replaced. -/
def State.setObj (s : State) (o : Obj) : State :=
  { s with cmd := { s.cmd with objects := s.cmd.objects.map fun x => if x.tenant = o.tenant && x.id = o.id then o else x } }

/-- The FLG bits that object command `n` uses (R127): CLASS and CLASS_DEFAULT, FUA of a write, SEAL of a close, CLASS. -/
def flgUsed (n : Nat) : Nat :=
  match n with
  | 0x00 => 0x0F
  | 0x01 => 0x10
  | 0x08 => 0x20
  | 0x10 => 0x07
  | _ => 0

/-- A field that object command `n` does not use is not zero, or CNT is out of range (R127). Bits 1 and 0 of a code say whether the
command carries data (R126). -/
def State.badFields (s : State) (k n : Nat) : Bool :=
  let c := s.ctx k
  let w := s.work k
  (c.granOfs ≠ 0 && !([0x01, 0x02, 0x08, 0x14].contains n)) || (w.p1 ≠ 0 && n ≠ 0x08)
    || (c.granCnt ≠ 0 && !([0x01, 0x02, 0x0E, 0x14].contains n)) || w.flg &&& flgUsed n ≠ w.flg
    || ((n = 0x01 || n = 0x02) && (c.granCnt = 0 || 512 < c.granCnt)) || (n = 0x0E && (c.granCnt = 0 || 255 < c.granCnt))
    || (c.proto = 1 && n % 4 = 0 && c.dptr ≠ 0)

/-- Object command `n`: the tenant has the object view (R131) and the fields are in order. -/
def State.objCmd (s : State) (k n : Nat) (write : Bool) (f : State → State) : State :=
  s.mediaCmd k (opObj n) write fun t =>
    let c := t.ctx k
    if !t.objView c.tenant then t.finish k (stObject c.proto 0xA)
    else if t.badFields k n then t.finish k (stInvalidField c.proto)
    else f t

/-- An object command on an object that exists; an importer's object beyond the resume point is not ready (R439). -/
def State.withObj (s : State) (k n : Nat) (write : Bool) (f : State → Obj → State) : State :=
  s.objCmd k n write fun t =>
    if !write && t.beyondResume ⟨(t.ctx k).tenant, 1, (t.ctx k).target, 0⟩ then t.finish k (stBecomingReady (t.ctx k).proto)
    else match t.objOf (t.ctx k) with
      | some o => f t o
      | none => t.finish k (stObject (t.ctx k).proto 0)

/-- A stream context (R125, R134): its index, and the state with it taken. -/
def State.takeStream (s : State) (t : Nat) : Nat × State := s.takeCtx 2 { state := cStream, origin := 4, tenant := t }

/-- OBJ_CREATE (R125, R126). -/
def execObjCreate (k : Fin 65536) (s : State) : Host.Outcome State Fault Refusal :=
  ok (s.objCmd k.val 0x00 true fun t =>
    let c := t.ctx k.val
    let flg := (t.work k.val).flg
    let cl := if bitAt flg 3 then t.rf (R.WAY_TEN_CFG (c.tenant - 1)) F.WAY_TEN_CFG_CLASS else flg % 8
    if (t.objOf c).isSome then t.finish k.val (stObject c.proto 1)
    else if 2 ^ 34 ≤ t.cmd.objects.length then t.finish k.val (stObject c.proto 5)
    else if !t.classOk cl then t.finish k.val (stObject c.proto 8)
    else if !t.fwMayTake then t.finish k.val (stObject c.proto 7)
    else
      let q := t.takeStream c.tenant
      let o : Obj := { tenant := c.tenant, id := c.target, cls := cl, stream := some q.1, created := t.crn.minutes }
      ({ q.2 with cmd := { q.2.cmd with objects := o :: q.2.cmd.objects } }).finish k.val 0)

/-- An OBJ_CLOSE on the object has been admitted, and the command in context `k` arrived after that (R139). -/
def State.afterClose (s : State) (o : Obj) (k : Nat) : Bool := o.closing.any fun q => q.1 ≠ k && q.2 ≤ (s.work k).seq

/-- OBJ_WRITE (R128, R141): of an open object, within the granules there are. -/
def execObjWrite (k keySlot : Fin 65536) (data : Nat) (s : State) : Host.Outcome State Fault Refusal :=
  ok (s.withObj k.val 0x01 true fun t o =>
    let c := t.ctx k.val
    if o.sealed then t.finish k.val (stObject c.proto 2)
    else match o.stream with
      | none => t.finish k.val (stObject c.proto 3)
      | some st =>
        if t.afterClose o k.val then t.finish k.val (stObject c.proto 3)
        else if 2 ^ 32 < c.granOfs + c.granCnt then t.finish k.val (stObject c.proto 6)
        else t.admitWrite k.val o.cls st keySlot.val data)

/-- OBJ_READ (R128): within the object's length, rounded up to a granule. -/
def execObjRead (k keySlot : Fin 65536) (cacheHit : Bool) (s : State) : Host.Outcome State Fault Refusal :=
  ok (s.withObj k.val 0x02 false fun t o =>
    let c := t.ctx k.val
    if 2 ^ 32 < c.granOfs + c.granCnt || ceilDiv o.len 4096 < c.granOfs + c.granCnt then
      t.finish k.val (stObject c.proto 6)
    else t.readRange k.val keySlot.val cacheHit)

/-- OBJ_OPEN (R124, R125). -/
def execObjOpen (k : Fin 65536) (s : State) : Host.Outcome State Fault Refusal :=
  ok (s.withObj k.val 0x04 true fun t o =>
    let c := t.ctx k.val
    if o.sealed then t.finish k.val (stObject c.proto 2)
    else if o.stream.isSome then t.finish k.val (stObject c.proto 9)
    else if !t.fwMayTake then t.finish k.val (stObject c.proto 7)
    else
      let q := t.takeStream c.tenant
      (q.2.setObj { o with stream := some q.1 }).finish k.val 0)

/-- The attribute page (R129). -/
def State.attrPage (s : State) (proto : Nat) (o : Obj) : Nat :=
  pageOf proto [(16, o.id), (8, o.len), (4, s.granulesOf o.tenant o.id), (1, o.cls), (1, o.st), (2, 0), (8, o.created),
    (8, s.surveyedOf o.tenant o.id), (16, 0)]

/-- OBJ_GET_ATTR (R129, R163). -/
def execObjGetAttr (k : Fin 65536) (s : State) : Host.Outcome State Fault Refusal :=
  ok (s.withObj k.val 0x06 false fun t o => t.finishData k.val [t.attrPage (t.ctx k.val).proto o])

/-- An OBJ_WRITE admitted on stream `st` has not yet been acknowledged (R138). -/
def State.streamBusy (s : State) (st : Nat) : Bool :=
  s.cmd.ctxs.any fun q => q.2.link = st && (s.work q.1).write && !(s.work q.1).discarded && !q.2.has fAcked && !q.2.has fCommitted
    && (q.2.state = cNew || q.2.state = cPort || q.2.state = cMedia || q.2.state = cStaged)

/-- The cut granules of an object closed at `len` bytes: those before its end, and its last one where the end lies in it (R128). -/
def cutAt (old : List (Nat × Nat)) (len : Nat) : List (Nat × Nat) :=
  let g := len / 4096
  let kept := old.filter fun q => q.1 < g
  if len % 4096 = 0 then kept else kept ++ [(g, min (len % 4096) ((spGet old g).getD 4096))]

/-- The OBJ_CLOSE in context `k` carried out: the length P1:P0, the granules wholly beyond it released (R128). -/
def State.closeObj (s : State) (k st : Nat) (o : Obj) : State :=
  let c := s.ctx k
  let len := (s.work k).p1 * 2 ^ 32 + c.granOfs
  if 2 ^ 44 < len || 4096 * o.high < len then s.finish k (stObject c.proto 6)
  else
    let t1 := s.release o.tenant fun q => q.kind = 1 && q.id = o.id && ceilDiv len 4096 ≤ q.offset
    let t2 := t1.setObj { o with length := len, stream := none, closing := none, sealed := bitAt (s.work k).flg 5,
                                 high := min o.high (ceilDiv len 4096), cut := cutAt o.cut len }
    (t2.freeCtxAt st).finish k 0

/-- An OBJ_CLOSE on object `o`: it waits for the writes admitted before it (R138). -/
def State.closeCmd (s : State) (k : Nat) (o : Obj) : State :=
  let c := s.ctx k
  if o.sealed then s.finish k (stObject c.proto 2)
  else match o.stream with
    | none => s.finish k (stObject c.proto 3)
    | some st =>
      if s.afterClose o k then s.finish k (stObject c.proto 3)
      else if o.closing.any (fun q => q.1 ≠ k) then s
      else if s.streamBusy st then if o.closing.isSome then s else s.setObj { o with closing := some (k, s.fresh) }
      else s.closeObj k st o

/-- The object whose OBJ_CLOSE has been admitted in context `k` and waits. -/
def State.waitsClose (s : State) (k : Nat) : Option Obj := s.cmd.objects.find? fun o => o.closing.any fun q => q.1 = k

/-- OBJ_CLOSE (R124, R128, R138, R139). One that was admitted and waits completes although its tenant has since been disabled (R119);
Haven entry ends it (R82, R97). -/
def execObjClose (k : Fin 65536) (s : State) : Host.Outcome State Fault Refusal :=
  match if s.isOpen k.val && s.mode ≠ mHaven then s.waitsClose k.val else none with
  | some o => ok (s.closeCmd k.val o)
  | none => ok (s.withObj k.val 0x08 true fun t o => t.closeCmd k.val o)

/-- OBJ_DELETE (R126). -/
def execObjDelete (k : Fin 65536) (s : State) : Host.Outcome State Fault Refusal :=
  ok (s.withObj k.val 0x0C true fun t o =>
    if o.stream.isSome then t.finish k.val (stObject (t.ctx k.val).proto 9)
    else
      let t1 := t.release o.tenant fun q => q.kind = 1 && q.id = o.id
      ({ t1 with cmd := { t1.cmd with objects := t1.cmd.objects.filter fun x => !(x.tenant = o.tenant && x.id = o.id) } }).finish
        k.val 0)

/-- An identifier put in ascending order. -/
def insertId (n : Nat) : List Nat → List Nat
  | [] => [n]
  | x :: rest => if n < x then n :: x :: rest else x :: insertId n rest
def sortIds : List Nat → List Nat
  | [] => []
  | n :: rest => insertId n (sortIds rest)

/-- OBJ_LIST: up to CNT identifiers from ID upward, with the count and whether more follow (R126, R129); an importer's objects
beyond the resume point are omitted (R439). -/
def execObjList (k : Fin 65536) (s : State) : Host.Outcome State Fault Refusal :=
  ok (s.objCmd k.val 0x0E false fun t =>
    let c := t.ctx k.val
    let ids := sortIds ((t.cmd.objects.filter fun o => o.tenant = c.tenant && c.target ≤ o.id
      && !t.beyondResume ⟨o.tenant, 1, o.id, 0⟩).map Obj.id)
    let got := ids.take c.granCnt
    t.finishData k.val [pageOf c.proto ([(4, got.length), (4, b2n (decide (got.length < ids.length))), (8, 0)]
      ++ got.map fun n => (16, n))])

/-- OBJ_SET_CLASS (R124, R126): allowed on a sealed object too. -/
def execObjSetClass (k : Fin 65536) (s : State) : Host.Outcome State Fault Refusal :=
  ok (s.withObj k.val 0x10 true fun t o =>
    let cl := (t.work k.val).flg % 8
    if !t.classOk cl then t.finish k.val (stObject (t.ctx k.val).proto 8)
    else (t.setObj { o with cls := cl }).finish k.val 0)

/-- OBJ_VERIFY (R126, R130): the granules repaired, or VERIFY_LOST. It reads the media, so in Haven it is a read that the cache does not
satisfy (R84, R97). -/
def execObjVerify (k : Fin 65536) (repaired : Nat) (lost : Bool) (s : State) : Host.Outcome State Fault Refusal :=
  ok (s.withObj k.val 0x14 false fun t o =>
    let c := t.ctx k.val
    let bad := t.way.lost.any fun q => q.tenant = o.tenant && q.kind = 1 && q.id = o.id
      && (c.granCnt = 0 || (c.granOfs ≤ q.offset && q.offset < c.granOfs + c.granCnt))
    if t.mode = mHaven then t.finish k.val (stHavenRead c.proto)
    else if lost || bad then t.finish k.val (stObject c.proto 0xB)
    else t.finishData k.val [repaired])

end Sys2Proof.Machine
end

