-- ==== Sys2Proof/Machine/Servo.lean ====
section
/-!
DEFINITION. Sys2Proof/Machine/Servo.lean: the meanings of the servo, load and preamplifier commands (R274 to R297) but for
UNLOAD_STALL, UNLOAD_TIMEOUT (Spindle.lean) and VCM_VELOCITY_SAMPLE (Ballast.lean).
-/

namespace Sys2Proof.Machine

/-- POSITION_SAMPLE (R274 to R281, R287). -/
def execPositionSample (a : Fin 4) (s : State) : Host.Outcome State Fault Refusal :=
  if s.actPresent a.val then ok (s.positionSample a.val) else ok s

/-- SAMPLE_MISSING_TIMEOUT (R278): an invalid sample. -/
def execSampleMissingTimeout (a : Fin 4) (s : State) : Host.Outcome State Fault Refusal :=
  if s.actPresent a.val then
    ok ((s.setAct a.val { s.act a.val with timing := none }).sample a.val false { found := false })
  else ok s

/-- ACTUATOR_LOAD (R281, R282). -/
def execActuatorLoad (i : Initiator) (a : Fin 4) (s : State) : Host.Outcome State Fault Refusal :=
  ok (s.writeActCmd i a.val 1)

/-- ACTUATOR_UNLOAD (R282, R294). -/
def execActuatorUnload (i : Initiator) (a : Fin 4) (s : State) : Host.Outcome State Fault Refusal :=
  ok (s.writeActCmd i a.val 2)

/-- SEEK (R281 to R283). -/
def execSeek (i : Initiator) (a : Fin 4) (v : Word) (s : State) : Host.Outcome State Fault Refusal :=
  ok (s.writeSeek i a.val (fget v F.ACT_SEEK_TRACK))

/-- HEAD_SELECT (R281, R292). -/
def execHeadSelect (i : Initiator) (a : Fin 4) (pair : Fin 2) (v : Word) (s : State) : Host.Outcome State Fault Refusal :=
  ok (s.writeHsel i a.val pair.val (fget v F.ACT_HSEL_HEAD))

/-- LOAD_TIMEOUT (R281). -/
def execLoadTimeout (a : Fin 4) (s : State) : Host.Outcome State Fault Refusal :=
  if s.actSt a.val = aLoading then ok (s.unloadAct a.val ucLoadFail) else ok s

/-- LOST_TIMEOUT (R281). -/
def execLostTimeout (a : Fin 4) (s : State) : Host.Outcome State Fault Refusal :=
  if s.actSt a.val = aLost then ok ((s.unloadAct a.val ucServoLost).report (20 + a.val) 2) else ok s

/-- DITHER_ENABLE (R285). -/
def execDitherEnable (i : Initiator) (a : Fin 4) (v : Word) (s : State) : Host.Outcome State Fault Refusal :=
  ok (s.writeDither i a.val v)

/-- SHOCK asserted on every actuator, and counted (R288). -/
def State.shock (s : State) : State :=
  let t := (s.raise R.ACT0_SHOCK_STAT F.ACT0_SHOCK_STAT_ACTIVE).countUp R.ACT0_SHOCK_STAT F.ACT0_SHOCK_STAT_COUNT 1
  ((List.range 4).foldl (fun u a => u.raise (R.ACT_EVT a) F.ACT_EVT_SHOCK) t).refreshPermits

/-- SHOCK_SAMPLE (R263, R288): the sensor of ACT0_SHOCK_CFG may assert shock; one that Basalt owns gives its source. -/
def execShockSample (sensor : Fin 8) (x : Int) (s : State) : Host.Outcome State Fault Refusal :=
  let t := if s.owner (0x0700 + sensor.val) = 0x40 then
      { s with bas := { s.bas with sensor := spSet 0 s.bas.sensor sensor.val (sat16 x) } }
    else s
  if t.flag R.ACT0_SHOCK_CFG F.ACT0_SHOCK_CFG_EN && t.rf R.ACT0_SHOCK_CFG F.ACT0_SHOCK_CFG_SENSOR = sensor.val
      && t.rf R.ACT0_SHOCK_CFG F.ACT0_SHOCK_CFG_THR ≤ x.natAbs then ok t.shock
  else ok t

/-- SHOCK_RELEASE (R288). -/
def execShockRelease (s : State) : Host.Outcome State Fault Refusal :=
  ok (s.wf R.ACT0_SHOCK_STAT F.ACT0_SHOCK_STAT_ACTIVE 0)

/-- PREAMP_FRAME_END (R290): the next pending frame starts. -/
def execPreampFrameEnd (a : Fin 4) (data : Fin 256) (s : State) : Host.Outcome State Fault Refusal :=
  match (s.act a.val).busy with
  | none => ok s
  | some f => ok (((s.setAct a.val { s.act a.val with busy := none }).endFrame a.val f data.val).startFrame a.val)

/-- PREAMP_STATUS_POLL (R290). -/
def execPreampStatusPoll (a : Fin 4) (s : State) : Host.Outcome State Fault Refusal :=
  if s.actPresent a.val && s.actSt a.val ≠ aParked then
    ok (s.queueFrame a.val { prio := 5, read := true, addr := s.rf (R.ACT_PA_MAP1 a.val) F.ACT_PA_MAP1_STAT_ADDR, data := 0 })
  else ok s

/-- PREAMP_RAW_TRANSFER (R290). -/
def execPreampRawTransfer (i : Initiator) (a : Fin 4) (v : Word) (s : State) : Host.Outcome State Fault Refusal :=
  ok (s.writeXfer i a.val v)

/-- PREAMP_FAULT (R286, R290): going low sets the event, clears PERMIT and reports ACT_PREAMP. -/
def execPreampFault (a : Fin 4) (low : Bool) (s : State) : Host.Outcome State Fault Refusal :=
  let t := s.setAct a.val { s.act a.val with flt := low }
  if low && !(s.act a.val).flt then
    ok (((t.raise (R.ACT_EVT a.val) F.ACT_EVT_PREAMP_FLT).refreshPermit a.val).report (28 + a.val) 2)
  else ok t

/-- The result of an enumeration that read `id` and `hmask` (R291). -/
def State.enumResult (s : State) (a id hmask : Nat) : Nat :=
  let need := 2 ^ s.heads a - 1
  if id = 0 ∨ id = 255 then enNone else if hmask &&& need = need then enOk else enMismatch

/-- An enumeration ends with what it read. -/
def State.enumEnd (s : State) (a id hmask : Nat) : State :=
  let res := s.enumResult a id hmask
  let t := ((s.setAct a { s.act a with enum := none }).wr (R.ACT_PA_ENUM a) (word (res * 2 ^ 30 + hmask * 256 + id))).refreshAct a
  if res = enOk then t else t.report (28 + a) 2

/-- PREAMP_ENUMERATION (R291, R296): both frames have ended. -/
def execPreampEnumeration (a : Fin 4) (s : State) : Host.Outcome State Fault Refusal :=
  match (s.act a.val).enum with
  | some (some id, some hmask) => ok (s.enumEnd a.val id hmask)
  | _ => ok s

end Sys2Proof.Machine
end

