-- ==== Sys2Proof/Machine/Sideband.lean ====
section
/-!
DEFINITION. Sys2Proof/Machine/Sideband.lean: the meanings of the management sideband's transactions, in SMBus and in I3C mode
(R110 to R116, R483). The device answers once SIDEBAND is set.
-/

namespace Sys2Proof.Machine

/-! ### Modes and answers -/

/-- The sideband is in I3C mode. -/
def State.i3cMode (s : State) : Bool := s.flag R.SYS_SB_STATUS F.SYS_SB_STATUS_MODE

/-- The answer to a transaction: acknowledged, and bytes. -/
def State.sbAnswer (s : State) (ack : Bool) (data : List Nat) : State := s.emit (.sideband ack data)

/-- `n` bytes of a number, the lowest first. -/
def bytesLow (v : Nat) : Nat → List Nat
  | 0 => []
  | n + 1 => v % 256 :: bytesLow (v / 256) n

/-- The sideband mailbox: the one that the image gives to owner 0x53; the lowest where it gives several (R115). -/
def State.sbBox (s : State) : Option Nat := (List.range 8).find? fun m => s.owner (mboxRes m) = 0x53

/-- Its inbound queue is full (R116). -/
def State.sbFull (s : State) : Bool :=
  match s.sbBox with
  | some m => s.mboxUsable m && 16 ≤ (s.inbound m 0).length
  | none => false

/-- The inbound queue of a mailbox with owner 0x53 is full. -/
def State.sbAnyFull (s : State) : Bool :=
  (List.range 8).any fun m => s.owner (mboxRes m) = 0x53 && s.mboxUsable m && 16 ≤ (s.inbound m 0).length

/-- In I3C mode the device NACKs its address on every private write while an inbound queue that the sideband can write is full,
so that no write that Towpath would reject can begin (R15, R116, R483). -/
def State.sbWriteNack (s : State) : Bool := s.i3cMode && s.sbAnyFull

/-- The outcome of a write's PEC byte in SMBus mode (R110): the write acts, or is NACKed, or ends without effect. I3C mode has
no PEC. -/
def State.pecOk (s : State) (p : Pec) : Bool :=
  s.i3cMode ||
    match p with
    | .good => true
    | .bad => false
    | .absent => !s.flag R.SYS_SB_CFG F.SYS_SB_CFG_PEC_REQ
def State.pecNack (s : State) (p : Pec) : Bool := !s.i3cMode && p = .bad

/-- A write of a listed code with `count` bytes where R114 shows `want`: `nack` tells of a NACK of its own at a data byte, and
`f` is its effect (R110, R116, R483). -/
def State.sbWrite (s : State) (count want : Nat) (p : Pec) (nack : Bool) (f : State → State) : State :=
  if !s.ready .sideband || s.sbWriteNack then s.sbAnswer false []
  else if count ≠ want then s.sbAnswer s.i3cMode []
  else if nack && !s.i3cMode then s.sbAnswer false []
  else if nack || !s.pecOk p then s.sbAnswer (!s.pecNack p) []
  else (f s).sbAnswer true []

/-- A read of a code: in I3C mode its private write of the code may be NACKed. -/
def State.sbRead (s : State) (f : State → State) : State :=
  if !s.ready .sideband || s.sbWriteNack then s.sbAnswer false [] else f s

/-- The pointer moved. -/
def State.setPointer (s : State) (v : Nat) : State := { s with sb := { s.sb with pointer := v % 2 ^ 32 } }

/-! ### Transactions (R114 to R116, R483) -/

/-- SB_SET_POINTER. -/
def execSbSetPointer (count v : Nat) (pec : Pec) (s : State) : Host.Outcome State Fault Refusal :=
  ok (s.sbWrite count 4 pec (v % 4 ≠ 0) fun t => t.setPointer v)

/-- SB_READ. -/
def execSbRead (s : State) : Host.Outcome State Fault Refusal :=
  ok (s.sbRead fun t =>
    let u := t.towRead .sideband .machine 32 t.sb.pointer
    (u.setPointer (t.sb.pointer + 4)).sbAnswer true (bytesLow u.resp.toNat 4))

/-- The pointer names MPO_TX of a mailbox with owner 0x53 whose inbound queue is full: Towpath rejects the write (R15, R483). -/
def State.sbTxFull (s : State) : Bool :=
  (List.range 8).any fun m => s.owner (mboxRes m) = 0x53 && s.mboxUsable m && 16 ≤ (s.inbound m 0).length
    && s.sb.pointer = R.MPO_TX m 1

/-- SB_WRITE: a register write that Towpath rejects is NACKed at the last data byte and moves nothing (R15, R483). -/
def execSbWrite (count : Nat) (v : Word) (pec : Pec) (s : State) : Host.Outcome State Fault Refusal :=
  ok (s.sbWrite count 4 pec s.sbTxFull fun t =>
    (t.towWrite .sideband .machine 32 t.sb.pointer v).setPointer (t.sb.pointer + 4))

/-- SB_MAILBOX_SEND: NACKed while the queue is full; ignored without a mailbox. -/
def execSbMailboxSend (count : Nat) (v : Word) (pec : Pec) (s : State) : Host.Outcome State Fault Refusal :=
  ok (s.sbWrite (if s.sbFull then 4 else count) 4 pec s.sbFull fun t =>
    match t.sbBox with
    | some m => t.writeMpoTx .sideband m 1 v
    | none => t)

/-- SB_MAILBOX_RECEIVE: the number of words, then the oldest, removed; zeros without a mailbox. -/
def execSbMailboxReceive (s : State) : Host.Outcome State Fault Refusal :=
  ok (s.sbRead fun t =>
    match t.sbBox with
    | some m =>
      if t.mboxUsable m then
        let q := t.inbound m 1
        (t.setInbound m 1 (q.drop 1)).sbAnswer true (q.length :: bytesLow (q.headD 0) 4)
      else t.sbAnswer true [0, 0, 0, 0, 0]
    | none => t.sbAnswer true [0, 0, 0, 0, 0])

/-- SB_DEVICE_RESET: bytes 0xA5, 0x5A, 0x01. -/
def execSbDeviceReset (count v : Nat) (pec : Pec) (s : State) : Host.Outcome State Fault Refusal :=
  ok (s.sbWrite count 3 pec false fun t =>
    if v % 2 ^ 24 = 0x015AA5 && t.flag R.SYS_SB_CFG F.SYS_SB_CFG_RESET_EN then t.flushFirst .sideband else t)

/-- SB_UNKNOWN_CODE: a write is ignored, a read returns four zero bytes. -/
def execSbUnknownCode (_code : Nat) (read : Bool) (s : State) : Host.Outcome State Fault Refusal :=
  ok (s.sbRead fun t => t.sbAnswer true (if read then [0, 0, 0, 0] else []))

/-- SMBUS_CLOCK_TIMEOUT: the transaction in progress is abandoned, with none of its effect. -/
def execSmbusClockTimeout (s : State) : Host.Outcome State Fault Refusal :=
  ok (if s.i3cMode then s else s.sbAnswer false [])

/-! ### I3C (R111, R112) -/

/-- An address is assigned. -/
def State.i3cAssign (s : State) (addr : Nat) : State :=
  (((s.wf R.SYS_SB_STATUS F.SYS_SB_STATUS_DYN_ADDR addr).wf R.SYS_SB_STATUS F.SYS_SB_STATUS_MODE 1).wf R.SYS_SB_STATUS
    F.SYS_SB_STATUS_HJ 2)

/-- Hot-join is attempted while no address is assigned: SIDEBAND, HJ_EN, not disabled by DISEC, fewer than 64 attempts. -/
def State.hotJoins (s : State) : Bool :=
  s.ready .sideband && s.flag R.SYS_SB_CFG F.SYS_SB_CFG_HJ_EN && s.sb.hjAllowed && !s.i3cMode && s.sb.attempts < 64

/-- I3C_ENTDAA: a device that has an address takes no part. -/
def execI3cEntdaa (addr : Fin 128) (s : State) : Host.Outcome State Fault Refusal :=
  ok (if s.ready .sideband && !s.i3cMode then (s.i3cAssign addr.val).sbAnswer true [] else s)

/-- I3C_SETDASA at the device's static address, which answers while no address is assigned. -/
def execI3cSetdasa (static addr : Fin 128) (s : State) : Host.Outcome State Fault Refusal :=
  ok (if s.ready .sideband && !s.i3cMode && static.val = fget (s.regValue R.SYS_SB_STATUS) F.SYS_SB_STATUS_STATIC_ADDR then
        (s.i3cAssign addr.val).sbAnswer true []
      else s)

/-- I3C_RSTDAA: SMBus mode again, and hot-join anew. -/
def execI3cRstdaa (s : State) : Host.Outcome State Fault Refusal :=
  if s.ready .sideband && s.i3cMode then
    let t := ({ s with sb := { s.sb with attempts := 0 } }.wf R.SYS_SB_STATUS F.SYS_SB_STATUS_DYN_ADDR 0).wf R.SYS_SB_STATUS
      F.SYS_SB_STATUS_MODE 0
    ok ((t.wf R.SYS_SB_STATUS F.SYS_SB_STATUS_HJ (if t.hotJoins then 1 else if t.sb.hjAllowed then 0 else 3)).sbAnswer true [])
  else ok s

/-- I3C_ENEC. -/
def execI3cEnec (hj ibi : Bool) (s : State) : Host.Outcome State Fault Refusal :=
  if s.ready .sideband then
    let t := { s with sb := { s.sb with hjAllowed := s.sb.hjAllowed || hj, ibiAllowed := s.sb.ibiAllowed || ibi } }
    ok ((if hj && t.hotJoins then t.wf R.SYS_SB_STATUS F.SYS_SB_STATUS_HJ 1 else t).sbAnswer true [])
  else ok s

/-- I3C_DISEC: it stops hot-join. -/
def execI3cDisec (hj ibi : Bool) (s : State) : Host.Outcome State Fault Refusal :=
  if s.ready .sideband then
    let t := if hj && s.hotJoins then s.wf R.SYS_SB_STATUS F.SYS_SB_STATUS_HJ 3 else s
    ok ({ t with sb := { t.sb with hjAllowed := t.sb.hjAllowed && !hj, ibiAllowed := t.sb.ibiAllowed && !ibi } }.sbAnswer
      true [])
  else ok s

/-- A directed CCC that reads: answered at the dynamic address alone. -/
def State.cccRead (s : State) (f : State → State) : State :=
  if s.ready .sideband && s.i3cMode then f s else s.sbAnswer false []

/-- The bytes of a number, the highest first, as I3C sends them. -/
def bytesHigh (v n : Nat) : List Nat := (bytesLow v n).reverse

/-- I3C_GETPID. -/
def execI3cGetpid (s : State) : Host.Outcome State Fault Refusal :=
  ok (s.cccRead fun t => t.sbAnswer true
    (bytesHigh ((t.regValue R.SYS_SB_PID_LO).toNat + 2 ^ 32 * ((t.regValue R.SYS_SB_PID_HI).toNat % 2 ^ 16)) 6))

/-- I3C_GETBCR: 0x02. -/
def execI3cGetbcr (s : State) : Host.Outcome State Fault Refusal := ok (s.cccRead fun t => t.sbAnswer true [0x02])

/-- I3C_GETDCR: 0x00. -/
def execI3cGetdcr (s : State) : Host.Outcome State Fault Refusal := ok (s.cccRead fun t => t.sbAnswer true [0x00])

/-- I3C_GETSTATUS: two bytes that the spec does not give, a free value. -/
def execI3cGetstatus (s : State) : Host.Outcome State Fault Refusal :=
  ok (s.cccRead fun t => (t.free 16).2.sbAnswer true (bytesHigh (t.free 16).1 2))

/-- I3C_GETMWL_GETMRL: two bytes that the spec does not give, a free value. -/
def execI3cGetmwlGetmrl (_read : Bool) (s : State) : Host.Outcome State Fault Refusal :=
  ok (s.cccRead fun t => (t.free 16).2.sbAnswer true (bytesHigh (t.free 16).1 2))

/-- HOT_JOIN_ATTEMPT: the 64th is the last. -/
def execHotJoinAttempt (s : State) : Host.Outcome State Fault Refusal :=
  ok (if s.hotJoins then
        let n := s.sb.attempts + 1
        ({ s with sb := { s.sb with attempts := n } }.wf R.SYS_SB_STATUS F.SYS_SB_STATUS_HJ (if n = 64 then 3 else 1)).emit
          (.i3c 0)
      else s)

end Sys2Proof.Machine
end

