-- ==== Sys2Proof/Machine/Spindle.lean ====
section
/-!
DEFINITION. Sys2Proof/Machine/Spindle.lean: the meanings of Millstone's commands and events (R298 to R315), and of LOOP_RUN, which
feeds it. SPEED_REGULATED, STOP_COMPLETE and COAST_TO_IDLE, which a mode transition may wait for, stand in Modal.lean.
-/

namespace Sys2Proof.Machine

/-- SPINDLE_START (R303, R304). -/
def execSpindleStart (i : Initiator) (s : State) : Host.Outcome State Fault Refusal := ok (s.writeMilCmd i 1)

/-- SPINDLE_STOP (R303, R304). -/
def execSpindleStop (i : Initiator) (s : State) : Host.Outcome State Fault Refusal := ok (s.writeMilCmd i 2)

/-- SPINDLE_STOP_BRAKE (R303, R304, R314). -/
def execSpindleStopBrake (i : Initiator) (s : State) : Host.Outcome State Fault Refusal := ok (s.writeMilCmd i 3)

/-- MILLSTONE_TICK (R298 to R301, R305 to R315). -/
def execMillstoneTick (volts amps : Phases) (s : State) : Host.Outcome State Fault Refusal := ok (s.milTick volts amps)

/-- The end of the catch window as R306 acts on it: the action's number. -/
def State.catchAction (s : State) (usable : Bool) : Nat :=
  let r := s.mil.rpmC
  if !usable then 0
  else if r < 0 then 3
  else if (10 * s.targetRpm : Nat) ≤ r then 2
  else if (3 * s.targetRpm : Nat) ≤ r then 1
  else 0

/-- MIL_CATCH_RES of a catch that ended with `act`. -/
def State.catchResult (s : State) (act : Nat) : State :=
  let pct := if s.targetRpm = 0 then 0 else min 1023 (roundDiv (10 * s.mil.rpmC.natAbs) s.targetRpm).toNat
  s.wr R.MIL_CATCH_RES (word (2 ^ 31 + b2n (act = 3) * 2 ^ 28 + act * 2 ^ 24 + pct))

/-- `st` entered with the ramp reference, the angle and the speed of the catch `x`: the back-EMF leads θ by 16,384 (R298). -/
def State.seed (s : State) (st : Nat) (x : MilState) : State :=
  let t := s.toDriven st (s.speedQ s.mil.rpmC)
  (t.setMil { t.mil with theta := (x.vec.getD 0 + 49152) % 65536, omega := if x.ticks = 0 then 0 else x.moved / x.ticks }).showAngle

/-- Where a catch goes on with `act`: 2 RAMP, 1 HFI, 3 BRAKE, 0 ALIGN. -/
def State.catchGo (s : State) (act : Nat) : State :=
  match act with
  | 2 => s.seed miRamp s.mil
  | 1 => s.seed miHfi s.mil
  | 3 =>
    let t := s.milEnter miBrake
    t.setMil { t.mil with brake := true }
  | _ => s.milEnter miAlign

/-- The catch window's end: the speed of what it saw, and the action. -/
def State.catchEnd (s : State) : State :=
  let usable := s.mil.bemf
  let s1 := (s.setSpeed (if usable then s.rpmOf s.mil.moved s.mil.ticks else 0)).raise R.MIL_EVT F.MIL_EVT_CATCH_DONE
  let act := s1.catchAction usable
  (s1.catchResult act).catchGo act

/-- CATCH_WINDOW_END (R305, R306): two revolutions, or CATCH_MS. -/
def execCatchWindowEnd (s : State) : Host.Outcome State Fault Refusal :=
  if s.milSt = miCatch && s.catchOver then ok s.catchEnd else ok s

/-- BRAKE_TIMEOUT (R303, R306): 5 s in BRAKE, SPIN_REVERSE_STUCK. -/
def execBrakeTimeout (s : State) : Host.Outcome State Fault Refusal :=
  if s.milSt = miBrake && s.stayed 5000 then ok (((s.toFault 1).raise R.MIL_EVT F.MIL_EVT_REV_STUCK).report 18 2) else ok s

/-- ALIGN_DONE (R303, R307): behind ALIGN_MS and both pulses, HFI with the ramp reference at 0 and θ by the larger pulse. -/
def execAlignDone (s : State) : Host.Outcome State Fault Refusal :=
  if s.milSt = miAlign && !s.mil.retryWait && s.stayed (s.rf R.MIL_RAMP F.MIL_RAMP_ALIGN_MS + 4) then
    let t := s.toDriven miHfi 0
    ok (t.setMil { t.mil with theta := if s.mil.peaks.2 < s.mil.peaks.1 then 0 else 32768, omega := 0 }).showAngle
  else ok s

/-- LOCKED_ROTOR (R303, R308): the conditions have held for LR_MS; another try from ALIGN, or SPIN_LOCKED. -/
def execLockedRotor (s : State) : Host.Outcome State Fault Refusal :=
  if s.milSt ≠ miHfi || !s.calmFor (s.rf R.MIL_LR F.MIL_LR_LR_MS) then ok s
  else
    let t := s.raise R.MIL_EVT F.MIL_EVT_LOCKED
    if t.mil.retries < t.rf R.MIL_LR F.MIL_LR_LR_RETRY then
      let u := (t.milSlots false).milEnter miAlign
      ok ((u.setMil { u.mil with retries := t.mil.retries + 1, retryWait := true }).milShow.report 18 2)
    else ok ((t.toFault 2).report 18 2)

/-- LOCKED_ROTOR_RETRY (R303): LR_WAIT_MS has passed, and alignment begins. -/
def execLockedRotorRetry (s : State) : Host.Outcome State Fault Refusal :=
  if s.milSt = miAlign && s.mil.retryWait && s.stayed (s.rf R.MIL_LR F.MIL_LR_LR_WAIT_MS) then
    ok (s.setMil { s.mil with retryWait := false, stay := 0 }).milShow
  else ok s

/-- ROTOR_LOSS (R312, R314). -/
def execRotorLoss (s : State) : Host.Outcome State Fault Refusal := if s.lossDue then ok s.rotorLost else ok s

/-- Re-acquired: RAMP, with the ramp reference at the measured speed, θ at the last crossing and ω from the mean interval (R303, R312). -/
def State.reacquire (s : State) : State :=
  match s.mil.cross with
  | [a, _, c] =>
    let n := 3 * (a.1 - c.1)
    let t := s.setSpeed (s.rpmOf 65536 n)
    let u := t.toDriven miRamp (t.speedQ t.mil.rpmC)
    (u.setMil { u.mil with theta := crossAngle a.2.1 a.2.2, omega := if n = 0 then 0 else ((65536 / n : Nat) : Int) }).showAngle
  | _ => s

/-- ROTOR_REACQUIRED (R303, R312). -/
def execRotorReacquired (s : State) : Host.Outcome State Fault Refusal :=
  if s.milSt = miReacq && s.reacquired then ok s.reacquire else ok s

/-- REACQUISITION_FAIL (R303, R312). -/
def execReacquisitionFail (s : State) : Host.Outcome State Fault Refusal :=
  if s.milSt = miReacq && s.reacqLost then ok (s.toCatch.raise R.MIL_EVT F.MIL_EVT_ACQ_FAIL) else ok s

/-- FLYING_LIMIT (R312, R313). -/
def execFlyingLimit (s : State) : Host.Outcome State Fault Refusal := if s.flyDue then ok s.declareFly else ok s

/-- Slot 9's run judges the speed while MILLSTONE is set (R311). -/
def State.judgeSpeed (s : State) : State :=
  if s.milSt ≠ miRun then s
  else
    let target : Int := 100 * s.targetRpm
    let bad := 10 * (s.rf R.MIL_REG F.MIL_REG_TOL_PPM : Int) * target < 1000000 * (s.mil.rpmC - target).natAbs
    let n := if bad then s.mil.regBad + 1 else 0
    let t := s.setMil { s.mil with regBad := n }
    if 10 ≤ n then t.setMillstone false else t

/-- What the run of slot `l` does beside its program: the longest servo path, slot 9's part, and gates that wait for heat. -/
def State.afterRun (s : State) (l ns : Nat) : State :=
  let t := if l < 8 then s.wf R.BAS_SV_HWM F.BAS_SV_HWM_NS (max (s.rf R.BAS_SV_HWM F.BAS_SV_HWM_NS) (min ns 0xFFFF)) else s
  let u := if l = 9 then t.judgeSpeed else t
  (List.range 4).foldl (fun x a => x.gateWait a) u

/-- LOOP_RUN (R262 to R268, R272): the dispatcher's choice runs. -/
def execLoopRun (ns : Nat) (s : State) : Host.Outcome State Fault Refusal :=
  match s.chooseLoop 80 with
  | none => ok s
  | some (_, l) => ok (((if l = 9 then s.speedRef else s).runLoop l).afterRun l ns)

end Sys2Proof.Machine
end

