-- ==== Sys2Proof/Machine/StrataIo.lean ====
section
/-!
DEFINITION. Sys2Proof/Machine/StrataIo.lean: the microwords that access Towpath (R390, R394): TRD, TWR and COMMIT with KIND TOWPATH.
A violation by microcode is silent (R14).
-/

namespace Sys2Proof.Machine

/-- TOWPATH_READ (TRD). -/
def execTowpathRead (n : Fin 12) (gd ga : Fin 32) (imm : BitVec 17) (s : State) : Host.Outcome State Fault Refusal :=
  ok (s.strWord n.val (vOp 7 + vD gd.val + vA ga.val + imm.toNat) fun t =>
    let u := t.towRead (.str n) .machine 32 (t.strAddr n.val ga.val imm)
    (u.setG n.val gd.val u.resp).strNext n.val)

/-- TOWPATH_WRITE (TWR): the word has issued before its write takes effect, which may restart or abort the sequencer. -/
def execTowpathWrite (n : Fin 12) (gs ga : Fin 32) (imm : BitVec 17) (s : State) : Host.Outcome State Fault Refusal :=
  ok (s.strWord n.val (vOp 8 + vD gs.val + vA ga.val + imm.toNat) fun t =>
    (t.strNext n.val).towWrite (.str n) .machine 32 (t.strAddr n.val ga.val imm) (t.g n.val gs.val))

/-- COMMIT_TOWPATH (R394): GB is written at the address in GA, unless a gate abandon prevails. -/
def execCommitTowpath (n : Fin 12) (ga gb : Fin 32) (s : State) : Host.Outcome State Fault Refusal :=
  let t := s.strCommit n.val 0 ga.val gb.val fun u => u
  ok (if s.strIssues n.val (vOp 14 + ga.val * 2 ^ 19 + gb.val * 2 ^ 14) && !(8 ≤ n.val && (s.wc (n.val - 8)).abandon) then
        t.towWrite (.str n) .machine 32 (s.g n.val ga.val).toNat (s.g n.val gb.val)
      else t)

end Sys2Proof.Machine
end

