-- ==== Sys2Proof/Machine/Sys.lean ====
section
/-!
DEFINITION. Sys2Proof/Machine/Sys.lean: the accesses that a core stops itself (R29, R365, R481), the other accesses of a
Flagstone core to its physical map, and the crossings between clock islands (R21 to R23, R337).
-/

namespace Sys2Proof.Machine

/-- The address lies in the Towpath register space. -/
def inTowpath (a : Nat) : Bool := towpathBase ≤ a && a < towpathBase + 0x10000000

/-- LOAD_STORE_MISALIGNED (R481). -/
def execLoadStoreMisaligned (c : Core) (store : Bool) (width addr : Nat) (s : State) : Host.Outcome State Fault Refusal :=
  ok (if inTowpath addr && addr % width ≠ 0 then s.coreTrap c (misalignedCause store) addr else s)

/-- WIDE_TOWPATH_ACCESS (R481): `width` in bytes. -/
def execWideTowpathAccess (h : Fin 4) (store : Bool) (width addr : Nat) (s : State) : Host.Outcome State Fault Refusal :=
  ok (if inTowpath addr && 4 < width then s.coreTrap (.flagstone h) (if store then exStoreAccess else exLoadAccess) addr else s)

/-! ### A Flagstone access to the physical map (R29) -/

/-- Every byte of the access lies in one region of R29. -/
def inMap (a n : Nat) : Bool :=
  let b := a + (n - 1)
  (inRom a && inRom b) || (inTcm a && inTcm b) || (inCtx a && inCtx b) || (inTowpath a && inTowpath b) || (inHbm a && inHbm b)

/-- The region forbids the access: a store to the boot ROM (R29), a fetch from the context store or Towpath (R365). -/
def forbidden (k : AccessKind) (a : Nat) : Bool :=
  match k with
  | .store => inRom a
  | .fetch => inCtx a || inTowpath a
  | .load => false

/-- The pair that hart `h` belongs to. -/
def hartPair (h : Fin 4) : Initiator := if h.val < 2 then .port else .media

/-- A core access of the HBM: the low word of what a load or a fetch gives is in `resp`; before BEDROCK, and while its pseudo-channel
is held for a repair, it waits (R337, R346); an error response is an access fault (R345, DEDUCED). -/
def State.coreHbm (s : State) (h : Fin 4) (k : AccessKind) (n a v : Nat) : State :=
  if s.hbmWaits (a - hbmBase) n then s.holdHbm (.core h k n (a - hbmBase) v)
  else s.coreHbmNow h k n (a - hbmBase) v

/-- An access of a Flagstone core that the map allows; the ROM's content is Boraeri's, a free value. An access to Towpath that is
both misaligned and too wide takes the misaligned exception (DESIGN CHOICE: R481 ranks neither). -/
def State.coreAccess (s : State) (h : Fin 4) (k : AccessKind) (n a v : Nat) : State :=
  if inTowpath a then
    if a % n ≠ 0 then s.coreTrap (.flagstone h) (misalignedCause (k = .store)) a
    else if 4 < n then s.coreTrap (.flagstone h) (accessCause k) a
    else if k = .store then s.towWrite (hartPair h) .machine (8 * n) (a - towpathBase) (word v)
    else s.towRead (hartPair h) .machine (8 * n) (a - towpathBase)
  else if inHbm a then s.coreHbm h k n a v
  else if inRom a then
    let q := s.free (8 * n)
    q.2.answer (word q.1)
  else if k = .store then (s.physWrite qCpu a n v).2
  else s.answer (word ((s.physRead qCpu a n).1.getD 0))

/-! ### Keystone's own map (R31) -/

/-- Keystone's ROM and working RAM. -/
def inKeyRom (a : Nat) : Bool := a < 0x10000
def inKeyRam (a : Nat) : Bool := 0x10000000 ≤ a && a < 0x10010000

/-- An access of Keystone: its ROM's content is Boraeri's, a free value; nothing else than its ROM, its RAM and the Towpath
register space answers; a fetch from its working RAM does not (R2: it runs only from its ROM), nor does a store to its ROM; such
an access is an access fault (DESIGN CHOICE: R31 names no exception). -/
def State.keystoneAccess (s : State) (k : AccessKind) (n a v : Nat) : State :=
  let b := a + (n - 1)
  if inKeyRom a && inKeyRom b && k ≠ .store then
    let q := s.free (8 * n)
    q.2.answer (word q.1)
  else if inKeyRam a && inKeyRam b && k ≠ .fetch then
    if k = .store then { s with keyRam := memStore s.keyRam a v n } else s.answer (word (memLoad s.keyRam a n))
  else if inTowpath a && inTowpath b && k ≠ .fetch then
    if a % n ≠ 0 then s.coreTrap .keystone (misalignedCause (k = .store)) a
    else if k = .store then s.towWrite .keystone .machine (8 * n) (a - towpathBase) (word v)
    else s.towRead .keystone .machine (8 * n) (a - towpathBase)
  else s.coreTrap .keystone (accessCause k) a

/-- UNMAPPED_ACCESS_FAULT (R29, R31): an access outside the core's map, or one that its region forbids, is an access fault;
`width` in bytes. Any other access has its ordinary effect. -/
def execUnmappedAccessFault (c : Core) (kind : AccessKind) (width addr v : Nat) (s : State) :
    Host.Outcome State Fault Refusal :=
  ok (match c with
    | .keystone => s.keystoneAccess kind width addr v
    | .flagstone h =>
      if !inMap addr width || forbidden kind addr then s.coreTrap (.flagstone h) (accessCause kind) addr
      else (if kind = .store then s.dropResv (h.val / 2) addr width else s).coreAccess h kind width addr v)

/-- The region of R365 has no atomics: the boot ROM, Towpath, the HBM's ring region; and no region at all (R29). -/
def State.noAtomics (s : State) (a : Nat) : Bool :=
  inRom a || inTowpath a || !inMap a 1 || (inHbm a && s.inRegion 1 (a - hbmBase))

/-- ATOMIC_ACCESS_FAULT (R365): to a region with no atomics it is a store/AMO access fault; to another region it has its effect,
and in the HBM it waits before BEDROCK and during a repair (R337, R346); a misaligned one is a store/AMO misaligned exception. -/
def execAtomicAccessFault (h : Fin 4) (op : AmoOp) (width addr v : Nat) (s : State) : Host.Outcome State Fault Refusal :=
  ok (if s.noAtomics addr then s.coreTrap (.flagstone h) exStoreAccess addr
      else if addr % width ≠ 0 then s.coreTrap (.flagstone h) exStoreMisaligned addr
      else if inHbm addr && s.hbmWaits (addr - hbmBase) width then s.holdHbm (.amo h op width addr v)
      else s.atomic h op width addr v)

/-! ### Crossings (R21 to R23) -/

/-- The island takes no data-path request: a sequencer's from a restart until it is ready again, also when its patch load fails
(R23, R400), Bedrock's before BEDROCK sets (R337). -/
def State.crossHolds (s : State) (i : Island) : Bool :=
  match i with
  | .strata n => s.flag (R.STR_STAT n.val) F.STR_STAT_RESTARTING || (s.seq n.val).down
  | .bedrock => !s.ready .bedrock
  | _ => false

/-- The island is being restarted: its crossings answer register requests themselves (R23). -/
def State.crossAnswers (s : State) (i : Island) : Bool :=
  match i with
  | .strata n => s.flag (R.STR_STAT n.val) F.STR_STAT_RESTARTING
  | _ => false

/-- Requests wait in the crossing from `src` to `dst`. -/
def State.crossWaits (s : State) (src dst : Island) : Bool := s.crossHeld.any fun q => q.1 = src && q.2.1 = dst

/-- The requests held for an island, in issue order. -/
def State.heldFor (s : State) (i : Island) : List Nat := (s.crossHeld.filter fun q => q.2.1 = i).map fun q => q.2.2

/-- The parity check of a crossing: an armed injection makes it fail (source 43 of R441, R449). -/
def State.crossParity (s : State) : State :=
  let q := s.takeInjection [43]
  if q.1.isSome then q.2.carry 43 3 true else q.2

/-- CROSSING_DELIVERY: a data-path request waits while its island restarts; a register request is answered by the crossing
meanwhile; what comes after a waiting request in the same crossing waits behind it (R22, R23). -/
def execCrossingDelivery (src dst : Island) (data : Bool) (tag : Nat) (s : State) : Host.Outcome State Fault Refusal :=
  let t := s.crossParity
  ok (if !data && t.crossAnswers dst then t.emit (.crossing dst tag true)
      else if (data && t.crossHolds dst) || t.crossWaits src dst then { t with crossHeld := t.crossHeld ++ [(src, dst, tag)] }
      else t.emit (.crossing dst tag false))

/-- CROSSING_HELD_RELEASE: the requests held for an island that is ready are delivered in order. -/
def execCrossingHeldRelease (dst : Island) (s : State) : Host.Outcome State Fault Refusal :=
  ok (if s.crossHolds dst then s
      else (s.heldFor dst).foldl (fun t tag => t.emit (.crossing dst tag false))
        { s with crossHeld := s.crossHeld.filter fun q => q.2.1 ≠ dst })

end Sys2Proof.Machine
end

