-- ==== Sys2Proof/Machine/Dispatch.lean ====
section
/-!
DEFINITION. Sys2Proof/Machine/Dispatch.lean: one arm per command of Instr, each a direct call of that command's meaning.
-/

namespace Sys2Proof.Machine

/-- The effect of a command on everything but the queue of waiting commands. -/
def exec (i : Instr) (s : State) : Host.Outcome State Fault Refusal :=
  match i with
  | .registerWrite who p width off v => Sys2Proof.Machine.execRegisterWrite who p width off v s
  | .loadStoreMisaligned c store width addr => Sys2Proof.Machine.execLoadStoreMisaligned c store width addr s
  | .wideTowpathAccess h store width addr => Sys2Proof.Machine.execWideTowpathAccess h store width addr s
  | .unmappedAccessFault c kind width addr v => Sys2Proof.Machine.execUnmappedAccessFault c kind width addr v s
  | .atomicAccessFault h op width addr v => Sys2Proof.Machine.execAtomicAccessFault h op width addr v s
  | .crossingDelivery src dst data tag => Sys2Proof.Machine.execCrossingDelivery src dst data tag s
  | .crossingHeldRelease dst => Sys2Proof.Machine.execCrossingHeldRelease dst s
  | .powerOnReset bootcfg sbAddr rstLow => Sys2Proof.Machine.execPowerOnReset bootcfg sbAddr rstLow s
  | .pinReset lowNs => Sys2Proof.Machine.execPinReset lowNs s
  | .keyDeviceReset who v => Sys2Proof.Machine.execKeyDeviceReset who v s
  | .keystoneWatchdogExpiry => Sys2Proof.Machine.execKeystoneWatchdogExpiry s
  | .resetDeferExpiry => Sys2Proof.Machine.execResetDeferExpiry s
  | .kenulSlotCheck slotB img readErr => Sys2Proof.Machine.execKenulSlotCheck slotB img readErr s
  | .kenulApply => Sys2Proof.Machine.execKenulApply s
  | .loaderCheck img readErr => Sys2Proof.Machine.execLoaderCheck img readErr s
  | .fuseProgram who p unlock slot mainMv => Sys2Proof.Machine.execFuseProgram who p unlock slot mainMv s
  | .fuseRevoke who p unlock slot mainMv => Sys2Proof.Machine.execFuseRevoke who p unlock slot mainMv s
  | .fuseOpDone matched => Sys2Proof.Machine.execFuseOpDone matched s
  | .modeReqService who p => Sys2Proof.Machine.execModeReqService who p s
  | .modeReqSurvey who p => Sys2Proof.Machine.execModeReqSurvey who p s
  | .modeReqMigration who p => Sys2Proof.Machine.execModeReqMigration who p s
  | .modeReqDormant who p => Sys2Proof.Machine.execModeReqDormant who p s
  | .modeReqHaven who p => Sys2Proof.Machine.execModeReqHaven who p s
  | .modeReqBedding who p => Sys2Proof.Machine.execModeReqBedding who p s
  | .dormantEntryProgress => Sys2Proof.Machine.execDormantEntryProgress s
  | .dormantWakeExpiry => Sys2Proof.Machine.execDormantWakeExpiry s
  | .dormantWorkDone => Sys2Proof.Machine.execDormantWorkDone s
  | .modeTransitionComplete => Sys2Proof.Machine.execModeTransitionComplete s
  | .havenSettled => Sys2Proof.Machine.execHavenSettled s
  | .heldDataWrite => Sys2Proof.Machine.execHeldDataWrite s
  | .linkTrained g port rate width partner => Sys2Proof.Machine.execLinkTrained g port rate width partner s
  | .linkLost g port => Sys2Proof.Machine.execLinkLost g port s
  | .linkDisable who g v => Sys2Proof.Machine.execLinkDisable who g v s
  | .hostSideReset g => Sys2Proof.Machine.execHostSideReset g s
  | .nvmeControllerReset g => Sys2Proof.Machine.execNvmeControllerReset g s
  | .nvmeDoorbellWrite g ofs v => Sys2Proof.Machine.execNvmeDoorbellWrite g ofs v s
  | .nvmeCommandFetch g sq entry => Sys2Proof.Machine.execNvmeCommandFetch g sq entry s
  | .nvmeFetchResume g => Sys2Proof.Machine.execNvmeFetchResume g s
  | .sasCommandFrame g port lun tag space attr cdb => Sys2Proof.Machine.execSasCommandFrame g port lun tag space attr cdb s
  | .sasTaskManagement g port fn lun tag space => Sys2Proof.Machine.execSasTaskManagement g port fn lun tag space s
  | .sataCommand c => Sys2Proof.Machine.execSataCommand c s
  | .hostConfigRead g ofs => Sys2Proof.Machine.execHostConfigRead g ofs s
  | .hostBar0Read g ofs dwords => Sys2Proof.Machine.execHostBar0Read g ofs dwords s
  | .hostConfigWrite g ofs v => Sys2Proof.Machine.execHostConfigWrite g ofs v s
  | .hostBar0Write g ofs v => Sys2Proof.Machine.execHostBar0Write g ofs v s
  | .shadowStage who g v => Sys2Proof.Machine.execShadowStage who g v s
  | .shadowRead who g => Sys2Proof.Machine.execShadowRead who g s
  | .shadowCommit who g => Sys2Proof.Machine.execShadowCommit who g s
  | .shadowDiscard who g => Sys2Proof.Machine.execShadowDiscard who g s
  | .shadowCommitEffect g => Sys2Proof.Machine.execShadowCommitEffect g s
  | .inquiry g tag evpd page => Sys2Proof.Machine.execInquiry g tag evpd page s
  | .identifyDevice tag => Sys2Proof.Machine.execIdentifyDevice tag s
  | .nvmeIdentify k cns data => Sys2Proof.Machine.execNvmeIdentify k cns data s
  | .nvmeGetLogPage k lid data => Sys2Proof.Machine.execNvmeGetLogPage k lid data s
  | .namespaceManagement k t capacity => Sys2Proof.Machine.execNamespaceManagement k t capacity s
  | .namespaceAttachment k => Sys2Proof.Machine.execNamespaceAttachment k s
  | .firmwareImageDownload k => Sys2Proof.Machine.execFirmwareImageDownload k s
  | .firmwareCommit k => Sys2Proof.Machine.execFirmwareCommit k s
  | .createIoQueue k => Sys2Proof.Machine.execCreateIoQueue k s
  | .blockRead k keySlot cacheHit => Sys2Proof.Machine.execBlockRead k keySlot cacheHit s
  | .blockWrite k keySlot data => Sys2Proof.Machine.execBlockWrite k keySlot data s
  | .nvmeFlush k => Sys2Proof.Machine.execNvmeFlush k s
  | .synchronizeCache k => Sys2Proof.Machine.execSynchronizeCache k s
  | .flushCacheExt k => Sys2Proof.Machine.execFlushCacheExt k s
  | .writeZeroes k => Sys2Proof.Machine.execWriteZeroes k s
  | .deallocate k ranges => Sys2Proof.Machine.execDeallocate k ranges s
  | .blockVerify k mediaOk => Sys2Proof.Machine.execBlockVerify k mediaOk s
  | .compare k keySlot cacheHit data => Sys2Proof.Machine.execCompare k keySlot cacheHit data s
  | .readCapacity k => Sys2Proof.Machine.execReadCapacity k s
  | .reportLuns k => Sys2Proof.Machine.execReportLuns k s
  | .testUnitReady k => Sys2Proof.Machine.execTestUnitReady k s
  | .requestSense k => Sys2Proof.Machine.execRequestSense k s
  | .startStopUnit k start => Sys2Proof.Machine.execStartStopUnit k start s
  | .modeSense k page => Sys2Proof.Machine.execModeSense k page s
  | .modeSelect k page data => Sys2Proof.Machine.execModeSelect k page data s
  | .logSense k page data => Sys2Proof.Machine.execLogSense k page data s
  | .persistentReserveIn k => Sys2Proof.Machine.execPersistentReserveIn k s
  | .persistentReserveOut k op => Sys2Proof.Machine.execPersistentReserveOut k op s
  | .writeBuffer k => Sys2Proof.Machine.execWriteBuffer k s
  | .readBuffer k => Sys2Proof.Machine.execReadBuffer k s
  | .readFpdmaQueued ncq c => Sys2Proof.Machine.execReadFpdmaQueued ncq c s
  | .writeFpdmaQueued ncq c => Sys2Proof.Machine.execWriteFpdmaQueued ncq c s
  | .setFeatures k feature value => Sys2Proof.Machine.execSetFeatures k feature value s
  | .readLogExt k page data => Sys2Proof.Machine.execReadLogExt k page data s
  | .downloadMicrocode k => Sys2Proof.Machine.execDownloadMicrocode k s
  | .objCreate k => Sys2Proof.Machine.execObjCreate k s
  | .objWrite k keySlot data => Sys2Proof.Machine.execObjWrite k keySlot data s
  | .objRead k keySlot cacheHit => Sys2Proof.Machine.execObjRead k keySlot cacheHit s
  | .objOpen k => Sys2Proof.Machine.execObjOpen k s
  | .objGetAttr k => Sys2Proof.Machine.execObjGetAttr k s
  | .objClose k => Sys2Proof.Machine.execObjClose k s
  | .objDelete k => Sys2Proof.Machine.execObjDelete k s
  | .objList k => Sys2Proof.Machine.execObjList k s
  | .objSetClass k => Sys2Proof.Machine.execObjSetClass k s
  | .objVerify k repaired lost => Sys2Proof.Machine.execObjVerify k repaired lost s
  | .mailboxCmdSend k words => Sys2Proof.Machine.execMailboxCmdSend k words s
  | .mailboxCmdReceive k => Sys2Proof.Machine.execMailboxCmdReceive k s
  | .mailboxCmdDoorbell k => Sys2Proof.Machine.execMailboxCmdDoorbell k s
  | .mailboxCmdAck k => Sys2Proof.Machine.execMailboxCmdAck k s
  | .mailboxCmdStatus k => Sys2Proof.Machine.execMailboxCmdStatus k s
  | .sbSetPointer count v pec => Sys2Proof.Machine.execSbSetPointer count v pec s
  | .sbRead => Sys2Proof.Machine.execSbRead s
  | .sbWrite count v pec => Sys2Proof.Machine.execSbWrite count v pec s
  | .sbMailboxSend count v pec => Sys2Proof.Machine.execSbMailboxSend count v pec s
  | .sbMailboxReceive => Sys2Proof.Machine.execSbMailboxReceive s
  | .sbDeviceReset count v pec => Sys2Proof.Machine.execSbDeviceReset count v pec s
  | .sbUnknownCode code read => Sys2Proof.Machine.execSbUnknownCode code read s
  | .smbusClockTimeout => Sys2Proof.Machine.execSmbusClockTimeout s
  | .i3cEntdaa addr => Sys2Proof.Machine.execI3cEntdaa addr s
  | .i3cSetdasa static addr => Sys2Proof.Machine.execI3cSetdasa static addr s
  | .i3cRstdaa => Sys2Proof.Machine.execI3cRstdaa s
  | .i3cEnec hj ibi => Sys2Proof.Machine.execI3cEnec hj ibi s
  | .i3cDisec hj ibi => Sys2Proof.Machine.execI3cDisec hj ibi s
  | .i3cGetpid => Sys2Proof.Machine.execI3cGetpid s
  | .i3cGetbcr => Sys2Proof.Machine.execI3cGetbcr s
  | .i3cGetdcr => Sys2Proof.Machine.execI3cGetdcr s
  | .i3cGetstatus => Sys2Proof.Machine.execI3cGetstatus s
  | .i3cGetmwlGetmrl read => Sys2Proof.Machine.execI3cGetmwlGetmrl read s
  | .hotJoinAttempt => Sys2Proof.Machine.execHotJoinAttempt s
  | .tenantConfigWrite who t v capacity => Sys2Proof.Machine.execTenantConfigWrite who t v capacity s
  | .allowanceWrite who t v => Sys2Proof.Machine.execAllowanceWrite who t v s
  | .tenantPurge who v => Sys2Proof.Machine.execTenantPurge who v s
  | .ctxTake who idx => Sys2Proof.Machine.execCtxTake who idx s
  | .ctxPostMedia who k => Sys2Proof.Machine.execCtxPostMedia who k s
  | .ctxPostPort who k => Sys2Proof.Machine.execCtxPostPort who k s
  | .ctxPostStaged who k => Sys2Proof.Machine.execCtxPostStaged who k s
  | .ctxPostDone who k => Sys2Proof.Machine.execCtxPostDone who k s
  | .ctxPostFree who k => Sys2Proof.Machine.execCtxPostFree who k s
  | .ctxPop who p k => Sys2Proof.Machine.execCtxPop who p k s
  | .writePlacement k => Sys2Proof.Machine.execWritePlacement k s
  | .rowPadTimeout group row => Sys2Proof.Machine.execRowPadTimeout group row s
  | .cleanerSelect => Sys2Proof.Machine.execCleanerSelect s
  | .surveySchedule => Sys2Proof.Machine.execSurveySchedule s
  | .surveyBandDone band found => Sys2Proof.Machine.execSurveyBandDone band found s
  | .checkpointTimerExpiry => Sys2Proof.Machine.execCheckpointTimerExpiry s
  | .checkpointBandCount => Sys2Proof.Machine.execCheckpointBandCount s
  | .checkpointGo who v => Sys2Proof.Machine.execCheckpointGo who v s
  | .checkpointComplete => Sys2Proof.Machine.execCheckpointComplete s
  | .touchstoneCopyWritten surf => Sys2Proof.Machine.execTouchstoneCopyWritten surf s
  | .waymarkLoad bad => Sys2Proof.Machine.execWaymarkLoad bad s
  | .waymarkReplayDone => Sys2Proof.Machine.execWaymarkReplayDone s
  | .unitTakeOut who v => Sys2Proof.Machine.execUnitTakeOut who v s
  | .unitForcedTakeOut who v => Sys2Proof.Machine.execUnitForcedTakeOut who v s
  | .unitBringIn who v => Sys2Proof.Machine.execUnitBringIn who v s
  | .drainStepDone => Sys2Proof.Machine.execDrainStepDone s
  | .unitCalibrationResult pass => Sys2Proof.Machine.execUnitCalibrationResult pass s
  | .adcCalComplete n => Sys2Proof.Machine.execAdcCalComplete n s
  | .adcTrimOutOfRange n => Sys2Proof.Machine.execAdcTrimOutOfRange n s
  | .headZoneSelect who n v => Sys2Proof.Machine.execHeadZoneSelect who n v s
  | .sourceSelect who n v => Sys2Proof.Machine.execSourceSelect who n v s
  | .taEventStart n => Sys2Proof.Machine.execTaEventStart n s
  | .taEventEnd n => Sys2Proof.Machine.execTaEventEnd n s
  | .freezeAssert n src active => Sys2Proof.Machine.execFreezeAssert n src active s
  | .freezeTailExpiry n => Sys2Proof.Machine.execFreezeTailExpiry n s
  | .clearanceResult n => Sys2Proof.Machine.execClearanceResult n s
  | .writeChannelSelect who a v => Sys2Proof.Machine.execWriteChannelSelect who a v s
  | .writeHeatRequest who a v => Sys2Proof.Machine.execWriteHeatRequest who a v s
  | .gateRequest a => Sys2Proof.Machine.execGateRequest a s
  | .heatTimeout a => Sys2Proof.Machine.execHeatTimeout a s
  | .gateDrop a => Sys2Proof.Machine.execGateDrop a s
  | .gateConditionLost a => Sys2Proof.Machine.execGateConditionLost a s
  | .writeUnderrun a => Sys2Proof.Machine.execWriteUnderrun a s
  | .milestoneReferenceSample m clock => Sys2Proof.Machine.execMilestoneReferenceSample m clock s
  | .milestoneHoldoverExpiry m => Sys2Proof.Machine.execMilestoneHoldoverExpiry m s
  | .milestoneZoneChange m => Sys2Proof.Machine.execMilestoneZoneChange m s
  | .sectorFramed n live track sector age => Sys2Proof.Machine.execSectorFramed n live track sector age s
  | .reframe who n v => Sys2Proof.Machine.execReframe who n v s
  | .reframeDone n => Sys2Proof.Machine.execReframeDone n s
  | .descriptorPush who n v => Sys2Proof.Machine.execDescriptorPush who n v s
  | .descriptorFlush who n v => Sys2Proof.Machine.execDescriptorFlush who n v s
  | .engineDispatch e => Sys2Proof.Machine.execEngineDispatch e s
  | .decodeComplete e => Sys2Proof.Machine.execDecodeComplete e s
  | .completionPost n => Sys2Proof.Machine.execCompletionPost n s
  | .completionPop who n v => Sys2Proof.Machine.execCompletionPop who n v s
  | .engineFault e => Sys2Proof.Machine.execEngineFault e s
  | .engineFaultClear who v => Sys2Proof.Machine.execEngineFaultClear who v s
  | .replayEnd n => Sys2Proof.Machine.execReplayEnd n s
  | .ringFind who n v => Sys2Proof.Machine.execRingFind who n v s
  | .ringFindDone n => Sys2Proof.Machine.execRingFindDone n s
  | .loopTrigger trig l => Sys2Proof.Machine.execLoopTrigger trig l s
  | .loopRun ns => Sys2Proof.Machine.execLoopRun ns s
  | .basaltTick t => Sys2Proof.Machine.execBasaltTick t s
  | .loopKick who v => Sys2Proof.Machine.execLoopKick who v s
  | .loopEnable who l v => Sys2Proof.Machine.execLoopEnable who l v s
  | .loopDisable who l v => Sys2Proof.Machine.execLoopDisable who l v s
  | .loopClear who l => Sys2Proof.Machine.execLoopClear who l s
  | .bankSwap who l => Sys2Proof.Machine.execBankSwap who l s
  | .integratorWrite who l v => Sys2Proof.Machine.execIntegratorWrite who l v s
  | .generalInputWrite who k v => Sys2Proof.Machine.execGeneralInputWrite who k v s
  | .servoHwmClear who v => Sys2Proof.Machine.execServoHwmClear who v s
  | .positionSample a => Sys2Proof.Machine.execPositionSample a s
  | .sampleMissingTimeout a => Sys2Proof.Machine.execSampleMissingTimeout a s
  | .actuatorLoad who a => Sys2Proof.Machine.execActuatorLoad who a s
  | .actuatorUnload who a => Sys2Proof.Machine.execActuatorUnload who a s
  | .seek who a v => Sys2Proof.Machine.execSeek who a v s
  | .headSelect who a pair v => Sys2Proof.Machine.execHeadSelect who a pair v s
  | .loadTimeout a => Sys2Proof.Machine.execLoadTimeout a s
  | .lostTimeout a => Sys2Proof.Machine.execLostTimeout a s
  | .unloadStall a => Sys2Proof.Machine.execUnloadStall a s
  | .unloadTimeout a => Sys2Proof.Machine.execUnloadTimeout a s
  | .vcmVelocitySample a mv ma => Sys2Proof.Machine.execVcmVelocitySample a mv ma s
  | .ditherEnable who a v => Sys2Proof.Machine.execDitherEnable who a v s
  | .shockSample sensor x => Sys2Proof.Machine.execShockSample sensor x s
  | .shockRelease => Sys2Proof.Machine.execShockRelease s
  | .preampFrameEnd a data => Sys2Proof.Machine.execPreampFrameEnd a data s
  | .preampStatusPoll a => Sys2Proof.Machine.execPreampStatusPoll a s
  | .preampRawTransfer who a v => Sys2Proof.Machine.execPreampRawTransfer who a v s
  | .preampFault a low => Sys2Proof.Machine.execPreampFault a low s
  | .preampEnumeration a => Sys2Proof.Machine.execPreampEnumeration a s
  | .spindleStart who => Sys2Proof.Machine.execSpindleStart who s
  | .spindleStop who => Sys2Proof.Machine.execSpindleStop who s
  | .spindleStopBrake who => Sys2Proof.Machine.execSpindleStopBrake who s
  | .millstoneTick volts amps => Sys2Proof.Machine.execMillstoneTick volts amps s
  | .catchWindowEnd => Sys2Proof.Machine.execCatchWindowEnd s
  | .brakeTimeout => Sys2Proof.Machine.execBrakeTimeout s
  | .alignDone => Sys2Proof.Machine.execAlignDone s
  | .lockedRotor => Sys2Proof.Machine.execLockedRotor s
  | .lockedRotorRetry => Sys2Proof.Machine.execLockedRotorRetry s
  | .speedRegulated => Sys2Proof.Machine.execSpeedRegulated s
  | .rotorLoss => Sys2Proof.Machine.execRotorLoss s
  | .rotorReacquired => Sys2Proof.Machine.execRotorReacquired s
  | .reacquisitionFail => Sys2Proof.Machine.execReacquisitionFail s
  | .flyingLimit => Sys2Proof.Machine.execFlyingLimit s
  | .stopComplete => Sys2Proof.Machine.execStopComplete s
  | .coastToIdle => Sys2Proof.Machine.execCoastToIdle s
  | .auxInputUp => Sys2Proof.Machine.execAuxInputUp s
  | .mainInputUp mv => Sys2Proof.Machine.execMainInputUp mv s
  | .railInRegulation r mv => Sys2Proof.Machine.execRailInRegulation r mv s
  | .socRelease bootcfg sbAddr rstLow => Sys2Proof.Machine.execSocRelease bootcfg sbAddr rstLow s
  | .railFault r mv => Sys2Proof.Machine.execRailFault r mv s
  | .ballastReady selfTest => Sys2Proof.Machine.execBallastReady selfTest s
  | .linkHeartbeat crcOk => Sys2Proof.Machine.execLinkHeartbeat crcOk s
  | .linkWatchdogExpiry => Sys2Proof.Machine.execLinkWatchdogExpiry s
  | .stageTrip stage ma => Sys2Proof.Machine.execStageTrip stage ma s
  | .stageUnlatch who v => Sys2Proof.Machine.execStageUnlatch who v s
  | .regenClamp => Sys2Proof.Machine.execRegenClamp s
  | .chargeTimeout => Sys2Proof.Machine.execChargeTimeout s
  | .bankMeasureGo who v => Sys2Proof.Machine.execBankMeasureGo who v s
  | .measureTimerExpiry => Sys2Proof.Machine.execMeasureTimerExpiry s
  | .bankMeasureDone stepMv fallMv us => Sys2Proof.Machine.execBankMeasureDone stepMv fallMv us s
  | .vaultAllowanceUpdate bankMv => Sys2Proof.Machine.execVaultAllowanceUpdate bankMv s
  | .powerLoss bankMv aux => Sys2Proof.Machine.execPowerLoss bankMv aux s
  | .vaultFlushDone => Sys2Proof.Machine.execVaultFlushDone s
  | .bankAtVret => Sys2Proof.Machine.execBankAtVret s
  | .mainReturn mv => Sys2Proof.Machine.execMainReturn mv s
  | .emergencyRetract => Sys2Proof.Machine.execEmergencyRetract s
  | .retractComplete => Sys2Proof.Machine.execRetractComplete s
  | .thermalLevelChange deg16 => Sys2Proof.Machine.execThermalLevelChange deg16 s
  | .hbmTrainingDone => Sys2Proof.Machine.execHbmTrainingDone s
  | .hbmTrainingFail pc => Sys2Proof.Machine.execHbmTrainingFail pc s
  | .bedrockWaitTimeout => Sys2Proof.Machine.execBedrockWaitTimeout s
  | .hbmRead cls ofs upset array seg => Sys2Proof.Machine.execHbmRead cls ofs upset array seg s
  | .hbmWrite cls ofs len v seg => Sys2Proof.Machine.execHbmWrite cls ofs len v seg s
  | .idleClaim block => Sys2Proof.Machine.execIdleClaim block s
  | .hbmTempRead t => Sys2Proof.Machine.execHbmTempRead t s
  | .hbmRefresh => Sys2Proof.Machine.execHbmRefresh s
  | .arbitrationWindow => Sys2Proof.Machine.execArbitrationWindow s
  | .pprSoft who v spare => Sys2Proof.Machine.execPprSoft who v spare s
  | .pprHard who v spare => Sys2Proof.Machine.execPprHard who v spare s
  | .pprDone clean => Sys2Proof.Machine.execPprDone clean s
  | .bdpRead who v => Sys2Proof.Machine.execBdpRead who v s
  | .bdpWrite who v => Sys2Proof.Machine.execBdpWrite who v s
  | .bdpStage who v => Sys2Proof.Machine.execBdpStage who v s
  | .bdpDataRead who => Sys2Proof.Machine.execBdpDataRead who s
  | .bdpDone => Sys2Proof.Machine.execBdpDone s
  | .scrubRead upset newer => Sys2Proof.Machine.execScrubRead upset newer s
  | .scrubLapStart => Sys2Proof.Machine.execScrubLapStart s
  | .sramScrubStep region bits newer spot => Sys2Proof.Machine.execSramScrubStep region bits newer spot s
  | .shaleEnable who v => Sys2Proof.Machine.execShaleEnable who v s
  | .shaleDisable who v => Sys2Proof.Machine.execShaleDisable who v s
  | .shaleDrainDone => Sys2Proof.Machine.execShaleDrainDone s
  | .shaleInvRange who v => Sys2Proof.Machine.execShaleInvRange who v s
  | .shaleInvAll who v => Sys2Proof.Machine.execShaleInvAll who v s
  | .shaleFill who v => Sys2Proof.Machine.execShaleFill who v s
  | .shaleOpDone => Sys2Proof.Machine.execShaleOpDone s
  | .shaleLock who v => Sys2Proof.Machine.execShaleLock who v s
  | .lockstepMismatch p => Sys2Proof.Machine.execLockstepMismatch p s
  | .pairRestart who v => Sys2Proof.Machine.execPairRestart who v s
  | .pairRestartDone p => Sys2Proof.Machine.execPairRestartDone p s
  | .heartbeat who p => Sys2Proof.Machine.execHeartbeat who p s
  | .heartbeatConfig who p v => Sys2Proof.Machine.execHeartbeatConfig who p v s
  | .heartbeatMiss p => Sys2Proof.Machine.execHeartbeatMiss p s
  | .watchdogRestart who => Sys2Proof.Machine.execWatchdogRestart who s
  | .deviceResetRequest who p v => Sys2Proof.Machine.execDeviceResetRequest who p v s
  | .keyStuckTimeout p => Sys2Proof.Machine.execKeyStuckTimeout p s
  | .translate st iova write k => Sys2Proof.Machine.execTranslate st iova write k s
  | .streamConfig who p st v => Sys2Proof.Machine.execStreamConfig who p st v s
  | .streamFaultClear who p st => Sys2Proof.Machine.execStreamFaultClear who p st s
  | .iotlbInvAll who p => Sys2Proof.Machine.execIotlbInvAll who p s
  | .iotlbInvStream who p st => Sys2Proof.Machine.execIotlbInvStream who p st s
  | .iotlbInvPage who p st => Sys2Proof.Machine.execIotlbInvPage who p st s
  | .iotlbInvDone => Sys2Proof.Machine.execIotlbInvDone s
  | .faultPop who p => Sys2Proof.Machine.execFaultPop who p s
  | .interruptClaim who p c => Sys2Proof.Machine.execInterruptClaim who p c s
  | .interruptComplete who p c v => Sys2Proof.Machine.execInterruptComplete who p c v s
  | .machineTimerInterrupt p => Sys2Proof.Machine.execMachineTimerInterrupt p s
  | .mailboxPush who m far v => Sys2Proof.Machine.execMailboxPush who m far v s
  | .mailboxPop who m far => Sys2Proof.Machine.execMailboxPop who m far s
  | .doorbellSet who m far v => Sys2Proof.Machine.execDoorbellSet who m far v s
  | .mailboxAcknowledge who m far v => Sys2Proof.Machine.execMailboxAcknowledge who m far v s
  | .mailboxRequestTimeout m far => Sys2Proof.Machine.execMailboxRequestTimeout m far s
  | .workRead who n k => Sys2Proof.Machine.execWorkRead who n k s
  | .workWriteRun who n k => Sys2Proof.Machine.execWorkWriteRun who n k s
  | .workLadder who n k => Sys2Proof.Machine.execWorkLadder who n k s
  | .workSurvey who n k => Sys2Proof.Machine.execWorkSurvey who n k s
  | .workFormat who n k => Sys2Proof.Machine.execWorkFormat who n k s
  | .workDispatch n => Sys2Proof.Machine.execWorkDispatch n s
  | .nop n => Sys2Proof.Machine.execNop n s
  | .alu n gd ga gb fn => Sys2Proof.Machine.execAlu n gd ga gb fn s
  | .addi n gd ga imm => Sys2Proof.Machine.execAddi n gd ga imm s
  | .lui n gd imm => Sys2Proof.Machine.execLui n gd imm s
  | .branch n cond ga target => Sys2Proof.Machine.execBranch n cond ga target s
  | .call n target => Sys2Proof.Machine.execCall n target s
  | .returnOp n => Sys2Proof.Machine.execReturn n s
  | .towpathRead n gd ga imm => Sys2Proof.Machine.execTowpathRead n gd ga imm s
  | .towpathWrite n gs ga imm => Sys2Proof.Machine.execTowpathWrite n gs ga imm s
  | .scratchLoad n gd ga imm => Sys2Proof.Machine.execScratchLoad n gd ga imm s
  | .scratchStore n gs ga imm => Sys2Proof.Machine.execScratchStore n gs ga imm s
  | .nano n naddr ga gb cnt rom frames upset => Sys2Proof.Machine.execNano n naddr ga gb cnt rom frames upset s
  | .wait n event limit set => Sys2Proof.Machine.execWait n event limit set s
  | .waitLimitExpiry n => Sys2Proof.Machine.execWaitLimitExpiry n s
  | .routine n id => Sys2Proof.Machine.execRoutine n id s
  | .commitTowpath n ga gb => Sys2Proof.Machine.execCommitTowpath n ga gb s
  | .commitContext n ga gb retry => Sys2Proof.Machine.execCommitContext n ga gb retry s
  | .commitDone n ga gb => Sys2Proof.Machine.execCommitDone n ga gb s
  | .commitMark n ga gb => Sys2Proof.Machine.execCommitMark n ga gb s
  | .returnFromEvent n => Sys2Proof.Machine.execReturnFromEvent n s
  | .sequencerFault n illegal => Sys2Proof.Machine.execSequencerFault n illegal s
  | .sequencerGateAbandon a => Sys2Proof.Machine.execSequencerGateAbandon a s
  | .sequencerHandover n => Sys2Proof.Machine.execSequencerHandover n s
  | .sequencerAbort who n => Sys2Proof.Machine.execSequencerAbort who n s
  | .sequencerRestart n by_ => Sys2Proof.Machine.execSequencerRestart n by_ s
  | .patchLoad n images => Sys2Proof.Machine.execPatchLoad n images s
  | .channelStart who k v => Sys2Proof.Machine.execChannelStart who k v s
  | .channelDisable who k => Sys2Proof.Machine.execChannelDisable who k s
  | .channelDrained k => Sys2Proof.Machine.execChannelDrained k s
  | .burstIssue => Sys2Proof.Machine.execBurstIssue s
  | .beatReadResponse k => Sys2Proof.Machine.execBeatReadResponse k s
  | .beatWriteResponse k => Sys2Proof.Machine.execBeatWriteResponse k s
  | .requestEdge l => Sys2Proof.Machine.execRequestEdge l s
  | .softwareRequest who lines => Sys2Proof.Machine.execSoftwareRequest who lines s
  | .generalTimerExpiry t => Sys2Proof.Machine.execGeneralTimerExpiry t s
  | .segmentAdjust who g adj => Sys2Proof.Machine.execSegmentAdjust who g adj s
  | .segmentClear who g => Sys2Proof.Machine.execSegmentClear who g s
  | .rawBlockOp who port v upset => Sys2Proof.Machine.execRawBlockOp who port v upset s
  | .coreBlockDone core => Sys2Proof.Machine.execCoreBlockDone core s
  | .keyStage who v => Sys2Proof.Machine.execKeyStage who v s
  | .keyLoad who slot => Sys2Proof.Machine.execKeyLoad who slot s
  | .keyZero who slot => Sys2Proof.Machine.execKeyZero who slot s
  | .authUnitOpen who u => Sys2Proof.Machine.execAuthUnitOpen who u s
  | .authUnitCompare who u tlen => Sys2Proof.Machine.execAuthUnitCompare who u tlen s
  | .authUnitClose who u => Sys2Proof.Machine.execAuthUnitClose who u s
  | .authTagWrite who u j v => Sys2Proof.Machine.execAuthTagWrite who u j v s
  | .authDataRead who u => Sys2Proof.Machine.execAuthDataRead who u s
  | .laneBlockLock lane => Sys2Proof.Machine.execLaneBlockLock lane s
  | .laneLockLoss lane => Sys2Proof.Machine.execLaneLockLoss lane s
  | .alignBlock lane counter => Sys2Proof.Machine.execAlignBlock lane counter s
  | .alignSend => Sys2Proof.Machine.execAlignSend s
  | .helloFrame len frame => Sys2Proof.Machine.execHelloFrame len frame s
  | .helloTimer => Sys2Proof.Machine.execHelloTimer s
  | .ackFrame len frame => Sys2Proof.Machine.execAckFrame len frame s
  | .nakFrame len frame => Sys2Proof.Machine.execNakFrame len frame s
  | .retransmitTimeout => Sys2Proof.Machine.execRetransmitTimeout s
  | .ackKeepalive => Sys2Proof.Machine.execAckKeepalive s
  | .peerTimeout => Sys2Proof.Machine.execPeerTimeout s
  | .planFrame len frame => Sys2Proof.Machine.execPlanFrame len frame s
  | .planAckFrame len frame => Sys2Proof.Machine.execPlanAckFrame len frame s
  | .tenantFrame len frame => Sys2Proof.Machine.execTenantFrame len frame s
  | .itemBeginFrame len frame => Sys2Proof.Machine.execItemBeginFrame len frame s
  | .dataFrame len frame => Sys2Proof.Machine.execDataFrame len frame s
  | .itemEndFrame len frame => Sys2Proof.Machine.execItemEndFrame len frame s
  | .itemAbortFrame len frame => Sys2Proof.Machine.execItemAbortFrame len frame s
  | .itemReadbackDone t kind id ofs lost => Sys2Proof.Machine.execItemReadbackDone t kind id ofs lost s
  | .verifiedFrame len frame => Sys2Proof.Machine.execVerifiedFrame len frame s
  | .historyFrame len frame => Sys2Proof.Machine.execHistoryFrame len frame s
  | .stopFrame len frame => Sys2Proof.Machine.execStopFrame len frame s
  | .endFrame len frame => Sys2Proof.Machine.execEndFrame len frame s
  | .exportGranuleRead lost => Sys2Proof.Machine.execExportGranuleRead lost s
  | .sessionGo who => Sys2Proof.Machine.execSessionGo who s
  | .sessionStop who => Sys2Proof.Machine.execSessionStop who s
  | .sessionDrained => Sys2Proof.Machine.execSessionDrained s
  | .faultLatch src cls holds => Sys2Proof.Machine.execFaultLatch src cls holds s
  | .faultPinPulseEnd => Sys2Proof.Machine.execFaultPinPulseEnd s
  | .faultPinHold who p v => Sys2Proof.Machine.execFaultPinHold who p v s
  | .faultClear who p hiWord v => Sys2Proof.Machine.execFaultClear who p hiWord v s
  | .fatalClearDone parityOk => Sys2Proof.Machine.execFatalClearDone parityOk s
  | .graceExpiry acts => Sys2Proof.Machine.execGraceExpiry acts s
  | .heldTakeoutIssue => Sys2Proof.Machine.execHeldTakeoutIssue s
  | .keystoneBackstop => Sys2Proof.Machine.execKeystoneBackstop s
  | .tollgateSelfCheck error => Sys2Proof.Machine.execTollgateSelfCheck error s
  | .tollgateArmed => Sys2Proof.Machine.execTollgateArmed s
  | .injectArm who p count nbits src => Sys2Proof.Machine.execInjectArm who p count nbits src s
  | .injectDisarm who p => Sys2Proof.Machine.execInjectDisarm who p s
  | .minuteTick => Sys2Proof.Machine.execMinuteTick s
  | .cairnRestore reserveOk => Sys2Proof.Machine.execCairnRestore reserveOk s
  | .logFreeze who v => Sys2Proof.Machine.execLogFreeze who v s
  | .logUnfreeze who v => Sys2Proof.Machine.execLogUnfreeze who v s
  | .freezeTimeout => Sys2Proof.Machine.execFreezeTimeout s
  | .sbWindowHeadRead => Sys2Proof.Machine.execSbWindowHeadRead s
  | .sbWindowAdvance => Sys2Proof.Machine.execSbWindowAdvance s
  | .persistTimer => Sys2Proof.Machine.execPersistTimer s
  | .persistGo who v => Sys2Proof.Machine.execPersistGo who v s
  | .persistDone ok => Sys2Proof.Machine.execPersistDone ok s
  | .logRelease who v => Sys2Proof.Machine.execLogRelease who v s
  | .releaseApplied => Sys2Proof.Machine.execReleaseApplied s
  | .fwRecordStage who v => Sys2Proof.Machine.execFwRecordStage who v s
  | .fwRecordWrite who v => Sys2Proof.Machine.execFwRecordWrite who v s
  | .sliceClock n a b => Sys2Proof.Machine.execSliceClock n a b s
  | .rstNRelease bootcfg sbAddr => Sys2Proof.Machine.execRstNRelease bootcfg sbAddr s
  | .wakeMaxExpiry => Sys2Proof.Machine.execWakeMaxExpiry s
  | .nvmeDeleteIoQueue k cq qid => Sys2Proof.Machine.execNvmeDeleteIoQueue k cq qid s
  | .nvmeAbort k sq cid => Sys2Proof.Machine.execNvmeAbort k sq cid s
  | .nvmeSetFeatures k fid value => Sys2Proof.Machine.execNvmeSetFeatures k fid value s
  | .nvmeGetFeatures k fid => Sys2Proof.Machine.execNvmeGetFeatures k fid s
  | .nvmeAsyncEventRequest k => Sys2Proof.Machine.execNvmeAsyncEventRequest k s

end Sys2Proof.Machine
end

