-- ==== Sys2Proof/Machine/Step.lean ====
section
/-!
DEFINITION. Sys2Proof/Machine/Step.lean: one step of the block: the command at the front of the queue, or one tick of MTIME.
-/

namespace Sys2Proof.Machine

/-- One tick of the 100 MHz counter MTIME (R381): what passes while no command waits (DESIGN CHOICE). -/
def State.tick (s : State) : State := { s with now := s.now + 1 }

/-- The command at the front of the queue leaves it and has its effect; with no command waiting, a tick passes. -/
def step (s : State) : Host.Outcome State Fault Refusal :=
  match s.pending with
  | [] => .next s.tick
  | c :: rest => exec c { s with pending := rest }

/-- The command that a table word spells put at the front of the queue; no word spells one. -/
def State.withFetchWord (s : State) (nbits w : Nat) : State :=
  match decodeTableWord nbits w with
  | none => s
  | some c => { s with pending := c :: s.pending }

end Sys2Proof.Machine
end

