-- ==== Sys2Proof/WellFormed.lean ====
section
/-!
DEFINITION. Sys2Proof/WellFormed.lean: which operands a command's sender can give: access widths, offsets and addresses of
the maps, the widths of fields that a protocol carries, numbers of samples. A meaning answers for any operand; these checks
say which commands the part can meet.
-/

namespace Sys2Proof

/-- The width in bits of a Towpath access: a byte, a halfword or a word; wider accesses stop in the core (R481). -/
def accessBits (w : Nat) : Bool := w = 8 || w = 16 || w = 32

/-- The width in bytes of a core's access. -/
def accessBytes (w : Nat) : Bool := w = 1 || w = 2 || w = 4 || w = 8

/-- A dword of the PCIe configuration space; a dword of BAR0 (R105, R106). -/
def cfgOffset (o : Nat) : Bool := o % 4 = 0 && o < 4096
def barOffset (o : Nat) : Bool := o % 4 = 0

/-- A sideband command code that R114 does not list. -/
def unknownCode (c : Nat) : Bool :=
  c < 2 ^ 8 && !(c = 0x01 || c = 0x02 || c = 0x03 || c = 0x10 || c = 0x11 || c = 0x20)

/-- The fields of a host command fit the context's fields (R132). -/
def HostCmd.wf (c : HostCmd) : Bool :=
  c.tenant < 2 ^ 16 && c.queue < 2 ^ 16 && c.tag < 2 ^ 16 && c.opcode < 2 ^ 8 && c.target < 2 ^ 128 && c.granOfs < 2 ^ 32
    && c.granCnt < 2 ^ 32 && c.dptr < 2 ^ 128 && c.p1 < 2 ^ 32 && c.flg < 2 ^ 8

/-- The command's operands are ones its sender can give. -/
def Instr.wf (i : Instr) : Bool :=
  match i with
  | .registerWrite _ _ width off _ => accessBits width && (off < 2 ^ 28 : Bool)
  | .loadStoreMisaligned _ _ width addr => accessBytes width && (addr < 2 ^ 56 : Bool)
  | .wideTowpathAccess _ _ width addr => accessBytes width && (addr < 2 ^ 56 : Bool)
  | .unmappedAccessFault _ _ width addr _ => accessBytes width && (addr < 2 ^ 56 : Bool)
  | .atomicAccessFault _ _ width addr _ => ((width = 4 || width = 8) : Bool) && (addr < 2 ^ 56 : Bool)
  | .crossingDelivery _ _ _ _ => true
  | .crossingHeldRelease _ => true
  | .powerOnReset _ _ _ => true
  | .pinReset _ => true
  | .keyDeviceReset _ _ => true
  | .keystoneWatchdogExpiry => true
  | .resetDeferExpiry => true
  | .kenulSlotCheck _ _ _ => true
  | .kenulApply => true
  | .loaderCheck _ _ => true
  | .fuseProgram _ _ unlock _ _ => (unlock < 2 ^ 16 : Bool)
  | .fuseRevoke _ _ unlock _ _ => (unlock < 2 ^ 16 : Bool)
  | .fuseOpDone _ => true
  | .modeReqService _ _ => true
  | .modeReqSurvey _ _ => true
  | .modeReqMigration _ _ => true
  | .modeReqDormant _ _ => true
  | .modeReqHaven _ _ => true
  | .modeReqBedding _ _ => true
  | .dormantEntryProgress => true
  | .dormantWakeExpiry => true
  | .dormantWorkDone => true
  | .modeTransitionComplete => true
  | .havenSettled => true
  | .heldDataWrite => true
  | .linkTrained _ _ _ _ partner => (partner < 2 ^ 64 : Bool)
  | .linkLost _ _ => true
  | .linkDisable _ _ _ => true
  | .hostSideReset _ => true
  | .nvmeControllerReset _ => true
  | .nvmeDoorbellWrite _ ofs _ => barOffset ofs
  | .nvmeCommandFetch _ sq entry => (sq < 2 ^ 16 : Bool) && (entry < 2 ^ 512 : Bool)
  | .nvmeFetchResume _ => true
  | .sasCommandFrame _ _ lun tag space _ cdb => (lun < 2 ^ 16 : Bool) && (tag < 2 ^ 16 : Bool) && (space < 2 ^ 15 : Bool) && (cdb < 2 ^ 256 : Bool)
  | .sasTaskManagement _ _ _ lun tag space => (lun < 2 ^ 16 : Bool) && (tag < 2 ^ 16 : Bool) && (space < 2 ^ 15 : Bool)
  | .sataCommand c => c.wf
  | .hostConfigRead _ ofs => cfgOffset ofs
  | .hostBar0Read _ ofs dwords => barOffset ofs && (1 ≤ dwords : Bool)
  | .hostConfigWrite _ ofs _ => cfgOffset ofs
  | .hostBar0Write _ ofs _ => barOffset ofs
  | .shadowStage _ _ _ => true
  | .shadowRead _ _ => true
  | .shadowCommit _ _ => true
  | .shadowDiscard _ _ => true
  | .shadowCommitEffect _ => true
  | .inquiry _ _ _ page => (page < 2 ^ 8 : Bool)
  | .identifyDevice _ => true
  | .nvmeIdentify _ cns data => (cns < 2 ^ 8 : Bool) && (data < 2 ^ 32768 : Bool)
  | .nvmeGetLogPage _ lid _ => (lid < 2 ^ 8 : Bool)
  | .namespaceManagement _ _ _ => true
  | .namespaceAttachment _ => true
  | .firmwareImageDownload _ => true
  | .firmwareCommit _ => true
  | .createIoQueue _ => true
  | .blockRead _ _ _ => true
  | .blockWrite _ _ _ => true
  | .nvmeFlush _ => true
  | .synchronizeCache _ => true
  | .flushCacheExt _ => true
  | .writeZeroes _ => true
  | .deallocate _ _ => true
  | .blockVerify _ _ => true
  | .compare _ _ _ _ => true
  | .readCapacity _ => true
  | .reportLuns _ => true
  | .testUnitReady _ => true
  | .requestSense _ => true
  | .startStopUnit _ _ => true
  | .modeSense _ page => (page < 2 ^ 8 : Bool)
  | .modeSelect _ page _ => (page < 2 ^ 8 : Bool)
  | .logSense _ page _ => (page < 2 ^ 8 : Bool)
  | .persistentReserveIn _ => true
  | .persistentReserveOut _ _ => true
  | .writeBuffer _ => true
  | .readBuffer _ => true
  | .readFpdmaQueued _ c => c.wf
  | .writeFpdmaQueued _ c => c.wf
  | .setFeatures _ _ _ => true
  | .readLogExt _ page _ => (page < 2 ^ 8 : Bool)
  | .downloadMicrocode _ => true
  | .objCreate _ => true
  | .objWrite _ _ _ => true
  | .objRead _ _ _ => true
  | .objOpen _ => true
  | .objGetAttr _ => true
  | .objClose _ => true
  | .objDelete _ => true
  | .objList _ => true
  | .objSetClass _ => true
  | .objVerify _ _ _ => true
  | .mailboxCmdSend _ words => (words.length ≤ 16 : Bool)
  | .mailboxCmdReceive _ => true
  | .mailboxCmdDoorbell _ => true
  | .mailboxCmdAck _ => true
  | .mailboxCmdStatus _ => true
  | .sbSetPointer count _ _ => (count < 2 ^ 8 : Bool)
  | .sbRead => true
  | .sbWrite count _ _ => (count < 2 ^ 8 : Bool)
  | .sbMailboxSend count _ _ => (count < 2 ^ 8 : Bool)
  | .sbMailboxReceive => true
  | .sbDeviceReset count _ _ => (count < 2 ^ 8 : Bool)
  | .sbUnknownCode code _ => unknownCode code
  | .smbusClockTimeout => true
  | .i3cEntdaa _ => true
  | .i3cSetdasa _ _ => true
  | .i3cRstdaa => true
  | .i3cEnec _ _ => true
  | .i3cDisec _ _ => true
  | .i3cGetpid => true
  | .i3cGetbcr => true
  | .i3cGetdcr => true
  | .i3cGetstatus => true
  | .i3cGetmwlGetmrl _ => true
  | .hotJoinAttempt => true
  | .tenantConfigWrite _ _ _ _ => true
  | .allowanceWrite _ _ _ => true
  | .tenantPurge _ _ => true
  | .ctxTake _ _ => true
  | .ctxPostMedia _ _ => true
  | .ctxPostPort _ _ => true
  | .ctxPostStaged _ _ => true
  | .ctxPostDone _ _ => true
  | .ctxPostFree _ _ => true
  | .ctxPop _ _ _ => true
  | .writePlacement _ => true
  | .rowPadTimeout _ _ => true
  | .cleanerSelect => true
  | .surveySchedule => true
  | .surveyBandDone _ _ => true
  | .checkpointTimerExpiry => true
  | .checkpointBandCount => true
  | .checkpointGo _ _ => true
  | .checkpointComplete => true
  | .touchstoneCopyWritten _ => true
  | .waymarkLoad _ => true
  | .waymarkReplayDone => true
  | .unitTakeOut _ _ => true
  | .unitForcedTakeOut _ _ => true
  | .unitBringIn _ _ => true
  | .drainStepDone => true
  | .unitCalibrationResult _ => true
  | .adcCalComplete _ => true
  | .adcTrimOutOfRange _ => true
  | .headZoneSelect _ _ _ => true
  | .sourceSelect _ _ _ => true
  | .taEventStart _ => true
  | .taEventEnd _ => true
  | .freezeAssert _ _ _ => true
  | .freezeTailExpiry _ => true
  | .clearanceResult _ => true
  | .writeChannelSelect _ _ _ => true
  | .writeHeatRequest _ _ _ => true
  | .gateRequest _ => true
  | .heatTimeout _ => true
  | .gateDrop _ => true
  | .gateConditionLost _ => true
  | .writeUnderrun _ => true
  | .milestoneReferenceSample _ _ => true
  | .milestoneHoldoverExpiry _ => true
  | .milestoneZoneChange _ => true
  | .sectorFramed _ _ _ _ _ => true
  | .reframe _ _ _ => true
  | .reframeDone _ => true
  | .descriptorPush _ _ _ => true
  | .descriptorFlush _ _ _ => true
  | .engineDispatch _ => true
  | .decodeComplete _ => true
  | .completionPost _ => true
  | .completionPop _ _ _ => true
  | .engineFault _ => true
  | .engineFaultClear _ _ => true
  | .replayEnd _ => true
  | .ringFind _ _ _ => true
  | .ringFindDone _ => true
  | .loopTrigger _ _ => true
  | .loopRun _ => true
  | .basaltTick _ => true
  | .loopKick _ _ => true
  | .loopEnable _ _ _ => true
  | .loopDisable _ _ _ => true
  | .loopClear _ _ => true
  | .bankSwap _ _ => true
  | .integratorWrite _ _ _ => true
  | .generalInputWrite _ _ _ => true
  | .servoHwmClear _ _ => true
  | .positionSample _ => true
  | .sampleMissingTimeout _ => true
  | .actuatorLoad _ _ => true
  | .actuatorUnload _ _ => true
  | .seek _ _ _ => true
  | .headSelect _ _ _ _ => true
  | .loadTimeout _ => true
  | .lostTimeout _ => true
  | .unloadStall _ => true
  | .unloadTimeout _ => true
  | .vcmVelocitySample _ mv ma => (mv.length = 8 : Bool) && (ma.length = 8 : Bool)
  | .ditherEnable _ _ _ => true
  | .shockSample _ _ => true
  | .shockRelease => true
  | .preampFrameEnd _ _ => true
  | .preampStatusPoll _ => true
  | .preampRawTransfer _ _ _ => true
  | .preampFault _ _ => true
  | .preampEnumeration _ => true
  | .spindleStart _ => true
  | .spindleStop _ => true
  | .spindleStopBrake _ => true
  | .millstoneTick _ _ => true
  | .catchWindowEnd => true
  | .brakeTimeout => true
  | .alignDone => true
  | .lockedRotor => true
  | .lockedRotorRetry => true
  | .speedRegulated => true
  | .rotorLoss => true
  | .rotorReacquired => true
  | .reacquisitionFail => true
  | .flyingLimit => true
  | .stopComplete => true
  | .coastToIdle => true
  | .auxInputUp => true
  | .mainInputUp _ => true
  | .railInRegulation _ _ => true
  | .socRelease _ _ _ => true
  | .railFault _ _ => true
  | .ballastReady _ => true
  | .linkHeartbeat _ => true
  | .linkWatchdogExpiry => true
  | .stageTrip _ _ => true
  | .stageUnlatch _ _ => true
  | .regenClamp => true
  | .chargeTimeout => true
  | .bankMeasureGo _ _ => true
  | .measureTimerExpiry => true
  | .bankMeasureDone _ _ _ => true
  | .vaultAllowanceUpdate _ => true
  | .powerLoss _ _ => true
  | .vaultFlushDone => true
  | .bankAtVret => true
  | .mainReturn _ => true
  | .emergencyRetract => true
  | .retractComplete => true
  | .thermalLevelChange _ => true
  | .hbmTrainingDone => true
  | .hbmTrainingFail _ => true
  | .bedrockWaitTimeout => true
  | .hbmRead _ _ _ _ _ => true
  | .hbmWrite _ ofs len v _ => (1 ≤ len && len ≤ 64 - ofs.toNat % 64 : Bool) && (v < 2 ^ (8 * len) : Bool)
  | .idleClaim _ => true
  | .hbmTempRead _ => true
  | .hbmRefresh => true
  | .arbitrationWindow => true
  | .pprSoft _ _ _ => true
  | .pprHard _ _ _ => true
  | .pprDone _ => true
  | .bdpRead _ _ => true
  | .bdpWrite _ _ => true
  | .bdpStage _ _ => true
  | .bdpDataRead _ => true
  | .bdpDone => true
  | .scrubRead _ _ => true
  | .scrubLapStart => true
  | .sramScrubStep _ _ _ _ => true
  | .shaleEnable _ _ => true
  | .shaleDisable _ _ => true
  | .shaleDrainDone => true
  | .shaleInvRange _ _ => true
  | .shaleInvAll _ _ => true
  | .shaleFill _ _ => true
  | .shaleOpDone => true
  | .shaleLock _ _ => true
  | .lockstepMismatch _ => true
  | .pairRestart _ _ => true
  | .pairRestartDone _ => true
  | .heartbeat _ _ => true
  | .heartbeatConfig _ _ _ => true
  | .heartbeatMiss _ => true
  | .watchdogRestart _ => true
  | .deviceResetRequest _ _ _ => true
  | .keyStuckTimeout _ => true
  | .translate _ iova _ _ => (iova < 2 ^ 64 : Bool)
  | .streamConfig _ _ _ _ => true
  | .streamFaultClear _ _ _ => true
  | .iotlbInvAll _ _ => true
  | .iotlbInvStream _ _ _ => true
  | .iotlbInvPage _ _ _ => true
  | .iotlbInvDone => true
  | .faultPop _ _ => true
  | .interruptClaim _ _ _ => true
  | .interruptComplete _ _ _ _ => true
  | .machineTimerInterrupt _ => true
  | .mailboxPush _ _ _ _ => true
  | .mailboxPop _ _ _ => true
  | .doorbellSet _ _ _ _ => true
  | .mailboxAcknowledge _ _ _ _ => true
  | .mailboxRequestTimeout _ _ => true
  | .workRead _ _ _ => true
  | .workWriteRun _ _ _ => true
  | .workLadder _ _ _ => true
  | .workSurvey _ _ _ => true
  | .workFormat _ _ _ => true
  | .workDispatch _ => true
  | .nop _ => true
  | .alu _ _ _ _ _ => true
  | .addi _ _ _ _ => true
  | .lui _ _ _ => true
  | .branch _ _ _ _ => true
  | .call _ _ => true
  | .returnOp _ => true
  | .towpathRead _ _ _ _ => true
  | .towpathWrite _ _ _ _ => true
  | .scratchLoad _ _ _ _ => true
  | .scratchStore _ _ _ _ => true
  | .nano _ _ _ _ _ _ _ _ => true
  | .wait _ _ _ _ => true
  | .waitLimitExpiry _ => true
  | .routine _ _ => true
  | .commitTowpath _ _ _ => true
  | .commitContext _ _ _ _ => true
  | .commitDone _ _ _ => true
  | .commitMark _ _ _ => true
  | .returnFromEvent _ => true
  | .sequencerFault _ _ => true
  | .sequencerGateAbandon _ => true
  | .sequencerHandover _ => true
  | .sequencerAbort _ _ => true
  | .sequencerRestart _ _ => true
  | .patchLoad _ _ => true
  | .channelStart _ _ _ => true
  | .channelDisable _ _ => true
  | .channelDrained _ => true
  | .burstIssue => true
  | .beatReadResponse _ => true
  | .beatWriteResponse _ => true
  | .requestEdge _ => true
  | .softwareRequest _ _ => true
  | .generalTimerExpiry _ => true
  | .segmentAdjust _ _ _ => true
  | .segmentClear _ _ => true
  | .rawBlockOp _ _ _ _ => true
  | .coreBlockDone _ => true
  | .keyStage _ _ => true
  | .keyLoad _ _ => true
  | .keyZero _ _ => true
  | .authUnitOpen _ _ => true
  | .authUnitCompare _ _ _ => true
  | .authUnitClose _ _ => true
  | .authTagWrite _ _ _ _ => true
  | .authDataRead _ _ => true
  | .laneBlockLock _ => true
  | .laneLockLoss _ => true
  | .alignBlock _ _ => true
  | .alignSend => true
  | .helloFrame len frame => (len ≤ 32856 : Bool) && (frame < 2 ^ (8 * len) : Bool)
  | .helloTimer => true
  | .ackFrame len frame => (len ≤ 32856 : Bool) && (frame < 2 ^ (8 * len) : Bool)
  | .nakFrame len frame => (len ≤ 32856 : Bool) && (frame < 2 ^ (8 * len) : Bool)
  | .retransmitTimeout => true
  | .ackKeepalive => true
  | .peerTimeout => true
  | .planFrame len frame => (len ≤ 32856 : Bool) && (frame < 2 ^ (8 * len) : Bool)
  | .planAckFrame len frame => (len ≤ 32856 : Bool) && (frame < 2 ^ (8 * len) : Bool)
  | .tenantFrame len frame => (len ≤ 32856 : Bool) && (frame < 2 ^ (8 * len) : Bool)
  | .itemBeginFrame len frame => (len ≤ 32856 : Bool) && (frame < 2 ^ (8 * len) : Bool)
  | .dataFrame len frame => (len ≤ 32856 : Bool) && (frame < 2 ^ (8 * len) : Bool)
  | .itemEndFrame len frame => (len ≤ 32856 : Bool) && (frame < 2 ^ (8 * len) : Bool)
  | .itemAbortFrame len frame => (len ≤ 32856 : Bool) && (frame < 2 ^ (8 * len) : Bool)
  | .itemReadbackDone t kind id ofs _ => (t < 2 ^ 16 : Bool) && (kind < 2 ^ 8 : Bool) && (id < 2 ^ 128 : Bool) && (ofs < 2 ^ 32 : Bool)
  | .verifiedFrame len frame => (len ≤ 32856 : Bool) && (frame < 2 ^ (8 * len) : Bool)
  | .historyFrame len frame => (len ≤ 32856 : Bool) && (frame < 2 ^ (8 * len) : Bool)
  | .stopFrame len frame => (len ≤ 32856 : Bool) && (frame < 2 ^ (8 * len) : Bool)
  | .endFrame len frame => (len ≤ 32856 : Bool) && (frame < 2 ^ (8 * len) : Bool)
  | .exportGranuleRead _ => true
  | .sessionGo _ => true
  | .sessionStop _ => true
  | .sessionDrained => true
  | .faultLatch _ _ _ => true
  | .faultPinPulseEnd => true
  | .faultPinHold _ _ _ => true
  | .faultClear _ _ _ _ => true
  | .fatalClearDone _ => true
  | .graceExpiry _ => true
  | .heldTakeoutIssue => true
  | .keystoneBackstop => true
  | .tollgateSelfCheck _ => true
  | .tollgateArmed => true
  | .injectArm _ _ count _ _ => (1 ≤ count : Bool)
  | .injectDisarm _ _ => true
  | .minuteTick => true
  | .cairnRestore _ => true
  | .logFreeze _ _ => true
  | .logUnfreeze _ _ => true
  | .freezeTimeout => true
  | .sbWindowHeadRead => true
  | .sbWindowAdvance => true
  | .persistTimer => true
  | .persistGo _ _ => true
  | .persistDone _ => true
  | .logRelease _ _ => true
  | .releaseApplied => true
  | .fwRecordStage _ _ => true
  | .fwRecordWrite _ _ => true
  | .sliceClock _ a b => (a.length = 8 : Bool) && (b.length = 8 : Bool)
  | .rstNRelease _ _ => true
  | .wakeMaxExpiry => true
  | .nvmeDeleteIoQueue _ _ qid => (qid < 2 ^ 16 : Bool)
  | .nvmeAbort _ sq cid => (sq < 2 ^ 16 : Bool) && (cid < 2 ^ 16 : Bool)
  | .nvmeSetFeatures _ fid _ => (fid < 2 ^ 8 : Bool)
  | .nvmeGetFeatures _ fid => (fid < 2 ^ 8 : Bool)
  | .nvmeAsyncEventRequest _ => true

end Sys2Proof
end

