-- ==== Sys2Proof/Safety.lean ====
section
/-!
DEFINITION. Sys2Proof/Safety.lean: the terms in which claims about the part are stated: a command completes, what it leaves
alone, and what a safe step is.
-/

namespace Sys2Proof.Machine

/-- The command completes: it answers a next state, of which `P` holds. -/
def Completes (c : Instr) (s : State) (P : State → Prop) : Prop := ∃ t, exec c s = .next t ∧ P t

/-- Every register but those at the offsets listed, and every byte of memory, is as it was. -/
def OnlyRegs (l : List Nat) (s t : State) : Prop := (∀ o, o ∉ l → t.rd o = s.rd o) ∧ ∀ a, t.byte a = s.byte a

/-- Every register and every byte of memory is as it was. -/
def SameRegs (s t : State) : Prop := OnlyRegs [] s t

/-- A step is safe when it answers a next state: the part never stops on a command, it reports errors inside itself (R14). -/
def SafeStep (s : State) : Prop := ∃ t, step s = .next t

/-- What every step keeps: memory in its canonical form. -/
def MemoryCanonical (s : State) : Prop := Memory.wf s.mem = true

/-- Every waiting command is one that its sender can give. -/
def QueueWellFormed (s : State) : Prop := ∀ c ∈ s.pending, c.wf = true

/-- Key slot `k` as the fuses hold it. -/
def State.fuseSlot (s : State) (k : Nat) : KeySlot := (s.sys.fuses.slots[k]?).getD {}

/-- No fuse that `s` shows burned is unburned in `t` (R75, R76). -/
def FusesStay (s t : State) : Prop :=
  ∀ k, ((s.fuseSlot k).revoked = true → (t.fuseSlot k).revoked = true) ∧
    ((s.fuseSlot k).programmed = true → (t.fuseSlot k).programmed = true)

/-- The held context `k` is an NVMe or SAS mailbox command with ACTION `act` that reaches mailbox `m`, its group's own (R383, R388). -/
def State.mailboxTakes (s : State) (k act m : Nat) : Prop :=
  s.holds k opMailbox = true ∧ (s.ctx k).boxAction = act ∧ (s.ctx k).origin ≤ 1 ∧ (s.ctx k).proto ≤ 2 ∧ s.ready .milepost = true ∧
    s.groupBox (s.ctx k).origin = some m

/-- No injection is armed: a checker sees what it checks as it is (R449). -/
def State.noInjection (s : State) : Prop := s.flag R.TGT_INJ_STAT F.TGT_INJ_STAT_ARMED = false

/-- Context `k` holds a command of the set `o` whose turn it is, and it gets past what every command that needs the media is judged
by first: Haven's end of what it finds in flight, the mode, the tenant and its reservations (R82, R97, R102, R117). -/
def State.commandReaches (s : State) (k : Nat) (o : OpSet) (write : Bool) : Prop :=
  s.holds k o = true ∧ ¬(s.mode = mHaven ∧ s.wasInFlight k = true) ∧ s.modeRefusal k (s.ctx k).proto write = none ∧
    s.tenantOk (s.ctx k) = true ∧ s.blocked k write = false

/-- Context `k` holds a command of the set `o` whose turn it is, of a tenant that is there, and no reservation bars it (R102, R117). -/
def State.tenantReaches (s : State) (k : Nat) (o : OpSet) (write : Bool) : Prop :=
  s.holds k o = true ∧ s.tenantOk (s.ctx k) = true ∧ s.blocked k write = false

/-- A block command that reaches its tenant's blocks: the tenant has the block view, an NVMe transfer keeps to MDTS, and the range
ends inside the capacity (R90, R122, R131). -/
def State.blockReaches (s : State) (k : Nat) (o : OpSet) (write : Bool) : Prop :=
  s.commandReaches k o write ∧ s.objView (s.ctx k).tenant = false ∧ overMdts (s.ctx k) = false ∧
    s.beyondCapacity (s.ctx k) = false

/-- Object command `n` that reaches its object `o`, its fields in order (R127, R131). -/
def State.objectReaches (s : State) (k n : Nat) (write : Bool) (o : Obj) : Prop :=
  s.commandReaches k (opObj n) write ∧ s.objView (s.ctx k).tenant = true ∧ s.badFields k n = false ∧
    (write = false → s.beyondResume ⟨(s.ctx k).tenant, 1, (s.ctx k).target, 0⟩ = false) ∧ s.objOf (s.ctx k) = some o

/-- The sideband listens, and a write of `n` bytes with this error check code reaches its command (R402 to R420). -/
def State.sidebandTakes (s : State) (p : Pec) : Prop :=
  s.ready .sideband = true ∧ s.sbWriteNack = false ∧ s.pecOk p = true

/-- `i` may configure loop `l`, whose present configuration is a legal one that drives nothing (R267, R270). -/
def State.loopLegal (s : State) (i : Initiator) (l : Nat) : Prop :=
  s.basOpen i = true ∧ 10 ≤ l ∧ s.rf (R.BAS_LCFG l) F.BAS_LCFG_NFF ≤ 4 ∧ s.rf (R.BAS_LCFG l) F.BAS_LCFG_NBQ ≤ 6 ∧
    s.outerOk l (s.rf (R.BAS_LCFG l) F.BAS_LCFG_OUTER) = true ∧ trigOk (s.rf (R.BAS_LCFG l) F.BAS_LCFG_TRIG) = true ∧
    s.rf (R.BAS_LIO l) F.BAS_LIO_DST = 0

end Sys2Proof.Machine
end

