-- ==== Sys2Proof/Certificates/Slice0/Obligations.lean ====
section
/-!
DEFINITION. Sys2Proof/Certificates/Slice0/Obligations.lean: the statements for the provers. The per-command statements say of
every row of the command table where it completes and in which state; `Completes`, `OnlyRegs` and `SameRegs` are in
Sys2Proof/Safety.lean.
-/

open Sys2Proof Sys2Proof.Machine

/-- A step takes the command at the front of the queue and runs it on the state with the queue's rest. -/
def Obligations.StepRunsTheFrontCommand : Prop :=
∀ (c : Instr) (s : State), step { s with pending := c :: s.pending } = exec c s

/-- On an empty queue a tick of MTIME passes and nothing else happens; that a tick passes on an empty queue, and only
there, is the model's own choice, said in log entry 3. -/
def Obligations.EmptyQueueTicks : Prop :=
∀ s : State, s.pending = [] → step s = .next { s with now := s.now + 1 }

/-- No command stops the part: errors are reported inside it, or are silent. -/
def Obligations.EveryStepIsSafe : Prop :=
∀ s : State, SafeStep s

/-- Every step keeps memory's canonical form, whatever the command. -/
def Obligations.EveryStepKeepsMemoryCanonical : Prop :=
∀ s t : State, MemoryCanonical s → step s = .next t → MemoryCanonical t

/-- No command touches the queue of the commands behind it: they run in the order in which they came. -/
def Obligations.CommandsLeaveTheQueue : Prop :=
∀ (c : Instr) (s t : State), exec c s = .next t → t.pending = s.pending

/-- A fuse that is burned stays burned through every step: resets included, the slots are one-time programmable. -/
def Obligations.BurnedFusesStayBurned : Prop :=
∀ s t : State, step s = .next t → FusesStay s t

/-- What reset leaves: Bedding, a power-on reset as the cause, no image, no claim, all memory zero, no command, and
nothing burned. -/
def Obligations.ResetState : Prop :=
MemoryCanonical State.reset ∧ QueueWellFormed State.reset ∧ State.reset.pending = [] ∧ State.reset.mode = mBedding ∧
    State.reset.rd R.SYS_RST_CAUSE = 1 ∧ State.reset.rd R.SYS_READY = 0 ∧ State.reset.kenul = none ∧
    (∀ a, State.reset.byte a = 0) ∧ ∀ o id, State.reset.mayControl o id = false

/-- While SYS_READY.QUARRY is 0 a write anywhere in the QRY block has no effect, whoever sends it and whatever it writes. -/
def Obligations.QuarryWritesNeedReady : Prop :=
∀ (s : State) (i : Initiator) (p : Priv) (width off : Nat) (v : Word), s.ready .quarry = false →
    0x1800000 ≤ off → off < 0x1900000 →
      exec (.registerWrite i p width off v) s = .next s

/-- Who may request a mode: either pair any mode, from machine mode; Keystone and the sideband only Haven. Any other write
of SYS_MODE_REQ has no effect. -/
def Obligations.ModeRequestersAreChecked : Prop :=
∀ (s : State) (i : Initiator) (p : Priv) (v : Word), s.bls.held = false →
    (((i = .port ∨ i = .media) ∧ p = .machine) ∨
        ((i = .keystone ∨ i = .sideband) ∧ fget v F.SYS_MODE_REQ_TARGET = 5 ∧ p ≠ .user) →
      exec (.registerWrite i p 32 R.SYS_MODE_REQ v) s = .next (s.writeModeReq i p v)) ∧
    (¬((i = .port ∨ i = .media) ∧ p = .machine) →
      ¬((i = .keystone ∨ i = .sideband) ∧ fget v F.SYS_MODE_REQ_TARGET = 5) →
        exec (.registerWrite i p 32 R.SYS_MODE_REQ v) s = .next s)

/-- The Signpost source of channel `k` is 64 + `k`: asserted exactly while some bit of CAR_CH_EVT[k] is 1 with its bit in
CAR_CH_EVT_EN[k] also 1. -/
def Obligations.CarriageSourcesAssert : Prop :=
∀ (s : State) (k : Fin 32),
    s.asserted (64 + k.val) = true ↔
      ∃ b < 32, (s.rd (R.CAR_CH_EVT k.val)).getLsbD b = true ∧ (s.rd (R.CAR_CH_EVT_EN k.val)).getLsbD b = true

/-- Only the pairs may write BED registers; Keystone may read them, but its accesses to BED_BDP_DATA and BED_BDP_GO have
no effect and read zero. -/
def Obligations.BedrockRegistersAreGuarded : Prop :=
(∀ (s : State) (i : Initiator) (p : Priv) (width off : Nat) (v : Word), i ≠ .port → i ≠ .media →
    0x700000 ≤ off → off < 0x800000 →
      exec (.registerWrite i p width off v) s = .next s) ∧
  (∀ (s : State) (p : Priv) (off : Nat), s.bls.held = false → p ≠ .user → (findReg off).isSome = true → off % 4 = 0 → 0x700000 ≤ off →
    off < 0x800000 → off ≠ R.BED_BDP_DATA → off ≠ R.BED_BDP_GO →
      s.towRead .keystone p 32 off = s.answer (s.regValue off)) ∧
  (∀ (s : State) (p : Priv) (width off : Nat), off = R.BED_BDP_DATA ∨ off = R.BED_BDP_GO →
    s.towRead .keystone p width off = s.answer 0)

/-- The reservations of the two groups together stay within 32,768 contexts: a write that would go beyond has no effect,
one that stays within stores its value, and a group with personality 0 counts as 0, whatever its register holds. For
SATA a lower value than 33 is stored as 33, and the register reads at least 33. -/
def Obligations.ReservationsFit : Prop :=
(∀ (s : State) (i : Initiator) (g : Fin 2) (v : Word) (n : Nat), i = .port ∨ i = .media →
    n = (if s.pers g.val = 3 then max 33 (fget v F.HP_CTX_MIN_MIN) else fget v F.HP_CTX_MIN_MIN) →
      ((if s.pers g.val = 0 then 0 else n) + s.ctxMin (1 - g.val) > 32768 →
        exec (.registerWrite i .machine 32 (R.HP_CTX_MIN g.val) v) s = .next s) ∧
      ((if s.pers g.val = 0 then 0 else n) + s.ctxMin (1 - g.val) ≤ 32768 → s.bls.held = false →
        Completes (.registerWrite i .machine 32 (R.HP_CTX_MIN g.val) v) s fun t =>
          t.rf (R.HP_CTX_MIN g.val) F.HP_CTX_MIN_MIN = n ∧ OnlyRegs [R.HP_CTX_MIN g.val] s t)) ∧
  (∀ (s : State) (g : Fin 2), s.pers g.val = 0 → s.ctxMin g.val = 0) ∧
  (∀ s : State, s.pers 0 = 3 → 33 ≤ fget (s.regValue (R.HP_CTX_MIN 0)) F.HP_CTX_MIN_MIN)

/-- A detection that Tollgate receives latches its source at the higher of the two classes, and no other source's latch or
class changes. A clear of a source that is not fatal, and whose line is quiet, takes its latch and its class away; a
clear that names a fatal source that may not be cleared changes nothing. -/
def Obligations.FaultsLatchAndClear : Prop :=
  (∀ (s : State) (src : Fin 52) (cls : Fin 4), src.val ≠ 0 → cls.val ∈ tgtClasses src.val → s.ready .tollgate = true →
    s.noInjection → Completes (.faultLatch src cls false) s fun t =>
      t.latched src.val = true ∧
        t.latchedClass src.val = max (if s.latched src.val then s.latchedClass src.val else 0) cls.val ∧
        ∀ n < 52, n ≠ src.val → t.latched n = s.latched n ∧ t.latchedClass n = s.latchedClass n) ∧
(∀ (s : State) (i : Initiator) (n : Fin 32), isPair i = true → s.latched n.val = true → s.latchedClass n.val < 3 →
    spGetD 0 s.tgt.line n.val = 0 →
      Completes (.faultClear i .machine false (word (2 ^ n.val))) s fun t =>
        t.latched n.val = false ∧ t.latchedClass n.val = 0 ∧
          ∀ m < 52, m ≠ n.val → t.latched m = s.latched m ∧ t.latchedClass m = s.latchedClass m) ∧
  (∀ (s : State) (i : Initiator) (n : Fin 32), s.fatalHeld n.val = true →
    exec (.faultClear i .machine false (word (2 ^ n.val))) s = .next s)

/-- An event that Cairn can take at once, with sequence numbers reserved, becomes the newest record, under the next
number, and the log keeps all that it held. -/
def Obligations.RecordsAreAppended : Prop :=
∀ (s : State) (e : Event), s.crn.restored = true → s.frozen = false → s.crn.reserveWait = false → s.crn.lost = 0 →
    s.crn.fb = false → s.crn.log.length + 1 < logMax → s.crn.next < s.crn.res →
      ∃ r : Rec, r.ev = e ∧ r.seq = s.crn.next ∧ (s.record e).crn.log = s.crn.log ++ [r] ∧
        (s.record e).crn.next = s.crn.next + 1

/-- A tenant's purge drops its mappings, its objects and its accounts, and stands busy until a checkpoint holds it. A unit
command's result stands in WAY_UNIT_STAT and changes no unit's state. A checkpoint that completes is the newest of at
most two, under the next sequence number. -/
def Obligations.WaymarkReports : Prop :=
  (∀ (s : State) (i : Initiator) (v : Word), isPair i = true → s.flag R.WAY_TEN_PURGE F.WAY_TEN_PURGE_BUSY = false →
    fget v F.WAY_TEN_PURGE_TENANT ≠ 0 → fget v F.WAY_TEN_PURGE_TENANT ≤ 256 →
      s.flag (R.WAY_TEN_CFG (fget v F.WAY_TEN_PURGE_TENANT - 1)) F.WAY_TEN_CFG_ENABLE = false →
        Completes (.tenantPurge i v) s fun t =>
          (∀ q, q.tenant = fget v F.WAY_TEN_PURGE_TENANT → t.mapped q = none) ∧
            (∀ o ∈ t.cmd.objects, o.tenant ≠ fget v F.WAY_TEN_PURGE_TENANT) ∧
            t.way.purge = some (fget v F.WAY_TEN_PURGE_TENANT) ∧ t.flag R.WAY_TEN_PURGE F.WAY_TEN_PURGE_BUSY = true) ∧
  (∀ (s : State) (op kind unit r : Nat) (forced : Bool), r < 16 →
    (s.unitResult op kind unit forced r).rf R.WAY_UNIT_STAT F.WAY_UNIT_STAT_RESULT = r ∧
      (∀ k u, (s.unitResult op kind unit forced r).unitState k u = s.unitState k u) ∧
      OnlyRegs [R.WAY_UNIT_STAT, R.CRN_EVT] s (s.unitResult op kind unit forced r)) ∧
  (∀ (s : State) (b1 b2 : Nat), s.way.ckptRun = some (b1, b2) → s.ckptWriters b1 b2 = true → s.ckptFits b1 b2 = true →
    s.way.ckptReq = false →
    s.completeCkpt.way.ckptRun = none ∧ s.completeCkpt.way.ckptSeq = s.way.ckptSeq + 1 ∧
      s.completeCkpt.way.ckpts.length ≤ 2 ∧
      (s.completeCkpt.way.ckpts.head?).map Ckpt.seq = some (s.way.ckptSeq + 1))

/-- What beginning a restart does to a pair: RESTARTING and the cause stand, the restart is counted, the pair's READY bit
is clear, and its claims of interrupts are dropped; the other pair's status is as it was. A stream's configuration
write: the mode it writes stands, FAULTED is as it was, and no cached translation of the stream is left; a fault clear
clears FAULTED and keeps the mode. -/
def Obligations.PairsRestartAndStreamsAreWritten : Prop :=
  (∀ (s : State) (p : Fin 2) (cause : Nat), cause < 8 →
    (s.beginRestart p.val cause).restarting p.val = true ∧
      (s.beginRestart p.val cause).rf (R.KEY_PAIR_STAT p.val) F.KEY_PAIR_STAT_CAUSE = cause ∧
      (s.beginRestart p.val cause).rf (R.KEY_PAIR_STAT p.val) F.KEY_PAIR_STAT_COUNT
        = min (s.rf (R.KEY_PAIR_STAT p.val) F.KEY_PAIR_STAT_COUNT + 1)
            (2 ^ (F.KEY_PAIR_STAT_COUNT.hi + 1 - F.KEY_PAIR_STAT_COUNT.lo) - 1) ∧
      (s.beginRestart p.val cause).ready (pairReady p.val) = false ∧
      (∀ q ∈ (s.beginRestart p.val cause).pair.service, q.2 / 2 ≠ p.val) ∧
      OnlyRegs [R.KEY_PAIR_STAT p.val, R.SYS_READY, R.SYS_READY_CHG] s (s.beginRestart p.val cause)) ∧
(∀ (s : State) (i : Initiator) (st : Fin 47) (v : Word), isPair i = true → fget v F.TRN_SCTX_MODE < 3 →
    Completes (.streamConfig i .machine st v) s fun t =>
      t.rf (R.TRN_SCTX st.val) F.TRN_SCTX_MODE = fget v F.TRN_SCTX_MODE ∧
        t.rf (R.TRN_SCTX st.val) F.TRN_SCTX_FAULTED = s.rf (R.TRN_SCTX st.val) F.TRN_SCTX_FAULTED ∧
        ∀ e ∈ t.trn.tlb, e.stream ≠ st.val) ∧
  (∀ (s : State) (i : Initiator) (st : Fin 47), isPair i = true → s.rf (R.TRN_SCTX st.val) F.TRN_SCTX_MODE < 3 →
    Completes (.streamFaultClear i .machine st) s fun t =>
      t.flag (R.TRN_SCTX st.val) F.TRN_SCTX_FAULTED = false ∧
        t.rf (R.TRN_SCTX st.val) F.TRN_SCTX_MODE = s.rf (R.TRN_SCTX st.val) F.TRN_SCTX_MODE)

/-- A device reset leaves Bedding, its cause, no READY bit, no image and memory that reads zero; it keeps the fuses, the
log in the boot flash, the counters and the commands that wait. -/
def Obligations.DeviceResetLeaves : Prop :=
∀ (s : State) (c : RstCause), (s.deviceReset c).mode = mBedding ∧
    fget ((s.deviceReset c).rd R.SYS_RST_CAUSE) ⟨4, 0⟩ = rstBit c ∧ (s.deviceReset c).rd R.SYS_READY = 0 ∧
    (s.deviceReset c).kenul = none ∧ (∀ a, (s.deviceReset c).byte a = 0) ∧
    (s.deviceReset c).sys.fuses = s.sys.fuses ∧ (s.deviceReset c).crn.flash = s.crn.flash ∧
    (s.deviceReset c).crn.minutes = s.crn.minutes ∧ (s.deviceReset c).pending = s.pending

/-- What a completed transition shows: the new mode stands, LAST says accepted, BUSY, TARGET and PHASE are clear, and
besides SYS_MODE only Cairn's events may change. Haven settles in its phase when its steps are done, and a reset that
waited for it takes place. The wake to Service completes when MEDIA sets. -/
def Obligations.TransitionsComplete : Prop :=
  (∀ (s : State) (m : Nat), m < 6 →
    (s.acceptMode.modeDone m).mode = m ∧ (s.acceptMode.modeDone m).rf R.SYS_MODE F.SYS_MODE_LAST = 1 ∧
      (s.acceptMode.modeDone m).flag R.SYS_MODE F.SYS_MODE_BUSY = false ∧
      (s.acceptMode.modeDone m).rf R.SYS_MODE F.SYS_MODE_TARGET = 0 ∧
      (s.acceptMode.modeDone m).rf R.SYS_MODE F.SYS_MODE_PHASE = 0 ∧
      OnlyRegs [R.SYS_MODE, R.CRN_EVT] s (s.acceptMode.modeDone m)) ∧
(∀ s : State, s.mode = mHaven → s.sys.havenStep = 6 → s.sys.pendingReset = none →
    s.settleHaven.havenSettled = true ∧ s.settleHaven.flag R.SYS_MODE F.SYS_MODE_BUSY = false) ∧
  (∀ (s : State) (c : RstCause), s.mode = mHaven → s.sys.havenStep = 6 → s.sys.pendingReset = some c →
    s.settleHaven.mode = mBedding ∧ s.settleHaven.sys.fuses = s.sys.fuses ∧ s.settleHaven.kenul = none) ∧
  (∀ s : State, s.sys.trans = .toService → s.mode = mDormant → s.mediaOk = true →
    s.refreshMedia.mode = mService ∧ s.refreshMedia.ready .media = true ∧
      s.refreshMedia.flag R.SYS_MODE F.SYS_MODE_BUSY = false ∧ s.refreshMedia.sys.trans = .none)

/-- A freeze source's bit is what was set, and the other sources' bits are as they were. A gate that is closed or
abandoned is closed. The latched requests of a loop's configuration are kept: a legal write of its own present word
with CLR set leaves CLR set, and with SWAP set leaves SWAP set; TRIG of a fixed slot does not change. -/
def Obligations.LatchedRequestsStand : Prop :=
  (∀ (s : State) (n : Fin 8) (src : Fin 6) (b : Bool),
    bitAt ((s.setFrz n.val src.val b).frz n.val) src.val = b ∧
      ∀ x < 6, x ≠ src.val → bitAt ((s.setFrz n.val src.val b).frz n.val) x = bitAt (s.frz n.val) x) ∧
  (∀ (s : State) (a : Fin 4), (s.closeGate a.val).gateOpen a.val = false ∧ (s.abandonGate a.val).gateOpen a.val = false) ∧
  (∀ (s : State) (i : Initiator) (l : Nat) (v : Word),
    ((s.writeLcfg i l v).rd (R.BAS_LCFG l) = s.rd (R.BAS_LCFG l)) ∨
      (s.rf (R.BAS_LCFG l) F.BAS_LCFG_CLR ≤ (s.writeLcfg i l v).rf (R.BAS_LCFG l) F.BAS_LCFG_CLR ∧
        s.rf (R.BAS_LCFG l) F.BAS_LCFG_SWAP ≤ (s.writeLcfg i l v).rf (R.BAS_LCFG l) F.BAS_LCFG_SWAP ∧
        (s.writeLcfg i l v).rf (R.BAS_LCFG l) F.BAS_LCFG_BANK = s.rf (R.BAS_LCFG l) F.BAS_LCFG_BANK ∧
        (l < 10 → (s.writeLcfg i l v).rf (R.BAS_LCFG l) F.BAS_LCFG_TRIG = s.rf (R.BAS_LCFG l) F.BAS_LCFG_TRIG)))

/-- A measurement that ends shows the bank's capacitance and resistance, and judges them against their limits. -/
def Obligations.BankIsJudged : Prop :=
∀ (s : State) (st fall us : Nat), s.flag R.BLS_MEAS_CTL F.BLS_MEAS_CTL_BUSY = true → 0 < fall → 50 * us / fall ≤ 0xFFFF →
    20 * st ≤ 0xFFFF → 10 * s.rf R.BLS_MEAS_CTL F.BLS_MEAS_CTL_CMIN_UF ≤ 50 * us / fall →
      20 * st ≤ s.rf R.BLS_MEAS_CTL F.BLS_MEAS_CTL_ESR_MAX →
        (s.measureEnd st fall us).rd R.BLS_BANK_MEAS = word (20 * st * 2 ^ 16 + 50 * us / fall) ∧
          (s.measureEnd st fall us).bankOk = true ∧
          (s.measureEnd st fall us).flag R.BLS_MEAS_CTL F.BLS_MEAS_CTL_BUSY = false ∧
          OnlyRegs [R.BLS_BANK_MEAS, R.BLS_MEAS_CTL, R.BLS_EVT, R.BLS_STAT] s (s.measureEnd st fall us)

/-- A general register of a sequencer reads what was written to it, register 0 keeps its value, and no other register
moves. Entering its handler, a sequencer keeps the cause and runs from the event's entry, or from the patch that an
enabled match puts in the entry's place. -/
def Obligations.SequencerStateHolds : Prop :=
  (∀ (s : State) (n r : Nat) (v : Word), n < s.str.length →
    ((s.setG n r v).g n r = if r = 0 then s.g n 0 else v) ∧ (∀ x, x ≠ r → (s.setG n r v).g n x = s.g n x) ∧
      ∀ m x, m ≠ n → (s.setG n r v).g m x = s.g m x) ∧
  (∀ (s u : State) (n : Fin 12) (cause b : Nat), cause < 16 → u = s.setSeq n.val { s.seq n.val with handler := some cause } →
    b = u.strRedirect n.val (Config.strEntry (eventOf cause) % 0x10000) → u.strMapped n.val b = true →
      (s.strEnter n.val cause).strSt n.val = ssHandler ∧ (s.strEnter n.val cause).strPc n.val = b ∧
        (n.val < s.str.length → ((s.strEnter n.val cause).seq n.val).handler = some cause))

/-- A channel that is disabled while BUSY has its EN clear and holds no read and no error any more. A descriptor's checks
in their order: alignment to the wider beat or swap unit, an empty count, an overlap of different beats. Channel `k`
of a line it is paced by, enabled and served: PEND counts up to 63 and then REQ_OVF rises. -/
def Obligations.CarriageChecksAndPaces : Prop :=
(∀ (s : State) (i : Initiator) (k : Fin 32), s.ready .carriage = true → s.mayControl i (carChanRes k.val) = true →
    s.rf (R.CAR_CH_CTL k.val) F.CAR_CH_CTL_DW ≤ 5 → s.rf (R.CAR_CH_CTL k.val) F.CAR_CH_CTL_SW ≤ 5 →
      s.rf (R.CAR_CH_CTL k.val) F.CAR_CH_CTL_BURST ≠ 0 → s.rf (R.CAR_CH_CTL k.val) F.CAR_CH_CTL_BURST ≤ 64 →
        s.rf (R.CAR_CH_CTL k.val) F.CAR_CH_CTL_START = 0 → s.carBusy k.val = true → (s.carCh k.val).disabled = false →
          exec (.channelDisable i k) s
            = .next ((s.wf (R.CAR_CH_CTL k.val) F.CAR_CH_CTL_EN 0).carDisable k.val)) ∧
  (∀ (s : State) (k : Fin 32) (r : Nat), carRefusal (s.carDesc k.val) = some r →
    (s.carStart k.val).rf (R.CAR_CH_STAT k.val) F.CAR_CH_STAT_END = ceRefused ∧
      (s.carStart k.val).car = s.car ∧ (s.carStart k.val).flag (R.CAR_CH_EVT k.val) F.CAR_CH_EVT_ERR = true) ∧
  (∀ (s : State) (k : Fin 32), carRefusal (s.carDesc k.val) = none →
    (s.carStart k.val).carBusy k.val = true ∧ (s.carStart k.val).rf (R.CAR_CH_STAT k.val) F.CAR_CH_STAT_END = 0) ∧
  (∀ c : CarChan, swapUnit c.swap = 1 →
    (c.count % max (max c.sb c.db) 1 ≠ 0 → carRefusal c = some ckAlign) ∧
    (c.count % max (max c.sb c.db) 1 = 0 → c.burstBytes % max (max c.sb c.db) 1 = 0 → c.src % max c.sb 1 = 0 →
      c.dst % max c.db 1 = 0 →
        (c.count = 0 → carRefusal c = some ckEmpty) ∧
        (c.count ≠ 0 → c.src < c.dst + c.count → c.dst < c.src + c.count → c.sb ≠ c.db → carRefusal c = some ckOverlap) ∧
        (c.count ≠ 0 → c.sb = c.db → carRefusal c = none) ∧
        (c.count ≠ 0 → c.dst + c.count ≤ c.src ∨ c.src + c.count ≤ c.dst → carRefusal c = none))) ∧
  (∀ (s : State) (l : Nat) (k : Fin 32), s.flag (R.CAR_CH_CTL k.val) F.CAR_CH_CTL_EN = true →
    s.flag (R.CAR_CH_CTL k.val) F.CAR_CH_CTL_PACED = true → s.rf (R.CAR_CH_CTL k.val) F.CAR_CH_CTL_REQ = l →
      s.lineServes l k.val = true →
        (s.rf (R.CAR_CH_STAT k.val) F.CAR_CH_STAT_PEND < 63 →
          (s.edgeAt l k.val).rf (R.CAR_CH_STAT k.val) F.CAR_CH_STAT_PEND
            = s.rf (R.CAR_CH_STAT k.val) F.CAR_CH_STAT_PEND + 1) ∧
        (s.rf (R.CAR_CH_STAT k.val) F.CAR_CH_STAT_PEND = 63 →
          (s.edgeAt l k.val).flag (R.CAR_CH_EVT k.val) F.CAR_CH_EVT_REQ_OVF = true ∧
            (s.edgeAt l k.val).rf (R.CAR_CH_STAT k.val) F.CAR_CH_STAT_PEND = 63))

/-- A write that is a violation changes nothing at all, whoever sends it: no error response is answered. A plain register
takes the written value in its RW fields: the grace time of Tollgate, by a pair in machine mode; the value is brought
to the nearer limit. No other register changes. A write to a full Milepost queue is the one register write that ends
in a bus error, with no other effect. -/
def Obligations.RegistersAreWritten : Prop :=
  (∀ (s : State) (i : Initiator) (p : Priv) (width off : Nat) (v : Word),
    (width ≠ 32 ∨ off % 4 ≠ 0 ∨ p = .user ∨ s.reaches i true off = false ∨ findReg off = none) →
      exec (.registerWrite i p width off v) s = .next s) ∧
  (∀ (s : State) (i : Initiator) (v : Word), i = .port ∨ i = .media → s.bls.held = false →
    Completes (.registerWrite i .machine 32 R.TGT_GRACE_CFG v) s fun t =>
      t.rf R.TGT_GRACE_CFG F.TGT_GRACE_CFG_US = clampNat 10 10000000 (fget v F.TGT_GRACE_CFG_US) ∧
        OnlyRegs [R.TGT_GRACE_CFG] s t ∧ t.out = s.out) ∧
  (∀ (s : State) (i : Initiator) (m : Fin 8) (far : Bool) (v : Word),
    s.isEndpoint i m.val (sideOf far) = true → 16 ≤ (s.inbound m.val (1 - sideOf far)).length →
      exec (.mailboxPush i m far v) s = .next (s.emit (.busError m.val (sideOf far))))

/-- The accesses that a core stops itself, as exceptions of that core, with nothing else changed. The cause codes are
those of the RISC-V privileged architecture (log entry 5). Inside the map a Flagstone store to a tightly-coupled
memory stores its bytes there and nowhere else, and changes no register; and an atomic swap there returns the old
bytes and stores the new. The crossings: a register request to an island in restart is answered by the crossing
itself; a data-path request waits for it, and so does a later register request behind it; those that wait are
delivered in issue order once it is ready; otherwise a request is delivered. -/
def Obligations.CoresAndCrossingsAnswer : Prop :=
(∀ (s : State) (c : Core) (store : Bool) (width addr : Nat), inTowpath addr = true → addr % width ≠ 0 →
    exec (.loadStoreMisaligned c store width addr) s = .next (s.emit (.coreException c (if store then 6 else 4) addr))) ∧
  (∀ (s : State) (h : Fin 4) (store : Bool) (width addr : Nat), inTowpath addr = true → 4 < width →
    exec (.wideTowpathAccess h store width addr) s
      = .next (s.emit (.coreException (.flagstone h) (if store then 7 else 5) addr))) ∧
  (∀ (s : State) (h : Fin 4) (k : AccessKind) (width addr v : Nat), inMap addr width = false ∨ forbidden k addr = true →
    exec (.unmappedAccessFault (.flagstone h) k width addr v) s
      = .next (s.emit (.coreException (.flagstone h) (match k with | .fetch => 1 | .load => 5 | .store => 7) addr))) ∧
  (∀ (s : State) (k : AccessKind) (width addr v : Nat), inKeyRom addr = false →
    (inKeyRam addr = false ∧ inTowpath addr = false ∨ k = .fetch) →
    exec (.unmappedAccessFault .keystone k width addr v) s
      = .next (s.emit (.coreException .keystone (match k with | .fetch => 1 | .load => 5 | .store => 7) addr))) ∧
  (∀ (s : State) (h : Fin 4) (op : AmoOp) (width addr v : Nat), s.noAtomics addr = true →
    exec (.atomicAccessFault h op width addr v) s = .next (s.emit (.coreException (.flagstone h) 7 addr))) ∧
  (∀ (s : State) (h : Fin 4) (op : AmoOp) (width addr v : Nat), s.noAtomics addr = false → addr % width ≠ 0 →
    exec (.atomicAccessFault h op width addr v) s = .next (s.emit (.coreException (.flagstone h) 6 addr))) ∧
(∀ (s : State) (h : Fin 4) (n a v : Nat), 1 ≤ n → inTcm a = true → inTcm (a + (n - 1)) = true →
    Completes (.unmappedAccessFault (.flagstone h) .store n a v) s fun t =>
      t.load a n = v % 256 ^ n ∧ (∀ c, c < a ∨ a + n ≤ c → t.byte c = s.byte c) ∧ ∀ o, t.rd o = s.rd o) ∧
  (∀ (s : State) (h : Fin 4) (a v : Nat), a % 4 = 0 → inTcm a = true →
    Completes (.atomicAccessFault h .swap 4 a v) s fun t =>
      t.resp = word (s.load a 4) ∧ t.load a 4 = v % 2 ^ 32 ∧ (∀ c, c < a ∨ a + 4 ≤ c → t.byte c = s.byte c) ∧
        ∀ o, t.rd o = s.rd o) ∧
(∀ (s : State) (src dst : Island) (tag : Nat), s.noInjection → s.crossAnswers dst = true →
    exec (.crossingDelivery src dst false tag) s = .next (s.emit (.crossing dst tag true))) ∧
  (∀ (s : State) (src dst : Island) (tag : Nat), s.noInjection → s.crossHolds dst = true →
    Completes (.crossingDelivery src dst true tag) s fun t =>
      t.heldFor dst = s.heldFor dst ++ [tag] ∧ t.out = s.out ∧ SameRegs s t) ∧
  (∀ (s : State) (src dst : Island) (tag : Nat), s.noInjection → s.crossAnswers dst = false → s.crossWaits src dst = true →
    Completes (.crossingDelivery src dst false tag) s fun t =>
      t.heldFor dst = s.heldFor dst ++ [tag] ∧ t.out = s.out ∧ SameRegs s t) ∧
  (∀ (s : State) (src dst : Island) (data : Bool) (tag : Nat), s.noInjection → (data = true → s.crossHolds dst = false) →
    s.crossAnswers dst = false → s.crossWaits src dst = false →
      exec (.crossingDelivery src dst data tag) s = .next (s.emit (.crossing dst tag false))) ∧
  (∀ (s : State) (dst : Island), s.crossHolds dst = false →
    Completes (.crossingHeldRelease dst) s fun t =>
      t.heldFor dst = [] ∧ t.out = ((s.heldFor dst).map fun tag => Out.crossing dst tag false).reverse ++ s.out ∧
        SameRegs s t)

/-- Signpost: a claim puts the source it returns in service, and the completion from the same context takes it out; a
claim with nothing eligible returns 0. The timer interrupt comes when MTIME has reached MTIMECMP. Milepost: a word
pushed by an endpoint is last in the other side's queue; a pop returns the first and leaves the rest; a doorbell sets
the other side's bits and makes the request outstanding; an acknowledge ends it with its code; a request that is not
acknowledged in time stays outstanding with TIMEOUT set. -/
def Obligations.SignpostAndMilepostSignal : Prop :=
(∀ (s : State) (i : Initiator) (p : Priv) (c : Fin 4), sigOwner i p c.val = true → s.claimable c.val ≠ 0 →
    Completes (.interruptClaim i p c) s fun t =>
      t.resp = word (s.claimable c.val) ∧ t.inService (s.claimable c.val) = true ∧ t.sigPending (s.claimable c.val) = false ∧
        SameRegs s t) ∧
  (∀ (s : State) (i : Initiator) (p : Priv) (c : Fin 4), sigOwner i p c.val = true → s.claimable c.val = 0 →
    exec (.interruptClaim i p c) s = .next (s.answer 0)) ∧
  (∀ (s : State) (i : Initiator) (p : Priv) (c : Fin 4) (v : Word), sigOwner i p c.val = true →
    Completes (.interruptComplete i p c v) s fun t =>
      (fget v F.SIG_CLAIM_SOURCE, c.val) ∉ t.pair.service ∧
        (∀ q, q ≠ (fget v F.SIG_CLAIM_SOURCE, c.val) → (q ∈ t.pair.service ↔ q ∈ s.pair.service)) ∧ SameRegs s t) ∧
  (∀ (s : State) (p : Fin 2), Completes (.machineTimerInterrupt p) s fun t => t.mtip p.val = true ∧ SameRegs s t) ∧
(∀ (s : State) (i : Initiator) (m : Fin 8) (far : Bool) (v : Word), s.isEndpoint i m.val (sideOf far) = true →
    (s.inbound m.val (1 - sideOf far)).length < 16 →
      Completes (.mailboxPush i m far v) s fun t =>
        t.inbound m.val (1 - sideOf far) = s.inbound m.val (1 - sideOf far) ++ [v.toNat] ∧
          t.inbound m.val (sideOf far) = s.inbound m.val (sideOf far) ∧ (∀ a b, t.out ≠ .busError a b :: s.out) ∧ SameRegs s t) ∧
  (∀ (s : State) (i : Initiator) (m : Fin 8) (far : Bool) (x : Nat) (rest : List Nat),
    s.isEndpoint i m.val (sideOf far) = true → s.inbound m.val (sideOf far) = x :: rest →
      Completes (.mailboxPop i m far) s fun t =>
        t.resp = word x ∧ t.inbound m.val (sideOf far) = rest ∧ SameRegs s t) ∧
  (∀ (s : State) (i : Initiator) (m : Fin 8) (far : Bool) (v : Word), s.isEndpoint i m.val (sideOf far) = true → v ≠ 0 →
    Completes (.doorbellSet i m far v) s fun t =>
      t.rd (R.MPO_DB m.val (1 - sideOf far)) = (s.rd (R.MPO_DB m.val (1 - sideOf far)) ||| v) ∧
        t.flag (R.MPO_REQ m.val (sideOf far)) F.MPO_REQ_OUTSTANDING = true ∧
        OnlyRegs [R.MPO_DB m.val (1 - sideOf far), R.MPO_REQ m.val (sideOf far)] s t) ∧
  (∀ (s : State) (i : Initiator) (m : Fin 8) (far : Bool) (v : Word), s.isEndpoint i m.val (sideOf far) = true →
    fget v F.MPO_ACK_GO = 1 → s.flag (R.MPO_REQ m.val (1 - sideOf far)) F.MPO_REQ_OUTSTANDING = true →
      Completes (.mailboxAcknowledge i m far v) s fun t =>
        t.rf (R.MPO_REQ m.val (1 - sideOf far)) F.MPO_REQ_CODE = fget v F.MPO_ACK_CODE ∧
          t.flag (R.MPO_REQ m.val (1 - sideOf far)) F.MPO_REQ_ACKED = true ∧
          t.flag (R.MPO_REQ m.val (1 - sideOf far)) F.MPO_REQ_OUTSTANDING = false ∧
          OnlyRegs [R.MPO_REQ m.val (1 - sideOf far)] s t) ∧
  (∀ (s : State) (m : Fin 8) (far : Bool), s.mboxUsable m.val = true → 2 * m.val + sideOf far ∉ s.pair.expired →
    spGetD 0 s.pair.due (2 * m.val + sideOf far) ≤ s.now →
    s.flag (R.MPO_REQ m.val (sideOf far)) F.MPO_REQ_OUTSTANDING = true →
      Completes (.mailboxRequestTimeout m far) s fun t =>
        t.flag (R.MPO_REQ m.val (sideOf far)) F.MPO_REQ_TIMEOUT = true ∧
          t.flag (R.MPO_REQ m.val (sideOf far)) F.MPO_REQ_OUTSTANDING = true ∧
          OnlyRegs [R.MPO_REQ m.val (sideOf far)] s t)

/-- A held mailbox command of a host acts on its group's mailbox from the far side: it pushes words that fit, takes words,
sets doorbell bits, acknowledges, or reads and clears the status, and is answered at once with status 0. The pairs are
watched: a mismatch is reported contained and restarts the pair, a missed heartbeat restarts it, a command restarts
the pairs it names; a restart that ends well sets the READY bit and starts the pair at its vector, and one whose
vector is no code address requests Haven; heartbeats, kicks and requests of a device reset do what they say. -/
def Obligations.MailboxesAndPairsAct : Prop :=
(∀ (s : State) (k : Fin 65536) (m : Nat) (ws : List Nat), s.mailboxTakes k.val 0 m → countOk (s.ctx k.val).boxCount = true →
    (s.inbound m 0).length + (s.ctx k.val).boxCount ≤ 16 →
      exec (.mailboxCmdSend k ws) s
        = .next (((List.range (s.ctx k.val).boxCount).foldl (fun u j => u.mboxPush m 1 (hostWord (s.ctx k.val).proto (ws[j]?.getD 0))) s).groupAnswer
            k.val 0 [])) ∧
  (∀ (s : State) (k : Fin 65536) (m : Nat) (ws : List Nat), s.mailboxTakes k.val 0 m → countOk (s.ctx k.val).boxCount = true →
    16 < (s.inbound m 0).length + (s.ctx k.val).boxCount →
      exec (.mailboxCmdSend k ws) s = .next (s.groupAnswer k.val (stMailboxFull (s.ctx k.val).proto) [])) ∧
  (∀ (s : State) (k : Fin 65536) (m : Nat) (q : List Nat), s.mailboxTakes k.val 1 m → countOk (s.ctx k.val).boxCount = true →
    (s.inbound m 1).take (s.ctx k.val).boxCount = q →
      exec (.mailboxCmdReceive k) s
        = .next ((s.setInbound m 1 ((s.inbound m 1).drop (s.ctx k.val).boxCount)).groupAnswer k.val 0
            (hostWord (s.ctx k.val).proto q.length :: q.map (hostWord (s.ctx k.val).proto) ++ List.replicate (16 - q.length) 0))) ∧
  (∀ (s : State) (k : Fin 65536) (m : Nat), s.mailboxTakes k.val 2 m →
    exec (.mailboxCmdDoorbell k) s = .next ((s.mboxRing m 1 (word (s.ctx k.val).boxArg)).groupAnswer k.val 0 [])) ∧
  (∀ (s : State) (k : Fin 65536) (m : Nat), s.mailboxTakes k.val 3 m →
    exec (.mailboxCmdAck k) s = .next ((s.mboxAck m 1 ((s.ctx k.val).boxArg % 2 ^ 16)).groupAnswer k.val 0 [])) ∧
  (∀ (s : State) (k : Fin 65536) (m : Nat), s.mailboxTakes k.val 4 m →
    exec (.mailboxCmdStatus k) s
      = .next (((s.wr (R.MPO_DB m 1) 0).wr (R.MPO_REQ m 1)
          (word ((s.rd (R.MPO_REQ m 1)).toNat - ((s.rd (R.MPO_REQ m 1)).toNat &&& 0x70000000)))).groupAnswer k.val 0
          [hostWord (s.ctx k.val).proto (s.qstat m 1).toNat, hostWord (s.ctx k.val).proto (s.rd (R.MPO_DB m 1)).toNat,
            hostWord (s.ctx k.val).proto (s.rd (R.MPO_REQ m 1)).toNat, 0])) ∧
(∀ (s : State) (p : Fin 2), s.pairRuns p.val = true → s.noInjection →
    exec (.lockstepMismatch p) s = .next ((s.carry (2 + p.val) 2 false).startRestart p.val rstLockstep true)) ∧
  (∀ (s : State) (p : Fin 2), s.pairRuns p.val = true → s.beatMissed p.val = true →
    (s.countRestart p.val).1 = false →
      exec (.heartbeatMiss p) s = .next ((s.countRestart p.val).2.beginRestart p.val rstHeartbeat)) ∧
  (∀ (s : State) (p : Fin 2), s.pairRuns p.val = true → s.beatMissed p.val = true →
    (s.countRestart p.val).1 = true →
      exec (.heartbeatMiss p) s
        = .next (((s.countRestart p.val).2.beginRestart p.val rstHeartbeat).requestHaven hvKeystone)) ∧
  (∀ (s : State) (v : Word), fget v F.KEY_PAIR_RST_PAIR = 2 → 1 ∈ s.pair.released → s.restarting 1 = false →
    exec (.pairRestart .port v) s = .next (s.beginRestart 1 rstCommand)) ∧
  (∀ (s : State) (v : Word), fget v F.KEY_PAIR_RST_PAIR = 1 → 0 ∈ s.pair.released → s.restarting 0 = false →
    exec (.pairRestart .media v) s = .next (s.beginRestart 0 rstCommand)) ∧
  (∀ (s : State) (p : Fin 2), s.restarting p.val = true → vecOk (s.rstVec p.val) = true →
    Completes (.pairRestartDone p) s fun t =>
      t.restarting p.val = false ∧ t.ready (pairReady p.val) = true ∧
        t.out = .signal (16 + p.val) [s.rstVec p.val, s.rf (R.KEY_PAIR_STAT p.val) F.KEY_PAIR_STAT_CAUSE] :: s.out ∧
        OnlyRegs [R.KEY_PAIR_STAT p.val, R.SYS_READY, R.SYS_READY_CHG] s t) ∧
  (∀ (s : State) (p : Fin 2), s.restarting p.val = true → vecOk (s.rstVec p.val) = false →
    exec (.pairRestartDone p) s = .next (s.requestHaven hvKeystone)) ∧
  (∀ s : State, exec (.heartbeat .port 0) s = .next (s.beat 0)) ∧
  (∀ s : State, exec (.heartbeat .media 1) s = .next (s.beat 1)) ∧
  (∀ (s : State) (i : Initiator) (v : Word), isPair i = true →
    Completes (.heartbeatConfig i .machine v) s fun t =>
      t.rf R.KEY_HB_CFG F.KEY_HB_CFG_HB_MS = fget v F.KEY_HB_CFG_HB_MS ∧ OnlyRegs [R.KEY_HB_CFG] s t) ∧
  (∀ s : State, Completes (.watchdogRestart .keystone) s fun t =>
    t.pair.kick = s.now ∧ t.ready .keystone = true ∧ OnlyRegs [R.SYS_READY, R.SYS_READY_CHG] s t) ∧
  (∀ (s : State) (i : Initiator) (v : Word), isPair i = true → fget v F.KEY_DEV_REQ_UNLOCK = 0x5EED →
    exec (.deviceResetRequest i .machine v) s = .next (s.flushFirst .keyCmd)) ∧
  (∀ (s : State) (p : Fin 2), s.stuckLong p.val = true →
    exec (.keyStuckTimeout p) s = .next (s.flushFirst .keyCmd))

/-- Translation: a stream in bare mode reaches an address of DMA memory and the DMA goes on; a stream that is off, stopped
or out of range is refused, the fault is queued, and the requester is told. A pair in machine mode configures the
streams and drops cached translations: the mode it writes stands and no cached translation of that stream is left; an
invalidation drops what it names and stands busy until it is done; a fault is popped. -/
def Obligations.TurnpikeTranslates : Prop :=
(∀ (s : State) (st : Fin 47) (a : Nat) (write : Bool) (k : Fin 65536),
    s.flag (R.TRN_SCTX st.val) F.TRN_SCTX_FAULTED = false → s.rf (R.TRN_SCTX st.val) F.TRN_SCTX_MODE = trnBare →
      a < 2 ^ 47 → dmaRegion a = true → exec (.translate st a write k) s = .next (s.trnGives a).2) ∧
  (∀ (s : State) (st : Fin 47) (a : Nat) (write : Bool) (k : Fin 65536),
    s.flag (R.TRN_SCTX st.val) F.TRN_SCTX_FAULTED = true →
      exec (.translate st a write k) s
        = .next ((s.trnFault st.val (a % 2 ^ 48) write flStopped).requesterFault st.val a write k.val)) ∧
  (∀ (s : State) (st : Fin 47) (a : Nat) (write : Bool) (k : Fin 65536),
    s.flag (R.TRN_SCTX st.val) F.TRN_SCTX_FAULTED = false → s.rf (R.TRN_SCTX st.val) F.TRN_SCTX_MODE = trnOff →
      exec (.translate st a write k) s
        = .next ((s.trnFault st.val (a % 2 ^ 48) write flOff).requesterFault st.val a write k.val)) ∧
  (∀ (s : State) (st : Fin 47) (a : Nat) (write : Bool) (k : Fin 65536),
    s.flag (R.TRN_SCTX st.val) F.TRN_SCTX_FAULTED = false → s.rf (R.TRN_SCTX st.val) F.TRN_SCTX_MODE = trnBare →
      2 ^ 47 ≤ a % 2 ^ 48 →
        exec (.translate st a write k) s
          = .next ((s.trnFault st.val (a % 2 ^ 48) write flRange).requesterFault st.val a write k.val)) ∧
(∀ (s : State) (i : Initiator) (st : Fin 47) (v : Word), isPair i = true →
    fget (fset v F.TRN_SCTX_FAULTED 0) F.TRN_SCTX_MODE ≠ 3 → st.val < 32 →
      exec (.streamConfig i .machine st v) s
        = .next ((s.writeFields (R.TRN_SCTX st.val) (fset v F.TRN_SCTX_FAULTED 0)).tlbDrop fun e => e.stream = st.val)) ∧
  (∀ (s : State) (i : Initiator) (st : Fin 47), isPair i = true →
    fget (fset (s.rd (R.TRN_SCTX st.val)) F.TRN_SCTX_FAULTED 1) F.TRN_SCTX_MODE ≠ 3 → st.val < 32 →
      exec (.streamFaultClear i .machine st) s
        = .next ((s.writeFields (R.TRN_SCTX st.val) (fset (s.rd (R.TRN_SCTX st.val)) F.TRN_SCTX_FAULTED 1)).tlbDrop fun e =>
            e.stream = st.val)) ∧
  (∀ (s : State) (i : Initiator), isPair i = true → s.flag R.TRN_INV_STAT F.TRN_INV_STAT_BUSY = false →
    Completes (.iotlbInvAll i .machine) s fun t =>
      t.trn.tlb = [] ∧ t.flag R.TRN_INV_STAT F.TRN_INV_STAT_BUSY = true ∧ OnlyRegs [R.TRN_INV_STAT] s t) ∧
  (∀ (s : State) (i : Initiator) (st : Fin 64), isPair i = true → s.flag R.TRN_INV_STAT F.TRN_INV_STAT_BUSY = false →
    Completes (.iotlbInvStream i .machine st) s fun t =>
      t.trn.tlb = s.trn.tlb.filter (fun e => e.stream ≠ st.val) ∧ t.flag R.TRN_INV_STAT F.TRN_INV_STAT_BUSY = true ∧
        OnlyRegs [R.TRN_INV_STAT] s t) ∧
  (∀ (s : State) (i : Initiator) (st : Fin 64), isPair i = true → s.flag R.TRN_INV_STAT F.TRN_INV_STAT_BUSY = false →
    Completes (.iotlbInvPage i .machine st) s fun t =>
      (∀ e ∈ t.trn.tlb, ¬ (e.stream = st.val ∧ e.vpn ≤ s.invPage ∧ s.invPage < e.vpn + e.span)) ∧
        t.flag R.TRN_INV_STAT F.TRN_INV_STAT_BUSY = true ∧ OnlyRegs [R.TRN_INV_STAT] s t) ∧
  (∀ s : State, s.flag R.TRN_INV_STAT F.TRN_INV_STAT_BUSY = true →
    Completes .iotlbInvDone s fun t =>
      t.flag R.TRN_INV_STAT F.TRN_INV_STAT_BUSY = false ∧ t.flag R.TRN_INV_STAT F.TRN_INV_STAT_DONE = true ∧
        OnlyRegs [R.TRN_INV_STAT] s t) ∧
  (∀ (s : State) (i : Initiator), isPair i = true →
    Completes (.faultPop i .machine) s fun t => t.trn.faults = s.trn.faults.drop 1 ∧ SameRegs s t)

/-- The grace timer, the pin and the injector: an expiry lets Keystone act on every pending source, in order, or leaves it
to the backstop, which requests Haven once; the pin falls for the pulse and then follows HOLD; an arming write arms
the injector and a disarming write ends it. -/
def Obligations.TollgateRuns : Prop :=
(∀ (s : State) (src : Fin 52) (cls : Fin 4), src.val ≠ 0 → cls.val ∈ tgtClasses src.val → s.ready .tollgate = true →
    s.noInjection → exec (.faultLatch src cls false) s = .next (s.latch src.val cls.val false)) ∧
  (∀ (s : State) (src : Fin 52) (cls : Fin 4), src.val ≠ 0 → cls.val ∈ tgtClasses src.val →
    exec (.faultLatch src cls true) s = .next (s.driveLine src.val cls.val)) ∧
  (∀ (s : State) (src : Fin 52) (cls : Fin 4), cls.val ≠ 0 → cls.val ∉ tgtClasses src.val →
    exec (.faultLatch src cls false) s = .next s) ∧
  (∀ s : State, s.flag R.TGT_INJ_STAT F.TGT_INJ_STAT_ARMED = true → s.rf R.TGT_INJ_STAT F.TGT_INJ_STAT_SRC = 1 →
    s.tgt.injBits = 1 → exec (.faultLatch 1 3 false) s = .next ((s.takeInjection [1]).2.carry 4 1 true)) ∧
  (∀ (s : State) (i : Initiator) (hi : Bool) (v : Word), isPair i = true →
    (∀ n ∈ statusBits hi v, s.latched n = true → s.latchedClass n ≠ 3) →
      exec (.faultClear i .machine hi v) s = .next (((statusBits hi v).filter s.latched).foldl State.clearSource s)) ∧
  (∀ s : State, s.flag R.TGT_GRACE_STAT F.TGT_GRACE_STAT_RUNNING = true →
    exec (.graceExpiry false) s = .next (s.graceEnd true)) ∧
  (∀ s : State, s.flag R.TGT_GRACE_STAT F.TGT_GRACE_STAT_RUNNING = true → s.pendingList = [] →
    exec (.graceExpiry true) s = .next (s.graceEnd false).graceUpdate.settleUntrained) ∧
  (∀ (s : State) (n : Nat) (l : List Nat), s.tgt.heldTakeouts = n :: l →
    s.flag R.WAY_UNIT_STAT F.WAY_UNIT_STAT_BUSY = false →
      exec .heldTakeoutIssue s = .next ({ s with tgt := { s.tgt with heldTakeouts := l } }.issueTakeout n)) ∧
  (∀ s : State, s.tgt.expired = true → s.pendingList = [] →
    exec .keystoneBackstop s
      = .next { s.requestHaven hvTollgate with
          tgt := { (s.requestHaven hvTollgate).tgt with expired := false } }.graceUpdate.settleUntrained) ∧
  (∀ s : State, s.noInjection → exec (.tollgateSelfCheck false) s = .next s) ∧
  (∀ s : State, s.noInjection → s.ready .tollgate = true →
    exec (.tollgateSelfCheck true) s
      = .next (((s.tgtDefaults.carry 0 3 false).actOn 0).graceUpdate.requestHaven hvTollgate)) ∧
  (∀ s : State, s.flag R.TGT_PIN F.TGT_PIN_PULSING = true →
    Completes .faultPinPulseEnd s fun t =>
      t.flag R.TGT_PIN F.TGT_PIN_PULSING = false ∧
        t.rf R.TGT_PIN F.TGT_PIN_LOW = s.rf R.TGT_PIN F.TGT_PIN_HOLD ∧ OnlyRegs [R.TGT_PIN] s t) ∧
  (∀ (s : State) (i : Initiator) (v : Word), isPair i = true → fget v F.TGT_PIN_HOLD = 0 →
    s.flag R.TGT_PIN F.TGT_PIN_PULSING = false →
      Completes (.faultPinHold i .machine v) s fun t =>
        t.flag R.TGT_PIN F.TGT_PIN_HOLD = false ∧ t.flag R.TGT_PIN F.TGT_PIN_LOW = false ∧ OnlyRegs [R.TGT_PIN] s t) ∧
  (∀ (s : State) (i : Initiator) (v : Word), isPair i = true → fget v F.TGT_PIN_HOLD = 1 →
    Completes (.faultPinHold i .machine v) s fun t =>
      t.flag R.TGT_PIN F.TGT_PIN_HOLD = true ∧
        t.flag R.TGT_PIN F.TGT_PIN_LOW = s.flag R.TGT_PIN F.TGT_PIN_LOW ∧ OnlyRegs [R.TGT_PIN] s t) ∧
  (∀ s : State, s.tgt.kclr = [] →
    Completes (.fatalClearDone true) s fun t =>
      t.flag R.TGT_GRACE_STAT F.TGT_GRACE_STAT_BUSY = false ∧ OnlyRegs [R.TGT_GRACE_STAT] s t) ∧
  (∀ (s : State) (n : Nat), s.tgt.kclr = [n] →
    exec (.fatalClearDone true) s
      = .next (({ s with tgt := { s.tgt with kclr := [] } }.clearSource n).wf R.TGT_GRACE_STAT F.TGT_GRACE_STAT_BUSY 0)) ∧
  (∀ s : State, s.ready .tollgate = false → s.tgt.early = [] →
    Completes .tollgateArmed s fun t =>
      t.ready .tollgate = true ∧ OnlyRegs [R.SYS_READY, R.SYS_READY_CHG] s t) ∧
  (∀ (s : State) (i : Initiator) (count : Nat) (src : Fin 64), isPair i = true → src.val ∈ injEcc → 1 ≤ count → count ≤ 255 →
    s.noInjection →
      Completes (.injectArm i .machine count 2 src) s fun t =>
        t.flag R.TGT_INJ_STAT F.TGT_INJ_STAT_ARMED = true ∧ t.rf R.TGT_INJ_STAT F.TGT_INJ_STAT_SRC = src.val ∧
          t.rf R.TGT_INJ_STAT F.TGT_INJ_STAT_LEFT = count ∧ OnlyRegs [R.TGT_INJ_STAT] s t) ∧
  (∀ (s : State) (i : Initiator), isPair i = true →
    Completes (.injectDisarm i .machine) s fun t => t.noInjection ∧ OnlyRegs [R.TGT_INJ_STAT] s t)

/-- Cairn's own commands: time passes, the log is frozen and unfrozen, windows are read, records are staged, written,
persisted and released. -/
def Obligations.CairnRuns : Prop :=
(∀ s : State, Completes .minuteTick s fun t => t.crn.minutes = (s.crn.minutes + 1) % 2 ^ 32 ∧ t.crn.log = s.crn.log ∧ SameRegs s t) ∧
  (∀ s : State, s.crn.restored = false → s.ready .tollgate = true → s.crn.flash = [] → s.crn.hold = [] → s.crn.pcyc = 1 →
    s.crn.minutes = 0 →
      exec (.cairnRestore true) s
        = .next (({ s with
            crn := { s.crn with restored := true, hold := [], flashPos := 0, next := 0, res := 0 } }.resetRecord 0).setReady
              .cairn true)) ∧
  (∀ (s : State) (i : Initiator) (v : Word), isPair i = true →
    Completes (.logFreeze i v) s fun t => t.frozen = true ∧ t.crn = s.crn ∧ OnlyRegs [R.CRN_CTL] s t) ∧
  (∀ (s : State) (i : Initiator) (v : Word), isPair i = true → s.frozen = true →
    exec (.logUnfreeze i v) s = .next (s.writeFields R.CRN_CTL (fset v F.CRN_CTL_FREEZE 0)).endFreeze) ∧
  (∀ s : State, s.frozen = true → exec .freezeTimeout s = .next (s.raise R.CRN_EVT F.CRN_EVT_FREEZE_TMO).endFreeze) ∧
  (∀ s : State, Completes .sbWindowHeadRead s fun t =>
    t.resp = word s.crn.log.length ∧ t.crn.sbWindow = 0 ∧ t.crn.log = s.crn.log ∧ SameRegs s t) ∧
  (∀ s : State, Completes .sbWindowAdvance s fun t =>
    t.resp = s.logWord s.crn.sbWindow 15 ∧ t.crn.sbWindow = s.crn.sbWindow + 1 ∧ SameRegs s t) ∧
  (∀ s : State, s.crn.writing = none → s.onHoldup = false → s.patchQueue = [] → s.crn.reserveWait = false →
    Completes .persistTimer s fun t =>
      t.crn.writing = some (.records s.crn.unpersisted) ∧ t.crn.log = s.crn.log ∧ SameRegs s t) ∧
  (∀ (s : State) (i : Initiator) (v : Word), isPair i = true → fget v F.CRN_PERSIST_GO = 1 → s.crn.writing = none →
    exec (.persistGo i v) s = .next (s.raise R.CRN_PERSIST F.CRN_PERSIST_GO).flashDue) ∧
  (∀ (s : State) (i : Initiator) (v : Word) (n : Nat), isPair i = true → fget v F.CRN_PERSIST_GO = 1 →
    s.crn.writing = some (.records n) →
      Completes (.persistGo i v) s fun t =>
        t.flag R.CRN_PERSIST F.CRN_PERSIST_GO = true ∧ t.crn.due = true ∧ t.crn.writing = some (.records n) ∧
          OnlyRegs [R.CRN_PERSIST] s t) ∧
  (∀ (s : State) (n : Nat), s.crn.writing = some (.records n) →
    exec (.persistDone false) s
      = .next (({ s with crn := { s.crn with writing := none, goNext := false } }.wf R.CRN_PERSIST F.CRN_PERSIST_GO
          (b2n s.crn.goNext)).persistFail.startFlash)) ∧
  (∀ (s : State) (n : Nat), s.crn.writing = some (.records n) →
    exec (.persistDone true) s = .next (s.recordsDone n true)) ∧
  (∀ (s : State) (i : Initiator) (v : Word), isPair i = true → s.frozen = false →
    Completes (.logRelease i v) s fun t =>
      t.crn.releasing = s.crn.releasing + fget v F.CRN_RELEASE_COUNT ∧ t.crn.log = s.crn.log ∧ SameRegs s t) ∧
  (∀ s : State, Completes .releaseApplied s fun t =>
    t.crn.log = s.crn.log.drop (min s.crn.releasing s.crn.persisted) ∧ t.crn.releasing = 0 ∧ SameRegs s t) ∧
  (∀ (s : State) (i : Initiator) (v : Word), isPair i = true → s.crn.fwStage.length < 9 →
    Completes (.fwRecordStage i v) s fun t => t.crn.fwStage = s.crn.fwStage ++ [v] ∧ SameRegs s t) ∧
  (∀ (s : State) (i : Initiator) (v : Word), isPair i = true → s.crn.fwStage.length = 9 → 0x8000 ≤ fget v F.CRN_FW_GO_TYPE →
    exec (.fwRecordWrite i v) s
      = .next ({ s with crn := { s.crn with fwStage := [] } }.cairn (fget v F.CRN_FW_GO_CLASS) (fget v F.CRN_FW_GO_TYPE)
          (orgFirmware i) (argOf (s.crn.fwStage.map fun w : Word => (4, w.toNat)))))

/-- Every cause of a device reset leads to it: power, RST_N, the two ways over Keystone, its watchdog and the end of the
deferral; the causes that let the part settle first ask for Haven. -/
def Obligations.ResetCausesReset : Prop :=
(∀ (s : State) (b a : Fin 4), s.bls.held = false → exec (.powerOnReset b a false) s
    = .next ({ s with sys := { s.sys with bootcfg := b.val, sbAddr := a.val } }.deviceReset .powerOn)) ∧
  (∀ (s : State) (b a : Fin 4), s.bls.held = false → Completes (.powerOnReset b a true) s fun t => t.sys.rstWait = true ∧ SameRegs s t) ∧
  (∀ (s : State) (b a : Fin 4), s.sys.rstWait = true → exec (.rstNRelease b a) s
    = .next ({ s with sys := { s.sys with bootcfg := b.val, sbAddr := a.val } }.deviceReset .powerOn)) ∧
  (∀ (s : State) (ns : Nat), 1000 ≤ ns → exec (.pinReset ns) s = .next (s.flushFirst .pin)) ∧
  (∀ (s : State) (ns : Nat), ns < 200 → exec (.pinReset ns) s = .next s) ∧
  (∀ (s : State) (v : Word), fget v F.KEY_DEV_RST_UNLOCK = 0x5EED →
    exec (.keyDeviceReset .keystone v) s = .next (s.flushFirst .keyCmd)) ∧
  (∀ s : State, s.pair.kick + kwdTicks ≤ s.now → exec .keystoneWatchdogExpiry s = .next (s.deviceReset .keyWdog)) ∧
  (∀ s : State, s.now < s.pair.kick + kwdTicks → exec .keystoneWatchdogExpiry s = .next s) ∧
  (∀ (s : State) (c : RstCause), s.sys.pendingReset = some c → exec .resetDeferExpiry s = .next (s.deviceReset c)) ∧
  (∀ (s : State) (c : RstCause), s.sys.pendingReset = none →
    s.flushFirst c =
      if ({ s with sys := { s.sys with pendingReset := some c, deferFlushed := false } }.requestHaven hvReset).havenSettled
      then ({ s with sys := { s.sys with pendingReset := some c, deferFlushed := false } }.requestHaven hvReset).deviceReset c
      else { s with sys := { s.sys with pendingReset := some c, deferFlushed := false } }.requestHaven hvReset)

/-- The transitions that complete at once. The transitions that take time, and a request for Haven, begin as the rules
say; requests that the mode table does not allow, or that come during a transition, are refused with their reasons and
change only LAST and REASON. -/
def Obligations.ModesChange : Prop :=
(∀ (s : State) (i : Initiator), isPair i = true → s.flag R.SYS_MODE F.SYS_MODE_BUSY = false → s.mode = mBedding →
    s.ready .media = true → exec (.modeReqService i .machine) s = .next (s.acceptMode.modeDone mService)) ∧
  (∀ (s : State) (i : Initiator), isPair i = true → s.flag R.SYS_MODE F.SYS_MODE_BUSY = false → s.mode = mService →
    exec (.modeReqSurvey i .machine) s = .next (s.acceptMode.modeDone mSurvey)) ∧
  (∀ (s : State) (i : Initiator), isPair i = true → s.flag R.SYS_MODE F.SYS_MODE_BUSY = false → s.mode = mSurvey →
    exec (.modeReqService i .machine) s = .next (s.acceptMode.modeDone mService)) ∧
  (∀ (s : State) (i : Initiator), isPair i = true → s.flag R.SYS_MODE F.SYS_MODE_BUSY = false → s.mode = mService →
    s.ready .causeway = true → s.cswPeer = true → (s.acceptMode.modeDone mMigration).cswRole ≠ 1 →
      exec (.modeReqMigration i .machine) s = .next (s.acceptMode.modeDone mMigration)) ∧
  (∀ (s : State) (i : Initiator), isPair i = true → s.flag R.SYS_MODE F.SYS_MODE_BUSY = false → s.mode = mHaven →
    s.someClass 3 = false → s.flag R.BLS_STAT F.BLS_STAT_MAIN_OK = true →
      s.rf R.SYS_MODE F.SYS_MODE_HAVEN_CAUSE ≠ hvReset →
        exec (.modeReqBedding i .machine) s
          = .next (((s.acceptMode.wf R.SYS_MODE F.SYS_MODE_HAVEN_CAUSE 0).modeDone mBedding).touchBegin.refreshMedia)) ∧
(∀ (s : State) (i : Initiator), isPair i = true → s.flag R.SYS_MODE F.SYS_MODE_BUSY = false → s.mode = mService →
    Completes (.modeReqDormant i .machine) s fun t =>
      t.mode = mService ∧ t.flag R.SYS_MODE F.SYS_MODE_BUSY = true ∧ t.rf R.SYS_MODE F.SYS_MODE_TARGET = mDormant ∧
        t.sys.trans = .dormant 2 ∧ t.ready .media = false ∧
        OnlyRegs [R.SYS_MODE, R.SYS_READY, R.SYS_READY_CHG] s t) ∧
  (∀ (s : State) (i : Initiator), isPair i = true → s.mode ≠ mHaven → s.flag R.SYS_MODE F.SYS_MODE_BUSY = false →
    exec (.modeReqHaven i .machine) s = .next (s.acceptMode.requestHaven hvCommand)) ∧
  (∀ (s : State) (i : Initiator) (p : Priv), i = .keystone → s.mode ≠ mHaven → s.flag R.SYS_MODE F.SYS_MODE_BUSY = true →
    exec (.modeReqHaven i p) s = .next (s.requestHaven hvKeystone)) ∧
  (∀ (s : State) (i : Initiator), isPair i = true → s.flag R.SYS_MODE F.SYS_MODE_BUSY = true →
    ∀ c ∈ [Instr.modeReqService i .machine, .modeReqSurvey i .machine, .modeReqMigration i .machine,
        .modeReqDormant i .machine, .modeReqBedding i .machine],
      Completes c s fun t => t.rf R.SYS_MODE F.SYS_MODE_LAST = 2 ∧ t.rf R.SYS_MODE F.SYS_MODE_REASON = 3 ∧
        t.mode = s.mode ∧ OnlyRegs [R.SYS_MODE] s t) ∧
  (∀ (s : State) (i : Initiator), isPair i = true → s.flag R.SYS_MODE F.SYS_MODE_BUSY = false → s.mode = mHaven →
    ∀ c ∈ [Instr.modeReqService i .machine, .modeReqSurvey i .machine, .modeReqMigration i .machine,
        .modeReqDormant i .machine],
      Completes c s fun t => t.rf R.SYS_MODE F.SYS_MODE_LAST = 2 ∧ t.rf R.SYS_MODE F.SYS_MODE_REASON = 1 ∧
        t.mode = mHaven ∧ OnlyRegs [R.SYS_MODE] s t)

/-- Haven, Dormant and the held data go on by their own events. The motion events that a mode waits for. -/
def Obligations.TransitionsAdvance : Prop :=
(∀ s : State, exec .havenSettled s = .next s.advanceHaven.settleHaven) ∧
  (∀ s : State, s.sys.trans = .dormant 2 → (s.cmd.ctxs.any fun q => inFlight q.2) = false →
    exec .dormantEntryProgress s = .next (s.dormantAt 3).startCkpt) ∧
  (∀ s : State, s.sys.trans = .dormant 3 → s.ackedCtxs = [] →
    exec .dormantEntryProgress s = .next ((s.dormantAt 4).unloadAll ucDormant)) ∧
  (∀ s : State, s.sys.trans = .dormant 4 → s.allParked = true →
    exec .dormantEntryProgress s = .next (s.dormantAt 5).spinStopBrake) ∧
  (∀ s : State, s.sys.trans = .dormant 5 → s.milSt ≠ miStopping → s.spinning = false →
    exec .dormantEntryProgress s = .next s.dormantDone) ∧
  (∀ s : State, s.mode = mDormant → s.sys.wakeTimer = true → s.rf R.SYS_MODE F.SYS_MODE_PHASE = 0 → s.sys.trans = .none →
    exec .dormantWakeExpiry s
      = .next (({ s with sys := { s.sys with wakeTimer := false },
                         way := { s.way with wakeOver := false } }.wf R.SYS_MODE F.SYS_MODE_PHASE 1).modeSpin.loadAll).flashDue) ∧
  (∀ s : State, s.mode = mDormant → s.rf R.SYS_MODE F.SYS_MODE_PHASE = 1 → s.sys.trans = .none →
    exec .dormantWorkDone s
      = .next (if ((({ s with sys := { s.sys with wakeTimer := true } }.wf R.SYS_MODE F.SYS_MODE_PHASE 0).unloadAll
            ucDormant).allParked) then
          (({ s with sys := { s.sys with wakeTimer := true } }.wf R.SYS_MODE F.SYS_MODE_PHASE 0).unloadAll ucDormant).spinStopBrake
        else (({ s with sys := { s.sys with wakeTimer := true } }.wf R.SYS_MODE F.SYS_MODE_PHASE 0).unloadAll
          ucDormant).dormantAt 6)) ∧
  (∀ s : State, s.sys.trans = .toService → s.mediaOk = true → s.ready .media = true →
    exec .modeTransitionComplete s = .next ({ s with sys := { s.sys with trans := .none } }.modeDone mService)) ∧
  (∀ s : State, s.sys.heldData = true → s.mode = mBedding → s.ready .waymark = true → s.someAct = true →
    (s.writeHeld (byAdmit s.ackedCtxs)).ackedCtxs = [] →
      exec .heldDataWrite s
        = .next ({ s.writeHeld (byAdmit s.ackedCtxs) with
            sys := { (s.writeHeld (byAdmit s.ackedCtxs)).sys with heldData := false } }.wf R.SYS_HAVEN_STATUS
              F.SYS_HAVEN_STATUS_HELD 0).refreshMedia) ∧
(∀ (s : State) (a : Fin 4), s.actSt a.val = aUnloading → stallRun ≤ (s.act a.val).stall →
    exec (.unloadStall a) s = .next ((s.park a.val).reload a.val).advanceHaven) ∧
  (∀ (s : State) (a : Fin 4), s.actSt a.val = aUnloading →
    exec (.unloadTimeout a) s
      = .next ((((s.raise (R.ACT_EVT a.val) F.ACT_EVT_UNLOAD_TMO).park a.val).reload a.val).report (24 + a.val) 2).advanceHaven) ∧
  (∀ (s : State) (a : Fin 4) (mv ma : List Int), s.actSt a.val ≠ aLoading → s.actSt a.val ≠ aUnloading →
    Completes (.vcmVelocitySample a mv ma) s fun t =>
      spGetD 0 t.bls.vel a.val = s.velocity a.val mv ma ∧ SameRegs s t) ∧
  (∀ s : State, s.milSt = miRun → s.calmFor (s.rf R.MIL_REG F.MIL_REG_REG_MS) = true →
    (s.setMillstone true).mode ≠ mDormant → exec .speedRegulated s = .next (s.setMillstone true)) ∧
  (∀ s : State, s.milSt = miStopping → s.mil.phase2 = true → s.calmFor 500 = true → (s.milEnter miIdle).mode ≠ mDormant →
    exec .stopComplete s = .next (s.milEnter miIdle).advanceHaven) ∧
  (∀ s : State, s.milSt = miCoast → s.calmFor 1000 = true → exec .coastToIdle s = .next (s.milEnter miIdle))

/-- Bring-up: the first slot checked is staged and remembered; the image that the checks choose is applied once; the
loader is judged, and a good one is copied to the tightly-coupled memory and started. The fuses: an unlocked request
by the Port pair in machine mode in Bedding starts an operation; its end programs the slot with the staged hash, or
revokes it when the readback differs, or answers the refusal with nothing burned. -/
def Obligations.BringUpAndFuses : Prop :=
(∀ (s : State) (img : Nat), s.ready .bedrock = true → s.sys.bootGaveUp = false → s.slotA = none → s.slotB = none →
    exec (.kenulSlotCheck false img true) s
      = .next { (s.hbmWrite qCpu 0 0 0).2 with slotA := some (checkSlot s.keySlots img true) }) ∧
  (∀ (s : State) (b : Bool) (img : Nat) (e : Bool), s.ready .bedrock = false → exec (.kenulSlotCheck b img e) s = .next s) ∧
  (∀ (s : State) (a b : SlotResult) (slot : Nat) (k : Kenul), s.slotA = some a → s.slotB = some b → s.kenul = none →
    chosenSlot a b = some (slot, k) → exec .kenulApply s = .next (s.applyImage slot k)) ∧
  (∀ (s : State) (k : Kenul) (img : Nat), s.kenul = some k → s.rf R.SYS_BOOT_STATUS F.SYS_BOOT_STATUS_LOADER = 1 →
    Completes (.loaderCheck img true) s fun t =>
      t.rf R.SYS_BOOT_STATUS F.SYS_BOOT_STATUS_LOADER = 4 ∧ OnlyRegs [R.SYS_BOOT_STATUS] s t) ∧
  (∀ (s : State) (k : Kenul) (img : Nat), s.kenul = some k → s.rf R.SYS_BOOT_STATUS F.SYS_BOOT_STATUS_LOADER = 1 →
    exec (.loaderCheck img false) s
      = .next (if loaderCode k.pubkey img false = 2
          then (s.wf R.SYS_BOOT_STATUS F.SYS_BOOT_STATUS_LOADER 2).handOff img
          else s.wf R.SYS_BOOT_STATUS F.SYS_BOOT_STATUS_LOADER (loaderCode k.pubkey img false))) ∧
(∀ (s : State) (slot : Fin 4) (mv : Nat), s.mode = mBedding → s.sys.fuseOp = none →
    Completes (.fuseProgram .port .machine 0xF05E slot mv) s fun t =>
      t.flag R.SYS_FUSE_PGM_STATUS F.SYS_FUSE_PGM_STATUS_BUSY = true ∧ t.sys.fuses = s.sys.fuses ∧
        t.sys.fuseOp = some ⟨slot.val, true, (s.withMain mv).fuseRefusal slot.val true, s.stagedHash⟩ ∧
        OnlyRegs [R.SYS_FUSE_PGM_STATUS] s t) ∧
  (∀ (s : State) (slot : Fin 4) (mv : Nat), s.mode = mBedding → s.sys.fuseOp = none →
    Completes (.fuseRevoke .port .machine 0xF05E slot mv) s fun t =>
      t.flag R.SYS_FUSE_PGM_STATUS F.SYS_FUSE_PGM_STATUS_BUSY = true ∧ t.sys.fuses = s.sys.fuses ∧
        t.sys.fuseOp = some ⟨slot.val, false, (s.withMain mv).fuseRefusal slot.val false, s.stagedHash⟩ ∧
        OnlyRegs [R.SYS_FUSE_PGM_STATUS] s t) ∧
  (∀ (s : State) (o : FuseOp) (m : Bool), s.sys.fuseOp = some o →
    Completes (.fuseOpDone m) s fun t =>
      t.sys.fuseOp = none ∧ t.flag R.SYS_FUSE_PGM_STATUS F.SYS_FUSE_PGM_STATUS_BUSY = false ∧
        t.flag R.SYS_FUSE_PGM_STATUS F.SYS_FUSE_PGM_STATUS_DONE = true ∧
        (∀ c, o.refused = some c → t.sys.fuses.slots = s.sys.fuses.slots.set o.slot (s.fuseSlot o.slot)) ∧
        (o.refused = none → o.program = true → m = true →
          t.sys.fuses.slots = s.sys.fuses.slots.set o.slot { s.fuseSlot o.slot with programmed := true, hash := o.hash }) ∧
        (o.refused = none → (o.program = false ∨ m = false) →
          t.sys.fuses.slots = s.sys.fuses.slots.set o.slot { s.fuseSlot o.slot with revoked := true }) ∧
        OnlyRegs [R.SYS_FUSE_PGM_STATUS] s t)

/-- Links: a port that trains is up at the rate and width that both ends and the group's limits allow; a port that is lost
goes down and, with no port of the group left, the link trains again; a pair disables the link. A host-side reset
forgets the group's queues, its asynchronous requests and its stall. -/
def Obligations.LinksComeAndGo : Prop :=
(∀ (s : State) (g : Fin 2) (rate width partner : Nat), (s.hp g.val).link ≠ .disabled →
    s.flag (R.HP_LINK g.val) F.HP_LINK_UP = false → s.pers g.val ≠ 2 →
      exec (.linkTrained g 0 rate width partner) s
        = .next (((((s.setHp g.val { s.hp g.val with link := .up }).raise (R.HP_LINK g.val) F.HP_LINK_UP).wf (R.HP_LINK g.val)
            F.HP_LINK_RATE
              (((s.setHp g.val { s.hp g.val with link := .up }).raise (R.HP_LINK g.val) F.HP_LINK_UP).trainedRate g.val rate)).wf
            (R.HP_LINK g.val) F.HP_LINK_WIDTH
              (min width
                (((s.setHp g.val { s.hp g.val with link := .up }).raise (R.HP_LINK g.val) F.HP_LINK_UP).linkLanes g.val))).raise
            (R.HP_EVT g.val) F.HP_EVT_LINK_UP)) ∧
  (∀ (s : State) (g port : Fin 2), (s.hp g.val).link = .up →
    (s.portDown g.val port.val).flag (R.HP_LINK g.val) F.HP_LINK_UP = false →
      (s.portDown g.val port.val).flag (R.HP_LINK g.val) F.HP_LINK_UP1 = false →
        exec (.linkLost g port) s
          = .next ((s.portDown g.val port.val).setHp g.val { (s.portDown g.val port.val).hp g.val with link := .training })) ∧
  (∀ (s : State) (i : Initiator) (g : Fin 2) (v : Word), isPair i = true → fget v F.HP_LINK_CTL_ENABLE = 0 →
    Completes (.linkDisable i g v) s fun t => (t.hp g.val).link = .disabled) ∧
  (∀ (s : State) (g : Fin 2), s.ready (hpReady g.val) = true → s.pers g.val ≠ 0 →
    ((s.hostSideReset g.val).hp g.val).link ≠ .up →
      exec (.hostSideReset g) s = .next ((s.hostSideReset g.val).raise (R.HP_EVT g.val) F.HP_EVT_HOST_RESET)) ∧
  (∀ (s : State) (g : Fin 2), s.pers g.val = 1 → s.ready (hpReady g.val) = true →
    exec (.nvmeControllerReset g) s = .next (s.controllerReset g.val)) ∧
  (∀ (s : State) (g : Fin 2), ((s.hostSideReset g.val).hp g.val).sqs = [] ∧ ((s.hostSideReset g.val).hp g.val).cqs = [] ∧
    ((s.hostSideReset g.val).hp g.val).asyncReqs = [] ∧ ((s.hostSideReset g.val).hp g.val).stalled = false)

/-- Commands come in by each personality's own way: NVMe commands are fetched from a submission queue while contexts last,
SAS frames and SATA commands take a context each, and a doorbell write moves its queue's index. -/
def Obligations.CommandsComeIn : Prop :=
(∀ (s : State) (g : Fin 2) (q : Nat) (x : SubQueue) (v : Word), s.pers g.val = 1 → s.subQueue g.val q = some x → q ≤ 1023 →
    v.toNat < x.size →
    exec (.nvmeDoorbellWrite g (0x1000 + 8 * q) v) s
      = .next (s.setHp g.val { s.hp g.val with
          sqs := spInsert (spErase (s.hp g.val).sqs q) q { x with tail := v.toNat } })) ∧
  (∀ (s : State) (g : Fin 2) (q entry : Nat) (x : SubQueue), s.subQueue g.val q = some x → s.pers g.val = 1 →
    (s.hp g.val).link = .up → (s.hp g.val).stalled = false → s.nextSq g.val = some q → s.groupMayTake g.val = true →
      nvmeRefusal q entry = none →
        exec (.nvmeCommandFetch g q entry) s = .next ((s.consume g.val q x).admitCmd g.val 1 (nvmeCmd q entry))) ∧
  (∀ (s : State) (g : Fin 2) (q entry st : Nat) (x : SubQueue), s.subQueue g.val q = some x → s.pers g.val = 1 →
    (s.hp g.val).link = .up → (s.hp g.val).stalled = false → s.nextSq g.val = some q → s.groupMayTake g.val = true →
      nvmeRefusal q entry = some st →
        exec (.nvmeCommandFetch g q entry) s
          = .next ((s.consume g.val q x).complete g.val 1 q (rdLe entry 2 2) st [])) ∧
  (∀ (s : State) (g : Fin 2) (q entry : Nat) (x : SubQueue), s.subQueue g.val q = some x → s.pers g.val = 1 →
    (s.hp g.val).link = .up → (s.hp g.val).stalled = false → s.nextSq g.val = some q → s.groupMayTake g.val = false →
      exec (.nvmeCommandFetch g q entry) s
        = .next ((s.setHp g.val { s.hp g.val with stalled := true, resumed := false }).raise (R.HP_EVT g.val)
            F.HP_EVT_CTX_WAIT)) ∧
  (∀ (s : State) (g : Fin 2), (s.hp g.val).stalled = true → s.groupMayTake g.val = true →
    Completes (.nvmeFetchResume g) s fun t => (t.hp g.val).stalled = false ∧ SameRegs s t) ∧
  (∀ (s : State) (g : Fin 2) (lun tag space : Nat) (attr : TaskAttr) (cdb : Nat), s.pers g.val = 2 →
    s.flag (R.HP_LINK g.val) F.HP_LINK_UP = true → rdLe cdb 0 1 ≠ 0x12 → s.groupMayTake g.val = true →
      sasRefusal cdb = none →
        exec (.sasCommandFrame g 0 lun tag space attr cdb) s
          = .next (s.admitCmd g.val 2 (sasCmd 0 lun tag space attr cdb))) ∧
  (∀ (s : State) (g : Fin 2) (lun tag space st : Nat) (attr : TaskAttr) (cdb : Nat), s.pers g.val = 2 →
    s.flag (R.HP_LINK g.val) F.HP_LINK_UP = true → rdLe cdb 0 1 ≠ 0x12 → s.groupMayTake g.val = true →
      sasRefusal cdb = some st →
        exec (.sasCommandFrame g 0 lun tag space attr cdb) s = .next (s.emit (.host g.val tag st []))) ∧
  (∀ (s : State) (g : Fin 2) (lun tag space : Nat) (attr : TaskAttr) (cdb : Nat), s.pers g.val = 2 →
    s.flag (R.HP_LINK g.val) F.HP_LINK_UP = true → rdLe cdb 0 1 ≠ 0x12 → s.groupMayTake g.val = false →
      exec (.sasCommandFrame g 0 lun tag space attr cdb) s = .next (s.emit (.host g.val tag (stScsi 0x28) []))) ∧
  (∀ (s : State) (g port : Fin 2) (lun tag space : Nat), s.pers g.val = 2 →
    exec (.sasTaskManagement g port .abortTask lun tag space) s
      = .next ((s.abandonWhere g.val (taskScope .abortTask (port.val * 2 ^ 15 + space % 2 ^ 15) lun tag)).emit
          (.host g.val tag 0 []))) ∧
  (∀ (s : State) (c : HostCmd), s.pers 0 = 3 → (s.hp 0).link = .up → s.groupMayTake 0 = true →
    c.opcode ≠ 0xEC → c.opcode ∈ sataOps → exec (.sataCommand c) s = .next (s.admitCmd 0 3 { c with queue := 0, tenant := 1 })) ∧
  (∀ (s : State) (n : Fin 32) (c : HostCmd), s.pers 0 = 3 → (s.hp 0).link = .up → s.groupMayTake 0 = true →
    exec (.readFpdmaQueued n c) s
      = .next (s.admitCmd 0 3 { c with tag := n.val, opcode := 0x60, queue := 0, tenant := 1 })) ∧
  (∀ (s : State) (n : Fin 32) (c : HostCmd), s.pers 0 = 3 → (s.hp 0).link = .up → s.groupMayTake 0 = true →
    exec (.writeFpdmaQueued n c) s
      = .next (s.admitCmd 0 3 { c with tag := n.val, opcode := 0x61, queue := 0, tenant := 1 }))

/-- What a host reads and writes of the pages: it is answered from the shadow pages, its writes change the bits that it
may write, and firmware stages words that one commit applies together. -/
def Obligations.HostPagesAreShadowed : Prop :=
(∀ (s : State) (g : Fin 2) (ofs : Nat), s.pers g.val = 1 → (s.hp g.val).link = .up →
    exec (.hostConfigRead g ofs) s = .next (s.emit (.host g.val 0 0 [(s.shadow g.val (ofs % 0x1000 / 4)).toNat]))) ∧
  (∀ (s : State) (g : Fin 2) (ofs n : Nat), s.pers g.val = 1 → (s.hp g.val).link = .up → n ≤ 16 →
    exec (.hostBar0Read g ofs n) s
      = .next (s.emit (.host g.val 0 0 ((List.range n).map fun j => s.barRead g.val (ofs + 4 * j))))) ∧
  (∀ (s : State) (g : Fin 2) (ofs : Nat) (v : Word), s.pers g.val = 1 → (s.hp g.val).link = .up →
    ofs % 0x1000 / 4 ≠ capMsixWord → (ofs % 0x1000 / 4 ≠ capPcieWord + 2 ∨ bitAt v.toNat 15 = false) →
      exec (.hostConfigWrite g ofs v) s = .next (s.hostWord g.val (ofs % 0x1000 / 4) v)) ∧
  (∀ (s : State) (g : Fin 2) (ofs : Nat) (v : Word), s.pers g.val = 1 → (s.hp g.val).link = .up →
    ofs % 0x1000 / 4 = capPcieWord + 2 → bitAt v.toNat 15 = true →
      exec (.hostConfigWrite g ofs v) s = .next ((s.hostWord g.val (capPcieWord + 2) v).resetGroup g.val)) ∧
  (∀ (s : State) (g : Fin 2) (ofs : Nat) (v : Word), s.pers g.val = 1 → (s.hp g.val).link = .up →
    ofs % 0x1000 / 4 = capMsixWord →
      exec (.hostConfigWrite g ofs v) s = .next ((s.hostWord g.val (ofs % 0x1000 / 4) v).sendHeld g.val 0 1025)) ∧
  (∀ (s : State) (g : Fin 2) (ofs : Nat) (v : Word), s.pers g.val = 1 → (s.hp g.val).link = .up → ofs < 0x1000 →
    ofs / 4 ≠ 5 →
      exec (.hostBar0Write g ofs v) s
        = .next ((s.hostWord g.val ((0x1000 + ofs) / 4) v).raise (R.HP_EVT g.val) F.HP_EVT_PROP_WRITE)) ∧
  (∀ (s : State) (i : Initiator) (g : Fin 2) (v : Word), isPair i = true → (s.hp g.val).commitPending = false →
    (s.hp g.val).staged.length < 64 → s.rf (R.HP_SHD_ADDR g.val) F.HP_SHD_ADDR_WORD < msixWord →
      exec (.shadowStage i g v) s
        = .next ((s.setHp g.val { s.hp g.val with
            staged := (s.hp g.val).staged ++ [(s.rf (R.HP_SHD_ADDR g.val) F.HP_SHD_ADDR_WORD, v)] }).shdNext g.val)) ∧
  (∀ (s : State) (i : Initiator) (g : Fin 2), isPair i = true →
    s.rf (R.HP_SHD_ADDR g.val) F.HP_SHD_ADDR_WORD < shadowWords →
      Completes (.shadowRead i g) s fun t =>
        t.resp = s.shadow g.val (s.rf (R.HP_SHD_ADDR g.val) F.HP_SHD_ADDR_WORD)) ∧
  (∀ (s : State) (i : Initiator) (g : Fin 2), isPair i = true → (s.hp g.val).commitPending = false →
    Completes (.shadowCommit i g) s fun t => (t.hp g.val).commitPending = true ∧ SameRegs s t) ∧
  (∀ (s : State) (i : Initiator) (g : Fin 2), isPair i = true → (s.hp g.val).commitPending = false →
    Completes (.shadowDiscard i g) s fun t => (t.hp g.val).staged = [] ∧ SameRegs s t) ∧
  (∀ (s : State) (g : Fin 2) (w : Nat) (v : Word), (s.hp g.val).commitPending = true → (s.hp g.val).staged = [(w, v)] →
    Completes (.shadowCommitEffect g) s fun t =>
      (t.hp g.val).commitPending = false ∧ (t.hp g.val).staged = [] ∧
        t.flag (R.HP_EVT g.val) F.HP_EVT_SHD_DONE = true ∧ OnlyRegs [R.HP_EVT g.val] s t) ∧
  (∀ (s : State) (g : Fin 2) (tag page : Nat), s.pers g.val = 2 → s.ready (hpReady g.val) = true →
    exec (.inquiry g tag false page) s = .next (s.emit (.host g.val tag 0 (s.shadowWordsFrom g.val 0 24)))) ∧
  (∀ (s : State) (tag : Nat), s.pers 0 = 3 → s.ready .hpa = true →
    exec (.identifyDevice tag) s = .next (s.emit (.host 0 tag 0 (s.shadowWordsFrom 0 0 128))))

/-- Firmware takes a context when the pool may give one, and posts contexts onward by their states: a posted context that
no longer stands where the poster believes is left alone. A command that finishes has its status in its context, is
open no more, and leaves every other context, every register and all memory alone. -/
def Obligations.ContextsAreTakenAndFinished : Prop :=
(∀ (s : State) (p : Fin 2) (i : Initiator), pairOf i p.val = true → s.fwMayTake = false →
    Completes (.ctxTake i p) s fun t => t.rd (R.WAY_CTX_GOT p.val) = 0 ∧ OnlyRegs [R.WAY_CTX_GOT p.val] s t) ∧
  (∀ (s : State) (p : Fin 2) (i : Initiator), pairOf i p.val = true → s.fwMayTake = true →
    Completes (.ctxTake i p) s fun t =>
      t.rd (R.WAY_CTX_GOT p.val) = word (2 ^ 31 + s.pickFree) ∧ (t.ctx s.pickFree).state = cFirmware ∧
        (∀ k, k ≠ s.pickFree → t.ctx k = s.ctx k) ∧ OnlyRegs [R.WAY_CTX_GOT p.val] s t) ∧
  (∀ (s : State) (i : Initiator) (k : Fin 65536), isPair i = true → (s.ctx k.val).state = cFirmware →
    exec (.ctxPostFree i k) s = .next (s.freeCtxAt k.val)) ∧
  (∀ (s : State) (i : Initiator) (k : Fin 65536), isPair i = true → (s.ctx k.val).state ∈ [cNew, cMedia] →
    exec (.ctxPostPort i k) s = .next ((s.setCtx k.val { s.ctx k.val with state := cPort }).queueCtx 0 k.val)) ∧
  (∀ (s : State) (i : Initiator) (k : Fin 65536), isPair i = true → (s.ctx k.val).state ∈ [cNew, cPort] →
    exec (.ctxPostMedia i k) s = .next ((s.setCtx k.val { s.ctx k.val with state := cMedia }).queueCtx 1 k.val)) ∧
  (∀ (s : State) (i : Initiator) (k : Fin 65536), isPair i = true → (s.ctx k.val).state = cMedia →
    (s.work k.val).write = true → (s.work k.val).discarded = false → s.mustDrop k.val = false →
    s.ackOk (s.ctx k.val) = false →
      exec (.ctxPostStaged i k) s = .next (s.setCtx k.val { s.ctx k.val with state := cStaged })) ∧
  (∀ (s : State) (i : Initiator) (k : Fin 65536), isPair i = true → (s.ctx k.val).state ∈ [cNew, cPort, cMedia, cCommit] →
    (s.fetchData k.val).1 = .done →
      exec (.ctxPostDone i k) s
        = .next (((((s.fetchData k.val).2.2.setCtx k.val { s.ctx k.val with state := cDone }).returnRsv k.val).postCompletion k.val
            (s.fetchData k.val).2.1).freeCtxAt k.val)) ∧
  (∀ (s : State) (i : Initiator) (k : Fin 65536), isPair i = true →
    (s.ctx k.val).state ∈ [cFree, cStaged, cDone] → (s.ctx k.val).has fAcked = true →
      ∀ c ∈ [Instr.ctxPostPort i k, .ctxPostMedia i k, .ctxPostStaged i k, .ctxPostDone i k], exec c s = .next s) ∧
  (∀ (s : State) (i : Initiator) (k : Fin 65536) (rest : List Nat), pairOf i 0 = true → s.cmd.portQ = k.val :: rest →
    Completes (.ctxPop i 0 k) s fun t => t.cmd.portQ = rest ∧ t.cmd.mediaQ = s.cmd.mediaQ ∧ SameRegs s t) ∧
  (∀ (s : State) (i : Initiator) (t : Fin 256) (v : Word), isPair i = true →
    fget (s.rd (R.WAY_TEN_CFG t.val)) F.WAY_TEN_CFG_ENABLE = 1 →
      fget v F.WAY_TEN_CFG_VIEW = fget (s.rd (R.WAY_TEN_CFG t.val)) F.WAY_TEN_CFG_VIEW →
        exec (.tenantConfigWrite i t v none) s = .next (s.writeFields (R.WAY_TEN_CFG t.val) v) ∧
          ∀ n, exec (.tenantConfigWrite i t v (some n)) s = .next ((s.writeFields (R.WAY_TEN_CFG t.val) v).setCapacity t.val n)) ∧
  (∀ (s : State) (i : Initiator) (t : Fin 256) (v : Word), isPair i = true →
    fget (s.rd (R.WAY_TEN_CFG t.val)) F.WAY_TEN_CFG_ENABLE = 1 →
      fget v F.WAY_TEN_CFG_VIEW ≠ fget (s.rd (R.WAY_TEN_CFG t.val)) F.WAY_TEN_CFG_VIEW →
        exec (.tenantConfigWrite i t v none) s = .next s) ∧
  (∀ (s : State) (i : Initiator) (t : Fin 256) (v : Word), isPair i = true →
    exec (.allowanceWrite i t v) s
      = .next ({ s.writeFields (R.WAY_TEN_ALLOW_HI t.val) v with
          cmd := { (s.writeFields (R.WAY_TEN_ALLOW_HI t.val) v).cmd with
            allow := spSet 0 (s.writeFields (R.WAY_TEN_ALLOW_HI t.val) v).cmd.allow t.val
              ((s.writeFields (R.WAY_TEN_ALLOW_HI t.val) v).rf (R.WAY_TEN_ALLOW_LO t.val) F.WAY_TEN_ALLOW_LO_ALLOW
                + 2 ^ 32 * (s.writeFields (R.WAY_TEN_ALLOW_HI t.val) v).rf (R.WAY_TEN_ALLOW_HI t.val)
                  F.WAY_TEN_ALLOW_HI_ALLOW) } }.overdraft (t.val + 1))) ∧
  (∀ (s : State) (k : Fin 65536) (st : Nat),
    (s.finish k.val st).ctx k.val = { s.ctx k.val with status := st } ∧ (s.finish k.val st).isOpen k.val = false ∧
      (∀ j, j ≠ k.val → (s.finish k.val st).ctx j = s.ctx j ∧ (s.finish k.val st).isOpen j = s.isOpen j) ∧
      SameRegs s (s.finish k.val st))

/-- Block commands that reach the blocks of their tenant read, write, verify, compare and release them; flushes finish,
since what was acknowledged is already safe. A write that needs more granules than its tenant's allowance leaves is
refused whole, and counted; one that fits, whose class can be placed, is admitted with its granules reserved. -/
def Obligations.BlockCommandsAct : Prop :=
(∀ (s : State) (k slot : Fin 65536) (hit : Bool), s.blockReaches k.val opRead false →
    exec (.blockRead k slot hit) s = .next (s.readRange k.val slot.val hit)) ∧
  (∀ (s : State) (k slot : Fin 65536), s.blockReaches k.val opRead false → s.mode ≠ mHaven →
    (s.ctxKeys (s.ctx k.val)).any s.beyondResume = false → s.anyLost (s.ctxKeys (s.ctx k.val)) = false →
      s.readBlocked slot.val (s.ctxKeys (s.ctx k.val)) = false →
        exec (.blockRead k slot false) s
          = .next ((s.setCtx k.val { s.ctx k.val with keySlot := slot.val }).finishData k.val
              ((s.ctxKeys (s.ctx k.val)).map (s.readNow slot.val)))) ∧
  (∀ (s : State) (k slot : Fin 65536) (data : Nat), s.blockReaches k.val opWrite true →
    exec (.blockWrite k slot data) s
      = .next (s.admitWrite k.val (s.rf (R.WAY_TEN_CFG ((s.ctx k.val).tenant - 1)) F.WAY_TEN_CFG_CLASS) 0xFFFFFFFF slot.val
          data)) ∧
  (∀ (s : State) (k : Fin 65536), s.tenantReaches k.val { nvme := [0x00] } true →
    s.objView (s.ctx k.val).tenant = false → exec (.nvmeFlush k) s = .next (s.finish k.val 0)) ∧
  (∀ (s : State) (k : Fin 65536), s.tenantReaches k.val { sas := [0x91] } true →
    s.objView (s.ctx k.val).tenant = false → s.beyondCapacity (s.ctx k.val) = false → exec (.synchronizeCache k) s = .next (s.finish k.val 0)) ∧
  (∀ (s : State) (k : Fin 65536), s.tenantReaches k.val { sata := [0xEA] } true →
    s.objView (s.ctx k.val).tenant = false → exec (.flushCacheExt k) s = .next (s.finish k.val 0)) ∧
  (∀ (s : State) (k : Fin 65536), s.blockReaches k.val { nvme := [0x08] } true →
    exec (.writeZeroes k) s
      = .next ((s.release (s.ctx k.val).tenant
          (inRange ((s.ctx k.val).target % 2 ^ 64) (s.ctx k.val).granCnt)).finish k.val 0)) ∧
  (∀ (s : State) (k : Fin 65536) (l : List (Nat × Nat)), s.commandReaches k.val { nvme := [0x09] } true →
    s.objView (s.ctx k.val).tenant = false → bitAt (s.ctx k.val).target 34 = true →
      (∀ q ∈ l.take ((s.ctx k.val).target % 256 + 1), q.1 + q.2 ≤ spGetD 0 s.cmd.capacity ((s.ctx k.val).tenant - 1)) →
        exec (.deallocate k l) s
          = .next ((s.release (s.ctx k.val).tenant fun q =>
              (l.take ((s.ctx k.val).target % 256 + 1)).any fun r => inRange r.1 r.2 q).finish k.val 0)) ∧
  (∀ (s : State) (k : Fin 65536), s.blockReaches k.val opVerify false → s.mode ≠ mHaven →
    (s.ctxKeys (s.ctx k.val)).any s.beyondResume = false →
      ((s.ctxKeys (s.ctx k.val)).any fun q => s.way.lost.contains q) = false →
        exec (.blockVerify k true) s = .next (s.finish k.val 0)) ∧
  (∀ (s : State) (k : Fin 65536), s.blockReaches k.val opVerify false → s.mode ≠ mHaven →
    (s.ctxKeys (s.ctx k.val)).any s.beyondResume = false →
      exec (.blockVerify k false) s = .next (s.finish k.val (stReadError (s.ctx k.val).proto))) ∧
  (∀ (s : State) (k slot : Fin 65536) (data : Nat), s.blockReaches k.val { nvme := [0x05] } false → s.mode ≠ mHaven →
    (s.ctxKeys (s.ctx k.val)).any s.beyondResume = false → s.anyLost (s.ctxKeys (s.ctx k.val)) = false →
      s.readBlocked slot.val (s.ctxKeys (s.ctx k.val)) = false →
        (s.ctxKeys (s.ctx k.val)).map (s.readNow slot.val) = (List.range (s.ctx k.val).granCnt).map (dataAt data) →
          exec (.compare k slot false data) s
            = .next ((s.setCtx k.val { s.ctx k.val with keySlot := slot.val }).finish k.val 0)) ∧
(∀ (s : State) (k : Fin 65536) (cls link slot data n : Nat),
    ((s.ctxKeys (s.ctx k.val)).filter fun q => (s.mapped q).isNone).length = n → 0 < n →
      s.tenAllow (s.ctx k.val).tenant < s.tenUse (s.ctx k.val).tenant + s.tenRsv (s.ctx k.val).tenant + n →
        s.admitWrite k.val cls link slot data
          = (s.finish k.val (stObject (s.ctx k.val).proto 4)).countUp (R.WAY_TEN_STATUS ((s.ctx k.val).tenant - 1))
              F.WAY_TEN_STATUS_REFUSED 1) ∧
  (∀ (s : State) (k : Fin 65536) (cls link slot data n : Nat),
    ((s.ctxKeys (s.ctx k.val)).filter fun q => (s.mapped q).isNone).length = n →
      s.tenUse (s.ctx k.val).tenant + s.tenRsv (s.ctx k.val).tenant + n ≤ s.tenAllow (s.ctx k.val).tenant →
        s.tenRsv (s.ctx k.val).tenant + n < 2 ^ 32 → s.classOk cls = true → s.capacityOk cls n = true →
          ((s.admitWrite k.val cls link slot data).ctx k.val).rsvGran = n ∧
            (s.admitWrite k.val cls link slot data).tenRsv (s.ctx k.val).tenant = s.tenRsv (s.ctx k.val).tenant + n ∧
            ((s.admitWrite k.val cls link slot data).work k.val).data = data)

/-- NVMe administration: pages are read, namespaces, queues and features change as the command says, namespace management
and firmware commands are passed on to firmware. SCSI and ATA administration. -/
def Obligations.AdministrationActs : Prop :=
(∀ (s : State) (k : Fin 65536) (data : Nat), s.holds k.val { adm := [0x06] } = true → s.tenantOk (s.ctx k.val) = true →
    exec (.nvmeIdentify k 0 data) s
      = .next (s.finishData k.val (s.shadowWordsFrom (s.ctx k.val).origin (Config.identifyPlace (s.ctx k.val).tenant) 1024))) ∧
  (∀ (s : State) (k : Fin 65536) (data : Nat), s.holds k.val { adm := [0x06] } = true →
    exec (.nvmeIdentify k 1 data) s = .next (s.finishData k.val [putBytes (putBytes data 77 1 9) 525 1 0])) ∧
  (∀ (s : State) (k : Fin 65536) (cns data : Nat), s.holds k.val { adm := [0x06] } = true → 2 ≤ cns →
    exec (.nvmeIdentify k cns data) s = .next (s.finishData k.val [data])) ∧
  (∀ (s : State) (k : Fin 65536) (lid : Nat) (data : List Nat), s.holds k.val { adm := [0x02] } = true →
    exec (.nvmeGetLogPage k lid data) s = .next (s.finishData k.val (if lid = 0xC0 then s.cairnPage else data))) ∧
  (∀ (s : State) (k : Fin 65536) (t : Fin 256) (n : Nat), s.holds k.val { adm := [0x0D] } = true → s.blocked k.val true = false →
    Completes (.namespaceManagement k t n) s fun u =>
      spGetD 0 u.cmd.capacity t.val = n ∧ u.isOpen k.val = false ∧ u.ctx k.val = s.ctx k.val ∧ SameRegs s u) ∧
  (∀ (s : State) (k : Fin 65536), s.holds k.val { adm := [0x15] } = true → s.blocked k.val true = false →
    exec (.namespaceAttachment k) s = .next (s.passOn k.val)) ∧
  (∀ (s : State) (k : Fin 65536), s.holds k.val { adm := [0x11] } = true →
    exec (.firmwareImageDownload k) s = .next (s.passOn k.val)) ∧
  (∀ (s : State) (k : Fin 65536), s.holds k.val { adm := [0x10] } = true →
    exec (.firmwareCommit k) s = .next (s.passOn k.val)) ∧
  (∀ (s : State) (k : Fin 65536), (s.passOn k.val).isOpen k.val = false ∧ (s.passOn k.val).ctx k.val = s.ctx k.val ∧
    SameRegs s (s.passOn k.val)) ∧
  (∀ (s : State) (k : Fin 65536) (a : QueueArgs), s.holds k.val { adm := [0x01, 0x05] } = true → (s.ctx k.val).opcode = 0x05 →
    (s.ctx k.val).queueArgs = a → a.pc = true → 1 ≤ a.qid → a.qid ≤ 1024 → 2 ≤ a.size → a.size ≤ 4096 → a.far ≤ 1024 →
      spGet (s.hp (s.ctx k.val).origin).cqs a.qid = none →
        Completes (.createIoQueue k) s fun t =>
          spGet (t.hp (s.ctx k.val).origin).cqs a.qid = some { size := a.size, vector := a.far, ien := a.ien } ∧
            (t.ctx k.val).status = 0 ∧ SameRegs s t) ∧
  (∀ (s : State) (k : Fin 65536) (a : QueueArgs) (c : CplQueue), s.holds k.val { adm := [0x01, 0x05] } = true →
    (s.ctx k.val).opcode = 0x01 → (s.ctx k.val).queueArgs = a → a.pc = true → 1 ≤ a.qid → a.qid ≤ 1024 → 2 ≤ a.size →
      a.size ≤ 4096 → spGet (s.hp (s.ctx k.val).origin).sqs a.qid = none →
        spGet (s.hp (s.ctx k.val).origin).cqs a.far = some c →
          Completes (.createIoQueue k) s fun t =>
            spGet (t.hp (s.ctx k.val).origin).sqs a.qid = some { size := a.size, cq := a.far } ∧ (t.ctx k.val).status = 0 ∧
              SameRegs s t) ∧
  (∀ (s : State) (k : Fin 65536) (qid : Nat) (q : SubQueue), s.holds k.val { adm := [0x00] } = true → 1 ≤ qid →
    spGet (s.hp (s.ctx k.val).origin).sqs qid = some q →
      Completes (.nvmeDeleteIoQueue k false qid) s fun t =>
        spGet (t.hp (s.ctx k.val).origin).sqs qid = none ∧ (t.ctx k.val).status = 0 ∧ SameRegs s t) ∧
  (∀ (s : State) (k : Fin 65536) (sq cid j : Nat), s.holds k.val { adm := [0x08] } = true →
    s.findCmd (s.ctx k.val).origin sq cid = some j → j ≠ k.val →
      exec (.nvmeAbort k sq cid) s = .next ((s.finish j (stNvme 0 7 0)).finishData k.val [0])) ∧
  (∀ (s : State) (k : Fin 65536) (sq cid : Nat), s.holds k.val { adm := [0x08] } = true →
    s.findCmd (s.ctx k.val).origin sq cid = none → exec (.nvmeAbort k sq cid) s = .next (s.finishData k.val [1])) ∧
  (∀ (s : State) (k : Fin 65536) (fid v : Nat), s.holds k.val { adm := [0x09] } = true → noFeature fid = false →
    Completes (.nvmeSetFeatures k fid v) s fun t =>
      spGetD 0 (t.hp (s.ctx k.val).origin).features fid = v ∧ (t.ctx k.val).status = 0 ∧ SameRegs s t) ∧
  (∀ (s : State) (k : Fin 65536) (fid : Nat), s.holds k.val { adm := [0x0A] } = true → noFeature fid = false →
    exec (.nvmeGetFeatures k fid) s
      = .next (s.finishData k.val [spGetD 0 (s.hp (s.ctx k.val).origin).features fid])) ∧
  (∀ (s : State) (k : Fin 65536), s.holds k.val { adm := [0x0C] } = true →
    Completes (.nvmeAsyncEventRequest k) s fun t =>
      (t.hp (s.ctx k.val).origin).asyncReqs = (s.hp (s.ctx k.val).origin).asyncReqs ++ [k.val] ∧ t.isOpen k.val = false ∧
        SameRegs s t) ∧
(∀ (s : State) (k : Fin 65536), s.holds k.val { sas := [0x9E] } = true → s.tenantOk (s.ctx k.val) = true →
    exec (.readCapacity k) s
      = .next (s.finishData k.val (s.shadowWordsFrom (s.ctx k.val).origin (Config.capacityPlace (s.ctx k.val).tenant) 8))) ∧
  (∀ (s : State) (k : Fin 65536), s.holds k.val { sas := [0xA0] } = true →
    exec (.reportLuns k) s
      = .next (s.finishData k.val
          ((List.range 256).filter fun t => s.tenantOk { s.ctx k.val with tenant := t + 1 }))) ∧
  (∀ (s : State) (k : Fin 65536), s.commandReaches k.val { sas := [0x00] } false →
    exec (.testUnitReady k) s = .next (s.finish k.val 0)) ∧
  (∀ (s : State) (k : Fin 65536), s.holds k.val { sas := [0x03] } = true → s.tenantOk (s.ctx k.val) = true →
    exec (.requestSense k) s = .next (s.finishData k.val [(s.modeRefusal k.val 2 false).getD 0])) ∧
  (∀ (s : State) (k : Fin 65536), s.holds k.val { sas := [0x03] } = true → s.tenantOk (s.ctx k.val) = false →
    exec (.requestSense k) s = .next (s.finishData k.val [stBadNamespace 2])) ∧
  (∀ (s : State) (k : Fin 65536) (x : Bool), s.tenantReaches k.val { sas := [0x1B] } true →
    exec (.startStopUnit k x) s = .next (s.passOn k.val)) ∧
  (∀ (s : State) (k : Fin 65536), s.tenantReaches k.val { sas := [0x3B] } true → exec (.writeBuffer k) s = .next (s.passOn k.val)) ∧
  (∀ (s : State) (k : Fin 65536), s.tenantReaches k.val { sas := [0x3C] } false → exec (.readBuffer k) s = .next (s.passOn k.val)) ∧
  (∀ (s : State) (k : Fin 65536), s.holds k.val { sata := [0x92] } = true →
    exec (.downloadMicrocode k) s = .next (s.passOn k.val)) ∧
  (∀ (s : State) (k : Fin 65536) (page : Nat), s.tenantReaches k.val { sas := [0x5A] } false →
    page ≠ 8 →
      exec (.modeSense k page) s
        = .next (s.finishData k.val [spGetD 0 (s.hp (s.ctx k.val).origin).modePages page])) ∧
  (∀ (s : State) (k : Fin 65536), s.tenantReaches k.val { sas := [0x5A] } false →
    exec (.modeSense k 8) s = .next (s.finishData k.val [0])) ∧
  (∀ (s : State) (k : Fin 65536) (page data : Nat), s.tenantReaches k.val { sas := [0x55] } true → page ≠ 8 →
      Completes (.modeSelect k page data) s fun t =>
        spGetD 0 (t.hp (s.ctx k.val).origin).modePages page = data ∧ (t.ctx k.val).status = 0 ∧ SameRegs s t) ∧
  (∀ (s : State) (k : Fin 65536) (data : Nat), s.tenantReaches k.val { sas := [0x55] } true → data ≠ 0 →
      exec (.modeSelect k 8 data) s = .next (s.finish k.val (stSense 5 0x26 0))) ∧
  (∀ (s : State) (k : Fin 65536) (page : Nat) (data : List Nat), s.holds k.val { sas := [0x4D] } = true →
    s.tenantOk (s.ctx k.val) = true → exec (.logSense k page data) s = .next (s.finishData k.val (page :: data))) ∧
  (∀ (s : State) (k : Fin 65536) (page : Nat) (data : List Nat), s.holds k.val { sata := [0x2F, 0x47] } = true →
    page ≠ 0x10 → exec (.readLogExt k page data) s = .next (s.finishData k.val (page :: data))) ∧
  (∀ (s : State) (k : Fin 65536) (data : List Nat), s.holds k.val { sata := [0x2F, 0x47] } = true →
    exec (.readLogExt k 0x10 data) s = .next (s.finishData k.val [0x10, (s.hp (s.ctx k.val).origin).sense])) ∧
  (∀ (s : State) (k : Fin 65536), s.holds k.val { sas := [0x5E], nvme := [0x0E] } = true →
    s.tenantOk (s.ctx k.val) = true →
      exec (.persistentReserveIn k) s
        = .next (s.finishData k.val ([((s.reservation (s.ctx k.val).tenant).holder.map (· + 1)).getD 0,
            (s.reservation (s.ctx k.val).tenant).kind] ++
              (s.reservation (s.ctx k.val).tenant).registrants.map Prod.snd))) ∧
  (∀ (s : State) (k : Fin 65536) (op : ResOp) (r : Reservation),
    s.holds k.val { sas := [0x5F], nvme := [0x0D, 0x11, 0x15] } = true → s.tenantOk (s.ctx k.val) = true →
    (s.reservation (s.ctx k.val).tenant).apply (s.ctxWho (s.ctx k.val)) op = some r →
      Completes (.persistentReserveOut k op) s fun t =>
        t.reservation (s.ctx k.val).tenant = r ∧ (t.ctx k.val).status = 0 ∧ SameRegs s t) ∧
  (∀ (s : State) (k : Fin 65536) (op : ResOp),
    s.holds k.val { sas := [0x5F], nvme := [0x0D, 0x11, 0x15] } = true → s.tenantOk (s.ctx k.val) = true →
    (s.reservation (s.ctx k.val).tenant).apply (s.ctxWho (s.ctx k.val)) op = none →
      exec (.persistentReserveOut k op) s = .next (s.finish k.val (stConflict (s.ctx k.val).proto))) ∧
  (∀ (s : State) (k : Fin 65536) (f v : Nat), s.holds k.val { sata := [0xEF] } = true → f ≠ 2 →
    Completes (.setFeatures k f v) s fun t =>
      spGetD 0 (t.hp (s.ctx k.val).origin).features f = v ∧ (t.ctx k.val).status = 0 ∧ SameRegs s t)

/-- Object commands that reach their object act on it, by its state: a write appends under its stream, a close waits for
the writes before it and fixes the length, a sealed object refuses what would change it. -/
def Obligations.ObjectCommandsAct : Prop :=
(∀ (s : State) (k : Fin 65536) (cl : Nat), s.commandReaches k.val (opObj 0) true →
    s.objView (s.ctx k.val).tenant = true → s.badFields k.val 0 = false → s.objOf (s.ctx k.val) = none →
      s.cmd.objects.length < 2 ^ 34 →
        cl = (if bitAt (s.work k.val).flg 3 then s.rf (R.WAY_TEN_CFG ((s.ctx k.val).tenant - 1)) F.WAY_TEN_CFG_CLASS
          else (s.work k.val).flg % 8) →
          s.classOk cl = true → s.fwMayTake = true →
            exec (.objCreate k) s
              = .next ({ (s.takeStream (s.ctx k.val).tenant).2 with
                  cmd := { (s.takeStream (s.ctx k.val).tenant).2.cmd with
                    objects := { tenant := (s.ctx k.val).tenant, id := (s.ctx k.val).target, cls := cl,
                                 stream := some (s.takeStream (s.ctx k.val).tenant).1, created := s.crn.minutes } ::
                      (s.takeStream (s.ctx k.val).tenant).2.cmd.objects } }.finish k.val 0)) ∧
  (∀ (s : State) (k : Fin 65536) (o : Obj), s.commandReaches k.val (opObj 0) true →
    s.objView (s.ctx k.val).tenant = true → s.badFields k.val 0 = false → s.objOf (s.ctx k.val) = some o →
      exec (.objCreate k) s = .next (s.finish k.val (stObject (s.ctx k.val).proto 1))) ∧
  (∀ (s : State) (k slot : Fin 65536) (o : Obj) (st data : Nat), s.objectReaches k.val 0x01 true o → o.sealed = false →
    o.stream = some st → s.afterClose o k.val = false → (s.ctx k.val).granOfs + (s.ctx k.val).granCnt ≤ 2 ^ 32 →
      exec (.objWrite k slot data) s = .next (s.admitWrite k.val o.cls st slot.val data)) ∧
  (∀ (s : State) (k slot : Fin 65536) (o : Obj) (data : Nat), s.objectReaches k.val 0x01 true o → o.sealed = true →
    exec (.objWrite k slot data) s = .next (s.finish k.val (stObject (s.ctx k.val).proto 2))) ∧
  (∀ (s : State) (k slot : Fin 65536) (o : Obj) (hit : Bool), s.objectReaches k.val 0x02 false o →
    (s.ctx k.val).granOfs + (s.ctx k.val).granCnt ≤ 2 ^ 32 →
      (s.ctx k.val).granOfs + (s.ctx k.val).granCnt ≤ ceilDiv o.len 4096 →
        exec (.objRead k slot hit) s = .next (s.readRange k.val slot.val hit)) ∧
  (∀ (s : State) (k : Fin 65536) (o : Obj), s.objectReaches k.val 0x04 true o → o.sealed = false → o.stream = none →
    s.fwMayTake = true →
      exec (.objOpen k) s
        = .next (((s.takeStream (s.ctx k.val).tenant).2.setObj
            { o with stream := some (s.takeStream (s.ctx k.val).tenant).1 }).finish k.val 0)) ∧
  (∀ (s : State) (k : Fin 65536) (o : Obj), s.objectReaches k.val 0x06 false o →
    exec (.objGetAttr k) s = .next (s.finishData k.val [s.attrPage (s.ctx k.val).proto o])) ∧
  (∀ (s : State) (k : Fin 65536) (o : Obj) (st : Nat), s.objectReaches k.val 0x08 true o → o.sealed = false →
    o.stream = some st → s.afterClose o k.val = false → (o.closing.any fun q => q.1 ≠ k.val) = false →
      s.waitsClose k.val = none → s.streamBusy st = false →
      (s.work k.val).p1 * 2 ^ 32 + (s.ctx k.val).granOfs ≤ 2 ^ 44 →
      (s.work k.val).p1 * 2 ^ 32 + (s.ctx k.val).granOfs ≤ 4096 * o.high →
        exec (.objClose k) s
          = .next ((((s.release o.tenant fun q => q.kind = 1 && q.id = o.id &&
                ceilDiv ((s.work k.val).p1 * 2 ^ 32 + (s.ctx k.val).granOfs) 4096 ≤ q.offset).setObj
              { o with length := (s.work k.val).p1 * 2 ^ 32 + (s.ctx k.val).granOfs, stream := none, closing := none,
                       sealed := bitAt (s.work k.val).flg 5,
                       high := min o.high (ceilDiv ((s.work k.val).p1 * 2 ^ 32 + (s.ctx k.val).granOfs) 4096),
                       cut := cutAt o.cut ((s.work k.val).p1 * 2 ^ 32 + (s.ctx k.val).granOfs) }).freeCtxAt
                st).finish k.val 0)) ∧
  (∀ (s : State) (k : Fin 65536) (o : Obj) (st : Nat), s.objectReaches k.val 0x08 true o → o.sealed = false →
    o.stream = some st → s.afterClose o k.val = false → o.closing = none → s.waitsClose k.val = none → s.streamBusy st = true →
      exec (.objClose k) s = .next (s.setObj { o with closing := some (k.val, s.fresh) })) ∧
  (∀ (s : State) (k : Fin 65536) (o : Obj) (st : Nat), s.isOpen k.val = true → s.mode ≠ mHaven →
    s.waitsClose k.val = some o → o.sealed = false → o.stream = some st → s.afterClose o k.val = false →
      (o.closing.any fun q => q.1 ≠ k.val) = false → s.streamBusy st = false →
        exec (.objClose k) s = .next (s.closeObj k.val st o)) ∧
  (∀ (s : State) (k : Fin 65536) (o : Obj), s.objectReaches k.val 0x0C true o → o.stream = none →
    Completes (.objDelete k) s fun t =>
      (t.ctx k.val).status = 0 ∧ ∀ x ∈ t.cmd.objects, ¬ (x.tenant = o.tenant ∧ x.id = o.id)) ∧
  (∀ (s : State) (k : Fin 65536), s.commandReaches k.val (opObj 0x0E) false → s.objView (s.ctx k.val).tenant = true →
    ((s.ctx k.val).granCnt = 0 ∨ 255 < (s.ctx k.val).granCnt) →
      exec (.objList k) s = .next (s.finish k.val (stInvalidField (s.ctx k.val).proto))) ∧
  (∀ (s : State) (k : Fin 65536), s.commandReaches k.val (opObj 0x0E) false → s.objView (s.ctx k.val).tenant = true →
    s.badFields k.val 0x0E = false → s.cmd.objects = [] →
      exec (.objList k) s = .next (s.finishData k.val [pageOf (s.ctx k.val).proto [(4, 0), (4, 0), (8, 0)]])) ∧
  (∀ (s : State) (k : Fin 65536) (o : Obj), s.objectReaches k.val 0x10 true o →
    s.classOk ((s.work k.val).flg % 8) = true →
      exec (.objSetClass k) s = .next ((s.setObj { o with cls := (s.work k.val).flg % 8 }).finish k.val 0)) ∧
  (∀ (s : State) (k : Fin 65536) (o : Obj) (n : Nat), s.objectReaches k.val 0x14 false o → s.mode ≠ mHaven →
    s.way.lost = [] → exec (.objVerify k n false) s = .next (s.finishData k.val [n])) ∧
  (∀ (s : State) (k : Fin 65536) (o : Obj) (n : Nat), s.objectReaches k.val 0x14 false o → s.mode ≠ mHaven →
    exec (.objVerify k n true) s = .next (s.finish k.val (stObject (s.ctx k.val).proto 0xB)))

/-- Sideband transactions that match a code and its count act and are acknowledged; one that does not match changes
nothing but its own answer. I3C: an address is assigned, the mode switches, hot-join and in-band interrupts are
enabled and disabled, and the common command codes that read are answered. -/
def Obligations.SidebandRuns : Prop :=
(∀ (s : State) (p : Pec) (v : Nat), s.sidebandTakes p → v % 4 = 0 →
    exec (.sbSetPointer 4 v p) s = .next ((s.setPointer v).sbAnswer true [])) ∧
  (∀ (s : State) (p : Pec) (v : Nat), s.sidebandTakes p → v % 4 ≠ 0 →
    Completes (.sbSetPointer 4 v p) s fun t => t.sb.pointer = s.sb.pointer ∧ SameRegs s t) ∧
  (∀ s : State, s.ready .sideband = true → s.sbWriteNack = false →
    exec .sbRead s
      = .next (((s.towRead .sideband .machine 32 s.sb.pointer).setPointer (s.sb.pointer + 4)).sbAnswer true
          (bytesLow (s.towRead .sideband .machine 32 s.sb.pointer).resp.toNat 4))) ∧
  (∀ (s : State) (p : Pec) (v : Word), s.sidebandTakes p → s.sbTxFull = false →
    exec (.sbWrite 4 v p) s
      = .next (((s.towWrite .sideband .machine 32 s.sb.pointer v).setPointer (s.sb.pointer + 4)).sbAnswer true [])) ∧
  (∀ (s : State) (p : Pec) (v : Word) (m : Nat), s.sidebandTakes p → s.sbFull = false → s.sbBox = some m →
    exec (.sbMailboxSend 4 v p) s
      = .next ((s.writeMpoTx .sideband m 1 v).sbAnswer true [])) ∧
  (∀ (s : State) (m x : Nat) (l : List Nat), s.ready .sideband = true → s.sbWriteNack = false → s.sbBox = some m →
    s.mboxUsable m = true → s.inbound m 1 = x :: l →
      exec .sbMailboxReceive s = .next ((s.setInbound m 1 l).sbAnswer true ((l.length + 1) :: bytesLow x 4))) ∧
  (∀ (s : State) (p : Pec), s.sidebandTakes p → s.flag R.SYS_SB_CFG F.SYS_SB_CFG_RESET_EN = true →
    exec (.sbDeviceReset 3 0x015AA5 p) s = .next ((s.flushFirst .sideband).sbAnswer true [])) ∧
  (∀ (s : State) (p : Pec), s.sidebandTakes p → s.flag R.SYS_SB_CFG F.SYS_SB_CFG_RESET_EN = false →
    exec (.sbDeviceReset 3 0x015AA5 p) s = .next (s.sbAnswer true [])) ∧
  (∀ (s : State) (code : Nat), s.ready .sideband = true → s.sbWriteNack = false →
    exec (.sbUnknownCode code true) s = .next (s.sbAnswer true [0, 0, 0, 0])) ∧
  (∀ s : State, s.i3cMode = false → exec .smbusClockTimeout s = .next (s.sbAnswer false [])) ∧
(∀ (s : State) (a : Fin 128), s.ready .sideband = true → s.i3cMode = false →
    Completes (.i3cEntdaa a) s fun t =>
      t.i3cMode = true ∧ t.rf R.SYS_SB_STATUS F.SYS_SB_STATUS_DYN_ADDR = a.val ∧
        t.rf R.SYS_SB_STATUS F.SYS_SB_STATUS_HJ = 2 ∧ OnlyRegs [R.SYS_SB_STATUS] s t) ∧
  (∀ (s : State) (x a : Fin 128), s.ready .sideband = true → s.i3cMode = false →
    x.val = fget (s.regValue R.SYS_SB_STATUS) F.SYS_SB_STATUS_STATIC_ADDR →
      Completes (.i3cSetdasa x a) s fun t =>
        t.i3cMode = true ∧ t.rf R.SYS_SB_STATUS F.SYS_SB_STATUS_DYN_ADDR = a.val ∧ OnlyRegs [R.SYS_SB_STATUS] s t) ∧
  (∀ s : State, s.ready .sideband = true → s.i3cMode = true →
    Completes .i3cRstdaa s fun t =>
      t.i3cMode = false ∧ t.rf R.SYS_SB_STATUS F.SYS_SB_STATUS_DYN_ADDR = 0 ∧ OnlyRegs [R.SYS_SB_STATUS] s t) ∧
  (∀ s : State, s.ready .sideband = true →
    Completes (.i3cEnec true true) s fun t => t.sb.hjAllowed = true ∧ t.sb.ibiAllowed = true ∧ OnlyRegs [R.SYS_SB_STATUS] s t) ∧
  (∀ s : State, s.ready .sideband = true →
    Completes (.i3cDisec true true) s fun t =>
      t.sb.hjAllowed = false ∧ t.sb.ibiAllowed = false ∧ OnlyRegs [R.SYS_SB_STATUS] s t) ∧
  (∀ s : State, s.ready .sideband = true → s.i3cMode = true →
    exec .i3cGetpid s
      = .next (s.sbAnswer true
          (bytesHigh ((s.regValue R.SYS_SB_PID_LO).toNat + 2 ^ 32 * ((s.regValue R.SYS_SB_PID_HI).toNat % 2 ^ 16)) 6))) ∧
  (∀ s : State, s.ready .sideband = true → s.i3cMode = true → exec .i3cGetbcr s = .next (s.sbAnswer true [0x02])) ∧
  (∀ s : State, s.ready .sideband = true → s.i3cMode = true → exec .i3cGetdcr s = .next (s.sbAnswer true [0x00])) ∧
  (∀ (s : State) (x : Bool), s.ready .sideband = true → s.i3cMode = true → ∀ c ∈ [Instr.i3cGetstatus, .i3cGetmwlGetmrl x],
    Completes c s fun t => (∃ a b : Nat, t.out = .sideband true [a, b] :: s.out) ∧ SameRegs s t) ∧
  (∀ s : State, s.hotJoins = true →
    Completes .hotJoinAttempt s fun t =>
      t.sb.attempts = s.sb.attempts + 1 ∧ t.out = .i3c 0 :: s.out ∧
        t.rf R.SYS_SB_STATUS F.SYS_SB_STATUS_HJ = (if s.sb.attempts + 1 = 64 then 3 else 1) ∧ OnlyRegs [R.SYS_SB_STATUS] s t)

/-- Placement, cleaning, surveys and checkpoints: Waymark's own work on the media. -/
def Obligations.WaymarkWorks : Prop :=
(∀ (s : State) (k : Fin 65536), (s.ctx k.val).state ∈ [cMedia, cStaged] → 0 < (s.ctx k.val).granCnt →
    s.ready .waymark = true → (s.work k.val).discarded = false →
      exec (.writePlacement k) s = .next ((s.placeWrite k.val).capWatch s)) ∧
  (∀ (s : State) (n row : Nat) (g : Group), s.group n = some g → row < g.rows → g.parityRows ≤ row →
    g.redund ≠ 0 → (∃ b ∈ g.dataBands, s.written b row = true) →
      exec (.rowPadTimeout n row) s
        = .next ((g.dataBands.foldl (fun t b => t.padTo b row (row + 1)) s).settle)) ∧
  (∀ (s : State) (n : Nat) (g : Group), s.ready .waymark = true → s.mode ≠ mHaven →
    s.cleanCopies.cleanPick s.cleanCopies.way.groups = some (n, g) →
    exec .cleanerSelect s
      = .next (((s.cleanCopies.beginClean n g).cleanCopies.rebuildMissing.placeWaiting.retryCkpt).capWatch s)) ∧
  (∀ s : State, s.ready .waymark = true → s.mode ≠ mHaven → s.cleanCopies.cleanPick s.cleanCopies.way.groups = none →
    exec .cleanerSelect s = .next ((s.cleanCopies.rebuildMissing.placeWaiting.retryCkpt).capWatch s)) ∧
  (∀ s : State, s.surveyMode = false → Completes .surveySchedule s fun t => t.way.surveys = [] ∧ SameRegs s t) ∧
  (∀ s : State, s.surveyMode = true → s.ready .waymark = true →
    Completes .surveySchedule s fun t =>
      t.way.days = (List.range 8).map s.surveyDays ∧
        (∀ b, b ∈ t.way.surveys ↔ s.headIn (s.bandSurf b) = true ∧ ∃ x, (b, x) ∈ t.dueBands 1440) ∧ SameRegs s t) ∧
  (∀ (s : State) (b : Nat), b ∈ s.way.surveys → s.way.found = [] →
    Completes (.surveyBandDone b []) s fun t =>
      t.way.surveys = s.way.surveys.filter (· ≠ b) ∧ (t.band b).last = s.crn.minutes ∧ (t.band b).surveyed = true ∧
        SameRegs s t) ∧
  (∀ s : State, s.mode = mDormant → s.rf R.SYS_MODE F.SYS_MODE_PHASE = 1 →
    Completes .wakeMaxExpiry s fun t => t.way.surveys = [] ∧ t.way.wakeOver = true ∧ SameRegs s t) ∧
  (∀ s : State, s.ready .waymark = true → exec .checkpointTimerExpiry s = .next s.startCkpt) ∧
  (∀ s : State, s.ready .waymark = true → s.rf R.WAY_CKPT_CTL F.WAY_CKPT_CTL_CKPT_BANDS ≤ s.way.opened →
    exec .checkpointBandCount s = .next s.startCkpt) ∧
  (∀ (s : State) (i : Initiator) (v : Word), isPair i = true → fget v F.WAY_CKPT_CTL_GO = 1 →
    (s.writeFields R.WAY_CKPT_CTL v).ready .waymark = true →
      exec (.checkpointGo i v) s
        = .next { s.writeFields R.WAY_CKPT_CTL v with
            way := { (s.writeFields R.WAY_CKPT_CTL v).way with
              goNext := (s.writeFields R.WAY_CKPT_CTL v).way.ckptRun.isSome } }.startCkpt) ∧
  (∀ s : State, exec .checkpointComplete s = .next s.completeCkpt) ∧
  (∀ (s : State) (x : Fin 32) (n : Nat), s.touchAt (x.val / 8) = some n → n / 2 = x.val → s.mode ≠ mHaven →
    (s.touchDone n).mode ≠ mBedding → exec (.touchstoneCopyWritten x) s = .next (s.touchDone n)) ∧
  (∀ (s : State) (k : Kenul), s.ready .waymark = false → s.way.loaded = false → s.ready .bedrock = true → s.kenul = some k →
    s.mapReadable = true →
      Completes (.waymarkLoad []) s fun t =>
        t.way.loaded = true ∧ t.way.replayed = false ∧ t.ready .waymark = false ∧ ∀ a, t.byte a = s.byte a) ∧
  (∀ s : State, s.way.loaded = true → s.mapReadable = true →
    exec .waymarkReplayDone s
      = .next (if ((((({ s.replay with
              way := { s.replay.way with replayed := true } }.ensureLanding.rebuildMissing).touchMismatch).resumeUnit.capWatch
            s).mode = mBedding) ∧
          ((({ s.replay with
              way := { s.replay.way with replayed := true } }.ensureLanding.rebuildMissing).touchMismatch).resumeUnit.capWatch
            s).way.touchQ ≠ [])
        then ((({ s.replay with
              way := { s.replay.way with replayed := true } }.ensureLanding.rebuildMissing).touchMismatch).resumeUnit.capWatch s)
        else ((({ s.replay with
              way := { s.replay.way with replayed := true } }.ensureLanding.rebuildMissing).touchMismatch).resumeUnit.capWatch
            s).waymarkUp))

/-- Units: a take-out of a unit that stands IN begins its drain, a bring-in of one that stands OUT its calibration; the
drain goes step by step to OUT and the calibration's result ends at IN or OUT; a command during another is refused,
and changes no unit. -/
def Obligations.UnitsComeAndGo : Prop :=
(∀ (s : State) (i : Initiator) (v : Word), isPair i = true → fget v F.WAY_UNIT_CMD_OP = 1 → fget v F.WAY_UNIT_CMD_FORCE = 0 →
    fget v F.WAY_UNIT_CMD_KIND ≠ 0 → s.flag R.WAY_UNIT_STAT F.WAY_UNIT_STAT_BUSY = false →
      s.unitExists (fget v F.WAY_UNIT_CMD_KIND) (fget v F.WAY_UNIT_CMD_UNIT) = true →
        s.unitState (fget v F.WAY_UNIT_CMD_KIND) (fget v F.WAY_UNIT_CMD_UNIT) = uIn →
          s.unitRoom (fget v F.WAY_UNIT_CMD_KIND) (fget v F.WAY_UNIT_CMD_UNIT) = true →
            exec (.unitTakeOut i v) s
              = .next ((s.unitResult 1 (fget v F.WAY_UNIT_CMD_KIND) (fget v F.WAY_UNIT_CMD_UNIT) false 0).drainBegin
                  (fget v F.WAY_UNIT_CMD_KIND) (fget v F.WAY_UNIT_CMD_UNIT) false)) ∧
  (∀ (s : State) (i : Initiator) (v : Word), isPair i = true → fget v F.WAY_UNIT_CMD_OP = 1 → fget v F.WAY_UNIT_CMD_FORCE = 1 →
    fget v F.WAY_UNIT_CMD_KIND ≠ 0 → s.flag R.WAY_UNIT_STAT F.WAY_UNIT_STAT_BUSY = false →
      s.unitExists (fget v F.WAY_UNIT_CMD_KIND) (fget v F.WAY_UNIT_CMD_UNIT) = true →
        s.unitState (fget v F.WAY_UNIT_CMD_KIND) (fget v F.WAY_UNIT_CMD_UNIT) = uIn →
          exec (.unitForcedTakeOut i v) s
            = .next ((s.unitResult 1 (fget v F.WAY_UNIT_CMD_KIND) (fget v F.WAY_UNIT_CMD_UNIT) true 0).drainBegin
                (fget v F.WAY_UNIT_CMD_KIND) (fget v F.WAY_UNIT_CMD_UNIT) true)) ∧
  (∀ (s : State) (i : Initiator) (v : Word), isPair i = true → fget v F.WAY_UNIT_CMD_OP = 2 →
    s.flag R.WAY_UNIT_STAT F.WAY_UNIT_STAT_BUSY = false →
      s.unitExists (fget v F.WAY_UNIT_CMD_KIND) (fget v F.WAY_UNIT_CMD_UNIT) = true →
        s.unitState (fget v F.WAY_UNIT_CMD_KIND) (fget v F.WAY_UNIT_CMD_UNIT) = uOut →
          exec (.unitBringIn i v) s
            = .next { ((s.unitResult 2 (fget v F.WAY_UNIT_CMD_KIND) (fget v F.WAY_UNIT_CMD_UNIT)
                  (fget v F.WAY_UNIT_CMD_FORCE = 1) 0).setUnit (fget v F.WAY_UNIT_CMD_KIND) (fget v F.WAY_UNIT_CMD_UNIT)
                    uCal).raise R.WAY_UNIT_STAT F.WAY_UNIT_STAT_BUSY with
                way := { (((s.unitResult 2 (fget v F.WAY_UNIT_CMD_KIND) (fget v F.WAY_UNIT_CMD_UNIT)
                  (fget v F.WAY_UNIT_CMD_FORCE = 1) 0).setUnit (fget v F.WAY_UNIT_CMD_KIND) (fget v F.WAY_UNIT_CMD_UNIT)
                    uCal).raise R.WAY_UNIT_STAT F.WAY_UNIT_STAT_BUSY).way with
                  unitOp := some { bringIn := true, forced := false, kind := fget v F.WAY_UNIT_CMD_KIND,
                                   unit := fget v F.WAY_UNIT_CMD_UNIT } } }) ∧
  (∀ (s : State) (i : Initiator) (v : Word), isPair i = true → fget v F.WAY_UNIT_CMD_OP = 2 →
    s.flag R.WAY_UNIT_STAT F.WAY_UNIT_STAT_BUSY = true →
      exec (.unitBringIn i v) s
        = .next (s.unitResult 2 (fget v F.WAY_UNIT_CMD_KIND) (fget v F.WAY_UNIT_CMD_UNIT)
            (fget v F.WAY_UNIT_CMD_FORCE = 1) 1)) ∧
  (∀ (s : State) (o : UnitOp), s.way.unitOp = some o → o.bringIn = false → o.kind = 0 → s.mode ≠ mHaven →
    s.way.drainHeld = false → exec .drainStepDone s = .next ((s.setUnit 0 o.unit uOut).setLdReady o.unit false).unitEnd) ∧
  (∀ (s : State) (o : UnitOp), s.way.unitOp = some o → o.bringIn = false → o.kind ≠ 0 → s.mode ≠ mHaven →
    s.way.drainHeld = false → s.rf R.WAY_UNIT_STAT F.WAY_UNIT_STAT_STEP = 1 →
      Completes .drainStepDone s fun t =>
        t.rf R.WAY_UNIT_STAT F.WAY_UNIT_STAT_STEP = 2 ∧ t.way.unitOp = some o ∧ OnlyRegs [R.WAY_UNIT_STAT] s t) ∧
  (∀ (s : State) (o : UnitOp), s.way.unitOp = some o → o.bringIn = false → s.mode = mHaven →
    exec .drainStepDone s = .next s) ∧
  (∀ (s : State) (o : UnitOp), s.way.unitOp = some o → o.bringIn = true → o.kind = 0 →
    exec (.unitCalibrationResult true) s
      = .next (((((s.setUnit 0 o.unit uIn).setLdReady o.unit true).ensureLanding.rebuildMissing).unitEnd.capWatch s).refreshMedia)) ∧
  (∀ (s : State) (o : UnitOp), s.way.unitOp = some o → o.bringIn = true → o.kind ≠ 2 →
    exec (.unitCalibrationResult false) s
      = .next ((s.setUnit o.kind o.unit uOut).unitResult 2 o.kind o.unit false 4).unitEnd) ∧
  (∀ (s : State) (o : UnitOp), s.way.unitOp = some o → o.bringIn = true → o.kind = 2 →
    exec (.unitCalibrationResult false) s
      = .next (((s.setUnit 2 o.unit uOut).unitResult 2 2 o.unit false 4).unloadAct o.unit ucOut).unitEnd)

/-- Slices calibrate, are selected, freeze and thaw by their causes; each event says what it says in the slice's status.
The write channels: a gate opens only when every condition stands, is refused with a count when one does not, and
closes on a drop, a lost condition or an underrun; what closed it is in the events. -/
def Obligations.SlicesAndGatesRun : Prop :=
(∀ (s : State) (n : Fin 8), s.ldAssigned n.val = true →
    exec (.adcCalComplete n) s
      = .next ((s.raise (R.LD_STATUS n.val) F.LD_STATUS_ADC_CAL_DONE).setLdReady n.val true)) ∧
  (∀ (s : State) (n : Fin 8), s.kenul = none →
    Completes (.adcCalComplete n) s fun t =>
      t.flag (R.LD_STATUS n.val) F.LD_STATUS_ADC_CAL_DONE = true ∧ OnlyRegs [R.LD_STATUS n.val] s t) ∧
  (∀ (s : State) (n : Fin 8), s.ldAssigned n.val = true → s.flag (R.LD_CFG n.val) F.LD_CFG_ADC_CAL = true →
    exec (.adcTrimOutOfRange n) s = .next (s.carry (32 + n.val) 2 false)) ∧
  (∀ (s : State) (i : Initiator) (n : Fin 8) (v : Word) (z : Zone),
    s.zone (8 * (s.sliceAct n.val).getD 0 + fget v F.LD_SEL_HEAD) (fget v F.LD_SEL_ZONE) = some z → s.ldOpen i n.val = true →
      s.ldReady n.val = true → fget v F.LD_SEL_HEAD < s.heads ((s.sliceAct n.val).getD 0) →
        s.rf (R.LD_SEL n.val) F.LD_SEL_HEAD = fget v F.LD_SEL_HEAD → s.rf (R.LD_SEL n.val) F.LD_SEL_ZONE = fget v F.LD_SEL_ZONE →
          exec (.headZoneSelect i n v) s
            = .next (((((s.writeFields (R.LD_SEL n.val) v).wr (R.LD_SEL_STAT n.val)
                (word (z.code * 2 ^ 16 + z.eq * 2 ^ 8 + (8 * (s.sliceAct n.val).getD 0 + fget v F.LD_SEL_HEAD)))).raise
                  (R.LD_STATUS n.val) F.LD_STATUS_SEL_VALID).upset n.val).msRetune n.val)) ∧
  (∀ (s : State) (i : Initiator) (n : Fin 8) (v : Word), s.ldOpen i n.val = true → fget v F.LD_CFG_SOURCE < 2 →
    s.ldReady n.val = true →
      exec (.sourceSelect i n v) s
        = .next (((s.writeFields (R.LD_CFG n.val)
            (fset v F.LD_CFG_SOURCE (s.rf (R.LD_CFG n.val) F.LD_CFG_SOURCE))).setFrz n.val fzHold
              (fget v F.LD_CFG_HOLD = 1)).setSource n.val (fget v F.LD_CFG_SOURCE))) ∧
  (∀ (s : State) (n : Fin 8), s.livePair n.val = true → s.flag (R.LD_TA_STAT n.val) F.LD_TA_STAT_ACTIVE = false →
    exec (.taEventStart n) s
      = .next ((((s.raise (R.LD_EVT n.val) F.LD_EVT_TA).countUp (R.LD_TA_STAT n.val) F.LD_TA_STAT_COUNT 1).raise
          (R.LD_TA_STAT n.val) F.LD_TA_STAT_ACTIVE).setFrz n.val fzTa true)) ∧
  (∀ (s : State) (n : Fin 8),
    exec (.taEventEnd n) s = .next ((s.wf (R.LD_TA_STAT n.val) F.LD_TA_STAT_ACTIVE 0).setFrz n.val fzTa false)) ∧
  (∀ (s : State) (n : Fin 8) (src : Fin 6) (b : Bool), s.ldAssigned n.val = true →
    exec (.freezeAssert n src b) s = .next (s.setFrz n.val src.val (s.freezeCause n.val src.val b))) ∧
  (∀ (s : State) (n : Fin 8), s.frzOn n.val = 0 →
    exec (.freezeTailExpiry n) s = .next (s.setSlice n.val { s.slice n.val with tail := 0, tailB := 0 })) ∧
  (∀ (s : State) (n : Fin 8), s.frzOn n.val % 32 ≠ 0 → exec (.freezeTailExpiry n) s = .next s) ∧
  (∀ (s : State) (n : Fin 8), s.flag (R.LD_CLR_CTL n.val) F.LD_CLR_CTL_EN = true → s.livePair n.val = true →
    (s.slice n.val).clr = s.clrCount n.val →
      exec (.clearanceResult n) s
        = .next (s.clearance n.val (ampField (s.slice n.val).clrSum.1 (s.slice n.val).clr)
            (ampField (s.slice n.val).clrSum.2 (s.slice n.val).clr))) ∧
  (∀ (s : State) (n : Fin 8) (a b : List Int), s.ldReady n.val = true → s.livePair n.val = false → s.inRing n.val = true →
    exec (.sliceClock n a b) s
      = .next (((s.setSlice n.val { s.slice n.val with now := (s.slice n.val).now + 1 }).replayClock n.val).tailClock n.val)) ∧
  (∀ (s t : State) (n : Fin 8) (a b : List Int), s.ldReady n.val = true → s.livePair n.val = true → s.inRing n.val = false →
    t = s.setSlice n.val { s.slice n.val with now := (s.slice n.val).now + 1 } →
      exec (.sliceClock n a b) s
        = .next (((t.frontClock n.val a b).2.backClock n.val (t.frontClock n.val a b).1.1
            (t.frontClock n.val a b).1.2.1 (t.frontClock n.val a b).1.2.2).tailClock n.val)) ∧
(∀ (s : State) (i : Initiator) (a : Fin 4) (v : Word), s.actChannel i a.val = true → s.gateOpen a.val = true →
    exec (.writeChannelSelect i a v) s = .next s) ∧
  (∀ (s : State) (i : Initiator) (a : Fin 4) (v : Word) (z : Zone),
    s.zone (8 * a.val + fget v F.ACT_WC_SEL_HEAD) (fget v F.ACT_WC_SEL_ZONE) = some z → s.actChannel i a.val = true →
      fget v F.ACT_WC_SEL_HEAD < s.heads a.val → s.gateOpen a.val = false →
        exec (.writeChannelSelect i a v) s = .next (s.writeWcSel i a.val v)) ∧
  (∀ (s : State) (i : Initiator) (a : Fin 4) (v : Word), s.actChannel i a.val = true → fget v F.ACT_WC_CTL_HEAT_REQ = 1 →
    exec (.writeHeatRequest i a v) s
      = .next (((s.writeFields (R.ACT_WC_CTL a.val) v).raiseHeat
          ((s.writeFields (R.ACT_WC_CTL a.val) v).wcHead a.val)).gateCheck a.val)) ∧
  (∀ (s : State) (i : Initiator) (a : Fin 4) (v : Word), s.actChannel i a.val = true → fget v F.ACT_WC_CTL_HEAT_REQ = 0 →
    exec (.writeHeatRequest i a v) s = .next ((s.writeFields (R.ACT_WC_CTL a.val) v).gateCheck a.val)) ∧
  (∀ (s : State) (a : Fin 4), s.gateOpen a.val = false → s.actPresent a.val = true →
    (s.raiseHeat (s.wcHead a.val)).gateOk a.val = true →
      (s.raiseHeat (s.wcHead a.val)).flag (R.ACT_WC_STAT a.val) F.ACT_WC_STAT_HEAT_READY = true →
        exec (.gateRequest a) s = .next ((s.raiseHeat (s.wcHead a.val)).openGate a.val)) ∧
  (∀ (s : State) (a : Fin 4), s.gateOpen a.val = false → s.actPresent a.val = true →
    (s.raiseHeat (s.wcHead a.val)).gateOk a.val = false →
      exec (.gateRequest a) s = .next ((s.raiseHeat (s.wcHead a.val)).refuseGate a.val false)) ∧
  (∀ (s : State) (a : Fin 4), (s.wc a.val).waiting = true → exec (.heatTimeout a) s = .next (s.refuseGate a.val true)) ∧
  (∀ (s : State) (a : Fin 4), s.gateOpen a.val = true →
    exec (.gateDrop a) s = .next (s.closeGate a.val)) ∧
  (∀ (s : State) (a : Fin 4), s.gateOpen a.val = true → s.gateOk a.val = false →
    s.flag (R.ACT_WC_STAT a.val) F.ACT_WC_STAT_PERMIT = false →
      exec (.gateConditionLost a) s
        = .next ((s.raise (R.ACT_WC_EVT a.val) F.ACT_WC_EVT_PERMIT_DROP).abandonGate a.val)) ∧
  (∀ (s : State) (a : Fin 4), s.gateOk a.val = true → exec (.gateConditionLost a) s = .next s) ∧
  (∀ (s : State) (a : Fin 4), s.gateOpen a.val = true →
    exec (.writeUnderrun a) s
      = .next (((s.raise (R.ACT_WC_EVT a.val) F.ACT_WC_EVT_UNDERRUN).countUp (R.ACT_WC_CNT a.val) F.ACT_WC_CNT_UNDERRUN
          1).abandonGate a.val))

/-- Milestones lock, hold over and retune; sectors are framed or skipped, and a sector of the ring is framed again on
command. -/
def Obligations.FramingRuns : Prop :=
(∀ (s : State) (m : Fin 12) (clock : Int), s.msPresent m.val = true → s.msState m.val = msLocked →
    (s.act (s.msAct m.val)).timing = none →
      exec (.milestoneReferenceSample m clock) s = .next (s.msEnter m.val msHoldover)) ∧
  (∀ (s : State) (m : Fin 12) (clock r p : Int), s.msPresent m.val = true → s.msState m.val = msLocked →
    (s.act (s.msAct m.val)).timing = some r → p = r - clock + s.phaseOfs m.val + (s.ms m.val).fine →
      p.natAbs ≤ s.rf (msCtl m.val) F.LD_MS_CTL_LOSS_TH →
        exec (.milestoneReferenceSample m clock) s = .next (s.wf (msStat m.val) F.LD_MS_STAT_PHERR (bitsOf 8 (satTo 8 p)))) ∧
  (∀ (s : State) (m : Fin 12), s.msState m.val = msHoldover →
    exec (.milestoneHoldoverExpiry m) s = .next (s.msEnter m.val msAcquire)) ∧
  (∀ (s : State) (m : Fin 12), exec (.milestoneZoneChange m) s = .next (s.msRetune m.val)) ∧
  (∀ (s : State) (n : Fin 8) (track sector age : Nat), s.skipped (s.frameSurf n.val) track sector = true →
    s.framePos n.val track sector age = s.giveFrame n.val track sector ⟨none, none, 0, fSkipped, 0⟩ {}) ∧
  (∀ (s : State) (n : Fin 8) (track sector age : Nat),
    s.flag (R.LD_FRM_CTL n.val) F.LD_FRM_CTL_TS = false → s.ldReady n.val = true → s.livePair n.val = true →
      s.inRing n.val = false → s.sectorOut n.val sector age (s.frameWin n.val) = true →
        exec (.sectorFramed n true track sector age) s
          = .next (((s.clrSector n.val sector age).takePlace n.val track sector age).framePos n.val track sector age)) ∧
  (∀ (s : State) (i : Initiator) (n : Fin 8) (v : Word), s.ldOpen i n.val = true → s.inRing n.val = true →
    s.flag (R.LD_REFRAME_RES n.val) F.LD_REFRAME_RES_BUSY = false → fget v F.LD_REFRAME_BASE ≠ 3 →
      signedOf 4 (fget v F.LD_REFRAME_SHIFT) ≠ -8 →
        exec (.reframe i n v) s
          = .next ((s.raise (R.LD_REFRAME_RES n.val) F.LD_REFRAME_RES_BUSY).setSlice n.val
              { s.slice n.val with
                reframe := some (fget v F.LD_REFRAME_SECTOR, fget v F.LD_REFRAME_BASE, fget v F.LD_REFRAME_RELAX = 1,
                  signedOf 4 (fget v F.LD_REFRAME_SHIFT)) })) ∧
  (∀ (s : State) (n : Fin 8) (sector base v : Nat) (relax : Bool) (shift : Int),
    (s.slice n.val).reframe = some (sector, base, relax, shift) → s.inRing n.val = true →
      s.replayMark n.val (fun a => a / 2 ^ 32 % 2 ^ 16 = sector) = some v → 0 ≤ s.replayAge n.val v →
        s.sectorOut n.val sector (s.replayAge n.val v).toNat 7 = true →
          exec (.reframeDone n) s
            = .next (s.reframe n.val (markArg v % 2 ^ 32) sector (s.replayAge n.val v).toNat base relax shift))

/-- Quarry: descriptors queue in order and flush, a free engine takes the best waiting slot, a decode ends, completions
are posted in order and popped; a faulted engine gives its slot back. -/
def Obligations.QuarryDecodes : Prop :=
(∀ (s : State) (i : Initiator) (n : Fin 8) (v : Word), s.qryOpen i n.val = true → s.qryFree n.val ≠ 0 →
    fget v F.QRY_SUB_CMD_CLASS ≠ 3 →
      Completes (.descriptorPush i n v) s fun t =>
        (∃ d : Desc, d.sector = fget v F.QRY_SUB_CMD_SECTOR ∧ d.cls = fget v F.QRY_SUB_CMD_CLASS ∧
          t.qry.ents = s.qry.ents.set n.val (s.qents n.val ++ [(d, .queued)])) ∧ t.qry.slots = s.qry.slots ∧ SameRegs s t) ∧
  (∀ (s : State) (i : Initiator) (n : Fin 8) (v : Word), s.qryOpen i n.val = true →
    fget v F.QRY_SUB_CMD_CLASS ≠ 3 → exec (.descriptorFlush i n v) s = .next (s.qryFlush n.val)) ∧
  (∀ (s : State) (e : Fin 12) (x : Slot), s.engineFree e.val = true → s.ready .quarry = true →
    bestSlot (s.qry.slots.filter s.slotWaits) = some x →
      exec (.engineDispatch e) s
        = .next ((s.setSlots (s.qry.slots.map fun y => if y.id = x.id then { y with engine := some e.val } else y)).engBusy e.val
            true)) ∧
  (∀ (s : State) (e : Fin 12) (x : Slot), s.engineSlot e.val = some x →
    exec (.decodeComplete e) s = .next ((s.endDecode x).engBusy e.val false)) ∧
  (∀ (s : State) (n : Fin 8) (d : Desc) (c : Cpl) (id : Option Nat) (an : Int) (rest : List (Desc × DescSt)),
    (∀ k, (s.seq k).ladder = none) → (s.seq n.val).catching = none → s.qents n.val = (d, .done c id an) :: rest → c.status ≠ qFail → c.status ≠ qMiscorrect →
      Completes (.completionPost n) s fun t =>
        t.qents n.val = rest ∧ t.qry.cpls = s.qry.cpls.set n.val (s.qcpls n.val ++ [c]) ∧
          (∀ y ∈ t.qry.slots, some y.id ≠ id) ∧ OnlyRegs [R.QRY_STAT, R.QRY_EVT] s t) ∧
  (∀ (s : State) (i : Initiator) (n : Fin 8) (v : Word), s.qryOpen i n.val = true → fget v F.QRY_CPL_POP_POP = 1 →
    Completes (.completionPop i n v) s fun t => t.qcpls n.val = (s.qcpls n.val).drop 1 ∧ t.qents n.val = s.qents n.val ∧ SameRegs s t) ∧
  (∀ (s : State) (e : Fin 12), s.noInjection →
    exec (.engineFault e) s
      = .next (((((s.setSlots (s.qry.slots.map fun y => if y.engine = some e.val then { y with engine := none } else y)).engBusy
          e.val false).wf R.QRY_STAT ⟨16 + e.val, 16 + e.val⟩ 1).raise R.QRY_EVT F.QRY_EVT_FAULT).carry 11 2 false)) ∧
  (∀ (s : State) (i : Initiator) (v : Word), s.ready .quarry = true → isPair i = true →
    exec (.engineFaultClear i v) s = .next (s.writeFields R.QRY_STAT v)) ∧
  (∀ (s : State) (n : Fin 8) (c : Nat), (s.slice n.val).playing = true → s.rplyEnd n.val = some c →
    (c = 3 ∨ (s.slice n.val).reframe = none) → exec (.replayEnd n) s = .next ((s.endReplay n.val c).ladderMissed n.val)) ∧
  (∀ (s : State) (i : Initiator) (n : Fin 8) (v : Word), s.ldOpen i n.val = true →
    exec (.ringFind i n v) s
      = .next ((s.wr (R.LD_RING_FOUND_HI n.val) (word (2 ^ 30))).setSlice n.val
          { (s.wr (R.LD_RING_FOUND_HI n.val) (word (2 ^ 30))).slice n.val with
            find := some (fget v F.LD_RING_FIND_SECTOR) })) ∧
  (∀ (s u : State) (n : Fin 8) (sec : Nat), (s.slice n.val).find = some sec →
    (s.setSlice n.val { s.slice n.val with find := none }).searchMarks (s.rplyQ n.val)
        (fun v => markKind v = mkSector && s.heldClk (s.rplyQ n.val) (s.markClk (s.rplyQ n.val) v)
          && markArg v % 2 ^ 32 = (s.rd (R.LD_RING_FIND_TRK n.val)).toNat && markArg v / 2 ^ 32 % 2 ^ 16 = sec)
        (s.sub (s.rplyQ n.val)).marks ((s.sub (s.rplyQ n.val)).marks - s.oldMark (s.rplyQ n.val)) = (none, u) →
      exec (.ringFindDone n) s = .next ((u.wr (R.LD_RING_FOUND_LO n.val) 0).wr (R.LD_RING_FOUND_HI n.val) 0)) ∧
  (∀ (s u : State) (n : Fin 8) (sec m : Nat), (s.slice n.val).find = some sec →
    (s.setSlice n.val { s.slice n.val with find := none }).searchMarks (s.rplyQ n.val)
        (fun v => markKind v = mkSector && s.heldClk (s.rplyQ n.val) (s.markClk (s.rplyQ n.val) v)
          && markArg v % 2 ^ 32 = (s.rd (R.LD_RING_FIND_TRK n.val)).toNat && markArg v / 2 ^ 32 % 2 ^ 16 = sec)
        (s.sub (s.rplyQ n.val)).marks ((s.sub (s.rplyQ n.val)).marks - s.oldMark (s.rplyQ n.val)) = (some m, u) →
      exec (.ringFindDone n) s
        = .next ((u.wr (R.LD_RING_FOUND_LO n.val) (word (s.markClk (s.rplyQ n.val) m % 2 ^ 48))).wr (R.LD_RING_FOUND_HI n.val)
            (word (2 ^ 31 + markSample m * 2 ^ 16 + s.markClk (s.rplyQ n.val) m % 2 ^ 48 / 2 ^ 32))))

/-- Loops are triggered by their own sources, by ticks and by kicks; a disabled loop is not triggered; one triggered while
it still waits shows an overrun. A pair configures the loops: an enabled loop takes the word that it is given,
starting clear; a disabled loop no longer waits; the latched CLR and SWAP requests stay until a run takes them. -/
def Obligations.LoopsRun : Prop :=
(∀ (s : State) (t : Fin 16) (l : Fin 80), t.val ≠ 0 → s.rf (R.BAS_LCFG l.val) F.BAS_LCFG_TRIG = t.val →
    s.loopEn l.val = true → s.flag (R.BAS_LCFG l.val) F.BAS_LCFG_HOLD = false →
    (l.val < 48 ∨ s.heatUp (l.val - 48) = false) → (s.loop l.val).waiting = none →
      exec (.loopTrigger t l) s
        = .next { s.setLoop l.val { s.loop l.val with waiting := some s.bas.order } with
            bas := { (s.setLoop l.val { s.loop l.val with waiting := some s.bas.order }).bas with
              order := (s.setLoop l.val { s.loop l.val with waiting := some s.bas.order }).bas.order + 1 } }) ∧
  (∀ (s : State) (t : Fin 16) (l : Fin 80) (n : Nat), t.val ≠ 0 → s.rf (R.BAS_LCFG l.val) F.BAS_LCFG_TRIG = t.val →
    s.loopEn l.val = true → s.flag (R.BAS_LCFG l.val) F.BAS_LCFG_HOLD = false →
    (l.val < 48 ∨ s.heatUp (l.val - 48) = false) → (s.loop l.val).waiting = some n →
      Completes (.loopTrigger t l) s fun u =>
        u.flag (R.BAS_LFLAG l.val) F.BAS_LFLAG_OVERRUN = true ∧ OnlyRegs [R.BAS_LFLAG l.val] s u) ∧
  (∀ (s : State) (t : Fin 16) (l : Fin 80), s.loopEn l.val = false → exec (.loopTrigger t l) s = .next s) ∧
  (∀ (s : State) (t : Fin 16) (l : Fin 80), s.flag (R.BAS_LCFG l.val) F.BAS_LCFG_HOLD = true →
    exec (.loopTrigger t l) s = .next s) ∧
  (∀ (s : State) (t : Fin 2),
    exec (.basaltTick t) s
      = .next ((List.range 80).foldl (fun u l => if u.rf (R.BAS_LCFG l) F.BAS_LCFG_TRIG = 3 + t.val then u.trigger l else u) s)) ∧
  (∀ (s : State) (i : Initiator) (v : Word), s.basOpen i = true → 10 ≤ fget v F.BAS_KICK_LOOP → fget v F.BAS_KICK_LOOP < 80 →
    s.innerOf (fget v F.BAS_KICK_LOOP) = none → exec (.loopKick i v) s = .next (s.trigger (fget v F.BAS_KICK_LOOP))) ∧
(∀ (s : State) (i : Initiator) (l : Fin 80) (v : Word), s.basOpen i = false →
    ∀ c ∈ [Instr.loopEnable i l v, .loopDisable i l v, .loopClear i l, .bankSwap i l, .integratorWrite i l v], exec c s = .next s) ∧
  (∀ (s : State) (i : Initiator) (l : Fin 80), s.loopLegal i l.val → s.loopEn l.val = false →
    Completes (.loopEnable i l (s.rd (R.BAS_LCFG l.val))) s fun t =>
      t.loopEn l.val = true ∧ (t.loop l.val).runs = 0 ∧ OnlyRegs [R.BAS_LCFG l.val] s t) ∧
  (∀ (s : State) (i : Initiator) (l : Fin 80), s.loopLegal i l.val →
    Completes (.loopDisable i l (s.rd (R.BAS_LCFG l.val))) s fun t =>
      t.loopEn l.val = false ∧ (t.loop l.val).waiting = none ∧ OnlyRegs [R.BAS_LCFG l.val] s t) ∧
  (∀ (s : State) (i : Initiator) (l : Fin 80), s.loopLegal i l.val →
    Completes (.loopClear i l) s fun t =>
      t.rf (R.BAS_LCFG l.val) F.BAS_LCFG_CLR = 1 ∧ t.loopEn l.val = s.loopEn l.val ∧ OnlyRegs [R.BAS_LCFG l.val] s t) ∧
  (∀ (s : State) (i : Initiator) (l : Fin 80), s.loopLegal i l.val →
    Completes (.bankSwap i l) s fun t =>
      t.rf (R.BAS_LCFG l.val) F.BAS_LCFG_SWAP = 1 ∧ t.loopEn l.val = s.loopEn l.val ∧ OnlyRegs [R.BAS_LCFG l.val] s t) ∧
  (∀ (s : State) (i : Initiator) (l : Fin 80) (v : Word), s.basOpen i = true →
    Completes (.integratorWrite i l v) s fun t =>
      t.rd (R.BAS_LINT_HI l.val) = word (v.toNat % 256) ∧ OnlyRegs [R.BAS_LINT_HI l.val] s t) ∧
  (∀ (s : State) (i : Initiator) (k : Fin 16) (v : Word), s.basOpen i = true →
    Completes (.generalInputWrite i k v) s fun t =>
      t.rf (R.BAS_GIN k.val) F.BAS_GIN_VALUE = fget v F.BAS_GIN_VALUE ∧
        spGetD 0 t.bas.gin k.val = s.bas.stamp + 1 ∧ t.bas.stamp = s.bas.stamp + 1 ∧ OnlyRegs [R.BAS_GIN k.val] s t) ∧
  (∀ (s : State) (i : Initiator) (v : Word), s.basOpen i = true → fget v F.BAS_SV_HWM_CLR = 1 →
    Completes (.servoHwmClear i v) s fun t => t.rd R.BAS_SV_HWM = 0 ∧ OnlyRegs [R.BAS_SV_HWM] s t) ∧
  (∀ (s : State) (ns : Nat) (k : List Nat) (l : Nat), s.chooseLoop 80 = some (k, l) → l ≠ 9 →
    exec (.loopRun ns) s = .next ((s.runLoop l).afterRun l ns)) ∧
  (∀ (s : State) (ns : Nat) (k : List Nat), s.chooseLoop 80 = some (k, 9) →
    exec (.loopRun ns) s = .next ((s.speedRef.runLoop 9).afterRun 9 ns))

/-- Actuators: samples are taken of present actuators; loads, unloads, seeks, head selections and their timeouts do what
they say. The preamplifier interface: frames go out one at a time by priority, a raw transfer answers, a fault is
shown and reported on its falling edge, and the enumeration is judged against the heads of the image. -/
def Obligations.ActuatorsMove : Prop :=
(∀ (s : State) (a : Fin 4) (d : Demod) (clock : Option Int), s.actPresent a.val = true → s.servoRead a.val = some (d, clock) →
    exec (.positionSample a) s = .next ((s.nextFrame a.val).takeSample a.val d clock)) ∧
  (∀ (s : State) (a : Fin 4), s.actPresent a.val = true → s.servoRead a.val = none →
    exec (.positionSample a) s
      = .next ((s.setAct a.val { s.act a.val with timing := none }).sample a.val false { found := false })) ∧
  (∀ (s : State) (a : Fin 4), s.actPresent a.val = true →
    exec (.sampleMissingTimeout a) s
      = .next ((s.setAct a.val { s.act a.val with timing := none }).sample a.val false { found := false })) ∧
  (∀ (s : State) (i : Initiator) (a : Fin 4), actPair i = true → s.actPresent a.val = true → s.actSt a.val = aParked →
    s.rf (R.ACT_PA_ENUM a.val) F.ACT_PA_ENUM_RESULT = enOk → s.ready .millstone = true → s.unitState 2 a.val ≠ uOut →
      Completes (.actuatorLoad i a) s fun t => t.actSt a.val = aLoading ∧ OnlyRegs [R.ACT_STATE a.val] s t) ∧
  (∀ (s : State) (i : Initiator) (a : Fin 4), actPair i = true → s.canUnload a.val = true →
    exec (.actuatorUnload i a) s
      = .next ((((s.actEnter a.val aUnloading).wf (R.ACT_STATE a.val) F.ACT_STATE_CAUSE ucCommand).setAct a.val
          { ((s.actEnter a.val aUnloading).wf (R.ACT_STATE a.val) F.ACT_STATE_CAUSE ucCommand).act a.val with
            stall := 0 }).offTrack a.val)) ∧
  (∀ (s : State) (i : Initiator) (a : Fin 4) (v : Word), s.actChannel i a.val = true → s.actSt a.val = aFollow →
    fget v F.ACT_SEEK_TRACK < ((s.servoSurface a.val).map Surface.tracks).getD 0 →
      exec (.seek i a v) s
        = .next (((s.actEnter a.val aSeek).wf (R.ACT_SEEK a.val) F.ACT_SEEK_TRACK (fget v F.ACT_SEEK_TRACK)).refreshPermit
            a.val)) ∧
  (∀ (s : State) (i : Initiator) (a : Fin 4) (p : Fin 2) (v : Word), s.actChannel i a.val = true →
    fget v F.ACT_HSEL_HEAD < s.heads a.val → s.gateOpen a.val = false → p.val ≠ s.servoPair a.val →
      exec (.headSelect i a p v) s
        = .next ((((s.wf (R.ACT_HSEL a.val p.val) F.ACT_HSEL_HEAD (fget v F.ACT_HSEL_HEAD)).raise (R.ACT_HSEL a.val p.val)
            F.ACT_HSEL_BUSY).queueFrame a.val
              { prio := 1, read := false, addr := (s.rf (R.ACT_PA_MAP0 a.val) F.ACT_PA_MAP0_HSEL_ADDR + p.val) % 128,
                data := fget v F.ACT_HSEL_HEAD, what := p.val }).refreshPermit a.val)) ∧
  (∀ (s : State) (a : Fin 4), s.actSt a.val = aLoading →
    exec (.loadTimeout a) s = .next (s.unloadAct a.val ucLoadFail)) ∧
  (∀ (s : State) (a : Fin 4), s.actSt a.val = aLost →
    exec (.lostTimeout a) s = .next ((s.unloadAct a.val ucServoLost).carry (20 + a.val) 2 false)) ∧
  (∀ (s : State) (i : Initiator) (a : Fin 4) (v : Word), actPair i = true → fget v F.ACT_DITHER_EN = 0 →
    exec (.ditherEnable i a v) s = .next ((s.writeFields (R.ACT_DITHER a.val) v).refreshPermit a.val)) ∧
  (∀ (s : State) (x : Int) (k : Fin 8), s.owner (0x0700 + k.val) ≠ 0x40 →
    s.flag R.ACT0_SHOCK_CFG F.ACT0_SHOCK_CFG_EN = true → s.rf R.ACT0_SHOCK_CFG F.ACT0_SHOCK_CFG_SENSOR = k.val →
    s.rf R.ACT0_SHOCK_CFG F.ACT0_SHOCK_CFG_THR ≤ x.natAbs →
      exec (.shockSample k x) s
        = .next ((List.range 4).foldl (fun u a => u.raise (R.ACT_EVT a) F.ACT_EVT_SHOCK)
            ((s.raise R.ACT0_SHOCK_STAT F.ACT0_SHOCK_STAT_ACTIVE).countUp R.ACT0_SHOCK_STAT F.ACT0_SHOCK_STAT_COUNT
              1)).refreshPermits) ∧
  (∀ (s : State) (x : Int) (k : Fin 8), s.owner (0x0700 + k.val) ≠ 0x40 →
    (s.rf R.ACT0_SHOCK_CFG F.ACT0_SHOCK_CFG_SENSOR ≠ k.val ∨ x.natAbs < s.rf R.ACT0_SHOCK_CFG F.ACT0_SHOCK_CFG_THR) →
      exec (.shockSample k x) s = .next s) ∧
  (∀ (s : State) (x : Int) (k : Fin 8), s.owner (0x0700 + k.val) = 0x40 →
    x.natAbs < s.rf R.ACT0_SHOCK_CFG F.ACT0_SHOCK_CFG_THR →
      Completes (.shockSample k x) s fun t => spGetD 0 t.bas.sensor k.val = sat16 x ∧ SameRegs s t) ∧
  (∀ s : State, Completes .shockRelease s fun t =>
    t.flag R.ACT0_SHOCK_STAT F.ACT0_SHOCK_STAT_ACTIVE = false ∧
      t.rf R.ACT0_SHOCK_STAT F.ACT0_SHOCK_STAT_COUNT = s.rf R.ACT0_SHOCK_STAT F.ACT0_SHOCK_STAT_COUNT ∧
      OnlyRegs [R.ACT0_SHOCK_STAT] s t) ∧
(∀ (s : State) (a : Fin 4) (d : Fin 256) (f : PaFrame), (s.act a.val).busy = some f →
    exec (.preampFrameEnd a d) s
      = .next (((s.setAct a.val { s.act a.val with busy := none }).endFrame a.val f d.val).startFrame a.val)) ∧
  (∀ (s : State) (a : Fin 4), s.actPresent a.val = true → s.actSt a.val ≠ aParked →
    exec (.preampStatusPoll a) s
      = .next ((s.setAct a.val { s.act a.val with
          frames := (s.act a.val).frames ++
            [{ prio := 5, read := true, addr := s.rf (R.ACT_PA_MAP1 a.val) F.ACT_PA_MAP1_STAT_ADDR, data := 0 }] }).startFrame
              a.val)) ∧
  (∀ (s : State) (i : Initiator) (a : Fin 4) (v : Word), actPair i = true →
    s.flag (R.ACT_PA_XFER a.val) F.ACT_PA_XFER_BUSY = false →
      fget v F.ACT_PA_XFER_ADDR ≠ s.rf (R.ACT_PA_MAP0 a.val) F.ACT_PA_MAP0_HSEL_ADDR →
        fget v F.ACT_PA_XFER_ADDR ≠ s.rf (R.ACT_PA_MAP0 a.val) F.ACT_PA_MAP0_HSEL_ADDR + 1 →
          exec (.preampRawTransfer i a v) s
            = .next (((s.writeFields (R.ACT_PA_XFER a.val) v).raise (R.ACT_PA_XFER a.val) F.ACT_PA_XFER_BUSY).queueFrame a.val
                { prio := 4, read := fget v F.ACT_PA_XFER_RD = 1, addr := fget v F.ACT_PA_XFER_ADDR,
                  data := fget v F.ACT_PA_XFER_DATA })) ∧
  (∀ (s : State) (a : Fin 4), (s.act a.val).flt = false →
    exec (.preampFault a true) s
      = .next ((((s.setAct a.val { s.act a.val with flt := true }).raise (R.ACT_EVT a.val) F.ACT_EVT_PREAMP_FLT).refreshPermit
          a.val).carry (28 + a.val) 2 false)) ∧
  (∀ (s : State) (a : Fin 4), Completes (.preampFault a false) s fun t =>
    t.acts = s.acts.set a.val { s.act a.val with flt := false } ∧ SameRegs s t) ∧
  (∀ (s : State) (a : Fin 4) (id mask : Nat), (s.act a.val).enum = some (some id, some mask) → id ≠ 0 → id ≠ 255 →
    mask &&& (2 ^ s.heads a.val - 1) = 2 ^ s.heads a.val - 1 →
      exec (.preampEnumeration a) s
        = .next (((s.setAct a.val { s.act a.val with enum := none }).wr (R.ACT_PA_ENUM a.val)
            (word (enOk * 2 ^ 30 + mask * 256 + id))).refreshAct a.val)) ∧
  (∀ (s : State) (a : Fin 4) (mask : Nat), (s.act a.val).enum = some (some 0, some mask) →
    exec (.preampEnumeration a) s
      = .next ((((s.setAct a.val { s.act a.val with enum := none }).wr (R.ACT_PA_ENUM a.val)
          (word (enNone * 2 ^ 30 + mask * 256))).refreshAct a.val).carry (28 + a.val) 2 false)) ∧
  (∀ (s : State) (a : Fin 4), (s.act a.val).enum = none → exec (.preampEnumeration a) s = .next s)

/-- The spindle: start, stop and brake act in the modes that allow them and on the states that they name; the start goes
by catch, alignment and ramp, and its failures are shown and reported. -/
def Obligations.SpindleRuns : Prop :=
(∀ (s : State) (i : Initiator), isPair i = true → s.startBarred = false → s.milSt = miIdle →
    exec (.spindleStart i) s
      = .next ((s.wf R.MIL_STAT F.MIL_STAT_FAULT 0).toCatch.setMil
          { (s.wf R.MIL_STAT F.MIL_STAT_FAULT 0).toCatch.mil with retries := 0 }).enumAll) ∧
  (∀ (s : State) (i : Initiator), isPair i = true → s.mode ≠ mDormant → s.mode ≠ mHaven → s.spinning = true →
    exec (.spindleStop i) s = .next s.toCoast) ∧
  (∀ (s : State) (i : Initiator), isPair i = true → s.mode ≠ mDormant → s.mode ≠ mHaven →
    exec (.spindleStopBrake i) s = .next s.spinStopBrake) ∧
  (∀ (s : State) (i : Initiator), (s.mode = mDormant ∨ s.mode = mHaven) →
    ∀ c ∈ [Instr.spindleStop i, .spindleStopBrake i], exec c s = .next s) ∧
  (∀ (s : State) (volts amps : Phases), exec (.millstoneTick volts amps) s = .next (s.milTick volts amps)) ∧
  (∀ s : State, (s.milSt ≠ miCatch ∨ s.catchOver = false) → exec .catchWindowEnd s = .next s) ∧
  (∀ (s s1 : State), s.milSt = miCatch → s.catchOver = true → s.mil.bemf = true →
    s1 = (s.setSpeed (s.rpmOf s.mil.moved s.mil.ticks)).raise R.MIL_EVT F.MIL_EVT_CATCH_DONE →
    s1.catchAction true = 1 → s1.targetRpm ≠ 0 →
      exec .catchWindowEnd s
        = .next ((s1.wr R.MIL_CATCH_RES
            (word (2 ^ 31 + 2 ^ 24 + min 1023 (roundDiv (10 * s1.mil.rpmC.natAbs) s1.targetRpm).toNat))).seed miHfi s1.mil)) ∧
  (∀ s : State, s.milSt = miBrake → s.stayed 5000 = true →
    exec .brakeTimeout s = .next (((s.toFault 1).raise R.MIL_EVT F.MIL_EVT_REV_STUCK).carry 18 2 false)) ∧
  (∀ s : State, s.milSt = miAlign → s.mil.retryWait = false → s.stayed (s.rf R.MIL_RAMP F.MIL_RAMP_ALIGN_MS + 4) = true →
    exec .alignDone s
      = .next ((s.toDriven miHfi 0).setMil { (s.toDriven miHfi 0).mil with
          theta := if s.mil.peaks.2 < s.mil.peaks.1 then 0 else 32768, omega := 0 }).showAngle) ∧
  (∀ s : State, s.milSt = miHfi → s.calmFor (s.rf R.MIL_LR F.MIL_LR_LR_MS) = true →
    s.rf R.MIL_LR F.MIL_LR_LR_RETRY ≤ s.mil.retries →
      exec .lockedRotor s = .next (((s.raise R.MIL_EVT F.MIL_EVT_LOCKED).toFault 2).carry 18 2 false)) ∧
  (∀ s : State, (s.milSt ≠ miHfi ∨ s.calmFor (s.rf R.MIL_LR F.MIL_LR_LR_MS) = false) → exec .lockedRotor s = .next s) ∧
  (∀ s : State, s.milSt = miAlign → s.mil.retryWait = true → s.stayed (s.rf R.MIL_LR F.MIL_LR_LR_WAIT_MS) = true →
    exec .lockedRotorRetry s = .next (s.setMil { s.mil with retryWait := false, stay := 0 }).milShow) ∧
  (∀ s : State, s.onHoldup = false → s.milSt = miRun → s.lossDue = true → exec .rotorLoss s = .next s.rotorLoss) ∧
  (∀ s : State, s.lossDue = false → exec .rotorLoss s = .next s) ∧
  (∀ (s t : State) (a b c : Nat × Nat × Bool), s.milSt = miReacq → s.reacquired = true → s.mil.cross = [a, b, c] →
    t = s.setSpeed (s.rpmOf 65536 (3 * (a.1 - c.1))) →
      exec .rotorReacquired s
        = .next ((t.toDriven miRamp (t.speedQ t.mil.rpmC)).setMil { (t.toDriven miRamp (t.speedQ t.mil.rpmC)).mil with
            theta := crossAngle a.2.1 a.2.2,
            omega := if 3 * (a.1 - c.1) = 0 then 0 else ((65536 / (3 * (a.1 - c.1)) : Nat) : Int) }).showAngle) ∧
  (∀ s : State, s.milSt = miReacq → s.reacqLost = true →
    exec .reacquisitionFail s = .next (s.toCatch.raise R.MIL_EVT F.MIL_EVT_ACQ_FAIL)) ∧
  (∀ s : State, s.allParked = true → exec .flyingLimit s = .next s) ∧
  (∀ s : State, s.flyDue = false → exec .flyingLimit s = .next s) ∧
  (∀ s : State, s.flyDue = true → s.allParked = false → s.flag R.MIL_STAT F.MIL_STAT_FLY = false →
    exec .flyingLimit s
      = .next ((((s.raise R.MIL_STAT F.MIL_STAT_FLY).raise R.MIL_EVT F.MIL_EVT_FLY).milShow.refreshPermits).unloadAll ucSpeed))

/-- Inputs and rails come up in their order and the SoC is released with the last; a rail that faults takes the SoC down.
The stages, the bank and the temperature: trips are counted and the sixteenth in a millisecond latches the stage off;
the bank is charged, measured and judged; levels and clamps are shown and reported. A power loss puts the part on
hold-up and asks for Haven; the flush, the retract and the return of the input go on from there. -/
def Obligations.PowerIsWatched : Prop :=
(∀ s : State, Completes .auxInputUp s fun t =>
    t.flag R.BLS_STAT F.BLS_STAT_AUX_OK = true ∧ t.sys.auxUp = true ∧ OnlyRegs [R.BLS_STAT] s t) ∧
  (∀ (s : State) (mv : Nat), 10800 < mv → mv ≤ 13200 → Completes (.mainInputUp mv) s fun t =>
    t.flag R.BLS_STAT F.BLS_STAT_MAIN_OK = true ∧ t.bls.mainUp = true ∧ t.sys.mainMv = mv ∧ OnlyRegs [R.BLS_STAT] s t) ∧
  (∀ (s : State) (mv : Nat), 13200 < mv → Completes (.mainInputUp mv) s fun t =>
    t.flag R.BLS_STAT F.BLS_STAT_MAIN_OK = false ∧ OnlyRegs [R.BLS_STAT] s t) ∧
  (∀ (s : State) (r : Fin 14) (mv : Int), s.sys.auxUp = true → s.bls.mainUp = true → s.bls.rails = r.val → r.val < 5 →
    railWithin r.val mv 3 = true → Completes (.railInRegulation r mv) s fun t => t.bls.rails = r.val + 1 ∧ SameRegs s t) ∧
  (∀ (s : State) (mv : Int), s.sys.auxUp = true → s.bls.mainUp = true → s.bls.rails = 5 → railWithin 5 mv 3 = true →
    Completes (.railInRegulation 5 mv) s fun t =>
      t.bls.rails = 6 ∧ t.flag R.BLS_STAT F.BLS_STAT_RAILS_OK = true ∧ OnlyRegs [R.BLS_STAT] s t) ∧
  (∀ (s : State) (r : Fin 14) (mv : Int), railWithin r.val mv 3 = false → exec (.railInRegulation r mv) s = .next s) ∧
  (∀ (s : State) (b a : Fin 4), s.bls.rails = 6 → s.bls.released = false →
    exec (.socRelease b a false) s
      = .next ((s.setBls { s.bls with released := true, held := false }).powerOn b.val a.val false)) ∧
  (∀ (s : State) (b a : Fin 4), s.bls.released = true → exec (.socRelease b a false) s = .next s) ∧
  (∀ (s : State) (r : Fin 14) (mv : Int), r.val < 6 → r.val < s.bls.rails → railWithin r.val mv 6 = false →
    exec (.railFault r mv) s
      = .next (((s.setBls { s.bls with rails := r.val, released := false, held := true }).wf R.BLS_STAT
          F.BLS_STAT_RAILS_OK 0).beginRetract.socReset)) ∧
  (∀ (s : State) (r : Fin 14) (mv : Int), railWithin r.val mv 6 = true → exec (.railFault r mv) s = .next s) ∧
  (∀ (s : State) (k : Kenul), s.kenul = some k → s.flag R.BLS_STAT F.BLS_STAT_LINK = true → s.ready .ballast = true →
    Completes (.ballastReady true) s fun t =>
      t.ready .ballast = true ∧ t.flag R.BLS_STAT F.BLS_STAT_ARMED = true ∧ t.bls.paRails = k.present ∧
        OnlyRegs [R.BLS_STAT, R.SYS_READY, R.SYS_READY_CHG] s t) ∧
  (∀ (s : State) (k : Kenul), s.kenul = some k → s.flag R.BLS_STAT F.BLS_STAT_LINK = true → s.ready .ballast = false →
    Completes (.ballastReady true) s fun t => ∃ u : State, t = u.enumAll ∧ u.ready .ballast = true ∧
      u.flag R.BLS_STAT F.BLS_STAT_ARMED = true ∧ u.bls.paRails = k.present ∧
        OnlyRegs [R.BLS_STAT, R.SYS_READY, R.SYS_READY_CHG] s u) ∧
  (∀ s : State, s.flag R.BLS_STAT F.BLS_STAT_LINK = false →
    exec (.linkHeartbeat true) s = .next ((s.raise R.BLS_STAT F.BLS_STAT_LINK).ballastCheck)) ∧
  (∀ s : State, s.flag R.BLS_STAT F.BLS_STAT_LINK = true → exec (.linkHeartbeat true) s = .next s) ∧
  (∀ s : State, exec (.linkHeartbeat false) s = .next (s.countUp R.BLS_LINK_CNT F.BLS_LINK_CNT_CRC_ERR 1)) ∧
  (∀ s : State, s.flag R.BLS_STAT F.BLS_STAT_LINK = true →
    exec .linkWatchdogExpiry s
      = .next ((((s.wf R.BLS_STAT F.BLS_STAT_LINK 0).setReady .ballast false).beginRetract).carry 14 3 false)) ∧
(∀ (s : State) (g : Fin 9) (ma : Nat), (s.stageRuns g.val = false ∨ ma < tripMa g.val) →
    exec (.stageTrip g ma) s = .next s) ∧
  (∀ (s : State) (g : Fin 9) (ma : Nat), s.stageRuns g.val = true → s.bls.trips = [] → tripMa g.val ≤ ma →
    Completes (.stageTrip g ma) s fun t =>
      t.bls.trips = [(g.val, [s.now])] ∧
        t.rf R.BLS_OCP F.BLS_OCP_TRIPS
          = min (s.rf R.BLS_OCP F.BLS_OCP_TRIPS + 1) (2 ^ (F.BLS_OCP_TRIPS.hi + 1 - F.BLS_OCP_TRIPS.lo) - 1) ∧
        OnlyRegs [R.BLS_OCP] s t) ∧
  (∀ (s : State) (i : Initiator) (v : Word), isPair i = true →
    exec (.stageUnlatch i v) s
      = .next ((s.writeFields R.BLS_OCP v).setBls { (s.writeFields R.BLS_OCP v).bls with
          trips := (s.writeFields R.BLS_OCP v).bls.trips.filter fun q => !bitAt v.toNat q.1 })) ∧
  (∀ s : State, Completes .regenClamp s fun t =>
    t.flag R.BLS_EVT F.BLS_EVT_REGEN_CLAMP = true ∧ OnlyRegs [R.BLS_EVT] s t) ∧
  (∀ s : State, s.bls.charging = true → s.bankMv < 5000 → s.bls.chargeAt + 200000000 ≤ s.now →
    exec .chargeTimeout s
      = .next ((((s.setBls { s.bls with charging := false, chargeFail := true }).emit (.charger 0 0)).wf R.BLS_STAT
          F.BLS_STAT_BANK_OK 0).carry 16 2 false)) ∧
  (∀ s : State, 5000 ≤ s.bankMv → exec .chargeTimeout s = .next s) ∧
  (∀ (s : State) (i : Initiator) (v : Word), isPair i = true → fget v F.BLS_MEAS_CTL_GO = 1 →
    (s.writeFields R.BLS_MEAS_CTL (fset v F.BLS_MEAS_CTL_GO 0)).onHoldup = false →
      exec (.bankMeasureGo i v) s
        = .next ((s.writeFields R.BLS_MEAS_CTL (fset v F.BLS_MEAS_CTL_GO 0)).raise R.BLS_MEAS_CTL F.BLS_MEAS_CTL_GO).measureStart) ∧
  (∀ s : State, s.measureDue = true → s.onHoldup = false → s.flag R.BLS_MEAS_CTL F.BLS_MEAS_CTL_BUSY = false →
    Completes .measureTimerExpiry s fun t =>
      t.flag R.BLS_MEAS_CTL F.BLS_MEAS_CTL_BUSY = true ∧ t.bls.charging = false ∧ OnlyRegs [R.BLS_MEAS_CTL] s t) ∧
  (∀ (s : State) (st fall us : Nat), s.flag R.BLS_MEAS_CTL F.BLS_MEAS_CTL_BUSY = true →
    exec (.bankMeasureDone st fall us) s = .next (s.measureEnd st fall us)) ∧
  (∀ (s : State) (mv : Nat), mv ≤ 0xFFFF →
    Completes (.vaultAllowanceUpdate mv) s fun t =>
      t.rd R.BLS_BANK_V = word mv ∧ OnlyRegs [R.BLS_BANK_V, R.BLS_VAULT] s t) ∧
  (∀ (s : State) (d : Int), exec (.thermalLevelChange d) s = .next (s.setTemp d)) ∧
(∀ (s : State) (mv : Nat) (aux : Bool), s.onHoldup = false → ((s.toHoldup mv aux).requestHaven hvPowerLoss).bankOk = true →
    ((s.toHoldup mv aux).requestHaven hvPowerLoss).vretMv < mv →
      exec (.powerLoss mv aux) s = .next ((s.toHoldup mv aux).requestHaven hvPowerLoss)) ∧
  (∀ (s : State) (mv : Nat) (aux : Bool), s.onHoldup = false → ((s.toHoldup mv aux).requestHaven hvPowerLoss).bankOk = false →
    exec (.powerLoss mv aux) s
      = .next ((s.toHoldup mv aux).requestHaven hvPowerLoss).beginRetract.advanceHaven) ∧
  (∀ (s : State) (mv : Nat) (aux : Bool), s.onHoldup = true → exec (.powerLoss mv aux) s = .next s) ∧
  (∀ s : State, s.flushOver = true → exec .vaultFlushDone s = .next s.endFlush.advanceHaven) ∧
  (∀ s : State, s.flushOver = false → exec .vaultFlushDone s = .next s) ∧
  (∀ s : State, s.onHoldup = true → ((s.wr R.BLS_BANK_V (word s.vretMv)).abandonFlush).allParked = true →
    exec .bankAtVret s = .next ((s.wr R.BLS_BANK_V (word s.vretMv)).abandonFlush).advanceHaven) ∧
  (∀ s : State, s.onHoldup = true → ((s.wr R.BLS_BANK_V (word s.vretMv)).abandonFlush).allParked = false →
    exec .bankAtVret s = .next ((s.wr R.BLS_BANK_V (word s.vretMv)).abandonFlush).beginRetract.advanceHaven) ∧
  (∀ (s : State) (mv : Nat), s.onHoldup = false → 10800 ≤ mv → mv ≤ 13200 →
    Completes (.mainReturn mv) s fun t =>
      t.flag R.BLS_STAT F.BLS_STAT_MAIN_OK = true ∧ t.sys.mainMv = mv ∧ OnlyRegs [R.BLS_STAT] s t) ∧
  (∀ (s : State) (mv : Nat), mv < 10800 → exec (.mainReturn mv) s = .next s) ∧
  (∀ s : State, s.retractDue = true → exec .emergencyRetract s = .next s.beginRetract) ∧
  (∀ s : State, s.retractDue = false → exec .emergencyRetract s = .next s) ∧
  (∀ s : State, exec .retractComplete s = .next s.endRetract.advanceHaven)

/-- The stack comes up, is read and written, and its housekeeping does what it says; what comes before it is ready waits.
Repairs and the side door: a repair of a logged row begins when it may, is refused with its reason otherwise, and its
end shows its result; staged words are written and read through the side door while it is idle. -/
def Obligations.BedrockServes : Prop :=
(∀ s : State, s.ready .bedrock = false → spGetD 0 s.tgt.line 8 = 0 → s.bed.held = [] →
    Completes .hbmTrainingDone s fun t => t.ready .bedrock = true ∧ OnlyRegs [R.SYS_READY, R.SYS_READY_CHG, R.SYS_KENUL_STATUS] s t) ∧
  (∀ (s : State) (pc : Fin 16), s.ready .bedrock = false → exec (.hbmTrainingFail pc) s = .next (s.driveLine 8 3)) ∧
  (∀ s : State, s.ready .bedrock = false → s.ready .kenul = false →
    exec .bedrockWaitTimeout s = .next { s with sys := { s.sys with bootGaveUp := true } }.sidebandUp) ∧
  (∀ (s : State) (c : Fin 6) (o : BitVec 34) (u : BitVec 576) (x : Fin 4) (g : Option (Fin 32)), s.ready .bedrock = false →
    Completes (.hbmRead c o u x g) s fun t =>
      t.bed.held = s.bed.held ++ [.read c.val o.toNat u.toNat x (g.map Fin.val)] ∧ SameRegs s t) ∧
  (∀ (s : State) (c : Fin 6) (o : BitVec 34), s.ready .bedrock = true → s.bed.ppr = none →
    s.shlLine (o.toNat / 64 / 2) = none →
    exec (.hbmRead c o 0 0 none) s
      = .next (match (s.readGran c.val (o.toNat / 64)).1 with
        | some d => (s.readGran c.val (o.toNat / 64)).2.emit (.signal 0x07 [1, d])
        | none => (s.readGran c.val (o.toNat / 64)).2.emit (.signal 0x07 [0]))) ∧
  (∀ (s : State) (c : Fin 6) (o : BitVec 34) (n v : Nat) (g : Option (Fin 32)), s.ready .bedrock = false →
    Completes (.hbmWrite c o n v g) s fun t =>
      t.bed.held = s.bed.held ++ [.write c.val o.toNat n v (g.map Fin.val)] ∧ SameRegs s t) ∧
  (∀ (s : State) (c : Fin 6) (o : BitVec 34) (n v : Nat), s.ready .bedrock = true → s.bed.ppr = none →
    exec (.hbmWrite c o n v none) s
      = .next ((s.hbmWrite c.val o.toNat n v).2.emit (.signal 0x07 [b2n (s.hbmWrite c.val o.toNat n v).1]))) ∧
  (∀ (s : State) (b : Fin 262144), s.idleBarred (65536 * b.val) 65536 = false → s.flag R.BED_TUM_CTL F.BED_TUM_CTL_CLAIM = true →
    s.bed.claims.contains b.val = false →
      Completes (.idleClaim b) s fun t => t.bed.claims = b.val :: s.bed.claims ∧ OnlyRegs [R.BED_CLAIM] s t) ∧
  (∀ (s : State) (b : Fin 262144), s.idleBarred (65536 * b.val) 65536 = true → exec (.idleClaim b) s = .next s) ∧
  (∀ (s : State) (t : Int), Completes (.hbmTempRead t) s fun u =>
    u.rf R.BED_STAT F.BED_STAT_REF = refRate (s.rf R.BED_STAT F.BED_STAT_REF) t ∧ OnlyRegs [R.BED_STAT] s u) ∧
  (∀ s : State, Completes .hbmRefresh s fun t => t.bed.refreshes = s.bed.refreshes + 1 ∧ SameRegs s t) ∧
  (∀ s : State, Completes .arbitrationWindow s fun t => t.bed.served = [] ∧ SameRegs s t) ∧
(∀ (s : State) (i : Initiator) (v : Word), isPair i = true → fget v F.BED_PPR_CMD_OP = 1 →
    s.flag R.BED_PPR_STAT F.BED_PPR_STAT_BUSY = false →
      s.flag (R.BED_ROW_LOG (fget v F.BED_PPR_CMD_ENTRY)) F.BED_ROW_LOG_VALID = true →
        Completes (.pprSoft i v true) s fun t =>
          t.bed.ppr = some { hard := false, entry := fget v F.BED_PPR_CMD_ENTRY } ∧
            t.flag R.BED_PPR_STAT F.BED_PPR_STAT_BUSY = true ∧ OnlyRegs [R.BED_PPR_STAT] s t) ∧
  (∀ (s : State) (i : Initiator) (v : Word), isPair i = true → fget v F.BED_PPR_CMD_OP = 2 → s.mode = mBedding →
    s.flag R.BED_PPR_STAT F.BED_PPR_STAT_BUSY = false →
      s.flag (R.BED_ROW_LOG (fget v F.BED_PPR_CMD_ENTRY)) F.BED_ROW_LOG_VALID = true →
        Completes (.pprHard i v true) s fun t =>
          t.bed.ppr = some { hard := true, entry := fget v F.BED_PPR_CMD_ENTRY } ∧
            t.flag R.BED_PPR_STAT F.BED_PPR_STAT_BUSY = true ∧ OnlyRegs [R.BED_PPR_STAT] s t) ∧
  (∀ (s : State) (i : Initiator) (v : Word) (sp : Bool), isPair i = true → fget v F.BED_PPR_CMD_OP = 2 → s.mode = mService →
    s.flag R.BED_PPR_STAT F.BED_PPR_STAT_BUSY = false →
      s.flag (R.BED_ROW_LOG (fget v F.BED_PPR_CMD_ENTRY)) F.BED_ROW_LOG_VALID = true →
        exec (.pprHard i v sp) s = .next (s.wf R.BED_PPR_STAT F.BED_PPR_STAT_RESULT 2)) ∧
  (∀ (s : State) (e : Nat), s.bed.ppr = some { hard := false, entry := e } → s.bed.held = [] →
    Completes (.pprDone false) s fun t =>
      t.bed.ppr = none ∧ t.flag R.BED_PPR_STAT F.BED_PPR_STAT_BUSY = false ∧
        t.rf R.BED_PPR_STAT F.BED_PPR_STAT_RESULT = 4 ∧ OnlyRegs [R.BED_PPR_STAT] s t) ∧
  (∀ (s : State) (i : Initiator) (v : Word), isPair i = true → s.flag R.BED_BDP_STAT F.BED_BDP_STAT_BUSY = false →
    fget v F.BED_BDP_GO_OP = 1 → 1 ≤ fget v F.BED_BDP_GO_COUNT → fget v F.BED_BDP_GO_COUNT ≤ 16 →
      Completes (.bdpRead i v) s fun t =>
        t.bed.bdp = some { write := false, count := fget v F.BED_BDP_GO_COUNT } ∧
          t.flag R.BED_BDP_STAT F.BED_BDP_STAT_BUSY = true ∧ OnlyRegs [R.BED_BDP_STAT] s t) ∧
  (∀ (s : State) (i : Initiator) (v : Word), isPair i = true → s.flag R.BED_BDP_STAT F.BED_BDP_STAT_BUSY = false →
    fget v F.BED_BDP_GO_OP = 2 → 1 ≤ fget v F.BED_BDP_GO_COUNT → fget v F.BED_BDP_GO_COUNT ≤ 16 →
      s.bed.bdpStage.length = 16 * fget v F.BED_BDP_GO_COUNT →
        Completes (.bdpWrite i v) s fun t =>
          t.bed.bdp = some { write := true, count := fget v F.BED_BDP_GO_COUNT } ∧
            t.flag R.BED_BDP_STAT F.BED_BDP_STAT_BUSY = true ∧ OnlyRegs [R.BED_BDP_STAT] s t) ∧
  (∀ (s : State) (i : Initiator) (v : Word), isPair i = true → s.flag R.BED_BDP_STAT F.BED_BDP_STAT_BUSY = false →
    s.bed.bdpStage.length < 256 →
      Completes (.bdpStage i v) s fun t => t.bed.bdpStage = s.bed.bdpStage ++ [v] ∧ OnlyRegs [R.BED_BDP_STAT] s t) ∧
  (∀ (s : State) (i : Initiator) (w : Word) (l : List Word), isPair i = true → s.bed.bdpBuf = w :: l →
    Completes (.bdpDataRead i) s fun t => t.resp = w ∧ t.bed.bdpBuf = l ∧ OnlyRegs [R.BED_BDP_STAT] s t) ∧
  (∀ (s : State) (n : Nat), s.bed.bdp = some { write := false, count := n } → s.flag R.BED_BDP_CTL F.BED_BDP_CTL_INC = false →
    s.hbmWaits s.bdpAddr (64 * n) = false → exec .bdpDone s
      = .next ((({ ({ s with bed := { s.bed with bdp := none } }.bdpReadGrans (s.bdpAddr / 64) 0 n []).2 with
          bed := { ({ s with bed := { s.bed with bdp := none } }.bdpReadGrans (s.bdpAddr / 64) 0 n []).2.bed with
            bdpBuf := ({ s with bed := { s.bed with bdp := none } }.bdpReadGrans (s.bdpAddr / 64) 0 n []).1 } }.bdpWords
              ({ s with bed := { s.bed with bdp := none } }.bdpReadGrans (s.bdpAddr / 64) 0 n []).1.length).wf R.BED_BDP_STAT
                F.BED_BDP_STAT_BUSY 0).raise R.BED_BDP_STAT F.BED_BDP_STAT_DONE)) ∧
  (∀ (s : State) (w : Bool) (n : Nat), s.bed.bdp = some { write := w, count := n } → s.hbmWaits s.bdpAddr (64 * n) = true →
    s.bed.held.contains .bdp = false → exec .bdpDone s = .next (s.holdHbm .bdp))

/-- The scrubbers: a lap of the stack starts, reads the granules in order and ends with its time; a step of an array's
scrub corrects one bit and reports two by the array's own source. Shale: it is enabled once armed, drains its dirty
lines when it is disabled, is invalidated and filled by commands that end, and keeps at least four ways unlocked. -/
def Obligations.ScrubbersAndShaleRun : Prop :=
(∀ s : State, s.flag R.BED_TUM_CTL F.BED_TUM_CTL_EN = true → s.bed.lapOn = false →
    s.bed.lapStart + minuteTicks * s.rf R.BED_TUM_CTL F.BED_TUM_CTL_LAP_MIN ≤ s.now → Completes .scrubLapStart s fun t => t.bed.lapOn = true ∧ t.bed.scrub = 0 ∧ t.bed.lapStart = s.now ∧ SameRegs s t) ∧
  (∀ (s : State) (u : BitVec 576) (nw : Bool), s.bed.lapOn = true → s.flag R.BED_TUM_CTL F.BED_TUM_CTL_EN = true →
    s.ready .bedrock = true → nextGran s.bed.gran s.bed.scrub = none →
      Completes (.scrubRead u nw) s fun t =>
        t.bed.lapOn = false ∧ t.rd R.BED_TUM_LAP = word ((s.now - s.bed.lapStart) / 100000000) ∧
          OnlyRegs [R.BED_TUM_LAP] s t) ∧
  (∀ (s : State) (r : Fin 10) (b : Fin 3) (nw : Bool) (k : SramSpot), s.flag R.BED_SS_CTL F.BED_SS_CTL_EN = false →
    exec (.sramScrubStep r b nw k) s = .next s) ∧
  (∀ (s : State) (r : Fin 10) (nw : Bool) (k : SramSpot), s.noInjection → s.flag R.BED_SS_CTL F.BED_SS_CTL_EN = true →
    bitAt (s.rf R.BED_SS_CTL F.BED_SS_CTL_REGIONS) r.val = true → s.bed.ssCount < 524287 →
      Completes (.sramScrubStep r 0 nw k) s fun t => t.bed.ssCount = s.bed.ssCount + 1 ∧ SameRegs s t) ∧
(∀ (s : State) (i : Initiator) (v : Word), isPair i = true → fget v F.SHL_CTL_EN = 1 → s.flag R.SHL_CTL F.SHL_CTL_EN = false →
    s.flag R.SHL_STATUS F.SHL_STATUS_ARMED = true → s.shlDraining = false →
      Completes (.shaleEnable i v) s fun t =>
        t.flag R.SHL_CTL F.SHL_CTL_EN = true ∧ t.flag R.SHL_STATUS F.SHL_STATUS_ENABLED = true ∧
          t.flag R.SHL_STATUS F.SHL_STATUS_ARMED = false ∧ OnlyRegs [R.SHL_CTL, R.SHL_STATUS] s t) ∧
  (∀ (s : State) (i : Initiator) (v : Word), isPair i = true → fget v F.SHL_CTL_EN = 0 → s.flag R.SHL_CTL F.SHL_CTL_EN = true →
    s.bed.lines = [] → s.bed.shlOp = none →
      Completes (.shaleDisable i v) s fun t =>
        t.flag R.SHL_CTL F.SHL_CTL_EN = false ∧ t.flag R.SHL_STATUS F.SHL_STATUS_ENABLED = false ∧
          OnlyRegs [R.SHL_CTL, R.SHL_STATUS] s t) ∧
  (∀ s : State, s.shlDraining = true →
    exec .shaleDrainDone s
      = .next ((s.dirtyLines.foldl State.writeBack s).wf R.SHL_STATUS F.SHL_STATUS_DRAINING 0)) ∧
  (∀ (s : State) (i : Initiator) (v : Word), isPair i = true → s.flag R.SHL_INV_STATUS F.SHL_INV_STATUS_BUSY = false →
    s.flag R.SHL_CTL F.SHL_CTL_EN = false → s.shlDraining = false → fget v F.SHL_OP_OP = 1 →
      Completes (.shaleInvRange i v) s fun t =>
        t.bed.shlOp = some (.invRange s.shlSpan.1 s.shlSpan.2) ∧ t.flag R.SHL_INV_STATUS F.SHL_INV_STATUS_BUSY = true ∧
          t.rf R.SHL_INV_STATUS F.SHL_INV_STATUS_LAST = 1 ∧ OnlyRegs [R.SHL_INV_STATUS] s t) ∧
  (∀ (s : State) (i : Initiator) (v : Word), isPair i = true → s.flag R.SHL_INV_STATUS F.SHL_INV_STATUS_BUSY = false →
    s.flag R.SHL_CTL F.SHL_CTL_EN = false → s.shlDraining = false → fget v F.SHL_OP_OP = 2 →
      Completes (.shaleInvAll i v) s fun t =>
        t.bed.shlOp = some .invAll ∧ t.flag R.SHL_INV_STATUS F.SHL_INV_STATUS_BUSY = true ∧
          t.rf R.SHL_INV_STATUS F.SHL_INV_STATUS_LAST = 2 ∧ OnlyRegs [R.SHL_INV_STATUS] s t) ∧
  (∀ (s : State) (i : Initiator) (v : Word), isPair i = true → s.flag R.SHL_INV_STATUS F.SHL_INV_STATUS_BUSY = false →
    s.flag R.SHL_CTL F.SHL_CTL_EN = true → s.shlDraining = false → fget v F.SHL_OP_OP = 3 →
      s.wayLocked (fget v F.SHL_OP_WAY) = true → s.shlSpan.2 ≤ 2048 → s.spanInRing s.shlSpan.1 s.shlSpan.2 = false →
        Completes (.shaleFill i v) s fun t =>
          t.bed.shlOp = some (.fill (fget v F.SHL_OP_WAY) s.shlSpan.1 s.shlSpan.2) ∧
            t.flag R.SHL_INV_STATUS F.SHL_INV_STATUS_BUSY = true ∧ OnlyRegs [R.SHL_INV_STATUS] s t) ∧
  (∀ s : State, s.bed.shlOp = some .invAll →
    exec .shaleOpDone s
      = .next ((((({ s with bed := { s.bed with shlOp := none } }.invalidate fun _ => true).raise R.SHL_STATUS
          F.SHL_STATUS_ARMED).shaleArmed).wf R.SHL_INV_STATUS F.SHL_INV_STATUS_BUSY 0).raise R.SHL_INV_STATUS
            F.SHL_INV_STATUS_DONE)) ∧
  (∀ (s : State) (i : Initiator) (v : Word), isPair i = true →
    4 ≤ ((List.range 16).filter fun w => !bitAt v.toNat w).length →
      exec (.shaleLock i v) s = .next (s.wf R.SHL_LOCK F.SHL_LOCK_WAYS v.toNat)) ∧
  (∀ (s : State) (i : Initiator) (v : Word), ((List.range 16).filter fun w => !bitAt v.toNat w).length < 4 →
    exec (.shaleLock i v) s = .next s)

/-- Work items are queued in order, dispatched from an idle sequencer, and reach only a sequencer of their kind. Each word
a sequencer issues has its effect: arithmetic, immediates, branches, calls, the scratchpad and the Towpath. A word
that does not issue, because its sequencer is not ready, held, not running, or holds another word in its patch memory,
leaves the machine as it is. -/
def Obligations.MacrocodeRuns : Prop :=
(∀ (s : State) (i : Initiator) (n : Fin 12) (k : Fin 65536), s.strOpen i n.val = true →
    s.strReady n.val = true → s.wqFree n.val ≠ 0 → n.val < 8 →
      exec (.workRead i n k) s = .next (s.wqAdd n.val wkRead k.val) ∧
        exec (.workLadder i n k) s = .next (s.wqAdd n.val wkLadder k.val) ∧
          exec (.workSurvey i n k) s = .next (s.wqAdd n.val wkSurvey k.val) ∧
            exec (.workWriteRun i n k) s = .next s ∧ exec (.workFormat i n k) s = .next s) ∧
  (∀ (s : State) (i : Initiator) (n : Fin 12) (k : Fin 65536), s.strOpen i n.val = true →
    s.strReady n.val = true → s.wqFree n.val ≠ 0 → 8 ≤ n.val →
      exec (.workWriteRun i n k) s = .next (s.wqAdd n.val wkWrite k.val) ∧
        exec (.workFormat i n k) s = .next (s.wqAdd n.val wkFormat k.val)) ∧
  (∀ (s : State) (n : Fin 12), s.strReady n.val = true → s.strSt n.val = ssIdle → (s.seq n.val).wq ≠ [] →
    exec (.workDispatch n) s
      = .next (((s.setStrSt n.val ssRun).strGo n.val (Config.strEntry 0 % 0x10000)).strBegin n.val)) ∧
(∀ (s : State) (n : Fin 12), s.strIssues n.val 0 = true → exec (.nop n) s = .next (s.strNext n.val)) ∧
  (∀ (s : State) (n : Fin 12) (gd ga gb : Fin 32) (fn : Fin 16),
    s.strIssues n.val (vOp 1 + vD gd.val + vA ga.val + vB gb.val + fn.val) = true →
      exec (.alu n gd ga gb fn) s
        = .next (((s.free 32).2.setG n.val gd.val
            (aluResult fn.val (s.g n.val ga.val) (s.g n.val gb.val) (word (s.free 32).1))).strNext n.val)) ∧
  (∀ (s : State) (n : Fin 12) (gd ga : Fin 32) (imm : BitVec 17),
    s.strIssues n.val (vOp 2 + vD gd.val + vA ga.val + imm.toNat) = true →
      exec (.addi n gd ga imm) s
        = .next ((s.setG n.val gd.val (word (s.strAddr n.val ga.val imm))).strNext n.val)) ∧
  (∀ (s : State) (n : Fin 12) (gd : Fin 32) (imm : BitVec 16), s.strIssues n.val (vOp 3 + vD gd.val + imm.toNat) = true →
    exec (.lui n gd imm) s = .next ((s.setG n.val gd.val (word (imm.toNat * 2 ^ 16))).strNext n.val)) ∧
  (∀ (s : State) (n : Fin 12) (cond : Fin 8) (ga : Fin 32) (target : BitVec 17),
    s.strIssues n.val (vOp 4 + cond.val * 2 ^ 24 + ga.val * 2 ^ 19 + target.toNat) = true →
      exec (.branch n cond ga target) s
        = .next (if s.brTaken n.val cond.val (s.g n.val ga.val) = true
            then { s with fresh := s.fresh + 1 }.strGo n.val target.toNat
            else { s with fresh := s.fresh + 1 }.strNext n.val)) ∧
  (∀ (s : State) (n : Fin 12) (target : BitVec 17), s.strIssues n.val (vOp 5 + target.toNat) = true →
    (s.seq n.val).stack.length < 8 →
      exec (.call n target) s
        = .next ((s.setSeq n.val { s.seq n.val with stack := (s.strPc n.val + 1) :: (s.seq n.val).stack }).strGo n.val
            target.toNat)) ∧
  (∀ (s : State) (n : Fin 12) (target : BitVec 17), s.strIssues n.val (vOp 5 + target.toNat) = true →
    8 ≤ (s.seq n.val).stack.length → exec (.call n target) s = .next (s.strFault n.val scIllegal)) ∧
  (∀ (s : State) (n : Fin 12) (a : Nat) (rest : List Nat), s.strIssues n.val (vOp 6) = true →
    (s.seq n.val).stack = a :: rest →
      exec (.returnOp n) s = .next ((s.setSeq n.val { s.seq n.val with stack := rest }).strGo n.val a)) ∧
  (∀ (s : State) (n : Fin 12), s.strIssues n.val (vOp 6) = true → (s.seq n.val).stack = [] →
    exec (.returnOp n) s = .next (s.strFault n.val scIllegal)) ∧
  (∀ (s : State) (n : Fin 12) (gd ga : Fin 32) (imm : BitVec 17),
    s.strIssues n.val (vOp 9 + vD gd.val + vA ga.val + imm.toNat) = true →
      exec (.scratchLoad n gd ga imm) s
        = .next ((s.setG n.val gd.val (s.scratch n.val (s.strAddr n.val ga.val imm / 4))).strNext n.val)) ∧
  (∀ (s : State) (n : Fin 12) (gs ga : Fin 32) (imm : BitVec 17),
    s.strIssues n.val (vOp 10 + vD gs.val + vA ga.val + imm.toNat) = true →
      exec (.scratchStore n gs ga imm) s
        = .next ((s.setSeq n.val
            { s.seq n.val with
              scratch := spSet 0 (s.seq n.val).scratch (s.strAddr n.val ga.val imm / 4 % 1024) (s.g n.val gs.val) }).strNext
                n.val)) ∧
  (∀ (s : State) (n : Fin 12) (gd ga : Fin 32) (imm : BitVec 17),
    s.strIssues n.val (vOp 7 + vD gd.val + vA ga.val + imm.toNat) = true →
      exec (.towpathRead n gd ga imm) s
        = .next (((s.towRead (.str n) .machine 32 (s.strAddr n.val ga.val imm)).setG n.val gd.val
            (s.towRead (.str n) .machine 32 (s.strAddr n.val ga.val imm)).resp).strNext n.val)) ∧
  (∀ (s : State) (n : Fin 12) (gs ga : Fin 32) (imm : BitVec 17),
    s.strIssues n.val (vOp 8 + vD gs.val + vA ga.val + imm.toNat) = true →
      exec (.towpathWrite n gs ga imm) s
        = .next ((s.strNext n.val).towWrite (.str n) .machine 32 (s.strAddr n.val ga.val imm) (s.g n.val gs.val))) ∧
  (∀ (s : State) (n : Fin 12),
    (s.strIssues n.val 0 = false → exec (.nop n) s = .next s) ∧
    (∀ (gd ga gb : Fin 32) (fn : Fin 16), s.strIssues n.val (vOp 1 + vD gd.val + vA ga.val + vB gb.val + fn.val) = false →
      exec (.alu n gd ga gb fn) s = .next s) ∧
    (∀ id : BitVec 16, s.strIssues n.val (vOp 13 + id.toNat) = false → exec (.routine n id) s = .next s) ∧
    (s.strIssues n.val (vOp 15) = false → exec (.returnFromEvent n) s = .next s))

/-- Waits, routines, commits, nano-code and the return from an event have their effects. -/
def Obligations.RoutinesWaitAndCommit : Prop :=
(∀ (s : State) (n : Fin 12) (event : Fin 32) (limit : BitVec 22), s.strIssues n.val (vOp 12 + vD event.val + limit.toNat) = true →
    s.strSt n.val ≠ ssWait →
      exec (.wait n event limit true) s
        = .next ((s.setSeq n.val { s.seq n.val with tmo := false }).strNext n.val)) ∧
  (∀ (s : State) (n : Fin 12) (event : Fin 32) (limit : BitVec 22), s.strSt n.val = ssWait → s.strReady n.val = true →
    (s.seq n.val).wait = some (event.val, limit.toNat) →
      exec (.wait n event limit true) s = .next ((s.strResume n.val).strNext n.val)) ∧
  (∀ (s : State) (n : Fin 12) (e limit : Nat), (s.seq n.val).wait = some (e, limit) → s.strSt n.val = ssWait →
    s.strReady n.val = true → limit ≠ 0 → limit ≤ 10 * (s.now - (s.seq n.val).waitAt) →
      exec (.waitLimitExpiry n) s
        = .next (((s.strResume n.val).setSeq n.val { (s.strResume n.val).seq n.val with tmo := true }).strNext n.val)) ∧
  (∀ (s : State) (n : Fin 12) (id : BitVec 16), s.strIssues n.val (vOp 13 + id.toNat) = true →
    exec (.routine n id) s
      = .next (((s.setSeq n.val
          { s.seq n.val with routine := true, saved := (s.seq n.val).g.filter fun q => 16 ≤ q.1 }).wf (R.STR_RP n.val)
            F.STR_RP_ADDR (s.strPc n.val)).strNext n.val)) ∧
  (∀ (s : State) (n : Fin 12) (naddr : Fin 512) (ga gb : Fin 32) (cnt : BitVec 8) (rom : BitVec 128) (fr : List (BitVec 512))
    (u : Bool), s.strIssues n.val (vOp 11 + naddr.val * 2 ^ 18 + ga.val * 2 ^ 13 + gb.val * 2 ^ 8 + cnt.toNat) = true →
      cnt ≠ 0 → (s.nanoRun n.val ga.val gb.val (nanoOf (s.nanoWord n.val naddr.val rom.toNat)) u fr (cnt.toNat + 1)).okay = true →
        exec (.nano n naddr ga gb cnt rom fr u) s
          = .next ((s.nanoRun n.val ga.val gb.val (nanoOf (s.nanoWord n.val naddr.val rom.toNat)) u fr
              (cnt.toNat + 1)).st.strNext n.val)) ∧
  (∀ (s : State) (n : Fin 12) (ga gb : Fin 32), s.strIssues n.val (vOp 14 + 3 * 2 ^ 24 + ga.val * 2 ^ 19 + gb.val * 2 ^ 14) = true →
    n.val < 8 →
      exec (.commitMark n ga gb) s
        = .next ((s.setSeq n.val { s.seq n.val with routine := false }).strNext n.val)) ∧
  (∀ (s : State) (n : Fin 12) (ga gb : Fin 32), s.strIssues n.val (vOp 14 + 1 * 2 ^ 24 + ga.val * 2 ^ 19 + gb.val * 2 ^ 14) = true →
    8 ≤ n.val → (s.wc (n.val - 8)).abandon = true → ∀ retry,
      exec (.commitContext n ga gb retry) s = .next (s.strEvent n.val scGate)) ∧
  (∀ (s : State) (n : Fin 12) (ga gb : Fin 32) (v : Word),
    s.strIssues n.val (vOp 14 + 1 * 2 ^ 24 + ga.val * 2 ^ 19 + gb.val * 2 ^ 14) = true → n.val < 8 →
      (s.ctx ((s.g n.val ga.val).toNat % 65536)).state ≠ cFree →
        exec (.commitContext n ga gb (some v)) s
          = .next (((s.setCtx ((s.g n.val ga.val).toNat % 65536)
              { s.ctx ((s.g n.val ga.val).toNat % 65536) with retry := v.toNat }).setSeq n.val
                { s.seq n.val with routine := false }).strNext n.val)) ∧
  (∀ (s : State) (n : Fin 12) (ga gb : Fin 32) (x : Nat × Nat),
    s.strIssues n.val (vOp 14 + 2 * 2 ^ 24 + ga.val * 2 ^ 19 + gb.val * 2 ^ 14) = true → n.val < 8 →
      (s.seq n.val).handler.isSome = true → s.wqHead n.val = some x → x.1 ≠ wkWrite → x.1 ≠ wkFormat →
        ∀ t, t = (s.ladderDrop n.val).dropItem n.val → (t.seq n.val).wq = [] → t.bls.flushing = false →
          exec (.commitDone n ga gb) s
            = .next ((t.setSeq n.val { t.seq n.val with routine := false }).strNext n.val)) ∧
  (∀ (s : State) (n : Fin 12) (ga gb : Fin 32), s.strIssues n.val (vOp 14 + ga.val * 2 ^ 19 + gb.val * 2 ^ 14) = true →
    n.val < 8 →
      exec (.commitTowpath n ga gb) s
        = .next (((s.setSeq n.val { s.seq n.val with routine := false }).strNext n.val).towWrite (.str n) .machine 32
            (s.g n.val ga.val).toNat (s.g n.val gb.val))) ∧
  (∀ (s : State) (n : Fin 12), s.strIssues n.val (vOp 15) = true → (s.seq n.val).events = [] →
    exec (.returnFromEvent n) s
      = .next ((((s.setSeq n.val { s.seq n.val with handler := none, keyHold := none, events := [] }).setStrSt n.val
          ssRun).strGo n.val
            (s.strRp n.val)).strBegin n.val))

/-- Faults, gates, hand-overs, aborts, restarts and patch loads of a sequencer. -/
def Obligations.SequencersStopAndRestart : Prop :=
(∀ (s : State) (n : Fin 12), s.strReady n.val = true → (s.seq n.val).handler = none →
    exec (.sequencerFault n true) s = .next (s.strAbandon n.val scIllegal)) ∧
  (∀ (s : State) (n : Fin 12), s.strReady n.val = true → (s.seq n.val).handler.isSome = true →
    exec (.sequencerFault n true) s = .next (s.strRestart n.val (some scHandler) true) ∧
      exec (.sequencerRestart n .handlerFault) s = .next (s.strRestart n.val (some scHandler) true)) ∧
  (∀ (s : State) (a : Fin 4), (s.wc a.val).abandon = true → s.strReady (8 + a.val) = true →
    (s.seq (8 + a.val)).handler.isSome = true → (s.seq (8 + a.val)).events.contains scGate = true →
      exec (.sequencerGateAbandon a) s = .next s) ∧
  (∀ (s : State) (a : Fin 4), (s.wc a.val).abandon = true →
    ((s.strEvent (8 + a.val) scGate).seq (8 + a.val)).events.contains scGate = false →
      exec (.sequencerGateAbandon a) s
        = .next ((s.strEvent (8 + a.val) scGate).setWc a.val
            { (s.strEvent (8 + a.val) scGate).wc a.val with abandon := false })) ∧
  (∀ (s : State) (n : Fin 8), (s.seq n.val).handTo.isSome = true →
    exec (.sequencerHandover n) s = .next (s.strEvent n.val scHandover)) ∧
  (∀ (s : State) (n : Fin 8) (m kind k : Nat) (rest : List (Nat × Nat)), (s.seq n.val).handTo = some m →
    s.strReady n.val = false → (s.seq n.val).wq = (kind, k) :: rest →
      exec (.sequencerHandover n) s
        = .next ((s.setSeq n.val { s.seq n.val with wq := rest, handTo := none }).wqAdd m kind k)) ∧
  (∀ (s : State) (i : Initiator) (n : Fin 12), s.strOpen i n.val = true →
    s.flag (R.STR_STAT n.val) F.STR_STAT_RESTARTING = false →
      exec (.sequencerAbort i n) s = .next (s.strAbort n.val) ∧
        exec (.sequencerRestart n (.write i)) s = .next (s.strRestart n.val none false)) ∧
  (∀ (s : State) (n : Fin 12), s.noInjection → s.strReady n.val = true →
    exec (.sequencerRestart n .storeError) s = .next ((s.strRestart n.val none false).carry 12 2 false)) ∧
  (∀ (s : State) (n : Fin 12) (images : List (Option Nat)) (xs : List PatchBody), s.patchQueue.contains n.val = true →
    patchAll n.val (s.patchesOf n.val) images [] = .inr xs →
      exec (.patchLoad n images) s
        = .next ((((((({ s with patchQueue := s.patchQueue.filter (· ≠ n.val) }.patchApplyAll n.val xs 0).wr (R.STR_PSTAT n.val)
            (word (2 ^ 28 + (xs.map fun x : PatchBody => x.matches_.length).foldl (· + ·) 0))).wr (R.STR_PVER n.val)
              (word (((s.patchesOf n.val).getLast?.map fun q : Nat × PatchEntry => q.2.ver).getD 0))).wr (R.STR_PMASK_LO n.val)
                (word ((s.patchesOf n.val).foldl (fun (m : Nat) (q : Nat × PatchEntry) => m + 2 ^ q.1) 0))).wr (R.STR_PMASK_HI n.val)
                  (word ((s.patchesOf n.val).foldl (fun (m : Nat) (q : Nat × PatchEntry) => m + 2 ^ q.1) 0 / 2 ^ 32))).strStart n.val).startFlash)) ∧
  (∀ (s : State) (n : Fin 12) (images : List (Option Nat)) (c i : Nat), s.patchQueue.contains n.val = true →
    patchAll n.val (s.patchesOf n.val) images [] = .inl (c, i) →
      ∃ t : State, exec (.patchLoad n images) s = .next (t.report 48 2).startFlash ∧ n.val ∉ t.patchQueue ∧ t.strSt n.val = ssStopped)

/-- Channels start, are refused, move their beats, end and are disabled. A request edge on a line that paces channel `k`
makes one more access pending there, or overflows at 63; a line edges nothing else, and software raises only lines
whose channel it may control. Fill levels of the buffer segments: cleared, or adjusted by their owner and clamped
between 0 and 1024 units. Keys are staged word by word, loaded and zeroed; raw blocks are taken and cores finish them.
A request ends with BUSY clear, DONE and its status; a slot that is not loaded ends it NO_KEY. Authentication units:
opened, given a tag, compared, read and closed by the port that holds them. -/
def Obligations.CarriageAndObsidianRun : Prop :=
(∀ (s : State) (i : Initiator) (k : Fin 32) (v : Word), s.ready .carriage = true → s.mayControl i (carChanRes k.val) = true →
    fget v F.CAR_CH_CTL_START = 1 → fget v F.CAR_CH_CTL_EN = 1 → fget v F.CAR_CH_CTL_DW ≤ 5 → fget v F.CAR_CH_CTL_SW ≤ 5 →
      fget v F.CAR_CH_CTL_BURST ≠ 0 → fget v F.CAR_CH_CTL_BURST ≤ 64 →
        fget v F.CAR_CH_CTL_REQ = s.rf (R.CAR_CH_CTL k.val) F.CAR_CH_CTL_REQ → s.carBusy k.val = false →
          exec (.channelStart i k v) s = .next ((s.writeFields (R.CAR_CH_CTL k.val) v).carStart k.val)) ∧
  (∀ (s : State) (i : Initiator) (k : Fin 32) (v : Word), s.carBusy k.val = true → fget v F.CAR_CH_CTL_START = 1 →
    exec (.channelStart i k v) s = .next s) ∧
  (∀ (s : State) (k : Fin 32), (s.carCh k.val).disabled = true →
    exec (.channelDrained k) s = .next (s.carDrain k.val (s.carCh k.val).writes.length)) ∧
  (∀ (s : State) (p k : Nat), (s.car.ch.filter CarChan.inFlight).length < 8 → s.carPick = some (p, k) →
    exec .burstIssue s = .next (s.carBurst p k)) ∧
  (∀ (s : State), 8 ≤ (s.car.ch.filter CarChan.inFlight).length → exec .burstIssue s = .next s) ∧
  (∀ (s : State) (k : Fin 32), (s.carCh k.val).reads = [] → exec (.beatReadResponse k) s = .next s) ∧
  (∀ (s : State) (k : Fin 32), (s.carCh k.val).writes = [] → exec (.beatWriteResponse k) s = .next s) ∧
  (∀ (s : State) (k : Fin 32) (o : Nat) (rest : List Nat), (s.carCh k.val).reads = o :: rest →
    exec (.beatReadResponse k) s = .next (s.carRead k.val)) ∧
  (∀ (s : State) (k : Fin 32) (b : CarBeat) (rest : List CarBeat), (s.carCh k.val).writes = b :: rest →
    exec (.beatWriteResponse k) s = .next (s.carWrite k.val)) ∧
(∀ (s : State) (l : Fin 64), (l.val < 48 ∨ 56 ≤ l.val) →
    exec (.requestEdge l) s = .next ((List.range 32).foldl (fun t k => t.edgeAt l.val k) s)) ∧
  (∀ (s : State) (l : Fin 64), 48 ≤ l.val → l.val < 56 → exec (.requestEdge l) s = .next s) ∧
  (∀ (s : State) (t : Fin 16),
    exec (.generalTimerExpiry t) s = .next ((List.range 32).foldl (fun u k => u.edgeAt t.val k) s)) ∧
  (∀ (s : State) (i : Initiator) (l : BitVec 8), s.ready .carriage = true →
    exec (.softwareRequest i l) s
      = .next ((List.range 8).foldl
          (fun t b => if bitAt l.toNat b && t.mayRaise i (56 + b) then t.requestEdge (56 + b) else t) s)) ∧
  (∀ (s : State) (i : Initiator) (l : BitVec 8), s.ready .carriage = false → exec (.softwareRequest i l) s = .next s) ∧
(∀ (s : State) (i : Initiator) (g : Fin 32), s.ready .carriage = true → s.mayControl i (bufSegRes g.val) = true →
    exec (.segmentClear i g) s = .next (s.setFill g.val 0 false)) ∧
  (∀ (s : State) (g : Fin 32) (adj : BitVec 12), s.ready .carriage = true → s.mayControl .port (bufSegRes g.val) = true →
    s.owner (bufSegRes g.val) = 1 →
      exec (.segmentAdjust .port g adj) s
        = .next (s.setFill g.val
            (64 * clampNat 0 1024 (((s.segFill g.val / 64 : Nat) : Int) + signedOf 12 adj.toNat).toNat) true)) ∧
  (∀ (s : State) (g : Fin 32) (n : Nat) (edge : Bool), n ≤ 65536 → edge = false →
    (s.setFill g.val n edge).segFill g.val = n ∧
      (s.setFill g.val n edge).rf (R.CAR_SEG_FILL g.val) F.CAR_SEG_FILL_FILL = n / 64 ∧
        OnlyRegs [R.CAR_SEG_FILL g.val] s (s.setFill g.val n edge)) ∧
(∀ (s : State) (i : Initiator) (v : Word), s.obsOpen i = true → s.obs.staged.length < 16 →
    Completes (.keyStage i v) s fun t =>
      t.obs = { s.obs with staged := s.obs.staged ++ [v] } ∧
        t.rf R.OBS_KEY_STAT F.OBS_KEY_STAT_STAGED = s.obs.staged.length + 1 ∧ OnlyRegs [R.OBS_KEY_STAT] s t) ∧
  (∀ (s : State) (i : Initiator) (v : Word), 16 ≤ s.obs.staged.length → exec (.keyStage i v) s = .next s) ∧
  (∀ (s : State) (i : Initiator) (slot : Fin 4096), s.obsOpen i = true → s.mayControl i (keyRes slot.val) = true →
    s.obs.staged.length = 16 →
      exec (.keyLoad i slot) s
        = .next (({ s with obs := { s.obs with
            staged := [], cmds := s.obs.cmds ++ [({ slot := slot.val, load := some (wordsBits s.obs.staged) } : KeyCmd)] } }.wf
              R.OBS_KEY_STAT F.OBS_KEY_STAT_STAGED 0).obsAdvance)) ∧
  (∀ (s : State) (i : Initiator) (slot : Fin 4096), s.obs.staged.length ≠ 16 → exec (.keyLoad i slot) s = .next s) ∧
  (∀ (s : State) (i : Initiator) (slot : Fin 4096), s.obsOpen i = true → s.mayControl i (keyRes slot.val) = true →
    exec (.keyZero i slot) s
      = .next (({ s with obs := { s.obs with
          staged := [], cmds := s.obs.cmds ++ [({ slot := slot.val, load := none } : KeyCmd)] } }.wf
            R.OBS_KEY_STAT F.OBS_KEY_STAT_STAGED 0).obsAdvance)) ∧
  (∀ (s : State) (i : Initiator) (port : Fin 14) (v : Word), s.ready .obsidian = true → rawPort i = some port.val →
    s.rawBusy port.val = false → fget v F.OBS_RAW_CTL_DEST ≠ 3 → fget v F.OBS_RAW_CTL_GO = 1 →
      (∀ t : State, t = (s.writeFields (R.OBS_RAW_CTL port.val) v).raise (R.OBS_RAW_STAT port.val) F.OBS_RAW_STAT_BUSY →
        t.portMayUse port.val (fget v F.OBS_RAW_CTL_KEY) = false →
          ∀ upset, exec (.rawBlockOp i port v upset) s = .next ((t.setOut port.val 0).rawEnd port.val rsOk))) ∧
  (∀ (s : State) (i : Initiator) (port : Fin 14) (v : Word), s.ready .obsidian = true → rawPort i = some port.val →
    s.rawBusy port.val = false → fget v F.OBS_RAW_CTL_DEST ≠ 3 → fget v F.OBS_RAW_CTL_GO = 1 → s.obs.cmds = [] → s.noInjection →
      (∀ t : State, t = (s.writeFields (R.OBS_RAW_CTL port.val) v).raise (R.OBS_RAW_STAT port.val) F.OBS_RAW_STAT_BUSY →
        t.portMayUse port.val (fget v F.OBS_RAW_CTL_KEY) = true →
          exec (.rawBlockOp i port v false) s
            = .next ((t.rawResolve
                { port := port.val, slot := fget v F.OBS_RAW_CTL_KEY, half := fget v F.OBS_RAW_CTL_HALF = 1,
                  dir := fget v F.OBS_RAW_CTL_DIR = 1, block := t.rawIn port.val, dest := fget v F.OBS_RAW_CTL_DEST,
                  au := fget v F.OBS_RAW_CTL_AU }).obsAdvance))) ∧
  (∀ (s : State) (core : Fin 16) (r : RawReq), s.obs.cores.getD core.val none = some r →
    ∃ t : State, t = ({ s with obs := { s.obs with cores := s.obs.cores.set core.val none } }.wf R.OBS_STAT
        ⟨core.val, core.val⟩ 0).rawStore r (aesBlock r.key r.dir r.block) ∧
      exec (.coreBlockDone core) s
        = .next ((((t.keyDrain t.obs.cmds.length).keyBusy.auDrain.coreTake core.val).coreKick 16))) ∧
  (∀ (s : State) (p : Fin 14) (st : Nat), st < 4 →
    (s.rawEnd p.val st).rawBusy p.val = false ∧ (s.rawEnd p.val st).flag (R.OBS_RAW_STAT p.val) F.OBS_RAW_STAT_DONE = true ∧
      (s.rawEnd p.val st).rf (R.OBS_RAW_STAT p.val) F.OBS_RAW_STAT_STATUS = st ∧
        OnlyRegs [R.OBS_RAW_STAT p.val] s (s.rawEnd p.val st)) ∧
(∀ (s : State) (i : Initiator) (u : Fin 4) (p : Nat), rawPort i = some p → s.ready .obsidian = true → u.val < s.auCount →
    s.auState u.val = auIdle →
      exec (.authUnitOpen i u) s
        = .next ((((((s.auZero u.val).wf (R.OBS_AU_STAT u.val) F.OBS_AU_STAT_STATE auOpen).wf (R.OBS_AU_STAT u.val)
            F.OBS_AU_STAT_PORT p).wf (R.OBS_AU_STAT u.val) F.OBS_AU_STAT_BLOCKS 0).wf (R.OBS_AU_STAT u.val)
              F.OBS_AU_STAT_TAG_IN 0).wf (R.OBS_AU_STAT u.val) F.OBS_AU_STAT_TAG_SET 0)) ∧
  (∀ (s : State) (i : Initiator) (u : Fin 4) (p : Nat) (tlen : Fin 32), rawPort i = some p → s.ready .obsidian = true →
    u.val < s.auCount → s.rf (R.OBS_AU_STAT u.val) F.OBS_AU_STAT_PORT = p → s.auState u.val = auOpen →
      s.flag (R.OBS_AU_STAT u.val) F.OBS_AU_STAT_TAG_IN = true → s.flag (R.OBS_AU_STAT u.val) F.OBS_AU_STAT_TAG_SET = true →
        4 ≤ tlen.val → tlen.val ≤ 16 → s.auInCore u.val = false →
          exec (.authUnitCompare i u tlen) s = .next (s.auCompare u.val tlen.val)) ∧
  (∀ (s : State) (u : Fin 4) (tlen : Nat),
    (s.au u.val).tag % 2 ^ (8 * tlen) = (s.au u.val).expected % 2 ^ (8 * tlen) →
      (s.auCompare u.val tlen).auState u.val = auPass) ∧
  (∀ (s : State) (u : Fin 4) (tlen : Nat),
    (s.au u.val).tag % 2 ^ (8 * tlen) ≠ (s.au u.val).expected % 2 ^ (8 * tlen) →
      (s.auCompare u.val tlen).auState u.val = auFail ∧ (s.auCompare u.val tlen).flag R.OBS_EVT F.OBS_EVT_AU_FAIL = true) ∧
  (∀ (s : State) (i : Initiator) (u : Fin 4) (p : Nat), rawPort i = some p → s.ready .obsidian = true → u.val < s.auCount →
    s.rf (R.OBS_AU_STAT u.val) F.OBS_AU_STAT_PORT = p → s.auState u.val ≠ auIdle →
      exec (.authUnitClose i u) s
        = .next ((s.auZero u.val).wf (R.OBS_AU_STAT u.val) F.OBS_AU_STAT_STATE auIdle)) ∧
  (∀ (s : State) (i : Initiator) (u j : Fin 4) (v : Word), s.ready .obsidian = true → u.val < s.auCount →
    s.auState u.val ≠ auIdle → rawPort i = some (s.rf (R.OBS_AU_STAT u.val) F.OBS_AU_STAT_PORT) →
      exec (.authTagWrite i u j v) s
        = .next ((s.setAu u.val
            { s.au u.val with
              expected := (s.au u.val).expected - rdLe (s.au u.val).expected (4 * j.val) 4 * 2 ^ (32 * j.val)
                + v.toNat * 2 ^ (32 * j.val) }).raise
              (R.OBS_AU_STAT u.val) F.OBS_AU_STAT_TAG_SET)) ∧
  (∀ (s : State) (i : Initiator) (u : Fin 4), u.val < s.auCount → s.auState u.val = auPass →
    rawPort i = some (s.rf (R.OBS_AU_STAT u.val) F.OBS_AU_STAT_PORT) → (s.au u.val).pos < 4 * s.auBlocks u.val →
      exec (.authDataRead i u) s
        = .next (((s.setAu u.val { s.au u.val with pos := (s.au u.val).pos + 1 }).auMove u.val (-4)).answer
            (word (rdLe (s.au u.val).data (4 * (s.au u.val).pos) 4)))) ∧
  (∀ (s : State) (i : Initiator) (u : Fin 4), s.auState u.val ≠ auPass → exec (.authDataRead i u) s = .next (s.answer 0))

/-- The link comes up and goes down: lanes lock, ALIGN counters agree, HELLO makes the peer known, and its silence loses
it. Losing the link or the peer, the session at rest: UP and PEER clear, LINK_DOWN rises. -/
def Obligations.CausewayComesUp : Prop :=
(∀ (s : State) (lane : Fin 2), s.cswOn = true → exec (.laneBlockLock lane) s = .next (s.wf R.CSW_LINK ⟨lane.val, lane.val⟩ 1)) ∧
  (∀ (s : State) (lane : Fin 2), s.cswUp = false → 
    Completes (.laneLockLoss lane) s fun t =>
      t.rf R.CSW_LINK ⟨lane.val, lane.val⟩ = 0 ∧ t.csw = { s.csw with align := s.csw.align.set lane.val none } ∧
        OnlyRegs [R.CSW_LINK] s t) ∧
  (∀ (s : State) (lane : Fin 2), s.cswUp = true →
    exec (.laneLockLoss lane) s
      = .next (({ s with csw := { s.csw with align := s.csw.align.set lane.val none } }.wf R.CSW_LINK
          ⟨lane.val, lane.val⟩ 0).cswLinkDown)) ∧
  (∀ (s : State) (lane : Fin 2) (c : BitVec 32), s.cswOn = true → s.rf R.CSW_LINK ⟨lane.val, lane.val⟩ = 1 →
    s.csw.align = [none, none] →
      exec (.alignBlock lane c) s
        = .next { s with csw := { s.csw with align := s.csw.align.set lane.val (some c.toNat) } }) ∧
  (∀ (s : State) (c : BitVec 32), s.cswOn = true → s.rf R.CSW_LINK F.CSW_LINK_LOCK = 3 → s.cswUp = false →
    s.csw.align = [none, some c.toNat] →
      Completes (.alignBlock 0 c) s fun t =>
        t.cswUp = true ∧ t.flag R.CSW_EVT F.CSW_EVT_LINK_UP = true ∧ OnlyRegs [R.CSW_LINK, R.CSW_EVT] s t) ∧
  (∀ (s : State), s.cswOn = true →
    exec .alignSend s
      = .next ({ s with csw := { s.csw with alignTx := (s.csw.alignTx + 1) % 2 ^ 32 } }.emit (.causeway 0x4B [alignBlock 0 s.csw.alignTx, alignBlock 1 s.csw.alignTx]))) ∧
  (∀ (s : State) (len frame : Nat), s.cswUp = true → frameOk len frame = true → frameTyp frame = fyHello →
    frameAt frame 0 2 = 0x0100 → (frameAt frame 3 1 % 2 = 0 ∨ s.cswPeer = true) →
      exec (.helloFrame len frame) s
        = .next ({ s with csw := { s.csw with seen := true } }.wf R.CSW_LINK F.CSW_LINK_PEER_ROLE (frameAt frame 2 1))) ∧
  (∀ (s : State) (len frame : Nat), s.cswUp = true → s.cswPeer = false → frameOk len frame = true → frameTyp frame = fyHello →
    frameAt frame 0 2 = 0x0100 → frameAt frame 3 1 % 2 = 1 →
      Completes (.helloFrame len frame) s fun t =>
        t.cswPeer = true ∧ t.flag R.CSW_EVT F.CSW_EVT_PEER = true ∧ t.csw.seen = true ∧
          ∀ i < 4, t.rd (R.CSW_PEER_ID i) = word (frameAt frame (4 + 4 * i) 4)) ∧
  (∀ (s : State), s.cswOn = true → s.cswUp = true →
    exec .helloTimer s
      = .next (s.cswEmit fyHello 0 [(2, 0x0100), (1, s.cswRole), (1, b2n s.csw.seen), (16, s.driveId), (12, 0)])) ∧
  (∀ (s : State), s.cswPeer = true → exec .peerTimeout s = .next s.cswPeerLost) ∧
  (∀ (s : State), s.cswUp = true → s.cswPeer = true →
    exec .ackKeepalive s = .next ((s.free 16).2.cswEmit fyAck 0 [(4, s.csw.rxNext), (2, (s.free 16).1), (2, 0)])) ∧
(∀ (s : State), s.cswUp = true → s.cswRest = true →
    s.cswLinkDown.cswUp = false ∧ s.cswLinkDown.cswPeer = false ∧ s.cswLinkDown.flag R.CSW_EVT F.CSW_EVT_LINK_DOWN = true ∧
      s.cswLinkDown.csw.seen = false) ∧
  (∀ (s : State), s.cswRest = true → s.cswPeerLost.cswPeer = false ∧ s.cswPeerLost.csw.seen = false) ∧
  (∀ (s : State) (e : Nat), s.cswRest = true → s.cswStop e = s ∧ s.cswStopTell e = s)

/-- A frame on a link that is down does nothing; on one that is up, a frame with a bad CRC or length is dropped and
counted. Acknowledged frames are let go and the others resent; a frame in sequence is taken, and acts as its type
says. The session: its plan is answered, items begin and end, granules are read, and it is gone, stopped and drained
on command. -/
def Obligations.MigrationRuns : Prop :=
  (∀ (s : State) (len frame : Nat),
    (s.cswUp = false →
      exec (.endFrame len frame) s = .next s ∧ exec (.ackFrame len frame) s = .next s ∧ exec (.nakFrame len frame) s = .next s ∧
        exec (.planFrame len frame) s = .next s ∧ exec (.stopFrame len frame) s = .next s) ∧
    (s.cswUp = true → frameOk len frame = false →
      exec (.endFrame len frame) s = .next (s.countUp R.CSW_CNT_ERR F.CSW_CNT_ERR_CRC_ERR 1) ∧
        exec (.ackFrame len frame) s = .next (s.countUp R.CSW_CNT_ERR F.CSW_CNT_ERR_CRC_ERR 1) ∧
          exec (.nakFrame len frame) s = .next (s.countUp R.CSW_CNT_ERR F.CSW_CNT_ERR_CRC_ERR 1) ∧
            exec (.planFrame len frame) s = .next (s.countUp R.CSW_CNT_ERR F.CSW_CNT_ERR_CRC_ERR 1) ∧
              exec (.dataFrame len frame) s = .next (s.countUp R.CSW_CNT_ERR F.CSW_CNT_ERR_CRC_ERR 1))) ∧
(∀ (s : State) (len frame : Nat), s.cswUp = true → frameOk len frame = true → frameTyp frame = fyAck → s.csw.queue = [] →
    exec (.ackFrame len frame) s
      = .next (((s.cswAcked (frameAt frame 0 4)).setCredit (frameAt frame 4 2)).cswGo.cswHistoryEnd)) ∧
  (∀ (s : State) (len frame : Nat), s.cswUp = true → frameOk len frame = true → frameTyp frame = fyNak →
    exec (.nakFrame len frame) s = .next (s.cswAcked (frameAt frame 0 4)).cswResend) ∧
  (∀ (s : State), s.cswUp = true → exec .retransmitTimeout s = .next s.cswResend) ∧
  (∀ (s : State) (len frame : Nat), s.cswUp = true → s.cswRest = true → frameOk len frame = true → frameTyp frame = fyPlan →
    frameSeq frame = 0 →
      exec (.planFrame len frame) s = .next (s.cswPlanIn (frameAt frame 0 8) (frameAt frame 8 32))) ∧
  (∀ (s u : State) (len f : Nat), s.cswUp = true → frameOk len f = true → s.cswSeq (frameSeq f) = (true, u) →
    (frameTyp f = fyPlanAck →
      exec (.planAckFrame len f) s = .next (u.cswPlanAck (frameAt f 8 1) (frameAt f 9 1 ≠ 0) (frameAt f 16 24))) ∧
    (frameTyp f = fyTenant →
      exec (.tenantFrame len f) s
        = .next (u.cswTenantIn (frameAt f 0 2) (frameAt f 2 1 % 2) (frameAt f 3 1 % 8) (frameAt f 8 8))) ∧
    (frameTyp f = fyBegin → s.fwMayTake = true →
      exec (.itemBeginFrame len f) s
        = .next (u.cswBeginIn { key := frameKey f 0, length := frameAt f 24 8, cls := frameAt f 32 1 % 8, st := frameAt f 33 1,
                                created := frameAt f 40 8 })) ∧
    (frameTyp f = fyData → exec (.dataFrame len f) s = .next (u.cswDataIn (dataRecs len f))) ∧
    (frameTyp f = fyEnd →
      exec (.itemEndFrame len f) s = .next (u.cswEndIn (frameKey f 0) (frameAt f 24 4) (frameAt f 32 48))) ∧
    (frameTyp f = fyAbort → exec (.itemAbortFrame len f) s = .next (u.cswAbortIn (frameKey f 0))) ∧
    (frameTyp f = fyVerified → exec (.verifiedFrame len f) s = .next (u.cswVerified (frameKey f 0) (frameAt f 24 1))) ∧
    (frameTyp f = fyHistory → frameAt f 0 4 + (len - 32) ≤ frameAt f 4 4 →
      exec (.historyFrame len f) s
        = .next (u.cswHistoryIn (frameAt f 0 4) (frameAt f 4 4) (len - 32) (frameAt f 8 (len - 32)))) ∧
    (frameTyp f = fyStop → exec (.stopFrame len f) s = .next (u.cswStop (frameAt f 0 1 % 16))) ∧
    (frameTyp f = fyFinish → exec (.endFrame len f) s = .next u)) ∧
(∀ (s : State) (t kind id ofs : Nat) (x : CswItem) (n digest : Nat),
    s.csw.rx.find? (fun y => decide (y.key = ⟨t, kind, id, ofs⟩)) = some x → x.ended = some (n, digest) →
      s.cswLate x = false →
        exec (.itemReadbackDone t kind id ofs true) s = .next (s.cswFail ⟨t, kind, id, ofs⟩ 1)) ∧
  (∀ (s : State) (t kind id ofs : Nat) (x : CswItem) (lost : Bool),
    s.csw.rx.find? (fun y => decide (y.key = ⟨t, kind, id, ofs⟩)) = some x → s.cswLate x = true →
      exec (.itemReadbackDone t kind id ofs lost) s = .next s) ∧
  (∀ (s : State) (t kind id ofs : Nat) (x : CswItem) (n : Nat),
    s.csw.rx.find? (fun y => decide (y.key = ⟨t, kind, id, ofs⟩)) = some x → x.grans = [] →
      x.ended = some (n, sha384 8 (x.length % 2 ^ 64)) →
        exec (.itemReadbackDone t kind id ofs false) s
          = .next (((s.cswTell ⟨t, kind, id, ofs⟩ 0).dropRx ⟨t, kind, id, ofs⟩).cswFinish ⟨t, kind, id, ofs⟩)) ∧
  (∀ (s : State) (x : CswItem) (o : Nat) (rest : List Nat), s.csw.sending = some x → x.todo = o :: rest → s.csw.queue = [] →
    s.writeWaits (x.key.gran o) = false → s.way.lost.contains (x.key.gran o) = false →
      exec (.exportGranuleRead false) s
        = .next ((({ s with csw := { s.csw with
            sending := some { x.digAdd o (s.storedKey (x.key.gran o)) with todo := rest } } }.cswSend fyData
              [(4, o), (4, 0), (4096, s.storedKey (x.key.gran o))]).cswItemEnd).cswGo)) ∧
  (∀ (s : State) (x : CswItem) (o : Nat) (rest : List Nat), s.csw.sending = some x → x.todo = o :: rest → s.csw.queue = [] →
    s.writeWaits (x.key.gran o) = false → exec (.exportGranuleRead true) s = .next (s.cswAbort x)) ∧
  (∀ (s : State) (i : Initiator), isPair i = true → s.rf R.CSW_CTL F.CSW_CTL_ROLE = 1 → s.mode = mMigration → s.cswPeer = true →
    s.cswRest = true → s.flag R.CSW_CTL F.CSW_CTL_ENABLE = true → s.rf R.CSW_CTL F.CSW_CTL_STOP = 0 →
      exec (.sessionGo i) s
        = .next ((s.writeFields R.CSW_CTL (fset (s.rd R.CSW_CTL) F.CSW_CTL_GO 1)).cswPlan)) ∧
  (∀ (s : State) (i : Initiator), isPair i = true → s.rf R.CSW_CTL F.CSW_CTL_ROLE ≠ 3 → s.rf R.CSW_CTL F.CSW_CTL_GO = 0 →
    s.flag R.CSW_CTL F.CSW_CTL_ENABLE = true → s.cswRole = s.rf R.CSW_CTL F.CSW_CTL_ROLE →
      exec (.sessionStop i) s
        = .next ((s.writeFields R.CSW_CTL (fset (s.rd R.CSW_CTL) F.CSW_CTL_STOP 1)).cswDrain)) ∧
  (∀ (s : State), s.cswSt = csDrain → s.cswItems = [] → exec .sessionDrained s = .next (s.cswStopTell ceRequest)) ∧
  (∀ (s : State), s.cswSt ≠ csDrain → exec .sessionDrained s = .next s)

/-- The rows of Ballast, of the scrubbers and Shale, of Carriage, of Obsidian and of Tollgate each complete with their own
effect: power and the bank, the scrub walks and the cache's operations, copies and segments, keys and blocks, faults
and injections. -/
def Obligations.UnitsHaveTheirEffects : Prop :=
(∀ s : State, Completes .auxInputUp s fun t =>
    t.flag R.BLS_STAT F.BLS_STAT_AUX_OK = true ∧ t.sys.auxUp = true ∧ OnlyRegs [R.BLS_STAT] s t) ∧
  (∀ (s : State) (mv : Nat), 10800 < mv → mv ≤ 13200 →
    exec (.mainInputUp mv) s
      = .next ({ (s.setBls { s.bls with mainUp := true }).wf R.BLS_STAT F.BLS_STAT_MAIN_OK 1 with
          sys := { s.sys with mainMv := mv } }).charger) ∧
  (∀ (s : State) (mv : Int), s.sys.auxUp = true → s.bls.mainUp = true → s.bls.rails = 5 → railWithin 5 mv 3 = true →
    Completes (.railInRegulation 5 mv) s fun t =>
      t.bls.rails = 6 ∧ t.flag R.BLS_STAT F.BLS_STAT_RAILS_OK = true ∧ OnlyRegs [R.BLS_STAT] s t) ∧
  (∀ (s : State) (b a : Fin 4), s.bls.rails = 6 → s.bls.released = false →
    exec (.socRelease b a false) s
      = .next ((s.setBls { s.bls with released := true, held := false }).powerOn b.val a.val false)) ∧
  (∀ (s : State) (r : Fin 14) (mv : Int), r.val < 6 → r.val < s.bls.rails → railWithin r.val mv 6 = false →
    exec (.railFault r mv) s
      = .next (((s.setBls { s.bls with rails := r.val, released := false, held := true }).wf R.BLS_STAT
          F.BLS_STAT_RAILS_OK 0).beginRetract.socReset)) ∧
  (∀ s : State, exec (.ballastReady true) s
    = .next (((s.setBls { s.bls with selfTest := true }).wf R.BLS_STAT F.BLS_STAT_ARMED 1).ballastCheck)) ∧
  (∀ s : State, s.flag R.BLS_STAT F.BLS_STAT_LINK = false →
    exec (.linkHeartbeat true) s = .next ((s.raise R.BLS_STAT F.BLS_STAT_LINK).ballastCheck)) ∧
  (∀ s : State, s.flag R.BLS_STAT F.BLS_STAT_LINK = true →
    exec .linkWatchdogExpiry s
      = .next ((((s.wf R.BLS_STAT F.BLS_STAT_LINK 0).setReady .ballast false).beginRetract).carry 14 3 false)) ∧
  (∀ (s : State) (g : Fin 9) (ma : Nat), s.stageRuns g.val = true → s.bls.trips = [] → tripMa g.val ≤ ma →
    Completes (.stageTrip g ma) s fun t =>
      t.bls.trips = [(g.val, [s.now])] ∧
        t.rf R.BLS_OCP F.BLS_OCP_TRIPS
          = min (s.rf R.BLS_OCP F.BLS_OCP_TRIPS + 1) (2 ^ (F.BLS_OCP_TRIPS.hi + 1 - F.BLS_OCP_TRIPS.lo) - 1) ∧
        OnlyRegs [R.BLS_OCP] s t) ∧
  (∀ (s : State) (i : Initiator) (v : Word), isPair i = true →
    exec (.stageUnlatch i v) s
      = .next ((s.writeFields R.BLS_OCP v).setBls { (s.writeFields R.BLS_OCP v).bls with
          trips := (s.writeFields R.BLS_OCP v).bls.trips.filter fun q => !bitAt v.toNat q.1 })) ∧
  (∀ s : State, Completes .regenClamp s fun t =>
    t.flag R.BLS_EVT F.BLS_EVT_REGEN_CLAMP = true ∧ OnlyRegs [R.BLS_EVT] s t) ∧
  (∀ s : State, s.bls.charging = true → s.bankMv < 5000 → s.bls.chargeAt + 200000000 ≤ s.now →
    exec .chargeTimeout s
      = .next ((((s.setBls { s.bls with charging := false, chargeFail := true }).emit (.charger 0 0)).wf R.BLS_STAT
          F.BLS_STAT_BANK_OK 0).carry 16 2 false)) ∧
  (∀ (s : State) (i : Initiator) (v : Word), isPair i = true → fget v F.BLS_MEAS_CTL_GO = 1 →
    (s.writeFields R.BLS_MEAS_CTL (fset v F.BLS_MEAS_CTL_GO 0)).onHoldup = false →
      exec (.bankMeasureGo i v) s
        = .next ((s.writeFields R.BLS_MEAS_CTL (fset v F.BLS_MEAS_CTL_GO 0)).raise R.BLS_MEAS_CTL F.BLS_MEAS_CTL_GO).measureStart) ∧
  (∀ s : State, s.measureDue = true → s.onHoldup = false → s.flag R.BLS_MEAS_CTL F.BLS_MEAS_CTL_BUSY = false →
    exec .measureTimerExpiry s
      = .next ((s.raise R.BLS_MEAS_CTL F.BLS_MEAS_CTL_BUSY).setBls { s.bls with chargeFail := false, measAt := s.now }).charger) ∧
  (∀ (s : State) (st fall us : Nat), s.flag R.BLS_MEAS_CTL F.BLS_MEAS_CTL_BUSY = true →
    exec (.bankMeasureDone st fall us) s = .next (s.measureEnd st fall us)) ∧
  (∀ (s : State) (mv : Nat), mv ≤ 0xFFFF →
    Completes (.vaultAllowanceUpdate mv) s fun t =>
      t.rd R.BLS_BANK_V = word mv ∧ OnlyRegs [R.BLS_BANK_V, R.BLS_VAULT] s t) ∧
  (∀ (s : State) (d : Int), exec (.thermalLevelChange d) s = .next (s.setTemp d)) ∧
  (∀ (s : State) (mv : Nat) (aux : Bool), s.onHoldup = false → ((s.toHoldup mv aux).requestHaven hvPowerLoss).bankOk = true →
    ((s.toHoldup mv aux).requestHaven hvPowerLoss).vretMv < mv →
      exec (.powerLoss mv aux) s = .next ((s.toHoldup mv aux).requestHaven hvPowerLoss)) ∧
  (∀ s : State, s.flushOver = true → exec .vaultFlushDone s = .next s.endFlush.advanceHaven) ∧
  (∀ s : State, s.onHoldup = true → ((s.wr R.BLS_BANK_V (word s.vretMv)).abandonFlush).allParked = true →
    exec .bankAtVret s = .next ((s.wr R.BLS_BANK_V (word s.vretMv)).abandonFlush).advanceHaven) ∧
  (∀ (s : State) (mv : Nat), s.onHoldup = false → 10800 ≤ mv → mv ≤ 13200 →
    exec (.mainReturn mv) s
      = .next { s.wf R.BLS_STAT F.BLS_STAT_MAIN_OK 1 with sys := { s.sys with mainMv := mv } }) ∧
  (∀ s : State, s.retractDue = true → exec .emergencyRetract s = .next s.beginRetract) ∧
  (∀ s : State, exec .retractComplete s = .next s.endRetract.advanceHaven) ∧
  (∀ s : State, s.flag R.BED_TUM_CTL F.BED_TUM_CTL_EN = true → s.bed.lapOn = false →
    s.bed.lapStart + minuteTicks * s.rf R.BED_TUM_CTL F.BED_TUM_CTL_LAP_MIN ≤ s.now → Completes .scrubLapStart s fun t => t.bed.lapOn = true ∧ t.bed.scrub = 0 ∧ t.bed.lapStart = s.now ∧ SameRegs s t) ∧
  (∀ (s : State) (u : BitVec 576) (nw : Bool), s.bed.lapOn = true → s.flag R.BED_TUM_CTL F.BED_TUM_CTL_EN = true →
    s.ready .bedrock = true → nextGran s.bed.gran s.bed.scrub = none →
      Completes (.scrubRead u nw) s fun t =>
        t.bed.lapOn = false ∧ t.rd R.BED_TUM_LAP = word ((s.now - s.bed.lapStart) / 100000000) ∧
          OnlyRegs [R.BED_TUM_LAP] s t) ∧
  (∀ (s : State) (r : Fin 10) (nw : Bool) (k : SramSpot), s.noInjection → s.flag R.BED_SS_CTL F.BED_SS_CTL_EN = true →
    bitAt (s.rf R.BED_SS_CTL F.BED_SS_CTL_REGIONS) r.val = true → s.bed.ssCount < 524287 →
      exec (.sramScrubStep r 0 nw k) s = .next { s with bed := { s.bed with ssCount := s.bed.ssCount + 1 } }) ∧
  (∀ (s : State) (i : Initiator) (v : Word), isPair i = true → fget v F.SHL_CTL_EN = 1 → s.flag R.SHL_CTL F.SHL_CTL_EN = false →
    s.flag R.SHL_STATUS F.SHL_STATUS_ARMED = true → s.shlDraining = false →
      Completes (.shaleEnable i v) s fun t =>
        t.flag R.SHL_CTL F.SHL_CTL_EN = true ∧ t.flag R.SHL_STATUS F.SHL_STATUS_ENABLED = true ∧
          t.flag R.SHL_STATUS F.SHL_STATUS_ARMED = false ∧ OnlyRegs [R.SHL_CTL, R.SHL_STATUS] s t) ∧
  (∀ (s : State) (i : Initiator) (v : Word), isPair i = true → fget v F.SHL_CTL_EN = 0 →
    s.flag R.SHL_CTL F.SHL_CTL_EN = true → s.bed.shlOp = none → s.bed.lines = [] →
      exec (.shaleDisable i v) s = .next ((s.wf R.SHL_CTL F.SHL_CTL_EN 0).wf R.SHL_STATUS F.SHL_STATUS_ENABLED 0)) ∧
  (∀ s : State, s.shlDraining = true →
    exec .shaleDrainDone s
      = .next ((s.dirtyLines.foldl State.writeBack s).wf R.SHL_STATUS F.SHL_STATUS_DRAINING 0)) ∧
  (∀ (s : State) (i : Initiator) (v : Word), isPair i = true → s.flag R.SHL_INV_STATUS F.SHL_INV_STATUS_BUSY = false →
    s.flag R.SHL_CTL F.SHL_CTL_EN = false → s.shlDraining = false → fget v F.SHL_OP_OP = 1 →
      exec (.shaleInvRange i v) s
        = .next (({ s with bed := { s.bed with shlOp := some (.invRange s.shlSpan.1 s.shlSpan.2) } }.raise R.SHL_INV_STATUS
            F.SHL_INV_STATUS_BUSY).wf R.SHL_INV_STATUS F.SHL_INV_STATUS_LAST 1)) ∧
  (∀ (s : State) (i : Initiator) (v : Word), isPair i = true → s.flag R.SHL_INV_STATUS F.SHL_INV_STATUS_BUSY = false →
    s.flag R.SHL_CTL F.SHL_CTL_EN = false → s.shlDraining = false → fget v F.SHL_OP_OP = 2 →
      exec (.shaleInvAll i v) s
        = .next (({ s with bed := { s.bed with shlOp := some .invAll } }.raise R.SHL_INV_STATUS F.SHL_INV_STATUS_BUSY).wf
            R.SHL_INV_STATUS F.SHL_INV_STATUS_LAST 2)) ∧
  (∀ (s : State) (i : Initiator) (v : Word), isPair i = true → s.flag R.SHL_INV_STATUS F.SHL_INV_STATUS_BUSY = false →
    s.flag R.SHL_CTL F.SHL_CTL_EN = true → s.shlDraining = false → fget v F.SHL_OP_OP = 3 →
      s.wayLocked (fget v F.SHL_OP_WAY) = true → s.shlSpan.2 ≤ 2048 → s.spanInRing s.shlSpan.1 s.shlSpan.2 = false →
        exec (.shaleFill i v) s
          = .next (({ s with bed := { s.bed with
              shlOp := some (.fill (fget v F.SHL_OP_WAY) s.shlSpan.1 s.shlSpan.2) } }.raise R.SHL_INV_STATUS
                F.SHL_INV_STATUS_BUSY).wf R.SHL_INV_STATUS F.SHL_INV_STATUS_LAST 3)) ∧
  (∀ (s : State) (lo n : Nat), s.bed.shlOp = some (.invRange lo n) →
    exec .shaleOpDone s
      = .next ((({ s with bed := { s.bed with shlOp := none } }.invalidate fun x => decide (lo ≤ x.line) && decide (x.line < lo + n)).wf
          R.SHL_INV_STATUS F.SHL_INV_STATUS_BUSY 0).raise R.SHL_INV_STATUS F.SHL_INV_STATUS_DONE)) ∧
  (∀ (s : State) (i : Initiator) (v : Word), isPair i = true →
    4 ≤ ((List.range 16).filter fun w => !bitAt v.toNat w).length →
      exec (.shaleLock i v) s = .next (s.wf R.SHL_LOCK F.SHL_LOCK_WAYS v.toNat)) ∧
  (∀ (s : State) (i : Initiator) (k : Fin 32) (v : Word), s.ready .carriage = true → s.mayControl i (carChanRes k.val) = true →
    fget v F.CAR_CH_CTL_START = 1 → fget v F.CAR_CH_CTL_EN = 1 → fget v F.CAR_CH_CTL_DW ≤ 5 → fget v F.CAR_CH_CTL_SW ≤ 5 →
      fget v F.CAR_CH_CTL_BURST ≠ 0 → fget v F.CAR_CH_CTL_BURST ≤ 64 →
        fget v F.CAR_CH_CTL_REQ = s.rf (R.CAR_CH_CTL k.val) F.CAR_CH_CTL_REQ → s.carBusy k.val = false →
          exec (.channelStart i k v) s = .next ((s.writeFields (R.CAR_CH_CTL k.val) v).carStart k.val)) ∧
  (∀ (s : State) (k : Fin 32), (s.carCh k.val).disabled = true →
    exec (.channelDrained k) s = .next (s.carDrain k.val (s.carCh k.val).writes.length)) ∧
  (∀ (s : State) (p k : Nat), (s.car.ch.filter CarChan.inFlight).length < 8 → s.carPick = some (p, k) →
    exec .burstIssue s = .next (s.carBurst p k)) ∧
  (∀ (s : State) (k : Fin 32) (o : Nat) (rest : List Nat), (s.carCh k.val).reads = o :: rest →
    exec (.beatReadResponse k) s = .next (s.carRead k.val)) ∧
  (∀ (s : State) (k : Fin 32) (b : CarBeat) (rest : List CarBeat), (s.carCh k.val).writes = b :: rest →
    exec (.beatWriteResponse k) s = .next (s.carWrite k.val)) ∧
  (∀ (s : State) (l : Fin 64), l.val < 48 ∨ 56 ≤ l.val →
    exec (.requestEdge l) s = .next ((List.range 32).foldl (fun t k => t.edgeAt l.val k) s)) ∧
  (∀ (s : State) (t : Fin 16),
    exec (.generalTimerExpiry t) s = .next ((List.range 32).foldl (fun u k => u.edgeAt t.val k) s)) ∧
  (∀ (s : State) (i : Initiator) (l : BitVec 8), s.ready .carriage = true →
    exec (.softwareRequest i l) s
      = .next ((List.range 8).foldl
          (fun t b => if bitAt l.toNat b && t.mayRaise i (56 + b) then t.requestEdge (56 + b) else t) s)) ∧
  (∀ (s : State) (i : Initiator) (g : Fin 32), s.ready .carriage = true → s.mayControl i (bufSegRes g.val) = true →
    exec (.segmentClear i g) s = .next (s.setFill g.val 0 false)) ∧
  (∀ (s : State) (g : Fin 32) (adj : BitVec 12), s.ready .carriage = true → s.mayControl .media (bufSegRes g.val) = true →
    s.owner (bufSegRes g.val) = 2 →
      exec (.segmentAdjust .media g adj) s
        = .next (s.setFill g.val
            (64 * clampNat 0 1024 (((s.segFill g.val / 64 : Nat) : Int) + signedOf 12 adj.toNat).toNat) true)) ∧
  (∀ (s : State) (i : Initiator) (v : Word), s.obsOpen i = true → s.obs.staged.length < 16 →
    exec (.keyStage i v) s
      = .next ({ s with obs := { s.obs with staged := s.obs.staged ++ [v] } }.wf R.OBS_KEY_STAT F.OBS_KEY_STAT_STAGED
          (s.obs.staged.length + 1))) ∧
  (∀ (s : State) (i : Initiator) (slot : Fin 4096), s.obsOpen i = true → s.mayControl i (keyRes slot.val) = true →
    s.obs.staged.length = 16 →
      exec (.keyLoad i slot) s
        = .next (({ s with obs := { s.obs with
            staged := [], cmds := s.obs.cmds ++ [({ slot := slot.val, load := some (wordsBits s.obs.staged) } : KeyCmd)] } }.wf
              R.OBS_KEY_STAT F.OBS_KEY_STAT_STAGED 0).obsAdvance)) ∧
  (∀ (s : State) (i : Initiator) (slot : Fin 4096), s.obsOpen i = true → s.mayControl i (keyRes slot.val) = true →
    exec (.keyZero i slot) s
      = .next (({ s with obs := { s.obs with
          staged := [], cmds := s.obs.cmds ++ [({ slot := slot.val, load := none } : KeyCmd)] } }.wf
            R.OBS_KEY_STAT F.OBS_KEY_STAT_STAGED 0).obsAdvance)) ∧
  (∀ (s : State) (i : Initiator) (port : Fin 14) (v : Word), s.ready .obsidian = true → rawPort i = some port.val →
    s.rawBusy port.val = false → fget v F.OBS_RAW_CTL_DEST ≠ 3 → fget v F.OBS_RAW_CTL_GO = 1 →
      (∀ t : State, t = (s.writeFields (R.OBS_RAW_CTL port.val) v).raise (R.OBS_RAW_STAT port.val) F.OBS_RAW_STAT_BUSY →
        t.portMayUse port.val (fget v F.OBS_RAW_CTL_KEY) = false →
          ∀ upset, exec (.rawBlockOp i port v upset) s = .next ((t.setOut port.val 0).rawEnd port.val rsOk))) ∧
  (∀ (s : State) (core : Fin 16) (r : RawReq), s.obs.cores.getD core.val none = some r →
    exec (.coreBlockDone core) s = .next (s.coreDone core.val)) ∧
  (∀ (s : State) (i : Initiator) (u : Fin 4) (p : Nat), rawPort i = some p → s.ready .obsidian = true → u.val < s.auCount →
    s.auState u.val = auIdle →
      exec (.authUnitOpen i u) s
        = .next ((((((s.auZero u.val).wf (R.OBS_AU_STAT u.val) F.OBS_AU_STAT_STATE auOpen).wf (R.OBS_AU_STAT u.val)
            F.OBS_AU_STAT_PORT p).wf (R.OBS_AU_STAT u.val) F.OBS_AU_STAT_BLOCKS 0).wf (R.OBS_AU_STAT u.val)
              F.OBS_AU_STAT_TAG_IN 0).wf (R.OBS_AU_STAT u.val) F.OBS_AU_STAT_TAG_SET 0)) ∧
  (∀ (s : State) (i : Initiator) (u : Fin 4) (p : Nat) (tlen : Fin 32), rawPort i = some p → s.ready .obsidian = true →
    u.val < s.auCount → s.rf (R.OBS_AU_STAT u.val) F.OBS_AU_STAT_PORT = p → s.auState u.val = auOpen →
      s.flag (R.OBS_AU_STAT u.val) F.OBS_AU_STAT_TAG_IN = true → s.flag (R.OBS_AU_STAT u.val) F.OBS_AU_STAT_TAG_SET = true →
        4 ≤ tlen.val → tlen.val ≤ 16 → s.auInCore u.val = false →
          exec (.authUnitCompare i u tlen) s = .next (s.auCompare u.val tlen.val)) ∧
  (∀ (s : State) (i : Initiator) (u : Fin 4) (p : Nat), rawPort i = some p → s.ready .obsidian = true → u.val < s.auCount →
    s.rf (R.OBS_AU_STAT u.val) F.OBS_AU_STAT_PORT = p → s.auState u.val ≠ auIdle →
      exec (.authUnitClose i u) s
        = .next ((s.auZero u.val).wf (R.OBS_AU_STAT u.val) F.OBS_AU_STAT_STATE auIdle)) ∧
  (∀ (s : State) (i : Initiator) (u j : Fin 4) (v : Word), s.ready .obsidian = true → u.val < s.auCount →
    s.auState u.val ≠ auIdle → rawPort i = some (s.rf (R.OBS_AU_STAT u.val) F.OBS_AU_STAT_PORT) →
      exec (.authTagWrite i u j v) s
        = .next ((s.setAu u.val
            { s.au u.val with
              expected := (s.au u.val).expected - rdLe (s.au u.val).expected (4 * j.val) 4 * 2 ^ (32 * j.val)
                + v.toNat * 2 ^ (32 * j.val) }).raise
              (R.OBS_AU_STAT u.val) F.OBS_AU_STAT_TAG_SET)) ∧
  (∀ (s : State) (i : Initiator) (u : Fin 4), u.val < s.auCount → s.auState u.val = auPass →
    rawPort i = some (s.rf (R.OBS_AU_STAT u.val) F.OBS_AU_STAT_PORT) → (s.au u.val).pos < 4 * s.auBlocks u.val →
      exec (.authDataRead i u) s
        = .next (((s.setAu u.val { s.au u.val with pos := (s.au u.val).pos + 1 }).auMove u.val (-4)).answer
            (word (rdLe (s.au u.val).data (4 * (s.au u.val).pos) 4)))) ∧
  (∀ (s : State) (src : Fin 52) (cls : Fin 4), src.val ≠ 0 → cls.val ∈ tgtClasses src.val →
    exec (.faultLatch src cls true) s = .next (s.driveLine src.val cls.val)) ∧
  (∀ (s : State) (i : Initiator) (v : Word) (n : Nat), isPair i = true → (statusBits false v).filter s.latched = [n] →
    s.latchedClass n ≠ 3 → exec (.faultClear i .machine false v) s = .next (s.clearSource n)) ∧
  (∀ s : State, s.flag R.TGT_GRACE_STAT F.TGT_GRACE_STAT_RUNNING = true →
    exec (.graceExpiry false) s = .next (s.graceEnd true)) ∧
  (∀ (s : State) (n : Nat) (l : List Nat), s.tgt.heldTakeouts = n :: l →
    s.flag R.WAY_UNIT_STAT F.WAY_UNIT_STAT_BUSY = false →
      exec .heldTakeoutIssue s = .next ({ s with tgt := { s.tgt with heldTakeouts := l } }.issueTakeout n)) ∧
  (∀ s : State, s.tgt.expired = true → s.pendingList = [] →
    exec .keystoneBackstop s
      = .next { s.requestHaven hvTollgate with
          tgt := { (s.requestHaven hvTollgate).tgt with expired := false } }.graceUpdate.settleUntrained) ∧
  (∀ s : State, s.noInjection → s.ready .tollgate = true →
    exec (.tollgateSelfCheck true) s
      = .next (((s.tgtDefaults.carry 0 3 false).actOn 0).graceUpdate.requestHaven hvTollgate)) ∧
  (∀ s : State, s.flag R.TGT_PIN F.TGT_PIN_PULSING = true →
    exec .faultPinPulseEnd s
      = .next ((s.wf R.TGT_PIN F.TGT_PIN_PULSING 0).wf R.TGT_PIN F.TGT_PIN_LOW (s.rf R.TGT_PIN F.TGT_PIN_HOLD))) ∧
  (∀ (s : State) (i : Initiator) (v : Word), isPair i = true → (s.writeFields R.TGT_PIN v).flag R.TGT_PIN F.TGT_PIN_HOLD = true →
    exec (.faultPinHold i .machine v) s = .next (s.writeFields R.TGT_PIN v)) ∧
  (∀ (s : State) (n : Nat), s.tgt.kclr = [n] →
    exec (.fatalClearDone true) s
      = .next (({ s with tgt := { s.tgt with kclr := [] } }.clearSource n).wf R.TGT_GRACE_STAT F.TGT_GRACE_STAT_BUSY 0)) ∧
  (∀ s : State, s.ready .tollgate = false → s.tgt.early = [] →
    Completes .tollgateArmed s fun t =>
      t.ready .tollgate = true ∧ OnlyRegs [R.SYS_READY, R.SYS_READY_CHG] s t) ∧
  (∀ (s : State) (i : Initiator) (count : Nat) (src : Fin 64), isPair i = true → src.val ∈ injEcc → 1 ≤ count → count ≤ 255 →
    s.noInjection →
      exec (.injectArm i .machine count 2 src) s
        = .next { ((s.wf R.TGT_INJ_STAT F.TGT_INJ_STAT_ARMED 1).wf R.TGT_INJ_STAT F.TGT_INJ_STAT_SRC src.val).wf
            R.TGT_INJ_STAT F.TGT_INJ_STAT_LEFT count with tgt := { s.tgt with injBits := 2 } }) ∧
  (∀ (s : State) (i : Initiator), isPair i = true →
    exec (.injectDisarm i .machine) s
      = .next ((s.wf R.TGT_INJ_STAT F.TGT_INJ_STAT_ARMED 0).wf R.TGT_INJ_STAT F.TGT_INJ_STAT_LEFT 0))

/-- Each of these rows completes with its own effect where its conditions hold: the checks, the loader and the fuses of
bring-up; the advances of a mode; the host's reads and writes of its pages and the shadow's commits; the descriptors,
engines, completions and replays of Quarry; the loops' triggers, runs and configuration. -/
def Obligations.RowsOfFiveUnitsComplete : Prop :=
(∀ (s t : State) (img : Nat) (e : Bool), s.ready .bedrock = true → s.sys.bootGaveUp = false → s.slotA = none →
    t = (s.hbmWrite qCpu 0 (stagedBytes img e) (rdLe img 0 (stagedBytes img e))).2 →
      exec (.kenulSlotCheck false img e) s
        = .next (match t.slotB with
          | some b => { t with slotA := some (checkSlot s.keySlots img e) }.kenulOutcome (checkSlot s.keySlots img e) b
          | none => { t with slotA := some (checkSlot s.keySlots img e) })) ∧
  (∀ (s : State) (a b : SlotResult) (slot : Nat) (k : Kenul), s.slotA = some a → s.slotB = some b → s.kenul = none →
    chosenSlot a b = some (slot, k) → exec .kenulApply s = .next (s.applyImage slot k)) ∧
  (∀ (s : State) (k : Kenul) (img : Nat) (e : Bool), s.kenul = some k →
    s.rf R.SYS_BOOT_STATUS F.SYS_BOOT_STATUS_LOADER = 1 →
      exec (.loaderCheck img e) s
        = .next (if loaderCode k.pubkey img e = 2 then (s.wf R.SYS_BOOT_STATUS F.SYS_BOOT_STATUS_LOADER 2).handOff img
            else s.wf R.SYS_BOOT_STATUS F.SYS_BOOT_STATUS_LOADER (loaderCode k.pubkey img e))) ∧
  (∀ (s t : State) (slot : Fin 4) (mv : Nat), t = s.withMain mv → t.mode = mBedding → t.sys.fuseOp = none →
    exec (.fuseProgram .port .machine 0xF05E slot mv) s
      = .next ({ t with sys := { t.sys with
          fuseOp := some ⟨slot.val, true, t.fuseRefusal slot.val true, t.stagedHash⟩ } }.raise R.SYS_FUSE_PGM_STATUS
            F.SYS_FUSE_PGM_STATUS_BUSY)) ∧
  (∀ (s t : State) (slot : Fin 4) (mv : Nat), t = s.withMain mv → t.mode = mBedding → t.sys.fuseOp = none →
    exec (.fuseRevoke .port .machine 0xF05E slot mv) s
      = .next ({ t with sys := { t.sys with
          fuseOp := some ⟨slot.val, false, t.fuseRefusal slot.val false, t.stagedHash⟩ } }.raise R.SYS_FUSE_PGM_STATUS
            F.SYS_FUSE_PGM_STATUS_BUSY)) ∧
  (∀ (s t : State) (o : FuseOp) (m : Bool), s.sys.fuseOp = some o → o.refused = none →
    t = { s with sys := { s.sys with
      fuseOp := none,
      fuses := { s.sys.fuses with slots := s.sys.fuses.slots.set o.slot (o.burn (s.keySlotAt o.slot) m).1 } } } →
      exec (.fuseOpDone m) s
        = .next (((t.wf R.SYS_FUSE_PGM_STATUS F.SYS_FUSE_PGM_STATUS_BUSY 0).raise R.SYS_FUSE_PGM_STATUS
            F.SYS_FUSE_PGM_STATUS_DONE).wf R.SYS_FUSE_PGM_STATUS F.SYS_FUSE_PGM_STATUS_RESULT
              (o.burn (s.keySlotAt o.slot) m).2)) ∧
  (∀ s : State, exec .havenSettled s = .next s.advanceHaven.settleHaven) ∧
  (∀ s : State, s.sys.trans = .dormant 3 → s.ackedCtxs = [] →
    exec .dormantEntryProgress s = .next ((s.dormantAt 4).unloadAll ucDormant)) ∧
  (∀ s : State, s.mode = mDormant → s.sys.wakeTimer = true → s.rf R.SYS_MODE F.SYS_MODE_PHASE = 0 → s.sys.trans = .none →
    exec .dormantWakeExpiry s
      = .next (({ s with sys := { s.sys with wakeTimer := false },
                         way := { s.way with wakeOver := false } }.wf R.SYS_MODE F.SYS_MODE_PHASE 1).modeSpin.loadAll).flashDue) ∧
  (∀ s : State, s.mode = mDormant → s.rf R.SYS_MODE F.SYS_MODE_PHASE = 1 → s.sys.trans = .none →
    exec .dormantWorkDone s
      = .next (if ((({ s with sys := { s.sys with wakeTimer := true } }.wf R.SYS_MODE F.SYS_MODE_PHASE 0).unloadAll
            ucDormant).allParked) then
          (({ s with sys := { s.sys with wakeTimer := true } }.wf R.SYS_MODE F.SYS_MODE_PHASE 0).unloadAll ucDormant).spinStopBrake
        else (({ s with sys := { s.sys with wakeTimer := true } }.wf R.SYS_MODE F.SYS_MODE_PHASE 0).unloadAll
          ucDormant).dormantAt 6)) ∧
  (∀ s : State, s.sys.trans = .toService → (s.setReady .media s.mediaOk).sys.trans = .toService →
    (s.setReady .media s.mediaOk).ready .media = true →
      exec .modeTransitionComplete s
        = .next ({ s.setReady .media s.mediaOk with
            sys := { (s.setReady .media s.mediaOk).sys with trans := .none } }.modeDone mService)) ∧
  (∀ s : State, s.sys.heldData = true → s.mode = mBedding → s.ready .waymark = true → s.someAct = true →
    (s.writeHeld (byAdmit s.ackedCtxs)).ackedCtxs = [] →
      exec .heldDataWrite s
        = .next ({ s.writeHeld (byAdmit s.ackedCtxs) with
            sys := { (s.writeHeld (byAdmit s.ackedCtxs)).sys with heldData := false } }.wf R.SYS_HAVEN_STATUS
              F.SYS_HAVEN_STATUS_HELD 0).refreshMedia) ∧
  (∀ (s : State) (a : Fin 4), s.actSt a.val = aUnloading → stallRun ≤ (s.act a.val).stall →
    exec (.unloadStall a) s = .next ((s.park a.val).reload a.val).advanceHaven) ∧
  (∀ (s : State) (a : Fin 4), s.actSt a.val = aUnloading →
    exec (.unloadTimeout a) s
      = .next ((((s.raise (R.ACT_EVT a.val) F.ACT_EVT_UNLOAD_TMO).park a.val).reload a.val).report (24 + a.val) 2).advanceHaven) ∧
  (∀ (s t : State) (a : Fin 4) (mv ma : List Int),
    t = s.setBls { s.bls with vel := spSet 0 s.bls.vel a.val (s.velocity a.val mv ma) } →
      t.actSt a.val ≠ aLoading → t.actSt a.val ≠ aUnloading → exec (.vcmVelocitySample a mv ma) s = .next t) ∧
  (∀ s : State, s.milSt = miRun → s.calmFor (s.rf R.MIL_REG F.MIL_REG_REG_MS) = true →
    (s.setMillstone true).mode ≠ mDormant → exec .speedRegulated s = .next (s.setMillstone true)) ∧
  (∀ s : State, s.milSt = miStopping → s.mil.phase2 = true → s.calmFor 500 = true → (s.milEnter miIdle).mode ≠ mDormant →
    exec .stopComplete s = .next (s.milEnter miIdle).advanceHaven) ∧
  (∀ s : State, s.milSt = miCoast → s.calmFor 1000 = true → exec .coastToIdle s = .next (s.milEnter miIdle)) ∧
  (∀ (s : State) (g : Fin 2) (ofs : Nat), s.pers g.val = 1 → (s.hp g.val).link = .up →
    exec (.hostConfigRead g ofs) s = .next (s.emit (.host g.val 0 0 [(s.shadow g.val (ofs % 0x1000 / 4)).toNat]))) ∧
  (∀ (s : State) (g : Fin 2) (ofs n : Nat), s.pers g.val = 1 → (s.hp g.val).link = .up → n ≤ 16 →
    exec (.hostBar0Read g ofs n) s
      = .next (s.emit (.host g.val 0 0 ((List.range n).map fun j => s.barRead g.val (ofs + 4 * j))))) ∧
  (∀ (s : State) (g : Fin 2) (ofs : Nat) (v : Word), s.pers g.val = 1 → (s.hp g.val).link = .up →
    ofs % 0x1000 / 4 = capMsixWord →
      exec (.hostConfigWrite g ofs v) s = .next ((s.hostWord g.val (ofs % 0x1000 / 4) v).sendHeld g.val 0 1025)) ∧
  (∀ (s : State) (g : Fin 2) (ofs : Nat) (v : Word), s.pers g.val = 1 → (s.hp g.val).link = .up → ofs < 0x1000 →
    ofs / 4 ≠ 5 →
      exec (.hostBar0Write g ofs v) s
        = .next ((s.hostWord g.val ((0x1000 + ofs) / 4) v).raise (R.HP_EVT g.val) F.HP_EVT_PROP_WRITE)) ∧
  (∀ (s : State) (i : Initiator) (g : Fin 2) (v : Word), isPair i = true → (s.hp g.val).commitPending = false →
    (s.hp g.val).staged.length < 64 → s.rf (R.HP_SHD_ADDR g.val) F.HP_SHD_ADDR_WORD < msixWord →
      exec (.shadowStage i g v) s
        = .next ((s.setHp g.val { s.hp g.val with
            staged := (s.hp g.val).staged ++ [(s.rf (R.HP_SHD_ADDR g.val) F.HP_SHD_ADDR_WORD, v)] }).shdNext g.val)) ∧
  (∀ (s : State) (i : Initiator) (g : Fin 2), isPair i = true →
    s.rf (R.HP_SHD_ADDR g.val) F.HP_SHD_ADDR_WORD < shadowWords →
      Completes (.shadowRead i g) s fun t =>
        t.resp = s.shadow g.val (s.rf (R.HP_SHD_ADDR g.val) F.HP_SHD_ADDR_WORD)) ∧
  (∀ (s : State) (i : Initiator) (g : Fin 2), isPair i = true → (s.hp g.val).commitPending = false →
    exec (.shadowCommit i g) s = .next (s.setHp g.val { s.hp g.val with commitPending := true }) ∧
      exec (.shadowDiscard i g) s = .next (s.setHp g.val { s.hp g.val with staged := [] })) ∧
  (∀ (s t : State) (g : Fin 2), (s.hp g.val).commitPending = true →
    t = (s.hp g.val).staged.foldl (fun t q => t.setShadow g.val q.1 q.2) s →
      exec (.shadowCommitEffect g) s
        = .next ((t.setHp g.val { t.hp g.val with staged := [], commitPending := false }).raise (R.HP_EVT g.val)
            F.HP_EVT_SHD_DONE)) ∧
  (∀ (s : State) (g : Fin 2) (tag page : Nat), s.pers g.val = 2 → s.ready (hpReady g.val) = true →
    exec (.inquiry g tag false page) s = .next (s.emit (.host g.val tag 0 (s.shadowWordsFrom g.val 0 24)))) ∧
  (∀ (s : State) (tag : Nat), s.pers 0 = 3 → s.ready .hpa = true →
    exec (.identifyDevice tag) s = .next (s.emit (.host 0 tag 0 (s.shadowWordsFrom 0 0 128)))) ∧
  (∀ (s : State) (i : Initiator) (n : Fin 8) (v w : Word), w = fset v F.QRY_SUB_CMD_FLUSH 0 →
    fget w F.QRY_SUB_CMD_CLASS ≠ 3 → s.qryOpen i n.val = true → s.qryFree n.val ≠ 0 →
      ∃ d : Desc, d.sector = fget w F.QRY_SUB_CMD_SECTOR ∧ d.cls = fget w F.QRY_SUB_CMD_CLASS ∧
        d.et = fget w F.QRY_SUB_CMD_ET ∧ d.iter = fget w F.QRY_SUB_CMD_ITER ∧
          exec (.descriptorPush i n v) s = .next (s.setQents n.val (s.qents n.val ++ [(d, .queued)]))) ∧
  (∀ (s : State) (i : Initiator) (n : Fin 8) (v w : Word), w = fset v F.QRY_SUB_CMD_FLUSH 1 →
    fget w F.QRY_SUB_CMD_CLASS ≠ 3 → s.qryOpen i n.val = true →
      exec (.descriptorFlush i n v) s = .next (s.qryFlush n.val)) ∧
  (∀ (s : State) (e : Fin 12) (x : Slot), s.engineFree e.val = true → s.ready .quarry = true →
    bestSlot (s.qry.slots.filter s.slotWaits) = some x →
      exec (.engineDispatch e) s
        = .next ((s.setSlots (s.qry.slots.map fun y => if y.id = x.id then { y with engine := some e.val } else y)).engBusy e.val
            true)) ∧
  (∀ (s : State) (e : Fin 12) (x : Slot), s.engineSlot e.val = some x →
    exec (.decodeComplete e) s = .next ((s.endDecode x).engBusy e.val false)) ∧
  (∀ (s : State) (n : Fin 8) (d : Desc) (c : Cpl) (id : Option Nat) (an : Int) (rest : List (Desc × DescSt)),
    s.qents n.val = (d, .done c id an) :: rest →
      exec (.completionPost n) s = .next ((s.postCpl n.val).ladderPosted n.val c an)) ∧
  (∀ (s : State) (i : Initiator) (n : Fin 8) (v : Word), s.qryOpen i n.val = true → fget v F.QRY_CPL_POP_POP = 1 →
    exec (.completionPop i n v) s = .next (s.setQcpls n.val ((s.qcpls n.val).drop 1))) ∧
  (∀ (s : State) (e : Fin 12), (s.eccCheck [11] 2).1 = 2 →
    exec (.engineFault e) s = .next ((s.eccCheck [11] 2).2.2.engineFault e.val (s.eccCheck [11] 2).2.1)) ∧
  (∀ (s : State) (i : Initiator) (v : Word), s.ready .quarry = true → isPair i = true →
    exec (.engineFaultClear i v) s = .next (s.writeFields R.QRY_STAT v)) ∧
  (∀ (s t : State) (n : Fin 8) (c : Nat), (s.slice n.val).playing = true → s.rplyEnd n.val = some c →
    t = (if c = 3 then s else s.reframeArrived n.val) → (t.slice n.val).playing = true →
      exec (.replayEnd n) s = .next ((t.endReplay n.val c).ladderMissed n.val)) ∧
  (∀ (s : State) (i : Initiator) (n : Fin 8) (v : Word), s.ldOpen i n.val = true →
    exec (.ringFind i n v) s
      = .next ((s.wr (R.LD_RING_FOUND_HI n.val) (word (2 ^ 30))).setSlice n.val
          { (s.wr (R.LD_RING_FOUND_HI n.val) (word (2 ^ 30))).slice n.val with
            find := some (fget v F.LD_RING_FIND_SECTOR) })) ∧
  (∀ (s u : State) (n : Fin 8) (sec : Nat), (s.slice n.val).find = some sec →
    (s.setSlice n.val { s.slice n.val with find := none }).searchMarks (s.rplyQ n.val)
        (fun v => markKind v = mkSector && s.heldClk (s.rplyQ n.val) (s.markClk (s.rplyQ n.val) v)
          && markArg v % 2 ^ 32 = (s.rd (R.LD_RING_FIND_TRK n.val)).toNat && markArg v / 2 ^ 32 % 2 ^ 16 = sec)
        (s.sub (s.rplyQ n.val)).marks ((s.sub (s.rplyQ n.val)).marks - s.oldMark (s.rplyQ n.val)) = (none, u) →
      exec (.ringFindDone n) s = .next ((u.wr (R.LD_RING_FOUND_LO n.val) 0).wr (R.LD_RING_FOUND_HI n.val) 0)) ∧
  (∀ (s : State) (t : Fin 16) (l : Fin 80), t.val ≠ 0 → s.rf (R.BAS_LCFG l.val) F.BAS_LCFG_TRIG = t.val →
    exec (.loopTrigger t l) s = .next (s.trigger l.val)) ∧
  (∀ (s : State) (t : Fin 2),
    exec (.basaltTick t) s
      = .next ((List.range 80).foldl (fun u l => if u.rf (R.BAS_LCFG l) F.BAS_LCFG_TRIG = 3 + t.val then u.trigger l else u) s)) ∧
  (∀ (s : State) (i : Initiator) (v : Word), s.basOpen i = true → 10 ≤ fget v F.BAS_KICK_LOOP → fget v F.BAS_KICK_LOOP < 80 →
    s.innerOf (fget v F.BAS_KICK_LOOP) = none → exec (.loopKick i v) s = .next (s.trigger (fget v F.BAS_KICK_LOOP))) ∧
  (∀ (s : State) (i : Initiator) (l : Fin 80) (v : Word), s.loopMayTake i l.val (fset v F.BAS_LCFG_EN 1) = true →
    exec (.loopEnable i l v) s = .next (s.takeLcfg l.val (fset v F.BAS_LCFG_EN 1))) ∧
  (∀ (s : State) (i : Initiator) (l : Fin 80) (v : Word), s.loopMayTake i l.val (fset v F.BAS_LCFG_EN 0) = true →
    exec (.loopDisable i l v) s = .next (s.takeLcfg l.val (fset v F.BAS_LCFG_EN 0))) ∧
  (∀ (s : State) (i : Initiator) (l : Fin 80),
    s.loopMayTake i l.val (fset (s.rd (R.BAS_LCFG l.val)) F.BAS_LCFG_CLR 1) = true →
      exec (.loopClear i l) s = .next (s.takeLcfg l.val (fset (s.rd (R.BAS_LCFG l.val)) F.BAS_LCFG_CLR 1))) ∧
  (∀ (s : State) (i : Initiator) (l : Fin 80),
    s.loopMayTake i l.val (fset (s.rd (R.BAS_LCFG l.val)) F.BAS_LCFG_SWAP 1) = true →
      exec (.bankSwap i l) s = .next (s.takeLcfg l.val (fset (s.rd (R.BAS_LCFG l.val)) F.BAS_LCFG_SWAP 1))) ∧
  (∀ (s t : State) (i : Initiator) (l : Fin 80) (v : Word), s.basOpen i = true →
    t = s.wr (R.BAS_LINT_HI l.val) (word (v.toNat % 256)) →
      exec (.integratorWrite i l v) s
        = .next (t.setLoop l.val { t.loop l.val with
            intWrite := some (signedOf 40 (v.toNat % 256 * 2 ^ 32 + (t.rd (R.BAS_LINT_LO l.val)).toNat)) })) ∧
  (∀ (s t : State) (i : Initiator) (k : Fin 16) (v : Word), s.basOpen i = true →
    t = s.wf (R.BAS_GIN k.val) F.BAS_GIN_VALUE (fget v F.BAS_GIN_VALUE) →
      exec (.generalInputWrite i k v) s
        = .next { t with bas := { t.bas with gin := spSet 0 t.bas.gin k.val (t.bas.stamp + 1), stamp := t.bas.stamp + 1 } }) ∧
  (∀ (s : State) (i : Initiator) (v : Word), s.basOpen i = true → fget v F.BAS_SV_HWM_CLR = 1 →
    Completes (.servoHwmClear i v) s fun t => t.rd R.BAS_SV_HWM = 0 ∧ OnlyRegs [R.BAS_SV_HWM] s t) ∧
  (∀ (s : State) (ns : Nat) (k : List Nat) (l : Nat), s.chooseLoop 80 = some (k, l) → l ≠ 9 →
    exec (.loopRun ns) s = .next ((s.runLoop l).afterRun l ns))
end

