-- ==== Sys2Proof/Laws/Sparse.lean ====
section
/-!
SUPPORT. Sys2Proof/Laws/Sparse.lean: the laws of the sparse maps: reading after setting, and the canonical form that setting
keeps.
-/

namespace Sys2Proof.Machine

theorem spGet_erase {α : Type} (m : List (Nat × α)) (k j : Nat) :
    spGet (spErase m k) j = if j = k then none else spGet m j := by
  induction m with
  | nil => simp [spErase, spGet]
  | cons p t ih =>
    obtain ⟨a, v⟩ := p
    simp only [spErase] at ih ⊢
    by_cases h : a = k
    · subst h
      simp only [List.filter_cons, ne_eq, not_true, decide_false, Bool.false_eq_true, if_false, ih, spGet]
      by_cases hj : j = a
      · simp [hj]
      · simp [hj, Ne.symm hj]
    · simp only [List.filter_cons, ne_eq, h, not_false_iff, decide_true, if_true, spGet, ih]
      by_cases hj : a = j
      · subst hj; simp [h]
      · simp [hj]

theorem spGet_insert {α : Type} (m : List (Nat × α)) (k j : Nat) (v : α) (hm : spGet m k = none) :
    spGet (spInsert m k v) j = if j = k then some v else spGet m j := by
  induction m with
  | nil => by_cases h : j = k <;> simp [spInsert, spGet, h, Ne.symm]
  | cons p t ih =>
    obtain ⟨a, w⟩ := p
    have hak : a ≠ k := by intro h; simp [spGet, h] at hm
    have ht : spGet t k = none := by simpa [spGet, hak] using hm
    simp only [spInsert]
    by_cases hlt : k < a
    · simp only [hlt, if_true, spGet]
      by_cases h : j = k
      · simp [h]
      · simp [h, Ne.symm h]
    · simp only [hlt, if_false, spGet, ih ht]
      by_cases h : a = j
      · subst h; simp [hak]
      · simp [h]

/-- What a map holds after a set. -/
theorem spGet_set {α : Type} [DecidableEq α] (d v : α) (m : List (Nat × α)) (k j : Nat) :
    spGet (spSet d m k v) j = if j = k then (if v = d then none else some v) else spGet m j := by
  have he : spGet (spErase m k) k = none := by rw [spGet_erase]; simp
  unfold spSet
  by_cases h : v = d
  · simp only [h, if_true, spGet_erase]
  · simp only [h, if_false, spGet_insert _ _ _ _ he, spGet_erase]
    by_cases hj : j = k <;> simp [hj]

/-- The value at the key that was set. -/
@[simp] theorem spGetD_set_self {α : Type} [DecidableEq α] (d v : α) (m : List (Nat × α)) (k : Nat) :
    spGetD d (spSet d m k v) k = v := by
  by_cases h : v = d <;> simp [spGetD, spGet_set, h]

/-- The value at any other key. -/
theorem spGetD_set_ne {α : Type} [DecidableEq α] (d v : α) (m : List (Nat × α)) {k j : Nat} (h : j ≠ k) :
    spGetD d (spSet d m k v) j = spGetD d m j := by
  simp [spGetD, spGet_set, h]

theorem spSorted_erase {α : Type} (m : List (Nat × α)) (k : Nat) (h : spSorted m = true) : spSorted (spErase m k) = true := by
  induction m with
  | nil => simp [spErase, spSorted]
  | cons p t ih =>
    obtain ⟨a, v⟩ := p
    simp only [spSorted, Bool.and_eq_true] at h
    have iht := ih h.2
    simp only [spErase] at iht ⊢
    by_cases ha : a = k
    · simp [ha]; simpa using iht
    · simp only [List.filter_cons, ne_eq, ha, not_false_iff, decide_true, if_true, spSorted, Bool.and_eq_true]
      refine ⟨?_, iht⟩
      rw [List.all_eq_true] at h ⊢
      intro x hx
      exact h.1 x ((List.mem_filter.1 hx).1)

theorem mem_spInsert {α : Type} (m : List (Nat × α)) (k : Nat) (v : α) (p : Nat × α) :
    p ∈ spInsert m k v ↔ p = (k, v) ∨ p ∈ m := by
  induction m with
  | nil => simp [spInsert]
  | cons q t ih =>
    obtain ⟨a, w⟩ := q
    simp only [spInsert]
    split
    · simp
    · simp only [List.mem_cons, ih, or_left_comm]

theorem spSorted_insert {α : Type} (m : List (Nat × α)) (k : Nat) (v : α) (h : spSorted m = true)
    (hk : spGet m k = none) : spSorted (spInsert m k v) = true := by
  induction m with
  | nil => simp [spInsert, spSorted]
  | cons p t ih =>
    obtain ⟨a, w⟩ := p
    have hak : a ≠ k := by intro e; simp [spGet, e] at hk
    have ht : spGet t k = none := by simpa [spGet, hak] using hk
    simp only [spSorted, Bool.and_eq_true, List.all_eq_true, decide_eq_true_eq] at h
    simp only [spInsert]
    split
    · rename_i hlt
      simp only [spSorted, Bool.and_eq_true, List.all_eq_true, decide_eq_true_eq, List.mem_cons]
      refine ⟨?_, h⟩
      rintro x (rfl | hx)
      · exact hlt
      · exact Nat.lt_trans hlt (h.1 x hx)
    · rename_i hlt
      simp only [spSorted, Bool.and_eq_true, List.all_eq_true, decide_eq_true_eq]
      refine ⟨?_, ih h.2 ht⟩
      intro x hx
      rcases (mem_spInsert t k v x).1 hx with rfl | hx
      · simp; omega
      · exact h.1 x hx

/-- Setting keeps the canonical form: keys strictly rising. -/
theorem spSorted_set {α : Type} [DecidableEq α] (d v : α) (m : List (Nat × α)) (k : Nat) (h : spSorted m = true) :
    spSorted (spSet d m k v) = true := by
  unfold spSet
  split
  · exact spSorted_erase m k h
  · exact spSorted_insert _ _ _ (spSorted_erase m k h) (by rw [spGet_erase]; simp)

/-! ### Memory -/

/-- The empty memory is canonical. -/
@[simp] theorem Memory.wf_nil : Memory.wf [] = true := by simp [Memory.wf, spSorted]

/-- Setting a byte keeps memory's canonical form. -/
theorem Memory.wf_memSet (m : List Host.Cell) (a : Nat) (b : Byte) (h : Memory.wf m = true) :
    Memory.wf (memSet m a b) = true := by
  simp only [Memory.wf, Bool.and_eq_true, List.all_eq_true, decide_eq_true_eq] at h ⊢
  refine ⟨spSorted_set _ _ _ _ h.1, ?_⟩
  intro c hc
  unfold memSet spSet at hc
  split at hc
  · exact h.2 c ((List.mem_filter.1 hc).1)
  · rename_i hb
    rcases (mem_spInsert _ _ _ _).1 hc with rfl | hc
    · exact hb
    · exact h.2 c ((List.mem_filter.1 hc).1)

/-- Storing bytes keeps memory's canonical form. -/
theorem Memory.wf_memStore (n : Nat) : ∀ (m : List Host.Cell) (a v : Nat), Memory.wf m = true →
    Memory.wf (memStore m a v n) = true := by
  induction n with
  | zero => intro m a v h; exact h
  | succ n ih => intro m a v h; exact ih _ _ _ (Memory.wf_memSet _ _ _ h)

/-- The byte at the address that was set, and at any other. -/
@[simp] theorem byte_setByte_self (s : State) (a : Nat) (b : Byte) : (s.setByte a b).byte a = b := by
  simp [State.byte, State.setByte, memSet]
theorem byte_setByte_ne (s : State) {a c : Nat} (b : Byte) (h : c ≠ a) : (s.setByte a b).byte c = s.byte c := by
  simp [State.byte, State.setByte, memSet, spGetD_set_ne _ _ _ h]

/-- A store leaves every byte outside it. -/
theorem byte_store_ne (n : Nat) : ∀ (s : State) (a v c : Nat), (c < a ∨ a + n ≤ c) → (s.store a v n).byte c = s.byte c := by
  induction n with
  | zero => intro s a v c _; rfl
  | succ n ih =>
    intro s a v c h
    have := ih (s.setByte a (BitVec.ofNat 8 v)) (a + 1) (v / 256) c (by omega)
    simp only [State.store, memStore, State.setByte] at this ⊢
    rw [this]
    exact byte_setByte_ne s _ (by omega)

/-- The bytes that a store wrote, read back. -/
theorem load_store (n : Nat) : ∀ (s : State) (a v : Nat), (s.store a v n).load a n = v % 256 ^ n := by
  induction n with
  | zero => intro s a v; simp [State.load, Nat.mod_one]
  | succ n ih =>
    intro s a v
    have h1 : (s.store a v (n + 1)) = ((s.setByte a (BitVec.ofNat 8 v)).store (a + 1) (v / 256) n) := rfl
    have h2 : ((s.setByte a (BitVec.ofNat 8 v)).store (a + 1) (v / 256) n).byte a = BitVec.ofNat 8 v := by
      rw [byte_store_ne n _ _ _ _ (by omega)]; simp
    simp only [State.load, h1, h2, ih, BitVec.toNat_ofNat]
    have e : 256 ^ (n + 1) = 256 * 256 ^ n := by rw [Nat.pow_succ, Nat.mul_comm]
    rw [e, Nat.mod_mul]

end Sys2Proof.Machine
end

