-- ==== Sys2Proof/Laws/Regs.lean ====
section
/-!
SUPPORT. Sys2Proof/Laws/Regs.lean: the laws of registers and fields: what a register holds after a write, and what a field holds
after a write of it or of another field.
-/

namespace Sys2Proof.Machine

/-! ### Registers -/

@[simp] theorem rd_wr_self (s : State) (o : Nat) (v : Word) : (s.wr o v).rd o = v := by
  by_cases h : v = resetVal o <;> simp [State.rd, State.wr, spGet_set, h]

theorem rd_wr_ne (s : State) (v : Word) {o j : Nat} (h : j ≠ o) : (s.wr o v).rd j = s.rd j := by
  simp [State.rd, State.wr, spGet_set, h]

theorem rd_wr (s : State) (v : Word) (o j : Nat) : (s.wr o v).rd j = if j = o then v else s.rd j := by
  by_cases h : j = o
  · subst h; simp
  · simp [h, rd_wr_ne s v h]

/-- Registers are read from `regs` alone. -/
theorem rd_congr {s t : State} (h : t.regs = s.regs) (o : Nat) : t.rd o = s.rd o := by simp [State.rd, h]

/-! ### Fields -/

/-- A field inside a word. -/
abbrev Fld.wf (f : Fld) : Prop := f.lo ≤ f.hi ∧ f.hi < 32

/-- No bit of one field is a bit of the other. -/
abbrev Fld.apart (f g : Fld) : Prop := f.hi < g.lo ∨ g.hi < f.lo

theorem testBit_fget (w : Word) (f : Fld) (i : Nat) :
    (fget w f).testBit i = (decide (i < f.hi + 1 - f.lo) && w.toNat.testBit (f.lo + i)) := by
  simp [fget, Nat.testBit_mod_two_pow, Nat.testBit_shiftRight]

theorem toNat_fset (w : Word) (f : Fld) (v : Nat) (h : f.wf) :
    (fset w f v).toNat = 2 ^ f.lo * (2 ^ (f.hi + 1 - f.lo) * (w.toNat / 2 ^ f.lo / 2 ^ (f.hi + 1 - f.lo))
      + v % 2 ^ (f.hi + 1 - f.lo)) + w.toNat % 2 ^ f.lo := by
  obtain ⟨h1, h2⟩ := h
  have hw : w.toNat < 2 ^ 32 := w.isLt
  generalize hk : f.hi + 1 - f.lo = k
  have e32 : 2 ^ 32 = 2 ^ f.lo * (2 ^ k * 2 ^ (31 - f.hi)) := by
    rw [← Nat.pow_add, ← Nat.pow_add]; congr 1; omega
  have a1 : w.toNat = 2 ^ f.lo * (w.toNat / 2 ^ f.lo) + w.toNat % 2 ^ f.lo := (Nat.div_add_mod _ _).symm
  have a2 : w.toNat / 2 ^ f.lo = 2 ^ k * (w.toNat / 2 ^ f.lo / 2 ^ k) + w.toNat / 2 ^ f.lo % 2 ^ k :=
    (Nat.div_add_mod _ _).symm
  have hq : w.toNat / 2 ^ f.lo / 2 ^ k < 2 ^ (31 - f.hi) := by
    rw [Nat.div_lt_iff_lt_mul (Nat.two_pow_pos _), Nat.div_lt_iff_lt_mul (Nat.two_pow_pos _)]
    calc w.toNat < 2 ^ 32 := hw
      _ = 2 ^ (31 - f.hi) * 2 ^ k * 2 ^ f.lo := by rw [e32]; ac_rfl
  have hm : w.toNat % 2 ^ f.lo < 2 ^ f.lo := Nat.mod_lt _ (Nat.two_pow_pos _)
  have hv : v % 2 ^ k < 2 ^ k := Nat.mod_lt _ (Nat.two_pow_pos _)
  simp only [fset, fget, word, BitVec.toNat_ofNat, Nat.shiftRight_eq_div_pow, hk]
  generalize w.toNat / 2 ^ f.lo / 2 ^ k = q at *
  generalize w.toNat / 2 ^ f.lo = p at *
  generalize w.toNat % 2 ^ f.lo = r at *
  generalize v % 2 ^ k = x at *
  generalize p % 2 ^ k = y at *
  generalize w.toNat = W at *
  have hsub : W - y * 2 ^ f.lo = 2 ^ f.lo * (2 ^ k * q) + r := by
    rw [a1, a2, Nat.mul_add, Nat.mul_comm y]; omega
  rw [hsub]
  have hsum : 2 ^ f.lo * (2 ^ k * q) + r + x * 2 ^ f.lo = 2 ^ f.lo * (2 ^ k * q + x) + r := by
    rw [Nat.mul_add, Nat.mul_comm x]; omega
  rw [hsum]
  apply Nat.mod_eq_of_lt
  rw [e32]
  have b1 : 2 ^ k * q + x < 2 ^ k * 2 ^ (31 - f.hi) := by
    calc 2 ^ k * q + x < 2 ^ k * q + 2 ^ k := by omega
      _ = 2 ^ k * (q + 1) := by rw [Nat.mul_add, Nat.mul_one]
      _ ≤ 2 ^ k * 2 ^ (31 - f.hi) := Nat.mul_le_mul_left _ hq
  calc 2 ^ f.lo * (2 ^ k * q + x) + r < 2 ^ f.lo * (2 ^ k * q + x) + 2 ^ f.lo := by omega
    _ = 2 ^ f.lo * (2 ^ k * q + x + 1) := by rw [Nat.mul_add _ _ 1, Nat.mul_one]
    _ ≤ 2 ^ f.lo * (2 ^ k * 2 ^ (31 - f.hi)) := Nat.mul_le_mul_left _ b1

theorem testBit_fset (w : Word) (f : Fld) (v i : Nat) (h : f.wf) :
    (fset w f v).toNat.testBit i
      = if f.lo ≤ i ∧ i ≤ f.hi then v.testBit (i - f.lo) else w.toNat.testBit i := by
  rw [toNat_fset w f v h, Nat.testBit_two_pow_mul_add _ (Nat.mod_lt _ (Nat.two_pow_pos _))]
  obtain ⟨h1, h2⟩ := h
  by_cases a : i < f.lo
  · have : ¬ (f.lo ≤ i ∧ i ≤ f.hi) := by omega
    simp [a, this, Nat.testBit_mod_two_pow]
  · simp only [a, if_false]
    rw [Nat.testBit_two_pow_mul_add _ (Nat.mod_lt _ (Nat.two_pow_pos _))]
    by_cases b : i ≤ f.hi
    · have c : i - f.lo < f.hi + 1 - f.lo := by omega
      have d : f.lo ≤ i ∧ i ≤ f.hi := by omega
      simp [c, d, Nat.testBit_mod_two_pow]
    · have c : ¬ i - f.lo < f.hi + 1 - f.lo := by omega
      have d : ¬ (f.lo ≤ i ∧ i ≤ f.hi) := by omega
      have e : i - f.lo - (f.hi + 1 - f.lo) + (f.hi + 1 - f.lo) + f.lo = i := by omega
      simp [c, d, Nat.testBit_div_two_pow, e]

/-- A field that was written holds the low bits of the value. -/
theorem fget_fset (w : Word) (f : Fld) (v : Nat) (h : f.wf) : fget (fset w f v) f = v % 2 ^ (f.hi + 1 - f.lo) := by
  apply Nat.eq_of_testBit_eq
  intro i
  rw [testBit_fget, testBit_fset w f v _ h, Nat.testBit_mod_two_pow]
  by_cases a : i < f.hi + 1 - f.lo
  · have : f.lo ≤ f.lo + i ∧ f.lo + i ≤ f.hi := by omega
    simp [a, this]
  · simp [a]

/-- A field apart from the one that was written holds what it held. -/
theorem fget_fset_apart (w : Word) (f g : Fld) (v : Nat) (h : f.wf) (ha : f.apart g) :
    fget (fset w f v) g = fget w g := by
  apply Nat.eq_of_testBit_eq
  intro i
  rw [testBit_fget, testBit_fget, testBit_fset w f v _ h]
  unfold Fld.apart at ha
  by_cases a : i < g.hi + 1 - g.lo
  · have : ¬ (f.lo ≤ g.lo + i ∧ g.lo + i ≤ f.hi) := by omega
    simp [a, this]
  · simp [a]

/-- A field's value fits its width. -/
theorem fget_lt (w : Word) (f : Fld) : fget w f < 2 ^ (f.hi + 1 - f.lo) := Nat.mod_lt _ (Nat.two_pow_pos _)

theorem rd_wf (s : State) (o : Nat) (f : Fld) (v j : Nat) :
    (s.wf o f v).rd j = if j = o then fset (s.rd o) f v else s.rd j := rd_wr s _ o j

/-- The field written. -/
theorem rf_wf_self (s : State) (o : Nat) (f : Fld) (v : Nat) (h : f.wf) :
    (s.wf o f v).rf o f = v % 2 ^ (f.hi + 1 - f.lo) := by
  simp [State.rf, rd_wf, fget_fset _ _ _ h]

/-- Another field of the register. -/
theorem rf_wf_apart (s : State) (o : Nat) (f g : Fld) (v : Nat) (h : f.wf) (ha : f.apart g) :
    (s.wf o f v).rf o g = s.rf o g := by
  simp [State.rf, rd_wf, fget_fset_apart _ _ _ _ h ha]

/-- A field of another register. -/
theorem rf_wf_ne (s : State) (o j : Nat) (f g : Fld) (v : Nat) (h : j ≠ o) : (s.wf o f v).rf j g = s.rf j g := by
  simp [State.rf, rd_wf, h]

theorem rf_wr_self (s : State) (o : Nat) (w : Word) (g : Fld) : (s.wr o w).rf o g = fget w g := by simp [State.rf]

theorem rf_wr_ne (s : State) (o j : Nat) (w : Word) (g : Fld) (h : j ≠ o) : (s.wr o w).rf j g = s.rf j g := by
  simp [State.rf, rd_wr_ne s w h]

end Sys2Proof.Machine
end

