-- ==== Sys2Proof/Laws/State.lean ====
section
/-!
SUPPORT. Sys2Proof/Laws/State.lean: what each named update of the state leaves alone, one lemma per field per update; and what
reads through an update that leaves the registers alone.
-/

namespace Sys2Proof.Machine

/-! ### wr -/

@[simp] theorem wr_mem (s : State) (o : Nat) (v : Word) : (s.wr o v).mem = s.mem := (rfl)
@[simp] theorem wr_now (s : State) (o : Nat) (v : Word) : (s.wr o v).now = s.now := (rfl)
@[simp] theorem wr_fresh (s : State) (o : Nat) (v : Word) : (s.wr o v).fresh = s.fresh := (rfl)
@[simp] theorem wr_resp (s : State) (o : Nat) (v : Word) : (s.wr o v).resp = s.resp := (rfl)
@[simp] theorem wr_out (s : State) (o : Nat) (v : Word) : (s.wr o v).out = s.out := (rfl)
@[simp] theorem wr_sys (s : State) (o : Nat) (v : Word) : (s.wr o v).sys = s.sys := (rfl)
@[simp] theorem wr_kenul (s : State) (o : Nat) (v : Word) : (s.wr o v).kenul = s.kenul := (rfl)
@[simp] theorem wr_slotA (s : State) (o : Nat) (v : Word) : (s.wr o v).slotA = s.slotA := (rfl)
@[simp] theorem wr_slotB (s : State) (o : Nat) (v : Word) : (s.wr o v).slotB = s.slotB := (rfl)
@[simp] theorem wr_tgt (s : State) (o : Nat) (v : Word) : (s.wr o v).tgt = s.tgt := (rfl)
@[simp] theorem wr_crn (s : State) (o : Nat) (v : Word) : (s.wr o v).crn = s.crn := (rfl)
@[simp] theorem wr_patchQueue (s : State) (o : Nat) (v : Word) : (s.wr o v).patchQueue = s.patchQueue := (rfl)
@[simp] theorem wr_hpA (s : State) (o : Nat) (v : Word) : (s.wr o v).hpA = s.hpA := (rfl)
@[simp] theorem wr_hpB (s : State) (o : Nat) (v : Word) : (s.wr o v).hpB = s.hpB := (rfl)
@[simp] theorem wr_sb (s : State) (o : Nat) (v : Word) : (s.wr o v).sb = s.sb := (rfl)
@[simp] theorem wr_cmd (s : State) (o : Nat) (v : Word) : (s.wr o v).cmd = s.cmd := (rfl)
@[simp] theorem wr_way (s : State) (o : Nat) (v : Word) : (s.wr o v).way = s.way := (rfl)
@[simp] theorem wr_sigEvents (s : State) (o : Nat) (v : Word) : (s.wr o v).sigEvents = s.sigEvents := (rfl)
@[simp] theorem wr_lode (s : State) (o : Nat) (v : Word) : (s.wr o v).lode = s.lode := (rfl)
@[simp] theorem wr_qry (s : State) (o : Nat) (v : Word) : (s.wr o v).qry = s.qry := (rfl)
@[simp] theorem wr_bed (s : State) (o : Nat) (v : Word) : (s.wr o v).bed = s.bed := (rfl)
@[simp] theorem wr_trn (s : State) (o : Nat) (v : Word) : (s.wr o v).trn = s.trn := (rfl)
@[simp] theorem wr_pair (s : State) (o : Nat) (v : Word) : (s.wr o v).pair = s.pair := (rfl)
@[simp] theorem wr_bas (s : State) (o : Nat) (v : Word) : (s.wr o v).bas = s.bas := (rfl)
@[simp] theorem wr_acts (s : State) (o : Nat) (v : Word) : (s.wr o v).acts = s.acts := (rfl)
@[simp] theorem wr_mil (s : State) (o : Nat) (v : Word) : (s.wr o v).mil = s.mil := (rfl)
@[simp] theorem wr_bls (s : State) (o : Nat) (v : Word) : (s.wr o v).bls = s.bls := (rfl)
@[simp] theorem wr_obs (s : State) (o : Nat) (v : Word) : (s.wr o v).obs = s.obs := (rfl)
@[simp] theorem wr_car (s : State) (o : Nat) (v : Word) : (s.wr o v).car = s.car := (rfl)
@[simp] theorem wr_csw (s : State) (o : Nat) (v : Word) : (s.wr o v).csw = s.csw := (rfl)
@[simp] theorem wr_str (s : State) (o : Nat) (v : Word) : (s.wr o v).str = s.str := (rfl)
@[simp] theorem wr_keyRam (s : State) (o : Nat) (v : Word) : (s.wr o v).keyRam = s.keyRam := (rfl)
@[simp] theorem wr_crossHeld (s : State) (o : Nat) (v : Word) : (s.wr o v).crossHeld = s.crossHeld := (rfl)
@[simp] theorem wr_resv (s : State) (o : Nat) (v : Word) : (s.wr o v).resv = s.resv := (rfl)
@[simp] theorem wr_pending (s : State) (o : Nat) (v : Word) : (s.wr o v).pending = s.pending := (rfl)

/-! ### wf -/

@[simp] theorem wf_mem (s : State) (o : Nat) (f : Fld) (v : Nat) : (s.wf o f v).mem = s.mem := (rfl)
@[simp] theorem wf_now (s : State) (o : Nat) (f : Fld) (v : Nat) : (s.wf o f v).now = s.now := (rfl)
@[simp] theorem wf_fresh (s : State) (o : Nat) (f : Fld) (v : Nat) : (s.wf o f v).fresh = s.fresh := (rfl)
@[simp] theorem wf_resp (s : State) (o : Nat) (f : Fld) (v : Nat) : (s.wf o f v).resp = s.resp := (rfl)
@[simp] theorem wf_out (s : State) (o : Nat) (f : Fld) (v : Nat) : (s.wf o f v).out = s.out := (rfl)
@[simp] theorem wf_sys (s : State) (o : Nat) (f : Fld) (v : Nat) : (s.wf o f v).sys = s.sys := (rfl)
@[simp] theorem wf_kenul (s : State) (o : Nat) (f : Fld) (v : Nat) : (s.wf o f v).kenul = s.kenul := (rfl)
@[simp] theorem wf_slotA (s : State) (o : Nat) (f : Fld) (v : Nat) : (s.wf o f v).slotA = s.slotA := (rfl)
@[simp] theorem wf_slotB (s : State) (o : Nat) (f : Fld) (v : Nat) : (s.wf o f v).slotB = s.slotB := (rfl)
@[simp] theorem wf_tgt (s : State) (o : Nat) (f : Fld) (v : Nat) : (s.wf o f v).tgt = s.tgt := (rfl)
@[simp] theorem wf_crn (s : State) (o : Nat) (f : Fld) (v : Nat) : (s.wf o f v).crn = s.crn := (rfl)
@[simp] theorem wf_patchQueue (s : State) (o : Nat) (f : Fld) (v : Nat) : (s.wf o f v).patchQueue = s.patchQueue := (rfl)
@[simp] theorem wf_hpA (s : State) (o : Nat) (f : Fld) (v : Nat) : (s.wf o f v).hpA = s.hpA := (rfl)
@[simp] theorem wf_hpB (s : State) (o : Nat) (f : Fld) (v : Nat) : (s.wf o f v).hpB = s.hpB := (rfl)
@[simp] theorem wf_sb (s : State) (o : Nat) (f : Fld) (v : Nat) : (s.wf o f v).sb = s.sb := (rfl)
@[simp] theorem wf_cmd (s : State) (o : Nat) (f : Fld) (v : Nat) : (s.wf o f v).cmd = s.cmd := (rfl)
@[simp] theorem wf_way (s : State) (o : Nat) (f : Fld) (v : Nat) : (s.wf o f v).way = s.way := (rfl)
@[simp] theorem wf_sigEvents (s : State) (o : Nat) (f : Fld) (v : Nat) : (s.wf o f v).sigEvents = s.sigEvents := (rfl)
@[simp] theorem wf_lode (s : State) (o : Nat) (f : Fld) (v : Nat) : (s.wf o f v).lode = s.lode := (rfl)
@[simp] theorem wf_qry (s : State) (o : Nat) (f : Fld) (v : Nat) : (s.wf o f v).qry = s.qry := (rfl)
@[simp] theorem wf_bed (s : State) (o : Nat) (f : Fld) (v : Nat) : (s.wf o f v).bed = s.bed := (rfl)
@[simp] theorem wf_trn (s : State) (o : Nat) (f : Fld) (v : Nat) : (s.wf o f v).trn = s.trn := (rfl)
@[simp] theorem wf_pair (s : State) (o : Nat) (f : Fld) (v : Nat) : (s.wf o f v).pair = s.pair := (rfl)
@[simp] theorem wf_bas (s : State) (o : Nat) (f : Fld) (v : Nat) : (s.wf o f v).bas = s.bas := (rfl)
@[simp] theorem wf_acts (s : State) (o : Nat) (f : Fld) (v : Nat) : (s.wf o f v).acts = s.acts := (rfl)
@[simp] theorem wf_mil (s : State) (o : Nat) (f : Fld) (v : Nat) : (s.wf o f v).mil = s.mil := (rfl)
@[simp] theorem wf_bls (s : State) (o : Nat) (f : Fld) (v : Nat) : (s.wf o f v).bls = s.bls := (rfl)
@[simp] theorem wf_obs (s : State) (o : Nat) (f : Fld) (v : Nat) : (s.wf o f v).obs = s.obs := (rfl)
@[simp] theorem wf_car (s : State) (o : Nat) (f : Fld) (v : Nat) : (s.wf o f v).car = s.car := (rfl)
@[simp] theorem wf_csw (s : State) (o : Nat) (f : Fld) (v : Nat) : (s.wf o f v).csw = s.csw := (rfl)
@[simp] theorem wf_str (s : State) (o : Nat) (f : Fld) (v : Nat) : (s.wf o f v).str = s.str := (rfl)
@[simp] theorem wf_keyRam (s : State) (o : Nat) (f : Fld) (v : Nat) : (s.wf o f v).keyRam = s.keyRam := (rfl)
@[simp] theorem wf_crossHeld (s : State) (o : Nat) (f : Fld) (v : Nat) : (s.wf o f v).crossHeld = s.crossHeld := (rfl)
@[simp] theorem wf_resv (s : State) (o : Nat) (f : Fld) (v : Nat) : (s.wf o f v).resv = s.resv := (rfl)
@[simp] theorem wf_pending (s : State) (o : Nat) (f : Fld) (v : Nat) : (s.wf o f v).pending = s.pending := (rfl)

/-! ### orReg -/

@[simp] theorem orReg_mem (s : State) (o m : Nat) : (s.orReg o m).mem = s.mem := (rfl)
@[simp] theorem orReg_now (s : State) (o m : Nat) : (s.orReg o m).now = s.now := (rfl)
@[simp] theorem orReg_fresh (s : State) (o m : Nat) : (s.orReg o m).fresh = s.fresh := (rfl)
@[simp] theorem orReg_resp (s : State) (o m : Nat) : (s.orReg o m).resp = s.resp := (rfl)
@[simp] theorem orReg_out (s : State) (o m : Nat) : (s.orReg o m).out = s.out := (rfl)
@[simp] theorem orReg_sys (s : State) (o m : Nat) : (s.orReg o m).sys = s.sys := (rfl)
@[simp] theorem orReg_kenul (s : State) (o m : Nat) : (s.orReg o m).kenul = s.kenul := (rfl)
@[simp] theorem orReg_slotA (s : State) (o m : Nat) : (s.orReg o m).slotA = s.slotA := (rfl)
@[simp] theorem orReg_slotB (s : State) (o m : Nat) : (s.orReg o m).slotB = s.slotB := (rfl)
@[simp] theorem orReg_tgt (s : State) (o m : Nat) : (s.orReg o m).tgt = s.tgt := (rfl)
@[simp] theorem orReg_crn (s : State) (o m : Nat) : (s.orReg o m).crn = s.crn := (rfl)
@[simp] theorem orReg_patchQueue (s : State) (o m : Nat) : (s.orReg o m).patchQueue = s.patchQueue := (rfl)
@[simp] theorem orReg_hpA (s : State) (o m : Nat) : (s.orReg o m).hpA = s.hpA := (rfl)
@[simp] theorem orReg_hpB (s : State) (o m : Nat) : (s.orReg o m).hpB = s.hpB := (rfl)
@[simp] theorem orReg_sb (s : State) (o m : Nat) : (s.orReg o m).sb = s.sb := (rfl)
@[simp] theorem orReg_cmd (s : State) (o m : Nat) : (s.orReg o m).cmd = s.cmd := (rfl)
@[simp] theorem orReg_way (s : State) (o m : Nat) : (s.orReg o m).way = s.way := (rfl)
@[simp] theorem orReg_sigEvents (s : State) (o m : Nat) : (s.orReg o m).sigEvents = s.sigEvents := (rfl)
@[simp] theorem orReg_lode (s : State) (o m : Nat) : (s.orReg o m).lode = s.lode := (rfl)
@[simp] theorem orReg_qry (s : State) (o m : Nat) : (s.orReg o m).qry = s.qry := (rfl)
@[simp] theorem orReg_bed (s : State) (o m : Nat) : (s.orReg o m).bed = s.bed := (rfl)
@[simp] theorem orReg_trn (s : State) (o m : Nat) : (s.orReg o m).trn = s.trn := (rfl)
@[simp] theorem orReg_pair (s : State) (o m : Nat) : (s.orReg o m).pair = s.pair := (rfl)
@[simp] theorem orReg_bas (s : State) (o m : Nat) : (s.orReg o m).bas = s.bas := (rfl)
@[simp] theorem orReg_acts (s : State) (o m : Nat) : (s.orReg o m).acts = s.acts := (rfl)
@[simp] theorem orReg_mil (s : State) (o m : Nat) : (s.orReg o m).mil = s.mil := (rfl)
@[simp] theorem orReg_bls (s : State) (o m : Nat) : (s.orReg o m).bls = s.bls := (rfl)
@[simp] theorem orReg_obs (s : State) (o m : Nat) : (s.orReg o m).obs = s.obs := (rfl)
@[simp] theorem orReg_car (s : State) (o m : Nat) : (s.orReg o m).car = s.car := (rfl)
@[simp] theorem orReg_csw (s : State) (o m : Nat) : (s.orReg o m).csw = s.csw := (rfl)
@[simp] theorem orReg_str (s : State) (o m : Nat) : (s.orReg o m).str = s.str := (rfl)
@[simp] theorem orReg_keyRam (s : State) (o m : Nat) : (s.orReg o m).keyRam = s.keyRam := (rfl)
@[simp] theorem orReg_crossHeld (s : State) (o m : Nat) : (s.orReg o m).crossHeld = s.crossHeld := (rfl)
@[simp] theorem orReg_resv (s : State) (o m : Nat) : (s.orReg o m).resv = s.resv := (rfl)
@[simp] theorem orReg_pending (s : State) (o m : Nat) : (s.orReg o m).pending = s.pending := (rfl)

/-! ### raise -/

@[simp] theorem raise_mem (s : State) (o : Nat) (f : Fld) : (s.raise o f).mem = s.mem := (rfl)
@[simp] theorem raise_now (s : State) (o : Nat) (f : Fld) : (s.raise o f).now = s.now := (rfl)
@[simp] theorem raise_fresh (s : State) (o : Nat) (f : Fld) : (s.raise o f).fresh = s.fresh := (rfl)
@[simp] theorem raise_resp (s : State) (o : Nat) (f : Fld) : (s.raise o f).resp = s.resp := (rfl)
@[simp] theorem raise_out (s : State) (o : Nat) (f : Fld) : (s.raise o f).out = s.out := (rfl)
@[simp] theorem raise_sys (s : State) (o : Nat) (f : Fld) : (s.raise o f).sys = s.sys := (rfl)
@[simp] theorem raise_kenul (s : State) (o : Nat) (f : Fld) : (s.raise o f).kenul = s.kenul := (rfl)
@[simp] theorem raise_slotA (s : State) (o : Nat) (f : Fld) : (s.raise o f).slotA = s.slotA := (rfl)
@[simp] theorem raise_slotB (s : State) (o : Nat) (f : Fld) : (s.raise o f).slotB = s.slotB := (rfl)
@[simp] theorem raise_tgt (s : State) (o : Nat) (f : Fld) : (s.raise o f).tgt = s.tgt := (rfl)
@[simp] theorem raise_crn (s : State) (o : Nat) (f : Fld) : (s.raise o f).crn = s.crn := (rfl)
@[simp] theorem raise_patchQueue (s : State) (o : Nat) (f : Fld) : (s.raise o f).patchQueue = s.patchQueue := (rfl)
@[simp] theorem raise_hpA (s : State) (o : Nat) (f : Fld) : (s.raise o f).hpA = s.hpA := (rfl)
@[simp] theorem raise_hpB (s : State) (o : Nat) (f : Fld) : (s.raise o f).hpB = s.hpB := (rfl)
@[simp] theorem raise_sb (s : State) (o : Nat) (f : Fld) : (s.raise o f).sb = s.sb := (rfl)
@[simp] theorem raise_cmd (s : State) (o : Nat) (f : Fld) : (s.raise o f).cmd = s.cmd := (rfl)
@[simp] theorem raise_way (s : State) (o : Nat) (f : Fld) : (s.raise o f).way = s.way := (rfl)
@[simp] theorem raise_sigEvents (s : State) (o : Nat) (f : Fld) : (s.raise o f).sigEvents = s.sigEvents := (rfl)
@[simp] theorem raise_lode (s : State) (o : Nat) (f : Fld) : (s.raise o f).lode = s.lode := (rfl)
@[simp] theorem raise_qry (s : State) (o : Nat) (f : Fld) : (s.raise o f).qry = s.qry := (rfl)
@[simp] theorem raise_bed (s : State) (o : Nat) (f : Fld) : (s.raise o f).bed = s.bed := (rfl)
@[simp] theorem raise_trn (s : State) (o : Nat) (f : Fld) : (s.raise o f).trn = s.trn := (rfl)
@[simp] theorem raise_pair (s : State) (o : Nat) (f : Fld) : (s.raise o f).pair = s.pair := (rfl)
@[simp] theorem raise_bas (s : State) (o : Nat) (f : Fld) : (s.raise o f).bas = s.bas := (rfl)
@[simp] theorem raise_acts (s : State) (o : Nat) (f : Fld) : (s.raise o f).acts = s.acts := (rfl)
@[simp] theorem raise_mil (s : State) (o : Nat) (f : Fld) : (s.raise o f).mil = s.mil := (rfl)
@[simp] theorem raise_bls (s : State) (o : Nat) (f : Fld) : (s.raise o f).bls = s.bls := (rfl)
@[simp] theorem raise_obs (s : State) (o : Nat) (f : Fld) : (s.raise o f).obs = s.obs := (rfl)
@[simp] theorem raise_car (s : State) (o : Nat) (f : Fld) : (s.raise o f).car = s.car := (rfl)
@[simp] theorem raise_csw (s : State) (o : Nat) (f : Fld) : (s.raise o f).csw = s.csw := (rfl)
@[simp] theorem raise_str (s : State) (o : Nat) (f : Fld) : (s.raise o f).str = s.str := (rfl)
@[simp] theorem raise_keyRam (s : State) (o : Nat) (f : Fld) : (s.raise o f).keyRam = s.keyRam := (rfl)
@[simp] theorem raise_crossHeld (s : State) (o : Nat) (f : Fld) : (s.raise o f).crossHeld = s.crossHeld := (rfl)
@[simp] theorem raise_resv (s : State) (o : Nat) (f : Fld) : (s.raise o f).resv = s.resv := (rfl)
@[simp] theorem raise_pending (s : State) (o : Nat) (f : Fld) : (s.raise o f).pending = s.pending := (rfl)

/-! ### countUp -/

@[simp] theorem countUp_mem (s : State) (o : Nat) (f : Fld) (n : Nat) : (s.countUp o f n).mem = s.mem := (rfl)
@[simp] theorem countUp_now (s : State) (o : Nat) (f : Fld) (n : Nat) : (s.countUp o f n).now = s.now := (rfl)
@[simp] theorem countUp_fresh (s : State) (o : Nat) (f : Fld) (n : Nat) : (s.countUp o f n).fresh = s.fresh := (rfl)
@[simp] theorem countUp_resp (s : State) (o : Nat) (f : Fld) (n : Nat) : (s.countUp o f n).resp = s.resp := (rfl)
@[simp] theorem countUp_out (s : State) (o : Nat) (f : Fld) (n : Nat) : (s.countUp o f n).out = s.out := (rfl)
@[simp] theorem countUp_sys (s : State) (o : Nat) (f : Fld) (n : Nat) : (s.countUp o f n).sys = s.sys := (rfl)
@[simp] theorem countUp_kenul (s : State) (o : Nat) (f : Fld) (n : Nat) : (s.countUp o f n).kenul = s.kenul := (rfl)
@[simp] theorem countUp_slotA (s : State) (o : Nat) (f : Fld) (n : Nat) : (s.countUp o f n).slotA = s.slotA := (rfl)
@[simp] theorem countUp_slotB (s : State) (o : Nat) (f : Fld) (n : Nat) : (s.countUp o f n).slotB = s.slotB := (rfl)
@[simp] theorem countUp_tgt (s : State) (o : Nat) (f : Fld) (n : Nat) : (s.countUp o f n).tgt = s.tgt := (rfl)
@[simp] theorem countUp_crn (s : State) (o : Nat) (f : Fld) (n : Nat) : (s.countUp o f n).crn = s.crn := (rfl)
@[simp] theorem countUp_patchQueue (s : State) (o : Nat) (f : Fld) (n : Nat) : (s.countUp o f n).patchQueue = s.patchQueue := (rfl)
@[simp] theorem countUp_hpA (s : State) (o : Nat) (f : Fld) (n : Nat) : (s.countUp o f n).hpA = s.hpA := (rfl)
@[simp] theorem countUp_hpB (s : State) (o : Nat) (f : Fld) (n : Nat) : (s.countUp o f n).hpB = s.hpB := (rfl)
@[simp] theorem countUp_sb (s : State) (o : Nat) (f : Fld) (n : Nat) : (s.countUp o f n).sb = s.sb := (rfl)
@[simp] theorem countUp_cmd (s : State) (o : Nat) (f : Fld) (n : Nat) : (s.countUp o f n).cmd = s.cmd := (rfl)
@[simp] theorem countUp_way (s : State) (o : Nat) (f : Fld) (n : Nat) : (s.countUp o f n).way = s.way := (rfl)
@[simp] theorem countUp_sigEvents (s : State) (o : Nat) (f : Fld) (n : Nat) : (s.countUp o f n).sigEvents = s.sigEvents := (rfl)
@[simp] theorem countUp_lode (s : State) (o : Nat) (f : Fld) (n : Nat) : (s.countUp o f n).lode = s.lode := (rfl)
@[simp] theorem countUp_qry (s : State) (o : Nat) (f : Fld) (n : Nat) : (s.countUp o f n).qry = s.qry := (rfl)
@[simp] theorem countUp_bed (s : State) (o : Nat) (f : Fld) (n : Nat) : (s.countUp o f n).bed = s.bed := (rfl)
@[simp] theorem countUp_trn (s : State) (o : Nat) (f : Fld) (n : Nat) : (s.countUp o f n).trn = s.trn := (rfl)
@[simp] theorem countUp_pair (s : State) (o : Nat) (f : Fld) (n : Nat) : (s.countUp o f n).pair = s.pair := (rfl)
@[simp] theorem countUp_bas (s : State) (o : Nat) (f : Fld) (n : Nat) : (s.countUp o f n).bas = s.bas := (rfl)
@[simp] theorem countUp_acts (s : State) (o : Nat) (f : Fld) (n : Nat) : (s.countUp o f n).acts = s.acts := (rfl)
@[simp] theorem countUp_mil (s : State) (o : Nat) (f : Fld) (n : Nat) : (s.countUp o f n).mil = s.mil := (rfl)
@[simp] theorem countUp_bls (s : State) (o : Nat) (f : Fld) (n : Nat) : (s.countUp o f n).bls = s.bls := (rfl)
@[simp] theorem countUp_obs (s : State) (o : Nat) (f : Fld) (n : Nat) : (s.countUp o f n).obs = s.obs := (rfl)
@[simp] theorem countUp_car (s : State) (o : Nat) (f : Fld) (n : Nat) : (s.countUp o f n).car = s.car := (rfl)
@[simp] theorem countUp_csw (s : State) (o : Nat) (f : Fld) (n : Nat) : (s.countUp o f n).csw = s.csw := (rfl)
@[simp] theorem countUp_str (s : State) (o : Nat) (f : Fld) (n : Nat) : (s.countUp o f n).str = s.str := (rfl)
@[simp] theorem countUp_keyRam (s : State) (o : Nat) (f : Fld) (n : Nat) : (s.countUp o f n).keyRam = s.keyRam := (rfl)
@[simp] theorem countUp_crossHeld (s : State) (o : Nat) (f : Fld) (n : Nat) : (s.countUp o f n).crossHeld = s.crossHeld := (rfl)
@[simp] theorem countUp_resv (s : State) (o : Nat) (f : Fld) (n : Nat) : (s.countUp o f n).resv = s.resv := (rfl)
@[simp] theorem countUp_pending (s : State) (o : Nat) (f : Fld) (n : Nat) : (s.countUp o f n).pending = s.pending := (rfl)

/-! ### emit -/

@[simp] theorem emit_regs (s : State) (x : Out) : (s.emit x).regs = s.regs := (rfl)
@[simp] theorem emit_mem (s : State) (x : Out) : (s.emit x).mem = s.mem := (rfl)
@[simp] theorem emit_now (s : State) (x : Out) : (s.emit x).now = s.now := (rfl)
@[simp] theorem emit_fresh (s : State) (x : Out) : (s.emit x).fresh = s.fresh := (rfl)
@[simp] theorem emit_resp (s : State) (x : Out) : (s.emit x).resp = s.resp := (rfl)
@[simp] theorem emit_sys (s : State) (x : Out) : (s.emit x).sys = s.sys := (rfl)
@[simp] theorem emit_kenul (s : State) (x : Out) : (s.emit x).kenul = s.kenul := (rfl)
@[simp] theorem emit_slotA (s : State) (x : Out) : (s.emit x).slotA = s.slotA := (rfl)
@[simp] theorem emit_slotB (s : State) (x : Out) : (s.emit x).slotB = s.slotB := (rfl)
@[simp] theorem emit_tgt (s : State) (x : Out) : (s.emit x).tgt = s.tgt := (rfl)
@[simp] theorem emit_crn (s : State) (x : Out) : (s.emit x).crn = s.crn := (rfl)
@[simp] theorem emit_patchQueue (s : State) (x : Out) : (s.emit x).patchQueue = s.patchQueue := (rfl)
@[simp] theorem emit_hpA (s : State) (x : Out) : (s.emit x).hpA = s.hpA := (rfl)
@[simp] theorem emit_hpB (s : State) (x : Out) : (s.emit x).hpB = s.hpB := (rfl)
@[simp] theorem emit_sb (s : State) (x : Out) : (s.emit x).sb = s.sb := (rfl)
@[simp] theorem emit_cmd (s : State) (x : Out) : (s.emit x).cmd = s.cmd := (rfl)
@[simp] theorem emit_way (s : State) (x : Out) : (s.emit x).way = s.way := (rfl)
@[simp] theorem emit_sigEvents (s : State) (x : Out) : (s.emit x).sigEvents = s.sigEvents := (rfl)
@[simp] theorem emit_lode (s : State) (x : Out) : (s.emit x).lode = s.lode := (rfl)
@[simp] theorem emit_qry (s : State) (x : Out) : (s.emit x).qry = s.qry := (rfl)
@[simp] theorem emit_bed (s : State) (x : Out) : (s.emit x).bed = s.bed := (rfl)
@[simp] theorem emit_trn (s : State) (x : Out) : (s.emit x).trn = s.trn := (rfl)
@[simp] theorem emit_pair (s : State) (x : Out) : (s.emit x).pair = s.pair := (rfl)
@[simp] theorem emit_bas (s : State) (x : Out) : (s.emit x).bas = s.bas := (rfl)
@[simp] theorem emit_acts (s : State) (x : Out) : (s.emit x).acts = s.acts := (rfl)
@[simp] theorem emit_mil (s : State) (x : Out) : (s.emit x).mil = s.mil := (rfl)
@[simp] theorem emit_bls (s : State) (x : Out) : (s.emit x).bls = s.bls := (rfl)
@[simp] theorem emit_obs (s : State) (x : Out) : (s.emit x).obs = s.obs := (rfl)
@[simp] theorem emit_car (s : State) (x : Out) : (s.emit x).car = s.car := (rfl)
@[simp] theorem emit_csw (s : State) (x : Out) : (s.emit x).csw = s.csw := (rfl)
@[simp] theorem emit_str (s : State) (x : Out) : (s.emit x).str = s.str := (rfl)
@[simp] theorem emit_keyRam (s : State) (x : Out) : (s.emit x).keyRam = s.keyRam := (rfl)
@[simp] theorem emit_crossHeld (s : State) (x : Out) : (s.emit x).crossHeld = s.crossHeld := (rfl)
@[simp] theorem emit_resv (s : State) (x : Out) : (s.emit x).resv = s.resv := (rfl)
@[simp] theorem emit_pending (s : State) (x : Out) : (s.emit x).pending = s.pending := (rfl)

/-! ### answer -/

@[simp] theorem answer_regs (s : State) (v : Word) : (s.answer v).regs = s.regs := (rfl)
@[simp] theorem answer_mem (s : State) (v : Word) : (s.answer v).mem = s.mem := (rfl)
@[simp] theorem answer_now (s : State) (v : Word) : (s.answer v).now = s.now := (rfl)
@[simp] theorem answer_fresh (s : State) (v : Word) : (s.answer v).fresh = s.fresh := (rfl)
@[simp] theorem answer_out (s : State) (v : Word) : (s.answer v).out = s.out := (rfl)
@[simp] theorem answer_sys (s : State) (v : Word) : (s.answer v).sys = s.sys := (rfl)
@[simp] theorem answer_kenul (s : State) (v : Word) : (s.answer v).kenul = s.kenul := (rfl)
@[simp] theorem answer_slotA (s : State) (v : Word) : (s.answer v).slotA = s.slotA := (rfl)
@[simp] theorem answer_slotB (s : State) (v : Word) : (s.answer v).slotB = s.slotB := (rfl)
@[simp] theorem answer_tgt (s : State) (v : Word) : (s.answer v).tgt = s.tgt := (rfl)
@[simp] theorem answer_crn (s : State) (v : Word) : (s.answer v).crn = s.crn := (rfl)
@[simp] theorem answer_patchQueue (s : State) (v : Word) : (s.answer v).patchQueue = s.patchQueue := (rfl)
@[simp] theorem answer_hpA (s : State) (v : Word) : (s.answer v).hpA = s.hpA := (rfl)
@[simp] theorem answer_hpB (s : State) (v : Word) : (s.answer v).hpB = s.hpB := (rfl)
@[simp] theorem answer_sb (s : State) (v : Word) : (s.answer v).sb = s.sb := (rfl)
@[simp] theorem answer_cmd (s : State) (v : Word) : (s.answer v).cmd = s.cmd := (rfl)
@[simp] theorem answer_way (s : State) (v : Word) : (s.answer v).way = s.way := (rfl)
@[simp] theorem answer_sigEvents (s : State) (v : Word) : (s.answer v).sigEvents = s.sigEvents := (rfl)
@[simp] theorem answer_lode (s : State) (v : Word) : (s.answer v).lode = s.lode := (rfl)
@[simp] theorem answer_qry (s : State) (v : Word) : (s.answer v).qry = s.qry := (rfl)
@[simp] theorem answer_bed (s : State) (v : Word) : (s.answer v).bed = s.bed := (rfl)
@[simp] theorem answer_trn (s : State) (v : Word) : (s.answer v).trn = s.trn := (rfl)
@[simp] theorem answer_pair (s : State) (v : Word) : (s.answer v).pair = s.pair := (rfl)
@[simp] theorem answer_bas (s : State) (v : Word) : (s.answer v).bas = s.bas := (rfl)
@[simp] theorem answer_acts (s : State) (v : Word) : (s.answer v).acts = s.acts := (rfl)
@[simp] theorem answer_mil (s : State) (v : Word) : (s.answer v).mil = s.mil := (rfl)
@[simp] theorem answer_bls (s : State) (v : Word) : (s.answer v).bls = s.bls := (rfl)
@[simp] theorem answer_obs (s : State) (v : Word) : (s.answer v).obs = s.obs := (rfl)
@[simp] theorem answer_car (s : State) (v : Word) : (s.answer v).car = s.car := (rfl)
@[simp] theorem answer_csw (s : State) (v : Word) : (s.answer v).csw = s.csw := (rfl)
@[simp] theorem answer_str (s : State) (v : Word) : (s.answer v).str = s.str := (rfl)
@[simp] theorem answer_keyRam (s : State) (v : Word) : (s.answer v).keyRam = s.keyRam := (rfl)
@[simp] theorem answer_crossHeld (s : State) (v : Word) : (s.answer v).crossHeld = s.crossHeld := (rfl)
@[simp] theorem answer_resv (s : State) (v : Word) : (s.answer v).resv = s.resv := (rfl)
@[simp] theorem answer_pending (s : State) (v : Word) : (s.answer v).pending = s.pending := (rfl)

/-! ### setByte -/

@[simp] theorem setByte_regs (s : State) (a : Nat) (b : Byte) : (s.setByte a b).regs = s.regs := (rfl)
@[simp] theorem setByte_now (s : State) (a : Nat) (b : Byte) : (s.setByte a b).now = s.now := (rfl)
@[simp] theorem setByte_fresh (s : State) (a : Nat) (b : Byte) : (s.setByte a b).fresh = s.fresh := (rfl)
@[simp] theorem setByte_resp (s : State) (a : Nat) (b : Byte) : (s.setByte a b).resp = s.resp := (rfl)
@[simp] theorem setByte_out (s : State) (a : Nat) (b : Byte) : (s.setByte a b).out = s.out := (rfl)
@[simp] theorem setByte_sys (s : State) (a : Nat) (b : Byte) : (s.setByte a b).sys = s.sys := (rfl)
@[simp] theorem setByte_kenul (s : State) (a : Nat) (b : Byte) : (s.setByte a b).kenul = s.kenul := (rfl)
@[simp] theorem setByte_slotA (s : State) (a : Nat) (b : Byte) : (s.setByte a b).slotA = s.slotA := (rfl)
@[simp] theorem setByte_slotB (s : State) (a : Nat) (b : Byte) : (s.setByte a b).slotB = s.slotB := (rfl)
@[simp] theorem setByte_tgt (s : State) (a : Nat) (b : Byte) : (s.setByte a b).tgt = s.tgt := (rfl)
@[simp] theorem setByte_crn (s : State) (a : Nat) (b : Byte) : (s.setByte a b).crn = s.crn := (rfl)
@[simp] theorem setByte_patchQueue (s : State) (a : Nat) (b : Byte) : (s.setByte a b).patchQueue = s.patchQueue := (rfl)
@[simp] theorem setByte_hpA (s : State) (a : Nat) (b : Byte) : (s.setByte a b).hpA = s.hpA := (rfl)
@[simp] theorem setByte_hpB (s : State) (a : Nat) (b : Byte) : (s.setByte a b).hpB = s.hpB := (rfl)
@[simp] theorem setByte_sb (s : State) (a : Nat) (b : Byte) : (s.setByte a b).sb = s.sb := (rfl)
@[simp] theorem setByte_cmd (s : State) (a : Nat) (b : Byte) : (s.setByte a b).cmd = s.cmd := (rfl)
@[simp] theorem setByte_way (s : State) (a : Nat) (b : Byte) : (s.setByte a b).way = s.way := (rfl)
@[simp] theorem setByte_sigEvents (s : State) (a : Nat) (b : Byte) : (s.setByte a b).sigEvents = s.sigEvents := (rfl)
@[simp] theorem setByte_lode (s : State) (a : Nat) (b : Byte) : (s.setByte a b).lode = s.lode := (rfl)
@[simp] theorem setByte_qry (s : State) (a : Nat) (b : Byte) : (s.setByte a b).qry = s.qry := (rfl)
@[simp] theorem setByte_bed (s : State) (a : Nat) (b : Byte) : (s.setByte a b).bed = s.bed := (rfl)
@[simp] theorem setByte_trn (s : State) (a : Nat) (b : Byte) : (s.setByte a b).trn = s.trn := (rfl)
@[simp] theorem setByte_pair (s : State) (a : Nat) (b : Byte) : (s.setByte a b).pair = s.pair := (rfl)
@[simp] theorem setByte_bas (s : State) (a : Nat) (b : Byte) : (s.setByte a b).bas = s.bas := (rfl)
@[simp] theorem setByte_acts (s : State) (a : Nat) (b : Byte) : (s.setByte a b).acts = s.acts := (rfl)
@[simp] theorem setByte_mil (s : State) (a : Nat) (b : Byte) : (s.setByte a b).mil = s.mil := (rfl)
@[simp] theorem setByte_bls (s : State) (a : Nat) (b : Byte) : (s.setByte a b).bls = s.bls := (rfl)
@[simp] theorem setByte_obs (s : State) (a : Nat) (b : Byte) : (s.setByte a b).obs = s.obs := (rfl)
@[simp] theorem setByte_car (s : State) (a : Nat) (b : Byte) : (s.setByte a b).car = s.car := (rfl)
@[simp] theorem setByte_csw (s : State) (a : Nat) (b : Byte) : (s.setByte a b).csw = s.csw := (rfl)
@[simp] theorem setByte_str (s : State) (a : Nat) (b : Byte) : (s.setByte a b).str = s.str := (rfl)
@[simp] theorem setByte_keyRam (s : State) (a : Nat) (b : Byte) : (s.setByte a b).keyRam = s.keyRam := (rfl)
@[simp] theorem setByte_crossHeld (s : State) (a : Nat) (b : Byte) : (s.setByte a b).crossHeld = s.crossHeld := (rfl)
@[simp] theorem setByte_resv (s : State) (a : Nat) (b : Byte) : (s.setByte a b).resv = s.resv := (rfl)
@[simp] theorem setByte_pending (s : State) (a : Nat) (b : Byte) : (s.setByte a b).pending = s.pending := (rfl)

/-! ### store -/

@[simp] theorem store_regs (s : State) (a v n : Nat) : (s.store a v n).regs = s.regs := (rfl)
@[simp] theorem store_now (s : State) (a v n : Nat) : (s.store a v n).now = s.now := (rfl)
@[simp] theorem store_fresh (s : State) (a v n : Nat) : (s.store a v n).fresh = s.fresh := (rfl)
@[simp] theorem store_resp (s : State) (a v n : Nat) : (s.store a v n).resp = s.resp := (rfl)
@[simp] theorem store_out (s : State) (a v n : Nat) : (s.store a v n).out = s.out := (rfl)
@[simp] theorem store_sys (s : State) (a v n : Nat) : (s.store a v n).sys = s.sys := (rfl)
@[simp] theorem store_kenul (s : State) (a v n : Nat) : (s.store a v n).kenul = s.kenul := (rfl)
@[simp] theorem store_slotA (s : State) (a v n : Nat) : (s.store a v n).slotA = s.slotA := (rfl)
@[simp] theorem store_slotB (s : State) (a v n : Nat) : (s.store a v n).slotB = s.slotB := (rfl)
@[simp] theorem store_tgt (s : State) (a v n : Nat) : (s.store a v n).tgt = s.tgt := (rfl)
@[simp] theorem store_crn (s : State) (a v n : Nat) : (s.store a v n).crn = s.crn := (rfl)
@[simp] theorem store_patchQueue (s : State) (a v n : Nat) : (s.store a v n).patchQueue = s.patchQueue := (rfl)
@[simp] theorem store_hpA (s : State) (a v n : Nat) : (s.store a v n).hpA = s.hpA := (rfl)
@[simp] theorem store_hpB (s : State) (a v n : Nat) : (s.store a v n).hpB = s.hpB := (rfl)
@[simp] theorem store_sb (s : State) (a v n : Nat) : (s.store a v n).sb = s.sb := (rfl)
@[simp] theorem store_cmd (s : State) (a v n : Nat) : (s.store a v n).cmd = s.cmd := (rfl)
@[simp] theorem store_way (s : State) (a v n : Nat) : (s.store a v n).way = s.way := (rfl)
@[simp] theorem store_sigEvents (s : State) (a v n : Nat) : (s.store a v n).sigEvents = s.sigEvents := (rfl)
@[simp] theorem store_lode (s : State) (a v n : Nat) : (s.store a v n).lode = s.lode := (rfl)
@[simp] theorem store_qry (s : State) (a v n : Nat) : (s.store a v n).qry = s.qry := (rfl)
@[simp] theorem store_bed (s : State) (a v n : Nat) : (s.store a v n).bed = s.bed := (rfl)
@[simp] theorem store_trn (s : State) (a v n : Nat) : (s.store a v n).trn = s.trn := (rfl)
@[simp] theorem store_pair (s : State) (a v n : Nat) : (s.store a v n).pair = s.pair := (rfl)
@[simp] theorem store_bas (s : State) (a v n : Nat) : (s.store a v n).bas = s.bas := (rfl)
@[simp] theorem store_acts (s : State) (a v n : Nat) : (s.store a v n).acts = s.acts := (rfl)
@[simp] theorem store_mil (s : State) (a v n : Nat) : (s.store a v n).mil = s.mil := (rfl)
@[simp] theorem store_bls (s : State) (a v n : Nat) : (s.store a v n).bls = s.bls := (rfl)
@[simp] theorem store_obs (s : State) (a v n : Nat) : (s.store a v n).obs = s.obs := (rfl)
@[simp] theorem store_car (s : State) (a v n : Nat) : (s.store a v n).car = s.car := (rfl)
@[simp] theorem store_csw (s : State) (a v n : Nat) : (s.store a v n).csw = s.csw := (rfl)
@[simp] theorem store_str (s : State) (a v n : Nat) : (s.store a v n).str = s.str := (rfl)
@[simp] theorem store_keyRam (s : State) (a v n : Nat) : (s.store a v n).keyRam = s.keyRam := (rfl)
@[simp] theorem store_crossHeld (s : State) (a v n : Nat) : (s.store a v n).crossHeld = s.crossHeld := (rfl)
@[simp] theorem store_resv (s : State) (a v n : Nat) : (s.store a v n).resv = s.resv := (rfl)
@[simp] theorem store_pending (s : State) (a v n : Nat) : (s.store a v n).pending = s.pending := (rfl)

/-! ### free: only the counter moves -/

@[simp] theorem free_regs (s : State) (w : Nat) : (s.free w).2.regs = s.regs := (rfl)
@[simp] theorem free_mem (s : State) (w : Nat) : (s.free w).2.mem = s.mem := (rfl)
@[simp] theorem free_now (s : State) (w : Nat) : (s.free w).2.now = s.now := (rfl)
@[simp] theorem free_resp (s : State) (w : Nat) : (s.free w).2.resp = s.resp := (rfl)
@[simp] theorem free_out (s : State) (w : Nat) : (s.free w).2.out = s.out := (rfl)
@[simp] theorem free_sys (s : State) (w : Nat) : (s.free w).2.sys = s.sys := (rfl)
@[simp] theorem free_kenul (s : State) (w : Nat) : (s.free w).2.kenul = s.kenul := (rfl)
@[simp] theorem free_slotA (s : State) (w : Nat) : (s.free w).2.slotA = s.slotA := (rfl)
@[simp] theorem free_slotB (s : State) (w : Nat) : (s.free w).2.slotB = s.slotB := (rfl)
@[simp] theorem free_tgt (s : State) (w : Nat) : (s.free w).2.tgt = s.tgt := (rfl)
@[simp] theorem free_crn (s : State) (w : Nat) : (s.free w).2.crn = s.crn := (rfl)
@[simp] theorem free_patchQueue (s : State) (w : Nat) : (s.free w).2.patchQueue = s.patchQueue := (rfl)
@[simp] theorem free_hpA (s : State) (w : Nat) : (s.free w).2.hpA = s.hpA := (rfl)
@[simp] theorem free_hpB (s : State) (w : Nat) : (s.free w).2.hpB = s.hpB := (rfl)
@[simp] theorem free_sb (s : State) (w : Nat) : (s.free w).2.sb = s.sb := (rfl)
@[simp] theorem free_cmd (s : State) (w : Nat) : (s.free w).2.cmd = s.cmd := (rfl)
@[simp] theorem free_way (s : State) (w : Nat) : (s.free w).2.way = s.way := (rfl)
@[simp] theorem free_sigEvents (s : State) (w : Nat) : (s.free w).2.sigEvents = s.sigEvents := (rfl)
@[simp] theorem free_lode (s : State) (w : Nat) : (s.free w).2.lode = s.lode := (rfl)
@[simp] theorem free_qry (s : State) (w : Nat) : (s.free w).2.qry = s.qry := (rfl)
@[simp] theorem free_bed (s : State) (w : Nat) : (s.free w).2.bed = s.bed := (rfl)
@[simp] theorem free_trn (s : State) (w : Nat) : (s.free w).2.trn = s.trn := (rfl)
@[simp] theorem free_pair (s : State) (w : Nat) : (s.free w).2.pair = s.pair := (rfl)
@[simp] theorem free_bas (s : State) (w : Nat) : (s.free w).2.bas = s.bas := (rfl)
@[simp] theorem free_acts (s : State) (w : Nat) : (s.free w).2.acts = s.acts := (rfl)
@[simp] theorem free_mil (s : State) (w : Nat) : (s.free w).2.mil = s.mil := (rfl)
@[simp] theorem free_bls (s : State) (w : Nat) : (s.free w).2.bls = s.bls := (rfl)
@[simp] theorem free_obs (s : State) (w : Nat) : (s.free w).2.obs = s.obs := (rfl)
@[simp] theorem free_car (s : State) (w : Nat) : (s.free w).2.car = s.car := (rfl)
@[simp] theorem free_csw (s : State) (w : Nat) : (s.free w).2.csw = s.csw := (rfl)
@[simp] theorem free_str (s : State) (w : Nat) : (s.free w).2.str = s.str := (rfl)
@[simp] theorem free_keyRam (s : State) (w : Nat) : (s.free w).2.keyRam = s.keyRam := (rfl)
@[simp] theorem free_crossHeld (s : State) (w : Nat) : (s.free w).2.crossHeld = s.crossHeld := (rfl)
@[simp] theorem free_resv (s : State) (w : Nat) : (s.free w).2.resv = s.resv := (rfl)
@[simp] theorem free_pending (s : State) (w : Nat) : (s.free w).2.pending = s.pending := (rfl)
@[simp] theorem free_fresh (s : State) (w : Nat) : (s.free w).2.fresh = s.fresh + 1 := (rfl)

/-! ### setReady: two registers -/

@[simp] theorem setReady_mem (s : State) (r : Ready) (v : Bool) : (s.setReady r v).mem = s.mem := by
  unfold State.setReady; split <;> rfl
@[simp] theorem setReady_now (s : State) (r : Ready) (v : Bool) : (s.setReady r v).now = s.now := by
  unfold State.setReady; split <;> rfl
@[simp] theorem setReady_fresh (s : State) (r : Ready) (v : Bool) : (s.setReady r v).fresh = s.fresh := by
  unfold State.setReady; split <;> rfl
@[simp] theorem setReady_resp (s : State) (r : Ready) (v : Bool) : (s.setReady r v).resp = s.resp := by
  unfold State.setReady; split <;> rfl
@[simp] theorem setReady_out (s : State) (r : Ready) (v : Bool) : (s.setReady r v).out = s.out := by
  unfold State.setReady; split <;> rfl
@[simp] theorem setReady_sys (s : State) (r : Ready) (v : Bool) : (s.setReady r v).sys = s.sys := by
  unfold State.setReady; split <;> rfl
@[simp] theorem setReady_kenul (s : State) (r : Ready) (v : Bool) : (s.setReady r v).kenul = s.kenul := by
  unfold State.setReady; split <;> rfl
@[simp] theorem setReady_slotA (s : State) (r : Ready) (v : Bool) : (s.setReady r v).slotA = s.slotA := by
  unfold State.setReady; split <;> rfl
@[simp] theorem setReady_slotB (s : State) (r : Ready) (v : Bool) : (s.setReady r v).slotB = s.slotB := by
  unfold State.setReady; split <;> rfl
@[simp] theorem setReady_tgt (s : State) (r : Ready) (v : Bool) : (s.setReady r v).tgt = s.tgt := by
  unfold State.setReady; split <;> rfl
@[simp] theorem setReady_crn (s : State) (r : Ready) (v : Bool) : (s.setReady r v).crn = s.crn := by
  unfold State.setReady; split <;> rfl
@[simp] theorem setReady_patchQueue (s : State) (r : Ready) (v : Bool) : (s.setReady r v).patchQueue = s.patchQueue := by
  unfold State.setReady; split <;> rfl
@[simp] theorem setReady_hpA (s : State) (r : Ready) (v : Bool) : (s.setReady r v).hpA = s.hpA := by
  unfold State.setReady; split <;> rfl
@[simp] theorem setReady_hpB (s : State) (r : Ready) (v : Bool) : (s.setReady r v).hpB = s.hpB := by
  unfold State.setReady; split <;> rfl
@[simp] theorem setReady_sb (s : State) (r : Ready) (v : Bool) : (s.setReady r v).sb = s.sb := by
  unfold State.setReady; split <;> rfl
@[simp] theorem setReady_cmd (s : State) (r : Ready) (v : Bool) : (s.setReady r v).cmd = s.cmd := by
  unfold State.setReady; split <;> rfl
@[simp] theorem setReady_way (s : State) (r : Ready) (v : Bool) : (s.setReady r v).way = s.way := by
  unfold State.setReady; split <;> rfl
@[simp] theorem setReady_sigEvents (s : State) (r : Ready) (v : Bool) : (s.setReady r v).sigEvents = s.sigEvents := by
  unfold State.setReady; split <;> rfl
@[simp] theorem setReady_lode (s : State) (r : Ready) (v : Bool) : (s.setReady r v).lode = s.lode := by
  unfold State.setReady; split <;> rfl
@[simp] theorem setReady_qry (s : State) (r : Ready) (v : Bool) : (s.setReady r v).qry = s.qry := by
  unfold State.setReady; split <;> rfl
@[simp] theorem setReady_bed (s : State) (r : Ready) (v : Bool) : (s.setReady r v).bed = s.bed := by
  unfold State.setReady; split <;> rfl
@[simp] theorem setReady_trn (s : State) (r : Ready) (v : Bool) : (s.setReady r v).trn = s.trn := by
  unfold State.setReady; split <;> rfl
@[simp] theorem setReady_pair (s : State) (r : Ready) (v : Bool) : (s.setReady r v).pair = s.pair := by
  unfold State.setReady; split <;> rfl
@[simp] theorem setReady_bas (s : State) (r : Ready) (v : Bool) : (s.setReady r v).bas = s.bas := by
  unfold State.setReady; split <;> rfl
@[simp] theorem setReady_acts (s : State) (r : Ready) (v : Bool) : (s.setReady r v).acts = s.acts := by
  unfold State.setReady; split <;> rfl
@[simp] theorem setReady_mil (s : State) (r : Ready) (v : Bool) : (s.setReady r v).mil = s.mil := by
  unfold State.setReady; split <;> rfl
@[simp] theorem setReady_bls (s : State) (r : Ready) (v : Bool) : (s.setReady r v).bls = s.bls := by
  unfold State.setReady; split <;> rfl
@[simp] theorem setReady_obs (s : State) (r : Ready) (v : Bool) : (s.setReady r v).obs = s.obs := by
  unfold State.setReady; split <;> rfl
@[simp] theorem setReady_car (s : State) (r : Ready) (v : Bool) : (s.setReady r v).car = s.car := by
  unfold State.setReady; split <;> rfl
@[simp] theorem setReady_csw (s : State) (r : Ready) (v : Bool) : (s.setReady r v).csw = s.csw := by
  unfold State.setReady; split <;> rfl
@[simp] theorem setReady_str (s : State) (r : Ready) (v : Bool) : (s.setReady r v).str = s.str := by
  unfold State.setReady; split <;> rfl
@[simp] theorem setReady_keyRam (s : State) (r : Ready) (v : Bool) : (s.setReady r v).keyRam = s.keyRam := by
  unfold State.setReady; split <;> rfl
@[simp] theorem setReady_crossHeld (s : State) (r : Ready) (v : Bool) : (s.setReady r v).crossHeld = s.crossHeld := by
  unfold State.setReady; split <;> rfl
@[simp] theorem setReady_resv (s : State) (r : Ready) (v : Bool) : (s.setReady r v).resv = s.resv := by
  unfold State.setReady; split <;> rfl
@[simp] theorem setReady_pending (s : State) (r : Ready) (v : Bool) : (s.setReady r v).pending = s.pending := by
  unfold State.setReady; split <;> rfl

/-! ### Outputs and answers -/

@[simp] theorem emit_out (s : State) (x : Out) : (s.emit x).out = x :: s.out := (rfl)
@[simp] theorem answer_resp (s : State) (v : Word) : (s.answer v).resp = v := (rfl)

@[simp] theorem stateOf_eq {α : Type} (p : α × State) : stateOf p = p.2 := (rfl)

/-! ### Registers read through an update that leaves them alone -/

@[simp] theorem emit_rd (s : State) (x : Out) (o : Nat) : (s.emit x).rd o = s.rd o := (rfl)
@[simp] theorem answer_rd (s : State) (v : Word) (o : Nat) : (s.answer v).rd o = s.rd o := (rfl)
@[simp] theorem setByte_rd (s : State) (a : Nat) (b : Byte) (o : Nat) : (s.setByte a b).rd o = s.rd o := (rfl)
@[simp] theorem store_rd (s : State) (a v n o : Nat) : (s.store a v n).rd o = s.rd o := (rfl)
@[simp] theorem free_rd (s : State) (w o : Nat) : (s.free w).2.rd o = s.rd o := (rfl)
@[simp] theorem emit_rf (s : State) (x : Out) (o : Nat) (f : Fld) : (s.emit x).rf o f = s.rf o f := (rfl)
@[simp] theorem answer_rf (s : State) (v : Word) (o : Nat) (f : Fld) : (s.answer v).rf o f = s.rf o f := (rfl)
@[simp] theorem free_rf (s : State) (w o : Nat) (f : Fld) : (s.free w).2.rf o f = s.rf o f := (rfl)

end Sys2Proof.Machine
end

