-- ==== Sys2Proof/Laws/FrameBase.lean ====
section
/-!
SUPPORT. Sys2Proof/Laws/FrameBase.lean: the frame that every operation of the part keeps: the queue of commands, the fuses (but
for a fuse operation's end) and memory (but for the operations that write it). The laws of folds and branches by which the
frame lemmas of the operations are proved.
-/

namespace Sys2Proof.Machine

/-! ### Branches -/

@[simp] theorem ite_pending (p : Prop) [Decidable p] (a b : State) :
    (if p then a else b).pending = if p then a.pending else b.pending := apply_ite _ _ _ _
@[simp] theorem ite_mem (p : Prop) [Decidable p] (a b : State) :
    (if p then a else b).mem = if p then a.mem else b.mem := apply_ite _ _ _ _
@[simp] theorem ite_sys (p : Prop) [Decidable p] (a b : State) :
    (if p then a else b).sys = if p then a.sys else b.sys := apply_ite _ _ _ _
@[simp] theorem ite_fuses (p : Prop) [Decidable p] (a b : SysState) :
    (if p then a else b).fuses = if p then a.fuses else b.fuses := apply_ite _ _ _ _
@[simp] theorem ite_snd {α β : Type} (p : Prop) [Decidable p] (a b : α × β) :
    (if p then a else b).2 = if p then a.2 else b.2 := apply_ite _ _ _ _

/-! ### Folds -/

theorem foldl_keeps {α β : Type} (g : State → β) (f : State → α → State) (h : ∀ t a, g (f t a) = g t) :
    ∀ (l : List α) (s : State), g (l.foldl f s) = g s
  | [], _ => rfl
  | a :: l, s => (foldl_keeps g f h l (f s a)).trans (h s a)

@[simp] theorem foldl_pending {α : Type} (l : List α) (f : State → α → State) (s : State)
    (h : ∀ t a, (f t a).pending = t.pending) : (l.foldl f s).pending = s.pending := foldl_keeps State.pending f h l s
@[simp] theorem foldl_mem {α : Type} (l : List α) (f : State → α → State) (s : State)
    (h : ∀ t a, (f t a).mem = t.mem) : (l.foldl f s).mem = s.mem := foldl_keeps State.mem f h l s
@[simp] theorem foldl_fuses {α : Type} (l : List α) (f : State → α → State) (s : State)
    (h : ∀ t a, (f t a).sys.fuses = t.sys.fuses) : (l.foldl f s).sys.fuses = s.sys.fuses :=
  foldl_keeps (fun t => t.sys.fuses) f h l s

@[simp] theorem setReady_fuses (s : State) (r : Ready) (v : Bool) : (s.setReady r v).sys.fuses = s.sys.fuses := by simp

/-! ### Memory stays canonical -/

theorem foldl_memWf {α : Type} (f : State → α → State)
    (h : ∀ t a, Memory.wf t.mem = true → Memory.wf (f t a).mem = true) :
    ∀ (l : List α) (s : State), Memory.wf s.mem = true → Memory.wf (l.foldl f s).mem = true
  | [], _, hs => hs
  | a :: l, s, hs => foldl_memWf f h l (f s a) (h s a hs)

theorem setByte_memWf (s : State) (a : Nat) (b : Byte) (h : Memory.wf s.mem = true) :
    Memory.wf (s.setByte a b).mem = true := Memory.wf_memSet _ _ _ h
theorem store_memWf (s : State) (a v n : Nat) (h : Memory.wf s.mem = true) :
    Memory.wf (s.store a v n).mem = true := Memory.wf_memStore _ _ _ _ h

end Sys2Proof.Machine
end

