-- ==== Sys2Proof/Laws/FrameOps.lean ====
section
/-!
SUPPORT. Sys2Proof/Laws/FrameOps.lean: what each operation and meaning of Machine/Ops.lean leaves alone: the command queue, the
fuses, and memory, or its canonical form where the operation may write memory.
-/

namespace Sys2Proof.Machine

/-! ### What the operations leave alone -/

@[simp] theorem State.sumReady_kept (s : State) :
    (State.sumReady s).pending = s.pending ∧ (State.sumReady s).sys.fuses = s.sys.fuses ∧ (State.sumReady s).mem =
        s.mem := by simp [State.sumReady]

@[simp] theorem State.setLdReady_kept (s : State) (n : Nat) (v : Bool) :
    (State.setLdReady s n v).pending = s.pending ∧ (State.setLdReady s n v).sys.fuses = s.sys.fuses ∧
        (State.setLdReady s n v).mem = s.mem := by simp [State.setLdReady]

@[simp] theorem State.setStrReady_kept (s : State) (n : Nat) (v : Bool) :
    (State.setStrReady s n v).pending = s.pending ∧ (State.setStrReady s n v).sys.fuses = s.sys.fuses ∧
        (State.setStrReady s n v).mem = s.mem := by simp [State.setStrReady]

end Sys2Proof.Machine
end

