-- ==== Sys2Proof/Laws/FrameOperands.lean ====
section
/-!
SUPPORT. Sys2Proof/Laws/FrameOperands.lean: what each operation and meaning of Machine/Operands.lean leaves alone: the command queue, the
fuses, and memory, or its canonical form where the operation may write memory.
-/

namespace Sys2Proof.Machine

/-! ### What the operations leave alone -/

@[simp] theorem State.writeFields_kept (s : State) (off : Nat) (v : Word) :
    (State.writeFields s off v).pending = s.pending ∧ (State.writeFields s off v).sys.fuses = s.sys.fuses ∧
        (State.writeFields s off v).mem = s.mem := by
  unfold State.writeFields
  repeat' split
  all_goals simp

end Sys2Proof.Machine
end

