-- ==== Sys2Proof/Laws/FrameCairnOps.lean ====
section
/-!
SUPPORT. Sys2Proof/Laws/FrameCairnOps.lean: what each operation and meaning of Machine/CairnOps.lean leaves alone: the command queue, the
fuses, and memory, or its canonical form where the operation may write memory.
-/

namespace Sys2Proof.Machine

/-! ### What the operations leave alone -/

@[simp] theorem State.startFlash_kept (s : State) :
    (State.startFlash s).pending = s.pending ∧ (State.startFlash s).sys.fuses = s.sys.fuses ∧ (State.startFlash
        s).mem = s.mem := by simp [State.startFlash]

@[simp] theorem State.flashDue_kept (s : State) :
    (State.flashDue s).pending = s.pending ∧ (State.flashDue s).sys.fuses = s.sys.fuses ∧ (State.flashDue s).mem =
        s.mem := by simp [State.flashDue]

@[simp] theorem State.dropEvent_kept (s : State) (e : Event) :
    (State.dropEvent s e).pending = s.pending ∧ (State.dropEvent s e).sys.fuses = s.sys.fuses ∧ (State.dropEvent s
        e).mem = s.mem := by simp [State.dropEvent]

@[simp] theorem State.holdEvent_kept (s : State) (e : Event) :
    (State.holdEvent s e).pending = s.pending ∧ (State.holdEvent s e).sys.fuses = s.sys.fuses ∧ (State.holdEvent s
        e).mem = s.mem := by simp [State.holdEvent]

@[simp] theorem State.appendRec_kept (s : State) (r : Rec) :
    (State.appendRec s r).pending = s.pending ∧ (State.appendRec s r).sys.fuses = s.sys.fuses ∧ (State.appendRec s
        r).mem = s.mem := by simp [State.appendRec]

@[simp] theorem State.makeReserve_kept (s : State) :
    (State.makeReserve s).pending = s.pending ∧ (State.makeReserve s).sys.fuses = s.sys.fuses ∧ (State.makeReserve
        s).mem = s.mem := by simp [State.makeReserve]

@[simp] theorem State.putEvent_kept (s : State) (e : Event) :
    (State.putEvent s e).pending = s.pending ∧ (State.putEvent s e).sys.fuses = s.sys.fuses ∧ (State.putEvent s
        e).mem = s.mem := by simp [State.putEvent]

@[simp] theorem State.putDropped_kept (s : State) :
    (State.putDropped s).pending = s.pending ∧ (State.putDropped s).sys.fuses = s.sys.fuses ∧ (State.putDropped
        s).mem = s.mem := by simp [State.putDropped]

@[simp] theorem State.record_kept (s : State) (e : Event) :
    (State.record s e).pending = s.pending ∧ (State.record s e).sys.fuses = s.sys.fuses ∧ (State.record s e).mem =
        s.mem := by simp [State.record]

@[simp] theorem State.cairn_kept (s : State) (cls typ origin arg : Nat) :
    (State.cairn s cls typ origin arg).pending = s.pending ∧ (State.cairn s cls typ origin arg).sys.fuses =
        s.sys.fuses ∧ (State.cairn s cls typ origin arg).mem = s.mem := by simp [State.cairn]

@[simp] theorem State.releaseHold_kept (s : State) :
    (State.releaseHold s).pending = s.pending ∧ (State.releaseHold s).sys.fuses = s.sys.fuses ∧ (State.releaseHold
        s).mem = s.mem := by simp [State.releaseHold]

@[simp] theorem State.applyRelease_kept (s : State) (n : Nat) :
    (State.applyRelease s n).pending = s.pending ∧ (State.applyRelease s n).sys.fuses = s.sys.fuses ∧
        (State.applyRelease s n).mem = s.mem := by simp [State.applyRelease]

end Sys2Proof.Machine
end

