-- ==== Sys2Proof/Laws/FrameLatchOps.lean ====
section
/-!
SUPPORT. Sys2Proof/Laws/FrameLatchOps.lean: what each operation and meaning of Machine/LatchOps.lean leaves alone: the command queue, the
fuses, and memory, or its canonical form where the operation may write memory.
-/

namespace Sys2Proof.Machine

/-! ### What the operations leave alone -/

@[simp] theorem State.classSummary_kept (s : State) :
    (State.classSummary s).pending = s.pending ∧ (State.classSummary s).sys.fuses = s.sys.fuses ∧
        (State.classSummary s).mem = s.mem := by simp [State.classSummary]

@[simp] theorem State.graceUpdate_kept (s : State) :
    (State.graceUpdate s).pending = s.pending ∧ (State.graceUpdate s).sys.fuses = s.sys.fuses ∧ (State.graceUpdate
        s).mem = s.mem := by simp [State.graceUpdate]

@[simp] theorem State.pinPulse_kept (s : State) :
    (State.pinPulse s).pending = s.pending ∧ (State.pinPulse s).sys.fuses = s.sys.fuses ∧ (State.pinPulse s).mem =
        s.mem := by simp [State.pinPulse]

@[simp] theorem State.faultRecord_kept (s : State) (src cls : Nat) (inj : Bool) :
    (State.faultRecord s src cls inj).pending = s.pending ∧ (State.faultRecord s src cls inj).sys.fuses =
        s.sys.fuses ∧ (State.faultRecord s src cls inj).mem = s.mem := by simp [State.faultRecord]

@[simp] theorem State.latch_kept (s : State) (src cls : Nat) (inj : Bool) :
    (State.latch s src cls inj).pending = s.pending ∧ (State.latch s src cls inj).sys.fuses = s.sys.fuses ∧
        (State.latch s src cls inj).mem = s.mem := by simp [State.latch]

@[simp] theorem State.carry_kept (s : State) (src cls : Nat) (inj : Bool) :
    (State.carry s src cls inj).pending = s.pending ∧ (State.carry s src cls inj).sys.fuses = s.sys.fuses ∧
        (State.carry s src cls inj).mem = s.mem := by simp [State.carry]

@[simp] theorem State.report_kept (s : State) (src cls : Nat) :
    (State.report s src cls).pending = s.pending ∧ (State.report s src cls).sys.fuses = s.sys.fuses ∧ (State.report
        s src cls).mem = s.mem := by simp [State.report]

@[simp] theorem State.driveLine_kept (s : State) (src cls : Nat) :
    (State.driveLine s src cls).pending = s.pending ∧ (State.driveLine s src cls).sys.fuses = s.sys.fuses ∧
        (State.driveLine s src cls).mem = s.mem := by simp [State.driveLine]

@[simp] theorem State.clearSource_kept (s : State) (src : Nat) :
    (State.clearSource s src).pending = s.pending ∧ (State.clearSource s src).sys.fuses = s.sys.fuses ∧
        (State.clearSource s src).mem = s.mem := by simp [State.clearSource]

@[simp] theorem State.takeInjection_kept (s : State) (srcs : List Nat) :
    (State.takeInjection s srcs).2.pending = s.pending ∧ (State.takeInjection s srcs).2.sys.fuses = s.sys.fuses ∧
        (State.takeInjection s srcs).2.mem = s.mem := by simp [State.takeInjection]

@[simp] theorem State.eccCheck_kept (s : State) (srcs : List Nat) (bits : Nat) :
    (State.eccCheck s srcs bits).2.2.pending = s.pending ∧ (State.eccCheck s srcs bits).2.2.sys.fuses = s.sys.fuses
        ∧ (State.eccCheck s srcs bits).2.2.mem = s.mem := by
  simp only [State.eccCheck]
  repeat' split
  all_goals simp_all

@[simp] theorem State.setMode_kept (s : State) (m : Nat) :
    (State.setMode s m).pending = s.pending ∧ (State.setMode s m).sys.fuses = s.sys.fuses ∧ (State.setMode s m).mem
        = s.mem := by simp [State.setMode]

@[simp] theorem State.setWay_kept (s : State) (w : WayState) :
    (State.setWay s w).pending = s.pending ∧ (State.setWay s w).sys.fuses = s.sys.fuses ∧ (State.setWay s w).mem =
        s.mem := by simp [State.setWay]

@[simp] theorem State.modeDone_kept (s : State) (m : Nat) :
    (State.modeDone s m).pending = s.pending ∧ (State.modeDone s m).sys.fuses = s.sys.fuses ∧ (State.modeDone s
        m).mem = s.mem := by simp [State.modeDone]

end Sys2Proof.Machine
end

