-- ==== Sys2Proof/Laws/FrameKeyOps.lean ====
section
/-!
SUPPORT. Sys2Proof/Laws/FrameKeyOps.lean: what each operation and meaning of Machine/KeyOps.lean leaves alone: the command queue, the
fuses, and memory, or its canonical form where the operation may write memory.
-/

namespace Sys2Proof.Machine

/-! ### What the operations leave alone -/

@[simp] theorem State.setKey_kept (s : State) (k st bits : Nat) :
    (State.setKey s k st bits).pending = s.pending ∧ (State.setKey s k st bits).sys.fuses = s.sys.fuses ∧
        (State.setKey s k st bits).mem = s.mem := by simp [State.setKey]

@[simp] theorem State.keyLost_kept (s : State) (k : Nat) (inj : Bool) :
    (State.keyLost s k inj).pending = s.pending ∧ (State.keyLost s k inj).sys.fuses = s.sys.fuses ∧ (State.keyLost s
        k inj).mem = s.mem := by simp [State.keyLost]

@[simp] theorem State.keyCheck_kept (s : State) (k : Nat) (upset : Bool) :
    (State.keyCheck s k upset).pending = s.pending ∧ (State.keyCheck s k upset).sys.fuses = s.sys.fuses ∧
        (State.keyCheck s k upset).mem = s.mem := by
  simp only [State.keyCheck]
  repeat' split
  all_goals simp_all

@[simp] theorem State.noKey_kept (s : State) :
    (State.noKey s).pending = s.pending ∧ (State.noKey s).sys.fuses = s.sys.fuses ∧ (State.noKey s).mem = s.mem :=
        by simp [State.noKey]

@[simp] theorem State.seqKey_kept (s : State) (n k : Nat) (upset : Bool) :
    (State.seqKey s n k upset).2.pending = s.pending ∧ (State.seqKey s n k upset).2.sys.fuses = s.sys.fuses ∧
        (State.seqKey s n k upset).2.mem = s.mem := by simp [State.seqKey]

end Sys2Proof.Machine
end

