-- ==== Sys2Proof/Laws/FrameCtxOps.lean ====
section
/-!
SUPPORT. Sys2Proof/Laws/FrameCtxOps.lean: what each operation and meaning of Machine/CtxOps.lean leaves alone: the command queue, the
fuses, and memory, or its canonical form where the operation may write memory.
-/

namespace Sys2Proof.Machine

/-! ### What the operations leave alone -/

@[simp] theorem State.setHp_kept (s : State) (g : Nat) (h : HostGroup) :
    (State.setHp s g h).pending = s.pending ∧ (State.setHp s g h).sys.fuses = s.sys.fuses ∧ (State.setHp s g h).mem
        = s.mem := by simp [State.setHp]

@[simp] theorem State.setCtx_kept (s : State) (k : Nat) (c : Ctx) :
    (State.setCtx s k c).pending = s.pending ∧ (State.setCtx s k c).sys.fuses = s.sys.fuses ∧ (State.setCtx s k
        c).mem = s.mem := by simp [State.setCtx]

@[simp] theorem State.setWork_kept (s : State) (k : Nat) (w : Work) :
    (State.setWork s k w).pending = s.pending ∧ (State.setWork s k w).sys.fuses = s.sys.fuses ∧ (State.setWork s k
        w).mem = s.mem := by simp [State.setWork]

@[simp] theorem State.takeCtx_kept (s : State) (r : Nat) (c : Ctx) :
    (State.takeCtx s r c).2.pending = s.pending ∧ (State.takeCtx s r c).2.sys.fuses = s.sys.fuses ∧ (State.takeCtx s
        r c).2.mem = s.mem := by simp [State.takeCtx]

@[simp] theorem State.unqueue_kept (s : State) (k : Nat) :
    (State.unqueue s k).pending = s.pending ∧ (State.unqueue s k).sys.fuses = s.sys.fuses ∧ (State.unqueue s k).mem
        = s.mem := by simp [State.unqueue]

@[simp] theorem State.queueCtx_kept (s : State) (p k : Nat) :
    (State.queueCtx s p k).pending = s.pending ∧ (State.queueCtx s p k).sys.fuses = s.sys.fuses ∧ (State.queueCtx s
        p k).mem = s.mem := by simp [State.queueCtx]

@[simp] theorem State.dropClosing_kept (s : State) (k : Nat) :
    (State.dropClosing s k).pending = s.pending ∧ (State.dropClosing s k).sys.fuses = s.sys.fuses ∧
        (State.dropClosing s k).mem = s.mem := by simp [State.dropClosing]

@[simp] theorem State.freeCtxAt_kept (s : State) (k : Nat) :
    (State.freeCtxAt s k).pending = s.pending ∧ (State.freeCtxAt s k).sys.fuses = s.sys.fuses ∧ (State.freeCtxAt s
        k).mem = s.mem := by simp [State.freeCtxAt]

@[simp] theorem State.overdraft_kept (s : State) (t : Nat) :
    (State.overdraft s t).pending = s.pending ∧ (State.overdraft s t).sys.fuses = s.sys.fuses ∧ (State.overdraft s
        t).mem = s.mem := by simp [State.overdraft]

@[simp] theorem State.putUse_kept (s : State) (t u : Nat) :
    (State.putUse s t u).pending = s.pending ∧ (State.putUse s t u).sys.fuses = s.sys.fuses ∧ (State.putUse s t
        u).mem = s.mem := by simp [State.putUse]

@[simp] theorem State.setUse_kept (s : State) (t u : Nat) :
    (State.setUse s t u).pending = s.pending ∧ (State.setUse s t u).sys.fuses = s.sys.fuses ∧ (State.setUse s t
        u).mem = s.mem := by simp [State.setUse]

@[simp] theorem State.setRsv_kept (s : State) (t r : Nat) :
    (State.setRsv s t r).pending = s.pending ∧ (State.setRsv s t r).sys.fuses = s.sys.fuses ∧ (State.setRsv s t
        r).mem = s.mem := by simp [State.setRsv]

@[simp] theorem State.moveRsv_kept (s : State) (t r n : Nat) :
    (State.moveRsv s t r n).pending = s.pending ∧ (State.moveRsv s t r n).sys.fuses = s.sys.fuses ∧ (State.moveRsv s
        t r n).mem = s.mem := by simp [State.moveRsv]

@[simp] theorem State.returnRsv_kept (s : State) (k : Nat) :
    (State.returnRsv s k).pending = s.pending ∧ (State.returnRsv s k).sys.fuses = s.sys.fuses ∧ (State.returnRsv s
        k).mem = s.mem := by simp [State.returnRsv]

@[simp] theorem State.setShadow_kept (s : State) (g w : Nat) (v : Word) :
    (State.setShadow s g w v).pending = s.pending ∧ (State.setShadow s g w v).sys.fuses = s.sys.fuses ∧
        (State.setShadow s g w v).mem = s.mem := by simp [State.setShadow]

@[simp] theorem State.sendMsix_kept (s : State) (g v : Nat) :
    (State.sendMsix s g v).pending = s.pending ∧ (State.sendMsix s g v).sys.fuses = s.sys.fuses ∧ (State.sendMsix s
        g v).mem = s.mem := by simp [State.sendMsix]

@[simp] theorem State.complete_kept (s : State) (g proto queue tag status : Nat) (data : List Nat) :
    (State.complete s g proto queue tag status data).pending = s.pending ∧ (State.complete s g proto queue tag
        status data).sys.fuses = s.sys.fuses ∧ (State.complete s g proto queue tag status data).mem = s.mem := by
  simp only [State.complete]
  repeat' split
  all_goals simp_all

@[simp] theorem State.postCompletion_kept (s : State) (k : Nat) (data : List Nat) :
    (State.postCompletion s k data).pending = s.pending ∧ (State.postCompletion s k data).sys.fuses = s.sys.fuses ∧
        (State.postCompletion s k data).mem = s.mem := by simp [State.postCompletion]

@[simp] theorem State.setStatus_kept (s : State) (k st : Nat) :
    (State.setStatus s k st).pending = s.pending ∧ (State.setStatus s k st).sys.fuses = s.sys.fuses ∧
        (State.setStatus s k st).mem = s.mem := by simp [State.setStatus]

@[simp] theorem State.groupComplete_kept (s : State) (k st : Nat) :
    (State.groupComplete s k st).pending = s.pending ∧ (State.groupComplete s k st).sys.fuses = s.sys.fuses ∧
        (State.groupComplete s k st).mem = s.mem := by simp [State.groupComplete]

@[simp] theorem State.setCtxByte_kept (s : State) (k b : Nat) (v : Byte) :
    (State.setCtxByte s k b v).pending = s.pending ∧ (State.setCtxByte s k b v).sys.fuses = s.sys.fuses ∧
        (State.setCtxByte s k b v).mem = s.mem := by simp [State.setCtxByte]

end Sys2Proof.Machine
end

