-- ==== Sys2Proof/Laws/FrameStrBase.lean ====
section
/-!
SUPPORT. Sys2Proof/Laws/FrameStrBase.lean: what each operation and meaning of Machine/StrBase.lean leaves alone: the command queue, the
fuses, and memory, or its canonical form where the operation may write memory.
-/

namespace Sys2Proof.Machine

/-! ### What the operations leave alone -/

@[simp] theorem State.setSeq_kept (s : State) (n : Nat) (x : SeqState) :
    (State.setSeq s n x).pending = s.pending ∧ (State.setSeq s n x).sys.fuses = s.sys.fuses ∧ (State.setSeq s n
        x).mem = s.mem := by simp [State.setSeq]

@[simp] theorem State.wqAdd_kept (s : State) (n kind k : Nat) :
    (State.wqAdd s n kind k).pending = s.pending ∧ (State.wqAdd s n kind k).sys.fuses = s.sys.fuses ∧ (State.wqAdd s
        n kind k).mem = s.mem := by simp [State.wqAdd]

@[simp] theorem State.setLadder_kept (s : State) (n : Nat) (l : Option Ladder) :
    (State.setLadder s n l).pending = s.pending ∧ (State.setLadder s n l).sys.fuses = s.sys.fuses ∧ (State.setLadder
        s n l).mem = s.mem := by simp [State.setLadder]

@[simp] theorem State.beginRun_kept (s : State) (a : Nat) :
    (State.beginRun s a).pending = s.pending ∧ (State.beginRun s a).sys.fuses = s.sys.fuses ∧ (State.beginRun s
        a).mem = s.mem := by
  unfold State.beginRun
  repeat' split
  all_goals simp

end Sys2Proof.Machine
end

