-- ==== Sys2Proof/Laws/FrameWayGeo.lean ====
section
/-!
SUPPORT. Sys2Proof/Laws/FrameWayGeo.lean: what each operation and meaning of Machine/WayGeo.lean leaves alone: the command queue, the
fuses, and memory, or its canonical form where the operation may write memory.
-/

namespace Sys2Proof.Machine

/-! ### What the operations leave alone -/

@[simp] theorem State.writeOut_kept (s : State) (x : Surface) (z : Zone) (sys : Bool) (track : Int) (k addr user
    metaB : Nat) :
    (State.writeOut s x z sys track k addr user metaB).pending = s.pending ∧ (State.writeOut s x z sys track k addr
        user metaB).sys.fuses = s.sys.fuses ∧ (State.writeOut s x z sys track k addr user metaB).mem = s.mem := by
        simp [State.writeOut]

@[simp] theorem State.setBand_kept (s : State) (b : Nat) (x : Band) :
    (State.setBand s b x).pending = s.pending ∧ (State.setBand s b x).sys.fuses = s.sys.fuses ∧ (State.setBand s b
        x).mem = s.mem := by simp [State.setBand]

@[simp] theorem State.setGroup_kept (s : State) (g : Nat) (x : Group) :
    (State.setGroup s g x).pending = s.pending ∧ (State.setGroup s g x).sys.fuses = s.sys.fuses ∧ (State.setGroup s
        g x).mem = s.mem := by simp [State.setGroup]

@[simp] theorem State.setUnit_kept (s : State) (kind unit v : Nat) :
    (State.setUnit s kind unit v).pending = s.pending ∧ (State.setUnit s kind unit v).sys.fuses = s.sys.fuses ∧
        (State.setUnit s kind unit v).mem = s.mem := by simp [State.setUnit]

end Sys2Proof.Machine
end

