-- ==== Sys2Proof/Laws/FrameWayOps.lean ====
section
/-!
SUPPORT. Sys2Proof/Laws/FrameWayOps.lean: what each operation and meaning of Machine/WayOps.lean leaves alone: the command queue, the
fuses, and memory, or its canonical form where the operation may write memory.
-/

namespace Sys2Proof.Machine

/-! ### What the operations leave alone -/

@[simp] theorem State.sigEvent_kept (s : State) (n : Nat) :
    (State.sigEvent s n).pending = s.pending ∧ (State.sigEvent s n).sys.fuses = s.sys.fuses ∧ (State.sigEvent s
        n).mem = s.mem := by simp [State.sigEvent]

@[simp] theorem State.refreshMedia_kept (s : State) :
    (State.refreshMedia s).pending = s.pending ∧ (State.refreshMedia s).sys.fuses = s.sys.fuses ∧
        (State.refreshMedia s).mem = s.mem := by simp [State.refreshMedia]

@[simp] theorem State.setMap_kept (s : State) (k : Key) (psa : Nat) :
    (State.setMap s k psa).pending = s.pending ∧ (State.setMap s k psa).sys.fuses = s.sys.fuses ∧ (State.setMap s k
        psa).mem = s.mem := by simp [State.setMap]

@[simp] theorem State.unmap_kept (s : State) (p : Key → Bool) :
    (State.unmap s p).pending = s.pending ∧ (State.unmap s p).sys.fuses = s.sys.fuses ∧ (State.unmap s p).mem =
        s.mem := by simp [State.unmap]

@[simp] theorem State.capWatch_kept (new old : State) :
    (State.capWatch new old).pending = new.pending ∧ (State.capWatch new old).sys.fuses = new.sys.fuses ∧
        (State.capWatch new old).mem = new.mem := by simp [State.capWatch]

@[simp] theorem State.openBands_kept (s : State) (g cls : Nat) (x0 : List Nat) (y0 : Nat) :
    (State.openBands s g cls x0 y0).pending = s.pending ∧ (State.openBands s g cls x0 y0).sys.fuses = s.sys.fuses ∧
        (State.openBands s g cls x0 y0).mem = s.mem := by
  induction x0 generalizing s g cls y0 <;> simp_all [State.openBands]

@[simp] theorem State.countDegraded_kept (s : State) :
    (State.countDegraded s).pending = s.pending ∧ (State.countDegraded s).sys.fuses = s.sys.fuses ∧
        (State.countDegraded s).mem = s.mem := by simp [State.countDegraded]

@[simp] theorem State.makeGroup_kept (s : State) (cls : Nat) (clean : Bool) (surfs : List Nat) :
    (State.makeGroup s cls clean surfs).pending = s.pending ∧ (State.makeGroup s cls clean surfs).sys.fuses =
        s.sys.fuses ∧ (State.makeGroup s cls clean surfs).mem = s.mem := by simp [State.makeGroup]

theorem State.formGroup_kept {s t : State} {cls : Nat} {cleaning : Bool} (h : s.formGroup cls cleaning = some t) :
    t.pending = s.pending ∧ t.sys.fuses = s.sys.fuses ∧ t.mem = s.mem := by
  unfold State.formGroup at h
  split at h
  · cases h
    simp
  · split at h
    · rw [Option.map_eq_some_iff] at h
      obtain ⟨l, -, rfl⟩ := h
      simp
    · simp at h


@[simp] theorem State.fillGroup_kept (s : State) (gn : Nat) (g : Group) :
    (State.fillGroup s gn g).pending = s.pending ∧ (State.fillGroup s gn g).sys.fuses = s.sys.fuses ∧
        (State.fillGroup s gn g).mem = s.mem := by simp [State.fillGroup]

@[simp] theorem State.sendSector_kept (s : State) (psa : Nat) (x : Sector) :
    (State.sendSector s psa x).pending = s.pending ∧ (State.sendSector s psa x).sys.fuses = s.sys.fuses ∧
        (State.sendSector s psa x).mem = s.mem := by
  unfold State.sendSector
  repeat' split
  all_goals simp

@[simp] theorem State.putSector_kept (s : State) (psa : Nat) (x : Sector) :
    (State.putSector s psa x).pending = s.pending ∧ (State.putSector s psa x).sys.fuses = s.sys.fuses ∧
        (State.putSector s psa x).mem = s.mem := by simp [State.putSector]

@[simp] theorem State.padPlaces_kept (s : State) (b : Nat) (x0 : Nat) (y0 : Nat) :
    (State.padPlaces s b x0 y0).pending = s.pending ∧ (State.padPlaces s b x0 y0).sys.fuses = s.sys.fuses ∧
        (State.padPlaces s b x0 y0).mem = s.mem := by
  induction y0 generalizing s b x0 <;> simp_all [State.padPlaces]

@[simp] theorem State.writeAt_kept (s : State) (b j : Nat) (x : Sector) :
    (State.writeAt s b j x).pending = s.pending ∧ (State.writeAt s b j x).sys.fuses = s.sys.fuses ∧ (State.writeAt s
        b j x).mem = s.mem := by simp [State.writeAt]

@[simp] theorem State.takePlaces_kept (s : State) (b n : Nat) :
    (State.takePlaces s b n).pending = s.pending ∧ (State.takePlaces s b n).sys.fuses = s.sys.fuses ∧
        (State.takePlaces s b n).mem = s.mem := by simp [State.takePlaces]

@[simp] theorem State.fullCheck_kept (s : State) (gn : Nat) :
    (State.fullCheck s gn).pending = s.pending ∧ (State.fullCheck s gn).sys.fuses = s.sys.fuses ∧ (State.fullCheck s
        gn).mem = s.mem := by
  unfold State.fullCheck
  repeat' split
  all_goals simp

@[simp] theorem State.addPending_kept (s : State) (a n : Nat) :
    (State.addPending s a n).pending = s.pending ∧ (State.addPending s a n).sys.fuses = s.sys.fuses ∧
        (State.addPending s a n).mem = s.mem := by simp [State.addPending]

@[simp] theorem State.subPending_kept (s : State) (a n : Nat) :
    (State.subPending s a n).pending = s.pending ∧ (State.subPending s a n).sys.fuses = s.sys.fuses ∧
        (State.subPending s a n).mem = s.mem := by simp [State.subPending]

@[simp] theorem State.closeOldest_kept (s : State) (cls : Nat) :
    (State.closeOldest s cls).pending = s.pending ∧ (State.closeOldest s cls).sys.fuses = s.sys.fuses ∧
        (State.closeOldest s cls).mem = s.mem := by
  unfold State.closeOldest
  repeat' split
  all_goals simp

@[simp] theorem State.withRoom_kept (s : State) (cls n : Nat) (cleaning : Bool) :
    (State.withRoom s cls n cleaning).pending = s.pending ∧ (State.withRoom s cls n cleaning).sys.fuses =
        s.sys.fuses ∧ (State.withRoom s cls n cleaning).mem = s.mem := by
  unfold State.withRoom
  split
  · simp
  · split
    · rename_i t ht
      have k := State.formGroup_kept ht
      simp [k]
    · simp

theorem State.place_kept {s t : State} {cls n p : Nat} {replaced cleaning : Bool} (h : s.place cls n replaced
    cleaning = some (p, t)) :
    t.pending = s.pending ∧ t.sys.fuses = s.sys.fuses ∧ t.mem = s.mem := by
  unfold State.place at h
  dsimp only at h
  repeat' split at h
  all_goals first
    | (simp at h; done)
    | (simp only [Option.some.injEq, Prod.mk.injEq] at h
       obtain ⟨-, rfl⟩ := h
       simp)


@[simp] theorem State.putParity_kept (s : State) (gn : Nat) (g : Group) (r j b : Nat) :
    (State.putParity s gn g r j b).pending = s.pending ∧ (State.putParity s gn g r j b).sys.fuses = s.sys.fuses ∧
        (State.putParity s gn g r j b).mem = s.mem := by simp [State.putParity]

@[simp] theorem State.writeParity_kept (s : State) (gn : Nat) (g : Group) (r : Nat) (x0 : List (Option Nat)) (y0 :
    Nat) :
    (State.writeParity s gn g r x0 y0).pending = s.pending ∧ (State.writeParity s gn g r x0 y0).sys.fuses =
        s.sys.fuses ∧ (State.writeParity s gn g r x0 y0).mem = s.mem := by
  induction x0 generalizing s gn g r y0
  all_goals simp only [State.writeParity]
  all_goals (repeat' split)
  all_goals simp_all

@[simp] theorem State.finishRows_kept (s : State) (gn : Nat) (x0 : Nat) :
    (State.finishRows s gn x0).pending = s.pending ∧ (State.finishRows s gn x0).sys.fuses = s.sys.fuses ∧
        (State.finishRows s gn x0).mem = s.mem := by
  induction x0 generalizing s
  all_goals simp only [State.finishRows]
  all_goals (repeat' split)
  all_goals simp_all

@[simp] theorem State.finishAt_kept (s : State) (b : Nat) :
    (State.finishAt s b).pending = s.pending ∧ (State.finishAt s b).sys.fuses = s.sys.fuses ∧ (State.finishAt s
        b).mem = s.mem := by
  unfold State.finishAt
  repeat' split
  all_goals simp

@[simp] theorem State.putPad_kept (s : State) (b j : Nat) :
    (State.putPad s b j).pending = s.pending ∧ (State.putPad s b j).sys.fuses = s.sys.fuses ∧ (State.putPad s b
        j).mem = s.mem := by simp [State.putPad]

@[simp] theorem State.commitSector_kept (s : State) (key : Key) (cls b j data : Nat) :
    (State.commitSector s key cls b j data).pending = s.pending ∧ (State.commitSector s key cls b j data).sys.fuses
        = s.sys.fuses ∧ (State.commitSector s key cls b j data).mem = s.mem := by
  simp only [State.commitSector]
  repeat' split
  all_goals simp_all

@[simp] theorem State.commitSectors_kept (s : State) (c : Ctx) (dead : List Nat) (data : Nat) (x0 : Nat) (y0 : Nat) :
    (State.commitSectors s c dead data x0 y0).pending = s.pending ∧ (State.commitSectors s c dead data x0
        y0).sys.fuses = s.sys.fuses ∧ (State.commitSectors s c dead data x0 y0).mem = s.mem := by
  induction x0 generalizing s c dead data y0 <;> simp_all [State.commitSectors]

@[simp] theorem State.wroteGrans_kept (s : State) (t id : Nat) (gs : List Nat) :
    (State.wroteGrans s t id gs).pending = s.pending ∧ (State.wroteGrans s t id gs).sys.fuses = s.sys.fuses ∧
        (State.wroteGrans s t id gs).mem = s.mem := by simp [State.wroteGrans]

@[simp] theorem State.supersede_kept (s : State) (sel : Nat → Ctx → Bool) (p : Key → Bool) :
    (State.supersede s sel p).pending = s.pending ∧ (State.supersede s sel p).sys.fuses = s.sys.fuses ∧
        (State.supersede s sel p).mem = s.mem := by simp [State.supersede]

@[simp] theorem State.supersedeBy_kept (s : State) (k : Nat) :
    (State.supersedeBy s k).pending = s.pending ∧ (State.supersedeBy s k).sys.fuses = s.sys.fuses ∧
        (State.supersedeBy s k).mem = s.mem := by simp [State.supersedeBy]

@[simp] theorem State.chargeCommit_kept (s : State) (k new : Nat) :
    (State.chargeCommit s k new).pending = s.pending ∧ (State.chargeCommit s k new).sys.fuses = s.sys.fuses ∧
        (State.chargeCommit s k new).mem = s.mem := by simp [State.chargeCommit]

@[simp] theorem State.raiseBy_kept (s : State) (k : Nat) :
    (State.raiseBy s k).pending = s.pending ∧ (State.raiseBy s k).sys.fuses = s.sys.fuses ∧ (State.raiseBy s k).mem
        = s.mem := by simp [State.raiseBy]

@[simp] theorem State.commitRuns_kept (s : State) (k : Nat) :
    (State.commitRuns s k).pending = s.pending ∧ (State.commitRuns s k).sys.fuses = s.sys.fuses ∧ (State.commitRuns
        s k).mem = s.mem := by simp [State.commitRuns]

@[simp] theorem State.addLate_kept (s : State) (e : Late) :
    (State.addLate s e).pending = s.pending ∧ (State.addLate s e).sys.fuses = s.sys.fuses ∧ (State.addLate s e).mem
        = s.mem := by simp [State.addLate]

@[simp] theorem State.commitData_kept (s : State) (key : Key) (cls b j d : Nat) :
    (State.commitData s key cls b j d).pending = s.pending ∧ (State.commitData s key cls b j d).sys.fuses =
        s.sys.fuses ∧ (State.commitData s key cls b j d).mem = s.mem := by simp [State.commitData]

@[simp] theorem State.writeLate_kept (s : State) (e : Late) :
    (State.writeLate s e).pending = s.pending ∧ (State.writeLate s e).sys.fuses = s.sys.fuses ∧ (State.writeLate s
        e).mem = s.mem := by
  unfold State.writeLate
  repeat' split
  all_goals simp

@[simp] theorem State.forgetLate_kept (s : State) (e : Late) :
    (State.forgetLate s e).pending = s.pending ∧ (State.forgetLate s e).sys.fuses = s.sys.fuses ∧ (State.forgetLate
        s e).mem = s.mem := by
  unfold State.forgetLate
  repeat' split
  all_goals simp

@[simp] theorem State.settle_kept (s : State) :
    (State.settle s).pending = s.pending ∧ (State.settle s).sys.fuses = s.sys.fuses ∧ (State.settle s).mem = s.mem
        := by simp [State.settle]

@[simp] theorem State.abandonSectors_kept (s : State) (place : Nat) (x0 : Nat) (y0 : Nat) :
    (State.abandonSectors s place x0 y0).pending = s.pending ∧ (State.abandonSectors s place x0 y0).sys.fuses =
        s.sys.fuses ∧ (State.abandonSectors s place x0 y0).mem = s.mem := by
  induction x0 generalizing s place y0
  all_goals simp only [State.abandonSectors]
  all_goals (repeat' split)
  all_goals simp_all

theorem State.rollBack_kept {s t : State} {psa n : Nat} (h : s.rollBack psa n = some t) :
    t.pending = s.pending ∧ t.sys.fuses = s.sys.fuses ∧ t.mem = s.mem := by
  unfold State.rollBack at h
  repeat' split at h
  all_goals first | (simp at h; done) | (cases h; simp)


@[simp] theorem State.releaseRun_kept (s : State) (begun : Bool) (place lo n : Nat) :
    (State.releaseRun s begun place lo n).pending = s.pending ∧ (State.releaseRun s begun place lo n).sys.fuses =
        s.sys.fuses ∧ (State.releaseRun s begun place lo n).mem = s.mem := by
  unfold State.releaseRun
  split
  · simp
  · split
    · rename_i t ht
      split at ht
      · simp at ht
      · exact State.rollBack_kept ht
    · simp

@[simp] theorem State.releasePlace_kept (s : State) (begun : Bool) (place n : Nat) :
    (State.releasePlace s begun place n).pending = s.pending ∧ (State.releasePlace s begun place n).sys.fuses =
        s.sys.fuses ∧ (State.releasePlace s begun place n).mem = s.mem := by simp [State.releasePlace]

@[simp] theorem State.dropPlace_kept (s : State) (k : Nat) :
    (State.dropPlace s k).pending = s.pending ∧ (State.dropPlace s k).sys.fuses = s.sys.fuses ∧ (State.dropPlace s
        k).mem = s.mem := by simp [State.dropPlace]

@[simp] theorem State.dropWrite_kept (s : State) (k : Nat) :
    (State.dropWrite s k).pending = s.pending ∧ (State.dropWrite s k).sys.fuses = s.sys.fuses ∧ (State.dropWrite s
        k).mem = s.mem := by simp [State.dropWrite]

@[simp] theorem State.popOrphan_kept (s : State) (q : Nat × Nat × Nat) :
    (State.popOrphan s q).pending = s.pending ∧ (State.popOrphan s q).sys.fuses = s.sys.fuses ∧ (State.popOrphan s
        q).mem = s.mem := by simp [State.popOrphan]

@[simp] theorem State.pushRun_kept (s : State) (k : Nat) :
    (State.pushRun s k).pending = s.pending ∧ (State.pushRun s k).sys.fuses = s.sys.fuses ∧ (State.pushRun s k).mem
        = s.mem := by simp [State.pushRun]

@[simp] theorem State.pullRun_kept (s : State) (a k : Nat) :
    (State.pullRun s a k).pending = s.pending ∧ (State.pullRun s a k).sys.fuses = s.sys.fuses ∧ (State.pullRun s a
        k).mem = s.mem := by simp [State.pullRun]

theorem State.placed_kept {s t : State} (k p : Nat) (h : t.pending = s.pending ∧ t.sys.fuses = s.sys.fuses ∧ t.mem =
    s.mem) :
    (s.placed t k p).pending = s.pending ∧ (s.placed t k p).sys.fuses = s.sys.fuses ∧ (s.placed t k p).mem = s.mem
        := by
  obtain ⟨h1, h2, h3⟩ := h
  unfold State.placed
  dsimp only
  repeat' split
  all_goals simp [h1, h2, h3]


@[simp] theorem State.flushPlace_kept (s : State) (k a : Nat) :
    (State.flushPlace s k a).pending = s.pending ∧ (State.flushPlace s k a).sys.fuses = s.sys.fuses ∧
        (State.flushPlace s k a).mem = s.mem := by
  unfold State.flushPlace
  split
  · simp
  · dsimp only
    split
    · simp
    · exact State.placed_kept k _ (by simp)

@[simp] theorem State.placeWrite_kept (s : State) (k : Nat) :
    (State.placeWrite s k).pending = s.pending ∧ (State.placeWrite s k).sys.fuses = s.sys.fuses ∧ (State.placeWrite
        s k).mem = s.mem := by
  unfold State.placeWrite
  dsimp only
  repeat' split
  all_goals first | exact State.placed_kept k _ (State.place_kept (by assumption)) | simp

@[simp] theorem State.unplace_kept (s : State) (k : Nat) :
    (State.unplace s k).pending = s.pending ∧ (State.unplace s k).sys.fuses = s.sys.fuses ∧ (State.unplace s k).mem
        = s.mem := by simp [State.unplace]

@[simp] theorem State.placeAgain_kept (s : State) (a k : Nat) :
    (State.placeAgain s a k).pending = s.pending ∧ (State.placeAgain s a k).sys.fuses = s.sys.fuses ∧
        (State.placeAgain s a k).mem = s.mem := by simp [State.placeAgain]

@[simp] theorem State.rePlace_kept (s : State) (k : Nat) :
    (State.rePlace s k).pending = s.pending ∧ (State.rePlace s k).sys.fuses = s.sys.fuses ∧ (State.rePlace s k).mem
        = s.mem := by
  unfold State.rePlace
  dsimp only
  refine ⟨(foldl_pending _ _ _ ?_).trans (foldl_pending _ _ _ ?_), (foldl_fuses _ _ _ ?_).trans (foldl_fuses _ _ _
      ?_),
    (foldl_mem _ _ _ ?_).trans (foldl_mem _ _ _ ?_)⟩
  all_goals
    intro t a
    simp

@[simp] theorem State.loseKey_kept (s : State) (k : Key) :
    (State.loseKey s k).pending = s.pending ∧ (State.loseKey s k).sys.fuses = s.sys.fuses ∧ (State.loseKey s k).mem
        = s.mem := by simp [State.loseKey]

@[simp] theorem State.freeBands_kept (s : State) (bs : List Nat) :
    (State.freeBands s bs).pending = s.pending ∧ (State.freeBands s bs).sys.fuses = s.sys.fuses ∧ (State.freeBands s
        bs).mem = s.mem := by
  unfold State.freeBands
  refine ⟨foldl_pending _ _ _ ?_, foldl_fuses _ _ _ ?_, foldl_mem _ _ _ ?_⟩
  all_goals
    intro t a
    split <;> rfl

@[simp] theorem State.ensureLanding_kept (s : State) :
    (State.ensureLanding s).pending = s.pending ∧ (State.ensureLanding s).sys.fuses = s.sys.fuses ∧
        (State.ensureLanding s).mem = s.mem := by
  unfold State.ensureLanding
  refine ⟨foldl_pending _ _ _ ?_, foldl_fuses _ _ _ ?_, foldl_mem _ _ _ ?_⟩
  all_goals
    intro t a
    dsimp only
    split
    · rfl
    · split <;> simp

@[simp] theorem State.copyKey_kept (s : State) (cleaning : Bool) (key : Key) :
    (State.copyKey s cleaning key).pending = s.pending ∧ (State.copyKey s cleaning key).sys.fuses = s.sys.fuses ∧
        (State.copyKey s cleaning key).mem = s.mem := by
  unfold State.copyKey
  repeat' split
  all_goals first | (have k := State.place_kept (by assumption); simp [k]; done) | simp

@[simp] theorem State.copyKeys_kept (s : State) (cleaning : Bool) (ks : List Key) :
    (State.copyKeys s cleaning ks).pending = s.pending ∧ (State.copyKeys s cleaning ks).sys.fuses = s.sys.fuses ∧
        (State.copyKeys s cleaning ks).mem = s.mem := by simp [State.copyKeys]

@[simp] theorem State.dropLate_kept (s : State) (on : Nat → Bool) :
    (State.dropLate s on).pending = s.pending ∧ (State.dropLate s on).sys.fuses = s.sys.fuses ∧ (State.dropLate s
        on).mem = s.mem := by simp [State.dropLate]

@[simp] theorem State.refillParity_kept (s : State) (gn : Nat) (g : Group) (j b : Nat) (x0 : Nat) (y0 : Nat) :
    (State.refillParity s gn g j b x0 y0).pending = s.pending ∧ (State.refillParity s gn g j b x0 y0).sys.fuses =
        s.sys.fuses ∧ (State.refillParity s gn g j b x0 y0).mem = s.mem := by
  induction x0 generalizing s gn g j b y0 <;> simp_all [State.refillParity]

@[simp] theorem State.rebuildMember_kept (s : State) (gn i : Nat) :
    (State.rebuildMember s gn i).pending = s.pending ∧ (State.rebuildMember s gn i).sys.fuses = s.sys.fuses ∧
        (State.rebuildMember s gn i).mem = s.mem := by
  unfold State.rebuildMember
  repeat' split
  all_goals simp

@[simp] theorem State.rebuildMissing_kept (s : State) :
    (State.rebuildMissing s).pending = s.pending ∧ (State.rebuildMissing s).sys.fuses = s.sys.fuses ∧
        (State.rebuildMissing s).mem = s.mem := by simp [State.rebuildMissing]

end Sys2Proof.Machine
end

