-- ==== Sys2Proof/Laws/FrameBedOps.lean ====
section
/-!
SUPPORT. Sys2Proof/Laws/FrameBedOps.lean: what each operation and meaning of Machine/BedOps.lean leaves alone: the command queue, the
fuses, and memory, or its canonical form where the operation may write memory.
-/

namespace Sys2Proof.Machine

/-! ### What the operations leave alone -/

@[simp] theorem State.sidebandUp_kept (s : State) :
    (State.sidebandUp s).pending = s.pending ∧ (State.sidebandUp s).sys.fuses = s.sys.fuses ∧ (State.sidebandUp
        s).mem = s.mem := by simp [State.sidebandUp]

@[simp] theorem State.setGran_kept (s : State) (g : Nat) (x : Gran) :
    (State.setGran s g x).pending = s.pending ∧ (State.setGran s g x).sys.fuses = s.sys.fuses ∧ (State.setGran s g
        x).mem = s.mem := by simp [State.setGran]

@[simp] theorem State.poisonGran_kept (s : State) (g : Nat) :
    (State.poisonGran s g).pending = s.pending ∧ (State.poisonGran s g).sys.fuses = s.sys.fuses ∧ (State.poisonGran
        s g).mem = s.mem := by simp [State.poisonGran]

@[simp] theorem State.rewriteGran_kept (s : State) (g : Nat) :
    (State.rewriteGran s g).pending = s.pending ∧ (State.rewriteGran s g).sys.fuses = s.sys.fuses := by
  unfold State.rewriteGran
  repeat' split
  all_goals simp

@[simp] theorem State.countRow_kept (s : State) (g : Nat) :
    (State.countRow s g).pending = s.pending ∧ (State.countRow s g).sys.fuses = s.sys.fuses ∧ (State.countRow s
        g).mem = s.mem := by simp [State.countRow]

@[simp] theorem State.reportCe_kept (s : State) (g : Nat) :
    (State.reportCe s g).pending = s.pending ∧ (State.reportCe s g).sys.fuses = s.sys.fuses ∧ (State.reportCe s
        g).mem = s.mem := by simp [State.reportCe]

@[simp] theorem State.reportUe_kept (s : State) (cls g kind : Nat) :
    (State.reportUe s cls g kind).pending = s.pending ∧ (State.reportUe s cls g kind).sys.fuses = s.sys.fuses ∧
        (State.reportUe s cls g kind).mem = s.mem := by simp [State.reportUe]

@[simp] theorem State.serve_kept (s : State) (cls n : Nat) :
    (State.serve s cls n).pending = s.pending ∧ (State.serve s cls n).sys.fuses = s.sys.fuses ∧ (State.serve s cls
        n).mem = s.mem := by simp [State.serve]

@[simp] theorem State.decodeGran_kept (s : State) (cls g : Nat) :
    (State.decodeGran s cls g).2.2.pending = s.pending ∧ (State.decodeGran s cls g).2.2.sys.fuses = s.sys.fuses ∧
        (State.decodeGran s cls g).2.2.mem = s.mem := by simp [State.decodeGran]

@[simp] theorem State.putLine_kept (s : State) (x : ShlLine) :
    (State.putLine s x).pending = s.pending ∧ (State.putLine s x).sys.fuses = s.sys.fuses ∧ (State.putLine s x).mem
        = s.mem := by simp [State.putLine]

@[simp] theorem State.dropLine_kept (s : State) (l : Nat) :
    (State.dropLine s l).pending = s.pending ∧ (State.dropLine s l).sys.fuses = s.sys.fuses ∧ (State.dropLine s
        l).mem = s.mem := by simp [State.dropLine]

@[simp] theorem State.snoopWrite_kept (s : State) (g pos len v : Nat) :
    (State.snoopWrite s g pos len v).pending = s.pending ∧ (State.snoopWrite s g pos len v).sys.fuses = s.sys.fuses
        ∧ (State.snoopWrite s g pos len v).mem = s.mem := by
  unfold State.snoopWrite
  repeat' split
  all_goals simp

@[simp] theorem State.readGran_kept (s : State) (cls g : Nat) :
    (State.readGran s cls g).2.pending = s.pending ∧ (State.readGran s cls g).2.sys.fuses = s.sys.fuses ∧
        (State.readGran s cls g).2.mem = s.mem := by
  unfold State.readGran
  repeat' split
  all_goals simp

@[simp] theorem State.readGrans_kept (s : State) (cls g : Nat) (x0 : Nat) :
    (State.readGrans s cls g x0).2.pending = s.pending ∧ (State.readGrans s cls g x0).2.sys.fuses = s.sys.fuses ∧
        (State.readGrans s cls g x0).2.mem = s.mem := by
  induction x0 generalizing s cls g
  all_goals simp only [State.readGrans]
  all_goals (repeat' split)
  all_goals simp_all

@[simp] theorem State.hbmRead_kept (s : State) (cls ofs n : Nat) :
    (State.hbmRead s cls ofs n).2.pending = s.pending ∧ (State.hbmRead s cls ofs n).2.sys.fuses = s.sys.fuses ∧
        (State.hbmRead s cls ofs n).2.mem = s.mem := by simp [State.hbmRead]

@[simp] theorem State.claimBlock_kept (s : State) (b : Nat) :
    (State.claimBlock s b).pending = s.pending ∧ (State.claimBlock s b).sys.fuses = s.sys.fuses ∧ (State.claimBlock
        s b).mem = s.mem := by simp [State.claimBlock]

@[simp] theorem State.mergeGran_kept (s : State) (cls g len : Nat) :
    (State.mergeGran s cls g len).2.pending = s.pending ∧ (State.mergeGran s cls g len).2.sys.fuses = s.sys.fuses :=
        by simp [State.mergeGran]

@[simp] theorem State.writeGran_kept (s : State) (cls g pos len v : Nat) :
    (State.writeGran s cls g pos len v).2.pending = s.pending ∧ (State.writeGran s cls g pos len v).2.sys.fuses =
        s.sys.fuses := by simp [State.writeGran]

@[simp] theorem State.writeGrans_kept (s : State) (cls ofs n v : Nat) (x0 : Nat) :
    (State.writeGrans s cls ofs n v x0).2.pending = s.pending ∧ (State.writeGrans s cls ofs n v x0).2.sys.fuses =
        s.sys.fuses := by
  induction x0 generalizing s cls ofs n v <;> simp_all [State.writeGrans]

@[simp] theorem State.hbmWrite_kept (s : State) (cls ofs n v : Nat) :
    (State.hbmWrite s cls ofs n v).2.pending = s.pending ∧ (State.hbmWrite s cls ofs n v).2.sys.fuses = s.sys.fuses
        := by simp [State.hbmWrite]

@[simp] theorem State.writeBack_kept (s : State) (x : ShlLine) :
    (State.writeBack s x).pending = s.pending ∧ (State.writeBack s x).sys.fuses = s.sys.fuses := by simp
        [State.writeBack]

@[simp] theorem State.evict_kept (s : State) (n w : Nat) :
    (State.evict s n w).pending = s.pending ∧ (State.evict s n w).sys.fuses = s.sys.fuses := by
  unfold State.evict
  repeat' split
  all_goals simp

@[simp] theorem State.allocate_kept (s : State) (l w : Nat) :
    (State.allocate s l w).2.pending = s.pending ∧ (State.allocate s l w).2.sys.fuses = s.sys.fuses := by
  simp only [State.allocate]
  repeat' split
  all_goals simp_all

@[simp] theorem State.ensureLine_kept (s : State) (l : Nat) :
    (State.ensureLine s l).2.pending = s.pending ∧ (State.ensureLine s l).2.sys.fuses = s.sys.fuses := by simp
        [State.ensureLine]

@[simp] theorem State.drainLine_kept (s : State) (l : Nat) :
    (State.drainLine s l).pending = s.pending ∧ (State.drainLine s l).sys.fuses = s.sys.fuses := by
  unfold State.drainLine
  repeat' split
  all_goals simp

@[simp] theorem State.cpuRead_kept (s : State) (ofs n : Nat) :
    (State.cpuRead s ofs n).2.pending = s.pending ∧ (State.cpuRead s ofs n).2.sys.fuses = s.sys.fuses := by simp
        [State.cpuRead]

@[simp] theorem State.cpuWrite_kept (s : State) (ofs n v : Nat) :
    (State.cpuWrite s ofs n v).2.pending = s.pending ∧ (State.cpuWrite s ofs n v).2.sys.fuses = s.sys.fuses := by
  simp only [State.cpuWrite]
  repeat' split
  all_goals simp_all

@[simp] theorem State.shaleArrayError_kept (s : State) (l : Nat) (tag inj : Bool) :
    (State.shaleArrayError s l tag inj).pending = s.pending ∧ (State.shaleArrayError s l tag inj).sys.fuses =
        s.sys.fuses := by
  unfold State.shaleArrayError
  repeat' split
  all_goals simp

@[simp] theorem State.holdHbm_kept (s : State) (h : HeldHbm) :
    (State.holdHbm s h).pending = s.pending ∧ (State.holdHbm s h).sys.fuses = s.sys.fuses ∧ (State.holdHbm s h).mem
        = s.mem := by simp [State.holdHbm]

@[simp] theorem State.ctxStore_kept (s : State) (o v : Nat) (x0 : Nat) :
    (State.ctxStore s o v x0).pending = s.pending ∧ (State.ctxStore s o v x0).sys.fuses = s.sys.fuses ∧
        (State.ctxStore s o v x0).mem = s.mem := by
  induction x0 generalizing s o v <;> simp_all [State.ctxStore]

@[simp] theorem State.physRead_kept (s : State) (cls a n : Nat) :
    (State.physRead s cls a n).2.pending = s.pending ∧ (State.physRead s cls a n).2.sys.fuses = s.sys.fuses ∧
        (State.physRead s cls a n).2.mem = s.mem := by simp [State.physRead]

@[simp] theorem State.physWrite_kept (s : State) (cls a n v : Nat) :
    (State.physWrite s cls a n v).2.pending = s.pending ∧ (State.physWrite s cls a n v).2.sys.fuses = s.sys.fuses :=
        by simp [State.physWrite]

/-! ### Memory stays canonical -/

theorem State.rewriteGran_memWf (s : State) (g : Nat) (h : Memory.wf s.mem = true) :
    Memory.wf (State.rewriteGran s g).mem = true := by
  unfold State.rewriteGran
  repeat' first
      | with_reducible assumption | with_reducible apply store_memWf | with_reducible apply foldl_memWf
      | (intro t a ha) | split | simp

theorem State.mergeGran_memWf (s : State) (cls g len : Nat) (h : Memory.wf s.mem = true) :
    Memory.wf (State.mergeGran s cls g len).2.mem = true := by
  unfold State.mergeGran
  repeat' first
      | with_reducible assumption | with_reducible apply State.rewriteGran_memWf | with_reducible apply foldl_memWf
      | (intro t a ha) | split | simp

theorem State.writeGran_memWf (s : State) (cls g pos len v : Nat) (h : Memory.wf s.mem = true) :
    Memory.wf (State.writeGran s cls g pos len v).2.mem = true := by
  unfold State.writeGran
  repeat' first
      | with_reducible assumption | with_reducible apply State.mergeGran_memWf | with_reducible apply store_memWf
      | with_reducible apply foldl_memWf | (intro t a ha) | split | simp

theorem State.writeGrans_memWf (s : State) (cls ofs n v : Nat) (x0 : Nat) (h : Memory.wf s.mem = true) :
    Memory.wf (State.writeGrans s cls ofs n v x0).2.mem = true := by
  induction x0 generalizing s cls ofs n v with
  | zero => simpa [State.writeGrans] using h
  | succ m ih =>
    simp only [State.writeGrans]
    repeat' first
        | with_reducible assumption | apply ih | with_reducible apply State.writeGran_memWf
        | with_reducible apply foldl_memWf | (intro t a ha) | split | simp

theorem State.hbmWrite_memWf (s : State) (cls ofs n v : Nat) (h : Memory.wf s.mem = true) :
    Memory.wf (State.hbmWrite s cls ofs n v).2.mem = true := by
  unfold State.hbmWrite
  repeat' first
      | with_reducible assumption | with_reducible apply State.writeGrans_memWf | with_reducible apply foldl_memWf
      | (intro t a ha) | split | simp

theorem State.writeBack_memWf (s : State) (x : ShlLine) (h : Memory.wf s.mem = true) :
    Memory.wf (State.writeBack s x).mem = true := by
  unfold State.writeBack
  repeat' first
      | with_reducible assumption | with_reducible apply State.hbmWrite_memWf | with_reducible apply foldl_memWf
      | (intro t a ha) | split | simp

theorem State.evict_memWf (s : State) (n w : Nat) (h : Memory.wf s.mem = true) :
    Memory.wf (State.evict s n w).mem = true := by
  unfold State.evict
  repeat' first
      | with_reducible assumption | with_reducible apply State.writeBack_memWf | with_reducible apply foldl_memWf
      | (intro t a ha) | split | simp

theorem State.allocate_memWf (s : State) (l w : Nat) (h : Memory.wf s.mem = true) :
    Memory.wf (State.allocate s l w).2.mem = true := by
  unfold State.allocate
  repeat' first
      | with_reducible assumption | with_reducible apply State.evict_memWf | with_reducible apply foldl_memWf
      | (intro t a ha) | split | simp

theorem State.ensureLine_memWf (s : State) (l : Nat) (h : Memory.wf s.mem = true) :
    Memory.wf (State.ensureLine s l).2.mem = true := by
  unfold State.ensureLine
  repeat' first
      | with_reducible assumption | with_reducible apply State.allocate_memWf | with_reducible apply foldl_memWf
      | (intro t a ha) | split | simp

theorem State.drainLine_memWf (s : State) (l : Nat) (h : Memory.wf s.mem = true) :
    Memory.wf (State.drainLine s l).mem = true := by
  unfold State.drainLine
  repeat' first
      | with_reducible assumption | with_reducible apply State.writeBack_memWf | with_reducible apply foldl_memWf
      | (intro t a ha) | split | simp

theorem State.cpuRead_memWf (s : State) (ofs n : Nat) (h : Memory.wf s.mem = true) :
    Memory.wf (State.cpuRead s ofs n).2.mem = true := by
  unfold State.cpuRead
  repeat' first
      | with_reducible assumption | with_reducible apply State.drainLine_memWf
      | with_reducible apply State.ensureLine_memWf | with_reducible apply foldl_memWf | (intro t a ha) | split
      | simp

theorem State.cpuWrite_memWf (s : State) (ofs n v : Nat) (h : Memory.wf s.mem = true) :
    Memory.wf (State.cpuWrite s ofs n v).2.mem = true := by
  unfold State.cpuWrite
  repeat' first
      | with_reducible assumption | with_reducible apply State.drainLine_memWf
      | with_reducible apply State.ensureLine_memWf | with_reducible apply State.hbmWrite_memWf
      | with_reducible apply foldl_memWf | (intro t a ha) | split | simp

theorem State.shaleArrayError_memWf (s : State) (l : Nat) (tag inj : Bool) (h : Memory.wf s.mem = true) :
    Memory.wf (State.shaleArrayError s l tag inj).mem = true := by
  unfold State.shaleArrayError
  repeat' first
      | with_reducible assumption | with_reducible apply State.allocate_memWf | with_reducible apply foldl_memWf
      | (intro t a ha) | split | simp

theorem State.physWrite_memWf (s : State) (cls a n v : Nat) (h : Memory.wf s.mem = true) :
    Memory.wf (State.physWrite s cls a n v).2.mem = true := by
  unfold State.physWrite
  repeat' first
      | with_reducible assumption | with_reducible apply State.hbmWrite_memWf | with_reducible apply store_memWf
      | with_reducible apply foldl_memWf | (intro t a ha) | split | simp

end Sys2Proof.Machine
end

