-- ==== Sys2Proof/Laws/FrameCoreOps.lean ====
section
/-!
SUPPORT. Sys2Proof/Laws/FrameCoreOps.lean: what each operation and meaning of Machine/CoreOps.lean leaves alone: the command queue, the
fuses, and memory, or its canonical form where the operation may write memory.
-/

namespace Sys2Proof.Machine

/-! ### What the operations leave alone -/

@[simp] theorem State.coreTrap_kept (s : State) (c : Core) (cause addr : Nat) :
    (State.coreTrap s c cause addr).pending = s.pending ∧ (State.coreTrap s c cause addr).sys.fuses = s.sys.fuses ∧
        (State.coreTrap s c cause addr).mem = s.mem := by simp [State.coreTrap]

@[simp] theorem State.coreHbmRead_kept (s : State) (ofs n : Nat) :
    (State.coreHbmRead s ofs n).2.pending = s.pending ∧ (State.coreHbmRead s ofs n).2.sys.fuses = s.sys.fuses := by
  simp only [State.coreHbmRead]
  repeat' split
  all_goals simp_all

@[simp] theorem State.coreHbmWrite_kept (s : State) (ofs n v : Nat) :
    (State.coreHbmWrite s ofs n v).2.pending = s.pending ∧ (State.coreHbmWrite s ofs n v).2.sys.fuses = s.sys.fuses
        := by simp [State.coreHbmWrite]

@[simp] theorem State.coreHbmNow_kept (s : State) (h : Fin 4) (k : AccessKind) (n ofs v : Nat) :
    (State.coreHbmNow s h k n ofs v).pending = s.pending ∧ (State.coreHbmNow s h k n ofs v).sys.fuses = s.sys.fuses
        := by
  simp only [State.coreHbmNow]
  repeat' split
  all_goals simp_all

@[simp] theorem State.dropResv_kept (s : State) (p a n : Nat) :
    (State.dropResv s p a n).pending = s.pending ∧ (State.dropResv s p a n).sys.fuses = s.sys.fuses ∧
        (State.dropResv s p a n).mem = s.mem := by simp [State.dropResv]

@[simp] theorem State.atomic_kept (s : State) (h : Fin 4) (op : AmoOp) (n a v : Nat) :
    (State.atomic s h op n a v).pending = s.pending ∧ (State.atomic s h op n a v).sys.fuses = s.sys.fuses := by
  simp only [State.atomic]
  repeat' split
  all_goals simp_all

/-! ### Memory stays canonical -/

theorem State.coreHbmRead_memWf (s : State) (ofs n : Nat) (h : Memory.wf s.mem = true) :
    Memory.wf (State.coreHbmRead s ofs n).2.mem = true := by
  unfold State.coreHbmRead
  repeat' first
      | with_reducible assumption | with_reducible apply State.cpuRead_memWf | with_reducible apply foldl_memWf
      | (intro t a ha) | split | simp

theorem State.coreHbmWrite_memWf (s : State) (ofs n v : Nat) (h : Memory.wf s.mem = true) :
    Memory.wf (State.coreHbmWrite s ofs n v).2.mem = true := by
  unfold State.coreHbmWrite
  repeat' first
      | with_reducible assumption | with_reducible apply State.cpuWrite_memWf | with_reducible apply foldl_memWf
      | (intro t a ha) | split | simp

theorem State.coreHbmNow_memWf (s : State) (h : Fin 4) (k : AccessKind) (n ofs v : Nat) (hm : Memory.wf s.mem =
    true) :
    Memory.wf (State.coreHbmNow s h k n ofs v).mem = true := by
  unfold State.coreHbmNow
  repeat' first
      | with_reducible assumption | with_reducible apply State.coreHbmRead_memWf
      | with_reducible apply State.coreHbmWrite_memWf | with_reducible apply store_memWf
      | with_reducible apply foldl_memWf | (intro t a ha) | split | simp

theorem State.atomic_memWf (s : State) (h : Fin 4) (op : AmoOp) (n a v : Nat) (hm : Memory.wf s.mem = true) :
    Memory.wf (State.atomic s h op n a v).mem = true := by
  unfold State.atomic
  repeat' first
      | with_reducible assumption | with_reducible apply State.coreHbmRead_memWf
      | with_reducible apply State.coreHbmWrite_memWf | with_reducible apply State.physWrite_memWf
      | with_reducible apply foldl_memWf | (intro t a ha) | split | simp

end Sys2Proof.Machine
end

