-- ==== Sys2Proof/Laws/FrameTurnOps.lean ====
section
/-!
SUPPORT. Sys2Proof/Laws/FrameTurnOps.lean: what each operation and meaning of Machine/TurnOps.lean leaves alone: the command queue, the
fuses, and memory, or its canonical form where the operation may write memory.
-/

namespace Sys2Proof.Machine

/-! ### What the operations leave alone -/

@[simp] theorem State.pteRead_kept (s : State) (a : Nat) :
    (State.pteRead s a).2.pending = s.pending ∧ (State.pteRead s a).2.sys.fuses = s.sys.fuses ∧ (State.pteRead s
        a).2.mem = s.mem := by simp [State.pteRead]

@[simp] theorem State.walk_kept (s : State) (st vpn ppn : Nat) (x0 : Nat) :
    (State.walk s st vpn ppn x0).2.pending = s.pending ∧ (State.walk s st vpn ppn x0).2.sys.fuses = s.sys.fuses ∧
        (State.walk s st vpn ppn x0).2.mem = s.mem := by
  induction x0 generalizing s st vpn ppn
  all_goals simp only [State.walk]
  all_goals (repeat' split)
  all_goals simp_all

@[simp] theorem State.tlbDrop_kept (s : State) (p : TlbEntry → Bool) :
    (State.tlbDrop s p).pending = s.pending ∧ (State.tlbDrop s p).sys.fuses = s.sys.fuses ∧ (State.tlbDrop s p).mem
        = s.mem := by simp [State.tlbDrop]

@[simp] theorem State.tlbPut_kept (s : State) (e : TlbEntry) :
    (State.tlbPut s e).pending = s.pending ∧ (State.tlbPut s e).sys.fuses = s.sys.fuses ∧ (State.tlbPut s e).mem =
        s.mem := by simp [State.tlbPut]

@[simp] theorem State.tlbParity_kept (s : State) (st vpn : Nat) :
    (State.tlbParity s st vpn).pending = s.pending ∧ (State.tlbParity s st vpn).sys.fuses = s.sys.fuses ∧
        (State.tlbParity s st vpn).mem = s.mem := by
  simp only [State.tlbParity]
  repeat' split
  all_goals simp_all

@[simp] theorem State.tlbEntry_kept (s : State) (st vpn : Nat) :
    (State.tlbEntry s st vpn).2.pending = s.pending ∧ (State.tlbEntry s st vpn).2.sys.fuses = s.sys.fuses ∧
        (State.tlbEntry s st vpn).2.mem = s.mem := by
  simp only [State.tlbEntry]
  repeat' split
  all_goals simp_all

@[simp] theorem State.trnFault_kept (s : State) (st iova : Nat) (write : Bool) (cause : Nat) :
    (State.trnFault s st iova write cause).pending = s.pending ∧ (State.trnFault s st iova write cause).sys.fuses =
        s.sys.fuses ∧ (State.trnFault s st iova write cause).mem = s.mem := by simp [State.trnFault]

@[simp] theorem State.trnGives_kept (s : State) (a : Nat) :
    (State.trnGives s a).2.pending = s.pending ∧ (State.trnGives s a).2.sys.fuses = s.sys.fuses ∧ (State.trnGives s
        a).2.mem = s.mem := by simp [State.trnGives]

@[simp] theorem State.translate_kept (s : State) (st iova0 : Nat) (write : Bool) :
    (State.translate s st iova0 write).2.pending = s.pending ∧ (State.translate s st iova0 write).2.sys.fuses =
        s.sys.fuses ∧ (State.translate s st iova0 write).2.mem = s.mem := by
  simp only [State.translate]
  repeat' split
  all_goals simp_all

@[simp] theorem State.dmaReadPages_kept (s : State) (st cls iova n : Nat) (x0 : Nat) :
    (State.dmaReadPages s st cls iova n x0).2.2.pending = s.pending ∧ (State.dmaReadPages s st cls iova n
        x0).2.2.sys.fuses = s.sys.fuses ∧ (State.dmaReadPages s st cls iova n x0).2.2.mem = s.mem := by
  induction x0 generalizing s st cls iova n
  all_goals simp only [State.dmaReadPages]
  all_goals (repeat' split)
  all_goals simp_all

@[simp] theorem State.dmaRead_kept (s : State) (st cls iova n : Nat) :
    (State.dmaRead s st cls iova n).2.2.pending = s.pending ∧ (State.dmaRead s st cls iova n).2.2.sys.fuses =
        s.sys.fuses ∧ (State.dmaRead s st cls iova n).2.2.mem = s.mem := by simp [State.dmaRead]

@[simp] theorem State.dmaWritePages_kept (s : State) (st cls iova n v : Nat) (x0 : Nat) :
    (State.dmaWritePages s st cls iova n v x0).2.pending = s.pending ∧ (State.dmaWritePages s st cls iova n v
        x0).2.sys.fuses = s.sys.fuses := by
  induction x0 generalizing s st cls iova n v
  all_goals simp only [State.dmaWritePages]
  all_goals (repeat' split)
  all_goals simp_all

@[simp] theorem State.dmaWrite_kept (s : State) (st cls iova n v : Nat) :
    (State.dmaWrite s st cls iova n v).2.pending = s.pending ∧ (State.dmaWrite s st cls iova n v).2.sys.fuses =
        s.sys.fuses := by simp [State.dmaWrite]

/-! ### Memory stays canonical -/

theorem State.dmaWritePages_memWf (s : State) (st cls iova n v : Nat) (x0 : Nat) (h : Memory.wf s.mem = true) :
    Memory.wf (State.dmaWritePages s st cls iova n v x0).2.mem = true := by
  induction x0 generalizing s st cls iova n v with
  | zero => simpa [State.dmaWritePages] using h
  | succ m ih =>
    simp only [State.dmaWritePages]
    repeat' first
        | with_reducible assumption | apply ih | with_reducible apply State.physWrite_memWf
        | with_reducible apply foldl_memWf | (intro t a ha) | split | simp

theorem State.dmaWrite_memWf (s : State) (st cls iova n v : Nat) (h : Memory.wf s.mem = true) :
    Memory.wf (State.dmaWrite s st cls iova n v).2.mem = true := by
  unfold State.dmaWrite
  repeat' first
      | with_reducible assumption | with_reducible apply State.dmaWritePages_memWf
      | with_reducible apply foldl_memWf | (intro t a ha) | split | simp

end Sys2Proof.Machine
end

