-- ==== Sys2Proof/Laws/FramePreampOps.lean ====
section
/-!
SUPPORT. Sys2Proof/Laws/FramePreampOps.lean: what each operation and meaning of Machine/PreampOps.lean leaves alone: the command queue, the
fuses, and memory, or its canonical form where the operation may write memory.
-/

namespace Sys2Proof.Machine

/-! ### What the operations leave alone -/

@[simp] theorem State.setAct_kept (s : State) (a : Nat) (x : ActState) :
    (State.setAct s a x).pending = s.pending ∧ (State.setAct s a x).sys.fuses = s.sys.fuses ∧ (State.setAct s a
        x).mem = s.mem := by simp [State.setAct]

@[simp] theorem State.startFrame_kept (s : State) (a : Nat) :
    (State.startFrame s a).pending = s.pending ∧ (State.startFrame s a).sys.fuses = s.sys.fuses ∧ (State.startFrame
        s a).mem = s.mem := by
  simp only [State.startFrame]
  repeat' split
  all_goals simp_all

@[simp] theorem State.queueFrame_kept (s : State) (a : Nat) (f : PaFrame) :
    (State.queueFrame s a f).pending = s.pending ∧ (State.queueFrame s a f).sys.fuses = s.sys.fuses ∧
        (State.queueFrame s a f).mem = s.mem := by simp [State.queueFrame]

@[simp] theorem State.endFrame_kept (s : State) (a : Nat) (f : PaFrame) (data : Nat) :
    (State.endFrame s a f data).pending = s.pending ∧ (State.endFrame s a f data).sys.fuses = s.sys.fuses ∧
        (State.endFrame s a f data).mem = s.mem := by
  unfold State.endFrame
  repeat' split
  all_goals simp

@[simp] theorem State.enumStart_kept (s : State) (a : Nat) :
    (State.enumStart s a).pending = s.pending ∧ (State.enumStart s a).sys.fuses = s.sys.fuses ∧ (State.enumStart s
        a).mem = s.mem := by simp [State.enumStart]

@[simp] theorem State.enumAll_kept (s : State) :
    (State.enumAll s).pending = s.pending ∧ (State.enumAll s).sys.fuses = s.sys.fuses ∧ (State.enumAll s).mem =
        s.mem := by simp [State.enumAll]

@[simp] theorem State.driveTo_kept (s : State) (a stage : Nat) (v : Int) :
    (State.driveTo s a stage v).pending = s.pending ∧ (State.driveTo s a stage v).sys.fuses = s.sys.fuses ∧
        (State.driveTo s a stage v).mem = s.mem := by simp [State.driveTo]

@[simp] theorem State.heaterCode_kept (s : State) (h c : Nat) :
    (State.heaterCode s h c).pending = s.pending ∧ (State.heaterCode s h c).sys.fuses = s.sys.fuses ∧
        (State.heaterCode s h c).mem = s.mem := by simp [State.heaterCode]

@[simp] theorem State.heaterOut_kept (s : State) (h : Nat) (out : Int) :
    (State.heaterOut s h out).pending = s.pending ∧ (State.heaterOut s h out).sys.fuses = s.sys.fuses ∧
        (State.heaterOut s h out).mem = s.mem := by simp [State.heaterOut]

@[simp] theorem State.heatersOff_kept (s : State) (a : Nat) :
    (State.heatersOff s a).pending = s.pending ∧ (State.heatersOff s a).sys.fuses = s.sys.fuses ∧ (State.heatersOff
        s a).mem = s.mem := by simp [State.heatersOff]

end Sys2Proof.Machine
end

