-- ==== Sys2Proof/Laws/FrameBasOps.lean ====
section
/-!
SUPPORT. Sys2Proof/Laws/FrameBasOps.lean: what each operation and meaning of Machine/BasOps.lean leaves alone: the command queue, the
fuses, and memory, or its canonical form where the operation may write memory.
-/

namespace Sys2Proof.Machine

/-! ### What the operations leave alone -/

@[simp] theorem State.setLoop_kept (s : State) (l : Nat) (x : LoopState) :
    (State.setLoop s l x).pending = s.pending ∧ (State.setLoop s l x).sys.fuses = s.sys.fuses ∧ (State.setLoop s l
        x).mem = s.mem := by simp [State.setLoop]

@[simp] theorem State.loopFlag_kept (s : State) (l : Nat) (f : Fld) (b : Bool) :
    (State.loopFlag s l f b).pending = s.pending ∧ (State.loopFlag s l f b).sys.fuses = s.sys.fuses ∧
        (State.loopFlag s l f b).mem = s.mem := by simp [State.loopFlag]

@[simp] theorem State.trigger_kept (s : State) (l : Nat) :
    (State.trigger s l).pending = s.pending ∧ (State.trigger s l).sys.fuses = s.sys.fuses ∧ (State.trigger s l).mem
        = s.mem := by simp [State.trigger]

@[simp] theorem State.triggerAll_kept (s : State) (c : Nat) :
    (State.triggerAll s c).pending = s.pending ∧ (State.triggerAll s c).sys.fuses = s.sys.fuses ∧ (State.triggerAll
        s c).mem = s.mem := by simp [State.triggerAll]

@[simp] theorem State.outerTrigger_kept (s : State) (o : Nat) :
    (State.outerTrigger s o).pending = s.pending ∧ (State.outerTrigger s o).sys.fuses = s.sys.fuses ∧
        (State.outerTrigger s o).mem = s.mem := by simp [State.outerTrigger]

@[simp] theorem State.deliverDrive_kept (s : State) (a stage : Nat) (out : Int) :
    (State.deliverDrive s a stage out).pending = s.pending ∧ (State.deliverDrive s a stage out).sys.fuses =
        s.sys.fuses ∧ (State.deliverDrive s a stage out).mem = s.mem := by simp [State.deliverDrive]

@[simp] theorem State.deliverDst_kept (s : State) (l : Nat) (out : Int) :
    (State.deliverDst s l out).pending = s.pending ∧ (State.deliverDst s l out).sys.fuses = s.sys.fuses ∧
        (State.deliverDst s l out).mem = s.mem := by simp [State.deliverDst]

@[simp] theorem State.deliver_kept (s : State) (l : Nat) (out : Int) :
    (State.deliver s l out).pending = s.pending ∧ (State.deliver s l out).sys.fuses = s.sys.fuses ∧ (State.deliver s
        l out).mem = s.mem := by
  unfold State.deliver
  repeat' split
  all_goals simp

@[simp] theorem State.showInt_kept (s : State) (l : Nat) (v : Int) :
    (State.showInt s l v).pending = s.pending ∧ (State.showInt s l v).sys.fuses = s.sys.fuses ∧ (State.showInt s l
        v).mem = s.mem := by simp [State.showInt]

@[simp] theorem State.heatSettle_kept (s : State) (l : Nat) (e : Int) :
    (State.heatSettle s l e).pending = s.pending ∧ (State.heatSettle s l e).sys.fuses = s.sys.fuses ∧
        (State.heatSettle s l e).mem = s.mem := by simp [State.heatSettle]

@[simp] theorem State.countRun_kept (s : State) (l : Nat) :
    (State.countRun s l).pending = s.pending ∧ (State.countRun s l).sys.fuses = s.sys.fuses ∧ (State.countRun s
        l).mem = s.mem := by simp [State.countRun]

@[simp] theorem State.runStart_kept (s : State) (l : Nat) :
    (State.runStart s l).pending = s.pending ∧ (State.runStart s l).sys.fuses = s.sys.fuses ∧ (State.runStart s
        l).mem = s.mem := by
  simp only [State.runStart]
  repeat' split
  all_goals simp_all

@[simp] theorem State.runLoop_kept (s0 : State) (l : Nat) :
    (State.runLoop s0 l).pending = s0.pending ∧ (State.runLoop s0 l).sys.fuses = s0.sys.fuses ∧ (State.runLoop s0
        l).mem = s0.mem := by simp [State.runLoop]

@[simp] theorem State.raiseHeat_kept (s : State) (h : Nat) :
    (State.raiseHeat s h).pending = s.pending ∧ (State.raiseHeat s h).sys.fuses = s.sys.fuses ∧ (State.raiseHeat s
        h).mem = s.mem := by simp [State.raiseHeat]

@[simp] theorem State.dropHeat_kept (s : State) (h : Nat) :
    (State.dropHeat s h).pending = s.pending ∧ (State.dropHeat s h).sys.fuses = s.sys.fuses ∧ (State.dropHeat s
        h).mem = s.mem := by simp [State.dropHeat]

@[simp] theorem State.giveClearance_kept (s : State) (h : Nat) (hr : Int) :
    (State.giveClearance s h hr).pending = s.pending ∧ (State.giveClearance s h hr).sys.fuses = s.sys.fuses ∧
        (State.giveClearance s h hr).mem = s.mem := by simp [State.giveClearance]

@[simp] theorem State.takeLcfg_kept (s : State) (l : Nat) (v : Word) :
    (State.takeLcfg s l v).pending = s.pending ∧ (State.takeLcfg s l v).sys.fuses = s.sys.fuses ∧
        (State.takeLcfg s l v).mem = s.mem := by
  simp only [State.takeLcfg]
  repeat' split
  all_goals simp

@[simp] theorem State.writeLcfg_kept (s : State) (i : Initiator) (l : Nat) (v : Word) :
    (State.writeLcfg s i l v).pending = s.pending ∧ (State.writeLcfg s i l v).sys.fuses = s.sys.fuses ∧
        (State.writeLcfg s i l v).mem = s.mem := by
  simp only [State.writeLcfg]
  split <;> simp

@[simp] theorem State.writeLio_kept (s : State) (i : Initiator) (l : Nat) (v : Word) :
    (State.writeLio s i l v).pending = s.pending ∧ (State.writeLio s i l v).sys.fuses = s.sys.fuses ∧
        (State.writeLio s i l v).mem = s.mem := by simp [State.writeLio]

@[simp] theorem State.writeLfsrc_kept (s : State) (i : Initiator) (l : Nat) (v : Word) :
    (State.writeLfsrc s i l v).pending = s.pending ∧ (State.writeLfsrc s i l v).sys.fuses = s.sys.fuses ∧
        (State.writeLfsrc s i l v).mem = s.mem := by simp [State.writeLfsrc]

@[simp] theorem State.writeLsp_kept (s : State) (i : Initiator) (l : Nat) (v : Word) :
    (State.writeLsp s i l v).pending = s.pending ∧ (State.writeLsp s i l v).sys.fuses = s.sys.fuses ∧
        (State.writeLsp s i l v).mem = s.mem := by simp [State.writeLsp]

@[simp] theorem State.writeLlim_kept (s : State) (i : Initiator) (l : Nat) (v : Word) :
    (State.writeLlim s i l v).pending = s.pending ∧ (State.writeLlim s i l v).sys.fuses = s.sys.fuses ∧
        (State.writeLlim s i l v).mem = s.mem := by simp [State.writeLlim]

@[simp] theorem State.writeCoef_kept (s : State) (i : Initiator) (l b off : Nat) (v : Word) :
    (State.writeCoef s i l b off v).pending = s.pending ∧ (State.writeCoef s i l b off v).sys.fuses = s.sys.fuses ∧
        (State.writeCoef s i l b off v).mem = s.mem := by simp [State.writeCoef]

@[simp] theorem State.writeLintLo_kept (s : State) (i : Initiator) (l : Nat) (v : Word) :
    (State.writeLintLo s i l v).pending = s.pending ∧ (State.writeLintLo s i l v).sys.fuses = s.sys.fuses ∧
        (State.writeLintLo s i l v).mem = s.mem := by simp [State.writeLintLo]

@[simp] theorem State.writeLintHi_kept (s : State) (i : Initiator) (l : Nat) (v : Word) :
    (State.writeLintHi s i l v).pending = s.pending ∧ (State.writeLintHi s i l v).sys.fuses = s.sys.fuses ∧
        (State.writeLintHi s i l v).mem = s.mem := by simp [State.writeLintHi]

@[simp] theorem State.writeGin_kept (s : State) (i : Initiator) (k : Nat) (v : Word) :
    (State.writeGin s i k v).pending = s.pending ∧ (State.writeGin s i k v).sys.fuses = s.sys.fuses ∧
        (State.writeGin s i k v).mem = s.mem := by simp [State.writeGin]

@[simp] theorem State.writeKick_kept (s : State) (i : Initiator) (v : Word) :
    (State.writeKick s i v).pending = s.pending ∧ (State.writeKick s i v).sys.fuses = s.sys.fuses ∧ (State.writeKick
        s i v).mem = s.mem := by simp [State.writeKick]

@[simp] theorem State.writeHwm_kept (s : State) (i : Initiator) (v : Word) :
    (State.writeHwm s i v).pending = s.pending ∧ (State.writeHwm s i v).sys.fuses = s.sys.fuses ∧ (State.writeHwm s
        i v).mem = s.mem := by simp [State.writeHwm]

end Sys2Proof.Machine
end

