-- ==== Sys2Proof/Laws/FrameLodeOps.lean ====
section
/-!
SUPPORT. Sys2Proof/Laws/FrameLodeOps.lean: what each operation and meaning of Machine/LodeOps.lean leaves alone: the command queue, the
fuses, and memory, or its canonical form where the operation may write memory.
-/

namespace Sys2Proof.Machine

/-! ### What the operations leave alone -/

@[simp] theorem State.setSlice_kept (s : State) (n : Nat) (x : SliceState) :
    (State.setSlice s n x).pending = s.pending ∧ (State.setSlice s n x).sys.fuses = s.sys.fuses ∧ (State.setSlice s
        n x).mem = s.mem := by simp [State.setSlice]

@[simp] theorem State.setWc_kept (s : State) (a : Nat) (x : WcState) :
    (State.setWc s a x).pending = s.pending ∧ (State.setWc s a x).sys.fuses = s.sys.fuses ∧ (State.setWc s a x).mem
        = s.mem := by simp [State.setWc]

@[simp] theorem State.setSub_kept (s : State) (q : Nat) (x : Subring) :
    (State.setSub s q x).pending = s.pending ∧ (State.setSub s q x).sys.fuses = s.sys.fuses ∧ (State.setSub s q
        x).mem = s.mem := by simp [State.setSub]

@[simp] theorem State.putMark_kept (s : State) (q m v : Nat) :
    (State.putMark s q m v).pending = s.pending ∧ (State.putMark s q m v).sys.fuses = s.sys.fuses := by simp
        [State.putMark]

@[simp] theorem State.ageMark_kept (s : State) (q m : Nat) :
    (State.ageMark s q m).pending = s.pending ∧ (State.ageMark s q m).sys.fuses = s.sys.fuses ∧ (State.ageMark s q
        m).mem = s.mem := by simp [State.ageMark]

@[simp] theorem State.addMark_kept (s : State) (q kind sample arg : Nat) :
    (State.addMark s q kind sample arg).pending = s.pending ∧ (State.addMark s q kind sample arg).sys.fuses =
        s.sys.fuses := by simp [State.addMark]

@[simp] theorem State.searchMarks_kept (s : State) (q : Nat) (p : Nat → Bool) (x0 : Nat) (y0 : Nat) :
    (State.searchMarks s q p x0 y0).2.pending = s.pending ∧ (State.searchMarks s q p x0 y0).2.sys.fuses =
        s.sys.fuses ∧ (State.searchMarks s q p x0 y0).2.mem = s.mem := by
  induction y0 generalizing s x0 with
  | zero => simp [State.searchMarks]
  | succ n ih =>
    cases x0 with
    | zero => simp [State.searchMarks]
    | succ k =>
      rw [State.searchMarks]
      have h := State.hbmRead_kept s qMedia (s.markOfs q k) 16
      generalize s.hbmRead qMedia (s.markOfs q k) 16 = r at h ⊢
      obtain ⟨a, t⟩ := r
      have i := ih t k
      by_cases hp : p (a.getD 0) = true
      · rw [if_pos hp]
        exact h
      · rw [if_neg hp]
        exact ⟨i.1.trans h.1, i.2.1.trans h.2.1, i.2.2.trans h.2.2⟩

@[simp] theorem State.shiftMarks_kept (s : State) (q b : Nat) (x0 : Nat) (y0 : Nat) :
    (State.shiftMarks s q b x0 y0).1.pending = s.pending ∧ (State.shiftMarks s q b x0 y0).1.sys.fuses = s.sys.fuses
        := by
  induction x0 generalizing s y0 with
  | zero => simp [State.shiftMarks]
  | succ f ih =>
    cases y0 with
    | zero => simp [State.shiftMarks]
    | succ k =>
      simp only [State.shiftMarks]
      split <;> simp [ih]

@[simp] theorem State.insertMark_kept (s : State) (q kind b arg : Nat) :
    (State.insertMark s q kind b arg).pending = s.pending ∧ (State.insertMark s q kind b arg).sys.fuses =
        s.sys.fuses := by simp [State.insertMark]

@[simp] theorem State.readMarks_kept (s : State) (q c : Nat) :
    (State.readMarks s q c).pending = s.pending ∧ (State.readMarks s q c).sys.fuses = s.sys.fuses ∧ (State.readMarks
        s q c).mem = s.mem := by
  have h : ∀ (l : List Nat) (g : Nat → Nat) (t : State),
      (l.foldl (fun t i => (t.hbmRead qMedia (g i) 16).2) t).pending = t.pending ∧
        (l.foldl (fun t i => (t.hbmRead qMedia (g i) 16).2) t).sys.fuses = t.sys.fuses ∧
        (l.foldl (fun t i => (t.hbmRead qMedia (g i) 16).2) t).mem = t.mem := by
    intro l g t
    exact ⟨foldl_pending _ _ _ fun t a => (State.hbmRead_kept t qMedia _ 16).1,
      foldl_fuses _ _ _ fun t a => (State.hbmRead_kept t qMedia _ 16).2.1,
      foldl_mem _ _ _ fun t a => (State.hbmRead_kept t qMedia _ 16).2.2⟩
  unfold State.readMarks
  exact h _ (fun i => s.markOfs q (s.oldMark q + i)) s

@[simp] theorem State.putRecord_kept (s : State) (q v : Nat) :
    (State.putRecord s q v).pending = s.pending ∧ (State.putRecord s q v).sys.fuses = s.sys.fuses := by simp
        [State.putRecord]

@[simp] theorem State.nextClock_kept (s : State) (q : Nat) :
    (State.nextClock s q).pending = s.pending ∧ (State.nextClock s q).sys.fuses = s.sys.fuses ∧ (State.nextClock s
        q).mem = s.mem := by simp [State.nextClock]

@[simp] theorem State.noteStates_kept (s : State) (q k v : Nat) :
    (State.noteStates s q k v).pending = s.pending ∧ (State.noteStates s q k v).sys.fuses = s.sys.fuses := by simp
        [State.noteStates]

@[simp] theorem State.setFrz_kept (s : State) (n src : Nat) (v : Bool) :
    (State.setFrz s n src v).pending = s.pending ∧ (State.setFrz s n src v).sys.fuses = s.sys.fuses ∧ (State.setFrz
        s n src v).mem = s.mem := by simp [State.setFrz]

@[simp] theorem State.upset_kept (s : State) (n : Nat) :
    (State.upset s n).pending = s.pending ∧ (State.upset s n).sys.fuses = s.sys.fuses ∧ (State.upset s n).mem =
        s.mem := by simp [State.upset]

@[simp] theorem State.setMs_kept (s : State) (m : Nat) (x : MsState) :
    (State.setMs s m x).pending = s.pending ∧ (State.setMs s m x).sys.fuses = s.sys.fuses ∧ (State.setMs s m x).mem
        = s.mem := by simp [State.setMs]

@[simp] theorem State.setRate_kept (s : State) (m : Nat) :
    (State.setRate s m).pending = s.pending ∧ (State.setRate s m).sys.fuses = s.sys.fuses ∧ (State.setRate s m).mem
        = s.mem := by simp [State.setRate]

@[simp] theorem State.writeSource_kept (s : State) (a : Nat) (v : Bool) :
    (State.writeSource s a v).pending = s.pending ∧ (State.writeSource s a v).sys.fuses = s.sys.fuses ∧
        (State.writeSource s a v).mem = s.mem := by simp [State.writeSource]

@[simp] theorem State.closeGate_kept (s : State) (a : Nat) :
    (State.closeGate s a).pending = s.pending ∧ (State.closeGate s a).sys.fuses = s.sys.fuses ∧ (State.closeGate s
        a).mem = s.mem := by simp [State.closeGate]

@[simp] theorem State.openGate_kept (s : State) (a : Nat) :
    (State.openGate s a).pending = s.pending ∧ (State.openGate s a).sys.fuses = s.sys.fuses ∧ (State.openGate s
        a).mem = s.mem := by simp [State.openGate]

@[simp] theorem State.refuseGate_kept (s : State) (a : Nat) (late : Bool) :
    (State.refuseGate s a late).pending = s.pending ∧ (State.refuseGate s a late).sys.fuses = s.sys.fuses ∧
        (State.refuseGate s a late).mem = s.mem := by simp [State.refuseGate]

@[simp] theorem State.abandonGate_kept (s : State) (a : Nat) :
    (State.abandonGate s a).pending = s.pending ∧ (State.abandonGate s a).sys.fuses = s.sys.fuses ∧
        (State.abandonGate s a).mem = s.mem := by simp [State.abandonGate]

@[simp] theorem State.gateCheck_kept (s : State) (a : Nat) :
    (State.gateCheck s a).pending = s.pending ∧ (State.gateCheck s a).sys.fuses = s.sys.fuses ∧ (State.gateCheck s
        a).mem = s.mem := by simp [State.gateCheck]

@[simp] theorem State.gateWait_kept (s : State) (a : Nat) :
    (State.gateWait s a).pending = s.pending ∧ (State.gateWait s a).sys.fuses = s.sys.fuses ∧ (State.gateWait s
        a).mem = s.mem := by simp [State.gateWait]

@[simp] theorem State.noteMark_kept (s : State) (n kind arg : Nat) :
    (State.noteMark s n kind arg).pending = s.pending ∧ (State.noteMark s n kind arg).sys.fuses = s.sys.fuses := by
        simp [State.noteMark]

@[simp] theorem State.msEnter_kept (s : State) (m st : Nat) :
    (State.msEnter s m st).pending = s.pending ∧ (State.msEnter s m st).sys.fuses = s.sys.fuses := by simp
        [State.msEnter]

@[simp] theorem State.msRetune_kept (s : State) (m : Nat) :
    (State.msRetune s m).pending = s.pending ∧ (State.msRetune s m).sys.fuses = s.sys.fuses := by simp
        [State.msRetune]

@[simp] theorem State.msStop_kept (s : State) :
    (State.msStop s).pending = s.pending ∧ (State.msStop s).sys.fuses = s.sys.fuses := by simp [State.msStop]

@[simp] theorem State.setMillstone_kept (s : State) (v : Bool) :
    (State.setMillstone s v).pending = s.pending ∧ (State.setMillstone s v).sys.fuses = s.sys.fuses := by simp
        [State.setMillstone]

@[simp] theorem State.handover_kept (s : State) (n m : Nat) :
    (State.handover s n m).pending = s.pending ∧ (State.handover s n m).sys.fuses = s.sys.fuses := by simp
        [State.handover]

@[simp] theorem State.handoverFrom_kept (s : State) (n : Nat) :
    (State.handoverFrom s n).pending = s.pending ∧ (State.handoverFrom s n).sys.fuses = s.sys.fuses := by
  unfold State.handoverFrom
  repeat' split
  all_goals simp

/-! ### Memory stays canonical -/

theorem State.putMark_memWf (s : State) (q m v : Nat) (h : Memory.wf s.mem = true) :
    Memory.wf (State.putMark s q m v).mem = true := by
  unfold State.putMark
  repeat' first
      | with_reducible assumption | with_reducible apply State.hbmWrite_memWf | with_reducible apply foldl_memWf
      | (intro t a ha) | split | simp

theorem State.addMark_memWf (s : State) (q kind sample arg : Nat) (h : Memory.wf s.mem = true) :
    Memory.wf (State.addMark s q kind sample arg).mem = true := by
  unfold State.addMark
  repeat' first
      | with_reducible assumption | with_reducible apply State.putMark_memWf | with_reducible apply foldl_memWf
      | (intro t a ha) | split | simp

theorem State.shiftMarks_memWf (s : State) (q b : Nat) (x0 : Nat) (y0 : Nat) (h : Memory.wf s.mem = true) :
    Memory.wf (State.shiftMarks s q b x0 y0).1.mem = true := by
  induction x0 generalizing s y0 with
  | zero => simpa [State.shiftMarks] using h
  | succ f ih =>
    cases y0 with
    | zero => simpa [State.shiftMarks] using h
    | succ k =>
      simp only [State.shiftMarks]
      split
      · exact ih _ _ (State.putMark_memWf _ _ _ _ h)
      · exact h

theorem State.insertMark_memWf (s : State) (q kind b arg : Nat) (h : Memory.wf s.mem = true) :
    Memory.wf (State.insertMark s q kind b arg).mem = true := by
  unfold State.insertMark
  repeat' first
      | with_reducible assumption | with_reducible apply State.putMark_memWf
      | with_reducible apply State.shiftMarks_memWf | with_reducible apply foldl_memWf | (intro t a ha) | split
      | simp

theorem State.putRecord_memWf (s : State) (q v : Nat) (h : Memory.wf s.mem = true) :
    Memory.wf (State.putRecord s q v).mem = true := by
  unfold State.putRecord
  repeat' first
      | with_reducible assumption | with_reducible apply State.addMark_memWf
      | with_reducible apply State.hbmWrite_memWf | with_reducible apply foldl_memWf | (intro t a ha) | split
      | simp

theorem State.noteStates_memWf (s : State) (q k v : Nat) (h : Memory.wf s.mem = true) :
    Memory.wf (State.noteStates s q k v).mem = true := by
  unfold State.noteStates
  repeat' first
      | with_reducible assumption | with_reducible apply State.addMark_memWf | with_reducible apply foldl_memWf
      | (intro t a ha) | split | simp

theorem State.noteMark_memWf (s : State) (n kind arg : Nat) (h : Memory.wf s.mem = true) :
    Memory.wf (State.noteMark s n kind arg).mem = true := by
  unfold State.noteMark
  repeat' first
      | with_reducible assumption | with_reducible apply State.addMark_memWf | with_reducible apply foldl_memWf
      | (intro t a ha) | split | simp

theorem State.msEnter_memWf (s : State) (m st : Nat) (h : Memory.wf s.mem = true) :
    Memory.wf (State.msEnter s m st).mem = true := by
  unfold State.msEnter
  repeat' first
      | with_reducible assumption | with_reducible apply State.noteMark_memWf | with_reducible apply foldl_memWf
      | (intro t a ha) | split | simp

theorem State.msRetune_memWf (s : State) (m : Nat) (h : Memory.wf s.mem = true) :
    Memory.wf (State.msRetune s m).mem = true := by
  unfold State.msRetune
  dsimp only
  repeat' first
      | with_reducible assumption | with_reducible apply State.msEnter_memWf | with_reducible apply foldl_memWf
      | (intro t a ha) | split | simp

theorem State.msStop_memWf (s : State) (h : Memory.wf s.mem = true) :
    Memory.wf (State.msStop s).mem = true := by
  unfold State.msStop
  repeat' first
      | with_reducible assumption | with_reducible apply State.msEnter_memWf | with_reducible apply foldl_memWf
      | (intro t a ha) | split | simp

theorem State.setMillstone_memWf (s : State) (v : Bool) (h : Memory.wf s.mem = true) :
    Memory.wf (State.setMillstone s v).mem = true := by
  unfold State.setMillstone
  repeat' first
      | with_reducible assumption | with_reducible apply State.msStop_memWf | with_reducible apply foldl_memWf
      | (intro t a ha) | split | simp

theorem State.handover_memWf (s : State) (n m : Nat) (h : Memory.wf s.mem = true) :
    Memory.wf (State.handover s n m).mem = true := by
  unfold State.handover
  dsimp only
  repeat' first
      | with_reducible assumption | with_reducible apply State.msEnter_memWf | with_reducible apply foldl_memWf
      | (intro t a ha) | split | simp

theorem State.handoverFrom_memWf (s : State) (n : Nat) (h : Memory.wf s.mem = true) :
    Memory.wf (State.handoverFrom s n).mem = true := by
  unfold State.handoverFrom
  repeat' first
      | with_reducible assumption | with_reducible apply State.handover_memWf | with_reducible apply foldl_memWf
      | (intro t a ha) | split | simp

end Sys2Proof.Machine
end

