-- ==== Sys2Proof/Laws/FrameActOps.lean ====
section
/-!
SUPPORT. Sys2Proof/Laws/FrameActOps.lean: what each operation and meaning of Machine/ActOps.lean leaves alone: the command queue, the
fuses, and memory, or its canonical form where the operation may write memory.
-/

namespace Sys2Proof.Machine

/-! ### What the operations leave alone -/

@[simp] theorem State.refreshAct_kept (s : State) (a : Nat) :
    (State.refreshAct s a).pending = s.pending ∧ (State.refreshAct s a).sys.fuses = s.sys.fuses ∧ (State.refreshAct
        s a).mem = s.mem := by simp [State.refreshAct]

@[simp] theorem State.refreshPermit_kept (s : State) (a : Nat) :
    (State.refreshPermit s a).pending = s.pending ∧ (State.refreshPermit s a).sys.fuses = s.sys.fuses ∧
        (State.refreshPermit s a).mem = s.mem := by
  unfold State.refreshPermit
  repeat' split
  all_goals simp

@[simp] theorem State.samplePermit_kept (s : State) (a : Nat) :
    (State.samplePermit s a).pending = s.pending ∧ (State.samplePermit s a).sys.fuses = s.sys.fuses ∧
        (State.samplePermit s a).mem = s.mem := by
  unfold State.samplePermit
  repeat' split
  all_goals simp

@[simp] theorem State.refreshPermits_kept (s : State) :
    (State.refreshPermits s).pending = s.pending ∧ (State.refreshPermits s).sys.fuses = s.sys.fuses ∧
        (State.refreshPermits s).mem = s.mem := by simp [State.refreshPermits]

@[simp] theorem State.actEnter_kept (s : State) (a st : Nat) :
    (State.actEnter s a st).pending = s.pending ∧ (State.actEnter s a st).sys.fuses = s.sys.fuses ∧ (State.actEnter
        s a st).mem = s.mem := by simp [State.actEnter]

@[simp] theorem State.enterSettle_kept (s : State) (a : Nat) :
    (State.enterSettle s a).pending = s.pending ∧ (State.enterSettle s a).sys.fuses = s.sys.fuses ∧
        (State.enterSettle s a).mem = s.mem := by simp [State.enterSettle]

@[simp] theorem State.enterFollow_kept (s : State) (a : Nat) :
    (State.enterFollow s a).pending = s.pending ∧ (State.enterFollow s a).sys.fuses = s.sys.fuses ∧
        (State.enterFollow s a).mem = s.mem := by simp [State.enterFollow]

@[simp] theorem State.enterLost_kept (s : State) (a : Nat) :
    (State.enterLost s a).pending = s.pending ∧ (State.enterLost s a).sys.fuses = s.sys.fuses ∧ (State.enterLost s
        a).mem = s.mem := by simp [State.enterLost]

@[simp] theorem State.offTrack_kept (s : State) (a : Nat) :
    (State.offTrack s a).pending = s.pending ∧ (State.offTrack s a).sys.fuses = s.sys.fuses ∧ (State.offTrack s
        a).mem = s.mem := by simp [State.offTrack]

@[simp] theorem State.unloadAct_kept (s : State) (a cause : Nat) :
    (State.unloadAct s a cause).pending = s.pending ∧ (State.unloadAct s a cause).sys.fuses = s.sys.fuses ∧
        (State.unloadAct s a cause).mem = s.mem := by simp [State.unloadAct]

@[simp] theorem State.unloadAll_kept (s : State) (cause : Nat) :
    (State.unloadAll s cause).pending = s.pending ∧ (State.unloadAll s cause).sys.fuses = s.sys.fuses ∧
        (State.unloadAll s cause).mem = s.mem := by simp [State.unloadAll]

@[simp] theorem State.driveCmd_kept (s : State) (a : Nat) (vcm milli : Int) :
    (State.driveCmd s a vcm milli).pending = s.pending ∧ (State.driveCmd s a vcm milli).sys.fuses = s.sys.fuses ∧
        (State.driveCmd s a vcm milli).mem = s.mem := by simp [State.driveCmd]

@[simp] theorem State.park_kept (s : State) (a : Nat) :
    (State.park s a).pending = s.pending ∧ (State.park s a).sys.fuses = s.sys.fuses ∧ (State.park s a).mem = s.mem
        := by simp [State.park]

@[simp] theorem State.retract_kept (s : State) (a : Nat) :
    (State.retract s a).pending = s.pending ∧ (State.retract s a).sys.fuses = s.sys.fuses ∧ (State.retract s a).mem
        = s.mem := by simp [State.retract]

@[simp] theorem State.retractDone_kept (s : State) (a : Nat) :
    (State.retractDone s a).pending = s.pending ∧ (State.retractDone s a).sys.fuses = s.sys.fuses ∧
        (State.retractDone s a).mem = s.mem := by simp [State.retractDone]

@[simp] theorem State.advanceRef_kept (s : State) (a : Nat) :
    (State.advanceRef s a).pending = s.pending ∧ (State.advanceRef s a).sys.fuses = s.sys.fuses ∧ (State.advanceRef
        s a).mem = s.mem := by simp [State.advanceRef]

@[simp] theorem State.demodulate_kept (s : State) (a : Nat) (d : Demod) :
    (State.demodulate s a d).2.pending = s.pending ∧ (State.demodulate s a d).2.sys.fuses = s.sys.fuses ∧
        (State.demodulate s a d).2.mem = s.mem := by
  unfold State.demodulate
  repeat' split
  all_goals simp

@[simp] theorem State.showPos_kept (s : State) (a : Nat) (p : Int) :
    (State.showPos s a p).pending = s.pending ∧ (State.showPos s a p).sys.fuses = s.sys.fuses ∧ (State.showPos s a
        p).mem = s.mem := by simp [State.showPos]

@[simp] theorem State.takePos_kept (s : State) (a : Nat) (r : Reading) (pred : Int) :
    (State.takePos s a r pred).pending = s.pending ∧ (State.takePos s a r pred).sys.fuses = s.sys.fuses ∧
        (State.takePos s a r pred).mem = s.mem := by simp [State.takePos]

@[simp] theorem State.countAcq_kept (s : State) (a : Nat) (r : Reading) :
    (State.countAcq s a r).pending = s.pending ∧ (State.countAcq s a r).sys.fuses = s.sys.fuses ∧ (State.countAcq s
        a r).mem = s.mem := by
  unfold State.countAcq
  repeat' split
  all_goals simp

@[simp] theorem State.acquire_kept (s : State) (a : Nat) (r : Reading) :
    (State.acquire s a r).pending = s.pending ∧ (State.acquire s a r).sys.fuses = s.sys.fuses ∧ (State.acquire s a
        r).mem = s.mem := by simp [State.acquire]

@[simp] theorem State.judgeSettle_kept (s : State) (a : Nat) (valid : Bool) :
    (State.judgeSettle s a valid).pending = s.pending ∧ (State.judgeSettle s a valid).sys.fuses = s.sys.fuses ∧
        (State.judgeSettle s a valid).mem = s.mem := by simp [State.judgeSettle]

@[simp] theorem State.judgeMiss_kept (s : State) (a : Nat) :
    (State.judgeMiss s a).pending = s.pending ∧ (State.judgeMiss s a).sys.fuses = s.sys.fuses ∧ (State.judgeMiss s
        a).mem = s.mem := by simp [State.judgeMiss]

@[simp] theorem State.ownCommand_kept (s : State) (a : Nat) :
    (State.ownCommand s a).pending = s.pending ∧ (State.ownCommand s a).sys.fuses = s.sys.fuses ∧ (State.ownCommand
        s a).mem = s.mem := by simp [State.ownCommand]

@[simp] theorem State.triggerServo_kept (s : State) (a : Nat) :
    (State.triggerServo s a).pending = s.pending ∧ (State.triggerServo s a).sys.fuses = s.sys.fuses ∧
        (State.triggerServo s a).mem = s.mem := by simp [State.triggerServo]

@[simp] theorem State.sample_kept (s0 : State) (a : Nat) (valid : Bool) (r : Reading) :
    (State.sample s0 a valid r).pending = s0.pending ∧ (State.sample s0 a valid r).sys.fuses = s0.sys.fuses ∧
        (State.sample s0 a valid r).mem = s0.mem := by simp [State.sample]

@[simp] theorem State.nextFrame_kept (s : State) (a : Nat) :
    (State.nextFrame s a).pending = s.pending ∧ (State.nextFrame s a).sys.fuses = s.sys.fuses ∧ (State.nextFrame s
        a).mem = s.mem := by
  unfold State.nextFrame
  repeat' split
  all_goals simp

@[simp] theorem State.takeSample_kept (s : State) (a : Nat) (d : Demod) (timing : Option Int) :
    (State.takeSample s a d timing).pending = s.pending ∧ (State.takeSample s a d timing).sys.fuses = s.sys.fuses ∧
        (State.takeSample s a d timing).mem = s.mem := by simp [State.takeSample]

@[simp] theorem State.positionSample_kept (s : State) (a : Nat) :
    (State.positionSample s a).pending = s.pending ∧ (State.positionSample s a).sys.fuses = s.sys.fuses ∧
        (State.positionSample s a).mem = s.mem := by
  unfold State.positionSample
  repeat' split
  all_goals simp

@[simp] theorem State.loadAct_kept (s : State) (a : Nat) :
    (State.loadAct s a).pending = s.pending ∧ (State.loadAct s a).sys.fuses = s.sys.fuses ∧ (State.loadAct s a).mem
        = s.mem := by simp [State.loadAct]

@[simp] theorem State.writeActCmd_kept (s : State) (i : Initiator) (a op : Nat) :
    (State.writeActCmd s i a op).pending = s.pending ∧ (State.writeActCmd s i a op).sys.fuses = s.sys.fuses ∧
        (State.writeActCmd s i a op).mem = s.mem := by simp [State.writeActCmd]

@[simp] theorem State.writeSeek_kept (s : State) (i : Initiator) (a track : Nat) :
    (State.writeSeek s i a track).pending = s.pending ∧ (State.writeSeek s i a track).sys.fuses = s.sys.fuses ∧
        (State.writeSeek s i a track).mem = s.mem := by simp [State.writeSeek]

@[simp] theorem State.writeHsel_kept (s : State) (i : Initiator) (a p head : Nat) :
    (State.writeHsel s i a p head).pending = s.pending ∧ (State.writeHsel s i a p head).sys.fuses = s.sys.fuses ∧
        (State.writeHsel s i a p head).mem = s.mem := by simp [State.writeHsel]

@[simp] theorem State.writeDither_kept (s : State) (i : Initiator) (a : Nat) (v : Word) :
    (State.writeDither s i a v).pending = s.pending ∧ (State.writeDither s i a v).sys.fuses = s.sys.fuses ∧
        (State.writeDither s i a v).mem = s.mem := by simp [State.writeDither]

@[simp] theorem State.writePermit_kept (s : State) (i : Initiator) (a : Nat) (v : Word) :
    (State.writePermit s i a v).pending = s.pending ∧ (State.writePermit s i a v).sys.fuses = s.sys.fuses ∧
        (State.writePermit s i a v).mem = s.mem := by simp [State.writePermit]

@[simp] theorem State.writeCal_kept (s : State) (i : Initiator) (a : Nat) (v : Word) :
    (State.writeCal s i a v).pending = s.pending ∧ (State.writeCal s i a v).sys.fuses = s.sys.fuses ∧
        (State.writeCal s i a v).mem = s.mem := by simp [State.writeCal]

@[simp] theorem State.writeSvCfg_kept (s : State) (i : Initiator) (a : Nat) (v : Word) :
    (State.writeSvCfg s i a v).pending = s.pending ∧ (State.writeSvCfg s i a v).sys.fuses = s.sys.fuses ∧
        (State.writeSvCfg s i a v).mem = s.mem := by simp [State.writeSvCfg]

@[simp] theorem State.writeShockCfg_kept (s : State) (i : Initiator) (v : Word) :
    (State.writeShockCfg s i v).pending = s.pending ∧ (State.writeShockCfg s i v).sys.fuses = s.sys.fuses ∧
        (State.writeShockCfg s i v).mem = s.mem := by simp [State.writeShockCfg]

@[simp] theorem State.writeXfer_kept (s : State) (i : Initiator) (a : Nat) (v : Word) :
    (State.writeXfer s i a v).pending = s.pending ∧ (State.writeXfer s i a v).sys.fuses = s.sys.fuses ∧
        (State.writeXfer s i a v).mem = s.mem := by simp [State.writeXfer]

end Sys2Proof.Machine
end

