-- ==== Sys2Proof/Laws/FrameMilOps.lean ====
section
/-!
SUPPORT. Sys2Proof/Laws/FrameMilOps.lean: what each operation and meaning of Machine/MilOps.lean leaves alone: the command queue, the
fuses, and memory, or its canonical form where the operation may write memory.
-/

namespace Sys2Proof.Machine

/-! ### What the operations leave alone -/

@[simp] theorem State.setMil_kept (s : State) (x : MilState) :
    (State.setMil s x).pending = s.pending ∧ (State.setMil s x).sys.fuses = s.sys.fuses ∧ (State.setMil s x).mem =
        s.mem := by simp [State.setMil]

@[simp] theorem State.milShow_kept (s : State) :
    (State.milShow s).pending = s.pending ∧ (State.milShow s).sys.fuses = s.sys.fuses ∧ (State.milShow s).mem =
        s.mem := by simp [State.milShow]

@[simp] theorem State.milEnter_kept (s : State) (st : Nat) :
    (State.milEnter s st).pending = s.pending ∧ (State.milEnter s st).sys.fuses = s.sys.fuses := by simp
        [State.milEnter]

@[simp] theorem State.slotOn_kept (s : State) (l : Nat) :
    (State.slotOn s l).pending = s.pending ∧ (State.slotOn s l).sys.fuses = s.sys.fuses ∧ (State.slotOn s l).mem =
        s.mem := by simp [State.slotOn]

@[simp] theorem State.slotOff_kept (s : State) (l : Nat) :
    (State.slotOff s l).pending = s.pending ∧ (State.slotOff s l).sys.fuses = s.sys.fuses ∧ (State.slotOff s l).mem
        = s.mem := by simp [State.slotOff]

@[simp] theorem State.milSlots_kept (s : State) (on : Bool) :
    (State.milSlots s on).pending = s.pending ∧ (State.milSlots s on).sys.fuses = s.sys.fuses ∧ (State.milSlots s
        on).mem = s.mem := by simp [State.milSlots]

@[simp] theorem State.slotHold_kept (s : State) (l : Nat) :
    (State.slotHold s l).pending = s.pending ∧ (State.slotHold s l).sys.fuses = s.sys.fuses ∧ (State.slotHold s
        l).mem = s.mem := by simp [State.slotHold]

@[simp] theorem State.milHold_kept (s : State) :
    (State.milHold s).pending = s.pending ∧ (State.milHold s).sys.fuses = s.sys.fuses ∧ (State.milHold s).mem =
        s.mem := by simp [State.milHold]

@[simp] theorem State.speedRef_kept (s : State) :
    (State.speedRef s).pending = s.pending ∧ (State.speedRef s).sys.fuses = s.sys.fuses ∧ (State.speedRef s).mem =
        s.mem := by simp [State.speedRef]

@[simp] theorem State.setSpeed_kept (s : State) (rpmC : Int) :
    (State.setSpeed s rpmC).pending = s.pending ∧ (State.setSpeed s rpmC).sys.fuses = s.sys.fuses ∧ (State.setSpeed
        s rpmC).mem = s.mem := by simp [State.setSpeed]

@[simp] theorem State.declareFly_kept (s : State) :
    (State.declareFly s).pending = s.pending ∧ (State.declareFly s).sys.fuses = s.sys.fuses ∧ (State.declareFly
        s).mem = s.mem := by simp [State.declareFly]

@[simp] theorem State.judgeFly_kept (s : State) :
    (State.judgeFly s).pending = s.pending ∧ (State.judgeFly s).sys.fuses = s.sys.fuses ∧ (State.judgeFly s).mem =
        s.mem := by simp [State.judgeFly]

@[simp] theorem State.toCatch_kept (s : State) :
    (State.toCatch s).pending = s.pending ∧ (State.toCatch s).sys.fuses = s.sys.fuses := by simp [State.toCatch]

@[simp] theorem State.toFault_kept (s : State) (code : Nat) :
    (State.toFault s code).pending = s.pending ∧ (State.toFault s code).sys.fuses = s.sys.fuses := by simp
        [State.toFault]

@[simp] theorem State.toDriven_kept (s : State) (st : Nat) (ramp : Int) :
    (State.toDriven s st ramp).pending = s.pending ∧ (State.toDriven s st ramp).sys.fuses = s.sys.fuses := by simp
        [State.toDriven]

@[simp] theorem State.toRun_kept (s : State) :
    (State.toRun s).pending = s.pending ∧ (State.toRun s).sys.fuses = s.sys.fuses := by simp [State.toRun]

@[simp] theorem State.toCoast_kept (s : State) :
    (State.toCoast s).pending = s.pending ∧ (State.toCoast s).sys.fuses = s.sys.fuses := by simp [State.toCoast]

@[simp] theorem State.stopPhase2_kept (s : State) :
    (State.stopPhase2 s).pending = s.pending ∧ (State.stopPhase2 s).sys.fuses = s.sys.fuses ∧ (State.stopPhase2
        s).mem = s.mem := by simp [State.stopPhase2]

@[simp] theorem State.spinStart_kept (s : State) :
    (State.spinStart s).pending = s.pending ∧ (State.spinStart s).sys.fuses = s.sys.fuses := by simp [State.spinStart]

@[simp] theorem State.spinStop_kept (s : State) :
    (State.spinStop s).pending = s.pending ∧ (State.spinStop s).sys.fuses = s.sys.fuses := by simp [State.spinStop]

@[simp] theorem State.spinStopBrake_kept (s : State) :
    (State.spinStopBrake s).pending = s.pending ∧ (State.spinStopBrake s).sys.fuses = s.sys.fuses := by simp
        [State.spinStopBrake]

@[simp] theorem State.writeMilCmd_kept (s : State) (i : Initiator) (op : Nat) :
    (State.writeMilCmd s i op).pending = s.pending ∧ (State.writeMilCmd s i op).sys.fuses = s.sys.fuses := by simp
        [State.writeMilCmd]

@[simp] theorem State.noteLoss_kept (s : State) :
    (State.noteLoss s).pending = s.pending ∧ (State.noteLoss s).sys.fuses = s.sys.fuses ∧ (State.noteLoss s).mem =
        s.mem := by simp [State.noteLoss]

@[simp] theorem State.lossSpeed_kept (s : State) (rpmC : Int) :
    (State.lossSpeed s rpmC).pending = s.pending ∧ (State.lossSpeed s rpmC).sys.fuses = s.sys.fuses ∧
        (State.lossSpeed s rpmC).mem = s.mem := by simp [State.lossSpeed]

@[simp] theorem State.rotorLoss_kept (s : State) :
    (State.rotorLoss s).pending = s.pending ∧ (State.rotorLoss s).sys.fuses = s.sys.fuses := by simp [State.rotorLoss]

@[simp] theorem State.rotorLost_kept (s : State) :
    (State.rotorLost s).pending = s.pending ∧ (State.rotorLost s).sys.fuses = s.sys.fuses := by simp [State.rotorLost]

@[simp] theorem State.milRetract_kept (s : State) :
    (State.milRetract s).pending = s.pending ∧ (State.milRetract s).sys.fuses = s.sys.fuses := by simp
        [State.milRetract]

@[simp] theorem State.milRelease_kept (s : State) :
    (State.milRelease s).pending = s.pending ∧ (State.milRelease s).sys.fuses = s.sys.fuses := by simp
        [State.milRelease]

@[simp] theorem State.sendDuty_kept (s : State) (i : Phases) :
    (State.sendDuty s i).pending = s.pending ∧ (State.sendDuty s i).sys.fuses = s.sys.fuses ∧ (State.sendDuty s
        i).mem = s.mem := by simp [State.sendDuty]

@[simp] theorem State.showAngle_kept (s : State) :
    (State.showAngle s).pending = s.pending ∧ (State.showAngle s).sys.fuses = s.sys.fuses ∧ (State.showAngle s).mem
        = s.mem := by simp [State.showAngle]

@[simp] theorem State.pll_kept (s : State) (pe : Int) :
    (State.pll s pe).pending = s.pending ∧ (State.pll s pe).sys.fuses = s.sys.fuses ∧ (State.pll s pe).mem = s.mem
        := by simp [State.pll]

@[simp] theorem State.endPeriod_kept (s : State) :
    (State.endPeriod s).pending = s.pending ∧ (State.endPeriod s).sys.fuses = s.sys.fuses ∧ (State.endPeriod s).mem
        = s.mem := by simp [State.endPeriod]

@[simp] theorem State.rampStep_kept (s : State) :
    (State.rampStep s).pending = s.pending ∧ (State.rampStep s).sys.fuses = s.sys.fuses := by simp [State.rampStep]

@[simp] theorem State.observe_kept (s : State) (i : Phases) :
    (State.observe s i).2.pending = s.pending ∧ (State.observe s i).2.sys.fuses = s.sys.fuses ∧ (State.observe s
        i).2.mem = s.mem := by simp [State.observe]

@[simp] theorem State.pllTick_kept (s : State) (i : Phases) :
    (State.pllTick s i).pending = s.pending ∧ (State.pllTick s i).sys.fuses = s.sys.fuses := by simp [State.pllTick]

@[simp] theorem State.vecTick_kept (s : State) (v i : Phases) :
    (State.vecTick s v i).pending = s.pending ∧ (State.vecTick s v i).sys.fuses = s.sys.fuses := by simp
        [State.vecTick]

@[simp] theorem State.crossTick_kept (s : State) (v : Phases) :
    (State.crossTick s v).pending = s.pending ∧ (State.crossTick s v).sys.fuses = s.sys.fuses ∧ (State.crossTick s
        v).mem = s.mem := by simp [State.crossTick]

@[simp] theorem State.milNext_kept (s : State) :
    (State.milNext s).pending = s.pending ∧ (State.milNext s).sys.fuses = s.sys.fuses := by simp [State.milNext]

@[simp] theorem State.peakTick_kept (s : State) (i : Phases) :
    (State.peakTick s i).pending = s.pending ∧ (State.peakTick s i).sys.fuses = s.sys.fuses ∧ (State.peakTick s
        i).mem = s.mem := by
  unfold State.peakTick
  repeat' split
  all_goals simp

@[simp] theorem State.retractSupply_kept (s : State) :
    (State.retractSupply s).pending = s.pending ∧ (State.retractSupply s).sys.fuses = s.sys.fuses ∧
        (State.retractSupply s).mem = s.mem := by simp [State.retractSupply]

@[simp] theorem State.milTick_kept (s : State) (v i : Phases) :
    (State.milTick s v i).pending = s.pending ∧ (State.milTick s v i).sys.fuses = s.sys.fuses := by simp
        [State.milTick]

@[simp] theorem State.writeMilTable_kept (s : State) (i : Initiator) (off : Nat) (v : Word) :
    (State.writeMilTable s i off v).pending = s.pending ∧ (State.writeMilTable s i off v).sys.fuses = s.sys.fuses ∧
        (State.writeMilTable s i off v).mem = s.mem := by simp [State.writeMilTable]

@[simp] theorem State.writeMilHfi_kept (s : State) (i : Initiator) (v : Word) :
    (State.writeMilHfi s i v).pending = s.pending ∧ (State.writeMilHfi s i v).sys.fuses = s.sys.fuses ∧
        (State.writeMilHfi s i v).mem = s.mem := by simp [State.writeMilHfi]

/-! ### Memory stays canonical -/

theorem State.milEnter_memWf (s : State) (st : Nat) (h : Memory.wf s.mem = true) :
    Memory.wf (State.milEnter s st).mem = true := by
  unfold State.milEnter
  repeat' first
      | with_reducible assumption | with_reducible apply State.setMillstone_memWf
      | with_reducible apply foldl_memWf | (intro t a ha) | split | simp

theorem State.toCatch_memWf (s : State) (h : Memory.wf s.mem = true) :
    Memory.wf (State.toCatch s).mem = true := by
  unfold State.toCatch
  repeat' first
      | with_reducible assumption | with_reducible apply State.milEnter_memWf | with_reducible apply foldl_memWf
      | (intro t a ha) | split | simp

theorem State.toFault_memWf (s : State) (code : Nat) (h : Memory.wf s.mem = true) :
    Memory.wf (State.toFault s code).mem = true := by
  unfold State.toFault
  repeat' first
      | with_reducible assumption | with_reducible apply State.milEnter_memWf | with_reducible apply foldl_memWf
      | (intro t a ha) | split | simp

theorem State.toDriven_memWf (s : State) (st : Nat) (ramp : Int) (h : Memory.wf s.mem = true) :
    Memory.wf (State.toDriven s st ramp).mem = true := by
  unfold State.toDriven
  repeat' first
      | with_reducible assumption | with_reducible apply State.milEnter_memWf | with_reducible apply foldl_memWf
      | (intro t a ha) | split | simp

theorem State.toRun_memWf (s : State) (h : Memory.wf s.mem = true) :
    Memory.wf (State.toRun s).mem = true := by
  unfold State.toRun
  repeat' first
      | with_reducible assumption | with_reducible apply State.milEnter_memWf | with_reducible apply foldl_memWf
      | (intro t a ha) | split | simp

theorem State.toCoast_memWf (s : State) (h : Memory.wf s.mem = true) :
    Memory.wf (State.toCoast s).mem = true := by
  unfold State.toCoast
  repeat' first
      | with_reducible assumption | with_reducible apply State.milEnter_memWf | with_reducible apply foldl_memWf
      | (intro t a ha) | split | simp

theorem State.spinStart_memWf (s : State) (h : Memory.wf s.mem = true) :
    Memory.wf (State.spinStart s).mem = true := by
  unfold State.spinStart
  dsimp only
  repeat' first
      | with_reducible assumption | with_reducible apply State.toCatch_memWf | with_reducible apply foldl_memWf
      | (intro t a ha) | split | simp

theorem State.spinStop_memWf (s : State) (h : Memory.wf s.mem = true) :
    Memory.wf (State.spinStop s).mem = true := by
  unfold State.spinStop
  repeat' first
      | with_reducible assumption | with_reducible apply State.toCoast_memWf | with_reducible apply foldl_memWf
      | (intro t a ha) | split | simp

theorem State.spinStopBrake_memWf (s : State) (h : Memory.wf s.mem = true) :
    Memory.wf (State.spinStopBrake s).mem = true := by
  unfold State.spinStopBrake
  repeat' first
      | with_reducible assumption | with_reducible apply State.toDriven_memWf | with_reducible apply foldl_memWf
      | (intro t a ha) | split | simp

theorem State.writeMilCmd_memWf (s : State) (i : Initiator) (op : Nat) (h : Memory.wf s.mem = true) :
    Memory.wf (State.writeMilCmd s i op).mem = true := by
  unfold State.writeMilCmd
  repeat' first
      | with_reducible assumption | with_reducible apply State.spinStart_memWf
      | with_reducible apply State.spinStop_memWf | with_reducible apply State.spinStopBrake_memWf
      | with_reducible apply foldl_memWf | (intro t a ha) | split | simp

theorem State.rotorLoss_memWf (s : State) (h : Memory.wf s.mem = true) :
    Memory.wf (State.rotorLoss s).mem = true := by
  unfold State.rotorLoss
  repeat' first
      | with_reducible assumption | with_reducible apply State.milEnter_memWf | with_reducible apply foldl_memWf
      | (intro t a ha) | split | simp

theorem State.rotorLost_memWf (s : State) (h : Memory.wf s.mem = true) :
    Memory.wf (State.rotorLost s).mem = true := by
  unfold State.rotorLost
  repeat' first
      | with_reducible assumption | with_reducible apply State.rotorLoss_memWf | with_reducible apply foldl_memWf
      | (intro t a ha) | split | simp

theorem State.milRetract_memWf (s : State) (h : Memory.wf s.mem = true) :
    Memory.wf (State.milRetract s).mem = true := by
  unfold State.milRetract
  repeat' first
      | with_reducible assumption | with_reducible apply State.milEnter_memWf | with_reducible apply foldl_memWf
      | (intro t a ha) | split | simp

theorem State.milRelease_memWf (s : State) (h : Memory.wf s.mem = true) :
    Memory.wf (State.milRelease s).mem = true := by
  unfold State.milRelease
  repeat' first
      | with_reducible assumption | with_reducible apply State.milEnter_memWf | with_reducible apply foldl_memWf
      | (intro t a ha) | split | simp

theorem State.rampStep_memWf (s : State) (h : Memory.wf s.mem = true) :
    Memory.wf (State.rampStep s).mem = true := by
  unfold State.rampStep
  repeat' first | with_reducible assumption  | with_reducible apply foldl_memWf | (intro t a ha) | split | simp

theorem State.pllTick_memWf (s : State) (i : Phases) (h : Memory.wf s.mem = true) :
    Memory.wf (State.pllTick s i).mem = true := by
  unfold State.pllTick
  repeat' first
      | with_reducible assumption | with_reducible apply State.rampStep_memWf | with_reducible apply foldl_memWf
      | (intro t a ha) | split | simp

theorem State.vecTick_memWf (s : State) (v i : Phases) (h : Memory.wf s.mem = true) :
    Memory.wf (State.vecTick s v i).mem = true := by
  unfold State.vecTick
  repeat' first | with_reducible assumption  | with_reducible apply foldl_memWf | (intro t a ha) | split | simp

theorem State.milNext_memWf (s : State) (h : Memory.wf s.mem = true) :
    Memory.wf (State.milNext s).mem = true := by
  unfold State.milNext
  repeat' first
      | with_reducible assumption | with_reducible apply State.milEnter_memWf
      | with_reducible apply State.toDriven_memWf | with_reducible apply State.toRun_memWf
      | with_reducible apply foldl_memWf | (intro t a ha) | split | simp

theorem State.milTick_memWf (s : State) (v i : Phases) (h : Memory.wf s.mem = true) :
    Memory.wf (State.milTick s v i).mem = true := by
  unfold State.milTick
  repeat' first
      | with_reducible assumption | with_reducible apply State.milNext_memWf
      | with_reducible apply State.pllTick_memWf | with_reducible apply State.rotorLost_memWf
      | with_reducible apply State.vecTick_memWf | with_reducible apply foldl_memWf | (intro t a ha) | split | simp

end Sys2Proof.Machine
end

