-- ==== Sys2Proof/Laws/FrameBlsOps.lean ====
section
/-!
SUPPORT. Sys2Proof/Laws/FrameBlsOps.lean: what each operation and meaning of Machine/BlsOps.lean leaves alone: the command queue, the
fuses, and memory, or its canonical form where the operation may write memory.
-/

namespace Sys2Proof.Machine

/-! ### What the operations leave alone -/

@[simp] theorem State.commitDone_kept (s : State) (k : Nat) :
    (State.commitDone s k).pending = s.pending ∧ (State.commitDone s k).sys.fuses = s.sys.fuses ∧ (State.commitDone
        s k).mem = s.mem := by simp [State.commitDone]

@[simp] theorem State.commitCtx_kept (s : State) (k : Nat) :
    (State.commitCtx s k).pending = s.pending ∧ (State.commitCtx s k).sys.fuses = s.sys.fuses ∧ (State.commitCtx s
        k).mem = s.mem := by simp [State.commitCtx]

@[simp] theorem State.commitRun_kept (s : State) (k : Nat) :
    (State.commitRun s k).pending = s.pending ∧ (State.commitRun s k).sys.fuses = s.sys.fuses ∧ (State.commitRun s
        k).mem = s.mem := by simp [State.commitRun]

@[simp] theorem State.setBls_kept (s : State) (x : BlsState) :
    (State.setBls s x).pending = s.pending ∧ (State.setBls s x).sys.fuses = s.sys.fuses ∧ (State.setBls s x).mem =
        s.mem := by simp [State.setBls]

@[simp] theorem State.fillLanding_kept (s : State) (a : Nat) :
    (State.fillLanding s a).pending = s.pending ∧ (State.fillLanding s a).sys.fuses = s.sys.fuses ∧
        (State.fillLanding s a).mem = s.mem := by
  unfold State.fillLanding
  repeat' split
  all_goals simp

@[simp] theorem State.flushFill_kept (s : State) :
    (State.flushFill s).pending = s.pending ∧ (State.flushFill s).sys.fuses = s.sys.fuses ∧ (State.flushFill s).mem
        = s.mem := by simp [State.flushFill]

@[simp] theorem State.unplaceAll_kept (s : State) (ks : List Nat) :
    (State.unplaceAll s ks).pending = s.pending ∧ (State.unplaceAll s ks).sys.fuses = s.sys.fuses ∧
        (State.unplaceAll s ks).mem = s.mem := by
  unfold State.unplaceAll
  refine ⟨foldl_pending _ _ _ ?_, foldl_fuses _ _ _ ?_, foldl_mem _ _ _ ?_⟩
  all_goals
    intro t a
    split
  all_goals simp

@[simp] theorem State.startFlush_kept (s : State) :
    (State.startFlush s).pending = s.pending ∧ (State.startFlush s).sys.fuses = s.sys.fuses ∧ (State.startFlush
        s).mem = s.mem := by simp [State.startFlush]

@[simp] theorem State.holdData_kept (s : State) :
    (State.holdData s).pending = s.pending ∧ (State.holdData s).sys.fuses = s.sys.fuses ∧ (State.holdData s).mem =
        s.mem := by simp [State.holdData]

@[simp] theorem State.closeFlush_kept (s : State) :
    (State.closeFlush s).pending = s.pending ∧ (State.closeFlush s).sys.fuses = s.sys.fuses ∧ (State.closeFlush
        s).mem = s.mem := by simp [State.closeFlush]

@[simp] theorem State.endFlush_kept (s : State) :
    (State.endFlush s).pending = s.pending ∧ (State.endFlush s).sys.fuses = s.sys.fuses ∧ (State.endFlush s).mem =
        s.mem := by simp [State.endFlush]

@[simp] theorem State.abandonFlush_kept (s : State) :
    (State.abandonFlush s).pending = s.pending ∧ (State.abandonFlush s).sys.fuses = s.sys.fuses ∧
        (State.abandonFlush s).mem = s.mem := by simp [State.abandonFlush]

@[simp] theorem State.retractDrive_kept (s : State) (a : Nat) :
    (State.retractDrive s a).pending = s.pending ∧ (State.retractDrive s a).sys.fuses = s.sys.fuses ∧
        (State.retractDrive s a).mem = s.mem := by simp [State.retractDrive]

@[simp] theorem State.beginRetract_kept (s : State) :
    (State.beginRetract s).pending = s.pending ∧ (State.beginRetract s).sys.fuses = s.sys.fuses := by simp
        [State.beginRetract]

@[simp] theorem State.endRetract_kept (s : State) :
    (State.endRetract s).pending = s.pending ∧ (State.endRetract s).sys.fuses = s.sys.fuses := by simp
        [State.endRetract]

@[simp] theorem State.ballastCheck_kept (s : State) :
    (State.ballastCheck s).pending = s.pending ∧ (State.ballastCheck s).sys.fuses = s.sys.fuses ∧
        (State.ballastCheck s).mem = s.mem := by
  unfold State.ballastCheck
  repeat' split
  all_goals simp

@[simp] theorem State.stageDrop_kept (s : State) (g : Nat) :
    (State.stageDrop s g).pending = s.pending ∧ (State.stageDrop s g).sys.fuses = s.sys.fuses ∧ (State.stageDrop s
        g).mem = s.mem := by simp [State.stageDrop]

@[simp] theorem State.stageTrip_kept (s : State) (g : Nat) :
    (State.stageTrip s g).pending = s.pending ∧ (State.stageTrip s g).sys.fuses = s.sys.fuses ∧ (State.stageTrip s
        g).mem = s.mem := by simp [State.stageTrip]

@[simp] theorem State.writeOcp_kept (s : State) (i : Initiator) (v : Word) :
    (State.writeOcp s i v).pending = s.pending ∧ (State.writeOcp s i v).sys.fuses = s.sys.fuses ∧ (State.writeOcp s
        i v).mem = s.mem := by simp [State.writeOcp]

@[simp] theorem State.charger_kept (s : State) :
    (State.charger s).pending = s.pending ∧ (State.charger s).sys.fuses = s.sys.fuses ∧ (State.charger s).mem =
        s.mem := by simp [State.charger]

@[simp] theorem State.measureStart_kept (s : State) :
    (State.measureStart s).pending = s.pending ∧ (State.measureStart s).sys.fuses = s.sys.fuses ∧
        (State.measureStart s).mem = s.mem := by simp [State.measureStart]

@[simp] theorem State.measureEnd_kept (s : State) (stepMv fallMv us : Nat) :
    (State.measureEnd s stepMv fallMv us).pending = s.pending ∧ (State.measureEnd s stepMv fallMv us).sys.fuses =
        s.sys.fuses ∧ (State.measureEnd s stepMv fallMv us).mem = s.mem := by simp [State.measureEnd]

@[simp] theorem State.chargeTimeout_kept (s : State) :
    (State.chargeTimeout s).pending = s.pending ∧ (State.chargeTimeout s).sys.fuses = s.sys.fuses ∧
        (State.chargeTimeout s).mem = s.mem := by simp [State.chargeTimeout]

@[simp] theorem State.vaultUpdate_kept (s : State) (mv : Nat) :
    (State.vaultUpdate s mv).pending = s.pending ∧ (State.vaultUpdate s mv).sys.fuses = s.sys.fuses ∧
        (State.vaultUpdate s mv).mem = s.mem := by simp [State.vaultUpdate]

@[simp] theorem State.setTemp_kept (s : State) (deg16 : Int) :
    (State.setTemp s deg16).pending = s.pending ∧ (State.setTemp s deg16).sys.fuses = s.sys.fuses := by simp
        [State.setTemp]

@[simp] theorem State.writeBankCfg_kept (s : State) (i : Initiator) (v : Word) :
    (State.writeBankCfg s i v).pending = s.pending ∧ (State.writeBankCfg s i v).sys.fuses = s.sys.fuses ∧
        (State.writeBankCfg s i v).mem = s.mem := by simp [State.writeBankCfg]

@[simp] theorem State.writePfCfg_kept (s : State) (i : Initiator) (v : Word) :
    (State.writePfCfg s i v).pending = s.pending ∧ (State.writePfCfg s i v).sys.fuses = s.sys.fuses ∧
        (State.writePfCfg s i v).mem = s.mem := by simp [State.writePfCfg]

@[simp] theorem State.writeMeasCtl_kept (s : State) (i : Initiator) (v : Word) :
    (State.writeMeasCtl s i v).pending = s.pending ∧ (State.writeMeasCtl s i v).sys.fuses = s.sys.fuses ∧
        (State.writeMeasCtl s i v).mem = s.mem := by simp [State.writeMeasCtl]

/-! ### Memory stays canonical -/

theorem State.beginRetract_memWf (s : State) (h : Memory.wf s.mem = true) :
    Memory.wf (State.beginRetract s).mem = true := by
  unfold State.beginRetract
  repeat' first
      | with_reducible assumption | with_reducible apply State.milRetract_memWf | with_reducible apply foldl_memWf
      | (intro t a ha) | split | simp

theorem State.endRetract_memWf (s : State) (h : Memory.wf s.mem = true) :
    Memory.wf (State.endRetract s).mem = true := by
  unfold State.endRetract
  repeat' first
      | with_reducible assumption | with_reducible apply State.milRelease_memWf | with_reducible apply foldl_memWf
      | (intro t a ha) | split | simp

theorem State.setTemp_memWf (s : State) (deg16 : Int) (h : Memory.wf s.mem = true) :
    Memory.wf (State.setTemp s deg16).mem = true := by
  unfold State.setTemp
  repeat' first
      | with_reducible assumption | with_reducible apply State.beginRetract_memWf
      | with_reducible apply foldl_memWf | (intro t a ha) | split | simp

end Sys2Proof.Machine
end

