-- ==== Sys2Proof/Laws/FrameSliceOps.lean ====
section
/-!
SUPPORT. Sys2Proof/Laws/FrameSliceOps.lean: what each operation and meaning of Machine/SliceOps.lean leaves alone: the command queue, the
fuses, and memory, or its canonical form where the operation may write memory.
-/

namespace Sys2Proof.Machine

/-! ### What the operations leave alone -/

@[simp] theorem State.taStart_kept (s : State) (n : Nat) :
    (State.taStart s n).pending = s.pending ∧ (State.taStart s n).sys.fuses = s.sys.fuses ∧ (State.taStart s n).mem
        = s.mem := by simp [State.taStart]

@[simp] theorem State.taEnd_kept (s : State) (n : Nat) :
    (State.taEnd s n).pending = s.pending ∧ (State.taEnd s n).sys.fuses = s.sys.fuses ∧ (State.taEnd s n).mem =
        s.mem := by simp [State.taEnd]

@[simp] theorem State.taClock_kept (s : State) (n : Nat) (ua ub : Int) :
    (State.taClock s n ua ub).pending = s.pending ∧ (State.taClock s n ua ub).sys.fuses = s.sys.fuses ∧
        (State.taClock s n ua ub).mem = s.mem := by simp [State.taClock]

@[simp] theorem State.stepSat_kept (s : State) (off : Nat) (f : Fld) (w : Nat) (v lo hi : Int) (evt : Nat) (flag :
    Fld) :
    (State.stepSat s off f w v lo hi evt flag).pending = s.pending ∧ (State.stepSat s off f w v lo hi evt
        flag).sys.fuses = s.sys.fuses ∧ (State.stepSat s off f w v lo hi evt flag).mem = s.mem := by simp
        [State.stepSat]

@[simp] theorem State.adaptFront_kept (s : State) (n r : Nat) (z : List Int) :
    (State.adaptFront s n r z).pending = s.pending ∧ (State.adaptFront s n r z).sys.fuses = s.sys.fuses ∧
        (State.adaptFront s n r z).mem = s.mem := by simp [State.adaptFront]

@[simp] theorem State.servoTake_kept (s : State) (n r : Nat) (v : List Int) :
    (State.servoTake s n r v).pending = s.pending ∧ (State.servoTake s n r v).sys.fuses = s.sys.fuses ∧
        (State.servoTake s n r v).mem = s.mem := by
  unfold State.servoTake
  repeat' split
  all_goals simp

@[simp] theorem State.frontReader_kept (s : State) (n r : Nat) (codes : List Int) :
    (State.frontReader s n r codes).2.pending = s.pending ∧ (State.frontReader s n r codes).2.sys.fuses =
        s.sys.fuses ∧ (State.frontReader s n r codes).2.mem = s.mem := by simp [State.frontReader]

@[simp] theorem State.writeWindow_kept (s : State) (i : Initiator) (n off : Nat) (v : Word) :
    (State.writeWindow s i n off v).pending = s.pending ∧ (State.writeWindow s i n off v).sys.fuses = s.sys.fuses ∧
        (State.writeWindow s i n off v).mem = s.mem := by simp [State.writeWindow]

@[simp] theorem State.keepPlace_kept (s : State) (n : Nat) :
    (State.keepPlace s n).pending = s.pending ∧ (State.keepPlace s n).sys.fuses = s.sys.fuses ∧ (State.keepPlace s
        n).mem = s.mem := by
  simp only [State.keepPlace]
  repeat' split
  all_goals simp_all

@[simp] theorem State.placeFreeze_kept (s : State) (n : Nat) (st : List Nat) :
    (State.placeFreeze s n st).pending = s.pending ∧ (State.placeFreeze s n st).sys.fuses = s.sys.fuses ∧
        (State.placeFreeze s n st).mem = s.mem := by simp [State.placeFreeze]

@[simp] theorem State.sampleMarks_kept (s : State) (n q k st : Nat) :
    (State.sampleMarks s n q k st).pending = s.pending ∧ (State.sampleMarks s n q k st).sys.fuses = s.sys.fuses := by
  unfold State.sampleMarks
  repeat' split
  all_goals simp

@[simp] theorem State.ringClock_kept (s : State) (n v : Nat) (st : List Nat) :
    (State.ringClock s n v st).pending = s.pending ∧ (State.ringClock s n v st).sys.fuses = s.sys.fuses := by simp
        [State.ringClock]

@[simp] theorem State.tsClock_kept (s : State) (n : Nat) :
    (State.tsClock s n).pending = s.pending ∧ (State.tsClock s n).sys.fuses = s.sys.fuses ∧ (State.tsClock s n).mem
        = s.mem := by simp [State.tsClock]

@[simp] theorem State.tsTake_kept (s : State) (n k : Nat) :
    (State.tsTake s n k).2.pending = s.pending ∧ (State.tsTake s n k).2.sys.fuses = s.sys.fuses ∧ (State.tsTake s n
        k).2.mem = s.mem := by simp [State.tsTake]

@[simp] theorem State.adaptEq_kept (s : State) (n : Nat) (zA zB e : List Int) :
    (State.adaptEq s n zA zB e).pending = s.pending ∧ (State.adaptEq s n zA zB e).sys.fuses = s.sys.fuses ∧
        (State.adaptEq s n zA zB e).mem = s.mem := by simp [State.adaptEq]

@[simp] theorem State.adaptNp_kept (s : State) (n p : Nat) (h : List Int) (x : Int) :
    (State.adaptNp s n p h x).pending = s.pending ∧ (State.adaptNp s n p h x).sys.fuses = s.sys.fuses ∧
        (State.adaptNp s n p h x).mem = s.mem := by simp [State.adaptNp]

@[simp] theorem State.adaptNps_kept (s : State) (n : Nat) (noise dec : List Int) :
    (State.adaptNps s n noise dec).pending = s.pending ∧ (State.adaptNps s n noise dec).sys.fuses = s.sys.fuses ∧
        (State.adaptNps s n noise dec).mem = s.mem := by simp [State.adaptNps]

@[simp] theorem State.backClock_kept (s0 : State) (n : Nat) (zA zB : List Int) (sts : List Nat) :
    (State.backClock s0 n zA zB sts).pending = s0.pending ∧ (State.backClock s0 n zA zB sts).sys.fuses =
        s0.sys.fuses ∧ (State.backClock s0 n zA zB sts).mem = s0.mem := by simp [State.backClock]

@[simp] theorem State.tailClock_kept (s : State) (n : Nat) :
    (State.tailClock s n).pending = s.pending ∧ (State.tailClock s n).sys.fuses = s.sys.fuses ∧ (State.tailClock s
        n).mem = s.mem := by simp [State.tailClock]

@[simp] theorem State.replayClock_kept (s : State) (n : Nat) :
    (State.replayClock s n).pending = s.pending ∧ (State.replayClock s n).sys.fuses = s.sys.fuses ∧
        (State.replayClock s n).mem = s.mem := by
  unfold State.replayClock
  split
  · simp
  · have h := State.hbmRead_kept (s.readMarks (s.rplyQ n) (s.rplyNext n)) qMedia (s.recOfs (s.rplyQ n) (s.rplyNext
      n)) 12
    dsimp only
    generalize State.hbmRead (s.readMarks (s.rplyQ n) (s.rplyNext n)) qMedia _ 12 = r at h ⊢
    obtain ⟨a, t⟩ := r
    cases a <;> simp_all

@[simp] theorem State.phaseLoop_kept (s : State) (n : Nat) (z : List Int) :
    (State.phaseLoop s n z).pending = s.pending ∧ (State.phaseLoop s n z).sys.fuses = s.sys.fuses ∧ (State.phaseLoop
        s n z).mem = s.mem := by simp [State.phaseLoop]

@[simp] theorem State.ampClock_kept (s : State) (n : Nat) (st : List Nat) :
    (State.ampClock s n st).pending = s.pending ∧ (State.ampClock s n st).sys.fuses = s.sys.fuses ∧ (State.ampClock
        s n st).mem = s.mem := by simp [State.ampClock]

@[simp] theorem State.frontClock_kept (s : State) (n : Nat) (a b : List Int) :
    (State.frontClock s n a b).2.pending = s.pending ∧ (State.frontClock s n a b).2.sys.fuses = s.sys.fuses := by
        simp [State.frontClock]

@[simp] theorem State.sliceClock_kept (s0 : State) (n : Nat) (a b : List Int) :
    (State.sliceClock s0 n a b).pending = s0.pending ∧ (State.sliceClock s0 n a b).sys.fuses = s0.sys.fuses := by
        simp [State.sliceClock]

@[simp] theorem State.writeRingCfg_kept (s : State) (i : Initiator) (n : Nat) (v : Word) :
    (State.writeRingCfg s i n v).pending = s.pending ∧ (State.writeRingCfg s i n v).sys.fuses = s.sys.fuses ∧
        (State.writeRingCfg s i n v).mem = s.mem := by simp [State.writeRingCfg]

@[simp] theorem State.writeReplay_kept (s : State) (i : Initiator) (n off : Nat) (v : Word) :
    (State.writeReplay s i n off v).pending = s.pending ∧ (State.writeReplay s i n off v).sys.fuses = s.sys.fuses ∧
        (State.writeReplay s i n off v).mem = s.mem := by simp [State.writeReplay]

@[simp] theorem State.saveSeed_kept (s : State) (n h r : Nat) :
    (State.saveSeed s n h r).pending = s.pending ∧ (State.saveSeed s n h r).sys.fuses = s.sys.fuses ∧
        (State.saveSeed s n h r).mem = s.mem := by simp [State.saveSeed]

@[simp] theorem State.loadSeed_kept (s : State) (n h r : Nat) :
    (State.loadSeed s n h r).pending = s.pending ∧ (State.loadSeed s n h r).sys.fuses = s.sys.fuses ∧
        (State.loadSeed s n h r).mem = s.mem := by simp [State.loadSeed]

@[simp] theorem State.changeHead_kept (s : State) (n old new : Nat) (save : Bool) :
    (State.changeHead s n old new save).pending = s.pending ∧ (State.changeHead s n old new save).sys.fuses =
        s.sys.fuses ∧ (State.changeHead s n old new save).mem = s.mem := by simp [State.changeHead]

@[simp] theorem State.writeLdSel_kept (s : State) (i : Initiator) (n : Nat) (v : Word) :
    (State.writeLdSel s i n v).pending = s.pending ∧ (State.writeLdSel s i n v).sys.fuses = s.sys.fuses := by
  simp only [State.writeLdSel]
  repeat' split
  all_goals simp_all

@[simp] theorem State.clearance_kept (s : State) (n a1 a3 : Nat) :
    (State.clearance s n a1 a3).pending = s.pending ∧ (State.clearance s n a1 a3).sys.fuses = s.sys.fuses ∧
        (State.clearance s n a1 a3).mem = s.mem := by simp [State.clearance]

@[simp] theorem State.clrPreamble_kept (s : State) (n : Nat) (l : List (Nat × Nat × Bool)) :
    (State.clrPreamble s n l).pending = s.pending ∧ (State.clrPreamble s n l).sys.fuses = s.sys.fuses ∧
        (State.clrPreamble s n l).mem = s.mem := by simp [State.clrPreamble]

/-! ### Memory stays canonical -/

theorem State.sampleMarks_memWf (s : State) (n q k st : Nat) (h : Memory.wf s.mem = true) :
    Memory.wf (State.sampleMarks s n q k st).mem = true := by
  unfold State.sampleMarks
  repeat' first
      | with_reducible assumption | with_reducible apply State.addMark_memWf
      | with_reducible apply State.noteStates_memWf | with_reducible apply foldl_memWf | (intro t a ha) | split
      | simp

theorem State.ringClock_memWf (s : State) (n v : Nat) (st : List Nat) (h : Memory.wf s.mem = true) :
    Memory.wf (State.ringClock s n v st).mem = true := by
  unfold State.ringClock
  repeat' first
      | with_reducible assumption | with_reducible apply State.putRecord_memWf
      | with_reducible apply State.sampleMarks_memWf | with_reducible apply foldl_memWf | (intro t a ha) | split
      | simp

theorem State.frontClock_memWf (s : State) (n : Nat) (a b : List Int) (h : Memory.wf s.mem = true) :
    Memory.wf (State.frontClock s n a b).2.mem = true := by
  unfold State.frontClock
  repeat' first
      | with_reducible assumption | with_reducible apply State.ringClock_memWf | with_reducible apply foldl_memWf
      | (intro t a ha) | split | simp

theorem State.sliceClock_memWf (s0 : State) (n : Nat) (a b : List Int) (h : Memory.wf s0.mem = true) :
    Memory.wf (State.sliceClock s0 n a b).mem = true := by
  unfold State.sliceClock
  repeat' first
      | with_reducible assumption | with_reducible apply State.frontClock_memWf | with_reducible apply foldl_memWf
      | (intro t a ha) | split | simp

theorem State.writeLdSel_memWf (s : State) (i : Initiator) (n : Nat) (v : Word) (h : Memory.wf s.mem = true) :
    Memory.wf (State.writeLdSel s i n v).mem = true := by
  unfold State.writeLdSel
  repeat' first
      | with_reducible assumption | with_reducible apply State.msRetune_memWf
      | with_reducible apply State.noteMark_memWf | with_reducible apply foldl_memWf | (intro t a ha) | split
      | simp

end Sys2Proof.Machine
end

