-- ==== Sys2Proof/Laws/FrameQryOps.lean ====
section
/-!
SUPPORT. Sys2Proof/Laws/FrameQryOps.lean: what each operation and meaning of Machine/QryOps.lean leaves alone: the command queue, the
fuses, and memory, or its canonical form where the operation may write memory.
-/

namespace Sys2Proof.Machine

/-! ### What the operations leave alone -/

@[simp] theorem State.setQents_kept (s : State) (n : Nat) (l : List (Desc × DescSt)) :
    (State.setQents s n l).pending = s.pending ∧ (State.setQents s n l).sys.fuses = s.sys.fuses ∧ (State.setQents s
        n l).mem = s.mem := by simp [State.setQents]

@[simp] theorem State.setQcpls_kept (s : State) (n : Nat) (l : List Cpl) :
    (State.setQcpls s n l).pending = s.pending ∧ (State.setQcpls s n l).sys.fuses = s.sys.fuses ∧ (State.setQcpls s
        n l).mem = s.mem := by simp [State.setQcpls]

@[simp] theorem State.setSlots_kept (s : State) (l : List Slot) :
    (State.setSlots s l).pending = s.pending ∧ (State.setSlots s l).sys.fuses = s.sys.fuses ∧ (State.setSlots s
        l).mem = s.mem := by simp [State.setSlots]

@[simp] theorem State.bindSlot_kept (s : State) (n : Nat) (d : Desc) (frame : Nat) (h : Handed) :
    (State.bindSlot s n d frame h).pending = s.pending ∧ (State.bindSlot s n d frame h).sys.fuses = s.sys.fuses ∧
        (State.bindSlot s n d frame h).mem = s.mem := by simp [State.bindSlot]

@[simp] theorem State.reportSector_kept (s : State) (n sector frame : Nat) (h : Handed) :
    (State.reportSector s n sector frame h).pending = s.pending ∧ (State.reportSector s n sector frame h).sys.fuses
        = s.sys.fuses ∧ (State.reportSector s n sector frame h).mem = s.mem := by
  unfold State.reportSector
  repeat' split
  all_goals simp

@[simp] theorem State.qryFlush_kept (s : State) (n : Nat) :
    (State.qryFlush s n).pending = s.pending ∧ (State.qryFlush s n).sys.fuses = s.sys.fuses ∧ (State.qryFlush s
        n).mem = s.mem := by simp [State.qryFlush]

@[simp] theorem State.qryDiscard_kept (s : State) (n : Nat) :
    (State.qryDiscard s n).pending = s.pending ∧ (State.qryDiscard s n).sys.fuses = s.sys.fuses ∧ (State.qryDiscard
        s n).mem = s.mem := by simp [State.qryDiscard]

@[simp] theorem State.finishSlot_kept (s : State) (n id : Nat) (c : Cpl) (anchor : Int) :
    (State.finishSlot s n id c anchor).pending = s.pending ∧ (State.finishSlot s n id c anchor).sys.fuses =
        s.sys.fuses ∧ (State.finishSlot s n id c anchor).mem = s.mem := by simp [State.finishSlot]

@[simp] theorem State.endDecode_kept (s : State) (x : Slot) :
    (State.endDecode s x).pending = s.pending ∧ (State.endDecode s x).sys.fuses = s.sys.fuses := by simp
        [State.endDecode]

@[simp] theorem State.engBusy_kept (s : State) (e : Nat) (v : Bool) :
    (State.engBusy s e v).pending = s.pending ∧ (State.engBusy s e v).sys.fuses = s.sys.fuses ∧ (State.engBusy s e
        v).mem = s.mem := by simp [State.engBusy]

@[simp] theorem State.setBad_kept (s : State) (n : Nat) (l : List BadSector) :
    (State.setBad s n l).pending = s.pending ∧ (State.setBad s n l).sys.fuses = s.sys.fuses ∧ (State.setBad s n
        l).mem = s.mem := by simp [State.setBad]

@[simp] theorem State.postCpl_kept (s : State) (n : Nat) :
    (State.postCpl s n).pending = s.pending ∧ (State.postCpl s n).sys.fuses = s.sys.fuses ∧ (State.postCpl s n).mem
        = s.mem := by
  unfold State.postCpl
  repeat' split
  all_goals simp

@[simp] theorem State.writeSubCmd_kept (s : State) (i : Initiator) (n : Nat) (v : Word) :
    (State.writeSubCmd s i n v).pending = s.pending ∧ (State.writeSubCmd s i n v).sys.fuses = s.sys.fuses ∧
        (State.writeSubCmd s i n v).mem = s.mem := by simp [State.writeSubCmd]

@[simp] theorem State.writeCplPop_kept (s : State) (i : Initiator) (n : Nat) (v : Word) :
    (State.writeCplPop s i n v).pending = s.pending ∧ (State.writeCplPop s i n v).sys.fuses = s.sys.fuses ∧
        (State.writeCplPop s i n v).mem = s.mem := by simp [State.writeCplPop]

@[simp] theorem State.writeQryCfg_kept (s : State) (i : Initiator) (v : Word) :
    (State.writeQryCfg s i v).pending = s.pending ∧ (State.writeQryCfg s i v).sys.fuses = s.sys.fuses ∧
        (State.writeQryCfg s i v).mem = s.mem := by simp [State.writeQryCfg]

/-! ### Memory stays canonical -/

theorem State.endDecode_memWf (s : State) (x : Slot) (h : Memory.wf s.mem = true) :
    Memory.wf (State.endDecode s x).mem = true := by
  unfold State.endDecode
  repeat' first
      | with_reducible assumption | with_reducible apply State.dmaWrite_memWf | with_reducible apply foldl_memWf
      | (intro t a ha) | split | simp

end Sys2Proof.Machine
end

