-- ==== Sys2Proof/Laws/FrameFrameOps.lean ====
section
/-!
SUPPORT. Sys2Proof/Laws/FrameFrameOps.lean: what each operation and meaning of Machine/FrameOps.lean leaves alone: the command queue, the
fuses, and memory, or its canonical form where the operation may write memory.
-/

namespace Sys2Proof.Machine

/-! ### What the operations leave alone -/

@[simp] theorem State.giveFrame_kept (s : State) (n track sector : Nat) (f : Framed) (h : Handed) :
    (State.giveFrame s n track sector f h).pending = s.pending ∧ (State.giveFrame s n track sector f h).sys.fuses =
        s.sys.fuses ∧ (State.giveFrame s n track sector f h).mem = s.mem := by simp [State.giveFrame]

@[simp] theorem State.abortReplayed_kept (s : State) (n : Nat) :
    (State.abortReplayed s n).pending = s.pending ∧ (State.abortReplayed s n).sys.fuses = s.sys.fuses := by
  unfold State.abortReplayed
  repeat' split
  all_goals simp

@[simp] theorem State.restartBack_kept (s : State) (n : Nat) :
    (State.restartBack s n).pending = s.pending ∧ (State.restartBack s n).sys.fuses = s.sys.fuses ∧
        (State.restartBack s n).mem = s.mem := by simp [State.restartBack]

@[simp] theorem State.toLive_kept (s : State) (n : Nat) :
    (State.toLive s n).pending = s.pending ∧ (State.toLive s n).sys.fuses = s.sys.fuses ∧ (State.toLive s n).mem =
        s.mem := by simp [State.toLive]

@[simp] theorem State.stopReplay_kept (s : State) (n code : Nat) :
    (State.stopReplay s n code).pending = s.pending ∧ (State.stopReplay s n code).sys.fuses = s.sys.fuses := by simp
        [State.stopReplay]

@[simp] theorem State.endReplay_kept (s : State) (n code : Nat) :
    (State.endReplay s n code).pending = s.pending ∧ (State.endReplay s n code).sys.fuses = s.sys.fuses := by simp
        [State.endReplay]

@[simp] theorem State.toRing_kept (s : State) (n : Nat) :
    (State.toRing s n).pending = s.pending ∧ (State.toRing s n).sys.fuses = s.sys.fuses := by simp [State.toRing]

@[simp] theorem State.setSource_kept (s : State) (n v : Nat) :
    (State.setSource s n v).pending = s.pending ∧ (State.setSource s n v).sys.fuses = s.sys.fuses := by simp
        [State.setSource]

@[simp] theorem State.writeLdCfg_kept (s : State) (i : Initiator) (n : Nat) (v : Word) :
    (State.writeLdCfg s i n v).pending = s.pending ∧ (State.writeLdCfg s i n v).sys.fuses = s.sys.fuses := by simp
        [State.writeLdCfg]

/-! ### Memory stays canonical -/

theorem State.abortReplayed_memWf (s : State) (n : Nat) (h : Memory.wf s.mem = true) :
    Memory.wf (State.abortReplayed s n).mem = true := by
  unfold State.abortReplayed
  repeat' first
      | with_reducible assumption | with_reducible apply State.reframe_memWf | with_reducible apply foldl_memWf
      | (intro t a ha) | split | simp

theorem State.stopReplay_memWf (s : State) (n code : Nat) (h : Memory.wf s.mem = true) :
    Memory.wf (State.stopReplay s n code).mem = true := by
  unfold State.stopReplay
  repeat' first
      | with_reducible assumption | with_reducible apply State.abortReplayed_memWf
      | with_reducible apply State.reframe_memWf | with_reducible apply foldl_memWf | (intro t a ha) | split | simp

theorem State.endReplay_memWf (s : State) (n code : Nat) (h : Memory.wf s.mem = true) :
    Memory.wf (State.endReplay s n code).mem = true := by
  unfold State.endReplay
  repeat' first
      | with_reducible assumption | with_reducible apply State.stopReplay_memWf | with_reducible apply foldl_memWf
      | (intro t a ha) | split | simp

theorem State.toRing_memWf (s : State) (n : Nat) (h : Memory.wf s.mem = true) :
    Memory.wf (State.toRing s n).mem = true := by
  unfold State.toRing
  repeat' first
      | with_reducible assumption | with_reducible apply State.endReplay_memWf | with_reducible apply foldl_memWf
      | (intro t a ha) | split | simp

theorem State.setSource_memWf (s : State) (n v : Nat) (h : Memory.wf s.mem = true) :
    Memory.wf (State.setSource s n v).mem = true := by
  unfold State.setSource
  repeat' first
      | with_reducible assumption | with_reducible apply State.stopReplay_memWf
      | with_reducible apply State.toRing_memWf | with_reducible apply foldl_memWf | (intro t a ha) | split | simp

theorem State.writeLdCfg_memWf (s : State) (i : Initiator) (n : Nat) (v : Word) (h : Memory.wf s.mem = true) :
    Memory.wf (State.writeLdCfg s i n v).mem = true := by
  unfold State.writeLdCfg
  repeat' first
      | with_reducible assumption | with_reducible apply State.setSource_memWf | with_reducible apply foldl_memWf
      | (intro t a ha) | split | simp

end Sys2Proof.Machine
end

