-- ==== Sys2Proof/Laws/FrameLadderOps.lean ====
section
/-!
SUPPORT. Sys2Proof/Laws/FrameLadderOps.lean: what each operation and meaning of Machine/LadderOps.lean leaves alone: the command queue, the
fuses, and memory, or its canonical form where the operation may write memory.
-/

namespace Sys2Proof.Machine

/-! ### What the operations leave alone -/

@[simp] theorem State.ladderCommit_kept (s : State) (l : Ladder) :
    (State.ladderCommit s l).pending = s.pending ∧ (State.ladderCommit s l).sys.fuses = s.sys.fuses ∧
        (State.ladderCommit s l).mem = s.mem := by simp [State.ladderCommit]

@[simp] theorem State.ladderLoad_kept (s : State) (n m : Nat) :
    (State.ladderLoad s n m).pending = s.pending ∧ (State.ladderLoad s n m).sys.fuses = s.sys.fuses ∧
        (State.ladderLoad s n m).mem = s.mem := by simp [State.ladderLoad]

@[simp] theorem State.ladderThr_kept (s : State) (l : Ladder) (zero : Bool) :
    (State.ladderThr s l zero).1.pending = s.pending ∧ (State.ladderThr s l zero).1.sys.fuses = s.sys.fuses ∧
        (State.ladderThr s l zero).1.mem = s.mem := by
  unfold State.ladderThr
  repeat' split
  all_goals simp

@[simp] theorem State.ladderReplay_kept (s : State) (n m : Nat) (eq : Option Nat) (mark : Nat) :
    (State.ladderReplay s n m eq mark).pending = s.pending ∧ (State.ladderReplay s n m eq mark).sys.fuses =
        s.sys.fuses := by simp [State.ladderReplay]

@[simp] theorem State.ladderReframe_kept (s : State) (n : Nat) (l : Ladder) (a : Attempt) (mark : Nat) :
    (State.ladderReframe s n l a mark).pending = s.pending ∧ (State.ladderReframe s n l a mark).sys.fuses =
        s.sys.fuses := by simp [State.ladderReframe]

@[simp] theorem State.stashQueued_kept (s : State) (n : Nat) :
    (State.stashQueued s n).pending = s.pending ∧ (State.stashQueued s n).sys.fuses = s.sys.fuses ∧
        (State.stashQueued s n).mem = s.mem := by simp [State.stashQueued]

@[simp] theorem State.catchUp_kept (s : State) (n : Nat) :
    (State.catchUp s n).pending = s.pending ∧ (State.catchUp s n).sys.fuses = s.sys.fuses := by
  simp only [State.catchUp]
  repeat' split
  all_goals simp_all

@[simp] theorem State.ladderEnd_kept (s : State) (n : Nat) (l : Ladder) :
    (State.ladderEnd s n l).pending = s.pending ∧ (State.ladderEnd s n l).sys.fuses = s.sys.fuses := by simp
        [State.ladderEnd]

@[simp] theorem State.ladderLost_kept (s : State) (n : Nat) (l : Ladder) :
    (State.ladderLost s n l).pending = s.pending ∧ (State.ladderLost s n l).sys.fuses = s.sys.fuses := by simp
        [State.ladderLost]

@[simp] theorem State.ladderRebuild_kept (s : State) (n : Nat) (l : Ladder) :
    (State.ladderRebuild s n l).pending = s.pending ∧ (State.ladderRebuild s n l).sys.fuses = s.sys.fuses := by
  simp only [State.ladderRebuild]
  repeat' split
  all_goals simp_all

@[simp] theorem State.ladderReread_kept (s : State) (n : Nat) (l : Ladder) :
    (State.ladderReread s n l).pending = s.pending ∧ (State.ladderReread s n l).sys.fuses = s.sys.fuses := by simp
        [State.ladderReread]

@[simp] theorem State.syncLost_kept (s : State) (l : Ladder) :
    (State.syncLost s l).pending = s.pending ∧ (State.syncLost s l).sys.fuses = s.sys.fuses ∧ (State.syncLost s
        l).mem = s.mem := by simp [State.syncLost]

@[simp] theorem State.ladderTry_kept (s : State) (n : Nat) (l : Ladder) (a : Attempt) :
    (State.ladderTry s n l a).pending = s.pending ∧ (State.ladderTry s n l a).sys.fuses = s.sys.fuses := by
  simp only [State.ladderTry]
  repeat' split
  all_goals simp_all

@[simp] theorem State.ladderNext_kept (s : State) (n : Nat) (l : Ladder) (step : Nat) (x0 : Nat) :
    (State.ladderNext s n l step x0).pending = s.pending ∧ (State.ladderNext s n l step x0).sys.fuses = s.sys.fuses
        := by
  induction x0 generalizing s n l step
  all_goals simp only [State.ladderNext]
  all_goals (repeat' split)
  all_goals simp_all

@[simp] theorem State.ladderStart_kept (s0 : State) (n k : Nat) :
    (State.ladderStart s0 n k).pending = s0.pending ∧ (State.ladderStart s0 n k).sys.fuses = s0.sys.fuses := by
  unfold State.ladderStart
  repeat' split
  all_goals simp

@[simp] theorem State.strBegin_kept (s : State) (n : Nat) :
    (State.strBegin s n).pending = s.pending ∧ (State.strBegin s n).sys.fuses = s.sys.fuses := by
  unfold State.strBegin
  repeat' split
  all_goals simp

@[simp] theorem State.ladderDrop_kept (s : State) (n : Nat) :
    (State.ladderDrop s n).pending = s.pending ∧ (State.ladderDrop s n).sys.fuses = s.sys.fuses := by
  unfold State.ladderDrop
  repeat' split
  all_goals simp

@[simp] theorem State.ladderPush_kept (s : State) (m result : Nat) (anchor : Int) :
    (State.ladderPush s m result anchor).pending = s.pending ∧ (State.ladderPush s m result anchor).sys.fuses =
        s.sys.fuses ∧ (State.ladderPush s m result anchor).mem = s.mem := by
  unfold State.ladderPush
  repeat' split
  all_goals simp

@[simp] theorem State.ladderFramed_kept (s : State) (m result : Nat) (anchor : Int) (pushed : Bool) :
    (State.ladderFramed s m result anchor pushed).pending = s.pending ∧ (State.ladderFramed s m result anchor
        pushed).sys.fuses = s.sys.fuses := by
  unfold State.ladderFramed
  repeat' split
  all_goals simp

@[simp] theorem State.catchMissed_kept (s : State) (m : Nat) :
    (State.catchMissed s m).pending = s.pending ∧ (State.catchMissed s m).sys.fuses = s.sys.fuses := by
  unfold State.catchMissed
  repeat' split
  all_goals simp

@[simp] theorem State.ladderMissed_kept (s : State) (m : Nat) :
    (State.ladderMissed s m).pending = s.pending ∧ (State.ladderMissed s m).sys.fuses = s.sys.fuses := by
  unfold State.ladderMissed
  repeat' split
  all_goals simp

@[simp] theorem State.catchPosted_kept (s : State) (m : Nat) (c : Cpl) :
    (State.catchPosted s m c).pending = s.pending ∧ (State.catchPosted s m c).sys.fuses = s.sys.fuses := by simp
        [State.catchPosted]

@[simp] theorem State.ladderPosted_kept (s : State) (m : Nat) (c : Cpl) (anchor : Int) :
    (State.ladderPosted s m c anchor).pending = s.pending ∧ (State.ladderPosted s m c anchor).sys.fuses =
        s.sys.fuses := by
  unfold State.ladderPosted
  repeat' split
  all_goals simp

/-! ### Memory stays canonical -/

theorem State.ladderReplay_memWf (s : State) (n m : Nat) (eq : Option Nat) (mark : Nat) (h : Memory.wf s.mem = true) :
    Memory.wf (State.ladderReplay s n m eq mark).mem = true := by
  unfold State.ladderReplay
  repeat' first
      | with_reducible assumption | with_reducible apply State.setSource_memWf | with_reducible apply foldl_memWf
      | (intro t a ha) | split | simp

theorem State.ladderReframe_memWf (s : State) (n : Nat) (l : Ladder) (a : Attempt) (mark : Nat) (h : Memory.wf s.mem
    = true) :
    Memory.wf (State.ladderReframe s n l a mark).mem = true := by
  unfold State.ladderReframe
  repeat' first
      | with_reducible assumption | with_reducible apply State.ladderReplay_memWf
      | with_reducible apply State.reframe_memWf | with_reducible apply foldl_memWf | (intro t a ha) | split | simp

theorem State.catchUp_memWf (s : State) (n : Nat) (h : Memory.wf s.mem = true) :
    Memory.wf (State.catchUp s n).mem = true := by
  unfold State.catchUp
  repeat' first
      | with_reducible assumption | with_reducible apply State.ladderReplay_memWf
      | with_reducible apply State.setSource_memWf | with_reducible apply foldl_memWf | (intro t a ha) | split
      | simp

theorem State.ladderEnd_memWf (s : State) (n : Nat) (l : Ladder) (h : Memory.wf s.mem = true) :
    Memory.wf (State.ladderEnd s n l).mem = true := by
  unfold State.ladderEnd
  repeat' first
      | with_reducible assumption | with_reducible apply State.catchUp_memWf
      | with_reducible apply State.setSource_memWf | with_reducible apply foldl_memWf | (intro t a ha) | split
      | simp

theorem State.ladderLost_memWf (s : State) (n : Nat) (l : Ladder) (h : Memory.wf s.mem = true) :
    Memory.wf (State.ladderLost s n l).mem = true := by
  unfold State.ladderLost
  repeat' first
      | with_reducible assumption | with_reducible apply State.ladderEnd_memWf | with_reducible apply foldl_memWf
      | (intro t a ha) | split | simp

theorem State.ladderRebuild_memWf (s : State) (n : Nat) (l : Ladder) (h : Memory.wf s.mem = true) :
    Memory.wf (State.ladderRebuild s n l).mem = true := by
  unfold State.ladderRebuild
  repeat' first
      | with_reducible assumption | with_reducible apply State.dmaWrite_memWf
      | with_reducible apply State.ladderEnd_memWf | with_reducible apply State.ladderLost_memWf
      | with_reducible apply foldl_memWf | (intro t a ha) | split | simp

theorem State.ladderReread_memWf (s : State) (n : Nat) (l : Ladder) (h : Memory.wf s.mem = true) :
    Memory.wf (State.ladderReread s n l).mem = true := by
  unfold State.ladderReread
  repeat' first
      | with_reducible assumption | with_reducible apply State.ladderRebuild_memWf
      | with_reducible apply State.setSource_memWf | with_reducible apply foldl_memWf | (intro t a ha) | split
      | simp

theorem State.ladderTry_memWf (s : State) (n : Nat) (l : Ladder) (a : Attempt) (h : Memory.wf s.mem = true) :
    Memory.wf (State.ladderTry s n l a).mem = true := by
  unfold State.ladderTry
  repeat' first
      | with_reducible assumption | with_reducible apply State.ladderReframe_memWf
      | with_reducible apply State.ladderReread_memWf | with_reducible apply State.reframe_memWf
      | with_reducible apply foldl_memWf | (intro t a ha) | split | simp

theorem State.ladderNext_memWf (s : State) (n : Nat) (l : Ladder) (step : Nat) (x0 : Nat) (h : Memory.wf s.mem =
    true) :
    Memory.wf (State.ladderNext s n l step x0).mem = true := by
  induction x0 generalizing s l step with
  | zero => exact State.ladderReread_memWf _ _ _ h
  | succ f ih =>
    simp only [State.ladderNext]
    split
    · exact State.ladderTry_memWf _ _ _ _ h
    · try dsimp only
      repeat' first
          | with_reducible assumption | with_reducible apply State.ladderReread_memWf | with_reducible apply ih
          | split | simp

theorem State.ladderStart_memWf (s0 : State) (n k : Nat) (h : Memory.wf s0.mem = true) :
    Memory.wf (State.ladderStart s0 n k).mem = true := by
  unfold State.ladderStart
  repeat' first
      | with_reducible assumption | with_reducible apply State.ladderLost_memWf
      | with_reducible apply State.ladderNext_memWf | with_reducible apply State.ladderRebuild_memWf
      | with_reducible apply State.ladderReread_memWf | with_reducible apply foldl_memWf | (intro t a ha) | split
      | simp

theorem State.strBegin_memWf (s : State) (n : Nat) (h : Memory.wf s.mem = true) :
    Memory.wf (State.strBegin s n).mem = true := by
  unfold State.strBegin
  repeat' first
      | with_reducible assumption | with_reducible apply State.ladderStart_memWf | with_reducible apply foldl_memWf
      | (intro t a ha) | split | simp

theorem State.ladderDrop_memWf (s : State) (n : Nat) (h : Memory.wf s.mem = true) :
    Memory.wf (State.ladderDrop s n).mem = true := by
  unfold State.ladderDrop
  repeat' first
      | with_reducible assumption | with_reducible apply State.reframe_memWf
      | with_reducible apply State.setSource_memWf | with_reducible apply foldl_memWf | (intro t a ha) | split
      | simp

theorem State.ladderFramed_memWf (s : State) (m result : Nat) (anchor : Int) (pushed : Bool) (h : Memory.wf s.mem =
    true) :
    Memory.wf (State.ladderFramed s m result anchor pushed).mem = true := by
  unfold State.ladderFramed
  repeat' first
      | with_reducible assumption | with_reducible apply State.ladderNext_memWf
      | with_reducible apply State.ladderReread_memWf | with_reducible apply foldl_memWf | (intro t a ha) | split
      | simp

theorem State.catchMissed_memWf (s : State) (m : Nat) (h : Memory.wf s.mem = true) :
    Memory.wf (State.catchMissed s m).mem = true := by
  unfold State.catchMissed
  repeat' first
      | with_reducible assumption | with_reducible apply State.setSource_memWf | with_reducible apply foldl_memWf
      | (intro t a ha) | split | simp

theorem State.ladderMissed_memWf (s : State) (m : Nat) (h : Memory.wf s.mem = true) :
    Memory.wf (State.ladderMissed s m).mem = true := by
  unfold State.ladderMissed
  repeat' first
      | with_reducible assumption | with_reducible apply State.catchMissed_memWf
      | with_reducible apply State.ladderReread_memWf | with_reducible apply State.reframe_memWf
      | with_reducible apply foldl_memWf | (intro t a ha) | split | simp

theorem State.catchPosted_memWf (s : State) (m : Nat) (c : Cpl) (h : Memory.wf s.mem = true) :
    Memory.wf (State.catchPosted s m c).mem = true := by
  unfold State.catchPosted
  repeat' first
      | with_reducible assumption | with_reducible apply State.catchUp_memWf | with_reducible apply foldl_memWf
      | (intro t a ha) | split | simp

theorem State.ladderPosted_memWf (s : State) (m : Nat) (c : Cpl) (anchor : Int) (h : Memory.wf s.mem = true) :
    Memory.wf (State.ladderPosted s m c anchor).mem = true := by
  unfold State.ladderPosted
  repeat' first
      | with_reducible assumption | with_reducible apply State.catchPosted_memWf
      | with_reducible apply State.ladderEnd_memWf | with_reducible apply State.ladderNext_memWf
      | with_reducible apply State.ladderReread_memWf | with_reducible apply foldl_memWf | (intro t a ha) | split
      | simp

end Sys2Proof.Machine
end

