-- ==== Sys2Proof/Laws/FrameCarOps.lean ====
section
/-!
SUPPORT. Sys2Proof/Laws/FrameCarOps.lean: what each operation and meaning of Machine/CarOps.lean leaves alone: the command queue, the
fuses, and memory, or its canonical form where the operation may write memory.
-/

namespace Sys2Proof.Machine

/-! ### What the operations leave alone -/

@[simp] theorem State.setCarCh_kept (s : State) (k : Nat) (c : CarChan) :
    (State.setCarCh s k c).pending = s.pending ∧ (State.setCarCh s k c).sys.fuses = s.sys.fuses ∧ (State.setCarCh s
        k c).mem = s.mem := by simp [State.setCarCh]

@[simp] theorem State.edgeAt_kept (s : State) (l k : Nat) :
    (State.edgeAt s l k).pending = s.pending ∧ (State.edgeAt s l k).sys.fuses = s.sys.fuses ∧ (State.edgeAt s l
        k).mem = s.mem := by simp [State.edgeAt]

@[simp] theorem State.requestEdge_kept (s : State) (l : Nat) :
    (State.requestEdge s l).pending = s.pending ∧ (State.requestEdge s l).sys.fuses = s.sys.fuses ∧
        (State.requestEdge s l).mem = s.mem := by simp [State.requestEdge]

@[simp] theorem State.setFill_kept (s : State) (g n : Nat) (edge : Bool) :
    (State.setFill s g n edge).pending = s.pending ∧ (State.setFill s g n edge).sys.fuses = s.sys.fuses ∧
        (State.setFill s g n edge).mem = s.mem := by simp [State.setFill]

@[simp] theorem State.segMove_kept (s : State) (g : Nat) (n : Int) :
    (State.segMove s g n).pending = s.pending ∧ (State.segMove s g n).sys.fuses = s.sys.fuses ∧ (State.segMove s g
        n).mem = s.mem := by simp [State.segMove]

@[simp] theorem State.segPut_kept (s : State) (g : Nat) (l : List Nat) :
    (State.segPut s g l).pending = s.pending ∧ (State.segPut s g l).sys.fuses = s.sys.fuses ∧ (State.segPut s g
        l).mem = s.mem := by simp [State.segPut]

@[simp] theorem State.segTake_kept (s : State) (g n : Nat) :
    (State.segTake s g n).pending = s.pending ∧ (State.segTake s g n).sys.fuses = s.sys.fuses ∧ (State.segTake s g
        n).mem = s.mem := by simp [State.segTake]

@[simp] theorem State.writeSegFill_kept (s : State) (i : Initiator) (g : Nat) (v : Word) :
    (State.writeSegFill s i g v).pending = s.pending ∧ (State.writeSegFill s i g v).sys.fuses = s.sys.fuses ∧
        (State.writeSegFill s i g v).mem = s.mem := by simp [State.writeSegFill]

@[simp] theorem State.writeSegWm_kept (s : State) (i : Initiator) (g : Nat) (v : Word) :
    (State.writeSegWm s i g v).pending = s.pending ∧ (State.writeSegWm s i g v).sys.fuses = s.sys.fuses ∧
        (State.writeSegWm s i g v).mem = s.mem := by simp [State.writeSegWm]

@[simp] theorem State.writeSwreq_kept (s : State) (i : Initiator) (lines : Nat) :
    (State.writeSwreq s i lines).pending = s.pending ∧ (State.writeSwreq s i lines).sys.fuses = s.sys.fuses ∧
        (State.writeSwreq s i lines).mem = s.mem := by simp [State.writeSwreq]

@[simp] theorem State.carPlace_kept (s : State) (k src dst count : Nat) :
    (State.carPlace s k src dst count).pending = s.pending ∧ (State.carPlace s k src dst count).sys.fuses =
        s.sys.fuses ∧ (State.carPlace s k src dst count).mem = s.mem := by simp [State.carPlace]

@[simp] theorem State.carShow_kept (s : State) (k : Nat) :
    (State.carShow s k).pending = s.pending ∧ (State.carShow s k).sys.fuses = s.sys.fuses ∧ (State.carShow s k).mem
        = s.mem := by simp [State.carShow]

@[simp] theorem State.setCarBusy_kept (s : State) (k : Nat) (v : Bool) :
    (State.setCarBusy s k v).pending = s.pending ∧ (State.setCarBusy s k v).sys.fuses = s.sys.fuses ∧
        (State.setCarBusy s k v).mem = s.mem := by simp [State.setCarBusy]

@[simp] theorem State.scribblePieces_kept (s : State) (x0 : List (Nat × Nat × Nat)) :
    (State.scribblePieces s x0).pending = s.pending ∧ (State.scribblePieces s x0).sys.fuses = s.sys.fuses := by
  induction x0 generalizing s <;> simp_all [State.scribblePieces]

@[simp] theorem State.scribble_kept (s : State) (k o n : Nat) :
    (State.scribble s k o n).pending = s.pending ∧ (State.scribble s k o n).sys.fuses = s.sys.fuses := by simp
        [State.scribble]

@[simp] theorem State.carEnd_kept (s : State) (k e kind : Nat) :
    (State.carEnd s k e kind).pending = s.pending ∧ (State.carEnd s k e kind).sys.fuses = s.sys.fuses ∧
        (State.carEnd s k e kind).mem = s.mem := by simp [State.carEnd]

@[simp] theorem State.carDone_kept (s : State) (k : Nat) :
    (State.carDone s k).pending = s.pending ∧ (State.carDone s k).sys.fuses = s.sys.fuses := by simp [State.carDone]

@[simp] theorem State.carFail_kept (s : State) (k : Nat) (e : CarErr) :
    (State.carFail s k e).pending = s.pending ∧ (State.carFail s k e).sys.fuses = s.sys.fuses := by simp
        [State.carFail]

@[simp] theorem State.carSettle_kept (s : State) (k : Nat) :
    (State.carSettle s k).pending = s.pending ∧ (State.carSettle s k).sys.fuses = s.sys.fuses := by
  simp only [State.carSettle]
  repeat' split
  all_goals simp_all

@[simp] theorem State.carError_kept (s : State) (k : Nat) (e : CarErr) :
    (State.carError s k e).pending = s.pending ∧ (State.carError s k e).sys.fuses = s.sys.fuses ∧ (State.carError s
        k e).mem = s.mem := by
  simp only [State.carError]
  repeat' split
  all_goals simp_all

@[simp] theorem State.carStart_kept (s : State) (k : Nat) :
    (State.carStart s k).pending = s.pending ∧ (State.carStart s k).sys.fuses = s.sys.fuses ∧ (State.carStart s
        k).mem = s.mem := by
  simp only [State.carStart]
  repeat' split
  all_goals simp_all

@[simp] theorem State.carDisable_kept (s : State) (k : Nat) :
    (State.carDisable s k).pending = s.pending ∧ (State.carDisable s k).sys.fuses = s.sys.fuses := by simp
        [State.carDisable]

@[simp] theorem State.writeCarCtl_kept (s : State) (i : Initiator) (k : Nat) (v : Word) :
    (State.writeCarCtl s i k v).pending = s.pending ∧ (State.writeCarCtl s i k v).sys.fuses = s.sys.fuses := by simp
        [State.writeCarCtl]

@[simp] theorem State.writeCarReg_kept (s : State) (i : Initiator) (k off : Nat) (v : Word) (locked : Bool) :
    (State.writeCarReg s i k off v locked).pending = s.pending ∧ (State.writeCarReg s i k off v locked).sys.fuses =
        s.sys.fuses ∧ (State.writeCarReg s i k off v locked).mem = s.mem := by simp [State.writeCarReg]

@[simp] theorem State.carBurst_kept (s : State) (p k : Nat) :
    (State.carBurst s p k).pending = s.pending ∧ (State.carBurst s p k).sys.fuses = s.sys.fuses ∧ (State.carBurst s
        p k).mem = s.mem := by simp [State.carBurst]

@[simp] theorem State.carIssue_kept (s : State) (k o d : Nat) :
    (State.carIssue s k o d).pending = s.pending ∧ (State.carIssue s k o d).sys.fuses = s.sys.fuses ∧
        (State.carIssue s k o d).mem = s.mem := by
  simp only [State.carIssue]
  repeat' split
  all_goals simp_all

@[simp] theorem State.carUnpack_kept (s : State) (k d n : Nat) (x0 : Nat) :
    (State.carUnpack s k d n x0).pending = s.pending ∧ (State.carUnpack s k d n x0).sys.fuses = s.sys.fuses ∧
        (State.carUnpack s k d n x0).mem = s.mem := by
  induction x0 generalizing s <;> simp_all [State.carUnpack]

@[simp] theorem State.carData_kept (s : State) (k d : Nat) :
    (State.carData s k d).pending = s.pending ∧ (State.carData s k d).sys.fuses = s.sys.fuses ∧ (State.carData s k
        d).mem = s.mem := by simp [State.carData]

@[simp] theorem State.carRead_kept (s : State) (k : Nat) :
    (State.carRead s k).pending = s.pending ∧ (State.carRead s k).sys.fuses = s.sys.fuses := by
  simp only [State.carRead]
  repeat' split
  all_goals simp_all

@[simp] theorem State.carWrite_kept (s : State) (k : Nat) :
    (State.carWrite s k).pending = s.pending ∧ (State.carWrite s k).sys.fuses = s.sys.fuses := by
  simp only [State.carWrite]
  repeat' split
  all_goals simp_all

@[simp] theorem State.carDrain_kept (s : State) (k : Nat) (x0 : Nat) :
    (State.carDrain s k x0).pending = s.pending ∧ (State.carDrain s k x0).sys.fuses = s.sys.fuses := by
  induction x0 generalizing s <;> simp_all [State.carDrain]

@[simp] theorem State.carFault_kept (s : State) (k iova : Nat) (write : Bool) :
    (State.carFault s k iova write).pending = s.pending ∧ (State.carFault s k iova write).sys.fuses = s.sys.fuses :=
        by simp [State.carFault]

/-! ### Memory stays canonical -/

theorem State.scribblePieces_memWf (s : State) (x0 : List (Nat × Nat × Nat)) (h : Memory.wf s.mem = true) :
    Memory.wf (State.scribblePieces s x0).mem = true := by
  induction x0 generalizing s with
  | nil => simpa [State.scribblePieces] using h
  | cons a m ih =>
    simp only [State.scribblePieces]
    repeat' first
        | with_reducible assumption | apply ih | with_reducible apply State.physWrite_memWf
        | with_reducible apply foldl_memWf | (intro t a ha) | split | simp

theorem State.scribble_memWf (s : State) (k o n : Nat) (h : Memory.wf s.mem = true) :
    Memory.wf (State.scribble s k o n).mem = true := by
  unfold State.scribble
  repeat' first
      | with_reducible assumption | with_reducible apply State.scribblePieces_memWf
      | with_reducible apply foldl_memWf | (intro t a ha) | split | simp

theorem State.carDone_memWf (s : State) (k : Nat) (h : Memory.wf s.mem = true) :
    Memory.wf (State.carDone s k).mem = true := by
  unfold State.carDone
  repeat' first
      | with_reducible assumption | with_reducible apply State.scribble_memWf | with_reducible apply foldl_memWf
      | (intro t a ha) | split | simp

theorem State.carFail_memWf (s : State) (k : Nat) (e : CarErr) (h : Memory.wf s.mem = true) :
    Memory.wf (State.carFail s k e).mem = true := by
  unfold State.carFail
  repeat' first
      | with_reducible assumption | with_reducible apply State.scribble_memWf | with_reducible apply foldl_memWf
      | (intro t a ha) | split | simp

theorem State.carSettle_memWf (s : State) (k : Nat) (h : Memory.wf s.mem = true) :
    Memory.wf (State.carSettle s k).mem = true := by
  unfold State.carSettle
  repeat' first
      | with_reducible assumption | with_reducible apply State.carDone_memWf
      | with_reducible apply State.carFail_memWf | with_reducible apply State.scribble_memWf
      | with_reducible apply foldl_memWf | (intro t a ha) | split | simp

theorem State.carDisable_memWf (s : State) (k : Nat) (h : Memory.wf s.mem = true) :
    Memory.wf (State.carDisable s k).mem = true := by
  unfold State.carDisable
  repeat' first
      | with_reducible assumption | with_reducible apply State.carSettle_memWf | with_reducible apply foldl_memWf
      | (intro t a ha) | split | simp

theorem State.writeCarCtl_memWf (s : State) (i : Initiator) (k : Nat) (v : Word) (h : Memory.wf s.mem = true) :
    Memory.wf (State.writeCarCtl s i k v).mem = true := by
  unfold State.writeCarCtl
  repeat' first
      | with_reducible assumption | with_reducible apply State.carDisable_memWf | with_reducible apply foldl_memWf
      | (intro t a ha) | split | simp

theorem State.carRead_memWf (s : State) (k : Nat) (h : Memory.wf s.mem = true) :
    Memory.wf (State.carRead s k).mem = true := by
  unfold State.carRead
  repeat' first
      | with_reducible assumption | with_reducible apply State.carSettle_memWf | with_reducible apply foldl_memWf
      | (intro t a ha) | split | simp

theorem State.carWrite_memWf (s : State) (k : Nat) (h : Memory.wf s.mem = true) :
    Memory.wf (State.carWrite s k).mem = true := by
  unfold State.carWrite
  repeat' first
      | with_reducible assumption | with_reducible apply State.carSettle_memWf
      | with_reducible apply State.physWrite_memWf | with_reducible apply foldl_memWf | (intro t a ha) | split
      | simp

theorem State.carDrain_memWf (s : State) (k : Nat) (x0 : Nat) (h : Memory.wf s.mem = true) :
    Memory.wf (State.carDrain s k x0).mem = true := by
  induction x0 generalizing s with
  | zero => exact State.carSettle_memWf _ _ h
  | succ m ih => exact ih _ (State.carWrite_memWf _ _ h)

theorem State.carFault_memWf (s : State) (k iova : Nat) (write : Bool) (h : Memory.wf s.mem = true) :
    Memory.wf (State.carFault s k iova write).mem = true := by
  unfold State.carFault
  repeat' first
      | with_reducible assumption | with_reducible apply State.carSettle_memWf | with_reducible apply foldl_memWf
      | (intro t a ha) | split | simp

end Sys2Proof.Machine
end

