-- ==== Sys2Proof/Laws/FrameObsOps.lean ====
section
/-!
SUPPORT. Sys2Proof/Laws/FrameObsOps.lean: what each operation and meaning of Machine/ObsOps.lean leaves alone: the command queue, the
fuses, and memory, or its canonical form where the operation may write memory.
-/

namespace Sys2Proof.Machine

/-! ### What the operations leave alone -/

@[simp] theorem State.setOut_kept (s : State) (p b : Nat) :
    (State.setOut s p b).pending = s.pending ∧ (State.setOut s p b).sys.fuses = s.sys.fuses ∧ (State.setOut s p
        b).mem = s.mem := by simp [State.setOut]

@[simp] theorem State.rawEnd_kept (s : State) (p st : Nat) :
    (State.rawEnd s p st).pending = s.pending ∧ (State.rawEnd s p st).sys.fuses = s.sys.fuses ∧ (State.rawEnd s p
        st).mem = s.mem := by simp [State.rawEnd]

@[simp] theorem State.auMove_kept (s : State) (u : Nat) (n : Int) :
    (State.auMove s u n).pending = s.pending ∧ (State.auMove s u n).sys.fuses = s.sys.fuses ∧ (State.auMove s u
        n).mem = s.mem := by simp [State.auMove]

@[simp] theorem State.setAu_kept (s : State) (u : Nat) (x : AuUnit) :
    (State.setAu s u x).pending = s.pending ∧ (State.setAu s u x).sys.fuses = s.sys.fuses ∧ (State.setAu s u x).mem
        = s.mem := by simp [State.setAu]

@[simp] theorem State.auZero_kept (s : State) (u : Nat) :
    (State.auZero s u).pending = s.pending ∧ (State.auZero s u).sys.fuses = s.sys.fuses ∧ (State.auZero s u).mem =
        s.mem := by simp [State.auZero]

@[simp] theorem State.auCompare_kept (s : State) (u tlen : Nat) :
    (State.auCompare s u tlen).pending = s.pending ∧ (State.auCompare s u tlen).sys.fuses = s.sys.fuses ∧
        (State.auCompare s u tlen).mem = s.mem := by simp [State.auCompare]

@[simp] theorem State.auDrain_kept (s : State) :
    (State.auDrain s).pending = s.pending ∧ (State.auDrain s).sys.fuses = s.sys.fuses ∧ (State.auDrain s).mem =
        s.mem := by
  unfold State.auDrain
  refine ⟨foldl_pending _ _ _ ?_, foldl_fuses _ _ _ ?_, foldl_mem _ _ _ ?_⟩
  all_goals
    intro t a
    split
    · split <;> simp
    · simp

@[simp] theorem State.rawStore_kept (s : State) (r : RawReq) (b : Nat) :
    (State.rawStore s r b).pending = s.pending ∧ (State.rawStore s r b).sys.fuses = s.sys.fuses ∧ (State.rawStore s
        r b).mem = s.mem := by simp [State.rawStore]

@[simp] theorem State.coreTake_kept (s : State) (c : Nat) :
    (State.coreTake s c).pending = s.pending ∧ (State.coreTake s c).sys.fuses = s.sys.fuses ∧ (State.coreTake s
        c).mem = s.mem := by
  simp only [State.coreTake]
  repeat' split
  all_goals simp_all

@[simp] theorem State.coreKick_kept (s : State) (x0 : Nat) :
    (State.coreKick s x0).pending = s.pending ∧ (State.coreKick s x0).sys.fuses = s.sys.fuses ∧ (State.coreKick s
        x0).mem = s.mem := by
  induction x0 generalizing s
  all_goals simp only [State.coreKick]
  all_goals (repeat' split)
  all_goals simp_all

@[simp] theorem State.rawResolve_kept (s : State) (r : RawReq) :
    (State.rawResolve s r).pending = s.pending ∧ (State.rawResolve s r).sys.fuses = s.sys.fuses ∧ (State.rawResolve
        s r).mem = s.mem := by simp [State.rawResolve]

@[simp] theorem State.keyDrain_kept (s : State) (x0 : Nat) :
    (State.keyDrain s x0).pending = s.pending ∧ (State.keyDrain s x0).sys.fuses = s.sys.fuses ∧ (State.keyDrain s
        x0).mem = s.mem := by
  induction x0 generalizing s
  all_goals simp only [State.keyDrain]
  all_goals (repeat' split)
  all_goals simp_all

@[simp] theorem State.keyBusy_kept (s : State) :
    (State.keyBusy s).pending = s.pending ∧ (State.keyBusy s).sys.fuses = s.sys.fuses ∧ (State.keyBusy s).mem =
        s.mem := by simp [State.keyBusy]

@[simp] theorem State.obsAdvance_kept (s : State) :
    (State.obsAdvance s).pending = s.pending ∧ (State.obsAdvance s).sys.fuses = s.sys.fuses ∧ (State.obsAdvance
        s).mem = s.mem := by simp [State.obsAdvance]

@[simp] theorem State.writeKeyData_kept (s : State) (i : Initiator) (v : Word) :
    (State.writeKeyData s i v).pending = s.pending ∧ (State.writeKeyData s i v).sys.fuses = s.sys.fuses ∧
        (State.writeKeyData s i v).mem = s.mem := by simp [State.writeKeyData]

@[simp] theorem State.writeKeyCmd_kept (s : State) (i : Initiator) (op slot : Nat) :
    (State.writeKeyCmd s i op slot).pending = s.pending ∧ (State.writeKeyCmd s i op slot).sys.fuses = s.sys.fuses ∧
        (State.writeKeyCmd s i op slot).mem = s.mem := by simp [State.writeKeyCmd]

@[simp] theorem State.writeRawIn_kept (s : State) (i : Initiator) (p j : Nat) (v : Word) :
    (State.writeRawIn s i p j v).pending = s.pending ∧ (State.writeRawIn s i p j v).sys.fuses = s.sys.fuses ∧
        (State.writeRawIn s i p j v).mem = s.mem := by simp [State.writeRawIn]

@[simp] theorem State.holdRaw_kept (s : State) (r : RawReq) :
    (State.holdRaw s r).pending = s.pending ∧ (State.holdRaw s r).sys.fuses = s.sys.fuses ∧ (State.holdRaw s r).mem
        = s.mem := by simp [State.holdRaw]

@[simp] theorem State.writeRawCtl_kept (s : State) (i : Initiator) (p : Nat) (v : Word) (upset : Bool) :
    (State.writeRawCtl s i p v upset).pending = s.pending ∧ (State.writeRawCtl s i p v upset).sys.fuses =
        s.sys.fuses ∧ (State.writeRawCtl s i p v upset).mem = s.mem := by simp [State.writeRawCtl]

@[simp] theorem State.coreDone_kept (s : State) (c : Nat) :
    (State.coreDone s c).pending = s.pending ∧ (State.coreDone s c).sys.fuses = s.sys.fuses ∧ (State.coreDone s
        c).mem = s.mem := by
  unfold State.coreDone
  repeat' split
  all_goals simp

@[simp] theorem State.writeAuCtl_kept (s : State) (i : Initiator) (u op tlen : Nat) :
    (State.writeAuCtl s i u op tlen).pending = s.pending ∧ (State.writeAuCtl s i u op tlen).sys.fuses = s.sys.fuses
        ∧ (State.writeAuCtl s i u op tlen).mem = s.mem := by
  unfold State.writeAuCtl
  repeat' split
  all_goals simp

@[simp] theorem State.writeAuTag_kept (s : State) (i : Initiator) (u j : Nat) (v : Word) :
    (State.writeAuTag s i u j v).pending = s.pending ∧ (State.writeAuTag s i u j v).sys.fuses = s.sys.fuses ∧
        (State.writeAuTag s i u j v).mem = s.mem := by simp [State.writeAuTag]

@[simp] theorem State.readAuData_kept (s : State) (i : Initiator) (u : Nat) :
    (State.readAuData s i u).pending = s.pending ∧ (State.readAuData s i u).sys.fuses = s.sys.fuses ∧
        (State.readAuData s i u).mem = s.mem := by simp [State.readAuData]

end Sys2Proof.Machine
end

