-- ==== Sys2Proof/Laws/FrameStrOps.lean ====
section
/-!
SUPPORT. Sys2Proof/Laws/FrameStrOps.lean: what each operation and meaning of Machine/StrOps.lean leaves alone: the command queue, the
fuses, and memory, or its canonical form where the operation may write memory.
-/

namespace Sys2Proof.Machine

/-! ### What the operations leave alone -/

@[simp] theorem State.setStrSt_kept (s : State) (n st : Nat) :
    (State.setStrSt s n st).pending = s.pending ∧ (State.setStrSt s n st).sys.fuses = s.sys.fuses ∧ (State.setStrSt
        s n st).mem = s.mem := by simp [State.setStrSt]

@[simp] theorem State.setG_kept (s : State) (n r : Nat) (v : Word) :
    (State.setG s n r v).pending = s.pending ∧ (State.setG s n r v).sys.fuses = s.sys.fuses ∧ (State.setG s n r
        v).mem = s.mem := by simp [State.setG]

@[simp] theorem State.strDrop_kept (s : State) (n : Nat) :
    (State.strDrop s n).pending = s.pending ∧ (State.strDrop s n).sys.fuses = s.sys.fuses := by
  simp only [State.strDrop]
  repeat' split
  all_goals simp_all

@[simp] theorem State.strRestart_kept (s : State) (n : Nat) (cause : Option Nat) (report : Bool) :
    (State.strRestart s n cause report).pending = s.pending ∧ (State.strRestart s n cause report).sys.fuses =
        s.sys.fuses := by
  unfold State.strRestart
  repeat' split
  all_goals simp

@[simp] theorem State.strItems_kept (s : State) (n cause : Nat) :
    (State.strItems s n cause).pending = s.pending ∧ (State.strItems s n cause).sys.fuses = s.sys.fuses ∧
        (State.strItems s n cause).mem = s.mem := by
  simp only [State.strItems]
  repeat' split
  all_goals simp_all

@[simp] theorem State.strEnter_kept (s : State) (n cause : Nat) :
    (State.strEnter s n cause).pending = s.pending ∧ (State.strEnter s n cause).sys.fuses = s.sys.fuses := by simp
        [State.strEnter]

@[simp] theorem State.strAbandon_kept (s : State) (n cause : Nat) :
    (State.strAbandon s n cause).pending = s.pending ∧ (State.strAbandon s n cause).sys.fuses = s.sys.fuses := by
        simp [State.strAbandon]

@[simp] theorem State.strEvent_kept (s : State) (n cause : Nat) :
    (State.strEvent s n cause).pending = s.pending ∧ (State.strEvent s n cause).sys.fuses = s.sys.fuses := by simp
        [State.strEvent]

@[simp] theorem State.strFault_kept (s : State) (n cause : Nat) :
    (State.strFault s n cause).pending = s.pending ∧ (State.strFault s n cause).sys.fuses = s.sys.fuses := by simp
        [State.strFault]

@[simp] theorem State.strNoKey_kept (s : State) (n k : Nat) :
    (State.strNoKey s n k).pending = s.pending ∧ (State.strNoKey s n k).sys.fuses = s.sys.fuses := by simp
        [State.strNoKey]

@[simp] theorem State.strGo_kept (s : State) (n a : Nat) :
    (State.strGo s n a).pending = s.pending ∧ (State.strGo s n a).sys.fuses = s.sys.fuses := by simp [State.strGo]

@[simp] theorem State.strNext_kept (s : State) (n : Nat) :
    (State.strNext s n).pending = s.pending ∧ (State.strNext s n).sys.fuses = s.sys.fuses := by simp [State.strNext]

@[simp] theorem State.strWord_pending (s : State) (n w : Nat) (f : State → State)
    (h : ∀ t, (f t).pending = t.pending) : (s.strWord n w f).pending = s.pending := by
  unfold State.strWord
  repeat' split
  all_goals simp_all

@[simp] theorem State.strWord_fuses (s : State) (n w : Nat) (f : State → State)
    (h : ∀ t, (f t).sys.fuses = t.sys.fuses) : (s.strWord n w f).sys.fuses = s.sys.fuses := by
  unfold State.strWord
  repeat' split
  all_goals simp_all

@[simp] theorem State.strWord_mem (s : State) (n w : Nat) (f : State → State)
    (h : ∀ t, (f t).mem = t.mem) : (s.strWord n w f).mem = s.mem := by
  unfold State.strWord
  repeat' split
  all_goals simp_all


@[simp] theorem State.setDslot_kept (s : State) (n k v : Nat) :
    (State.setDslot s n k v).pending = s.pending ∧ (State.setDslot s n k v).sys.fuses = s.sys.fuses ∧
        (State.setDslot s n k v).mem = s.mem := by simp [State.setDslot]

@[simp] theorem Issue.then_pending (x : Issue) (f : State → Issue) (q : List Instr) (hx : x.st.pending = q)
    (h : ∀ t, t.pending = q → (f t).st.pending = q) : (x.then f).st.pending = q := by
  unfold Issue.then
  split
  · exact h _ hx
  · exact hx

@[simp] theorem Issue.then_fuses (x : Issue) (f : State → Issue) (q : Fuses) (hx : x.st.sys.fuses = q)
    (h : ∀ t, t.sys.fuses = q → (f t).st.sys.fuses = q) : (x.then f).st.sys.fuses = q := by
  unfold Issue.then
  split
  · exact h _ hx
  · exact hx


@[simp] theorem State.nanoStep_kept (s : State) (n ga : Nat) :
    (State.nanoStep s n ga).pending = s.pending ∧ (State.nanoStep s n ga).sys.fuses = s.sys.fuses ∧ (State.nanoStep
        s n ga).mem = s.mem := by simp [State.nanoStep]

@[simp] theorem State.nanoMem_kept (s : State) (n ga : Nat) (x : Nano) (op : Nat) :
    (s.nanoMem n ga x op).st.pending = s.pending ∧ (s.nanoMem n ga x op).st.sys.fuses = s.sys.fuses := by
  unfold State.nanoMem
  dsimp only
  repeat' split
  all_goals simp


@[simp] theorem State.nanoAes_kept (s : State) (n gb : Nat) (x : Nano) (upset : Bool) :
    (s.nanoAes n gb x upset).st.pending = s.pending ∧ (s.nanoAes n gb x upset).st.sys.fuses = s.sys.fuses := by
  unfold State.nanoAes
  dsimp only
  repeat' split
  all_goals simp


@[simp] theorem State.nanoCrc_kept (s : State) (n gb : Nat) (x : Nano) :
    (State.nanoCrc s n gb x).pending = s.pending ∧ (State.nanoCrc s n gb x).sys.fuses = s.sys.fuses ∧ (State.nanoCrc
        s n gb x).mem = s.mem := by
  unfold State.nanoCrc
  repeat' split
  all_goals simp

@[simp] theorem State.nanoScr_kept (s : State) (n gb : Nat) (x : Nano) :
    (State.nanoScr s n gb x).pending = s.pending ∧ (State.nanoScr s n gb x).sys.fuses = s.sys.fuses ∧ (State.nanoScr
        s n gb x).mem = s.mem := by
  unfold State.nanoScr
  repeat' split
  all_goals simp

@[simp] theorem State.nanoXor_kept (s : State) (n : Nat) (x : Nano) :
    (State.nanoXor s n x).pending = s.pending ∧ (State.nanoXor s n x).sys.fuses = s.sys.fuses ∧ (State.nanoXor s n
        x).mem = s.mem := by simp [State.nanoXor]

@[simp] theorem State.writeSpan_kept (s : State) (a : Nat) (bits : List Bool) :
    (State.writeSpan s a bits).pending = s.pending ∧ (State.writeSpan s a bits).sys.fuses = s.sys.fuses ∧
        (State.writeSpan s a bits).mem = s.mem := by simp [State.writeSpan]

@[simp] theorem State.writeBehind_kept (s : State) (a b : Nat) (bits : List Bool) :
    (State.writeBehind s a b bits).pending = s.pending ∧ (State.writeBehind s a b bits).sys.fuses = s.sys.fuses ∧
        (State.writeBehind s a b bits).mem = s.mem := by
  simp only [State.writeBehind]
  repeat' split
  all_goals simp_all

@[simp] theorem State.writeSlot_kept (s : State) (a v : Nat) :
    (State.writeSlot s a v).pending = s.pending ∧ (State.writeSlot s a v).sys.fuses = s.sys.fuses ∧ (State.writeSlot
        s a v).mem = s.mem := by
  unfold State.writeSlot
  repeat' split
  all_goals simp

@[simp] theorem State.nanoCh_kept (s : State) (n : Nat) (x : Nano) (frame : Nat) :
    (State.nanoCh s n x frame).pending = s.pending ∧ (State.nanoCh s n x frame).sys.fuses = s.sys.fuses ∧
        (State.nanoCh s n x frame).mem = s.mem := by
  unfold State.nanoCh
  repeat' split
  all_goals simp

@[simp] theorem State.nanoIssue_kept (s : State) (n ga gb : Nat) (x : Nano) (frame : Nat) (upset : Bool) :
    (s.nanoIssue n ga gb x frame upset).st.pending = s.pending ∧
      (s.nanoIssue n ga gb x frame upset).st.sys.fuses = s.sys.fuses := by
  unfold State.nanoIssue
  constructor
  · refine Issue.then_pending _ _ _ (Issue.then_pending _ _ _ (Issue.then_pending _ _ _ ?_ ?_) ?_) ?_
    all_goals (try intro t ht)
    all_goals simp [*]
  · refine Issue.then_fuses _ _ _ (Issue.then_fuses _ _ _ (Issue.then_fuses _ _ _ ?_ ?_) ?_) ?_
    all_goals (try intro t ht)
    all_goals simp [*]


@[simp] theorem State.nanoRun_kept (n ga gb : Nat) (x : Nano) (upset : Bool) (k : Nat) :
    ∀ (s : State) (frames : List (BitVec 512)), (s.nanoRun n ga gb x upset frames k).st.pending = s.pending ∧
      (s.nanoRun n ga gb x upset frames k).st.sys.fuses = s.sys.fuses := by
  induction k with
  | zero => intro s frames; exact ⟨rfl, rfl⟩
  | succ k ih =>
    intro s frames
    simp only [State.nanoRun]
    constructor
    · refine Issue.then_pending _ _ _ ?_ ?_
      · split <;> simp
      · intro t ht; rw [(ih t _).1, ht]
    · refine Issue.then_fuses _ _ _ ?_ ?_
      · split <;> simp
      · intro t ht; rw [(ih t _).2, ht]


@[simp] theorem State.patchApply_kept (s : State) (n : Nat) (x : PatchBody) (k : Nat) :
    (State.patchApply s n x k).pending = s.pending ∧ (State.patchApply s n x k).sys.fuses = s.sys.fuses ∧
        (State.patchApply s n x k).mem = s.mem := by simp [State.patchApply]

@[simp] theorem State.patchApplyAll_kept (s : State) (n : Nat) (x0 : List PatchBody) (y0 : Nat) :
    (State.patchApplyAll s n x0 y0).pending = s.pending ∧ (State.patchApplyAll s n x0 y0).sys.fuses = s.sys.fuses ∧
        (State.patchApplyAll s n x0 y0).mem = s.mem := by
  induction x0 generalizing s n y0 <;> simp_all [State.patchApplyAll]

@[simp] theorem State.strStart_kept (s : State) (n : Nat) :
    (State.strStart s n).pending = s.pending ∧ (State.strStart s n).sys.fuses = s.sys.fuses := by simp
        [State.strStart]

@[simp] theorem State.patchLoad_kept (s : State) (n : Nat) (imgs : List (Option Nat)) :
    (State.patchLoad s n imgs).pending = s.pending ∧ (State.patchLoad s n imgs).sys.fuses = s.sys.fuses := by
  simp only [State.patchLoad]
  repeat' split
  all_goals simp_all

@[simp] theorem State.writeWqPush_kept (s : State) (i : Initiator) (n kind k : Nat) :
    (State.writeWqPush s i n kind k).pending = s.pending ∧ (State.writeWqPush s i n kind k).sys.fuses = s.sys.fuses
        ∧ (State.writeWqPush s i n kind k).mem = s.mem := by simp [State.writeWqPush]

@[simp] theorem State.strAbort_kept (s : State) (n : Nat) :
    (State.strAbort s n).pending = s.pending ∧ (State.strAbort s n).sys.fuses = s.sys.fuses := by simp
        [State.strAbort]

@[simp] theorem State.writeStrCtl_kept (s : State) (i : Initiator) (n : Nat) (v : Word) :
    (State.writeStrCtl s i n v).pending = s.pending ∧ (State.writeStrCtl s i n v).sys.fuses = s.sys.fuses := by simp
        [State.writeStrCtl]

/-! ### Memory stays canonical -/

theorem State.strDrop_memWf (s : State) (n : Nat) (h : Memory.wf s.mem = true) :
    Memory.wf (State.strDrop s n).mem = true := by
  unfold State.strDrop
  repeat' first
      | with_reducible assumption | with_reducible apply State.ladderDrop_memWf | with_reducible apply foldl_memWf
      | (intro t a ha) | split | simp

theorem State.strRestart_memWf (s : State) (n : Nat) (cause : Option Nat) (report : Bool) (h : Memory.wf s.mem =
    true) :
    Memory.wf (State.strRestart s n cause report).mem = true := by
  unfold State.strRestart
  repeat' first
      | with_reducible assumption | with_reducible apply State.strDrop_memWf | with_reducible apply foldl_memWf
      | (intro t a ha) | split | simp

theorem State.strEnter_memWf (s : State) (n cause : Nat) (h : Memory.wf s.mem = true) :
    Memory.wf (State.strEnter s n cause).mem = true := by
  unfold State.strEnter
  repeat' first
      | with_reducible assumption | with_reducible apply State.strRestart_memWf | with_reducible apply foldl_memWf
      | (intro t a ha) | split | simp

theorem State.strAbandon_memWf (s : State) (n cause : Nat) (h : Memory.wf s.mem = true) :
    Memory.wf (State.strAbandon s n cause).mem = true := by
  unfold State.strAbandon
  repeat' first
      | with_reducible assumption | with_reducible apply State.strDrop_memWf
      | with_reducible apply State.strEnter_memWf | with_reducible apply foldl_memWf | (intro t a ha) | split
      | simp

theorem State.strEvent_memWf (s : State) (n cause : Nat) (h : Memory.wf s.mem = true) :
    Memory.wf (State.strEvent s n cause).mem = true := by
  unfold State.strEvent
  repeat' first
      | with_reducible assumption | with_reducible apply State.strAbandon_memWf | with_reducible apply foldl_memWf
      | (intro t a ha) | split | simp

theorem State.strFault_memWf (s : State) (n cause : Nat) (h : Memory.wf s.mem = true) :
    Memory.wf (State.strFault s n cause).mem = true := by
  unfold State.strFault
  repeat' first
      | with_reducible assumption | with_reducible apply State.strAbandon_memWf
      | with_reducible apply State.strRestart_memWf | with_reducible apply foldl_memWf | (intro t a ha) | split
      | simp

theorem State.strNoKey_memWf (s : State) (n k : Nat) (h : Memory.wf s.mem = true) :
    Memory.wf (State.strNoKey s n k).mem = true := by
  unfold State.strNoKey
  repeat' first
      | with_reducible assumption | with_reducible apply State.strFault_memWf | with_reducible apply foldl_memWf
      | (intro t a ha) | split | simp

theorem State.strGo_memWf (s : State) (n a : Nat) (h : Memory.wf s.mem = true) :
    Memory.wf (State.strGo s n a).mem = true := by
  unfold State.strGo
  repeat' first
      | with_reducible assumption | with_reducible apply State.strFault_memWf | with_reducible apply foldl_memWf
      | (intro t a ha) | split | simp

theorem State.strNext_memWf (s : State) (n : Nat) (h : Memory.wf s.mem = true) :
    Memory.wf (State.strNext s n).mem = true := by
  unfold State.strNext
  repeat' first
      | with_reducible assumption | with_reducible apply State.strGo_memWf | with_reducible apply foldl_memWf
      | (intro t a ha) | split | simp

theorem State.strWord_memWf (s : State) (n w : Nat) (f : State → State) (h : Memory.wf s.mem = true)
    (hf : ∀ t, Memory.wf t.mem = true → Memory.wf (f t).mem = true) : Memory.wf (s.strWord n w f).mem = true := by
  unfold State.strWord
  split
  · exact hf s h
  · exact h

theorem State.strStart_memWf (s : State) (n : Nat) (h : Memory.wf s.mem = true) :
    Memory.wf (State.strStart s n).mem = true := by
  unfold State.strStart
  repeat' first
      | with_reducible assumption | with_reducible apply State.strBegin_memWf
      | with_reducible apply State.strGo_memWf | with_reducible apply foldl_memWf | (intro t a ha) | split | simp

theorem State.patchLoad_memWf (s : State) (n : Nat) (imgs : List (Option Nat)) (h : Memory.wf s.mem = true) :
    Memory.wf (State.patchLoad s n imgs).mem = true := by
  unfold State.patchLoad
  repeat' first
      | with_reducible assumption | with_reducible apply State.strStart_memWf | with_reducible apply foldl_memWf
      | (intro t a ha) | split | simp

theorem State.strAbort_memWf (s : State) (n : Nat) (h : Memory.wf s.mem = true) :
    Memory.wf (State.strAbort s n).mem = true := by
  unfold State.strAbort
  repeat' first
      | with_reducible assumption | with_reducible apply State.strAbandon_memWf | with_reducible apply foldl_memWf
      | (intro t a ha) | split | simp

theorem State.writeStrCtl_memWf (s : State) (i : Initiator) (n : Nat) (v : Word) (h : Memory.wf s.mem = true) :
    Memory.wf (State.writeStrCtl s i n v).mem = true := by
  unfold State.writeStrCtl
  repeat' first
      | with_reducible assumption | with_reducible apply State.strAbort_memWf
      | with_reducible apply State.strRestart_memWf | with_reducible apply foldl_memWf | (intro t a ha) | split
      | simp

end Sys2Proof.Machine
end

