-- ==== Sys2Proof/Laws/FrameBedrock.lean ====
section
/-!
SUPPORT. Sys2Proof/Laws/FrameBedrock.lean: what each operation and meaning of Machine/Bedrock.lean leaves alone: the command queue, the
fuses, and memory, or its canonical form where the operation may write memory.
-/

namespace Sys2Proof.Machine

/-! ### What the operations leave alone -/

@[simp] theorem State.upsetGran_kept (s : State) (g upset : Nat) :
    (State.upsetGran s g upset).pending = s.pending ∧ (State.upsetGran s g upset).sys.fuses = s.sys.fuses ∧
        (State.upsetGran s g upset).mem = s.mem := by simp [State.upsetGran]

@[simp] theorem State.shaleArray_kept (s : State) (l : Nat) (array : Fin 4) :
    (State.shaleArray s l array).2.pending = s.pending ∧ (State.shaleArray s l array).2.sys.fuses = s.sys.fuses := by
  simp only [State.shaleArray]
  repeat' split
  all_goals simp_all

@[simp] theorem State.hbmReadCmd_kept (s : State) (cls ofs upset : Nat) (array : Fin 4) (seg : Option Nat) :
    (State.hbmReadCmd s cls ofs upset array seg).pending = s.pending ∧ (State.hbmReadCmd s cls ofs upset array
        seg).sys.fuses = s.sys.fuses := by
  simp only [State.hbmReadCmd]
  repeat' split
  all_goals simp_all

@[simp] theorem State.hbmWriteCmd_kept (s : State) (cls ofs len v : Nat) (seg : Option Nat) :
    (State.hbmWriteCmd s cls ofs len v seg).pending = s.pending ∧ (State.hbmWriteCmd s cls ofs len v seg).sys.fuses
        = s.sys.fuses := by
  unfold State.hbmWriteCmd
  repeat' split
  all_goals simp

@[simp] theorem State.bdpWords_kept (s : State) (n : Nat) :
    (State.bdpWords s n).pending = s.pending ∧ (State.bdpWords s n).sys.fuses = s.sys.fuses ∧ (State.bdpWords s
        n).mem = s.mem := by simp [State.bdpWords]

@[simp] theorem State.writeBdpGo_kept (s : State) (i : Initiator) (v : Word) :
    (State.writeBdpGo s i v).pending = s.pending ∧ (State.writeBdpGo s i v).sys.fuses = s.sys.fuses ∧
        (State.writeBdpGo s i v).mem = s.mem := by simp [State.writeBdpGo]

@[simp] theorem State.writeBdpData_kept (s : State) (i : Initiator) (v : Word) :
    (State.writeBdpData s i v).pending = s.pending ∧ (State.writeBdpData s i v).sys.fuses = s.sys.fuses ∧
        (State.writeBdpData s i v).mem = s.mem := by simp [State.writeBdpData]

@[simp] theorem State.readBdpData_kept (s : State) (i : Initiator) :
    (State.readBdpData s i).pending = s.pending ∧ (State.readBdpData s i).sys.fuses = s.sys.fuses ∧
        (State.readBdpData s i).mem = s.mem := by
  unfold State.readBdpData
  repeat' split
  all_goals simp

@[simp] theorem State.bdpReadGrans_kept (s : State) (g : Nat) (x0 : Nat) (y0 : Nat) (z0 : List Word) :
    (State.bdpReadGrans s g x0 y0 z0).2.pending = s.pending ∧ (State.bdpReadGrans s g x0 y0 z0).2.sys.fuses =
        s.sys.fuses ∧ (State.bdpReadGrans s g x0 y0 z0).2.mem = s.mem := by
  induction y0 generalizing s g x0 z0
  all_goals simp only [State.bdpReadGrans]
  all_goals (repeat' split)
  all_goals simp_all

@[simp] theorem State.bdpWriteGrans_kept (s : State) (g inj : Nat) (x0 : List Word) (y0 : Nat) :
    (State.bdpWriteGrans s g inj x0 y0).pending = s.pending ∧ (State.bdpWriteGrans s g inj x0 y0).sys.fuses =
        s.sys.fuses := by
  induction y0 generalizing s g inj x0 <;> simp_all [State.bdpWriteGrans]

@[simp] theorem State.bdpNow_kept (s : State) :
    (State.bdpNow s).pending = s.pending ∧ (State.bdpNow s).sys.fuses = s.sys.fuses := by
  unfold State.bdpNow
  repeat' split
  all_goals simp

@[simp] theorem State.runHeld_kept (s : State) (h : HeldHbm) :
    (State.runHeld s h).pending = s.pending ∧ (State.runHeld s h).sys.fuses = s.sys.fuses := by
  unfold State.runHeld
  repeat' split
  all_goals simp

@[simp] theorem State.bootStages_kept (s : State) :
    (State.bootStages s).pending = s.pending ∧ (State.bootStages s).sys.fuses = s.sys.fuses ∧ (State.bootStages
        s).mem = s.mem := by simp [State.bootStages]

@[simp] theorem State.writeArbShare_kept (s : State) (i : Initiator) (c : Nat) (v : Word) :
    (State.writeArbShare s i c v).pending = s.pending ∧ (State.writeArbShare s i c v).sys.fuses = s.sys.fuses ∧
        (State.writeArbShare s i c v).mem = s.mem := by simp [State.writeArbShare]

@[simp] theorem State.pprResult_kept (s : State) (r : Nat) :
    (State.pprResult s r).pending = s.pending ∧ (State.pprResult s r).sys.fuses = s.sys.fuses ∧ (State.pprResult s
        r).mem = s.mem := by simp [State.pprResult]

@[simp] theorem State.writePpr_kept (s : State) (i : Initiator) (v : Word) (spare : Bool) :
    (State.writePpr s i v spare).pending = s.pending ∧ (State.writePpr s i v spare).sys.fuses = s.sys.fuses ∧
        (State.writePpr s i v spare).mem = s.mem := by simp [State.writePpr]

@[simp] theorem State.rewriteRow_kept (s : State) (r : Nat × Nat × Nat) :
    (State.rewriteRow s r).pending = s.pending ∧ (State.rewriteRow s r).sys.fuses = s.sys.fuses := by simp
        [State.rewriteRow]

@[simp] theorem State.spareRow_kept (s : State) (r : Nat × Nat × Nat) :
    (State.spareRow s r).pending = s.pending ∧ (State.spareRow s r).sys.fuses = s.sys.fuses ∧ (State.spareRow s
        r).mem = s.mem := by simp [State.spareRow]

@[simp] theorem State.rowRepaired_kept (s : State) (hard : Bool) (r : Nat × Nat × Nat) :
    (State.rowRepaired s hard r).pending = s.pending ∧ (State.rowRepaired s hard r).sys.fuses = s.sys.fuses ∧
        (State.rowRepaired s hard r).mem = s.mem := by simp [State.rowRepaired]

@[simp] theorem State.invalidate_kept (s : State) (p : ShlLine → Bool) :
    (State.invalidate s p).pending = s.pending ∧ (State.invalidate s p).sys.fuses = s.sys.fuses ∧ (State.invalidate
        s p).mem = s.mem := by simp [State.invalidate]

@[simp] theorem State.fillLine_kept (s : State) (w l : Nat) :
    (State.fillLine s w l).pending = s.pending ∧ (State.fillLine s w l).sys.fuses = s.sys.fuses := by
  unfold State.fillLine
  repeat' split
  all_goals simp

@[simp] theorem State.fillLines_kept (s : State) (w lo : Nat) (x0 : Nat) :
    (State.fillLines s w lo x0).pending = s.pending ∧ (State.fillLines s w lo x0).sys.fuses = s.sys.fuses := by
  induction x0 generalizing s <;> simp_all [State.fillLines]

@[simp] theorem State.shaleArmed_kept (s : State) :
    (State.shaleArmed s).pending = s.pending ∧ (State.shaleArmed s).sys.fuses = s.sys.fuses ∧ (State.shaleArmed
        s).mem = s.mem := by simp [State.shaleArmed]

@[simp] theorem State.shlFinish_kept (s : State) :
    (State.shlFinish s).pending = s.pending ∧ (State.shlFinish s).sys.fuses = s.sys.fuses := by
  unfold State.shlFinish
  repeat' split
  all_goals simp

@[simp] theorem State.writeShlCtl_kept (s : State) (i : Initiator) (v : Word) :
    (State.writeShlCtl s i v).pending = s.pending ∧ (State.writeShlCtl s i v).sys.fuses = s.sys.fuses := by simp
        [State.writeShlCtl]

@[simp] theorem State.writeShlOp_kept (s : State) (i : Initiator) (v : Word) :
    (State.writeShlOp s i v).pending = s.pending ∧ (State.writeShlOp s i v).sys.fuses = s.sys.fuses ∧
        (State.writeShlOp s i v).mem = s.mem := by
  unfold State.writeShlOp
  repeat' split
  all_goals simp

@[simp] theorem State.writeShlLock_kept (s : State) (i : Initiator) (v : Word) :
    (State.writeShlLock s i v).pending = s.pending ∧ (State.writeShlLock s i v).sys.fuses = s.sys.fuses ∧
        (State.writeShlLock s i v).mem = s.mem := by simp [State.writeShlLock]

/-! ### What the meanings leave alone -/

theorem execBdpRead_kept (i : Initiator) (v : Word) (s : State) :
    ∃ u1, execBdpRead i v s = .next u1 ∧ u1.pending = s.pending ∧ u1.sys.fuses = s.sys.fuses := by
  unfold execBdpRead
  (repeat' split) <;> exact ⟨_, rfl, by simp, by simp⟩

theorem execBdpWrite_kept (i : Initiator) (v : Word) (s : State) :
    ∃ u1, execBdpWrite i v s = .next u1 ∧ u1.pending = s.pending ∧ u1.sys.fuses = s.sys.fuses := by
  unfold execBdpWrite
  (repeat' split) <;> exact ⟨_, rfl, by simp, by simp⟩

theorem execBdpStage_kept (i : Initiator) (v : Word) (s : State) :
    ∃ u1, execBdpStage i v s = .next u1 ∧ u1.pending = s.pending ∧ u1.sys.fuses = s.sys.fuses := by
  unfold execBdpStage
  exact ⟨_, rfl, by simp, by simp⟩

theorem execBdpDataRead_kept (i : Initiator) (s : State) :
    ∃ u1, execBdpDataRead i s = .next u1 ∧ u1.pending = s.pending ∧ u1.sys.fuses = s.sys.fuses := by
  unfold execBdpDataRead
  exact ⟨_, rfl, by simp, by simp⟩

theorem execBdpDone_kept (s : State) :
    ∃ u1, execBdpDone s = .next u1 ∧ u1.pending = s.pending ∧ u1.sys.fuses = s.sys.fuses := by
  unfold execBdpDone
  (repeat' split) <;> exact ⟨_, rfl, by simp, by simp⟩

theorem execHbmTrainingDone_kept (s : State) :
    ∃ u1, execHbmTrainingDone s = .next u1 ∧ u1.pending = s.pending ∧ u1.sys.fuses = s.sys.fuses := by
  unfold execHbmTrainingDone
  (repeat' split) <;> exact ⟨_, rfl, by simp, by simp⟩

theorem execHbmTrainingFail_kept (_pc : Fin 16) (s : State) :
    ∃ u1, execHbmTrainingFail _pc s = .next u1 ∧ u1.pending = s.pending ∧ u1.sys.fuses = s.sys.fuses := by
  unfold execHbmTrainingFail
  (repeat' split) <;> exact ⟨_, rfl, by simp, by simp⟩

theorem execBedrockWaitTimeout_kept (s : State) :
    ∃ u1, execBedrockWaitTimeout s = .next u1 ∧ u1.pending = s.pending ∧ u1.sys.fuses = s.sys.fuses := by
  unfold execBedrockWaitTimeout
  (repeat' split) <;> exact ⟨_, rfl, by simp, by simp⟩

theorem execHbmRead_kept (cls : Fin 6) (ofs : BitVec 34) (upset : BitVec 576) (array : Fin 4) (seg : Option (Fin
    32)) (s : State) :
    ∃ u1, execHbmRead cls ofs upset array seg s = .next u1 ∧ u1.pending = s.pending ∧ u1.sys.fuses = s.sys.fuses := by
  unfold execHbmRead
  (repeat' split) <;> exact ⟨_, rfl, by simp, by simp⟩

theorem execHbmWrite_kept (cls : Fin 6) (ofs : BitVec 34) (len v : Nat) (seg : Option (Fin 32)) (s : State) :
    ∃ u1, execHbmWrite cls ofs len v seg s = .next u1 ∧ u1.pending = s.pending ∧ u1.sys.fuses = s.sys.fuses := by
  unfold execHbmWrite
  (repeat' split) <;> exact ⟨_, rfl, by simp, by simp⟩

theorem execIdleClaim_kept (block : Fin 262144) (s : State) :
    ∃ u1, execIdleClaim block s = .next u1 ∧ u1.pending = s.pending ∧ u1.sys.fuses = s.sys.fuses := by
  unfold execIdleClaim
  (repeat' split) <;> exact ⟨_, rfl, by simp, by simp⟩

theorem execHbmTempRead_kept (t : Int) (s : State) :
    ∃ u1, execHbmTempRead t s = .next u1 ∧ u1.pending = s.pending ∧ u1.sys.fuses = s.sys.fuses := by
  unfold execHbmTempRead
  exact ⟨_, rfl, by simp, by simp⟩

theorem execHbmRefresh_kept (s : State) :
    ∃ u1, execHbmRefresh s = .next u1 ∧ u1.pending = s.pending ∧ u1.sys.fuses = s.sys.fuses := by
  unfold execHbmRefresh
  exact ⟨_, rfl, by simp, by simp⟩

theorem execArbitrationWindow_kept (s : State) :
    ∃ u1, execArbitrationWindow s = .next u1 ∧ u1.pending = s.pending ∧ u1.sys.fuses = s.sys.fuses := by
  unfold execArbitrationWindow
  exact ⟨_, rfl, by simp, by simp⟩

theorem execPprSoft_kept (i : Initiator) (v : Word) (spare : Bool) (s : State) :
    ∃ u1, execPprSoft i v spare s = .next u1 ∧ u1.pending = s.pending ∧ u1.sys.fuses = s.sys.fuses := by
  unfold execPprSoft
  (repeat' split) <;> exact ⟨_, rfl, by simp, by simp⟩

theorem execPprHard_kept (i : Initiator) (v : Word) (spare : Bool) (s : State) :
    ∃ u1, execPprHard i v spare s = .next u1 ∧ u1.pending = s.pending ∧ u1.sys.fuses = s.sys.fuses := by
  unfold execPprHard
  (repeat' split) <;> exact ⟨_, rfl, by simp, by simp⟩

theorem execPprDone_kept (clean : Bool) (s : State) :
    ∃ u1, execPprDone clean s = .next u1 ∧ u1.pending = s.pending ∧ u1.sys.fuses = s.sys.fuses := by
  unfold execPprDone
  (repeat' split) <;> exact ⟨_, rfl, by simp, by simp⟩

theorem execScrubRead_kept (upset : BitVec 576) (newer : Bool) (s : State) :
    ∃ u1, execScrubRead upset newer s = .next u1 ∧ u1.pending = s.pending ∧ u1.sys.fuses = s.sys.fuses := by
  simp only [execScrubRead, ok]
  (repeat' split) <;> first
      | exact ⟨_, rfl, by simp, by simp⟩ | (refine ⟨_, rfl, ?_, ?_⟩ <;> (repeat' split) <;> simp_all)

theorem execScrubLapStart_kept (s : State) :
    ∃ u1, execScrubLapStart s = .next u1 ∧ u1.pending = s.pending ∧ u1.sys.fuses = s.sys.fuses := by
  unfold execScrubLapStart
  (repeat' split) <;> exact ⟨_, rfl, by simp, by simp⟩

theorem execSramScrubStep_kept (region : Fin 10) (bits : Fin 3) (newer : Bool) (spot : SramSpot) (s : State) :
    ∃ u1, execSramScrubStep region bits newer spot s = .next u1 ∧ u1.pending = s.pending ∧ u1.sys.fuses =
        s.sys.fuses := by
  simp only [execSramScrubStep, ok]
  (repeat' split) <;> first
      | exact ⟨_, rfl, by simp, by simp⟩ | (refine ⟨_, rfl, ?_, ?_⟩ <;> (repeat' split) <;> simp_all)

theorem execShaleEnable_kept (i : Initiator) (v : Word) (s : State) :
    ∃ u1, execShaleEnable i v s = .next u1 ∧ u1.pending = s.pending ∧ u1.sys.fuses = s.sys.fuses := by
  unfold execShaleEnable
  (repeat' split) <;> exact ⟨_, rfl, by simp, by simp⟩

theorem execShaleDisable_kept (i : Initiator) (v : Word) (s : State) :
    ∃ u1, execShaleDisable i v s = .next u1 ∧ u1.pending = s.pending ∧ u1.sys.fuses = s.sys.fuses := by
  unfold execShaleDisable
  (repeat' split) <;> exact ⟨_, rfl, by simp, by simp⟩

theorem execShaleDrainDone_kept (s : State) :
    ∃ u1, execShaleDrainDone s = .next u1 ∧ u1.pending = s.pending ∧ u1.sys.fuses = s.sys.fuses := by
  unfold execShaleDrainDone
  (repeat' split) <;> exact ⟨_, rfl, by simp, by simp⟩

theorem execShaleInvRange_kept (i : Initiator) (v : Word) (s : State) :
    ∃ u1, execShaleInvRange i v s = .next u1 ∧ u1.pending = s.pending ∧ u1.sys.fuses = s.sys.fuses := by
  unfold execShaleInvRange
  (repeat' split) <;> exact ⟨_, rfl, by simp, by simp⟩

theorem execShaleInvAll_kept (i : Initiator) (v : Word) (s : State) :
    ∃ u1, execShaleInvAll i v s = .next u1 ∧ u1.pending = s.pending ∧ u1.sys.fuses = s.sys.fuses := by
  unfold execShaleInvAll
  (repeat' split) <;> exact ⟨_, rfl, by simp, by simp⟩

theorem execShaleFill_kept (i : Initiator) (v : Word) (s : State) :
    ∃ u1, execShaleFill i v s = .next u1 ∧ u1.pending = s.pending ∧ u1.sys.fuses = s.sys.fuses := by
  unfold execShaleFill
  (repeat' split) <;> exact ⟨_, rfl, by simp, by simp⟩

theorem execShaleOpDone_kept (s : State) :
    ∃ u1, execShaleOpDone s = .next u1 ∧ u1.pending = s.pending ∧ u1.sys.fuses = s.sys.fuses := by
  unfold execShaleOpDone
  (repeat' split) <;> exact ⟨_, rfl, by simp, by simp⟩

theorem execShaleLock_kept (i : Initiator) (v : Word) (s : State) :
    ∃ u1, execShaleLock i v s = .next u1 ∧ u1.pending = s.pending ∧ u1.sys.fuses = s.sys.fuses := by
  unfold execShaleLock
  exact ⟨_, rfl, by simp, by simp⟩

/-! ### Memory stays canonical -/

theorem State.shaleArray_memWf (s : State) (l : Nat) (array : Fin 4) (h : Memory.wf s.mem = true) :
    Memory.wf (State.shaleArray s l array).2.mem = true := by
  unfold State.shaleArray
  repeat' first
      | with_reducible assumption | with_reducible apply State.shaleArrayError_memWf
      | with_reducible apply foldl_memWf | (intro t a ha) | split | simp

theorem State.hbmReadCmd_memWf (s : State) (cls ofs upset : Nat) (array : Fin 4) (seg : Option Nat) (h : Memory.wf
    s.mem = true) :
    Memory.wf (State.hbmReadCmd s cls ofs upset array seg).mem = true := by
  unfold State.hbmReadCmd
  repeat' first
      | with_reducible assumption | with_reducible apply State.shaleArray_memWf | with_reducible apply foldl_memWf
      | (intro t a ha) | split | simp

theorem State.hbmWriteCmd_memWf (s : State) (cls ofs len v : Nat) (seg : Option Nat) (h : Memory.wf s.mem = true) :
    Memory.wf (State.hbmWriteCmd s cls ofs len v seg).mem = true := by
  unfold State.hbmWriteCmd
  repeat' first
      | with_reducible assumption | with_reducible apply State.hbmWrite_memWf | with_reducible apply foldl_memWf
      | (intro t a ha) | split | simp

theorem execBdpRead_memWf (i : Initiator) (v : Word) (s : State) :
    ∃ u1, execBdpRead i v s = .next u1 ∧ (Memory.wf s.mem = true → Memory.wf u1.mem = true) := by
  unfold execBdpRead
  (repeat' split) <;> refine ⟨_, rfl, fun h => ?_⟩
  all_goals (repeat' first
      | with_reducible assumption | with_reducible apply foldl_memWf | (intro t a ha) | split | simp)

theorem execBdpWrite_memWf (i : Initiator) (v : Word) (s : State) :
    ∃ u1, execBdpWrite i v s = .next u1 ∧ (Memory.wf s.mem = true → Memory.wf u1.mem = true) := by
  unfold execBdpWrite
  (repeat' split) <;> refine ⟨_, rfl, fun h => ?_⟩
  all_goals (repeat' first
      | with_reducible assumption | with_reducible apply foldl_memWf | (intro t a ha) | split | simp)

theorem execBdpStage_memWf (i : Initiator) (v : Word) (s : State) :
    ∃ u1, execBdpStage i v s = .next u1 ∧ (Memory.wf s.mem = true → Memory.wf u1.mem = true) := by
  unfold execBdpStage
  (repeat' split) <;> refine ⟨_, rfl, fun h => ?_⟩
  all_goals (repeat' first
      | with_reducible assumption | with_reducible apply foldl_memWf | (intro t a ha) | split | simp)

theorem execBdpDataRead_memWf (i : Initiator) (s : State) :
    ∃ u1, execBdpDataRead i s = .next u1 ∧ (Memory.wf s.mem = true → Memory.wf u1.mem = true) := by
  unfold execBdpDataRead
  (repeat' split) <;> refine ⟨_, rfl, fun h => ?_⟩
  all_goals (repeat' first
      | with_reducible assumption | with_reducible apply foldl_memWf | (intro t a ha) | split | simp)

theorem State.bdpWriteGrans_memWf (s : State) (g inj : Nat) (x0 : List Word) (y0 : Nat) (h : Memory.wf s.mem = true) :
    Memory.wf (State.bdpWriteGrans s g inj x0 y0).mem = true := by
  induction y0 generalizing s g inj x0 with
  | zero => simpa [State.bdpWriteGrans] using h
  | succ m ih =>
    simp only [State.bdpWriteGrans]
    repeat' first
        | with_reducible assumption | apply ih | with_reducible apply State.writeGran_memWf
        | with_reducible apply foldl_memWf | (intro t a ha) | split | simp

theorem State.bdpNow_memWf (s : State) (h : Memory.wf s.mem = true) :
    Memory.wf (State.bdpNow s).mem = true := by
  unfold State.bdpNow
  repeat' first
      | with_reducible assumption | with_reducible apply State.bdpWriteGrans_memWf
      | with_reducible apply foldl_memWf | (intro t a ha) | split | simp

theorem execBdpDone_memWf (s : State) :
    ∃ u1, execBdpDone s = .next u1 ∧ (Memory.wf s.mem = true → Memory.wf u1.mem = true) := by
  unfold execBdpDone
  (repeat' split) <;> refine ⟨_, rfl, fun h => ?_⟩
  all_goals (repeat' first
      | with_reducible assumption | with_reducible apply State.bdpNow_memWf | with_reducible apply foldl_memWf
      | (intro t a ha) | split | simp)

theorem State.runHeld_memWf (s : State) (h : HeldHbm) (hm : Memory.wf s.mem = true) :
    Memory.wf (State.runHeld s h).mem = true := by
  unfold State.runHeld
  repeat' first
      | with_reducible assumption | with_reducible apply State.atomic_memWf
      | with_reducible apply State.bdpNow_memWf | with_reducible apply State.coreHbmNow_memWf
      | with_reducible apply State.hbmReadCmd_memWf | with_reducible apply State.hbmWriteCmd_memWf
      | with_reducible apply foldl_memWf | (intro t a ha) | split | simp

theorem execHbmTrainingDone_memWf (s : State) :
    ∃ u1, execHbmTrainingDone s = .next u1 ∧ (Memory.wf s.mem = true → Memory.wf u1.mem = true) := by
  unfold execHbmTrainingDone
  split
  · exact ⟨_, rfl, id⟩
  · refine ⟨_, rfl, fun h => foldl_memWf _ State.runHeld_memWf _ _ ?_⟩
    simp; exact h

theorem execHbmTrainingFail_memWf (_pc : Fin 16) (s : State) :
    ∃ u1, execHbmTrainingFail _pc s = .next u1 ∧ (Memory.wf s.mem = true → Memory.wf u1.mem = true) := by
  unfold execHbmTrainingFail
  (repeat' split) <;> refine ⟨_, rfl, fun h => ?_⟩
  all_goals (repeat' first
      | with_reducible assumption | with_reducible apply foldl_memWf | (intro t a ha) | split | simp)

theorem execBedrockWaitTimeout_memWf (s : State) :
    ∃ u1, execBedrockWaitTimeout s = .next u1 ∧ (Memory.wf s.mem = true → Memory.wf u1.mem = true) := by
  unfold execBedrockWaitTimeout
  (repeat' split) <;> refine ⟨_, rfl, fun h => ?_⟩
  all_goals (repeat' first
      | with_reducible assumption | with_reducible apply foldl_memWf | (intro t a ha) | split | simp)

theorem execHbmRead_memWf (cls : Fin 6) (ofs : BitVec 34) (upset : BitVec 576) (array : Fin 4) (seg : Option (Fin
    32)) (s : State) :
    ∃ u1, execHbmRead cls ofs upset array seg s = .next u1 ∧ (Memory.wf s.mem = true → Memory.wf u1.mem = true) := by
  unfold execHbmRead
  (repeat' split) <;> refine ⟨_, rfl, fun h => ?_⟩
  all_goals (repeat' first
      | with_reducible assumption | with_reducible apply State.hbmReadCmd_memWf | with_reducible apply foldl_memWf
      | (intro t a ha) | split | simp)

theorem execHbmWrite_memWf (cls : Fin 6) (ofs : BitVec 34) (len v : Nat) (seg : Option (Fin 32)) (s : State) :
    ∃ u1, execHbmWrite cls ofs len v seg s = .next u1 ∧ (Memory.wf s.mem = true → Memory.wf u1.mem = true) := by
  unfold execHbmWrite
  (repeat' split) <;> refine ⟨_, rfl, fun h => ?_⟩
  all_goals (repeat' first
      | with_reducible assumption | with_reducible apply State.hbmWriteCmd_memWf | with_reducible apply foldl_memWf
      | (intro t a ha) | split | simp)

theorem execIdleClaim_memWf (block : Fin 262144) (s : State) :
    ∃ u1, execIdleClaim block s = .next u1 ∧ (Memory.wf s.mem = true → Memory.wf u1.mem = true) := by
  unfold execIdleClaim
  (repeat' split) <;> refine ⟨_, rfl, fun h => ?_⟩
  all_goals (repeat' first
      | with_reducible assumption | with_reducible apply foldl_memWf | (intro t a ha) | split | simp)

theorem execHbmTempRead_memWf (t : Int) (s : State) :
    ∃ u1, execHbmTempRead t s = .next u1 ∧ (Memory.wf s.mem = true → Memory.wf u1.mem = true) := by
  unfold execHbmTempRead
  (repeat' split) <;> refine ⟨_, rfl, fun h => ?_⟩
  all_goals (repeat' first
      | with_reducible assumption | with_reducible apply foldl_memWf | (intro t a ha) | split | simp)

theorem execHbmRefresh_memWf (s : State) :
    ∃ u1, execHbmRefresh s = .next u1 ∧ (Memory.wf s.mem = true → Memory.wf u1.mem = true) := by
  unfold execHbmRefresh
  (repeat' split) <;> refine ⟨_, rfl, fun h => ?_⟩
  all_goals (repeat' first
      | with_reducible assumption | with_reducible apply foldl_memWf | (intro t a ha) | split | simp)

theorem execArbitrationWindow_memWf (s : State) :
    ∃ u1, execArbitrationWindow s = .next u1 ∧ (Memory.wf s.mem = true → Memory.wf u1.mem = true) := by
  unfold execArbitrationWindow
  (repeat' split) <;> refine ⟨_, rfl, fun h => ?_⟩
  all_goals (repeat' first
      | with_reducible assumption | with_reducible apply foldl_memWf | (intro t a ha) | split | simp)

theorem execPprSoft_memWf (i : Initiator) (v : Word) (spare : Bool) (s : State) :
    ∃ u1, execPprSoft i v spare s = .next u1 ∧ (Memory.wf s.mem = true → Memory.wf u1.mem = true) := by
  unfold execPprSoft
  (repeat' split) <;> refine ⟨_, rfl, fun h => ?_⟩
  all_goals (repeat' first
      | with_reducible assumption | with_reducible apply foldl_memWf | (intro t a ha) | split | simp)

theorem execPprHard_memWf (i : Initiator) (v : Word) (spare : Bool) (s : State) :
    ∃ u1, execPprHard i v spare s = .next u1 ∧ (Memory.wf s.mem = true → Memory.wf u1.mem = true) := by
  unfold execPprHard
  (repeat' split) <;> refine ⟨_, rfl, fun h => ?_⟩
  all_goals (repeat' first
      | with_reducible assumption | with_reducible apply foldl_memWf | (intro t a ha) | split | simp)

theorem State.rewriteRow_memWf (s : State) (r : Nat × Nat × Nat) (h : Memory.wf s.mem = true) :
    Memory.wf (State.rewriteRow s r).mem = true := by
  unfold State.rewriteRow
  repeat' first
      | with_reducible assumption | with_reducible apply State.rewriteGran_memWf | with_reducible apply foldl_memWf
      | (intro t a ha) | split | simp

theorem execPprDone_memWf (clean : Bool) (s : State) :
    ∃ u1, execPprDone clean s = .next u1 ∧ (Memory.wf s.mem = true → Memory.wf u1.mem = true) := by
  unfold execPprDone
  split
  · exact ⟨_, rfl, fun h => h⟩
  · refine ⟨_, rfl, fun h => foldl_memWf _ (fun t a ht => State.runHeld_memWf t a ht) _ _ ?_⟩
    dsimp only
    split
    · simp only [State.pprResult, wf_mem, wr_mem]
      exact State.rewriteRow_memWf _ _ (by simpa using h)
    · simpa using h

theorem execScrubRead_memWf (upset : BitVec 576) (newer : Bool) (s : State) :
    ∃ u1, execScrubRead upset newer s = .next u1 ∧ (Memory.wf s.mem = true → Memory.wf u1.mem = true) := by
  unfold execScrubRead
  dsimp only
  (repeat' split) <;> refine ⟨_, rfl, fun h => ?_⟩
  all_goals (repeat' first
      | with_reducible assumption | with_reducible apply State.rewriteGran_memWf | with_reducible apply foldl_memWf
      | (intro t a ha) | split | simp)

theorem execScrubLapStart_memWf (s : State) :
    ∃ u1, execScrubLapStart s = .next u1 ∧ (Memory.wf s.mem = true → Memory.wf u1.mem = true) := by
  unfold execScrubLapStart
  (repeat' split) <;> refine ⟨_, rfl, fun h => ?_⟩
  all_goals (repeat' first
      | with_reducible assumption | with_reducible apply foldl_memWf | (intro t a ha) | split | simp)

theorem execSramScrubStep_memWf (region : Fin 10) (bits : Fin 3) (newer : Bool) (spot : SramSpot) (s : State) :
    ∃ u1, execSramScrubStep region bits newer spot s = .next u1 ∧ (Memory.wf s.mem = true → Memory.wf u1.mem = true)
        := by
  unfold execSramScrubStep
  dsimp only
  (repeat' split) <;> refine ⟨_, rfl, fun h => ?_⟩
  all_goals (repeat' first
      | with_reducible assumption | with_reducible apply State.shaleArrayError_memWf
      | with_reducible apply store_memWf | with_reducible apply State.strRestart_memWf
      | with_reducible apply foldl_memWf | (intro t a ha) | split | simp)

theorem State.fillLine_memWf (s : State) (w l : Nat) (h : Memory.wf s.mem = true) :
    Memory.wf (State.fillLine s w l).mem = true := by
  unfold State.fillLine
  repeat' first
      | with_reducible assumption | with_reducible apply State.allocate_memWf
      | with_reducible apply State.evict_memWf | with_reducible apply foldl_memWf | (intro t a ha) | split | simp

theorem State.fillLines_memWf (s : State) (w lo : Nat) (x0 : Nat) (h : Memory.wf s.mem = true) :
    Memory.wf (State.fillLines s w lo x0).mem = true := by
  induction x0 generalizing s w lo with
  | zero => simpa [State.fillLines] using h
  | succ m ih =>
    simp only [State.fillLines]
    repeat' first
        | with_reducible assumption | apply ih | with_reducible apply State.fillLine_memWf
        | with_reducible apply foldl_memWf | (intro t a ha) | split | simp

theorem State.shlFinish_memWf (s : State) (h : Memory.wf s.mem = true) :
    Memory.wf (State.shlFinish s).mem = true := by
  unfold State.shlFinish
  repeat' first
      | with_reducible assumption | with_reducible apply State.fillLines_memWf | with_reducible apply foldl_memWf
      | (intro t a ha) | split | simp

theorem State.writeShlCtl_memWf (s : State) (i : Initiator) (v : Word) (h : Memory.wf s.mem = true) :
    Memory.wf (State.writeShlCtl s i v).mem = true := by
  unfold State.writeShlCtl
  repeat' first
      | with_reducible assumption | with_reducible apply State.shlFinish_memWf | with_reducible apply foldl_memWf
      | (intro t a ha) | split | simp

theorem execShaleEnable_memWf (i : Initiator) (v : Word) (s : State) :
    ∃ u1, execShaleEnable i v s = .next u1 ∧ (Memory.wf s.mem = true → Memory.wf u1.mem = true) := by
  unfold execShaleEnable
  (repeat' split) <;> refine ⟨_, rfl, fun h => ?_⟩
  all_goals (repeat' first
      | with_reducible assumption | with_reducible apply State.writeShlCtl_memWf | with_reducible apply foldl_memWf
      | (intro t a ha) | split | simp)

theorem execShaleDisable_memWf (i : Initiator) (v : Word) (s : State) :
    ∃ u1, execShaleDisable i v s = .next u1 ∧ (Memory.wf s.mem = true → Memory.wf u1.mem = true) := by
  unfold execShaleDisable
  (repeat' split) <;> refine ⟨_, rfl, fun h => ?_⟩
  all_goals (repeat' first
      | with_reducible assumption | with_reducible apply State.writeShlCtl_memWf | with_reducible apply foldl_memWf
      | (intro t a ha) | split | simp)

theorem execShaleDrainDone_memWf (s : State) :
    ∃ u1, execShaleDrainDone s = .next u1 ∧ (Memory.wf s.mem = true → Memory.wf u1.mem = true) := by
  unfold execShaleDrainDone
  (repeat' split) <;> refine ⟨_, rfl, fun h => ?_⟩
  all_goals (repeat' first
      | with_reducible assumption | with_reducible apply State.writeBack_memWf | with_reducible apply foldl_memWf
      | (intro t a ha) | split | simp)

theorem execShaleInvRange_memWf (i : Initiator) (v : Word) (s : State) :
    ∃ u1, execShaleInvRange i v s = .next u1 ∧ (Memory.wf s.mem = true → Memory.wf u1.mem = true) := by
  unfold execShaleInvRange
  (repeat' split) <;> refine ⟨_, rfl, fun h => ?_⟩
  all_goals (repeat' first
      | with_reducible assumption | with_reducible apply foldl_memWf | (intro t a ha) | split | simp)

theorem execShaleInvAll_memWf (i : Initiator) (v : Word) (s : State) :
    ∃ u1, execShaleInvAll i v s = .next u1 ∧ (Memory.wf s.mem = true → Memory.wf u1.mem = true) := by
  unfold execShaleInvAll
  (repeat' split) <;> refine ⟨_, rfl, fun h => ?_⟩
  all_goals (repeat' first
      | with_reducible assumption | with_reducible apply foldl_memWf | (intro t a ha) | split | simp)

theorem execShaleFill_memWf (i : Initiator) (v : Word) (s : State) :
    ∃ u1, execShaleFill i v s = .next u1 ∧ (Memory.wf s.mem = true → Memory.wf u1.mem = true) := by
  unfold execShaleFill
  (repeat' split) <;> refine ⟨_, rfl, fun h => ?_⟩
  all_goals (repeat' first
      | with_reducible assumption | with_reducible apply foldl_memWf | (intro t a ha) | split | simp)

theorem execShaleOpDone_memWf (s : State) :
    ∃ u1, execShaleOpDone s = .next u1 ∧ (Memory.wf s.mem = true → Memory.wf u1.mem = true) := by
  unfold execShaleOpDone
  (repeat' split) <;> refine ⟨_, rfl, fun h => ?_⟩
  all_goals (repeat' first
      | with_reducible assumption | with_reducible apply State.shlFinish_memWf | with_reducible apply foldl_memWf
      | (intro t a ha) | split | simp)

theorem execShaleLock_memWf (i : Initiator) (v : Word) (s : State) :
    ∃ u1, execShaleLock i v s = .next u1 ∧ (Memory.wf s.mem = true → Memory.wf u1.mem = true) := by
  unfold execShaleLock
  (repeat' split) <;> refine ⟨_, rfl, fun h => ?_⟩
  all_goals (repeat' first
      | with_reducible assumption | with_reducible apply foldl_memWf | (intro t a ha) | split | simp)

end Sys2Proof.Machine
end

