-- ==== Sys2Proof/Laws/FrameCairn.lean ====
section
/-!
SUPPORT. Sys2Proof/Laws/FrameCairn.lean: what each operation and meaning of Machine/Cairn.lean leaves alone: the command queue, the
fuses, and memory, or its canonical form where the operation may write memory.
-/

namespace Sys2Proof.Machine

/-! ### What the operations leave alone -/

@[simp] theorem State.endFreeze_kept (s : State) :
    (State.endFreeze s).pending = s.pending ∧ (State.endFreeze s).sys.fuses = s.sys.fuses ∧ (State.endFreeze s).mem
        = s.mem := by simp [State.endFreeze]

@[simp] theorem State.writeCrnCtl_kept (s : State) (i : Initiator) (v : Word) :
    (State.writeCrnCtl s i v).pending = s.pending ∧ (State.writeCrnCtl s i v).sys.fuses = s.sys.fuses ∧
        (State.writeCrnCtl s i v).mem = s.mem := by simp [State.writeCrnCtl]

@[simp] theorem State.resetRecord_kept (s : State) (found : Nat) :
    (State.resetRecord s found).pending = s.pending ∧ (State.resetRecord s found).sys.fuses = s.sys.fuses ∧
        (State.resetRecord s found).mem = s.mem := by simp [State.resetRecord]

@[simp] theorem State.persistFail_kept (s : State) :
    (State.persistFail s).pending = s.pending ∧ (State.persistFail s).sys.fuses = s.sys.fuses ∧ (State.persistFail
        s).mem = s.mem := by simp [State.persistFail]

@[simp] theorem State.writePersist_kept (s : State) (i : Initiator) (v : Word) :
    (State.writePersist s i v).pending = s.pending ∧ (State.writePersist s i v).sys.fuses = s.sys.fuses ∧
        (State.writePersist s i v).mem = s.mem := by simp [State.writePersist]

@[simp] theorem State.reserveDone_kept (s : State) (good : Bool) :
    (State.reserveDone s good).pending = s.pending ∧ (State.reserveDone s good).sys.fuses = s.sys.fuses ∧
        (State.reserveDone s good).mem = s.mem := by
  simp only [State.reserveDone]
  repeat' split
  all_goals simp_all

@[simp] theorem State.recordsDone_kept (s : State) (n : Nat) (good : Bool) :
    (State.recordsDone s n good).pending = s.pending ∧ (State.recordsDone s n good).sys.fuses = s.sys.fuses ∧
        (State.recordsDone s n good).mem = s.mem := by simp [State.recordsDone]

@[simp] theorem State.writeRelease_kept (s : State) (i : Initiator) (v : Word) :
    (State.writeRelease s i v).pending = s.pending ∧ (State.writeRelease s i v).sys.fuses = s.sys.fuses ∧
        (State.writeRelease s i v).mem = s.mem := by simp [State.writeRelease]

@[simp] theorem State.writeFwData_kept (s : State) (i : Initiator) (v : Word) :
    (State.writeFwData s i v).pending = s.pending ∧ (State.writeFwData s i v).sys.fuses = s.sys.fuses ∧
        (State.writeFwData s i v).mem = s.mem := by simp [State.writeFwData]

@[simp] theorem State.writeFwGo_kept (s : State) (i : Initiator) (v : Word) :
    (State.writeFwGo s i v).pending = s.pending ∧ (State.writeFwGo s i v).sys.fuses = s.sys.fuses ∧ (State.writeFwGo
        s i v).mem = s.mem := by simp [State.writeFwGo]

/-! ### What the meanings leave alone -/

theorem execMinuteTick_kept (s : State) :
    ∃ u1, execMinuteTick s = .next u1 ∧ u1.pending = s.pending ∧ u1.sys.fuses = s.sys.fuses := by
  unfold execMinuteTick
  exact ⟨_, rfl, by simp, by simp⟩

theorem execCairnRestore_kept (reserveOk : Bool) (s : State) :
    ∃ u1, execCairnRestore reserveOk s = .next u1 ∧ u1.pending = s.pending ∧ u1.sys.fuses = s.sys.fuses := by
  unfold execCairnRestore
  (repeat' split) <;> exact ⟨_, rfl, by simp, by simp⟩

theorem execLogFreeze_kept (i : Initiator) (v : Word) (s : State) :
    ∃ u1, execLogFreeze i v s = .next u1 ∧ u1.pending = s.pending ∧ u1.sys.fuses = s.sys.fuses := by
  unfold execLogFreeze
  exact ⟨_, rfl, by simp, by simp⟩

theorem execLogUnfreeze_kept (i : Initiator) (v : Word) (s : State) :
    ∃ u1, execLogUnfreeze i v s = .next u1 ∧ u1.pending = s.pending ∧ u1.sys.fuses = s.sys.fuses := by
  unfold execLogUnfreeze
  exact ⟨_, rfl, by simp, by simp⟩

theorem execFreezeTimeout_kept (s : State) :
    ∃ u1, execFreezeTimeout s = .next u1 ∧ u1.pending = s.pending ∧ u1.sys.fuses = s.sys.fuses := by
  unfold execFreezeTimeout
  (repeat' split) <;> exact ⟨_, rfl, by simp, by simp⟩

theorem execSbWindowHeadRead_kept (s : State) :
    ∃ u1, execSbWindowHeadRead s = .next u1 ∧ u1.pending = s.pending ∧ u1.sys.fuses = s.sys.fuses := by
  unfold execSbWindowHeadRead
  exact ⟨_, rfl, by simp, by simp⟩

theorem execSbWindowAdvance_kept (s : State) :
    ∃ u1, execSbWindowAdvance s = .next u1 ∧ u1.pending = s.pending ∧ u1.sys.fuses = s.sys.fuses := by
  unfold execSbWindowAdvance
  exact ⟨_, rfl, by simp, by simp⟩

theorem execPersistTimer_kept (s : State) :
    ∃ u1, execPersistTimer s = .next u1 ∧ u1.pending = s.pending ∧ u1.sys.fuses = s.sys.fuses := by
  unfold execPersistTimer
  exact ⟨_, rfl, by simp, by simp⟩

theorem execPersistGo_kept (i : Initiator) (v : Word) (s : State) :
    ∃ u1, execPersistGo i v s = .next u1 ∧ u1.pending = s.pending ∧ u1.sys.fuses = s.sys.fuses := by
  unfold execPersistGo
  exact ⟨_, rfl, by simp, by simp⟩

theorem execPersistDone_kept (good : Bool) (s : State) :
    ∃ u1, execPersistDone good s = .next u1 ∧ u1.pending = s.pending ∧ u1.sys.fuses = s.sys.fuses := by
  unfold execPersistDone
  (repeat' split) <;> exact ⟨_, rfl, by simp, by simp⟩

theorem execLogRelease_kept (i : Initiator) (v : Word) (s : State) :
    ∃ u1, execLogRelease i v s = .next u1 ∧ u1.pending = s.pending ∧ u1.sys.fuses = s.sys.fuses := by
  unfold execLogRelease
  exact ⟨_, rfl, by simp, by simp⟩

theorem execReleaseApplied_kept (s : State) :
    ∃ u1, execReleaseApplied s = .next u1 ∧ u1.pending = s.pending ∧ u1.sys.fuses = s.sys.fuses := by
  unfold execReleaseApplied
  exact ⟨_, rfl, by simp, by simp⟩

theorem execFwRecordStage_kept (i : Initiator) (v : Word) (s : State) :
    ∃ u1, execFwRecordStage i v s = .next u1 ∧ u1.pending = s.pending ∧ u1.sys.fuses = s.sys.fuses := by
  unfold execFwRecordStage
  exact ⟨_, rfl, by simp, by simp⟩

theorem execFwRecordWrite_kept (i : Initiator) (v : Word) (s : State) :
    ∃ u1, execFwRecordWrite i v s = .next u1 ∧ u1.pending = s.pending ∧ u1.sys.fuses = s.sys.fuses := by
  unfold execFwRecordWrite
  exact ⟨_, rfl, by simp, by simp⟩

/-! ### Memory stays canonical -/

theorem execMinuteTick_memWf (s : State) :
    ∃ u1, execMinuteTick s = .next u1 ∧ (Memory.wf s.mem = true → Memory.wf u1.mem = true) := by
  unfold execMinuteTick
  (repeat' split) <;> refine ⟨_, rfl, fun h => ?_⟩
  all_goals (repeat' first
      | with_reducible assumption | with_reducible apply foldl_memWf | (intro t a ha) | split | simp)

theorem execCairnRestore_memWf (reserveOk : Bool) (s : State) :
    ∃ u1, execCairnRestore reserveOk s = .next u1 ∧ (Memory.wf s.mem = true → Memory.wf u1.mem = true) := by
  unfold execCairnRestore
  (repeat' split) <;> refine ⟨_, rfl, fun h => ?_⟩
  all_goals (repeat' first
      | with_reducible assumption | with_reducible apply foldl_memWf | (intro t a ha) | split | simp)

theorem execLogFreeze_memWf (i : Initiator) (v : Word) (s : State) :
    ∃ u1, execLogFreeze i v s = .next u1 ∧ (Memory.wf s.mem = true → Memory.wf u1.mem = true) := by
  unfold execLogFreeze
  (repeat' split) <;> refine ⟨_, rfl, fun h => ?_⟩
  all_goals (repeat' first
      | with_reducible assumption | with_reducible apply foldl_memWf | (intro t a ha) | split | simp)

theorem execLogUnfreeze_memWf (i : Initiator) (v : Word) (s : State) :
    ∃ u1, execLogUnfreeze i v s = .next u1 ∧ (Memory.wf s.mem = true → Memory.wf u1.mem = true) := by
  unfold execLogUnfreeze
  (repeat' split) <;> refine ⟨_, rfl, fun h => ?_⟩
  all_goals (repeat' first
      | with_reducible assumption | with_reducible apply foldl_memWf | (intro t a ha) | split | simp)

theorem execFreezeTimeout_memWf (s : State) :
    ∃ u1, execFreezeTimeout s = .next u1 ∧ (Memory.wf s.mem = true → Memory.wf u1.mem = true) := by
  unfold execFreezeTimeout
  (repeat' split) <;> refine ⟨_, rfl, fun h => ?_⟩
  all_goals (repeat' first
      | with_reducible assumption | with_reducible apply foldl_memWf | (intro t a ha) | split | simp)

theorem execSbWindowHeadRead_memWf (s : State) :
    ∃ u1, execSbWindowHeadRead s = .next u1 ∧ (Memory.wf s.mem = true → Memory.wf u1.mem = true) := by
  unfold execSbWindowHeadRead
  (repeat' split) <;> refine ⟨_, rfl, fun h => ?_⟩
  all_goals (repeat' first
      | with_reducible assumption | with_reducible apply foldl_memWf | (intro t a ha) | split | simp)

theorem execSbWindowAdvance_memWf (s : State) :
    ∃ u1, execSbWindowAdvance s = .next u1 ∧ (Memory.wf s.mem = true → Memory.wf u1.mem = true) := by
  unfold execSbWindowAdvance
  (repeat' split) <;> refine ⟨_, rfl, fun h => ?_⟩
  all_goals (repeat' first
      | with_reducible assumption | with_reducible apply foldl_memWf | (intro t a ha) | split | simp)

theorem execPersistTimer_memWf (s : State) :
    ∃ u1, execPersistTimer s = .next u1 ∧ (Memory.wf s.mem = true → Memory.wf u1.mem = true) := by
  unfold execPersistTimer
  (repeat' split) <;> refine ⟨_, rfl, fun h => ?_⟩
  all_goals (repeat' first
      | with_reducible assumption | with_reducible apply foldl_memWf | (intro t a ha) | split | simp)

theorem execPersistGo_memWf (i : Initiator) (v : Word) (s : State) :
    ∃ u1, execPersistGo i v s = .next u1 ∧ (Memory.wf s.mem = true → Memory.wf u1.mem = true) := by
  unfold execPersistGo
  (repeat' split) <;> refine ⟨_, rfl, fun h => ?_⟩
  all_goals (repeat' first
      | with_reducible assumption | with_reducible apply foldl_memWf | (intro t a ha) | split | simp)

theorem execPersistDone_memWf (good : Bool) (s : State) :
    ∃ u1, execPersistDone good s = .next u1 ∧ (Memory.wf s.mem = true → Memory.wf u1.mem = true) := by
  unfold execPersistDone
  (repeat' split) <;> refine ⟨_, rfl, fun h => ?_⟩
  all_goals (repeat' first
      | with_reducible assumption | with_reducible apply foldl_memWf | (intro t a ha) | split | simp)

theorem execLogRelease_memWf (i : Initiator) (v : Word) (s : State) :
    ∃ u1, execLogRelease i v s = .next u1 ∧ (Memory.wf s.mem = true → Memory.wf u1.mem = true) := by
  unfold execLogRelease
  (repeat' split) <;> refine ⟨_, rfl, fun h => ?_⟩
  all_goals (repeat' first
      | with_reducible assumption | with_reducible apply foldl_memWf | (intro t a ha) | split | simp)

theorem execReleaseApplied_memWf (s : State) :
    ∃ u1, execReleaseApplied s = .next u1 ∧ (Memory.wf s.mem = true → Memory.wf u1.mem = true) := by
  unfold execReleaseApplied
  (repeat' split) <;> refine ⟨_, rfl, fun h => ?_⟩
  all_goals (repeat' first
      | with_reducible assumption | with_reducible apply foldl_memWf | (intro t a ha) | split | simp)

theorem execFwRecordStage_memWf (i : Initiator) (v : Word) (s : State) :
    ∃ u1, execFwRecordStage i v s = .next u1 ∧ (Memory.wf s.mem = true → Memory.wf u1.mem = true) := by
  unfold execFwRecordStage
  (repeat' split) <;> refine ⟨_, rfl, fun h => ?_⟩
  all_goals (repeat' first
      | with_reducible assumption | with_reducible apply foldl_memWf | (intro t a ha) | split | simp)

theorem execFwRecordWrite_memWf (i : Initiator) (v : Word) (s : State) :
    ∃ u1, execFwRecordWrite i v s = .next u1 ∧ (Memory.wf s.mem = true → Memory.wf u1.mem = true) := by
  unfold execFwRecordWrite
  (repeat' split) <;> refine ⟨_, rfl, fun h => ?_⟩
  all_goals (repeat' first
      | with_reducible assumption | with_reducible apply foldl_memWf | (intro t a ha) | split | simp)

end Sys2Proof.Machine
end

