-- ==== Sys2Proof/Laws/FrameContexts.lean ====
section
/-!
SUPPORT. Sys2Proof/Laws/FrameContexts.lean: what each operation and meaning of Machine/Contexts.lean leaves alone: the command queue, the
fuses, and memory, or its canonical form where the operation may write memory.
-/

namespace Sys2Proof.Machine

/-! ### What the operations leave alone -/

@[simp] theorem State.writeTake_kept (s : State) (i : Initiator) (p : Nat) (v : Word) :
    (State.writeTake s i p v).pending = s.pending ∧ (State.writeTake s i p v).sys.fuses = s.sys.fuses ∧
        (State.writeTake s i p v).mem = s.mem := by simp [State.writeTake]

@[simp] theorem State.postMedia_kept (s : State) (k : Nat) :
    (State.postMedia s k).pending = s.pending ∧ (State.postMedia s k).sys.fuses = s.sys.fuses ∧ (State.postMedia s
        k).mem = s.mem := by simp [State.postMedia]

@[simp] theorem State.postPort_kept (s : State) (k : Nat) :
    (State.postPort s k).pending = s.pending ∧ (State.postPort s k).sys.fuses = s.sys.fuses ∧ (State.postPort s
        k).mem = s.mem := by simp [State.postPort]

@[simp] theorem State.postStaged_kept (s : State) (k : Nat) :
    (State.postStaged s k).pending = s.pending ∧ (State.postStaged s k).sys.fuses = s.sys.fuses ∧ (State.postStaged
        s k).mem = s.mem := by simp [State.postStaged]

@[simp] theorem State.fetchData_kept (s : State) (k : Nat) :
    (State.fetchData s k).2.2.pending = s.pending ∧ (State.fetchData s k).2.2.sys.fuses = s.sys.fuses ∧
        (State.fetchData s k).2.2.mem = s.mem := by simp [State.fetchData]

@[simp] theorem State.postDone_kept (s : State) (k : Nat) :
    (State.postDone s k).pending = s.pending ∧ (State.postDone s k).sys.fuses = s.sys.fuses ∧ (State.postDone s
        k).mem = s.mem := by simp [State.postDone]

@[simp] theorem State.closeStream_kept (s : State) (k : Nat) :
    (State.closeStream s k).pending = s.pending ∧ (State.closeStream s k).sys.fuses = s.sys.fuses ∧
        (State.closeStream s k).mem = s.mem := by simp [State.closeStream]

@[simp] theorem State.postFree_kept (s : State) (k : Nat) :
    (State.postFree s k).pending = s.pending ∧ (State.postFree s k).sys.fuses = s.sys.fuses ∧ (State.postFree s
        k).mem = s.mem := by simp [State.postFree]

@[simp] theorem State.writePost_kept (s : State) (i : Initiator) (v : Word) :
    (State.writePost s i v).pending = s.pending ∧ (State.writePost s i v).sys.fuses = s.sys.fuses ∧ (State.writePost
        s i v).mem = s.mem := by
  unfold State.writePost
  repeat' split
  all_goals simp

@[simp] theorem State.writePop_kept (s : State) (i : Initiator) (p : Nat) (v : Word) :
    (State.writePop s i p v).pending = s.pending ∧ (State.writePop s i p v).sys.fuses = s.sys.fuses ∧
        (State.writePop s i p v).mem = s.mem := by simp [State.writePop]

@[simp] theorem State.writeTenCfg_kept (s : State) (i : Initiator) (t : Nat) (v : Word) :
    (State.writeTenCfg s i t v).pending = s.pending ∧ (State.writeTenCfg s i t v).sys.fuses = s.sys.fuses ∧
        (State.writeTenCfg s i t v).mem = s.mem := by simp [State.writeTenCfg]

@[simp] theorem State.setCapacity_kept (s : State) (t n : Nat) :
    (State.setCapacity s t n).pending = s.pending ∧ (State.setCapacity s t n).sys.fuses = s.sys.fuses ∧
        (State.setCapacity s t n).mem = s.mem := by simp [State.setCapacity]

@[simp] theorem State.writeAllowHi_kept (s : State) (i : Initiator) (t : Nat) (v : Word) :
    (State.writeAllowHi s i t v).pending = s.pending ∧ (State.writeAllowHi s i t v).sys.fuses = s.sys.fuses ∧
        (State.writeAllowHi s i t v).mem = s.mem := by simp [State.writeAllowHi]

/-! ### What the meanings leave alone -/

theorem execCtxTake_kept (i : Initiator) (idx : Fin 2) (s : State) :
    ∃ u1, execCtxTake i idx s = .next u1 ∧ u1.pending = s.pending ∧ u1.sys.fuses = s.sys.fuses := by
  unfold execCtxTake
  exact ⟨_, rfl, by simp, by simp⟩

theorem execCtxPostMedia_kept (i : Initiator) (k : Fin 65536) (s : State) :
    ∃ u1, execCtxPostMedia i k s = .next u1 ∧ u1.pending = s.pending ∧ u1.sys.fuses = s.sys.fuses := by
  unfold execCtxPostMedia
  exact ⟨_, rfl, by simp, by simp⟩

theorem execCtxPostPort_kept (i : Initiator) (k : Fin 65536) (s : State) :
    ∃ u1, execCtxPostPort i k s = .next u1 ∧ u1.pending = s.pending ∧ u1.sys.fuses = s.sys.fuses := by
  unfold execCtxPostPort
  exact ⟨_, rfl, by simp, by simp⟩

theorem execCtxPostStaged_kept (i : Initiator) (k : Fin 65536) (s : State) :
    ∃ u1, execCtxPostStaged i k s = .next u1 ∧ u1.pending = s.pending ∧ u1.sys.fuses = s.sys.fuses := by
  unfold execCtxPostStaged
  exact ⟨_, rfl, by simp, by simp⟩

theorem execCtxPostDone_kept (i : Initiator) (k : Fin 65536) (s : State) :
    ∃ u1, execCtxPostDone i k s = .next u1 ∧ u1.pending = s.pending ∧ u1.sys.fuses = s.sys.fuses := by
  unfold execCtxPostDone
  exact ⟨_, rfl, by simp, by simp⟩

theorem execCtxPostFree_kept (i : Initiator) (k : Fin 65536) (s : State) :
    ∃ u1, execCtxPostFree i k s = .next u1 ∧ u1.pending = s.pending ∧ u1.sys.fuses = s.sys.fuses := by
  unfold execCtxPostFree
  exact ⟨_, rfl, by simp, by simp⟩

theorem execCtxPop_kept (i : Initiator) (p : Fin 2) (k : Fin 65536) (s : State) :
    ∃ u1, execCtxPop i p k s = .next u1 ∧ u1.pending = s.pending ∧ u1.sys.fuses = s.sys.fuses := by
  unfold execCtxPop
  exact ⟨_, rfl, by simp, by simp⟩

theorem execTenantConfigWrite_kept (i : Initiator) (t : Fin 256) (v : Word) (capacity : Option Nat) (s : State) :
    ∃ u1, execTenantConfigWrite i t v capacity s = .next u1 ∧ u1.pending = s.pending ∧ u1.sys.fuses = s.sys.fuses :=
        by
  have h : ∀ (c : Option Nat) (u : State), ((c.map (u.setCapacity t.val)).getD u).pending = u.pending ∧
      ((c.map (u.setCapacity t.val)).getD u).sys.fuses = u.sys.fuses := fun c u => by
    cases c <;> simp
  unfold execTenantConfigWrite
  dsimp only
  split
  · exact ⟨_, rfl, by simp [h], by simp [h]⟩
  · exact ⟨_, rfl, by simp, by simp⟩

theorem execAllowanceWrite_kept (i : Initiator) (t : Fin 256) (v : Word) (s : State) :
    ∃ u1, execAllowanceWrite i t v s = .next u1 ∧ u1.pending = s.pending ∧ u1.sys.fuses = s.sys.fuses := by
  unfold execAllowanceWrite
  exact ⟨_, rfl, by simp, by simp⟩

/-! ### Memory stays canonical -/

theorem execCtxTake_memWf (i : Initiator) (idx : Fin 2) (s : State) :
    ∃ u1, execCtxTake i idx s = .next u1 ∧ (Memory.wf s.mem = true → Memory.wf u1.mem = true) := by
  unfold execCtxTake
  (repeat' split) <;> refine ⟨_, rfl, fun h => ?_⟩
  all_goals (repeat' first
      | with_reducible assumption | with_reducible apply foldl_memWf | (intro t a ha) | split | simp)

theorem execCtxPostMedia_memWf (i : Initiator) (k : Fin 65536) (s : State) :
    ∃ u1, execCtxPostMedia i k s = .next u1 ∧ (Memory.wf s.mem = true → Memory.wf u1.mem = true) := by
  unfold execCtxPostMedia
  (repeat' split) <;> refine ⟨_, rfl, fun h => ?_⟩
  all_goals (repeat' first
      | with_reducible assumption | with_reducible apply foldl_memWf | (intro t a ha) | split | simp)

theorem execCtxPostPort_memWf (i : Initiator) (k : Fin 65536) (s : State) :
    ∃ u1, execCtxPostPort i k s = .next u1 ∧ (Memory.wf s.mem = true → Memory.wf u1.mem = true) := by
  unfold execCtxPostPort
  (repeat' split) <;> refine ⟨_, rfl, fun h => ?_⟩
  all_goals (repeat' first
      | with_reducible assumption | with_reducible apply foldl_memWf | (intro t a ha) | split | simp)

theorem execCtxPostStaged_memWf (i : Initiator) (k : Fin 65536) (s : State) :
    ∃ u1, execCtxPostStaged i k s = .next u1 ∧ (Memory.wf s.mem = true → Memory.wf u1.mem = true) := by
  unfold execCtxPostStaged
  (repeat' split) <;> refine ⟨_, rfl, fun h => ?_⟩
  all_goals (repeat' first
      | with_reducible assumption | with_reducible apply foldl_memWf | (intro t a ha) | split | simp)

theorem execCtxPostDone_memWf (i : Initiator) (k : Fin 65536) (s : State) :
    ∃ u1, execCtxPostDone i k s = .next u1 ∧ (Memory.wf s.mem = true → Memory.wf u1.mem = true) := by
  unfold execCtxPostDone
  (repeat' split) <;> refine ⟨_, rfl, fun h => ?_⟩
  all_goals (repeat' first
      | with_reducible assumption | with_reducible apply foldl_memWf | (intro t a ha) | split | simp)

theorem execCtxPostFree_memWf (i : Initiator) (k : Fin 65536) (s : State) :
    ∃ u1, execCtxPostFree i k s = .next u1 ∧ (Memory.wf s.mem = true → Memory.wf u1.mem = true) := by
  unfold execCtxPostFree
  (repeat' split) <;> refine ⟨_, rfl, fun h => ?_⟩
  all_goals (repeat' first
      | with_reducible assumption | with_reducible apply foldl_memWf | (intro t a ha) | split | simp)

theorem execCtxPop_memWf (i : Initiator) (p : Fin 2) (k : Fin 65536) (s : State) :
    ∃ u1, execCtxPop i p k s = .next u1 ∧ (Memory.wf s.mem = true → Memory.wf u1.mem = true) := by
  unfold execCtxPop
  (repeat' split) <;> refine ⟨_, rfl, fun h => ?_⟩
  all_goals (repeat' first
      | with_reducible assumption | with_reducible apply foldl_memWf | (intro t a ha) | split | simp)

theorem execTenantConfigWrite_memWf (i : Initiator) (t : Fin 256) (v : Word) (capacity : Option Nat) (s : State) :
    ∃ u1, execTenantConfigWrite i t v capacity s = .next u1 ∧ (Memory.wf s.mem = true → Memory.wf u1.mem = true) := by
  have k : ∀ (c : Option Nat) (u : State), ((c.map (u.setCapacity t.val)).getD u).mem = u.mem := fun c u => by
    cases c <;> simp
  unfold execTenantConfigWrite
  dsimp only
  split
  · refine ⟨_, rfl, fun h => ?_⟩
    rw [k]
    simpa using h
  · refine ⟨_, rfl, fun h => ?_⟩
    simpa using h

theorem execAllowanceWrite_memWf (i : Initiator) (t : Fin 256) (v : Word) (s : State) :
    ∃ u1, execAllowanceWrite i t v s = .next u1 ∧ (Memory.wf s.mem = true → Memory.wf u1.mem = true) := by
  unfold execAllowanceWrite
  (repeat' split) <;> refine ⟨_, rfl, fun h => ?_⟩
  all_goals (repeat' first
      | with_reducible assumption | with_reducible apply foldl_memWf | (intro t a ha) | split | simp)

end Sys2Proof.Machine
end

