-- ==== Sys2Proof/Laws/FrameHostLink.lean ====
section
/-!
SUPPORT. Sys2Proof/Laws/FrameHostLink.lean: what each operation and meaning of Machine/HostLink.lean leaves alone: the command queue, the
fuses, and memory, or its canonical form where the operation may write memory.
-/

namespace Sys2Proof.Machine

/-! ### What the operations leave alone -/

@[simp] theorem State.linkStart_kept (s : State) (g : Nat) :
    (State.linkStart s g).pending = s.pending ∧ (State.linkStart s g).sys.fuses = s.sys.fuses ∧ (State.linkStart s
        g).mem = s.mem := by simp [State.linkStart]

@[simp] theorem State.abandonCtx_kept (s : State) (k : Nat) :
    (State.abandonCtx s k).pending = s.pending ∧ (State.abandonCtx s k).sys.fuses = s.sys.fuses ∧ (State.abandonCtx
        s k).mem = s.mem := by simp [State.abandonCtx]

@[simp] theorem State.abandonWhere_kept (s : State) (g : Nat) (p : Ctx → Bool) :
    (State.abandonWhere s g p).pending = s.pending ∧ (State.abandonWhere s g p).sys.fuses = s.sys.fuses ∧
        (State.abandonWhere s g p).mem = s.mem := by simp [State.abandonWhere]

@[simp] theorem State.resetShadow_kept (s : State) (g : Nat) :
    (State.resetShadow s g).pending = s.pending ∧ (State.resetShadow s g).sys.fuses = s.sys.fuses ∧
        (State.resetShadow s g).mem = s.mem := by simp [State.resetShadow]

@[simp] theorem State.commandReset_kept (s : State) (g : Nat) :
    (State.commandReset s g).pending = s.pending ∧ (State.commandReset s g).sys.fuses = s.sys.fuses ∧
        (State.commandReset s g).mem = s.mem := by simp [State.commandReset]

@[simp] theorem State.hostSideReset_kept (s : State) (g : Nat) :
    (State.hostSideReset s g).pending = s.pending ∧ (State.hostSideReset s g).sys.fuses = s.sys.fuses ∧
        (State.hostSideReset s g).mem = s.mem := by simp [State.hostSideReset]

@[simp] theorem State.portDown_kept (s : State) (g port : Nat) :
    (State.portDown s g port).pending = s.pending ∧ (State.portDown s g port).sys.fuses = s.sys.fuses ∧
        (State.portDown s g port).mem = s.mem := by simp [State.portDown]

@[simp] theorem State.writeLinkCtl_kept (s : State) (i : Initiator) (g : Nat) (v : Word) :
    (State.writeLinkCtl s i g v).pending = s.pending ∧ (State.writeLinkCtl s i g v).sys.fuses = s.sys.fuses ∧
        (State.writeLinkCtl s i g v).mem = s.mem := by simp [State.writeLinkCtl]

@[simp] theorem State.resetGroup_kept (s : State) (g : Nat) :
    (State.resetGroup s g).pending = s.pending ∧ (State.resetGroup s g).sys.fuses = s.sys.fuses ∧ (State.resetGroup
        s g).mem = s.mem := by simp [State.resetGroup]

@[simp] theorem State.controllerReset_kept (s : State) (g : Nat) :
    (State.controllerReset s g).pending = s.pending ∧ (State.controllerReset s g).sys.fuses = s.sys.fuses ∧
        (State.controllerReset s g).mem = s.mem := by simp [State.controllerReset]

@[simp] theorem State.doorbell_kept (s : State) (g ofs : Nat) (v : Word) :
    (State.doorbell s g ofs v).pending = s.pending ∧ (State.doorbell s g ofs v).sys.fuses = s.sys.fuses ∧
        (State.doorbell s g ofs v).mem = s.mem := by
  simp only [State.doorbell]
  repeat' split
  all_goals simp_all

@[simp] theorem State.admitCmd_kept (s : State) (g proto : Nat) (c : HostCmd) :
    (State.admitCmd s g proto c).pending = s.pending ∧ (State.admitCmd s g proto c).sys.fuses = s.sys.fuses ∧
        (State.admitCmd s g proto c).mem = s.mem := by simp [State.admitCmd]

@[simp] theorem State.consume_kept (s : State) (g sq : Nat) (x : SubQueue) :
    (State.consume s g sq x).pending = s.pending ∧ (State.consume s g sq x).sys.fuses = s.sys.fuses ∧ (State.consume
        s g sq x).mem = s.mem := by simp [State.consume]

@[simp] theorem State.inquiry_kept (s : State) (g : Nat) (c : HostCmd) (evpd : Bool) (page : Nat) :
    (State.inquiry s g c evpd page).pending = s.pending ∧ (State.inquiry s g c evpd page).sys.fuses = s.sys.fuses ∧
        (State.inquiry s g c evpd page).mem = s.mem := by simp [State.inquiry]

@[simp] theorem State.identifyDevice_kept (s : State) (tag : Nat) :
    (State.identifyDevice s tag).pending = s.pending ∧ (State.identifyDevice s tag).sys.fuses = s.sys.fuses ∧
        (State.identifyDevice s tag).mem = s.mem := by simp [State.identifyDevice]

@[simp] theorem State.sataAdmit_kept (s : State) (c : HostCmd) :
    (State.sataAdmit s c).pending = s.pending ∧ (State.sataAdmit s c).sys.fuses = s.sys.fuses ∧ (State.sataAdmit s
        c).mem = s.mem := by simp [State.sataAdmit]

@[simp] theorem State.hostWord_kept (s : State) (g w : Nat) (v : Word) :
    (State.hostWord s g w v).pending = s.pending ∧ (State.hostWord s g w v).sys.fuses = s.sys.fuses ∧
        (State.hostWord s g w v).mem = s.mem := by simp [State.hostWord]

@[simp] theorem State.sendHeld_kept (s : State) (g : Nat) (x0 : Nat) (y0 : Nat) :
    (State.sendHeld s g x0 y0).pending = s.pending ∧ (State.sendHeld s g x0 y0).sys.fuses = s.sys.fuses ∧
        (State.sendHeld s g x0 y0).mem = s.mem := by
  induction y0 generalizing s g x0 <;> simp_all [State.sendHeld]

@[simp] theorem State.shdNext_kept (s : State) (g : Nat) :
    (State.shdNext s g).pending = s.pending ∧ (State.shdNext s g).sys.fuses = s.sys.fuses ∧ (State.shdNext s g).mem
        = s.mem := by simp [State.shdNext]

@[simp] theorem State.writeShdData_kept (s : State) (i : Initiator) (g : Nat) (v : Word) :
    (State.writeShdData s i g v).pending = s.pending ∧ (State.writeShdData s i g v).sys.fuses = s.sys.fuses ∧
        (State.writeShdData s i g v).mem = s.mem := by simp [State.writeShdData]

@[simp] theorem State.readShdData_kept (s : State) (g : Nat) :
    (State.readShdData s g).pending = s.pending ∧ (State.readShdData s g).sys.fuses = s.sys.fuses ∧
        (State.readShdData s g).mem = s.mem := by simp [State.readShdData]

@[simp] theorem State.writeShdCommit_kept (s : State) (i : Initiator) (g : Nat) (v : Word) :
    (State.writeShdCommit s i g v).pending = s.pending ∧ (State.writeShdCommit s i g v).sys.fuses = s.sys.fuses ∧
        (State.writeShdCommit s i g v).mem = s.mem := by simp [State.writeShdCommit]

/-! ### What the meanings leave alone -/

theorem execLinkTrained_kept (g port : Fin 2) (rate width partner : Nat) (s : State) :
    ∃ u1, execLinkTrained g port rate width partner s = .next u1 ∧ u1.pending = s.pending ∧ u1.sys.fuses =
        s.sys.fuses := by
  simp only [execLinkTrained, ok]
  (repeat' split) <;> first
      | exact ⟨_, rfl, by simp, by simp⟩ | (refine ⟨_, rfl, ?_, ?_⟩ <;> (repeat' split) <;> simp_all)

theorem execLinkLost_kept (g port : Fin 2) (s : State) :
    ∃ u1, execLinkLost g port s = .next u1 ∧ u1.pending = s.pending ∧ u1.sys.fuses = s.sys.fuses := by
  unfold execLinkLost
  (repeat' split) <;> exact ⟨_, rfl, by simp, by simp⟩

theorem execLinkDisable_kept (i : Initiator) (g : Fin 2) (v : Word) (s : State) :
    ∃ u1, execLinkDisable i g v s = .next u1 ∧ u1.pending = s.pending ∧ u1.sys.fuses = s.sys.fuses := by
  unfold execLinkDisable
  (repeat' split) <;> exact ⟨_, rfl, by simp, by simp⟩

theorem execHostSideReset_kept (g : Fin 2) (s : State) :
    ∃ u1, execHostSideReset g s = .next u1 ∧ u1.pending = s.pending ∧ u1.sys.fuses = s.sys.fuses := by
  simp only [execHostSideReset, ok]
  (repeat' split) <;> first
      | exact ⟨_, rfl, by simp, by simp⟩ | (refine ⟨_, rfl, ?_, ?_⟩ <;> (repeat' split) <;> simp_all)

theorem execNvmeControllerReset_kept (g : Fin 2) (s : State) :
    ∃ u1, execNvmeControllerReset g s = .next u1 ∧ u1.pending = s.pending ∧ u1.sys.fuses = s.sys.fuses := by
  unfold execNvmeControllerReset
  (repeat' split) <;> exact ⟨_, rfl, by simp, by simp⟩

theorem execNvmeDoorbellWrite_kept (g : Fin 2) (ofs : Nat) (v : Word) (s : State) :
    ∃ u1, execNvmeDoorbellWrite g ofs v s = .next u1 ∧ u1.pending = s.pending ∧ u1.sys.fuses = s.sys.fuses := by
  unfold execNvmeDoorbellWrite
  (repeat' split) <;> exact ⟨_, rfl, by simp, by simp⟩

theorem execNvmeCommandFetch_kept (g : Fin 2) (sq entry : Nat) (s : State) :
    ∃ u1, execNvmeCommandFetch g sq entry s = .next u1 ∧ u1.pending = s.pending ∧ u1.sys.fuses = s.sys.fuses := by
  unfold execNvmeCommandFetch
  (repeat' split) <;> exact ⟨_, rfl, by simp, by simp⟩

theorem execNvmeFetchResume_kept (g : Fin 2) (s : State) :
    ∃ u1, execNvmeFetchResume g s = .next u1 ∧ u1.pending = s.pending ∧ u1.sys.fuses = s.sys.fuses := by
  unfold execNvmeFetchResume
  (repeat' split) <;> exact ⟨_, rfl, by simp, by simp⟩

theorem execInquiry_kept (g : Fin 2) (tag : Nat) (evpd : Bool) (page : Nat) (s : State) :
    ∃ u1, execInquiry g tag evpd page s = .next u1 ∧ u1.pending = s.pending ∧ u1.sys.fuses = s.sys.fuses := by
  unfold execInquiry
  (repeat' split) <;> exact ⟨_, rfl, by simp, by simp⟩

theorem execIdentifyDevice_kept (tag : Nat) (s : State) :
    ∃ u1, execIdentifyDevice tag s = .next u1 ∧ u1.pending = s.pending ∧ u1.sys.fuses = s.sys.fuses := by
  unfold execIdentifyDevice
  (repeat' split) <;> exact ⟨_, rfl, by simp, by simp⟩

theorem execSasCommandFrame_kept (g port : Fin 2) (lun tag space : Nat) (attr : TaskAttr) (cdb : Nat) (s : State) :
    ∃ u1, execSasCommandFrame g port lun tag space attr cdb s = .next u1 ∧ u1.pending = s.pending ∧ u1.sys.fuses =
        s.sys.fuses := by
  simp only [execSasCommandFrame, ok]
  (repeat' split) <;> first
      | exact ⟨_, rfl, by simp, by simp⟩ | (refine ⟨_, rfl, ?_, ?_⟩ <;> (repeat' split) <;> simp_all)

theorem execSasTaskManagement_kept (g port : Fin 2) (fn : TaskFn) (lun tag space : Nat) (s : State) :
    ∃ u1, execSasTaskManagement g port fn lun tag space s = .next u1 ∧ u1.pending = s.pending ∧ u1.sys.fuses =
        s.sys.fuses := by
  unfold execSasTaskManagement
  (repeat' split) <;> exact ⟨_, rfl, by simp, by simp⟩

theorem execSataCommand_kept (c : HostCmd) (s : State) :
    ∃ u1, execSataCommand c s = .next u1 ∧ u1.pending = s.pending ∧ u1.sys.fuses = s.sys.fuses := by
  unfold execSataCommand
  exact ⟨_, rfl, by simp, by simp⟩

theorem execReadFpdmaQueued_kept (ncq : Fin 32) (c : HostCmd) (s : State) :
    ∃ u1, execReadFpdmaQueued ncq c s = .next u1 ∧ u1.pending = s.pending ∧ u1.sys.fuses = s.sys.fuses := by
  unfold execReadFpdmaQueued
  exact ⟨_, rfl, by simp, by simp⟩

theorem execWriteFpdmaQueued_kept (ncq : Fin 32) (c : HostCmd) (s : State) :
    ∃ u1, execWriteFpdmaQueued ncq c s = .next u1 ∧ u1.pending = s.pending ∧ u1.sys.fuses = s.sys.fuses := by
  unfold execWriteFpdmaQueued
  exact ⟨_, rfl, by simp, by simp⟩

theorem execHostConfigRead_kept (g : Fin 2) (ofs : Nat) (s : State) :
    ∃ u1, execHostConfigRead g ofs s = .next u1 ∧ u1.pending = s.pending ∧ u1.sys.fuses = s.sys.fuses := by
  unfold execHostConfigRead
  (repeat' split) <;> exact ⟨_, rfl, by simp, by simp⟩

theorem execHostBar0Read_kept (g : Fin 2) (ofs dwords : Nat) (s : State) :
    ∃ u1, execHostBar0Read g ofs dwords s = .next u1 ∧ u1.pending = s.pending ∧ u1.sys.fuses = s.sys.fuses := by
  unfold execHostBar0Read
  (repeat' split) <;> exact ⟨_, rfl, by simp, by simp⟩

theorem execHostConfigWrite_kept (g : Fin 2) (ofs : Nat) (v : Word) (s : State) :
    ∃ u1, execHostConfigWrite g ofs v s = .next u1 ∧ u1.pending = s.pending ∧ u1.sys.fuses = s.sys.fuses := by
  unfold execHostConfigWrite
  (repeat' split) <;> exact ⟨_, rfl, by simp, by simp⟩

theorem execHostBar0Write_kept (g : Fin 2) (ofs : Nat) (v : Word) (s : State) :
    ∃ u1, execHostBar0Write g ofs v s = .next u1 ∧ u1.pending = s.pending ∧ u1.sys.fuses = s.sys.fuses := by
  unfold execHostBar0Write
  (repeat' split) <;> exact ⟨_, rfl, by simp, by simp⟩

theorem execShadowStage_kept (i : Initiator) (g : Fin 2) (v : Word) (s : State) :
    ∃ u1, execShadowStage i g v s = .next u1 ∧ u1.pending = s.pending ∧ u1.sys.fuses = s.sys.fuses := by
  unfold execShadowStage
  exact ⟨_, rfl, by simp, by simp⟩

theorem execShadowRead_kept (i : Initiator) (g : Fin 2) (s : State) :
    ∃ u1, execShadowRead i g s = .next u1 ∧ u1.pending = s.pending ∧ u1.sys.fuses = s.sys.fuses := by
  unfold execShadowRead
  (repeat' split) <;> exact ⟨_, rfl, by simp, by simp⟩

theorem execShadowCommit_kept (i : Initiator) (g : Fin 2) (s : State) :
    ∃ u1, execShadowCommit i g s = .next u1 ∧ u1.pending = s.pending ∧ u1.sys.fuses = s.sys.fuses := by
  unfold execShadowCommit
  exact ⟨_, rfl, by simp, by simp⟩

theorem execShadowDiscard_kept (i : Initiator) (g : Fin 2) (s : State) :
    ∃ u1, execShadowDiscard i g s = .next u1 ∧ u1.pending = s.pending ∧ u1.sys.fuses = s.sys.fuses := by
  unfold execShadowDiscard
  exact ⟨_, rfl, by simp, by simp⟩

theorem execShadowCommitEffect_kept (g : Fin 2) (s : State) :
    ∃ u1, execShadowCommitEffect g s = .next u1 ∧ u1.pending = s.pending ∧ u1.sys.fuses = s.sys.fuses := by
  unfold execShadowCommitEffect
  (repeat' split) <;> exact ⟨_, rfl, by simp, by simp⟩

/-! ### Memory stays canonical -/

theorem execLinkTrained_memWf (g port : Fin 2) (rate width partner : Nat) (s : State) :
    ∃ u1, execLinkTrained g port rate width partner s = .next u1 ∧ (Memory.wf s.mem = true → Memory.wf u1.mem =
        true) := by
  unfold execLinkTrained
  dsimp only
  (repeat' split) <;> refine ⟨_, rfl, fun h => ?_⟩
  all_goals (repeat' first
      | with_reducible assumption | with_reducible apply foldl_memWf | (intro t a ha) | split | simp)

theorem execLinkLost_memWf (g port : Fin 2) (s : State) :
    ∃ u1, execLinkLost g port s = .next u1 ∧ (Memory.wf s.mem = true → Memory.wf u1.mem = true) := by
  unfold execLinkLost
  (repeat' split) <;> refine ⟨_, rfl, fun h => ?_⟩
  all_goals (repeat' first
      | with_reducible assumption | with_reducible apply foldl_memWf | (intro t a ha) | split | simp)

theorem execLinkDisable_memWf (i : Initiator) (g : Fin 2) (v : Word) (s : State) :
    ∃ u1, execLinkDisable i g v s = .next u1 ∧ (Memory.wf s.mem = true → Memory.wf u1.mem = true) := by
  unfold execLinkDisable
  (repeat' split) <;> refine ⟨_, rfl, fun h => ?_⟩
  all_goals (repeat' first
      | with_reducible assumption | with_reducible apply foldl_memWf | (intro t a ha) | split | simp)

theorem execHostSideReset_memWf (g : Fin 2) (s : State) :
    ∃ u1, execHostSideReset g s = .next u1 ∧ (Memory.wf s.mem = true → Memory.wf u1.mem = true) := by
  unfold execHostSideReset
  (repeat' split) <;> refine ⟨_, rfl, fun h => ?_⟩
  all_goals (repeat' first
      | with_reducible assumption | with_reducible apply foldl_memWf | (intro t a ha) | split | simp)

theorem execNvmeControllerReset_memWf (g : Fin 2) (s : State) :
    ∃ u1, execNvmeControllerReset g s = .next u1 ∧ (Memory.wf s.mem = true → Memory.wf u1.mem = true) := by
  unfold execNvmeControllerReset
  (repeat' split) <;> refine ⟨_, rfl, fun h => ?_⟩
  all_goals (repeat' first
      | with_reducible assumption | with_reducible apply foldl_memWf | (intro t a ha) | split | simp)

theorem execNvmeDoorbellWrite_memWf (g : Fin 2) (ofs : Nat) (v : Word) (s : State) :
    ∃ u1, execNvmeDoorbellWrite g ofs v s = .next u1 ∧ (Memory.wf s.mem = true → Memory.wf u1.mem = true) := by
  unfold execNvmeDoorbellWrite
  (repeat' split) <;> refine ⟨_, rfl, fun h => ?_⟩
  all_goals (repeat' first
      | with_reducible assumption | with_reducible apply foldl_memWf | (intro t a ha) | split | simp)

theorem execNvmeCommandFetch_memWf (g : Fin 2) (sq entry : Nat) (s : State) :
    ∃ u1, execNvmeCommandFetch g sq entry s = .next u1 ∧ (Memory.wf s.mem = true → Memory.wf u1.mem = true) := by
  unfold execNvmeCommandFetch
  (repeat' split) <;> refine ⟨_, rfl, fun h => ?_⟩
  all_goals (repeat' first
      | with_reducible assumption | with_reducible apply foldl_memWf | (intro t a ha) | split | simp)

theorem execNvmeFetchResume_memWf (g : Fin 2) (s : State) :
    ∃ u1, execNvmeFetchResume g s = .next u1 ∧ (Memory.wf s.mem = true → Memory.wf u1.mem = true) := by
  unfold execNvmeFetchResume
  (repeat' split) <;> refine ⟨_, rfl, fun h => ?_⟩
  all_goals (repeat' first
      | with_reducible assumption | with_reducible apply foldl_memWf | (intro t a ha) | split | simp)

theorem execInquiry_memWf (g : Fin 2) (tag : Nat) (evpd : Bool) (page : Nat) (s : State) :
    ∃ u1, execInquiry g tag evpd page s = .next u1 ∧ (Memory.wf s.mem = true → Memory.wf u1.mem = true) := by
  unfold execInquiry
  (repeat' split) <;> refine ⟨_, rfl, fun h => ?_⟩
  all_goals (repeat' first
      | with_reducible assumption | with_reducible apply foldl_memWf | (intro t a ha) | split | simp)

theorem execIdentifyDevice_memWf (tag : Nat) (s : State) :
    ∃ u1, execIdentifyDevice tag s = .next u1 ∧ (Memory.wf s.mem = true → Memory.wf u1.mem = true) := by
  unfold execIdentifyDevice
  (repeat' split) <;> refine ⟨_, rfl, fun h => ?_⟩
  all_goals (repeat' first
      | with_reducible assumption | with_reducible apply foldl_memWf | (intro t a ha) | split | simp)

theorem execSasCommandFrame_memWf (g port : Fin 2) (lun tag space : Nat) (attr : TaskAttr) (cdb : Nat) (s : State) :
    ∃ u1, execSasCommandFrame g port lun tag space attr cdb s = .next u1 ∧ (Memory.wf s.mem = true → Memory.wf
        u1.mem = true) := by
  unfold execSasCommandFrame
  dsimp only
  (repeat' split) <;> refine ⟨_, rfl, fun h => ?_⟩
  all_goals (repeat' first
      | with_reducible assumption | with_reducible apply foldl_memWf | (intro t a ha) | split | simp)

theorem execSasTaskManagement_memWf (g port : Fin 2) (fn : TaskFn) (lun tag space : Nat) (s : State) :
    ∃ u1, execSasTaskManagement g port fn lun tag space s = .next u1 ∧ (Memory.wf s.mem = true → Memory.wf u1.mem =
        true) := by
  unfold execSasTaskManagement
  (repeat' split) <;> refine ⟨_, rfl, fun h => ?_⟩
  all_goals (repeat' first
      | with_reducible assumption | with_reducible apply foldl_memWf | (intro t a ha) | split | simp)

theorem execSataCommand_memWf (c : HostCmd) (s : State) :
    ∃ u1, execSataCommand c s = .next u1 ∧ (Memory.wf s.mem = true → Memory.wf u1.mem = true) := by
  unfold execSataCommand
  (repeat' split) <;> refine ⟨_, rfl, fun h => ?_⟩
  all_goals (repeat' first
      | with_reducible assumption | with_reducible apply foldl_memWf | (intro t a ha) | split | simp)

theorem execReadFpdmaQueued_memWf (ncq : Fin 32) (c : HostCmd) (s : State) :
    ∃ u1, execReadFpdmaQueued ncq c s = .next u1 ∧ (Memory.wf s.mem = true → Memory.wf u1.mem = true) := by
  unfold execReadFpdmaQueued
  (repeat' split) <;> refine ⟨_, rfl, fun h => ?_⟩
  all_goals (repeat' first
      | with_reducible assumption | with_reducible apply foldl_memWf | (intro t a ha) | split | simp)

theorem execWriteFpdmaQueued_memWf (ncq : Fin 32) (c : HostCmd) (s : State) :
    ∃ u1, execWriteFpdmaQueued ncq c s = .next u1 ∧ (Memory.wf s.mem = true → Memory.wf u1.mem = true) := by
  unfold execWriteFpdmaQueued
  (repeat' split) <;> refine ⟨_, rfl, fun h => ?_⟩
  all_goals (repeat' first
      | with_reducible assumption | with_reducible apply foldl_memWf | (intro t a ha) | split | simp)

theorem execHostConfigRead_memWf (g : Fin 2) (ofs : Nat) (s : State) :
    ∃ u1, execHostConfigRead g ofs s = .next u1 ∧ (Memory.wf s.mem = true → Memory.wf u1.mem = true) := by
  unfold execHostConfigRead
  (repeat' split) <;> refine ⟨_, rfl, fun h => ?_⟩
  all_goals (repeat' first
      | with_reducible assumption | with_reducible apply foldl_memWf | (intro t a ha) | split | simp)

theorem execHostBar0Read_memWf (g : Fin 2) (ofs dwords : Nat) (s : State) :
    ∃ u1, execHostBar0Read g ofs dwords s = .next u1 ∧ (Memory.wf s.mem = true → Memory.wf u1.mem = true) := by
  unfold execHostBar0Read
  (repeat' split) <;> refine ⟨_, rfl, fun h => ?_⟩
  all_goals (repeat' first
      | with_reducible assumption | with_reducible apply foldl_memWf | (intro t a ha) | split | simp)

theorem execHostConfigWrite_memWf (g : Fin 2) (ofs : Nat) (v : Word) (s : State) :
    ∃ u1, execHostConfigWrite g ofs v s = .next u1 ∧ (Memory.wf s.mem = true → Memory.wf u1.mem = true) := by
  unfold execHostConfigWrite
  (repeat' split) <;> refine ⟨_, rfl, fun h => ?_⟩
  all_goals (repeat' first
      | with_reducible assumption | with_reducible apply foldl_memWf | (intro t a ha) | split | simp)

theorem execHostBar0Write_memWf (g : Fin 2) (ofs : Nat) (v : Word) (s : State) :
    ∃ u1, execHostBar0Write g ofs v s = .next u1 ∧ (Memory.wf s.mem = true → Memory.wf u1.mem = true) := by
  unfold execHostBar0Write
  (repeat' split) <;> refine ⟨_, rfl, fun h => ?_⟩
  all_goals (repeat' first
      | with_reducible assumption | with_reducible apply foldl_memWf | (intro t a ha) | split | simp)

theorem execShadowStage_memWf (i : Initiator) (g : Fin 2) (v : Word) (s : State) :
    ∃ u1, execShadowStage i g v s = .next u1 ∧ (Memory.wf s.mem = true → Memory.wf u1.mem = true) := by
  unfold execShadowStage
  (repeat' split) <;> refine ⟨_, rfl, fun h => ?_⟩
  all_goals (repeat' first
      | with_reducible assumption | with_reducible apply foldl_memWf | (intro t a ha) | split | simp)

theorem execShadowRead_memWf (i : Initiator) (g : Fin 2) (s : State) :
    ∃ u1, execShadowRead i g s = .next u1 ∧ (Memory.wf s.mem = true → Memory.wf u1.mem = true) := by
  unfold execShadowRead
  (repeat' split) <;> refine ⟨_, rfl, fun h => ?_⟩
  all_goals (repeat' first
      | with_reducible assumption | with_reducible apply foldl_memWf | (intro t a ha) | split | simp)

theorem execShadowCommit_memWf (i : Initiator) (g : Fin 2) (s : State) :
    ∃ u1, execShadowCommit i g s = .next u1 ∧ (Memory.wf s.mem = true → Memory.wf u1.mem = true) := by
  unfold execShadowCommit
  (repeat' split) <;> refine ⟨_, rfl, fun h => ?_⟩
  all_goals (repeat' first
      | with_reducible assumption | with_reducible apply foldl_memWf | (intro t a ha) | split | simp)

theorem execShadowDiscard_memWf (i : Initiator) (g : Fin 2) (s : State) :
    ∃ u1, execShadowDiscard i g s = .next u1 ∧ (Memory.wf s.mem = true → Memory.wf u1.mem = true) := by
  unfold execShadowDiscard
  (repeat' split) <;> refine ⟨_, rfl, fun h => ?_⟩
  all_goals (repeat' first
      | with_reducible assumption | with_reducible apply foldl_memWf | (intro t a ha) | split | simp)

theorem execShadowCommitEffect_memWf (g : Fin 2) (s : State) :
    ∃ u1, execShadowCommitEffect g s = .next u1 ∧ (Memory.wf s.mem = true → Memory.wf u1.mem = true) := by
  unfold execShadowCommitEffect
  (repeat' split) <;> refine ⟨_, rfl, fun h => ?_⟩
  all_goals (repeat' first
      | with_reducible assumption | with_reducible apply foldl_memWf | (intro t a ha) | split | simp)

end Sys2Proof.Machine
end

