-- ==== Sys2Proof/Laws/FrameTouchOps.lean ====
section
/-!
SUPPORT. Sys2Proof/Laws/FrameTouchOps.lean: what each operation and meaning of Machine/TouchOps.lean leaves alone: the command queue, the
fuses, and memory, or its canonical form where the operation may write memory.
-/

namespace Sys2Proof.Machine

/-! ### What the operations leave alone -/

@[simp] theorem State.putSys_kept (s : State) (ssa metaB data : Nat) :
    (State.putSys s ssa metaB data).pending = s.pending ∧ (State.putSys s ssa metaB data).sys.fuses = s.sys.fuses ∧
        (State.putSys s ssa metaB data).mem = s.mem := by
  unfold State.putSys
  repeat' split
  all_goals simp

@[simp] theorem State.formatRun_kept (s : State) (str iova ssa : Nat) (x0 : Nat) (y0 : Nat) :
    (State.formatRun s str iova ssa x0 y0).2.pending = s.pending ∧ (State.formatRun s str iova ssa x0
        y0).2.sys.fuses = s.sys.fuses ∧ (State.formatRun s str iova ssa x0 y0).2.mem = s.mem := by
  induction y0 generalizing s str iova ssa x0
  all_goals simp only [State.formatRun]
  all_goals (repeat' split)
  all_goals simp_all

@[simp] theorem State.loadList_kept (s : State) (surf : Nat) (r : TouchRec) :
    (State.loadList s surf r).pending = s.pending ∧ (State.loadList s surf r).sys.fuses = s.sys.fuses ∧
        (State.loadList s surf r).mem = s.mem := by
  unfold State.loadList
  repeat' split
  all_goals simp

@[simp] theorem State.loadLists_kept (s : State) :
    (State.loadLists s).pending = s.pending ∧ (State.loadLists s).sys.fuses = s.sys.fuses ∧ (State.loadLists s).mem
        = s.mem := by
  unfold State.loadLists
  refine ⟨foldl_pending _ _ _ ?_, foldl_fuses _ _ _ ?_, foldl_mem _ _ _ ?_⟩
  all_goals
    intro t a
    split
  all_goals simp

@[simp] theorem State.writeCopy_kept (s : State) (n : Nat) :
    (State.writeCopy s n).pending = s.pending ∧ (State.writeCopy s n).sys.fuses = s.sys.fuses ∧ (State.writeCopy s
        n).mem = s.mem := by
  unfold State.writeCopy
  cases s.kenul with
  | none => exact ⟨rfl, rfl, rfl⟩
  | some k =>
    dsimp only
    generalize (layTracks (revData s.targetRpm) ((s.touchRec n k).frames s.way.rseq) 15 (List.replicate 8192
        false)).map (toCells false) = ts
    generalize (List.range ts.length).zip ts = l
    refine ⟨(foldl_pending _ _ _ ?_).trans rfl, (foldl_fuses _ _ _ ?_).trans rfl, (foldl_mem _ _ _ ?_).trans rfl⟩
    all_goals
      intro t a
      simp

@[simp] theorem State.touchBegin_kept (s : State) :
    (State.touchBegin s).pending = s.pending ∧ (State.touchBegin s).sys.fuses = s.sys.fuses ∧ (State.touchBegin
        s).mem = s.mem := by simp [State.touchBegin]

@[simp] theorem State.queueCopy_kept (s : State) (n : Nat) :
    (State.queueCopy s n).pending = s.pending ∧ (State.queueCopy s n).sys.fuses = s.sys.fuses ∧ (State.queueCopy s
        n).mem = s.mem := by simp [State.queueCopy]

@[simp] theorem State.dropCopies_kept (s : State) (keep : Nat → Bool) :
    (State.dropCopies s keep).pending = s.pending ∧ (State.dropCopies s keep).sys.fuses = s.sys.fuses ∧
        (State.dropCopies s keep).mem = s.mem := by simp [State.dropCopies]

@[simp] theorem State.touchDone_kept (s : State) (n : Nat) :
    (State.touchDone s n).pending = s.pending ∧ (State.touchDone s n).sys.fuses = s.sys.fuses ∧ (State.touchDone s
        n).mem = s.mem := by simp [State.touchDone]

end Sys2Proof.Machine
end

