-- ==== Sys2Proof/Laws/FrameCkptOps.lean ====
section
/-!
SUPPORT. Sys2Proof/Laws/FrameCkptOps.lean: what each operation and meaning of Machine/CkptOps.lean leaves alone: the command queue, the
fuses, and memory, or its canonical form where the operation may write memory.
-/

namespace Sys2Proof.Machine

/-! ### What the operations leave alone -/

@[simp] theorem State.writePages_kept (s : State) (b : Nat) (x0 : List Nat) :
    (State.writePages s b x0).pending = s.pending ∧ (State.writePages s b x0).sys.fuses = s.sys.fuses ∧
        (State.writePages s b x0).mem = s.mem := by
  induction x0 generalizing s <;> simp_all [State.writePages]

@[simp] theorem State.startCkpt_kept (s : State) :
    (State.startCkpt s).pending = s.pending ∧ (State.startCkpt s).sys.fuses = s.sys.fuses ∧ (State.startCkpt s).mem
        = s.mem := by
  simp only [State.startCkpt]
  repeat' split
  all_goals simp_all

@[simp] theorem State.retryCkpt_kept (s : State) :
    (State.retryCkpt s).pending = s.pending ∧ (State.retryCkpt s).sys.fuses = s.sys.fuses ∧ (State.retryCkpt s).mem
        = s.mem := by simp [State.retryCkpt]

@[simp] theorem State.moveCkpt_kept (s : State) (b1 b2 : Nat) :
    (State.moveCkpt s b1 b2).pending = s.pending ∧ (State.moveCkpt s b1 b2).sys.fuses = s.sys.fuses ∧
        (State.moveCkpt s b1 b2).mem = s.mem := by simp [State.moveCkpt]

@[simp] theorem State.completeCkpt_kept (s : State) :
    (State.completeCkpt s).pending = s.pending ∧ (State.completeCkpt s).sys.fuses = s.sys.fuses ∧
        (State.completeCkpt s).mem = s.mem := by
  simp only [State.completeCkpt]
  repeat' split
  all_goals simp_all

@[simp] theorem State.abandonCkpt_kept (s : State) :
    (State.abandonCkpt s).pending = s.pending ∧ (State.abandonCkpt s).sys.fuses = s.sys.fuses ∧ (State.abandonCkpt
        s).mem = s.mem := by
  unfold State.abandonCkpt
  repeat' split
  all_goals simp

@[simp] theorem State.loadConfig_kept (s : State) (c : Ckpt) :
    (State.loadConfig s c).pending = s.pending ∧ (State.loadConfig s c).sys.fuses = s.sys.fuses ∧ (State.loadConfig
        s c).mem = s.mem := by simp [State.loadConfig]

@[simp] theorem State.loadTables_kept (s : State) (c : Ckpt) :
    (State.loadTables s c).pending = s.pending ∧ (State.loadTables s c).sys.fuses = s.sys.fuses ∧ (State.loadTables
        s c).mem = s.mem := by simp [State.loadTables]

@[simp] theorem State.replaySector_kept (s : State) (q : Nat × Sector) :
    (State.replaySector s q).pending = s.pending ∧ (State.replaySector s q).sys.fuses = s.sys.fuses ∧
        (State.replaySector s q).mem = s.mem := by simp [State.replaySector]

@[simp] theorem State.regroup_kept (s : State) :
    (State.regroup s).pending = s.pending ∧ (State.regroup s).sys.fuses = s.sys.fuses ∧ (State.regroup s).mem =
        s.mem := by simp [State.regroup]

@[simp] theorem State.replay_kept (s : State) :
    (State.replay s).pending = s.pending ∧ (State.replay s).sys.fuses = s.sys.fuses ∧ (State.replay s).mem = s.mem
        := by simp [State.replay]

end Sys2Proof.Machine
end

