-- ==== Sys2Proof/Laws/FrameCswOps.lean ====
section
/-!
SUPPORT. Sys2Proof/Laws/FrameCswOps.lean: what each operation and meaning of Machine/CswOps.lean leaves alone: the command queue, the
fuses, and memory, or its canonical form where the operation may write memory.
-/

namespace Sys2Proof.Machine

/-! ### What the operations leave alone -/

@[simp] theorem State.setCswSt_kept (s : State) (n : Nat) :
    (State.setCswSt s n).pending = s.pending ∧ (State.setCswSt s n).sys.fuses = s.sys.fuses ∧ (State.setCswSt s
        n).mem = s.mem := by simp [State.setCswSt]

@[simp] theorem State.setResume_kept (s : State) (b : Nat) (v : Bool) :
    (State.setResume s b v).pending = s.pending ∧ (State.setResume s b v).sys.fuses = s.sys.fuses ∧ (State.setResume
        s b v).mem = s.mem := by simp [State.setResume]

@[simp] theorem State.cswEmit_kept (s : State) (typ seq : Nat) (data : List (Nat × Nat)) :
    (State.cswEmit s typ seq data).pending = s.pending ∧ (State.cswEmit s typ seq data).sys.fuses = s.sys.fuses ∧
        (State.cswEmit s typ seq data).mem = s.mem := by simp [State.cswEmit]

@[simp] theorem State.cswPump_kept (s : State) (x0 : Nat) :
    (State.cswPump s x0).pending = s.pending ∧ (State.cswPump s x0).sys.fuses = s.sys.fuses ∧ (State.cswPump s
        x0).mem = s.mem := by
  induction x0 generalizing s
  all_goals simp only [State.cswPump]
  all_goals (repeat' split)
  all_goals simp_all

@[simp] theorem State.cswSend_kept (s : State) (typ : Nat) (data : List (Nat × Nat)) :
    (State.cswSend s typ data).pending = s.pending ∧ (State.cswSend s typ data).sys.fuses = s.sys.fuses ∧
        (State.cswSend s typ data).mem = s.mem := by simp [State.cswSend]

@[simp] theorem State.cswAcked_kept (s : State) (next : Nat) :
    (State.cswAcked s next).pending = s.pending ∧ (State.cswAcked s next).sys.fuses = s.sys.fuses ∧ (State.cswAcked
        s next).mem = s.mem := by simp [State.cswAcked]

@[simp] theorem State.cswResend_kept (s : State) :
    (State.cswResend s).pending = s.pending ∧ (State.cswResend s).sys.fuses = s.sys.fuses ∧ (State.cswResend s).mem
        = s.mem := by simp [State.cswResend]

@[simp] theorem State.cswRx_pending (s : State) (len frame typ : Nat) (f : State → State)
    (h : ∀ t, (f t).pending = t.pending) : (s.cswRx len frame typ f).pending = s.pending := by
  unfold State.cswRx
  repeat' split
  all_goals simp [h]

@[simp] theorem State.cswRx_fuses (s : State) (len frame typ : Nat) (f : State → State)
    (h : ∀ t, (f t).sys.fuses = t.sys.fuses) : (s.cswRx len frame typ f).sys.fuses = s.sys.fuses := by
  unfold State.cswRx
  repeat' split
  all_goals simp [h]

@[simp] theorem State.cswRx_mem (s : State) (len frame typ : Nat) (f : State → State)
    (h : ∀ t, (f t).mem = t.mem) : (s.cswRx len frame typ f).mem = s.mem := by
  unfold State.cswRx
  repeat' split
  all_goals simp [h]


@[simp] theorem State.cswSeq_kept (s : State) (seq : Nat) :
    (State.cswSeq s seq).2.pending = s.pending ∧ (State.cswSeq s seq).2.sys.fuses = s.sys.fuses ∧ (State.cswSeq s
        seq).2.mem = s.mem := by simp [State.cswSeq]

@[simp] theorem State.cswFrame_pending (s : State) (len frame typ : Nat) (f : State → State)
    (h : ∀ t, (f t).pending = t.pending) : (s.cswFrame len frame typ f).pending = s.pending := by
  unfold State.cswFrame
  apply State.cswRx_pending
  intro t
  try dsimp only
  repeat' split
  all_goals simp [h]

@[simp] theorem State.cswFrame_fuses (s : State) (len frame typ : Nat) (f : State → State)
    (h : ∀ t, (f t).sys.fuses = t.sys.fuses) : (s.cswFrame len frame typ f).sys.fuses = s.sys.fuses := by
  unfold State.cswFrame
  apply State.cswRx_fuses
  intro t
  try dsimp only
  repeat' split
  all_goals simp [h]

@[simp] theorem State.cswFrame_mem (s : State) (len frame typ : Nat) (f : State → State)
    (h : ∀ t, (f t).mem = t.mem) : (s.cswFrame len frame typ f).mem = s.mem := by
  unfold State.cswFrame
  apply State.cswRx_mem
  intro t
  try dsimp only
  repeat' split
  all_goals simp [h]


@[simp] theorem State.cswInflight_kept (s : State) :
    (State.cswInflight s).pending = s.pending ∧ (State.cswInflight s).sys.fuses = s.sys.fuses ∧ (State.cswInflight
        s).mem = s.mem := by simp [State.cswInflight]

@[simp] theorem State.cswEnded_kept (s : State) (st err : Nat) :
    (State.cswEnded s st err).pending = s.pending ∧ (State.cswEnded s st err).sys.fuses = s.sys.fuses ∧
        (State.cswEnded s st err).mem = s.mem := by
  unfold State.cswEnded
  dsimp only
  split
  · refine ⟨?_, ?_, ?_⟩
    · rw [(State.modeDone_kept _ _).1]; simp
    · rw [(State.modeDone_kept _ _).2.1]; simp
    · rw [(State.modeDone_kept _ _).2.2]; simp
  · simp

@[simp] theorem State.cswStop_kept (s : State) (err : Nat) :
    (State.cswStop s err).pending = s.pending ∧ (State.cswStop s err).sys.fuses = s.sys.fuses ∧ (State.cswStop s
        err).mem = s.mem := by simp [State.cswStop]

@[simp] theorem State.cswStopTell_kept (s : State) (err : Nat) :
    (State.cswStopTell s err).pending = s.pending ∧ (State.cswStopTell s err).sys.fuses = s.sys.fuses ∧
        (State.cswStopTell s err).mem = s.mem := by simp [State.cswStopTell]

@[simp] theorem State.cswLinkDown_kept (s : State) :
    (State.cswLinkDown s).pending = s.pending ∧ (State.cswLinkDown s).sys.fuses = s.sys.fuses ∧ (State.cswLinkDown
        s).mem = s.mem := by simp [State.cswLinkDown]

@[simp] theorem State.cswPeerLost_kept (s : State) :
    (State.cswPeerLost s).pending = s.pending ∧ (State.cswPeerLost s).sys.fuses = s.sys.fuses ∧ (State.cswPeerLost
        s).mem = s.mem := by simp [State.cswPeerLost]

@[simp] theorem State.cswFinish_kept (s : State) (k : Key) :
    (State.cswFinish s k).pending = s.pending ∧ (State.cswFinish s k).sys.fuses = s.sys.fuses ∧ (State.cswFinish s
        k).mem = s.mem := by
  simp only [State.cswFinish]
  repeat' split
  all_goals simp_all

@[simp] theorem State.cswCtx_kept (s : State) (k : Key) :
    (State.cswCtx s k).2.pending = s.pending ∧ (State.cswCtx s k).2.sys.fuses = s.sys.fuses ∧ (State.cswCtx s
        k).2.mem = s.mem := by simp [State.cswCtx]

@[simp] theorem State.cswBegin_kept (s : State) (x : CswItem) :
    (State.cswBegin s x).pending = s.pending ∧ (State.cswBegin s x).sys.fuses = s.sys.fuses ∧ (State.cswBegin s
        x).mem = s.mem := by simp [State.cswBegin]

@[simp] theorem State.cswTenant_kept (s : State) (t : Nat) :
    (State.cswTenant s t).pending = s.pending ∧ (State.cswTenant s t).sys.fuses = s.sys.fuses ∧ (State.cswTenant s
        t).mem = s.mem := by simp [State.cswTenant]

@[simp] theorem State.cswItemEnd_kept (s : State) :
    (State.cswItemEnd s).pending = s.pending ∧ (State.cswItemEnd s).sys.fuses = s.sys.fuses ∧ (State.cswItemEnd
        s).mem = s.mem := by
  unfold State.cswItemEnd
  repeat' split
  all_goals simp

@[simp] theorem State.cswHistory_kept (s : State) (total v : Nat) (x0 : Nat) (y0 : Nat) :
    (State.cswHistory s total v x0 y0).pending = s.pending ∧ (State.cswHistory s total v x0 y0).sys.fuses =
        s.sys.fuses ∧ (State.cswHistory s total v x0 y0).mem = s.mem := by
  induction x0 generalizing s total v y0 <;> simp_all [State.cswHistory]

@[simp] theorem State.cswHistoryEnd_kept (s : State) :
    (State.cswHistoryEnd s).pending = s.pending ∧ (State.cswHistoryEnd s).sys.fuses = s.sys.fuses ∧
        (State.cswHistoryEnd s).mem = s.mem := by simp [State.cswHistoryEnd]

@[simp] theorem State.cswNext_kept (s : State) (x0 : Nat) :
    (State.cswNext s x0).pending = s.pending ∧ (State.cswNext s x0).sys.fuses = s.sys.fuses ∧ (State.cswNext s
        x0).mem = s.mem := by
  induction x0 generalizing s
  all_goals simp only [State.cswNext]
  all_goals (repeat' split)
  all_goals simp_all

@[simp] theorem State.cswGo_kept (s : State) :
    (State.cswGo s).pending = s.pending ∧ (State.cswGo s).sys.fuses = s.sys.fuses ∧ (State.cswGo s).mem = s.mem :=
        by simp [State.cswGo]

@[simp] theorem State.cswPlan_kept (s : State) :
    (State.cswPlan s).pending = s.pending ∧ (State.cswPlan s).sys.fuses = s.sys.fuses ∧ (State.cswPlan s).mem =
        s.mem := by simp [State.cswPlan]

@[simp] theorem State.cswAbort_kept (s : State) (x : CswItem) :
    (State.cswAbort s x).pending = s.pending ∧ (State.cswAbort s x).sys.fuses = s.sys.fuses ∧ (State.cswAbort s
        x).mem = s.mem := by simp [State.cswAbort]

@[simp] theorem State.exportGranule_kept (s : State) (lost : Bool) :
    (State.exportGranule s lost).pending = s.pending ∧ (State.exportGranule s lost).sys.fuses = s.sys.fuses ∧
        (State.exportGranule s lost).mem = s.mem := by
  unfold State.exportGranule
  repeat' split
  all_goals simp

@[simp] theorem State.cswVerified_kept (s : State) (k : Key) (result : Nat) :
    (State.cswVerified s k result).pending = s.pending ∧ (State.cswVerified s k result).sys.fuses = s.sys.fuses ∧
        (State.cswVerified s k result).mem = s.mem := by
  unfold State.cswVerified
  repeat' split
  all_goals simp

@[simp] theorem State.cswPlanIn_kept (s : State) (id mask : Nat) :
    (State.cswPlanIn s id mask).pending = s.pending ∧ (State.cswPlanIn s id mask).sys.fuses = s.sys.fuses ∧
        (State.cswPlanIn s id mask).mem = s.mem := by simp [State.cswPlanIn]

@[simp] theorem State.cswPlanAck_kept (s : State) (result : Nat) (valid : Bool) (key : Nat) :
    (State.cswPlanAck s result valid key).pending = s.pending ∧ (State.cswPlanAck s result valid key).sys.fuses =
        s.sys.fuses ∧ (State.cswPlanAck s result valid key).mem = s.mem := by simp [State.cswPlanAck]

@[simp] theorem State.cswTenantIn_kept (s : State) (t view cls allow : Nat) :
    (State.cswTenantIn s t view cls allow).pending = s.pending ∧ (State.cswTenantIn s t view cls allow).sys.fuses =
        s.sys.fuses ∧ (State.cswTenantIn s t view cls allow).mem = s.mem := by simp [State.cswTenantIn]

@[simp] theorem State.cswRemove_kept (s : State) (k : Key) :
    (State.cswRemove s k).pending = s.pending ∧ (State.cswRemove s k).sys.fuses = s.sys.fuses ∧ (State.cswRemove s
        k).mem = s.mem := by simp [State.cswRemove]

@[simp] theorem State.setRx_kept (s : State) (x : CswItem) :
    (State.setRx s x).pending = s.pending ∧ (State.setRx s x).sys.fuses = s.sys.fuses ∧ (State.setRx s x).mem =
        s.mem := by simp [State.setRx]

@[simp] theorem State.dropRx_kept (s : State) (k : Key) :
    (State.dropRx s k).pending = s.pending ∧ (State.dropRx s k).sys.fuses = s.sys.fuses ∧ (State.dropRx s k).mem =
        s.mem := by
  unfold State.dropRx
  repeat' split
  all_goals simp

@[simp] theorem State.cswTell_kept (s : State) (k : Key) (result : Nat) :
    (State.cswTell s k result).pending = s.pending ∧ (State.cswTell s k result).sys.fuses = s.sys.fuses ∧
        (State.cswTell s k result).mem = s.mem := by simp [State.cswTell]

@[simp] theorem State.cswFail_kept (s : State) (k : Key) (result : Nat) :
    (State.cswFail s k result).pending = s.pending ∧ (State.cswFail s k result).sys.fuses = s.sys.fuses ∧
        (State.cswFail s k result).mem = s.mem := by simp [State.cswFail]

@[simp] theorem State.cswBeginIn_kept (s : State) (x : CswItem) :
    (State.cswBeginIn s x).pending = s.pending ∧ (State.cswBeginIn s x).sys.fuses = s.sys.fuses ∧ (State.cswBeginIn
        s x).mem = s.mem := by simp [State.cswBeginIn]

theorem State.cswPlace_kept {s t : State} {x : CswItem} {o d : Nat} (h : s.cswPlace x o d = some t) :
    t.pending = s.pending ∧ t.sys.fuses = s.sys.fuses ∧ t.mem = s.mem := by
  unfold State.cswPlace at h
  split at h
  · simp at h
  · split at h
    · simp at h
    · rename_i p t' ht
      have k := State.place_kept ht
      dsimp only at h
      simp only [Option.some.injEq] at h
      subst h
      simp [k]


@[simp] theorem State.cswDataIn_kept (s : State) (x0 : List (Nat × Nat)) :
    (State.cswDataIn s x0).pending = s.pending ∧ (State.cswDataIn s x0).sys.fuses = s.sys.fuses ∧ (State.cswDataIn s
        x0).mem = s.mem := by
  induction x0 generalizing s with
  | nil => simp [State.cswDataIn]
  | cons q rest ih =>
    obtain ⟨o, d⟩ := q
    simp only [State.cswDataIn]
    split
    · simp
    · split
      · simp
      · rename_i t ht
        have k := State.cswPlace_kept ht
        simp [ih, k]

@[simp] theorem State.cswEndIn_kept (s : State) (k : Key) (n digest : Nat) :
    (State.cswEndIn s k n digest).pending = s.pending ∧ (State.cswEndIn s k n digest).sys.fuses = s.sys.fuses ∧
        (State.cswEndIn s k n digest).mem = s.mem := by
  unfold State.cswEndIn
  repeat' split
  all_goals simp

@[simp] theorem State.cswAbortIn_kept (s : State) (k : Key) :
    (State.cswAbortIn s k).pending = s.pending ∧ (State.cswAbortIn s k).sys.fuses = s.sys.fuses ∧ (State.cswAbortIn
        s k).mem = s.mem := by simp [State.cswAbortIn]

@[simp] theorem State.cswReadBack_kept (s : State) (k : Key) (lost : Bool) :
    (State.cswReadBack s k lost).pending = s.pending ∧ (State.cswReadBack s k lost).sys.fuses = s.sys.fuses ∧
        (State.cswReadBack s k lost).mem = s.mem := by
  unfold State.cswReadBack
  repeat' split
  all_goals simp

@[simp] theorem State.cswHandover_kept (s : State) (len v : Nat) :
    (State.cswHandover s len v).pending = s.pending ∧ (State.cswHandover s len v).sys.fuses = s.sys.fuses := by simp
        [State.cswHandover]

@[simp] theorem State.cswHistoryIn_kept (s : State) (ofs total len v : Nat) :
    (State.cswHistoryIn s ofs total len v).pending = s.pending ∧ (State.cswHistoryIn s ofs total len v).sys.fuses =
        s.sys.fuses := by simp [State.cswHistoryIn]

@[simp] theorem State.cswDrain_kept (s : State) :
    (State.cswDrain s).pending = s.pending ∧ (State.cswDrain s).sys.fuses = s.sys.fuses ∧ (State.cswDrain s).mem =
        s.mem := by simp [State.cswDrain]

@[simp] theorem State.writeCswCtl_kept (s : State) (i : Initiator) (v : Word) :
    (State.writeCswCtl s i v).pending = s.pending ∧ (State.writeCswCtl s i v).sys.fuses = s.sys.fuses ∧
        (State.writeCswCtl s i v).mem = s.mem := by simp [State.writeCswCtl]

@[simp] theorem State.writeCswRest_kept (s : State) (i : Initiator) (off : Nat) (v : Word) :
    (State.writeCswRest s i off v).pending = s.pending ∧ (State.writeCswRest s i off v).sys.fuses = s.sys.fuses ∧
        (State.writeCswRest s i off v).mem = s.mem := by simp [State.writeCswRest]

/-! ### Memory stays canonical -/

theorem State.cswRx_memWf (s : State) (len frame typ : Nat) (f : State → State) (h : Memory.wf s.mem = true)
    (hf : ∀ t, Memory.wf t.mem = true → Memory.wf (f t).mem = true) : Memory.wf (s.cswRx len frame typ f).mem = true
        := by
  unfold State.cswRx
  repeat' split
  · exact h
  · simpa using h
  · exact hf s h
  · exact h


theorem State.cswFrame_memWf (s : State) (len frame typ : Nat) (f : State → State) (h : Memory.wf s.mem = true)
    (hf : ∀ t, Memory.wf t.mem = true → Memory.wf (f t).mem = true) : Memory.wf (s.cswFrame len frame typ f).mem =
        true := by
  unfold State.cswFrame
  refine State.cswRx_memWf _ _ _ _ _ h ?_
  intro t ht
  dsimp only
  split
  · refine hf _ ?_
    simpa using ht
  · simpa using ht


theorem State.cswHandover_memWf (s : State) (len v : Nat) (h : Memory.wf s.mem = true) :
    Memory.wf (State.cswHandover s len v).mem = true := by
  unfold State.cswHandover
  repeat' first
      | with_reducible assumption | with_reducible apply State.physWrite_memWf | with_reducible apply foldl_memWf
      | (intro t a ha) | split | simp

theorem State.cswHistoryIn_memWf (s : State) (ofs total len v : Nat) (h : Memory.wf s.mem = true) :
    Memory.wf (State.cswHistoryIn s ofs total len v).mem = true := by
  unfold State.cswHistoryIn
  repeat' first
      | with_reducible assumption | with_reducible apply State.cswHandover_memWf | with_reducible apply foldl_memWf
      | (intro t a ha) | split | simp

end Sys2Proof.Machine
end

