-- ==== Sys2Proof/Laws/FrameModes.lean ====
section
/-!
SUPPORT. Sys2Proof/Laws/FrameModes.lean: what each operation and meaning of Machine/Modes.lean leaves alone: the command queue, the
fuses, and memory, or its canonical form where the operation may write memory.
-/

namespace Sys2Proof.Machine

/-! ### What the operations leave alone -/

@[simp] theorem State.sasAddresses_kept (s : State) :
    (State.sasAddresses s).pending = s.pending ∧ (State.sasAddresses s).sys.fuses = s.sys.fuses ∧
        (State.sasAddresses s).mem = s.mem := by simp [State.sasAddresses]

@[simp] theorem State.deviceReset_kept (s : State) (c : RstCause) :
    (State.deviceReset s c).pending = s.pending ∧ (State.deviceReset s c).sys.fuses = s.sys.fuses := by
  simp [State.deviceReset, State.sasAddresses]

@[simp] theorem State.discardWrite_kept (s : State) (k : Nat) :
    (State.discardWrite s k).pending = s.pending ∧ (State.discardWrite s k).sys.fuses = s.sys.fuses ∧
        (State.discardWrite s k).mem = s.mem := by simp [State.discardWrite]

@[simp] theorem State.dropOrphans_kept (s : State) :
    (State.dropOrphans s).pending = s.pending ∧ (State.dropOrphans s).sys.fuses = s.sys.fuses ∧ (State.dropOrphans
        s).mem = s.mem := by simp [State.dropOrphans]

@[simp] theorem State.markTransition_kept (s : State) :
    (State.markTransition s).pending = s.pending ∧ (State.markTransition s).sys.fuses = s.sys.fuses ∧
        (State.markTransition s).mem = s.mem := by simp [State.markTransition]

@[simp] theorem State.dropGates_kept (s : State) :
    (State.dropGates s).pending = s.pending ∧ (State.dropGates s).sys.fuses = s.sys.fuses ∧ (State.dropGates s).mem
        = s.mem := by simp [State.dropGates]

@[simp] theorem State.stopAdmission_kept (s : State) :
    (State.stopAdmission s).pending = s.pending ∧ (State.stopAdmission s).sys.fuses = s.sys.fuses := by simp
        [State.stopAdmission]

@[simp] theorem State.vaultStep_kept (s : State) :
    (State.vaultStep s).pending = s.pending ∧ (State.vaultStep s).sys.fuses = s.sys.fuses ∧ (State.vaultStep s).mem
        = s.mem := by simp [State.vaultStep]

@[simp] theorem State.havenAt_kept (s : State) (n : Nat) :
    (State.havenAt s n).pending = s.pending ∧ (State.havenAt s n).sys.fuses = s.sys.fuses ∧ (State.havenAt s n).mem
        = s.mem := by simp [State.havenAt]

@[simp] theorem State.haven3_kept (s : State) :
    (State.haven3 s).pending = s.pending ∧ (State.haven3 s).sys.fuses = s.sys.fuses ∧ (State.haven3 s).mem = s.mem
        := by simp [State.haven3]

@[simp] theorem State.haven4_kept (s : State) :
    (State.haven4 s).pending = s.pending ∧ (State.haven4 s).sys.fuses = s.sys.fuses := by simp [State.haven4]

@[simp] theorem State.haven5_kept (s : State) :
    (State.haven5 s).pending = s.pending ∧ (State.haven5 s).sys.fuses = s.sys.fuses ∧ (State.haven5 s).mem = s.mem
        := by simp [State.haven5]

@[simp] theorem State.advanceHaven_kept (s : State) :
    (State.advanceHaven s).pending = s.pending ∧ (State.advanceHaven s).sys.fuses = s.sys.fuses := by simp
        [State.advanceHaven]

@[simp] theorem State.requestHaven_kept (s : State) (cause : Nat) :
    (State.requestHaven s cause).pending = s.pending ∧ (State.requestHaven s cause).sys.fuses = s.sys.fuses := by
        simp [State.requestHaven]

@[simp] theorem State.settled_kept (s : State) :
    (State.settled s).pending = s.pending ∧ (State.settled s).sys.fuses = s.sys.fuses ∧ (State.settled s).mem =
        s.mem := by simp [State.settled]

@[simp] theorem State.charged_kept (s : State) :
    (State.charged s).pending = s.pending ∧ (State.charged s).sys.fuses = s.sys.fuses ∧ (State.charged s).mem =
        s.mem := by simp [State.charged]

@[simp] theorem State.settleHaven_kept (s : State) :
    (State.settleHaven s).pending = s.pending ∧ (State.settleHaven s).sys.fuses = s.sys.fuses := by
  simp only [State.settleHaven]
  repeat' split
  all_goals simp_all

@[simp] theorem State.flushFirst_kept (s : State) (c : RstCause) :
    (State.flushFirst s c).pending = s.pending ∧ (State.flushFirst s c).sys.fuses = s.sys.fuses := by simp
        [State.flushFirst]

@[simp] theorem State.powerOn_kept (s : State) (bootcfg sbAddr : Nat) (rstLow : Bool) :
    (State.powerOn s bootcfg sbAddr rstLow).pending = s.pending ∧ (State.powerOn s bootcfg sbAddr rstLow).sys.fuses
        = s.sys.fuses := by simp [State.powerOn]

@[simp] theorem State.writeDevRst_kept (s : State) (i : Initiator) (v : Word) :
    (State.writeDevRst s i v).pending = s.pending ∧ (State.writeDevRst s i v).sys.fuses = s.sys.fuses := by simp
        [State.writeDevRst]

@[simp] theorem State.refuseMode_kept (s : State) (reason : Nat) :
    (State.refuseMode s reason).pending = s.pending ∧ (State.refuseMode s reason).sys.fuses = s.sys.fuses ∧
        (State.refuseMode s reason).mem = s.mem := by simp [State.refuseMode]

@[simp] theorem State.acceptMode_kept (s : State) :
    (State.acceptMode s).pending = s.pending ∧ (State.acceptMode s).sys.fuses = s.sys.fuses ∧ (State.acceptMode
        s).mem = s.mem := by simp [State.acceptMode]

@[simp] theorem State.beginMode_kept (s : State) (m : Nat) (tr : Trans) :
    (State.beginMode s m tr).pending = s.pending ∧ (State.beginMode s m tr).sys.fuses = s.sys.fuses ∧
        (State.beginMode s m tr).mem = s.mem := by simp [State.beginMode]

@[simp] theorem State.askMode_pending (s : State) (i : Initiator) (p : Priv) (m : Nat) (f : State → State)
    (h : ∀ t, (f t).pending = t.pending) : (s.askMode i p m f).pending = s.pending := by
  unfold State.askMode
  repeat' split
  all_goals simp_all

@[simp] theorem State.askMode_fuses (s : State) (i : Initiator) (p : Priv) (m : Nat) (f : State → State)
    (h : ∀ t, (f t).sys.fuses = t.sys.fuses) : (s.askMode i p m f).sys.fuses = s.sys.fuses := by
  unfold State.askMode
  repeat' split
  all_goals simp_all

@[simp] theorem State.askMode_mem (s : State) (i : Initiator) (p : Priv) (m : Nat) (f : State → State)
    (h : ∀ t, (f t).mem = t.mem) : (s.askMode i p m f).mem = s.mem := by
  unfold State.askMode
  repeat' split
  all_goals simp_all


@[simp] theorem State.loadAll_kept (s : State) :
    (State.loadAll s).pending = s.pending ∧ (State.loadAll s).sys.fuses = s.sys.fuses ∧ (State.loadAll s).mem =
        s.mem := by simp [State.loadAll]

@[simp] theorem State.modeSpin_kept (s : State) :
    (State.modeSpin s).pending = s.pending ∧ (State.modeSpin s).sys.fuses = s.sys.fuses := by simp [State.modeSpin]

@[simp] theorem State.askHaven_kept (s : State) (i : Initiator) (p : Priv) :
    (State.askHaven s i p).pending = s.pending ∧ (State.askHaven s i p).sys.fuses = s.sys.fuses := by simp
        [State.askHaven]

@[simp] theorem State.askService_kept (s : State) (i : Initiator) (p : Priv) :
    (State.askService s i p).pending = s.pending ∧ (State.askService s i p).sys.fuses = s.sys.fuses := by simp
        [State.askService]

@[simp] theorem State.askSurvey_kept (s : State) (i : Initiator) (p : Priv) :
    (State.askSurvey s i p).pending = s.pending ∧ (State.askSurvey s i p).sys.fuses = s.sys.fuses ∧ (State.askSurvey
        s i p).mem = s.mem := by simp [State.askSurvey]

@[simp] theorem State.askMigration_kept (s : State) (i : Initiator) (p : Priv) :
    (State.askMigration s i p).pending = s.pending ∧ (State.askMigration s i p).sys.fuses = s.sys.fuses ∧
        (State.askMigration s i p).mem = s.mem := by simp [State.askMigration]

@[simp] theorem State.beginDormant_kept (s : State) (n : Nat) :
    (State.beginDormant s n).pending = s.pending ∧ (State.beginDormant s n).sys.fuses = s.sys.fuses ∧
        (State.beginDormant s n).mem = s.mem := by simp [State.beginDormant]

@[simp] theorem State.askDormant_kept (s : State) (i : Initiator) (p : Priv) :
    (State.askDormant s i p).pending = s.pending ∧ (State.askDormant s i p).sys.fuses = s.sys.fuses ∧
        (State.askDormant s i p).mem = s.mem := by simp [State.askDormant]

@[simp] theorem State.askBedding_kept (s : State) (i : Initiator) (p : Priv) :
    (State.askBedding s i p).pending = s.pending ∧ (State.askBedding s i p).sys.fuses = s.sys.fuses ∧
        (State.askBedding s i p).mem = s.mem := by simp [State.askBedding]

@[simp] theorem State.writeModeReq_kept (s : State) (i : Initiator) (p : Priv) (v : Word) :
    (State.writeModeReq s i p v).pending = s.pending ∧ (State.writeModeReq s i p v).sys.fuses = s.sys.fuses := by
  unfold State.writeModeReq
  repeat' split
  all_goals simp

@[simp] theorem State.dormantAt_kept (s : State) (n : Nat) :
    (State.dormantAt s n).pending = s.pending ∧ (State.dormantAt s n).sys.fuses = s.sys.fuses ∧ (State.dormantAt s
        n).mem = s.mem := by simp [State.dormantAt]

@[simp] theorem State.dormantDone_kept (s : State) :
    (State.dormantDone s).pending = s.pending ∧ (State.dormantDone s).sys.fuses = s.sys.fuses ∧ (State.dormantDone
        s).mem = s.mem := by simp [State.dormantDone]

@[simp] theorem State.writeHeld_kept (s : State) (l : List (Nat × Ctx)) :
    (State.writeHeld s l).pending = s.pending ∧ (State.writeHeld s l).sys.fuses = s.sys.fuses ∧ (State.writeHeld s
        l).mem = s.mem := by simp [State.writeHeld]

/-! ### What the meanings leave alone -/

theorem execHavenSettled_kept (s : State) :
    ∃ u1, execHavenSettled s = .next u1 ∧ u1.pending = s.pending ∧ u1.sys.fuses = s.sys.fuses := by
  unfold execHavenSettled
  exact ⟨_, rfl, by simp, by simp⟩

theorem execPowerOnReset_kept (bootcfg sbAddr : Fin 4) (rstLow : Bool) (s : State) :
    ∃ u1, execPowerOnReset bootcfg sbAddr rstLow s = .next u1 ∧ u1.pending = s.pending ∧ u1.sys.fuses = s.sys.fuses
        := by
  unfold execPowerOnReset
  (repeat' split) <;> exact ⟨_, rfl, by simp, by simp⟩

theorem execRstNRelease_kept (bootcfg sbAddr : Fin 4) (s : State) :
    ∃ u1, execRstNRelease bootcfg sbAddr s = .next u1 ∧ u1.pending = s.pending ∧ u1.sys.fuses = s.sys.fuses := by
  unfold execRstNRelease
  (repeat' split) <;> exact ⟨_, rfl, by simp, by simp⟩

theorem execPinReset_kept (lowNs : Nat) (s : State) :
    ∃ u1, execPinReset lowNs s = .next u1 ∧ u1.pending = s.pending ∧ u1.sys.fuses = s.sys.fuses := by
  unfold execPinReset
  (repeat' split) <;> exact ⟨_, rfl, by simp, by simp⟩

theorem execKeyDeviceReset_kept (i : Initiator) (v : Word) (s : State) :
    ∃ u1, execKeyDeviceReset i v s = .next u1 ∧ u1.pending = s.pending ∧ u1.sys.fuses = s.sys.fuses := by
  unfold execKeyDeviceReset
  exact ⟨_, rfl, by simp, by simp⟩

theorem execKeystoneWatchdogExpiry_kept (s : State) :
    ∃ u1, execKeystoneWatchdogExpiry s = .next u1 ∧ u1.pending = s.pending ∧ u1.sys.fuses = s.sys.fuses := by
  unfold execKeystoneWatchdogExpiry
  (repeat' split) <;> exact ⟨_, rfl, by simp, by simp⟩

theorem execResetDeferExpiry_kept (s : State) :
    ∃ u1, execResetDeferExpiry s = .next u1 ∧ u1.pending = s.pending ∧ u1.sys.fuses = s.sys.fuses := by
  unfold execResetDeferExpiry
  (repeat' split) <;> exact ⟨_, rfl, by simp, by simp⟩

theorem execModeReqService_kept (i : Initiator) (p : Priv) (s : State) :
    ∃ u1, execModeReqService i p s = .next u1 ∧ u1.pending = s.pending ∧ u1.sys.fuses = s.sys.fuses := by
  unfold execModeReqService
  exact ⟨_, rfl, by simp, by simp⟩

theorem execModeReqSurvey_kept (i : Initiator) (p : Priv) (s : State) :
    ∃ u1, execModeReqSurvey i p s = .next u1 ∧ u1.pending = s.pending ∧ u1.sys.fuses = s.sys.fuses := by
  unfold execModeReqSurvey
  exact ⟨_, rfl, by simp, by simp⟩

theorem execModeReqMigration_kept (i : Initiator) (p : Priv) (s : State) :
    ∃ u1, execModeReqMigration i p s = .next u1 ∧ u1.pending = s.pending ∧ u1.sys.fuses = s.sys.fuses := by
  unfold execModeReqMigration
  exact ⟨_, rfl, by simp, by simp⟩

theorem execModeReqDormant_kept (i : Initiator) (p : Priv) (s : State) :
    ∃ u1, execModeReqDormant i p s = .next u1 ∧ u1.pending = s.pending ∧ u1.sys.fuses = s.sys.fuses := by
  unfold execModeReqDormant
  exact ⟨_, rfl, by simp, by simp⟩

theorem execModeReqHaven_kept (i : Initiator) (p : Priv) (s : State) :
    ∃ u1, execModeReqHaven i p s = .next u1 ∧ u1.pending = s.pending ∧ u1.sys.fuses = s.sys.fuses := by
  unfold execModeReqHaven
  exact ⟨_, rfl, by simp, by simp⟩

theorem execModeReqBedding_kept (i : Initiator) (p : Priv) (s : State) :
    ∃ u1, execModeReqBedding i p s = .next u1 ∧ u1.pending = s.pending ∧ u1.sys.fuses = s.sys.fuses := by
  unfold execModeReqBedding
  exact ⟨_, rfl, by simp, by simp⟩

theorem execDormantEntryProgress_kept (s : State) :
    ∃ u1, execDormantEntryProgress s = .next u1 ∧ u1.pending = s.pending ∧ u1.sys.fuses = s.sys.fuses := by
  unfold execDormantEntryProgress
  (repeat' split) <;> exact ⟨_, rfl, by simp, by simp⟩

theorem execDormantWakeExpiry_kept (s : State) :
    ∃ u1, execDormantWakeExpiry s = .next u1 ∧ u1.pending = s.pending ∧ u1.sys.fuses = s.sys.fuses := by
  unfold execDormantWakeExpiry
  (repeat' split) <;> exact ⟨_, rfl, by simp, by simp⟩

theorem execDormantWorkDone_kept (s : State) :
    ∃ u1, execDormantWorkDone s = .next u1 ∧ u1.pending = s.pending ∧ u1.sys.fuses = s.sys.fuses := by
  unfold execDormantWorkDone
  (repeat' split) <;> exact ⟨_, rfl, by simp, by simp⟩

theorem execModeTransitionComplete_kept (s : State) :
    ∃ u1, execModeTransitionComplete s = .next u1 ∧ u1.pending = s.pending ∧ u1.sys.fuses = s.sys.fuses := by
  unfold execModeTransitionComplete
  exact ⟨_, rfl, by simp, by simp⟩

theorem execHeldDataWrite_kept (s : State) :
    ∃ u1, execHeldDataWrite s = .next u1 ∧ u1.pending = s.pending ∧ u1.sys.fuses = s.sys.fuses := by
  simp only [execHeldDataWrite, ok]
  (repeat' split) <;> first
      | exact ⟨_, rfl, by simp, by simp⟩ | (refine ⟨_, rfl, ?_, ?_⟩ <;> (repeat' split) <;> simp_all)

/-! ### Memory stays canonical -/

theorem State.deviceReset_memWf (s : State) (c : RstCause) : Memory.wf (s.deviceReset c).mem = true := by
  simp [State.deviceReset, State.sasAddresses, State.reset]

theorem State.stopAdmission_memWf (s : State) (h : Memory.wf s.mem = true) :
    Memory.wf (State.stopAdmission s).mem = true := by
  unfold State.stopAdmission
  repeat' first
      | with_reducible assumption | with_reducible apply State.strEvent_memWf | with_reducible apply foldl_memWf
      | (intro t a ha) | split | simp

theorem State.haven4_memWf (s : State) (h : Memory.wf s.mem = true) :
    Memory.wf (State.haven4 s).mem = true := by
  unfold State.haven4
  repeat' first
      | with_reducible assumption | with_reducible apply State.spinStop_memWf
      | with_reducible apply State.spinStopBrake_memWf | with_reducible apply foldl_memWf | (intro t a ha) | split
      | simp

theorem State.advanceHaven_memWf (s : State) (h : Memory.wf s.mem = true) :
    Memory.wf (State.advanceHaven s).mem = true := by
  unfold State.advanceHaven
  repeat' first
      | with_reducible assumption | with_reducible apply State.haven4_memWf | with_reducible apply foldl_memWf
      | (intro t a ha) | split | simp

theorem State.requestHaven_memWf (s : State) (cause : Nat) (h : Memory.wf s.mem = true) :
    Memory.wf (State.requestHaven s cause).mem = true := by
  unfold State.requestHaven
  dsimp only
  repeat' first
      | with_reducible assumption | with_reducible apply State.advanceHaven_memWf
      | with_reducible apply State.stopAdmission_memWf | with_reducible apply foldl_memWf | (intro t a ha) | split
      | simp

theorem State.settleHaven_memWf (s : State) (h : Memory.wf s.mem = true) :
    Memory.wf (State.settleHaven s).mem = true := by
  unfold State.settleHaven
  dsimp only
  repeat' first
      | with_reducible assumption | with_reducible apply State.deviceReset_memWf | with_reducible apply foldl_memWf
      | (intro t a ha) | split | simp

theorem execHavenSettled_memWf (s : State) :
    ∃ u1, execHavenSettled s = .next u1 ∧ (Memory.wf s.mem = true → Memory.wf u1.mem = true) := by
  unfold execHavenSettled
  (repeat' split) <;> refine ⟨_, rfl, fun h => ?_⟩
  all_goals (repeat' first
      | with_reducible assumption | with_reducible apply State.advanceHaven_memWf
      | with_reducible apply State.settleHaven_memWf | with_reducible apply foldl_memWf | (intro t a ha) | split
      | simp)

theorem State.flushFirst_memWf (s : State) (c : RstCause) (h : Memory.wf s.mem = true) :
    Memory.wf (State.flushFirst s c).mem = true := by
  unfold State.flushFirst
  repeat' first
      | with_reducible assumption | with_reducible apply State.deviceReset_memWf
      | with_reducible apply State.requestHaven_memWf | with_reducible apply foldl_memWf | (intro t a ha) | split
      | simp

theorem State.powerOn_memWf (s : State) (bootcfg sbAddr : Nat) (rstLow : Bool) (h : Memory.wf s.mem = true) :
    Memory.wf (State.powerOn s bootcfg sbAddr rstLow).mem = true := by
  unfold State.powerOn
  repeat' first
      | with_reducible assumption | with_reducible apply State.deviceReset_memWf | with_reducible apply foldl_memWf
      | (intro t a ha) | split | simp

theorem execPowerOnReset_memWf (bootcfg sbAddr : Fin 4) (rstLow : Bool) (s : State) :
    ∃ u1, execPowerOnReset bootcfg sbAddr rstLow s = .next u1 ∧ (Memory.wf s.mem = true → Memory.wf u1.mem = true)
        := by
  unfold execPowerOnReset
  (repeat' split) <;> refine ⟨_, rfl, fun h => ?_⟩
  all_goals (repeat' first
      | with_reducible assumption | with_reducible apply State.powerOn_memWf | with_reducible apply foldl_memWf
      | (intro t a ha) | split | simp)

theorem execRstNRelease_memWf (bootcfg sbAddr : Fin 4) (s : State) :
    ∃ u1, execRstNRelease bootcfg sbAddr s = .next u1 ∧ (Memory.wf s.mem = true → Memory.wf u1.mem = true) := by
  unfold execRstNRelease
  (repeat' split) <;> refine ⟨_, rfl, fun h => ?_⟩
  all_goals (repeat' first
      | with_reducible assumption | with_reducible apply State.powerOn_memWf | with_reducible apply foldl_memWf
      | (intro t a ha) | split | simp)

theorem execPinReset_memWf (lowNs : Nat) (s : State) :
    ∃ u1, execPinReset lowNs s = .next u1 ∧ (Memory.wf s.mem = true → Memory.wf u1.mem = true) := by
  unfold execPinReset
  (repeat' split) <;> refine ⟨_, rfl, fun h => ?_⟩
  all_goals (repeat' first
      | with_reducible assumption | with_reducible apply State.flushFirst_memWf | with_reducible apply foldl_memWf
      | (intro t a ha) | split | simp)

theorem State.writeDevRst_memWf (s : State) (i : Initiator) (v : Word) (h : Memory.wf s.mem = true) :
    Memory.wf (State.writeDevRst s i v).mem = true := by
  unfold State.writeDevRst
  repeat' first
      | with_reducible assumption | with_reducible apply State.flushFirst_memWf | with_reducible apply foldl_memWf
      | (intro t a ha) | split | simp

theorem execKeyDeviceReset_memWf (i : Initiator) (v : Word) (s : State) :
    ∃ u1, execKeyDeviceReset i v s = .next u1 ∧ (Memory.wf s.mem = true → Memory.wf u1.mem = true) := by
  unfold execKeyDeviceReset
  (repeat' split) <;> refine ⟨_, rfl, fun h => ?_⟩
  all_goals (repeat' first
      | with_reducible assumption | with_reducible apply State.writeDevRst_memWf | with_reducible apply foldl_memWf
      | (intro t a ha) | split | simp)

theorem execKeystoneWatchdogExpiry_memWf (s : State) :
    ∃ u1, execKeystoneWatchdogExpiry s = .next u1 ∧ (Memory.wf s.mem = true → Memory.wf u1.mem = true) := by
  unfold execKeystoneWatchdogExpiry
  (repeat' split) <;> refine ⟨_, rfl, fun h => ?_⟩
  all_goals (repeat' first
      | with_reducible assumption | with_reducible apply State.deviceReset_memWf | with_reducible apply foldl_memWf
      | (intro t a ha) | split | simp)

theorem execResetDeferExpiry_memWf (s : State) :
    ∃ u1, execResetDeferExpiry s = .next u1 ∧ (Memory.wf s.mem = true → Memory.wf u1.mem = true) := by
  unfold execResetDeferExpiry
  (repeat' split) <;> refine ⟨_, rfl, fun h => ?_⟩
  all_goals (repeat' first
      | with_reducible assumption | with_reducible apply State.deviceReset_memWf | with_reducible apply foldl_memWf
      | (intro t a ha) | split | simp)

theorem State.askMode_memWf (s : State) (i : Initiator) (p : Priv) (m : Nat) (f : State → State) (h : Memory.wf
    s.mem = true)
    (hf : ∀ t, Memory.wf t.mem = true → Memory.wf (f t).mem = true) : Memory.wf (s.askMode i p m f).mem = true := by
  unfold State.askMode
  repeat' split
  · exact h
  · simp; exact h
  · simp; exact h
  · exact hf s h

theorem State.modeSpin_memWf (s : State) (h : Memory.wf s.mem = true) :
    Memory.wf (State.modeSpin s).mem = true := by
  unfold State.modeSpin
  repeat' first
      | with_reducible assumption | with_reducible apply State.spinStart_memWf | with_reducible apply foldl_memWf
      | (intro t a ha) | split | simp

theorem State.askHaven_memWf (s : State) (i : Initiator) (p : Priv) (h : Memory.wf s.mem = true) :
    Memory.wf (State.askHaven s i p).mem = true := by
  unfold State.askHaven
  repeat' first
      | with_reducible assumption | with_reducible apply State.requestHaven_memWf
      | with_reducible apply foldl_memWf | (intro t a ha) | split | simp

theorem State.askService_memWf (s : State) (i : Initiator) (p : Priv) (h : Memory.wf s.mem = true) :
    Memory.wf (State.askService s i p).mem = true := by
  unfold State.askService
  refine State.askMode_memWf _ _ _ _ _ h ?_
  intro t ht
  repeat' first | with_reducible assumption | with_reducible apply State.modeSpin_memWf | split | simp

theorem execModeReqService_memWf (i : Initiator) (p : Priv) (s : State) :
    ∃ u1, execModeReqService i p s = .next u1 ∧ (Memory.wf s.mem = true → Memory.wf u1.mem = true) := by
  unfold execModeReqService
  (repeat' split) <;> refine ⟨_, rfl, fun h => ?_⟩
  all_goals (repeat' first
      | with_reducible assumption | with_reducible apply State.askService_memWf | with_reducible apply foldl_memWf
      | (intro t a ha) | split | simp)

theorem execModeReqSurvey_memWf (i : Initiator) (p : Priv) (s : State) :
    ∃ u1, execModeReqSurvey i p s = .next u1 ∧ (Memory.wf s.mem = true → Memory.wf u1.mem = true) := by
  unfold execModeReqSurvey
  (repeat' split) <;> refine ⟨_, rfl, fun h => ?_⟩
  all_goals (repeat' first
      | with_reducible assumption | with_reducible apply foldl_memWf | (intro t a ha) | split | simp)

theorem execModeReqMigration_memWf (i : Initiator) (p : Priv) (s : State) :
    ∃ u1, execModeReqMigration i p s = .next u1 ∧ (Memory.wf s.mem = true → Memory.wf u1.mem = true) := by
  unfold execModeReqMigration
  (repeat' split) <;> refine ⟨_, rfl, fun h => ?_⟩
  all_goals (repeat' first
      | with_reducible assumption | with_reducible apply foldl_memWf | (intro t a ha) | split | simp)

theorem execModeReqDormant_memWf (i : Initiator) (p : Priv) (s : State) :
    ∃ u1, execModeReqDormant i p s = .next u1 ∧ (Memory.wf s.mem = true → Memory.wf u1.mem = true) := by
  unfold execModeReqDormant
  (repeat' split) <;> refine ⟨_, rfl, fun h => ?_⟩
  all_goals (repeat' first
      | with_reducible assumption | with_reducible apply foldl_memWf | (intro t a ha) | split | simp)

theorem execModeReqHaven_memWf (i : Initiator) (p : Priv) (s : State) :
    ∃ u1, execModeReqHaven i p s = .next u1 ∧ (Memory.wf s.mem = true → Memory.wf u1.mem = true) := by
  unfold execModeReqHaven
  (repeat' split) <;> refine ⟨_, rfl, fun h => ?_⟩
  all_goals (repeat' first
      | with_reducible assumption | with_reducible apply State.askHaven_memWf | with_reducible apply foldl_memWf
      | (intro t a ha) | split | simp)

theorem execModeReqBedding_memWf (i : Initiator) (p : Priv) (s : State) :
    ∃ u1, execModeReqBedding i p s = .next u1 ∧ (Memory.wf s.mem = true → Memory.wf u1.mem = true) := by
  unfold execModeReqBedding
  (repeat' split) <;> refine ⟨_, rfl, fun h => ?_⟩
  all_goals (repeat' first
      | with_reducible assumption | with_reducible apply foldl_memWf | (intro t a ha) | split | simp)

theorem State.writeModeReq_memWf (s : State) (i : Initiator) (p : Priv) (v : Word) (h : Memory.wf s.mem = true) :
    Memory.wf (State.writeModeReq s i p v).mem = true := by
  unfold State.writeModeReq
  repeat' first
      | with_reducible assumption | with_reducible apply State.askHaven_memWf
      | with_reducible apply State.askService_memWf | with_reducible apply foldl_memWf | (intro t a ha) | split
      | simp

theorem execDormantEntryProgress_memWf (s : State) :
    ∃ u1, execDormantEntryProgress s = .next u1 ∧ (Memory.wf s.mem = true → Memory.wf u1.mem = true) := by
  unfold execDormantEntryProgress
  (repeat' split) <;> refine ⟨_, rfl, fun h => ?_⟩
  all_goals (repeat' first
      | with_reducible assumption | with_reducible apply State.spinStopBrake_memWf
      | with_reducible apply foldl_memWf | (intro t a ha) | split | simp)

theorem execDormantWakeExpiry_memWf (s : State) :
    ∃ u1, execDormantWakeExpiry s = .next u1 ∧ (Memory.wf s.mem = true → Memory.wf u1.mem = true) := by
  unfold execDormantWakeExpiry
  (repeat' split) <;> refine ⟨_, rfl, fun h => ?_⟩
  all_goals (repeat' first
      | with_reducible assumption | with_reducible apply State.modeSpin_memWf | with_reducible apply foldl_memWf
      | (intro t a ha) | split | simp)

theorem execDormantWorkDone_memWf (s : State) :
    ∃ u1, execDormantWorkDone s = .next u1 ∧ (Memory.wf s.mem = true → Memory.wf u1.mem = true) := by
  unfold execDormantWorkDone
  (repeat' split) <;> refine ⟨_, rfl, fun h => ?_⟩
  all_goals (repeat' first
      | with_reducible assumption | with_reducible apply State.spinStopBrake_memWf
      | with_reducible apply foldl_memWf | (intro t a ha) | split | simp)

theorem execModeTransitionComplete_memWf (s : State) :
    ∃ u1, execModeTransitionComplete s = .next u1 ∧ (Memory.wf s.mem = true → Memory.wf u1.mem = true) := by
  unfold execModeTransitionComplete
  (repeat' split) <;> refine ⟨_, rfl, fun h => ?_⟩
  all_goals (repeat' first
      | with_reducible assumption | with_reducible apply foldl_memWf | (intro t a ha) | split | simp)

theorem execHeldDataWrite_memWf (s : State) :
    ∃ u1, execHeldDataWrite s = .next u1 ∧ (Memory.wf s.mem = true → Memory.wf u1.mem = true) := by
  unfold execHeldDataWrite
  dsimp only
  (repeat' split) <;> refine ⟨_, rfl, fun h => ?_⟩
  all_goals (repeat' first
      | with_reducible assumption | with_reducible apply foldl_memWf | (intro t a ha) | split | simp)

end Sys2Proof.Machine
end

