-- ==== Sys2Proof/Laws/FramePairOps.lean ====
section
/-!
SUPPORT. Sys2Proof/Laws/FramePairOps.lean: what each operation and meaning of Machine/PairOps.lean leaves alone: the command queue, the
fuses, and memory, or its canonical form where the operation may write memory.
-/

namespace Sys2Proof.Machine

/-! ### What the operations leave alone -/

@[simp] theorem State.countRestart_kept (s : State) (p : Nat) :
    (State.countRestart s p).2.pending = s.pending ∧ (State.countRestart s p).2.sys.fuses = s.sys.fuses ∧
        (State.countRestart s p).2.mem = s.mem := by simp [State.countRestart]

@[simp] theorem State.beginRestart_kept (s : State) (p cause : Nat) :
    (State.beginRestart s p cause).pending = s.pending ∧ (State.beginRestart s p cause).sys.fuses = s.sys.fuses ∧
        (State.beginRestart s p cause).mem = s.mem := by simp [State.beginRestart]

@[simp] theorem State.beat_kept (s : State) (p : Nat) :
    (State.beat s p).pending = s.pending ∧ (State.beat s p).sys.fuses = s.sys.fuses ∧ (State.beat s p).mem = s.mem
        := by simp [State.beat]

@[simp] theorem State.writeHb_kept (s : State) (i : Initiator) (p : Nat) :
    (State.writeHb s i p).pending = s.pending ∧ (State.writeHb s i p).sys.fuses = s.sys.fuses ∧ (State.writeHb s i
        p).mem = s.mem := by
  unfold State.writeHb
  repeat' split
  all_goals simp

@[simp] theorem State.writeHbCfg_kept (s : State) (i : Initiator) (p : Priv) (v : Word) :
    (State.writeHbCfg s i p v).pending = s.pending ∧ (State.writeHbCfg s i p v).sys.fuses = s.sys.fuses ∧
        (State.writeHbCfg s i p v).mem = s.mem := by simp [State.writeHbCfg]

@[simp] theorem State.writeRstVec_kept (s : State) (i : Initiator) (pr : Priv) (p : Nat) (hi : Bool) (v : Word) :
    (State.writeRstVec s i pr p hi v).pending = s.pending ∧ (State.writeRstVec s i pr p hi v).sys.fuses =
        s.sys.fuses ∧ (State.writeRstVec s i pr p hi v).mem = s.mem := by simp [State.writeRstVec]

end Sys2Proof.Machine
end

