-- ==== Sys2Proof/Laws/FrameMboxOps.lean ====
section
/-!
SUPPORT. Sys2Proof/Laws/FrameMboxOps.lean: what each operation and meaning of Machine/MboxOps.lean leaves alone: the command queue, the
fuses, and memory, or its canonical form where the operation may write memory.
-/

namespace Sys2Proof.Machine

/-! ### What the operations leave alone -/

@[simp] theorem State.setInbound_kept (s : State) (m side : Nat) (q : List Nat) :
    (State.setInbound s m side q).pending = s.pending ∧ (State.setInbound s m side q).sys.fuses = s.sys.fuses ∧
        (State.setInbound s m side q).mem = s.mem := by simp [State.setInbound]

@[simp] theorem State.mboxPush_kept (s : State) (m side v : Nat) :
    (State.mboxPush s m side v).pending = s.pending ∧ (State.mboxPush s m side v).sys.fuses = s.sys.fuses ∧
        (State.mboxPush s m side v).mem = s.mem := by simp [State.mboxPush]

@[simp] theorem State.mboxTx_kept (s : State) (m side : Nat) (v : Word) :
    (State.mboxTx s m side v).pending = s.pending ∧ (State.mboxTx s m side v).sys.fuses = s.sys.fuses ∧
        (State.mboxTx s m side v).mem = s.mem := by simp [State.mboxTx]

@[simp] theorem State.mboxRing_kept (s : State) (m side : Nat) (v : Word) :
    (State.mboxRing s m side v).pending = s.pending ∧ (State.mboxRing s m side v).sys.fuses = s.sys.fuses ∧
        (State.mboxRing s m side v).mem = s.mem := by simp [State.mboxRing]

@[simp] theorem State.mboxAck_kept (s : State) (m side code : Nat) :
    (State.mboxAck s m side code).pending = s.pending ∧ (State.mboxAck s m side code).sys.fuses = s.sys.fuses ∧
        (State.mboxAck s m side code).mem = s.mem := by simp [State.mboxAck]

end Sys2Proof.Machine
end

