-- ==== Sys2Proof/Laws/FrameSignpost.lean ====
section
/-!
SUPPORT. Sys2Proof/Laws/FrameSignpost.lean: what each operation and meaning of Machine/Signpost.lean leaves alone: the command queue, the
fuses, and memory, or its canonical form where the operation may write memory.
-/

namespace Sys2Proof.Machine

/-! ### What the operations leave alone -/

@[simp] theorem State.readClaim_kept (s : State) (i : Initiator) (p : Priv) (c : Nat) :
    (State.readClaim s i p c).pending = s.pending ∧ (State.readClaim s i p c).sys.fuses = s.sys.fuses ∧
        (State.readClaim s i p c).mem = s.mem := by simp [State.readClaim]

@[simp] theorem State.writeClaim_kept (s : State) (i : Initiator) (p : Priv) (c : Nat) (v : Word) :
    (State.writeClaim s i p c v).pending = s.pending ∧ (State.writeClaim s i p c v).sys.fuses = s.sys.fuses ∧
        (State.writeClaim s i p c v).mem = s.mem := by simp [State.writeClaim]

@[simp] theorem State.writeThr_kept (s : State) (i : Initiator) (p : Priv) (c : Nat) (v : Word) :
    (State.writeThr s i p c v).pending = s.pending ∧ (State.writeThr s i p c v).sys.fuses = s.sys.fuses ∧
        (State.writeThr s i p c v).mem = s.mem := by simp [State.writeThr]

/-! ### What the meanings leave alone -/

theorem execInterruptClaim_kept (i : Initiator) (p : Priv) (c : Fin 4) (s : State) :
    ∃ u1, execInterruptClaim i p c s = .next u1 ∧ u1.pending = s.pending ∧ u1.sys.fuses = s.sys.fuses := by
  unfold execInterruptClaim
  exact ⟨_, rfl, by simp, by simp⟩

theorem execInterruptComplete_kept (i : Initiator) (p : Priv) (c : Fin 4) (v : Word) (s : State) :
    ∃ u1, execInterruptComplete i p c v s = .next u1 ∧ u1.pending = s.pending ∧ u1.sys.fuses = s.sys.fuses := by
  unfold execInterruptComplete
  exact ⟨_, rfl, by simp, by simp⟩

theorem execMachineTimerInterrupt_kept (p : Fin 2) (s : State) :
    ∃ u1, execMachineTimerInterrupt p s = .next u1 ∧ u1.pending = s.pending ∧ u1.sys.fuses = s.sys.fuses := by
  unfold execMachineTimerInterrupt
  exact ⟨_, rfl, by simp, by simp⟩

/-! ### Memory stays canonical -/

theorem execInterruptClaim_memWf (i : Initiator) (p : Priv) (c : Fin 4) (s : State) :
    ∃ u1, execInterruptClaim i p c s = .next u1 ∧ (Memory.wf s.mem = true → Memory.wf u1.mem = true) := by
  unfold execInterruptClaim
  (repeat' split) <;> refine ⟨_, rfl, fun h => ?_⟩
  all_goals (repeat' first
      | with_reducible assumption | with_reducible apply foldl_memWf | (intro t a ha) | split | simp)

theorem execInterruptComplete_memWf (i : Initiator) (p : Priv) (c : Fin 4) (v : Word) (s : State) :
    ∃ u1, execInterruptComplete i p c v s = .next u1 ∧ (Memory.wf s.mem = true → Memory.wf u1.mem = true) := by
  unfold execInterruptComplete
  (repeat' split) <;> refine ⟨_, rfl, fun h => ?_⟩
  all_goals (repeat' first
      | with_reducible assumption | with_reducible apply foldl_memWf | (intro t a ha) | split | simp)

theorem execMachineTimerInterrupt_memWf (p : Fin 2) (s : State) :
    ∃ u1, execMachineTimerInterrupt p s = .next u1 ∧ (Memory.wf s.mem = true → Memory.wf u1.mem = true) := by
  unfold execMachineTimerInterrupt
  (repeat' split) <;> refine ⟨_, rfl, fun h => ?_⟩
  all_goals (repeat' first
      | with_reducible assumption | with_reducible apply foldl_memWf | (intro t a ha) | split | simp)

end Sys2Proof.Machine
end

