-- ==== Sys2Proof/Laws/FrameTurnpike.lean ====
section
/-!
SUPPORT. Sys2Proof/Laws/FrameTurnpike.lean: what each operation and meaning of Machine/Turnpike.lean leaves alone: the command queue, the
fuses, and memory, or its canonical form where the operation may write memory.
-/

namespace Sys2Proof.Machine

/-! ### What the operations leave alone -/

@[simp] theorem State.requesterFault_kept (s : State) (st iova : Nat) (write : Bool) (k : Nat) :
    (State.requesterFault s st iova write k).pending = s.pending ∧ (State.requesterFault s st iova write
        k).sys.fuses = s.sys.fuses := by simp [State.requesterFault]

@[simp] theorem State.writeSctx_kept (s : State) (i : Initiator) (p : Priv) (st : Nat) (v : Word) :
    (State.writeSctx s i p st v).pending = s.pending ∧ (State.writeSctx s i p st v).sys.fuses = s.sys.fuses ∧
        (State.writeSctx s i p st v).mem = s.mem := by simp [State.writeSctx]

@[simp] theorem State.writeInv_kept (s : State) (i : Initiator) (p : Priv) (q : TlbEntry → Bool) :
    (State.writeInv s i p q).pending = s.pending ∧ (State.writeInv s i p q).sys.fuses = s.sys.fuses ∧
        (State.writeInv s i p q).mem = s.mem := by simp [State.writeInv]

@[simp] theorem State.writeTrnInv_kept (s : State) (i : Initiator) (p : Priv) (v : Word) :
    (State.writeTrnInv s i p v).pending = s.pending ∧ (State.writeTrnInv s i p v).sys.fuses = s.sys.fuses ∧
        (State.writeTrnInv s i p v).mem = s.mem := by
  unfold State.writeTrnInv
  repeat' split
  all_goals simp

@[simp] theorem State.writeFltPop_kept (s : State) (i : Initiator) (p : Priv) :
    (State.writeFltPop s i p).pending = s.pending ∧ (State.writeFltPop s i p).sys.fuses = s.sys.fuses ∧
        (State.writeFltPop s i p).mem = s.mem := by simp [State.writeFltPop]

/-! ### What the meanings leave alone -/

theorem execTranslate_kept (st : Fin 47) (iova : Nat) (write : Bool) (k : Fin 65536) (s : State) :
    ∃ u1, execTranslate st iova write k s = .next u1 ∧ u1.pending = s.pending ∧ u1.sys.fuses = s.sys.fuses := by
  simp only [execTranslate, ok]
  (repeat' split) <;> first
      | exact ⟨_, rfl, by simp, by simp⟩ | (refine ⟨_, rfl, ?_, ?_⟩ <;> (repeat' split) <;> simp_all)

theorem execStreamConfig_kept (i : Initiator) (p : Priv) (st : Fin 47) (v : Word) (s : State) :
    ∃ u1, execStreamConfig i p st v s = .next u1 ∧ u1.pending = s.pending ∧ u1.sys.fuses = s.sys.fuses := by
  unfold execStreamConfig
  exact ⟨_, rfl, by simp, by simp⟩

theorem execStreamFaultClear_kept (i : Initiator) (p : Priv) (st : Fin 47) (s : State) :
    ∃ u1, execStreamFaultClear i p st s = .next u1 ∧ u1.pending = s.pending ∧ u1.sys.fuses = s.sys.fuses := by
  unfold execStreamFaultClear
  exact ⟨_, rfl, by simp, by simp⟩

theorem execIotlbInvAll_kept (i : Initiator) (p : Priv) (s : State) :
    ∃ u1, execIotlbInvAll i p s = .next u1 ∧ u1.pending = s.pending ∧ u1.sys.fuses = s.sys.fuses := by
  unfold execIotlbInvAll
  exact ⟨_, rfl, by simp, by simp⟩

theorem execIotlbInvStream_kept (i : Initiator) (p : Priv) (st : Fin 64) (s : State) :
    ∃ u1, execIotlbInvStream i p st s = .next u1 ∧ u1.pending = s.pending ∧ u1.sys.fuses = s.sys.fuses := by
  unfold execIotlbInvStream
  exact ⟨_, rfl, by simp, by simp⟩

theorem execIotlbInvPage_kept (i : Initiator) (p : Priv) (st : Fin 64) (s : State) :
    ∃ u1, execIotlbInvPage i p st s = .next u1 ∧ u1.pending = s.pending ∧ u1.sys.fuses = s.sys.fuses := by
  unfold execIotlbInvPage
  exact ⟨_, rfl, by simp, by simp⟩

theorem execIotlbInvDone_kept (s : State) :
    ∃ u1, execIotlbInvDone s = .next u1 ∧ u1.pending = s.pending ∧ u1.sys.fuses = s.sys.fuses := by
  unfold execIotlbInvDone
  (repeat' split) <;> exact ⟨_, rfl, by simp, by simp⟩

theorem execFaultPop_kept (i : Initiator) (p : Priv) (s : State) :
    ∃ u1, execFaultPop i p s = .next u1 ∧ u1.pending = s.pending ∧ u1.sys.fuses = s.sys.fuses := by
  unfold execFaultPop
  exact ⟨_, rfl, by simp, by simp⟩

/-! ### Memory stays canonical -/

theorem State.requesterFault_memWf (s : State) (st iova : Nat) (write : Bool) (k : Nat) (h : Memory.wf s.mem = true) :
    Memory.wf (State.requesterFault s st iova write k).mem = true := by
  unfold State.requesterFault
  repeat' first
      | with_reducible assumption | with_reducible apply State.carFault_memWf
      | with_reducible apply State.strFault_memWf | with_reducible apply foldl_memWf | (intro t a ha) | split
      | simp

theorem execTranslate_memWf (st : Fin 47) (iova : Nat) (write : Bool) (k : Fin 65536) (s : State) :
    ∃ u1, execTranslate st iova write k s = .next u1 ∧ (Memory.wf s.mem = true → Memory.wf u1.mem = true) := by
  unfold execTranslate
  dsimp only
  (repeat' split) <;> refine ⟨_, rfl, fun h => ?_⟩
  all_goals (repeat' first
      | with_reducible assumption | with_reducible apply State.requesterFault_memWf
      | with_reducible apply foldl_memWf | (intro t a ha) | split | simp)

theorem execStreamConfig_memWf (i : Initiator) (p : Priv) (st : Fin 47) (v : Word) (s : State) :
    ∃ u1, execStreamConfig i p st v s = .next u1 ∧ (Memory.wf s.mem = true → Memory.wf u1.mem = true) := by
  unfold execStreamConfig
  (repeat' split) <;> refine ⟨_, rfl, fun h => ?_⟩
  all_goals (repeat' first
      | with_reducible assumption | with_reducible apply foldl_memWf | (intro t a ha) | split | simp)

theorem execStreamFaultClear_memWf (i : Initiator) (p : Priv) (st : Fin 47) (s : State) :
    ∃ u1, execStreamFaultClear i p st s = .next u1 ∧ (Memory.wf s.mem = true → Memory.wf u1.mem = true) := by
  unfold execStreamFaultClear
  (repeat' split) <;> refine ⟨_, rfl, fun h => ?_⟩
  all_goals (repeat' first
      | with_reducible assumption | with_reducible apply foldl_memWf | (intro t a ha) | split | simp)

theorem execIotlbInvAll_memWf (i : Initiator) (p : Priv) (s : State) :
    ∃ u1, execIotlbInvAll i p s = .next u1 ∧ (Memory.wf s.mem = true → Memory.wf u1.mem = true) := by
  unfold execIotlbInvAll
  (repeat' split) <;> refine ⟨_, rfl, fun h => ?_⟩
  all_goals (repeat' first
      | with_reducible assumption | with_reducible apply foldl_memWf | (intro t a ha) | split | simp)

theorem execIotlbInvStream_memWf (i : Initiator) (p : Priv) (st : Fin 64) (s : State) :
    ∃ u1, execIotlbInvStream i p st s = .next u1 ∧ (Memory.wf s.mem = true → Memory.wf u1.mem = true) := by
  unfold execIotlbInvStream
  (repeat' split) <;> refine ⟨_, rfl, fun h => ?_⟩
  all_goals (repeat' first
      | with_reducible assumption | with_reducible apply foldl_memWf | (intro t a ha) | split | simp)

theorem execIotlbInvPage_memWf (i : Initiator) (p : Priv) (st : Fin 64) (s : State) :
    ∃ u1, execIotlbInvPage i p st s = .next u1 ∧ (Memory.wf s.mem = true → Memory.wf u1.mem = true) := by
  unfold execIotlbInvPage
  (repeat' split) <;> refine ⟨_, rfl, fun h => ?_⟩
  all_goals (repeat' first
      | with_reducible assumption | with_reducible apply foldl_memWf | (intro t a ha) | split | simp)

theorem execIotlbInvDone_memWf (s : State) :
    ∃ u1, execIotlbInvDone s = .next u1 ∧ (Memory.wf s.mem = true → Memory.wf u1.mem = true) := by
  unfold execIotlbInvDone
  (repeat' split) <;> refine ⟨_, rfl, fun h => ?_⟩
  all_goals (repeat' first
      | with_reducible assumption | with_reducible apply foldl_memWf | (intro t a ha) | split | simp)

theorem execFaultPop_memWf (i : Initiator) (p : Priv) (s : State) :
    ∃ u1, execFaultPop i p s = .next u1 ∧ (Memory.wf s.mem = true → Memory.wf u1.mem = true) := by
  unfold execFaultPop
  (repeat' split) <;> refine ⟨_, rfl, fun h => ?_⟩
  all_goals (repeat' first
      | with_reducible assumption | with_reducible apply foldl_memWf | (intro t a ha) | split | simp)

end Sys2Proof.Machine
end

