-- ==== Sys2Proof/Laws/FrameBoot.lean ====
section
/-!
SUPPORT. Sys2Proof/Laws/FrameBoot.lean: what each operation and meaning of Machine/Boot.lean leaves alone: the command queue, the
fuses, and memory, or its canonical form where the operation may write memory.
-/

namespace Sys2Proof.Machine

/-! ### What the operations leave alone -/

@[simp] theorem State.kenulOutcome_kept (s : State) (a b : SlotResult) :
    (State.kenulOutcome s a b).pending = s.pending ∧ (State.kenulOutcome s a b).sys.fuses = s.sys.fuses ∧
        (State.kenulOutcome s a b).mem = s.mem := by simp [State.kenulOutcome]

@[simp] theorem State.applyPart_kept (s : State) (k : Kenul) :
    (State.applyPart s k).pending = s.pending ∧ (State.applyPart s k).sys.fuses = s.sys.fuses ∧ (State.applyPart s
        k).mem = s.mem := by simp [State.applyPart]

@[simp] theorem State.applyPort_kept (s : State) (g : Nat) (r : PortRec) :
    (State.applyPort s g r).pending = s.pending ∧ (State.applyPort s g r).sys.fuses = s.sys.fuses ∧ (State.applyPort
        s g r).mem = s.mem := by simp [State.applyPort]

@[simp] theorem State.applyBox_kept (s : State) (m : Nat) :
    (State.applyBox s m).pending = s.pending ∧ (State.applyBox s m).sys.fuses = s.sys.fuses ∧ (State.applyBox s
        m).mem = s.mem := by simp [State.applyBox]

@[simp] theorem State.applySlice_kept (s : State) (k : Kenul) (n : Nat) :
    (State.applySlice s k n).pending = s.pending ∧ (State.applySlice s k n).sys.fuses = s.sys.fuses ∧
        (State.applySlice s k n).mem = s.mem := by
  unfold State.applySlice
  repeat' split
  all_goals simp

@[simp] theorem State.applyActuator_kept (s : State) (k : Kenul) (a : Nat) :
    (State.applyActuator s k a).pending = s.pending ∧ (State.applyActuator s k a).sys.fuses = s.sys.fuses ∧
        (State.applyActuator s k a).mem = s.mem := by simp [State.applyActuator]

@[simp] theorem State.applyMotor_kept (s : State) (k : Kenul) :
    (State.applyMotor s k).pending = s.pending ∧ (State.applyMotor s k).sys.fuses = s.sys.fuses ∧ (State.applyMotor
        s k).mem = s.mem := by simp [State.applyMotor]

@[simp] theorem State.applyImage_kept (s : State) (slot : Nat) (k : Kenul) :
    (State.applyImage s slot k).pending = s.pending ∧ (State.applyImage s slot k).sys.fuses = s.sys.fuses ∧
        (State.applyImage s slot k).mem = s.mem := by simp [State.applyImage]

@[simp] theorem State.handOff_kept (s : State) (img : Nat) :
    (State.handOff s img).pending = s.pending ∧ (State.handOff s img).sys.fuses = s.sys.fuses := by simp
        [State.handOff]

@[simp] theorem State.fuseStart_kept (s : State) (i : Initiator) (p : Priv) (unlock slot : Nat) (program : Bool) :
    (State.fuseStart s i p unlock slot program).pending = s.pending ∧ (State.fuseStart s i p unlock slot
        program).sys.fuses = s.sys.fuses ∧ (State.fuseStart s i p unlock slot program).mem = s.mem := by simp
        [State.fuseStart]

@[simp] theorem State.writeFusePgm_kept (s : State) (i : Initiator) (p : Priv) (v : Word) :
    (State.writeFusePgm s i p v).pending = s.pending ∧ (State.writeFusePgm s i p v).sys.fuses = s.sys.fuses ∧
        (State.writeFusePgm s i p v).mem = s.mem := by simp [State.writeFusePgm]

@[simp] theorem State.withMain_kept (s : State) (mv : Nat) :
    (State.withMain s mv).pending = s.pending ∧ (State.withMain s mv).sys.fuses = s.sys.fuses ∧ (State.withMain s
        mv).mem = s.mem := by simp [State.withMain]

/-! ### What the meanings leave alone -/

theorem execKenulSlotCheck_kept (slotB : Bool) (img : Nat) (readErr : Bool) (s : State) :
    ∃ u1, execKenulSlotCheck slotB img readErr s = .next u1 ∧ u1.pending = s.pending ∧ u1.sys.fuses = s.sys.fuses :=
        by
  simp only [execKenulSlotCheck, ok]
  (repeat' split) <;> first
      | exact ⟨_, rfl, by simp, by simp⟩ | (refine ⟨_, rfl, ?_, ?_⟩ <;> (repeat' split) <;> simp_all)

theorem execKenulApply_kept (s : State) :
    ∃ u1, execKenulApply s = .next u1 ∧ u1.pending = s.pending ∧ u1.sys.fuses = s.sys.fuses := by
  unfold execKenulApply
  (repeat' split) <;> exact ⟨_, rfl, by simp, by simp⟩

theorem execLoaderCheck_kept (img : Nat) (readErr : Bool) (s : State) :
    ∃ u1, execLoaderCheck img readErr s = .next u1 ∧ u1.pending = s.pending ∧ u1.sys.fuses = s.sys.fuses := by
  simp only [execLoaderCheck, ok]
  (repeat' split) <;> first
      | exact ⟨_, rfl, by simp, by simp⟩ | (refine ⟨_, rfl, ?_, ?_⟩ <;> (repeat' split) <;> simp_all)

theorem execFuseProgram_kept (i : Initiator) (p : Priv) (unlock : Nat) (slot : Fin 4) (mainMv : Nat) (s : State) :
    ∃ u1, execFuseProgram i p unlock slot mainMv s = .next u1 ∧ u1.pending = s.pending ∧ u1.sys.fuses = s.sys.fuses
        := by
  unfold execFuseProgram
  exact ⟨_, rfl, by simp, by simp⟩

theorem execFuseRevoke_kept (i : Initiator) (p : Priv) (unlock : Nat) (slot : Fin 4) (mainMv : Nat) (s : State) :
    ∃ u1, execFuseRevoke i p unlock slot mainMv s = .next u1 ∧ u1.pending = s.pending ∧ u1.sys.fuses = s.sys.fuses
        := by
  unfold execFuseRevoke
  exact ⟨_, rfl, by simp, by simp⟩

theorem execFuseOpDone_kept (matched : Bool) (s : State) :
    ∃ u1, execFuseOpDone matched s = .next u1 ∧ u1.pending = s.pending ∧ True := by
  unfold execFuseOpDone
  (repeat' split) <;> exact ⟨_, rfl, by simp, by simp⟩

/-! ### Memory stays canonical -/

theorem execKenulSlotCheck_memWf (slotB : Bool) (img : Nat) (readErr : Bool) (s : State) :
    ∃ u1, execKenulSlotCheck slotB img readErr s = .next u1 ∧ (Memory.wf s.mem = true → Memory.wf u1.mem = true) := by
  unfold execKenulSlotCheck
  dsimp only
  (repeat' split) <;> refine ⟨_, rfl, fun h => ?_⟩
  all_goals (repeat' first
      | with_reducible assumption | with_reducible apply State.hbmWrite_memWf | with_reducible apply foldl_memWf
      | (intro t a ha) | split | simp)

theorem execKenulApply_memWf (s : State) :
    ∃ u1, execKenulApply s = .next u1 ∧ (Memory.wf s.mem = true → Memory.wf u1.mem = true) := by
  unfold execKenulApply
  (repeat' split) <;> refine ⟨_, rfl, fun h => ?_⟩
  all_goals (repeat' first
      | with_reducible assumption | with_reducible apply foldl_memWf | (intro t a ha) | split | simp)

theorem State.handOff_memWf (s : State) (img : Nat) (h : Memory.wf s.mem = true) :
    Memory.wf (State.handOff s img).mem = true := by
  unfold State.handOff
  repeat' first
      | with_reducible assumption | with_reducible apply store_memWf | with_reducible apply foldl_memWf
      | (intro t a ha) | split | simp

theorem execLoaderCheck_memWf (img : Nat) (readErr : Bool) (s : State) :
    ∃ u1, execLoaderCheck img readErr s = .next u1 ∧ (Memory.wf s.mem = true → Memory.wf u1.mem = true) := by
  unfold execLoaderCheck
  dsimp only
  (repeat' split) <;> refine ⟨_, rfl, fun h => ?_⟩
  all_goals (repeat' first
      | with_reducible assumption | with_reducible apply State.handOff_memWf | with_reducible apply foldl_memWf
      | (intro t a ha) | split | simp)

theorem execFuseProgram_memWf (i : Initiator) (p : Priv) (unlock : Nat) (slot : Fin 4) (mainMv : Nat) (s : State) :
    ∃ u1, execFuseProgram i p unlock slot mainMv s = .next u1 ∧ (Memory.wf s.mem = true → Memory.wf u1.mem = true)
        := by
  unfold execFuseProgram
  (repeat' split) <;> refine ⟨_, rfl, fun h => ?_⟩
  all_goals (repeat' first
      | with_reducible assumption | with_reducible apply foldl_memWf | (intro t a ha) | split | simp)

theorem execFuseRevoke_memWf (i : Initiator) (p : Priv) (unlock : Nat) (slot : Fin 4) (mainMv : Nat) (s : State) :
    ∃ u1, execFuseRevoke i p unlock slot mainMv s = .next u1 ∧ (Memory.wf s.mem = true → Memory.wf u1.mem = true) :=
        by
  unfold execFuseRevoke
  (repeat' split) <;> refine ⟨_, rfl, fun h => ?_⟩
  all_goals (repeat' first
      | with_reducible assumption | with_reducible apply foldl_memWf | (intro t a ha) | split | simp)

theorem execFuseOpDone_memWf (matched : Bool) (s : State) :
    ∃ u1, execFuseOpDone matched s = .next u1 ∧ (Memory.wf s.mem = true → Memory.wf u1.mem = true) := by
  unfold execFuseOpDone
  (repeat' split) <;> refine ⟨_, rfl, fun h => ?_⟩
  all_goals (repeat' first
      | with_reducible assumption | with_reducible apply foldl_memWf | (intro t a ha) | split | simp)

end Sys2Proof.Machine
end

