-- ==== Sys2Proof/Laws/FrameFramer.lean ====
section
/-!
SUPPORT. Sys2Proof/Laws/FrameFramer.lean: what each operation and meaning of Machine/Framer.lean leaves alone: the command queue, the
fuses, and memory, or its canonical form where the operation may write memory.
-/

namespace Sys2Proof.Machine

/-! ### What the operations leave alone -/

@[simp] theorem State.msGood_kept (s : State) (m n : Nat) :
    (State.msGood s m n).pending = s.pending ∧ (State.msGood s m n).sys.fuses = s.sys.fuses := by simp [State.msGood]

@[simp] theorem State.msBad_kept (s : State) (m : Nat) :
    (State.msBad s m).pending = s.pending ∧ (State.msBad s m).sys.fuses = s.sys.fuses ∧ (State.msBad s m).mem =
        s.mem := by simp [State.msBad]

@[simp] theorem State.msSample_kept (s : State) (m : Nat) (clock : Int) :
    (State.msSample s m clock).pending = s.pending ∧ (State.msSample s m clock).sys.fuses = s.sys.fuses := by
  simp only [State.msSample]
  repeat' split
  all_goals simp_all

@[simp] theorem State.takePlace_kept (s : State) (n track sector age : Nat) :
    (State.takePlace s n track sector age).pending = s.pending ∧ (State.takePlace s n track sector age).sys.fuses =
        s.sys.fuses := by
  unfold State.takePlace
  repeat' split
  all_goals simp

@[simp] theorem State.clrSector_kept (s : State) (n sector age : Nat) :
    (State.clrSector s n sector age).pending = s.pending ∧ (State.clrSector s n sector age).sys.fuses = s.sys.fuses
        ∧ (State.clrSector s n sector age).mem = s.mem := by simp [State.clrSector]

@[simp] theorem State.framePos_kept (s : State) (n track sector age : Nat) :
    (State.framePos s n track sector age).pending = s.pending ∧ (State.framePos s n track sector age).sys.fuses =
        s.sys.fuses ∧ (State.framePos s n track sector age).mem = s.mem := by simp [State.framePos]

@[simp] theorem State.writeReframe_kept (s : State) (i : Initiator) (n : Nat) (v : Word) :
    (State.writeReframe s i n v).pending = s.pending ∧ (State.writeReframe s i n v).sys.fuses = s.sys.fuses := by
        simp [State.writeReframe]

@[simp] theorem State.reframe_kept (s : State) (n track sector age base : Nat) (relax : Bool) (shift : Int) :
    (State.reframe s n track sector age base relax shift).pending = s.pending ∧ (State.reframe s n track sector age
        base relax shift).sys.fuses = s.sys.fuses := by simp [State.reframe]

@[simp] theorem State.reframeArrived_kept (s : State) (n : Nat) :
    (State.reframeArrived s n).pending = s.pending ∧ (State.reframeArrived s n).sys.fuses = s.sys.fuses := by
  unfold State.reframeArrived
  repeat' split
  all_goals simp

/-! ### What the meanings leave alone -/

theorem execMilestoneReferenceSample_kept (m : Fin 12) (clock : Int) (s : State) :
    ∃ u1, execMilestoneReferenceSample m clock s = .next u1 ∧ u1.pending = s.pending ∧ u1.sys.fuses = s.sys.fuses :=
        by
  unfold execMilestoneReferenceSample
  (repeat' split) <;> exact ⟨_, rfl, by simp, by simp⟩

theorem execMilestoneHoldoverExpiry_kept (m : Fin 12) (s : State) :
    ∃ u1, execMilestoneHoldoverExpiry m s = .next u1 ∧ u1.pending = s.pending ∧ u1.sys.fuses = s.sys.fuses := by
  unfold execMilestoneHoldoverExpiry
  (repeat' split) <;> exact ⟨_, rfl, by simp, by simp⟩

theorem execMilestoneZoneChange_kept (m : Fin 12) (s : State) :
    ∃ u1, execMilestoneZoneChange m s = .next u1 ∧ u1.pending = s.pending ∧ u1.sys.fuses = s.sys.fuses := by
  unfold execMilestoneZoneChange
  exact ⟨_, rfl, by simp, by simp⟩

theorem execSectorFramed_kept (n : Fin 8) (live : Bool) (track sector age : Nat) (s : State) :
    ∃ u1, execSectorFramed n live track sector age s = .next u1 ∧ u1.pending = s.pending ∧ u1.sys.fuses =
        s.sys.fuses := by
  simp only [execSectorFramed, ok]
  (repeat' split) <;> first
      | exact ⟨_, rfl, by simp, by simp⟩ | (refine ⟨_, rfl, ?_, ?_⟩ <;> (repeat' split) <;> simp_all)

theorem execReframe_kept (i : Initiator) (n : Fin 8) (v : Word) (s : State) :
    ∃ u1, execReframe i n v s = .next u1 ∧ u1.pending = s.pending ∧ u1.sys.fuses = s.sys.fuses := by
  unfold execReframe
  exact ⟨_, rfl, by simp, by simp⟩

theorem execReframeDone_kept (n : Fin 8) (s : State) :
    ∃ u1, execReframeDone n s = .next u1 ∧ u1.pending = s.pending ∧ u1.sys.fuses = s.sys.fuses := by
  simp only [execReframeDone, ok]
  (repeat' split) <;> first
      | exact ⟨_, rfl, by simp, by simp⟩ | (refine ⟨_, rfl, ?_, ?_⟩ <;> (repeat' split) <;> simp_all)

theorem execReplayEnd_kept (n : Fin 8) (s : State) :
    ∃ u1, execReplayEnd n s = .next u1 ∧ u1.pending = s.pending ∧ u1.sys.fuses = s.sys.fuses := by
  unfold execReplayEnd
  (repeat' split) <;> exact ⟨_, rfl, by simp, by simp⟩

/-! ### Memory stays canonical -/

theorem State.msGood_memWf (s : State) (m n : Nat) (h : Memory.wf s.mem = true) :
    Memory.wf (State.msGood s m n).mem = true := by
  unfold State.msGood
  repeat' first
      | with_reducible assumption | with_reducible apply State.msEnter_memWf | with_reducible apply foldl_memWf
      | (intro t a ha) | split | simp

theorem State.msSample_memWf (s : State) (m : Nat) (clock : Int) (h : Memory.wf s.mem = true) :
    Memory.wf (State.msSample s m clock).mem = true := by
  unfold State.msSample
  repeat' first
      | with_reducible assumption | with_reducible apply State.msEnter_memWf
      | with_reducible apply State.msGood_memWf | with_reducible apply foldl_memWf | (intro t a ha) | split | simp

theorem execMilestoneReferenceSample_memWf (m : Fin 12) (clock : Int) (s : State) :
    ∃ u1, execMilestoneReferenceSample m clock s = .next u1 ∧ (Memory.wf s.mem = true → Memory.wf u1.mem = true) := by
  unfold execMilestoneReferenceSample
  (repeat' split) <;> refine ⟨_, rfl, fun h => ?_⟩
  all_goals (repeat' first
      | with_reducible assumption | with_reducible apply State.msSample_memWf | with_reducible apply foldl_memWf
      | (intro t a ha) | split | simp)

theorem execMilestoneHoldoverExpiry_memWf (m : Fin 12) (s : State) :
    ∃ u1, execMilestoneHoldoverExpiry m s = .next u1 ∧ (Memory.wf s.mem = true → Memory.wf u1.mem = true) := by
  unfold execMilestoneHoldoverExpiry
  (repeat' split) <;> refine ⟨_, rfl, fun h => ?_⟩
  all_goals (repeat' first
      | with_reducible assumption | with_reducible apply State.msEnter_memWf | with_reducible apply foldl_memWf
      | (intro t a ha) | split | simp)

theorem execMilestoneZoneChange_memWf (m : Fin 12) (s : State) :
    ∃ u1, execMilestoneZoneChange m s = .next u1 ∧ (Memory.wf s.mem = true → Memory.wf u1.mem = true) := by
  unfold execMilestoneZoneChange
  (repeat' split) <;> refine ⟨_, rfl, fun h => ?_⟩
  all_goals (repeat' first
      | with_reducible assumption | with_reducible apply State.msRetune_memWf | with_reducible apply foldl_memWf
      | (intro t a ha) | split | simp)

theorem State.takePlace_memWf (s : State) (n track sector age : Nat) (h : Memory.wf s.mem = true) :
    Memory.wf (State.takePlace s n track sector age).mem = true := by
  unfold State.takePlace
  repeat' first
      | with_reducible assumption | with_reducible apply State.insertMark_memWf | with_reducible apply foldl_memWf
      | (intro t a ha) | split | simp

theorem execSectorFramed_memWf (n : Fin 8) (live : Bool) (track sector age : Nat) (s : State) :
    ∃ u1, execSectorFramed n live track sector age s = .next u1 ∧ (Memory.wf s.mem = true → Memory.wf u1.mem = true)
        := by
  unfold execSectorFramed
  dsimp only
  (repeat' split) <;> refine ⟨_, rfl, fun h => ?_⟩
  all_goals (repeat' first
      | with_reducible assumption | with_reducible apply State.reframe_memWf
      | with_reducible apply State.takePlace_memWf | with_reducible apply foldl_memWf | (intro t a ha) | split
      | simp)

theorem State.writeReframe_memWf (s : State) (i : Initiator) (n : Nat) (v : Word) (h : Memory.wf s.mem = true) :
    Memory.wf (State.writeReframe s i n v).mem = true := by
  unfold State.writeReframe
  repeat' first
      | with_reducible assumption | with_reducible apply State.reframe_memWf | with_reducible apply foldl_memWf
      | (intro t a ha) | split | simp

theorem execReframe_memWf (i : Initiator) (n : Fin 8) (v : Word) (s : State) :
    ∃ u1, execReframe i n v s = .next u1 ∧ (Memory.wf s.mem = true → Memory.wf u1.mem = true) := by
  unfold execReframe
  (repeat' split) <;> refine ⟨_, rfl, fun h => ?_⟩
  all_goals (repeat' first
      | with_reducible assumption | with_reducible apply State.writeReframe_memWf
      | with_reducible apply foldl_memWf | (intro t a ha) | split | simp)

theorem State.reframe_memWf (s : State) (n track sector age base : Nat) (relax : Bool) (shift : Int) (h : Memory.wf
    s.mem = true) :
    Memory.wf (State.reframe s n track sector age base relax shift).mem = true := by
  unfold State.reframe
  repeat' first
      | with_reducible assumption | with_reducible apply State.ladderFramed_memWf
      | with_reducible apply foldl_memWf | (intro t a ha) | split | simp

theorem State.reframeArrived_memWf (s : State) (n : Nat) (h : Memory.wf s.mem = true) :
    Memory.wf (State.reframeArrived s n).mem = true := by
  unfold State.reframeArrived
  repeat' first
      | with_reducible assumption | with_reducible apply State.reframe_memWf | with_reducible apply foldl_memWf
      | (intro t a ha) | split | simp

theorem execReframeDone_memWf (n : Fin 8) (s : State) :
    ∃ u1, execReframeDone n s = .next u1 ∧ (Memory.wf s.mem = true → Memory.wf u1.mem = true) := by
  unfold execReframeDone
  (repeat' split) <;> refine ⟨_, rfl, fun h => ?_⟩
  all_goals (repeat' first
      | with_reducible assumption | with_reducible apply State.reframeArrived_memWf
      | with_reducible apply foldl_memWf | (intro t a ha) | split | simp)

theorem execReplayEnd_memWf (n : Fin 8) (s : State) :
    ∃ u1, execReplayEnd n s = .next u1 ∧ (Memory.wf s.mem = true → Memory.wf u1.mem = true) := by
  unfold execReplayEnd
  (repeat' split) <;> refine ⟨_, rfl, fun h => ?_⟩
  all_goals (repeat' first
      | with_reducible assumption | with_reducible apply State.endReplay_memWf
      | with_reducible apply State.ladderMissed_memWf | with_reducible apply State.reframeArrived_memWf
      | with_reducible apply foldl_memWf | (intro t a ha) | split | simp)

end Sys2Proof.Machine
end

