-- ==== Sys2Proof/Laws/FrameLode.lean ====
section
/-!
SUPPORT. Sys2Proof/Laws/FrameLode.lean: what each operation and meaning of Machine/Lode.lean leaves alone: the command queue, the
fuses, and memory, or its canonical form where the operation may write memory.
-/

namespace Sys2Proof.Machine

/-! ### What the operations leave alone -/

@[simp] theorem State.writeWcSel_kept (s : State) (i : Initiator) (a : Nat) (v : Word) :
    (State.writeWcSel s i a v).pending = s.pending ∧ (State.writeWcSel s i a v).sys.fuses = s.sys.fuses := by
  simp only [State.writeWcSel]
  repeat' split
  all_goals simp_all

@[simp] theorem State.writeWcCtl_kept (s : State) (i : Initiator) (a : Nat) (v : Word) :
    (State.writeWcCtl s i a v).pending = s.pending ∧ (State.writeWcCtl s i a v).sys.fuses = s.sys.fuses ∧
        (State.writeWcCtl s i a v).mem = s.mem := by simp [State.writeWcCtl]

@[simp] theorem State.requestGate_kept (s : State) (a : Nat) :
    (State.requestGate s a).pending = s.pending ∧ (State.requestGate s a).sys.fuses = s.sys.fuses ∧
        (State.requestGate s a).mem = s.mem := by simp [State.requestGate]

/-! ### What the meanings leave alone -/

theorem execAdcCalComplete_kept (n : Fin 8) (s : State) :
    ∃ u1, execAdcCalComplete n s = .next u1 ∧ u1.pending = s.pending ∧ u1.sys.fuses = s.sys.fuses := by
  unfold execAdcCalComplete
  (repeat' split) <;> exact ⟨_, rfl, by simp, by simp⟩

theorem execAdcTrimOutOfRange_kept (n : Fin 8) (s : State) :
    ∃ u1, execAdcTrimOutOfRange n s = .next u1 ∧ u1.pending = s.pending ∧ u1.sys.fuses = s.sys.fuses := by
  unfold execAdcTrimOutOfRange
  (repeat' split) <;> exact ⟨_, rfl, by simp, by simp⟩

theorem execHeadZoneSelect_kept (i : Initiator) (n : Fin 8) (v : Word) (s : State) :
    ∃ u1, execHeadZoneSelect i n v s = .next u1 ∧ u1.pending = s.pending ∧ u1.sys.fuses = s.sys.fuses := by
  unfold execHeadZoneSelect
  exact ⟨_, rfl, by simp, by simp⟩

theorem execSourceSelect_kept (i : Initiator) (n : Fin 8) (v : Word) (s : State) :
    ∃ u1, execSourceSelect i n v s = .next u1 ∧ u1.pending = s.pending ∧ u1.sys.fuses = s.sys.fuses := by
  unfold execSourceSelect
  exact ⟨_, rfl, by simp, by simp⟩

theorem execTaEventStart_kept (n : Fin 8) (s : State) :
    ∃ u1, execTaEventStart n s = .next u1 ∧ u1.pending = s.pending ∧ u1.sys.fuses = s.sys.fuses := by
  unfold execTaEventStart
  (repeat' split) <;> exact ⟨_, rfl, by simp, by simp⟩

theorem execTaEventEnd_kept (n : Fin 8) (s : State) :
    ∃ u1, execTaEventEnd n s = .next u1 ∧ u1.pending = s.pending ∧ u1.sys.fuses = s.sys.fuses := by
  unfold execTaEventEnd
  exact ⟨_, rfl, by simp, by simp⟩

theorem execFreezeAssert_kept (n : Fin 8) (src : Fin 6) (active : Bool) (s : State) :
    ∃ u1, execFreezeAssert n src active s = .next u1 ∧ u1.pending = s.pending ∧ u1.sys.fuses = s.sys.fuses := by
  unfold execFreezeAssert
  (repeat' split) <;> exact ⟨_, rfl, by simp, by simp⟩

theorem execFreezeTailExpiry_kept (n : Fin 8) (s : State) :
    ∃ u1, execFreezeTailExpiry n s = .next u1 ∧ u1.pending = s.pending ∧ u1.sys.fuses = s.sys.fuses := by
  unfold execFreezeTailExpiry
  exact ⟨_, rfl, by simp, by simp⟩

theorem execClearanceResult_kept (n : Fin 8) (s : State) :
    ∃ u1, execClearanceResult n s = .next u1 ∧ u1.pending = s.pending ∧ u1.sys.fuses = s.sys.fuses := by
  simp only [execClearanceResult, ok]
  (repeat' split) <;> first
      | exact ⟨_, rfl, by simp, by simp⟩ | (refine ⟨_, rfl, ?_, ?_⟩ <;> (repeat' split) <;> simp_all)

theorem execWriteChannelSelect_kept (i : Initiator) (a : Fin 4) (v : Word) (s : State) :
    ∃ u1, execWriteChannelSelect i a v s = .next u1 ∧ u1.pending = s.pending ∧ u1.sys.fuses = s.sys.fuses := by
  unfold execWriteChannelSelect
  exact ⟨_, rfl, by simp, by simp⟩

theorem execWriteHeatRequest_kept (i : Initiator) (a : Fin 4) (v : Word) (s : State) :
    ∃ u1, execWriteHeatRequest i a v s = .next u1 ∧ u1.pending = s.pending ∧ u1.sys.fuses = s.sys.fuses := by
  unfold execWriteHeatRequest
  exact ⟨_, rfl, by simp, by simp⟩

theorem execGateRequest_kept (a : Fin 4) (s : State) :
    ∃ u1, execGateRequest a s = .next u1 ∧ u1.pending = s.pending ∧ u1.sys.fuses = s.sys.fuses := by
  unfold execGateRequest
  exact ⟨_, rfl, by simp, by simp⟩

theorem execHeatTimeout_kept (a : Fin 4) (s : State) :
    ∃ u1, execHeatTimeout a s = .next u1 ∧ u1.pending = s.pending ∧ u1.sys.fuses = s.sys.fuses := by
  unfold execHeatTimeout
  (repeat' split) <;> exact ⟨_, rfl, by simp, by simp⟩

theorem execGateDrop_kept (a : Fin 4) (s : State) :
    ∃ u1, execGateDrop a s = .next u1 ∧ u1.pending = s.pending ∧ u1.sys.fuses = s.sys.fuses := by
  unfold execGateDrop
  (repeat' split) <;> exact ⟨_, rfl, by simp, by simp⟩

theorem execGateConditionLost_kept (a : Fin 4) (s : State) :
    ∃ u1, execGateConditionLost a s = .next u1 ∧ u1.pending = s.pending ∧ u1.sys.fuses = s.sys.fuses := by
  unfold execGateConditionLost
  exact ⟨_, rfl, by simp, by simp⟩

theorem execWriteUnderrun_kept (a : Fin 4) (s : State) :
    ∃ u1, execWriteUnderrun a s = .next u1 ∧ u1.pending = s.pending ∧ u1.sys.fuses = s.sys.fuses := by
  unfold execWriteUnderrun
  (repeat' split) <;> exact ⟨_, rfl, by simp, by simp⟩

theorem execSliceClock_kept (n : Fin 8) (a b : List Int) (s : State) :
    ∃ u1, execSliceClock n a b s = .next u1 ∧ u1.pending = s.pending ∧ u1.sys.fuses = s.sys.fuses := by
  unfold execSliceClock
  (repeat' split) <;> exact ⟨_, rfl, by simp, by simp⟩

/-! ### Memory stays canonical -/

theorem execAdcCalComplete_memWf (n : Fin 8) (s : State) :
    ∃ u1, execAdcCalComplete n s = .next u1 ∧ (Memory.wf s.mem = true → Memory.wf u1.mem = true) := by
  unfold execAdcCalComplete
  (repeat' split) <;> refine ⟨_, rfl, fun h => ?_⟩
  all_goals (repeat' first
      | with_reducible assumption | with_reducible apply foldl_memWf | (intro t a ha) | split | simp)

theorem execAdcTrimOutOfRange_memWf (n : Fin 8) (s : State) :
    ∃ u1, execAdcTrimOutOfRange n s = .next u1 ∧ (Memory.wf s.mem = true → Memory.wf u1.mem = true) := by
  unfold execAdcTrimOutOfRange
  (repeat' split) <;> refine ⟨_, rfl, fun h => ?_⟩
  all_goals (repeat' first
      | with_reducible assumption | with_reducible apply foldl_memWf | (intro t a ha) | split | simp)

theorem execHeadZoneSelect_memWf (i : Initiator) (n : Fin 8) (v : Word) (s : State) :
    ∃ u1, execHeadZoneSelect i n v s = .next u1 ∧ (Memory.wf s.mem = true → Memory.wf u1.mem = true) := by
  unfold execHeadZoneSelect
  (repeat' split) <;> refine ⟨_, rfl, fun h => ?_⟩
  all_goals (repeat' first
      | with_reducible assumption | with_reducible apply State.writeLdSel_memWf | with_reducible apply foldl_memWf
      | (intro t a ha) | split | simp)

theorem execSourceSelect_memWf (i : Initiator) (n : Fin 8) (v : Word) (s : State) :
    ∃ u1, execSourceSelect i n v s = .next u1 ∧ (Memory.wf s.mem = true → Memory.wf u1.mem = true) := by
  unfold execSourceSelect
  (repeat' split) <;> refine ⟨_, rfl, fun h => ?_⟩
  all_goals (repeat' first
      | with_reducible assumption | with_reducible apply State.writeLdCfg_memWf | with_reducible apply foldl_memWf
      | (intro t a ha) | split | simp)

theorem execTaEventStart_memWf (n : Fin 8) (s : State) :
    ∃ u1, execTaEventStart n s = .next u1 ∧ (Memory.wf s.mem = true → Memory.wf u1.mem = true) := by
  unfold execTaEventStart
  (repeat' split) <;> refine ⟨_, rfl, fun h => ?_⟩
  all_goals (repeat' first
      | with_reducible assumption | with_reducible apply foldl_memWf | (intro t a ha) | split | simp)

theorem execTaEventEnd_memWf (n : Fin 8) (s : State) :
    ∃ u1, execTaEventEnd n s = .next u1 ∧ (Memory.wf s.mem = true → Memory.wf u1.mem = true) := by
  unfold execTaEventEnd
  (repeat' split) <;> refine ⟨_, rfl, fun h => ?_⟩
  all_goals (repeat' first
      | with_reducible assumption | with_reducible apply foldl_memWf | (intro t a ha) | split | simp)

theorem execFreezeAssert_memWf (n : Fin 8) (src : Fin 6) (active : Bool) (s : State) :
    ∃ u1, execFreezeAssert n src active s = .next u1 ∧ (Memory.wf s.mem = true → Memory.wf u1.mem = true) := by
  unfold execFreezeAssert
  (repeat' split) <;> refine ⟨_, rfl, fun h => ?_⟩
  all_goals (repeat' first
      | with_reducible assumption | with_reducible apply foldl_memWf | (intro t a ha) | split | simp)

theorem execFreezeTailExpiry_memWf (n : Fin 8) (s : State) :
    ∃ u1, execFreezeTailExpiry n s = .next u1 ∧ (Memory.wf s.mem = true → Memory.wf u1.mem = true) := by
  unfold execFreezeTailExpiry
  (repeat' split) <;> refine ⟨_, rfl, fun h => ?_⟩
  all_goals (repeat' first
      | with_reducible assumption | with_reducible apply foldl_memWf | (intro t a ha) | split | simp)

theorem execClearanceResult_memWf (n : Fin 8) (s : State) :
    ∃ u1, execClearanceResult n s = .next u1 ∧ (Memory.wf s.mem = true → Memory.wf u1.mem = true) := by
  unfold execClearanceResult
  dsimp only
  (repeat' split) <;> refine ⟨_, rfl, fun h => ?_⟩
  all_goals (repeat' first
      | with_reducible assumption | with_reducible apply foldl_memWf | (intro t a ha) | split | simp)

theorem State.writeWcSel_memWf (s : State) (i : Initiator) (a : Nat) (v : Word) (h : Memory.wf s.mem = true) :
    Memory.wf (State.writeWcSel s i a v).mem = true := by
  unfold State.writeWcSel
  repeat' first
      | with_reducible assumption | with_reducible apply State.msRetune_memWf | with_reducible apply foldl_memWf
      | (intro t a ha) | split | simp

theorem execWriteChannelSelect_memWf (i : Initiator) (a : Fin 4) (v : Word) (s : State) :
    ∃ u1, execWriteChannelSelect i a v s = .next u1 ∧ (Memory.wf s.mem = true → Memory.wf u1.mem = true) := by
  unfold execWriteChannelSelect
  (repeat' split) <;> refine ⟨_, rfl, fun h => ?_⟩
  all_goals (repeat' first
      | with_reducible assumption | with_reducible apply State.writeWcSel_memWf | with_reducible apply foldl_memWf
      | (intro t a ha) | split | simp)

theorem execWriteHeatRequest_memWf (i : Initiator) (a : Fin 4) (v : Word) (s : State) :
    ∃ u1, execWriteHeatRequest i a v s = .next u1 ∧ (Memory.wf s.mem = true → Memory.wf u1.mem = true) := by
  unfold execWriteHeatRequest
  (repeat' split) <;> refine ⟨_, rfl, fun h => ?_⟩
  all_goals (repeat' first
      | with_reducible assumption | with_reducible apply foldl_memWf | (intro t a ha) | split | simp)

theorem execGateRequest_memWf (a : Fin 4) (s : State) :
    ∃ u1, execGateRequest a s = .next u1 ∧ (Memory.wf s.mem = true → Memory.wf u1.mem = true) := by
  unfold execGateRequest
  (repeat' split) <;> refine ⟨_, rfl, fun h => ?_⟩
  all_goals (repeat' first
      | with_reducible assumption | with_reducible apply foldl_memWf | (intro t a ha) | split | simp)

theorem execHeatTimeout_memWf (a : Fin 4) (s : State) :
    ∃ u1, execHeatTimeout a s = .next u1 ∧ (Memory.wf s.mem = true → Memory.wf u1.mem = true) := by
  unfold execHeatTimeout
  (repeat' split) <;> refine ⟨_, rfl, fun h => ?_⟩
  all_goals (repeat' first
      | with_reducible assumption | with_reducible apply foldl_memWf | (intro t a ha) | split | simp)

theorem execGateDrop_memWf (a : Fin 4) (s : State) :
    ∃ u1, execGateDrop a s = .next u1 ∧ (Memory.wf s.mem = true → Memory.wf u1.mem = true) := by
  unfold execGateDrop
  (repeat' split) <;> refine ⟨_, rfl, fun h => ?_⟩
  all_goals (repeat' first
      | with_reducible assumption | with_reducible apply foldl_memWf | (intro t a ha) | split | simp)

theorem execGateConditionLost_memWf (a : Fin 4) (s : State) :
    ∃ u1, execGateConditionLost a s = .next u1 ∧ (Memory.wf s.mem = true → Memory.wf u1.mem = true) := by
  unfold execGateConditionLost
  (repeat' split) <;> refine ⟨_, rfl, fun h => ?_⟩
  all_goals (repeat' first
      | with_reducible assumption | with_reducible apply foldl_memWf | (intro t a ha) | split | simp)

theorem execWriteUnderrun_memWf (a : Fin 4) (s : State) :
    ∃ u1, execWriteUnderrun a s = .next u1 ∧ (Memory.wf s.mem = true → Memory.wf u1.mem = true) := by
  unfold execWriteUnderrun
  (repeat' split) <;> refine ⟨_, rfl, fun h => ?_⟩
  all_goals (repeat' first
      | with_reducible assumption | with_reducible apply foldl_memWf | (intro t a ha) | split | simp)

theorem execSliceClock_memWf (n : Fin 8) (a b : List Int) (s : State) :
    ∃ u1, execSliceClock n a b s = .next u1 ∧ (Memory.wf s.mem = true → Memory.wf u1.mem = true) := by
  unfold execSliceClock
  (repeat' split) <;> refine ⟨_, rfl, fun h => ?_⟩
  all_goals (repeat' first
      | with_reducible assumption | with_reducible apply State.sliceClock_memWf | with_reducible apply foldl_memWf
      | (intro t a ha) | split | simp)

end Sys2Proof.Machine
end

