-- ==== Sys2Proof/Laws/FrameHostCmd.lean ====
section
/-!
SUPPORT. Sys2Proof/Laws/FrameHostCmd.lean: what each operation and meaning of Machine/HostCmd.lean leaves alone: the command queue, the
fuses, and memory, or its canonical form where the operation may write memory.
-/

namespace Sys2Proof.Machine

/-! ### What the operations leave alone -/

@[simp] theorem State.finish_kept (s : State) (k st : Nat) :
    (State.finish s k st).pending = s.pending ∧ (State.finish s k st).sys.fuses = s.sys.fuses ∧ (State.finish s k
        st).mem = s.mem := by simp [State.finish]

@[simp] theorem State.finishData_kept (s : State) (k : Nat) (data : List Nat) :
    (State.finishData s k data).pending = s.pending ∧ (State.finishData s k data).sys.fuses = s.sys.fuses ∧
        (State.finishData s k data).mem = s.mem := by simp [State.finishData]

@[simp] theorem State.passOn_kept (s : State) (k : Nat) :
    (State.passOn s k).pending = s.pending ∧ (State.passOn s k).sys.fuses = s.sys.fuses ∧ (State.passOn s k).mem =
        s.mem := by simp [State.passOn]

@[simp] theorem State.hostCmd_pending (s : State) (k : Nat) (o : OpSet) (f : State → State)
    (h : ∀ t, (f t).pending = t.pending) : (s.hostCmd k o f).pending = s.pending := by
  unfold State.hostCmd
  split <;> simp [h]

@[simp] theorem State.hostCmd_fuses (s : State) (k : Nat) (o : OpSet) (f : State → State)
    (h : ∀ t, (f t).sys.fuses = t.sys.fuses) : (s.hostCmd k o f).sys.fuses = s.sys.fuses := by
  unfold State.hostCmd
  split <;> simp [h]

@[simp] theorem State.hostCmd_mem (s : State) (k : Nat) (o : OpSet) (f : State → State)
    (h : ∀ t, (f t).mem = t.mem) : (s.hostCmd k o f).mem = s.mem := by
  unfold State.hostCmd
  split <;> simp [h]


@[simp] theorem State.tenantCmd_pending (s : State) (k : Nat) (o : OpSet) (f : State → State)
    (h : ∀ t, (f t).pending = t.pending) : (s.tenantCmd k o f).pending = s.pending := by
  unfold State.tenantCmd
  apply State.hostCmd_pending
  intro t
  try dsimp only
  repeat' split
  all_goals simp [h]

@[simp] theorem State.tenantCmd_fuses (s : State) (k : Nat) (o : OpSet) (f : State → State)
    (h : ∀ t, (f t).sys.fuses = t.sys.fuses) : (s.tenantCmd k o f).sys.fuses = s.sys.fuses := by
  unfold State.tenantCmd
  apply State.hostCmd_fuses
  intro t
  try dsimp only
  repeat' split
  all_goals simp [h]

@[simp] theorem State.tenantCmd_mem (s : State) (k : Nat) (o : OpSet) (f : State → State)
    (h : ∀ t, (f t).mem = t.mem) : (s.tenantCmd k o f).mem = s.mem := by
  unfold State.tenantCmd
  apply State.hostCmd_mem
  intro t
  try dsimp only
  repeat' split
  all_goals simp [h]


@[simp] theorem State.reservedCmd_pending (s : State) (k : Nat) (o : OpSet) (write : Bool) (f : State → State)
    (h : ∀ t, (f t).pending = t.pending) : (s.reservedCmd k o write f).pending = s.pending := by
  unfold State.reservedCmd
  apply State.tenantCmd_pending
  intro t
  split <;> simp [h]

@[simp] theorem State.reservedCmd_fuses (s : State) (k : Nat) (o : OpSet) (write : Bool) (f : State → State)
    (h : ∀ t, (f t).sys.fuses = t.sys.fuses) : (s.reservedCmd k o write f).sys.fuses = s.sys.fuses := by
  unfold State.reservedCmd
  apply State.tenantCmd_fuses
  intro t
  split <;> simp [h]

@[simp] theorem State.reservedCmd_mem (s : State) (k : Nat) (o : OpSet) (write : Bool) (f : State → State)
    (h : ∀ t, (f t).mem = t.mem) : (s.reservedCmd k o write f).mem = s.mem := by
  unfold State.reservedCmd
  apply State.tenantCmd_mem
  intro t
  split <;> simp [h]


@[simp] theorem State.mediaCmd_pending (s : State) (k : Nat) (o : OpSet) (write : Bool) (f : State → State)
    (h : ∀ t, (f t).pending = t.pending) : (s.mediaCmd k o write f).pending = s.pending := by
  unfold State.mediaCmd
  apply State.hostCmd_pending
  intro t
  try dsimp only
  repeat' split
  all_goals simp [h]

@[simp] theorem State.mediaCmd_fuses (s : State) (k : Nat) (o : OpSet) (write : Bool) (f : State → State)
    (h : ∀ t, (f t).sys.fuses = t.sys.fuses) : (s.mediaCmd k o write f).sys.fuses = s.sys.fuses := by
  unfold State.mediaCmd
  apply State.hostCmd_fuses
  intro t
  try dsimp only
  repeat' split
  all_goals simp [h]

@[simp] theorem State.mediaCmd_mem (s : State) (k : Nat) (o : OpSet) (write : Bool) (f : State → State)
    (h : ∀ t, (f t).mem = t.mem) : (s.mediaCmd k o write f).mem = s.mem := by
  unfold State.mediaCmd
  apply State.hostCmd_mem
  intro t
  try dsimp only
  repeat' split
  all_goals simp [h]


@[simp] theorem State.blockCmd_pending (s : State) (k : Nat) (o : OpSet) (write : Bool) (f : State → State)
    (h : ∀ t, (f t).pending = t.pending) : (s.blockCmd k o write f).pending = s.pending := by
  unfold State.blockCmd
  apply State.mediaCmd_pending
  intro t
  try dsimp only
  repeat' split
  all_goals simp [h]

@[simp] theorem State.blockCmd_fuses (s : State) (k : Nat) (o : OpSet) (write : Bool) (f : State → State)
    (h : ∀ t, (f t).sys.fuses = t.sys.fuses) : (s.blockCmd k o write f).sys.fuses = s.sys.fuses := by
  unfold State.blockCmd
  apply State.mediaCmd_fuses
  intro t
  try dsimp only
  repeat' split
  all_goals simp [h]

@[simp] theorem State.blockCmd_mem (s : State) (k : Nat) (o : OpSet) (write : Bool) (f : State → State)
    (h : ∀ t, (f t).mem = t.mem) : (s.blockCmd k o write f).mem = s.mem := by
  unfold State.blockCmd
  apply State.mediaCmd_mem
  intro t
  try dsimp only
  repeat' split
  all_goals simp [h]


@[simp] theorem State.withData_pending (s : State) (k slot : Nat) (cacheHit : Bool) (f : State → List Nat → State)
    (h : ∀ t d, (f t d).pending = t.pending) : (s.withData k slot cacheHit f).pending = s.pending := by
  unfold State.withData
  dsimp only
  repeat' split
  all_goals simp [h]

@[simp] theorem State.withData_fuses (s : State) (k slot : Nat) (cacheHit : Bool) (f : State → List Nat → State)
    (h : ∀ t d, (f t d).sys.fuses = t.sys.fuses) : (s.withData k slot cacheHit f).sys.fuses = s.sys.fuses := by
  unfold State.withData
  dsimp only
  repeat' split
  all_goals simp [h]

@[simp] theorem State.withData_mem (s : State) (k slot : Nat) (cacheHit : Bool) (f : State → List Nat → State)
    (h : ∀ t d, (f t d).mem = t.mem) : (s.withData k slot cacheHit f).mem = s.mem := by
  unfold State.withData
  dsimp only
  repeat' split
  all_goals simp [h]


@[simp] theorem State.readRange_kept (s : State) (k slot : Nat) (cacheHit : Bool) :
    (State.readRange s k slot cacheHit).pending = s.pending ∧ (State.readRange s k slot cacheHit).sys.fuses =
        s.sys.fuses ∧ (State.readRange s k slot cacheHit).mem = s.mem := by simp [State.readRange]

@[simp] theorem State.admitWrite_kept (s : State) (k cls link slot data : Nat) :
    (State.admitWrite s k cls link slot data).pending = s.pending ∧ (State.admitWrite s k cls link slot
        data).sys.fuses = s.sys.fuses ∧ (State.admitWrite s k cls link slot data).mem = s.mem := by simp
        [State.admitWrite]

@[simp] theorem State.flushCmd_kept (s : State) (k : Nat) (o : OpSet) :
    (State.flushCmd s k o).pending = s.pending ∧ (State.flushCmd s k o).sys.fuses = s.sys.fuses ∧ (State.flushCmd s
        k o).mem = s.mem := by
  unfold State.flushCmd
  refine ⟨State.reservedCmd_pending _ _ _ _ _ ?_, State.reservedCmd_fuses _ _ _ _ _ ?_, State.reservedCmd_mem _ _ _
      _ _ ?_⟩
  all_goals simp

@[simp] theorem State.release_kept (s : State) (t : Nat) (p : Key → Bool) :
    (State.release s t p).pending = s.pending ∧ (State.release s t p).sys.fuses = s.sys.fuses ∧ (State.release s t
        p).mem = s.mem := by simp [State.release]

@[simp] theorem State.setReservation_kept (s : State) (t : Nat) (r : Reservation) :
    (State.setReservation s t r).pending = s.pending ∧ (State.setReservation s t r).sys.fuses = s.sys.fuses ∧
        (State.setReservation s t r).mem = s.mem := by simp [State.setReservation]

/-! ### What the meanings leave alone -/

theorem execBlockRead_kept (k keySlot : Fin 65536) (cacheHit : Bool) (s : State) :
    ∃ u1, execBlockRead k keySlot cacheHit s = .next u1 ∧ u1.pending = s.pending ∧ u1.sys.fuses = s.sys.fuses := by
  unfold execBlockRead
  exact ⟨_, rfl, by simp, by simp⟩

theorem execBlockWrite_kept (k keySlot : Fin 65536) (data : Nat) (s : State) :
    ∃ u1, execBlockWrite k keySlot data s = .next u1 ∧ u1.pending = s.pending ∧ u1.sys.fuses = s.sys.fuses := by
  unfold execBlockWrite
  exact ⟨_, rfl, by simp, by simp⟩

theorem execNvmeFlush_kept (k : Fin 65536) (s : State) :
    ∃ u1, execNvmeFlush k s = .next u1 ∧ u1.pending = s.pending ∧ u1.sys.fuses = s.sys.fuses := by
  unfold execNvmeFlush
  exact ⟨_, rfl, by simp, by simp⟩

theorem execSynchronizeCache_kept (k : Fin 65536) (s : State) :
    ∃ u1, execSynchronizeCache k s = .next u1 ∧ u1.pending = s.pending ∧ u1.sys.fuses = s.sys.fuses := by
  unfold execSynchronizeCache
  exact ⟨_, rfl, by simp, by simp⟩

theorem execFlushCacheExt_kept (k : Fin 65536) (s : State) :
    ∃ u1, execFlushCacheExt k s = .next u1 ∧ u1.pending = s.pending ∧ u1.sys.fuses = s.sys.fuses := by
  unfold execFlushCacheExt
  exact ⟨_, rfl, by simp, by simp⟩

theorem execWriteZeroes_kept (k : Fin 65536) (s : State) :
    ∃ u1, execWriteZeroes k s = .next u1 ∧ u1.pending = s.pending ∧ u1.sys.fuses = s.sys.fuses := by
  unfold execWriteZeroes
  exact ⟨_, rfl, by simp, by simp⟩

theorem execDeallocate_kept (k : Fin 65536) (ranges : List (Nat × Nat)) (s : State) :
    ∃ u1, execDeallocate k ranges s = .next u1 ∧ u1.pending = s.pending ∧ u1.sys.fuses = s.sys.fuses := by
  unfold execDeallocate
  exact ⟨_, rfl, by simp, by simp⟩

theorem execBlockVerify_kept (k : Fin 65536) (mediaOk : Bool) (s : State) :
    ∃ u1, execBlockVerify k mediaOk s = .next u1 ∧ u1.pending = s.pending ∧ u1.sys.fuses = s.sys.fuses := by
  unfold execBlockVerify
  exact ⟨_, rfl, by simp, by simp⟩

theorem execCompare_kept (k keySlot : Fin 65536) (cacheHit : Bool) (data : Nat) (s : State) :
    ∃ u1, execCompare k keySlot cacheHit data s = .next u1 ∧ u1.pending = s.pending ∧ u1.sys.fuses = s.sys.fuses := by
  unfold execCompare
  exact ⟨_, rfl, by simp, by simp⟩

theorem execNvmeIdentify_kept (k : Fin 65536) (cns data : Nat) (s : State) :
    ∃ u1, execNvmeIdentify k cns data s = .next u1 ∧ u1.pending = s.pending ∧ u1.sys.fuses = s.sys.fuses := by
  unfold execNvmeIdentify
  (repeat' split) <;> exact ⟨_, rfl, by simp, by simp⟩

theorem execNvmeGetLogPage_kept (k : Fin 65536) (lid : Nat) (data : List Nat) (s : State) :
    ∃ u1, execNvmeGetLogPage k lid data s = .next u1 ∧ u1.pending = s.pending ∧ u1.sys.fuses = s.sys.fuses := by
  unfold execNvmeGetLogPage
  (repeat' split) <;> exact ⟨_, rfl, by simp, by simp⟩

theorem execNamespaceManagement_kept (k : Fin 65536) (t : Fin 256) (capacity : Nat) (s : State) :
    ∃ u1, execNamespaceManagement k t capacity s = .next u1 ∧ u1.pending = s.pending ∧ u1.sys.fuses = s.sys.fuses :=
        by
  unfold execNamespaceManagement
  (repeat' split) <;> exact ⟨_, rfl, by simp, by simp⟩

theorem execNamespaceAttachment_kept (k : Fin 65536) (s : State) :
    ∃ u1, execNamespaceAttachment k s = .next u1 ∧ u1.pending = s.pending ∧ u1.sys.fuses = s.sys.fuses := by
  unfold execNamespaceAttachment
  (repeat' split) <;> exact ⟨_, rfl, by simp, by simp⟩

theorem execFirmwareImageDownload_kept (k : Fin 65536) (s : State) :
    ∃ u1, execFirmwareImageDownload k s = .next u1 ∧ u1.pending = s.pending ∧ u1.sys.fuses = s.sys.fuses := by
  unfold execFirmwareImageDownload
  exact ⟨_, rfl, by simp, by simp⟩

theorem execFirmwareCommit_kept (k : Fin 65536) (s : State) :
    ∃ u1, execFirmwareCommit k s = .next u1 ∧ u1.pending = s.pending ∧ u1.sys.fuses = s.sys.fuses := by
  unfold execFirmwareCommit
  exact ⟨_, rfl, by simp, by simp⟩

theorem execCreateIoQueue_kept (k : Fin 65536) (s : State) :
    ∃ u1, execCreateIoQueue k s = .next u1 ∧ u1.pending = s.pending ∧ u1.sys.fuses = s.sys.fuses := by
  simp only [execCreateIoQueue, ok]
  (repeat' split) <;> first
      | exact ⟨_, rfl, by simp, by simp⟩ | (refine ⟨_, rfl, ?_, ?_⟩ <;> (repeat' split) <;> simp_all)

theorem execNvmeDeleteIoQueue_kept (k : Fin 65536) (cq : Bool) (qid : Nat) (s : State) :
    ∃ u1, execNvmeDeleteIoQueue k cq qid s = .next u1 ∧ u1.pending = s.pending ∧ u1.sys.fuses = s.sys.fuses := by
  simp only [execNvmeDeleteIoQueue, ok]
  (repeat' split) <;> first
      | exact ⟨_, rfl, by simp, by simp⟩ | (refine ⟨_, rfl, ?_, ?_⟩ <;> (repeat' split) <;> simp_all)

theorem execNvmeAbort_kept (k : Fin 65536) (sq cid : Nat) (s : State) :
    ∃ u1, execNvmeAbort k sq cid s = .next u1 ∧ u1.pending = s.pending ∧ u1.sys.fuses = s.sys.fuses := by
  unfold execNvmeAbort
  (repeat' split) <;> exact ⟨_, rfl, by simp, by simp⟩

theorem execNvmeSetFeatures_kept (k : Fin 65536) (fid value : Nat) (s : State) :
    ∃ u1, execNvmeSetFeatures k fid value s = .next u1 ∧ u1.pending = s.pending ∧ u1.sys.fuses = s.sys.fuses := by
  unfold execNvmeSetFeatures
  (repeat' split) <;> exact ⟨_, rfl, by simp, by simp⟩

theorem execNvmeGetFeatures_kept (k : Fin 65536) (fid : Nat) (s : State) :
    ∃ u1, execNvmeGetFeatures k fid s = .next u1 ∧ u1.pending = s.pending ∧ u1.sys.fuses = s.sys.fuses := by
  unfold execNvmeGetFeatures
  (repeat' split) <;> exact ⟨_, rfl, by simp, by simp⟩

theorem execNvmeAsyncEventRequest_kept (k : Fin 65536) (s : State) :
    ∃ u1, execNvmeAsyncEventRequest k s = .next u1 ∧ u1.pending = s.pending ∧ u1.sys.fuses = s.sys.fuses := by
  unfold execNvmeAsyncEventRequest
  (repeat' split) <;> exact ⟨_, rfl, by simp, by simp⟩

theorem execReadCapacity_kept (k : Fin 65536) (s : State) :
    ∃ u1, execReadCapacity k s = .next u1 ∧ u1.pending = s.pending ∧ u1.sys.fuses = s.sys.fuses := by
  simp only [execReadCapacity, ok]
  (repeat' split) <;> first
      | exact ⟨_, rfl, by simp, by simp⟩ | (refine ⟨_, rfl, ?_, ?_⟩ <;> (repeat' split) <;> simp_all)

theorem execReportLuns_kept (k : Fin 65536) (s : State) :
    ∃ u1, execReportLuns k s = .next u1 ∧ u1.pending = s.pending ∧ u1.sys.fuses = s.sys.fuses := by
  unfold execReportLuns
  (repeat' split) <;> exact ⟨_, rfl, by simp, by simp⟩

theorem execTestUnitReady_kept (k : Fin 65536) (s : State) :
    ∃ u1, execTestUnitReady k s = .next u1 ∧ u1.pending = s.pending ∧ u1.sys.fuses = s.sys.fuses := by
  unfold execTestUnitReady
  exact ⟨_, rfl, by simp, by simp⟩

theorem execRequestSense_kept (k : Fin 65536) (s : State) :
    ∃ u1, execRequestSense k s = .next u1 ∧ u1.pending = s.pending ∧ u1.sys.fuses = s.sys.fuses := by
  unfold execRequestSense
  (repeat' split) <;> exact ⟨_, rfl, by simp, by simp⟩

theorem execStartStopUnit_kept (k : Fin 65536) (start : Bool) (s : State) :
    ∃ u1, execStartStopUnit k start s = .next u1 ∧ u1.pending = s.pending ∧ u1.sys.fuses = s.sys.fuses := by
  unfold execStartStopUnit
  exact ⟨_, rfl, by simp, by simp⟩

theorem execModeSense_kept (k : Fin 65536) (page : Nat) (s : State) :
    ∃ u1, execModeSense k page s = .next u1 ∧ u1.pending = s.pending ∧ u1.sys.fuses = s.sys.fuses := by
  unfold execModeSense
  (repeat' split) <;> exact ⟨_, rfl, by simp, by simp⟩

theorem execModeSelect_kept (k : Fin 65536) (page data : Nat) (s : State) :
    ∃ u1, execModeSelect k page data s = .next u1 ∧ u1.pending = s.pending ∧ u1.sys.fuses = s.sys.fuses := by
  unfold execModeSelect
  (repeat' split) <;> exact ⟨_, rfl, by simp, by simp⟩

theorem execLogSense_kept (k : Fin 65536) (page : Nat) (data : List Nat) (s : State) :
    ∃ u1, execLogSense k page data s = .next u1 ∧ u1.pending = s.pending ∧ u1.sys.fuses = s.sys.fuses := by
  unfold execLogSense
  (repeat' split) <;> exact ⟨_, rfl, by simp, by simp⟩

theorem execPersistentReserveIn_kept (k : Fin 65536) (s : State) :
    ∃ u1, execPersistentReserveIn k s = .next u1 ∧ u1.pending = s.pending ∧ u1.sys.fuses = s.sys.fuses := by
  simp only [execPersistentReserveIn, ok]
  (repeat' split) <;> first
      | exact ⟨_, rfl, by simp, by simp⟩ | (refine ⟨_, rfl, ?_, ?_⟩ <;> (repeat' split) <;> simp_all)

theorem execPersistentReserveOut_kept (k : Fin 65536) (op : ResOp) (s : State) :
    ∃ u1, execPersistentReserveOut k op s = .next u1 ∧ u1.pending = s.pending ∧ u1.sys.fuses = s.sys.fuses := by
  unfold execPersistentReserveOut
  refine ⟨_, rfl, State.tenantCmd_pending _ _ _ _ ?_, State.tenantCmd_fuses _ _ _ _ ?_⟩
  all_goals
    intro t
    dsimp only
    split <;> simp

theorem execWriteBuffer_kept (k : Fin 65536) (s : State) :
    ∃ u1, execWriteBuffer k s = .next u1 ∧ u1.pending = s.pending ∧ u1.sys.fuses = s.sys.fuses := by
  unfold execWriteBuffer
  exact ⟨_, rfl, by simp, by simp⟩

theorem execReadBuffer_kept (k : Fin 65536) (s : State) :
    ∃ u1, execReadBuffer k s = .next u1 ∧ u1.pending = s.pending ∧ u1.sys.fuses = s.sys.fuses := by
  unfold execReadBuffer
  exact ⟨_, rfl, by simp, by simp⟩

theorem execSetFeatures_kept (k : Fin 65536) (feature value : Nat) (s : State) :
    ∃ u1, execSetFeatures k feature value s = .next u1 ∧ u1.pending = s.pending ∧ u1.sys.fuses = s.sys.fuses := by
  unfold execSetFeatures
  (repeat' split) <;> exact ⟨_, rfl, by simp, by simp⟩

theorem execReadLogExt_kept (k : Fin 65536) (page : Nat) (data : List Nat) (s : State) :
    ∃ u1, execReadLogExt k page data s = .next u1 ∧ u1.pending = s.pending ∧ u1.sys.fuses = s.sys.fuses := by
  unfold execReadLogExt
  (repeat' split) <;> exact ⟨_, rfl, by simp, by simp⟩

theorem execDownloadMicrocode_kept (k : Fin 65536) (s : State) :
    ∃ u1, execDownloadMicrocode k s = .next u1 ∧ u1.pending = s.pending ∧ u1.sys.fuses = s.sys.fuses := by
  unfold execDownloadMicrocode
  exact ⟨_, rfl, by simp, by simp⟩

/-! ### Memory stays canonical -/

theorem execBlockRead_memWf (k keySlot : Fin 65536) (cacheHit : Bool) (s : State) :
    ∃ u1, execBlockRead k keySlot cacheHit s = .next u1 ∧ (Memory.wf s.mem = true → Memory.wf u1.mem = true) := by
  unfold execBlockRead
  (repeat' split) <;> refine ⟨_, rfl, fun h => ?_⟩
  all_goals (repeat' first
      | with_reducible assumption | with_reducible apply foldl_memWf | (intro t a ha) | split | simp)

theorem execBlockWrite_memWf (k keySlot : Fin 65536) (data : Nat) (s : State) :
    ∃ u1, execBlockWrite k keySlot data s = .next u1 ∧ (Memory.wf s.mem = true → Memory.wf u1.mem = true) := by
  unfold execBlockWrite
  (repeat' split) <;> refine ⟨_, rfl, fun h => ?_⟩
  all_goals (repeat' first
      | with_reducible assumption | with_reducible apply foldl_memWf | (intro t a ha) | split | simp)

theorem execNvmeFlush_memWf (k : Fin 65536) (s : State) :
    ∃ u1, execNvmeFlush k s = .next u1 ∧ (Memory.wf s.mem = true → Memory.wf u1.mem = true) := by
  unfold execNvmeFlush
  (repeat' split) <;> refine ⟨_, rfl, fun h => ?_⟩
  all_goals (repeat' first
      | with_reducible assumption | with_reducible apply foldl_memWf | (intro t a ha) | split | simp)

theorem execSynchronizeCache_memWf (k : Fin 65536) (s : State) :
    ∃ u1, execSynchronizeCache k s = .next u1 ∧ (Memory.wf s.mem = true → Memory.wf u1.mem = true) := by
  unfold execSynchronizeCache
  (repeat' split) <;> refine ⟨_, rfl, fun h => ?_⟩
  all_goals (repeat' first
      | with_reducible assumption | with_reducible apply foldl_memWf | (intro t a ha) | split | simp)

theorem execFlushCacheExt_memWf (k : Fin 65536) (s : State) :
    ∃ u1, execFlushCacheExt k s = .next u1 ∧ (Memory.wf s.mem = true → Memory.wf u1.mem = true) := by
  unfold execFlushCacheExt
  (repeat' split) <;> refine ⟨_, rfl, fun h => ?_⟩
  all_goals (repeat' first
      | with_reducible assumption | with_reducible apply foldl_memWf | (intro t a ha) | split | simp)

theorem execWriteZeroes_memWf (k : Fin 65536) (s : State) :
    ∃ u1, execWriteZeroes k s = .next u1 ∧ (Memory.wf s.mem = true → Memory.wf u1.mem = true) := by
  unfold execWriteZeroes
  (repeat' split) <;> refine ⟨_, rfl, fun h => ?_⟩
  all_goals (repeat' first
      | with_reducible assumption | with_reducible apply foldl_memWf | (intro t a ha) | split | simp)

theorem execDeallocate_memWf (k : Fin 65536) (ranges : List (Nat × Nat)) (s : State) :
    ∃ u1, execDeallocate k ranges s = .next u1 ∧ (Memory.wf s.mem = true → Memory.wf u1.mem = true) := by
  unfold execDeallocate
  (repeat' split) <;> refine ⟨_, rfl, fun h => ?_⟩
  all_goals (repeat' first
      | with_reducible assumption | with_reducible apply foldl_memWf | (intro t a ha) | split | simp)

theorem execBlockVerify_memWf (k : Fin 65536) (mediaOk : Bool) (s : State) :
    ∃ u1, execBlockVerify k mediaOk s = .next u1 ∧ (Memory.wf s.mem = true → Memory.wf u1.mem = true) := by
  unfold execBlockVerify
  (repeat' split) <;> refine ⟨_, rfl, fun h => ?_⟩
  all_goals (repeat' first
      | with_reducible assumption | with_reducible apply foldl_memWf | (intro t a ha) | split | simp)

theorem execCompare_memWf (k keySlot : Fin 65536) (cacheHit : Bool) (data : Nat) (s : State) :
    ∃ u1, execCompare k keySlot cacheHit data s = .next u1 ∧ (Memory.wf s.mem = true → Memory.wf u1.mem = true) := by
  unfold execCompare
  (repeat' split) <;> refine ⟨_, rfl, fun h => ?_⟩
  all_goals (repeat' first
      | with_reducible assumption | with_reducible apply foldl_memWf | (intro t a ha) | split | simp)

theorem execNvmeIdentify_memWf (k : Fin 65536) (cns data : Nat) (s : State) :
    ∃ u1, execNvmeIdentify k cns data s = .next u1 ∧ (Memory.wf s.mem = true → Memory.wf u1.mem = true) := by
  unfold execNvmeIdentify
  (repeat' split) <;> refine ⟨_, rfl, fun h => ?_⟩
  all_goals (repeat' first
      | with_reducible assumption | with_reducible apply foldl_memWf | (intro t a ha) | split | simp)

theorem execNvmeGetLogPage_memWf (k : Fin 65536) (lid : Nat) (data : List Nat) (s : State) :
    ∃ u1, execNvmeGetLogPage k lid data s = .next u1 ∧ (Memory.wf s.mem = true → Memory.wf u1.mem = true) := by
  unfold execNvmeGetLogPage
  (repeat' split) <;> refine ⟨_, rfl, fun h => ?_⟩
  all_goals (repeat' first
      | with_reducible assumption | with_reducible apply foldl_memWf | (intro t a ha) | split | simp)

theorem execNamespaceManagement_memWf (k : Fin 65536) (t : Fin 256) (capacity : Nat) (s : State) :
    ∃ u1, execNamespaceManagement k t capacity s = .next u1 ∧ (Memory.wf s.mem = true → Memory.wf u1.mem = true) := by
  unfold execNamespaceManagement
  (repeat' split) <;> refine ⟨_, rfl, fun h => ?_⟩
  all_goals (repeat' first
      | with_reducible assumption | with_reducible apply foldl_memWf | (intro t a ha) | split | simp)

theorem execNamespaceAttachment_memWf (k : Fin 65536) (s : State) :
    ∃ u1, execNamespaceAttachment k s = .next u1 ∧ (Memory.wf s.mem = true → Memory.wf u1.mem = true) := by
  unfold execNamespaceAttachment
  (repeat' split) <;> refine ⟨_, rfl, fun h => ?_⟩
  all_goals (repeat' first
      | with_reducible assumption | with_reducible apply foldl_memWf | (intro t a ha) | split | simp)

theorem execFirmwareImageDownload_memWf (k : Fin 65536) (s : State) :
    ∃ u1, execFirmwareImageDownload k s = .next u1 ∧ (Memory.wf s.mem = true → Memory.wf u1.mem = true) := by
  unfold execFirmwareImageDownload
  (repeat' split) <;> refine ⟨_, rfl, fun h => ?_⟩
  all_goals (repeat' first
      | with_reducible assumption | with_reducible apply foldl_memWf | (intro t a ha) | split | simp)

theorem execFirmwareCommit_memWf (k : Fin 65536) (s : State) :
    ∃ u1, execFirmwareCommit k s = .next u1 ∧ (Memory.wf s.mem = true → Memory.wf u1.mem = true) := by
  unfold execFirmwareCommit
  (repeat' split) <;> refine ⟨_, rfl, fun h => ?_⟩
  all_goals (repeat' first
      | with_reducible assumption | with_reducible apply foldl_memWf | (intro t a ha) | split | simp)

theorem execCreateIoQueue_memWf (k : Fin 65536) (s : State) :
    ∃ u1, execCreateIoQueue k s = .next u1 ∧ (Memory.wf s.mem = true → Memory.wf u1.mem = true) := by
  unfold execCreateIoQueue
  dsimp only
  (repeat' split) <;> refine ⟨_, rfl, fun h => ?_⟩
  all_goals (repeat' first
      | with_reducible assumption | with_reducible apply foldl_memWf | (intro t a ha) | split | simp)

theorem execNvmeDeleteIoQueue_memWf (k : Fin 65536) (cq : Bool) (qid : Nat) (s : State) :
    ∃ u1, execNvmeDeleteIoQueue k cq qid s = .next u1 ∧ (Memory.wf s.mem = true → Memory.wf u1.mem = true) := by
  unfold execNvmeDeleteIoQueue
  dsimp only
  (repeat' split) <;> refine ⟨_, rfl, fun h => ?_⟩
  all_goals (repeat' first
      | with_reducible assumption | with_reducible apply foldl_memWf | (intro t a ha) | split | simp)

theorem execNvmeAbort_memWf (k : Fin 65536) (sq cid : Nat) (s : State) :
    ∃ u1, execNvmeAbort k sq cid s = .next u1 ∧ (Memory.wf s.mem = true → Memory.wf u1.mem = true) := by
  unfold execNvmeAbort
  (repeat' split) <;> refine ⟨_, rfl, fun h => ?_⟩
  all_goals (repeat' first
      | with_reducible assumption | with_reducible apply foldl_memWf | (intro t a ha) | split | simp)

theorem execNvmeSetFeatures_memWf (k : Fin 65536) (fid value : Nat) (s : State) :
    ∃ u1, execNvmeSetFeatures k fid value s = .next u1 ∧ (Memory.wf s.mem = true → Memory.wf u1.mem = true) := by
  unfold execNvmeSetFeatures
  (repeat' split) <;> refine ⟨_, rfl, fun h => ?_⟩
  all_goals (repeat' first
      | with_reducible assumption | with_reducible apply foldl_memWf | (intro t a ha) | split | simp)

theorem execNvmeGetFeatures_memWf (k : Fin 65536) (fid : Nat) (s : State) :
    ∃ u1, execNvmeGetFeatures k fid s = .next u1 ∧ (Memory.wf s.mem = true → Memory.wf u1.mem = true) := by
  unfold execNvmeGetFeatures
  (repeat' split) <;> refine ⟨_, rfl, fun h => ?_⟩
  all_goals (repeat' first
      | with_reducible assumption | with_reducible apply foldl_memWf | (intro t a ha) | split | simp)

theorem execNvmeAsyncEventRequest_memWf (k : Fin 65536) (s : State) :
    ∃ u1, execNvmeAsyncEventRequest k s = .next u1 ∧ (Memory.wf s.mem = true → Memory.wf u1.mem = true) := by
  unfold execNvmeAsyncEventRequest
  (repeat' split) <;> refine ⟨_, rfl, fun h => ?_⟩
  all_goals (repeat' first
      | with_reducible assumption | with_reducible apply foldl_memWf | (intro t a ha) | split | simp)

theorem execReadCapacity_memWf (k : Fin 65536) (s : State) :
    ∃ u1, execReadCapacity k s = .next u1 ∧ (Memory.wf s.mem = true → Memory.wf u1.mem = true) := by
  unfold execReadCapacity
  dsimp only
  (repeat' split) <;> refine ⟨_, rfl, fun h => ?_⟩
  all_goals (repeat' first
      | with_reducible assumption | with_reducible apply foldl_memWf | (intro t a ha) | split | simp)

theorem execReportLuns_memWf (k : Fin 65536) (s : State) :
    ∃ u1, execReportLuns k s = .next u1 ∧ (Memory.wf s.mem = true → Memory.wf u1.mem = true) := by
  unfold execReportLuns
  (repeat' split) <;> refine ⟨_, rfl, fun h => ?_⟩
  all_goals (repeat' first
      | with_reducible assumption | with_reducible apply foldl_memWf | (intro t a ha) | split | simp)

theorem execTestUnitReady_memWf (k : Fin 65536) (s : State) :
    ∃ u1, execTestUnitReady k s = .next u1 ∧ (Memory.wf s.mem = true → Memory.wf u1.mem = true) := by
  unfold execTestUnitReady
  (repeat' split) <;> refine ⟨_, rfl, fun h => ?_⟩
  all_goals (repeat' first
      | with_reducible assumption | with_reducible apply foldl_memWf | (intro t a ha) | split | simp)

theorem execRequestSense_memWf (k : Fin 65536) (s : State) :
    ∃ u1, execRequestSense k s = .next u1 ∧ (Memory.wf s.mem = true → Memory.wf u1.mem = true) := by
  unfold execRequestSense
  (repeat' split) <;> refine ⟨_, rfl, fun h => ?_⟩
  all_goals (repeat' first
      | with_reducible assumption | with_reducible apply foldl_memWf | (intro t a ha) | split | simp)

theorem execStartStopUnit_memWf (k : Fin 65536) (start : Bool) (s : State) :
    ∃ u1, execStartStopUnit k start s = .next u1 ∧ (Memory.wf s.mem = true → Memory.wf u1.mem = true) := by
  unfold execStartStopUnit
  (repeat' split) <;> refine ⟨_, rfl, fun h => ?_⟩
  all_goals (repeat' first
      | with_reducible assumption | with_reducible apply foldl_memWf | (intro t a ha) | split | simp)

theorem execModeSense_memWf (k : Fin 65536) (page : Nat) (s : State) :
    ∃ u1, execModeSense k page s = .next u1 ∧ (Memory.wf s.mem = true → Memory.wf u1.mem = true) := by
  unfold execModeSense
  (repeat' split) <;> refine ⟨_, rfl, fun h => ?_⟩
  all_goals (repeat' first
      | with_reducible assumption | with_reducible apply foldl_memWf | (intro t a ha) | split | simp)

theorem execModeSelect_memWf (k : Fin 65536) (page data : Nat) (s : State) :
    ∃ u1, execModeSelect k page data s = .next u1 ∧ (Memory.wf s.mem = true → Memory.wf u1.mem = true) := by
  unfold execModeSelect
  (repeat' split) <;> refine ⟨_, rfl, fun h => ?_⟩
  all_goals (repeat' first
      | with_reducible assumption | with_reducible apply foldl_memWf | (intro t a ha) | split | simp)

theorem execLogSense_memWf (k : Fin 65536) (page : Nat) (data : List Nat) (s : State) :
    ∃ u1, execLogSense k page data s = .next u1 ∧ (Memory.wf s.mem = true → Memory.wf u1.mem = true) := by
  unfold execLogSense
  (repeat' split) <;> refine ⟨_, rfl, fun h => ?_⟩
  all_goals (repeat' first
      | with_reducible assumption | with_reducible apply foldl_memWf | (intro t a ha) | split | simp)

theorem execPersistentReserveIn_memWf (k : Fin 65536) (s : State) :
    ∃ u1, execPersistentReserveIn k s = .next u1 ∧ (Memory.wf s.mem = true → Memory.wf u1.mem = true) := by
  unfold execPersistentReserveIn
  dsimp only
  (repeat' split) <;> refine ⟨_, rfl, fun h => ?_⟩
  all_goals (repeat' first
      | with_reducible assumption | with_reducible apply foldl_memWf | (intro t a ha) | split | simp)

theorem execPersistentReserveOut_memWf (k : Fin 65536) (op : ResOp) (s : State) :
    ∃ u1, execPersistentReserveOut k op s = .next u1 ∧ (Memory.wf s.mem = true → Memory.wf u1.mem = true) := by
  unfold execPersistentReserveOut
  refine ⟨_, rfl, fun h => ?_⟩
  rw [State.tenantCmd_mem]
  · exact h
  · intro t
    dsimp only
    split <;> simp

theorem execWriteBuffer_memWf (k : Fin 65536) (s : State) :
    ∃ u1, execWriteBuffer k s = .next u1 ∧ (Memory.wf s.mem = true → Memory.wf u1.mem = true) := by
  unfold execWriteBuffer
  (repeat' split) <;> refine ⟨_, rfl, fun h => ?_⟩
  all_goals (repeat' first
      | with_reducible assumption | with_reducible apply foldl_memWf | (intro t a ha) | split | simp)

theorem execReadBuffer_memWf (k : Fin 65536) (s : State) :
    ∃ u1, execReadBuffer k s = .next u1 ∧ (Memory.wf s.mem = true → Memory.wf u1.mem = true) := by
  unfold execReadBuffer
  (repeat' split) <;> refine ⟨_, rfl, fun h => ?_⟩
  all_goals (repeat' first
      | with_reducible assumption | with_reducible apply foldl_memWf | (intro t a ha) | split | simp)

theorem execSetFeatures_memWf (k : Fin 65536) (feature value : Nat) (s : State) :
    ∃ u1, execSetFeatures k feature value s = .next u1 ∧ (Memory.wf s.mem = true → Memory.wf u1.mem = true) := by
  unfold execSetFeatures
  (repeat' split) <;> refine ⟨_, rfl, fun h => ?_⟩
  all_goals (repeat' first
      | with_reducible assumption | with_reducible apply foldl_memWf | (intro t a ha) | split | simp)

theorem execReadLogExt_memWf (k : Fin 65536) (page : Nat) (data : List Nat) (s : State) :
    ∃ u1, execReadLogExt k page data s = .next u1 ∧ (Memory.wf s.mem = true → Memory.wf u1.mem = true) := by
  unfold execReadLogExt
  (repeat' split) <;> refine ⟨_, rfl, fun h => ?_⟩
  all_goals (repeat' first
      | with_reducible assumption | with_reducible apply foldl_memWf | (intro t a ha) | split | simp)

theorem execDownloadMicrocode_memWf (k : Fin 65536) (s : State) :
    ∃ u1, execDownloadMicrocode k s = .next u1 ∧ (Memory.wf s.mem = true → Memory.wf u1.mem = true) := by
  unfold execDownloadMicrocode
  (repeat' split) <;> refine ⟨_, rfl, fun h => ?_⟩
  all_goals (repeat' first
      | with_reducible assumption | with_reducible apply foldl_memWf | (intro t a ha) | split | simp)

end Sys2Proof.Machine
end

