-- ==== Sys2Proof/Laws/FrameMilepost.lean ====
section
/-!
SUPPORT. Sys2Proof/Laws/FrameMilepost.lean: what each operation and meaning of Machine/Milepost.lean leaves alone: the command queue, the
fuses, and memory, or its canonical form where the operation may write memory.
-/

namespace Sys2Proof.Machine

/-! ### What the operations leave alone -/

@[simp] theorem State.writeMpoTx_kept (s : State) (i : Initiator) (m side : Nat) (v : Word) :
    (State.writeMpoTx s i m side v).pending = s.pending ∧ (State.writeMpoTx s i m side v).sys.fuses = s.sys.fuses ∧
        (State.writeMpoTx s i m side v).mem = s.mem := by simp [State.writeMpoTx]

@[simp] theorem State.writeMpoDbSet_kept (s : State) (i : Initiator) (m side : Nat) (v : Word) :
    (State.writeMpoDbSet s i m side v).pending = s.pending ∧ (State.writeMpoDbSet s i m side v).sys.fuses =
        s.sys.fuses ∧ (State.writeMpoDbSet s i m side v).mem = s.mem := by simp [State.writeMpoDbSet]

@[simp] theorem State.writeMpoAck_kept (s : State) (i : Initiator) (m side : Nat) (v : Word) :
    (State.writeMpoAck s i m side v).pending = s.pending ∧ (State.writeMpoAck s i m side v).sys.fuses = s.sys.fuses
        ∧ (State.writeMpoAck s i m side v).mem = s.mem := by simp [State.writeMpoAck]

@[simp] theorem State.readMpoRx_kept (s : State) (i : Initiator) (m side : Nat) :
    (State.readMpoRx s i m side).pending = s.pending ∧ (State.readMpoRx s i m side).sys.fuses = s.sys.fuses ∧
        (State.readMpoRx s i m side).mem = s.mem := by simp [State.readMpoRx]

@[simp] theorem State.writeMpoCfg_kept (s : State) (i : Initiator) (m : Nat) (v : Word) :
    (State.writeMpoCfg s i m v).pending = s.pending ∧ (State.writeMpoCfg s i m v).sys.fuses = s.sys.fuses ∧
        (State.writeMpoCfg s i m v).mem = s.mem := by simp [State.writeMpoCfg]

@[simp] theorem State.writeMpoTmo_kept (s : State) (i : Initiator) (m : Nat) (far : Bool) (v : Word) :
    (State.writeMpoTmo s i m far v).pending = s.pending ∧ (State.writeMpoTmo s i m far v).sys.fuses = s.sys.fuses ∧
        (State.writeMpoTmo s i m far v).mem = s.mem := by simp [State.writeMpoTmo]

@[simp] theorem State.groupAnswer_kept (s : State) (k st : Nat) (data : List Nat) :
    (State.groupAnswer s k st data).pending = s.pending ∧ (State.groupAnswer s k st data).sys.fuses = s.sys.fuses ∧
        (State.groupAnswer s k st data).mem = s.mem := by simp [State.groupAnswer]

@[simp] theorem State.mailboxCmd_pending (s : State) (k act : Nat) (fieldsOk : Bool) (f : Nat → State → State)
    (h : ∀ m t, (f m t).pending = t.pending) : (s.mailboxCmd k act fieldsOk f).pending = s.pending := by
  unfold State.mailboxCmd
  dsimp only
  repeat' split
  all_goals simp [h]

@[simp] theorem State.mailboxCmd_fuses (s : State) (k act : Nat) (fieldsOk : Bool) (f : Nat → State → State)
    (h : ∀ m t, (f m t).sys.fuses = t.sys.fuses) : (s.mailboxCmd k act fieldsOk f).sys.fuses = s.sys.fuses := by
  unfold State.mailboxCmd
  dsimp only
  repeat' split
  all_goals simp [h]

@[simp] theorem State.mailboxCmd_mem (s : State) (k act : Nat) (fieldsOk : Bool) (f : Nat → State → State)
    (h : ∀ m t, (f m t).mem = t.mem) : (s.mailboxCmd k act fieldsOk f).mem = s.mem := by
  unfold State.mailboxCmd
  dsimp only
  repeat' split
  all_goals simp [h]

/-! ### What the meanings leave alone -/

theorem execMailboxPush_kept (i : Initiator) (m : Fin 8) (far : Bool) (v : Word) (s : State) :
    ∃ u1, execMailboxPush i m far v s = .next u1 ∧ u1.pending = s.pending ∧ u1.sys.fuses = s.sys.fuses := by
  unfold execMailboxPush
  exact ⟨_, rfl, by simp, by simp⟩

theorem execMailboxPop_kept (i : Initiator) (m : Fin 8) (far : Bool) (s : State) :
    ∃ u1, execMailboxPop i m far s = .next u1 ∧ u1.pending = s.pending ∧ u1.sys.fuses = s.sys.fuses := by
  unfold execMailboxPop
  exact ⟨_, rfl, by simp, by simp⟩

theorem execDoorbellSet_kept (i : Initiator) (m : Fin 8) (far : Bool) (v : Word) (s : State) :
    ∃ u1, execDoorbellSet i m far v s = .next u1 ∧ u1.pending = s.pending ∧ u1.sys.fuses = s.sys.fuses := by
  unfold execDoorbellSet
  exact ⟨_, rfl, by simp, by simp⟩

theorem execMailboxAcknowledge_kept (i : Initiator) (m : Fin 8) (far : Bool) (v : Word) (s : State) :
    ∃ u1, execMailboxAcknowledge i m far v s = .next u1 ∧ u1.pending = s.pending ∧ u1.sys.fuses = s.sys.fuses := by
  unfold execMailboxAcknowledge
  exact ⟨_, rfl, by simp, by simp⟩

theorem execMailboxRequestTimeout_kept (m : Fin 8) (far : Bool) (s : State) :
    ∃ u1, execMailboxRequestTimeout m far s = .next u1 ∧ u1.pending = s.pending ∧ u1.sys.fuses = s.sys.fuses := by
  simp only [execMailboxRequestTimeout, ok]
  (repeat' split) <;> first
      | exact ⟨_, rfl, by simp, by simp⟩ | (refine ⟨_, rfl, ?_, ?_⟩ <;> (repeat' split) <;> simp_all)

theorem execMailboxCmdSend_kept (k : Fin 65536) (words : List Nat) (s : State) :
    ∃ u1, execMailboxCmdSend k words s = .next u1 ∧ u1.pending = s.pending ∧ u1.sys.fuses = s.sys.fuses := by
  unfold execMailboxCmdSend
  exact ⟨_, rfl, by simp, by simp⟩

theorem execMailboxCmdReceive_kept (k : Fin 65536) (s : State) :
    ∃ u1, execMailboxCmdReceive k s = .next u1 ∧ u1.pending = s.pending ∧ u1.sys.fuses = s.sys.fuses := by
  unfold execMailboxCmdReceive
  exact ⟨_, rfl, by simp, by simp⟩

theorem execMailboxCmdDoorbell_kept (k : Fin 65536) (s : State) :
    ∃ u1, execMailboxCmdDoorbell k s = .next u1 ∧ u1.pending = s.pending ∧ u1.sys.fuses = s.sys.fuses := by
  unfold execMailboxCmdDoorbell
  exact ⟨_, rfl, by simp, by simp⟩

theorem execMailboxCmdAck_kept (k : Fin 65536) (s : State) :
    ∃ u1, execMailboxCmdAck k s = .next u1 ∧ u1.pending = s.pending ∧ u1.sys.fuses = s.sys.fuses := by
  unfold execMailboxCmdAck
  exact ⟨_, rfl, by simp, by simp⟩

theorem execMailboxCmdStatus_kept (k : Fin 65536) (s : State) :
    ∃ u1, execMailboxCmdStatus k s = .next u1 ∧ u1.pending = s.pending ∧ u1.sys.fuses = s.sys.fuses := by
  unfold execMailboxCmdStatus
  exact ⟨_, rfl, by simp, by simp⟩

/-! ### Memory stays canonical -/

theorem execMailboxPush_memWf (i : Initiator) (m : Fin 8) (far : Bool) (v : Word) (s : State) :
    ∃ u1, execMailboxPush i m far v s = .next u1 ∧ (Memory.wf s.mem = true → Memory.wf u1.mem = true) := by
  unfold execMailboxPush
  (repeat' split) <;> refine ⟨_, rfl, fun h => ?_⟩
  all_goals (repeat' first
      | with_reducible assumption | with_reducible apply foldl_memWf | (intro t a ha) | split | simp)

theorem execMailboxPop_memWf (i : Initiator) (m : Fin 8) (far : Bool) (s : State) :
    ∃ u1, execMailboxPop i m far s = .next u1 ∧ (Memory.wf s.mem = true → Memory.wf u1.mem = true) := by
  unfold execMailboxPop
  (repeat' split) <;> refine ⟨_, rfl, fun h => ?_⟩
  all_goals (repeat' first
      | with_reducible assumption | with_reducible apply foldl_memWf | (intro t a ha) | split | simp)

theorem execDoorbellSet_memWf (i : Initiator) (m : Fin 8) (far : Bool) (v : Word) (s : State) :
    ∃ u1, execDoorbellSet i m far v s = .next u1 ∧ (Memory.wf s.mem = true → Memory.wf u1.mem = true) := by
  unfold execDoorbellSet
  (repeat' split) <;> refine ⟨_, rfl, fun h => ?_⟩
  all_goals (repeat' first
      | with_reducible assumption | with_reducible apply foldl_memWf | (intro t a ha) | split | simp)

theorem execMailboxAcknowledge_memWf (i : Initiator) (m : Fin 8) (far : Bool) (v : Word) (s : State) :
    ∃ u1, execMailboxAcknowledge i m far v s = .next u1 ∧ (Memory.wf s.mem = true → Memory.wf u1.mem = true) := by
  unfold execMailboxAcknowledge
  (repeat' split) <;> refine ⟨_, rfl, fun h => ?_⟩
  all_goals (repeat' first
      | with_reducible assumption | with_reducible apply foldl_memWf | (intro t a ha) | split | simp)

theorem execMailboxRequestTimeout_memWf (m : Fin 8) (far : Bool) (s : State) :
    ∃ u1, execMailboxRequestTimeout m far s = .next u1 ∧ (Memory.wf s.mem = true → Memory.wf u1.mem = true) := by
  unfold execMailboxRequestTimeout
  dsimp only
  (repeat' split) <;> refine ⟨_, rfl, fun h => ?_⟩
  all_goals (repeat' first
      | with_reducible assumption | with_reducible apply foldl_memWf | (intro t a ha) | split | simp)

theorem execMailboxCmdSend_memWf (k : Fin 65536) (words : List Nat) (s : State) :
    ∃ u1, execMailboxCmdSend k words s = .next u1 ∧ (Memory.wf s.mem = true → Memory.wf u1.mem = true) := by
  unfold execMailboxCmdSend
  (repeat' split) <;> refine ⟨_, rfl, fun h => ?_⟩
  all_goals (repeat' first
      | with_reducible assumption | with_reducible apply foldl_memWf | (intro t a ha) | split | simp)

theorem execMailboxCmdReceive_memWf (k : Fin 65536) (s : State) :
    ∃ u1, execMailboxCmdReceive k s = .next u1 ∧ (Memory.wf s.mem = true → Memory.wf u1.mem = true) := by
  unfold execMailboxCmdReceive
  (repeat' split) <;> refine ⟨_, rfl, fun h => ?_⟩
  all_goals (repeat' first
      | with_reducible assumption | with_reducible apply foldl_memWf | (intro t a ha) | split | simp)

theorem execMailboxCmdDoorbell_memWf (k : Fin 65536) (s : State) :
    ∃ u1, execMailboxCmdDoorbell k s = .next u1 ∧ (Memory.wf s.mem = true → Memory.wf u1.mem = true) := by
  unfold execMailboxCmdDoorbell
  (repeat' split) <;> refine ⟨_, rfl, fun h => ?_⟩
  all_goals (repeat' first
      | with_reducible assumption | with_reducible apply foldl_memWf | (intro t a ha) | split | simp)

theorem execMailboxCmdAck_memWf (k : Fin 65536) (s : State) :
    ∃ u1, execMailboxCmdAck k s = .next u1 ∧ (Memory.wf s.mem = true → Memory.wf u1.mem = true) := by
  unfold execMailboxCmdAck
  (repeat' split) <;> refine ⟨_, rfl, fun h => ?_⟩
  all_goals (repeat' first
      | with_reducible assumption | with_reducible apply foldl_memWf | (intro t a ha) | split | simp)

theorem execMailboxCmdStatus_memWf (k : Fin 65536) (s : State) :
    ∃ u1, execMailboxCmdStatus k s = .next u1 ∧ (Memory.wf s.mem = true → Memory.wf u1.mem = true) := by
  unfold execMailboxCmdStatus
  (repeat' split) <;> refine ⟨_, rfl, fun h => ?_⟩
  all_goals (repeat' first
      | with_reducible assumption | with_reducible apply foldl_memWf | (intro t a ha) | split | simp)

end Sys2Proof.Machine
end

