-- ==== Sys2Proof/Laws/FrameObsidian.lean ====
section
/-!
SUPPORT. Sys2Proof/Laws/FrameObsidian.lean: what each operation and meaning of Machine/Obsidian.lean leaves alone: the command queue, the
fuses, and memory, or its canonical form where the operation may write memory.
-/

namespace Sys2Proof.Machine

/-! ### What the meanings leave alone -/

theorem execRawBlockOp_kept (i : Initiator) (port : Fin 14) (v : Word) (upset : Bool) (s : State) :
    ∃ u1, execRawBlockOp i port v upset s = .next u1 ∧ u1.pending = s.pending ∧ u1.sys.fuses = s.sys.fuses := by
  unfold execRawBlockOp
  (repeat' split) <;> exact ⟨_, rfl, by simp, by simp⟩

theorem execCoreBlockDone_kept (core : Fin 16) (s : State) :
    ∃ u1, execCoreBlockDone core s = .next u1 ∧ u1.pending = s.pending ∧ u1.sys.fuses = s.sys.fuses := by
  unfold execCoreBlockDone
  exact ⟨_, rfl, by simp, by simp⟩

theorem execKeyStage_kept (i : Initiator) (v : Word) (s : State) :
    ∃ u1, execKeyStage i v s = .next u1 ∧ u1.pending = s.pending ∧ u1.sys.fuses = s.sys.fuses := by
  unfold execKeyStage
  exact ⟨_, rfl, by simp, by simp⟩

theorem execKeyLoad_kept (i : Initiator) (slot : Fin 4096) (s : State) :
    ∃ u1, execKeyLoad i slot s = .next u1 ∧ u1.pending = s.pending ∧ u1.sys.fuses = s.sys.fuses := by
  unfold execKeyLoad
  exact ⟨_, rfl, by simp, by simp⟩

theorem execKeyZero_kept (i : Initiator) (slot : Fin 4096) (s : State) :
    ∃ u1, execKeyZero i slot s = .next u1 ∧ u1.pending = s.pending ∧ u1.sys.fuses = s.sys.fuses := by
  unfold execKeyZero
  exact ⟨_, rfl, by simp, by simp⟩

theorem execAuthUnitOpen_kept (i : Initiator) (u : Fin 4) (s : State) :
    ∃ u1, execAuthUnitOpen i u s = .next u1 ∧ u1.pending = s.pending ∧ u1.sys.fuses = s.sys.fuses := by
  unfold execAuthUnitOpen
  exact ⟨_, rfl, by simp, by simp⟩

theorem execAuthUnitCompare_kept (i : Initiator) (u : Fin 4) (tlen : Fin 32) (s : State) :
    ∃ u1, execAuthUnitCompare i u tlen s = .next u1 ∧ u1.pending = s.pending ∧ u1.sys.fuses = s.sys.fuses := by
  unfold execAuthUnitCompare
  exact ⟨_, rfl, by simp, by simp⟩

theorem execAuthUnitClose_kept (i : Initiator) (u : Fin 4) (s : State) :
    ∃ u1, execAuthUnitClose i u s = .next u1 ∧ u1.pending = s.pending ∧ u1.sys.fuses = s.sys.fuses := by
  unfold execAuthUnitClose
  exact ⟨_, rfl, by simp, by simp⟩

theorem execAuthTagWrite_kept (i : Initiator) (u j : Fin 4) (v : Word) (s : State) :
    ∃ u1, execAuthTagWrite i u j v s = .next u1 ∧ u1.pending = s.pending ∧ u1.sys.fuses = s.sys.fuses := by
  unfold execAuthTagWrite
  exact ⟨_, rfl, by simp, by simp⟩

theorem execAuthDataRead_kept (i : Initiator) (u : Fin 4) (s : State) :
    ∃ u1, execAuthDataRead i u s = .next u1 ∧ u1.pending = s.pending ∧ u1.sys.fuses = s.sys.fuses := by
  unfold execAuthDataRead
  exact ⟨_, rfl, by simp, by simp⟩

/-! ### Memory stays canonical -/

theorem execRawBlockOp_memWf (i : Initiator) (port : Fin 14) (v : Word) (upset : Bool) (s : State) :
    ∃ u1, execRawBlockOp i port v upset s = .next u1 ∧ (Memory.wf s.mem = true → Memory.wf u1.mem = true) := by
  unfold execRawBlockOp
  (repeat' split) <;> refine ⟨_, rfl, fun h => ?_⟩
  all_goals (repeat' first
      | with_reducible assumption | with_reducible apply foldl_memWf | (intro t a ha) | split | simp)

theorem execCoreBlockDone_memWf (core : Fin 16) (s : State) :
    ∃ u1, execCoreBlockDone core s = .next u1 ∧ (Memory.wf s.mem = true → Memory.wf u1.mem = true) := by
  unfold execCoreBlockDone
  (repeat' split) <;> refine ⟨_, rfl, fun h => ?_⟩
  all_goals (repeat' first
      | with_reducible assumption | with_reducible apply foldl_memWf | (intro t a ha) | split | simp)

theorem execKeyStage_memWf (i : Initiator) (v : Word) (s : State) :
    ∃ u1, execKeyStage i v s = .next u1 ∧ (Memory.wf s.mem = true → Memory.wf u1.mem = true) := by
  unfold execKeyStage
  (repeat' split) <;> refine ⟨_, rfl, fun h => ?_⟩
  all_goals (repeat' first
      | with_reducible assumption | with_reducible apply foldl_memWf | (intro t a ha) | split | simp)

theorem execKeyLoad_memWf (i : Initiator) (slot : Fin 4096) (s : State) :
    ∃ u1, execKeyLoad i slot s = .next u1 ∧ (Memory.wf s.mem = true → Memory.wf u1.mem = true) := by
  unfold execKeyLoad
  (repeat' split) <;> refine ⟨_, rfl, fun h => ?_⟩
  all_goals (repeat' first
      | with_reducible assumption | with_reducible apply foldl_memWf | (intro t a ha) | split | simp)

theorem execKeyZero_memWf (i : Initiator) (slot : Fin 4096) (s : State) :
    ∃ u1, execKeyZero i slot s = .next u1 ∧ (Memory.wf s.mem = true → Memory.wf u1.mem = true) := by
  unfold execKeyZero
  (repeat' split) <;> refine ⟨_, rfl, fun h => ?_⟩
  all_goals (repeat' first
      | with_reducible assumption | with_reducible apply foldl_memWf | (intro t a ha) | split | simp)

theorem execAuthUnitOpen_memWf (i : Initiator) (u : Fin 4) (s : State) :
    ∃ u1, execAuthUnitOpen i u s = .next u1 ∧ (Memory.wf s.mem = true → Memory.wf u1.mem = true) := by
  unfold execAuthUnitOpen
  (repeat' split) <;> refine ⟨_, rfl, fun h => ?_⟩
  all_goals (repeat' first
      | with_reducible assumption | with_reducible apply foldl_memWf | (intro t a ha) | split | simp)

theorem execAuthUnitCompare_memWf (i : Initiator) (u : Fin 4) (tlen : Fin 32) (s : State) :
    ∃ u1, execAuthUnitCompare i u tlen s = .next u1 ∧ (Memory.wf s.mem = true → Memory.wf u1.mem = true) := by
  unfold execAuthUnitCompare
  (repeat' split) <;> refine ⟨_, rfl, fun h => ?_⟩
  all_goals (repeat' first
      | with_reducible assumption | with_reducible apply foldl_memWf | (intro t a ha) | split | simp)

theorem execAuthUnitClose_memWf (i : Initiator) (u : Fin 4) (s : State) :
    ∃ u1, execAuthUnitClose i u s = .next u1 ∧ (Memory.wf s.mem = true → Memory.wf u1.mem = true) := by
  unfold execAuthUnitClose
  (repeat' split) <;> refine ⟨_, rfl, fun h => ?_⟩
  all_goals (repeat' first
      | with_reducible assumption | with_reducible apply foldl_memWf | (intro t a ha) | split | simp)

theorem execAuthTagWrite_memWf (i : Initiator) (u j : Fin 4) (v : Word) (s : State) :
    ∃ u1, execAuthTagWrite i u j v s = .next u1 ∧ (Memory.wf s.mem = true → Memory.wf u1.mem = true) := by
  unfold execAuthTagWrite
  (repeat' split) <;> refine ⟨_, rfl, fun h => ?_⟩
  all_goals (repeat' first
      | with_reducible assumption | with_reducible apply foldl_memWf | (intro t a ha) | split | simp)

theorem execAuthDataRead_memWf (i : Initiator) (u : Fin 4) (s : State) :
    ∃ u1, execAuthDataRead i u s = .next u1 ∧ (Memory.wf s.mem = true → Memory.wf u1.mem = true) := by
  unfold execAuthDataRead
  (repeat' split) <;> refine ⟨_, rfl, fun h => ?_⟩
  all_goals (repeat' first
      | with_reducible assumption | with_reducible apply foldl_memWf | (intro t a ha) | split | simp)

end Sys2Proof.Machine
end

