-- ==== Sys2Proof/Laws/FramePairs.lean ====
section
/-!
SUPPORT. Sys2Proof/Laws/FramePairs.lean: what each operation and meaning of Machine/Pairs.lean leaves alone: the command queue, the
fuses, and memory, or its canonical form where the operation may write memory.
-/

namespace Sys2Proof.Machine

/-! ### What the operations leave alone -/

@[simp] theorem State.startRestart_kept (s : State) (p cause : Nat) (counted : Bool) :
    (State.startRestart s p cause counted).pending = s.pending ∧ (State.startRestart s p cause counted).sys.fuses =
        s.sys.fuses := by simp [State.startRestart]

@[simp] theorem State.writePairRst_kept (s : State) (i : Initiator) (v : Word) :
    (State.writePairRst s i v).pending = s.pending ∧ (State.writePairRst s i v).sys.fuses = s.sys.fuses := by simp
        [State.writePairRst]

@[simp] theorem State.writeDevReq_kept (s : State) (i : Initiator) (p : Priv) (v : Word) :
    (State.writeDevReq s i p v).pending = s.pending ∧ (State.writeDevReq s i p v).sys.fuses = s.sys.fuses := by simp
        [State.writeDevReq]

/-! ### What the meanings leave alone -/

theorem execLockstepMismatch_kept (p : Fin 2) (s : State) :
    ∃ u1, execLockstepMismatch p s = .next u1 ∧ u1.pending = s.pending ∧ u1.sys.fuses = s.sys.fuses := by
  unfold execLockstepMismatch
  (repeat' split) <;> exact ⟨_, rfl, by simp, by simp⟩

theorem execPairRestart_kept (i : Initiator) (v : Word) (s : State) :
    ∃ u1, execPairRestart i v s = .next u1 ∧ u1.pending = s.pending ∧ u1.sys.fuses = s.sys.fuses := by
  unfold execPairRestart
  exact ⟨_, rfl, by simp, by simp⟩

theorem execPairRestartDone_kept (p : Fin 2) (s : State) :
    ∃ u1, execPairRestartDone p s = .next u1 ∧ u1.pending = s.pending ∧ u1.sys.fuses = s.sys.fuses := by
  unfold execPairRestartDone
  (repeat' split) <;> exact ⟨_, rfl, by simp, by simp⟩

theorem execHeartbeat_kept (i : Initiator) (p : Fin 2) (s : State) :
    ∃ u1, execHeartbeat i p s = .next u1 ∧ u1.pending = s.pending ∧ u1.sys.fuses = s.sys.fuses := by
  unfold execHeartbeat
  exact ⟨_, rfl, by simp, by simp⟩

theorem execHeartbeatConfig_kept (i : Initiator) (p : Priv) (v : Word) (s : State) :
    ∃ u1, execHeartbeatConfig i p v s = .next u1 ∧ u1.pending = s.pending ∧ u1.sys.fuses = s.sys.fuses := by
  unfold execHeartbeatConfig
  exact ⟨_, rfl, by simp, by simp⟩

theorem execHeartbeatMiss_kept (p : Fin 2) (s : State) :
    ∃ u1, execHeartbeatMiss p s = .next u1 ∧ u1.pending = s.pending ∧ u1.sys.fuses = s.sys.fuses := by
  unfold execHeartbeatMiss
  (repeat' split) <;> exact ⟨_, rfl, by simp, by simp⟩

theorem execWatchdogRestart_kept (i : Initiator) (s : State) :
    ∃ u1, execWatchdogRestart i s = .next u1 ∧ u1.pending = s.pending ∧ u1.sys.fuses = s.sys.fuses := by
  unfold execWatchdogRestart
  (repeat' split) <;> exact ⟨_, rfl, by simp, by simp⟩

theorem execDeviceResetRequest_kept (i : Initiator) (p : Priv) (v : Word) (s : State) :
    ∃ u1, execDeviceResetRequest i p v s = .next u1 ∧ u1.pending = s.pending ∧ u1.sys.fuses = s.sys.fuses := by
  unfold execDeviceResetRequest
  exact ⟨_, rfl, by simp, by simp⟩

theorem execKeyStuckTimeout_kept (p : Fin 2) (s : State) :
    ∃ u1, execKeyStuckTimeout p s = .next u1 ∧ u1.pending = s.pending ∧ u1.sys.fuses = s.sys.fuses := by
  unfold execKeyStuckTimeout
  (repeat' split) <;> exact ⟨_, rfl, by simp, by simp⟩

/-! ### Memory stays canonical -/

theorem State.startRestart_memWf (s : State) (p cause : Nat) (counted : Bool) (h : Memory.wf s.mem = true) :
    Memory.wf (State.startRestart s p cause counted).mem = true := by
  unfold State.startRestart
  repeat' first
      | with_reducible assumption | with_reducible apply State.requestHaven_memWf
      | with_reducible apply foldl_memWf | (intro t a ha) | split | simp

theorem execLockstepMismatch_memWf (p : Fin 2) (s : State) :
    ∃ u1, execLockstepMismatch p s = .next u1 ∧ (Memory.wf s.mem = true → Memory.wf u1.mem = true) := by
  unfold execLockstepMismatch
  (repeat' split) <;> refine ⟨_, rfl, fun h => ?_⟩
  all_goals (repeat' first
      | with_reducible assumption | with_reducible apply State.startRestart_memWf
      | with_reducible apply foldl_memWf | (intro t a ha) | split | simp)

theorem State.writePairRst_memWf (s : State) (i : Initiator) (v : Word) (h : Memory.wf s.mem = true) :
    Memory.wf (State.writePairRst s i v).mem = true := by
  unfold State.writePairRst
  repeat' first
      | with_reducible assumption | with_reducible apply State.startRestart_memWf
      | with_reducible apply foldl_memWf | (intro t a ha) | split | simp

theorem execPairRestart_memWf (i : Initiator) (v : Word) (s : State) :
    ∃ u1, execPairRestart i v s = .next u1 ∧ (Memory.wf s.mem = true → Memory.wf u1.mem = true) := by
  unfold execPairRestart
  (repeat' split) <;> refine ⟨_, rfl, fun h => ?_⟩
  all_goals (repeat' first
      | with_reducible assumption | with_reducible apply State.writePairRst_memWf
      | with_reducible apply foldl_memWf | (intro t a ha) | split | simp)

theorem execPairRestartDone_memWf (p : Fin 2) (s : State) :
    ∃ u1, execPairRestartDone p s = .next u1 ∧ (Memory.wf s.mem = true → Memory.wf u1.mem = true) := by
  unfold execPairRestartDone
  (repeat' split) <;> refine ⟨_, rfl, fun h => ?_⟩
  all_goals (repeat' first
      | with_reducible assumption | with_reducible apply State.requestHaven_memWf
      | with_reducible apply foldl_memWf | (intro t a ha) | split | simp)

theorem execHeartbeat_memWf (i : Initiator) (p : Fin 2) (s : State) :
    ∃ u1, execHeartbeat i p s = .next u1 ∧ (Memory.wf s.mem = true → Memory.wf u1.mem = true) := by
  unfold execHeartbeat
  (repeat' split) <;> refine ⟨_, rfl, fun h => ?_⟩
  all_goals (repeat' first
      | with_reducible assumption | with_reducible apply foldl_memWf | (intro t a ha) | split | simp)

theorem execHeartbeatConfig_memWf (i : Initiator) (p : Priv) (v : Word) (s : State) :
    ∃ u1, execHeartbeatConfig i p v s = .next u1 ∧ (Memory.wf s.mem = true → Memory.wf u1.mem = true) := by
  unfold execHeartbeatConfig
  (repeat' split) <;> refine ⟨_, rfl, fun h => ?_⟩
  all_goals (repeat' first
      | with_reducible assumption | with_reducible apply foldl_memWf | (intro t a ha) | split | simp)

theorem execHeartbeatMiss_memWf (p : Fin 2) (s : State) :
    ∃ u1, execHeartbeatMiss p s = .next u1 ∧ (Memory.wf s.mem = true → Memory.wf u1.mem = true) := by
  unfold execHeartbeatMiss
  (repeat' split) <;> refine ⟨_, rfl, fun h => ?_⟩
  all_goals (repeat' first
      | with_reducible assumption | with_reducible apply State.startRestart_memWf
      | with_reducible apply foldl_memWf | (intro t a ha) | split | simp)

theorem execWatchdogRestart_memWf (i : Initiator) (s : State) :
    ∃ u1, execWatchdogRestart i s = .next u1 ∧ (Memory.wf s.mem = true → Memory.wf u1.mem = true) := by
  unfold execWatchdogRestart
  (repeat' split) <;> refine ⟨_, rfl, fun h => ?_⟩
  all_goals (repeat' first
      | with_reducible assumption | with_reducible apply foldl_memWf | (intro t a ha) | split | simp)

theorem State.writeDevReq_memWf (s : State) (i : Initiator) (p : Priv) (v : Word) (h : Memory.wf s.mem = true) :
    Memory.wf (State.writeDevReq s i p v).mem = true := by
  unfold State.writeDevReq
  repeat' first
      | with_reducible assumption | with_reducible apply State.flushFirst_memWf | with_reducible apply foldl_memWf
      | (intro t a ha) | split | simp

theorem execDeviceResetRequest_memWf (i : Initiator) (p : Priv) (v : Word) (s : State) :
    ∃ u1, execDeviceResetRequest i p v s = .next u1 ∧ (Memory.wf s.mem = true → Memory.wf u1.mem = true) := by
  unfold execDeviceResetRequest
  (repeat' split) <;> refine ⟨_, rfl, fun h => ?_⟩
  all_goals (repeat' first
      | with_reducible assumption | with_reducible apply State.writeDevReq_memWf | with_reducible apply foldl_memWf
      | (intro t a ha) | split | simp)

theorem execKeyStuckTimeout_memWf (p : Fin 2) (s : State) :
    ∃ u1, execKeyStuckTimeout p s = .next u1 ∧ (Memory.wf s.mem = true → Memory.wf u1.mem = true) := by
  unfold execKeyStuckTimeout
  (repeat' split) <;> refine ⟨_, rfl, fun h => ?_⟩
  all_goals (repeat' first
      | with_reducible assumption | with_reducible apply State.flushFirst_memWf | with_reducible apply foldl_memWf
      | (intro t a ha) | split | simp)

end Sys2Proof.Machine
end

