-- ==== Sys2Proof/Laws/FrameQuarry.lean ====
section
/-!
SUPPORT. Sys2Proof/Laws/FrameQuarry.lean: what each operation and meaning of Machine/Quarry.lean leaves alone: the command queue, the
fuses, and memory, or its canonical form where the operation may write memory.
-/

namespace Sys2Proof.Machine

/-! ### What the operations leave alone -/

@[simp] theorem State.engineFault_kept (s : State) (e : Nat) (inj : Bool) :
    (State.engineFault s e inj).pending = s.pending ∧ (State.engineFault s e inj).sys.fuses = s.sys.fuses ∧
        (State.engineFault s e inj).mem = s.mem := by simp [State.engineFault]

@[simp] theorem State.writeRingFind_kept (s : State) (i : Initiator) (n : Nat) (v : Word) :
    (State.writeRingFind s i n v).pending = s.pending ∧ (State.writeRingFind s i n v).sys.fuses = s.sys.fuses ∧
        (State.writeRingFind s i n v).mem = s.mem := by simp [State.writeRingFind]

/-! ### What the meanings leave alone -/

theorem execDescriptorPush_kept (i : Initiator) (n : Fin 8) (v : Word) (s : State) :
    ∃ u1, execDescriptorPush i n v s = .next u1 ∧ u1.pending = s.pending ∧ u1.sys.fuses = s.sys.fuses := by
  unfold execDescriptorPush
  exact ⟨_, rfl, by simp, by simp⟩

theorem execDescriptorFlush_kept (i : Initiator) (n : Fin 8) (v : Word) (s : State) :
    ∃ u1, execDescriptorFlush i n v s = .next u1 ∧ u1.pending = s.pending ∧ u1.sys.fuses = s.sys.fuses := by
  unfold execDescriptorFlush
  exact ⟨_, rfl, by simp, by simp⟩

theorem execEngineDispatch_kept (e : Fin 12) (s : State) :
    ∃ u1, execEngineDispatch e s = .next u1 ∧ u1.pending = s.pending ∧ u1.sys.fuses = s.sys.fuses := by
  unfold execEngineDispatch
  (repeat' split) <;> exact ⟨_, rfl, by simp, by simp⟩

theorem execDecodeComplete_kept (e : Fin 12) (s : State) :
    ∃ u1, execDecodeComplete e s = .next u1 ∧ u1.pending = s.pending ∧ u1.sys.fuses = s.sys.fuses := by
  unfold execDecodeComplete
  (repeat' split) <;> exact ⟨_, rfl, by simp, by simp⟩

theorem execCompletionPost_kept (n : Fin 8) (s : State) :
    ∃ u1, execCompletionPost n s = .next u1 ∧ u1.pending = s.pending ∧ u1.sys.fuses = s.sys.fuses := by
  simp only [execCompletionPost, ok]
  (repeat' split) <;> first
      | exact ⟨_, rfl, by simp, by simp⟩ | (refine ⟨_, rfl, ?_, ?_⟩ <;> (repeat' split) <;> simp_all)

theorem execCompletionPop_kept (i : Initiator) (n : Fin 8) (v : Word) (s : State) :
    ∃ u1, execCompletionPop i n v s = .next u1 ∧ u1.pending = s.pending ∧ u1.sys.fuses = s.sys.fuses := by
  unfold execCompletionPop
  exact ⟨_, rfl, by simp, by simp⟩

theorem execEngineFault_kept (e : Fin 12) (s : State) :
    ∃ u1, execEngineFault e s = .next u1 ∧ u1.pending = s.pending ∧ u1.sys.fuses = s.sys.fuses := by
  unfold execEngineFault
  exact ⟨_, rfl, by simp, by simp⟩

theorem execEngineFaultClear_kept (i : Initiator) (v : Word) (s : State) :
    ∃ u1, execEngineFaultClear i v s = .next u1 ∧ u1.pending = s.pending ∧ u1.sys.fuses = s.sys.fuses := by
  unfold execEngineFaultClear
  (repeat' split) <;> exact ⟨_, rfl, by simp, by simp⟩

theorem execRingFind_kept (i : Initiator) (n : Fin 8) (v : Word) (s : State) :
    ∃ u1, execRingFind i n v s = .next u1 ∧ u1.pending = s.pending ∧ u1.sys.fuses = s.sys.fuses := by
  unfold execRingFind
  exact ⟨_, rfl, by simp, by simp⟩

theorem execRingFindDone_kept (n : Fin 8) (s : State) :
    ∃ u1, execRingFindDone n s = .next u1 ∧ u1.pending = s.pending ∧ u1.sys.fuses = s.sys.fuses := by
  simp only [execRingFindDone, ok]
  (repeat' split) <;> first
      | exact ⟨_, rfl, by simp, by simp⟩ | (refine ⟨_, rfl, ?_, ?_⟩ <;> (repeat' split) <;> simp_all)

/-! ### Memory stays canonical -/

theorem execDescriptorPush_memWf (i : Initiator) (n : Fin 8) (v : Word) (s : State) :
    ∃ u1, execDescriptorPush i n v s = .next u1 ∧ (Memory.wf s.mem = true → Memory.wf u1.mem = true) := by
  unfold execDescriptorPush
  (repeat' split) <;> refine ⟨_, rfl, fun h => ?_⟩
  all_goals (repeat' first
      | with_reducible assumption | with_reducible apply foldl_memWf | (intro t a ha) | split | simp)

theorem execDescriptorFlush_memWf (i : Initiator) (n : Fin 8) (v : Word) (s : State) :
    ∃ u1, execDescriptorFlush i n v s = .next u1 ∧ (Memory.wf s.mem = true → Memory.wf u1.mem = true) := by
  unfold execDescriptorFlush
  (repeat' split) <;> refine ⟨_, rfl, fun h => ?_⟩
  all_goals (repeat' first
      | with_reducible assumption | with_reducible apply foldl_memWf | (intro t a ha) | split | simp)

theorem execEngineDispatch_memWf (e : Fin 12) (s : State) :
    ∃ u1, execEngineDispatch e s = .next u1 ∧ (Memory.wf s.mem = true → Memory.wf u1.mem = true) := by
  unfold execEngineDispatch
  (repeat' split) <;> refine ⟨_, rfl, fun h => ?_⟩
  all_goals (repeat' first
      | with_reducible assumption | with_reducible apply foldl_memWf | (intro t a ha) | split | simp)

theorem execDecodeComplete_memWf (e : Fin 12) (s : State) :
    ∃ u1, execDecodeComplete e s = .next u1 ∧ (Memory.wf s.mem = true → Memory.wf u1.mem = true) := by
  unfold execDecodeComplete
  (repeat' split) <;> refine ⟨_, rfl, fun h => ?_⟩
  all_goals (repeat' first
      | with_reducible assumption | with_reducible apply State.endDecode_memWf | with_reducible apply foldl_memWf
      | (intro t a ha) | split | simp)

theorem execCompletionPost_memWf (n : Fin 8) (s : State) :
    ∃ u1, execCompletionPost n s = .next u1 ∧ (Memory.wf s.mem = true → Memory.wf u1.mem = true) := by
  unfold execCompletionPost
  dsimp only
  (repeat' split) <;> refine ⟨_, rfl, fun h => ?_⟩
  all_goals (repeat' first
      | with_reducible assumption | with_reducible apply State.ladderPosted_memWf
      | with_reducible apply foldl_memWf | (intro t a ha) | split | simp)

theorem execCompletionPop_memWf (i : Initiator) (n : Fin 8) (v : Word) (s : State) :
    ∃ u1, execCompletionPop i n v s = .next u1 ∧ (Memory.wf s.mem = true → Memory.wf u1.mem = true) := by
  unfold execCompletionPop
  (repeat' split) <;> refine ⟨_, rfl, fun h => ?_⟩
  all_goals (repeat' first
      | with_reducible assumption | with_reducible apply foldl_memWf | (intro t a ha) | split | simp)

theorem execEngineFault_memWf (e : Fin 12) (s : State) :
    ∃ u1, execEngineFault e s = .next u1 ∧ (Memory.wf s.mem = true → Memory.wf u1.mem = true) := by
  unfold execEngineFault
  (repeat' split) <;> refine ⟨_, rfl, fun h => ?_⟩
  all_goals (repeat' first
      | with_reducible assumption | with_reducible apply foldl_memWf | (intro t a ha) | split | simp)

theorem execEngineFaultClear_memWf (i : Initiator) (v : Word) (s : State) :
    ∃ u1, execEngineFaultClear i v s = .next u1 ∧ (Memory.wf s.mem = true → Memory.wf u1.mem = true) := by
  unfold execEngineFaultClear
  (repeat' split) <;> refine ⟨_, rfl, fun h => ?_⟩
  all_goals (repeat' first
      | with_reducible assumption | with_reducible apply foldl_memWf | (intro t a ha) | split | simp)

theorem execRingFind_memWf (i : Initiator) (n : Fin 8) (v : Word) (s : State) :
    ∃ u1, execRingFind i n v s = .next u1 ∧ (Memory.wf s.mem = true → Memory.wf u1.mem = true) := by
  unfold execRingFind
  (repeat' split) <;> refine ⟨_, rfl, fun h => ?_⟩
  all_goals (repeat' first
      | with_reducible assumption | with_reducible apply foldl_memWf | (intro t a ha) | split | simp)

theorem execRingFindDone_memWf (n : Fin 8) (s : State) :
    ∃ u1, execRingFindDone n s = .next u1 ∧ (Memory.wf s.mem = true → Memory.wf u1.mem = true) := by
  unfold execRingFindDone
  dsimp only
  (repeat' split) <;> refine ⟨_, rfl, fun h => ?_⟩
  all_goals (repeat' first
      | with_reducible assumption | with_reducible apply foldl_memWf | (intro t a ha) | split | simp)

end Sys2Proof.Machine
end

