-- ==== Sys2Proof/Laws/FrameStrata.lean ====
section
/-!
SUPPORT. Sys2Proof/Laws/FrameStrata.lean: what each operation and meaning of Machine/Strata.lean leaves alone: the command queue, the
fuses, and memory, or its canonical form where the operation may write memory.
-/

namespace Sys2Proof.Machine

/-! ### What the operations leave alone -/

@[simp] theorem State.strResume_kept (s : State) (n : Nat) :
    (State.strResume s n).pending = s.pending ∧ (State.strResume s n).sys.fuses = s.sys.fuses ∧ (State.strResume s
        n).mem = s.mem := by simp [State.strResume]

@[simp] theorem State.strCommit_pending (s : State) (n kind ga gb : Nat) (f : State → State)
    (h : ∀ t, (f t).pending = t.pending) : (s.strCommit n kind ga gb f).pending = s.pending := by
  unfold State.strCommit
  apply State.strWord_pending
  intro t
  split <;> simp [h]

@[simp] theorem State.strCommit_fuses (s : State) (n kind ga gb : Nat) (f : State → State)
    (h : ∀ t, (f t).sys.fuses = t.sys.fuses) : (s.strCommit n kind ga gb f).sys.fuses = s.sys.fuses := by
  unfold State.strCommit
  apply State.strWord_fuses
  intro t
  split <;> simp [h]


@[simp] theorem State.formatDone_kept (s : State) (n k : Nat) :
    (State.formatDone s n k).2.pending = s.pending ∧ (State.formatDone s n k).2.sys.fuses = s.sys.fuses ∧
        (State.formatDone s n k).2.mem = s.mem := by simp [State.formatDone]

@[simp] theorem State.dropItem_kept (s : State) (n : Nat) :
    (State.dropItem s n).pending = s.pending ∧ (State.dropItem s n).sys.fuses = s.sys.fuses ∧ (State.dropItem s
        n).mem = s.mem := by simp [State.dropItem]

@[simp] theorem State.dropRun_kept (s : State) (n : Nat) (item : Option (Nat × Nat)) :
    (State.dropRun s n item).pending = s.pending ∧ (State.dropRun s n item).sys.fuses = s.sys.fuses ∧ (State.dropRun
        s n item).mem = s.mem := by
  unfold State.dropRun
  repeat' split
  all_goals simp

@[simp] theorem State.strDone_kept (s : State) (n ga gb : Nat) :
    (State.strDone s n ga gb).pending = s.pending ∧ (State.strDone s n ga gb).sys.fuses = s.sys.fuses := by simp
        [State.strDone]

/-! ### What the meanings leave alone -/

theorem execWorkRead_kept (i : Initiator) (n : Fin 12) (k : Fin 65536) (s : State) :
    ∃ u1, execWorkRead i n k s = .next u1 ∧ u1.pending = s.pending ∧ u1.sys.fuses = s.sys.fuses := by
  unfold execWorkRead
  exact ⟨_, rfl, by simp, by simp⟩

theorem execWorkWriteRun_kept (i : Initiator) (n : Fin 12) (k : Fin 65536) (s : State) :
    ∃ u1, execWorkWriteRun i n k s = .next u1 ∧ u1.pending = s.pending ∧ u1.sys.fuses = s.sys.fuses := by
  unfold execWorkWriteRun
  exact ⟨_, rfl, by simp, by simp⟩

theorem execWorkLadder_kept (i : Initiator) (n : Fin 12) (k : Fin 65536) (s : State) :
    ∃ u1, execWorkLadder i n k s = .next u1 ∧ u1.pending = s.pending ∧ u1.sys.fuses = s.sys.fuses := by
  unfold execWorkLadder
  exact ⟨_, rfl, by simp, by simp⟩

theorem execWorkSurvey_kept (i : Initiator) (n : Fin 12) (k : Fin 65536) (s : State) :
    ∃ u1, execWorkSurvey i n k s = .next u1 ∧ u1.pending = s.pending ∧ u1.sys.fuses = s.sys.fuses := by
  unfold execWorkSurvey
  exact ⟨_, rfl, by simp, by simp⟩

theorem execWorkFormat_kept (i : Initiator) (n : Fin 12) (k : Fin 65536) (s : State) :
    ∃ u1, execWorkFormat i n k s = .next u1 ∧ u1.pending = s.pending ∧ u1.sys.fuses = s.sys.fuses := by
  unfold execWorkFormat
  exact ⟨_, rfl, by simp, by simp⟩

theorem execWorkDispatch_kept (n : Fin 12) (s : State) :
    ∃ u1, execWorkDispatch n s = .next u1 ∧ u1.pending = s.pending ∧ u1.sys.fuses = s.sys.fuses := by
  unfold execWorkDispatch
  (repeat' split) <;> exact ⟨_, rfl, by simp, by simp⟩

theorem execNop_kept (n : Fin 12) (s : State) :
    ∃ u1, execNop n s = .next u1 ∧ u1.pending = s.pending ∧ u1.sys.fuses = s.sys.fuses := by
  unfold execNop
  exact ⟨_, rfl, by simp, by simp⟩

theorem execAlu_kept (n : Fin 12) (gd ga gb : Fin 32) (fn : Fin 16) (s : State) :
    ∃ u1, execAlu n gd ga gb fn s = .next u1 ∧ u1.pending = s.pending ∧ u1.sys.fuses = s.sys.fuses := by
  unfold execAlu
  exact ⟨_, rfl, by simp, by simp⟩

theorem execAddi_kept (n : Fin 12) (gd ga : Fin 32) (imm : BitVec 17) (s : State) :
    ∃ u1, execAddi n gd ga imm s = .next u1 ∧ u1.pending = s.pending ∧ u1.sys.fuses = s.sys.fuses := by
  unfold execAddi
  exact ⟨_, rfl, by simp, by simp⟩

theorem execLui_kept (n : Fin 12) (gd : Fin 32) (imm : BitVec 16) (s : State) :
    ∃ u1, execLui n gd imm s = .next u1 ∧ u1.pending = s.pending ∧ u1.sys.fuses = s.sys.fuses := by
  unfold execLui
  exact ⟨_, rfl, by simp, by simp⟩

theorem execBranch_kept (n : Fin 12) (cond : Fin 8) (ga : Fin 32) (target : BitVec 17) (s : State) :
    ∃ u1, execBranch n cond ga target s = .next u1 ∧ u1.pending = s.pending ∧ u1.sys.fuses = s.sys.fuses := by
  unfold execBranch
  exact ⟨_, rfl, by simp, by simp⟩

theorem execCall_kept (n : Fin 12) (target : BitVec 17) (s : State) :
    ∃ u1, execCall n target s = .next u1 ∧ u1.pending = s.pending ∧ u1.sys.fuses = s.sys.fuses := by
  unfold execCall
  exact ⟨_, rfl, by simp, by simp⟩

theorem execReturn_kept (n : Fin 12) (s : State) :
    ∃ u1, execReturn n s = .next u1 ∧ u1.pending = s.pending ∧ u1.sys.fuses = s.sys.fuses := by
  unfold execReturn
  refine ⟨_, rfl, State.strWord_pending _ _ _ _ ?_, State.strWord_fuses _ _ _ _ ?_⟩
  all_goals
    intro t
    dsimp only
    split <;> simp

theorem execScratchLoad_kept (n : Fin 12) (gd ga : Fin 32) (imm : BitVec 17) (s : State) :
    ∃ u1, execScratchLoad n gd ga imm s = .next u1 ∧ u1.pending = s.pending ∧ u1.sys.fuses = s.sys.fuses := by
  unfold execScratchLoad
  exact ⟨_, rfl, by simp, by simp⟩

theorem execScratchStore_kept (n : Fin 12) (gs ga : Fin 32) (imm : BitVec 17) (s : State) :
    ∃ u1, execScratchStore n gs ga imm s = .next u1 ∧ u1.pending = s.pending ∧ u1.sys.fuses = s.sys.fuses := by
  unfold execScratchStore
  exact ⟨_, rfl, by simp, by simp⟩

theorem execNano_kept (n : Fin 12) (naddr : Fin 512) (ga gb : Fin 32) (cnt : BitVec 8) (rom : BitVec 128) (frames :
    List (BitVec 512)) (upset : Bool) (s : State) :
    ∃ u1, execNano n naddr ga gb cnt rom frames upset s = .next u1 ∧ u1.pending = s.pending ∧ u1.sys.fuses =
        s.sys.fuses := by
  unfold execNano
  refine ⟨_, rfl, State.strWord_pending _ _ _ _ ?_, State.strWord_fuses _ _ _ _ ?_⟩
  all_goals
    intro t
    dsimp only
    split <;> simp

theorem execWait_kept (n : Fin 12) (event : Fin 32) (limit : BitVec 22) (set : Bool) (s : State) :
    ∃ u1, execWait n event limit set s = .next u1 ∧ u1.pending = s.pending ∧ u1.sys.fuses = s.sys.fuses := by
  unfold execWait
  (repeat' split) <;> exact ⟨_, rfl, by simp, by simp⟩

theorem execWaitLimitExpiry_kept (n : Fin 12) (s : State) :
    ∃ u1, execWaitLimitExpiry n s = .next u1 ∧ u1.pending = s.pending ∧ u1.sys.fuses = s.sys.fuses := by
  unfold execWaitLimitExpiry
  (repeat' split) <;> exact ⟨_, rfl, by simp, by simp⟩

theorem execRoutine_kept (n : Fin 12) (id : BitVec 16) (s : State) :
    ∃ u1, execRoutine n id s = .next u1 ∧ u1.pending = s.pending ∧ u1.sys.fuses = s.sys.fuses := by
  unfold execRoutine
  exact ⟨_, rfl, by simp, by simp⟩

theorem execCommitContext_kept (n : Fin 12) (ga gb : Fin 32) (retry : Option Word) (s : State) :
    ∃ u1, execCommitContext n ga gb retry s = .next u1 ∧ u1.pending = s.pending ∧ u1.sys.fuses = s.sys.fuses := by
  unfold execCommitContext
  (repeat' split) <;> exact ⟨_, rfl, by simp, by simp⟩

theorem execCommitDone_kept (n : Fin 12) (ga gb : Fin 32) (s : State) :
    ∃ u1, execCommitDone n ga gb s = .next u1 ∧ u1.pending = s.pending ∧ u1.sys.fuses = s.sys.fuses := by
  unfold execCommitDone
  dsimp only
  repeat' split
  all_goals exact ⟨_, rfl, by simp, by simp⟩

theorem execCommitMark_kept (n : Fin 12) (ga gb : Fin 32) (s : State) :
    ∃ u1, execCommitMark n ga gb s = .next u1 ∧ u1.pending = s.pending ∧ u1.sys.fuses = s.sys.fuses := by
  unfold execCommitMark
  exact ⟨_, rfl, by simp, by simp⟩

theorem execReturnFromEvent_kept (n : Fin 12) (s : State) :
    ∃ u1, execReturnFromEvent n s = .next u1 ∧ u1.pending = s.pending ∧ u1.sys.fuses = s.sys.fuses := by
  unfold execReturnFromEvent
  refine ⟨_, rfl, State.strWord_pending _ _ _ _ ?_, State.strWord_fuses _ _ _ _ ?_⟩
  all_goals
    intro t
    dsimp only
    split <;> simp

theorem execSequencerFault_kept (n : Fin 12) (illegal : Bool) (s : State) :
    ∃ u1, execSequencerFault n illegal s = .next u1 ∧ u1.pending = s.pending ∧ u1.sys.fuses = s.sys.fuses := by
  unfold execSequencerFault
  exact ⟨_, rfl, by simp, by simp⟩

theorem execSequencerGateAbandon_kept (a : Fin 4) (s : State) :
    ∃ u1, execSequencerGateAbandon a s = .next u1 ∧ u1.pending = s.pending ∧ u1.sys.fuses = s.sys.fuses := by
  unfold execSequencerGateAbandon
  (repeat' split) <;> exact ⟨_, rfl, by simp, by simp⟩

theorem execSequencerHandover_kept (n : Fin 8) (s : State) :
    ∃ u1, execSequencerHandover n s = .next u1 ∧ u1.pending = s.pending ∧ u1.sys.fuses = s.sys.fuses := by
  unfold execSequencerHandover
  (repeat' split) <;> exact ⟨_, rfl, by simp, by simp⟩

theorem execSequencerAbort_kept (i : Initiator) (n : Fin 12) (s : State) :
    ∃ u1, execSequencerAbort i n s = .next u1 ∧ u1.pending = s.pending ∧ u1.sys.fuses = s.sys.fuses := by
  unfold execSequencerAbort
  exact ⟨_, rfl, by simp, by simp⟩

theorem execSequencerRestart_kept (n : Fin 12) (by_ : RestartBy) (s : State) :
    ∃ u1, execSequencerRestart n by_ s = .next u1 ∧ u1.pending = s.pending ∧ u1.sys.fuses = s.sys.fuses := by
  unfold execSequencerRestart
  (repeat' split) <;> exact ⟨_, rfl, by simp, by simp⟩

theorem execPatchLoad_kept (n : Fin 12) (images : List (Option Nat)) (s : State) :
    ∃ u1, execPatchLoad n images s = .next u1 ∧ u1.pending = s.pending ∧ u1.sys.fuses = s.sys.fuses := by
  unfold execPatchLoad
  exact ⟨_, rfl, by simp, by simp⟩

/-! ### Memory stays canonical -/

theorem execWorkRead_memWf (i : Initiator) (n : Fin 12) (k : Fin 65536) (s : State) :
    ∃ u1, execWorkRead i n k s = .next u1 ∧ (Memory.wf s.mem = true → Memory.wf u1.mem = true) := by
  unfold execWorkRead
  (repeat' split) <;> refine ⟨_, rfl, fun h => ?_⟩
  all_goals (repeat' first
      | with_reducible assumption | with_reducible apply foldl_memWf | (intro t a ha) | split | simp)

theorem execWorkWriteRun_memWf (i : Initiator) (n : Fin 12) (k : Fin 65536) (s : State) :
    ∃ u1, execWorkWriteRun i n k s = .next u1 ∧ (Memory.wf s.mem = true → Memory.wf u1.mem = true) := by
  unfold execWorkWriteRun
  (repeat' split) <;> refine ⟨_, rfl, fun h => ?_⟩
  all_goals (repeat' first
      | with_reducible assumption | with_reducible apply foldl_memWf | (intro t a ha) | split | simp)

theorem execWorkLadder_memWf (i : Initiator) (n : Fin 12) (k : Fin 65536) (s : State) :
    ∃ u1, execWorkLadder i n k s = .next u1 ∧ (Memory.wf s.mem = true → Memory.wf u1.mem = true) := by
  unfold execWorkLadder
  (repeat' split) <;> refine ⟨_, rfl, fun h => ?_⟩
  all_goals (repeat' first
      | with_reducible assumption | with_reducible apply foldl_memWf | (intro t a ha) | split | simp)

theorem execWorkSurvey_memWf (i : Initiator) (n : Fin 12) (k : Fin 65536) (s : State) :
    ∃ u1, execWorkSurvey i n k s = .next u1 ∧ (Memory.wf s.mem = true → Memory.wf u1.mem = true) := by
  unfold execWorkSurvey
  (repeat' split) <;> refine ⟨_, rfl, fun h => ?_⟩
  all_goals (repeat' first
      | with_reducible assumption | with_reducible apply foldl_memWf | (intro t a ha) | split | simp)

theorem execWorkFormat_memWf (i : Initiator) (n : Fin 12) (k : Fin 65536) (s : State) :
    ∃ u1, execWorkFormat i n k s = .next u1 ∧ (Memory.wf s.mem = true → Memory.wf u1.mem = true) := by
  unfold execWorkFormat
  (repeat' split) <;> refine ⟨_, rfl, fun h => ?_⟩
  all_goals (repeat' first
      | with_reducible assumption | with_reducible apply foldl_memWf | (intro t a ha) | split | simp)

theorem execWorkDispatch_memWf (n : Fin 12) (s : State) :
    ∃ u1, execWorkDispatch n s = .next u1 ∧ (Memory.wf s.mem = true → Memory.wf u1.mem = true) := by
  unfold execWorkDispatch
  (repeat' split) <;> refine ⟨_, rfl, fun h => ?_⟩
  all_goals (repeat' first
      | with_reducible assumption | with_reducible apply State.strBegin_memWf
      | with_reducible apply State.strGo_memWf | with_reducible apply foldl_memWf | (intro t a ha) | split | simp)

theorem execNop_memWf (n : Fin 12) (s : State) :
    ∃ u1, execNop n s = .next u1 ∧ (Memory.wf s.mem = true → Memory.wf u1.mem = true) := by
  unfold execNop
  refine ⟨_, rfl, fun h => State.strWord_memWf _ _ _ _ h ?_⟩
  intro t ht
  repeat' first
      | with_reducible assumption | with_reducible apply State.strNext_memWf
      | with_reducible apply State.strGo_memWf | with_reducible apply State.strFault_memWf
      | with_reducible apply State.strAbandon_memWf | with_reducible apply State.towWrite_memWf | split | simp

theorem execAlu_memWf (n : Fin 12) (gd ga gb : Fin 32) (fn : Fin 16) (s : State) :
    ∃ u1, execAlu n gd ga gb fn s = .next u1 ∧ (Memory.wf s.mem = true → Memory.wf u1.mem = true) := by
  unfold execAlu
  refine ⟨_, rfl, fun h => State.strWord_memWf _ _ _ _ h ?_⟩
  intro t ht
  dsimp only
  repeat' first
      | with_reducible assumption | with_reducible apply State.strNext_memWf
      | with_reducible apply State.strGo_memWf | with_reducible apply State.strFault_memWf
      | with_reducible apply State.strAbandon_memWf | with_reducible apply State.towWrite_memWf | split | simp

theorem execAddi_memWf (n : Fin 12) (gd ga : Fin 32) (imm : BitVec 17) (s : State) :
    ∃ u1, execAddi n gd ga imm s = .next u1 ∧ (Memory.wf s.mem = true → Memory.wf u1.mem = true) := by
  unfold execAddi
  refine ⟨_, rfl, fun h => State.strWord_memWf _ _ _ _ h ?_⟩
  intro t ht
  try dsimp only
  repeat' first
      | with_reducible assumption | with_reducible apply State.strNext_memWf
      | with_reducible apply State.strGo_memWf | with_reducible apply State.strFault_memWf
      | with_reducible apply State.strAbandon_memWf | with_reducible apply State.towWrite_memWf | split | simp

theorem execLui_memWf (n : Fin 12) (gd : Fin 32) (imm : BitVec 16) (s : State) :
    ∃ u1, execLui n gd imm s = .next u1 ∧ (Memory.wf s.mem = true → Memory.wf u1.mem = true) := by
  unfold execLui
  refine ⟨_, rfl, fun h => State.strWord_memWf _ _ _ _ h ?_⟩
  intro t ht
  try dsimp only
  repeat' first
      | with_reducible assumption | with_reducible apply State.strNext_memWf
      | with_reducible apply State.strGo_memWf | with_reducible apply State.strFault_memWf
      | with_reducible apply State.strAbandon_memWf | with_reducible apply State.towWrite_memWf | split | simp

theorem execBranch_memWf (n : Fin 12) (cond : Fin 8) (ga : Fin 32) (target : BitVec 17) (s : State) :
    ∃ u1, execBranch n cond ga target s = .next u1 ∧ (Memory.wf s.mem = true → Memory.wf u1.mem = true) := by
  unfold execBranch
  refine ⟨_, rfl, fun h => State.strWord_memWf _ _ _ _ h ?_⟩
  intro t ht
  dsimp only
  repeat' first
      | with_reducible assumption | with_reducible apply State.strNext_memWf
      | with_reducible apply State.strGo_memWf | with_reducible apply State.strFault_memWf
      | with_reducible apply State.strAbandon_memWf | with_reducible apply State.towWrite_memWf | split | simp

theorem execCall_memWf (n : Fin 12) (target : BitVec 17) (s : State) :
    ∃ u1, execCall n target s = .next u1 ∧ (Memory.wf s.mem = true → Memory.wf u1.mem = true) := by
  unfold execCall
  refine ⟨_, rfl, fun h => State.strWord_memWf _ _ _ _ h ?_⟩
  intro t ht
  dsimp only
  repeat' first
      | with_reducible assumption | with_reducible apply State.strNext_memWf
      | with_reducible apply State.strGo_memWf | with_reducible apply State.strFault_memWf
      | with_reducible apply State.strAbandon_memWf | with_reducible apply State.towWrite_memWf | split | simp

theorem execReturn_memWf (n : Fin 12) (s : State) :
    ∃ u1, execReturn n s = .next u1 ∧ (Memory.wf s.mem = true → Memory.wf u1.mem = true) := by
  unfold execReturn
  refine ⟨_, rfl, fun h => State.strWord_memWf _ _ _ _ h ?_⟩
  intro t ht
  dsimp only
  repeat' first
      | with_reducible assumption | with_reducible apply State.strNext_memWf
      | with_reducible apply State.strGo_memWf | with_reducible apply State.strFault_memWf
      | with_reducible apply State.strAbandon_memWf | with_reducible apply State.towWrite_memWf | split | simp

theorem execScratchLoad_memWf (n : Fin 12) (gd ga : Fin 32) (imm : BitVec 17) (s : State) :
    ∃ u1, execScratchLoad n gd ga imm s = .next u1 ∧ (Memory.wf s.mem = true → Memory.wf u1.mem = true) := by
  unfold execScratchLoad
  refine ⟨_, rfl, fun h => State.strWord_memWf _ _ _ _ h ?_⟩
  intro t ht
  try dsimp only
  repeat' first
      | with_reducible assumption | with_reducible apply State.strNext_memWf
      | with_reducible apply State.strGo_memWf | with_reducible apply State.strFault_memWf
      | with_reducible apply State.strAbandon_memWf | with_reducible apply State.towWrite_memWf | split | simp

theorem execScratchStore_memWf (n : Fin 12) (gs ga : Fin 32) (imm : BitVec 17) (s : State) :
    ∃ u1, execScratchStore n gs ga imm s = .next u1 ∧ (Memory.wf s.mem = true → Memory.wf u1.mem = true) := by
  unfold execScratchStore
  refine ⟨_, rfl, fun h => State.strWord_memWf _ _ _ _ h ?_⟩
  intro t ht
  try dsimp only
  repeat' first
      | with_reducible assumption | with_reducible apply State.strNext_memWf
      | with_reducible apply State.strGo_memWf | with_reducible apply State.strFault_memWf
      | with_reducible apply State.strAbandon_memWf | with_reducible apply State.towWrite_memWf | split | simp

theorem Issue.then_memWf (x : Issue) (f : State → Issue) (hx : Memory.wf x.st.mem = true)
    (h : ∀ t, Memory.wf t.mem = true → Memory.wf (f t).st.mem = true) : Memory.wf (x.then f).st.mem = true := by
  unfold Issue.then
  split
  · exact h _ hx
  · exact hx

theorem State.nanoMem_memWf (s : State) (n ga : Nat) (x : Nano) (op : Nat) (h : Memory.wf s.mem = true) :
    Memory.wf (s.nanoMem n ga x op).st.mem = true := by
  unfold State.nanoMem
  dsimp only
  repeat' first
      | with_reducible assumption | with_reducible apply State.strFault_memWf
      | with_reducible apply State.dmaWrite_memWf | split | simp

theorem State.nanoAes_memWf (s : State) (n gb : Nat) (x : Nano) (upset : Bool) (h : Memory.wf s.mem = true) :
    Memory.wf (s.nanoAes n gb x upset).st.mem = true := by
  unfold State.nanoAes
  dsimp only
  repeat' first | with_reducible assumption | with_reducible apply State.strNoKey_memWf | split | simp

theorem State.nanoIssue_memWf (s : State) (n ga gb : Nat) (x : Nano) (frame : Nat) (upset : Bool) (h : Memory.wf
    s.mem = true) :
    Memory.wf (s.nanoIssue n ga gb x frame upset).st.mem = true := by
  unfold State.nanoIssue
  refine Issue.then_memWf _ _ (Issue.then_memWf _ _ (Issue.then_memWf _ _ (State.nanoMem_memWf _ _ _ _ _ h) ?_) ?_) ?_
  · exact fun t ht => State.nanoAes_memWf _ _ _ _ _ ht
  · intro t ht; simp; exact ht
  · exact fun t ht => State.nanoMem_memWf _ _ _ _ _ ht

theorem State.nanoRun_memWf (n ga gb : Nat) (x : Nano) (upset : Bool) (k : Nat) :
    ∀ (s : State) (frames : List (BitVec 512)), Memory.wf s.mem = true →
      Memory.wf (s.nanoRun n ga gb x upset frames k).st.mem = true := by
  induction k with
  | zero => intro s frames h; exact h
  | succ k ih =>
    intro s frames h
    simp only [State.nanoRun]
    refine Issue.then_memWf _ _ (State.nanoIssue_memWf _ _ _ _ _ _ _ ?_) fun t ht => ih t _ ht
    split <;> simp <;> exact h

theorem execNano_memWf (n : Fin 12) (naddr : Fin 512) (ga gb : Fin 32) (cnt : BitVec 8) (rom : BitVec 128)
    (frames : List (BitVec 512)) (upset : Bool) (s : State) :
    ∃ u1, execNano n naddr ga gb cnt rom frames upset s = .next u1 ∧ (Memory.wf s.mem = true → Memory.wf u1.mem =
        true) := by
  unfold execNano
  refine ⟨_, rfl, fun h => State.strWord_memWf _ _ _ _ h ?_⟩
  intro t ht
  dsimp only
  repeat' split
  all_goals first
    | exact State.nanoRun_memWf _ _ _ _ _ _ _ _ ht
    | exact State.strNext_memWf _ _ (State.nanoRun_memWf _ _ _ _ _ _ _ _ ht)

theorem execWait_memWf (n : Fin 12) (event : Fin 32) (limit : BitVec 22) (set : Bool) (s : State) :
    ∃ u1, execWait n event limit set s = .next u1 ∧ (Memory.wf s.mem = true → Memory.wf u1.mem = true) := by
  unfold execWait
  split
  · split
    · refine ⟨_, rfl, fun h => State.strNext_memWf _ _ ?_⟩
      simp; exact h
    · exact ⟨_, rfl, id⟩
  · refine ⟨_, rfl, fun h => State.strWord_memWf _ _ _ _ h ?_⟩
    intro t ht
    dsimp only
    split
    · refine State.strNext_memWf _ _ ?_
      simp; exact ht
    · simp; exact ht

theorem execWaitLimitExpiry_memWf (n : Fin 12) (s : State) :
    ∃ u1, execWaitLimitExpiry n s = .next u1 ∧ (Memory.wf s.mem = true → Memory.wf u1.mem = true) := by
  unfold execWaitLimitExpiry
  (repeat' split) <;> refine ⟨_, rfl, fun h => ?_⟩
  all_goals (repeat' first
      | with_reducible assumption | with_reducible apply State.strNext_memWf | with_reducible apply foldl_memWf
      | (intro t a ha) | split | simp)

theorem execRoutine_memWf (n : Fin 12) (id : BitVec 16) (s : State) :
    ∃ u1, execRoutine n id s = .next u1 ∧ (Memory.wf s.mem = true → Memory.wf u1.mem = true) := by
  unfold execRoutine
  refine ⟨_, rfl, fun h => State.strWord_memWf _ _ _ _ h ?_⟩
  intro t ht
  dsimp only
  repeat' first
      | with_reducible assumption | with_reducible apply State.strNext_memWf
      | with_reducible apply State.strGo_memWf | with_reducible apply State.strFault_memWf
      | with_reducible apply State.strAbandon_memWf | with_reducible apply State.towWrite_memWf | split | simp

theorem State.strCommit_memWf (s : State) (n kind ga gb : Nat) (f : State → State) (h : Memory.wf s.mem = true)
    (hf : ∀ t, Memory.wf t.mem = true → Memory.wf (f t).mem = true) : Memory.wf (s.strCommit n kind ga gb f).mem =
        true := by
  unfold State.strCommit
  refine State.strWord_memWf _ _ _ _ h ?_
  intro t ht
  split
  · exact State.strEvent_memWf _ _ _ ht
  · refine State.strNext_memWf _ _ ?_
    simpa using hf t ht

theorem execCommitContext_memWf (n : Fin 12) (ga gb : Fin 32) (retry : Option Word) (s : State) :
    ∃ u1, execCommitContext n ga gb retry s = .next u1 ∧ (Memory.wf s.mem = true → Memory.wf u1.mem = true) := by
  unfold execCommitContext
  refine ⟨_, rfl, fun h => State.strCommit_memWf _ _ _ _ _ _ h ?_⟩
  intro t ht
  dsimp only
  repeat' first | with_reducible assumption | with_reducible apply State.strNoKey_memWf | split | simp

theorem State.strDone_memWf (s : State) (n ga gb : Nat) (h : Memory.wf s.mem = true) :
    Memory.wf (State.strDone s n ga gb).mem = true := by
  unfold State.strDone
  refine State.strCommit_memWf _ _ _ _ _ _ h ?_
  intro t ht
  have k : Memory.wf (((t.ladderDrop n).dropItem n).dropRun n (t.seq n).wq.head?).flushFill.mem = true := by
    have q := State.ladderDrop_memWf t n ht
    simpa using q
  dsimp only
  generalize (((t.ladderDrop n).dropItem n).dropRun n (t.seq n).wq.head?).flushFill = v at k ⊢
  repeat' first | with_reducible assumption | with_reducible apply State.strBegin_memWf | split | simp

theorem execCommitDone_memWf (n : Fin 12) (ga gb : Fin 32) (s : State) :
    ∃ u1, execCommitDone n ga gb s = .next u1 ∧ (Memory.wf s.mem = true → Memory.wf u1.mem = true) := by
  unfold execCommitDone
  (repeat' split) <;> refine ⟨_, rfl, fun h => ?_⟩
  all_goals (repeat' first
      | with_reducible assumption | with_reducible apply State.strDone_memWf
      | with_reducible apply State.strFault_memWf | with_reducible apply foldl_memWf | (intro t a ha) | split
      | simp)

theorem execCommitMark_memWf (n : Fin 12) (ga gb : Fin 32) (s : State) :
    ∃ u1, execCommitMark n ga gb s = .next u1 ∧ (Memory.wf s.mem = true → Memory.wf u1.mem = true) := by
  unfold execCommitMark
  (repeat' split) <;> refine ⟨_, rfl, fun h => ?_⟩
  all_goals (repeat' first
      | with_reducible assumption | with_reducible apply State.strCommit_memWf | with_reducible apply foldl_memWf
      | (intro t a ha) | split | simp)

theorem execReturnFromEvent_memWf (n : Fin 12) (s : State) :
    ∃ u1, execReturnFromEvent n s = .next u1 ∧ (Memory.wf s.mem = true → Memory.wf u1.mem = true) := by
  unfold execReturnFromEvent
  refine ⟨_, rfl, fun h => State.strWord_memWf _ _ _ _ h ?_⟩
  intro t ht
  dsimp only
  repeat' first
      | with_reducible assumption | with_reducible apply State.strAbandon_memWf
      | with_reducible apply State.strBegin_memWf | with_reducible apply State.strGo_memWf | split | simp

theorem execSequencerFault_memWf (n : Fin 12) (illegal : Bool) (s : State) :
    ∃ u1, execSequencerFault n illegal s = .next u1 ∧ (Memory.wf s.mem = true → Memory.wf u1.mem = true) := by
  unfold execSequencerFault
  (repeat' split) <;> refine ⟨_, rfl, fun h => ?_⟩
  all_goals (repeat' first
      | with_reducible assumption | with_reducible apply State.strFault_memWf | with_reducible apply foldl_memWf
      | (intro t a ha) | split | simp)

theorem execSequencerGateAbandon_memWf (a : Fin 4) (s : State) :
    ∃ u1, execSequencerGateAbandon a s = .next u1 ∧ (Memory.wf s.mem = true → Memory.wf u1.mem = true) := by
  unfold execSequencerGateAbandon
  (repeat' split) <;> refine ⟨_, rfl, fun h => ?_⟩
  all_goals (repeat' first
      | with_reducible assumption | with_reducible apply State.strEvent_memWf | with_reducible apply foldl_memWf
      | (intro t a ha) | split | simp)

theorem execSequencerHandover_memWf (n : Fin 8) (s : State) :
    ∃ u1, execSequencerHandover n s = .next u1 ∧ (Memory.wf s.mem = true → Memory.wf u1.mem = true) := by
  unfold execSequencerHandover
  (repeat' split) <;> refine ⟨_, rfl, fun h => ?_⟩
  all_goals (repeat' first
      | with_reducible assumption | with_reducible apply State.strEvent_memWf | with_reducible apply foldl_memWf
      | (intro t a ha) | split | simp)

theorem execSequencerAbort_memWf (i : Initiator) (n : Fin 12) (s : State) :
    ∃ u1, execSequencerAbort i n s = .next u1 ∧ (Memory.wf s.mem = true → Memory.wf u1.mem = true) := by
  unfold execSequencerAbort
  (repeat' split) <;> refine ⟨_, rfl, fun h => ?_⟩
  all_goals (repeat' first
      | with_reducible assumption | with_reducible apply State.writeStrCtl_memWf | with_reducible apply foldl_memWf
      | (intro t a ha) | split | simp)

theorem execSequencerRestart_memWf (n : Fin 12) (by_ : RestartBy) (s : State) :
    ∃ u1, execSequencerRestart n by_ s = .next u1 ∧ (Memory.wf s.mem = true → Memory.wf u1.mem = true) := by
  unfold execSequencerRestart
  (repeat' split) <;> refine ⟨_, rfl, fun h => ?_⟩
  all_goals (repeat' first
      | with_reducible assumption | with_reducible apply State.strFault_memWf
      | with_reducible apply State.strRestart_memWf | with_reducible apply State.writeStrCtl_memWf
      | with_reducible apply foldl_memWf | (intro t a ha) | split | simp)

theorem execPatchLoad_memWf (n : Fin 12) (images : List (Option Nat)) (s : State) :
    ∃ u1, execPatchLoad n images s = .next u1 ∧ (Memory.wf s.mem = true → Memory.wf u1.mem = true) := by
  unfold execPatchLoad
  (repeat' split) <;> refine ⟨_, rfl, fun h => ?_⟩
  all_goals (repeat' first
      | with_reducible assumption | with_reducible apply State.patchLoad_memWf | with_reducible apply foldl_memWf
      | (intro t a ha) | split | simp)

end Sys2Proof.Machine
end

