-- ==== Sys2Proof/Laws/FrameWaymark.lean ====
section
/-!
SUPPORT. Sys2Proof/Laws/FrameWaymark.lean: what each operation and meaning of Machine/Waymark.lean leaves alone: the command queue, the
fuses, and memory, or its canonical form where the operation may write memory.
-/

namespace Sys2Proof.Machine

/-! ### What the operations leave alone -/

@[simp] theorem State.writePurge_kept (s : State) (i : Initiator) (v : Word) :
    (State.writePurge s i v).pending = s.pending ∧ (State.writePurge s i v).sys.fuses = s.sys.fuses ∧
        (State.writePurge s i v).mem = s.mem := by simp [State.writePurge]

@[simp] theorem State.padTo_kept (s : State) (b r : Nat) (x0 : Nat) :
    (State.padTo s b r x0).pending = s.pending ∧ (State.padTo s b r x0).sys.fuses = s.sys.fuses ∧ (State.padTo s b r
        x0).mem = s.mem := by
  induction x0 generalizing s <;> simp_all [State.padTo]

@[simp] theorem State.placeWaiting_kept (s : State) :
    (State.placeWaiting s).pending = s.pending ∧ (State.placeWaiting s).sys.fuses = s.sys.fuses ∧
        (State.placeWaiting s).mem = s.mem := by simp [State.placeWaiting]

@[simp] theorem State.dropLost_kept (s : State) (p : Key × Nat → Bool) :
    (State.dropLost s p).pending = s.pending ∧ (State.dropLost s p).sys.fuses = s.sys.fuses ∧ (State.dropLost s
        p).mem = s.mem := by simp [State.dropLost]

@[simp] theorem State.beginClean_kept (s : State) (gn : Nat) (g : Group) :
    (State.beginClean s gn g).pending = s.pending ∧ (State.beginClean s gn g).sys.fuses = s.sys.fuses ∧
        (State.beginClean s gn g).mem = s.mem := by simp [State.beginClean]

@[simp] theorem State.cleanCopies_kept (s : State) :
    (State.cleanCopies s).pending = s.pending ∧ (State.cleanCopies s).sys.fuses = s.sys.fuses ∧ (State.cleanCopies
        s).mem = s.mem := by simp [State.cleanCopies]

@[simp] theorem State.surveySector_kept (s : State) (b : Nat) (q : Nat × SurveyOutcome) :
    (State.surveySector s b q).pending = s.pending ∧ (State.surveySector s b q).sys.fuses = s.sys.fuses := by
  unfold State.surveySector
  repeat' split
  all_goals simp

@[simp] theorem State.writeCkptCtl_kept (s : State) (i : Initiator) (v : Word) :
    (State.writeCkptCtl s i v).pending = s.pending ∧ (State.writeCkptCtl s i v).sys.fuses = s.sys.fuses ∧
        (State.writeCkptCtl s i v).mem = s.mem := by simp [State.writeCkptCtl]

@[simp] theorem State.waymarkUp_kept (s : State) :
    (State.waymarkUp s).pending = s.pending ∧ (State.waymarkUp s).sys.fuses = s.sys.fuses ∧ (State.waymarkUp s).mem
        = s.mem := by simp [State.waymarkUp]

@[simp] theorem State.restoreUnits_kept (s : State) :
    (State.restoreUnits s).pending = s.pending ∧ (State.restoreUnits s).sys.fuses = s.sys.fuses ∧
        (State.restoreUnits s).mem = s.mem := by
  unfold State.restoreUnits
  repeat' split
  all_goals simp

@[simp] theorem State.strand_kept (s : State) (surfs : List Nat) :
    (State.strand s surfs).pending = s.pending ∧ (State.strand s surfs).sys.fuses = s.sys.fuses ∧ (State.strand s
        surfs).mem = s.mem := by simp [State.strand]

@[simp] theorem State.touchMismatch_kept (s : State) :
    (State.touchMismatch s).pending = s.pending ∧ (State.touchMismatch s).sys.fuses = s.sys.fuses ∧
        (State.touchMismatch s).mem = s.mem := by simp [State.touchMismatch]

@[simp] theorem State.resumeUnit_kept (s : State) :
    (State.resumeUnit s).pending = s.pending ∧ (State.resumeUnit s).sys.fuses = s.sys.fuses ∧ (State.resumeUnit
        s).mem = s.mem := by
  unfold State.resumeUnit
  repeat' split
  all_goals simp

@[simp] theorem State.unitResult_kept (s : State) (op kind unit : Nat) (forced : Bool) (r : Nat) :
    (State.unitResult s op kind unit forced r).pending = s.pending ∧ (State.unitResult s op kind unit forced
        r).sys.fuses = s.sys.fuses ∧ (State.unitResult s op kind unit forced r).mem = s.mem := by simp
        [State.unitResult]

@[simp] theorem State.drainBegin_kept (s : State) (kind unit : Nat) (forced : Bool) :
    (State.drainBegin s kind unit forced).pending = s.pending ∧ (State.drainBegin s kind unit forced).sys.fuses =
        s.sys.fuses ∧ (State.drainBegin s kind unit forced).mem = s.mem := by simp [State.drainBegin]

@[simp] theorem State.unitCommand_kept (s : State) (op kind unit : Nat) (forced : Bool) :
    (State.unitCommand s op kind unit forced).pending = s.pending ∧ (State.unitCommand s op kind unit
        forced).sys.fuses = s.sys.fuses := by simp [State.unitCommand]

@[simp] theorem State.writeUnitCmd_kept (s : State) (i : Initiator) (v : Word) :
    (State.writeUnitCmd s i v).pending = s.pending ∧ (State.writeUnitCmd s i v).sys.fuses = s.sys.fuses := by simp
        [State.writeUnitCmd]

@[simp] theorem State.abandonRun_kept (s : State) (k : Nat) :
    (State.abandonRun s k).pending = s.pending ∧ (State.abandonRun s k).sys.fuses = s.sys.fuses := by simp
        [State.abandonRun]

@[simp] theorem State.rePlaceOn_kept (s : State) (surfs : List Nat) (begunToo : Bool) :
    (State.rePlaceOn s surfs begunToo).pending = s.pending ∧ (State.rePlaceOn s surfs begunToo).sys.fuses =
        s.sys.fuses := by simp [State.rePlaceOn]

@[simp] theorem State.unitEnd_kept (s : State) :
    (State.unitEnd s).pending = s.pending ∧ (State.unitEnd s).sys.fuses = s.sys.fuses ∧ (State.unitEnd s).mem =
        s.mem := by simp [State.unitEnd]

@[simp] theorem State.loseOn_kept (s : State) (kind unit : Nat) :
    (State.loseOn s kind unit).pending = s.pending ∧ (State.loseOn s kind unit).sys.fuses = s.sys.fuses ∧
        (State.loseOn s kind unit).mem = s.mem := by simp [State.loseOn]

@[simp] theorem State.moveRead_kept (s : State) (n m k : Nat) :
    (State.moveRead s n m k).pending = s.pending ∧ (State.moveRead s n m k).sys.fuses = s.sys.fuses := by simp
        [State.moveRead]

@[simp] theorem State.reissueReads_kept (s : State) (surfs : List Nat) :
    (State.reissueReads s surfs).pending = s.pending ∧ (State.reissueReads s surfs).sys.fuses = s.sys.fuses := by
  unfold State.reissueReads
  refine ⟨foldl_pending _ _ _ ?_, foldl_fuses _ _ _ ?_⟩
  all_goals
    intro t a
    split
  all_goals simp

@[simp] theorem State.drainStep_kept (s : State) (o : UnitOp) :
    (State.drainStep s o).pending = s.pending ∧ (State.drainStep s o).sys.fuses = s.sys.fuses := by
  unfold State.drainStep
  repeat' split
  all_goals simp

@[simp] theorem State.reviveBands_kept (s : State) (surfs : List Nat) :
    (State.reviveBands s surfs).pending = s.pending ∧ (State.reviveBands s surfs).sys.fuses = s.sys.fuses ∧
        (State.reviveBands s surfs).mem = s.mem := by simp [State.reviveBands]

/-! ### What the meanings leave alone -/

theorem execTenantPurge_kept (i : Initiator) (v : Word) (s : State) :
    ∃ u1, execTenantPurge i v s = .next u1 ∧ u1.pending = s.pending ∧ u1.sys.fuses = s.sys.fuses := by
  unfold execTenantPurge
  exact ⟨_, rfl, by simp, by simp⟩

theorem execWritePlacement_kept (k : Fin 65536) (s : State) :
    ∃ u1, execWritePlacement k s = .next u1 ∧ u1.pending = s.pending ∧ u1.sys.fuses = s.sys.fuses := by
  simp only [execWritePlacement, ok]
  (repeat' split) <;> first
      | exact ⟨_, rfl, by simp, by simp⟩ | (refine ⟨_, rfl, ?_, ?_⟩ <;> (repeat' split) <;> simp_all)

theorem execRowPadTimeout_kept (group row : Nat) (s : State) :
    ∃ u1, execRowPadTimeout group row s = .next u1 ∧ u1.pending = s.pending ∧ u1.sys.fuses = s.sys.fuses := by
  simp only [execRowPadTimeout, ok]
  (repeat' split) <;> first
      | exact ⟨_, rfl, by simp, by simp⟩ | (refine ⟨_, rfl, ?_, ?_⟩ <;> (repeat' split) <;> simp_all)

theorem execCleanerSelect_kept (s : State) :
    ∃ u1, execCleanerSelect s = .next u1 ∧ u1.pending = s.pending ∧ u1.sys.fuses = s.sys.fuses := by
  simp only [execCleanerSelect, ok]
  (repeat' split) <;> first
      | exact ⟨_, rfl, by simp, by simp⟩ | (refine ⟨_, rfl, ?_, ?_⟩ <;> (repeat' split) <;> simp_all)

theorem execSurveySchedule_kept (s : State) :
    ∃ u1, execSurveySchedule s = .next u1 ∧ u1.pending = s.pending ∧ u1.sys.fuses = s.sys.fuses := by
  simp only [execSurveySchedule, ok]
  (repeat' split) <;> first
      | exact ⟨_, rfl, by simp, by simp⟩ | (refine ⟨_, rfl, ?_, ?_⟩ <;> (repeat' split) <;> simp_all)

theorem execSurveyBandDone_kept (band : Nat) (found : List (Nat × SurveyOutcome)) (s : State) :
    ∃ u1, execSurveyBandDone band found s = .next u1 ∧ u1.pending = s.pending ∧ u1.sys.fuses = s.sys.fuses := by
  simp only [execSurveyBandDone, ok]
  (repeat' split) <;> first
      | exact ⟨_, rfl, by simp, by simp⟩ | (refine ⟨_, rfl, ?_, ?_⟩ <;> (repeat' split) <;> simp_all)

theorem execWakeMaxExpiry_kept (s : State) :
    ∃ u1, execWakeMaxExpiry s = .next u1 ∧ u1.pending = s.pending ∧ u1.sys.fuses = s.sys.fuses := by
  unfold execWakeMaxExpiry
  (repeat' split) <;> exact ⟨_, rfl, by simp, by simp⟩

theorem execCheckpointTimerExpiry_kept (s : State) :
    ∃ u1, execCheckpointTimerExpiry s = .next u1 ∧ u1.pending = s.pending ∧ u1.sys.fuses = s.sys.fuses := by
  unfold execCheckpointTimerExpiry
  (repeat' split) <;> exact ⟨_, rfl, by simp, by simp⟩

theorem execCheckpointBandCount_kept (s : State) :
    ∃ u1, execCheckpointBandCount s = .next u1 ∧ u1.pending = s.pending ∧ u1.sys.fuses = s.sys.fuses := by
  unfold execCheckpointBandCount
  (repeat' split) <;> exact ⟨_, rfl, by simp, by simp⟩

theorem execCheckpointGo_kept (i : Initiator) (v : Word) (s : State) :
    ∃ u1, execCheckpointGo i v s = .next u1 ∧ u1.pending = s.pending ∧ u1.sys.fuses = s.sys.fuses := by
  unfold execCheckpointGo
  exact ⟨_, rfl, by simp, by simp⟩

theorem execCheckpointComplete_kept (s : State) :
    ∃ u1, execCheckpointComplete s = .next u1 ∧ u1.pending = s.pending ∧ u1.sys.fuses = s.sys.fuses := by
  unfold execCheckpointComplete
  exact ⟨_, rfl, by simp, by simp⟩

theorem execTouchstoneCopyWritten_kept (surf : Fin 32) (s : State) :
    ∃ u1, execTouchstoneCopyWritten surf s = .next u1 ∧ u1.pending = s.pending ∧ u1.sys.fuses = s.sys.fuses := by
  simp only [execTouchstoneCopyWritten, ok]
  (repeat' split) <;> first
      | exact ⟨_, rfl, by simp, by simp⟩ | (refine ⟨_, rfl, ?_, ?_⟩ <;> (repeat' split) <;> simp_all)

theorem execWaymarkLoad_kept (bad : List Nat) (s : State) :
    ∃ u1, execWaymarkLoad bad s = .next u1 ∧ u1.pending = s.pending ∧ u1.sys.fuses = s.sys.fuses := by
  simp only [execWaymarkLoad, ok]
  (repeat' split) <;> first
      | exact ⟨_, rfl, by simp, by simp⟩ | (refine ⟨_, rfl, ?_, ?_⟩ <;> (repeat' split) <;> simp_all)

theorem execWaymarkReplayDone_kept (s : State) :
    ∃ u1, execWaymarkReplayDone s = .next u1 ∧ u1.pending = s.pending ∧ u1.sys.fuses = s.sys.fuses := by
  simp only [execWaymarkReplayDone, ok]
  (repeat' split) <;> first
      | exact ⟨_, rfl, by simp, by simp⟩ | (refine ⟨_, rfl, ?_, ?_⟩ <;> (repeat' split) <;> simp_all)

theorem execUnitTakeOut_kept (i : Initiator) (v : Word) (s : State) :
    ∃ u1, execUnitTakeOut i v s = .next u1 ∧ u1.pending = s.pending ∧ u1.sys.fuses = s.sys.fuses := by
  unfold execUnitTakeOut
  (repeat' split) <;> exact ⟨_, rfl, by simp, by simp⟩

theorem execUnitForcedTakeOut_kept (i : Initiator) (v : Word) (s : State) :
    ∃ u1, execUnitForcedTakeOut i v s = .next u1 ∧ u1.pending = s.pending ∧ u1.sys.fuses = s.sys.fuses := by
  unfold execUnitForcedTakeOut
  (repeat' split) <;> exact ⟨_, rfl, by simp, by simp⟩

theorem execUnitBringIn_kept (i : Initiator) (v : Word) (s : State) :
    ∃ u1, execUnitBringIn i v s = .next u1 ∧ u1.pending = s.pending ∧ u1.sys.fuses = s.sys.fuses := by
  unfold execUnitBringIn
  (repeat' split) <;> exact ⟨_, rfl, by simp, by simp⟩

theorem execDrainStepDone_kept (s : State) :
    ∃ u1, execDrainStepDone s = .next u1 ∧ u1.pending = s.pending ∧ u1.sys.fuses = s.sys.fuses := by
  unfold execDrainStepDone
  (repeat' split) <;> exact ⟨_, rfl, by simp, by simp⟩

theorem execUnitCalibrationResult_kept (pass : Bool) (s : State) :
    ∃ u1, execUnitCalibrationResult pass s = .next u1 ∧ u1.pending = s.pending ∧ u1.sys.fuses = s.sys.fuses := by
  unfold execUnitCalibrationResult
  (repeat' split) <;> exact ⟨_, rfl, by simp, by simp⟩

/-! ### Memory stays canonical -/

theorem execTenantPurge_memWf (i : Initiator) (v : Word) (s : State) :
    ∃ u1, execTenantPurge i v s = .next u1 ∧ (Memory.wf s.mem = true → Memory.wf u1.mem = true) := by
  unfold execTenantPurge
  (repeat' split) <;> refine ⟨_, rfl, fun h => ?_⟩
  all_goals (repeat' first
      | with_reducible assumption | with_reducible apply foldl_memWf | (intro t a ha) | split | simp)

theorem execWritePlacement_memWf (k : Fin 65536) (s : State) :
    ∃ u1, execWritePlacement k s = .next u1 ∧ (Memory.wf s.mem = true → Memory.wf u1.mem = true) := by
  unfold execWritePlacement
  dsimp only
  (repeat' split) <;> refine ⟨_, rfl, fun h => ?_⟩
  all_goals (repeat' first
      | with_reducible assumption | with_reducible apply foldl_memWf | (intro t a ha) | split | simp)

theorem execRowPadTimeout_memWf (group row : Nat) (s : State) :
    ∃ u1, execRowPadTimeout group row s = .next u1 ∧ (Memory.wf s.mem = true → Memory.wf u1.mem = true) := by
  unfold execRowPadTimeout
  (repeat' split) <;> refine ⟨_, rfl, fun h => ?_⟩
  all_goals (repeat' first
      | with_reducible assumption | with_reducible apply foldl_memWf | (intro t a ha) | split | simp)

theorem execCleanerSelect_memWf (s : State) :
    ∃ u1, execCleanerSelect s = .next u1 ∧ (Memory.wf s.mem = true → Memory.wf u1.mem = true) := by
  unfold execCleanerSelect
  (repeat' split) <;> refine ⟨_, rfl, fun h => ?_⟩
  all_goals (repeat' first
      | with_reducible assumption | with_reducible apply foldl_memWf | (intro t a ha) | split | simp)

theorem execSurveySchedule_memWf (s : State) :
    ∃ u1, execSurveySchedule s = .next u1 ∧ (Memory.wf s.mem = true → Memory.wf u1.mem = true) := by
  unfold execSurveySchedule
  dsimp only
  (repeat' split) <;> refine ⟨_, rfl, fun h => ?_⟩
  all_goals (repeat' first
      | with_reducible assumption | with_reducible apply foldl_memWf | (intro t a ha) | split | simp)

theorem State.surveySector_memWf (s : State) (b : Nat) (q : Nat × SurveyOutcome) (h : Memory.wf s.mem = true) :
    Memory.wf (State.surveySector s b q).mem = true := by
  unfold State.surveySector
  repeat' first | with_reducible assumption  | with_reducible apply foldl_memWf | (intro t a ha) | split | simp

theorem execSurveyBandDone_memWf (band : Nat) (found : List (Nat × SurveyOutcome)) (s : State) :
    ∃ u1, execSurveyBandDone band found s = .next u1 ∧ (Memory.wf s.mem = true → Memory.wf u1.mem = true) := by
  unfold execSurveyBandDone
  dsimp only
  (repeat' split) <;> refine ⟨_, rfl, fun h => ?_⟩
  all_goals (repeat' first
      | with_reducible assumption | with_reducible apply State.surveySector_memWf
      | with_reducible apply foldl_memWf | (intro t a ha) | split | simp)

theorem execWakeMaxExpiry_memWf (s : State) :
    ∃ u1, execWakeMaxExpiry s = .next u1 ∧ (Memory.wf s.mem = true → Memory.wf u1.mem = true) := by
  unfold execWakeMaxExpiry
  (repeat' split) <;> refine ⟨_, rfl, fun h => ?_⟩
  all_goals (repeat' first
      | with_reducible assumption | with_reducible apply foldl_memWf | (intro t a ha) | split | simp)

theorem execCheckpointTimerExpiry_memWf (s : State) :
    ∃ u1, execCheckpointTimerExpiry s = .next u1 ∧ (Memory.wf s.mem = true → Memory.wf u1.mem = true) := by
  unfold execCheckpointTimerExpiry
  (repeat' split) <;> refine ⟨_, rfl, fun h => ?_⟩
  all_goals (repeat' first
      | with_reducible assumption | with_reducible apply foldl_memWf | (intro t a ha) | split | simp)

theorem execCheckpointBandCount_memWf (s : State) :
    ∃ u1, execCheckpointBandCount s = .next u1 ∧ (Memory.wf s.mem = true → Memory.wf u1.mem = true) := by
  unfold execCheckpointBandCount
  (repeat' split) <;> refine ⟨_, rfl, fun h => ?_⟩
  all_goals (repeat' first
      | with_reducible assumption | with_reducible apply foldl_memWf | (intro t a ha) | split | simp)

theorem execCheckpointGo_memWf (i : Initiator) (v : Word) (s : State) :
    ∃ u1, execCheckpointGo i v s = .next u1 ∧ (Memory.wf s.mem = true → Memory.wf u1.mem = true) := by
  unfold execCheckpointGo
  (repeat' split) <;> refine ⟨_, rfl, fun h => ?_⟩
  all_goals (repeat' first
      | with_reducible assumption | with_reducible apply foldl_memWf | (intro t a ha) | split | simp)

theorem execCheckpointComplete_memWf (s : State) :
    ∃ u1, execCheckpointComplete s = .next u1 ∧ (Memory.wf s.mem = true → Memory.wf u1.mem = true) := by
  unfold execCheckpointComplete
  (repeat' split) <;> refine ⟨_, rfl, fun h => ?_⟩
  all_goals (repeat' first
      | with_reducible assumption | with_reducible apply foldl_memWf | (intro t a ha) | split | simp)

theorem execTouchstoneCopyWritten_memWf (surf : Fin 32) (s : State) :
    ∃ u1, execTouchstoneCopyWritten surf s = .next u1 ∧ (Memory.wf s.mem = true → Memory.wf u1.mem = true) := by
  unfold execTouchstoneCopyWritten
  dsimp only
  (repeat' split) <;> refine ⟨_, rfl, fun h => ?_⟩
  all_goals (repeat' first
      | with_reducible assumption | with_reducible apply foldl_memWf | (intro t a ha) | split | simp)

theorem execWaymarkLoad_memWf (bad : List Nat) (s : State) :
    ∃ u1, execWaymarkLoad bad s = .next u1 ∧ (Memory.wf s.mem = true → Memory.wf u1.mem = true) := by
  unfold execWaymarkLoad
  (repeat' split) <;> refine ⟨_, rfl, fun h => ?_⟩
  all_goals (repeat' first
      | with_reducible assumption | with_reducible apply foldl_memWf | (intro t a ha) | split | simp)

theorem execWaymarkReplayDone_memWf (s : State) :
    ∃ u1, execWaymarkReplayDone s = .next u1 ∧ (Memory.wf s.mem = true → Memory.wf u1.mem = true) := by
  unfold execWaymarkReplayDone
  dsimp only
  (repeat' split) <;> refine ⟨_, rfl, fun h => ?_⟩
  all_goals (repeat' first
      | with_reducible assumption | with_reducible apply foldl_memWf | (intro t a ha) | split | simp)

theorem State.unitCommand_memWf (s : State) (op kind unit : Nat) (forced : Bool) (h : Memory.wf s.mem = true) :
    Memory.wf (State.unitCommand s op kind unit forced).mem = true := by
  unfold State.unitCommand
  repeat' first
      | with_reducible assumption | with_reducible apply State.handoverFrom_memWf
      | with_reducible apply foldl_memWf | (intro t a ha) | split | simp

theorem State.writeUnitCmd_memWf (s : State) (i : Initiator) (v : Word) (h : Memory.wf s.mem = true) :
    Memory.wf (State.writeUnitCmd s i v).mem = true := by
  unfold State.writeUnitCmd
  repeat' first
      | with_reducible assumption | with_reducible apply State.unitCommand_memWf | with_reducible apply foldl_memWf
      | (intro t a ha) | split | simp

theorem execUnitTakeOut_memWf (i : Initiator) (v : Word) (s : State) :
    ∃ u1, execUnitTakeOut i v s = .next u1 ∧ (Memory.wf s.mem = true → Memory.wf u1.mem = true) := by
  unfold execUnitTakeOut
  (repeat' split) <;> refine ⟨_, rfl, fun h => ?_⟩
  all_goals (repeat' first
      | with_reducible assumption | with_reducible apply State.writeUnitCmd_memWf
      | with_reducible apply foldl_memWf | (intro t a ha) | split | simp)

theorem execUnitForcedTakeOut_memWf (i : Initiator) (v : Word) (s : State) :
    ∃ u1, execUnitForcedTakeOut i v s = .next u1 ∧ (Memory.wf s.mem = true → Memory.wf u1.mem = true) := by
  unfold execUnitForcedTakeOut
  (repeat' split) <;> refine ⟨_, rfl, fun h => ?_⟩
  all_goals (repeat' first
      | with_reducible assumption | with_reducible apply State.writeUnitCmd_memWf
      | with_reducible apply foldl_memWf | (intro t a ha) | split | simp)

theorem execUnitBringIn_memWf (i : Initiator) (v : Word) (s : State) :
    ∃ u1, execUnitBringIn i v s = .next u1 ∧ (Memory.wf s.mem = true → Memory.wf u1.mem = true) := by
  unfold execUnitBringIn
  (repeat' split) <;> refine ⟨_, rfl, fun h => ?_⟩
  all_goals (repeat' first
      | with_reducible assumption | with_reducible apply State.writeUnitCmd_memWf
      | with_reducible apply foldl_memWf | (intro t a ha) | split | simp)

theorem State.abandonRun_memWf (s : State) (k : Nat) (h : Memory.wf s.mem = true) :
    Memory.wf (State.abandonRun s k).mem = true := by
  unfold State.abandonRun
  repeat' first
      | with_reducible assumption | with_reducible apply State.strEvent_memWf | with_reducible apply foldl_memWf
      | (intro t a ha) | split | simp

theorem State.rePlaceOn_memWf (s : State) (surfs : List Nat) (begunToo : Bool) (h : Memory.wf s.mem = true) :
    Memory.wf (State.rePlaceOn s surfs begunToo).mem = true := by
  unfold State.rePlaceOn
  repeat' first
      | with_reducible assumption | with_reducible apply State.abandonRun_memWf | with_reducible apply foldl_memWf
      | (intro t a ha) | split | simp

theorem State.moveRead_memWf (s : State) (n m k : Nat) (h : Memory.wf s.mem = true) :
    Memory.wf (State.moveRead s n m k).mem = true := by
  unfold State.moveRead
  repeat' first
      | with_reducible assumption | with_reducible apply State.strEvent_memWf | with_reducible apply foldl_memWf
      | (intro t a ha) | split | simp

theorem State.reissueReads_memWf (s : State) (surfs : List Nat) (h : Memory.wf s.mem = true) :
    Memory.wf (State.reissueReads s surfs).mem = true := by
  unfold State.reissueReads
  repeat' first
      | with_reducible assumption | with_reducible apply State.moveRead_memWf | with_reducible apply foldl_memWf
      | (intro t a ha) | split | simp

theorem State.drainStep_memWf (s : State) (o : UnitOp) (h : Memory.wf s.mem = true) :
    Memory.wf (State.drainStep s o).mem = true := by
  unfold State.drainStep
  repeat' first
      | with_reducible assumption | with_reducible apply State.rePlaceOn_memWf
      | with_reducible apply State.reissueReads_memWf | with_reducible apply foldl_memWf | (intro t a ha) | split
      | simp

theorem execDrainStepDone_memWf (s : State) :
    ∃ u1, execDrainStepDone s = .next u1 ∧ (Memory.wf s.mem = true → Memory.wf u1.mem = true) := by
  unfold execDrainStepDone
  (repeat' split) <;> refine ⟨_, rfl, fun h => ?_⟩
  all_goals (repeat' first
      | with_reducible assumption | with_reducible apply State.drainStep_memWf | with_reducible apply foldl_memWf
      | (intro t a ha) | split | simp)

theorem execUnitCalibrationResult_memWf (pass : Bool) (s : State) :
    ∃ u1, execUnitCalibrationResult pass s = .next u1 ∧ (Memory.wf s.mem = true → Memory.wf u1.mem = true) := by
  unfold execUnitCalibrationResult
  (repeat' split) <;> refine ⟨_, rfl, fun h => ?_⟩
  all_goals (repeat' first
      | with_reducible assumption | with_reducible apply foldl_memWf | (intro t a ha) | split | simp)

end Sys2Proof.Machine
end

