-- ==== Sys2Proof/Laws/FrameTollgate.lean ====
section
/-!
SUPPORT. Sys2Proof/Laws/FrameTollgate.lean: what each operation and meaning of Machine/Tollgate.lean leaves alone: the command queue, the
fuses, and memory, or its canonical form where the operation may write memory.
-/

namespace Sys2Proof.Machine

/-! ### What the operations leave alone -/

@[simp] theorem State.actOn_kept (s : State) (n : Nat) :
    (State.actOn s n).pending = s.pending ∧ (State.actOn s n).sys.fuses = s.sys.fuses ∧ (State.actOn s n).mem =
        s.mem := by simp [State.actOn]

@[simp] theorem State.escalateRecord_kept (s : State) (n action unit : Nat) :
    (State.escalateRecord s n action unit).pending = s.pending ∧ (State.escalateRecord s n action unit).sys.fuses =
        s.sys.fuses ∧ (State.escalateRecord s n action unit).mem = s.mem := by simp [State.escalateRecord]

@[simp] theorem State.escalateHaven_kept (s : State) (n : Nat) :
    (State.escalateHaven s n).pending = s.pending ∧ (State.escalateHaven s n).sys.fuses = s.sys.fuses := by simp
        [State.escalateHaven]

@[simp] theorem State.issueTakeout_kept (s : State) (n : Nat) :
    (State.issueTakeout s n).pending = s.pending ∧ (State.issueTakeout s n).sys.fuses = s.sys.fuses := by simp
        [State.issueTakeout]

@[simp] theorem State.escalateTakeout_kept (s : State) (n : Nat) :
    (State.escalateTakeout s n).pending = s.pending ∧ (State.escalateTakeout s n).sys.fuses = s.sys.fuses := by simp
        [State.escalateTakeout]

@[simp] theorem State.keystoneActs_kept (s : State) :
    (State.keystoneActs s).pending = s.pending ∧ (State.keystoneActs s).sys.fuses = s.sys.fuses := by simp
        [State.keystoneActs]

@[simp] theorem State.graceEnd_kept (s : State) (expired : Bool) :
    (State.graceEnd s expired).pending = s.pending ∧ (State.graceEnd s expired).sys.fuses = s.sys.fuses ∧
        (State.graceEnd s expired).mem = s.mem := by simp [State.graceEnd]

@[simp] theorem State.settleUntrained_kept (s : State) :
    (State.settleUntrained s).pending = s.pending ∧ (State.settleUntrained s).sys.fuses = s.sys.fuses := by simp
        [State.settleUntrained]

@[simp] theorem State.tgtDefaults_kept (s : State) :
    (State.tgtDefaults s).pending = s.pending ∧ (State.tgtDefaults s).sys.fuses = s.sys.fuses ∧ (State.tgtDefaults
        s).mem = s.mem := by simp [State.tgtDefaults]

@[simp] theorem State.selfFault_kept (s : State) (inj : Bool) :
    (State.selfFault s inj).pending = s.pending ∧ (State.selfFault s inj).sys.fuses = s.sys.fuses := by simp
        [State.selfFault]

@[simp] theorem State.lineEvent_kept (s : State) (src cls : Nat) :
    (State.lineEvent s src cls).pending = s.pending ∧ (State.lineEvent s src cls).sys.fuses = s.sys.fuses := by
  simp only [State.lineEvent]
  repeat' split
  all_goals simp_all

@[simp] theorem State.writePin_kept (s : State) (i : Initiator) (p : Priv) (v : Word) :
    (State.writePin s i p v).pending = s.pending ∧ (State.writePin s i p v).sys.fuses = s.sys.fuses ∧
        (State.writePin s i p v).mem = s.mem := by simp [State.writePin]

@[simp] theorem State.writeTgtStatus_kept (s : State) (i : Initiator) (p : Priv) (hiWord : Bool) (v : Word) :
    (State.writeTgtStatus s i p hiWord v).pending = s.pending ∧ (State.writeTgtStatus s i p hiWord v).sys.fuses =
        s.sys.fuses ∧ (State.writeTgtStatus s i p hiWord v).mem = s.mem := by simp [State.writeTgtStatus]

@[simp] theorem State.writeSrcCfg_kept (s : State) (i : Initiator) (p : Priv) (n : Nat) (v : Word) :
    (State.writeSrcCfg s i p n v).pending = s.pending ∧ (State.writeSrcCfg s i p n v).sys.fuses = s.sys.fuses ∧
        (State.writeSrcCfg s i p n v).mem = s.mem := by simp [State.writeSrcCfg]

@[simp] theorem State.injectArm_kept (s : State) (i : Initiator) (p : Priv) (count nbits src : Nat) :
    (State.injectArm s i p count nbits src).pending = s.pending ∧ (State.injectArm s i p count nbits src).sys.fuses
        = s.sys.fuses ∧ (State.injectArm s i p count nbits src).mem = s.mem := by simp [State.injectArm]

@[simp] theorem State.injectDisarm_kept (s : State) (i : Initiator) (p : Priv) :
    (State.injectDisarm s i p).pending = s.pending ∧ (State.injectDisarm s i p).sys.fuses = s.sys.fuses ∧
        (State.injectDisarm s i p).mem = s.mem := by simp [State.injectDisarm]

@[simp] theorem State.writeInj_kept (s : State) (i : Initiator) (p : Priv) (v : Word) :
    (State.writeInj s i p v).pending = s.pending ∧ (State.writeInj s i p v).sys.fuses = s.sys.fuses ∧
        (State.writeInj s i p v).mem = s.mem := by
  unfold State.writeInj
  repeat' split
  all_goals simp

/-! ### What the meanings leave alone -/

theorem execGraceExpiry_kept (acts : Bool) (s : State) :
    ∃ u1, execGraceExpiry acts s = .next u1 ∧ u1.pending = s.pending ∧ u1.sys.fuses = s.sys.fuses := by
  have a : ∀ u : State, ({ u with tgt := { u.tgt with expired := false } }.graceUpdate).pending = u.pending :=
    fun u => (State.graceUpdate_kept { u with tgt := { u.tgt with expired := false } }).1
  have b : ∀ u : State, ({ u with tgt := { u.tgt with expired := false } }.graceUpdate).sys.fuses = u.sys.fuses :=
    fun u => (State.graceUpdate_kept { u with tgt := { u.tgt with expired := false } }).2.1
  have e : ∀ u : State, u.settleUntrained.pending = u.pending ∧ u.settleUntrained.sys.fuses = u.sys.fuses := fun u
      => by
    simp
  have g := State.graceEnd_kept s true
  have k := State.keystoneActs_kept (s.graceEnd true)
  unfold execGraceExpiry
  split
  · exact ⟨_, rfl, rfl, rfl⟩
  · dsimp only
    split
    · exact ⟨_, rfl, (e _).1.trans ((a _).trans (k.1.trans g.1)), (e _).2.trans ((b _).trans (k.2.trans g.2.1))⟩
    · exact ⟨_, rfl, g.1, g.2.1⟩

theorem execHeldTakeoutIssue_kept (s : State) :
    ∃ u1, execHeldTakeoutIssue s = .next u1 ∧ u1.pending = s.pending ∧ u1.sys.fuses = s.sys.fuses := by
  unfold execHeldTakeoutIssue
  (repeat' split) <;> exact ⟨_, rfl, by simp, by simp⟩

theorem execKeystoneBackstop_kept (s : State) :
    ∃ u1, execKeystoneBackstop s = .next u1 ∧ u1.pending = s.pending ∧ u1.sys.fuses = s.sys.fuses := by
  unfold execKeystoneBackstop
  (repeat' split) <;> exact ⟨_, rfl, by simp, by simp⟩

theorem execTollgateSelfCheck_kept (error : Bool) (s : State) :
    ∃ u1, execTollgateSelfCheck error s = .next u1 ∧ u1.pending = s.pending ∧ u1.sys.fuses = s.sys.fuses := by
  unfold execTollgateSelfCheck
  exact ⟨_, rfl, by simp, by simp⟩

theorem execFaultLatch_kept (src : Fin 52) (cls : Fin 4) (holds : Bool) (s : State) :
    ∃ u1, execFaultLatch src cls holds s = .next u1 ∧ u1.pending = s.pending ∧ u1.sys.fuses = s.sys.fuses := by
  simp only [execFaultLatch, ok]
  (repeat' split) <;> first
      | exact ⟨_, rfl, by simp, by simp⟩ | (refine ⟨_, rfl, ?_, ?_⟩ <;> (repeat' split) <;> simp_all)

theorem execFaultPinPulseEnd_kept (s : State) :
    ∃ u1, execFaultPinPulseEnd s = .next u1 ∧ u1.pending = s.pending ∧ u1.sys.fuses = s.sys.fuses := by
  unfold execFaultPinPulseEnd
  (repeat' split) <;> exact ⟨_, rfl, by simp, by simp⟩

theorem execFaultPinHold_kept (i : Initiator) (p : Priv) (v : Word) (s : State) :
    ∃ u1, execFaultPinHold i p v s = .next u1 ∧ u1.pending = s.pending ∧ u1.sys.fuses = s.sys.fuses := by
  unfold execFaultPinHold
  exact ⟨_, rfl, by simp, by simp⟩

theorem execFaultClear_kept (i : Initiator) (p : Priv) (hiWord : Bool) (v : Word) (s : State) :
    ∃ u1, execFaultClear i p hiWord v s = .next u1 ∧ u1.pending = s.pending ∧ u1.sys.fuses = s.sys.fuses := by
  unfold execFaultClear
  exact ⟨_, rfl, by simp, by simp⟩

theorem execFatalClearDone_kept (parityOk : Bool) (s : State) :
    ∃ u1, execFatalClearDone parityOk s = .next u1 ∧ u1.pending = s.pending ∧ u1.sys.fuses = s.sys.fuses := by
  unfold execFatalClearDone
  exact ⟨_, rfl, by simp, by simp⟩

theorem execTollgateArmed_kept (s : State) :
    ∃ u1, execTollgateArmed s = .next u1 ∧ u1.pending = s.pending ∧ u1.sys.fuses = s.sys.fuses := by
  unfold execTollgateArmed
  (repeat' split) <;> exact ⟨_, rfl, by simp, by simp⟩

theorem execInjectArm_kept (i : Initiator) (p : Priv) (count nbits : Nat) (src : Fin 64) (s : State) :
    ∃ u1, execInjectArm i p count nbits src s = .next u1 ∧ u1.pending = s.pending ∧ u1.sys.fuses = s.sys.fuses := by
  unfold execInjectArm
  exact ⟨_, rfl, by simp, by simp⟩

theorem execInjectDisarm_kept (i : Initiator) (p : Priv) (s : State) :
    ∃ u1, execInjectDisarm i p s = .next u1 ∧ u1.pending = s.pending ∧ u1.sys.fuses = s.sys.fuses := by
  unfold execInjectDisarm
  exact ⟨_, rfl, by simp, by simp⟩

/-! ### Memory stays canonical -/

theorem State.escalateHaven_memWf (s : State) (n : Nat) (h : Memory.wf s.mem = true) :
    Memory.wf (State.escalateHaven s n).mem = true := by
  unfold State.escalateHaven
  repeat' first
      | with_reducible assumption | with_reducible apply State.requestHaven_memWf
      | with_reducible apply foldl_memWf | (intro t a ha) | split | simp

theorem State.issueTakeout_memWf (s : State) (n : Nat) (h : Memory.wf s.mem = true) :
    Memory.wf (State.issueTakeout s n).mem = true := by
  unfold State.issueTakeout
  repeat' first
      | with_reducible assumption | with_reducible apply State.escalateHaven_memWf
      | with_reducible apply State.unitCommand_memWf | with_reducible apply foldl_memWf | (intro t a ha) | split
      | simp

theorem State.escalateTakeout_memWf (s : State) (n : Nat) (h : Memory.wf s.mem = true) :
    Memory.wf (State.escalateTakeout s n).mem = true := by
  unfold State.escalateTakeout
  repeat' first
      | with_reducible assumption | with_reducible apply State.issueTakeout_memWf
      | with_reducible apply foldl_memWf | (intro t a ha) | split | simp

theorem State.keystoneActs_memWf (s : State) (h : Memory.wf s.mem = true) :
    Memory.wf (State.keystoneActs s).mem = true := by
  unfold State.keystoneActs
  repeat' first
      | with_reducible assumption | with_reducible apply State.escalateHaven_memWf
      | with_reducible apply State.escalateTakeout_memWf | with_reducible apply foldl_memWf | (intro t a ha)
      | split | simp

theorem State.settleUntrained_memWf (s : State) (h : Memory.wf s.mem = true) :
    Memory.wf (State.settleUntrained s).mem = true := by
  unfold State.settleUntrained
  repeat' first
      | with_reducible assumption | with_reducible apply State.settleHaven_memWf | with_reducible apply foldl_memWf
      | (intro t a ha) | split | simp

theorem execGraceExpiry_memWf (acts : Bool) (s : State) :
    ∃ u1, execGraceExpiry acts s = .next u1 ∧ (Memory.wf s.mem = true → Memory.wf u1.mem = true) := by
  have a : ∀ u : State, ({ u with tgt := { u.tgt with expired := false } }.graceUpdate).mem = u.mem :=
    fun u => (State.graceUpdate_kept { u with tgt := { u.tgt with expired := false } }).2.2
  have g := State.graceEnd_kept s true
  unfold execGraceExpiry
  split
  · exact ⟨_, rfl, id⟩
  · dsimp only
    split
    · refine ⟨_, rfl, fun h => State.settleUntrained_memWf _ ?_⟩
      rw [a]
      exact State.keystoneActs_memWf _ (by rw [g.2.2]; exact h)
    · refine ⟨_, rfl, fun h => ?_⟩
      rw [g.2.2]; exact h

theorem execHeldTakeoutIssue_memWf (s : State) :
    ∃ u1, execHeldTakeoutIssue s = .next u1 ∧ (Memory.wf s.mem = true → Memory.wf u1.mem = true) := by
  unfold execHeldTakeoutIssue
  (repeat' split) <;> refine ⟨_, rfl, fun h => ?_⟩
  all_goals (repeat' first
      | with_reducible assumption | with_reducible apply State.issueTakeout_memWf
      | with_reducible apply foldl_memWf | (intro t a ha) | split | simp)

theorem execKeystoneBackstop_memWf (s : State) :
    ∃ u1, execKeystoneBackstop s = .next u1 ∧ (Memory.wf s.mem = true → Memory.wf u1.mem = true) := by
  unfold execKeystoneBackstop
  (repeat' split) <;> refine ⟨_, rfl, fun h => ?_⟩
  all_goals (repeat' first
      | with_reducible assumption | with_reducible apply State.requestHaven_memWf
      | with_reducible apply State.settleUntrained_memWf | with_reducible apply foldl_memWf | (intro t a ha)
      | split | simp)

theorem State.selfFault_memWf (s : State) (inj : Bool) (h : Memory.wf s.mem = true) :
    Memory.wf (State.selfFault s inj).mem = true := by
  unfold State.selfFault
  dsimp only
  repeat' first
      | with_reducible assumption | with_reducible apply State.requestHaven_memWf
      | with_reducible apply foldl_memWf | (intro t a ha) | split | simp

theorem execTollgateSelfCheck_memWf (error : Bool) (s : State) :
    ∃ u1, execTollgateSelfCheck error s = .next u1 ∧ (Memory.wf s.mem = true → Memory.wf u1.mem = true) := by
  unfold execTollgateSelfCheck
  (repeat' split) <;> refine ⟨_, rfl, fun h => ?_⟩
  all_goals (repeat' first
      | with_reducible assumption | with_reducible apply State.selfFault_memWf | with_reducible apply foldl_memWf
      | (intro t a ha) | split | simp)

theorem State.lineEvent_memWf (s : State) (src cls : Nat) (h : Memory.wf s.mem = true) :
    Memory.wf (State.lineEvent s src cls).mem = true := by
  unfold State.lineEvent
  repeat' first
      | with_reducible assumption | with_reducible apply State.selfFault_memWf | with_reducible apply foldl_memWf
      | (intro t a ha) | split | simp

theorem execFaultLatch_memWf (src : Fin 52) (cls : Fin 4) (holds : Bool) (s : State) :
    ∃ u1, execFaultLatch src cls holds s = .next u1 ∧ (Memory.wf s.mem = true → Memory.wf u1.mem = true) := by
  unfold execFaultLatch
  (repeat' split) <;> refine ⟨_, rfl, fun h => ?_⟩
  all_goals (repeat' first
      | with_reducible assumption | with_reducible apply State.lineEvent_memWf | with_reducible apply foldl_memWf
      | (intro t a ha) | split | simp)

theorem execFaultPinPulseEnd_memWf (s : State) :
    ∃ u1, execFaultPinPulseEnd s = .next u1 ∧ (Memory.wf s.mem = true → Memory.wf u1.mem = true) := by
  unfold execFaultPinPulseEnd
  (repeat' split) <;> refine ⟨_, rfl, fun h => ?_⟩
  all_goals (repeat' first
      | with_reducible assumption | with_reducible apply foldl_memWf | (intro t a ha) | split | simp)

theorem execFaultPinHold_memWf (i : Initiator) (p : Priv) (v : Word) (s : State) :
    ∃ u1, execFaultPinHold i p v s = .next u1 ∧ (Memory.wf s.mem = true → Memory.wf u1.mem = true) := by
  unfold execFaultPinHold
  (repeat' split) <;> refine ⟨_, rfl, fun h => ?_⟩
  all_goals (repeat' first
      | with_reducible assumption | with_reducible apply foldl_memWf | (intro t a ha) | split | simp)

theorem execFaultClear_memWf (i : Initiator) (p : Priv) (hiWord : Bool) (v : Word) (s : State) :
    ∃ u1, execFaultClear i p hiWord v s = .next u1 ∧ (Memory.wf s.mem = true → Memory.wf u1.mem = true) := by
  unfold execFaultClear
  (repeat' split) <;> refine ⟨_, rfl, fun h => ?_⟩
  all_goals (repeat' first
      | with_reducible assumption | with_reducible apply foldl_memWf | (intro t a ha) | split | simp)

theorem execFatalClearDone_memWf (parityOk : Bool) (s : State) :
    ∃ u1, execFatalClearDone parityOk s = .next u1 ∧ (Memory.wf s.mem = true → Memory.wf u1.mem = true) := by
  unfold execFatalClearDone
  (repeat' split) <;> refine ⟨_, rfl, fun h => ?_⟩
  all_goals (repeat' first
      | with_reducible assumption | with_reducible apply foldl_memWf | (intro t a ha) | split | simp)

theorem execTollgateArmed_memWf (s : State) :
    ∃ u1, execTollgateArmed s = .next u1 ∧ (Memory.wf s.mem = true → Memory.wf u1.mem = true) := by
  unfold execTollgateArmed
  (repeat' split) <;> refine ⟨_, rfl, fun h => ?_⟩
  all_goals (repeat' first
      | with_reducible assumption | with_reducible apply State.selfFault_memWf | with_reducible apply foldl_memWf
      | (intro t a ha) | split | simp)

theorem execInjectArm_memWf (i : Initiator) (p : Priv) (count nbits : Nat) (src : Fin 64) (s : State) :
    ∃ u1, execInjectArm i p count nbits src s = .next u1 ∧ (Memory.wf s.mem = true → Memory.wf u1.mem = true) := by
  unfold execInjectArm
  (repeat' split) <;> refine ⟨_, rfl, fun h => ?_⟩
  all_goals (repeat' first
      | with_reducible assumption | with_reducible apply foldl_memWf | (intro t a ha) | split | simp)

theorem execInjectDisarm_memWf (i : Initiator) (p : Priv) (s : State) :
    ∃ u1, execInjectDisarm i p s = .next u1 ∧ (Memory.wf s.mem = true → Memory.wf u1.mem = true) := by
  unfold execInjectDisarm
  (repeat' split) <;> refine ⟨_, rfl, fun h => ?_⟩
  all_goals (repeat' first
      | with_reducible assumption | with_reducible apply foldl_memWf | (intro t a ha) | split | simp)

end Sys2Proof.Machine
end

