-- ==== Sys2Proof/Laws/FrameAccess.lean ====
section
/-!
SUPPORT. Sys2Proof/Laws/FrameAccess.lean: what each operation and meaning of Machine/Access.lean leaves alone: the command queue, the
fuses, and memory, or its canonical form where the operation may write memory.
-/

namespace Sys2Proof.Machine

/-! ### What the operations leave alone -/

@[simp] theorem State.writeIf_kept (s : State) (open_ : Bool) (off : Nat) (v : Word) :
    (State.writeIf s open_ off v).pending = s.pending ∧ (State.writeIf s open_ off v).sys.fuses = s.sys.fuses ∧
        (State.writeIf s open_ off v).mem = s.mem := by simp [State.writeIf]

@[simp] theorem State.writeSys_kept (s : State) (i : Initiator) (p : Priv) (o : Nat) (v : Word) :
    (State.writeSys s i p o v).pending = s.pending ∧ (State.writeSys s i p o v).sys.fuses = s.sys.fuses := by
  unfold State.writeSys
  repeat' split
  all_goals simp

@[simp] theorem State.writeTgt_kept (s : State) (i : Initiator) (p : Priv) (o : Nat) (v : Word) :
    (State.writeTgt s i p o v).pending = s.pending ∧ (State.writeTgt s i p o v).sys.fuses = s.sys.fuses ∧
        (State.writeTgt s i p o v).mem = s.mem := by
  unfold State.writeTgt
  repeat' split
  all_goals simp

@[simp] theorem State.writeCrn_kept (s : State) (i : Initiator) (o : Nat) (v : Word) :
    (State.writeCrn s i o v).pending = s.pending ∧ (State.writeCrn s i o v).sys.fuses = s.sys.fuses ∧
        (State.writeCrn s i o v).mem = s.mem := by
  unfold State.writeCrn
  repeat' split
  all_goals simp

@[simp] theorem State.writeSig_kept (s : State) (i : Initiator) (p : Priv) (o : Nat) (v : Word) :
    (State.writeSig s i p o v).pending = s.pending ∧ (State.writeSig s i p o v).sys.fuses = s.sys.fuses ∧
        (State.writeSig s i p o v).mem = s.mem := by simp [State.writeSig]

@[simp] theorem State.writeMpo_kept (s : State) (i : Initiator) (o : Nat) (v : Word) :
    (State.writeMpo s i o v).pending = s.pending ∧ (State.writeMpo s i o v).sys.fuses = s.sys.fuses ∧
        (State.writeMpo s i o v).mem = s.mem := by
  simp only [State.writeMpo]
  repeat' split
  all_goals simp_all

@[simp] theorem State.writeTrn_kept (s : State) (i : Initiator) (p : Priv) (o : Nat) (v : Word) :
    (State.writeTrn s i p o v).pending = s.pending ∧ (State.writeTrn s i p o v).sys.fuses = s.sys.fuses ∧
        (State.writeTrn s i p o v).mem = s.mem := by
  unfold State.writeTrn
  repeat' split
  all_goals simp

@[simp] theorem State.writeShl_kept (s : State) (i : Initiator) (o : Nat) (v : Word) :
    (State.writeShl s i o v).pending = s.pending ∧ (State.writeShl s i o v).sys.fuses = s.sys.fuses := by
  unfold State.writeShl
  repeat' split
  all_goals simp

@[simp] theorem State.writeBed_kept (s : State) (i : Initiator) (o : Nat) (v : Word) :
    (State.writeBed s i o v).pending = s.pending ∧ (State.writeBed s i o v).sys.fuses = s.sys.fuses ∧
        (State.writeBed s i o v).mem = s.mem := by
  unfold State.writeBed
  repeat' split
  all_goals simp

@[simp] theorem State.writeCar_kept (s : State) (i : Initiator) (o : Nat) (v : Word) :
    (State.writeCar s i o v).pending = s.pending ∧ (State.writeCar s i o v).sys.fuses = s.sys.fuses := by simp
        [State.writeCar]

@[simp] theorem State.writeObs_kept (s : State) (i : Initiator) (o : Nat) (v : Word) :
    (State.writeObs s i o v).pending = s.pending ∧ (State.writeObs s i o v).sys.fuses = s.sys.fuses ∧
        (State.writeObs s i o v).mem = s.mem := by
  unfold State.writeObs
  repeat' split
  all_goals simp

@[simp] theorem State.writeClass_kept (s : State) (i : Initiator) (c : Nat) (v : Word) :
    (State.writeClass s i c v).pending = s.pending ∧ (State.writeClass s i c v).sys.fuses = s.sys.fuses ∧
        (State.writeClass s i c v).mem = s.mem := by simp [State.writeClass]

@[simp] theorem State.writeCleanCtl_kept (s : State) (v : Word) :
    (State.writeCleanCtl s v).pending = s.pending ∧ (State.writeCleanCtl s v).sys.fuses = s.sys.fuses ∧
        (State.writeCleanCtl s v).mem = s.mem := by simp [State.writeCleanCtl]

@[simp] theorem State.writeWay_kept (s : State) (i : Initiator) (o : Nat) (v : Word) :
    (State.writeWay s i o v).pending = s.pending ∧ (State.writeWay s i o v).sys.fuses = s.sys.fuses := by
  unfold State.writeWay
  repeat' split
  all_goals simp

@[simp] theorem State.writeCtxMin_kept (s : State) (g : Nat) (v : Word) :
    (State.writeCtxMin s g v).pending = s.pending ∧ (State.writeCtxMin s g v).sys.fuses = s.sys.fuses ∧
        (State.writeCtxMin s g v).mem = s.mem := by simp [State.writeCtxMin]

@[simp] theorem State.writeHp_kept (s : State) (i : Initiator) (g o : Nat) (v : Word) :
    (State.writeHp s i g o v).pending = s.pending ∧ (State.writeHp s i g o v).sys.fuses = s.sys.fuses ∧
        (State.writeHp s i g o v).mem = s.mem := by
  unfold State.writeHp
  repeat' split
  all_goals simp

@[simp] theorem State.writeCsw_kept (s : State) (i : Initiator) (o : Nat) (v : Word) :
    (State.writeCsw s i o v).pending = s.pending ∧ (State.writeCsw s i o v).sys.fuses = s.sys.fuses ∧
        (State.writeCsw s i o v).mem = s.mem := by simp [State.writeCsw]

@[simp] theorem State.writeStr_kept (s : State) (i : Initiator) (n o : Nat) (v : Word) :
    (State.writeStr s i n o v).pending = s.pending ∧ (State.writeStr s i n o v).sys.fuses = s.sys.fuses := by
  unfold State.writeStr
  repeat' split
  all_goals simp

@[simp] theorem State.writeLd_kept (s : State) (i : Initiator) (n o : Nat) (v : Word) :
    (State.writeLd s i n o v).pending = s.pending ∧ (State.writeLd s i n o v).sys.fuses = s.sys.fuses := by
  unfold State.writeLd
  repeat' split
  all_goals simp

@[simp] theorem State.writeQry_kept (s : State) (i : Initiator) (o : Nat) (v : Word) :
    (State.writeQry s i o v).pending = s.pending ∧ (State.writeQry s i o v).sys.fuses = s.sys.fuses ∧
        (State.writeQry s i o v).mem = s.mem := by
  unfold State.writeQry
  repeat' split
  all_goals simp

@[simp] theorem State.writeBas_kept (s : State) (i : Initiator) (o : Nat) (v : Word) :
    (State.writeBas s i o v).pending = s.pending ∧ (State.writeBas s i o v).sys.fuses = s.sys.fuses ∧
        (State.writeBas s i o v).mem = s.mem := by
  unfold State.writeBas
  repeat' split
  all_goals simp

@[simp] theorem State.writeActMs_kept (s : State) (i : Initiator) (a : Nat) (v : Word) :
    (State.writeActMs s i a v).pending = s.pending ∧ (State.writeActMs s i a v).sys.fuses = s.sys.fuses ∧
        (State.writeActMs s i a v).mem = s.mem := by simp [State.writeActMs]

@[simp] theorem State.writeAct_kept (s : State) (i : Initiator) (a o : Nat) (v : Word) :
    (State.writeAct s i a o v).pending = s.pending ∧ (State.writeAct s i a o v).sys.fuses = s.sys.fuses := by
  unfold State.writeAct
  repeat' split
  all_goals simp

@[simp] theorem State.writeMil_kept (s : State) (i : Initiator) (o : Nat) (v : Word) :
    (State.writeMil s i o v).pending = s.pending ∧ (State.writeMil s i o v).sys.fuses = s.sys.fuses := by
  unfold State.writeMil
  repeat' split
  all_goals simp

@[simp] theorem State.writeBls_kept (s : State) (i : Initiator) (o : Nat) (v : Word) :
    (State.writeBls s i o v).pending = s.pending ∧ (State.writeBls s i o v).sys.fuses = s.sys.fuses ∧
        (State.writeBls s i o v).mem = s.mem := by
  unfold State.writeBls
  repeat' split
  all_goals simp

@[simp] theorem State.writeKey_kept (s : State) (i : Initiator) (p : Priv) (o : Nat) (v : Word) :
    (State.writeKey s i p o v).pending = s.pending ∧ (State.writeKey s i p o v).sys.fuses = s.sys.fuses := by
  unfold State.writeKey
  repeat' split
  all_goals simp

@[simp] theorem State.writeReg_kept (s : State) (i : Initiator) (p : Priv) (off : Nat) (v : Word) :
    (State.writeReg s i p off v).pending = s.pending ∧ (State.writeReg s i p off v).sys.fuses = s.sys.fuses := by
  unfold State.writeReg
  repeat' split
  all_goals simp

@[simp] theorem State.towWrite_kept (s : State) (i : Initiator) (p : Priv) (width off : Nat) (v : Word) :
    (State.towWrite s i p width off v).pending = s.pending ∧ (State.towWrite s i p width off v).sys.fuses =
        s.sys.fuses := by simp [State.towWrite]

@[simp] theorem State.readReg_kept (s : State) (i : Initiator) (p : Priv) (off : Nat) :
    (State.readReg s i p off).pending = s.pending ∧ (State.readReg s i p off).sys.fuses = s.sys.fuses ∧
        (State.readReg s i p off).mem = s.mem := by
  unfold State.readReg
  repeat' split
  all_goals simp

@[simp] theorem State.towRead_kept (s : State) (i : Initiator) (p : Priv) (width off : Nat) :
    (State.towRead s i p width off).pending = s.pending ∧ (State.towRead s i p width off).sys.fuses = s.sys.fuses ∧
        (State.towRead s i p width off).mem = s.mem := by simp [State.towRead]

/-! ### What the meanings leave alone -/

theorem execRegisterWrite_kept (i : Initiator) (p : Priv) (width off : Nat) (v : Word) (s : State) :
    ∃ u1, execRegisterWrite i p width off v s = .next u1 ∧ u1.pending = s.pending ∧ u1.sys.fuses = s.sys.fuses := by
  unfold execRegisterWrite
  exact ⟨_, rfl, by simp, by simp⟩

/-! ### Memory stays canonical -/

theorem State.writeSys_memWf (s : State) (i : Initiator) (p : Priv) (o : Nat) (v : Word) (h : Memory.wf s.mem =
    true) :
    Memory.wf (State.writeSys s i p o v).mem = true := by
  unfold State.writeSys
  repeat' first
      | with_reducible assumption | with_reducible apply State.writeModeReq_memWf
      | with_reducible apply foldl_memWf | (intro t a ha) | split | simp

theorem State.writeShl_memWf (s : State) (i : Initiator) (o : Nat) (v : Word) (h : Memory.wf s.mem = true) :
    Memory.wf (State.writeShl s i o v).mem = true := by
  unfold State.writeShl
  repeat' first
      | with_reducible assumption | with_reducible apply State.writeShlCtl_memWf | with_reducible apply foldl_memWf
      | (intro t a ha) | split | simp

theorem State.writeCar_memWf (s : State) (i : Initiator) (o : Nat) (v : Word) (h : Memory.wf s.mem = true) :
    Memory.wf (State.writeCar s i o v).mem = true := by
  unfold State.writeCar
  repeat' first
      | with_reducible assumption | with_reducible apply State.writeCarCtl_memWf | with_reducible apply foldl_memWf
      | (intro t a ha) | split | simp

theorem State.writeWay_memWf (s : State) (i : Initiator) (o : Nat) (v : Word) (h : Memory.wf s.mem = true) :
    Memory.wf (State.writeWay s i o v).mem = true := by
  unfold State.writeWay
  repeat' first
      | with_reducible assumption | with_reducible apply State.writeUnitCmd_memWf
      | with_reducible apply foldl_memWf | (intro t a ha) | split | simp

theorem State.writeStr_memWf (s : State) (i : Initiator) (n o : Nat) (v : Word) (h : Memory.wf s.mem = true) :
    Memory.wf (State.writeStr s i n o v).mem = true := by
  unfold State.writeStr
  repeat' first
      | with_reducible assumption | with_reducible apply State.writeStrCtl_memWf | with_reducible apply foldl_memWf
      | (intro t a ha) | split | simp

theorem State.writeLd_memWf (s : State) (i : Initiator) (n o : Nat) (v : Word) (h : Memory.wf s.mem = true) :
    Memory.wf (State.writeLd s i n o v).mem = true := by
  unfold State.writeLd
  repeat' first
      | with_reducible assumption | with_reducible apply State.writeLdCfg_memWf
      | with_reducible apply State.writeLdSel_memWf | with_reducible apply State.writeReframe_memWf
      | with_reducible apply foldl_memWf | (intro t a ha) | split | simp

theorem State.writeAct_memWf (s : State) (i : Initiator) (a o : Nat) (v : Word) (h : Memory.wf s.mem = true) :
    Memory.wf (State.writeAct s i a o v).mem = true := by
  unfold State.writeAct
  repeat' first
      | with_reducible assumption | with_reducible apply State.writeWcSel_memWf | with_reducible apply foldl_memWf
      | (intro t a ha) | split | simp

theorem State.writeMil_memWf (s : State) (i : Initiator) (o : Nat) (v : Word) (h : Memory.wf s.mem = true) :
    Memory.wf (State.writeMil s i o v).mem = true := by
  unfold State.writeMil
  repeat' first
      | with_reducible assumption | with_reducible apply State.writeMilCmd_memWf | with_reducible apply foldl_memWf
      | (intro t a ha) | split | simp

theorem State.writeKey_memWf (s : State) (i : Initiator) (p : Priv) (o : Nat) (v : Word) (h : Memory.wf s.mem =
    true) :
    Memory.wf (State.writeKey s i p o v).mem = true := by
  unfold State.writeKey
  repeat' first
      | with_reducible assumption | with_reducible apply State.writeDevReq_memWf
      | with_reducible apply State.writeDevRst_memWf | with_reducible apply State.writePairRst_memWf
      | with_reducible apply foldl_memWf | (intro t a ha) | split | simp

theorem State.writeReg_memWf (s : State) (i : Initiator) (p : Priv) (off : Nat) (v : Word) (h : Memory.wf s.mem =
    true) :
    Memory.wf (State.writeReg s i p off v).mem = true := by
  unfold State.writeReg
  repeat' first
      | with_reducible assumption | with_reducible apply State.writeAct_memWf
      | with_reducible apply State.writeCar_memWf | with_reducible apply State.writeKey_memWf
      | with_reducible apply State.writeLd_memWf | with_reducible apply State.writeMil_memWf
      | with_reducible apply State.writeShl_memWf | with_reducible apply State.writeStr_memWf
      | with_reducible apply State.writeSys_memWf | with_reducible apply State.writeWay_memWf
      | with_reducible apply foldl_memWf | (intro t a ha) | split | simp

theorem State.towWrite_memWf (s : State) (i : Initiator) (p : Priv) (width off : Nat) (v : Word) (h : Memory.wf
    s.mem = true) :
    Memory.wf (State.towWrite s i p width off v).mem = true := by
  unfold State.towWrite
  repeat' first
      | with_reducible assumption | with_reducible apply State.writeReg_memWf | with_reducible apply foldl_memWf
      | (intro t a ha) | split | simp

theorem execRegisterWrite_memWf (i : Initiator) (p : Priv) (width off : Nat) (v : Word) (s : State) :
    ∃ u1, execRegisterWrite i p width off v s = .next u1 ∧ (Memory.wf s.mem = true → Memory.wf u1.mem = true) := by
  unfold execRegisterWrite
  (repeat' split) <;> refine ⟨_, rfl, fun h => ?_⟩
  all_goals (repeat' first
      | with_reducible assumption | with_reducible apply State.towWrite_memWf | with_reducible apply foldl_memWf
      | (intro t a ha) | split | simp)

end Sys2Proof.Machine
end

