-- ==== Sys2Proof/Laws/FrameBallast.lean ====
section
/-!
SUPPORT. Sys2Proof/Laws/FrameBallast.lean: what each operation and meaning of Machine/Ballast.lean leaves alone: the command queue, the
fuses, and memory, or its canonical form where the operation may write memory.
-/

namespace Sys2Proof.Machine

/-! ### What the operations leave alone -/

@[simp] theorem State.paRail_kept (s : State) (r : Nat) (in_ : Bool) :
    (State.paRail s r in_).pending = s.pending ∧ (State.paRail s r in_).sys.fuses = s.sys.fuses ∧ (State.paRail s r
        in_).mem = s.mem := by simp [State.paRail]

@[simp] theorem State.socReset_kept (s : State) :
    (State.socReset s).pending = s.pending ∧ (State.socReset s).sys.fuses = s.sys.fuses := by simp [State.socReset]

@[simp] theorem State.toHoldup_kept (s : State) (bankMv : Nat) (aux : Bool) :
    (State.toHoldup s bankMv aux).pending = s.pending ∧ (State.toHoldup s bankMv aux).sys.fuses = s.sys.fuses ∧
        (State.toHoldup s bankMv aux).mem = s.mem := by simp [State.toHoldup]

/-! ### What the meanings leave alone -/

theorem execAuxInputUp_kept (s : State) :
    ∃ u1, execAuxInputUp s = .next u1 ∧ u1.pending = s.pending ∧ u1.sys.fuses = s.sys.fuses := by
  unfold execAuxInputUp
  exact ⟨_, rfl, by simp, by simp⟩

theorem execMainInputUp_kept (mv : Nat) (s : State) :
    ∃ u1, execMainInputUp mv s = .next u1 ∧ u1.pending = s.pending ∧ u1.sys.fuses = s.sys.fuses := by
  unfold execMainInputUp
  exact ⟨_, rfl, by simp, by simp⟩

theorem execRailInRegulation_kept (r : Fin 14) (mv : Int) (s : State) :
    ∃ u1, execRailInRegulation r mv s = .next u1 ∧ u1.pending = s.pending ∧ u1.sys.fuses = s.sys.fuses := by
  unfold execRailInRegulation
  (repeat' split) <;> exact ⟨_, rfl, by simp, by simp⟩

theorem execSocRelease_kept (bootcfg sbAddr : Fin 4) (rstLow : Bool) (s : State) :
    ∃ u1, execSocRelease bootcfg sbAddr rstLow s = .next u1 ∧ u1.pending = s.pending ∧ u1.sys.fuses = s.sys.fuses :=
        by
  unfold execSocRelease
  (repeat' split) <;> exact ⟨_, rfl, by simp, by simp⟩

theorem execRailFault_kept (r : Fin 14) (mv : Int) (s : State) :
    ∃ u1, execRailFault r mv s = .next u1 ∧ u1.pending = s.pending ∧ u1.sys.fuses = s.sys.fuses := by
  unfold execRailFault
  (repeat' split) <;> exact ⟨_, rfl, by simp, by simp⟩

theorem execBallastReady_kept (selfTest : Bool) (s : State) :
    ∃ u1, execBallastReady selfTest s = .next u1 ∧ u1.pending = s.pending ∧ u1.sys.fuses = s.sys.fuses := by
  simp only [execBallastReady, ok]
  (repeat' split) <;> first
      | exact ⟨_, rfl, by simp, by simp⟩ | (refine ⟨_, rfl, ?_, ?_⟩ <;> (repeat' split) <;> simp_all)

theorem execLinkHeartbeat_kept (crcOk : Bool) (s : State) :
    ∃ u1, execLinkHeartbeat crcOk s = .next u1 ∧ u1.pending = s.pending ∧ u1.sys.fuses = s.sys.fuses := by
  unfold execLinkHeartbeat
  exact ⟨_, rfl, by simp, by simp⟩

theorem execLinkWatchdogExpiry_kept (s : State) :
    ∃ u1, execLinkWatchdogExpiry s = .next u1 ∧ u1.pending = s.pending ∧ u1.sys.fuses = s.sys.fuses := by
  unfold execLinkWatchdogExpiry
  (repeat' split) <;> exact ⟨_, rfl, by simp, by simp⟩

theorem execStageTrip_kept (stage : Fin 9) (ma : Nat) (s : State) :
    ∃ u1, execStageTrip stage ma s = .next u1 ∧ u1.pending = s.pending ∧ u1.sys.fuses = s.sys.fuses := by
  unfold execStageTrip
  (repeat' split) <;> exact ⟨_, rfl, by simp, by simp⟩

theorem execStageUnlatch_kept (i : Initiator) (v : Word) (s : State) :
    ∃ u1, execStageUnlatch i v s = .next u1 ∧ u1.pending = s.pending ∧ u1.sys.fuses = s.sys.fuses := by
  unfold execStageUnlatch
  exact ⟨_, rfl, by simp, by simp⟩

theorem execRegenClamp_kept (s : State) :
    ∃ u1, execRegenClamp s = .next u1 ∧ u1.pending = s.pending ∧ u1.sys.fuses = s.sys.fuses := by
  unfold execRegenClamp
  exact ⟨_, rfl, by simp, by simp⟩

theorem execChargeTimeout_kept (s : State) :
    ∃ u1, execChargeTimeout s = .next u1 ∧ u1.pending = s.pending ∧ u1.sys.fuses = s.sys.fuses := by
  unfold execChargeTimeout
  (repeat' split) <;> exact ⟨_, rfl, by simp, by simp⟩

theorem execBankMeasureGo_kept (i : Initiator) (v : Word) (s : State) :
    ∃ u1, execBankMeasureGo i v s = .next u1 ∧ u1.pending = s.pending ∧ u1.sys.fuses = s.sys.fuses := by
  unfold execBankMeasureGo
  exact ⟨_, rfl, by simp, by simp⟩

theorem execMeasureTimerExpiry_kept (s : State) :
    ∃ u1, execMeasureTimerExpiry s = .next u1 ∧ u1.pending = s.pending ∧ u1.sys.fuses = s.sys.fuses := by
  unfold execMeasureTimerExpiry
  (repeat' split) <;> exact ⟨_, rfl, by simp, by simp⟩

theorem execBankMeasureDone_kept (stepMv fallMv us : Nat) (s : State) :
    ∃ u1, execBankMeasureDone stepMv fallMv us s = .next u1 ∧ u1.pending = s.pending ∧ u1.sys.fuses = s.sys.fuses :=
        by
  unfold execBankMeasureDone
  exact ⟨_, rfl, by simp, by simp⟩

theorem execVaultAllowanceUpdate_kept (bankMv : Nat) (s : State) :
    ∃ u1, execVaultAllowanceUpdate bankMv s = .next u1 ∧ u1.pending = s.pending ∧ u1.sys.fuses = s.sys.fuses := by
  unfold execVaultAllowanceUpdate
  exact ⟨_, rfl, by simp, by simp⟩

theorem execPowerLoss_kept (bankMv : Nat) (aux : Bool) (s : State) :
    ∃ u1, execPowerLoss bankMv aux s = .next u1 ∧ u1.pending = s.pending ∧ u1.sys.fuses = s.sys.fuses := by
  unfold execPowerLoss
  (repeat' split) <;> exact ⟨_, rfl, by simp, by simp⟩

theorem execVaultFlushDone_kept (s : State) :
    ∃ u1, execVaultFlushDone s = .next u1 ∧ u1.pending = s.pending ∧ u1.sys.fuses = s.sys.fuses := by
  unfold execVaultFlushDone
  (repeat' split) <;> exact ⟨_, rfl, by simp, by simp⟩

theorem execBankAtVret_kept (s : State) :
    ∃ u1, execBankAtVret s = .next u1 ∧ u1.pending = s.pending ∧ u1.sys.fuses = s.sys.fuses := by
  unfold execBankAtVret
  (repeat' split) <;> exact ⟨_, rfl, by simp, by simp⟩

theorem execMainReturn_kept (mv : Nat) (s : State) :
    ∃ u1, execMainReturn mv s = .next u1 ∧ u1.pending = s.pending ∧ u1.sys.fuses = s.sys.fuses := by
  simp only [execMainReturn, ok]
  (repeat' split) <;> first
      | exact ⟨_, rfl, by simp, by simp⟩ | (refine ⟨_, rfl, ?_, ?_⟩ <;> (repeat' split) <;> simp_all)

theorem execEmergencyRetract_kept (s : State) :
    ∃ u1, execEmergencyRetract s = .next u1 ∧ u1.pending = s.pending ∧ u1.sys.fuses = s.sys.fuses := by
  unfold execEmergencyRetract
  (repeat' split) <;> exact ⟨_, rfl, by simp, by simp⟩

theorem execRetractComplete_kept (s : State) :
    ∃ u1, execRetractComplete s = .next u1 ∧ u1.pending = s.pending ∧ u1.sys.fuses = s.sys.fuses := by
  unfold execRetractComplete
  exact ⟨_, rfl, by simp, by simp⟩

theorem execThermalLevelChange_kept (deg16 : Int) (s : State) :
    ∃ u1, execThermalLevelChange deg16 s = .next u1 ∧ u1.pending = s.pending ∧ u1.sys.fuses = s.sys.fuses := by
  unfold execThermalLevelChange
  exact ⟨_, rfl, by simp, by simp⟩

/-! ### Memory stays canonical -/

theorem execAuxInputUp_memWf (s : State) :
    ∃ u1, execAuxInputUp s = .next u1 ∧ (Memory.wf s.mem = true → Memory.wf u1.mem = true) := by
  unfold execAuxInputUp
  (repeat' split) <;> refine ⟨_, rfl, fun h => ?_⟩
  all_goals (repeat' first
      | with_reducible assumption | with_reducible apply foldl_memWf | (intro t a ha) | split | simp)

theorem execMainInputUp_memWf (mv : Nat) (s : State) :
    ∃ u1, execMainInputUp mv s = .next u1 ∧ (Memory.wf s.mem = true → Memory.wf u1.mem = true) := by
  unfold execMainInputUp
  (repeat' split) <;> refine ⟨_, rfl, fun h => ?_⟩
  all_goals (repeat' first
      | with_reducible assumption | with_reducible apply foldl_memWf | (intro t a ha) | split | simp)

theorem execRailInRegulation_memWf (r : Fin 14) (mv : Int) (s : State) :
    ∃ u1, execRailInRegulation r mv s = .next u1 ∧ (Memory.wf s.mem = true → Memory.wf u1.mem = true) := by
  unfold execRailInRegulation
  (repeat' split) <;> refine ⟨_, rfl, fun h => ?_⟩
  all_goals (repeat' first
      | with_reducible assumption | with_reducible apply foldl_memWf | (intro t a ha) | split | simp)

theorem execSocRelease_memWf (bootcfg sbAddr : Fin 4) (rstLow : Bool) (s : State) :
    ∃ u1, execSocRelease bootcfg sbAddr rstLow s = .next u1 ∧ (Memory.wf s.mem = true → Memory.wf u1.mem = true) := by
  unfold execSocRelease
  (repeat' split) <;> refine ⟨_, rfl, fun h => ?_⟩
  all_goals (repeat' first
      | with_reducible assumption | with_reducible apply State.powerOn_memWf | with_reducible apply foldl_memWf
      | (intro t a ha) | split | simp)

theorem State.socReset_memWf (s : State) (h : Memory.wf s.mem = true) :
    Memory.wf (State.socReset s).mem = true := by
  unfold State.socReset
  repeat' first
      | with_reducible assumption | with_reducible apply State.deviceReset_memWf | with_reducible apply foldl_memWf
      | (intro t a ha) | split | simp

theorem execRailFault_memWf (r : Fin 14) (mv : Int) (s : State) :
    ∃ u1, execRailFault r mv s = .next u1 ∧ (Memory.wf s.mem = true → Memory.wf u1.mem = true) := by
  unfold execRailFault
  (repeat' split) <;> refine ⟨_, rfl, fun h => ?_⟩
  all_goals (repeat' first
      | with_reducible assumption | with_reducible apply State.beginRetract_memWf
      | with_reducible apply State.socReset_memWf | with_reducible apply foldl_memWf | (intro t a ha) | split
      | simp)

theorem execBallastReady_memWf (selfTest : Bool) (s : State) :
    ∃ u1, execBallastReady selfTest s = .next u1 ∧ (Memory.wf s.mem = true → Memory.wf u1.mem = true) := by
  unfold execBallastReady
  dsimp only
  (repeat' split) <;> refine ⟨_, rfl, fun h => ?_⟩
  all_goals (repeat' first
      | with_reducible assumption | with_reducible apply foldl_memWf | (intro t a ha) | split | simp)

theorem execLinkHeartbeat_memWf (crcOk : Bool) (s : State) :
    ∃ u1, execLinkHeartbeat crcOk s = .next u1 ∧ (Memory.wf s.mem = true → Memory.wf u1.mem = true) := by
  unfold execLinkHeartbeat
  (repeat' split) <;> refine ⟨_, rfl, fun h => ?_⟩
  all_goals (repeat' first
      | with_reducible assumption | with_reducible apply foldl_memWf | (intro t a ha) | split | simp)

theorem execLinkWatchdogExpiry_memWf (s : State) :
    ∃ u1, execLinkWatchdogExpiry s = .next u1 ∧ (Memory.wf s.mem = true → Memory.wf u1.mem = true) := by
  unfold execLinkWatchdogExpiry
  (repeat' split) <;> refine ⟨_, rfl, fun h => ?_⟩
  all_goals (repeat' first
      | with_reducible assumption | with_reducible apply State.beginRetract_memWf
      | with_reducible apply foldl_memWf | (intro t a ha) | split | simp)

theorem execStageTrip_memWf (stage : Fin 9) (ma : Nat) (s : State) :
    ∃ u1, execStageTrip stage ma s = .next u1 ∧ (Memory.wf s.mem = true → Memory.wf u1.mem = true) := by
  unfold execStageTrip
  (repeat' split) <;> refine ⟨_, rfl, fun h => ?_⟩
  all_goals (repeat' first
      | with_reducible assumption | with_reducible apply foldl_memWf | (intro t a ha) | split | simp)

theorem execStageUnlatch_memWf (i : Initiator) (v : Word) (s : State) :
    ∃ u1, execStageUnlatch i v s = .next u1 ∧ (Memory.wf s.mem = true → Memory.wf u1.mem = true) := by
  unfold execStageUnlatch
  (repeat' split) <;> refine ⟨_, rfl, fun h => ?_⟩
  all_goals (repeat' first
      | with_reducible assumption | with_reducible apply foldl_memWf | (intro t a ha) | split | simp)

theorem execRegenClamp_memWf (s : State) :
    ∃ u1, execRegenClamp s = .next u1 ∧ (Memory.wf s.mem = true → Memory.wf u1.mem = true) := by
  unfold execRegenClamp
  (repeat' split) <;> refine ⟨_, rfl, fun h => ?_⟩
  all_goals (repeat' first
      | with_reducible assumption | with_reducible apply foldl_memWf | (intro t a ha) | split | simp)

theorem execChargeTimeout_memWf (s : State) :
    ∃ u1, execChargeTimeout s = .next u1 ∧ (Memory.wf s.mem = true → Memory.wf u1.mem = true) := by
  unfold execChargeTimeout
  (repeat' split) <;> refine ⟨_, rfl, fun h => ?_⟩
  all_goals (repeat' first
      | with_reducible assumption | with_reducible apply foldl_memWf | (intro t a ha) | split | simp)

theorem execBankMeasureGo_memWf (i : Initiator) (v : Word) (s : State) :
    ∃ u1, execBankMeasureGo i v s = .next u1 ∧ (Memory.wf s.mem = true → Memory.wf u1.mem = true) := by
  unfold execBankMeasureGo
  (repeat' split) <;> refine ⟨_, rfl, fun h => ?_⟩
  all_goals (repeat' first
      | with_reducible assumption | with_reducible apply foldl_memWf | (intro t a ha) | split | simp)

theorem execMeasureTimerExpiry_memWf (s : State) :
    ∃ u1, execMeasureTimerExpiry s = .next u1 ∧ (Memory.wf s.mem = true → Memory.wf u1.mem = true) := by
  unfold execMeasureTimerExpiry
  (repeat' split) <;> refine ⟨_, rfl, fun h => ?_⟩
  all_goals (repeat' first
      | with_reducible assumption | with_reducible apply foldl_memWf | (intro t a ha) | split | simp)

theorem execBankMeasureDone_memWf (stepMv fallMv us : Nat) (s : State) :
    ∃ u1, execBankMeasureDone stepMv fallMv us s = .next u1 ∧ (Memory.wf s.mem = true → Memory.wf u1.mem = true) := by
  unfold execBankMeasureDone
  (repeat' split) <;> refine ⟨_, rfl, fun h => ?_⟩
  all_goals (repeat' first
      | with_reducible assumption | with_reducible apply foldl_memWf | (intro t a ha) | split | simp)

theorem execVaultAllowanceUpdate_memWf (bankMv : Nat) (s : State) :
    ∃ u1, execVaultAllowanceUpdate bankMv s = .next u1 ∧ (Memory.wf s.mem = true → Memory.wf u1.mem = true) := by
  unfold execVaultAllowanceUpdate
  (repeat' split) <;> refine ⟨_, rfl, fun h => ?_⟩
  all_goals (repeat' first
      | with_reducible assumption | with_reducible apply foldl_memWf | (intro t a ha) | split | simp)

theorem execPowerLoss_memWf (bankMv : Nat) (aux : Bool) (s : State) :
    ∃ u1, execPowerLoss bankMv aux s = .next u1 ∧ (Memory.wf s.mem = true → Memory.wf u1.mem = true) := by
  unfold execPowerLoss
  (repeat' split) <;> refine ⟨_, rfl, fun h => ?_⟩
  all_goals (repeat' first
      | with_reducible assumption | with_reducible apply State.advanceHaven_memWf
      | with_reducible apply State.beginRetract_memWf | with_reducible apply State.requestHaven_memWf
      | with_reducible apply foldl_memWf | (intro t a ha) | split | simp)

theorem execVaultFlushDone_memWf (s : State) :
    ∃ u1, execVaultFlushDone s = .next u1 ∧ (Memory.wf s.mem = true → Memory.wf u1.mem = true) := by
  unfold execVaultFlushDone
  (repeat' split) <;> refine ⟨_, rfl, fun h => ?_⟩
  all_goals (repeat' first
      | with_reducible assumption | with_reducible apply State.advanceHaven_memWf
      | with_reducible apply foldl_memWf | (intro t a ha) | split | simp)

theorem execBankAtVret_memWf (s : State) :
    ∃ u1, execBankAtVret s = .next u1 ∧ (Memory.wf s.mem = true → Memory.wf u1.mem = true) := by
  unfold execBankAtVret
  (repeat' split) <;> refine ⟨_, rfl, fun h => ?_⟩
  all_goals (repeat' first
      | with_reducible assumption | with_reducible apply State.advanceHaven_memWf
      | with_reducible apply State.beginRetract_memWf | with_reducible apply foldl_memWf | (intro t a ha) | split
      | simp)

theorem execMainReturn_memWf (mv : Nat) (s : State) :
    ∃ u1, execMainReturn mv s = .next u1 ∧ (Memory.wf s.mem = true → Memory.wf u1.mem = true) := by
  unfold execMainReturn
  dsimp only
  (repeat' split) <;> refine ⟨_, rfl, fun h => ?_⟩
  all_goals (repeat' first
      | with_reducible assumption | with_reducible apply foldl_memWf | (intro t a ha) | split | simp)

theorem execEmergencyRetract_memWf (s : State) :
    ∃ u1, execEmergencyRetract s = .next u1 ∧ (Memory.wf s.mem = true → Memory.wf u1.mem = true) := by
  unfold execEmergencyRetract
  (repeat' split) <;> refine ⟨_, rfl, fun h => ?_⟩
  all_goals (repeat' first
      | with_reducible assumption | with_reducible apply State.beginRetract_memWf
      | with_reducible apply foldl_memWf | (intro t a ha) | split | simp)

theorem execRetractComplete_memWf (s : State) :
    ∃ u1, execRetractComplete s = .next u1 ∧ (Memory.wf s.mem = true → Memory.wf u1.mem = true) := by
  unfold execRetractComplete
  (repeat' split) <;> refine ⟨_, rfl, fun h => ?_⟩
  all_goals (repeat' first
      | with_reducible assumption | with_reducible apply State.advanceHaven_memWf
      | with_reducible apply State.endRetract_memWf | with_reducible apply foldl_memWf | (intro t a ha) | split
      | simp)

theorem execThermalLevelChange_memWf (deg16 : Int) (s : State) :
    ∃ u1, execThermalLevelChange deg16 s = .next u1 ∧ (Memory.wf s.mem = true → Memory.wf u1.mem = true) := by
  unfold execThermalLevelChange
  (repeat' split) <;> refine ⟨_, rfl, fun h => ?_⟩
  all_goals (repeat' first
      | with_reducible assumption | with_reducible apply State.setTemp_memWf | with_reducible apply foldl_memWf
      | (intro t a ha) | split | simp)

end Sys2Proof.Machine
end

