-- ==== Sys2Proof/Laws/FrameBasalt.lean ====
section
/-!
SUPPORT. Sys2Proof/Laws/FrameBasalt.lean: what each operation and meaning of Machine/Basalt.lean leaves alone: the command queue, the
fuses, and memory, or its canonical form where the operation may write memory.
-/

namespace Sys2Proof.Machine

/-! ### What the meanings leave alone -/

theorem execLoopTrigger_kept (trig : Fin 16) (l : Fin 80) (s : State) :
    ∃ u1, execLoopTrigger trig l s = .next u1 ∧ u1.pending = s.pending ∧ u1.sys.fuses = s.sys.fuses := by
  unfold execLoopTrigger
  (repeat' split) <;> exact ⟨_, rfl, by simp, by simp⟩

theorem execBasaltTick_kept (t : Fin 2) (s : State) :
    ∃ u1, execBasaltTick t s = .next u1 ∧ u1.pending = s.pending ∧ u1.sys.fuses = s.sys.fuses := by
  unfold execBasaltTick
  exact ⟨_, rfl, by simp, by simp⟩

theorem execLoopKick_kept (i : Initiator) (v : Word) (s : State) :
    ∃ u1, execLoopKick i v s = .next u1 ∧ u1.pending = s.pending ∧ u1.sys.fuses = s.sys.fuses := by
  unfold execLoopKick
  exact ⟨_, rfl, by simp, by simp⟩

theorem execLoopEnable_kept (i : Initiator) (l : Fin 80) (v : Word) (s : State) :
    ∃ u1, execLoopEnable i l v s = .next u1 ∧ u1.pending = s.pending ∧ u1.sys.fuses = s.sys.fuses := by
  unfold execLoopEnable
  exact ⟨_, rfl, by simp, by simp⟩

theorem execLoopDisable_kept (i : Initiator) (l : Fin 80) (v : Word) (s : State) :
    ∃ u1, execLoopDisable i l v s = .next u1 ∧ u1.pending = s.pending ∧ u1.sys.fuses = s.sys.fuses := by
  unfold execLoopDisable
  exact ⟨_, rfl, by simp, by simp⟩

theorem execLoopClear_kept (i : Initiator) (l : Fin 80) (s : State) :
    ∃ u1, execLoopClear i l s = .next u1 ∧ u1.pending = s.pending ∧ u1.sys.fuses = s.sys.fuses := by
  unfold execLoopClear
  exact ⟨_, rfl, by simp, by simp⟩

theorem execBankSwap_kept (i : Initiator) (l : Fin 80) (s : State) :
    ∃ u1, execBankSwap i l s = .next u1 ∧ u1.pending = s.pending ∧ u1.sys.fuses = s.sys.fuses := by
  unfold execBankSwap
  exact ⟨_, rfl, by simp, by simp⟩

theorem execIntegratorWrite_kept (i : Initiator) (l : Fin 80) (v : Word) (s : State) :
    ∃ u1, execIntegratorWrite i l v s = .next u1 ∧ u1.pending = s.pending ∧ u1.sys.fuses = s.sys.fuses := by
  unfold execIntegratorWrite
  exact ⟨_, rfl, by simp, by simp⟩

theorem execGeneralInputWrite_kept (i : Initiator) (k : Fin 16) (v : Word) (s : State) :
    ∃ u1, execGeneralInputWrite i k v s = .next u1 ∧ u1.pending = s.pending ∧ u1.sys.fuses = s.sys.fuses := by
  unfold execGeneralInputWrite
  exact ⟨_, rfl, by simp, by simp⟩

theorem execServoHwmClear_kept (i : Initiator) (v : Word) (s : State) :
    ∃ u1, execServoHwmClear i v s = .next u1 ∧ u1.pending = s.pending ∧ u1.sys.fuses = s.sys.fuses := by
  unfold execServoHwmClear
  exact ⟨_, rfl, by simp, by simp⟩

/-! ### Memory stays canonical -/

theorem execLoopTrigger_memWf (trig : Fin 16) (l : Fin 80) (s : State) :
    ∃ u1, execLoopTrigger trig l s = .next u1 ∧ (Memory.wf s.mem = true → Memory.wf u1.mem = true) := by
  unfold execLoopTrigger
  (repeat' split) <;> refine ⟨_, rfl, fun h => ?_⟩
  all_goals (repeat' first
      | with_reducible assumption | with_reducible apply foldl_memWf | (intro t a ha) | split | simp)

theorem execBasaltTick_memWf (t : Fin 2) (s : State) :
    ∃ u1, execBasaltTick t s = .next u1 ∧ (Memory.wf s.mem = true → Memory.wf u1.mem = true) := by
  unfold execBasaltTick
  (repeat' split) <;> refine ⟨_, rfl, fun h => ?_⟩
  all_goals (repeat' first
      | with_reducible assumption | with_reducible apply foldl_memWf | (intro t a ha) | split | simp)

theorem execLoopKick_memWf (i : Initiator) (v : Word) (s : State) :
    ∃ u1, execLoopKick i v s = .next u1 ∧ (Memory.wf s.mem = true → Memory.wf u1.mem = true) := by
  unfold execLoopKick
  (repeat' split) <;> refine ⟨_, rfl, fun h => ?_⟩
  all_goals (repeat' first
      | with_reducible assumption | with_reducible apply foldl_memWf | (intro t a ha) | split | simp)

theorem execLoopEnable_memWf (i : Initiator) (l : Fin 80) (v : Word) (s : State) :
    ∃ u1, execLoopEnable i l v s = .next u1 ∧ (Memory.wf s.mem = true → Memory.wf u1.mem = true) := by
  unfold execLoopEnable
  (repeat' split) <;> refine ⟨_, rfl, fun h => ?_⟩
  all_goals (repeat' first
      | with_reducible assumption | with_reducible apply foldl_memWf | (intro t a ha) | split | simp)

theorem execLoopDisable_memWf (i : Initiator) (l : Fin 80) (v : Word) (s : State) :
    ∃ u1, execLoopDisable i l v s = .next u1 ∧ (Memory.wf s.mem = true → Memory.wf u1.mem = true) := by
  unfold execLoopDisable
  (repeat' split) <;> refine ⟨_, rfl, fun h => ?_⟩
  all_goals (repeat' first
      | with_reducible assumption | with_reducible apply foldl_memWf | (intro t a ha) | split | simp)

theorem execLoopClear_memWf (i : Initiator) (l : Fin 80) (s : State) :
    ∃ u1, execLoopClear i l s = .next u1 ∧ (Memory.wf s.mem = true → Memory.wf u1.mem = true) := by
  unfold execLoopClear
  (repeat' split) <;> refine ⟨_, rfl, fun h => ?_⟩
  all_goals (repeat' first
      | with_reducible assumption | with_reducible apply foldl_memWf | (intro t a ha) | split | simp)

theorem execBankSwap_memWf (i : Initiator) (l : Fin 80) (s : State) :
    ∃ u1, execBankSwap i l s = .next u1 ∧ (Memory.wf s.mem = true → Memory.wf u1.mem = true) := by
  unfold execBankSwap
  (repeat' split) <;> refine ⟨_, rfl, fun h => ?_⟩
  all_goals (repeat' first
      | with_reducible assumption | with_reducible apply foldl_memWf | (intro t a ha) | split | simp)

theorem execIntegratorWrite_memWf (i : Initiator) (l : Fin 80) (v : Word) (s : State) :
    ∃ u1, execIntegratorWrite i l v s = .next u1 ∧ (Memory.wf s.mem = true → Memory.wf u1.mem = true) := by
  unfold execIntegratorWrite
  (repeat' split) <;> refine ⟨_, rfl, fun h => ?_⟩
  all_goals (repeat' first
      | with_reducible assumption | with_reducible apply foldl_memWf | (intro t a ha) | split | simp)

theorem execGeneralInputWrite_memWf (i : Initiator) (k : Fin 16) (v : Word) (s : State) :
    ∃ u1, execGeneralInputWrite i k v s = .next u1 ∧ (Memory.wf s.mem = true → Memory.wf u1.mem = true) := by
  unfold execGeneralInputWrite
  (repeat' split) <;> refine ⟨_, rfl, fun h => ?_⟩
  all_goals (repeat' first
      | with_reducible assumption | with_reducible apply foldl_memWf | (intro t a ha) | split | simp)

theorem execServoHwmClear_memWf (i : Initiator) (v : Word) (s : State) :
    ∃ u1, execServoHwmClear i v s = .next u1 ∧ (Memory.wf s.mem = true → Memory.wf u1.mem = true) := by
  unfold execServoHwmClear
  (repeat' split) <;> refine ⟨_, rfl, fun h => ?_⟩
  all_goals (repeat' first
      | with_reducible assumption | with_reducible apply foldl_memWf | (intro t a ha) | split | simp)

end Sys2Proof.Machine
end

