-- ==== Sys2Proof/Laws/FrameCarriage.lean ====
section
/-!
SUPPORT. Sys2Proof/Laws/FrameCarriage.lean: what each operation and meaning of Machine/Carriage.lean leaves alone: the command queue, the
fuses, and memory, or its canonical form where the operation may write memory.
-/

namespace Sys2Proof.Machine

/-! ### What the meanings leave alone -/

theorem execChannelStart_kept (i : Initiator) (k : Fin 32) (v : Word) (s : State) :
    ∃ u1, execChannelStart i k v s = .next u1 ∧ u1.pending = s.pending ∧ u1.sys.fuses = s.sys.fuses := by
  unfold execChannelStart
  (repeat' split) <;> exact ⟨_, rfl, by simp, by simp⟩

theorem execChannelDisable_kept (i : Initiator) (k : Fin 32) (s : State) :
    ∃ u1, execChannelDisable i k s = .next u1 ∧ u1.pending = s.pending ∧ u1.sys.fuses = s.sys.fuses := by
  unfold execChannelDisable
  exact ⟨_, rfl, by simp, by simp⟩

theorem execChannelDrained_kept (k : Fin 32) (s : State) :
    ∃ u1, execChannelDrained k s = .next u1 ∧ u1.pending = s.pending ∧ u1.sys.fuses = s.sys.fuses := by
  unfold execChannelDrained
  (repeat' split) <;> exact ⟨_, rfl, by simp, by simp⟩

theorem execBurstIssue_kept (s : State) :
    ∃ u1, execBurstIssue s = .next u1 ∧ u1.pending = s.pending ∧ u1.sys.fuses = s.sys.fuses := by
  unfold execBurstIssue
  (repeat' split) <;> exact ⟨_, rfl, by simp, by simp⟩

theorem execBeatReadResponse_kept (k : Fin 32) (s : State) :
    ∃ u1, execBeatReadResponse k s = .next u1 ∧ u1.pending = s.pending ∧ u1.sys.fuses = s.sys.fuses := by
  unfold execBeatReadResponse
  exact ⟨_, rfl, by simp, by simp⟩

theorem execBeatWriteResponse_kept (k : Fin 32) (s : State) :
    ∃ u1, execBeatWriteResponse k s = .next u1 ∧ u1.pending = s.pending ∧ u1.sys.fuses = s.sys.fuses := by
  unfold execBeatWriteResponse
  exact ⟨_, rfl, by simp, by simp⟩

theorem execRequestEdge_kept (l : Fin 64) (s : State) :
    ∃ u1, execRequestEdge l s = .next u1 ∧ u1.pending = s.pending ∧ u1.sys.fuses = s.sys.fuses := by
  unfold execRequestEdge
  exact ⟨_, rfl, by simp, by simp⟩

theorem execSoftwareRequest_kept (i : Initiator) (lines : BitVec 8) (s : State) :
    ∃ u1, execSoftwareRequest i lines s = .next u1 ∧ u1.pending = s.pending ∧ u1.sys.fuses = s.sys.fuses := by
  unfold execSoftwareRequest
  exact ⟨_, rfl, by simp, by simp⟩

theorem execGeneralTimerExpiry_kept (t : Fin 16) (s : State) :
    ∃ u1, execGeneralTimerExpiry t s = .next u1 ∧ u1.pending = s.pending ∧ u1.sys.fuses = s.sys.fuses := by
  unfold execGeneralTimerExpiry
  exact ⟨_, rfl, by simp, by simp⟩

theorem execSegmentAdjust_kept (i : Initiator) (g : Fin 32) (adj : BitVec 12) (s : State) :
    ∃ u1, execSegmentAdjust i g adj s = .next u1 ∧ u1.pending = s.pending ∧ u1.sys.fuses = s.sys.fuses := by
  unfold execSegmentAdjust
  exact ⟨_, rfl, by simp, by simp⟩

theorem execSegmentClear_kept (i : Initiator) (g : Fin 32) (s : State) :
    ∃ u1, execSegmentClear i g s = .next u1 ∧ u1.pending = s.pending ∧ u1.sys.fuses = s.sys.fuses := by
  unfold execSegmentClear
  exact ⟨_, rfl, by simp, by simp⟩

/-! ### Memory stays canonical -/

theorem execChannelStart_memWf (i : Initiator) (k : Fin 32) (v : Word) (s : State) :
    ∃ u1, execChannelStart i k v s = .next u1 ∧ (Memory.wf s.mem = true → Memory.wf u1.mem = true) := by
  unfold execChannelStart
  (repeat' split) <;> refine ⟨_, rfl, fun h => ?_⟩
  all_goals (repeat' first
      | with_reducible assumption | with_reducible apply State.writeCarCtl_memWf | with_reducible apply foldl_memWf
      | (intro t a ha) | split | simp)

theorem execChannelDisable_memWf (i : Initiator) (k : Fin 32) (s : State) :
    ∃ u1, execChannelDisable i k s = .next u1 ∧ (Memory.wf s.mem = true → Memory.wf u1.mem = true) := by
  unfold execChannelDisable
  (repeat' split) <;> refine ⟨_, rfl, fun h => ?_⟩
  all_goals (repeat' first
      | with_reducible assumption | with_reducible apply State.writeCarCtl_memWf | with_reducible apply foldl_memWf
      | (intro t a ha) | split | simp)

theorem execChannelDrained_memWf (k : Fin 32) (s : State) :
    ∃ u1, execChannelDrained k s = .next u1 ∧ (Memory.wf s.mem = true → Memory.wf u1.mem = true) := by
  unfold execChannelDrained
  (repeat' split) <;> refine ⟨_, rfl, fun h => ?_⟩
  all_goals (repeat' first
      | with_reducible assumption | with_reducible apply State.carDrain_memWf | with_reducible apply foldl_memWf
      | (intro t a ha) | split | simp)

theorem execBurstIssue_memWf (s : State) :
    ∃ u1, execBurstIssue s = .next u1 ∧ (Memory.wf s.mem = true → Memory.wf u1.mem = true) := by
  unfold execBurstIssue
  (repeat' split) <;> refine ⟨_, rfl, fun h => ?_⟩
  all_goals (repeat' first
      | with_reducible assumption | with_reducible apply foldl_memWf | (intro t a ha) | split | simp)

theorem execBeatReadResponse_memWf (k : Fin 32) (s : State) :
    ∃ u1, execBeatReadResponse k s = .next u1 ∧ (Memory.wf s.mem = true → Memory.wf u1.mem = true) := by
  unfold execBeatReadResponse
  (repeat' split) <;> refine ⟨_, rfl, fun h => ?_⟩
  all_goals (repeat' first
      | with_reducible assumption | with_reducible apply State.carRead_memWf | with_reducible apply foldl_memWf
      | (intro t a ha) | split | simp)

theorem execBeatWriteResponse_memWf (k : Fin 32) (s : State) :
    ∃ u1, execBeatWriteResponse k s = .next u1 ∧ (Memory.wf s.mem = true → Memory.wf u1.mem = true) := by
  unfold execBeatWriteResponse
  (repeat' split) <;> refine ⟨_, rfl, fun h => ?_⟩
  all_goals (repeat' first
      | with_reducible assumption | with_reducible apply State.carWrite_memWf | with_reducible apply foldl_memWf
      | (intro t a ha) | split | simp)

theorem execRequestEdge_memWf (l : Fin 64) (s : State) :
    ∃ u1, execRequestEdge l s = .next u1 ∧ (Memory.wf s.mem = true → Memory.wf u1.mem = true) := by
  unfold execRequestEdge
  (repeat' split) <;> refine ⟨_, rfl, fun h => ?_⟩
  all_goals (repeat' first
      | with_reducible assumption | with_reducible apply foldl_memWf | (intro t a ha) | split | simp)

theorem execSoftwareRequest_memWf (i : Initiator) (lines : BitVec 8) (s : State) :
    ∃ u1, execSoftwareRequest i lines s = .next u1 ∧ (Memory.wf s.mem = true → Memory.wf u1.mem = true) := by
  unfold execSoftwareRequest
  (repeat' split) <;> refine ⟨_, rfl, fun h => ?_⟩
  all_goals (repeat' first
      | with_reducible assumption | with_reducible apply foldl_memWf | (intro t a ha) | split | simp)

theorem execGeneralTimerExpiry_memWf (t : Fin 16) (s : State) :
    ∃ u1, execGeneralTimerExpiry t s = .next u1 ∧ (Memory.wf s.mem = true → Memory.wf u1.mem = true) := by
  unfold execGeneralTimerExpiry
  (repeat' split) <;> refine ⟨_, rfl, fun h => ?_⟩
  all_goals (repeat' first
      | with_reducible assumption | with_reducible apply foldl_memWf | (intro t a ha) | split | simp)

theorem execSegmentAdjust_memWf (i : Initiator) (g : Fin 32) (adj : BitVec 12) (s : State) :
    ∃ u1, execSegmentAdjust i g adj s = .next u1 ∧ (Memory.wf s.mem = true → Memory.wf u1.mem = true) := by
  unfold execSegmentAdjust
  (repeat' split) <;> refine ⟨_, rfl, fun h => ?_⟩
  all_goals (repeat' first
      | with_reducible assumption | with_reducible apply foldl_memWf | (intro t a ha) | split | simp)

theorem execSegmentClear_memWf (i : Initiator) (g : Fin 32) (s : State) :
    ∃ u1, execSegmentClear i g s = .next u1 ∧ (Memory.wf s.mem = true → Memory.wf u1.mem = true) := by
  unfold execSegmentClear
  (repeat' split) <;> refine ⟨_, rfl, fun h => ?_⟩
  all_goals (repeat' first
      | with_reducible assumption | with_reducible apply foldl_memWf | (intro t a ha) | split | simp)

end Sys2Proof.Machine
end

