-- ==== Sys2Proof/Laws/FrameCauseway.lean ====
section
/-!
SUPPORT. Sys2Proof/Laws/FrameCauseway.lean: what each operation and meaning of Machine/Causeway.lean leaves alone: the command queue, the
fuses, and memory, or its canonical form where the operation may write memory.
-/

namespace Sys2Proof.Machine

/-! ### What the operations leave alone -/

@[simp] theorem State.cswHello_kept (s : State) (f : Nat) :
    (State.cswHello s f).pending = s.pending ∧ (State.cswHello s f).sys.fuses = s.sys.fuses ∧ (State.cswHello s
        f).mem = s.mem := by simp [State.cswHello]

@[simp] theorem State.setCredit_kept (s : State) (credit : Nat) :
    (State.setCredit s credit).pending = s.pending ∧ (State.setCredit s credit).sys.fuses = s.sys.fuses ∧
        (State.setCredit s credit).mem = s.mem := by simp [State.setCredit]

@[simp] theorem State.cswAckIn_kept (s : State) (next credit : Nat) :
    (State.cswAckIn s next credit).pending = s.pending ∧ (State.cswAckIn s next credit).sys.fuses = s.sys.fuses ∧
        (State.cswAckIn s next credit).mem = s.mem := by simp [State.cswAckIn]

/-! ### What the meanings leave alone -/

theorem execLaneBlockLock_kept (lane : Fin 2) (s : State) :
    ∃ u1, execLaneBlockLock lane s = .next u1 ∧ u1.pending = s.pending ∧ u1.sys.fuses = s.sys.fuses := by
  unfold execLaneBlockLock
  (repeat' split) <;> exact ⟨_, rfl, by simp, by simp⟩

theorem execLaneLockLoss_kept (lane : Fin 2) (s : State) :
    ∃ u1, execLaneLockLoss lane s = .next u1 ∧ u1.pending = s.pending ∧ u1.sys.fuses = s.sys.fuses := by
  unfold execLaneLockLoss
  exact ⟨_, rfl, by simp, by simp⟩

theorem execAlignBlock_kept (lane : Fin 2) (counter : BitVec 32) (s : State) :
    ∃ u1, execAlignBlock lane counter s = .next u1 ∧ u1.pending = s.pending ∧ u1.sys.fuses = s.sys.fuses := by
  simp only [execAlignBlock, ok]
  (repeat' split) <;> first
      | exact ⟨_, rfl, by simp, by simp⟩ | (refine ⟨_, rfl, ?_, ?_⟩ <;> (repeat' split) <;> simp_all)

theorem execAlignSend_kept (s : State) :
    ∃ u1, execAlignSend s = .next u1 ∧ u1.pending = s.pending ∧ u1.sys.fuses = s.sys.fuses := by
  unfold execAlignSend
  (repeat' split) <;> exact ⟨_, rfl, by simp, by simp⟩

theorem execHelloFrame_kept (len frame : Nat) (s : State) :
    ∃ u1, execHelloFrame len frame s = .next u1 ∧ u1.pending = s.pending ∧ u1.sys.fuses = s.sys.fuses := by
  unfold execHelloFrame
  exact ⟨_, rfl, by simp, by simp⟩

theorem execHelloTimer_kept (s : State) :
    ∃ u1, execHelloTimer s = .next u1 ∧ u1.pending = s.pending ∧ u1.sys.fuses = s.sys.fuses := by
  unfold execHelloTimer
  (repeat' split) <;> exact ⟨_, rfl, by simp, by simp⟩

theorem execAckFrame_kept (len frame : Nat) (s : State) :
    ∃ u1, execAckFrame len frame s = .next u1 ∧ u1.pending = s.pending ∧ u1.sys.fuses = s.sys.fuses := by
  unfold execAckFrame
  exact ⟨_, rfl, by simp, by simp⟩

theorem execNakFrame_kept (len frame : Nat) (s : State) :
    ∃ u1, execNakFrame len frame s = .next u1 ∧ u1.pending = s.pending ∧ u1.sys.fuses = s.sys.fuses := by
  unfold execNakFrame
  exact ⟨_, rfl, by simp, by simp⟩

theorem execRetransmitTimeout_kept (s : State) :
    ∃ u1, execRetransmitTimeout s = .next u1 ∧ u1.pending = s.pending ∧ u1.sys.fuses = s.sys.fuses := by
  unfold execRetransmitTimeout
  (repeat' split) <;> exact ⟨_, rfl, by simp, by simp⟩

theorem execAckKeepalive_kept (s : State) :
    ∃ u1, execAckKeepalive s = .next u1 ∧ u1.pending = s.pending ∧ u1.sys.fuses = s.sys.fuses := by
  unfold execAckKeepalive
  (repeat' split) <;> exact ⟨_, rfl, by simp, by simp⟩

theorem execPeerTimeout_kept (s : State) :
    ∃ u1, execPeerTimeout s = .next u1 ∧ u1.pending = s.pending ∧ u1.sys.fuses = s.sys.fuses := by
  unfold execPeerTimeout
  (repeat' split) <;> exact ⟨_, rfl, by simp, by simp⟩

theorem execPlanFrame_kept (len frame : Nat) (s : State) :
    ∃ u1, execPlanFrame len frame s = .next u1 ∧ u1.pending = s.pending ∧ u1.sys.fuses = s.sys.fuses := by
  unfold execPlanFrame
  exact ⟨_, rfl, by simp, by simp⟩

theorem execPlanAckFrame_kept (len frame : Nat) (s : State) :
    ∃ u1, execPlanAckFrame len frame s = .next u1 ∧ u1.pending = s.pending ∧ u1.sys.fuses = s.sys.fuses := by
  unfold execPlanAckFrame
  exact ⟨_, rfl, by simp, by simp⟩

theorem execTenantFrame_kept (len frame : Nat) (s : State) :
    ∃ u1, execTenantFrame len frame s = .next u1 ∧ u1.pending = s.pending ∧ u1.sys.fuses = s.sys.fuses := by
  unfold execTenantFrame
  exact ⟨_, rfl, by simp, by simp⟩

theorem execItemBeginFrame_kept (len frame : Nat) (s : State) :
    ∃ u1, execItemBeginFrame len frame s = .next u1 ∧ u1.pending = s.pending ∧ u1.sys.fuses = s.sys.fuses := by
  unfold execItemBeginFrame
  exact ⟨_, rfl, by simp, by simp⟩

theorem execDataFrame_kept (len frame : Nat) (s : State) :
    ∃ u1, execDataFrame len frame s = .next u1 ∧ u1.pending = s.pending ∧ u1.sys.fuses = s.sys.fuses := by
  unfold execDataFrame
  exact ⟨_, rfl, by simp, by simp⟩

theorem execItemEndFrame_kept (len frame : Nat) (s : State) :
    ∃ u1, execItemEndFrame len frame s = .next u1 ∧ u1.pending = s.pending ∧ u1.sys.fuses = s.sys.fuses := by
  unfold execItemEndFrame
  exact ⟨_, rfl, by simp, by simp⟩

theorem execItemAbortFrame_kept (len frame : Nat) (s : State) :
    ∃ u1, execItemAbortFrame len frame s = .next u1 ∧ u1.pending = s.pending ∧ u1.sys.fuses = s.sys.fuses := by
  unfold execItemAbortFrame
  exact ⟨_, rfl, by simp, by simp⟩

theorem execItemReadbackDone_kept (t kind id ofs : Nat) (lost : Bool) (s : State) :
    ∃ u1, execItemReadbackDone t kind id ofs lost s = .next u1 ∧ u1.pending = s.pending ∧ u1.sys.fuses = s.sys.fuses
        := by
  unfold execItemReadbackDone
  exact ⟨_, rfl, by simp, by simp⟩

theorem execVerifiedFrame_kept (len frame : Nat) (s : State) :
    ∃ u1, execVerifiedFrame len frame s = .next u1 ∧ u1.pending = s.pending ∧ u1.sys.fuses = s.sys.fuses := by
  unfold execVerifiedFrame
  exact ⟨_, rfl, by simp, by simp⟩

theorem execHistoryFrame_kept (len frame : Nat) (s : State) :
    ∃ u1, execHistoryFrame len frame s = .next u1 ∧ u1.pending = s.pending ∧ u1.sys.fuses = s.sys.fuses := by
  unfold execHistoryFrame
  exact ⟨_, rfl, by simp, by simp⟩

theorem execStopFrame_kept (len frame : Nat) (s : State) :
    ∃ u1, execStopFrame len frame s = .next u1 ∧ u1.pending = s.pending ∧ u1.sys.fuses = s.sys.fuses := by
  unfold execStopFrame
  exact ⟨_, rfl, by simp, by simp⟩

theorem execEndFrame_kept (len frame : Nat) (s : State) :
    ∃ u1, execEndFrame len frame s = .next u1 ∧ u1.pending = s.pending ∧ u1.sys.fuses = s.sys.fuses := by
  unfold execEndFrame
  exact ⟨_, rfl, by simp, by simp⟩

theorem execExportGranuleRead_kept (lost : Bool) (s : State) :
    ∃ u1, execExportGranuleRead lost s = .next u1 ∧ u1.pending = s.pending ∧ u1.sys.fuses = s.sys.fuses := by
  unfold execExportGranuleRead
  exact ⟨_, rfl, by simp, by simp⟩

theorem execSessionGo_kept (i : Initiator) (s : State) :
    ∃ u1, execSessionGo i s = .next u1 ∧ u1.pending = s.pending ∧ u1.sys.fuses = s.sys.fuses := by
  unfold execSessionGo
  exact ⟨_, rfl, by simp, by simp⟩

theorem execSessionStop_kept (i : Initiator) (s : State) :
    ∃ u1, execSessionStop i s = .next u1 ∧ u1.pending = s.pending ∧ u1.sys.fuses = s.sys.fuses := by
  unfold execSessionStop
  exact ⟨_, rfl, by simp, by simp⟩

theorem execSessionDrained_kept (s : State) :
    ∃ u1, execSessionDrained s = .next u1 ∧ u1.pending = s.pending ∧ u1.sys.fuses = s.sys.fuses := by
  unfold execSessionDrained
  (repeat' split) <;> exact ⟨_, rfl, by simp, by simp⟩

/-! ### Memory stays canonical -/

theorem execLaneBlockLock_memWf (lane : Fin 2) (s : State) :
    ∃ u1, execLaneBlockLock lane s = .next u1 ∧ (Memory.wf s.mem = true → Memory.wf u1.mem = true) := by
  unfold execLaneBlockLock
  (repeat' split) <;> refine ⟨_, rfl, fun h => ?_⟩
  all_goals (repeat' first
      | with_reducible assumption | with_reducible apply foldl_memWf | (intro t a ha) | split | simp)

theorem execLaneLockLoss_memWf (lane : Fin 2) (s : State) :
    ∃ u1, execLaneLockLoss lane s = .next u1 ∧ (Memory.wf s.mem = true → Memory.wf u1.mem = true) := by
  unfold execLaneLockLoss
  (repeat' split) <;> refine ⟨_, rfl, fun h => ?_⟩
  all_goals (repeat' first
      | with_reducible assumption | with_reducible apply foldl_memWf | (intro t a ha) | split | simp)

theorem execAlignBlock_memWf (lane : Fin 2) (counter : BitVec 32) (s : State) :
    ∃ u1, execAlignBlock lane counter s = .next u1 ∧ (Memory.wf s.mem = true → Memory.wf u1.mem = true) := by
  unfold execAlignBlock
  dsimp only
  (repeat' split) <;> refine ⟨_, rfl, fun h => ?_⟩
  all_goals (repeat' first
      | with_reducible assumption | with_reducible apply foldl_memWf | (intro t a ha) | split | simp)

theorem execAlignSend_memWf (s : State) :
    ∃ u1, execAlignSend s = .next u1 ∧ (Memory.wf s.mem = true → Memory.wf u1.mem = true) := by
  unfold execAlignSend
  (repeat' split) <;> refine ⟨_, rfl, fun h => ?_⟩
  all_goals (repeat' first
      | with_reducible assumption | with_reducible apply foldl_memWf | (intro t a ha) | split | simp)

theorem execHelloFrame_memWf (len frame : Nat) (s : State) :
    ∃ u1, execHelloFrame len frame s = .next u1 ∧ (Memory.wf s.mem = true → Memory.wf u1.mem = true) := by
  unfold execHelloFrame
  (repeat' split) <;> refine ⟨_, rfl, fun h => ?_⟩
  all_goals (repeat' first
      | with_reducible assumption | with_reducible apply foldl_memWf | (intro t a ha) | split | simp)

theorem execHelloTimer_memWf (s : State) :
    ∃ u1, execHelloTimer s = .next u1 ∧ (Memory.wf s.mem = true → Memory.wf u1.mem = true) := by
  unfold execHelloTimer
  (repeat' split) <;> refine ⟨_, rfl, fun h => ?_⟩
  all_goals (repeat' first
      | with_reducible assumption | with_reducible apply foldl_memWf | (intro t a ha) | split | simp)

theorem execAckFrame_memWf (len frame : Nat) (s : State) :
    ∃ u1, execAckFrame len frame s = .next u1 ∧ (Memory.wf s.mem = true → Memory.wf u1.mem = true) := by
  unfold execAckFrame
  (repeat' split) <;> refine ⟨_, rfl, fun h => ?_⟩
  all_goals (repeat' first
      | with_reducible assumption | with_reducible apply foldl_memWf | (intro t a ha) | split | simp)

theorem execNakFrame_memWf (len frame : Nat) (s : State) :
    ∃ u1, execNakFrame len frame s = .next u1 ∧ (Memory.wf s.mem = true → Memory.wf u1.mem = true) := by
  unfold execNakFrame
  (repeat' split) <;> refine ⟨_, rfl, fun h => ?_⟩
  all_goals (repeat' first
      | with_reducible assumption | with_reducible apply foldl_memWf | (intro t a ha) | split | simp)

theorem execRetransmitTimeout_memWf (s : State) :
    ∃ u1, execRetransmitTimeout s = .next u1 ∧ (Memory.wf s.mem = true → Memory.wf u1.mem = true) := by
  unfold execRetransmitTimeout
  (repeat' split) <;> refine ⟨_, rfl, fun h => ?_⟩
  all_goals (repeat' first
      | with_reducible assumption | with_reducible apply foldl_memWf | (intro t a ha) | split | simp)

theorem execAckKeepalive_memWf (s : State) :
    ∃ u1, execAckKeepalive s = .next u1 ∧ (Memory.wf s.mem = true → Memory.wf u1.mem = true) := by
  unfold execAckKeepalive
  (repeat' split) <;> refine ⟨_, rfl, fun h => ?_⟩
  all_goals (repeat' first
      | with_reducible assumption | with_reducible apply foldl_memWf | (intro t a ha) | split | simp)

theorem execPeerTimeout_memWf (s : State) :
    ∃ u1, execPeerTimeout s = .next u1 ∧ (Memory.wf s.mem = true → Memory.wf u1.mem = true) := by
  unfold execPeerTimeout
  (repeat' split) <;> refine ⟨_, rfl, fun h => ?_⟩
  all_goals (repeat' first
      | with_reducible assumption | with_reducible apply foldl_memWf | (intro t a ha) | split | simp)

theorem execPlanFrame_memWf (len frame : Nat) (s : State) :
    ∃ u1, execPlanFrame len frame s = .next u1 ∧ (Memory.wf s.mem = true → Memory.wf u1.mem = true) := by
  unfold execPlanFrame
  (repeat' split) <;> refine ⟨_, rfl, fun h => ?_⟩
  all_goals (repeat' first
      | with_reducible assumption | with_reducible apply foldl_memWf | (intro t a ha) | split | simp)

theorem execPlanAckFrame_memWf (len frame : Nat) (s : State) :
    ∃ u1, execPlanAckFrame len frame s = .next u1 ∧ (Memory.wf s.mem = true → Memory.wf u1.mem = true) := by
  unfold execPlanAckFrame
  (repeat' split) <;> refine ⟨_, rfl, fun h => ?_⟩
  all_goals (repeat' first
      | with_reducible assumption | with_reducible apply foldl_memWf | (intro t a ha) | split | simp)

theorem execTenantFrame_memWf (len frame : Nat) (s : State) :
    ∃ u1, execTenantFrame len frame s = .next u1 ∧ (Memory.wf s.mem = true → Memory.wf u1.mem = true) := by
  unfold execTenantFrame
  (repeat' split) <;> refine ⟨_, rfl, fun h => ?_⟩
  all_goals (repeat' first
      | with_reducible assumption | with_reducible apply foldl_memWf | (intro t a ha) | split | simp)

theorem execItemBeginFrame_memWf (len frame : Nat) (s : State) :
    ∃ u1, execItemBeginFrame len frame s = .next u1 ∧ (Memory.wf s.mem = true → Memory.wf u1.mem = true) := by
  unfold execItemBeginFrame
  (repeat' split) <;> refine ⟨_, rfl, fun h => ?_⟩
  all_goals (repeat' first
      | with_reducible assumption | with_reducible apply foldl_memWf | (intro t a ha) | split | simp)

theorem execDataFrame_memWf (len frame : Nat) (s : State) :
    ∃ u1, execDataFrame len frame s = .next u1 ∧ (Memory.wf s.mem = true → Memory.wf u1.mem = true) := by
  unfold execDataFrame
  (repeat' split) <;> refine ⟨_, rfl, fun h => ?_⟩
  all_goals (repeat' first
      | with_reducible assumption | with_reducible apply foldl_memWf | (intro t a ha) | split | simp)

theorem execItemEndFrame_memWf (len frame : Nat) (s : State) :
    ∃ u1, execItemEndFrame len frame s = .next u1 ∧ (Memory.wf s.mem = true → Memory.wf u1.mem = true) := by
  unfold execItemEndFrame
  (repeat' split) <;> refine ⟨_, rfl, fun h => ?_⟩
  all_goals (repeat' first
      | with_reducible assumption | with_reducible apply foldl_memWf | (intro t a ha) | split | simp)

theorem execItemAbortFrame_memWf (len frame : Nat) (s : State) :
    ∃ u1, execItemAbortFrame len frame s = .next u1 ∧ (Memory.wf s.mem = true → Memory.wf u1.mem = true) := by
  unfold execItemAbortFrame
  (repeat' split) <;> refine ⟨_, rfl, fun h => ?_⟩
  all_goals (repeat' first
      | with_reducible assumption | with_reducible apply foldl_memWf | (intro t a ha) | split | simp)

theorem execItemReadbackDone_memWf (t kind id ofs : Nat) (lost : Bool) (s : State) :
    ∃ u1, execItemReadbackDone t kind id ofs lost s = .next u1 ∧ (Memory.wf s.mem = true → Memory.wf u1.mem = true)
        := by
  unfold execItemReadbackDone
  (repeat' split) <;> refine ⟨_, rfl, fun h => ?_⟩
  all_goals (repeat' first
      | with_reducible assumption | with_reducible apply foldl_memWf | (intro t a ha) | split | simp)

theorem execVerifiedFrame_memWf (len frame : Nat) (s : State) :
    ∃ u1, execVerifiedFrame len frame s = .next u1 ∧ (Memory.wf s.mem = true → Memory.wf u1.mem = true) := by
  unfold execVerifiedFrame
  (repeat' split) <;> refine ⟨_, rfl, fun h => ?_⟩
  all_goals (repeat' first
      | with_reducible assumption | with_reducible apply foldl_memWf | (intro t a ha) | split | simp)

theorem execHistoryFrame_memWf (len frame : Nat) (s : State) :
    ∃ u1, execHistoryFrame len frame s = .next u1 ∧ (Memory.wf s.mem = true → Memory.wf u1.mem = true) := by
  unfold execHistoryFrame
  exact ⟨_, rfl, fun h => State.cswFrame_memWf _ _ _ _ _ h fun t ht => State.cswHistoryIn_memWf _ _ _ _ _ ht⟩

theorem execStopFrame_memWf (len frame : Nat) (s : State) :
    ∃ u1, execStopFrame len frame s = .next u1 ∧ (Memory.wf s.mem = true → Memory.wf u1.mem = true) := by
  unfold execStopFrame
  (repeat' split) <;> refine ⟨_, rfl, fun h => ?_⟩
  all_goals (repeat' first
      | with_reducible assumption | with_reducible apply foldl_memWf | (intro t a ha) | split | simp)

theorem execEndFrame_memWf (len frame : Nat) (s : State) :
    ∃ u1, execEndFrame len frame s = .next u1 ∧ (Memory.wf s.mem = true → Memory.wf u1.mem = true) := by
  unfold execEndFrame
  (repeat' split) <;> refine ⟨_, rfl, fun h => ?_⟩
  all_goals (repeat' first
      | with_reducible assumption | with_reducible apply foldl_memWf | (intro t a ha) | split | simp)

theorem execExportGranuleRead_memWf (lost : Bool) (s : State) :
    ∃ u1, execExportGranuleRead lost s = .next u1 ∧ (Memory.wf s.mem = true → Memory.wf u1.mem = true) := by
  unfold execExportGranuleRead
  (repeat' split) <;> refine ⟨_, rfl, fun h => ?_⟩
  all_goals (repeat' first
      | with_reducible assumption | with_reducible apply foldl_memWf | (intro t a ha) | split | simp)

theorem execSessionGo_memWf (i : Initiator) (s : State) :
    ∃ u1, execSessionGo i s = .next u1 ∧ (Memory.wf s.mem = true → Memory.wf u1.mem = true) := by
  unfold execSessionGo
  (repeat' split) <;> refine ⟨_, rfl, fun h => ?_⟩
  all_goals (repeat' first
      | with_reducible assumption | with_reducible apply foldl_memWf | (intro t a ha) | split | simp)

theorem execSessionStop_memWf (i : Initiator) (s : State) :
    ∃ u1, execSessionStop i s = .next u1 ∧ (Memory.wf s.mem = true → Memory.wf u1.mem = true) := by
  unfold execSessionStop
  (repeat' split) <;> refine ⟨_, rfl, fun h => ?_⟩
  all_goals (repeat' first
      | with_reducible assumption | with_reducible apply foldl_memWf | (intro t a ha) | split | simp)

theorem execSessionDrained_memWf (s : State) :
    ∃ u1, execSessionDrained s = .next u1 ∧ (Memory.wf s.mem = true → Memory.wf u1.mem = true) := by
  unfold execSessionDrained
  (repeat' split) <;> refine ⟨_, rfl, fun h => ?_⟩
  all_goals (repeat' first
      | with_reducible assumption | with_reducible apply foldl_memWf | (intro t a ha) | split | simp)

end Sys2Proof.Machine
end

