-- ==== Sys2Proof/Laws/FrameModal.lean ====
section
/-!
SUPPORT. Sys2Proof/Laws/FrameModal.lean: what each operation and meaning of Machine/Modal.lean leaves alone: the command queue, the
fuses, and memory, or its canonical form where the operation may write memory.
-/

namespace Sys2Proof.Machine

/-! ### What the operations leave alone -/

@[simp] theorem State.reload_kept (s : State) (a : Nat) :
    (State.reload s a).pending = s.pending ∧ (State.reload s a).sys.fuses = s.sys.fuses ∧ (State.reload s a).mem =
        s.mem := by simp [State.reload]

/-! ### What the meanings leave alone -/

theorem execUnloadStall_kept (a : Fin 4) (s : State) :
    ∃ u1, execUnloadStall a s = .next u1 ∧ u1.pending = s.pending ∧ u1.sys.fuses = s.sys.fuses := by
  unfold execUnloadStall
  (repeat' split) <;> exact ⟨_, rfl, by simp, by simp⟩

theorem execUnloadTimeout_kept (a : Fin 4) (s : State) :
    ∃ u1, execUnloadTimeout a s = .next u1 ∧ u1.pending = s.pending ∧ u1.sys.fuses = s.sys.fuses := by
  unfold execUnloadTimeout
  (repeat' split) <;> exact ⟨_, rfl, by simp, by simp⟩

theorem execVcmVelocitySample_kept (a : Fin 4) (mv ma : List Int) (s : State) :
    ∃ u1, execVcmVelocitySample a mv ma s = .next u1 ∧ u1.pending = s.pending ∧ u1.sys.fuses = s.sys.fuses := by
  simp only [execVcmVelocitySample, ok]
  (repeat' split) <;> first
      | exact ⟨_, rfl, by simp, by simp⟩ | (refine ⟨_, rfl, ?_, ?_⟩ <;> (repeat' split) <;> simp_all)

theorem execSpeedRegulated_kept (s : State) :
    ∃ u1, execSpeedRegulated s = .next u1 ∧ u1.pending = s.pending ∧ u1.sys.fuses = s.sys.fuses := by
  simp only [execSpeedRegulated, ok]
  (repeat' split) <;> first
      | exact ⟨_, rfl, by simp, by simp⟩ | (refine ⟨_, rfl, ?_, ?_⟩ <;> (repeat' split) <;> simp_all)

theorem execStopComplete_kept (s : State) :
    ∃ u1, execStopComplete s = .next u1 ∧ u1.pending = s.pending ∧ u1.sys.fuses = s.sys.fuses := by
  unfold execStopComplete
  (repeat' split) <;> exact ⟨_, rfl, by simp, by simp⟩

theorem execCoastToIdle_kept (s : State) :
    ∃ u1, execCoastToIdle s = .next u1 ∧ u1.pending = s.pending ∧ u1.sys.fuses = s.sys.fuses := by
  unfold execCoastToIdle
  (repeat' split) <;> exact ⟨_, rfl, by simp, by simp⟩

/-! ### Memory stays canonical -/

theorem execUnloadStall_memWf (a : Fin 4) (s : State) :
    ∃ u1, execUnloadStall a s = .next u1 ∧ (Memory.wf s.mem = true → Memory.wf u1.mem = true) := by
  unfold execUnloadStall
  (repeat' split) <;> refine ⟨_, rfl, fun h => ?_⟩
  all_goals (repeat' first
      | with_reducible assumption | with_reducible apply State.advanceHaven_memWf
      | with_reducible apply foldl_memWf | (intro t a ha) | split | simp)

theorem execUnloadTimeout_memWf (a : Fin 4) (s : State) :
    ∃ u1, execUnloadTimeout a s = .next u1 ∧ (Memory.wf s.mem = true → Memory.wf u1.mem = true) := by
  unfold execUnloadTimeout
  (repeat' split) <;> refine ⟨_, rfl, fun h => ?_⟩
  all_goals (repeat' first
      | with_reducible assumption | with_reducible apply State.advanceHaven_memWf
      | with_reducible apply foldl_memWf | (intro t a ha) | split | simp)

theorem execVcmVelocitySample_memWf (a : Fin 4) (mv ma : List Int) (s : State) :
    ∃ u1, execVcmVelocitySample a mv ma s = .next u1 ∧ (Memory.wf s.mem = true → Memory.wf u1.mem = true) := by
  unfold execVcmVelocitySample
  dsimp only
  (repeat' split) <;> refine ⟨_, rfl, fun h => ?_⟩
  all_goals (repeat' first
      | with_reducible assumption | with_reducible apply foldl_memWf | (intro t a ha) | split | simp)

theorem execSpeedRegulated_memWf (s : State) :
    ∃ u1, execSpeedRegulated s = .next u1 ∧ (Memory.wf s.mem = true → Memory.wf u1.mem = true) := by
  unfold execSpeedRegulated
  dsimp only
  (repeat' split) <;> refine ⟨_, rfl, fun h => ?_⟩
  all_goals (repeat' first
      | with_reducible assumption | with_reducible apply State.setMillstone_memWf
      | with_reducible apply foldl_memWf | (intro t a ha) | split | simp)

theorem execStopComplete_memWf (s : State) :
    ∃ u1, execStopComplete s = .next u1 ∧ (Memory.wf s.mem = true → Memory.wf u1.mem = true) := by
  unfold execStopComplete
  (repeat' split) <;> refine ⟨_, rfl, fun h => ?_⟩
  all_goals (repeat' first
      | with_reducible assumption | with_reducible apply State.advanceHaven_memWf
      | with_reducible apply State.milEnter_memWf | with_reducible apply State.modeSpin_memWf
      | with_reducible apply foldl_memWf | (intro t a ha) | split | simp)

theorem execCoastToIdle_memWf (s : State) :
    ∃ u1, execCoastToIdle s = .next u1 ∧ (Memory.wf s.mem = true → Memory.wf u1.mem = true) := by
  unfold execCoastToIdle
  (repeat' split) <;> refine ⟨_, rfl, fun h => ?_⟩
  all_goals (repeat' first
      | with_reducible assumption | with_reducible apply State.milEnter_memWf | with_reducible apply foldl_memWf
      | (intro t a ha) | split | simp)

end Sys2Proof.Machine
end

