-- ==== Sys2Proof/Laws/FrameObjects.lean ====
section
/-!
SUPPORT. Sys2Proof/Laws/FrameObjects.lean: what each operation and meaning of Machine/Objects.lean leaves alone: the command queue, the
fuses, and memory, or its canonical form where the operation may write memory.
-/

namespace Sys2Proof.Machine

/-! ### What the operations leave alone -/

@[simp] theorem State.setObj_kept (s : State) (o : Obj) :
    (State.setObj s o).pending = s.pending ∧ (State.setObj s o).sys.fuses = s.sys.fuses ∧ (State.setObj s o).mem =
        s.mem := by simp [State.setObj]

@[simp] theorem State.objCmd_pending (s : State) (k n : Nat) (write : Bool) (f : State → State)
    (h : ∀ t, (f t).pending = t.pending) : (s.objCmd k n write f).pending = s.pending := by
  unfold State.objCmd
  apply State.mediaCmd_pending
  intro t
  try dsimp only
  repeat' split
  all_goals simp [h]

@[simp] theorem State.objCmd_fuses (s : State) (k n : Nat) (write : Bool) (f : State → State)
    (h : ∀ t, (f t).sys.fuses = t.sys.fuses) : (s.objCmd k n write f).sys.fuses = s.sys.fuses := by
  unfold State.objCmd
  apply State.mediaCmd_fuses
  intro t
  try dsimp only
  repeat' split
  all_goals simp [h]

@[simp] theorem State.objCmd_mem (s : State) (k n : Nat) (write : Bool) (f : State → State)
    (h : ∀ t, (f t).mem = t.mem) : (s.objCmd k n write f).mem = s.mem := by
  unfold State.objCmd
  apply State.mediaCmd_mem
  intro t
  try dsimp only
  repeat' split
  all_goals simp [h]


@[simp] theorem State.withObj_pending (s : State) (k n : Nat) (write : Bool) (f : State → Obj → State)
    (h : ∀ t o, (f t o).pending = t.pending) : (s.withObj k n write f).pending = s.pending := by
  unfold State.withObj
  apply State.objCmd_pending
  intro t
  try dsimp only
  repeat' split
  all_goals simp [h]

@[simp] theorem State.withObj_fuses (s : State) (k n : Nat) (write : Bool) (f : State → Obj → State)
    (h : ∀ t o, (f t o).sys.fuses = t.sys.fuses) : (s.withObj k n write f).sys.fuses = s.sys.fuses := by
  unfold State.withObj
  apply State.objCmd_fuses
  intro t
  try dsimp only
  repeat' split
  all_goals simp [h]

@[simp] theorem State.withObj_mem (s : State) (k n : Nat) (write : Bool) (f : State → Obj → State)
    (h : ∀ t o, (f t o).mem = t.mem) : (s.withObj k n write f).mem = s.mem := by
  unfold State.withObj
  apply State.objCmd_mem
  intro t
  try dsimp only
  repeat' split
  all_goals simp [h]


@[simp] theorem State.takeStream_kept (s : State) (t : Nat) :
    (State.takeStream s t).2.pending = s.pending ∧ (State.takeStream s t).2.sys.fuses = s.sys.fuses ∧
        (State.takeStream s t).2.mem = s.mem := by simp [State.takeStream]

@[simp] theorem State.closeObj_kept (s : State) (k st : Nat) (o : Obj) :
    (State.closeObj s k st o).pending = s.pending ∧ (State.closeObj s k st o).sys.fuses = s.sys.fuses ∧
        (State.closeObj s k st o).mem = s.mem := by simp [State.closeObj]

@[simp] theorem State.closeCmd_kept (s : State) (k : Nat) (o : Obj) :
    (State.closeCmd s k o).pending = s.pending ∧ (State.closeCmd s k o).sys.fuses = s.sys.fuses ∧ (State.closeCmd s
        k o).mem = s.mem := by
  simp only [State.closeCmd]
  repeat' split
  all_goals simp_all

/-! ### What the meanings leave alone -/

theorem execObjCreate_kept (k : Fin 65536) (s : State) :
    ∃ u1, execObjCreate k s = .next u1 ∧ u1.pending = s.pending ∧ u1.sys.fuses = s.sys.fuses := by
  unfold execObjCreate
  exact ⟨_, rfl, by simp, by simp⟩

theorem execObjWrite_kept (k keySlot : Fin 65536) (data : Nat) (s : State) :
    ∃ u1, execObjWrite k keySlot data s = .next u1 ∧ u1.pending = s.pending ∧ u1.sys.fuses = s.sys.fuses := by
  unfold execObjWrite
  refine ⟨_, rfl, State.withObj_pending _ _ _ _ _ ?_, State.withObj_fuses _ _ _ _ _ ?_⟩
  all_goals
    intro t o
    try dsimp only
    repeat' split
    all_goals simp

theorem execObjRead_kept (k keySlot : Fin 65536) (cacheHit : Bool) (s : State) :
    ∃ u1, execObjRead k keySlot cacheHit s = .next u1 ∧ u1.pending = s.pending ∧ u1.sys.fuses = s.sys.fuses := by
  unfold execObjRead
  exact ⟨_, rfl, by simp, by simp⟩

theorem execObjOpen_kept (k : Fin 65536) (s : State) :
    ∃ u1, execObjOpen k s = .next u1 ∧ u1.pending = s.pending ∧ u1.sys.fuses = s.sys.fuses := by
  unfold execObjOpen
  exact ⟨_, rfl, by simp, by simp⟩

theorem execObjGetAttr_kept (k : Fin 65536) (s : State) :
    ∃ u1, execObjGetAttr k s = .next u1 ∧ u1.pending = s.pending ∧ u1.sys.fuses = s.sys.fuses := by
  unfold execObjGetAttr
  exact ⟨_, rfl, by simp, by simp⟩

theorem execObjClose_kept (k : Fin 65536) (s : State) :
    ∃ u1, execObjClose k s = .next u1 ∧ u1.pending = s.pending ∧ u1.sys.fuses = s.sys.fuses := by
  unfold execObjClose
  split
  · exact ⟨_, rfl, by simp, by simp⟩
  · refine ⟨_, rfl, State.withObj_pending _ _ _ _ _ ?_, State.withObj_fuses _ _ _ _ _ ?_⟩
    all_goals
      intro t o
      simp

theorem execObjDelete_kept (k : Fin 65536) (s : State) :
    ∃ u1, execObjDelete k s = .next u1 ∧ u1.pending = s.pending ∧ u1.sys.fuses = s.sys.fuses := by
  unfold execObjDelete
  exact ⟨_, rfl, by simp, by simp⟩

theorem execObjList_kept (k : Fin 65536) (s : State) :
    ∃ u1, execObjList k s = .next u1 ∧ u1.pending = s.pending ∧ u1.sys.fuses = s.sys.fuses := by
  unfold execObjList
  exact ⟨_, rfl, by simp, by simp⟩

theorem execObjSetClass_kept (k : Fin 65536) (s : State) :
    ∃ u1, execObjSetClass k s = .next u1 ∧ u1.pending = s.pending ∧ u1.sys.fuses = s.sys.fuses := by
  unfold execObjSetClass
  exact ⟨_, rfl, by simp, by simp⟩

theorem execObjVerify_kept (k : Fin 65536) (repaired : Nat) (lost : Bool) (s : State) :
    ∃ u1, execObjVerify k repaired lost s = .next u1 ∧ u1.pending = s.pending ∧ u1.sys.fuses = s.sys.fuses := by
  unfold execObjVerify
  exact ⟨_, rfl, by simp, by simp⟩

/-! ### Memory stays canonical -/

theorem execObjCreate_memWf (k : Fin 65536) (s : State) :
    ∃ u1, execObjCreate k s = .next u1 ∧ (Memory.wf s.mem = true → Memory.wf u1.mem = true) := by
  unfold execObjCreate
  (repeat' split) <;> refine ⟨_, rfl, fun h => ?_⟩
  all_goals (repeat' first
      | with_reducible assumption | with_reducible apply foldl_memWf | (intro t a ha) | split | simp)

theorem execObjWrite_memWf (k keySlot : Fin 65536) (data : Nat) (s : State) :
    ∃ u1, execObjWrite k keySlot data s = .next u1 ∧ (Memory.wf s.mem = true → Memory.wf u1.mem = true) := by
  unfold execObjWrite
  refine ⟨_, rfl, fun h => ?_⟩
  rw [State.withObj_mem]
  · exact h
  · intro t o
    try dsimp only
    repeat' split
    all_goals simp

theorem execObjRead_memWf (k keySlot : Fin 65536) (cacheHit : Bool) (s : State) :
    ∃ u1, execObjRead k keySlot cacheHit s = .next u1 ∧ (Memory.wf s.mem = true → Memory.wf u1.mem = true) := by
  unfold execObjRead
  (repeat' split) <;> refine ⟨_, rfl, fun h => ?_⟩
  all_goals (repeat' first
      | with_reducible assumption | with_reducible apply foldl_memWf | (intro t a ha) | split | simp)

theorem execObjOpen_memWf (k : Fin 65536) (s : State) :
    ∃ u1, execObjOpen k s = .next u1 ∧ (Memory.wf s.mem = true → Memory.wf u1.mem = true) := by
  unfold execObjOpen
  (repeat' split) <;> refine ⟨_, rfl, fun h => ?_⟩
  all_goals (repeat' first
      | with_reducible assumption | with_reducible apply foldl_memWf | (intro t a ha) | split | simp)

theorem execObjGetAttr_memWf (k : Fin 65536) (s : State) :
    ∃ u1, execObjGetAttr k s = .next u1 ∧ (Memory.wf s.mem = true → Memory.wf u1.mem = true) := by
  unfold execObjGetAttr
  (repeat' split) <;> refine ⟨_, rfl, fun h => ?_⟩
  all_goals (repeat' first
      | with_reducible assumption | with_reducible apply foldl_memWf | (intro t a ha) | split | simp)

theorem execObjClose_memWf (k : Fin 65536) (s : State) :
    ∃ u1, execObjClose k s = .next u1 ∧ (Memory.wf s.mem = true → Memory.wf u1.mem = true) := by
  unfold execObjClose
  (repeat' split) <;> refine ⟨_, rfl, fun h => ?_⟩
  all_goals (repeat' first
      | with_reducible assumption | with_reducible apply foldl_memWf | (intro t a ha) | split | simp)

theorem execObjDelete_memWf (k : Fin 65536) (s : State) :
    ∃ u1, execObjDelete k s = .next u1 ∧ (Memory.wf s.mem = true → Memory.wf u1.mem = true) := by
  unfold execObjDelete
  (repeat' split) <;> refine ⟨_, rfl, fun h => ?_⟩
  all_goals (repeat' first
      | with_reducible assumption | with_reducible apply foldl_memWf | (intro t a ha) | split | simp)

theorem execObjList_memWf (k : Fin 65536) (s : State) :
    ∃ u1, execObjList k s = .next u1 ∧ (Memory.wf s.mem = true → Memory.wf u1.mem = true) := by
  unfold execObjList
  (repeat' split) <;> refine ⟨_, rfl, fun h => ?_⟩
  all_goals (repeat' first
      | with_reducible assumption | with_reducible apply foldl_memWf | (intro t a ha) | split | simp)

theorem execObjSetClass_memWf (k : Fin 65536) (s : State) :
    ∃ u1, execObjSetClass k s = .next u1 ∧ (Memory.wf s.mem = true → Memory.wf u1.mem = true) := by
  unfold execObjSetClass
  (repeat' split) <;> refine ⟨_, rfl, fun h => ?_⟩
  all_goals (repeat' first
      | with_reducible assumption | with_reducible apply foldl_memWf | (intro t a ha) | split | simp)

theorem execObjVerify_memWf (k : Fin 65536) (repaired : Nat) (lost : Bool) (s : State) :
    ∃ u1, execObjVerify k repaired lost s = .next u1 ∧ (Memory.wf s.mem = true → Memory.wf u1.mem = true) := by
  unfold execObjVerify
  (repeat' split) <;> refine ⟨_, rfl, fun h => ?_⟩
  all_goals (repeat' first
      | with_reducible assumption | with_reducible apply foldl_memWf | (intro t a ha) | split | simp)

end Sys2Proof.Machine
end

