-- ==== Sys2Proof/Laws/FrameServo.lean ====
section
/-!
SUPPORT. Sys2Proof/Laws/FrameServo.lean: what each operation and meaning of Machine/Servo.lean leaves alone: the command queue, the
fuses, and memory, or its canonical form where the operation may write memory.
-/

namespace Sys2Proof.Machine

/-! ### What the operations leave alone -/

@[simp] theorem State.shock_kept (s : State) :
    (State.shock s).pending = s.pending ∧ (State.shock s).sys.fuses = s.sys.fuses ∧ (State.shock s).mem = s.mem :=
        by simp [State.shock]

@[simp] theorem State.enumEnd_kept (s : State) (a id hmask : Nat) :
    (State.enumEnd s a id hmask).pending = s.pending ∧ (State.enumEnd s a id hmask).sys.fuses = s.sys.fuses ∧
        (State.enumEnd s a id hmask).mem = s.mem := by simp [State.enumEnd]

/-! ### What the meanings leave alone -/

theorem execPositionSample_kept (a : Fin 4) (s : State) :
    ∃ u1, execPositionSample a s = .next u1 ∧ u1.pending = s.pending ∧ u1.sys.fuses = s.sys.fuses := by
  unfold execPositionSample
  (repeat' split) <;> exact ⟨_, rfl, by simp, by simp⟩

theorem execSampleMissingTimeout_kept (a : Fin 4) (s : State) :
    ∃ u1, execSampleMissingTimeout a s = .next u1 ∧ u1.pending = s.pending ∧ u1.sys.fuses = s.sys.fuses := by
  unfold execSampleMissingTimeout
  (repeat' split) <;> exact ⟨_, rfl, by simp, by simp⟩

theorem execActuatorLoad_kept (i : Initiator) (a : Fin 4) (s : State) :
    ∃ u1, execActuatorLoad i a s = .next u1 ∧ u1.pending = s.pending ∧ u1.sys.fuses = s.sys.fuses := by
  unfold execActuatorLoad
  exact ⟨_, rfl, by simp, by simp⟩

theorem execActuatorUnload_kept (i : Initiator) (a : Fin 4) (s : State) :
    ∃ u1, execActuatorUnload i a s = .next u1 ∧ u1.pending = s.pending ∧ u1.sys.fuses = s.sys.fuses := by
  unfold execActuatorUnload
  exact ⟨_, rfl, by simp, by simp⟩

theorem execSeek_kept (i : Initiator) (a : Fin 4) (v : Word) (s : State) :
    ∃ u1, execSeek i a v s = .next u1 ∧ u1.pending = s.pending ∧ u1.sys.fuses = s.sys.fuses := by
  unfold execSeek
  exact ⟨_, rfl, by simp, by simp⟩

theorem execHeadSelect_kept (i : Initiator) (a : Fin 4) (pair : Fin 2) (v : Word) (s : State) :
    ∃ u1, execHeadSelect i a pair v s = .next u1 ∧ u1.pending = s.pending ∧ u1.sys.fuses = s.sys.fuses := by
  unfold execHeadSelect
  exact ⟨_, rfl, by simp, by simp⟩

theorem execLoadTimeout_kept (a : Fin 4) (s : State) :
    ∃ u1, execLoadTimeout a s = .next u1 ∧ u1.pending = s.pending ∧ u1.sys.fuses = s.sys.fuses := by
  unfold execLoadTimeout
  (repeat' split) <;> exact ⟨_, rfl, by simp, by simp⟩

theorem execLostTimeout_kept (a : Fin 4) (s : State) :
    ∃ u1, execLostTimeout a s = .next u1 ∧ u1.pending = s.pending ∧ u1.sys.fuses = s.sys.fuses := by
  unfold execLostTimeout
  (repeat' split) <;> exact ⟨_, rfl, by simp, by simp⟩

theorem execDitherEnable_kept (i : Initiator) (a : Fin 4) (v : Word) (s : State) :
    ∃ u1, execDitherEnable i a v s = .next u1 ∧ u1.pending = s.pending ∧ u1.sys.fuses = s.sys.fuses := by
  unfold execDitherEnable
  exact ⟨_, rfl, by simp, by simp⟩

theorem execShockSample_kept (sensor : Fin 8) (x : Int) (s : State) :
    ∃ u1, execShockSample sensor x s = .next u1 ∧ u1.pending = s.pending ∧ u1.sys.fuses = s.sys.fuses := by
  simp only [execShockSample, ok]
  (repeat' split) <;> first
      | exact ⟨_, rfl, by simp, by simp⟩ | (refine ⟨_, rfl, ?_, ?_⟩ <;> (repeat' split) <;> simp_all)

theorem execShockRelease_kept (s : State) :
    ∃ u1, execShockRelease s = .next u1 ∧ u1.pending = s.pending ∧ u1.sys.fuses = s.sys.fuses := by
  unfold execShockRelease
  exact ⟨_, rfl, by simp, by simp⟩

theorem execPreampFrameEnd_kept (a : Fin 4) (data : Fin 256) (s : State) :
    ∃ u1, execPreampFrameEnd a data s = .next u1 ∧ u1.pending = s.pending ∧ u1.sys.fuses = s.sys.fuses := by
  unfold execPreampFrameEnd
  (repeat' split) <;> exact ⟨_, rfl, by simp, by simp⟩

theorem execPreampStatusPoll_kept (a : Fin 4) (s : State) :
    ∃ u1, execPreampStatusPoll a s = .next u1 ∧ u1.pending = s.pending ∧ u1.sys.fuses = s.sys.fuses := by
  unfold execPreampStatusPoll
  (repeat' split) <;> exact ⟨_, rfl, by simp, by simp⟩

theorem execPreampRawTransfer_kept (i : Initiator) (a : Fin 4) (v : Word) (s : State) :
    ∃ u1, execPreampRawTransfer i a v s = .next u1 ∧ u1.pending = s.pending ∧ u1.sys.fuses = s.sys.fuses := by
  unfold execPreampRawTransfer
  exact ⟨_, rfl, by simp, by simp⟩

theorem execPreampFault_kept (a : Fin 4) (low : Bool) (s : State) :
    ∃ u1, execPreampFault a low s = .next u1 ∧ u1.pending = s.pending ∧ u1.sys.fuses = s.sys.fuses := by
  unfold execPreampFault
  (repeat' split) <;> exact ⟨_, rfl, by simp, by simp⟩

theorem execPreampEnumeration_kept (a : Fin 4) (s : State) :
    ∃ u1, execPreampEnumeration a s = .next u1 ∧ u1.pending = s.pending ∧ u1.sys.fuses = s.sys.fuses := by
  unfold execPreampEnumeration
  (repeat' split) <;> exact ⟨_, rfl, by simp, by simp⟩

/-! ### Memory stays canonical -/

theorem execPositionSample_memWf (a : Fin 4) (s : State) :
    ∃ u1, execPositionSample a s = .next u1 ∧ (Memory.wf s.mem = true → Memory.wf u1.mem = true) := by
  unfold execPositionSample
  (repeat' split) <;> refine ⟨_, rfl, fun h => ?_⟩
  all_goals (repeat' first
      | with_reducible assumption | with_reducible apply foldl_memWf | (intro t a ha) | split | simp)

theorem execSampleMissingTimeout_memWf (a : Fin 4) (s : State) :
    ∃ u1, execSampleMissingTimeout a s = .next u1 ∧ (Memory.wf s.mem = true → Memory.wf u1.mem = true) := by
  unfold execSampleMissingTimeout
  (repeat' split) <;> refine ⟨_, rfl, fun h => ?_⟩
  all_goals (repeat' first
      | with_reducible assumption | with_reducible apply foldl_memWf | (intro t a ha) | split | simp)

theorem execActuatorLoad_memWf (i : Initiator) (a : Fin 4) (s : State) :
    ∃ u1, execActuatorLoad i a s = .next u1 ∧ (Memory.wf s.mem = true → Memory.wf u1.mem = true) := by
  unfold execActuatorLoad
  (repeat' split) <;> refine ⟨_, rfl, fun h => ?_⟩
  all_goals (repeat' first
      | with_reducible assumption | with_reducible apply foldl_memWf | (intro t a ha) | split | simp)

theorem execActuatorUnload_memWf (i : Initiator) (a : Fin 4) (s : State) :
    ∃ u1, execActuatorUnload i a s = .next u1 ∧ (Memory.wf s.mem = true → Memory.wf u1.mem = true) := by
  unfold execActuatorUnload
  (repeat' split) <;> refine ⟨_, rfl, fun h => ?_⟩
  all_goals (repeat' first
      | with_reducible assumption | with_reducible apply foldl_memWf | (intro t a ha) | split | simp)

theorem execSeek_memWf (i : Initiator) (a : Fin 4) (v : Word) (s : State) :
    ∃ u1, execSeek i a v s = .next u1 ∧ (Memory.wf s.mem = true → Memory.wf u1.mem = true) := by
  unfold execSeek
  (repeat' split) <;> refine ⟨_, rfl, fun h => ?_⟩
  all_goals (repeat' first
      | with_reducible assumption | with_reducible apply foldl_memWf | (intro t a ha) | split | simp)

theorem execHeadSelect_memWf (i : Initiator) (a : Fin 4) (pair : Fin 2) (v : Word) (s : State) :
    ∃ u1, execHeadSelect i a pair v s = .next u1 ∧ (Memory.wf s.mem = true → Memory.wf u1.mem = true) := by
  unfold execHeadSelect
  (repeat' split) <;> refine ⟨_, rfl, fun h => ?_⟩
  all_goals (repeat' first
      | with_reducible assumption | with_reducible apply foldl_memWf | (intro t a ha) | split | simp)

theorem execLoadTimeout_memWf (a : Fin 4) (s : State) :
    ∃ u1, execLoadTimeout a s = .next u1 ∧ (Memory.wf s.mem = true → Memory.wf u1.mem = true) := by
  unfold execLoadTimeout
  (repeat' split) <;> refine ⟨_, rfl, fun h => ?_⟩
  all_goals (repeat' first
      | with_reducible assumption | with_reducible apply foldl_memWf | (intro t a ha) | split | simp)

theorem execLostTimeout_memWf (a : Fin 4) (s : State) :
    ∃ u1, execLostTimeout a s = .next u1 ∧ (Memory.wf s.mem = true → Memory.wf u1.mem = true) := by
  unfold execLostTimeout
  (repeat' split) <;> refine ⟨_, rfl, fun h => ?_⟩
  all_goals (repeat' first
      | with_reducible assumption | with_reducible apply foldl_memWf | (intro t a ha) | split | simp)

theorem execDitherEnable_memWf (i : Initiator) (a : Fin 4) (v : Word) (s : State) :
    ∃ u1, execDitherEnable i a v s = .next u1 ∧ (Memory.wf s.mem = true → Memory.wf u1.mem = true) := by
  unfold execDitherEnable
  (repeat' split) <;> refine ⟨_, rfl, fun h => ?_⟩
  all_goals (repeat' first
      | with_reducible assumption | with_reducible apply foldl_memWf | (intro t a ha) | split | simp)

theorem execShockSample_memWf (sensor : Fin 8) (x : Int) (s : State) :
    ∃ u1, execShockSample sensor x s = .next u1 ∧ (Memory.wf s.mem = true → Memory.wf u1.mem = true) := by
  unfold execShockSample
  dsimp only
  (repeat' split) <;> refine ⟨_, rfl, fun h => ?_⟩
  all_goals (repeat' first
      | with_reducible assumption | with_reducible apply foldl_memWf | (intro t a ha) | split | simp)

theorem execShockRelease_memWf (s : State) :
    ∃ u1, execShockRelease s = .next u1 ∧ (Memory.wf s.mem = true → Memory.wf u1.mem = true) := by
  unfold execShockRelease
  (repeat' split) <;> refine ⟨_, rfl, fun h => ?_⟩
  all_goals (repeat' first
      | with_reducible assumption | with_reducible apply foldl_memWf | (intro t a ha) | split | simp)

theorem execPreampFrameEnd_memWf (a : Fin 4) (data : Fin 256) (s : State) :
    ∃ u1, execPreampFrameEnd a data s = .next u1 ∧ (Memory.wf s.mem = true → Memory.wf u1.mem = true) := by
  unfold execPreampFrameEnd
  (repeat' split) <;> refine ⟨_, rfl, fun h => ?_⟩
  all_goals (repeat' first
      | with_reducible assumption | with_reducible apply foldl_memWf | (intro t a ha) | split | simp)

theorem execPreampStatusPoll_memWf (a : Fin 4) (s : State) :
    ∃ u1, execPreampStatusPoll a s = .next u1 ∧ (Memory.wf s.mem = true → Memory.wf u1.mem = true) := by
  unfold execPreampStatusPoll
  (repeat' split) <;> refine ⟨_, rfl, fun h => ?_⟩
  all_goals (repeat' first
      | with_reducible assumption | with_reducible apply foldl_memWf | (intro t a ha) | split | simp)

theorem execPreampRawTransfer_memWf (i : Initiator) (a : Fin 4) (v : Word) (s : State) :
    ∃ u1, execPreampRawTransfer i a v s = .next u1 ∧ (Memory.wf s.mem = true → Memory.wf u1.mem = true) := by
  unfold execPreampRawTransfer
  (repeat' split) <;> refine ⟨_, rfl, fun h => ?_⟩
  all_goals (repeat' first
      | with_reducible assumption | with_reducible apply foldl_memWf | (intro t a ha) | split | simp)

theorem execPreampFault_memWf (a : Fin 4) (low : Bool) (s : State) :
    ∃ u1, execPreampFault a low s = .next u1 ∧ (Memory.wf s.mem = true → Memory.wf u1.mem = true) := by
  unfold execPreampFault
  (repeat' split) <;> refine ⟨_, rfl, fun h => ?_⟩
  all_goals (repeat' first
      | with_reducible assumption | with_reducible apply foldl_memWf | (intro t a ha) | split | simp)

theorem execPreampEnumeration_memWf (a : Fin 4) (s : State) :
    ∃ u1, execPreampEnumeration a s = .next u1 ∧ (Memory.wf s.mem = true → Memory.wf u1.mem = true) := by
  unfold execPreampEnumeration
  (repeat' split) <;> refine ⟨_, rfl, fun h => ?_⟩
  all_goals (repeat' first
      | with_reducible assumption | with_reducible apply foldl_memWf | (intro t a ha) | split | simp)

end Sys2Proof.Machine
end

