-- ==== Sys2Proof/Laws/FrameSideband.lean ====
section
/-!
SUPPORT. Sys2Proof/Laws/FrameSideband.lean: what each operation and meaning of Machine/Sideband.lean leaves alone: the command queue, the
fuses, and memory, or its canonical form where the operation may write memory.
-/

namespace Sys2Proof.Machine

/-! ### What the operations leave alone -/

@[simp] theorem State.sbAnswer_kept (s : State) (ack : Bool) (data : List Nat) :
    (State.sbAnswer s ack data).pending = s.pending ∧ (State.sbAnswer s ack data).sys.fuses = s.sys.fuses ∧
        (State.sbAnswer s ack data).mem = s.mem := by simp [State.sbAnswer]

@[simp] theorem State.sbWrite_pending (s : State) (count want : Nat) (p : Pec) (nack : Bool) (f : State → State)
    (h : ∀ t, (f t).pending = t.pending) : (s.sbWrite count want p nack f).pending = s.pending := by
  unfold State.sbWrite
  repeat' split
  all_goals simp_all

@[simp] theorem State.sbWrite_fuses (s : State) (count want : Nat) (p : Pec) (nack : Bool) (f : State → State)
    (h : ∀ t, (f t).sys.fuses = t.sys.fuses) : (s.sbWrite count want p nack f).sys.fuses = s.sys.fuses := by
  unfold State.sbWrite
  repeat' split
  all_goals simp_all

@[simp] theorem State.sbWrite_mem (s : State) (count want : Nat) (p : Pec) (nack : Bool) (f : State → State)
    (h : ∀ t, (f t).mem = t.mem) : (s.sbWrite count want p nack f).mem = s.mem := by
  unfold State.sbWrite
  repeat' split
  all_goals simp_all


@[simp] theorem State.sbRead_pending (s : State) (f : State → State)
    (h : ∀ t, (f t).pending = t.pending) : (s.sbRead f).pending = s.pending := by
  unfold State.sbRead
  repeat' split
  all_goals simp_all

@[simp] theorem State.sbRead_fuses (s : State) (f : State → State)
    (h : ∀ t, (f t).sys.fuses = t.sys.fuses) : (s.sbRead f).sys.fuses = s.sys.fuses := by
  unfold State.sbRead
  repeat' split
  all_goals simp_all

@[simp] theorem State.sbRead_mem (s : State) (f : State → State)
    (h : ∀ t, (f t).mem = t.mem) : (s.sbRead f).mem = s.mem := by
  unfold State.sbRead
  repeat' split
  all_goals simp_all


@[simp] theorem State.setPointer_kept (s : State) (v : Nat) :
    (State.setPointer s v).pending = s.pending ∧ (State.setPointer s v).sys.fuses = s.sys.fuses ∧ (State.setPointer
        s v).mem = s.mem := by simp [State.setPointer]

@[simp] theorem State.i3cAssign_kept (s : State) (addr : Nat) :
    (State.i3cAssign s addr).pending = s.pending ∧ (State.i3cAssign s addr).sys.fuses = s.sys.fuses ∧
        (State.i3cAssign s addr).mem = s.mem := by simp [State.i3cAssign]

@[simp] theorem State.cccRead_pending (s : State) (f : State → State)
    (h : ∀ t, (f t).pending = t.pending) : (s.cccRead f).pending = s.pending := by
  unfold State.cccRead
  repeat' split
  all_goals simp_all

@[simp] theorem State.cccRead_fuses (s : State) (f : State → State)
    (h : ∀ t, (f t).sys.fuses = t.sys.fuses) : (s.cccRead f).sys.fuses = s.sys.fuses := by
  unfold State.cccRead
  repeat' split
  all_goals simp_all

@[simp] theorem State.cccRead_mem (s : State) (f : State → State)
    (h : ∀ t, (f t).mem = t.mem) : (s.cccRead f).mem = s.mem := by
  unfold State.cccRead
  repeat' split
  all_goals simp_all

/-! ### What the meanings leave alone -/

theorem execSbSetPointer_kept (count v : Nat) (pec : Pec) (s : State) :
    ∃ u1, execSbSetPointer count v pec s = .next u1 ∧ u1.pending = s.pending ∧ u1.sys.fuses = s.sys.fuses := by
  unfold execSbSetPointer
  exact ⟨_, rfl, by simp, by simp⟩

theorem execSbRead_kept (s : State) :
    ∃ u1, execSbRead s = .next u1 ∧ u1.pending = s.pending ∧ u1.sys.fuses = s.sys.fuses := by
  unfold execSbRead
  exact ⟨_, rfl, by simp, by simp⟩

theorem execSbWrite_kept (count : Nat) (v : Word) (pec : Pec) (s : State) :
    ∃ u1, execSbWrite count v pec s = .next u1 ∧ u1.pending = s.pending ∧ u1.sys.fuses = s.sys.fuses := by
  unfold execSbWrite
  exact ⟨_, rfl, by simp, by simp⟩

theorem execSbMailboxSend_kept (count : Nat) (v : Word) (pec : Pec) (s : State) :
    ∃ u1, execSbMailboxSend count v pec s = .next u1 ∧ u1.pending = s.pending ∧ u1.sys.fuses = s.sys.fuses := by
  unfold execSbMailboxSend
  refine ⟨_, rfl, State.sbWrite_pending _ _ _ _ _ _ ?_, State.sbWrite_fuses _ _ _ _ _ _ ?_⟩
  all_goals
    intro t
    split <;> simp

theorem execSbMailboxReceive_kept (s : State) :
    ∃ u1, execSbMailboxReceive s = .next u1 ∧ u1.pending = s.pending ∧ u1.sys.fuses = s.sys.fuses := by
  unfold execSbMailboxReceive
  refine ⟨_, rfl, State.sbRead_pending _ _ ?_, State.sbRead_fuses _ _ ?_⟩
  all_goals
    intro t
    dsimp only
    repeat' split
    all_goals simp

theorem execSbDeviceReset_kept (count v : Nat) (pec : Pec) (s : State) :
    ∃ u1, execSbDeviceReset count v pec s = .next u1 ∧ u1.pending = s.pending ∧ u1.sys.fuses = s.sys.fuses := by
  unfold execSbDeviceReset
  exact ⟨_, rfl, by simp, by simp⟩

theorem execSbUnknownCode_kept (_code : Nat) (read : Bool) (s : State) :
    ∃ u1, execSbUnknownCode _code read s = .next u1 ∧ u1.pending = s.pending ∧ u1.sys.fuses = s.sys.fuses := by
  unfold execSbUnknownCode
  exact ⟨_, rfl, by simp, by simp⟩

theorem execSmbusClockTimeout_kept (s : State) :
    ∃ u1, execSmbusClockTimeout s = .next u1 ∧ u1.pending = s.pending ∧ u1.sys.fuses = s.sys.fuses := by
  unfold execSmbusClockTimeout
  exact ⟨_, rfl, by simp, by simp⟩

theorem execI3cEntdaa_kept (addr : Fin 128) (s : State) :
    ∃ u1, execI3cEntdaa addr s = .next u1 ∧ u1.pending = s.pending ∧ u1.sys.fuses = s.sys.fuses := by
  unfold execI3cEntdaa
  exact ⟨_, rfl, by simp, by simp⟩

theorem execI3cSetdasa_kept (static addr : Fin 128) (s : State) :
    ∃ u1, execI3cSetdasa static addr s = .next u1 ∧ u1.pending = s.pending ∧ u1.sys.fuses = s.sys.fuses := by
  unfold execI3cSetdasa
  exact ⟨_, rfl, by simp, by simp⟩

theorem execI3cRstdaa_kept (s : State) :
    ∃ u1, execI3cRstdaa s = .next u1 ∧ u1.pending = s.pending ∧ u1.sys.fuses = s.sys.fuses := by
  unfold execI3cRstdaa
  (repeat' split) <;> exact ⟨_, rfl, by simp, by simp⟩

theorem execI3cEnec_kept (hj ibi : Bool) (s : State) :
    ∃ u1, execI3cEnec hj ibi s = .next u1 ∧ u1.pending = s.pending ∧ u1.sys.fuses = s.sys.fuses := by
  unfold execI3cEnec
  (repeat' split) <;> exact ⟨_, rfl, by simp, by simp⟩

theorem execI3cDisec_kept (hj ibi : Bool) (s : State) :
    ∃ u1, execI3cDisec hj ibi s = .next u1 ∧ u1.pending = s.pending ∧ u1.sys.fuses = s.sys.fuses := by
  unfold execI3cDisec
  (repeat' split) <;> exact ⟨_, rfl, by simp, by simp⟩

theorem execI3cGetpid_kept (s : State) :
    ∃ u1, execI3cGetpid s = .next u1 ∧ u1.pending = s.pending ∧ u1.sys.fuses = s.sys.fuses := by
  unfold execI3cGetpid
  exact ⟨_, rfl, by simp, by simp⟩

theorem execI3cGetbcr_kept (s : State) :
    ∃ u1, execI3cGetbcr s = .next u1 ∧ u1.pending = s.pending ∧ u1.sys.fuses = s.sys.fuses := by
  unfold execI3cGetbcr
  exact ⟨_, rfl, by simp, by simp⟩

theorem execI3cGetdcr_kept (s : State) :
    ∃ u1, execI3cGetdcr s = .next u1 ∧ u1.pending = s.pending ∧ u1.sys.fuses = s.sys.fuses := by
  unfold execI3cGetdcr
  exact ⟨_, rfl, by simp, by simp⟩

theorem execI3cGetstatus_kept (s : State) :
    ∃ u1, execI3cGetstatus s = .next u1 ∧ u1.pending = s.pending ∧ u1.sys.fuses = s.sys.fuses := by
  unfold execI3cGetstatus
  exact ⟨_, rfl, by simp, by simp⟩

theorem execI3cGetmwlGetmrl_kept (_read : Bool) (s : State) :
    ∃ u1, execI3cGetmwlGetmrl _read s = .next u1 ∧ u1.pending = s.pending ∧ u1.sys.fuses = s.sys.fuses := by
  unfold execI3cGetmwlGetmrl
  exact ⟨_, rfl, by simp, by simp⟩

theorem execHotJoinAttempt_kept (s : State) :
    ∃ u1, execHotJoinAttempt s = .next u1 ∧ u1.pending = s.pending ∧ u1.sys.fuses = s.sys.fuses := by
  unfold execHotJoinAttempt
  exact ⟨_, rfl, by simp, by simp⟩

/-! ### Memory stays canonical -/

theorem State.sbWrite_memWf (s : State) (count want : Nat) (p : Pec) (nack : Bool) (f : State → State) (h :
    Memory.wf s.mem = true)
    (hf : ∀ t, Memory.wf t.mem = true → Memory.wf (f t).mem = true) : Memory.wf (s.sbWrite count want p nack f).mem
        = true := by
  unfold State.sbWrite
  repeat' split
  all_goals first | (simp; exact h) | (simp; exact hf s h)

theorem State.sbRead_memWf (s : State) (f : State → State) (h : Memory.wf s.mem = true)
    (hf : ∀ t, Memory.wf t.mem = true → Memory.wf (f t).mem = true) : Memory.wf (s.sbRead f).mem = true := by
  unfold State.sbRead
  split
  · simp; exact h
  · exact hf s h

theorem execSbSetPointer_memWf (count v : Nat) (pec : Pec) (s : State) :
    ∃ u1, execSbSetPointer count v pec s = .next u1 ∧ (Memory.wf s.mem = true → Memory.wf u1.mem = true) := by
  unfold execSbSetPointer
  (repeat' split) <;> refine ⟨_, rfl, fun h => ?_⟩
  all_goals (repeat' first
      | with_reducible assumption | with_reducible apply foldl_memWf | (intro t a ha) | split | simp)

theorem execSbRead_memWf (s : State) :
    ∃ u1, execSbRead s = .next u1 ∧ (Memory.wf s.mem = true → Memory.wf u1.mem = true) := by
  unfold execSbRead
  (repeat' split) <;> refine ⟨_, rfl, fun h => ?_⟩
  all_goals (repeat' first
      | with_reducible assumption | with_reducible apply foldl_memWf | (intro t a ha) | split | simp)

theorem execSbWrite_memWf (count : Nat) (v : Word) (pec : Pec) (s : State) :
    ∃ u1, execSbWrite count v pec s = .next u1 ∧ (Memory.wf s.mem = true → Memory.wf u1.mem = true) := by
  unfold execSbWrite
  refine ⟨_, rfl, fun h => State.sbWrite_memWf _ _ _ _ _ _ h ?_⟩
  intro t ht
  repeat' first
      | with_reducible assumption | with_reducible apply State.towWrite_memWf
      | with_reducible apply State.flushFirst_memWf | split | simp

theorem execSbMailboxSend_memWf (count : Nat) (v : Word) (pec : Pec) (s : State) :
    ∃ u1, execSbMailboxSend count v pec s = .next u1 ∧ (Memory.wf s.mem = true → Memory.wf u1.mem = true) := by
  unfold execSbMailboxSend
  refine ⟨_, rfl, fun h => State.sbWrite_memWf _ _ _ _ _ _ h ?_⟩
  intro t ht
  repeat' first
      | with_reducible assumption | with_reducible apply State.towWrite_memWf
      | with_reducible apply State.flushFirst_memWf | split | simp

theorem execSbMailboxReceive_memWf (s : State) :
    ∃ u1, execSbMailboxReceive s = .next u1 ∧ (Memory.wf s.mem = true → Memory.wf u1.mem = true) := by
  unfold execSbMailboxReceive
  refine ⟨_, rfl, fun h => State.sbRead_memWf _ _ h ?_⟩
  intro t ht
  dsimp only
  repeat' first | with_reducible assumption | split | simp

theorem execSbDeviceReset_memWf (count v : Nat) (pec : Pec) (s : State) :
    ∃ u1, execSbDeviceReset count v pec s = .next u1 ∧ (Memory.wf s.mem = true → Memory.wf u1.mem = true) := by
  unfold execSbDeviceReset
  refine ⟨_, rfl, fun h => State.sbWrite_memWf _ _ _ _ _ _ h ?_⟩
  intro t ht
  repeat' first
      | with_reducible assumption | with_reducible apply State.towWrite_memWf
      | with_reducible apply State.flushFirst_memWf | split | simp

theorem execSbUnknownCode_memWf (_code : Nat) (read : Bool) (s : State) :
    ∃ u1, execSbUnknownCode _code read s = .next u1 ∧ (Memory.wf s.mem = true → Memory.wf u1.mem = true) := by
  unfold execSbUnknownCode
  (repeat' split) <;> refine ⟨_, rfl, fun h => ?_⟩
  all_goals (repeat' first
      | with_reducible assumption | with_reducible apply foldl_memWf | (intro t a ha) | split | simp)

theorem execSmbusClockTimeout_memWf (s : State) :
    ∃ u1, execSmbusClockTimeout s = .next u1 ∧ (Memory.wf s.mem = true → Memory.wf u1.mem = true) := by
  unfold execSmbusClockTimeout
  (repeat' split) <;> refine ⟨_, rfl, fun h => ?_⟩
  all_goals (repeat' first
      | with_reducible assumption | with_reducible apply foldl_memWf | (intro t a ha) | split | simp)

theorem execI3cEntdaa_memWf (addr : Fin 128) (s : State) :
    ∃ u1, execI3cEntdaa addr s = .next u1 ∧ (Memory.wf s.mem = true → Memory.wf u1.mem = true) := by
  unfold execI3cEntdaa
  (repeat' split) <;> refine ⟨_, rfl, fun h => ?_⟩
  all_goals (repeat' first
      | with_reducible assumption | with_reducible apply foldl_memWf | (intro t a ha) | split | simp)

theorem execI3cSetdasa_memWf (static addr : Fin 128) (s : State) :
    ∃ u1, execI3cSetdasa static addr s = .next u1 ∧ (Memory.wf s.mem = true → Memory.wf u1.mem = true) := by
  unfold execI3cSetdasa
  (repeat' split) <;> refine ⟨_, rfl, fun h => ?_⟩
  all_goals (repeat' first
      | with_reducible assumption | with_reducible apply foldl_memWf | (intro t a ha) | split | simp)

theorem execI3cRstdaa_memWf (s : State) :
    ∃ u1, execI3cRstdaa s = .next u1 ∧ (Memory.wf s.mem = true → Memory.wf u1.mem = true) := by
  unfold execI3cRstdaa
  (repeat' split) <;> refine ⟨_, rfl, fun h => ?_⟩
  all_goals (repeat' first
      | with_reducible assumption | with_reducible apply foldl_memWf | (intro t a ha) | split | simp)

theorem execI3cEnec_memWf (hj ibi : Bool) (s : State) :
    ∃ u1, execI3cEnec hj ibi s = .next u1 ∧ (Memory.wf s.mem = true → Memory.wf u1.mem = true) := by
  unfold execI3cEnec
  (repeat' split) <;> refine ⟨_, rfl, fun h => ?_⟩
  all_goals (repeat' first
      | with_reducible assumption | with_reducible apply foldl_memWf | (intro t a ha) | split | simp)

theorem execI3cDisec_memWf (hj ibi : Bool) (s : State) :
    ∃ u1, execI3cDisec hj ibi s = .next u1 ∧ (Memory.wf s.mem = true → Memory.wf u1.mem = true) := by
  unfold execI3cDisec
  (repeat' split) <;> refine ⟨_, rfl, fun h => ?_⟩
  all_goals (repeat' first
      | with_reducible assumption | with_reducible apply foldl_memWf | (intro t a ha) | split | simp)

theorem execI3cGetpid_memWf (s : State) :
    ∃ u1, execI3cGetpid s = .next u1 ∧ (Memory.wf s.mem = true → Memory.wf u1.mem = true) := by
  unfold execI3cGetpid
  (repeat' split) <;> refine ⟨_, rfl, fun h => ?_⟩
  all_goals (repeat' first
      | with_reducible assumption | with_reducible apply foldl_memWf | (intro t a ha) | split | simp)

theorem execI3cGetbcr_memWf (s : State) :
    ∃ u1, execI3cGetbcr s = .next u1 ∧ (Memory.wf s.mem = true → Memory.wf u1.mem = true) := by
  unfold execI3cGetbcr
  (repeat' split) <;> refine ⟨_, rfl, fun h => ?_⟩
  all_goals (repeat' first
      | with_reducible assumption | with_reducible apply foldl_memWf | (intro t a ha) | split | simp)

theorem execI3cGetdcr_memWf (s : State) :
    ∃ u1, execI3cGetdcr s = .next u1 ∧ (Memory.wf s.mem = true → Memory.wf u1.mem = true) := by
  unfold execI3cGetdcr
  (repeat' split) <;> refine ⟨_, rfl, fun h => ?_⟩
  all_goals (repeat' first
      | with_reducible assumption | with_reducible apply foldl_memWf | (intro t a ha) | split | simp)

theorem execI3cGetstatus_memWf (s : State) :
    ∃ u1, execI3cGetstatus s = .next u1 ∧ (Memory.wf s.mem = true → Memory.wf u1.mem = true) := by
  unfold execI3cGetstatus
  (repeat' split) <;> refine ⟨_, rfl, fun h => ?_⟩
  all_goals (repeat' first
      | with_reducible assumption | with_reducible apply foldl_memWf | (intro t a ha) | split | simp)

theorem execI3cGetmwlGetmrl_memWf (_read : Bool) (s : State) :
    ∃ u1, execI3cGetmwlGetmrl _read s = .next u1 ∧ (Memory.wf s.mem = true → Memory.wf u1.mem = true) := by
  unfold execI3cGetmwlGetmrl
  (repeat' split) <;> refine ⟨_, rfl, fun h => ?_⟩
  all_goals (repeat' first
      | with_reducible assumption | with_reducible apply foldl_memWf | (intro t a ha) | split | simp)

theorem execHotJoinAttempt_memWf (s : State) :
    ∃ u1, execHotJoinAttempt s = .next u1 ∧ (Memory.wf s.mem = true → Memory.wf u1.mem = true) := by
  unfold execHotJoinAttempt
  (repeat' split) <;> refine ⟨_, rfl, fun h => ?_⟩
  all_goals (repeat' first
      | with_reducible assumption | with_reducible apply foldl_memWf | (intro t a ha) | split | simp)

end Sys2Proof.Machine
end

