-- ==== Sys2Proof/Laws/FrameSpindle.lean ====
section
/-!
SUPPORT. Sys2Proof/Laws/FrameSpindle.lean: what each operation and meaning of Machine/Spindle.lean leaves alone: the command queue, the
fuses, and memory, or its canonical form where the operation may write memory.
-/

namespace Sys2Proof.Machine

/-! ### What the operations leave alone -/

@[simp] theorem State.catchResult_kept (s : State) (act : Nat) :
    (State.catchResult s act).pending = s.pending ∧ (State.catchResult s act).sys.fuses = s.sys.fuses ∧
        (State.catchResult s act).mem = s.mem := by simp [State.catchResult]

@[simp] theorem State.seed_kept (s : State) (st : Nat) (x : MilState) :
    (State.seed s st x).pending = s.pending ∧ (State.seed s st x).sys.fuses = s.sys.fuses := by simp [State.seed]

@[simp] theorem State.catchGo_kept (s : State) (act : Nat) :
    (State.catchGo s act).pending = s.pending ∧ (State.catchGo s act).sys.fuses = s.sys.fuses := by
  unfold State.catchGo
  repeat' split
  all_goals simp

@[simp] theorem State.catchEnd_kept (s : State) :
    (State.catchEnd s).pending = s.pending ∧ (State.catchEnd s).sys.fuses = s.sys.fuses := by simp [State.catchEnd]

@[simp] theorem State.reacquire_kept (s : State) :
    (State.reacquire s).pending = s.pending ∧ (State.reacquire s).sys.fuses = s.sys.fuses := by
  unfold State.reacquire
  repeat' split
  all_goals simp

@[simp] theorem State.judgeSpeed_kept (s : State) :
    (State.judgeSpeed s).pending = s.pending ∧ (State.judgeSpeed s).sys.fuses = s.sys.fuses := by simp
        [State.judgeSpeed]

@[simp] theorem State.afterRun_kept (s : State) (l ns : Nat) :
    (State.afterRun s l ns).pending = s.pending ∧ (State.afterRun s l ns).sys.fuses = s.sys.fuses := by simp
        [State.afterRun]

/-! ### What the meanings leave alone -/

theorem execSpindleStart_kept (i : Initiator) (s : State) :
    ∃ u1, execSpindleStart i s = .next u1 ∧ u1.pending = s.pending ∧ u1.sys.fuses = s.sys.fuses := by
  unfold execSpindleStart
  exact ⟨_, rfl, by simp, by simp⟩

theorem execSpindleStop_kept (i : Initiator) (s : State) :
    ∃ u1, execSpindleStop i s = .next u1 ∧ u1.pending = s.pending ∧ u1.sys.fuses = s.sys.fuses := by
  unfold execSpindleStop
  exact ⟨_, rfl, by simp, by simp⟩

theorem execSpindleStopBrake_kept (i : Initiator) (s : State) :
    ∃ u1, execSpindleStopBrake i s = .next u1 ∧ u1.pending = s.pending ∧ u1.sys.fuses = s.sys.fuses := by
  unfold execSpindleStopBrake
  exact ⟨_, rfl, by simp, by simp⟩

theorem execMillstoneTick_kept (volts amps : Phases) (s : State) :
    ∃ u1, execMillstoneTick volts amps s = .next u1 ∧ u1.pending = s.pending ∧ u1.sys.fuses = s.sys.fuses := by
  unfold execMillstoneTick
  exact ⟨_, rfl, by simp, by simp⟩

theorem execCatchWindowEnd_kept (s : State) :
    ∃ u1, execCatchWindowEnd s = .next u1 ∧ u1.pending = s.pending ∧ u1.sys.fuses = s.sys.fuses := by
  unfold execCatchWindowEnd
  (repeat' split) <;> exact ⟨_, rfl, by simp, by simp⟩

theorem execBrakeTimeout_kept (s : State) :
    ∃ u1, execBrakeTimeout s = .next u1 ∧ u1.pending = s.pending ∧ u1.sys.fuses = s.sys.fuses := by
  unfold execBrakeTimeout
  (repeat' split) <;> exact ⟨_, rfl, by simp, by simp⟩

theorem execAlignDone_kept (s : State) :
    ∃ u1, execAlignDone s = .next u1 ∧ u1.pending = s.pending ∧ u1.sys.fuses = s.sys.fuses := by
  unfold execAlignDone
  (repeat' split) <;> exact ⟨_, rfl, by simp, by simp⟩

theorem execLockedRotor_kept (s : State) :
    ∃ u1, execLockedRotor s = .next u1 ∧ u1.pending = s.pending ∧ u1.sys.fuses = s.sys.fuses := by
  simp only [execLockedRotor, ok]
  (repeat' split) <;> first
      | exact ⟨_, rfl, by simp, by simp⟩ | (refine ⟨_, rfl, ?_, ?_⟩ <;> (repeat' split) <;> simp_all)

theorem execLockedRotorRetry_kept (s : State) :
    ∃ u1, execLockedRotorRetry s = .next u1 ∧ u1.pending = s.pending ∧ u1.sys.fuses = s.sys.fuses := by
  unfold execLockedRotorRetry
  (repeat' split) <;> exact ⟨_, rfl, by simp, by simp⟩

theorem execRotorLoss_kept (s : State) :
    ∃ u1, execRotorLoss s = .next u1 ∧ u1.pending = s.pending ∧ u1.sys.fuses = s.sys.fuses := by
  unfold execRotorLoss
  (repeat' split) <;> exact ⟨_, rfl, by simp, by simp⟩

theorem execRotorReacquired_kept (s : State) :
    ∃ u1, execRotorReacquired s = .next u1 ∧ u1.pending = s.pending ∧ u1.sys.fuses = s.sys.fuses := by
  unfold execRotorReacquired
  (repeat' split) <;> exact ⟨_, rfl, by simp, by simp⟩

theorem execReacquisitionFail_kept (s : State) :
    ∃ u1, execReacquisitionFail s = .next u1 ∧ u1.pending = s.pending ∧ u1.sys.fuses = s.sys.fuses := by
  unfold execReacquisitionFail
  (repeat' split) <;> exact ⟨_, rfl, by simp, by simp⟩

theorem execFlyingLimit_kept (s : State) :
    ∃ u1, execFlyingLimit s = .next u1 ∧ u1.pending = s.pending ∧ u1.sys.fuses = s.sys.fuses := by
  unfold execFlyingLimit
  (repeat' split) <;> exact ⟨_, rfl, by simp, by simp⟩

theorem execLoopRun_kept (ns : Nat) (s : State) :
    ∃ u1, execLoopRun ns s = .next u1 ∧ u1.pending = s.pending ∧ u1.sys.fuses = s.sys.fuses := by
  unfold execLoopRun
  (repeat' split) <;> exact ⟨_, rfl, by simp, by simp⟩

/-! ### Memory stays canonical -/

theorem execSpindleStart_memWf (i : Initiator) (s : State) :
    ∃ u1, execSpindleStart i s = .next u1 ∧ (Memory.wf s.mem = true → Memory.wf u1.mem = true) := by
  unfold execSpindleStart
  (repeat' split) <;> refine ⟨_, rfl, fun h => ?_⟩
  all_goals (repeat' first
      | with_reducible assumption | with_reducible apply State.writeMilCmd_memWf | with_reducible apply foldl_memWf
      | (intro t a ha) | split | simp)

theorem execSpindleStop_memWf (i : Initiator) (s : State) :
    ∃ u1, execSpindleStop i s = .next u1 ∧ (Memory.wf s.mem = true → Memory.wf u1.mem = true) := by
  unfold execSpindleStop
  (repeat' split) <;> refine ⟨_, rfl, fun h => ?_⟩
  all_goals (repeat' first
      | with_reducible assumption | with_reducible apply State.writeMilCmd_memWf | with_reducible apply foldl_memWf
      | (intro t a ha) | split | simp)

theorem execSpindleStopBrake_memWf (i : Initiator) (s : State) :
    ∃ u1, execSpindleStopBrake i s = .next u1 ∧ (Memory.wf s.mem = true → Memory.wf u1.mem = true) := by
  unfold execSpindleStopBrake
  (repeat' split) <;> refine ⟨_, rfl, fun h => ?_⟩
  all_goals (repeat' first
      | with_reducible assumption | with_reducible apply State.writeMilCmd_memWf | with_reducible apply foldl_memWf
      | (intro t a ha) | split | simp)

theorem execMillstoneTick_memWf (volts amps : Phases) (s : State) :
    ∃ u1, execMillstoneTick volts amps s = .next u1 ∧ (Memory.wf s.mem = true → Memory.wf u1.mem = true) := by
  unfold execMillstoneTick
  (repeat' split) <;> refine ⟨_, rfl, fun h => ?_⟩
  all_goals (repeat' first
      | with_reducible assumption | with_reducible apply State.milTick_memWf | with_reducible apply foldl_memWf
      | (intro t a ha) | split | simp)

theorem State.seed_memWf (s : State) (st : Nat) (x : MilState) (h : Memory.wf s.mem = true) :
    Memory.wf (State.seed s st x).mem = true := by
  unfold State.seed
  repeat' first
      | with_reducible assumption | with_reducible apply State.toDriven_memWf | with_reducible apply foldl_memWf
      | (intro t a ha) | split | simp

theorem State.catchGo_memWf (s : State) (act : Nat) (h : Memory.wf s.mem = true) :
    Memory.wf (State.catchGo s act).mem = true := by
  unfold State.catchGo
  repeat' first
      | with_reducible assumption | with_reducible apply State.milEnter_memWf
      | with_reducible apply State.seed_memWf | with_reducible apply foldl_memWf | (intro t a ha) | split | simp

theorem State.catchEnd_memWf (s : State) (h : Memory.wf s.mem = true) :
    Memory.wf (State.catchEnd s).mem = true := by
  unfold State.catchEnd
  repeat' first
      | with_reducible assumption | with_reducible apply State.catchGo_memWf | with_reducible apply foldl_memWf
      | (intro t a ha) | split | simp

theorem execCatchWindowEnd_memWf (s : State) :
    ∃ u1, execCatchWindowEnd s = .next u1 ∧ (Memory.wf s.mem = true → Memory.wf u1.mem = true) := by
  unfold execCatchWindowEnd
  (repeat' split) <;> refine ⟨_, rfl, fun h => ?_⟩
  all_goals (repeat' first
      | with_reducible assumption | with_reducible apply State.catchEnd_memWf | with_reducible apply foldl_memWf
      | (intro t a ha) | split | simp)

theorem execBrakeTimeout_memWf (s : State) :
    ∃ u1, execBrakeTimeout s = .next u1 ∧ (Memory.wf s.mem = true → Memory.wf u1.mem = true) := by
  unfold execBrakeTimeout
  (repeat' split) <;> refine ⟨_, rfl, fun h => ?_⟩
  all_goals (repeat' first
      | with_reducible assumption | with_reducible apply State.toFault_memWf | with_reducible apply foldl_memWf
      | (intro t a ha) | split | simp)

theorem execAlignDone_memWf (s : State) :
    ∃ u1, execAlignDone s = .next u1 ∧ (Memory.wf s.mem = true → Memory.wf u1.mem = true) := by
  unfold execAlignDone
  (repeat' split) <;> refine ⟨_, rfl, fun h => ?_⟩
  all_goals (repeat' first
      | with_reducible assumption | with_reducible apply State.toDriven_memWf | with_reducible apply foldl_memWf
      | (intro t a ha) | split | simp)

theorem execLockedRotor_memWf (s : State) :
    ∃ u1, execLockedRotor s = .next u1 ∧ (Memory.wf s.mem = true → Memory.wf u1.mem = true) := by
  unfold execLockedRotor
  dsimp only
  (repeat' split) <;> refine ⟨_, rfl, fun h => ?_⟩
  all_goals (repeat' first
      | with_reducible assumption | with_reducible apply State.milEnter_memWf
      | with_reducible apply State.toFault_memWf | with_reducible apply foldl_memWf | (intro t a ha) | split
      | simp)

theorem execLockedRotorRetry_memWf (s : State) :
    ∃ u1, execLockedRotorRetry s = .next u1 ∧ (Memory.wf s.mem = true → Memory.wf u1.mem = true) := by
  unfold execLockedRotorRetry
  (repeat' split) <;> refine ⟨_, rfl, fun h => ?_⟩
  all_goals (repeat' first
      | with_reducible assumption | with_reducible apply foldl_memWf | (intro t a ha) | split | simp)

theorem execRotorLoss_memWf (s : State) :
    ∃ u1, execRotorLoss s = .next u1 ∧ (Memory.wf s.mem = true → Memory.wf u1.mem = true) := by
  unfold execRotorLoss
  (repeat' split) <;> refine ⟨_, rfl, fun h => ?_⟩
  all_goals (repeat' first
      | with_reducible assumption | with_reducible apply State.rotorLost_memWf | with_reducible apply foldl_memWf
      | (intro t a ha) | split | simp)

theorem State.reacquire_memWf (s : State) (h : Memory.wf s.mem = true) :
    Memory.wf (State.reacquire s).mem = true := by
  unfold State.reacquire
  repeat' first
      | with_reducible assumption | with_reducible apply State.toDriven_memWf | with_reducible apply foldl_memWf
      | (intro t a ha) | split | simp

theorem execRotorReacquired_memWf (s : State) :
    ∃ u1, execRotorReacquired s = .next u1 ∧ (Memory.wf s.mem = true → Memory.wf u1.mem = true) := by
  unfold execRotorReacquired
  (repeat' split) <;> refine ⟨_, rfl, fun h => ?_⟩
  all_goals (repeat' first
      | with_reducible assumption | with_reducible apply State.reacquire_memWf | with_reducible apply foldl_memWf
      | (intro t a ha) | split | simp)

theorem execReacquisitionFail_memWf (s : State) :
    ∃ u1, execReacquisitionFail s = .next u1 ∧ (Memory.wf s.mem = true → Memory.wf u1.mem = true) := by
  unfold execReacquisitionFail
  (repeat' split) <;> refine ⟨_, rfl, fun h => ?_⟩
  all_goals (repeat' first
      | with_reducible assumption | with_reducible apply State.toCatch_memWf | with_reducible apply foldl_memWf
      | (intro t a ha) | split | simp)

theorem execFlyingLimit_memWf (s : State) :
    ∃ u1, execFlyingLimit s = .next u1 ∧ (Memory.wf s.mem = true → Memory.wf u1.mem = true) := by
  unfold execFlyingLimit
  (repeat' split) <;> refine ⟨_, rfl, fun h => ?_⟩
  all_goals (repeat' first
      | with_reducible assumption | with_reducible apply foldl_memWf | (intro t a ha) | split | simp)

theorem State.judgeSpeed_memWf (s : State) (h : Memory.wf s.mem = true) :
    Memory.wf (State.judgeSpeed s).mem = true := by
  unfold State.judgeSpeed
  repeat' first
      | with_reducible assumption | with_reducible apply State.setMillstone_memWf
      | with_reducible apply foldl_memWf | (intro t a ha) | split | simp

theorem State.afterRun_memWf (s : State) (l ns : Nat) (h : Memory.wf s.mem = true) :
    Memory.wf (State.afterRun s l ns).mem = true := by
  unfold State.afterRun
  repeat' first
      | with_reducible assumption | with_reducible apply State.judgeSpeed_memWf | with_reducible apply foldl_memWf
      | (intro t a ha) | split | simp

theorem execLoopRun_memWf (ns : Nat) (s : State) :
    ∃ u1, execLoopRun ns s = .next u1 ∧ (Memory.wf s.mem = true → Memory.wf u1.mem = true) := by
  unfold execLoopRun
  (repeat' split) <;> refine ⟨_, rfl, fun h => ?_⟩
  all_goals (repeat' first
      | with_reducible assumption | with_reducible apply State.afterRun_memWf | with_reducible apply foldl_memWf
      | (intro t a ha) | split | simp)

end Sys2Proof.Machine
end

