-- ==== Sys2Proof/Laws/FrameStrataIo.lean ====
section
/-!
SUPPORT. Sys2Proof/Laws/FrameStrataIo.lean: what each operation and meaning of Machine/StrataIo.lean leaves alone: the command queue, the
fuses, and memory, or its canonical form where the operation may write memory.
-/

namespace Sys2Proof.Machine

/-! ### What the meanings leave alone -/

theorem execTowpathRead_kept (n : Fin 12) (gd ga : Fin 32) (imm : BitVec 17) (s : State) :
    ∃ u1, execTowpathRead n gd ga imm s = .next u1 ∧ u1.pending = s.pending ∧ u1.sys.fuses = s.sys.fuses := by
  unfold execTowpathRead
  exact ⟨_, rfl, by simp, by simp⟩

theorem execTowpathWrite_kept (n : Fin 12) (gs ga : Fin 32) (imm : BitVec 17) (s : State) :
    ∃ u1, execTowpathWrite n gs ga imm s = .next u1 ∧ u1.pending = s.pending ∧ u1.sys.fuses = s.sys.fuses := by
  unfold execTowpathWrite
  exact ⟨_, rfl, by simp, by simp⟩

theorem execCommitTowpath_kept (n : Fin 12) (ga gb : Fin 32) (s : State) :
    ∃ u1, execCommitTowpath n ga gb s = .next u1 ∧ u1.pending = s.pending ∧ u1.sys.fuses = s.sys.fuses := by
  unfold execCommitTowpath
  exact ⟨_, rfl, by simp, by simp⟩

/-! ### Memory stays canonical -/

theorem execTowpathRead_memWf (n : Fin 12) (gd ga : Fin 32) (imm : BitVec 17) (s : State) :
    ∃ u1, execTowpathRead n gd ga imm s = .next u1 ∧ (Memory.wf s.mem = true → Memory.wf u1.mem = true) := by
  unfold execTowpathRead
  refine ⟨_, rfl, fun h => State.strWord_memWf _ _ _ _ h ?_⟩
  intro t ht
  dsimp only
  repeat' first
      | with_reducible assumption | with_reducible apply State.strNext_memWf
      | with_reducible apply State.strGo_memWf | with_reducible apply State.strFault_memWf
      | with_reducible apply State.strAbandon_memWf | with_reducible apply State.towWrite_memWf | split | simp

theorem execTowpathWrite_memWf (n : Fin 12) (gs ga : Fin 32) (imm : BitVec 17) (s : State) :
    ∃ u1, execTowpathWrite n gs ga imm s = .next u1 ∧ (Memory.wf s.mem = true → Memory.wf u1.mem = true) := by
  unfold execTowpathWrite
  refine ⟨_, rfl, fun h => State.strWord_memWf _ _ _ _ h ?_⟩
  intro t ht
  try dsimp only
  repeat' first
      | with_reducible assumption | with_reducible apply State.strNext_memWf
      | with_reducible apply State.strGo_memWf | with_reducible apply State.strFault_memWf
      | with_reducible apply State.strAbandon_memWf | with_reducible apply State.towWrite_memWf | split | simp

theorem execCommitTowpath_memWf (n : Fin 12) (ga gb : Fin 32) (s : State) :
    ∃ u1, execCommitTowpath n ga gb s = .next u1 ∧ (Memory.wf s.mem = true → Memory.wf u1.mem = true) := by
  unfold execCommitTowpath
  (repeat' split) <;> refine ⟨_, rfl, fun h => ?_⟩
  all_goals (repeat' first
      | with_reducible assumption | with_reducible apply State.strCommit_memWf
      | with_reducible apply State.towWrite_memWf | with_reducible apply foldl_memWf | (intro t a ha) | split
      | simp)

end Sys2Proof.Machine
end

