-- ==== Sys2Proof/Laws/FrameSys.lean ====
section
/-!
SUPPORT. Sys2Proof/Laws/FrameSys.lean: what each operation and meaning of Machine/Sys.lean leaves alone: the command queue, the
fuses, and memory, or its canonical form where the operation may write memory.
-/

namespace Sys2Proof.Machine

/-! ### What the operations leave alone -/

@[simp] theorem State.coreHbm_kept (s : State) (h : Fin 4) (k : AccessKind) (n a v : Nat) :
    (State.coreHbm s h k n a v).pending = s.pending ∧ (State.coreHbm s h k n a v).sys.fuses = s.sys.fuses := by simp
        [State.coreHbm]

@[simp] theorem State.coreAccess_kept (s : State) (h : Fin 4) (k : AccessKind) (n a v : Nat) :
    (State.coreAccess s h k n a v).pending = s.pending ∧ (State.coreAccess s h k n a v).sys.fuses = s.sys.fuses := by
  simp only [State.coreAccess]
  repeat' split
  all_goals simp_all

@[simp] theorem State.keystoneAccess_kept (s : State) (k : AccessKind) (n a v : Nat) :
    (State.keystoneAccess s k n a v).pending = s.pending ∧ (State.keystoneAccess s k n a v).sys.fuses = s.sys.fuses
        := by simp [State.keystoneAccess]

@[simp] theorem State.crossParity_kept (s : State) :
    (State.crossParity s).pending = s.pending ∧ (State.crossParity s).sys.fuses = s.sys.fuses ∧ (State.crossParity
        s).mem = s.mem := by simp [State.crossParity]

/-! ### What the meanings leave alone -/

theorem execLoadStoreMisaligned_kept (c : Core) (store : Bool) (width addr : Nat) (s : State) :
    ∃ u1, execLoadStoreMisaligned c store width addr s = .next u1 ∧ u1.pending = s.pending ∧ u1.sys.fuses =
        s.sys.fuses := by
  unfold execLoadStoreMisaligned
  exact ⟨_, rfl, by simp, by simp⟩

theorem execWideTowpathAccess_kept (h : Fin 4) (store : Bool) (width addr : Nat) (s : State) :
    ∃ u1, execWideTowpathAccess h store width addr s = .next u1 ∧ u1.pending = s.pending ∧ u1.sys.fuses =
        s.sys.fuses := by
  unfold execWideTowpathAccess
  exact ⟨_, rfl, by simp, by simp⟩

theorem execUnmappedAccessFault_kept (c : Core) (kind : AccessKind) (width addr v : Nat) (s : State) :
    ∃ u1, execUnmappedAccessFault c kind width addr v s = .next u1 ∧ u1.pending = s.pending ∧ u1.sys.fuses =
        s.sys.fuses := by
  unfold execUnmappedAccessFault
  (repeat' split) <;> exact ⟨_, rfl, by simp, by simp⟩

theorem execAtomicAccessFault_kept (h : Fin 4) (op : AmoOp) (width addr v : Nat) (s : State) :
    ∃ u1, execAtomicAccessFault h op width addr v s = .next u1 ∧ u1.pending = s.pending ∧ u1.sys.fuses = s.sys.fuses
        := by
  unfold execAtomicAccessFault
  exact ⟨_, rfl, by simp, by simp⟩

theorem execCrossingDelivery_kept (src dst : Island) (data : Bool) (tag : Nat) (s : State) :
    ∃ u1, execCrossingDelivery src dst data tag s = .next u1 ∧ u1.pending = s.pending ∧ u1.sys.fuses = s.sys.fuses
        := by
  unfold execCrossingDelivery
  exact ⟨_, rfl, by simp, by simp⟩

theorem execCrossingHeldRelease_kept (dst : Island) (s : State) :
    ∃ u1, execCrossingHeldRelease dst s = .next u1 ∧ u1.pending = s.pending ∧ u1.sys.fuses = s.sys.fuses := by
  unfold execCrossingHeldRelease
  exact ⟨_, rfl, by simp, by simp⟩

/-! ### Memory stays canonical -/

theorem execLoadStoreMisaligned_memWf (c : Core) (store : Bool) (width addr : Nat) (s : State) :
    ∃ u1, execLoadStoreMisaligned c store width addr s = .next u1 ∧ (Memory.wf s.mem = true → Memory.wf u1.mem =
        true) := by
  unfold execLoadStoreMisaligned
  (repeat' split) <;> refine ⟨_, rfl, fun h => ?_⟩
  all_goals (repeat' first
      | with_reducible assumption | with_reducible apply store_memWf | with_reducible apply foldl_memWf
      | (intro t a ha) | split | simp)

theorem execWideTowpathAccess_memWf (h : Fin 4) (store : Bool) (width addr : Nat) (s : State) :
    ∃ u1, execWideTowpathAccess h store width addr s = .next u1 ∧ (Memory.wf s.mem = true → Memory.wf u1.mem = true)
        := by
  unfold execWideTowpathAccess
  (repeat' split) <;> refine ⟨_, rfl, fun h => ?_⟩
  all_goals (repeat' first
      | with_reducible assumption | with_reducible apply store_memWf | with_reducible apply foldl_memWf
      | (intro t a ha) | split | simp)

theorem State.coreHbm_memWf (s : State) (h : Fin 4) (k : AccessKind) (n a v : Nat) (hm : Memory.wf s.mem = true) :
    Memory.wf (State.coreHbm s h k n a v).mem = true := by
  unfold State.coreHbm
  repeat' first
      | with_reducible assumption | with_reducible apply State.coreHbmNow_memWf | with_reducible apply foldl_memWf
      | (intro t a ha) | split | simp

theorem State.coreAccess_memWf (s : State) (h : Fin 4) (k : AccessKind) (n a v : Nat) (hm : Memory.wf s.mem = true) :
    Memory.wf (State.coreAccess s h k n a v).mem = true := by
  unfold State.coreAccess
  repeat' first
      | with_reducible assumption | with_reducible apply State.coreHbm_memWf
      | with_reducible apply State.physWrite_memWf | with_reducible apply store_memWf
      | with_reducible apply State.towWrite_memWf | with_reducible apply foldl_memWf | (intro t a ha) | split
      | simp

theorem State.keystoneAccess_memWf (s : State) (k : AccessKind) (n a v : Nat) (h : Memory.wf s.mem = true) :
    Memory.wf (State.keystoneAccess s k n a v).mem = true := by
  unfold State.keystoneAccess
  repeat' first
      | with_reducible assumption | with_reducible apply store_memWf | with_reducible apply State.towWrite_memWf
      | with_reducible apply foldl_memWf | (intro t a ha) | split | simp

theorem execUnmappedAccessFault_memWf (c : Core) (kind : AccessKind) (width addr v : Nat) (s : State) :
    ∃ u1, execUnmappedAccessFault c kind width addr v s = .next u1 ∧ (Memory.wf s.mem = true → Memory.wf u1.mem =
        true) := by
  unfold execUnmappedAccessFault
  (repeat' split) <;> refine ⟨_, rfl, fun h => ?_⟩
  all_goals (repeat' first
      | with_reducible assumption | with_reducible apply State.coreAccess_memWf
      | with_reducible apply State.keystoneAccess_memWf | with_reducible apply store_memWf
      | with_reducible apply foldl_memWf | (intro t a ha) | split | simp)

theorem execAtomicAccessFault_memWf (h : Fin 4) (op : AmoOp) (width addr v : Nat) (s : State) :
    ∃ u1, execAtomicAccessFault h op width addr v s = .next u1 ∧ (Memory.wf s.mem = true → Memory.wf u1.mem = true)
        := by
  unfold execAtomicAccessFault
  (repeat' split) <;> refine ⟨_, rfl, fun h => ?_⟩
  all_goals (repeat' first
      | with_reducible assumption | with_reducible apply State.atomic_memWf | with_reducible apply foldl_memWf
      | (intro t a ha) | split | simp)

theorem execCrossingDelivery_memWf (src dst : Island) (data : Bool) (tag : Nat) (s : State) :
    ∃ u1, execCrossingDelivery src dst data tag s = .next u1 ∧ (Memory.wf s.mem = true → Memory.wf u1.mem = true) :=
        by
  unfold execCrossingDelivery
  (repeat' split) <;> refine ⟨_, rfl, fun h => ?_⟩
  all_goals (repeat' first
      | with_reducible assumption | with_reducible apply foldl_memWf | (intro t a ha) | split | simp)

theorem execCrossingHeldRelease_memWf (dst : Island) (s : State) :
    ∃ u1, execCrossingHeldRelease dst s = .next u1 ∧ (Memory.wf s.mem = true → Memory.wf u1.mem = true) := by
  unfold execCrossingHeldRelease
  (repeat' split) <;> refine ⟨_, rfl, fun h => ?_⟩
  all_goals (repeat' first
      | with_reducible assumption | with_reducible apply foldl_memWf | (intro t a ha) | split | simp)

end Sys2Proof.Machine
end

