-- ==== Sys2Proof/Laws/Reads.lean ====
section
/-!
SUPPORT. Sys2Proof/Laws/Reads.lean: what reads give after the named updates: a register, a field, a flag, a READY bit and a byte
of memory, after writes of registers, after outputs, and through a state of which only other parts were replaced.
-/

namespace Sys2Proof.Machine

/-! ### Through a state with other parts replaced -/

@[simp] theorem rd_mk (s : State) (o : Nat) (mem' : List Host.Cell) (now' : Nat) (fresh' : Nat) (resp' : Word) (out' : List
    Out) (sys' : SysState) (kenul' : Option Kenul) (slotA' : Option SlotResult) (slotB' : Option SlotResult) (tgt' :
    TgtState) (crn' : CrnState) (patchQueue' : List Nat) (hpA' : HostGroup) (hpB' : HostGroup) (sb' : SidebandState) (cmd' :
    CmdState) (way' : WayState) (sigEvents' : List Nat) (lode' : LodeState) (qry' : QryState) (bed' : BedState) (trn' :
    TurnState) (pair' : PairState) (bas' : BasState) (acts' : List ActState) (mil' : MilState) (bls' : BlsState) (obs' :
    ObsState) (car' : CarState) (csw' : CswState) (str' : List SeqState) (keyRam' : List Host.Cell) (crossHeld' : List
    (Island × Island × Nat)) (resv' : List (Nat × Nat)) (pending' : List Instr) : (State.mk s.regs mem' now' fresh' resp'
    out' sys' kenul' slotA' slotB' tgt' crn' patchQueue' hpA' hpB' sb' cmd' way' sigEvents' lode' qry' bed' trn' pair' bas'
    acts' mil' bls' obs' car' csw' str' keyRam' crossHeld' resv' pending').rd o = s.rd o := rfl
@[simp] theorem rf_mk (s : State) (o : Nat) (f : Fld) (mem' : List Host.Cell) (now' : Nat) (fresh' : Nat) (resp' : Word)
    (out' : List Out) (sys' : SysState) (kenul' : Option Kenul) (slotA' : Option SlotResult) (slotB' : Option SlotResult)
    (tgt' : TgtState) (crn' : CrnState) (patchQueue' : List Nat) (hpA' : HostGroup) (hpB' : HostGroup) (sb' : SidebandState)
    (cmd' : CmdState) (way' : WayState) (sigEvents' : List Nat) (lode' : LodeState) (qry' : QryState) (bed' : BedState) (trn'
    : TurnState) (pair' : PairState) (bas' : BasState) (acts' : List ActState) (mil' : MilState) (bls' : BlsState) (obs' :
    ObsState) (car' : CarState) (csw' : CswState) (str' : List SeqState) (keyRam' : List Host.Cell) (crossHeld' : List
    (Island × Island × Nat)) (resv' : List (Nat × Nat)) (pending' : List Instr) : (State.mk s.regs mem' now' fresh' resp'
    out' sys' kenul' slotA' slotB' tgt' crn' patchQueue' hpA' hpB' sb' cmd' way' sigEvents' lode' qry' bed' trn' pair' bas'
    acts' mil' bls' obs' car' csw' str' keyRam' crossHeld' resv' pending').rf o f = s.rf o f := rfl
@[simp] theorem flag_mk (s : State) (o : Nat) (f : Fld) (mem' : List Host.Cell) (now' : Nat) (fresh' : Nat) (resp' : Word)
    (out' : List Out) (sys' : SysState) (kenul' : Option Kenul) (slotA' : Option SlotResult) (slotB' : Option SlotResult)
    (tgt' : TgtState) (crn' : CrnState) (patchQueue' : List Nat) (hpA' : HostGroup) (hpB' : HostGroup) (sb' : SidebandState)
    (cmd' : CmdState) (way' : WayState) (sigEvents' : List Nat) (lode' : LodeState) (qry' : QryState) (bed' : BedState) (trn'
    : TurnState) (pair' : PairState) (bas' : BasState) (acts' : List ActState) (mil' : MilState) (bls' : BlsState) (obs' :
    ObsState) (car' : CarState) (csw' : CswState) (str' : List SeqState) (keyRam' : List Host.Cell) (crossHeld' : List
    (Island × Island × Nat)) (resv' : List (Nat × Nat)) (pending' : List Instr) : (State.mk s.regs mem' now' fresh' resp'
    out' sys' kenul' slotA' slotB' tgt' crn' patchQueue' hpA' hpB' sb' cmd' way' sigEvents' lode' qry' bed' trn' pair' bas'
    acts' mil' bls' obs' car' csw' str' keyRam' crossHeld' resv' pending').flag o f = s.flag o f := rfl
@[simp] theorem ready_mk (s : State) (r : Ready) (mem' : List Host.Cell) (now' : Nat) (fresh' : Nat) (resp' : Word) (out' :
    List Out) (sys' : SysState) (kenul' : Option Kenul) (slotA' : Option SlotResult) (slotB' : Option SlotResult) (tgt' :
    TgtState) (crn' : CrnState) (patchQueue' : List Nat) (hpA' : HostGroup) (hpB' : HostGroup) (sb' : SidebandState) (cmd' :
    CmdState) (way' : WayState) (sigEvents' : List Nat) (lode' : LodeState) (qry' : QryState) (bed' : BedState) (trn' :
    TurnState) (pair' : PairState) (bas' : BasState) (acts' : List ActState) (mil' : MilState) (bls' : BlsState) (obs' :
    ObsState) (car' : CarState) (csw' : CswState) (str' : List SeqState) (keyRam' : List Host.Cell) (crossHeld' : List
    (Island × Island × Nat)) (resv' : List (Nat × Nat)) (pending' : List Instr) : (State.mk s.regs mem' now' fresh' resp'
    out' sys' kenul' slotA' slotB' tgt' crn' patchQueue' hpA' hpB' sb' cmd' way' sigEvents' lode' qry' bed' trn' pair' bas'
    acts' mil' bls' obs' car' csw' str' keyRam' crossHeld' resv' pending').ready r = s.ready r := rfl
@[simp] theorem byte_mk (s : State) (a : Nat) (regs' : List (Nat × Word)) (now' : Nat) (fresh' : Nat) (resp' : Word) (out' :
    List Out) (sys' : SysState) (kenul' : Option Kenul) (slotA' : Option SlotResult) (slotB' : Option SlotResult) (tgt' :
    TgtState) (crn' : CrnState) (patchQueue' : List Nat) (hpA' : HostGroup) (hpB' : HostGroup) (sb' : SidebandState) (cmd' :
    CmdState) (way' : WayState) (sigEvents' : List Nat) (lode' : LodeState) (qry' : QryState) (bed' : BedState) (trn' :
    TurnState) (pair' : PairState) (bas' : BasState) (acts' : List ActState) (mil' : MilState) (bls' : BlsState) (obs' :
    ObsState) (car' : CarState) (csw' : CswState) (str' : List SeqState) (keyRam' : List Host.Cell) (crossHeld' : List
    (Island × Island × Nat)) (resv' : List (Nat × Nat)) (pending' : List Instr) : (State.mk regs' s.mem now' fresh' resp'
    out' sys' kenul' slotA' slotB' tgt' crn' patchQueue' hpA' hpB' sb' cmd' way' sigEvents' lode' qry' bed' trn' pair' bas'
    acts' mil' bls' obs' car' csw' str' keyRam' crossHeld' resv' pending').byte a = s.byte a := rfl

/-! ### Registers -/

theorem rd_raise (s : State) (o : Nat) (f : Fld) (j : Nat) :
    (s.raise o f).rd j = if j = o then fset (s.rd o) f 1 else s.rd j := rd_wf s o f 1 j
theorem rd_countUp (s : State) (o : Nat) (f : Fld) (n j : Nat) : (s.countUp o f n).rd j
    = if j = o then fset (s.rd o) f (min (s.rf o f + n) (2 ^ (f.hi + 1 - f.lo) - 1)) else s.rd j := rd_wf s o f _ j
theorem rd_orReg (s : State) (o m j : Nat) : (s.orReg o m).rd j = if j = o then s.rd o ||| word m else s.rd j := rd_wr s _ o j
@[simp] theorem rd_emit (s : State) (x : Out) (o : Nat) : (s.emit x).rd o = s.rd o := rfl
@[simp] theorem rd_answer (s : State) (v : Word) (o : Nat) : (s.answer v).rd o = s.rd o := rfl
@[simp] theorem rf_emit (s : State) (x : Out) (o : Nat) (f : Fld) : (s.emit x).rf o f = s.rf o f := rfl
@[simp] theorem rf_answer (s : State) (v : Word) (o : Nat) (f : Fld) : (s.answer v).rf o f = s.rf o f := rfl
@[simp] theorem flag_emit (s : State) (x : Out) (o : Nat) (f : Fld) : (s.emit x).flag o f = s.flag o f := rfl
@[simp] theorem flag_answer (s : State) (v : Word) (o : Nat) (f : Fld) : (s.answer v).flag o f = s.flag o f := rfl
@[simp] theorem rd_ite (p : Prop) [Decidable p] (a b : State) (o : Nat) :
    (if p then a else b).rd o = if p then a.rd o else b.rd o := apply_ite (fun t : State => t.rd o) _ _ _

/-- A one-bit flag that was set. -/
theorem flag_raise_self (s : State) (o : Nat) (f : Fld) (h : f.wf) (w : f.hi = f.lo) : (s.raise o f).flag o f = true := by
  simp [State.flag, State.raise, rf_wf_self s o f 1 h, w]

/-- A one-bit flag that was cleared. -/
theorem flag_clear_self (s : State) (o : Nat) (f : Fld) (h : f.wf) : (s.wf o f 0).flag o f = false := by
  simp [State.flag, rf_wf_self s o f 0 h]

/-! ### Readiness -/

theorem ready_congr {s t : State} (r : Ready) (h : t.rd R.SYS_READY = s.rd R.SYS_READY) : t.ready r = s.ready r := by
  unfold State.ready State.rf; rw [h]

theorem rd_setReady_ne (s : State) (r : Ready) (v : Bool) (o : Nat) (h : o ≠ R.SYS_READY) (h2 : o ≠ R.SYS_READY_CHG) :
    (s.setReady r v).rd o = s.rd o := by
  unfold State.setReady
  split
  · rfl
  · rw [rd_orReg, if_neg h2, rd_wf, if_neg h]

theorem Ready.bit_lt (r : Ready) : r.bit < 32 := by cases r <;> simp [Ready.bit]; omega

@[simp] theorem ready_setReady_self (s : State) (r : Ready) (v : Bool) : (s.setReady r v).ready r = v := by
  unfold State.setReady
  split
  · assumption
  · have hb := Ready.bit_lt r
    rw [ready_congr (s := s.wf R.SYS_READY ⟨r.bit, r.bit⟩ (b2n v)) r
      (by rw [rd_orReg, if_neg (by decide : R.SYS_READY ≠ R.SYS_READY_CHG)])]
    unfold State.ready
    rw [rf_wf_self _ _ _ _ ⟨Nat.le_refl _, hb⟩]
    cases v <;> simp [b2n]

/-! ### Memory -/

theorem byte_congr {s t : State} (h : t.mem = s.mem) (a : Nat) : t.byte a = s.byte a := by simp [State.byte, h]
@[simp] theorem byte_wr (s : State) (o : Nat) (v : Word) (a : Nat) : (s.wr o v).byte a = s.byte a := rfl
@[simp] theorem byte_wf (s : State) (o : Nat) (f : Fld) (v a : Nat) : (s.wf o f v).byte a = s.byte a := rfl
@[simp] theorem byte_raise (s : State) (o : Nat) (f : Fld) (a : Nat) : (s.raise o f).byte a = s.byte a := rfl
@[simp] theorem byte_countUp (s : State) (o : Nat) (f : Fld) (n a : Nat) : (s.countUp o f n).byte a = s.byte a := rfl
@[simp] theorem byte_orReg (s : State) (o m a : Nat) : (s.orReg o m).byte a = s.byte a := rfl
@[simp] theorem byte_emit (s : State) (x : Out) (a : Nat) : (s.emit x).byte a = s.byte a := rfl
@[simp] theorem byte_answer (s : State) (v : Word) (a : Nat) : (s.answer v).byte a = s.byte a := rfl
@[simp] theorem byte_setReady (s : State) (r : Ready) (v : Bool) (a : Nat) : (s.setReady r v).byte a = s.byte a :=
  byte_congr (by simp) a
@[simp] theorem byte_ite (p : Prop) [Decidable p] (a b : State) (x : Nat) :
    (if p then a else b).byte x = if p then a.byte x else b.byte x := apply_ite (fun t : State => t.byte x) _ _ _

end Sys2Proof.Machine
end

