-- ==== Sys2Proof/Tests/Slice0.lean ====
section
/-!
SUPPORT. Sys2Proof/Tests/Slice0.lean: the model's own tests: ill-formed commands that WellFormed refuses; results that the
worked examples and check values of spec/ state; and, for every obligation with hypotheses, operands and a state that meet
them, one clause after another.
-/

namespace Sys2Proof.Machine

/-! Well-formedness. -/

/-- A command that a host can send. -/
def wCmd : HostCmd :=
  { tenant := 1, queue := 1, tag := 1, opcode := 2, fua := false, target := 0, granOfs := 0, granCnt := 1, dptr := 0 }

theorem test_ill_formed_refused_1 :
    ∀ c ∈ ([.registerWrite .port .machine 64 0 0,
      .registerWrite .port .machine 32 0x10000000 0,
      .loadStoreMisaligned .keystone true 3 0,
      .loadStoreMisaligned .keystone true 4 (2 ^ 56),
      .wideTowpathAccess 3 true 3 0,
      .wideTowpathAccess 3 true 4 (2 ^ 56),
      .unmappedAccessFault .keystone .load 3 0 0,
      .unmappedAccessFault .keystone .load 4 (2 ^ 56) 0,
      .atomicAccessFault 3 .add 2 0 0,
      .atomicAccessFault 3 .add 8 (2 ^ 56) 0,
      .fuseProgram .port .machine 0x10000 0 0,
      .fuseRevoke .port .machine 0x10000 0 0] : List Instr), c.wf = false := by decide

theorem test_ill_formed_refused_2 :
    ∀ c ∈ ([.linkTrained 0 0 1 1 (2 ^ 64),
      .nvmeDoorbellWrite 0 2 0,
      .nvmeCommandFetch 0 0x10000 0,
      .sasCommandFrame 0 0 0x10000 0 0 .simple 0,
      .sasCommandFrame 0 0 0 0x10000 0 .simple 0,
      .sasCommandFrame 0 0 0 0 0x8000 .simple 0,
      .sasCommandFrame 0 0 0 0 0 .simple (2 ^ 256),
      .sasTaskManagement 0 0 .abortTask 0x10000 0 0,
      .sasTaskManagement 0 0 .abortTask 0 0x10000 0,
      .sasTaskManagement 0 0 .abortTask 0 0 0x8000,
      .sataCommand { wCmd with tenant := 0x10000 },
      .sataCommand { wCmd with queue := 0x10000 }] : List Instr), c.wf = false := by decide

theorem test_ill_formed_refused_3 :
    ∀ c ∈ ([.sataCommand { wCmd with tag := 0x10000 },
      .sataCommand { wCmd with opcode := 0x100 },
      .sataCommand { wCmd with target := 2 ^ 128 },
      .sataCommand { wCmd with granOfs := 2 ^ 32 },
      .sataCommand { wCmd with granCnt := 2 ^ 32 },
      .sataCommand { wCmd with dptr := 2 ^ 128 },
      .sataCommand { wCmd with p1 := 2 ^ 32 },
      .sataCommand { wCmd with flg := 0x100 },
      .readFpdmaQueued 0 { wCmd with opcode := 0x100 },
      .writeFpdmaQueued 0 { wCmd with opcode := 0x100 },
      .hostConfigRead 0 2,
      .hostConfigRead 0 4096] : List Instr), c.wf = false := by decide

theorem test_ill_formed_refused_4 :
    ∀ c ∈ ([.hostConfigWrite 0 2 0,
      .hostConfigWrite 0 4096 0,
      .hostBar0Read 0 2 1,
      .hostBar0Read 0 4 0,
      .hostBar0Write 0 2 0,
      .inquiry 0 1 true 0x100,
      .nvmeGetLogPage 0 0x100 [],
      .nvmeIdentify 0 0x100 0,
      .modeSense 0 0x100,
      .modeSelect 0 0x100 0,
      .logSense 0 0x100 [],
      .readLogExt 0 0x100 []] : List Instr), c.wf = false := by decide

theorem test_ill_formed_refused_5 :
    ∀ c ∈ ([.mailboxCmdSend 0 (List.replicate 17 0),
      .sbSetPointer 0x100 0 .good,
      .sbWrite 0x100 0 .good,
      .sbMailboxSend 0x100 0 .good,
      .sbDeviceReset 0x100 0 .good,
      .sbUnknownCode 0x10 true,
      .sbUnknownCode 0x100 true,
      .vcmVelocitySample 0 [] (List.replicate 8 0),
      .vcmVelocitySample 0 (List.replicate 8 0) [],
      .hbmWrite 0 0 0 0 none,
      .hbmWrite 0 32 33 0 none,
      .hbmWrite 0 0 1 0x100 none] : List Instr), c.wf = false := by decide

theorem test_ill_formed_refused_6 :
    ∀ c ∈ ([.translate 0 (2 ^ 64) true 0,
      .helloFrame 32857 0,
      .helloFrame 24 (2 ^ 192),
      .ackFrame 32857 0,
      .ackFrame 24 (2 ^ 192),
      .nakFrame 32857 0,
      .nakFrame 24 (2 ^ 192),
      .planFrame 32857 0,
      .planFrame 24 (2 ^ 192),
      .planAckFrame 32857 0,
      .planAckFrame 24 (2 ^ 192),
      .tenantFrame 32857 0] : List Instr), c.wf = false := by decide

theorem test_ill_formed_refused_7 :
    ∀ c ∈ ([.tenantFrame 24 (2 ^ 192),
      .itemBeginFrame 32857 0,
      .itemBeginFrame 24 (2 ^ 192),
      .dataFrame 32857 0,
      .dataFrame 24 (2 ^ 192),
      .itemEndFrame 32857 0,
      .itemEndFrame 24 (2 ^ 192),
      .itemAbortFrame 32857 0,
      .itemAbortFrame 24 (2 ^ 192),
      .verifiedFrame 32857 0,
      .verifiedFrame 24 (2 ^ 192),
      .historyFrame 32857 0] : List Instr), c.wf = false := by decide

theorem test_ill_formed_refused_8 :
    ∀ c ∈ ([.historyFrame 24 (2 ^ 192),
      .stopFrame 32857 0,
      .stopFrame 24 (2 ^ 192),
      .endFrame 32857 0,
      .endFrame 24 (2 ^ 192),
      .itemReadbackDone 0x10000 0 0 0 true,
      .itemReadbackDone 0 0x100 0 0 true,
      .itemReadbackDone 0 0 (2 ^ 128) 0 true,
      .itemReadbackDone 0 0 0 (2 ^ 32) true,
      .injectArm .port .machine 0 0 0,
      .sliceClock 0 [] (List.replicate 8 0),
      .sliceClock 0 (List.replicate 8 0) []] : List Instr), c.wf = false := by decide

theorem test_ill_formed_refused_9 :
    ∀ c ∈ ([.nvmeDeleteIoQueue 0 true 0x10000,
      .nvmeAbort 0 0x10000 0,
      .nvmeAbort 0 0 0x10000,
      .nvmeSetFeatures 0 0x100 0,
      .nvmeGetFeatures 0 0x100] : List Instr), c.wf = false := by decide

theorem test_well_formed_accepted :
    ∀ c ∈ ([.registerWrite .port .machine 32 0x0FFFFFFC 0,
      .wideTowpathAccess 3 true 8 0,
      .hostConfigRead 0 4092,
      .sataCommand wCmd,
      .sbUnknownCode 0xFF true,
      .hbmWrite 0 32 32 0 none,
      .translate 0 (2 ^ 64 - 1) true 0,
      .loopDisable .keystone 79 0,
      .dataFrame 24 (2 ^ 192 - 1),
      .itemReadbackDone 0xFFFF 0xFF (2 ^ 128 - 1) (2 ^ 32 - 1) true,
      .mailboxCmdSend 0 (List.replicate 16 0)] : List Instr), c.wf = true := by decide

theorem test_ill_formed_wide_refused :
    (Instr.nvmeCommandFetch 0 1 (2 ^ 512)).wf = false ∧ (Instr.nvmeIdentify 0 1 (2 ^ 32768)).wf = false := by simp [Instr.wf]


/-! States for the tests. -/

/-- A zone and an image with every unit present, for states in which commands complete. -/
def wZone : Zone := { start := 0, rate := 500, spt := 100, band := 256, code := 1, precomp := 0, eq := 1 }
def wImage : Kenul :=
  { serial := 7, present := 15, heads := [8, 8, 8, 8], slices := (List.range 8).map fun n => ⟨n / 2, n % 2, true⟩,
    rpm := 7200, polePairs := 4,
    surfaces := (List.range 32).map fun n => { surf := n, wedge := false, rate := 60, tracks := 1000, zones := [wZone] },
    claims := ((List.range 8).map fun m => ⟨0x0800 + m, 1, 15⟩) ++ ((List.range 32).map fun k => ⟨0x0500 + k, 1, 3⟩)
      ++ ((List.range 64).map fun l => ⟨0x0400 + l, 1, 3⟩) ++ ((List.range 40).map fun g => ⟨0x0600 + g, 1, 3⟩)
      ++ ((List.range 8).map fun g => ⟨0x0628 + g, 0x43, 3⟩) ++ (List.range 64).map fun k => ⟨0x0900 + k, 0x43, 3⟩ }

def wState : State :=
  (({ State.reset with kenul := some wImage }.wr R.SYS_READY 0xFFFFFFFF).wr R.SYS_READY_UNIT 0xFFFFFFFF)

def State.onSys (s : State) (f : SysState → SysState) : State := { s with sys := f s.sys }
def State.onTgt (s : State) (f : TgtState → TgtState) : State := { s with tgt := f s.tgt }
def State.onCrn (s : State) (f : CrnState → CrnState) : State := { s with crn := f s.crn }
def State.onWay (s : State) (f : WayState → WayState) : State := { s with way := f s.way }
def State.onBed (s : State) (f : BedState → BedState) : State := { s with bed := f s.bed }
def State.onCar (s : State) (f : CarState → CarState) : State := { s with car := f s.car }
def State.onCsw (s : State) (f : CswState → CswState) : State := { s with csw := f s.csw }
def State.onObs (s : State) (f : ObsState → ObsState) : State := { s with obs := f s.obs }
def State.onPair (s : State) (f : PairState → PairState) : State := { s with pair := f s.pair }
def State.onBls (s : State) (f : BlsState → BlsState) : State := { s with bls := f s.bls }
def State.onMil (s : State) (f : MilState → MilState) : State := { s with mil := f s.mil }
def State.onBas (s : State) (f : BasState → BasState) : State := { s with bas := f s.bas }
def State.onTrn (s : State) (f : TurnState → TurnState) : State := { s with trn := f s.trn }
def State.onQry (s : State) (f : QryState → QryState) : State := { s with qry := f s.qry }
def State.onLode (s : State) (f : LodeState → LodeState) : State := { s with lode := f s.lode }
def State.onCmd (s : State) (f : CmdState → CmdState) : State := { s with cmd := f s.cmd }
def State.onSb (s : State) (f : SidebandState → SidebandState) : State := { s with sb := f s.sb }
def State.onHp (s : State) (g : Nat) (f : HostGroup → HostGroup) : State := s.setHp g (f (s.hp g))
def State.onCtx (s : State) (k : Nat) (f : Ctx → Ctx) : State := s.setCtx k (f (s.ctx k))
def State.onWc (s : State) (a : Nat) (f : WcState → WcState) : State := s.setWc a (f (s.wc a))
def State.onSeq (s : State) (n : Nat) (f : SeqState → SeqState) : State := s.setSeq n (f (s.seq n))
def State.onChan (s : State) (k : Nat) (f : CarChan → CarChan) : State := s.setCarCh k (f (s.carCh k))
def State.onAct (s : State) (a : Nat) (f : ActState → ActState) : State := s.setAct a (f (s.act a))
def State.onSlice (s : State) (n : Nat) (f : SliceState → SliceState) : State := s.setSlice n (f (s.slice n))
def State.onLoop (s : State) (l : Nat) (f : LoopState → LoopState) : State := s.setLoop l (f (s.loop l))

def wMore (c : Claim) : State := { wState with kenul := some { wImage with claims := c :: wImage.claims } }
def wHost : State := wMore ⟨0x807, 0x51, 15⟩
def wSide : State := wMore ⟨0x807, 0x53, 15⟩

theorem w_noLadder (k : Nat) : ((List.replicate 12 ({} : SeqState))[k]?.getD {}).ladder = none := by
  rcases h : (List.replicate 12 ({} : SeqState))[k]? with _ | x
  · rfl
  · have := List.getElem?_replicate (a := ({} : SeqState)) (n := 12) (i := k)
    rw [h] at this; split at this
    · cases this; rfl
    · cases this


/-- The state an outcome goes on to. -/
def nx (o : Host.Outcome State Fault Refusal) : State := match o with | .next t => t | _ => State.reset

/-! Results of the worked examples and check values of spec/; each theorem names its source. -/

-- spec/02, R61: the check value of the CRC-32C.
theorem test_crc32c_check_value : crc32c 0x393837363534333231 9 = 0xE3069283 := by set_option maxRecDepth 100000 in decide

-- spec/08, R209: the check value of the CRC-64.
theorem test_crc64_check_value :
    crc64 [0x31, 0x32, 0x33, 0x34, 0x35, 0x36, 0x37, 0x38,
     0x39] = 0x995DC9BBDF1939FA := by set_option maxRecDepth 100000 in decide

-- spec/20, R453: the check value of the CRC-16.
theorem test_crc16_check_value : crc16 0x393837363534333231 9 = 0x29B1 := by set_option maxRecDepth 100000 in decide

-- spec/02, "a timer claimed twice".
theorem test_kenul_conflict :
    (State.reset.kenulOutcome (.conflict 0x202 0x41 0x31) (.fail 3 0)).regValue R.SYS_KENUL_STATUS = 0x003A000A ∧
      (State.reset.kenulOutcome (.conflict 0x202 0x41 0x31) (.fail 3 0)).regValue R.SYS_KENUL_RES = 0x31410202 := by decide

-- spec/05, tenant 7: ALLOW below USE + RSV sets OVERDRAFT and bit 6 of WAY_OVER_EVT[0].
def tenS : State := (wState.wr (R.WAY_TEN_USE_LO 6) 900000).setRsv 7 40000
def tenT : State := nx (execAllowanceWrite .media 6 0 (tenS.wr (R.WAY_TEN_ALLOW_LO 6) 880000))
theorem test_overdraft : (tenT.regValue (R.WAY_TEN_STATUS 6)).getLsbD 31 = true ∧ tenT.rd (R.WAY_OVER_EVT 0) = 0x40 ∧
    tenT.tenAllow 7 = 880000 := by decide

-- spec/06, one zone on surface 13: band 3 starts at track 195, sector index 273,000.
theorem test_band_geometry :
    bandInZones 13 [({ wZone with start := 0, spt := 1400, band := 64 }, 40000)] 0 3
      = some { surf := 13, track := 195, first := 273000, sectors := 89600 } ∧ psaOf 13 273000 = 0x680000042A68 := by decide

-- spec/08, a wedge surface: WEDGE and REV.
theorem test_wedge_and_rev : wedgeBits 5200 = 6240 ∧ revBits 5200 5400 = 57777777 := by decide

-- spec/08, sector 212: SM1 at P - 5 with 3 mismatches, SM2 at its place with 1: SLIP by 5.
def slipF : Framed := frameSector (fun p => if p = -5 then 3 else 20) (fun p => if p = 0 then 1 else 20) 64 4
theorem test_framer_slip : slipF.result = fSlip ∧ slipF.shift = 5 ∧
     slipF.anchor = 0 := by set_option maxRecDepth 100000 in decide

-- spec/10, the position loop's first run.
def loopS : State :=
  (((wState.wr (R.BAS_CPID0 1 0) 0x04445000).wr (R.BAS_CPID1 1 0) 0x342D6000).wr (R.BAS_CSH 1 0) 0x6C21).wr (R.BAS_CIN 1 0)
     0xC000
theorem test_position_loop : (loopS.loopProgram 1 0 {} 328).2.1 = 328 ∧ (loopS.loopProgram 1 0 {} 328).2.2.1 = 7238 ∧
    (loopS.loopProgram 1 0 {} 328).1.int = 22386 ∧ (loopS.loopProgram 1 0 {} 328).1.df = 210292608 := by decide

-- spec/12, a motor that turns backward.
def spun (moved : Int) (ticks : Nat) (s : State) : State :=
  { s with mil := { s.mil with moved := moved, ticks := ticks, bemf := true, stay := 2 ^ 30 } }
def catchT : State := nx (execCatchWindowEnd (spun (-117965) 800
  (((wState.wf R.MIL_CFG F.MIL_CFG_TARGET_RPM 5400).wf R.MIL_CFG F.MIL_CFG_POLE_PAIRS 6).wf R.MIL_STAT F.MIL_STAT_STATE miCatch)))
theorem test_catch_backward : catchT.regValue R.MIL_SPEED = 0xC0015F90 ∧
     (catchT.source 0x40).1 = -2731 := by set_option maxRecDepth 100000 in decide
theorem test_catch_result : catchT.regValue R.MIL_CATCH_RES = 0x930000A7 ∧
     catchT.milSt = miBrake := by set_option maxRecDepth 100000 in decide

-- spec/13, an aged bank: E of steps 2 and 3.
theorem test_bank_energy : (wState.wr R.BLS_BANK_MEAS 3900).bankEnergy 34000 = 1973 ∧
    (wState.wr R.BLS_BANK_MEAS 3900).bankEnergy 35000 = 2107 := by decide

-- spec/15, the SV48 walk of IOVA 0x00_0812_3440 to a 2 MiB superpage.
def walkS : State :=
  (((((wState.wf (R.TRN_SCTX 35) F.TRN_SCTX_MODE 2).wf (R.TRN_SCTX 35) F.TRN_SCTX_ROOT_PPN 0x400100).hbmWrite qCpu 0x100000 8
    0x100040401).2.hbmWrite qCpu 0x101000 8 0x100040801).2.hbmWrite qCpu 0x102200 8 0x100080007).2
theorem test_superpage : (walkS.translate 35 0x0008123440 true).1 = some 0x0400323440 := by set_option maxRecDepth 100000 in decide

-- spec/15, a request that outlives a restart.
def boxA : State := nx (execDoorbellSet .port 1 false 8 (nx (execMailboxPush .port 1 false 5
  (((wMore ⟨0x801, 2, 15⟩).setReady .milepost true).wf (R.MPO_CFG 1) F.MPO_CFG_NEAR 1))))
def boxB : State := nx (execMailboxRequestTimeout 1 false { boxA with now := 2 ^ 40 })
def boxC : State := nx (execMailboxAcknowledge .media 1 true 0x80000001 boxB)
theorem test_request_opens : boxA.regValue (R.MPO_REQ 1 0) = 0x80000000 ∧ boxA.regValue (R.MPO_DB 1 1) = 8 := by decide
theorem test_request_times_out : boxB.regValue (R.MPO_REQ 1 0) = 0xA0000000 ∧ boxB.asserted 97 = true := by decide
theorem test_late_acknowledge : boxC.regValue (R.MPO_REQ 1 0) = 0x70000001 := by decide

-- spec/19, a link loss stops a session with error LINK.
theorem test_link_loss : ((wState.wf R.CSW_LINK F.CSW_LINK_UP 1).wf R.CSW_SESS F.CSW_SESS_STATE 3).cswLinkDown.regValue R.CSW_SESS
    = 0x51000000 := by decide

-- spec/20, a preamplifier fault escalated to a take-out.
def faultS : State := nx (execFaultLatch 30 2 false
  ((((wState.setReady .tollgate true).wf (R.TGT_SRC_CFG 30) F.TGT_SRC_CFG_PIN 1).wf (R.TGT_SRC_CFG 30)
     F.TGT_SRC_CFG_NOTIFY 1).wf
    (R.TGT_SRC_CFG 30) F.TGT_SRC_CFG_ESC 2))
theorem test_fault_latches : faultS.regValue R.TGT_STATUS_LO = 0x40000000 ∧ faultS.regValue R.TGT_STATUS_HI = 0x00200000 ∧
    faultS.regValue (R.TGT_CLASS 1) = 0x20000000 := by decide
theorem test_grace_expiry_acts : (nx (execGraceExpiry true faultS)).regValue (R.TGT_CNT 30) = 0x80000001 := by decide


-- spec/19, R428, R429: a frame of each type is well, so that every clause of the statement about received frames has its frame.
theorem test_frames_of_each_type_are_well : ∀ t ∈ [fyPlanAck, fyTenant, fyBegin, fyData, fyEnd, fyAbort, fyVerified, fyStop,
     fyFinish],
    frameOk 24 (frameBytes t 0 []) = true ∧ frameTyp (frameBytes t 0 []) = t := by set_option maxRecDepth 100000 in decide
theorem test_history_frame_is_well : frameOk 40 (frameBytes fyHistory 0 [(4, 0), (4, 8), (8, 7)]) = true ∧
    frameTyp (frameBytes fyHistory 0 [(4, 0), (4, 8), (8, 7)]) = fyHistory ∧
    frameAt (frameBytes fyHistory 0 [(4, 0), (4, 8), (8, 7)]) 0 4 + (40 - 32)
      ≤ frameAt (frameBytes fyHistory 0 [(4, 0), (4, 8), (8, 7)]) 4 4 := by set_option maxRecDepth 100000 in decide


/-! Witnesses: operands and states that meet the hypotheses of each statement, clause by clause. -/

theorem witness_EmptyQueueTicks : ∃ (s : State), s.pending = [] :=
  ⟨{ (wState) with pending := [] }, by decide⟩

theorem witness_EveryStepKeepsMemoryCanonical : ∃ (s : State) (t : State), MemoryCanonical s ∧ step s = .next t :=
  ⟨State.reset, { (State.reset) with now := (State.reset).now + 1 }, ⟨by unfold MemoryCanonical; decide, rfl⟩⟩

theorem witness_CommandsLeaveTheQueue : ∃ (c : Instr) (s : State) (t : State), exec c s = .next t :=
  ⟨.loopDisable .keystone 79 0, State.reset, State.reset, by rfl⟩

theorem witness_BurnedFusesStayBurned : ∃ (s : State) (t : State), step s = .next t :=
  ⟨State.reset, { (State.reset) with now := (State.reset).now + 1 }, by rfl⟩

theorem witness_QuarryWritesNeedReady : ∃ (s : State) (i : Initiator) (p : Priv) (width : Nat) (off : Nat) (v : Word),
     s.ready .quarry = false ∧ 0x1800000 ≤ off ∧ off < 0x1900000 :=
  ⟨(wState).setReady (.quarry) false, .port, .machine, 1, 26214399, 0, by decide⟩

theorem witness_ModeRequestersAreChecked : ∃ (s : State) (i : Initiator) (p : Priv) (v : Word), s.bls.held = false :=
  ⟨(wState).onBls fun x => { x with held := false }, .port, .machine, 0, by decide⟩

theorem witness_BedrockRegistersAreGuarded :
    (∃ (s : State) (i : Initiator) (p : Priv) (width : Nat) (off : Nat) (v : Word), i ≠ .port ∧ i ≠ .media ∧ 0x700000 ≤ off ∧
     off < 0x800000) ∧
    (∃ (s : State) (p : Priv) (off : Nat), s.bls.held = false ∧ p ≠ .user ∧ (findReg off).isSome = true ∧ off % 4 = 0 ∧
     0x700000 ≤ off ∧ off < 0x800000 ∧ off ≠ R.BED_BDP_DATA ∧ off ≠ R.BED_BDP_GO) ∧
    (∃ (s : State) (p : Priv) (width : Nat) (off : Nat), (off = R.BED_BDP_DATA ∨ off = R.BED_BDP_GO)) :=
  ⟨⟨wState, .keystone, .machine, 32, 0x7FFFFC, 0, by decide⟩,
   ⟨(wState).onBls fun x => { x with held := false }, .machine, 0x700000, by decide⟩,
   ⟨wState, .machine, 32, R.BED_BDP_GO, by decide⟩⟩

theorem witness_ReservationsFit :
    (∃ (s : State) (i : Initiator) (g : Fin 2) (v : Word) (n : Nat), (i = .port ∨ i = .media) ∧
     n = (if s.pers g.val = 3 then max 33 (fget v F.HP_CTX_MIN_MIN) else fget v F.HP_CTX_MIN_MIN)) ∧
    (∃ (s : State) (g : Fin 2), s.pers g.val = 0) ∧
    (∃ (s : State), s.pers 0 = 3) :=
  ⟨⟨(wState).wf (R.HP_CFG (1 : Fin 2).val) F.HP_CFG_PERSONALITY 3, .port, 1, 0, 33, by decide⟩,
   ⟨(wState).wf (R.HP_CFG ((1 : Fin 2).val)) F.HP_CFG_PERSONALITY 0, 1, by decide⟩,
   ⟨(wState).wf (R.HP_CFG (0)) F.HP_CFG_PERSONALITY 3, by decide⟩⟩

theorem witness_FaultsLatchAndClear :
    (∃ (s : State) (src : Fin 52) (cls : Fin 4), src.val ≠ 0 ∧ cls.val ∈ tgtClasses src.val ∧ s.ready .tollgate = true ∧
     s.noInjection) ∧
    (∃ (s : State) (i : Initiator) (n : Fin 32), isPair i = true ∧ s.latched n.val = true ∧ s.latchedClass n.val < 3 ∧
     spGetD 0 s.tgt.line n.val = 0) ∧
    (∃ (s : State) (i : Initiator) (n : Fin 32), s.fatalHeld n.val = true) :=
  ⟨⟨(wState).setReady (.tollgate) true, 50, 2, by (simp only [State.noInjection]; decide)⟩,
   ⟨((wState).wf (tgtStatusReg ((31 : Fin 32).val)) (tgtBit ((31 : Fin 32).val)) 1).wf (R.TGT_CLASS (((31 : Fin 32).val)
     / 16)) (tgtClassFld ((31 : Fin 32).val)) 2, .port, 31, by decide⟩,
   ⟨((wState).wf (tgtStatusReg ((31 : Fin 32).val)) (tgtBit ((31 : Fin 32).val)) 1).wf (R.TGT_CLASS (((31 : Fin 32).val)
     / 16)) (tgtClassFld ((31 : Fin 32).val)) 3, .port, 31, by decide⟩⟩

theorem witness_RecordsAreAppended : ∃ (s : State) (e : Event), s.crn.restored = true ∧ s.frozen = false ∧
     s.crn.reserveWait = false ∧ s.crn.lost = 0 ∧ s.crn.fb = false ∧ s.crn.log.length + 1 < logMax ∧ s.crn.next < s.crn.res :=
  ⟨((((((wState).onCrn fun x => { x with restored := true }).wf R.CRN_CTL F.CRN_CTL_FREEZE (b2n false)).onCrn fun x => { x with reserveWait := false }).onCrn fun x => { x with lost := 0 }).onCrn fun x => { x with fb := false }).onCrn fun x => { x with res := 1 }, { cls := 1, typ := 1, origin := 0, minutes := 0, subUs := 0, pcyc := 1, mode := 0, arg := 0 }, by decide⟩

theorem witness_WaymarkReports :
    (∃ (s : State) (i : Initiator) (v : Word), isPair i = true ∧ s.flag R.WAY_TEN_PURGE F.WAY_TEN_PURGE_BUSY = false ∧
     fget v F.WAY_TEN_PURGE_TENANT ≠ 0 ∧ fget v F.WAY_TEN_PURGE_TENANT ≤ 256 ∧
     s.flag (R.WAY_TEN_CFG (fget v F.WAY_TEN_PURGE_TENANT - 1)) F.WAY_TEN_CFG_ENABLE = false) ∧
    (∃ (s : State) (op : Nat) (kind : Nat) (unit : Nat) (r : Nat) (forced : Bool), r < 16) ∧
    (∃ (s : State) (b1 : Nat) (b2 : Nat), s.way.ckptRun = some (b1, b2) ∧ s.ckptWriters b1 b2 = true ∧
     s.ckptFits b1 b2 = true ∧ s.way.ckptReq = false) :=
  ⟨⟨((wState).wf R.WAY_TEN_PURGE F.WAY_TEN_PURGE_BUSY 0).wf (R.WAY_TEN_CFG (fget ((fset 0 F.WAY_TEN_PURGE_TENANT 1) : Word)
     F.WAY_TEN_PURGE_TENANT - 1)) F.WAY_TEN_CFG_ENABLE 0, .port, (fset 0 F.WAY_TEN_PURGE_TENANT 1), by decide⟩,
   ⟨wState, 1, 1, 1, 15, false, by decide⟩,
   ⟨(({ wState with kenul := some { wImage with surfaces := [{ surf := 0, wedge := false, rate := 60, tracks := 40, zones := [{ wZone with spt := 10, band := 2 }] }] } }).onWay fun x => { x with ckptRun := some ((0 : Nat), (1 : Nat)) }).onWay fun x => { x with ckptReq := false }, 0, 1, by set_option maxRecDepth 100000 in decide⟩⟩

theorem witness_PairsRestartAndStreamsAreWritten :
    (∃ (s : State) (p : Fin 2) (cause : Nat), cause < 8) ∧
    (∃ (s : State) (i : Initiator) (st : Fin 47) (v : Word), isPair i = true ∧ fget v F.TRN_SCTX_MODE < 3) ∧
    (∃ (s : State) (i : Initiator) (st : Fin 47), isPair i = true ∧ s.rf (R.TRN_SCTX st.val) F.TRN_SCTX_MODE < 3) :=
  ⟨⟨wState, 1, 7, by decide⟩,
   ⟨wState, .port, 46, 0, by decide⟩,
   ⟨wState, .port, 46, by decide⟩⟩

theorem witness_TransitionsComplete :
    (∃ (s : State) (m : Nat), m < 6) ∧
    (∃ (s : State), s.mode = mHaven ∧ s.sys.havenStep = 6 ∧ s.sys.pendingReset = none) ∧
    (∃ (s : State) (c : RstCause), s.mode = mHaven ∧ s.sys.havenStep = 6 ∧ s.sys.pendingReset = some c) ∧
    (∃ (s : State), s.sys.trans = .toService ∧ s.mode = mDormant ∧ s.mediaOk = true) :=
  ⟨⟨wState, 5, by decide⟩,
   ⟨(((wState).wf R.SYS_MODE F.SYS_MODE_MODE mHaven).onSys fun x => { x with havenStep := 6 }).onSys fun x => { x with pendingReset := none }, by decide⟩,
   ⟨(((wState).wf R.SYS_MODE F.SYS_MODE_MODE mHaven).onSys fun x => { x with havenStep := 6 }).onSys fun x => { x with pendingReset := some (.sideband : RstCause) }, .sideband, by decide⟩,
   ⟨(((wState).onSys fun x => { x with trans := .toService }).wf R.SYS_MODE F.SYS_MODE_MODE mDormant).wf (unitReg 2 0)
     (unitFld 0) uIn, by decide⟩⟩

theorem witness_BankIsJudged : ∃ (s : State) (st : Nat) (fall : Nat) (us : Nat),
     s.flag R.BLS_MEAS_CTL F.BLS_MEAS_CTL_BUSY = true ∧ 0 < fall ∧ 50 * us / fall ≤ 0xFFFF ∧ 20 * st ≤ 0xFFFF ∧
     10 * s.rf R.BLS_MEAS_CTL F.BLS_MEAS_CTL_CMIN_UF ≤ 50 * us / fall ∧ 20 * st ≤ s.rf R.BLS_MEAS_CTL F.BLS_MEAS_CTL_ESR_MAX :=
  ⟨(((wState).wf R.BLS_MEAS_CTL F.BLS_MEAS_CTL_BUSY 1).wf R.BLS_MEAS_CTL F.BLS_MEAS_CTL_CMIN_UF 5000).wf R.BLS_MEAS_CTL F.BLS_MEAS_CTL_ESR_MAX 20, 1, 1, 1000, by decide⟩

theorem witness_SequencerStateHolds :
    (∃ (s : State) (n : Nat) (r : Nat) (v : Word), n < s.str.length) ∧
    (∃ (s : State) (u : State) (n : Fin 12) (cause : Nat) (b : Nat), cause < 16 ∧
     u = s.setSeq n.val { s.seq n.val with handler := some cause } ∧ b = u.strRedirect n.val (Config.strEntry (eventOf cause)
     % 0x10000) ∧ u.strMapped n.val b = true) :=
  ⟨⟨wState, 11, 31, 0, by decide⟩,
   ⟨wState, (wState).setSeq 11 { (wState).seq 11 with handler := some 15 }, 11, 15, (Config.strEntry (eventOf 15) % 0x10000),
     ⟨by decide, rfl, rfl, by unfold State.strMapped; rw [Bool.or_eq_true]; left; exact decide_eq_true (Nat.mod_lt _ (by decide))⟩⟩⟩

theorem witness_CarriageChecksAndPaces :
    (∃ (s : State) (i : Initiator) (k : Fin 32), s.ready .carriage = true ∧ s.mayControl i (carChanRes k.val) = true ∧
     s.rf (R.CAR_CH_CTL k.val) F.CAR_CH_CTL_DW ≤ 5 ∧ s.rf (R.CAR_CH_CTL k.val) F.CAR_CH_CTL_SW ≤ 5 ∧
     s.rf (R.CAR_CH_CTL k.val) F.CAR_CH_CTL_BURST ≠ 0 ∧ s.rf (R.CAR_CH_CTL k.val) F.CAR_CH_CTL_BURST ≤ 64 ∧
     s.rf (R.CAR_CH_CTL k.val) F.CAR_CH_CTL_START = 0 ∧ s.carBusy k.val = true ∧ (s.carCh k.val).disabled = false) ∧
    (∃ (s : State) (k : Fin 32) (r : Nat), carRefusal (s.carDesc k.val) = some r) ∧
    (∃ (s : State) (k : Fin 32), carRefusal (s.carDesc k.val) = none) ∧
    (∃ (c : CarChan), swapUnit c.swap = 1) ∧
    (∃ (s : State) (l : Nat) (k : Fin 32), s.flag (R.CAR_CH_CTL k.val) F.CAR_CH_CTL_EN = true ∧ s.flag (R.CAR_CH_CTL k.val)
     F.CAR_CH_CTL_PACED = true ∧ s.rf (R.CAR_CH_CTL k.val) F.CAR_CH_CTL_REQ = l ∧ s.lineServes l k.val = true) :=
  ⟨⟨(((((wState).setReady (.carriage) true).wf (R.CAR_CH_CTL (31 : Fin 32).val)
     F.CAR_CH_CTL_BURST 1).wf (R.CAR_CH_CTL (31 : Fin 32).val)
     F.CAR_CH_CTL_START (0)).setCarBusy (31 : Fin 32).val true).onChan ((31 : Fin 32).val)
     fun x => { x with disabled := false }, .port, 31, by decide⟩,
   ⟨(wState).wf (R.CAR_CH_CTL 31) F.CAR_CH_CTL_BURST 1, 31, ckEmpty, by decide⟩,
   ⟨((wState).wf (R.CAR_CH_CTL 31) F.CAR_CH_CTL_BURST 1).wr (R.CAR_CH_COUNT 31) 1, 31, by decide⟩,
   ⟨{}, by decide⟩,
   ⟨(((wState).wf (R.CAR_CH_CTL (31 : Fin 32).val) F.CAR_CH_CTL_EN 1).wf (R.CAR_CH_CTL (31 : Fin 32).val)
     F.CAR_CH_CTL_PACED 1).wf (R.CAR_CH_CTL (31 : Fin 32).val) F.CAR_CH_CTL_REQ ((1 : Nat)), 1, 31, by decide⟩⟩

theorem witness_RegistersAreWritten :
    (∃ (s : State) (i : Initiator) (p : Priv) (width : Nat) (off : Nat) (v : Word),
     (width ≠ 32 ∨ off % 4 ≠ 0 ∨ p = .user ∨ s.reaches i true off = false ∨ findReg off = none)) ∧
    (∃ (s : State) (i : Initiator) (v : Word), (i = .port ∨ i = .media) ∧ s.bls.held = false) ∧
    (∃ (s : State) (i : Initiator) (m : Fin 8) (far : Bool) (v : Word), s.isEndpoint i m.val (sideOf far) = true ∧
     16 ≤ (s.inbound m.val (1 - sideOf far)).length) :=
  ⟨⟨wState, .port, .machine, 1, 1, 0, by decide⟩,
   ⟨(wState).onBls fun x => { x with held := false }, .port, 0, by decide⟩,
   ⟨((wState).wf (R.MPO_CFG ((7 : Fin 8).val))
     F.MPO_CFG_NEAR 1).onPair fun x => { x with boxes := [(2 * ((7 : Fin 8).val) + ((1 - sideOf (false : Bool))), List.replicate 16 0)] }, .port, 7, false, 0, by decide⟩⟩

theorem witness_CoresAndCrossingsAnswer :
    (∃ (s : State) (c : Core) (store : Bool) (width : Nat) (addr : Nat), inTowpath addr = true ∧ addr % width ≠ 0) ∧
    (∃ (s : State) (h : Fin 4) (store : Bool) (width : Nat) (addr : Nat), inTowpath addr = true ∧ 4 < width) ∧
    (∃ (s : State) (h : Fin 4) (k : AccessKind) (width : Nat) (addr : Nat) (v : Nat),
     (inMap addr width = false ∨ forbidden k addr = true)) ∧
    (∃ (s : State) (k : AccessKind) (width : Nat) (addr : Nat) (v : Nat), inKeyRom addr = false ∧ (inKeyRam addr = false ∧
     inTowpath addr = false ∨ k = .fetch)) ∧
    (∃ (s : State) (h : Fin 4) (op : AmoOp) (width : Nat) (addr : Nat) (v : Nat), s.noAtomics addr = true) ∧
    (∃ (s : State) (h : Fin 4) (op : AmoOp) (width : Nat) (addr : Nat) (v : Nat), s.noAtomics addr = false ∧ addr % width ≠ 0) ∧
    (∃ (s : State) (h : Fin 4) (n : Nat) (a : Nat) (v : Nat), 1 ≤ n ∧ inTcm a = true ∧ inTcm (a + (n - 1)) = true) ∧
    (∃ (s : State) (h : Fin 4) (a : Nat) (v : Nat), a % 4 = 0 ∧ inTcm a = true) ∧
    (∃ (s : State) (src : Island) (dst : Island) (tag : Nat), s.noInjection ∧ s.crossAnswers dst = true) ∧
    (∃ (s : State) (src : Island) (dst : Island) (tag : Nat), s.noInjection ∧ s.crossHolds dst = true) ∧
    (∃ (s : State) (src : Island) (dst : Island) (tag : Nat), s.noInjection ∧ s.crossAnswers dst = false ∧
     s.crossWaits src dst = true) ∧
    (∃ (s : State) (src : Island) (dst : Island) (data : Bool) (tag : Nat), s.noInjection ∧ (data = true →
     s.crossHolds dst = false) ∧ s.crossAnswers dst = false ∧ s.crossWaits src dst = false) ∧
    (∃ (s : State) (dst : Island), s.crossHolds dst = false) :=
  ⟨⟨wState, .keystone, false, 4, 0x40000002, by decide⟩,
   ⟨wState, 3, false, 8, 0x40000000, by decide⟩,
   ⟨wState, 3, .load, 8, 2 ^ 55, 1, by decide⟩,
   ⟨wState, .load, 1, 0x10010000, 1, by decide⟩,
   ⟨wState, 3, .swap, 4, 0, 1, by decide⟩,
   ⟨wState, 3, .swap, 4, tcmBase + 0x1FFFFE, 1, by decide⟩,
   ⟨wState, 3, 8, tcmBase + 0x1FFFF8, 1, by decide⟩,
   ⟨wState, 3, tcmBase + 0x1FFFFC, 1, by decide⟩,
   ⟨(wState).wf (R.STR_STAT 11) F.STR_STAT_RESTARTING 1, .bedrock, .strata 11, 1, by (simp only [State.noInjection]; decide)⟩,
   ⟨(wState).wf (R.STR_STAT 11) F.STR_STAT_RESTARTING 1, .bedrock, .strata 11, 1, by (simp only [State.noInjection]; decide)⟩,
   ⟨{ (wState) with crossHeld := [(.strata 10, .strata 11, 7)] }, .strata 10, .strata 11, 1,
     by (simp only [State.noInjection]; decide)⟩,
   ⟨wState, .bedrock, .bedrock, false, 1, by (simp only [State.noInjection]; decide)⟩,
   ⟨wState, .bedrock, by decide⟩⟩

theorem witness_SignpostAndMilepostSignal :
    (∃ (s : State) (i : Initiator) (p : Priv) (c : Fin 4), sigOwner i p c.val = true ∧ s.claimable c.val ≠ 0) ∧
    (∃ (s : State) (i : Initiator) (p : Priv) (c : Fin 4), sigOwner i p c.val = true ∧ s.claimable c.val = 0) ∧
    (∃ (s : State) (i : Initiator) (p : Priv) (c : Fin 4) (v : Word), sigOwner i p c.val = true) ∧
    (∃ (s : State) (i : Initiator) (m : Fin 8) (far : Bool) (v : Word), s.isEndpoint i m.val (sideOf far) = true ∧
     (s.inbound m.val (1 - sideOf far)).length < 16) ∧
    (∃ (s : State) (i : Initiator) (m : Fin 8) (far : Bool) (x : Nat) (rest : List Nat), s.isEndpoint i m.val (sideOf far)
     = true ∧ s.inbound m.val (sideOf far) = x :: rest) ∧
    (∃ (s : State) (i : Initiator) (m : Fin 8) (far : Bool) (v : Word), s.isEndpoint i m.val (sideOf far) = true ∧ v ≠ 0) ∧
    (∃ (s : State) (i : Initiator) (m : Fin 8) (far : Bool) (v : Word), s.isEndpoint i m.val (sideOf far) = true ∧
     fget v F.MPO_ACK_GO = 1 ∧ s.flag (R.MPO_REQ m.val (1 - sideOf far)) F.MPO_REQ_OUTSTANDING = true) ∧
    (∃ (s : State) (m : Fin 8) (far : Bool), s.mboxUsable m.val = true ∧ 2 * m.val + sideOf far ∉ s.pair.expired ∧
     spGetD 0 s.pair.due (2 * m.val + sideOf far) ≤ s.now ∧ s.flag (R.MPO_REQ m.val (sideOf far))
     F.MPO_REQ_OUTSTANDING = true) :=
  ⟨⟨(((wState).wr R.SYS_READY_CHG 1).wf (R.SIG_SRC 1) F.SIG_SRC_TARGET 8).wf (R.SIG_SRC 1) F.SIG_SRC_PRIO 7, .media,
     .machine, 3, by decide⟩,
   ⟨wState, .media, .machine, 3, by decide⟩,
   ⟨wState, .media, .machine, 3, 0, by decide⟩,
   ⟨(wState).wf (R.MPO_CFG ((7 : Fin 8).val)) F.MPO_CFG_NEAR 1, .port, 7, false, 0, by decide⟩,
   ⟨((wState).wf (R.MPO_CFG ((7 : Fin 8).val))
     F.MPO_CFG_NEAR 1).onPair fun x => { x with boxes := [(2 * ((7 : Fin 8).val) + ((sideOf (false : Bool))), (1 : Nat) :: ([] : List Nat))] }, .port, 7, false, 1, [], by decide⟩,
   ⟨(wState).wf (R.MPO_CFG ((7 : Fin 8).val)) F.MPO_CFG_NEAR 1, .port, 7, false, 1, by decide⟩,
   ⟨((wState).wf (R.MPO_CFG ((7 : Fin 8).val)) F.MPO_CFG_NEAR 1).wf (R.MPO_REQ (7 : Fin 8).val (1 - sideOf (false : Bool)))
     F.MPO_REQ_OUTSTANDING 1, .port, 7, false, (fset 0 F.MPO_ACK_GO 1), by decide⟩,
   ⟨(wState).wf (R.MPO_REQ (7 : Fin 8).val (sideOf (false : Bool))) F.MPO_REQ_OUTSTANDING 1, 7, false, by decide⟩⟩

theorem witness_MailboxesAndPairsAct :
    (∃ (s : State) (k : Fin 65536) (m : Nat) (ws : List Nat), s.mailboxTakes k.val 0 m ∧
     countOk (s.ctx k.val).boxCount = true ∧ (s.inbound m 0).length + (s.ctx k.val).boxCount ≤ 16) ∧
    (∃ (s : State) (k : Fin 65536) (m : Nat) (ws : List Nat), s.mailboxTakes k.val 0 m ∧
     countOk (s.ctx k.val).boxCount = true ∧ 16 < (s.inbound m 0).length + (s.ctx k.val).boxCount) ∧
    (∃ (s : State) (k : Fin 65536) (m : Nat) (q : List Nat), s.mailboxTakes k.val 1 m ∧
     countOk (s.ctx k.val).boxCount = true ∧ (s.inbound m 1).take (s.ctx k.val).boxCount = q) ∧
    (∃ (s : State) (k : Fin 65536) (m : Nat), s.mailboxTakes k.val 2 m) ∧
    (∃ (s : State) (k : Fin 65536) (m : Nat), s.mailboxTakes k.val 3 m) ∧
    (∃ (s : State) (k : Fin 65536) (m : Nat), s.mailboxTakes k.val 4 m) ∧
    (∃ (s : State) (p : Fin 2), s.pairRuns p.val = true ∧ s.noInjection) ∧
    (∃ (s : State) (p : Fin 2), s.pairRuns p.val = true ∧ s.beatMissed p.val = true ∧ (s.countRestart p.val).1 = false) ∧
    (∃ (s : State) (p : Fin 2), s.pairRuns p.val = true ∧ s.beatMissed p.val = true ∧ (s.countRestart p.val).1 = true) ∧
    (∃ (s : State) (v : Word), fget v F.KEY_PAIR_RST_PAIR = 2 ∧ 1 ∈ s.pair.released ∧ s.restarting 1 = false) ∧
    (∃ (s : State) (v : Word), fget v F.KEY_PAIR_RST_PAIR = 1 ∧ 0 ∈ s.pair.released ∧ s.restarting 0 = false) ∧
    (∃ (s : State) (p : Fin 2), s.restarting p.val = true ∧ vecOk (s.rstVec p.val) = true) ∧
    (∃ (s : State) (p : Fin 2), s.restarting p.val = true ∧ vecOk (s.rstVec p.val) = false) ∧
    (∃ (s : State) (i : Initiator) (v : Word), isPair i = true) ∧
    (∃ (s : State) (i : Initiator) (v : Word), isPair i = true ∧ fget v F.KEY_DEV_REQ_UNLOCK = 0x5EED) ∧
    (∃ (s : State) (p : Fin 2), s.stuckLong p.val = true) :=
  ⟨⟨(wHost).onCtx ((65535 : Fin 65536).val)
     fun x => { x with state := cNew, proto := 2, opcode := 0xE4, origin := 1, target := 256 }, 65535, 7, [5],
     by (simp only [State.mailboxTakes]; decide)⟩,
   ⟨((wHost).onPair fun x => { x with boxes := [(14, List.replicate 16 0)] }).onCtx ((65535 : Fin 65536).val)
     fun x => { x with state := cNew, proto := 2, opcode := 0xE4, origin := 1, target := 256 }, 65535, 7, [5],
     by (simp only [State.mailboxTakes]; decide)⟩,
   ⟨(wHost).onCtx ((65535 : Fin 65536).val)
     fun x => { x with state := cNew, proto := 2, opcode := 0xE4, origin := 1, target := 257 }, 65535, 7, [],
     by (simp only [State.mailboxTakes]; decide)⟩,
   ⟨(wHost).onCtx ((65535 : Fin 65536).val)
     fun x => { x with state := cNew, proto := 2, opcode := 0xE4, origin := 1, target := 258 }, 65535, 7,
     by (simp only [State.mailboxTakes]; decide)⟩,
   ⟨(wHost).onCtx ((65535 : Fin 65536).val)
     fun x => { x with state := cNew, proto := 2, opcode := 0xE4, origin := 1, target := 259 }, 65535, 7,
     by (simp only [State.mailboxTakes]; decide)⟩,
   ⟨(wHost).onCtx ((65535 : Fin 65536).val)
     fun x => { x with state := cNew, proto := 2, opcode := 0xE4, origin := 1, target := 260 }, 65535, 7,
     by (simp only [State.mailboxTakes]; decide)⟩,
   ⟨(wState).onPair fun x => { x with released := [0, 1] }, 1, by (simp only [State.noInjection]; decide)⟩,
   ⟨{ ((((wState).onPair fun x => { x with released := [0, 1] }).wf (R.KEY_PAIR_STAT (1 : Fin 2).val) F.KEY_PAIR_STAT_RESTARTING 0).wf R.KEY_HB_CFG F.KEY_HB_CFG_HB_MS 1) with now := 200000 }, 1, by decide⟩,
   ⟨({ ((((wState).onPair fun x => { x with released := [0, 1] }).wf (R.KEY_PAIR_STAT (1 : Fin 2).val) F.KEY_PAIR_STAT_RESTARTING 0).wf R.KEY_HB_CFG F.KEY_HB_CFG_HB_MS 1) with now := 200000 }).onPair fun x => { x with counted := [(1, [5, 4])] }, 1, by decide⟩,
   ⟨((wState).onPair fun x => { x with released := [0, 1] }).wf (R.KEY_PAIR_STAT (1)) F.KEY_PAIR_STAT_RESTARTING (b2n false),
     (fset 0 F.KEY_PAIR_RST_PAIR 2), by decide⟩,
   ⟨((wState).onPair fun x => { x with released := [0, 1] }).wf (R.KEY_PAIR_STAT (0)) F.KEY_PAIR_STAT_RESTARTING (b2n false),
     (fset 0 F.KEY_PAIR_RST_PAIR 1), by decide⟩,
   ⟨(wState).wf (R.KEY_PAIR_STAT ((1 : Fin 2).val)) F.KEY_PAIR_STAT_RESTARTING (b2n true), 1, by decide⟩,
   ⟨(((wState).wf (R.KEY_PAIR_STAT ((1 : Fin 2).val)) F.KEY_PAIR_STAT_RESTARTING (b2n true)).wr (R.KEY_RST_VEC_LO 1)
     0).wr (R.KEY_RST_VEC_HI 1) 0, 1, by decide⟩,
   ⟨wState, .port, 0, by decide⟩,
   ⟨wState, .port, (fset 0 F.KEY_DEV_REQ_UNLOCK 0x5EED), by decide⟩,
   ⟨{ (((((wState).onSys fun x => { x with settledAt := 0 }).wf R.SYS_MODE F.SYS_MODE_MODE mHaven).wf R.SYS_MODE F.SYS_MODE_PHASE 1).wf (R.KEY_PAIR_STAT 1) F.KEY_PAIR_STAT_RESTARTING 1) with now := 1000000000000 }, 1, by decide⟩⟩

theorem witness_TurnpikeTranslates :
    (∃ (s : State) (st : Fin 47) (a : Nat) (write : Bool) (k : Fin 65536), s.flag (R.TRN_SCTX st.val)
     F.TRN_SCTX_FAULTED = false ∧ s.rf (R.TRN_SCTX st.val) F.TRN_SCTX_MODE = trnBare ∧ a < 2 ^ 47 ∧ dmaRegion a = true) ∧
    (∃ (s : State) (st : Fin 47) (a : Nat) (write : Bool) (k : Fin 65536), s.flag (R.TRN_SCTX st.val)
     F.TRN_SCTX_FAULTED = true) ∧
    (∃ (s : State) (st : Fin 47) (a : Nat) (write : Bool) (k : Fin 65536), s.flag (R.TRN_SCTX st.val)
     F.TRN_SCTX_FAULTED = false ∧ s.rf (R.TRN_SCTX st.val) F.TRN_SCTX_MODE = trnOff) ∧
    (∃ (s : State) (st : Fin 47) (a : Nat) (write : Bool) (k : Fin 65536), s.flag (R.TRN_SCTX st.val)
     F.TRN_SCTX_FAULTED = false ∧ s.rf (R.TRN_SCTX st.val) F.TRN_SCTX_MODE = trnBare ∧ 2 ^ 47 ≤ a % 2 ^ 48) ∧
    (∃ (s : State) (i : Initiator) (st : Fin 47) (v : Word), isPair i = true ∧ fget (fset v F.TRN_SCTX_FAULTED 0)
     F.TRN_SCTX_MODE ≠ 3 ∧ st.val < 32) ∧
    (∃ (s : State) (i : Initiator) (st : Fin 47), isPair i = true ∧ fget (fset (s.rd (R.TRN_SCTX st.val))
     F.TRN_SCTX_FAULTED 1) F.TRN_SCTX_MODE ≠ 3 ∧ st.val < 32) ∧
    (∃ (s : State) (i : Initiator), isPair i = true ∧ s.flag R.TRN_INV_STAT F.TRN_INV_STAT_BUSY = false) ∧
    (∃ (s : State) (i : Initiator) (st : Fin 64), isPair i = true ∧ s.flag R.TRN_INV_STAT F.TRN_INV_STAT_BUSY = false) ∧
    (∃ (s : State) (i : Initiator) (st : Fin 64), isPair i = true ∧ s.flag R.TRN_INV_STAT F.TRN_INV_STAT_BUSY = false) ∧
    (∃ (s : State), s.flag R.TRN_INV_STAT F.TRN_INV_STAT_BUSY = true) ∧
    (∃ (s : State) (i : Initiator), isPair i = true) :=
  ⟨⟨((wState).wf (R.TRN_SCTX (46 : Fin 47).val) F.TRN_SCTX_FAULTED 0).wf (R.TRN_SCTX (46 : Fin 47).val)
     F.TRN_SCTX_MODE (trnBare), 46, tcmBase, false, 65535, by decide⟩,
   ⟨(wState).wf (R.TRN_SCTX (46 : Fin 47).val) F.TRN_SCTX_FAULTED 1, 46, 1, false, 65535, by decide⟩,
   ⟨((wState).wf (R.TRN_SCTX (46 : Fin 47).val) F.TRN_SCTX_FAULTED 0).wf (R.TRN_SCTX (46 : Fin 47).val)
     F.TRN_SCTX_MODE (trnOff), 46, 1, false, 65535, by decide⟩,
   ⟨((wState).wf (R.TRN_SCTX (46 : Fin 47).val) F.TRN_SCTX_FAULTED 0).wf (R.TRN_SCTX (46 : Fin 47).val)
     F.TRN_SCTX_MODE (trnBare), 46, 2 ^ 47, false, 65535, by decide⟩,
   ⟨wState, .port, 31, 0, by decide⟩,
   ⟨wState, .port, 31, by decide⟩,
   ⟨(wState).wf R.TRN_INV_STAT F.TRN_INV_STAT_BUSY 0, .port, by decide⟩,
   ⟨(wState).wf R.TRN_INV_STAT F.TRN_INV_STAT_BUSY 0, .port, 63, by decide⟩,
   ⟨(wState).wf R.TRN_INV_STAT F.TRN_INV_STAT_BUSY 0, .port, 63, by decide⟩,
   ⟨(wState).wf R.TRN_INV_STAT F.TRN_INV_STAT_BUSY 1, by decide⟩,
   ⟨wState, .port, by decide⟩⟩

theorem witness_TollgateRuns :
    (∃ (s : State) (src : Fin 52) (cls : Fin 4), src.val ≠ 0 ∧ cls.val ∈ tgtClasses src.val ∧ s.ready .tollgate = true ∧
     s.noInjection) ∧
    (∃ (s : State) (src : Fin 52) (cls : Fin 4), src.val ≠ 0 ∧ cls.val ∈ tgtClasses src.val) ∧
    (∃ (s : State) (src : Fin 52) (cls : Fin 4), cls.val ≠ 0 ∧ cls.val ∉ tgtClasses src.val) ∧
    (∃ (s : State), s.flag R.TGT_INJ_STAT F.TGT_INJ_STAT_ARMED = true ∧ s.rf R.TGT_INJ_STAT F.TGT_INJ_STAT_SRC = 1 ∧
     s.tgt.injBits = 1) ∧
    (∃ (s : State) (i : Initiator) (hi : Bool) (v : Word), isPair i = true ∧ (∀ n ∈ statusBits hi v, s.latched n = true →
     s.latchedClass n ≠ 3)) ∧
    (∃ (s : State), s.flag R.TGT_GRACE_STAT F.TGT_GRACE_STAT_RUNNING = true) ∧
    (∃ (s : State), s.flag R.TGT_GRACE_STAT F.TGT_GRACE_STAT_RUNNING = true ∧ s.pendingList = []) ∧
    (∃ (s : State) (n : Nat) (l : List Nat), s.tgt.heldTakeouts = n :: l ∧
     s.flag R.WAY_UNIT_STAT F.WAY_UNIT_STAT_BUSY = false) ∧
    (∃ (s : State), s.tgt.expired = true ∧ s.pendingList = []) ∧
    (∃ (s : State), s.noInjection) ∧
    (∃ (s : State), s.noInjection ∧ s.ready .tollgate = true) ∧
    (∃ (s : State), s.flag R.TGT_PIN F.TGT_PIN_PULSING = true) ∧
    (∃ (s : State) (i : Initiator) (v : Word), isPair i = true ∧ fget v F.TGT_PIN_HOLD = 0 ∧
     s.flag R.TGT_PIN F.TGT_PIN_PULSING = false) ∧
    (∃ (s : State) (i : Initiator) (v : Word), isPair i = true ∧ fget v F.TGT_PIN_HOLD = 1) ∧
    (∃ (s : State), s.tgt.kclr = []) ∧
    (∃ (s : State) (n : Nat), s.tgt.kclr = [n]) ∧
    (∃ (s : State), s.ready .tollgate = false ∧ s.tgt.early = []) ∧
    (∃ (s : State) (i : Initiator) (count : Nat) (src : Fin 64), isPair i = true ∧ src.val ∈ injEcc ∧ 1 ≤ count ∧
     count ≤ 255 ∧ s.noInjection) ∧
    (∃ (s : State) (i : Initiator), isPair i = true) :=
  ⟨⟨(wState).setReady (.tollgate) true, 50, 2, by (simp only [State.noInjection]; decide)⟩,
   ⟨wState, 50, 2, by decide⟩,
   ⟨wState, 51, 3, by decide⟩,
   ⟨(((wState).wf R.TGT_INJ_STAT F.TGT_INJ_STAT_ARMED 1).wf R.TGT_INJ_STAT F.TGT_INJ_STAT_SRC (1)).onTgt fun x => { x with injBits := 1 }, by decide⟩,
   ⟨wState, .port, false, 0, by decide⟩,
   ⟨(wState).wf R.TGT_GRACE_STAT F.TGT_GRACE_STAT_RUNNING 1, by decide⟩,
   ⟨(wState).wf R.TGT_GRACE_STAT F.TGT_GRACE_STAT_RUNNING 1, by decide⟩,
   ⟨((wState).onTgt fun x => { x with heldTakeouts := (1 : Nat) :: ([] : List Nat) }).wf R.WAY_UNIT_STAT F.WAY_UNIT_STAT_BUSY 0, 1, [], by decide⟩,
   ⟨(wState).onTgt fun x => { x with expired := true }, by decide⟩,
   ⟨wState, by (simp only [State.noInjection]; decide)⟩,
   ⟨(wState).setReady (.tollgate) true, by (simp only [State.noInjection]; decide)⟩,
   ⟨(wState).wf R.TGT_PIN F.TGT_PIN_PULSING 1, by decide⟩,
   ⟨(wState).wf R.TGT_PIN F.TGT_PIN_PULSING 0, .port, (fset 0 F.TGT_PIN_HOLD 0), by decide⟩,
   ⟨wState, .port, (fset 0 F.TGT_PIN_HOLD 1), by decide⟩,
   ⟨(wState).onTgt fun x => { x with kclr := [] }, by decide⟩,
   ⟨(wState).onTgt fun x => { x with kclr := [(1 : Nat)] }, 1, by decide⟩,
   ⟨((wState).setReady (.tollgate) false).onTgt fun x => { x with early := [] }, by decide⟩,
   ⟨wState, .port, 255, 4, by (simp only [State.noInjection]; decide)⟩,
   ⟨wState, .port, by decide⟩⟩

theorem witness_CairnRuns :
    (∃ (s : State), s.crn.restored = false ∧ s.ready .tollgate = true ∧ s.crn.flash = [] ∧ s.crn.hold = [] ∧ s.crn.pcyc = 1 ∧
     s.crn.minutes = 0) ∧
    (∃ (s : State) (i : Initiator) (v : Word), isPair i = true) ∧
    (∃ (s : State) (i : Initiator) (v : Word), isPair i = true ∧ s.frozen = true) ∧
    (∃ (s : State), s.frozen = true) ∧
    (∃ (s : State), s.crn.writing = none ∧ s.onHoldup = false ∧ s.patchQueue = [] ∧ s.crn.reserveWait = false) ∧
    (∃ (s : State) (i : Initiator) (v : Word), isPair i = true ∧ fget v F.CRN_PERSIST_GO = 1 ∧ s.crn.writing = none) ∧
    (∃ (s : State) (i : Initiator) (v : Word) (n : Nat), isPair i = true ∧ fget v F.CRN_PERSIST_GO = 1 ∧
     s.crn.writing = some (.records n)) ∧
    (∃ (s : State) (n : Nat), s.crn.writing = some (.records n)) ∧
    (∃ (s : State) (n : Nat), s.crn.writing = some (.records n)) ∧
    (∃ (s : State) (i : Initiator) (v : Word), isPair i = true ∧ s.frozen = false) ∧
    (∃ (s : State) (i : Initiator) (v : Word), isPair i = true ∧ s.crn.fwStage.length < 9) ∧
    (∃ (s : State) (i : Initiator) (v : Word), isPair i = true ∧ s.crn.fwStage.length = 9 ∧ 0x8000 ≤ fget v F.CRN_FW_GO_TYPE) :=
  ⟨⟨((((((wState).onCrn fun x => { x with restored := false }).setReady (.tollgate)
     true).onCrn fun x => { x with flash := [] }).onCrn fun x => { x with hold := [] }).onCrn fun x => { x with pcyc := 1 }).onCrn fun x => { x with minutes := 0 }, by decide⟩,
   ⟨wState, .port, 0, by decide⟩,
   ⟨(wState).wf R.CRN_CTL F.CRN_CTL_FREEZE (b2n true), .port, 0, by decide⟩,
   ⟨(wState).wf R.CRN_CTL F.CRN_CTL_FREEZE (b2n true), by decide⟩,
   ⟨({ (((wState).onCrn fun x => { x with writing := none }).wf R.BLS_STAT F.BLS_STAT_ON_HOLDUP (b2n false)) with patchQueue := [] }).onCrn fun x => { x with reserveWait := false }, by decide⟩,
   ⟨(wState).onCrn fun x => { x with writing := none }, .port, (fset 0 F.CRN_PERSIST_GO 1), by decide⟩,
   ⟨(wState).onCrn fun x => { x with writing := some (.records (1 : Nat)) }, .port, (fset 0 F.CRN_PERSIST_GO 1), 1, by decide⟩,
   ⟨(wState).onCrn fun x => { x with writing := some (.records (1 : Nat)) }, 1, by decide⟩,
   ⟨(wState).onCrn fun x => { x with writing := some (.records (1 : Nat)) }, 1, by decide⟩,
   ⟨(wState).wf R.CRN_CTL F.CRN_CTL_FREEZE (b2n false), .port, 0, by decide⟩,
   ⟨(wState).onCrn fun x => { x with fwStage := List.replicate 8 0 }, .port, 0, by decide⟩,
   ⟨(wState).onCrn fun x => { x with fwStage := List.replicate 9 0 }, .port, (fset 0 F.CRN_FW_GO_TYPE 0x8000), by decide⟩⟩

theorem witness_ResetCausesReset :
    (∃ (s : State) (b : Fin 4) (a : Fin 4), s.bls.held = false) ∧
    (∃ (s : State) (b : Fin 4) (a : Fin 4), s.bls.held = false) ∧
    (∃ (s : State) (b : Fin 4) (a : Fin 4), s.sys.rstWait = true) ∧
    (∃ (s : State) (ns : Nat), 1000 ≤ ns) ∧
    (∃ (s : State) (ns : Nat), ns < 200) ∧
    (∃ (s : State) (v : Word), fget v F.KEY_DEV_RST_UNLOCK = 0x5EED) ∧
    (∃ (s : State), s.pair.kick + kwdTicks ≤ s.now) ∧
    (∃ (s : State), s.now < s.pair.kick + kwdTicks) ∧
    (∃ (s : State) (c : RstCause), s.sys.pendingReset = some c) ∧
    (∃ (s : State) (c : RstCause), s.sys.pendingReset = none) :=
  ⟨⟨(wState).onBls fun x => { x with held := false }, 3, 3, by decide⟩,
   ⟨(wState).onBls fun x => { x with held := false }, 3, 3, by decide⟩,
   ⟨(wState).onSys fun x => { x with rstWait := true }, 3, 3, by decide⟩,
   ⟨wState, 1000, by decide⟩,
   ⟨wState, 199, by decide⟩,
   ⟨wState, (fset 0 F.KEY_DEV_RST_UNLOCK 0x5EED), by decide⟩,
   ⟨{ (wState) with now := 4500000 }, by decide⟩,
   ⟨wState, by decide⟩,
   ⟨(wState).onSys fun x => { x with pendingReset := some (.sideband : RstCause) }, .sideband, by decide⟩,
   ⟨(wState).onSys fun x => { x with pendingReset := none }, .sideband, by decide⟩⟩

theorem witness_ModesChange :
    (∃ (s : State) (i : Initiator), isPair i = true ∧ s.flag R.SYS_MODE F.SYS_MODE_BUSY = false ∧ s.mode = mBedding ∧
     s.ready .media = true) ∧
    (∃ (s : State) (i : Initiator), isPair i = true ∧ s.flag R.SYS_MODE F.SYS_MODE_BUSY = false ∧ s.mode = mService) ∧
    (∃ (s : State) (i : Initiator), isPair i = true ∧ s.flag R.SYS_MODE F.SYS_MODE_BUSY = false ∧ s.mode = mSurvey) ∧
    (∃ (s : State) (i : Initiator), isPair i = true ∧ s.flag R.SYS_MODE F.SYS_MODE_BUSY = false ∧ s.mode = mService ∧
     s.ready .causeway = true ∧ s.cswPeer = true ∧ (s.acceptMode.modeDone mMigration).cswRole ≠ 1) ∧
    (∃ (s : State) (i : Initiator), isPair i = true ∧ s.flag R.SYS_MODE F.SYS_MODE_BUSY = false ∧ s.mode = mHaven ∧
     s.someClass 3 = false ∧ s.flag R.BLS_STAT F.BLS_STAT_MAIN_OK = true ∧ s.rf R.SYS_MODE F.SYS_MODE_HAVEN_CAUSE ≠ hvReset) ∧
    (∃ (s : State) (i : Initiator), isPair i = true ∧ s.flag R.SYS_MODE F.SYS_MODE_BUSY = false ∧ s.mode = mService) ∧
    (∃ (s : State) (i : Initiator), isPair i = true ∧ s.mode ≠ mHaven ∧ s.flag R.SYS_MODE F.SYS_MODE_BUSY = false) ∧
    (∃ (s : State) (i : Initiator) (p : Priv), i = .keystone ∧ s.mode ≠ mHaven ∧ s.flag R.SYS_MODE F.SYS_MODE_BUSY = true) ∧
    (∃ (s : State) (i : Initiator), isPair i = true ∧ s.flag R.SYS_MODE F.SYS_MODE_BUSY = true) ∧
    (∃ (s : State) (i : Initiator), isPair i = true ∧ s.flag R.SYS_MODE F.SYS_MODE_BUSY = false ∧ s.mode = mHaven) :=
  ⟨⟨(((wState).wf R.SYS_MODE F.SYS_MODE_BUSY 0).wf R.SYS_MODE F.SYS_MODE_MODE mBedding).setReady (.media) true, .port,
     by decide⟩,
   ⟨((wState).wf R.SYS_MODE F.SYS_MODE_BUSY 0).wf R.SYS_MODE F.SYS_MODE_MODE mService, .port, by decide⟩,
   ⟨((wState).wf R.SYS_MODE F.SYS_MODE_BUSY 0).wf R.SYS_MODE F.SYS_MODE_MODE mSurvey, .port, by decide⟩,
   ⟨((((wState).wf R.SYS_MODE F.SYS_MODE_BUSY 0).wf R.SYS_MODE F.SYS_MODE_MODE mService).setReady (.causeway)
     true).wf R.CSW_LINK F.CSW_LINK_PEER (b2n true), .port, by decide⟩,
   ⟨(((wState).wf R.SYS_MODE F.SYS_MODE_BUSY 0).wf R.SYS_MODE F.SYS_MODE_MODE mHaven).wf R.BLS_STAT F.BLS_STAT_MAIN_OK 1,
     .port, by decide⟩,
   ⟨((wState).wf R.SYS_MODE F.SYS_MODE_BUSY 0).wf R.SYS_MODE F.SYS_MODE_MODE mService, .port, by decide⟩,
   ⟨(wState).wf R.SYS_MODE F.SYS_MODE_BUSY 0, .port, by decide⟩,
   ⟨(wState).wf R.SYS_MODE F.SYS_MODE_BUSY 1, .keystone, .machine, by decide⟩,
   ⟨(wState).wf R.SYS_MODE F.SYS_MODE_BUSY 1, .port, by decide⟩,
   ⟨((wState).wf R.SYS_MODE F.SYS_MODE_BUSY 0).wf R.SYS_MODE F.SYS_MODE_MODE mHaven, .port, by decide⟩⟩

theorem witness_TransitionsAdvance :
    (∃ (s : State), s.sys.trans = .dormant 2 ∧ (s.cmd.ctxs.any fun q => inFlight q.2) = false) ∧
    (∃ (s : State), s.sys.trans = .dormant 3 ∧ s.ackedCtxs = []) ∧
    (∃ (s : State), s.sys.trans = .dormant 4 ∧ s.allParked = true) ∧
    (∃ (s : State), s.sys.trans = .dormant 5 ∧ s.milSt ≠ miStopping ∧ s.spinning = false) ∧
    (∃ (s : State), s.mode = mDormant ∧ s.sys.wakeTimer = true ∧ s.rf R.SYS_MODE F.SYS_MODE_PHASE = 0 ∧ s.sys.trans = .none) ∧
    (∃ (s : State), s.mode = mDormant ∧ s.rf R.SYS_MODE F.SYS_MODE_PHASE = 1 ∧ s.sys.trans = .none) ∧
    (∃ (s : State), s.sys.trans = .toService ∧ s.mediaOk = true ∧ s.ready .media = true) ∧
    (∃ (s : State), s.sys.heldData = true ∧ s.mode = mBedding ∧ s.ready .waymark = true ∧ s.someAct = true ∧
     (s.writeHeld (byAdmit s.ackedCtxs)).ackedCtxs = []) ∧
    (∃ (s : State) (a : Fin 4), s.actSt a.val = aUnloading ∧ stallRun ≤ (s.act a.val).stall) ∧
    (∃ (s : State) (a : Fin 4), s.actSt a.val = aUnloading) ∧
    (∃ (s : State) (a : Fin 4) (mv : List Int) (ma : List Int), s.actSt a.val ≠ aLoading ∧ s.actSt a.val ≠ aUnloading) ∧
    (∃ (s : State), s.milSt = miRun ∧ s.calmFor (s.rf R.MIL_REG F.MIL_REG_REG_MS) = true ∧
     (s.setMillstone true).mode ≠ mDormant) ∧
    (∃ (s : State), s.milSt = miStopping ∧ s.mil.phase2 = true ∧ s.calmFor 500 = true ∧ (s.milEnter miIdle).mode ≠ mDormant) ∧
    (∃ (s : State), s.milSt = miCoast ∧ s.calmFor 1000 = true) :=
  ⟨⟨(wState).onSys fun x => { x with trans := .dormant 2 }, by decide⟩,
   ⟨(wState).onSys fun x => { x with trans := .dormant 3 }, by decide⟩,
   ⟨(wState).onSys fun x => { x with trans := .dormant 4 }, by decide⟩,
   ⟨(wState).onSys fun x => { x with trans := .dormant 5 }, by decide⟩,
   ⟨((((wState).wf R.SYS_MODE F.SYS_MODE_MODE mDormant).onSys fun x => { x with wakeTimer := true }).wf R.SYS_MODE F.SYS_MODE_PHASE (0)).onSys fun x => { x with trans := .none }, by decide⟩,
   ⟨(((wState).wf R.SYS_MODE F.SYS_MODE_MODE mDormant).wf R.SYS_MODE F.SYS_MODE_PHASE (1)).onSys fun x => { x with trans := .none }, by decide⟩,
   ⟨(((wState).onSys fun x => { x with trans := .toService }).setReady (.media) true).wf (unitReg 2 0) (unitFld 0) uIn,
     by decide⟩,
   ⟨((((wState).onSys fun x => { x with heldData := true }).wf R.SYS_MODE F.SYS_MODE_MODE mBedding).setReady (.waymark)
     true).wf (unitReg 2 0) (unitFld 0) uIn, by decide⟩,
   ⟨((wState).wf (R.ACT_STATE ((3 : Fin 4).val)) F.ACT_STATE_STATE aUnloading).onAct ((3 : Fin 4).val)
     fun x => { x with stall := 250 }, 3, by decide⟩,
   ⟨(wState).wf (R.ACT_STATE ((3 : Fin 4).val)) F.ACT_STATE_STATE aUnloading, 3, by decide⟩,
   ⟨wState, 3, [], [], by decide⟩,
   ⟨((wState).wf R.MIL_STAT F.MIL_STAT_STATE miRun).onMil fun x => { x with calm := 1000000000 },
     by set_option maxRecDepth 100000 in decide⟩,
   ⟨(((wState).wf R.MIL_STAT F.MIL_STAT_STATE miStopping).onMil fun x => { x with phase2 := true }).onMil fun x => { x with calm := 1000000000 }, by set_option maxRecDepth 100000 in decide⟩,
   ⟨((wState).wf R.MIL_STAT F.MIL_STAT_STATE miCoast).onMil fun x => { x with calm := 1000000000 },
     by set_option maxRecDepth 100000 in decide⟩⟩

theorem witness_BringUpAndFuses :
    (∃ (s : State) (img : Nat), s.ready .bedrock = true ∧ s.sys.bootGaveUp = false ∧ s.slotA = none ∧ s.slotB = none) ∧
    (∃ (s : State) (b : Bool) (img : Nat) (e : Bool), s.ready .bedrock = false) ∧
    (∃ (s : State) (a : SlotResult) (b : SlotResult) (slot : Nat) (k : Kenul), s.slotA = some a ∧ s.slotB = some b ∧
     s.kenul = none ∧ chosenSlot a b = some (slot, k)) ∧
    (∃ (s : State) (k : Kenul) (img : Nat), s.kenul = some k ∧ s.rf R.SYS_BOOT_STATUS F.SYS_BOOT_STATUS_LOADER = 1) ∧
    (∃ (s : State) (k : Kenul) (img : Nat), s.kenul = some k ∧ s.rf R.SYS_BOOT_STATUS F.SYS_BOOT_STATUS_LOADER = 1) ∧
    (∃ (s : State) (slot : Fin 4) (mv : Nat), s.mode = mBedding ∧ s.sys.fuseOp = none) ∧
    (∃ (s : State) (slot : Fin 4) (mv : Nat), s.mode = mBedding ∧ s.sys.fuseOp = none) ∧
    (∃ (s : State) (o : FuseOp) (m : Bool), s.sys.fuseOp = some o) :=
  ⟨⟨{ ({ (((wState).setReady (.bedrock) true).onSys fun x => { x with bootGaveUp := false }) with slotA := none }) with slotB := none }, 1, by decide⟩,
   ⟨(wState).setReady (.bedrock) false, false, 1, false, by decide⟩,
   ⟨{ ({ ({ (wState) with slotA := some (.pass wImage : SlotResult) }) with slotB := some (.fail 1 0 : SlotResult) }) with kenul := none }, .pass wImage, .fail 1 0, 0, wImage, ⟨rfl, rfl, rfl, rfl⟩⟩,
   ⟨({ (wState) with kenul := some (wImage : Kenul) }).wf R.SYS_BOOT_STATUS F.SYS_BOOT_STATUS_LOADER (1), wImage, 0, ⟨rfl,
     by decide⟩⟩,
   ⟨({ (wState) with kenul := some (wImage : Kenul) }).wf R.SYS_BOOT_STATUS F.SYS_BOOT_STATUS_LOADER (1), wImage, 0, ⟨rfl,
     by decide⟩⟩,
   ⟨((wState).wf R.SYS_MODE F.SYS_MODE_MODE mBedding).onSys fun x => { x with fuseOp := none }, 3, 1, by decide⟩,
   ⟨((wState).wf R.SYS_MODE F.SYS_MODE_MODE mBedding).onSys fun x => { x with fuseOp := none }, 3, 1, by decide⟩,
   ⟨(wState).onSys fun x => { x with fuseOp := some ({ slot := 3, program := true, refused := none, hash := 1 } : FuseOp) },
     { slot := 3, program := true, refused := none, hash := 1 }, false, by decide⟩⟩

theorem witness_LinksComeAndGo :
    (∃ (s : State) (g : Fin 2) (rate : Nat) (width : Nat) (partner : Nat), (s.hp g.val).link ≠ .disabled ∧
     s.flag (R.HP_LINK g.val) F.HP_LINK_UP = false ∧ s.pers g.val ≠ 2) ∧
    (∃ (s : State) (g : Fin 2) (port : Fin 2), (s.hp g.val).link = .up ∧ (s.portDown g.val port.val).flag (R.HP_LINK g.val)
     F.HP_LINK_UP = false ∧ (s.portDown g.val port.val).flag (R.HP_LINK g.val) F.HP_LINK_UP1 = false) ∧
    (∃ (s : State) (i : Initiator) (g : Fin 2) (v : Word), isPair i = true ∧ fget v F.HP_LINK_CTL_ENABLE = 0) ∧
    (∃ (s : State) (g : Fin 2), s.ready (hpReady g.val) = true ∧ s.pers g.val ≠ 0 ∧
     ((s.hostSideReset g.val).hp g.val).link ≠ .up) ∧
    (∃ (s : State) (g : Fin 2), s.pers g.val = 1 ∧ s.ready (hpReady g.val) = true) :=
  ⟨⟨(((wState).wf (R.HP_LINK (1 : Fin 2).val) F.HP_LINK_UP 0).wf (R.HP_CFG (1 : Fin 2).val)
     F.HP_CFG_PERSONALITY 1).onHp ((1 : Fin 2).val) fun x => { x with link := .training }, 1, 1, 1, 1, by decide⟩,
   ⟨(wState).onHp ((1 : Fin 2).val) fun x => { x with link := .up }, 1, 1, by decide⟩,
   ⟨wState, .port, 1, (fset 0 F.HP_LINK_CTL_ENABLE 0), by decide⟩,
   ⟨((wState).setReady (hpReady (1 : Fin 2).val) true).wf (R.HP_CFG (1 : Fin 2).val) F.HP_CFG_PERSONALITY 1, 1, by decide⟩,
   ⟨((wState).wf (R.HP_CFG ((1 : Fin 2).val)) F.HP_CFG_PERSONALITY 1).setReady (hpReady (1 : Fin 2).val) true, 1, by decide⟩⟩

theorem witness_CommandsComeIn :
    (∃ (s : State) (g : Fin 2) (q : Nat) (x : SubQueue) (v : Word), s.pers g.val = 1 ∧ s.subQueue g.val q = some x ∧
     q ≤ 1023 ∧ v.toNat < x.size) ∧
    (∃ (s : State) (g : Fin 2) (q : Nat) (entry : Nat) (x : SubQueue), s.subQueue g.val q = some x ∧ s.pers g.val = 1 ∧
     (s.hp g.val).link = .up ∧ (s.hp g.val).stalled = false ∧ s.nextSq g.val = some q ∧ s.groupMayTake g.val = true ∧
     nvmeRefusal q entry = none) ∧
    (∃ (s : State) (g : Fin 2) (q : Nat) (entry : Nat) (st : Nat) (x : SubQueue), s.subQueue g.val q = some x ∧
     s.pers g.val = 1 ∧ (s.hp g.val).link = .up ∧ (s.hp g.val).stalled = false ∧ s.nextSq g.val = some q ∧
     s.groupMayTake g.val = true ∧ nvmeRefusal q entry = some st) ∧
    (∃ (s : State) (g : Fin 2) (q : Nat) (entry : Nat) (x : SubQueue), s.subQueue g.val q = some x ∧ s.pers g.val = 1 ∧
     (s.hp g.val).link = .up ∧ (s.hp g.val).stalled = false ∧ s.nextSq g.val = some q ∧ s.groupMayTake g.val = false) ∧
    (∃ (s : State) (g : Fin 2), (s.hp g.val).stalled = true ∧ s.groupMayTake g.val = true) ∧
    (∃ (s : State) (g : Fin 2) (lun : Nat) (tag : Nat) (space : Nat) (attr : TaskAttr) (cdb : Nat), s.pers g.val = 2 ∧
     s.flag (R.HP_LINK g.val) F.HP_LINK_UP = true ∧ rdLe cdb 0 1 ≠ 0x12 ∧ s.groupMayTake g.val = true ∧ sasRefusal cdb = none) ∧
    (∃ (s : State) (g : Fin 2) (lun : Nat) (tag : Nat) (space : Nat) (st : Nat) (attr : TaskAttr) (cdb : Nat),
     s.pers g.val = 2 ∧ s.flag (R.HP_LINK g.val) F.HP_LINK_UP = true ∧ rdLe cdb 0 1 ≠ 0x12 ∧ s.groupMayTake g.val = true ∧
     sasRefusal cdb = some st) ∧
    (∃ (s : State) (g : Fin 2) (lun : Nat) (tag : Nat) (space : Nat) (attr : TaskAttr) (cdb : Nat), s.pers g.val = 2 ∧
     s.flag (R.HP_LINK g.val) F.HP_LINK_UP = true ∧ rdLe cdb 0 1 ≠ 0x12 ∧ s.groupMayTake g.val = false) ∧
    (∃ (s : State) (g : Fin 2) (port : Fin 2) (lun : Nat) (tag : Nat) (space : Nat), s.pers g.val = 2) ∧
    (∃ (s : State) (c : HostCmd), s.pers 0 = 3 ∧ (s.hp 0).link = .up ∧ s.groupMayTake 0 = true ∧ c.opcode ≠ 0xEC ∧
     c.opcode ∈ sataOps) ∧
    (∃ (s : State) (n : Fin 32) (c : HostCmd), s.pers 0 = 3 ∧ (s.hp 0).link = .up ∧ s.groupMayTake 0 = true) ∧
    (∃ (s : State) (n : Fin 32) (c : HostCmd), s.pers 0 = 3 ∧ (s.hp 0).link = .up ∧ s.groupMayTake 0 = true) :=
  ⟨⟨((wState).wf (R.HP_CFG ((1 : Fin 2).val)) F.HP_CFG_PERSONALITY 1).onHp ((1 : Fin 2).val)
     fun x => { x with sqs := [(1023, ({ size := 16, cq := 1, tail := 1 } : SubQueue))] }, 1, 1023,
     { size := 16, cq := 1, tail := 1 }, 0, by decide⟩,
   ⟨(((wState).wf (R.HP_CFG ((1 : Fin 2).val)) F.HP_CFG_PERSONALITY 1).wf (R.HP_CTX_MIN (1 : Fin 2).val)
     F.HP_CTX_MIN_MIN 1).onHp ((1 : Fin 2).val)
     fun x => { x with link := .up, stalled := false, sqs := [(1, ({ size := 16, cq := 1, tail := 1 } : SubQueue))] }, 1, 1,
     1, { size := 16, cq := 1, tail := 1 }, by decide⟩,
   ⟨((wState).wf (R.HP_CFG ((1 : Fin 2).val)) F.HP_CFG_PERSONALITY 1).onHp ((1 : Fin 2).val)
     fun x => { x with link := .up, stalled := false, sqs := [(1, { size := 16, cq := 1, tail := 1 })] }, 1, 1, 7,
     stBadOpcode 1, { size := 16, cq := 1, tail := 1 }, by decide⟩,
   ⟨((((((wState).wf (R.HP_CFG ((1 : Fin 2).val)) F.HP_CFG_PERSONALITY 1).wf (R.HP_CFG 0)
     F.HP_CFG_PERSONALITY 1).wf (R.HP_CTX_MIN 0) F.HP_CTX_MIN_MIN 65535).wf (R.HP_CTX_MIN 1)
     F.HP_CTX_MIN_MIN 0).onHp ((1 : Fin 2).val)
     fun x => { x with link := .up, stalled := false, sqs := [(1, { size := 16, cq := 1, tail := 1 })] }).onCtx (9)
     fun x => { x with state := cPort, origin := 1 }, 1, 1, 1, { size := 16, cq := 1, tail := 1 }, by decide⟩,
   ⟨(wState).onHp ((1 : Fin 2).val) fun x => { x with stalled := true }, 1, by decide⟩,
   ⟨((wState).wf (R.HP_CFG ((1 : Fin 2).val)) F.HP_CFG_PERSONALITY 2).wf (R.HP_LINK (1 : Fin 2).val) F.HP_LINK_UP 1, 1, 1, 1,
     1, .simple, 0x28, by decide⟩,
   ⟨((wState).wf (R.HP_CFG ((1 : Fin 2).val)) F.HP_CFG_PERSONALITY 2).wf (R.HP_LINK (1 : Fin 2).val) F.HP_LINK_UP 1, 1, 1, 1,
     1, stBadOpcode 2, .simple, 0xFF, by decide⟩,
   ⟨((((((wState).wf (R.HP_CFG ((1 : Fin 2).val)) F.HP_CFG_PERSONALITY 2).wf (R.HP_LINK (1 : Fin 2).val)
     F.HP_LINK_UP 1).wf (R.HP_CFG 0) F.HP_CFG_PERSONALITY 1).wf (R.HP_CTX_MIN 0) F.HP_CTX_MIN_MIN 65535).wf (R.HP_CTX_MIN 1)
     F.HP_CTX_MIN_MIN 0).onCtx (9) fun x => { x with state := cPort, origin := 1 }, 1, 1, 1, 1, .simple, 0x28, by decide⟩,
   ⟨(wState).wf (R.HP_CFG ((1 : Fin 2).val)) F.HP_CFG_PERSONALITY 2, 1, 1, 1, 1, 1, by decide⟩,
   ⟨((wState).wf (R.HP_CFG (0)) F.HP_CFG_PERSONALITY 3).onHp (0) fun x => { x with link := .up },
     { tenant := 1, queue := 0, tag := 1, opcode := 0x25, fua := false, target := 0, granOfs := 0, granCnt := 1, dptr := 0 },
     by decide⟩,
   ⟨((wState).wf (R.HP_CFG (0)) F.HP_CFG_PERSONALITY 3).onHp (0) fun x => { x with link := .up }, 31,
     { tenant := 1, queue := 1, tag := 1, opcode := 2, fua := false, target := 0, granOfs := 0, granCnt := 1, dptr := 0 },
     by decide⟩,
   ⟨((wState).wf (R.HP_CFG (0)) F.HP_CFG_PERSONALITY 3).onHp (0) fun x => { x with link := .up }, 31,
     { tenant := 1, queue := 1, tag := 1, opcode := 2, fua := false, target := 0, granOfs := 0, granCnt := 1, dptr := 0 },
     by decide⟩⟩

theorem witness_HostPagesAreShadowed :
    (∃ (s : State) (g : Fin 2) (ofs : Nat), s.pers g.val = 1 ∧ (s.hp g.val).link = .up) ∧
    (∃ (s : State) (g : Fin 2) (ofs : Nat) (n : Nat), s.pers g.val = 1 ∧ (s.hp g.val).link = .up ∧ n ≤ 16) ∧
    (∃ (s : State) (g : Fin 2) (ofs : Nat) (v : Word), s.pers g.val = 1 ∧ (s.hp g.val).link = .up ∧
     ofs % 0x1000 / 4 ≠ capMsixWord ∧ (ofs % 0x1000 / 4 ≠ capPcieWord + 2 ∨ bitAt v.toNat 15 = false)) ∧
    (∃ (s : State) (g : Fin 2) (ofs : Nat) (v : Word), s.pers g.val = 1 ∧ (s.hp g.val).link = .up ∧
     ofs % 0x1000 / 4 = capPcieWord + 2 ∧ bitAt v.toNat 15 = true) ∧
    (∃ (s : State) (g : Fin 2) (ofs : Nat) (v : Word), s.pers g.val = 1 ∧ (s.hp g.val).link = .up ∧
     ofs % 0x1000 / 4 = capMsixWord) ∧
    (∃ (s : State) (g : Fin 2) (ofs : Nat) (v : Word), s.pers g.val = 1 ∧ (s.hp g.val).link = .up ∧ ofs < 0x1000 ∧
     ofs / 4 ≠ 5) ∧
    (∃ (s : State) (i : Initiator) (g : Fin 2) (v : Word), isPair i = true ∧ (s.hp g.val).commitPending = false ∧
     (s.hp g.val).staged.length < 64 ∧ s.rf (R.HP_SHD_ADDR g.val) F.HP_SHD_ADDR_WORD < msixWord) ∧
    (∃ (s : State) (i : Initiator) (g : Fin 2), isPair i = true ∧ s.rf (R.HP_SHD_ADDR g.val) F.HP_SHD_ADDR_WORD < shadowWords) ∧
    (∃ (s : State) (i : Initiator) (g : Fin 2), isPair i = true ∧ (s.hp g.val).commitPending = false) ∧
    (∃ (s : State) (i : Initiator) (g : Fin 2), isPair i = true ∧ (s.hp g.val).commitPending = false) ∧
    (∃ (s : State) (g : Fin 2) (w : Nat) (v : Word), (s.hp g.val).commitPending = true ∧ (s.hp g.val).staged = [(w, v)]) ∧
    (∃ (s : State) (g : Fin 2) (tag : Nat) (page : Nat), s.pers g.val = 2 ∧ s.ready (hpReady g.val) = true) ∧
    (∃ (s : State) (tag : Nat), s.pers 0 = 3 ∧ s.ready .hpa = true) :=
  ⟨⟨((wState).wf (R.HP_CFG ((1 : Fin 2).val)) F.HP_CFG_PERSONALITY 1).onHp ((1 : Fin 2).val) fun x => { x with link := .up },
     1, 1, by decide⟩,
   ⟨((wState).wf (R.HP_CFG ((1 : Fin 2).val)) F.HP_CFG_PERSONALITY 1).onHp ((1 : Fin 2).val) fun x => { x with link := .up },
     1, 1, 16, by decide⟩,
   ⟨((wState).wf (R.HP_CFG ((1 : Fin 2).val)) F.HP_CFG_PERSONALITY 1).onHp ((1 : Fin 2).val) fun x => { x with link := .up },
     1, 0, 0, ⟨by decide, by decide, by unfold capMsixWord; omega, .inl (by unfold capPcieWord; omega)⟩⟩,
   ⟨((wState).wf (R.HP_CFG ((1 : Fin 2).val)) F.HP_CFG_PERSONALITY 1).onHp ((1 : Fin 2).val) fun x => { x with link := .up },
     1, 4 * (capPcieWord + 2), 0x8000, ⟨by decide, by decide, by unfold capPcieWord; omega, by decide⟩⟩,
   ⟨((wState).wf (R.HP_CFG ((1 : Fin 2).val)) F.HP_CFG_PERSONALITY 1).onHp ((1 : Fin 2).val) fun x => { x with link := .up },
     1, 4 * capMsixWord, 0, ⟨by decide, by decide, by unfold capMsixWord; omega⟩⟩,
   ⟨((wState).wf (R.HP_CFG ((1 : Fin 2).val)) F.HP_CFG_PERSONALITY 1).onHp ((1 : Fin 2).val) fun x => { x with link := .up },
     1, 4095, 0, by decide⟩,
   ⟨(wState).onHp ((1 : Fin 2).val) fun x => { x with commitPending := false }, .port, 1, 0, by decide⟩,
   ⟨wState, .port, 1, by decide⟩,
   ⟨(wState).onHp ((1 : Fin 2).val) fun x => { x with commitPending := false }, .port, 1, by decide⟩,
   ⟨(wState).onHp ((1 : Fin 2).val) fun x => { x with commitPending := false }, .port, 1, by decide⟩,
   ⟨(wState).onHp ((1 : Fin 2).val) fun x => { x with commitPending := true, staged := [((1 : Nat), (0 : Word))] }, 1, 1, 0,
     by decide⟩,
   ⟨((wState).wf (R.HP_CFG ((1 : Fin 2).val)) F.HP_CFG_PERSONALITY 2).setReady (hpReady (1 : Fin 2).val) true, 1, 1, 1,
     by decide⟩,
   ⟨((wState).wf (R.HP_CFG (0)) F.HP_CFG_PERSONALITY 3).setReady (.hpa) true, 1, by decide⟩⟩

theorem witness_ContextsAreTakenAndFinished :
    (∃ (s : State) (p : Fin 2) (i : Initiator), pairOf i p.val = true ∧ s.fwMayTake = false) ∧
    (∃ (s : State) (p : Fin 2) (i : Initiator), pairOf i p.val = true ∧ s.fwMayTake = true) ∧
    (∃ (s : State) (i : Initiator) (k : Fin 65536), isPair i = true ∧ (s.ctx k.val).state = cFirmware) ∧
    (∃ (s : State) (i : Initiator) (k : Fin 65536), isPair i = true ∧ (s.ctx k.val).state ∈ [cNew, cMedia]) ∧
    (∃ (s : State) (i : Initiator) (k : Fin 65536), isPair i = true ∧ (s.ctx k.val).state ∈ [cNew, cPort]) ∧
    (∃ (s : State) (i : Initiator) (k : Fin 65536), isPair i = true ∧ (s.ctx k.val).state = cMedia ∧
     (s.work k.val).write = true ∧ (s.work k.val).discarded = false ∧ s.mustDrop k.val = false ∧ s.ackOk (s.ctx k.val)
     = false) ∧
    (∃ (s : State) (i : Initiator) (k : Fin 65536), isPair i = true ∧ (s.ctx k.val).state ∈ [cNew, cPort, cMedia, cCommit] ∧
     (s.fetchData k.val).1 = .done) ∧
    (∃ (s : State) (i : Initiator) (k : Fin 65536), isPair i = true ∧ (s.ctx k.val).state ∈ [cFree, cStaged, cDone] ∧
     (s.ctx k.val).has fAcked = true) ∧
    (∃ (s : State) (i : Initiator) (k : Fin 65536) (rest : List Nat), pairOf i 0 = true ∧ s.cmd.portQ = k.val :: rest) ∧
    (∃ (s : State) (i : Initiator) (t : Fin 256) (v : Word), isPair i = true ∧ fget (s.rd (R.WAY_TEN_CFG t.val))
     F.WAY_TEN_CFG_ENABLE = 1 ∧ fget v F.WAY_TEN_CFG_VIEW = fget (s.rd (R.WAY_TEN_CFG t.val)) F.WAY_TEN_CFG_VIEW) ∧
    (∃ (s : State) (i : Initiator) (t : Fin 256) (v : Word), isPair i = true ∧ fget (s.rd (R.WAY_TEN_CFG t.val))
     F.WAY_TEN_CFG_ENABLE = 1 ∧ fget v F.WAY_TEN_CFG_VIEW ≠ fget (s.rd (R.WAY_TEN_CFG t.val)) F.WAY_TEN_CFG_VIEW) ∧
    (∃ (s : State) (i : Initiator) (t : Fin 256) (v : Word), isPair i = true) :=
  ⟨⟨((((wState).wf (R.HP_CFG 0) F.HP_CFG_PERSONALITY 1).wf (R.HP_CTX_MIN 0) F.HP_CTX_MIN_MIN 32768).wf (R.HP_CFG 1)
     F.HP_CFG_PERSONALITY 2).wf (R.HP_CTX_MIN 1) F.HP_CTX_MIN_MIN 32768, 1, .media, by decide⟩,
   ⟨wState, 1, .media, by decide⟩,
   ⟨(wState).onCtx ((65535 : Fin 65536).val) fun x => { x with state := cFirmware }, .port, 65535, by decide⟩,
   ⟨(wState).onCtx ((65535 : Fin 65536).val) fun x => { x with state := cNew }, .port, 65535, by decide⟩,
   ⟨(wState).onCtx ((65535 : Fin 65536).val) fun x => { x with state := cNew }, .port, 65535, by decide⟩,
   ⟨((wState).setWork (65535 : Fin 65536).val { write := true }).onCtx ((65535 : Fin 65536).val)
     fun x => { x with state := cMedia, flags := 2 ^ fFua }, .port, 65535, by decide⟩,
   ⟨(wState).onCtx ((65535 : Fin 65536).val) fun x => { x with state := cNew }, .port, 65535, by decide⟩,
   ⟨(wState).onCtx ((65535 : Fin 65536).val) fun x => { x with state := cDone, flags := 0xFF }, .port, 65535, by decide⟩,
   ⟨(wState).onCmd fun x => { x with portQ := (65535 : Fin 65536).val :: ([] : List Nat) }, .port, 65535, [], by decide⟩,
   ⟨(wState).wf (R.WAY_TEN_CFG (255 : Fin 256).val) F.WAY_TEN_CFG_ENABLE 1, .port, 255, 0, by decide⟩,
   ⟨(wState).wf (R.WAY_TEN_CFG (255 : Fin 256).val) F.WAY_TEN_CFG_ENABLE 1, .port, 255, fset 0 F.WAY_TEN_CFG_VIEW 1, by decide⟩,
   ⟨wState, .port, 255, 0, by decide⟩⟩

theorem witness_BlockCommandsAct :
    (∃ (s : State) (k : Fin 65536) (slot : Fin 65536) (hit : Bool), s.blockReaches k.val opRead false) ∧
    (∃ (s : State) (k : Fin 65536) (slot : Fin 65536), s.blockReaches k.val opRead false ∧ s.mode ≠ mHaven ∧
     (s.ctxKeys (s.ctx k.val)).any s.beyondResume = false ∧ s.anyLost (s.ctxKeys (s.ctx k.val)) = false ∧
     s.readBlocked slot.val (s.ctxKeys (s.ctx k.val)) = false) ∧
    (∃ (s : State) (k : Fin 65536) (slot : Fin 65536) (data : Nat), s.blockReaches k.val opWrite true) ∧
    (∃ (s : State) (k : Fin 65536), s.tenantReaches k.val { nvme := [0x00] } true ∧ s.objView (s.ctx k.val).tenant = false) ∧
    (∃ (s : State) (k : Fin 65536), s.tenantReaches k.val { sas := [0x91] } true ∧ s.objView (s.ctx k.val).tenant = false ∧
     s.beyondCapacity (s.ctx k.val) = false) ∧
    (∃ (s : State) (k : Fin 65536), s.tenantReaches k.val { sata := [0xEA] } true ∧ s.objView (s.ctx k.val).tenant = false) ∧
    (∃ (s : State) (k : Fin 65536), s.blockReaches k.val { nvme := [0x08] } true) ∧
    (∃ (s : State) (k : Fin 65536) (l : List (Nat × Nat)), s.commandReaches k.val { nvme := [0x09] } true ∧
     s.objView (s.ctx k.val).tenant = false ∧ bitAt (s.ctx k.val).target 34 = true ∧
     (∀ q ∈ l.take ((s.ctx k.val).target % 256 + 1), q.1 + q.2 ≤ spGetD 0 s.cmd.capacity ((s.ctx k.val).tenant - 1))) ∧
    (∃ (s : State) (k : Fin 65536), s.blockReaches k.val opVerify false ∧ s.mode ≠ mHaven ∧
     (s.ctxKeys (s.ctx k.val)).any s.beyondResume = false ∧ ((s.ctxKeys (s.ctx k.val)).any fun q => s.way.lost.contains q)
     = false) ∧
    (∃ (s : State) (k : Fin 65536), s.blockReaches k.val opVerify false ∧ s.mode ≠ mHaven ∧
     (s.ctxKeys (s.ctx k.val)).any s.beyondResume = false) ∧
    (∃ (s : State) (k : Fin 65536) (slot : Fin 65536) (data : Nat), s.blockReaches k.val { nvme := [0x05] } false ∧
     s.mode ≠ mHaven ∧ (s.ctxKeys (s.ctx k.val)).any s.beyondResume = false ∧ s.anyLost (s.ctxKeys (s.ctx k.val)) = false ∧
     s.readBlocked slot.val (s.ctxKeys (s.ctx k.val)) = false ∧ (s.ctxKeys (s.ctx k.val)).map (s.readNow slot.val)
     = (List.range (s.ctx k.val).granCnt).map (dataAt data)) ∧
    (∃ (s : State) (k : Fin 65536) (cls : Nat) (link : Nat) (slot : Nat) (data : Nat) (n : Nat),
     ((s.ctxKeys (s.ctx k.val)).filter fun q => (s.mapped q).isNone).length = n ∧ 0 < n ∧
     s.tenAllow (s.ctx k.val).tenant < s.tenUse (s.ctx k.val).tenant + s.tenRsv (s.ctx k.val).tenant + n) ∧
    (∃ (s : State) (k : Fin 65536) (cls : Nat) (link : Nat) (slot : Nat) (data : Nat) (n : Nat),
     ((s.ctxKeys (s.ctx k.val)).filter fun q => (s.mapped q).isNone).length = n ∧
     s.tenUse (s.ctx k.val).tenant + s.tenRsv (s.ctx k.val).tenant + n ≤ s.tenAllow (s.ctx k.val).tenant ∧
     s.tenRsv (s.ctx k.val).tenant + n < 2 ^ 32 ∧ s.classOk cls = true ∧ s.capacityOk cls n = true) :=
  ⟨⟨(((((wState).wf (R.WAY_TEN_CFG 0) F.WAY_TEN_CFG_ENABLE 1).wf (R.WAY_TEN_CFG 0)
     F.WAY_TEN_CFG_ATTACH_A 1).wf R.SYS_MODE F.SYS_MODE_MODE mService).onCmd fun x => { x with capacity := [(0, 1)] }).onCtx ((65535 : Fin 65536).val) fun x => { x with state := cNew, proto := 1, queue := 1, opcode := 2, tenant := 1, granCnt := 1 }, 65535, 65535, false, by (simp only [State.blockReaches, State.commandReaches]; decide)⟩,
   ⟨(((((wState).wf (R.WAY_TEN_CFG 0) F.WAY_TEN_CFG_ENABLE 1).wf (R.WAY_TEN_CFG 0)
     F.WAY_TEN_CFG_ATTACH_A 1).wf R.SYS_MODE F.SYS_MODE_MODE mService).onCmd fun x => { x with capacity := [(0, 1)] }).onCtx ((65535 : Fin 65536).val) fun x => { x with state := cNew, proto := 1, queue := 1, opcode := 2, tenant := 1, granCnt := 1 }, 65535, 65535, by (simp only [State.blockReaches, State.commandReaches]; decide)⟩,
   ⟨(((((wState).wf (R.WAY_TEN_CFG 0) F.WAY_TEN_CFG_ENABLE 1).wf (R.WAY_TEN_CFG 0)
     F.WAY_TEN_CFG_ATTACH_A 1).wf R.SYS_MODE F.SYS_MODE_MODE mService).onCmd fun x => { x with capacity := [(0, 1)] }).onCtx ((65535 : Fin 65536).val) fun x => { x with state := cNew, proto := 1, queue := 1, opcode := 1, tenant := 1, granCnt := 1 }, 65535, 65535, 1, by (simp only [State.blockReaches, State.commandReaches]; decide)⟩,
   ⟨((((wState).wf (R.WAY_TEN_CFG 0) F.WAY_TEN_CFG_ENABLE 1).wf (R.WAY_TEN_CFG 0)
     F.WAY_TEN_CFG_ATTACH_A 1).wf R.SYS_MODE F.SYS_MODE_MODE mService).onCtx ((65535 : Fin 65536).val)
     fun x => { x with state := cNew, proto := 1, queue := 1, opcode := 0x00, tenant := 1 }, 65535,
     by (simp only [State.tenantReaches]; decide)⟩,
   ⟨((((wState).wf (R.WAY_TEN_CFG 0) F.WAY_TEN_CFG_ENABLE 1).wf (R.WAY_TEN_CFG 0)
     F.WAY_TEN_CFG_ATTACH_A 1).wf R.SYS_MODE F.SYS_MODE_MODE mService).onCtx ((65535 : Fin 65536).val)
     fun x => { x with state := cNew, proto := 2, opcode := 0x91, tenant := 1 }, 65535,
     by (simp only [State.tenantReaches]; decide)⟩,
   ⟨((((wState).wf (R.WAY_TEN_CFG 0) F.WAY_TEN_CFG_ENABLE 1).wf (R.WAY_TEN_CFG 0)
     F.WAY_TEN_CFG_ATTACH_A 1).wf R.SYS_MODE F.SYS_MODE_MODE mService).onCtx ((65535 : Fin 65536).val)
     fun x => { x with state := cNew, proto := 3, opcode := 0xEA, tenant := 1 }, 65535,
     by (simp only [State.tenantReaches]; decide)⟩,
   ⟨(((((wState).wf (R.WAY_TEN_CFG 0) F.WAY_TEN_CFG_ENABLE 1).wf (R.WAY_TEN_CFG 0)
     F.WAY_TEN_CFG_ATTACH_A 1).wf R.SYS_MODE F.SYS_MODE_MODE mService).onCmd fun x => { x with capacity := [(0, 1)] }).onCtx ((65535 : Fin 65536).val) fun x => { x with state := cNew, proto := 1, queue := 1, opcode := 0x08, tenant := 1, granCnt := 1 }, 65535, by (simp only [State.blockReaches, State.commandReaches]; decide)⟩,
   ⟨(((((wState).wf (R.WAY_TEN_CFG 0) F.WAY_TEN_CFG_ENABLE 1).wf (R.WAY_TEN_CFG 0)
     F.WAY_TEN_CFG_ATTACH_A 1).wf R.SYS_MODE F.SYS_MODE_MODE mService).onCmd fun x => { x with capacity := [(0, 1)] }).onCtx ((65535 : Fin 65536).val) fun x => { x with state := cNew, proto := 1, queue := 1, opcode := 0x09, tenant := 1, target := 2 ^ 34 }, 65535, [(0, 1)], by (simp only [State.commandReaches]; decide)⟩,
   ⟨(((((wState).wf (R.WAY_TEN_CFG 0) F.WAY_TEN_CFG_ENABLE 1).wf (R.WAY_TEN_CFG 0)
     F.WAY_TEN_CFG_ATTACH_A 1).wf R.SYS_MODE F.SYS_MODE_MODE mService).onCmd fun x => { x with capacity := [(0, 1)] }).onCtx ((65535 : Fin 65536).val) fun x => { x with state := cNew, proto := 1, queue := 1, opcode := 0xC, tenant := 1, granCnt := 1 }, 65535, by (simp only [State.blockReaches, State.commandReaches]; set_option maxRecDepth 100000 in decide)⟩,
   ⟨(((((wState).wf (R.WAY_TEN_CFG 0) F.WAY_TEN_CFG_ENABLE 1).wf (R.WAY_TEN_CFG 0)
     F.WAY_TEN_CFG_ATTACH_A 1).wf R.SYS_MODE F.SYS_MODE_MODE mService).onCmd fun x => { x with capacity := [(0, 1)] }).onCtx ((65535 : Fin 65536).val) fun x => { x with state := cNew, proto := 1, queue := 1, opcode := 0xC, tenant := 1, granCnt := 1 }, 65535, by (simp only [State.blockReaches, State.commandReaches]; decide)⟩,
   ⟨(((((wState).wf (R.WAY_TEN_CFG 0) F.WAY_TEN_CFG_ENABLE 1).wf (R.WAY_TEN_CFG 0)
     F.WAY_TEN_CFG_ATTACH_A 1).wf R.SYS_MODE F.SYS_MODE_MODE mService).onCmd fun x => { x with capacity := [(0, 1)] }).onCtx ((65535 : Fin 65536).val) fun x => { x with state := cNew, proto := 1, queue := 1, opcode := 0x05, tenant := 1, granCnt := 1 }, 65535, 65535, 0, by (simp only [State.blockReaches, State.commandReaches]; set_option maxRecDepth 100000 in decide)⟩,
   ⟨(wState).onCtx ((65535 : Fin 65536).val) fun x => { x with granCnt := 1, tenant := 1 }, 65535, 0, 1, 0, 5, 1, by decide⟩,
   ⟨((((((wState).wf (unitReg 2 0) (unitFld 0) uIn).wf (unitReg 1 0) (unitFld 0) uIn).wf (unitReg 1 1) (unitFld 1)
     uIn).wf (R.WAY_CLASS 0) F.WAY_CLASS_REDUND 0).onCmd fun x => { x with allow := [(0, 1000)] }).onCtx ((65535 : Fin 65536).val) fun x => { x with granCnt := 1, tenant := 1 }, 65535, 0, 1, 0, 5, 1, by set_option maxRecDepth 100000 in decide⟩⟩

theorem witness_AdministrationActs :
    (∃ (s : State) (k : Fin 65536) (data : Nat), s.holds k.val { adm := [0x06] } = true ∧ s.tenantOk (s.ctx k.val) = true) ∧
    (∃ (s : State) (k : Fin 65536) (data : Nat), s.holds k.val { adm := [0x06] } = true) ∧
    (∃ (s : State) (k : Fin 65536) (cns : Nat) (data : Nat), s.holds k.val { adm := [0x06] } = true ∧ 2 ≤ cns) ∧
    (∃ (s : State) (k : Fin 65536) (lid : Nat) (data : List Nat), s.holds k.val { adm := [0x02] } = true) ∧
    (∃ (s : State) (k : Fin 65536) (t : Fin 256) (n : Nat), s.holds k.val { adm := [0x0D] } = true ∧
     s.blocked k.val true = false) ∧
    (∃ (s : State) (k : Fin 65536), s.holds k.val { adm := [0x15] } = true ∧ s.blocked k.val true = false) ∧
    (∃ (s : State) (k : Fin 65536), s.holds k.val { adm := [0x11] } = true) ∧
    (∃ (s : State) (k : Fin 65536), s.holds k.val { adm := [0x10] } = true) ∧
    (∃ (s : State) (k : Fin 65536) (a : QueueArgs), s.holds k.val { adm := [0x01, 0x05] } = true ∧
     (s.ctx k.val).opcode = 0x05 ∧ (s.ctx k.val).queueArgs = a ∧ a.pc = true ∧ 1 ≤ a.qid ∧ a.qid ≤ 1024 ∧ 2 ≤ a.size ∧
     a.size ≤ 4096 ∧ a.far ≤ 1024 ∧ spGet (s.hp (s.ctx k.val).origin).cqs a.qid = none) ∧
    (∃ (s : State) (k : Fin 65536) (a : QueueArgs) (c : CplQueue), s.holds k.val { adm := [0x01, 0x05] } = true ∧
     (s.ctx k.val).opcode = 0x01 ∧ (s.ctx k.val).queueArgs = a ∧ a.pc = true ∧ 1 ≤ a.qid ∧ a.qid ≤ 1024 ∧ 2 ≤ a.size ∧
     a.size ≤ 4096 ∧ spGet (s.hp (s.ctx k.val).origin).sqs a.qid = none ∧
     spGet (s.hp (s.ctx k.val).origin).cqs a.far = some c) ∧
    (∃ (s : State) (k : Fin 65536) (qid : Nat) (q : SubQueue), s.holds k.val { adm := [0x00] } = true ∧ 1 ≤ qid ∧
     spGet (s.hp (s.ctx k.val).origin).sqs qid = some q) ∧
    (∃ (s : State) (k : Fin 65536) (sq : Nat) (cid : Nat) (j : Nat), s.holds k.val { adm := [0x08] } = true ∧
     s.findCmd (s.ctx k.val).origin sq cid = some j ∧ j ≠ k.val) ∧
    (∃ (s : State) (k : Fin 65536) (sq : Nat) (cid : Nat), s.holds k.val { adm := [0x08] } = true ∧
     s.findCmd (s.ctx k.val).origin sq cid = none) ∧
    (∃ (s : State) (k : Fin 65536) (fid : Nat) (v : Nat), s.holds k.val { adm := [0x09] } = true ∧ noFeature fid = false) ∧
    (∃ (s : State) (k : Fin 65536) (fid : Nat), s.holds k.val { adm := [0x0A] } = true ∧ noFeature fid = false) ∧
    (∃ (s : State) (k : Fin 65536), s.holds k.val { adm := [0x0C] } = true) ∧
    (∃ (s : State) (k : Fin 65536), s.holds k.val { sas := [0x9E] } = true ∧ s.tenantOk (s.ctx k.val) = true) ∧
    (∃ (s : State) (k : Fin 65536), s.holds k.val { sas := [0xA0] } = true) ∧
    (∃ (s : State) (k : Fin 65536), s.commandReaches k.val { sas := [0x00] } false) ∧
    (∃ (s : State) (k : Fin 65536), s.holds k.val { sas := [0x03] } = true ∧ s.tenantOk (s.ctx k.val) = true) ∧
    (∃ (s : State) (k : Fin 65536), s.holds k.val { sas := [0x03] } = true ∧ s.tenantOk (s.ctx k.val) = false) ∧
    (∃ (s : State) (k : Fin 65536) (x : Bool), s.tenantReaches k.val { sas := [0x1B] } true) ∧
    (∃ (s : State) (k : Fin 65536), s.tenantReaches k.val { sas := [0x3B] } true) ∧
    (∃ (s : State) (k : Fin 65536), s.tenantReaches k.val { sas := [0x3C] } false) ∧
    (∃ (s : State) (k : Fin 65536), s.holds k.val { sata := [0x92] } = true) ∧
    (∃ (s : State) (k : Fin 65536) (page : Nat), s.tenantReaches k.val { sas := [0x5A] } false ∧ page ≠ 8) ∧
    (∃ (s : State) (k : Fin 65536), s.tenantReaches k.val { sas := [0x5A] } false) ∧
    (∃ (s : State) (k : Fin 65536) (page : Nat) (data : Nat), s.tenantReaches k.val { sas := [0x55] } true ∧ page ≠ 8) ∧
    (∃ (s : State) (k : Fin 65536) (data : Nat), s.tenantReaches k.val { sas := [0x55] } true ∧ data ≠ 0) ∧
    (∃ (s : State) (k : Fin 65536) (page : Nat) (data : List Nat), s.holds k.val { sas := [0x4D] } = true ∧
     s.tenantOk (s.ctx k.val) = true) ∧
    (∃ (s : State) (k : Fin 65536) (page : Nat) (data : List Nat), s.holds k.val { sata := [0x2F, 0x47] } = true ∧
     page ≠ 0x10) ∧
    (∃ (s : State) (k : Fin 65536) (data : List Nat), s.holds k.val { sata := [0x2F, 0x47] } = true) ∧
    (∃ (s : State) (k : Fin 65536), s.holds k.val { sas := [0x5E], nvme := [0x0E] } = true ∧ s.tenantOk (s.ctx k.val) = true) ∧
    (∃ (s : State) (k : Fin 65536) (op : ResOp) (r : Reservation),
     s.holds k.val { sas := [0x5F], nvme := [0x0D, 0x11, 0x15] } = true ∧ s.tenantOk (s.ctx k.val) = true ∧
     (s.reservation (s.ctx k.val).tenant).apply (s.ctxWho (s.ctx k.val)) op = some r) ∧
    (∃ (s : State) (k : Fin 65536) (op : ResOp), s.holds k.val { sas := [0x5F], nvme := [0x0D, 0x11, 0x15] } = true ∧
     s.tenantOk (s.ctx k.val) = true ∧ (s.reservation (s.ctx k.val).tenant).apply (s.ctxWho (s.ctx k.val)) op = none) ∧
    (∃ (s : State) (k : Fin 65536) (f : Nat) (v : Nat), s.holds k.val { sata := [0xEF] } = true ∧ f ≠ 2) :=
  ⟨⟨(((wState).wf (R.WAY_TEN_CFG 0) F.WAY_TEN_CFG_ENABLE 1).wf (R.WAY_TEN_CFG 0)
     F.WAY_TEN_CFG_ATTACH_A 1).onCtx ((65535 : Fin 65536).val)
     fun x => { x with state := cNew, proto := 1, queue := 0, opcode := 0x06, tenant := 1 }, 65535, 1, by decide⟩,
   ⟨(wState).onCtx ((65535 : Fin 65536).val) fun x => { x with state := cNew, proto := 1, queue := 0, opcode := 0x06 },
     65535, 1, by decide⟩,
   ⟨(wState).onCtx ((65535 : Fin 65536).val) fun x => { x with state := cNew, proto := 1, queue := 0, opcode := 0x06 },
     65535, 2, 1, by decide⟩,
   ⟨(wState).onCtx ((65535 : Fin 65536).val) fun x => { x with state := cNew, proto := 1, queue := 0, opcode := 0x02 },
     65535, 1, [], by decide⟩,
   ⟨(wState).onCtx ((65535 : Fin 65536).val) fun x => { x with state := cNew, proto := 1, queue := 0, opcode := 0x0D },
     65535, 255, 1, by decide⟩,
   ⟨(wState).onCtx ((65535 : Fin 65536).val) fun x => { x with state := cNew, proto := 1, queue := 0, opcode := 0x15 },
     65535, by decide⟩,
   ⟨(wState).onCtx ((65535 : Fin 65536).val) fun x => { x with state := cNew, proto := 1, queue := 0, opcode := 0x11 },
     65535, by decide⟩,
   ⟨(wState).onCtx ((65535 : Fin 65536).val) fun x => { x with state := cNew, proto := 1, queue := 0, opcode := 0x10 },
     65535, by decide⟩,
   ⟨(wState).onCtx ((65535 : Fin 65536).val)
     fun x => { x with state := cNew, proto := 1, queue := 0, opcode := 0x05, target := 15 * 65536 + 1 + 2 ^ 32 }, 65535, ⟨1,
     16, true, false, 0⟩, by decide⟩,
   ⟨((wState).onCtx ((65535 : Fin 65536).val)
     fun x => { x with state := cNew, proto := 1, queue := 0, opcode := 0x01, target := 15 * 65536 + 1 + 2 ^ 32 + 2 ^ 48 }).onHp (0) fun x => { x with cqs := [(1, ({ size := 16, vector := 1, ien := false } : CplQueue))] }, 65535, ⟨1, 16, true, false, 1⟩, { size := 16, vector := 1, ien := false }, by decide⟩,
   ⟨((wState).onCtx ((65535 : Fin 65536).val)
     fun x => { x with state := cNew, proto := 1, queue := 0, opcode := 0x00, origin := 0 }).onHp (0)
     fun x => { x with sqs := [(1, ({ size := 16, cq := 1, tail := 1 } : SubQueue))] }, 65535, 1,
     { size := 16, cq := 1, tail := 1 }, by decide⟩,
   ⟨((wState).onCtx ((65535 : Fin 65536).val)
     fun x => { x with state := cNew, proto := 1, queue := 0, opcode := 0x08, origin := 0 }).onCtx (5)
     fun x => { x with origin := 0, state := cPort, proto := 1, queue := 3, tag := 9 }, 65535, 3, 9, 5, by decide⟩,
   ⟨(wState).onCtx ((65535 : Fin 65536).val) fun x => { x with state := cNew, proto := 1, queue := 0, opcode := 0x08 },
     65535, 1, 1, by decide⟩,
   ⟨(wState).onCtx ((65535 : Fin 65536).val) fun x => { x with state := cNew, proto := 1, queue := 0, opcode := 0x09 },
     65535, 1, 1, by decide⟩,
   ⟨(wState).onCtx ((65535 : Fin 65536).val) fun x => { x with state := cNew, proto := 1, queue := 0, opcode := 0x0A },
     65535, 1, by decide⟩,
   ⟨(wState).onCtx ((65535 : Fin 65536).val) fun x => { x with state := cNew, proto := 1, queue := 0, opcode := 0x0C },
     65535, by decide⟩,
   ⟨(((wState).wf (R.WAY_TEN_CFG 0) F.WAY_TEN_CFG_ENABLE 1).wf (R.WAY_TEN_CFG 0)
     F.WAY_TEN_CFG_ATTACH_A 1).onCtx ((65535 : Fin 65536).val)
     fun x => { x with state := cNew, proto := 2, opcode := 0x9E, tenant := 1 }, 65535, by decide⟩,
   ⟨(wState).onCtx ((65535 : Fin 65536).val) fun x => { x with state := cNew, proto := 2, opcode := 0xA0 }, 65535, by decide⟩,
   ⟨((((wState).wf (R.WAY_TEN_CFG 0) F.WAY_TEN_CFG_ENABLE 1).wf (R.WAY_TEN_CFG 0)
     F.WAY_TEN_CFG_ATTACH_A 1).wf R.SYS_MODE F.SYS_MODE_MODE mService).onCtx ((65535 : Fin 65536).val)
     fun x => { x with state := cNew, proto := 2, opcode := 0x00, tenant := 1 }, 65535,
     by (simp only [State.commandReaches]; decide)⟩,
   ⟨(((wState).wf (R.WAY_TEN_CFG 0) F.WAY_TEN_CFG_ENABLE 1).wf (R.WAY_TEN_CFG 0)
     F.WAY_TEN_CFG_ATTACH_A 1).onCtx ((65535 : Fin 65536).val)
     fun x => { x with state := cNew, proto := 2, opcode := 0x03, tenant := 1 }, 65535, by decide⟩,
   ⟨(wState).onCtx ((65535 : Fin 65536).val) fun x => { x with state := cNew, proto := 2, opcode := 0x03 }, 65535, by decide⟩,
   ⟨((((wState).wf (R.WAY_TEN_CFG 0) F.WAY_TEN_CFG_ENABLE 1).wf (R.WAY_TEN_CFG 0)
     F.WAY_TEN_CFG_ATTACH_A 1).wf R.SYS_MODE F.SYS_MODE_MODE mService).onCtx ((65535 : Fin 65536).val)
     fun x => { x with state := cNew, proto := 2, opcode := 0x1B, tenant := 1 }, 65535, false,
     by (simp only [State.tenantReaches]; decide)⟩,
   ⟨((((wState).wf (R.WAY_TEN_CFG 0) F.WAY_TEN_CFG_ENABLE 1).wf (R.WAY_TEN_CFG 0)
     F.WAY_TEN_CFG_ATTACH_A 1).wf R.SYS_MODE F.SYS_MODE_MODE mService).onCtx ((65535 : Fin 65536).val)
     fun x => { x with state := cNew, proto := 2, opcode := 0x3B, tenant := 1 }, 65535,
     by (simp only [State.tenantReaches]; decide)⟩,
   ⟨((((wState).wf (R.WAY_TEN_CFG 0) F.WAY_TEN_CFG_ENABLE 1).wf (R.WAY_TEN_CFG 0)
     F.WAY_TEN_CFG_ATTACH_A 1).wf R.SYS_MODE F.SYS_MODE_MODE mService).onCtx ((65535 : Fin 65536).val)
     fun x => { x with state := cNew, proto := 2, opcode := 0x3C, tenant := 1 }, 65535,
     by (simp only [State.tenantReaches]; decide)⟩,
   ⟨(wState).onCtx ((65535 : Fin 65536).val) fun x => { x with state := cNew, proto := 3, opcode := 0x92 }, 65535, by decide⟩,
   ⟨((((wState).wf (R.WAY_TEN_CFG 0) F.WAY_TEN_CFG_ENABLE 1).wf (R.WAY_TEN_CFG 0)
     F.WAY_TEN_CFG_ATTACH_A 1).wf R.SYS_MODE F.SYS_MODE_MODE mService).onCtx ((65535 : Fin 65536).val)
     fun x => { x with state := cNew, proto := 2, opcode := 0x5A, tenant := 1 }, 65535, 1,
     by (simp only [State.tenantReaches]; decide)⟩,
   ⟨((((wState).wf (R.WAY_TEN_CFG 0) F.WAY_TEN_CFG_ENABLE 1).wf (R.WAY_TEN_CFG 0)
     F.WAY_TEN_CFG_ATTACH_A 1).wf R.SYS_MODE F.SYS_MODE_MODE mService).onCtx ((65535 : Fin 65536).val)
     fun x => { x with state := cNew, proto := 2, opcode := 0x5A, tenant := 1 }, 65535,
     by (simp only [State.tenantReaches]; decide)⟩,
   ⟨((((wState).wf (R.WAY_TEN_CFG 0) F.WAY_TEN_CFG_ENABLE 1).wf (R.WAY_TEN_CFG 0)
     F.WAY_TEN_CFG_ATTACH_A 1).wf R.SYS_MODE F.SYS_MODE_MODE mService).onCtx ((65535 : Fin 65536).val)
     fun x => { x with state := cNew, proto := 2, opcode := 0x55, tenant := 1 }, 65535, 1, 1,
     by (simp only [State.tenantReaches]; decide)⟩,
   ⟨((((wState).wf (R.WAY_TEN_CFG 0) F.WAY_TEN_CFG_ENABLE 1).wf (R.WAY_TEN_CFG 0)
     F.WAY_TEN_CFG_ATTACH_A 1).wf R.SYS_MODE F.SYS_MODE_MODE mService).onCtx ((65535 : Fin 65536).val)
     fun x => { x with state := cNew, proto := 2, opcode := 0x55, tenant := 1 }, 65535, 1,
     by (simp only [State.tenantReaches]; decide)⟩,
   ⟨(((wState).wf (R.WAY_TEN_CFG 0) F.WAY_TEN_CFG_ENABLE 1).wf (R.WAY_TEN_CFG 0)
     F.WAY_TEN_CFG_ATTACH_A 1).onCtx ((65535 : Fin 65536).val)
     fun x => { x with state := cNew, proto := 2, opcode := 0x4D, tenant := 1 }, 65535, 1, [], by decide⟩,
   ⟨(wState).onCtx ((65535 : Fin 65536).val) fun x => { x with state := cNew, proto := 3, opcode := 0x2F }, 65535, 1, [],
     by decide⟩,
   ⟨(wState).onCtx ((65535 : Fin 65536).val) fun x => { x with state := cNew, proto := 3, opcode := 0x2F }, 65535, [],
     by decide⟩,
   ⟨(((wState).wf (R.WAY_TEN_CFG 0) F.WAY_TEN_CFG_ENABLE 1).wf (R.WAY_TEN_CFG 0)
     F.WAY_TEN_CFG_ATTACH_A 1).onCtx ((65535 : Fin 65536).val)
     fun x => { x with state := cNew, proto := 1, queue := 1, opcode := 0x0E, tenant := 1 }, 65535, by decide⟩,
   ⟨(((wState).wf (R.WAY_TEN_CFG 0) F.WAY_TEN_CFG_ENABLE 1).wf (R.WAY_TEN_CFG 0)
     F.WAY_TEN_CFG_ATTACH_A 1).onCtx ((65535 : Fin 65536).val)
     fun x => { x with state := cNew, proto := 1, queue := 1, opcode := 0x0D, tenant := 1 }, 65535, .register 5,
     { registrants := [(0, 5)] }, by decide⟩,
   ⟨(((wState).wf (R.WAY_TEN_CFG 0) F.WAY_TEN_CFG_ENABLE 1).wf (R.WAY_TEN_CFG 0)
     F.WAY_TEN_CFG_ATTACH_A 1).onCtx ((65535 : Fin 65536).val)
     fun x => { x with state := cNew, proto := 1, queue := 1, opcode := 0x0D, tenant := 1 }, 65535, .reserve 5 1, by decide⟩,
   ⟨(wState).onCtx ((65535 : Fin 65536).val) fun x => { x with state := cNew, proto := 3, opcode := 0xEF }, 65535, 1, 1,
     by decide⟩⟩

theorem witness_ObjectCommandsAct :
    (∃ (s : State) (k : Fin 65536) (cl : Nat), s.commandReaches k.val (opObj 0) true ∧
     s.objView (s.ctx k.val).tenant = true ∧ s.badFields k.val 0 = false ∧ s.objOf (s.ctx k.val) = none ∧
     s.cmd.objects.length < 2 ^ 34 ∧ cl = (if bitAt (s.work k.val).flg 3 then s.rf (R.WAY_TEN_CFG ((s.ctx k.val).tenant - 1))
     F.WAY_TEN_CFG_CLASS else (s.work k.val).flg % 8) ∧ s.classOk cl = true ∧ s.fwMayTake = true) ∧
    (∃ (s : State) (k : Fin 65536) (o : Obj), s.commandReaches k.val (opObj 0) true ∧ s.objView (s.ctx k.val).tenant = true ∧
     s.badFields k.val 0 = false ∧ s.objOf (s.ctx k.val) = some o) ∧
    (∃ (s : State) (k : Fin 65536) (slot : Fin 65536) (o : Obj) (st : Nat) (data : Nat), s.objectReaches k.val 0x01 true o ∧
     o.sealed = false ∧ o.stream = some st ∧ s.afterClose o k.val = false ∧
     (s.ctx k.val).granOfs + (s.ctx k.val).granCnt ≤ 2 ^ 32) ∧
    (∃ (s : State) (k : Fin 65536) (slot : Fin 65536) (o : Obj) (data : Nat), s.objectReaches k.val 0x01 true o ∧
     o.sealed = true) ∧
    (∃ (s : State) (k : Fin 65536) (slot : Fin 65536) (o : Obj) (hit : Bool), s.objectReaches k.val 0x02 false o ∧
     (s.ctx k.val).granOfs + (s.ctx k.val).granCnt ≤ 2 ^ 32 ∧
     (s.ctx k.val).granOfs + (s.ctx k.val).granCnt ≤ ceilDiv o.len 4096) ∧
    (∃ (s : State) (k : Fin 65536) (o : Obj), s.objectReaches k.val 0x04 true o ∧ o.sealed = false ∧ o.stream = none ∧
     s.fwMayTake = true) ∧
    (∃ (s : State) (k : Fin 65536) (o : Obj), s.objectReaches k.val 0x06 false o) ∧
    (∃ (s : State) (k : Fin 65536) (o : Obj) (st : Nat), s.objectReaches k.val 0x08 true o ∧ o.sealed = false ∧
     o.stream = some st ∧ s.afterClose o k.val = false ∧ (o.closing.any fun q => q.1 ≠ k.val) = false ∧
     s.waitsClose k.val = none ∧ s.streamBusy st = false ∧ (s.work k.val).p1 * 2 ^ 32 + (s.ctx k.val).granOfs ≤ 2 ^ 44 ∧
     (s.work k.val).p1 * 2 ^ 32 + (s.ctx k.val).granOfs ≤ 4096 * o.high) ∧
    (∃ (s : State) (k : Fin 65536) (o : Obj) (st : Nat), s.objectReaches k.val 0x08 true o ∧ o.sealed = false ∧
     o.stream = some st ∧ s.afterClose o k.val = false ∧ o.closing = none ∧ s.waitsClose k.val = none ∧
     s.streamBusy st = true) ∧
    (∃ (s : State) (k : Fin 65536) (o : Obj) (st : Nat), s.isOpen k.val = true ∧ s.mode ≠ mHaven ∧
     s.waitsClose k.val = some o ∧ o.sealed = false ∧ o.stream = some st ∧ s.afterClose o k.val = false ∧
     (o.closing.any fun q => q.1 ≠ k.val) = false ∧ s.streamBusy st = false) ∧
    (∃ (s : State) (k : Fin 65536) (o : Obj), s.objectReaches k.val 0x0C true o ∧ o.stream = none) ∧
    (∃ (s : State) (k : Fin 65536), s.commandReaches k.val (opObj 0x0E) false ∧ s.objView (s.ctx k.val).tenant = true ∧
     ((s.ctx k.val).granCnt = 0 ∨ 255 < (s.ctx k.val).granCnt)) ∧
    (∃ (s : State) (k : Fin 65536), s.commandReaches k.val (opObj 0x0E) false ∧ s.objView (s.ctx k.val).tenant = true ∧
     s.badFields k.val 0x0E = false ∧ s.cmd.objects = []) ∧
    (∃ (s : State) (k : Fin 65536) (o : Obj), s.objectReaches k.val 0x10 true o ∧ s.classOk ((s.work k.val).flg % 8) = true) ∧
    (∃ (s : State) (k : Fin 65536) (o : Obj) (n : Nat), s.objectReaches k.val 0x14 false o ∧ s.mode ≠ mHaven ∧
     s.way.lost = []) ∧
    (∃ (s : State) (k : Fin 65536) (o : Obj) (n : Nat), s.objectReaches k.val 0x14 false o ∧ s.mode ≠ mHaven) :=
  ⟨⟨(((((((((wState).wf (R.WAY_TEN_CFG 0) F.WAY_TEN_CFG_ENABLE 1).wf (R.WAY_TEN_CFG 0)
     F.WAY_TEN_CFG_ATTACH_A 1).wf R.SYS_MODE F.SYS_MODE_MODE mService).wf (R.WAY_TEN_CFG 0)
     F.WAY_TEN_CFG_VIEW 1).wf (unitReg 2 0) (unitFld 0) uIn).wf (unitReg 1 0) (unitFld 0) uIn).wf (unitReg 1 1) (unitFld 1)
     uIn).wf (R.WAY_CLASS 0) F.WAY_CLASS_REDUND 0).onCtx ((65535 : Fin 65536).val)
     fun x => { x with state := cNew, proto := 1, queue := 1, opcode := 0x80, tenant := 1 }, 65535, 0,
     by (simp only [State.objectReaches, State.commandReaches]; set_option maxRecDepth 100000 in decide)⟩,
   ⟨((((((wState).wf (R.WAY_TEN_CFG 0) F.WAY_TEN_CFG_ENABLE 1).wf (R.WAY_TEN_CFG 0)
     F.WAY_TEN_CFG_ATTACH_A 1).wf R.SYS_MODE F.SYS_MODE_MODE mService).wf (R.WAY_TEN_CFG 0)
     F.WAY_TEN_CFG_VIEW 1).onCmd fun x => { x with objects := [({ tenant := 1, id := 0 } : Obj)] }).onCtx ((65535 : Fin 65536).val) fun x => { x with state := cNew, proto := 1, queue := 1, opcode := 0x80, tenant := 1 }, 65535, { tenant := 1, id := 0 }, by (simp only [State.commandReaches]; decide)⟩,
   ⟨((((((wState).wf (R.WAY_TEN_CFG 0) F.WAY_TEN_CFG_ENABLE 1).wf (R.WAY_TEN_CFG 0)
     F.WAY_TEN_CFG_ATTACH_A 1).wf R.SYS_MODE F.SYS_MODE_MODE mService).wf (R.WAY_TEN_CFG 0)
     F.WAY_TEN_CFG_VIEW 1).onCmd fun x => { x with objects := [({ tenant := 1, id := 0, stream := some 3 } : Obj)] }).onCtx ((65535 : Fin 65536).val) fun x => { x with state := cNew, proto := 1, queue := 1, opcode := 0x81, tenant := 1, granCnt := 1 }, 65535, 65535, { tenant := 1, id := 0, stream := some 3 }, 3, 1, by (simp only [State.objectReaches, State.commandReaches]; decide)⟩,
   ⟨((((((wState).wf (R.WAY_TEN_CFG 0) F.WAY_TEN_CFG_ENABLE 1).wf (R.WAY_TEN_CFG 0)
     F.WAY_TEN_CFG_ATTACH_A 1).wf R.SYS_MODE F.SYS_MODE_MODE mService).wf (R.WAY_TEN_CFG 0)
     F.WAY_TEN_CFG_VIEW 1).onCmd fun x => { x with objects := [({ tenant := 1, id := 0, sealed := true } : Obj)] }).onCtx ((65535 : Fin 65536).val) fun x => { x with state := cNew, proto := 1, queue := 1, opcode := 0x81, tenant := 1, granCnt := 1 }, 65535, 65535, { tenant := 1, id := 0, sealed := true }, 1, by (simp only [State.objectReaches, State.commandReaches]; decide)⟩,
   ⟨((((((wState).wf (R.WAY_TEN_CFG 0) F.WAY_TEN_CFG_ENABLE 1).wf (R.WAY_TEN_CFG 0)
     F.WAY_TEN_CFG_ATTACH_A 1).wf R.SYS_MODE F.SYS_MODE_MODE mService).wf (R.WAY_TEN_CFG 0)
     F.WAY_TEN_CFG_VIEW 1).onCmd fun x => { x with objects := [({ tenant := 1, id := 0, length := 8192, high := 2 } : Obj)] }).onCtx ((65535 : Fin 65536).val) fun x => { x with state := cNew, proto := 1, queue := 1, opcode := 0x82, tenant := 1, granCnt := 1 }, 65535, 65535, { tenant := 1, id := 0, length := 8192, high := 2 }, false, by (simp only [State.objectReaches, State.commandReaches]; decide)⟩,
   ⟨((((((wState).wf (R.WAY_TEN_CFG 0) F.WAY_TEN_CFG_ENABLE 1).wf (R.WAY_TEN_CFG 0)
     F.WAY_TEN_CFG_ATTACH_A 1).wf R.SYS_MODE F.SYS_MODE_MODE mService).wf (R.WAY_TEN_CFG 0)
     F.WAY_TEN_CFG_VIEW 1).onCmd fun x => { x with objects := [({ tenant := 1, id := 0, sealed := false, stream := none } : Obj)] }).onCtx ((65535 : Fin 65536).val) fun x => { x with state := cNew, proto := 1, queue := 1, opcode := 0x84, tenant := 1 }, 65535, { tenant := 1, id := 0, sealed := false, stream := none }, by (simp only [State.objectReaches, State.commandReaches]; decide)⟩,
   ⟨((((((wState).wf (R.WAY_TEN_CFG 0) F.WAY_TEN_CFG_ENABLE 1).wf (R.WAY_TEN_CFG 0)
     F.WAY_TEN_CFG_ATTACH_A 1).wf R.SYS_MODE F.SYS_MODE_MODE mService).wf (R.WAY_TEN_CFG 0)
     F.WAY_TEN_CFG_VIEW 1).onCmd fun x => { x with objects := [({ tenant := 1, id := 0 } : Obj)] }).onCtx ((65535 : Fin 65536).val) fun x => { x with state := cNew, proto := 1, queue := 1, opcode := 0x86, tenant := 1 }, 65535, { tenant := 1, id := 0 }, by (simp only [State.objectReaches, State.commandReaches]; decide)⟩,
   ⟨((((((wState).wf (R.WAY_TEN_CFG 0) F.WAY_TEN_CFG_ENABLE 1).wf (R.WAY_TEN_CFG 0)
     F.WAY_TEN_CFG_ATTACH_A 1).wf R.SYS_MODE F.SYS_MODE_MODE mService).wf (R.WAY_TEN_CFG 0)
     F.WAY_TEN_CFG_VIEW 1).onCmd fun x => { x with objects := [({ tenant := 1, id := 0, stream := some 3, high := 1 } : Obj)] }).onCtx ((65535 : Fin 65536).val) fun x => { x with state := cNew, proto := 1, queue := 1, opcode := 0x88, tenant := 1, granOfs := 4096 }, 65535, { tenant := 1, id := 0, stream := some 3, high := 1 }, 3, by (simp only [State.objectReaches, State.commandReaches]; decide)⟩,
   ⟨((((((((wState).wf (R.WAY_TEN_CFG 0) F.WAY_TEN_CFG_ENABLE 1).wf (R.WAY_TEN_CFG 0)
     F.WAY_TEN_CFG_ATTACH_A 1).wf R.SYS_MODE F.SYS_MODE_MODE mService).wf (R.WAY_TEN_CFG 0)
     F.WAY_TEN_CFG_VIEW 1).onCmd fun x => { x with objects := [({ tenant := 1, id := 0, stream := some 3, high := 1 } : Obj)] }).setWork 7 { write := true }).onCtx ((65535 : Fin 65536).val) fun x => { x with state := cNew, proto := 1, queue := 1, opcode := 0x88, tenant := 1 }).onCtx (7) fun x => { x with state := cMedia, link := 3 }, 65535, { tenant := 1, id := 0, stream := some 3, high := 1 }, 3, by (simp only [State.objectReaches, State.commandReaches]; decide)⟩,
   ⟨(((wState).onCmd fun x => { x with objects := [({ tenant := 1, id := 0, sealed := false, stream := some 1, closing := some (65535, 0) } : Obj)] }).wf R.SYS_MODE F.SYS_MODE_MODE mService).onCtx ((65535 : Fin 65536).val) fun x => { x with state := cNew, tenant := 1 }, 65535, { tenant := 1, id := 0, sealed := false, stream := some 1, closing := some (65535, 0) }, 1, by decide⟩,
   ⟨((((((wState).wf (R.WAY_TEN_CFG 0) F.WAY_TEN_CFG_ENABLE 1).wf (R.WAY_TEN_CFG 0)
     F.WAY_TEN_CFG_ATTACH_A 1).wf R.SYS_MODE F.SYS_MODE_MODE mService).wf (R.WAY_TEN_CFG 0)
     F.WAY_TEN_CFG_VIEW 1).onCmd fun x => { x with objects := [({ tenant := 1, id := 0, stream := none } : Obj)] }).onCtx ((65535 : Fin 65536).val) fun x => { x with state := cNew, proto := 1, queue := 1, opcode := 0x8c, tenant := 1 }, 65535, { tenant := 1, id := 0, stream := none }, by (simp only [State.objectReaches, State.commandReaches]; decide)⟩,
   ⟨(((((wState).wf (R.WAY_TEN_CFG 0) F.WAY_TEN_CFG_ENABLE 1).wf (R.WAY_TEN_CFG 0)
     F.WAY_TEN_CFG_ATTACH_A 1).wf R.SYS_MODE F.SYS_MODE_MODE mService).wf (R.WAY_TEN_CFG 0)
     F.WAY_TEN_CFG_VIEW 1).onCtx ((65535 : Fin 65536).val)
     fun x => { x with state := cNew, proto := 1, queue := 1, opcode := 0x8e, tenant := 1 }, 65535,
     by (simp only [State.commandReaches]; decide)⟩,
   ⟨((((((wState).wf (R.WAY_TEN_CFG 0) F.WAY_TEN_CFG_ENABLE 1).wf (R.WAY_TEN_CFG 0)
     F.WAY_TEN_CFG_ATTACH_A 1).wf R.SYS_MODE F.SYS_MODE_MODE mService).wf (R.WAY_TEN_CFG 0)
     F.WAY_TEN_CFG_VIEW 1).onCmd fun x => { x with objects := [] }).onCtx ((65535 : Fin 65536).val)
     fun x => { x with state := cNew, proto := 1, queue := 1, opcode := 0x8e, tenant := 1, granCnt := 255 }, 65535,
     by (simp only [State.commandReaches]; decide)⟩,
   ⟨((((((((((wState).wf (R.WAY_TEN_CFG 0) F.WAY_TEN_CFG_ENABLE 1).wf (R.WAY_TEN_CFG 0)
     F.WAY_TEN_CFG_ATTACH_A 1).wf R.SYS_MODE F.SYS_MODE_MODE mService).wf (R.WAY_TEN_CFG 0)
     F.WAY_TEN_CFG_VIEW 1).onCmd fun x => { x with objects := [({ tenant := 1, id := 0 } : Obj)] }).wf (unitReg 2 0)
     (unitFld 0) uIn).wf (unitReg 1 0) (unitFld 0) uIn).wf (unitReg 1 1) (unitFld 1) uIn).wf (R.WAY_CLASS 0)
     F.WAY_CLASS_REDUND 0).onCtx ((65535 : Fin 65536).val)
     fun x => { x with state := cNew, proto := 1, queue := 1, opcode := 0x90, tenant := 1 }, 65535, { tenant := 1, id := 0 },
     by (simp only [State.objectReaches, State.commandReaches]; set_option maxRecDepth 100000 in decide)⟩,
   ⟨(((((((wState).wf (R.WAY_TEN_CFG 0) F.WAY_TEN_CFG_ENABLE 1).wf (R.WAY_TEN_CFG 0)
     F.WAY_TEN_CFG_ATTACH_A 1).wf R.SYS_MODE F.SYS_MODE_MODE mService).wf (R.WAY_TEN_CFG 0)
     F.WAY_TEN_CFG_VIEW 1).onCmd fun x => { x with objects := [({ tenant := 1, id := 0 } : Obj)] }).onWay fun x => { x with lost := [] }).onCtx ((65535 : Fin 65536).val) fun x => { x with state := cNew, proto := 1, queue := 1, opcode := 0x94, tenant := 1 }, 65535, { tenant := 1, id := 0 }, 1, by (simp only [State.objectReaches, State.commandReaches]; decide)⟩,
   ⟨((((((wState).wf (R.WAY_TEN_CFG 0) F.WAY_TEN_CFG_ENABLE 1).wf (R.WAY_TEN_CFG 0)
     F.WAY_TEN_CFG_ATTACH_A 1).wf R.SYS_MODE F.SYS_MODE_MODE mService).wf (R.WAY_TEN_CFG 0)
     F.WAY_TEN_CFG_VIEW 1).onCmd fun x => { x with objects := [({ tenant := 1, id := 0 } : Obj)] }).onCtx ((65535 : Fin 65536).val) fun x => { x with state := cNew, proto := 1, queue := 1, opcode := 0x94, tenant := 1 }, 65535, { tenant := 1, id := 0 }, 1, by (simp only [State.objectReaches, State.commandReaches]; decide)⟩⟩

theorem witness_SidebandRuns :
    (∃ (s : State) (p : Pec) (v : Nat), s.sidebandTakes p ∧ v % 4 = 0) ∧
    (∃ (s : State) (p : Pec) (v : Nat), s.sidebandTakes p ∧ v % 4 ≠ 0) ∧
    (∃ (s : State), s.ready .sideband = true ∧ s.sbWriteNack = false) ∧
    (∃ (s : State) (p : Pec) (v : Word), s.sidebandTakes p ∧ s.sbTxFull = false) ∧
    (∃ (s : State) (p : Pec) (v : Word) (m : Nat), s.sidebandTakes p ∧ s.sbFull = false ∧ s.sbBox = some m) ∧
    (∃ (s : State) (m : Nat) (x : Nat) (l : List Nat), s.ready .sideband = true ∧ s.sbWriteNack = false ∧ s.sbBox = some m ∧
     s.mboxUsable m = true ∧ s.inbound m 1 = x :: l) ∧
    (∃ (s : State) (p : Pec), s.sidebandTakes p ∧ s.flag R.SYS_SB_CFG F.SYS_SB_CFG_RESET_EN = true) ∧
    (∃ (s : State) (p : Pec), s.sidebandTakes p ∧ s.flag R.SYS_SB_CFG F.SYS_SB_CFG_RESET_EN = false) ∧
    (∃ (s : State) (code : Nat), s.ready .sideband = true ∧ s.sbWriteNack = false) ∧
    (∃ (s : State), s.i3cMode = false) ∧
    (∃ (s : State) (a : Fin 128), s.ready .sideband = true ∧ s.i3cMode = false) ∧
    (∃ (s : State) (x : Fin 128) (a : Fin 128), s.ready .sideband = true ∧ s.i3cMode = false ∧
     x.val = fget (s.regValue R.SYS_SB_STATUS) F.SYS_SB_STATUS_STATIC_ADDR) ∧
    (∃ (s : State), s.ready .sideband = true ∧ s.i3cMode = true) ∧
    (∃ (s : State), s.ready .sideband = true) ∧
    (∃ (s : State), s.ready .sideband = true) ∧
    (∃ (s : State), s.ready .sideband = true ∧ s.i3cMode = true) ∧
    (∃ (s : State), s.ready .sideband = true ∧ s.i3cMode = true) ∧
    (∃ (s : State), s.ready .sideband = true ∧ s.i3cMode = true) ∧
    (∃ (s : State) (x : Bool), s.ready .sideband = true ∧ s.i3cMode = true) ∧
    (∃ (s : State), s.hotJoins = true) :=
  ⟨⟨(wState).setReady .sideband true, .good, 0x40, by (simp only [State.sidebandTakes]; decide)⟩,
   ⟨wState, .good, 1, by (simp only [State.sidebandTakes]; decide)⟩,
   ⟨(wState).setReady (.sideband) true, by decide⟩,
   ⟨wState, .good, 0, by (simp only [State.sidebandTakes]; decide)⟩,
   ⟨((wSide).setReady .sideband true).setReady .milepost true, .good, 0, 7, by (simp only [State.sidebandTakes]; decide)⟩,
   ⟨((((wSide).setReady (.sideband) true).onPair fun x => { x with boxes := [(2 * ((7 : Nat)) + (1), (1 : Nat) :: ([] : List Nat))] }).setReady .sideband true).setReady .milepost true, 7, 1, [], by decide⟩,
   ⟨(wState).wf R.SYS_SB_CFG F.SYS_SB_CFG_RESET_EN 1, .good, by (simp only [State.sidebandTakes]; decide)⟩,
   ⟨(wState).wf R.SYS_SB_CFG F.SYS_SB_CFG_RESET_EN 0, .good, by (simp only [State.sidebandTakes]; decide)⟩,
   ⟨(wState).setReady (.sideband) true, 1, by decide⟩,
   ⟨(wState).wf R.SYS_SB_STATUS F.SYS_SB_STATUS_MODE (b2n false), by decide⟩,
   ⟨((wState).setReady (.sideband) true).wf R.SYS_SB_STATUS F.SYS_SB_STATUS_MODE (b2n false), 127, by decide⟩,
   ⟨((wState).setReady (.sideband) true).wf R.SYS_SB_STATUS F.SYS_SB_STATUS_MODE (b2n false), 0x58, 127, by decide⟩,
   ⟨((wState).setReady (.sideband) true).wf R.SYS_SB_STATUS F.SYS_SB_STATUS_MODE (b2n true), by decide⟩,
   ⟨(wState).setReady (.sideband) true, by decide⟩,
   ⟨(wState).setReady (.sideband) true, by decide⟩,
   ⟨((wState).setReady (.sideband) true).wf R.SYS_SB_STATUS F.SYS_SB_STATUS_MODE (b2n true), by decide⟩,
   ⟨((wState).setReady (.sideband) true).wf R.SYS_SB_STATUS F.SYS_SB_STATUS_MODE (b2n true), by decide⟩,
   ⟨((wState).setReady (.sideband) true).wf R.SYS_SB_STATUS F.SYS_SB_STATUS_MODE (b2n true), by decide⟩,
   ⟨((wState).setReady (.sideband) true).wf R.SYS_SB_STATUS F.SYS_SB_STATUS_MODE (b2n true), false, by decide⟩,
   ⟨wState, by decide⟩⟩

theorem witness_WaymarkWorks :
    (∃ (s : State) (k : Fin 65536), (s.ctx k.val).state ∈ [cMedia, cStaged] ∧ 0 < (s.ctx k.val).granCnt ∧
     s.ready .waymark = true ∧ (s.work k.val).discarded = false) ∧
    (∃ (s : State) (n : Nat) (row : Nat) (g : Group), s.group n = some g ∧ row < g.rows ∧ g.parityRows ≤ row ∧ g.redund ≠ 0 ∧
     (∃ b ∈ g.dataBands, s.written b row = true)) ∧
    (∃ (s : State) (n : Nat) (g : Group), s.ready .waymark = true ∧ s.mode ≠ mHaven ∧
     s.cleanCopies.cleanPick s.cleanCopies.way.groups = some (n, g)) ∧
    (∃ (s : State), s.ready .waymark = true ∧ s.mode ≠ mHaven ∧ s.cleanCopies.cleanPick s.cleanCopies.way.groups = none) ∧
    (∃ (s : State), s.surveyMode = false) ∧
    (∃ (s : State), s.surveyMode = true ∧ s.ready .waymark = true) ∧
    (∃ (s : State) (b : Nat), b ∈ s.way.surveys ∧ s.way.found = []) ∧
    (∃ (s : State), s.mode = mDormant ∧ s.rf R.SYS_MODE F.SYS_MODE_PHASE = 1) ∧
    (∃ (s : State), s.ready .waymark = true) ∧
    (∃ (s : State), s.ready .waymark = true ∧ s.rf R.WAY_CKPT_CTL F.WAY_CKPT_CTL_CKPT_BANDS ≤ s.way.opened) ∧
    (∃ (s : State) (i : Initiator) (v : Word), isPair i = true ∧ fget v F.WAY_CKPT_CTL_GO = 1 ∧
     (s.writeFields R.WAY_CKPT_CTL v).ready .waymark = true) ∧
    (∃ (s : State) (x : Fin 32) (n : Nat), s.touchAt (x.val / 8) = some n ∧ n / 2 = x.val ∧ s.mode ≠ mHaven ∧
     (s.touchDone n).mode ≠ mBedding) ∧
    (∃ (s : State) (k : Kenul), s.ready .waymark = false ∧ s.way.loaded = false ∧ s.ready .bedrock = true ∧
     s.kenul = some k ∧ s.mapReadable = true) ∧
    (∃ (s : State), s.way.loaded = true ∧ s.mapReadable = true) :=
  ⟨⟨((wState).setReady (.waymark) true).onCtx ((65535 : Fin 65536).val) fun x => { x with state := cMedia, granCnt := 1 },
     65535, by decide⟩,
   ⟨((wState).onWay fun x => { x with groups := [(1, ({ cls := 0, redund := 1, members := [some 0, some 1], rows := 4 } : Group))] }).onWay fun x => { x with media := [(1, { data := 1 })] }, 1, 1, { cls := 0, redund := 1, members := [some 0, some 1], rows := 4 }, ⟨by decide, by decide, by decide, by decide, 0, by decide, by decide⟩⟩,
   ⟨((wState).setReady (.waymark) true).onWay fun x => { x with groups := [(1, ({ cls := 0, redund := 0, members := [some 0], rows := 4, st := .full } : Group))] }, 1, { cls := 0, redund := 0, members := [some 0], rows := 4, st := .full }, by decide⟩,
   ⟨(wState).setReady (.waymark) true, by decide⟩,
   ⟨wState, by decide⟩,
   ⟨((wState).setReady (.waymark) true).wf R.SYS_MODE F.SYS_MODE_MODE mService, by decide⟩,
   ⟨((wState).onWay fun x => { x with found := [] }).onWay fun x => { x with surveys := [1] }, 1, by decide⟩,
   ⟨((wState).wf R.SYS_MODE F.SYS_MODE_MODE mDormant).wf R.SYS_MODE F.SYS_MODE_PHASE (1), by decide⟩,
   ⟨(wState).setReady (.waymark) true, by decide⟩,
   ⟨((wState).setReady (.waymark) true).onWay fun x => { x with opened := 65535 }, by decide⟩,
   ⟨wState, .port, (fset 0 F.WAY_CKPT_CTL_GO 1), by decide⟩,
   ⟨{ (((wState).onWay fun x => { x with touchQ := [62, 63] }).wf R.SYS_MODE F.SYS_MODE_MODE mService) with kenul := none },
     31, 62, by decide⟩,
   ⟨{ ((((wState).setReady (.waymark) false).onWay fun x => { x with loaded := false }).setReady (.bedrock) true) with kenul := some (wImage : Kenul) }, wImage, ⟨by decide, by decide, by decide, rfl, by decide⟩⟩,
   ⟨(wState).onWay fun x => { x with loaded := true }, by decide⟩⟩

theorem witness_UnitsComeAndGo :
    (∃ (s : State) (i : Initiator) (v : Word), isPair i = true ∧ fget v F.WAY_UNIT_CMD_OP = 1 ∧
     fget v F.WAY_UNIT_CMD_FORCE = 0 ∧ fget v F.WAY_UNIT_CMD_KIND ≠ 0 ∧ s.flag R.WAY_UNIT_STAT F.WAY_UNIT_STAT_BUSY = false ∧
     s.unitExists (fget v F.WAY_UNIT_CMD_KIND) (fget v F.WAY_UNIT_CMD_UNIT) = true ∧ s.unitState (fget v F.WAY_UNIT_CMD_KIND)
     (fget v F.WAY_UNIT_CMD_UNIT) = uIn ∧ s.unitRoom (fget v F.WAY_UNIT_CMD_KIND) (fget v F.WAY_UNIT_CMD_UNIT) = true) ∧
    (∃ (s : State) (i : Initiator) (v : Word), isPair i = true ∧ fget v F.WAY_UNIT_CMD_OP = 1 ∧
     fget v F.WAY_UNIT_CMD_FORCE = 1 ∧ fget v F.WAY_UNIT_CMD_KIND ≠ 0 ∧ s.flag R.WAY_UNIT_STAT F.WAY_UNIT_STAT_BUSY = false ∧
     s.unitExists (fget v F.WAY_UNIT_CMD_KIND) (fget v F.WAY_UNIT_CMD_UNIT) = true ∧ s.unitState (fget v F.WAY_UNIT_CMD_KIND)
     (fget v F.WAY_UNIT_CMD_UNIT) = uIn) ∧
    (∃ (s : State) (i : Initiator) (v : Word), isPair i = true ∧ fget v F.WAY_UNIT_CMD_OP = 2 ∧
     s.flag R.WAY_UNIT_STAT F.WAY_UNIT_STAT_BUSY = false ∧ s.unitExists (fget v F.WAY_UNIT_CMD_KIND)
     (fget v F.WAY_UNIT_CMD_UNIT) = true ∧ s.unitState (fget v F.WAY_UNIT_CMD_KIND) (fget v F.WAY_UNIT_CMD_UNIT) = uOut) ∧
    (∃ (s : State) (i : Initiator) (v : Word), isPair i = true ∧ fget v F.WAY_UNIT_CMD_OP = 2 ∧
     s.flag R.WAY_UNIT_STAT F.WAY_UNIT_STAT_BUSY = true) ∧
    (∃ (s : State) (o : UnitOp), s.way.unitOp = some o ∧ o.bringIn = false ∧ o.kind = 0 ∧ s.mode ≠ mHaven ∧
     s.way.drainHeld = false) ∧
    (∃ (s : State) (o : UnitOp), s.way.unitOp = some o ∧ o.bringIn = false ∧ o.kind ≠ 0 ∧ s.mode ≠ mHaven ∧
     s.way.drainHeld = false ∧ s.rf R.WAY_UNIT_STAT F.WAY_UNIT_STAT_STEP = 1) ∧
    (∃ (s : State) (o : UnitOp), s.way.unitOp = some o ∧ o.bringIn = false ∧ s.mode = mHaven) ∧
    (∃ (s : State) (o : UnitOp), s.way.unitOp = some o ∧ o.bringIn = true ∧ o.kind = 0) ∧
    (∃ (s : State) (o : UnitOp), s.way.unitOp = some o ∧ o.bringIn = true ∧ o.kind ≠ 2) ∧
    (∃ (s : State) (o : UnitOp), s.way.unitOp = some o ∧ o.bringIn = true ∧ o.kind = 2) :=
  ⟨⟨(((wState).wf R.WAY_UNIT_STAT F.WAY_UNIT_STAT_BUSY 0).wf (unitReg ((fget ((fset (fset (fset 0 F.WAY_UNIT_CMD_OP 1)
     F.WAY_UNIT_CMD_FORCE 0) F.WAY_UNIT_CMD_KIND 1) : Word) F.WAY_UNIT_CMD_KIND))
     ((fget ((fset (fset (fset 0 F.WAY_UNIT_CMD_OP 1) F.WAY_UNIT_CMD_FORCE 0) F.WAY_UNIT_CMD_KIND 1) : Word)
     F.WAY_UNIT_CMD_UNIT))) (unitFld ((fget ((fset (fset (fset 0 F.WAY_UNIT_CMD_OP 1) F.WAY_UNIT_CMD_FORCE 0)
     F.WAY_UNIT_CMD_KIND 1) : Word) F.WAY_UNIT_CMD_UNIT))) uIn).wf (unitReg 2 0) (unitFld 0) uIn, .port,
     (fset (fset (fset 0 F.WAY_UNIT_CMD_OP 1) F.WAY_UNIT_CMD_FORCE 0) F.WAY_UNIT_CMD_KIND 1),
     by set_option maxRecDepth 100000 in decide⟩,
   ⟨(((wState).wf R.WAY_UNIT_STAT F.WAY_UNIT_STAT_BUSY 0).wf (unitReg ((fget ((fset (fset (fset 0 F.WAY_UNIT_CMD_OP 1)
     F.WAY_UNIT_CMD_FORCE 1) F.WAY_UNIT_CMD_KIND 1) : Word) F.WAY_UNIT_CMD_KIND))
     ((fget ((fset (fset (fset 0 F.WAY_UNIT_CMD_OP 1) F.WAY_UNIT_CMD_FORCE 1) F.WAY_UNIT_CMD_KIND 1) : Word)
     F.WAY_UNIT_CMD_UNIT))) (unitFld ((fget ((fset (fset (fset 0 F.WAY_UNIT_CMD_OP 1) F.WAY_UNIT_CMD_FORCE 1)
     F.WAY_UNIT_CMD_KIND 1) : Word) F.WAY_UNIT_CMD_UNIT))) uIn).wf (unitReg 2 0) (unitFld 0) uIn, .port,
     (fset (fset (fset 0 F.WAY_UNIT_CMD_OP 1) F.WAY_UNIT_CMD_FORCE 1) F.WAY_UNIT_CMD_KIND 1),
     by set_option maxRecDepth 100000 in decide⟩,
   ⟨((wState).wf R.WAY_UNIT_STAT F.WAY_UNIT_STAT_BUSY 0).wf (unitReg ((fget ((fset 0 F.WAY_UNIT_CMD_OP 2) : Word)
     F.WAY_UNIT_CMD_KIND)) ((fget ((fset 0 F.WAY_UNIT_CMD_OP 2) : Word) F.WAY_UNIT_CMD_UNIT)))
     (unitFld ((fget ((fset 0 F.WAY_UNIT_CMD_OP 2) : Word) F.WAY_UNIT_CMD_UNIT))) uOut, .port, (fset 0 F.WAY_UNIT_CMD_OP 2),
     by decide⟩,
   ⟨(wState).wf R.WAY_UNIT_STAT F.WAY_UNIT_STAT_BUSY 1, .port, (fset 0 F.WAY_UNIT_CMD_OP 2), by decide⟩,
   ⟨((wState).onWay fun x => { x with unitOp := some (⟨false, false, 0, 7⟩ : UnitOp) }).onWay fun x => { x with drainHeld := false }, ⟨false, false, 0, 7⟩, by decide⟩,
   ⟨(((wState).onWay fun x => { x with unitOp := some (⟨false, false, 2, 7⟩ : UnitOp) }).onWay fun x => { x with drainHeld := false }).wf R.WAY_UNIT_STAT F.WAY_UNIT_STAT_STEP (1), ⟨false, false, 2, 7⟩, by decide⟩,
   ⟨((wState).onWay fun x => { x with unitOp := some (⟨false, false, 0, 7⟩ : UnitOp) }).wf R.SYS_MODE F.SYS_MODE_MODE mHaven,
     ⟨false, false, 0, 7⟩, by decide⟩,
   ⟨(wState).onWay fun x => { x with unitOp := some (⟨true, false, 0, 7⟩ : UnitOp) }, ⟨true, false, 0, 7⟩, by decide⟩,
   ⟨(wState).onWay fun x => { x with unitOp := some (⟨true, false, 0, 7⟩ : UnitOp) }, ⟨true, false, 0, 7⟩, by decide⟩,
   ⟨(wState).onWay fun x => { x with unitOp := some (⟨true, false, 2, 7⟩ : UnitOp) }, ⟨true, false, 2, 7⟩, by decide⟩⟩

theorem witness_SlicesAndGatesRun :
    (∃ (s : State) (n : Fin 8), s.ldAssigned n.val = true) ∧
    (∃ (s : State) (n : Fin 8), s.kenul = none) ∧
    (∃ (s : State) (n : Fin 8), s.ldAssigned n.val = true ∧ s.flag (R.LD_CFG n.val) F.LD_CFG_ADC_CAL = true) ∧
    (∃ (s : State) (i : Initiator) (n : Fin 8) (v : Word) (z : Zone),
     s.zone (8 * (s.sliceAct n.val).getD 0 + fget v F.LD_SEL_HEAD) (fget v F.LD_SEL_ZONE) = some z ∧
     s.ldOpen i n.val = true ∧ s.ldReady n.val = true ∧ fget v F.LD_SEL_HEAD < s.heads ((s.sliceAct n.val).getD 0) ∧
     s.rf (R.LD_SEL n.val) F.LD_SEL_HEAD = fget v F.LD_SEL_HEAD ∧ s.rf (R.LD_SEL n.val) F.LD_SEL_ZONE = fget v F.LD_SEL_ZONE) ∧
    (∃ (s : State) (i : Initiator) (n : Fin 8) (v : Word), s.ldOpen i n.val = true ∧ fget v F.LD_CFG_SOURCE < 2 ∧
     s.ldReady n.val = true) ∧
    (∃ (s : State) (n : Fin 8), s.livePair n.val = true ∧ s.flag (R.LD_TA_STAT n.val) F.LD_TA_STAT_ACTIVE = false) ∧
    (∃ (s : State) (n : Fin 8) (src : Fin 6) (b : Bool), s.ldAssigned n.val = true) ∧
    (∃ (s : State) (n : Fin 8), s.frzOn n.val = 0) ∧
    (∃ (s : State) (n : Fin 8), s.frzOn n.val % 32 ≠ 0) ∧
    (∃ (s : State) (n : Fin 8), s.flag (R.LD_CLR_CTL n.val) F.LD_CLR_CTL_EN = true ∧ s.livePair n.val = true ∧
     (s.slice n.val).clr = s.clrCount n.val) ∧
    (∃ (s : State) (n : Fin 8) (a : List Int) (b : List Int), s.ldReady n.val = true ∧ s.livePair n.val = false ∧
     s.inRing n.val = true) ∧
    (∃ (s : State) (t : State) (n : Fin 8) (a : List Int) (b : List Int), s.ldReady n.val = true ∧ s.livePair n.val = true ∧
     s.inRing n.val = false ∧ t = s.setSlice n.val { s.slice n.val with now := (s.slice n.val).now + 1 }) ∧
    (∃ (s : State) (i : Initiator) (a : Fin 4) (v : Word), s.actChannel i a.val = true ∧ s.gateOpen a.val = true) ∧
    (∃ (s : State) (i : Initiator) (a : Fin 4) (v : Word) (z : Zone), s.zone (8 * a.val + fget v F.ACT_WC_SEL_HEAD)
     (fget v F.ACT_WC_SEL_ZONE) = some z ∧ s.actChannel i a.val = true ∧ fget v F.ACT_WC_SEL_HEAD < s.heads a.val ∧
     s.gateOpen a.val = false) ∧
    (∃ (s : State) (i : Initiator) (a : Fin 4) (v : Word), s.actChannel i a.val = true ∧ fget v F.ACT_WC_CTL_HEAT_REQ = 1) ∧
    (∃ (s : State) (i : Initiator) (a : Fin 4) (v : Word), s.actChannel i a.val = true ∧ fget v F.ACT_WC_CTL_HEAT_REQ = 0) ∧
    (∃ (s : State) (a : Fin 4), s.gateOpen a.val = false ∧ s.actPresent a.val = true ∧
     (s.raiseHeat (s.wcHead a.val)).gateOk a.val = true ∧ (s.raiseHeat (s.wcHead a.val)).flag (R.ACT_WC_STAT a.val)
     F.ACT_WC_STAT_HEAT_READY = true) ∧
    (∃ (s : State) (a : Fin 4), s.gateOpen a.val = false ∧ s.actPresent a.val = true ∧
     (s.raiseHeat (s.wcHead a.val)).gateOk a.val = false) ∧
    (∃ (s : State) (a : Fin 4), (s.wc a.val).waiting = true) ∧
    (∃ (s : State) (a : Fin 4), s.gateOpen a.val = true) ∧
    (∃ (s : State) (a : Fin 4), s.gateOpen a.val = true ∧ s.gateOk a.val = false ∧ s.flag (R.ACT_WC_STAT a.val)
     F.ACT_WC_STAT_PERMIT = false) ∧
    (∃ (s : State) (a : Fin 4), s.gateOk a.val = true) ∧
    (∃ (s : State) (a : Fin 4), s.gateOpen a.val = true) :=
  ⟨⟨wState, 7, by decide⟩,
   ⟨{ (wState) with kenul := none }, 7, by decide⟩,
   ⟨(wState).wf (R.LD_CFG (7 : Fin 8).val) F.LD_CFG_ADC_CAL 1, 7, by decide⟩,
   ⟨((wState).wf (R.LD_SEL (7 : Fin 8).val) F.LD_SEL_HEAD (fget (0 : Word) F.LD_SEL_HEAD)).wf (R.LD_SEL (7 : Fin 8).val)
     F.LD_SEL_ZONE (fget (0 : Word) F.LD_SEL_ZONE), .port, 7, 0, wZone, by decide⟩,
   ⟨wState, .port, 7, 0, by decide⟩,
   ⟨(wState).wf (R.LD_TA_STAT (7 : Fin 8).val) F.LD_TA_STAT_ACTIVE 0, 7, by decide⟩,
   ⟨wState, 7, 5, false, by decide⟩,
   ⟨wState, 7, by decide⟩,
   ⟨((wState).wf (R.LD_STATUS (7 : Fin 8).val) F.LD_STATUS_FRZ 1).wf (R.LD_FREEZE (7 : Fin 8).val) F.LD_FREEZE_MASK 7, 7,
     by decide⟩,
   ⟨(((wState).wf (R.LD_CLR_CTL (7 : Fin 8).val) F.LD_CLR_CTL_EN 1).wf (R.LD_CLR_CTL (7 : Fin 8).val)
     F.LD_CLR_CTL_N 0).onSlice ((7 : Fin 8).val) fun x => { x with clr := 1 }, 7, by decide⟩,
   ⟨((wState).wf (R.LD_CFG ((7 : Fin 8).val)) F.LD_CFG_SOURCE (b2n true)).wf (R.LD_CFG (7 : Fin 8).val) F.LD_CFG_LIVE_PAIR 3,
     7, [], [], by decide⟩,
   ⟨(wState).wf (R.LD_CFG ((7 : Fin 8).val)) F.LD_CFG_SOURCE (b2n false), (((wState).wf (R.LD_CFG ((7 : Fin 8).val))
     F.LD_CFG_SOURCE (b2n false))).setSlice (7 : Fin 8).val { (((wState).wf (R.LD_CFG ((7 : Fin 8).val)) F.LD_CFG_SOURCE (b2n false))).slice (7 : Fin 8).val with now := ((((wState).wf (R.LD_CFG ((7 : Fin 8).val)) F.LD_CFG_SOURCE (b2n false))).slice (7 : Fin 8).val).now + 1 }, 7, [], [], ⟨by decide, by decide, by decide, rfl⟩⟩,
   ⟨(wState).wf (R.ACT_WC_STAT ((3 : Fin 4).val)) F.ACT_WC_STAT_GATE (b2n true), .port, 3, 0, by decide⟩,
   ⟨(wState).wf (R.ACT_WC_STAT ((3 : Fin 4).val)) F.ACT_WC_STAT_GATE (b2n false), .port, 3, 0, wZone, by decide⟩,
   ⟨wState, .port, 3, (fset 0 F.ACT_WC_CTL_HEAT_REQ 1), by decide⟩,
   ⟨wState, .port, 3, (fset 0 F.ACT_WC_CTL_HEAT_REQ 0), by decide⟩,
   ⟨(((((((wState).wf (R.ACT_WC_STAT ((3 : Fin 4).val)) F.ACT_WC_STAT_GATE (b2n false)).wf (R.ACT_WC_CTL (3 : Fin 4).val)
     F.ACT_WC_CTL_ENABLE 1).wf (R.ACT_WC_STAT (3 : Fin 4).val) F.ACT_WC_STAT_CLK_LOCK 1).wf (R.ACT_WC_STAT (3 : Fin 4).val)
     F.ACT_WC_STAT_PERMIT 1).wf (R.ACT_WC_STAT (3 : Fin 4).val)
     F.ACT_WC_STAT_PREAMP_BUSY 0).wf (R.ACT_WC_STAT (3 : Fin 4).val)
     F.ACT_WC_STAT_HEAT_READY 1).wf R.SYS_MODE F.SYS_MODE_MODE mService, 3, by decide⟩,
   ⟨(wState).wf (R.ACT_WC_STAT ((3 : Fin 4).val)) F.ACT_WC_STAT_GATE (b2n false), 3, by decide⟩,
   ⟨(wState).onWc ((3 : Fin 4).val) fun x => { x with waiting := true }, 3, by decide⟩,
   ⟨(wState).wf (R.ACT_WC_STAT ((3 : Fin 4).val)) F.ACT_WC_STAT_GATE (b2n true), 3, by decide⟩,
   ⟨((wState).wf (R.ACT_WC_STAT ((3 : Fin 4).val)) F.ACT_WC_STAT_GATE (b2n true)).wf (R.ACT_WC_STAT (3 : Fin 4).val)
     F.ACT_WC_STAT_PERMIT 0, 3, by decide⟩,
   ⟨((((((wState).wf (R.ACT_WC_CTL (3 : Fin 4).val) F.ACT_WC_CTL_ENABLE 1).wf (R.ACT_WC_STAT (3 : Fin 4).val)
     F.ACT_WC_STAT_CLK_LOCK 1).wf (R.ACT_WC_STAT (3 : Fin 4).val) F.ACT_WC_STAT_PERMIT 1).wf (R.ACT_WC_STAT (3 : Fin 4).val)
     F.ACT_WC_STAT_PREAMP_BUSY 0).wf (R.ACT_WC_STAT (3 : Fin 4).val)
     F.ACT_WC_STAT_HEAT_READY 1).wf R.SYS_MODE F.SYS_MODE_MODE mService, 3, by decide⟩,
   ⟨(wState).wf (R.ACT_WC_STAT ((3 : Fin 4).val)) F.ACT_WC_STAT_GATE (b2n true), 3, by decide⟩⟩

theorem witness_FramingRuns :
    (∃ (s : State) (m : Fin 12) (clock : Int), s.msPresent m.val = true ∧ s.msState m.val = msLocked ∧
     (s.act (s.msAct m.val)).timing = none) ∧
    (∃ (s : State) (m : Fin 12) (clock : Int) (r : Int) (p : Int), s.msPresent m.val = true ∧ s.msState m.val = msLocked ∧
     (s.act (s.msAct m.val)).timing = some r ∧ p = r - clock + s.phaseOfs m.val + (s.ms m.val).fine ∧
     p.natAbs ≤ s.rf (msCtl m.val) F.LD_MS_CTL_LOSS_TH) ∧
    (∃ (s : State) (m : Fin 12), s.msState m.val = msHoldover) ∧
    (∃ (s : State) (n : Fin 8) (track : Nat) (sector : Nat) (age : Nat), s.skipped (s.frameSurf n.val) track sector = true) ∧
    (∃ (s : State) (n : Fin 8) (track : Nat) (sector : Nat) (age : Nat), s.flag (R.LD_FRM_CTL n.val)
     F.LD_FRM_CTL_TS = false ∧ s.ldReady n.val = true ∧ s.livePair n.val = true ∧ s.inRing n.val = false ∧
     s.sectorOut n.val sector age (s.frameWin n.val) = true) ∧
    (∃ (s : State) (i : Initiator) (n : Fin 8) (v : Word), s.ldOpen i n.val = true ∧ s.inRing n.val = true ∧
     s.flag (R.LD_REFRAME_RES n.val) F.LD_REFRAME_RES_BUSY = false ∧ fget v F.LD_REFRAME_BASE ≠ 3 ∧
     signedOf 4 (fget v F.LD_REFRAME_SHIFT) ≠ -8) ∧
    (∃ (s : State) (n : Fin 8) (sector : Nat) (base : Nat) (v : Nat) (relax : Bool) (shift : Int),
     (s.slice n.val).reframe = some (sector, base, relax, shift) ∧ s.inRing n.val = true ∧
     s.replayMark n.val (fun a => a / 2 ^ 32 % 2 ^ 16 = sector) = some v ∧ 0 ≤ s.replayAge n.val v ∧
     s.sectorOut n.val sector (s.replayAge n.val v).toNat 7 = true) :=
  ⟨⟨(wState).wf (msStat ((11 : Fin 12).val)) F.LD_MS_STAT_STATE msLocked, 11, 1, by decide⟩,
   ⟨(((wState).wf (msStat ((11 : Fin 12).val)) F.LD_MS_STAT_STATE msLocked).wf (msCtl 11) F.LD_MS_CTL_LOSS_TH 100).onAct (3)
     fun x => { x with timing := some 1 }, 11, 1, 1, 0, by decide⟩,
   ⟨(wState).wf (msStat ((11 : Fin 12).val)) F.LD_MS_STAT_STATE msHoldover, 11, by decide⟩,
   ⟨(wState).onWay fun x => { x with defects := [⟨24, 1, true, 1, 0, 0⟩] }, 7, 1, 1, 1, by decide⟩,
   ⟨((wState).wf (R.LD_FRM_CTL (7 : Fin 8).val) F.LD_FRM_CTL_TS 0).wf (R.LD_CFG ((7 : Fin 8).val))
     F.LD_CFG_SOURCE (b2n false), 7, 1, 1, 1000000, by decide⟩,
   ⟨((wState).wf (R.LD_CFG ((7 : Fin 8).val)) F.LD_CFG_SOURCE (b2n true)).wf (R.LD_REFRAME_RES (7 : Fin 8).val)
     F.LD_REFRAME_RES_BUSY 0, .port, 7, 0, by decide⟩,
   ⟨((((((wState).wf (R.LD_CFG ((7 : Fin 8).val)) F.LD_CFG_SOURCE (b2n true)).wf (R.BED_PART 0)
     F.BED_PART_SIZE 1).wr (R.LD_RPLY_START_LO (7 : Fin 8).val) 1000000).wf (R.LD_RING_CFG (7 : Fin 8).val)
     F.LD_RING_CFG_RPLY_Q 0).addMark 0 mkSector 0 (2 ^ 32)).onSlice ((7 : Fin 8).val)
     fun x => { x with reframe := some ((1 : Nat), (1 : Nat), (false : Bool), (1 : Int)) }, 7, 1, 1, 1 + 2 ^ 96, false, 1,
     by set_option maxRecDepth 100000 in decide⟩⟩

theorem witness_QuarryDecodes :
    (∃ (s : State) (i : Initiator) (n : Fin 8) (v : Word), s.qryOpen i n.val = true ∧ s.qryFree n.val ≠ 0 ∧
     fget v F.QRY_SUB_CMD_CLASS ≠ 3) ∧
    (∃ (s : State) (i : Initiator) (n : Fin 8) (v : Word), s.qryOpen i n.val = true ∧ fget v F.QRY_SUB_CMD_CLASS ≠ 3) ∧
    (∃ (s : State) (e : Fin 12) (x : Slot), s.engineFree e.val = true ∧ s.ready .quarry = true ∧
     bestSlot (s.qry.slots.filter s.slotWaits) = some x) ∧
    (∃ (s : State) (e : Fin 12) (x : Slot), s.engineSlot e.val = some x) ∧
    (∃ (s : State) (n : Fin 8) (d : Desc) (c : Cpl) (id : Option Nat) (an : Int) (rest : List (Desc × DescSt)), (∀ k,
     (s.seq k).ladder = none) ∧ (s.seq n.val).catching = none ∧ s.qents n.val = (d, .done c id an) :: rest ∧
     c.status ≠ qFail ∧ c.status ≠ qMiscorrect) ∧
    (∃ (s : State) (i : Initiator) (n : Fin 8) (v : Word), s.qryOpen i n.val = true ∧ fget v F.QRY_CPL_POP_POP = 1) ∧
    (∃ (s : State) (e : Fin 12), s.noInjection) ∧
    (∃ (s : State) (i : Initiator) (v : Word), s.ready .quarry = true ∧ isPair i = true) ∧
    (∃ (s : State) (n : Fin 8) (c : Nat), (s.slice n.val).playing = true ∧ s.rplyEnd n.val = some c ∧
     (c = 3 ∨ (s.slice n.val).reframe = none)) ∧
    (∃ (s : State) (i : Initiator) (n : Fin 8) (v : Word), s.ldOpen i n.val = true) ∧
    (∃ (s : State) (u : State) (n : Fin 8) (sec : Nat), (s.slice n.val).find = some sec) ∧
    (∃ (s : State) (u : State) (n : Fin 8) (sec : Nat) (m : Nat), (s.slice n.val).find = some sec) :=
  ⟨⟨wState, .port, 7, 0, by decide⟩,
   ⟨wState, .port, 7, 0, by decide⟩,
   ⟨((((wState).setReady (.quarry) true).wf R.QRY_ENG F.QRY_ENG_EN 0xFFF).onQry fun x => { x with slots := [({ id := 0, slice := 0, desc := ⟨0, 0, false, 1, 0, 0, 0⟩, frame := 0, codeSet := 0 } : Slot)] }).onQry fun x => { x with ents := [[(({ id := 0, slice := 0, desc := ⟨0, 0, false, 1, 0, 0, 0⟩, frame := 0, codeSet := 0 } : Slot).desc, .bound ({ id := 0, slice := 0, desc := ⟨0, 0, false, 1, 0, 0, 0⟩, frame := 0, codeSet := 0 } : Slot).id)]] }, 11, { id := 0, slice := 0, desc := ⟨0, 0, false, 1, 0, 0, 0⟩, frame := 0, codeSet := 0 }, by decide⟩,
   ⟨(wState).onQry fun x => { x with slots := [({ id := 0, slice := 0, desc := ⟨0, 0, false, 1, 0, 0, 0⟩, frame := 0, codeSet := 0, engine := some 11 } : Slot)] }, 11, { id := 0, slice := 0, desc := ⟨0, 0, false, 1, 0, 0, 0⟩, frame := 0, codeSet := 0, engine := some 11 }, by decide⟩,
   ⟨((wState).onQry fun x => { x with ents := List.replicate 7 [] ++ [[((⟨0, 0, false, 1, 0, 0, 0⟩ : Desc), .done ({ status := 1, sector := 1 } : Cpl) (none : Option Nat) (1 : Int))]] }).onSeq ((7 : Fin 8).val) fun x => { x with catching := none }, 7, ⟨0, 0, false, 1, 0, 0, 0⟩, { status := 1, sector := 1 }, none, 1, [], ⟨fun k => w_noLadder k, by decide, by decide, by decide⟩⟩,
   ⟨wState, .port, 7, (fset 0 F.QRY_CPL_POP_POP 1), by decide⟩,
   ⟨wState, 11, by (simp only [State.noInjection]; decide)⟩,
   ⟨(wState).setReady (.quarry) true, .port, 0, by decide⟩,
   ⟨((wState).wr (R.LD_RPLY_LEN (7 : Fin 8).val) 0).onSlice ((7 : Fin 8).val) fun x => { x with playing := true }, 7, 1,
     by decide⟩,
   ⟨wState, .port, 7, 0, by decide⟩,
   ⟨(wState).onSlice ((7 : Fin 8).val) fun x => { x with find := some (1 : Nat) }, (wState).onSlice ((7 : Fin 8).val)
     fun x => { x with find := some (1 : Nat) }, 7, 1, by decide⟩,
   ⟨(wState).onSlice ((7 : Fin 8).val) fun x => { x with find := some (1 : Nat) }, (wState).onSlice ((7 : Fin 8).val)
     fun x => { x with find := some (1 : Nat) }, 7, 1, 1, by decide⟩⟩

theorem witness_LoopsRun :
    (∃ (s : State) (t : Fin 16) (l : Fin 80), t.val ≠ 0 ∧ s.rf (R.BAS_LCFG l.val) F.BAS_LCFG_TRIG = t.val ∧
     s.loopEn l.val = true ∧ s.flag (R.BAS_LCFG l.val) F.BAS_LCFG_HOLD = false ∧ (l.val < 48 ∨ s.heatUp (l.val - 48) = false)
     ∧ (s.loop l.val).waiting = none) ∧
    (∃ (s : State) (t : Fin 16) (l : Fin 80) (n : Nat), t.val ≠ 0 ∧ s.rf (R.BAS_LCFG l.val) F.BAS_LCFG_TRIG = t.val ∧
     s.loopEn l.val = true ∧ s.flag (R.BAS_LCFG l.val) F.BAS_LCFG_HOLD = false ∧ (l.val < 48 ∨ s.heatUp (l.val - 48) = false)
     ∧ (s.loop l.val).waiting = some n) ∧
    (∃ (s : State) (t : Fin 16) (l : Fin 80), s.loopEn l.val = false) ∧
    (∃ (s : State) (t : Fin 16) (l : Fin 80), s.flag (R.BAS_LCFG l.val) F.BAS_LCFG_HOLD = true) ∧
    (∃ (s : State) (i : Initiator) (v : Word), s.basOpen i = true ∧ 10 ≤ fget v F.BAS_KICK_LOOP ∧
     fget v F.BAS_KICK_LOOP < 80 ∧ s.innerOf (fget v F.BAS_KICK_LOOP) = none) ∧
    (∃ (s : State) (i : Initiator) (l : Fin 80) (v : Word), s.basOpen i = false) ∧
    (∃ (s : State) (i : Initiator) (l : Fin 80), s.loopLegal i l.val ∧ s.loopEn l.val = false) ∧
    (∃ (s : State) (i : Initiator) (l : Fin 80), s.loopLegal i l.val) ∧
    (∃ (s : State) (i : Initiator) (l : Fin 80), s.loopLegal i l.val) ∧
    (∃ (s : State) (i : Initiator) (l : Fin 80), s.loopLegal i l.val) ∧
    (∃ (s : State) (i : Initiator) (l : Fin 80) (v : Word), s.basOpen i = true) ∧
    (∃ (s : State) (i : Initiator) (k : Fin 16) (v : Word), s.basOpen i = true) ∧
    (∃ (s : State) (i : Initiator) (v : Word), s.basOpen i = true ∧ fget v F.BAS_SV_HWM_CLR = 1) ∧
    (∃ (s : State) (ns : Nat) (k : List Nat) (l : Nat), s.chooseLoop 80 = some (k, l) ∧ l ≠ 9) ∧
    (∃ (s : State) (ns : Nat) (k : List Nat), s.chooseLoop 80 = some (k, 9)) :=
  ⟨⟨((((wState).wf (R.BAS_LCFG (79 : Fin 80).val) F.BAS_LCFG_TRIG ((15 : Fin 16).val)).wf (R.BAS_LCFG ((79 : Fin 80).val))
     F.BAS_LCFG_EN (b2n true)).wf (R.BAS_LCFG (79 : Fin 80).val) F.BAS_LCFG_HOLD 0).onLoop ((79 : Fin 80).val)
     fun x => { x with waiting := none }, 15, 79, by decide⟩,
   ⟨((((wState).wf (R.BAS_LCFG (79 : Fin 80).val) F.BAS_LCFG_TRIG ((15 : Fin 16).val)).wf (R.BAS_LCFG ((79 : Fin 80).val))
     F.BAS_LCFG_EN (b2n true)).wf (R.BAS_LCFG (79 : Fin 80).val) F.BAS_LCFG_HOLD 0).onLoop ((79 : Fin 80).val)
     fun x => { x with waiting := some (1 : Nat) }, 15, 79, 1, by decide⟩,
   ⟨(wState).wf (R.BAS_LCFG ((79 : Fin 80).val)) F.BAS_LCFG_EN (b2n false), 15, 79, by decide⟩,
   ⟨(wState).wf (R.BAS_LCFG (79 : Fin 80).val) F.BAS_LCFG_HOLD 1, 15, 79, by decide⟩,
   ⟨wState, .port, (fset 0 F.BAS_KICK_LOOP 10), by decide⟩,
   ⟨wState, .str 0, 79, 0, by decide⟩,
   ⟨(wState).wf (R.BAS_LCFG ((79 : Fin 80).val)) F.BAS_LCFG_EN (b2n false), .port, 79,
     by (simp only [State.loopLegal]; decide)⟩,
   ⟨wState, .port, 79, by (simp only [State.loopLegal]; decide)⟩,
   ⟨wState, .port, 79, by (simp only [State.loopLegal]; decide)⟩,
   ⟨wState, .port, 79, by (simp only [State.loopLegal]; decide)⟩,
   ⟨wState, .port, 79, 0, by decide⟩,
   ⟨wState, .port, 15, 0, by decide⟩,
   ⟨wState, .port, (fset 0 F.BAS_SV_HWM_CLR 1), by decide⟩,
   ⟨((wState).wf (R.BAS_LCFG 79) F.BAS_LCFG_EN 1).onLoop (79) fun x => { x with waiting := some 4 }, 1, [loopClass 79, 1, 4,
     79], 79, by set_option maxRecDepth 100000 in decide⟩,
   ⟨((wState).wf (R.BAS_LCFG 9) F.BAS_LCFG_EN 1).onLoop (9) fun x => { x with waiting := some 4 }, 1, [loopClass 9, 1, 4, 9],
     by set_option maxRecDepth 100000 in decide⟩⟩

theorem witness_ActuatorsMove :
    (∃ (s : State) (a : Fin 4) (d : Demod) (clock : Option Int), s.actPresent a.val = true ∧ s.servoRead a.val = some (d,
     clock)) ∧
    (∃ (s : State) (a : Fin 4), s.actPresent a.val = true ∧ s.servoRead a.val = none) ∧
    (∃ (s : State) (a : Fin 4), s.actPresent a.val = true) ∧
    (∃ (s : State) (i : Initiator) (a : Fin 4), actPair i = true ∧ s.actPresent a.val = true ∧ s.actSt a.val = aParked ∧
     s.rf (R.ACT_PA_ENUM a.val) F.ACT_PA_ENUM_RESULT = enOk ∧ s.ready .millstone = true ∧ s.unitState 2 a.val ≠ uOut) ∧
    (∃ (s : State) (i : Initiator) (a : Fin 4), actPair i = true ∧ s.canUnload a.val = true) ∧
    (∃ (s : State) (i : Initiator) (a : Fin 4) (v : Word), s.actChannel i a.val = true ∧ s.actSt a.val = aFollow ∧
     fget v F.ACT_SEEK_TRACK < ((s.servoSurface a.val).map Surface.tracks).getD 0) ∧
    (∃ (s : State) (i : Initiator) (a : Fin 4) (p : Fin 2) (v : Word), s.actChannel i a.val = true ∧
     fget v F.ACT_HSEL_HEAD < s.heads a.val ∧ s.gateOpen a.val = false ∧ p.val ≠ s.servoPair a.val) ∧
    (∃ (s : State) (a : Fin 4), s.actSt a.val = aLoading) ∧
    (∃ (s : State) (a : Fin 4), s.actSt a.val = aLost) ∧
    (∃ (s : State) (i : Initiator) (a : Fin 4) (v : Word), actPair i = true ∧ fget v F.ACT_DITHER_EN = 0) ∧
    (∃ (s : State) (x : Int) (k : Fin 8), s.owner (0x0700 + k.val) ≠ 0x40 ∧
     s.flag R.ACT0_SHOCK_CFG F.ACT0_SHOCK_CFG_EN = true ∧ s.rf R.ACT0_SHOCK_CFG F.ACT0_SHOCK_CFG_SENSOR = k.val ∧
     s.rf R.ACT0_SHOCK_CFG F.ACT0_SHOCK_CFG_THR ≤ x.natAbs) ∧
    (∃ (s : State) (x : Int) (k : Fin 8), s.owner (0x0700 + k.val) ≠ 0x40 ∧
     (s.rf R.ACT0_SHOCK_CFG F.ACT0_SHOCK_CFG_SENSOR ≠ k.val ∨ x.natAbs < s.rf R.ACT0_SHOCK_CFG F.ACT0_SHOCK_CFG_THR)) ∧
    (∃ (s : State) (x : Int) (k : Fin 8), s.owner (0x0700 + k.val) = 0x40 ∧
     x.natAbs < s.rf R.ACT0_SHOCK_CFG F.ACT0_SHOCK_CFG_THR) ∧
    (∃ (s : State) (a : Fin 4) (d : Fin 256) (f : PaFrame), (s.act a.val).busy = some f) ∧
    (∃ (s : State) (a : Fin 4), s.actPresent a.val = true ∧ s.actSt a.val ≠ aParked) ∧
    (∃ (s : State) (i : Initiator) (a : Fin 4) (v : Word), actPair i = true ∧ s.flag (R.ACT_PA_XFER a.val)
     F.ACT_PA_XFER_BUSY = false ∧ fget v F.ACT_PA_XFER_ADDR ≠ s.rf (R.ACT_PA_MAP0 a.val) F.ACT_PA_MAP0_HSEL_ADDR ∧
     fget v F.ACT_PA_XFER_ADDR ≠ s.rf (R.ACT_PA_MAP0 a.val) F.ACT_PA_MAP0_HSEL_ADDR + 1) ∧
    (∃ (s : State) (a : Fin 4), (s.act a.val).flt = false) ∧
    (∃ (s : State) (a : Fin 4) (id : Nat) (mask : Nat), (s.act a.val).enum = some (some id, some mask) ∧ id ≠ 0 ∧ id ≠ 255 ∧
     mask &&& (2 ^ s.heads a.val - 1) = 2 ^ s.heads a.val - 1) ∧
    (∃ (s : State) (a : Fin 4) (mask : Nat), (s.act a.val).enum = some (some 0, some mask)) ∧
    (∃ (s : State) (a : Fin 4), (s.act a.val).enum = none) :=
  ⟨⟨(wState).wf (R.LD_CFG 7) F.LD_CFG_LIVE_PAIR 0, 3, .tones 0 0 0 0, none, by set_option maxRecDepth 100000 in decide⟩,
   ⟨((wState).wf (R.LD_CFG 6) F.LD_CFG_LIVE_PAIR 2).wf (R.LD_CFG 7) F.LD_CFG_LIVE_PAIR 2, 3,
     by set_option maxRecDepth 100000 in decide⟩,
   ⟨wState, 3, by decide⟩,
   ⟨((((wState).wf (R.ACT_STATE ((3 : Fin 4).val)) F.ACT_STATE_STATE aParked).wf (R.ACT_PA_ENUM (3 : Fin 4).val)
     F.ACT_PA_ENUM_RESULT (enOk)).setReady (.millstone) true).wf (unitReg 2 3) (unitFld 3) uIn, .media, 3, by decide⟩,
   ⟨(wState).wf (R.ACT_STATE 3) F.ACT_STATE_STATE aSettle, .media, 3, by decide⟩,
   ⟨(wState).wf (R.ACT_STATE ((3 : Fin 4).val)) F.ACT_STATE_STATE aFollow, .port, 3, 0, by decide⟩,
   ⟨(wState).wf (R.ACT_WC_STAT ((3 : Fin 4).val)) F.ACT_WC_STAT_GATE (b2n false), .port, 3, 1, 0, by decide⟩,
   ⟨(wState).wf (R.ACT_STATE ((3 : Fin 4).val)) F.ACT_STATE_STATE aLoading, 3, by decide⟩,
   ⟨(wState).wf (R.ACT_STATE ((3 : Fin 4).val)) F.ACT_STATE_STATE aLost, 3, by decide⟩,
   ⟨wState, .port, 3, (fset 0 F.ACT_DITHER_EN 0), by decide⟩,
   ⟨((wState).wf R.ACT0_SHOCK_CFG F.ACT0_SHOCK_CFG_EN 1).wf R.ACT0_SHOCK_CFG F.ACT0_SHOCK_CFG_SENSOR ((7 : Fin 8).val),
     -100000, 7, by decide⟩,
   ⟨wState, 1, 7, by decide⟩,
   ⟨((wMore ⟨0x707, 0x40, 15⟩)).wf R.ACT0_SHOCK_CFG F.ACT0_SHOCK_CFG_THR 100, 1, 7, by decide⟩,
   ⟨(wState).onAct ((3 : Fin 4).val) fun x => { x with busy := some ({ prio := 5, read := true, addr := 1, data := 0 } : PaFrame) }, 3, 255, { prio := 5, read := true, addr := 1, data := 0 }, by decide⟩,
   ⟨(wState).wf (R.ACT_STATE 3) F.ACT_STATE_STATE aSettle, 3, by decide⟩,
   ⟨(wState).wf (R.ACT_PA_XFER (3 : Fin 4).val) F.ACT_PA_XFER_BUSY 0, .port, 3, 0, by decide⟩,
   ⟨(wState).onAct ((3 : Fin 4).val) fun x => { x with flt := false }, 3, by decide⟩,
   ⟨(wState).onAct ((3 : Fin 4).val) fun x => { x with enum := some (some (254 : Nat), some (255 : Nat)) }, 3, 254, 255,
     by decide⟩,
   ⟨(wState).onAct ((3 : Fin 4).val) fun x => { x with enum := some (some 0, some (1 : Nat)) }, 3, 1, by decide⟩,
   ⟨(wState).onAct ((3 : Fin 4).val) fun x => { x with enum := none }, 3, by decide⟩⟩

theorem witness_SpindleRuns :
    (∃ (s : State) (i : Initiator), isPair i = true ∧ s.startBarred = false ∧ s.milSt = miIdle) ∧
    (∃ (s : State) (i : Initiator), isPair i = true ∧ s.mode ≠ mDormant ∧ s.mode ≠ mHaven ∧ s.spinning = true) ∧
    (∃ (s : State) (i : Initiator), isPair i = true ∧ s.mode ≠ mDormant ∧ s.mode ≠ mHaven) ∧
    (∃ (s : State) (i : Initiator), (s.mode = mDormant ∨ s.mode = mHaven)) ∧
    (∃ (s : State), (s.milSt ≠ miCatch ∨ s.catchOver = false)) ∧
    (∃ (s : State) (s1 : State), s.milSt = miCatch ∧ s.catchOver = true ∧ s.mil.bemf = true ∧
     s1 = (s.setSpeed (s.rpmOf s.mil.moved s.mil.ticks)).raise R.MIL_EVT F.MIL_EVT_CATCH_DONE ∧ s1.catchAction true = 1 ∧
     s1.targetRpm ≠ 0) ∧
    (∃ (s : State), s.milSt = miBrake ∧ s.stayed 5000 = true) ∧
    (∃ (s : State), s.milSt = miAlign ∧ s.mil.retryWait = false ∧ s.stayed (s.rf R.MIL_RAMP F.MIL_RAMP_ALIGN_MS + 4) = true) ∧
    (∃ (s : State), s.milSt = miHfi ∧ s.calmFor (s.rf R.MIL_LR F.MIL_LR_LR_MS) = true ∧
     s.rf R.MIL_LR F.MIL_LR_LR_RETRY ≤ s.mil.retries) ∧
    (∃ (s : State), (s.milSt ≠ miHfi ∨ s.calmFor (s.rf R.MIL_LR F.MIL_LR_LR_MS) = false)) ∧
    (∃ (s : State), s.milSt = miAlign ∧ s.mil.retryWait = true ∧ s.stayed (s.rf R.MIL_LR F.MIL_LR_LR_WAIT_MS) = true) ∧
    (∃ (s : State), s.onHoldup = false ∧ s.milSt = miRun ∧ s.lossDue = true) ∧
    (∃ (s : State), s.lossDue = false) ∧
    (∃ (s : State) (t : State) (a : Nat × Nat × Bool) (b : Nat × Nat × Bool) (c : Nat × Nat × Bool), s.milSt = miReacq ∧
     s.reacquired = true ∧ s.mil.cross = [a, b, c] ∧ t = s.setSpeed (s.rpmOf 65536 (3 * (a.1 - c.1)))) ∧
    (∃ (s : State), s.milSt = miReacq ∧ s.reacqLost = true) ∧
    (∃ (s : State), s.allParked = true) ∧
    (∃ (s : State), s.flyDue = false) ∧
    (∃ (s : State), s.flyDue = true ∧ s.allParked = false ∧ s.flag R.MIL_STAT F.MIL_STAT_FLY = false) :=
  ⟨⟨(wState).wf R.MIL_STAT F.MIL_STAT_STATE miIdle, .port, by decide⟩,
   ⟨(wState).wf R.MIL_STAT F.MIL_STAT_STATE miRun, .port, by decide⟩,
   ⟨wState, .port, by decide⟩,
   ⟨(wState).wf R.SYS_MODE F.SYS_MODE_MODE mHaven, .port, by decide⟩,
   ⟨wState, by decide⟩,
   ⟨(((((((wState).wf R.MIL_STAT F.MIL_STAT_STATE miCatch).onMil fun x => { x with bemf := true }).wf R.MIL_CFG F.MIL_CFG_TARGET_RPM 9000).wf R.MIL_CFG F.MIL_CFG_TICK_KHZ 52).wf R.MIL_CFG F.MIL_CFG_POLE_PAIRS 4).onMil fun x => { x with moved := 131072 }).onMil fun x => { x with ticks := 2600 }, (((((((((wState).wf R.MIL_STAT F.MIL_STAT_STATE miCatch).onMil fun x => { x with bemf := true }).wf R.MIL_CFG F.MIL_CFG_TARGET_RPM 9000).wf R.MIL_CFG F.MIL_CFG_TICK_KHZ 52).wf R.MIL_CFG F.MIL_CFG_POLE_PAIRS 4).onMil fun x => { x with moved := 131072 }).onMil fun x => { x with ticks := 2600 }).setSpeed (((((((((wState).wf R.MIL_STAT F.MIL_STAT_STATE miCatch).onMil fun x => { x with bemf := true }).wf R.MIL_CFG F.MIL_CFG_TARGET_RPM 9000).wf R.MIL_CFG F.MIL_CFG_TICK_KHZ 52).wf R.MIL_CFG F.MIL_CFG_POLE_PAIRS 4).onMil fun x => { x with moved := 131072 }).onMil fun x => { x with ticks := 2600 }).rpmOf ((((((((wState).wf R.MIL_STAT F.MIL_STAT_STATE miCatch).onMil fun x => { x with bemf := true }).wf R.MIL_CFG F.MIL_CFG_TARGET_RPM 9000).wf R.MIL_CFG F.MIL_CFG_TICK_KHZ 52).wf R.MIL_CFG F.MIL_CFG_POLE_PAIRS 4).onMil fun x => { x with moved := 131072 }).onMil fun x => { x with ticks := 2600 }).mil.moved ((((((((wState).wf R.MIL_STAT F.MIL_STAT_STATE miCatch).onMil fun x => { x with bemf := true }).wf R.MIL_CFG F.MIL_CFG_TARGET_RPM 9000).wf R.MIL_CFG F.MIL_CFG_TICK_KHZ 52).wf R.MIL_CFG F.MIL_CFG_POLE_PAIRS 4).onMil fun x => { x with moved := 131072 }).onMil fun x => { x with ticks := 2600 }).mil.ticks)).raise R.MIL_EVT F.MIL_EVT_CATCH_DONE, ⟨by decide, by decide, by decide, rfl, by set_option maxRecDepth 100000 in decide, by set_option maxRecDepth 100000 in decide⟩⟩,
   ⟨((wState).wf R.MIL_STAT F.MIL_STAT_STATE miBrake).onMil fun x => { x with stay := 1000000000 }, by decide⟩,
   ⟨(((wState).wf R.MIL_STAT F.MIL_STAT_STATE miAlign).onMil fun x => { x with retryWait := false }).onMil fun x => { x with stay := 1000000000 }, by decide⟩,
   ⟨(((wState).wf R.MIL_STAT F.MIL_STAT_STATE miHfi).onMil fun x => { x with calm := 1000000000 }).onMil fun x => { x with retries := 255 }, by set_option maxRecDepth 100000 in decide⟩,
   ⟨wState, by decide⟩,
   ⟨(((wState).wf R.MIL_STAT F.MIL_STAT_STATE miAlign).onMil fun x => { x with retryWait := true }).onMil fun x => { x with stay := 1000000000 }, by decide⟩,
   ⟨(((wState).wf R.BLS_STAT F.BLS_STAT_ON_HOLDUP (b2n false)).wf R.MIL_STAT F.MIL_STAT_STATE miRun).onMil fun x => { x with resBad := 3 }, by decide⟩,
   ⟨wState, by decide⟩,
   ⟨(((((wState).wf R.MIL_STAT F.MIL_STAT_STATE miReacq).onMil fun x => { x with cross := [((300000, 2, true) : Nat × Nat × Bool), ((200000, 0, false) : Nat × Nat × Bool), ((100000, 1, true) : Nat × Nat × Bool)] }).wf R.MIL_CFG F.MIL_CFG_TARGET_RPM 9000).wf R.MIL_CFG F.MIL_CFG_TICK_KHZ 52).wf R.MIL_CFG F.MIL_CFG_POLE_PAIRS 4, ((((((wState).wf R.MIL_STAT F.MIL_STAT_STATE miReacq).onMil fun x => { x with cross := [((300000, 2, true) : Nat × Nat × Bool), ((200000, 0, false) : Nat × Nat × Bool), ((100000, 1, true) : Nat × Nat × Bool)] }).wf R.MIL_CFG F.MIL_CFG_TARGET_RPM 9000).wf R.MIL_CFG F.MIL_CFG_TICK_KHZ 52).wf R.MIL_CFG F.MIL_CFG_POLE_PAIRS 4).setSpeed (((((((wState).wf R.MIL_STAT F.MIL_STAT_STATE miReacq).onMil fun x => { x with cross := [((300000, 2, true) : Nat × Nat × Bool), ((200000, 0, false) : Nat × Nat × Bool), ((100000, 1, true) : Nat × Nat × Bool)] }).wf R.MIL_CFG F.MIL_CFG_TARGET_RPM 9000).wf R.MIL_CFG F.MIL_CFG_TICK_KHZ 52).wf R.MIL_CFG F.MIL_CFG_POLE_PAIRS 4).rpmOf 65536 (3 * (300000 - 100000))), (300000, 2, true), (200000, 0, false), (100000, 1, true), ⟨by decide, by decide, rfl, rfl⟩⟩,
   ⟨((wState).wf R.MIL_STAT F.MIL_STAT_STATE miReacq).onMil fun x => { x with cross := [(300000, 1, true), (200000, 0, false), (100000, 2, true)] }, by decide⟩,
   ⟨wState, by decide⟩,
   ⟨wState, by decide⟩,
   ⟨((((wState).wf R.MIL_STAT F.MIL_STAT_FLY 0).wf (R.ACT_STATE 3)
     F.ACT_STATE_STATE aSettle).wf R.MIL_CFG F.MIL_CFG_TARGET_RPM 9000).wf R.MIL_LOSS_CFG F.MIL_LOSS_CFG_FLY_PCT 50, by decide⟩⟩

theorem witness_PowerIsWatched :
    (∃ (s : State) (mv : Nat), 10800 < mv ∧ mv ≤ 13200) ∧
    (∃ (s : State) (mv : Nat), 13200 < mv) ∧
    (∃ (s : State) (r : Fin 14) (mv : Int), s.sys.auxUp = true ∧ s.bls.mainUp = true ∧ s.bls.rails = r.val ∧ r.val < 5 ∧
     railWithin r.val mv 3 = true) ∧
    (∃ (s : State) (mv : Int), s.sys.auxUp = true ∧ s.bls.mainUp = true ∧ s.bls.rails = 5 ∧ railWithin 5 mv 3 = true) ∧
    (∃ (s : State) (r : Fin 14) (mv : Int), railWithin r.val mv 3 = false) ∧
    (∃ (s : State) (b : Fin 4) (a : Fin 4), s.bls.rails = 6 ∧ s.bls.released = false) ∧
    (∃ (s : State) (b : Fin 4) (a : Fin 4), s.bls.released = true) ∧
    (∃ (s : State) (r : Fin 14) (mv : Int), r.val < 6 ∧ r.val < s.bls.rails ∧ railWithin r.val mv 6 = false) ∧
    (∃ (s : State) (r : Fin 14) (mv : Int), railWithin r.val mv 6 = true) ∧
    (∃ (s : State) (k : Kenul), s.kenul = some k ∧ s.flag R.BLS_STAT F.BLS_STAT_LINK = true ∧ s.ready .ballast = true) ∧
    (∃ (s : State) (k : Kenul), s.kenul = some k ∧ s.flag R.BLS_STAT F.BLS_STAT_LINK = true ∧ s.ready .ballast = false) ∧
    (∃ (s : State), s.flag R.BLS_STAT F.BLS_STAT_LINK = false) ∧
    (∃ (s : State), s.flag R.BLS_STAT F.BLS_STAT_LINK = true) ∧
    (∃ (s : State), s.flag R.BLS_STAT F.BLS_STAT_LINK = true) ∧
    (∃ (s : State) (g : Fin 9) (ma : Nat), (s.stageRuns g.val = false ∨ ma < tripMa g.val)) ∧
    (∃ (s : State) (g : Fin 9) (ma : Nat), s.stageRuns g.val = true ∧ s.bls.trips = [] ∧ tripMa g.val ≤ ma) ∧
    (∃ (s : State) (i : Initiator) (v : Word), isPair i = true) ∧
    (∃ (s : State), s.bls.charging = true ∧ s.bankMv < 5000 ∧ s.bls.chargeAt + 200000000 ≤ s.now) ∧
    (∃ (s : State), 5000 ≤ s.bankMv) ∧
    (∃ (s : State) (i : Initiator) (v : Word), isPair i = true ∧ fget v F.BLS_MEAS_CTL_GO = 1 ∧
     (s.writeFields R.BLS_MEAS_CTL (fset v F.BLS_MEAS_CTL_GO 0)).onHoldup = false) ∧
    (∃ (s : State), s.measureDue = true ∧ s.onHoldup = false ∧ s.flag R.BLS_MEAS_CTL F.BLS_MEAS_CTL_BUSY = false) ∧
    (∃ (s : State) (st : Nat) (fall : Nat) (us : Nat), s.flag R.BLS_MEAS_CTL F.BLS_MEAS_CTL_BUSY = true) ∧
    (∃ (s : State) (mv : Nat), mv ≤ 0xFFFF) ∧
    (∃ (s : State) (mv : Nat) (aux : Bool), s.onHoldup = false ∧
     ((s.toHoldup mv aux).requestHaven hvPowerLoss).bankOk = true ∧
     ((s.toHoldup mv aux).requestHaven hvPowerLoss).vretMv < mv) ∧
    (∃ (s : State) (mv : Nat) (aux : Bool), s.onHoldup = false ∧
     ((s.toHoldup mv aux).requestHaven hvPowerLoss).bankOk = false) ∧
    (∃ (s : State) (mv : Nat) (aux : Bool), s.onHoldup = true) ∧
    (∃ (s : State), s.flushOver = true) ∧
    (∃ (s : State), s.flushOver = false) ∧
    (∃ (s : State), s.onHoldup = true ∧ ((s.wr R.BLS_BANK_V (word s.vretMv)).abandonFlush).allParked = true) ∧
    (∃ (s : State), s.onHoldup = true ∧ ((s.wr R.BLS_BANK_V (word s.vretMv)).abandonFlush).allParked = false) ∧
    (∃ (s : State) (mv : Nat), s.onHoldup = false ∧ 10800 ≤ mv ∧ mv ≤ 13200) ∧
    (∃ (s : State) (mv : Nat), mv < 10800) ∧
    (∃ (s : State), s.retractDue = true) ∧
    (∃ (s : State), s.retractDue = false) :=
  ⟨⟨wState, 13200, by decide⟩,
   ⟨wState, 13201, by decide⟩,
   ⟨(((wState).onSys fun x => { x with auxUp := true }).onBls fun x => { x with mainUp := true }).onBls fun x => { x with rails := (4 : Fin 14).val }, 4, 1200, by decide⟩,
   ⟨(((wState).onSys fun x => { x with auxUp := true }).onBls fun x => { x with mainUp := true }).onBls fun x => { x with rails := 5 }, 2500, by decide⟩,
   ⟨wState, 13, 1, by decide⟩,
   ⟨((wState).onBls fun x => { x with rails := 6 }).onBls fun x => { x with released := false }, 3, 3, by decide⟩,
   ⟨(wState).onBls fun x => { x with released := true }, 3, 3, by decide⟩,
   ⟨(wState).onBls fun x => { x with rails := 6 }, 5, 1, by decide⟩,
   ⟨wState, 13, -3000, by decide⟩,
   ⟨(({ (wState) with kenul := some (wImage : Kenul) }).wf R.BLS_STAT F.BLS_STAT_LINK 1).setReady (.ballast) true, wImage,
     ⟨rfl, by decide⟩⟩,
   ⟨(({ (wState) with kenul := some (wImage : Kenul) }).wf R.BLS_STAT F.BLS_STAT_LINK 1).setReady (.ballast) false, wImage,
     ⟨rfl, by decide, by decide⟩⟩,
   ⟨(wState).wf R.BLS_STAT F.BLS_STAT_LINK 0, by decide⟩,
   ⟨(wState).wf R.BLS_STAT F.BLS_STAT_LINK 1, by decide⟩,
   ⟨(wState).wf R.BLS_STAT F.BLS_STAT_LINK 1, by decide⟩,
   ⟨wState, 8, 1, by decide⟩,
   ⟨(wState).onBls fun x => { x with trips := [] }, 8, 4500, by decide⟩,
   ⟨wState, .port, 0, by decide⟩,
   ⟨{ ((wState).onBls fun x => { x with charging := true }) with now := 300000000 }, by decide⟩,
   ⟨(wState).wf R.BLS_BANK_V F.BLS_BANK_V_MV 5000, by decide⟩,
   ⟨wState, .port, (fset 0 F.BLS_MEAS_CTL_GO 1), by decide⟩,
   ⟨((((wState).wf R.BLS_STAT F.BLS_STAT_ON_HOLDUP (b2n false)).wf R.BLS_MEAS_CTL F.BLS_MEAS_CTL_BUSY 0).onBls fun x => { x with measured := false }).wf R.BLS_BANK_V F.BLS_BANK_V_MV 65535, by decide⟩,
   ⟨(wState).wf R.BLS_MEAS_CTL F.BLS_MEAS_CTL_BUSY 1, 1, 1, 1, by decide⟩,
   ⟨wState, 0xFFFF, by decide⟩,
   ⟨((wState).wf R.BLS_STAT F.BLS_STAT_ON_HOLDUP (b2n false)).wf R.BLS_STAT F.BLS_STAT_BANK_OK 1, 60000, false,
     by set_option maxRecDepth 100000 in decide⟩,
   ⟨((wState).wf R.BLS_STAT F.BLS_STAT_ON_HOLDUP (b2n false)).wf R.BLS_STAT F.BLS_STAT_BANK_OK 0, 1, false,
     by set_option maxRecDepth 100000 in decide⟩,
   ⟨(wState).wf R.BLS_STAT F.BLS_STAT_ON_HOLDUP (b2n true), 1, false, by decide⟩,
   ⟨(wState).onBls fun x => { x with flushing := true }, by decide⟩,
   ⟨wState, by decide⟩,
   ⟨(wState).wf R.BLS_STAT F.BLS_STAT_ON_HOLDUP (b2n true), by decide⟩,
   ⟨((wState).wf R.BLS_STAT F.BLS_STAT_ON_HOLDUP (b2n true)).wf (R.ACT_STATE 3) F.ACT_STATE_STATE aSettle, by decide⟩,
   ⟨(wState).wf R.BLS_STAT F.BLS_STAT_ON_HOLDUP (b2n false), 13200, by decide⟩,
   ⟨wState, 10799, by decide⟩,
   ⟨wState, by decide⟩,
   ⟨(((wState).wf R.BLS_STAT F.BLS_STAT_LINK 1).wf R.BLS_STAT F.BLS_STAT_RAILS_OK 1).wf R.BLS_STAT F.BLS_STAT_BANK_OK 1,
     by decide⟩⟩

theorem witness_BedrockServes :
    (∃ (s : State), s.ready .bedrock = false ∧ spGetD 0 s.tgt.line 8 = 0 ∧ s.bed.held = []) ∧
    (∃ (s : State) (pc : Fin 16), s.ready .bedrock = false) ∧
    (∃ (s : State), s.ready .bedrock = false ∧ s.ready .kenul = false) ∧
    (∃ (s : State) (c : Fin 6) (o : BitVec 34) (u : BitVec 576) (x : Fin 4) (g : Option (Fin 32)), s.ready .bedrock = false) ∧
    (∃ (s : State) (c : Fin 6) (o : BitVec 34), s.ready .bedrock = true ∧ s.bed.ppr = none ∧ s.shlLine (o.toNat / 64 / 2)
     = none) ∧
    (∃ (s : State) (c : Fin 6) (o : BitVec 34) (n : Nat) (v : Nat) (g : Option (Fin 32)), s.ready .bedrock = false) ∧
    (∃ (s : State) (c : Fin 6) (o : BitVec 34) (n : Nat) (v : Nat), s.ready .bedrock = true ∧ s.bed.ppr = none) ∧
    (∃ (s : State) (b : Fin 262144), s.idleBarred (65536 * b.val) 65536 = false ∧
     s.flag R.BED_TUM_CTL F.BED_TUM_CTL_CLAIM = true ∧ s.bed.claims.contains b.val = false) ∧
    (∃ (s : State) (b : Fin 262144), s.idleBarred (65536 * b.val) 65536 = true) ∧
    (∃ (s : State) (i : Initiator) (v : Word), isPair i = true ∧ fget v F.BED_PPR_CMD_OP = 1 ∧
     s.flag R.BED_PPR_STAT F.BED_PPR_STAT_BUSY = false ∧ s.flag (R.BED_ROW_LOG (fget v F.BED_PPR_CMD_ENTRY))
     F.BED_ROW_LOG_VALID = true) ∧
    (∃ (s : State) (i : Initiator) (v : Word), isPair i = true ∧ fget v F.BED_PPR_CMD_OP = 2 ∧ s.mode = mBedding ∧
     s.flag R.BED_PPR_STAT F.BED_PPR_STAT_BUSY = false ∧ s.flag (R.BED_ROW_LOG (fget v F.BED_PPR_CMD_ENTRY))
     F.BED_ROW_LOG_VALID = true) ∧
    (∃ (s : State) (i : Initiator) (v : Word) (sp : Bool), isPair i = true ∧ fget v F.BED_PPR_CMD_OP = 2 ∧
     s.mode = mService ∧ s.flag R.BED_PPR_STAT F.BED_PPR_STAT_BUSY = false ∧
     s.flag (R.BED_ROW_LOG (fget v F.BED_PPR_CMD_ENTRY)) F.BED_ROW_LOG_VALID = true) ∧
    (∃ (s : State) (e : Nat), s.bed.ppr = some { hard := false, entry := e } ∧ s.bed.held = []) ∧
    (∃ (s : State) (i : Initiator) (v : Word), isPair i = true ∧ s.flag R.BED_BDP_STAT F.BED_BDP_STAT_BUSY = false ∧
     fget v F.BED_BDP_GO_OP = 1 ∧ 1 ≤ fget v F.BED_BDP_GO_COUNT ∧ fget v F.BED_BDP_GO_COUNT ≤ 16) ∧
    (∃ (s : State) (i : Initiator) (v : Word), isPair i = true ∧ s.flag R.BED_BDP_STAT F.BED_BDP_STAT_BUSY = false ∧
     fget v F.BED_BDP_GO_OP = 2 ∧ 1 ≤ fget v F.BED_BDP_GO_COUNT ∧ fget v F.BED_BDP_GO_COUNT ≤ 16 ∧
     s.bed.bdpStage.length = 16 * fget v F.BED_BDP_GO_COUNT) ∧
    (∃ (s : State) (i : Initiator) (v : Word), isPair i = true ∧ s.flag R.BED_BDP_STAT F.BED_BDP_STAT_BUSY = false ∧
     s.bed.bdpStage.length < 256) ∧
    (∃ (s : State) (i : Initiator) (w : Word) (l : List Word), isPair i = true ∧ s.bed.bdpBuf = w :: l) ∧
    (∃ (s : State) (n : Nat), s.bed.bdp = some { write := false, count := n } ∧
     s.flag R.BED_BDP_CTL F.BED_BDP_CTL_INC = false ∧ s.hbmWaits s.bdpAddr (64 * n) = false) ∧
    (∃ (s : State) (w : Bool) (n : Nat), s.bed.bdp = some { write := w, count := n } ∧ s.hbmWaits s.bdpAddr (64 * n) = true ∧
     s.bed.held.contains .bdp = false) :=
  ⟨⟨((wState).setReady (.bedrock) false).onBed fun x => { x with held := [] }, by decide⟩,
   ⟨(wState).setReady (.bedrock) false, 15, by decide⟩,
   ⟨((wState).setReady (.bedrock) false).setReady (.kenul) false, by decide⟩,
   ⟨(wState).setReady (.bedrock) false, 5, 1, 1, 3, none, by decide⟩,
   ⟨((wState).setReady (.bedrock) true).onBed fun x => { x with ppr := none }, 5, 1, by decide⟩,
   ⟨(wState).setReady (.bedrock) false, 5, 1, 1, 1, none, by decide⟩,
   ⟨((wState).setReady (.bedrock) true).onBed fun x => { x with ppr := none }, 5, 1, 1, 1, by decide⟩,
   ⟨(wState).wf R.BED_TUM_CTL F.BED_TUM_CTL_CLAIM 1, 262143, by decide⟩,
   ⟨(wState).setReady .bedrock false, 262143, by decide⟩,
   ⟨((wState).wf R.BED_PPR_STAT F.BED_PPR_STAT_BUSY 0).wf (R.BED_ROW_LOG (fget ((fset 0 F.BED_PPR_CMD_OP 1) : Word)
     F.BED_PPR_CMD_ENTRY)) F.BED_ROW_LOG_VALID 1, .port, (fset 0 F.BED_PPR_CMD_OP 1), by decide⟩,
   ⟨(((wState).wf R.SYS_MODE F.SYS_MODE_MODE mBedding).wf R.BED_PPR_STAT F.BED_PPR_STAT_BUSY 0).wf (R.BED_ROW_LOG (fget ((fset 0 F.BED_PPR_CMD_OP 2) : Word) F.BED_PPR_CMD_ENTRY)) F.BED_ROW_LOG_VALID 1, .port, (fset 0 F.BED_PPR_CMD_OP 2), by decide⟩,
   ⟨(((wState).wf R.SYS_MODE F.SYS_MODE_MODE mService).wf R.BED_PPR_STAT F.BED_PPR_STAT_BUSY 0).wf (R.BED_ROW_LOG (fget ((fset 0 F.BED_PPR_CMD_OP 2) : Word) F.BED_PPR_CMD_ENTRY)) F.BED_ROW_LOG_VALID 1, .port, (fset 0 F.BED_PPR_CMD_OP 2), false, by decide⟩,
   ⟨((wState).onBed fun x => { x with ppr := some { hard := false, entry := (1 : Nat) } }).onBed fun x => { x with held := [] }, 1, by decide⟩,
   ⟨(wState).wf R.BED_BDP_STAT F.BED_BDP_STAT_BUSY 0, .port, (fset (fset 0 F.BED_BDP_GO_OP 1) F.BED_BDP_GO_COUNT 1), by decide⟩,
   ⟨((wState).wf R.BED_BDP_STAT F.BED_BDP_STAT_BUSY 0).onBed fun x => { x with bdpStage := List.replicate 256 0 }, .port,
     fset (fset 0 F.BED_BDP_GO_OP 2) F.BED_BDP_GO_COUNT 16, by set_option maxRecDepth 100000 in decide⟩,
   ⟨(wState).wf R.BED_BDP_STAT F.BED_BDP_STAT_BUSY 0, .port, 0, by decide⟩,
   ⟨(wState).onBed fun x => { x with bdpBuf := (0 : Word) :: ([] : List Word) }, .port, 0, [], by decide⟩,
   ⟨((wState).onBed fun x => { x with bdp := some { write := false, count := (1 : Nat) } }).wf R.BED_BDP_CTL F.BED_BDP_CTL_INC 0, 1, by decide⟩,
   ⟨((wState).onBed fun x => { x with bdp := some { write := (false : Bool), count := (1 : Nat) } }).setReady .bedrock false,
     false, 1, by decide⟩⟩

theorem witness_ScrubbersAndShaleRun :
    (∃ (s : State), s.flag R.BED_TUM_CTL F.BED_TUM_CTL_EN = true ∧ s.bed.lapOn = false ∧
     s.bed.lapStart + minuteTicks * s.rf R.BED_TUM_CTL F.BED_TUM_CTL_LAP_MIN ≤ s.now) ∧
    (∃ (s : State) (u : BitVec 576) (nw : Bool), s.bed.lapOn = true ∧ s.flag R.BED_TUM_CTL F.BED_TUM_CTL_EN = true ∧
     s.ready .bedrock = true ∧ nextGran s.bed.gran s.bed.scrub = none) ∧
    (∃ (s : State) (r : Fin 10) (b : Fin 3) (nw : Bool) (k : SramSpot), s.flag R.BED_SS_CTL F.BED_SS_CTL_EN = false) ∧
    (∃ (s : State) (r : Fin 10) (nw : Bool) (k : SramSpot), s.noInjection ∧ s.flag R.BED_SS_CTL F.BED_SS_CTL_EN = true ∧
     bitAt (s.rf R.BED_SS_CTL F.BED_SS_CTL_REGIONS) r.val = true ∧ s.bed.ssCount < 524287) ∧
    (∃ (s : State) (i : Initiator) (v : Word), isPair i = true ∧ fget v F.SHL_CTL_EN = 1 ∧
     s.flag R.SHL_CTL F.SHL_CTL_EN = false ∧ s.flag R.SHL_STATUS F.SHL_STATUS_ARMED = true ∧ s.shlDraining = false) ∧
    (∃ (s : State) (i : Initiator) (v : Word), isPair i = true ∧ fget v F.SHL_CTL_EN = 0 ∧
     s.flag R.SHL_CTL F.SHL_CTL_EN = true ∧ s.bed.lines = [] ∧ s.bed.shlOp = none) ∧
    (∃ (s : State), s.shlDraining = true) ∧
    (∃ (s : State) (i : Initiator) (v : Word), isPair i = true ∧ s.flag R.SHL_INV_STATUS F.SHL_INV_STATUS_BUSY = false ∧
     s.flag R.SHL_CTL F.SHL_CTL_EN = false ∧ s.shlDraining = false ∧ fget v F.SHL_OP_OP = 1) ∧
    (∃ (s : State) (i : Initiator) (v : Word), isPair i = true ∧ s.flag R.SHL_INV_STATUS F.SHL_INV_STATUS_BUSY = false ∧
     s.flag R.SHL_CTL F.SHL_CTL_EN = false ∧ s.shlDraining = false ∧ fget v F.SHL_OP_OP = 2) ∧
    (∃ (s : State) (i : Initiator) (v : Word), isPair i = true ∧ s.flag R.SHL_INV_STATUS F.SHL_INV_STATUS_BUSY = false ∧
     s.flag R.SHL_CTL F.SHL_CTL_EN = true ∧ s.shlDraining = false ∧ fget v F.SHL_OP_OP = 3 ∧
     s.wayLocked (fget v F.SHL_OP_WAY) = true ∧ s.shlSpan.2 ≤ 2048 ∧ s.spanInRing s.shlSpan.1 s.shlSpan.2 = false) ∧
    (∃ (s : State), s.bed.shlOp = some .invAll) ∧
    (∃ (s : State) (i : Initiator) (v : Word), isPair i = true ∧
     4 ≤ ((List.range 16).filter fun w => !bitAt v.toNat w).length) ∧
    (∃ (s : State) (i : Initiator) (v : Word), ((List.range 16).filter fun w => !bitAt v.toNat w).length < 4) :=
  ⟨⟨{ (((wState).wf R.BED_TUM_CTL F.BED_TUM_CTL_EN 1).onBed fun x => { x with lapOn := false }) with now := 10000000000000000 }, by decide⟩,
   ⟨(((wState).onBed fun x => { x with lapOn := true }).wf R.BED_TUM_CTL F.BED_TUM_CTL_EN 1).setReady (.bedrock) true, 1,
     false, by decide⟩,
   ⟨(wState).wf R.BED_SS_CTL F.BED_SS_CTL_EN 0, 9, 2, false, .plain, by decide⟩,
   ⟨(wState).wf R.BED_SS_CTL F.BED_SS_CTL_EN 1, 9, false, .plain, by (simp only [State.noInjection]; decide)⟩,
   ⟨(((wState).wf R.SHL_CTL F.SHL_CTL_EN 0).wf R.SHL_STATUS F.SHL_STATUS_ARMED 1).wf R.SHL_STATUS F.SHL_STATUS_DRAINING (b2n false), .port, (fset 0 F.SHL_CTL_EN 1), by decide⟩,
   ⟨(((wState).wf R.SHL_CTL F.SHL_CTL_EN 1).onBed fun x => { x with lines := [] }).onBed fun x => { x with shlOp := none },
     .port, (fset 0 F.SHL_CTL_EN 0), by decide⟩,
   ⟨(wState).wf R.SHL_STATUS F.SHL_STATUS_DRAINING (b2n true), by decide⟩,
   ⟨(((wState).wf R.SHL_INV_STATUS F.SHL_INV_STATUS_BUSY 0).wf R.SHL_CTL F.SHL_CTL_EN 0).wf R.SHL_STATUS F.SHL_STATUS_DRAINING (b2n false), .port, (fset 0 F.SHL_OP_OP 1), by decide⟩,
   ⟨(((wState).wf R.SHL_INV_STATUS F.SHL_INV_STATUS_BUSY 0).wf R.SHL_CTL F.SHL_CTL_EN 0).wf R.SHL_STATUS F.SHL_STATUS_DRAINING (b2n false), .port, (fset 0 F.SHL_OP_OP 2), by decide⟩,
   ⟨(((((wState).wf R.SHL_INV_STATUS F.SHL_INV_STATUS_BUSY 0).wf R.SHL_CTL F.SHL_CTL_EN 1).wf R.SHL_STATUS F.SHL_STATUS_DRAINING (b2n false)).wr R.SHL_LOCK 1).wf R.SHL_RANGE_SIZE F.SHL_RANGE_SIZE_RANGE 2048, .port, (fset 0 F.SHL_OP_OP 3), by decide⟩,
   ⟨(wState).onBed fun x => { x with shlOp := some .invAll }, by decide⟩,
   ⟨wState, .port, 0, by decide⟩,
   ⟨wState, .port, 0xFFF8, by decide⟩⟩

theorem witness_MacrocodeRuns :
    (∃ (s : State) (i : Initiator) (n : Fin 12) (k : Fin 65536), s.strOpen i n.val = true ∧ s.strReady n.val = true ∧
     s.wqFree n.val ≠ 0 ∧ n.val < 8) ∧
    (∃ (s : State) (i : Initiator) (n : Fin 12) (k : Fin 65536), s.strOpen i n.val = true ∧ s.strReady n.val = true ∧
     s.wqFree n.val ≠ 0 ∧ 8 ≤ n.val) ∧
    (∃ (s : State) (n : Fin 12), s.strReady n.val = true ∧ s.strSt n.val = ssIdle ∧ (s.seq n.val).wq ≠ []) ∧
    (∃ (s : State) (n : Fin 12), s.strIssues n.val 0 = true) ∧
    (∃ (s : State) (n : Fin 12) (gd : Fin 32) (ga : Fin 32) (gb : Fin 32) (fn : Fin 16),
     s.strIssues n.val (vOp 1 + vD gd.val + vA ga.val + vB gb.val + fn.val) = true) ∧
    (∃ (s : State) (n : Fin 12) (gd : Fin 32) (ga : Fin 32) (imm : BitVec 17),
     s.strIssues n.val (vOp 2 + vD gd.val + vA ga.val + imm.toNat) = true) ∧
    (∃ (s : State) (n : Fin 12) (gd : Fin 32) (imm : BitVec 16), s.strIssues n.val (vOp 3 + vD gd.val + imm.toNat) = true) ∧
    (∃ (s : State) (n : Fin 12) (cond : Fin 8) (ga : Fin 32) (target : BitVec 17),
     s.strIssues n.val (vOp 4 + cond.val * 2 ^ 24 + ga.val * 2 ^ 19 + target.toNat) = true) ∧
    (∃ (s : State) (n : Fin 12) (target : BitVec 17), s.strIssues n.val (vOp 5 + target.toNat) = true ∧
     (s.seq n.val).stack.length < 8) ∧
    (∃ (s : State) (n : Fin 12) (target : BitVec 17), s.strIssues n.val (vOp 5 + target.toNat) = true ∧
     8 ≤ (s.seq n.val).stack.length) ∧
    (∃ (s : State) (n : Fin 12) (a : Nat) (rest : List Nat), s.strIssues n.val (vOp 6) = true ∧
     (s.seq n.val).stack = a :: rest) ∧
    (∃ (s : State) (n : Fin 12), s.strIssues n.val (vOp 6) = true ∧ (s.seq n.val).stack = []) ∧
    (∃ (s : State) (n : Fin 12) (gd : Fin 32) (ga : Fin 32) (imm : BitVec 17),
     s.strIssues n.val (vOp 9 + vD gd.val + vA ga.val + imm.toNat) = true) ∧
    (∃ (s : State) (n : Fin 12) (gs : Fin 32) (ga : Fin 32) (imm : BitVec 17),
     s.strIssues n.val (vOp 10 + vD gs.val + vA ga.val + imm.toNat) = true) ∧
    (∃ (s : State) (n : Fin 12) (gd : Fin 32) (ga : Fin 32) (imm : BitVec 17),
     s.strIssues n.val (vOp 7 + vD gd.val + vA ga.val + imm.toNat) = true) ∧
    (∃ (s : State) (n : Fin 12) (gs : Fin 32) (ga : Fin 32) (imm : BitVec 17),
     s.strIssues n.val (vOp 8 + vD gs.val + vA ga.val + imm.toNat) = true) :=
  ⟨⟨wState, .port, 7, 65535, by decide⟩,
   ⟨wState, .port, 11, 65535, by decide⟩,
   ⟨((wState).wf (R.STR_STAT ((11 : Fin 12).val)) F.STR_STAT_STATE ssIdle).onSeq ((11 : Fin 12).val)
     fun x => { x with wq := [(0, 0)] }, 11, by decide⟩,
   ⟨(wState).wf (R.STR_STAT ((11 : Fin 12).val)) F.STR_STAT_STATE ssRun, 11, by decide⟩,
   ⟨(wState).wf (R.STR_STAT ((11 : Fin 12).val)) F.STR_STAT_STATE ssRun, 11, 31, 31, 31, 15, by decide⟩,
   ⟨(wState).wf (R.STR_STAT ((11 : Fin 12).val)) F.STR_STAT_STATE ssRun, 11, 31, 31, 1, by decide⟩,
   ⟨(wState).wf (R.STR_STAT ((11 : Fin 12).val)) F.STR_STAT_STATE ssRun, 11, 31, 1, by decide⟩,
   ⟨(wState).wf (R.STR_STAT ((11 : Fin 12).val)) F.STR_STAT_STATE ssRun, 11, 7, 31, 1, by decide⟩,
   ⟨(wState).wf (R.STR_STAT ((11 : Fin 12).val)) F.STR_STAT_STATE ssRun, 11, 1, by decide⟩,
   ⟨((wState).wf (R.STR_STAT ((11 : Fin 12).val)) F.STR_STAT_STATE ssRun).onSeq ((11 : Fin 12).val)
     fun x => { x with stack := List.replicate 8 0 }, 11, 1, by decide⟩,
   ⟨((wState).wf (R.STR_STAT ((11 : Fin 12).val)) F.STR_STAT_STATE ssRun).onSeq ((11 : Fin 12).val)
     fun x => { x with stack := (1 : Nat) :: ([] : List Nat) }, 11, 1, [], by decide⟩,
   ⟨((wState).wf (R.STR_STAT ((11 : Fin 12).val)) F.STR_STAT_STATE ssRun).onSeq ((11 : Fin 12).val)
     fun x => { x with stack := [] }, 11, by decide⟩,
   ⟨(wState).wf (R.STR_STAT ((11 : Fin 12).val)) F.STR_STAT_STATE ssRun, 11, 31, 31, 1, by decide⟩,
   ⟨(wState).wf (R.STR_STAT ((11 : Fin 12).val)) F.STR_STAT_STATE ssRun, 11, 31, 31, 1, by decide⟩,
   ⟨(wState).wf (R.STR_STAT ((11 : Fin 12).val)) F.STR_STAT_STATE ssRun, 11, 31, 31, 1, by decide⟩,
   ⟨(wState).wf (R.STR_STAT ((11 : Fin 12).val)) F.STR_STAT_STATE ssRun, 11, 31, 31, 1, by decide⟩⟩

theorem witness_RoutinesWaitAndCommit :
    (∃ (s : State) (n : Fin 12) (event : Fin 32) (limit : BitVec 22), s.strIssues n.val (vOp 12 + vD event.val + limit.toNat)
     = true ∧ s.strSt n.val ≠ ssWait) ∧
    (∃ (s : State) (n : Fin 12) (event : Fin 32) (limit : BitVec 22), s.strSt n.val = ssWait ∧ s.strReady n.val = true ∧
     (s.seq n.val).wait = some (event.val, limit.toNat)) ∧
    (∃ (s : State) (n : Fin 12) (e : Nat) (limit : Nat), (s.seq n.val).wait = some (e, limit) ∧ s.strSt n.val = ssWait ∧
     s.strReady n.val = true ∧ limit ≠ 0 ∧ limit ≤ 10 * (s.now - (s.seq n.val).waitAt)) ∧
    (∃ (s : State) (n : Fin 12) (id : BitVec 16), s.strIssues n.val (vOp 13 + id.toNat) = true) ∧
    (∃ (s : State) (n : Fin 12) (naddr : Fin 512) (ga : Fin 32) (gb : Fin 32) (cnt : BitVec 8) (rom : BitVec 128)
     (fr : List (BitVec 512)) (u : Bool),
     s.strIssues n.val (vOp 11 + naddr.val * 2 ^ 18 + ga.val * 2 ^ 13 + gb.val * 2 ^ 8 + cnt.toNat) = true ∧ cnt ≠ 0 ∧
     (s.nanoRun n.val ga.val gb.val (nanoOf (s.nanoWord n.val naddr.val rom.toNat)) u fr (cnt.toNat + 1)).okay = true) ∧
    (∃ (s : State) (n : Fin 12) (ga : Fin 32) (gb : Fin 32),
     s.strIssues n.val (vOp 14 + 3 * 2 ^ 24 + ga.val * 2 ^ 19 + gb.val * 2 ^ 14) = true ∧ n.val < 8) ∧
    (∃ (s : State) (n : Fin 12) (ga : Fin 32) (gb : Fin 32),
     s.strIssues n.val (vOp 14 + 1 * 2 ^ 24 + ga.val * 2 ^ 19 + gb.val * 2 ^ 14) = true ∧ 8 ≤ n.val ∧
     (s.wc (n.val - 8)).abandon = true) ∧
    (∃ (s : State) (n : Fin 12) (ga : Fin 32) (gb : Fin 32) (v : Word),
     s.strIssues n.val (vOp 14 + 1 * 2 ^ 24 + ga.val * 2 ^ 19 + gb.val * 2 ^ 14) = true ∧ n.val < 8 ∧
     (s.ctx ((s.g n.val ga.val).toNat % 65536)).state ≠ cFree) ∧
    (∃ (s : State) (n : Fin 12) (ga : Fin 32) (gb : Fin 32) (x : Nat × Nat),
     s.strIssues n.val (vOp 14 + 2 * 2 ^ 24 + ga.val * 2 ^ 19 + gb.val * 2 ^ 14) = true ∧ n.val < 8 ∧
     (s.seq n.val).handler.isSome = true ∧ s.wqHead n.val = some x ∧ x.1 ≠ wkWrite ∧ x.1 ≠ wkFormat) ∧
    (∃ (s : State) (n : Fin 12) (ga : Fin 32) (gb : Fin 32), s.strIssues n.val (vOp 14 + ga.val * 2 ^ 19 + gb.val * 2 ^ 14)
     = true ∧ n.val < 8) ∧
    (∃ (s : State) (n : Fin 12), s.strIssues n.val (vOp 15) = true ∧ (s.seq n.val).events = []) :=
  ⟨⟨(wState).wf (R.STR_STAT ((11 : Fin 12).val)) F.STR_STAT_STATE ssRun, 11, 31, 1, by decide⟩,
   ⟨((wState).wf (R.STR_STAT ((11 : Fin 12).val)) F.STR_STAT_STATE ssWait).onSeq ((11 : Fin 12).val)
     fun x => { x with wait := some ((31 : Fin 32).val, (1 : BitVec 22).toNat) }, 11, 31, 1, by decide⟩,
   ⟨({ ((wState).wf (R.STR_STAT ((11 : Fin 12).val)) F.STR_STAT_STATE ssWait) with now := 1000000 }).onSeq ((11 : Fin 12).val) fun x => { x with wait := some ((1 : Nat), (1 : Nat)) }, 11, 1, 1, by decide⟩,
   ⟨(wState).wf (R.STR_STAT ((11 : Fin 12).val)) F.STR_STAT_STATE ssRun, 11, 1, by decide⟩,
   ⟨(wState).wf (R.STR_STAT ((11 : Fin 12).val)) F.STR_STAT_STATE ssRun, 11, 511, 31, 31, 1, 1, [], false, by decide⟩,
   ⟨(wState).wf (R.STR_STAT ((7 : Fin 12).val)) F.STR_STAT_STATE ssRun, 7, 31, 31, by decide⟩,
   ⟨((wState).wf (R.STR_STAT ((11 : Fin 12).val)) F.STR_STAT_STATE ssRun).onWc (((11 : Fin 12).val - 8))
     fun x => { x with abandon := true }, 11, 31, 31, by decide⟩,
   ⟨(((wState).wf (R.STR_STAT ((7 : Fin 12).val)) F.STR_STAT_STATE ssRun).setStrReady 7 true).onCtx (0)
     fun x => { x with state := cMedia }, 7, 31, 31, 0, by decide⟩,
   ⟨((wState).wf (R.STR_STAT ((7 : Fin 12).val)) F.STR_STAT_STATE ssRun).onSeq ((7 : Fin 12).val)
     fun x => { x with handler := some 0, wq := [(1, 1)] }, 7, 31, 31, (1, 1), by decide⟩,
   ⟨(wState).wf (R.STR_STAT ((7 : Fin 12).val)) F.STR_STAT_STATE ssRun, 7, 31, 31, by decide⟩,
   ⟨((wState).wf (R.STR_STAT ((11 : Fin 12).val)) F.STR_STAT_STATE ssRun).onSeq ((11 : Fin 12).val)
     fun x => { x with events := [] }, 11, by decide⟩⟩

theorem witness_SequencersStopAndRestart :
    (∃ (s : State) (n : Fin 12), s.strReady n.val = true ∧ (s.seq n.val).handler = none) ∧
    (∃ (s : State) (n : Fin 12), s.strReady n.val = true ∧ (s.seq n.val).handler.isSome = true) ∧
    (∃ (s : State) (a : Fin 4), (s.wc a.val).abandon = true ∧ s.strReady (8 + a.val) = true ∧
     (s.seq (8 + a.val)).handler.isSome = true ∧ (s.seq (8 + a.val)).events.contains scGate = true) ∧
    (∃ (s : State) (a : Fin 4), (s.wc a.val).abandon = true ∧ ((s.strEvent (8 + a.val)
     scGate).seq (8 + a.val)).events.contains scGate = false) ∧
    (∃ (s : State) (n : Fin 8), (s.seq n.val).handTo.isSome = true) ∧
    (∃ (s : State) (n : Fin 8) (m : Nat) (kind : Nat) (k : Nat) (rest : List (Nat × Nat)), (s.seq n.val).handTo = some m ∧
     s.strReady n.val = false ∧ (s.seq n.val).wq = (kind, k) :: rest) ∧
    (∃ (s : State) (i : Initiator) (n : Fin 12), s.strOpen i n.val = true ∧ s.flag (R.STR_STAT n.val)
     F.STR_STAT_RESTARTING = false) ∧
    (∃ (s : State) (n : Fin 12), s.noInjection ∧ s.strReady n.val = true) ∧
    (∃ (s : State) (n : Fin 12) (images : List (Option Nat)) (xs : List PatchBody), s.patchQueue.contains n.val = true ∧
     patchAll n.val (s.patchesOf n.val) images [] = .inr xs) ∧
    (∃ (s : State) (n : Fin 12) (images : List (Option Nat)) (c : Nat) (i : Nat), s.patchQueue.contains n.val = true ∧
     patchAll n.val (s.patchesOf n.val) images [] = .inl (c, i)) :=
  ⟨⟨(wState).onSeq ((11 : Fin 12).val) fun x => { x with handler := none }, 11, by decide⟩,
   ⟨(wState).onSeq ((11 : Fin 12).val) fun x => { x with handler := some 0 }, 11, by decide⟩,
   ⟨((wState).onWc ((3 : Fin 4).val) fun x => { x with abandon := true }).onSeq ((8 + (3 : Fin 4).val))
     fun x => { x with handler := some 0, events := [scGate] }, 3, by decide⟩,
   ⟨(wState).onWc ((3 : Fin 4).val) fun x => { x with abandon := true }, 3, by decide⟩,
   ⟨(wState).onSeq ((7 : Fin 8).val) fun x => { x with handTo := some 0 }, 7, by decide⟩,
   ⟨((wState).setStrReady (7 : Fin 8).val false).onSeq ((7 : Fin 8).val)
     fun x => { x with handTo := some (1 : Nat), wq := ((1 : Nat), (1 : Nat)) :: ([] : List (Nat × Nat)) }, 7, 1, 1, 1, [],
     by decide⟩,
   ⟨(wState).wf (R.STR_STAT (11 : Fin 12).val) F.STR_STAT_RESTARTING 0, .port, 11, by decide⟩,
   ⟨wState, 11, by (simp only [State.noInjection]; decide)⟩,
   ⟨{ (wState) with patchQueue := [(11 : Fin 12).val] }, 11, [], [], by decide⟩,
   ⟨{ ({ (wState) with patchQueue := [(11 : Fin 12).val] }) with kenul := some { wImage with patches := [⟨0xFFF, 0, 0, 0, 0⟩] } }, 11, [], pfFlash, 0, by decide⟩⟩

theorem witness_CarriageAndObsidianRun :
    (∃ (s : State) (i : Initiator) (k : Fin 32) (v : Word), s.ready .carriage = true ∧ s.mayControl i (carChanRes k.val)
     = true ∧ fget v F.CAR_CH_CTL_START = 1 ∧ fget v F.CAR_CH_CTL_EN = 1 ∧ fget v F.CAR_CH_CTL_DW ≤ 5 ∧
     fget v F.CAR_CH_CTL_SW ≤ 5 ∧ fget v F.CAR_CH_CTL_BURST ≠ 0 ∧ fget v F.CAR_CH_CTL_BURST ≤ 64 ∧
     fget v F.CAR_CH_CTL_REQ = s.rf (R.CAR_CH_CTL k.val) F.CAR_CH_CTL_REQ ∧ s.carBusy k.val = false) ∧
    (∃ (s : State) (i : Initiator) (k : Fin 32) (v : Word), s.carBusy k.val = true ∧ fget v F.CAR_CH_CTL_START = 1) ∧
    (∃ (s : State) (k : Fin 32), (s.carCh k.val).disabled = true) ∧
    (∃ (s : State) (p : Nat) (k : Nat), (s.car.ch.filter CarChan.inFlight).length < 8 ∧ s.carPick = some (p, k)) ∧
    (∃ (s : State), 8 ≤ (s.car.ch.filter CarChan.inFlight).length) ∧
    (∃ (s : State) (k : Fin 32), (s.carCh k.val).reads = []) ∧
    (∃ (s : State) (k : Fin 32), (s.carCh k.val).writes = []) ∧
    (∃ (s : State) (k : Fin 32) (o : Nat) (rest : List Nat), (s.carCh k.val).reads = o :: rest) ∧
    (∃ (s : State) (k : Fin 32) (b : CarBeat) (rest : List CarBeat), (s.carCh k.val).writes = b :: rest) ∧
    (∃ (s : State) (l : Fin 64), (l.val < 48 ∨ 56 ≤ l.val)) ∧
    (∃ (s : State) (l : Fin 64), 48 ≤ l.val ∧ l.val < 56) ∧
    (∃ (s : State) (i : Initiator) (l : BitVec 8), s.ready .carriage = true) ∧
    (∃ (s : State) (i : Initiator) (l : BitVec 8), s.ready .carriage = false) ∧
    (∃ (s : State) (i : Initiator) (g : Fin 32), s.ready .carriage = true ∧ s.mayControl i (bufSegRes g.val) = true) ∧
    (∃ (s : State) (g : Fin 32) (adj : BitVec 12), s.ready .carriage = true ∧ s.mayControl .port (bufSegRes g.val) = true ∧
     s.owner (bufSegRes g.val) = 1) ∧
    (∃ (s : State) (g : Fin 32) (n : Nat) (edge : Bool), n ≤ 65536 ∧ edge = false) ∧
    (∃ (s : State) (i : Initiator) (v : Word), s.obsOpen i = true ∧ s.obs.staged.length < 16) ∧
    (∃ (s : State) (i : Initiator) (v : Word), 16 ≤ s.obs.staged.length) ∧
    (∃ (s : State) (i : Initiator) (slot : Fin 4096), s.obsOpen i = true ∧ s.mayControl i (keyRes slot.val) = true ∧
     s.obs.staged.length = 16) ∧
    (∃ (s : State) (i : Initiator) (slot : Fin 4096), s.obs.staged.length ≠ 16) ∧
    (∃ (s : State) (i : Initiator) (slot : Fin 4096), s.obsOpen i = true ∧ s.mayControl i (keyRes slot.val) = true) ∧
    (∃ (s : State) (i : Initiator) (port : Fin 14) (v : Word) (t : State), s.ready .obsidian = true ∧
     rawPort i = some port.val ∧ s.rawBusy port.val = false ∧ fget v F.OBS_RAW_CTL_DEST ≠ 3 ∧ fget v F.OBS_RAW_CTL_GO = 1 ∧
     t = (s.writeFields (R.OBS_RAW_CTL port.val) v).raise (R.OBS_RAW_STAT port.val) F.OBS_RAW_STAT_BUSY ∧
     t.portMayUse port.val (fget v F.OBS_RAW_CTL_KEY) = false) ∧
    (∃ (s : State) (i : Initiator) (port : Fin 14) (v : Word) (t : State), s.ready .obsidian = true ∧
     rawPort i = some port.val ∧ s.rawBusy port.val = false ∧ fget v F.OBS_RAW_CTL_DEST ≠ 3 ∧ fget v F.OBS_RAW_CTL_GO = 1 ∧
     s.obs.cmds = [] ∧ s.noInjection ∧ t = (s.writeFields (R.OBS_RAW_CTL port.val) v).raise (R.OBS_RAW_STAT port.val)
     F.OBS_RAW_STAT_BUSY ∧ t.portMayUse port.val (fget v F.OBS_RAW_CTL_KEY) = true) ∧
    (∃ (s : State) (core : Fin 16) (r : RawReq), s.obs.cores.getD core.val none = some r) ∧
    (∃ (s : State) (p : Fin 14) (st : Nat), st < 4) ∧
    (∃ (s : State) (i : Initiator) (u : Fin 4) (p : Nat), rawPort i = some p ∧ s.ready .obsidian = true ∧ u.val < s.auCount ∧
     s.auState u.val = auIdle) ∧
    (∃ (s : State) (i : Initiator) (u : Fin 4) (p : Nat) (tlen : Fin 32), rawPort i = some p ∧ s.ready .obsidian = true ∧
     u.val < s.auCount ∧ s.rf (R.OBS_AU_STAT u.val) F.OBS_AU_STAT_PORT = p ∧ s.auState u.val = auOpen ∧
     s.flag (R.OBS_AU_STAT u.val) F.OBS_AU_STAT_TAG_IN = true ∧ s.flag (R.OBS_AU_STAT u.val) F.OBS_AU_STAT_TAG_SET = true ∧
     4 ≤ tlen.val ∧ tlen.val ≤ 16 ∧ s.auInCore u.val = false) ∧
    (∃ (s : State) (u : Fin 4) (tlen : Nat), (s.au u.val).tag % 2 ^ (8 * tlen) = (s.au u.val).expected % 2 ^ (8 * tlen)) ∧
    (∃ (s : State) (u : Fin 4) (tlen : Nat), (s.au u.val).tag % 2 ^ (8 * tlen) ≠ (s.au u.val).expected % 2 ^ (8 * tlen)) ∧
    (∃ (s : State) (i : Initiator) (u : Fin 4) (p : Nat), rawPort i = some p ∧ s.ready .obsidian = true ∧ u.val < s.auCount ∧
     s.rf (R.OBS_AU_STAT u.val) F.OBS_AU_STAT_PORT = p ∧ s.auState u.val ≠ auIdle) ∧
    (∃ (s : State) (i : Initiator) (u : Fin 4) (j : Fin 4) (v : Word), s.ready .obsidian = true ∧ u.val < s.auCount ∧
     s.auState u.val ≠ auIdle ∧ rawPort i = some (s.rf (R.OBS_AU_STAT u.val) F.OBS_AU_STAT_PORT)) ∧
    (∃ (s : State) (i : Initiator) (u : Fin 4), u.val < s.auCount ∧ s.auState u.val = auPass ∧
     rawPort i = some (s.rf (R.OBS_AU_STAT u.val) F.OBS_AU_STAT_PORT) ∧ (s.au u.val).pos < 4 * s.auBlocks u.val) ∧
    (∃ (s : State) (i : Initiator) (u : Fin 4), s.auState u.val ≠ auPass) :=
  ⟨⟨(wState).setReady (.carriage) true, .port, 31, (fset (fset (fset 0 F.CAR_CH_CTL_START 1) F.CAR_CH_CTL_EN 1)
     F.CAR_CH_CTL_BURST 1), by decide⟩,
   ⟨(wState).setCarBusy (31 : Fin 32).val true, .port, 31, (fset 0 F.CAR_CH_CTL_START 1), by decide⟩,
   ⟨(wState).onChan ((31 : Fin 32).val) fun x => { x with disabled := true }, 31, by decide⟩,
   ⟨((wState).wf (R.CAR_CH_CTL 31) F.CAR_CH_CTL_PRIO 2).onChan (31)
     fun x => { x with active := true, count := 8, burst := 8 }, 2, 31, by decide⟩,
   ⟨(wState).onCar fun x => { x with ch := List.replicate 8 { reads := [0] } }, by decide⟩,
   ⟨(wState).onChan ((31 : Fin 32).val) fun x => { x with reads := [] }, 31, by decide⟩,
   ⟨(wState).onChan ((31 : Fin 32).val) fun x => { x with writes := [] }, 31, by decide⟩,
   ⟨(wState).onChan ((31 : Fin 32).val) fun x => { x with reads := (1 : Nat) :: ([] : List Nat) }, 31, 1, [], by decide⟩,
   ⟨(wState).onChan ((31 : Fin 32).val) fun x => { x with writes := (⟨0, 0, 0⟩ : CarBeat) :: ([] : List CarBeat) }, 31, ⟨0,
     0, 0⟩, [], by decide⟩,
   ⟨wState, 63, by decide⟩,
   ⟨wState, 55, by decide⟩,
   ⟨(wState).setReady (.carriage) true, .port, 1, by decide⟩,
   ⟨(wState).setReady (.carriage) false, .port, 1, by decide⟩,
   ⟨(wState).setReady (.carriage) true, .port, 31, by decide⟩,
   ⟨(wState).setReady (.carriage) true, 31, 1, by decide⟩,
   ⟨wState, 31, 65536, false, by decide⟩,
   ⟨wState, .port, 0, by decide⟩,
   ⟨(wState).onObs fun x => { x with staged := List.replicate 16 0 }, .port, 0, by decide⟩,
   ⟨(wState).onObs fun x => { x with staged := List.replicate 16 0 }, .port, 4095, by decide⟩,
   ⟨wState, .port, 4095, by decide⟩,
   ⟨wState, .port, 4095, by decide⟩,
   ⟨(wMore ⟨0x900, 2, 15⟩).setReady (.obsidian) true, .str 11, 13, (fset 0 F.OBS_RAW_CTL_GO 1), ((((wMore ⟨0x900, 2,
     15⟩).setReady (.obsidian) true)).writeFields (R.OBS_RAW_CTL 13) (fset 0 F.OBS_RAW_CTL_GO 1)).raise (R.OBS_RAW_STAT 13)
     F.OBS_RAW_STAT_BUSY, ⟨by decide, by decide, by decide, by decide, by decide, rfl, by decide⟩⟩,
   ⟨((wState).setReady (.obsidian) true).onObs fun x => { x with cmds := [] }, .str 11, 13, (fset 0 F.OBS_RAW_CTL_GO 1),
     (((((wState).setReady (.obsidian) true).onObs fun x => { x with cmds := [] })).writeFields (R.OBS_RAW_CTL 13)
     (fset 0 F.OBS_RAW_CTL_GO 1)).raise (R.OBS_RAW_STAT 13) F.OBS_RAW_STAT_BUSY, ⟨by decide, by decide, by decide, by decide,
     by decide, rfl, by unfold State.noInjection; decide, rfl, by decide⟩⟩,
   ⟨(wState).onObs fun x => { x with cores := (List.replicate 16 none).set ((15 : Fin 16).val) (some ({ port := 13, slot := 1, half := false, dir := false, block := 0, dest := 0, au := 0 } : RawReq)) }, 15, { port := 13, slot := 1, half := false, dir := false, block := 0, dest := 0, au := 0 }, by decide⟩,
   ⟨wState, 13, 3, by decide⟩,
   ⟨((wState).setReady (.obsidian) true).wf (R.OBS_AU_STAT ((3 : Fin 4).val)) F.OBS_AU_STAT_STATE auIdle, .port, 3, 0,
     by decide⟩,
   ⟨(((((({ wState with kenul := some { wImage with claims := ((List.range 4).map fun g => (⟨0x600 + g, 0x43, 3⟩ : Claim)) ++ wImage.claims } })).setReady (.obsidian) true).wf (R.OBS_AU_STAT (3 : Fin 4).val) F.OBS_AU_STAT_PORT ((0 : Nat))).wf (R.OBS_AU_STAT ((3 : Fin 4).val)) F.OBS_AU_STAT_STATE auOpen).wf (R.OBS_AU_STAT (3 : Fin 4).val) F.OBS_AU_STAT_TAG_IN 1).wf (R.OBS_AU_STAT (3 : Fin 4).val) F.OBS_AU_STAT_TAG_SET 1, .port, 3, 0, 16, by decide⟩,
   ⟨wState, 3, 1, by decide⟩,
   ⟨(wState).onObs fun x => { x with units := List.replicate 4 { tag := 2 ^ 127 } }, 3, 16, by decide⟩,
   ⟨(((wState).setReady (.obsidian) true).wf (R.OBS_AU_STAT (3 : Fin 4).val)
     F.OBS_AU_STAT_PORT ((0 : Nat))).wf (R.OBS_AU_STAT ((3 : Fin 4).val)) F.OBS_AU_STAT_STATE auOpen, .port, 3, 0, by decide⟩,
   ⟨((wState).setReady (.obsidian) true).wf (R.OBS_AU_STAT ((3 : Fin 4).val)) F.OBS_AU_STAT_STATE auOpen, .port, 3, 3, 0,
     by decide⟩,
   ⟨(((({ wState with kenul := some { wImage with claims := ((List.range 4).map fun g => (⟨0x600 + g, 0x43, 3⟩ : Claim)) ++ wImage.claims } })).wf (R.OBS_AU_STAT ((3 : Fin 4).val)) F.OBS_AU_STAT_STATE auPass).wf (R.OBS_AU_STAT (3 : Fin 4).val) F.OBS_AU_STAT_BLOCKS 1).wf (R.OBS_AU_STAT (3 : Fin 4).val) F.OBS_AU_STAT_PORT 0, .port, 3, by decide⟩,
   ⟨wState, .port, 3, by decide⟩⟩

theorem witness_CausewayComesUp :
    (∃ (s : State) (lane : Fin 2), s.cswOn = true) ∧
    (∃ (s : State) (lane : Fin 2), s.cswUp = false) ∧
    (∃ (s : State) (lane : Fin 2), s.cswUp = true) ∧
    (∃ (s : State) (lane : Fin 2) (c : BitVec 32), s.cswOn = true ∧ s.rf R.CSW_LINK ⟨lane.val, lane.val⟩ = 1 ∧
     s.csw.align = [none, none]) ∧
    (∃ (s : State) (c : BitVec 32), s.cswOn = true ∧ s.rf R.CSW_LINK F.CSW_LINK_LOCK = 3 ∧ s.cswUp = false ∧
     s.csw.align = [none, some c.toNat]) ∧
    (∃ (s : State), s.cswOn = true) ∧
    (∃ (s : State) (len : Nat) (frame : Nat), s.cswUp = true ∧ frameOk len frame = true ∧ frameTyp frame = fyHello ∧
     frameAt frame 0 2 = 0x0100 ∧ (frameAt frame 3 1 % 2 = 0 ∨ s.cswPeer = true)) ∧
    (∃ (s : State) (len : Nat) (frame : Nat), s.cswUp = true ∧ s.cswPeer = false ∧ frameOk len frame = true ∧
     frameTyp frame = fyHello ∧ frameAt frame 0 2 = 0x0100 ∧ frameAt frame 3 1 % 2 = 1) ∧
    (∃ (s : State), s.cswOn = true ∧ s.cswUp = true) ∧
    (∃ (s : State), s.cswPeer = true) ∧
    (∃ (s : State), s.cswUp = true ∧ s.cswPeer = true) ∧
    (∃ (s : State), s.cswUp = true ∧ s.cswRest = true) ∧
    (∃ (s : State), s.cswRest = true) ∧
    (∃ (s : State) (e : Nat), s.cswRest = true) :=
  ⟨⟨(wState).wf R.CSW_CTL F.CSW_CTL_ENABLE 1, 1, by decide⟩,
   ⟨(wState).wf R.CSW_LINK F.CSW_LINK_UP (b2n false), 1, by decide⟩,
   ⟨(wState).wf R.CSW_LINK F.CSW_LINK_UP (b2n true), 1, by decide⟩,
   ⟨(((wState).wf R.CSW_CTL F.CSW_CTL_ENABLE 1).wf R.CSW_LINK ⟨(1 : Fin 2).val, (1 : Fin 2).val⟩
     (1)).onCsw fun x => { x with align := [none, none] }, 1, 1, by decide⟩,
   ⟨((((wState).wf R.CSW_CTL F.CSW_CTL_ENABLE 1).wf R.CSW_LINK F.CSW_LINK_LOCK (3)).wf R.CSW_LINK F.CSW_LINK_UP (b2n false)).onCsw fun x => { x with align := [none, some (1 : BitVec 32).toNat] }, 1, by decide⟩,
   ⟨(wState).wf R.CSW_CTL F.CSW_CTL_ENABLE 1, by decide⟩,
   ⟨(wState).wf R.CSW_LINK F.CSW_LINK_UP (b2n true), 56, frameBytes fyHello 0 [(2, 0x0100), (1, 0), (1, 0), (16, 0), (12,
     0)], by set_option maxRecDepth 100000 in decide⟩,
   ⟨((wState).wf R.CSW_LINK F.CSW_LINK_UP (b2n true)).wf R.CSW_LINK F.CSW_LINK_PEER (b2n false), 56,
     frameBytes fyHello 0 [(2, 0x0100), (1, 0), (1, 1), (16, 0), (12, 0)], by set_option maxRecDepth 100000 in decide⟩,
   ⟨((wState).wf R.CSW_CTL F.CSW_CTL_ENABLE 1).wf R.CSW_LINK F.CSW_LINK_UP (b2n true), by decide⟩,
   ⟨(wState).wf R.CSW_LINK F.CSW_LINK_PEER (b2n true), by decide⟩,
   ⟨((wState).wf R.CSW_LINK F.CSW_LINK_UP (b2n true)).wf R.CSW_LINK F.CSW_LINK_PEER (b2n true), by decide⟩,
   ⟨(wState).wf R.CSW_LINK F.CSW_LINK_UP (b2n true), by decide⟩,
   ⟨wState, by decide⟩,
   ⟨wState, 1, by decide⟩⟩

theorem witness_MigrationRuns :
    (∃ (s : State) (len : Nat) (frame : Nat), s.cswUp = true ∧ frameOk len frame = true ∧ frameTyp frame = fyAck ∧
     s.csw.queue = []) ∧
    (∃ (s : State) (len : Nat) (frame : Nat), s.cswUp = true ∧ frameOk len frame = true ∧ frameTyp frame = fyNak) ∧
    (∃ (s : State), s.cswUp = true) ∧
    (∃ (s : State) (len : Nat) (frame : Nat), s.cswUp = true ∧ s.cswRest = true ∧ frameOk len frame = true ∧
     frameTyp frame = fyPlan ∧ frameSeq frame = 0) ∧
    (∃ (s : State) (u : State) (len : Nat) (f : Nat), s.cswUp = true ∧ frameOk len f = true ∧ s.cswSeq (frameSeq f) = (true,
     u)) ∧
    (∃ (s : State) (t : Nat) (kind : Nat) (id : Nat) (ofs : Nat) (x : CswItem) (n : Nat) (digest : Nat),
     s.csw.rx.find? (fun y => decide (y.key = ⟨t, kind, id, ofs⟩)) = some x ∧ x.ended = some (n, digest) ∧
     s.cswLate x = false) ∧
    (∃ (s : State) (t : Nat) (kind : Nat) (id : Nat) (ofs : Nat) (x : CswItem) (lost : Bool),
     s.csw.rx.find? (fun y => decide (y.key = ⟨t, kind, id, ofs⟩)) = some x ∧ s.cswLate x = true) ∧
    (∃ (s : State) (t : Nat) (kind : Nat) (id : Nat) (ofs : Nat) (x : CswItem) (n : Nat),
     s.csw.rx.find? (fun y => decide (y.key = ⟨t, kind, id, ofs⟩)) = some x ∧ x.grans = [] ∧ x.ended = some (n,
     sha384 8 (x.length % 2 ^ 64))) ∧
    (∃ (s : State) (x : CswItem) (o : Nat) (rest : List Nat), s.csw.sending = some x ∧ x.todo = o :: rest ∧
     s.csw.queue = [] ∧ s.writeWaits (x.key.gran o) = false ∧ s.way.lost.contains (x.key.gran o) = false) ∧
    (∃ (s : State) (x : CswItem) (o : Nat) (rest : List Nat), s.csw.sending = some x ∧ x.todo = o :: rest ∧
     s.csw.queue = [] ∧ s.writeWaits (x.key.gran o) = false) ∧
    (∃ (s : State) (i : Initiator), isPair i = true ∧ s.rf R.CSW_CTL F.CSW_CTL_ROLE = 1 ∧ s.mode = mMigration ∧
     s.cswPeer = true ∧ s.cswRest = true ∧ s.flag R.CSW_CTL F.CSW_CTL_ENABLE = true ∧ s.rf R.CSW_CTL F.CSW_CTL_STOP = 0) ∧
    (∃ (s : State) (i : Initiator), isPair i = true ∧ s.rf R.CSW_CTL F.CSW_CTL_ROLE ≠ 3 ∧ s.rf R.CSW_CTL F.CSW_CTL_GO = 0 ∧
     s.flag R.CSW_CTL F.CSW_CTL_ENABLE = true ∧ s.cswRole = s.rf R.CSW_CTL F.CSW_CTL_ROLE) ∧
    (∃ (s : State), s.cswSt = csDrain ∧ s.cswItems = []) ∧
    (∃ (s : State), s.cswSt ≠ csDrain) :=
  ⟨⟨((wState).wf R.CSW_LINK F.CSW_LINK_UP (b2n true)).onCsw fun x => { x with queue := [] }, 32, frameBytes fyAck 0 [(4, 0),
     (2, 8), (2, 0)], by set_option maxRecDepth 100000 in decide⟩,
   ⟨(wState).wf R.CSW_LINK F.CSW_LINK_UP (b2n true), 32, frameBytes fyNak 0 [(4, 0), (4, 0)],
     by set_option maxRecDepth 100000 in decide⟩,
   ⟨(wState).wf R.CSW_LINK F.CSW_LINK_UP (b2n true), by decide⟩,
   ⟨(wState).wf R.CSW_LINK F.CSW_LINK_UP (b2n true), 72, frameBytes fyPlan 0 [(8, 1), (32, 1), (8, 0)],
     by set_option maxRecDepth 100000 in decide⟩,
   ⟨(wState).wf R.CSW_LINK F.CSW_LINK_UP (b2n true),
     { (((wState).wf R.CSW_LINK F.CSW_LINK_UP (b2n true))) with csw := { (((wState).wf R.CSW_LINK F.CSW_LINK_UP (b2n true))).csw with rxNext := 1, gap := false } }, 40, frameBytes fyFinish 0 [(8, 0), (4, 0), (4, 0)], ⟨by decide, by set_option maxRecDepth 100000 in decide, by rw [show frameSeq (frameBytes fyFinish 0 [(8, 0), (4, 0), (4, 0)]) = 0 from by set_option maxRecDepth 100000 in decide]; rfl⟩⟩,
   ⟨(wState).onCsw fun x => { x with rx := [({ key := ⟨1, 1, 1, 1⟩, length := 1, cls := 0, st := 0, created := 0, ended := some (1, 1) } : CswItem)] }, 1, 1, 1, 1, { key := ⟨1, 1, 1, 1⟩, length := 1, cls := 0, st := 0, created := 0, ended := some (1, 1) }, 1, 1, by decide⟩,
   ⟨((wState).onCsw fun x => { x with rx := [({ key := ⟨1, 1, 1, 1⟩, length := 1, cls := 0, st := 0, created := 0, grans := [0] } : CswItem)] }).onWay fun x => { x with late := [⟨0, 0, 0, .data (Key.gran ⟨1, 1, 1, 1⟩ 0) 0⟩] }, 1, 1, 1, 1, { key := ⟨1, 1, 1, 1⟩, length := 1, cls := 0, st := 0, created := 0, grans := [0] }, false, by decide⟩,
   ⟨(wState).onCsw fun x => { x with rx := [({ key := ⟨1, 1, 1, 1⟩, length := 1, cls := 0, st := 0, created := 0, ended := some (1, sha384 8 1) } : CswItem)] }, 1, 1, 1, 1, { key := ⟨1, 1, 1, 1⟩, length := 1, cls := 0, st := 0, created := 0, ended := some (1, sha384 8 1) }, 1, ⟨rfl, rfl, rfl⟩⟩,
   ⟨((wState).onCsw fun x => { x with sending := some ({ key := ⟨1, 1, 1, 1⟩, length := 1, cls := 0, st := 0, created := 0, todo := [3, 4] } : CswItem) }).onCsw fun x => { x with queue := [] }, { key := ⟨1, 1, 1, 1⟩, length := 1, cls := 0, st := 0, created := 0, todo := [3, 4] }, 3, [4], by decide⟩,
   ⟨((wState).onCsw fun x => { x with sending := some ({ key := ⟨1, 1, 1, 1⟩, length := 1, cls := 0, st := 0, created := 0, todo := [3, 4] } : CswItem) }).onCsw fun x => { x with queue := [] }, { key := ⟨1, 1, 1, 1⟩, length := 1, cls := 0, st := 0, created := 0, todo := [3, 4] }, 3, [4], by decide⟩,
   ⟨(((((wState).wf R.CSW_CTL F.CSW_CTL_ROLE (1)).wf R.SYS_MODE F.SYS_MODE_MODE mMigration).wf R.CSW_LINK F.CSW_LINK_PEER (b2n true)).wf R.CSW_CTL F.CSW_CTL_ENABLE 1).wf R.CSW_CTL F.CSW_CTL_STOP (0), .port, by decide⟩,
   ⟨((wState).wf R.CSW_CTL F.CSW_CTL_GO (0)).wf R.CSW_CTL F.CSW_CTL_ENABLE 1, .port, by decide⟩,
   ⟨(wState).wf R.CSW_SESS F.CSW_SESS_STATE csDrain, by decide⟩,
   ⟨wState, by decide⟩⟩

theorem witness_UnitsHaveTheirEffects :
    (∃ (s : State) (mv : Nat), 10800 < mv ∧ mv ≤ 13200) ∧
    (∃ (s : State) (mv : Int), s.sys.auxUp = true ∧ s.bls.mainUp = true ∧ s.bls.rails = 5 ∧ railWithin 5 mv 3 = true) ∧
    (∃ (s : State) (b : Fin 4) (a : Fin 4), s.bls.rails = 6 ∧ s.bls.released = false) ∧
    (∃ (s : State) (r : Fin 14) (mv : Int), r.val < 6 ∧ r.val < s.bls.rails ∧ railWithin r.val mv 6 = false) ∧
    (∃ (s : State), s.flag R.BLS_STAT F.BLS_STAT_LINK = false) ∧
    (∃ (s : State), s.flag R.BLS_STAT F.BLS_STAT_LINK = true) ∧
    (∃ (s : State) (g : Fin 9) (ma : Nat), s.stageRuns g.val = true ∧ s.bls.trips = [] ∧ tripMa g.val ≤ ma) ∧
    (∃ (s : State) (i : Initiator) (v : Word), isPair i = true) ∧
    (∃ (s : State), s.bls.charging = true ∧ s.bankMv < 5000 ∧ s.bls.chargeAt + 200000000 ≤ s.now) ∧
    (∃ (s : State) (i : Initiator) (v : Word), isPair i = true ∧ fget v F.BLS_MEAS_CTL_GO = 1 ∧
     (s.writeFields R.BLS_MEAS_CTL (fset v F.BLS_MEAS_CTL_GO 0)).onHoldup = false) ∧
    (∃ (s : State), s.measureDue = true ∧ s.onHoldup = false ∧ s.flag R.BLS_MEAS_CTL F.BLS_MEAS_CTL_BUSY = false) ∧
    (∃ (s : State) (st : Nat) (fall : Nat) (us : Nat), s.flag R.BLS_MEAS_CTL F.BLS_MEAS_CTL_BUSY = true) ∧
    (∃ (s : State) (mv : Nat), mv ≤ 0xFFFF) ∧
    (∃ (s : State) (mv : Nat) (aux : Bool), s.onHoldup = false ∧
     ((s.toHoldup mv aux).requestHaven hvPowerLoss).bankOk = true ∧
     ((s.toHoldup mv aux).requestHaven hvPowerLoss).vretMv < mv) ∧
    (∃ (s : State), s.flushOver = true) ∧
    (∃ (s : State), s.onHoldup = true ∧ ((s.wr R.BLS_BANK_V (word s.vretMv)).abandonFlush).allParked = true) ∧
    (∃ (s : State) (mv : Nat), s.onHoldup = false ∧ 10800 ≤ mv ∧ mv ≤ 13200) ∧
    (∃ (s : State), s.retractDue = true) ∧
    (∃ (s : State), s.flag R.BED_TUM_CTL F.BED_TUM_CTL_EN = true ∧ s.bed.lapOn = false ∧
     s.bed.lapStart + minuteTicks * s.rf R.BED_TUM_CTL F.BED_TUM_CTL_LAP_MIN ≤ s.now) ∧
    (∃ (s : State) (u : BitVec 576) (nw : Bool), s.bed.lapOn = true ∧ s.flag R.BED_TUM_CTL F.BED_TUM_CTL_EN = true ∧
     s.ready .bedrock = true ∧ nextGran s.bed.gran s.bed.scrub = none) ∧
    (∃ (s : State) (r : Fin 10) (nw : Bool) (k : SramSpot), s.noInjection ∧ s.flag R.BED_SS_CTL F.BED_SS_CTL_EN = true ∧
     bitAt (s.rf R.BED_SS_CTL F.BED_SS_CTL_REGIONS) r.val = true ∧ s.bed.ssCount < 524287) ∧
    (∃ (s : State) (i : Initiator) (v : Word), isPair i = true ∧ fget v F.SHL_CTL_EN = 1 ∧
     s.flag R.SHL_CTL F.SHL_CTL_EN = false ∧ s.flag R.SHL_STATUS F.SHL_STATUS_ARMED = true ∧ s.shlDraining = false) ∧
    (∃ (s : State) (i : Initiator) (v : Word), isPair i = true ∧ fget v F.SHL_CTL_EN = 0 ∧
     s.flag R.SHL_CTL F.SHL_CTL_EN = true ∧ s.bed.shlOp = none ∧ s.bed.lines = []) ∧
    (∃ (s : State), s.shlDraining = true) ∧
    (∃ (s : State) (i : Initiator) (v : Word), isPair i = true ∧ s.flag R.SHL_INV_STATUS F.SHL_INV_STATUS_BUSY = false ∧
     s.flag R.SHL_CTL F.SHL_CTL_EN = false ∧ s.shlDraining = false ∧ fget v F.SHL_OP_OP = 1) ∧
    (∃ (s : State) (i : Initiator) (v : Word), isPair i = true ∧ s.flag R.SHL_INV_STATUS F.SHL_INV_STATUS_BUSY = false ∧
     s.flag R.SHL_CTL F.SHL_CTL_EN = false ∧ s.shlDraining = false ∧ fget v F.SHL_OP_OP = 2) ∧
    (∃ (s : State) (i : Initiator) (v : Word), isPair i = true ∧ s.flag R.SHL_INV_STATUS F.SHL_INV_STATUS_BUSY = false ∧
     s.flag R.SHL_CTL F.SHL_CTL_EN = true ∧ s.shlDraining = false ∧ fget v F.SHL_OP_OP = 3 ∧
     s.wayLocked (fget v F.SHL_OP_WAY) = true ∧ s.shlSpan.2 ≤ 2048 ∧ s.spanInRing s.shlSpan.1 s.shlSpan.2 = false) ∧
    (∃ (s : State) (lo : Nat) (n : Nat), s.bed.shlOp = some (.invRange lo n)) ∧
    (∃ (s : State) (i : Initiator) (v : Word), isPair i = true ∧
     4 ≤ ((List.range 16).filter fun w => !bitAt v.toNat w).length) ∧
    (∃ (s : State) (i : Initiator) (k : Fin 32) (v : Word), s.ready .carriage = true ∧ s.mayControl i (carChanRes k.val)
     = true ∧ fget v F.CAR_CH_CTL_START = 1 ∧ fget v F.CAR_CH_CTL_EN = 1 ∧ fget v F.CAR_CH_CTL_DW ≤ 5 ∧
     fget v F.CAR_CH_CTL_SW ≤ 5 ∧ fget v F.CAR_CH_CTL_BURST ≠ 0 ∧ fget v F.CAR_CH_CTL_BURST ≤ 64 ∧
     fget v F.CAR_CH_CTL_REQ = s.rf (R.CAR_CH_CTL k.val) F.CAR_CH_CTL_REQ ∧ s.carBusy k.val = false) ∧
    (∃ (s : State) (k : Fin 32), (s.carCh k.val).disabled = true) ∧
    (∃ (s : State) (p : Nat) (k : Nat), (s.car.ch.filter CarChan.inFlight).length < 8 ∧ s.carPick = some (p, k)) ∧
    (∃ (s : State) (k : Fin 32) (o : Nat) (rest : List Nat), (s.carCh k.val).reads = o :: rest) ∧
    (∃ (s : State) (k : Fin 32) (b : CarBeat) (rest : List CarBeat), (s.carCh k.val).writes = b :: rest) ∧
    (∃ (s : State) (l : Fin 64), (l.val < 48 ∨ 56 ≤ l.val)) ∧
    (∃ (s : State) (i : Initiator) (l : BitVec 8), s.ready .carriage = true) ∧
    (∃ (s : State) (i : Initiator) (g : Fin 32), s.ready .carriage = true ∧ s.mayControl i (bufSegRes g.val) = true) ∧
    (∃ (s : State) (g : Fin 32) (adj : BitVec 12), s.ready .carriage = true ∧ s.mayControl .media (bufSegRes g.val) = true ∧
     s.owner (bufSegRes g.val) = 2) ∧
    (∃ (s : State) (i : Initiator) (v : Word), s.obsOpen i = true ∧ s.obs.staged.length < 16) ∧
    (∃ (s : State) (i : Initiator) (slot : Fin 4096), s.obsOpen i = true ∧ s.mayControl i (keyRes slot.val) = true ∧
     s.obs.staged.length = 16) ∧
    (∃ (s : State) (i : Initiator) (slot : Fin 4096), s.obsOpen i = true ∧ s.mayControl i (keyRes slot.val) = true) ∧
    (∃ (s : State) (i : Initiator) (port : Fin 14) (v : Word) (t : State), s.ready .obsidian = true ∧
     rawPort i = some port.val ∧ s.rawBusy port.val = false ∧ fget v F.OBS_RAW_CTL_DEST ≠ 3 ∧ fget v F.OBS_RAW_CTL_GO = 1 ∧
     t = (s.writeFields (R.OBS_RAW_CTL port.val) v).raise (R.OBS_RAW_STAT port.val) F.OBS_RAW_STAT_BUSY ∧
     t.portMayUse port.val (fget v F.OBS_RAW_CTL_KEY) = false) ∧
    (∃ (s : State) (core : Fin 16) (r : RawReq), s.obs.cores.getD core.val none = some r) ∧
    (∃ (s : State) (i : Initiator) (u : Fin 4) (p : Nat), rawPort i = some p ∧ s.ready .obsidian = true ∧ u.val < s.auCount ∧
     s.auState u.val = auIdle) ∧
    (∃ (s : State) (i : Initiator) (u : Fin 4) (p : Nat) (tlen : Fin 32), rawPort i = some p ∧ s.ready .obsidian = true ∧
     u.val < s.auCount ∧ s.rf (R.OBS_AU_STAT u.val) F.OBS_AU_STAT_PORT = p ∧ s.auState u.val = auOpen ∧
     s.flag (R.OBS_AU_STAT u.val) F.OBS_AU_STAT_TAG_IN = true ∧ s.flag (R.OBS_AU_STAT u.val) F.OBS_AU_STAT_TAG_SET = true ∧
     4 ≤ tlen.val ∧ tlen.val ≤ 16 ∧ s.auInCore u.val = false) ∧
    (∃ (s : State) (i : Initiator) (u : Fin 4) (p : Nat), rawPort i = some p ∧ s.ready .obsidian = true ∧ u.val < s.auCount ∧
     s.rf (R.OBS_AU_STAT u.val) F.OBS_AU_STAT_PORT = p ∧ s.auState u.val ≠ auIdle) ∧
    (∃ (s : State) (i : Initiator) (u : Fin 4) (j : Fin 4) (v : Word), s.ready .obsidian = true ∧ u.val < s.auCount ∧
     s.auState u.val ≠ auIdle ∧ rawPort i = some (s.rf (R.OBS_AU_STAT u.val) F.OBS_AU_STAT_PORT)) ∧
    (∃ (s : State) (i : Initiator) (u : Fin 4), u.val < s.auCount ∧ s.auState u.val = auPass ∧
     rawPort i = some (s.rf (R.OBS_AU_STAT u.val) F.OBS_AU_STAT_PORT) ∧ (s.au u.val).pos < 4 * s.auBlocks u.val) ∧
    (∃ (s : State) (src : Fin 52) (cls : Fin 4), src.val ≠ 0 ∧ cls.val ∈ tgtClasses src.val) ∧
    (∃ (s : State) (i : Initiator) (v : Word) (n : Nat), isPair i = true ∧ (statusBits false v).filter s.latched = [n] ∧
     s.latchedClass n ≠ 3) ∧
    (∃ (s : State), s.flag R.TGT_GRACE_STAT F.TGT_GRACE_STAT_RUNNING = true) ∧
    (∃ (s : State) (n : Nat) (l : List Nat), s.tgt.heldTakeouts = n :: l ∧
     s.flag R.WAY_UNIT_STAT F.WAY_UNIT_STAT_BUSY = false) ∧
    (∃ (s : State), s.tgt.expired = true ∧ s.pendingList = []) ∧
    (∃ (s : State), s.noInjection ∧ s.ready .tollgate = true) ∧
    (∃ (s : State), s.flag R.TGT_PIN F.TGT_PIN_PULSING = true) ∧
    (∃ (s : State) (i : Initiator) (v : Word), isPair i = true ∧
     (s.writeFields R.TGT_PIN v).flag R.TGT_PIN F.TGT_PIN_HOLD = true) ∧
    (∃ (s : State) (n : Nat), s.tgt.kclr = [n]) ∧
    (∃ (s : State), s.ready .tollgate = false ∧ s.tgt.early = []) ∧
    (∃ (s : State) (i : Initiator) (count : Nat) (src : Fin 64), isPair i = true ∧ src.val ∈ injEcc ∧ 1 ≤ count ∧
     count ≤ 255 ∧ s.noInjection) ∧
    (∃ (s : State) (i : Initiator), isPair i = true) :=
  ⟨⟨wState, 13200, by decide⟩,
   ⟨(((wState).onSys fun x => { x with auxUp := true }).onBls fun x => { x with mainUp := true }).onBls fun x => { x with rails := 5 }, 2500, by decide⟩,
   ⟨((wState).onBls fun x => { x with rails := 6 }).onBls fun x => { x with released := false }, 3, 3, by decide⟩,
   ⟨(wState).onBls fun x => { x with rails := 6 }, 5, 1, by decide⟩,
   ⟨(wState).wf R.BLS_STAT F.BLS_STAT_LINK 0, by decide⟩,
   ⟨(wState).wf R.BLS_STAT F.BLS_STAT_LINK 1, by decide⟩,
   ⟨(wState).onBls fun x => { x with trips := [] }, 8, 4500, by decide⟩,
   ⟨wState, .port, 0, by decide⟩,
   ⟨{ ((wState).onBls fun x => { x with charging := true }) with now := 300000000 }, by decide⟩,
   ⟨wState, .port, (fset 0 F.BLS_MEAS_CTL_GO 1), by decide⟩,
   ⟨((((wState).wf R.BLS_STAT F.BLS_STAT_ON_HOLDUP (b2n false)).wf R.BLS_MEAS_CTL F.BLS_MEAS_CTL_BUSY 0).onBls fun x => { x with measured := false }).wf R.BLS_BANK_V F.BLS_BANK_V_MV 65535, by decide⟩,
   ⟨(wState).wf R.BLS_MEAS_CTL F.BLS_MEAS_CTL_BUSY 1, 1, 1, 1, by decide⟩,
   ⟨wState, 0xFFFF, by decide⟩,
   ⟨((wState).wf R.BLS_STAT F.BLS_STAT_ON_HOLDUP (b2n false)).wf R.BLS_STAT F.BLS_STAT_BANK_OK 1, 60000, false,
     by set_option maxRecDepth 100000 in decide⟩,
   ⟨(wState).onBls fun x => { x with flushing := true }, by decide⟩,
   ⟨(wState).wf R.BLS_STAT F.BLS_STAT_ON_HOLDUP (b2n true), by decide⟩,
   ⟨(wState).wf R.BLS_STAT F.BLS_STAT_ON_HOLDUP (b2n false), 13200, by decide⟩,
   ⟨wState, by decide⟩,
   ⟨{ (((wState).wf R.BED_TUM_CTL F.BED_TUM_CTL_EN 1).onBed fun x => { x with lapOn := false }) with now := 10000000000000000 }, by decide⟩,
   ⟨(((wState).onBed fun x => { x with lapOn := true }).wf R.BED_TUM_CTL F.BED_TUM_CTL_EN 1).setReady (.bedrock) true, 1,
     false, by decide⟩,
   ⟨(wState).wf R.BED_SS_CTL F.BED_SS_CTL_EN 1, 9, false, .plain, by (simp only [State.noInjection]; decide)⟩,
   ⟨(((wState).wf R.SHL_CTL F.SHL_CTL_EN 0).wf R.SHL_STATUS F.SHL_STATUS_ARMED 1).wf R.SHL_STATUS F.SHL_STATUS_DRAINING (b2n false), .port, (fset 0 F.SHL_CTL_EN 1), by decide⟩,
   ⟨(((wState).wf R.SHL_CTL F.SHL_CTL_EN 1).onBed fun x => { x with shlOp := none }).onBed fun x => { x with lines := [] },
     .port, (fset 0 F.SHL_CTL_EN 0), by decide⟩,
   ⟨(wState).wf R.SHL_STATUS F.SHL_STATUS_DRAINING (b2n true), by decide⟩,
   ⟨(((wState).wf R.SHL_INV_STATUS F.SHL_INV_STATUS_BUSY 0).wf R.SHL_CTL F.SHL_CTL_EN 0).wf R.SHL_STATUS F.SHL_STATUS_DRAINING (b2n false), .port, (fset 0 F.SHL_OP_OP 1), by decide⟩,
   ⟨(((wState).wf R.SHL_INV_STATUS F.SHL_INV_STATUS_BUSY 0).wf R.SHL_CTL F.SHL_CTL_EN 0).wf R.SHL_STATUS F.SHL_STATUS_DRAINING (b2n false), .port, (fset 0 F.SHL_OP_OP 2), by decide⟩,
   ⟨(((((wState).wf R.SHL_INV_STATUS F.SHL_INV_STATUS_BUSY 0).wf R.SHL_CTL F.SHL_CTL_EN 1).wf R.SHL_STATUS F.SHL_STATUS_DRAINING (b2n false)).wr R.SHL_LOCK 1).wf R.SHL_RANGE_SIZE F.SHL_RANGE_SIZE_RANGE 2048, .port, (fset 0 F.SHL_OP_OP 3), by decide⟩,
   ⟨(wState).onBed fun x => { x with shlOp := some (.invRange (1 : Nat) (1 : Nat)) }, 1, 1, by decide⟩,
   ⟨wState, .port, 0, by decide⟩,
   ⟨(wState).setReady (.carriage) true, .port, 31, (fset (fset (fset 0 F.CAR_CH_CTL_START 1) F.CAR_CH_CTL_EN 1)
     F.CAR_CH_CTL_BURST 1), by decide⟩,
   ⟨(wState).onChan ((31 : Fin 32).val) fun x => { x with disabled := true }, 31, by decide⟩,
   ⟨((wState).wf (R.CAR_CH_CTL 31) F.CAR_CH_CTL_PRIO 2).onChan (31)
     fun x => { x with active := true, count := 8, burst := 8 }, 2, 31, by decide⟩,
   ⟨(wState).onChan ((31 : Fin 32).val) fun x => { x with reads := (1 : Nat) :: ([] : List Nat) }, 31, 1, [], by decide⟩,
   ⟨(wState).onChan ((31 : Fin 32).val) fun x => { x with writes := (⟨0, 0, 0⟩ : CarBeat) :: ([] : List CarBeat) }, 31, ⟨0,
     0, 0⟩, [], by decide⟩,
   ⟨wState, 63, by decide⟩,
   ⟨(wState).setReady (.carriage) true, .port, 1, by decide⟩,
   ⟨(wState).setReady (.carriage) true, .port, 31, by decide⟩,
   ⟨(wMore ⟨bufSegRes 31, 2, 3⟩).setReady (.carriage) true, 31, 1, by decide⟩,
   ⟨wState, .port, 0, by decide⟩,
   ⟨(wState).onObs fun x => { x with staged := List.replicate 16 0 }, .port, 4095, by decide⟩,
   ⟨wState, .port, 4095, by decide⟩,
   ⟨(wMore ⟨0x900, 2, 15⟩).setReady (.obsidian) true, .str 11, 13, (fset 0 F.OBS_RAW_CTL_GO 1), ((((wMore ⟨0x900, 2,
     15⟩).setReady (.obsidian) true)).writeFields (R.OBS_RAW_CTL 13) (fset 0 F.OBS_RAW_CTL_GO 1)).raise (R.OBS_RAW_STAT 13)
     F.OBS_RAW_STAT_BUSY, ⟨by decide, by decide, by decide, by decide, by decide, rfl, by decide⟩⟩,
   ⟨(wState).onObs fun x => { x with cores := (List.replicate 16 none).set ((15 : Fin 16).val) (some ({ port := 13, slot := 1, half := false, dir := false, block := 0, dest := 0, au := 0 } : RawReq)) }, 15, { port := 13, slot := 1, half := false, dir := false, block := 0, dest := 0, au := 0 }, by decide⟩,
   ⟨((wState).setReady (.obsidian) true).wf (R.OBS_AU_STAT ((3 : Fin 4).val)) F.OBS_AU_STAT_STATE auIdle, .port, 3, 0,
     by decide⟩,
   ⟨(((((({ wState with kenul := some { wImage with claims := ((List.range 4).map fun g => (⟨0x600 + g, 0x43, 3⟩ : Claim)) ++ wImage.claims } })).setReady (.obsidian) true).wf (R.OBS_AU_STAT (3 : Fin 4).val) F.OBS_AU_STAT_PORT ((0 : Nat))).wf (R.OBS_AU_STAT ((3 : Fin 4).val)) F.OBS_AU_STAT_STATE auOpen).wf (R.OBS_AU_STAT (3 : Fin 4).val) F.OBS_AU_STAT_TAG_IN 1).wf (R.OBS_AU_STAT (3 : Fin 4).val) F.OBS_AU_STAT_TAG_SET 1, .port, 3, 0, 16, by decide⟩,
   ⟨(((wState).setReady (.obsidian) true).wf (R.OBS_AU_STAT (3 : Fin 4).val)
     F.OBS_AU_STAT_PORT ((0 : Nat))).wf (R.OBS_AU_STAT ((3 : Fin 4).val)) F.OBS_AU_STAT_STATE auOpen, .port, 3, 0, by decide⟩,
   ⟨((wState).setReady (.obsidian) true).wf (R.OBS_AU_STAT ((3 : Fin 4).val)) F.OBS_AU_STAT_STATE auOpen, .port, 3, 3, 0,
     by decide⟩,
   ⟨(((({ wState with kenul := some { wImage with claims := ((List.range 4).map fun g => (⟨0x600 + g, 0x43, 3⟩ : Claim)) ++ wImage.claims } })).wf (R.OBS_AU_STAT ((3 : Fin 4).val)) F.OBS_AU_STAT_STATE auPass).wf (R.OBS_AU_STAT (3 : Fin 4).val) F.OBS_AU_STAT_BLOCKS 1).wf (R.OBS_AU_STAT (3 : Fin 4).val) F.OBS_AU_STAT_PORT 0, .port, 3, by decide⟩,
   ⟨wState, 50, 2, by decide⟩,
   ⟨((wState).wf (tgtStatusReg 5) (tgtBit 5) 1).wf (R.TGT_CLASS 0) (tgtClassFld 5) 2, .port, 0x20, 5, by decide⟩,
   ⟨(wState).wf R.TGT_GRACE_STAT F.TGT_GRACE_STAT_RUNNING 1, by decide⟩,
   ⟨((wState).onTgt fun x => { x with heldTakeouts := (1 : Nat) :: ([] : List Nat) }).wf R.WAY_UNIT_STAT F.WAY_UNIT_STAT_BUSY 0, 1, [], by decide⟩,
   ⟨(wState).onTgt fun x => { x with expired := true }, by decide⟩,
   ⟨(wState).setReady (.tollgate) true, by (simp only [State.noInjection]; decide)⟩,
   ⟨(wState).wf R.TGT_PIN F.TGT_PIN_PULSING 1, by decide⟩,
   ⟨wState, .port, fset 0 F.TGT_PIN_HOLD 1, by decide⟩,
   ⟨(wState).onTgt fun x => { x with kclr := [(1 : Nat)] }, 1, by decide⟩,
   ⟨((wState).setReady (.tollgate) false).onTgt fun x => { x with early := [] }, by decide⟩,
   ⟨wState, .port, 255, 4, by (simp only [State.noInjection]; decide)⟩,
   ⟨wState, .port, by decide⟩⟩

theorem witness_RowsOfFiveUnitsComplete :
    (∃ (s : State) (t : State) (img : Nat) (e : Bool), s.ready .bedrock = true ∧ s.sys.bootGaveUp = false ∧ s.slotA = none ∧
     t = (s.hbmWrite qCpu 0 (stagedBytes img e) (rdLe img 0 (stagedBytes img e))).2) ∧
    (∃ (s : State) (a : SlotResult) (b : SlotResult) (slot : Nat) (k : Kenul), s.slotA = some a ∧ s.slotB = some b ∧
     s.kenul = none ∧ chosenSlot a b = some (slot, k)) ∧
    (∃ (s : State) (k : Kenul) (img : Nat) (e : Bool), s.kenul = some k ∧ s.rf R.SYS_BOOT_STATUS F.SYS_BOOT_STATUS_LOADER = 1) ∧
    (∃ (s : State) (t : State) (slot : Fin 4) (mv : Nat), t = s.withMain mv ∧ t.mode = mBedding ∧ t.sys.fuseOp = none) ∧
    (∃ (s : State) (t : State) (slot : Fin 4) (mv : Nat), t = s.withMain mv ∧ t.mode = mBedding ∧ t.sys.fuseOp = none) ∧
    (∃ (s : State) (t : State) (o : FuseOp) (m : Bool), s.sys.fuseOp = some o ∧ o.refused = none ∧
     t = { s with sys := { s.sys with fuseOp := none, fuses := { s.sys.fuses with slots := s.sys.fuses.slots.set o.slot (o.burn (s.keySlotAt o.slot) m).1 } } }) ∧
    (∃ (s : State), s.sys.trans = .dormant 3 ∧ s.ackedCtxs = []) ∧
    (∃ (s : State), s.mode = mDormant ∧ s.sys.wakeTimer = true ∧ s.rf R.SYS_MODE F.SYS_MODE_PHASE = 0 ∧ s.sys.trans = .none) ∧
    (∃ (s : State), s.mode = mDormant ∧ s.rf R.SYS_MODE F.SYS_MODE_PHASE = 1 ∧ s.sys.trans = .none) ∧
    (∃ (s : State), s.sys.trans = .toService ∧ (s.setReady .media s.mediaOk).sys.trans = .toService ∧
     (s.setReady .media s.mediaOk).ready .media = true) ∧
    (∃ (s : State), s.sys.heldData = true ∧ s.mode = mBedding ∧ s.ready .waymark = true ∧ s.someAct = true ∧
     (s.writeHeld (byAdmit s.ackedCtxs)).ackedCtxs = []) ∧
    (∃ (s : State) (a : Fin 4), s.actSt a.val = aUnloading ∧ stallRun ≤ (s.act a.val).stall) ∧
    (∃ (s : State) (a : Fin 4), s.actSt a.val = aUnloading) ∧
    (∃ (s : State) (t : State) (a : Fin 4) (mv : List Int) (ma : List Int),
     t = s.setBls { s.bls with vel := spSet 0 s.bls.vel a.val (s.velocity a.val mv ma) } ∧ t.actSt a.val ≠ aLoading ∧
     t.actSt a.val ≠ aUnloading) ∧
    (∃ (s : State), s.milSt = miRun ∧ s.calmFor (s.rf R.MIL_REG F.MIL_REG_REG_MS) = true ∧
     (s.setMillstone true).mode ≠ mDormant) ∧
    (∃ (s : State), s.milSt = miStopping ∧ s.mil.phase2 = true ∧ s.calmFor 500 = true ∧ (s.milEnter miIdle).mode ≠ mDormant) ∧
    (∃ (s : State), s.milSt = miCoast ∧ s.calmFor 1000 = true) ∧
    (∃ (s : State) (g : Fin 2) (ofs : Nat), s.pers g.val = 1 ∧ (s.hp g.val).link = .up) ∧
    (∃ (s : State) (g : Fin 2) (ofs : Nat) (n : Nat), s.pers g.val = 1 ∧ (s.hp g.val).link = .up ∧ n ≤ 16) ∧
    (∃ (s : State) (g : Fin 2) (ofs : Nat) (v : Word), s.pers g.val = 1 ∧ (s.hp g.val).link = .up ∧
     ofs % 0x1000 / 4 = capMsixWord) ∧
    (∃ (s : State) (g : Fin 2) (ofs : Nat) (v : Word), s.pers g.val = 1 ∧ (s.hp g.val).link = .up ∧ ofs < 0x1000 ∧
     ofs / 4 ≠ 5) ∧
    (∃ (s : State) (i : Initiator) (g : Fin 2) (v : Word), isPair i = true ∧ (s.hp g.val).commitPending = false ∧
     (s.hp g.val).staged.length < 64 ∧ s.rf (R.HP_SHD_ADDR g.val) F.HP_SHD_ADDR_WORD < msixWord) ∧
    (∃ (s : State) (i : Initiator) (g : Fin 2), isPair i = true ∧ s.rf (R.HP_SHD_ADDR g.val) F.HP_SHD_ADDR_WORD < shadowWords) ∧
    (∃ (s : State) (i : Initiator) (g : Fin 2), isPair i = true ∧ (s.hp g.val).commitPending = false) ∧
    (∃ (s : State) (t : State) (g : Fin 2), (s.hp g.val).commitPending = true ∧
     t = (s.hp g.val).staged.foldl (fun t q => t.setShadow g.val q.1 q.2) s) ∧
    (∃ (s : State) (g : Fin 2) (tag : Nat) (page : Nat), s.pers g.val = 2 ∧ s.ready (hpReady g.val) = true) ∧
    (∃ (s : State) (tag : Nat), s.pers 0 = 3 ∧ s.ready .hpa = true) ∧
    (∃ (s : State) (i : Initiator) (n : Fin 8) (v : Word) (w : Word), w = fset v F.QRY_SUB_CMD_FLUSH 0 ∧
     fget w F.QRY_SUB_CMD_CLASS ≠ 3 ∧ s.qryOpen i n.val = true ∧ s.qryFree n.val ≠ 0) ∧
    (∃ (s : State) (i : Initiator) (n : Fin 8) (v : Word) (w : Word), w = fset v F.QRY_SUB_CMD_FLUSH 1 ∧
     fget w F.QRY_SUB_CMD_CLASS ≠ 3 ∧ s.qryOpen i n.val = true) ∧
    (∃ (s : State) (e : Fin 12) (x : Slot), s.engineFree e.val = true ∧ s.ready .quarry = true ∧
     bestSlot (s.qry.slots.filter s.slotWaits) = some x) ∧
    (∃ (s : State) (e : Fin 12) (x : Slot), s.engineSlot e.val = some x) ∧
    (∃ (s : State) (n : Fin 8) (d : Desc) (c : Cpl) (id : Option Nat) (an : Int) (rest : List (Desc × DescSt)),
     s.qents n.val = (d, .done c id an) :: rest) ∧
    (∃ (s : State) (i : Initiator) (n : Fin 8) (v : Word), s.qryOpen i n.val = true ∧ fget v F.QRY_CPL_POP_POP = 1) ∧
    (∃ (s : State) (e : Fin 12), (s.eccCheck [11] 2).1 = 2) ∧
    (∃ (s : State) (i : Initiator) (v : Word), s.ready .quarry = true ∧ isPair i = true) ∧
    (∃ (s : State) (t : State) (n : Fin 8) (c : Nat), (s.slice n.val).playing = true ∧ s.rplyEnd n.val = some c ∧
     t = (if c = 3 then s else s.reframeArrived n.val) ∧ (t.slice n.val).playing = true) ∧
    (∃ (s : State) (i : Initiator) (n : Fin 8) (v : Word), s.ldOpen i n.val = true) ∧
    (∃ (s : State) (u : State) (n : Fin 8) (sec : Nat), (s.slice n.val).find = some sec) ∧
    (∃ (s : State) (t : Fin 16) (l : Fin 80), t.val ≠ 0 ∧ s.rf (R.BAS_LCFG l.val) F.BAS_LCFG_TRIG = t.val) ∧
    (∃ (s : State) (i : Initiator) (v : Word), s.basOpen i = true ∧ 10 ≤ fget v F.BAS_KICK_LOOP ∧
     fget v F.BAS_KICK_LOOP < 80 ∧ s.innerOf (fget v F.BAS_KICK_LOOP) = none) ∧
    (∃ (s : State) (i : Initiator) (l : Fin 80) (v : Word), s.loopMayTake i l.val (fset v F.BAS_LCFG_EN 1) = true) ∧
    (∃ (s : State) (i : Initiator) (l : Fin 80) (v : Word), s.loopMayTake i l.val (fset v F.BAS_LCFG_EN 0) = true) ∧
    (∃ (s : State) (i : Initiator) (l : Fin 80), s.loopMayTake i l.val (fset (s.rd (R.BAS_LCFG l.val)) F.BAS_LCFG_CLR 1)
     = true) ∧
    (∃ (s : State) (i : Initiator) (l : Fin 80), s.loopMayTake i l.val (fset (s.rd (R.BAS_LCFG l.val)) F.BAS_LCFG_SWAP 1)
     = true) ∧
    (∃ (s : State) (t : State) (i : Initiator) (l : Fin 80) (v : Word), s.basOpen i = true ∧ t = s.wr (R.BAS_LINT_HI l.val)
     (word (v.toNat % 256))) ∧
    (∃ (s : State) (t : State) (i : Initiator) (k : Fin 16) (v : Word), s.basOpen i = true ∧ t = s.wf (R.BAS_GIN k.val)
     F.BAS_GIN_VALUE (fget v F.BAS_GIN_VALUE)) ∧
    (∃ (s : State) (i : Initiator) (v : Word), s.basOpen i = true ∧ fget v F.BAS_SV_HWM_CLR = 1) ∧
    (∃ (s : State) (ns : Nat) (k : List Nat) (l : Nat), s.chooseLoop 80 = some (k, l) ∧ l ≠ 9) :=
  ⟨⟨{ (((wState).setReady (.bedrock) true).onSys fun x => { x with bootGaveUp := false }) with slotA := none },
     (({ (((wState).setReady (.bedrock) true).onSys fun x => { x with bootGaveUp := false }) with slotA := none }).hbmWrite qCpu 0 (stagedBytes 1 false) (rdLe 1 0 (stagedBytes 1 false))).2, 1, false, ⟨by decide, by decide, by decide, rfl⟩⟩,
   ⟨{ ({ ({ (wState) with slotA := some (.pass wImage : SlotResult) }) with slotB := some (.fail 1 0 : SlotResult) }) with kenul := none }, .pass wImage, .fail 1 0, 0, wImage, ⟨rfl, rfl, rfl, rfl⟩⟩,
   ⟨({ (wState) with kenul := some (wImage : Kenul) }).wf R.SYS_BOOT_STATUS F.SYS_BOOT_STATUS_LOADER (1), wImage, 1, false,
     ⟨rfl, by decide⟩⟩,
   ⟨(wState).wf R.SYS_MODE F.SYS_MODE_MODE mBedding, ((wState).wf R.SYS_MODE F.SYS_MODE_MODE mBedding).withMain 1, 3, 1,
     ⟨rfl, by decide, by decide⟩⟩,
   ⟨(wState).wf R.SYS_MODE F.SYS_MODE_MODE mBedding, ((wState).wf R.SYS_MODE F.SYS_MODE_MODE mBedding).withMain 1, 3, 1,
     ⟨rfl, by decide, by decide⟩⟩,
   ⟨(wState).onSys fun x => { x with fuseOp := some ({ slot := 3, program := true, refused := none, hash := 1 } : FuseOp) },
     { ((wState).onSys fun x => { x with fuseOp := some ({ slot := 3, program := true, refused := none, hash := 1 } : FuseOp) }) with sys := { ((wState).onSys fun x => { x with fuseOp := some ({ slot := 3, program := true, refused := none, hash := 1 } : FuseOp) }).sys with fuseOp := none, fuses := { ((wState).onSys fun x => { x with fuseOp := some ({ slot := 3, program := true, refused := none, hash := 1 } : FuseOp) }).sys.fuses with slots := ((wState).onSys fun x => { x with fuseOp := some ({ slot := 3, program := true, refused := none, hash := 1 } : FuseOp) }).sys.fuses.slots.set 3 (FuseOp.burn { slot := 3, program := true, refused := none, hash := 1 } (((wState).onSys fun x => { x with fuseOp := some ({ slot := 3, program := true, refused := none, hash := 1 } : FuseOp) }).keySlotAt 3) false).1 } } }, { slot := 3, program := true, refused := none, hash := 1 }, false, ⟨by decide, by decide, rfl⟩⟩,
   ⟨(wState).onSys fun x => { x with trans := .dormant 3 }, by decide⟩,
   ⟨((((wState).wf R.SYS_MODE F.SYS_MODE_MODE mDormant).onSys fun x => { x with wakeTimer := true }).wf R.SYS_MODE F.SYS_MODE_PHASE (0)).onSys fun x => { x with trans := .none }, by decide⟩,
   ⟨(((wState).wf R.SYS_MODE F.SYS_MODE_MODE mDormant).wf R.SYS_MODE F.SYS_MODE_PHASE (1)).onSys fun x => { x with trans := .none }, by decide⟩,
   ⟨((wState).onSys fun x => { x with trans := .toService }).wf (unitReg 2 0) (unitFld 0) uIn, by decide⟩,
   ⟨((((wState).onSys fun x => { x with heldData := true }).wf R.SYS_MODE F.SYS_MODE_MODE mBedding).setReady (.waymark)
     true).wf (unitReg 2 0) (unitFld 0) uIn, by decide⟩,
   ⟨((wState).wf (R.ACT_STATE ((3 : Fin 4).val)) F.ACT_STATE_STATE aUnloading).onAct ((3 : Fin 4).val)
     fun x => { x with stall := 250 }, 3, by decide⟩,
   ⟨(wState).wf (R.ACT_STATE ((3 : Fin 4).val)) F.ACT_STATE_STATE aUnloading, 3, by decide⟩,
   ⟨wState, (wState).setBls { (wState).bls with vel := spSet 0 (wState).bls.vel 3 ((wState).velocity 3 [] []) }, 3, [], [],
     ⟨rfl, by decide, by decide⟩⟩,
   ⟨((wState).wf R.MIL_STAT F.MIL_STAT_STATE miRun).onMil fun x => { x with calm := 1000000000 },
     by set_option maxRecDepth 100000 in decide⟩,
   ⟨(((wState).wf R.MIL_STAT F.MIL_STAT_STATE miStopping).onMil fun x => { x with phase2 := true }).onMil fun x => { x with calm := 1000000000 }, by set_option maxRecDepth 100000 in decide⟩,
   ⟨((wState).wf R.MIL_STAT F.MIL_STAT_STATE miCoast).onMil fun x => { x with calm := 1000000000 },
     by set_option maxRecDepth 100000 in decide⟩,
   ⟨((wState).wf (R.HP_CFG ((1 : Fin 2).val)) F.HP_CFG_PERSONALITY 1).onHp ((1 : Fin 2).val) fun x => { x with link := .up },
     1, 1, by decide⟩,
   ⟨((wState).wf (R.HP_CFG ((1 : Fin 2).val)) F.HP_CFG_PERSONALITY 1).onHp ((1 : Fin 2).val) fun x => { x with link := .up },
     1, 1, 16, by decide⟩,
   ⟨((wState).wf (R.HP_CFG ((1 : Fin 2).val)) F.HP_CFG_PERSONALITY 1).onHp ((1 : Fin 2).val) fun x => { x with link := .up },
     1, 4 * capMsixWord, 0, ⟨by decide, by decide, by unfold capMsixWord; omega⟩⟩,
   ⟨((wState).wf (R.HP_CFG ((1 : Fin 2).val)) F.HP_CFG_PERSONALITY 1).onHp ((1 : Fin 2).val) fun x => { x with link := .up },
     1, 4095, 0, by decide⟩,
   ⟨(wState).onHp ((1 : Fin 2).val) fun x => { x with commitPending := false }, .port, 1, 0, by decide⟩,
   ⟨wState, .port, 1, by decide⟩,
   ⟨(wState).onHp ((1 : Fin 2).val) fun x => { x with commitPending := false }, .port, 1, by decide⟩,
   ⟨(wState).onHp ((1 : Fin 2).val) fun x => { x with commitPending := true }, (((wState).onHp ((1 : Fin 2).val)
     fun x => { x with commitPending := true }).hp 1).staged.foldl (fun t q => t.setShadow 1 q.1 q.2)
     ((wState).onHp ((1 : Fin 2).val) fun x => { x with commitPending := true }), 1, ⟨by decide, rfl⟩⟩,
   ⟨((wState).wf (R.HP_CFG ((1 : Fin 2).val)) F.HP_CFG_PERSONALITY 2).setReady (hpReady (1 : Fin 2).val) true, 1, 1, 1,
     by decide⟩,
   ⟨((wState).wf (R.HP_CFG (0)) F.HP_CFG_PERSONALITY 3).setReady (.hpa) true, 1, by decide⟩,
   ⟨wState, .port, 7, 0, 0, by decide⟩,
   ⟨wState, .port, 7, 0, (fset 0 F.QRY_SUB_CMD_FLUSH 1), by decide⟩,
   ⟨((((wState).setReady (.quarry) true).wf R.QRY_ENG F.QRY_ENG_EN 0xFFF).onQry fun x => { x with slots := [({ id := 0, slice := 0, desc := ⟨0, 0, false, 1, 0, 0, 0⟩, frame := 0, codeSet := 0 } : Slot)] }).onQry fun x => { x with ents := [[(({ id := 0, slice := 0, desc := ⟨0, 0, false, 1, 0, 0, 0⟩, frame := 0, codeSet := 0 } : Slot).desc, .bound ({ id := 0, slice := 0, desc := ⟨0, 0, false, 1, 0, 0, 0⟩, frame := 0, codeSet := 0 } : Slot).id)]] }, 11, { id := 0, slice := 0, desc := ⟨0, 0, false, 1, 0, 0, 0⟩, frame := 0, codeSet := 0 }, by decide⟩,
   ⟨(wState).onQry fun x => { x with slots := [({ id := 0, slice := 0, desc := ⟨0, 0, false, 1, 0, 0, 0⟩, frame := 0, codeSet := 0, engine := some 11 } : Slot)] }, 11, { id := 0, slice := 0, desc := ⟨0, 0, false, 1, 0, 0, 0⟩, frame := 0, codeSet := 0, engine := some 11 }, by decide⟩,
   ⟨(wState).onQry fun x => { x with ents := List.replicate 7 [] ++ [[((⟨0, 0, false, 1, 0, 0, 0⟩ : Desc), .done ({ status := 1, sector := 1 } : Cpl) (none : Option Nat) (1 : Int))]] }, 7, ⟨0, 0, false, 1, 0, 0, 0⟩, { status := 1, sector := 1 }, none, 1, [], by decide⟩,
   ⟨wState, .port, 7, (fset 0 F.QRY_CPL_POP_POP 1), by decide⟩,
   ⟨wState, 11, by decide⟩,
   ⟨(wState).setReady (.quarry) true, .port, 0, by decide⟩,
   ⟨((wState).wr (R.LD_RPLY_LEN (7 : Fin 8).val) 0).onSlice ((7 : Fin 8).val) fun x => { x with playing := true },
     (((wState).wr (R.LD_RPLY_LEN (7 : Fin 8).val) 0).onSlice ((7 : Fin 8).val)
     fun x => { x with playing := true }).reframeArrived 7, 7, 1, ⟨by decide, by decide, rfl, by decide⟩⟩,
   ⟨wState, .port, 7, 0, by decide⟩,
   ⟨(wState).onSlice ((7 : Fin 8).val) fun x => { x with find := some (1 : Nat) }, (wState).onSlice ((7 : Fin 8).val)
     fun x => { x with find := some (1 : Nat) }, 7, 1, by decide⟩,
   ⟨(wState).wf (R.BAS_LCFG (79 : Fin 80).val) F.BAS_LCFG_TRIG ((15 : Fin 16).val), 15, 79, by decide⟩,
   ⟨wState, .port, (fset 0 F.BAS_KICK_LOOP 10), by decide⟩,
   ⟨wState, .port, 79, (fset 0 F.BAS_LCFG_OUTER 0xFF), by set_option maxRecDepth 100000 in decide⟩,
   ⟨wState, .port, 79, (fset 0 F.BAS_LCFG_OUTER 0xFF), by set_option maxRecDepth 100000 in decide⟩,
   ⟨wState, .port, 79, by decide⟩,
   ⟨wState, .port, 79, by decide⟩,
   ⟨wState, (wState).wr (R.BAS_LINT_HI 79) (word ((0 : Word).toNat % 256)), .port, 79, 0, ⟨by decide, rfl⟩⟩,
   ⟨wState, (wState).wf (R.BAS_GIN 15) F.BAS_GIN_VALUE (fget 0 F.BAS_GIN_VALUE), .port, 15, 0, ⟨by decide, rfl⟩⟩,
   ⟨wState, .port, (fset 0 F.BAS_SV_HWM_CLR 1), by decide⟩,
   ⟨((wState).wf (R.BAS_LCFG 79) F.BAS_LCFG_EN 1).onLoop (79) fun x => { x with waiting := some 4 }, 1, [loopClass 79, 1, 4,
     79], 79, by set_option maxRecDepth 100000 in decide⟩⟩

end Sys2Proof.Machine
end

section
/-!
Mode requests: a write of SYS_MODE_REQ over Towpath, and who may request a mode (R77).
-/

namespace Sys2Proof.Machine

/-! ### Towpath writes -/

theorem exec_registerWrite (i : Initiator) (p : Priv) (width off : Nat) (v : Word) (s : State) :
    exec (.registerWrite i p width off v) s = .next (s.towWrite i p width off v) := rfl

/-- An access that the guards of every register let through is its block's write. -/
theorem towWrite_of_reached {s : State} {i : Initiator} {p : Priv} {width off : Nat}
    (h : s.badAccess i p true width off = false) (v : Word) :
    s.towWrite i p width off v = s.writeReg i p off v := by
  simp [State.towWrite, h]

/-- A write that its block ignores has no effect, whether or not the guards of every register stop it before. -/
theorem towWrite_of_writeReg_eq {s : State} {i : Initiator} {p : Priv} {off : Nat} {v : Word}
    (h : s.writeReg i p off v = s) (width : Nat) : s.towWrite i p width off v = s := by
  rw [State.towWrite, h, ite_self]

/-! ### The register SYS_MODE_REQ -/

theorem writeReg_modeReq (s : State) (i : Initiator) (p : Priv) (v : Word) :
    s.writeReg i p R.SYS_MODE_REQ v = s.writeModeReq i p v := rfl

theorem findReg_modeReq_isNone : (findReg R.SYS_MODE_REQ).isNone = false := by decide

theorem modeReq_aligned : R.SYS_MODE_REQ % 4 = 0 := rfl

/-- SYS lies in no sequencer's island. -/
theorem islandDown_modeReq (s : State) : s.islandDown R.SYS_MODE_REQ = false := by
  simp [State.islandDown]

/-- Of an SoC out of reset only user mode and an initiator that does not reach SYS are stopped before SYS_MODE_REQ. -/
theorem badAccess_modeReq {s : State} {i : Initiator} {p : Priv} (hheld : s.bls.held = false) (hp : p ≠ .user)
    (hreach : s.reaches i true R.SYS_MODE_REQ = true) : s.badAccess i p true 32 R.SYS_MODE_REQ = false := by
  simp [State.badAccess, hheld, hp, hreach, modeReq_aligned, findReg_modeReq_isNone, islandDown_modeReq]

/-- Every initiator but a sequencer reaches SYS (R24). -/
theorem reaches_modeReq (s : State) {i : Initiator} (hi : ∀ n, i ≠ .str n) (write : Bool) :
    s.reaches i write R.SYS_MODE_REQ = true := by
  cases i with
  | port => rfl
  | media => rfl
  | keystone => rfl
  | sideband => rfl
  | str n => exact absurd rfl (hi n)

/-! ### Requesters (R77) -/

theorem pairMachine_iff (i : Initiator) (p : Priv) :
    pairMachine i p = true ↔ (i = .port ∨ i = .media) ∧ p = .machine := by
  cases i <;> simp [pairMachine, isPair]

theorem modeRequester_iff (i : Initiator) (p : Priv) (m : Nat) : modeRequester i p m = true ↔
    ((i = .port ∨ i = .media) ∧ p = .machine) ∨ ((i = .keystone ∨ i = .sideband) ∧ m = mHaven) := by
  rw [modeRequester, Bool.or_eq_true, pairMachine_iff]
  cases i <;> simp [isKeystone]

theorem askMode_of_not_requester (s : State) {i : Initiator} {p : Priv} {m : Nat} (h : modeRequester i p m = false)
    (f : State → State) : s.askMode i p m f = s := by
  simp [State.askMode, h]

theorem askHaven_of_not_requester (s : State) {i : Initiator} {p : Priv} (h : modeRequester i p mHaven = false) :
    s.askHaven i p = s := by
  simp [State.askHaven, h]

/-- Each target's request begins with the check of its requester. -/
theorem writeModeReq_of_not_requester (s : State) {i : Initiator} {p : Priv} {v : Word}
    (h : modeRequester i p (fget v F.SYS_MODE_REQ_TARGET) = false) : s.writeModeReq i p v = s := by
  unfold State.writeModeReq
  generalize fget v F.SYS_MODE_REQ_TARGET = target at h ⊢
  split
  case h_6 => exact askHaven_of_not_requester s h
  all_goals exact askMode_of_not_requester s h _

/-- A request by an initiator that reaches the register is the register's own operation. -/
theorem exec_modeReq_of_reached {s : State} {i : Initiator} {p : Priv} (hheld : s.bls.held = false) (hp : p ≠ .user)
    (hi : ∀ n, i ≠ .str n) (v : Word) :
    exec (.registerWrite i p 32 R.SYS_MODE_REQ v) s = .next (s.writeModeReq i p v) := by
  rw [exec_registerWrite, towWrite_of_reached (badAccess_modeReq hheld hp (reaches_modeReq s hi true)), writeReg_modeReq]

theorem exec_modeReq_of_not_requester (s : State) {i : Initiator} {p : Priv} {v : Word}
    (h : modeRequester i p (fget v F.SYS_MODE_REQ_TARGET) = false) (width : Nat) :
    exec (.registerWrite i p width R.SYS_MODE_REQ v) s = .next s := by
  rw [exec_registerWrite, towWrite_of_writeReg_eq ((writeReg_modeReq s i p v).trans (writeModeReq_of_not_requester s h))]

/-- Settles O9: a requester that R77 names passes the guards of every register; any other is turned away by its target's
own check. -/
theorem modeRequestersAreChecked : Obligations.ModeRequestersAreChecked := by
  intro s i p v hheld
  refine ⟨fun hwho => ?_, fun hpair hhaven => ?_⟩
  · obtain ⟨hi, rfl⟩ | ⟨hi, -, hp⟩ := hwho
    · exact exec_modeReq_of_reached hheld (by decide) (by rintro n rfl; simp at hi) v
    · exact exec_modeReq_of_reached hheld hp (by rintro n rfl; simp at hi) v
  · apply exec_modeReq_of_not_requester
    rw [← Bool.not_eq_true, modeRequester_iff]
    exact not_or.mpr ⟨hpair, hhaven⟩

end Sys2Proof.Machine
end

section
/-!
Reservations of contexts: a write and a read of HPx_CTX_MIN over Towpath (R96, R98).
-/

namespace Sys2Proof.Machine

/-! ### The register HPx_CTX_MIN -/

/-- What a write of `v` to HPx_CTX_MIN asks group `g` to hold: for SATA at least 33 (R96). -/
def State.ctxMinAsked (s : State) (g : Nat) (v : Word) : Nat :=
  if s.pers g = 3 then max 33 (fget v F.HP_CTX_MIN_MIN) else fget v F.HP_CTX_MIN_MIN

/-- The reservations of both groups, were group `g` to reserve `n` (R98). -/
def State.ctxMinSum (s : State) (g n : Nat) : Nat := (if s.pers g = 0 then 0 else n) + s.ctxMin (1 - g)

theorem ctxMinAsked_lt (s : State) (g : Nat) (v : Word) : s.ctxMinAsked g v < 2 ^ 16 := by
  have hv := fget_lt v F.HP_CTX_MIN_MIN
  rw [State.ctxMinAsked]
  split
  · exact max_lt (by decide) hv
  · exact hv

theorem writeCtxMin_eq (s : State) (g : Nat) (v : Word) : s.writeCtxMin g v =
    if s.ctxMinSum g (s.ctxMinAsked g v) ≤ 32768 then s.wf (R.HP_CTX_MIN g) F.HP_CTX_MIN_MIN (s.ctxMinAsked g v)
    else s := rfl

theorem writeReg_ctxMin (s : State) (i : Initiator) (p : Priv) (g : Fin 2) (v : Word) :
    s.writeReg i p (R.HP_CTX_MIN g.val) v = s.writeCtxMin g.val v := by
  fin_cases g
  · rfl
  · rfl

theorem findReg_ctxMin (g : Fin 2) :
    findReg (R.HP_CTX_MIN g.val) = some (⟨0xb00040, [(2, 0x100000)], [fd 15 0 .rw 1024]⟩, [g.val]) := by
  revert g; decide

theorem ctxMin_aligned (g : Nat) : R.HP_CTX_MIN g % 4 = 0 := by unfold R.HP_CTX_MIN; omega

/-- The port groups lie in no sequencer's island. -/
theorem islandDown_ctxMin (s : State) (g : Fin 2) : s.islandDown (R.HP_CTX_MIN g.val) = false := by
  have hblock : R.HP_CTX_MIN g.val / 0x100000 ≠ 0x0E := by unfold R.HP_CTX_MIN; omega
  simp [State.islandDown, hblock]

/-- No guard of every register stops a pair in machine mode before HPx_CTX_MIN. -/
theorem badAccess_ctxMin {s : State} {i : Initiator} (hheld : s.bls.held = false) (hi : i = .port ∨ i = .media)
    (g : Fin 2) : s.badAccess i .machine true 32 (R.HP_CTX_MIN g.val) = false := by
  have hreach : s.reaches i true (R.HP_CTX_MIN g.val) = true := by
    obtain rfl | rfl := hi <;> rfl
  simp [State.badAccess, hheld, hreach, ctxMin_aligned, findReg_ctxMin, islandDown_ctxMin]

/-! ### Writes (R96, R98) -/

theorem exec_writeCtxMin_beyond {s : State} {g : Fin 2} {v : Word}
    (hsum : 32768 < s.ctxMinSum g.val (s.ctxMinAsked g.val v)) (i : Initiator) (p : Priv) (width : Nat) :
    exec (.registerWrite i p width (R.HP_CTX_MIN g.val) v) s = .next s := by
  have hsame : s.writeReg i p (R.HP_CTX_MIN g.val) v = s := by
    rw [writeReg_ctxMin, writeCtxMin_eq, if_neg (Nat.not_le.mpr hsum)]
  rw [exec_registerWrite, towWrite_of_writeReg_eq hsame]

theorem exec_writeCtxMin_within {s : State} {i : Initiator} {g : Fin 2} {v : Word} (hheld : s.bls.held = false)
    (hi : i = .port ∨ i = .media) (hsum : s.ctxMinSum g.val (s.ctxMinAsked g.val v) ≤ 32768) :
    exec (.registerWrite i .machine 32 (R.HP_CTX_MIN g.val) v) s =
      .next (s.wf (R.HP_CTX_MIN g.val) F.HP_CTX_MIN_MIN (s.ctxMinAsked g.val v)) := by
  rw [exec_registerWrite, towWrite_of_reached (badAccess_ctxMin hheld hi g), writeReg_ctxMin, writeCtxMin_eq, if_pos hsum]

theorem onlyRegs_wf (s : State) (o : Nat) (f : Fld) (v : Nat) : OnlyRegs [o] s (s.wf o f v) :=
  ⟨fun j hj => by rw [rd_wf, if_neg (List.mem_singleton.not.mp hj)], byte_wf s o f v⟩

/-- The field is wide enough for every value that a write asks for. -/
theorem rf_wf_ctxMinAsked (s : State) (g : Nat) (v : Word) :
    (s.wf (R.HP_CTX_MIN g) F.HP_CTX_MIN_MIN (s.ctxMinAsked g v)).rf (R.HP_CTX_MIN g) F.HP_CTX_MIN_MIN =
      s.ctxMinAsked g v :=
  (rf_wf_self s _ _ _ (by decide)).trans (Nat.mod_eq_of_lt (ctxMinAsked_lt s g v))

/-! ### Reads (R96) -/

theorem ctxMin_of_no_personality {s : State} {g : Nat} (h : s.pers g = 0) : s.ctxMin g = 0 := by
  rw [State.ctxMin, if_pos h]

/-- A register of one field that software may read and write returns what the field holds. -/
theorem fget_readable_of_rw_field {d : RegDesc} {hi lo rst : Nat} (hd : d.fields = [fd hi lo .rw rst])
    (hf : (⟨hi, lo⟩ : Fld).wf) (w : Word) : fget (readable d w) ⟨hi, lo⟩ = fget w ⟨hi, lo⟩ := by
  have hread : readable d w = fset 0 ⟨hi, lo⟩ (fget w ⟨hi, lo⟩) := by simp [readable, hd, fd]
  rw [hread, fget_fset _ _ _ hf, Nat.mod_eq_of_lt (fget_lt w _)]

theorem view_ctxMin (s : State) (g : Fin 2) : s.view (R.HP_CTX_MIN g.val) =
    some (if s.pers g.val = 3 then word (max 33 (s.rf (R.HP_CTX_MIN g.val) F.HP_CTX_MIN_MIN))
      else s.rd (R.HP_CTX_MIN g.val)) := by
  fin_cases g
  · rfl
  · rfl

theorem fget_word_of_lt {n : Nat} (h : n < 2 ^ 16) : fget (word n) F.HP_CTX_MIN_MIN = n := by
  simp only [fget, BitVec.toNat_ofNat]
  omega

theorem regValue_ctxMin (s : State) (g : Fin 2) : s.regValue (R.HP_CTX_MIN g.val) =
    readable ⟨0xb00040, [(2, 0x100000)], [fd 15 0 .rw 1024]⟩
      ((s.view (R.HP_CTX_MIN g.val)).getD (s.rd (R.HP_CTX_MIN g.val))) := by
  rw [State.regValue, findReg_ctxMin]

theorem fget_regValue_ctxMin_of_sata {s : State} {g : Fin 2} (h : s.pers g.val = 3) :
    fget (s.regValue (R.HP_CTX_MIN g.val)) F.HP_CTX_MIN_MIN =
      max 33 (s.rf (R.HP_CTX_MIN g.val) F.HP_CTX_MIN_MIN) := by
  have hlt : max 33 (s.rf (R.HP_CTX_MIN g.val) F.HP_CTX_MIN_MIN) < 2 ^ 16 := max_lt (by decide) (fget_lt _ _)
  rw [regValue_ctxMin, fget_readable_of_rw_field rfl (by decide), view_ctxMin, if_pos h, Option.getD_some,
    fget_word_of_lt hlt]

/-- Settles O12: the write compares R98's sum, in which the reservation that the write asks for takes the place of its
group's, with the limit, and the field holds every such value. -/
theorem reservationsFit : Obligations.ReservationsFit := by
  refine ⟨?_, fun s g => ctxMin_of_no_personality, fun s hsata => ?_⟩
  · rintro s i g v n hi rfl
    exact ⟨fun hbeyond => exec_writeCtxMin_beyond hbeyond i .machine 32, fun hwithin hheld =>
      ⟨_, exec_writeCtxMin_within hheld hi hwithin, rf_wf_ctxMinAsked s g.val v, onlyRegs_wf s _ _ _⟩⟩
  · exact (Nat.le_max_left 33 _).trans_eq (fget_regValue_ctxMin_of_sata (g := 0) hsata).symm

end Sys2Proof.Machine
end

section
/-!
The QRY block before Quarry is ready: every register of it ignores a write (R245).
-/

namespace Sys2Proof.Machine

/-! ### Who may write, while Quarry is not ready -/

theorem qryOpen_of_not_ready {s : State} (h : s.ready .quarry = false) (i : Initiator) (n : Nat) :
    s.qryOpen i n = false := by
  simp only [State.qryOpen, h, Bool.false_and]

theorem qryGlobal_of_not_ready {s : State} (h : s.ready .quarry = false) (i : Initiator) :
    s.qryGlobal i = false := by
  rw [State.qryGlobal, h, Bool.false_and]

/-! ### Writes that their register's guard turns away -/

@[simp] theorem writeIf_false (s : State) (off : Nat) (v : Word) : s.writeIf false off v = s := rfl

theorem writeSubCmd_of_not_open {s : State} {i : Initiator} {n : Nat} (h : s.qryOpen i n = false) (v : Word) :
    s.writeSubCmd i n v = s := by
  simp [State.writeSubCmd, h]

theorem writeCplPop_of_not_open {s : State} {i : Initiator} {n : Nat} (h : s.qryOpen i n = false) (v : Word) :
    s.writeCplPop i n v = s := by
  simp [State.writeCplPop, h]

theorem writeQryCfg_of_not_global {s : State} {i : Initiator} (h : s.qryGlobal i = false) (v : Word) :
    s.writeQryCfg i v = s := by
  simp [State.writeQryCfg, h]

/-- A slice's registers ask `qryOpen`, the global ones `qryGlobal`; neither opens before Quarry is ready. -/
theorem writeQry_of_not_ready {s : State} (h : s.ready .quarry = false) (i : Initiator) (o : Nat) (v : Word) :
    s.writeQry i o v = s := by
  have hopen := qryOpen_of_not_ready h i
  have hglobal := qryGlobal_of_not_ready h i
  unfold State.writeQry
  split_ifs
  · dsimp only
    split
    · exact writeSubCmd_of_not_open (hopen _) v
    · exact writeCplPop_of_not_open (hopen _) v
    · rw [hopen, writeIf_false]
  · exact writeQryCfg_of_not_global hglobal v
  · rw [hglobal, writeIf_false]

/-! ### The block over Towpath -/

theorem writeReg_qry {off : Nat} (hblock : off / 0x100000 = 0x18) (s : State) (i : Initiator) (p : Priv) (v : Word) :
    s.writeReg i p off v = s.writeQry i (off % 0x100000) v := by
  simp only [State.writeReg, hblock]

/-- Settles O8: whether or not the guards of every register stop the write before, each register of the block is closed to
every initiator while Quarry is not ready. -/
theorem quarryWritesNeedReady : Obligations.QuarryWritesNeedReady := by
  intro s i p width off v hready hlo hhi
  have hblock : off / 0x100000 = 0x18 := by omega
  have hsame : s.writeReg i p off v = s := by
    rw [writeReg_qry hblock, writeQry_of_not_ready hready]
  rw [exec_registerWrite, towWrite_of_writeReg_eq hsame]

end Sys2Proof.Machine
end

section
/-!
The BED block over Towpath: the pairs alone write it, and Keystone reads all of it but the bulk data port's two registers (R350).
-/

namespace Sys2Proof.Machine

theorem isPair_iff (i : Initiator) : isPair i = true ↔ i = .port ∨ i = .media := by
  cases i <;> simp [isPair]

/-! ### Writes by an initiator that is not of a pair -/

theorem writeArbShare_of_not_pair {i : Initiator} (h : isPair i = false) (s : State) (c : Nat) (v : Word) :
    s.writeArbShare i c v = s := by
  simp [State.writeArbShare, h]

theorem writeBdpGo_of_not_pair {i : Initiator} (h : isPair i = false) (s : State) (v : Word) :
    s.writeBdpGo i v = s := by
  simp [State.writeBdpGo, h]

theorem writeBdpData_of_not_pair {i : Initiator} (h : isPair i = false) (s : State) (v : Word) :
    s.writeBdpData i v = s := by
  simp [State.writeBdpData, h]

/-- Each register of the block asks for a pair itself; BED_PPR_CMD does so before it takes a free value. -/
theorem writeBed_of_not_pair {i : Initiator} (h : isPair i = false) (s : State) (o : Nat) (v : Word) :
    s.writeBed i o v = s := by
  unfold State.writeBed
  split
  · exact writeArbShare_of_not_pair h s _ v
  · split
    · rw [h, if_neg Bool.false_ne_true]
    · exact writeBdpGo_of_not_pair h s v
    · exact writeBdpData_of_not_pair h s v
    · simp only [h, Bool.false_and, writeIf_false]

theorem writeReg_bed {off : Nat} (hblock : off / 0x100000 = 0x07) (s : State) (i : Initiator) (p : Priv) (v : Word) :
    s.writeReg i p off v = s.writeBed i (off % 0x100000) v := by
  simp only [State.writeReg, hblock]

/-! ### Reads by Keystone -/

/-- An access that the guards of every register let through is its block's read. -/
theorem towRead_of_reached {s : State} {i : Initiator} {p : Priv} {width off : Nat}
    (h : s.badAccess i p false width off = false) : s.towRead i p width off = s.readReg i p off := by
  rw [State.towRead, h, if_neg Bool.false_ne_true]

/-- A read that its block answers with zero reads zero, whether or not the guards of every register stop it before. -/
theorem towRead_of_readReg_zero {s : State} {i : Initiator} {p : Priv} {off : Nat}
    (h : s.readReg i p off = s.answer 0) (width : Nat) : s.towRead i p width off = s.answer 0 := by
  rw [State.towRead, h, ite_self]

/-- Only STR's block lies in islands. -/
theorem islandDown_of_not_str {off : Nat} (h : off / 0x100000 ≠ 0x0E) (s : State) : s.islandDown off = false := by
  simp [State.islandDown, h]

/-- Of an SoC out of reset, no guard of every register stops Keystone's aligned word reads outside user mode and outside
STR. -/
theorem badAccess_keystone_read {s : State} {p : Priv} {off : Nat} (hheld : s.bls.held = false) (hp : p ≠ .user)
    (hreg : (findReg off).isSome = true) (halign : off % 4 = 0) (hblock : off / 0x100000 ≠ 0x0E) :
    s.badAccess .keystone p false 32 off = false := by
  have hreach : s.reaches .keystone false off = true := rfl
  have hfound : (findReg off).isNone = false := by rw [← Option.not_isSome, hreg, Bool.not_true]
  simp [State.badAccess, hheld, hp, hfound, halign, hreach, islandDown_of_not_str hblock]

theorem readReg_bed {off : Nat} (hblock : off / 0x100000 = 0x07) (hdata : off ≠ R.BED_BDP_DATA)
    (hgo : off ≠ R.BED_BDP_GO) (s : State) (i : Initiator) (p : Priv) :
    s.readReg i p off = s.answer (s.regValue off) := by
  have hdata' : off % 0x100000 ≠ 0x214 := by unfold R.BED_BDP_DATA at hdata; omega
  have hgo' : off % 0x100000 ≠ 0x20C := by unfold R.BED_BDP_GO at hgo; omega
  simp [State.readReg, hblock, hdata', hgo']

theorem readReg_bdpData_keystone (s : State) (p : Priv) : s.readReg .keystone p R.BED_BDP_DATA = s.answer 0 := rfl

theorem readReg_bdpGo_keystone (s : State) (p : Priv) : s.readReg .keystone p R.BED_BDP_GO = s.answer 0 := rfl

/-- Settles O11: each register's own write is closed to all but the pairs, and the block's read turns Keystone away from
two registers alone. -/
theorem bedrockRegistersAreGuarded : Obligations.BedrockRegistersAreGuarded := by
  refine ⟨?_, ?_, ?_⟩
  · intro s i p width off v hport hmedia hlo hhi
    have hpair : isPair i = false := by
      rw [← Bool.not_eq_true, isPair_iff]
      exact not_or.mpr ⟨hport, hmedia⟩
    have hsame : s.writeReg i p off v = s := by
      rw [writeReg_bed (by omega), writeBed_of_not_pair hpair]
    rw [exec_registerWrite, towWrite_of_writeReg_eq hsame]
  · intro s p off hheld hp hreg halign hlo hhi hdata hgo
    have hblock : off / 0x100000 = 0x07 := by omega
    rw [towRead_of_reached (badAccess_keystone_read hheld hp hreg halign (by omega)), readReg_bed hblock hdata hgo]
  · rintro s p width off (rfl | rfl)
    · exact towRead_of_readReg_zero (readReg_bdpData_keystone s p) width
    · exact towRead_of_readReg_zero (readReg_bdpGo_keystone s p) width

end Sys2Proof.Machine
end

section
/-!
Carriage on Signpost: when the source of a channel is asserted (R380, R415).
-/

namespace Sys2Proof.Machine

/-- Two words have a common set bit exactly when their conjunction is not zero. -/
theorem and_ne_zero_iff_common_bit (x y : Word) :
    x &&& y ≠ 0 ↔ ∃ b < 32, x.getLsbD b = true ∧ y.getLsbD b = true := by
  have hzero : x &&& y = 0 ↔ ∀ b < 32, ¬ (x.getLsbD b = true ∧ y.getLsbD b = true) := by
    simp [BitVec.eq_of_getLsbD_eq_iff]
  simp only [ne_eq, hzero, not_forall, not_not, exists_prop]

theorem enabled_iff (s : State) (evt en : Nat) :
    s.enabled evt en = true ↔ ∃ b < 32, (s.rd evt).getLsbD b = true ∧ (s.rd en).getLsbD b = true := by
  rw [State.enabled, decide_eq_true_iff, and_ne_zero_iff_common_bit]

/-- The source numbers 64 to 95 are Carriage's channels (R380). -/
theorem asserted_carriage (s : State) {k : Nat} (hk : k < 32) :
    s.asserted (64 + k) = s.enabled (R.CAR_CH_EVT k) (R.CAR_CH_EVT_EN k) := by
  have hchannel : 64 ≤ 64 + k ∧ 64 + k < 96 := by omega
  simp (disch := omega) only [State.asserted, if_neg, if_pos hchannel, Nat.add_sub_cancel_left]

/-- Settles O10: the source of a channel is asserted as the channel's events are enabled, which is a bit set in both
registers. -/
theorem carriageSourcesAssert : Obligations.CarriageSourcesAssert := by
  intro s k
  rw [asserted_carriage s k.isLt, enabled_iff]

end Sys2Proof.Machine
end
section
/-!
What every command keeps: it completes, leaves the queue behind it and the burned fuses, and keeps memory's canonical form.
Assembled from what each command's meaning leaves alone (Laws/Frame*.lean).
-/

namespace Sys2Proof.Machine

/-- A command's outcome is a next state with the queue as it was, and the fuses as they were unless it ends a fuse operation. -/
def KeepsQueueAndFuses (c : Instr) (s : State) : Prop :=
  ∃ t, exec c s = .next t ∧ t.pending = s.pending ∧ ((∀ m, c ≠ .fuseOpDone m) → t.sys.fuses = s.sys.fuses)

theorem keeps_of_kept {c : Instr} {s : State}
    (h : ∃ t, exec c s = .next t ∧ t.pending = s.pending ∧ t.sys.fuses = s.sys.fuses) : KeepsQueueAndFuses c s := by
  obtain ⟨t, hexec, hpending, hfuses⟩ := h
  exact ⟨t, hexec, hpending, fun _ => hfuses⟩

/-- The end of a fuse operation is the one command that writes fuses. -/
theorem execFuseOpDone_pending (m : Bool) (s : State) : KeepsQueueAndFuses (.fuseOpDone m) s := by
  obtain ⟨t, hexec, hpending, -⟩ := execFuseOpDone_kept m s
  exact ⟨t, hexec, hpending, fun hne => absurd rfl (hne m)⟩

theorem exec_keepsQueueAndFuses (c : Instr) (s : State) : KeepsQueueAndFuses c s :=
  match c with
  | .registerWrite who p width off v => keeps_of_kept (execRegisterWrite_kept who p width off v s)
  | .loadStoreMisaligned c store width addr => keeps_of_kept (execLoadStoreMisaligned_kept c store width addr s)
  | .wideTowpathAccess h store width addr => keeps_of_kept (execWideTowpathAccess_kept h store width addr s)
  | .unmappedAccessFault c kind width addr v => keeps_of_kept (execUnmappedAccessFault_kept c kind width addr v s)
  | .atomicAccessFault h op width addr v => keeps_of_kept (execAtomicAccessFault_kept h op width addr v s)
  | .crossingDelivery src dst data tag => keeps_of_kept (execCrossingDelivery_kept src dst data tag s)
  | .crossingHeldRelease dst => keeps_of_kept (execCrossingHeldRelease_kept dst s)
  | .powerOnReset bootcfg sbAddr rstLow => keeps_of_kept (execPowerOnReset_kept bootcfg sbAddr rstLow s)
  | .pinReset lowNs => keeps_of_kept (execPinReset_kept lowNs s)
  | .keyDeviceReset who v => keeps_of_kept (execKeyDeviceReset_kept who v s)
  | .keystoneWatchdogExpiry => keeps_of_kept (execKeystoneWatchdogExpiry_kept s)
  | .resetDeferExpiry => keeps_of_kept (execResetDeferExpiry_kept s)
  | .kenulSlotCheck slotB img readErr => keeps_of_kept (execKenulSlotCheck_kept slotB img readErr s)
  | .kenulApply => keeps_of_kept (execKenulApply_kept s)
  | .loaderCheck img readErr => keeps_of_kept (execLoaderCheck_kept img readErr s)
  | .fuseProgram who p unlock slot mainMv => keeps_of_kept (execFuseProgram_kept who p unlock slot mainMv s)
  | .fuseRevoke who p unlock slot mainMv => keeps_of_kept (execFuseRevoke_kept who p unlock slot mainMv s)
  | .fuseOpDone matched => execFuseOpDone_pending matched s
  | .modeReqService who p => keeps_of_kept (execModeReqService_kept who p s)
  | .modeReqSurvey who p => keeps_of_kept (execModeReqSurvey_kept who p s)
  | .modeReqMigration who p => keeps_of_kept (execModeReqMigration_kept who p s)
  | .modeReqDormant who p => keeps_of_kept (execModeReqDormant_kept who p s)
  | .modeReqHaven who p => keeps_of_kept (execModeReqHaven_kept who p s)
  | .modeReqBedding who p => keeps_of_kept (execModeReqBedding_kept who p s)
  | .dormantEntryProgress => keeps_of_kept (execDormantEntryProgress_kept s)
  | .dormantWakeExpiry => keeps_of_kept (execDormantWakeExpiry_kept s)
  | .dormantWorkDone => keeps_of_kept (execDormantWorkDone_kept s)
  | .modeTransitionComplete => keeps_of_kept (execModeTransitionComplete_kept s)
  | .havenSettled => keeps_of_kept (execHavenSettled_kept s)
  | .heldDataWrite => keeps_of_kept (execHeldDataWrite_kept s)
  | .linkTrained g port rate width partner => keeps_of_kept (execLinkTrained_kept g port rate width partner s)
  | .linkLost g port => keeps_of_kept (execLinkLost_kept g port s)
  | .linkDisable who g v => keeps_of_kept (execLinkDisable_kept who g v s)
  | .hostSideReset g => keeps_of_kept (execHostSideReset_kept g s)
  | .nvmeControllerReset g => keeps_of_kept (execNvmeControllerReset_kept g s)
  | .nvmeDoorbellWrite g ofs v => keeps_of_kept (execNvmeDoorbellWrite_kept g ofs v s)
  | .nvmeCommandFetch g sq entry => keeps_of_kept (execNvmeCommandFetch_kept g sq entry s)
  | .nvmeFetchResume g => keeps_of_kept (execNvmeFetchResume_kept g s)
  | .sasCommandFrame g port lun tag space attr cdb => keeps_of_kept (execSasCommandFrame_kept g port lun tag space attr cdb s)
  | .sasTaskManagement g port fn lun tag space => keeps_of_kept (execSasTaskManagement_kept g port fn lun tag space s)
  | .sataCommand c => keeps_of_kept (execSataCommand_kept c s)
  | .hostConfigRead g ofs => keeps_of_kept (execHostConfigRead_kept g ofs s)
  | .hostBar0Read g ofs dwords => keeps_of_kept (execHostBar0Read_kept g ofs dwords s)
  | .hostConfigWrite g ofs v => keeps_of_kept (execHostConfigWrite_kept g ofs v s)
  | .hostBar0Write g ofs v => keeps_of_kept (execHostBar0Write_kept g ofs v s)
  | .shadowStage who g v => keeps_of_kept (execShadowStage_kept who g v s)
  | .shadowRead who g => keeps_of_kept (execShadowRead_kept who g s)
  | .shadowCommit who g => keeps_of_kept (execShadowCommit_kept who g s)
  | .shadowDiscard who g => keeps_of_kept (execShadowDiscard_kept who g s)
  | .shadowCommitEffect g => keeps_of_kept (execShadowCommitEffect_kept g s)
  | .inquiry g tag evpd page => keeps_of_kept (execInquiry_kept g tag evpd page s)
  | .identifyDevice tag => keeps_of_kept (execIdentifyDevice_kept tag s)
  | .nvmeIdentify k cns data => keeps_of_kept (execNvmeIdentify_kept k cns data s)
  | .nvmeGetLogPage k lid data => keeps_of_kept (execNvmeGetLogPage_kept k lid data s)
  | .namespaceManagement k t capacity => keeps_of_kept (execNamespaceManagement_kept k t capacity s)
  | .namespaceAttachment k => keeps_of_kept (execNamespaceAttachment_kept k s)
  | .firmwareImageDownload k => keeps_of_kept (execFirmwareImageDownload_kept k s)
  | .firmwareCommit k => keeps_of_kept (execFirmwareCommit_kept k s)
  | .createIoQueue k => keeps_of_kept (execCreateIoQueue_kept k s)
  | .blockRead k keySlot cacheHit => keeps_of_kept (execBlockRead_kept k keySlot cacheHit s)
  | .blockWrite k keySlot data => keeps_of_kept (execBlockWrite_kept k keySlot data s)
  | .nvmeFlush k => keeps_of_kept (execNvmeFlush_kept k s)
  | .synchronizeCache k => keeps_of_kept (execSynchronizeCache_kept k s)
  | .flushCacheExt k => keeps_of_kept (execFlushCacheExt_kept k s)
  | .writeZeroes k => keeps_of_kept (execWriteZeroes_kept k s)
  | .deallocate k ranges => keeps_of_kept (execDeallocate_kept k ranges s)
  | .blockVerify k mediaOk => keeps_of_kept (execBlockVerify_kept k mediaOk s)
  | .compare k keySlot cacheHit data => keeps_of_kept (execCompare_kept k keySlot cacheHit data s)
  | .readCapacity k => keeps_of_kept (execReadCapacity_kept k s)
  | .reportLuns k => keeps_of_kept (execReportLuns_kept k s)
  | .testUnitReady k => keeps_of_kept (execTestUnitReady_kept k s)
  | .requestSense k => keeps_of_kept (execRequestSense_kept k s)
  | .startStopUnit k start => keeps_of_kept (execStartStopUnit_kept k start s)
  | .modeSense k page => keeps_of_kept (execModeSense_kept k page s)
  | .modeSelect k page data => keeps_of_kept (execModeSelect_kept k page data s)
  | .logSense k page data => keeps_of_kept (execLogSense_kept k page data s)
  | .persistentReserveIn k => keeps_of_kept (execPersistentReserveIn_kept k s)
  | .persistentReserveOut k op => keeps_of_kept (execPersistentReserveOut_kept k op s)
  | .writeBuffer k => keeps_of_kept (execWriteBuffer_kept k s)
  | .readBuffer k => keeps_of_kept (execReadBuffer_kept k s)
  | .readFpdmaQueued ncq c => keeps_of_kept (execReadFpdmaQueued_kept ncq c s)
  | .writeFpdmaQueued ncq c => keeps_of_kept (execWriteFpdmaQueued_kept ncq c s)
  | .setFeatures k feature value => keeps_of_kept (execSetFeatures_kept k feature value s)
  | .readLogExt k page data => keeps_of_kept (execReadLogExt_kept k page data s)
  | .downloadMicrocode k => keeps_of_kept (execDownloadMicrocode_kept k s)
  | .objCreate k => keeps_of_kept (execObjCreate_kept k s)
  | .objWrite k keySlot data => keeps_of_kept (execObjWrite_kept k keySlot data s)
  | .objRead k keySlot cacheHit => keeps_of_kept (execObjRead_kept k keySlot cacheHit s)
  | .objOpen k => keeps_of_kept (execObjOpen_kept k s)
  | .objGetAttr k => keeps_of_kept (execObjGetAttr_kept k s)
  | .objClose k => keeps_of_kept (execObjClose_kept k s)
  | .objDelete k => keeps_of_kept (execObjDelete_kept k s)
  | .objList k => keeps_of_kept (execObjList_kept k s)
  | .objSetClass k => keeps_of_kept (execObjSetClass_kept k s)
  | .objVerify k repaired lost => keeps_of_kept (execObjVerify_kept k repaired lost s)
  | .mailboxCmdSend k words => keeps_of_kept (execMailboxCmdSend_kept k words s)
  | .mailboxCmdReceive k => keeps_of_kept (execMailboxCmdReceive_kept k s)
  | .mailboxCmdDoorbell k => keeps_of_kept (execMailboxCmdDoorbell_kept k s)
  | .mailboxCmdAck k => keeps_of_kept (execMailboxCmdAck_kept k s)
  | .mailboxCmdStatus k => keeps_of_kept (execMailboxCmdStatus_kept k s)
  | .sbSetPointer count v pec => keeps_of_kept (execSbSetPointer_kept count v pec s)
  | .sbRead => keeps_of_kept (execSbRead_kept s)
  | .sbWrite count v pec => keeps_of_kept (execSbWrite_kept count v pec s)
  | .sbMailboxSend count v pec => keeps_of_kept (execSbMailboxSend_kept count v pec s)
  | .sbMailboxReceive => keeps_of_kept (execSbMailboxReceive_kept s)
  | .sbDeviceReset count v pec => keeps_of_kept (execSbDeviceReset_kept count v pec s)
  | .sbUnknownCode code read => keeps_of_kept (execSbUnknownCode_kept code read s)
  | .smbusClockTimeout => keeps_of_kept (execSmbusClockTimeout_kept s)
  | .i3cEntdaa addr => keeps_of_kept (execI3cEntdaa_kept addr s)
  | .i3cSetdasa static addr => keeps_of_kept (execI3cSetdasa_kept static addr s)
  | .i3cRstdaa => keeps_of_kept (execI3cRstdaa_kept s)
  | .i3cEnec hj ibi => keeps_of_kept (execI3cEnec_kept hj ibi s)
  | .i3cDisec hj ibi => keeps_of_kept (execI3cDisec_kept hj ibi s)
  | .i3cGetpid => keeps_of_kept (execI3cGetpid_kept s)
  | .i3cGetbcr => keeps_of_kept (execI3cGetbcr_kept s)
  | .i3cGetdcr => keeps_of_kept (execI3cGetdcr_kept s)
  | .i3cGetstatus => keeps_of_kept (execI3cGetstatus_kept s)
  | .i3cGetmwlGetmrl read => keeps_of_kept (execI3cGetmwlGetmrl_kept read s)
  | .hotJoinAttempt => keeps_of_kept (execHotJoinAttempt_kept s)
  | .tenantConfigWrite who t v capacity => keeps_of_kept (execTenantConfigWrite_kept who t v capacity s)
  | .allowanceWrite who t v => keeps_of_kept (execAllowanceWrite_kept who t v s)
  | .tenantPurge who v => keeps_of_kept (execTenantPurge_kept who v s)
  | .ctxTake who idx => keeps_of_kept (execCtxTake_kept who idx s)
  | .ctxPostMedia who k => keeps_of_kept (execCtxPostMedia_kept who k s)
  | .ctxPostPort who k => keeps_of_kept (execCtxPostPort_kept who k s)
  | .ctxPostStaged who k => keeps_of_kept (execCtxPostStaged_kept who k s)
  | .ctxPostDone who k => keeps_of_kept (execCtxPostDone_kept who k s)
  | .ctxPostFree who k => keeps_of_kept (execCtxPostFree_kept who k s)
  | .ctxPop who p k => keeps_of_kept (execCtxPop_kept who p k s)
  | .writePlacement k => keeps_of_kept (execWritePlacement_kept k s)
  | .rowPadTimeout group row => keeps_of_kept (execRowPadTimeout_kept group row s)
  | .cleanerSelect => keeps_of_kept (execCleanerSelect_kept s)
  | .surveySchedule => keeps_of_kept (execSurveySchedule_kept s)
  | .surveyBandDone band found => keeps_of_kept (execSurveyBandDone_kept band found s)
  | .checkpointTimerExpiry => keeps_of_kept (execCheckpointTimerExpiry_kept s)
  | .checkpointBandCount => keeps_of_kept (execCheckpointBandCount_kept s)
  | .checkpointGo who v => keeps_of_kept (execCheckpointGo_kept who v s)
  | .checkpointComplete => keeps_of_kept (execCheckpointComplete_kept s)
  | .touchstoneCopyWritten surf => keeps_of_kept (execTouchstoneCopyWritten_kept surf s)
  | .waymarkLoad bad => keeps_of_kept (execWaymarkLoad_kept bad s)
  | .waymarkReplayDone => keeps_of_kept (execWaymarkReplayDone_kept s)
  | .unitTakeOut who v => keeps_of_kept (execUnitTakeOut_kept who v s)
  | .unitForcedTakeOut who v => keeps_of_kept (execUnitForcedTakeOut_kept who v s)
  | .unitBringIn who v => keeps_of_kept (execUnitBringIn_kept who v s)
  | .drainStepDone => keeps_of_kept (execDrainStepDone_kept s)
  | .unitCalibrationResult pass => keeps_of_kept (execUnitCalibrationResult_kept pass s)
  | .adcCalComplete n => keeps_of_kept (execAdcCalComplete_kept n s)
  | .adcTrimOutOfRange n => keeps_of_kept (execAdcTrimOutOfRange_kept n s)
  | .headZoneSelect who n v => keeps_of_kept (execHeadZoneSelect_kept who n v s)
  | .sourceSelect who n v => keeps_of_kept (execSourceSelect_kept who n v s)
  | .taEventStart n => keeps_of_kept (execTaEventStart_kept n s)
  | .taEventEnd n => keeps_of_kept (execTaEventEnd_kept n s)
  | .freezeAssert n src active => keeps_of_kept (execFreezeAssert_kept n src active s)
  | .freezeTailExpiry n => keeps_of_kept (execFreezeTailExpiry_kept n s)
  | .clearanceResult n => keeps_of_kept (execClearanceResult_kept n s)
  | .writeChannelSelect who a v => keeps_of_kept (execWriteChannelSelect_kept who a v s)
  | .writeHeatRequest who a v => keeps_of_kept (execWriteHeatRequest_kept who a v s)
  | .gateRequest a => keeps_of_kept (execGateRequest_kept a s)
  | .heatTimeout a => keeps_of_kept (execHeatTimeout_kept a s)
  | .gateDrop a => keeps_of_kept (execGateDrop_kept a s)
  | .gateConditionLost a => keeps_of_kept (execGateConditionLost_kept a s)
  | .writeUnderrun a => keeps_of_kept (execWriteUnderrun_kept a s)
  | .milestoneReferenceSample m clock => keeps_of_kept (execMilestoneReferenceSample_kept m clock s)
  | .milestoneHoldoverExpiry m => keeps_of_kept (execMilestoneHoldoverExpiry_kept m s)
  | .milestoneZoneChange m => keeps_of_kept (execMilestoneZoneChange_kept m s)
  | .sectorFramed n live track sector age => keeps_of_kept (execSectorFramed_kept n live track sector age s)
  | .reframe who n v => keeps_of_kept (execReframe_kept who n v s)
  | .reframeDone n => keeps_of_kept (execReframeDone_kept n s)
  | .descriptorPush who n v => keeps_of_kept (execDescriptorPush_kept who n v s)
  | .descriptorFlush who n v => keeps_of_kept (execDescriptorFlush_kept who n v s)
  | .engineDispatch e => keeps_of_kept (execEngineDispatch_kept e s)
  | .decodeComplete e => keeps_of_kept (execDecodeComplete_kept e s)
  | .completionPost n => keeps_of_kept (execCompletionPost_kept n s)
  | .completionPop who n v => keeps_of_kept (execCompletionPop_kept who n v s)
  | .engineFault e => keeps_of_kept (execEngineFault_kept e s)
  | .engineFaultClear who v => keeps_of_kept (execEngineFaultClear_kept who v s)
  | .replayEnd n => keeps_of_kept (execReplayEnd_kept n s)
  | .ringFind who n v => keeps_of_kept (execRingFind_kept who n v s)
  | .ringFindDone n => keeps_of_kept (execRingFindDone_kept n s)
  | .loopTrigger trig l => keeps_of_kept (execLoopTrigger_kept trig l s)
  | .loopRun ns => keeps_of_kept (execLoopRun_kept ns s)
  | .basaltTick t => keeps_of_kept (execBasaltTick_kept t s)
  | .loopKick who v => keeps_of_kept (execLoopKick_kept who v s)
  | .loopEnable who l v => keeps_of_kept (execLoopEnable_kept who l v s)
  | .loopDisable who l v => keeps_of_kept (execLoopDisable_kept who l v s)
  | .loopClear who l => keeps_of_kept (execLoopClear_kept who l s)
  | .bankSwap who l => keeps_of_kept (execBankSwap_kept who l s)
  | .integratorWrite who l v => keeps_of_kept (execIntegratorWrite_kept who l v s)
  | .generalInputWrite who k v => keeps_of_kept (execGeneralInputWrite_kept who k v s)
  | .servoHwmClear who v => keeps_of_kept (execServoHwmClear_kept who v s)
  | .positionSample a => keeps_of_kept (execPositionSample_kept a s)
  | .sampleMissingTimeout a => keeps_of_kept (execSampleMissingTimeout_kept a s)
  | .actuatorLoad who a => keeps_of_kept (execActuatorLoad_kept who a s)
  | .actuatorUnload who a => keeps_of_kept (execActuatorUnload_kept who a s)
  | .seek who a v => keeps_of_kept (execSeek_kept who a v s)
  | .headSelect who a pair v => keeps_of_kept (execHeadSelect_kept who a pair v s)
  | .loadTimeout a => keeps_of_kept (execLoadTimeout_kept a s)
  | .lostTimeout a => keeps_of_kept (execLostTimeout_kept a s)
  | .unloadStall a => keeps_of_kept (execUnloadStall_kept a s)
  | .unloadTimeout a => keeps_of_kept (execUnloadTimeout_kept a s)
  | .vcmVelocitySample a mv ma => keeps_of_kept (execVcmVelocitySample_kept a mv ma s)
  | .ditherEnable who a v => keeps_of_kept (execDitherEnable_kept who a v s)
  | .shockSample sensor x => keeps_of_kept (execShockSample_kept sensor x s)
  | .shockRelease => keeps_of_kept (execShockRelease_kept s)
  | .preampFrameEnd a data => keeps_of_kept (execPreampFrameEnd_kept a data s)
  | .preampStatusPoll a => keeps_of_kept (execPreampStatusPoll_kept a s)
  | .preampRawTransfer who a v => keeps_of_kept (execPreampRawTransfer_kept who a v s)
  | .preampFault a low => keeps_of_kept (execPreampFault_kept a low s)
  | .preampEnumeration a => keeps_of_kept (execPreampEnumeration_kept a s)
  | .spindleStart who => keeps_of_kept (execSpindleStart_kept who s)
  | .spindleStop who => keeps_of_kept (execSpindleStop_kept who s)
  | .spindleStopBrake who => keeps_of_kept (execSpindleStopBrake_kept who s)
  | .millstoneTick volts amps => keeps_of_kept (execMillstoneTick_kept volts amps s)
  | .catchWindowEnd => keeps_of_kept (execCatchWindowEnd_kept s)
  | .brakeTimeout => keeps_of_kept (execBrakeTimeout_kept s)
  | .alignDone => keeps_of_kept (execAlignDone_kept s)
  | .lockedRotor => keeps_of_kept (execLockedRotor_kept s)
  | .lockedRotorRetry => keeps_of_kept (execLockedRotorRetry_kept s)
  | .speedRegulated => keeps_of_kept (execSpeedRegulated_kept s)
  | .rotorLoss => keeps_of_kept (execRotorLoss_kept s)
  | .rotorReacquired => keeps_of_kept (execRotorReacquired_kept s)
  | .reacquisitionFail => keeps_of_kept (execReacquisitionFail_kept s)
  | .flyingLimit => keeps_of_kept (execFlyingLimit_kept s)
  | .stopComplete => keeps_of_kept (execStopComplete_kept s)
  | .coastToIdle => keeps_of_kept (execCoastToIdle_kept s)
  | .auxInputUp => keeps_of_kept (execAuxInputUp_kept s)
  | .mainInputUp mv => keeps_of_kept (execMainInputUp_kept mv s)
  | .railInRegulation r mv => keeps_of_kept (execRailInRegulation_kept r mv s)
  | .socRelease bootcfg sbAddr rstLow => keeps_of_kept (execSocRelease_kept bootcfg sbAddr rstLow s)
  | .railFault r mv => keeps_of_kept (execRailFault_kept r mv s)
  | .ballastReady selfTest => keeps_of_kept (execBallastReady_kept selfTest s)
  | .linkHeartbeat crcOk => keeps_of_kept (execLinkHeartbeat_kept crcOk s)
  | .linkWatchdogExpiry => keeps_of_kept (execLinkWatchdogExpiry_kept s)
  | .stageTrip stage ma => keeps_of_kept (execStageTrip_kept stage ma s)
  | .stageUnlatch who v => keeps_of_kept (execStageUnlatch_kept who v s)
  | .regenClamp => keeps_of_kept (execRegenClamp_kept s)
  | .chargeTimeout => keeps_of_kept (execChargeTimeout_kept s)
  | .bankMeasureGo who v => keeps_of_kept (execBankMeasureGo_kept who v s)
  | .measureTimerExpiry => keeps_of_kept (execMeasureTimerExpiry_kept s)
  | .bankMeasureDone stepMv fallMv us => keeps_of_kept (execBankMeasureDone_kept stepMv fallMv us s)
  | .vaultAllowanceUpdate bankMv => keeps_of_kept (execVaultAllowanceUpdate_kept bankMv s)
  | .powerLoss bankMv aux => keeps_of_kept (execPowerLoss_kept bankMv aux s)
  | .vaultFlushDone => keeps_of_kept (execVaultFlushDone_kept s)
  | .bankAtVret => keeps_of_kept (execBankAtVret_kept s)
  | .mainReturn mv => keeps_of_kept (execMainReturn_kept mv s)
  | .emergencyRetract => keeps_of_kept (execEmergencyRetract_kept s)
  | .retractComplete => keeps_of_kept (execRetractComplete_kept s)
  | .thermalLevelChange deg16 => keeps_of_kept (execThermalLevelChange_kept deg16 s)
  | .hbmTrainingDone => keeps_of_kept (execHbmTrainingDone_kept s)
  | .hbmTrainingFail pc => keeps_of_kept (execHbmTrainingFail_kept pc s)
  | .bedrockWaitTimeout => keeps_of_kept (execBedrockWaitTimeout_kept s)
  | .hbmRead cls ofs upset array seg => keeps_of_kept (execHbmRead_kept cls ofs upset array seg s)
  | .hbmWrite cls ofs len v seg => keeps_of_kept (execHbmWrite_kept cls ofs len v seg s)
  | .idleClaim block => keeps_of_kept (execIdleClaim_kept block s)
  | .hbmTempRead t => keeps_of_kept (execHbmTempRead_kept t s)
  | .hbmRefresh => keeps_of_kept (execHbmRefresh_kept s)
  | .arbitrationWindow => keeps_of_kept (execArbitrationWindow_kept s)
  | .pprSoft who v spare => keeps_of_kept (execPprSoft_kept who v spare s)
  | .pprHard who v spare => keeps_of_kept (execPprHard_kept who v spare s)
  | .pprDone clean => keeps_of_kept (execPprDone_kept clean s)
  | .bdpRead who v => keeps_of_kept (execBdpRead_kept who v s)
  | .bdpWrite who v => keeps_of_kept (execBdpWrite_kept who v s)
  | .bdpStage who v => keeps_of_kept (execBdpStage_kept who v s)
  | .bdpDataRead who => keeps_of_kept (execBdpDataRead_kept who s)
  | .bdpDone => keeps_of_kept (execBdpDone_kept s)
  | .scrubRead upset newer => keeps_of_kept (execScrubRead_kept upset newer s)
  | .scrubLapStart => keeps_of_kept (execScrubLapStart_kept s)
  | .sramScrubStep region bits newer spot => keeps_of_kept (execSramScrubStep_kept region bits newer spot s)
  | .shaleEnable who v => keeps_of_kept (execShaleEnable_kept who v s)
  | .shaleDisable who v => keeps_of_kept (execShaleDisable_kept who v s)
  | .shaleDrainDone => keeps_of_kept (execShaleDrainDone_kept s)
  | .shaleInvRange who v => keeps_of_kept (execShaleInvRange_kept who v s)
  | .shaleInvAll who v => keeps_of_kept (execShaleInvAll_kept who v s)
  | .shaleFill who v => keeps_of_kept (execShaleFill_kept who v s)
  | .shaleOpDone => keeps_of_kept (execShaleOpDone_kept s)
  | .shaleLock who v => keeps_of_kept (execShaleLock_kept who v s)
  | .lockstepMismatch p => keeps_of_kept (execLockstepMismatch_kept p s)
  | .pairRestart who v => keeps_of_kept (execPairRestart_kept who v s)
  | .pairRestartDone p => keeps_of_kept (execPairRestartDone_kept p s)
  | .heartbeat who p => keeps_of_kept (execHeartbeat_kept who p s)
  | .heartbeatConfig who p v => keeps_of_kept (execHeartbeatConfig_kept who p v s)
  | .heartbeatMiss p => keeps_of_kept (execHeartbeatMiss_kept p s)
  | .watchdogRestart who => keeps_of_kept (execWatchdogRestart_kept who s)
  | .deviceResetRequest who p v => keeps_of_kept (execDeviceResetRequest_kept who p v s)
  | .keyStuckTimeout p => keeps_of_kept (execKeyStuckTimeout_kept p s)
  | .translate st iova write k => keeps_of_kept (execTranslate_kept st iova write k s)
  | .streamConfig who p st v => keeps_of_kept (execStreamConfig_kept who p st v s)
  | .streamFaultClear who p st => keeps_of_kept (execStreamFaultClear_kept who p st s)
  | .iotlbInvAll who p => keeps_of_kept (execIotlbInvAll_kept who p s)
  | .iotlbInvStream who p st => keeps_of_kept (execIotlbInvStream_kept who p st s)
  | .iotlbInvPage who p st => keeps_of_kept (execIotlbInvPage_kept who p st s)
  | .iotlbInvDone => keeps_of_kept (execIotlbInvDone_kept s)
  | .faultPop who p => keeps_of_kept (execFaultPop_kept who p s)
  | .interruptClaim who p c => keeps_of_kept (execInterruptClaim_kept who p c s)
  | .interruptComplete who p c v => keeps_of_kept (execInterruptComplete_kept who p c v s)
  | .machineTimerInterrupt p => keeps_of_kept (execMachineTimerInterrupt_kept p s)
  | .mailboxPush who m far v => keeps_of_kept (execMailboxPush_kept who m far v s)
  | .mailboxPop who m far => keeps_of_kept (execMailboxPop_kept who m far s)
  | .doorbellSet who m far v => keeps_of_kept (execDoorbellSet_kept who m far v s)
  | .mailboxAcknowledge who m far v => keeps_of_kept (execMailboxAcknowledge_kept who m far v s)
  | .mailboxRequestTimeout m far => keeps_of_kept (execMailboxRequestTimeout_kept m far s)
  | .workRead who n k => keeps_of_kept (execWorkRead_kept who n k s)
  | .workWriteRun who n k => keeps_of_kept (execWorkWriteRun_kept who n k s)
  | .workLadder who n k => keeps_of_kept (execWorkLadder_kept who n k s)
  | .workSurvey who n k => keeps_of_kept (execWorkSurvey_kept who n k s)
  | .workFormat who n k => keeps_of_kept (execWorkFormat_kept who n k s)
  | .workDispatch n => keeps_of_kept (execWorkDispatch_kept n s)
  | .nop n => keeps_of_kept (execNop_kept n s)
  | .alu n gd ga gb fn => keeps_of_kept (execAlu_kept n gd ga gb fn s)
  | .addi n gd ga imm => keeps_of_kept (execAddi_kept n gd ga imm s)
  | .lui n gd imm => keeps_of_kept (execLui_kept n gd imm s)
  | .branch n cond ga target => keeps_of_kept (execBranch_kept n cond ga target s)
  | .call n target => keeps_of_kept (execCall_kept n target s)
  | .returnOp n => keeps_of_kept (execReturn_kept n s)
  | .towpathRead n gd ga imm => keeps_of_kept (execTowpathRead_kept n gd ga imm s)
  | .towpathWrite n gs ga imm => keeps_of_kept (execTowpathWrite_kept n gs ga imm s)
  | .scratchLoad n gd ga imm => keeps_of_kept (execScratchLoad_kept n gd ga imm s)
  | .scratchStore n gs ga imm => keeps_of_kept (execScratchStore_kept n gs ga imm s)
  | .nano n naddr ga gb cnt rom frames upset => keeps_of_kept (execNano_kept n naddr ga gb cnt rom frames upset s)
  | .wait n event limit set => keeps_of_kept (execWait_kept n event limit set s)
  | .waitLimitExpiry n => keeps_of_kept (execWaitLimitExpiry_kept n s)
  | .routine n id => keeps_of_kept (execRoutine_kept n id s)
  | .commitTowpath n ga gb => keeps_of_kept (execCommitTowpath_kept n ga gb s)
  | .commitContext n ga gb retry => keeps_of_kept (execCommitContext_kept n ga gb retry s)
  | .commitDone n ga gb => keeps_of_kept (execCommitDone_kept n ga gb s)
  | .commitMark n ga gb => keeps_of_kept (execCommitMark_kept n ga gb s)
  | .returnFromEvent n => keeps_of_kept (execReturnFromEvent_kept n s)
  | .sequencerFault n illegal => keeps_of_kept (execSequencerFault_kept n illegal s)
  | .sequencerGateAbandon a => keeps_of_kept (execSequencerGateAbandon_kept a s)
  | .sequencerHandover n => keeps_of_kept (execSequencerHandover_kept n s)
  | .sequencerAbort who n => keeps_of_kept (execSequencerAbort_kept who n s)
  | .sequencerRestart n by_ => keeps_of_kept (execSequencerRestart_kept n by_ s)
  | .patchLoad n images => keeps_of_kept (execPatchLoad_kept n images s)
  | .channelStart who k v => keeps_of_kept (execChannelStart_kept who k v s)
  | .channelDisable who k => keeps_of_kept (execChannelDisable_kept who k s)
  | .channelDrained k => keeps_of_kept (execChannelDrained_kept k s)
  | .burstIssue => keeps_of_kept (execBurstIssue_kept s)
  | .beatReadResponse k => keeps_of_kept (execBeatReadResponse_kept k s)
  | .beatWriteResponse k => keeps_of_kept (execBeatWriteResponse_kept k s)
  | .requestEdge l => keeps_of_kept (execRequestEdge_kept l s)
  | .softwareRequest who lines => keeps_of_kept (execSoftwareRequest_kept who lines s)
  | .generalTimerExpiry t => keeps_of_kept (execGeneralTimerExpiry_kept t s)
  | .segmentAdjust who g adj => keeps_of_kept (execSegmentAdjust_kept who g adj s)
  | .segmentClear who g => keeps_of_kept (execSegmentClear_kept who g s)
  | .rawBlockOp who port v upset => keeps_of_kept (execRawBlockOp_kept who port v upset s)
  | .coreBlockDone core => keeps_of_kept (execCoreBlockDone_kept core s)
  | .keyStage who v => keeps_of_kept (execKeyStage_kept who v s)
  | .keyLoad who slot => keeps_of_kept (execKeyLoad_kept who slot s)
  | .keyZero who slot => keeps_of_kept (execKeyZero_kept who slot s)
  | .authUnitOpen who u => keeps_of_kept (execAuthUnitOpen_kept who u s)
  | .authUnitCompare who u tlen => keeps_of_kept (execAuthUnitCompare_kept who u tlen s)
  | .authUnitClose who u => keeps_of_kept (execAuthUnitClose_kept who u s)
  | .authTagWrite who u j v => keeps_of_kept (execAuthTagWrite_kept who u j v s)
  | .authDataRead who u => keeps_of_kept (execAuthDataRead_kept who u s)
  | .laneBlockLock lane => keeps_of_kept (execLaneBlockLock_kept lane s)
  | .laneLockLoss lane => keeps_of_kept (execLaneLockLoss_kept lane s)
  | .alignBlock lane counter => keeps_of_kept (execAlignBlock_kept lane counter s)
  | .alignSend => keeps_of_kept (execAlignSend_kept s)
  | .helloFrame len frame => keeps_of_kept (execHelloFrame_kept len frame s)
  | .helloTimer => keeps_of_kept (execHelloTimer_kept s)
  | .ackFrame len frame => keeps_of_kept (execAckFrame_kept len frame s)
  | .nakFrame len frame => keeps_of_kept (execNakFrame_kept len frame s)
  | .retransmitTimeout => keeps_of_kept (execRetransmitTimeout_kept s)
  | .ackKeepalive => keeps_of_kept (execAckKeepalive_kept s)
  | .peerTimeout => keeps_of_kept (execPeerTimeout_kept s)
  | .planFrame len frame => keeps_of_kept (execPlanFrame_kept len frame s)
  | .planAckFrame len frame => keeps_of_kept (execPlanAckFrame_kept len frame s)
  | .tenantFrame len frame => keeps_of_kept (execTenantFrame_kept len frame s)
  | .itemBeginFrame len frame => keeps_of_kept (execItemBeginFrame_kept len frame s)
  | .dataFrame len frame => keeps_of_kept (execDataFrame_kept len frame s)
  | .itemEndFrame len frame => keeps_of_kept (execItemEndFrame_kept len frame s)
  | .itemAbortFrame len frame => keeps_of_kept (execItemAbortFrame_kept len frame s)
  | .itemReadbackDone t kind id ofs lost => keeps_of_kept (execItemReadbackDone_kept t kind id ofs lost s)
  | .verifiedFrame len frame => keeps_of_kept (execVerifiedFrame_kept len frame s)
  | .historyFrame len frame => keeps_of_kept (execHistoryFrame_kept len frame s)
  | .stopFrame len frame => keeps_of_kept (execStopFrame_kept len frame s)
  | .endFrame len frame => keeps_of_kept (execEndFrame_kept len frame s)
  | .exportGranuleRead lost => keeps_of_kept (execExportGranuleRead_kept lost s)
  | .sessionGo who => keeps_of_kept (execSessionGo_kept who s)
  | .sessionStop who => keeps_of_kept (execSessionStop_kept who s)
  | .sessionDrained => keeps_of_kept (execSessionDrained_kept s)
  | .faultLatch src cls holds => keeps_of_kept (execFaultLatch_kept src cls holds s)
  | .faultPinPulseEnd => keeps_of_kept (execFaultPinPulseEnd_kept s)
  | .faultPinHold who p v => keeps_of_kept (execFaultPinHold_kept who p v s)
  | .faultClear who p hiWord v => keeps_of_kept (execFaultClear_kept who p hiWord v s)
  | .fatalClearDone parityOk => keeps_of_kept (execFatalClearDone_kept parityOk s)
  | .graceExpiry acts => keeps_of_kept (execGraceExpiry_kept acts s)
  | .heldTakeoutIssue => keeps_of_kept (execHeldTakeoutIssue_kept s)
  | .keystoneBackstop => keeps_of_kept (execKeystoneBackstop_kept s)
  | .tollgateSelfCheck error => keeps_of_kept (execTollgateSelfCheck_kept error s)
  | .tollgateArmed => keeps_of_kept (execTollgateArmed_kept s)
  | .injectArm who p count nbits src => keeps_of_kept (execInjectArm_kept who p count nbits src s)
  | .injectDisarm who p => keeps_of_kept (execInjectDisarm_kept who p s)
  | .minuteTick => keeps_of_kept (execMinuteTick_kept s)
  | .cairnRestore reserveOk => keeps_of_kept (execCairnRestore_kept reserveOk s)
  | .logFreeze who v => keeps_of_kept (execLogFreeze_kept who v s)
  | .logUnfreeze who v => keeps_of_kept (execLogUnfreeze_kept who v s)
  | .freezeTimeout => keeps_of_kept (execFreezeTimeout_kept s)
  | .sbWindowHeadRead => keeps_of_kept (execSbWindowHeadRead_kept s)
  | .sbWindowAdvance => keeps_of_kept (execSbWindowAdvance_kept s)
  | .persistTimer => keeps_of_kept (execPersistTimer_kept s)
  | .persistGo who v => keeps_of_kept (execPersistGo_kept who v s)
  | .persistDone ok => keeps_of_kept (execPersistDone_kept ok s)
  | .logRelease who v => keeps_of_kept (execLogRelease_kept who v s)
  | .releaseApplied => keeps_of_kept (execReleaseApplied_kept s)
  | .fwRecordStage who v => keeps_of_kept (execFwRecordStage_kept who v s)
  | .fwRecordWrite who v => keeps_of_kept (execFwRecordWrite_kept who v s)
  | .sliceClock n a b => keeps_of_kept (execSliceClock_kept n a b s)
  | .rstNRelease bootcfg sbAddr => keeps_of_kept (execRstNRelease_kept bootcfg sbAddr s)
  | .wakeMaxExpiry => keeps_of_kept (execWakeMaxExpiry_kept s)
  | .nvmeDeleteIoQueue k cq qid => keeps_of_kept (execNvmeDeleteIoQueue_kept k cq qid s)
  | .nvmeAbort k sq cid => keeps_of_kept (execNvmeAbort_kept k sq cid s)
  | .nvmeSetFeatures k fid value => keeps_of_kept (execNvmeSetFeatures_kept k fid value s)
  | .nvmeGetFeatures k fid => keeps_of_kept (execNvmeGetFeatures_kept k fid s)
  | .nvmeAsyncEventRequest k => keeps_of_kept (execNvmeAsyncEventRequest_kept k s)

theorem exec_memWf (c : Instr) (s : State) :
    ∃ t, exec c s = .next t ∧ (Memory.wf s.mem = true → Memory.wf t.mem = true) :=
  match c with
  | .registerWrite who p width off v => execRegisterWrite_memWf who p width off v s
  | .loadStoreMisaligned c store width addr => execLoadStoreMisaligned_memWf c store width addr s
  | .wideTowpathAccess h store width addr => execWideTowpathAccess_memWf h store width addr s
  | .unmappedAccessFault c kind width addr v => execUnmappedAccessFault_memWf c kind width addr v s
  | .atomicAccessFault h op width addr v => execAtomicAccessFault_memWf h op width addr v s
  | .crossingDelivery src dst data tag => execCrossingDelivery_memWf src dst data tag s
  | .crossingHeldRelease dst => execCrossingHeldRelease_memWf dst s
  | .powerOnReset bootcfg sbAddr rstLow => execPowerOnReset_memWf bootcfg sbAddr rstLow s
  | .pinReset lowNs => execPinReset_memWf lowNs s
  | .keyDeviceReset who v => execKeyDeviceReset_memWf who v s
  | .keystoneWatchdogExpiry => execKeystoneWatchdogExpiry_memWf s
  | .resetDeferExpiry => execResetDeferExpiry_memWf s
  | .kenulSlotCheck slotB img readErr => execKenulSlotCheck_memWf slotB img readErr s
  | .kenulApply => execKenulApply_memWf s
  | .loaderCheck img readErr => execLoaderCheck_memWf img readErr s
  | .fuseProgram who p unlock slot mainMv => execFuseProgram_memWf who p unlock slot mainMv s
  | .fuseRevoke who p unlock slot mainMv => execFuseRevoke_memWf who p unlock slot mainMv s
  | .fuseOpDone matched => execFuseOpDone_memWf matched s
  | .modeReqService who p => execModeReqService_memWf who p s
  | .modeReqSurvey who p => execModeReqSurvey_memWf who p s
  | .modeReqMigration who p => execModeReqMigration_memWf who p s
  | .modeReqDormant who p => execModeReqDormant_memWf who p s
  | .modeReqHaven who p => execModeReqHaven_memWf who p s
  | .modeReqBedding who p => execModeReqBedding_memWf who p s
  | .dormantEntryProgress => execDormantEntryProgress_memWf s
  | .dormantWakeExpiry => execDormantWakeExpiry_memWf s
  | .dormantWorkDone => execDormantWorkDone_memWf s
  | .modeTransitionComplete => execModeTransitionComplete_memWf s
  | .havenSettled => execHavenSettled_memWf s
  | .heldDataWrite => execHeldDataWrite_memWf s
  | .linkTrained g port rate width partner => execLinkTrained_memWf g port rate width partner s
  | .linkLost g port => execLinkLost_memWf g port s
  | .linkDisable who g v => execLinkDisable_memWf who g v s
  | .hostSideReset g => execHostSideReset_memWf g s
  | .nvmeControllerReset g => execNvmeControllerReset_memWf g s
  | .nvmeDoorbellWrite g ofs v => execNvmeDoorbellWrite_memWf g ofs v s
  | .nvmeCommandFetch g sq entry => execNvmeCommandFetch_memWf g sq entry s
  | .nvmeFetchResume g => execNvmeFetchResume_memWf g s
  | .sasCommandFrame g port lun tag space attr cdb => execSasCommandFrame_memWf g port lun tag space attr cdb s
  | .sasTaskManagement g port fn lun tag space => execSasTaskManagement_memWf g port fn lun tag space s
  | .sataCommand c => execSataCommand_memWf c s
  | .hostConfigRead g ofs => execHostConfigRead_memWf g ofs s
  | .hostBar0Read g ofs dwords => execHostBar0Read_memWf g ofs dwords s
  | .hostConfigWrite g ofs v => execHostConfigWrite_memWf g ofs v s
  | .hostBar0Write g ofs v => execHostBar0Write_memWf g ofs v s
  | .shadowStage who g v => execShadowStage_memWf who g v s
  | .shadowRead who g => execShadowRead_memWf who g s
  | .shadowCommit who g => execShadowCommit_memWf who g s
  | .shadowDiscard who g => execShadowDiscard_memWf who g s
  | .shadowCommitEffect g => execShadowCommitEffect_memWf g s
  | .inquiry g tag evpd page => execInquiry_memWf g tag evpd page s
  | .identifyDevice tag => execIdentifyDevice_memWf tag s
  | .nvmeIdentify k cns data => execNvmeIdentify_memWf k cns data s
  | .nvmeGetLogPage k lid data => execNvmeGetLogPage_memWf k lid data s
  | .namespaceManagement k t capacity => execNamespaceManagement_memWf k t capacity s
  | .namespaceAttachment k => execNamespaceAttachment_memWf k s
  | .firmwareImageDownload k => execFirmwareImageDownload_memWf k s
  | .firmwareCommit k => execFirmwareCommit_memWf k s
  | .createIoQueue k => execCreateIoQueue_memWf k s
  | .blockRead k keySlot cacheHit => execBlockRead_memWf k keySlot cacheHit s
  | .blockWrite k keySlot data => execBlockWrite_memWf k keySlot data s
  | .nvmeFlush k => execNvmeFlush_memWf k s
  | .synchronizeCache k => execSynchronizeCache_memWf k s
  | .flushCacheExt k => execFlushCacheExt_memWf k s
  | .writeZeroes k => execWriteZeroes_memWf k s
  | .deallocate k ranges => execDeallocate_memWf k ranges s
  | .blockVerify k mediaOk => execBlockVerify_memWf k mediaOk s
  | .compare k keySlot cacheHit data => execCompare_memWf k keySlot cacheHit data s
  | .readCapacity k => execReadCapacity_memWf k s
  | .reportLuns k => execReportLuns_memWf k s
  | .testUnitReady k => execTestUnitReady_memWf k s
  | .requestSense k => execRequestSense_memWf k s
  | .startStopUnit k start => execStartStopUnit_memWf k start s
  | .modeSense k page => execModeSense_memWf k page s
  | .modeSelect k page data => execModeSelect_memWf k page data s
  | .logSense k page data => execLogSense_memWf k page data s
  | .persistentReserveIn k => execPersistentReserveIn_memWf k s
  | .persistentReserveOut k op => execPersistentReserveOut_memWf k op s
  | .writeBuffer k => execWriteBuffer_memWf k s
  | .readBuffer k => execReadBuffer_memWf k s
  | .readFpdmaQueued ncq c => execReadFpdmaQueued_memWf ncq c s
  | .writeFpdmaQueued ncq c => execWriteFpdmaQueued_memWf ncq c s
  | .setFeatures k feature value => execSetFeatures_memWf k feature value s
  | .readLogExt k page data => execReadLogExt_memWf k page data s
  | .downloadMicrocode k => execDownloadMicrocode_memWf k s
  | .objCreate k => execObjCreate_memWf k s
  | .objWrite k keySlot data => execObjWrite_memWf k keySlot data s
  | .objRead k keySlot cacheHit => execObjRead_memWf k keySlot cacheHit s
  | .objOpen k => execObjOpen_memWf k s
  | .objGetAttr k => execObjGetAttr_memWf k s
  | .objClose k => execObjClose_memWf k s
  | .objDelete k => execObjDelete_memWf k s
  | .objList k => execObjList_memWf k s
  | .objSetClass k => execObjSetClass_memWf k s
  | .objVerify k repaired lost => execObjVerify_memWf k repaired lost s
  | .mailboxCmdSend k words => execMailboxCmdSend_memWf k words s
  | .mailboxCmdReceive k => execMailboxCmdReceive_memWf k s
  | .mailboxCmdDoorbell k => execMailboxCmdDoorbell_memWf k s
  | .mailboxCmdAck k => execMailboxCmdAck_memWf k s
  | .mailboxCmdStatus k => execMailboxCmdStatus_memWf k s
  | .sbSetPointer count v pec => execSbSetPointer_memWf count v pec s
  | .sbRead => execSbRead_memWf s
  | .sbWrite count v pec => execSbWrite_memWf count v pec s
  | .sbMailboxSend count v pec => execSbMailboxSend_memWf count v pec s
  | .sbMailboxReceive => execSbMailboxReceive_memWf s
  | .sbDeviceReset count v pec => execSbDeviceReset_memWf count v pec s
  | .sbUnknownCode code read => execSbUnknownCode_memWf code read s
  | .smbusClockTimeout => execSmbusClockTimeout_memWf s
  | .i3cEntdaa addr => execI3cEntdaa_memWf addr s
  | .i3cSetdasa static addr => execI3cSetdasa_memWf static addr s
  | .i3cRstdaa => execI3cRstdaa_memWf s
  | .i3cEnec hj ibi => execI3cEnec_memWf hj ibi s
  | .i3cDisec hj ibi => execI3cDisec_memWf hj ibi s
  | .i3cGetpid => execI3cGetpid_memWf s
  | .i3cGetbcr => execI3cGetbcr_memWf s
  | .i3cGetdcr => execI3cGetdcr_memWf s
  | .i3cGetstatus => execI3cGetstatus_memWf s
  | .i3cGetmwlGetmrl read => execI3cGetmwlGetmrl_memWf read s
  | .hotJoinAttempt => execHotJoinAttempt_memWf s
  | .tenantConfigWrite who t v capacity => execTenantConfigWrite_memWf who t v capacity s
  | .allowanceWrite who t v => execAllowanceWrite_memWf who t v s
  | .tenantPurge who v => execTenantPurge_memWf who v s
  | .ctxTake who idx => execCtxTake_memWf who idx s
  | .ctxPostMedia who k => execCtxPostMedia_memWf who k s
  | .ctxPostPort who k => execCtxPostPort_memWf who k s
  | .ctxPostStaged who k => execCtxPostStaged_memWf who k s
  | .ctxPostDone who k => execCtxPostDone_memWf who k s
  | .ctxPostFree who k => execCtxPostFree_memWf who k s
  | .ctxPop who p k => execCtxPop_memWf who p k s
  | .writePlacement k => execWritePlacement_memWf k s
  | .rowPadTimeout group row => execRowPadTimeout_memWf group row s
  | .cleanerSelect => execCleanerSelect_memWf s
  | .surveySchedule => execSurveySchedule_memWf s
  | .surveyBandDone band found => execSurveyBandDone_memWf band found s
  | .checkpointTimerExpiry => execCheckpointTimerExpiry_memWf s
  | .checkpointBandCount => execCheckpointBandCount_memWf s
  | .checkpointGo who v => execCheckpointGo_memWf who v s
  | .checkpointComplete => execCheckpointComplete_memWf s
  | .touchstoneCopyWritten surf => execTouchstoneCopyWritten_memWf surf s
  | .waymarkLoad bad => execWaymarkLoad_memWf bad s
  | .waymarkReplayDone => execWaymarkReplayDone_memWf s
  | .unitTakeOut who v => execUnitTakeOut_memWf who v s
  | .unitForcedTakeOut who v => execUnitForcedTakeOut_memWf who v s
  | .unitBringIn who v => execUnitBringIn_memWf who v s
  | .drainStepDone => execDrainStepDone_memWf s
  | .unitCalibrationResult pass => execUnitCalibrationResult_memWf pass s
  | .adcCalComplete n => execAdcCalComplete_memWf n s
  | .adcTrimOutOfRange n => execAdcTrimOutOfRange_memWf n s
  | .headZoneSelect who n v => execHeadZoneSelect_memWf who n v s
  | .sourceSelect who n v => execSourceSelect_memWf who n v s
  | .taEventStart n => execTaEventStart_memWf n s
  | .taEventEnd n => execTaEventEnd_memWf n s
  | .freezeAssert n src active => execFreezeAssert_memWf n src active s
  | .freezeTailExpiry n => execFreezeTailExpiry_memWf n s
  | .clearanceResult n => execClearanceResult_memWf n s
  | .writeChannelSelect who a v => execWriteChannelSelect_memWf who a v s
  | .writeHeatRequest who a v => execWriteHeatRequest_memWf who a v s
  | .gateRequest a => execGateRequest_memWf a s
  | .heatTimeout a => execHeatTimeout_memWf a s
  | .gateDrop a => execGateDrop_memWf a s
  | .gateConditionLost a => execGateConditionLost_memWf a s
  | .writeUnderrun a => execWriteUnderrun_memWf a s
  | .milestoneReferenceSample m clock => execMilestoneReferenceSample_memWf m clock s
  | .milestoneHoldoverExpiry m => execMilestoneHoldoverExpiry_memWf m s
  | .milestoneZoneChange m => execMilestoneZoneChange_memWf m s
  | .sectorFramed n live track sector age => execSectorFramed_memWf n live track sector age s
  | .reframe who n v => execReframe_memWf who n v s
  | .reframeDone n => execReframeDone_memWf n s
  | .descriptorPush who n v => execDescriptorPush_memWf who n v s
  | .descriptorFlush who n v => execDescriptorFlush_memWf who n v s
  | .engineDispatch e => execEngineDispatch_memWf e s
  | .decodeComplete e => execDecodeComplete_memWf e s
  | .completionPost n => execCompletionPost_memWf n s
  | .completionPop who n v => execCompletionPop_memWf who n v s
  | .engineFault e => execEngineFault_memWf e s
  | .engineFaultClear who v => execEngineFaultClear_memWf who v s
  | .replayEnd n => execReplayEnd_memWf n s
  | .ringFind who n v => execRingFind_memWf who n v s
  | .ringFindDone n => execRingFindDone_memWf n s
  | .loopTrigger trig l => execLoopTrigger_memWf trig l s
  | .loopRun ns => execLoopRun_memWf ns s
  | .basaltTick t => execBasaltTick_memWf t s
  | .loopKick who v => execLoopKick_memWf who v s
  | .loopEnable who l v => execLoopEnable_memWf who l v s
  | .loopDisable who l v => execLoopDisable_memWf who l v s
  | .loopClear who l => execLoopClear_memWf who l s
  | .bankSwap who l => execBankSwap_memWf who l s
  | .integratorWrite who l v => execIntegratorWrite_memWf who l v s
  | .generalInputWrite who k v => execGeneralInputWrite_memWf who k v s
  | .servoHwmClear who v => execServoHwmClear_memWf who v s
  | .positionSample a => execPositionSample_memWf a s
  | .sampleMissingTimeout a => execSampleMissingTimeout_memWf a s
  | .actuatorLoad who a => execActuatorLoad_memWf who a s
  | .actuatorUnload who a => execActuatorUnload_memWf who a s
  | .seek who a v => execSeek_memWf who a v s
  | .headSelect who a pair v => execHeadSelect_memWf who a pair v s
  | .loadTimeout a => execLoadTimeout_memWf a s
  | .lostTimeout a => execLostTimeout_memWf a s
  | .unloadStall a => execUnloadStall_memWf a s
  | .unloadTimeout a => execUnloadTimeout_memWf a s
  | .vcmVelocitySample a mv ma => execVcmVelocitySample_memWf a mv ma s
  | .ditherEnable who a v => execDitherEnable_memWf who a v s
  | .shockSample sensor x => execShockSample_memWf sensor x s
  | .shockRelease => execShockRelease_memWf s
  | .preampFrameEnd a data => execPreampFrameEnd_memWf a data s
  | .preampStatusPoll a => execPreampStatusPoll_memWf a s
  | .preampRawTransfer who a v => execPreampRawTransfer_memWf who a v s
  | .preampFault a low => execPreampFault_memWf a low s
  | .preampEnumeration a => execPreampEnumeration_memWf a s
  | .spindleStart who => execSpindleStart_memWf who s
  | .spindleStop who => execSpindleStop_memWf who s
  | .spindleStopBrake who => execSpindleStopBrake_memWf who s
  | .millstoneTick volts amps => execMillstoneTick_memWf volts amps s
  | .catchWindowEnd => execCatchWindowEnd_memWf s
  | .brakeTimeout => execBrakeTimeout_memWf s
  | .alignDone => execAlignDone_memWf s
  | .lockedRotor => execLockedRotor_memWf s
  | .lockedRotorRetry => execLockedRotorRetry_memWf s
  | .speedRegulated => execSpeedRegulated_memWf s
  | .rotorLoss => execRotorLoss_memWf s
  | .rotorReacquired => execRotorReacquired_memWf s
  | .reacquisitionFail => execReacquisitionFail_memWf s
  | .flyingLimit => execFlyingLimit_memWf s
  | .stopComplete => execStopComplete_memWf s
  | .coastToIdle => execCoastToIdle_memWf s
  | .auxInputUp => execAuxInputUp_memWf s
  | .mainInputUp mv => execMainInputUp_memWf mv s
  | .railInRegulation r mv => execRailInRegulation_memWf r mv s
  | .socRelease bootcfg sbAddr rstLow => execSocRelease_memWf bootcfg sbAddr rstLow s
  | .railFault r mv => execRailFault_memWf r mv s
  | .ballastReady selfTest => execBallastReady_memWf selfTest s
  | .linkHeartbeat crcOk => execLinkHeartbeat_memWf crcOk s
  | .linkWatchdogExpiry => execLinkWatchdogExpiry_memWf s
  | .stageTrip stage ma => execStageTrip_memWf stage ma s
  | .stageUnlatch who v => execStageUnlatch_memWf who v s
  | .regenClamp => execRegenClamp_memWf s
  | .chargeTimeout => execChargeTimeout_memWf s
  | .bankMeasureGo who v => execBankMeasureGo_memWf who v s
  | .measureTimerExpiry => execMeasureTimerExpiry_memWf s
  | .bankMeasureDone stepMv fallMv us => execBankMeasureDone_memWf stepMv fallMv us s
  | .vaultAllowanceUpdate bankMv => execVaultAllowanceUpdate_memWf bankMv s
  | .powerLoss bankMv aux => execPowerLoss_memWf bankMv aux s
  | .vaultFlushDone => execVaultFlushDone_memWf s
  | .bankAtVret => execBankAtVret_memWf s
  | .mainReturn mv => execMainReturn_memWf mv s
  | .emergencyRetract => execEmergencyRetract_memWf s
  | .retractComplete => execRetractComplete_memWf s
  | .thermalLevelChange deg16 => execThermalLevelChange_memWf deg16 s
  | .hbmTrainingDone => execHbmTrainingDone_memWf s
  | .hbmTrainingFail pc => execHbmTrainingFail_memWf pc s
  | .bedrockWaitTimeout => execBedrockWaitTimeout_memWf s
  | .hbmRead cls ofs upset array seg => execHbmRead_memWf cls ofs upset array seg s
  | .hbmWrite cls ofs len v seg => execHbmWrite_memWf cls ofs len v seg s
  | .idleClaim block => execIdleClaim_memWf block s
  | .hbmTempRead t => execHbmTempRead_memWf t s
  | .hbmRefresh => execHbmRefresh_memWf s
  | .arbitrationWindow => execArbitrationWindow_memWf s
  | .pprSoft who v spare => execPprSoft_memWf who v spare s
  | .pprHard who v spare => execPprHard_memWf who v spare s
  | .pprDone clean => execPprDone_memWf clean s
  | .bdpRead who v => execBdpRead_memWf who v s
  | .bdpWrite who v => execBdpWrite_memWf who v s
  | .bdpStage who v => execBdpStage_memWf who v s
  | .bdpDataRead who => execBdpDataRead_memWf who s
  | .bdpDone => execBdpDone_memWf s
  | .scrubRead upset newer => execScrubRead_memWf upset newer s
  | .scrubLapStart => execScrubLapStart_memWf s
  | .sramScrubStep region bits newer spot => execSramScrubStep_memWf region bits newer spot s
  | .shaleEnable who v => execShaleEnable_memWf who v s
  | .shaleDisable who v => execShaleDisable_memWf who v s
  | .shaleDrainDone => execShaleDrainDone_memWf s
  | .shaleInvRange who v => execShaleInvRange_memWf who v s
  | .shaleInvAll who v => execShaleInvAll_memWf who v s
  | .shaleFill who v => execShaleFill_memWf who v s
  | .shaleOpDone => execShaleOpDone_memWf s
  | .shaleLock who v => execShaleLock_memWf who v s
  | .lockstepMismatch p => execLockstepMismatch_memWf p s
  | .pairRestart who v => execPairRestart_memWf who v s
  | .pairRestartDone p => execPairRestartDone_memWf p s
  | .heartbeat who p => execHeartbeat_memWf who p s
  | .heartbeatConfig who p v => execHeartbeatConfig_memWf who p v s
  | .heartbeatMiss p => execHeartbeatMiss_memWf p s
  | .watchdogRestart who => execWatchdogRestart_memWf who s
  | .deviceResetRequest who p v => execDeviceResetRequest_memWf who p v s
  | .keyStuckTimeout p => execKeyStuckTimeout_memWf p s
  | .translate st iova write k => execTranslate_memWf st iova write k s
  | .streamConfig who p st v => execStreamConfig_memWf who p st v s
  | .streamFaultClear who p st => execStreamFaultClear_memWf who p st s
  | .iotlbInvAll who p => execIotlbInvAll_memWf who p s
  | .iotlbInvStream who p st => execIotlbInvStream_memWf who p st s
  | .iotlbInvPage who p st => execIotlbInvPage_memWf who p st s
  | .iotlbInvDone => execIotlbInvDone_memWf s
  | .faultPop who p => execFaultPop_memWf who p s
  | .interruptClaim who p c => execInterruptClaim_memWf who p c s
  | .interruptComplete who p c v => execInterruptComplete_memWf who p c v s
  | .machineTimerInterrupt p => execMachineTimerInterrupt_memWf p s
  | .mailboxPush who m far v => execMailboxPush_memWf who m far v s
  | .mailboxPop who m far => execMailboxPop_memWf who m far s
  | .doorbellSet who m far v => execDoorbellSet_memWf who m far v s
  | .mailboxAcknowledge who m far v => execMailboxAcknowledge_memWf who m far v s
  | .mailboxRequestTimeout m far => execMailboxRequestTimeout_memWf m far s
  | .workRead who n k => execWorkRead_memWf who n k s
  | .workWriteRun who n k => execWorkWriteRun_memWf who n k s
  | .workLadder who n k => execWorkLadder_memWf who n k s
  | .workSurvey who n k => execWorkSurvey_memWf who n k s
  | .workFormat who n k => execWorkFormat_memWf who n k s
  | .workDispatch n => execWorkDispatch_memWf n s
  | .nop n => execNop_memWf n s
  | .alu n gd ga gb fn => execAlu_memWf n gd ga gb fn s
  | .addi n gd ga imm => execAddi_memWf n gd ga imm s
  | .lui n gd imm => execLui_memWf n gd imm s
  | .branch n cond ga target => execBranch_memWf n cond ga target s
  | .call n target => execCall_memWf n target s
  | .returnOp n => execReturn_memWf n s
  | .towpathRead n gd ga imm => execTowpathRead_memWf n gd ga imm s
  | .towpathWrite n gs ga imm => execTowpathWrite_memWf n gs ga imm s
  | .scratchLoad n gd ga imm => execScratchLoad_memWf n gd ga imm s
  | .scratchStore n gs ga imm => execScratchStore_memWf n gs ga imm s
  | .nano n naddr ga gb cnt rom frames upset => execNano_memWf n naddr ga gb cnt rom frames upset s
  | .wait n event limit set => execWait_memWf n event limit set s
  | .waitLimitExpiry n => execWaitLimitExpiry_memWf n s
  | .routine n id => execRoutine_memWf n id s
  | .commitTowpath n ga gb => execCommitTowpath_memWf n ga gb s
  | .commitContext n ga gb retry => execCommitContext_memWf n ga gb retry s
  | .commitDone n ga gb => execCommitDone_memWf n ga gb s
  | .commitMark n ga gb => execCommitMark_memWf n ga gb s
  | .returnFromEvent n => execReturnFromEvent_memWf n s
  | .sequencerFault n illegal => execSequencerFault_memWf n illegal s
  | .sequencerGateAbandon a => execSequencerGateAbandon_memWf a s
  | .sequencerHandover n => execSequencerHandover_memWf n s
  | .sequencerAbort who n => execSequencerAbort_memWf who n s
  | .sequencerRestart n by_ => execSequencerRestart_memWf n by_ s
  | .patchLoad n images => execPatchLoad_memWf n images s
  | .channelStart who k v => execChannelStart_memWf who k v s
  | .channelDisable who k => execChannelDisable_memWf who k s
  | .channelDrained k => execChannelDrained_memWf k s
  | .burstIssue => execBurstIssue_memWf s
  | .beatReadResponse k => execBeatReadResponse_memWf k s
  | .beatWriteResponse k => execBeatWriteResponse_memWf k s
  | .requestEdge l => execRequestEdge_memWf l s
  | .softwareRequest who lines => execSoftwareRequest_memWf who lines s
  | .generalTimerExpiry t => execGeneralTimerExpiry_memWf t s
  | .segmentAdjust who g adj => execSegmentAdjust_memWf who g adj s
  | .segmentClear who g => execSegmentClear_memWf who g s
  | .rawBlockOp who port v upset => execRawBlockOp_memWf who port v upset s
  | .coreBlockDone core => execCoreBlockDone_memWf core s
  | .keyStage who v => execKeyStage_memWf who v s
  | .keyLoad who slot => execKeyLoad_memWf who slot s
  | .keyZero who slot => execKeyZero_memWf who slot s
  | .authUnitOpen who u => execAuthUnitOpen_memWf who u s
  | .authUnitCompare who u tlen => execAuthUnitCompare_memWf who u tlen s
  | .authUnitClose who u => execAuthUnitClose_memWf who u s
  | .authTagWrite who u j v => execAuthTagWrite_memWf who u j v s
  | .authDataRead who u => execAuthDataRead_memWf who u s
  | .laneBlockLock lane => execLaneBlockLock_memWf lane s
  | .laneLockLoss lane => execLaneLockLoss_memWf lane s
  | .alignBlock lane counter => execAlignBlock_memWf lane counter s
  | .alignSend => execAlignSend_memWf s
  | .helloFrame len frame => execHelloFrame_memWf len frame s
  | .helloTimer => execHelloTimer_memWf s
  | .ackFrame len frame => execAckFrame_memWf len frame s
  | .nakFrame len frame => execNakFrame_memWf len frame s
  | .retransmitTimeout => execRetransmitTimeout_memWf s
  | .ackKeepalive => execAckKeepalive_memWf s
  | .peerTimeout => execPeerTimeout_memWf s
  | .planFrame len frame => execPlanFrame_memWf len frame s
  | .planAckFrame len frame => execPlanAckFrame_memWf len frame s
  | .tenantFrame len frame => execTenantFrame_memWf len frame s
  | .itemBeginFrame len frame => execItemBeginFrame_memWf len frame s
  | .dataFrame len frame => execDataFrame_memWf len frame s
  | .itemEndFrame len frame => execItemEndFrame_memWf len frame s
  | .itemAbortFrame len frame => execItemAbortFrame_memWf len frame s
  | .itemReadbackDone t kind id ofs lost => execItemReadbackDone_memWf t kind id ofs lost s
  | .verifiedFrame len frame => execVerifiedFrame_memWf len frame s
  | .historyFrame len frame => execHistoryFrame_memWf len frame s
  | .stopFrame len frame => execStopFrame_memWf len frame s
  | .endFrame len frame => execEndFrame_memWf len frame s
  | .exportGranuleRead lost => execExportGranuleRead_memWf lost s
  | .sessionGo who => execSessionGo_memWf who s
  | .sessionStop who => execSessionStop_memWf who s
  | .sessionDrained => execSessionDrained_memWf s
  | .faultLatch src cls holds => execFaultLatch_memWf src cls holds s
  | .faultPinPulseEnd => execFaultPinPulseEnd_memWf s
  | .faultPinHold who p v => execFaultPinHold_memWf who p v s
  | .faultClear who p hiWord v => execFaultClear_memWf who p hiWord v s
  | .fatalClearDone parityOk => execFatalClearDone_memWf parityOk s
  | .graceExpiry acts => execGraceExpiry_memWf acts s
  | .heldTakeoutIssue => execHeldTakeoutIssue_memWf s
  | .keystoneBackstop => execKeystoneBackstop_memWf s
  | .tollgateSelfCheck error => execTollgateSelfCheck_memWf error s
  | .tollgateArmed => execTollgateArmed_memWf s
  | .injectArm who p count nbits src => execInjectArm_memWf who p count nbits src s
  | .injectDisarm who p => execInjectDisarm_memWf who p s
  | .minuteTick => execMinuteTick_memWf s
  | .cairnRestore reserveOk => execCairnRestore_memWf reserveOk s
  | .logFreeze who v => execLogFreeze_memWf who v s
  | .logUnfreeze who v => execLogUnfreeze_memWf who v s
  | .freezeTimeout => execFreezeTimeout_memWf s
  | .sbWindowHeadRead => execSbWindowHeadRead_memWf s
  | .sbWindowAdvance => execSbWindowAdvance_memWf s
  | .persistTimer => execPersistTimer_memWf s
  | .persistGo who v => execPersistGo_memWf who v s
  | .persistDone ok => execPersistDone_memWf ok s
  | .logRelease who v => execLogRelease_memWf who v s
  | .releaseApplied => execReleaseApplied_memWf s
  | .fwRecordStage who v => execFwRecordStage_memWf who v s
  | .fwRecordWrite who v => execFwRecordWrite_memWf who v s
  | .sliceClock n a b => execSliceClock_memWf n a b s
  | .rstNRelease bootcfg sbAddr => execRstNRelease_memWf bootcfg sbAddr s
  | .wakeMaxExpiry => execWakeMaxExpiry_memWf s
  | .nvmeDeleteIoQueue k cq qid => execNvmeDeleteIoQueue_memWf k cq qid s
  | .nvmeAbort k sq cid => execNvmeAbort_memWf k sq cid s
  | .nvmeSetFeatures k fid value => execNvmeSetFeatures_memWf k fid value s
  | .nvmeGetFeatures k fid => execNvmeGetFeatures_memWf k fid s
  | .nvmeAsyncEventRequest k => execNvmeAsyncEventRequest_memWf k s

/-! ### The fuses -/

/-- Slot `b` shows burned what slot `a` shows burned. -/
def KeySlot.BurnedIn (a b : KeySlot) : Prop :=
  (a.revoked = true → b.revoked = true) ∧ (a.programmed = true → b.programmed = true)

theorem KeySlot.burnedIn_refl (a : KeySlot) : a.BurnedIn a := ⟨id, id⟩

theorem burn_burnedIn (o : FuseOp) (k : KeySlot) (matched : Bool) : k.BurnedIn (o.burn k matched).1 := by
  unfold FuseOp.burn KeySlot.BurnedIn
  split_ifs <;> simp

theorem fuseSlot_congr {s t : State} (h : t.sys.fuses = s.sys.fuses) (k : Nat) : t.fuseSlot k = s.fuseSlot k := by
  rw [State.fuseSlot, h, State.fuseSlot]

theorem fusesStay_of_eq {s t : State} (h : t.sys.fuses = s.sys.fuses) : FusesStay s t := by
  intro k
  rw [fuseSlot_congr h]
  exact (s.fuseSlot k).burnedIn_refl

/-- Slots of which one alone is written, with all that it showed burned. -/
theorem fusesStay_of_set {s t : State} {j : Nat} {b : KeySlot} (h : t.sys.fuses.slots = s.sys.fuses.slots.set j b)
    (hb : (s.fuseSlot j).BurnedIn b) : FusesStay s t := by
  intro k
  by_cases hk : j = k ∧ j < s.sys.fuses.slots.length
  · obtain ⟨rfl, hj⟩ := hk
    have hslot : t.fuseSlot j = b := by simp [State.fuseSlot, h, hj]
    rw [hslot]
    exact hb
  · have hslot : t.fuseSlot k = s.fuseSlot k := by
      rw [not_and_or] at hk
      rcases hk with hk | hk
      · rw [State.fuseSlot, h, List.getElem?_set_ne hk, State.fuseSlot]
      · rw [State.fuseSlot, h, List.set_eq_of_length_le (Nat.not_lt.mp hk), State.fuseSlot]
    rw [hslot]
    exact (s.fuseSlot k).burnedIn_refl

/-- A fuse operation's end writes its own slot alone: as it was when the operation was refused, else burned further. -/
theorem execFuseOpDone_fusesStay {m : Bool} {s t : State} (h : exec (.fuseOpDone m) s = .next t) : FusesStay s t := by
  replace h : execFuseOpDone m s = .next t := h
  unfold execFuseOpDone at h
  split at h
  · cases h; exact fusesStay_of_eq rfl
  · next o _ =>
    cases h
    refine fusesStay_of_set (j := o.slot) (b := (match o.refused with
      | some c => (s.keySlotAt o.slot, c)
      | none => o.burn (s.keySlotAt o.slot) m).1) rfl ?_
    split
    · exact (s.keySlotAt o.slot).burnedIn_refl
    · exact burn_burnedIn o (s.keySlotAt o.slot) m

theorem exec_fusesStay {c : Instr} {s t : State} (h : exec c s = .next t) : FusesStay s t := by
  by_cases hc : ∃ m, c = .fuseOpDone m
  · obtain ⟨m, rfl⟩ := hc
    exact execFuseOpDone_fusesStay h
  · obtain ⟨u, hexec, -, hfuses⟩ := exec_keepsQueueAndFuses c s
    obtain rfl : u = t := by simpa [hexec] using h
    exact fusesStay_of_eq (hfuses (not_exists.mp hc))

/-! ### Steps -/

theorem step_of_empty {s : State} (h : s.pending = []) : step s = .next s.tick := by
  unfold step; rw [h]

theorem step_of_cons {s : State} {c : Instr} {rest : List Instr} (h : s.pending = c :: rest) :
    step s = exec c { s with pending := rest } := by
  unfold step; rw [h]

/-- Settles O1: `step` takes the queue's front. -/
theorem stepRunsTheFrontCommand : Obligations.StepRunsTheFrontCommand := fun _ _ => step_of_cons rfl

/-- Settles O2: with an empty queue a step is a tick. -/
theorem emptyQueueTicks : Obligations.EmptyQueueTicks := fun _ h => step_of_empty h

/-- Settles O3: a tick completes, and so does every command. -/
theorem everyStepIsSafe : Obligations.EveryStepIsSafe := by
  intro s
  rcases hq : s.pending with _ | ⟨c, rest⟩
  · exact ⟨_, step_of_empty hq⟩
  · obtain ⟨t, hexec, -⟩ := exec_keepsQueueAndFuses c { s with pending := rest }
    exact ⟨t, (step_of_cons hq).trans hexec⟩

/-- Settles O4: a tick writes no memory, and every command keeps the canonical form. -/
theorem everyStepKeepsMemoryCanonical : Obligations.EveryStepKeepsMemoryCanonical := by
  intro s t hs hstep
  rcases hq : s.pending with _ | ⟨c, rest⟩
  · rw [step_of_empty hq] at hstep
    cases hstep; exact hs
  · obtain ⟨u, hexec, hwf⟩ := exec_memWf c { s with pending := rest }
    rw [step_of_cons hq, hexec] at hstep
    cases hstep; exact hwf hs

/-- Settles O5: no meaning writes the queue. -/
theorem commandsLeaveTheQueue : Obligations.CommandsLeaveTheQueue := by
  intro c s t h
  obtain ⟨u, hexec, hpending, -⟩ := exec_keepsQueueAndFuses c s
  rw [hexec] at h
  cases h; exact hpending

/-- Settles O6: the end of a fuse operation burns its slot further or leaves it, and no other command writes a fuse. -/
theorem burnedFusesStayBurned : Obligations.BurnedFusesStayBurned := by
  intro s t hstep
  rcases hq : s.pending with _ | ⟨c, rest⟩
  · rw [step_of_empty hq] at hstep
    cases hstep; exact fusesStay_of_eq rfl
  · rw [step_of_cons hq] at hstep
    exact exec_fusesStay (s := { s with pending := rest }) hstep

end Sys2Proof.Machine
end
section
/-!
Reading rules for the effects of commands: what a field, a flag and a READY bit read after the named writes, and which
registers a chain of writes may have changed.
-/

namespace Sys2Proof.Machine

/-- A command that answers a state of which `P` holds completes with `P`. -/
theorem completes_of_next {c : Instr} {s t : State} {P : State → Prop} (h : exec c s = .next t) (hP : P t) :
    Completes c s P := ⟨t, h, hP⟩

/-! ### Fields -/

@[simp] theorem rf_wf_same (s : State) (o v : Nat) {hi lo : Nat} (h1 : lo ≤ hi) (h2 : hi < 32) :
    (s.wf o ⟨hi, lo⟩ v).rf o ⟨hi, lo⟩ = v % 2 ^ (hi + 1 - lo) := rf_wf_self s o ⟨hi, lo⟩ v ⟨h1, h2⟩

@[simp] theorem rf_wf_other (s : State) (o v : Nat) {hi lo hi' lo' : Nat} (h1 : lo ≤ hi) (h2 : hi < 32)
    (h3 : hi < lo' ∨ hi' < lo) : (s.wf o ⟨hi, lo⟩ v).rf o ⟨hi', lo'⟩ = s.rf o ⟨hi', lo'⟩ :=
  rf_wf_apart s o _ _ v ⟨h1, h2⟩ h3

@[simp] theorem rf_wf_elsewhere (s : State) (f g : Fld) (v : Nat) {o j : Nat} (h : j ≠ o) :
    (s.wf o f v).rf j g = s.rf j g := rf_wf_ne s o j f g v h

@[simp] theorem flag_wf_same (s : State) (o v : Nat) {b : Nat} (h : b < 32) :
    (s.wf o ⟨b, b⟩ v).flag o ⟨b, b⟩ = decide (v % 2 = 1) := by
  simp [State.flag, h]

@[simp] theorem flag_wf_other (s : State) (o v : Nat) {hi lo hi' lo' : Nat} (h1 : lo ≤ hi) (h2 : hi < 32)
    (h3 : hi < lo' ∨ hi' < lo) : (s.wf o ⟨hi, lo⟩ v).flag o ⟨hi', lo'⟩ = s.flag o ⟨hi', lo'⟩ := by
  simp [State.flag, h1, h2, h3]

@[simp] theorem flag_wf_elsewhere (s : State) (f g : Fld) (v : Nat) {o j : Nat} (h : j ≠ o) :
    (s.wf o f v).flag j g = s.flag j g := by simp [State.flag, h]

@[simp] theorem flag_raise_same (s : State) (o : Nat) {b : Nat} (h : b < 32) :
    (s.raise o ⟨b, b⟩).flag o ⟨b, b⟩ = true := by simp [State.raise, h]

@[simp] theorem flag_raise_other (s : State) (o : Nat) {hi lo hi' lo' : Nat} (h1 : lo ≤ hi) (h2 : hi < 32)
    (h3 : hi < lo' ∨ hi' < lo) : (s.raise o ⟨hi, lo⟩).flag o ⟨hi', lo'⟩ = s.flag o ⟨hi', lo'⟩ :=
  flag_wf_other s o 1 h1 h2 h3

@[simp] theorem flag_raise_elsewhere (s : State) (f g : Fld) {o j : Nat} (h : j ≠ o) :
    (s.raise o f).flag j g = s.flag j g := flag_wf_elsewhere s f g 1 h

@[simp] theorem rf_raise_same (s : State) (o : Nat) {b : Nat} (h : b < 32) :
    (s.raise o ⟨b, b⟩).rf o ⟨b, b⟩ = 1 := by simp [State.raise, h]

@[simp] theorem rf_raise_other (s : State) (o : Nat) {hi lo hi' lo' : Nat} (h1 : lo ≤ hi) (h2 : hi < 32)
    (h3 : hi < lo' ∨ hi' < lo) : (s.raise o ⟨hi, lo⟩).rf o ⟨hi', lo'⟩ = s.rf o ⟨hi', lo'⟩ :=
  rf_wf_other s o 1 h1 h2 h3

@[simp] theorem rf_raise_elsewhere (s : State) (f g : Fld) {o j : Nat} (h : j ≠ o) :
    (s.raise o f).rf j g = s.rf j g := rf_wf_elsewhere s f g 1 h

@[simp] theorem rf_wr_same (s : State) (o : Nat) (w : Word) (g : Fld) : (s.wr o w).rf o g = fget w g := rf_wr_self s o w g

@[simp] theorem rf_wr_elsewhere (s : State) (w : Word) (g : Fld) {o j : Nat} (h : j ≠ o) :
    (s.wr o w).rf j g = s.rf j g := rf_wr_ne s o j w g h

@[simp] theorem flag_wr_same (s : State) (o : Nat) (w : Word) (g : Fld) :
    (s.wr o w).flag o g = decide (fget w g = 1) := by simp [State.flag]

@[simp] theorem flag_wr_elsewhere (s : State) (w : Word) (g : Fld) {o j : Nat} (h : j ≠ o) :
    (s.wr o w).flag j g = s.flag j g := by simp [State.flag, h]

@[simp] theorem fget_fset_same (w : Word) (v : Nat) {hi lo : Nat} (h1 : lo ≤ hi) (h2 : hi < 32) :
    fget (fset w ⟨hi, lo⟩ v) ⟨hi, lo⟩ = v % 2 ^ (hi + 1 - lo) := fget_fset w ⟨hi, lo⟩ v ⟨h1, h2⟩

@[simp] theorem fget_fset_other (w : Word) (v : Nat) {hi lo hi' lo' : Nat} (h1 : lo ≤ hi) (h2 : hi < 32)
    (h3 : hi < lo' ∨ hi' < lo) : fget (fset w ⟨hi, lo⟩ v) ⟨hi', lo'⟩ = fget w ⟨hi', lo'⟩ :=
  fget_fset_apart w _ _ v ⟨h1, h2⟩ h3

@[simp] theorem fget_bit_mod_two (w : Word) (b : Nat) : fget w ⟨b, b⟩ % 2 = fget w ⟨b, b⟩ := by
  have h := fget_lt w ⟨b, b⟩
  rw [Nat.add_sub_cancel_left] at h
  exact Nat.mod_eq_of_lt h

/-- A field taken over from another word. -/
@[simp] theorem fget_fset_fget (w v : Word) {hi lo : Nat} (h1 : lo ≤ hi) (h2 : hi < 32) :
    fget (fset w ⟨hi, lo⟩ (fget v ⟨hi, lo⟩)) ⟨hi, lo⟩ = fget v ⟨hi, lo⟩ := by
  rw [fget_fset_same w _ h1 h2]
  exact Nat.mod_eq_of_lt (fget_lt v _)

/-- A field of a register of which the same word is read. -/
theorem rf_congr {s t : State} {o : Nat} (h : t.rd o = s.rd o) (f : Fld) : t.rf o f = s.rf o f := by
  rw [State.rf, h, State.rf]

theorem flag_congr {s t : State} {o : Nat} (h : t.rd o = s.rd o) (f : Fld) : t.flag o f = s.flag o f := by
  rw [State.flag, rf_congr h, State.flag]

theorem flag_eq_true_iff (s : State) (o : Nat) (f : Fld) : s.flag o f = true ↔ s.rf o f = 1 := by simp [State.flag]

theorem rf_lt (s : State) (o : Nat) (f : Fld) : s.rf o f < 2 ^ (f.hi + 1 - f.lo) := fget_lt _ f

@[simp] theorem rf_bit_mod_two (s : State) (o b : Nat) : s.rf o ⟨b, b⟩ % 2 = s.rf o ⟨b, b⟩ := by
  have h := rf_lt s o ⟨b, b⟩
  rw [Nat.add_sub_cancel_left] at h
  exact Nat.mod_eq_of_lt h

@[simp] theorem b2n_true : b2n true = 1 := (rfl)

@[simp] theorem b2n_false : b2n false = 0 := (rfl)

@[simp] theorem b2n_mod_two (b : Bool) : b2n b % 2 = b2n b := by cases b <;> rfl

@[simp] theorem b2n_eq_one (b : Bool) : b2n b = 1 ↔ b = true := by cases b <;> decide

@[simp] theorem b2n_flag (s : State) (o b : Nat) : b2n (s.flag o ⟨b, b⟩) = s.rf o ⟨b, b⟩ := by
  have h := rf_lt s o ⟨b, b⟩
  rw [Nat.add_sub_cancel_left] at h
  obtain h0 | h1 : s.rf o ⟨b, b⟩ = 0 ∨ s.rf o ⟨b, b⟩ = 1 := by omega
  · simp [State.flag, h0]
  · simp [State.flag, h1]

/-! ### A write of a register's fields -/

theorem writeFields_of_findReg {s : State} {o : Nat} {d : RegDesc} {l : List Nat} (h : findReg o = some (d, l))
    (v : Word) : s.writeFields o v = if legalFields d v then s.wr o (applyFields d (s.rd o) v) else s := by
  rw [State.writeFields, h]

theorem fget_le (v : Word) (f : Fld) : fget v f ≤ 0xFFFFFFFF := by
  have h1 : fget v f ≤ v.toNat >>> f.lo := Nat.mod_le _ _
  have h2 : v.toNat >>> f.lo ≤ v.toNat := by rw [Nat.shiftRight_eq_div_pow]; exact Nat.div_le_self _ _
  have h3 := v.isLt
  omega

/-- A field without limits takes what is written. -/
@[simp] theorem storedOf_fd (hi lo : Nat) (a : Acc) (rst : Nat) (v : Word) (g : Fld) :
    storedOf (fd hi lo a rst) (fget v g) = fget v g := by
  simp [storedOf, clampNat, fd, Nat.not_lt.mpr (fget_le v g)]

/-- Where no field of a register is limited, no word is refused. -/
theorem legalFields_of_unlimited {d : RegDesc} (h : (d.fields.all fun f => f.vmin = 0 && f.vmax = 0xFFFFFFFF) = true)
    (v : Word) : legalFields d v = true := by
  rw [legalFields, List.all_eq_true]
  intro f hf
  obtain ⟨hmin, hmax⟩ := (Bool.and_eq_true _ _).mp (List.all_eq_true.mp h f hf)
  have hmin' := of_decide_eq_true hmin
  have hmax' := of_decide_eq_true hmax
  cases f.acc <;> simp [hmin', hmax', fget_le]

/-! What a write does to one field, by the way the field is accessed. -/

section
variable (v old : Word) (hi lo rst : Nat)

@[simp] theorem fieldWrite_rw : fieldWrite v old (fd hi lo .rw rst) = fset old ⟨hi, lo⟩ (fget v ⟨hi, lo⟩) := by
  rw [← storedOf_fd hi lo .rw rst]
  rfl

@[simp] theorem fieldWrite_fc (cmin cmax : Nat) :
    fieldWrite v old (fc hi lo .rw rst cmin cmax) = fset old ⟨hi, lo⟩ (clampNat cmin cmax (fget v ⟨hi, lo⟩)) := (rfl)

@[simp] theorem fieldWrite_fv (vmin vmax : Nat) :
    fieldWrite v old (fv hi lo .rw rst vmin vmax) = fset old ⟨hi, lo⟩ (fget v ⟨hi, lo⟩) :=
  fieldWrite_rw v old hi lo rst

@[simp] theorem fieldWrite_ro : fieldWrite v old (fd hi lo .ro rst) = old := (rfl)

@[simp] theorem fieldWrite_wo : fieldWrite v old (fd hi lo .wo rst) = old := (rfl)

@[simp] theorem fieldWrite_w1c : fieldWrite v old (fd hi lo .w1c rst) =
    fset old ⟨hi, lo⟩ (fget old ⟨hi, lo⟩ - (fget old ⟨hi, lo⟩ &&& fget v ⟨hi, lo⟩)) := (rfl)

@[simp] theorem fieldWrite_w1s : fieldWrite v old (fd hi lo .w1s rst) =
    fset old ⟨hi, lo⟩ (fget old ⟨hi, lo⟩ ||| fget v ⟨hi, lo⟩) := (rfl)

@[simp] theorem applyFields_nil (b : Nat) (l : List (Nat × Nat)) : applyFields ⟨b, l, []⟩ old v = old := (rfl)

@[simp] theorem applyFields_cons (b : Nat) (l : List (Nat × Nat)) (f : FieldDesc) (fs : List FieldDesc) :
    applyFields ⟨b, l, f :: fs⟩ old v = applyFields ⟨b, l, fs⟩ (fieldWrite v old f) v := (rfl)

end

theorem rd_writeFields_ne (s : State) (v : Word) {o j : Nat} (h : j ≠ o) : (s.writeFields o v).rd j = s.rd j := by
  unfold State.writeFields
  split
  · rfl
  · split_ifs
    · exact rd_wr_ne s _ h
    · rfl

@[simp] theorem writeFields_crn (s : State) (o : Nat) (v : Word) : (s.writeFields o v).crn = s.crn := by
  unfold State.writeFields
  split
  · rfl
  · split_ifs <;> rfl

/-! ### Readiness -/

@[simp] theorem ready_wr (s : State) (r : Ready) (v : Word) {o : Nat} (h : o ≠ R.SYS_READY) :
    (s.wr o v).ready r = s.ready r := ready_congr r (rd_wr_ne s v (Ne.symm h))

@[simp] theorem ready_wf (s : State) (r : Ready) (f : Fld) (v : Nat) {o : Nat} (h : o ≠ R.SYS_READY) :
    (s.wf o f v).ready r = s.ready r := ready_wr s r _ h

@[simp] theorem ready_raise (s : State) (r : Ready) (f : Fld) {o : Nat} (h : o ≠ R.SYS_READY) :
    (s.raise o f).ready r = s.ready r := ready_wr s r _ h

@[simp] theorem rf_setReady (s : State) (r : Ready) (v : Bool) (f : Fld) {o : Nat} (h : o ≠ R.SYS_READY)
    (h2 : o ≠ R.SYS_READY_CHG) : (s.setReady r v).rf o f = s.rf o f := rf_congr (rd_setReady_ne s r v o h h2) f

@[simp] theorem flag_setReady (s : State) (r : Ready) (v : Bool) (f : Fld) {o : Nat} (h : o ≠ R.SYS_READY)
    (h2 : o ≠ R.SYS_READY_CHG) : (s.setReady r v).flag o f = s.flag o f := flag_congr (rd_setReady_ne s r v o h h2) f

/-- A READY bit that stands as it is set leaves everything as it was. -/
theorem setReady_of_eq {s : State} {r : Ready} {v : Bool} (h : s.ready r = v) : s.setReady r v = s := if_pos h

/-! ### Writers -/

@[simp] theorem pairMachine_machine (i : Initiator) : pairMachine i .machine = isPair i := by simp [pairMachine]

theorem isKeystone_of_isPair {i : Initiator} (h : isPair i = true) : isKeystone i = false := by
  cases i with
  | keystone => exact absurd h (by decide)
  | _ => rfl

@[simp] theorem tgtWriter_machine (i : Initiator) : tgtWriter i .machine = (isPair i || isKeystone i) := by
  simp [tgtWriter]

/-! ### The mode -/

@[simp] theorem mode_wr (s : State) (v : Word) {o : Nat} (h : R.SYS_MODE ≠ o) : (s.wr o v).mode = s.mode :=
  rf_wr_elsewhere s v _ h

@[simp] theorem mode_wf (s : State) (f : Fld) (v : Nat) {o : Nat} (h : R.SYS_MODE ≠ o) : (s.wf o f v).mode = s.mode :=
  rf_wf_elsewhere s f _ v h

@[simp] theorem mode_raise (s : State) (f : Fld) {o : Nat} (h : R.SYS_MODE ≠ o) : (s.raise o f).mode = s.mode :=
  rf_wf_elsewhere s f _ 1 h

/-! ### Which registers may have changed -/

section
variable {l : List Nat} {s t : State} {o : Nat}

@[simp] theorem onlyRegs_refl (l : List Nat) (s : State) : OnlyRegs l s s := ⟨fun _ _ => rfl, fun _ => rfl⟩

@[simp] theorem sameRegs_refl (s : State) : SameRegs s s := onlyRegs_refl [] s

/-- Registers and memory that are the same stand for one another. -/
theorem onlyRegs_congr {u : State} (hregs : u.regs = t.regs) (hmem : u.mem = t.mem) :
    OnlyRegs l s u ↔ OnlyRegs l s t := by
  simp only [OnlyRegs, rd_congr hregs, byte_congr hmem]

theorem sameRegs_of_eq (hregs : t.regs = s.regs) (hmem : t.mem = s.mem) : SameRegs s t :=
  (onlyRegs_congr hregs hmem).mpr (sameRegs_refl s)

theorem OnlyRegs.trans {u : State} (h1 : OnlyRegs l s t) (h2 : OnlyRegs l t u) : OnlyRegs l s u :=
  ⟨fun o ho => (h2.1 o ho).trans (h1.1 o ho), fun a => (h2.2 a).trans (h1.2 a)⟩

theorem OnlyRegs.mono {l' : List Nat} (h : OnlyRegs l s t) (hl : ∀ o ∈ l, o ∈ l') : OnlyRegs l' s t :=
  ⟨fun o ho => h.1 o fun hm => ho (hl o hm), h.2⟩

@[simp] theorem onlyRegs_wr (h : o ∈ l) (v : Word) : OnlyRegs l s (t.wr o v) ↔ OnlyRegs l s t := by
  have hrd : ∀ j, j ∉ l → (t.wr o v).rd j = t.rd j := fun j hj => rd_wr_ne t v fun e => hj (e ▸ h)
  simp only [OnlyRegs, byte_wr, and_congr_left_iff]
  exact fun _ => forall₂_congr fun j hj => by rw [hrd j hj]

@[simp] theorem onlyRegs_wf_iff (h : o ∈ l) (f : Fld) (v : Nat) : OnlyRegs l s (t.wf o f v) ↔ OnlyRegs l s t :=
  onlyRegs_wr h _

@[simp] theorem onlyRegs_raise (h : o ∈ l) (f : Fld) : OnlyRegs l s (t.raise o f) ↔ OnlyRegs l s t := onlyRegs_wr h _

@[simp] theorem onlyRegs_countUp (h : o ∈ l) (f : Fld) (n : Nat) : OnlyRegs l s (t.countUp o f n) ↔ OnlyRegs l s t :=
  onlyRegs_wr h _

@[simp] theorem onlyRegs_orReg (h : o ∈ l) (m : Nat) : OnlyRegs l s (t.orReg o m) ↔ OnlyRegs l s t := onlyRegs_wr h _

@[simp] theorem onlyRegs_writeFields (h : o ∈ l) (v : Word) : OnlyRegs l s (t.writeFields o v) ↔ OnlyRegs l s t := by
  unfold State.writeFields
  split
  · exact Iff.rfl
  · split_ifs
    · exact onlyRegs_wr h _
    · exact Iff.rfl

@[simp] theorem onlyRegs_emit (x : Out) : OnlyRegs l s (t.emit x) ↔ OnlyRegs l s t := Iff.rfl

@[simp] theorem onlyRegs_answer (v : Word) : OnlyRegs l s (t.answer v) ↔ OnlyRegs l s t := Iff.rfl

@[simp] theorem onlyRegs_free (w : Nat) : OnlyRegs l s (t.free w).2 ↔ OnlyRegs l s t := Iff.rfl

@[simp] theorem onlyRegs_setReady (h : R.SYS_READY ∈ l) (h2 : R.SYS_READY_CHG ∈ l) (r : Ready) (v : Bool) :
    OnlyRegs l s (t.setReady r v) ↔ OnlyRegs l s t := by
  unfold State.setReady
  split
  · exact Iff.rfl
  · rw [onlyRegs_orReg h2, onlyRegs_wf_iff h]

@[simp] theorem sameRegs_emit (x : Out) : SameRegs s (t.emit x) ↔ SameRegs s t := Iff.rfl

@[simp] theorem sameRegs_answer (v : Word) : SameRegs s (t.answer v) ↔ SameRegs s t := Iff.rfl

@[simp] theorem sameRegs_free (w : Nat) : SameRegs s (t.free w).2 ↔ SameRegs s t := Iff.rfl

end

/-! ### Other parts of the state replaced -/

section
variable (now' fresh' : Nat) (resp' : Word) (out' : List Out) (sys' : SysState) (kenul' : Option Kenul) (slotA'
    slotB' : Option SlotResult) (tgt' : TgtState) (crn' : CrnState) (patchQueue' : List Nat) (hpA' hpB' : HostGroup)
    (sb' : SidebandState) (cmd' : CmdState) (way' : WayState) (sigEvents' : List Nat) (lode' : LodeState) (qry' :
    QryState) (bed' : BedState) (trn' : TurnState) (pair' : PairState) (bas' : BasState) (acts' : List ActState)
    (mil' : MilState) (bls' : BlsState) (obs' : ObsState) (car' : CarState) (csw' : CswState) (str' : List SeqState)
    (keyRam' : List Host.Cell) (crossHeld' : List (Island × Island × Nat)) (resv' : List (Nat × Nat)) (pending' :
    List Instr) (mem' : List Host.Cell)

@[simp] theorem mode_mk (s : State) : (State.mk s.regs mem' now' fresh' resp' out' sys' kenul' slotA' slotB' tgt'
    crn' patchQueue' hpA' hpB' sb' cmd' way' sigEvents' lode' qry' bed' trn' pair' bas' acts' mil' bls' obs' car'
    csw' str' keyRam' crossHeld' resv' pending').mode = s.mode := (rfl)

end

/-- Other parts of the state replaced leave registers and memory. -/
@[simp] theorem onlyRegs_mk (l : List Nat) (s t : State) (now' fresh' : Nat) (resp' : Word) (out' : List Out)
    (sys' : SysState) (kenul' : Option Kenul) (slotA' slotB' : Option SlotResult) (tgt' : TgtState) (crn' : CrnState)
    (patchQueue' : List Nat) (hpA' hpB' : HostGroup) (sb' : SidebandState) (cmd' : CmdState) (way' : WayState)
    (sigEvents' : List Nat) (lode' : LodeState) (qry' : QryState) (bed' : BedState) (trn' : TurnState) (pair' : PairState)
    (bas' : BasState) (acts' : List ActState) (mil' : MilState) (bls' : BlsState) (obs' : ObsState) (car' : CarState)
    (csw' : CswState) (str' : List SeqState) (keyRam' : List Host.Cell) (crossHeld' : List (Island × Island × Nat))
    (resv' : List (Nat × Nat)) (pending' : List Instr) {mem' : List Host.Cell} (h : mem' = t.mem) :
    OnlyRegs l s (State.mk t.regs mem' now' fresh' resp' out' sys' kenul' slotA' slotB' tgt' crn' patchQueue' hpA' hpB'
      sb' cmd' way' sigEvents' lode' qry' bed' trn' pair' bas' acts' mil' bls' obs' car' csw' str' keyRam' crossHeld' resv'
      pending') ↔ OnlyRegs l s t := by
  subst h; exact Iff.rfl

@[simp] theorem sameRegs_mk (s t : State) (now' fresh' : Nat) (resp' : Word) (out' : List Out)
    (sys' : SysState) (kenul' : Option Kenul) (slotA' slotB' : Option SlotResult) (tgt' : TgtState) (crn' : CrnState)
    (patchQueue' : List Nat) (hpA' hpB' : HostGroup) (sb' : SidebandState) (cmd' : CmdState) (way' : WayState)
    (sigEvents' : List Nat) (lode' : LodeState) (qry' : QryState) (bed' : BedState) (trn' : TurnState) (pair' : PairState)
    (bas' : BasState) (acts' : List ActState) (mil' : MilState) (bls' : BlsState) (obs' : ObsState) (car' : CarState)
    (csw' : CswState) (str' : List SeqState) (keyRam' : List Host.Cell) (crossHeld' : List (Island × Island × Nat))
    (resv' : List (Nat × Nat)) (pending' : List Instr) {mem' : List Host.Cell} (h : mem' = t.mem) :
    SameRegs s (State.mk t.regs mem' now' fresh' resp' out' sys' kenul' slotA' slotB' tgt' crn' patchQueue' hpA' hpB'
      sb' cmd' way' sigEvents' lode' qry' bed' trn' pair' bas' acts' mil' bls' obs' car' csw' str' keyRam' crossHeld' resv'
      pending') ↔ SameRegs s t := by
  subst h; exact Iff.rfl

end Sys2Proof.Machine
end
section
/-!
What a record leaves alone (R455), and Tollgate's latches: which source a latch or a clear changes (R442, R443).
-/

namespace Sys2Proof.Machine

/-! ### What a record changes -/

/-- The registers that Cairn's own account of an event may write (R455, R458). -/
abbrev crnRegs : List Nat := [R.CRN_EVT, R.CRN_DROPPED]

@[simp] theorem onlyRegs_startFlash (l : List Nat) (s t : State) : OnlyRegs l s t.startFlash ↔ OnlyRegs l s t := by
  unfold State.startFlash
  split_ifs <;> exact Iff.rfl

@[simp] theorem onlyRegs_flashDue (l : List Nat) (s t : State) : OnlyRegs l s t.flashDue ↔ OnlyRegs l s t := by
  rw [State.flashDue, onlyRegs_startFlash]
  exact Iff.rfl

section
variable {l : List Nat} (hevt : R.CRN_EVT ∈ l) (hdropped : R.CRN_DROPPED ∈ l)
include hevt

theorem onlyRegs_appendRec (s t : State) (r : Rec) : OnlyRegs l s (t.appendRec r) ↔ OnlyRegs l s t := by
  unfold State.appendRec
  dsimp only
  split_ifs <;> simp [hevt]

theorem onlyRegs_makeReserve (s t : State) : OnlyRegs l s t.makeReserve ↔ OnlyRegs l s t := by
  rw [State.makeReserve, onlyRegs_startFlash]
  exact onlyRegs_appendRec hevt s t _

include hdropped

theorem onlyRegs_dropEvent (s t : State) (e : Event) : OnlyRegs l s (t.dropEvent e) ↔ OnlyRegs l s t := by
  simp [State.dropEvent, hevt, hdropped]

theorem onlyRegs_holdEvent (s t : State) (e : Event) : OnlyRegs l s (t.holdEvent e) ↔ OnlyRegs l s t := by
  unfold State.holdEvent
  split_ifs
  · exact Iff.rfl
  · exact onlyRegs_dropEvent hevt hdropped s t e

theorem onlyRegs_putEvent (s t : State) (e : Event) : OnlyRegs l s (t.putEvent e) ↔ OnlyRegs l s t := by
  unfold State.putEvent
  split_ifs
  · exact onlyRegs_holdEvent hevt hdropped s t e
  · exact onlyRegs_dropEvent hevt hdropped s t e
  · exact onlyRegs_appendRec hevt s t _
  · rw [onlyRegs_holdEvent hevt hdropped, onlyRegs_makeReserve hevt]
  · exact onlyRegs_appendRec hevt s t _

theorem onlyRegs_putDropped (s t : State) : OnlyRegs l s t.putDropped ↔ OnlyRegs l s t := by
  unfold State.putDropped
  split_ifs
  · exact Iff.rfl
  · rw [onlyRegs_putEvent hevt hdropped]
    exact Iff.rfl

@[simp] theorem onlyRegs_record (s t : State) (e : Event) : OnlyRegs l s (t.record e) ↔ OnlyRegs l s t := by
  rw [State.record, onlyRegs_putEvent hevt hdropped, onlyRegs_putDropped hevt hdropped]

@[simp] theorem onlyRegs_cairn (s t : State) (cls typ origin arg : Nat) :
    OnlyRegs l s (t.cairn cls typ origin arg) ↔ OnlyRegs l s t := onlyRegs_record hevt hdropped s t _

end

theorem record_onlyRegs (s : State) (e : Event) : OnlyRegs crnRegs s (s.record e) := by simp

@[simp] theorem rd_record (s : State) (e : Event) {o : Nat} (h : o ≠ R.CRN_EVT) (h2 : o ≠ R.CRN_DROPPED) :
    (s.record e).rd o = s.rd o := (record_onlyRegs s e).1 o (by simp [h, h2])

@[simp] theorem rf_record (s : State) (e : Event) (f : Fld) {o : Nat} (h : o ≠ R.CRN_EVT) (h2 : o ≠ R.CRN_DROPPED) :
    (s.record e).rf o f = s.rf o f := rf_congr (rd_record s e h h2) f

@[simp] theorem flag_record (s : State) (e : Event) (f : Fld) {o : Nat} (h : o ≠ R.CRN_EVT) (h2 : o ≠ R.CRN_DROPPED) :
    (s.record e).flag o f = s.flag o f := flag_congr (rd_record s e h h2) f

@[simp] theorem rd_cairn (s : State) (cls typ origin arg : Nat) {o : Nat} (h : o ≠ R.CRN_EVT) (h2 : o ≠ R.CRN_DROPPED) :
    (s.cairn cls typ origin arg).rd o = s.rd o := rd_record s _ h h2

@[simp] theorem rf_cairn (s : State) (cls typ origin arg : Nat) (f : Fld) {o : Nat} (h : o ≠ R.CRN_EVT)
    (h2 : o ≠ R.CRN_DROPPED) : (s.cairn cls typ origin arg).rf o f = s.rf o f := rf_record s _ f h h2

@[simp] theorem flag_cairn (s : State) (cls typ origin arg : Nat) (f : Fld) {o : Nat} (h : o ≠ R.CRN_EVT)
    (h2 : o ≠ R.CRN_DROPPED) : (s.cairn cls typ origin arg).flag o f = s.flag o f := flag_record s _ f h h2

/-! ### Latches and classes -/

/-- Both states show the same sources latched, at the same classes. -/
def SameLatches (s t : State) : Prop := ∀ n < 52, t.latched n = s.latched n ∧ t.latchedClass n = s.latchedClass n

theorem SameLatches.refl (s : State) : SameLatches s s := fun _ _ => ⟨rfl, rfl⟩

theorem SameLatches.trans {s t u : State} (h1 : SameLatches s t) (h2 : SameLatches t u) : SameLatches s u :=
  fun n hn => ⟨(h2 n hn).1.trans (h1 n hn).1, (h2 n hn).2.trans (h1 n hn).2⟩

/-- An operation that changes no latch, carried out or not. -/
theorem sameLatches_ite {c : Prop} [Decidable c] {s t u : State} (h : SameLatches s t) (hu : SameLatches t u) :
    SameLatches s (if c then u else t) := by
  split_ifs
  · exact h.trans hu
  · exact h

/-- The registers that show latches and classes lie in two words of Tollgate's block. -/
theorem tgtStatusReg_cases (n : Nat) : tgtStatusReg n = R.TGT_STATUS_LO ∨ tgtStatusReg n = R.TGT_STATUS_HI := by
  unfold tgtStatusReg
  split_ifs
  · exact .inl rfl
  · exact .inr rfl

theorem tgtClass_ne_statusReg (k n : Nat) : R.TGT_CLASS k ≠ tgtStatusReg n := by
  rcases tgtStatusReg_cases n with h | h <;> rw [h] <;>
    simp only [R.TGT_CLASS, R.TGT_STATUS_LO, R.TGT_STATUS_HI] <;> omega

theorem sameLatches_of_rd {s t : State} (h : ∀ o, 0x100000 ≤ o → o < 0x100020 → t.rd o = s.rd o) : SameLatches s t := by
  intro n hn
  have hstatus : t.rd (tgtStatusReg n) = s.rd (tgtStatusReg n) := by
    rcases tgtStatusReg_cases n with hr | hr <;> rw [hr] <;> exact h _ (by decide) (by decide)
  have hclass : t.rd (R.TGT_CLASS (n / 16)) = s.rd (R.TGT_CLASS (n / 16)) := by
    apply h <;> unfold R.TGT_CLASS <;> omega
  exact ⟨by rw [State.latched, rf_congr hstatus, State.latched], rf_congr hclass _⟩

/-- A write outside those words. -/
theorem sameLatches_wf (s : State) {o : Nat} (ho : o < 0x100000 ∨ 0x100020 ≤ o) (f : Fld) (v : Nat) :
    SameLatches s (s.wf o f v) :=
  sameLatches_of_rd fun j h1 h2 => by rw [rd_wf, if_neg (by omega)]

theorem sameLatches_of_onlyRegs {s t : State} {l : List Nat} (h : OnlyRegs l s t)
    (hl : ∀ o ∈ l, o < 0x100000 ∨ 0x100020 ≤ o) : SameLatches s t :=
  sameLatches_of_rd fun o h1 h2 => h.1 o fun hm => by have := hl o hm; omega

theorem sameLatches_record (s : State) (e : Event) : SameLatches s (s.record e) :=
  sameLatches_of_onlyRegs (record_onlyRegs s e) (by decide)

/-- The class summary lies above the sources' bits. -/
theorem sameLatches_summaryBit (s : State) {b : Nat} (hb : 20 ≤ b) (hb2 : b < 32) (v : Nat) :
    SameLatches s (s.wf R.TGT_STATUS_HI ⟨b, b⟩ v) := by
  intro n hn
  refine ⟨?_, rf_wf_elsewhere s _ _ v (tgtClass_ne_statusReg (n / 16) 51)⟩
  unfold State.latched
  by_cases hlo : n < 32
  · have hreg : tgtStatusReg n = R.TGT_STATUS_LO := if_pos hlo
    rw [hreg, rf_wf_elsewhere s _ _ v (by decide)]
  · have hreg : tgtStatusReg n = R.TGT_STATUS_HI := if_neg hlo
    rw [hreg, tgtBit, rf_wf_other s _ v (Nat.le_refl b) hb2 (by omega)]

theorem sameLatches_classSummary (s : State) : SameLatches s s.classSummary :=
  ((sameLatches_summaryBit s (by decide) (by decide) _).trans
    (sameLatches_summaryBit _ (by decide) (by decide) _)).trans (sameLatches_summaryBit _ (by decide) (by decide) _)

theorem graceUpdate_onlyRegs (s : State) : OnlyRegs [R.TGT_GRACE_STAT] s s.graceUpdate := by
  unfold State.graceUpdate
  dsimp only
  split_ifs <;> simp

theorem sameLatches_graceUpdate (s : State) : SameLatches s s.graceUpdate :=
  sameLatches_of_onlyRegs (graceUpdate_onlyRegs s) (by decide)

theorem sameLatches_pinPulse (s : State) : SameLatches s s.pinPulse :=
  sameLatches_of_onlyRegs (l := [R.TGT_PIN]) (by simp [State.pinPulse]) (by decide)

/-- The bit of one source written. -/
theorem latched_wf_bit (s : State) (v : Nat) {src n : Nat} (hsrc : src < 52) (hn : n < 52) :
    (s.wf (tgtStatusReg src) (tgtBit src) v).latched n = if n = src then decide (v % 2 = 1) else s.latched n := by
  unfold State.latched
  by_cases h : n = src
  · subst h
    simp [tgtBit, Nat.mod_lt]
  · rw [if_neg h]
    by_cases hreg : tgtStatusReg n = tgtStatusReg src
    · have hbit : n % 32 ≠ src % 32 := by
        unfold tgtStatusReg at hreg
        split_ifs at hreg
        · omega
        · exact absurd hreg (by decide)
        · exact absurd hreg (by decide)
        · omega
      rw [hreg, tgtBit, tgtBit, rf_wf_other s _ v (Nat.le_refl _) (Nat.mod_lt _ (by decide)) (by omega)]
    · rw [rf_wf_elsewhere s _ _ v hreg]

theorem latchedClass_wf_bit (s : State) (v src n : Nat) :
    (s.wf (tgtStatusReg src) (tgtBit src) v).latchedClass n = s.latchedClass n :=
  rf_wf_elsewhere s _ _ v (tgtClass_ne_statusReg (n / 16) src)

/-- The class of one source written. -/
theorem latchedClass_wf_class (s : State) (v src n : Nat) :
    (s.wf (R.TGT_CLASS (src / 16)) (tgtClassFld src) v).latchedClass n =
      if n = src then v % 4 else s.latchedClass n := by
  have hfld : ∀ k, 2 * (k % 16) + 1 < 32 := fun k => by omega
  unfold State.latchedClass
  by_cases h : n = src
  · subst h
    rw [if_pos rfl, tgtClassFld, rf_wf_same s _ v (by omega) (hfld n)]
    rw [show 2 * (n % 16) + 1 + 1 - 2 * (n % 16) = 2 by omega]
    rfl
  · rw [if_neg h]
    by_cases hreg : R.TGT_CLASS (n / 16) = R.TGT_CLASS (src / 16)
    · have hfields : 2 * (src % 16) + 1 < 2 * (n % 16) ∨ 2 * (n % 16) + 1 < 2 * (src % 16) := by
        unfold R.TGT_CLASS at hreg; omega
      rw [hreg, tgtClassFld, tgtClassFld, rf_wf_other s _ v (by omega) (hfld src) hfields]
    · rw [rf_wf_elsewhere s _ _ v hreg]

theorem latched_wf_class (s : State) (f : Fld) (v k n : Nat) :
    (s.wf (R.TGT_CLASS k) f v).latched n = s.latched n :=
  congrArg (fun x => decide (x = 1)) (rf_wf_elsewhere s f _ v (tgtClass_ne_statusReg k n).symm)

/-- The bit and the class of a source written, as its latch and its clear begin. -/
def State.putLatch (s : State) (src b c : Nat) : State :=
  (s.wf (tgtStatusReg src) (tgtBit src) b).wf (R.TGT_CLASS (src / 16)) (tgtClassFld src) c

theorem latched_putLatch (s : State) (b c : Nat) {src n : Nat} (hsrc : src < 52) (hn : n < 52) :
    (s.putLatch src b c).latched n = if n = src then decide (b % 2 = 1) else s.latched n := by
  rw [State.putLatch, latched_wf_class, latched_wf_bit s b hsrc hn]

theorem latchedClass_putLatch (s : State) (src b c n : Nat) :
    (s.putLatch src b c).latchedClass n = if n = src then c % 4 else s.latchedClass n := by
  rw [State.putLatch, latchedClass_wf_class, latchedClass_wf_bit s b src n]

theorem cnt_outside (n : Nat) : R.TGT_CNT n < 0x100000 ∨ 0x100020 ≤ R.TGT_CNT n := by unfold R.TGT_CNT; omega

/-- What a latch does beside writing its source's bit and class changes neither of any source. -/
theorem latch_sameLatches (s : State) (src cls : Nat) (inj : Bool) :
    SameLatches (s.putLatch src 1 (max (if s.latched src then s.latchedClass src else 0) cls))
      (s.latch src cls inj) := by
  have hold : (if (!s.latched src) = true then 0 else s.latchedClass src) =
      if s.latched src = true then s.latchedClass src else 0 := by cases s.latched src <;> rfl
  rw [← hold]
  refine SameLatches.trans ?_ (sameLatches_graceUpdate _)
  refine sameLatches_ite ?_ (sameLatches_pinPulse _)
  refine sameLatches_ite ?_ (sameLatches_record _ _)
  refine SameLatches.trans ?_ (sameLatches_classSummary _)
  refine sameLatches_ite ?_ (sameLatches_wf _ (by decide) _ _)
  refine sameLatches_ite ?_ (sameLatches_wf _ (cnt_outside src) _ _)
  exact sameLatches_wf _ (cnt_outside src) _ _

theorem latched_latch (s : State) (cls : Nat) (inj : Bool) {src n : Nat} (hsrc : src < 52) (hn : n < 52) :
    (s.latch src cls inj).latched n = if n = src then true else s.latched n := by
  rw [((latch_sameLatches s src cls inj) n hn).1, latched_putLatch s _ _ hsrc hn]
  simp

theorem latchedClass_latch (s : State) (cls : Nat) (inj : Bool) {src n : Nat} (hn : n < 52) :
    (s.latch src cls inj).latchedClass n =
      if n = src then max (if s.latched src then s.latchedClass src else 0) cls % 4 else s.latchedClass n := by
  rw [((latch_sameLatches s src cls inj) n hn).2, latchedClass_putLatch]

theorem latchedClass_lt (s : State) (n : Nat) : s.latchedClass n < 4 := by
  have h := fget_lt (s.rd (R.TGT_CLASS (n / 16))) (tgtClassFld n)
  rw [tgtClassFld, show 2 * (n % 16) + 1 + 1 - 2 * (n % 16) = 2 by omega] at h
  exact h

/-! ### Clears -/

theorem ite_tgtLine (p : Prop) [Decidable p] (a b : State) :
    (if p then a else b).tgt.line = if p then a.tgt.line else b.tgt.line :=
  apply_ite (fun t : State => t.tgt.line) _ _ _

@[simp] theorem graceUpdate_line (s : State) : s.graceUpdate.tgt.line = s.tgt.line := by
  simp [State.graceUpdate, ite_tgtLine]

/-- A clear that finds its source's line quiet. -/
def State.clearedQuiet (s : State) (src : Nat) : State :=
  ((s.putLatch src 0 0).wf (R.TGT_CNT src) F.TGT_CNT_ACTED 0).classSummary.graceUpdate

theorem clearedQuiet_line (s : State) (src : Nat) : (s.clearedQuiet src).tgt.line = s.tgt.line := by
  simp [State.clearedQuiet, graceUpdate_line, State.classSummary, State.putLatch]

theorem clearSource_of_quiet {s : State} {src : Nat} (h : spGetD 0 s.tgt.line src = 0) :
    s.clearSource src = s.clearedQuiet src := by
  have hline := clearedQuiet_line s src
  unfold State.clearedQuiet State.putLatch at hline ⊢
  simp only [State.clearSource, hline, h, if_true]

/-- A source whose line is quiet: its bit and class go, and it does not latch again. -/
theorem clearSource_sameLatches (s : State) {src : Nat} (h : spGetD 0 s.tgt.line src = 0) :
    SameLatches (s.putLatch src 0 0) (s.clearSource src) := by
  rw [clearSource_of_quiet h]
  exact ((sameLatches_wf _ (cnt_outside src) _ _).trans (sameLatches_classSummary _)).trans (sameLatches_graceUpdate _)

theorem statusBits_lo_single (n : Fin 32) : statusBits false (word (2 ^ n.val)) = [n.val] := by
  revert n; decide

/-- A clear of sources that are not fatal, by one that may write Tollgate. -/
theorem writeTgtStatus_of_not_fatal {s : State} {i : Initiator} {p : Priv} {hi : Bool} {v : Word}
    (hwriter : tgtWriter i p = true) (hclass : ∀ n ∈ statusBits hi v, s.latched n = true → s.latchedClass n ≠ 3) :
    s.writeTgtStatus i p hi v = ((statusBits hi v).filter s.latched).foldl State.clearSource s := by
  have hne : ∀ n ∈ (statusBits hi v).filter s.latched, s.latchedClass n ≠ 3 := fun n hn =>
    hclass n (List.mem_of_mem_filter hn) (List.of_mem_filter hn)
  have hheld : ((statusBits hi v).filter s.latched).any s.fatalHeld = false :=
    List.any_eq_false.mpr fun n hn => by simp [State.fatalHeld, hne n hn]
  have hfatal : ((statusBits hi v).filter s.latched).filter (fun n => s.latchedClass n = 3) = [] :=
    List.filter_eq_nil_iff.mpr fun n hn => by simpa using hne n hn
  have hrest : ((statusBits hi v).filter s.latched).filter (fun n => s.latchedClass n ≠ 3) =
      (statusBits hi v).filter s.latched := List.filter_eq_self.mpr fun n hn => by simpa using hne n hn
  unfold State.writeTgtStatus
  dsimp only
  rw [hwriter, hheld, if_neg (by decide), if_pos hfatal, hrest]

/-! ### Injection -/

theorem takeInjection_of_noInjection {s : State} (h : s.noInjection) (l : List Nat) :
    s.takeInjection l = (none, s) := by
  have harmed : s.flag R.TGT_INJ_STAT F.TGT_INJ_STAT_ARMED = false := h
  simp [State.takeInjection, harmed]

theorem eccCheck_of_noInjection {s : State} (h : s.noInjection) (l : List Nat) (bits : Nat) :
    s.eccCheck l bits = (bits, false, s) := by
  simp [State.eccCheck, takeInjection_of_noInjection h]

theorem carry_of_ready {s : State} (h : s.ready .tollgate = true) (src cls : Nat) (inj : Bool) :
    s.carry src cls inj = s.latch src cls inj := if_pos h

/-- A line of the row's classes that carries one for a cycle, with no injection armed. -/
theorem execFaultLatch_event {s : State} {src : Fin 52} {cls : Fin 4} (hsrc : src.val ≠ 0)
    (hcls : cls.val ∈ tgtClasses src.val) (hinj : s.noInjection) :
    execFaultLatch src cls false s = .next (s.carry src.val cls.val false) := by
  have hne : cls.val ≠ 0 := by
    intro h0
    rw [h0] at hcls
    revert hcls src; decide
  simp [execFaultLatch, State.lineEvent, takeInjection_of_noInjection hinj, hsrc, hcls, hne]
theorem faultLatch_latches (s : State) (src : Fin 52) (cls : Fin 4) (hsrc : src.val ≠ 0)
    (hcls : cls.val ∈ tgtClasses src.val) (hready : s.ready .tollgate = true) (hinj : s.noInjection) :
    Completes (.faultLatch src cls false) s fun t =>
      t.latched src.val = true ∧
        t.latchedClass src.val = max (if s.latched src.val then s.latchedClass src.val else 0) cls.val ∧
        ∀ n < 52, n ≠ src.val → t.latched n = s.latched n ∧ t.latchedClass n = s.latchedClass n := by
  refine ⟨_, (execFaultLatch_event hsrc hcls hinj).trans (congrArg _ (carry_of_ready hready _ _ _)), ?_, ?_, ?_⟩
  · rw [latched_latch s _ _ src.isLt src.isLt, if_pos rfl]
  · have hold : (if s.latched src.val then s.latchedClass src.val else 0) < 4 := by
      split_ifs
      · exact latchedClass_lt s _
      · decide
    rw [latchedClass_latch s _ _ src.isLt, if_pos rfl, Nat.mod_eq_of_lt (max_lt hold cls.isLt)]
  · intro n hn hne
    rw [latched_latch s _ _ src.isLt hn, latchedClass_latch s _ _ hn, if_neg hne, if_neg hne]
    exact ⟨rfl, rfl⟩

theorem faultClear_clears (s : State) (i : Initiator) (n : Fin 32) (hpair : isPair i = true)
    (hlatched : s.latched n.val = true) (hclass : s.latchedClass n.val < 3) (hline : spGetD 0 s.tgt.line n.val = 0) :
    Completes (.faultClear i .machine false (word (2 ^ n.val))) s fun t =>
      t.latched n.val = false ∧ t.latchedClass n.val = 0 ∧
        ∀ m < 52, m ≠ n.val → t.latched m = s.latched m ∧ t.latchedClass m = s.latchedClass m := by
  have hn : n.val < 52 := by omega
  have hexec : execFaultClear i .machine false (word (2 ^ n.val)) s = .next (s.clearSource n.val) := by
    have hone : (statusBits false (word (2 ^ n.val))).filter s.latched = [n.val] := by
      rw [statusBits_lo_single, List.filter_cons_of_pos hlatched, List.filter_nil]
    rw [execFaultClear, writeTgtStatus_of_not_fatal (by simp [hpair]), hone, List.foldl_cons,
      List.foldl_nil, ok]
    · rw [statusBits_lo_single]
      intro m hm _
      rw [List.mem_singleton.mp hm]
      omega
  have hsame := clearSource_sameLatches s hline
  refine ⟨_, hexec, ?_, ?_, ?_⟩
  · rw [(hsame _ hn).1, latched_putLatch s _ _ hn hn]; simp
  · rw [(hsame _ hn).2, latchedClass_putLatch]; simp
  · intro m hm hne
    rw [(hsame m hm).1, (hsame m hm).2, latched_putLatch s _ _ hn hm, latchedClass_putLatch, if_neg hne,
      if_neg hne]
    exact ⟨rfl, rfl⟩

theorem faultClear_fatal_refused (s : State) (i : Initiator) (n : Fin 32) (hfatal : s.fatalHeld n.val = true) :
    exec (.faultClear i .machine false (word (2 ^ n.val))) s = .next s := by
  have hlatched : s.latched n.val = true := by
    simp only [State.fatalHeld, Bool.and_eq_true] at hfatal
    exact hfatal.1.1
  show execFaultClear i .machine false (word (2 ^ n.val)) s = _
  rw [execFaultClear, State.writeTgtStatus, statusBits_lo_single]
  simp [hlatched, hfatal]

/-- Settles O13: a latch and a clear write one source's bit and class, and nothing that follows writes another's. -/
theorem faultsLatchAndClear : Obligations.FaultsLatchAndClear :=
  ⟨faultLatch_latches, faultClear_clears, faultClear_fatal_refused⟩

end Sys2Proof.Machine
end
section
/-!
Cairn: how an event becomes a record or is dropped (R451 to R455), and what Cairn's own commands do (R456 to R460).
-/

namespace Sys2Proof.Machine

/-! ### Appending -/

@[simp] theorem startFlash_log (s : State) : s.startFlash.crn.log = s.crn.log := by
  unfold State.startFlash
  split_ifs <;> rfl

@[simp] theorem startFlash_next (s : State) : s.startFlash.crn.next = s.crn.next := by
  unfold State.startFlash
  split_ifs <;> rfl

@[simp] theorem flashDue_log (s : State) : s.flashDue.crn.log = s.crn.log := by rw [State.flashDue, startFlash_log]

@[simp] theorem flashDue_next (s : State) : s.flashDue.crn.next = s.crn.next := by rw [State.flashDue,
    startFlash_next]

@[simp] theorem appendRec_log (s : State) (r : Rec) : (s.appendRec r).crn.log = s.crn.log ++ [r] := by
  unfold State.appendRec
  dsimp only
  split_ifs <;> simp

@[simp] theorem appendRec_next (s : State) (r : Rec) : (s.appendRec r).crn.next = s.crn.next := by
  unfold State.appendRec
  dsimp only
  split_ifs <;> simp

/-- Nothing was dropped, so no DROPPED record precedes the event. -/
theorem putDropped_of_none_lost {s : State} (h : s.crn.lost = 0) : s.putDropped = s := by simp [State.putDropped, h]

/-! ### Dropping -/

theorem putDropped_of_not_restored {s : State} (h : s.crn.restored = false) : s.putDropped = s := by
  simp [State.putDropped, h]

/-- Before the log is restored events wait in the hold, and are dropped once it is full. -/
theorem record_of_hold_full {s : State} (h : s.crn.restored = false) (hfull : 64 ≤ s.crn.hold.length) (e : Event) :
    s.record e = s.dropEvent e := by
  simp [State.record, putDropped_of_not_restored h, State.putEvent, State.holdEvent, h, Nat.not_lt.mpr hfull]

theorem rf_dropped_dropEvent (s : State) (e : Event) :
    (s.dropEvent e).rf R.CRN_DROPPED F.CRN_DROPPED_COUNT =
      min (s.rf R.CRN_DROPPED F.CRN_DROPPED_COUNT + 1) (2 ^ 32 - 1) := by
  simp [State.dropEvent, State.countUp]

/-- A state in which the next event is dropped: the log not yet restored, and as many events waiting as fit. -/
def holdFull : State :=
  { State.reset with crn := { hold := List.replicate 64 (State.reset.eventNow 0 0 0 0 false) } }

/-- A drop counts in CRN_DROPPED. -/
theorem rd_dropped_dropEvent_holdFull_ne {s : State} (hregs : s.rd R.CRN_DROPPED = 0) (e : Event) :
    (s.dropEvent e).rd R.CRN_DROPPED ≠ 0 := by
  intro h
  have hcount := rf_dropped_dropEvent s e
  rw [State.rf, State.rf, h, hregs] at hcount
  exact absurd hcount (by decide)

/-- An account of an event that may be dropped is not kept to CRN_EVT. -/
theorem not_onlyRegs_record_of_hold_full {l : List Nat} {s t : State} (hl : R.CRN_DROPPED ∉ l)
    (hs : s.rd R.CRN_DROPPED = 0) (ht : t.rd R.CRN_DROPPED = 0) (hrestored : t.crn.restored = false)
    (hfull : 64 ≤ t.crn.hold.length) (e : Event) : ¬ OnlyRegs l s (t.record e) := by
  intro h
  rw [record_of_hold_full hrestored hfull] at h
  exact rd_dropped_dropEvent_holdFull_ne ht e ((h.1 _ hl).trans hs)
theorem record_appends :
    ∀ (s : State) (e : Event), s.crn.restored = true → s.frozen = false → s.crn.reserveWait = false → s.crn.lost = 0 →
    s.crn.fb = false → s.crn.log.length + 1 < logMax → s.crn.next < s.crn.res →
      ∃ r : Rec, r.ev = e ∧ r.seq = s.crn.next ∧ (s.record e).crn.log = s.crn.log ++ [r] ∧
        (s.record e).crn.next = s.crn.next + 1 := by
  intro s e hrestored hfrozen hreserveWait hlost hfb hlength hnext
  have hroom : ¬ logMax ≤ s.crn.log.length := by omega
  have hrecord : s.record e =
      let s1 := s.appendRec { seq := s.crn.next, fb := false, ev := e }
      { s1 with crn := { s1.crn with next := s1.crn.next + 1 } } := by
    rw [State.record, putDropped_of_none_lost hlost]
    simp [State.putEvent, hrestored, hfrozen, hreserveWait, hroom, hfb, Nat.ne_of_lt hnext]
  exact ⟨{ seq := s.crn.next, fb := false, ev := e }, rfl, rfl, by simp [hrecord], by simp [hrecord]⟩

/-- Settles O14: none of the reasons to hold, to drop or to reserve first stands, so the event is appended. -/
theorem recordsAreAppended : Obligations.RecordsAreAppended := record_appends

/-- Refutes O15: a unit command's result is an event, and when the waiting events are as many as fit it is dropped and
counted in CRN_DROPPED, beside WAY_UNIT_STAT and CRN_EVT. -/
theorem not_waymarkReports : ¬ Obligations.WaymarkReports := by
  intro ⟨_, hresult, _⟩
  obtain ⟨-, -, honly⟩ := hresult holdFull 0 0 0 0 false (by decide)
  exact not_onlyRegs_record_of_hold_full (by decide) (by decide) (by decide) (by decide) (by decide) _ honly

/-- Refutes O18: the change of mode is an event, and when the waiting events are as many as fit it is dropped and
counted in CRN_DROPPED, beside SYS_MODE and CRN_EVT. -/
theorem not_transitionsComplete : ¬ Obligations.TransitionsComplete := by
  intro ⟨hdone, _⟩
  obtain ⟨-, -, -, -, -, honly⟩ := hdone holdFull 1 (by decide)
  have hset : OnlyRegs [R.SYS_MODE, R.CRN_EVT] holdFull (((((holdFull.acceptMode).wf R.SYS_MODE F.SYS_MODE_BUSY 0).wf
      R.SYS_MODE F.SYS_MODE_TARGET 0).wf R.SYS_MODE F.SYS_MODE_PHASE 0).setMode 1) := honly
  rw [State.setMode, if_neg (by decide)] at hset
  exact not_onlyRegs_record_of_hold_full (by decide) (by decide) (by decide) (by decide) (by decide) _ hset

/-! ### Cairn's own commands -/

/-- CRN_CTL: FREEZE, and two times that a write brings to the nearer limit. -/
abbrev crnCtlDesc : RegDesc := ⟨R.CRN_CTL, [], [fd 31 31 .rw 0, fc 23 16 .rw 100 1 255, fc 15 0 .rw 600 1 65535]⟩

theorem writeFields_crnCtl (s : State) (v : Word) :
    s.writeFields R.CRN_CTL v = s.wr R.CRN_CTL (applyFields crnCtlDesc (s.rd R.CRN_CTL) v) := by
  have hreg : findReg R.CRN_CTL = some (crnCtlDesc, []) := by decide
  rw [writeFields_of_findReg hreg, if_pos (legalFields_of_unlimited (by decide) v)]

/-- FREEZE becomes what is written to it. -/
theorem frozen_writeFields_crnCtl (s : State) (v : Word) :
    (s.writeFields R.CRN_CTL v).frozen = decide (fget v F.CRN_CTL_FREEZE = 1) := by
  rw [writeFields_crnCtl, State.frozen, flag_wr_same]
  simp

theorem writeCrnCtl_of_pair {i : Initiator} (h : isPair i = true) (s : State) (v : Word) : s.writeCrnCtl i v =
    if s.frozen && fget v F.CRN_CTL_FREEZE = 0 then (s.writeFields R.CRN_CTL v).endFreeze
      else s.writeFields R.CRN_CTL v := by
  simp [State.writeCrnCtl, crnWriter, h]

theorem flashDue_of_idle {s : State} (hwriting : s.crn.writing = none) (hholdup : s.onHoldup = false)
    (hpatch : s.patchQueue = []) (hreserve : s.crn.reserveWait = false) :
    s.flashDue = { s with crn := { s.crn with writing := some (.records s.crn.unpersisted), due := false } } := by
  have hholdup' : s.flag R.BLS_STAT F.BLS_STAT_ON_HOLDUP = false := hholdup
  simp [State.flashDue, State.startFlash, State.onHoldup, CrnState.unpersisted, hwriting, hholdup', hpatch, hreserve]

/-- A write that runs goes on; the next one is due. -/
theorem flashDue_of_writing {s : State} (h : s.crn.writing.isSome = true) :
    s.flashDue = { s with crn := { s.crn with due := true } } := by
  simp [State.flashDue, State.startFlash, h]
theorem minuteTick_completes (s : State) :
    Completes .minuteTick s fun t =>
        t.crn.minutes = (s.crn.minutes + 1) % 2 ^ 32 ∧ t.crn.log = s.crn.log ∧ SameRegs s t := by
  show ∃ t, execMinuteTick s = .next t ∧ _
  simp [execMinuteTick, ok]

theorem cairnRestore_true_of_not_restored_flash_hold (s : State) (hrestored : s.crn.restored = false)
    (hready : s.ready .tollgate = true) (hflash : s.crn.flash = []) (hhold : s.crn.hold = []) (hpcyc : s.crn.pcyc = 1)
    (hminutes : s.crn.minutes = 0) :
    exec (.cairnRestore true) s
      = .next (({ s with
          crn := { s.crn with restored := true, hold := [], flashPos := 0, next := 0, res := 0 } }.resetRecord
              0).setReady
            .cairn true) := by
  show execCairnRestore true s = _
  simp [execCairnRestore, hrestored, hready, hflash, hhold, hpcyc, hminutes, restoreValues, newestSlot]

theorem logFreeze_completes (s : State) (i : Initiator) (v : Word) (hpair : isPair i = true) :
    Completes (.logFreeze i v) s fun t => t.frozen = true ∧ t.crn = s.crn ∧ OnlyRegs [R.CRN_CTL] s t := by
  have hexec : execLogFreeze i v s = .next (s.writeFields R.CRN_CTL (fset v F.CRN_CTL_FREEZE 1)) := by
    simp [execLogFreeze, writeCrnCtl_of_pair hpair, ok]
  exact ⟨_, hexec, by simp [frozen_writeFields_crnCtl], by simp, by simp⟩

theorem logUnfreeze_of_frozen (s : State) (i : Initiator) (v : Word) (hpair : isPair i = true)
    (hfrozen : s.frozen = true) :
    exec (.logUnfreeze i v) s = .next (s.writeFields R.CRN_CTL (fset v F.CRN_CTL_FREEZE 0)).endFreeze := by
  show execLogUnfreeze i v s = _
  simp [execLogUnfreeze, writeCrnCtl_of_pair hpair, hfrozen]

theorem freezeTimeout_of_frozen (s : State) (hfrozen : s.frozen = true) :
    exec .freezeTimeout s = .next (s.raise R.CRN_EVT F.CRN_EVT_FREEZE_TMO).endFreeze := by
  show execFreezeTimeout s = _
  simp [execFreezeTimeout, hfrozen]

theorem sbWindowHeadRead_completes (s : State) :
    Completes .sbWindowHeadRead s fun t =>
      t.resp = word s.crn.log.length ∧ t.crn.sbWindow = 0 ∧ t.crn.log = s.crn.log ∧ SameRegs s t := by
  show ∃ t, execSbWindowHeadRead s = .next t ∧ _
  simp [execSbWindowHeadRead, ok]

theorem sbWindowAdvance_completes (s : State) :
    Completes .sbWindowAdvance s fun t =>
      t.resp = s.logWord s.crn.sbWindow 15 ∧ t.crn.sbWindow = s.crn.sbWindow + 1 ∧ SameRegs s t := by
  show ∃ t, execSbWindowAdvance s = .next t ∧ _
  simp [execSbWindowAdvance, ok]

theorem persistTimer_of_idle (s : State) (hwriting : s.crn.writing = none) (honHoldup : s.onHoldup = false)
    (hpatchQueue : s.patchQueue = []) (hreserveWait : s.crn.reserveWait = false) :
    Completes .persistTimer s fun t =>
      t.crn.writing = some (.records s.crn.unpersisted) ∧ t.crn.log = s.crn.log ∧ SameRegs s t := by
  have hexec : execPersistTimer s = .next s.flashDue := rfl
  rw [flashDue_of_idle hwriting honHoldup hpatchQueue hreserveWait] at hexec
  exact ⟨_, hexec, rfl, rfl, sameRegs_refl s⟩

theorem persistGo_of_idle (s : State) (i : Initiator) (v : Word) (hpair : isPair i = true)
    (hgo : fget v F.CRN_PERSIST_GO = 1) (hwriting : s.crn.writing = none) :
    exec (.persistGo i v) s = .next (s.raise R.CRN_PERSIST F.CRN_PERSIST_GO).flashDue := by
  have hexec : execPersistGo i v s = .next (({ s with crn := { s.crn with goNext := s.crn.goNext || false } }.raise
      R.CRN_PERSIST F.CRN_PERSIST_GO).flashDue) := by
    simp [execPersistGo, State.writePersist, crnWriter, hpair, hgo, hwriting, ok]
  exact hexec.trans (by rw [Bool.or_false])

theorem persistGo_during_write (s : State) (i : Initiator) (v : Word) (n : Nat) (hpair : isPair i = true)
    (hgo : fget v F.CRN_PERSIST_GO = 1) (hwriting : s.crn.writing = some (.records n)) :
    Completes (.persistGo i v) s fun t =>
      t.flag R.CRN_PERSIST F.CRN_PERSIST_GO = true ∧ t.crn.due = true ∧ t.crn.writing = some (.records n) ∧
        OnlyRegs [R.CRN_PERSIST] s t := by
  have hexec : execPersistGo i v s = .next (({ s with crn := { s.crn with goNext := true } }.raise
      R.CRN_PERSIST F.CRN_PERSIST_GO).flashDue) := by
    simp [execPersistGo, State.writePersist, crnWriter, hpair, hgo, hwriting, ok]
  rw [flashDue_of_writing (by simp [hwriting])] at hexec
  exact ⟨_, hexec, by simp, rfl, by simp [hwriting], by simp⟩

theorem persistDone_false_of_writing (s : State) (n : Nat) (hwriting : s.crn.writing = some (.records n)) :
    exec (.persistDone false) s
      = .next (({ s with crn := { s.crn with writing := none, goNext := false } }.wf R.CRN_PERSIST F.CRN_PERSIST_GO
          (b2n s.crn.goNext)).persistFail.startFlash) := by
  show execPersistDone false s = _
  simp [execPersistDone, hwriting, State.recordsDone]

theorem persistDone_true_of_writing (s : State) (n : Nat) (hwriting : s.crn.writing = some (.records n)) :
    exec (.persistDone true) s = .next (s.recordsDone n true) := by
  show execPersistDone true s = _
  simp [execPersistDone, hwriting]

theorem logRelease_of_not_frozen (s : State) (i : Initiator) (v : Word) (hpair : isPair i = true)
    (hfrozen : s.frozen = false) :
    Completes (.logRelease i v) s fun t =>
      t.crn.releasing = s.crn.releasing + fget v F.CRN_RELEASE_COUNT ∧ t.crn.log = s.crn.log ∧ SameRegs s t := by
  show ∃ t, execLogRelease i v s = .next t ∧ _
  simp [execLogRelease, hpair, hfrozen, State.writeRelease, ok]

theorem releaseApplied_completes (s : State) :
    Completes .releaseApplied s fun t =>
      t.crn.log = s.crn.log.drop (min s.crn.releasing s.crn.persisted) ∧ t.crn.releasing = 0 ∧ SameRegs s t := by
  have hexec : execReleaseApplied s = .next ({ s with crn := { s.crn with releasing := 0 } }.applyRelease
      s.crn.releasing) := rfl
  exact ⟨_, hexec, rfl, rfl, by simp [State.applyRelease]⟩

theorem fwRecordStage_of_length (s : State) (i : Initiator) (v : Word) (hpair : isPair i = true)
    (hlength : s.crn.fwStage.length < 9) :
    Completes (.fwRecordStage i v) s fun t => t.crn.fwStage = s.crn.fwStage ++ [v] ∧ SameRegs s t := by
  show ∃ t, execFwRecordStage i v s = .next t ∧ _
  simp [execFwRecordStage, hpair, hlength, State.writeFwData, crnWriter, ok]

theorem fwRecordWrite_of_length_type (s : State) (i : Initiator) (v : Word) (hpair : isPair i = true)
    (hlength : s.crn.fwStage.length = 9) (htype : 0x8000 ≤ fget v F.CRN_FW_GO_TYPE) :
    exec (.fwRecordWrite i v) s
      = .next ({ s with crn := { s.crn with fwStage := [] } }.cairn (fget v F.CRN_FW_GO_CLASS) (fget v
          F.CRN_FW_GO_TYPE)
          (orgFirmware i) (argOf (s.crn.fwStage.map fun w : Word => (4, w.toNat)))) := by
  show execFwRecordWrite i v s = _
  simp [execFwRecordWrite, hpair, hlength, htype, State.writeFwGo, crnWriter]

/-- Settles O29: each of Cairn's commands runs its own branch. -/
theorem cairnRuns : Obligations.CairnRuns :=
  ⟨minuteTick_completes, cairnRestore_true_of_not_restored_flash_hold, logFreeze_completes, logUnfreeze_of_frozen,
    freezeTimeout_of_frozen, sbWindowHeadRead_completes, sbWindowAdvance_completes, persistTimer_of_idle,
    persistGo_of_idle, persistGo_during_write, persistDone_false_of_writing, persistDone_true_of_writing,
    logRelease_of_not_frozen, releaseApplied_completes, fwRecordStage_of_length, fwRecordWrite_of_length_type⟩

end Sys2Proof.Machine
end
section
/-!
Tollgate's own commands: the grace timer, the pin, the self-check and the injector (R440 to R449).
-/

namespace Sys2Proof.Machine

/-- TGT_PIN: the pin's level and its pulse are read only. -/
abbrev tgtPinDesc : RegDesc := ⟨R.TGT_PIN, [], [fd 31 31 .ro 0, fd 30 30 .ro 0, fd 8 8 .rw 0, fc 7 0 .rw 10 1 255]⟩

theorem writeFields_tgtPin (s : State) (v : Word) :
    s.writeFields R.TGT_PIN v = s.wr R.TGT_PIN (applyFields tgtPinDesc (s.rd R.TGT_PIN) v) := by
  have hreg : findReg R.TGT_PIN = some (tgtPinDesc, []) := by decide
  rw [writeFields_of_findReg hreg, if_pos (legalFields_of_unlimited (by decide) v)]

theorem flag_hold_writeFields_tgtPin (s : State) (v : Word) :
    (s.writeFields R.TGT_PIN v).flag R.TGT_PIN F.TGT_PIN_HOLD = decide (fget v F.TGT_PIN_HOLD = 1) := by
  simp [writeFields_tgtPin]

theorem rf_pulsing_writeFields_tgtPin (s : State) (v : Word) :
    (s.writeFields R.TGT_PIN v).rf R.TGT_PIN F.TGT_PIN_PULSING = s.rf R.TGT_PIN F.TGT_PIN_PULSING := by
  simp [writeFields_tgtPin, State.rf, F.TGT_PIN_PULSING]

theorem flag_pulsing_writeFields_tgtPin (s : State) (v : Word) :
    (s.writeFields R.TGT_PIN v).flag R.TGT_PIN F.TGT_PIN_PULSING = s.flag R.TGT_PIN F.TGT_PIN_PULSING := by
  rw [State.flag, rf_pulsing_writeFields_tgtPin, State.flag]

theorem rf_low_writeFields_tgtPin (s : State) (v : Word) :
    (s.writeFields R.TGT_PIN v).rf R.TGT_PIN F.TGT_PIN_LOW = s.rf R.TGT_PIN F.TGT_PIN_LOW := by
  simp [writeFields_tgtPin, State.rf, F.TGT_PIN_LOW]

theorem flag_low_writeFields_tgtPin (s : State) (v : Word) :
    (s.writeFields R.TGT_PIN v).flag R.TGT_PIN F.TGT_PIN_LOW = s.flag R.TGT_PIN F.TGT_PIN_LOW := by
  rw [State.flag, rf_low_writeFields_tgtPin, State.flag]

/-- The sources that wait are judged by their latches and their counts, not by the grace timer. -/
theorem pendingList_graceEnd (s : State) (b : Bool) : (s.graceEnd b).pendingList = s.pendingList := by
  have honly : OnlyRegs [R.TGT_GRACE_STAT] s (s.graceEnd b) := by simp [State.graceEnd]
  have hlatches := sameLatches_of_onlyRegs honly (by decide)
  refine List.filter_congr fun n hn => ?_
  have hlt : n < 52 := List.mem_range.mp hn
  have hcnt : (s.graceEnd b).rd (R.TGT_CNT n) = s.rd (R.TGT_CNT n) := honly.1 _ (List.mem_singleton.not.mpr (by
    unfold R.TGT_CNT R.TGT_GRACE_STAT; omega))
  have hcfg : (s.graceEnd b).rd (R.TGT_SRC_CFG n)
      = s.rd (R.TGT_SRC_CFG n) := honly.1 _ (List.mem_singleton.not.mpr (by
    unfold R.TGT_SRC_CFG R.TGT_GRACE_STAT; omega))
  rw [State.pendingEsc, State.pendingEsc, (hlatches n hlt).1, (hlatches n hlt).2, flag_congr hcnt, State.esc,
    rf_congr hcfg, State.esc]

theorem injectArm_of_idle {s : State} {i : Initiator} {count src : Nat} (hpair : isPair i
    = true) (hsrc : src ∈ injEcc)
    (hcount : 1 ≤ count) (hcount2 : count ≤ 255) (harmed : s.flag R.TGT_INJ_STAT F.TGT_INJ_STAT_ARMED = false) :
    s.injectArm i .machine count 2 src = { (((s.wf R.TGT_INJ_STAT F.TGT_INJ_STAT_ARMED 1).wf R.TGT_INJ_STAT
      F.TGT_INJ_STAT_SRC src).wf R.TGT_INJ_STAT F.TGT_INJ_STAT_LEFT count) with
        tgt := { (((s.wf R.TGT_INJ_STAT F.TGT_INJ_STAT_ARMED 1).wf R.TGT_INJ_STAT
          F.TGT_INJ_STAT_SRC src).wf R.TGT_INJ_STAT F.TGT_INJ_STAT_LEFT count).tgt with injBits := 2 } } := by
  unfold State.injectArm
  have hsrc' : injEcc.contains src = true := by simpa using hsrc
  have hcount0 : count ≠ 0 := by omega
  exact if_neg (by simp [hpair, hsrc, harmed, hcount0, Nat.not_lt.mpr hcount2])
theorem faultLatch_event_of_ready (s : State) (src : Fin 52) (cls : Fin 4) (hsrc : src.val ≠ 0)
    (hcls : cls.val ∈ tgtClasses src.val) (hready : s.ready .tollgate = true) (hnoInjection : s.noInjection) :
    exec (.faultLatch src cls false) s = .next (s.latch src.val cls.val false) := by
  exact (execFaultLatch_event hsrc hcls hnoInjection).trans (by rw [carry_of_ready hready])

theorem faultLatch_line (s : State) (src : Fin 52) (cls : Fin 4) (hsrc : src.val ≠ 0)
    (hcls : cls.val ∈ tgtClasses src.val) :
    exec (.faultLatch src cls true) s = .next (s.driveLine src.val cls.val) := by
  show execFaultLatch src cls true s = _
  simp [execFaultLatch, hsrc, hcls]

theorem faultLatch_other_class (s : State) (src : Fin 52) (cls : Fin 4) (hcls : cls.val ≠ 0)
    (hcls2 : cls.val ∉ tgtClasses src.val) : exec (.faultLatch src cls false) s = .next s := by
  show execFaultLatch src cls false s = _
  simp [execFaultLatch, hcls, hcls2]

theorem faultLatch_injected_single_bit (s : State) (harmed : s.flag R.TGT_INJ_STAT F.TGT_INJ_STAT_ARMED = true)
    (hsrc : s.rf R.TGT_INJ_STAT F.TGT_INJ_STAT_SRC = 1) (hinjBits : s.tgt.injBits = 1) :
    exec (.faultLatch 1 3 false) s = .next ((s.takeInjection [1]).2.carry 4 1 true) := by
  have hfst : (s.takeInjection [1]).1 = some 1 := by simp [State.takeInjection, harmed, hsrc, hinjBits]
  have hgroup : injGroup 1 = [1] := rfl
  show execFaultLatch 1 3 false s = _
  simp [execFaultLatch, State.lineEvent, tgtClasses, injEcc, hgroup, hfst]

theorem faultClear_of_not_fatal (s : State) (i : Initiator) (hi : Bool) (v : Word) (hpair : isPair i = true)
    (hstatusBits : (∀ n ∈ statusBits hi v, s.latched n = true → s.latchedClass n ≠ 3)) :
    exec (.faultClear i .machine hi v) s
        = .next (((statusBits hi v).filter s.latched).foldl State.clearSource s) := by
  show execFaultClear i .machine hi v s = _
  rw [execFaultClear, writeTgtStatus_of_not_fatal (by simp [hpair]) hstatusBits, ok]

theorem graceExpiry_unserved (s : State) (hrunning : s.flag R.TGT_GRACE_STAT F.TGT_GRACE_STAT_RUNNING = true) :
    exec (.graceExpiry false) s = .next (s.graceEnd true) := by
  show execGraceExpiry false s = _
  simp [execGraceExpiry, hrunning]

theorem graceExpiry_of_none_pending (s : State) (hrunning : s.flag R.TGT_GRACE_STAT F.TGT_GRACE_STAT_RUNNING = true)
    (hpendingList : s.pendingList = []) :
    exec (.graceExpiry true) s = .next (s.graceEnd false).graceUpdate.settleUntrained := by
  have hnone : (s.graceEnd true).pendingList = [] := by rw [pendingList_graceEnd, hpendingList]
  have hacts : (s.graceEnd true).keystoneActs = s.graceEnd true := by simp [State.keystoneActs, hnone]
  have hserved : ({ s.graceEnd true with tgt := { (s.graceEnd true).tgt with expired := false } } : State) =
      s.graceEnd false := by simp [State.graceEnd]
  show execGraceExpiry true s = _
  rw [execGraceExpiry, hrunning]
  dsimp only
  rw [hacts, hserved, if_neg (by decide), if_pos rfl, ok]

theorem heldTakeoutIssue_first (s : State) (n : Nat) (l : List Nat) (hheldTakeouts : s.tgt.heldTakeouts = n :: l)
    (hbusy : s.flag R.WAY_UNIT_STAT F.WAY_UNIT_STAT_BUSY = false) :
    exec .heldTakeoutIssue s = .next ({ s with tgt := { s.tgt with heldTakeouts := l } }.issueTakeout n) := by
  show execHeldTakeoutIssue s = _
  simp [execHeldTakeoutIssue, hheldTakeouts, hbusy]

theorem keystoneBackstop_of_none_pending (s : State) (hexpired : s.tgt.expired = true)
    (hpendingList : s.pendingList = []) :
    exec .keystoneBackstop s
      = .next { s.requestHaven hvTollgate with
          tgt := { (s.requestHaven hvTollgate).tgt with expired := false } }.graceUpdate.settleUntrained := by
  show execKeystoneBackstop s = _
  simp [execKeystoneBackstop, hexpired, hpendingList]

theorem tollgateSelfCheck_clean (s : State) (hnoInjection : s.noInjection) :
    exec (.tollgateSelfCheck false) s = .next s := by
  show execTollgateSelfCheck false s = _
  simp [execTollgateSelfCheck, takeInjection_of_noInjection hnoInjection]

theorem tollgateSelfCheck_error (s : State) (hnoInjection : s.noInjection) (hready : s.ready .tollgate = true) :
    exec (.tollgateSelfCheck true) s
      = .next (((s.tgtDefaults.carry 0 3 false).actOn 0).graceUpdate.requestHaven hvTollgate) := by
  show execTollgateSelfCheck true s = _
  simp [execTollgateSelfCheck, takeInjection_of_noInjection hnoInjection, State.selfFault, hready]

theorem faultPinPulseEnd_of_pulsing (s : State) (hpulsing : s.flag R.TGT_PIN F.TGT_PIN_PULSING = true) :
    Completes .faultPinPulseEnd s fun t =>
      t.flag R.TGT_PIN F.TGT_PIN_PULSING = false ∧
        t.rf R.TGT_PIN F.TGT_PIN_LOW = s.rf R.TGT_PIN F.TGT_PIN_HOLD ∧ OnlyRegs [R.TGT_PIN] s t := by
  show ∃ t, execFaultPinPulseEnd s = .next t ∧ _
  simp [execFaultPinPulseEnd, hpulsing, ok]

theorem faultPinHold_dropped (s : State) (i : Initiator) (v : Word) (hpair : isPair i = true)
    (hhold : fget v F.TGT_PIN_HOLD = 0) (hpulsing : s.flag R.TGT_PIN F.TGT_PIN_PULSING = false) :
    Completes (.faultPinHold i .machine v) s fun t =>
      t.flag R.TGT_PIN F.TGT_PIN_HOLD = false ∧ t.flag R.TGT_PIN F.TGT_PIN_LOW = false ∧
          OnlyRegs [R.TGT_PIN] s t := by
  have hhold' : (s.writeFields R.TGT_PIN v).flag R.TGT_PIN F.TGT_PIN_HOLD = false := by
    simp [flag_hold_writeFields_tgtPin, hhold]
  have hexec : execFaultPinHold i .machine v s
      = .next ((s.writeFields R.TGT_PIN v).wf R.TGT_PIN F.TGT_PIN_LOW 0) := by
    simp [execFaultPinHold, State.writePin, hpair, hhold', flag_pulsing_writeFields_tgtPin, hpulsing, ok]
  exact ⟨_, hexec, by simp [hhold'], by simp, by simp⟩

theorem faultPinHold_raised (s : State) (i : Initiator) (v : Word) (hpair : isPair i = true)
    (hhold : fget v F.TGT_PIN_HOLD = 1) :
    Completes (.faultPinHold i .machine v) s fun t =>
      t.flag R.TGT_PIN F.TGT_PIN_HOLD = true ∧
        t.flag R.TGT_PIN F.TGT_PIN_LOW = s.flag R.TGT_PIN F.TGT_PIN_LOW ∧ OnlyRegs [R.TGT_PIN] s t := by
  have hhold' : (s.writeFields R.TGT_PIN v).flag R.TGT_PIN F.TGT_PIN_HOLD = true := by
    simp [flag_hold_writeFields_tgtPin, hhold]
  have hexec : execFaultPinHold i .machine v s = .next (s.writeFields R.TGT_PIN v) := by
    simp [execFaultPinHold, State.writePin, hpair, hhold', ok]
  exact ⟨_, hexec, hhold', by simp [flag_low_writeFields_tgtPin], by simp⟩

theorem fatalClearDone_none (s : State) (hkclr : s.tgt.kclr = []) :
    Completes (.fatalClearDone true) s fun t =>
      t.flag R.TGT_GRACE_STAT F.TGT_GRACE_STAT_BUSY = false ∧ OnlyRegs [R.TGT_GRACE_STAT] s t := by
  show ∃ t, execFatalClearDone true s = .next t ∧ _
  simp [execFatalClearDone, hkclr, ok]

theorem fatalClearDone_single (s : State) (n : Nat) (hkclr : s.tgt.kclr = [n]) :
    exec (.fatalClearDone true) s
      = .next (({ s with tgt := { s.tgt with kclr := [] } }.clearSource n).wf R.TGT_GRACE_STAT
          F.TGT_GRACE_STAT_BUSY 0) := by
  have hnow : s.tgt.kclr.filter (fun n => n ≠ 0 || true) = [n] := by simp [hkclr]
  have hleft : s.tgt.kclr.filter (fun n => !(n ≠ 0 || true)) = [] := by simp
  show execFatalClearDone true s = _
  rw [execFatalClearDone]
  dsimp only
  rw [hnow, hleft, List.foldl_cons, List.foldl_nil, show b2n (decide (([] : List Nat) ≠ [])) = 0 by decide, ok]

theorem tollgateArmed_of_none_early (s : State) (hready : s.ready .tollgate = false) (hearly : s.tgt.early = []) :
    Completes .tollgateArmed s fun t =>
      t.ready .tollgate = true ∧ OnlyRegs [R.SYS_READY, R.SYS_READY_CHG] s t := by
  show ∃ t, execTollgateArmed s = .next t ∧ _
  simp [execTollgateArmed, hready, hearly, ok]

theorem injectArm_double_bit (s : State) (i : Initiator) (count : Nat) (src : Fin 64) (hpair : isPair i = true)
    (hsrc : src.val ∈ injEcc) (hcount : 1 ≤ count) (hcount2 : count ≤ 255) (hnoInjection : s.noInjection) :
    Completes (.injectArm i .machine count 2 src) s fun t =>
      t.flag R.TGT_INJ_STAT F.TGT_INJ_STAT_ARMED = true ∧ t.rf R.TGT_INJ_STAT F.TGT_INJ_STAT_SRC = src.val ∧
        t.rf R.TGT_INJ_STAT F.TGT_INJ_STAT_LEFT = count ∧ OnlyRegs [R.TGT_INJ_STAT] s t := by
  refine ⟨_, congrArg ok (injectArm_of_idle hpair hsrc hcount hcount2 hnoInjection), ?_, ?_, ?_, by simp⟩
  · simp -implicitDefEqProofs
  · simp -implicitDefEqProofs [Nat.mod_eq_of_lt src.isLt]
  · simp -implicitDefEqProofs [Nat.mod_eq_of_lt (show count < 256 by omega)]

theorem injectDisarm_completes (s : State) (i : Initiator) (hpair : isPair i = true) :
    Completes (.injectDisarm i .machine) s fun t => t.noInjection ∧ OnlyRegs [R.TGT_INJ_STAT] s t := by
  show ∃ t, execInjectDisarm i .machine s = .next t ∧ _
  simp [execInjectDisarm, State.injectDisarm, hpair, State.noInjection, ok]

/-- Settles O28: each of Tollgate's own commands runs its branch, and a write of TGT_PIN changes HOLD alone. -/
theorem tollgateRuns : Obligations.TollgateRuns :=
  ⟨faultLatch_event_of_ready, faultLatch_line, faultLatch_other_class, faultLatch_injected_single_bit,
    faultClear_of_not_fatal, graceExpiry_unserved, graceExpiry_of_none_pending, heldTakeoutIssue_first,
    keystoneBackstop_of_none_pending, tollgateSelfCheck_clean, tollgateSelfCheck_error, faultPinPulseEnd_of_pulsing,
    faultPinHold_dropped, faultPinHold_raised, fatalClearDone_none, fatalClearDone_single,
    tollgateArmed_of_none_early, injectArm_double_bit, injectDisarm_completes⟩

end Sys2Proof.Machine
end
section
/-!
What pairs, streams, resets, loops, gates, sequencers,
    the bank and Carriage's channels show after the operation that sets it
(R59, R72, R178, R267, R306, R389, R395, R410 to R413).
-/

namespace Sys2Proof.Machine

/-! ### Words -/

/-- A field that takes the value it has. -/
theorem fset_fget_self (w : Word) {f : Fld} (h : f.wf) : fset w f (fget w f) = w := by
  apply BitVec.eq_of_toNat_eq
  apply Nat.eq_of_testBit_eq
  intro k
  rw [testBit_fset w f _ k h]
  split_ifs with hk
  · rw [testBit_fget]
    simp only [Nat.add_sub_cancel' hk.1, show k - f.lo < f.hi + 1 - f.lo by omega, decide_true, Bool.true_and]
  · rfl

/-- Of two writes of one field the later stands. -/
theorem fset_fset_same (w : Word) {f : Fld} (h : f.wf) (a b : Nat) : fset (fset w f a) f b = fset w f b := by
  apply BitVec.eq_of_toNat_eq
  apply Nat.eq_of_testBit_eq
  intro k
  rw [testBit_fset _ f b k h, testBit_fset _ f b k h, testBit_fset w f a k h]
  split_ifs <;> rfl

/-! ### Restarts of a pair -/

/-! ### Streams -/

/-- TRN_SCTX: MODE takes 0, 1 or 2, and FAULTED is cleared by a 1. -/
abbrev sctxDesc : RegDesc := ⟨0x501000, [(47, 0x4)], [fv 31 30 .rw 0 0 2, fd 29 29 .w1c 0, fd 22 0 .rw 0]⟩

theorem writeFields_sctx (s : State) (st : Fin 47) {v : Word} (h : fget v F.TRN_SCTX_MODE < 3) :
    s.writeFields (R.TRN_SCTX st.val) v =
      s.wr (R.TRN_SCTX st.val) (applyFields sctxDesc (s.rd (R.TRN_SCTX st.val)) v) := by
  have hreg : findReg (R.TRN_SCTX st.val) = some (sctxDesc, [st.val]) := by revert st; decide
  have hmode : fget v ⟨31, 30⟩ ≤ 2 := Nat.le_of_lt_succ h
  rw [writeFields_of_findReg hreg, if_pos (by simp [legalFields, fd, fv, hmode, fget_le])]

theorem sctx_ne_strStat (a b : Nat) (h : a < 47) : R.TRN_SCTX a ≠ R.STR_STAT b := by
  unfold R.TRN_SCTX R.STR_STAT; omega

/-- A legal write of a stream's configuration: its fields are written and the stream's translations dropped; that its
sequencer is let go on shows elsewhere. -/
theorem writeSctx_shows {s : State} {i : Initiator} (st : Fin 47) {v : Word} (hpair : isPair i = true)
    (hmode : fget v F.TRN_SCTX_MODE < 3) :
    (s.writeSctx i .machine st.val v).rd (R.TRN_SCTX st.val) = applyFields sctxDesc (s.rd (R.TRN_SCTX st.val)) v ∧
      ∀ e ∈ (s.writeSctx i .machine st.val v).trn.tlb, e.stream ≠ st.val := by
  have hmode3 : fget v F.TRN_SCTX_MODE ≠ 3 := Nat.ne_of_lt hmode
  have hne := sctx_ne_strStat st.val (st.val - 32) st.isLt
  unfold State.writeSctx
  rw [if_neg (by simp [hpair, hmode3]), writeFields_sctx s st hmode]
  dsimp only
  split_ifs
  · exact ⟨by rw [rd_wf, if_neg hne]; simp [State.tlbDrop], by simp [State.tlbDrop]⟩
  · exact ⟨by simp [State.tlbDrop], by simp [State.tlbDrop]⟩

theorem beginRestart_shows (s : State) (p : Fin 2) (cause : Nat) (hcause : cause < 8) :
    (s.beginRestart p.val cause).restarting p.val = true ∧
      (s.beginRestart p.val cause).rf (R.KEY_PAIR_STAT p.val) F.KEY_PAIR_STAT_CAUSE = cause ∧
      (s.beginRestart p.val cause).rf (R.KEY_PAIR_STAT p.val) F.KEY_PAIR_STAT_COUNT
        = min (s.rf (R.KEY_PAIR_STAT p.val) F.KEY_PAIR_STAT_COUNT + 1)
            (2 ^ (F.KEY_PAIR_STAT_COUNT.hi + 1 - F.KEY_PAIR_STAT_COUNT.lo) - 1) ∧
      (s.beginRestart p.val cause).ready (pairReady p.val) = false ∧
      (∀ q ∈ (s.beginRestart p.val cause).pair.service, q.2 / 2 ≠ p.val) ∧
      OnlyRegs [R.KEY_PAIR_STAT p.val, R.SYS_READY, R.SYS_READY_CHG] s (s.beginRestart p.val cause) := by
  have hregs : R.KEY_PAIR_STAT p.val ≠ R.SYS_READY ∧ R.KEY_PAIR_STAT p.val ≠ R.SYS_READY_CHG := by
    unfold R.KEY_PAIR_STAT R.SYS_READY R.SYS_READY_CHG; omega
  refine ⟨?_, ?_, ?_, ?_, ?_, ?_⟩
  · simp -implicitDefEqProofs [State.beginRestart, State.restarting, State.countUp]
  · simp -implicitDefEqProofs [State.beginRestart, State.countUp]
    omega
  · simp -implicitDefEqProofs [State.beginRestart, State.countUp, hregs.1, hregs.2]
  · simp -implicitDefEqProofs [State.beginRestart, State.countUp, hregs.1]
  · simp [State.beginRestart]
  · simp [State.beginRestart]

theorem streamConfig_shows (s : State) (i : Initiator) (st : Fin 47) (v : Word) (hpair : isPair i = true)
    (hmode : fget v F.TRN_SCTX_MODE < 3) :
    Completes (.streamConfig i .machine st v) s fun t =>
      t.rf (R.TRN_SCTX st.val) F.TRN_SCTX_MODE = fget v F.TRN_SCTX_MODE ∧
        t.rf (R.TRN_SCTX st.val) F.TRN_SCTX_FAULTED = s.rf (R.TRN_SCTX st.val) F.TRN_SCTX_FAULTED ∧
        ∀ e ∈ t.trn.tlb, e.stream ≠ st.val := by
  have hmode' : fget (fset v F.TRN_SCTX_FAULTED 0) F.TRN_SCTX_MODE < 3 := by simpa using hmode
  obtain ⟨hrd, htlb⟩ := writeSctx_shows (s := s) st hpair hmode'
  refine ⟨_, rfl, ?_, ?_, htlb⟩
  · rw [State.rf, hrd]
    simp [show fget v ⟨31, 30⟩ < 4 from Nat.lt_succ_of_lt hmode]
  · rw [State.rf, hrd]
    simp [State.rf]

theorem streamFaultClear_shows (s : State) (i : Initiator) (st : Fin 47) (hpair : isPair i = true)
    (hmode : s.rf (R.TRN_SCTX st.val) F.TRN_SCTX_MODE < 3) :
    Completes (.streamFaultClear i .machine st) s fun t =>
      t.flag (R.TRN_SCTX st.val) F.TRN_SCTX_FAULTED = false ∧
        t.rf (R.TRN_SCTX st.val) F.TRN_SCTX_MODE = s.rf (R.TRN_SCTX st.val) F.TRN_SCTX_MODE := by
  have hmode' : fget (fset (s.rd (R.TRN_SCTX st.val)) F.TRN_SCTX_FAULTED 1) F.TRN_SCTX_MODE < 3 := by
    simpa [State.rf] using hmode
  obtain ⟨hrd, -⟩ := writeSctx_shows (s := s) st hpair hmode'
  refine ⟨_, rfl, ?_, ?_⟩
  · rw [State.flag, State.rf, hrd]
    simp
  · rw [State.rf, hrd]
    simpa [State.rf] using Nat.lt_succ_of_lt hmode

/-- Settles O16: the writes that follow in each operation are of other fields. -/
theorem pairsRestartAndStreamsAreWritten : Obligations.PairsRestartAndStreamsAreWritten :=
  ⟨beginRestart_shows, streamConfig_shows, streamFaultClear_shows⟩

/-! ### A device reset -/

theorem rstBit_lt (c : RstCause) : rstBit c < 32 := by cases c <;> decide

/-- The registers that a device reset leaves at other than their reset values. -/
def resetKept : List Nat :=
  [R.SYS_RST_CAUSE, R.SYS_BOOT_STATUS, R.BLS_STAT, R.BLS_NV, R.HP_SAS_ADDR_LO 0 0, R.HP_SAS_ADDR_HI 0 0,
      R.HP_SAS_ADDR_LO 0 1,
    R.HP_SAS_ADDR_HI 0 1, R.HP_SAS_ADDR_LO 1 0, R.HP_SAS_ADDR_HI 1 0, R.HP_SAS_ADDR_LO 1 1, R.HP_SAS_ADDR_HI 1 1]

theorem rd_deviceReset (s : State) (c : RstCause) {o : Nat} (h : o ∉ resetKept) :
    (s.deviceReset c).rd o = resetVal o := by
  simp only [resetKept, List.mem_cons, List.not_mem_nil, or_false, not_or] at h
  obtain ⟨h1, h2, h3, h4, h5, h6, h7, h8, h9, h10, h11, h12⟩ := h
  simp -implicitDefEqProofs [State.deviceReset, State.sasAddresses, rd_wr, rd_wf, h1, h2, h3, h4, h5, h6, h7,
      h8, h9, h10,
    h11, h12]
  rfl
theorem deviceReset_leaves (s : State) (c : RstCause) :
    (s.deviceReset c).mode = mBedding ∧
      fget ((s.deviceReset c).rd R.SYS_RST_CAUSE) ⟨4, 0⟩ = rstBit c ∧ (s.deviceReset c).rd R.SYS_READY = 0 ∧
      (s.deviceReset c).kenul = none ∧ (∀ a, (s.deviceReset c).byte a = 0) ∧
      (s.deviceReset c).sys.fuses = s.sys.fuses ∧ (s.deviceReset c).crn.flash = s.crn.flash ∧
      (s.deviceReset c).crn.minutes = s.crn.minutes ∧ (s.deviceReset c).pending = s.pending := by
  obtain ⟨hpending, hfuses⟩ := State.deviceReset_kept s c
  refine ⟨?_, ?_, ?_, ?_, ?_, hfuses, ?_, ?_, hpending⟩
  · rw [State.mode, State.rf, rd_deviceReset s c (by decide)]
    decide
  · have hrd : (s.deviceReset c).rd R.SYS_RST_CAUSE = word (rstBit c + 32 * b2n (if c
      = .powerOn then s.bls.armed && s.bls.done
        else s.sys.deferFlushed) + 64 * b2n (if c
            = .powerOn then s.bls.armed && !s.bls.done else 0 < s.cmd.acked)) := by
      simp -implicitDefEqProofs [State.deviceReset, State.sasAddresses, rd_wr, rd_wf, R.SYS_RST_CAUSE,
        R.HP_SAS_ADDR_LO, R.HP_SAS_ADDR_HI]
    have hlt := rstBit_lt c
    rw [hrd]
    simp [fget]
    omega
  · rw [rd_deviceReset s c (by decide)]
    decide
  · simp [State.deviceReset, State.sasAddresses, State.reset]
  · intro a
    have hmem : (s.deviceReset c).mem = State.reset.mem := by simp [State.deviceReset, State.sasAddresses]
    exact (byte_congr hmem a).trans rfl
  · simp [State.deviceReset, State.sasAddresses]
  · simp [State.deviceReset, State.sasAddresses]

/-- Settles O17: the reset state, with what the reset carries over. -/
theorem deviceResetLeaves : Obligations.DeviceResetLeaves := deviceReset_leaves

/-! ### The bank -/

@[simp] theorem rd_charger (s : State) (o : Nat) : s.charger.rd o = s.rd o := by
  unfold State.charger
  dsimp only
  split_ifs <;> rfl

@[simp] theorem rf_charger (s : State) (o : Nat) (f : Fld) : s.charger.rf o f
    = s.rf o f := rf_congr (rd_charger s o) f

@[simp] theorem flag_charger (s : State) (o : Nat) (f : Fld) : s.charger.flag o f = s.flag o f :=
  flag_congr (rd_charger s o) f

@[simp] theorem byte_charger (s : State) (a : Nat) : s.charger.byte a = s.byte a := by
  unfold State.charger
  dsimp only
  split_ifs <;> rfl

@[simp] theorem onlyRegs_charger (l : List Nat) (s t : State) : OnlyRegs l s t.charger ↔ OnlyRegs l s t := by
  simp only [OnlyRegs, rd_charger, byte_charger]
theorem measureEnd_passes (s : State) (st fall us : Nat) (hbusy : s.flag R.BLS_MEAS_CTL F.BLS_MEAS_CTL_BUSY = true)
    (hfall : 0 < fall) (hcap : 50 * us / fall ≤ 0xFFFF) (hesr : 20 * st ≤ 0xFFFF)
    (hcmin : 10 * s.rf R.BLS_MEAS_CTL F.BLS_MEAS_CTL_CMIN_UF ≤ 50 * us / fall)
    (hmax : 20 * st ≤ s.rf R.BLS_MEAS_CTL F.BLS_MEAS_CTL_ESR_MAX) :
    (s.measureEnd st fall us).rd R.BLS_BANK_MEAS = word (20 * st * 2 ^ 16 + 50 * us / fall) ∧
      (s.measureEnd st fall us).bankOk = true ∧
      (s.measureEnd st fall us).flag R.BLS_MEAS_CTL F.BLS_MEAS_CTL_BUSY = false ∧
      OnlyRegs [R.BLS_BANK_MEAS, R.BLS_MEAS_CTL, R.BLS_EVT, R.BLS_STAT] s (s.measureEnd st fall us) := by
  have hcap' : min (50 * us / fall) 0xFFFF = 50 * us / fall := Nat.min_eq_left hcap
  have hesr' : min (20 * st) 0xFFFF = 20 * st := Nat.min_eq_left hesr
  have hend : s.measureEnd st fall us = (((((s.wr R.BLS_BANK_MEAS (word (20 * st * 2 ^ 16 + 50 * us / fall))).wf
      R.BLS_MEAS_CTL F.BLS_MEAS_CTL_BUSY 0).wf R.BLS_MEAS_CTL F.BLS_MEAS_CTL_GO 0).raise R.BLS_EVT
      F.BLS_EVT_MEAS_DONE).setBls { s.bls with measured := true } |>.wf R.BLS_STAT F.BLS_STAT_BANK_OK 1).charger := by
    simp -implicitDefEqProofs [State.measureEnd, hbusy, Nat.ne_of_gt hfall, hcap', hesr', State.setBls, hcmin, hmax]
  rw [hend]
  refine ⟨?_, ?_, ?_, ?_⟩
  · simp -implicitDefEqProofs [State.setBls, rd_wf, rd_raise]
  · simp -implicitDefEqProofs [State.setBls, State.bankOk]
  · simp -implicitDefEqProofs [State.setBls]
  · simp [State.setBls]

/-- Settles O20: neither limit nor the width of a field cuts the measured values, so the bank passes. -/
theorem bankIsJudged : Obligations.BankIsJudged := measureEnd_passes

/-! ### Sequencers -/

theorem seq_setSeq_self {s : State} {n : Nat} (h : n < s.str.length) (x : SeqState) : (s.setSeq n x).seq n = x := by
  simp [State.seq, State.setSeq, h]

theorem seq_setSeq_ne (s : State) {n m : Nat} (h : m ≠ n) (x : SeqState) : (s.setSeq n x).seq m = s.seq m := by
  simp [State.seq, State.setSeq, Ne.symm h]

@[simp] theorem seq_wf (s : State) (o : Nat) (f : Fld) (v n : Nat) : (s.wf o f v).seq n
    = s.seq n := by simp [State.seq]

@[simp] theorem strMapped_wf (s : State) (o : Nat) (f : Fld) (v n a : Nat) :
    (s.wf o f v).strMapped n a = s.strMapped n a := by simp [State.strMapped]
theorem setG_reads (s : State) (n r : Nat) (v : Word) (hlength : n < s.str.length) :
    ((s.setG n r v).g n r = if r = 0 then s.g n 0 else v) ∧ (∀ x, x ≠ r → (s.setG n r v).g n x = s.g n x) ∧
      ∀ m x, m ≠ n → (s.setG n r v).g m x = s.g m x := by
  unfold State.setG
  split_ifs with hr
  · subst hr
    exact ⟨rfl, fun _ _ => rfl, fun _ _ _ => rfl⟩
  · refine ⟨?_, fun x hx => ?_, fun m x hm => ?_⟩
    · rw [State.g, seq_setSeq_self hlength, spGetD_set_self]
    · rw [State.g, seq_setSeq_self hlength, spGetD_set_ne _ _ _ hx, State.g]
    · rw [State.g, seq_setSeq_ne s hm, State.g]

theorem strEnter_runs (s u : State) (n : Fin 12) (cause b : Nat) (_hcause : cause < 16)
    (hu : u = s.setSeq n.val { s.seq n.val with handler := some cause })
    (hb : b = u.strRedirect n.val (Config.strEntry (eventOf cause) % 0x10000)) (hmapped : u.strMapped n.val b = true)
    :
    (s.strEnter n.val cause).strSt n.val = ssHandler ∧ (s.strEnter n.val cause).strPc n.val = b ∧
      (n.val < s.str.length → ((s.strEnter n.val cause).seq n.val).handler = some cause) := by
  have hpc : b < 2 ^ 17 := by
    simp only [State.strMapped, Bool.or_eq_true, Bool.and_eq_true, decide_eq_true_eq] at hmapped
    omega
  have henter : s.strEnter n.val cause = (u.setStrSt n.val ssHandler).wf (R.STR_STAT n.val) F.STR_STAT_PC b := by
    subst hu hb
    unfold State.strEnter
    dsimp only
    rw [if_pos]
    simpa [State.setStrSt] using hmapped
  rw [henter]
  refine ⟨?_, ?_, fun hlength => ?_⟩
  · simp -implicitDefEqProofs [State.strSt, State.setStrSt, ssHandler]
  · simp -implicitDefEqProofs [State.strPc, State.setStrSt]
    omega
  · subst hu
    rw [seq_wf, State.setStrSt, seq_wf, seq_setSeq_self hlength]

/-- Settles O21: one register file entry is written, and the entry of a handler is mapped. -/
theorem sequencerStateHolds : Obligations.SequencerStateHolds :=
  ⟨setG_reads, strEnter_runs⟩

/-! ### Freeze sources and gates -/

theorem bitAt_rf (s : State) (o : Nat) {hi lo x : Nat} (h : lo + x ≤ hi) :
    bitAt (s.rf o ⟨hi, lo⟩) x = (s.rd o).toNat.testBit (lo + x) := by
  rw [bitAt, State.rf, testBit_fget]
  simp [show x < hi + 1 - lo by omega]

/-- One bit of a register written, read bit by bit. -/
theorem testBit_rd_wf_bit (s : State) (o v k : Nat) {b : Nat} (h : b < 32) :
    ((s.wf o ⟨b, b⟩ v).rd o).toNat.testBit k = if k = b then v.testBit 0 else (s.rd o).toNat.testBit k := by
  rw [rd_wf, if_pos rfl, testBit_fset _ _ _ _ ⟨Nat.le_refl b, h⟩]
  by_cases hk : k = b
  · subst hk; simp
  · rw [if_neg (show ¬(b ≤ k ∧ k ≤ b) by omega), if_neg hk]

theorem rd_setSlice (s : State) (n : Nat) (x : SliceState) (o : Nat) : (s.setSlice n x).rd o = s.rd o := (rfl)

theorem rd_setFrz (s : State) (n src : Nat) (b : Bool) (o : Nat) : (s.setFrz n src b).rd o =
    if bitAt (s.frz n) src = b then s.rd o else (s.wf (R.LD_STATUS n) ⟨16 + src, 16 + src⟩ (b2n b)).rd o := by
  unfold State.setFrz
  by_cases h : bitAt (s.frz n) src = b
  · rw [if_pos h, if_pos h]
  · rw [if_neg h, if_neg h]
    exact rd_setSlice _ _ _ _

theorem frz_setFrz (s : State) (n : Nat) {src : Nat} (hsrc : src < 6) (b : Bool) {x : Nat} (hx : x < 6) :
    bitAt ((s.setFrz n src b).frz n) x = if x = src then b else bitAt (s.frz n) x := by
  rw [State.frz, bitAt_rf _ _ (by omega), State.frz, bitAt_rf _ _ (by omega), rd_setFrz, State.frz,
      bitAt_rf _ _ (by omega)]
  by_cases hsame : (s.rd (R.LD_STATUS n)).toNat.testBit (16 + src) = b
  · rw [if_pos hsame]
    by_cases heq : x = src
    · rw [if_pos heq, heq, hsame]
    · rw [if_neg heq]
  · rw [if_neg hsame, testBit_rd_wf_bit _ _ _ _ (by omega)]
    by_cases heq : x = src
    · rw [if_pos heq, if_pos (by omega)]
      cases b <;> rfl
    · rw [if_neg heq, if_neg (by omega)]

theorem rd_writeSource_of_ne (s : State) (a : Nat) (v : Bool) {o : Nat} (h : ∀ n, o ≠ R.LD_STATUS n) :
    (s.writeSource a v).rd o = s.rd o := by
  unfold State.writeSource
  generalize s.slicesOf a = slices
  induction slices generalizing s with
  | nil => rfl
  | cons n rest ih =>
    rw [List.foldl_cons, ih, rd_setFrz]
    split_ifs
    · rfl
    · rw [rd_wf, if_neg (h n)]

theorem ldStatus_ne_actWcStat (a n : Nat) : R.ACT_WC_STAT a ≠ R.LD_STATUS n := by
  unfold R.ACT_WC_STAT R.LD_STATUS; omega

/-- The heat of a head dropped: no gate changes. -/
theorem gateOpen_dropHeat (s : State) (h : Nat) (a : Fin 4) : (s.dropHeat h).gateOpen a.val = s.gateOpen a.val := by
  have hact : R.ACT_WC_STAT a.val ≠ R.BAS_HEAT_ACT ∧ R.ACT_WC_STAT a.val ≠ R.BAS_HEAT_RDY := by
    unfold R.ACT_WC_STAT R.BAS_HEAT_ACT R.BAS_HEAT_RDY; omega
  unfold State.gateOpen State.dropHeat
  by_cases hreg : R.ACT_WC_STAT a.val = R.ACT_WC_STAT (h / 8)
  · rw [← hreg]
    simp -implicitDefEqProofs [hact.1, hact.2]
  · rw [flag_wf_elsewhere _ _ _ _ hreg, flag_wf_elsewhere _ _ _ _ hact.2, flag_wf_elsewhere _ _ _ _ hact.1]

theorem gateOpen_setWc (s : State) (a b : Nat) (x : WcState) : (s.setWc b x).gateOpen a = s.gateOpen a := (rfl)

theorem gateOpen_closeGate (s : State) (a : Fin 4) : (s.closeGate a.val).gateOpen a.val = false := by
  have hne : R.ACT_WC_STAT a.val ≠ R.ACT_WC_CTL a.val := by unfold R.ACT_WC_STAT R.ACT_WC_CTL; omega
  have hsource : ∀ (t : State) (v : Bool), (t.writeSource a.val v).gateOpen a.val = t.gateOpen a.val := fun t v =>
    flag_congr (rd_writeSource_of_ne t a.val v fun n => ldStatus_ne_actWcStat a.val n) _
  unfold State.closeGate
  dsimp only
  rw [hsource, gateOpen_setWc, gateOpen_dropHeat, State.gateOpen, flag_wf_elsewhere _ _ _ _ hne,
    flag_wf_same _ _ _ (by decide)]
  rfl

/-! ### A loop's configuration -/

theorem rd_setLoop (s : State) (l : Nat) (x : LoopState) (o : Nat) : (s.setLoop l x).rd o = s.rd o := (rfl)

theorem rd_takeLcfg (s : State) (l : Nat) (v : Word) : (s.takeLcfg l v).rd (R.BAS_LCFG l) =
    fset (fset (fset (fset (fset (fset v F.BAS_LCFG_TRIG (s.newTrig l v)) F.BAS_LCFG_BANK (s.rf (R.BAS_LCFG l)
        F.BAS_LCFG_BANK))
      ⟨23, 23⟩ 0) F.BAS_LCFG_CLR (max (s.rf (R.BAS_LCFG l) F.BAS_LCFG_CLR) (fget v F.BAS_LCFG_CLR))) F.BAS_LCFG_SWAP
      (max (s.rf (R.BAS_LCFG l) F.BAS_LCFG_SWAP) (fget v F.BAS_LCFG_SWAP))) ⟨7, 6⟩ 0 := by
  unfold State.takeLcfg
  dsimp only
  split <;> rw [rd_setLoop, rd_wr_self] <;> rfl
theorem setFrz_bits (s : State) (n : Fin 8) (src : Fin 6) (b : Bool) :
    bitAt ((s.setFrz n.val src.val b).frz n.val) src.val = b ∧
      ∀ x < 6, x ≠ src.val → bitAt ((s.setFrz n.val src.val b).frz n.val) x = bitAt (s.frz n.val) x := by
  refine ⟨?_, fun x hx hne => ?_⟩
  · rw [frz_setFrz s n.val src.isLt b src.isLt, if_pos rfl]
  · rw [frz_setFrz s n.val src.isLt b hx, if_neg hne]

theorem gates_closed (s : State) (a : Fin 4) :
    (s.closeGate a.val).gateOpen a.val = false ∧ (s.abandonGate a.val).gateOpen a.val = false := by
  exact ⟨gateOpen_closeGate s a, (gateOpen_setWc _ _ _ _).trans (gateOpen_closeGate s a)⟩

theorem writeLcfg_keeps_requests (s : State) (i : Initiator) (l : Nat) (v : Word) :
    ((s.writeLcfg i l v).rd (R.BAS_LCFG l) = s.rd (R.BAS_LCFG l)) ∨
      (s.rf (R.BAS_LCFG l) F.BAS_LCFG_CLR ≤ (s.writeLcfg i l v).rf (R.BAS_LCFG l) F.BAS_LCFG_CLR ∧
        s.rf (R.BAS_LCFG l) F.BAS_LCFG_SWAP ≤ (s.writeLcfg i l v).rf (R.BAS_LCFG l) F.BAS_LCFG_SWAP ∧
        (s.writeLcfg i l v).rf (R.BAS_LCFG l) F.BAS_LCFG_BANK = s.rf (R.BAS_LCFG l) F.BAS_LCFG_BANK ∧
        (l < 10 → (s.writeLcfg i l v).rf (R.BAS_LCFG l) F.BAS_LCFG_TRIG = s.rf (R.BAS_LCFG l) F.BAS_LCFG_TRIG)) := by
  have hbit : ∀ b, s.rf (R.BAS_LCFG l) ⟨b, b⟩ < 2 ∧ fget v ⟨b, b⟩ < 2 := fun b => by
    have h1 := rf_lt s (R.BAS_LCFG l) ⟨b, b⟩
    have h2 := fget_lt v ⟨b, b⟩
    rw [Nat.add_sub_cancel_left] at h1 h2
    exact ⟨h1, h2⟩
  have hrf : ∀ f, (s.takeLcfg l v).rf (R.BAS_LCFG l) f = fget _ f := fun f => congrArg (fget · f) (rd_takeLcfg s l v)
  unfold State.writeLcfg
  split_ifs
  · refine .inr ⟨?_, ?_, ?_, fun hl => ?_⟩ <;> rw [hrf]
    · have hclr : s.rf (R.BAS_LCFG l) F.BAS_LCFG_CLR < 2 ∧ fget v F.BAS_LCFG_CLR < 2 := hbit 29
      simp
      omega
    · have hswap : s.rf (R.BAS_LCFG l) F.BAS_LCFG_SWAP < 2 ∧ fget v F.BAS_LCFG_SWAP < 2 := hbit 28
      simp
      omega
    · simp
    · simp [State.newTrig, hl]
      exact rf_lt s (R.BAS_LCFG l) F.BAS_LCFG_TRIG
  · exact .inl rfl

/-- Settles O19: a freeze source is one bit, nothing after its write opens a gate, and CLR and SWAP only grow. -/
theorem latchedRequestsStand : Obligations.LatchedRequestsStand :=
  ⟨setFrz_bits, gates_closed, writeLcfg_keeps_requests⟩

/-! ### Carriage's channels -/

/-- CAR_CH_CTL: START reads 0, and widths and burst lengths outside their ranges are violations. -/
abbrev carCtlDesc : RegDesc := ⟨0x801000, [(32, 0x40)], [fd 31 31 .rw 0, fd 30 30 .wo 0, fd 29 28 .rw 0,
    fd 22 22 .rw 0,
  fd 21 16 .rw 0, fd 15 14 .rw 0, fv 13 11 .rw 0 0 5, fv 10 8 .rw 0 0 5, fv 6 0 .rw 1 1 64]⟩

/-- A word written over itself. -/
theorem applyFields_carCtl_self (w : Word) : applyFields carCtlDesc w w = w := by
  simp [fset_fget_self w (f := ⟨31, 31⟩) (by decide), fset_fget_self w (f := ⟨29, 28⟩) (by decide),
    fset_fget_self w (f := ⟨22, 22⟩) (by decide), fset_fget_self w (f := ⟨21, 16⟩) (by decide),
    fset_fget_self w (f := ⟨15, 14⟩) (by decide), fset_fget_self w (f := ⟨13, 11⟩) (by decide),
    fset_fget_self w (f := ⟨10, 8⟩) (by decide), fset_fget_self w (f := ⟨6, 0⟩) (by decide)]

/-- A legal word written over itself leaves a channel's control register. -/
theorem rd_writeFields_carCtl_self (s : State) (k : Fin 32) :
    (s.writeFields (R.CAR_CH_CTL k.val) (s.rd (R.CAR_CH_CTL k.val))).rd (R.CAR_CH_CTL k.val)
        = s.rd (R.CAR_CH_CTL k.val) := by
  have hreg : findReg (R.CAR_CH_CTL k.val) = some (carCtlDesc, [k.val]) := by revert k; decide
  rw [writeFields_of_findReg hreg]
  split_ifs
  · rw [rd_wr_self, applyFields_carCtl_self]
  · rfl

theorem rd_stat_carShow (s : State) (k j : Nat) : (s.carShow k).rd (R.CAR_CH_STAT j) = s.rd (R.CAR_CH_STAT j) := by
  have hne : ∀ a, R.CAR_CH_STAT j ≠ R.CAR_CH_SRC_LO a ∧ R.CAR_CH_STAT j ≠ R.CAR_CH_SRC_HI a ∧
      R.CAR_CH_STAT j ≠ R.CAR_CH_DST_LO a ∧ R.CAR_CH_STAT j ≠ R.CAR_CH_DST_HI a ∧
      R.CAR_CH_STAT j ≠ R.CAR_CH_COUNT a := fun a => by
    unfold R.CAR_CH_STAT R.CAR_CH_SRC_LO R.CAR_CH_SRC_HI R.CAR_CH_DST_LO R.CAR_CH_DST_HI R.CAR_CH_COUNT
    omega
  obtain ⟨h1, h2, h3, h4, h5⟩ := hne k
  simp [State.carShow, State.carPlace, rd_wr, rd_wf, h1, h2, h3, h4, h5]
theorem channelDisable_of_busy (s : State) (i : Initiator) (k : Fin 32) (hready : s.ready .carriage = true)
    (hcontrol : s.mayControl i (carChanRes k.val) = true) (hdw : s.rf (R.CAR_CH_CTL k.val) F.CAR_CH_CTL_DW ≤ 5)
    (hsw : s.rf (R.CAR_CH_CTL k.val) F.CAR_CH_CTL_SW ≤ 5) (hburst : s.rf (R.CAR_CH_CTL k.val) F.CAR_CH_CTL_BURST ≠ 0)
    (hburst2 : s.rf (R.CAR_CH_CTL k.val) F.CAR_CH_CTL_BURST ≤ 64)
    (hstart : s.rf (R.CAR_CH_CTL k.val) F.CAR_CH_CTL_START = 0) (hbusy : s.carBusy k.val = true)
    (hdisabled : (s.carCh k.val).disabled = false) :
    exec (.channelDisable i k) s
      = .next ((s.wf (R.CAR_CH_CTL k.val) F.CAR_CH_CTL_EN 0).carDisable k.val) := by
  have hword : fset (fset (fset (s.rd (R.CAR_CH_CTL k.val)) F.CAR_CH_CTL_EN 0) F.CAR_CH_CTL_EN
      (fget (s.rd (R.CAR_CH_CTL k.val)) F.CAR_CH_CTL_EN)) F.CAR_CH_CTL_START 0 = s.rd (R.CAR_CH_CTL k.val) := by
    rw [fset_fset_same _ (by decide), fset_fget_self _ (by decide), ← (show _ = 0 from hstart)]
    exact fset_fget_self _ (by decide)
  have hen : fget (fset (s.rd (R.CAR_CH_CTL k.val)) F.CAR_CH_CTL_EN 0) F.CAR_CH_CTL_EN = 0 := by simp
  have hsame := rd_writeFields_carCtl_self s k
  simp only [State.rf] at hdw hsw hburst hburst2 hstart
  show execChannelDisable i k s = _
  unfold execChannelDisable State.writeCarCtl
  dsimp only
  rw [hword, if_neg (by simp [hready, hcontrol, Nat.not_lt.mpr hdw, Nat.not_lt.mpr hsw, hburst,
      Nat.not_lt.mpr hburst2, hstart]),
    if_pos hbusy, if_neg (by simp [hsame, hstart]), hen, if_neg (by simp [hdisabled]), ok]
  rfl

theorem carStart_refused (s : State) (k : Fin 32) (r : Nat) (hrefusal : carRefusal (s.carDesc k.val) = some r) :
    (s.carStart k.val).rf (R.CAR_CH_STAT k.val) F.CAR_CH_STAT_END = ceRefused ∧
      (s.carStart k.val).car = s.car ∧ (s.carStart k.val).flag (R.CAR_CH_EVT k.val) F.CAR_CH_EVT_ERR = true := by
  have hstart : s.carStart k.val = ((s.wf (R.CAR_CH_STAT k.val) F.CAR_CH_STAT_END ceRefused).wf (R.CAR_CH_STAT k.val)
      F.CAR_CH_STAT_ERR_KIND r).raise (R.CAR_CH_EVT k.val) F.CAR_CH_EVT_ERR := by
    simp only [State.carStart, hrefusal]
  rw [hstart]
  exact ⟨by simp [ceRefused], by simp, by simp⟩

theorem carStart_accepted (s : State) (k : Fin 32) (hrefusal : carRefusal (s.carDesc k.val) = none) :
    (s.carStart k.val).carBusy k.val = true ∧ (s.carStart k.val).rf (R.CAR_CH_STAT k.val) F.CAR_CH_STAT_END = 0 := by
  have hne : R.CAR_CH_STAT k.val ≠ R.CAR_BUSY := by unfold R.CAR_CH_STAT R.CAR_BUSY; omega
  simp only [State.carStart, hrefusal]
  refine ⟨?_, ?_⟩
  · rw [State.carBusy, flag_congr (rd_stat_carShow _ _ _)]
    simp -implicitDefEqProofs [State.setCarBusy, hne]
  · rw [rf_congr (rd_stat_carShow _ _ _)]
    simp -implicitDefEqProofs

theorem carRefusal_order (c : CarChan) (hswap : swapUnit c.swap = 1) :
    (c.count % max (max c.sb c.db) 1 ≠ 0 → carRefusal c = some ckAlign) ∧
      (c.count % max (max c.sb c.db) 1 = 0 → c.burstBytes % max (max c.sb c.db) 1 = 0 → c.src % max c.sb 1 = 0 →
        c.dst % max c.db 1 = 0 →
          (c.count = 0 → carRefusal c = some ckEmpty) ∧
          (c.count ≠ 0 → c.src < c.dst + c.count → c.dst < c.src + c.count → c.sb ≠ c.db →
              carRefusal c = some ckOverlap) ∧
          (c.count ≠ 0 → c.sb = c.db → carRefusal c = none) ∧
          (c.count ≠ 0 → c.dst + c.count ≤ c.src ∨ c.src + c.count ≤ c.dst → carRefusal c = none)) := by
  unfold carRefusal
  rw [hswap]
  generalize max (max c.sb c.db) 1 = unit
  refine ⟨fun hcount => by simp [hcount], fun hcount hburst hsrc hdst => ?_⟩
  have haligned : ¬((c.count % unit ≠ 0 || c.burstBytes % unit ≠ 0 || c.src % max c.sb 1 ≠ 0
      || c.dst % max c.db 1 ≠ 0) = true) := by simp [hcount, hburst, hsrc, hdst]
  refine ⟨fun h0 => ?_, fun h0 h1 h2 h3 => ?_, fun h0 h1 => ?_,
      fun h0 h1 => ?_⟩ <;> dsimp only <;> rw [if_neg haligned]
  · rw [if_pos h0]
  · rw [if_neg h0, if_pos (by simp [h1, h2, h3])]
  · rw [if_neg h0, if_neg (by simp [h1])]
  · rw [if_neg h0, if_neg (by simp; omega)]

theorem edgeAt_paces (s : State) (l : Nat) (k : Fin 32) (hen : s.flag (R.CAR_CH_CTL k.val) F.CAR_CH_CTL_EN = true)
    (hpaced : s.flag (R.CAR_CH_CTL k.val) F.CAR_CH_CTL_PACED = true)
    (hreq : s.rf (R.CAR_CH_CTL k.val) F.CAR_CH_CTL_REQ = l) (hserves : s.lineServes l k.val = true) :
    (s.rf (R.CAR_CH_STAT k.val) F.CAR_CH_STAT_PEND < 63 →
        (s.edgeAt l k.val).rf (R.CAR_CH_STAT k.val) F.CAR_CH_STAT_PEND
          = s.rf (R.CAR_CH_STAT k.val) F.CAR_CH_STAT_PEND + 1) ∧
      (s.rf (R.CAR_CH_STAT k.val) F.CAR_CH_STAT_PEND = 63 →
        (s.edgeAt l k.val).flag (R.CAR_CH_EVT k.val) F.CAR_CH_EVT_REQ_OVF = true ∧
          (s.edgeAt l k.val).rf (R.CAR_CH_STAT k.val) F.CAR_CH_STAT_PEND = 63) := by
  have hedge : s.edgeAt l k.val = if s.rf (R.CAR_CH_STAT k.val) F.CAR_CH_STAT_PEND = 63
      then s.raise (R.CAR_CH_EVT k.val) F.CAR_CH_EVT_REQ_OVF
      else s.wf (R.CAR_CH_STAT k.val) F.CAR_CH_STAT_PEND (s.rf (R.CAR_CH_STAT k.val) F.CAR_CH_STAT_PEND + 1) := by
    unfold State.edgeAt
    exact if_pos (by simp [hen, hpaced, hreq, hserves])
  rw [hedge]
  refine ⟨fun hlt => ?_, fun hfull => ?_⟩
  · rw [if_neg (Nat.ne_of_lt hlt)]
    simp
    omega
  · rw [if_pos hfull]
    exact ⟨by simp, by simp [hfull]⟩

/-- Settles O22: a channel's own word written back is the same word but for EN, and the checks come in their order. -/
theorem carriageChecksAndPaces : Obligations.CarriageChecksAndPaces :=
  ⟨channelDisable_of_busy, carStart_refused, carStart_accepted, carRefusal_order, edgeAt_paces⟩

end Sys2Proof.Machine
end
section
/-!
The state after reset, and Causeway's link: lanes, HELLO and the loss of either (R425 to R430).
-/

namespace Sys2Proof.Machine

theorem reset_state :
    MemoryCanonical State.reset ∧ QueueWellFormed State.reset ∧ State.reset.pending = [] ∧
        State.reset.mode = mBedding ∧
    State.reset.rd R.SYS_RST_CAUSE = 1 ∧ State.reset.rd R.SYS_READY = 0 ∧ State.reset.kenul = none ∧
    (∀ a, State.reset.byte a = 0) ∧ ∀ o id, State.reset.mayControl o id = false := by
  refine ⟨rfl, fun c hc => absurd hc List.not_mem_nil, rfl, by decide, by decide, by decide, rfl, fun _ => rfl,
      fun _ _ => rfl⟩

/-- Settles O7: the reset state holds nothing, so each part reads its reset value. -/
theorem resetState : Obligations.ResetState := reset_state

/-! ### The link -/

theorem cswUp_wf_lane (s : State) {lane : Nat} (h : lane < 31) (v : Nat) :
    (s.wf R.CSW_LINK ⟨lane, lane⟩ v).cswUp = s.cswUp :=
  flag_wf_other s _ v (Nat.le_refl lane) (by omega) (.inl h)

/-- LOCK shows the lanes' bits. -/
theorem rf_bit_of_lock {s : State} (h : s.rf R.CSW_LINK F.CSW_LINK_LOCK = 3) : s.rf R.CSW_LINK ⟨0, 0⟩ = 1 := by
  simp only [State.rf, fget] at h ⊢
  omega

@[simp] theorem cswRest_wf_link (s : State) (f : Fld) (v : Nat) : (s.wf R.CSW_LINK f v).cswRest = s.cswRest := by
  unfold State.cswRest State.cswSt
  rw [rf_wf_elsewhere _ _ _ _ (by decide)]

@[simp] theorem cswRest_raise_evt (s : State) (f : Fld) : (s.raise R.CSW_EVT f).cswRest = s.cswRest := by
  unfold State.cswRest State.cswSt
  rw [rf_raise_elsewhere _ _ _ (by decide)]

/-- A session at rest stays as it is when it is told to stop. -/
theorem cswStop_of_rest {s : State} (h : s.cswRest = true) (err : Nat) : s.cswStop err = s := if_pos h

/-- A good frame of the type that is awaited is taken. -/
theorem cswRx_of_frameOk {s : State} {len frame typ : Nat} (hup : s.cswUp = true) (hok : frameOk len frame = true)
    (htyp : frameTyp frame = typ) (f : State → State) : s.cswRx len frame typ f = f s := by
  simp [State.cswRx, hup, hok, htyp]

/-- What a HELLO of this version shows at once (R426). -/
def State.helloSeen (s : State) (frame : Nat) : State :=
  { s with csw := { s.csw with seen := true } }.wf R.CSW_LINK F.CSW_LINK_PEER_ROLE (frameAt frame 2 1)

/-- The peer's identifier, taken from its HELLO (R426). -/
def State.peerIds (s : State) (frame : Nat) : State :=
  (List.range 4).foldl (fun u i => u.wr (R.CSW_PEER_ID i) (word (frameAt frame (4 + 4 * i) 4))) s

theorem cswHello_eq {s : State} {frame : Nat} (hver : frameAt frame 0 2 = 0x0100) : s.cswHello frame =
    if frameAt frame 3 1 % 2 = 0 || s.cswPeer then s.helloSeen frame
    else (((s.helloSeen frame).peerIds frame).raise R.CSW_LINK F.CSW_LINK_PEER).raise R.CSW_EVT F.CSW_EVT_PEER := by
  have hpeer : (s.helloSeen frame).cswPeer = s.cswPeer := by
    simp -implicitDefEqProofs [State.helloSeen, State.cswPeer]
  rw [← hpeer]
  unfold State.cswHello
  rw [if_neg (not_not.mpr hver)]
  rfl

theorem rd_peerIds (s : State) (frame : Nat) {i : Nat} (hi : i < 4) :
    (s.peerIds frame).rd (R.CSW_PEER_ID i) = word (frameAt frame (4 + 4 * i) 4) := by
  simp only [State.peerIds, List.range_succ, List.range_zero, List.nil_append, List.cons_append, List.foldl_cons,
    List.foldl_nil, rd_wr, R.CSW_PEER_ID]
  interval_cases i <;> rfl

theorem cswRest_with_csw (s : State) (c : CswState) : ({ s with csw := c } : State).cswRest = s.cswRest := (rfl)
theorem laneBlockLock_of_cswOn (s : State) (lane : Fin 2) (hcswOn : s.cswOn = true) :
    exec (.laneBlockLock lane) s = .next (s.wf R.CSW_LINK ⟨lane.val, lane.val⟩ 1) := by
  show execLaneBlockLock lane s = _
  simp [execLaneBlockLock, hcswOn]

theorem laneLockLoss_of_not_cswUp (s : State) (lane : Fin 2) (hcswUp : s.cswUp = false) :
    Completes (.laneLockLoss lane) s fun t =>
      t.rf R.CSW_LINK ⟨lane.val, lane.val⟩ = 0 ∧ t.csw = { s.csw with align := s.csw.align.set lane.val none } ∧
        OnlyRegs [R.CSW_LINK] s t := by
  have hlane : lane.val < 31 := by omega
  have hup : (({ s with csw := { s.csw with align := s.csw.align.set lane.val none } }).wf R.CSW_LINK
      ⟨lane.val, lane.val⟩ 0).cswUp = false := by
    rw [cswUp_wf_lane _ hlane]
    exact hcswUp
  have hexec : execLaneLockLoss lane s
      = .next (({ s with csw := { s.csw with align := s.csw.align.set lane.val none } }).wf
      R.CSW_LINK ⟨lane.val, lane.val⟩ 0) := by
    rw [execLaneLockLoss, State.cswLinkDown, hup]
    rfl
  refine ⟨_, hexec, ?_, rfl, by simp⟩
  simp -implicitDefEqProofs [Nat.lt_of_lt_of_le hlane (by decide : 31 ≤ 32)]

theorem laneLockLoss_of_cswUp (s : State) (lane : Fin 2) (_hcswUp : s.cswUp = true) :
    exec (.laneLockLoss lane) s
      = .next (({ s with csw := { s.csw with align := s.csw.align.set lane.val none } }.wf R.CSW_LINK
          ⟨lane.val, lane.val⟩ 0).cswLinkDown) := by
  show execLaneLockLoss lane s = _
  simp [execLaneLockLoss]

theorem alignBlock_of_first_lane (s : State) (lane : Fin 2) (c : BitVec 32) (hcswOn : s.cswOn = true)
    (hrf : s.rf R.CSW_LINK ⟨lane.val, lane.val⟩ = 1) (halign : s.csw.align = [none, none]) :
    exec (.alignBlock lane c) s
      = .next { s with csw := { s.csw with align := s.csw.align.set lane.val (some c.toNat) } } := by
  have hother : (s.csw.align.set lane.val (some c.toNat)).getD (1 - lane.val) none = none := by
    rw [halign]
    fin_cases lane <;> rfl
  show execAlignBlock lane c s = _
  simp only [execAlignBlock, hcswOn, hrf, hother, ok]
  rfl

theorem alignBlock_of_lanes_agree (s : State) (c : BitVec 32) (hcswOn : s.cswOn = true)
    (hlock : s.rf R.CSW_LINK F.CSW_LINK_LOCK = 3) (hcswUp : s.cswUp = false)
    (halign : s.csw.align = [none, some c.toNat]) :
    Completes (.alignBlock 0 c) s fun t =>
      t.cswUp = true ∧ t.flag R.CSW_EVT F.CSW_EVT_LINK_UP = true ∧ OnlyRegs [R.CSW_LINK, R.CSW_EVT] s t := by
  have hbit : s.rf R.CSW_LINK ⟨0, 0⟩ = 1 := rf_bit_of_lock hlock
  unfold State.cswUp at hcswUp
  have hexec : execAlignBlock 0 c s
      = .next (({ s with csw := { s.csw with align := [some c.toNat, some c.toNat] } }.raise
      R.CSW_LINK F.CSW_LINK_UP).raise R.CSW_EVT F.CSW_EVT_LINK_UP) := by
    simp [execAlignBlock, hcswOn, hbit, halign, hlock, hcswUp, State.cswUp, ok]
  exact ⟨_, hexec, by simp -implicitDefEqProofs [State.cswUp], by simp -implicitDefEqProofs, by simp⟩

theorem alignSend_of_cswOn (s : State) (hcswOn : s.cswOn = true) :
    exec .alignSend s
      = .next ({ s with csw := { s.csw with alignTx := (s.csw.alignTx + 1) % 2 ^ 32 } }.emit (.causeway 0x4B
          [alignBlock 0 s.csw.alignTx, alignBlock 1 s.csw.alignTx])) := by
  show execAlignSend s = _
  simp [execAlignSend, hcswOn]

theorem helloFrame_of_not_seen_or_known (s : State) (len frame : Nat) (hcswUp : s.cswUp = true)
    (hframeOk : frameOk len frame = true) (hframeTyp : frameTyp frame = fyHello)
    (hframeAt : frameAt frame 0 2 = 0x0100) (hframeAt2 : (frameAt frame 3 1 % 2 = 0 ∨ s.cswPeer = true)) :
    exec (.helloFrame len frame) s
      = .next ({ s with csw := { s.csw with seen := true } }.wf R.CSW_LINK F.CSW_LINK_PEER_ROLE (frameAt frame
          2 1)) := by
  show execHelloFrame len frame s = _
  rw [execHelloFrame, cswRx_of_frameOk hcswUp hframeOk hframeTyp, cswHello_eq hframeAt,
      if_pos (by simpa using hframeAt2)]
  rfl

theorem helloFrame_makes_peer_known (s : State) (len frame : Nat) (hcswUp : s.cswUp = true)
    (hcswPeer : s.cswPeer = false) (hframeOk : frameOk len frame = true) (hframeTyp : frameTyp frame = fyHello)
    (hframeAt : frameAt frame 0 2 = 0x0100) (hframeAt2 : frameAt frame 3 1 % 2 = 1) :
    Completes (.helloFrame len frame) s fun t =>
      t.cswPeer = true ∧ t.flag R.CSW_EVT F.CSW_EVT_PEER = true ∧ t.csw.seen = true ∧
        ∀ i < 4, t.rd (R.CSW_PEER_ID i) = word (frameAt frame (4 + 4 * i) 4) := by
  have hexec : execHelloFrame len frame s = .next ((((s.helloSeen frame).peerIds frame).raise R.CSW_LINK
      F.CSW_LINK_PEER).raise R.CSW_EVT F.CSW_EVT_PEER) := by
    rw [execHelloFrame, cswRx_of_frameOk hcswUp hframeOk hframeTyp, cswHello_eq hframeAt,
      if_neg (by simp [hframeAt2, hcswPeer]), ok]
  refine ⟨_, hexec, ?_, flag_raise_same _ _ (by decide), ?_, fun i hi => ?_⟩
  · rw [State.cswPeer, flag_raise_elsewhere _ _ _ (by decide), flag_raise_same _ _ (by decide)]
  · simp [State.peerIds, State.helloSeen, List.range_succ]
  · rw [rd_raise, if_neg (by unfold R.CSW_PEER_ID R.CSW_EVT; omega), rd_raise,
      if_neg (by unfold R.CSW_PEER_ID R.CSW_LINK; omega), rd_peerIds _ _ hi]

theorem helloTimer_of_cswOn_cswUp (s : State) (hcswOn : s.cswOn = true) (hcswUp : s.cswUp = true) :
    exec .helloTimer s
      = .next (s.cswEmit fyHello 0 [(2, 0x0100), (1, s.cswRole), (1, b2n s.csw.seen), (16, s.driveId), (12, 0)]) := by
  show execHelloTimer s = _
  simp [execHelloTimer, hcswOn, hcswUp]

theorem peerTimeout_of_cswPeer (s : State) (hcswPeer : s.cswPeer = true) :
    exec .peerTimeout s = .next s.cswPeerLost := by
  show execPeerTimeout s = _
  simp [execPeerTimeout, hcswPeer]

theorem ackKeepalive_of_cswUp_cswPeer (s : State) (hcswUp : s.cswUp = true) (hcswPeer : s.cswPeer = true) :
    exec .ackKeepalive s = .next ((s.free 16).2.cswEmit fyAck 0 [(4, s.csw.rxNext), (2, (s.free 16).1), (2, 0)]) := by
  show execAckKeepalive s = _
  simp [execAckKeepalive, hcswUp, hcswPeer]

theorem cswLinkDown_at_rest (s : State) (hcswUp : s.cswUp = true) (hcswRest : s.cswRest = true) :
    s.cswLinkDown.cswUp = false ∧ s.cswLinkDown.cswPeer = false ∧
        s.cswLinkDown.flag R.CSW_EVT F.CSW_EVT_LINK_DOWN = true ∧
      s.cswLinkDown.csw.seen = false := by
  have hdown : s.cswLinkDown = { (((s.wf R.CSW_LINK F.CSW_LINK_UP 0).wf R.CSW_LINK F.CSW_LINK_PEER 0).raise R.CSW_EVT
      F.CSW_EVT_LINK_DOWN) with csw := { (((s.wf R.CSW_LINK F.CSW_LINK_UP 0).wf R.CSW_LINK F.CSW_LINK_PEER 0).raise
        R.CSW_EVT F.CSW_EVT_LINK_DOWN).csw with seen := false } } := by
    rw [State.cswLinkDown, hcswUp, if_neg (by decide)]
    refine cswStop_of_rest ?_ ceLink
    rw [cswRest_with_csw, cswRest_raise_evt, cswRest_wf_link, cswRest_wf_link, hcswRest]
  rw [hdown]
  exact ⟨by simp -implicitDefEqProofs [State.cswUp], by simp -implicitDefEqProofs [State.cswPeer],
    by simp -implicitDefEqProofs, rfl⟩

theorem cswPeerLost_at_rest (s : State) (hcswRest : s.cswRest = true) :
    s.cswPeerLost.cswPeer = false ∧ s.cswPeerLost.csw.seen = false := by
  have hlost : s.cswPeerLost = { (s.wf R.CSW_LINK F.CSW_LINK_PEER 0) with
      csw := { (s.wf R.CSW_LINK F.CSW_LINK_PEER 0).csw with seen := false } } := by
    refine cswStop_of_rest ?_ cePeerLost
    rw [cswRest_with_csw, cswRest_wf_link, hcswRest]
  rw [hlost]
  exact ⟨by simp -implicitDefEqProofs [State.cswPeer], rfl⟩

theorem cswStop_at_rest (s : State) (e : Nat) (hcswRest : s.cswRest = true) :
    s.cswStop e = s ∧ s.cswStopTell e = s := by
  simp [State.cswStop, State.cswStopTell, hcswRest]

/-- Settles O57: lanes, the link's flag and the peer's are fields apart from one another. -/
theorem causewayComesUp : Obligations.CausewayComesUp :=
  ⟨laneBlockLock_of_cswOn, laneLockLoss_of_not_cswUp, laneLockLoss_of_cswUp, alignBlock_of_first_lane,
    alignBlock_of_lanes_agree, alignSend_of_cswOn, helloFrame_of_not_seen_or_known, helloFrame_makes_peer_known,
    helloTimer_of_cswOn_cswUp, peerTimeout_of_cswPeer, ackKeepalive_of_cswUp_cswPeer, cswLinkDown_at_rest,
    cswPeerLost_at_rest, cswStop_at_rest⟩

end Sys2Proof.Machine
end
section
/-!
Register writes that are refused or taken, what a core stops itself,
    and the crossings between islands (R12 to R14, R28, R350).
-/

namespace Sys2Proof.Machine

/-! ### Register writes -/

theorem towWrite_of_badAccess {s : State} {i : Initiator} {p : Priv} {width off : Nat}
    (h : s.badAccess i p true width off = true) (v : Word) : s.towWrite i p width off v = s := if_pos h

/-- TGT_GRACE_CFG has one field, brought to the nearer limit. -/
abbrev graceCfgDesc : RegDesc := ⟨R.TGT_GRACE_CFG, [], [fc 23 0 .rw 1000 10 10000000]⟩

theorem writeFields_graceCfg (s : State) (v : Word) :
    s.writeFields R.TGT_GRACE_CFG v = s.wr R.TGT_GRACE_CFG (applyFields graceCfgDesc (s.rd R.TGT_GRACE_CFG) v) := by
  have hreg : findReg R.TGT_GRACE_CFG = some (graceCfgDesc, []) := by decide
  rw [writeFields_of_findReg hreg, if_pos (legalFields_of_unlimited (by decide) v)]

theorem badAccess_graceCfg {s : State} {i : Initiator} (hheld : s.bls.held = false) (hi : i = .port ∨ i = .media) :
    s.badAccess i .machine true 32 R.TGT_GRACE_CFG = false := by
  have hreach : s.reaches i true R.TGT_GRACE_CFG = true := by
    obtain rfl | rfl := hi <;> rfl
  have hfound : (findReg R.TGT_GRACE_CFG).isNone = false := by decide
  have halign : R.TGT_GRACE_CFG % 4 = 0 := by decide
  simp [State.badAccess, hheld, hreach, hfound, halign,
      islandDown_of_not_str (show R.TGT_GRACE_CFG / 0x100000 ≠ 0x0E by decide)]

theorem clampNat_le {lo hi n : Nat} (h : lo ≤ hi) : clampNat lo hi n ≤ hi := by
  unfold clampNat
  split_ifs <;> omega
theorem registerWrite_violation (s : State) (i : Initiator) (p : Priv) (width off : Nat) (v : Word)
    (hbad : (width ≠ 32 ∨ off % 4 ≠ 0 ∨ p = .user ∨ s.reaches i true off = false ∨ findReg off = none)) :
    exec (.registerWrite i p width off v) s = .next s := by
  have hbadAccess : s.badAccess i p true width off = true := by
    rcases hbad with h | h | h | h | h <;> simp [State.badAccess, h]
  rw [exec_registerWrite, towWrite_of_badAccess hbadAccess]

theorem registerWrite_graceCfg (s : State) (i : Initiator) (v : Word) (hi : i = .port ∨ i = .media)
    (hheld : s.bls.held = false) :
    Completes (.registerWrite i .machine 32 R.TGT_GRACE_CFG v) s fun t =>
      t.rf R.TGT_GRACE_CFG F.TGT_GRACE_CFG_US = clampNat 10 10000000 (fget v F.TGT_GRACE_CFG_US) ∧
        OnlyRegs [R.TGT_GRACE_CFG] s t ∧ t.out = s.out := by
  have hpair : isPair i = true := (isPair_iff i).mpr hi
  have hwrite : s.writeReg i .machine R.TGT_GRACE_CFG v = s.writeFields R.TGT_GRACE_CFG v := by
    have hblock : s.writeReg i .machine R.TGT_GRACE_CFG v =
        s.writeIf (tgtWriter i .machine) R.TGT_GRACE_CFG v := rfl
    simp [hblock, State.writeIf, hpair]
  have hexec : exec (.registerWrite i .machine 32 R.TGT_GRACE_CFG v) s = .next (s.writeFields R.TGT_GRACE_CFG v) := by
    rw [exec_registerWrite, towWrite_of_reached (badAccess_graceCfg hheld hi), hwrite]
  have hlt : clampNat 10 10000000 (fget v F.TGT_GRACE_CFG_US) < 2 ^ 24 :=
    Nat.lt_of_le_of_lt (clampNat_le (by decide)) (by decide)
  refine ⟨_, hexec, ?_, by simp, ?_⟩
  · rw [writeFields_graceCfg, rf_wr_same]
    simpa using hlt
  · rw [writeFields_graceCfg, wr_out]

theorem mailboxPush_full (s : State) (i : Initiator) (m : Fin 8) (far : Bool) (v : Word)
    (hendpoint : s.isEndpoint i m.val (sideOf far) = true) (hfull : 16 ≤ (s.inbound m.val (1 - sideOf far)).length) :
    exec (.mailboxPush i m far v) s = .next (s.emit (.busError m.val (sideOf far))) := by
  show execMailboxPush i m far v s = _
  simp [execMailboxPush, State.writeMpoTx, State.mboxTx, hendpoint, hfull, ok]

/-- Settles O23: each guard alone stops a write, and the grace time's one field is clamped. -/
theorem registersAreWritten : Obligations.RegistersAreWritten :=
  ⟨registerWrite_violation, registerWrite_graceCfg, mailboxPush_full⟩

/-! ### Addresses -/

section
variable {a : Nat} (h : inTcm a = true)
include h

theorem inTcm_bounds : 0x10000000 ≤ a ∧ a < 0x10200000 := by
  simp only [inTcm, Bool.and_eq_true, decide_eq_true_eq] at h
  unfold tcmBase at h
  omega

theorem inHbm_of_inTcm : inHbm a = false := by
  have := inTcm_bounds h
  simp only [inHbm, Bool.and_eq_false_iff, decide_eq_false_iff_not]
  unfold hbmBase
  omega

theorem inTowpath_of_inTcm : inTowpath a = false := by
  have := inTcm_bounds h
  simp only [inTowpath, Bool.and_eq_false_iff, decide_eq_false_iff_not]
  unfold towpathBase
  omega

theorem inRom_of_inTcm : inRom a = false := by
  have := inTcm_bounds h
  simp only [inRom, decide_eq_false_iff_not]
  omega

theorem noAtomics_of_inTcm (s : State) : s.noAtomics a = false := by
  simp [State.noAtomics, inRom_of_inTcm h, inTowpath_of_inTcm h, inHbm_of_inTcm h, inMap, h]

theorem physWrite_of_inTcm (s : State) (cls n v : Nat) : s.physWrite cls a n v = (true, s.store a v n) := by
  simp [State.physWrite, inHbm_of_inTcm h, h]

theorem physRead_of_inTcm (s : State) (cls n : Nat) : s.physRead cls a n = (some (s.load a n), s) := by
  simp [State.physRead, inHbm_of_inTcm h, h]

end

theorem byte_dropResv (s : State) (p b n c : Nat) : (s.dropResv p b n).byte c = s.byte c := (rfl)

theorem rd_dropResv (s : State) (p b n o : Nat) : (s.dropResv p b n).rd o = s.rd o := (rfl)

theorem rd_store (s : State) (a v n o : Nat) : (s.store a v n).rd o = s.rd o := rd_congr (store_regs s a v n) o

theorem load_congr {s t : State} (h : t.mem = s.mem) (n : Nat) : ∀ a, t.load a n = s.load a n := by
  induction n with
  | zero => exact fun _ => rfl
  | succ n ih => exact fun a => by rw [State.load, ih, byte_congr h, State.load]

/-! ### Crossings -/

theorem crossParity_of_noInjection {s : State} (h : s.noInjection) : s.crossParity = s := by
  simp [State.crossParity, takeInjection_of_noInjection h]

theorem foldl_emit (tags : List Nat) (dst : Island) (s : State) :
    tags.foldl (fun t tag => t.emit (.crossing dst tag false)) s =
      { s with out := (tags.map fun tag => Out.crossing dst tag false).reverse ++ s.out } := by
  induction tags generalizing s with
  | nil => rfl
  | cons tag rest ih => rw [List.foldl_cons, ih]; simp [State.emit]
theorem loadStore_misaligned (s : State) (c : Core) (store : Bool) (width addr : Nat) (htow : inTowpath addr = true)
    (hmis : addr % width ≠ 0) :
    exec (.loadStoreMisaligned c store width addr) s
        = .next (s.emit (.coreException c (if store then 6 else 4) addr)) := by
  show execLoadStoreMisaligned c store width addr s = _
  cases store <;> simp [execLoadStoreMisaligned, htow, hmis, State.coreTrap, misalignedCause,
      exStoreMisaligned, exLoadMisaligned, ok]

theorem towpathAccess_wide (s : State) (h : Fin 4) (store : Bool) (width addr : Nat) (htow : inTowpath addr = true)
    (hwide : 4 < width) :
    exec (.wideTowpathAccess h store width addr) s
      = .next (s.emit (.coreException (.flagstone h) (if store then 7 else 5) addr)) := by
  show execWideTowpathAccess h store width addr s = _
  cases store <;> simp [execWideTowpathAccess, htow, hwide, State.coreTrap, exStoreAccess, exLoadAccess, ok]

theorem access_outside_map :
    ∀ (s : State) (h : Fin 4) (k : AccessKind) (width addr v : Nat),
        inMap addr width = false ∨ forbidden k addr = true →
    exec (.unmappedAccessFault (.flagstone h) k width addr v) s
      = .next (s.emit (.coreException (.flagstone h) (match k with | .fetch => 1 | .load => 5 | .store => 7)
          addr)) := by
  intro s h k width addr v hmap
  have hstop : (!inMap addr width || forbidden k addr) = true := by
    rcases hmap with h1 | h1 <;> simp [h1]
  show execUnmappedAccessFault (.flagstone h) k width addr v s = _
  cases k <;> simp [execUnmappedAccessFault, hstop, State.coreTrap, accessCause, exFetchAccess, exLoadAccess,
      exStoreAccess, ok]

theorem keystoneAccess_outside_map :
    ∀ (s : State) (k : AccessKind) (width addr v : Nat), inKeyRom addr = false →
    (inKeyRam addr = false ∧ inTowpath addr = false ∨ k = .fetch) →
    exec (.unmappedAccessFault .keystone k width addr v) s
      = .next (s.emit (.coreException .keystone (match k with | .fetch => 1 | .load => 5 | .store => 7) addr)) := by
  intro s k width addr v hrom hmap
  show execUnmappedAccessFault .keystone k width addr v s = _
  rcases hmap with ⟨hram, htow⟩ | rfl
  · cases k <;> simp [execUnmappedAccessFault, State.keystoneAccess, hrom, hram, htow, State.coreTrap, accessCause,
      exFetchAccess, exLoadAccess, exStoreAccess, ok]
  · simp [execUnmappedAccessFault, State.keystoneAccess, hrom, State.coreTrap, accessCause, exFetchAccess, ok]

theorem atomic_barred (s : State) (h : Fin 4) (op : AmoOp) (width addr v : Nat) (hbarred : s.noAtomics addr = true) :
    exec (.atomicAccessFault h op width addr v) s = .next (s.emit (.coreException (.flagstone h) 7 addr)) := by
  show execAtomicAccessFault h op width addr v s = _
  simp [execAtomicAccessFault, hbarred, State.coreTrap, exStoreAccess, ok]

theorem atomic_misaligned (s : State) (h : Fin 4) (op : AmoOp) (width addr v : Nat) (hopen : s.noAtomics addr = false)
    (hmis : addr % width ≠ 0) :
    exec (.atomicAccessFault h op width addr v) s = .next (s.emit (.coreException (.flagstone h) 6 addr)) := by
  show execAtomicAccessFault h op width addr v s = _
  simp [execAtomicAccessFault, hopen, hmis, State.coreTrap, exStoreMisaligned, ok]

theorem store_to_tcm (s : State) (h : Fin 4) (n a v : Nat) (_hn : 1 ≤ n) (hfirst : inTcm a = true)
    (hlast : inTcm (a + (n - 1)) = true) :
    Completes (.unmappedAccessFault (.flagstone h) .store n a v) s fun t =>
      t.load a n = v % 256 ^ n ∧ (∀ c, c < a ∨ a + n ≤ c → t.byte c = s.byte c) ∧ ∀ o, t.rd o = s.rd o := by
  have hmap : inMap a n = true := by simp [inMap, hfirst, hlast]
  have hforbidden : forbidden .store a = false := inRom_of_inTcm hfirst
  have hexec : execUnmappedAccessFault (.flagstone h) .store n a v s
      = .next ((s.dropResv (h.val / 2) a n).store a v n) := by
    simp [execUnmappedAccessFault, hmap, hforbidden, State.coreAccess, inTowpath_of_inTcm hfirst,
        inHbm_of_inTcm hfirst,
      inRom_of_inTcm hfirst, physWrite_of_inTcm hfirst, ok]
  refine ⟨_, hexec, load_store n _ a v, fun c hc => ?_, fun o => ?_⟩
  · rw [byte_store_ne n _ a v c hc, byte_dropResv]
  · rw [rd_store, rd_dropResv]

theorem swap_in_tcm (s : State) (h : Fin 4) (a v : Nat) (halign : a % 4 = 0) (htcm : inTcm a = true) :
    Completes (.atomicAccessFault h .swap 4 a v) s fun t =>
      t.resp = word (s.load a 4) ∧ t.load a 4 = v % 2 ^ 32 ∧ (∀ c, c < a ∨ a + 4 ≤ c → t.byte c = s.byte c) ∧
        ∀ o, t.rd o = s.rd o := by
  have hexec : execAtomicAccessFault h .swap 4 a v s =
      .next (((s.dropResv (h.val / 2) a 4).store a (v % 2 ^ 32) 4).answer (word (s.load a 4))) := by
    simp [execAtomicAccessFault, noAtomics_of_inTcm htcm, halign, inHbm_of_inTcm htcm, State.atomic,
        physRead_of_inTcm htcm,
      physWrite_of_inTcm htcm, amoResult, ok]
  refine ⟨_, hexec, rfl, ?_, fun c hc => ?_, fun o => ?_⟩
  · rw [load_congr (answer_mem _ _), load_store]
    omega
  · rw [byte_answer, byte_store_ne 4 _ a _ c hc, byte_dropResv]
  · rw [rd_answer, rd_store, rd_dropResv]

theorem crossing_answered (s : State) (src dst : Island) (tag : Nat) (hinj : s.noInjection)
    (hanswers : s.crossAnswers dst = true) :
    exec (.crossingDelivery src dst false tag) s = .next (s.emit (.crossing dst tag true)) := by
  show execCrossingDelivery src dst false tag s = _
  simp [execCrossingDelivery, crossParity_of_noInjection hinj, hanswers, ok]

theorem crossing_data_waits (s : State) (src dst : Island) (tag : Nat) (hinj : s.noInjection)
    (hholds : s.crossHolds dst = true) :
    Completes (.crossingDelivery src dst true tag) s fun t =>
      t.heldFor dst = s.heldFor dst ++ [tag] ∧ t.out = s.out ∧ SameRegs s t := by
  have hexec : execCrossingDelivery src dst true tag s
      = .next { s with crossHeld := s.crossHeld ++ [(src, dst, tag)] } := by
    simp [execCrossingDelivery, crossParity_of_noInjection hinj, hholds, ok]
  exact ⟨_, hexec, by simp [State.heldFor], rfl, sameRegs_of_eq rfl rfl⟩

theorem crossing_waits_behind (s : State) (src dst : Island) (tag : Nat) (hinj : s.noInjection)
    (hanswers : s.crossAnswers dst = false) (hwaits : s.crossWaits src dst = true) :
    Completes (.crossingDelivery src dst false tag) s fun t =>
      t.heldFor dst = s.heldFor dst ++ [tag] ∧ t.out = s.out ∧ SameRegs s t := by
  have hexec : execCrossingDelivery src dst false tag s
      = .next { s with crossHeld := s.crossHeld ++ [(src, dst, tag)] } := by
    simp [execCrossingDelivery, crossParity_of_noInjection hinj, hanswers, hwaits, ok]
  exact ⟨_, hexec, by simp [State.heldFor], rfl, sameRegs_of_eq rfl rfl⟩

theorem crossing_delivered (s : State) (src dst : Island) (data : Bool) (tag : Nat) (hinj : s.noInjection)
    (hholds : (data = true → s.crossHolds dst = false)) (hanswers : s.crossAnswers dst = false)
    (hwaits : s.crossWaits src dst = false) :
    exec (.crossingDelivery src dst data tag) s = .next (s.emit (.crossing dst tag false)) := by
  show execCrossingDelivery src dst data tag s = _
  cases data with
  | false => simp [execCrossingDelivery, crossParity_of_noInjection hinj, hanswers, hwaits, ok]
  | true => simp [execCrossingDelivery, crossParity_of_noInjection hinj, hholds rfl, hwaits, ok]

theorem crossing_released (s : State) (dst : Island) (hholds : s.crossHolds dst = false) :
    Completes (.crossingHeldRelease dst) s fun t =>
      t.heldFor dst = [] ∧ t.out = ((s.heldFor dst).map fun tag => Out.crossing dst tag false).reverse ++ s.out ∧
        SameRegs s t := by
  have hexec : execCrossingHeldRelease dst s = .next { s with
      crossHeld := s.crossHeld.filter (fun q => q.2.1 ≠ dst),
      out := ((s.heldFor dst).map fun tag => Out.crossing dst tag false).reverse ++ s.out } := by
    simp [execCrossingHeldRelease, hholds, foldl_emit, ok]
  exact ⟨_, hexec, by simp [State.heldFor], rfl, sameRegs_of_eq rfl rfl⟩

/-- Settles O24: where an address lies decides who answers, and a request that must wait joins those that do. -/
theorem coresAndCrossingsAnswer : Obligations.CoresAndCrossingsAnswer :=
  ⟨loadStore_misaligned, towpathAccess_wide, access_outside_map, keystoneAccess_outside_map, atomic_barred,
    atomic_misaligned, store_to_tcm, swap_in_tcm, crossing_answered, crossing_data_waits, crossing_waits_behind,
    crossing_delivered, crossing_released⟩

end Sys2Proof.Machine
end
section
/-!
Signpost's claims, Milepost's queues and requests, the hosts' mailbox commands,
    and the watch over the pairs (R378 to R392).
-/

namespace Sys2Proof.Machine

/-! ### Queues -/

theorem inbound_setInbound_self (s : State) (m side : Nat) (q : List Nat) : (s.setInbound m side q).inbound m
    side = q :=
  spGetD_set_self _ _ _ _

theorem inbound_setInbound_ne (s : State) (m : Nat) {side side' : Nat} (h : side' ≠ side) (q : List Nat) :
    (s.setInbound m side q).inbound m side' = s.inbound m side' := spGetD_set_ne _ _ _ (by omega)

theorem other_side_ne (far : Bool) : sideOf far ≠ 1 - sideOf far := by cases far <;> decide

theorem mboxReq_ne_mboxDb (m a b : Nat) : R.MPO_REQ m a ≠ R.MPO_DB m b := by
  unfold R.MPO_REQ R.MPO_DB; omega

/-- What a pushed word changes: its queue, and the line that wakes the sideband's host. -/
theorem mboxPush_cases (s : State) (m side v : Nat) :
    s.mboxPush m side v = s.setInbound m (1 - side) (s.inbound m (1 - side) ++ [v]) ∨
      s.mboxPush m side v = (s.setInbound m (1 - side) (s.inbound m (1 - side) ++ [v])).emit (.i3c 1) := by
  unfold State.mboxPush
  dsimp only
  split_ifs
  · exact .inr rfl
  · exact .inl rfl
theorem interruptClaim_of_eligible (s : State) (i : Initiator) (p : Priv) (c : Fin 4)
    (hsigOwner : sigOwner i p c.val = true) (hclaimable : s.claimable c.val ≠ 0) :
    Completes (.interruptClaim i p c) s fun t =>
      t.resp = word (s.claimable c.val) ∧ t.inService (s.claimable c.val) = true ∧
          t.sigPending (s.claimable c.val) = false ∧
        SameRegs s t := by
  have hexec : execInterruptClaim i p c s = .next ({ s with
      pair := { s.pair with service := (s.claimable c.val, c.val) :: s.pair.service },
      sigEvents := s.sigEvents.filter (· ≠ s.claimable c.val) }.answer (word (s.claimable c.val))) := by
    simp [execInterruptClaim, State.readClaim, hsigOwner, hclaimable, ok]
  exact ⟨_, hexec, rfl, by simp [State.inService], by simp [State.sigPending, State.inService], by simp⟩

theorem interruptClaim_of_none_eligible (s : State) (i : Initiator) (p : Priv) (c : Fin 4)
    (hsigOwner : sigOwner i p c.val = true) (hclaimable : s.claimable c.val = 0) :
    exec (.interruptClaim i p c) s = .next (s.answer 0) := by
  show execInterruptClaim i p c s = _
  simp [execInterruptClaim, hsigOwner, hclaimable, State.readClaim]

theorem interruptComplete_of_sigOwner (s : State) (i : Initiator) (p : Priv) (c : Fin 4) (v : Word)
    (hsigOwner : sigOwner i p c.val = true) :
    Completes (.interruptComplete i p c v) s fun t =>
      (fget v F.SIG_CLAIM_SOURCE, c.val) ∉ t.pair.service ∧
        (∀ q, q ≠ (fget v F.SIG_CLAIM_SOURCE, c.val) → (q ∈ t.pair.service ↔ q ∈ s.pair.service)) ∧ SameRegs s t := by
  show ∃ t, execInterruptComplete i p c v s = .next t ∧ _
  simp [execInterruptComplete, hsigOwner, State.writeClaim, ok]
  omega

theorem machineTimerInterrupt_completes (s : State) (p : Fin 2) :
    Completes (.machineTimerInterrupt p) s fun t => t.mtip p.val = true ∧ SameRegs s t := by
  have hcmp : ({ s with now := max s.now (s.mtimecmp p.val) } : State).mtimecmp p.val = s.mtimecmp p.val := by
    simp -implicitDefEqProofs [State.mtimecmp]
  refine ⟨{ s with now := max s.now (s.mtimecmp p.val) }, rfl, ?_, by simp⟩
  rw [State.mtip, hcmp]
  simp

theorem mailboxPush_of_room (s : State) (i : Initiator) (m : Fin 8) (far : Bool) (v : Word)
    (hisEndpoint : s.isEndpoint i m.val (sideOf far) = true)
    (hinbound : (s.inbound m.val (1 - sideOf far)).length < 16) :
    Completes (.mailboxPush i m far v) s fun t =>
      t.inbound m.val (1 - sideOf far) = s.inbound m.val (1 - sideOf far) ++ [v.toNat] ∧
        t.inbound m.val (sideOf far) = s.inbound m.val (sideOf far) ∧ (∀ a b, t.out ≠ .busError a b :: s.out) ∧
            SameRegs s t := by
  have hexec : execMailboxPush i m far v s = .next (s.mboxPush m.val (sideOf far) v.toNat) := by
    simp [execMailboxPush, State.writeMpoTx, State.mboxTx, hisEndpoint, Nat.not_le.mpr hinbound, ok]
  refine ⟨_, hexec, ?_⟩
  have hout : ∀ a b, s.out ≠ .busError a b :: s.out := fun a b h => by simpa using congrArg List.length h
  rcases mboxPush_cases s m.val (sideOf far) v.toNat with h | h <;> rw [h]
  · exact ⟨inbound_setInbound_self _ _ _ _, inbound_setInbound_ne _ _ (other_side_ne far) _, hout,
      sameRegs_of_eq rfl rfl⟩
  · refine ⟨inbound_setInbound_self _ _ _ _, inbound_setInbound_ne _ _ (other_side_ne far) _, fun a b h => ?_,
      sameRegs_of_eq rfl rfl⟩
    simp [State.emit, State.setInbound] at h

theorem mailboxPop_of_cons (s : State) (i : Initiator) (m : Fin 8) (far : Bool) (x : Nat) (rest : List Nat)
    (hisEndpoint : s.isEndpoint i m.val (sideOf far) = true) (hinbound : s.inbound m.val (sideOf far) = x :: rest) :
    Completes (.mailboxPop i m far) s fun t =>
      t.resp = word x ∧ t.inbound m.val (sideOf far) = rest ∧ SameRegs s t := by
  have hexec : execMailboxPop i m far s = .next ((s.setInbound m.val (sideOf far) rest).answer (word x)) := by
    simp [execMailboxPop, State.readMpoRx, hisEndpoint, hinbound, ok]
  exact ⟨_, hexec, rfl, inbound_setInbound_self _ _ _ _, sameRegs_of_eq rfl rfl⟩

theorem doorbellSet_rings (s : State) (i : Initiator) (m : Fin 8) (far : Bool) (v : Word)
    (hisEndpoint : s.isEndpoint i m.val (sideOf far) = true) (hle : v ≠ 0) :
    Completes (.doorbellSet i m far v) s fun t =>
      t.rd (R.MPO_DB m.val (1 - sideOf far)) = (s.rd (R.MPO_DB m.val (1 - sideOf far)) ||| v) ∧
        t.flag (R.MPO_REQ m.val (sideOf far)) F.MPO_REQ_OUTSTANDING = true ∧
        OnlyRegs [R.MPO_DB m.val (1 - sideOf far), R.MPO_REQ m.val (sideOf far)] s t := by
  have hne := mboxReq_ne_mboxDb m.val (sideOf far) (1 - sideOf far)
  have hexec : execDoorbellSet i m far v s = .next (s.mboxRing m.val (sideOf far) v) := by
    simp [execDoorbellSet, State.writeMpoDbSet, hisEndpoint, ok]
  refine ⟨_, hexec, ?_⟩
  unfold State.mboxRing
  rw [if_neg hle]
  dsimp only
  split_ifs with hout
  · exact ⟨by simp [rd_orReg], hout, by simp⟩
  · exact ⟨by simp [rd_raise, rd_orReg, Ne.symm hne], by simp, by simp⟩

theorem mailboxAcknowledge_of_outstanding (s : State) (i : Initiator) (m : Fin 8) (far : Bool) (v : Word)
    (hisEndpoint : s.isEndpoint i m.val (sideOf far) = true) (hgo : fget v F.MPO_ACK_GO = 1)
    (houtstanding : s.flag (R.MPO_REQ m.val (1 - sideOf far)) F.MPO_REQ_OUTSTANDING = true) :
    Completes (.mailboxAcknowledge i m far v) s fun t =>
      t.rf (R.MPO_REQ m.val (1 - sideOf far)) F.MPO_REQ_CODE = fget v F.MPO_ACK_CODE ∧
        t.flag (R.MPO_REQ m.val (1 - sideOf far)) F.MPO_REQ_ACKED = true ∧
        t.flag (R.MPO_REQ m.val (1 - sideOf far)) F.MPO_REQ_OUTSTANDING = false ∧
        OnlyRegs [R.MPO_REQ m.val (1 - sideOf far)] s t := by
  have hcode : fget v F.MPO_ACK_CODE < 2 ^ (F.MPO_REQ_CODE.hi + 1 - F.MPO_REQ_CODE.lo) := fget_lt v F.MPO_ACK_CODE
  have hexec : execMailboxAcknowledge i m far v s = .next (s.mboxAck m.val (sideOf far) (fget v F.MPO_ACK_CODE)) := by
    simp [execMailboxAcknowledge, State.writeMpoAck, hisEndpoint, hgo, ok]
  refine ⟨_, hexec, ?_⟩
  unfold State.mboxAck
  dsimp only
  rw [if_pos houtstanding]
  split_ifs
  · exact ⟨by simpa using hcode, by simp, by simp, by simp⟩
  · exact ⟨by simpa using hcode, by simp, by simp, by simp⟩

theorem mailboxRequestTimeout_of_due (s : State) (m : Fin 8) (far : Bool) (hmboxUsable : s.mboxUsable m.val = true)
    (hsideOf : 2 * m.val + sideOf far ∉ s.pair.expired)
    (hspGetD : spGetD 0 s.pair.due (2 * m.val + sideOf far) ≤ s.now)
    (houtstanding : s.flag (R.MPO_REQ m.val (sideOf far)) F.MPO_REQ_OUTSTANDING = true) :
    Completes (.mailboxRequestTimeout m far) s fun t =>
      t.flag (R.MPO_REQ m.val (sideOf far)) F.MPO_REQ_TIMEOUT = true ∧
        t.flag (R.MPO_REQ m.val (sideOf far)) F.MPO_REQ_OUTSTANDING = true ∧
        OnlyRegs [R.MPO_REQ m.val (sideOf far)] s t := by
  show ∃ t, execMailboxRequestTimeout m far s = .next t ∧ _
  simp [execMailboxRequestTimeout, hmboxUsable, hsideOf, hspGetD, houtstanding, ok]

/-- Settles O25: a claim and a queue's word are what the operation itself wrote. -/
theorem signpostAndMilepostSignal : Obligations.SignpostAndMilepostSignal :=
  ⟨interruptClaim_of_eligible, interruptClaim_of_none_eligible, interruptComplete_of_sigOwner,
    machineTimerInterrupt_completes, mailboxPush_of_room, mailboxPop_of_cons, doorbellSet_rings,
    mailboxAcknowledge_of_outstanding, mailboxRequestTimeout_of_due⟩

/-! ### A host's mailbox commands -/

/-- A command that a mailbox takes acts on it. -/
theorem mailboxCmd_of_takes {s : State} {k act m : Nat} (h : s.mailboxTakes k act m) (f : Nat → State → State) :
    s.mailboxCmd k act true f = f m s := by
  obtain ⟨hholds, hact, horigin, -, hready, hbox⟩ := h
  simp [State.mailboxCmd, hholds, hact, Nat.not_lt.mpr horigin, hready, hbox]
theorem mailboxCmdSend_of_room (s : State) (k : Fin 65536) (m : Nat) (ws : List Nat)
    (hmailboxTakes : s.mailboxTakes k.val 0 m) (hcountOk : countOk (s.ctx k.val).boxCount = true)
    (hinbound : (s.inbound m 0).length + (s.ctx k.val).boxCount ≤ 16) :
    exec (.mailboxCmdSend k ws) s
      = .next (((List.range (s.ctx k.val).boxCount).foldl (fun u j => u.mboxPush m 1 (hostWord (s.ctx
          k.val).proto (ws[j]?.getD 0))) s).groupAnswer
          k.val 0 []) := by
  show execMailboxCmdSend k ws s = _
  unfold execMailboxCmdSend
  dsimp only
  rw [hcountOk, mailboxCmd_of_takes hmailboxTakes, if_neg (Nat.not_lt.mpr hinbound), ok]

theorem mailboxCmdSend_of_full (s : State) (k : Fin 65536) (m : Nat) (ws : List Nat)
    (hmailboxTakes : s.mailboxTakes k.val 0 m) (hcountOk : countOk (s.ctx k.val).boxCount = true)
    (hinbound : 16 < (s.inbound m 0).length + (s.ctx k.val).boxCount) :
    exec (.mailboxCmdSend k ws) s = .next (s.groupAnswer k.val (stMailboxFull (s.ctx k.val).proto) []) := by
  show execMailboxCmdSend k ws s = _
  unfold execMailboxCmdSend
  dsimp only
  rw [hcountOk, mailboxCmd_of_takes hmailboxTakes, if_pos hinbound, ok]

theorem mailboxCmdReceive_takes (s : State) (k : Fin 65536) (m : Nat) (q : List Nat)
    (hmailboxTakes : s.mailboxTakes k.val 1 m) (hcountOk : countOk (s.ctx k.val).boxCount = true)
    (hinbound : (s.inbound m 1).take (s.ctx k.val).boxCount = q) :
    exec (.mailboxCmdReceive k) s
      = .next ((s.setInbound m 1 ((s.inbound m 1).drop (s.ctx k.val).boxCount)).groupAnswer k.val 0
          (hostWord (s.ctx k.val).proto q.length :: q.map (hostWord (s.ctx k.val).proto) ++ List.replicate (16
              - q.length) 0)) := by
  show execMailboxCmdReceive k s = _
  unfold execMailboxCmdReceive
  dsimp only
  rw [hcountOk, mailboxCmd_of_takes hmailboxTakes, hinbound, ok]

theorem mailboxCmdDoorbell_rings (s : State) (k : Fin 65536) (m : Nat) (hmailboxTakes : s.mailboxTakes k.val 2 m) :
    exec (.mailboxCmdDoorbell k) s = .next ((s.mboxRing m 1 (word (s.ctx k.val).boxArg)).groupAnswer k.val 0 []) := by
  show execMailboxCmdDoorbell k s = _
  unfold execMailboxCmdDoorbell
  dsimp only
  rw [mailboxCmd_of_takes hmailboxTakes, ok]

theorem mailboxCmdAck_acknowledges (s : State) (k : Fin 65536) (m : Nat) (hmailboxTakes : s.mailboxTakes k.val 3 m) :
    exec (.mailboxCmdAck k) s = .next ((s.mboxAck m 1 ((s.ctx k.val).boxArg % 2 ^ 16)).groupAnswer k.val 0 []) := by
  show execMailboxCmdAck k s = _
  unfold execMailboxCmdAck
  dsimp only
  rw [mailboxCmd_of_takes hmailboxTakes, ok]

theorem mailboxCmdStatus_reads (s : State) (k : Fin 65536) (m : Nat) (hmailboxTakes : s.mailboxTakes k.val 4 m) :
    exec (.mailboxCmdStatus k) s
      = .next (((s.wr (R.MPO_DB m 1) 0).wr (R.MPO_REQ m 1)
          (word ((s.rd (R.MPO_REQ m 1)).toNat - ((s.rd (R.MPO_REQ m 1)).toNat &&& 0x70000000)))).groupAnswer k.val 0
          [hostWord (s.ctx k.val).proto (s.qstat m 1).toNat, hostWord (s.ctx k.val).proto (s.rd (R.MPO_DB m 1)).toNat,
            hostWord (s.ctx k.val).proto (s.rd (R.MPO_REQ m 1)).toNat, 0]) := by
  show execMailboxCmdStatus k s = _
  unfold execMailboxCmdStatus
  dsimp only
  rw [mailboxCmd_of_takes hmailboxTakes, ok]

theorem lockstepMismatch_of_pairRuns_noInjection (s : State) (p : Fin 2) (hpairRuns : s.pairRuns p.val = true)
    (hnoInjection : s.noInjection) :
    exec (.lockstepMismatch p) s = .next ((s.carry (2 + p.val) 2 false).startRestart p.val rstLockstep true) := by
  show execLockstepMismatch p s = _
  simp [execLockstepMismatch, hpairRuns, takeInjection_of_noInjection hnoInjection]

theorem heartbeatMiss_restarts (s : State) (p : Fin 2) (hpairRuns : s.pairRuns p.val = true)
    (hbeatMissed : s.beatMissed p.val = true) (hcountRestart : (s.countRestart p.val).1 = false) :
    exec (.heartbeatMiss p) s = .next ((s.countRestart p.val).2.beginRestart p.val rstHeartbeat) := by
  have hrun : s.restarting p.val = false := by
    simp only [State.pairRuns, Bool.and_eq_true, Bool.not_eq_true'] at hpairRuns
    exact hpairRuns.2
  show execHeartbeatMiss p s = _
  simp [execHeartbeatMiss, hpairRuns, hbeatMissed, State.startRestart, hrun, hcountRestart, ok]

theorem heartbeatMiss_third (s : State) (p : Fin 2) (hpairRuns : s.pairRuns p.val = true)
    (hbeatMissed : s.beatMissed p.val = true) (hcountRestart : (s.countRestart p.val).1 = true) :
    exec (.heartbeatMiss p) s
      = .next (((s.countRestart p.val).2.beginRestart p.val rstHeartbeat).requestHaven hvKeystone) := by
  have hrun : s.restarting p.val = false := by
    simp only [State.pairRuns, Bool.and_eq_true, Bool.not_eq_true'] at hpairRuns
    exact hpairRuns.2
  show execHeartbeatMiss p s = _
  simp [execHeartbeatMiss, hpairRuns, hbeatMissed, State.startRestart, hrun, hcountRestart, ok]

theorem pairRestart_media (s : State) (v : Word) (hpair : fget v F.KEY_PAIR_RST_PAIR = 2)
    (hreleased : 1 ∈ s.pair.released) (hrestarting : s.restarting 1 = false) :
    exec (.pairRestart .port v) s = .next (s.beginRestart 1 rstCommand) := by
  have hbits : bitAt 2 0 = false ∧ bitAt 2 1 = true := by decide
  show execPairRestart .port v s = _
  simp [execPairRestart, State.writePairRst, hpair, hbits, hreleased, State.startRestart, hrestarting, ok]

theorem pairRestart_port (s : State) (v : Word) (hpair : fget v F.KEY_PAIR_RST_PAIR = 1)
    (hreleased : 0 ∈ s.pair.released) (hrestarting : s.restarting 0 = false) :
    exec (.pairRestart .media v) s = .next (s.beginRestart 0 rstCommand) := by
  have hbits : bitAt 1 0 = true ∧ bitAt 1 1 = false := by decide
  show execPairRestart .media v s = _
  simp [execPairRestart, State.writePairRst, hpair, hbits, hreleased, State.startRestart, hrestarting, ok]

theorem pairRestartDone_starts (s : State) (p : Fin 2) (hrestarting : s.restarting p.val = true)
    (hvecOk : vecOk (s.rstVec p.val) = true) :
    Completes (.pairRestartDone p) s fun t =>
      t.restarting p.val = false ∧ t.ready (pairReady p.val) = true ∧
        t.out = .signal (16 + p.val) [s.rstVec p.val, s.rf (R.KEY_PAIR_STAT p.val) F.KEY_PAIR_STAT_CAUSE] :: s.out ∧
        OnlyRegs [R.KEY_PAIR_STAT p.val, R.SYS_READY, R.SYS_READY_CHG] s t := by
  have hregs : R.KEY_PAIR_STAT p.val ≠ R.SYS_READY ∧ R.KEY_PAIR_STAT p.val ≠ R.SYS_READY_CHG := by
    unfold R.KEY_PAIR_STAT R.SYS_READY R.SYS_READY_CHG; omega
  have hexec : execPairRestartDone p s = .next ((((s.wf (R.KEY_PAIR_STAT p.val) F.KEY_PAIR_STAT_RESTARTING 0).setReady
      (pairReady p.val) true).beat p.val).emit (.signal (16 + p.val) [s.rstVec p.val,
        s.rf (R.KEY_PAIR_STAT p.val) F.KEY_PAIR_STAT_CAUSE])) := by
    simp [execPairRestartDone, hrestarting, hvecOk, ok]
  refine ⟨_, hexec, ?_, ?_, ?_, ?_⟩
  · simp -implicitDefEqProofs [State.restarting, State.beat, hregs.1, hregs.2]
  · simp -implicitDefEqProofs [State.beat, State.emit]
  · simp [State.beat, State.emit]
  · simp [State.beat]

theorem pairRestartDone_of_bad_vector (s : State) (p : Fin 2) (hrestarting : s.restarting p.val = true)
    (hvecOk : vecOk (s.rstVec p.val) = false) : exec (.pairRestartDone p) s = .next (s.requestHaven hvKeystone) := by
  show execPairRestartDone p s = _
  simp [execPairRestartDone, hrestarting, hvecOk]

theorem heartbeat_of_port (s : State) : exec (.heartbeat .port 0) s = .next (s.beat 0) := by
  show execHeartbeat .port 0 s = _
  simp [execHeartbeat, State.writeHb]

theorem heartbeat_of_media (s : State) : exec (.heartbeat .media 1) s = .next (s.beat 1) := by
  show execHeartbeat .media 1 s = _
  simp [execHeartbeat, State.writeHb]

theorem heartbeatConfig_completes (s : State) (i : Initiator) (v : Word) (hpair : isPair i = true) :
    Completes (.heartbeatConfig i .machine v) s fun t =>
      t.rf R.KEY_HB_CFG F.KEY_HB_CFG_HB_MS = fget v F.KEY_HB_CFG_HB_MS ∧ OnlyRegs [R.KEY_HB_CFG] s t := by
  have hms : fget v F.KEY_HB_CFG_HB_MS < 2 ^ 16 := fget_lt v F.KEY_HB_CFG_HB_MS
  have hwf : ((s.wf R.KEY_HB_CFG F.KEY_HB_CFG_HB_MS (fget v F.KEY_HB_CFG_HB_MS)).rf R.KEY_HB_CFG F.KEY_HB_CFG_HB_MS) =
      fget v F.KEY_HB_CFG_HB_MS := by simpa using hms
  have hexec : execHeartbeatConfig i .machine v s = .next (s.writeHbCfg i .machine v) := rfl
  refine ⟨_, hexec, ?_⟩
  unfold State.writeHbCfg
  rw [if_neg (by simp [hpair])]
  dsimp only
  split_ifs
  · exact ⟨by simpa -implicitDefEqProofs [State.beat] using hms, by simp [State.beat]⟩
  · exact ⟨hwf, by simp⟩

theorem watchdogRestart_completes (s : State) :
    Completes (.watchdogRestart .keystone) s fun t =>
      t.pair.kick = s.now ∧ t.ready .keystone = true ∧ OnlyRegs [R.SYS_READY, R.SYS_READY_CHG] s t := by
  show ∃ t, execWatchdogRestart .keystone s = .next t ∧ _
  simp [execWatchdogRestart, isKeystone, ok]

theorem deviceResetRequest_of_unlock (s : State) (i : Initiator) (v : Word) (hpair : isPair i = true)
    (hunlock : fget v F.KEY_DEV_REQ_UNLOCK = 0x5EED) :
    exec (.deviceResetRequest i .machine v) s = .next (s.flushFirst .keyCmd) := by
  show execDeviceResetRequest i .machine v s = _
  simp [execDeviceResetRequest, hpair, hunlock, State.writeDevReq]

theorem keyStuckTimeout_of_stuckLong (s : State) (p : Fin 2) (hstuckLong : s.stuckLong p.val = true) :
    exec (.keyStuckTimeout p) s = .next (s.flushFirst .keyCmd) := by
  show execKeyStuckTimeout p s = _
  simp [execKeyStuckTimeout, hstuckLong]

/-- Settles O26: a mailbox command acts on its group's box, and a restart begins or ends as its conditions say. -/
theorem mailboxesAndPairsAct : Obligations.MailboxesAndPairsAct :=
  ⟨mailboxCmdSend_of_room, mailboxCmdSend_of_full, mailboxCmdReceive_takes, mailboxCmdDoorbell_rings,
    mailboxCmdAck_acknowledges, mailboxCmdStatus_reads, lockstepMismatch_of_pairRuns_noInjection,
    heartbeatMiss_restarts, heartbeatMiss_third, pairRestart_media, pairRestart_port, pairRestartDone_starts,
    pairRestartDone_of_bad_vector, heartbeat_of_port, heartbeat_of_media, heartbeatConfig_completes,
    watchdogRestart_completes, deviceResetRequest_of_unlock, keyStuckTimeout_of_stuckLong⟩

end Sys2Proof.Machine
end
section
/-!
Turnpike's translations, and what causes a device reset (R60 to R72, R359 to R377).
-/

namespace Sys2Proof.Machine

theorem writeInv_of_pair {s : State} {i : Initiator} (hpair : isPair i = true)
    (hbusy : s.flag R.TRN_INV_STAT F.TRN_INV_STAT_BUSY = false) (q : TlbEntry → Bool) :
    s.writeInv i .machine q = (s.tlbDrop q).wf R.TRN_INV_STAT F.TRN_INV_STAT_BUSY 1 := by
  simp [State.writeInv, hpair, hbusy]

/-- A DMA that is not translated faults, and its requester is told. -/
theorem execTranslate_of_fault {s t : State} {st : Fin 47} {a : Nat} {write : Bool}
    (h : s.translate st.val a write = (none, t)) (k : Fin 65536) :
    execTranslate st a write k s = .next (t.requesterFault st.val a write k.val) := by
  simp only [execTranslate, h, ok]
theorem translate_bare (s : State) (st : Fin 47) (a : Nat) (write : Bool) (k : Fin 65536)
    (hfaulted : s.flag (R.TRN_SCTX st.val) F.TRN_SCTX_FAULTED = false)
    (hmode : s.rf (R.TRN_SCTX st.val) F.TRN_SCTX_MODE = trnBare) (hle : a < 2 ^ 47) (hdmaRegion : dmaRegion a = true)
    : exec (.translate st a write k) s = .next (s.trnGives a).2 := by
  have hmod : a % 2 ^ 48 = a := Nat.mod_eq_of_lt (Nat.lt_of_lt_of_le hle (by decide))
  have htrans : s.translate st.val a write = s.trnGives a := by
    unfold State.translate
    dsimp only
    rw [hfaulted, hmode, hmod, hdmaRegion, if_neg (by decide), if_neg (by decide), if_neg (Nat.not_le.mpr hle),
        if_pos rfl,
      if_pos rfl]
  show execTranslate st a write k s = _
  simp only [execTranslate, htrans, State.trnGives, ok]

theorem translate_of_stopped (s : State) (st : Fin 47) (a : Nat) (write : Bool) (k : Fin 65536)
    (hfaulted : s.flag (R.TRN_SCTX st.val) F.TRN_SCTX_FAULTED = true) :
    exec (.translate st a write k) s
      = .next ((s.trnFault st.val (a % 2 ^ 48) write flStopped).requesterFault st.val a write k.val) := by
  show execTranslate st a write k s = _
  refine execTranslate_of_fault ?_ k
  unfold State.translate
  dsimp only
  rw [if_pos hfaulted]

theorem translate_of_off (s : State) (st : Fin 47) (a : Nat) (write : Bool) (k : Fin 65536)
    (hfaulted : s.flag (R.TRN_SCTX st.val) F.TRN_SCTX_FAULTED = false)
    (hmode : s.rf (R.TRN_SCTX st.val) F.TRN_SCTX_MODE = trnOff) :
    exec (.translate st a write k) s
      = .next ((s.trnFault st.val (a % 2 ^ 48) write flOff).requesterFault st.val a write k.val) := by
  show execTranslate st a write k s = _
  refine execTranslate_of_fault ?_ k
  unfold State.translate
  dsimp only
  rw [hfaulted, hmode, if_neg (by decide), if_pos rfl]

theorem translate_out_of_range (s : State) (st : Fin 47) (a : Nat) (write : Bool) (k : Fin 65536)
    (hfaulted : s.flag (R.TRN_SCTX st.val) F.TRN_SCTX_FAULTED = false)
    (hmode : s.rf (R.TRN_SCTX st.val) F.TRN_SCTX_MODE = trnBare) (hle : 2 ^ 47 ≤ a % 2 ^ 48) :
    exec (.translate st a write k) s
      = .next ((s.trnFault st.val (a % 2 ^ 48) write flRange).requesterFault st.val a write k.val) := by
  show execTranslate st a write k s = _
  refine execTranslate_of_fault ?_ k
  unfold State.translate
  dsimp only
  rw [hfaulted, hmode, if_neg (by decide), if_neg (by decide), if_pos hle]

theorem streamConfig_of_host_stream (s : State) (i : Initiator) (st : Fin 47) (v : Word) (hpair : isPair i = true)
    (hmode : fget (fset v F.TRN_SCTX_FAULTED 0) F.TRN_SCTX_MODE ≠ 3) (hst : st.val < 32) :
    exec (.streamConfig i .machine st v) s
      = .next ((s.writeFields (R.TRN_SCTX st.val) (fset v F.TRN_SCTX_FAULTED 0)).tlbDrop fun e => e.stream
          = st.val) := by
  have hsmall : ¬ 32 ≤ st.val := Nat.not_le.mpr hst
  show execStreamConfig i .machine st v s = _
  simp only [execStreamConfig, State.writeSctx, pairMachine_machine, hpair]
  rw [if_neg (by simpa using hmode), if_neg (by simp [hsmall]), ok]

theorem streamFaultClear_of_host_stream (s : State) (i : Initiator) (st : Fin 47) (hpair : isPair i = true)
    (hmode : fget (fset (s.rd (R.TRN_SCTX st.val)) F.TRN_SCTX_FAULTED 1) F.TRN_SCTX_MODE ≠ 3) (hst : st.val < 32) :
    exec (.streamFaultClear i .machine st) s
      = .next ((s.writeFields (R.TRN_SCTX st.val) (fset (s.rd (R.TRN_SCTX st.val)) F.TRN_SCTX_FAULTED
          1)).tlbDrop fun e =>
          e.stream = st.val) := by
  have hsmall : ¬ 32 ≤ st.val := Nat.not_le.mpr hst
  show execStreamFaultClear i .machine st s = _
  simp only [execStreamFaultClear, State.writeSctx, pairMachine_machine, hpair]
  rw [if_neg (by simpa using hmode), if_neg (by simp [hsmall]), ok]

theorem iotlbInvAll_of_not_busy (s : State) (i : Initiator) (hpair : isPair i = true)
    (hbusy : s.flag R.TRN_INV_STAT F.TRN_INV_STAT_BUSY = false) :
    Completes (.iotlbInvAll i .machine) s fun t =>
      t.trn.tlb = [] ∧ t.flag R.TRN_INV_STAT F.TRN_INV_STAT_BUSY = true ∧ OnlyRegs [R.TRN_INV_STAT] s t := by
  show ∃ t, execIotlbInvAll i .machine s = .next t ∧ _
  simp [execIotlbInvAll, hpair, hbusy, State.writeInv, pairMachine, State.tlbDrop, ok]

theorem iotlbInvStream_of_not_busy (s : State) (i : Initiator) (st : Fin 64) (hpair : isPair i = true)
    (hbusy : s.flag R.TRN_INV_STAT F.TRN_INV_STAT_BUSY = false) :
    Completes (.iotlbInvStream i .machine st) s fun t =>
      t.trn.tlb = s.trn.tlb.filter (fun e => e.stream ≠ st.val) ∧ t.flag R.TRN_INV_STAT F.TRN_INV_STAT_BUSY = true ∧
        OnlyRegs [R.TRN_INV_STAT] s t := by
  show ∃ t, execIotlbInvStream i .machine st s = .next t ∧ _
  simp [execIotlbInvStream, hpair, hbusy, State.writeInv, pairMachine, State.tlbDrop, ok]

theorem iotlbInvPage_of_not_busy (s : State) (i : Initiator) (st : Fin 64) (hpair : isPair i = true)
    (hbusy : s.flag R.TRN_INV_STAT F.TRN_INV_STAT_BUSY = false) :
    Completes (.iotlbInvPage i .machine st) s fun t =>
      (∀ e ∈ t.trn.tlb, ¬ (e.stream = st.val ∧ e.vpn ≤ s.invPage ∧ s.invPage < e.vpn + e.span)) ∧
        t.flag R.TRN_INV_STAT F.TRN_INV_STAT_BUSY = true ∧ OnlyRegs [R.TRN_INV_STAT] s t := by
  refine ⟨_, congrArg ok (writeInv_of_pair hpair hbusy _), fun q hq => ?_, by simp, by simp [State.tlbDrop]⟩
  simp only [State.tlbDrop, wf_trn, List.mem_filter] at hq
  rintro ⟨hstream, hfirst, hlast⟩
  simp [hstream, hfirst, hlast] at hq

theorem iotlbInvDone_of_busy (s : State) (hbusy : s.flag R.TRN_INV_STAT F.TRN_INV_STAT_BUSY = true) :
    Completes .iotlbInvDone s fun t =>
      t.flag R.TRN_INV_STAT F.TRN_INV_STAT_BUSY = false ∧ t.flag R.TRN_INV_STAT F.TRN_INV_STAT_DONE = true ∧
        OnlyRegs [R.TRN_INV_STAT] s t := by
  show ∃ t, execIotlbInvDone s = .next t ∧ _
  simp [execIotlbInvDone, hbusy, ok]

theorem faultPop_completes (s : State) (i : Initiator) (hpair : isPair i = true) :
    Completes (.faultPop i .machine) s fun t => t.trn.faults = s.trn.faults.drop 1 ∧ SameRegs s t := by
  show ∃ t, execFaultPop i .machine s = .next t ∧ _
  simp [execFaultPop, hpair, State.writeFltPop, ok]

/-- Settles O27: the order of R359's checks decides, and an invalidation drops what it names. -/
theorem turnpikeTranslates : Obligations.TurnpikeTranslates :=
  ⟨translate_bare, translate_of_stopped, translate_of_off, translate_out_of_range, streamConfig_of_host_stream,
    streamFaultClear_of_host_stream, iotlbInvAll_of_not_busy, iotlbInvStream_of_not_busy, iotlbInvPage_of_not_busy,
    iotlbInvDone_of_busy, faultPop_completes⟩

theorem powerOnReset_resets (s : State) (b a : Fin 4) (hheld : s.bls.held = false) :
    exec (.powerOnReset b a false) s
      = .next ({ s with sys := { s.sys with bootcfg := b.val, sbAddr := a.val } }.deviceReset .powerOn) := by
  show execPowerOnReset b a false s = _
  rw [execPowerOnReset, hheld, if_neg (by decide), State.powerOn, if_neg (by decide), ok]

theorem powerOnReset_waits_for_pin (s : State) (b a : Fin 4) (hheld : s.bls.held = false) :
    Completes (.powerOnReset b a true) s fun t => t.sys.rstWait = true ∧ SameRegs s t := by
  show ∃ t, execPowerOnReset b a true s = .next t ∧ _
  simp [execPowerOnReset, hheld, State.powerOn, ok]

theorem rstNRelease_resets (s : State) (b a : Fin 4) (hrstWait : s.sys.rstWait = true) :
    exec (.rstNRelease b a) s
      = .next ({ s with sys := { s.sys with bootcfg := b.val, sbAddr := a.val } }.deviceReset .powerOn) := by
  show execRstNRelease b a s = _
  rw [execRstNRelease, hrstWait, if_pos rfl, State.powerOn, if_neg (by decide), ok]

theorem pinReset_long (s : State) (ns : Nat) (hns : 1000 ≤ ns) :
    exec (.pinReset ns) s = .next (s.flushFirst .pin) := by
  show execPinReset ns s = _
  rw [execPinReset, if_neg (by omega), if_pos hns, ok]

theorem pinReset_too_short (s : State) (ns : Nat) (hns : ns < 200) : exec (.pinReset ns) s = .next s := by
  show execPinReset ns s = _
  rw [execPinReset, if_pos hns, ok]

theorem keyDeviceReset_of_unlock (s : State) (v : Word) (hunlock : fget v F.KEY_DEV_RST_UNLOCK = 0x5EED) :
    exec (.keyDeviceReset .keystone v) s = .next (s.flushFirst .keyCmd) := by
  show execKeyDeviceReset .keystone v s = _
  simp [execKeyDeviceReset, hunlock, State.writeDevRst, isKeystone]

theorem keystoneWatchdogExpiry_resets (s : State) (hkick : s.pair.kick + kwdTicks ≤ s.now) :
    exec .keystoneWatchdogExpiry s = .next (s.deviceReset .keyWdog) := by
  show execKeystoneWatchdogExpiry s = _
  simp [execKeystoneWatchdogExpiry, hkick]

theorem keystoneWatchdogExpiry_early (s : State) (hnow : s.now < s.pair.kick + kwdTicks) :
    exec .keystoneWatchdogExpiry s = .next s := by
  show execKeystoneWatchdogExpiry s = _
  simp [execKeystoneWatchdogExpiry, hnow]

theorem resetDeferExpiry_of_pendingReset (s : State) (c : RstCause) (hpendingReset : s.sys.pendingReset = some c) :
    exec .resetDeferExpiry s = .next (s.deviceReset c) := by
  show execResetDeferExpiry s = _
  simp [execResetDeferExpiry, hpendingReset]

theorem flushFirst_asks_for_haven (s : State) (c : RstCause) (hpendingReset : s.sys.pendingReset = none) :
    s.flushFirst c =
      if ({ s with sys := { s.sys with pendingReset := some c, deferFlushed := false } }.requestHaven
          hvReset).havenSettled
      then ({ s with sys := { s.sys with pendingReset := some c, deferFlushed := false } }.requestHaven
          hvReset).deviceReset c
      else { s with sys := { s.sys with pendingReset := some c, deferFlushed := false } }.requestHaven hvReset := by
  unfold State.flushFirst
  exact if_neg (by simp [hpendingReset])

/-- Settles O30: each cause leads to the reset at once or asks for Haven first. -/
theorem resetCausesReset : Obligations.ResetCausesReset :=
  ⟨powerOnReset_resets, powerOnReset_waits_for_pin, rstNRelease_resets, pinReset_long, pinReset_too_short,
    keyDeviceReset_of_unlock, keystoneWatchdogExpiry_resets, keystoneWatchdogExpiry_early,
    resetDeferExpiry_of_pendingReset, flushFirst_asks_for_haven⟩

end Sys2Proof.Machine
end
section
/-!
The mode table and the transitions (R40 to R58).
-/

namespace Sys2Proof.Machine

theorem askMode_of_idle {s : State} {i : Initiator} {m : Nat} (hpair : isPair i = true)
    (hbusy : s.flag R.SYS_MODE F.SYS_MODE_BUSY = false) (hmode : s.mode ≠ m) (f : State → State) :
    s.askMode i .machine m f = f s := by
  simp [State.askMode, modeRequester, hpair, hbusy, hmode]

theorem askMode_of_busy {s : State} {i : Initiator} (hpair : isPair i = true)
    (hbusy : s.flag R.SYS_MODE F.SYS_MODE_BUSY = true) (m : Nat) (f : State → State) :
    s.askMode i .machine m f = s.refuseMode 3 := by
  simp [State.askMode, modeRequester, hpair, hbusy]

theorem mode_ne_of_eq {s : State} {m k : Nat} (hmode : s.mode = m) (h : m ≠ k) : s.mode ≠ k := hmode ▸ h

/-- What a refusal shows: LAST and REASON, and nothing else moves. -/
theorem refuseMode_shows (s : State) {reason : Nat} (hreason : reason < 16) :
    (s.refuseMode reason).rf R.SYS_MODE F.SYS_MODE_LAST = 2 ∧
      (s.refuseMode reason).rf R.SYS_MODE F.SYS_MODE_REASON = reason ∧
      (s.refuseMode reason).mode = s.mode ∧ OnlyRegs [R.SYS_MODE] s (s.refuseMode reason) := by
  refine ⟨?_, ?_, ?_, ?_⟩
  · simp [State.refuseMode]
  · simpa [State.refuseMode] using hreason
  · simp [State.refuseMode, State.mode]
  · simp [State.refuseMode]
theorem modeReqService_from_bedding (s : State) (i : Initiator) (hpair : isPair i = true)
    (hbusy : s.flag R.SYS_MODE F.SYS_MODE_BUSY = false) (hmode : s.mode = mBedding) (hready : s.ready .media = true) :
    exec (.modeReqService i .machine) s = .next (s.acceptMode.modeDone mService) := by
  show execModeReqService i .machine s = _
  rw [execModeReqService, State.askService, askMode_of_idle hpair hbusy (mode_ne_of_eq hmode (by decide)),
      if_pos hmode,
    if_pos hready, ok]

theorem modeReqSurvey_from_service (s : State) (i : Initiator) (hpair : isPair i = true)
    (hbusy : s.flag R.SYS_MODE F.SYS_MODE_BUSY = false) (hmode : s.mode = mService) :
    exec (.modeReqSurvey i .machine) s = .next (s.acceptMode.modeDone mSurvey) := by
  show execModeReqSurvey i .machine s = _
  rw [execModeReqSurvey, State.askSurvey, askMode_of_idle hpair hbusy (mode_ne_of_eq hmode (by decide)),
      if_pos hmode, ok]

theorem modeReqService_from_survey (s : State) (i : Initiator) (hpair : isPair i = true)
    (hbusy : s.flag R.SYS_MODE F.SYS_MODE_BUSY = false) (hmode : s.mode = mSurvey) :
    exec (.modeReqService i .machine) s = .next (s.acceptMode.modeDone mService) := by
  show execModeReqService i .machine s = _
  rw [execModeReqService, State.askService, askMode_of_idle hpair hbusy (mode_ne_of_eq hmode (by decide)),
    if_neg (mode_ne_of_eq hmode (by decide)), if_pos hmode, ok]

theorem modeReqMigration_from_service (s : State) (i : Initiator) (hpair : isPair i = true)
    (hbusy : s.flag R.SYS_MODE F.SYS_MODE_BUSY = false) (hmode : s.mode = mService)
    (hready : s.ready .causeway = true) (hcswPeer : s.cswPeer = true)
    (hrole : (s.acceptMode.modeDone mMigration).cswRole ≠ 1) :
    exec (.modeReqMigration i .machine) s = .next (s.acceptMode.modeDone mMigration) := by
  show execModeReqMigration i .machine s = _
  rw [execModeReqMigration, State.askMigration, askMode_of_idle hpair hbusy (mode_ne_of_eq hmode (by decide)),
    if_neg (not_not_intro hmode), if_pos (by simp [hready, hcswPeer])]
  dsimp only
  rw [if_neg hrole, ok]

theorem modeReqBedding_from_haven (s : State) (i : Initiator) (hpair : isPair i = true)
    (hbusy : s.flag R.SYS_MODE F.SYS_MODE_BUSY = false) (hmode : s.mode = mHaven) (hclass : s.someClass 3 = false)
    (hmain : s.flag R.BLS_STAT F.BLS_STAT_MAIN_OK = true) (hcause : s.rf R.SYS_MODE F.SYS_MODE_HAVEN_CAUSE ≠ hvReset)
    :
    exec (.modeReqBedding i .machine) s
      = .next (((s.acceptMode.wf R.SYS_MODE F.SYS_MODE_HAVEN_CAUSE 0).modeDone
          mBedding).touchBegin.refreshMedia) := by
  show execModeReqBedding i .machine s = _
  rw [execModeReqBedding, State.askBedding, askMode_of_idle hpair hbusy (mode_ne_of_eq hmode (by decide)),
    if_neg (not_not_intro hmode), if_pos (by simp [hclass, hmain, hcause]), ok]

theorem modeReqDormant_from_service (s : State) (i : Initiator) (hpair : isPair i = true)
    (hbusy : s.flag R.SYS_MODE F.SYS_MODE_BUSY = false) (hmode : s.mode = mService) :
    Completes (.modeReqDormant i .machine) s fun t =>
      t.mode = mService ∧ t.flag R.SYS_MODE F.SYS_MODE_BUSY = true ∧ t.rf R.SYS_MODE F.SYS_MODE_TARGET = mDormant ∧
        t.sys.trans = .dormant 2 ∧ t.ready .media = false ∧
        OnlyRegs [R.SYS_MODE, R.SYS_READY, R.SYS_READY_CHG] s t := by
  have hmode' : s.rf R.SYS_MODE F.SYS_MODE_MODE = mService := hmode
  show ∃ t, execModeReqDormant i .machine s = .next t ∧ _
  rw [execModeReqDormant, State.askDormant, askMode_of_idle hpair hbusy (mode_ne_of_eq hmode (by decide)),
    if_neg (mode_ne_of_eq hmode (by decide)), if_pos (by simp [hmode]), ok]
  refine ⟨_, rfl, ?_⟩
  simp -implicitDefEqProofs [State.beginDormant, State.beginMode, State.acceptMode, State.refreshMedia, State.mediaOk,
    State.dormantEntry, State.markTransition, State.mode, hmode', mDormant]

theorem modeReqHaven_of_pair (s : State) (i : Initiator) (hpair : isPair i = true) (hmode : s.mode ≠ mHaven)
    (hbusy : s.flag R.SYS_MODE F.SYS_MODE_BUSY = false) :
    exec (.modeReqHaven i .machine) s = .next (s.acceptMode.requestHaven hvCommand) := by
  have hkey : isKeystone i = false := isKeystone_of_isPair hpair
  show execModeReqHaven i .machine s = _
  simp [execModeReqHaven, State.askHaven, modeRequester, hpair, hmode, hbusy, hkey]

theorem modeReqHaven_of_keystone_busy (s : State) (i : Initiator) (p : Priv) (hkeystone : i = .keystone)
    (hmode : s.mode ≠ mHaven) (hbusy : s.flag R.SYS_MODE F.SYS_MODE_BUSY = true) :
    exec (.modeReqHaven i p) s = .next (s.requestHaven hvKeystone) := by
  subst hkeystone
  show execModeReqHaven .keystone p s = _
  simp [execModeReqHaven, State.askHaven, modeRequester, isKeystone, hmode, hbusy]

theorem modeReq_refused_during_transition (s : State) (i : Initiator) (hpair : isPair i = true)
    (hbusy : s.flag R.SYS_MODE F.SYS_MODE_BUSY = true) :
    ∀ c ∈ [Instr.modeReqService i .machine, .modeReqSurvey i .machine, .modeReqMigration i .machine,
        .modeReqDormant i .machine, .modeReqBedding i .machine],
      Completes c s fun t => t.rf R.SYS_MODE F.SYS_MODE_LAST = 2 ∧ t.rf R.SYS_MODE F.SYS_MODE_REASON = 3 ∧
        t.mode = s.mode ∧ OnlyRegs [R.SYS_MODE] s t := by
  intro c hc
  have hshows := refuseMode_shows s (reason := 3) (by decide)
  have hasked := fun m f => askMode_of_busy hpair hbusy m f
  fin_cases hc
  · exact ⟨_, congrArg ok (hasked _ _), hshows⟩
  · exact ⟨_, congrArg ok (hasked _ _), hshows⟩
  · exact ⟨_, congrArg ok (hasked _ _), hshows⟩
  · exact ⟨_, congrArg ok (hasked _ _), hshows⟩
  · exact ⟨_, congrArg ok (hasked _ _), hshows⟩

theorem modeReq_refused_in_haven (s : State) (i : Initiator) (hpair : isPair i = true)
    (hbusy : s.flag R.SYS_MODE F.SYS_MODE_BUSY = false) (hmode : s.mode = mHaven) :
    ∀ c ∈ [Instr.modeReqService i .machine, .modeReqSurvey i .machine, .modeReqMigration i .machine,
        .modeReqDormant i .machine],
      Completes c s fun t => t.rf R.SYS_MODE F.SYS_MODE_LAST = 2 ∧ t.rf R.SYS_MODE F.SYS_MODE_REASON = 1 ∧
        t.mode = mHaven ∧ OnlyRegs [R.SYS_MODE] s t := by
  intro c hc
  have hshows := refuseMode_shows s (reason := 1) (by decide)
  rw [hmode] at hshows
  fin_cases hc
  · refine completes_of_next (t := s.refuseMode 1) ?_ hshows
    show execModeReqService i .machine s = _
    rw [execModeReqService, State.askService, askMode_of_idle hpair hbusy (mode_ne_of_eq hmode (by decide))]
    simp [hmode, mHaven, mBedding, mSurvey, mMigration, mDormant, ok]
  · refine completes_of_next (t := s.refuseMode 1) ?_ hshows
    show execModeReqSurvey i .machine s = _
    rw [execModeReqSurvey, State.askSurvey, askMode_of_idle hpair hbusy (mode_ne_of_eq hmode (by decide))]
    simp [hmode, mHaven, mService, ok]
  · refine completes_of_next (t := s.refuseMode 1) ?_ hshows
    show execModeReqMigration i .machine s = _
    rw [execModeReqMigration, State.askMigration, askMode_of_idle hpair hbusy (mode_ne_of_eq hmode (by decide))]
    simp [hmode, mHaven, mService, ok]
  · refine completes_of_next (t := s.refuseMode 1) ?_ hshows
    show execModeReqDormant i .machine s = _
    rw [execModeReqDormant, State.askDormant, askMode_of_idle hpair hbusy (mode_ne_of_eq hmode (by decide))]
    simp [hmode, mHaven, mService, mBedding, mSurvey, ok]

/-- Settles O31: R48's table, by the mode that stands. -/
theorem modesChange : Obligations.ModesChange :=
  ⟨modeReqService_from_bedding, modeReqSurvey_from_service, modeReqService_from_survey,
    modeReqMigration_from_service, modeReqBedding_from_haven, modeReqDormant_from_service, modeReqHaven_of_pair,
    modeReqHaven_of_keystone_busy, modeReq_refused_during_transition, modeReq_refused_in_haven⟩

theorem havenSettled_next (s : State) : exec .havenSettled s = .next s.advanceHaven.settleHaven := by
  show execHavenSettled s = _
  simp [execHavenSettled]

theorem dormantEntryProgress_of_trans_not_any (s : State) (htrans : s.sys.trans = .dormant 2)
    (hany : (s.cmd.ctxs.any fun q => inFlight q.2) = false) :
    exec .dormantEntryProgress s = .next (s.dormantAt 3).startCkpt := by
  show execDormantEntryProgress s = _
  simp [execDormantEntryProgress, htrans, hany]

theorem dormantEntryProgress_of_trans_ackedCtxs (s : State) (htrans : s.sys.trans = .dormant 3)
    (hackedCtxs : s.ackedCtxs = []) : exec .dormantEntryProgress s = .next ((s.dormantAt 4).unloadAll ucDormant) := by
  show execDormantEntryProgress s = _
  simp [execDormantEntryProgress, htrans, hackedCtxs]

theorem dormantEntryProgress_of_trans_allParked (s : State) (htrans : s.sys.trans = .dormant 4)
    (hallParked : s.allParked = true) : exec .dormantEntryProgress s = .next (s.dormantAt 5).spinStopBrake := by
  show execDormantEntryProgress s = _
  simp [execDormantEntryProgress, htrans, hallParked]

theorem dormantEntryProgress_of_trans_milSt_not_spinning (s : State) (htrans : s.sys.trans = .dormant 5)
    (hmilSt : s.milSt ≠ miStopping) (hspinning : s.spinning = false) :
    exec .dormantEntryProgress s = .next s.dormantDone := by
  show execDormantEntryProgress s = _
  simp [execDormantEntryProgress, htrans, hmilSt, hspinning]

theorem dormantWakeExpiry_of_mode_wakeTimer_phase (s : State) (hmode : s.mode = mDormant)
    (hwakeTimer : s.sys.wakeTimer = true) (hphase : s.rf R.SYS_MODE F.SYS_MODE_PHASE = 0)
    (htrans : s.sys.trans = .none) :
    exec .dormantWakeExpiry s
      = .next (({ s with sys := { s.sys with wakeTimer := false },
                         way := { s.way with wakeOver := false } }.wf R.SYS_MODE F.SYS_MODE_PHASE
                             1).modeSpin.loadAll).flashDue := by
  show execDormantWakeExpiry s = _
  simp [execDormantWakeExpiry, hmode, hwakeTimer, hphase, htrans]

theorem dormantWorkDone_of_mode_phase_trans (s : State) (hmode : s.mode = mDormant)
    (hphase : s.rf R.SYS_MODE F.SYS_MODE_PHASE = 1) (htrans : s.sys.trans = .none) :
    exec .dormantWorkDone s
      = .next (if ((({ s with sys := { s.sys with wakeTimer := true } }.wf R.SYS_MODE F.SYS_MODE_PHASE 0).unloadAll
            ucDormant).allParked) then
          (({ s with sys := { s.sys with wakeTimer := true } }.wf R.SYS_MODE F.SYS_MODE_PHASE 0).unloadAll
              ucDormant).spinStopBrake
        else (({ s with sys := { s.sys with wakeTimer := true } }.wf R.SYS_MODE F.SYS_MODE_PHASE 0).unloadAll
          ucDormant).dormantAt 6) := by
  show execDormantWorkDone s = _
  simp [execDormantWorkDone, hmode, hphase, htrans]

theorem modeTransitionComplete_to_service (s : State) (htrans : s.sys.trans = .toService)
    (hmediaOk : s.mediaOk = true) (hready : s.ready .media = true) :
    exec .modeTransitionComplete s = .next ({ s with sys := { s.sys with trans := .none } }.modeDone mService) := by
  have hsame : s.setReady .media s.mediaOk = s := setReady_of_eq (hready.trans hmediaOk.symm)
  show execModeTransitionComplete s = _
  rw [execModeTransitionComplete, State.refreshMedia, hsame]
  dsimp only
  rw [if_pos (by simp [htrans, hready]), ok]

theorem heldDataWrite_of_last_write (s : State) (hheldData : s.sys.heldData = true) (hmode : s.mode = mBedding)
    (hready : s.ready .waymark = true) (hsomeAct : s.someAct = true)
    (hwritten : (s.writeHeld (byAdmit s.ackedCtxs)).ackedCtxs = []) :
    exec .heldDataWrite s
      = .next ({ s.writeHeld (byAdmit s.ackedCtxs) with
          sys := { (s.writeHeld (byAdmit s.ackedCtxs)).sys with heldData := false } }.wf R.SYS_HAVEN_STATUS
            F.SYS_HAVEN_STATUS_HELD 0).refreshMedia := by
  show execHeldDataWrite s = _
  rw [execHeldDataWrite, if_pos (by simp [hheldData, hmode, hready, hsomeAct, mBedding, mHaven])]
  dsimp only
  rw [if_pos (by simp [hwritten]), ok]

theorem unloadStall_of_actSt_stallRun (s : State) (a : Fin 4) (hactSt : s.actSt a.val = aUnloading)
    (hstallRun : stallRun ≤ (s.act a.val).stall) :
    exec (.unloadStall a) s = .next ((s.park a.val).reload a.val).advanceHaven := by
  show execUnloadStall a s = _
  simp [execUnloadStall, hactSt, hstallRun]

theorem unloadTimeout_of_actSt (s : State) (a : Fin 4) (hactSt : s.actSt a.val = aUnloading) :
    exec (.unloadTimeout a) s
      = .next ((((s.raise (R.ACT_EVT a.val) F.ACT_EVT_UNLOAD_TMO).park a.val).reload a.val).report (24 + a.val)
          2).advanceHaven := by
  show execUnloadTimeout a s = _
  simp [execUnloadTimeout, hactSt]

theorem vcmVelocitySample_of_no_travel (s : State) (a : Fin 4) (mv ma : List Int)
    (hloading : s.actSt a.val ≠ aLoading) (hunloading : s.actSt a.val ≠ aUnloading) :
    Completes (.vcmVelocitySample a mv ma) s fun t =>
      spGetD 0 t.bls.vel a.val = s.velocity a.val mv ma ∧ SameRegs s t := by
  have hloading' : (s.setBls { s.bls with vel := spSet 0 s.bls.vel a.val (s.velocity a.val mv ma) }).actSt a.val
      ≠ aLoading := hloading
  have hunloading' : (s.setBls { s.bls with vel := spSet 0 s.bls.vel a.val (s.velocity a.val mv ma) }).actSt a.val
      ≠ aUnloading := hunloading
  show ∃ t, execVcmVelocitySample a mv ma s = .next t ∧ _
  rw [execVcmVelocitySample]
  dsimp only
  rw [if_neg (by simp only [hloading', hunloading', decide_false, Bool.or_false, Bool.false_eq_true,
      not_false_eq_true])]
  exact ⟨_, rfl, spGetD_set_self _ _ _ _, sameRegs_of_eq rfl rfl⟩

theorem speedRegulated_of_milSt_ms_setMillstone (s : State) (hmilSt : s.milSt = miRun)
    (hms : s.calmFor (s.rf R.MIL_REG F.MIL_REG_REG_MS) = true) (hsetMillstone : (s.setMillstone true).mode ≠ mDormant)
    : exec .speedRegulated s = .next (s.setMillstone true) := by
  show execSpeedRegulated s = _
  simp [execSpeedRegulated, hmilSt, hms, hsetMillstone]

theorem stopComplete_of_milSt_phase_calmFor (s : State) (hmilSt : s.milSt = miStopping)
    (hphase2 : s.mil.phase2 = true) (hcalmFor : s.calmFor 500 = true)
    (hmilEnter : (s.milEnter miIdle).mode ≠ mDormant) :
    exec .stopComplete s = .next (s.milEnter miIdle).advanceHaven := by
  show execStopComplete s = _
  simp [execStopComplete, hmilSt, hphase2, hcalmFor, hmilEnter]

theorem coastToIdle_of_milSt_calmFor (s : State) (hmilSt : s.milSt = miCoast) (hcalmFor : s.calmFor 1000 = true) :
    exec .coastToIdle s = .next (s.milEnter miIdle) := by
  show execCoastToIdle s = _
  simp [execCoastToIdle, hmilSt, hcalmFor]

/-- Settles O32: each step of an entry waits for its own event. -/
theorem transitionsAdvance : Obligations.TransitionsAdvance :=
  ⟨havenSettled_next, dormantEntryProgress_of_trans_not_any, dormantEntryProgress_of_trans_ackedCtxs,
    dormantEntryProgress_of_trans_allParked, dormantEntryProgress_of_trans_milSt_not_spinning,
    dormantWakeExpiry_of_mode_wakeTimer_phase, dormantWorkDone_of_mode_phase_trans,
    modeTransitionComplete_to_service, heldDataWrite_of_last_write, unloadStall_of_actSt_stallRun,
    unloadTimeout_of_actSt, vcmVelocitySample_of_no_travel, speedRegulated_of_milSt_ms_setMillstone,
    stopComplete_of_milSt_phase_calmFor, coastToIdle_of_milSt_calmFor⟩

end Sys2Proof.Machine
end
section
/-!
Bring-up, the links and the commands that come in (R18 to R39, R78 to R95).
-/

namespace Sys2Proof.Machine
theorem rdLe_nothing (img ofs : Nat) : rdLe img ofs 0 = 0 := by simp [rdLe, Nat.mod_one]
theorem kenulSlotCheck_unreadable (s : State) (img : Nat) (hready : s.ready .bedrock = true)
    (hgaveUp : s.sys.bootGaveUp = false) (hslotA : s.slotA = none) (hslotB : s.slotB = none) :
    exec (.kenulSlotCheck false img true) s
      = .next { (s.hbmWrite qCpu 0 0 0).2 with slotA := some (checkSlot s.keySlots img true) } := by
  have hwrite : (s.hbmWrite qCpu 0 0 0).2 = s := by
    unfold State.hbmWrite State.writeGrans
    rfl
  show execKenulSlotCheck false img true s = _
  simp [execKenulSlotCheck, hready, hgaveUp, hslotA, hslotB, stagedBytes, rdLe_nothing, hwrite, ok]

theorem kenulSlotCheck_of_not_ready (s : State) (b : Bool) (img : Nat) (e : Bool) (hready : s.ready .bedrock = false)
    : exec (.kenulSlotCheck b img e) s = .next s := by
  show execKenulSlotCheck b img e s = _
  simp [execKenulSlotCheck, hready]

theorem kenulApply_of_slotA_slotB_kenul (s : State) (a b : SlotResult) (slot : Nat) (k : Kenul)
    (hslotA : s.slotA = some a) (hslotB : s.slotB = some b) (hkenul : s.kenul = none)
    (hchosenSlot : chosenSlot a b = some (slot, k)) : exec .kenulApply s = .next (s.applyImage slot k) := by
  show execKenulApply s = _
  simp [execKenulApply, hslotA, hslotB, hkenul, hchosenSlot]

theorem loaderCheck_true_of_kenul_loader (s : State) (k : Kenul) (img : Nat) (hkenul : s.kenul = some k)
    (hloader : s.rf R.SYS_BOOT_STATUS F.SYS_BOOT_STATUS_LOADER = 1) :
    Completes (.loaderCheck img true) s fun t =>
      t.rf R.SYS_BOOT_STATUS F.SYS_BOOT_STATUS_LOADER = 4 ∧ OnlyRegs [R.SYS_BOOT_STATUS] s t := by
  show ∃ t, execLoaderCheck img true s = .next t ∧ _
  simp [execLoaderCheck, hkenul, hloader, loaderCode, ok]

theorem loaderCheck_readable (s : State) (k : Kenul) (img : Nat) (hkenul : s.kenul = some k)
    (hloader : s.rf R.SYS_BOOT_STATUS F.SYS_BOOT_STATUS_LOADER = 1) :
    exec (.loaderCheck img false) s
      = .next (if loaderCode k.pubkey img false = 2
          then (s.wf R.SYS_BOOT_STATUS F.SYS_BOOT_STATUS_LOADER 2).handOff img
          else s.wf R.SYS_BOOT_STATUS F.SYS_BOOT_STATUS_LOADER (loaderCode k.pubkey img false)) := by
  show execLoaderCheck img false s = _
  rw [execLoaderCheck, hkenul]
  dsimp only
  rw [if_neg (not_not_intro hloader)]
  split
  · next hgood => rw [hgood, ok]
  · rw [ok]

theorem fuseProgram_of_mode_fuseOp (s : State) (slot : Fin 4) (mv : Nat) (hmode : s.mode = mBedding)
    (hfuseOp : s.sys.fuseOp = none) :
    Completes (.fuseProgram .port .machine 0xF05E slot mv) s fun t =>
      t.flag R.SYS_FUSE_PGM_STATUS F.SYS_FUSE_PGM_STATUS_BUSY = true ∧ t.sys.fuses = s.sys.fuses ∧
        t.sys.fuseOp = some ⟨slot.val, true, (s.withMain mv).fuseRefusal slot.val true, s.stagedHash⟩ ∧
        OnlyRegs [R.SYS_FUSE_PGM_STATUS] s t := by
  show ∃ t, execFuseProgram .port .machine 0xF05E slot mv s = .next t ∧ _
  simp [execFuseProgram, hmode, hfuseOp, State.withMain, State.fuseStart, mBedding, State.fuseRefusal,
    State.stagedHash, ok]

theorem fuseRevoke_of_mode_fuseOp (s : State) (slot : Fin 4) (mv : Nat) (hmode : s.mode = mBedding)
    (hfuseOp : s.sys.fuseOp = none) :
    Completes (.fuseRevoke .port .machine 0xF05E slot mv) s fun t =>
      t.flag R.SYS_FUSE_PGM_STATUS F.SYS_FUSE_PGM_STATUS_BUSY = true ∧ t.sys.fuses = s.sys.fuses ∧
        t.sys.fuseOp = some ⟨slot.val, false, (s.withMain mv).fuseRefusal slot.val false, s.stagedHash⟩ ∧
        OnlyRegs [R.SYS_FUSE_PGM_STATUS] s t := by
  show ∃ t, execFuseRevoke .port .machine 0xF05E slot mv s = .next t ∧ _
  simp [execFuseRevoke, hmode, hfuseOp, State.withMain, State.fuseStart, mBedding, State.fuseRefusal,
    State.stagedHash, ok]

theorem fuseOpDone_shows (s : State) (o : FuseOp) (m : Bool) (hfuseOp : s.sys.fuseOp = some o) :
    Completes (.fuseOpDone m) s fun t =>
      t.sys.fuseOp = none ∧ t.flag R.SYS_FUSE_PGM_STATUS F.SYS_FUSE_PGM_STATUS_BUSY = false ∧
        t.flag R.SYS_FUSE_PGM_STATUS F.SYS_FUSE_PGM_STATUS_DONE = true ∧
        (∀ c, o.refused = some c → t.sys.fuses.slots = s.sys.fuses.slots.set o.slot (s.fuseSlot o.slot)) ∧
        (o.refused = none → o.program = true → m = true →
          t.sys.fuses.slots = s.sys.fuses.slots.set o.slot { s.fuseSlot o.slot with programmed := true, hash := o.hash }) ∧
        (o.refused = none → (o.program = false ∨ m = false) →
          t.sys.fuses.slots = s.sys.fuses.slots.set o.slot { s.fuseSlot o.slot with revoked := true }) ∧
        OnlyRegs [R.SYS_FUSE_PGM_STATUS] s t := by
  show ∃ t, execFuseOpDone m s = .next t ∧ _
  rw [execFuseOpDone, hfuseOp]
  obtain ⟨slot, program, refused, hash⟩ := o
  cases refused with
  | some c => simp -implicitDefEqProofs [State.fuseSlot, State.keySlotAt, ok]
  | none =>
    cases program
    · simp -implicitDefEqProofs [State.fuseSlot, State.keySlotAt, FuseOp.burn, ok]
    · cases m <;> simp -implicitDefEqProofs [State.fuseSlot, State.keySlotAt, FuseOp.burn, ok]

/-- Settles O33: the loader is judged once, and an operation of the fuses ends as its kind says. -/
theorem bringUpAndFuses : Obligations.BringUpAndFuses :=
  ⟨kenulSlotCheck_unreadable, kenulSlotCheck_of_not_ready, kenulApply_of_slotA_slotB_kenul,
    loaderCheck_true_of_kenul_loader, loaderCheck_readable, fuseProgram_of_mode_fuseOp, fuseRevoke_of_mode_fuseOp,
    fuseOpDone_shows⟩

@[simp] theorem hp_setHp_self (s : State) (g : Nat) (h : HostGroup) : (s.setHp g h).hp g = h := by
  unfold State.setHp State.hp
  split <;> rfl

/-- What a reset of the host's side leaves of the queues and the requests of a group (R91). -/
def HostGroup.Forgot (h : HostGroup) : Prop := h.sqs = [] ∧ h.cqs = [] ∧ h.asyncReqs = [] ∧ h.stalled = false

theorem resetShadow_keeps {P : HostGroup → Prop} (hP : ∀ h shadow', P h → P { h with shadow := shadow' }) {s : State}
    {g : Nat} (h : P (s.hp g)) : P ((s.resetShadow g).hp g) := by
  unfold State.resetShadow
  split
  · exact h
  · refine List.foldlRecOn (motive := fun t : State => P (t.hp g)) _ _ h fun t ht w _ => ?_
    rw [State.setShadow, hp_setHp_self]
    exact hP _ _ ht
theorem linkTrained_of_hp_not_up_pers (s : State) (g : Fin 2) (rate width partner : Nat)
    (hhp : (s.hp g.val).link ≠ .disabled) (hup : s.flag (R.HP_LINK g.val) F.HP_LINK_UP = false)
    (hpers : s.pers g.val ≠ 2) :
    exec (.linkTrained g 0 rate width partner) s
      = .next (((((s.setHp g.val { s.hp g.val with link := .up }).raise (R.HP_LINK g.val) F.HP_LINK_UP).wf
          (R.HP_LINK g.val)
          F.HP_LINK_RATE
            (((s.setHp g.val { s.hp g.val with link := .up }).raise (R.HP_LINK g.val) F.HP_LINK_UP).trainedRate
                g.val rate)).wf
          (R.HP_LINK g.val) F.HP_LINK_WIDTH
            (min width
              (((s.setHp g.val { s.hp g.val with link := .up }).raise (R.HP_LINK g.val) F.HP_LINK_UP).linkLanes
                  g.val))).raise
          (R.HP_EVT g.val) F.HP_EVT_LINK_UP) := by
  show execLinkTrained g 0 rate width partner s = _
  simp [execLinkTrained, hhp, hup, hpers]

theorem linkLost_of_hp_not_up (s : State) (g port : Fin 2) (hhp : (s.hp g.val).link = .up)
    (hup : (s.portDown g.val port.val).flag (R.HP_LINK g.val) F.HP_LINK_UP = false)
    (hup1 : (s.portDown g.val port.val).flag (R.HP_LINK g.val) F.HP_LINK_UP1 = false) :
    exec (.linkLost g port) s
      = .next ((s.portDown g.val port.val).setHp g.val { (s.portDown g.val port.val).hp g.val with link := .training }) := by
  show execLinkLost g port s = _
  simp [execLinkLost, hhp, hup, hup1]

theorem linkDisable_disables (s : State) (i : Initiator) (g : Fin 2) (v : Word) (hpair : isPair i = true)
    (henable : fget v F.HP_LINK_CTL_ENABLE = 0) :
    Completes (.linkDisable i g v) s fun t => (t.hp g.val).link = .disabled := by
  show ∃ t, execLinkDisable i g v s = .next t ∧ _
  refine ⟨_, (if_pos henable).trans rfl, ?_⟩
  simp [State.writeLinkCtl, hpWriter, hpair, henable]

theorem hostSideReset_of_link_not_up (s : State) (g : Fin 2) (hready : s.ready (hpReady g.val) = true)
    (hpers : s.pers g.val ≠ 0) (hlink : ((s.hostSideReset g.val).hp g.val).link ≠ .up) :
    exec (.hostSideReset g) s = .next ((s.hostSideReset g.val).raise (R.HP_EVT g.val) F.HP_EVT_HOST_RESET) := by
  show execHostSideReset g s = _
  have hlink' : (((s.hostSideReset g.val).raise (R.HP_EVT g.val) F.HP_EVT_HOST_RESET).hp g.val).link ≠ .up := by
    simpa [State.hp] using hlink
  rw [execHostSideReset, if_neg (by simp [hready, hpers]), State.resetGroup, if_neg hlink', ok]

theorem nvmeControllerReset_of_pers (s : State) (g : Fin 2) (hpers : s.pers g.val = 1)
    (hready : s.ready (hpReady g.val) = true) :
    exec (.nvmeControllerReset g) s = .next (s.controllerReset g.val) := by
  show execNvmeControllerReset g s = _
  simp [execNvmeControllerReset, hpers, hready]

theorem hostSideReset_forgets (s : State) (g : Fin 2) :
    ((s.hostSideReset g.val).hp g.val).sqs = [] ∧ ((s.hostSideReset g.val).hp g.val).cqs = [] ∧
      ((s.hostSideReset g.val).hp g.val).asyncReqs = [] ∧ ((s.hostSideReset g.val).hp g.val).stalled = false := by
  exact resetShadow_keeps (P := HostGroup.Forgot) (fun _ _ h => h) (by simp [State.commandReset, HostGroup.Forgot])

/-- Settles O34: a lost or disabled link forgets what the host asked. -/
theorem linksComeAndGo : Obligations.LinksComeAndGo :=
  ⟨linkTrained_of_hp_not_up_pers, linkLost_of_hp_not_up, linkDisable_disables, hostSideReset_of_link_not_up,
    nvmeControllerReset_of_pers, hostSideReset_forgets⟩

theorem sameRegs_setHp (s : State) (g : Nat) (h : HostGroup) : SameRegs s (s.setHp g h) := by
  unfold State.setHp
  split <;> exact sameRegs_of_eq rfl rfl

theorem doorbell_even {s : State} {g q ofs : Nat} {x : SubQueue} {v : Word} (hindex : (ofs - 0x1000) / 4 = 2 * q)
    (hsub : s.subQueue g q = some x) (hsize : v.toNat < x.size) :
    s.doorbell g ofs v = s.setHp g { s.hp g with
      sqs := spInsert (spErase (s.hp g).sqs q) q { x with tail := v.toNat } } := by
  unfold State.doorbell
  rw [hindex]
  simp only [Nat.mul_mod_right, Nat.mul_div_cancel_left q (show 0 < 2 by decide), hsub, hsize, ite_true]

/-- SATA takes a command of its list under tenant 1. -/
theorem sataAdmit_of_op {s : State} {c : HostCmd} (hpers : s.pers 0 = 3) (hlink : (s.hp 0).link = .up)
    (hmayTake : s.groupMayTake 0 = true) (hop : c.opcode ∈ sataOps) (hidentify : c.opcode ≠ 0xEC) :
    s.sataAdmit c = s.admitCmd 0 3 { c with queue := 0, tenant := 1 } := by
  simp [State.sataAdmit, hpers, hlink, hmayTake, hop, hidentify]
theorem nvmeDoorbellWrite_of_subQueue (s : State) (g : Fin 2) (q : Nat) (x : SubQueue) (v : Word)
    (hpers : s.pers g.val = 1) (hsub : s.subQueue g.val q = some x) (hq : q ≤ 1023) (hsize : v.toNat < x.size) :
    exec (.nvmeDoorbellWrite g (0x1000 + 8 * q) v) s
      = .next (s.setHp g.val { s.hp g.val with
          sqs := spInsert (spErase (s.hp g.val).sqs q) q { x with tail := v.toNat } }) := by
  have hindex : (0x1000 + 8 * q - 0x1000) / 4 = 2 * q := by omega
  show execNvmeDoorbellWrite g (0x1000 + 8 * q) v s = _
  rw [execNvmeDoorbellWrite, if_pos (by simp [hpers]; omega), doorbell_even hindex hsub hsize, ok]

theorem nvmeCommandFetch_admitted (s : State) (g : Fin 2) (q entry : Nat) (x : SubQueue)
    (hsubQueue : s.subQueue g.val q = some x) (hpers : s.pers g.val = 1) (hhp : (s.hp g.val).link = .up)
    (hhp2 : (s.hp g.val).stalled = false) (hnextSq : s.nextSq g.val = some q)
    (hgroupMayTake : s.groupMayTake g.val = true) (hnvmeRefusal : nvmeRefusal q entry = none) :
    exec (.nvmeCommandFetch g q entry) s = .next ((s.consume g.val q x).admitCmd g.val 1 (nvmeCmd q entry)) := by
  show execNvmeCommandFetch g q entry s = _
  simp [execNvmeCommandFetch, hsubQueue, hpers, hhp, hhp2, hnextSq, hgroupMayTake, hnvmeRefusal]

theorem nvmeCommandFetch_refused (s : State) (g : Fin 2) (q entry st : Nat) (x : SubQueue)
    (hsubQueue : s.subQueue g.val q = some x) (hpers : s.pers g.val = 1) (hhp : (s.hp g.val).link = .up)
    (hhp2 : (s.hp g.val).stalled = false) (hnextSq : s.nextSq g.val = some q)
    (hgroupMayTake : s.groupMayTake g.val = true) (hnvmeRefusal : nvmeRefusal q entry = some st) :
    exec (.nvmeCommandFetch g q entry) s
      = .next ((s.consume g.val q x).complete g.val 1 q (rdLe entry 2 2) st []) := by
  show execNvmeCommandFetch g q entry s = _
  simp [execNvmeCommandFetch, hsubQueue, hpers, hhp, hhp2, hnextSq, hgroupMayTake, hnvmeRefusal]

theorem nvmeCommandFetch_without_context (s : State) (g : Fin 2) (q entry : Nat) (x : SubQueue)
    (hsubQueue : s.subQueue g.val q = some x) (hpers : s.pers g.val = 1) (hhp : (s.hp g.val).link = .up)
    (hhp2 : (s.hp g.val).stalled = false) (hnextSq : s.nextSq g.val = some q)
    (hgroupMayTake : s.groupMayTake g.val = false) :
    exec (.nvmeCommandFetch g q entry) s
      = .next ((s.setHp g.val { s.hp g.val with stalled := true, resumed := false }).raise (R.HP_EVT g.val)
          F.HP_EVT_CTX_WAIT) := by
  show execNvmeCommandFetch g q entry s = _
  simp [execNvmeCommandFetch, hsubQueue, hpers, hhp, hhp2, hnextSq, hgroupMayTake]

theorem nvmeFetchResume_of_stalled (s : State) (g : Fin 2) (hstalled : (s.hp g.val).stalled = true)
    (hmayTake : s.groupMayTake g.val = true) :
    Completes (.nvmeFetchResume g) s fun t => (t.hp g.val).stalled = false ∧ SameRegs s t := by
  refine ⟨_, if_pos (by simp [hstalled, hmayTake]), by simp, ?_⟩
  exact sameRegs_setHp _ _ _

theorem sasCommandFrame_admitted (s : State) (g : Fin 2) (lun tag space : Nat) (attr : TaskAttr) (cdb : Nat)
    (hpers : s.pers g.val = 2) (hup : s.flag (R.HP_LINK g.val) F.HP_LINK_UP = true) (hopcode : rdLe cdb 0 1 ≠ 0x12)
    (hmayTake : s.groupMayTake g.val = true) (haccepted : sasRefusal cdb = none) :
    exec (.sasCommandFrame g 0 lun tag space attr cdb) s
      = .next (s.admitCmd g.val 2 (sasCmd 0 lun tag space attr cdb)) := by
  have hopcode' : (sasCmd (0 : Fin 2).val lun tag space attr cdb).opcode ≠ 0x12 := hopcode
  show execSasCommandFrame g 0 lun tag space attr cdb s = _
  rw [execSasCommandFrame, if_neg (by simp [hpers, hup]), if_neg hopcode', if_neg (by simp [hmayTake]),
      haccepted, ok, Fin.val_zero]

theorem sasCommandFrame_refused (s : State) (g : Fin 2) (lun tag space st : Nat) (attr : TaskAttr) (cdb : Nat)
    (hpers : s.pers g.val = 2) (hup : s.flag (R.HP_LINK g.val) F.HP_LINK_UP = true) (hopcode : rdLe cdb 0 1 ≠ 0x12)
    (hmayTake : s.groupMayTake g.val = true) (hrefused : sasRefusal cdb = some st) :
    exec (.sasCommandFrame g 0 lun tag space attr cdb) s = .next (s.emit (.host g.val tag st [])) := by
  have hopcode' : (sasCmd (0 : Fin 2).val lun tag space attr cdb).opcode ≠ 0x12 := hopcode
  show execSasCommandFrame g 0 lun tag space attr cdb s = _
  rw [execSasCommandFrame, if_neg (by simp [hpers, hup]), if_neg hopcode', if_neg (by simp [hmayTake]), hrefused, ok]

theorem sasCommandFrame_no_context (s : State) (g : Fin 2) (lun tag space : Nat) (attr : TaskAttr) (cdb : Nat)
    (hpers : s.pers g.val = 2) (hup : s.flag (R.HP_LINK g.val) F.HP_LINK_UP = true) (hopcode : rdLe cdb 0 1 ≠ 0x12)
    (hmayTake : s.groupMayTake g.val = false) :
    exec (.sasCommandFrame g 0 lun tag space attr cdb) s = .next (s.emit (.host g.val tag (stScsi 0x28) [])) := by
  have hopcode' : (sasCmd (0 : Fin 2).val lun tag space attr cdb).opcode ≠ 0x12 := hopcode
  show execSasCommandFrame g 0 lun tag space attr cdb s = _
  rw [execSasCommandFrame, if_neg (by simp [hpers, hup]), if_neg hopcode', if_pos (by simp [hmayTake]), ok]

theorem sasTaskManagement_of_pers (s : State) (g port : Fin 2) (lun tag space : Nat) (hpers : s.pers g.val = 2) :
    exec (.sasTaskManagement g port .abortTask lun tag space) s
      = .next ((s.abandonWhere g.val (taskScope .abortTask (port.val * 2 ^ 15 + space % 2 ^ 15) lun tag)).emit
          (.host g.val tag 0 [])) := by
  show execSasTaskManagement g port .abortTask lun tag space s = _
  simp [execSasTaskManagement, hpers]

theorem sataCommand_of_pers_hp_groupMayTake (s : State) (c : HostCmd) (hpers : s.pers 0 = 3)
    (hhp : (s.hp 0).link = .up) (hgroupMayTake : s.groupMayTake 0 = true) (hopcode : c.opcode ≠ 0xEC)
    (hopcode2 : c.opcode ∈ sataOps) :
    exec (.sataCommand c) s = .next (s.admitCmd 0 3 { c with queue := 0, tenant := 1 }) := by
  show execSataCommand c s = _
  simp [execSataCommand, hpers, hhp, hgroupMayTake, hopcode, hopcode2, State.sataAdmit]

theorem readFpdmaQueued_admitted (s : State) (n : Fin 32) (c : HostCmd) (hpers : s.pers 0 = 3)
    (hlink : (s.hp 0).link = .up) (hmayTake : s.groupMayTake 0 = true) :
    exec (.readFpdmaQueued n c) s
      = .next (s.admitCmd 0 3 { c with tag := n.val, opcode := 0x60, queue := 0, tenant := 1 }) := by
  show execReadFpdmaQueued n c s = _
  rw [execReadFpdmaQueued, sataAdmit_of_op hpers hlink hmayTake (by simp [sataOps]) (by simp), ok]

theorem writeFpdmaQueued_admitted (s : State) (n : Fin 32) (c : HostCmd) (hpers : s.pers 0 = 3)
    (hlink : (s.hp 0).link = .up) (hmayTake : s.groupMayTake 0 = true) :
    exec (.writeFpdmaQueued n c) s
      = .next (s.admitCmd 0 3 { c with tag := n.val, opcode := 0x61, queue := 0, tenant := 1 }) := by
  show execWriteFpdmaQueued n c s = _
  rw [execWriteFpdmaQueued, sataAdmit_of_op hpers hlink hmayTake (by simp [sataOps]) (by simp), ok]

/-- Settles O35: each personality takes a context while the pool may give one. -/
theorem commandsComeIn : Obligations.CommandsComeIn :=
  ⟨nvmeDoorbellWrite_of_subQueue, nvmeCommandFetch_admitted, nvmeCommandFetch_refused,
    nvmeCommandFetch_without_context, nvmeFetchResume_of_stalled, sasCommandFrame_admitted,
    sasCommandFrame_refused, sasCommandFrame_no_context, sasTaskManagement_of_pers,
    sataCommand_of_pers_hp_groupMayTake, readFpdmaQueued_admitted, writeFpdmaQueued_admitted⟩

end Sys2Proof.Machine
end
section
/-!
The host pages and the contexts (R96 to R118).
-/

namespace Sys2Proof.Machine
@[simp] theorem hp_raise (s : State) (o : Nat) (f : Fld) (g : Nat) : (s.raise o f).hp g = s.hp g := by
  simp [State.hp]

@[simp] theorem onlyRegs_setHp (l : List Nat) (s t : State) (g : Nat) (h : HostGroup) :
    OnlyRegs l s (t.setHp g h) ↔ OnlyRegs l s t := by
  unfold State.setHp
  split <;> exact Iff.rfl
theorem hostConfigRead_of_pers_hp (s : State) (g : Fin 2) (ofs : Nat) (hpers : s.pers g.val = 1)
    (hhp : (s.hp g.val).link = .up) :
    exec (.hostConfigRead g ofs) s
        = .next (s.emit (.host g.val 0 0 [(s.shadow g.val (ofs % 0x1000 / 4)).toNat])) := by
  show execHostConfigRead g ofs s = _
  simp [execHostConfigRead, hpers, hhp]

theorem hostBar0Read_of_pers_hp (s : State) (g : Fin 2) (ofs n : Nat) (hpers : s.pers g.val = 1)
    (hhp : (s.hp g.val).link = .up) (hle : n ≤ 16) :
    exec (.hostBar0Read g ofs n) s
      = .next (s.emit (.host g.val 0 0 ((List.range n).map fun j => s.barRead g.val (ofs + 4 * j)))) := by
  show execHostBar0Read g ofs n s = _
  simp [execHostBar0Read, hpers, hhp, hle]

theorem hostConfigWrite_plain (s : State) (g : Fin 2) (ofs : Nat) (v : Word) (hpers : s.pers g.val = 1)
    (hlink : (s.hp g.val).link = .up) (hmsix : ofs % 0x1000 / 4 ≠ capMsixWord)
    (hflr : (ofs % 0x1000 / 4 ≠ capPcieWord + 2 ∨ bitAt v.toNat 15 = false)) :
    exec (.hostConfigWrite g ofs v) s = .next (s.hostWord g.val (ofs % 0x1000 / 4) v) := by
  have hnoReset : ¬ (ofs % 0x1000 / 4 = capPcieWord + 2 ∧ bitAt v.toNat 15 = true) := by
    rintro ⟨hword, hbit⟩
    rcases hflr with h | h
    · exact h hword
    · rw [h] at hbit
      exact Bool.false_ne_true hbit
  show execHostConfigWrite g ofs v s = _
  rw [execHostConfigWrite, if_neg (by simp [hpers, hlink])]
  dsimp only
  rw [if_neg hmsix, if_neg (by simpa using hnoReset), ok]

theorem hostConfigWrite_of_msix_word (s : State) (g : Fin 2) (ofs : Nat) (v : Word) (hpers : s.pers g.val = 1)
    (hhp : (s.hp g.val).link = .up) (hofs : ofs % 0x1000 / 4 = capMsixWord) :
    exec (.hostConfigWrite g ofs v) s = .next ((s.hostWord g.val (ofs % 0x1000 / 4) v).sendHeld g.val 0 1025) := by
  show execHostConfigWrite g ofs v s = _
  simp [execHostConfigWrite, hpers, hhp, hofs]

theorem hostBar0Write_of_pers_hp_ofs (s : State) (g : Fin 2) (ofs : Nat) (v : Word) (hpers : s.pers g.val = 1)
    (hhp : (s.hp g.val).link = .up) (hofs : ofs < 0x1000) (hofs2 : ofs / 4 ≠ 5) :
    exec (.hostBar0Write g ofs v) s
      = .next ((s.hostWord g.val ((0x1000 + ofs) / 4) v).raise (R.HP_EVT g.val) F.HP_EVT_PROP_WRITE) := by
  show execHostBar0Write g ofs v s = _
  simp [execHostBar0Write, hpers, hhp, hofs, hofs2]

theorem shadowStage_of_room (s : State) (i : Initiator) (g : Fin 2) (v : Word) (hpair : isPair i = true)
    (hpending : (s.hp g.val).commitPending = false) (hroom : (s.hp g.val).staged.length < 64)
    (hword : s.rf (R.HP_SHD_ADDR g.val) F.HP_SHD_ADDR_WORD < msixWord) :
    exec (.shadowStage i g v) s
      = .next ((s.setHp g.val { s.hp g.val with
          staged := (s.hp g.val).staged ++ [(s.rf (R.HP_SHD_ADDR g.val) F.HP_SHD_ADDR_WORD,
              v)] }).shdNext g.val) := by
  show execShadowStage i g v s = _
  rw [execShadowStage, State.writeShdData]
  dsimp only
  rw [if_neg (by simp [hpWriter, hpair, hpending, hroom, hword]), ok]

theorem shadowRead_of_word (s : State) (i : Initiator) (g : Fin 2) (hpair : isPair i = true)
    (hword : s.rf (R.HP_SHD_ADDR g.val) F.HP_SHD_ADDR_WORD < shadowWords) :
    Completes (.shadowRead i g) s fun t =>
      t.resp = s.shadow g.val (s.rf (R.HP_SHD_ADDR g.val) F.HP_SHD_ADDR_WORD) := by
  show ∃ t, execShadowRead i g s = .next t ∧ _
  simp [execShadowRead, hpair, hword, hpWriter, State.readShdData, ok]

theorem shadowCommit_of_not_pending (s : State) (i : Initiator) (g : Fin 2) (hpair : isPair i = true)
    (hpending : (s.hp g.val).commitPending = false) :
    Completes (.shadowCommit i g) s fun t => (t.hp g.val).commitPending = true ∧ SameRegs s t := by
  refine ⟨s.setHp g.val { s.hp g.val with commitPending := true }, ?_, by simp, sameRegs_setHp _ _ _⟩
  show execShadowCommit i g s = _
  rw [execShadowCommit, State.writeShdCommit, if_neg (by simp [hpWriter, hpair, hpending]), if_neg (by decide),
    if_pos (by decide), ok]

theorem shadowDiscard_of_not_pending (s : State) (i : Initiator) (g : Fin 2) (hpair : isPair i = true)
    (hpending : (s.hp g.val).commitPending = false) :
    Completes (.shadowDiscard i g) s fun t => (t.hp g.val).staged = [] ∧ SameRegs s t := by
  refine ⟨s.setHp g.val { s.hp g.val with staged := [] }, ?_, by simp, sameRegs_setHp _ _ _⟩
  show execShadowDiscard i g s = _
  rw [execShadowDiscard, State.writeShdCommit, if_neg (by simp [hpWriter, hpair, hpending]), if_pos (by decide), ok]

theorem shadowCommitEffect_of_one_word (s : State) (g : Fin 2) (w : Nat) (v : Word)
    (hpending : (s.hp g.val).commitPending = true) (hstaged : (s.hp g.val).staged = [(w, v)]) :
    Completes (.shadowCommitEffect g) s fun t =>
      (t.hp g.val).commitPending = false ∧ (t.hp g.val).staged = [] ∧
        t.flag (R.HP_EVT g.val) F.HP_EVT_SHD_DONE = true ∧ OnlyRegs [R.HP_EVT g.val] s t := by
  refine completes_of_next (t := ((s.setShadow g.val w v).setHp g.val { (s.setShadow g.val w v).hp g.val with
    staged := [], commitPending := false }).raise (R.HP_EVT g.val) F.HP_EVT_SHD_DONE) ?_ ⟨?_, ?_, by simp, ?_⟩
  · show execShadowCommitEffect g s = _
    rw [execShadowCommitEffect, if_pos hpending, hstaged]
    simp only [List.foldl_cons, List.foldl_nil, ok]
  · rw [hp_raise, hp_setHp_self]
  · rw [hp_raise, hp_setHp_self]
  · simp [State.setShadow]

theorem inquiry_standard (s : State) (g : Fin 2) (tag page : Nat) (hpers : s.pers g.val = 2)
    (hready : s.ready (hpReady g.val) = true) :
    exec (.inquiry g tag false page) s = .next (s.emit (.host g.val tag 0 (s.shadowWordsFrom g.val 0 24))) := by
  show execInquiry g tag false page s = _
  rw [execInquiry, if_neg (by simp [hpers, hready]), State.inquiry, if_pos (by decide), ok]

theorem identifyDevice_of_sata (s : State) (tag : Nat) (hpers : s.pers 0 = 3) (hready : s.ready .hpa = true) :
    exec (.identifyDevice tag) s = .next (s.emit (.host 0 tag 0 (s.shadowWordsFrom 0 0 128))) := by
  show execIdentifyDevice tag s = _
  rw [execIdentifyDevice, if_neg (by simp [hpers, hready]), State.identifyDevice, ok]

section Contexts
variable (s : State) {k j : Nat} (c : Ctx) (w : Work)

@[simp] theorem ctx_setCtx_same (k : Nat) : (s.setCtx k c).ctx k = c := spGetD_set_self _ _ _ _

theorem ctx_setCtx_ne (h : j ≠ k) : (s.setCtx k c).ctx j = s.ctx j := spGetD_set_ne _ _ _ h

@[simp] theorem work_setWork_same (k : Nat) : (s.setWork k w).work k = w := spGetD_set_self _ _ _ _

theorem work_setWork_ne (h : j ≠ k) : (s.setWork k w).work j = s.work j := spGetD_set_ne _ _ _ h

@[simp] theorem ctx_setWork (k j : Nat) : (s.setWork k w).ctx j = s.ctx j := (rfl)

@[simp] theorem work_setCtx (k j : Nat) : (s.setCtx k c).work j = s.work j := (rfl)

@[simp] theorem ctx_dropClosing (k j : Nat) : (s.dropClosing k).ctx j = s.ctx j := (rfl)

@[simp] theorem work_dropClosing (k j : Nat) : (s.dropClosing k).work j = s.work j := (rfl)

@[simp] theorem ctx_wr (o : Nat) (v : Word) (j : Nat) : (s.wr o v).ctx j = s.ctx j := (rfl)

@[simp] theorem onlyRegs_takeCtx (l : List Nat) (u : State) (r : Nat) :
    OnlyRegs l u (s.takeCtx r c).2 ↔ OnlyRegs l u s := Iff.rfl

theorem ctx_takeCtx_same (r : Nat) : (s.takeCtx r c).2.ctx s.pickFree = { c with admitAt := 10 * s.now } := by
  rw [State.takeCtx, ctx_setWork, ctx_setCtx_same]

theorem ctx_takeCtx_ne (r : Nat) (h : j ≠ s.pickFree) : (s.takeCtx r c).2.ctx j = s.ctx j := by
  rw [State.takeCtx, ctx_setWork, ctx_setCtx_ne _ _ h]
  rfl

end Contexts

theorem postWord_index (st : Nat) (k : Fin 65536) : fget (postWord st k.val) F.WAY_CTX_POST_INDEX = k.val := by
  have hk := k.isLt
  simp [fget, postWord, word]
  omega

theorem postWord_state {st : Nat} (hst : st < 16) (k : Fin 65536) : fget (postWord st k.val)
    F.WAY_CTX_POST_STATE = st := by
  have hk := k.isLt
  simp [fget, postWord, word]
  omega

section Posts
variable {s : State} {i : Initiator} (hpair : isPair i = true) (k : Fin 65536)
include hpair

theorem writePost_free : s.writePost i (postWord cFree k.val) = s.postFree k.val := by
  rw [State.writePost, if_neg (by simp [hpair]), postWord_index, postWord_state (show cFree < 16 by decide)]
  rfl

theorem writePost_port : s.writePost i (postWord cPort k.val) = s.postPort k.val := by
  rw [State.writePost, if_neg (by simp [hpair]), postWord_index, postWord_state (show cPort < 16 by decide)]
  rfl

theorem writePost_media : s.writePost i (postWord cMedia k.val) = s.postMedia k.val := by
  rw [State.writePost, if_neg (by simp [hpair]), postWord_index, postWord_state (show cMedia < 16 by decide)]
  rfl

theorem writePost_staged : s.writePost i (postWord cStaged k.val) = s.postStaged k.val := by
  rw [State.writePost, if_neg (by simp [hpair]), postWord_index, postWord_state (show cStaged < 16 by decide)]
  rfl

theorem writePost_done : s.writePost i (postWord cDone k.val) = s.postDone k.val := by
  rw [State.writePost, if_neg (by simp [hpair]), postWord_index, postWord_state (show cDone < 16 by decide)]
  rfl

end Posts
theorem ctxTake_none_free (s : State) (p : Fin 2) (i : Initiator) (hpair : pairOf i p.val = true)
    (hmayTake : s.fwMayTake = false) :
    Completes (.ctxTake i p) s fun t => t.rd (R.WAY_CTX_GOT p.val) = 0 ∧ OnlyRegs [R.WAY_CTX_GOT p.val] s t := by
  refine ⟨s.wr (R.WAY_CTX_GOT p.val) 0, ?_, by simp, by simp⟩
  show execCtxTake i p s = _
  rw [execCtxTake, State.writeTake, if_neg (by rw [hpair]; decide), if_neg (by simp [hmayTake]), ok]

theorem ctxTake_gives_pickFree (s : State) (p : Fin 2) (i : Initiator) (hpair : pairOf i p.val = true)
    (hmayTake : s.fwMayTake = true) :
    Completes (.ctxTake i p) s fun t =>
      t.rd (R.WAY_CTX_GOT p.val) = word (2 ^ 31 + s.pickFree) ∧ (t.ctx s.pickFree).state = cFirmware ∧
        (∀ k, k ≠ s.pickFree → t.ctx k = s.ctx k) ∧ OnlyRegs [R.WAY_CTX_GOT p.val] s t := by
  refine ⟨(s.takeCtx 2 { state := cFirmware, origin := 2 }).2.wr (R.WAY_CTX_GOT p.val)
    (word (2 ^ 31 + s.pickFree)), ?_, by simp, ?_, fun k hk => ?_, by simp⟩
  · show execCtxTake i p s = _
    rw [execCtxTake, State.writeTake, if_neg (by rw [hpair]; decide), if_pos hmayTake, ok]
    rfl
  · rw [ctx_wr, ctx_takeCtx_same]
  · rw [ctx_wr, ctx_takeCtx_ne _ _ _ hk]

theorem ctxPostFree_of_firmware (s : State) (i : Initiator) (k : Fin 65536) (hpair : isPair i = true)
    (hstate : (s.ctx k.val).state = cFirmware) : exec (.ctxPostFree i k) s = .next (s.freeCtxAt k.val) := by
  show execCtxPostFree i k s = _
  rw [execCtxPostFree, writePost_free hpair k, State.postFree, if_neg (by rw [hstate]; decide), if_pos hstate, ok]

theorem ctxPostPort_of_new_or_media (s : State) (i : Initiator) (k : Fin 65536) (hpair : isPair i = true)
    (hstate : (s.ctx k.val).state ∈ [cNew, cMedia]) :
    exec (.ctxPostPort i k) s = .next ((s.setCtx k.val { s.ctx k.val with state := cPort }).queueCtx 0 k.val) := by
  have hstate' : (s.ctx k.val).state = cNew ∨ (s.ctx k.val).state = cMedia := by simpa using hstate
  show execCtxPostPort i k s = _
  rw [execCtxPostPort, writePost_port hpair k, State.postPort]
  dsimp only
  rw [if_pos (by simpa using hstate'), ok]

theorem ctxPostMedia_of_new_or_port (s : State) (i : Initiator) (k : Fin 65536) (hpair : isPair i = true)
    (hstate : (s.ctx k.val).state ∈ [cNew, cPort]) :
    exec (.ctxPostMedia i k) s = .next ((s.setCtx k.val { s.ctx k.val with state := cMedia }).queueCtx 1 k.val) := by
  have hstate' : (s.ctx k.val).state = cNew ∨ (s.ctx k.val).state = cPort := by simpa using hstate
  show execCtxPostMedia i k s = _
  rw [execCtxPostMedia, writePost_media hpair k, State.postMedia]
  dsimp only
  rw [if_pos (by simpa using hstate'), ok]

theorem ctxPostStaged_of_write (s : State) (i : Initiator) (k : Fin 65536) (hpair : isPair i = true)
    (hstate : (s.ctx k.val).state = cMedia) (hwrite : (s.work k.val).write = true)
    (hdiscarded : (s.work k.val).discarded = false) (hkept : s.mustDrop k.val = false)
    (hack : s.ackOk (s.ctx k.val) = false) :
    exec (.ctxPostStaged i k) s = .next (s.setCtx k.val { s.ctx k.val with state := cStaged }) := by
  show execCtxPostStaged i k s = _
  rw [execCtxPostStaged, writePost_staged hpair k, State.postStaged]
  dsimp only
  rw [if_neg (by simp [hstate, hwrite]), if_neg (by simp [hkept, hdiscarded]), if_neg (by simp [hack]), ok]

theorem ctxPostDone_of_data (s : State) (i : Initiator) (k : Fin 65536) (hpair : isPair i = true)
    (hstate : (s.ctx k.val).state ∈ [cNew, cPort, cMedia, cCommit]) (hdata : (s.fetchData k.val).1 = .done) :
    exec (.ctxPostDone i k) s
      = .next (((((s.fetchData k.val).2.2.setCtx k.val { s.ctx k.val with state := cDone }).returnRsv
          k.val).postCompletion k.val
          (s.fetchData k.val).2.1).freeCtxAt k.val) := by
  have hmember := hstate
  simp only [List.mem_cons, List.not_mem_nil, or_false] at hmember
  show execCtxPostDone i k s = _
  rw [execCtxPostDone, writePost_done hpair k, State.postDone]
  dsimp only
  rw [if_pos (by simp only [Bool.or_eq_true, decide_eq_true_eq]; tauto), if_pos hdata, ok]

theorem ctxPost_elsewhere (s : State) (i : Initiator) (k : Fin 65536) (hpair : isPair i = true)
    (hstate : (s.ctx k.val).state ∈ [cFree, cStaged, cDone]) (hacked : (s.ctx k.val).has fAcked = true) :
    ∀ c ∈ [Instr.ctxPostPort i k, .ctxPostMedia i k, .ctxPostStaged i k, .ctxPostDone i k], exec c s = .next s := by
  intro c hc
  have hmember := hstate
  simp only [List.mem_cons, List.not_mem_nil, or_false] at hmember
  have hne : (s.ctx k.val).state ≠ cNew ∧ (s.ctx k.val).state ≠ cPort ∧ (s.ctx k.val).state ≠ cMedia ∧
      (s.ctx k.val).state ≠ cCommit := by
    rcases hmember with h | h | h <;> (rw [h]; decide)
  obtain ⟨hnew, hport, hmedia, hcommit⟩ := hne
  fin_cases hc
  · show execCtxPostPort i k s = _
    rw [execCtxPostPort, writePost_port hpair k, State.postPort, if_neg (by simp [hnew, hmedia]), ok]
  · show execCtxPostMedia i k s = _
    rw [execCtxPostMedia, writePost_media hpair k, State.postMedia, if_neg (by simp [hnew, hport]), ok]
  · show execCtxPostStaged i k s = _
    rw [execCtxPostStaged, writePost_staged hpair k, State.postStaged, if_pos (by simp [hmedia]), ok]
  · show execCtxPostDone i k s = _
    rw [execCtxPostDone, writePost_done hpair k, State.postDone, if_neg (by simp [hnew, hport, hmedia, hcommit,
        hacked]), ok]

theorem ctxPop_of_front (s : State) (i : Initiator) (k : Fin 65536) (rest : List Nat) (hpair : pairOf i 0 = true)
    (hqueue : s.cmd.portQ = k.val :: rest) :
    Completes (.ctxPop i 0 k) s fun t => t.cmd.portQ = rest ∧ t.cmd.mediaQ = s.cmd.mediaQ ∧ SameRegs s t := by
  refine ⟨{ s with cmd := { s.cmd with portQ := s.cmd.portQ.tail } }, ?_, by rw [hqueue, List.tail_cons], rfl,
    sameRegs_of_eq rfl rfl⟩
  show execCtxPop i 0 k s = _
  have hindex : fget (word k.val) F.WAY_CTX_POP_INDEX = k.val := by
    simp [fget, word]
  have hfront : (s.pairQ (0 : Fin 2).val).head? = some (fget (word k.val) F.WAY_CTX_POP_INDEX) := by
    rw [hindex]
    simp [State.pairQ, hqueue]
  rw [execCtxPop, State.writePop, if_pos (by rw [hfront]; simpa using hpair), if_pos (by decide), ok]

theorem tenantConfigWrite_same_view (s : State) (i : Initiator) (t : Fin 256) (v : Word) (hpair : isPair i = true)
    (henable : fget (s.rd (R.WAY_TEN_CFG t.val)) F.WAY_TEN_CFG_ENABLE = 1)
    (hview : fget v F.WAY_TEN_CFG_VIEW = fget (s.rd (R.WAY_TEN_CFG t.val)) F.WAY_TEN_CFG_VIEW) :
    exec (.tenantConfigWrite i t v none) s = .next (s.writeFields (R.WAY_TEN_CFG t.val) v) ∧
      ∀ n, exec (.tenantConfigWrite i t v (some n)) s
          = .next ((s.writeFields (R.WAY_TEN_CFG t.val) v).setCapacity t.val n) := by
  have hwrite : s.writeTenCfg i t.val v = s.writeFields (R.WAY_TEN_CFG t.val) v := by
    rw [State.writeTenCfg]
    dsimp only
    rw [if_neg (by simp [hpair]), if_neg (by simp [hview]), if_neg (by simp [henable])]
  refine ⟨?_, fun n => ?_⟩
  · show execTenantConfigWrite i t v none s = _
    simp [execTenantConfigWrite, hwrite]
  · show execTenantConfigWrite i t v (some n) s = _
    simp [execTenantConfigWrite, hwrite, hpair]

theorem tenantConfigWrite_of_other_view (s : State) (i : Initiator) (t : Fin 256) (v : Word)
    (_hpair : isPair i = true) (henable : fget (s.rd (R.WAY_TEN_CFG t.val)) F.WAY_TEN_CFG_ENABLE = 1)
    (hview : fget v F.WAY_TEN_CFG_VIEW ≠ fget (s.rd (R.WAY_TEN_CFG t.val)) F.WAY_TEN_CFG_VIEW) :
    exec (.tenantConfigWrite i t v none) s = .next s := by
  show execTenantConfigWrite i t v none s = _
  simp [execTenantConfigWrite, henable, hview, State.writeTenCfg, isPair]

theorem allowanceWrite_next (s : State) (i : Initiator) (t : Fin 256) (v : Word) (hpair : isPair i = true) :
    exec (.allowanceWrite i t v) s
      = .next ({ s.writeFields (R.WAY_TEN_ALLOW_HI t.val) v with
          cmd := { (s.writeFields (R.WAY_TEN_ALLOW_HI t.val) v).cmd with
            allow := spSet 0 (s.writeFields (R.WAY_TEN_ALLOW_HI t.val) v).cmd.allow t.val
              ((s.writeFields (R.WAY_TEN_ALLOW_HI t.val) v).rf (R.WAY_TEN_ALLOW_LO t.val) F.WAY_TEN_ALLOW_LO_ALLOW
                + 2 ^ 32 * (s.writeFields (R.WAY_TEN_ALLOW_HI t.val) v).rf (R.WAY_TEN_ALLOW_HI t.val)
                  F.WAY_TEN_ALLOW_HI_ALLOW) } }.overdraft (t.val + 1)) := by
  show execAllowanceWrite i t v s = _
  simp [execAllowanceWrite, hpair, State.writeAllowHi]

theorem finish_shows (s : State) (k : Fin 65536) (st : Nat) :
    (s.finish k.val st).ctx k.val = { s.ctx k.val with status := st } ∧ (s.finish k.val st).isOpen k.val = false ∧
      (∀ j, j ≠ k.val → (s.finish k.val st).ctx j = s.ctx j ∧ (s.finish k.val st).isOpen j = s.isOpen j) ∧
      SameRegs s (s.finish k.val st) := by
  refine ⟨?_, ?_, fun j hj => ⟨?_, ?_⟩, sameRegs_of_eq rfl rfl⟩
  · simp [State.finish, State.setStatus]
  · simp [State.finish, State.setStatus, State.isOpen]
  · simp [State.finish, State.setStatus, ctx_setCtx_ne _ _ hj]
  · simp [State.finish, State.setStatus, State.isOpen, ctx_setCtx_ne _ _ hj, work_setWork_ne _ _ hj]

/-- Settles O37: a post acts by the state that the context stands in, and finishing leaves the others. -/
theorem contextsAreTakenAndFinished : Obligations.ContextsAreTakenAndFinished :=
  ⟨ctxTake_none_free, ctxTake_gives_pickFree, ctxPostFree_of_firmware, ctxPostPort_of_new_or_media,
    ctxPostMedia_of_new_or_port, ctxPostStaged_of_write, ctxPostDone_of_data, ctxPost_elsewhere, ctxPop_of_front,
    tenantConfigWrite_same_view, tenantConfigWrite_of_other_view, allowanceWrite_next, finish_shows⟩

end Sys2Proof.Machine
end
section
/-!
The block commands (R96 to R118).
-/

namespace Sys2Proof.Machine
section Reaches
variable {s : State} {k : Nat} {o : OpSet} {write : Bool}

theorem mediaCmd_of_reaches (h : s.commandReaches k o write) (f : State → State) : s.mediaCmd k o write f = f s := by
  obtain ⟨hholds, hhaven, hrefusal, htenant, hblocked⟩ := h
  rw [State.mediaCmd, State.hostCmd, if_pos hholds]
  dsimp only
  rw [if_neg (by simpa using hhaven), hrefusal]
  dsimp only
  rw [if_neg (by simp [htenant]), if_neg (by simp [hblocked])]

theorem blockCmd_of_reaches (h : s.blockReaches k o write) (f : State → State) : s.blockCmd k o write f = f s := by
  obtain ⟨hreaches, hview, hmdts, hcapacity⟩ := h
  rw [State.blockCmd, mediaCmd_of_reaches hreaches]
  dsimp only
  rw [if_neg (by simp [hview]), if_neg (by simp [hmdts]), if_neg (by simp [hcapacity])]

theorem reservedCmd_of_reaches (h : s.tenantReaches k o write) (f : State →
    State) : s.reservedCmd k o write f = f s := by
  obtain ⟨hholds, htenant, hblocked⟩ := h
  simp [State.reservedCmd, State.tenantCmd, State.hostCmd, hholds, htenant, hblocked]

/-- What was acknowledged is already safe, so a flush finishes at once (R112). -/
theorem flushCmd_of_reaches (h : s.tenantReaches k o true) (hview : s.objView (s.ctx k).tenant = false)
    (hcapacity : ¬ ((s.ctx k).proto = 2 ∧ s.beyondCapacity (s.ctx k) = true)) : s.flushCmd k o = s.finish k 0 := by
  rw [State.flushCmd, reservedCmd_of_reaches h]
  dsimp only
  rw [if_neg (by simp [hview]), if_neg (by simpa using hcapacity)]

theorem withData_of_readable {slot : Nat} (hmode : s.mode ≠ mHaven)
    (hresume : (s.ctxKeys (s.ctx k)).any s.beyondResume = false) (hlost : s.anyLost (s.ctxKeys (s.ctx k)) = false)
    (hblocked : s.readBlocked slot (s.ctxKeys (s.ctx k)) = false) (f : State → List Nat → State) :
    s.withData k slot false f = f (s.setCtx k { s.ctx k with keySlot := slot })
      ((s.ctxKeys (s.ctx k)).map (s.readNow slot)) := by
  unfold State.withData
  dsimp only
  rw [if_neg (by rw [hresume]; decide), if_neg (by simp [hmode]), if_neg (by simp [hlost]),
      if_neg (by simp [hblocked])]

end Reaches

theorem opSet_has_of_holds {s : State} {k : Nat} {o : OpSet} (h : s.holds k o = true) : o.has (s.ctx k) = true := by
  simp only [State.holds, Bool.and_eq_true] at h
  exact h.1.2

/-- An allowance that is kept leaves at most the tenant's OVERDRAFT bit to clear. -/
theorem overdraft_of_within {s : State} {t : Nat} (h : s.tenUse t + s.tenRsv t ≤ s.tenAllow t) :
    s.overdraft t = s ∨
      s.overdraft t = s.wf (R.WAY_TEN_STATUS (t - 1)) F.WAY_TEN_STATUS_OVERDRAFT 0 := by
  have hpast : decide (s.tenAllow t < s.tenUse t + s.tenRsv t) = false := by simpa using h
  unfold State.overdraft
  rw [hpast]
  dsimp only
  split
  · exact Or.inl rfl
  · exact Or.inr (by rw [if_neg (by decide), b2n_false])

@[simp] theorem ctx_wf (s : State) (o : Nat) (f : Fld) (v k : Nat) : (s.wf o f v).ctx k = s.ctx k := ctx_wr s o _ k

theorem useLo_ne_rsv (t : Nat) : R.WAY_TEN_USE_LO t ≠ R.WAY_TEN_RSV t := by
  unfold R.WAY_TEN_USE_LO R.WAY_TEN_RSV
  omega

theorem useHi_ne_rsv (t : Nat) : R.WAY_TEN_USE_HI t ≠ R.WAY_TEN_RSV t := by
  unfold R.WAY_TEN_USE_HI R.WAY_TEN_RSV
  omega

theorem rsv_ne_status (t : Nat) : R.WAY_TEN_RSV t ≠ R.WAY_TEN_STATUS t := by
  unfold R.WAY_TEN_STATUS R.WAY_TEN_RSV
  omega

theorem tenUse_wr_rsv (s : State) (t : Nat) (v : Word) : (s.wr (R.WAY_TEN_RSV (t - 1)) v).tenUse t = s.tenUse t := by
  unfold State.tenUse
  rw [rf_wr_elsewhere _ _ _ (useLo_ne_rsv _), rf_wr_elsewhere _ _ _ (useHi_ne_rsv _)]

theorem tenRsv_wr_rsv (s : State) {t r : Nat} (hr : r < 2 ^ 32) :
    (s.wr (R.WAY_TEN_RSV (t - 1)) (word r)).tenRsv t = r := by
  rw [State.tenRsv, rf_wr_same]
  simpa [fget] using hr

@[simp] theorem tenAllow_wr (s : State) (o : Nat) (v : Word) (t : Nat) : (s.wr o v).tenAllow t = s.tenAllow t := (rfl)

theorem setRsv_of_within {s : State} {t r : Nat} (h : s.tenUse t + r ≤ s.tenAllow t) (hr : r < 2 ^ 32) :
    (s.setRsv t r).tenRsv t = r ∧ ∀ k, (s.setRsv t r).ctx k = s.ctx k := by
  have hrsv := tenRsv_wr_rsv s (t := t) hr
  have hwithin : (s.wr (R.WAY_TEN_RSV (t - 1)) (word r)).tenUse t + (s.wr (R.WAY_TEN_RSV (t - 1)) (word r)).tenRsv t
      ≤ (s.wr (R.WAY_TEN_RSV (t - 1)) (word r)).tenAllow t := by
    rw [hrsv, tenUse_wr_rsv, tenAllow_wr]
    exact h
  rw [State.setRsv]
  rcases overdraft_of_within hwithin with hsame | hclear
  · rw [hsame]
    exact ⟨hrsv, fun k => ctx_wr _ _ _ _⟩
  · rw [hclear]
    refine ⟨?_, fun k => by rw [ctx_wf, ctx_wr]⟩
    rw [State.tenRsv, rf_wf_elsewhere _ _ _ _ (rsv_ne_status _)]
    exact hrsv

theorem proto_of_nvme {s : State} {k : Nat} {l : List Nat} (h : s.holds k { nvme := l }
    = true) : (s.ctx k).proto = 1 := by
  have hhas := opSet_has_of_holds h
  unfold OpSet.has at hhas
  split at hhas <;> simp_all

theorem proto_of_sata {s : State} {k : Nat} {l : List Nat} (h : s.holds k { sata := l }
    = true) : (s.ctx k).proto ≠ 2 := by
  have hhas := opSet_has_of_holds h
  unfold OpSet.has at hhas
  split at hhas <;> simp_all

theorem ctxKeys_filter_length (s : State) (c : Ctx) (p : Key → Bool) :
    ((s.ctxKeys c).filter p).length = ((List.range c.granCnt).filter fun i => p (s.ctxKey c i)).length := by
  rw [State.ctxKeys, List.filter_map, List.length_map]
  rfl
theorem blockRead_reads_range (s : State) (k slot : Fin 65536) (hit : Bool)
    (hreaches : s.blockReaches k.val opRead false) :
    exec (.blockRead k slot hit) s = .next (s.readRange k.val slot.val hit) := by
  show execBlockRead k slot hit s = _
  rw [execBlockRead, blockCmd_of_reaches hreaches, ok]

theorem blockRead_of_readable (s : State) (k slot : Fin 65536) (hreaches : s.blockReaches k.val opRead false)
    (hmode : s.mode ≠ mHaven) (hresume : (s.ctxKeys (s.ctx k.val)).any s.beyondResume = false)
    (hlost : s.anyLost (s.ctxKeys (s.ctx k.val)) = false)
    (hblocked : s.readBlocked slot.val (s.ctxKeys (s.ctx k.val)) = false) :
    exec (.blockRead k slot false) s
      = .next ((s.setCtx k.val { s.ctx k.val with keySlot := slot.val }).finishData k.val
          ((s.ctxKeys (s.ctx k.val)).map (s.readNow slot.val))) := by
  show execBlockRead k slot false s = _
  rw [execBlockRead, blockCmd_of_reaches hreaches, State.readRange,
      withData_of_readable hmode hresume hlost hblocked, ok]

theorem blockWrite_admits (s : State) (k slot : Fin 65536) (data : Nat) (hreaches : s.blockReaches k.val opWrite true)
    :
    exec (.blockWrite k slot data) s
      = .next (s.admitWrite k.val (s.rf (R.WAY_TEN_CFG ((s.ctx k.val).tenant - 1)) F.WAY_TEN_CFG_CLASS)
          0xFFFFFFFF slot.val
          data) := by
  show execBlockWrite k slot data s = _
  rw [execBlockWrite, blockCmd_of_reaches hreaches, ok]

theorem nvmeFlush_finishes (s : State) (k : Fin 65536) (hreaches : s.tenantReaches k.val { nvme := [0x00] } true)
    (hview : s.objView (s.ctx k.val).tenant = false) : exec (.nvmeFlush k) s = .next (s.finish k.val 0) := by
  have hproto := proto_of_nvme hreaches.1
  show execNvmeFlush k s = _
  rw [execNvmeFlush, flushCmd_of_reaches hreaches hview (by simp [hproto]), ok]

theorem synchronizeCache_finishes (s : State) (k : Fin 65536)
    (hreaches : s.tenantReaches k.val { sas := [0x91] } true) (hview : s.objView (s.ctx k.val).tenant = false)
    (hcapacity : s.beyondCapacity (s.ctx k.val) = false) :
    exec (.synchronizeCache k) s = .next (s.finish k.val 0) := by
  show execSynchronizeCache k s = _
  rw [execSynchronizeCache, flushCmd_of_reaches hreaches hview (by simp [hcapacity]), ok]

theorem flushCacheExt_finishes (s : State) (k : Fin 65536) (hreaches : s.tenantReaches k.val { sata := [0xEA] } true)
    (hview : s.objView (s.ctx k.val).tenant = false) : exec (.flushCacheExt k) s = .next (s.finish k.val 0) := by
  have hproto := proto_of_sata hreaches.1
  show execFlushCacheExt k s = _
  rw [execFlushCacheExt, flushCmd_of_reaches hreaches hview (by simp [hproto]), ok]

theorem writeZeroes_releases (s : State) (k : Fin 65536) (hreaches : s.blockReaches k.val { nvme := [0x08] } true) :
    exec (.writeZeroes k) s
      = .next ((s.release (s.ctx k.val).tenant
          (inRange ((s.ctx k.val).target % 2 ^ 64) (s.ctx k.val).granCnt)).finish k.val 0) := by
  show execWriteZeroes k s = _
  rw [execWriteZeroes, blockCmd_of_reaches hreaches, ok]

theorem deallocate_releases (s : State) (k : Fin 65536) (l : List (Nat × Nat))
    (hreaches : s.commandReaches k.val { nvme := [0x09] } true) (hview : s.objView (s.ctx k.val).tenant = false)
    (hdeallocate : bitAt (s.ctx k.val).target 34 = true)
    (hranges : (∀ q ∈ l.take ((s.ctx k.val).target % 256 + 1),
        q.1 + q.2 ≤ spGetD 0 s.cmd.capacity ((s.ctx k.val).tenant - 1)))
    :
    exec (.deallocate k l) s
      = .next ((s.release (s.ctx k.val).tenant fun q =>
          (l.take ((s.ctx k.val).target % 256 + 1)).any fun r => inRange r.1 r.2 q).finish k.val 0) := by
  have hcapacity : ((l.take ((s.ctx k.val).target % 256 + 1)).any fun q =>
      decide (spGetD 0 s.cmd.capacity ((s.ctx k.val).tenant - 1) < q.1 + q.2)) = false := by
    rw [List.any_eq_false]
    intro q hq
    simpa using hranges q hq
  show execDeallocate k l s = _
  rw [execDeallocate, mediaCmd_of_reaches hreaches]
  dsimp only
  rw [if_neg (by simp [hview]), if_neg (by simp [hdeallocate]), if_neg (by simp only [hcapacity]; decide), ok]

theorem blockVerify_of_good_media (s : State) (k : Fin 65536) (hreaches : s.blockReaches k.val opVerify false)
    (hmode : s.mode ≠ mHaven) (hresume : (s.ctxKeys (s.ctx k.val)).any s.beyondResume = false)
    (hlost : ((s.ctxKeys (s.ctx k.val)).any fun q => s.way.lost.contains q) = false) :
    exec (.blockVerify k true) s = .next (s.finish k.val 0) := by
  show execBlockVerify k true s = _
  rw [execBlockVerify, blockCmd_of_reaches hreaches]
  dsimp only
  rw [if_neg (by simp only [hresume]; decide), if_neg hmode, if_pos (by simp only [hlost]; decide), ok]

theorem blockVerify_of_bad_media (s : State) (k : Fin 65536) (hreaches : s.blockReaches k.val opVerify false)
    (hmode : s.mode ≠ mHaven) (hresume : (s.ctxKeys (s.ctx k.val)).any s.beyondResume = false) :
    exec (.blockVerify k false) s = .next (s.finish k.val (stReadError (s.ctx k.val).proto)) := by
  show execBlockVerify k false s = _
  rw [execBlockVerify, blockCmd_of_reaches hreaches]
  dsimp only
  rw [if_neg (by simp only [hresume]; decide), if_neg hmode, Bool.false_and, if_neg (by decide), ok]

theorem compare_of_equal_data (s : State) (k slot : Fin 65536) (data : Nat)
    (hreaches : s.blockReaches k.val { nvme := [0x05] } false) (hmode : s.mode ≠ mHaven)
    (hresume : (s.ctxKeys (s.ctx k.val)).any s.beyondResume = false)
    (hlost : s.anyLost (s.ctxKeys (s.ctx k.val)) = false)
    (hblocked : s.readBlocked slot.val (s.ctxKeys (s.ctx k.val)) = false)
    (hequal : (s.ctxKeys (s.ctx k.val)).map (s.readNow slot.val)
        = (List.range (s.ctx k.val).granCnt).map (dataAt data))
    :
    exec (.compare k slot false data) s
      = .next ((s.setCtx k.val { s.ctx k.val with keySlot := slot.val }).finish k.val 0) := by
  show execCompare k slot false data s = _
  rw [execCompare, blockCmd_of_reaches hreaches, withData_of_readable hmode hresume hlost hblocked, ctx_setCtx_same,
    if_pos hequal, ok]

theorem admitWrite_refused (s : State) (k : Fin 65536) (cls link slot data n : Nat)
    (hnew : ((s.ctxKeys (s.ctx k.val)).filter fun q => (s.mapped q).isNone).length = n) (hpos : 0 < n)
    (hfull : s.tenAllow (s.ctx k.val).tenant < s.tenUse (s.ctx k.val).tenant + s.tenRsv (s.ctx k.val).tenant + n) :
    s.admitWrite k.val cls link slot data
      = (s.finish k.val (stObject (s.ctx k.val).proto 4)).countUp (R.WAY_TEN_STATUS ((s.ctx k.val).tenant - 1))
          F.WAY_TEN_STATUS_REFUSED 1 := by
  rw [ctxKeys_filter_length] at hnew
  unfold State.admitWrite
  dsimp only
  rw [hnew]
  exact if_pos (by simp [hpos, hfull])

theorem admitWrite_reserves (s : State) (k : Fin 65536) (cls link slot data n : Nat)
    (hnew : ((s.ctxKeys (s.ctx k.val)).filter fun q => (s.mapped q).isNone).length = n)
    (hfits : s.tenUse (s.ctx k.val).tenant + s.tenRsv (s.ctx k.val).tenant + n ≤ s.tenAllow (s.ctx k.val).tenant)
    (hword : s.tenRsv (s.ctx k.val).tenant + n < 2 ^ 32) (hclass : s.classOk cls = true)
    (hcapacity : s.capacityOk cls n = true) :
    ((s.admitWrite k.val cls link slot data).ctx k.val).rsvGran = n ∧
      (s.admitWrite k.val cls link slot data).tenRsv (s.ctx k.val).tenant = s.tenRsv (s.ctx k.val).tenant + n ∧
      ((s.admitWrite k.val cls link slot data).work k.val).data = data := by
  rw [ctxKeys_filter_length] at hnew
  unfold State.admitWrite
  dsimp only
  rw [hnew, if_neg (by simp; omega), if_neg (by simp [hclass]), if_neg (by simp [hcapacity])]
  obtain ⟨hrsv, hctx⟩ := setRsv_of_within (s := s.setCtx k.val { s.ctx k.val with
    cls, link, keySlot := slot, rsvGran := n, status := 0 }) (t := (s.ctx k.val).tenant)
    (r := s.tenRsv (s.ctx k.val).tenant + n) (by rw [← Nat.add_assoc]; exact hfits) hword
  refine ⟨?_, hrsv, ?_⟩
  · rw [ctx_setWork, hctx, ctx_setCtx_same]
  · rw [work_setWork_same]

/-- Settles O38: a command that reaches its blocks acts on them at once. -/
theorem blockCommandsAct : Obligations.BlockCommandsAct :=
  ⟨blockRead_reads_range, blockRead_of_readable, blockWrite_admits, nvmeFlush_finishes, synchronizeCache_finishes,
    flushCacheExt_finishes, writeZeroes_releases, deallocate_releases, blockVerify_of_good_media,
    blockVerify_of_bad_media, compare_of_equal_data, admitWrite_refused, admitWrite_reserves⟩

end Sys2Proof.Machine
end
section
/-!
Administration: NVMe, SCSI and ATA (R99 to R111).
-/

namespace Sys2Proof.Machine
section Finishing
variable (s : State) (k g : Nat)

theorem hostCmd_of_holds {s : State} {k : Nat} {o : OpSet} (h : s.holds k o = true) (f : State → State) :
    s.hostCmd k o f = f s := if_pos h

theorem tenantCmd_of_ok {s : State} {k : Nat} {o : OpSet} (h : s.holds k o
    = true) (htenant : s.tenantOk (s.ctx k) = true)
    (f : State → State) : s.tenantCmd k o f = f s := by
  rw [State.tenantCmd, hostCmd_of_holds h, if_pos htenant]

theorem proto_of_sas {s : State} {k : Nat} {l : List Nat} (h : s.holds k { sas := l }
    = true) : (s.ctx k).proto = 2 := by
  have hhas := opSet_has_of_holds h
  unfold OpSet.has at hhas
  split at hhas <;> simp_all

@[simp] theorem hp_finish (st : Nat) : (s.finish k st).hp g = s.hp g := (rfl)

@[simp] theorem hp_passOn : (s.passOn k).hp g = s.hp g := (rfl)

@[simp] theorem ctx_passOn (j : Nat) : (s.passOn k).ctx j = s.ctx j := (rfl)

@[simp] theorem isOpen_passOn : (s.passOn k).isOpen k = false := by simp [State.isOpen, State.passOn]

@[simp] theorem ctx_setHp (h : HostGroup) : (s.setHp g h).ctx k = s.ctx k := by
  unfold State.setHp
  split <;> rfl

@[simp] theorem ctx_finish_same (st : Nat) : (s.finish k st).ctx k = { s.ctx k with status := st } := by
  simp [State.finish, State.setStatus]

@[simp] theorem sameRegs_finish (u : State) (st : Nat) : SameRegs u (s.finish k st) ↔ SameRegs u s := Iff.rfl

@[simp] theorem sameRegs_passOn (u : State) : SameRegs u (s.passOn k) ↔ SameRegs u s := Iff.rfl

@[simp] theorem sameRegs_setHp_iff (u : State) (h : HostGroup) : SameRegs u (s.setHp g h) ↔ SameRegs u s :=
  onlyRegs_setHp [] u s g h

end Finishing

theorem spGetD_insert_erase {α : Type} (d v : α) (m : List (Nat × α)) (k : Nat) :
    spGetD d (spInsert (spErase m k) k v) k = v := by
  have hgone : spGet (spErase m k) k = none := by simp [spGet_erase]
  simp [spGetD, spGet_insert _ _ _ _ hgone]
theorem nvmeIdentify_namespace (s : State) (k : Fin 65536) (data : Nat)
    (hholds : s.holds k.val { adm := [0x06] } = true) (htenant : s.tenantOk (s.ctx k.val) = true) :
    exec (.nvmeIdentify k 0 data) s
      = .next (s.finishData k.val (s.shadowWordsFrom (s.ctx k.val).origin (Config.identifyPlace (s.ctx
          k.val).tenant) 1024)) := by
  show execNvmeIdentify k 0 data s = _
  rw [execNvmeIdentify, hostCmd_of_holds hholds]
  dsimp only
  rw [if_pos rfl, if_pos htenant, ok]

theorem nvmeIdentify_controller (s : State) (k : Fin 65536) (data : Nat)
    (hholds : s.holds k.val { adm := [0x06] } = true) :
    exec (.nvmeIdentify k 1 data) s = .next (s.finishData k.val [putBytes (putBytes data 77 1 9) 525 1 0]) := by
  show execNvmeIdentify k 1 data s = _
  simp [execNvmeIdentify, hholds, State.hostCmd]

theorem nvmeIdentify_other (s : State) (k : Fin 65536) (cns data : Nat)
    (hholds : s.holds k.val { adm := [0x06] } = true) (hcns : 2 ≤ cns) :
    exec (.nvmeIdentify k cns data) s = .next (s.finishData k.val [data]) := by
  show execNvmeIdentify k cns data s = _
  rw [execNvmeIdentify, hostCmd_of_holds hholds]
  dsimp only
  rw [if_neg (by omega), if_neg (by omega), ok]

theorem nvmeGetLogPage_of_holds (s : State) (k : Fin 65536) (lid : Nat) (data : List Nat)
    (hholds : s.holds k.val { adm := [0x02] } = true) :
    exec (.nvmeGetLogPage k lid data) s = .next (s.finishData k.val (if lid = 0xC0 then s.cairnPage else data)) := by
  show execNvmeGetLogPage k lid data s = _
  simp [execNvmeGetLogPage, hholds, State.hostCmd]

theorem namespaceManagement_sets_capacity (s : State) (k : Fin 65536) (t : Fin 256) (n : Nat)
    (hholds : s.holds k.val { adm := [0x0D] } = true) (hblocked : s.blocked k.val true = false) :
    Completes (.namespaceManagement k t n) s fun u =>
      spGetD 0 u.cmd.capacity t.val = n ∧ u.isOpen k.val = false ∧ u.ctx k.val = s.ctx k.val ∧ SameRegs s u := by
  refine completes_of_next (t := (s.setCapacity t.val n).passOn k.val) ?_
    ⟨spGetD_set_self _ _ _ _, isOpen_passOn _ _, ctx_passOn _ _ _, sameRegs_of_eq rfl rfl⟩
  show execNamespaceManagement k t n s = _
  rw [execNamespaceManagement, hostCmd_of_holds hholds, if_neg (by simp [hblocked]), ok]

theorem namespaceAttachment_passed_on (s : State) (k : Fin 65536) (hholds : s.holds k.val { adm := [0x15] } = true)
    (hblocked : s.blocked k.val true = false) : exec (.namespaceAttachment k) s = .next (s.passOn k.val) := by
  show execNamespaceAttachment k s = _
  rw [execNamespaceAttachment, hostCmd_of_holds hholds, if_neg (by simp [hblocked]), ok]

theorem firmwareImageDownload_of_holds (s : State) (k : Fin 65536) (hholds : s.holds k.val { adm := [0x11] } = true) :
    exec (.firmwareImageDownload k) s = .next (s.passOn k.val) := by
  show execFirmwareImageDownload k s = _
  simp [execFirmwareImageDownload, hholds, State.hostCmd]

theorem firmwareCommit_of_holds (s : State) (k : Fin 65536) (hholds : s.holds k.val { adm := [0x10] } = true) :
    exec (.firmwareCommit k) s = .next (s.passOn k.val) := by
  show execFirmwareCommit k s = _
  simp [execFirmwareCommit, hholds, State.hostCmd]

theorem passOn_shows (s : State) (k : Fin 65536) :
    (s.passOn k.val).isOpen k.val = false ∧ (s.passOn k.val).ctx k.val = s.ctx k.val ∧
      SameRegs s (s.passOn k.val) := by
  exact ⟨isOpen_passOn _ _, ctx_passOn _ _ _, sameRegs_of_eq rfl rfl⟩

theorem createIoQueue_completion (s : State) (k : Fin 65536) (a : QueueArgs)
    (hholds : s.holds k.val { adm := [0x01, 0x05] } = true) (hopcode : (s.ctx k.val).opcode = 0x05)
    (hargs : (s.ctx k.val).queueArgs = a) (hpc : a.pc = true) (hone : 1 ≤ a.qid) (hqid : a.qid ≤ 1024)
    (htwo : 2 ≤ a.size) (hsize : a.size ≤ 4096) (hvector : a.far ≤ 1024)
    (hnew : spGet (s.hp (s.ctx k.val).origin).cqs a.qid = none) :
    Completes (.createIoQueue k) s fun t =>
      spGet (t.hp (s.ctx k.val).origin).cqs a.qid = some { size := a.size, vector := a.far, ien := a.ien } ∧
        (t.ctx k.val).status = 0 ∧ SameRegs s t := by
  refine completes_of_next (t := (s.setHp (s.ctx k.val).origin { s.hp (s.ctx k.val).origin with
    cqs := spInsert (s.hp (s.ctx k.val).origin).cqs a.qid { size := a.size, vector := a.far, ien := a.ien }
        }).finish k.val 0)
    ?_ ⟨?_, by simp, by simp⟩
  · show execCreateIoQueue k s = _
    rw [execCreateIoQueue, hostCmd_of_holds hholds]
    dsimp only
    rw [hargs, if_neg (by simp [hpc]), if_neg (by simp [hopcode, hnew]; omega), if_neg (by simp; omega),
      if_pos (by simp [hopcode]), if_neg (by omega), ok]
  · rw [hp_finish, hp_setHp_self]
    simp [spGet_insert _ _ _ _ hnew]

theorem createIoQueue_submission (s : State) (k : Fin 65536) (a : QueueArgs) (c : CplQueue)
    (hholds : s.holds k.val { adm := [0x01, 0x05] } = true) (hopcode : (s.ctx k.val).opcode = 0x01)
    (hargs : (s.ctx k.val).queueArgs = a) (hpc : a.pc = true) (hone : 1 ≤ a.qid) (hqid : a.qid ≤ 1024)
    (htwo : 2 ≤ a.size) (hsize : a.size ≤ 4096) (hnew : spGet (s.hp (s.ctx k.val).origin).sqs a.qid = none)
    (hfar : spGet (s.hp (s.ctx k.val).origin).cqs a.far = some c) :
    Completes (.createIoQueue k) s fun t =>
      spGet (t.hp (s.ctx k.val).origin).sqs a.qid = some { size := a.size, cq := a.far } ∧ (t.ctx k.val).status = 0 ∧
        SameRegs s t := by
  refine completes_of_next (t := (s.setHp (s.ctx k.val).origin { s.hp (s.ctx k.val).origin with
    sqs := spInsert (s.hp (s.ctx k.val).origin).sqs a.qid { size := a.size, cq := a.far } }).finish k.val 0)
    ?_ ⟨?_, by simp, by simp⟩
  · show execCreateIoQueue k s = _
    rw [execCreateIoQueue, hostCmd_of_holds hholds]
    dsimp only
    rw [hargs, if_neg (by simp [hpc]), if_neg (by simp [hopcode, hnew]; omega), if_neg (by simp; omega),
      if_neg (by simp [hopcode]), if_neg (by simp [hfar]), ok]
  · rw [hp_finish, hp_setHp_self]
    simp [spGet_insert _ _ _ _ hnew]

theorem nvmeDeleteIoQueue_submission (s : State) (k : Fin 65536) (qid : Nat) (q : SubQueue)
    (hholds : s.holds k.val { adm := [0x00] } = true) (hone : 1 ≤ qid)
    (hqueue : spGet (s.hp (s.ctx k.val).origin).sqs qid = some q) :
    Completes (.nvmeDeleteIoQueue k false qid) s fun t =>
      spGet (t.hp (s.ctx k.val).origin).sqs qid = none ∧ (t.ctx k.val).status = 0 ∧ SameRegs s t := by
  refine completes_of_next (t := (s.setHp (s.ctx k.val).origin { s.hp (s.ctx k.val).origin with
    sqs := spErase (s.hp (s.ctx k.val).origin).sqs qid }).finish k.val 0) ?_ ⟨?_, by simp, by simp⟩
  · show execNvmeDeleteIoQueue k false qid s = _
    rw [execNvmeDeleteIoQueue]
    dsimp only
    rw [if_neg (by simp [hholds]), if_neg (by decide), if_neg (by simp [hqueue]; omega), ok]
  · rw [hp_finish, hp_setHp_self]
    simp [spGet_erase]

theorem nvmeAbort_of_holds_findCmd_j (s : State) (k : Fin 65536) (sq cid j : Nat)
    (hholds : s.holds k.val { adm := [0x08] } = true) (hfindCmd : s.findCmd (s.ctx k.val).origin sq cid = some j)
    (hj : j ≠ k.val) : exec (.nvmeAbort k sq cid) s = .next ((s.finish j (stNvme 0 7 0)).finishData k.val [0]) := by
  show execNvmeAbort k sq cid s = _
  simp [execNvmeAbort, hholds, hfindCmd, hj]

theorem nvmeAbort_of_holds_findCmd (s : State) (k : Fin 65536) (sq cid : Nat)
    (hholds : s.holds k.val { adm := [0x08] } = true) (hfindCmd : s.findCmd (s.ctx k.val).origin sq cid = none) :
    exec (.nvmeAbort k sq cid) s = .next (s.finishData k.val [1]) := by
  show execNvmeAbort k sq cid s = _
  simp [execNvmeAbort, hholds, hfindCmd]

theorem nvmeSetFeatures_stores (s : State) (k : Fin 65536) (fid v : Nat)
    (hholds : s.holds k.val { adm := [0x09] } = true) (hfeature : noFeature fid = false) :
    Completes (.nvmeSetFeatures k fid v) s fun t =>
      spGetD 0 (t.hp (s.ctx k.val).origin).features fid = v ∧ (t.ctx k.val).status = 0 ∧ SameRegs s t := by
  refine completes_of_next (t := (s.setHp (s.ctx k.val).origin { s.hp (s.ctx k.val).origin with
    features := spInsert (spErase (s.hp (s.ctx k.val).origin).features fid) fid v }).finish k.val 0)
    ?_ ⟨by simp [spGetD_insert_erase], by simp, by simp⟩
  show execNvmeSetFeatures k fid v s = _
  rw [execNvmeSetFeatures, hostCmd_of_holds hholds]
  dsimp only
  rw [if_neg (by simp [hfeature]), ok]

theorem nvmeGetFeatures_reads (s : State) (k : Fin 65536) (fid : Nat)
    (hholds : s.holds k.val { adm := [0x0A] } = true) (hfeature : noFeature fid = false) :
    exec (.nvmeGetFeatures k fid) s
      = .next (s.finishData k.val [spGetD 0 (s.hp (s.ctx k.val).origin).features fid]) := by
  show execNvmeGetFeatures k fid s = _
  rw [execNvmeGetFeatures, hostCmd_of_holds hholds, if_neg (by simp [hfeature]), ok]

theorem nvmeAsyncEventRequest_queued (s : State) (k : Fin 65536) (hholds : s.holds k.val { adm := [0x0C] } = true) :
    Completes (.nvmeAsyncEventRequest k) s fun t =>
      (t.hp (s.ctx k.val).origin).asyncReqs = (s.hp (s.ctx k.val).origin).asyncReqs ++ [k.val] ∧
          t.isOpen k.val = false ∧
        SameRegs s t := by
  refine completes_of_next (t := (s.setHp (s.ctx k.val).origin { s.hp (s.ctx k.val).origin with
    asyncReqs := (s.hp (s.ctx k.val).origin).asyncReqs ++ [k.val] }).passOn k.val)
    ?_ ⟨by simp, isOpen_passOn _ _, by simp⟩
  show execNvmeAsyncEventRequest k s = _
  rw [execNvmeAsyncEventRequest, hostCmd_of_holds hholds, ok]

theorem readCapacity_reads_shadow (s : State) (k : Fin 65536) (hholds : s.holds k.val { sas := [0x9E] } = true)
    (htenant : s.tenantOk (s.ctx k.val) = true) :
    exec (.readCapacity k) s
      = .next (s.finishData k.val (s.shadowWordsFrom (s.ctx k.val).origin (Config.capacityPlace (s.ctx
          k.val).tenant) 8)) := by
  show execReadCapacity k s = _
  rw [execReadCapacity, tenantCmd_of_ok hholds htenant, ok]

theorem reportLuns_of_holds (s : State) (k : Fin 65536) (hholds : s.holds k.val { sas := [0xA0] } = true) :
    exec (.reportLuns k) s
      = .next (s.finishData k.val
          ((List.range 256).filter fun t => s.tenantOk { s.ctx k.val with tenant := t + 1 })) := by
  show execReportLuns k s = _
  simp [execReportLuns, hholds, State.hostCmd]

theorem testUnitReady_finishes (s : State) (k : Fin 65536) (hreaches : s.commandReaches k.val { sas := [0x00] } false)
    : exec (.testUnitReady k) s = .next (s.finish k.val 0) := by
  obtain ⟨hholds, -, hrefusal, htenant, -⟩ := hreaches
  rw [proto_of_sas hholds] at hrefusal
  show execTestUnitReady k s = _
  rw [execTestUnitReady, tenantCmd_of_ok hholds htenant, hrefusal, Option.getD_none, ok]

theorem requestSense_of_tenant (s : State) (k : Fin 65536) (hholds : s.holds k.val { sas := [0x03] } = true)
    (htenant : s.tenantOk (s.ctx k.val) = true) :
    exec (.requestSense k) s = .next (s.finishData k.val [(s.modeRefusal k.val 2 false).getD 0]) := by
  show execRequestSense k s = _
  rw [execRequestSense, hostCmd_of_holds hholds, if_pos htenant, ok]

theorem requestSense_of_no_tenant (s : State) (k : Fin 65536) (hholds : s.holds k.val { sas := [0x03] } = true)
    (htenant : s.tenantOk (s.ctx k.val) = false) :
    exec (.requestSense k) s = .next (s.finishData k.val [stBadNamespace 2]) := by
  show execRequestSense k s = _
  rw [execRequestSense, hostCmd_of_holds hholds, if_neg (by simp [htenant]), ok]

theorem startStopUnit_passed_on (s : State) (k : Fin 65536) (x : Bool)
    (hreaches : s.tenantReaches k.val { sas := [0x1B] } true) :
    exec (.startStopUnit k x) s = .next (s.passOn k.val) := by
  show execStartStopUnit k x s = _
  cases x
  · rw [execStartStopUnit, if_neg (by decide), reservedCmd_of_reaches hreaches, ok]
  · rw [execStartStopUnit, if_pos rfl, tenantCmd_of_ok hreaches.1 hreaches.2.1, ok]

theorem writeBuffer_passed_on (s : State) (k : Fin 65536) (hreaches : s.tenantReaches k.val { sas := [0x3B] } true) :
    exec (.writeBuffer k) s = .next (s.passOn k.val) := by
  show execWriteBuffer k s = _
  rw [execWriteBuffer, reservedCmd_of_reaches hreaches, ok]

theorem readBuffer_passed_on (s : State) (k : Fin 65536) (hreaches : s.tenantReaches k.val { sas := [0x3C] } false) :
    exec (.readBuffer k) s = .next (s.passOn k.val) := by
  show execReadBuffer k s = _
  rw [execReadBuffer, reservedCmd_of_reaches hreaches, ok]

theorem downloadMicrocode_of_holds (s : State) (k : Fin 65536) (hholds : s.holds k.val { sata := [0x92] } = true) :
    exec (.downloadMicrocode k) s = .next (s.passOn k.val) := by
  show execDownloadMicrocode k s = _
  simp [execDownloadMicrocode, hholds, State.hostCmd]

theorem modeSense_reads_page (s : State) (k : Fin 65536) (page : Nat)
    (hreaches : s.tenantReaches k.val { sas := [0x5A] } false) (hpage : page ≠ 8) :
    exec (.modeSense k page) s
      = .next (s.finishData k.val [spGetD 0 (s.hp (s.ctx k.val).origin).modePages page]) := by
  show execModeSense k page s = _
  rw [execModeSense, reservedCmd_of_reaches hreaches, if_neg hpage, ok]

theorem modeSense_caching (s : State) (k : Fin 65536) (hreaches : s.tenantReaches k.val { sas := [0x5A] } false) :
    exec (.modeSense k 8) s = .next (s.finishData k.val [0]) := by
  show execModeSense k 8 s = _
  rw [execModeSense, reservedCmd_of_reaches hreaches, if_pos rfl, ok]

theorem modeSelect_stores (s : State) (k : Fin 65536) (page data : Nat)
    (hreaches : s.tenantReaches k.val { sas := [0x55] } true) (hpage : page ≠ 8) :
    Completes (.modeSelect k page data) s fun t =>
      spGetD 0 (t.hp (s.ctx k.val).origin).modePages page = data ∧ (t.ctx k.val).status = 0 ∧ SameRegs s t := by
  refine completes_of_next (t := (s.setHp (s.ctx k.val).origin { s.hp (s.ctx k.val).origin with
    modePages := spSet 0 (s.hp (s.ctx k.val).origin).modePages page data }).finish k.val 0)
    ?_ ⟨by simp, by simp, by simp⟩
  show execModeSelect k page data s = _
  rw [execModeSelect, reservedCmd_of_reaches hreaches]
  dsimp only
  rw [if_neg (by simp [hpage]), ok]

theorem modeSelect_caching_refused (s : State) (k : Fin 65536) (data : Nat)
    (hreaches : s.tenantReaches k.val { sas := [0x55] } true) (hdata : data ≠ 0) :
    exec (.modeSelect k 8 data) s = .next (s.finish k.val (stSense 5 0x26 0)) := by
  show execModeSelect k 8 data s = _
  rw [execModeSelect, reservedCmd_of_reaches hreaches]
  dsimp only
  rw [if_pos (by simp [hdata]), ok]

theorem logSense_answers (s : State) (k : Fin 65536) (page : Nat) (data : List Nat)
    (hholds : s.holds k.val { sas := [0x4D] } = true) (htenant : s.tenantOk (s.ctx k.val) = true) :
    exec (.logSense k page data) s = .next (s.finishData k.val (page :: data)) := by
  show execLogSense k page data s = _
  rw [execLogSense, tenantCmd_of_ok hholds htenant, ok]

theorem readLogExt_of_holds_page (s : State) (k : Fin 65536) (page : Nat) (data : List Nat)
    (hholds : s.holds k.val { sata := [0x2F, 0x47] } = true) (hpage : page ≠ 0x10) :
    exec (.readLogExt k page data) s = .next (s.finishData k.val (page :: data)) := by
  show execReadLogExt k page data s = _
  simp [execReadLogExt, hholds, hpage, State.hostCmd]

theorem readLogExt_of_holds (s : State) (k : Fin 65536) (data : List Nat)
    (hholds : s.holds k.val { sata := [0x2F, 0x47] } = true) :
    exec (.readLogExt k 0x10 data) s = .next (s.finishData k.val [0x10, (s.hp (s.ctx k.val).origin).sense]) := by
  show execReadLogExt k 0x10 data s = _
  simp [execReadLogExt, hholds, State.hostCmd]

theorem persistentReserveIn_answers (s : State) (k : Fin 65536)
    (hholds : s.holds k.val { sas := [0x5E], nvme := [0x0E] } = true) (htenant : s.tenantOk (s.ctx k.val) = true) :
    exec (.persistentReserveIn k) s
      = .next (s.finishData k.val ([((s.reservation (s.ctx k.val).tenant).holder.map (· + 1)).getD 0,
          (s.reservation (s.ctx k.val).tenant).kind] ++
            (s.reservation (s.ctx k.val).tenant).registrants.map Prod.snd)) := by
  show execPersistentReserveIn k s = _
  rw [execPersistentReserveIn, tenantCmd_of_ok hholds htenant, ok]

theorem persistentReserveOut_accepted (s : State) (k : Fin 65536) (op : ResOp) (r : Reservation)
    (hholds : s.holds k.val { sas := [0x5F], nvme := [0x0D, 0x11, 0x15] } = true)
    (htenant : s.tenantOk (s.ctx k.val) = true)
    (happly : (s.reservation (s.ctx k.val).tenant).apply (s.ctxWho (s.ctx k.val)) op = some r) :
    Completes (.persistentReserveOut k op) s fun t =>
      t.reservation (s.ctx k.val).tenant = r ∧ (t.ctx k.val).status = 0 ∧ SameRegs s t := by
  refine completes_of_next (t := (s.setReservation (s.ctx k.val).tenant r).finish k.val 0)
    ?_ ⟨spGetD_set_self _ _ _ _, by rw [ctx_finish_same], (sameRegs_finish _ _ _ _).mpr (sameRegs_of_eq rfl rfl)⟩
  show execPersistentReserveOut k op s = _
  rw [execPersistentReserveOut, tenantCmd_of_ok hholds htenant]
  dsimp only
  rw [happly, ok]

theorem persistentReserveOut_conflict (s : State) (k : Fin 65536) (op : ResOp)
    (hholds : s.holds k.val { sas := [0x5F], nvme := [0x0D, 0x11, 0x15] } = true)
    (htenant : s.tenantOk (s.ctx k.val) = true)
    (happly : (s.reservation (s.ctx k.val).tenant).apply (s.ctxWho (s.ctx k.val)) op = none) :
    exec (.persistentReserveOut k op) s = .next (s.finish k.val (stConflict (s.ctx k.val).proto)) := by
  show execPersistentReserveOut k op s = _
  rw [execPersistentReserveOut, tenantCmd_of_ok hholds htenant]
  dsimp only
  rw [happly, ok]

theorem setFeatures_stores (s : State) (k : Fin 65536) (f v : Nat) (hholds : s.holds k.val { sata := [0xEF] } = true)
    (hfeature : f ≠ 2) :
    Completes (.setFeatures k f v) s fun t =>
      spGetD 0 (t.hp (s.ctx k.val).origin).features f = v ∧ (t.ctx k.val).status = 0 ∧ SameRegs s t := by
  refine completes_of_next (t := (s.setHp (s.ctx k.val).origin { s.hp (s.ctx k.val).origin with
    features := spInsert (spErase (s.hp (s.ctx k.val).origin).features f) f v }).finish k.val 0)
    ?_ ⟨by simp [spGetD_insert_erase], by simp, by simp⟩
  show execSetFeatures k f v s = _
  rw [execSetFeatures, hostCmd_of_holds hholds]
  dsimp only
  rw [if_neg hfeature, ok]

/-- Settles O39: each command acts on its group or is passed on to firmware. -/
theorem administrationActs : Obligations.AdministrationActs :=
  ⟨nvmeIdentify_namespace, nvmeIdentify_controller, nvmeIdentify_other, nvmeGetLogPage_of_holds,
    namespaceManagement_sets_capacity, namespaceAttachment_passed_on, firmwareImageDownload_of_holds,
    firmwareCommit_of_holds, passOn_shows, createIoQueue_completion, createIoQueue_submission,
    nvmeDeleteIoQueue_submission, nvmeAbort_of_holds_findCmd_j, nvmeAbort_of_holds_findCmd, nvmeSetFeatures_stores,
    nvmeGetFeatures_reads, nvmeAsyncEventRequest_queued, readCapacity_reads_shadow, reportLuns_of_holds,
    testUnitReady_finishes, requestSense_of_tenant, requestSense_of_no_tenant, startStopUnit_passed_on,
    writeBuffer_passed_on, readBuffer_passed_on, downloadMicrocode_of_holds, modeSense_reads_page,
    modeSense_caching, modeSelect_stores, modeSelect_caching_refused, logSense_answers, readLogExt_of_holds_page,
    readLogExt_of_holds, persistentReserveIn_answers, persistentReserveOut_accepted, persistentReserveOut_conflict,
    setFeatures_stores⟩

end Sys2Proof.Machine
end
section
/-!
The object commands (R112 to R118).
-/

namespace Sys2Proof.Machine
section Objects
variable {s : State} {k n : Nat} {write : Bool} {o : Obj} {st : Nat}

theorem objCmd_of_reaches (h : s.commandReaches k (opObj n) write) (hview : s.objView (s.ctx k).tenant = true)
    (hfields : s.badFields k n = false) (f : State → State) : s.objCmd k n write f = f s := by
  rw [State.objCmd, mediaCmd_of_reaches h]
  dsimp only
  rw [if_neg (by simp [hview]), if_neg (by simp [hfields])]

theorem withObj_of_reaches (h : s.objectReaches k n write o) (f : State → Obj →
    State) : s.withObj k n write f = f s o := by
  obtain ⟨hreaches, hview, hfields, hresume, hobj⟩ := h
  rw [State.withObj, objCmd_of_reaches hreaches hview hfields, if_neg (by cases write <;> simp_all), hobj]

theorem execObjClose_of_not_waiting {k : Fin 65536} (h : s.waitsClose k.val = none) :
    execObjClose k s = ok (s.withObj k.val 0x08 true fun t o => t.closeCmd k.val o) := by
  unfold execObjClose
  rw [h, ite_self]

theorem closeCmd_of_idle (hsealed : o.sealed = false) (hstream : o.stream
    = some st) (hafter : s.afterClose o k = false)
    (hclosing : (o.closing.any fun q => decide (q.1 ≠ k)) = false) (hbusy : s.streamBusy st = false) :
    s.closeCmd k o = s.closeObj k st o := by
  rw [State.closeCmd, if_neg (by simp [hsealed]), hstream]
  dsimp only
  rw [if_neg (by simp [hafter]), if_neg (by simpa using hclosing), if_neg (by simp [hbusy])]

/-- Finishing a command brings no object back. -/
theorem finish_noObject {t id : Nat} (h : ∀ x ∈ s.cmd.objects, ¬ (x.tenant = t ∧ x.id = id)) (k st : Nat) :
    ∀ x ∈ (s.finish k st).cmd.objects, ¬ (x.tenant = t ∧ x.id = id) := by
  intro x hx
  simp only [State.finish, State.dropClosing, List.mem_map] at hx
  obtain ⟨y, hy, rfl⟩ := hx
  have hkeep := h y hy
  split <;> exact hkeep

end Objects
theorem objCreate_opens_stream (s : State) (k : Fin 65536) (cl : Nat)
    (hreaches : s.commandReaches k.val (opObj 0) true) (hview : s.objView (s.ctx k.val).tenant = true)
    (hfields : s.badFields k.val 0 = false) (hfresh : s.objOf (s.ctx k.val) = none)
    (hroom : s.cmd.objects.length < 2 ^ 34)
    (hclass : cl = (if bitAt (s.work k.val).flg 3 then s.rf (R.WAY_TEN_CFG ((s.ctx k.val).tenant - 1))
        F.WAY_TEN_CFG_CLASS else (s.work k.val).flg % 8))
    (hclassOk : s.classOk cl = true) (hmayTake : s.fwMayTake = true) :
    exec (.objCreate k) s
      = .next ({ (s.takeStream (s.ctx k.val).tenant).2 with
          cmd := { (s.takeStream (s.ctx k.val).tenant).2.cmd with
            objects := { tenant := (s.ctx k.val).tenant, id := (s.ctx k.val).target, cls := cl,
                         stream := some (s.takeStream (s.ctx k.val).tenant).1, created := s.crn.minutes } ::
              (s.takeStream (s.ctx k.val).tenant).2.cmd.objects } }.finish k.val 0) := by
  subst hclass
  show execObjCreate k s = _
  rw [execObjCreate, objCmd_of_reaches hreaches hview hfields]
  dsimp only
  rw [if_neg (by simp [hfresh]), if_neg (by omega), if_neg (by simp [hclassOk]), if_neg (by simp [hmayTake]), ok]

theorem objCreate_of_existing (s : State) (k : Fin 65536) (o : Obj) (hreaches : s.commandReaches k.val (opObj 0) true)
    (hview : s.objView (s.ctx k.val).tenant = true) (hfields : s.badFields k.val 0 = false)
    (hexists : s.objOf (s.ctx k.val) = some o) :
    exec (.objCreate k) s = .next (s.finish k.val (stObject (s.ctx k.val).proto 1)) := by
  show execObjCreate k s = _
  rw [execObjCreate, objCmd_of_reaches hreaches hview hfields]
  dsimp only
  rw [if_pos (by simp [hexists]), ok]

theorem objWrite_admits (s : State) (k slot : Fin 65536) (o : Obj) (st data : Nat)
    (hreaches : s.objectReaches k.val 0x01 true o) (hsealed : o.sealed = false) (hstream : o.stream = some st)
    (hclose : s.afterClose o k.val = false) (hrange : (s.ctx k.val).granOfs + (s.ctx k.val).granCnt ≤ 2 ^ 32) :
    exec (.objWrite k slot data) s = .next (s.admitWrite k.val o.cls st slot.val data) := by
  show execObjWrite k slot data s = _
  rw [execObjWrite, withObj_of_reaches hreaches]
  dsimp only
  rw [if_neg (by simp [hsealed]), hstream]
  dsimp only
  rw [if_neg (by simp [hclose]), if_neg (by omega), ok]

theorem objWrite_of_sealed (s : State) (k slot : Fin 65536) (o : Obj) (data : Nat)
    (hreaches : s.objectReaches k.val 0x01 true o) (hsealed : o.sealed = true) :
    exec (.objWrite k slot data) s = .next (s.finish k.val (stObject (s.ctx k.val).proto 2)) := by
  show execObjWrite k slot data s = _
  rw [execObjWrite, withObj_of_reaches hreaches]
  dsimp only
  rw [if_pos hsealed, ok]

theorem objRead_reads_range (s : State) (k slot : Fin 65536) (o : Obj) (hit : Bool)
    (hreaches : s.objectReaches k.val 0x02 false o) (hrange : (s.ctx k.val).granOfs + (s.ctx k.val).granCnt ≤ 2 ^ 32)
    (hlen : (s.ctx k.val).granOfs + (s.ctx k.val).granCnt ≤ ceilDiv o.len 4096) :
    exec (.objRead k slot hit) s = .next (s.readRange k.val slot.val hit) := by
  show execObjRead k slot hit s = _
  rw [execObjRead, withObj_of_reaches hreaches]
  dsimp only
  rw [if_neg (by simp; omega), ok]

theorem objOpen_takes_stream (s : State) (k : Fin 65536) (o : Obj) (hreaches : s.objectReaches k.val 0x04 true o)
    (hsealed : o.sealed = false) (hstream : o.stream = none) (hmayTake : s.fwMayTake = true) :
    exec (.objOpen k) s
      = .next (((s.takeStream (s.ctx k.val).tenant).2.setObj
          { o with stream := some (s.takeStream (s.ctx k.val).tenant).1 }).finish k.val 0) := by
  show execObjOpen k s = _
  rw [execObjOpen, withObj_of_reaches hreaches]
  dsimp only
  rw [if_neg (by simp [hsealed]), if_neg (by simp [hstream]), if_neg (by simp [hmayTake]), ok]

theorem objGetAttr_answers (s : State) (k : Fin 65536) (o : Obj) (hreaches : s.objectReaches k.val 0x06 false o) :
    exec (.objGetAttr k) s = .next (s.finishData k.val [s.attrPage (s.ctx k.val).proto o]) := by
  show execObjGetAttr k s = _
  rw [execObjGetAttr, withObj_of_reaches hreaches, ok]

theorem objClose_of_idle_stream (s : State) (k : Fin 65536) (o : Obj) (st : Nat)
    (hreaches : s.objectReaches k.val 0x08 true o) (hsealed : o.sealed = false) (hstream : o.stream = some st)
    (hafter : s.afterClose o k.val = false) (hclosing : (o.closing.any fun q => q.1 ≠ k.val) = false)
    (hwaits : s.waitsClose k.val = none) (hbusy : s.streamBusy st = false)
    (hmax : (s.work k.val).p1 * 2 ^ 32 + (s.ctx k.val).granOfs ≤ 2 ^ 44)
    (hhigh : (s.work k.val).p1 * 2 ^ 32 + (s.ctx k.val).granOfs ≤ 4096 * o.high) :
    exec (.objClose k) s
      = .next ((((s.release o.tenant fun q => q.kind = 1 && q.id = o.id &&
            ceilDiv ((s.work k.val).p1 * 2 ^ 32 + (s.ctx k.val).granOfs) 4096 ≤ q.offset).setObj
          { o with length := (s.work k.val).p1 * 2 ^ 32 + (s.ctx k.val).granOfs, stream := none, closing := none,
                   sealed := bitAt (s.work k.val).flg 5,
                   high := min o.high (ceilDiv ((s.work k.val).p1 * 2 ^ 32 + (s.ctx k.val).granOfs) 4096),
                   cut := cutAt o.cut ((s.work k.val).p1 * 2 ^ 32 + (s.ctx k.val).granOfs) }).freeCtxAt
            st).finish k.val 0) := by
  show execObjClose k s = _
  rw [execObjClose_of_not_waiting hwaits, withObj_of_reaches hreaches,
      closeCmd_of_idle hsealed hstream hafter hclosing hbusy,
    State.closeObj]
  dsimp only
  rw [if_neg (by simp; omega), ok]

theorem objClose_of_busy_stream (s : State) (k : Fin 65536) (o : Obj) (st : Nat)
    (hreaches : s.objectReaches k.val 0x08 true o) (hsealed : o.sealed = false) (hstream : o.stream = some st)
    (hafter : s.afterClose o k.val = false) (hclosing : o.closing = none) (hwaits : s.waitsClose k.val = none)
    (hbusy : s.streamBusy st = true) :
    exec (.objClose k) s = .next (s.setObj { o with closing := some (k.val, s.fresh) }) := by
  show execObjClose k s = _
  rw [execObjClose_of_not_waiting hwaits, withObj_of_reaches hreaches, State.closeCmd,
    if_neg (by simp [hsealed]), hstream]
  dsimp only
  rw [if_neg (by simp [hafter]), if_neg (by simp [hclosing]), if_pos hbusy, if_neg (by simp [hclosing]), ok]

theorem objClose_resumes (s : State) (k : Fin 65536) (o : Obj) (st : Nat) (hopen : s.isOpen k.val = true)
    (hmode : s.mode ≠ mHaven) (hwaits : s.waitsClose k.val = some o) (hsealed : o.sealed = false)
    (hstream : o.stream = some st) (hafter : s.afterClose o k.val = false)
    (hclosing : (o.closing.any fun q => q.1 ≠ k.val) = false) (hbusy : s.streamBusy st = false) :
    exec (.objClose k) s = .next (s.closeObj k.val st o) := by
  show execObjClose k s = _
  rw [execObjClose, if_pos (by simp [hopen, hmode]), hwaits]
  dsimp only
  rw [closeCmd_of_idle hsealed hstream hafter hclosing hbusy, ok]

theorem objDelete_removes (s : State) (k : Fin 65536) (o : Obj) (hreaches : s.objectReaches k.val 0x0C true o)
    (hstream : o.stream = none) :
    Completes (.objDelete k) s fun t =>
      (t.ctx k.val).status = 0 ∧ ∀ x ∈ t.cmd.objects, ¬ (x.tenant = o.tenant ∧ x.id = o.id) := by
  refine ⟨_, by
    show execObjDelete k s = _
    rw [execObjDelete, withObj_of_reaches hreaches, if_neg (by simp [hstream]), ok], by rw [ctx_finish_same], ?_⟩
  exact finish_noObject (fun x hx => by
    rintro ⟨htenant, hid⟩
    simp [htenant, hid] at hx) k.val 0

theorem objList_of_bad_count (s : State) (k : Fin 65536) (hreaches : s.commandReaches k.val (opObj 0x0E) false)
    (hview : s.objView (s.ctx k.val).tenant = true)
    (hcount : ((s.ctx k.val).granCnt = 0 ∨ 255 < (s.ctx k.val).granCnt)) :
    exec (.objList k) s = .next (s.finish k.val (stInvalidField (s.ctx k.val).proto)) := by
  have hfields : s.badFields k.val 0x0E = true := by
    simp only [State.badFields, Bool.or_eq_true, Bool.and_eq_true, decide_eq_true_eq]
    tauto
  show execObjList k s = _
  rw [execObjList, State.objCmd, mediaCmd_of_reaches hreaches]
  dsimp only
  rw [if_neg (by simp [hview]), if_pos hfields, ok]

theorem objList_of_no_objects (s : State) (k : Fin 65536) (hreaches : s.commandReaches k.val (opObj 0x0E) false)
    (hview : s.objView (s.ctx k.val).tenant = true) (hfields : s.badFields k.val 0x0E = false)
    (hnone : s.cmd.objects = []) :
    exec (.objList k) s = .next (s.finishData k.val [pageOf (s.ctx k.val).proto [(4, 0), (4, 0), (8, 0)]]) := by
  show execObjList k s = _
  rw [execObjList, objCmd_of_reaches hreaches hview hfields]
  simp [hnone, sortIds, ok]

theorem objSetClass_sets (s : State) (k : Fin 65536) (o : Obj) (hreaches : s.objectReaches k.val 0x10 true o)
    (hclass : s.classOk ((s.work k.val).flg % 8) = true) :
    exec (.objSetClass k) s = .next ((s.setObj { o with cls := (s.work k.val).flg % 8 }).finish k.val 0) := by
  show execObjSetClass k s = _
  rw [execObjSetClass, withObj_of_reaches hreaches]
  dsimp only
  rw [if_neg (by simp [hclass]), ok]

theorem objVerify_of_good_media (s : State) (k : Fin 65536) (o : Obj) (n : Nat)
    (hreaches : s.objectReaches k.val 0x14 false o) (hmode : s.mode ≠ mHaven) (hlost : s.way.lost = []) :
    exec (.objVerify k n false) s = .next (s.finishData k.val [n]) := by
  show execObjVerify k n false s = _
  rw [execObjVerify, withObj_of_reaches hreaches]
  dsimp only
  rw [if_neg hmode, if_neg (by simp [hlost]), ok]

theorem objVerify_of_lost (s : State) (k : Fin 65536) (o : Obj) (n : Nat)
    (hreaches : s.objectReaches k.val 0x14 false o) (hmode : s.mode ≠ mHaven) :
    exec (.objVerify k n true) s = .next (s.finish k.val (stObject (s.ctx k.val).proto 0xB)) := by
  show execObjVerify k n true s = _
  rw [execObjVerify, withObj_of_reaches hreaches]
  dsimp only
  rw [if_neg hmode, if_pos (by simp), ok]

/-- Settles O40: an object command acts by the state of its object. -/
theorem objectCommandsAct : Obligations.ObjectCommandsAct :=
  ⟨objCreate_opens_stream, objCreate_of_existing, objWrite_admits, objWrite_of_sealed, objRead_reads_range,
    objOpen_takes_stream, objGetAttr_answers, objClose_of_idle_stream, objClose_of_busy_stream, objClose_resumes,
    objDelete_removes, objList_of_bad_count, objList_of_no_objects, objSetClass_sets, objVerify_of_good_media,
    objVerify_of_lost⟩

end Sys2Proof.Machine
end
section
/-!
The sideband (R119 to R131).
-/

namespace Sys2Proof.Machine
section Sideband
variable {s : State}

theorem sbWrite_of_takes {p : Pec} (h : s.sidebandTakes p) (n : Nat) (f : State → State) :
    s.sbWrite n n p false f = (f s).sbAnswer true [] := by
  obtain ⟨hready, hnack, hpec⟩ := h
  simp [State.sbWrite, hready, hnack, hpec]

/-- A write that is to be refused only answers. -/
theorem sbWrite_of_nack (s : State) (count want : Nat) (p : Pec) (f : State → State) :
    ∃ ack, s.sbWrite count want p true f = s.sbAnswer ack [] := by
  unfold State.sbWrite
  simp only [Bool.true_and, Bool.true_or, ite_true]
  split_ifs
  · exact ⟨_, rfl⟩
  · exact ⟨_, rfl⟩
  · exact ⟨_, rfl⟩
  · exact ⟨_, rfl⟩

theorem sbRead_of_open (hready : s.ready .sideband = true) (hnack : s.sbWriteNack = false) (f : State → State) :
    s.sbRead f = f s := by
  simp [State.sbRead, hready, hnack]

theorem cccRead_of_i3c (hready : s.ready .sideband = true) (hmode : s.i3cMode = true) (f : State → State) :
    s.cccRead f = f s := by
  simp [State.cccRead, hready, hmode]

theorem i3cAssign_shows (s : State) (a : Fin 128) :
    ((s.i3cAssign a.val).sbAnswer true []).i3cMode = true ∧
      ((s.i3cAssign a.val).sbAnswer true []).rf R.SYS_SB_STATUS F.SYS_SB_STATUS_DYN_ADDR = a.val ∧
      ((s.i3cAssign a.val).sbAnswer true []).rf R.SYS_SB_STATUS F.SYS_SB_STATUS_HJ = 2 ∧
      OnlyRegs [R.SYS_SB_STATUS] s ((s.i3cAssign a.val).sbAnswer true []) := by
  have ha : a.val % 128 = a.val := Nat.mod_eq_of_lt a.isLt
  simp [State.sbAnswer, State.i3cAssign, State.i3cMode, ha]

end Sideband
theorem sbSetPointer_sets (s : State) (p : Pec) (v : Nat) (htakes : s.sidebandTakes p) (haligned : v % 4 = 0) :
    exec (.sbSetPointer 4 v p) s = .next ((s.setPointer v).sbAnswer true []) := by
  have hnack : decide (v % 4 ≠ 0) = false := by simp [haligned]
  show execSbSetPointer 4 v p s = _
  rw [execSbSetPointer, hnack, sbWrite_of_takes htakes, ok]

theorem sbSetPointer_misaligned (s : State) (p : Pec) (v : Nat) (_htakes : s.sidebandTakes p) (haligned : v % 4 ≠ 0) :
    Completes (.sbSetPointer 4 v p) s fun t => t.sb.pointer = s.sb.pointer ∧ SameRegs s t := by
  have hnack : decide (v % 4 ≠ 0) = true := by simp [haligned]
  show ∃ t, execSbSetPointer 4 v p s = .next t ∧ _
  obtain ⟨ack, hanswer⟩ := sbWrite_of_nack s 4 4 p fun t => t.setPointer v
  rw [execSbSetPointer, hnack, hanswer, ok]
  exact ⟨_, rfl, rfl, by simp [State.sbAnswer]⟩

theorem sbRead_reads (s : State) (hready : s.ready .sideband = true) (hnack : s.sbWriteNack = false) :
    exec .sbRead s
      = .next (((s.towRead .sideband .machine 32 s.sb.pointer).setPointer (s.sb.pointer + 4)).sbAnswer true
          (bytesLow (s.towRead .sideband .machine 32 s.sb.pointer).resp.toNat 4)) := by
  show execSbRead s = _
  rw [execSbRead, sbRead_of_open hready hnack, ok]

theorem sbWrite_writes (s : State) (p : Pec) (v : Word) (htakes : s.sidebandTakes p) (hroom : s.sbTxFull = false) :
    exec (.sbWrite 4 v p) s
      = .next (((s.towWrite .sideband .machine 32 s.sb.pointer v).setPointer (s.sb.pointer + 4)).sbAnswer true
          []) := by
  show execSbWrite 4 v p s = _
  rw [execSbWrite, hroom, sbWrite_of_takes htakes, ok]

theorem sbMailboxSend_pushes (s : State) (p : Pec) (v : Word) (m : Nat) (htakes : s.sidebandTakes p)
    (hroom : s.sbFull = false) (hbox : s.sbBox = some m) :
    exec (.sbMailboxSend 4 v p) s
      = .next ((s.writeMpoTx .sideband m 1 v).sbAnswer true []) := by
  show execSbMailboxSend 4 v p s = _
  rw [execSbMailboxSend, ite_self, hroom, sbWrite_of_takes htakes, hbox, ok]

theorem sbMailboxReceive_takes (s : State) (m x : Nat) (l : List Nat) (hready : s.ready .sideband = true)
    (hnack : s.sbWriteNack = false) (hbox : s.sbBox = some m) (husable : s.mboxUsable m = true)
    (hinbound : s.inbound m 1 = x :: l) :
    exec .sbMailboxReceive s = .next ((s.setInbound m 1 l).sbAnswer true ((l.length + 1) :: bytesLow x 4)) := by
  show execSbMailboxReceive s = _
  rw [execSbMailboxReceive, sbRead_of_open hready hnack, hbox]
  dsimp only
  rw [if_pos husable, hinbound, ok]
  rfl

theorem sbDeviceReset_enabled (s : State) (p : Pec) (htakes : s.sidebandTakes p)
    (henabled : s.flag R.SYS_SB_CFG F.SYS_SB_CFG_RESET_EN = true) :
    exec (.sbDeviceReset 3 0x015AA5 p) s = .next ((s.flushFirst .sideband).sbAnswer true []) := by
  show execSbDeviceReset 3 0x015AA5 p s = _
  rw [execSbDeviceReset, sbWrite_of_takes htakes, if_pos (by simp [henabled]), ok]

theorem sbDeviceReset_disabled (s : State) (p : Pec) (htakes : s.sidebandTakes p)
    (hdisabled : s.flag R.SYS_SB_CFG F.SYS_SB_CFG_RESET_EN = false) :
    exec (.sbDeviceReset 3 0x015AA5 p) s = .next (s.sbAnswer true []) := by
  show execSbDeviceReset 3 0x015AA5 p s = _
  rw [execSbDeviceReset, sbWrite_of_takes htakes, if_neg (by simp [hdisabled]), ok]

theorem sbUnknownCode_true_of_not_sbWriteNack (s : State) (code : Nat) (hready : s.ready .sideband = true)
    (hsbWriteNack : s.sbWriteNack = false) :
    exec (.sbUnknownCode code true) s = .next (s.sbAnswer true [0, 0, 0, 0]) := by
  show execSbUnknownCode code true s = _
  simp [execSbUnknownCode, hready, hsbWriteNack, State.sbRead]

theorem smbusClockTimeout_of_not_i3cMode (s : State) (hi3cMode : s.i3cMode = false) :
    exec .smbusClockTimeout s = .next (s.sbAnswer false []) := by
  show execSmbusClockTimeout s = _
  simp [execSmbusClockTimeout, hi3cMode]

theorem i3cEntdaa_assigns (s : State) (a : Fin 128) (hready : s.ready .sideband = true) (hmode : s.i3cMode = false) :
    Completes (.i3cEntdaa a) s fun t =>
      t.i3cMode = true ∧ t.rf R.SYS_SB_STATUS F.SYS_SB_STATUS_DYN_ADDR = a.val ∧
        t.rf R.SYS_SB_STATUS F.SYS_SB_STATUS_HJ = 2 ∧ OnlyRegs [R.SYS_SB_STATUS] s t := by
  refine completes_of_next (t := (s.i3cAssign a.val).sbAnswer true []) ?_ (i3cAssign_shows s a)
  show execI3cEntdaa a s = _
  rw [execI3cEntdaa, if_pos (by simp [hready, hmode]), ok]

theorem i3cSetdasa_assigns (s : State) (x a : Fin 128) (hready : s.ready .sideband = true) (hmode : s.i3cMode = false)
    (hstatic : x.val = fget (s.regValue R.SYS_SB_STATUS) F.SYS_SB_STATUS_STATIC_ADDR) :
    Completes (.i3cSetdasa x a) s fun t =>
      t.i3cMode = true ∧ t.rf R.SYS_SB_STATUS F.SYS_SB_STATUS_DYN_ADDR = a.val ∧ OnlyRegs [R.SYS_SB_STATUS] s t := by
  obtain ⟨hi3c, haddr, -, hregs⟩ := i3cAssign_shows s a
  refine completes_of_next (t := (s.i3cAssign a.val).sbAnswer true []) ?_ ⟨hi3c, haddr, hregs⟩
  show execI3cSetdasa x a s = _
  rw [execI3cSetdasa, if_pos (by simp [hready, hmode, hstatic]), ok]

theorem i3cRstdaa_clears (s : State) (hready : s.ready .sideband = true) (hmode : s.i3cMode = true) :
    Completes .i3cRstdaa s fun t =>
      t.i3cMode = false ∧ t.rf R.SYS_SB_STATUS F.SYS_SB_STATUS_DYN_ADDR = 0 ∧ OnlyRegs [R.SYS_SB_STATUS] s t := by
  show ∃ t, execI3cRstdaa s = .next t ∧ _
  rw [execI3cRstdaa, if_pos (by simp [hready, hmode])]
  refine ⟨_, rfl, ?_⟩
  simp -implicitDefEqProofs [State.sbAnswer, State.i3cMode]

theorem i3cEnec_enables (s : State) (hready : s.ready .sideband = true) :
    Completes (.i3cEnec true true) s fun t =>
        t.sb.hjAllowed = true ∧ t.sb.ibiAllowed = true ∧ OnlyRegs [R.SYS_SB_STATUS] s t := by
  show ∃ t, execI3cEnec true true s = .next t ∧ _
  rw [execI3cEnec, if_pos hready]
  refine ⟨_, rfl, ?_⟩
  dsimp only
  split <;> simp [State.sbAnswer]

theorem i3cDisec_disables (s : State) (hready : s.ready .sideband = true) :
    Completes (.i3cDisec true true) s fun t =>
      t.sb.hjAllowed = false ∧ t.sb.ibiAllowed = false ∧ OnlyRegs [R.SYS_SB_STATUS] s t := by
  show ∃ t, execI3cDisec true true s = .next t ∧ _
  rw [execI3cDisec, if_pos hready]
  refine ⟨_, rfl, ?_⟩
  dsimp only
  split <;> simp [State.sbAnswer]

theorem i3cGetpid_of_i3cMode (s : State) (hready : s.ready .sideband = true) (hi3cMode : s.i3cMode = true) :
    exec .i3cGetpid s
      = .next (s.sbAnswer true
          (bytesHigh ((s.regValue R.SYS_SB_PID_LO).toNat + 2 ^ 32 * ((s.regValue R.SYS_SB_PID_HI).toNat % 2 ^
              16)) 6)) := by
  show execI3cGetpid s = _
  simp [execI3cGetpid, hready, hi3cMode, State.cccRead]

theorem i3cGetbcr_of_i3cMode (s : State) (hready : s.ready .sideband = true) (hi3cMode : s.i3cMode = true) :
    exec .i3cGetbcr s = .next (s.sbAnswer true [0x02]) := by
  show execI3cGetbcr s = _
  simp [execI3cGetbcr, hready, hi3cMode, State.cccRead]

theorem i3cGetdcr_of_i3cMode (s : State) (hready : s.ready .sideband = true) (hi3cMode : s.i3cMode = true) :
    exec .i3cGetdcr s = .next (s.sbAnswer true [0x00]) := by
  show execI3cGetdcr s = _
  simp [execI3cGetdcr, hready, hi3cMode, State.cccRead]

theorem i3cStatus_codes_answered (s : State) (x : Bool) (hready : s.ready .sideband = true) (hmode : s.i3cMode = true)
    :
    ∀ c ∈ [Instr.i3cGetstatus, .i3cGetmwlGetmrl x],
      Completes c s fun t => (∃ a b : Nat, t.out = .sideband true [a, b] :: s.out) ∧ SameRegs s t := by
  intro c hc
  fin_cases hc
  · show ∃ t, execI3cGetstatus s = .next t ∧ _
    rw [execI3cGetstatus, cccRead_of_i3c hready hmode, ok]
    exact ⟨_, rfl, ⟨_, _, rfl⟩, sameRegs_of_eq rfl rfl⟩
  · show ∃ t, execI3cGetmwlGetmrl x s = .next t ∧ _
    rw [execI3cGetmwlGetmrl, cccRead_of_i3c hready hmode, ok]
    exact ⟨_, rfl, ⟨_, _, rfl⟩, sameRegs_of_eq rfl rfl⟩

theorem hotJoinAttempt_counts (s : State) (hjoins : s.hotJoins = true) :
    Completes .hotJoinAttempt s fun t =>
      t.sb.attempts = s.sb.attempts + 1 ∧ t.out = .i3c 0 :: s.out ∧
        t.rf R.SYS_SB_STATUS F.SYS_SB_STATUS_HJ = (if s.sb.attempts + 1 = 64 then 3 else 1) ∧
            OnlyRegs [R.SYS_SB_STATUS] s t := by
  show ∃ t, execHotJoinAttempt s = .next t ∧ _
  rw [execHotJoinAttempt, if_pos hjoins]
  refine ⟨_, rfl, rfl, rfl, ?_, ?_⟩
  · by_cases hlast : s.sb.attempts + 1 = 64 <;> simp -implicitDefEqProofs [hlast]
  · simp

/-- Settles O41: a transaction that matches acts, and I3C changes its own status only. -/
theorem sidebandRuns : Obligations.SidebandRuns :=
  ⟨sbSetPointer_sets, sbSetPointer_misaligned, sbRead_reads, sbWrite_writes, sbMailboxSend_pushes,
    sbMailboxReceive_takes, sbDeviceReset_enabled, sbDeviceReset_disabled, sbUnknownCode_true_of_not_sbWriteNack,
    smbusClockTimeout_of_not_i3cMode, i3cEntdaa_assigns, i3cSetdasa_assigns, i3cRstdaa_clears, i3cEnec_enables,
    i3cDisec_disables, i3cGetpid_of_i3cMode, i3cGetbcr_of_i3cMode, i3cGetdcr_of_i3cMode, i3cStatus_codes_answered,
    hotJoinAttempt_counts⟩

end Sys2Proof.Machine
end
section
/-!
Waymark: placement, the surveys, its start and the units (R132 to R181).
-/

namespace Sys2Proof.Machine
/-- The state with the survey days of the classes taken over, which a schedule works on (R160). -/
def State.withDays (s : State) : State := { s with way := { s.way with days := (List.range 8).map s.surveyDays } }

theorem surveyMode_withDays (s : State) : s.withDays.surveyMode = s.surveyMode := (rfl)

theorem ready_withDays (s : State) (r : Ready) : s.withDays.ready r = s.ready r := (rfl)

theorem headIn_withDays (s : State) (b : Nat) : s.withDays.headIn (s.withDays.bandSurf b)
    = s.headIn (s.bandSurf b) := (rfl)

theorem mem_insertDue (e x : Nat × Nat) (l : List (Nat × Nat)) : x ∈ insertDue e l ↔ x = e ∨ x ∈ l := by
  induction l with
  | nil => simp [insertDue]
  | cons y l ih =>
    unfold insertDue
    split
    · simp
    · simp only [List.mem_cons, ih]
      tauto

theorem mem_sortDue (x : Nat × Nat) (l : List (Nat × Nat)) : x ∈ sortDue l ↔ x ∈ l := by
  induction l with
  | nil => simp [sortDue]
  | cons y l ih => rw [sortDue, mem_insertDue, ih, List.mem_cons]

/-- Sorting by the due time keeps the bands. -/
theorem mem_sortDue_bands {l : List (Nat × Band)} (p : Nat × Band → Bool) (due : Band → Nat) (b : Nat) :
    b ∈ (sortDue ((l.filter p).map fun q => (q.1, due q.2))).map Prod.fst ↔ ∃ x, (b, x) ∈ l ∧ p (b, x) = true := by
  simp only [List.mem_map, mem_sortDue, List.mem_filter]
  constructor
  · rintro ⟨-, ⟨⟨b, x⟩, hx, rfl⟩, rfl⟩
    exact ⟨x, hx⟩
  · rintro ⟨x, hx⟩
    exact ⟨_, ⟨(b, x), hx, rfl⟩, rfl⟩

/-- The bands that a schedule lists, the earliest due first. -/
def State.dueSurveys (s : State) : List Nat :=
  (sortDue (((s.dueBands 1440).filter fun q => s.headIn (s.bandSurf q.1)).map fun q => (q.1,
      s.dueAt q.2 1440))).map Prod.fst

theorem execSurveySchedule_eq (s : State) :
    execSurveySchedule s =
      if (s.withDays.surveyMode && s.withDays.ready .waymark) = true then
        ok { s.withDays with way := { s.withDays.way with surveys := s.withDays.dueSurveys } }
      else ok { s.withDays with way := { s.withDays.way with surveys := [] } } := (rfl)

theorem mem_dueSurveys (s : State) (b : Nat) :
    b ∈ s.withDays.dueSurveys ↔ s.headIn (s.bandSurf b) = true ∧ ∃ x, (b, x) ∈ s.withDays.dueBands 1440 := by
  have hhead : ∀ c, s.withDays.headIn (s.withDays.bandSurf c) = s.headIn (s.bandSurf c) := headIn_withDays s
  unfold State.dueSurveys
  rw [mem_sortDue_bands (fun q => s.withDays.headIn (s.withDays.bandSurf q.1)) (fun x => s.withDays.dueAt x 1440)]
  simp only [hhead]
  tauto

/-! ### What the start of Waymark leaves of the READY bits -/

theorem ready_of_rd {s t : State} (h : t.rd R.SYS_READY = s.rd R.SYS_READY) (r : Ready) : t.ready r = s.ready r := by
  exact flag_congr h _

section Load
variable (s : State)

theorem rdReady_wr (v : Word) {o : Nat} (h : R.SYS_READY < o) : (s.wr o v).rd R.SYS_READY = s.rd R.SYS_READY :=
  rd_wr_ne s v (Nat.ne_of_lt h)

theorem rdReady_wf (f : Fld) (v : Nat) {o : Nat} (h : R.SYS_READY < o) : (s.wf o f v).rd R.SYS_READY
    = s.rd R.SYS_READY :=
  rdReady_wr s _ h

theorem rdReady_overdraft (t : Nat) : (s.overdraft t).rd R.SYS_READY = s.rd R.SYS_READY := by
  have hstatus : R.SYS_READY < R.WAY_TEN_STATUS (t - 1) := by unfold R.SYS_READY R.WAY_TEN_STATUS; omega
  have hevt : R.SYS_READY < R.WAY_OVER_EVT ((t - 1) / 32) := by unfold R.SYS_READY R.WAY_OVER_EVT; omega
  unfold State.overdraft
  dsimp only
  split_ifs
  · rfl
  · rw [rd_cairn _ _ _ _ _ (by decide) (by decide), State.orReg, rdReady_wr _ _ hevt, rdReady_wf _ _ _ hstatus]
  · rw [rdReady_wf _ _ _ hstatus]

theorem rdReady_setUse (t u : Nat) : (s.setUse t u).rd R.SYS_READY = s.rd R.SYS_READY := by
  have hlo : R.SYS_READY < R.WAY_TEN_USE_LO (t - 1) := by unfold R.SYS_READY R.WAY_TEN_USE_LO; omega
  have hhi : R.SYS_READY < R.WAY_TEN_USE_HI (t - 1) := by unfold R.SYS_READY R.WAY_TEN_USE_HI; omega
  rw [State.setUse, rdReady_overdraft, State.putUse, rdReady_wf _ _ _ hhi, rdReady_wr _ _ hlo]

theorem ready_lt_unitState (n : Nat) : R.SYS_READY < R.WAY_UNIT_STATE n := by
  unfold R.SYS_READY R.WAY_UNIT_STATE
  omega

theorem ready_lt_class (n : Nat) : R.SYS_READY < R.WAY_CLASS n := by
  unfold R.SYS_READY R.WAY_CLASS
  omega

theorem ready_lt_tenCfg (n : Nat) : R.SYS_READY < R.WAY_TEN_CFG n := by
  unfold R.SYS_READY R.WAY_TEN_CFG
  omega

theorem ready_lt_allowLo (n : Nat) : R.SYS_READY < R.WAY_TEN_ALLOW_LO n := by
  unfold R.SYS_READY R.WAY_TEN_ALLOW_LO
  omega

theorem ready_lt_allowHi (n : Nat) : R.SYS_READY < R.WAY_TEN_ALLOW_HI n := by
  unfold R.SYS_READY R.WAY_TEN_ALLOW_HI
  omega

theorem rd_setAllow (cmd : CmdState) (o : Nat) : ({ s with cmd := cmd } : State).rd o = s.rd o := (rfl)

theorem rdReady_loadConfig (c : Ckpt) : (s.loadConfig c).rd R.SYS_READY = s.rd R.SYS_READY := by
  unfold State.loadConfig
  dsimp only
  rw [foldl_keeps (fun t => t.rd R.SYS_READY) _ fun t q => ?_,
      foldl_keeps (fun t => t.rd R.SYS_READY) _ fun t q => ?_,
    foldl_keeps (fun t => t.rd R.SYS_READY) _ fun t q => ?_]
  · exact rdReady_wr t _ (ready_lt_unitState _)
  · exact rdReady_wr t _ (ready_lt_class _)
  · rw [rdReady_setUse, rd_setAllow, rdReady_wf _ _ _ (ready_lt_allowHi _), rdReady_wr _ _ (ready_lt_allowLo _),
      rdReady_wr _ _ (ready_lt_tenCfg _)]

theorem rdReady_loadTables (c : Ckpt) : (s.loadTables c).rd R.SYS_READY = s.rd R.SYS_READY := by
  unfold State.loadTables
  dsimp only
  rw [rdReady_wf _ _ _ (by decide), rdReady_loadConfig]
  rfl

theorem rdReady_restoreUnits : s.restoreUnits.rd R.SYS_READY = s.rd R.SYS_READY := by
  unfold State.restoreUnits
  split
  · exact foldl_keeps (fun t => t.rd R.SYS_READY) _ (fun t q => rdReady_wr t _ (ready_lt_unitState _)) _ s
  · rfl

theorem rdReady_strand (surfs : List Nat) : (s.strand surfs).rd R.SYS_READY = s.rd R.SYS_READY := by
  unfold State.strand
  dsimp only
  refine (foldl_keeps (fun t => t.rd R.SYS_READY) _ (fun t q => ?_) _ _).trans ?_
  · rfl
  · rfl

theorem rdReady_loadLists : s.loadLists.rd R.SYS_READY = s.rd R.SYS_READY := by
  unfold State.loadLists
  refine foldl_keeps (fun t => t.rd R.SYS_READY) _ (fun t x => ?_) _ s
  split
  · unfold State.loadList
    split
    · rfl
    · split <;> rfl
  · rfl

@[simp] theorem rd_capWatch (old : State) (o : Nat) : (s.capWatch old).rd o = s.rd o := by
  unfold State.capWatch State.sigEvent
  split_ifs <;> rfl

@[simp] theorem way_capWatch (old : State) : (s.capWatch old).way = s.way := by
  unfold State.capWatch State.sigEvent
  split_ifs <;> rfl

/-- With no checkpoint unreadable, the newest one that is named is taken (R172). -/
theorem takeWhile_nothing_bad (l : List Ckpt) : (l.takeWhile fun c => ([] : List Nat).contains c.seq).length = 0 := by
  cases l <;> simp [List.takeWhile]

/-- The state with the tables of the newest good checkpoint, or of none. -/
def State.tablesOf (s : State) (good : List Ckpt) : State :=
  match good with
  | c :: _ => (s.loadTables c).restoreUnits
  | [] => s.restoreUnits

theorem tablesOf_keeps (good : List Ckpt) :
    (s.tablesOf good).rd R.SYS_READY = s.rd R.SYS_READY ∧ (s.tablesOf good).mem = s.mem := by
  cases good with
  | nil => exact ⟨rdReady_restoreUnits s, (State.restoreUnits_kept s).2.2⟩
  | cons c good =>
    refine ⟨(rdReady_restoreUnits _).trans (rdReady_loadTables s c), ?_⟩
    exact (State.restoreUnits_kept _).2.2.trans (State.loadTables_kept s c).2.2

end Load
theorem writePlacement_places (s : State) (k : Fin 65536) (hstate : (s.ctx k.val).state ∈ [cMedia, cStaged])
    (hgranules : 0 < (s.ctx k.val).granCnt) (hready : s.ready .waymark = true)
    (hkept : (s.work k.val).discarded = false) :
    exec (.writePlacement k) s = .next ((s.placeWrite k.val).capWatch s) := by
  have hstate' : (s.ctx k.val).state = cMedia ∨ (s.ctx k.val).state = cStaged := by simpa using hstate
  show execWritePlacement k s = _
  rw [execWritePlacement, if_pos (by simp [hstate', hgranules, hready, hkept]), ok]

theorem rowPadTimeout_of_group_row_parityRows (s : State) (n row : Nat) (g : Group) (hgroup : s.group n = some g)
    (hrow : row < g.rows) (hparityRows : g.parityRows ≤ row) (hredund : g.redund ≠ 0)
    (hdataBands : (∃ b ∈ g.dataBands, s.written b row = true)) :
    exec (.rowPadTimeout n row) s
      = .next ((g.dataBands.foldl (fun t b => t.padTo b row (row + 1)) s).settle) := by
  show execRowPadTimeout n row s = _
  simp [execRowPadTimeout, hgroup, hrow, hparityRows, hredund, hdataBands]

theorem cleanerSelect_of_group (s : State) (n : Nat) (g : Group) (hready : s.ready .waymark = true)
    (hmode : s.mode ≠ mHaven) (hcleanPick : s.cleanCopies.cleanPick s.cleanCopies.way.groups = some (n, g)) :
    exec .cleanerSelect s
      = .next (((s.cleanCopies.beginClean n g).cleanCopies.rebuildMissing.placeWaiting.retryCkpt).capWatch s) := by
  show execCleanerSelect s = _
  simp [execCleanerSelect, hready, hmode, hcleanPick]

theorem cleanerSelect_of_no_group (s : State) (hready : s.ready .waymark = true) (hmode : s.mode ≠ mHaven)
    (hcleanPick : s.cleanCopies.cleanPick s.cleanCopies.way.groups = none) :
    exec .cleanerSelect s = .next ((s.cleanCopies.rebuildMissing.placeWaiting.retryCkpt).capWatch s) := by
  show execCleanerSelect s = _
  simp [execCleanerSelect, hready, hmode, hcleanPick]

theorem surveySchedule_outside_survey_modes (s : State) (hmode : s.surveyMode = false) :
    Completes .surveySchedule s fun t => t.way.surveys = [] ∧ SameRegs s t := by
  refine completes_of_next (t := { s.withDays with way := { s.withDays.way with surveys := [] } }) ?_
    ⟨rfl, sameRegs_of_eq rfl rfl⟩
  show execSurveySchedule s = _
  rw [execSurveySchedule_eq, surveyMode_withDays, hmode, Bool.false_and, if_neg (by decide), ok]

theorem surveySchedule_lists_due (s : State) (hmode : s.surveyMode = true) (hready : s.ready .waymark = true) :
    Completes .surveySchedule s fun t =>
      t.way.days = (List.range 8).map s.surveyDays ∧
        (∀ b, b ∈ t.way.surveys ↔ s.headIn (s.bandSurf b) = true ∧ ∃ x, (b, x) ∈ t.dueBands 1440) ∧ SameRegs s t := by
  refine completes_of_next (t := { s.withDays with way := { s.withDays.way with surveys := s.withDays.dueSurveys } }) ?_
    ⟨rfl, fun b => mem_dueSurveys s b, sameRegs_of_eq rfl rfl⟩
  show execSurveySchedule s = _
  rw [execSurveySchedule_eq, surveyMode_withDays, hmode, ready_withDays, hready, if_pos (by decide), ok]

theorem surveyBandDone_of_surveys_found (s : State) (b : Nat) (hsurveys : b ∈ s.way.surveys)
    (hfound : s.way.found = []) :
    Completes (.surveyBandDone b []) s fun t =>
      t.way.surveys = s.way.surveys.filter (· ≠ b) ∧ (t.band b).last = s.crn.minutes ∧ (t.band b).surveyed = true ∧
        SameRegs s t := by
  show ∃ t, execSurveyBandDone b [] s = .next t ∧ _
  simp [execSurveyBandDone, hsurveys, hfound, State.band, State.bandPsa, State.surveySector, State.surveyStuck,
    State.bandOfPsa, State.setBand, ok]

theorem wakeMaxExpiry_of_mode_phase (s : State) (hmode : s.mode = mDormant)
    (hphase : s.rf R.SYS_MODE F.SYS_MODE_PHASE = 1) :
    Completes .wakeMaxExpiry s fun t => t.way.surveys = [] ∧ t.way.wakeOver = true ∧ SameRegs s t := by
  show ∃ t, execWakeMaxExpiry s = .next t ∧ _
  simp [execWakeMaxExpiry, hmode, hphase, ok]

theorem checkpointTimerExpiry_next (s : State) (hready : s.ready .waymark = true) :
    exec .checkpointTimerExpiry s = .next s.startCkpt := by
  show execCheckpointTimerExpiry s = _
  simp [execCheckpointTimerExpiry, hready]

theorem checkpointBandCount_of_bands (s : State) (hready : s.ready .waymark = true)
    (hbands : s.rf R.WAY_CKPT_CTL F.WAY_CKPT_CTL_CKPT_BANDS ≤ s.way.opened) :
    exec .checkpointBandCount s = .next s.startCkpt := by
  show execCheckpointBandCount s = _
  simp [execCheckpointBandCount, hready, hbands]

theorem checkpointGo_of_go (s : State) (i : Initiator) (v : Word) (hpair : isPair i = true)
    (hgo : fget v F.WAY_CKPT_CTL_GO = 1) (hready : (s.writeFields R.WAY_CKPT_CTL v).ready .waymark = true) :
    exec (.checkpointGo i v) s
      = .next { s.writeFields R.WAY_CKPT_CTL v with
          way := { (s.writeFields R.WAY_CKPT_CTL v).way with
            goNext := (s.writeFields R.WAY_CKPT_CTL v).way.ckptRun.isSome } }.startCkpt := by
  show execCheckpointGo i v s = _
  simp [execCheckpointGo, hpair, hgo, hready, State.writeCkptCtl]

theorem checkpointComplete_next (s : State) : exec .checkpointComplete s = .next s.completeCkpt := by
  show execCheckpointComplete s = _
  simp [execCheckpointComplete]

theorem touchstoneCopyWritten_of_touchAt_x_mode (s : State) (x : Fin 32) (n : Nat)
    (htouchAt : s.touchAt (x.val / 8) = some n) (hx : n / 2 = x.val) (hmode : s.mode ≠ mHaven)
    (htouchDone : (s.touchDone n).mode ≠ mBedding) : exec (.touchstoneCopyWritten x) s = .next (s.touchDone n) := by
  show execTouchstoneCopyWritten x s = _
  simp [execTouchstoneCopyWritten, htouchAt, hx, hmode, htouchDone]

theorem waymarkLoad_of_readable_map (s : State) (k : Kenul) (hready : s.ready .waymark = false)
    (hloaded : s.way.loaded = false) (hbedrock : s.ready .bedrock = true) (hkenul : s.kenul = some k)
    (hreadable : s.mapReadable = true) :
    Completes (.waymarkLoad []) s fun t =>
      t.way.loaded = true ∧ t.way.replayed = false ∧ t.ready .waymark = false ∧ ∀ a, t.byte a = s.byte a := by
  obtain ⟨hready', hmem⟩ := tablesOf_keeps s (s.namedCkpts.dropWhile fun c => ([] : List Nat).contains c.seq)
  show ∃ t, execWaymarkLoad [] s = .next t ∧ _
  rw [execWaymarkLoad, if_neg (by simp [hready, hloaded, hbedrock, hkenul, hreadable])]
  dsimp only
  rw [takeWhile_nothing_bad]
  refine ⟨_, rfl, ?_, ?_, ?_, fun a => ?_⟩
  · rw [way_capWatch]
    rfl
  · rw [way_capWatch]
    rfl
  · refine (ready_of_rd ?_ .waymark).trans hready
    rw [rd_capWatch]
    exact (rdReady_loadLists _).trans ((rdReady_strand _ _).trans hready')
  · refine byte_congr ?_ a
    rw [(State.capWatch_kept _ _).2.2]
    exact (State.loadLists_kept _).2.2.trans ((State.strand_kept _ _).2.2.trans hmem)

theorem waymarkReplayDone_continues (s : State) (hloaded : s.way.loaded = true) (hreadable : s.mapReadable = true) :
    exec .waymarkReplayDone s
      = .next (if ((((({ s.replay with
              way := { s.replay.way with replayed := true }
                  }.ensureLanding.rebuildMissing).touchMismatch).resumeUnit.capWatch
            s).mode = mBedding) ∧
          ((({ s.replay with
              way := { s.replay.way with replayed := true }
                  }.ensureLanding.rebuildMissing).touchMismatch).resumeUnit.capWatch
            s).way.touchQ ≠ [])
        then ((({ s.replay with
              way := { s.replay.way with replayed := true }
                  }.ensureLanding.rebuildMissing).touchMismatch).resumeUnit.capWatch s)
        else ((({ s.replay with
              way := { s.replay.way with replayed := true }
                  }.ensureLanding.rebuildMissing).touchMismatch).resumeUnit.capWatch
            s).waymarkUp) := by
  show execWaymarkReplayDone s = _
  rw [execWaymarkReplayDone, if_pos (by simp [hloaded, hreadable])]
  generalize s.replay = r
  simp only [Bool.and_eq_true, decide_eq_true_eq, ok]
  split
  · rfl
  · rfl

/-- Settles O42: each step of the work on the media has the effect its rule says. -/
theorem waymarkWorks : Obligations.WaymarkWorks :=
  ⟨writePlacement_places, rowPadTimeout_of_group_row_parityRows, cleanerSelect_of_group,
    cleanerSelect_of_no_group, surveySchedule_outside_survey_modes, surveySchedule_lists_due,
    surveyBandDone_of_surveys_found, wakeMaxExpiry_of_mode_phase, checkpointTimerExpiry_next,
    checkpointBandCount_of_bands, checkpointGo_of_go, checkpointComplete_next,
    touchstoneCopyWritten_of_touchAt_x_mode, waymarkLoad_of_readable_map, waymarkReplayDone_continues⟩

theorem writeUnitCmd_of_op {s : State} {i : Initiator} {v : Word} (hpair : isPair i = true)
    (hop : fget v F.WAY_UNIT_CMD_OP = 1 ∨ fget v F.WAY_UNIT_CMD_OP = 2) :
    s.writeUnitCmd i v = s.unitCommand (fget v F.WAY_UNIT_CMD_OP) (fget v F.WAY_UNIT_CMD_KIND)
      (fget v F.WAY_UNIT_CMD_UNIT) (fget v F.WAY_UNIT_CMD_FORCE = 1) := by
  rw [State.writeUnitCmd]
  exact if_neg (by rcases hop with h | h <;> simp [hpair, h])

section Commands
variable {s : State} {kind unit : Nat} (hbusy : s.flag R.WAY_UNIT_STAT F.WAY_UNIT_STAT_BUSY = false)
  (hexists : s.unitExists kind unit = true)
include hbusy hexists

theorem unitCommand_takeOut {forced : Bool} (hin : s.unitState kind unit = uIn) (hkind : kind ≠ 0)
    (hroom : forced = true ∨ s.unitRoom kind unit = true) :
    s.unitCommand 1 kind unit forced = (s.unitResult 1 kind unit forced 0).drainBegin kind unit forced := by
  unfold State.unitCommand
  rw [if_neg (by simp [hbusy]), if_neg (by simp [hexists]), if_pos rfl, if_neg (by simp [hin, hkind]),
    if_neg (by rcases hroom with h | h <;> simp [h])]
  exact if_neg hkind

theorem unitCommand_bringIn (hout : s.unitState kind unit = uOut) (forced : Bool) :
    s.unitCommand 2 kind unit forced =
      { ((s.unitResult 2 kind unit forced 0).setUnit kind unit uCal).raise R.WAY_UNIT_STAT F.WAY_UNIT_STAT_BUSY with
        way := { (((s.unitResult 2 kind unit forced 0).setUnit kind unit uCal).raise R.WAY_UNIT_STAT
          F.WAY_UNIT_STAT_BUSY).way with unitOp := some { bringIn := true, forced := false, kind, unit } } } := by
  unfold State.unitCommand
  rw [if_neg (by simp [hbusy]), if_neg (by simp [hexists]), if_neg (by decide), if_neg (by simp [hout])]

end Commands

theorem drainStep_first {s : State} (o : UnitOp) (h : s.rf R.WAY_UNIT_STAT F.WAY_UNIT_STAT_STEP = 1) :
    s.drainStep o = s.wf R.WAY_UNIT_STAT F.WAY_UNIT_STAT_STEP 2 := by
  unfold State.drainStep
  simp only [h]
theorem unitTakeOut_begins_drain (s : State) (i : Initiator) (v : Word) (hpair : isPair i = true)
    (hop : fget v F.WAY_UNIT_CMD_OP = 1) (hforce : fget v F.WAY_UNIT_CMD_FORCE = 0)
    (hkind : fget v F.WAY_UNIT_CMD_KIND ≠ 0) (hbusy : s.flag R.WAY_UNIT_STAT F.WAY_UNIT_STAT_BUSY = false)
    (hexists : s.unitExists (fget v F.WAY_UNIT_CMD_KIND) (fget v F.WAY_UNIT_CMD_UNIT) = true)
    (hin : s.unitState (fget v F.WAY_UNIT_CMD_KIND) (fget v F.WAY_UNIT_CMD_UNIT) = uIn)
    (hroom : s.unitRoom (fget v F.WAY_UNIT_CMD_KIND) (fget v F.WAY_UNIT_CMD_UNIT) = true) :
    exec (.unitTakeOut i v) s
      = .next ((s.unitResult 1 (fget v F.WAY_UNIT_CMD_KIND) (fget v F.WAY_UNIT_CMD_UNIT) false 0).drainBegin
          (fget v F.WAY_UNIT_CMD_KIND) (fget v F.WAY_UNIT_CMD_UNIT) false) := by
  show execUnitTakeOut i v s = _
  rw [execUnitTakeOut, if_pos (by simp [hop, hforce]), writeUnitCmd_of_op hpair (Or.inl hop), hop, hforce,
    unitCommand_takeOut hbusy hexists hin hkind (Or.inr hroom), ok]
  rfl

theorem unitForcedTakeOut_begins_drain (s : State) (i : Initiator) (v : Word) (hpair : isPair i = true)
    (hop : fget v F.WAY_UNIT_CMD_OP = 1) (hforce : fget v F.WAY_UNIT_CMD_FORCE = 1)
    (hkind : fget v F.WAY_UNIT_CMD_KIND ≠ 0) (hbusy : s.flag R.WAY_UNIT_STAT F.WAY_UNIT_STAT_BUSY = false)
    (hexists : s.unitExists (fget v F.WAY_UNIT_CMD_KIND) (fget v F.WAY_UNIT_CMD_UNIT) = true)
    (hin : s.unitState (fget v F.WAY_UNIT_CMD_KIND) (fget v F.WAY_UNIT_CMD_UNIT) = uIn) :
    exec (.unitForcedTakeOut i v) s
      = .next ((s.unitResult 1 (fget v F.WAY_UNIT_CMD_KIND) (fget v F.WAY_UNIT_CMD_UNIT) true 0).drainBegin
          (fget v F.WAY_UNIT_CMD_KIND) (fget v F.WAY_UNIT_CMD_UNIT) true) := by
  show execUnitForcedTakeOut i v s = _
  rw [execUnitForcedTakeOut, if_pos (by simp [hop, hforce]), writeUnitCmd_of_op hpair (Or.inl hop),
    hop, hforce, unitCommand_takeOut hbusy hexists hin hkind (Or.inl (by decide)), ok]
  rfl

theorem unitBringIn_begins_calibration (s : State) (i : Initiator) (v : Word) (hpair : isPair i = true)
    (hop : fget v F.WAY_UNIT_CMD_OP = 2) (hbusy : s.flag R.WAY_UNIT_STAT F.WAY_UNIT_STAT_BUSY = false)
    (hexists : s.unitExists (fget v F.WAY_UNIT_CMD_KIND) (fget v F.WAY_UNIT_CMD_UNIT) = true)
    (hout : s.unitState (fget v F.WAY_UNIT_CMD_KIND) (fget v F.WAY_UNIT_CMD_UNIT) = uOut) :
    exec (.unitBringIn i v) s
      = .next { ((s.unitResult 2 (fget v F.WAY_UNIT_CMD_KIND) (fget v F.WAY_UNIT_CMD_UNIT)
            (fget v F.WAY_UNIT_CMD_FORCE = 1) 0).setUnit (fget v F.WAY_UNIT_CMD_KIND) (fget v F.WAY_UNIT_CMD_UNIT)
              uCal).raise R.WAY_UNIT_STAT F.WAY_UNIT_STAT_BUSY with
          way := { (((s.unitResult 2 (fget v F.WAY_UNIT_CMD_KIND) (fget v F.WAY_UNIT_CMD_UNIT)
            (fget v F.WAY_UNIT_CMD_FORCE = 1) 0).setUnit (fget v F.WAY_UNIT_CMD_KIND) (fget v F.WAY_UNIT_CMD_UNIT)
              uCal).raise R.WAY_UNIT_STAT F.WAY_UNIT_STAT_BUSY).way with
            unitOp := some { bringIn := true, forced := false, kind := fget v F.WAY_UNIT_CMD_KIND,
                             unit := fget v F.WAY_UNIT_CMD_UNIT } } } := by
  show execUnitBringIn i v s = _
  rw [execUnitBringIn, if_pos hop, writeUnitCmd_of_op hpair (Or.inr hop), hop,
    unitCommand_bringIn hbusy hexists hout, ok]

theorem unitBringIn_while_busy (s : State) (i : Initiator) (v : Word) (hpair : isPair i = true)
    (hop : fget v F.WAY_UNIT_CMD_OP = 2) (hbusy : s.flag R.WAY_UNIT_STAT F.WAY_UNIT_STAT_BUSY = true) :
    exec (.unitBringIn i v) s
      = .next (s.unitResult 2 (fget v F.WAY_UNIT_CMD_KIND) (fget v F.WAY_UNIT_CMD_UNIT)
          (fget v F.WAY_UNIT_CMD_FORCE = 1) 1) := by
  show execUnitBringIn i v s = _
  rw [execUnitBringIn, if_pos hop, writeUnitCmd_of_op hpair (Or.inr hop), State.unitCommand, if_pos hbusy, hop, ok]

theorem drainStepDone_of_unitOp_not_bringIn_kind (s : State) (o : UnitOp) (hunitOp : s.way.unitOp = some o)
    (hbringIn : o.bringIn = false) (hkind : o.kind = 0) (hmode : s.mode ≠ mHaven)
    (hdrainHeld : s.way.drainHeld = false) :
    exec .drainStepDone s = .next ((s.setUnit 0 o.unit uOut).setLdReady o.unit false).unitEnd := by
  show execDrainStepDone s = _
  simp [execDrainStepDone, hunitOp, hbringIn, hkind, hmode, hdrainHeld]

theorem drainStepDone_first_step (s : State) (o : UnitOp) (hop : s.way.unitOp = some o) (hdrain : o.bringIn = false)
    (hkind : o.kind ≠ 0) (hmode : s.mode ≠ mHaven) (hheld : s.way.drainHeld = false)
    (hstep : s.rf R.WAY_UNIT_STAT F.WAY_UNIT_STAT_STEP = 1) :
    Completes .drainStepDone s fun t =>
      t.rf R.WAY_UNIT_STAT F.WAY_UNIT_STAT_STEP = 2 ∧ t.way.unitOp = some o ∧ OnlyRegs [R.WAY_UNIT_STAT] s t := by
  refine completes_of_next (t := s.wf R.WAY_UNIT_STAT F.WAY_UNIT_STAT_STEP 2) ?_ ⟨by simp, by simpa using hop,
      by simp⟩
  show execDrainStepDone s = _
  rw [execDrainStepDone, hop]
  dsimp only
  rw [if_neg (by simp [hdrain, hmode, hheld]), if_neg hkind, drainStep_first o hstep, ok]

theorem drainStepDone_of_unitOp_not_bringIn_mode (s : State) (o : UnitOp) (hunitOp : s.way.unitOp = some o)
    (hbringIn : o.bringIn = false) (hmode : s.mode = mHaven) : exec .drainStepDone s = .next s := by
  show execDrainStepDone s = _
  simp [execDrainStepDone, hunitOp, hbringIn, hmode]

theorem unitCalibrationResult_true_of_unitOp_bringIn_kind (s : State) (o : UnitOp) (hunitOp : s.way.unitOp = some o)
    (hbringIn : o.bringIn = true) (hkind : o.kind = 0) :
    exec (.unitCalibrationResult true) s
      = .next (((((s.setUnit 0 o.unit uIn).setLdReady o.unit
          true).ensureLanding.rebuildMissing).unitEnd.capWatch s).refreshMedia) := by
  show execUnitCalibrationResult true s = _
  simp [execUnitCalibrationResult, hunitOp, hbringIn, hkind]

theorem unitCalibrationResult_failed_unit (s : State) (o : UnitOp) (hunitOp : s.way.unitOp = some o)
    (hbringIn : o.bringIn = true) (hkind : o.kind ≠ 2) :
    exec (.unitCalibrationResult false) s
      = .next ((s.setUnit o.kind o.unit uOut).unitResult 2 o.kind o.unit false 4).unitEnd := by
  show execUnitCalibrationResult false s = _
  simp [execUnitCalibrationResult, hunitOp, hbringIn, hkind]

theorem unitCalibrationResult_failed_actuator (s : State) (o : UnitOp)
    (hunitOp : s.way.unitOp = some o) (hbringIn : o.bringIn = true) (hkind : o.kind = 2) :
    exec (.unitCalibrationResult false) s
      = .next (((s.setUnit 2 o.unit uOut).unitResult 2 2 o.unit false 4).unloadAct o.unit ucOut).unitEnd := by
  show execUnitCalibrationResult false s = _
  simp [execUnitCalibrationResult, hunitOp, hbringIn, hkind]

/-- Settles O43: a unit comes and goes by the state that it stands in. -/
theorem unitsComeAndGo : Obligations.UnitsComeAndGo :=
  ⟨unitTakeOut_begins_drain, unitForcedTakeOut_begins_drain, unitBringIn_begins_calibration, unitBringIn_while_busy,
    drainStepDone_of_unitOp_not_bringIn_kind, drainStepDone_first_step, drainStepDone_of_unitOp_not_bringIn_mode,
    unitCalibrationResult_true_of_unitOp_bringIn_kind, unitCalibrationResult_failed_unit,
    unitCalibrationResult_failed_actuator⟩

end Sys2Proof.Machine
end
section
/-!
The slices, the write gates and the framing (R182 to R232).
-/

namespace Sys2Proof.Machine
/-- Writing back what a slice holds changes nothing. -/
theorem setSlice_self (s : State) (n : Nat) : s.setSlice n (s.slice n) = s := by
  have hslices : s.lode.slices.set n (s.slice n) = s.lode.slices := by
    refine List.ext_getElem? fun j => ?_
    rw [List.getElem?_set]
    split
    · next h =>
      subst h
      split
      · next hlt => simp [State.slice, hlt]
      · next hge => simp [List.getElem?_eq_none (Nat.le_of_not_lt hge)]
    · rfl
  rw [State.setSlice, hslices]
theorem adcCalComplete_of_ldAssigned (s : State) (n : Fin 8) (hldAssigned : s.ldAssigned n.val = true) :
    exec (.adcCalComplete n) s
      = .next ((s.raise (R.LD_STATUS n.val) F.LD_STATUS_ADC_CAL_DONE).setLdReady n.val true) := by
  show execAdcCalComplete n s = _
  simp [execAdcCalComplete, hldAssigned]

theorem adcCalComplete_of_kenul (s : State) (n : Fin 8) (hkenul : s.kenul = none) :
    Completes (.adcCalComplete n) s fun t =>
      t.flag (R.LD_STATUS n.val) F.LD_STATUS_ADC_CAL_DONE = true ∧ OnlyRegs [R.LD_STATUS n.val] s t := by
  show ∃ t, execAdcCalComplete n s = .next t ∧ _
  simp [execAdcCalComplete, hkenul, State.ldAssigned, ok]

theorem adcTrimOutOfRange_of_calibrated (s : State) (n : Fin 8) (hassigned : s.ldAssigned n.val = true)
    (hcal : s.flag (R.LD_CFG n.val) F.LD_CFG_ADC_CAL = true) :
    exec (.adcTrimOutOfRange n) s = .next (s.carry (32 + n.val) 2 false) := by
  show execAdcTrimOutOfRange n s = _
  rw [execAdcTrimOutOfRange, if_pos (by simp [hassigned, hcal]), State.report, ok]

theorem headZoneSelect_of_head_ldOpen_ldReady (s : State) (i : Initiator) (n : Fin 8) (v : Word) (z : Zone)
    (hhead : s.zone (8 * (s.sliceAct n.val).getD 0 + fget v F.LD_SEL_HEAD) (fget v F.LD_SEL_ZONE) = some z)
    (hldOpen : s.ldOpen i n.val = true) (hldReady : s.ldReady n.val = true)
    (hhead2 : fget v F.LD_SEL_HEAD < s.heads ((s.sliceAct n.val).getD 0))
    (hhead3 : s.rf (R.LD_SEL n.val) F.LD_SEL_HEAD = fget v F.LD_SEL_HEAD)
    (hzone : s.rf (R.LD_SEL n.val) F.LD_SEL_ZONE = fget v F.LD_SEL_ZONE) :
    exec (.headZoneSelect i n v) s
      = .next (((((s.writeFields (R.LD_SEL n.val) v).wr (R.LD_SEL_STAT n.val)
          (word (z.code * 2 ^ 16 + z.eq * 2 ^ 8 + (8 * (s.sliceAct n.val).getD 0 + fget v F.LD_SEL_HEAD)))).raise
            (R.LD_STATUS n.val) F.LD_STATUS_SEL_VALID).upset n.val).msRetune n.val) := by
  show execHeadZoneSelect i n v s = _
  simp [execHeadZoneSelect, hhead, hldOpen, hldReady, hhead2, hhead3, hzone, State.writeLdSel]

theorem sourceSelect_of_ldOpen_source_ldReady (s : State) (i : Initiator) (n : Fin 8) (v : Word)
    (hldOpen : s.ldOpen i n.val = true) (hsource : fget v F.LD_CFG_SOURCE < 2) (hldReady : s.ldReady n.val = true) :
    exec (.sourceSelect i n v) s
      = .next (((s.writeFields (R.LD_CFG n.val)
          (fset v F.LD_CFG_SOURCE (s.rf (R.LD_CFG n.val) F.LD_CFG_SOURCE))).setFrz n.val fzHold
            (fget v F.LD_CFG_HOLD = 1)).setSource n.val (fget v F.LD_CFG_SOURCE)) := by
  show execSourceSelect i n v s = _
  simp [execSourceSelect, hldOpen, hsource, hldReady, State.writeLdCfg]

theorem taEventStart_freezes (s : State) (n : Fin 8) (hlive : s.livePair n.val = true)
    (hinactive : s.flag (R.LD_TA_STAT n.val) F.LD_TA_STAT_ACTIVE = false) :
    exec (.taEventStart n) s
      = .next ((((s.raise (R.LD_EVT n.val) F.LD_EVT_TA).countUp (R.LD_TA_STAT n.val) F.LD_TA_STAT_COUNT 1).raise
          (R.LD_TA_STAT n.val) F.LD_TA_STAT_ACTIVE).setFrz n.val fzTa true) := by
  show execTaEventStart n s = _
  rw [execTaEventStart, if_pos hlive, State.taStart, if_neg (by simp [hinactive]), ok]

theorem taEventEnd_next (s : State) (n : Fin 8) :
    exec (.taEventEnd n) s = .next ((s.wf (R.LD_TA_STAT n.val) F.LD_TA_STAT_ACTIVE 0).setFrz n.val fzTa false) := by
  show execTaEventEnd n s = _
  simp [execTaEventEnd, State.taEnd]

theorem freezeAssert_of_ldAssigned (s : State) (n : Fin 8) (src : Fin 6) (b : Bool)
    (hldAssigned : s.ldAssigned n.val = true) :
    exec (.freezeAssert n src b) s = .next (s.setFrz n.val src.val (s.freezeCause n.val src.val b)) := by
  show execFreezeAssert n src b s = _
  simp [execFreezeAssert, hldAssigned]

theorem freezeTailExpiry_of_frzOn (s : State) (n : Fin 8) (hfrzOn : s.frzOn n.val = 0) :
    exec (.freezeTailExpiry n) s = .next (s.setSlice n.val { s.slice n.val with tail := 0, tailB := 0 }) := by
  show execFreezeTailExpiry n s = _
  simp [execFreezeTailExpiry, hfrzOn]

theorem freezeTailExpiry_while_frozen (s : State) (n : Fin 8) (hfrozen : s.frzOn n.val % 32 ≠ 0) :
    exec (.freezeTailExpiry n) s = .next s := by
  have hon : s.frzOn n.val ≠ 0 := fun h => hfrozen (by rw [h])
  show execFreezeTailExpiry n s = _
  rw [execFreezeTailExpiry, if_neg hon, if_neg hfrozen, setSlice_self, ok]

theorem clearanceResult_of_en_livePair_slice (s : State) (n : Fin 8)
    (hen : s.flag (R.LD_CLR_CTL n.val) F.LD_CLR_CTL_EN = true) (hlivePair : s.livePair n.val = true)
    (hslice : (s.slice n.val).clr = s.clrCount n.val) :
    exec (.clearanceResult n) s
      = .next (s.clearance n.val (ampField (s.slice n.val).clrSum.1 (s.slice n.val).clr)
          (ampField (s.slice n.val).clrSum.2 (s.slice n.val).clr)) := by
  show execClearanceResult n s = _
  simp [execClearanceResult, hen, hlivePair, hslice]

theorem sliceClock_of_replay (s : State) (n : Fin 8) (a b : List Int) (hready : s.ldReady n.val = true)
    (hpair : s.livePair n.val = false) (hring : s.inRing n.val = true) :
    exec (.sliceClock n a b) s
      = .next (((s.setSlice n.val { s.slice n.val with now := (s.slice n.val).now + 1 }).replayClock
          n.val).tailClock n.val) := by
  have hpair' : (s.setSlice n.val { s.slice n.val with now := (s.slice n.val).now + 1 }).livePair n.val
      = false := hpair
  have hring' : (s.setSlice n.val { s.slice n.val with now := (s.slice n.val).now + 1 }).inRing n.val = true := hring
  show execSliceClock n a b s = _
  rw [execSliceClock, if_pos hready, State.sliceClock]
  dsimp only
  rw [if_neg (by rw [hpair']; decide), if_pos hring', ok]

theorem sliceClock_of_live_pair (s t : State) (n : Fin 8) (a b : List Int) (hready : s.ldReady n.val = true)
    (hpair : s.livePair n.val = true) (hring : s.inRing n.val = false)
    (hnext : t = s.setSlice n.val { s.slice n.val with now := (s.slice n.val).now + 1 }) :
    exec (.sliceClock n a b) s
      = .next (((t.frontClock n.val a b).2.backClock n.val (t.frontClock n.val a b).1.1
          (t.frontClock n.val a b).1.2.1 (t.frontClock n.val a b).1.2.2).tailClock n.val) := by
  have hpair' : t.livePair n.val = true := by rw [hnext]; exact hpair
  have hring' : t.inRing n.val = false := by rw [hnext]; exact hring
  show execSliceClock n a b s = _
  rw [execSliceClock, if_pos hready, State.sliceClock, ← hnext]
  dsimp only
  rw [if_pos hpair', if_neg (by rw [hring']; decide), ok]

theorem writeChannelSelect_of_open_gate (s : State) (i : Initiator) (a : Fin 4) (v : Word)
    (_hchannel : s.actChannel i a.val = true) (hgate : s.gateOpen a.val = true) :
    exec (.writeChannelSelect i a v) s = .next s := by
  show execWriteChannelSelect i a v s = _
  rw [execWriteChannelSelect, State.writeWcSel]
  dsimp only
  split
  · rw [ok]
  · rw [if_pos (by simp [hgate]), ok]

theorem writeChannelSelect_of_head_actChannel_not_gateOpen
    (s : State) (i : Initiator) (a : Fin 4) (v : Word) (z : Zone)
    (_hhead : s.zone (8 * a.val + fget v F.ACT_WC_SEL_HEAD) (fget v F.ACT_WC_SEL_ZONE) = some z)
    (_hactChannel : s.actChannel i a.val = true) (_hhead2 : fget v F.ACT_WC_SEL_HEAD < s.heads a.val)
    (_hgateOpen : s.gateOpen a.val = false) : exec (.writeChannelSelect i a v) s = .next (s.writeWcSel i a.val v) := by
  show execWriteChannelSelect i a v s = _
  simp [execWriteChannelSelect]

theorem writeHeatRequest_raised (s : State) (i : Initiator) (a : Fin 4) (v : Word)
    (hactChannel : s.actChannel i a.val = true) (hreq : fget v F.ACT_WC_CTL_HEAT_REQ = 1) :
    exec (.writeHeatRequest i a v) s
      = .next (((s.writeFields (R.ACT_WC_CTL a.val) v).raiseHeat
          ((s.writeFields (R.ACT_WC_CTL a.val) v).wcHead a.val)).gateCheck a.val) := by
  show execWriteHeatRequest i a v s = _
  simp [execWriteHeatRequest, hactChannel, hreq, State.writeWcCtl]

theorem writeHeatRequest_dropped (s : State) (i : Initiator) (a : Fin 4) (v : Word)
    (hactChannel : s.actChannel i a.val = true) (hreq : fget v F.ACT_WC_CTL_HEAT_REQ = 0) :
    exec (.writeHeatRequest i a v) s = .next ((s.writeFields (R.ACT_WC_CTL a.val) v).gateCheck a.val) := by
  show execWriteHeatRequest i a v s = _
  simp [execWriteHeatRequest, hactChannel, hreq, State.writeWcCtl]

theorem gateRequest_of_not_gateOpen_actPresent_raiseHeat (s : State) (a : Fin 4)
    (hgateOpen : s.gateOpen a.val = false) (hactPresent : s.actPresent a.val = true)
    (hraiseHeat : (s.raiseHeat (s.wcHead a.val)).gateOk a.val = true)
    (hready : (s.raiseHeat (s.wcHead a.val)).flag (R.ACT_WC_STAT a.val) F.ACT_WC_STAT_HEAT_READY = true) :
    exec (.gateRequest a) s = .next ((s.raiseHeat (s.wcHead a.val)).openGate a.val) := by
  show execGateRequest a s = _
  simp [execGateRequest, hgateOpen, hactPresent, hraiseHeat, hready, State.requestGate]

theorem gateRequest_of_not_gateOpen_actPresent_not_raiseHeat (s : State) (a : Fin 4)
    (hgateOpen : s.gateOpen a.val = false) (hactPresent : s.actPresent a.val = true)
    (hraiseHeat : (s.raiseHeat (s.wcHead a.val)).gateOk a.val = false) :
    exec (.gateRequest a) s = .next ((s.raiseHeat (s.wcHead a.val)).refuseGate a.val false) := by
  show execGateRequest a s = _
  simp [execGateRequest, hgateOpen, hactPresent, hraiseHeat, State.requestGate]

theorem heatTimeout_of_wc (s : State) (a : Fin 4) (hwc : (s.wc a.val).waiting = true) :
    exec (.heatTimeout a) s = .next (s.refuseGate a.val true) := by
  show execHeatTimeout a s = _
  simp [execHeatTimeout, hwc]

theorem gateDrop_of_gateOpen (s : State) (a : Fin 4) (hgateOpen : s.gateOpen a.val = true) :
    exec (.gateDrop a) s = .next (s.closeGate a.val) := by
  show execGateDrop a s = _
  simp [execGateDrop, hgateOpen]

theorem gateConditionLost_of_gateOpen_not_gateOk_not_permit (s : State) (a : Fin 4)
    (hgateOpen : s.gateOpen a.val = true) (hgateOk : s.gateOk a.val = false)
    (hpermit : s.flag (R.ACT_WC_STAT a.val) F.ACT_WC_STAT_PERMIT = false) :
    exec (.gateConditionLost a) s
      = .next ((s.raise (R.ACT_WC_EVT a.val) F.ACT_WC_EVT_PERMIT_DROP).abandonGate a.val) := by
  show execGateConditionLost a s = _
  simp [execGateConditionLost, hgateOpen, hgateOk, hpermit, State.gateCheck]

theorem gateConditionLost_of_gateOk (s : State) (a : Fin 4) (hgateOk : s.gateOk a.val = true) :
    exec (.gateConditionLost a) s = .next s := by
  show execGateConditionLost a s = _
  simp [execGateConditionLost, hgateOk, State.gateCheck]

theorem writeUnderrun_of_gateOpen (s : State) (a : Fin 4) (hgateOpen : s.gateOpen a.val = true) :
    exec (.writeUnderrun a) s
      = .next (((s.raise (R.ACT_WC_EVT a.val) F.ACT_WC_EVT_UNDERRUN).countUp (R.ACT_WC_CNT a.val)
          F.ACT_WC_CNT_UNDERRUN
          1).abandonGate a.val) := by
  show execWriteUnderrun a s = _
  simp [execWriteUnderrun, hgateOpen]

/-- Settles O44: an event acts on its slice by the state that the slice stands in. -/
theorem slicesAndGatesRun : Obligations.SlicesAndGatesRun :=
  ⟨adcCalComplete_of_ldAssigned, adcCalComplete_of_kenul, adcTrimOutOfRange_of_calibrated,
    headZoneSelect_of_head_ldOpen_ldReady, sourceSelect_of_ldOpen_source_ldReady, taEventStart_freezes,
    taEventEnd_next, freezeAssert_of_ldAssigned, freezeTailExpiry_of_frzOn, freezeTailExpiry_while_frozen,
    clearanceResult_of_en_livePair_slice, sliceClock_of_replay, sliceClock_of_live_pair,
    writeChannelSelect_of_open_gate, writeChannelSelect_of_head_actChannel_not_gateOpen,
    writeHeatRequest_raised, writeHeatRequest_dropped,
    gateRequest_of_not_gateOpen_actPresent_raiseHeat, gateRequest_of_not_gateOpen_actPresent_not_raiseHeat,
    heatTimeout_of_wc, gateDrop_of_gateOpen, gateConditionLost_of_gateOpen_not_gateOk_not_permit,
    gateConditionLost_of_gateOk, writeUnderrun_of_gateOpen⟩

theorem milestoneReferenceSample_without_reference (s : State) (m : Fin 12) (clock : Int)
    (hpresent : s.msPresent m.val = true) (hlocked : s.msState m.val = msLocked)
    (htiming : (s.act (s.msAct m.val)).timing = none) :
    exec (.milestoneReferenceSample m clock) s = .next (s.msEnter m.val msHoldover) := by
  show execMilestoneReferenceSample m clock s = _
  rw [execMilestoneReferenceSample, if_pos hpresent, State.msSample, htiming]
  dsimp only [Option.map_none]
  rw [hlocked, if_neg (by decide), if_neg (by decide), if_pos rfl, if_pos rfl, ok]

theorem milestoneReferenceSample_within_bounds (s : State) (m : Fin 12) (clock r p : Int)
    (hpresent : s.msPresent m.val = true) (hlocked : s.msState m.val = msLocked)
    (htiming : (s.act (s.msAct m.val)).timing = some r)
    (hphase : p = r - clock + s.phaseOfs m.val + (s.ms m.val).fine)
    (hbound : p.natAbs ≤ s.rf (msCtl m.val) F.LD_MS_CTL_LOSS_TH) :
    exec (.milestoneReferenceSample m clock) s
        = .next (s.wf (msStat m.val) F.LD_MS_STAT_PHERR (bitsOf 8 (satTo 8 p))) := by
  subst hphase
  show execMilestoneReferenceSample m clock s = _
  rw [execMilestoneReferenceSample, if_pos hpresent, State.msSample, htiming]
  dsimp only [Option.map_some]
  rw [hlocked, if_neg (by decide), if_neg (by decide), if_pos rfl, if_neg (by simpa using hbound), ok]

theorem milestoneHoldoverExpiry_of_msState (s : State) (m : Fin 12) (hmsState : s.msState m.val = msHoldover) :
    exec (.milestoneHoldoverExpiry m) s = .next (s.msEnter m.val msAcquire) := by
  show execMilestoneHoldoverExpiry m s = _
  simp [execMilestoneHoldoverExpiry, hmsState]

theorem milestoneZoneChange_next (s : State) (m : Fin 12) :
    exec (.milestoneZoneChange m) s = .next (s.msRetune m.val) := by
  show execMilestoneZoneChange m s = _
  simp [execMilestoneZoneChange]

theorem framePos_of_skipped (s : State) (n : Fin 8) (track sector age : Nat)
    (hskipped : s.skipped (s.frameSurf n.val) track sector = true) :
    s.framePos n.val track sector age = s.giveFrame n.val track sector ⟨none, none, 0, fSkipped, 0⟩ {} := by
  rw [State.framePos, if_pos hskipped]

theorem sectorFramed_true_of_not_ts_ldReady_livePair (s : State) (n : Fin 8) (track sector age : Nat)
    (hts : s.flag (R.LD_FRM_CTL n.val) F.LD_FRM_CTL_TS = false) (hldReady : s.ldReady n.val = true)
    (hlivePair : s.livePair n.val = true) (hinRing : s.inRing n.val = false)
    (hsectorOut : s.sectorOut n.val sector age (s.frameWin n.val) = true) :
    exec (.sectorFramed n true track sector age) s
      = .next (((s.clrSector n.val sector age).takePlace n.val track sector age).framePos n.val track sector
          age) := by
  show execSectorFramed n true track sector age s = _
  simp [execSectorFramed, hts, hldReady, hlivePair, hinRing, hsectorOut]

theorem reframe_of_ldOpen_inRing_not_busy (s : State) (i : Initiator) (n : Fin 8) (v : Word)
    (hldOpen : s.ldOpen i n.val = true) (hinRing : s.inRing n.val = true)
    (hbusy : s.flag (R.LD_REFRAME_RES n.val) F.LD_REFRAME_RES_BUSY = false) (hbase : fget v F.LD_REFRAME_BASE ≠ 3)
    (hshift : signedOf 4 (fget v F.LD_REFRAME_SHIFT) ≠ -8) :
    exec (.reframe i n v) s
      = .next ((s.raise (R.LD_REFRAME_RES n.val) F.LD_REFRAME_RES_BUSY).setSlice n.val
          { s.slice n.val with
            reframe := some (fget v F.LD_REFRAME_SECTOR, fget v F.LD_REFRAME_BASE, fget v F.LD_REFRAME_RELAX = 1,
              signedOf 4 (fget v F.LD_REFRAME_SHIFT)) }) := by
  show execReframe i n v s = _
  simp [execReframe, hldOpen, hinRing, hbusy, hbase, hshift, State.writeReframe]

theorem reframeDone_frames_again (s : State) (n : Fin 8) (sector base v : Nat) (relax : Bool) (shift : Int)
    (hreframe : (s.slice n.val).reframe = some (sector, base, relax, shift)) (hring : s.inRing n.val = true)
    (hmark : s.replayMark n.val (fun a => a / 2 ^ 32 % 2 ^ 16 = sector) = some v) (hage : 0 ≤ s.replayAge n.val v)
    (hout : s.sectorOut n.val sector (s.replayAge n.val v).toNat 7 = true) :
    exec (.reframeDone n) s
      = .next (s.reframe n.val (markArg v % 2 ^ 32) sector (s.replayAge n.val v).toNat base relax shift) := by
  have hnat : ¬ s.replayAge n.val v < 0 := not_lt.mpr hage
  show execReframeDone n s = _
  rw [execReframeDone, State.reframeArrived, hreframe]
  dsimp only
  rw [if_neg (by simp [hring]), hmark]
  dsimp only
  rw [if_neg (by simp [hnat, hout]), ok]

/-- Settles O45: Milestones follow their reference, and a skipped sector is not framed. -/
theorem framingRuns : Obligations.FramingRuns :=
  ⟨milestoneReferenceSample_without_reference, milestoneReferenceSample_within_bounds,
    milestoneHoldoverExpiry_of_msState, milestoneZoneChange_next, framePos_of_skipped,
    sectorFramed_true_of_not_ts_ldReady_livePair, reframe_of_ldOpen_inRing_not_busy, reframeDone_frames_again⟩

end Sys2Proof.Machine
end
section
/-!
Quarry and the ring (R233 to R264).
-/

namespace Sys2Proof.Machine
theorem writeSubCmd_pushes {s : State} {i : Initiator} {n : Nat} {v : Word} (hopen : s.qryOpen i n = true)
    (hfree : s.qryFree n ≠ 0) (hclass : fget v F.QRY_SUB_CMD_CLASS ≠ 3) (hflush : fget v F.QRY_SUB_CMD_FLUSH ≠ 1) :
    ∃ d : Desc, d.sector = fget v F.QRY_SUB_CMD_SECTOR ∧ d.cls = fget v F.QRY_SUB_CMD_CLASS ∧
      s.writeSubCmd i n v = s.setQents n (s.qents n ++ [(d, .queued)]) := by
  unfold State.writeSubCmd
  rw [if_neg (by simp [hopen]), if_neg hclass, if_neg hflush, if_neg hfree]
  refine ⟨_, ?_, ?_, rfl⟩
  · rfl
  · rfl

theorem qcpls_setQcpls (s : State) (n : Nat) :
    (s.setQcpls n ((s.qcpls n).drop 1)).qcpls n = (s.qcpls n).drop 1 := by
  simp only [State.qcpls, State.setQcpls, List.getElem?_set]
  split
  · split
    · rfl
    · next h => simp [List.getElem?_eq_none (Nat.le_of_not_lt h)]
  · simp_all

/-- The state that a completion's descriptor leaves behind, before its slot is given back (R251). -/
def State.cplTaken (s : State) (n : Nat) (d : Desc) (c : Cpl) (anchor : Int) (rest : List (Desc × DescSt)) : State :=
  let t0 := (s.setQents n rest).setQcpls n (s.qcpls n ++ [c])
  if c.status = qOk then t0.setBad n ((t0.badOf n).filter fun b => b.desc.psa ≠ d.psa || b.desc.sys ≠ d.sys)
  else if c.status = qSkipped ∨ c.status = qFlushed ∨ d.cls = 1 then t0
  else t0.setBad n (t0.badOf n ++ [{ desc := d, status := c.status, frame := c.frame, anchor }])

theorem postCpl_of_decoded {s : State} {n : Nat} {d : Desc} {c : Cpl} {id : Option Nat} {an : Int}
    {rest : List (Desc × DescSt)} (hhead : s.qents n = (d, .done c id an) :: rest) (hfail : c.status ≠ qFail)
    (hmiscorrect : c.status ≠ qMiscorrect) :
    s.postCpl n = (s.cplTaken n d c an rest).setSlots
      ((s.cplTaken n d c an rest).qry.slots.filter fun x => some x.id ≠ id) := by
  unfold State.postCpl
  rw [hhead]
  exact if_neg (by simp [hfail, hmiscorrect])

theorem cplTaken_keeps (s : State) (n : Nat) (d : Desc) (c : Cpl) (an : Int) (rest : List (Desc × DescSt)) :
    (s.cplTaken n d c an rest).qry.ents = s.qry.ents.set n rest ∧
      (s.cplTaken n d c an rest).qry.cpls = s.qry.cpls.set n (s.qcpls n ++ [c]) ∧
      (s.cplTaken n d c an rest).str = s.str ∧
      OnlyRegs [R.QRY_STAT, R.QRY_EVT] s (s.cplTaken n d c an rest) := by
  unfold State.cplTaken
  dsimp only
  split_ifs
  · exact ⟨rfl, rfl, rfl, onlyRegs_refl _ s⟩
  · exact ⟨rfl, rfl, rfl, onlyRegs_refl _ s⟩
  · exact ⟨rfl, rfl, rfl, onlyRegs_refl _ s⟩

theorem setSlots_keeps (s : State) (l : List Slot) :
    (s.setSlots l).qry.ents = s.qry.ents ∧ (s.setSlots l).qry.cpls = s.qry.cpls ∧ (s.setSlots l).qry.slots = l ∧
      (s.setSlots l).str = s.str ∧ OnlyRegs [R.QRY_STAT, R.QRY_EVT] s (s.setSlots l) := by
  unfold State.setSlots
  dsimp only
  split_ifs
  · simp
  · simp

/-- Where no ladder runs and no sector is caught up with, a completion only stays posted. -/
theorem ladderPosted_of_no_ladder {s : State} {n : Nat} {c : Cpl} {an : Int} (hladders : ∀ k, (s.seq k).ladder = none)
    (hcatching : (s.seq n).catching = none) : s.ladderPosted n c an = s := by
  have hnone : ((List.range 8).findSome? fun _ => (none : Option (Nat × Ladder))) = none :=
    List.findSome?_eq_none_iff.mpr fun _ _ => rfl
  simp [State.ladderPosted, hladders, hnone, State.catchPosted, hcatching]

theorem seq_none_of_str {s t : State} (hstr : t.str = s.str) (h : ∀ k, (s.seq k).ladder = none) (k : Nat) :
    (t.seq k).ladder = none := by
  rw [State.seq, hstr]
  exact h k

theorem seq_catching_of_str {s t : State} (hstr : t.str = s.str) {n : Nat} (h : (s.seq n).catching = none) :
    (t.seq n).catching = none := by
  rw [State.seq, hstr]
  exact h

/-- A queue that holds something is one of the eight, so that what is set there is read back. -/
theorem getElem?_set_head {s : State} {n : Nat} {q : Desc × DescSt} {rest : List (Desc × DescSt)}
    (hhead : s.qents n = q :: rest) (l : List (Desc × DescSt)) : ((s.qry.ents.set n l)[n]?).getD [] = l := by
  have hlt : n < s.qry.ents.length := by
    by_contra hge
    simp [State.qents, List.getElem?_eq_none (Nat.le_of_not_lt hge)] at hhead
  simp [hlt]
theorem descriptorPush_queues (s : State) (i : Initiator) (n : Fin 8) (v : Word) (hopen : s.qryOpen i n.val = true)
    (hfree : s.qryFree n.val ≠ 0) (hclass : fget v F.QRY_SUB_CMD_CLASS ≠ 3) :
    Completes (.descriptorPush i n v) s fun t =>
      (∃ d : Desc, d.sector = fget v F.QRY_SUB_CMD_SECTOR ∧ d.cls = fget v F.QRY_SUB_CMD_CLASS ∧
        t.qry.ents = s.qry.ents.set n.val (s.qents n.val ++ [(d, .queued)])) ∧ t.qry.slots = s.qry.slots ∧
            SameRegs s t := by
  have hclass' : fget (fset v F.QRY_SUB_CMD_FLUSH 0) F.QRY_SUB_CMD_CLASS ≠ 3 := by simpa using hclass
  have hflush : fget (fset v F.QRY_SUB_CMD_FLUSH 0) F.QRY_SUB_CMD_FLUSH ≠ 1 := by simp
  obtain ⟨d, hsector, hcls, hpush⟩ := writeSubCmd_pushes hopen hfree hclass' hflush
  refine completes_of_next (t := s.setQents n.val (s.qents n.val ++ [(d, .queued)])) ?_
    ⟨⟨d, by simpa using hsector, by simpa using hcls, rfl⟩, rfl, sameRegs_of_eq rfl rfl⟩
  show execDescriptorPush i n v s = _
  rw [execDescriptorPush, hpush, ok]

theorem descriptorFlush_of_qryOpen_class (s : State) (i : Initiator) (n : Fin 8) (v : Word)
    (hqryOpen : s.qryOpen i n.val = true) (hclass : fget v F.QRY_SUB_CMD_CLASS ≠ 3) :
    exec (.descriptorFlush i n v) s = .next (s.qryFlush n.val) := by
  show execDescriptorFlush i n v s = _
  simp [execDescriptorFlush, hqryOpen, hclass, State.writeSubCmd]

theorem engineDispatch_of_engineFree_bestSlot (s : State) (e : Fin 12) (x : Slot)
    (hengineFree : s.engineFree e.val = true) (hready : s.ready .quarry = true)
    (hbestSlot : bestSlot (s.qry.slots.filter s.slotWaits) = some x) :
    exec (.engineDispatch e) s
      = .next ((s.setSlots (s.qry.slots.map fun y => if y.id
          = x.id then { y with engine := some e.val } else y)).engBusy e.val
          true) := by
  show execEngineDispatch e s = _
  simp [execEngineDispatch, hengineFree, hready, hbestSlot]

theorem decodeComplete_of_engineSlot (s : State) (e : Fin 12) (x : Slot) (hengineSlot : s.engineSlot e.val = some x) :
    exec (.decodeComplete e) s = .next ((s.endDecode x).engBusy e.val false) := by
  show execDecodeComplete e s = _
  simp [execDecodeComplete, hengineSlot]

theorem completionPost_takes_head
    (s : State) (n : Fin 8) (d : Desc) (c : Cpl) (id : Option Nat) (an : Int) (rest : List (Desc × DescSt))
    (hladders : (∀ k, (s.seq k).ladder = none)) (hcatching : (s.seq n.val).catching = none)
    (hhead : s.qents n.val = (d, .done c id an) :: rest) (hfail : c.status ≠ qFail)
    (hmiscorrect : c.status ≠ qMiscorrect) :
    Completes (.completionPost n) s fun t =>
      t.qents n.val = rest ∧ t.qry.cpls = s.qry.cpls.set n.val (s.qcpls n.val ++ [c]) ∧
        (∀ y ∈ t.qry.slots, some y.id ≠ id) ∧ OnlyRegs [R.QRY_STAT, R.QRY_EVT] s t := by
  obtain ⟨hents, hcpls, hstr, hregs⟩ := cplTaken_keeps s n.val d c an rest
  obtain ⟨hents', hcpls', hslots', hstr', hregs'⟩ := setSlots_keeps (s.cplTaken n.val d c an rest)
    ((s.cplTaken n.val d c an rest).qry.slots.filter fun x => some x.id ≠ id)
  refine completes_of_next (t := s.postCpl n.val) ?_ ?_
  · show execCompletionPost n s = _
    have hstr'' : (s.postCpl n.val).str = s.str := by
      rw [postCpl_of_decoded hhead hfail hmiscorrect, hstr', hstr]
    rw [execCompletionPost, hhead]
    dsimp only
    rw [ladderPosted_of_no_ladder (seq_none_of_str hstr'' hladders) (seq_catching_of_str hstr'' hcatching), ok]
  · rw [postCpl_of_decoded hhead hfail hmiscorrect]
    refine ⟨?_, hcpls'.trans hcpls, fun y hy => ?_, hregs.trans hregs'⟩
    · rw [State.qents, hents', hents]
      exact getElem?_set_head hhead rest
    · rw [hslots'] at hy
      simpa using (List.mem_filter.mp hy).2

theorem completionPop_takes_first (s : State) (i : Initiator) (n : Fin 8) (v : Word)
    (hopen : s.qryOpen i n.val = true) (hpop : fget v F.QRY_CPL_POP_POP = 1) :
    Completes (.completionPop i n v) s fun t =>
        t.qcpls n.val = (s.qcpls n.val).drop 1 ∧ t.qents n.val = s.qents n.val ∧ SameRegs s t := by
  refine completes_of_next (t := s.setQcpls n.val ((s.qcpls n.val).drop 1)) ?_ ⟨?_, rfl, sameRegs_of_eq rfl rfl⟩
  · show execCompletionPop i n v s = _
    rw [execCompletionPop, State.writeCplPop, if_pos (by simp [hopen, hpop]), ok]
  · exact qcpls_setQcpls s n.val

theorem engineFault_of_noInjection (s : State) (e : Fin 12) (hnoInjection : s.noInjection) :
    exec (.engineFault e) s
      = .next (((((s.setSlots (s.qry.slots.map fun y => if y.engine
          = some e.val then { y with engine := none } else y)).engBusy
          e.val false).wf R.QRY_STAT ⟨16 + e.val,
              16 + e.val⟩ 1).raise R.QRY_EVT F.QRY_EVT_FAULT).carry 11 2 false) := by
  show execEngineFault e s = _
  rw [execEngineFault, eccCheck_of_noInjection hnoInjection]
  dsimp only
  rw [if_neg (by decide), State.engineFault, ok]

theorem engineFaultClear_next (s : State) (i : Initiator) (v : Word) (hready : s.ready .quarry = true)
    (hpair : isPair i = true) : exec (.engineFaultClear i v) s = .next (s.writeFields R.QRY_STAT v) := by
  show execEngineFaultClear i v s = _
  simp [execEngineFaultClear, hready, hpair, State.qryGlobal]

theorem replayEnd_ends (s : State) (n : Fin 8) (c : Nat) (hplaying : (s.slice n.val).playing = true)
    (hend : s.rplyEnd n.val = some c) (hframe : (c = 3 ∨ (s.slice n.val).reframe = none)) :
    exec (.replayEnd n) s = .next ((s.endReplay n.val c).ladderMissed n.val) := by
  have harrived : (if c = 3 then s else s.reframeArrived n.val) = s := by
    rcases hframe with hc | hnone
    · exact if_pos hc
    · rw [State.reframeArrived, hnone, ite_self]
  show execReplayEnd n s = _
  rw [execReplayEnd, if_pos hplaying, hend]
  dsimp only
  rw [harrived, if_pos hplaying, ok]

theorem ringFind_of_ldOpen (s : State) (i : Initiator) (n : Fin 8) (v : Word) (hldOpen : s.ldOpen i n.val = true) :
    exec (.ringFind i n v) s
      = .next ((s.wr (R.LD_RING_FOUND_HI n.val) (word (2 ^ 30))).setSlice n.val
          { (s.wr (R.LD_RING_FOUND_HI n.val) (word (2 ^ 30))).slice n.val with
            find := some (fget v F.LD_RING_FIND_SECTOR) }) := by
  show execRingFind i n v s = _
  simp [execRingFind, hldOpen, State.writeRingFind]

theorem ringFindDone_not_found (s u : State) (n : Fin 8) (sec : Nat) (hfind : (s.slice n.val).find = some sec)
    (hsearch : (s.setSlice n.val { s.slice n.val with find := none }).searchMarks (s.rplyQ n.val) (fun v =>
        markKind v = mkSector && s.heldClk (s.rplyQ n.val) (s.markClk (s.rplyQ n.val) v) && markArg v % 2 ^ 32
            = (s.rd (R.LD_RING_FIND_TRK n.val)).toNat && markArg v / 2 ^ 32 % 2 ^ 16
                = sec) (s.sub (s.rplyQ n.val)).marks ((s.sub (s.rplyQ n.val)).marks - s.oldMark (s.rplyQ
                    n.val)) = (none, u))
    : exec (.ringFindDone n) s = .next ((u.wr (R.LD_RING_FOUND_LO n.val) 0).wr (R.LD_RING_FOUND_HI n.val) 0) := by
  show execRingFindDone n s = _
  rw [execRingFindDone, hfind]
  dsimp only
  rw [hsearch, ok]

theorem ringFindDone_found (s u : State) (n : Fin 8) (sec m : Nat) (hfind : (s.slice n.val).find = some sec)
    (hsearch : (s.setSlice n.val { s.slice n.val with find := none }).searchMarks (s.rplyQ n.val) (fun v =>
        markKind v = mkSector && s.heldClk (s.rplyQ n.val) (s.markClk (s.rplyQ n.val) v) && markArg v % 2 ^ 32
            = (s.rd (R.LD_RING_FIND_TRK n.val)).toNat && markArg v / 2 ^ 32 % 2 ^ 16
                = sec) (s.sub (s.rplyQ n.val)).marks ((s.sub (s.rplyQ n.val)).marks - s.oldMark (s.rplyQ
                    n.val)) = (some m, u))
    :
    exec (.ringFindDone n) s
      = .next ((u.wr (R.LD_RING_FOUND_LO n.val) (word (s.markClk (s.rplyQ n.val) m % 2 ^ 48))).wr
          (R.LD_RING_FOUND_HI n.val)
          (word (2 ^ 31 + markSample m * 2 ^ 16 + s.markClk (s.rplyQ n.val) m % 2 ^ 48 / 2 ^ 32))) := by
  show execRingFindDone n s = _
  rw [execRingFindDone, hfind]
  dsimp only
  rw [hsearch, ok]

/-- Settles O46: descriptors keep their order, and a completion takes the head of its queue. -/
theorem quarryDecodes : Obligations.QuarryDecodes :=
  ⟨descriptorPush_queues, descriptorFlush_of_qryOpen_class, engineDispatch_of_engineFree_bestSlot,
    decodeComplete_of_engineSlot, completionPost_takes_head, completionPop_takes_first, engineFault_of_noInjection,
    engineFaultClear_next, replayEnd_ends, ringFind_of_ldOpen, ringFindDone_not_found, ringFindDone_found⟩

end Sys2Proof.Machine
end
section
/-!
The control engine (R265 to R282).
-/

namespace Sys2Proof.Machine
theorem loopLive_of_enabled {s : State} {l : Nat} (hen : s.loopEn l = true)
    (hhold : s.flag (R.BAS_LCFG l) F.BAS_LCFG_HOLD = false) (hheat : l < 48 ∨ s.heatUp (l - 48) = false) :
    s.loopLive l = true := by
  have hheat' : (decide (48 ≤ l) && s.heatUp (l - 48)) = false := by
    rcases hheat with h | h
    · simp [Nat.not_le.mpr h]
    · simp [h]
  simp [State.loopLive, hen, hhold, hheat']

@[simp] theorem onlyRegs_setLoop (r : List Nat) (s t : State) (l : Nat) (x : LoopState) :
    OnlyRegs r s (t.setLoop l x) ↔ OnlyRegs r s t := Iff.rfl

theorem loop_setLoop_same (s : State) (l : Nat) (x : LoopState) : (s.setLoop l x).loop l
    = x := spGetD_set_self _ _ _ _

/-- A word that leaves the fields as they stand is taken for a loop whose configuration is legal (R270). -/
theorem loopMayTake_of_legal {s : State} {i : Initiator} {l : Nat} {v : Word} (h : s.loopLegal i l)
    (htrig : fget v F.BAS_LCFG_TRIG = s.rf (R.BAS_LCFG l) F.BAS_LCFG_TRIG)
    (hnbq : fget v F.BAS_LCFG_NBQ = s.rf (R.BAS_LCFG l) F.BAS_LCFG_NBQ)
    (hnff : fget v F.BAS_LCFG_NFF = s.rf (R.BAS_LCFG l) F.BAS_LCFG_NFF)
    (houter : fget v F.BAS_LCFG_OUTER = s.rf (R.BAS_LCFG l) F.BAS_LCFG_OUTER)
    (hdiv : fget v F.BAS_LCFG_DIV = s.rf (R.BAS_LCFG l) F.BAS_LCFG_DIV) : s.loopMayTake i l v = true := by
  obtain ⟨hopen, hten, hnffMax, hnbqMax, houterOk, htrigOk, hdst⟩ := h
  have hfixed : ¬ l < 10 := not_lt.mpr hten
  have height : l ≠ 8 := by omega
  have hnine : l ≠ 9 := by omega
  have hnew : s.newTrig l v = s.rf (R.BAS_LCFG l) F.BAS_LCFG_TRIG := by rw [State.newTrig, if_neg hfixed, htrig]
  simp only [State.loopMayTake, hnew, hnbq, hnff, houter, hdiv, hdst, hopen, height, hnine, houterOk, htrigOk]
  simp [hnffMax, hnbqMax]

section TakeLcfg
variable (s : State) {l : Nat} {v : Word}

theorem onlyRegs_takeLcfg (l : Nat) (v : Word) : OnlyRegs [R.BAS_LCFG l] s (s.takeLcfg l v) := by
  unfold State.takeLcfg
  dsimp only
  split <;> simp

theorem loopEn_takeLcfg (l : Nat) (v : Word) : (s.takeLcfg l v).loopEn l = decide (fget v F.BAS_LCFG_EN = 1) := by
  rw [State.loopEn, State.flag, State.rf, rd_takeLcfg]
  simp

theorem clr_takeLcfg (l : Nat) (v : Word) : (s.takeLcfg l v).rf (R.BAS_LCFG l) F.BAS_LCFG_CLR =
    max (s.rf (R.BAS_LCFG l) F.BAS_LCFG_CLR) (fget v F.BAS_LCFG_CLR) % 2 := by
  rw [State.rf, rd_takeLcfg]
  simp

theorem swap_takeLcfg (l : Nat) (v : Word) : (s.takeLcfg l v).rf (R.BAS_LCFG l) F.BAS_LCFG_SWAP =
    max (s.rf (R.BAS_LCFG l) F.BAS_LCFG_SWAP) (fget v F.BAS_LCFG_SWAP) % 2 := by
  rw [State.rf, rd_takeLcfg]
  simp

/-- A loop that was disabled counts its runs anew. -/
theorem runs_takeLcfg_of_disabled (h : s.loopEn l = false) (v : Word) : ((s.takeLcfg l v).loop l).runs = 0 := by
  unfold State.takeLcfg
  simp only [h, Bool.false_eq_true, if_false]
  split <;> rw [loop_setLoop_same]

theorem waiting_takeLcfg_of_disabling (h : fget v F.BAS_LCFG_EN ≠ 1) : ((s.takeLcfg l v).loop l).waiting = none := by
  unfold State.takeLcfg
  dsimp only
  rw [if_neg (by simp [h]), loop_setLoop_same]

end TakeLcfg
theorem loopTrigger_waits (s : State) (t : Fin 16) (l : Fin 80) (htrig : t.val ≠ 0)
    (hsource : s.rf (R.BAS_LCFG l.val) F.BAS_LCFG_TRIG = t.val) (hen : s.loopEn l.val = true)
    (hhold : s.flag (R.BAS_LCFG l.val) F.BAS_LCFG_HOLD = false) (hheat : (l.val < 48 ∨ s.heatUp (l.val - 48) = false))
    (hidle : (s.loop l.val).waiting = none) :
    exec (.loopTrigger t l) s
      = .next { s.setLoop l.val { s.loop l.val with waiting := some s.bas.order } with
          bas := { (s.setLoop l.val { s.loop l.val with waiting := some s.bas.order }).bas with
            order := (s.setLoop l.val { s.loop l.val with waiting := some s.bas.order }).bas.order + 1 } } := by
  have hlive := loopLive_of_enabled hen hhold hheat
  show execLoopTrigger t l s = _
  rw [execLoopTrigger, if_pos (by simpa [hsource] using htrig), State.trigger, if_neg (by simp [hlive]),
      if_neg (by simp [hidle]), ok]

theorem loopTrigger_overruns (s : State) (t : Fin 16) (l : Fin 80) (n : Nat) (htrig : t.val ≠ 0)
    (hsource : s.rf (R.BAS_LCFG l.val) F.BAS_LCFG_TRIG = t.val) (hen : s.loopEn l.val = true)
    (hhold : s.flag (R.BAS_LCFG l.val) F.BAS_LCFG_HOLD = false) (hheat : (l.val < 48 ∨ s.heatUp (l.val - 48) = false))
    (hwaiting : (s.loop l.val).waiting = some n) :
    Completes (.loopTrigger t l) s fun u =>
      u.flag (R.BAS_LFLAG l.val) F.BAS_LFLAG_OVERRUN = true ∧ OnlyRegs [R.BAS_LFLAG l.val] s u := by
  have hlive := loopLive_of_enabled hen hhold hheat
  refine completes_of_next (t := s.raise (R.BAS_LFLAG l.val) F.BAS_LFLAG_OVERRUN) ?_ ⟨by simp, by simp⟩
  show execLoopTrigger t l s = _
  rw [execLoopTrigger, if_pos (by simpa [hsource] using htrig), State.trigger, if_neg (by simp [hlive]),
    if_pos (by simp [hwaiting]), ok]

theorem loopTrigger_of_not_loopEn (s : State) (t : Fin 16) (l : Fin 80) (hloopEn : s.loopEn l.val = false) :
    exec (.loopTrigger t l) s = .next s := by
  show execLoopTrigger t l s = _
  simp [execLoopTrigger, hloopEn, State.trigger, State.loopLive]

theorem loopTrigger_of_hold (s : State) (t : Fin 16) (l : Fin 80)
    (hhold : s.flag (R.BAS_LCFG l.val) F.BAS_LCFG_HOLD = true) : exec (.loopTrigger t l) s = .next s := by
  show execLoopTrigger t l s = _
  simp [execLoopTrigger, hhold, State.trigger, State.loopLive]

theorem basaltTick_next (s : State) (t : Fin 2) :
    exec (.basaltTick t) s
      = .next ((List.range 80).foldl (fun u l => if u.rf (R.BAS_LCFG l) F.BAS_LCFG_TRIG
          = 3 + t.val then u.trigger l else u) s) := by
  show execBasaltTick t s = _
  simp [execBasaltTick, State.triggerAll]

theorem loopKick_of_basOpen_loop (s : State) (i : Initiator) (v : Word) (hbasOpen : s.basOpen i = true)
    (hloop : 10 ≤ fget v F.BAS_KICK_LOOP) (hloop2 : fget v F.BAS_KICK_LOOP < 80)
    (hloop3 : s.innerOf (fget v F.BAS_KICK_LOOP) = none) :
    exec (.loopKick i v) s = .next (s.trigger (fget v F.BAS_KICK_LOOP)) := by
  show execLoopKick i v s = _
  simp [execLoopKick, hbasOpen, hloop, hloop2, hloop3, State.writeKick]

theorem loopWrites_of_closed (s : State) (i : Initiator) (l : Fin 80) (v : Word) (hclosed : s.basOpen i = false) :
    ∀ c ∈ [Instr.loopEnable i l v, .loopDisable i l v, .loopClear i l, .bankSwap i l, .integratorWrite i l v],
        exec c s = .next s := by
  have hlcfg : ∀ w, s.writeLcfg i l.val w = s := fun w => if_neg (by simp [State.loopMayTake, hclosed])
  intro c hc
  fin_cases hc
  · exact congrArg ok (hlcfg _)
  · exact congrArg ok (hlcfg _)
  · exact congrArg ok (hlcfg _)
  · exact congrArg ok (hlcfg _)
  · show execIntegratorWrite i l v s = _
    rw [execIntegratorWrite, State.writeLintHi, if_pos (by simp [hclosed]), ok]

theorem loopEnable_starts_clear (s : State) (i : Initiator) (l : Fin 80) (hlegal : s.loopLegal i l.val)
    (hdisabled : s.loopEn l.val = false) :
    Completes (.loopEnable i l (s.rd (R.BAS_LCFG l.val))) s fun t =>
      t.loopEn l.val = true ∧ (t.loop l.val).runs = 0 ∧ OnlyRegs [R.BAS_LCFG l.val] s t := by
  have htakes : s.loopMayTake i l.val (fset (s.rd (R.BAS_LCFG l.val)) F.BAS_LCFG_EN 1) = true := by
    refine loopMayTake_of_legal hlegal ?_ ?_ ?_ ?_ ?_ <;> simp [State.rf]
  refine completes_of_next (t := s.takeLcfg l.val (fset (s.rd (R.BAS_LCFG l.val)) F.BAS_LCFG_EN 1)) ?_ ⟨?_,
    runs_takeLcfg_of_disabled s hdisabled _, onlyRegs_takeLcfg s l.val _⟩
  · show execLoopEnable i l (s.rd (R.BAS_LCFG l.val)) s = _
    rw [execLoopEnable, State.writeLcfg, if_pos htakes, ok]
  · rw [loopEn_takeLcfg]
    simp

theorem loopDisable_stops_waiting (s : State) (i : Initiator) (l : Fin 80) (hlegal : s.loopLegal i l.val) :
    Completes (.loopDisable i l (s.rd (R.BAS_LCFG l.val))) s fun t =>
      t.loopEn l.val = false ∧ (t.loop l.val).waiting = none ∧ OnlyRegs [R.BAS_LCFG l.val] s t := by
  have htakes : s.loopMayTake i l.val (fset (s.rd (R.BAS_LCFG l.val)) F.BAS_LCFG_EN 0) = true := by
    refine loopMayTake_of_legal hlegal ?_ ?_ ?_ ?_ ?_ <;> simp [State.rf]
  refine completes_of_next (t := s.takeLcfg l.val (fset (s.rd (R.BAS_LCFG l.val)) F.BAS_LCFG_EN 0)) ?_ ⟨?_,
    waiting_takeLcfg_of_disabling s (by simp), onlyRegs_takeLcfg s l.val _⟩
  · show execLoopDisable i l (s.rd (R.BAS_LCFG l.val)) s = _
    rw [execLoopDisable, State.writeLcfg, if_pos htakes, ok]
  · rw [loopEn_takeLcfg]
    simp

theorem loopClear_latches (s : State) (i : Initiator) (l : Fin 80) (hlegal : s.loopLegal i l.val) :
    Completes (.loopClear i l) s fun t =>
      t.rf (R.BAS_LCFG l.val) F.BAS_LCFG_CLR = 1 ∧ t.loopEn l.val = s.loopEn l.val ∧
          OnlyRegs [R.BAS_LCFG l.val] s t := by
  have htakes : s.loopMayTake i l.val (fset (s.rd (R.BAS_LCFG l.val)) F.BAS_LCFG_CLR 1) = true := by
    refine loopMayTake_of_legal hlegal ?_ ?_ ?_ ?_ ?_ <;> simp [State.rf]
  refine completes_of_next (t := s.takeLcfg l.val (fset (s.rd (R.BAS_LCFG l.val)) F.BAS_LCFG_CLR 1)) ?_ ⟨?_, ?_,
    onlyRegs_takeLcfg s l.val _⟩
  · show execLoopClear i l s = _
    rw [execLoopClear, State.writeLcfg, if_pos htakes, ok]
  · rw [clr_takeLcfg, fget_fset_same _ _ (by decide) (by decide)]
    have hbit : s.rf (R.BAS_LCFG l.val) F.BAS_LCFG_CLR < 2 := rf_lt s _ _
    omega
  · rw [loopEn_takeLcfg]
    exact congrArg (fun n => decide (n = 1)) (fget_fset_other _ _ (by decide) (by decide) (by decide))

theorem bankSwap_latches (s : State) (i : Initiator) (l : Fin 80) (hlegal : s.loopLegal i l.val) :
    Completes (.bankSwap i l) s fun t =>
      t.rf (R.BAS_LCFG l.val) F.BAS_LCFG_SWAP = 1 ∧ t.loopEn l.val = s.loopEn l.val ∧
          OnlyRegs [R.BAS_LCFG l.val] s t := by
  have htakes : s.loopMayTake i l.val (fset (s.rd (R.BAS_LCFG l.val)) F.BAS_LCFG_SWAP 1) = true := by
    refine loopMayTake_of_legal hlegal ?_ ?_ ?_ ?_ ?_ <;> simp [State.rf]
  refine completes_of_next (t := s.takeLcfg l.val (fset (s.rd (R.BAS_LCFG l.val)) F.BAS_LCFG_SWAP 1)) ?_ ⟨?_, ?_,
    onlyRegs_takeLcfg s l.val _⟩
  · show execBankSwap i l s = _
    rw [execBankSwap, State.writeLcfg, if_pos htakes, ok]
  · rw [swap_takeLcfg, fget_fset_same _ _ (by decide) (by decide)]
    have hbit : s.rf (R.BAS_LCFG l.val) F.BAS_LCFG_SWAP < 2 := rf_lt s _ _
    omega
  · rw [loopEn_takeLcfg]
    exact congrArg (fun n => decide (n = 1)) (fget_fset_other _ _ (by decide) (by decide) (by decide))

theorem integratorWrite_stores (s : State) (i : Initiator) (l : Fin 80) (v : Word) (hopen : s.basOpen i = true) :
    Completes (.integratorWrite i l v) s fun t =>
      t.rd (R.BAS_LINT_HI l.val) = word (v.toNat % 256) ∧ OnlyRegs [R.BAS_LINT_HI l.val] s t := by
  show ∃ t, execIntegratorWrite i l v s = .next t ∧ _
  rw [execIntegratorWrite, State.writeLintHi, if_neg (by simp [hopen]), ok]
  exact ⟨_, rfl, by rw [rd_setLoop, rd_wr_self], (onlyRegs_setLoop _ _ _ _ _).mpr (by simp)⟩

theorem generalInputWrite_stores (s : State) (i : Initiator) (k : Fin 16) (v : Word) (hopen : s.basOpen i = true) :
    Completes (.generalInputWrite i k v) s fun t =>
      t.rf (R.BAS_GIN k.val) F.BAS_GIN_VALUE = fget v F.BAS_GIN_VALUE ∧
        spGetD 0 t.bas.gin k.val = s.bas.stamp + 1 ∧ t.bas.stamp = s.bas.stamp + 1 ∧
            OnlyRegs [R.BAS_GIN k.val] s t := by
  show ∃ t, execGeneralInputWrite i k v s = .next t ∧ _
  rw [execGeneralInputWrite, State.writeGin, if_neg (by simp [hopen]), ok]
  refine ⟨_, rfl, ?_, ?_, ?_, ?_⟩
  · have hvalue : fget v F.BAS_GIN_VALUE < 2 ^ 16 := fget_lt v _
    simpa using hvalue
  · simp
  · simp
  · simp

theorem servoHwmClear_of_basOpen_clr (s : State) (i : Initiator) (v : Word) (hbasOpen : s.basOpen i = true)
    (hclr : fget v F.BAS_SV_HWM_CLR = 1) :
    Completes (.servoHwmClear i v) s fun t => t.rd R.BAS_SV_HWM = 0 ∧ OnlyRegs [R.BAS_SV_HWM] s t := by
  show ∃ t, execServoHwmClear i v s = .next t ∧ _
  simp [execServoHwmClear, hbasOpen, hclr, State.writeHwm, ok]

theorem loopRun_of_chooseLoop_l (s : State) (ns : Nat) (k : List Nat) (l : Nat)
    (hchooseLoop : s.chooseLoop 80 = some (k, l)) (hl : l ≠ 9) :
    exec (.loopRun ns) s = .next ((s.runLoop l).afterRun l ns) := by
  show execLoopRun ns s = _
  simp [execLoopRun, hchooseLoop, hl]

theorem loopRun_of_chooseLoop (s : State) (ns : Nat) (k : List Nat) (hchooseLoop : s.chooseLoop 80 = some (k, 9)) :
    exec (.loopRun ns) s = .next ((s.speedRef.runLoop 9).afterRun 9 ns) := by
  show execLoopRun ns s = _
  simp [execLoopRun, hchooseLoop]

/-- Settles O47: a loop runs on its own trigger, and a configuration write keeps its latched requests. -/
theorem loopsRun : Obligations.LoopsRun :=
  ⟨loopTrigger_waits, loopTrigger_overruns, loopTrigger_of_not_loopEn, loopTrigger_of_hold, basaltTick_next,
    loopKick_of_basOpen_loop, loopWrites_of_closed, loopEnable_starts_clear, loopDisable_stops_waiting,
    loopClear_latches, bankSwap_latches, integratorWrite_stores, generalInputWrite_stores,
    servoHwmClear_of_basOpen_clr, loopRun_of_chooseLoop_l, loopRun_of_chooseLoop⟩

end Sys2Proof.Machine
end
section
/-!
The actuators and the preamplifiers (R283 to R306).
-/

namespace Sys2Proof.Machine
theorem actSt_actEnter (s : State) (a : Nat) {st : Nat} (hst : st < 16) : (s.actEnter a st).actSt a = st := by
  simpa [State.actSt, State.actEnter] using hst

theorem onlyRegs_actEnter (s : State) (a st : Nat) : OnlyRegs [R.ACT_STATE a] s (s.actEnter a st) :=
  (onlyRegs_wf_iff (by simp) _ _).mpr (onlyRegs_refl _ s)
theorem positionSample_of_reading (s : State) (a : Fin 4) (d : Demod) (clock : Option Int)
    (hpresent : s.actPresent a.val = true) (hread : s.servoRead a.val = some (d, clock)) :
    exec (.positionSample a) s = .next ((s.nextFrame a.val).takeSample a.val d clock) := by
  show execPositionSample a s = _
  rw [execPositionSample, if_pos hpresent, State.positionSample, hread, ok]

theorem positionSample_without_reading (s : State) (a : Fin 4) (hpresent : s.actPresent a.val = true)
    (hread : s.servoRead a.val = none) :
    exec (.positionSample a) s
      = .next ((s.setAct a.val { s.act a.val with timing := none }).sample a.val false { found := false }) := by
  show execPositionSample a s = _
  rw [execPositionSample, if_pos hpresent, State.positionSample, hread, ok]

theorem sampleMissingTimeout_of_actPresent (s : State) (a : Fin 4) (hactPresent : s.actPresent a.val = true) :
    exec (.sampleMissingTimeout a) s
      = .next ((s.setAct a.val { s.act a.val with timing := none }).sample a.val false { found := false }) := by
  show execSampleMissingTimeout a s = _
  simp [execSampleMissingTimeout, hactPresent]

theorem actuatorLoad_begins (s : State) (i : Initiator) (a : Fin 4) (hpair : actPair i = true)
    (hpresent : s.actPresent a.val = true) (hparked : s.actSt a.val = aParked)
    (henum : s.rf (R.ACT_PA_ENUM a.val) F.ACT_PA_ENUM_RESULT = enOk) (hready : s.ready .millstone = true)
    (hunit : s.unitState 2 a.val ≠ uOut) :
    Completes (.actuatorLoad i a) s fun t => t.actSt a.val = aLoading ∧ OnlyRegs [R.ACT_STATE a.val] s t := by
  refine completes_of_next (t := s.loadAct a.val) ?_ ?_
  · show execActuatorLoad i a s = _
    rw [execActuatorLoad, State.writeActCmd, if_pos rfl, if_pos hpair, ok]
  · rw [State.loadAct, if_pos (by simp [hpresent, hparked, henum, hready, hunit])]
    exact ⟨actSt_actEnter s a.val (by decide), onlyRegs_actEnter s a.val _⟩

theorem actuatorUnload_begins (s : State) (i : Initiator) (a : Fin 4) (hpair : actPair i = true)
    (hmay : s.canUnload a.val = true) :
    exec (.actuatorUnload i a) s
      = .next ((((s.actEnter a.val aUnloading).wf (R.ACT_STATE a.val) F.ACT_STATE_CAUSE ucCommand).setAct a.val
          { ((s.actEnter a.val aUnloading).wf (R.ACT_STATE a.val) F.ACT_STATE_CAUSE ucCommand).act a.val with
            stall := 0 }).offTrack a.val) := by
  show execActuatorUnload i a s = _
  rw [execActuatorUnload, State.writeActCmd, if_neg (by decide), if_pos rfl, if_pos (by simp [hpair]),
      State.unloadAct,
    if_pos hmay, ok]

theorem seek_of_actChannel_actSt_track (s : State) (i : Initiator) (a : Fin 4) (v : Word)
    (hactChannel : s.actChannel i a.val = true) (hactSt : s.actSt a.val = aFollow)
    (htrack : fget v F.ACT_SEEK_TRACK < ((s.servoSurface a.val).map Surface.tracks).getD 0) :
    exec (.seek i a v) s
      = .next (((s.actEnter a.val aSeek).wf (R.ACT_SEEK a.val) F.ACT_SEEK_TRACK (fget v
          F.ACT_SEEK_TRACK)).refreshPermit
          a.val) := by
  show execSeek i a v s = _
  simp [execSeek, hactChannel, hactSt, htrack, State.writeSeek]

theorem headSelect_of_actChannel_head_not_gateOpen (s : State) (i : Initiator) (a : Fin 4) (p : Fin 2) (v : Word)
    (hactChannel : s.actChannel i a.val = true) (hhead : fget v F.ACT_HSEL_HEAD < s.heads a.val)
    (hgateOpen : s.gateOpen a.val = false) (hservoPair : p.val ≠ s.servoPair a.val) :
    exec (.headSelect i a p v) s
      = .next ((((s.wf (R.ACT_HSEL a.val p.val) F.ACT_HSEL_HEAD (fget v F.ACT_HSEL_HEAD)).raise (R.ACT_HSEL
          a.val p.val)
          F.ACT_HSEL_BUSY).queueFrame a.val
            { prio := 1, read := false, addr := (s.rf (R.ACT_PA_MAP0 a.val) F.ACT_PA_MAP0_HSEL_ADDR + p.val) % 128,
              data := fget v F.ACT_HSEL_HEAD, what := p.val }).refreshPermit a.val) := by
  show execHeadSelect i a p v s = _
  simp [execHeadSelect, hactChannel, hhead, hgateOpen, hservoPair, State.writeHsel]

theorem loadTimeout_of_actSt (s : State) (a : Fin 4) (hactSt : s.actSt a.val = aLoading) :
    exec (.loadTimeout a) s = .next (s.unloadAct a.val ucLoadFail) := by
  show execLoadTimeout a s = _
  simp [execLoadTimeout, hactSt]

theorem lostTimeout_unloads (s : State) (a : Fin 4) (hlost : s.actSt a.val = aLost) :
    exec (.lostTimeout a) s = .next ((s.unloadAct a.val ucServoLost).carry (20 + a.val) 2 false) := by
  show execLostTimeout a s = _
  rw [execLostTimeout, if_pos hlost, State.report, ok]

theorem ditherEnable_of_actPair_en (s : State) (i : Initiator) (a : Fin 4) (v : Word) (hactPair : actPair i = true)
    (hen : fget v F.ACT_DITHER_EN = 0) :
    exec (.ditherEnable i a v) s = .next ((s.writeFields (R.ACT_DITHER a.val) v).refreshPermit a.val) := by
  show execDitherEnable i a v s = _
  simp [execDitherEnable, hactPair, hen, State.writeDither]

theorem shockSample_over_threshold (s : State) (x : Int) (k : Fin 8) (howner : s.owner (0x0700 + k.val) ≠ 0x40)
    (hen : s.flag R.ACT0_SHOCK_CFG F.ACT0_SHOCK_CFG_EN = true)
    (hsensor : s.rf R.ACT0_SHOCK_CFG F.ACT0_SHOCK_CFG_SENSOR = k.val)
    (hthreshold : s.rf R.ACT0_SHOCK_CFG F.ACT0_SHOCK_CFG_THR ≤ x.natAbs) :
    exec (.shockSample k x) s
      = .next ((List.range 4).foldl (fun u a => u.raise (R.ACT_EVT a) F.ACT_EVT_SHOCK)
          ((s.raise R.ACT0_SHOCK_STAT F.ACT0_SHOCK_STAT_ACTIVE).countUp R.ACT0_SHOCK_STAT F.ACT0_SHOCK_STAT_COUNT
            1)).refreshPermits := by
  show execShockSample k x s = _
  rw [execShockSample, if_neg howner, if_pos (by simp [hen, hsensor, hthreshold]), State.shock, ok]

theorem shockSample_of_other_or_below (s : State) (x : Int) (k : Fin 8) (howner : s.owner (0x0700 + k.val) ≠ 0x40)
    (hbelow : (s.rf R.ACT0_SHOCK_CFG F.ACT0_SHOCK_CFG_SENSOR ≠ k.val ∨ x.natAbs < s.rf R.ACT0_SHOCK_CFG
        F.ACT0_SHOCK_CFG_THR))
    : exec (.shockSample k x) s = .next s := by
  have hquiet : ¬ ((s.flag R.ACT0_SHOCK_CFG F.ACT0_SHOCK_CFG_EN = true ∧
      s.rf R.ACT0_SHOCK_CFG F.ACT0_SHOCK_CFG_SENSOR = k.val) ∧
      s.rf R.ACT0_SHOCK_CFG F.ACT0_SHOCK_CFG_THR ≤ x.natAbs) := by
    rintro ⟨⟨-, hsensor⟩, hthreshold⟩
    rcases hbelow with h | h
    · exact h hsensor
    · exact absurd hthreshold (not_le.mpr h)
  show execShockSample k x s = _
  rw [execShockSample, if_neg howner, if_neg (by simpa only [Bool.and_eq_true, decide_eq_true_eq] using hquiet), ok]

theorem shockSample_shared_sensor (s : State) (x : Int) (k : Fin 8) (howner : s.owner (0x0700 + k.val) = 0x40)
    (hbelow : x.natAbs < s.rf R.ACT0_SHOCK_CFG F.ACT0_SHOCK_CFG_THR) :
    Completes (.shockSample k x) s fun t => spGetD 0 t.bas.sensor k.val = sat16 x ∧ SameRegs s t := by
  show ∃ t, execShockSample k x s = .next t ∧ _
  rw [execShockSample, if_pos howner]
  dsimp only
  rw [if_neg (by simp only [Bool.and_eq_true, decide_eq_true_eq]; exact fun h => absurd h.2 (not_le.mpr hbelow)), ok]
  exact ⟨_, rfl, spGetD_set_self _ _ _ _, sameRegs_of_eq rfl rfl⟩

theorem shockRelease_completes (s : State) :
    Completes .shockRelease s fun t =>
      t.flag R.ACT0_SHOCK_STAT F.ACT0_SHOCK_STAT_ACTIVE = false ∧
        t.rf R.ACT0_SHOCK_STAT F.ACT0_SHOCK_STAT_COUNT = s.rf R.ACT0_SHOCK_STAT F.ACT0_SHOCK_STAT_COUNT ∧
        OnlyRegs [R.ACT0_SHOCK_STAT] s t := by
  show ∃ t, execShockRelease s = .next t ∧ _
  simp [execShockRelease, ok]

theorem preampFrameEnd_of_act (s : State) (a : Fin 4) (d : Fin 256) (f : PaFrame) (hact : (s.act a.val).busy = some f)
    :
    exec (.preampFrameEnd a d) s
      = .next (((s.setAct a.val { s.act a.val with busy := none }).endFrame a.val f d.val).startFrame a.val) := by
  show execPreampFrameEnd a d s = _
  simp [execPreampFrameEnd, hact]

theorem preampStatusPoll_queues_read (s : State) (a : Fin 4) (hpresent : s.actPresent a.val = true)
    (hloaded : s.actSt a.val ≠ aParked) :
    exec (.preampStatusPoll a) s
      = .next ((s.setAct a.val { s.act a.val with
          frames := (s.act a.val).frames ++
            [{ prio := 5, read := true, addr := s.rf (R.ACT_PA_MAP1 a.val) F.ACT_PA_MAP1_STAT_ADDR, data := 0 }] }).startFrame
              a.val) := by
  show execPreampStatusPoll a s = _
  rw [execPreampStatusPoll, if_pos (by simp [hpresent, hloaded]), State.queueFrame, ok]

theorem preampRawTransfer_of_actPair_not_busy_addr (s : State) (i : Initiator) (a : Fin 4) (v : Word)
    (hactPair : actPair i = true) (hbusy : s.flag (R.ACT_PA_XFER a.val) F.ACT_PA_XFER_BUSY = false)
    (haddr : fget v F.ACT_PA_XFER_ADDR ≠ s.rf (R.ACT_PA_MAP0 a.val) F.ACT_PA_MAP0_HSEL_ADDR)
    (haddr2 : fget v F.ACT_PA_XFER_ADDR ≠ s.rf (R.ACT_PA_MAP0 a.val) F.ACT_PA_MAP0_HSEL_ADDR + 1) :
    exec (.preampRawTransfer i a v) s
      = .next (((s.writeFields (R.ACT_PA_XFER a.val) v).raise (R.ACT_PA_XFER a.val)
          F.ACT_PA_XFER_BUSY).queueFrame a.val
          { prio := 4, read := fget v F.ACT_PA_XFER_RD = 1, addr := fget v F.ACT_PA_XFER_ADDR,
            data := fget v F.ACT_PA_XFER_DATA }) := by
  show execPreampRawTransfer i a v s = _
  simp [execPreampRawTransfer, hactPair, hbusy, haddr, haddr2, State.writeXfer]

theorem preampFault_true_of_not_act (s : State) (a : Fin 4) (hact : (s.act a.val).flt = false) :
    exec (.preampFault a true) s
      = .next ((((s.setAct a.val { s.act a.val with flt := true }).raise (R.ACT_EVT a.val)
          F.ACT_EVT_PREAMP_FLT).refreshPermit
          a.val).carry (28 + a.val) 2 false) := by
  show execPreampFault a true s = _
  simp [execPreampFault, hact, State.report]

theorem preampFault_false_completes (s : State) (a : Fin 4) :
    Completes (.preampFault a false) s fun t =>
      t.acts = s.acts.set a.val { s.act a.val with flt := false } ∧ SameRegs s t := by
  show ∃ t, execPreampFault a false s = .next t ∧ _
  simp [execPreampFault, State.setAct, State.act, ok]

theorem preampEnumeration_of_act_id_mask (s : State) (a : Fin 4) (id mask : Nat)
    (hact : (s.act a.val).enum = some (some id, some mask)) (hid : id ≠ 0) (hid2 : id ≠ 255)
    (hmask : mask &&& (2 ^ s.heads a.val - 1) = 2 ^ s.heads a.val - 1) :
    exec (.preampEnumeration a) s
      = .next (((s.setAct a.val { s.act a.val with enum := none }).wr (R.ACT_PA_ENUM a.val)
          (word (enOk * 2 ^ 30 + mask * 256 + id))).refreshAct a.val) := by
  show execPreampEnumeration a s = _
  simp [execPreampEnumeration, hact, hid, hid2, hmask, State.enumEnd, State.enumResult]

theorem preampEnumeration_of_no_preamp (s : State) (a : Fin 4) (mask : Nat)
    (henum : (s.act a.val).enum = some (some 0, some mask)) :
    exec (.preampEnumeration a) s
      = .next ((((s.setAct a.val { s.act a.val with enum := none }).wr (R.ACT_PA_ENUM a.val)
          (word (enNone * 2 ^ 30 + mask * 256))).refreshAct a.val).carry (28 + a.val) 2 false) := by
  have hresult : s.enumResult a.val 0 mask = enNone := by
    rw [State.enumResult]
    exact if_pos (Or.inl rfl)
  show execPreampEnumeration a s = _
  rw [execPreampEnumeration, henum]
  dsimp only
  rw [State.enumEnd, hresult]
  dsimp only
  rw [if_neg (by decide), State.report, Nat.add_zero, ok]

theorem preampEnumeration_of_none_pending (s : State) (a : Fin 4) (hact : (s.act a.val).enum = none) :
    exec (.preampEnumeration a) s = .next s := by
  show execPreampEnumeration a s = _
  simp [execPreampEnumeration, hact]

/-- Settles O48: a sample is judged when it comes, and a command acts on an actuator that stands where it may. -/
theorem actuatorsMove : Obligations.ActuatorsMove :=
  ⟨positionSample_of_reading, positionSample_without_reading, sampleMissingTimeout_of_actPresent,
    actuatorLoad_begins, actuatorUnload_begins, seek_of_actChannel_actSt_track,
    headSelect_of_actChannel_head_not_gateOpen, loadTimeout_of_actSt, lostTimeout_unloads,
    ditherEnable_of_actPair_en, shockSample_over_threshold, shockSample_of_other_or_below,
    shockSample_shared_sensor, shockRelease_completes, preampFrameEnd_of_act, preampStatusPoll_queues_read,
    preampRawTransfer_of_actPair_not_busy_addr, preampFault_true_of_not_act, preampFault_false_completes,
    preampEnumeration_of_act_id_mask, preampEnumeration_of_no_preamp, preampEnumeration_of_none_pending⟩

end Sys2Proof.Machine
end
section
/-!
The spindle (R307 to R329).
-/

namespace Sys2Proof.Machine
/-- What a catch at a usable, slow speed shows (R312). -/
theorem catchResult_slow {s : State} (htarget : s.targetRpm ≠ 0) :
    s.catchResult 1 = s.wr R.MIL_CATCH_RES
      (word (2 ^ 31 + 2 ^ 24 + min 1023 (roundDiv (10 * s.mil.rpmC.natAbs) s.targetRpm).toNat)) := by
  unfold State.catchResult
  rw [if_neg htarget]
  simp
theorem spindleStart_from_idle (s : State) (i : Initiator) (hpair : isPair i = true) (hfree : s.startBarred = false)
    (hidle : s.milSt = miIdle) :
    exec (.spindleStart i) s
      = .next ((s.wf R.MIL_STAT F.MIL_STAT_FAULT 0).toCatch.setMil
          { (s.wf R.MIL_STAT F.MIL_STAT_FAULT 0).toCatch.mil with retries := 0 }).enumAll := by
  show execSpindleStart i s = _
  rw [execSpindleStart, State.writeMilCmd, if_pos rfl, if_pos (by simp [hpair, hfree]), State.spinStart,
      if_pos (by simp [hidle]), ok]

theorem spindleStop_of_spinning (s : State) (i : Initiator) (hpair : isPair i = true) (hdormant : s.mode ≠ mDormant)
    (hhaven : s.mode ≠ mHaven) (hspinning : s.spinning = true) : exec (.spindleStop i) s = .next s.toCoast := by
  show execSpindleStop i s = _
  rw [execSpindleStop, State.writeMilCmd, if_neg (by decide), if_pos rfl, if_pos (by simp [hpair, hdormant,
      hhaven]), State.spinStop, if_pos (Or.inl hspinning), ok]

theorem spindleStopBrake_of_mode (s : State) (i : Initiator) (hpair : isPair i = true) (hmode : s.mode ≠ mDormant)
    (hmode2 : s.mode ≠ mHaven) : exec (.spindleStopBrake i) s = .next s.spinStopBrake := by
  show execSpindleStopBrake i s = _
  simp [execSpindleStopBrake, hpair, hmode, hmode2, State.writeMilCmd]

theorem spindleCommands_refused_at_rest (s : State) (i : Initiator) (hmode : (s.mode = mDormant ∨ s.mode = mHaven)) :
    ∀ c ∈ [Instr.spindleStop i, .spindleStopBrake i], exec c s = .next s := by
  have hbarred : ((isKeystone i || isPair i) && decide (s.mode ≠ mDormant) && decide (s.mode ≠ mHaven)) = false := by
    rcases hmode with h | h <;> simp [h]
  intro c hc
  fin_cases hc
  · show execSpindleStop i s = _
    rw [execSpindleStop, State.writeMilCmd, hbarred]
    rfl
  · show execSpindleStopBrake i s = _
    rw [execSpindleStopBrake, State.writeMilCmd, hbarred]
    rfl

theorem millstoneTick_next (s : State) (volts amps : Phases) :
    exec (.millstoneTick volts amps) s = .next (s.milTick volts amps) := by
  show execMillstoneTick volts amps s = _
  simp [execMillstoneTick]

theorem catchWindowEnd_elsewhere (s : State) (hearly : (s.milSt ≠ miCatch ∨ s.catchOver = false)) :
    exec .catchWindowEnd s = .next s := by
  show execCatchWindowEnd s = _
  refine if_neg ?_
  rcases hearly with h | h <;> simp [h]

theorem catchWindowEnd_seeds (s s1 : State) (hcatch : s.milSt = miCatch) (hover : s.catchOver = true)
    (hbemf : s.mil.bemf = true)
    (hspeed : s1 = (s.setSpeed (s.rpmOf s.mil.moved s.mil.ticks)).raise R.MIL_EVT F.MIL_EVT_CATCH_DONE)
    (haction : s1.catchAction true = 1) (htarget : s1.targetRpm ≠ 0) :
    exec .catchWindowEnd s
      = .next ((s1.wr R.MIL_CATCH_RES
          (word (2 ^ 31 + 2 ^ 24 + min 1023 (roundDiv (10 * s1.mil.rpmC.natAbs) s1.targetRpm).toNat))).seed
              miHfi s1.mil) := by
  show execCatchWindowEnd s = _
  rw [execCatchWindowEnd, if_pos (by simp [hcatch, hover]), State.catchEnd, hbemf,
    if_pos rfl, ← hspeed, haction, State.catchGo, catchResult_slow htarget, wr_mil, ok]

theorem brakeTimeout_faults (s : State) (hbrake : s.milSt = miBrake) (hstayed : s.stayed 5000 = true) :
    exec .brakeTimeout s = .next (((s.toFault 1).raise R.MIL_EVT F.MIL_EVT_REV_STUCK).carry 18 2 false) := by
  show execBrakeTimeout s = _
  rw [execBrakeTimeout, if_pos (by simp [hbrake, hstayed]), State.report, ok]

theorem alignDone_of_milSt_not_retryWait_ms (s : State) (hmilSt : s.milSt = miAlign)
    (hretryWait : s.mil.retryWait = false) (hms : s.stayed (s.rf R.MIL_RAMP F.MIL_RAMP_ALIGN_MS + 4) = true) :
    exec .alignDone s
      = .next ((s.toDriven miHfi 0).setMil { (s.toDriven miHfi 0).mil with
          theta := if s.mil.peaks.2 < s.mil.peaks.1 then 0 else 32768, omega := 0 }).showAngle := by
  show execAlignDone s = _
  simp [execAlignDone, hmilSt, hretryWait, hms]

theorem lockedRotor_gives_up (s : State) (hhfi : s.milSt = miHfi)
    (hcalm : s.calmFor (s.rf R.MIL_LR F.MIL_LR_LR_MS) = true)
    (hretries : s.rf R.MIL_LR F.MIL_LR_LR_RETRY ≤ s.mil.retries) :
    exec .lockedRotor s = .next (((s.raise R.MIL_EVT F.MIL_EVT_LOCKED).toFault 2).carry 18 2 false) := by
  have hretry : ¬ s.mil.retries < s.rf R.MIL_LR F.MIL_LR_LR_RETRY := not_lt.mpr hretries
  show execLockedRotor s = _
  rw [execLockedRotor, if_neg (by simp [hhfi, hcalm])]
  dsimp only
  rw [if_neg (by simpa using hretry), State.report, ok]

theorem lockedRotor_of_not_ms (s : State) (hms : (s.milSt ≠ miHfi ∨ s.calmFor (s.rf R.MIL_LR F.MIL_LR_LR_MS) = false))
    : exec .lockedRotor s = .next s := by
  show execLockedRotor s = _
  simp [execLockedRotor, hms]

theorem lockedRotorRetry_of_milSt_retryWait_ms (s : State) (hmilSt : s.milSt = miAlign)
    (hretryWait : s.mil.retryWait = true) (hms : s.stayed (s.rf R.MIL_LR F.MIL_LR_LR_WAIT_MS) = true) :
    exec .lockedRotorRetry s = .next (s.setMil { s.mil with retryWait := false, stay := 0 }).milShow := by
  show execLockedRotorRetry s = _
  simp [execLockedRotorRetry, hmilSt, hretryWait, hms]

theorem rotorLoss_while_running (s : State) (hmain : s.onHoldup = false) (hrun : s.milSt = miRun)
    (hdue : s.lossDue = true) : exec .rotorLoss s = .next s.rotorLoss := by
  show execRotorLoss s = _
  rw [execRotorLoss, if_pos hdue, State.rotorLost, if_neg (by simp [hmain]), if_pos (Or.inr hrun), ok]

theorem rotorLoss_of_not_lossDue (s : State) (hlossDue : s.lossDue = false) : exec .rotorLoss s = .next s := by
  show execRotorLoss s = _
  simp [execRotorLoss, hlossDue]

theorem rotorReacquired_ramps (s t : State) (a b c : Nat × Nat × Bool) (hreacq : s.milSt = miReacq)
    (hreacquired : s.reacquired = true) (hcross : s.mil.cross = [a, b, c])
    (hspeed : t = s.setSpeed (s.rpmOf 65536 (3 * (a.1 - c.1)))) :
    exec .rotorReacquired s
      = .next ((t.toDriven miRamp (t.speedQ t.mil.rpmC)).setMil { (t.toDriven miRamp (t.speedQ t.mil.rpmC)).mil with
          theta := crossAngle a.2.1 a.2.2,
          omega := if 3 * (a.1 - c.1) = 0 then 0 else ((65536 / (3 * (a.1 - c.1)) : Nat) : Int) }).showAngle := by
  subst hspeed
  show execRotorReacquired s = _
  rw [execRotorReacquired, if_pos (by simp [hreacq, hreacquired]), State.reacquire, hcross, ok]

theorem reacquisitionFail_of_milSt_reacqLost (s : State) (hmilSt : s.milSt = miReacq)
    (hreacqLost : s.reacqLost = true) :
    exec .reacquisitionFail s = .next (s.toCatch.raise R.MIL_EVT F.MIL_EVT_ACQ_FAIL) := by
  show execReacquisitionFail s = _
  simp [execReacquisitionFail, hmilSt, hreacqLost]

theorem flyingLimit_of_allParked (s : State) (hallParked : s.allParked = true) : exec .flyingLimit s = .next s := by
  show execFlyingLimit s = _
  simp [execFlyingLimit, hallParked, State.flyDue, State.declareFly]

theorem flyingLimit_of_not_flyDue (s : State) (hflyDue : s.flyDue = false) : exec .flyingLimit s = .next s := by
  show execFlyingLimit s = _
  simp [execFlyingLimit, hflyDue]

theorem flyingLimit_declares (s : State) (hdue : s.flyDue = true) (hparked : s.allParked = false)
    (hfly : s.flag R.MIL_STAT F.MIL_STAT_FLY = false) :
    exec .flyingLimit s
      = .next ((((s.raise R.MIL_STAT F.MIL_STAT_FLY).raise R.MIL_EVT
          F.MIL_EVT_FLY).milShow.refreshPermits).unloadAll ucSpeed) := by
  show execFlyingLimit s = _
  rw [execFlyingLimit, if_pos hdue, State.declareFly, if_neg (by simp [hparked])]
  dsimp only
  rw [if_neg (by simp [hfly]), ok]

/-- Settles O49: the start goes by what the catch finds, and a failure is shown and reported. -/
theorem spindleRuns : Obligations.SpindleRuns :=
  ⟨spindleStart_from_idle, spindleStop_of_spinning, spindleStopBrake_of_mode, spindleCommands_refused_at_rest,
    millstoneTick_next, catchWindowEnd_elsewhere, catchWindowEnd_seeds, brakeTimeout_faults,
    alignDone_of_milSt_not_retryWait_ms, lockedRotor_gives_up, lockedRotor_of_not_ms,
    lockedRotorRetry_of_milSt_retryWait_ms, rotorLoss_while_running, rotorLoss_of_not_lossDue,
    rotorReacquired_ramps, reacquisitionFail_of_milSt_reacqLost, flyingLimit_of_allParked,
    flyingLimit_of_not_flyDue, flyingLimit_declares⟩

end Sys2Proof.Machine
end
section
/-!
The power (R330 to R352).
-/

namespace Sys2Proof.Machine
@[simp] theorem mainUp_charger (s : State) : s.charger.bls.mainUp = s.bls.mainUp := by
  unfold State.charger
  dsimp only
  split_ifs <;> rfl

@[simp] theorem sys_charger (s : State) : s.charger.sys = s.sys := by
  unfold State.charger
  dsimp only
  split_ifs <;> rfl

theorem charging_charger_of_busy {s : State} (h : s.flag R.BLS_MEAS_CTL F.BLS_MEAS_CTL_BUSY = true) :
    s.charger.bls.charging = false := by
  unfold State.charger
  rw [h]
  cases hcharging : s.bls.charging <;> simp [hcharging, State.setBls, State.emit]

theorem ballastCheck_of_passed {s : State} {k : Kenul} (hkenul : s.kenul = some k) (hself : s.bls.selfTest = true)
    (hlink : s.flag R.BLS_STAT F.BLS_STAT_LINK = true) (hready : s.ready .ballast = false) :
    s.ballastCheck = ((s.setReady .ballast true).setBls { s.bls with
      armed := s.bls.armed && s.bls.erased, done := s.bls.done && s.bls.erased, erased := true,
      paRails := k.present }).enumAll := by
  simp only [State.ballastCheck, hkenul, hself, hlink, hready, Bool.and_self, if_true, Bool.false_eq_true, if_false]

@[simp] theorem rd_stageDrop (s : State) (g o : Nat) : (s.stageDrop g).rd o = s.rd o := by
  unfold State.stageDrop
  split <;> rfl

@[simp] theorem byte_stageDrop (s : State) (g a : Nat) : (s.stageDrop g).byte a = s.byte a := by
  unfold State.stageDrop
  split <;> rfl

@[simp] theorem rf_stageDrop (s : State) (g o : Nat) (f : Fld) : (s.stageDrop g).rf o f = s.rf o f :=
  rf_congr (rd_stageDrop s g o) f

@[simp] theorem onlyRegs_stageDrop (l : List Nat) (s t : State) (g : Nat) :
    OnlyRegs l s (t.stageDrop g) ↔ OnlyRegs l s t := by
  simp only [OnlyRegs, rd_stageDrop, byte_stageDrop]

theorem trips_stageDrop (s : State) (g : Nat) : (s.stageDrop g).bls.trips = s.bls.trips := by
  unfold State.stageDrop
  split <;> rfl

/-- A charge that failed switches the charger off: it does not go on before the next start. -/
theorem charger_of_fail {s : State} (hfail : s.bls.chargeFail = true) (hcharging : s.bls.charging = true) :
    s.charger = (s.setBls { s.bls with charging := false }).emit (.charger 0 0) := by
  simp [State.charger, hfail, hcharging]
theorem auxInputUp_completes (s : State) :
    Completes .auxInputUp s fun t =>
      t.flag R.BLS_STAT F.BLS_STAT_AUX_OK = true ∧ t.sys.auxUp = true ∧ OnlyRegs [R.BLS_STAT] s t := by
  show ∃ t, execAuxInputUp s = .next t ∧ _
  simp [execAuxInputUp, ok]

theorem mainInputUp_in_range (s : State) (mv : Nat) (hlow : 10800 < mv) (hhigh : mv ≤ 13200) :
    Completes (.mainInputUp mv) s fun t =>
      t.flag R.BLS_STAT F.BLS_STAT_MAIN_OK = true ∧ t.bls.mainUp = true ∧ t.sys.mainMv = mv ∧
          OnlyRegs [R.BLS_STAT] s t := by
  have hrange : mainInRange mv = true := by
    simp [mainInRange]
    omega
  show ∃ t, execMainInputUp mv s = .next t ∧ _
  rw [execMainInputUp, hrange, ok]
  refine ⟨_, rfl, ?_, ?_, ?_, ?_⟩
  · rw [flag_charger]
    simp -implicitDefEqProofs [State.setBls]
  · rw [mainUp_charger]
    simp [State.setBls, hlow]
  · rw [sys_charger]
  · simp [State.setBls]

theorem mainInputUp_over_range (s : State) (mv : Nat) (hhigh : 13200 < mv) :
    Completes (.mainInputUp mv) s fun t =>
      t.flag R.BLS_STAT F.BLS_STAT_MAIN_OK = false ∧ OnlyRegs [R.BLS_STAT] s t := by
  have hrange : mainInRange mv = false := by
    simp [mainInRange]
    omega
  show ∃ t, execMainInputUp mv s = .next t ∧ _
  rw [execMainInputUp, hrange, ok]
  refine ⟨_, rfl, ?_, ?_⟩
  · rw [flag_charger]
    simp -implicitDefEqProofs [State.setBls]
  · simp [State.setBls]

theorem railInRegulation_next_rail (s : State) (r : Fin 14) (mv : Int) (haux : s.sys.auxUp = true)
    (hmain : s.bls.mainUp = true) (hturn : s.bls.rails = r.val) (hrail : r.val < 5)
    (hwithin : railWithin r.val mv 3 = true) :
    Completes (.railInRegulation r mv) s fun t => t.bls.rails = r.val + 1 ∧ SameRegs s t := by
  refine completes_of_next (t := s.setBls { s.bls with rails := r.val + 1 }) ?_ ⟨rfl, sameRegs_of_eq rfl rfl⟩
  show execRailInRegulation r mv s = _
  rw [execRailInRegulation, if_neg (by simp [hwithin]), if_neg (by omega), if_pos (by simp [haux, hmain, hturn])]
  dsimp only
  rw [if_neg (by omega), ok]

theorem railInRegulation_last_rail (s : State) (mv : Int) (haux : s.sys.auxUp = true) (hmain : s.bls.mainUp = true)
    (hturn : s.bls.rails = 5) (hwithin : railWithin 5 mv 3 = true) :
    Completes (.railInRegulation 5 mv) s fun t =>
      t.bls.rails = 6 ∧ t.flag R.BLS_STAT F.BLS_STAT_RAILS_OK = true ∧ OnlyRegs [R.BLS_STAT] s t := by
  refine completes_of_next (t := (s.setBls { s.bls with rails := 6 }).raise R.BLS_STAT F.BLS_STAT_RAILS_OK) ?_
    ⟨rfl, by simp, by simp [State.setBls]⟩
  show execRailInRegulation 5 mv s = _
  rw [execRailInRegulation, if_neg (by simp [hwithin]), if_neg (by decide), if_pos (by simp [haux, hmain, hturn])]
  dsimp only
  rw [if_pos (by decide), ok]
  rfl

theorem railInRegulation_of_not_railWithin (s : State) (r : Fin 14) (mv : Int)
    (hrailWithin : railWithin r.val mv 3 = false) : exec (.railInRegulation r mv) s = .next s := by
  show execRailInRegulation r mv s = _
  simp [execRailInRegulation, hrailWithin]

theorem socRelease_false_of_rails_not_released (s : State) (b a : Fin 4) (hrails : s.bls.rails = 6)
    (hreleased : s.bls.released = false) :
    exec (.socRelease b a false) s
      = .next ((s.setBls { s.bls with released := true, held := false }).powerOn b.val a.val false) := by
  show execSocRelease b a false s = _
  simp [execSocRelease, hrails, hreleased]

theorem socRelease_false_of_released (s : State) (b a : Fin 4) (hreleased : s.bls.released = true) :
    exec (.socRelease b a false) s = .next s := by
  show execSocRelease b a false s = _
  simp [execSocRelease, hreleased]

theorem railFault_resets (s : State) (r : Fin 14) (mv : Int) (hsoc : r.val < 6) (hup : r.val < s.bls.rails)
    (hout : railWithin r.val mv 6 = false) :
    exec (.railFault r mv) s
      = .next (((s.setBls { s.bls with rails := r.val, released := false, held := true }).wf R.BLS_STAT
          F.BLS_STAT_RAILS_OK 0).beginRetract.socReset) := by
  show execRailFault r mv s = _
  rw [execRailFault, if_neg (by simp [hout]), if_neg (by omega), if_neg (by omega), ok]

theorem railFault_of_railWithin (s : State) (r : Fin 14) (mv : Int) (hrailWithin : railWithin r.val mv 6 = true) :
    exec (.railFault r mv) s = .next s := by
  show execRailFault r mv s = _
  simp [execRailFault, hrailWithin]

theorem ballastReady_true_of_kenul_link (s : State) (k : Kenul) (hkenul : s.kenul = some k)
    (hlink : s.flag R.BLS_STAT F.BLS_STAT_LINK = true) (hready : s.ready .ballast = true) :
    Completes (.ballastReady true) s fun t =>
      t.ready .ballast = true ∧ t.flag R.BLS_STAT F.BLS_STAT_ARMED = true ∧ t.bls.paRails = k.present ∧
        OnlyRegs [R.BLS_STAT, R.SYS_READY, R.SYS_READY_CHG] s t := by
  show ∃ t, execBallastReady true s = .next t ∧ _
  simp [execBallastReady, hkenul, hlink, hready, State.setBls, State.ballastCheck, ok]

theorem ballastReady_passes (s : State) (k : Kenul) (hkenul : s.kenul = some k)
    (hlink : s.flag R.BLS_STAT F.BLS_STAT_LINK = true) (hready : s.ready .ballast = false) :
    Completes (.ballastReady true) s fun t => ∃ u : State, t = u.enumAll ∧ u.ready .ballast = true ∧
      u.flag R.BLS_STAT F.BLS_STAT_ARMED = true ∧ u.bls.paRails = k.present ∧
        OnlyRegs [R.BLS_STAT, R.SYS_READY, R.SYS_READY_CHG] s u := by
  show ∃ t, execBallastReady true s = .next t ∧ _
  rw [execBallastReady]
  dsimp only
  rw [if_pos rfl, ballastCheck_of_passed (s := (s.setBls { s.bls with selfTest := true }).wf _ _ _) hkenul rfl
    (by simpa [State.setBls] using hlink) (by simpa [State.setBls] using hready), ok]
  refine ⟨_, rfl, _, rfl, ?_, ?_, rfl, ?_⟩
  · simp [State.setBls]
  · simp [State.setBls]
  · simp [State.setBls]

theorem linkHeartbeat_true_of_not_link (s : State) (hlink : s.flag R.BLS_STAT F.BLS_STAT_LINK = false) :
    exec (.linkHeartbeat true) s = .next ((s.raise R.BLS_STAT F.BLS_STAT_LINK).ballastCheck) := by
  show execLinkHeartbeat true s = _
  simp [execLinkHeartbeat, hlink]

theorem linkHeartbeat_true_of_link (s : State) (hlink : s.flag R.BLS_STAT F.BLS_STAT_LINK = true) :
    exec (.linkHeartbeat true) s = .next s := by
  show execLinkHeartbeat true s = _
  simp [execLinkHeartbeat, hlink]

theorem linkHeartbeat_false_next (s : State) :
    exec (.linkHeartbeat false) s = .next (s.countUp R.BLS_LINK_CNT F.BLS_LINK_CNT_CRC_ERR 1) := by
  show execLinkHeartbeat false s = _
  simp [execLinkHeartbeat]

theorem linkWatchdogExpiry_of_link (s : State) (hlink : s.flag R.BLS_STAT F.BLS_STAT_LINK = true) :
    exec .linkWatchdogExpiry s
      = .next ((((s.wf R.BLS_STAT F.BLS_STAT_LINK 0).setReady .ballast false).beginRetract).carry 14 3 false) := by
  show execLinkWatchdogExpiry s = _
  simp [execLinkWatchdogExpiry, hlink, State.report]

theorem stageTrip_without_effect (s : State) (g : Fin 9) (ma : Nat)
    (hquiet : (s.stageRuns g.val = false ∨ ma < tripMa g.val)) : exec (.stageTrip g ma) s = .next s := by
  show execStageTrip g ma s = _
  rw [execStageTrip]
  rcases hquiet with hoff | hlow
  · have hsame : s.stageTrip g.val = s := if_pos (by simp [hoff])
    rw [hsame, ite_self, ok]
  · rw [if_neg (by omega), ok]

theorem stageTrip_first (s : State) (g : Fin 9) (ma : Nat) (hruns : s.stageRuns g.val = true)
    (hnone : s.bls.trips = []) (htrip : tripMa g.val ≤ ma) :
    Completes (.stageTrip g ma) s fun t =>
      t.bls.trips = [(g.val, [s.now])] ∧
        t.rf R.BLS_OCP F.BLS_OCP_TRIPS
          = min (s.rf R.BLS_OCP F.BLS_OCP_TRIPS + 1) (2 ^ (F.BLS_OCP_TRIPS.hi + 1 - F.BLS_OCP_TRIPS.lo) - 1) ∧
        OnlyRegs [R.BLS_OCP] s t := by
  show ∃ t, execStageTrip g ma s = .next t ∧ _
  have hfirst : (spGetD [] s.bls.trips g.val).filter (fun t => s.now < t + 100000) = [] := by
    rw [hnone]
    rfl
  rw [execStageTrip, if_pos htrip, State.stageTrip, if_neg (by simp [hruns]), hfirst]
  dsimp only
  rw [if_neg (by simp), ok]
  refine ⟨_, rfl, ?_, ?_, ?_⟩
  · rw [trips_stageDrop]
    simp [State.setBls, State.countUp, hnone, spSet, spErase, spInsert]
  · simp [State.setBls, State.countUp]
  · simp [State.setBls]

theorem stageUnlatch_next (s : State) (i : Initiator) (v : Word) (hpair : isPair i = true) :
    exec (.stageUnlatch i v) s
      = .next ((s.writeFields R.BLS_OCP v).setBls { (s.writeFields R.BLS_OCP v).bls with
          trips := (s.writeFields R.BLS_OCP v).bls.trips.filter fun q => !bitAt v.toNat q.1 }) := by
  show execStageUnlatch i v s = _
  simp [execStageUnlatch, hpair, State.writeOcp]

theorem regenClamp_completes (s : State) :
    Completes .regenClamp s fun t =>
      t.flag R.BLS_EVT F.BLS_EVT_REGEN_CLAMP = true ∧ OnlyRegs [R.BLS_EVT] s t := by
  show ∃ t, execRegenClamp s = .next t ∧ _
  simp [execRegenClamp, State.setBls, ok]

theorem chargeTimeout_fails (s : State) (hcharging : s.bls.charging = true) (hlow : s.bankMv < 5000)
    (hlate : s.bls.chargeAt + 200000000 ≤ s.now) :
    exec .chargeTimeout s
      = .next ((((s.setBls { s.bls with charging := false, chargeFail := true }).emit (.charger 0 0)).wf R.BLS_STAT
          F.BLS_STAT_BANK_OK 0).carry 16 2 false) := by
  show execChargeTimeout s = _
  rw [execChargeTimeout, State.chargeTimeout, if_pos (by simp [hcharging, hlow, hlate]), State.report]
  dsimp only
  rw [charger_of_fail (s := s.setBls { s.bls with chargeFail := true }) rfl hcharging, ok]
  rfl

theorem chargeTimeout_of_charged_bank (s : State) (hcharged : 5000 ≤ s.bankMv) : exec .chargeTimeout s = .next s := by
  show execChargeTimeout s = _
  rw [execChargeTimeout, State.chargeTimeout, if_neg (by simp; omega), ok]

theorem bankMeasureGo_of_go_not_go (s : State) (i : Initiator) (v : Word) (hpair : isPair i = true)
    (hgo : fget v F.BLS_MEAS_CTL_GO = 1)
    (hgo2 : (s.writeFields R.BLS_MEAS_CTL (fset v F.BLS_MEAS_CTL_GO 0)).onHoldup = false) :
    exec (.bankMeasureGo i v) s
      = .next ((s.writeFields R.BLS_MEAS_CTL (fset v F.BLS_MEAS_CTL_GO 0)).raise R.BLS_MEAS_CTL
          F.BLS_MEAS_CTL_GO).measureStart := by
  show execBankMeasureGo i v s = _
  simp [execBankMeasureGo, hpair, hgo, hgo2, State.writeMeasCtl]

theorem measureTimerExpiry_starts (s : State) (hdue : s.measureDue = true) (hmain : s.onHoldup = false)
    (hidle : s.flag R.BLS_MEAS_CTL F.BLS_MEAS_CTL_BUSY = false) :
    Completes .measureTimerExpiry s fun t =>
      t.flag R.BLS_MEAS_CTL F.BLS_MEAS_CTL_BUSY = true ∧ t.bls.charging = false ∧ OnlyRegs [R.BLS_MEAS_CTL] s t := by
  show ∃ t, execMeasureTimerExpiry s = .next t ∧ _
  rw [execMeasureTimerExpiry, if_pos hdue, State.measureStart, if_neg (by simp [hmain, hidle]), ok]
  refine ⟨_, rfl, ?_, ?_, ?_⟩
  · rw [flag_charger]
    simp [State.setBls]
  · exact charging_charger_of_busy (by simp [State.setBls])
  · simp [State.setBls]

theorem bankMeasureDone_of_busy (s : State) (st fall us : Nat)
    (_hbusy : s.flag R.BLS_MEAS_CTL F.BLS_MEAS_CTL_BUSY = true) :
    exec (.bankMeasureDone st fall us) s = .next (s.measureEnd st fall us) := by
  show execBankMeasureDone st fall us s = _
  simp [execBankMeasureDone]

theorem vaultAllowanceUpdate_shows (s : State) (mv : Nat) (hmv : mv ≤ 0xFFFF) :
    Completes (.vaultAllowanceUpdate mv) s fun t =>
      t.rd R.BLS_BANK_V = word mv ∧ OnlyRegs [R.BLS_BANK_V, R.BLS_VAULT] s t := by
  show ∃ t, execVaultAllowanceUpdate mv s = .next t ∧ _
  rw [execVaultAllowanceUpdate, State.vaultUpdate, Nat.min_eq_left hmv, ok]
  refine ⟨_, rfl, ?_, ?_⟩
  · rw [rd_setAllow, rd_wr_ne _ _ (by decide), rd_wr_self]
  · simp

theorem thermalLevelChange_next (s : State) (d : Int) : exec (.thermalLevelChange d) s = .next (s.setTemp d) := by
  show execThermalLevelChange d s = _
  simp [execThermalLevelChange]

theorem powerLoss_of_not_onHoldup_toHoldup (s : State) (mv : Nat) (aux : Bool) (honHoldup : s.onHoldup = false)
    (htoHoldup : ((s.toHoldup mv aux).requestHaven hvPowerLoss).bankOk = true)
    (htoHoldup2 : ((s.toHoldup mv aux).requestHaven hvPowerLoss).vretMv < mv) :
    exec (.powerLoss mv aux) s = .next ((s.toHoldup mv aux).requestHaven hvPowerLoss) := by
  show execPowerLoss mv aux s = _
  simp [execPowerLoss, honHoldup, htoHoldup, htoHoldup2]

theorem powerLoss_of_not_onHoldup_not_toHoldup (s : State) (mv : Nat) (aux : Bool) (honHoldup : s.onHoldup = false)
    (htoHoldup : ((s.toHoldup mv aux).requestHaven hvPowerLoss).bankOk = false) :
    exec (.powerLoss mv aux) s
      = .next ((s.toHoldup mv aux).requestHaven hvPowerLoss).beginRetract.advanceHaven := by
  show execPowerLoss mv aux s = _
  simp [execPowerLoss, honHoldup, htoHoldup]

theorem powerLoss_of_onHoldup (s : State) (mv : Nat) (aux : Bool) (honHoldup : s.onHoldup = true) :
    exec (.powerLoss mv aux) s = .next s := by
  show execPowerLoss mv aux s = _
  simp [execPowerLoss, honHoldup]

theorem vaultFlushDone_of_flushOver (s : State) (hflushOver : s.flushOver = true) :
    exec .vaultFlushDone s = .next s.endFlush.advanceHaven := by
  show execVaultFlushDone s = _
  simp [execVaultFlushDone, hflushOver]

theorem vaultFlushDone_of_not_flushOver (s : State) (hflushOver : s.flushOver = false) :
    exec .vaultFlushDone s = .next s := by
  show execVaultFlushDone s = _
  simp [execVaultFlushDone, hflushOver]

theorem bankAtVret_of_onHoldup_wr (s : State) (honHoldup : s.onHoldup = true)
    (hwr : ((s.wr R.BLS_BANK_V (word s.vretMv)).abandonFlush).allParked = true) :
    exec .bankAtVret s = .next ((s.wr R.BLS_BANK_V (word s.vretMv)).abandonFlush).advanceHaven := by
  show execBankAtVret s = _
  simp [execBankAtVret, honHoldup, hwr]

theorem bankAtVret_of_onHoldup_not_wr (s : State) (honHoldup : s.onHoldup = true)
    (hwr : ((s.wr R.BLS_BANK_V (word s.vretMv)).abandonFlush).allParked = false) :
    exec .bankAtVret s = .next ((s.wr R.BLS_BANK_V (word s.vretMv)).abandonFlush).beginRetract.advanceHaven := by
  show execBankAtVret s = _
  simp [execBankAtVret, honHoldup, hwr]

theorem mainReturn_without_holdup (s : State) (mv : Nat) (hmain : s.onHoldup = false) (hlow : 10800 ≤ mv)
    (hhigh : mv ≤ 13200) :
    Completes (.mainReturn mv) s fun t =>
      t.flag R.BLS_STAT F.BLS_STAT_MAIN_OK = true ∧ t.sys.mainMv = mv ∧ OnlyRegs [R.BLS_STAT] s t := by
  have hrange : mainInRange mv = true := by simp [mainInRange, hlow, hhigh]
  have hmain' : (s.wf R.BLS_STAT F.BLS_STAT_MAIN_OK 1).flag R.BLS_STAT F.BLS_STAT_ON_HOLDUP = false := by
    simpa [State.onHoldup] using hmain
  refine completes_of_next (t := { s.wf R.BLS_STAT F.BLS_STAT_MAIN_OK 1 with sys := { s.sys with mainMv := mv } })
    ?_ ⟨?_, rfl, ?_⟩
  · show execMainReturn mv s = _
    rw [execMainReturn, if_neg (by omega), hrange]
    exact if_pos (by rw [Bool.not_eq_true']; exact hmain')
  · show (s.wf R.BLS_STAT F.BLS_STAT_MAIN_OK 1).flag _ _ = true
    simp
  · show OnlyRegs _ _ (s.wf R.BLS_STAT F.BLS_STAT_MAIN_OK 1)
    simp

theorem mainReturn_of_mv (s : State) (mv : Nat) (hmv : mv < 10800) : exec (.mainReturn mv) s = .next s := by
  show execMainReturn mv s = _
  simp [execMainReturn, hmv]

theorem emergencyRetract_of_retractDue (s : State) (hretractDue : s.retractDue = true) :
    exec .emergencyRetract s = .next s.beginRetract := by
  show execEmergencyRetract s = _
  simp [execEmergencyRetract, hretractDue]

theorem emergencyRetract_of_not_retractDue (s : State) (hretractDue : s.retractDue = false) :
    exec .emergencyRetract s = .next s := by
  show execEmergencyRetract s = _
  simp [execEmergencyRetract, hretractDue]

theorem retractComplete_next (s : State) : exec .retractComplete s = .next s.endRetract.advanceHaven := by
  show execRetractComplete s = _
  simp [execRetractComplete]

/-- Settles O50: an input, a rail or a stage is judged when it comes, and the charger follows. -/
theorem powerIsWatched : Obligations.PowerIsWatched :=
  ⟨auxInputUp_completes, mainInputUp_in_range, mainInputUp_over_range, railInRegulation_next_rail,
    railInRegulation_last_rail, railInRegulation_of_not_railWithin, socRelease_false_of_rails_not_released,
    socRelease_false_of_released, railFault_resets, railFault_of_railWithin, ballastReady_true_of_kenul_link,
    ballastReady_passes, linkHeartbeat_true_of_not_link, linkHeartbeat_true_of_link, linkHeartbeat_false_next,
    linkWatchdogExpiry_of_link, stageTrip_without_effect, stageTrip_first, stageUnlatch_next, regenClamp_completes,
    chargeTimeout_fails, chargeTimeout_of_charged_bank, bankMeasureGo_of_go_not_go, measureTimerExpiry_starts,
    bankMeasureDone_of_busy, vaultAllowanceUpdate_shows, thermalLevelChange_next,
    powerLoss_of_not_onHoldup_toHoldup, powerLoss_of_not_onHoldup_not_toHoldup, powerLoss_of_onHoldup,
    vaultFlushDone_of_flushOver, vaultFlushDone_of_not_flushOver, bankAtVret_of_onHoldup_wr,
    bankAtVret_of_onHoldup_not_wr, mainReturn_without_holdup, mainReturn_of_mv, emergencyRetract_of_retractDue,
    emergencyRetract_of_not_retractDue, retractComplete_next⟩

end Sys2Proof.Machine
end
section
/-!
The stack and the side door (R353 to R371).
-/

namespace Sys2Proof.Machine
@[simp] theorem ready_bootStages (s : State) (r : Ready) : s.bootStages.ready r = s.ready r := by
  unfold State.bootStages
  split
  · rfl
  · simp

@[simp] theorem onlyRegs_bootStages {l : List Nat} (h : R.SYS_KENUL_STATUS ∈ l) (s t : State) :
    OnlyRegs l s t.bootStages ↔ OnlyRegs l s t := by
  unfold State.bootStages
  split
  · rfl
  · simp [h]

theorem upsetGran_zero (s : State) (g : Nat) : s.upsetGran g 0 = s := by simp [State.upsetGran]

theorem rd_replaceBed (s : State) (b : BedState) (o : Nat) : ({ s with bed := b } : State).rd o = s.rd o := (rfl)

theorem ppr_upsetGran (s : State) (g u : Nat) : (s.upsetGran g u).bed.ppr = s.bed.ppr := by
  unfold State.upsetGran
  split <;> rfl

theorem held_upsetGran (s : State) (g u : Nat) : (s.upsetGran g u).bed.held = s.bed.held := by
  unfold State.upsetGran
  split <;> rfl

theorem rd_upsetGran (s : State) (g u o : Nat) : (s.upsetGran g u).rd o = s.rd o := by
  unfold State.upsetGran
  split <;> rfl

theorem byte_upsetGran (s : State) (g u a : Nat) : (s.upsetGran g u).byte a = s.byte a := by
  unfold State.upsetGran
  split <;> rfl

@[simp] theorem ppr_spareRow (s : State) (r : Nat × Nat × Nat) : (s.spareRow r).bed.ppr = s.bed.ppr :=
  foldl_keeps (fun t => t.bed.ppr) _ (fun t g => ppr_upsetGran (t.free 576).2 g _) _ s

@[simp] theorem held_spareRow (s : State) (r : Nat × Nat × Nat) : (s.spareRow r).bed.held = s.bed.held :=
  foldl_keeps (fun t => t.bed.held) _ (fun t g => held_upsetGran (t.free 576).2 g _) _ s

@[simp] theorem rd_spareRow (s : State) (r : Nat × Nat × Nat) (o : Nat) : (s.spareRow r).rd o = s.rd o :=
  foldl_keeps (fun t => t.rd o) _ (fun t g => rd_upsetGran (t.free 576).2 g _ o) _ s

@[simp] theorem byte_spareRow (s : State) (r : Nat × Nat × Nat) (a : Nat) : (s.spareRow r).byte a = s.byte a :=
  foldl_keeps (fun t => t.byte a) _ (fun t g => byte_upsetGran (t.free 576).2 g _ a) _ s

@[simp] theorem flag_spareRow (s : State) (r : Nat × Nat × Nat) (o : Nat) (f : Fld) :
    (s.spareRow r).flag o f = s.flag o f := flag_congr (rd_spareRow s r o) f

@[simp] theorem onlyRegs_spareRow (l : List Nat) (s t : State) (r : Nat × Nat × Nat) :
    OnlyRegs l s (t.spareRow r) ↔ OnlyRegs l s t := by
  simp only [OnlyRegs, rd_spareRow, byte_spareRow]

@[simp] theorem ppr_rowRepaired (s : State) (r : Nat × Nat × Nat) : (s.rowRepaired false r).bed.ppr
    = s.bed.ppr := (rfl)

@[simp] theorem held_rowRepaired (s : State) (r : Nat × Nat × Nat) :
    (s.rowRepaired false r).bed.held = s.bed.held := (rfl)

@[simp] theorem busy_rowRepaired (s : State) (r : Nat × Nat × Nat) :
    (s.rowRepaired false r).flag R.BED_PPR_STAT F.BED_PPR_STAT_BUSY = s.flag R.BED_PPR_STAT F.BED_PPR_STAT_BUSY := by
  simp [State.rowRepaired]

@[simp] theorem onlyRegs_rowRepaired {l : List Nat} (h : R.BED_PPR_STAT ∈ l) (s t : State) (r : Nat × Nat × Nat) :
    OnlyRegs l s (t.rowRepaired false r) ↔ OnlyRegs l s t := by
  simp [State.rowRepaired, h]

/-- What a soft repair whose rewrite is not clean leaves, before what was held runs. -/
def State.softLeft (s : State) (r : Nat × Nat × Nat) : State := ((s.rowRepaired false r).spareRow r).pprResult 4

theorem ppr_softLeft (s : State) (r : Nat × Nat × Nat) : (s.softLeft r).bed.ppr = s.bed.ppr := by
  rw [State.softLeft, State.pprResult]
  simp

theorem held_softLeft (s : State) (r : Nat × Nat × Nat) : (s.softLeft r).bed.held = s.bed.held := by
  rw [State.softLeft, State.pprResult]
  simp

theorem busy_softLeft (s : State) (r : Nat × Nat × Nat) :
    (s.softLeft r).flag R.BED_PPR_STAT F.BED_PPR_STAT_BUSY = s.flag R.BED_PPR_STAT F.BED_PPR_STAT_BUSY := by
  rw [State.softLeft, State.pprResult]
  simp

theorem result_softLeft (s : State) (r : Nat × Nat × Nat) :
    (s.softLeft r).rf R.BED_PPR_STAT F.BED_PPR_STAT_RESULT = 4 := by
  rw [State.softLeft, State.pprResult]
  simp

theorem onlyRegs_softLeft {l : List Nat} (h : R.BED_PPR_STAT ∈ l) (s t : State) (r : Nat × Nat × Nat) :
    OnlyRegs l s (t.softLeft r) ↔ OnlyRegs l s t := by
  rw [State.softLeft, State.pprResult]
  simp [h]

/-- A line that is not in the cache has no array to check. -/
theorem shaleArray_of_no_line {s : State} {l : Nat} (h : s.shlLine l = none) (array : Fin 4) :
    s.shaleArray l array = (0, s) := by simp [State.shaleArray, h]
theorem hbmTrainingDone_completes (s : State) (hready : s.ready .bedrock = false) (hquiet : spGetD 0 s.tgt.line 8 = 0)
    (hheld : s.bed.held = []) :
    Completes .hbmTrainingDone s fun t =>
        t.ready .bedrock = true ∧ OnlyRegs [R.SYS_READY, R.SYS_READY_CHG, R.SYS_KENUL_STATUS] s t := by
  refine completes_of_next (t := ({ s with bed := { s.bed with held := [] } }.setReady .bedrock true).bootStages) ?_
    ⟨?_, ?_⟩
  · show execHbmTrainingDone s = _
    rw [execHbmTrainingDone, if_neg (by simp [hready, hquiet]), hheld]
    rfl
  · rw [ready_bootStages]
    exact ready_setReady_self _ _ _
  · rw [onlyRegs_bootStages (by simp)]
    simp

theorem hbmTrainingFail_of_not_ready (s : State) (pc : Fin 16) (hready : s.ready .bedrock = false) :
    exec (.hbmTrainingFail pc) s = .next (s.driveLine 8 3) := by
  show execHbmTrainingFail pc s = _
  simp [execHbmTrainingFail, hready]

theorem bedrockWaitTimeout_of_not_ready (s : State) (hready : s.ready .bedrock = false)
    (hready2 : s.ready .kenul = false) :
    exec .bedrockWaitTimeout s = .next { s with sys := { s.sys with bootGaveUp := true } }.sidebandUp := by
  show execBedrockWaitTimeout s = _
  simp [execBedrockWaitTimeout, hready, hready2]

theorem hbmRead_of_not_ready
    (s : State) (c : Fin 6) (o : BitVec 34) (u : BitVec 576) (x : Fin 4) (g : Option (Fin 32))
    (hready : s.ready .bedrock = false) :
    Completes (.hbmRead c o u x g) s fun t =>
      t.bed.held = s.bed.held ++ [.read c.val o.toNat u.toNat x (g.map Fin.val)] ∧ SameRegs s t := by
  show ∃ t, execHbmRead c o u x g s = .next t ∧ _
  simp [execHbmRead, hready, State.hbmWaits, State.holdHbm, ok]

theorem hbmRead_of_no_line (s : State) (c : Fin 6) (o : BitVec 34) (hready : s.ready .bedrock = true)
    (hppr : s.bed.ppr = none) (hline : s.shlLine (o.toNat / 64 / 2) = none) :
    exec (.hbmRead c o 0 0 none) s
      = .next (match (s.readGran c.val (o.toNat / 64)).1 with
        | some d => (s.readGran c.val (o.toNat / 64)).2.emit (.signal 0x07 [1, d])
        | none => (s.readGran c.val (o.toNat / 64)).2.emit (.signal 0x07 [0])) := by
  have hheld : s.hbmWaits o.toNat 1 = false := by simp [State.hbmWaits, State.pprHolds, hready, hppr]
  show execHbmRead c o 0 0 none s = _
  rw [execHbmRead, if_neg (by simp [hheld]), State.hbmReadCmd]
  simp only [BitVec.ofNat_eq_ofNat, BitVec.toNat_zero, upsetGran_zero, Option.map_none]
  rw [shaleArray_of_no_line hline, ok]
  rfl

theorem hbmWrite_of_not_ready (s : State) (c : Fin 6) (o : BitVec 34) (n v : Nat) (g : Option (Fin 32))
    (hready : s.ready .bedrock = false) :
    Completes (.hbmWrite c o n v g) s fun t =>
      t.bed.held = s.bed.held ++ [.write c.val o.toNat n v (g.map Fin.val)] ∧ SameRegs s t := by
  show ∃ t, execHbmWrite c o n v g s = .next t ∧ _
  simp [execHbmWrite, hready, State.hbmWaits, State.holdHbm, ok]

theorem hbmWrite_none_of_ppr (s : State) (c : Fin 6) (o : BitVec 34) (n v : Nat) (hready : s.ready .bedrock = true)
    (hppr : s.bed.ppr = none) :
    exec (.hbmWrite c o n v none) s
      = .next ((s.hbmWrite c.val o.toNat n v).2.emit (.signal 0x07 [b2n (s.hbmWrite c.val o.toNat n v).1])) := by
  show execHbmWrite c o n v none s = _
  simp [execHbmWrite, hready, hppr, State.hbmWaits, State.hbmWriteCmd, State.pprHolds]

theorem idleClaim_claims (s : State) (b : Fin 262144) (hbarred : s.idleBarred (65536 * b.val) 65536 = false)
    (hclaim : s.flag R.BED_TUM_CTL F.BED_TUM_CTL_CLAIM = true) (hnew : s.bed.claims.contains b.val = false) :
    Completes (.idleClaim b) s fun t => t.bed.claims = b.val :: s.bed.claims ∧ OnlyRegs [R.BED_CLAIM] s t := by
  refine completes_of_next (t := { s with bed := { s.bed with claims := b.val :: s.bed.claims } }.countUp R.BED_CLAIM
      F.BED_CLAIM_CLAIMED 1) ?_ ⟨rfl, by simp⟩
  show execIdleClaim b s = _
  rw [execIdleClaim, if_pos (by simp [hclaim, hbarred]), State.claimBlock, if_neg (by rw [hnew]; decide), ok]

theorem idleClaim_of_idleBarred (s : State) (b : Fin 262144) (hidleBarred : s.idleBarred (65536 * b.val) 65536 = true)
    : exec (.idleClaim b) s = .next s := by
  show execIdleClaim b s = _
  simp [execIdleClaim, hidleBarred]

theorem hbmTempRead_sets_refresh (s : State) (t : Int) :
    Completes (.hbmTempRead t) s fun u =>
      u.rf R.BED_STAT F.BED_STAT_REF = refRate (s.rf R.BED_STAT F.BED_STAT_REF) t ∧ OnlyRegs [R.BED_STAT] s u := by
  have hrate : refRate (s.rf R.BED_STAT F.BED_STAT_REF) t < 4 := by
    unfold refRate
    split_ifs <;> decide
  refine completes_of_next (t := (s.wf R.BED_STAT F.BED_STAT_TEMP (bitsOf 10 t)).wf R.BED_STAT F.BED_STAT_REF
    (refRate (s.rf R.BED_STAT F.BED_STAT_REF) t)) rfl ⟨?_, by simp⟩
  rw [rf_wf_same _ _ _ (by decide) (by decide)]
  exact Nat.mod_eq_of_lt hrate

theorem hbmRefresh_completes (s : State) :
    Completes .hbmRefresh s fun t => t.bed.refreshes = s.bed.refreshes + 1 ∧ SameRegs s t := by
  show ∃ t, execHbmRefresh s = .next t ∧ _
  simp [execHbmRefresh, ok]

theorem arbitrationWindow_completes (s : State) :
    Completes .arbitrationWindow s fun t => t.bed.served = [] ∧ SameRegs s t := by
  show ∃ t, execArbitrationWindow s = .next t ∧ _
  simp [execArbitrationWindow, ok]

theorem pprSoft_true_of_op_not_busy_entry (s : State) (i : Initiator) (v : Word) (hpair : isPair i = true)
    (hop : fget v F.BED_PPR_CMD_OP = 1) (hbusy : s.flag R.BED_PPR_STAT F.BED_PPR_STAT_BUSY = false)
    (hentry : s.flag (R.BED_ROW_LOG (fget v F.BED_PPR_CMD_ENTRY)) F.BED_ROW_LOG_VALID = true) :
    Completes (.pprSoft i v true) s fun t =>
      t.bed.ppr = some { hard := false, entry := fget v F.BED_PPR_CMD_ENTRY } ∧
        t.flag R.BED_PPR_STAT F.BED_PPR_STAT_BUSY = true ∧ OnlyRegs [R.BED_PPR_STAT] s t := by
  show ∃ t, execPprSoft i v true s = .next t ∧ _
  simp [execPprSoft, hpair, hop, hbusy, hentry, State.writePpr, ok]

theorem pprHard_true_of_op_mode_not_busy (s : State) (i : Initiator) (v : Word) (hpair : isPair i = true)
    (hop : fget v F.BED_PPR_CMD_OP = 2) (hmode : s.mode = mBedding)
    (hbusy : s.flag R.BED_PPR_STAT F.BED_PPR_STAT_BUSY = false)
    (hentry : s.flag (R.BED_ROW_LOG (fget v F.BED_PPR_CMD_ENTRY)) F.BED_ROW_LOG_VALID = true) :
    Completes (.pprHard i v true) s fun t =>
      t.bed.ppr = some { hard := true, entry := fget v F.BED_PPR_CMD_ENTRY } ∧
        t.flag R.BED_PPR_STAT F.BED_PPR_STAT_BUSY = true ∧ OnlyRegs [R.BED_PPR_STAT] s t := by
  show ∃ t, execPprHard i v true s = .next t ∧ _
  simp [execPprHard, hpair, hop, hmode, hbusy, hentry, State.writePpr, ok]

theorem pprHard_of_mode_service (s : State) (i : Initiator) (v : Word) (sp : Bool) (hpair : isPair i = true)
    (hop : fget v F.BED_PPR_CMD_OP = 2) (hmode : s.mode = mService)
    (hbusy : s.flag R.BED_PPR_STAT F.BED_PPR_STAT_BUSY = false)
    (hvalid : s.flag (R.BED_ROW_LOG (fget v F.BED_PPR_CMD_ENTRY)) F.BED_ROW_LOG_VALID = true) :
    exec (.pprHard i v sp) s = .next (s.wf R.BED_PPR_STAT F.BED_PPR_STAT_RESULT 2) := by
  have hhaven : s.mode ≠ mHaven := by
    rw [hmode]
    decide
  have hsettled : s.havenSettled = false := by simp [State.havenSettled, hhaven]
  show execPprHard i v sp s = _
  simp only [execPprHard, hop, State.writePpr, hpair, hbusy, hvalid, hmode, hsettled, if_true]
  rfl

theorem pprDone_of_unclean_rewrite (s : State) (e : Nat) (hppr : s.bed.ppr = some { hard := false, entry := e })
    (hheld : s.bed.held = []) :
    Completes (.pprDone false) s fun t =>
      t.bed.ppr = none ∧ t.flag R.BED_PPR_STAT F.BED_PPR_STAT_BUSY = false ∧
        t.rf R.BED_PPR_STAT F.BED_PPR_STAT_RESULT = 4 ∧ OnlyRegs [R.BED_PPR_STAT] s t := by
  show ∃ t, execPprDone false s = .next t ∧ _
  rw [execPprDone, hppr]
  dsimp only
  rw [if_neg (by decide)]
  generalize (s.rf _ _, s.rf _ _, s.rf _ _) = row
  generalize hu : ({ s with bed := { s.bed with ppr := none } } : State).wf R.BED_PPR_STAT F.BED_PPR_STAT_BUSY 0 = u
  have hbusy : u.flag R.BED_PPR_STAT F.BED_PPR_STAT_BUSY = false := by
    rw [← hu]
    exact (flag_wf_same _ _ _ (by decide)).trans rfl
  have honly : OnlyRegs [R.BED_PPR_STAT] s u := by simp [← hu]
  generalize hw : ((u.rowRepaired false row).spareRow row).pprResult 4 = w
  have hleft : u.softLeft row = w := hw
  have hheld' : w.bed.held = [] := by simp -implicitDefEqProofs [← hleft, held_softLeft, ← hu, hheld]
  have hppr' : w.bed.ppr = none := by simp -implicitDefEqProofs [← hleft, ppr_softLeft, ← hu]
  have hbusy' : w.flag R.BED_PPR_STAT F.BED_PPR_STAT_BUSY = false := by rw [← hleft, busy_softLeft, hbusy]
  have hresult : w.rf R.BED_PPR_STAT F.BED_PPR_STAT_RESULT = 4 := by rw [← hleft, result_softLeft]
  have honlyW : OnlyRegs [R.BED_PPR_STAT] s w := by rwa [← hleft, onlyRegs_softLeft (by simp)]
  clear hleft hw honly hbusy hu
  rw [hheld', List.foldl_nil, ok]
  refine ⟨_, rfl, hppr', ?_, ?_, ?_⟩
  · exact (flag_congr (rd_replaceBed w _ _) _).trans hbusy'
  · exact (rf_congr (rd_replaceBed w _ _) _).trans hresult
  · simpa using honlyW

theorem bdpRead_starts (s : State) (i : Initiator) (v : Word) (hpair : isPair i = true)
    (hbusy : s.flag R.BED_BDP_STAT F.BED_BDP_STAT_BUSY = false) (hop : fget v F.BED_BDP_GO_OP = 1)
    (hlow : 1 ≤ fget v F.BED_BDP_GO_COUNT) (hhigh : fget v F.BED_BDP_GO_COUNT ≤ 16) :
    Completes (.bdpRead i v) s fun t =>
      t.bed.bdp = some { write := false, count := fget v F.BED_BDP_GO_COUNT } ∧
        t.flag R.BED_BDP_STAT F.BED_BDP_STAT_BUSY = true ∧ OnlyRegs [R.BED_BDP_STAT] s t := by
  let op : BdpOp := { write := false, count := fget v F.BED_BDP_GO_COUNT }
  refine completes_of_next (t := { s with bed := { s.bed with bdp := some op } }.raise R.BED_BDP_STAT
    F.BED_BDP_STAT_BUSY) ?_ ⟨rfl, by simp, by simp⟩
  show execBdpRead i v s = _
  rw [execBdpRead, if_pos hop, State.writeBdpGo, hop]
  dsimp only
  rw [if_neg (by simp [hpair, hbusy]; omega), if_neg (by simp), ok]
  rfl

theorem bdpWrite_starts (s : State) (i : Initiator) (v : Word) (hpair : isPair i = true)
    (hbusy : s.flag R.BED_BDP_STAT F.BED_BDP_STAT_BUSY = false) (hop : fget v F.BED_BDP_GO_OP = 2)
    (hlow : 1 ≤ fget v F.BED_BDP_GO_COUNT) (hhigh : fget v F.BED_BDP_GO_COUNT ≤ 16)
    (hstaged : s.bed.bdpStage.length = 16 * fget v F.BED_BDP_GO_COUNT) :
    Completes (.bdpWrite i v) s fun t =>
      t.bed.bdp = some { write := true, count := fget v F.BED_BDP_GO_COUNT } ∧
        t.flag R.BED_BDP_STAT F.BED_BDP_STAT_BUSY = true ∧ OnlyRegs [R.BED_BDP_STAT] s t := by
  let op : BdpOp := { write := true, count := fget v F.BED_BDP_GO_COUNT }
  refine completes_of_next (t := { s with bed := { s.bed with bdp := some op } }.raise R.BED_BDP_STAT
    F.BED_BDP_STAT_BUSY) ?_ ⟨rfl, by simp, by simp⟩
  show execBdpWrite i v s = _
  rw [execBdpWrite, if_pos hop, State.writeBdpGo, hop]
  dsimp only
  rw [if_neg (by simp [hpair, hbusy]; omega), if_neg (by simp [hstaged]), ok]
  rfl

theorem bdpStage_appends (s : State) (i : Initiator) (v : Word) (hpair : isPair i = true)
    (hbusy : s.flag R.BED_BDP_STAT F.BED_BDP_STAT_BUSY = false) (hroom : s.bed.bdpStage.length < 256) :
    Completes (.bdpStage i v) s fun t => t.bed.bdpStage = s.bed.bdpStage ++ [v] ∧ OnlyRegs [R.BED_BDP_STAT] s t := by
  refine completes_of_next (t := { s with bed := { s.bed with bdpStage := s.bed.bdpStage ++ [v] } }.bdpWords
      (s.bed.bdpStage.length + 1)) ?_ ⟨rfl, by simp [State.bdpWords]⟩
  show execBdpStage i v s = _
  rw [execBdpStage, State.writeBdpData, if_neg (by simp [hpair, hbusy]; omega), ok]

theorem bdpDataRead_pops (s : State) (i : Initiator) (w : Word) (l : List Word) (hpair : isPair i = true)
    (hbuf : s.bed.bdpBuf = w :: l) :
    Completes (.bdpDataRead i) s fun t => t.resp = w ∧ t.bed.bdpBuf = l ∧ OnlyRegs [R.BED_BDP_STAT] s t := by
  have hkey : isKeystone i = false := isKeystone_of_isPair hpair
  refine completes_of_next (t := ({ s with bed := { s.bed with bdpBuf := l } }.bdpWords l.length).answer w) ?_
    ⟨rfl, rfl, by simp [State.bdpWords, State.answer]⟩
  show execBdpDataRead i s = _
  rw [execBdpDataRead, State.readBdpData, hkey, hbuf, ok]
  rfl

theorem bdpDone_reads (s : State) (n : Nat) (hbdp : s.bed.bdp = some { write := false, count := n })
    (hinc : s.flag R.BED_BDP_CTL F.BED_BDP_CTL_INC = false) (hfree : s.hbmWaits s.bdpAddr (64 * n) = false) :
    exec .bdpDone s
      = .next ((({ ({ s with bed := { s.bed with bdp := none } }.bdpReadGrans (s.bdpAddr / 64) 0 n []).2 with
          bed := { ({ s with bed := { s.bed with bdp := none } }.bdpReadGrans (s.bdpAddr / 64) 0 n []).2.bed with
            bdpBuf := ({ s with bed := { s.bed with bdp := none } }.bdpReadGrans (s.bdpAddr / 64) 0 n []).1 }
                }.bdpWords
              ({ s with bed := { s.bed with bdp := none } }.bdpReadGrans (s.bdpAddr / 64) 0 n []).1.length).wf
                  R.BED_BDP_STAT
                F.BED_BDP_STAT_BUSY 0).raise R.BED_BDP_STAT F.BED_BDP_STAT_DONE) := by
  show execBdpDone s = _
  rw [execBdpDone, hbdp]
  dsimp only
  rw [if_pos (by simp [hfree]), State.bdpNow, hbdp]
  dsimp only
  rw [hinc, ok]
  rfl

theorem bdpDone_waits (s : State) (w : Bool) (n : Nat) (hbdp : s.bed.bdp = some { write := w, count := n })
    (hwaits : s.hbmWaits s.bdpAddr (64 * n) = true) (hnew : s.bed.held.contains .bdp = false) :
    exec .bdpDone s = .next (s.holdHbm .bdp) := by
  show execBdpDone s = _
  rw [execBdpDone, hbdp]
  dsimp only
  rw [if_neg (by simp [hwaits]), if_neg (by rw [hnew]; decide), ok]

/-- Settles O51: the stack's rows act when it is ready and wait in its queue until then. -/
theorem bedrockServes : Obligations.BedrockServes :=
  ⟨hbmTrainingDone_completes, hbmTrainingFail_of_not_ready, bedrockWaitTimeout_of_not_ready, hbmRead_of_not_ready,
    hbmRead_of_no_line, hbmWrite_of_not_ready, hbmWrite_none_of_ppr, idleClaim_claims, idleClaim_of_idleBarred,
    hbmTempRead_sets_refresh, hbmRefresh_completes, arbitrationWindow_completes, pprSoft_true_of_op_not_busy_entry,
    pprHard_true_of_op_mode_not_busy, pprHard_of_mode_service, pprDone_of_unclean_rewrite, bdpRead_starts,
    bdpWrite_starts, bdpStage_appends, bdpDataRead_pops, bdpDone_reads, bdpDone_waits⟩

end Sys2Proof.Machine
end
section
/-!
The scrubbers, the cache and the macrocode (R372 to R405).
-/

namespace Sys2Proof.Machine
theorem shlFinish_of_idle {s : State} (h : s.bed.shlOp = none) : s.shlFinish = s := by simp [State.shlFinish, h]
theorem scrubLapStart_of_en_not_lapOn_min (s : State) (hen : s.flag R.BED_TUM_CTL F.BED_TUM_CTL_EN = true)
    (hlapOn : s.bed.lapOn = false)
    (hmin : s.bed.lapStart + minuteTicks * s.rf R.BED_TUM_CTL F.BED_TUM_CTL_LAP_MIN ≤ s.now) :
    Completes .scrubLapStart s fun t =>
        t.bed.lapOn = true ∧ t.bed.scrub = 0 ∧ t.bed.lapStart = s.now ∧ SameRegs s t := by
  show ∃ t, execScrubLapStart s = .next t ∧ _
  simp [execScrubLapStart, hen, hlapOn, hmin, ok]

theorem scrubRead_of_lapOn_en_nextGran (s : State) (u : BitVec 576) (nw : Bool) (hlapOn : s.bed.lapOn = true)
    (hen : s.flag R.BED_TUM_CTL F.BED_TUM_CTL_EN = true) (hready : s.ready .bedrock = true)
    (hnextGran : nextGran s.bed.gran s.bed.scrub = none) :
    Completes (.scrubRead u nw) s fun t =>
      t.bed.lapOn = false ∧ t.rd R.BED_TUM_LAP = word ((s.now - s.bed.lapStart) / 100000000) ∧
        OnlyRegs [R.BED_TUM_LAP] s t := by
  show ∃ t, execScrubRead u nw s = .next t ∧ _
  simp [execScrubRead, hlapOn, hen, hready, hnextGran, ok]

theorem sramScrubStep_of_not_en (s : State) (r : Fin 10) (b : Fin 3) (nw : Bool) (k : SramSpot)
    (hen : s.flag R.BED_SS_CTL F.BED_SS_CTL_EN = false) : exec (.sramScrubStep r b nw k) s = .next s := by
  show execSramScrubStep r b nw k s = _
  simp [execSramScrubStep, hen]

theorem sramScrubStep_without_error (s : State) (r : Fin 10) (nw : Bool) (k : SramSpot) (hinj : s.noInjection)
    (hen : s.flag R.BED_SS_CTL F.BED_SS_CTL_EN = true)
    (hregion : bitAt (s.rf R.BED_SS_CTL F.BED_SS_CTL_REGIONS) r.val = true) (hlap : s.bed.ssCount < 524287) :
    Completes (.sramScrubStep r 0 nw k) s fun t => t.bed.ssCount = s.bed.ssCount + 1 ∧ SameRegs s t := by
  have hlap' : decide (524287 ≤ s.bed.ssCount) = false := decide_eq_false (by omega)
  refine completes_of_next (t := { s with bed := { s.bed with ssCount := s.bed.ssCount + 1 } }) ?_
    ⟨rfl, sameRegs_of_eq rfl rfl⟩
  show execSramScrubStep r 0 nw k s = _
  rw [execSramScrubStep, if_neg (by simp [hen, hregion]), hlap']
  dsimp only
  rw [eccCheck_of_noInjection (by exact hinj)]
  rfl

theorem shaleEnable_of_en_not_en_armed (s : State) (i : Initiator) (v : Word) (hpair : isPair i = true)
    (hen : fget v F.SHL_CTL_EN = 1) (hen2 : s.flag R.SHL_CTL F.SHL_CTL_EN = false)
    (harmed : s.flag R.SHL_STATUS F.SHL_STATUS_ARMED = true) (hshlDraining : s.shlDraining = false) :
    Completes (.shaleEnable i v) s fun t =>
      t.flag R.SHL_CTL F.SHL_CTL_EN = true ∧ t.flag R.SHL_STATUS F.SHL_STATUS_ENABLED = true ∧
        t.flag R.SHL_STATUS F.SHL_STATUS_ARMED = false ∧ OnlyRegs [R.SHL_CTL, R.SHL_STATUS] s t := by
  show ∃ t, execShaleEnable i v s = .next t ∧ _
  simp [execShaleEnable, hpair, hen, hen2, harmed, hshlDraining, State.writeShlCtl, ok]

theorem shaleDisable_of_empty (s : State) (i : Initiator) (v : Word) (hpair : isPair i = true)
    (hen : fget v F.SHL_CTL_EN = 0) (hon : s.flag R.SHL_CTL F.SHL_CTL_EN = true) (hlines : s.bed.lines = [])
    (hop : s.bed.shlOp = none) :
    Completes (.shaleDisable i v) s fun t =>
      t.flag R.SHL_CTL F.SHL_CTL_EN = false ∧ t.flag R.SHL_STATUS F.SHL_STATUS_ENABLED = false ∧
        OnlyRegs [R.SHL_CTL, R.SHL_STATUS] s t := by
  refine completes_of_next (t := (s.wf R.SHL_CTL F.SHL_CTL_EN 0).wf R.SHL_STATUS F.SHL_STATUS_ENABLED 0) ?_
    ⟨by simp, by simp, by simp⟩
  have hdirty : ((s.wf R.SHL_CTL F.SHL_CTL_EN 0).wf R.SHL_STATUS F.SHL_STATUS_ENABLED 0).dirtyLines = [] :=
    congrArg (List.filter _) hlines
  show execShaleDisable i v s = _
  rw [execShaleDisable, if_pos hen, State.writeShlCtl, if_neg (by simp [hpair]), if_neg (by rw [hen]; decide),
    if_pos hon, shlFinish_of_idle hop, if_pos hdirty, ok]

theorem shaleDrainDone_of_shlDraining (s : State) (hshlDraining : s.shlDraining = true) :
    exec .shaleDrainDone s
      = .next ((s.dirtyLines.foldl State.writeBack s).wf R.SHL_STATUS F.SHL_STATUS_DRAINING 0) := by
  show execShaleDrainDone s = _
  simp [execShaleDrainDone, hshlDraining]

theorem shaleInvRange_of_not_busy_not_en_not_shlDraining (s : State) (i : Initiator) (v : Word)
    (hpair : isPair i = true) (hbusy : s.flag R.SHL_INV_STATUS F.SHL_INV_STATUS_BUSY = false)
    (hen : s.flag R.SHL_CTL F.SHL_CTL_EN = false) (hshlDraining : s.shlDraining = false)
    (hop : fget v F.SHL_OP_OP = 1) :
    Completes (.shaleInvRange i v) s fun t =>
      t.bed.shlOp = some (.invRange s.shlSpan.1 s.shlSpan.2) ∧ t.flag R.SHL_INV_STATUS F.SHL_INV_STATUS_BUSY = true ∧
        t.rf R.SHL_INV_STATUS F.SHL_INV_STATUS_LAST = 1 ∧ OnlyRegs [R.SHL_INV_STATUS] s t := by
  show ∃ t, execShaleInvRange i v s = .next t ∧ _
  simp [execShaleInvRange, hpair, hbusy, hen, hshlDraining, hop, State.writeShlOp, ok]

theorem shaleInvAll_of_not_busy_not_en_not_shlDraining (s : State) (i : Initiator) (v : Word)
    (hpair : isPair i = true) (hbusy : s.flag R.SHL_INV_STATUS F.SHL_INV_STATUS_BUSY = false)
    (hen : s.flag R.SHL_CTL F.SHL_CTL_EN = false) (hshlDraining : s.shlDraining = false)
    (hop : fget v F.SHL_OP_OP = 2) :
    Completes (.shaleInvAll i v) s fun t =>
      t.bed.shlOp = some .invAll ∧ t.flag R.SHL_INV_STATUS F.SHL_INV_STATUS_BUSY = true ∧
        t.rf R.SHL_INV_STATUS F.SHL_INV_STATUS_LAST = 2 ∧ OnlyRegs [R.SHL_INV_STATUS] s t := by
  show ∃ t, execShaleInvAll i v s = .next t ∧ _
  simp [execShaleInvAll, hpair, hbusy, hen, hshlDraining, hop, State.writeShlOp, ok]

theorem shaleFill_of_not_busy_en_not_shlDraining (s : State) (i : Initiator) (v : Word) (hpair : isPair i = true)
    (hbusy : s.flag R.SHL_INV_STATUS F.SHL_INV_STATUS_BUSY = false) (hen : s.flag R.SHL_CTL F.SHL_CTL_EN = true)
    (hshlDraining : s.shlDraining = false) (hop : fget v F.SHL_OP_OP = 3)
    (hway : s.wayLocked (fget v F.SHL_OP_WAY) = true) (hshlSpan : s.shlSpan.2 ≤ 2048)
    (hspanInRing : s.spanInRing s.shlSpan.1 s.shlSpan.2 = false) :
    Completes (.shaleFill i v) s fun t =>
      t.bed.shlOp = some (.fill (fget v F.SHL_OP_WAY) s.shlSpan.1 s.shlSpan.2) ∧
        t.flag R.SHL_INV_STATUS F.SHL_INV_STATUS_BUSY = true ∧ OnlyRegs [R.SHL_INV_STATUS] s t := by
  show ∃ t, execShaleFill i v s = .next t ∧ _
  simp [execShaleFill, hpair, hbusy, hen, hshlDraining, hop, hway, hshlSpan, hspanInRing, State.writeShlOp, ok]

theorem shaleOpDone_of_shlOp (s : State) (hshlOp : s.bed.shlOp = some .invAll) :
    exec .shaleOpDone s
      = .next ((((({ s with bed := { s.bed with shlOp := none } }.invalidate fun _ => true).raise R.SHL_STATUS
          F.SHL_STATUS_ARMED).shaleArmed).wf R.SHL_INV_STATUS F.SHL_INV_STATUS_BUSY 0).raise R.SHL_INV_STATUS
            F.SHL_INV_STATUS_DONE) := by
  show execShaleOpDone s = _
  simp [execShaleOpDone, hshlOp, State.shlFinish]

theorem shaleLock_of_enough_unlocked (s : State) (i : Initiator) (v : Word) (hpair : isPair i = true)
    (hrange : 4 ≤ ((List.range 16).filter fun w => !bitAt v.toNat w).length) :
    exec (.shaleLock i v) s = .next (s.wf R.SHL_LOCK F.SHL_LOCK_WAYS v.toNat) := by
  show execShaleLock i v s = _
  simp [execShaleLock, hpair, hrange, State.writeShlLock]

theorem shaleLock_of_too_few_unlocked (s : State) (i : Initiator) (v : Word)
    (hrange : ((List.range 16).filter fun w => !bitAt v.toNat w).length < 4) : exec (.shaleLock i v) s = .next s := by
  show execShaleLock i v s = _
  simp [execShaleLock, hrange, State.writeShlLock]

/-- Settles O52: the scrubs step in order, and the cache is switched, drained, invalidated and filled. -/
theorem scrubbersAndShaleRun : Obligations.ScrubbersAndShaleRun :=
  ⟨scrubLapStart_of_en_not_lapOn_min, scrubRead_of_lapOn_en_nextGran, sramScrubStep_of_not_en,
    sramScrubStep_without_error, shaleEnable_of_en_not_en_armed, shaleDisable_of_empty,
    shaleDrainDone_of_shlDraining, shaleInvRange_of_not_busy_not_en_not_shlDraining,
    shaleInvAll_of_not_busy_not_en_not_shlDraining, shaleFill_of_not_busy_en_not_shlDraining, shaleOpDone_of_shlOp,
    shaleLock_of_enough_unlocked, shaleLock_of_too_few_unlocked⟩

theorem strWord_of_issues {s : State} {n w : Nat} (h : s.strIssues n w = true) (f : State → State) :
    s.strWord n w f = f s := if_pos h

theorem strWord_of_not_issued {s : State} {n w : Nat} (h : s.strIssues n w = false) (f : State → State) :
    s.strWord n w f = s := if_neg (by simp [h])

theorem wkFits_of_read {n kind : Nat} (hn : n < 8) (h : kind ∈ [wkRead, wkLadder, wkSurvey]) :
    wkFits n kind = true := by
  fin_cases h <;> simp [wkFits, wkRead, wkLadder, wkSurvey, wkWrite, wkFormat, hn]

theorem wkFits_of_write {n kind : Nat} (h : kind ∈ [wkWrite, wkFormat]) : wkFits n kind = decide (8 ≤ n) := by
  fin_cases h <;> simp [wkFits]

theorem writeWqPush_of_fits {s : State} {i : Initiator} {n kind : Nat} (hopen : s.strOpen i n = true)
    (hready : s.strReady n = true) (hroom : s.wqFree n ≠ 0) (hfits : wkFits n kind = true) (k : Nat) :
    s.writeWqPush i n kind k = s.wqAdd n kind k := if_neg (by simp [hopen, hready, hroom, hfits])

theorem writeWqPush_of_not_fits {s : State} {n kind : Nat} (h : wkFits n kind = false) (i : Initiator) (k : Nat) :
    s.writeWqPush i n kind k = s := if_pos (by simp [h])
theorem work_of_read_sequencer (s : State) (i : Initiator) (n : Fin 12) (k : Fin 65536)
    (hopen : s.strOpen i n.val = true) (hready : s.strReady n.val = true) (hroom : s.wqFree n.val ≠ 0)
    (hread : n.val < 8) :
    exec (.workRead i n k) s = .next (s.wqAdd n.val wkRead k.val) ∧
      exec (.workLadder i n k) s = .next (s.wqAdd n.val wkLadder k.val) ∧
        exec (.workSurvey i n k) s = .next (s.wqAdd n.val wkSurvey k.val) ∧
          exec (.workWriteRun i n k) s = .next s ∧ exec (.workFormat i n k) s = .next s := by
  have hreads : ∀ kind ∈ [wkRead, wkLadder, wkSurvey], s.writeWqPush i n.val kind k.val = s.wqAdd n.val kind k.val :=
    fun kind h => writeWqPush_of_fits hopen hready hroom (wkFits_of_read hread h) _
  have hothers : ∀ kind ∈ [wkWrite, wkFormat], s.writeWqPush i n.val kind k.val = s :=
    fun kind h => writeWqPush_of_not_fits ((wkFits_of_write h).trans (decide_eq_false (by omega))) _ _
  exact ⟨congrArg ok (hreads _ (by simp)), congrArg ok (hreads _ (by simp)), congrArg ok (hreads _ (by simp)),
    congrArg ok (hothers _ (by simp)), congrArg ok (hothers _ (by simp))⟩

theorem work_of_write_sequencer (s : State) (i : Initiator) (n : Fin 12) (k : Fin 65536)
    (hopen : s.strOpen i n.val = true) (hready : s.strReady n.val = true) (hroom : s.wqFree n.val ≠ 0)
    (hwrite : 8 ≤ n.val) :
    exec (.workWriteRun i n k) s = .next (s.wqAdd n.val wkWrite k.val) ∧
      exec (.workFormat i n k) s = .next (s.wqAdd n.val wkFormat k.val) := by
  have hwrites : ∀ kind ∈ [wkWrite, wkFormat], s.writeWqPush i n.val kind k.val = s.wqAdd n.val kind k.val :=
    fun kind h => writeWqPush_of_fits hopen hready hroom ((wkFits_of_write h).trans (decide_eq_true hwrite)) _
  exact ⟨congrArg ok (hwrites _ (by simp)), congrArg ok (hwrites _ (by simp))⟩

theorem workDispatch_of_strReady_strSt_seq (s : State) (n : Fin 12) (hstrReady : s.strReady n.val = true)
    (hstrSt : s.strSt n.val = ssIdle) (hseq : (s.seq n.val).wq ≠ []) :
    exec (.workDispatch n) s
      = .next (((s.setStrSt n.val ssRun).strGo n.val (Config.strEntry 0 % 0x10000)).strBegin n.val) := by
  show execWorkDispatch n s = _
  simp [execWorkDispatch, hstrReady, hstrSt, hseq]

theorem nop_of_strIssues (s : State) (n : Fin 12) (hstrIssues : s.strIssues n.val 0 = true) :
    exec (.nop n) s = .next (s.strNext n.val) := by
  show execNop n s = _
  simp [execNop, hstrIssues, State.strWord]

theorem alu_issued (s : State) (n : Fin 12) (gd ga gb : Fin 32) (fn : Fin 16)
    (hissues : s.strIssues n.val (vOp 1 + vD gd.val + vA ga.val + vB gb.val + fn.val) = true) :
    exec (.alu n gd ga gb fn) s
      = .next (((s.free 32).2.setG n.val gd.val
          (aluResult fn.val (s.g n.val ga.val) (s.g n.val gb.val) (word (s.free 32).1))).strNext n.val) := by
  show execAlu n gd ga gb fn s = _
  rw [execAlu, strWord_of_issues hissues, ok]

theorem addi_issued (s : State) (n : Fin 12) (gd ga : Fin 32) (imm : BitVec 17)
    (hissues : s.strIssues n.val (vOp 2 + vD gd.val + vA ga.val + imm.toNat) = true) :
    exec (.addi n gd ga imm) s
      = .next ((s.setG n.val gd.val (word (s.strAddr n.val ga.val imm))).strNext n.val) := by
  show execAddi n gd ga imm s = _
  rw [execAddi, strWord_of_issues hissues, ok]

theorem lui_issued (s : State) (n : Fin 12) (gd : Fin 32) (imm : BitVec 16)
    (hissues : s.strIssues n.val (vOp 3 + vD gd.val + imm.toNat) = true) :
    exec (.lui n gd imm) s = .next ((s.setG n.val gd.val (word (imm.toNat * 2 ^ 16))).strNext n.val) := by
  show execLui n gd imm s = _
  rw [execLui, strWord_of_issues hissues, ok]

theorem branch_issued (s : State) (n : Fin 12) (cond : Fin 8) (ga : Fin 32) (target : BitVec 17)
    (hissues : s.strIssues n.val (vOp 4 + cond.val * 2 ^ 24 + ga.val * 2 ^ 19 + target.toNat) = true) :
    exec (.branch n cond ga target) s
      = .next (if s.brTaken n.val cond.val (s.g n.val ga.val) = true
          then { s with fresh := s.fresh + 1 }.strGo n.val target.toNat
          else { s with fresh := s.fresh + 1 }.strNext n.val) := by
  show execBranch n cond ga target s = _
  rw [execBranch, strWord_of_issues hissues, ok]

theorem call_issued (s : State) (n : Fin 12) (target : BitVec 17)
    (hissues : s.strIssues n.val (vOp 5 + target.toNat) = true) (hdepth : (s.seq n.val).stack.length < 8) :
    exec (.call n target) s
      = .next ((s.setSeq n.val { s.seq n.val with stack := (s.strPc n.val + 1) :: (s.seq n.val).stack }).strGo n.val
          target.toNat) := by
  show execCall n target s = _
  rw [execCall, strWord_of_issues hissues]
  dsimp only
  rw [if_neg (by omega), ok]

theorem call_too_deep (s : State) (n : Fin 12) (target : BitVec 17)
    (hissues : s.strIssues n.val (vOp 5 + target.toNat) = true) (hdepth : 8 ≤ (s.seq n.val).stack.length) :
    exec (.call n target) s = .next (s.strFault n.val scIllegal) := by
  show execCall n target s = _
  rw [execCall, strWord_of_issues hissues]
  dsimp only
  rw [if_pos hdepth, ok]

theorem returnOp_issued (s : State) (n : Fin 12) (a : Nat) (rest : List Nat)
    (hissues : s.strIssues n.val (vOp 6) = true) (hstack : (s.seq n.val).stack = a :: rest) :
    exec (.returnOp n) s = .next ((s.setSeq n.val { s.seq n.val with stack := rest }).strGo n.val a) := by
  show execReturn n s = _
  rw [execReturn, strWord_of_issues hissues]
  dsimp only
  rw [hstack, ok]

theorem returnOp_without_call (s : State) (n : Fin 12) (hissues : s.strIssues n.val (vOp 6) = true)
    (hstack : (s.seq n.val).stack = []) : exec (.returnOp n) s = .next (s.strFault n.val scIllegal) := by
  show execReturn n s = _
  rw [execReturn, strWord_of_issues hissues]
  dsimp only
  rw [hstack, ok]

theorem scratchLoad_issued (s : State) (n : Fin 12) (gd ga : Fin 32) (imm : BitVec 17)
    (hissues : s.strIssues n.val (vOp 9 + vD gd.val + vA ga.val + imm.toNat) = true) :
    exec (.scratchLoad n gd ga imm) s
      = .next ((s.setG n.val gd.val (s.scratch n.val (s.strAddr n.val ga.val imm / 4))).strNext n.val) := by
  show execScratchLoad n gd ga imm s = _
  rw [execScratchLoad, strWord_of_issues hissues, ok]

theorem scratchStore_issued (s : State) (n : Fin 12) (gs ga : Fin 32) (imm : BitVec 17)
    (hissues : s.strIssues n.val (vOp 10 + vD gs.val + vA ga.val + imm.toNat) = true) :
    exec (.scratchStore n gs ga imm) s
      = .next ((s.setSeq n.val
          { s.seq n.val with
            scratch := spSet 0 (s.seq n.val).scratch (s.strAddr n.val ga.val imm / 4 % 1024) (s.g n.val gs.val)
                }).strNext
              n.val) := by
  show execScratchStore n gs ga imm s = _
  rw [execScratchStore, strWord_of_issues hissues, ok]

theorem towpathRead_issued (s : State) (n : Fin 12) (gd ga : Fin 32) (imm : BitVec 17)
    (hissues : s.strIssues n.val (vOp 7 + vD gd.val + vA ga.val + imm.toNat) = true) :
    exec (.towpathRead n gd ga imm) s
      = .next (((s.towRead (.str n) .machine 32 (s.strAddr n.val ga.val imm)).setG n.val gd.val
          (s.towRead (.str n) .machine 32 (s.strAddr n.val ga.val imm)).resp).strNext n.val) := by
  show execTowpathRead n gd ga imm s = _
  rw [execTowpathRead, strWord_of_issues hissues, ok]

theorem towpathWrite_issued (s : State) (n : Fin 12) (gs ga : Fin 32) (imm : BitVec 17)
    (hissues : s.strIssues n.val (vOp 8 + vD gs.val + vA ga.val + imm.toNat) = true) :
    exec (.towpathWrite n gs ga imm) s
      = .next ((s.strNext n.val).towWrite (.str n) .machine 32 (s.strAddr n.val ga.val imm) (s.g n.val gs.val)) := by
  show execTowpathWrite n gs ga imm s = _
  rw [execTowpathWrite, strWord_of_issues hissues, ok]

theorem words_not_issued :
    ∀ (s : State) (n : Fin 12),
    (s.strIssues n.val 0 = false → exec (.nop n) s = .next s) ∧
    (∀ (gd ga gb : Fin 32) (fn : Fin 16),
        s.strIssues n.val (vOp 1 + vD gd.val + vA ga.val + vB gb.val + fn.val) = false →
      exec (.alu n gd ga gb fn) s = .next s) ∧
    (∀ id : BitVec 16, s.strIssues n.val (vOp 13 + id.toNat) = false → exec (.routine n id) s = .next s) ∧
    (s.strIssues n.val (vOp 15) = false → exec (.returnFromEvent n) s = .next s) := by
  intro s n
  refine ⟨fun h => ?_, fun gd ga gb fn h => ?_, fun id h => ?_, fun h => ?_⟩
  · exact congrArg ok (strWord_of_not_issued h _)
  · exact congrArg ok (strWord_of_not_issued h _)
  · exact congrArg ok (strWord_of_not_issued h _)
  · exact congrArg ok (strWord_of_not_issued h _)

/-- Settles O53: items go to a sequencer of their kind, and a word that issues has its effect. -/
theorem macrocodeRuns : Obligations.MacrocodeRuns :=
  ⟨work_of_read_sequencer, work_of_write_sequencer, workDispatch_of_strReady_strSt_seq, nop_of_strIssues,
    alu_issued, addi_issued, lui_issued, branch_issued, call_issued, call_too_deep, returnOp_issued,
    returnOp_without_call, scratchLoad_issued, scratchStore_issued, towpathRead_issued, towpathWrite_issued,
    words_not_issued⟩

end Sys2Proof.Machine
end
section
/-!
The sequencers' routines and their stops (R406 to R420).
-/

namespace Sys2Proof.Machine
/-- A commit of a sequencer of the read side: its effect, the routine's end and the next word. -/
theorem strCommit_of_read {s : State} {n kind ga gb : Nat}
    (h : s.strIssues n (vOp 14 + kind * 2 ^ 24 + ga * 2 ^ 19 + gb * 2 ^ 14)
        = true) (hread : n < 8) (f : State → State) :
    s.strCommit n kind ga gb f = ((f s).setSeq n { (f s).seq n with routine := false }).strNext n := by
  rw [State.strCommit, strWord_of_issues h]
  exact if_neg (by simp [Nat.not_le.2 hread])

/-- A commit of a write sequencer whose gate was abandoned: the event instead. -/
theorem strCommit_of_abandon {s : State} {n kind ga gb : Nat}
    (h : s.strIssues n (vOp 14 + kind * 2 ^ 24 + ga * 2 ^ 19 + gb * 2 ^ 14) = true) (hwrite : 8 ≤ n)
    (habandon : (s.wc (n - 8)).abandon = true) (f : State → State) :
    s.strCommit n kind ga gb f = s.strEvent n scGate := by
  rw [State.strCommit, strWord_of_issues h]
  exact if_pos (by simp [hwrite, habandon])

theorem dropRun_of_not_write {kind : Nat} (h : kind ≠ wkWrite) (s : State) (n k : Nat) :
    s.dropRun n (some (kind, k)) = s := by simp [State.dropRun, h]

theorem flushFill_of_not_flushing {s : State} (h : s.bls.flushing = false) : s.flushFill = s := by
  simp [State.flushFill, h]

theorem strBegin_of_empty {s : State} {n : Nat} (h : s.wqHead n = none) : s.strBegin n = s := by
  simp [State.strBegin, h]
theorem wait_of_event (s : State) (n : Fin 12) (event : Fin 32) (limit : BitVec 22)
    (hissues : s.strIssues n.val (vOp 12 + vD event.val + limit.toNat) = true) (hst : s.strSt n.val ≠ ssWait) :
    exec (.wait n event limit true) s
      = .next ((s.setSeq n.val { s.seq n.val with tmo := false }).strNext n.val) := by
  show execWait n event limit true s = _
  rw [execWait, if_neg (by simp [hst]), strWord_of_issues hissues]
  dsimp only
  rw [if_pos rfl, ok]

theorem wait_true_of_strSt_strReady_seq (s : State) (n : Fin 12) (event : Fin 32) (limit : BitVec 22)
    (hstrSt : s.strSt n.val = ssWait) (hstrReady : s.strReady n.val = true)
    (hseq : (s.seq n.val).wait = some (event.val, limit.toNat)) :
    exec (.wait n event limit true) s = .next ((s.strResume n.val).strNext n.val) := by
  show execWait n event limit true s = _
  simp [execWait, hstrSt, hstrReady, hseq]

theorem waitLimitExpiry_of_seq_strSt_strReady (s : State) (n : Fin 12) (e limit : Nat)
    (hseq : (s.seq n.val).wait = some (e, limit)) (hstrSt : s.strSt n.val = ssWait)
    (hstrReady : s.strReady n.val = true) (hlimit : limit ≠ 0) (hlimit2 : limit ≤ 10 * (s.now - (s.seq n.val).waitAt))
    :
    exec (.waitLimitExpiry n) s
      = .next (((s.strResume n.val).setSeq n.val { (s.strResume n.val).seq n.val with tmo := true }).strNext
          n.val) := by
  show execWaitLimitExpiry n s = _
  simp [execWaitLimitExpiry, hseq, hstrSt, hstrReady, hlimit, hlimit2]

theorem routine_issued (s : State) (n : Fin 12) (id : BitVec 16)
    (hissues : s.strIssues n.val (vOp 13 + id.toNat) = true) :
    exec (.routine n id) s
      = .next (((s.setSeq n.val
          { s.seq n.val with routine := true, saved := (s.seq n.val).g.filter fun q => 16 ≤ q.1 }).wf (R.STR_RP n.val)
            F.STR_RP_ADDR (s.strPc n.val)).strNext n.val) := by
  show execRoutine n id s = _
  rw [execRoutine, strWord_of_issues hissues, ok]

theorem nano_issued
    (s : State) (n : Fin 12) (naddr : Fin 512) (ga gb : Fin 32) (cnt : BitVec 8) (rom : BitVec 128) (fr : List
        (BitVec 512))
    (u : Bool)
    (hissues : s.strIssues n.val (vOp 11 + naddr.val * 2 ^ 18 + ga.val * 2 ^ 13 + gb.val * 2 ^ 8 + cnt.toNat) = true)
    (hcnt : cnt ≠ 0)
    (hokay : (s.nanoRun n.val ga.val gb.val (nanoOf (s.nanoWord n.val naddr.val rom.toNat)) u fr (cnt.toNat +
        1)).okay = true)
    :
    exec (.nano n naddr ga gb cnt rom fr u) s
      = .next ((s.nanoRun n.val ga.val gb.val (nanoOf (s.nanoWord n.val naddr.val rom.toNat)) u fr
          (cnt.toNat + 1)).st.strNext n.val) := by
  show execNano n naddr ga gb cnt rom fr u s = _
  rw [execNano, strWord_of_issues hissues]
  dsimp only
  rw [if_neg hcnt, if_pos hokay, ok]

theorem commitMark_issued (s : State) (n : Fin 12) (ga gb : Fin 32)
    (hissues : s.strIssues n.val (vOp 14 + 3 * 2 ^ 24 + ga.val * 2 ^ 19 + gb.val * 2 ^ 14) = true) (hread : n.val < 8)
    :
    exec (.commitMark n ga gb) s
      = .next ((s.setSeq n.val { s.seq n.val with routine := false }).strNext n.val) := by
  show execCommitMark n ga gb s = _
  rw [execCommitMark, strCommit_of_read hissues hread, ok]

theorem commitContext_of_abandon (s : State) (n : Fin 12) (ga gb : Fin 32)
    (hissues : s.strIssues n.val (vOp 14 + 1 * 2 ^ 24 + ga.val * 2 ^ 19 + gb.val * 2 ^ 14) = true)
    (hwrite : 8 ≤ n.val) (habandon : (s.wc (n.val - 8)).abandon = true) :
    ∀ retry,
      exec (.commitContext n ga gb retry) s = .next (s.strEvent n.val scGate) := by
  intro retry
  show execCommitContext n ga gb retry s = _
  rw [execCommitContext, strCommit_of_abandon hissues hwrite habandon, ok]

theorem commitContext_issued (s : State) (n : Fin 12) (ga gb : Fin 32) (v : Word)
    (hissues : s.strIssues n.val (vOp 14 + 1 * 2 ^ 24 + ga.val * 2 ^ 19 + gb.val * 2 ^ 14) = true) (hread : n.val < 8)
    (hstate : (s.ctx ((s.g n.val ga.val).toNat % 65536)).state ≠ cFree) :
    exec (.commitContext n ga gb (some v)) s
      = .next (((s.setCtx ((s.g n.val ga.val).toNat % 65536)
          { s.ctx ((s.g n.val ga.val).toNat % 65536) with retry := v.toNat }).setSeq n.val
            { s.seq n.val with routine := false }).strNext n.val) := by
  show execCommitContext n ga gb (some v) s = _
  rw [execCommitContext, strCommit_of_read hissues hread]
  dsimp only
  rw [if_neg hstate, ok]
  rfl

theorem commitDone_of_last_item (s : State) (n : Fin 12) (ga gb : Fin 32) (x : Nat × Nat)
    (hissues : s.strIssues n.val (vOp 14 + 2 * 2 ^ 24 + ga.val * 2 ^ 19 + gb.val * 2 ^ 14) = true) (hread : n.val < 8)
    (hhandler : (s.seq n.val).handler.isSome = true) (hhead : s.wqHead n.val = some x) (hwrite : x.1 ≠ wkWrite)
    (hformat : x.1 ≠ wkFormat) :
    ∀ t, t = (s.ladderDrop n.val).dropItem n.val → (t.seq n.val).wq = [] → t.bls.flushing = false →
      exec (.commitDone n ga gb) s
        = .next ((t.setSeq n.val { t.seq n.val with routine := false }).strNext n.val) := by
  intro t ht hwq hflushing
  have hitem : (s.seq n.val).wq.head? = some (x.1, x.2) := hhead
  have hempty : t.wqHead n.val = none := by simp [State.wqHead, hwq]
  show execCommitDone n ga gb s = _
  rw [execCommitDone, hhead]
  dsimp only
  rw [if_neg (by simp [hformat]), State.strDone, strCommit_of_read hissues hread]
  dsimp only
  rw [← ht, hitem, dropRun_of_not_write hwrite, flushFill_of_not_flushing hflushing,
    if_neg (by simp [Option.isSome_iff_ne_none.1 hhandler]), strBegin_of_empty hempty, ok]

theorem commitTowpath_issued (s : State) (n : Fin 12) (ga gb : Fin 32)
    (hissues : s.strIssues n.val (vOp 14 + ga.val * 2 ^ 19 + gb.val * 2 ^ 14) = true) (hread : n.val < 8) :
    exec (.commitTowpath n ga gb) s
      = .next (((s.setSeq n.val { s.seq n.val with routine := false }).strNext n.val).towWrite (.str n) .machine 32
          (s.g n.val ga.val).toNat (s.g n.val gb.val)) := by
  have hissues0 : s.strIssues n.val (vOp 14 + 0 * 2 ^ 24 + ga.val * 2 ^ 19 + gb.val * 2 ^ 14) = true := by
    rw [Nat.zero_mul, Nat.add_zero]
    exact hissues
  show execCommitTowpath n ga gb s = _
  rw [execCommitTowpath, strCommit_of_read hissues0 hread]
  exact congrArg ok (if_pos (by rw [hissues]; simp [Nat.not_le.2 hread]))

theorem returnFromEvent_to_routine (s : State) (n : Fin 12) (hissues : s.strIssues n.val (vOp 15) = true)
    (hevents : (s.seq n.val).events = []) :
    exec (.returnFromEvent n) s
      = .next ((((s.setSeq n.val { s.seq n.val with handler := none, keyHold := none, events := [] }).setStrSt n.val
          ssRun).strGo n.val
            (s.strRp n.val)).strBegin n.val) := by
  show execReturnFromEvent n s = _
  rw [execReturnFromEvent, strWord_of_issues hissues]
  dsimp only
  rw [hevents, ok]
  rfl

/-- Settles O54: waits, routines, nano-words, commits and the return have their effects. -/
theorem routinesWaitAndCommit : Obligations.RoutinesWaitAndCommit :=
  ⟨wait_of_event, wait_true_of_strSt_strReady_seq, waitLimitExpiry_of_seq_strSt_strReady, routine_issued,
    nano_issued, commitMark_issued, commitContext_of_abandon, commitContext_issued, commitDone_of_last_item,
    commitTowpath_issued, returnFromEvent_to_routine⟩

/-- Sequencer `n` after its patch `i` failed with code `c`: it leaves the queue and stands stopped. -/
def State.patchFailed (s : State) (n c i : Nat) : State :=
  ((({ s with patchQueue := s.patchQueue.filter (· ≠ n) }.wr (R.STR_PSTAT n) (word (c * 2 ^ 28 + i * 2 ^ 16))).raise
    (R.STR_EVT n) F.STR_EVT_PATCH_FAIL).setStrSt n ssStopped).wf (R.STR_STAT n) F.STR_STAT_RESTARTING 0

/-- A fault inside a handler restarts the sequencer. -/
theorem strFault_of_handler {s : State} {n : Nat} (hready : s.strReady n = true)
    (hhandler : (s.seq n).handler.isSome = true) (cause : Nat) :
    s.strFault n cause = s.strRestart n (some scHandler) true := by
  rw [State.strFault, if_neg (by simp [hready]), if_pos hhandler]
theorem sequencerFault_enters_handler (s : State) (n : Fin 12) (hready : s.strReady n.val = true)
    (hnone : (s.seq n.val).handler = none) :
    exec (.sequencerFault n true) s = .next (s.strAbandon n.val scIllegal) := by
  show execSequencerFault n true s = _
  rw [execSequencerFault, if_pos rfl, State.strFault, if_neg (by simp [hready]), if_neg (by simp [hnone])]
  exact congrArg ok (if_neg (by simp [scIllegal, scFault]))

theorem handlerFault_restarts (s : State) (n : Fin 12) (hready : s.strReady n.val = true)
    (hhandler : (s.seq n.val).handler.isSome = true) :
    exec (.sequencerFault n true) s = .next (s.strRestart n.val (some scHandler) true) ∧
      exec (.sequencerRestart n .handlerFault) s = .next (s.strRestart n.val (some scHandler) true) := by
  refine ⟨congrArg ok (strFault_of_handler hready hhandler _), ?_⟩
  show execSequencerRestart n .handlerFault s = _
  rw [execSequencerRestart, if_pos hhandler, strFault_of_handler hready hhandler, ok]

theorem gateAbandon_of_queued_event (s : State) (a : Fin 4) (habandon : (s.wc a.val).abandon = true)
    (hready : s.strReady (8 + a.val) = true) (hhandler : (s.seq (8 + a.val)).handler.isSome = true)
    (hqueued : (s.seq (8 + a.val)).events.contains scGate = true) : exec (.sequencerGateAbandon a) s = .next s := by
  have hsame : s.strEvent (8 + a.val) scGate = s := by
    rw [State.strEvent, if_neg (by simp [hready]), if_pos hhandler]
    exact if_pos hqueued
  show execSequencerGateAbandon a s = _
  rw [execSequencerGateAbandon, if_pos habandon, hsame]
  exact congrArg ok (if_pos hqueued)

theorem gateAbandon_taken (s : State) (a : Fin 4) (habandon : (s.wc a.val).abandon = true)
    (htaken : ((s.strEvent (8 + a.val) scGate).seq (8 + a.val)).events.contains scGate = false) :
    exec (.sequencerGateAbandon a) s
      = .next ((s.strEvent (8 + a.val) scGate).setWc a.val
          { (s.strEvent (8 + a.val) scGate).wc a.val with abandon := false }) := by
  show execSequencerGateAbandon a s = _
  rw [execSequencerGateAbandon, if_pos habandon]
  exact congrArg ok (if_neg (by rw [htaken]; decide))

theorem sequencerHandover_of_seq (s : State) (n : Fin 8) (hseq : (s.seq n.val).handTo.isSome = true) :
    exec (.sequencerHandover n) s = .next (s.strEvent n.val scHandover) := by
  show execSequencerHandover n s = _
  simp [execSequencerHandover, hseq]

theorem handover_of_down_sequencer (s : State) (n : Fin 8) (m kind k : Nat) (rest : List (Nat × Nat))
    (hto : (s.seq n.val).handTo = some m) (hdown : s.strReady n.val = false)
    (hwq : (s.seq n.val).wq = (kind, k) :: rest) :
    exec (.sequencerHandover n) s
      = .next ((s.setSeq n.val { s.seq n.val with wq := rest, handTo := none }).wqAdd m kind k) := by
  show execSequencerHandover n s = _
  rw [execSequencerHandover, if_pos (by simp [hto]), State.strEvent, if_pos (by simp [hdown]), State.strItems,
    if_neg (by decide), if_pos rfl]
  dsimp only
  rw [hto, hwq, ok]

theorem abort_and_restart_by_write (s : State) (i : Initiator) (n : Fin 12) (hopen : s.strOpen i n.val = true)
    (hrunning : s.flag (R.STR_STAT n.val) F.STR_STAT_RESTARTING = false) :
    exec (.sequencerAbort i n) s = .next (s.strAbort n.val) ∧
      exec (.sequencerRestart n (.write i)) s = .next (s.strRestart n.val none false) := by
  have hclosed : ¬ (!s.strOpen i n.val || s.flag (R.STR_STAT n.val) F.STR_STAT_RESTARTING) = true := by
    simp [hopen, hrunning]
  constructor
  · show execSequencerAbort i n s = _
    rw [execSequencerAbort, State.writeStrCtl, if_neg hclosed, if_neg (by decide), if_pos (by decide), ok]
  · show execSequencerRestart n (.write i) s = _
    rw [execSequencerRestart, State.writeStrCtl, if_neg hclosed, if_pos (by decide), ok]

theorem sequencerRestart_of_noInjection_strReady (s : State) (n : Fin 12) (hnoInjection : s.noInjection)
    (hstrReady : s.strReady n.val = true) :
    exec (.sequencerRestart n .storeError) s = .next ((s.strRestart n.val none false).carry 12 2 false) := by
  show execSequencerRestart n .storeError s = _
  simp [execSequencerRestart, hstrReady, eccCheck_of_noInjection hnoInjection]

theorem patchLoad_applies (s : State) (n : Fin 12) (images : List (Option Nat)) (xs : List PatchBody)
    (hqueued : s.patchQueue.contains n.val = true) (hpatches : patchAll n.val (s.patchesOf n.val) images [] = .inr xs)
    :
    exec (.patchLoad n images) s
      = .next ((((((({ s with patchQueue := s.patchQueue.filter (· ≠ n.val) }.patchApplyAll n.val xs 0).wr
          (R.STR_PSTAT n.val)
          (word (2 ^ 28 + (xs.map fun x : PatchBody => x.matches_.length).foldl (· + ·) 0))).wr (R.STR_PVER n.val)
            (word (((s.patchesOf n.val).getLast?.map fun q : Nat × PatchEntry => q.2.ver).getD 0))).wr
                (R.STR_PMASK_LO n.val)
              (word ((s.patchesOf n.val).foldl (fun (m : Nat) (q : Nat × PatchEntry) => m + 2 ^ q.1) 0))).wr
                  (R.STR_PMASK_HI n.val)
                (word ((s.patchesOf n.val).foldl (fun (m : Nat) (q : Nat × PatchEntry) => m + 2 ^ q.1) 0 / 2 ^
                    32))).strStart n.val).startFlash) := by
  show execPatchLoad n images s = _
  rw [execPatchLoad, State.patchLoad, if_neg (by rw [hqueued]; decide)]
  dsimp only
  rw [hpatches, ok]

theorem patchLoad_fails (s : State) (n : Fin 12) (images : List (Option Nat)) (c i : Nat)
    (hqueued : s.patchQueue.contains n.val = true)
    (hfail : patchAll n.val (s.patchesOf n.val) images [] = .inl (c, i)) :
    ∃ t : State, exec (.patchLoad n images) s = .next (t.report 48 2).startFlash ∧ n.val ∉ t.patchQueue ∧
        t.strSt n.val = ssStopped := by
  refine ⟨s.patchFailed n.val c i, ?_, ?_, ?_⟩
  · show execPatchLoad n images s = _
    rw [execPatchLoad, State.patchLoad, if_neg (by rw [hqueued]; decide)]
    dsimp only
    rw [hfail, ok, State.patchFailed]
  · simp [State.patchFailed, State.setStrSt]
  · simp [State.patchFailed, State.strSt, State.setStrSt, ssStopped]

/-- Settles O55: a fault, a gate, a hand-over and an abort end what runs; a restart begins again from the patches. -/
theorem sequencersStopAndRestart : Obligations.SequencersStopAndRestart :=
  ⟨sequencerFault_enters_handler, handlerFault_restarts, gateAbandon_of_queued_event, gateAbandon_taken,
    sequencerHandover_of_seq, handover_of_down_sequencer, abort_and_restart_by_write,
    sequencerRestart_of_noInjection_strReady, patchLoad_applies, patchLoad_fails⟩

end Sys2Proof.Machine
end
section
/-!
The channels and the cipher (R421 to R434).
-/

namespace Sys2Proof.Machine
theorem adjust_adj (adj : BitVec 12) : fget (word (adj.toNat * 2 ^ 16)) F.CAR_SEG_FILL_ADJ = adj.toNat := by
  have h := adj.isLt
  simp [fget, word]
  omega

theorem adjust_clear (adj : BitVec 12) : fget (word (adj.toNat * 2 ^ 16)) F.CAR_SEG_FILL_CLR = 0 := by
  have h := adj.isLt
  simp [fget, word]
  omega

@[simp] theorem writeFields_obs (s : State) (o : Nat) (v : Word) : (s.writeFields o v).obs = s.obs := by
  unfold State.writeFields
  split
  · rfl
  · split_ifs <;> rfl

/-- A raw block control word with GO, at a port at rest. -/
theorem writeRawCtl_of_go {s : State} {i : Initiator} {p : Nat} {v : Word} (hready : s.ready .obsidian = true)
    (hport : rawPort i = some p) (hidle : s.rawBusy p = false) (hdest : fget v F.OBS_RAW_CTL_DEST ≠ 3)
    (hgo : fget v F.OBS_RAW_CTL_GO = 1) (upset : Bool) :
    s.writeRawCtl i p v upset
      = (let t := (s.writeFields (R.OBS_RAW_CTL p) v).raise (R.OBS_RAW_STAT p) F.OBS_RAW_STAT_BUSY
        let k := fget v F.OBS_RAW_CTL_KEY
        let r : RawReq := { port := p, slot := k, half := fget v F.OBS_RAW_CTL_HALF = 1,
                            dir := fget v F.OBS_RAW_CTL_DIR = 1, block := t.rawIn p,
                                dest := fget v F.OBS_RAW_CTL_DEST, au := fget v F.OBS_RAW_CTL_AU }
        if !t.portMayUse p k then (t.setOut p 0).rawEnd p rsOk
        else if (t.keyCheck k upset).obs.cmds.any fun c => c.slot = k then (t.keyCheck k upset).holdRaw r
        else ((t.keyCheck k upset).rawResolve r).obsAdvance) := by
  rw [State.writeRawCtl, if_neg (by simp [hready, hport, hidle, hdest])]
  exact if_neg (by rw [hgo]; decide)

theorem keyCheck_of_noInjection {s : State} (h : s.noInjection) (k : Nat) : s.keyCheck k false = s := by
  unfold State.keyCheck
  split
  · rfl
  · rw [eccCheck_of_noInjection h]
    rfl

/-- A port's request and its busy bit leave the injector. -/
theorem noInjection_rawBusy {s : State} (h : s.noInjection) (p : Fin 14) (v : Word) :
    ((s.writeFields (R.OBS_RAW_CTL p.val) v).raise (R.OBS_RAW_STAT p.val) F.OBS_RAW_STAT_BUSY).noInjection := by
  have h1 : R.TGT_INJ_STAT ≠ R.OBS_RAW_CTL p.val := by unfold R.TGT_INJ_STAT R.OBS_RAW_CTL; omega
  have h2 : R.TGT_INJ_STAT ≠ R.OBS_RAW_STAT p.val := by unfold R.TGT_INJ_STAT R.OBS_RAW_STAT; omega
  rw [State.noInjection, flag_raise_elsewhere _ _ _ h2]
  exact (flag_congr (rd_writeFields_ne s v h1) _).trans h
theorem channelStart_of_idle_channel (s : State) (i : Initiator) (k : Fin 32) (v : Word)
    (hready : s.ready .carriage = true) (hmay : s.mayControl i (carChanRes k.val) = true)
    (hstart : fget v F.CAR_CH_CTL_START = 1) (hen : fget v F.CAR_CH_CTL_EN = 1) (hdw : fget v F.CAR_CH_CTL_DW ≤ 5)
    (hsw : fget v F.CAR_CH_CTL_SW ≤ 5) (hburst : fget v F.CAR_CH_CTL_BURST ≠ 0)
    (hburst2 : fget v F.CAR_CH_CTL_BURST ≤ 64)
    (hreq : fget v F.CAR_CH_CTL_REQ = s.rf (R.CAR_CH_CTL k.val) F.CAR_CH_CTL_REQ) (hidle : s.carBusy k.val = false) :
    exec (.channelStart i k v) s = .next ((s.writeFields (R.CAR_CH_CTL k.val) v).carStart k.val) := by
  have hreq' : fget (s.rd (R.CAR_CH_CTL k.val)) F.CAR_CH_CTL_REQ = fget v F.CAR_CH_CTL_REQ := hreq.symm
  show execChannelStart i k v s = _
  rw [execChannelStart, if_pos hstart, State.writeCarCtl, if_neg (by
      simp only [hready, hmay, hreq', hstart, hen, hburst]
      simp
      omega), if_neg (by simp [hidle])]
  exact congrArg ok (if_pos hstart)

theorem channelStart_of_carBusy_start (s : State) (i : Initiator) (k : Fin 32) (v : Word)
    (hcarBusy : s.carBusy k.val = true) (hstart : fget v F.CAR_CH_CTL_START = 1) :
    exec (.channelStart i k v) s = .next s := by
  show execChannelStart i k v s = _
  simp [execChannelStart, hcarBusy, hstart, State.writeCarCtl]

theorem channelDrained_of_carCh (s : State) (k : Fin 32) (hcarCh : (s.carCh k.val).disabled = true) :
    exec (.channelDrained k) s = .next (s.carDrain k.val (s.carCh k.val).writes.length) := by
  show execChannelDrained k s = _
  simp [execChannelDrained, hcarCh]

theorem burstIssue_of_filter_carPick (s : State) (p k : Nat) (hfilter : (s.car.ch.filter CarChan.inFlight).length < 8)
    (hcarPick : s.carPick = some (p, k)) : exec .burstIssue s = .next (s.carBurst p k) := by
  show execBurstIssue s = _
  simp [execBurstIssue, hfilter, hcarPick]

theorem burstIssue_of_filter (s : State) (hfilter : 8 ≤ (s.car.ch.filter CarChan.inFlight).length) :
    exec .burstIssue s = .next s := by
  show execBurstIssue s = _
  simp [execBurstIssue, hfilter]

theorem beatReadResponse_of_no_read (s : State) (k : Fin 32) (hcarCh : (s.carCh k.val).reads = []) :
    exec (.beatReadResponse k) s = .next s := by
  show execBeatReadResponse k s = _
  simp [execBeatReadResponse, hcarCh, State.carRead]

theorem beatWriteResponse_of_no_write (s : State) (k : Fin 32) (hcarCh : (s.carCh k.val).writes = []) :
    exec (.beatWriteResponse k) s = .next s := by
  show execBeatWriteResponse k s = _
  simp [execBeatWriteResponse, hcarCh, State.carWrite]

theorem beatReadResponse_of_read (s : State) (k : Fin 32) (o : Nat) (rest : List Nat)
    (_hcarCh : (s.carCh k.val).reads = o :: rest) : exec (.beatReadResponse k) s = .next (s.carRead k.val) := by
  show execBeatReadResponse k s = _
  simp [execBeatReadResponse]

theorem beatWriteResponse_of_write (s : State) (k : Fin 32) (b : CarBeat) (rest : List CarBeat)
    (_hcarCh : (s.carCh k.val).writes = b :: rest) : exec (.beatWriteResponse k) s = .next (s.carWrite k.val) := by
  show execBeatWriteResponse k s = _
  simp [execBeatWriteResponse]

theorem requestEdge_of_line (s : State) (l : Fin 64) (hline : (l.val < 48 ∨ 56 ≤ l.val)) :
    exec (.requestEdge l) s = .next ((List.range 32).foldl (fun t k => t.edgeAt l.val k) s) := by
  show execRequestEdge l s = _
  rw [execRequestEdge, State.requestEdge, if_neg (by simp; omega), ok]

theorem requestEdge_of_unused_line (s : State) (l : Fin 64) (hlow : 48 ≤ l.val) (hhigh : l.val < 56) :
    exec (.requestEdge l) s = .next s := by
  show execRequestEdge l s = _
  rw [execRequestEdge, State.requestEdge, if_pos (by simp; omega), ok]

theorem generalTimerExpiry_edges (s : State) (t : Fin 16) :
    exec (.generalTimerExpiry t) s = .next ((List.range 32).foldl (fun u k => u.edgeAt t.val k) s) := by
  show execGeneralTimerExpiry t s = _
  rw [execGeneralTimerExpiry, State.requestEdge, if_neg (by simp; omega), ok]

theorem softwareRequest_next (s : State) (i : Initiator) (l : BitVec 8) (hready : s.ready .carriage = true) :
    exec (.softwareRequest i l) s
      = .next ((List.range 8).foldl
          (fun t b => if bitAt l.toNat b && t.mayRaise i (56 + b) then t.requestEdge (56 + b) else t) s) := by
  show execSoftwareRequest i l s = _
  simp [execSoftwareRequest, hready, State.writeSwreq]

theorem softwareRequest_of_not_ready (s : State) (i : Initiator) (l : BitVec 8) (hready : s.ready .carriage = false) :
    exec (.softwareRequest i l) s = .next s := by
  show execSoftwareRequest i l s = _
  simp [execSoftwareRequest, hready, State.writeSwreq]

theorem segmentClear_of_control (s : State) (i : Initiator) (g : Fin 32) (hready : s.ready .carriage = true)
    (hmay : s.mayControl i (bufSegRes g.val) = true) :
    exec (.segmentClear i g) s = .next (s.setFill g.val 0 false) := by
  show execSegmentClear i g s = _
  rw [execSegmentClear, State.writeSegFill, if_neg (by simp [hready, hmay]), if_pos (by decide), ok]

theorem segmentAdjust_by_owner (s : State) (g : Fin 32) (adj : BitVec 12) (hready : s.ready .carriage = true)
    (hmay : s.mayControl .port (bufSegRes g.val) = true) (howner : s.owner (bufSegRes g.val) = 1) :
    exec (.segmentAdjust .port g adj) s
      = .next (s.setFill g.val
          (64 * clampNat 0 1024 (((s.segFill g.val / 64 : Nat) : Int) + signedOf 12 adj.toNat).toNat) true) := by
  show execSegmentAdjust .port g adj s = _
  rw [execSegmentAdjust, State.writeSegFill, if_neg (by simp [hready, hmay]), if_neg (by rw [adjust_clear]; decide),
    adjust_adj]
  exact congrArg ok (if_pos (by simp [howner]))

theorem setFill_without_edge (s : State) (g : Fin 32) (n : Nat) (edge : Bool) (hn : n ≤ 65536) (hedge : edge = false)
    :
    (s.setFill g.val n edge).segFill g.val = n ∧
      (s.setFill g.val n edge).rf (R.CAR_SEG_FILL g.val) F.CAR_SEG_FILL_FILL = n / 64 ∧
        OnlyRegs [R.CAR_SEG_FILL g.val] s (s.setFill g.val n edge) := by
  have hlevel : n / 64 < 2 ^ 11 := by omega
  have hfill : s.setFill g.val n edge = { s with car := { s.car with fill := spSet 0 s.car.fill g n } }.wf
      (R.CAR_SEG_FILL g) F.CAR_SEG_FILL_FILL (n / 64) := by
    simp only [State.setFill, hedge, Bool.false_and, Bool.false_eq_true, if_false]
  rw [hfill]
  refine ⟨?_, ?_, ?_⟩
  · exact spGetD_set_self _ _ _ _
  · rw [rf_wf_same _ _ _ (by decide) (by decide)]
    exact Nat.mod_eq_of_lt hlevel
  · simp

theorem keyStage_appends (s : State) (i : Initiator) (v : Word) (hopen : s.obsOpen i = true)
    (hroom : s.obs.staged.length < 16) :
    Completes (.keyStage i v) s fun t =>
      t.obs = { s.obs with staged := s.obs.staged ++ [v] } ∧
        t.rf R.OBS_KEY_STAT F.OBS_KEY_STAT_STAGED = s.obs.staged.length + 1 ∧ OnlyRegs [R.OBS_KEY_STAT] s t := by
  refine completes_of_next (t := { s with obs := { s.obs with staged := s.obs.staged ++ [v] } }.wf R.OBS_KEY_STAT
    F.OBS_KEY_STAT_STAGED (s.obs.staged.length + 1)) ?_ ⟨rfl, ?_, by simp⟩
  · show execKeyStage i v s = _
    rw [execKeyStage, State.writeKeyData, if_neg (by simp [hopen]; omega), ok]
  · rw [rf_wf_same _ _ _ (by decide) (by decide)]
    exact Nat.mod_eq_of_lt (by omega)

theorem keyStage_of_length (s : State) (i : Initiator) (v : Word) (hlength : 16 ≤ s.obs.staged.length) :
    exec (.keyStage i v) s = .next s := by
  show execKeyStage i v s = _
  simp [execKeyStage, hlength, State.writeKeyData]

theorem keyLoad_of_obsOpen_mayControl_length (s : State) (i : Initiator) (slot : Fin 4096)
    (hobsOpen : s.obsOpen i = true) (hmayControl : s.mayControl i (keyRes slot.val) = true)
    (hlength : s.obs.staged.length = 16) :
    exec (.keyLoad i slot) s
      = .next (({ s with obs := { s.obs with
          staged := [], cmds := s.obs.cmds ++ [({ slot := slot.val, load := some (wordsBits s.obs.staged) } :
              KeyCmd)] } }.wf
            R.OBS_KEY_STAT F.OBS_KEY_STAT_STAGED 0).obsAdvance) := by
  show execKeyLoad i slot s = _
  simp [execKeyLoad, hobsOpen, hmayControl, hlength, State.writeKeyCmd]

theorem keyLoad_of_length (s : State) (i : Initiator) (slot : Fin 4096) (hlength : s.obs.staged.length ≠ 16) :
    exec (.keyLoad i slot) s = .next s := by
  show execKeyLoad i slot s = _
  simp [execKeyLoad, hlength, State.writeKeyCmd]

theorem keyZero_of_obsOpen_mayControl (s : State) (i : Initiator) (slot : Fin 4096) (hobsOpen : s.obsOpen i = true)
    (hmayControl : s.mayControl i (keyRes slot.val) = true) :
    exec (.keyZero i slot) s
      = .next (({ s with obs := { s.obs with
          staged := [], cmds := s.obs.cmds ++ [({ slot := slot.val, load := none } : KeyCmd)] } }.wf
            R.OBS_KEY_STAT F.OBS_KEY_STAT_STAGED 0).obsAdvance) := by
  show execKeyZero i slot s = _
  simp [execKeyZero, hobsOpen, hmayControl, State.writeKeyCmd]

theorem rawBlockOp_not_allowed (s : State) (i : Initiator) (port : Fin 14) (v : Word)
    (hready : s.ready .obsidian = true) (hport : rawPort i = some port.val) (hidle : s.rawBusy port.val = false)
    (hdest : fget v F.OBS_RAW_CTL_DEST ≠ 3) (hgo : fget v F.OBS_RAW_CTL_GO = 1) :
    (∀ t : State, t = (s.writeFields (R.OBS_RAW_CTL port.val) v).raise (R.OBS_RAW_STAT port.val) F.OBS_RAW_STAT_BUSY →
      t.portMayUse port.val (fget v F.OBS_RAW_CTL_KEY) = false →
        ∀ upset, exec (.rawBlockOp i port v upset) s = .next ((t.setOut port.val 0).rawEnd port.val rsOk)) := by
  intro t ht hmay upset
  show execRawBlockOp i port v upset s = _
  rw [execRawBlockOp, if_pos hgo, writeRawCtl_of_go hready hport hidle hdest hgo, ← ht,
    if_pos (by simp [hmay]), ok]

theorem rawBlockOp_taken (s : State) (i : Initiator) (port : Fin 14) (v : Word) (hready : s.ready .obsidian = true)
    (hport : rawPort i = some port.val) (hidle : s.rawBusy port.val = false) (hdest : fget v F.OBS_RAW_CTL_DEST ≠ 3)
    (hgo : fget v F.OBS_RAW_CTL_GO = 1) (hcmds : s.obs.cmds = []) (hinj : s.noInjection) :
    (∀ t : State, t = (s.writeFields (R.OBS_RAW_CTL port.val) v).raise (R.OBS_RAW_STAT port.val) F.OBS_RAW_STAT_BUSY →
      t.portMayUse port.val (fget v F.OBS_RAW_CTL_KEY) = true →
        exec (.rawBlockOp i port v false) s
          = .next ((t.rawResolve
              { port := port.val, slot := fget v F.OBS_RAW_CTL_KEY, half := fget v F.OBS_RAW_CTL_HALF = 1,
                dir := fget v F.OBS_RAW_CTL_DIR = 1, block := t.rawIn port.val, dest := fget v F.OBS_RAW_CTL_DEST,
                au := fget v F.OBS_RAW_CTL_AU }).obsAdvance)) := by
  intro t ht hmay
  have hinj' : t.noInjection := by rw [ht]; exact noInjection_rawBusy hinj _ _
  have hcmds' : t.obs.cmds = [] := by
    rw [ht, raise_obs, writeFields_obs, hcmds]
  show execRawBlockOp i port v false s = _
  rw [execRawBlockOp, if_pos hgo, writeRawCtl_of_go hready hport hidle hdest hgo, ← ht,
    if_neg (by simp [hmay]), keyCheck_of_noInjection hinj', if_neg (by simp [hcmds']), ok]

theorem coreBlockDone_ends (s : State) (core : Fin 16) (r : RawReq) (hcore : s.obs.cores.getD core.val none = some r)
    :
    ∃ t : State, t = ({ s with obs := { s.obs with cores := s.obs.cores.set core.val none } }.wf R.OBS_STAT
        ⟨core.val, core.val⟩ 0).rawStore r (aesBlock r.key r.dir r.block) ∧
      exec (.coreBlockDone core) s
        = .next ((((t.keyDrain t.obs.cmds.length).keyBusy.auDrain.coreTake core.val).coreKick 16)) := by
  refine ⟨_, rfl, ?_⟩
  show execCoreBlockDone core s = _
  rw [execCoreBlockDone, State.coreDone, hcore, ok]

theorem rawEnd_shows (s : State) (p : Fin 14) (st : Nat) (hst : st < 4) :
    (s.rawEnd p.val st).rawBusy p.val = false ∧
        (s.rawEnd p.val st).flag (R.OBS_RAW_STAT p.val) F.OBS_RAW_STAT_DONE = true ∧
      (s.rawEnd p.val st).rf (R.OBS_RAW_STAT p.val) F.OBS_RAW_STAT_STATUS = st ∧
        OnlyRegs [R.OBS_RAW_STAT p.val] s (s.rawEnd p.val st) := by
  refine ⟨?_, ?_, ?_, ?_⟩
  · simp [State.rawEnd, State.rawBusy]
  · simp [State.rawEnd]
  · rw [State.rawEnd, rf_wf_same _ _ _ (by decide) (by decide)]
    exact Nat.mod_eq_of_lt (by omega)
  · simp [State.rawEnd]

theorem authUnitOpen_of_rawPort_auCount_auState (s : State) (i : Initiator) (u : Fin 4) (p : Nat)
    (hrawPort : rawPort i = some p) (hready : s.ready .obsidian = true) (hauCount : u.val < s.auCount)
    (hauState : s.auState u.val = auIdle) :
    exec (.authUnitOpen i u) s
      = .next ((((((s.auZero u.val).wf (R.OBS_AU_STAT u.val) F.OBS_AU_STAT_STATE auOpen).wf (R.OBS_AU_STAT u.val)
          F.OBS_AU_STAT_PORT p).wf (R.OBS_AU_STAT u.val) F.OBS_AU_STAT_BLOCKS 0).wf (R.OBS_AU_STAT u.val)
            F.OBS_AU_STAT_TAG_IN 0).wf (R.OBS_AU_STAT u.val) F.OBS_AU_STAT_TAG_SET 0) := by
  show execAuthUnitOpen i u s = _
  simp [execAuthUnitOpen, hrawPort, hready, hauCount, hauState, State.writeAuCtl]

theorem authUnitCompare_of_tags (s : State) (i : Initiator) (u : Fin 4) (p : Nat) (tlen : Fin 32)
    (hport : rawPort i = some p) (hready : s.ready .obsidian = true) (hcount : u.val < s.auCount)
    (hown : s.rf (R.OBS_AU_STAT u.val) F.OBS_AU_STAT_PORT = p) (hopen : s.auState u.val = auOpen)
    (hin : s.flag (R.OBS_AU_STAT u.val) F.OBS_AU_STAT_TAG_IN = true)
    (hset : s.flag (R.OBS_AU_STAT u.val) F.OBS_AU_STAT_TAG_SET = true) (hshort : 4 ≤ tlen.val) (hlong : tlen.val ≤ 16)
    (hidle : s.auInCore u.val = false) : exec (.authUnitCompare i u tlen) s = .next (s.auCompare u.val tlen.val) := by
  show execAuthUnitCompare i u tlen s = _
  rw [execAuthUnitCompare, State.writeAuCtl, hport]
  dsimp only
  rw [if_neg (by simp [hready]; omega), if_neg (by decide), if_neg (by simp [hown]), if_pos rfl,
    if_neg (by simp [hopen, hin, hset]; omega), if_neg (by simp [hidle]), ok]

theorem auCompare_passes (s : State) (u : Fin 4) (tlen : Nat)
    (htag : (s.au u.val).tag % 2 ^ (8 * tlen) = (s.au u.val).expected % 2 ^ (8 * tlen)) :
    (s.auCompare u.val tlen).auState u.val = auPass := by
  rw [State.auCompare, if_pos htag]
  exact rf_wf_same _ _ _ (by decide) (by decide)

theorem auCompare_fails (s : State) (u : Fin 4) (tlen : Nat)
    (htag : (s.au u.val).tag % 2 ^ (8 * tlen) ≠ (s.au u.val).expected % 2 ^ (8 * tlen)) :
    (s.auCompare u.val tlen).auState u.val = auFail ∧
        (s.auCompare u.val tlen).flag R.OBS_EVT F.OBS_EVT_AU_FAIL = true := by
  rw [State.auCompare, if_neg htag]
  constructor
  · have h1 : R.OBS_AU_STAT u.val ≠ R.OBS_EVT := by unfold R.OBS_AU_STAT R.OBS_EVT; omega
    have h2 : R.OBS_AU_STAT u.val ≠ R.OBS_CNT := by unfold R.OBS_AU_STAT R.OBS_CNT; omega
    rw [State.auState, State.countUp, rf_wf_elsewhere _ _ _ _ h2, rf_raise_elsewhere _ _ _ h1]
    exact rf_wf_same _ _ _ (by decide) (by decide)
  · rw [State.countUp, flag_wf_elsewhere _ _ _ _ (by decide)]
    exact flag_raise_same _ _ (by decide)

theorem authUnitClose_of_rawPort_auCount_port (s : State) (i : Initiator) (u : Fin 4) (p : Nat)
    (hrawPort : rawPort i = some p) (hready : s.ready .obsidian = true) (hauCount : u.val < s.auCount)
    (hport : s.rf (R.OBS_AU_STAT u.val) F.OBS_AU_STAT_PORT = p) (hauState : s.auState u.val ≠ auIdle) :
    exec (.authUnitClose i u) s
      = .next ((s.auZero u.val).wf (R.OBS_AU_STAT u.val) F.OBS_AU_STAT_STATE auIdle) := by
  show execAuthUnitClose i u s = _
  simp [execAuthUnitClose, hrawPort, hready, hauCount, hport, hauState, State.writeAuCtl]

theorem authTagWrite_of_auCount_auState_port (s : State) (i : Initiator) (u j : Fin 4) (v : Word)
    (hready : s.ready .obsidian = true) (hauCount : u.val < s.auCount) (hauState : s.auState u.val ≠ auIdle)
    (hport : rawPort i = some (s.rf (R.OBS_AU_STAT u.val) F.OBS_AU_STAT_PORT)) :
    exec (.authTagWrite i u j v) s
      = .next ((s.setAu u.val
          { s.au u.val with
            expected := (s.au u.val).expected - rdLe (s.au u.val).expected (4 * j.val) 4 * 2 ^ (32 * j.val)
              + v.toNat * 2 ^ (32 * j.val) }).raise
            (R.OBS_AU_STAT u.val) F.OBS_AU_STAT_TAG_SET) := by
  show execAuthTagWrite i u j v s = _
  simp [execAuthTagWrite, hready, hauCount, hauState, hport, State.writeAuTag]

theorem authDataRead_of_auCount_auState_port (s : State) (i : Initiator) (u : Fin 4) (hauCount : u.val < s.auCount)
    (hauState : s.auState u.val = auPass) (hport : rawPort i = some (s.rf (R.OBS_AU_STAT u.val) F.OBS_AU_STAT_PORT))
    (hau : (s.au u.val).pos < 4 * s.auBlocks u.val) :
    exec (.authDataRead i u) s
      = .next (((s.setAu u.val { s.au u.val with pos := (s.au u.val).pos + 1 }).auMove u.val (-4)).answer
          (word (rdLe (s.au u.val).data (4 * (s.au u.val).pos) 4))) := by
  show execAuthDataRead i u s = _
  simp [execAuthDataRead, hauCount, hauState, hport, hau, State.readAuData]

theorem authDataRead_of_auState (s : State) (i : Initiator) (u : Fin 4) (hauState : s.auState u.val ≠ auPass) :
    exec (.authDataRead i u) s = .next (s.answer 0) := by
  show execAuthDataRead i u s = _
  simp [execAuthDataRead, hauState, State.readAuData]

/-- Settles O56: channels and segments act for their owner, keys, blocks and authentication units for their port. -/
theorem carriageAndObsidianRun : Obligations.CarriageAndObsidianRun :=
  ⟨channelStart_of_idle_channel, channelStart_of_carBusy_start, channelDrained_of_carCh,
    burstIssue_of_filter_carPick, burstIssue_of_filter, beatReadResponse_of_no_read, beatWriteResponse_of_no_write,
    beatReadResponse_of_read, beatWriteResponse_of_write, requestEdge_of_line, requestEdge_of_unused_line,
    generalTimerExpiry_edges, softwareRequest_next, softwareRequest_of_not_ready, segmentClear_of_control,
    segmentAdjust_by_owner, setFill_without_edge, keyStage_appends, keyStage_of_length,
    keyLoad_of_obsOpen_mayControl_length, keyLoad_of_length, keyZero_of_obsOpen_mayControl, rawBlockOp_not_allowed,
    rawBlockOp_taken, coreBlockDone_ends, rawEnd_shows, authUnitOpen_of_rawPort_auCount_auState,
    authUnitCompare_of_tags, auCompare_passes, auCompare_fails, authUnitClose_of_rawPort_auCount_port,
    authTagWrite_of_auCount_auState_port, authDataRead_of_auCount_auState_port, authDataRead_of_auState⟩

end Sys2Proof.Machine
end
section
/-!
The migration (R435 to R441).
-/

namespace Sys2Proof.Machine
theorem ne_zero_of_flag {s : State} {o : Nat} {f : Fld} (h : s.flag o f = true) : fget (s.rd o) f ≠ 0 := by
  have hone : fget (s.rd o) f = 1 := of_decide_eq_true h
  omega

theorem cswRx_of_down {s : State} (h : s.cswUp = false) (len frame typ : Nat) (f : State → State) :
    s.cswRx len frame typ f = s := if_pos (by simp [h])

theorem cswFrame_of_down {s : State} (h : s.cswUp = false) (len frame typ : Nat) (f : State → State) :
    s.cswFrame len frame typ f = s := cswRx_of_down h len frame typ _

theorem cswRx_of_bad {s : State} {len frame : Nat} (hup : s.cswUp = true) (hbad : frameOk len frame
    = false) (typ : Nat)
    (f : State → State) : s.cswRx len frame typ f = s.countUp R.CSW_CNT_ERR F.CSW_CNT_ERR_CRC_ERR 1 := by
  rw [State.cswRx, if_neg (by simp [hup]), if_pos (by simp [hbad])]

theorem cswFrame_of_bad {s : State} {len frame : Nat} (hup : s.cswUp = true) (hbad : frameOk len frame
    = false) (typ : Nat)
    (f : State → State) : s.cswFrame len frame typ f = s.countUp R.CSW_CNT_ERR F.CSW_CNT_ERR_CRC_ERR 1 :=
  cswRx_of_bad hup hbad typ _

/-- A sound frame in sequence acts, on the state with the sequence number taken. -/
theorem cswFrame_of_sequence {s u : State} {len frame typ : Nat} (hup : s.cswUp
    = true) (hok : frameOk len frame = true)
    (htyp : frameTyp frame = typ) (hseq : s.cswSeq (frameSeq frame) = (true, u)) (f : State → State) :
    s.cswFrame len frame typ f = f u := by
  rw [State.cswFrame, cswRx_of_frameOk hup hok htyp, hseq]
  rfl

/-- An item of no granule has nothing under way. -/
theorem cswLate_of_empty (s : State) {x : CswItem} (h : x.grans = []) : s.cswLate x = false := by
  rw [State.cswLate, h, List.any_eq_false]
  intro e _
  split <;> simp
theorem frames_dropped :
    ∀ (s : State) (len frame : Nat),
    (s.cswUp = false →
      exec (.endFrame len frame) s = .next s ∧ exec (.ackFrame len frame) s = .next s ∧
          exec (.nakFrame len frame) s = .next s ∧
        exec (.planFrame len frame) s = .next s ∧ exec (.stopFrame len frame) s = .next s) ∧
    (s.cswUp = true → frameOk len frame = false →
      exec (.endFrame len frame) s = .next (s.countUp R.CSW_CNT_ERR F.CSW_CNT_ERR_CRC_ERR 1) ∧
        exec (.ackFrame len frame) s = .next (s.countUp R.CSW_CNT_ERR F.CSW_CNT_ERR_CRC_ERR 1) ∧
          exec (.nakFrame len frame) s = .next (s.countUp R.CSW_CNT_ERR F.CSW_CNT_ERR_CRC_ERR 1) ∧
            exec (.planFrame len frame) s = .next (s.countUp R.CSW_CNT_ERR F.CSW_CNT_ERR_CRC_ERR 1) ∧
              exec (.dataFrame len frame) s = .next (s.countUp R.CSW_CNT_ERR F.CSW_CNT_ERR_CRC_ERR 1)) := by
  intro s len frame
  refine ⟨fun hdown => ?_, fun hup hbad => ?_⟩
  · exact ⟨congrArg ok (cswFrame_of_down hdown _ _ _ _), congrArg ok (cswRx_of_down hdown _ _ _ _),
      congrArg ok (cswRx_of_down hdown _ _ _ _), congrArg ok (cswRx_of_down hdown _ _ _ _),
      congrArg ok (cswFrame_of_down hdown _ _ _ _)⟩
  · exact ⟨congrArg ok (cswFrame_of_bad hup hbad _ _), congrArg ok (cswRx_of_bad hup hbad _ _),
      congrArg ok (cswRx_of_bad hup hbad _ _), congrArg ok (cswRx_of_bad hup hbad _ _),
      congrArg ok (cswFrame_of_bad hup hbad _ _)⟩

theorem ackFrame_of_empty_queue (s : State) (len frame : Nat) (hup : s.cswUp = true) (hok : frameOk len frame = true)
    (htyp : frameTyp frame = fyAck) (hqueue : s.csw.queue = []) :
    exec (.ackFrame len frame) s
      = .next (((s.cswAcked (frameAt frame 0 4)).setCredit (frameAt frame 4 2)).cswGo.cswHistoryEnd) := by
  show execAckFrame len frame s = _
  rw [execAckFrame, cswRx_of_frameOk hup hok htyp, State.cswAckIn]
  rw [show ((s.cswAcked (frameAt frame 0 4)).setCredit (frameAt frame 4 2)).csw.queue.length = 0 from
    congrArg List.length hqueue, ok]
  rfl

theorem nakFrame_of_cswUp_frameOk_frameTyp (s : State) (len frame : Nat) (hcswUp : s.cswUp = true)
    (hframeOk : frameOk len frame = true) (hframeTyp : frameTyp frame = fyNak) :
    exec (.nakFrame len frame) s = .next (s.cswAcked (frameAt frame 0 4)).cswResend := by
  show execNakFrame len frame s = _
  simp [execNakFrame, hcswUp, hframeOk, hframeTyp, State.cswRx, fyNak]

theorem retransmitTimeout_of_cswUp (s : State) (hcswUp : s.cswUp = true) :
    exec .retransmitTimeout s = .next s.cswResend := by
  show execRetransmitTimeout s = _
  simp [execRetransmitTimeout, hcswUp]

theorem planFrame_at_rest (s : State) (len frame : Nat) (hup : s.cswUp = true) (hrest : s.cswRest = true)
    (hok : frameOk len frame = true) (htyp : frameTyp frame = fyPlan) (hseq : frameSeq frame = 0) :
    exec (.planFrame len frame) s = .next (s.cswPlanIn (frameAt frame 0 8) (frameAt frame 8 32)) := by
  show execPlanFrame len frame s = _
  rw [execPlanFrame, cswRx_of_frameOk hup hok htyp]
  exact congrArg ok (if_pos (by simp [hrest, hseq]))

theorem frames_in_sequence (s u : State) (len f : Nat) (hup : s.cswUp = true) (hok : frameOk len f = true)
    (hseq : s.cswSeq (frameSeq f) = (true, u)) :
    (frameTyp f = fyPlanAck →
        exec (.planAckFrame len f) s = .next (u.cswPlanAck (frameAt f 8 1) (frameAt f 9 1 ≠ 0) (frameAt f 16 24))) ∧
      (frameTyp f = fyTenant →
        exec (.tenantFrame len f) s
          = .next (u.cswTenantIn (frameAt f 0 2) (frameAt f 2 1 % 2) (frameAt f 3 1 % 8) (frameAt f 8 8))) ∧
      (frameTyp f = fyBegin → s.fwMayTake = true →
        exec (.itemBeginFrame len f) s
          = .next (u.cswBeginIn { key := frameKey f 0, length := frameAt f 24 8, cls := frameAt f 32 1 % 8, st := frameAt f 33 1,
                                  created := frameAt f 40 8 })) ∧
      (frameTyp f = fyData → exec (.dataFrame len f) s = .next (u.cswDataIn (dataRecs len f))) ∧
      (frameTyp f = fyEnd →
        exec (.itemEndFrame len f) s = .next (u.cswEndIn (frameKey f 0) (frameAt f 24 4) (frameAt f 32 48))) ∧
      (frameTyp f = fyAbort → exec (.itemAbortFrame len f) s = .next (u.cswAbortIn (frameKey f 0))) ∧
      (frameTyp f = fyVerified →
          exec (.verifiedFrame len f) s = .next (u.cswVerified (frameKey f 0) (frameAt f 24 1))) ∧
      (frameTyp f = fyHistory → frameAt f 0 4 + (len - 32) ≤ frameAt f 4 4 →
        exec (.historyFrame len f) s
          = .next (u.cswHistoryIn (frameAt f 0 4) (frameAt f 4 4) (len - 32) (frameAt f 8 (len - 32)))) ∧
      (frameTyp f = fyStop → exec (.stopFrame len f) s = .next (u.cswStop (frameAt f 0 1 % 16))) ∧
      (frameTyp f = fyFinish → exec (.endFrame len f) s = .next u) := by
  have hframe : ∀ {typ : Nat}, frameTyp f = typ → ∀ g : State → State, s.cswFrame len f typ g = g u :=
    fun htyp g => cswFrame_of_sequence hup hok htyp hseq g
  refine ⟨fun h => congrArg ok (hframe h _), fun h => congrArg ok (hframe h _), fun h hmay => ?_,
    fun h => congrArg ok (hframe h _), fun h => congrArg ok (hframe h _), fun h => congrArg ok (hframe h _),
    fun h => congrArg ok (hframe h _), fun h hfits => ?_, fun h => congrArg ok (hframe h _),
    fun h => congrArg ok (hframe h _)⟩
  · show execItemBeginFrame len f s = _
    rw [execItemBeginFrame, cswRx_of_frameOk hup hok h, if_neg (by simp [hmay]), hframe h, ok]
  · show execHistoryFrame len f s = _
    rw [execHistoryFrame, hframe h]
    dsimp only
    rw [Nat.min_eq_left (by omega), ok]

theorem itemReadbackDone_true_of_find_ended_not_cswLate
    (s : State) (t kind id ofs : Nat) (x : CswItem) (n digest : Nat)
    (hfind : s.csw.rx.find? (fun y => decide (y.key = ⟨t, kind, id, ofs⟩)) = some x)
    (hended : x.ended = some (n, digest)) (hcswLate : s.cswLate x = false) :
    exec (.itemReadbackDone t kind id ofs true) s = .next (s.cswFail ⟨t, kind, id, ofs⟩ 1) := by
  show execItemReadbackDone t kind id ofs true s = _
  simp [execItemReadbackDone, hfind, hended, hcswLate, State.cswReadBack]

theorem itemReadbackDone_of_find_cswLate (s : State) (t kind id ofs : Nat) (x : CswItem) (lost : Bool)
    (hfind : s.csw.rx.find? (fun y => decide (y.key = ⟨t, kind, id, ofs⟩)) = some x) (hcswLate : s.cswLate x = true) :
    exec (.itemReadbackDone t kind id ofs lost) s = .next s := by
  show execItemReadbackDone t kind id ofs lost s = _
  simp [execItemReadbackDone, hfind, hcswLate, State.cswReadBack]

theorem itemReadbackDone_of_empty_item (s : State) (t kind id ofs : Nat) (x : CswItem) (n : Nat)
    (hfind : s.csw.rx.find? (fun y => decide (y.key = ⟨t, kind, id, ofs⟩)) = some x) (hgrans : x.grans = [])
    (hended : x.ended = some (n, sha384 8 (x.length % 2 ^ 64))) :
    exec (.itemReadbackDone t kind id ofs false) s
      = .next (((s.cswTell ⟨t, kind, id, ofs⟩ 0).dropRx ⟨t, kind, id, ofs⟩).cswFinish ⟨t, kind, id, ofs⟩) := by
  have hlate : s.cswLate x = false := cswLate_of_empty s hgrans
  show execItemReadbackDone t kind id ofs false s = _
  rw [execItemReadbackDone, State.cswReadBack, hfind]
  dsimp only
  rw [if_neg (by simp [hlate]), hended, hgrans]
  exact congrArg ok (if_pos (by simp [CswItem.digest]))

theorem exportGranuleRead_sends (s : State) (x : CswItem) (o : Nat) (rest : List Nat)
    (hsending : s.csw.sending = some x) (htodo : x.todo = o :: rest) (hqueue : s.csw.queue = [])
    (hfree : s.writeWaits (x.key.gran o) = false) (hthere : s.way.lost.contains (x.key.gran o) = false) :
    exec (.exportGranuleRead false) s
      = .next ((({ s with csw := { s.csw with
          sending := some { x.digAdd o (s.storedKey (x.key.gran o)) with todo := rest } } }.cswSend fyData
            [(4, o), (4, 0), (4096, s.storedKey (x.key.gran o))]).cswItemEnd).cswGo) := by
  show execExportGranuleRead false s = _
  rw [execExportGranuleRead, State.exportGranule, hsending]
  dsimp only
  rw [htodo]
  dsimp only
  rw [if_neg (by simp [hqueue, hfree]), if_neg (by rw [hthere]; decide), ok]

theorem exportGranuleRead_true_of_sending_todo_queue (s : State) (x : CswItem) (o : Nat) (rest : List Nat)
    (hsending : s.csw.sending = some x) (htodo : x.todo = o :: rest) (hqueue : s.csw.queue = [])
    (hwriteWaits : s.writeWaits (x.key.gran o) = false) :
    exec (.exportGranuleRead true) s = .next (s.cswAbort x) := by
  show execExportGranuleRead true s = _
  simp [execExportGranuleRead, hsending, htodo, hqueue, hwriteWaits, State.exportGranule]

theorem sessionGo_starts_plan (s : State) (i : Initiator) (hpair : isPair i = true)
    (hrole : s.rf R.CSW_CTL F.CSW_CTL_ROLE = 1) (hmode : s.mode = mMigration) (hpeer : s.cswPeer = true)
    (hrest : s.cswRest = true) (henable : s.flag R.CSW_CTL F.CSW_CTL_ENABLE = true)
    (hstop : s.rf R.CSW_CTL F.CSW_CTL_STOP = 0) :
    exec (.sessionGo i) s
      = .next ((s.writeFields R.CSW_CTL (fset (s.rd R.CSW_CTL) F.CSW_CTL_GO 1)).cswPlan) := by
  have hrole' : fget (fset (s.rd R.CSW_CTL) F.CSW_CTL_GO 1) F.CSW_CTL_ROLE = 1 :=
    (fget_fset_other _ _ (by decide) (by decide) (by decide)).trans hrole
  have henable' : fget (fset (s.rd R.CSW_CTL) F.CSW_CTL_GO 1) F.CSW_CTL_ENABLE ≠ 0 := by
    rw [fget_fset_other _ _ (by decide) (by decide) (by decide)]
    exact ne_zero_of_flag henable
  have hstop' : fget (fset (s.rd R.CSW_CTL) F.CSW_CTL_GO 1) F.CSW_CTL_STOP = 0 :=
    (fget_fset_other _ _ (by decide) (by decide) (by decide)).trans hstop
  have hgo : fget (fset (s.rd R.CSW_CTL) F.CSW_CTL_GO 1) F.CSW_CTL_GO
      = 1 := fget_fset_same _ _ (by decide) (by decide)
  show execSessionGo i s = _
  rw [execSessionGo, State.writeCswCtl, hrole', hgo, if_neg (by simp [hpair, hmode, hpeer, hrest])]
  dsimp only
  rw [if_neg henable', hstop', if_neg (by decide)]
  exact congrArg ok (if_pos (by decide))

theorem sessionStop_drains (s : State) (i : Initiator) (hpair : isPair i = true)
    (hrole : s.rf R.CSW_CTL F.CSW_CTL_ROLE ≠ 3) (hgo : s.rf R.CSW_CTL F.CSW_CTL_GO = 0)
    (henable : s.flag R.CSW_CTL F.CSW_CTL_ENABLE = true) (hsame : s.cswRole = s.rf R.CSW_CTL F.CSW_CTL_ROLE) :
    exec (.sessionStop i) s
      = .next ((s.writeFields R.CSW_CTL (fset (s.rd R.CSW_CTL) F.CSW_CTL_STOP 1)).cswDrain) := by
  have hrole' : fget (fset (s.rd R.CSW_CTL) F.CSW_CTL_STOP 1) F.CSW_CTL_ROLE = s.rf R.CSW_CTL F.CSW_CTL_ROLE :=
    fget_fset_other _ _ (by decide) (by decide) (by decide)
  have hgo' : fget (fset (s.rd R.CSW_CTL) F.CSW_CTL_STOP 1) F.CSW_CTL_GO = 0 :=
    (fget_fset_other _ _ (by decide) (by decide) (by decide)).trans hgo
  have henable' : fget (fset (s.rd R.CSW_CTL) F.CSW_CTL_STOP 1) F.CSW_CTL_ENABLE ≠ 0 := by
    rw [fget_fset_other _ _ (by decide) (by decide) (by decide)]
    exact ne_zero_of_flag henable
  have hstop : fget (fset (s.rd R.CSW_CTL) F.CSW_CTL_STOP 1) F.CSW_CTL_STOP = 1 :=
    fget_fset_same _ _ (by decide) (by decide)
  show execSessionStop i s = _
  rw [execSessionStop, State.writeCswCtl, hrole', hgo', hstop, if_neg (by simp [hpair, hrole, hsame])]
  dsimp only
  rw [if_neg henable', if_pos rfl]
  exact congrArg (fun t => ok (State.cswDrain t)) (if_neg (by decide))

theorem sessionDrained_of_cswSt_cswItems (s : State) (hcswSt : s.cswSt = csDrain) (hcswItems : s.cswItems = []) :
    exec .sessionDrained s = .next (s.cswStopTell ceRequest) := by
  show execSessionDrained s = _
  simp [execSessionDrained, hcswSt, hcswItems]

theorem sessionDrained_of_cswSt (s : State) (hcswSt : s.cswSt ≠ csDrain) : exec .sessionDrained s = .next s := by
  show execSessionDrained s = _
  simp [execSessionDrained, hcswSt]

/-- Settles O58: frames act in sequence by their type, and the session is gone, stopped and drained. -/
theorem migrationRuns : Obligations.MigrationRuns :=
  ⟨frames_dropped, ackFrame_of_empty_queue, nakFrame_of_cswUp_frameOk_frameTyp, retransmitTimeout_of_cswUp,
    planFrame_at_rest, frames_in_sequence, itemReadbackDone_true_of_find_ended_not_cswLate,
    itemReadbackDone_of_find_cswLate, itemReadbackDone_of_empty_item, exportGranuleRead_sends,
    exportGranuleRead_true_of_sending_todo_queue, sessionGo_starts_plan, sessionStop_drains,
    sessionDrained_of_cswSt_cswItems, sessionDrained_of_cswSt⟩

end Sys2Proof.Machine
end
section
/-!
The rows of five units (R330 to R451).
-/

namespace Sys2Proof.Machine
theorem mainInputUp_charges (s : State) (mv : Nat) (hlow : 10800 < mv) (hhigh : mv ≤ 13200) :
    exec (.mainInputUp mv) s
      = .next ({ (s.setBls { s.bls with mainUp := true }).wf R.BLS_STAT F.BLS_STAT_MAIN_OK 1 with
          sys := { s.sys with mainMv := mv } }).charger := by
  have hrange : mainInRange mv = true := by
    simp [mainInRange]
    omega
  show execMainInputUp mv s = _
  have hup : (s.bls.mainUp || decide (10800 < mv)) = true := by simp [hlow]
  rw [execMainInputUp, hrange, hup, ok]
  rfl

theorem ballastReady_next (s : State) :
    exec (.ballastReady true) s
      = .next (((s.setBls { s.bls with selfTest := true }).wf R.BLS_STAT F.BLS_STAT_ARMED 1).ballastCheck) := by
  show execBallastReady true s = _
  simp [execBallastReady]

theorem measureTimerExpiry_next (s : State) (hdue : s.measureDue = true) (hmain : s.onHoldup = false)
    (hidle : s.flag R.BLS_MEAS_CTL F.BLS_MEAS_CTL_BUSY = false) :
    exec .measureTimerExpiry s
      = .next ((s.raise R.BLS_MEAS_CTL F.BLS_MEAS_CTL_BUSY).setBls { s.bls with chargeFail := false, measAt := s.now }).charger := by
  show execMeasureTimerExpiry s = _
  rw [execMeasureTimerExpiry, if_pos hdue, State.measureStart, if_neg (by simp [hmain, hidle]), ok]

theorem mainReturn_next (s : State) (mv : Nat) (hmain : s.onHoldup = false) (hlow : 10800 ≤ mv) (hhigh : mv ≤ 13200) :
    exec (.mainReturn mv) s
      = .next { s.wf R.BLS_STAT F.BLS_STAT_MAIN_OK 1 with sys := { s.sys with mainMv := mv } } := by
  have hrange : mainInRange mv = true := by simp [mainInRange, hlow, hhigh]
  have hmain' : (s.wf R.BLS_STAT F.BLS_STAT_MAIN_OK 1).flag R.BLS_STAT F.BLS_STAT_ON_HOLDUP = false := by
    simpa [State.onHoldup] using hmain
  show execMainReturn mv s = _
  rw [execMainReturn, if_neg (by omega), hrange]
  exact if_pos (by rw [Bool.not_eq_true']; exact hmain')

theorem sramScrubStep_next (s : State) (r : Fin 10) (nw : Bool) (k : SramSpot) (hinj : s.noInjection)
    (hen : s.flag R.BED_SS_CTL F.BED_SS_CTL_EN = true)
    (hregion : bitAt (s.rf R.BED_SS_CTL F.BED_SS_CTL_REGIONS) r.val = true) (hlap : s.bed.ssCount < 524287) :
    exec (.sramScrubStep r 0 nw k) s = .next { s with bed := { s.bed with ssCount := s.bed.ssCount + 1 } } := by
  have hlap' : decide (524287 ≤ s.bed.ssCount) = false := decide_eq_false (by omega)
  show execSramScrubStep r 0 nw k s = _
  rw [execSramScrubStep, if_neg (by simp [hen, hregion]), hlap']
  dsimp only
  rw [eccCheck_of_noInjection (by exact hinj)]
  rfl

theorem shaleDisable_next (s : State) (i : Initiator) (v : Word) (hpair : isPair i = true)
    (hen : fget v F.SHL_CTL_EN = 0) (hon : s.flag R.SHL_CTL F.SHL_CTL_EN = true) (hop : s.bed.shlOp = none)
    (hlines : s.bed.lines = []) :
    exec (.shaleDisable i v) s = .next ((s.wf R.SHL_CTL F.SHL_CTL_EN 0).wf R.SHL_STATUS F.SHL_STATUS_ENABLED 0) := by
  have hdirty : ((s.wf R.SHL_CTL F.SHL_CTL_EN 0).wf R.SHL_STATUS F.SHL_STATUS_ENABLED 0).dirtyLines = [] :=
    congrArg (List.filter _) hlines
  show execShaleDisable i v s = _
  rw [execShaleDisable, if_pos hen, State.writeShlCtl, if_neg (by simp [hpair]), if_neg (by rw [hen]; decide),
    if_pos hon, shlFinish_of_idle hop, if_pos hdirty, ok]

theorem shaleInvRange_next (s : State) (i : Initiator) (v : Word) (hpair : isPair i = true)
    (hbusy : s.flag R.SHL_INV_STATUS F.SHL_INV_STATUS_BUSY = false) (hen : s.flag R.SHL_CTL F.SHL_CTL_EN = false)
    (hshlDraining : s.shlDraining = false) (hop : fget v F.SHL_OP_OP = 1) :
    exec (.shaleInvRange i v) s
      = .next (({ s with bed := { s.bed with shlOp := some (.invRange s.shlSpan.1 s.shlSpan.2) } }.raise
          R.SHL_INV_STATUS
          F.SHL_INV_STATUS_BUSY).wf R.SHL_INV_STATUS F.SHL_INV_STATUS_LAST 1) := by
  show execShaleInvRange i v s = _
  simp [execShaleInvRange, hpair, hbusy, hen, hshlDraining, hop, State.writeShlOp]

theorem shaleInvAll_next (s : State) (i : Initiator) (v : Word) (hpair : isPair i = true)
    (hbusy : s.flag R.SHL_INV_STATUS F.SHL_INV_STATUS_BUSY = false) (hen : s.flag R.SHL_CTL F.SHL_CTL_EN = false)
    (hshlDraining : s.shlDraining = false) (hop : fget v F.SHL_OP_OP = 2) :
    exec (.shaleInvAll i v) s
      = .next (({ s with bed := { s.bed with shlOp := some .invAll } }.raise R.SHL_INV_STATUS
          F.SHL_INV_STATUS_BUSY).wf
          R.SHL_INV_STATUS F.SHL_INV_STATUS_LAST 2) := by
  show execShaleInvAll i v s = _
  simp [execShaleInvAll, hpair, hbusy, hen, hshlDraining, hop, State.writeShlOp]

theorem shaleFill_next (s : State) (i : Initiator) (v : Word) (hpair : isPair i = true)
    (hbusy : s.flag R.SHL_INV_STATUS F.SHL_INV_STATUS_BUSY = false) (hen : s.flag R.SHL_CTL F.SHL_CTL_EN = true)
    (hshlDraining : s.shlDraining = false) (hop : fget v F.SHL_OP_OP = 3)
    (hway : s.wayLocked (fget v F.SHL_OP_WAY) = true) (hshlSpan : s.shlSpan.2 ≤ 2048)
    (hspanInRing : s.spanInRing s.shlSpan.1 s.shlSpan.2 = false) :
    exec (.shaleFill i v) s
      = .next (({ s with bed := { s.bed with
          shlOp := some (.fill (fget v F.SHL_OP_WAY) s.shlSpan.1 s.shlSpan.2) } }.raise R.SHL_INV_STATUS
            F.SHL_INV_STATUS_BUSY).wf R.SHL_INV_STATUS F.SHL_INV_STATUS_LAST 3) := by
  show execShaleFill i v s = _
  simp [execShaleFill, hpair, hbusy, hen, hshlDraining, hop, hway, hshlSpan, hspanInRing, State.writeShlOp]

theorem shaleOpDone_of_invalidation (s : State) (lo n : Nat) (hshlOp : s.bed.shlOp = some (.invRange lo n)) :
    exec .shaleOpDone s
      = .next ((({ s with bed := { s.bed with shlOp := none } }.invalidate fun x => decide (lo ≤ x.line) &&
          decide (x.line < lo + n)).wf
          R.SHL_INV_STATUS F.SHL_INV_STATUS_BUSY 0).raise R.SHL_INV_STATUS F.SHL_INV_STATUS_DONE) := by
  show execShaleOpDone s = _
  simp [execShaleOpDone, hshlOp, State.shlFinish]

theorem requestEdge_edges (s : State) (l : Fin 64) (hline : l.val < 48 ∨ 56 ≤ l.val) :
    exec (.requestEdge l) s = .next ((List.range 32).foldl (fun t k => t.edgeAt l.val k) s) := by
  exact requestEdge_of_line s l hline

theorem segmentAdjust_by_media (s : State) (g : Fin 32) (adj : BitVec 12) (hready : s.ready .carriage = true)
    (hmay : s.mayControl .media (bufSegRes g.val) = true) (howner : s.owner (bufSegRes g.val) = 2) :
    exec (.segmentAdjust .media g adj) s
      = .next (s.setFill g.val
          (64 * clampNat 0 1024 (((s.segFill g.val / 64 : Nat) : Int) + signedOf 12 adj.toNat).toNat) true) := by
  show execSegmentAdjust .media g adj s = _
  rw [execSegmentAdjust, State.writeSegFill, if_neg (by simp [hready, hmay]), if_neg (by rw [adjust_clear]; decide),
    adjust_adj]
  exact congrArg ok (if_pos (by simp [howner]))

theorem keyStage_of_obsOpen_length (s : State) (i : Initiator) (v : Word) (hobsOpen : s.obsOpen i = true)
    (hlength : s.obs.staged.length < 16) :
    exec (.keyStage i v) s
      = .next ({ s with obs := { s.obs with staged := s.obs.staged ++ [v] } }.wf R.OBS_KEY_STAT F.OBS_KEY_STAT_STAGED
          (s.obs.staged.length + 1)) := by
  show execKeyStage i v s = _
  simp [execKeyStage, hobsOpen, hlength, State.writeKeyData]

theorem coreBlockDone_of_getD (s : State) (core : Fin 16) (r : RawReq)
    (_hgetD : s.obs.cores.getD core.val none = some r) :
    exec (.coreBlockDone core) s = .next (s.coreDone core.val) := by
  show execCoreBlockDone core s = _
  simp [execCoreBlockDone]

theorem faultClear_of_one_source (s : State) (i : Initiator) (v : Word) (n : Nat) (hpair : isPair i = true)
    (hone : (statusBits false v).filter s.latched = [n]) (hclass : s.latchedClass n ≠ 3) :
    exec (.faultClear i .machine false v) s = .next (s.clearSource n) := by
  have hall : ∀ m ∈ statusBits false v, s.latched m = true → s.latchedClass m ≠ 3 := fun m hm hl => by
    have h : m ∈ [n] := hone ▸ List.mem_filter.2 ⟨hm, hl⟩
    rw [List.mem_singleton.1 h]
    exact hclass
  have hclear := faultClear_of_not_fatal s i false v hpair hall
  rw [hone, List.foldl_cons, List.foldl_nil] at hclear
  exact hclear

theorem faultPinPulseEnd_next (s : State) (hpulsing : s.flag R.TGT_PIN F.TGT_PIN_PULSING = true) :
    exec .faultPinPulseEnd s
      = .next ((s.wf R.TGT_PIN F.TGT_PIN_PULSING 0).wf R.TGT_PIN F.TGT_PIN_LOW (s.rf R.TGT_PIN F.TGT_PIN_HOLD)) := by
  show execFaultPinPulseEnd s = _
  simp [execFaultPinPulseEnd, hpulsing]

theorem faultPinHold_of_hold (s : State) (i : Initiator) (v : Word) (hpair : isPair i = true)
    (hhold : (s.writeFields R.TGT_PIN v).flag R.TGT_PIN F.TGT_PIN_HOLD = true) :
    exec (.faultPinHold i .machine v) s = .next (s.writeFields R.TGT_PIN v) := by
  show execFaultPinHold i .machine v s = _
  simp [execFaultPinHold, hpair, hhold, State.writePin]

theorem injectArm_next (s : State) (i : Initiator) (count : Nat) (src : Fin 64) (hpair : isPair i = true)
    (hsrc : src.val ∈ injEcc) (hlow : 1 ≤ count) (hhigh : count ≤ 255) (hinj : s.noInjection) :
    exec (.injectArm i .machine count 2 src) s
      = .next { ((s.wf R.TGT_INJ_STAT F.TGT_INJ_STAT_ARMED 1).wf R.TGT_INJ_STAT F.TGT_INJ_STAT_SRC src.val).wf
          R.TGT_INJ_STAT F.TGT_INJ_STAT_LEFT count with tgt := { s.tgt with injBits := 2 } } := by
  show execInjectArm i .machine count 2 src s = _
  rw [execInjectArm, injectArm_of_idle hpair hsrc hlow hhigh hinj, ok]
  simp only [wf_tgt]

theorem injectDisarm_next (s : State) (i : Initiator) (hpair : isPair i = true) :
    exec (.injectDisarm i .machine) s
      = .next ((s.wf R.TGT_INJ_STAT F.TGT_INJ_STAT_ARMED 0).wf R.TGT_INJ_STAT F.TGT_INJ_STAT_LEFT 0) := by
  show execInjectDisarm i .machine s = _
  rw [execInjectDisarm, State.injectDisarm, if_pos (by simp [hpair]), ok]

/-- Settles O59: each row of Ballast, the scrubbers and Shale, Carriage, Obsidian and Tollgate has its own effect. -/
theorem unitsHaveTheirEffects : Obligations.UnitsHaveTheirEffects :=
  ⟨auxInputUp_completes, mainInputUp_charges, railInRegulation_last_rail, socRelease_false_of_rails_not_released,
    railFault_resets, ballastReady_next, linkHeartbeat_true_of_not_link, linkWatchdogExpiry_of_link,
    stageTrip_first, stageUnlatch_next, regenClamp_completes, chargeTimeout_fails, bankMeasureGo_of_go_not_go,
    measureTimerExpiry_next, bankMeasureDone_of_busy, vaultAllowanceUpdate_shows, thermalLevelChange_next,
    powerLoss_of_not_onHoldup_toHoldup, vaultFlushDone_of_flushOver, bankAtVret_of_onHoldup_wr, mainReturn_next,
    emergencyRetract_of_retractDue, retractComplete_next, scrubLapStart_of_en_not_lapOn_min,
    scrubRead_of_lapOn_en_nextGran, sramScrubStep_next, shaleEnable_of_en_not_en_armed, shaleDisable_next,
    shaleDrainDone_of_shlDraining, shaleInvRange_next, shaleInvAll_next, shaleFill_next,
    shaleOpDone_of_invalidation, shaleLock_of_enough_unlocked, channelStart_of_idle_channel, channelDrained_of_carCh,
    burstIssue_of_filter_carPick, beatReadResponse_of_read, beatWriteResponse_of_write, requestEdge_edges,
    generalTimerExpiry_edges, softwareRequest_next, segmentClear_of_control, segmentAdjust_by_media,
    keyStage_of_obsOpen_length, keyLoad_of_obsOpen_mayControl_length, keyZero_of_obsOpen_mayControl,
    rawBlockOp_not_allowed, coreBlockDone_of_getD, authUnitOpen_of_rawPort_auCount_auState, authUnitCompare_of_tags,
    authUnitClose_of_rawPort_auCount_port, authTagWrite_of_auCount_auState_port,
    authDataRead_of_auCount_auState_port, faultLatch_line, faultClear_of_one_source, graceExpiry_unserved,
    heldTakeoutIssue_first, keystoneBackstop_of_none_pending, tollgateSelfCheck_error, faultPinPulseEnd_next,
    faultPinHold_of_hold, fatalClearDone_single, tollgateArmed_of_none_early, injectArm_next, injectDisarm_next⟩

end Sys2Proof.Machine
end
section
/-!
The rows of bring-up, the modes, the host's pages, Quarry and Basalt (R1 to R330).
-/

namespace Sys2Proof.Machine
/-- The descriptor that command word `w` and queue `n`'s registers name. -/
def State.descOf (s : State) (n : Nat) (w : Word) : Desc where
  dst := s.rf (R.QRY_SUB_DST_LO n) F.QRY_SUB_DST_LO_ADDR * 64 + 2 ^ 32 * s.rf (R.QRY_SUB_DST_HI n)
      F.QRY_SUB_DST_HI_ADDR
  psa := s.rf (R.QRY_SUB_PSA_LO n) F.QRY_SUB_PSA_LO_PSA + 2 ^ 32 * s.rf (R.QRY_SUB_PSA_HI n) F.QRY_SUB_PSA_HI_PSA
  sys := s.flag (R.QRY_SUB_PSA_HI n) F.QRY_SUB_PSA_HI_SYS
  sector := fget w F.QRY_SUB_CMD_SECTOR
  cls := fget w F.QRY_SUB_CMD_CLASS
  et := fget w F.QRY_SUB_CMD_ET
  iter := fget w F.QRY_SUB_CMD_ITER
theorem kenulSlotCheck_of_first_slot (s t : State) (img : Nat) (e : Bool) (hready : s.ready .bedrock = true)
    (hgaveUp : s.sys.bootGaveUp = false) (hslotA : s.slotA = none)
    (ht : t = (s.hbmWrite qCpu 0 (stagedBytes img e) (rdLe img 0 (stagedBytes img e))).2) :
    exec (.kenulSlotCheck false img e) s
      = .next (match t.slotB with
        | some b => { t with slotA := some (checkSlot s.keySlots img e) }.kenulOutcome (checkSlot s.keySlots img e) b
        | none => { t with slotA := some (checkSlot s.keySlots img e) }) := by
  subst ht
  show execKenulSlotCheck false img e s = _
  rw [execKenulSlotCheck, if_neg (by simp [hready, hgaveUp, hslotA])]
  simp only [Bool.false_eq_true, if_false]
  cases h : (s.hbmWrite qCpu 0 (stagedBytes img e) (rdLe img 0 (stagedBytes img e))).2.slotB with
  | none => rfl
  | some b => rfl

theorem loaderCheck_judges (s : State) (k : Kenul) (img : Nat) (e : Bool) (hkenul : s.kenul = some k)
    (hloader : s.rf R.SYS_BOOT_STATUS F.SYS_BOOT_STATUS_LOADER = 1) :
    exec (.loaderCheck img e) s
      = .next (if loaderCode k.pubkey img e = 2 then (s.wf R.SYS_BOOT_STATUS F.SYS_BOOT_STATUS_LOADER 2).handOff img
          else s.wf R.SYS_BOOT_STATUS F.SYS_BOOT_STATUS_LOADER (loaderCode k.pubkey img e)) := by
  show execLoaderCheck img e s = _
  rw [execLoaderCheck, hkenul]
  dsimp only
  rw [if_neg (not_not_intro hloader)]
  split
  · next hgood => rw [hgood, ok]
  · rw [ok]

theorem fuseProgram_starts (s t : State) (slot : Fin 4) (mv : Nat) (ht : t = s.withMain mv)
    (hmode : t.mode = mBedding) (hidle : t.sys.fuseOp = none) :
    exec (.fuseProgram .port .machine 0xF05E slot mv) s
      = .next ({ t with sys := { t.sys with
          fuseOp := some ⟨slot.val, true, t.fuseRefusal slot.val true, t.stagedHash⟩ } }.raise R.SYS_FUSE_PGM_STATUS
            F.SYS_FUSE_PGM_STATUS_BUSY) := by
  show execFuseProgram .port .machine 0xF05E slot mv s = _
  rw [execFuseProgram, ← ht, State.fuseStart, if_pos (by simp [hmode, hidle]), ok]

theorem fuseRevoke_starts (s t : State) (slot : Fin 4) (mv : Nat) (ht : t = s.withMain mv) (hmode : t.mode = mBedding)
    (hidle : t.sys.fuseOp = none) :
    exec (.fuseRevoke .port .machine 0xF05E slot mv) s
      = .next ({ t with sys := { t.sys with
          fuseOp := some ⟨slot.val, false, t.fuseRefusal slot.val false, t.stagedHash⟩ } }.raise R.SYS_FUSE_PGM_STATUS
            F.SYS_FUSE_PGM_STATUS_BUSY) := by
  show execFuseRevoke .port .machine 0xF05E slot mv s = _
  rw [execFuseRevoke, ← ht, State.fuseStart, if_pos (by simp [hmode, hidle]), ok]

theorem fuseOpDone_of_fuseOp_refused_with (s t : State) (o : FuseOp) (m : Bool) (hfuseOp : s.sys.fuseOp = some o)
    (hrefused : o.refused = none)
    (hwith : t = { s with sys := { s.sys with
      fuseOp := none,
      fuses := { s.sys.fuses with slots := s.sys.fuses.slots.set o.slot (o.burn (s.keySlotAt o.slot) m).1 } } }) :
    exec (.fuseOpDone m) s
      = .next (((t.wf R.SYS_FUSE_PGM_STATUS F.SYS_FUSE_PGM_STATUS_BUSY 0).raise R.SYS_FUSE_PGM_STATUS
          F.SYS_FUSE_PGM_STATUS_DONE).wf R.SYS_FUSE_PGM_STATUS F.SYS_FUSE_PGM_STATUS_RESULT
            (o.burn (s.keySlotAt o.slot) m).2) := by
  show execFuseOpDone m s = _
  simp [execFuseOpDone, hfuseOp, hrefused, hwith]

theorem modeTransitionComplete_of_trans_setReady (s : State) (htrans : s.sys.trans = .toService)
    (_hsetReady : (s.setReady .media s.mediaOk).sys.trans = .toService)
    (hready : (s.setReady .media s.mediaOk).ready .media = true) :
    exec .modeTransitionComplete s
      = .next ({ s.setReady .media s.mediaOk with
          sys := { (s.setReady .media s.mediaOk).sys with trans := .none } }.modeDone mService) := by
  show execModeTransitionComplete s = _
  simp [execModeTransitionComplete, htrans, hready, State.refreshMedia]

theorem vcmVelocitySample_at_rest (s t : State) (a : Fin 4) (mv ma : List Int)
    (ht : t = s.setBls { s.bls with vel := spSet 0 s.bls.vel a.val (s.velocity a.val mv ma) })
    (hloading : t.actSt a.val ≠ aLoading) (hunloading : t.actSt a.val ≠ aUnloading) :
    exec (.vcmVelocitySample a mv ma) s = .next t := by
  show execVcmVelocitySample a mv ma s = _
  rw [execVcmVelocitySample, ← ht]
  exact if_neg (by simp [hloading, hunloading])

theorem shadowCommit_and_discard (s : State) (i : Initiator) (g : Fin 2) (hpair : isPair i = true)
    (hnone : (s.hp g.val).commitPending = false) :
    exec (.shadowCommit i g) s = .next (s.setHp g.val { s.hp g.val with commitPending := true }) ∧
      exec (.shadowDiscard i g) s = .next (s.setHp g.val { s.hp g.val with staged := [] }) := by
  have hopen : ¬ (!hpWriter i || (s.hp g.val).commitPending) = true := by simp [hpWriter, hpair, hnone]
  constructor
  · show execShadowCommit i g s = _
    rw [execShadowCommit, State.writeShdCommit, if_neg hopen, if_neg (by decide), if_pos (by decide), ok]
  · show execShadowDiscard i g s = _
    rw [execShadowDiscard, State.writeShdCommit, if_neg hopen, if_pos (by decide), ok]

theorem shadowCommitEffect_next (s t : State) (g : Fin 2) (hpending : (s.hp g.val).commitPending = true)
    (ht : t = (s.hp g.val).staged.foldl (fun t q => t.setShadow g.val q.1 q.2) s) :
    exec (.shadowCommitEffect g) s
      = .next ((t.setHp g.val { t.hp g.val with staged := [], commitPending := false }).raise (R.HP_EVT g.val)
          F.HP_EVT_SHD_DONE) := by
  subst ht
  show execShadowCommitEffect g s = _
  rw [execShadowCommitEffect, if_pos hpending, ok]

theorem descriptorPush_next (s : State) (i : Initiator) (n : Fin 8) (v w : Word)
    (hw : w = fset v F.QRY_SUB_CMD_FLUSH 0) (hclass : fget w F.QRY_SUB_CMD_CLASS ≠ 3)
    (hopen : s.qryOpen i n.val = true) (hroom : s.qryFree n.val ≠ 0) :
    ∃ d : Desc, d.sector = fget w F.QRY_SUB_CMD_SECTOR ∧ d.cls = fget w F.QRY_SUB_CMD_CLASS ∧
      d.et = fget w F.QRY_SUB_CMD_ET ∧ d.iter = fget w F.QRY_SUB_CMD_ITER ∧
        exec (.descriptorPush i n v) s = .next (s.setQents n.val (s.qents n.val ++ [(d, .queued)])) := by
  have hflush : fget w F.QRY_SUB_CMD_FLUSH ≠ 1 := by
    rw [hw, fget_fset_same _ _ (by decide) (by decide)]
    decide
  refine ⟨s.descOf n.val w, rfl, rfl, rfl, rfl, ?_⟩
  show execDescriptorPush i n v s = _
  rw [execDescriptorPush, ← hw, State.writeSubCmd, if_neg (by simp [hopen]), if_neg hclass, if_neg hflush,
    if_neg hroom, ok]
  rfl

theorem descriptorFlush_next (s : State) (i : Initiator) (n : Fin 8) (v w : Word)
    (hw : w = fset v F.QRY_SUB_CMD_FLUSH 1) (hclass : fget w F.QRY_SUB_CMD_CLASS ≠ 3)
    (hopen : s.qryOpen i n.val = true) : exec (.descriptorFlush i n v) s = .next (s.qryFlush n.val) := by
  have hflush : fget w F.QRY_SUB_CMD_FLUSH = 1 := by
    rw [hw, fget_fset_same _ _ (by decide) (by decide)]
    rfl
  show execDescriptorFlush i n v s = _
  rw [execDescriptorFlush, ← hw, State.writeSubCmd, if_neg (by simp [hopen]), if_neg hclass, if_pos hflush, ok]

theorem completionPost_of_qents
    (s : State) (n : Fin 8) (d : Desc) (c : Cpl) (id : Option Nat) (an : Int) (rest : List (Desc × DescSt))
    (hqents : s.qents n.val = (d, .done c id an) :: rest) :
    exec (.completionPost n) s = .next ((s.postCpl n.val).ladderPosted n.val c an) := by
  show execCompletionPost n s = _
  simp [execCompletionPost, hqents]

theorem completionPop_of_qryOpen_pop (s : State) (i : Initiator) (n : Fin 8) (v : Word)
    (hqryOpen : s.qryOpen i n.val = true) (hpop : fget v F.QRY_CPL_POP_POP = 1) :
    exec (.completionPop i n v) s = .next (s.setQcpls n.val ((s.qcpls n.val).drop 1)) := by
  show execCompletionPop i n v s = _
  simp [execCompletionPop, hqryOpen, hpop, State.writeCplPop]

theorem engineFault_of_eccCheck (s : State) (e : Fin 12) (heccCheck : (s.eccCheck [11] 2).1 = 2) :
    exec (.engineFault e) s = .next ((s.eccCheck [11] 2).2.2.engineFault e.val (s.eccCheck [11] 2).2.1) := by
  show execEngineFault e s = _
  simp [execEngineFault, heccCheck]

theorem replayEnd_of_arrived_frame (s t : State) (n : Fin 8) (c : Nat) (hplaying : (s.slice n.val).playing = true)
    (hend : s.rplyEnd n.val = some c) (ht : t = (if c = 3 then s else s.reframeArrived n.val))
    (hstill : (t.slice n.val).playing = true) :
    exec (.replayEnd n) s = .next ((t.endReplay n.val c).ladderMissed n.val) := by
  show execReplayEnd n s = _
  rw [execReplayEnd, if_pos hplaying, hend]
  dsimp only
  rw [← ht, if_pos hstill, ok]

theorem loopTrigger_of_trig (s : State) (t : Fin 16) (l : Fin 80) (hle : t.val ≠ 0)
    (htrig : s.rf (R.BAS_LCFG l.val) F.BAS_LCFG_TRIG = t.val) :
    exec (.loopTrigger t l) s = .next (s.trigger l.val) := by
  show execLoopTrigger t l s = _
  simp [execLoopTrigger, hle, htrig]

theorem loopEnable_of_en (s : State) (i : Initiator) (l : Fin 80) (v : Word)
    (hen : s.loopMayTake i l.val (fset v F.BAS_LCFG_EN 1) = true) :
    exec (.loopEnable i l v) s = .next (s.takeLcfg l.val (fset v F.BAS_LCFG_EN 1)) := by
  show execLoopEnable i l v s = _
  simp [execLoopEnable, hen, State.writeLcfg]

theorem loopDisable_of_en (s : State) (i : Initiator) (l : Fin 80) (v : Word)
    (hen : s.loopMayTake i l.val (fset v F.BAS_LCFG_EN 0) = true) :
    exec (.loopDisable i l v) s = .next (s.takeLcfg l.val (fset v F.BAS_LCFG_EN 0)) := by
  show execLoopDisable i l v s = _
  simp [execLoopDisable, hen, State.writeLcfg]

theorem loopClear_of_clr (s : State) (i : Initiator) (l : Fin 80)
    (hclr : s.loopMayTake i l.val (fset (s.rd (R.BAS_LCFG l.val)) F.BAS_LCFG_CLR 1) = true) :
    exec (.loopClear i l) s = .next (s.takeLcfg l.val (fset (s.rd (R.BAS_LCFG l.val)) F.BAS_LCFG_CLR 1)) := by
  show execLoopClear i l s = _
  simp [execLoopClear, hclr, State.writeLcfg]

theorem bankSwap_of_swap (s : State) (i : Initiator) (l : Fin 80)
    (hswap : s.loopMayTake i l.val (fset (s.rd (R.BAS_LCFG l.val)) F.BAS_LCFG_SWAP 1) = true) :
    exec (.bankSwap i l) s = .next (s.takeLcfg l.val (fset (s.rd (R.BAS_LCFG l.val)) F.BAS_LCFG_SWAP 1)) := by
  show execBankSwap i l s = _
  simp [execBankSwap, hswap, State.writeLcfg]

theorem integratorWrite_of_basOpen_wr (s t : State) (i : Initiator) (l : Fin 80) (v : Word)
    (hbasOpen : s.basOpen i = true) (hwr : t = s.wr (R.BAS_LINT_HI l.val) (word (v.toNat % 256))) :
    exec (.integratorWrite i l v) s
      = .next (t.setLoop l.val { t.loop l.val with
          intWrite := some (signedOf 40 (v.toNat % 256 * 2 ^ 32 + (t.rd (R.BAS_LINT_LO l.val)).toNat)) }) := by
  show execIntegratorWrite i l v s = _
  simp [execIntegratorWrite, hbasOpen, hwr, State.writeLintHi]

theorem generalInputWrite_of_basOpen_value (s t : State) (i : Initiator) (k : Fin 16) (v : Word)
    (hbasOpen : s.basOpen i = true) (hvalue : t = s.wf (R.BAS_GIN k.val) F.BAS_GIN_VALUE (fget v F.BAS_GIN_VALUE)) :
    exec (.generalInputWrite i k v) s
      = .next { t with bas := { t.bas with gin := spSet 0 t.bas.gin k.val (t.bas.stamp + 1), stamp := t.bas.stamp + 1 } } := by
  show execGeneralInputWrite i k v s = _
  simp [execGeneralInputWrite, hbasOpen, hvalue, State.writeGin]

/-- Settles O60: each row of bring-up, the modes, the host's pages, Quarry and the loops has its own effect. -/
theorem rowsOfFiveUnitsComplete : Obligations.RowsOfFiveUnitsComplete :=
  ⟨kenulSlotCheck_of_first_slot, kenulApply_of_slotA_slotB_kenul, loaderCheck_judges, fuseProgram_starts,
    fuseRevoke_starts, fuseOpDone_of_fuseOp_refused_with, havenSettled_next,
    dormantEntryProgress_of_trans_ackedCtxs, dormantWakeExpiry_of_mode_wakeTimer_phase,
    dormantWorkDone_of_mode_phase_trans, modeTransitionComplete_of_trans_setReady, heldDataWrite_of_last_write,
    unloadStall_of_actSt_stallRun, unloadTimeout_of_actSt, vcmVelocitySample_at_rest,
    speedRegulated_of_milSt_ms_setMillstone, stopComplete_of_milSt_phase_calmFor, coastToIdle_of_milSt_calmFor,
    hostConfigRead_of_pers_hp, hostBar0Read_of_pers_hp, hostConfigWrite_of_msix_word,
    hostBar0Write_of_pers_hp_ofs, shadowStage_of_room, shadowRead_of_word, shadowCommit_and_discard,
    shadowCommitEffect_next, inquiry_standard, identifyDevice_of_sata, descriptorPush_next, descriptorFlush_next,
    engineDispatch_of_engineFree_bestSlot, decodeComplete_of_engineSlot, completionPost_of_qents,
    completionPop_of_qryOpen_pop, engineFault_of_eccCheck, engineFaultClear_next, replayEnd_of_arrived_frame,
    ringFind_of_ldOpen, ringFindDone_not_found, loopTrigger_of_trig, basaltTick_next, loopKick_of_basOpen_loop,
    loopEnable_of_en, loopDisable_of_en, loopClear_of_clr, bankSwap_of_swap, integratorWrite_of_basOpen_wr,
    generalInputWrite_of_basOpen_value, servoHwmClear_of_basOpen_clr, loopRun_of_chooseLoop_l⟩

end Sys2Proof.Machine
end
section
/-!
What the host pages' obligation comes to (R106, R109). The places of the PCI Express and MSI-X capabilities are constants
without a body (log 11), and the model tests for the MSI-X control word first: where the place of the Device Control word
is the same, a reset that a host writes there is not seen. So O36 says that the two places are apart, which no proof can
decide; this file proves that it says neither more nor less.
-/

namespace Sys2Proof.Machine

@[simp] theorem link_setShadow (s : State) (g w : Nat) (v : Word) :
    ((s.setShadow g w v).hp g).link = (s.hp g).link := by
  rw [State.setShadow, hp_setHp_self]

@[simp] theorem link_hostWord (s : State) (g w : Nat) (v : Word) :
    ((s.hostWord g w v).hp g).link = (s.hp g).link := by
  unfold State.hostWord
  dsimp only
  split
  · rw [link_setShadow, link_setShadow]
  · rw [link_setShadow]

theorem link_sendMsix (s : State) (g v : Nat) : ((s.sendMsix g v).hp g).link = (s.hp g).link := by
  unfold State.sendMsix
  dsimp only
  split_ifs
  · rfl
  · exact link_setShadow s g _ _
  · exact link_setShadow s g _ _

/-- The messages that are held leave the link as it is. -/
theorem link_sendHeld (s : State) (g v n : Nat) : ((s.sendHeld g v n).hp g).link = (s.hp g).link := by
  induction n generalizing s v with
  | zero => rfl
  | succ n ih =>
    rw [State.sendHeld, ih]
    split
    · exact link_sendMsix s g v
    · rfl

/-- A group that is reset has no link up: one that was up trains again. -/
theorem link_resetGroup (s : State) (g : Nat) : ((s.resetGroup g).hp g).link ≠ .up := by
  unfold State.resetGroup
  dsimp only
  split
  · rw [hp_setHp_self]
    exact LinkState.noConfusion
  · assumption

/-- A reset written to the Device Control word resets the group where that is not the MSI-X control word as well. -/
theorem hostConfigWrite_resets (happart : capPcieWord + 2 ≠ capMsixWord) (s : State) (g : Fin 2) (ofs : Nat) (v : Word)
    (hpers : s.pers g.val = 1) (hlink : (s.hp g.val).link = .up) (hofs : ofs % 0x1000 / 4 = capPcieWord + 2)
    (hreset : bitAt v.toNat 15 = true) :
    exec (.hostConfigWrite g ofs v) s = .next ((s.hostWord g.val (capPcieWord + 2) v).resetGroup g.val) := by
  show execHostConfigWrite g ofs v s = _
  rw [execHostConfigWrite, if_neg (by simp [hpers, hlink]), hofs]
  dsimp only
  rw [if_neg happart, if_pos (by simp [hreset]), ok]

/-- Group 0 of `s` as an NVMe group with its link up. -/
def State.nvmeUp (s : State) : State := (s.wf (R.HP_CFG 0) F.HP_CFG_PERSONALITY 1).setHp 0 { link := .up }

theorem pers_nvmeUp (s : State) : s.nvmeUp.pers 0 = 1 := by
  show (s.wf (R.HP_CFG 0) F.HP_CFG_PERSONALITY 1).rf (R.HP_CFG 0) F.HP_CFG_PERSONALITY = 1
  exact rf_wf_same _ _ _ (by decide) (by decide)

theorem link_nvmeUp (s : State) : (s.nvmeUp.hp 0).link = .up := by
  rw [State.nvmeUp, hp_setHp_self]

/-- Where the two words are one, a reset that is written there leaves the link up. -/
theorem not_hostConfigWrite_resets (hsame : capPcieWord + 2 = capMsixWord) (s : State) :
    exec (.hostConfigWrite 0 (4 * (capPcieWord + 2)) 0x8000) s.nvmeUp
      ≠ .next ((s.nvmeUp.hostWord 0 (capPcieWord + 2) 0x8000).resetGroup 0) := by
  have hword : 4 * (capPcieWord + 2) % 0x1000 / 4 = capMsixWord := by
    rw [← hsame]
    unfold capPcieWord
    omega
  rw [hostConfigWrite_of_msix_word _ 0 _ _ (pers_nvmeUp s) (link_nvmeUp s) hword]
  intro h
  have hstates := Host.Outcome.next.inj h
  refine link_resetGroup (s.nvmeUp.hostWord 0 (capPcieWord + 2) 0x8000) 0 ?_
  rw [← hstates]
  exact (link_sendHeld _ _ _ _).trans ((link_hostWord _ _ _ _).trans (link_nvmeUp s))

/-- O36 holds exactly where the Device Control word is not the MSI-X control word. -/
theorem hostPagesAreShadowed_iff : Obligations.HostPagesAreShadowed ↔ capPcieWord + 2 ≠ capMsixWord := by
  constructor
  · rintro ⟨-, -, -, hresets, -⟩ hsame
    have hofs : 4 * (capPcieWord + 2) % 0x1000 / 4 = capPcieWord + 2 := by
      unfold capPcieWord
      omega
    exact not_hostConfigWrite_resets hsame State.reset
      (hresets State.reset.nvmeUp 0 _ 0x8000 (pers_nvmeUp _) (link_nvmeUp _) hofs (by decide))
  · intro happart
    exact ⟨hostConfigRead_of_pers_hp, hostBar0Read_of_pers_hp, hostConfigWrite_plain, hostConfigWrite_resets happart,
      hostConfigWrite_of_msix_word, hostBar0Write_of_pers_hp_ofs, shadowStage_of_room, shadowRead_of_word,
      shadowCommit_of_not_pending, shadowDiscard_of_not_pending, shadowCommitEffect_of_one_word, inquiry_standard,
      identifyDevice_of_sata⟩

end Sys2Proof.Machine
end
